-- ==== Sys2Proof/Word.lean ====
section
/-! DEFINITION. The word types of the YX480's buses: 32-bit register words and bytes. -/

namespace Sys2Proof

/-- A register word as the bus carries it (R39, R494). -/
abbrev W32 := BitVec 32

/-- A 64-bit value, exposed as a `_LO`/`_HI` pair (R48). -/
abbrev W64 := BitVec 64

/-- One byte of a memory. -/
abbrev Byte := BitVec 8

end Sys2Proof
end

