-- ==== Sys2Proof/Types.lean ====
section
/-! DEFINITION. The operand types of the commands and events: pages, requesters, balls, frames and samples. -/

namespace Sys2Proof

/-- A requester ID (R64): each bus access carries one. IDs 12 to 15 are never issued (`WellFormed`). -/
abbrev Req := Fin 16

/-- The block types of the register pages (R40), and the three regions whose words are reached the same way but have
no common header: a Cirrus context record, a CLF slot bank and the CLF route table. -/
inductive Block where
  | sys | pwr | rst | evr | tbu | tmu | arb | dma | crc | gpio
  | tpw | cpw | act | pos | cir | adf | adh | adr | dcd | obc | msv | bch | can | clf | dbg
  | hlo | lks | sfi | sto | ssf | ghb | scf | slg
  | ctx | bank | route
deriving DecidableEq, Repr

/-- One page: a block and the number of its instance, counted from 0 (R40). -/
structure Page where
  blk : Block
  num : Nat
deriving DecidableEq, Repr

/-- A commit boundary (R53): the GENERAL boundary, a period start of a lock group, or a superframe boundary. -/
inductive Boundary where
  | general
  | group (g : Fin 15)
  | superframe
deriving DecidableEq, Repr

/-- The safety-supervisor balls that R474 reads back. -/
inductive OutBall where
  | alive | errOutP | errOutN | resetOut
deriving DecidableEq, Repr

/-- The two cores of a lockstep pair (R307). -/
inductive CoreSide where
  | main | checker
deriving DecidableEq, Repr

/-- A CAN frame (R411, R424). -/
structure CanFrame where
  ide : Bool
  id : Nat
  fdf : Bool
  brs : Bool
  esi : Bool
  /-- A remote frame; never queued (R411). -/
  rtr : Bool
  dlc : Fin 16
  data : List W32
deriving DecidableEq, Repr

/-- What ISO 11898-1 makes of a bus error (R415): the transmitter's count rises by 8 or, in its exceptions, not at all;
the receiver's rises by 1, or by 8 for a dominant bit after its error flag or a bit error in that flag. -/
inductive CanErr where
  | tx | txExempt | rx | rxFlag
deriving DecidableEq, Repr

/-- Analogue values of the four converters of a fast group, in nanovolts (R114). -/
structure Quad where
  c0 : Int
  c1 : Int
  c2 : Int
  c3 : Int
deriving DecidableEq, Repr

/-- The value of converter `c`. -/
def Quad.get (q : Quad) (c : Nat) : Int :=
  match c with
  | 0 => q.c0
  | 1 => q.c1
  | 2 => q.c2
  | _ => q.c3

/-- What a comparison of a lockstep pair, or a probe of its comparator, meets besides the compared words: nothing, an
output code that is neither agree nor disagree (R320), a parity error (R319), or a comparator that answers agree to a
probe (R321). -/
inductive CmpUpset where
  | none | rail | parity | blind
deriving DecidableEq, Repr

/-- What the ECC of a memory finds at an access (R389, R390). -/
inductive Ecc where
  | none | single | double
deriving DecidableEq, Repr

/-- An asynchronous input of a lockstep pair (R317). -/
inductive AsyncIn where
  | interrupt (cause : W32)
  | dmaDone (ch : Fin 16)
  | gpioRead (hi : Bool)
  | timeRead
  /-- The debugger writes an integer (0 to 31) or floating-point (32 to 63) register, a CSR, or the resume address. -/
  | debugReg (idx : Fin 64) (val : W32)
  | debugCsr (idx : BitVec 12) (val : W32)
  | debugPc (val : W32)
  | safeInputs (rec : W32)
deriving DecidableEq, Repr

/-- A request at a bus: requester, address, log2 of its bytes, and the value of a write (R393, R494). -/
structure BusReq where
  req : Req
  addr : Nat
  size : Fin 3
  write : Option W32
deriving DecidableEq, Repr

/-- A frame of the fabric (R428); LEN is four times the number of payload words. -/
structure ClfFrame where
  dest : Nat
  src : Nat
  stream : Nat
  type : Nat
  seq : Nat
  hops : Nat
  slot : Nat
  payload : List W32
deriving DecidableEq, Repr

/-- What a HELLO carries (R431), and what discovery has found when it arrives: the number of nodes, the hops to the best
candidate and its ID, which the spec reports in `CLF_TOPO`. -/
structure ClfHello where
  devId : Nat
  rootPri : Nat
  bestPri : Nat
  bestId : Nat
  /-- The node ID that the sender claims. -/
  claim : Option Nat
  nodes : Nat
  hops : Nat
  rootId : Nat
deriving DecidableEq, Repr

/-- A TIME frame at its arrival (R446): the root's time and the correction in fine units, its TABLE_ID and armed superframe,
the remaining hops, and whether its CHECK is good. -/
structure ClfTime where
  src : Nat
  hops : Nat
  t0 : Int
  corr : Nat
  table : Nat
  armed : Nat
  good : Bool
deriving DecidableEq, Repr

end Sys2Proof
end

