-- ==== Sys2Proof/Syntax.lean ====
section
/-! DEFINITION. Every command and event of the YX480: one constructor per row of the spec's table of operations and
events. The first operand of each is the number of Horizon ticks since the previous one (log 1). -/

namespace Sys2Proof

/-- The commands and events. `dt` is the number of ticks that pass before this one acts; `req` the requester (R64). -/
inductive Instr where
  /-- `POWER_VALID` (R457). -/
  | powerValid (dt : Nat) (boot : BitVec 2)
  /-- `SUPPLY_UV` (R458). -/
  | supplyUv (dt : Nat) (k : Fin 6)
  /-- `SUPPLY_OV` (R458). -/
  | supplyOv (dt : Nat) (k : Fin 6)
  /-- `NRESET_ASSERT` (R462). -/
  | nresetAssert (dt : Nat)
  /-- `NRESET_RELEASE` (R462). -/
  | nresetRelease (dt : Nat) (heldUs : Nat) (boot : BitVec 2)
  /-- `RST_CMD_DEVICE` (R466). -/
  | rstCmdDevice (dt : Nat) (req : Req)
  /-- `RST_CMD_AP0` (R466). -/
  | rstCmdAp0 (dt : Nat) (req : Req)
  /-- `RST_CMD_AP1` (R466). -/
  | rstCmdAp1 (dt : Nat) (req : Req)
  /-- `PAIR_RESTART` (R466). -/
  | pairRestart (dt : Nat) (p : Fin 2)
  /-- `DEBUG_SYSTEM_RESET` (R463). -/
  | debugSystemReset (dt : Nat)
  /-- `BOOT_SLOT_CHECK` (R469). -/
  | bootSlotCheck (dt : Nat) (slot : Fin 2) (err : Bool)
  /-- `BOOT_HANDOVER` (R471). -/
  | bootHandover (dt : Nat)
  /-- `BOOT_TIMEOUT` (R24). -/
  | bootTimeout (dt : Nat)
  /-- `START_TEST_COMPLETE` (R472). -/
  | startTestComplete (dt : Nat) (pass : Bool)
  /-- `SELFTEST_TIMEOUT` (R24). -/
  | selftestTimeout (dt : Nat)
  /-- `KEY_REVOKE` (R470). -/
  | keyRevoke (dt : Nat) (req : Req) (bits : BitVec 2)
  /-- `OUT_READBACK` (R474). -/
  | outReadback (dt : Nat) (ball : OutBall)
  /-- `JTAG_BYPASS` (R475). -/
  | jtagBypass (dt : Nat)
  /-- `JTAG_IDCODE` (R475). -/
  | jtagIdcode (dt : Nat)
  /-- `JTAG_SAMPLE_PRELOAD` (R475). -/
  | jtagSamplePreload (dt : Nat) (cells : List (Nat × Bool))
  /-- `JTAG_DTM` (R475). -/
  | jtagDtm (dt : Nat)
  /-- `JTAG_EXTEST` (R475). -/
  | jtagExtest (dt : Nat)
  /-- `JTAG_CLAMP` (R475). -/
  | jtagClamp (dt : Nat)
  /-- `JTAG_HIGHZ` (R475). -/
  | jtagHighz (dt : Nat)
  /-- `STANDBY` (R24). -/
  | standby (dt : Nat) (req : Req)
  /-- `DRIVE` (R24). -/
  | drive (dt : Nat) (req : Req)
  /-- `CHARGE` (R24). -/
  | charge (dt : Nat) (req : Req)
  /-- `SERVICE` (R24). -/
  | service (dt : Nat) (req : Req)
  /-- `SAFE_HOLD` (R24). -/
  | safeHold (dt : Nat) (req : Req)
  /-- `STATE_TRANSITION_DONE` (R26). -/
  | stateTransitionDone (dt : Nat)
  /-- `REGISTER_WRITE` (R45). -/
  | registerWrite (dt : Nat) (req : Req) (addr : Nat) (be : BitVec 4) (val : W32)
  /-- `KEY_WRITE` (R46). -/
  | keyWrite (dt : Nat) (req : Req) (page : Page) (val : W32)
  /-- `UNLOCK_LAPSE` (R46). -/
  | unlockLapse (dt : Nat) (req : Req) (page : Page)
  /-- `PAIR_READ_LO` (R48). -/
  | pairReadLo (dt : Nat) (req : Req) (addr : Nat)
  /-- `PAIR_READ_HI` (R48). -/
  | pairReadHi (dt : Nat) (req : Req) (addr : Nat)
  /-- `PAIR_WRITE_LO` (R48). -/
  | pairWriteLo (dt : Nat) (req : Req) (addr : Nat) (val : W32)
  /-- `PAIR_WRITE_HI` (R48). -/
  | pairWriteHi (dt : Nat) (req : Req) (addr : Nat) (val : W32)
  /-- `SOFT_RST` (R43). -/
  | softRst (dt : Nat) (req : Req) (page : Page)
  /-- `EVT_FORCE` (R41). -/
  | evtForce (dt : Nat) (req : Req) (page : Page) (val : W32)
  /-- `EVT_CLEAR` (R44). -/
  | evtClear (dt : Nat) (req : Req) (page : Page) (val : W32) (hw : W32)
  /-- `CSET_STAGE` (R49). -/
  | csetStage (dt : Nat) (req : Req) (page : Page) (val : W32)
  /-- `CSET_COMMIT` (R54). -/
  | csetCommit (dt : Nat) (req : Req) (page : Page) (val : W32)
  /-- `CSET_ABORT` (R49). -/
  | csetAbort (dt : Nat) (req : Req) (page : Page) (val : W32)
  /-- `DOMAIN_COMMIT` (R53). -/
  | domainCommit (dt : Nat) (b : Boundary)
  /-- `OWNER_ACQ` (R58). -/
  | ownerAcq (dt : Nat) (req : Req) (lock : Nat) (rival : Option Req)
  /-- `OWNER_REL` (R58). -/
  | ownerRel (dt : Nat) (req : Req) (lock : Nat)
  /-- `REF_QUALIFIED` (R68). -/
  | refQualified (dt : Nat) (diffPpb : Int)
  /-- `DIRECT_LOCK` (R68). -/
  | directLock (dt : Nat)
  /-- `GLIDE_DONE` (R68). -/
  | glideDone (dt : Nat)
  /-- `REF_LOST` (R69). -/
  | refLost (dt : Nat)
  /-- `REF_NEVER` (R71). -/
  | refNever (dt : Nat)
  /-- `RATE_FAIL` (R72). -/
  | rateFail (dt : Nat)
  /-- `COUNT_MISMATCH` (R72). -/
  | countMismatch (dt : Nat)
  /-- `LG_PERIOD_START` (R75). -/
  | lgPeriodStart (dt : Nat) (g : Fin 15)
  /-- `CMP_MATCH` (R81). -/
  | cmpMatch (dt : Nat) (c : Fin 16)
  /-- `CAPTURE` (R82). -/
  | capture (dt : Nat) (c : Fin 16) (falling : Bool) (fine : Fin 128)
  /-- `CAP_STAMP_LO_READ` (R88). -/
  | capStampLoRead (dt : Nat) (req : Req) (c : Fin 16)
  /-- `INTERPOLATOR_SWAP` (R84). -/
  | interpolatorSwap (dt : Nat) (ix : Fin 100) (trimPs : Nat)
  /-- `CAL_STALE` (R84). -/
  | calStale (dt : Nat) (ix : Fin 100)
  /-- `SYNC_IN_EDGE` (R85). -/
  | syncInEdge (dt : Nat) (falling : Bool) (fine : Fin 128)
  /-- `SYNC_LOST` (R85). -/
  | syncLost (dt : Nat) (g : Fin 15)
  /-- `SYNC_OUT_END` (R86). -/
  | syncOutEnd (dt : Nat)
  /-- `STEER_LIMIT` (R87). -/
  | steerLimit (dt : Nat)
  /-- `TPW_CMP_WRITE` (R97). -/
  | tpwCmpWrite (dt : Nat) (req : Req) (n : Fin 6) (leg : Fin 3) (val : W32)
  /-- `TPW_UPDATE_POINT` (R98). -/
  | tpwUpdatePoint (dt : Nat) (n : Fin 6)
  /-- `TPW_PAT_SWITCH` (R103). -/
  | tpwPatSwitch (dt : Nat) (req : Req) (n : Fin 6)
  /-- `TPW_PAT_PI` (R103). -/
  | tpwPatPi (dt : Nat) (req : Req) (n : Fin 6)
  /-- `TPW_PAT_ASC_LOW` (R103). -/
  | tpwPatAscLow (dt : Nat) (req : Req) (n : Fin 6)
  /-- `TPW_PAT_ASC_HIGH` (R103). -/
  | tpwPatAscHigh (dt : Nat) (req : Req) (n : Fin 6)
  /-- `OUT_MISMATCH` (R106). -/
  | outMismatch (dt : Nat) (n : Fin 6) (ball : Fin 6)
  /-- `SHOOT_THROUGH` (R106). -/
  | shootThrough (dt : Nat) (n : Fin 6) (leg : Fin 3)
  /-- `ADF_HOLD` (R119). -/
  | adfHold (dt : Nat) (g : Fin 8)
  /-- `ADF_SLOT_LATCH` (R119). -/
  | adfSlotLatch (dt : Nat) (g : Fin 8) (vin : Quad) (late : BitVec 4)
  /-- `LATE_RESULT` (R120). -/
  | lateResult (dt : Nat) (g : Fin 8) (c : Fin 4)
  /-- `ADF_INJ_GO` (R123). -/
  | adfInjGo (dt : Nat) (req : Req) (g : Fin 8)
  /-- `ADF_INJ_LATCH` (R123). -/
  | adfInjLatch (dt : Nat) (g : Fin 8) (vin : Quad)
  /-- `ADF_OW_TEST` (R136). -/
  | adfOwTest (dt : Nat) (g : Fin 8) (ix : Fin 8) (vin : Int)
  /-- `CAL_STEP` (R137). -/
  | calStep (dt : Nat) (conv : Fin 36) (gain : Int) (ofs : Int)
  /-- `CAL_WINDOW_END` (R138). -/
  | calWindowEnd (dt : Nat)
  /-- `REF_BUFFER_READY` (R133). -/
  | refBufferReady (dt : Nat) (b : Fin 3)
  /-- `REF_MONITOR_CHECK` (R134). -/
  | refMonitorCheck (dt : Nat) (b : Fin 3) (dev : Bool)
  /-- `ADH_REG_TRIGGER` (R129). -/
  | adhRegTrigger (dt : Nat) (u : Fin 4)
  /-- `ADH_REGGO` (R129). -/
  | adhReggo (dt : Nat) (req : Req) (u : Fin 4)
  /-- `ADH_GO` (R130). -/
  | adhGo (dt : Nat) (req : Req) (u : Fin 4)
  /-- `ADH_ENTRY_LATCH` (R132). -/
  | adhEntryLatch (dt : Nat) (u : Fin 4) (vin : Int)
  /-- `CTX_TRIGGER` (R150). -/
  | ctxTrigger (dt : Nat) (k : Fin 256)
  /-- `UPDRAFT_PREDICT` (R159): the context, and whether a record word that the engine reads has an uncorrectable error. -/
  | updraftPredict (dt : Nat) (k : Fin 256 × Bool)
  /-- `CTX_EXEC_START` (R151). -/
  | ctxExecStart (dt : Nat) (k : Fin 256) (ecc : Bool)
  /-- `CTX_EXEC_COMPLETE` (R13). -/
  | ctxExecComplete (dt : Nat) (k : Fin 256) (second : Bool) (differ : Bool) (rail : Bool)
  /-- `UPDRAFT_CHECK` (R162). -/
  | updraftCheck (dt : Nat) (k : Fin 256)
  /-- `CTX_COMMIT` (R154). -/
  | ctxCommit (dt : Nat) (k : Fin 256)
  /-- `ENGINE_STALL` (R171). -/
  | engineStall (dt : Nat) (e : Fin 8)
  /-- `CIR_CLR_CNT` (R174). -/
  | cirClrCnt (dt : Nat) (req : Req) (k : Fin 256)
  /-- `CIR_TRIG` (R174). -/
  | cirTrig (dt : Nat) (req : Req) (k : Fin 256)
  /-- `RSV_SAMPLE` (R210). -/
  | rsvSample (dt : Nat) (n : Fin 3) (sn : BitVec 16) (cs : BitVec 16)
  /-- `RSV_PERIOD_CHECK` (R212). Its last four operand places carry nothing (log 102). -/
  | rsvPeriodCheck (dt : Nat) (n : Fin 3) (exc : Nat) (u1 u2 u3 u4 : Unit)
  /-- `ENC_EDGE` (R213). -/
  | encEdge (dt : Nat) (n : Fin 3) (a : Bool) (b : Bool)
  /-- `ENC_INDEX` (R213). -/
  | encIndex (dt : Nat) (n : Fin 3)
  /-- `ENC_SPEED_TIMEOUT` (R213). -/
  | encSpeedTimeout (dt : Nat) (n : Fin 3)
  /-- `HALL_EDGE` (R214). -/
  | hallEdge (dt : Nat) (n : Fin 3) (st : BitVec 3)
  /-- `FUSION_UPDATE` (R218). -/
  | fusionUpdate (dt : Nat) (n : Fin 3)
  /-- `REACQ_DECISION` (R225). -/
  | reacqDecision (dt : Nat) (n : Fin 3)
  /-- `REACQ_FAIL` (R226). -/
  | reacqFail (dt : Nat) (n : Fin 3)
  /-- `POS_RESTART` (R222). -/
  | posRestart (dt : Nat) (req : Req) (n : Fin 3)
  /-- `POS_SEED_ENC` (R213). -/
  | posSeedEnc (dt : Nat) (req : Req) (n : Fin 3)
  /-- `POS_CLR_CNT` (R229). -/
  | posClrCnt (dt : Nat) (req : Req) (n : Fin 3)
  /-- `MSV_TCMD_WRITE` (R232). -/
  | msvTcmdWrite (dt : Nat) (req : Req) (m : Fin 3) (val : W32)
  /-- `TCMD_TIMEOUT` (R232). -/
  | tcmdTimeout (dt : Nat) (m : Fin 3)
  /-- `MSV_RUN` (R250). -/
  | msvRun (dt : Nat) (req : Req) (m : Fin 3)
  /-- `MSV_STOP` (R250). -/
  | msvStop (dt : Nat) (req : Req) (m : Fin 3)
  /-- `MSV_DIR_FWD` (R234). -/
  | msvDirFwd (dt : Nat) (req : Req) (m : Fin 3)
  /-- `MSV_DIR_REV` (R234). -/
  | msvDirRev (dt : Nat) (req : Req) (m : Fin 3)
  /-- `MSV_DIR_BOTH` (R234). -/
  | msvDirBoth (dt : Nat) (req : Req) (m : Fin 3)
  /-- `MSV_ONESET_RESTORE` (R247). -/
  | msvOnesetRestore (dt : Nat) (req : Req) (m : Fin 3)
  /-- `MSV_ACK` (R250). -/
  | msvAck (dt : Nat) (req : Req) (m : Fin 3)
  /-- `MSV_CLR_CNT` (R250). -/
  | msvClrCnt (dt : Nat) (req : Req) (m : Fin 3)
  /-- `LH_PIN_SAMPLE` (R248). -/
  | lhPinSample (dt : Nat) (pin : Fin 9) (code : BitVec 12)
  /-- `CMD_PIN_EDGE` (R248). -/
  | cmdPinEdge (dt : Nat) (pin : Fin 9) (falling : Bool)
  /-- `BCH_ACK` (R243). -/
  | bchAck (dt : Nat) (req : Req)
  /-- `BCH_CLR_CNT` (R254). -/
  | bchClrCnt (dt : Nat) (req : Req)
  /-- `DCD_VSET_WRITE` (R261). -/
  | dcdVsetWrite (dt : Nat) (req : Req) (val : W32)
  /-- `DCD_START` (R265). -/
  | dcdStart (dt : Nat) (req : Req)
  /-- `DCD_STOP` (R265). -/
  | dcdStop (dt : Nat) (req : Req)
  /-- `DCD_ACK` (R265). -/
  | dcdAck (dt : Nat) (req : Req)
  /-- `DCD_CLR_CNT` (R265). -/
  | dcdClrCnt (dt : Nat) (req : Req)
  /-- `DCD_TEST_TIMEOUT` (R263). -/
  | dcdTestTimeout (dt : Nat) (p : Fin 4)
  /-- `SOFTSTART_TO` (R264). -/
  | softstartTo (dt : Nat)
  /-- `CP_SAMPLE` (R275). -/
  | cpSample (dt : Nat) (mv : Int) (edge : Option (Bool × Nat))
  /-- `PP_SAMPLE` (R277). -/
  | ppSample (dt : Nat) (vpp : Int) (vdda : Int)
  /-- `OBC_BMS_FRAME` (R279). -/
  | obcBmsFrame (dt : Nat) (req : Req) (val : W32)
  /-- `BMS_TIMEOUT` (R279). -/
  | bmsTimeout (dt : Nat)
  /-- `OBC_START` (R284). -/
  | obcStart (dt : Nat) (req : Req) (dir : Bool)
  /-- `OBC_STOP` (R284). -/
  | obcStop (dt : Nat) (req : Req)
  /-- `OBC_SET_DIR` (R284). -/
  | obcSetDir (dt : Nat) (req : Req) (dir : Bool)
  /-- `OBC_ACK` (R284). -/
  | obcAck (dt : Nat) (req : Req)
  /-- `OBC_CLR_CNT` (R284). -/
  | obcClrCnt (dt : Nat) (req : Req)
  /-- `OBC_PHASE_COUNT_DONE` (R284). -/
  | obcPhaseCountDone (dt : Nat)
  /-- `PRECHARGE_TO` (R283). -/
  | prechargeTo (dt : Nat)
  /-- `TIMER_EXPIRED` (R282). -/
  | timerExpired (dt : Nat) (t : Fin 3)
  /-- `OBC_STOP_BOUND` (R285). -/
  | obcStopBound (dt : Nat)
  /-- `OBC_PFC_INHIBIT` (R286). -/
  | obcPfcInhibit (dt : Nat)
  /-- `ACT_CMP_WRITE` (R293). -/
  | actCmpWrite (dt : Nat) (req : Req) (n : Fin 6) (leg : Fin 3) (val : W32)
  /-- `ACT_TGT_WRITE` (R298). -/
  | actTgtWrite (dt : Nat) (req : Req) (n : Fin 6) (val : W32)
  /-- `ACT_HALL_EDGE` (R294). -/
  | actHallEdge (dt : Nat) (n : Fin 6) (st : BitVec 3)
  /-- `ACT_BEMF_EDGE` (R295). -/
  | actBemfEdge (dt : Nat) (n : Fin 6)
  /-- `ACT_ALIGN_END` (R295). -/
  | actAlignEnd (dt : Nat) (n : Fin 6)
  /-- `ACT_FORCED_COMMUTATION` (R295). -/
  | actForcedCommutation (dt : Nat) (n : Fin 6)
  /-- `SENSORLESS_START` (R295). -/
  | sensorlessStart (dt : Nat) (n : Fin 6)
  /-- `ACT_SPEED_TIMEOUT` (R296). -/
  | actSpeedTimeout (dt : Nat) (n : Fin 6)
  /-- `ACT_RUN` (R304). -/
  | actRun (dt : Nat) (req : Req) (n : Fin 6)
  /-- `ACT_SEQ` (R304). -/
  | actSeq (dt : Nat) (req : Req) (n : Fin 6)
  /-- `ACT_BRAKE` (R304). -/
  | actBrake (dt : Nat) (req : Req) (n : Fin 6)
  /-- `ACT_STOP` (R304). -/
  | actStop (dt : Nat) (req : Req) (n : Fin 6)
  /-- `ACT_ACK` (R304). -/
  | actAck (dt : Nat) (req : Req) (n : Fin 6)
  /-- `ACT_CLR_CNT` (R304). -/
  | actClrCnt (dt : Nat) (req : Req) (n : Fin 6)
  /-- `ACT_SET_POS` (R304). -/
  | actSetPos (dt : Nat) (req : Req) (n : Fin 6)
  /-- `SEQ_TIMEOUT` (R302). -/
  | seqTimeout (dt : Nat) (n : Fin 6)
  /-- `INSTRUCTION_RETIRE` (R309). -/
  | instructionRetire (dt : Nat) (pair : Fin 3) (side : CoreSide) (word : BitVec 192)
  /-- `EARLY_COMPARE` (R311). -/
  | earlyCompare (dt : Nat) (pair : Fin 3) (mbe : BitVec 4) (maddr : W32) (cbe : BitVec 4) (caddr : W32) (u : CmpUpset)
  /-- `LOAD_RESPONSE` (R311). -/
  | loadResponse (dt : Nat) (pair : Fin 3)
  /-- `COMPARE_ENTRY` (R310). -/
  | compareEntry (dt : Nat) (pair : Fin 3) (u : CmpUpset)
  /-- `LAG_TIMEOUT` (R312). -/
  | lagTimeout (dt : Nat) (pair : Fin 3) (early : Option Nat)
  /-- `TRANS_WINDOW_START` (R315). -/
  | transWindowStart (dt : Nat)
  /-- `ASYNC_INPUT_TAKEN` (R317). -/
  | asyncInputTaken (dt : Nat) (pair : Fin 3) (inp : AsyncIn)
  /-- `COMPARATOR_PROBE` (R321). -/
  | comparatorProbe (dt : Nat) (cmp : Fin 4) (u : CmpUpset)
  /-- `SELFTEST_MISS` (R321). -/
  | selftestMiss (dt : Nat) (cmp : Fin 4)
  /-- `DEBUG_HALT_REQUEST` (R324). -/
  | debugHaltRequest (dt : Nat) (pair : Fin 3)
  /-- `DEBUG_HALTED` (R324). -/
  | debugHalted (dt : Nat) (pair : Fin 3)
  /-- `DEBUG_STEP` (R324). -/
  | debugStep (dt : Nat) (pair : Fin 3)
  /-- `DEBUG_RESUME` (R324). -/
  | debugResume (dt : Nat) (pair : Fin 3)
  /-- `LKS_CLR_CNT` (R329). -/
  | lksClrCnt (dt : Nat) (req : Req)
  /-- `LKS_PROBE` (R329). -/
  | lksProbe (dt : Nat) (req : Req)
  /-- `HLO_ACK` (R332). -/
  | hloAck (dt : Nat) (req : Req) (mask : BitVec 3)
  /-- `HLO_CLR_LOG` (R356). -/
  | hloClrLog (dt : Nat) (req : Req)
  /-- `HLO_CLR_FIRST` (R351). -/
  | hloClrFirst (dt : Nat) (req : Req)
  /-- `WATCHDOG_KICK` (R352). -/
  | watchdogKick (dt : Nat) (req : Req) (val : W32)
  /-- `WATCHDOG` (R352). -/
  | watchdog (dt : Nat)
  /-- `GHB_READBACK` (R334). -/
  | ghbReadback (dt : Nat) (line : Fin 15)
  /-- `STO_RELEASE` (R338). -/
  | stoRelease (dt : Nat) (req : Req) (mask : BitVec 3)
  /-- `STO_ASSERT` (R338). -/
  | stoAssert (dt : Nat) (req : Req) (mask : BitVec 3)
  /-- `STO_CONV_RELEASE` (R339). -/
  | stoConvRelease (dt : Nat) (req : Req)
  /-- `STO_CONV_ASSERT` (R339). -/
  | stoConvAssert (dt : Nat) (req : Req)
  /-- `STO_PATH_B_RELEASE` (R337). -/
  | stoPathBRelease (dt : Nat) (line : Fin 4)
  /-- `STO_READBACK` (R337). -/
  | stoReadback (dt : Nat) (ball : Fin 8)
  /-- `STO_PATH` (R337). -/
  | stoPath (dt : Nat) (line : Fin 4)
  /-- `SFI_SAMPLE` (R340). -/
  | sfiSample (dt : Nat) (rec1 : BitVec 32) (rec2 : BitVec 32) (fb : BitVec 4)
  /-- `TPO_PULSE_START` (R344). -/
  | tpoPulseStart (dt : Nat) (j : Fin 4)
  /-- `TPO_PULSE_END` (R344). -/
  | tpoPulseEnd (dt : Nat) (j : Fin 4)
  /-- `SFI_ACK` (R357). -/
  | sfiAck (dt : Nat) (req : Req) (k : Fin 16)
  /-- `SFI_CLR_CNT` (R357). -/
  | sfiClrCnt (dt : Nat) (req : Req)
  /-- `SSF_SS1` (R346). -/
  | ssfSs1 (dt : Nat) (req : Req) (mask : BitVec 3)
  /-- `SSF_BRAKE_APPLY` (R349). -/
  | ssfBrakeApply (dt : Nat) (req : Req) (ch : BitVec 2)
  /-- `SSF_BRAKE_RELEASE` (R349). -/
  | ssfBrakeRelease (dt : Nat) (req : Req) (ch : BitVec 2)
  /-- `SSF_SBC_ACK` (R348). -/
  | ssfSbcAck (dt : Nat) (req : Req) (ch : BitVec 2)
  /-- `SSF_CLR_CNT` (R359). -/
  | ssfClrCnt (dt : Nat) (req : Req)
  /-- `SS1_TIMEOUT` (R347). -/
  | ss1Timeout (dt : Nat) (m : Fin 3)
  /-- `SBC_APPLY_DELAY` (R349). -/
  | sbcApplyDelay (dt : Nat) (c : Fin 2)
  /-- `SBC_TEST_START` (R348). -/
  | sbcTestStart (dt : Nat) (c : Fin 2) (ls : Bool)
  /-- `SBC_TEST_END` (R348). -/
  | sbcTestEnd (dt : Nat) (c : Fin 2) (fb1 : Bool) (fb2 : Bool)
  /-- `SCF_OPEN` (R366). -/
  | scfOpen (dt : Nat) (req : Req) (len : Fin 64)
  /-- `SCF_CLOSE` (R368). -/
  | scfClose (dt : Nat) (req : Req)
  /-- `SCF_SET_PWD` (R368). -/
  | scfSetPwd (dt : Nat) (req : Req) (len : Fin 64)
  /-- `SCF_CONFIRM` (R363). -/
  | scfConfirm (dt : Nat) (req : Req)
  /-- `SCF_REVERT` (R363). -/
  | scfRevert (dt : Nat) (req : Req)
  /-- `SCF_STORE_DONE` (R364). -/
  | scfStoreDone (dt : Nat) (ok : Bool)
  /-- `LOCKOUT_END` (R366). -/
  | lockoutEnd (dt : Nat)
  /-- `SESSION_TIMEOUT` (R367). -/
  | sessionTimeout (dt : Nat)
  /-- `SLG_RDSEQ_WRITE` (R376). -/
  | slgRdseqWrite (dt : Nat) (req : Req) (val : W32)
  /-- `SLG_COPY_DONE` (R376). -/
  | slgCopyDone (dt : Nat)
  /-- `ZENITH_SCAN` (R377). -/
  | zenithScan (dt : Nat) (temps : Vector Int 24)
  /-- `BUS_ACCESS` (R393). -/
  | busAccess (dt : Nat) (reqs : List BusReq) (ecc : Ecc)
  /-- `ARB_WINDOW_START` (R393). -/
  | arbWindowStart (dt : Nat)
  /-- `STARVATION` (R395). -/
  | starvation (dt : Nat) (req : Req) (bank : Nat)
  /-- `SCRUB_ACCESS` (R390). -/
  | scrubAccess (dt : Nat) (bank : Fin 25) (ecc : Ecc)
  /-- `FLS_PROGRAM` (R391). -/
  | flsProgram (dt : Nat) (req : Req)
  /-- `FLS_ERASE` (R391). -/
  | flsErase (dt : Nat) (req : Req)
  /-- `FLASH_OP_DONE` (R391). -/
  | flashOpDone (dt : Nat) (ok : Bool)
  /-- `ARB_CLR_CNT` (R396). -/
  | arbClrCnt (dt : Nat) (req : Req)
  /-- `DMA_START` (R409). -/
  | dmaStart (dt : Nat) (req : Req) (ch : Fin 16)
  /-- `DMA_STOP` (R409). -/
  | dmaStop (dt : Nat) (req : Req) (ch : Fin 16)
  /-- `DMA_CLR_CNT` (R409). -/
  | dmaClrCnt (dt : Nat) (req : Req) (ch : Fin 16)
  /-- `DMA_PERIPH_REQUEST` (R398). -/
  | dmaPeriphRequest (dt : Nat) (ch : Fin 16)
  /-- `DMA_RECORD_DONE` (R399). -/
  | dmaRecordDone (dt : Nat) (ch : Fin 16) (err : Bool)
  /-- `DMA_BLOCK_BURST` (R397). -/
  | dmaBlockBurst (dt : Nat) (ch : Fin 16) (err : Bool)
  /-- `DMA_BLOCK_DONE` (R402). -/
  | dmaBlockDone (dt : Nat) (ch : Fin 16)
  /-- `DMA_RPTR_WRITE` (R400). -/
  | dmaRptrWrite (dt : Nat) (req : Req) (ch : Fin 16) (val : W32)
  /-- `CRC_START` (R404). -/
  | crcStart (dt : Nat) (req : Req) (ix : Fin 4)
  /-- `CRC_DIN_WRITE` (R404). -/
  | crcDinWrite (dt : Nat) (req : Req) (ix : Fin 4) (be : BitVec 4) (val : W32)
  /-- `CAN_START` (R412). -/
  | canStart (dt : Nat) (req : Req) (ix : Fin 4)
  /-- `CAN_STOP` (R415). -/
  | canStop (dt : Nat) (req : Req) (ix : Fin 4)
  /-- `CAN_RECOVER` (R415). -/
  | canRecover (dt : Nat) (req : Req) (ix : Fin 4)
  /-- `CAN_TXU_ABORT` (R418). -/
  | canTxuAbort (dt : Nat) (req : Req) (ix : Fin 4)
  /-- `CAN_FLUSH` (R418). -/
  | canFlush (dt : Nat) (req : Req) (ix : Fin 4)
  /-- `CAN_CLR_CNT` (R424). -/
  | canClrCnt (dt : Nat) (req : Req) (ix : Fin 4)
  /-- `CAN_PUSH_FIFO` (R416). -/
  | canPushFifo (dt : Nat) (req : Req) (ix : Fin 4)
  /-- `CAN_PUSH_TXU` (R416). -/
  | canPushTxu (dt : Nat) (req : Req) (ix : Fin 4)
  /-- `CAN_START_OF_FRAME` (R417). -/
  | canStartOfFrame (dt : Nat) (ix : Fin 4)
  /-- `CAN_TX_DONE` (R417). -/
  | canTxDone (dt : Nat) (ix : Fin 4) (tdc : Fin 128)
  /-- `CAN_RX_FRAME` (R419). -/
  | canRxFrame (dt : Nat) (ix : Fin 4) (f : CanFrame)
  /-- `CAN_ERROR` (R415). -/
  | canError (dt : Nat) (ix : Fin 4) (e : CanErr)
  /-- `CAN_IDLE_DETECT` (R415). -/
  | canIdleDetect (dt : Nat) (ix : Fin 4)
  /-- `CAN_RECOVERY_DONE` (R415). -/
  | canRecoveryDone (dt : Nat) (ix : Fin 4)
  /-- `HEAD_AGE` (R418). -/
  | headAge (dt : Nat) (ix : Fin 4)
  /-- `CAN_RXPOP` (R420). -/
  | canRxpop (dt : Nat) (req : Req) (ix : Fin 4)
  /-- `CAN_HPPOP` (R420). -/
  | canHppop (dt : Nat) (req : Req) (ix : Fin 4)
  /-- `CLF_SIGNAL_DETECT` (R426). -/
  | clfSignalDetect (dt : Nat) (p : Fin 2)
  /-- `CLF_TRAIN_DONE` (R426). -/
  | clfTrainDone (dt : Nat) (p : Fin 2)
  /-- `CLF_TRAIN_TIMEOUT` (R426). -/
  | clfTrainTimeout (dt : Nat) (p : Fin 2) (oneLane : Bool)
  /-- `CLF_LANE_FAULT` (R426). -/
  | clfLaneFault (dt : Nat) (p : Fin 2) (both : Bool)
  /-- `CLF_RESCAN` (R431). -/
  | clfRescan (dt : Nat) (req : Req)
  /-- `CLF_RETRAIN` (R426). -/
  | clfRetrain (dt : Nat) (req : Req) (ports : BitVec 2)
  /-- `CLF_CLR_CNT` (R452). -/
  | clfClrCnt (dt : Nat) (req : Req)
  /-- `CLF_HELLO_SEND` (R431). -/
  | clfHelloSend (dt : Nat) (done : Bool)
  /-- `CLF_HELLO_RX` (R431). -/
  | clfHelloRx (dt : Nat) (p : Fin 2) (h : ClfHello) (done : Bool)
  /-- `CLF_ASSIGN_RX` (R432). -/
  | clfAssignRx (dt : Nat) (p : Fin 2) (id : Nat) (n : Nat) (hops : Nat)
  /-- `CLF_PD_REQUEST` (R445). -/
  | clfPdRequest (dt : Nat) (p : Fin 2) (fine : Fin 128)
  /-- `CLF_PDREQ_RX` (R445). -/
  | clfPdreqRx (dt : Nat) (p : Fin 2) (fine : Fin 128)
  /-- `CLF_PDRESP_RX` (R445). -/
  | clfPdrespRx (dt : Nat) (p : Fin 2) (t2 : Nat) (t3 : Nat) (fine : Fin 128)
  /-- `CLF_FRAME_RX` (R434). -/
  | clfFrameRx (dt : Nat) (p : Fin 2) (f : ClfFrame) (good : Bool) (marked : Bool)
  /-- `CLF_TIME_RX` (R446). -/
  | clfTimeRx (dt : Nat) (p : Fin 2) (f : ClfTime) (fine : Fin 128)
  /-- `CLF_TXBUF_READ` (R440). -/
  | clfTxbufRead (dt : Nat) (slot : Fin 255)
  /-- `CLF_SLOT_TX` (R440). -/
  | clfSlotTx (dt : Nat) (slot : Fin 255) (done : Bool)
  /-- `CLF_SUPERFRAME` (R437). -/
  | clfSuperframe (dt : Nat)
  /-- `CLF_SWAPAT_WRITE` (R442). -/
  | clfSwapatWrite (dt : Nat) (req : Req) (val : W32)
  /-- `CLF_SLOT_BANK_WRITE` (R441). -/
  | clfSlotBankWrite (dt : Nat) (req : Req) (addr : Nat) (be : BitVec 4) (val : W32)
  /-- `CLF_ROUTE_WRITE` (R434). -/
  | clfRouteWrite (dt : Nat) (req : Req) (addr : Nat) (be : BitVec 4) (val : W32)
  /-- `CLF_RING_RPTR_WRITE` (R435). -/
  | clfRingRptrWrite (dt : Nat) (req : Req) (k : Fin 16) (val : W32)
  /-- `SUPPLY_VALID` (R457). -/
  | supplyValid (dt : Nat) (k : Fin 6)
  /-- `ACT_SECTOR_ADVANCE` (R295). -/
  | actSectorAdvance (dt : Nat) (n : Fin 6)
  /-- `GHB_HALF_PERIOD` (R333). -/
  | ghbHalfPeriod (dt : Nat) (line : Fin 15)
  /-- `IMGCRC_RECOMPUTED` (R363). -/
  | imgcrcRecomputed (dt : Nat)
  /-- `LOG_PROGRAM_DONE` (R371). -/
  | logProgramDone (dt : Nat) (ok : Bool)
  /-- `ERROR_RATE_WINDOW_START` (R429). -/
  | errorRateWindowStart (dt : Nat)
deriving DecidableEq, Repr

end Sys2Proof
end

