-- ==== Sys2Proof/Decode.lean ====
section
/-! DEFINITION. Decoding of command words: the table of operations and events gives its rows no bits, so no word spells a
command (log 2). -/

namespace Sys2Proof

/-- The command that a word of `nbits` bits spells: none, for the table gives no row any bits. -/
def decodeTableWord (_nbits _w : Nat) : Option Instr := none

end Sys2Proof
end

