-- ==== Sys2Proof/Machine/Float.lean ====
section
/-! DEFINITION. IEEE 754 binary32 arithmetic as R180 fixes it: round to nearest, ties to even, subnormal operands and
results replaced by zero of the same sign, no exception flags. A finite value is computed exactly as a rational number
and rounded once. -/

namespace Sys2Proof.Machine

/-- A binary32 word. -/
abbrev F32 := W32

/-- A decoded binary32 value. -/
inductive FVal where
  | nan
  | inf (neg : Bool)
  /-- The value ±n/d, with `n = 0` for a zero of the sign. -/
  | fin (neg : Bool) (n d : Nat)
deriving DecidableEq, Repr

/-- Decode a word; a subnormal operand is a zero of its sign (R180). -/
def fval (x : F32) : FVal :=
  let u := x.toNat
  let neg := u.testBit 31
  let e := u / 2 ^ 23 % 256
  let m := u % 2 ^ 23
  if e = 255 then if m = 0 then .inf neg else .nan
  else if e = 0 then .fin neg 0 1
  else if 150 ≤ e then .fin neg ((2 ^ 23 + m) * 2 ^ (e - 150)) 1
  else .fin neg (2 ^ 23 + m) (2 ^ (150 - e))

/-- A subnormal word as the zero of its sign (R180). -/
def fflush (x : F32) : F32 := if x.toNat / 2 ^ 23 % 256 = 0 then x &&& 0x80000000#32 else x

/-- The canonical quiet NaN. -/
def fNaN : F32 := 0x7FC00000#32

/-- An infinity of a sign. -/
def fInf (neg : Bool) : F32 := if neg then 0xFF800000#32 else 0x7F800000#32

/-- A zero of a sign. -/
def fZero (neg : Bool) : F32 := if neg then 0x80000000#32 else 0#32

/-- `n / d` rounded to the nearest integer, ties to even. -/
def rne (n d : Nat) : Nat :=
  let q := n / d
  let r := n % d
  if 2 * r < d then q else if d < 2 * r then q + 1 else q + q % 2

/-- Round the rational ±n/d to binary32 (R180). -/
def fround (neg : Bool) (n d : Nat) : F32 :=
  if n = 0 then fZero neg
  else
    -- the exponent `e` for which 2^23 ≤ n/d·2^-e < 2^24
    let e0 : Int := (Nat.log2 n : Int) - Nat.log2 d - 23
    let scale (e : Int) : Nat × Nat := if 0 ≤ e then (n, d * 2 ^ e.toNat) else (n * 2 ^ (-e).toNat, d)
    let small (e : Int) : Bool := let (a, b) := scale e; decide (a < 2 ^ 23 * b)
    let e := if small e0 then e0 - 1 else e0
    let (a, b) := scale e
    let q := rne a b
    let (q, e) := if q = 2 ^ 24 then (2 ^ 23, e + 1) else (q, e)
    let biased := e + 150
    if 255 ≤ biased then fInf neg
    else if biased ≤ 0 then fZero neg
    else BitVec.ofNat 32 ((if neg then 2 ^ 31 else 0) + biased.toNat * 2 ^ 23 + (q - 2 ^ 23))

/-- Round a rational with a signed numerator; `zneg` is the sign of an exact zero. -/
def froundInt (zneg : Bool) (n : Int) (d : Nat) : F32 :=
  if n = 0 then fZero zneg else fround (decide (n < 0)) n.natAbs d

/-- The signed numerator. -/
def snum (neg : Bool) (n : Nat) : Int := if neg then -(n : Int) else n

/-- Addition. -/
def fadd (x y : F32) : F32 :=
  match fval x, fval y with
  | .nan, _ | _, .nan => fNaN
  | .inf a, .inf b => if a = b then fInf a else fNaN
  | .inf a, _ => fInf a
  | _, .inf b => fInf b
  | .fin a n d, .fin b m k => froundInt (a && b) (snum a n * k + snum b m * d) (d * k)

/-- Sign change. -/
def fneg (x : F32) : F32 := x ^^^ 0x80000000#32

/-- Absolute value. -/
def fabs (x : F32) : F32 := x &&& 0x7FFFFFFF#32

/-- Subtraction. -/
def fsub (x y : F32) : F32 := fadd x (fneg y)

/-- Multiplication. -/
def fmul (x y : F32) : F32 :=
  match fval x, fval y with
  | .nan, _ | _, .nan => fNaN
  | .inf a, .inf b => fInf (a != b)
  | .inf a, .fin b m _ => if m = 0 then fNaN else fInf (a != b)
  | .fin a n _, .inf b => if n = 0 then fNaN else fInf (a != b)
  | .fin a n d, .fin b m k => fround (a != b) (n * m) (d * k)

/-- Division. -/
def fdiv (x y : F32) : F32 :=
  match fval x, fval y with
  | .nan, _ | _, .nan => fNaN
  | .inf _, .inf _ => fNaN
  | .inf a, .fin b _ _ => fInf (a != b)
  | .fin a _ _, .inf b => fZero (a != b)
  | .fin a n d, .fin b m k =>
    if m = 0 then (if n = 0 then fNaN else fInf (a != b)) else fround (a != b) (n * k) (d * m)

/-- The integer square root by bits: the largest `r` with `r² ≤ v`, for `v < 4^k`. -/
def isqrt (v : Nat) : Nat → Nat → Nat
  | 0, r => r
  | k + 1, r => let t := r + 2 ^ k; isqrt v k (if t * t ≤ v then t else r)

/-- Square root, correctly rounded. -/
def fsqrt (x : F32) : F32 :=
  match fval x with
  | .nan => fNaN
  | .inf neg => if neg then fNaN else x
  | .fin neg n d =>
    if n = 0 then fZero neg
    else if neg then fNaN
    else
      -- n/d scaled by a power of four to about 60 bits; a root that is not exact never lies on a tie
      let e : Int := 60 - ((Nat.log2 n : Int) - Nat.log2 d)
      let e := e + e % 2
      let (a, b) := if 0 ≤ e then (n * 2 ^ e.toNat, d) else (n, d * 2 ^ (-e).toNat)
      let v := a / b
      let r := isqrt v 32 0
      let exact := decide (r * r * b = a)
      let (p, q) := if exact then (r, 1) else (2 * r + 1, 2)
      if 0 ≤ e / 2 then fround false p (q * 2 ^ (e / 2).toNat) else fround false (p * 2 ^ (-(e / 2)).toNat) q

/-- A signed integer as binary32. -/
def fint (v : Int) : F32 := froundInt false v 1

/-- A rational constant as the nearest binary32 value. -/
def frat (n : Int) (d : Nat) : F32 := froundInt false n d

/-- x < y; false when either is a NaN. -/
def flt (x y : F32) : Bool :=
  match fval x, fval y with
  | .nan, _ | _, .nan => false
  | .inf a, .inf b => a && !b
  | .inf a, _ => a
  | _, .inf b => !b
  | .fin a n d, .fin b m k => decide (snum a n * k < snum b m * d)

/-- x ≤ y; false when either is a NaN. -/
def fle (x y : F32) : Bool :=
  match fval x, fval y with
  | .nan, _ | _, .nan => false
  | .inf a, .inf b => a || !b
  | .inf a, _ => a
  | _, .inf b => !b
  | .fin a n d, .fin b m k => decide (snum a n * k ≤ snum b m * d)

/-- x = y as numbers. -/
def feq (x y : F32) : Bool := fle x y && fle y x

/-- The greater of two values; `x` when they compare equal or unordered. -/
def fmax (x y : F32) : F32 := if flt x y then y else x

/-- The lesser of two values; `x` when they compare equal or unordered. -/
def fmin (x y : F32) : F32 := if flt y x then y else x

/-- `x` limited to the range `lo` to `hi`. -/
def fclamp (x lo hi : F32) : F32 := if flt x lo then lo else if flt hi x then hi else x

/-- Whether a word is a number, neither NaN nor infinite. -/
def ffinite (x : F32) : Bool := x.toNat / 2 ^ 23 % 256 != 255

/-- The sign as a number: −1, 0 or 1. -/
def fsign (x : F32) : F32 := if flt x 0 then fint (-1) else if flt 0 x then fint 1 else 0

/-- Whether a word is finite and greater than 0. -/
def fpos (x : F32) : Bool := ffinite x && flt 0 x

/-- Whether a word is finite and at least 0. -/
def fnonneg (x : F32) : Bool := ffinite x && fle 0 x

/-- Whether a word is finite and lies from `lo` to `hi`. -/
def fin_ (x lo hi : F32) : Bool := ffinite x && fle lo x && fle x hi

/-- The floor of a finite value as an integer; 0 for the others. -/
def ffloorInt (x : F32) : Int :=
  match fval x with
  | .fin a n d => (snum a n) / (d : Int)
  | _ => 0

/-- The exact value rounded to the nearest integer, halves away from zero; 0 for the values that are not finite. -/
def froundToInt (x : F32) : Int :=
  match fval x with
  | .fin a n d => if a then -((2 * n + d) / (2 * d) : Nat) else ((2 * n + d) / (2 * d) : Nat)
  | _ => 0

/-- The floor of a value, as binary32. -/
def ffloor (x : F32) : F32 :=
  match fval x with
  | .fin a _ _ => let f := ffloorInt x; if f = 0 then fZero a else fint f
  | _ => x

/-- 0, 1, √3, 1/√3, 2π and 2.5·10⁻⁹ as binary32 (R181). -/
def f1 : F32 := 0x3F800000#32
def f2 : F32 := 0x40000000#32
def fSqrt3 : F32 := 0x3FDDB3D7#32
def fInvSqrt3 : F32 := 0x3F13CD3A#32
def f2Pi : F32 := 0x40C90FDB#32
def fTick : F32 := 0x312BCC77#32

/-- A duration in ticks as seconds: float(DT) × 2.5·10⁻⁹ (R182). -/
def fsec (ticks : Nat) : F32 := fmul (fint ticks) fTick


end Sys2Proof.Machine
end

