-- ==== Sys2Proof/Machine/Bits.lean ====
section
/-! DEFINITION. Bit-field, sign and byte-order helpers, and the canonical sparse map that registers and memory share. -/

namespace Sys2Proof.Machine

/-- Bits `hi` down to `lo` of a number. -/
def bits (v hi lo : Nat) : Nat := (v >>> lo) % 2 ^ (hi + 1 - lo)

/-- Bit `b` of a number. -/
def bit (v b : Nat) : Bool := v.testBit b

/-- `v` with bits `hi` down to `lo` replaced by the low bits of `x`. -/
def setBits (v hi lo x : Nat) : Nat :=
  v - (bits v hi lo <<< lo) + ((x % 2 ^ (hi + 1 - lo)) <<< lo)

/-- A mask of bits `hi` down to `lo`. -/
def mask (hi lo : Nat) : Nat := (2 ^ (hi + 1 - lo) - 1) <<< lo

/-- Read the low `w` bits of `v` as a two's complement number. -/
def signed (w v : Nat) : Int :=
  let u := v % 2 ^ w
  if u < 2 ^ (w - 1) then (u : Int) else (u : Int) - (2 ^ w : Nat)

/-- The two's complement code of `v` in `w` bits. -/
def unsigned (w : Nat) (v : Int) : Nat := (v % ((2 ^ w : Nat) : Int)).toNat

/-- `v` limited to the range `lo` to `hi`. -/
def clampInt (lo hi v : Int) : Int := if v < lo then lo else if hi < v then hi else v

/-- `v` limited to the range `lo` to `hi`. -/
def clampNat (lo hi v : Nat) : Nat := if v < lo then lo else if hi < v then hi else v

/-- One if `b`, else zero. -/
def b2n (b : Bool) : Nat := if b then 1 else 0

/-- `a / b` rounded to the nearest integer, halves away from zero (R114), for positive `b`. -/
def roundDiv (a : Int) (b : Nat) : Int :=
  if 0 ≤ a then ((2 * a + b) / (2 * b : Nat)) else -((2 * (-a) + b) / (2 * b : Nat))

/-- Byte `i` of a word in little-endian order. -/
def byteOf (v : W32) (i : Nat) : Byte := BitVec.ofNat 8 (v.toNat >>> (8 * i))

/-- The element of index `i` of a vector, and the vector with that element replaced. -/
def vget {α : Type} {n : Nat} (v : Vector α n) (i : Fin n) : α := v[i.1]'i.2

/-- The vector with element `i` replaced. -/
def vset {α : Type} {n : Nat} (v : Vector α n) (i : Fin n) (x : α) : Vector α n := v.set i.1 x i.2

@[simp] theorem vget_vset_same {α : Type} {n : Nat} (v : Vector α n) (i : Fin n) (x : α) :
    vget (vset v i x) i = x := by simp [vget, vset]

theorem vget_vset_other {α : Type} {n : Nat} (v : Vector α n) (i j : Fin n) (x : α) (h : i ≠ j) :
    vget (vset v i x) j = vget v j := by
  have : (i : Nat) ≠ j := fun e => h (Fin.ext e)
  simp [vget, vset, this]

/-! ### The canonical sparse map

A list of (key, value) pairs with rising keys. A key that is not listed reads as a default, and no listed value equals
the default of its key, so equal maps are equal lists. -/

/-- The value at key `a`, where `d` gives what an unlisted key reads as. -/
def mapGet {α : Type} (d : Nat → α) : List (Nat × α) → Nat → α
  | [], a => d a
  | (b, w) :: m, a => if a = b then w else mapGet d m a

/-- Remove key `a`. -/
def mapErase {α : Type} : List (Nat × α) → Nat → List (Nat × α)
  | [], _ => []
  | (b, w) :: m, a => if a = b then mapErase m a else (b, w) :: mapErase m a

/-- Insert `v` at its place among the rising keys. -/
def mapInsert {α : Type} : List (Nat × α) → Nat → α → List (Nat × α)
  | [], a, v => [(a, v)]
  | (b, w) :: m, a, v =>
    if a < b then (a, v) :: (b, w) :: m else (b, w) :: mapInsert m a v

/-- Write `v` at key `a`: writing the default removes the entry. -/
def mapSet {α : Type} [DecidableEq α] (d : Nat → α) (m : List (Nat × α)) (a : Nat) (v : α) : List (Nat × α) :=
  if v = d a then mapErase m a else mapInsert (mapErase m a) a v

/-- Keep only the keys that satisfy `p`. -/
def mapKeep {α : Type} (p : Nat → Bool) (m : List (Nat × α)) : List (Nat × α) := m.filter fun e => p e.1

/-- The canonical form: keys rise strictly from `lo` on, and no entry equals its default. -/
def mapWfFrom {α : Type} [DecidableEq α] (d : Nat → α) : Nat → List (Nat × α) → Bool
  | _, [] => true
  | lo, (b, w) :: m => decide (lo ≤ b) && decide (w ≠ d b) && mapWfFrom d (b + 1) m

/-- The canonical form of a whole map. -/
def mapWf {α : Type} [DecidableEq α] (d : Nat → α) (m : List (Nat × α)) : Bool := mapWfFrom d 0 m

end Sys2Proof.Machine
end

