-- ==== Sys2Proof/Machine/Page.lean ====
section
/-! DEFINITION. Where every page lives (R39, R40), the timing domain of its staged registers, and the description of a
register and of its fields. -/

namespace Sys2Proof.Machine

/-- The timing domains (R52), in the order of their codes. -/
inductive Domain where
  | general | measure | loop | traction | converter | actuator | fabric | safety
deriving DecidableEq, Repr

/-- The domain code of `CSET_STAT.DOM` (R52). -/
def Domain.code : Domain → Nat
  | .general => 0 | .measure => 1 | .loop => 2 | .traction => 3
  | .converter => 4 | .actuator => 5 | .fabric => 6 | .safety => 7

/-- The order in which an ORDERED set commits (R54), which is the order of the codes. -/
def Domain.all : List Domain :=
  [.general, .measure, .loop, .traction, .converter, .actuator, .fabric, .safety]

/-- One row of the page table (R40): base of instance 0, number of instances, block type, domain. -/
structure BlockInfo where
  base : Nat
  count : Nat
  type : Nat
  dom : Domain
deriving DecidableEq, Repr

/-- The page table (R40); the type is 0 for the three regions without a common header. -/
def blockInfo : Block → BlockInfo
  | .sys => ⟨0x40000000, 1, 0x0001, .general⟩
  | .pwr => ⟨0x40001000, 1, 0x0002, .general⟩
  | .rst => ⟨0x40002000, 1, 0x0003, .general⟩
  | .evr => ⟨0x40003000, 1, 0x0004, .general⟩
  | .tbu => ⟨0x40004000, 1, 0x0100, .general⟩
  | .tmu => ⟨0x40005000, 1, 0x0C00, .general⟩
  | .arb => ⟨0x40006000, 1, 0x0D00, .general⟩
  | .dma => ⟨0x40007000, 1, 0x0D01, .general⟩
  | .crc => ⟨0x40008000, 4, 0x0D02, .general⟩
  | .gpio => ⟨0x4000C000, 1, 0x0005, .general⟩
  | .tpw => ⟨0x40010000, 6, 0x0200, .traction⟩
  | .cpw => ⟨0x40018000, 8, 0x0201, .converter⟩
  | .act => ⟨0x40020000, 6, 0x0900, .actuator⟩
  | .pos => ⟨0x40030000, 3, 0x0500, .measure⟩
  | .cir => ⟨0x40040000, 1, 0x0400, .loop⟩
  | .adf => ⟨0x40050000, 8, 0x0300, .measure⟩
  | .adh => ⟨0x40058000, 4, 0x0301, .measure⟩
  | .adr => ⟨0x4005F000, 1, 0x0302, .measure⟩
  | .dcd => ⟨0x40060000, 1, 0x0700, .converter⟩
  | .obc => ⟨0x40061000, 1, 0x0800, .converter⟩
  | .msv => ⟨0x40064000, 3, 0x0600, .traction⟩
  | .bch => ⟨0x40067000, 1, 0x0601, .converter⟩
  | .can => ⟨0x40070000, 4, 0x0E00, .general⟩
  | .clf => ⟨0x40080000, 1, 0x0F00, .fabric⟩
  | .dbg => ⟨0x40090000, 1, 0x0006, .general⟩
  | .hlo => ⟨0x50000000, 1, 0x0B00, .safety⟩
  | .lks => ⟨0x50001000, 1, 0x0A00, .safety⟩
  | .sfi => ⟨0x50002000, 1, 0x0B01, .safety⟩
  | .sto => ⟨0x50003000, 1, 0x0B02, .safety⟩
  | .ssf => ⟨0x50004000, 1, 0x0B03, .safety⟩
  | .ghb => ⟨0x50005000, 1, 0x0B04, .safety⟩
  | .scf => ⟨0x50006000, 1, 0x0B05, .safety⟩
  | .slg => ⟨0x50007000, 1, 0x0B06, .safety⟩
  | .ctx => ⟨0x30000000, 256, 0x0000, .loop⟩
  | .bank => ⟨0x40081000, 2, 0x0000, .fabric⟩
  | .route => ⟨0x40084000, 4, 0x0000, .fabric⟩

/-- Every block that has pages. -/
def allBlocks : List Block :=
  [.sys, .pwr, .rst, .evr, .tbu, .tmu, .arb, .dma, .crc, .gpio, .tpw, .cpw, .act, .pos, .cir, .adf, .adh, .adr, .dcd, .obc, .msv, .bch, .can, .clf, .dbg, .hlo, .lks, .sfi, .sto, .ssf, .ghb, .scf, .slg, .ctx, .bank, .route]

/-- The size of one page: 4 KB, and 1 KB for a context record (R39, R146). -/
def pageSize : Block → Nat
  | .ctx => 0x400
  | _ => 0x1000

/-- The address of a page's first word. -/
def pageBase (p : Page) : Nat := (blockInfo p.blk).base + p.num * pageSize p.blk

/-- Whether the page table lists the page. -/
def pageValid (p : Page) : Bool := decide (p.num < (blockInfo p.blk).count)

/-- Whether the page carries the common header (R40, R41). -/
def hasHeader (p : Page) : Bool :=
  match p.blk with
  | .ctx | .bank | .route => false
  | _ => true

/-- Whether the page is a Halo page: writable by HS only, readable by all (R39). -/
def isHalo (p : Page) : Bool := decide (0x50000000 ≤ pageBase p)

/-- The page that holds address `a`, among the instances of block `b`. -/
def blockPageAt (a : Nat) (b : Block) : Option Page :=
  let i := blockInfo b
  if i.base ≤ a ∧ a < i.base + i.count * pageSize b then some ⟨b, (a - i.base) / pageSize b⟩ else none

/-- The page that holds address `a` (R40). -/
def pageAt (a : Nat) : Option Page := allBlocks.findSome? (blockPageAt a)

/-- Every page the table lists, with a header. -/
def headerPages : List Page :=
  (allBlocks.flatMap fun b => (List.range (blockInfo b).count).map fun i => ⟨b, i⟩).filter hasHeader

/-- The timing domain of a page (R40). -/
def pageDom (p : Page) : Domain := (blockInfo p.blk).dom

/-- The place of a field: the offset of its word in the page, its highest and lowest bit, and the distance between the
elements when the register is an array. -/
structure Fld where
  off : Nat
  hi : Nat
  lo : Nat
  stride : Nat
deriving DecidableEq, Repr

/-- The field of element `i` of an array register. -/
def Fld.ix (x : Fld) (i : Nat) : Fld := { x with off := x.off + i * x.stride }

/-- Access codes of a field (R45): `rwsk` is RWS with RWK, `wok` is WO with RWK, `key` the code of `SYS_KEYREV`, and `cz`
the counters that a written 0 clears and a written nonzero value leaves as they are (R47). -/
inductive Acc where
  | ro | rw | wo | w1c | rws | rwsk | wok | key | cz
deriving DecidableEq, Repr

/-- One field of a register table: bits, access code, the range a write must keep, and whether it is a safety parameter. -/
structure FieldDef where
  hi : Nat
  lo : Nat
  acc : Acc
  min : Nat
  max : Nat
  safe : Bool
deriving DecidableEq, Repr

/-- Which half of a 64-bit value a word is (R48). -/
inductive Half where
  | none | lo | hi
deriving DecidableEq, Repr

/-- One register of a page, or one array of registers. -/
structure RegDef where
  off : Nat
  count : Nat
  stride : Nat
  half : Half
  reset : Nat
  fields : List FieldDef
deriving DecidableEq, Repr

end Sys2Proof.Machine
end

