-- ==== Sys2Proof/Machine/Fields.lean ====
section
/-! DEFINITION. The names and places of every register field the spec lists: one `Fld` per field and one per register word, in the namespace of its block. -/

namespace Sys2Proof.Machine


namespace SYS

/-- The SYS page of number `n`. -/
abbrev pg (n : Nat := 0) : Page := ⟨.sys, n⟩
def CAP_DIE_SERIAL : Fld := ⟨0x004, 31, 4, 0⟩
def CAP_GRADE : Fld := ⟨0x004, 0, 0, 0⟩
def CAP : Fld := ⟨0x004, 31, 0, 0⟩
def STAT_ERR_OK : Fld := ⟨0x00C, 2, 2, 0⟩
def STAT_ALIVE : Fld := ⟨0x00C, 1, 1, 0⟩
def STAT : Fld := ⟨0x00C, 31, 0, 0⟩
def EVT_CSET_PARTIAL : Fld := ⟨0x010, 2, 2, 0⟩
def EVT_READBACK : Fld := ⟨0x010, 1, 1, 0⟩
def EVT_DSTATE : Fld := ⟨0x010, 0, 0, 0⟩
def EVT : Fld := ⟨0x010, 31, 0, 0⟩
def DCMD_CMD : Fld := ⟨0x040, 3, 0, 0⟩
def DCMD : Fld := ⟨0x040, 31, 0, 0⟩
def DSTAT_LAST_REQ : Fld := ⟨0x044, 31, 28, 0⟩
def DSTAT_NR_COND : Fld := ⟨0x044, 27, 24, 0⟩
def DSTAT_LAST_STS : Fld := ⟨0x044, 19, 16, 0⟩
def DSTAT_LAST_CMD : Fld := ⟨0x044, 15, 12, 0⟩
def DSTAT_PREV : Fld := ⟨0x044, 10, 8, 0⟩
def DSTAT_TARGET : Fld := ⟨0x044, 6, 4, 0⟩
def DSTAT_TRANS : Fld := ⟨0x044, 3, 3, 0⟩
def DSTAT_DSTATE : Fld := ⟨0x044, 2, 0, 0⟩
def DSTAT : Fld := ⟨0x044, 31, 0, 0⟩
def BOOT_RESULT : Fld := ⟨0x048, 31, 28, 0⟩
def BOOT_A_RES : Fld := ⟨0x048, 27, 24, 0⟩
def BOOT_B_RES : Fld := ⟨0x048, 23, 20, 0⟩
def BOOT_MODE : Fld := ⟨0x048, 17, 16, 0⟩
def BOOT : Fld := ⟨0x048, 31, 0, 0⟩
def IMGVER_VER : Fld := ⟨0x04C, 31, 0, 0⟩
def IMGVER : Fld := ⟨0x04C, 31, 0, 0⟩
def TBOOT_TICK : Fld := ⟨0x050, 31, 0, 0⟩
def TBOOT : Fld := ⟨0x050, 31, 0, 0⟩
def TSTEST_TICK : Fld := ⟨0x054, 31, 0, 0⟩
def TSTEST : Fld := ⟨0x054, 31, 0, 0⟩
def STFAIL_TEST : Fld := ⟨0x058, 3, 0, 0⟩
def STFAIL : Fld := ⟨0x058, 31, 0, 0⟩
def KEYREV_REVOKE : Fld := ⟨0x05C, 1, 0, 0⟩
def KEYREV : Fld := ⟨0x05C, 31, 0, 0⟩

end SYS

namespace PWR

/-- The PWR page of number `n`. -/
abbrev pg (n : Nat := 0) : Page := ⟨.pwr, n⟩
def STAT_OV : Fld := ⟨0x00C, 5, 0, 0⟩
def STAT : Fld := ⟨0x00C, 31, 0, 0⟩
def EVT_OV : Fld := ⟨0x010, 0, 0, 0⟩
def EVT : Fld := ⟨0x010, 31, 0, 0⟩
def CNT_OVCNT : Fld := ⟨0x040, 7, 0, 0⟩
def CNT : Fld := ⟨0x040, 31, 0, 0⟩
def V_MV : Fld := ⟨0x060, 15, 0, 4⟩
def V : Fld := ⟨0x060, 31, 0, 4⟩

end PWR

namespace RST

/-- The RST page of number `n`. -/
abbrev pg (n : Nat := 0) : Page := ⟨.rst, n⟩
def CAUSE_REQ : Fld := ⟨0x040, 31, 28, 0⟩
def CAUSE_HIST : Fld := ⟨0x040, 22, 16, 0⟩
def CAUSE_SUPPLY : Fld := ⟨0x040, 10, 8, 0⟩
def CAUSE_COLD : Fld := ⟨0x040, 7, 7, 0⟩
def CAUSE_LAST : Fld := ⟨0x040, 3, 0, 0⟩
def CAUSE : Fld := ⟨0x040, 31, 0, 0⟩
def HELD_LO : Fld := ⟨0x048, 31, 0, 0⟩
def HELD_HI : Fld := ⟨0x04C, 31, 0, 0⟩
def CNT_WARM : Fld := ⟨0x050, 31, 16, 0⟩
def CNT_COLD : Fld := ⟨0x050, 15, 0, 0⟩
def CNT : Fld := ⟨0x050, 31, 0, 0⟩
def CMD_LAST_STS : Fld := ⟨0x054, 19, 16, 0⟩
def CMD_OP : Fld := ⟨0x054, 3, 0, 0⟩
def CMD : Fld := ⟨0x054, 31, 0, 0⟩

end RST

namespace EVR

/-- The EVR page of number `n`. -/
abbrev pg (n : Nat := 0) : Page := ⟨.evr, n⟩
def PEND : Fld := ⟨0x040, 31, 0, 4⟩
def ROUTE_DMA_CH : Fld := ⟨0x100, 23, 20, 4⟩
def ROUTE_DMA_EN : Fld := ⟨0x100, 19, 19, 4⟩
def ROUTE_HS_IRQ : Fld := ⟨0x100, 18, 18, 4⟩
def ROUTE_AP1_IRQ : Fld := ⟨0x100, 17, 17, 4⟩
def ROUTE_AP0_IRQ : Fld := ⟨0x100, 16, 16, 4⟩
def ROUTE_PRIO : Fld := ⟨0x100, 11, 8, 4⟩
def ROUTE_VECTOR : Fld := ⟨0x100, 7, 0, 4⟩
def ROUTE : Fld := ⟨0x100, 31, 0, 4⟩

end EVR

namespace TBU

/-- The TBU page of number `n`. -/
abbrev pg (n : Nat := 0) : Page := ⟨.tbu, n⟩
def STAT_CAL_OK : Fld := ⟨0x00C, 5, 5, 0⟩
def STAT_SYNC_PRESENT : Fld := ⟨0x00C, 4, 4, 0⟩
def STAT_FAB_VALID : Fld := ⟨0x00C, 3, 3, 0⟩
def STAT_FAB_DISC : Fld := ⟨0x00C, 2, 2, 0⟩
def STAT_SRC : Fld := ⟨0x00C, 1, 0, 0⟩
def STAT : Fld := ⟨0x00C, 31, 0, 0⟩
def EVT_STEER_LIMIT : Fld := ⟨0x010, 9, 9, 0⟩
def EVT_MASTER_ERR : Fld := ⟨0x010, 8, 8, 0⟩
def EVT_FAB_JOIN : Fld := ⟨0x010, 7, 7, 0⟩
def EVT_FAB_LOST : Fld := ⟨0x010, 6, 6, 0⟩
def EVT_SYNC_BACK : Fld := ⟨0x010, 5, 5, 0⟩
def EVT_SYNC_LOST : Fld := ⟨0x010, 4, 4, 0⟩
def EVT_CAL_STALE : Fld := ⟨0x010, 3, 3, 0⟩
def EVT_LOCKED : Fld := ⟨0x010, 2, 2, 0⟩
def EVT_REF_BACK : Fld := ⟨0x010, 1, 1, 0⟩
def EVT_REF_LOST : Fld := ⟨0x010, 0, 0, 0⟩
def EVT : Fld := ⟨0x010, 31, 0, 0⟩
def SRCCFG_QUAL_MS : Fld := ⟨0x040, 15, 8, 0⟩
def SRCCFG_GLIDE : Fld := ⟨0x040, 7, 0, 0⟩
def SRCCFG : Fld := ⟨0x040, 31, 0, 0⟩
def TRIM : Fld := ⟨0x044, 31, 0, 0⟩
def CALSTAT_STALE_CNT : Fld := ⟨0x048, 31, 24, 0⟩
def CALSTAT_WORST_PS : Fld := ⟨0x048, 23, 16, 0⟩
def CALSTAT_CYCLES : Fld := ⟨0x048, 15, 0, 0⟩
def CALSTAT : Fld := ⟨0x048, 31, 0, 0⟩
def NOW_LO : Fld := ⟨0x050, 31, 0, 0⟩
def NOW_HI : Fld := ⟨0x054, 31, 0, 0⟩
def FTIME_LO : Fld := ⟨0x058, 31, 0, 0⟩
def FTIME_HI : Fld := ⟨0x05C, 31, 0, 0⟩
def FOFS_LO : Fld := ⟨0x060, 31, 0, 0⟩
def FOFS_HI : Fld := ⟨0x064, 31, 0, 0⟩
def FABCFG_STEER_MAX : Fld := ⟨0x068, 15, 8, 0⟩
def FABCFG_EN : Fld := ⟨0x068, 0, 0, 0⟩
def FABCFG : Fld := ⟨0x068, 31, 0, 0⟩
def SYNCCFG_WIN : Fld := ⟨0x070, 15, 8, 0⟩
def SYNCCFG_EDGE : Fld := ⟨0x070, 1, 1, 0⟩
def SYNCCFG_EN : Fld := ⟨0x070, 0, 0, 0⟩
def SYNCCFG : Fld := ⟨0x070, 31, 0, 0⟩
def SYNCPER_VALID : Fld := ⟨0x074, 31, 31, 0⟩
def SYNCPER_PER : Fld := ⟨0x074, 30, 0, 0⟩
def SYNCPER : Fld := ⟨0x074, 31, 0, 0⟩
def SYNCOUT_WIDTH : Fld := ⟨0x078, 23, 16, 0⟩
def SYNCOUT_LG : Fld := ⟨0x078, 11, 8, 0⟩
def SYNCOUT_POL : Fld := ⟨0x078, 1, 1, 0⟩
def SYNCOUT_EN : Fld := ⟨0x078, 0, 0, 0⟩
def SYNCOUT : Fld := ⟨0x078, 31, 0, 0⟩
def LG_CFG_DIV : Fld := ⟨0x100, 11, 8, 32⟩
def LG_CFG_MASTER : Fld := ⟨0x100, 7, 4, 32⟩
def LG_CFG_MODE : Fld := ⟨0x100, 2, 1, 32⟩
def LG_CFG_RUN : Fld := ⟨0x100, 0, 0, 32⟩
def LG_CFG : Fld := ⟨0x100, 31, 0, 32⟩
def LG_PERIOD_TICKS : Fld := ⟨0x104, 30, 7, 32⟩
def LG_PERIOD_FINE : Fld := ⟨0x104, 6, 0, 32⟩
def LG_PERIOD : Fld := ⟨0x104, 31, 0, 32⟩
def LG_PHASE_PHASE : Fld := ⟨0x108, 30, 0, 32⟩
def LG_PHASE : Fld := ⟨0x108, 31, 0, 32⟩
def LG_STAT_SYNC_ST : Fld := ⟨0x10C, 5, 4, 32⟩
def LG_STAT_MASTER_ERR : Fld := ⟨0x10C, 3, 3, 32⟩
def LG_STAT_RESTART_PEND : Fld := ⟨0x10C, 2, 2, 32⟩
def LG_STAT_SLEWING : Fld := ⟨0x10C, 1, 1, 32⟩
def LG_STAT_RUNNING : Fld := ⟨0x10C, 0, 0, 32⟩
def LG_STAT : Fld := ⟨0x10C, 31, 0, 32⟩
def LG_START_LO : Fld := ⟨0x110, 31, 0, 32⟩
def LG_START_HI : Fld := ⟨0x114, 31, 0, 32⟩
def LG_CNT_LO : Fld := ⟨0x118, 31, 0, 32⟩
def LG_CNT_HI : Fld := ⟨0x11C, 31, 0, 32⟩
def CMP_CFG_SKIPPED : Fld := ⟨0x300, 16, 16, 16⟩
def CMP_CFG_LG : Fld := ⟨0x300, 7, 4, 16⟩
def CMP_CFG_ACTION : Fld := ⟨0x300, 3, 2, 16⟩
def CMP_CFG_OUT_EN : Fld := ⟨0x300, 1, 1, 16⟩
def CMP_CFG_EN : Fld := ⟨0x300, 0, 0, 16⟩
def CMP_CFG : Fld := ⟨0x300, 31, 0, 16⟩
def CMP_PHASE_PHASE : Fld := ⟨0x304, 30, 0, 16⟩
def CMP_PHASE : Fld := ⟨0x304, 31, 0, 16⟩
def CAP_CFG_OVR : Fld := ⟨0x400, 31, 31, 16⟩
def CAP_CFG_NEW : Fld := ⟨0x400, 30, 30, 16⟩
def CAP_CFG_SRC : Fld := ⟨0x400, 12, 8, 16⟩
def CAP_CFG_EDGE : Fld := ⟨0x400, 2, 1, 16⟩
def CAP_CFG_EN : Fld := ⟨0x400, 0, 0, 16⟩
def CAP_CFG : Fld := ⟨0x400, 31, 0, 16⟩
def CAP_STAMP_LO : Fld := ⟨0x404, 31, 0, 16⟩
def CAP_STAMP_HI : Fld := ⟨0x408, 31, 0, 16⟩

end TBU

namespace TMU

/-- The TMU page of number `n`. -/
abbrev pg (n : Nat := 0) : Page := ⟨.tmu, n⟩
def STAT_HOT : Fld := ⟨0x00C, 3, 3, 0⟩
def STAT_THROTTLED : Fld := ⟨0x00C, 2, 2, 0⟩
def STAT_XCHK : Fld := ⟨0x00C, 1, 1, 0⟩
def STAT_SCANNING : Fld := ⟨0x00C, 0, 0, 0⟩
def STAT : Fld := ⟨0x00C, 31, 0, 0⟩
def EVT_SHUT : Fld := ⟨0x010, 6, 6, 0⟩
def EVT_EXT : Fld := ⟨0x010, 5, 5, 0⟩
def EVT_HOT : Fld := ⟨0x010, 4, 4, 0⟩
def EVT_RATE : Fld := ⟨0x010, 3, 3, 0⟩
def EVT_CLUSTER : Fld := ⟨0x010, 2, 2, 0⟩
def EVT_EXCL : Fld := ⟨0x010, 1, 1, 0⟩
def EVT_LEVEL : Fld := ⟨0x010, 0, 0, 0⟩
def EVT : Fld := ⟨0x010, 31, 0, 0⟩
def CFG_XDEV : Fld := ⟨0x040, 31, 24, 0⟩
def CFG_XN : Fld := ⟨0x040, 23, 20, 0⟩
def CFG_LMAX : Fld := ⟨0x040, 19, 16, 0⟩
def CFG_UP_HOLD : Fld := ⟨0x040, 15, 8, 0⟩
def CFG_DN_N : Fld := ⟨0x040, 7, 0, 0⟩
def CFG : Fld := ⟨0x040, 31, 0, 0⟩
def SLK_SLK_DN : Fld := ⟨0x044, 31, 16, 0⟩
def SLK_SLK_UP : Fld := ⟨0x044, 15, 0, 0⟩
def SLK : Fld := ⟨0x044, 31, 0, 0⟩
def TLIM0_T_HOT : Fld := ⟨0x048, 31, 16, 0⟩
def TLIM0_T_THR : Fld := ⟨0x048, 15, 0, 0⟩
def TLIM0 : Fld := ⟨0x048, 31, 0, 0⟩
def TLIM1_T_SHUT : Fld := ⟨0x04C, 31, 16, 0⟩
def TLIM1_T_HYS : Fld := ⟨0x04C, 15, 0, 0⟩
def TLIM1 : Fld := ⟨0x04C, 31, 0, 0⟩
def RR_RR_MAX : Fld := ⟨0x050, 31, 16, 0⟩
def RR_RR_WIN : Fld := ⟨0x050, 7, 0, 0⟩
def RR : Fld := ⟨0x050, 31, 0, 0⟩
def CNT_UPS : Fld := ⟨0x054, 31, 24, 0⟩
def CNT_DOWNS : Fld := ⟨0x054, 23, 16, 0⟩
def CNT_EXCLS : Fld := ⟨0x054, 15, 8, 0⟩
def CNT_RATES : Fld := ⟨0x054, 7, 0, 0⟩
def CNT : Fld := ⟨0x054, 31, 0, 0⟩
def MAX_TMAX : Fld := ⟨0x060, 31, 16, 0⟩
def MAX_SRC : Fld := ⟨0x060, 5, 0, 0⟩
def MAX : Fld := ⟨0x060, 31, 0, 0⟩
def THRST_LEVEL : Fld := ⟨0x064, 28, 24, 0⟩
def THRST_CAUSE : Fld := ⟨0x064, 2, 0, 0⟩
def THRST : Fld := ⟨0x064, 31, 0, 0⟩
def MINSLK_MINSLK : Fld := ⟨0x068, 31, 16, 0⟩
def MINSLK_METER : Fld := ⟨0x068, 3, 0, 0⟩
def MINSLK : Fld := ⟨0x068, 31, 0, 0⟩
def EXCL_CLFAIL : Fld := ⟨0x06C, 29, 24, 0⟩
def EXCL_SENS : Fld := ⟨0x06C, 23, 0, 0⟩
def EXCL : Fld := ⟨0x06C, 31, 0, 0⟩
def CLT_TEMP : Fld := ⟨0x070, 31, 16, 4⟩
def CLT_RATE : Fld := ⟨0x070, 15, 0, 4⟩
def CLT : Fld := ⟨0x070, 31, 0, 4⟩
def TS_TEMP : Fld := ⟨0x0A0, 31, 16, 4⟩
def TS_EXCL : Fld := ⟨0x0A0, 0, 0, 4⟩
def TS : Fld := ⟨0x0A0, 31, 0, 4⟩
def EXTCFG_EN : Fld := ⟨0x100, 31, 31, 16⟩
def EXTCFG_INMAX : Fld := ⟨0x100, 30, 30, 16⟩
def EXTCFG_U : Fld := ⟨0x100, 25, 24, 16⟩
def EXTCFG_ENTRY : Fld := ⟨0x100, 20, 16, 16⟩
def EXTCFG : Fld := ⟨0x100, 31, 0, 16⟩
def EXTG : Fld := ⟨0x104, 31, 0, 16⟩
def EXTO : Fld := ⟨0x108, 31, 0, 16⟩
def EXTT_TEMP : Fld := ⟨0x10C, 31, 16, 16⟩
def EXTT_VALID : Fld := ⟨0x10C, 0, 0, 16⟩
def EXTT : Fld := ⟨0x10C, 31, 0, 16⟩

end TMU

namespace ARB

/-- The ARB page of number `n`. -/
abbrev pg (n : Nat := 0) : Page := ⟨.arb, n⟩
def EVT_FLASH : Fld := ⟨0x010, 1, 1, 0⟩
def EVT_STARVE : Fld := ⟨0x010, 0, 0, 0⟩
def EVT : Fld := ⟨0x010, 31, 0, 0⟩
def CFG_WIN : Fld := ⟨0x040, 31, 16, 0⟩
def CFG_STARVE_THR : Fld := ⟨0x040, 15, 0, 0⟩
def CFG : Fld := ⟨0x040, 31, 0, 0⟩
def PRIO_HIGH : Fld := ⟨0x044, 11, 0, 0⟩
def PRIO : Fld := ⟨0x044, 31, 0, 0⟩
def CNTSEL_BANK : Fld := ⟨0x048, 4, 0, 0⟩
def CNTSEL : Fld := ⟨0x048, 31, 0, 0⟩
def STARVE_FLAG : Fld := ⟨0x04C, 11, 0, 0⟩
def STARVE : Fld := ⟨0x04C, 31, 0, 0⟩
def CMD_LAST_STS : Fld := ⟨0x050, 19, 16, 0⟩
def CMD_OP : Fld := ⟨0x050, 3, 0, 0⟩
def CMD : Fld := ⟨0x050, 31, 0, 0⟩
def MEM_ECCCNT_SRAM_CE : Fld := ⟨0x054, 31, 16, 0⟩
def MEM_ECCCNT_SRAM_UE : Fld := ⟨0x054, 15, 8, 0⟩
def MEM_ECCCNT_FLASH_UE : Fld := ⟨0x054, 7, 0, 0⟩
def MEM_ECCCNT : Fld := ⟨0x054, 31, 0, 0⟩
def MEM_ERRADDR_ADDR : Fld := ⟨0x058, 31, 0, 0⟩
def MEM_ERRADDR : Fld := ⟨0x058, 31, 0, 0⟩
def MEM_SCRUB_EN : Fld := ⟨0x05C, 31, 31, 0⟩
def MEM_SCRUB_INTERVAL : Fld := ⟨0x05C, 15, 0, 0⟩
def MEM_SCRUB : Fld := ⟨0x05C, 31, 0, 0⟩
def FLS_ADDR_ADDR : Fld := ⟨0x060, 31, 0, 0⟩
def FLS_ADDR : Fld := ⟨0x060, 31, 0, 0⟩
def FLS_DATA_DATA : Fld := ⟨0x064, 31, 0, 4⟩
def FLS_DATA : Fld := ⟨0x064, 31, 0, 4⟩
def FLS_CMD_OP : Fld := ⟨0x074, 3, 0, 0⟩
def FLS_CMD : Fld := ⟨0x074, 31, 0, 0⟩
def FLS_STAT_BUSY : Fld := ⟨0x078, 8, 8, 0⟩
def FLS_STAT_LAST : Fld := ⟨0x078, 3, 0, 0⟩
def FLS_STAT : Fld := ⟨0x078, 31, 0, 0⟩
def QUOTA : Fld := ⟨0x080, 7, 0, 4⟩
def GRANT_LO : Fld := ⟨0x100, 31, 0, 16⟩
def GRANT_HI : Fld := ⟨0x104, 31, 0, 16⟩
def WAITS : Fld := ⟨0x108, 31, 0, 16⟩
def LONG : Fld := ⟨0x10C, 15, 0, 16⟩

end ARB

namespace DMA

/-- The DMA page of number `n`. -/
abbrev pg (n : Nat := 0) : Page := ⟨.dma, n⟩
def STAT_ACTIVE : Fld := ⟨0x00C, 15, 0, 0⟩
def STAT : Fld := ⟨0x00C, 31, 0, 0⟩
def EVT_OWNER_LOST : Fld := ⟨0x010, 4, 4, 0⟩
def EVT_ERR : Fld := ⟨0x010, 3, 3, 0⟩
def EVT_OVR : Fld := ⟨0x010, 2, 2, 0⟩
def EVT_DONE : Fld := ⟨0x010, 1, 1, 0⟩
def EVT_THRESH : Fld := ⟨0x010, 0, 0, 0⟩
def EVT : Fld := ⟨0x010, 31, 0, 0⟩
def CMD_LAST_STS : Fld := ⟨0x040, 19, 16, 0⟩
def CMD_CH : Fld := ⟨0x040, 11, 8, 0⟩
def CMD_OP : Fld := ⟨0x040, 3, 0, 0⟩
def CMD : Fld := ⟨0x040, 31, 0, 0⟩
def CH_CFG_EN : Fld := ⟨0x100, 31, 31, 64⟩
def CH_CFG_MODE : Fld := ⟨0x100, 30, 29, 64⟩
def CH_CFG_OVR_MODE : Fld := ⟨0x100, 28, 28, 64⟩
def CH_CFG_DST_FIX : Fld := ⟨0x100, 27, 27, 64⟩
def CH_CFG_RECSZ : Fld := ⟨0x100, 26, 24, 64⟩
def CH_CFG_SIZE : Fld := ⟨0x100, 20, 16, 64⟩
def CH_CFG : Fld := ⟨0x100, 31, 0, 64⟩
def CH_BASE_BASE : Fld := ⟨0x104, 31, 0, 64⟩
def CH_BASE : Fld := ⟨0x104, 31, 0, 64⟩
def CH_WM_WM : Fld := ⟨0x108, 18, 0, 64⟩
def CH_WM : Fld := ⟨0x108, 31, 0, 64⟩
def CH_SRC_SRC : Fld := ⟨0x10C, 31, 0, 64⟩
def CH_SRC : Fld := ⟨0x10C, 31, 0, 64⟩
def CH_LEN_LEN : Fld := ⟨0x110, 16, 0, 64⟩
def CH_LEN : Fld := ⟨0x110, 31, 0, 64⟩
def CH_WPTR_WPTR : Fld := ⟨0x114, 17, 0, 64⟩
def CH_WPTR : Fld := ⟨0x114, 31, 0, 64⟩
def CH_RPTR_RPTR : Fld := ⟨0x118, 17, 0, 64⟩
def CH_RPTR : Fld := ⟨0x118, 31, 0, 64⟩
def CH_FILL_FILL : Fld := ⟨0x11C, 18, 0, 64⟩
def CH_FILL : Fld := ⟨0x11C, 31, 0, 64⟩
def CH_CHST_ABANDONED : Fld := ⟨0x120, 5, 5, 64⟩
def CH_CHST_ERR : Fld := ⟨0x120, 4, 4, 64⟩
def CH_CHST_OVR : Fld := ⟨0x120, 3, 3, 64⟩
def CH_CHST_DONE : Fld := ⟨0x120, 2, 2, 64⟩
def CH_CHST_THRESH : Fld := ⟨0x120, 1, 1, 64⟩
def CH_CHST_BUSY : Fld := ⟨0x120, 0, 0, 64⟩
def CH_CHST : Fld := ⟨0x120, 31, 0, 64⟩
def CH_CNT_OVR : Fld := ⟨0x124, 31, 16, 64⟩
def CH_CNT_MISS : Fld := ⟨0x124, 15, 0, 64⟩
def CH_CNT : Fld := ⟨0x124, 31, 0, 64⟩
def CH_REC_LO : Fld := ⟨0x128, 31, 0, 64⟩
def CH_REC_HI : Fld := ⟨0x12C, 31, 0, 64⟩
def OWN_OWNER_LOST : Fld := ⟨0x130, 31, 31, 64⟩
def OWN_LOCKED : Fld := ⟨0x130, 16, 16, 64⟩
def OWN_LOST_ID : Fld := ⟨0x130, 15, 12, 64⟩
def OWN_REL : Fld := ⟨0x130, 9, 9, 64⟩
def OWN_ACQ : Fld := ⟨0x130, 8, 8, 64⟩
def OWN_OWNER_ID : Fld := ⟨0x130, 3, 0, 64⟩
def OWN : Fld := ⟨0x130, 31, 0, 64⟩

end DMA

namespace CRC

/-- The CRC page of number `n`. -/
abbrev pg (n : Nat := 0) : Page := ⟨.crc, n⟩
def STAT_ABANDONED : Fld := ⟨0x00C, 1, 1, 0⟩
def STAT_RUNNING : Fld := ⟨0x00C, 0, 0, 0⟩
def STAT : Fld := ⟨0x00C, 31, 0, 0⟩
def EVT_OWNER_LOST : Fld := ⟨0x010, 0, 0, 0⟩
def EVT : Fld := ⟨0x010, 31, 0, 0⟩
def CFG_POLY : Fld := ⟨0x040, 9, 8, 0⟩
def CFG_FOLD : Fld := ⟨0x040, 5, 4, 0⟩
def CFG_REFIN : Fld := ⟨0x040, 2, 2, 0⟩
def CFG_REFOUT : Fld := ⟨0x040, 1, 1, 0⟩
def CFG : Fld := ⟨0x040, 31, 0, 0⟩
def INIT : Fld := ⟨0x044, 31, 0, 0⟩
def XOR : Fld := ⟨0x048, 31, 0, 0⟩
def SEQ : Fld := ⟨0x04C, 31, 0, 0⟩
def ADDR : Fld := ⟨0x050, 31, 0, 0⟩
def CTL_START : Fld := ⟨0x054, 0, 0, 0⟩
def CTL : Fld := ⟨0x054, 31, 0, 0⟩
def DIN : Fld := ⟨0x058, 31, 0, 0⟩
def RES_LO : Fld := ⟨0x060, 31, 0, 0⟩
def RES_HI : Fld := ⟨0x064, 31, 0, 0⟩

end CRC

namespace GPIO

/-- The GPIO page of number `n`. -/
abbrev pg (n : Nat := 0) : Page := ⟨.gpio, n⟩
def IN : Fld := ⟨0x040, 31, 0, 4⟩
def OUT : Fld := ⟨0x048, 31, 0, 4⟩
def DIR : Fld := ⟨0x050, 31, 0, 4⟩
def OWN_OWNED : Fld := ⟨0x058, 31, 0, 4⟩
def OWN : Fld := ⟨0x058, 31, 0, 4⟩

end GPIO

namespace TPW

/-- The TPW page of number `n`. -/
abbrev pg (n : Nat := 0) : Page := ⟨.tpw, n⟩
def CAP_PAIR_LEAD : Fld := ⟨0x004, 1, 1, 0⟩
def CAP_FINE : Fld := ⟨0x004, 0, 0, 0⟩
def CAP : Fld := ⟨0x004, 31, 0, 0⟩
def STAT_NEW : Fld := ⟨0x00C, 7, 7, 0⟩
def STAT_HALF : Fld := ⟨0x00C, 6, 6, 0⟩
def STAT_PAIRED : Fld := ⟨0x00C, 5, 5, 0⟩
def STAT_GHB_OK : Fld := ⟨0x00C, 4, 4, 0⟩
def STAT_STO_EFF : Fld := ⟨0x00C, 3, 3, 0⟩
def STAT_RANGE_ERR : Fld := ⟨0x00C, 2, 2, 0⟩
def STAT_RUNNING : Fld := ⟨0x00C, 1, 1, 0⟩
def STAT_SWITCHING : Fld := ⟨0x00C, 0, 0, 0⟩
def STAT : Fld := ⟨0x00C, 31, 0, 0⟩
def EVT_SHOOT : Fld := ⟨0x010, 7, 7, 0⟩
def EVT_OUT_MISMATCH : Fld := ⟨0x010, 6, 6, 0⟩
def EVT_PERIOD_RANGE : Fld := ⟨0x010, 5, 5, 0⟩
def EVT_CMP_STALE : Fld := ⟨0x010, 4, 4, 0⟩
def EVT_PAT_CHANGE : Fld := ⟨0x010, 3, 3, 0⟩
def EVT_CMP_CLAMP : Fld := ⟨0x010, 2, 2, 0⟩
def EVT_MINP_HIT : Fld := ⟨0x010, 1, 1, 0⟩
def EVT_UPD : Fld := ⟨0x010, 0, 0, 0⟩
def EVT : Fld := ⟨0x010, 31, 0, 0⟩
def CFG_LG : Fld := ⟨0x040, 23, 20, 0⟩
def CFG_HALF_SHIFT : Fld := ⟨0x040, 18, 18, 0⟩
def CFG_PAIR : Fld := ⟨0x040, 17, 17, 0⟩
def CFG_UPD : Fld := ⟨0x040, 16, 16, 0⟩
def CFG_MINP_MODE : Fld := ⟨0x040, 8, 8, 0⟩
def CFG_CMP_SRC : Fld := ⟨0x040, 4, 4, 0⟩
def CFG_MODE : Fld := ⟨0x040, 2, 0, 0⟩
def CFG : Fld := ⟨0x040, 31, 0, 0⟩
def DT : Fld := ⟨0x044, 16, 0, 0⟩
def MINP : Fld := ⟨0x048, 8, 0, 0⟩
def STALE_MAX : Fld := ⟨0x04C, 7, 0, 0⟩
def STALE : Fld := ⟨0x04C, 31, 0, 0⟩
def PAT_SRC : Fld := ⟨0x050, 27, 24, 0⟩
def PAT_ACTIVE : Fld := ⟨0x050, 18, 16, 0⟩
def PAT_CMD : Fld := ⟨0x050, 2, 0, 0⟩
def PAT : Fld := ⟨0x050, 31, 0, 0⟩
def PINS_CMDLVL : Fld := ⟨0x054, 13, 8, 0⟩
def PINS_BALL : Fld := ⟨0x054, 5, 0, 0⟩
def PINS : Fld := ⟨0x054, 31, 0, 0⟩
def CNT_MINP_CNT : Fld := ⟨0x058, 31, 16, 0⟩
def CNT_CLAMP_CNT : Fld := ⟨0x058, 15, 8, 0⟩
def CNT_STALE_RUN : Fld := ⟨0x058, 7, 0, 0⟩
def CNT : Fld := ⟨0x058, 31, 0, 0⟩
def CMP : Fld := ⟨0x060, 30, 0, 4⟩
def ACT : Fld := ⟨0x070, 30, 0, 4⟩
def LASTUPD_LO : Fld := ⟨0x080, 31, 0, 0⟩
def LASTUPD_HI : Fld := ⟨0x084, 31, 0, 0⟩

end TPW

namespace ACT

/-- The ACT page of number `n`. -/
abbrev pg (n : Nat := 0) : Page := ⟨.act, n⟩
def STAT_SEQ_RES : Fld := ⟨0x00C, 21, 20, 0⟩
def STAT_OPEN_SECT : Fld := ⟨0x00C, 18, 16, 0⟩
def STAT_PIN_VALID : Fld := ⟨0x00C, 13, 13, 0⟩
def STAT_NEW : Fld := ⟨0x00C, 12, 12, 0⟩
def STAT_SECT : Fld := ⟨0x00C, 10, 8, 0⟩
def STAT_PAT : Fld := ⟨0x00C, 5, 4, 0⟩
def STAT_STATE : Fld := ⟨0x00C, 2, 0, 0⟩
def STAT : Fld := ⟨0x00C, 31, 0, 0⟩
def EVT_PIN_INV : Fld := ⟨0x010, 6, 6, 0⟩
def EVT_SEQ_DONE : Fld := ⟨0x010, 5, 5, 0⟩
def EVT_FAULT : Fld := ⟨0x010, 4, 4, 0⟩
def EVT_STALL : Fld := ⟨0x010, 3, 3, 0⟩
def EVT_OPEN : Fld := ⟨0x010, 2, 2, 0⟩
def EVT_PAT : Fld := ⟨0x010, 1, 1, 0⟩
def EVT_STATE : Fld := ⟨0x010, 0, 0, 0⟩
def EVT : Fld := ⟨0x010, 31, 0, 0⟩
def CFG_FG : Fld := ⟨0x040, 30, 28, 0⟩
def CFG_FC : Fld := ⟨0x040, 25, 24, 0⟩
def CFG_LG : Fld := ⟨0x040, 23, 20, 0⟩
def CFG_MACH : Fld := ⟨0x040, 17, 16, 0⟩
def CFG_COMM : Fld := ⟨0x040, 12, 12, 0⟩
def CFG_CSRC : Fld := ⟨0x040, 5, 4, 0⟩
def CFG_FPAT : Fld := ⟨0x040, 2, 2, 0⟩
def CFG_PIN_FAIL : Fld := ⟨0x040, 1, 1, 0⟩
def CFG_CMP_SRC : Fld := ⟨0x040, 0, 0, 0⟩
def CFG : Fld := ⟨0x040, 31, 0, 0⟩
def DT_MINP : Fld := ⟨0x044, 25, 16, 0⟩
def DT_DT : Fld := ⟨0x044, 9, 0, 0⟩
def DT : Fld := ⟨0x044, 31, 0, 0⟩
def PIN_F_HI : Fld := ⟨0x048, 31, 16, 0⟩
def PIN_F_LO : Fld := ⟨0x048, 15, 4, 0⟩
def PIN_MODE : Fld := ⟨0x048, 1, 0, 0⟩
def PIN : Fld := ⟨0x048, 31, 0, 0⟩
def HALL_GU : Fld := ⟨0x04C, 29, 24, 0⟩
def HALL_GV : Fld := ⟨0x04C, 21, 16, 0⟩
def HALL_GW : Fld := ⟨0x04C, 13, 8, 0⟩
def HALL_DIR : Fld := ⟨0x04C, 0, 0, 0⟩
def HALL : Fld := ⟨0x04C, 31, 0, 0⟩
def SEQ_TYPE : Fld := ⟨0x050, 16, 16, 0⟩
def SEQ_END : Fld := ⟨0x050, 13, 12, 0⟩
def SEQ_N : Fld := ⟨0x050, 7, 0, 0⟩
def SEQ : Fld := ⟨0x050, 31, 0, 0⟩
def LOOP_CTX : Fld := ⟨0x054, 31, 24, 0⟩
def LOOP_OPEN_N : Fld := ⟨0x054, 23, 16, 0⟩
def LOOP_STALL_N : Fld := ⟨0x054, 15, 8, 0⟩
def LOOP_STALE : Fld := ⟨0x054, 7, 0, 0⟩
def LOOP : Fld := ⟨0x054, 31, 0, 0⟩
def CMD_LAST_STS : Fld := ⟨0x058, 19, 16, 0⟩
def CMD_OP : Fld := ⟨0x058, 3, 0, 0⟩
def CMD : Fld := ⟨0x058, 31, 0, 0⟩
def TGT : Fld := ⟨0x05C, 31, 0, 0⟩
def POS : Fld := ⟨0x060, 31, 0, 0⟩
def SPD : Fld := ⟨0x064, 31, 0, 0⟩
def IBR : Fld := ⟨0x068, 31, 0, 0⟩
def CNT_STALLS : Fld := ⟨0x06C, 31, 24, 0⟩
def CNT_OPENS : Fld := ⟨0x06C, 23, 16, 0⟩
def CNT_SEQ_OK : Fld := ⟨0x06C, 15, 8, 0⟩
def CNT_CLAMPS : Fld := ⟨0x06C, 7, 0, 0⟩
def CNT : Fld := ⟨0x06C, 31, 0, 0⟩
def CMP : Fld := ⟨0x070, 19, 0, 4⟩
def K : Fld := ⟨0x080, 31, 0, 4⟩

end ACT

namespace POS

/-- The POS page of number `n`. -/
abbrev pg (n : Nat := 0) : Page := ⟨.pos, n⟩
def STAT_ASC_SEEN : Fld := ⟨0x00C, 2, 2, 0⟩
def STAT_EXC_ON : Fld := ⟨0x00C, 1, 1, 0⟩
def STAT_ENABLED : Fld := ⟨0x00C, 0, 0, 0⟩
def STAT : Fld := ⟨0x00C, 31, 0, 0⟩
def EVT_REACQ_FAIL : Fld := ⟨0x010, 7, 7, 0⟩
def EVT_REACQ_DONE : Fld := ⟨0x010, 6, 6, 0⟩
def EVT_ANGLE_LOST : Fld := ⟨0x010, 5, 5, 0⟩
def EVT_DISAGREE : Fld := ⟨0x010, 4, 4, 0⟩
def EVT_SWITCH : Fld := ⟨0x010, 3, 3, 0⟩
def EVT_HALL : Fld := ⟨0x010, 2, 2, 0⟩
def EVT_ENC : Fld := ⟨0x010, 1, 1, 0⟩
def EVT_RSV : Fld := ⟨0x010, 0, 0, 0⟩
def EVT : Fld := ⟨0x010, 31, 0, 0⟩
def CFG_MPP : Fld := ⟨0x040, 28, 24, 0⟩
def CFG_RPP : Fld := ⟨0x040, 22, 20, 0⟩
def CFG_SRCEN : Fld := ⟨0x040, 19, 16, 0⟩
def CFG_PRI3 : Fld := ⟨0x040, 14, 12, 0⟩
def CFG_PRI2 : Fld := ⟨0x040, 10, 8, 0⟩
def CFG_PRI1 : Fld := ⟨0x040, 6, 4, 0⟩
def CFG_PRI0 : Fld := ⟨0x040, 2, 0, 0⟩
def CFG : Fld := ⟨0x040, 31, 0, 0⟩
def FUS_DEV_MAX : Fld := ⟨0x044, 31, 16, 0⟩
def FUS_DIS_N : Fld := ⟨0x044, 7, 0, 0⟩
def FUS : Fld := ⟨0x044, 31, 0, 0⟩
def RSV_PHASE : Fld := ⟨0x048, 31, 24, 0⟩
def RSV_AMP : Fld := ⟨0x048, 21, 16, 0⟩
def RSV_BW : Fld := ⟨0x048, 13, 12, 0⟩
def RSV_EXC_F : Fld := ⟨0x048, 9, 8, 0⟩
def RSV_OWEN : Fld := ⟨0x048, 0, 0, 0⟩
def RSV : Fld := ⟨0x048, 31, 0, 0⟩
def RSVTHR_AMP_HI : Fld := ⟨0x04C, 31, 16, 0⟩
def RSVTHR_AMP_LO : Fld := ⟨0x04C, 15, 0, 0⟩
def RSVTHR : Fld := ⟨0x04C, 31, 0, 0⟩
def ENC_LINES : Fld := ⟨0x050, 31, 16, 0⟩
def ENC_ZTOL : Fld := ⟨0x050, 15, 8, 0⟩
def ENC_DIR : Fld := ⟨0x050, 1, 1, 0⟩
def ENC_ZEN : Fld := ⟨0x050, 0, 0, 0⟩
def ENC : Fld := ⟨0x050, 31, 0, 0⟩
def HALL_DIR : Fld := ⟨0x054, 16, 16, 0⟩
def HALL_HALL_OFS : Fld := ⟨0x054, 15, 0, 0⟩
def HALL : Fld := ⟨0x054, 31, 0, 0⟩
def OFS_RSV_OFS : Fld := ⟨0x058, 31, 16, 0⟩
def OFS_ENC_OFS : Fld := ⟨0x058, 15, 0, 0⟩
def OFS : Fld := ⟨0x058, 31, 0, 0⟩
def OBS_IG2 : Fld := ⟨0x05C, 30, 28, 0⟩
def OBS_IG1 : Fld := ⟨0x05C, 26, 24, 0⟩
def OBS_SET : Fld := ⟨0x05C, 21, 20, 0⟩
def OBS_GEOM : Fld := ⟨0x05C, 19, 19, 0⟩
def OBS_LOSSN : Fld := ⟨0x05C, 15, 8, 0⟩
def OBS : Fld := ⟨0x05C, 31, 0, 0⟩
def K : Fld := ⟨0x060, 31, 0, 4⟩
def DECEL : Fld := ⟨0x088, 31, 0, 0⟩
def REACQ_SWEEP : Fld := ⟨0x08C, 31, 24, 0⟩
def REACQ_RES_MAX : Fld := ⟨0x08C, 23, 16, 0⟩
def REACQ_UNIQ : Fld := ⟨0x08C, 15, 8, 0⟩
def REACQ : Fld := ⟨0x08C, 31, 0, 0⟩
def CMD_LAST_STS : Fld := ⟨0x090, 19, 16, 0⟩
def CMD_OP : Fld := ⟨0x090, 3, 0, 0⟩
def CMD : Fld := ⟨0x090, 31, 0, 0⟩
def ANG_VALID : Fld := ⟨0x0A0, 31, 31, 0⟩
def ANG_SRC : Fld := ⟨0x0A0, 30, 28, 0⟩
def ANG_STATE : Fld := ⟨0x0A0, 27, 24, 0⟩
def ANG_CONF : Fld := ⟨0x0A0, 23, 16, 0⟩
def ANG_ANGLE : Fld := ⟨0x0A0, 15, 0, 0⟩
def ANG : Fld := ⟨0x0A0, 31, 0, 0⟩
def SPD_SPEED : Fld := ⟨0x0A4, 31, 0, 0⟩
def SPD : Fld := ⟨0x0A4, 31, 0, 0⟩
def SRCSTAT_FAILED : Fld := ⟨0x0A8, 11, 8, 0⟩
def SRCSTAT_VALID : Fld := ⟨0x0A8, 3, 0, 0⟩
def SRCSTAT : Fld := ⟨0x0A8, 31, 0, 0⟩
def RAW0_RSV : Fld := ⟨0x0AC, 31, 16, 0⟩
def RAW0_OBS : Fld := ⟨0x0AC, 15, 0, 0⟩
def RAW0 : Fld := ⟨0x0AC, 31, 0, 0⟩
def RAW1_ENC : Fld := ⟨0x0B0, 31, 16, 0⟩
def RAW1_HALL : Fld := ⟨0x0B0, 15, 0, 0⟩
def RAW1 : Fld := ⟨0x0B0, 31, 0, 0⟩
def RSVAMP_DC : Fld := ⟨0x0B4, 31, 16, 0⟩
def RSVAMP_AMP : Fld := ⟨0x0B4, 15, 0, 0⟩
def RSVAMP : Fld := ⟨0x0B4, 31, 0, 0⟩
def REACQST_ATTEMPTS : Fld := ⟨0x0B8, 31, 24, 0⟩
def REACQST_RESID : Fld := ⟨0x0B8, 23, 16, 0⟩
def REACQST_UNIQ_MEAS : Fld := ⟨0x0B8, 15, 8, 0⟩
def REACQST_SWEEP_DONE : Fld := ⟨0x0B8, 7, 0, 0⟩
def REACQST : Fld := ⟨0x0B8, 31, 0, 0⟩
def CNT_SWITCH : Fld := ⟨0x0BC, 31, 24, 0⟩
def CNT_LOSS : Fld := ⟨0x0BC, 23, 16, 0⟩
def CNT_REACQ_OK : Fld := ⟨0x0BC, 15, 8, 0⟩
def CNT_REACQ_FAIL : Fld := ⟨0x0BC, 7, 0, 0⟩
def CNT : Fld := ⟨0x0BC, 31, 0, 0⟩
def STAMP_LO : Fld := ⟨0x0C0, 31, 0, 0⟩
def STAMP_HI : Fld := ⟨0x0C4, 31, 0, 0⟩

end POS

namespace CIR

/-- The CIR page of number `n`. -/
abbrev pg (n : Nat := 0) : Page := ⟨.cir, n⟩
def STAT_ADM_OK : Fld := ⟨0x00C, 8, 8, 0⟩
def STAT_RUN : Fld := ⟨0x00C, 7, 0, 0⟩
def STAT : Fld := ⟨0x00C, 31, 0, 0⟩
def EVT_THROTTLE : Fld := ⟨0x010, 6, 6, 0⟩
def EVT_ENG_STALL : Fld := ⟨0x010, 5, 5, 0⟩
def EVT_PAIR_MIS : Fld := ⟨0x010, 4, 4, 0⟩
def EVT_CTX_FAULT : Fld := ⟨0x010, 3, 3, 0⟩
def EVT_TRIG_DROP : Fld := ⟨0x010, 2, 2, 0⟩
def EVT_LATE : Fld := ⟨0x010, 1, 1, 0⟩
def EVT_ADM_FAIL : Fld := ⟨0x010, 0, 0, 0⟩
def EVT : Fld := ⟨0x010, 31, 0, 0⟩
def CFG_CEIL : Fld := ⟨0x040, 6, 0, 0⟩
def CFG : Fld := ⟨0x040, 31, 0, 0⟩
def ADM_FAIL_CTX : Fld := ⟨0x044, 31, 24, 0⟩
def ADM_FAIL_ENG : Fld := ⟨0x044, 23, 20, 0⟩
def ADM_REASON : Fld := ⟨0x044, 19, 16, 0⟩
def ADM_UTIL_MAX : Fld := ⟨0x044, 15, 0, 0⟩
def ADM : Fld := ⟨0x044, 31, 0, 0⟩
def ENGSTAT_FAILED : Fld := ⟨0x048, 15, 8, 0⟩
def ENGSTAT_BUSY : Fld := ⟨0x048, 7, 0, 0⟩
def ENGSTAT : Fld := ⟨0x048, 31, 0, 0⟩
def THR_EXP_BG : Fld := ⟨0x04C, 11, 8, 0⟩
def THR_EXP_NORMAL : Fld := ⟨0x04C, 7, 4, 0⟩
def THR_EXP_HIGH : Fld := ⟨0x04C, 3, 0, 0⟩
def THR : Fld := ⟨0x04C, 31, 0, 0⟩
def CMD_CTX : Fld := ⟨0x050, 31, 24, 0⟩
def CMD_OP : Fld := ⟨0x050, 3, 0, 0⟩
def CMD : Fld := ⟨0x050, 31, 0, 0⟩
def CMDSTS_LAST_STS : Fld := ⟨0x054, 3, 0, 0⟩
def CMDSTS : Fld := ⟨0x054, 31, 0, 0⟩
def LASTFLT_CTX : Fld := ⟨0x058, 31, 24, 0⟩
def LASTFLT_CODE : Fld := ⟨0x058, 11, 0, 0⟩
def LASTFLT : Fld := ⟨0x058, 31, 0, 0⟩
def TDROP_COUNT : Fld := ⟨0x05C, 31, 16, 0⟩
def TDROP_LAST_CTX : Fld := ⟨0x05C, 7, 0, 0⟩
def TDROP : Fld := ⟨0x05C, 31, 0, 0⟩
def PAIRMIS_COUNT : Fld := ⟨0x060, 31, 16, 0⟩
def PAIRMIS_LAST_CTX : Fld := ⟨0x060, 7, 0, 0⟩
def PAIRMIS : Fld := ⟨0x060, 31, 0, 0⟩
def SKIP_COUNT : Fld := ⟨0x070, 31, 0, 4⟩
def SKIP : Fld := ⟨0x070, 31, 0, 4⟩
def ENG_UTIL : Fld := ⟨0x080, 31, 16, 4⟩
def ENG_MINSLACK : Fld := ⟨0x080, 15, 0, 4⟩
def ENG : Fld := ⟨0x080, 31, 0, 4⟩
def CFLT_FLT : Fld := ⟨0x0A0, 31, 0, 4⟩
def CFLT : Fld := ⟨0x0A0, 31, 0, 4⟩

end CIR

namespace ADF

/-- The ADF page of number `n`. -/
abbrev pg (n : Nat := 0) : Page := ⟨.adf, n⟩
def STAT_BUSY : Fld := ⟨0x00C, 2, 2, 0⟩
def STAT_RUNNING : Fld := ⟨0x00C, 1, 1, 0⟩
def STAT_REF_RDY : Fld := ⟨0x00C, 0, 0, 0⟩
def STAT : Fld := ⟨0x00C, 31, 0, 0⟩
def EVT_OW : Fld := ⟨0x010, 5, 5, 0⟩
def EVT_LATE : Fld := ⟨0x010, 4, 4, 0⟩
def EVT_TRIG_DROP : Fld := ⟨0x010, 3, 3, 0⟩
def EVT_INJ_DROP : Fld := ⟨0x010, 2, 2, 0⟩
def EVT_INJ_DONE : Fld := ⟨0x010, 1, 1, 0⟩
def EVT_DONE : Fld := ⟨0x010, 0, 0, 0⟩
def EVT : Fld := ⟨0x010, 31, 0, 0⟩
def CFG_LG : Fld := ⟨0x040, 23, 20, 0⟩
def CFG_DBL : Fld := ⟨0x040, 16, 16, 0⟩
def CFG_CMP : Fld := ⟨0x040, 15, 12, 0⟩
def CFG_SRC : Fld := ⟨0x040, 9, 8, 0⟩
def CFG_LEN : Fld := ⟨0x040, 4, 4, 0⟩
def CFG : Fld := ⟨0x040, 31, 0, 0⟩
def PH_PHASE : Fld := ⟨0x044, 30, 0, 4⟩
def PH : Fld := ⟨0x044, 31, 0, 4⟩
def INSEL_INJSEL : Fld := ⟨0x04C, 11, 8, 0⟩
def INSEL_SEL1 : Fld := ⟨0x04C, 7, 4, 0⟩
def INSEL_SEL0 : Fld := ⟨0x04C, 3, 0, 0⟩
def INSEL : Fld := ⟨0x04C, 31, 0, 0⟩
def INJ_GO : Fld := ⟨0x050, 0, 0, 0⟩
def INJ : Fld := ⟨0x050, 31, 0, 0⟩
def DMA_FMT : Fld := ⟨0x054, 8, 8, 0⟩
def DMA_CH : Fld := ⟨0x054, 7, 4, 0⟩
def DMA_EN : Fld := ⟨0x054, 0, 0, 0⟩
def DMA : Fld := ⟨0x054, 31, 0, 0⟩
def OW_DIR : Fld := ⟨0x058, 15, 8, 0⟩
def OW_EN : Fld := ⟨0x058, 7, 0, 0⟩
def OW : Fld := ⟨0x058, 31, 0, 0⟩
def OWSTAT_OPEN : Fld := ⟨0x05C, 7, 0, 0⟩
def OWSTAT : Fld := ⟨0x05C, 31, 0, 0⟩
def CNT_INJ_DROP : Fld := ⟨0x060, 31, 24, 0⟩
def CNT_TRIG_DROP : Fld := ⟨0x060, 23, 16, 0⟩
def CNT_LATE : Fld := ⟨0x060, 15, 8, 0⟩
def CNT_DMA_MISS : Fld := ⟨0x060, 7, 0, 0⟩
def CNT : Fld := ⟨0x060, 31, 0, 0⟩
def CALST_LIMIT : Fld := ⟨0x064, 19, 16, 0⟩
def CALST_STALE : Fld := ⟨0x064, 11, 8, 0⟩
def CALST_CAL_OK : Fld := ⟨0x064, 3, 0, 0⟩
def CALST : Fld := ⟨0x064, 31, 0, 0⟩
def TRIGCNT_LO : Fld := ⟨0x068, 31, 0, 0⟩
def TRIGCNT_HI : Fld := ⟨0x06C, 31, 0, 0⟩
def RES0_LO : Fld := ⟨0x080, 31, 0, 8⟩
def RES0_HI : Fld := ⟨0x084, 31, 0, 8⟩
def RES1_LO : Fld := ⟨0x0A0, 31, 0, 8⟩
def RES1_HI : Fld := ⟨0x0A4, 31, 0, 8⟩
def INJRES_LO : Fld := ⟨0x0C0, 31, 0, 8⟩
def INJRES_HI : Fld := ⟨0x0C4, 31, 0, 8⟩

end ADF

namespace ADH

/-- The ADH page of number `n`. -/
abbrev pg (n : Nat := 0) : Page := ⟨.adh, n⟩
def STAT_DIV : Fld := ⟨0x00C, 10, 8, 0⟩
def STAT_INJ_BUSY : Fld := ⟨0x00C, 7, 7, 0⟩
def STAT_REG_BUSY : Fld := ⟨0x00C, 6, 6, 0⟩
def STAT_POS : Fld := ⟨0x00C, 5, 0, 0⟩
def STAT : Fld := ⟨0x00C, 31, 0, 0⟩
def EVT_PREEMPT : Fld := ⟨0x010, 4, 4, 0⟩
def EVT_REG_OVR : Fld := ⟨0x010, 3, 3, 0⟩
def EVT_INJ_DROP : Fld := ⟨0x010, 2, 2, 0⟩
def EVT_INJ_DONE : Fld := ⟨0x010, 1, 1, 0⟩
def EVT_REG_DONE : Fld := ⟨0x010, 0, 0, 0⟩
def EVT : Fld := ⟨0x010, 31, 0, 0⟩
def CFG_ICMP : Fld := ⟨0x040, 31, 28, 0⟩
def CFG_LG : Fld := ⟨0x040, 23, 20, 0⟩
def CFG_RCMP : Fld := ⟨0x040, 19, 16, 0⟩
def CFG_RSRC : Fld := ⟨0x040, 13, 12, 0⟩
def CFG_ISRC : Fld := ⟨0x040, 9, 9, 0⟩
def CFG_SEQFMT : Fld := ⟨0x040, 7, 7, 0⟩
def CFG_RLEN : Fld := ⟨0x040, 5, 0, 0⟩
def CFG : Fld := ⟨0x040, 31, 0, 0⟩
def PHASE : Fld := ⟨0x044, 30, 0, 0⟩
def CTL_ILEN : Fld := ⟨0x048, 17, 16, 0⟩
def CTL_REGGO : Fld := ⟨0x048, 1, 1, 0⟩
def CTL_GO : Fld := ⟨0x048, 0, 0, 0⟩
def CTL : Fld := ⟨0x048, 31, 0, 0⟩
def DMA_ICH : Fld := ⟨0x04C, 15, 12, 0⟩
def DMA_IEN : Fld := ⟨0x04C, 11, 11, 0⟩
def DMA_FMT : Fld := ⟨0x04C, 8, 8, 0⟩
def DMA_CH : Fld := ⟨0x04C, 7, 4, 0⟩
def DMA_EN : Fld := ⟨0x04C, 0, 0, 0⟩
def DMA : Fld := ⟨0x04C, 31, 0, 0⟩
def CNT_INJ_DROP : Fld := ⟨0x050, 31, 24, 0⟩
def CNT_PREEMPT : Fld := ⟨0x050, 23, 16, 0⟩
def CNT_REG_OVR : Fld := ⟨0x050, 15, 8, 0⟩
def CNT_DMA_MISS : Fld := ⟨0x050, 7, 0, 0⟩
def CNT : Fld := ⟨0x050, 31, 0, 0⟩
def SEQ : Fld := ⟨0x100, 31, 0, 4⟩
def INJ : Fld := ⟨0x180, 31, 0, 4⟩
def CSEQ : Fld := ⟨0x1C0, 31, 0, 4⟩
def REGRES_LO : Fld := ⟨0x200, 31, 0, 8⟩
def REGRES_HI : Fld := ⟨0x204, 31, 0, 8⟩
def INJRES_LO : Fld := ⟨0x300, 31, 0, 8⟩
def INJRES_HI : Fld := ⟨0x304, 31, 0, 8⟩

end ADH

namespace ADR

/-- The ADR page of number `n`. -/
abbrev pg (n : Nat := 0) : Page := ⟨.adr, n⟩
def ACTRL_EN : Fld := ⟨0x040, 2, 0, 0⟩
def ACTRL : Fld := ⟨0x040, 31, 0, 0⟩
def RSTAT_MON_ERR : Fld := ⟨0x044, 6, 4, 0⟩
def RSTAT_RDY : Fld := ⟨0x044, 2, 0, 0⟩
def RSTAT : Fld := ⟨0x044, 31, 0, 0⟩
def OWTHR_THR : Fld := ⟨0x048, 14, 0, 0⟩
def OWTHR : Fld := ⟨0x048, 31, 0, 0⟩
def CALCFG_STALE_MAX : Fld := ⟨0x04C, 7, 0, 0⟩
def CALCFG : Fld := ⟨0x04C, 31, 0, 0⟩
def GAIN : Fld := ⟨0x100, 31, 0, 4⟩
def OFS : Fld := ⟨0x200, 31, 0, 4⟩

end ADR

namespace DCD

/-- The DCD page of number `n`. -/
abbrev pg (n : Nat := 0) : Page := ⟨.dcd, n⟩
def STAT_SYNC_FOLLOW : Fld := ⟨0x00C, 9, 9, 0⟩
def STAT_SHEDDING : Fld := ⟨0x00C, 8, 8, 0⟩
def STAT_NACT : Fld := ⟨0x00C, 6, 4, 0⟩
def STAT_STATE : Fld := ⟨0x00C, 2, 0, 0⟩
def STAT : Fld := ⟨0x00C, 31, 0, 0⟩
def EVT_STATE : Fld := ⟨0x010, 5, 5, 0⟩
def EVT_FAULT : Fld := ⟨0x010, 4, 4, 0⟩
def EVT_ILIM : Fld := ⟨0x010, 3, 3, 0⟩
def EVT_SHED_ABORT : Fld := ⟨0x010, 2, 2, 0⟩
def EVT_SQUALL : Fld := ⟨0x010, 1, 1, 0⟩
def EVT_PHASES : Fld := ⟨0x010, 0, 0, 0⟩
def EVT : Fld := ⟨0x010, 31, 0, 0⟩
def CFG_TIM0 : Fld := ⟨0x040, 30, 28, 0⟩
def CFG_FG : Fld := ⟨0x040, 26, 24, 0⟩
def CFG_LG : Fld := ⟨0x040, 23, 20, 0⟩
def CFG_NPH : Fld := ⟨0x040, 17, 16, 0⟩
def CFG_NMIN : Fld := ⟨0x040, 13, 12, 0⟩
def CFG_MH : Fld := ⟨0x040, 9, 8, 0⟩
def CFG_ZDIV : Fld := ⟨0x040, 5, 5, 0⟩
def CFG_SHED_EN : Fld := ⟨0x040, 4, 4, 0⟩
def CFG : Fld := ⟨0x040, 31, 0, 0⟩
def MID_E3 : Fld := ⟨0x044, 28, 24, 0⟩
def MID_E2 : Fld := ⟨0x044, 20, 16, 0⟩
def MID_E1 : Fld := ⟨0x044, 12, 8, 0⟩
def MID_E0 : Fld := ⟨0x044, 4, 0, 0⟩
def MID : Fld := ⟨0x044, 31, 0, 0⟩
def DT : Fld := ⟨0x048, 16, 0, 0⟩
def SHED_HOLDOFF : Fld := ⟨0x04C, 31, 16, 0⟩
def SHED_HOLD : Fld := ⟨0x04C, 15, 0, 0⟩
def SHED : Fld := ⟨0x04C, 31, 0, 0⟩
def STALE_MAX : Fld := ⟨0x050, 7, 0, 0⟩
def STALE : Fld := ⟨0x050, 31, 0, 0⟩
def CTX : Fld := ⟨0x054, 7, 0, 0⟩
def VSET : Fld := ⟨0x058, 31, 0, 0⟩
def CMD_LAST_STS : Fld := ⟨0x05C, 19, 16, 0⟩
def CMD_OP : Fld := ⟨0x05C, 3, 0, 0⟩
def CMD : Fld := ⟨0x05C, 31, 0, 0⟩
def VREF : Fld := ⟨0x060, 31, 0, 0⟩
def VOUT : Fld := ⟨0x064, 31, 0, 0⟩
def IOUT : Fld := ⟨0x068, 31, 0, 0⟩
def PHI : Fld := ⟨0x06C, 30, 0, 0⟩
def PHST_FAIL_LS : Fld := ⟨0x070, 23, 20, 0⟩
def PHST_FAIL_HS : Fld := ⟨0x070, 19, 16, 0⟩
def PHST_MODE : Fld := ⟨0x070, 7, 0, 0⟩
def PHST : Fld := ⟨0x070, 31, 0, 0⟩
def CNT_SHED_ABORT : Fld := ⟨0x074, 31, 24, 0⟩
def CNT_SHEDS : Fld := ⟨0x074, 23, 16, 0⟩
def CNT_READDS : Fld := ⟨0x074, 15, 8, 0⟩
def CNT_CLAMPS : Fld := ⟨0x074, 7, 0, 0⟩
def CNT : Fld := ⟨0x074, 31, 0, 0⟩
def K : Fld := ⟨0x080, 31, 0, 4⟩

end DCD

namespace OBC

/-- The OBC page of number `n`. -/
abbrev pg (n : Nat := 0) : Page := ⟨.obc, n⟩
def STAT_CAUSE : Fld := ⟨0x00C, 31, 28, 0⟩
def STAT_LIMSRC : Fld := ⟨0x00C, 26, 24, 0⟩
def STAT_TMR : Fld := ⟨0x00C, 21, 20, 0⟩
def STAT_CLAMP : Fld := ⟨0x00C, 18, 18, 0⟩
def STAT_NPH : Fld := ⟨0x00C, 17, 16, 0⟩
def STAT_STEP : Fld := ⟨0x00C, 13, 12, 0⟩
def STAT_ZONE : Fld := ⟨0x00C, 10, 8, 0⟩
def STAT_STATE : Fld := ⟨0x00C, 2, 0, 0⟩
def STAT : Fld := ⟨0x00C, 31, 0, 0⟩
def EVT_INLET : Fld := ⟨0x010, 6, 6, 0⟩
def EVT_ZONE : Fld := ⟨0x010, 5, 5, 0⟩
def EVT_PACK_LOST : Fld := ⟨0x010, 4, 4, 0⟩
def EVT_TIMER : Fld := ⟨0x010, 3, 3, 0⟩
def EVT_FAULT : Fld := ⟨0x010, 2, 2, 0⟩
def EVT_DONE : Fld := ⟨0x010, 1, 1, 0⟩
def EVT_STATE : Fld := ⟨0x010, 0, 0, 0⟩
def EVT : Fld := ⟨0x010, 31, 0, 0⟩
def CFG_TPFC : Fld := ⟨0x040, 30, 28, 0⟩
def CFG_TDP : Fld := ⟨0x040, 26, 24, 0⟩
def CFG_TDS : Fld := ⟨0x040, 22, 20, 0⟩
def CFG_FG_AC : Fld := ⟨0x040, 18, 16, 0⟩
def CFG_FG_DC : Fld := ⟨0x040, 14, 12, 0⟩
def CFG_VENT_OK : Fld := ⟨0x040, 2, 2, 0⟩
def CFG_V2G_EN : Fld := ⟨0x040, 1, 1, 0⟩
def CFG_INLET_EN : Fld := ⟨0x040, 0, 0, 0⟩
def CFG : Fld := ⟨0x040, 31, 0, 0⟩
def IO_S2 : Fld := ⟨0x044, 29, 24, 0⟩
def IO_ACK : Fld := ⟨0x044, 21, 16, 0⟩
def IO_PRE : Fld := ⟨0x044, 13, 8, 0⟩
def IO_CLAMP : Fld := ⟨0x044, 5, 0, 0⟩
def IO : Fld := ⟨0x044, 31, 0, 0⟩
def DLY_PFC : Fld := ⟨0x048, 10, 0, 0⟩
def DLY : Fld := ⟨0x048, 31, 0, 0⟩
def PRETO_TO : Fld := ⟨0x04C, 31, 0, 0⟩
def PRETO : Fld := ⟨0x04C, 31, 0, 0⟩
def ACWAIT_TO : Fld := ⟨0x050, 31, 0, 0⟩
def ACWAIT : Fld := ⟨0x050, 31, 0, 0⟩
def BMSTO_TO : Fld := ⟨0x054, 31, 0, 0⟩
def BMSTO : Fld := ⟨0x054, 31, 0, 0⟩
def CTXS_PFC : Fld := ⟨0x058, 15, 8, 0⟩
def CTXS_DAB : Fld := ⟨0x058, 7, 0, 0⟩
def CTXS : Fld := ⟨0x058, 31, 0, 0⟩
def STALE_MAX : Fld := ⟨0x05C, 7, 0, 0⟩
def STALE : Fld := ⟨0x05C, 31, 0, 0⟩
def CMD_LAST_STS : Fld := ⟨0x060, 19, 16, 0⟩
def CMD_DIR : Fld := ⟨0x060, 8, 8, 0⟩
def CMD_OP : Fld := ⟨0x060, 3, 0, 0⟩
def CMD : Fld := ⟨0x060, 31, 0, 0⟩
def PCMD_P : Fld := ⟨0x064, 31, 0, 0⟩
def PCMD : Fld := ⟨0x064, 31, 0, 0⟩
def HLC_V2G_OK : Fld := ⟨0x068, 31, 31, 0⟩
def HLC_LIM : Fld := ⟨0x068, 15, 0, 0⟩
def HLC : Fld := ⟨0x068, 31, 0, 0⟩
def BMS0_CONT : Fld := ⟨0x06C, 31, 31, 0⟩
def BMS0 : Fld := ⟨0x06C, 31, 0, 0⟩
def BMS1_TMAX : Fld := ⟨0x070, 31, 16, 0⟩
def BMS1_TMIN : Fld := ⟨0x070, 15, 0, 0⟩
def BMS1 : Fld := ⟨0x070, 31, 0, 0⟩
def BMS2_I_CHG : Fld := ⟨0x074, 31, 16, 0⟩
def BMS2_I_DIS : Fld := ⟨0x074, 15, 0, 0⟩
def BMS2 : Fld := ⟨0x074, 31, 0, 0⟩
def BMS3_V_MAX : Fld := ⟨0x078, 31, 16, 0⟩
def BMS3_V_MIN : Fld := ⟨0x078, 15, 0, 0⟩
def BMS3 : Fld := ⟨0x078, 31, 0, 0⟩
def INLET_CPST : Fld := ⟨0x07C, 31, 29, 0⟩
def INLET_PWM : Fld := ⟨0x07C, 28, 28, 0⟩
def INLET_TYPE : Fld := ⟨0x07C, 27, 26, 0⟩
def INLET_PP : Fld := ⟨0x07C, 25, 23, 0⟩
def INLET_DUTY : Fld := ⟨0x07C, 19, 10, 0⟩
def INLET_IPILOT : Fld := ⟨0x07C, 9, 0, 0⟩
def INLET : Fld := ⟨0x07C, 31, 0, 0⟩
def IREF : Fld := ⟨0x080, 31, 0, 0⟩
def TTOT_LO : Fld := ⟨0x088, 31, 0, 0⟩
def TTOT_HI : Fld := ⟨0x08C, 31, 0, 0⟩
def TCC_LO : Fld := ⟨0x090, 31, 0, 0⟩
def TCC_HI : Fld := ⟨0x094, 31, 0, 0⟩
def TTCV_LO : Fld := ⟨0x098, 31, 0, 0⟩
def TTCV_HI : Fld := ⟨0x09C, 31, 0, 0⟩
def ETOT_LO : Fld := ⟨0x0A0, 31, 0, 0⟩
def ETOT_HI : Fld := ⟨0x0A4, 31, 0, 0⟩
def ECC_LO : Fld := ⟨0x0A8, 31, 0, 0⟩
def ECC_HI : Fld := ⟨0x0AC, 31, 0, 0⟩
def ECV_LO : Fld := ⟨0x0B0, 31, 0, 0⟩
def ECV_HI : Fld := ⟨0x0B4, 31, 0, 0⟩
def DERATE_LO : Fld := ⟨0x0B8, 31, 0, 0⟩
def DERATE_HI : Fld := ⟨0x0BC, 31, 0, 0⟩
def SUSP_LO : Fld := ⟨0x0C0, 31, 0, 0⟩
def SUSP_HI : Fld := ⟨0x0C4, 31, 0, 0⟩
def CNT_PACK_LOST : Fld := ⟨0x0C8, 31, 24, 0⟩
def CNT_TIMER : Fld := ⟨0x0C8, 23, 16, 0⟩
def CNT_STARTS : Fld := ⟨0x0C8, 15, 8, 0⟩
def CNT_SUSPENDS : Fld := ⟨0x0C8, 7, 0, 0⟩
def CNT : Fld := ⟨0x0C8, 31, 0, 0⟩
def K : Fld := ⟨0x100, 31, 0, 4⟩
def PRF : Fld := ⟨0x200, 31, 0, 4⟩

end OBC

namespace MSV

/-- The MSV page of number `n`. -/
abbrev pg (n : Nat := 0) : Page := ⟨.msv, n⟩
def STAT_STATE : Fld := ⟨0x00C, 31, 28, 0⟩
def STAT_HOLD_FROM : Fld := ⟨0x00C, 27, 24, 0⟩
def STAT_SET_MODE : Fld := ⟨0x00C, 21, 20, 0⟩
def STAT_PREARM : Fld := ⟨0x00C, 17, 16, 0⟩
def STAT_OVSTAGE : Fld := ⟨0x00C, 13, 12, 0⟩
def STAT_OV_FORCE : Fld := ⟨0x00C, 10, 10, 0⟩
def STAT_REGEN : Fld := ⟨0x00C, 9, 9, 0⟩
def STAT_LH_ACTIVE : Fld := ⟨0x00C, 8, 8, 0⟩
def STAT_DIR : Fld := ⟨0x00C, 5, 4, 0⟩
def STAT_STOP_SS1 : Fld := ⟨0x00C, 0, 0, 0⟩
def STAT : Fld := ⟨0x00C, 31, 0, 0⟩
def EVT_SET : Fld := ⟨0x010, 7, 7, 0⟩
def EVT_OC : Fld := ⟨0x010, 6, 6, 0⟩
def EVT_OV : Fld := ⟨0x010, 5, 5, 0⟩
def EVT_UV : Fld := ⟨0x010, 4, 4, 0⟩
def EVT_CMDLOSS : Fld := ⟨0x010, 3, 3, 0⟩
def EVT_OVS : Fld := ⟨0x010, 2, 2, 0⟩
def EVT_PREARM : Fld := ⟨0x010, 1, 1, 0⟩
def EVT_STATE : Fld := ⟨0x010, 0, 0, 0⟩
def EVT : Fld := ⟨0x010, 31, 0, 0⟩
def CFG_IG2 : Fld := ⟨0x040, 30, 28, 0⟩
def CFG_IG1 : Fld := ⟨0x040, 26, 24, 0⟩
def CFG_VG : Fld := ⟨0x040, 22, 20, 0⟩
def CFG_VC : Fld := ⟨0x040, 17, 16, 0⟩
def CFG_TSRC : Fld := ⟨0x040, 13, 12, 0⟩
def CFG_LH_AUTO : Fld := ⟨0x040, 9, 9, 0⟩
def CFG_SIX : Fld := ⟨0x040, 8, 8, 0⟩
def CFG_UNK : Fld := ⟨0x040, 5, 4, 0⟩
def CFG_SIDE : Fld := ⟨0x040, 0, 0, 0⟩
def CFG : Fld := ⟨0x040, 31, 0, 0⟩
def ONESET_EN : Fld := ⟨0x044, 31, 31, 0⟩
def ONESET_CTX6 : Fld := ⟨0x044, 23, 16, 0⟩
def ONESET_CTX1 : Fld := ⟨0x044, 15, 8, 0⟩
def ONESET_CTX2 : Fld := ⟨0x044, 7, 0, 0⟩
def ONESET : Fld := ⟨0x044, 31, 0, 0⟩
def TCMDTO_TO : Fld := ⟨0x048, 31, 0, 0⟩
def TCMDTO : Fld := ⟨0x048, 31, 0, 0⟩
def LH_F_HI : Fld := ⟨0x04C, 31, 16, 0⟩
def LH_F_LO : Fld := ⟨0x04C, 15, 4, 0⟩
def LH_MODE : Fld := ⟨0x04C, 1, 0, 0⟩
def LH : Fld := ⟨0x04C, 31, 0, 0⟩
def TCMD : Fld := ⟨0x050, 31, 0, 0⟩
def CMD_LAST_STS : Fld := ⟨0x054, 19, 16, 0⟩
def CMD_OP : Fld := ⟨0x054, 3, 0, 0⟩
def CMD : Fld := ⟨0x054, 31, 0, 0⟩
def TREF : Fld := ⟨0x058, 31, 0, 0⟩
def WX : Fld := ⟨0x05C, 31, 0, 0⟩
def VDC : Fld := ⟨0x060, 31, 0, 0⟩
def CNT_STAGE3 : Fld := ⟨0x064, 31, 24, 0⟩
def CNT_STAGE2 : Fld := ⟨0x064, 23, 16, 0⟩
def CNT_HOLDS : Fld := ⟨0x064, 15, 8, 0⟩
def CNT_SWAPS : Fld := ⟨0x064, 7, 0, 0⟩
def CNT : Fld := ⟨0x064, 31, 0, 0⟩
def K : Fld := ⟨0x080, 31, 0, 4⟩

end MSV

namespace BCH

/-- The BCH page of number `n`. -/
abbrev pg (n : Nat := 0) : Page := ⟨.bch, n⟩
def STAT_STATE : Fld := ⟨0x00C, 2, 0, 0⟩
def STAT : Fld := ⟨0x00C, 31, 0, 0⟩
def EVT_HOT : Fld := ⟨0x010, 3, 3, 0⟩
def EVT_SHORT : Fld := ⟨0x010, 2, 2, 0⟩
def EVT_OPEN : Fld := ⟨0x010, 1, 1, 0⟩
def EVT_ON : Fld := ⟨0x010, 0, 0, 0⟩
def EVT : Fld := ⟨0x010, 31, 0, 0⟩
def CFG_TIM : Fld := ⟨0x040, 18, 16, 0⟩
def CFG_LEG : Fld := ⟨0x040, 13, 12, 0⟩
def CFG_SW : Fld := ⟨0x040, 8, 8, 0⟩
def CFG_FG : Fld := ⟨0x040, 6, 4, 0⟩
def CFG_FC : Fld := ⟨0x040, 1, 0, 0⟩
def CFG : Fld := ⟨0x040, 31, 0, 0⟩
def FB_FB_BLANK : Fld := ⟨0x044, 31, 16, 0⟩
def FB_FB_N : Fld := ⟨0x044, 7, 0, 0⟩
def FB : Fld := ⟨0x044, 31, 0, 0⟩
def CMD_LAST_STS : Fld := ⟨0x048, 19, 16, 0⟩
def CMD_OP : Fld := ⟨0x048, 3, 0, 0⟩
def CMD : Fld := ⟨0x048, 31, 0, 0⟩
def E : Fld := ⟨0x04C, 31, 0, 0⟩
def CNT_FAULTS : Fld := ⟨0x050, 31, 16, 0⟩
def CNT_PERIODS_ON : Fld := ⟨0x050, 15, 0, 0⟩
def CNT : Fld := ⟨0x050, 31, 0, 0⟩
def K : Fld := ⟨0x060, 31, 0, 4⟩

end BCH

namespace CAN

/-- The CAN page of number `n`. -/
abbrev pg (n : Nat := 0) : Page := ⟨.can, n⟩
def STAT_STATE : Fld := ⟨0x00C, 2, 0, 0⟩
def STAT : Fld := ⟨0x00C, 31, 0, 0⟩
def EVT_HEAD_AGE : Fld := ⟨0x010, 6, 6, 0⟩
def EVT_STATE : Fld := ⟨0x010, 5, 5, 0⟩
def EVT_OVR : Fld := ⟨0x010, 4, 4, 0⟩
def EVT_HP : Fld := ⟨0x010, 3, 3, 0⟩
def EVT_RX : Fld := ⟨0x010, 2, 2, 0⟩
def EVT_TXU_DONE : Fld := ⟨0x010, 1, 1, 0⟩
def EVT_TXDONE : Fld := ⟨0x010, 0, 0, 0⟩
def EVT : Fld := ⟨0x010, 31, 0, 0⟩
def NBT_BRP : Fld := ⟨0x040, 31, 24, 0⟩
def NBT_TSEG1 : Fld := ⟨0x040, 23, 16, 0⟩
def NBT_TSEG2 : Fld := ⟨0x040, 14, 8, 0⟩
def NBT_SJW : Fld := ⟨0x040, 6, 0, 0⟩
def NBT : Fld := ⟨0x040, 31, 0, 0⟩
def DBT_BRP : Fld := ⟨0x044, 28, 24, 0⟩
def DBT_TSEG1 : Fld := ⟨0x044, 20, 16, 0⟩
def DBT_TSEG2 : Fld := ⟨0x044, 11, 8, 0⟩
def DBT_SJW : Fld := ⟨0x044, 3, 0, 0⟩
def DBT : Fld := ⟨0x044, 31, 0, 0⟩
def TDC_EN : Fld := ⟨0x048, 31, 31, 0⟩
def TDC_TDCV : Fld := ⟨0x048, 22, 16, 0⟩
def TDC_TDCO : Fld := ⟨0x048, 6, 0, 0⟩
def TDC : Fld := ⟨0x048, 31, 0, 0⟩
def MODE_DEFAULT : Fld := ⟨0x04C, 5, 4, 0⟩
def MODE_AUTO_REC : Fld := ⟨0x04C, 3, 3, 0⟩
def MODE_LOOP : Fld := ⟨0x04C, 2, 2, 0⟩
def MODE_LISTEN : Fld := ⟨0x04C, 1, 1, 0⟩
def MODE_FD : Fld := ⟨0x04C, 0, 0, 0⟩
def MODE : Fld := ⟨0x04C, 31, 0, 0⟩
def CMD_LAST_STS : Fld := ⟨0x050, 19, 16, 0⟩
def CMD_OP : Fld := ⟨0x050, 3, 0, 0⟩
def CMD : Fld := ⟨0x050, 31, 0, 0⟩
def ECNT_TEC : Fld := ⟨0x054, 24, 16, 0⟩
def ECNT_REC : Fld := ⟨0x054, 7, 0, 0⟩
def ECNT : Fld := ⟨0x054, 31, 0, 0⟩
def TXCFG_HEAD_AGE : Fld := ⟨0x058, 31, 0, 0⟩
def TXCFG : Fld := ⟨0x058, 31, 0, 0⟩
def FSTAT_TXU_BUSY : Fld := ⟨0x05C, 28, 28, 0⟩
def FSTAT_TX : Fld := ⟨0x05C, 20, 16, 0⟩
def FSTAT_RX : Fld := ⟨0x05C, 13, 8, 0⟩
def FSTAT_HP : Fld := ⟨0x05C, 2, 0, 0⟩
def FSTAT : Fld := ⟨0x05C, 31, 0, 0⟩
def CNT_TXFULL : Fld := ⟨0x060, 31, 24, 0⟩
def CNT_RXOVR : Fld := ⟨0x060, 23, 16, 0⟩
def CNT_HPOVR : Fld := ⟨0x060, 15, 8, 0⟩
def CNT_RTR : Fld := ⟨0x060, 7, 0, 0⟩
def CNT : Fld := ⟨0x060, 31, 0, 0⟩
def TXSTAMP_LO : Fld := ⟨0x068, 31, 0, 0⟩
def TXSTAMP_HI : Fld := ⟨0x06C, 31, 0, 0⟩
def TXW_ID_IDE : Fld := ⟨0x080, 31, 31, 0⟩
def TXW_ID_ID : Fld := ⟨0x080, 28, 0, 0⟩
def TXW_ID : Fld := ⟨0x080, 31, 0, 0⟩
def TXW_CTL_FDF : Fld := ⟨0x084, 31, 31, 0⟩
def TXW_CTL_BRS : Fld := ⟨0x084, 30, 30, 0⟩
def TXW_CTL_ESI : Fld := ⟨0x084, 29, 29, 0⟩
def TXW_CTL_DLC : Fld := ⟨0x084, 19, 16, 0⟩
def TXW_CTL : Fld := ⟨0x084, 31, 0, 0⟩
def TXW_DATA : Fld := ⟨0x088, 31, 0, 4⟩
def TXPUSH_PUSH : Fld := ⟨0x0C8, 1, 0, 0⟩
def TXPUSH : Fld := ⟨0x0C8, 31, 0, 0⟩
def RXW_ID_IDE : Fld := ⟨0x100, 31, 31, 0⟩
def RXW_ID_ID : Fld := ⟨0x100, 28, 0, 0⟩
def RXW_ID : Fld := ⟨0x100, 31, 0, 0⟩
def RXW_CTL_FDF : Fld := ⟨0x104, 31, 31, 0⟩
def RXW_CTL_BRS : Fld := ⟨0x104, 30, 30, 0⟩
def RXW_CTL_ESI : Fld := ⟨0x104, 29, 29, 0⟩
def RXW_CTL_DLC : Fld := ⟨0x104, 19, 16, 0⟩
def RXW_CTL : Fld := ⟨0x104, 31, 0, 0⟩
def RXW_STAMP_LO : Fld := ⟨0x108, 31, 0, 0⟩
def RXW_STAMP_HI : Fld := ⟨0x10C, 31, 0, 0⟩
def RXW_DATA : Fld := ⟨0x110, 31, 0, 4⟩
def RXPOP_POP : Fld := ⟨0x150, 0, 0, 0⟩
def RXPOP : Fld := ⟨0x150, 31, 0, 0⟩
def HPW_ID_IDE : Fld := ⟨0x180, 31, 31, 0⟩
def HPW_ID_ID : Fld := ⟨0x180, 28, 0, 0⟩
def HPW_ID : Fld := ⟨0x180, 31, 0, 0⟩
def HPW_CTL_FDF : Fld := ⟨0x184, 31, 31, 0⟩
def HPW_CTL_BRS : Fld := ⟨0x184, 30, 30, 0⟩
def HPW_CTL_ESI : Fld := ⟨0x184, 29, 29, 0⟩
def HPW_CTL_DLC : Fld := ⟨0x184, 19, 16, 0⟩
def HPW_CTL : Fld := ⟨0x184, 31, 0, 0⟩
def HPW_STAMP_LO : Fld := ⟨0x188, 31, 0, 0⟩
def HPW_STAMP_HI : Fld := ⟨0x18C, 31, 0, 0⟩
def HPW_DATA : Fld := ⟨0x190, 31, 0, 4⟩
def HPPOP_POP : Fld := ⟨0x1D0, 0, 0, 0⟩
def HPPOP : Fld := ⟨0x1D0, 31, 0, 0⟩
def FLT_ID_EN : Fld := ⟨0x200, 31, 31, 8⟩
def FLT_ID_TARGET : Fld := ⟨0x200, 30, 29, 8⟩
def FLT_ID_ID : Fld := ⟨0x200, 28, 0, 8⟩
def FLT_ID : Fld := ⟨0x200, 31, 0, 8⟩
def FLT_MASK_IDE : Fld := ⟨0x204, 31, 31, 8⟩
def FLT_MASK_MASK : Fld := ⟨0x204, 28, 0, 8⟩
def FLT_MASK : Fld := ⟨0x204, 31, 0, 8⟩

end CAN

namespace CLF

/-- The CLF page of number `n`. -/
abbrev pg (n : Nat := 0) : Page := ⟨.clf, n⟩
def STAT_STATE : Fld := ⟨0x00C, 2, 0, 0⟩
def STAT : Fld := ⟨0x00C, 31, 0, 0⟩
def EVT_SWAPPED : Fld := ⟨0x010, 7, 7, 0⟩
def EVT_CONFLICT : Fld := ⟨0x010, 6, 6, 0⟩
def EVT_PEER : Fld := ⟨0x010, 5, 5, 0⟩
def EVT_ROOT : Fld := ⟨0x010, 4, 4, 0⟩
def EVT_LINK : Fld := ⟨0x010, 3, 3, 0⟩
def EVT_RING : Fld := ⟨0x010, 2, 2, 0⟩
def EVT_TOPO : Fld := ⟨0x010, 1, 1, 0⟩
def EVT_STATE : Fld := ⟨0x010, 0, 0, 0⟩
def EVT : Fld := ⟨0x010, 31, 0, 0⟩
def CFG_IDMODE : Fld := ⟨0x040, 24, 24, 0⟩
def CFG_NODE_ID : Fld := ⟨0x040, 21, 16, 0⟩
def CFG_ROOT_PRI : Fld := ⟨0x040, 11, 8, 0⟩
def CFG_SWAP_FOLLOW : Fld := ⟨0x040, 4, 4, 0⟩
def CFG_PORT_EN : Fld := ⟨0x040, 1, 0, 0⟩
def CFG : Fld := ⟨0x040, 31, 0, 0⟩
def SF : Fld := ⟨0x044, 31, 0, 0⟩
def TIME_ERR_MAX : Fld := ⟨0x048, 23, 16, 0⟩
def TIME_PD_PER : Fld := ⟨0x048, 15, 8, 0⟩
def TIME_LOST_N : Fld := ⟨0x048, 7, 0, 0⟩
def TIME : Fld := ⟨0x048, 31, 0, 0⟩
def TOPO_RING : Fld := ⟨0x04C, 31, 31, 0⟩
def TOPO_VALID : Fld := ⟨0x04C, 30, 30, 0⟩
def TOPO_NODES : Fld := ⟨0x04C, 29, 24, 0⟩
def TOPO_ID : Fld := ⟨0x04C, 21, 16, 0⟩
def TOPO_ROOT : Fld := ⟨0x04C, 13, 8, 0⟩
def TOPO_HOPS : Fld := ⟨0x04C, 5, 0, 0⟩
def TOPO : Fld := ⟨0x04C, 31, 0, 0⟩
def LINK_E : Fld := ⟨0x050, 6, 4, 0⟩
def LINK_W : Fld := ⟨0x050, 2, 0, 0⟩
def LINK : Fld := ⟨0x050, 31, 0, 0⟩
def CMD_LAST_STS : Fld := ⟨0x054, 19, 16, 0⟩
def CMD_PORT : Fld := ⟨0x054, 9, 8, 0⟩
def CMD_OP : Fld := ⟨0x054, 3, 0, 0⟩
def CMD : Fld := ⟨0x054, 31, 0, 0⟩
def SLOTCTL_LAST : Fld := ⟨0x058, 31, 28, 0⟩
def SLOTCTL_ARMED : Fld := ⟨0x058, 16, 16, 0⟩
def SLOTCTL_ACTIVE : Fld := ⟨0x058, 0, 0, 0⟩
def SLOTCTL : Fld := ⟨0x058, 31, 0, 0⟩
def SWAPAT : Fld := ⟨0x05C, 31, 0, 0⟩
def SFNUM_LO : Fld := ⟨0x060, 31, 0, 0⟩
def SFNUM_HI : Fld := ⟨0x064, 31, 0, 0⟩
def RESID : Fld := ⟨0x068, 31, 0, 0⟩
def PDW_PD : Fld := ⟨0x06C, 31, 0, 0⟩
def PDW : Fld := ⟨0x06C, 31, 0, 0⟩
def PDE_PD : Fld := ⟨0x070, 31, 0, 0⟩
def PDE : Fld := ⟨0x070, 31, 0, 0⟩
def CNT0_CRC : Fld := ⟨0x074, 31, 24, 0⟩
def CNT0_FWD_BAD : Fld := ⟨0x074, 23, 16, 0⟩
def CNT0_SEQGAP : Fld := ⟨0x074, 15, 8, 0⟩
def CNT0_FMT : Fld := ⟨0x074, 7, 0, 0⟩
def CNT0 : Fld := ⟨0x074, 31, 0, 0⟩
def CNT1_CONFLICT : Fld := ⟨0x078, 31, 24, 0⟩
def CNT1_QUAR : Fld := ⟨0x078, 23, 16, 0⟩
def CNT1_TXLATE : Fld := ⟨0x078, 15, 8, 0⟩
def CNT1_RXOVR : Fld := ⟨0x078, 7, 0, 0⟩
def CNT1 : Fld := ⟨0x078, 31, 0, 0⟩
def QUAR_ON : Fld := ⟨0x07C, 8, 8, 0⟩
def QUAR_SLOT : Fld := ⟨0x07C, 7, 0, 0⟩
def QUAR : Fld := ⟨0x07C, 31, 0, 0⟩
def R_CFG_EN : Fld := ⟨0x100, 31, 31, 16⟩
def R_CFG_RECSZ : Fld := ⟨0x100, 26, 24, 16⟩
def R_CFG_SIZE : Fld := ⟨0x100, 20, 16, 16⟩
def R_CFG : Fld := ⟨0x100, 31, 0, 16⟩
def R_BASE_BASE : Fld := ⟨0x104, 31, 0, 16⟩
def R_BASE : Fld := ⟨0x104, 31, 0, 16⟩
def R_WPTR_WPTR : Fld := ⟨0x108, 17, 0, 16⟩
def R_WPTR : Fld := ⟨0x108, 31, 0, 16⟩
def R_RPTR_RPTR : Fld := ⟨0x10C, 17, 0, 16⟩
def R_RPTR : Fld := ⟨0x10C, 31, 0, 16⟩
def PSUB_EN : Fld := ⟨0x200, 31, 31, 16⟩
def PSUB_NODE : Fld := ⟨0x200, 29, 24, 16⟩
def PSUB_ACT : Fld := ⟨0x200, 21, 20, 16⟩
def PSUB_MACH : Fld := ⟨0x200, 18, 16, 16⟩
def PSUB_TO : Fld := ⟨0x200, 7, 0, 16⟩
def PSUB : Fld := ⟨0x200, 31, 0, 16⟩
def PMASK_MASK : Fld := ⟨0x204, 24, 0, 16⟩
def PMASK : Fld := ⟨0x204, 31, 0, 16⟩
def PUID_UID : Fld := ⟨0x208, 31, 0, 16⟩
def PUID : Fld := ⟨0x208, 31, 0, 16⟩
def RFILL_FILL : Fld := ⟨0x300, 18, 0, 4⟩
def RFILL : Fld := ⟨0x300, 31, 0, 4⟩

end CLF

namespace HLO

/-- The HLO page of number `n`. -/
abbrev pg (n : Nat := 0) : Page := ⟨.hlo, n⟩
def STAT_SAFE : Fld := ⟨0x00C, 31, 31, 0⟩
def STAT_FR3 : Fld := ⟨0x00C, 14, 12, 0⟩
def STAT_FR4 : Fld := ⟨0x00C, 10, 8, 0⟩
def STAT : Fld := ⟨0x00C, 31, 0, 0⟩
def EVT_WDOG : Fld := ⟨0x010, 3, 3, 0⟩
def EVT_FR4 : Fld := ⟨0x010, 2, 2, 0⟩
def EVT_FR3 : Fld := ⟨0x010, 1, 1, 0⟩
def EVT_LOG : Fld := ⟨0x010, 0, 0, 0⟩
def EVT : Fld := ⟨0x010, 31, 0, 0⟩
def CFG_WD_MAX : Fld := ⟨0x040, 31, 16, 0⟩
def CFG_WD_MIN : Fld := ⟨0x040, 15, 0, 0⟩
def CFG : Fld := ⟨0x040, 31, 0, 0⟩
def KICK : Fld := ⟨0x044, 31, 0, 0⟩
def CMD_LAST_STS : Fld := ⟨0x048, 19, 16, 0⟩
def CMD_MASK : Fld := ⟨0x048, 10, 8, 0⟩
def CMD_OP : Fld := ⟨0x048, 3, 0, 0⟩
def CMD : Fld := ⟨0x048, 31, 0, 0⟩
def LOGPTR_NEXT : Fld := ⟨0x04C, 20, 16, 0⟩
def LOGPTR_TOTAL : Fld := ⟨0x04C, 15, 0, 0⟩
def LOGPTR : Fld := ⟨0x04C, 31, 0, 0⟩
def FIRST_INFO_REACT : Fld := ⟨0x050, 26, 24, 0⟩
def FIRST_INFO_MACH : Fld := ⟨0x050, 18, 16, 0⟩
def FIRST_INFO_CODE : Fld := ⟨0x050, 11, 0, 0⟩
def FIRST_INFO : Fld := ⟨0x050, 31, 0, 0⟩
def FIRST_AUX_AUX : Fld := ⟨0x054, 31, 0, 0⟩
def FIRST_AUX : Fld := ⟨0x054, 31, 0, 0⟩
def FIRST_STAMP_LO : Fld := ⟨0x058, 31, 0, 0⟩
def FIRST_STAMP_HI : Fld := ⟨0x05C, 31, 0, 0⟩
def LOG_INFO_REACT : Fld := ⟨0x100, 26, 24, 16⟩
def LOG_INFO_MACH : Fld := ⟨0x100, 18, 16, 16⟩
def LOG_INFO_CODE : Fld := ⟨0x100, 11, 0, 16⟩
def LOG_INFO : Fld := ⟨0x100, 31, 0, 16⟩
def LOG_AUX_AUX : Fld := ⟨0x104, 31, 0, 16⟩
def LOG_AUX : Fld := ⟨0x104, 31, 0, 16⟩
def LOG_STAMP_LO : Fld := ⟨0x108, 31, 0, 16⟩
def LOG_STAMP_HI : Fld := ⟨0x10C, 31, 0, 16⟩

end HLO

namespace LKS

/-- The LKS page of number `n`. -/
abbrev pg (n : Nat := 0) : Page := ⟨.lks, n⟩
def STAT_HALT_REF : Fld := ⟨0x00C, 10, 8, 0⟩
def STAT_HALTED : Fld := ⟨0x00C, 6, 4, 0⟩
def STAT_RETRY : Fld := ⟨0x00C, 2, 0, 0⟩
def STAT : Fld := ⟨0x00C, 31, 0, 0⟩
def EVT_XCHG : Fld := ⟨0x010, 7, 7, 0⟩
def EVT_RAIL : Fld := ⟨0x010, 6, 6, 0⟩
def EVT_ST_MISS : Fld := ⟨0x010, 5, 5, 0⟩
def EVT_RATE : Fld := ⟨0x010, 4, 4, 0⟩
def EVT_LASTING : Fld := ⟨0x010, 3, 3, 0⟩
def EVT_PARITY : Fld := ⟨0x010, 2, 2, 0⟩
def EVT_TRANSIENT : Fld := ⟨0x010, 1, 1, 0⟩
def EVT_ST_WRAP : Fld := ⟨0x010, 0, 0, 0⟩
def EVT : Fld := ⟨0x010, 31, 0, 0⟩
def CFG_DBG_EN : Fld := ⟨0x040, 31, 31, 0⟩
def CFG_HS_DBG : Fld := ⟨0x040, 30, 30, 0⟩
def CFG_LAG_MAX : Fld := ⟨0x040, 27, 16, 0⟩
def CFG_TMAX : Fld := ⟨0x040, 15, 8, 0⟩
def CFG_STPER : Fld := ⟨0x040, 6, 0, 0⟩
def CFG : Fld := ⟨0x040, 31, 0, 0⟩
def STLANE_CIR : Fld := ⟨0x060, 31, 24, 0⟩
def STLANE_HS : Fld := ⟨0x060, 23, 16, 0⟩
def STLANE_AP1 : Fld := ⟨0x060, 15, 8, 0⟩
def STLANE_AP0 : Fld := ⟨0x060, 7, 0, 0⟩
def STLANE : Fld := ⟨0x060, 31, 0, 0⟩
def STSTAT_DIR : Fld := ⟨0x064, 11, 8, 0⟩
def STSTAT_MISS : Fld := ⟨0x064, 7, 4, 0⟩
def STSTAT_RAIL : Fld := ⟨0x064, 3, 0, 0⟩
def STSTAT : Fld := ⟨0x064, 31, 0, 0⟩
def STCNT_COUNT : Fld := ⟨0x068, 31, 0, 0⟩
def STCNT : Fld := ⟨0x068, 31, 0, 0⟩
def CMD_LAST_STS : Fld := ⟨0x070, 19, 16, 0⟩
def CMD_OP : Fld := ⟨0x070, 3, 0, 0⟩
def CMD : Fld := ⟨0x070, 31, 0, 0⟩
def PSTAT_OCC : Fld := ⟨0x080, 19, 16, 32⟩
def PSTAT_FIFO : Fld := ⟨0x080, 12, 8, 32⟩
def PSTAT_HALTED : Fld := ⟨0x080, 2, 2, 32⟩
def PSTAT_RETRY : Fld := ⟨0x080, 1, 1, 32⟩
def PSTAT_RUN : Fld := ⟨0x080, 0, 0, 32⟩
def PSTAT : Fld := ⟨0x080, 31, 0, 32⟩
def PCNT_TRANS : Fld := ⟨0x084, 31, 16, 32⟩
def PCNT_PAR : Fld := ⟨0x084, 15, 8, 32⟩
def PCNT_TRANS_WIN : Fld := ⟨0x084, 7, 0, 32⟩
def PCNT : Fld := ⟨0x084, 31, 0, 32⟩
def PLAST_CAUSE : Fld := ⟨0x088, 31, 28, 32⟩
def PLAST_LANE : Fld := ⟨0x088, 27, 20, 32⟩
def PLAST_SLOT : Fld := ⟨0x088, 18, 16, 32⟩
def PLAST_OUTCOME : Fld := ⟨0x088, 1, 0, 32⟩
def PLAST : Fld := ⟨0x088, 31, 0, 32⟩
def PPC_PC : Fld := ⟨0x08C, 31, 0, 32⟩
def PPC : Fld := ⟨0x08C, 31, 0, 32⟩
def PSTAMP_LO : Fld := ⟨0x090, 31, 0, 32⟩
def PSTAMP_HI : Fld := ⟨0x094, 31, 0, 32⟩

end LKS

namespace SFI

/-- The SFI page of number `n`. -/
abbrev pg (n : Nat := 0) : Page := ⟨.sfi, n⟩
def STAT_DEMAND : Fld := ⟨0x00C, 15, 0, 0⟩
def STAT : Fld := ⟨0x00C, 31, 0, 0⟩
def EVT_XS : Fld := ⟨0x010, 4, 4, 0⟩
def EVT_STUCK : Fld := ⟨0x010, 3, 3, 0⟩
def EVT_DISC : Fld := ⟨0x010, 2, 2, 0⟩
def EVT_DEMAND_END : Fld := ⟨0x010, 1, 1, 0⟩
def EVT_DEMAND : Fld := ⟨0x010, 0, 0, 0⟩
def EVT : Fld := ⟨0x010, 31, 0, 0⟩
def TPO_PER : Fld := ⟨0x040, 29, 20, 0⟩
def TPO_PW : Fld := ⟨0x040, 19, 10, 0⟩
def TPO_RECOV : Fld := ⟨0x040, 9, 0, 0⟩
def TPO : Fld := ⟨0x040, 31, 0, 0⟩
def FILT_TPO_EN : Fld := ⟨0x044, 19, 16, 0⟩
def FILT_HIGH_MS : Fld := ⟨0x044, 15, 8, 0⟩
def FILT_LOWN : Fld := ⟨0x044, 3, 0, 0⟩
def FILT : Fld := ⟨0x044, 31, 0, 0⟩
def CMD_LAST_STS : Fld := ⟨0x048, 19, 16, 0⟩
def CMD_INPUT : Fld := ⟨0x048, 11, 8, 0⟩
def CMD_OP : Fld := ⟨0x048, 3, 0, 0⟩
def CMD : Fld := ⟨0x048, 31, 0, 0⟩
def CNT_DEMANDS : Fld := ⟨0x04C, 31, 16, 0⟩
def CNT_DISCS : Fld := ⟨0x04C, 15, 8, 0⟩
def CNT_TESTFAILS : Fld := ⟨0x04C, 7, 0, 0⟩
def CNT : Fld := ⟨0x04C, 31, 0, 0⟩
def CFG_EN : Fld := ⟨0x080, 31, 31, 4⟩
def CFG_ANTI : Fld := ⟨0x080, 30, 30, 4⟩
def CFG_ACT : Fld := ⟨0x080, 29, 28, 4⟩
def CFG_MACH : Fld := ⟨0x080, 26, 24, 4⟩
def CFG_CONV : Fld := ⟨0x080, 23, 23, 4⟩
def CFG_MAN : Fld := ⟨0x080, 22, 22, 4⟩
def CFG_TPO1 : Fld := ⟨0x080, 21, 20, 4⟩
def CFG_TPO2 : Fld := ⟨0x080, 18, 17, 4⟩
def CFG_T1EN : Fld := ⟨0x080, 19, 19, 4⟩
def CFG_T2EN : Fld := ⟨0x080, 16, 16, 4⟩
def CFG_DISC : Fld := ⟨0x080, 9, 0, 4⟩
def CFG : Fld := ⟨0x080, 31, 0, 4⟩
def ST_DISC_EL : Fld := ⟨0x0C0, 31, 22, 4⟩
def ST_DEMAND : Fld := ⟨0x0C0, 7, 7, 4⟩
def ST_DISC : Fld := ⟨0x0C0, 6, 6, 4⟩
def ST_STUCK : Fld := ⟨0x0C0, 5, 5, 4⟩
def ST_XS : Fld := ⟨0x0C0, 4, 4, 4⟩
def ST_REARM : Fld := ⟨0x0C0, 3, 3, 4⟩
def ST_C2_SAFE : Fld := ⟨0x0C0, 2, 2, 4⟩
def ST_C1_SAFE : Fld := ⟨0x0C0, 1, 1, 4⟩
def ST_RUN : Fld := ⟨0x0C0, 0, 0, 4⟩
def ST : Fld := ⟨0x0C0, 31, 0, 4⟩

end SFI

namespace STO

/-- The STO page of number `n`. -/
abbrev pg (n : Nat := 0) : Page := ⟨.sto, n⟩
def STAT_BALL_B : Fld := ⟨0x00C, 26, 24, 0⟩
def STAT_BALL_A : Fld := ⟨0x00C, 18, 16, 0⟩
def STAT_BALL_C : Fld := ⟨0x00C, 13, 12, 0⟩
def STAT_EFF : Fld := ⟨0x00C, 10, 8, 0⟩
def STAT_CONV_EFF : Fld := ⟨0x00C, 4, 4, 0⟩
def STAT : Fld := ⟨0x00C, 31, 0, 0⟩
def EVT_PATH : Fld := ⟨0x010, 3, 3, 0⟩
def EVT_READBACK : Fld := ⟨0x010, 2, 2, 0⟩
def EVT_RELEASE : Fld := ⟨0x010, 1, 1, 0⟩
def EVT_ASSERT : Fld := ⟨0x010, 0, 0, 0⟩
def EVT : Fld := ⟨0x010, 31, 0, 0⟩
def CMD_LAST_STS : Fld := ⟨0x040, 19, 16, 0⟩
def CMD_MASK : Fld := ⟨0x040, 10, 8, 0⟩
def CMD_OP : Fld := ⟨0x040, 3, 0, 0⟩
def CMD : Fld := ⟨0x040, 31, 0, 0⟩
def CAUSE_CONV : Fld := ⟨0x044, 23, 20, 0⟩
def CAUSE_M2 : Fld := ⟨0x044, 11, 8, 0⟩
def CAUSE_M1 : Fld := ⟨0x044, 7, 4, 0⟩
def CAUSE_M0 : Fld := ⟨0x044, 3, 0, 0⟩
def CAUSE : Fld := ⟨0x044, 31, 0, 0⟩
def CNT_ASSERTS : Fld := ⟨0x048, 31, 16, 0⟩
def CNT_RELEASES : Fld := ⟨0x048, 15, 0, 0⟩
def CNT : Fld := ⟨0x048, 31, 0, 0⟩

end STO

namespace SSF

/-- The SSF page of number `n`. -/
abbrev pg (n : Nat := 0) : Page := ⟨.ssf, n⟩
def STAT_SBC_FLT : Fld := ⟨0x00C, 17, 16, 0⟩
def STAT_RELEASED : Fld := ⟨0x00C, 13, 12, 0⟩
def STAT_SS1 : Fld := ⟨0x00C, 10, 8, 0⟩
def STAT : Fld := ⟨0x00C, 31, 0, 0⟩
def EVT_TP : Fld := ⟨0x010, 5, 5, 0⟩
def EVT_SBC_FAULT : Fld := ⟨0x010, 4, 4, 0⟩
def EVT_SS1_ESC : Fld := ⟨0x010, 3, 3, 0⟩
def EVT_SS1_FAIL : Fld := ⟨0x010, 2, 2, 0⟩
def EVT_SS1_DONE : Fld := ⟨0x010, 1, 1, 0⟩
def EVT_SS1_START : Fld := ⟨0x010, 0, 0, 0⟩
def EVT : Fld := ⟨0x010, 31, 0, 0⟩
def CMD_LAST_STS : Fld := ⟨0x040, 19, 16, 0⟩
def CMD_CHMASK : Fld := ⟨0x040, 13, 12, 0⟩
def CMD_MASK : Fld := ⟨0x040, 10, 8, 0⟩
def CMD_OP : Fld := ⟨0x040, 3, 0, 0⟩
def CMD : Fld := ⟨0x040, 31, 0, 0⟩
def CNT_SS1_DONE : Fld := ⟨0x044, 31, 16, 0⟩
def CNT_ESCALATED : Fld := ⟨0x044, 15, 0, 0⟩
def CNT : Fld := ⟨0x044, 31, 0, 0⟩
def SBCCFG_TST_PER : Fld := ⟨0x060, 31, 24, 8⟩
def SBCCFG_TST_PW : Fld := ⟨0x060, 23, 16, 8⟩
def SBCCFG_SETTLE : Fld := ⟨0x060, 15, 8, 8⟩
def SBCCFG_DLY : Fld := ⟨0x060, 7, 4, 8⟩
def SBCCFG_MACH : Fld := ⟨0x060, 2, 0, 8⟩
def SBCCFG : Fld := ⟨0x060, 31, 0, 8⟩
def SBCST_OUT : Fld := ⟨0x064, 9, 8, 8⟩
def SBCST_FB : Fld := ⟨0x064, 5, 4, 8⟩
def SBCST_STATE : Fld := ⟨0x064, 2, 0, 8⟩
def SBCST : Fld := ⟨0x064, 31, 0, 8⟩
def MCFG_MPP : Fld := ⟨0x080, 31, 24, 64⟩
def MCFG_TP_WIN : Fld := ⟨0x080, 23, 16, 64⟩
def MCFG_TP_N : Fld := ⟨0x080, 15, 8, 64⟩
def MCFG_TP_EN : Fld := ⟨0x080, 4, 4, 64⟩
def MCFG_STOP : Fld := ⟨0x080, 1, 0, 64⟩
def MCFG : Fld := ⟨0x080, 31, 0, 64⟩
def TIMES_T_WIN : Fld := ⟨0x084, 31, 16, 64⟩
def TIMES_T_DELAY : Fld := ⟨0x084, 15, 0, 64⟩
def TIMES : Fld := ⟨0x084, 31, 0, 64⟩
def DEC_MIN : Fld := ⟨0x088, 31, 0, 64⟩
def W_TOL : Fld := ⟨0x08C, 31, 0, 64⟩
def TP_ABS : Fld := ⟨0x090, 31, 0, 64⟩
def TP_REL : Fld := ⟨0x094, 31, 0, 64⟩
def W_TP : Fld := ⟨0x098, 31, 0, 64⟩
def RS : Fld := ⟨0x09C, 31, 0, 64⟩
def ISC : Fld := ⟨0x0A0, 31, 0, 64⟩
def VSC : Fld := ⟨0x0A4, 31, 0, 64⟩
def MSTAT_STATE : Fld := ⟨0x0A8, 31, 28, 64⟩
def MSTAT_TP_FAILS : Fld := ⟨0x0A8, 15, 0, 64⟩
def MSTAT : Fld := ⟨0x0A8, 31, 0, 64⟩
def WLIM : Fld := ⟨0x0AC, 31, 0, 64⟩
def TEST : Fld := ⟨0x0B0, 31, 0, 64⟩
def TREF : Fld := ⟨0x0B4, 31, 0, 64⟩

end SSF

namespace GHB

/-- The GHB page of number `n`. -/
abbrev pg (n : Nat := 0) : Page := ⟨.ghb, n⟩
def STAT_BALLERR : Fld := ⟨0x00C, 30, 16, 0⟩
def STAT_RUN : Fld := ⟨0x00C, 14, 0, 0⟩
def STAT : Fld := ⟨0x00C, 31, 0, 0⟩
def EVT_READBACK : Fld := ⟨0x010, 1, 1, 0⟩
def EVT_CODE : Fld := ⟨0x010, 0, 0, 0⟩
def EVT : Fld := ⟨0x010, 31, 0, 0⟩
def CFG_ASTATE : Fld := ⟨0x040, 17, 16, 0⟩
def CFG_CSTATE : Fld := ⟨0x040, 1, 0, 0⟩
def CFG : Fld := ⟨0x040, 31, 0, 0⟩
def CODE : Fld := ⟨0x044, 11, 0, 0⟩
def CNT_CHANGES : Fld := ⟨0x048, 31, 0, 0⟩
def CNT : Fld := ⟨0x048, 31, 0, 0⟩

end GHB

namespace SCF

/-- The SCF page of number `n`. -/
abbrev pg (n : Nat := 0) : Page := ⟨.scf, n⟩
def STAT_UNSET : Fld := ⟨0x00C, 6, 6, 0⟩
def STAT_CONSIST : Fld := ⟨0x00C, 5, 5, 0⟩
def STAT_CHANGED : Fld := ⟨0x00C, 4, 4, 0⟩
def STAT_COPY : Fld := ⟨0x00C, 3, 3, 0⟩
def STAT_SESSION : Fld := ⟨0x00C, 1, 0, 0⟩
def STAT : Fld := ⟨0x00C, 31, 0, 0⟩
def EVT_LOCKOUT : Fld := ⟨0x010, 3, 3, 0⟩
def EVT_CONFIRMED : Fld := ⟨0x010, 2, 2, 0⟩
def EVT_AUTH_FAIL : Fld := ⟨0x010, 1, 1, 0⟩
def EVT_SESSION : Fld := ⟨0x010, 0, 0, 0⟩
def EVT : Fld := ⟨0x010, 31, 0, 0⟩
def CFG_MAXTRY : Fld := ⟨0x040, 19, 16, 0⟩
def CFG_SESS_TO : Fld := ⟨0x040, 7, 0, 0⟩
def CFG : Fld := ⟨0x040, 31, 0, 0⟩
def CMD_LAST_STS : Fld := ⟨0x044, 19, 16, 0⟩
def CMD_LEN : Fld := ⟨0x044, 13, 8, 0⟩
def CMD_OP : Fld := ⟨0x044, 3, 0, 0⟩
def CMD : Fld := ⟨0x044, 31, 0, 0⟩
def EXPCRC : Fld := ⟨0x048, 31, 0, 0⟩
def IMGCRC : Fld := ⟨0x04C, 31, 0, 0⟩
def STOCRC : Fld := ⟨0x050, 31, 0, 0⟩
def LOCK_REMAIN : Fld := ⟨0x054, 31, 20, 0⟩
def LOCK_LOCKN : Fld := ⟨0x054, 15, 8, 0⟩
def LOCK_FAILS : Fld := ⟨0x054, 3, 0, 0⟩
def LOCK : Fld := ⟨0x054, 31, 0, 0⟩
def PWD : Fld := ⟨0x060, 31, 0, 4⟩

end SCF

namespace SLG

/-- The SLG page of number `n`. -/
abbrev pg (n : Nat := 0) : Page := ⟨.slg, n⟩
def STAT_RDBUSY : Fld := ⟨0x00C, 3, 3, 0⟩
def STAT_WFAIL : Fld := ⟨0x00C, 2, 2, 0⟩
def STAT_FULL : Fld := ⟨0x00C, 1, 1, 0⟩
def STAT_SECTOR : Fld := ⟨0x00C, 0, 0, 0⟩
def STAT : Fld := ⟨0x00C, 31, 0, 0⟩
def EVT_BROKEN : Fld := ⟨0x010, 1, 1, 0⟩
def EVT_ENTRY : Fld := ⟨0x010, 0, 0, 0⟩
def EVT : Fld := ⟨0x010, 31, 0, 0⟩
def SEQ : Fld := ⟨0x040, 31, 0, 0⟩
def CNT_BROKEN : Fld := ⟨0x044, 31, 16, 0⟩
def CNT_HELD : Fld := ⟨0x044, 12, 0, 0⟩
def CNT : Fld := ⟨0x044, 31, 0, 0⟩
def RDSEQ : Fld := ⟨0x048, 31, 0, 0⟩
def ENT : Fld := ⟨0x060, 31, 0, 4⟩

end SLG

namespace CTX

/-- The CTX page of number `n` (a context record). -/
abbrev pg (n : Nat := 0) : Page := ⟨.ctx, n⟩
def CFG_EN : Fld := ⟨0x000, 31, 31, 0⟩
def CFG_PRIO : Fld := ⟨0x000, 30, 29, 0⟩
def CFG_UPD : Fld := ⟨0x000, 28, 28, 0⟩
def CFG_PAIR : Fld := ⟨0x000, 27, 27, 0⟩
def CFG_PENG : Fld := ⟨0x000, 26, 24, 0⟩
def CFG_ENG : Fld := ⟨0x000, 22, 20, 0⟩
def CFG_REACT : Fld := ⟨0x000, 19, 18, 0⟩
def CFG_MSV : Fld := ⟨0x000, 17, 16, 0⟩
def CFG_LATE_MAX : Fld := ⟨0x000, 15, 8, 0⟩
def CFG_NSTG : Fld := ⟨0x000, 4, 0, 0⟩
def CFG : Fld := ⟨0x000, 31, 0, 0⟩
def TRIG_SRC : Fld := ⟨0x004, 31, 29, 0⟩
def TRIG_IDX : Fld := ⟨0x004, 27, 20, 0⟩
def TRIG_DIV : Fld := ⟨0x004, 19, 12, 0⟩
def TRIG : Fld := ⟨0x004, 31, 0, 0⟩
def TIME_LAT : Fld := ⟨0x008, 31, 16, 0⟩
def TIME_PLEAD : Fld := ⟨0x008, 15, 0, 0⟩
def TIME : Fld := ⟨0x008, 31, 0, 0⟩
def BAND_BAND_A : Fld := ⟨0x00C, 31, 16, 0⟩
def BAND_BAND_S : Fld := ⟨0x00C, 15, 0, 0⟩
def BAND : Fld := ⟨0x00C, 31, 0, 0⟩
def COST_CHAIN : Fld := ⟨0x010, 31, 16, 0⟩
def COST_CHECK : Fld := ⟨0x010, 15, 0, 0⟩
def COST : Fld := ⟨0x010, 31, 0, 0⟩
def COST2_REDO_FIT : Fld := ⟨0x014, 31, 31, 0⟩
def COST2_REDO_P : Fld := ⟨0x014, 15, 0, 0⟩
def COST2 : Fld := ⟨0x014, 31, 0, 0⟩
def UPD_HIT_COUNT : Fld := ⟨0x040, 31, 0, 0⟩
def UPD_HIT : Fld := ⟨0x040, 31, 0, 0⟩
def UPD_CORR_COUNT : Fld := ⟨0x044, 31, 0, 0⟩
def UPD_CORR : Fld := ⟨0x044, 31, 0, 0⟩
def UPD_REDO_COUNT : Fld := ⟨0x048, 31, 0, 0⟩
def UPD_REDO : Fld := ⟨0x048, 31, 0, 0⟩
def LATE_COUNT : Fld := ⟨0x04C, 31, 0, 0⟩
def LATE : Fld := ⟨0x04C, 31, 0, 0⟩
def EXEC_COUNT : Fld := ⟨0x050, 31, 0, 0⟩
def EXEC : Fld := ⟨0x050, 31, 0, 0⟩
def RUN_SLACK : Fld := ⟨0x054, 31, 16, 0⟩
def RUN_LATE_RUN : Fld := ⟨0x054, 7, 0, 0⟩
def RUN : Fld := ⟨0x054, 31, 0, 0⟩
def TDROP_COUNT : Fld := ⟨0x058, 31, 0, 0⟩
def TDROP : Fld := ⟨0x058, 31, 0, 0⟩
def DESC_CODE : Fld := ⟨0x060, 31, 27, 4⟩
def DESC_SRC : Fld := ⟨0x060, 26, 22, 4⟩
def DESC_SRC2 : Fld := ⟨0x060, 21, 17, 4⟩
def DESC_DST : Fld := ⟨0x060, 16, 12, 4⟩
def DESC_N : Fld := ⟨0x060, 11, 9, 4⟩
def DESC_OPT : Fld := ⟨0x060, 8, 7, 4⟩
def DESC_CPTR : Fld := ⟨0x060, 6, 0, 4⟩
def DESC : Fld := ⟨0x060, 31, 0, 4⟩
def BIND_KIND : Fld := ⟨0x0C0, 31, 28, 4⟩
def BIND_SEL : Fld := ⟨0x0C0, 27, 0, 4⟩
def BIND : Fld := ⟨0x0C0, 31, 0, 4⟩
def COEF : Fld := ⟨0x100, 31, 0, 4⟩
def STATE : Fld := ⟨0x300, 31, 0, 4⟩

end CTX

end Sys2Proof.Machine
end

