-- ==== Sys2Proof/Machine/RegTable.lean ====
section
/-! DEFINITION. The register tables of the spec: every register of every block with its offset, reset value and, field by field, access code, range and whether it is a safety parameter. -/

namespace Sys2Proof.Machine

/-- Registers of the SYS page (R19, R20, R478). -/
def sysRegs : List RegDef := [
  ⟨0x004, 1, 4, .none, 0x0, [⟨31, 4, .ro, 0, 0xFFFFFFF, false⟩, ⟨0, 0, .ro, 0, 1, false⟩]⟩,
  ⟨0x00C, 1, 4, .none, 0x0, [⟨2, 2, .ro, 0, 1, false⟩, ⟨1, 1, .ro, 0, 1, false⟩]⟩,
  ⟨0x010, 1, 4, .none, 0x0, [⟨2, 2, .w1c, 0, 1, false⟩, ⟨1, 1, .w1c, 0, 1, false⟩, ⟨0, 0, .w1c, 0, 1, false⟩]⟩,
  ⟨0x040, 1, 4, .none, 0x0, [⟨3, 0, .wo, 0, 0xF, false⟩]⟩,
  ⟨0x044, 1, 4, .none, 0x19, [⟨31, 28, .ro, 0, 0xF, false⟩, ⟨27, 24, .ro, 0, 0xF, false⟩, ⟨19, 16, .ro, 0, 0xF, false⟩, ⟨15, 12, .ro, 0, 0xF, false⟩, ⟨10, 8, .ro, 0, 7, false⟩, ⟨6, 4, .ro, 0, 7, false⟩, ⟨3, 3, .ro, 0, 1, false⟩, ⟨2, 0, .ro, 0, 7, false⟩]⟩,
  ⟨0x048, 1, 4, .none, 0x0, [⟨31, 28, .ro, 0, 0xF, false⟩, ⟨27, 24, .ro, 0, 0xF, false⟩, ⟨23, 20, .ro, 0, 0xF, false⟩, ⟨17, 16, .ro, 0, 3, false⟩]⟩,
  ⟨0x04C, 1, 4, .none, 0x0, [⟨31, 0, .ro, 0, 0xFFFFFFFF, false⟩]⟩,
  ⟨0x050, 1, 4, .none, 0x0, [⟨31, 0, .ro, 0, 0xFFFFFFFF, false⟩]⟩,
  ⟨0x054, 1, 4, .none, 0x0, [⟨31, 0, .ro, 0, 0xFFFFFFFF, false⟩]⟩,
  ⟨0x058, 1, 4, .none, 0x0, [⟨3, 0, .ro, 0, 0xF, false⟩]⟩,
  ⟨0x05C, 1, 4, .none, 0x0, [⟨1, 0, .key, 0, 3, false⟩]⟩]

/-- Registers of the PWR page (R479). -/
def pwrRegs : List RegDef := [
  ⟨0x00C, 1, 4, .none, 0x0, [⟨5, 0, .ro, 0, 0x3F, false⟩]⟩,
  ⟨0x010, 1, 4, .none, 0x0, [⟨0, 0, .w1c, 0, 1, false⟩]⟩,
  ⟨0x040, 1, 4, .none, 0x0, [⟨7, 0, .ro, 0, 0xFF, false⟩]⟩,
  ⟨0x060, 6, 4, .none, 0x0, [⟨15, 0, .ro, 0, 0xFFFF, false⟩]⟩]

/-- Registers of the RST page (R480). -/
def rstRegs : List RegDef := [
  ⟨0x040, 1, 4, .none, 0x81, [⟨31, 28, .ro, 0, 0xF, false⟩, ⟨22, 16, .w1c, 0, 0x7F, false⟩, ⟨10, 8, .ro, 0, 7, false⟩, ⟨7, 7, .ro, 0, 1, false⟩, ⟨3, 0, .ro, 0, 0xF, false⟩]⟩,
  ⟨0x048, 1, 4, .lo, 0x0, [⟨31, 0, .ro, 0, 0xFFFFFFFF, false⟩]⟩,
  ⟨0x04C, 1, 4, .hi, 0x0, [⟨31, 0, .ro, 0, 0xFFFFFFFF, false⟩]⟩,
  ⟨0x050, 1, 4, .none, 0x0, [⟨31, 16, .ro, 0, 0xFFFF, false⟩, ⟨15, 0, .ro, 0, 0xFFFF, false⟩]⟩,
  ⟨0x054, 1, 4, .none, 0x0, [⟨19, 16, .ro, 0, 0xF, false⟩, ⟨3, 0, .wok, 0, 0xF, false⟩]⟩]

/-- Registers of the EVR page (R61, R62). -/
def evrRegs : List RegDef := [
  ⟨0x040, 5, 4, .none, 0x0, [⟨31, 0, .ro, 0, 0xFFFFFFFF, false⟩]⟩,
  ⟨0x100, 160, 4, .none, 0x0, [⟨23, 20, .rws, 0, 0xF, false⟩, ⟨19, 19, .rws, 0, 1, false⟩, ⟨18, 18, .rwsk, 0, 1, false⟩, ⟨17, 17, .rws, 0, 1, false⟩, ⟨16, 16, .rws, 0, 1, false⟩, ⟨11, 8, .rws, 0, 0xF, false⟩, ⟨7, 0, .rws, 0, 0xFF, false⟩]⟩]

/-- Registers of the TBU page (R88). -/
def tbuRegs : List RegDef := [
  ⟨0x00C, 1, 4, .none, 0x0, [⟨5, 5, .ro, 0, 1, false⟩, ⟨4, 4, .ro, 0, 1, false⟩, ⟨3, 3, .ro, 0, 1, false⟩, ⟨2, 2, .ro, 0, 1, false⟩, ⟨1, 0, .ro, 0, 3, false⟩]⟩,
  ⟨0x010, 1, 4, .none, 0x0, [⟨9, 9, .w1c, 0, 1, false⟩, ⟨8, 8, .w1c, 0, 1, false⟩, ⟨7, 7, .w1c, 0, 1, false⟩, ⟨6, 6, .w1c, 0, 1, false⟩, ⟨5, 5, .w1c, 0, 1, false⟩, ⟨4, 4, .w1c, 0, 1, false⟩, ⟨3, 3, .w1c, 0, 1, false⟩, ⟨2, 2, .w1c, 0, 1, false⟩, ⟨1, 1, .w1c, 0, 1, false⟩, ⟨0, 0, .w1c, 0, 1, false⟩]⟩,
  ⟨0x040, 1, 4, .none, 0x10A, [⟨15, 8, .rws, 1, 0xFF, false⟩, ⟨7, 0, .rws, 1, 0xFF, false⟩]⟩,
  ⟨0x044, 1, 4, .none, 0x0, [⟨31, 0, .ro, 0, 0xFFFFFFFF, false⟩]⟩,
  ⟨0x048, 1, 4, .none, 0x0, [⟨31, 24, .ro, 0, 0xFF, false⟩, ⟨23, 16, .ro, 0, 0xFF, false⟩, ⟨15, 0, .ro, 0, 0xFFFF, false⟩]⟩,
  ⟨0x050, 1, 4, .lo, 0x0, [⟨31, 0, .ro, 0, 0xFFFFFFFF, false⟩]⟩,
  ⟨0x054, 1, 4, .hi, 0x0, [⟨31, 0, .ro, 0, 0xFFFFFFFF, false⟩]⟩,
  ⟨0x058, 1, 4, .lo, 0x0, [⟨31, 0, .ro, 0, 0xFFFFFFFF, false⟩]⟩,
  ⟨0x05C, 1, 4, .hi, 0x0, [⟨31, 0, .ro, 0, 0xFFFFFFFF, false⟩]⟩,
  ⟨0x060, 1, 4, .lo, 0x0, [⟨31, 0, .ro, 0, 0xFFFFFFFF, false⟩]⟩,
  ⟨0x064, 1, 4, .hi, 0x0, [⟨31, 0, .ro, 0, 0xFFFFFFFF, false⟩]⟩,
  ⟨0x068, 1, 4, .none, 0x6400, [⟨15, 8, .rws, 1, 0xC8, false⟩, ⟨0, 0, .rws, 0, 1, false⟩]⟩,
  ⟨0x070, 1, 4, .none, 0x500, [⟨15, 8, .rws, 1, 0x14, false⟩, ⟨1, 1, .rws, 0, 1, false⟩, ⟨0, 0, .rws, 0, 1, false⟩]⟩,
  ⟨0x074, 1, 4, .none, 0x0, [⟨31, 31, .ro, 0, 1, false⟩, ⟨30, 0, .ro, 0, 0x7FFFFFFF, false⟩]⟩,
  ⟨0x078, 1, 4, .none, 0x100000, [⟨23, 16, .rws, 1, 0xFF, false⟩, ⟨11, 8, .rws, 0, 0xE, false⟩, ⟨1, 1, .rws, 0, 1, false⟩, ⟨0, 0, .rws, 0, 1, false⟩]⟩,
  ⟨0x100, 15, 32, .none, 0x0, [⟨11, 8, .rws, 0, 0xF, false⟩, ⟨7, 4, .rws, 0, 0xE, false⟩, ⟨2, 1, .rws, 0, 3, false⟩, ⟨0, 0, .rws, 0, 1, false⟩]⟩,
  ⟨0x104, 15, 32, .none, 0x7D000, [⟨30, 7, .rws, 0, 0xFFFFFF, false⟩, ⟨6, 0, .rws, 0, 0x7F, false⟩]⟩,
  ⟨0x108, 15, 32, .none, 0x0, [⟨30, 0, .rws, 0, 0x7FFFFFFF, false⟩]⟩,
  ⟨0x10C, 15, 32, .none, 0x0, [⟨5, 4, .ro, 0, 3, false⟩, ⟨3, 3, .ro, 0, 1, false⟩, ⟨2, 2, .ro, 0, 1, false⟩, ⟨1, 1, .ro, 0, 1, false⟩, ⟨0, 0, .ro, 0, 1, false⟩]⟩,
  ⟨0x110, 15, 32, .lo, 0x0, [⟨31, 0, .rws, 0, 0xFFFFFFFF, false⟩]⟩,
  ⟨0x114, 15, 32, .hi, 0x0, [⟨31, 0, .rws, 0, 0xFFFFFFFF, false⟩]⟩,
  ⟨0x118, 15, 32, .lo, 0x0, [⟨31, 0, .ro, 0, 0xFFFFFFFF, false⟩]⟩,
  ⟨0x11C, 15, 32, .hi, 0x0, [⟨31, 0, .ro, 0, 0xFFFFFFFF, false⟩]⟩,
  ⟨0x300, 16, 16, .none, 0x0, [⟨16, 16, .ro, 0, 1, false⟩, ⟨7, 4, .rws, 0, 0xE, false⟩, ⟨3, 2, .rws, 0, 3, false⟩, ⟨1, 1, .rws, 0, 1, false⟩, ⟨0, 0, .rws, 0, 1, false⟩]⟩,
  ⟨0x304, 16, 16, .none, 0x0, [⟨30, 0, .rws, 0, 0x7FFFFFFF, false⟩]⟩,
  ⟨0x400, 16, 16, .none, 0x0, [⟨31, 31, .w1c, 0, 1, false⟩, ⟨30, 30, .ro, 0, 1, false⟩, ⟨12, 8, .rws, 0, 0x1F, false⟩, ⟨2, 1, .rws, 0, 3, false⟩, ⟨0, 0, .rws, 0, 1, false⟩]⟩,
  ⟨0x404, 16, 16, .lo, 0x0, [⟨31, 0, .ro, 0, 0xFFFFFFFF, false⟩]⟩,
  ⟨0x408, 16, 16, .hi, 0x0, [⟨31, 0, .ro, 0, 0xFFFFFFFF, false⟩]⟩]

/-- Registers of the TMU page (R387). -/
def tmuRegs : List RegDef := [
  ⟨0x00C, 1, 4, .none, 0x0, [⟨3, 3, .ro, 0, 1, false⟩, ⟨2, 2, .ro, 0, 1, false⟩, ⟨1, 1, .ro, 0, 1, false⟩, ⟨0, 0, .ro, 0, 1, false⟩]⟩,
  ⟨0x010, 1, 4, .none, 0x0, [⟨6, 6, .w1c, 0, 1, false⟩, ⟨5, 5, .w1c, 0, 1, false⟩, ⟨4, 4, .w1c, 0, 1, false⟩, ⟨3, 3, .w1c, 0, 1, false⟩, ⟨2, 2, .w1c, 0, 1, false⟩, ⟨1, 1, .w1c, 0, 1, false⟩, ⟨0, 0, .w1c, 0, 1, false⟩]⟩,
  ⟨0x040, 1, 4, .none, 0x84C0A64, [⟨31, 24, .rws, 1, 0x20, false⟩, ⟨23, 20, .rws, 1, 0xF, false⟩, ⟨19, 16, .rws, 0, 0xC, false⟩, ⟨15, 8, .rws, 1, 0xFF, false⟩, ⟨7, 0, .rws, 1, 0xFF, false⟩]⟩,
  ⟨0x044, 1, 4, .none, 0x500028, [⟨31, 16, .rws, 0, 0xFA0, false⟩, ⟨15, 0, .rws, 0, 0xFA0, false⟩]⟩,
  ⟨0x048, 1, 4, .none, 0x9100870, [⟨31, 16, .rws, 0, 0xFFFF, false⟩, ⟨15, 0, .rws, 0, 0xFFFF, false⟩]⟩,
  ⟨0x04C, 1, 4, .none, 0x9B00050, [⟨31, 16, .rws, 0, 0xFFFF, true⟩, ⟨15, 0, .rws, 16, 0x140, false⟩]⟩,
  ⟨0x050, 1, 4, .none, 0x320064, [⟨31, 16, .rws, 1, 0x3E8, false⟩, ⟨7, 0, .rws, 10, 0xFF, false⟩]⟩,
  ⟨0x054, 1, 4, .none, 0x0, [⟨31, 24, .cz, 0, 0xFF, false⟩, ⟨23, 16, .cz, 0, 0xFF, false⟩, ⟨15, 8, .cz, 0, 0xFF, false⟩, ⟨7, 0, .cz, 0, 0xFF, false⟩]⟩,
  ⟨0x060, 1, 4, .none, 0x3F, [⟨31, 16, .ro, 0, 0xFFFF, false⟩, ⟨5, 0, .ro, 0, 0x3F, false⟩]⟩,
  ⟨0x064, 1, 4, .none, 0x0, [⟨28, 24, .ro, 0, 0x1F, false⟩, ⟨2, 0, .ro, 0, 7, false⟩]⟩,
  ⟨0x068, 1, 4, .none, 0x7FFF000F, [⟨31, 16, .ro, 0, 0xFFFF, false⟩, ⟨3, 0, .ro, 0, 0xF, false⟩]⟩,
  ⟨0x06C, 1, 4, .none, 0x0, [⟨29, 24, .ro, 0, 0x3F, false⟩, ⟨23, 0, .ro, 0, 0xFFFFFF, false⟩]⟩,
  ⟨0x070, 6, 4, .none, 0x0, [⟨31, 16, .ro, 0, 0xFFFF, false⟩, ⟨15, 0, .ro, 0, 0xFFFF, false⟩]⟩,
  ⟨0x0A0, 24, 4, .none, 0x0, [⟨31, 16, .ro, 0, 0xFFFF, false⟩, ⟨0, 0, .ro, 0, 1, false⟩]⟩,
  ⟨0x100, 16, 16, .none, 0x0, [⟨31, 31, .rws, 0, 1, false⟩, ⟨30, 30, .rws, 0, 1, false⟩, ⟨25, 24, .rws, 0, 3, false⟩, ⟨20, 16, .rws, 0, 0x1F, false⟩]⟩,
  ⟨0x104, 16, 16, .none, 0x0, [⟨31, 0, .rws, 0, 0xFFFFFFFF, false⟩]⟩,
  ⟨0x108, 16, 16, .none, 0x0, [⟨31, 0, .rws, 0, 0xFFFFFFFF, false⟩]⟩,
  ⟨0x10C, 16, 16, .none, 0x0, [⟨31, 16, .ro, 0, 0xFFFF, false⟩, ⟨0, 0, .ro, 0, 1, false⟩]⟩]

/-- Registers of the ARB page (R408). -/
def arbRegs : List RegDef := [
  ⟨0x010, 1, 4, .none, 0x0, [⟨1, 1, .w1c, 0, 1, false⟩, ⟨0, 0, .w1c, 0, 1, false⟩]⟩,
  ⟨0x040, 1, 4, .none, 0x1900FA0, [⟨31, 16, .rws, 100, 0xFFFF, false⟩, ⟨15, 0, .rws, 1, 0xFFFF, false⟩]⟩,
  ⟨0x044, 1, 4, .none, 0x84, [⟨11, 0, .rws, 0, 0xFFF, false⟩]⟩,
  ⟨0x048, 1, 4, .none, 0x1F, [⟨4, 0, .rws, 0, 0x1F, false⟩]⟩,
  ⟨0x04C, 1, 4, .none, 0x0, [⟨11, 0, .w1c, 0, 0xFFF, false⟩]⟩,
  ⟨0x050, 1, 4, .none, 0x0, [⟨19, 16, .ro, 0, 0xF, false⟩, ⟨3, 0, .wo, 0, 0xF, false⟩]⟩,
  ⟨0x054, 1, 4, .none, 0x0, [⟨31, 16, .ro, 0, 0xFFFF, false⟩, ⟨15, 8, .ro, 0, 0xFF, false⟩, ⟨7, 0, .ro, 0, 0xFF, false⟩]⟩,
  ⟨0x058, 1, 4, .none, 0x0, [⟨31, 0, .ro, 0, 0xFFFFFFFF, false⟩]⟩,
  ⟨0x05C, 1, 4, .none, 0x80000190, [⟨31, 31, .rws, 0, 1, false⟩, ⟨15, 0, .rws, 40, 0xFFFF, false⟩]⟩,
  ⟨0x060, 1, 4, .none, 0x0, [⟨31, 0, .rw, 0, 0xFFFFFFFF, false⟩]⟩,
  ⟨0x064, 4, 4, .none, 0xFFFFFFFF, [⟨31, 0, .rw, 0, 0xFFFFFFFF, false⟩]⟩,
  ⟨0x074, 1, 4, .none, 0x0, [⟨3, 0, .wok, 0, 0xF, false⟩]⟩,
  ⟨0x078, 1, 4, .none, 0x0, [⟨8, 8, .ro, 0, 1, false⟩, ⟨3, 0, .ro, 0, 0xF, false⟩]⟩,
  ⟨0x080, 12, 4, .none, 0x10, [⟨7, 0, .rws, 1, 0xFF, false⟩]⟩,
  ⟨0x100, 12, 16, .lo, 0x0, [⟨31, 0, .ro, 0, 0xFFFFFFFF, false⟩]⟩,
  ⟨0x104, 12, 16, .hi, 0x0, [⟨31, 0, .ro, 0, 0xFFFFFFFF, false⟩]⟩,
  ⟨0x108, 12, 16, .none, 0x0, [⟨31, 0, .ro, 0, 0xFFFFFFFF, false⟩]⟩,
  ⟨0x10C, 12, 16, .none, 0x0, [⟨15, 0, .ro, 0, 0xFFFF, false⟩]⟩]

/-- Registers of the DMA page (R401, R409). -/
def dmaRegs : List RegDef := [
  ⟨0x00C, 1, 4, .none, 0x0, [⟨15, 0, .ro, 0, 0xFFFF, false⟩]⟩,
  ⟨0x010, 1, 4, .none, 0x0, [⟨4, 4, .w1c, 0, 1, false⟩, ⟨3, 3, .w1c, 0, 1, false⟩, ⟨2, 2, .w1c, 0, 1, false⟩, ⟨1, 1, .w1c, 0, 1, false⟩, ⟨0, 0, .w1c, 0, 1, false⟩]⟩,
  ⟨0x040, 1, 4, .none, 0x0, [⟨19, 16, .ro, 0, 0xF, false⟩, ⟨11, 8, .wo, 0, 0xF, false⟩, ⟨3, 0, .wo, 0, 0xF, false⟩]⟩,
  ⟨0x100, 16, 64, .none, 0x20D0000, [⟨31, 31, .rws, 0, 1, false⟩, ⟨30, 29, .rws, 0, 3, false⟩, ⟨28, 28, .rws, 0, 1, false⟩, ⟨27, 27, .rws, 0, 1, false⟩, ⟨26, 24, .rws, 2, 6, false⟩, ⟨20, 16, .rws, 6, 0x12, false⟩]⟩,
  ⟨0x104, 16, 64, .none, 0x20000000, [⟨31, 0, .rws, 0, 0xFFFFFFFF, false⟩]⟩,
  ⟨0x108, 16, 64, .none, 0x0, [⟨18, 0, .rws, 0, 0x7FFFF, false⟩]⟩,
  ⟨0x10C, 16, 64, .none, 0x0, [⟨31, 0, .rws, 0, 0xFFFFFFFF, false⟩]⟩,
  ⟨0x110, 16, 64, .none, 0x1, [⟨16, 0, .rws, 1, 0x10000, false⟩]⟩,
  ⟨0x114, 16, 64, .none, 0x0, [⟨17, 0, .ro, 0, 0x3FFFF, false⟩]⟩,
  ⟨0x118, 16, 64, .none, 0x0, [⟨17, 0, .rw, 0, 0x3FFFF, false⟩]⟩,
  ⟨0x11C, 16, 64, .none, 0x0, [⟨18, 0, .ro, 0, 0x7FFFF, false⟩]⟩,
  ⟨0x120, 16, 64, .none, 0x0, [⟨5, 5, .w1c, 0, 1, false⟩, ⟨4, 4, .ro, 0, 1, false⟩, ⟨3, 3, .w1c, 0, 1, false⟩, ⟨2, 2, .w1c, 0, 1, false⟩, ⟨1, 1, .w1c, 0, 1, false⟩, ⟨0, 0, .ro, 0, 1, false⟩]⟩,
  ⟨0x124, 16, 64, .none, 0x0, [⟨31, 16, .cz, 0, 0xFFFF, false⟩, ⟨15, 0, .cz, 0, 0xFFFF, false⟩]⟩,
  ⟨0x128, 16, 64, .lo, 0x0, [⟨31, 0, .ro, 0, 0xFFFFFFFF, false⟩]⟩,
  ⟨0x12C, 16, 64, .hi, 0x0, [⟨31, 0, .ro, 0, 0xFFFFFFFF, false⟩]⟩,
  ⟨0x130, 16, 64, .none, 0x0, [⟨31, 31, .w1c, 0, 1, false⟩, ⟨16, 16, .ro, 0, 1, false⟩, ⟨15, 12, .ro, 0, 0xF, false⟩, ⟨9, 9, .wo, 0, 1, false⟩, ⟨8, 8, .wo, 0, 1, false⟩, ⟨3, 0, .ro, 0, 0xF, false⟩]⟩]

/-- Registers of the CRC page (R410). -/
def crcRegs : List RegDef := [
  ⟨0x00C, 1, 4, .none, 0x0, [⟨1, 1, .ro, 0, 1, false⟩, ⟨0, 0, .ro, 0, 1, false⟩]⟩,
  ⟨0x010, 1, 4, .none, 0x0, [⟨0, 0, .w1c, 0, 1, false⟩]⟩,
  ⟨0x040, 1, 4, .none, 0x306, [⟨9, 8, .rw, 0, 3, false⟩, ⟨5, 4, .rw, 0, 2, false⟩, ⟨2, 2, .rw, 0, 1, false⟩, ⟨1, 1, .rw, 0, 1, false⟩]⟩,
  ⟨0x044, 1, 4, .none, 0xFFFFFFFF, [⟨31, 0, .rw, 0, 0xFFFFFFFF, false⟩]⟩,
  ⟨0x048, 1, 4, .none, 0xFFFFFFFF, [⟨31, 0, .rw, 0, 0xFFFFFFFF, false⟩]⟩,
  ⟨0x04C, 1, 4, .none, 0x0, [⟨31, 0, .rw, 0, 0xFFFFFFFF, false⟩]⟩,
  ⟨0x050, 1, 4, .none, 0x0, [⟨31, 0, .rw, 0, 0xFFFFFFFF, false⟩]⟩,
  ⟨0x054, 1, 4, .none, 0x0, [⟨0, 0, .wo, 0, 1, false⟩]⟩,
  ⟨0x058, 1, 4, .none, 0x0, [⟨31, 0, .wo, 0, 0xFFFFFFFF, false⟩]⟩,
  ⟨0x060, 1, 4, .lo, 0x0, [⟨31, 0, .ro, 0, 0xFFFFFFFF, false⟩]⟩,
  ⟨0x064, 1, 4, .hi, 0x0, [⟨31, 0, .ro, 0, 0xFFFFFFFF, false⟩]⟩]

/-- Registers of the GPIO page (R476). -/
def gpioRegs : List RegDef := [
  ⟨0x040, 2, 4, .none, 0x0, [⟨31, 0, .ro, 0, 0xFFFFFFFF, false⟩]⟩,
  ⟨0x048, 2, 4, .none, 0x0, [⟨31, 0, .rws, 0, 0xFFFFFFFF, false⟩]⟩,
  ⟨0x050, 2, 4, .none, 0x0, [⟨31, 0, .rws, 0, 0xFFFFFFFF, false⟩]⟩,
  ⟨0x058, 2, 4, .none, 0x0, [⟨31, 0, .ro, 0, 0xFFFFFFFF, false⟩]⟩]

/-- Registers of the TPW page (R113). -/
def tpwRegs : List RegDef := [
  ⟨0x004, 1, 4, .none, 0x1, [⟨1, 1, .ro, 0, 1, false⟩, ⟨0, 0, .ro, 0, 1, false⟩]⟩,
  ⟨0x00C, 1, 4, .none, 0x8, [⟨7, 7, .ro, 0, 1, false⟩, ⟨6, 6, .ro, 0, 1, false⟩, ⟨5, 5, .ro, 0, 1, false⟩, ⟨4, 4, .ro, 0, 1, false⟩, ⟨3, 3, .ro, 0, 1, false⟩, ⟨2, 2, .ro, 0, 1, false⟩, ⟨1, 1, .ro, 0, 1, false⟩, ⟨0, 0, .ro, 0, 1, false⟩]⟩,
  ⟨0x010, 1, 4, .none, 0x0, [⟨7, 7, .w1c, 0, 1, false⟩, ⟨6, 6, .w1c, 0, 1, false⟩, ⟨5, 5, .w1c, 0, 1, false⟩, ⟨4, 4, .w1c, 0, 1, false⟩, ⟨3, 3, .w1c, 0, 1, false⟩, ⟨2, 2, .w1c, 0, 1, false⟩, ⟨1, 1, .w1c, 0, 1, false⟩, ⟨0, 0, .w1c, 0, 1, false⟩]⟩,
  ⟨0x040, 1, 4, .none, 0x10000, [⟨23, 20, .rws, 0, 0xE, false⟩, ⟨18, 18, .rws, 0, 1, false⟩, ⟨17, 17, .rws, 0, 1, false⟩, ⟨16, 16, .rws, 0, 1, false⟩, ⟨8, 8, .rws, 0, 1, false⟩, ⟨4, 4, .rws, 0, 1, false⟩, ⟨2, 0, .rws, 0, 7, false⟩]⟩,
  ⟨0x044, 1, 4, .none, 0x6400, [⟨16, 0, .rws, 0, 0x1F400, true⟩]⟩,
  ⟨0x048, 1, 4, .none, 0x28, [⟨8, 0, .rws, 1, 0x190, false⟩]⟩,
  ⟨0x04C, 1, 4, .none, 0x4, [⟨7, 0, .rws, 1, 0xFF, false⟩]⟩,
  ⟨0x050, 1, 4, .none, 0x4040000, [⟨27, 24, .ro, 0, 0xF, false⟩, ⟨18, 16, .ro, 0, 7, false⟩, ⟨2, 0, .wo, 0, 7, false⟩]⟩,
  ⟨0x054, 1, 4, .none, 0x0, [⟨13, 8, .ro, 0, 0x3F, false⟩, ⟨5, 0, .ro, 0, 0x3F, false⟩]⟩,
  ⟨0x058, 1, 4, .none, 0x0, [⟨31, 16, .cz, 0, 0xFFFF, false⟩, ⟨15, 8, .cz, 0, 0xFF, false⟩, ⟨7, 0, .ro, 0, 0xFF, false⟩]⟩,
  ⟨0x060, 3, 4, .none, 0x0, [⟨30, 0, .rw, 0, 0x7FFFFFFF, false⟩]⟩,
  ⟨0x070, 3, 4, .none, 0x0, [⟨30, 0, .ro, 0, 0x7FFFFFFF, false⟩]⟩,
  ⟨0x080, 1, 4, .lo, 0x0, [⟨31, 0, .ro, 0, 0xFFFFFFFF, false⟩]⟩,
  ⟨0x084, 1, 4, .hi, 0x0, [⟨31, 0, .ro, 0, 0xFFFFFFFF, false⟩]⟩]

/-- Registers of the ACT page (R306). -/
def actRegs : List RegDef := [
  ⟨0x00C, 1, 4, .none, 0x0, [⟨21, 20, .ro, 0, 3, false⟩, ⟨18, 16, .ro, 0, 7, false⟩, ⟨13, 13, .ro, 0, 1, false⟩, ⟨12, 12, .ro, 0, 1, false⟩, ⟨10, 8, .ro, 0, 7, false⟩, ⟨5, 4, .ro, 0, 3, false⟩, ⟨2, 0, .ro, 0, 7, false⟩]⟩,
  ⟨0x010, 1, 4, .none, 0x0, [⟨6, 6, .w1c, 0, 1, false⟩, ⟨5, 5, .w1c, 0, 1, false⟩, ⟨4, 4, .w1c, 0, 1, false⟩, ⟨3, 3, .w1c, 0, 1, false⟩, ⟨2, 2, .w1c, 0, 1, false⟩, ⟨1, 1, .w1c, 0, 1, false⟩, ⟨0, 0, .w1c, 0, 1, false⟩]⟩,
  ⟨0x040, 1, 4, .none, 0x70600000, [⟨30, 28, .rws, 0, 7, false⟩, ⟨25, 24, .rws, 0, 3, false⟩, ⟨23, 20, .rws, 0, 0xE, false⟩, ⟨17, 16, .rws, 0, 3, false⟩, ⟨12, 12, .rws, 0, 1, false⟩, ⟨5, 4, .rws, 0, 1, false⟩, ⟨2, 2, .rws, 0, 1, false⟩, ⟨1, 1, .rws, 0, 1, false⟩, ⟨0, 0, .rws, 0, 1, false⟩]⟩,
  ⟨0x044, 1, 4, .none, 0x280064, [⟨25, 16, .rws, 1, 0x3E8, false⟩, ⟨9, 0, .rws, 0, 0x3E8, false⟩]⟩,
  ⟨0x048, 1, 4, .none, 0x3E80643, [⟨31, 16, .rws, 0, 0xFFFF, false⟩, ⟨15, 4, .rws, 10, 0xFA0, false⟩, ⟨1, 0, .rws, 0, 3, false⟩]⟩,
  ⟨0x04C, 1, 4, .none, 0x0, [⟨29, 24, .rws, 0, 0x2F, false⟩, ⟨21, 16, .rws, 0, 0x2F, false⟩, ⟨13, 8, .rws, 0, 0x2F, false⟩, ⟨0, 0, .rws, 0, 1, false⟩]⟩,
  ⟨0x050, 1, 4, .none, 0x10, [⟨16, 16, .rws, 0, 1, false⟩, ⟨13, 12, .rws, 0, 2, false⟩, ⟨7, 0, .rws, 1, 0xFF, false⟩]⟩,
  ⟨0x054, 1, 4, .none, 0x101004, [⟨31, 24, .rws, 0, 0xFF, false⟩, ⟨23, 16, .rws, 1, 0xFF, false⟩, ⟨15, 8, .rws, 1, 0xFF, false⟩, ⟨7, 0, .rws, 1, 0xFF, false⟩]⟩,
  ⟨0x058, 1, 4, .none, 0x0, [⟨19, 16, .ro, 0, 0xF, false⟩, ⟨3, 0, .wo, 0, 0xF, false⟩]⟩,
  ⟨0x05C, 1, 4, .none, 0x0, [⟨31, 0, .rw, 0, 0xFFFFFFFF, false⟩]⟩,
  ⟨0x060, 1, 4, .none, 0x0, [⟨31, 0, .ro, 0, 0xFFFFFFFF, false⟩]⟩,
  ⟨0x064, 1, 4, .none, 0x0, [⟨31, 0, .ro, 0, 0xFFFFFFFF, false⟩]⟩,
  ⟨0x068, 1, 4, .none, 0x0, [⟨31, 0, .ro, 0, 0xFFFFFFFF, false⟩]⟩,
  ⟨0x06C, 1, 4, .none, 0x0, [⟨31, 24, .cz, 0, 0xFF, false⟩, ⟨23, 16, .cz, 0, 0xFF, false⟩, ⟨15, 8, .cz, 0, 0xFF, false⟩, ⟨7, 0, .cz, 0, 0xFF, false⟩]⟩,
  ⟨0x070, 3, 4, .none, 0x0, [⟨19, 0, .rw, 0, 0xFFFFF, false⟩]⟩,
  ⟨0x080, 17, 4, .none, 0x0, [⟨31, 0, .rws, 0, 0xFFFFFFFF, false⟩]⟩]

/-- Registers of the POS page (R229). -/
def posRegs : List RegDef := [
  ⟨0x00C, 1, 4, .none, 0x0, [⟨2, 2, .ro, 0, 1, false⟩, ⟨1, 1, .ro, 0, 1, false⟩, ⟨0, 0, .ro, 0, 1, false⟩]⟩,
  ⟨0x010, 1, 4, .none, 0x0, [⟨7, 7, .w1c, 0, 1, false⟩, ⟨6, 6, .w1c, 0, 1, false⟩, ⟨5, 5, .w1c, 0, 1, false⟩, ⟨4, 4, .w1c, 0, 1, false⟩, ⟨3, 3, .w1c, 0, 1, false⟩, ⟨2, 2, .w1c, 0, 1, false⟩, ⟨1, 1, .w1c, 0, 1, false⟩, ⟨0, 0, .w1c, 0, 1, false⟩]⟩,
  ⟨0x040, 1, 4, .none, 0x4100000, [⟨28, 24, .rws, 1, 0x10, false⟩, ⟨22, 20, .rws, 1, 8, false⟩, ⟨19, 16, .rws, 0, 0xF, false⟩, ⟨14, 12, .rws, 0, 7, false⟩, ⟨10, 8, .rws, 0, 7, false⟩, ⟨6, 4, .rws, 0, 7, false⟩, ⟨2, 0, .rws, 0, 7, false⟩]⟩,
  ⟨0x044, 1, 4, .none, 0x2000004, [⟨31, 16, .rws, 1, 0x2000, true⟩, ⟨7, 0, .rws, 1, 0xFF, true⟩]⟩,
  ⟨0x048, 1, 4, .none, 0x281101, [⟨31, 24, .rws, 0, 0xFF, false⟩, ⟨21, 16, .rws, 0, 0x3F, false⟩, ⟨13, 12, .rws, 0, 3, false⟩, ⟨9, 8, .rws, 0, 3, false⟩, ⟨0, 0, .rws, 0, 1, false⟩]⟩,
  ⟨0x04C, 1, 4, .none, 0x70002000, [⟨31, 16, .rws, 0, 0xFFFF, false⟩, ⟨15, 0, .rws, 0, 0xFFFF, false⟩]⟩,
  ⟨0x050, 1, 4, .none, 0x4000400, [⟨31, 16, .rws, 16, 0xFFFF, false⟩, ⟨15, 8, .rws, 0, 0xFF, false⟩, ⟨1, 1, .rws, 0, 1, false⟩, ⟨0, 0, .rws, 0, 1, false⟩]⟩,
  ⟨0x054, 1, 4, .none, 0x0, [⟨16, 16, .rws, 0, 1, false⟩, ⟨15, 0, .rws, 0, 0xFFFF, false⟩]⟩,
  ⟨0x058, 1, 4, .none, 0x0, [⟨31, 16, .rws, 0, 0xFFFF, false⟩, ⟨15, 0, .rws, 0, 0xFFFF, false⟩]⟩,
  ⟨0x05C, 1, 4, .none, 0x10000400, [⟨30, 28, .rws, 0, 7, false⟩, ⟨26, 24, .rws, 0, 7, false⟩, ⟨21, 20, .rws, 0, 2, false⟩, ⟨19, 19, .rws, 0, 1, false⟩, ⟨15, 8, .rws, 1, 0xFF, false⟩]⟩,
  ⟨0x060, 10, 4, .none, 0x0, [⟨31, 0, .rws, 0, 0xFFFFFFFF, false⟩]⟩,
  ⟨0x088, 1, 4, .none, 0x0, [⟨31, 0, .rws, 0, 0xFFFFFFFF, true⟩]⟩,
  ⟨0x08C, 1, 4, .none, 0xC00D0400, [⟨31, 24, .rws, 128, 0xFF, true⟩, ⟨23, 16, .rws, 1, 0x40, true⟩, ⟨15, 8, .rws, 2, 0xFF, true⟩]⟩,
  ⟨0x090, 1, 4, .none, 0x0, [⟨19, 16, .ro, 0, 0xF, false⟩, ⟨3, 0, .wo, 0, 0xF, false⟩]⟩,
  ⟨0x0A0, 1, 4, .none, 0x0, [⟨31, 31, .ro, 0, 1, false⟩, ⟨30, 28, .ro, 0, 7, false⟩, ⟨27, 24, .ro, 0, 0xF, false⟩, ⟨23, 16, .ro, 0, 0xFF, false⟩, ⟨15, 0, .ro, 0, 0xFFFF, false⟩]⟩,
  ⟨0x0A4, 1, 4, .none, 0x0, [⟨31, 0, .ro, 0, 0xFFFFFFFF, false⟩]⟩,
  ⟨0x0A8, 1, 4, .none, 0x0, [⟨11, 8, .ro, 0, 0xF, false⟩, ⟨3, 0, .ro, 0, 0xF, false⟩]⟩,
  ⟨0x0AC, 1, 4, .none, 0x0, [⟨31, 16, .ro, 0, 0xFFFF, false⟩, ⟨15, 0, .ro, 0, 0xFFFF, false⟩]⟩,
  ⟨0x0B0, 1, 4, .none, 0x0, [⟨31, 16, .ro, 0, 0xFFFF, false⟩, ⟨15, 0, .ro, 0, 0xFFFF, false⟩]⟩,
  ⟨0x0B4, 1, 4, .none, 0x0, [⟨31, 16, .ro, 0, 0xFFFF, false⟩, ⟨15, 0, .ro, 0, 0xFFFF, false⟩]⟩,
  ⟨0x0B8, 1, 4, .none, 0x0, [⟨31, 24, .ro, 0, 0xFF, false⟩, ⟨23, 16, .ro, 0, 0xFF, false⟩, ⟨15, 8, .ro, 0, 0xFF, false⟩, ⟨7, 0, .ro, 0, 0xFF, false⟩]⟩,
  ⟨0x0BC, 1, 4, .none, 0x0, [⟨31, 24, .cz, 0, 0xFF, false⟩, ⟨23, 16, .cz, 0, 0xFF, false⟩, ⟨15, 8, .cz, 0, 0xFF, false⟩, ⟨7, 0, .cz, 0, 0xFF, false⟩]⟩,
  ⟨0x0C0, 1, 4, .lo, 0x0, [⟨31, 0, .ro, 0, 0xFFFFFFFF, false⟩]⟩,
  ⟨0x0C4, 1, 4, .hi, 0x0, [⟨31, 0, .ro, 0, 0xFFFFFFFF, false⟩]⟩]

/-- Registers of the CIR page (R174). -/
def cirRegs : List RegDef := [
  ⟨0x00C, 1, 4, .none, 0x100, [⟨8, 8, .ro, 0, 1, false⟩, ⟨7, 0, .ro, 0, 0xFF, false⟩]⟩,
  ⟨0x010, 1, 4, .none, 0x0, [⟨6, 6, .w1c, 0, 1, false⟩, ⟨5, 5, .w1c, 0, 1, false⟩, ⟨4, 4, .w1c, 0, 1, false⟩, ⟨3, 3, .w1c, 0, 1, false⟩, ⟨2, 2, .w1c, 0, 1, false⟩, ⟨1, 1, .w1c, 0, 1, false⟩, ⟨0, 0, .w1c, 0, 1, false⟩]⟩,
  ⟨0x040, 1, 4, .none, 0x50, [⟨6, 0, .rws, 50, 0x5A, false⟩]⟩,
  ⟨0x044, 1, 4, .none, 0x0, [⟨31, 24, .ro, 0, 0xFF, false⟩, ⟨23, 20, .ro, 0, 0xF, false⟩, ⟨19, 16, .ro, 0, 0xF, false⟩, ⟨15, 0, .ro, 0, 0xFFFF, false⟩]⟩,
  ⟨0x048, 1, 4, .none, 0x0, [⟨15, 8, .ro, 0, 0xFF, false⟩, ⟨7, 0, .ro, 0, 0xFF, false⟩]⟩,
  ⟨0x04C, 1, 4, .none, 0x0, [⟨11, 8, .ro, 0, 0xF, false⟩, ⟨7, 4, .ro, 0, 0xF, false⟩, ⟨3, 0, .ro, 0, 0xF, false⟩]⟩,
  ⟨0x050, 1, 4, .none, 0x0, [⟨31, 24, .wo, 0, 0xFF, false⟩, ⟨3, 0, .wo, 0, 0xF, false⟩]⟩,
  ⟨0x054, 1, 4, .none, 0x0, [⟨3, 0, .ro, 0, 0xF, false⟩]⟩,
  ⟨0x058, 1, 4, .none, 0x0, [⟨31, 24, .ro, 0, 0xFF, false⟩, ⟨11, 0, .ro, 0, 0xFFF, false⟩]⟩,
  ⟨0x05C, 1, 4, .none, 0x0, [⟨31, 16, .cz, 0, 0xFFFF, false⟩, ⟨7, 0, .ro, 0, 0xFF, false⟩]⟩,
  ⟨0x060, 1, 4, .none, 0x0, [⟨31, 16, .cz, 0, 0xFFFF, false⟩, ⟨7, 0, .ro, 0, 0xFF, false⟩]⟩,
  ⟨0x070, 4, 4, .none, 0x0, [⟨31, 0, .ro, 0, 0xFFFFFFFF, false⟩]⟩,
  ⟨0x080, 8, 4, .none, 0x7FFF, [⟨31, 16, .ro, 0, 0xFFFF, false⟩, ⟨15, 0, .ro, 0, 0xFFFF, false⟩]⟩,
  ⟨0x0A0, 8, 4, .none, 0x0, [⟨31, 0, .w1c, 0, 0xFFFFFFFF, false⟩]⟩]

/-- Registers of the ADF page (R142). -/
def adfRegs : List RegDef := [
  ⟨0x00C, 1, 4, .none, 0x0, [⟨2, 2, .ro, 0, 1, false⟩, ⟨1, 1, .ro, 0, 1, false⟩, ⟨0, 0, .ro, 0, 1, false⟩]⟩,
  ⟨0x010, 1, 4, .none, 0x0, [⟨5, 5, .w1c, 0, 1, false⟩, ⟨4, 4, .w1c, 0, 1, false⟩, ⟨3, 3, .w1c, 0, 1, false⟩, ⟨2, 2, .w1c, 0, 1, false⟩, ⟨1, 1, .w1c, 0, 1, false⟩, ⟨0, 0, .w1c, 0, 1, false⟩]⟩,
  ⟨0x040, 1, 4, .none, 0x200, [⟨23, 20, .rws, 0, 0xF, false⟩, ⟨16, 16, .rws, 0, 1, false⟩, ⟨15, 12, .rws, 0, 0xF, false⟩, ⟨9, 8, .rws, 0, 3, false⟩, ⟨4, 4, .rws, 0, 1, false⟩]⟩,
  ⟨0x044, 2, 4, .none, 0x0, [⟨30, 0, .rws, 0, 0x7FFFFFFF, false⟩]⟩,
  ⟨0x04C, 1, 4, .none, 0xF0, [⟨11, 8, .rws, 0, 0xF, false⟩, ⟨7, 4, .rws, 0, 0xF, false⟩, ⟨3, 0, .rws, 0, 0xF, false⟩]⟩,
  ⟨0x050, 1, 4, .none, 0x0, [⟨0, 0, .wo, 0, 1, false⟩]⟩,
  ⟨0x054, 1, 4, .none, 0x0, [⟨8, 8, .rws, 0, 1, false⟩, ⟨7, 4, .rws, 0, 0xF, false⟩, ⟨0, 0, .rws, 0, 1, false⟩]⟩,
  ⟨0x058, 1, 4, .none, 0x0, [⟨15, 8, .rws, 0, 0xFF, false⟩, ⟨7, 0, .rws, 0, 0xFF, false⟩]⟩,
  ⟨0x05C, 1, 4, .none, 0x0, [⟨7, 0, .ro, 0, 0xFF, false⟩]⟩,
  ⟨0x060, 1, 4, .none, 0x0, [⟨31, 24, .cz, 0, 0xFF, false⟩, ⟨23, 16, .cz, 0, 0xFF, false⟩, ⟨15, 8, .cz, 0, 0xFF, false⟩, ⟨7, 0, .cz, 0, 0xFF, false⟩]⟩,
  ⟨0x064, 1, 4, .none, 0x0, [⟨19, 16, .ro, 0, 0xF, false⟩, ⟨11, 8, .ro, 0, 0xF, false⟩, ⟨3, 0, .ro, 0, 0xF, false⟩]⟩,
  ⟨0x068, 1, 4, .lo, 0x0, [⟨31, 0, .ro, 0, 0xFFFFFFFF, false⟩]⟩,
  ⟨0x06C, 1, 4, .hi, 0x0, [⟨31, 0, .ro, 0, 0xFFFFFFFF, false⟩]⟩,
  ⟨0x080, 4, 8, .lo, 0x0, [⟨31, 0, .ro, 0, 0xFFFFFFFF, false⟩]⟩,
  ⟨0x084, 4, 8, .hi, 0x0, [⟨31, 0, .ro, 0, 0xFFFFFFFF, false⟩]⟩,
  ⟨0x0A0, 4, 8, .lo, 0x0, [⟨31, 0, .ro, 0, 0xFFFFFFFF, false⟩]⟩,
  ⟨0x0A4, 4, 8, .hi, 0x0, [⟨31, 0, .ro, 0, 0xFFFFFFFF, false⟩]⟩,
  ⟨0x0C0, 4, 8, .lo, 0x0, [⟨31, 0, .ro, 0, 0xFFFFFFFF, false⟩]⟩,
  ⟨0x0C4, 4, 8, .hi, 0x0, [⟨31, 0, .ro, 0, 0xFFFFFFFF, false⟩]⟩]

/-- Registers of the ADH page (R143). -/
def adhRegs : List RegDef := [
  ⟨0x00C, 1, 4, .none, 0x0, [⟨10, 8, .ro, 0, 7, false⟩, ⟨7, 7, .ro, 0, 1, false⟩, ⟨6, 6, .ro, 0, 1, false⟩, ⟨5, 0, .ro, 0, 0x3F, false⟩]⟩,
  ⟨0x010, 1, 4, .none, 0x0, [⟨4, 4, .w1c, 0, 1, false⟩, ⟨3, 3, .w1c, 0, 1, false⟩, ⟨2, 2, .w1c, 0, 1, false⟩, ⟨1, 1, .w1c, 0, 1, false⟩, ⟨0, 0, .w1c, 0, 1, false⟩]⟩,
  ⟨0x040, 1, 4, .none, 0x3000, [⟨31, 28, .rws, 0, 0xF, false⟩, ⟨23, 20, .rws, 0, 0xF, false⟩, ⟨19, 16, .rws, 0, 0xF, false⟩, ⟨13, 12, .rws, 0, 3, false⟩, ⟨9, 9, .rws, 0, 1, false⟩, ⟨7, 7, .rws, 0, 1, false⟩, ⟨5, 0, .rws, 0, 0x3F, false⟩]⟩,
  ⟨0x044, 1, 4, .none, 0x0, [⟨30, 0, .rws, 0, 0x7FFFFFFF, false⟩]⟩,
  ⟨0x048, 1, 4, .none, 0x0, [⟨17, 16, .rws, 0, 3, false⟩, ⟨1, 1, .wo, 0, 1, false⟩, ⟨0, 0, .wo, 0, 1, false⟩]⟩,
  ⟨0x04C, 1, 4, .none, 0x0, [⟨15, 12, .rws, 0, 0xF, false⟩, ⟨11, 11, .rws, 0, 1, false⟩, ⟨8, 8, .rws, 0, 1, false⟩, ⟨7, 4, .rws, 0, 0xF, false⟩, ⟨0, 0, .rws, 0, 1, false⟩]⟩,
  ⟨0x050, 1, 4, .none, 0x0, [⟨31, 24, .cz, 0, 0xFF, false⟩, ⟨23, 16, .cz, 0, 0xFF, false⟩, ⟨15, 8, .cz, 0, 0xFF, false⟩, ⟨7, 0, .cz, 0, 0xFF, false⟩]⟩,
  ⟨0x100, 32, 4, .none, 0x0, [⟨31, 24, .rws, 0, 0xFF, false⟩, ⟨23, 16, .rws, 0, 0xFF, false⟩, ⟨13, 12, .rws, 0, 3, false⟩, ⟨11, 11, .rws, 0, 1, false⟩, ⟨10, 10, .rws, 0, 1, false⟩, ⟨4, 0, .rws, 0, 0x1F, false⟩]⟩,
  ⟨0x180, 4, 4, .none, 0x0, [⟨31, 24, .rws, 0, 0xFF, false⟩, ⟨23, 16, .rws, 0, 0xFF, false⟩, ⟨13, 12, .rws, 0, 3, false⟩, ⟨11, 11, .rws, 0, 1, false⟩, ⟨10, 10, .rws, 0, 1, false⟩, ⟨4, 0, .rws, 0, 0x1F, false⟩]⟩,
  ⟨0x1C0, 8, 4, .none, 0x0, [⟨31, 31, .rws, 0, 1, false⟩, ⟨25, 24, .rws, 0, 3, false⟩, ⟨23, 21, .rws, 0, 7, false⟩, ⟨20, 16, .rws, 0, 0x1F, false⟩, ⟨15, 15, .rws, 0, 1, false⟩, ⟨9, 8, .rws, 0, 3, false⟩, ⟨7, 5, .rws, 0, 7, false⟩, ⟨4, 0, .rws, 0, 0x1F, false⟩]⟩,
  ⟨0x200, 32, 8, .lo, 0x0, [⟨31, 0, .ro, 0, 0xFFFFFFFF, false⟩]⟩,
  ⟨0x204, 32, 8, .hi, 0x0, [⟨31, 0, .ro, 0, 0xFFFFFFFF, false⟩]⟩,
  ⟨0x300, 4, 8, .lo, 0x0, [⟨31, 0, .ro, 0, 0xFFFFFFFF, false⟩]⟩,
  ⟨0x304, 4, 8, .hi, 0x0, [⟨31, 0, .ro, 0, 0xFFFFFFFF, false⟩]⟩]

/-- Registers of the ADR page (R144). -/
def adrRegs : List RegDef := [
  ⟨0x040, 1, 4, .none, 0x7, [⟨2, 0, .rws, 0, 7, false⟩]⟩,
  ⟨0x044, 1, 4, .none, 0x0, [⟨6, 4, .ro, 0, 7, false⟩, ⟨2, 0, .ro, 0, 7, false⟩]⟩,
  ⟨0x048, 1, 4, .none, 0x7530, [⟨14, 0, .rws, 16384, 0x7FFF, false⟩]⟩,
  ⟨0x04C, 1, 4, .none, 0xA, [⟨7, 0, .rws, 1, 0xFF, true⟩]⟩,
  ⟨0x100, 36, 4, .none, 0x0, [⟨31, 0, .ro, 0, 0xFFFFFFFF, false⟩]⟩,
  ⟨0x200, 36, 4, .none, 0x0, [⟨31, 0, .ro, 0, 0xFFFFFFFF, false⟩]⟩]

/-- Registers of the DCD page (R271). -/
def dcdRegs : List RegDef := [
  ⟨0x00C, 1, 4, .none, 0x0, [⟨9, 9, .ro, 0, 1, false⟩, ⟨8, 8, .ro, 0, 1, false⟩, ⟨6, 4, .ro, 0, 7, false⟩, ⟨2, 0, .ro, 0, 7, false⟩]⟩,
  ⟨0x010, 1, 4, .none, 0x0, [⟨5, 5, .w1c, 0, 1, false⟩, ⟨4, 4, .w1c, 0, 1, false⟩, ⟨3, 3, .w1c, 0, 1, false⟩, ⟨2, 2, .w1c, 0, 1, false⟩, ⟨1, 1, .w1c, 0, 1, false⟩, ⟨0, 0, .w1c, 0, 1, false⟩]⟩,
  ⟨0x040, 1, 4, .none, 0x36430000, [⟨30, 28, .rws, 0, 7, false⟩, ⟨26, 24, .rws, 0, 7, false⟩, ⟨23, 20, .rws, 0, 0xE, false⟩, ⟨17, 16, .rws, 0, 3, false⟩, ⟨13, 12, .rws, 0, 3, false⟩, ⟨9, 8, .rws, 0, 3, false⟩, ⟨5, 5, .rws, 0, 1, false⟩, ⟨4, 4, .rws, 0, 1, false⟩]⟩,
  ⟨0x044, 1, 4, .none, 0x0, [⟨28, 24, .rws, 0, 0x1F, false⟩, ⟨20, 16, .rws, 0, 0x1F, false⟩, ⟨12, 8, .rws, 0, 0x1F, false⟩, ⟨4, 0, .rws, 0, 0x1F, false⟩]⟩,
  ⟨0x048, 1, 4, .none, 0x1900, [⟨16, 0, .rws, 0, 0x1F400, true⟩]⟩,
  ⟨0x04C, 1, 4, .none, 0x3E80064, [⟨31, 16, .rws, 0, 0xFFFF, false⟩, ⟨15, 0, .rws, 1, 0xFFFF, false⟩]⟩,
  ⟨0x050, 1, 4, .none, 0x8, [⟨7, 0, .rws, 2, 0xFF, false⟩]⟩,
  ⟨0x054, 1, 4, .none, 0x0, [⟨7, 0, .rws, 0, 0xFF, false⟩]⟩,
  ⟨0x058, 1, 4, .none, 0x0, [⟨31, 0, .rw, 0, 0xFFFFFFFF, false⟩]⟩,
  ⟨0x05C, 1, 4, .none, 0x0, [⟨19, 16, .ro, 0, 0xF, false⟩, ⟨3, 0, .wo, 0, 0xF, false⟩]⟩,
  ⟨0x060, 1, 4, .none, 0x0, [⟨31, 0, .ro, 0, 0xFFFFFFFF, false⟩]⟩,
  ⟨0x064, 1, 4, .none, 0x0, [⟨31, 0, .ro, 0, 0xFFFFFFFF, false⟩]⟩,
  ⟨0x068, 1, 4, .none, 0x0, [⟨31, 0, .ro, 0, 0xFFFFFFFF, false⟩]⟩,
  ⟨0x06C, 1, 4, .none, 0x0, [⟨30, 0, .ro, 0, 0x7FFFFFFF, false⟩]⟩,
  ⟨0x070, 1, 4, .none, 0x0, [⟨23, 20, .ro, 0, 0xF, false⟩, ⟨19, 16, .ro, 0, 0xF, false⟩, ⟨7, 0, .ro, 0, 0xFF, false⟩]⟩,
  ⟨0x074, 1, 4, .none, 0x0, [⟨31, 24, .cz, 0, 0xFF, false⟩, ⟨23, 16, .cz, 0, 0xFF, false⟩, ⟨15, 8, .cz, 0, 0xFF, false⟩, ⟨7, 0, .cz, 0, 0xFF, false⟩]⟩,
  ⟨0x080, 23, 4, .none, 0x0, [⟨31, 0, .rws, 0, 0xFFFFFFFF, false⟩]⟩]

/-- Registers of the OBC page (R290). -/
def obcRegs : List RegDef := [
  ⟨0x00C, 1, 4, .none, 0x200, [⟨31, 28, .ro, 0, 0xF, false⟩, ⟨26, 24, .ro, 0, 7, false⟩, ⟨21, 20, .ro, 0, 3, false⟩, ⟨18, 18, .ro, 0, 1, false⟩, ⟨17, 16, .ro, 0, 3, false⟩, ⟨13, 12, .ro, 0, 3, false⟩, ⟨10, 8, .ro, 0, 7, false⟩, ⟨2, 0, .ro, 0, 7, false⟩]⟩,
  ⟨0x010, 1, 4, .none, 0x0, [⟨6, 6, .w1c, 0, 1, false⟩, ⟨5, 5, .w1c, 0, 1, false⟩, ⟨4, 4, .w1c, 0, 1, false⟩, ⟨3, 3, .w1c, 0, 1, false⟩, ⟨2, 2, .w1c, 0, 1, false⟩, ⟨1, 1, .w1c, 0, 1, false⟩, ⟨0, 0, .w1c, 0, 1, false⟩]⟩,
  ⟨0x040, 1, 4, .none, 0x1223000, [⟨30, 28, .rws, 0, 7, false⟩, ⟨26, 24, .rws, 0, 7, false⟩, ⟨22, 20, .rws, 0, 7, false⟩, ⟨18, 16, .rws, 0, 7, false⟩, ⟨14, 12, .rws, 0, 7, false⟩, ⟨2, 2, .rws, 0, 1, false⟩, ⟨1, 1, .rws, 0, 1, false⟩, ⟨0, 0, .rws, 0, 1, false⟩]⟩,
  ⟨0x044, 1, 4, .none, 0x0, [⟨29, 24, .rws, 0, 0x2F, false⟩, ⟨21, 16, .rws, 0, 0x2F, false⟩, ⟨13, 8, .rws, 0, 0x2F, false⟩, ⟨5, 0, .rws, 0, 0x2F, false⟩]⟩,
  ⟨0x048, 1, 4, .none, 0x190, [⟨10, 0, .rws, 0, 0x7CC, false⟩]⟩,
  ⟨0x04C, 1, 4, .none, 0x2FAF0800, [⟨31, 0, .rws, 400000, 0xEE6B2800, false⟩]⟩,
  ⟨0x050, 1, 4, .none, 0x2FAF0800, [⟨31, 0, .rws, 400000, 0xEE6B2800, false⟩]⟩,
  ⟨0x054, 1, 4, .none, 0x2FAF0800, [⟨31, 0, .rws, 400000, 0xEE6B2800, false⟩]⟩,
  ⟨0x058, 1, 4, .none, 0x0, [⟨15, 8, .rws, 0, 0xFF, false⟩, ⟨7, 0, .rws, 0, 0xFF, false⟩]⟩,
  ⟨0x05C, 1, 4, .none, 0x8, [⟨7, 0, .rws, 2, 0xFF, false⟩]⟩,
  ⟨0x060, 1, 4, .none, 0x0, [⟨19, 16, .ro, 0, 0xF, false⟩, ⟨8, 8, .wo, 0, 1, false⟩, ⟨3, 0, .wo, 0, 0xF, false⟩]⟩,
  ⟨0x064, 1, 4, .none, 0x0, [⟨31, 0, .rw, 0, 0xFFFFFFFF, false⟩]⟩,
  ⟨0x068, 1, 4, .none, 0x0, [⟨31, 31, .rw, 0, 1, false⟩, ⟨15, 0, .rw, 0, 0xFFFF, false⟩]⟩,
  ⟨0x06C, 1, 4, .none, 0x0, [⟨31, 31, .rw, 0, 1, false⟩]⟩,
  ⟨0x070, 1, 4, .none, 0x0, [⟨31, 16, .rw, 0, 0xFFFF, false⟩, ⟨15, 0, .rw, 0, 0xFFFF, false⟩]⟩,
  ⟨0x074, 1, 4, .none, 0x0, [⟨31, 16, .rw, 0, 0xFFFF, false⟩, ⟨15, 0, .rw, 0, 0xFFFF, false⟩]⟩,
  ⟨0x078, 1, 4, .none, 0x0, [⟨31, 16, .rw, 0, 0xFFFF, false⟩, ⟨15, 0, .rw, 0, 0xFFFF, false⟩]⟩,
  ⟨0x07C, 1, 4, .none, 0x0, [⟨31, 29, .ro, 0, 7, false⟩, ⟨28, 28, .ro, 0, 1, false⟩, ⟨27, 26, .ro, 0, 3, false⟩, ⟨25, 23, .ro, 0, 7, false⟩, ⟨19, 10, .ro, 0, 0x3FF, false⟩, ⟨9, 0, .ro, 0, 0x3FF, false⟩]⟩,
  ⟨0x080, 1, 4, .none, 0x0, [⟨31, 0, .ro, 0, 0xFFFFFFFF, false⟩]⟩,
  ⟨0x088, 1, 4, .lo, 0x0, [⟨31, 0, .rws, 0, 0xFFFFFFFF, true⟩]⟩,
  ⟨0x08C, 1, 4, .hi, 0x0, [⟨31, 0, .rws, 0, 0xFFFFFFFF, true⟩]⟩,
  ⟨0x090, 1, 4, .lo, 0x0, [⟨31, 0, .rws, 0, 0xFFFFFFFF, true⟩]⟩,
  ⟨0x094, 1, 4, .hi, 0x0, [⟨31, 0, .rws, 0, 0xFFFFFFFF, true⟩]⟩,
  ⟨0x098, 1, 4, .lo, 0x0, [⟨31, 0, .rws, 0, 0xFFFFFFFF, true⟩]⟩,
  ⟨0x09C, 1, 4, .hi, 0x0, [⟨31, 0, .rws, 0, 0xFFFFFFFF, true⟩]⟩,
  ⟨0x0A0, 1, 4, .lo, 0x0, [⟨31, 0, .ro, 0, 0xFFFFFFFF, false⟩]⟩,
  ⟨0x0A4, 1, 4, .hi, 0x0, [⟨31, 0, .ro, 0, 0xFFFFFFFF, false⟩]⟩,
  ⟨0x0A8, 1, 4, .lo, 0x0, [⟨31, 0, .ro, 0, 0xFFFFFFFF, false⟩]⟩,
  ⟨0x0AC, 1, 4, .hi, 0x0, [⟨31, 0, .ro, 0, 0xFFFFFFFF, false⟩]⟩,
  ⟨0x0B0, 1, 4, .lo, 0x0, [⟨31, 0, .ro, 0, 0xFFFFFFFF, false⟩]⟩,
  ⟨0x0B4, 1, 4, .hi, 0x0, [⟨31, 0, .ro, 0, 0xFFFFFFFF, false⟩]⟩,
  ⟨0x0B8, 1, 4, .lo, 0x0, [⟨31, 0, .ro, 0, 0xFFFFFFFF, false⟩]⟩,
  ⟨0x0BC, 1, 4, .hi, 0x0, [⟨31, 0, .ro, 0, 0xFFFFFFFF, false⟩]⟩,
  ⟨0x0C0, 1, 4, .lo, 0x0, [⟨31, 0, .ro, 0, 0xFFFFFFFF, false⟩]⟩,
  ⟨0x0C4, 1, 4, .hi, 0x0, [⟨31, 0, .ro, 0, 0xFFFFFFFF, false⟩]⟩,
  ⟨0x0C8, 1, 4, .none, 0x0, [⟨31, 24, .cz, 0, 0xFF, false⟩, ⟨23, 16, .cz, 0, 0xFF, false⟩, ⟨15, 8, .cz, 0, 0xFF, false⟩, ⟨7, 0, .cz, 0, 0xFF, false⟩]⟩,
  ⟨0x100, 10, 4, .none, 0x0, [⟨31, 0, .rws, 0, 0xFFFFFFFF, false⟩]⟩,
  ⟨0x128, 2, 4, .none, 0x0, [⟨31, 0, .rws, 0, 0xFFFFFFFF, true⟩]⟩,
  ⟨0x130, 7, 4, .none, 0x0, [⟨31, 0, .rws, 0, 0xFFFFFFFF, false⟩]⟩,
  ⟨0x14C, 4, 4, .none, 0x0, [⟨31, 0, .rws, 0, 0xFFFFFFFF, true⟩]⟩,
  ⟨0x15C, 2, 4, .none, 0x0, [⟨31, 0, .rws, 0, 0xFFFFFFFF, false⟩]⟩,
  ⟨0x200, 20, 4, .none, 0x0, [⟨31, 0, .rws, 0, 0xFFFFFFFF, true⟩]⟩]

/-- Registers of the MSV page (R253). -/
def msvRegs : List RegDef := [
  ⟨0x00C, 1, 4, .none, 0x30, [⟨31, 28, .ro, 0, 0xF, false⟩, ⟨27, 24, .ro, 0, 0xF, false⟩, ⟨21, 20, .ro, 0, 3, false⟩, ⟨17, 16, .ro, 0, 3, false⟩, ⟨13, 12, .ro, 0, 3, false⟩, ⟨10, 10, .ro, 0, 1, false⟩, ⟨9, 9, .ro, 0, 1, false⟩, ⟨8, 8, .ro, 0, 1, false⟩, ⟨5, 4, .ro, 0, 3, false⟩, ⟨0, 0, .ro, 0, 1, false⟩]⟩,
  ⟨0x010, 1, 4, .none, 0x0, [⟨7, 7, .w1c, 0, 1, false⟩, ⟨6, 6, .w1c, 0, 1, false⟩, ⟨5, 5, .w1c, 0, 1, false⟩, ⟨4, 4, .w1c, 0, 1, false⟩, ⟨3, 3, .w1c, 0, 1, false⟩, ⟨2, 2, .w1c, 0, 1, false⟩, ⟨1, 1, .w1c, 0, 1, false⟩, ⟨0, 0, .w1c, 0, 1, false⟩]⟩,
  ⟨0x040, 1, 4, .none, 0x10030000, [⟨30, 28, .rws, 0, 7, false⟩, ⟨26, 24, .rws, 0, 7, false⟩, ⟨22, 20, .rws, 0, 7, false⟩, ⟨17, 16, .rws, 0, 3, false⟩, ⟨13, 12, .rws, 0, 3, false⟩, ⟨9, 9, .rws, 0, 1, false⟩, ⟨8, 8, .rws, 0, 1, false⟩, ⟨5, 4, .rws, 0, 2, true⟩, ⟨0, 0, .rws, 0, 1, true⟩]⟩,
  ⟨0x044, 1, 4, .none, 0x0, [⟨31, 31, .rws, 0, 1, false⟩, ⟨23, 16, .rws, 0, 0xFF, false⟩, ⟨15, 8, .rws, 0, 0xFF, false⟩, ⟨7, 0, .rws, 0, 0xFF, false⟩]⟩,
  ⟨0x048, 1, 4, .none, 0x280DE80, [⟨31, 0, .rws, 400000, 0xEE6B2800, false⟩]⟩,
  ⟨0x04C, 1, 4, .none, 0x3E80640, [⟨31, 16, .rws, 0, 0xFFFF, false⟩, ⟨15, 4, .rws, 10, 0xFA0, false⟩, ⟨1, 0, .rws, 0, 2, false⟩]⟩,
  ⟨0x050, 1, 4, .none, 0x0, [⟨31, 0, .rw, 0, 0xFFFFFFFF, false⟩]⟩,
  ⟨0x054, 1, 4, .none, 0x0, [⟨19, 16, .ro, 0, 0xF, false⟩, ⟨3, 0, .wo, 0, 0xF, false⟩]⟩,
  ⟨0x058, 1, 4, .none, 0x0, [⟨31, 0, .ro, 0, 0xFFFFFFFF, false⟩]⟩,
  ⟨0x05C, 1, 4, .none, 0x0, [⟨31, 0, .ro, 0, 0xFFFFFFFF, false⟩]⟩,
  ⟨0x060, 1, 4, .none, 0x0, [⟨31, 0, .ro, 0, 0xFFFFFFFF, false⟩]⟩,
  ⟨0x064, 1, 4, .none, 0x0, [⟨31, 24, .cz, 0, 0xFF, false⟩, ⟨23, 16, .cz, 0, 0xFF, false⟩, ⟨15, 8, .cz, 0, 0xFF, false⟩, ⟨7, 0, .cz, 0, 0xFF, false⟩]⟩,
  ⟨0x080, 6, 4, .none, 0x0, [⟨31, 0, .rws, 0, 0xFFFFFFFF, false⟩]⟩,
  ⟨0x098, 1, 4, .none, 0x0, [⟨31, 0, .rws, 0, 0xFFFFFFFF, true⟩]⟩,
  ⟨0x09C, 1, 4, .none, 0x0, [⟨31, 0, .rws, 0, 0xFFFFFFFF, false⟩]⟩,
  ⟨0x0A0, 4, 4, .none, 0x0, [⟨31, 0, .rws, 0, 0xFFFFFFFF, true⟩]⟩,
  ⟨0x0B0, 2, 4, .none, 0x0, [⟨31, 0, .rws, 0, 0xFFFFFFFF, false⟩]⟩,
  ⟨0x0B8, 1, 4, .none, 0x0, [⟨31, 0, .rws, 0, 0xFFFFFFFF, true⟩]⟩,
  ⟨0x0BC, 4, 4, .none, 0x0, [⟨31, 0, .rws, 0, 0xFFFFFFFF, false⟩]⟩,
  ⟨0x0CC, 1, 4, .none, 0x0, [⟨31, 0, .rws, 0, 0xFFFFFFFF, true⟩]⟩,
  ⟨0x0D0, 2, 4, .none, 0x0, [⟨31, 0, .rws, 0, 0xFFFFFFFF, false⟩]⟩,
  ⟨0x0D8, 2, 4, .none, 0x0, [⟨31, 0, .rws, 0, 0xFFFFFFFF, true⟩]⟩,
  ⟨0x0E0, 2, 4, .none, 0x0, [⟨31, 0, .rws, 0, 0xFFFFFFFF, false⟩]⟩]

/-- Registers of the BCH page (R254). -/
def bchRegs : List RegDef := [
  ⟨0x00C, 1, 4, .none, 0x0, [⟨2, 0, .ro, 0, 7, false⟩]⟩,
  ⟨0x010, 1, 4, .none, 0x0, [⟨3, 3, .w1c, 0, 1, false⟩, ⟨2, 2, .w1c, 0, 1, false⟩, ⟨1, 1, .w1c, 0, 1, false⟩, ⟨0, 0, .w1c, 0, 1, false⟩]⟩,
  ⟨0x040, 1, 4, .none, 0x70000, [⟨18, 16, .rws, 0, 7, false⟩, ⟨13, 12, .rws, 0, 2, false⟩, ⟨8, 8, .rws, 0, 1, false⟩, ⟨6, 4, .rws, 0, 7, false⟩, ⟨1, 0, .rws, 0, 3, false⟩]⟩,
  ⟨0x044, 1, 4, .none, 0x1900002, [⟨31, 16, .rws, 0, 0x4E20, false⟩, ⟨7, 0, .rws, 1, 0x10, false⟩]⟩,
  ⟨0x048, 1, 4, .none, 0x0, [⟨19, 16, .ro, 0, 0xF, false⟩, ⟨3, 0, .wo, 0, 0xF, false⟩]⟩,
  ⟨0x04C, 1, 4, .none, 0x0, [⟨31, 0, .ro, 0, 0xFFFFFFFF, false⟩]⟩,
  ⟨0x050, 1, 4, .none, 0x0, [⟨31, 16, .cz, 0, 0xFFFF, false⟩, ⟨15, 0, .cz, 0, 0xFFFF, false⟩]⟩,
  ⟨0x060, 7, 4, .none, 0x0, [⟨31, 0, .rws, 0, 0xFFFFFFFF, false⟩]⟩]

/-- Registers of the CAN page (R424). -/
def canRegs : List RegDef := [
  ⟨0x00C, 1, 4, .none, 0x0, [⟨2, 0, .ro, 0, 7, false⟩]⟩,
  ⟨0x010, 1, 4, .none, 0x0, [⟨6, 6, .w1c, 0, 1, false⟩, ⟨5, 5, .w1c, 0, 1, false⟩, ⟨4, 4, .w1c, 0, 1, false⟩, ⟨3, 3, .w1c, 0, 1, false⟩, ⟨2, 2, .w1c, 0, 1, false⟩, ⟨1, 1, .w1c, 0, 1, false⟩, ⟨0, 0, .w1c, 0, 1, false⟩]⟩,
  ⟨0x040, 1, 4, .none, 0x47E1F1F, [⟨31, 24, .rws, 0, 0xFF, false⟩, ⟨23, 16, .rws, 0, 0xFF, false⟩, ⟨14, 8, .rws, 0, 0x7F, false⟩, ⟨6, 0, .rws, 0, 0x7F, false⟩]⟩,
  ⟨0x044, 1, 4, .none, 0x4060101, [⟨28, 24, .rws, 0, 0x1F, false⟩, ⟨20, 16, .rws, 0, 0x1F, false⟩, ⟨11, 8, .rws, 0, 0xF, false⟩, ⟨3, 0, .rws, 0, 0xF, false⟩]⟩,
  ⟨0x048, 1, 4, .none, 0x0, [⟨31, 31, .rws, 0, 1, false⟩, ⟨22, 16, .ro, 0, 0x7F, false⟩, ⟨6, 0, .rws, 0, 0x7F, false⟩]⟩,
  ⟨0x04C, 1, 4, .none, 0x1, [⟨5, 4, .rws, 0, 2, false⟩, ⟨3, 3, .rws, 0, 1, false⟩, ⟨2, 2, .rws, 0, 1, false⟩, ⟨1, 1, .rws, 0, 1, false⟩, ⟨0, 0, .rws, 0, 1, false⟩]⟩,
  ⟨0x050, 1, 4, .none, 0x0, [⟨19, 16, .ro, 0, 0xF, false⟩, ⟨3, 0, .wo, 0, 0xF, false⟩]⟩,
  ⟨0x054, 1, 4, .none, 0x0, [⟨24, 16, .ro, 0, 0x1FF, false⟩, ⟨7, 0, .ro, 0, 0xFF, false⟩]⟩,
  ⟨0x058, 1, 4, .none, 0x61A80, [⟨31, 0, .rws, 4000, 0xEE6B2800, false⟩]⟩,
  ⟨0x05C, 1, 4, .none, 0x0, [⟨28, 28, .ro, 0, 1, false⟩, ⟨20, 16, .ro, 0, 0x1F, false⟩, ⟨13, 8, .ro, 0, 0x3F, false⟩, ⟨2, 0, .ro, 0, 7, false⟩]⟩,
  ⟨0x060, 1, 4, .none, 0x0, [⟨31, 24, .cz, 0, 0xFF, false⟩, ⟨23, 16, .cz, 0, 0xFF, false⟩, ⟨15, 8, .cz, 0, 0xFF, false⟩, ⟨7, 0, .cz, 0, 0xFF, false⟩]⟩,
  ⟨0x068, 1, 4, .lo, 0x0, [⟨31, 0, .ro, 0, 0xFFFFFFFF, false⟩]⟩,
  ⟨0x06C, 1, 4, .hi, 0x0, [⟨31, 0, .ro, 0, 0xFFFFFFFF, false⟩]⟩,
  ⟨0x080, 1, 4, .none, 0x0, [⟨31, 31, .rw, 0, 1, false⟩, ⟨28, 0, .rw, 0, 0x1FFFFFFF, false⟩]⟩,
  ⟨0x084, 1, 4, .none, 0x0, [⟨31, 31, .rw, 0, 1, false⟩, ⟨30, 30, .rw, 0, 1, false⟩, ⟨29, 29, .rw, 0, 1, false⟩, ⟨19, 16, .rw, 0, 0xF, false⟩]⟩,
  ⟨0x088, 16, 4, .none, 0x0, [⟨31, 0, .rw, 0, 0xFFFFFFFF, false⟩]⟩,
  ⟨0x0C8, 1, 4, .none, 0x0, [⟨1, 0, .wo, 0, 3, false⟩]⟩,
  ⟨0x100, 1, 4, .none, 0x0, [⟨31, 31, .ro, 0, 1, false⟩, ⟨28, 0, .ro, 0, 0x1FFFFFFF, false⟩]⟩,
  ⟨0x104, 1, 4, .none, 0x0, [⟨31, 31, .ro, 0, 1, false⟩, ⟨30, 30, .ro, 0, 1, false⟩, ⟨29, 29, .ro, 0, 1, false⟩, ⟨19, 16, .ro, 0, 0xF, false⟩]⟩,
  ⟨0x108, 1, 4, .lo, 0x0, [⟨31, 0, .ro, 0, 0xFFFFFFFF, false⟩]⟩,
  ⟨0x10C, 1, 4, .hi, 0x0, [⟨31, 0, .ro, 0, 0xFFFFFFFF, false⟩]⟩,
  ⟨0x110, 16, 4, .none, 0x0, [⟨31, 0, .ro, 0, 0xFFFFFFFF, false⟩]⟩,
  ⟨0x150, 1, 4, .none, 0x0, [⟨0, 0, .wo, 0, 1, false⟩]⟩,
  ⟨0x180, 1, 4, .none, 0x0, [⟨31, 31, .ro, 0, 1, false⟩, ⟨28, 0, .ro, 0, 0x1FFFFFFF, false⟩]⟩,
  ⟨0x184, 1, 4, .none, 0x0, [⟨31, 31, .ro, 0, 1, false⟩, ⟨30, 30, .ro, 0, 1, false⟩, ⟨29, 29, .ro, 0, 1, false⟩, ⟨19, 16, .ro, 0, 0xF, false⟩]⟩,
  ⟨0x188, 1, 4, .lo, 0x0, [⟨31, 0, .ro, 0, 0xFFFFFFFF, false⟩]⟩,
  ⟨0x18C, 1, 4, .hi, 0x0, [⟨31, 0, .ro, 0, 0xFFFFFFFF, false⟩]⟩,
  ⟨0x190, 16, 4, .none, 0x0, [⟨31, 0, .ro, 0, 0xFFFFFFFF, false⟩]⟩,
  ⟨0x1D0, 1, 4, .none, 0x0, [⟨0, 0, .wo, 0, 1, false⟩]⟩,
  ⟨0x200, 32, 8, .none, 0x0, [⟨31, 31, .rws, 0, 1, false⟩, ⟨30, 29, .rws, 0, 2, false⟩, ⟨28, 0, .rws, 0, 0x1FFFFFFF, false⟩]⟩,
  ⟨0x204, 32, 8, .none, 0x0, [⟨31, 31, .rws, 0, 1, false⟩, ⟨28, 0, .rws, 0, 0x1FFFFFFF, false⟩]⟩]

/-- Registers of the CLF page (R452). -/
def clfRegs : List RegDef := [
  ⟨0x00C, 1, 4, .none, 0x0, [⟨2, 0, .ro, 0, 7, false⟩]⟩,
  ⟨0x010, 1, 4, .none, 0x0, [⟨7, 7, .w1c, 0, 1, false⟩, ⟨6, 6, .w1c, 0, 1, false⟩, ⟨5, 5, .w1c, 0, 1, false⟩, ⟨4, 4, .w1c, 0, 1, false⟩, ⟨3, 3, .w1c, 0, 1, false⟩, ⟨2, 2, .w1c, 0, 1, false⟩, ⟨1, 1, .w1c, 0, 1, false⟩, ⟨0, 0, .w1c, 0, 1, false⟩]⟩,
  ⟨0x040, 1, 4, .none, 0xF13, [⟨24, 24, .rws, 0, 1, false⟩, ⟨21, 16, .rws, 0, 0x3F, false⟩, ⟨11, 8, .rws, 0, 0xF, false⟩, ⟨4, 4, .rws, 0, 1, false⟩, ⟨1, 0, .rws, 0, 3, false⟩]⟩,
  ⟨0x044, 1, 4, .none, 0x9C40, [⟨31, 0, .rws, 4000, 0x3D0900, false⟩]⟩,
  ⟨0x048, 1, 4, .none, 0x101004, [⟨23, 16, .rws, 1, 0xFF, false⟩, ⟨15, 8, .rws, 1, 0xFF, false⟩, ⟨7, 0, .rws, 2, 0xFF, false⟩]⟩,
  ⟨0x04C, 1, 4, .none, 0x0, [⟨31, 31, .ro, 0, 1, false⟩, ⟨30, 30, .ro, 0, 1, false⟩, ⟨29, 24, .ro, 0, 0x3F, false⟩, ⟨21, 16, .ro, 0, 0x3F, false⟩, ⟨13, 8, .ro, 0, 0x3F, false⟩, ⟨5, 0, .ro, 0, 0x3F, false⟩]⟩,
  ⟨0x050, 1, 4, .none, 0x0, [⟨6, 4, .ro, 0, 7, false⟩, ⟨2, 0, .ro, 0, 7, false⟩]⟩,
  ⟨0x054, 1, 4, .none, 0x0, [⟨19, 16, .ro, 0, 0xF, false⟩, ⟨9, 8, .wo, 0, 3, false⟩, ⟨3, 0, .wo, 0, 0xF, false⟩]⟩,
  ⟨0x058, 1, 4, .none, 0x0, [⟨31, 28, .ro, 0, 0xF, false⟩, ⟨16, 16, .ro, 0, 1, false⟩, ⟨0, 0, .ro, 0, 1, false⟩]⟩,
  ⟨0x05C, 1, 4, .none, 0xFFFFFFFF, [⟨31, 0, .rw, 0, 0xFFFFFFFF, false⟩]⟩,
  ⟨0x060, 1, 4, .lo, 0x0, [⟨31, 0, .ro, 0, 0xFFFFFFFF, false⟩]⟩,
  ⟨0x064, 1, 4, .hi, 0x0, [⟨31, 0, .ro, 0, 0xFFFFFFFF, false⟩]⟩,
  ⟨0x068, 1, 4, .none, 0x0, [⟨31, 0, .ro, 0, 0xFFFFFFFF, false⟩]⟩,
  ⟨0x06C, 1, 4, .none, 0x0, [⟨31, 0, .ro, 0, 0xFFFFFFFF, false⟩]⟩,
  ⟨0x070, 1, 4, .none, 0x0, [⟨31, 0, .ro, 0, 0xFFFFFFFF, false⟩]⟩,
  ⟨0x074, 1, 4, .none, 0x0, [⟨31, 24, .cz, 0, 0xFF, false⟩, ⟨23, 16, .cz, 0, 0xFF, false⟩, ⟨15, 8, .cz, 0, 0xFF, false⟩, ⟨7, 0, .cz, 0, 0xFF, false⟩]⟩,
  ⟨0x078, 1, 4, .none, 0x0, [⟨31, 24, .cz, 0, 0xFF, false⟩, ⟨23, 16, .cz, 0, 0xFF, false⟩, ⟨15, 8, .cz, 0, 0xFF, false⟩, ⟨7, 0, .cz, 0, 0xFF, false⟩]⟩,
  ⟨0x07C, 1, 4, .none, 0xFF, [⟨8, 8, .ro, 0, 1, false⟩, ⟨7, 0, .ro, 0, 0xFF, false⟩]⟩,
  ⟨0x100, 16, 16, .none, 0x60D0000, [⟨31, 31, .rws, 0, 1, false⟩, ⟨26, 24, .rws, 5, 8, false⟩, ⟨20, 16, .rws, 8, 0x12, false⟩]⟩,
  ⟨0x104, 16, 16, .none, 0x20000000, [⟨31, 0, .rws, 0, 0xFFFFFFFF, false⟩]⟩,
  ⟨0x108, 16, 16, .none, 0x0, [⟨17, 0, .ro, 0, 0x3FFFF, false⟩]⟩,
  ⟨0x10C, 16, 16, .none, 0x0, [⟨17, 0, .rw, 0, 0x3FFFF, false⟩]⟩,
  ⟨0x200, 8, 16, .none, 0x100004, [⟨31, 31, .rws, 0, 1, true⟩, ⟨29, 24, .rws, 0, 0x3F, true⟩, ⟨21, 20, .rws, 1, 2, true⟩, ⟨18, 16, .rws, 0, 7, true⟩, ⟨7, 0, .rws, 1, 0xFF, true⟩]⟩,
  ⟨0x204, 8, 16, .none, 0x0, [⟨24, 0, .rws, 0, 0x1FFFFFF, true⟩]⟩,
  ⟨0x208, 8, 16, .none, 0x0, [⟨31, 0, .rws, 0, 0xFFFFFFFF, true⟩]⟩,
  ⟨0x300, 16, 4, .none, 0x0, [⟨18, 0, .ro, 0, 0x7FFFF, false⟩]⟩]

/-- Registers of the HLO page (R356). -/
def hloRegs : List RegDef := [
  ⟨0x00C, 1, 4, .none, 0x0, [⟨31, 31, .ro, 0, 1, false⟩, ⟨14, 12, .ro, 0, 7, false⟩, ⟨10, 8, .ro, 0, 7, false⟩]⟩,
  ⟨0x010, 1, 4, .none, 0x0, [⟨3, 3, .w1c, 0, 1, false⟩, ⟨2, 2, .w1c, 0, 1, false⟩, ⟨1, 1, .w1c, 0, 1, false⟩, ⟨0, 0, .w1c, 0, 1, false⟩]⟩,
  ⟨0x040, 1, 4, .none, 0x271003E8, [⟨31, 16, .rws, 10, 0xFFFF, true⟩, ⟨15, 0, .rws, 0, 0xFFFE, true⟩]⟩,
  ⟨0x044, 1, 4, .none, 0x0, [⟨31, 0, .wo, 0, 0xFFFFFFFF, false⟩]⟩,
  ⟨0x048, 1, 4, .none, 0x0, [⟨19, 16, .ro, 0, 0xF, false⟩, ⟨10, 8, .wo, 0, 7, false⟩, ⟨3, 0, .wo, 0, 0xF, false⟩]⟩,
  ⟨0x04C, 1, 4, .none, 0x0, [⟨20, 16, .ro, 0, 0x1F, false⟩, ⟨15, 0, .ro, 0, 0xFFFF, false⟩]⟩,
  ⟨0x050, 1, 4, .none, 0x0, [⟨26, 24, .ro, 0, 7, false⟩, ⟨18, 16, .ro, 0, 7, false⟩, ⟨11, 0, .ro, 0, 0xFFF, false⟩]⟩,
  ⟨0x054, 1, 4, .none, 0x0, [⟨31, 0, .ro, 0, 0xFFFFFFFF, false⟩]⟩,
  ⟨0x058, 1, 4, .lo, 0x0, [⟨31, 0, .ro, 0, 0xFFFFFFFF, false⟩]⟩,
  ⟨0x05C, 1, 4, .hi, 0x0, [⟨31, 0, .ro, 0, 0xFFFFFFFF, false⟩]⟩,
  ⟨0x100, 32, 16, .none, 0x0, [⟨26, 24, .ro, 0, 7, false⟩, ⟨18, 16, .ro, 0, 7, false⟩, ⟨11, 0, .ro, 0, 0xFFF, false⟩]⟩,
  ⟨0x104, 32, 16, .none, 0x0, [⟨31, 0, .ro, 0, 0xFFFFFFFF, false⟩]⟩,
  ⟨0x108, 32, 16, .lo, 0x0, [⟨31, 0, .ro, 0, 0xFFFFFFFF, false⟩]⟩,
  ⟨0x10C, 32, 16, .hi, 0x0, [⟨31, 0, .ro, 0, 0xFFFFFFFF, false⟩]⟩]

/-- Registers of the LKS page (R329). -/
def lksRegs : List RegDef := [
  ⟨0x00C, 1, 4, .none, 0x0, [⟨10, 8, .ro, 0, 7, false⟩, ⟨6, 4, .ro, 0, 7, false⟩, ⟨2, 0, .ro, 0, 7, false⟩]⟩,
  ⟨0x010, 1, 4, .none, 0x0, [⟨7, 7, .w1c, 0, 1, false⟩, ⟨6, 6, .w1c, 0, 1, false⟩, ⟨5, 5, .w1c, 0, 1, false⟩, ⟨4, 4, .w1c, 0, 1, false⟩, ⟨3, 3, .w1c, 0, 1, false⟩, ⟨2, 2, .w1c, 0, 1, false⟩, ⟨1, 1, .w1c, 0, 1, false⟩, ⟨0, 0, .w1c, 0, 1, false⟩]⟩,
  ⟨0x040, 1, 4, .none, 0x190080A, [⟨31, 31, .rws, 0, 1, true⟩, ⟨30, 30, .rws, 0, 1, true⟩, ⟨27, 16, .rws, 64, 0xFA0, true⟩, ⟨15, 8, .rws, 1, 0xFF, true⟩, ⟨6, 0, .rws, 1, 0x64, true⟩]⟩,
  ⟨0x060, 1, 4, .none, 0x0, [⟨31, 24, .ro, 0, 0xFF, false⟩, ⟨23, 16, .ro, 0, 0xFF, false⟩, ⟨15, 8, .ro, 0, 0xFF, false⟩, ⟨7, 0, .ro, 0, 0xFF, false⟩]⟩,
  ⟨0x064, 1, 4, .none, 0x0, [⟨11, 8, .ro, 0, 0xF, false⟩, ⟨7, 4, .ro, 0, 0xF, false⟩, ⟨3, 0, .ro, 0, 0xF, false⟩]⟩,
  ⟨0x068, 1, 4, .none, 0x0, [⟨31, 0, .ro, 0, 0xFFFFFFFF, false⟩]⟩,
  ⟨0x070, 1, 4, .none, 0x0, [⟨19, 16, .ro, 0, 0xF, false⟩, ⟨3, 0, .wo, 0, 0xF, false⟩]⟩,
  ⟨0x080, 3, 32, .none, 0x0, [⟨19, 16, .ro, 0, 0xF, false⟩, ⟨12, 8, .ro, 0, 0x1F, false⟩, ⟨2, 2, .ro, 0, 1, false⟩, ⟨1, 1, .ro, 0, 1, false⟩, ⟨0, 0, .ro, 0, 1, false⟩]⟩,
  ⟨0x084, 3, 32, .none, 0x0, [⟨31, 16, .ro, 0, 0xFFFF, false⟩, ⟨15, 8, .ro, 0, 0xFF, false⟩, ⟨7, 0, .ro, 0, 0xFF, false⟩]⟩,
  ⟨0x088, 3, 32, .none, 0x0, [⟨31, 28, .ro, 0, 0xF, false⟩, ⟨27, 20, .ro, 0, 0xFF, false⟩, ⟨18, 16, .ro, 0, 7, false⟩, ⟨1, 0, .ro, 0, 3, false⟩]⟩,
  ⟨0x08C, 3, 32, .none, 0x0, [⟨31, 0, .ro, 0, 0xFFFFFFFF, false⟩]⟩,
  ⟨0x090, 3, 32, .lo, 0x0, [⟨31, 0, .ro, 0, 0xFFFFFFFF, false⟩]⟩,
  ⟨0x094, 3, 32, .hi, 0x0, [⟨31, 0, .ro, 0, 0xFFFFFFFF, false⟩]⟩]

/-- Registers of the SFI page (R357). -/
def sfiRegs : List RegDef := [
  ⟨0x00C, 1, 4, .none, 0x0, [⟨15, 0, .ro, 0, 0xFFFF, false⟩]⟩,
  ⟨0x010, 1, 4, .none, 0x0, [⟨4, 4, .w1c, 0, 1, false⟩, ⟨3, 3, .w1c, 0, 1, false⟩, ⟨2, 2, .w1c, 0, 1, false⟩, ⟨1, 1, .w1c, 0, 1, false⟩, ⟨0, 0, .w1c, 0, 1, false⟩]⟩,
  ⟨0x040, 1, 4, .none, 0xA19032, [⟨29, 20, .rws, 4, 0x3E8, true⟩, ⟨19, 10, .rws, 10, 0x3E8, true⟩, ⟨9, 0, .rws, 0, 0x3E8, true⟩]⟩,
  ⟨0x044, 1, 4, .none, 0xA03, [⟨19, 16, .rws, 0, 0xF, true⟩, ⟨15, 8, .rws, 1, 0xFF, true⟩, ⟨3, 0, .rws, 1, 8, true⟩]⟩,
  ⟨0x048, 1, 4, .none, 0x0, [⟨19, 16, .ro, 0, 0xF, false⟩, ⟨11, 8, .wo, 0, 0xF, false⟩, ⟨3, 0, .wo, 0, 0xF, false⟩]⟩,
  ⟨0x04C, 1, 4, .none, 0x0, [⟨31, 16, .ro, 0, 0xFFFF, false⟩, ⟨15, 8, .ro, 0, 0xFF, false⟩, ⟨7, 0, .ro, 0, 0xFF, false⟩]⟩,
  ⟨0x080, 16, 4, .none, 0x10420064, [⟨31, 31, .rws, 0, 1, true⟩, ⟨30, 30, .rws, 0, 1, true⟩, ⟨29, 28, .rws, 0, 3, true⟩, ⟨26, 24, .rws, 0, 7, true⟩, ⟨23, 23, .rws, 0, 1, true⟩, ⟨22, 22, .rws, 0, 1, true⟩, ⟨21, 20, .rws, 0, 3, true⟩, ⟨18, 17, .rws, 0, 3, true⟩, ⟨19, 19, .rws, 0, 1, true⟩, ⟨16, 16, .rws, 0, 1, true⟩, ⟨9, 0, .rws, 1, 0x3E8, true⟩]⟩,
  ⟨0x0C0, 16, 4, .none, 0x0, [⟨31, 22, .ro, 0, 0x3FF, false⟩, ⟨7, 7, .ro, 0, 1, false⟩, ⟨6, 6, .ro, 0, 1, false⟩, ⟨5, 5, .ro, 0, 1, false⟩, ⟨4, 4, .ro, 0, 1, false⟩, ⟨3, 3, .ro, 0, 1, false⟩, ⟨2, 2, .ro, 0, 1, false⟩, ⟨1, 1, .ro, 0, 1, false⟩, ⟨0, 0, .ro, 0, 1, false⟩]⟩]

/-- Registers of the STO page (R358). -/
def stoRegs : List RegDef := [
  ⟨0x00C, 1, 4, .none, 0x710, [⟨26, 24, .ro, 0, 7, false⟩, ⟨18, 16, .ro, 0, 7, false⟩, ⟨13, 12, .ro, 0, 3, false⟩, ⟨10, 8, .ro, 0, 7, false⟩, ⟨4, 4, .ro, 0, 1, false⟩]⟩,
  ⟨0x010, 1, 4, .none, 0x0, [⟨3, 3, .w1c, 0, 1, false⟩, ⟨2, 2, .w1c, 0, 1, false⟩, ⟨1, 1, .w1c, 0, 1, false⟩, ⟨0, 0, .w1c, 0, 1, false⟩]⟩,
  ⟨0x040, 1, 4, .none, 0x0, [⟨19, 16, .ro, 0, 0xF, false⟩, ⟨10, 8, .wo, 0, 7, false⟩, ⟨3, 0, .wo, 0, 0xF, false⟩]⟩,
  ⟨0x044, 1, 4, .none, 0x100111, [⟨23, 20, .ro, 0, 0xF, false⟩, ⟨11, 8, .ro, 0, 0xF, false⟩, ⟨7, 4, .ro, 0, 0xF, false⟩, ⟨3, 0, .ro, 0, 0xF, false⟩]⟩,
  ⟨0x048, 1, 4, .none, 0x0, [⟨31, 16, .ro, 0, 0xFFFF, false⟩, ⟨15, 0, .ro, 0, 0xFFFF, false⟩]⟩]

/-- Registers of the SSF page (R359). -/
def ssfRegs : List RegDef := [
  ⟨0x00C, 1, 4, .none, 0x0, [⟨17, 16, .ro, 0, 3, false⟩, ⟨13, 12, .ro, 0, 3, false⟩, ⟨10, 8, .ro, 0, 7, false⟩]⟩,
  ⟨0x010, 1, 4, .none, 0x0, [⟨5, 5, .w1c, 0, 1, false⟩, ⟨4, 4, .w1c, 0, 1, false⟩, ⟨3, 3, .w1c, 0, 1, false⟩, ⟨2, 2, .w1c, 0, 1, false⟩, ⟨1, 1, .w1c, 0, 1, false⟩, ⟨0, 0, .w1c, 0, 1, false⟩]⟩,
  ⟨0x040, 1, 4, .none, 0x0, [⟨19, 16, .ro, 0, 0xF, false⟩, ⟨13, 12, .wo, 0, 3, false⟩, ⟨10, 8, .wo, 0, 7, false⟩, ⟨3, 0, .wo, 0, 0xF, false⟩]⟩,
  ⟨0x044, 1, 4, .none, 0x0, [⟨31, 16, .ro, 0, 0xFFFF, false⟩, ⟨15, 0, .ro, 0, 0xFFFF, false⟩]⟩,
  ⟨0x060, 2, 8, .none, 0xA141400, [⟨31, 24, .rws, 1, 0xFF, true⟩, ⟨23, 16, .rws, 1, 0xFF, true⟩, ⟨15, 8, .rws, 1, 0xFF, true⟩, ⟨7, 4, .rws, 0, 0xF, true⟩, ⟨2, 0, .rws, 0, 7, true⟩]⟩,
  ⟨0x064, 2, 8, .none, 0x0, [⟨9, 8, .ro, 0, 3, false⟩, ⟨5, 4, .ro, 0, 3, false⟩, ⟨2, 0, .ro, 0, 7, false⟩]⟩,
  ⟨0x080, 3, 64, .none, 0x4200301, [⟨31, 24, .rws, 1, 0x10, true⟩, ⟨23, 16, .rws, 1, 0xFF, true⟩, ⟨15, 8, .rws, 1, 0xFF, true⟩, ⟨4, 4, .rws, 0, 1, true⟩, ⟨1, 0, .rws, 0, 3, true⟩]⟩,
  ⟨0x084, 3, 64, .none, 0x7D00032, [⟨31, 16, .rws, 10, 0xEA60, true⟩, ⟨15, 0, .rws, 0, 0x1388, true⟩]⟩,
  ⟨0x088, 3, 64, .none, 0x0, [⟨31, 0, .rws, 0, 0xFFFFFFFF, true⟩]⟩,
  ⟨0x08C, 3, 64, .none, 0x0, [⟨31, 0, .rws, 0, 0xFFFFFFFF, true⟩]⟩,
  ⟨0x090, 3, 64, .none, 0x0, [⟨31, 0, .rws, 0, 0xFFFFFFFF, true⟩]⟩,
  ⟨0x094, 3, 64, .none, 0x0, [⟨31, 0, .rws, 0, 0xFFFFFFFF, true⟩]⟩,
  ⟨0x098, 3, 64, .none, 0x0, [⟨31, 0, .rws, 0, 0xFFFFFFFF, true⟩]⟩,
  ⟨0x09C, 3, 64, .none, 0x0, [⟨31, 0, .rws, 0, 0xFFFFFFFF, true⟩]⟩,
  ⟨0x0A0, 3, 64, .none, 0x0, [⟨31, 0, .rws, 0, 0xFFFFFFFF, true⟩]⟩,
  ⟨0x0A4, 3, 64, .none, 0x0, [⟨31, 0, .rws, 0, 0xFFFFFFFF, true⟩]⟩,
  ⟨0x0A8, 3, 64, .none, 0x0, [⟨31, 28, .ro, 0, 0xF, false⟩, ⟨15, 0, .ro, 0, 0xFFFF, false⟩]⟩,
  ⟨0x0AC, 3, 64, .none, 0x0, [⟨31, 0, .ro, 0, 0xFFFFFFFF, false⟩]⟩,
  ⟨0x0B0, 3, 64, .none, 0x0, [⟨31, 0, .ro, 0, 0xFFFFFFFF, false⟩]⟩,
  ⟨0x0B4, 3, 64, .none, 0x0, [⟨31, 0, .ro, 0, 0xFFFFFFFF, false⟩]⟩]

/-- Registers of the GHB page (R360). -/
def ghbRegs : List RegDef := [
  ⟨0x00C, 1, 4, .none, 0x0, [⟨30, 16, .ro, 0, 0x7FFF, false⟩, ⟨14, 0, .ro, 0, 0x7FFF, false⟩]⟩,
  ⟨0x010, 1, 4, .none, 0x0, [⟨1, 1, .w1c, 0, 1, false⟩, ⟨0, 0, .w1c, 0, 1, false⟩]⟩,
  ⟨0x040, 1, 4, .none, 0x0, [⟨17, 16, .rws, 0, 2, true⟩, ⟨1, 0, .rws, 0, 2, true⟩]⟩,
  ⟨0x044, 1, 4, .none, 0x0, [⟨11, 0, .ro, 0, 0xFFF, false⟩]⟩,
  ⟨0x048, 1, 4, .none, 0x0, [⟨31, 0, .ro, 0, 0xFFFFFFFF, false⟩]⟩]

/-- Registers of the SCF page (R375). -/
def scfRegs : List RegDef := [
  ⟨0x00C, 1, 4, .none, 0x0, [⟨6, 6, .ro, 0, 1, false⟩, ⟨5, 5, .ro, 0, 1, false⟩, ⟨4, 4, .ro, 0, 1, false⟩, ⟨3, 3, .ro, 0, 1, false⟩, ⟨1, 0, .ro, 0, 3, false⟩]⟩,
  ⟨0x010, 1, 4, .none, 0x0, [⟨3, 3, .w1c, 0, 1, false⟩, ⟨2, 2, .w1c, 0, 1, false⟩, ⟨1, 1, .w1c, 0, 1, false⟩, ⟨0, 0, .w1c, 0, 1, false⟩]⟩,
  ⟨0x040, 1, 4, .none, 0x3000F, [⟨19, 16, .rws, 1, 0xA, true⟩, ⟨7, 0, .rws, 1, 0x78, true⟩]⟩,
  ⟨0x044, 1, 4, .none, 0x0, [⟨19, 16, .ro, 0, 0xF, false⟩, ⟨13, 8, .wo, 0, 0x3F, false⟩, ⟨3, 0, .wo, 0, 0xF, false⟩]⟩,
  ⟨0x048, 1, 4, .none, 0x0, [⟨31, 0, .rw, 0, 0xFFFFFFFF, false⟩]⟩,
  ⟨0x04C, 1, 4, .none, 0x0, [⟨31, 0, .ro, 0, 0xFFFFFFFF, false⟩]⟩,
  ⟨0x050, 1, 4, .none, 0x0, [⟨31, 0, .ro, 0, 0xFFFFFFFF, false⟩]⟩,
  ⟨0x054, 1, 4, .none, 0x0, [⟨31, 20, .ro, 0, 0xFFF, false⟩, ⟨15, 8, .ro, 0, 0xFF, false⟩, ⟨3, 0, .ro, 0, 0xF, false⟩]⟩,
  ⟨0x060, 8, 4, .none, 0x0, [⟨31, 0, .wo, 0, 0xFFFFFFFF, false⟩]⟩]

/-- Registers of the SLG page (R376). -/
def slgRegs : List RegDef := [
  ⟨0x00C, 1, 4, .none, 0x0, [⟨3, 3, .ro, 0, 1, false⟩, ⟨2, 2, .ro, 0, 1, false⟩, ⟨1, 1, .ro, 0, 1, false⟩, ⟨0, 0, .ro, 0, 1, false⟩]⟩,
  ⟨0x010, 1, 4, .none, 0x0, [⟨1, 1, .w1c, 0, 1, false⟩, ⟨0, 0, .w1c, 0, 1, false⟩]⟩,
  ⟨0x040, 1, 4, .none, 0x1, [⟨31, 0, .ro, 0, 0xFFFFFFFF, false⟩]⟩,
  ⟨0x044, 1, 4, .none, 0x0, [⟨31, 16, .ro, 0, 0xFFFF, false⟩, ⟨12, 0, .ro, 0, 0x1FFF, false⟩]⟩,
  ⟨0x048, 1, 4, .none, 0x0, [⟨31, 0, .rw, 0, 0xFFFFFFFF, false⟩]⟩,
  ⟨0x060, 8, 4, .none, 0x0, [⟨31, 0, .ro, 0, 0xFFFFFFFF, false⟩]⟩]

/-- Registers of the CTX record (R146, R173, R175, R177). -/
def ctxRegs : List RegDef := [
  ⟨0x000, 1, 4, .none, 0x70400, [⟨31, 31, .rws, 0, 1, false⟩, ⟨30, 29, .rws, 0, 3, false⟩, ⟨28, 28, .rws, 0, 1, false⟩, ⟨27, 27, .rws, 0, 1, true⟩, ⟨26, 24, .rws, 0, 7, true⟩, ⟨22, 20, .rws, 0, 7, false⟩, ⟨19, 18, .rws, 0, 3, true⟩, ⟨17, 16, .rws, 0, 3, true⟩, ⟨15, 8, .rws, 1, 0xFF, true⟩, ⟨4, 0, .rws, 0, 0x1F, false⟩]⟩,
  ⟨0x004, 1, 4, .none, 0xE0000000, [⟨31, 29, .rws, 0, 7, false⟩, ⟨27, 20, .rws, 0, 0xFF, false⟩, ⟨19, 12, .rws, 0, 0xFF, false⟩]⟩,
  ⟨0x008, 1, 4, .none, 0x1680000, [⟨31, 16, .rws, 0, 0xFFFF, false⟩, ⟨15, 0, .rws, 0, 0xFFFF, false⟩]⟩,
  ⟨0x00C, 1, 4, .none, 0x400100, [⟨31, 16, .rws, 1, 0x1000, false⟩, ⟨15, 0, .rws, 1, 0x2000, false⟩]⟩,
  ⟨0x010, 1, 4, .none, 0x0, [⟨31, 16, .ro, 0, 0xFFFF, false⟩, ⟨15, 0, .ro, 0, 0xFFFF, false⟩]⟩,
  ⟨0x014, 1, 4, .none, 0x0, [⟨31, 31, .ro, 0, 1, false⟩, ⟨15, 0, .ro, 0, 0xFFFF, false⟩]⟩,
  ⟨0x040, 1, 4, .none, 0x0, [⟨31, 0, .ro, 0, 0xFFFFFFFF, false⟩]⟩,
  ⟨0x044, 1, 4, .none, 0x0, [⟨31, 0, .ro, 0, 0xFFFFFFFF, false⟩]⟩,
  ⟨0x048, 1, 4, .none, 0x0, [⟨31, 0, .ro, 0, 0xFFFFFFFF, false⟩]⟩,
  ⟨0x04C, 1, 4, .none, 0x0, [⟨31, 0, .ro, 0, 0xFFFFFFFF, false⟩]⟩,
  ⟨0x050, 1, 4, .none, 0x0, [⟨31, 0, .ro, 0, 0xFFFFFFFF, false⟩]⟩,
  ⟨0x054, 1, 4, .none, 0x0, [⟨31, 16, .ro, 0, 0xFFFF, false⟩, ⟨7, 0, .ro, 0, 0xFF, false⟩]⟩,
  ⟨0x058, 1, 4, .none, 0x0, [⟨31, 0, .ro, 0, 0xFFFFFFFF, false⟩]⟩,
  ⟨0x060, 24, 4, .none, 0x0, [⟨31, 27, .rws, 0, 0x1F, false⟩, ⟨26, 22, .rws, 0, 0x1F, false⟩, ⟨21, 17, .rws, 0, 0x1F, false⟩, ⟨16, 12, .rws, 0, 0x1F, false⟩, ⟨11, 9, .rws, 0, 7, false⟩, ⟨8, 7, .rws, 0, 3, false⟩, ⟨6, 0, .rws, 0, 0x7F, false⟩]⟩,
  ⟨0x0C0, 16, 4, .none, 0x0, [⟨31, 28, .rws, 0, 0xF, false⟩, ⟨27, 0, .rws, 0, 0xFFFFFFF, false⟩]⟩,
  ⟨0x100, 128, 4, .none, 0x0, [⟨31, 0, .rws, 0, 0xFFFFFFFF, false⟩]⟩,
  ⟨0x300, 64, 4, .none, 0x0, [⟨31, 0, .rws, 0, 0xFFFFFFFF, false⟩]⟩]

end Sys2Proof.Machine
end

