-- ==== Sys2Proof/Config.lean ====
section
/-! DEFINITION. What one die fixes and the spec leaves to it, and the free values: constants without a body, so that no
proof can see a value of them. The number they are applied to is the model's counter `State.free` (log 3). -/

namespace Sys2Proof.Config

/-- A free natural number, one for each value of the counter. -/
opaque freeNat : Nat → Nat

/-- A free bit, one for each value of the counter. -/
opaque freeBit : Nat → Bool

/-- A free 32-bit word, one for each value of the counter. -/
opaque freeWord : Nat → W32

/-- `SYS_CAP` of this die: the unique die number and the grade (R3, R478). -/
opaque dieSerial : BitVec 28

/-- Whether this die is a YX480-G1 (R3). -/
opaque isG1 : Bool

/-- The revoke bits of KH1 and KH0 in the one-time-programmable row before any revocation (R470). -/
opaque otpRevoke : BitVec 2

/-- The key hashes KH0 and KH1 in the one-time-programmable row (R470). -/
opaque otpKeyHash : Nat → Nat

/-- The factory trim that R139 loads for each converter: gain in 0.1 ppm and offset in 1/256 code. -/
opaque adcTrimGain : Nat → Int

/-- The offset part of the factory trim (R139). -/
opaque adcTrimOffset : Nat → Int

/-- What flash holds before the model's first programming of it (R388: retained). -/
opaque flashImage : Nat → Byte

/-- What the boot ROM holds (R388: fixed). -/
opaque romImage : Nat → Byte

/-- The fixed vector on which events of a Halo page reach the HS pair (R62 gives no numbers). -/
opaque haloVector : Block → BitVec 8

/-- The lock group of a CPW timer that no block's own register names: that of the chopper's timer (R240). -/
opaque cpwGroup : Nat → Fin 15

/-- Which neighbour of the exact value a function of R181 returns: 0 sin, 1 cos, 2 tan, 3 power of ten; the same for the
same argument on every engine. -/
opaque trigPick : Nat → W32 → Nat

/-- The nominal amplitude of the resolver inputs, in codes, for an amplitude code of `POS_RSV.AMP` (R210 names it
`amp_nom` and gives no value). -/
opaque rsvNominal : Nat → Nat

/-- The microvolts that a conversion of a command pin stands for (R248 gives no scale). -/
opaque pinMicrovolts : BitVec 12 → Nat

/-- The millivolts of a DC component of a resolver input pair, from its mean in codes (R212, R229 give no scale). -/
opaque rsvMillivolt : Nat → Nat

end Sys2Proof.Config
end

