-- ==== Sys2Proof/Machine/Parts.lean ====
section
/-! DEFINITION. The parts of the state that no register shows: timers, filters, queues, sequencers and pins of each block,
as plain data. -/

namespace Sys2Proof.Machine
open Sys2Proof

/-! ### Bus: unlocks, snapshots, change sets (R46, R48, R49 to R55) -/

/-- A requester's unlock on one page (R46). -/
inductive Unlock where
  | none
  | first (tick : Nat)
  | held (tick : Nat)
deriving DecidableEq, Repr

/-- What a bus access answered: nothing yet, the word read, a completed write, or a bus error (R39, R45). -/
inductive Reply where
  | none
  | data (w : W32)
  | done
  | error
deriving DecidableEq, Repr

/-- One staged word: its address, the value and the bits that are staged (R45). -/
structure Staged where
  addr : Nat
  val : Nat
  mask : Nat
deriving DecidableEq, Repr

/-- The change set of one requester (R49 to R55). -/
structure CSet where
  /-- The member pages; empty while the requester has no set. -/
  pages : List Page
  words : List Staged
  /-- While COMMITTING: the domains that remain, each with the boundary it waits for. -/
  plan : List (Domain × Boundary)
  committing : Bool
  ordered : Bool
  /-- Domains committed so far. -/
  done : Nat
  /-- The domains of the set. -/
  width : Nat
  /-- The tick after which the next boundary counts. -/
  after : Nat
  /-- PARAM entries of SLG that are still to be programmed (R371). -/
  logLeft : Nat
  /-- A reaction stopped the commit in the tick of its last boundary (R55). -/
  cut : Bool
deriving DecidableEq, Repr

/-- No set. -/
def CSet.empty : CSet := ⟨[], [], [], false, false, 0, 0, 0, 0, false⟩

/-! ### Horizon (R66 to R90) -/

/-- The hidden state of a lock group: all times and lengths in fine units. -/
structure LgH where
  period : Nat
  last : Nat
  next : Option Nat
  newPer : Option Nat
  restart : Option (Nat × Nat)
  slew : Int
  renew : Bool
  renewAt : Nat
  phase : Nat
  base : Nat
  skip : Bool
  div : Nat
  syncRef : Option Nat
  syncGood : Nat
  syncPer : Option Nat
deriving DecidableEq, Repr

/-- A lock group that does not run. -/
def LgH.idle : LgH := ⟨0, 0, none, none, none, 0, false, 0, 0, 0, false, 0, none, 0, none⟩

/-- The pin of a compare channel: its level from the fine time of its last edge on, and the level before that edge. -/
structure CmpPin where
  level : Bool
  edge : Nat
  old : Bool
deriving DecidableEq, Repr

/-- The rest of Horizon. -/
structure TbuH where
  qualified : Bool
  neverRaised : Bool
  /-- The tick from which the reference may have met the conditions of R68. -/
  refFrom : Nat
  /-- A direct lock in progress: its last tick, and the difference in ppb at qualification. -/
  directBy : Option (Nat × Int)
  /-- A glide in progress: its first tick, and the difference in ppb at that tick. -/
  glide : Option (Nat × Int)
  stale : Vector Bool 100
  /-- Outputs that have swapped in the calibration of BOOT, and the tick of the last swap of each (R84). -/
  swapped : Vector Bool 100
  swapAt : Vector Nat 100
  /-- The calibration cycle of the last swap, the largest trim correction of that cycle so far and of the one before. -/
  cycle : Nat
  worst : Nat
  worstOld : Nat
  calDone : Bool
  syncAt : Option Nat
  /-- The `SYNC_OUT` pulse: its start and its end in fine units. -/
  syncOut : Option (Nat × Nat)
  /-- The steering part of TRIM in ppb, the sign of a residual that is steered out at the limit, and fabric time less the
  local count as last measured, in fine units (R87). -/
  steer : Int
  limit : Int
  fabOfs : Int
  steerSince : Option Nat
  steerRaised : Bool
  cmpTick : Vector (Option Nat) 16
  cmpPin : Vector CmpPin 16
deriving DecidableEq, Repr

/-- Horizon at reset. -/
def TbuH.idle : TbuH := {
  qualified := false, neverRaised := false, refFrom := 0, directBy := none, glide := none,
  stale := Vector.replicate 100 false, swapped := Vector.replicate 100 false, swapAt := Vector.replicate 100 0,
  cycle := 0, worst := 0, worstOld := 0, calDone := false, syncAt := none, syncOut := none, steer := 0, limit := 0,
  fabOfs := 0, steerSince := none, steerRaised := false, cmpTick := Vector.replicate 16 none,
  cmpPin := Vector.replicate 16 ⟨false, 0, false⟩ }

/-! ### PWM pins -/

/-- An edge placed ahead, in fine units. -/
structure PinEdge where
  time : Nat
  ball : Nat
  level : Bool
deriving DecidableEq, Repr

/-- The pins of one three-leg timer: commanded levels, last turn-off times and the edges ahead. -/
structure Pins where
  lvl : Nat
  offAt : List Nat
  edges : List PinEdge
deriving DecidableEq, Repr

/-- All pins low. -/
def Pins.low : Pins := ⟨0, [0, 0, 0, 0, 0, 0], []⟩

/-- The hidden state of a tri-leg (R91 to R113). -/
structure TpwH where
  pins : Pins
  /-- The request that MSVm holds (R102). -/
  req : Option Nat
  /-- The firmware request not yet taken. -/
  fw : Option Nat
  /-- Latched FR4 faults: bit 0 0x201, 1 0x202, 3 0x204, 4 0x205 (R111, R112). -/
  latch : Nat
  /-- Update points of the running period still to come: fine time, whether it starts a second half, and the nominal
  period of that period. -/
  due : List (Nat × (Bool × Nat))
  perStart : Nat
  perLen : Nat
  perNom : Nat
  /-- The shadow triplet and NEW as they stood at the start of a tick (R98). -/
  prevTick : Nat
  prevCmp : Nat × Nat × Nat
  prevNew : Bool
  /-- One more than the tick in which a triplet was last completed. -/
  newAt : Nat
  /-- Balls that were found to differ from their commanded level (R106). -/
  mis : Nat
deriving DecidableEq, Repr

/-- A tri-leg at reset. -/
def TpwH.idle : TpwH := ⟨Pins.low, none, none, 0, [], 0, 0, 0, 0, (0, 0, 0), false, 0, 0⟩

/-! ### DC-DC converter (R255 to R271) -/

/-- A phase is off, shedding, entering from a share, or active (R266, R267). -/
inductive PhaseMode where
  | off
  | shed (j : Nat)
  | enter (f j : Nat)
  | active
deriving DecidableEq, Repr

/-- The hidden state of DCD. -/
structure DcdH where
  /-- The words 0x040 to 0x0D8 of the page as the last update found them: committed fields apply from the next update
  (R268). -/
  words : List W32
  testAt : Nat
  startAt : Nat
  passes : Vector Nat 4
  stale : Nat
  fresh : Bool
  stopPins : Bool
  /-- A fault condition was present at the last update. -/
  cond : Bool
  vin : W32
  vout : W32
  iout : W32
  vref : W32
  target : W32
  modes : Vector PhaseMode 4
  ilim : Bool
  abort : Bool
  readd : Bool
  sinceReadd : Nat
  nt : Nat
  hold : Nat
  inval : Nat
  ov : Nat
  uv : Nat
  iph : Nat
  vinBad : Nat
  updAt : Nat
  hasUpd : Bool
  perBad : Bool
  phi : Nat
  phiIn : Nat
deriving DecidableEq, Repr

/-- DCD at reset. -/
def DcdH.idle : DcdH := {
  words := [], testAt := 0, startAt := 0, passes := Vector.replicate 4 0, stale := 0, fresh := false,
  stopPins := false, cond := false, vin := 0, vout := 0, iout := 0, vref := 0, target := 0,
  modes := Vector.replicate 4 .off, ilim := false, abort := false, readd := false, sinceReadd := 0, nt := 0, hold := 0,
  inval := 0, ov := 0, uv := 0, iph := 0, vinBad := 0, updAt := 0, hasUpd := false, perBad := false, phi := 0,
  phiIn := 0 }

/-! ### DMA (R397 to R403) -/

/-- A record asked of a DMA channel: its words, and the page that asks (R398). -/
structure DmaReq where
  ch : Nat
  words : List W32
  src : Page
deriving DecidableEq, Repr

/-- The hidden state of a DMA channel. -/
structure DmaCh where
  /-- The record in progress. -/
  cur : Option (List W32)
  /-- Words of a BLOCK transfer that remain, and words moved. -/
  left : Nat
  pos : Nat
  /-- One more than the tick of the last advance of RPTR by the hardware (R400). -/
  advAt : Nat
deriving DecidableEq, Repr

/-! ### Measurement (R114 to R144) -/

/-- A triggered sequence of a fast group (R119): hold tick of slot 0, slots, inputs of both slots, the slot whose latch is
next (2 after the last), and whether a commit cut it (R140). -/
structure AdfSeq where
  t0 : Nat
  two : Bool
  sel0 : Nat
  sel1 : Nat
  slot : Nat
  cut : Bool
deriving DecidableEq, Repr

/-- A converter result that missed its latch tick (R120): slot, converter, word and hold tick. -/
structure LateRes where
  slot : Nat
  c : Nat
  word : W32
  hold : Nat
deriving DecidableEq, Repr

/-- A fast group outside its registers. -/
structure AdfH where
  seq : Option AdfSeq
  late : List LateRes
  /-- Ticks of the last `adf_hold` and `adf_done` pulses. -/
  holdAt : Option Nat
  doneAt : Option Nat
  /-- Hold tick of the injected conversion in progress, and its inputs. -/
  inj : Option (Nat × Nat)
  /-- Hold tick of the last injected conversion. -/
  injAt : Option Nat
  /-- Start and input of the last open-wire test. -/
  owAt : Option Nat
  owIn : Nat
  /-- The sample ports by slot and converter, each with its last two words and hold ticks, the newest first (R121). -/
  ports : Vector (List (W32 × Nat)) 8
deriving DecidableEq, Repr

/-- A fast group at reset. -/
def AdfH.idle : AdfH := ⟨none, [], none, none, none, none, none, 7, Vector.replicate 8 []⟩

/-- A sequence of a housekeeping converter: current entry, number of entries, start of the entry, and LATE. -/
structure AdhSeq where
  pos : Nat
  len : Nat
  startAt : Nat
  late : Bool
deriving DecidableEq, Repr

/-- A housekeeping converter outside its registers. -/
structure AdhH where
  reg : Option AdhSeq
  inj : Option AdhSeq
  /-- Regular triggers since the enable, for the divider of R129. -/
  trigs : Nat
  /-- In continuous mode: the tick at which the next sequence starts. -/
  contAt : Option Nat
  /-- A commit disabled the converter during an entry (R140). -/
  cut : Bool
  /-- Inputs whose last open-wire test failed. -/
  openw : Nat
  /-- End of the last entry. -/
  endAt : Option Nat
deriving DecidableEq, Repr

/-- A housekeeping converter at reset. -/
def AdhH.idle : AdhH := ⟨none, none, 0, none, false, 0, none⟩

/-- The calibration of one converter (R137, R138): steps of the running cycle, a completed cycle in the running window,
windows without one, current, the limit reached, and its staleness reported since the last cycle. -/
structure CalH where
  steps : Nat
  cycle : Bool
  stale : Nat
  ok : Bool
  limit : Bool
  told : Bool
deriving DecidableEq, Repr

/-- The reference and calibration block outside its registers. -/
structure AdrH where
  conv : Vector CalH 36
  /-- Start of the running calibration window. -/
  winAt : Nat
  /-- The enable commit of a buffer that is not yet ready. -/
  rdyAt : Vector (Option Nat) 3
  mon : Vector Nat 3
  /-- The ticks in which each buffer last became fit or unfit for its converters, the newest first. -/
  flips : Vector (List Nat) 3
deriving DecidableEq, Repr

/-- The block at reset release: all three buffers enabled (R133). -/
def AdrH.idle : AdrH :=
  ⟨Vector.replicate 36 ⟨0, false, 0, false, false, false⟩, 0, Vector.replicate 3 (some 0), Vector.replicate 3 0, Vector.replicate 3 []⟩

/-! ### Cirrus (R145 to R206) -/

/-- How far an execution is: waiting, in its provisional run, provisional run complete, in its final run, complete. -/
inductive ExecSt where
  | waiting | prov | provDone | final | complete
deriving DecidableEq, Repr

/-- What an execution commits: the value of every working register, the state words from 0 on, the regime of each stage,
and whether a value that would be written is not finite. -/
structure ExecOut where
  w : List W32
  st : List W32
  regimes : List Nat
  bad : Bool
deriving DecidableEq, Repr

/-- An execution of a context (R150 to R168). -/
structure Exec where
  /-- Its trigger tick, and whether the trigger has come. -/
  trig : Nat
  taken : Bool
  st : ExecSt
  /-- It runs without speculation in an Updraft context. -/
  redo : Bool
  /-- The record as committed at its start, the words of shared tables, and the values of the bindings. -/
  words : List (Nat × W32)
  inputs : List W32
  dt : Nat
  /-- Predicted codes by binding; the angle codes and the expected hold ticks that go with the trigger, by binding. -/
  preds : List (Nat × Int)
  angs : List (Nat × Int)
  holds : List (Nat × Nat)
  out : Option ExecOut
  /-- 0 not checked, 1 HIT, 2 CORR, 3 REDO. -/
  class_ : Nat
  /-- Completion of the second engine of a pair; a completed tick; and a difference found. -/
  done1 : Bool
  done2 : Bool
  doneAt : Nat
  differ : Bool
  /-- Late for another reason: ECC, a STRICT input, a non-finite value. -/
  spoilt : Bool
  /-- Its context was disabled after its trigger: it completes with its old values (R53). -/
  old : Bool
deriving DecidableEq, Repr

/-- A context outside its record. -/
structure CtxH where
  enAt : Nat
  trigs : Nat
  /-- Taken triggers since the enable. -/
  takes : Nat
  trigAt : Option Nat
  commitAt : Option Nat
  lastTrig : Option Nat
  /-- Regimes of the last committed execution since the enable. -/
  regimes : Option (List Nat)
  /-- Executions since the last pair mismatch. -/
  mis : Option Nat
  /-- COMPARE stages whose fault has been raised. -/
  cmpRaised : Nat
  exec : Option Exec
deriving DecidableEq, Repr

/-- A context at reset. -/
def CtxH.idle : CtxH := ⟨0, 0, 0, none, none, none, none, none, 0, none⟩

/-! ### Rotor position (R207 to R229) -/

/-- A trajectory of the re-acquisition bank (R224): rotor-frame currents, the angle run since the start, and the cost. -/
structure Candidate where
  id : W32
  iq : W32
  run : W32
  cost : W32
deriving DecidableEq, Repr

/-- The running sweep of the bank: its start, the last latch, the latches in it, the sum of |i_meas|², and the tick of
the evaluating latch. -/
structure Sweep where
  t0 : Nat
  last : Nat
  n : Nat
  sum : W32
  bank : List Candidate
  evalAt : Option Nat
deriving DecidableEq, Repr

/-- The encoder before the edges of a tick (R213): levels, count, last edge and speed. -/
structure EncBase where
  tick : Nat
  a : Bool
  b : Bool
  count : Int
  edgeAt : Option Nat
  w : W32
deriving DecidableEq, Repr

/-- A position unit outside its registers; angles in turns and speeds in rad/s as binary32. -/
structure PosH where
  -- resolver: tracking loop in mechanical resolver turns, its last sample, and the checks of R212
  rsvTh : W32
  rsvW : W32
  rsvAt : Nat
  rsvLo : Nat
  rsvHi : Nat
  rsvLot : Nat
  rsvExc : Nat
  rsvBad : Nat
  rsvGood : Nat
  rsvSamples : Nat
  /-- The excitation period last checked, and since then: the sums of the demodulated samples, of the plain ones, and their
  number. -/
  rsvPer : Nat
  rsvS : W32
  rsvC : W32
  rsvDS : Int
  rsvDC : Int
  rsvN : Nat
  -- encoder
  encA : Bool
  encB : Bool
  encCount : Int
  encOfs : W32
  encIdx : Option Int
  encAt : Option Nat
  encW : W32
  /-- The encoder as it stood before the first edge of the tick of the last one. -/
  encBase : Option EncBase
  -- Hall sensors
  hallRaw : Nat
  hall : Nat
  hallAt : Option Nat
  hallW : W32
  hallDir : Int
  hallN : Nat
  hallTh : W32
  -- flux observer
  psiA : W32
  psiB : W32
  obsTh : W32
  obsW : W32
  obsAt : Option Nat
  obsLoss : Nat
  obsLost : Bool
  /-- The last latch of the observer's input group. -/
  latAt : Option Nat
  -- fusion
  th : W32
  w : W32
  updAt : Nat
  disN : Nat
  reacqN : Option Nat
  /-- Sources that were valid as the angle was lost and have stayed so; they are not valid again (R222). -/
  held : Nat
  lossAt : Nat
  w0 : W32
  sweep : Option Sweep
deriving DecidableEq, Repr

/-- A position unit at reset. -/
def PosH.idle : PosH := {
  rsvTh := 0, rsvW := 0, rsvAt := 0, rsvLo := 0, rsvHi := 0, rsvLot := 0, rsvExc := 0, rsvBad := 0, rsvGood := 0,
  rsvSamples := 0, rsvPer := 0, rsvS := 0, rsvC := 0, rsvDS := 0, rsvDC := 0, rsvN := 0, encBase := none, hallRaw := 7,
  latAt := none, encA := false, encB := false, encCount := 0, encOfs := 0, encIdx := none, encAt := none, encW := 0,
  hall := 0, hallAt := none, hallW := 0, hallDir := 0, hallN := 0, hallTh := 0, psiA := 0, psiB := 0, obsTh := 0,
  obsW := 0, obsAt := none, obsLoss := 0, obsLost := false, th := 0, w := 0, updAt := 0, disN := 0, reacqN := none,
  held := 0, lossAt := 0, w0 := 0, sweep := none }

/-- A position unit as at reset, at its pins. -/
def PosH.fresh (h : PosH) : PosH := { PosH.idle with encA := h.encA, encB := h.encB, hallRaw := h.hallRaw }

/-! ### Machine supervisors and the brake chopper (R230 to R254) -/

/-- The hidden state of MSVm. -/
structure MsvH where
  vdc : W32
  /-- The DC-link voltages of the last 8 valid updates, the newest first, and the number of valid updates in a row. -/
  hist : List W32
  valN : Nat
  /-- The words published, and those that are published at `pubAt` (R230, R231). -/
  words : List W32
  pubAt : Nat
  nextWords : List W32
  inval : Nat
  trip : Nat
  ovs : Nat
  oc : Vector Nat 6
  sum : Vector Nat 2
  still : Nat
  tr : W32
  tref : W32
  lastUpd : Option Nat
  tqScale : W32
  recAt : Option Nat
  cmdAt : Nat
  lost : Bool
  lat606 : Bool
  lat607 : Bool
  lat608 : Bool
  lhCmd : W32
  lhBad : Nat
  /-- Members that have not reached SWITCH since RUN was accepted, each with its update points (R250). -/
  runPend : Option (List (Nat × Nat))
  st1 : Bool
  st2 : Bool
  st3 : Bool
  uv : Bool
  /-- The set that a swap at the next period start makes the running one; 0 for both (R247). -/
  swapTo : Option Nat
  /-- After a swap: the recovery waits for NEW of the healthy context. -/
  healing : Bool
  /-- In HOLD: SWITCH is requested, and the origin state follows once every member in use reads SWITCH (R244). -/
  ret : Bool
  /-- HOLD was entered for a set fault rather than for the angle. -/
  holdSet : Bool
  vcmd : List W32
deriving DecidableEq, Repr

/-- MSV at reset. -/
def MsvH.idle : MsvH := {
  vdc := 0, hist := [], valN := 0, words := [], pubAt := 0, nextWords := [], inval := 0, trip := 0, ovs := 0,
  oc := Vector.replicate 6 0, sum := Vector.replicate 2 0, still := 0, tr := 0, tref := 0, lastUpd := none,
  tqScale := 0x3F800000#32, recAt := none, cmdAt := 0, lost := false, lat606 := false, lat607 := false,
  lat608 := false, lhCmd := 0, lhBad := 0, runPend := none, st1 := false, st2 := false, st3 := false, uv := false,
  swapTo := none, healing := false, ret := false, holdSet := false, vcmd := [] }

/-- A command pin: `LH_CMD0`–`2` and `ACT_CMD0`–`5` (R248, R299). -/
structure CmdPin where
  /-- The last 16 conversions, the newest first, and the tick of the newest. -/
  codes : List (BitVec 12)
  convAt : Option Nat
  /-- Fine times of the last rising and falling edges, and the last full period with its high time. -/
  rise : Option Nat
  fall : Option Nat
  full : Option (Nat × Nat)
deriving DecidableEq, Repr

/-- A command pin at reset. -/
def CmdPin.idle : CmdPin := ⟨[], none, none, none, none⟩

/-- The hidden state of BCH. -/
structure BchH where
  /-- Turn-on and turn-off of the last two on-intervals, fine time, the newest first. -/
  ivs : List (Nat × Nat)
  missOn : Nat
  missOff : Nat
  /-- Duty, link voltage and length of the period that runs. -/
  d : W32
  v : W32
  perAt : Option Nat
deriving DecidableEq, Repr

/-- BCH at reset. -/
def BchH.idle : BchH := ⟨[], 0, 0, 0, 0, none⟩

/-! ### On-board charger (R272 to R290) -/

/-- The hidden state of OBC. -/
structure ObcH where
  -- inlet: sum and number of the pilot samples (in millivolts of the pilot) of the high half, the low half and the
  -- running window; edges, decoding
  cpHigh : Int × Nat
  cpLow : Int × Nat
  cpAll : Int × Nat
  rise : Option Nat
  fall : Option Nat
  winAt : Nat
  /-- The tick of the last pilot sample, none where decoding has not begun (R275). -/
  cpAt : Option Nat
  cand : Nat
  candN : Nat
  /-- The candidate comes from 1 ms windows, not from periods. -/
  candWin : Bool
  ppAt : Option Nat
  pp : List (Int × Int)
  inlet : Bool
  -- the last BMS frame
  frame : Bool
  frameCont : Bool
  /-- A frame with CONT 1 since the last STOPPED (R284), and no frame with CONT 0 since. -/
  frameSince : Bool
  bms1 : W32
  bms2 : W32
  bms3 : W32
  bmsAt : Nat
  -- precharge
  pcStep : Nat
  pcAt : Nat
  -- measurements
  vlink : W32
  vpack : Option (W32 × Nat)
  idab : W32
  /-- Squares of the phase voltages over the last 20 ms, with their ticks, the newest first (R278). -/
  sq : List (Nat × (W32 × W32 × W32))
  /-- Updates that ended charge, and the consecutive counts of the checks. -/
  endN : Nat
  invalDc : Nat
  invalAc : Nat
  rangeN : Nat
  acOc : Nat
  dabOc : Nat
  linkOv : Nat
  packOv : Nat
  collN : Nat
  -- control
  dir : Bool
  dirNext : Bool
  iref : W32
  updAt : Option Nat
  pfcOn : Bool
  dabOn : Bool
  dabPers : Nat
  staleP : Nat
  staleD : Nat
  freshP : Bool
  freshD : Bool
  -- outputs of `OBC_IO`
  outS2 : Bool
  outAck : Bool
  outPre : Bool
  -- stops
  stopAt : Nat
  inhibitAt : Option Nat
  lossSeen : Bool
  latched : List Nat
  pendCause : Nat
  -- timers
  ccEnd : Option Nat
  cvAt : Option Nat
  countAt : Nat
  /-- The BMS timer has expired since the last frame. -/
  bmsOut : Bool
deriving DecidableEq, Repr

/-- OBC at reset. -/
def ObcH.idle : ObcH := {
  cpHigh := (0, 0), cpLow := (0, 0), cpAll := (0, 0), rise := none, fall := none, winAt := 0, cpAt := none, cand := 0, candN := 0,
  candWin := false, ppAt := none,
  pp := [], inlet := false, frame := false, frameCont := false, frameSince := false, bms1 := 0, bms2 := 0, bms3 := 0,
  bmsAt := 0, pcStep := 0, pcAt := 0, vlink := 0, vpack := none, idab := 0, sq := [], endN := 0, invalDc := 0,
  invalAc := 0, rangeN := 0, acOc := 0, dabOc := 0, linkOv := 0, packOv := 0, collN := 0, dir := false,
  dirNext := false, iref := 0, updAt := none, pfcOn := false, dabOn := false, dabPers := 0, staleP := 0,
  staleD := 0, freshP := false, freshD := false, outS2 := false,
  outAck := false, outPre := false, stopAt := 0, inhibitAt := none, lossSeen := false, latched := [], pendCause := 0,
  ccEnd := none, cvAt := none, countAt := 0, bmsOut := false }

/-! ### Actuators (R291 to R306) -/

/-- Sensorless operation (R295): not running, aligning, forced, or handed over. -/
inductive Bemf where
  | off
  | align (t0 : Nat)
  | forced (t0 : Nat) (k : Nat) (lastAt : Nat) (good : Nat)
  | run
deriving DecidableEq, Repr

/-- The hidden state of an actuator channel. -/
structure ActH where
  pins : Pins
  /-- The active on-time, and the pattern that the next period start takes. -/
  cmpA : Int
  patNext : Nat
  stale : Nat
  /-- The shadow as it stood at the start of a tick. -/
  prevTick : Nat
  prevCmp : Int
  prevNew : Bool
  /-- Hall state, and the ticks of the last two edges with the step of the last one. -/
  hall : Nat
  edgeAt : Option Nat
  edgeIv : Option Nat
  edgeDir : Int
  bemf : Bemf
  /-- Tick of the last sector advance, the last sector interval, and the advance that a zero crossing scheduled. -/
  sectAt : Nat
  sectIv : Nat
  advAt : Option Nat
  inval : Nat
  stall : Nat
  trip : Nat
  openN : Nat
  openKey : Nat
  seqN : Nat
  seqAt : Nat
  pinBad : Nat
  pinTgt : Option W32
  safePos : Bool
  cause : Nat
  /-- The period P in ticks. -/
  per : Nat
  /-- The tick plus 1 of the last command that changed the state with the state before it, and that of the last end of a
  sequence (R301). -/
  cmdAt : Nat
  cmdWas : Nat
  endAt : Nat
deriving DecidableEq, Repr

/-- An actuator channel at reset. -/
def ActH.idle : ActH := {
  pins := Pins.low, cmpA := 0, patNext := 0, stale := 0, prevTick := 0, prevCmp := 0, prevNew := false, hall := 0,
  edgeAt := none, edgeIv := none, edgeDir := 0, bemf := .off, sectAt := 0, sectIv := 0, advAt := none,
  inval := 0, stall := 0, trip := 0, openN := 0, openKey := 0, seqN := 0, seqAt := 0, pinBad := 0,
  pinTgt := none, safePos := false, cause := 0, per := 0, cmdAt := 0, cmdWas := 0, endAt := 0 }

/-! ### Halo (R330 to R360) -/

/-- The state of a safe-input channel's filter (R341): neither, SAFE or RUN. -/
inductive ChanState where
  | none | safe | run
deriving DecidableEq, Repr

/-- One channel of a safe input. -/
structure SfiChan where
  st : ChanState
  lows : Nat
  /-- Since when every counted sample has read the run level. -/
  runSince : Option Nat
  /-- The reading at the last sample: whether it was the safe level. -/
  last : Bool
  /-- The channel read its safe level at the last sample inside the pulse of this line (R344). -/
  inPulse : Option Nat
deriving DecidableEq, Repr

/-- A channel before its first sample. -/
def SfiChan.idle : SfiChan := ⟨.none, 0, none, false, none⟩

/-- One safe input. -/
structure SfiIn where
  c1 : SfiChan
  c2 : SfiChan
  /-- The demand in force, and a demand that MAN keeps until an ACK. -/
  demand : Bool
  /-- Start of the discrepancy timer. -/
  discAt : Option Nat
  /-- Both channels SAFE in one sample since the latch, and both RUN after that (R343). -/
  rearmRun : Bool
  /-- A later test passed the stuck check and the cross-short check since the latch (R344). -/
  testOk : Bool
  testBad : Bool
deriving DecidableEq, Repr

/-- A safe input at reset. -/
def SfiIn.idle : SfiIn := ⟨.idle, .idle, false, none, false, false, false⟩

/-- A brake channel (R348, R349). -/
structure SbcH where
  changeAt : Nat
  applyAt : Option Nat
  /-- Start of the test period, and the test in progress: the output under test and its start. -/
  relAt : Nat
  test : Option (Bool × Nat)
  fb : Nat
deriving DecidableEq, Repr

/-- The stop of a machine (R345 to R347) and its torque window (R350). -/
structure StopH where
  t0 : Nat
  w0 : W32
  overN : Nat
  /-- The stop completed or escalated (R338 cause 0x5). -/
  done : Bool
  tpN : Nat
  tpEst : W32
  tpRef : W32
deriving DecidableEq, Repr

/-- A heartbeat line (R333): the code of the running half-period, its level and its end. -/
structure GhbH where
  code : Nat
  level : Bool
  odd : Bool
  endAt : Nat
deriving DecidableEq, Repr

/-- Halo outside its registers. -/
structure HaloH where
  /-- Commanded levels of path A and path B: bits 0 to 2 machines, bit 3 the converters. -/
  pathA : Nat
  pathB : Nat
  /-- Since when the two path states of a line differ. -/
  diffAt : Vector (Option Nat) 4
  /-- `STO_CMD` ASSERT in force per machine (cause 0x6), and CONV_ASSERT. -/
  cmdSto : Nat
  convCmd : Bool
  /-- A converter demand of a safe input was in force since the last CONV_RELEASE. -/
  convSfi : Bool
  stops : Vector StopH 3
  ghb : Vector GhbH 15
  sfi : Vector SfiIn 16
  /-- The TPO line whose pulse runs: start and end ticks per line. -/
  tpoAt : Vector (Option Nat) 4
  tpoEnd : Vector (Option Nat) 4
  sbc : Vector SbcH 2
  /-- The watchdog interval: its start, or suspended. -/
  kickAt : Option Nat
  alive : Bool
  /-- STO balls found to differ from their commanded level: bits 0 to 2 `STO_A`, 3 to 5 `STO_B`, 6 and 7 `STO_C` (R337). -/
  stoMis : Nat
deriving DecidableEq, Repr

/-- Halo at reset. -/
def HaloH.idle : HaloH := {
  pathA := 0, pathB := 0, diffAt := Vector.replicate 4 none, cmdSto := 0, convCmd := false, convSfi := false,
  stops := Vector.replicate 3 ⟨0, 0, 0, false, 0, 0, 0⟩, ghb := Vector.replicate 15 ⟨0, false, false, 0⟩,
  sfi := Vector.replicate 16 SfiIn.idle, tpoAt := Vector.replicate 4 none, tpoEnd := Vector.replicate 4 none,
  sbc := Vector.replicate 2 ⟨0, none, 0, none, 0⟩, kickAt := none, alive := false, stoMis := 0 }

/-! ### CAN (R411 to R424) -/

/-- Where the frame under transmission comes from (R417). -/
inductive CanSrc where
  | txu | head
deriving DecidableEq, Repr

/-- A CAN controller outside its registers. -/
structure CanH where
  starting : Bool
  stopping : Bool
  sending : Option CanSrc
  sofAt : Nat
  /-- The filter words in force at the start of frame (R419). -/
  filt : List W32
  fifo : List CanFrame
  txu : Option CanFrame
  txuDrop : Bool
  headDrop : Bool
  headAt : Nat
  headRaised : Bool
  rx : List (CanFrame × Nat)
  hp : List (CanFrame × Nat)
deriving DecidableEq, Repr

/-- A controller at reset. -/
def CanH.idle : CanH := ⟨false, false, none, 0, [], [], none, false, false, 0, false, [], []⟩

/-! ### Safety parameters and change log (R361 to R376) -/

/-- A log entry that waits for its programming (R369, R370). -/
structure SlgEntry where
  kind : Nat
  tick : Nat
  w4 : Nat
  w5 : Nat
  w6 : Nat
  /-- The requester whose change set waits for this PARAM entry. -/
  set : Option (Fin 16)
deriving DecidableEq, Repr

/-- A stored record of SCF (R364). -/
structure ScfRec where
  valid : Bool
  num : Nat
  /-- Salt and hash of the password; none while the device is UNSET (R365). -/
  pwd : Option (Nat × Nat)
  lockN : Nat
  boots : Nat
  pairs : List (Nat × Nat)
deriving DecidableEq, Repr

/-- The operation that SCF has PENDING (R368). -/
inductive ScfOp where
  | none
  | setPwd (salt hash : Nat)
  | confirm
deriving DecidableEq, Repr

/-- SCF and SLG outside their registers. -/
structure ScfH where
  rec0 : ScfRec
  rec1 : ScfRec
  sessAt : Nat
  lockEnd : Option Nat
  op : ScfOp
  /-- `LOCKN` changed, and its store is not yet done. -/
  lockStore : Bool
  /-- The ticks at which these two were asked for. -/
  opAt : Nat
  lockAt : Nat
  revertAt : Option Nat
  /-- A commit changed active fields at this tick, and `SCF_IMGCRC` is not yet recomputed. -/
  crcDue : Option Nat
  queue : List SlgEntry
  /-- The copy of R376 in progress: its start. -/
  copyAt : Option Nat
deriving DecidableEq, Repr

/-! ### Lockstep pairs (R307 to R329) -/

/-- An unconfirmed window entry (R310): the words of the two cores, the tick of the main core's word, and the address of
the instruction. -/
structure Entry where
  main : BitVec 192
  mainAt : Nat
  chk : Option (BitVec 192)
deriving DecidableEq, Repr

/-- A slot of the agreement buffer (R311): the agreed address and byte enables, and the captured response. -/
structure LoadSlot where
  addr : Nat
  be : Nat
  resp : Option (W32 × Bool)
deriving DecidableEq, Repr

/-- An entry of the delay FIFO (R317): the number of the instruction at whose boundary it was taken, the kind and the
value. -/
structure AsyncEnt where
  instr : Nat
  kind : Nat
  val : Nat
deriving DecidableEq, Repr

/-- A lockstep pair outside its registers. -/
structure PairH where
  run : Bool
  /-- Integer and floating-point registers as committed, and the CSRs that are not 0. -/
  x : Vector W32 32
  f : Vector W32 32
  csr : List (Nat × W32)
  /-- Address of the oldest unconfirmed instruction, and of the last committed instruction that trapped with its cause. -/
  pc : W32
  trap : Option (Nat × W32)
  /-- The commit window, the oldest entry first, and the physical slot of the oldest. -/
  win : List Entry
  slot : Nat
  /-- The agreement buffer by window position. -/
  loads : List (Option LoadSlot)
  fifo : List AsyncEnt
  /-- Instructions committed since the reset. -/
  count : Nat
  /-- Entries that the running retry still has to commit. -/
  retry : Option Nat
  haltReq : Bool
  halted : Bool
  step : Bool
  /-- Start of a reset through the RST page, and the entry address. -/
  resetAt : Option Nat
  entry : Nat
deriving DecidableEq, Repr

/-- A pair in reset (R307, R326). -/
def PairH.idle : PairH := {
  run := false, x := Vector.replicate 32 0, f := Vector.replicate 32 0, csr := [], pc := 0, trap := none, win := [],
  slot := 0, loads := [], fifo := [], count := 0, retry := none, haltReq := false, halted := false, step := false,
  resetAt := none, entry := 0 }

/-- The comparators: one more than the self-test period of the last completed test, and an extra test asked (R321, R329). -/
structure LksH where
  pairs : Vector PairH 3
  /-- The agreed safe-input records that HS has not taken yet, the oldest first (R318). -/
  recs : List W32
  /-- The record of the last delivery: HS receives a record only when it changes (R340). -/
  lastRec : Option W32
  tested : Vector Nat 4
  extra : Vector Bool 4
deriving DecidableEq, Repr

/-! ### Zenith (R377 to R387) -/

/-- An external sensor: the result last taken, scans since it came, and the condition of fault 0xC06. -/
structure ExtH where
  last : W32 × W32
  age : Nat
  bad : Bool
deriving DecidableEq, Repr

/-- Zenith outside its registers. -/
structure TmuH where
  scans : Nat
  devN : Vector Nat 24
  /-- Cluster temperatures of the last scans, the newest first. -/
  hist : List (Vector Int 6)
  /-- The compensation temperatures. -/
  comp : Vector Int 6
  /-- Scan of the last change of level. -/
  changeAt : Option Nat
  dn : Nat
  shut : Nat
  /-- Clusters in a rate condition. -/
  rate : Nat
  ext : Vector ExtH 16
deriving DecidableEq, Repr

/-- Zenith at reset. -/
def TmuH.idle : TmuH :=
  ⟨0, Vector.replicate 24 0, [], Vector.replicate 6 0, none, 0, 0, 0, Vector.replicate 16 ⟨(0, 0), 0, false⟩⟩

/-! ### Arbiter, flash and scrubber (R388 to R396) -/

/-- A flash operation in progress (R391). -/
inductive FlashOp where
  | program (addr : Nat) (data : List W32)
  | erase (addr : Nat)
deriving DecidableEq, Repr

/-- The arbiter outside its registers; keys are 16 times a bank plus a requester. -/
structure ArbH where
  /-- Requests that wait: twice one more than the tick of the request, plus one once another requester was granted before
  it. -/
  reqs : List (Nat × Nat)
  /-- Grants under rule 1 in the present window. -/
  used : List (Nat × Nat)
  /-- Requester of the last high grant, and of the last grant, by bank, plus one. -/
  lastHigh : List (Nat × Nat)
  lastAny : List (Nat × Nat)
  /-- The flash operation in progress, and the tick of its start. -/
  flash : Option FlashOp
  flashAt : Nat
  /-- The scrubber's next word and last tick, by bank; bank 24 is Halo SRAM. -/
  scrub : Vector (Nat × Nat) 25
  /-- The end of the present window, and the classes and quotas with which it runs (R394). -/
  winEnd : Nat
  high : Nat
  quotas : List Nat
deriving DecidableEq, Repr

/-- The arbiter at reset. -/
def ArbH.idle : ArbH := ⟨[], [], [], [], none, 0, Vector.replicate 25 (0, 0), 0, 0, []⟩

/-! ### Clepo (R425 to R452) -/

/-- A port: start of TRAIN, departure of the outstanding PDREQ, tick of the last one, twice the last delays (newest first),
the last frame sent, and the end of the last slot frame sent or forwarded. -/
structure ClfPort where
  trainAt : Nat
  pdreq : Option Nat
  pdAt : Option Nat
  delays : List Int
  sent : Option ClfFrame
  busyTo : Nat
  /-- The frame sent last ends with an error end symbol (R429). -/
  sentBad : Bool
  /-- A PDRESP waits for the open window (R437). -/
  respDue : Bool
deriving DecidableEq, Repr

/-- A peer subscription (R450): the last message delivered, one more than the last accepted SAFESEQ (0: none),
superframes without a valid message, and the two conditions. -/
structure PeerH where
  msg : Option (List W32)
  seq : Nat
  silent : Nat
  demand : Bool
  timeout : Bool
deriving DecidableEq, Repr

/-- Clepo outside its registers. -/
structure ClfH where
  ports : Vector ClfPort 2
  helloAt : Nat
  /-- The best root candidate: priority and device ID. -/
  best : Option (Nat × Nat)
  /-- The root is this node; the node holds an ID; a duplicate ID was found; the topology is a ring. -/
  isRoot : Bool
  idHeld : Bool
  dup : Bool
  /-- A duplicate of the own ID was reported in this discovery. -/
  dupSeen : Bool
  ring : Bool
  rootSf : Nat
  /-- A valid fabric time was held since reset; consecutive TIME frames; superframe of the last one. -/
  held : Bool
  timeN : Nat
  timeSf : Nat
  mismatch : Bool
  /-- The armed number that the last TIME frame carried. -/
  seenArm : Nat
  /-- Slots of this superframe: received, and in conflict; quarantined in this one and in the next one. -/
  got : List Nat
  clash : List Nat
  quar : List Nat
  /-- Last SEQ plus one of each route entry, and next SEQ of each stream of this node. -/
  rxSeq : List (Nat × Nat)
  txSeq : List (Nat × Nat)
  /-- The payload read for the next own slot. -/
  txbuf : Option (Nat × List W32)
  safeSeq : Nat
  /-- The message that Halo built at the last superframe boundary (R449). -/
  safeMsg : List W32
  peers : Vector PeerH 8
  /-- CRC errors of the present second, and whether fault 0xF0B was raised in it. -/
  errs : Nat
  errRaised : Bool
deriving DecidableEq, Repr

/-- Clepo at reset. -/
def ClfH.idle : ClfH := {
  ports := Vector.replicate 2 ⟨0, none, none, [], none, 0, false, false⟩, helloAt := 0, best := none, isRoot := false, idHeld := false, dup := false, dupSeen := false,
  ring := false, rootSf := 0, held := false, timeN := 0, timeSf := 0, mismatch := false, seenArm := 0xFFFFFFFF, got := [], clash := [],
  quar := [], rxSeq := [], txSeq := [], txbuf := none, safeSeq := 0, safeMsg := [],
  peers := Vector.replicate 8 ⟨none, 0, 0, false, false⟩, errs := 0, errRaised := false }

/-! ### Power, boot and JTAG (R456 to R475) -/

/-- The instruction of the test access port (R475). -/
inductive JtagIr where
  | bypass | idcode | sample | dtm | extest | clamp | highz
deriving DecidableEq, Repr

/-- The supplies, the reset input, the reset in progress and the boot (R456 to R474). -/
structure Dev where
  off : Bool
  /-- Per supply code of R456: above its undervoltage threshold. -/
  supplyOk : Vector Bool 6
  /-- Every monitor has reported valid for 2 ms (R457). -/
  waitDone : Bool
  nresetLow : Bool
  /-- Causes of the reset in progress by code of R480, the supply of a SUPPLY_UV, and a hold of 1 s or more. -/
  causes : Nat
  supply : Nat
  heldLong : Bool
  bootMode : Nat
  /-- An image slot was rejected before another was accepted; the key and the entry addresses of the running image. -/
  rejected : Bool
  key : Nat
  entries : Nat × Nat × Nat
  /-- KH0 and KH1 of the one-time-programmable row (R470). -/
  keyHash0 : Nat
  keyHash1 : Nat
  /-- The running start test, its start, and the tick from which the bound of R24 or R25 counts. -/
  test : Nat
  testAt : Nat
  boundAt : Nat
  /-- The committed configuration failed admission (R23, code 0x3). -/
  admFail : Bool
  jtag : JtagIr
  /-- The boundary cells that PRELOAD has set. -/
  cells : List (Nat × Bool)
deriving DecidableEq, Repr

/-- Power-up with boot mode 0, running the boot ROM. -/
def Dev.boot : Dev := {
  off := false, supplyOk := Vector.replicate 6 true, waitDone := true, nresetLow := false, causes := 0, supply := 0,
  heldLong := false, bootMode := 0, rejected := false, key := 2, entries := (0, 0, 0),
  keyHash0 := Config.otpKeyHash 0, keyHash1 := Config.otpKeyHash 1, test := 0,
  testAt := 0, boundAt := 0, admFail := false, jtag := .idcode, cells := [] }

end Sys2Proof.Machine
end

