-- ==== Sys2Proof/Machine/State.lean ====
section
/-! DEFINITION. The state of the YX480 as plain data, and the state right after reset. -/

namespace Sys2Proof.Machine
open Sys2Proof

/-- Why the machine stops: no command of this block stops it, so there is no reason. -/
inductive Fault where
deriving DecidableEq, Repr

/-- Why a command has no meaning. -/
inductive Refusal where
  /-- Raised by `exec` for a command whose meaning is not written yet; safe: the machine stops where the device goes
  on. -/
  | notModelled (mnemonic : String)
deriving DecidableEq, Repr

/-- The state of the YX480. -/
structure State where
  /-- Commands that wait, first in, first out. -/
  pending : List Instr
  /-- The Horizon count (R73). -/
  now : Nat
  /-- The model's own counter of free values. -/
  free : Nat
  /-- Every register word that differs from its reset value, and every word of Cirrus context memory. -/
  regs : List (Nat × W32)
  /-- Every memory byte that differs from its initial content. -/
  mem : List Host.Cell
  /-- What the last bus access answered. -/
  reply : Reply
  /-- Unlocks, `_HI` snapshots (tag and upper half) and held `_LO` writes (R46, R48), by page base plus requester. -/
  keys : List (Nat × Unlock)
  snaps : List (Nat × (Nat × W32))
  lows : List (Nat × (Nat × W32))
  /-- The change set of each requester (R52). -/
  sets : Vector CSet 16
  dev : Dev
  tbu : TbuH
  lg : Vector LgH 15
  /-- Tick of the last superframe boundary (R437). -/
  sfTick : Option Nat
  tpw : Vector TpwH 6
  /-- Pins of the CPW timers. -/
  cpw : Vector Pins 8
  /-- The shadow compare triplets of the CPW timers (R205). -/
  cpwCmp : Vector (Nat × Nat × Nat) 8
  dcd : DcdH
  dma : Vector DmaCh 16
  dmaReq : List DmaReq
  msv : Vector MsvH 3
  pin : Vector CmdPin 9
  bch : BchH
  obc : ObcH
  act : Vector ActH 6
  halo : HaloH
  scf : ScfH
  canH : Vector CanH 4
  /-- The staging windows of the CAN controllers, by word address times 16 plus requester (R416). -/
  canWin : List (Nat × W32)
  /-- The owner of the injected sequence of an ADH converter was lost (R59, R130). -/
  adhLost : Vector Bool 4
  adf : Vector AdfH 8
  adh : Vector AdhH 4
  adr : AdrH
  pos : Vector PosH 3
  /-- Contexts that are not as at reset, by number. -/
  ctxs : List (Nat × CtxH)
  /-- Tick of the last 0-to-1 change of each EVR source line (R149). -/
  evrAt : List (Nat × Nat)
  /-- Per Cirrus engine, the tick since which it has run executions without completing one (R171). -/
  engAt : Vector (Option Nat) 8
  /-- Zenith's copies of the engines' slack meters (R14). -/
  zslack : Vector Int 8
  /-- Zenith's copies of the lockstep pairs' slack meters (R14, R323). -/
  pslack : Vector Int 3
  lks : LksH
  tmu : TmuH
  arb : ArbH
  clf : ClfH
deriving DecidableEq, Repr

/-- The state right after reset release (R8, R89, R110, R227, R251, R305, R451, R463): tick 0, BOOT, every register at
its reset value, and no command waiting. -/
def State.reset : State where
  pending := []
  now := 0
  free := 0
  regs := []
  mem := []
  reply := .none
  keys := []
  snaps := []
  lows := []
  sets := Vector.replicate 16 CSet.empty
  dev := Dev.boot
  tbu := TbuH.idle
  lg := Vector.replicate 15 LgH.idle
  sfTick := none
  tpw := Vector.replicate 6 TpwH.idle
  cpw := Vector.replicate 8 Pins.low
  cpwCmp := Vector.replicate 8 (0, 0, 0)
  dcd := DcdH.idle
  dma := Vector.replicate 16 ⟨none, 0, 0, 0⟩
  dmaReq := []
  msv := Vector.replicate 3 MsvH.idle
  pin := Vector.replicate 9 CmdPin.idle
  bch := BchH.idle
  obc := ObcH.idle
  act := Vector.replicate 6 ActH.idle
  halo := HaloH.idle
  scf := ⟨⟨true, 1, none, 0, 0, []⟩, ⟨false, 0, none, 0, 0, []⟩, 0, none, .none, false, 0, 0, none, none, [], none⟩
  canH := Vector.replicate 4 CanH.idle
  canWin := []
  adhLost := Vector.replicate 4 false
  adf := Vector.replicate 8 AdfH.idle
  adh := Vector.replicate 4 AdhH.idle
  adr := AdrH.idle
  pos := Vector.replicate 3 PosH.idle
  ctxs := []
  evrAt := []
  engAt := Vector.replicate 8 none
  zslack := Vector.replicate 8 32767
  pslack := Vector.replicate 3 32767
  lks := ⟨vset (Vector.replicate 3 PairH.idle) 2 { PairH.idle with run := true }, [], none, Vector.replicate 4 0, Vector.replicate 4 false⟩
  tmu := TmuH.idle
  arb := ArbH.idle
  clf := ClfH.idle

end Sys2Proof.Machine
end

