-- ==== Sys2Proof/Machine/Ops.lean ====
section
/-! DEFINITION. The named operations over registers and memory: what an address reads as after reset, reads and writes of
words, fields and bytes, free values, and the passing of time. -/

namespace Sys2Proof.Machine
open Sys2Proof

/-! ### The common header (R41, R42, R46, R47, R49, R50, R58) -/

namespace HDR
def ID : Fld := ⟨0x000, 31, 0, 0⟩
def CAP : Fld := ⟨0x004, 31, 0, 0⟩
def CTRL : Fld := ⟨0x008, 31, 0, 0⟩
def CTRL_EN : Fld := ⟨0x008, 0, 0, 0⟩
def CTRL_SOFT_RST : Fld := ⟨0x008, 1, 1, 0⟩
def CTRL_DBG_FREEZE : Fld := ⟨0x008, 2, 2, 0⟩
def STAT : Fld := ⟨0x00C, 31, 0, 0⟩
def EVT : Fld := ⟨0x010, 31, 0, 0⟩
def EVT_EN : Fld := ⟨0x014, 31, 0, 0⟩
def EVT_FORCE : Fld := ⟨0x018, 31, 0, 0⟩
def KEY : Fld := ⟨0x01C, 31, 0, 0⟩
def CSET : Fld := ⟨0x020, 31, 0, 0⟩
def CSET_DOMSEL : Fld := ⟨0x020, 15, 12, 0⟩
def CSET_MODE : Fld := ⟨0x020, 9, 8, 0⟩
def CSET_STAT : Fld := ⟨0x024, 31, 0, 0⟩
def CSET_STAT_SET_OWNER : Fld := ⟨0x024, 31, 28, 0⟩
def CSET_STAT_LAST : Fld := ⟨0x024, 27, 24, 0⟩
def CSET_STAT_STEPS_DONE : Fld := ⟨0x024, 23, 20, 0⟩
def CSET_STAT_DOM : Fld := ⟨0x024, 18, 16, 0⟩
def CSET_STAT_SPLIT_DONE : Fld := ⟨0x024, 4, 4, 0⟩
def CSET_STAT_STATE : Fld := ⟨0x024, 1, 0, 0⟩
def OWNER : Fld := ⟨0x028, 31, 0, 0⟩
def OWNER_LOST : Fld := ⟨0x028, 31, 31, 0⟩
def OWNER_LOCKED : Fld := ⟨0x028, 16, 16, 0⟩
def OWNER_LOST_ID : Fld := ⟨0x028, 15, 12, 0⟩
def OWNER_ID : Fld := ⟨0x028, 3, 0, 0⟩
def ERRCNT : Fld := ⟨0x02C, 31, 0, 0⟩
def ERRCNT_LOCK : Fld := ⟨0x02C, 31, 24, 0⟩
def ERRCNT_CSET : Fld := ⟨0x02C, 23, 16, 0⟩
def ERRCNT_ACCESS : Fld := ⟨0x02C, 15, 8, 0⟩
def ERRCNT_CMD : Fld := ⟨0x02C, 7, 0, 0⟩
end HDR

/-- The registers of the common header that every page with a header holds (R41). -/
def headerRegs (p : Page) : List RegDef := [
  ⟨0x000, 1, 4, .none, ((blockInfo p.blk).type <<< 16) + (p.num <<< 8) + 1, [⟨31, 0, .ro, 0, 0xFFFFFFFF, false⟩]⟩,
  ⟨0x008, 1, 4, .none, 0, [⟨2, 2, .rw, 0, 1, false⟩, ⟨1, 1, .wo, 0, 1, false⟩, ⟨0, 0, .rws, 0, 1, false⟩]⟩,
  ⟨0x010, 1, 4, .none, 0, [⟨31, 0, .w1c, 0, 0xFFFFFFFF, false⟩]⟩,
  ⟨0x014, 1, 4, .none, 0, [⟨31, 0, .rw, 0, 0xFFFFFFFF, false⟩]⟩,
  ⟨0x018, 1, 4, .none, 0, [⟨31, 0, .wo, 0, 0xFFFFFFFF, false⟩]⟩,
  ⟨0x01C, 1, 4, .none, 0, [⟨31, 0, .wo, 0, 0xFFFFFFFF, false⟩]⟩,
  ⟨0x020, 1, 4, .none, 0xF000, [⟨15, 12, .rw, 0, 0xF, false⟩, ⟨9, 8, .rw, 0, 3, false⟩, ⟨2, 0, .wo, 0, 7, false⟩]⟩,
  ⟨0x024, 1, 4, .none, (pageDom p).code <<< 16, [⟨31, 0, .ro, 0, 0xFFFFFFFF, false⟩]⟩,
  ⟨0x028, 1, 4, .none, 0, [⟨31, 31, .w1c, 0, 1, false⟩, ⟨9, 8, .wo, 0, 3, false⟩, ⟨16, 0, .ro, 0, 0x1FFFF, false⟩]⟩,
  ⟨0x02C, 1, 4, .none, 0, [⟨31, 24, .cz, 0, 255, false⟩, ⟨23, 16, .cz, 0, 255, false⟩, ⟨15, 8, .cz, 0, 255, false⟩,
    ⟨7, 0, .cz, 0, 255, false⟩]⟩]

/-- The block's own registers (the register maps of the chapters); CPW and DBG pages list none. -/
def blockRegs : Block → List RegDef
  | .sys => sysRegs | .pwr => pwrRegs | .rst => rstRegs | .evr => evrRegs | .tbu => tbuRegs | .tmu => tmuRegs
  | .arb => arbRegs | .dma => dmaRegs | .crc => crcRegs | .gpio => gpioRegs | .tpw => tpwRegs | .cpw => []
  | .act => actRegs | .pos => posRegs | .cir => cirRegs | .adf => adfRegs | .adh => adhRegs | .adr => adrRegs
  | .dcd => dcdRegs | .obc => obcRegs | .msv => msvRegs | .bch => bchRegs | .can => canRegs | .clf => clfRegs
  | .dbg => [] | .hlo => hloRegs | .lks => lksRegs | .sfi => sfiRegs | .sto => stoRegs | .ssf => ssfRegs
  | .ghb => ghbRegs | .scf => scfRegs | .slg => slgRegs | .ctx => ctxRegs
  | .bank => [⟨0x000, 1024, 4, .none, 0, [⟨31, 0, .rw, 0, 0xFFFFFFFF, false⟩]⟩]
  | .route => [⟨0x000, 1024, 4, .none, 0, [⟨31, 0, .rw, 0, 0xFFFFFFFF, false⟩]⟩]

/-- Every register of a page: the block's own entries stand before those of the header, and so refine them. -/
def pageRegs (p : Page) : List RegDef :=
  blockRegs p.blk ++ if hasHeader p then headerRegs p else []

/-- Whether word offset `off` is an element of the register. -/
def RegDef.holds (r : RegDef) (off : Nat) : Bool :=
  decide (r.off ≤ off) && decide ((off - r.off) % r.stride = 0) && decide ((off - r.off) / r.stride < r.count)

/-- The register at word offset `off` of a page. -/
def regAt (p : Page) (off : Nat) : Option RegDef := (pageRegs p).find? fun r => r.holds off

/-- Reset values that depend on the die, the grade or the instance (R3, R61, R113, R387, R470). -/
def specialReset (p : Page) (off : Nat) : Option Nat :=
  match p.blk with
  | .sys =>
    if off = 0x000 then some 0x00010021
    else if off = 0x004 then some (Config.dieSerial.toNat * 16 + b2n Config.isG1)
    else if off = 0x05C then some Config.otpRevoke.toNat
    else none
  | .evr => if 0x100 ≤ off ∧ off < 0x380 then some ((off - 0x100) / 4) else none
  | .tpw => if off = 0x004 then some (if p.num % 2 = 0 then 3 else 1) else none
  | .tmu =>
    if off = 0x048 then some (if Config.isG1 then 0x078006E0 else 0x09100870)
    else if off = 0x04C then some (if Config.isG1 then 0x08200050 else 0x09B00050)
    else none
  | _ => none

/-- What the word at address `a` reads as after reset (R41 and the register maps; offsets no chapter assigns read 0,
R39). -/
def resetWord (a : Nat) : W32 :=
  match pageAt a with
  | none => 0
  | some p =>
    let off := a - pageBase p
    match specialReset p off with
    | some v => BitVec.ofNat 32 v
    | none =>
      match regAt p off with
      | some r => BitVec.ofNat 32 r.reset
      | none => 0

/-! ### Registers -/

/-- The word at address `a`. -/
def State.rd (s : State) (a : Nat) : W32 := mapGet resetWord s.regs a

/-- Write the word at address `a`. -/
def State.wr (s : State) (a : Nat) (v : W32) : State := { s with regs := mapSet resetWord s.regs a v }

/-- The address of a field's word. -/
def fldAddr (p : Page) (x : Fld) : Nat := pageBase p + x.off

/-- Whether the page table lists the page and the field's word lies in it. -/
def inPage (p : Page) (x : Fld) : Bool := pageValid p && decide (x.off < pageSize p.blk)

/-- Write the whole word of a field; outside the listed pages there is none. -/
def State.setWord (s : State) (p : Page) (x : Fld) (v : W32) : State := if inPage p x then s.wr (fldAddr p x) v else s

/-- The value of a field. -/
def State.get (s : State) (p : Page) (x : Fld) : Nat := bits (s.rd (fldAddr p x)).toNat x.hi x.lo

/-- The value of a field as a two's complement number. -/
def State.gets (s : State) (p : Page) (x : Fld) : Int := signed (x.hi + 1 - x.lo) (s.get p x)

/-- Whether a one-bit field is set. -/
def State.on (s : State) (p : Page) (x : Fld) : Bool := s.get p x == 1

/-- Write a field; the low bits of `v` are taken. -/
def State.put (s : State) (p : Page) (x : Fld) (v : Nat) : State :=
  s.setWord p x (BitVec.ofNat 32 (setBits (s.rd (fldAddr p x)).toNat x.hi x.lo v))

/-- Write a signed field. -/
def State.puts (s : State) (p : Page) (x : Fld) (v : Int) : State := s.put p x (unsigned (x.hi + 1 - x.lo) v)

/-- Write a one-bit field. -/
def State.flag (s : State) (p : Page) (x : Fld) (b : Bool) : State := s.put p x (b2n b)

/-- Add one to a field that saturates at its width. -/
def State.incSat (s : State) (p : Page) (x : Fld) : State :=
  let v := s.get p x
  if v + 1 < 2 ^ (x.hi + 1 - x.lo) then s.put p x (v + 1) else s

/-- Add one to a field that wraps at its width. -/
def State.incWrap (s : State) (p : Page) (x : Fld) : State := s.put p x (s.get p x + 1)

/-- The 64-bit value of a pair, from the field of its `_LO` word. -/
def State.get64 (s : State) (p : Page) (x : Fld) : Nat :=
  (s.rd (fldAddr p x)).toNat + (s.rd (fldAddr p x + 4)).toNat * 2 ^ 32

/-- Write a 64-bit pair. -/
def State.put64 (s : State) (p : Page) (x : Fld) (v : Nat) : State :=
  (s.setWord p x (BitVec.ofNat 32 v)).setWord p { x with off := x.off + 4 } (BitVec.ofNat 32 (v / 2 ^ 32))

/-- Write mailbox word `w` of context `k` (R178). -/
def State.mboxWrite (s : State) (k w : Nat) (v : W32) : State := s.setWord (CTX.pg k) (CTX.STATE.ix (56 + w)) v

/-- The bus answers an access. -/
def State.answer (s : State) (r : Reply) : State := { s with reply := r }

/-! ### Memory (R39, R388) -/

/-- The byte memories. -/
inductive Region where
  | rom | flash | sram | halo
deriving DecidableEq, Repr

/-- The memory region of a byte address (R39, R388). -/
def regionOf (a : Nat) : Option Region :=
  if a < 0x10000 then some .rom
  else if 0x08000000 ≤ a ∧ a < 0x09000000 then some .flash
  else if 0x20000000 ≤ a ∧ a < 0x20600000 then some .sram
  else if 0x28000000 ≤ a ∧ a < 0x28040000 then some .halo
  else none

/-- What a byte reads as that no step has written: the zero fill of R388 in the two RAMs, and the retained or fixed
content of flash and boot ROM. -/
def memDefault (a : Nat) : Byte :=
  match regionOf a with
  | some .flash => Config.flashImage a
  | some .rom => Config.romImage a
  | _ => 0

/-- The byte at address `a`. -/
def State.rdByte (s : State) (a : Nat) : Byte := mapGet memDefault s.mem a

/-- Write the byte at address `a`. -/
def State.wrByte (s : State) (a : Nat) (v : Byte) : State := { s with mem := mapSet memDefault s.mem a v }

/-- `n` bytes from address `a` on, little-endian. -/
def State.rdBytes (s : State) (a : Nat) : Nat → Nat
  | 0 => 0
  | n + 1 => (s.rdByte a).toNat + 256 * s.rdBytes (a + 1) n

/-- Write the low `n` bytes of `v` from address `a` on, little-endian. -/
def State.wrBytes (s : State) (a v : Nat) : Nat → State
  | 0 => s
  | n + 1 => (s.wrByte a (BitVec.ofNat 8 v)).wrBytes (a + 1) (v / 256) n

/-- The word at a memory address. -/
def State.rdMem (s : State) (a : Nat) : W32 := BitVec.ofNat 32 (s.rdBytes a 4)

/-- Write the word at a memory address. -/
def State.wrMem (s : State) (a : Nat) (v : W32) : State := s.wrBytes a v.toNat 4

/-- The byte memory holds its canonical form: addresses rise and no entry equals what it would read as unlisted. -/
abbrev Memory.wf (m : List Host.Cell) : Prop := mapWf memDefault m = true

/-- The register map holds its canonical form. -/
abbrev Registers.wf (m : List (Nat × W32)) : Prop := mapWf resetWord m = true

/-! ### Free values and time -/

/-- A free natural number; the counter advances. -/
def State.freshNat (s : State) : Nat × State := (Config.freeNat s.free, { s with free := s.free + 1 })

/-- A free bit; the counter advances. -/
def State.freshBit (s : State) : Bool × State := (Config.freeBit s.free, { s with free := s.free + 1 })

/-- A free word; the counter advances. -/
def State.freshWord (s : State) : W32 × State := (Config.freeWord s.free, { s with free := s.free + 1 })

/-- Let `dt` Horizon ticks pass (R73); Horizon does not count in OFF, whose end is tick 0 (R8). -/
def State.advance (s : State) (dt : Nat) : State := if s.dev.off then s else { s with now := s.now + dt }

/-- The present time in fine units of 1/128 tick. -/
def State.fineNow (s : State) : Nat := s.now * 128

/-! ### The device state (R16, R20) -/

/-- The device states of R16. -/
inductive DState where
  | off | boot | selftest | standby | drive | charge | service | safeHold
deriving DecidableEq, Repr

/-- The code of a device state (R16). -/
def DState.code : DState → Nat
  | .off => 0 | .boot => 1 | .selftest => 2 | .standby => 3 | .drive => 4 | .charge => 5 | .service => 6 | .safeHold => 7

/-- The device state of a code. -/
def DState.ofCode : Nat → DState
  | 1 => .boot | 2 => .selftest | 3 => .standby | 4 => .drive | 5 => .charge | 6 => .service | 7 => .safeHold | _ => .off

/-- The present device state; OFF is never read by software (R16). -/
def State.dstate (s : State) : DState := if s.dev.off then .off else .ofCode (s.get SYS.pg SYS.DSTAT_DSTATE)

/-- The running states of R459. -/
def DState.running : DState → Bool
  | .standby | .drive | .charge | .service => true
  | _ => false

end Sys2Proof.Machine
end

