-- ==== Sys2Proof/Machine/DmaReq.lean ====
section
/-! DEFINITION. The start of a DMA BLOCK transfer, shared by DMA_CMD START and an EVR trigger (R398). -/

namespace Sys2Proof.Machine
open Sys2Proof

/-- Whether channel `ch` is enabled and not stopped (R409, STAT.ACTIVE). -/
def State.dmaActive (s : State) (ch : Nat) : Bool := s.get DMA.pg DMA.STAT_ACTIVE |>.testBit ch

/-- Start a BLOCK transfer on an enabled idle channel: LEN words from SRC (R398). -/
def State.dmaBlockStart (s : State) (ch : Nat) : State :=
  if h : ch < 16 then
    let c := vget s.dma ⟨ch, h⟩
    if s.on DMA.pg (DMA.CH_CFG_EN.ix ch) ∧ s.get DMA.pg (DMA.CH_CFG_MODE.ix ch) = 1 ∧ c.left = 0 ∧
        ¬ s.on DMA.pg (DMA.CH_CHST_ERR.ix ch) then
      let n := s.get DMA.pg (DMA.CH_LEN_LEN.ix ch)
      { s with dma := vset s.dma ⟨ch, h⟩ { c with left := n, pos := 0 } }
        |>.flag DMA.pg (DMA.CH_CHST_BUSY.ix ch) true
        |>.put DMA.pg DMA.STAT_ACTIVE (s.get DMA.pg DMA.STAT_ACTIVE ||| 2 ^ ch)
    else s
  else s

end Sys2Proof.Machine
end

