-- ==== Sys2Proof/Machine/Flags.lean ====
section
/-! DEFINITION. Event flags, summary lines and the DMA triggers of the event router (R44, R61, R62), command statuses and
the error counts of R47. -/

namespace Sys2Proof.Machine
open Sys2Proof

/-- The EVR source number of a page: pages 0x4000_0000 + n·0x1000 for n = 0 to 159 (R61). -/
def evrSource (p : Page) : Option Nat :=
  if 0x40000000 ≤ pageBase p ∧ pageBase p < 0x400A0000 then some ((pageBase p - 0x40000000) / 0x1000) else none

/-- The summary line of a page (R61). -/
def State.line (s : State) (p : Page) : Bool := s.get p HDR.EVT &&& s.get p HDR.EVT_EN != 0

/-- Bit `b` of `EVR_PENDk` is source 32·k + b (R62). -/
def State.evrPend (s : State) (k : Nat) : W32 :=
  BitVec.ofNat 32 (headerPages.foldl (fun acc p =>
    match evrSource p with
    | some n => if n / 32 = k ∧ s.line p then acc ||| 2 ^ (n % 32) else acc
    | none => acc) 0)

/-- The field of `EVR_ROUTE` that sends a source's interrupt to pair `i`. -/
def irqField (i : Fin 3) : Fld := if i = 0 then EVR.ROUTE_AP0_IRQ else if i = 1 then EVR.ROUTE_AP1_IRQ else EVR.ROUTE_HS_IRQ

/-- The interrupts that the EVR asserts to pair `i`, as priority and number: a routed source asserts its own while its line
is 1 (R61). -/
def State.evrIrqs (s : State) (i : Fin 3) : List (Nat × Nat) :=
  headerPages.filterMap fun p =>
    match evrSource p with
    | some n =>
      if s.on EVR.pg ((irqField i).ix n) ∧ s.line p then
        some (s.get EVR.pg (EVR.ROUTE_PRIO.ix n), s.get EVR.pg (EVR.ROUTE_VECTOR.ix n))
      else none
    | none => none

/-- The numbers of the fixed vectors on which events of the Halo pages reach the HS pair, past the EVR (R62). -/
def State.haloIrqs (s : State) : List Nat :=
  (headerPages.filter fun p => isHalo p && s.line p).map fun p => (Config.haloVector p.blk).toNat

/-- The interrupt of number `v` is one that pair `i` may take: a fixed vector of HS, or an EVR interrupt of the highest
priority that is asserted to the pair (R61, R62). -/
def State.irqAsserted (s : State) (i : Fin 3) (v : Nat) : Bool :=
  (decide (i = 2) && s.haloIrqs.contains v) ||
    (s.evrIrqs i).any fun e => e.2 == v && (s.evrIrqs i).all fun x => decide (x.1 ≤ e.1)

/-- An EVR trigger of DMA channel `ch` (R61, R398): a PERIPH channel is asked for one record of the word `EVR_PEND0`, and
an idle BLOCK channel starts. -/
def State.evrTrigger (s : State) (ch : Nat) : State :=
  if s.get DMA.pg (DMA.CH_CFG_MODE.ix ch) = 0 then
    { s with dmaReq := s.dmaReq ++ [⟨ch, [s.evrPend 0], EVR.pg⟩] }
  else s.dmaBlockStart ch

/-- Apply `f`; a 0-to-1 change of the page's summary line is dated (one more than its tick) and triggers the routed DMA
channel (R61). -/
def State.withLine (s : State) (p : Page) (f : State → State) : State :=
  let t := f s
  match evrSource p with
  | some n =>
    if !s.line p && t.line p then
      let t := { t with evrAt := mapSet (fun _ => 0) t.evrAt n (t.now + 1) }
      if t.on EVR.pg (EVR.ROUTE_DMA_EN.ix n) then t.evrTrigger (t.get EVR.pg (EVR.ROUTE_DMA_CH.ix n)) else t
    else t
  | none => t

/-- Set the event flags of the mask. -/
def State.evtBits (s : State) (p : Page) (m : Nat) : State :=
  s.withLine p fun s => s.put p HDR.EVT (s.get p HDR.EVT ||| m)

/-- Raise one event. -/
def State.evt (s : State) (p : Page) (x : Fld) : State := s.evtBits p (mask x.hi x.lo)

/-- Raise one event if the condition holds. -/
def State.evtIf (s : State) (c : Bool) (p : Page) (x : Fld) : State := if c then s.evt p x else s

/-- A refused access is counted in `ERRCNT.ACCESS` (R45). -/
def State.refuse (s : State) (p : Page) : State := s.incSat p HDR.ERRCNT_ACCESS

/-- A rejected command is counted in `ERRCNT.CMD` (R47, R60). -/
def State.countCmd (s : State) (p : Page) : State := s.incSat p HDR.ERRCNT_CMD

/-- The status codes of a block command. -/
inductive Status where
  | none | done | illegalState | notReady | denied | unknown
deriving DecidableEq, Repr

/-- The code of a status in a LAST_STS field (R22, R355). -/
def Status.code : Status → Nat
  | .none => 0 | .done => 1 | .illegalState => 3 | .notReady => 4 | .denied => 5 | .unknown => 6

/-- Record the status of a command in its LAST_STS field `x`; a rejection is counted (R47). -/
def State.status (s : State) (p : Page) (x : Fld) (st : Status) : State :=
  let t := s.put p x st.code
  match st with
  | .none | .done => t
  | _ => t.countCmd p

/-- A command accepted only if `ok`: its effect and DONE, or else ILLEGAL_STATE with no other effect (R60). -/
def State.command (s : State) (p : Page) (x : Fld) (ok : Bool) (f : State → State) : State :=
  if ok then (f s).status p x .done else s.status p x .illegalState

end Sys2Proof.Machine
end

