-- ==== Sys2Proof/Machine/Log.lean ====
section
/-! DEFINITION. The entries of the fault log, and the faults of reaction FR0 and FR1, which only write one (R27, R330, R351,
R356). -/

namespace Sys2Proof.Machine
open Sys2Proof

/-- Write one log entry. -/
def State.logEntry (s : State) (code react machs aux stamp : Nat) : State :=
  let i := s.get HLO.pg HLO.LOGPTR_NEXT
  let info := react * 2 ^ 24 + machs * 2 ^ 16 + code
  let p := HLO.pg
  (((s.put p (HLO.LOG_INFO.ix i) info).put p (HLO.LOG_AUX.ix i) aux).put64 p (HLO.LOG_STAMP_LO.ix i) stamp)
    |>.put p HLO.LOGPTR_NEXT ((i + 1) % 32) |>.incWrap p HLO.LOGPTR_TOTAL |>.evt p HLO.EVT_LOG

/-- A fault overtakes a pending transition: it ends with ABORTED in the source state (R27). -/
def State.abortTransition (s : State) : State :=
  if s.on SYS.pg SYS.DSTAT_TRANS ∧ s.get SYS.pg SYS.DSTAT_LAST_STS = 2 then
    ((s.flag SYS.pg SYS.DSTAT_TRANS false).put SYS.pg SYS.DSTAT_TARGET (s.get SYS.pg SYS.DSTAT_DSTATE)).put SYS.pg
      SYS.DSTAT_LAST_STS 7
  else s

/-- A fault of reaction FR0 or FR1: logged, with the event of its block beside it (R330). -/
def State.note (s : State) (code react machs aux : Nat) : State :=
  s.abortTransition.logEntry code react machs aux s.now

end Sys2Proof.Machine
end

