-- ==== Sys2Proof/Machine/Pins.lean ====
section
/-! DEFINITION. The PWM pins of a timer of three legs: commanded levels, edges placed ahead, dead time (R95, R105), and
the output patterns of the tri-legs (R92, R101 to R105). Ball numbers: 0 AH, 1 AL, 2 BH, 3 BL, 4 CH, 5 CL. -/

namespace Sys2Proof.Machine
open Sys2Proof

/-- Insert an edge among edges of rising time, after those of the same time. -/
def insertEdge (e : PinEdge) : List PinEdge → List PinEdge
  | [] => [e]
  | x :: xs => if e.time < x.time then e :: x :: xs else x :: insertEdge e xs

/-- The commanded level of a ball at fine time `t`. -/
def Pins.level (p : Pins) (ball t : Nat) : Bool :=
  p.edges.foldl (fun b e => if e.ball = ball ∧ e.time ≤ t then e.level else b) (p.lvl.testBit ball)

/-- The fine time of the last turn-off of a ball at or before `t`. -/
def Pins.offTime (p : Pins) (ball t : Nat) : Nat :=
  p.edges.foldl (fun o e => if e.ball = ball ∧ e.time ≤ t ∧ ¬ e.level then e.time else o)
    (p.offAt.getD ball 0)

/-- Take the edges up to fine time `t` into the levels. -/
def Pins.settle (p : Pins) (t : Nat) : Pins :=
  { lvl := (List.range 6).foldl (fun v b => setBits v b b (b2n (p.level b t))) p.lvl
    offAt := (List.range 6).map fun b => p.offTime b t
    edges := p.edges.filter fun e => decide (t < e.time) }

/-- The six commanded levels at fine time `t`. -/
def Pins.levels (p : Pins) (t : Nat) : Nat := (p.settle t).lvl

/-- Drop the edges of a ball at or after fine time `t`. -/
def Pins.cancel (p : Pins) (ball t : Nat) : Pins :=
  { p with edges := p.edges.filter fun e => e.ball != ball || decide (e.time < t) }

/-- Turn a ball off at fine time `t`: a turn-off is never delayed (R95). -/
def Pins.turnOff (p : Pins) (ball t : Nat) : Pins :=
  let p := p.cancel ball t
  if p.level ball t then { p with edges := insertEdge ⟨t, ball, false⟩ p.edges } else p

/-- Turn a ball on at fine time `t`, or at `t` + `dead` if its complement was on within the dead time before `t` (R95,
R105). -/
def Pins.turnOn (p : Pins) (ball t dead : Nat) : Pins :=
  let p := p.cancel ball (t + 1)
  if p.level ball t then p
  else
    let off := p.offTime (if ball % 2 = 0 then ball + 1 else ball - 1) t
    let start := if off = 0 ∨ off + dead ≤ t then t else t + dead
    { p with edges := insertEdge ⟨start, ball, true⟩ p.edges }

/-- Command leg `leg` at fine time `t`: the high switch on if `high`, else the low switch, with dead time. -/
def Pins.leg (p : Pins) (leg t dead : Nat) (high : Bool) : Pins :=
  if high then (p.turnOff (2 * leg + 1) t).turnOn (2 * leg) t dead
  else (p.turnOff (2 * leg) t).turnOn (2 * leg + 1) t dead

/-- Both switches of a leg off at fine time `t`. -/
def Pins.legOff (p : Pins) (leg t : Nat) : Pins := (p.turnOff (2 * leg) t).turnOff (2 * leg + 1) t

/-- The same on all three legs. -/
def Pins.legs (p : Pins) (f : Pins → Nat → Pins) : Pins := f (f (f p 0) 1) 2

/-- Apply an output pattern at fine time `t` (R101, R105); SWITCH leaves the levels to its edges. -/
def Pins.pattern (p : Pins) (pat t dead : Nat) : Pins :=
  match pat with
  | 0 => p
  | 2 => p.legs fun p l => p.leg l t dead false
  | 3 => p.legs fun p l => p.leg l t dead true
  | _ => p.legs fun p l => p.legOff l t

/-! ### Patterns of the tri-legs -/

/-- Whether machine `m` is six-phase, and so uses tri-leg 2m + 1 (R91). -/
def State.isSix (s : State) (m : Nat) : Bool := s.on (MSV.pg m) MSV.CFG_SIX

/-- Tri-leg `n` is used by its machine (R91). -/
def State.tpwUsed (s : State) (n : Nat) : Bool := n % 2 == 0 || s.isSix (n / 2)

/-- The tri-legs that machine `m` uses (R91). -/
def State.triLegs (s : State) (m : Nat) : List Nat := if s.isSix m then [2 * m, 2 * m + 1] else [2 * m]

/-- Change the hidden state of tri-leg `n`. -/
def State.tpwSet (s : State) (n : Fin 6) (f : TpwH → TpwH) : State := { s with tpw := vset s.tpw n (f (vget s.tpw n)) }

/-- Whether the STO function is in effect for machine `m` (R336). -/
def State.stoEff (s : State) (m : Nat) : Bool := (s.get STO.pg STO.STAT_EFF).testBit m

/-- Whether Halo toggles the heartbeat line `GHB_Tn` (R92). -/
def State.ghbOk (s : State) (n : Nat) : Bool := (s.get GHB.pg GHB.STAT_RUN).testBit n

/-- All conditions of R92 hold for tri-leg `n`. -/
def State.tpwMayDrive (s : State) (n : Fin 6) : Bool :=
  !s.stoEff (n.1 / 2) && s.ghbOk n && s.on (TPW.pg n) HDR.CTRL_EN && (vget s.tpw n).latch == 0

/-- Every tri-leg of machine `m` drives ASC_LOW or ASC_HIGH. -/
def State.posAsc (s : State) (m : Nat) : Bool :=
  (s.triLegs m).all fun k => s.get (TPW.pg k) TPW.PAT_ACTIVE == 2 || s.get (TPW.pg k) TPW.PAT_ACTIVE == 3

/-- The slot-0 results of converters 0 to `c` − 1 of fast group `g` are VALID (R115). -/
def State.resultsValid (s : State) (g c : Nat) : Bool :=
  (List.range c).all fun i => (s.get (ADF.pg g) (ADF.RES0_LO.ix i)).testBit 31

/-- LOST and REACQ follow the patterns of the machine's tri-legs in the tick of a change (R222, R223): REACQ while all are in
ASC_LOW or ASC_HIGH with the results of `IG1`, and of `IG2` for a pair, VALID, and LOST again as one leaves. DESIGN CHOICE (log
91): the 20 ms window and the extrapolation run from the first loss on. -/
def State.posFollow (s : State) (m : Nat) : State :=
  if h : m < 3 then
    let p := POS.pg m
    match s.get p POS.ANG_STATE with
    | 3 =>
      if s.posAsc m ∧ s.resultsValid (s.get p POS.OBS_IG1) 4 ∧ (¬ s.isSix m ∨ s.resultsValid (s.get p POS.OBS_IG2) 3) then
        s.put p POS.ANG_STATE 4
      else s
    | 4 =>
      if s.posAsc m then s
      else
        let s := { s with pos := vset s.pos ⟨m, h⟩ { vget s.pos ⟨m, h⟩ with sweep := none } }
        (((s.put p POS.ANG_STATE 3).incSat p POS.CNT_LOSS).evt p POS.EVT_ANGLE_LOST).note 0x50A 1 (2 ^ m) 0
    | _ => s
  else s

/-- Set the pattern that drives the pins of tri-leg `n` from fine time `t` on, and its decider (R101, R113). -/
def State.tpwPatternAt (s : State) (n : Fin 6) (pat src t : Nat) : State :=
  let p := TPW.pg n
  let old := s.get p TPW.PAT_ACTIVE
  let s := s.tpwSet n fun h => { h with
    pins := (h.pins.settle s.fineNow).pattern pat t (s.get p TPW.DT) }
  let s := ((s.put p TPW.PAT_ACTIVE pat).put p TPW.PAT_SRC src).flag p TPW.STAT_SWITCHING (pat == 0)
  (s.evtIf (old != pat) p TPW.EVT_PAT_CHANGE).posFollow (n.1 / 2)

/-- Set the pattern from this tick on. -/
def State.tpwPattern (s : State) (n : Fin 6) (pat src : Nat) : State := s.tpwPatternAt n pat src s.fineNow

/-- Bring tri-leg `n` in line with R92: FORCED_LOW while a condition fails; once they all hold again PI, or the ASC that MSV
asks for (R102, R104). -/
def State.tpwRefresh (s : State) (n : Fin 6) : State :=
  let p := TPW.pg n
  let s := (s.flag p TPW.STAT_STO_EFF (s.stoEff (n.1 / 2))).flag p TPW.STAT_GHB_OK (s.ghbOk n)
  let act := s.get p TPW.PAT_ACTIVE
  if s.tpwMayDrive n then
    if act = 4 then
      match (vget s.tpw n).req with
      | some 2 => s.tpwPattern n 2 1
      | some 3 => s.tpwPattern n 3 1
      | r => s.tpwPattern n 1 (b2n r.isSome)
    else s
  else
    let src := if !s.on p HDR.CTRL_EN then 4 else if (vget s.tpw n).latch != 0 then 3 else 2
    if act = 4 then s.put p TPW.PAT_SRC src
    else (s.tpwSet n fun h => { h with fw := none }).tpwPattern n 4 src

/-- Bring every tri-leg in line with R92. -/
def State.tpwRefreshAll (s : State) : State := (List.finRange 6).foldl (fun s n => s.tpwRefresh n) s

/-- MSV holds a request for tri-leg `n` (R102): PI and ASC act at once, SWITCH at the next update point. -/
def State.tpwRequest (s : State) (n : Fin 6) (pat : Nat) : State :=
  let s := s.tpwSet n fun h => { h with req := some pat, fw := none }
  if s.tpwMayDrive n ∧ pat ≠ 0 then
    if s.get (TPW.pg n) TPW.PAT_ACTIVE = pat then s.put (TPW.pg n) TPW.PAT_SRC 1 else s.tpwPattern n pat 1
  else s

/-- The same request on every tri-leg of machine `m`. -/
def State.tpwRequestAll (s : State) (m pat : Nat) : State :=
  (s.triLegs m).foldl (fun s n => if h : n < 6 then s.tpwRequest ⟨n, h⟩ pat else s) s

/-- MSV holds no request for tri-leg `n` any more. -/
def State.tpwRelease (s : State) (n : Fin 6) : State := s.tpwSet n fun h => { h with req := none }

/-- Whether the pattern of tri-leg `n` is `pat`. -/
def State.tpwIs (s : State) (n pat : Nat) : Bool := s.get (TPW.pg n) TPW.PAT_ACTIVE == pat

end Sys2Proof.Machine
end

