-- ==== Sys2Proof/Machine/Stops.lean ====
section
/-! DEFINITION. The stops of the functions: supervisor states, pre-armed choice and heartbeat codes, the STO function and
its causes, brakes, and how DCD, OBC, BCH and the actuators give up their pins. -/

namespace Sys2Proof.Machine
open Sys2Proof

/-- Whether bit `b` of a field is set. -/
def State.bitOn (s : State) (p : Page) (x : Fld) (b : Nat) : Bool := (s.get p x).testBit b

/-- Write bit `b` of a field. -/
def State.putBit (s : State) (p : Page) (x : Fld) (b : Nat) (v : Bool) : State :=
  s.put p x (setBits (s.get p x) b b (b2n v))

/-- A block command with its LAST_STS field `x`: in SAFE_HOLD no block command is accepted (R18, R60). -/
def State.blockCmd (s : State) (p : Page) (x : Fld) (f : State → State) : State :=
  if s.dstate = .safeHold then s.status p x .illegalState else f s

/-- A command of a Halo page: its WO fields take writes of the HS pair only (R41, R45, R355). -/
def State.haloCmd (s : State) (req : Nat) (p : Page) (x : Fld) (f : State → State) : State :=
  if req = 2 then s.blockCmd p x f else s.refuse p

/-! ### Machine supervisors (R249) -/

/-- The state code of MSVm: 0 OFF, 1 STO, 2 READY, 3 RUN, 4 STOP, 5 HOLD. -/
def State.msvSt (s : State) (m : Nat) : Nat := s.get (MSV.pg m) MSV.STAT_STATE

/-- Change the hidden state of MSVm. -/
def State.msvSet (s : State) (m : Nat) (f : MsvH → MsvH) : State :=
  if h : m < 3 then { s with msv := vset s.msv ⟨m, h⟩ (f (vget s.msv ⟨m, h⟩)) } else s

/-- The hidden state of MSVm. -/
def State.msvH (s : State) (m : Nat) : MsvH := if h : m < 3 then vget s.msv ⟨m, h⟩ else MsvH.idle

/-- Change the stop record of machine m. -/
def State.stopSet (s : State) (m : Nat) (f : StopH → StopH) : State :=
  if h : m < 3 then { s with halo := { s.halo with stops := vset s.halo.stops ⟨m, h⟩ (f (vget s.halo.stops ⟨m, h⟩)) } }
  else s

/-- The stop record of machine m. -/
def State.stopH (s : State) (m : Nat) : StopH :=
  if h : m < 3 then vget s.halo.stops ⟨m, h⟩ else ⟨0, 0, 0, false, 0, 0, 0⟩

/-- The limp-home pin is the command source (R232). -/
def State.lhActive (s : State) (m : Nat) : State :=
  s.flag (MSV.pg m) MSV.STAT_LH_ACTIVE
    (s.msvSt m != 0 && (s.get (MSV.pg m) MSV.CFG_TSRC == 2 || (s.msvH m).lost))

/-- MSVm takes a new state. Outside RUN and STOP the torque window of R350 is discarded. Leaving RUN ends the limp-home source
of R232, and entering it starts the command timer; entering STOP begins the count of R235 anew. -/
def State.msvGo (s : State) (m st : Nat) : State :=
  let old := s.msvSt m
  let s := s.put (MSV.pg m) MSV.STAT_STATE st
  let s := if old = 3 ∧ st ≠ 3 then s.msvSet m fun h => { h with lost := false } else s
  let s := if st = 3 ∧ old ≠ 3 then s.msvSet m fun h => { h with cmdAt := s.now, lhBad := 0 } else s
  let s := if st = 4 ∧ old ≠ 4 then s.msvSet m fun h => { h with still := 0 } else s
  let s := if st = 3 ∨ st = 4 then s else s.stopSet m fun h => { h with tpN := 0, tpEst := 0, tpRef := 0 }
  let s := if st ≠ 4 then s.flag (MSV.pg m) MSV.STAT_STOP_SS1 false else s
  (s.lhActive m).evtIf (old != st) (MSV.pg m) MSV.EVT_STATE

/-- MSVm leaves the states in which it holds a request (R249): a pending RUN ends ABORTED (R250), no member is held, and
a recovery of R244 is over. -/
def State.msvRelease (s : State) (m : Nat) : State :=
  let s := if (s.msvH m).runPend.isSome then s.put (MSV.pg m) MSV.CMD_LAST_STS 7 else s
  let s := s.msvSet m fun h => { h with runPend := none, healing := false, ret := false, recAt := none, tqScale := f1 }
  [2 * m, 2 * m + 1].foldl (fun s n => if h : n < 6 then s.tpwRelease ⟨n, h⟩ else s) s

/-- Halo has asserted STO for machine m: READY, RUN, STOP and HOLD end in STO (R249). -/
def State.msvToSto (s : State) (m : Nat) : State := if 2 ≤ s.msvSt m then (s.msvRelease m).msvGo m 1 else s

/-- The stop-command case of STOP (R235, R330): also the origin of a HOLD becomes STOP. -/
def State.msvStop (s : State) (m : Nat) : State :=
  match s.msvSt m with
  | 3 => s.msvGo m 4
  | 5 => s.put (MSV.pg m) MSV.STAT_HOLD_FROM 4
  | _ => s

/-- The SS1 demand of Halo on MSVm (R235, R347). -/
def State.msvSs1 (s : State) (m : Nat) : State :=
  let s := if s.msvSt m = 3 then s.msvGo m 4 else s
  if s.msvSt m = 4 then s.flag (MSV.pg m) MSV.STAT_STOP_SS1 true else s

/-! ### Pre-armed state and heartbeat codes (R237, R333, R334) -/

/-- The code that tri-leg line `n` is to carry (R334). -/
def State.ghbChoice (s : State) (n : Nat) : Nat :=
  let m := n / 2
  if n % 2 = 1 ∧ ¬ s.isSix m then 0
  else if s.msvSt m = 0 then s.get (MSV.pg m) MSV.CFG_UNK
  else s.get (MSV.pg m) MSV.STAT_PREARM

/-- The code that heartbeat line `l` is to carry (R333, R334): lines 0 to 5 tri-legs, 6 to 13 CPW timers, 14 actuators. -/
def State.ghbCodeOf (s : State) (l : Nat) : Nat :=
  if l < 6 then bits (s.get GHB.pg GHB.CODE) (2 * l + 1) (2 * l)
  else if l < 14 then s.get GHB.pg GHB.CFG_CSTATE
  else s.get GHB.pg GHB.CFG_ASTATE

/-- Halo takes the supervisors' choices over into the codes of the traction lines (R237). -/
def State.ghbDeliver (s : State) : State :=
  (List.range 6).foldl (fun s n =>
    let c := s.ghbChoice n
    if s.ghbCodeOf n = c then s
    else (((s.put GHB.pg GHB.CODE (setBits (s.get GHB.pg GHB.CODE) (2 * n + 1) (2 * n) c)).incWrap GHB.pg
      GHB.CNT_CHANGES).evt GHB.pg GHB.EVT_CODE)) s

/-- MSVm's pre-armed choice (R236). -/
def State.msvPrearm (s : State) (m c : Nat) : State :=
  if s.get (MSV.pg m) MSV.STAT_PREARM = c then s
  else ((s.put (MSV.pg m) MSV.STAT_PREARM c).evt (MSV.pg m) MSV.EVT_PREARM).ghbDeliver

/-- Ticks of the half-period of a code (R333). -/
def ghbHalf (code : Nat) (odd : Bool) : Nat :=
  match code with
  | 0 => 100
  | 1 => 50
  | _ => if odd then 34 else 33

/-- Heartbeat line `l` begins a half-period with the given level (R333). -/
def State.ghbBegin (s : State) (l : Fin 15) (level odd : Bool) : State :=
  let c := s.ghbCodeOf l
  { s with halo := { s.halo with ghb := vset s.halo.ghb l ⟨c, level, odd, s.now + ghbHalf c odd⟩ } }

/-- All heartbeat lines start to run (R334). -/
def State.ghbStart (s : State) : State :=
  ((List.finRange 15).foldl (fun s l => s.ghbBegin l true false) s).put GHB.pg GHB.STAT_RUN 0x7FFF

/-- All heartbeat lines are held low (R334). -/
def State.ghbStop (s : State) : State :=
  { s with halo := { s.halo with ghb := Vector.replicate 15 ⟨0, false, false, 0⟩ } }.put GHB.pg GHB.STAT_RUN 0

/-! ### Brakes (R348, R349) -/

/-- Change the hidden state of brake channel `c`. -/
def State.sbcSet (s : State) (c : Fin 2) (f : SbcH → SbcH) : State :=
  { s with halo := { s.halo with sbc := vset s.halo.sbc c (f (vget s.halo.sbc c)) } }

/-- Both outputs of brake channel `c` go low; FAULT stays. -/
def State.sbcApply (s : State) (c : Fin 2) : State :=
  let p := SSF.pg
  let s := s.sbcSet c fun b => { b with changeAt := if s.get p (SSF.SBCST_OUT.ix c) = 0 then b.changeAt else s.now,
                                        applyAt := none, test := none }
  let s := s.put p (SSF.SBCST_OUT.ix c) 0
  let s := if s.get p (SSF.SBCST_STATE.ix c) = 3 then s else s.put p (SSF.SBCST_STATE.ix c) 0
  s.putBit p SSF.STAT_RELEASED c false

/-- STO took effect on machine m: the brakes that its selection includes are applied `DLY` later (R349). -/
def State.sbcOnSto (s : State) (m : Nat) : State :=
  if 2 ≤ s.get SSF.pg (SSF.MCFG_STOP.ix m) then
    (List.finRange 2).foldl (fun s (c : Fin 2) =>
      if s.bitOn SSF.pg (SSF.SBCCFG_MACH.ix c) m then
        let d := s.get SSF.pg (SSF.SBCCFG_DLY.ix c)
        if d = 0 then s.sbcApply c
        else s.sbcSet c fun b => { b with applyAt := some (b.applyAt.getD (s.now + d * 40000000)) }
      else s) s
  else s

/-! ### The STO function (R336 to R339) -/

/-- A safe-input demand of action `act` that names machine m (R341, R342). -/
def State.sfiDemand (s : State) (act m : Nat) : Bool :=
  (List.range 16).any fun k =>
    s.bitOn SFI.pg SFI.STAT_DEMAND k && s.get SFI.pg (SFI.CFG_ACT.ix k) == act && s.bitOn SFI.pg (SFI.CFG_MACH.ix k) m

/-- A safe-input demand with CONV set (R342). -/
def State.sfiConv (s : State) : Bool :=
  (List.range 16).any fun k => s.bitOn SFI.pg SFI.STAT_DEMAND k && s.on SFI.pg (SFI.CFG_CONV.ix k)

/-- Halo is in the device safe state (R18). -/
def State.safe (s : State) : Bool := s.on HLO.pg HLO.STAT_SAFE

/-- A completed or escalated stop still holds machine m: its FR3 latch or an ACT 2 demand persists (R338 cause 0x5). -/
def State.stopHolds (s : State) (m : Nat) : Bool :=
  (s.stopH m).done && (s.bitOn HLO.pg HLO.STAT_FR3 m || s.sfiDemand 2 m)

/-- The device leaves DRIVE: the transition to STANDBY is pending, in whose own step Halo asserts STO (R26). -/
def State.leaving (s : State) : Bool := s.dstate == .drive && s.on SYS.pg SYS.DSTAT_TRANS

/-- The first cause of R338 that is present for machine m; 0 for none. A completed stop and `STO_CMD` ASSERT remain causes
until a release. -/
def State.stoCause (s : State) (m : Nat) : Nat :=
  if s.safe then (if s.dstate = .drive then 7 else 1)
  else if s.dstate ≠ .drive ∨ s.leaving then 1
  else if s.msvSt m = 0 then 2
  else if s.sfiDemand 1 m then 3
  else if s.bitOn HLO.pg HLO.STAT_FR4 m then 4
  else if (s.stopH m).done then 5
  else if s.halo.cmdSto.testBit m then 6
  else 0

/-- No cause keeps `STO_CMD` RELEASE from machine m; the command itself ends cause 0x6, and cause 0x5 whose demand is
over. -/
def State.stoFree (s : State) (m : Nat) : Bool :=
  s.dstate = .drive && !s.leaving && !s.safe && s.msvSt m != 0 && !s.sfiDemand 1 m && !s.bitOn HLO.pg HLO.STAT_FR4 m &&
    !s.stopHolds m

/-- The cause field of machine m. -/
def stoCauseFld (m : Nat) : Fld :=
  match m with
  | 0 => STO.CAUSE_M0
  | 1 => STO.CAUSE_M1
  | _ => STO.CAUSE_M2

/-- Record the first cause present; while STO stays in effect without a present cause, the last one stands. -/
def State.stoRecord (s : State) (m : Nat) : State :=
  let c := s.stoCause m
  if s.stoEff m then (if c = 0 then s else s.put STO.pg (stoCauseFld m) c) else s.put STO.pg (stoCauseFld m) 0

/-- Command both paths of line `l` low: lines 0 to 2 the machines, line 3 the converters (R336, R337). -/
def State.pathsLow (s : State) (l : Fin 4) : State :=
  { s with halo := { s.halo with
      pathA := setBits s.halo.pathA l l 0, pathB := setBits s.halo.pathB l l 0, diffAt := vset s.halo.diffAt l none } }

/-- A release raises path A of line `l` at once; path B follows (R337). -/
def State.pathARelease (s : State) (l : Fin 4) : State :=
  if s.halo.pathA.testBit l then s
  else { s with halo := { s.halo with
      pathA := setBits s.halo.pathA l l 1, diffAt := vset s.halo.diffAt l (some s.now) } }

/-- An SS1 that runs on machine m ends, with the state of `MSTAT` given: 2 DONE or 3 ESCALATED (R347). -/
def State.ss1End (s : State) (m st : Nat) : State :=
  let p := SSF.pg
  let s := (s.putBit p SSF.STAT_SS1 m false).put p (SSF.MSTAT_STATE.ix m) st
  let s := s.stopSet m fun h => { h with done := true, overN := 0 }
  if st = 3 then s.incSat p SSF.CNT_ESCALATED
  else (s.incSat p SSF.CNT_SS1_DONE).evt p SSF.EVT_SS1_DONE

/-- Halo asserts STO on machine m (R336, R338): both lines low, the tri-legs forced low, the supervisor in STO, the brakes
scheduled, and a running SS1 complete. -/
def State.stoAssert (s : State) (m : Nat) : State :=
  let was := s.stoEff m
  let s := if h : m < 4 then s.pathsLow ⟨m, h⟩ else s
  if was then s.stoRecord m
  else
    let s := (s.putBit STO.pg STO.STAT_EFF m true).incSat STO.pg STO.CNT_ASSERTS |>.evt STO.pg STO.EVT_ASSERT
    let s := if s.bitOn SSF.pg SSF.STAT_SS1 m then s.ss1End m 2 else s
    ((s.msvToSto m).stoRecord m).sbcOnSto m |>.tpwRefreshAll

/-- Assert STO on every machine that has a cause, and record the causes. -/
def State.stoEval (s : State) : State :=
  [0, 1, 2].foldl (fun s m => if s.stoCause m ≠ 0 ∧ ¬ s.stoEff m then s.stoAssert m else s.stoRecord m) s

/-- The first cause of the converter STO function (R339, R358); 0 for none. -/
def State.convCause (s : State) : Nat :=
  if ¬ s.dstate.running then 1
  else if s.halo.convSfi then 3
  else if s.halo.convCmd then 6
  else 0

/-! ### Converter pins -/

/-- Whether the converter STO function is out of effect and Halo toggles the line of CPW timer `n` (R257). -/
def State.cpwMayDrive (s : State) (n : Nat) : Bool :=
  !s.on STO.pg STO.STAT_CONV_EFF && s.ghbOk (6 + n)

/-- Change the pins of CPW timer `n`. -/
def State.cpwPins (s : State) (n : Nat) (f : Pins → Pins) : State :=
  if h : n < 8 then { s with cpw := vset s.cpw ⟨n, h⟩ (f (vget s.cpw ⟨n, h⟩)) } else s

/-- Leg `leg` of CPW timer `n` goes low now. -/
def State.cpwLegLow (s : State) (n leg : Nat) : State :=
  s.cpwPins n fun q => (q.settle s.fineNow).legOff leg s.fineNow

/-- CPW timer `n` is frozen: `DBG_FREEZE` of its page is 1 while a pair is halted (R42, R89, R325). -/
def State.cpwFrozen (s : State) (n : Nat) : Bool :=
  s.on ⟨.cpw, n⟩ HDR.CTRL_DBG_FREEZE && s.get LKS.pg LKS.STAT_HALTED != 0

/-- CPW timer `n` places edges, unless it is frozen. -/
def State.cpwPlace (s : State) (n : Nat) (f : Pins → Pins) : State :=
  if s.cpwFrozen n then s else s.cpwPins n fun q => f (q.settle s.fineNow)

/-- A timer that freezes keeps its levels, and its edges ahead do not come; it resumes at the next period start after the
halt (log 57). -/
def State.cpwFreeze (s : State) (n : Nat) : State :=
  if s.cpwFrozen n then s.cpwPins n fun q => { q.settle s.fineNow with edges := [] } else s

/-- Every leg of CPW timer `n` goes low now. -/
def State.cpwLow (s : State) (n : Nat) : State := [0, 1, 2].foldl (fun s l => s.cpwLegLow n l) s

/-! ### DC-DC converter (R257, R264) -/

/-- DCD takes a new state. -/
def State.dcdGo (s : State) (st : Nat) : State :=
  let old := s.get DCD.pg DCD.STAT_STATE
  (s.put DCD.pg DCD.STAT_STATE st).evtIf (old != st) DCD.pg DCD.EVT_STATE

/-- The timer and leg of leg `j` of DCD (R255). -/
def State.dcdLeg (s : State) (j : Nat) : Nat × Nat := (s.get DCD.pg DCD.CFG_TIM0 + j / 3, j % 3)

/-- The phases that DCD drives (R255). -/
def State.dcdPhases (s : State) : Nat := s.get DCD.pg DCD.CFG_NPH + 1

/-- The timers that DCD names: those of the legs of its phases (R255). -/
def State.dcdTimers (s : State) : List Nat :=
  (List.range ((2 * s.dcdPhases + 2) / 3)).map fun i => s.get DCD.pg DCD.CFG_TIM0 + i

/-- All four pins of phase `p` go low (R257). -/
def State.dcdPhaseLow (s : State) (p : Nat) : State :=
  [2 * p, 2 * p + 1].foldl (fun s j => s.cpwLegLow (s.dcdLeg j).1 (s.dcdLeg j).2) s

/-- The code of a phase in `PHST.MODE`: 0 off, 1 shedding, 2 entering, 3 active (R271). -/
def PhaseMode.code : PhaseMode → Nat
  | .off => 0
  | .shed _ => 1
  | .enter _ _ => 2
  | .active => 3

/-- Show the modes of the phases, the number that switch, and whether a sequence runs (R271). -/
def State.dcdModes (s : State) : State :=
  let ms := (List.finRange 4).map fun p => vget s.dcd.modes p
  let n := (ms.filter fun m => m != .off).length
  let old := s.get DCD.pg DCD.STAT_NACT
  let code := ms.foldr (fun m acc => acc * 4 + m.code) 0
  let busy := ms.any fun m => m.code == 1 || m.code == 2
  (((s.put DCD.pg DCD.PHST_MODE code).put DCD.pg DCD.STAT_NACT n).flag DCD.pg DCD.STAT_SHEDDING busy).evtIf (old != n)
    DCD.pg DCD.EVT_PHASES

/-- All pins that DCD owns go low (R255: every leg of every timer that it names), and every phase is off. -/
def State.dcdLow (s : State) : State :=
  let s := { s with dcd := { s.dcd with modes := Vector.replicate 4 .off, stopPins := false, phi := 0 } }
  (s.dcdTimers.foldl State.cpwLow s).dcdModes

/-- STOP: back to IDLE, with the pins low at the next period start (R264). -/
def State.dcdStop (s : State) : State :=
  if s.get DCD.pg DCD.STAT_STATE = 2 then s.dcdLow.dcdGo 1
  else { s with dcd := { s.dcd with stopPins := true } }.dcdGo 1

/-- A fault of reaction FR2 in any state except OFF: pins low and FAULT (R264). -/
def State.dcdFault (s : State) : State :=
  if s.get DCD.pg DCD.STAT_STATE = 0 then s else s.dcdLow.dcdGo 5

/-- The conditions of R257 for every timer that DCD names. -/
def State.dcdMayDrive (s : State) : Bool :=
  (List.range (2 * (s.get DCD.pg DCD.CFG_NPH + 1))).all fun j => s.cpwMayDrive (s.dcdLeg j).1

/-- Loss of the conditions of R257: pins low, and SOFTSTART and RUN end in IDLE (R264). -/
def State.dcdRefresh (s : State) : State :=
  let st := s.get DCD.pg DCD.STAT_STATE
  if s.dcdMayDrive then s
  else if st = 3 ∨ st = 4 then s.dcdLow.dcdGo 1
  else if s.dcd.stopPins then s.dcdLow
  else s

/-! ### Brake chopper (R240, R243) -/

/-- The ball of the chopper switch in its timer. -/
def State.bchBall (s : State) : Nat := 2 * s.get BCH.pg BCH.CFG_LEG + (if s.on BCH.pg BCH.CFG_SW then 0 else 1)

/-- The chopper pin goes low. -/
def State.bchLow (s : State) : State :=
  let t := s.fineNow
  let cut := (s.bch.ivs.filter fun e => decide (e.1 ≤ t)).map fun e => (e.1, min e.2 t)
  { s with bch := { s.bch with ivs := cut } }.cpwLegLow (s.get BCH.pg BCH.CFG_TIM) (s.get BCH.pg BCH.CFG_LEG)

/-- Where R17 holds the chopper off, ON ends in IDLE with the pin low. -/
def State.bchHold (s : State) : State :=
  if s.get BCH.pg BCH.STAT_STATE = 2 then s.bchLow.put BCH.pg BCH.STAT_STATE 1 else s.bchLow

/-! ### Charger pins (R272, R286) -/

/-- The timers of OBC: PFC, DAB primary, DAB secondary (R272). -/
def State.obcTimers (s : State) : List Nat := [OBC.CFG_TPFC, OBC.CFG_TDP, OBC.CFG_TDS].map fun x => s.get OBC.pg x

/-- All pins of OBC go low. -/
def State.obcLow (s : State) : State :=
  ({ s with obc := { s.obc with pfcOn := false, dabOn := false, dabPers := 0 } }.cpwLow (s.get OBC.pg OBC.CFG_TPFC)).cpwLow
    (s.get OBC.pg OBC.CFG_TDP) |>.cpwLow (s.get OBC.pg OBC.CFG_TDS)

/-- The conditions of R257 for the timers of OBC (R272). -/
def State.obcMayDrive (s : State) : Bool :=
  [OBC.CFG_TPFC, OBC.CFG_TDP, OBC.CFG_TDS].all fun x => s.cpwMayDrive (s.get OBC.pg x)

/-- Loss of one of those conditions: the pins go low. -/
def State.obcRefresh (s : State) : State :=
  if s.obcMayDrive then s
  else ((s.cpwLow (s.get OBC.pg OBC.CFG_TPFC)).cpwLow (s.get OBC.pg OBC.CFG_TDP)).cpwLow (s.get OBC.pg OBC.CFG_TDS)

/-- OBC takes a new state. -/
def State.obcGo (s : State) (st : Nat) : State :=
  let old := s.get OBC.pg OBC.STAT_STATE
  (s.put OBC.pg OBC.STAT_STATE st).evtIf (old != st) OBC.pg OBC.EVT_STATE

/-- The states 2 to 5 are the running ones (R283). -/
def State.obcRunning (s : State) : Bool :=
  decide (2 ≤ s.get OBC.pg OBC.STAT_STATE ∧ s.get OBC.pg OBC.STAT_STATE ≤ 5)

/-- Change the hidden state of OBC. -/
def State.obcSet (s : State) (f : ObcH → ObcH) : State := { s with obc := f s.obc }

/-- The tick counts of R282 brought up to the present tick: they run from START to STOPPED. -/
def State.obcTick (s : State) : State :=
  let p := OBC.pg
  let d := s.now - s.obc.countAt
  let st := s.get p OBC.STAT_STATE
  let add (c : Bool) (x : Fld) (s : State) : State := if c then s.put64 p x (s.get64 p x + d) else s
  let s' :=
    if 2 ≤ st then
      let derate := st == 5 || s.get p OBC.STAT_LIMSRC == 2
      (add true OBC.ETOT_LO s) |> add s.obc.ccEnd.isNone OBC.ECC_LO |> add s.obc.cvAt.isSome OBC.ECV_LO
        |> add derate OBC.DERATE_LO |> add (st == 5) OBC.SUSP_LO
    else s
  s'.obcSet fun o => { o with countAt := s.now }

/-- A running state ends in STOPPING with the cause given (R283, R285). -/
def State.obcStopping (s : State) (cause : Nat) : State :=
  if s.obcRunning then
    let s := s.obcTick
    { s with obc := { s.obc with stopAt := s.now } }.put OBC.pg OBC.STAT_CAUSE cause |>.obcGo 6
  else s

/-! ### Actuators (R291, R300, R301) -/

/-- Change the hidden state of actuator channel `n`. -/
def State.actSet (s : State) (n : Fin 6) (f : ActH → ActH) : State := { s with act := vset s.act n (f (vget s.act n)) }

/-- The state code of channel `n`: 0 OFF, 1 IDLE, 2 RUN, 3 SEQ, 4 BRAKE, 5 FAULT. -/
def State.actSt (s : State) (n : Fin 6) : Nat := s.get (ACT.pg n) ACT.STAT_STATE

/-- The conditions of R291 that do not rest on the channel's state. -/
def State.actMayDrive (s : State) (n : Fin 6) : Bool :=
  s.dstate.running && s.ghbOk 14 && s.on (ACT.pg n) HDR.CTRL_EN

/-- The pattern of a state (R300): 0 FREE, 1 DRIVE, 2 SHORT. -/
def State.actPatOf (s : State) (n : Fin 6) (st : Nat) : Nat :=
  match st with
  | 2 | 3 => 1
  | 4 => 2
  | 5 => if s.on (ACT.pg n) ACT.CFG_FPAT then 2 else 0
  | _ => 0

/-- The pattern on the pins of channel `n`. -/
def State.actPat (s : State) (n : Fin 6) (pat : Nat) : State :=
  let old := s.get (ACT.pg n) ACT.STAT_PAT
  (s.put (ACT.pg n) ACT.STAT_PAT pat).evtIf (old != pat) (ACT.pg n) ACT.EVT_PAT

/-- All pins of channel `n` go low now (R291). -/
def State.actLow (s : State) (n : Fin 6) : State :=
  (s.actSet n fun h => { h with pins := (h.pins.settle s.fineNow).pattern 1 s.fineNow 0 }).actPat n 0

/-- Channel `n` takes a new state; its pattern follows at the next period start (R300). -/
def State.actGo (s : State) (n : Fin 6) (st : Nat) : State :=
  let old := s.actSt n
  let s := s.actSet n fun h => { h with
    patNext := s.actPatOf n st, stale := if st = 2 ∨ st = 3 then h.stale else 0 }
  (s.put (ACT.pg n) ACT.STAT_STATE st).evtIf (old != st) (ACT.pg n) ACT.EVT_STATE

/-- Loss of a condition of R291: the pins go low, and RUN, SEQ and BRAKE end in IDLE. -/
def State.actRefresh (s : State) (n : Fin 6) : State :=
  if s.actMayDrive n then s
  else
    let s := s.actLow n
    let st := s.actSt n
    if st = 2 ∨ st = 3 ∨ st = 4 then (s.actSet n fun h => { h with bemf := .off }).actGo n 1 else s

/-- Every channel in line with R291. -/
def State.actRefreshAll (s : State) : State := (List.finRange 6).foldl (fun s n => s.actRefresh n) s

/-! ### The converter STO function (R339) -/

/-- Record the cause of the converter STO function. -/
def State.convRecord (s : State) : State :=
  let c := s.convCause
  if s.on STO.pg STO.STAT_CONV_EFF then (if c = 0 then s else s.put STO.pg STO.CAUSE_CONV c) else s.put STO.pg STO.CAUSE_CONV 0

/-- Halo asserts the converter STO function: the pins of DCD and OBC go low (R257, R272). -/
def State.convAssert (s : State) : State :=
  let was := s.on STO.pg STO.STAT_CONV_EFF
  let s := (s.pathsLow 3).flag STO.pg STO.STAT_CONV_EFF true
  let s := if was then s else s.evt STO.pg STO.EVT_ASSERT
  s.convRecord.dcdRefresh.obcRefresh

end Sys2Proof.Machine
end

