-- ==== Sys2Proof/Machine/Reaction.lean ====
section
/-! DEFINITION. The fault manager: the log, the reactions FR0 to FR5, stop functions, and the entry to a device state
(R16 to R18, R27, R28, R55, R59, R330 to R332, R345 to R349, R351). -/

namespace Sys2Proof.Machine
open Sys2Proof

/-! ### The fault log (R351, R356) -/

/-- The first FR5 fault is kept in `HLO_FIRST` (R351). -/
def State.logFirst (s : State) (code machs aux stamp : Nat) : State :=
  let p := HLO.pg
  if s.get p HLO.FIRST_INFO = 0 then
    ((s.put p HLO.FIRST_INFO (5 * 2 ^ 24 + machs * 2 ^ 16 + code)).put p HLO.FIRST_AUX aux).put64 p HLO.FIRST_STAMP_LO stamp
  else s

/-! ### Change sets and locks (R51, R55, R59) -/

/-- The result of an operation on a page; every result but DONE is counted (R47, R51). -/
def State.csetLast (s : State) (p : Page) (code : Nat) : State :=
  let s := s.put p HDR.CSET_STAT_LAST code
  if code = 1 then s else s.incSat p HDR.ERRCNT_CSET

/-- The set of requester `r` ends with a result on all of its pages. -/
def State.csetEnd (s : State) (r : Fin 16) (code : Nat) : State :=
  let c := vget s.sets r
  let s := c.pages.foldl (fun s p => (s.put p HDR.CSET_STAT_STATE 0).csetLast p code) s
  { s with sets := vset s.sets r CSet.empty }

/-- The boundary that a set waits for: GENERAL in place of a lock group that no longer runs (log 42). -/
def State.effBoundary (s : State) (b : Boundary) : Boundary :=
  match b with
  | .group g => if (vget s.lg g).next.isSome || s.on TBU.pg (TBU.LG_STAT_RUNNING.ix g) then b else .general
  | _ => b

/-- Whether the boundary that a set waits for lies in the present tick (R53). -/
def State.boundaryNow (s : State) (b : Boundary) : Bool :=
  match s.effBoundary b with
  | .general => s.now % 400 == 0
  | .group g => s.on TBU.pg (TBU.LG_STAT_RUNNING.ix g) && (vget s.lg g).last / 128 == s.now
  | .superframe => s.sfTick == some s.now

/-- A reaction of FR2 or higher stops the ORDERED commits (R55): what a boundary in this tick commits stays, the rest is
discarded. A set that still waits for its change log (R371) commits nothing in this tick. DESIGN CHOICE (log 80): a set
whose last boundary lies in this tick is left alone and ends DONE. The answer tells whether one was stopped. -/
def State.csetStop (s : State) : State × Bool :=
  (List.finRange 16).foldl (fun (a : State × Bool) r =>
    let s := a.1
    let c := vget s.sets r
    if c.committing ∧ c.ordered ∧ ¬ c.cut then
      match c.plan with
      | [] => a
      | (d, b) :: _ =>
        if s.boundaryNow b ∧ c.after < s.now ∧ c.logLeft = 0 then
          (if c.plan.length = 1 then a
           else ({ s with sets := vset s.sets r { c with plan := [(d, b)], cut := true } }, true))
        else (s.csetEnd r 9, true)
    else a) (s, false)

/-- Requester `r` is lost as an owner (R59): its locks are released with OWNER_LOST and LOST_ID, and its running work is
ABANDONED (R130, R401, R405). -/
def State.loseLocks (s : State) (r : Nat) : State :=
  let holds (s : State) (p : Page) : Bool := s.on p HDR.OWNER_LOCKED && s.get p HDR.OWNER_ID == r
  let lose (s : State) (p : Page) : State :=
    ((s.flag p HDR.OWNER_LOCKED false).flag p HDR.OWNER_LOST true).put p HDR.OWNER_LOST_ID r
  let s := (List.finRange 4).foldl (fun s (i : Fin 4) =>
    if holds s (ADH.pg i) then
      { lose s (ADH.pg i) with adhLost := vset s.adhLost i (vget s.adh i).inj.isSome }.note 0x30A 1 0 0
    else s) s
  let s := (List.range 4).foldl (fun s i =>
    let p := CRC.pg i
    if holds s p then
      let s := if s.on p CRC.STAT_RUNNING then (s.flag p CRC.STAT_RUNNING false).flag p CRC.STAT_ABANDONED true else s
      ((lose s p).evt p CRC.EVT_OWNER_LOST).note 0xD0A 1 0 0
    else s) s
  (List.finRange 16).foldl (fun s (ch : Fin 16) =>
    let p := DMA.pg
    if s.on p (DMA.OWN_LOCKED.ix ch) ∧ s.get p (DMA.OWN_OWNER_ID.ix ch) = r then
      let s := ((s.flag p (DMA.OWN_LOCKED.ix ch) false).flag p (DMA.OWN_OWNER_LOST.ix ch) true).put p (DMA.OWN_LOST_ID.ix ch) r
      let s := (s.flag p HDR.OWNER_LOST true).put p HDR.OWNER_LOST_ID r
      let s := ((s.flag p (DMA.CH_CFG_EN.ix ch) false).flag p (DMA.CH_CHST_ABANDONED.ix ch) true).flag p
        (DMA.CH_CHST_BUSY.ix ch) false
      let s := s.putBit p DMA.STAT_ACTIVE ch false
      ({ s with dma := vset s.dma ch { vget s.dma ch with cur := none, left := 0 } }.evt p
        DMA.EVT_OWNER_LOST).note 0xD0A 1 0 0
    else s) s

/-! ### Sessions of SCF (R367, R370) -/

/-- SLG takes an entry into its queue (R369). -/
def State.slgPush (s : State) (kind w4 w5 w6 : Nat) (set : Option (Fin 16)) : State :=
  { s with scf := { s.scf with queue := s.scf.queue ++ [⟨kind, s.now, w4, w5, w6, set⟩] } }

/-- An AUTH session closes (R367): a set of HS that is still STAGING is discarded. -/
def State.scfClose (s : State) (cause : Nat) : State :=
  if s.get SCF.pg SCF.STAT_SESSION = 1 then
    let s := ((s.put SCF.pg SCF.STAT_SESSION 0).evt SCF.pg SCF.EVT_SESSION).slgPush 8 0 cause 0 none
    if (vget s.sets 2).pages ≠ [] ∧ ¬ (vget s.sets 2).committing then s.csetEnd 2 8 else s
  else s

/-! ### Communication controllers (R412, R427, R433) -/

/-- The frame under transmission ends at tick `t`: what a TXU_ABORT or a FLUSH took meanwhile is not offered again
(R418). -/
def CanH.settle (h : CanH) (t : Nat) : CanH :=
  { h with
    sending := none
    txu := if h.txuDrop then none else h.txu
    fifo := if h.headDrop then h.fifo.tail else h.fifo
    headAt := if h.headDrop then t else h.headAt
    headRaised := if h.headDrop then false else h.headRaised
    txuDrop := false, headDrop := false, stopping := false }

/-- CAN controller `i` is in INIT: its transmitter is recessive, and a frame under transmission has failed (R412). -/
def State.canInit (s : State) (i : Nat) : State :=
  let p := CAN.pg i
  let old := s.get p CAN.STAT_STATE
  let s := if h : i < 4 then
      let c := { (vget s.canH ⟨i, h⟩).settle s.now with starting := false }
      (({ s with canH := vset s.canH ⟨i, h⟩ c }).put p CAN.FSTAT_TX c.fifo.length).flag p CAN.FSTAT_TXU_BUSY c.txu.isSome
    else s
  (s.put p CAN.STAT_STATE 0).evtIf (old != 0) p CAN.EVT_STATE

/-- CLF goes OFF, and both ports are DOWN and have no delay (R427, R433). -/
def State.clfOff (s : State) : State :=
  let old := s.get CLF.pg CLF.STAT_STATE
  let s := (((s.put CLF.pg CLF.LINK_E 0).put CLF.pg CLF.LINK_W 0).put CLF.pg CLF.PDW_PD 0).put CLF.pg CLF.PDE_PD 0
  let s : State := { s with clf := { s.clf with ports := s.clf.ports.map fun h => { h with pdreq := none, pdAt := none, delays := [], respDue := false } } }
  (s.put CLF.pg CLF.STAT_STATE 0).evtIf (old != 0) CLF.pg CLF.EVT_STATE

/-! ### Entry to a device state (R16, R17, R24, R334, R338, R339, R349, R353) -/

/-- The watchdog and the alive line stand (R18, R334). -/
def State.watchdogOff (s : State) : State := { s with halo := { s.halo with kickAt := none, alive := false } }

/-- The pairs of AP0 and AP1 stand (R18). -/
def State.holdPairs (s : State) : State :=
  let stop (l : LksH) (i : Fin 3) : LksH := { l with pairs := vset l.pairs i { vget l.pairs i with run := false } }
  { s with lks := stop (stop s.lks 0) 1 }

/-- Halo at the entry to `d` from `old`: the session of SERVICE closes (R367), the watchdog and the gate bus run from
SELFTEST on (R24, R353), and in SAFE_HOLD they and the pairs of AP0 and AP1 stand (R18, R334). -/
def State.enterHalo (s : State) (old d : DState) : State :=
  let s := if old = .service then s.scfClose 3 else s
  if d = .selftest then { s.ghbStart with halo := { s.ghbStart.halo with kickAt := some s.now } }
  else if d = .safeHold then s.ghbStop.watchdogOff.holdPairs
  else s

/-- Outside the running states the converters, the actuators, the brakes and the links are at rest (R17). -/
def State.restFunctions (s : State) : State :=
  let s := (s.convAssert.sbcApply 0).sbcApply 1
  let s := if 2 ≤ s.get DCD.pg DCD.STAT_STATE ∧ s.get DCD.pg DCD.STAT_STATE ≤ 4 then s.dcdLow.dcdGo 1 else s
  let s := s.bchHold.actRefreshAll
  ([0, 1, 2, 3].foldl State.canInit s).clfOff

/-- The charger at the entry to `d` from `old`: CHARGE ends with STOP, and in SAFE_HOLD its outputs are low (R17). -/
def State.enterCharger (s : State) (old d : DState) : State :=
  let s := if old = .charge then (if d.running then s.obcStopping 0xA else (s.obcStopping 0xA).obcLow) else s
  if d = .safeHold then s.obcLow else s

/-- Path A of STO at the entry to `d` from `old` (R338, R339): the converter group is released after SELFTEST, and in DRIVE
every machine without a cause. -/
def State.enterPaths (s : State) (old d : DState) : State :=
  let s := if d = .standby ∧ old = .selftest then
      (if s.halo.convSfi ∨ s.halo.convCmd then s.convRecord else s.pathARelease 3)
    else s
  let s := s.stoEval
  if d = .drive then
    (List.finRange 3).foldl (fun s (m : Fin 3) =>
      if s.stoCause m = 0 ∧ s.stoEff m then s.pathARelease ⟨m.1, by omega⟩ else s) s
  else s

/-- The device takes state `d`: the transition is complete, and every function follows R17. DESIGN CHOICE (log 50): in BOOT
and SELFTEST `TRANS` reads 1, and `TARGET` then reads the code of that state itself. -/
def State.enter (s : State) (d : DState) : State :=
  let old := s.dstate
  let s := ((s.put SYS.pg SYS.DSTAT_DSTATE d.code).put SYS.pg SYS.DSTAT_TARGET d.code).flag SYS.pg SYS.DSTAT_TRANS
    (d == .boot || d == .selftest)
  let s := (s.put SYS.pg SYS.DSTAT_PREV old.code).evt SYS.pg SYS.EVT_DSTATE
  let s := s.enterHalo old d
  let s := if d.running then s else s.restFunctions
  ((s.enterCharger old d).enterPaths old d).tpwRefreshAll

/-! ### Reactions (R330, R331, R332) -/

/-- FR5 (R18, R330): the device safe state and SAFE_HOLD; AP0 and AP1 halt, and so lose their locks. -/
def State.safeHoldNow (s : State) : State :=
  let s := s.flag HLO.pg HLO.STAT_SAFE true
  let s := if s.dstate = .safeHold then s else s.enter .safeHold
  (s.loseLocks 0).loseLocks 1

/-- A reaction of FR2 or higher stops the ORDERED commits: fault 0x010 and the CSET_PARTIAL event (R55, R56). -/
def State.stopCommits (s : State) : State :=
  let (s, hit) := s.csetStop
  if hit then (s.evt SYS.pg SYS.EVT_CSET_PARTIAL).note 0x010 1 0 0 else s

/-- FR4 on machine m: latched, and the STO function takes effect at once; a running SS1 is escalated. -/
def State.applyFr4 (s : State) (m : Nat) : State :=
  let s := (s.putBit HLO.pg HLO.STAT_FR4 m true).evt HLO.pg HLO.EVT_FR4
  let s := if s.bitOn SSF.pg SSF.STAT_SS1 m then s.ss1End m 3 else s
  s.stoAssert m

/-- The stop of machine m is not available, or fails: a fault of reaction FR4 of Halo itself (R346, R347). -/
def State.escalate (s : State) (m code : Nat) : State :=
  let s := s.note code 4 (2 ^ m) 0
  let s := s.evt SSF.pg (if code = 0xB09 then SSF.EVT_SS1_ESC else SSF.EVT_SS1_FAIL)
  let s := if s.bitOn SSF.pg SSF.STAT_SS1 m then s
    else (s.put SSF.pg (SSF.MSTAT_STATE.ix m) 3).incSat SSF.pg SSF.CNT_ESCALATED
  ((s.stopSet m fun h => { h with done := true }).applyFr4 m).stopCommits

/-- Whether POSm is in TRACK. -/
def State.posTrack (s : State) (m : Nat) : Bool := s.get (POS.pg m) POS.ANG_STATE == 2

/-- ωlim of R347 at the present tick. -/
def State.ss1Limit (s : State) (m : Nat) : F32 :=
  let h := s.stopH m
  let p := SSF.pg
  let wtol := s.rd (fldAddr p (SSF.W_TOL.ix m))
  let dec := s.rd (fldAddr p (SSF.DEC_MIN.ix m))
  let dt := s.now - h.t0 - s.get p (SSF.TIMES_T_DELAY.ix m) * 400000
  fmax (fsub (fadd h.w0 wtol) (fmul (fmul dec (fint dt)) fTick)) wtol

/-- The stop selection of machine m is carried out (R345, R346). -/
def State.stopSelect (s : State) (m : Nat) : State :=
  let p := SSF.pg
  let done (s : State) := s.stopSet m fun h => { h with done := true }
  let complete (s : State) := (((done s).put p (SSF.MSTAT_STATE.ix m) 2).incSat p SSF.CNT_SS1_DONE).evt p SSF.EVT_SS1_DONE
  if s.bitOn p SSF.STAT_SS1 m ∨ (s.stopH m).done then s
  else if s.get p (SSF.MCFG_STOP.ix m) = 2 then (done s).stoAssert m
  else
    match s.msvSt m with
    | 0 | 1 => complete s
    | 2 => (complete s).stoAssert m
    | 5 => s.escalate m 0xB09
    | _ =>
      if s.posTrack m then
        let s := s.stopSet m fun h => { h with t0 := s.now, w0 := fabs (s.rd (fldAddr (POS.pg m) POS.SPD)), overN := 0 }
        let s := ((s.putBit p SSF.STAT_SS1 m true).put p (SSF.MSTAT_STATE.ix m) 1).evt p SSF.EVT_SS1_START
        (s.setWord p (SSF.WLIM.ix m) (s.ss1Limit m)).msvSs1 m
      else s.escalate m 0xB09

/-- FR3 on machine m: latched; on a machine already in STO nothing further follows (R331). -/
def State.applyFr3 (s : State) (m : Nat) : State :=
  let s := (s.putBit HLO.pg HLO.STAT_FR3 m true).evt HLO.pg HLO.EVT_FR3
  if s.stoEff m then s else s.stopSelect m

/-- FR2 on machine m: STOP, unless a higher reaction is in force (R331). -/
def State.applyFr2 (s : State) (m : Nat) : State :=
  if s.bitOn HLO.pg HLO.STAT_FR3 m ∨ s.bitOn HLO.pg HLO.STAT_FR4 m then s else s.msvStop m

/-- Apply `f` to each machine of a mask. -/
def State.machines (s : State) (mask : Nat) (f : State → Nat → State) : State :=
  [0, 1, 2].foldl (fun s m => if mask.testBit m then f s m else s) s

/-- A fault reaches the fault manager (R63, R330, R351): one log entry, the end of a pending transition, and the reaction
on the machines of the mask. -/
def State.raiseAt (s : State) (code react machs aux stamp : Nat) : State :=
  let s := s.abortTransition.logEntry code react machs aux stamp
  let s :=
    match react with
    | 2 => s.machines machs State.applyFr2
    | 3 => s.machines machs State.applyFr3
    | 4 => s.machines machs State.applyFr4
    | 5 => (s.logFirst code machs aux stamp).safeHoldNow
    | _ => s
  if 2 ≤ react then s.stopCommits else s

/-- A fault detected in this tick (R351). -/
def State.raise (s : State) (code react machs : Nat) (aux : Nat := 0) : State := s.raiseAt code react machs aux s.now

end Sys2Proof.Machine
end

