-- ==== Sys2Proof/Machine/Arb.lean ====
section
/-! DEFINITION. Banks, arbitration, the arbiter's counters and ECC (R388 to R396). -/

namespace Sys2Proof.Machine
open Sys2Proof

/-- The bank of an address (R388, R393): SRAM 0 to 23, Halo SRAM 24, flash F0, F1 and FS 25 to 27, boot ROM 28, Cirrus
context memory 29. -/
def bankOf (a : Nat) : Option Nat :=
  if a < 0x10000 then some 28
  else if 0x08000000 ≤ a ∧ a < 0x08800000 then some 25
  else if 0x08800000 ≤ a ∧ a < 0x08FC0000 then some 26
  else if 0x08FC0000 ≤ a ∧ a < 0x09000000 then some 27
  else if 0x20000000 ≤ a ∧ a < 0x20600000 then some ((a - 0x20000000) / 0x40000)
  else if 0x28000000 ≤ a ∧ a < 0x28040000 then some 24
  else if 0x30000000 ≤ a ∧ a < 0x30040000 then some 29
  else none

/-- The counters of R396 count a bank: the selected one, or with BANK 31 all banks of this arbiter; Halo SRAM and context
memory have their own. -/
def State.arbCounts (s : State) (bank : Nat) : Bool :=
  let sel := s.get ARB.pg ARB.CNTSEL_BANK
  sel == bank || (sel == 31 && bank != 24 && bank != 29)

/-- Add one to the grants of requester `r` (R396). -/
def State.arbGrant (s : State) (r bank : Nat) : State :=
  if s.arbCounts bank ∧ r < 12 then s.put64 ARB.pg (ARB.GRANT_LO.ix r) (s.get64 ARB.pg (ARB.GRANT_LO.ix r) + 1) else s

/-- The end of a wait of `w` ticks; `behind` tells whether another requester was granted in between (R396). -/
def State.arbWaited (s : State) (r bank w : Nat) (behind : Bool) : State :=
  if s.arbCounts bank ∧ r < 12 then
    let s := if behind then s.incSat ARB.pg (ARB.WAITS.ix r) else s
    s.put ARB.pg (ARB.LONG.ix r) (max (s.get ARB.pg (ARB.LONG.ix r)) (min w 65535))
  else s

/-- All counters to 0 (R396). -/
def State.arbClear (s : State) : State :=
  (List.range 12).foldl (fun s r =>
    ((s.put64 ARB.pg (ARB.GRANT_LO.ix r) 0).put ARB.pg (ARB.WAITS.ix r) 0).put ARB.pg (ARB.LONG.ix r) 0) s

/-! ### The decision of one bank (R393) -/

/-- The window of R393 at the present tick: where the one before has ended, the quotas are fresh, and the committed classes,
quotas and window length apply from here on (R394). -/
def State.arbRoll (s : State) : State :=
  if s.arb.winEnd ≤ s.now then
    let w := s.get ARB.pg ARB.CFG_WIN
    { s with arb := { s.arb with
      used := [], winEnd := (s.now / w + 1) * w, high := s.get ARB.pg ARB.PRIO_HIGH
      quotas := (List.range 12).map fun r => s.get ARB.pg (ARB.QUOTA.ix r) } }
  else s

/-- The first requester after `last` in round-robin order. -/
def roundRobin (last : Nat) (rs : List Nat) : Option Nat :=
  (List.range 16).foldl (fun (m : Option Nat) i =>
    let r := (last + i) % 16
    if m.isNone && rs.contains r then some r else m) none

/-- The requester that is granted among those pending at a bank, and whether under rule 1. `last…` hold one more than the
requester of the last grant. -/
def State.arbChoose (s : State) (bank : Nat) (rs : List Nat) : Option (Nat × Bool) :=
  let at0 (m : List (Nat × Nat)) := mapGet (fun _ => 0) m bank
  let high := rs.filter fun r => s.arb.high.testBit r &&
    decide (mapGet (fun _ => 0) s.arb.used (16 * bank + r) < s.arb.quotas.getD r 0)
  match roundRobin (at0 s.arb.lastHigh) high with
  | some r => some (r, true)
  | none => (roundRobin (at0 s.arb.lastAny) rs).map fun r => (r, false)

/-- Account for a grant: round-robin places, quota, counters, and the end of the wait. -/
def State.arbTake (s : State) (bank r : Nat) (high : Bool) : State :=
  let k := 16 * bank + r
  let z := fun (_ : Nat) => 0
  let since := mapGet z s.arb.reqs k
  let a := s.arb
  let s : State := { s with arb := { a with
    lastAny := mapSet z a.lastAny bank (r + 1)
    lastHigh := if high then mapSet z a.lastHigh bank (r + 1) else a.lastHigh
    used := if high then mapSet z a.used k (mapGet z a.used k + 1) else a.used
    reqs := mapSet z a.reqs k 0 } }
  let s := s.arbGrant r bank
  if since = 0 then s else s.arbWaited r bank (s.now + 1 - since / 2) (since % 2 == 1)

/-- A single access of requester `r` at address `a`, arbitrated on its own (R393, R397). -/
def State.granted (s : State) (r a : Nat) : State :=
  match bankOf a with
  | some b =>
    let s := s.arbRoll
    match s.arbChoose b [r] with
    | some (q, high) => s.arbTake b q high
    | none => s
  | none => s

/-- `n` such accesses to one bank. -/
def State.grantedN (s : State) (r a : Nat) : Nat → State
  | 0 => s
  | n + 1 => (s.granted r a).grantedN r a n

/-- Requests that wait: `behind` another requester's grant, or for an operation of the bank. `reqs` holds twice one more
than the tick of the request, plus one once another requester was granted before it. -/
def State.arbWait (s : State) (bank : Nat) (rs : List Nat) (behind : Bool) : State :=
  rs.foldl (fun s r =>
    let k := 16 * bank + r
    let v := mapGet (fun _ => 0) s.arb.reqs k
    let v := if v = 0 then 2 * (s.now + 1) else v
    let v := if behind && v % 2 == 0 then v + 1 else v
    { s with arb := { s.arb with reqs := mapSet (fun _ => 0) s.arb.reqs k v } }) s

/-- ARB_WINDOW_START: the window in progress has ended, and the next one starts with fresh quotas. -/
def execArbWindowStart (dt : Nat) (s : State) : Host.Outcome State Fault Refusal := .next (s.advance dt).arbRoll

/-- STARVATION: a request has been pending for STARVE_THR ticks. -/
def execStarvation (dt : Nat) (req : Req) (bank : Nat) (s : State) : Host.Outcome State Fault Refusal :=
  let s := s.advance dt
  let p := ARB.pg
  let since := mapGet (fun _ => 0) s.arb.reqs (16 * bank + req) / 2
  if 0 < since ∧ since + s.get p ARB.CFG_STARVE_THR ≤ s.now + 1 ∧ req.1 < 12 ∧ ¬ s.bitOn p ARB.STARVE_FLAG req then
    .next (((s.putBit p ARB.STARVE_FLAG req true).evt p ARB.EVT_STARVE).note 0xD07 1 0 0)
  else .next s

/-- The command of `ARB_CMD`. -/
def State.arbCmd (s : State) (op : Nat) : State :=
  let p := ARB.pg
  if op = 1 then s.arbClear.status p ARB.CMD_LAST_STS .done else s.status p ARB.CMD_LAST_STS .unknown

/-- A command of `ARB_CMD`; the register has no ILLEGAL_STATE, and SAFE_HOLD accepts none (R18, R60). -/
def State.arbOp (s : State) (op : Nat) : State := s.blockCmd ARB.pg ARB.CMD_LAST_STS fun s => s.arbCmd op

/-- ARB_CLR_CNT. -/
def execArbClrCnt (dt : Nat) (_req : Req) (s : State) : Host.Outcome State Fault Refusal := .next ((s.advance dt).arbOp 1)

/-! ### ECC (R388 to R390) -/

/-- An uncorrected error at address `a`. -/
def State.eccDouble (s : State) (a : Nat) : State :=
  let p := ARB.pg
  let s := s.put p ARB.MEM_ERRADDR a
  match regionOf a with
  | some .sram => (s.incSat p ARB.MEM_ECCCNT_SRAM_UE).note 0xD02 1 0 0
  | some .halo => (s.incSat p ARB.MEM_ECCCNT_SRAM_UE).raise 0xD03 5 0
  | some .flash => (s.incSat p ARB.MEM_ECCCNT_FLASH_UE).note 0xD05 1 0 0
  | some .rom => s.note 0xD05 1 0 0
  | none => s

/-- A corrected error at address `a`; boot ROM has parity only, so there every error is fault 0xD05. -/
def State.eccSingle (s : State) (a : Nat) : State :=
  match regionOf a with
  | some .sram | some .halo => (s.incSat ARB.pg ARB.MEM_ECCCNT_SRAM_CE).note 0xD01 0 0 0
  | some .flash => s.note 0xD04 0 0 0
  | some .rom => s.note 0xD05 1 0 0
  | none => s

/-- SCRUB_ACCESS: the scrubber reads and corrects the next word of a bank, at least INTERVAL ticks after the last one and
only while no request of the bank is pending. -/
def execScrubAccess (dt : Nat) (bank : Fin 25) (ecc : Ecc) (s : State) : Host.Outcome State Fault Refusal :=
  let s := s.advance dt
  let p := ARB.pg
  let (w, t) := vget s.arb.scrub bank
  if s.on p ARB.MEM_SCRUB_EN ∧ t + s.get p ARB.MEM_SCRUB_INTERVAL ≤ s.now ∧ s.arb.reqs.all (fun e => e.1 / 16 != bank.1) ∧ ¬ s.dev.off then
    let s := { s with arb := { s.arb with scrub := vset s.arb.scrub bank ((w + 1) % 65536, s.now) } }
    let a := if bank.1 < 24 then 0x20000000 + bank * 0x40000 + 4 * w else 0x28000000 + 4 * w
    match ecc with
    | .none => .next s
    | .single => .next (s.eccSingle a)
    | .double => .next (s.eccDouble a)
  else .next s

end Sys2Proof.Machine
end

