-- ==== Sys2Proof/Machine/Dcdc.lean ====
section
/-! DEFINITION. The DC-DC controller DCD (R255 to R271). The low-level pieces that fault reactions share (`dcdGo`,
`dcdLow`, `dcdFault`) stand in Machine/Stops.lean. -/

namespace Sys2Proof.Machine
open Sys2Proof

/-- The word of `DCD` at offset `off` as it applies: as the last update, or the enable commit, found it (R268). -/
def State.dcdWord (s : State) (off : Nat) : W32 := s.dcd.words.getD ((off - 0x040) / 4) 0

/-- A field of DCD as it applies. -/
def State.dcdFld (s : State) (x : Fld) : Nat := bits (s.dcdWord x.off).toNat x.hi x.lo

/-- Coefficient `j` of `DCD_K` (R271) as it applies. -/
def State.dcdK (s : State) (j : Nat) : F32 := s.dcdWord (DCD.K.ix j).off

/-- The committed fields of DCD apply from now on (R268). -/
def State.dcdLatch (s : State) : State :=
  { s with dcd := { s.dcd with words := (List.range 39).map fun i => s.rd (pageBase DCD.pg + 0x040 + 4 * i) } }

/-- A fault of DCD with reaction FR2: logged, the FAULT event, and the block's own fault path (R264, R269). -/
def State.dcdTrip (s : State) (code : Nat) : State :=
  ((s.dcdFault).evt DCD.pg DCD.EVT_FAULT).raise code 2 0

/-! ### Commands (R261, R265) -/

/-- A write to `DCD_VSET` (R261): an RW register, so that a refused value changes nothing. -/
def State.dcdVset (s : State) (val : W32) : State :=
  if s.get DCD.pg DCD.STAT_STATE = 0 then s.countCmd DCD.pg
  else if fin_ val (s.dcdK 4) (s.dcdK 5) then s.setWord DCD.pg DCD.VSET val
  else s.refuse DCD.pg

/-- Vin of the last update lies between VIN_LO and VIN_HI. -/
def State.dcdVinOk (s : State) : Bool := fle (s.dcdK 12) s.dcd.vin && fle s.dcd.vin (s.dcdK 13)

/-- The commands of `DCD_CMD` (R265). -/
def State.dcdCmd (s : State) (op : Nat) : State :=
  let st := s.get DCD.pg DCD.STAT_STATE
  let run (ok : Bool) (f : State → State) := s.command DCD.pg DCD.CMD_LAST_STS ok f
  match op with
  | 1 =>
    run (st == 1 && s.dstate.running && !feq (s.rd (fldAddr DCD.pg DCD.VSET)) 0 && s.dcdVinOk) fun s =>
      { s with dcd := { s.dcd with testAt := s.now, startAt := s.now, passes := Vector.replicate 4 0,
                                   stale := 0, fresh := false } }
        |>.put DCD.pg DCD.PHST_FAIL_HS 0 |>.put DCD.pg DCD.PHST_FAIL_LS 0 |>.dcdGo 2
  | 2 => run (st == 2 || st == 3 || st == 4) fun s => s.dcdStop
  | 3 => run (st == 5 && !s.dcd.cond && !s.dcd.perBad) fun s => s.dcdGo 1
  | 4 => run true fun s => s.setWord DCD.pg DCD.CNT 0
  | _ => s.status DCD.pg DCD.CMD_LAST_STS .unknown

/-- DCD_VSET_WRITE: a write to `DCD_VSET`. -/
def execDcdVsetWrite (dt : Nat) (_req : Req) (val : W32) (s : State) : Host.Outcome State Fault Refusal :=
  .next ((s.advance dt).dcdVset val)

/-- DCD_START: IDLE to TEST. -/
def execDcdStart (dt : Nat) (_req : Req) (s : State) : Host.Outcome State Fault Refusal :=
  .next ((s.advance dt).blockCmd DCD.pg DCD.CMD_LAST_STS fun s => s.dcdCmd 1)

/-- DCD_STOP: back to IDLE. -/
def execDcdStop (dt : Nat) (_req : Req) (s : State) : Host.Outcome State Fault Refusal :=
  .next ((s.advance dt).blockCmd DCD.pg DCD.CMD_LAST_STS fun s => s.dcdCmd 2)

/-- DCD_ACK: FAULT to IDLE once the cause is gone. -/
def execDcdAck (dt : Nat) (_req : Req) (s : State) : Host.Outcome State Fault Refusal :=
  .next ((s.advance dt).blockCmd DCD.pg DCD.CMD_LAST_STS fun s => s.dcdCmd 3)

/-- DCD_CLR_CNT: the counts to 0. -/
def execDcdClrCnt (dt : Nat) (_req : Req) (s : State) : Host.Outcome State Fault Refusal :=
  .next ((s.advance dt).blockCmd DCD.pg DCD.CMD_LAST_STS fun s => s.dcdCmd 4)

/-! ### Pre-start test and soft start (R263, R264) -/

/-- Whether regular entry `e` of ADH converter `u` is the midpoint of phase `p`. -/
def State.dcdMidIs (s : State) (u e p : Nat) : Bool :=
  decide (p < s.dcdPhases) && s.get DCD.pg DCD.CFG_MH == u &&
    (match p with
      | 0 => s.dcdFld DCD.MID_E0
      | 1 => s.dcdFld DCD.MID_E1
      | 2 => s.dcdFld DCD.MID_E2
      | _ => s.dcdFld DCD.MID_E3) == e

/-- All configured phases have two passing results: soft start, every phase entering from f = 0 (R264, R267). -/
def State.dcdTestDone (s : State) : State :=
  if (List.finRange 4).all fun p => decide (s.dcdPhases ≤ p.1) || decide (2 ≤ vget s.dcd.passes p) then
    let s := if s.dcd.stopPins then s.dcdLow else s
    let modes : Vector PhaseMode 4 := Vector.ofFn fun p => if p.1 < s.dcdPhases then .enter 0 0 else .off
    { s with dcd := { s.dcd with modes := modes, vref := s.dcd.vout, ilim := false } }.dcdModes.dcdGo 3 |>.dcdRefresh
  else s

/-- A midpoint result `word`, held at `hold`, for phase `p` in TEST (R263). -/
def State.dcdMid (s : State) (p : Fin 4) (word : W32) (hold : Nat) : State :=
  if s.get DCD.pg DCD.STAT_STATE = 2 ∧ s.dcd.testAt < hold ∧ word.toNat.testBit 31 ∧ vget s.dcd.passes p < 2 then
    let r := fdiv (fmul (fint (signed 16 word.toNat)) (s.dcdK 20)) s.dcd.vin
    if flt (s.dcdK 19) r then
      (s.put DCD.pg DCD.PHST_FAIL_HS (s.get DCD.pg DCD.PHST_FAIL_HS ||| 2 ^ p.1)).dcdTrip 0x701
    else if fle (s.dcdK 18) r then
      { s with dcd := { s.dcd with passes := vset s.dcd.passes p (vget s.dcd.passes p + 1) } }.dcdTestDone
    else (s.put DCD.pg DCD.PHST_FAIL_LS (s.get DCD.pg DCD.PHST_FAIL_LS ||| 2 ^ p.1)).dcdTrip 0x702
  else s

/-- A regular result of ADH converter `u`, entry `e`, reaches every phase whose midpoint it is (R263). -/
def State.dcdEntry (s : State) (u e : Nat) (word : W32) (hold : Nat) : State :=
  (List.finRange 4).foldl (fun s (p : Fin 4) => if s.dcdMidIs u e p then s.dcdMid p word hold else s) s

/-- DCD_TEST_TIMEOUT: a phase has no result within 10 ms. -/
def execDcdTestTimeout (dt : Nat) (p : Fin 4) (s : State) : Host.Outcome State Fault Refusal :=
  let s := s.advance dt
  if s.get DCD.pg DCD.STAT_STATE = 2 ∧ s.dcd.testAt + 4000000 ≤ s.now ∧ p.1 < s.dcdPhases ∧ vget s.dcd.passes p < 2 then
    .next (s.dcdTrip 0x70A)
  else .next s

/-- Ticks of a duration in seconds given as binary32, rounded down. -/
def ticksOf (sec : F32) : Nat :=
  match fval sec with
  | .fin false n d => n * 400000000 / d
  | _ => 0

/-- SOFTSTART_TO: RUN is not reached within SS_TIME of START (R264). -/
def execSoftstartTo (dt : Nat) (s : State) : Host.Outcome State Fault Refusal :=
  let s := s.advance dt
  if s.get DCD.pg DCD.STAT_STATE = 3 ∧ s.dcd.startAt + ticksOf (s.dcdK 21) ≤ s.now then .next (s.dcdTrip 0x709)
  else .next s

/-! ### Period start (R256, R257, R259 to R262, R266 to R268) -/

/-- A phase is off, shedding, entering or active. -/
def PhaseMode.on : PhaseMode → Bool
  | .off => false
  | _ => true

/-- The share Φp/Φ of a phase, in 1/32 (R266, R267). -/
def PhaseMode.share : PhaseMode → Nat
  | .off => 0
  | .shed j => 4 * (8 - j)
  | .enter f j => 4 * f + (8 - f) * j
  | .active => 32

/-- The share of a shedding phase in eighths, which an abort takes as its factor f (R267). -/
def PhaseMode.eighths : PhaseMode → Nat
  | .shed j => 8 - j
  | .enter f j => (4 * f + (8 - f) * j) / 4
  | .active => 8
  | .off => 0

/-- A phase at the next period start. Entry period 4 carries the whole of Φ, so the phase is active in it, as in the
example of R268, where the hold-off starts with that period. -/
def PhaseMode.step (abort readd : Bool) : PhaseMode → PhaseMode
  | .off => if readd then .enter 0 1 else .off
  | .shed j => if abort then .enter (8 - j) 1 else if 8 ≤ j then .off else .shed (j + 1)
  | .enter f j => if 3 ≤ j then .active else .enter f (j + 1)
  | .active => .active

/-- The number of phases that switch. -/
def State.dcdActive (s : State) : Nat := ((List.finRange 4).filter fun p => (vget s.dcd.modes p).on).length

/-- ceil(Iout/I_SHED) (R266). -/
def ceilDiv (x y : F32) : Nat :=
  match fval x, fval y with
  | .fin false n d, .fin false m k => if m = 0 then 0 else (n * k + d * m - 1) / (d * m)
  | _, _ => 0

/-- The phases' modes after this period start (R266 to R268). The updates counted for a sequence are those with the same
number N of switching phases. -/
def State.dcdSequence (s : State) : State :=
  let d := s.dcd
  let inSeq := (List.finRange 4).any fun p => match vget d.modes p with
    | .shed _ => true
    | _ => false
  let anyOff := (List.finRange s.dcdPhases).any fun p => if h : p.1 < 4 then !(vget d.modes ⟨p.1, h⟩).on else false
  let readd := d.readd && anyOff && !inSeq
  let abort := d.abort && inSeq
  let modes := Vector.ofFn fun p : Fin 4 =>
    if p.1 < s.dcdPhases then (vget d.modes p).step abort readd else .off
  let entering (m : Vector PhaseMode 4) : Bool := (List.finRange 4).any fun p => match vget m p with
    | .enter _ _ => true
    | _ => false
  let ended := entering d.modes && !entering modes
  let moved := ((List.finRange 4).filter fun p => (vget modes p).on).length != s.dcdActive
  let s := { s with dcd := { d with modes := modes, abort := false, readd := false, hold := if moved then 0 else d.hold
                                    sinceReadd := if ended then 0 else d.sinceReadd + 1 } }
  let s := if readd then s.incSat DCD.pg DCD.CNT_READDS else s
  let s := if abort then
      ((s.incSat DCD.pg DCD.CNT_SHED_ABORT).evt DCD.pg DCD.EVT_SHED_ABORT).raise 0x70B 0 0
    else s
  -- a new sequence
  let n := s.dcdActive
  let allActive := (List.finRange 4).all fun p => match vget modes p with
    | .active | .off => true
    | _ => false
  let nmin := s.get DCD.pg DCD.CFG_NMIN + 1
  if s.get DCD.pg DCD.STAT_STATE = 4 ∧ s.dcdFld DCD.CFG_SHED_EN = 1 ∧ allActive ∧ nmin < n ∧
      s.dcdFld DCD.SHED_HOLD ≤ s.dcd.hold ∧ s.dcdFld DCD.SHED_HOLDOFF ≤ s.dcd.sinceReadd then
    let nt := max nmin (ceilDiv s.dcd.iout (s.dcdK 14))
    if nt < n then
      { s with dcd := { s.dcd with
          nt := nt, modes := Vector.ofFn fun p : Fin 4 => if nt ≤ p.1 ∧ (vget modes p).on then .shed 1 else vget modes p } }
        |>.incSat DCD.pg DCD.CNT_SHEDS
    else s
  else s

/-- Place one leg's period: the high side from `t` on, the low side from `t` + H on. -/
def Pins.half (p : Pins) (leg t h dead : Nat) : Pins := (p.leg leg t dead true).leg leg (t + h) dead false

/-- Drive the legs of phase `p` for the period that starts at `t` (R255, R256). The edges of a phase's next period replace
those of this one that do not lie before it, so that a shortened period is truncated at its end (R495). -/
def State.dcdPhase (s : State) (p t per phi : Nat) : State :=
  let h := per / 2
  let sp := t + p * per / (2 * s.dcdPhases)
  let dead := s.dcdFld DCD.DT
  let tim := s.get DCD.pg DCD.CFG_TIM0
  let one (s : State) (j t : Nat) := s.cpwPlace (tim + j / 3) fun q => q.half (j % 3) t h dead
  one (one s (2 * p) sp) (2 * p + 1) (sp + phi)

/-- vref at a period start in SOFTSTART and RUN (R261, R262): lowered while Iout is at I_LIM or above, held between 0.95·I_LIM
and I_LIM on the way back, and else moved toward the target. -/
def State.dcdSlew (s : State) (per : Nat) : State :=
  let d := s.dcd
  let tp := fmul (fdiv (fint per) (fint 128)) (fmul fTick (fint 1000))
  let v :=
    if fle (s.dcdK 9) d.iout then fsub d.vref (fmul (s.dcdK 10) tp)
    else if d.ilim then d.vref
    else
      let dv := fsub d.target d.vref
      if fle (fabs dv) (fmul (s.dcdK 6) tp) then d.target
      else fadd d.vref (fmul (fmul (fsign dv) (s.dcdK 6)) tp)
  { s with dcd := { d with vref := v } }

/-- Φ of this period, clamped to 0–PHI_MAX·H (R260). -/
def State.dcdPhi (s : State) (per : Nat) : State :=
  let lim := (ffloorInt (fmul (s.dcdK 17) (fint (per / 2 : Nat)))).toNat
  let phi := min s.dcd.phiIn lim
  let s := if lim < s.dcd.phiIn then s.incSat DCD.pg DCD.CNT_CLAMPS else s
  { s with dcd := { s.dcd with phi := phi } }.put DCD.pg DCD.PHI phi

/-- vref outside SOFTSTART and RUN: the measured Vout of the last update (R261). -/
def State.dcdFollow (s : State) : State := { s with dcd := { s.dcd with vref := s.dcd.vout } }

/-- vref goes into mailbox word 0 of the loop context (R259). -/
def State.dcdMail (s : State) : State := s.mboxWrite (s.dcdFld DCD.CTX) 0 s.dcd.vref

/-- A period start of DCD's lock group at fine time `t`, nominal period `per` (R256 to R268). -/
def State.dcdPeriod (s : State) (t per : Nat) : State :=
  let st := s.get DCD.pg DCD.STAT_STATE
  if st = 0 then s
  else
    let s := if s.dcd.stopPins then s.dcdLow else s
    let bad := decide (per < 800 * 128 ∨ 8000 * 128 < per)
    let again := bad && s.dcd.perBad && st == 5
    let idle (s : State) : State := s.dcdFollow.dcdMail
    let s := { s with dcd := { s.dcd with target := s.rd (fldAddr DCD.pg DCD.VSET), perBad := bad } }.dcdPhi per
    if bad then idle (if again then s else s.dcdTrip 0x70C)
    else if st = 3 ∨ st = 4 then
      let stale := if s.dcd.fresh then 0 else s.dcd.stale + 1
      let s := { s with dcd := { s.dcd with stale := stale, fresh := false } }
      if s.dcdFld DCD.STALE_MAX ≤ stale then idle (s.dcdTrip 0x708)
      else
        let s := (s.dcdSlew per).dcdSequence.dcdModes.dcdMail
        ((List.finRange 4).filter fun p => decide (p.1 < s.dcdPhases)).foldl (fun s p =>
          if (vget s.dcd.modes p).on then s.dcdPhase p t per (s.dcd.phi * (vget s.dcd.modes p).share / 32)
          else s.dcdPhaseLow p) s
    else idle s

/-! ### The update (R258, R262, R264, R267 to R269) -/

/-- The scaled value of a result word. -/
def scaled (word : W32) (k : F32) : F32 := fmul (fint (signed 16 word.toNat)) k

/-- Whether a result word has VALID (R115). -/
def isValid (word : W32) : Bool := word.toNat.testBit 31

/-- Count consecutive events. -/
def consec (c : Bool) (n : Nat) : Nat := if c then n + 1 else 0

/-- What a DCD update takes from slot 0 and slot 1 of its group, at the slot-1 latch (R258). A result with VALID at 0
takes no part: the quantity keeps its value. -/
def State.dcdTake (s : State) : State :=
  let st := s.get DCD.pg DCD.STAT_STATE
  let g := ADF.pg (s.get DCD.pg DCD.CFG_FG)
  let r0 (c : Nat) := s.rd (fldAddr g (ADF.RES0_LO.ix c))
  let r1 (c : Nat) := s.rd (fldAddr g (ADF.RES1_LO.ix c))
  let phs := List.range s.dcdPhases
  let allValid := isValid (r0 0) && isValid (r0 1) && isValid (r0 2) && phs.all fun p => isValid (r1 p)
  let d := s.dcd
  let vout := if isValid (r0 0) then scaled (r0 0) (s.dcdK 0) else d.vout
  let iout := if isValid (r0 1) then scaled (r0 1) (s.dcdK 1) else d.iout
  let vin := if isValid (r0 2) then scaled (r0 2) (s.dcdK 2) else d.vin
  let inval := consec (!allValid) d.inval
  let ov := fle (s.dcdK 7) vout
  let nOv := consec ov d.ov
  let nUv := consec (st == 4 && flt vout (s.dcdK 8)) d.uv
  let iph := phs.any fun p => isValid (r1 p) && fle (s.dcdK 11) (scaled (r1 p) (s.dcdK 3))
  let nIph := consec iph d.iph
  let vinBad := !(fle (s.dcdK 12) vin && fle vin (s.dcdK 13))
  let nVin := consec (vinBad && (st == 2 || st == 3 || st == 4)) d.vinBad
  let ms := fmul (fsec (s.now - d.updAt)) (fint 1000)
  let slew := fdiv (fsub iout d.iout) ms
  let squall := d.hasUpd && flt (s.dcdK 16) slew
  let inSeq := (List.finRange 4).any fun p => match vget d.modes p with
    | .shed _ => true
    | _ => false
  let n := s.dcdActive
  let lim := flt (fmul (fint (if inSeq then d.nt else n)) (s.dcdK 15)) iout
  let anyOff := decide (n < s.dcdPhases)
  let ilimNow := fle (s.dcdK 9) iout
  let ilim := if ilimNow then true else if flt iout (fmul (frat 19 20) (s.dcdK 9)) then false else d.ilim
  let hold := consec (flt iout (fmul (fint (n - 1 : Nat)) (s.dcdK 14))) d.hold
  let s := { s with dcd := { d with
    vout := vout, iout := iout, vin := vin, inval := inval, ov := nOv, uv := nUv, iph := nIph, vinBad := nVin,
    updAt := s.now, hasUpd := true, ilim := ilim, hold := hold,
    abort := d.abort || (inSeq && (squall || lim)),
    readd := d.readd || (!inSeq && anyOff && st == 4 && (squall || lim)),
    cond := ov || iph || !allValid || vinBad } }
  let s := (s.setWord DCD.pg DCD.VOUT vout).setWord DCD.pg DCD.IOUT iout
  s.evtIf squall DCD.pg DCD.EVT_SQUALL

/-- The faults whose count of updates in a row is full. -/
def State.dcdTrips (s : State) : List Nat :=
  let d := s.dcd
  (if d.inval = 2 then [0x70A] else []) ++ (if d.ov = 2 then [0x703] else []) ++ (if d.uv = 8 then [0x704] else []) ++
    (if d.iph = 2 then [0x706] else []) ++ (if d.vinBad = 4 then [0x707] else [])

/-- A DCD update (R258): committed fields apply from it on (R268), then the faults, the current limit and the end of
SOFTSTART. -/
def State.dcdUpdate (s : State) : State :=
  let st := s.get DCD.pg DCD.STAT_STATE
  if st = 0 then s
  else
    let limited := s.dcd.ilim
    let s := s.dcdLatch.dcdTake
    let s := if st = 3 ∨ st = 4 then s else s.dcdFollow
    let s := s.setWord DCD.pg DCD.VREF s.dcd.vref
    if s.dcdTrips ≠ [] then s.dcdTrips.foldl State.dcdTrip s
    else
      let s := if fle (s.dcdK 9) s.dcd.iout && !limited && (st == 3 || st == 4) then (s.evt DCD.pg DCD.EVT_ILIM).raise 0x705 1 0 else s
      if st = 3 ∧ feq s.dcd.vref s.dcd.target ∧ fle (fabs (fsub s.dcd.vout s.dcd.vref)) (s.dcdK 22) then s.dcdGo 4
      else s

end Sys2Proof.Machine
end

