-- ==== Sys2Proof/Machine/Tpw.lean ====
section
/-! DEFINITION. The traction PWM tri-legs: shadows, update points, minimum pulse, edges, patterns and faults (R91 to
R113, R495). -/

namespace Sys2Proof.Machine
open Sys2Proof

/-! ### Shadow triplets (R97, R98) -/

/-- Keep the shadow triplet and NEW as they stand at the start of the tick. -/
def State.tpwKeep (s : State) (n : Fin 6) : State :=
  let h := vget s.tpw n
  if h.prevTick = s.now + 1 then s
  else
    let p := TPW.pg n
    s.tpwSet n fun h => { h with
      prevTick := s.now + 1, prevNew := s.on p TPW.STAT_NEW
      prevCmp := (s.get p (TPW.CMP.ix 0), s.get p (TPW.CMP.ix 1), s.get p (TPW.CMP.ix 2)) }

/-- The members of machine m that its supervisor uses (R91, R247). -/
def State.msvMembers (s : State) (m : Nat) : List Nat :=
  match s.get (MSV.pg m) MSV.STAT_SET_MODE with
  | 1 => [2 * m]
  | 2 => [2 * m + 1]
  | _ => s.triLegs m

/-- A request on tri-leg `n`, if there is such a one. -/
def State.tpwAsk (s : State) (n pat : Nat) : State := if h : n < 6 then s.tpwRequest ⟨n, h⟩ pat else s

/-- A triplet of tri-leg `n` is complete (R97); after a one-set swap, the healthy member is asked for SWITCH (R247); without TRACK the
HOLD goes on as that of R244. -/
def State.tpwComplete (s : State) (n : Fin 6) : State :=
  let m := n.1 / 2
  let s := (s.flag (TPW.pg n) TPW.STAT_NEW true).tpwSet n fun h => { h with newAt := s.now + 1 }
  if (s.msvH m).healing ∧ s.msvSt m = 5 ∧ s.msvMembers m = [n.1] then
    if s.posTrack m then (s.tpwAsk n 0).msvSet m fun h => { h with healing := false, ret := true, tqScale := 0 }
    else s.msvSet m fun h => { h with healing := false, holdSet := false }
  else s

/-- A write of one shadow by requester `req` (R97); leg 2 completes the triplet. -/
def State.tpwCmp (s : State) (req : Nat) (n : Fin 6) (leg : Fin 3) (val : Nat) : State :=
  let p := TPW.pg n
  let ok := if s.on p TPW.CFG_CMP_SRC then decide (req ≤ 2) else req == 7
  if ok then
    let s := (s.tpwKeep n).put p (TPW.CMP.ix leg) val
    if leg = 2 then s.tpwComplete n else s
  else s.refuse p

/-- A Cirrus STORE writes all three shadows in its commit tick (R97, R205). -/
def State.tpwStore (s : State) (n : Fin 6) (a b c : Nat) : State :=
  ((s.tpwCmp 7 n 0 a).tpwCmp 7 n 1 b).tpwCmp 7 n 2 c

/-- TPW_CMP_WRITE: a write to one shadow compare register. -/
def execTpwCmpWrite (dt : Nat) (req : Req) (n : Fin 6) (leg : Fin 3) (val : W32) (s : State) :
    Host.Outcome State Fault Refusal :=
  .next ((s.advance dt).tpwCmp req n leg val.toNat)

/-! ### The arithmetic of an update point (R96, R98, R100) -/

/-- W of R100 in fine units. -/
def State.tpwW (s : State) (n : Fin 6) : Nat := s.get (TPW.pg n) TPW.MINP * 128 + s.get (TPW.pg n) TPW.DT

/-- The DISC shift of R96. -/
def discShift (mode h a b c : Nat) : Int :=
  let lo := min a (min b c)
  let hi := max a (max b c)
  match mode with
  | 2 => -(lo : Int)
  | 3 => (h : Int) - hi
  | 4 => if lo + hi ≤ h then -(lo : Int) else (h : Int) - hi
  | _ => 0

/-- The minimum-pulse rule for one value within length `l`. -/
def minPulse (extend : Bool) (w l c : Nat) : Nat :=
  if 0 < c ∧ c < w then (if extend then w else 0)
  else if c < l ∧ l - c < w then (if extend then l - w else l)
  else c

/-- The length L of R100. -/
def tpwLen (mode p : Nat) : Nat := if mode = 1 then p else p / 2

/-- The minimum-pulse check of R108. -/
def State.tpwPulseOk (s : State) (n : Fin 6) (p : Nat) : Bool :=
  decide (2 * s.tpwW n ≤ tpwLen (s.get (TPW.pg n) TPW.CFG_MODE) p)

/-- The range of R93. -/
def tpwPeriodOk (p : Nat) : Bool := decide (4000 * 128 ≤ p ∧ p ≤ 200000 * 128)

/-! ### Faults (R106, R109, R111) -/

/-- A fault is latched on tri-leg `n`; an unused odd tri-leg holds no latch (R112). -/
def State.tpwLatch (s : State) (n : Fin 6) (bit : Nat) : State :=
  if s.tpwUsed n then s.tpwSet n fun h => { h with latch := setBits h.latch bit bit 1 } else s

/-- A tri-leg fault of reaction FR4: latched on the tri-leg, forced low at once, and raised for its machine. -/
def State.tpwTrip (s : State) (n : Fin 6) (bit : Nat) (evt : Fld) (code : Nat) : State :=
  let s := s.tpwLatch n bit
  ((s.tpwRefresh n).evt (TPW.pg n) evt).raise code 4 (2 ^ (n.1 / 2))

/-- OUT_MISMATCH: a ball differs from its commanded level for more than 8 ticks. -/
def execOutMismatch (dt : Nat) (n ball : Fin 6) (s : State) : Host.Outcome State Fault Refusal :=
  let s := s.advance dt
  .next ((s.tpwSet n fun h => { h with mis := setBits h.mis ball ball 1 }).tpwTrip n 3 TPW.EVT_OUT_MISMATCH 0x204)

/-- SHOOT_THROUGH: both balls of a leg read high for 2 ticks; all six pins go low in the tick after detection. -/
def execShootThrough (dt : Nat) (n : Fin 6) (leg : Fin 3) (s : State) : Host.Outcome State Fault Refusal :=
  let s := s.advance dt
  let s := s.tpwSet n fun h => { h with mis := setBits h.mis (2 * leg + 1) (2 * leg) 3, fw := none }
  let s := if s.tpwIs n 4 then s else s.tpwPatternAt n 4 3 (s.fineNow + 128)
  .next (s.tpwTrip n 4 TPW.EVT_SHOOT 0x205)

/-! ### Supervisors that wait for SWITCH (R244, R247, R250) -/

/-- RUN ends DONE, and a HOLD returns to its origin, once every member in use reads SWITCH. -/
def State.msvSwitched (s : State) (m : Nat) : State :=
  let all := (s.msvMembers m).all fun n => s.tpwIs n 0
  let h := s.msvH m
  if h.runPend.isSome ∧ all then
    ((s.msvSet m fun h => { h with runPend := none }).put (MSV.pg m) MSV.CMD_LAST_STS 1).msvGo m 3
  else if h.ret ∧ s.msvSt m = 5 ∧ all then
    (s.msvSet m fun h => { h with ret := false, recAt := some s.now, holdSet := false }).msvGo m
      (s.get (MSV.pg m) MSV.STAT_HOLD_FROM)
  else s

/-- An update point of member `n` passes while RUN is pending (R250): past the stale limit without SWITCH, RUN ends
ABORTED and the request returns to PI. -/
def State.msvUpdatePoint (s : State) (n : Fin 6) : State :=
  let m := n.1 / 2
  match (s.msvH m).runPend with
  | some ms =>
    let ms := ms.map fun e => if e.1 = n.1 ∧ ¬ s.tpwIs n 0 then (e.1, e.2 + 1) else e
    let s := s.msvSet m fun h => { h with runPend := some ms }
    if ms.any fun e => !s.tpwIs e.1 0 && decide (s.get (TPW.pg e.1) TPW.STALE_MAX ≤ e.2) then
      let s := (s.msvSet m fun h => { h with runPend := none }).put (MSV.pg m) MSV.CMD_LAST_STS 7
      (s.msvMembers m).foldl (fun s k => s.tpwAsk k 1) s
    else s.msvSwitched m
  | none => s.msvSwitched m

/-! ### Edges (R94, R95, R495) -/

/-- Place the edges of one half or one whole period that begins at fine time `t`, `q` being the three active values, `p`
the nominal period and `len` the length that remains (R94, R495). The answer counts the adjustments of R495. -/
def State.tpwPlace (s : State) (n : Fin 6) (t : Nat) (half : Bool) (p len : Nat) : State :=
  let pg := TPW.pg n
  let dead := s.get pg TPW.DT
  let w := s.tpwW n
  let ext := s.on pg TPW.CFG_MINP_MODE
  let h := p / 2
  let single := !s.on pg TPW.CFG_UPD
  let edge := s.get pg TPW.CFG_MODE == 1
  [0, 1, 2].foldl (fun s l =>
    let c := s.get pg (TPW.ACT.ix l)
    let pins (s : State) (f : Pins → Pins) := s.tpwSet n fun x => { x with pins := f x.pins }
    -- low share that remains at the end of a shortened half, under the minimum-pulse rule
    let tail (s : State) (from_ high rest : Nat) : State :=
      -- the leg is high for `high` from `from_` on; `rest` is the length to the next start
      if high = 0 then pins s fun q => q.leg l from_ dead false
      else
        let short := decide (rest < high)
        let low := minPulse ext w rest (if short then 0 else rest - high)
        let s := if low ≠ (if short then 0 else rest - high) then (s.incSat pg TPW.CNT_MINP_CNT).evt pg TPW.EVT_MINP_HIT else s
        pins s fun q =>
          let q := q.leg l from_ dead true
          if low = 0 ∨ short then q else q.leg l (from_ + (rest - low)) dead false
    if edge then
      (if len < p then tail s t c len
       else pins s fun q =>
         if c = 0 then q.leg l t dead false
         else if c < p then (q.leg l t dead true).leg l (t + c) dead false else q.leg l t dead true)
    else
      let first (s : State) : State := pins s fun q =>
        if c = 0 then q.leg l t dead true
        else if h ≤ c then q.leg l t dead false
        else (q.leg l t dead false).leg l (t + c) dead true
      let second (s : State) (t2 len2 : Nat) : State :=
        let hi := (p - h) - c
        if len2 < p - h then tail s t2 hi len2
        else pins s fun q =>
          if c = 0 then q.leg l t2 dead true
          else if h ≤ c then q.leg l t2 dead false
          else (q.leg l t2 dead true).leg l (t2 + hi) dead false
      if half then second s t len
      else if single then second (first s) (t + h) (len - h)
      else first s) s

/-! ### Update points (R98, R99, R102, R104) -/

/-- The pattern that an update point brings: MSV's SWITCH, or else the firmware request (R102); SWITCH waits for NEW. -/
def State.tpwTake (s : State) (n : Fin 6) (new : Bool) : State :=
  let h := vget s.tpw n
  let act := s.get (TPW.pg n) TPW.PAT_ACTIVE
  if !s.tpwMayDrive n then s.tpwSet n fun h => { h with fw := none }
  else match h.req with
    | some 0 => if act ≠ 0 ∧ new then s.tpwPattern n 0 1 else if act = 0 then s.put (TPW.pg n) TPW.PAT_SRC 1 else s
    | some _ => s
    | none =>
      match h.fw with
      | some 0 => if new then (s.tpwPattern n 0 0).tpwSet n fun h => { h with fw := none } else s
      | some k => (s.tpwPattern n k 0).tpwSet n fun h => { h with fw := none }
      | none => s

/-- The end of the period of tri-leg `n` in which fine time `t` lies (R93, R495), `per` being its nominal period: the next
period start of the group, or H after it with HALF_SHIFT. -/
def State.tpwEnd (s : State) (n : Fin 6) (t per : Nat) : Nat :=
  let h := vget s.tpw n
  if s.on (TPW.pg n) TPW.CFG_HALF_SHIFT then
    if t < h.perStart + per / 2 then h.perStart + per / 2 else h.perStart + h.perLen + per / 2
  else h.perStart + h.perLen

/-- An update point of tri-leg `n` at fine time `t`, in a period of nominal length `per`; `half` tells whether it starts a
second half. -/
def State.tpwUpdate (s : State) (n : Fin 6) (t : Nat) (half : Bool) (per : Nat) : State :=
  let p := TPW.pg n
  let h := vget s.tpw n
  let mode := s.get p TPW.CFG_MODE
  let len := tpwLen mode per
  let kept := h.prevTick == s.now + 1
  let new := if kept then h.prevNew else s.on p TPW.STAT_NEW
  let (a, b, c) := if kept then h.prevCmp
    else (s.get p (TPW.CMP.ix 0), s.get p (TPW.CMP.ix 1), s.get p (TPW.CMP.ix 2))
  let s := ((s.put64 p TPW.LASTUPD_LO s.now).flag p TPW.STAT_HALF half).evt p TPW.EVT_UPD
  let s :=
    if new then
      -- step 1: the copy; a triplet completed in this very tick stays NEW
      let s := (s.flag p TPW.STAT_NEW (h.newAt == s.now + 1)).put p TPW.CNT_STALE_RUN 0
      -- step 2: the clamp
      let above := ([a, b, c].filter fun x => decide (len < x)).length
      let s := (List.range above).foldl (fun s _ => s.incSat p TPW.CNT_CLAMP_CNT) s
      let s := if above = 0 then s else (s.evt p TPW.EVT_CMP_CLAMP).raise 0x203 1 (2 ^ (n.1 / 2))
      let (a, b, c) := (min a len, min b len, min c len)
      -- step 3: the shift
      let sh := discShift mode (per / 2) a b c
      let add (x : Nat) : Nat := ((x : Int) + sh).toNat
      -- step 4: the minimum pulse
      let mp (x : Nat) := minPulse (s.on p TPW.CFG_MINP_MODE) (s.tpwW n) len (add x)
      let hits := ([a, b, c].filter fun x => mp x != add x).length
      let s := (List.range hits).foldl (fun s _ => s.incSat p TPW.CNT_MINP_CNT) s
      let s := s.evtIf (hits != 0) p TPW.EVT_MINP_HIT
      ((s.put p (TPW.ACT.ix 0) (mp a)).put p (TPW.ACT.ix 1) (mp b)).put p (TPW.ACT.ix 2) (mp c)
    else s.incSat p TPW.CNT_STALE_RUN
  let s := s.tpwTake n new
  let s :=
    if !new && s.get p TPW.PAT_ACTIVE == 0 && s.get p TPW.CNT_STALE_RUN == s.get p TPW.STALE_MAX then
      s.tpwTrip n 1 TPW.EVT_CMP_STALE 0x202
    else s
  -- step 5: the edges
  let s := if s.get p TPW.PAT_ACTIVE = 0 then s.tpwPlace n t half per (s.tpwEnd n t per - t) else s
  s.msvUpdatePoint n

/-- TPW_UPDATE_POINT: the update point of this tick. -/
def execTpwUpdatePoint (dt : Nat) (n : Fin 6) (s : State) : Host.Outcome State Fault Refusal :=
  let s := s.advance dt
  let due := (vget s.tpw n).due.filter fun e => decide (s.now ≤ e.1 / 128)
  let s := s.tpwSet n fun h => { h with due := due }
  match due with
  | (t, (half, per)) :: rest =>
    if t / 128 = s.now ∧ s.on (TPW.pg n) HDR.CTRL_EN then
      .next ((s.tpwSet n fun h => { h with due := rest }).tpwUpdate n t half per)
    else .next s
  | [] => .next s

/-- A period start of the group of tri-leg `n` at fine time `t` (R93, R98, R107, R109). With HALF_SHIFT the tri-leg's own
period starts H later, and the second half of its last period ends there. -/
def State.tpwPeriod (s : State) (n : Fin 6) (t per len : Nat) : State :=
  let p := TPW.pg n
  let h := vget s.tpw n
  if s.on p HDR.CTRL_EN then
    let bad := !(tpwPeriodOk per && s.tpwPulseOk n per)
    let half := per / 2
    let shift := s.on p TPW.CFG_HALF_SHIFT
    let left := h.due.filter fun e => decide (e.1 / 128 = s.now) || (shift && decide (s.now ≤ e.1 / 128 ∧ e.1 < t + half))
    let start := if shift then t + half else t
    let pts : List (Nat × (Bool × Nat)) :=
      if bad then []
      else if s.on p TPW.CFG_UPD then [(start, (false, per)), (start + half, (true, per))]
      else [(start, (false, per))]
    let s := (s.tpwSet n fun h => { h with
      perStart := t, perNom := per, perLen := len, due := if bad then [] else left ++ pts })
      |>.flag p TPW.STAT_RUNNING (tpwPeriodOk per)
    if bad then (s.flag p TPW.STAT_RANGE_ERR true).tpwTrip n 0 TPW.EVT_PERIOD_RANGE 0x201 else s
  else s.tpwSet n fun h => { h with perStart := t, perNom := per, perLen := len, due := [] }

/-! ### Firmware patterns (R101 to R103) -/

/-- A write to `TPW_PAT.CMD`. -/
def State.tpwCmd (s : State) (n : Fin 6) (cmd : Nat) : State :=
  let p := TPW.pg n
  if 4 ≤ cmd ∨ s.dstate = .safeHold ∨ (cmd ≠ 1 ∧ s.dstate ≠ .drive) ∨ (vget s.tpw n).req.isSome then s.countCmd p
  else s.tpwSet n fun h => { h with fw := some cmd }

/-- TPW_PAT_SWITCH: firmware requests SWITCH. -/
def execTpwPatSwitch (dt : Nat) (_req : Req) (n : Fin 6) (s : State) : Host.Outcome State Fault Refusal :=
  .next ((s.advance dt).tpwCmd n 0)

/-- TPW_PAT_PI: firmware requests pulse inhibit. -/
def execTpwPatPi (dt : Nat) (_req : Req) (n : Fin 6) (s : State) : Host.Outcome State Fault Refusal :=
  .next ((s.advance dt).tpwCmd n 1)

/-- TPW_PAT_ASC_LOW: firmware requests ASC on the low side. -/
def execTpwPatAscLow (dt : Nat) (_req : Req) (n : Fin 6) (s : State) : Host.Outcome State Fault Refusal :=
  .next ((s.advance dt).tpwCmd n 2)

/-- TPW_PAT_ASC_HIGH: firmware requests ASC on the high side. -/
def execTpwPatAscHigh (dt : Nat) (_req : Req) (n : Fin 6) (s : State) : Host.Outcome State Fault Refusal :=
  .next ((s.advance dt).tpwCmd n 3)

/-! ### Acknowledgement (R112) -/

/-- The levels of the balls of tri-leg `n` as an ACK finds them: the commanded ones, and a free level on a ball that a fault
found to differ. -/
def State.tpwBalls (s : State) (n : Fin 6) : Nat × State :=
  let h := vget s.tpw n
  let lv := h.pins.levels s.fineNow
  (List.range 6).foldl (fun (a : Nat × State) b =>
    if h.mis.testBit b then
      let (x, t) := a.2.freshBit
      (setBits a.1 b b (b2n x), t)
    else a) (lv, s)

/-- An accepted ACK examines tri-leg `n`: the latches whose condition is gone clear; the answer tells whether any
remains. -/
def State.tpwAck (s : State) (n : Fin 6) : Bool × State :=
  let p := TPW.pg n
  let h := vget s.tpw n
  let (balls, s) := s.tpwBalls n
  let differ := balls != h.pins.levels s.fineNow
  let range := h.latch.testBit 0 && !(tpwPeriodOk h.perNom && s.tpwPulseOk n h.perNom)
  let keep := (if range then 1 else 0) + (if differ then h.latch &&& 24 else 0)
  let s := if h.latch.testBit 1 then s.put p TPW.CNT_STALE_RUN 0 else s
  let s := s.tpwSet n fun h => { h with latch := keep, mis := if differ then h.mis else 0 }
  (keep != 0, (s.flag p TPW.STAT_RANGE_ERR range).tpwRefresh n)

end Sys2Proof.Machine
end

