-- ==== Sys2Proof/Machine/Traction.lean ====
section
/-! DEFINITION. The machine supervisors MSV0 to MSV2 and the brake chopper BCH (R230 to R254), with the SS1 envelope and
the torque window that Halo evaluates at each MSV update (R347, R350). -/

namespace Sys2Proof.Machine
open Sys2Proof

/-! ### Coefficients and readings -/

/-- Coefficient `j` of `MSV_K` of machine m (R253). -/
def State.msvK (s : State) (m j : Nat) : F32 := s.rd (fldAddr (MSV.pg m) (MSV.K.ix j))

/-- Coefficient `j` of `BCH_K` (R254). -/
def State.bchK (s : State) (j : Nat) : F32 := s.rd (fldAddr BCH.pg (BCH.K.ix j))

/-- The speed of `POS_SPD` (R236). -/
def State.posSpeed (s : State) (m : Nat) : F32 := s.rd (fldAddr (POS.pg m) POS.SPD)

/-- The state code of POSm. -/
def State.posState (s : State) (m : Nat) : Nat := s.get (POS.pg m) POS.ANG_STATE

/-- Slot-0 result word of converter `c` of ADF group `g`. -/
def State.adfRes0 (s : State) (g c : Nat) : W32 := s.rd (fldAddr (ADF.pg g) (ADF.RES0_LO.ix c))

/-- Three phase quantities. -/
structure Abc where
  a : F32
  b : F32
  c : F32
deriving DecidableEq, Repr

/-- The phase currents of ADF group `g` at slot 0, with scale `k`. -/
def State.phaseCurrents (s : State) (g : Nat) (k : F32) : Abc :=
  ⟨scaled (s.adfRes0 g 0) k, scaled (s.adfRes0 g 1) k, scaled (s.adfRes0 g 2) k⟩

/-- The phase voltages that tri-leg `n` applies, from its active compare values (R215). -/
def State.phaseVoltages (s : State) (n : Nat) (vdc : F32) (i : Abc) : Abc :=
  if h : n < 6 then
    if s.tpwIs n 2 ∨ s.tpwIs n 3 then ⟨0, 0, 0⟩
    else
      let pg := TPW.pg n
      let p := fint (vget s.tpw ⟨n, h⟩).perNom
      let half := fint ((vget s.tpw ⟨n, h⟩).perNom / 2 : Nat)
      let d (l : Nat) :=
        let c := fint (s.get pg (TPW.ACT.ix l))
        if s.get pg TPW.CFG_MODE = 1 then fdiv c p else fsub f1 (fdiv c half)
      let mean := fdiv (fadd (fadd (d 0) (d 1)) (d 2)) (fint 3)
      let drop := fdiv (fmul vdc (fint (s.get pg TPW.DT))) p
      let v (l : Nat) (i : F32) := fsub (fmul (fsub (d l) mean) vdc) (fmul (fsign i) drop)
      ⟨v 0 i.a, v 1 i.b, v 2 i.c⟩
  else ⟨0, 0, 0⟩

/-- CLARKE3 of R187. -/
def clarke3 (x : Abc) : F32 × F32 :=
  (fmul (fsub (fsub (fadd x.a x.a) x.b) x.c) (frat 1 3), fmul (fsub x.b x.c) fInvSqrt3)

/-- √(a² + b²). -/
def fhypot (a b : F32) : F32 := fsqrt (fadd (fmul a a) (fmul b b))

/-! ### The torque command (R232, R248) -/

/-- A write to `MSV_TCMD`: only the requester that TSRC names writes it, and each accepted write restarts the timer. -/
def State.msvTcmd (s : State) (req m : Nat) (val : W32) : State :=
  let src := s.get (MSV.pg m) MSV.CFG_TSRC
  if (src = 0 ∧ req ≤ 1) ∨ (src = 1 ∧ req = 9) then
    (s.setWord (MSV.pg m) MSV.TCMD val).msvSet m fun h => { h with cmdAt := s.now }
  else s.refuse (MSV.pg m)

/-- MSV_TCMD_WRITE: a write to `MSV_TCMD`. -/
def execMsvTcmdWrite (dt : Nat) (req : Req) (m : Fin 3) (val : W32) (s : State) : Host.Outcome State Fault Refusal :=
  .next ((s.advance dt).msvTcmd req m val)

/-- TCMD_TIMEOUT: in RUN no accepted write arrived within `MSV_TCMDTO`. -/
def execTcmdTimeout (dt : Nat) (m : Fin 3) (s : State) : Host.Outcome State Fault Refusal :=
  let s := s.advance dt
  let p := MSV.pg m
  let h := s.msvH m
  if s.msvSt m = 3 ∧ s.get p MSV.CFG_TSRC ≤ 1 ∧ ¬ h.lost ∧ h.cmdAt + s.get p MSV.TCMDTO_TO ≤ s.now then
    let s := (s.msvSet m fun h => { h with lat606 := true }).evt p MSV.EVT_CMDLOSS
    if s.on p MSV.CFG_LH_AUTO then
      .next (((s.msvSet m fun h => { h with lost := true, lhBad := 0 }).lhActive m).note 0x606 1 (2 ^ m.1) 0)
    else .next ((s.raise 0x606 2 (2 ^ m.1)).msvStop m)
  else .next s

/-- LH_PIN_SAMPLE: one 12-bit conversion of a command pin, 4,000 ticks or more after the one before; the last 16 are kept. -/
def execLhPinSample (dt : Nat) (pin : Fin 9) (code : BitVec 12) (s : State) : Host.Outcome State Fault Refusal :=
  let s := s.advance dt
  let c := vget s.pin pin
  if c.convAt.all fun t => decide (t + 4000 ≤ s.now) then
    .next { s with pin := vset s.pin pin { c with codes := (code :: c.codes).take 16, convAt := some s.now } }
  else .next s

/-- CMD_PIN_EDGE: an edge of a command pin is stamped; two rising edges give a full period. -/
def execCmdPinEdge (dt : Nat) (pin : Fin 9) (falling : Bool) (s : State) : Host.Outcome State Fault Refusal :=
  let s := s.advance dt
  let c := vget s.pin pin
  let c' : CmdPin :=
    if falling then { c with fall := some s.now }
    else
      let full := match c.rise, c.fall with
        | some r, some f => if r ≤ f then some (s.now - r, f - r) else c.full
        | _, _ => c.full
      { c with rise := some s.now, full := full }
  .next { s with pin := vset s.pin pin c' }

/-- The normalised reading u of a command pin in a mode of R248, none where it is invalid. DEDUCED (log 94): a duty reading is
invalid once the present period has outlasted the longest valid one, for an unconnected pin has no edge. -/
def State.pinReading (s : State) (pin : Fin 9) (mode fLo fHi : Nat) : Option F32 :=
  let c := vget s.pin pin
  match mode with
  | 0 =>
    let n : Nat := c.codes.length
    let sum := (c.codes.map Config.pinMicrovolts).sum
    if n ≠ 0 ∧ 330000 * n ≤ sum ∧ sum ≤ 2970000 * n then
      some (fdiv (fsub (frat sum (1000000 * n)) (frat 33 100)) (frat 264 100))
    else none
  | 1 =>
    match c.full with
    | some (p, h) =>
      if s.now ≤ c.rise.getD 0 + 4000000 ∧ 200000 ≤ p ∧ p ≤ 4000000 ∧ p ≤ 10 * h ∧ 10 * h ≤ 9 * p then
        some (fdiv (fsub (frat h p) (frat 1 10)) (frat 8 10))
      else none
    | none => none
  | 2 =>
    let last := max (c.rise.getD 0) (c.fall.getD 0)
    match c.full with
    | some (p, _) =>
      if fLo * p ≤ 400000000 ∧ 400000000 ≤ fHi * p ∧ (s.now - last) * fLo ≤ 800000000 then
        some (fdiv (fsub (frat 400000000 p) (fint fLo)) (fint ((fHi : Int) - fLo)))
      else none
    | none => none
  | _ => none

/-- The limp-home reading of an update (R248): a third invalid one in a row while it is the source raises 0x607. The
answer tells whether the fault is to be raised. -/
def State.msvLimp (s : State) (m : Nat) : State × Bool :=
  let p := MSV.pg m
  let u := if h : m < 9 then s.pinReading ⟨m, h⟩ (s.get p MSV.LH_MODE) (s.get p MSV.LH_F_LO) (s.get p MSV.LH_F_HI) else none
  match u with
  | some u =>
    (s.msvSet m fun h => { h with
      lhCmd := fadd (s.msvK m 17) (fmul u (fsub (s.msvK m 18) (s.msvK m 17))), lhBad := 0 }, false)
  | none =>
    let n := if s.on p MSV.STAT_LH_ACTIVE then (s.msvH m).lhBad + 1 else 0
    (s.msvSet m fun h => { h with lhBad := n }, n == 3)

/-! ### The update (R230 to R239) -/

/-- The torque command of the present state (R232, R235); in HOLD that of its origin, and 0 outside RUN and STOP. -/
def State.msvCommand (s : State) (m : Nat) (w : F32) : F32 :=
  let st := s.msvSt m
  match (if st = 5 then s.get (MSV.pg m) MSV.STAT_HOLD_FROM else st) with
  | 3 => if s.on (MSV.pg m) MSV.STAT_LH_ACTIVE then (s.msvH m).lhCmd else s.rd (fldAddr (MSV.pg m) MSV.TCMD)
  | 4 => if flt (s.msvK m 7) (fabs w) then fneg (fmul (fsign w) (s.msvK m 19)) else 0
  | _ => 0

/-- The limits of R233: (hi, lo). -/
def State.msvLimits (s : State) (m : Nat) (vdc w : F32) : F32 × F32 :=
  let k := s.msvK m
  let tg := fmul (k 1) (fclamp (fdiv (fsub (k 22) vdc) (fsub (k 22) (k 21))) 0 f1)
  let tm := fmul (k 0) (fclamp (fdiv (fsub (fadd (k 4) (k 5)) (fabs w)) (k 5)) 0 f1)
  let tm := if flt vdc (k 24) then 0 else tm
  let (hi, lo) := if fle 0 w then (tm, fneg tg) else (tg, fneg tm)
  let dir := s.get (MSV.pg m) MSV.STAT_DIR
  let lo := if dir = 1 ∧ fle w (k 7) then fmax lo 0 else lo
  let hi := if dir = 2 ∧ fle (fneg (k 7)) w then fmin hi 0 else hi
  if s.get (MSV.pg m) MSV.STAT_SET_MODE = 0 then (hi, lo) else (fmul hi (k 16), fmul lo (k 16))

/-- TQ_SCALE at this update (R244). -/
def State.msvScale (s : State) (m : Nat) : State :=
  match (s.msvH m).recAt with
  | some t =>
    let x := fdiv (fsec (s.now - t)) (s.msvK m 20)
    if fle f1 x then s.msvSet m fun h => { h with tqScale := f1, recAt := none }
    else s.msvSet m fun h => { h with tqScale := x }
  | none => s

/-- T_REF of this update (R233). -/
def State.msvTorque (s : State) (m : Nat) (w hi lo : F32) : State :=
  let h := s.msvH m
  let target := fclamp (s.msvCommand m w) lo hi
  let dt := match h.lastUpd with
    | some t => fsec (s.now - t)
    | none => 0
  let step := fmul (s.msvK m 3) dt
  let d := fsub target h.tr
  let tr :=
    if flt hi h.tr ∨ flt h.tr lo then fclamp h.tr lo hi
    else if fle (fabs d) step then target
    else fadd h.tr (fmul (fsign d) step)
  let t := fmul tr h.tqScale
  let t := if s.get (MSV.pg m) MSV.STAT_SET_MODE = 0 then t else fmul t f2
  (s.msvSet m fun h => { h with tr := tr, tref := t, lastUpd := some s.now }).setWord (MSV.pg m) MSV.TREF t

/-- BCH cannot chop while it is FAULT, HOT or OFF (R238). -/
def State.bchCannot (s : State) : Bool :=
  let st := s.get BCH.pg BCH.STAT_STATE
  st == 0 || st == 3 || st == 4

/-- Overvoltage staging and the voltage limits (R238, R239): the faults that this update finds, in the order of the
rules. -/
def State.msvStages (s : State) (m : Nat) (vdc w : F32) : State × List (Nat × Nat × Fld) :=
  let p := MSV.pg m
  let k := s.msvK m
  let h := s.msvH m
  let below1 := fle vdc (fsub (k 21) (k 25))
  let below2 := fle vdc (fsub (k 22) (k 25))
  let st1 := if fle (k 21) vdc then true else if below1 then false else h.st1
  let st2 := if fle (k 22) vdc then true else if below2 then false else h.st2
  let regen := if fle (k 21) vdc ∧ flt (fmul h.tref w) 0 then true
    else if below1 then false else s.on p MSV.STAT_REGEN
  let force := s.on p MSV.STAT_OV_FORCE && !below2
  let new3 := st2 && s.bchCannot && regen && !h.st3
  let st3 := new3 || (h.st3 && !below2)
  let trip := consec (fle (k 23) vdc) h.trip
  let newTrip := trip == 2
  let uv := s.msvSt m == 3 && flt vdc (k 24)
  let ovs := consec (fle (k 6) (fabs w)) h.ovs
  let stage := if st3 then 3 else if st2 then 2 else if st1 then 1 else 0
  let faults :=
    (if st1 && !h.st1 then [(0x601, 0, MSV.EVT_OV)] else []) ++ (if st2 && !h.st2 then [(0x602, 1, MSV.EVT_OV)] else []) ++
    (if new3 then [(0x603, 4, MSV.EVT_OV)] else []) ++ (if newTrip then [(0x604, 4, MSV.EVT_OV)] else []) ++
    (if uv && !h.uv then [(0x605, 1, MSV.EVT_UV)] else []) ++ (if ovs = 2 then [(0x609, 3, MSV.EVT_OVS)] else []) ++
    (if h.inval = 2 then [(0x60B, 4, MSV.EVT_OV)] else [])
  let s := s.msvSet m fun h => { h with st1 := st1, st2 := st2, st3 := st3, trip := trip, uv := uv, ovs := ovs }
  let s := ((s.put p MSV.STAT_OVSTAGE stage).flag p MSV.STAT_REGEN regen).flag p MSV.STAT_OV_FORCE
    (force || new3 || newTrip)
  let s := if st2 && !h.st2 then s.incSat p MSV.CNT_STAGE2 else s
  let s := if new3 then s.incSat p MSV.CNT_STAGE3 else s
  (s, faults)

/-- The smallest of a list of values; 0 for none. -/
def fminList : List F32 → F32
  | [] => 0
  | x :: xs => xs.foldl fmin x

/-- The pre-armed choice of this update (R236, R237). -/
def State.msvChoose (s : State) (m : Nat) (w : F32) : State :=
  let p := MSV.pg m
  let k := s.msvK m
  let h := s.msvH m
  let vsel := if 8 ≤ h.valN then fminList h.hist else k 11
  let wx := fdiv vsel (fmul fSqrt3 (k 8))
  let asc := 1 + s.get p MSV.CFG_SIDE
  let c :=
    if s.on p MSV.STAT_OV_FORCE then asc
    else if s.posState m ≤ 1 then s.get p MSV.CFG_UNK
    else if fle (fmul (k 9) wx) (fabs w) then asc
    else if fle (fabs w) (fmul (k 10) wx) then 0
    else s.get p MSV.STAT_PREARM
  ((s.setWord p MSV.WX wx).msvPrearm m c).ghbDeliver

/-- The pattern requests that follow the pre-armed choice: in HOLD those of the members in use, and in one-set running
that of the faulted member (R244, R247). -/
def State.msvFollow (s : State) (m : Nat) : State :=
  let st := s.msvSt m
  if 2 ≤ st then
    let pat := s.get (MSV.pg m) MSV.STAT_PREARM + 1
    let used := s.msvMembers m
    let hold := st = 5 && !(s.msvH m).ret
    (s.triLegs m).foldl (fun s n =>
      if used.contains n then (if hold then s.tpwAsk n pat else s) else s.tpwAsk n pat) s
  else s

/-- Stage 3 and the trip request ASC on side SIDE for the whole machine (R238, R239). -/
def State.msvForceAsc (s : State) (m : Nat) : State :=
  if 2 ≤ s.msvSt m then s.tpwRequestAll m (2 + s.get (MSV.pg m) MSV.CFG_SIDE) else s

/-- VCMD of this update (R231): the magnitude of the αβ vector of tri-leg 2m. -/
def State.msvVcmd (s : State) (m : Nat) (vdc : F32) : F32 :=
  let i := s.phaseCurrents (s.get (MSV.pg m) MSV.CFG_IG1) (s.msvK m 13)
  let (al, be) := clarke3 (s.phaseVoltages (2 * m) vdc i)
  fhypot al be

/-- The words of R231, published 8 ticks after the latch tick (R230). -/
def State.msvPublish (s : State) (m : Nat) (vdc hi lo : F32) : State :=
  let h := s.msvH m
  let vs := ((s.msvVcmd m vdc) :: h.vcmd).take 8
  let sum := vs.foldr (fun x acc => fadd acc x) 0
  let words := [h.tref, hi, lo, s.msvK m 2, vdc, fminList h.hist, fdiv sum (fint vs.length), s.msvK m 4,
    fint (s.get (MSV.pg m) MSV.STAT_SET_MODE), h.tqScale, fint (s.msvSt m)]
  s.msvSet m fun h => { h with
    words := if h.pubAt ≤ s.now then h.nextWords else h.words, nextWords := words, pubAt := s.now + 8, vcmd := vs }

/-- Word `w` of MSVm as a LOAD binding reads it (R231). -/
def State.msvWord (s : State) (m w : Nat) : F32 :=
  if s.msvSt m = 0 then 0
  else
    let h := s.msvH m
    (if h.pubAt ≤ s.now then h.nextWords else h.words).getD w 0

/-- Standstill in STOP (R235): READY, or for an SS1 the report that puts STO into effect (R347). -/
def State.msvStill (s : State) (m : Nat) (w : F32) : State :=
  if s.msvSt m = 4 then
    let n := consec (fle (fabs w) (s.msvK m 7)) (s.msvH m).still
    let s := s.msvSet m fun h => { h with still := n }
    if 16 ≤ n then
      if s.on (MSV.pg m) MSV.STAT_STOP_SS1 then (s.ss1End m 2).stoAssert m
      else (s.msvGo m 2).msvFollow m |> fun s => (s.msvMembers m).foldl (fun s k => s.tpwAsk k 1) s
    else s
  else s

/-! ### Halo at the MSV update (R347, R350) -/

/-- The SS1 envelope of machine m at an update (R347). -/
def State.ss1Update (s : State) (m : Nat) (w : F32) : State :=
  if s.bitOn SSF.pg SSF.STAT_SS1 m then
    let lim := s.ss1Limit m
    let above := flt lim (fabs w)
    let n := consec above (s.stopH m).overN
    let s := (s.setWord SSF.pg (SSF.WLIM.ix m) lim).stopSet m fun h => { h with overN := n }
    if 2 ≤ n then s.escalate m 0xB07 else s
  else s

/-- Σ v·i and Σ i² of a set, added to a running pair. -/
def powerSum (acc : F32 × F32) (v i : Abc) : F32 × F32 :=
  (fadd (fadd (fadd acc.1 (fmul v.a i.a)) (fmul v.b i.b)) (fmul v.c i.c),
   fadd (fadd (fadd acc.2 (fmul i.a i.a)) (fmul i.b i.b)) (fmul i.c i.c))

/-- The torque window of machine m at an update in RUN or STOP (R350). -/
def State.tpUpdate (s : State) (m : Nat) (w tref : F32) : State :=
  let p := SSF.pg
  let st := s.msvSt m
  if s.on p (SSF.MCFG_TP_EN.ix m) ∧ (st = 3 ∨ st = 4) ∧ fle (s.rd (fldAddr p (SSF.W_TP.ix m))) (fabs w) then
    let k (x : Fld) := s.rd (fldAddr p (x.ix m))
    let ig1 := s.get (MSV.pg m) MSV.CFG_IG1
    let vdc := scaled (s.adfRes0 ig1 3) (k SSF.VSC)
    let i1 := s.phaseCurrents ig1 (k SSF.ISC)
    let acc := powerSum (0, 0) (s.phaseVoltages (2 * m) vdc i1) i1
    let acc := if s.isSix m then
        let i2 := s.phaseCurrents (s.get (MSV.pg m) MSV.CFG_IG2) (k SSF.ISC)
        powerSum acc (s.phaseVoltages (2 * m + 1) vdc i2) i2
      else acc
    let est := fdiv (fmul (fsub acc.1 (fmul (k SSF.RS) acc.2)) (fint (s.get p (SSF.MCFG_MPP.ix m)))) w
    let h := s.stopH m
    let n := h.tpN + 1
    let se := fadd h.tpEst est
    let sr := fadd h.tpRef tref
    if s.get p (SSF.MCFG_TP_WIN.ix m) ≤ n then
      let ae := fdiv se (fint n)
      let ar := fdiv sr (fint n)
      let s := (s.stopSet m fun h => { h with tpN := 0, tpEst := 0, tpRef := 0 }).setWord p (SSF.TEST.ix m) ae
        |>.setWord p (SSF.TREF.ix m) ar
      if fle (fabs (fsub ae ar)) (fadd (k SSF.TP_ABS) (fmul (k SSF.TP_REL) (fabs ar))) then
        s.put p (SSF.MSTAT_TP_FAILS.ix m) 0
      else
        let s := s.incSat p (SSF.MSTAT_TP_FAILS.ix m)
        if s.get p (SSF.MSTAT_TP_FAILS.ix m) = s.get p (SSF.MCFG_TP_N.ix m) then
          (s.evt p SSF.EVT_TP).raise 0xB0B 4 (2 ^ m)
        else s
    else s.stopSet m fun h => { h with tpN := n, tpEst := se, tpRef := sr }
  else s

/-- The update of MSVm at a slot-0 latch of its group VG (R230). -/
def State.msvUpdate (s : State) (m : Nat) : State :=
  if s.msvSt m = 0 then s
  else
    let p := MSV.pg m
    let word := s.adfRes0 (s.get p MSV.CFG_VG) (s.get p MSV.CFG_VC)
    let ok := isValid word
    let vdc := if ok then scaled word (s.msvK m 12) else (s.msvH m).vdc
    let s := (s.msvSet m fun h => { h with
        vdc := vdc, inval := consec (!ok) h.inval, valN := consec ok h.valN,
        hist := if ok then (vdc :: h.hist).take 8 else h.hist }).setWord p MSV.VDC vdc
    let w := s.posSpeed m
    let s := s.msvStill m w
    let (s, lhFault) := s.msvLimp m
    let s := s.msvScale m
    let (hi, lo) := s.msvLimits m vdc w
    let s := s.msvTorque m w hi lo
    let (s, faults) := s.msvStages m vdc w
    let s := s.msvChoose m w
    let s := if faults.any (fun f => f.1 == 0x603 || f.1 == 0x604) then s.msvForceAsc m else s
    let s := (s.msvFollow m).msvPublish m vdc hi lo
    let s := faults.foldl (fun s f => (s.evt p f.2.2).raise f.1 f.2.1 (2 ^ m)) s
    let s := if lhFault then
        (((s.msvSet m fun h => { h with lat607 := true }).evt p MSV.EVT_CMDLOSS).raise 0x607 2 (2 ^ m)).msvStop m
      else s
    (s.ss1Update m w).tpUpdate m w (s.msvH m).tref

/-! ### Current checks and one-set running (R245 to R247) -/

/-- A set fault of set `k` (0 or 1) of machine m (R245, R247). -/
def State.msvSetFault (s : State) (m : Nat) (k : Fin 2) : State :=
  let p := MSV.pg m
  let s := (s.msvSet m fun h => { h with lat608 := true }).evt p MSV.EVT_SET
  let other : Fin 2 := if k = 0 then 1 else 0
  let st := s.msvSt m
  if s.on p MSV.ONESET_EN ∧ vget (s.msvH m).sum other < 4 ∧ s.get p MSV.STAT_SET_MODE = 0 ∧
      (s.msvH m).swapTo = none then
    let s := s.note 0x608 1 (2 ^ m) 0
    if st = 3 ∨ st = 4 then
      let s := (s.put p MSV.STAT_HOLD_FROM st).incSat p MSV.CNT_HOLDS
      ((s.msvSet m fun h => { h with
        holdSet := true, ret := false, recAt := none, swapTo := some (other.1 + 1) }).msvGo m 5).msvFollow m
    else s
  else s.raise 0x608 4 (2 ^ m)

/-- A latch of the current group of set `k` of machine m, with its three result words (R245). -/
def State.msvCurrents (s : State) (m : Nat) (k : Fin 2) (ra rb rc : W32) : State :=
  if s.msvSt m = 0 then s
  else
    let isc := s.msvK m 13
    let one (h : MsvH) (ph : Fin 3) (word : W32) : MsvH :=
      if isValid word then
        let ix : Fin 6 := ⟨3 * k.1 + ph.1, by omega⟩
        { h with oc := vset h.oc ix (consec (fle (s.msvK m 14) (fabs (scaled word isc))) (vget h.oc ix)) }
      else h
    let h0 := s.msvH m
    let h1 := one (one (one h0 0 ra) 1 rb) 2 rc
    let trip := (List.finRange 6).any fun i => vget h1.oc i == 2 && vget h0.oc i == 1
    let all := isValid ra && isValid rb && isValid rc
    let sum := fadd (fadd (scaled ra isc) (scaled rb isc)) (scaled rc isc)
    let h2 := if all ∧ s.isSix m then
        { h1 with sum := vset h1.sum k (consec (fle (s.msvK m 15) (fabs sum)) (vget h1.sum k)) } else h1
    let set := vget h2.sum k == 4 && vget h0.sum k == 3
    let s := s.msvSet m fun _ => h2
    let s := if trip then (s.evt (MSV.pg m) MSV.EVT_OC).raise 0x60A 4 (2 ^ m) else s
    if set then s.msvSetFault m k else s

/-- A latch of ADF group `g` reaches the current checks of the supervisors that name it. -/
def State.msvCurrentLatch (s : State) (g : Nat) (ra rb rc : W32) : State :=
  [0, 1, 2].foldl (fun s m =>
    let s := if s.get (MSV.pg m) MSV.CFG_IG1 = g then s.msvCurrents m 0 ra rb rc else s
    if s.isSix m ∧ s.get (MSV.pg m) MSV.CFG_IG2 = g then s.msvCurrents m 1 ra rb rc else s) s

/-! ### Angle loss (R244) -/

/-- POSm changed its state: leaving TRACK puts RUN and STOP into HOLD and escalates an SS1, and TRACK ends a HOLD. -/
def State.msvPosChanged (s : State) (m : Nat) : State :=
  let p := MSV.pg m
  let st := s.msvSt m
  if s.posState m = 2 then
    if st = 5 ∧ ¬ (s.msvH m).holdSet then
      let s := s.msvSet m fun h => { h with tqScale := 0, recAt := none, ret := true }
      (s.msvMembers m).foldl (fun s k => s.tpwAsk k 0) s
    else s
  else
    let ss1 := s.bitOn SSF.pg SSF.STAT_SS1 m
    let s :=
      if st = 3 ∨ st = 4 then
        let s := (s.put p MSV.STAT_HOLD_FROM st).incSat p MSV.CNT_HOLDS
        ((s.msvSet m fun h => { h with ret := false, recAt := none, holdSet := false }).msvGo m 5).msvFollow m
      else if st = 5 then (s.msvSet m fun h => { h with holdSet := h.holdSet && !h.ret, ret := false }).msvFollow m
      else s
    if ss1 then s.escalate m 0xB09 else s

/-! ### Enabling (R237, R249, R251) -/

/-- A commit wrote `CTRL.EN` of MSVm. -/
def State.msvEnable (s : State) (m : Nat) : State :=
  let p := MSV.pg m
  let st := s.msvSt m
  if s.on p HDR.CTRL_EN then
    if st = 0 then
      (((s.msvSet m fun _ => MsvH.idle).put p MSV.STAT_PREARM (s.get p MSV.CFG_UNK)).msvGo m 1).stoEval.ghbDeliver
    else s
  else if st = 0 then s
  else
    let s := ((s.msvRelease m).msvSet m fun _ => MsvH.idle).put p MSV.STAT_OVSTAGE 0
    let s := ((s.flag p MSV.STAT_OV_FORCE false).flag p MSV.STAT_REGEN false).put p MSV.STAT_PREARM (s.get p MSV.CFG_UNK)
    ((s.msvGo m 0).stoEval).ghbDeliver

/-- Halo has released STO for machine m (R249): STO to READY with the PI request. -/
def State.msvReleased (s : State) (m : Nat) : State :=
  if s.msvSt m = 1 then
    let s := (s.msvGo m 2).msvFollow m
    (s.msvMembers m).foldl (fun s k => s.tpwAsk k 1) s
  else s

/-! ### Commands (R234, R250) -/

/-- |ω| ≤ W_STILL. -/
def State.msvStandstill (s : State) (m : Nat) : Bool := fle (fabs (s.posSpeed m)) (s.msvK m 7)

/-- RUN is accepted: SWITCH is requested on every member in use, and the command is PENDING. -/
def State.msvRun (s : State) (m : Nat) : State :=
  let s := s.put (MSV.pg m) MSV.CMD_LAST_STS 2
  let s := s.msvSet m fun h => { h with runPend := some ((s.msvMembers m).map fun n => (n, 0)) }
  (s.msvMembers m).foldl (fun s k => s.tpwAsk k 0) s

/-- The commands of `MSV_CMD` (R250). -/
def State.msvCmd (s : State) (m op : Nat) : State :=
  let p := MSV.pg m
  let st := s.msvSt m
  let h := s.msvH m
  let run (ok : Bool) (f : State → State) := s.command p MSV.CMD_LAST_STS ok f
  let dir (d : Nat) := run (st != 0 && s.msvStandstill m) fun s => s.put p MSV.STAT_DIR d
  let idle := st == 1 || st == 2
  match op with
  | 1 =>
    if st = 2 ∧ s.posTrack m ∧ fle (s.msvK m 24) h.vdc ∧ ¬ h.lat608 then s.msvRun m
    else s.status p MSV.CMD_LAST_STS .illegalState
  | 2 => run (st == 3) fun s => s.msvStop m
  | 3 => dir 1
  | 4 => dir 2
  | 5 => dir 3
  | 6 => run (idle && s.get p MSV.STAT_SET_MODE != 0 && !h.lat608) fun s =>
      s.msvSet m fun h => { h with swapTo := some 0 }
  | 7 => run idle fun s => s.msvSet m fun h => { h with lat606 := false, lat607 := false, lat608 := false }
  | 8 => run true fun s => s.setWord p MSV.CNT 0
  | _ => s.status p MSV.CMD_LAST_STS .unknown

/-- A block command of MSVm. -/
def State.msvOp (s : State) (m op : Nat) : State := s.blockCmd (MSV.pg m) MSV.CMD_LAST_STS fun s => s.msvCmd m op

/-- MSV_RUN: torque operation. -/
def execMsvRun (dt : Nat) (_req : Req) (m : Fin 3) (s : State) : Host.Outcome State Fault Refusal :=
  .next ((s.advance dt).msvOp m 1)

/-- MSV_STOP: RUN to STOP. -/
def execMsvStop (dt : Nat) (_req : Req) (m : Fin 3) (s : State) : Host.Outcome State Fault Refusal :=
  .next ((s.advance dt).msvOp m 2)

/-- MSV_DIR_FWD: forward only. -/
def execMsvDirFwd (dt : Nat) (_req : Req) (m : Fin 3) (s : State) : Host.Outcome State Fault Refusal :=
  .next ((s.advance dt).msvOp m 3)

/-- MSV_DIR_REV: reverse only. -/
def execMsvDirRev (dt : Nat) (_req : Req) (m : Fin 3) (s : State) : Host.Outcome State Fault Refusal :=
  .next ((s.advance dt).msvOp m 4)

/-- MSV_DIR_BOTH: both directions. -/
def execMsvDirBoth (dt : Nat) (_req : Req) (m : Fin 3) (s : State) : Host.Outcome State Fault Refusal :=
  .next ((s.advance dt).msvOp m 5)

/-- MSV_ONESET_RESTORE: both sets again, by a swap at the next period start. -/
def execMsvOnesetRestore (dt : Nat) (_req : Req) (m : Fin 3) (s : State) : Host.Outcome State Fault Refusal :=
  .next ((s.advance dt).msvOp m 6)

/-- MSV_ACK: clears the latched 0x606, 0x607 and 0x608. -/
def execMsvAck (dt : Nat) (_req : Req) (m : Fin 3) (s : State) : Host.Outcome State Fault Refusal :=
  .next ((s.advance dt).msvOp m 7)

/-- MSV_CLR_CNT: the counts to 0. -/
def execMsvClrCnt (dt : Nat) (_req : Req) (m : Fin 3) (s : State) : Host.Outcome State Fault Refusal :=
  .next ((s.advance dt).msvOp m 8)

/-! ### Brake chopper (R240 to R243, R254) -/

/-- BCH takes FAULT with the pin low (R241). -/
def State.bchTrip (s : State) (code : Nat) (evt : Fld) : State :=
  let s := (s.bchLow.put BCH.pg BCH.STAT_STATE 3).incSat BCH.pg BCH.CNT_FAULTS
  ({ s with bch := { s.bch with missOn := 0, missOff := 0 } }.evt BCH.pg evt).raise code 1 0

/-- A slot-0 latch of the feedback group (R241); a result with VALID at 0 takes no part. -/
def State.bchFeedback (s : State) : State :=
  let p := BCH.pg
  let st := s.get p BCH.STAT_STATE
  let word := s.adfRes0 (s.get p BCH.CFG_FG) (s.get p BCH.CFG_FC)
  let hold := s.get64 (ADF.pg (s.get p BCH.CFG_FG)) (ADF.RES0_HI.ix (s.get p BCH.CFG_FC)) % 2 ^ 32
  let t := (s.now - (s.now - hold) % 2 ^ 32) * 128
  let blank := s.get p BCH.FB_FB_BLANK * 128
  let n := s.get p BCH.FB_FB_N
  if (st = 1 ∨ st = 2) ∧ isValid word then
    let i := scaled word (s.bchK 2)
    let inside := s.bch.ivs.any fun e => decide (e.1 ≤ t ∧ t < e.2)
    let onS := s.bch.ivs.any fun e => decide (e.1 + blank ≤ t ∧ t < e.2)
    let lastOff := (s.bch.ivs.filter fun e => decide (e.2 ≤ t)).map fun e => e.2
    let offS := !inside && (match lastOff with
      | o :: _ => decide (o + blank ≤ t)
      | [] => false)
    if onS then
      let k := consec (flt i (s.bchK 1)) s.bch.missOn
      let s := { s with bch := { s.bch with missOn := k } }
      if n ≤ k then s.bchTrip 0x610 BCH.EVT_OPEN else s
    else if offS then
      let k := consec (flt (s.bchK 1) i) s.bch.missOff
      let s := { s with bch := { s.bch with missOff := k } }
      if n ≤ k then s.bchTrip 0x611 BCH.EVT_SHORT else s
    else s
  else s

/-- The requests of stage 2: the enabled supervisors that ask for the chopper (R238). -/
def State.bchAsking (s : State) : List Nat := [0, 1, 2].filter fun m => s.msvSt m != 0 && (s.msvH m).st2

/-- The requesting supervisor of the highest Vdc, the first of equals. -/
def State.bchLeader (s : State) : Option Nat :=
  s.bchAsking.foldl (fun a m => match a with
    | none => some m
    | some b => if flt (s.msvH b).vdc (s.msvH m).vdc then some m else some b) none

/-- The duty of R240. -/
def State.bchDuty (s : State) (m : Nat) : F32 :=
  fclamp (fadd (fdiv (fsub (s.msvH m).vdc (s.msvK m 22)) (s.bchK 3)) (s.bchK 4)) (s.bchK 4) f1

/-- The energy of R242 after the period that ended now. -/
def State.bchEnergy (s : State) (t : Nat) : F32 :=
  let e := s.rd (fldAddr BCH.pg BCH.E)
  match s.bch.perAt with
  | some t0 =>
    let tp := fmul (fdiv (fint (t - t0 : Nat)) (fint 128)) fTick
    let gain := fmul (fdiv (fmul (fmul s.bch.v s.bch.v) s.bch.d) (s.bchK 0)) tp
    fmax (fsub (fadd e gain) (fdiv (fmul e tp) (s.bchK 6))) 0
  | none => e

/-- The on-intervals with one more; where the switch was on up to its start, the two are one. -/
def bchExtend (ivs : List (Nat × Nat)) (a b : Nat) : List (Nat × Nat) :=
  match ivs with
  | (x, y) :: rest => if y = a then (x, b) :: rest else ((a, b) :: ivs).take 2
  | [] => [(a, b)]

/-- A period start of the chopper timer's lock group at fine time `t`, with nominal period `per` and `len` up to the next start
(R240, R242, R243): an end of the pulse at or after that start is not placed (R495). -/
def State.bchPeriod (s : State) (t per len : Nat) : State :=
  let p := BCH.pg
  if s.get p BCH.STAT_STATE = 0 then s
  else
    let e := s.bchEnergy t
    let s := { s with bch := { s.bch with perAt := some t, d := 0, v := 0 } }.setWord p BCH.E e
    let st := s.get p BCH.STAT_STATE
    if (st = 1 ∨ st = 2) ∧ fle (s.bchK 5) e then
      ((s.bchLow.put p BCH.STAT_STATE 4).evt p BCH.EVT_HOT).raise 0x612 1 0
    else
      let s := if st = 4 ∧ fle e (fdiv (s.bchK 5) f2) then s.put p BCH.STAT_STATE 1 else s
      let st := s.get p BCH.STAT_STATE
      if st = 1 ∨ st = 2 then
        match (if s.dstate.running then s.bchLeader else none) with
        | none =>
          (s.cpwPins (s.get p BCH.CFG_TIM) fun q => (q.settle s.fineNow).turnOff s.bchBall t).put p BCH.STAT_STATE 1
        | some m =>
          let d := s.bchDuty m
          let on := (ffloorInt (fmul d (fint per))).toNat
          let s := { s with bch := { s.bch with d := d, v := (s.msvH m).vdc, ivs := bchExtend s.bch.ivs t (t + min on len) } }
          let s := s.cpwPins (s.get p BCH.CFG_TIM) fun q =>
            let q := (q.settle s.fineNow).turnOn s.bchBall t 0
            if on < min per len then q.turnOff s.bchBall (t + on) else q
          let s := s.incSat p BCH.CNT_PERIODS_ON
          (s.put p BCH.STAT_STATE 2).evtIf (st == 1) p BCH.EVT_ON
      else s

/-- A commit wrote `CTRL.EN` of BCH (R243). -/
def State.bchEnable (s : State) : State :=
  let st := s.get BCH.pg BCH.STAT_STATE
  if s.on BCH.pg HDR.CTRL_EN then
    if st = 0 then { s with bch := BchH.idle }.put BCH.pg BCH.STAT_STATE 1 else s
  else if st = 0 then s
  else s.bchLow.put BCH.pg BCH.STAT_STATE 0

/-- The commands of `BCH_CMD` (R243, R254). -/
def State.bchCmd (s : State) (op : Nat) : State :=
  s.blockCmd BCH.pg BCH.CMD_LAST_STS fun s =>
    match op with
    | 1 => s.command BCH.pg BCH.CMD_LAST_STS (s.get BCH.pg BCH.STAT_STATE == 3 && s.dstate == .standby) fun s =>
        s.put BCH.pg BCH.STAT_STATE 1
    | 2 => s.command BCH.pg BCH.CMD_LAST_STS true fun s => s.setWord BCH.pg BCH.CNT 0
    | _ => s.status BCH.pg BCH.CMD_LAST_STS .unknown

/-- BCH_ACK: FAULT to IDLE in STANDBY. -/
def execBchAck (dt : Nat) (_req : Req) (s : State) : Host.Outcome State Fault Refusal :=
  .next ((s.advance dt).bchCmd 1)

/-- BCH_CLR_CNT: the counts to 0. -/
def execBchClrCnt (dt : Nat) (_req : Req) (s : State) : Host.Outcome State Fault Refusal :=
  .next ((s.advance dt).bchCmd 2)

end Sys2Proof.Machine
end

