-- ==== Sys2Proof/Machine/Actuator.lean ====
section
/-! DEFINITION. The gearbox actuators ACT0 to ACT5 (R291 to R306). The low-level pieces that fault reactions share stand
in Machine/Stops.lean. -/

namespace Sys2Proof.Machine
open Sys2Proof

/-- Coefficient `j` of `ACT_K` (R306). -/
def State.actK (s : State) (n : Fin 6) (j : Nat) : F32 := s.rd (fldAddr (ACT.pg n) (ACT.K.ix j))

/-- Whether channel `n` runs sensorless (R295). -/
def State.actSensorless (s : State) (n : Fin 6) : Bool := s.on (ACT.pg n) ACT.CFG_COMM

/-- Whether channel `n` drives a brushed motor (R291). -/
def State.actBrushed (s : State) (n : Fin 6) : Bool := s.get (ACT.pg n) ACT.CFG_MACH == 1

/-! ### Shadow triplet (R293) -/

/-- Keep the shadow and NEW as they stand at the start of the tick (R98). -/
def State.actKeep (s : State) (n : Fin 6) : State :=
  if (vget s.act n).prevTick = s.now + 1 then s
  else s.actSet n fun h => { h with
    prevTick := s.now + 1, prevNew := s.on (ACT.pg n) ACT.STAT_NEW, prevCmp := s.gets (ACT.pg n) (ACT.CMP.ix 0) }

/-- A write of one shadow register; `ACT_CMPC` completes the triplet. -/
def State.actCmp (s : State) (req : Nat) (n : Fin 6) (leg : Fin 3) (val : Nat) : State :=
  let p := ACT.pg n
  let ok := if s.on p ACT.CFG_CMP_SRC then decide (req ≤ 2) else req == 7
  if ok then
    let s := (s.actKeep n).put p (ACT.CMP.ix leg) val
    if leg = 2 then s.flag p ACT.STAT_NEW true else s
  else s.refuse p

/-- A Cirrus STORE writes the triplet in its commit tick (R205). -/
def State.actStore (s : State) (n : Fin 6) (a b c : Nat) : State :=
  ((s.actCmp 7 n 0 a).actCmp 7 n 1 b).actCmp 7 n 2 c

/-- ACT_CMP_WRITE: a write to one shadow compare register. -/
def execActCmpWrite (dt : Nat) (req : Req) (n : Fin 6) (leg : Fin 3) (val : W32) (s : State) :
    Host.Outcome State Fault Refusal :=
  .next ((s.advance dt).actCmp req n leg val.toNat)

/-- A write to `ACT_TGT` by requester 0 or 1, clamped to POS_MIN–POS_MAX (R298). -/
def State.actTgt (s : State) (req : Nat) (n : Fin 6) (val : W32) : State :=
  let p := ACT.pg n
  if 2 ≤ req then s.refuse p
  else
    let v := fclamp val (s.actK n 9) (s.actK n 10)
    let s := if v ≠ val then s.incSat p ACT.CNT_CLAMPS else s
    s.setWord p ACT.TGT v

/-- ACT_TGT_WRITE: a write to `ACT_TGT`. -/
def execActTgtWrite (dt : Nat) (req : Req) (n : Fin 6) (val : W32) (s : State) : Host.Outcome State Fault Refusal :=
  .next ((s.advance dt).actTgt req n val)

/-! ### Faults (R300, R301, R305) -/

/-- The pins of a channel take a pattern that is not DRIVE at fine time `t` (R300). -/
def State.actIdlePins (s : State) (n : Fin 6) (pat t : Nat) : State :=
  let dead := s.get (ACT.pg n) ACT.DT_DT * 128
  let brushed := s.actBrushed n
  s.actSet n fun h =>
    let q := h.pins.settle s.fineNow
    let q := if pat = 2 then
        let q := (q.leg 0 t dead false).leg 1 t dead false
        if brushed then q.legOff 2 t else q.leg 2 t dead false
      else q.legs fun q l => q.legOff l t
    { h with pins := q }

/-- Channel `n` takes FAULT for the fault `code`, with its pattern at once; `free` rules out SHORT (R300, R301). -/
def State.actToFault (s : State) (n : Fin 6) (code : Nat) (free : Bool) : State :=
  let p := ACT.pg n
  if s.actSt n = 0 ∨ s.actSt n = 5 then s else
    let s := (s.actSet n fun h => { h with cause := code, bemf := .off, stall := 0, trip := 0, openN := 0 }).actGo n 5
    let pat := if free || !s.on p ACT.CFG_FPAT || !s.actMayDrive n then 0 else 2
    ((s.actSet n fun h => { h with patNext := pat }).actIdlePins n pat s.fineNow).actPat n pat

/-- An FR2 fault of channel `n`: FAULT with its pattern at once, except in OFF (R300, R301). -/
def State.actFault (s : State) (n : Fin 6) (code : Nat) (evt : Fld) : State :=
  if s.actSt n = 0 then s
  else
    let p := ACT.pg n
    let free := code == 0x902
    let s := (s.evt p ACT.EVT_FAULT).evt p evt
    let s := if s.actSt n = 3 ∧ code = 0x901 then s.put p ACT.STAT_SEQ_RES 3
      else if s.actSt n = 3 ∧ code = 0x907 then s.put p ACT.STAT_SEQ_RES 2 else s
    (s.actToFault n code free).raise code 2 0

/-! ### Sectors, position and speed (R293 to R296) -/

/-- The sector of a Hall state, 0 for the two states that no sector has; DIR reverses the order (R293, R294). -/
def hallSector (dir : Bool) (st : Nat) : Nat :=
  let k := match st with
    | 1 => 1
    | 3 => 2
    | 2 => 3
    | 6 => 4
    | 4 => 5
    | 5 => 6
    | _ => 0
  if k = 0 then 0 else if dir then 7 - k else k

/-- The step from one sector to another: 1 or −1 for a neighbour, else none; the invalid states, sector 0, have none. -/
def sectorStep (a b : Nat) : Option Int :=
  if a = 0 then none else if a % 6 + 1 = b then some 1 else if b % 6 + 1 = a then some (-1) else none

/-- The sector after a step. -/
def sectorNext (a : Nat) (d : Int) : Nat := if 0 ≤ d then a % 6 + 1 else (a + 4) % 6 + 1

/-- A count of `d` at the present tick (R296). -/
def State.actCount (s : State) (n : Fin 6) (d : Int) : State :=
  let p := ACT.pg n
  let s := s.actSet n fun h => { h with edgeAt := some s.now, edgeIv := h.edgeAt.map fun t => s.now - t, edgeDir := d }
  s.puts p ACT.POS (s.gets p ACT.POS + d)

/-- The speed of R296: the last step over the interval of the last two edges; 0 without an edge for 20 ms. -/
def State.actSpeed (s : State) (n : Fin 6) : F32 :=
  let h := vget s.act n
  match h.edgeAt, h.edgeIv with
  | some t, some iv => if t + 8000000 ≤ s.now then 0 else fdiv (fint h.edgeDir) (fsec iv)
  | _, _ => 0

/-- The sign of the active on-time as a step. -/
def State.actSign (s : State) (n : Fin 6) : Int := if (vget s.act n).cmpA < 0 then -1 else 1

/-- A commit leaves channel `n` enabled: the sector of the Hall inputs as they are, with fault 0x904 where no sector has them,
as with a missing harness (R294, R305). -/
def State.actHall (s : State) (n : Fin 6) : State :=
  let p := ACT.pg n
  if s.actSensorless n ∨ s.actBrushed n then s
  else
    let k := hallSector (s.on p ACT.HALL_DIR) (vget s.act n).hall
    let s := s.put p ACT.STAT_SECT k
    if k = 0 ∧ s.actSt n ≠ 5 then s.actFault n 0x904 ACT.EVT_FAULT else s

/-- ACT_HALL_EDGE: the Hall inputs of channel `n` take state `st`, input U in bit 0. -/
def execActHallEdge (dt : Nat) (n : Fin 6) (st : BitVec 3) (s : State) : Host.Outcome State Fault Refusal :=
  let s := s.advance dt
  let p := ACT.pg n
  let old := (vget s.act n).hall
  let v := st.toNat
  let s := s.actSet n fun h => { h with hall := v }
  if s.actSt n = 0 ∨ s.actSensorless n ∨ v = old then .next s
  else if s.actBrushed n then
    .next (if v % 2 ≠ old % 2 then s.actCount n (s.actSign n) else s)
  else
    let k := hallSector (s.on p ACT.HALL_DIR) v
    let was := s.get p ACT.STAT_SECT
    if k = 0 then .next ((s.put p ACT.STAT_SECT 0).actFault n 0x904 ACT.EVT_FAULT)
    else
      let s := s.put p ACT.STAT_SECT k
      if was = 0 ∨ was = k then .next s
      else match sectorStep was k with
        | some d => .next (s.actCount n d)
        | none => .next (s.raise 0x905 1 0)

/-- ACT_SPEED_TIMEOUT: no edge within 20 ms; the speed is 0, and `ACT_SPD` shows it from the next update on (R296, R306). -/
def execActSpeedTimeout (dt : Nat) (n : Fin 6) (s : State) : Host.Outcome State Fault Refusal :=
  let s := s.advance dt
  match (vget s.act n).edgeAt with
  | some t =>
    .next (if t + 8000000 ≤ s.now then s.actSet n fun h => { h with edgeIv := none } else s)
  | none => .next s

/-! ### Sensorless operation (R295) -/

/-- Sensorless start-up begins with alignment in sector 1. -/
def State.actAlign (s : State) (n : Fin 6) : State :=
  if s.actSensorless n then
    (s.actSet n fun h => { h with bemf := .align s.now, advAt := none, sectAt := s.now, sectIv := 0 }).put
      (ACT.pg n) ACT.STAT_SECT 1
  else s

/-- One commutation: the sector steps in the direction of the on-time, and the position counts it. -/
def State.actCommutate (s : State) (n : Fin 6) : State :=
  let p := ACT.pg n
  let d := s.actSign n
  let s := (s.put p ACT.STAT_SECT (sectorNext (s.get p ACT.STAT_SECT) d)).actCount n d
  s.actSet n fun h => { h with sectIv := s.now - h.sectAt, sectAt := s.now }

/-- Ticks from the start of the ramp to its `k`-th step: the rate rises linearly from 0 to W_HANDOFF over RAMP_T, so that
W·t²/(2·T) steps have passed at time t. -/
def rampStep (w t : F32) (k : Nat) : Nat :=
  match fval w, fval t with
  | .fin false wn wd, .fin false tn td =>
    if wn = 0 then 0 else isqrt (2 * k * tn * wd * 160000000000000000 / (td * wn)) 60 0
  | _, _ => 0

/-- ACT_ALIGN_END: RAMP_T/4 of alignment have passed; forced commutation begins. -/
def execActAlignEnd (dt : Nat) (n : Fin 6) (s : State) : Host.Outcome State Fault Refusal :=
  let s := s.advance dt
  match (vget s.act n).bemf with
  | .align t0 =>
    if t0 + ticksOf (fdiv (s.actK n 15) (fint 4)) ≤ s.now then
      .next (s.actSet n fun h => { h with bemf := .forced s.now 0 s.now 0, sectAt := s.now })
    else .next s
  | _ => .next s

/-- ACT_FORCED_COMMUTATION: the next step of the ramp is due. -/
def execActForcedCommutation (dt : Nat) (n : Fin 6) (s : State) : Host.Outcome State Fault Refusal :=
  let s := s.advance dt
  match (vget s.act n).bemf with
  | .forced t0 k _ good =>
    if t0 + rampStep (s.actK n 14) (s.actK n 15) (k + 1) ≤ s.now then
      .next ((s.actSet n fun h => { h with bemf := .forced t0 (k + 1) s.now good }).actCommutate n)
    else .next s
  | _ => .next s

/-- ACT_BEMF_EDGE: a comparator edge. During the ramp it is compared with the forced instants, and the sixth good one in
a row hands over; after that it schedules the sector advance half a sector interval later. -/
def execActBemfEdge (dt : Nat) (n : Fin 6) (s : State) : Host.Outcome State Fault Refusal :=
  let s := s.advance dt
  let h := vget s.act n
  match h.bemf with
  | .forced t0 k lastAt good =>
    let next := t0 + rampStep (s.actK n 14) (s.actK n 15) (k + 1)
    let iv := next - lastAt
    let near := decide (4 * (s.now - lastAt) ≤ iv ∨ 4 * (next - s.now) ≤ iv)
    let good := if near then good + 1 else 0
    if 6 ≤ good then
      .next (s.actSet n fun h => { h with bemf := .run, advAt := some (s.now + iv / 2), sectIv := iv })
    else .next (s.actSet n fun h => { h with bemf := .forced t0 k lastAt good })
  | .run => .next (s.actSet n fun h => { h with advAt := some (s.now + h.sectIv / 2) })
  | _ => .next s

/-- ACT_SECTOR_ADVANCE: half the last sector interval after a zero crossing, the sector advances. -/
def execActSectorAdvance (dt : Nat) (n : Fin 6) (s : State) : Host.Outcome State Fault Refusal :=
  let s := s.advance dt
  let h := vget s.act n
  match h.bemf, h.advAt with
  | .run, some t =>
    if t ≤ s.now then .next ((s.actSet n fun h => { h with advAt := none }).actCommutate n) else .next s
  | _, _ => .next s

/-- SENSORLESS_START: the ramp ended without a handoff. -/
def execSensorlessStart (dt : Nat) (n : Fin 6) (s : State) : Host.Outcome State Fault Refusal :=
  let s := s.advance dt
  match (vget s.act n).bemf with
  | .forced t0 _ _ _ =>
    if t0 + ticksOf (s.actK n 15) ≤ s.now then .next (s.actFault n 0x90A ACT.EVT_FAULT) else .next s
  | _ => .next s

/-! ### Period start (R292, R293, R300) -/

/-- The minimum on-time rule of R292: `c` of a period of `p` ticks with limit `w`. -/
def actMin (w p c : Nat) : Nat := if 0 < c ∧ c < w then 0 else if c < p ∧ p - c < w then p else c

/-- The PWM leg and the low leg of a sector, for a positive on-time (R293). -/
def sectorLegs (s : Nat) : Option (Nat × Nat) :=
  match s with
  | 1 => some (0, 1)
  | 2 => some (0, 2)
  | 3 => some (1, 2)
  | 4 => some (1, 0)
  | 5 => some (2, 0)
  | 6 => some (2, 1)
  | _ => none

/-- Place the edges of a DRIVE period that begins at fine time `t` and lasts `len` ticks: the minimum on-time of R292 for the
nominal period, and again for the length that a shortened one leaves (R495). -/
def State.actDrive (s : State) (n : Fin 6) (t len : Nat) : State :=
  let p := ACT.pg n
  let h := vget s.act n
  let dead := s.get p ACT.DT_DT * 128
  let w := s.get p ACT.DT_MINP + s.get p ACT.DT_DT
  let on : Int := match h.bemf with
    | .align _ => froundToInt (fmul (s.actK n 13) (fint h.per))
    | _ => h.cmpA
  let l := min h.per len
  let c := actMin w l (actMin w h.per on.natAbs)
  let legs := if s.actBrushed n then some (0, 1) else sectorLegs (s.get p ACT.STAT_SECT)
  s.actSet n fun h =>
    let q := h.pins.settle s.fineNow
    let q := match legs with
      | some (a, b) =>
        let (a, b) := if on < 0 then (b, a) else (a, b)
        let q := (q.legOff (3 - a - b) t).leg b t dead false
        if c = 0 then q.leg a t dead false
        else if c < l then (q.leg a t dead true).leg a (t + c * 128) dead false
        else q.leg a t dead true
      | none => q.legs fun q l => q.legOff l t
    { h with pins := q }

/-- A period start of the channel's lock group at fine time `t`, with nominal period `per` and `len` up to the next start, in
fine units. -/
def State.actPeriod (s : State) (n : Fin 6) (t per len : Nat) : State :=
  let p := ACT.pg n
  if ¬ s.on p HDR.CTRL_EN then s
  else
    let lt := (t + len) / 128 - t / 128
    let t := t / 128 * 128
    let pt := per / 128
    let h := vget s.act n
    let kept := h.prevTick == s.now + 1
    let new := if kept then h.prevNew else s.on p ACT.STAT_NEW
    let a := if kept then h.prevCmp else s.gets p (ACT.CMP.ix 0)
    let drive := s.actSt n = 2 ∨ s.actSt n = 3
    let s := s.actSet n fun h => { h with per := pt }
    let s := if new then
        (s.actSet n fun h => { h with cmpA := clampInt (-(pt : Int)) pt a, stale := 0 }).flag p ACT.STAT_NEW
          (kept && !h.prevNew && s.on p ACT.STAT_NEW)
      else if drive then s.actSet n fun h => { h with stale := h.stale + 1 }
      else s
    let s := if !new && drive && decide (s.get p ACT.LOOP_STALE ≤ (vget s.act n).stale) then s.actFault n 0x908 ACT.EVT_FAULT else s
    let pat := if s.actMayDrive n then (vget s.act n).patNext else 0
    let s := s.actPat n pat
    if pat = 1 then s.actDrive n t lt else s.actIdlePins n pat t

/-! ### The update (R297 to R299, R302, R303) -/

/-- The reading of the command pin at an update (R299). -/
def State.actPinUpdate (s : State) (n : Fin 6) : State :=
  let p := ACT.pg n
  let mode := s.get p ACT.PIN_MODE
  if mode = 3 then s.flag p ACT.STAT_PIN_VALID false
  else
    match s.pinReading ⟨3 + n.1, by omega⟩ mode (s.get p ACT.PIN_F_LO) (s.get p ACT.PIN_F_HI) with
    | some u =>
      let t := fadd (s.actK n 9) (fmul u (fsub (s.actK n 10) (s.actK n 9)))
      (s.actSet n fun h => { h with pinTgt := some t, pinBad := 0, safePos := false }).flag p ACT.STAT_PIN_VALID true
    | none =>
      let k := if s.get p ACT.CFG_CSRC = 1 then (vget s.act n).pinBad + 1 else 0
      let s := (s.actSet n fun h => { h with pinBad := k }).flag p ACT.STAT_PIN_VALID false
      if k = 3 then
        let s := if s.on p ACT.CFG_PIN_FAIL then s.actSet n fun h => { h with safePos := true } else s
        (s.evt p ACT.EVT_PIN_INV).raise 0x906 1 0
      else s

/-- The target of R298, R299. -/
def State.actTarget (s : State) (n : Fin 6) : F32 :=
  let h := vget s.act n
  let tgt := s.rd (fldAddr (ACT.pg n) ACT.TGT)
  if s.actSt n = 2 ∧ s.get (ACT.pg n) ACT.CFG_CSRC = 1 then
    if h.safePos then s.actK n 12 else h.pinTgt.getD tgt
  else tgt

/-- The end of a sequence (R302): HOLD, SHORT or FREE. -/
def State.actSeqEnd (s : State) (n : Fin 6) : State :=
  let p := ACT.pg n
  let s := ((s.put p ACT.STAT_SEQ_RES 1).evt p ACT.EVT_SEQ_DONE).incSat p ACT.CNT_SEQ_OK
  let s := s.actSet n fun h => { h with endAt := s.now + 1 }
  match s.get p ACT.SEQ_END with
  | 0 => s.actGo n 2
  | 1 => (s.actSet n fun h => { h with bemf := .off }).actGo n 4
  | _ => ((s.actSet n fun h => { h with bemf := .off }).actGo n 1).actIdlePins n 0 s.fineNow

/-- Detection and sequence checks of an update, with current `i`, speed `w` and target `tgt` (R302, R303). A command of the
same tick has not changed the state yet: a fault prevails over it, and it over the end of a sequence (R301). -/
def State.actDetect (s : State) (n : Fin 6) (i w tgt : F32) : State :=
  let p := ACT.pg n
  let h := vget s.act n
  let st := if h.cmdAt = s.now + 1 then h.cmdWas else s.actSt n
  if st = 2 ∨ st = 3 then
    let pos := fint (s.gets p ACT.POS)
    let slow := fle (fabs w) (s.actK n 4)
    let emin := s.actK n 8
    let reached := if fle emin tgt then fle emin pos else fle pos emin
    let endstop := decide (st = 3) && s.on p ACT.SEQ_TYPE && reached
    let stall := consec (fle (s.actK n 3) i && slow && !endstop) h.stall
    let trip := consec (fle (s.actK n 2) (fabs i)) h.trip
    let key := if s.actBrushed n then (if h.cmpA < 0 then 4 else 1) else s.get p ACT.STAT_SECT
    let open_ := fle (fmul (s.actK n 6) (fint h.per)) (fint h.cmpA.natAbs) && flt i (s.actK n 5)
    let openN := if open_ then (if h.openKey = key then h.openN + 1 else 1) else 0
    let ok := if s.on p ACT.SEQ_TYPE then fle (s.actK n 7) i && slow && reached
      else fle (fabs (fsub pos tgt)) (s.actK n 11)
    let seqN := consec (decide (st = 3) && ok) h.seqN
    let s := s.actSet n fun h => { h with stall := stall, trip := trip, openN := openN, openKey := key, seqN := seqN }
    if trip = 2 then s.actFault n 0x902 ACT.EVT_FAULT
    else if s.get p ACT.LOOP_STALL_N ≤ stall then (s.incSat p ACT.CNT_STALLS).actFault n 0x901 ACT.EVT_STALL
    else if s.get p ACT.LOOP_OPEN_N ≤ openN then
      ((s.put p ACT.STAT_OPEN_SECT key).incSat p ACT.CNT_OPENS).actFault n 0x903 ACT.EVT_OPEN
    else if s.actSt n = 3 ∧ s.get p ACT.SEQ_N ≤ seqN then s.actSeqEnd n
    else s
  else s.actSet n fun h => { h with stall := 0, trip := 0, openN := 0, seqN := 0 }

/-- The update of channel `n` at a slot-0 latch of its group (R297). -/
def State.actUpdate (s : State) (n : Fin 6) : State :=
  let p := ACT.pg n
  if s.actSt n = 0 then s
  else
    let h := vget s.act n
    let word := s.adfRes0 (s.get p ACT.CFG_FG) (s.get p ACT.CFG_FC)
    let i := if isValid word then scaled word (s.actK n 0) else s.rd (fldAddr p ACT.IBR)
    let w := s.actSpeed n
    let inval := consec (!isValid word) h.inval
    let s := ((s.setWord p ACT.IBR i).setWord p ACT.SPD w).actSet n fun h => { h with inval := inval }
    let s := s.actPinUpdate n
    let tgt := s.actTarget n
    let c := s.get p ACT.LOOP_CTX
    let s := (s.mboxWrite c 0 (fint (s.gets p ACT.POS))).mboxWrite c 1 w |>.mboxWrite c 2 tgt |>.mboxWrite c 3 i
      |>.mboxWrite c 4 (s.actK n 1) |>.mboxWrite c 5 (if s.get p ACT.STAT_PAT = 1 then f1 else 0)
    if inval = 2 then s.actFault n 0x909 ACT.EVT_FAULT else s.actDetect n i w tgt

/-- SEQ_TIMEOUT: a sequence has not succeeded within T_SEQ. -/
def execSeqTimeout (dt : Nat) (n : Fin 6) (s : State) : Host.Outcome State Fault Refusal :=
  let s := s.advance dt
  if s.actSt n = 3 ∧ (vget s.act n).seqAt + ticksOf (s.actK n 16) ≤ s.now then
    .next (s.actFault n 0x907 ACT.EVT_FAULT)
  else .next s

/-! ### Commands (R301, R304) -/

/-- Whether the cause of the channel's fault is gone. -/
def State.actGone (s : State) (n : Fin 6) : Bool :=
  let h := vget s.act n
  match h.cause with
  | 0x902 => flt (fabs (s.rd (fldAddr (ACT.pg n) ACT.IBR))) (s.actK n 2)
  | 0x904 => hallSector false h.hall != 0
  | 0x909 => h.inval == 0
  | _ => true

/-- The commands of `ACT_CMD` (R304). A sequence that ended in this very tick still counts as SEQ (R301). -/
def State.actCmd (s : State) (n : Fin 6) (op : Nat) : State :=
  let p := ACT.pg n
  let st := if (vget s.act n).endAt = s.now + 1 ∧ s.actSt n ≠ 5 then 3 else s.actSt n
  let kept := (vget s.act n).cmdAt = s.now + 1
  let run (ok : Bool) (f : State → State) := s.command p ACT.CMD_LAST_STS ok fun s =>
    f (s.actSet n fun h => { h with cmdAt := s.now + 1, cmdWas := if kept then h.cmdWas else st, endAt := 0 })
  let start (s : State) : State := if st = 1 ∨ st = 4 then s.actAlign n else s
  match op with
  | 1 => run ((st == 1 || st == 4) && s.actMayDrive n) fun s => (start s).actGo n 2
  | 2 => run ((st == 1 || st == 2 || st == 4) && s.actMayDrive n) fun s =>
      ((start s).actGo n 3).actSet n fun h => { h with seqAt := s.now, seqN := 0 }
  | 3 => run (st == 2 || st == 3) fun s => (s.actSet n fun h => { h with bemf := .off }).actGo n 4
  | 4 => run (st == 2 || st == 3 || st == 4) fun s =>
      ((s.actSet n fun h => { h with bemf := .off }).actGo n 1).actIdlePins n 0 s.fineNow
  | 5 => run (st == 5 && s.actGone n) fun s => (s.actGo n 1).actIdlePins n 0 s.fineNow
  | 6 => run true fun s => s.setWord p ACT.CNT 0
  | 7 => run (st == 1) fun s => s.setWord p ACT.POS 0
  | _ => s.status p ACT.CMD_LAST_STS .unknown

/-- A block command of channel `n`. -/
def State.actOp (s : State) (n : Fin 6) (op : Nat) : State :=
  s.blockCmd (ACT.pg n) ACT.CMD_LAST_STS fun s => s.actCmd n op

/-- ACT_RUN: RUN. -/
def execActRun (dt : Nat) (_req : Req) (n : Fin 6) (s : State) : Host.Outcome State Fault Refusal :=
  .next ((s.advance dt).actOp n 1)

/-- ACT_SEQ: a sequence toward `ACT_TGT`. -/
def execActSeq (dt : Nat) (_req : Req) (n : Fin 6) (s : State) : Host.Outcome State Fault Refusal :=
  .next ((s.advance dt).actOp n 2)

/-- ACT_BRAKE: braking by shorted windings. -/
def execActBrake (dt : Nat) (_req : Req) (n : Fin 6) (s : State) : Host.Outcome State Fault Refusal :=
  .next ((s.advance dt).actOp n 3)

/-- ACT_STOP: IDLE. -/
def execActStop (dt : Nat) (_req : Req) (n : Fin 6) (s : State) : Host.Outcome State Fault Refusal :=
  .next ((s.advance dt).actOp n 4)

/-- ACT_ACK: FAULT to IDLE. -/
def execActAck (dt : Nat) (_req : Req) (n : Fin 6) (s : State) : Host.Outcome State Fault Refusal :=
  .next ((s.advance dt).actOp n 5)

/-- ACT_CLR_CNT: the counts to 0. -/
def execActClrCnt (dt : Nat) (_req : Req) (n : Fin 6) (s : State) : Host.Outcome State Fault Refusal :=
  .next ((s.advance dt).actOp n 6)

/-- ACT_SET_POS: the position to 0. -/
def execActSetPos (dt : Nat) (_req : Req) (n : Fin 6) (s : State) : Host.Outcome State Fault Refusal :=
  .next ((s.advance dt).actOp n 7)

/-- A commit wrote `CTRL.EN` of channel `n` (R301). -/
def State.actEnable (s : State) (n : Fin 6) : State :=
  let st := s.actSt n
  if s.on (ACT.pg n) HDR.CTRL_EN then
    (if st = 0 then
      (s.actSet n fun h => { h with inval := 0, pinBad := 0, stall := 0, trip := 0, openN := 0, seqN := 0 }).actGo n 1
    else s).actHall n
  else if st = 0 then s
  else ((s.actSet n fun h => { h with bemf := .off }).actLow n).actGo n 0

end Sys2Proof.Machine
end

