-- ==== Sys2Proof/Machine/Charger.lean ====
section
/-! DEFINITION. The on-board charger OBC (R272 to R290): inlet decoding, BMS frames, zones and profiles, targets, timers,
states, stops and pack loss. The low-level pieces that fault reactions share stand in Machine/Stops.lean. -/

namespace Sys2Proof.Machine
open Sys2Proof

/-- Coefficient `j` of `OBC_K` (R290). -/
def State.obcK (s : State) (j : Nat) : F32 := s.rd (fldAddr OBC.pg (OBC.K.ix j))

/-! ### Stops (R283, R285, R286) -/

/-- STOPPED with both stages low and the contactor and S2 open (R285, R286). -/
def State.obcStopped (s : State) (cause : Option Nat) (clamp : Bool) : State :=
  let s := (s.obcTick.obcLow).obcSet fun o => { o with
    outS2 := false, outAck := false, outPre := false, frameSince := false, iref := 0, pcStep := 0, inhibitAt := none }
  let s := (s.setWord OBC.pg OBC.IREF 0).put OBC.pg OBC.STAT_LIMSRC 0
  let s := match cause with
    | some c => s.put OBC.pg OBC.STAT_CAUSE c
    | none => s
  let s := if clamp then s.flag OBC.pg OBC.STAT_CLAMP true else s
  s.obcGo 1

/-- An FR2 fault of OBC: latched until an ACK, with its event. -/
def State.obcNote (s : State) (code : Nat) (evt : Fld) : State :=
  ((s.obcSet fun o => { o with latched := if o.latched.contains code then o.latched else o.latched ++ [code] }).evt
    OBC.pg evt).raise code 2 0

/-- An FR2 fault that leads to STOPPING; one that falls in the update of a STOP replaces the cause (R283). -/
def State.obcFault (s : State) (code : Nat) (evt : Fld) (cause : Nat) : State :=
  let s := s.obcTick.obcNote code evt
  if s.get OBC.pg OBC.STAT_STATE = 6 then
    if s.get OBC.pg OBC.STAT_CAUSE = 1 ∧ s.obc.updAt.getD 0 ≤ s.obc.stopAt then s.put OBC.pg OBC.STAT_CAUSE cause else s
  else s.obcStopping cause

/-- DAB pins go low. -/
def State.obcDabLow (s : State) : State :=
  ((s.obcSet fun o => { o with dabOn := false, dabPers := 0, collN := 0 }).cpwLow (s.get OBC.pg OBC.CFG_TDP)).cpwLow
    (s.get OBC.pg OBC.CFG_TDS)

/-- An event of R286: the fault, the DAB pins low at once, and the PFC pulse inhibit `OBC_DLY.PFC` later. -/
def State.obcInhibit (s : State) (code : Nat) (evt : Fld) (cause : Nat) : State :=
  let s := s.obcTick.obcNote code evt
  if (s.obcRunning ∨ s.get OBC.pg OBC.STAT_STATE = 6) ∧ s.obc.inhibitAt.isNone then
    s.obcDabLow.obcSet fun o => { o with
      inhibitAt := some (s.now + s.get OBC.pg OBC.DLY_PFC), pendCause := cause }
  else s

/-- The pack is lost (R287); a later detection of the same loss has no effect. -/
def State.obcPackLost (s : State) : State :=
  if s.obc.lossSeen then s
  else ((s.obcSet fun o => { o with lossSeen := true }).incSat OBC.pg OBC.CNT_PACK_LOST).obcInhibit 0x801
    OBC.EVT_PACK_LOST 4

/-- OBC_PFC_INHIBIT: the PFC pulse inhibit of R286, and STOPPED in the same tick. -/
def execObcPfcInhibit (dt : Nat) (s : State) : Host.Outcome State Fault Refusal :=
  let s := s.advance dt
  match s.obc.inhibitAt with
  | some t => if t ≤ s.now then .next (s.obcStopped (some s.obc.pendCause) (s.obc.pendCause == 4)) else .next s
  | none => .next s

/-- OBC_STOP_BOUND: 100 ms after its entry STOPPING ends (R285). -/
def execObcStopBound (dt : Nat) (s : State) : Host.Outcome State Fault Refusal :=
  let s := s.advance dt
  if s.get OBC.pg OBC.STAT_STATE = 6 ∧ s.obc.inhibitAt.isNone ∧ s.obc.stopAt + 40000000 ≤ s.now then
    .next (s.obcStopped none false)
  else .next s

/-! ### Inlet decoding (R275 to R277) -/

/-- I_pilot in milliamperes (R276). -/
def State.obcPilot (s : State) : Nat :=
  let d := s.get OBC.pg OBC.INLET_DUTY
  match s.get OBC.pg OBC.INLET_TYPE with
  | 2 => s.get OBC.pg OBC.HLC_LIM * 100
  | 1 => if d < 100 then 6000 else if d ≤ 850 then 60 * d else if d ≤ 960 then 250 * (d - 640) else 80000
  | _ => 0

/-- Show I_pilot in `OBC_INLET`, in 0.1 A (R290). -/
def State.obcShowPilot (s : State) : State := s.put OBC.pg OBC.INLET_IPILOT (min 1023 (s.obcPilot / 100))

/-- The inlet is connected (R277). -/
def State.obcConnected (s : State) : Bool :=
  let pp := s.get OBC.pg OBC.INLET_PP
  pp != 0 && pp != 7 && s.get OBC.pg OBC.INLET_CPST != 1

/-- The INLET event, with fault 0x80F when the inlet becomes connected in DRIVE (R277). -/
def State.obcInlet (s : State) : State :=
  let c := s.obcConnected
  if c = s.obc.inlet then s
  else
    let s := (s.obcSet fun o => { o with inlet := c }).evt OBC.pg OBC.EVT_INLET
    if c ∧ s.dstate = .drive then (s.evt OBC.pg OBC.EVT_FAULT).note 0x80F 1 0 0 else s

/-- The pilot state of a positive level in millivolts, for an oscillating pilot or for a window without edges (R275):
1 A to 6 F, 7 invalid. -/
def pilotState (osc : Bool) (p : Int) : Nat :=
  if 10500 ≤ p then 1
  else if 7500 ≤ p then 2
  else if 4500 ≤ p then 3
  else if 1500 ≤ p then 4
  else if ¬ osc ∧ -1500 ≤ p then 5
  else if ¬ osc ∧ p ≤ -10500 then 6
  else 7

/-- The pilot reads E, F or invalid (R286). -/
def State.obcPilotBad (s : State) : Bool := decide (5 ≤ s.get OBC.pg OBC.INLET_CPST)

/-- One decoded period, or window (`win`): the state is reported after three consecutive periods, or three consecutive
windows, that decode to it (R275). -/
def State.obcDecoded (s : State) (win : Bool) (st : Nat) : State :=
  let n := if s.obc.cand = st ∧ s.obc.candWin = win then s.obc.candN + 1 else 1
  let s := s.obcSet fun o => { o with cand := st, candN := n, candWin := win }
  if 3 ≤ n ∧ s.get OBC.pg OBC.INLET_CPST ≠ st then
    let s := s.put OBC.pg OBC.INLET_CPST st
    let s := if st = 7 ∨ (2 ≤ s.get OBC.pg OBC.STAT_STATE ∧ 5 ≤ st) then s.obcInhibit 0x802 OBC.EVT_FAULT 6 else s
    s.obcInlet
  else s

/-- The mean of a sum of samples. -/
def meanOf (x : Int × Nat) : Option Int := if x.2 = 0 then none else some (x.1 / (x.2 : Int))

/-- A full period of `p` ticks with `h` ticks high has ended (R275, R276). -/
def State.obcPeriodEnd (s : State) (p h : Nat) : State :=
  let st := match meanOf s.obc.cpHigh, meanOf s.obc.cpLow with
    | some hi, some lo => if -10500 < lo then 7 else pilotState true hi
    | _, _ => 7
  let duty := (2000 * h + p) / (2 * p)
  let inBand := decide (970 * p ≤ 400000000 ∧ 400000000 ≤ 1030 * p)
  let type := if ¬ inBand then 0 else if 30 ≤ duty ∧ duty ≤ 70 then 2 else if 80 ≤ duty ∧ duty ≤ 970 then 1 else 0
  let s := ((s.flag OBC.pg OBC.INLET_PWM true).put OBC.pg OBC.INLET_TYPE type).put OBC.pg OBC.INLET_DUTY duty
  s.obcShowPilot.obcDecoded false st

/-- A 1 ms window without edges has ended (R275). -/
def State.obcWindowEnd (s : State) : State :=
  let st := match meanOf s.obc.cpAll with
    | some v => pilotState false v
    | none => 7
  let s := ((s.flag OBC.pg OBC.INLET_PWM false).put OBC.pg OBC.INLET_TYPE 0).put OBC.pg OBC.INLET_DUTY 0
  let s := s.obcSet fun o => { o with winAt := s.now, cpAll := (0, 0), rise := none, fall := none }
  s.obcShowPilot.obcDecoded true st

/-- A crossing of 0.9 V at tick `t`. -/
def State.obcEdge (s : State) (rising : Bool) (t : Nat) : State :=
  let s' := if rising then
      match s.obc.rise, s.obc.fall with
      | some r, some f => if r < f ∧ f < t then s.obcPeriodEnd (t - r) (f - r) else s
      | _, _ => s
    else s
  s'.obcSet fun o =>
    if rising then { o with rise := some t, winAt := t, cpAll := (0, 0), cpHigh := (0, 0), cpLow := (0, 0) }
    else { o with fall := some t, winAt := t, cpAll := (0, 0) }

/-- Inlet decoding runs from STANDBY onward while `INLET_EN` is 1 (R275). -/
def State.obcDecodes (s : State) : Bool := (s.dstate.running || s.dstate == .safeHold) && s.on OBC.pg OBC.CFG_INLET_EN

/-- A converter that samples every `n` ticks is due again. -/
def sampleDue (n : Nat) (last : Option Nat) (now : Nat) : Bool :=
  match last with
  | some t => decide (t + n ≤ now)
  | none => true

/-- Add a sample. -/
def addSample (x : Int × Nat) (v : Int) : Int × Nat := (x.1 + v, x.2 + 1)

/-- Pilot decoding begins at the present sample: at the first one, and after 1 ms without a sample. -/
def State.obcPilotBegin (s : State) : State :=
  if (s.obc.cpAt.map fun t => decide (s.now < t + 400000)) = some true then s
  else s.obcSet fun o => { o with
    winAt := s.now, candN := 0, rise := none, fall := none, cpAll := (0, 0), cpHigh := (0, 0), cpLow := (0, 0) }

/-- One sample in millivolts of `CP_IN`, if the 400 ticks of R275 since the last one have passed. The divider gives
V_cp = 16·(V_pin − 0.9 V). -/
def State.obcPilotTake (s : State) (mv : Int) : State :=
  if sampleDue 400 s.obc.cpAt s.now then
    let v := 16 * (mv - 900)
    let s := s.obcSet fun o =>
      let o := { o with cpAll := addSample o.cpAll v, cpAt := some s.now }
      if 900 ≤ mv then { o with cpHigh := addSample o.cpHigh v } else { o with cpLow := addSample o.cpLow v }
    if s.obc.winAt + 400000 ≤ s.now then s.obcWindowEnd else s
  else s

/-- CP_SAMPLE: one conversion of `CP_IN` in millivolts, and the crossing of 0.9 V since the last one with its age in
ticks. -/
def execCpSample (dt : Nat) (mv : Int) (edge : Option (Bool × Nat)) (s : State) : Host.Outcome State Fault Refusal :=
  let s := s.advance dt
  if s.obcDecodes then
    let s := s.obcPilotBegin
    let s := match edge with
      | some (rising, ago) => s.obcEdge rising (s.now - ago)
      | none => s
    .next (s.obcPilotTake mv)
  else .next (s.obcSet fun o => { o with cpAt := none })

/-- A sum of fractions of positive denominators, as one fraction. -/
def sumFrac : List (Int × Int) → Int × Int
  | [] => (0, 1)
  | (n, d) :: xs => let (a, b) := sumFrac xs; (n * b + a * d, d * b)

/-- The proximity code of the mean ratio n/d (R277). -/
def proxCode (n d : Int) : Nat :=
  let ge (x : Int) := decide (x * d ≤ 100 * n)
  let le (x : Int) := decide (100 * n ≤ x * d)
  if !le 85 then 0
  else if ge 50 && le 70 then 1
  else if ge 33 && le 47 then 2
  else if ge 14 && le 23 then 3
  else if ge 6 && le 12 then 4
  else 7

/-- PP_SAMPLE: one sample of `PP_IN` and VDDA in millivolts, every 4,000 ticks; proximity is decoded from the mean of the
last 16. -/
def execPpSample (dt : Nat) (vpp vdda : Int) (s : State) : Host.Outcome State Fault Refusal :=
  let s := s.advance dt
  if s.obcDecodes ∧ 0 < vdda ∧ sampleDue 4000 s.obc.ppAt s.now then
    let l := ((vpp, vdda) :: s.obc.pp).take 16
    let s := s.obcSet fun o => { o with pp := l, ppAt := some s.now }
    if l.length = 16 then
      let (n, d) := sumFrac l
      let code := proxCode n (16 * d)
      let s := s.put OBC.pg OBC.INLET_PP code
      let s := if (code = 0 ∨ code = 7) ∧ 2 ≤ s.get OBC.pg OBC.STAT_STATE ∧ s.obc.inhibitAt.isNone then
          s.obcInhibit 0x803 OBC.EVT_FAULT 7
        else s
      .next s.obcInlet
    else .next s
  else .next s

/-- I_cable in amperes (R277). -/
def State.obcCable (s : State) : Nat :=
  match s.get OBC.pg OBC.INLET_PP with
  | 1 => 13
  | 2 => 20
  | 3 => 32
  | 4 => 63
  | _ => 0

/-! ### BMS frames (R279, R287) -/

/-- A write to `OBC_BMS0` by requester 0 or 1 completes a frame; CONT at 0 while DAB switches is a lost pack. -/
def State.obcFrame (s : State) (req : Nat) (val : W32) : State :=
  if 2 ≤ req then s.refuse OBC.pg
  else
    let p := OBC.pg
    let cont := val.toNat.testBit 31
    let s := s.flag p OBC.BMS0_CONT cont
    let s := s.obcSet fun o => { o with
      frame := true, frameCont := cont, frameSince := cont, bmsAt := s.now, bmsOut := false,
      bms1 := s.rd (fldAddr p OBC.BMS1), bms2 := s.rd (fldAddr p OBC.BMS2), bms3 := s.rd (fldAddr p OBC.BMS3) }
    if ¬ cont ∧ s.obc.dabOn then s.obcPackLost else s

/-- OBC_BMS_FRAME: a write to `OBC_BMS0`. -/
def execObcBmsFrame (dt : Nat) (req : Req) (val : W32) (s : State) : Host.Outcome State Fault Refusal :=
  .next ((s.advance dt).obcFrame req val)

/-- BMS_TIMEOUT: no frame within `OBC_BMSTO` in a state other than OFF and STOPPED. -/
def execBmsTimeout (dt : Nat) (s : State) : Host.Outcome State Fault Refusal :=
  let s := s.advance dt
  if 2 ≤ s.get OBC.pg OBC.STAT_STATE ∧ ¬ s.obc.bmsOut ∧ s.obc.bmsAt + s.get OBC.pg OBC.BMSTO_TO ≤ s.now then
    .next ((s.obcSet fun o => { o with bmsOut := true }).obcFault 0x805 OBC.EVT_FAULT 8)
  else .next s

/-! ### Zones and profiles (R279, R280) -/

/-- A field in tenths as binary32. -/
def tenths (v : Int) : F32 := fdiv (fint v) (fint 10)

/-- The zone that the temperatures of the last frame give, with THYS on every move toward zone 2. -/
def State.obcZone (s : State) : Nat :=
  let tmax := tenths (signed 16 (s.obc.bms1.toNat / 2 ^ 16))
  let tmin := tenths (signed 16 s.obc.bms1.toNat)
  let z := s.get OBC.pg OBC.STAT_ZONE
  let hys := s.obcK 23
  let hot (k : Nat) (held : Bool) := if held then flt (fsub (s.obcK k) hys) tmax else fle (s.obcK k) tmax
  let cold (k : Nat) (held : Bool) := flt tmin (if held then fadd (s.obcK k) hys else s.obcK k)
  if hot 22 (z == 4) then 4
  else if cold 19 (z == 0) then 0
  else if hot 21 (z == 3 || z == 4) then 3
  else if cold 20 (z == 0 || z == 1) then 1
  else 2

/-- I_k and V_k of step `k` of zone `z`. -/
def State.obcStepI (s : State) (z k : Nat) : Nat := (s.rd (fldAddr OBC.pg (OBC.PRF.ix (4 * z + k)))).toNat % 2 ^ 16

/-- The voltage of a profile step in 0.1 V. -/
def State.obcStepV (s : State) (z k : Nat) : Nat := (s.rd (fldAddr OBC.pg (OBC.PRF.ix (4 * z + k)))).toNat / 2 ^ 16

/-- The number of steps of zone `z`: the profile ends before the first step with I_k = 0. -/
def State.obcSteps (s : State) (z : Nat) : Nat :=
  (([0, 1, 2, 3].find? fun k => s.obcStepI z k == 0).getD 4)

/-- The first step of zone `z` with Vpack < V_k, or its last step. -/
def State.obcFirstStep (s : State) (z : Nat) (vpack : F32) : Nat :=
  let n := s.obcSteps z
  ((List.range n).find? fun k => flt vpack (tenths (s.obcStepV z k))).getD (n - 1)

/-- The step becomes `k`; the last step of a profile stops CC and starts CV (R282). A profile without a step has no last
one. -/
def State.obcEnterStep (s : State) (k : Nat) : State :=
  let s := s.put OBC.pg OBC.STAT_STEP k
  let n := s.obcSteps (s.get OBC.pg OBC.STAT_ZONE)
  if n ≠ 0 ∧ n ≤ k + 1 then
    s.obcSet fun o => { o with
      ccEnd := some (o.ccEnd.getD s.now), cvAt := some (o.cvAt.getD s.now) }
  else s

/-- Zone and step of this update. -/
def State.obcProfile (s : State) (vpack : F32) : State :=
  let p := OBC.pg
  let z := if s.obc.frame then s.obcZone else s.get p OBC.STAT_ZONE
  if z ≠ s.get p OBC.STAT_ZONE then
    let s := (s.put p OBC.STAT_ZONE z).evt p OBC.EVT_ZONE
    if 3 ≤ s.get p OBC.STAT_STATE ∧ s.get p OBC.STAT_STATE ≤ 5 then s.obcEnterStep (s.obcFirstStep z vpack) else s
  else
    let k := s.get p OBC.STAT_STEP
    if s.get p OBC.STAT_STATE = 3 ∧ k + 1 < s.obcSteps z ∧ fle (tenths (s.obcStepV z k)) vpack then s.obcEnterStep (k + 1)
    else s

/-! ### Current target (R278, R281) -/

/-- The mean square of one phase over the window. -/
def meanSq (l : List F32) : F32 := fdiv (l.foldr (fun x acc => fadd acc x) 0) (fint l.length)

/-- The rms voltage of phase `ph` over the last 20 ms; 0 without a sample. -/
def State.obcRms (s : State) (ph : Nat) : F32 :=
  let l := s.obc.sq.map fun e => match ph with
    | 0 => e.2.1
    | 1 => e.2.2.1
    | _ => e.2.2.2
  if l = [] then 0 else fsqrt (meanSq l)

/-- Whether a phase is present (R278). -/
def State.obcPresent (s : State) (ph : Nat) : Bool :=
  let v := s.obcRms ph
  fle (s.obcK 5) v && fle v (s.obcK 6)

/-- The number of phases in use, 0 while unknown. -/
def State.obcPhases (s : State) : Nat := s.get OBC.pg OBC.STAT_NPH

/-- The rms phase voltage of R281: the mean over the phases in use. -/
def State.obcVac (s : State) : F32 :=
  if s.obcPhases = 3 then fdiv (fadd (fadd (s.obcRms 0) (s.obcRms 1)) (s.obcRms 2)) (fint 3) else s.obcRms 0

/-- Iin of R278. -/
def State.obcIin (s : State) : F32 :=
  let i := fmin (fmin (frat s.obcPilot 1000) (fint s.obcCable)) (s.obcK 7)
  if s.obcPhases = 1 then fmin i (s.obcK 8) else i

/-- The lesser of a running value with its source and a further term. -/
def pick (a : F32 × Nat) (v : F32) (src : Nat) : F32 × Nat := if flt v a.1 then (v, src) else a

/-- The target of R281 and its LIMSRC. -/
def State.obcTarget (s : State) (vpack : F32) : F32 × Nat :=
  let p := OBC.pg
  let z := s.get p OBC.STAT_ZONE
  let pin := fmul (fmul (fint s.obcPhases) s.obcVac) s.obcIin
  let eta := fmul (s.obcK 9) pin
  let ov := [0, 1, 2].any fun m => s.msvSt m != 0 && s.get (MSV.pg m) MSV.STAT_OVSTAGE != 0
  let chg := tenths (s.obc.bms2.toNat / 2 ^ 16 : Nat)
  let dis := fmul (tenths (s.obc.bms2.toNat % 2 ^ 16 : Nat)) vpack
  if s.obc.dir ∧ ov then (fneg (fdiv (fmin (s.obcK 14) dis) vpack), 6)
  else if z = 0 ∨ z = 4 then (0, 2)
  else if s.obc.dir then
    let (pw, src) := pick (pick (pick (s.rd (fldAddr p OBC.PCMD), 5) (s.obcK 14) 5) eta 4) dis 3
    let t := fdiv pw vpack
    let (t, src) := if z = 1 ∨ z = 3 then pick (t, src) (tenths (s.obcStepI z 0)) 2 else (t, src)
    (fneg t, src)
  else if ov then (0, 6)
  else pick (pick (tenths (s.obcStepI z (s.get p OBC.STAT_STEP)), if z = 2 then 1 else 2) chg 3) (fdiv eta vpack) 4

/-- Iref moves to the target: a rise by at most `step`, a fall at once. -/
def rampTo (iref tgt step : F32) : F32 :=
  if fle (fabs tgt) (fabs iref) then tgt
  else
    let d := fsub tgt iref
    if fle (fabs d) step then tgt else fadd iref (fmul (fsign d) step)

/-- |Iref| falls toward 0 by at most `step`. -/
def rampDown (iref step : F32) : F32 :=
  if fle (fabs iref) step then 0 else fsub iref (fmul (fsign iref) step)

/-- Take Iref and its source; LIMSRC is 0 while Iref is 0 for a reason that it does not name. -/
def State.obcIref (s : State) (i : F32) (src : Nat) : State :=
  ((s.obcSet fun o => { o with iref := i }).setWord OBC.pg OBC.IREF i).put OBC.pg OBC.STAT_LIMSRC src

/-! ### The update (R273 to R281, R285, R287) -/

/-- The measurements of an update and the checks on them. -/
def State.obcMeasure (s : State) : State :=
  let p := OBC.pg
  let g := s.get p OBC.CFG_FG_DC
  let rv := s.adfRes0 g 0
  let ri := s.adfRes0 g 1
  let o := s.obc
  let idab := if isValid ri then scaled ri (s.obcK 4) else o.idab
  let v := if isValid rv then scaled rv (s.obcK 3) else (o.vpack.getD (0, 0)).1
  let inval := consec (!(isValid rv && isValid ri)) o.invalDc
  let slope := match o.vpack with
    | some (v0, t0) =>
      isValid rv && o.dabOn && flt (s.obcK 10) (fdiv (fabs (fsub v v0)) (fmul (fsec (s.now - t0)) (fint 1000)))
    | none => false
  let coll := o.dabOn && decide (8 ≤ o.dabPers) && flt (fabs idab) (s.obcK 11) &&
    fle (fmul f2 (s.obcK 11)) (fabs o.iref)
  let collN := consec coll o.collN
  let dabOc := consec (fle (s.obcK 18) (fabs idab)) o.dabOc
  let vmax := tenths (o.bms3.toNat / 2 ^ 16 : Nat)
  let packOv := consec (o.frame && fle (fadd vmax (s.obcK 24)) v) o.packOv
  let s := s.obcSet fun o => { o with
    idab := idab, vpack := if isValid rv then some (v, s.now) else o.vpack, invalDc := inval, collN := collN,
    dabOc := dabOc, packOv := packOv }
  let s := if slope || collN == 2 then s.obcPackLost else s
  let s := if dabOc = 2 then s.obcInhibit 0x808 OBC.EVT_FAULT 9 else s
  let s := if inval = 2 then s.obcFault 0x80B OBC.EVT_FAULT 9 else s
  if packOv = 2 then s.obcFault 0x80D OBC.EVT_FAULT 9 else s

/-- The pilot conditions that end a running state (R283): PWM ended, state D that VENT_OK does not take as C, or I_pilot
at 0. -/
def State.obcPilotEnded (s : State) : Bool :=
  !s.on OBC.pg OBC.INLET_PWM || s.obcPilot == 0 ||
    (s.get OBC.pg OBC.INLET_CPST == 4 && !s.on OBC.pg OBC.CFG_VENT_OK)

/-- The mailbox words of the two loops (R274). -/
def State.obcMail (s : State) : State :=
  let p := OBC.pg
  let z := s.get p OBC.STAT_ZONE
  let pfc := s.get p OBC.CTXS_PFC
  let dab := s.get p OBC.CTXS_DAB
  let cap := tenths (s.obcStepV z (s.get p OBC.STAT_STEP))
  let cap := if s.obc.frame then fmin cap (tenths (s.obc.bms3.toNat / 2 ^ 16 : Nat)) else cap
  (s.mboxWrite pfc 0 (s.obcK 15)).mboxWrite pfc 1 (fmul (fsqrt f2) s.obcIin)
    |>.mboxWrite pfc 2 (fint s.obcPhases) |>.mboxWrite pfc 3 (if s.obc.dir then fint (-1) else f1)
    |>.mboxWrite dab 0 s.obc.iref |>.mboxWrite dab 1 cap

/-- Iref moves to the target of the present direction; the answer is Iref with its source. -/
def State.obcAim (s : State) (vpack step : F32) : F32 × Nat :=
  let (tgt, src) := s.obcTarget vpack
  let i := rampTo s.obc.iref tgt step
  (i, if feq i 0 ∧ ¬ feq tgt 0 then 0 else src)

/-- Iref on its way through 0 to the other direction: it falls at RAMP, and to a lower target at once (R281, R283). -/
def State.obcTurn (s : State) (vpack step : F32) : F32 × Nat :=
  let (tgt, src) := s.obcTarget vpack
  let i := rampDown s.obc.iref step
  if flt (fabs tgt) (fabs i) then (tgt, src) else (i, s.get OBC.pg OBC.STAT_LIMSRC)

/-- CHARGING, EXPORTING and SUSPENDED at an update: suspension, the direction, the target, the ramp and the end of
charge. -/
def State.obcControl (s : State) (vpack step : F32) : State :=
  let p := OBC.pg
  let z := s.get p OBC.STAT_ZONE
  let act (o : ObcH) : Nat := if o.dir then 4 else 3
  if z = 0 ∨ z = 4 then
    let s := if s.get p OBC.STAT_STATE = 5 then s
      else (s.obcDabLow.incSat p OBC.CNT_SUSPENDS).obcGo 5
    let s := s.obcSet fun o => { o with dir := o.dirNext, endN := 0, iref := if o.dir = o.dirNext then o.iref else 0 }
    s.obcIref (s.obcAim vpack step).1 (s.obcAim vpack step).2
  else
    let s := if s.get p OBC.STAT_STATE = 5 then
        (s.obcSet fun o => { o with dabOn := true, dabPers := 0, staleD := 0, iref := 0, dir := o.dirNext }) |> fun s =>
          s.obcGo (act s.obc)
      else s
    if s.obc.dir ≠ s.obc.dirNext then
      let (i, src) := s.obcTurn vpack step
      if feq i 0 then
        let s := s.obcSet fun o => { o with dir := o.dirNext }
        (s.obcIref 0 0).obcGo (act s.obc)
      else s.obcIref i src
    else
      let s := s.obcIref (s.obcAim vpack step).1 (s.obcAim vpack step).2
      let last := decide (s.obcSteps z ≤ s.get p OBC.STAT_STEP + 1)
      let n := consec (s.get p OBC.STAT_STATE == 3 && last && flt s.obc.idab (s.obcK 13)) s.obc.endN
      let s := s.obcSet fun o => { o with endN := n }
      if 16 ≤ n then (s.evt p OBC.EVT_DONE).obcStopping 2 else s

/-- The OBC update at a slot-0 latch of FG_DC. -/
def State.obcUpdate (s : State) : State :=
  let p := OBC.pg
  if s.get p OBC.STAT_STATE = 0 then s
  else
    let s := s.obcTick.obcMeasure
    let vpack := (s.obc.vpack.getD (0, 0)).1
    let s := s.obcProfile vpack
    let h := match s.obc.updAt with
      | some t => s.now - t
      | none => 0
    let step := fmul (s.obcK 12) (fmul (fsec h) (fint 1000))
    let st := s.get p OBC.STAT_STATE
    let s :=
      if s.obc.inhibitAt.isSome then s
      else if st = 6 then
        let i := rampDown s.obc.iref step
        if feq i 0 then s.obcStopped none false else s.obcIref i 0
      else if s.obcRunning ∧ s.obcPilotEnded then s.obcStopping 5
      else if 3 ≤ st ∧ st ≤ 5 then s.obcControl vpack step
      else s
    (s.obcSet fun o => { o with updAt := some s.now }).obcMail

/-! ### The AC side (R273, R278, R284, R288) -/

/-- A slot-0 latch of FG_AC: the squares of the phase voltages enter the 20 ms window. -/
def State.obcAcSample (s : State) : State :=
  let p := OBC.pg
  if s.get p OBC.STAT_STATE = 0 then s
  else
    let g := s.get p OBC.CFG_FG_AC
    let sqv (c : Nat) := let v := scaled (s.adfRes0 g c) (s.obcK 0); fmul v v
    let ok := isValid (s.adfRes0 g 0) && isValid (s.adfRes0 g 1) && isValid (s.adfRes0 g 2)
    let link := s.adfRes0 g 3
    s.obcSet fun o => { o with
      sq := (if ok then [(s.now, (sqv 0, sqv 1, sqv 2))] else []) ++ o.sq.filter fun e => decide (s.now ≤ e.1 + 8000000)
      vlink := if isValid link then scaled link (s.obcK 2) else o.vlink }

/-- The steps of PRECHARGE that a measurement completes (R284). -/
def State.obcPrecharge (s : State) : State :=
  let p := OBC.pg
  let link := s.obc.vlink
  match s.obc.pcStep with
  | 1 => if s.obcPresent 0 then s.obcSet fun o => { o with pcStep := 2, pcAt := s.now } else s
  | 3 =>
    let peak := fmul (fmul (frat 9 10) (fsqrt f2)) (if s.obcPhases = 3 then fmul fSqrt3 s.obcVac else s.obcRms 0)
    if fle peak link then
      s.obcSet fun o => { o with pcStep := 5, pcAt := s.now, outAck := true, outPre := false, pfcOn := true, staleP := 0 }
    else s
  | 5 =>
    let ref := s.obcK 15
    if fle (fabs (fsub link ref)) (fmul (frat 1 20) ref) then
      let s := (s.obcTick.obcSet fun o => { o with
        pcStep := 0, dabOn := true, dabPers := 0, staleD := 0, iref := 0, endN := 0, dir := o.dirNext })
      (s.obcEnterStep 0).obcGo (if s.obc.dir then 4 else 3) |> fun s => s.put p OBC.STAT_LIMSRC 0
    else s
  | _ => s

/-- The AC-side checks at a slot-1 latch of FG_AC. -/
def State.obcAcCheck (s : State) : State :=
  let p := OBC.pg
  if s.get p OBC.STAT_STATE = 0 then s
  else
    let g := s.get p OBC.CFG_FG_AC
    let r1 (c : Nat) := s.rd (fldAddr (ADF.pg g) (ADF.RES1_LO.ix c))
    let ok := [0, 1, 2, 3].all (fun c => isValid (s.adfRes0 g c)) && [0, 1, 2].all (fun c => isValid (r1 c))
    let o := s.obc
    let inval := consec (!ok) o.invalAc
    let oc := consec ([0, 1, 2].any fun c => isValid (r1 c) && fle (s.obcK 17) (fabs (scaled (r1 c) (s.obcK 1)))) o.acOc
    let linkOv := consec (isValid (s.adfRes0 g 3) && fle (s.obcK 16) o.vlink) o.linkOv
    let used := if s.obcPhases = 3 then [0, 1, 2] else if s.obcPhases = 1 then [0] else []
    let range := consec (s.obcRunning && used.any fun ph => !s.obcPresent ph) o.rangeN
    let s := s.obcSet fun o => { o with invalAc := inval, acOc := oc, linkOv := linkOv, rangeN := range }
    let s := if range = 4 then s.obcInhibit 0x806 OBC.EVT_FAULT 9 else s
    let s := if oc = 2 then s.obcInhibit 0x807 OBC.EVT_FAULT 9 else s
    let s := if linkOv = 2 then s.obcInhibit 0x809 OBC.EVT_FAULT 9 else s
    let s := if inval = 2 then s.obcFault 0x80B OBC.EVT_FAULT 9 else s
    if s.get p OBC.STAT_STATE = 2 ∧ s.obc.inhibitAt.isNone then s.obcPrecharge else s

/-- PRECHARGE fails (R283). -/
def State.obcPrechargeFail (s : State) : State :=
  (s.obcTick.obcNote 0x80A OBC.EVT_FAULT).obcStopped (some 0xB) false

/-- OBC_PHASE_COUNT_DONE: 20 ms of the phase count have passed (R278, R284). -/
def execObcPhaseCountDone (dt : Nat) (s : State) : Host.Outcome State Fault Refusal :=
  let s := s.advance dt
  if s.get OBC.pg OBC.STAT_STATE = 2 ∧ s.obc.pcStep = 2 ∧ s.obc.pcAt + 8000000 ≤ s.now ∧ s.obc.inhibitAt.isNone then
    let n := match s.obcPresent 0, s.obcPresent 1, s.obcPresent 2 with
      | true, true, true => 3
      | true, false, false => 1
      | _, _, _ => 0
    let s := s.put OBC.pg OBC.STAT_NPH n
    if n = 0 then .next s.obcPrechargeFail
    else .next (s.obcSet fun o => { o with pcStep := 3, pcAt := s.now, outPre := true })
  else .next s

/-- PRECHARGE_TO: the wait for Va or for the link exceeds its bound. -/
def execPrechargeTo (dt : Nat) (s : State) : Host.Outcome State Fault Refusal :=
  let s := s.advance dt
  let bound := if s.obc.pcStep = 1 then OBC.ACWAIT_TO else OBC.PRETO_TO
  if s.get OBC.pg OBC.STAT_STATE = 2 ∧ (s.obc.pcStep = 1 ∨ s.obc.pcStep = 3) ∧
      s.obc.pcAt + s.get OBC.pg bound ≤ s.now ∧ s.obc.inhibitAt.isNone then
    .next s.obcPrechargeFail
  else .next s

/-- TIMER_EXPIRED: TOTAL, CC or CV reaches its limit (R282). -/
def execTimerExpired (dt : Nat) (t : Fin 3) (s : State) : Host.Outcome State Fault Refusal :=
  let s := (s.advance dt).obcTick
  let p := OBC.pg
  let (run, cnt, lim) : Bool × Fld × Fld := match t with
    | 0 => (true, OBC.ETOT_LO, OBC.TTOT_LO)
    | 1 => (s.obc.ccEnd.isNone, OBC.ECC_LO, OBC.TCC_LO)
    | 2 => (s.obc.cvAt.isSome, OBC.ECV_LO, OBC.TTCV_LO)
  if s.obcRunning ∧ run ∧ s.get64 p lim ≤ s.get64 p cnt ∧ s.obc.inhibitAt.isNone then
    .next (((s.put p OBC.STAT_TMR (t.1 + 1)).incSat p OBC.CNT_TIMER).obcFault 0x804 OBC.EVT_TIMER 3)
  else .next s

/-- The edges of leg `leg` in a period that starts at fine time `t` and lasts `len`, on each timer of `ts` with its delay. No
rule says how a triplet becomes edges, so the high switch's time, the dead time and both edges are free (log 26). -/
def State.obcLeg (s : State) (ts : List (Nat × Nat)) (leg t len : Nat) : State :=
  let (a, s) := s.freshNat
  let (b, s) := s.freshNat
  let (d, s) := s.freshNat
  let x := a % (len + 1)
  let w := b % (len + 1 - x)
  let dead := d % (len + 1)
  ts.foldl (fun s e => s.cpwPlace e.1 fun q =>
    let t := t + e.2
    ((q.leg leg t dead false).leg leg (t + x) dead true).leg leg (t + x + w) dead false) s

/-- The pins of a stage that switches, for one period (R272, R274, R278): the PFC timer with leg C low for one phase, or the
primary of the DAB with the secondary behind it by the phase shift that its context stored. -/
def State.obcDrive (s : State) (dab : Bool) (t len : Nat) : State :=
  if ¬ s.obcMayDrive then s
  else if dab then
    let n := s.get OBC.pg OBC.CFG_TDP
    let shift := if h : n < 8 then (vget s.cpwCmp ⟨n, h⟩).1 else 0
    let ts := [(n, 0), (s.get OBC.pg OBC.CFG_TDS, shift)]
    [0, 1, 2].foldl (fun s l => s.obcLeg ts l t len) s
  else
    let n := s.get OBC.pg OBC.CFG_TPFC
    let s := if s.obcPhases = 1 then s.cpwLegLow n 2 else s.obcLeg [(n, 0)] 2 t len
    [0, 1].foldl (fun s l => s.obcLeg [(n, 0)] l t len) s

/-- A period start of the PFC timer (`dab` false) or of the DAB timers at fine time `t`, with the length up to the next one:
stale commits are counted (R274), and the pins switch. -/
def State.obcPeriod (s : State) (dab : Bool) (t len : Nat) : State :=
  let o := s.obc
  let on := if dab then o.dabOn else o.pfcOn
  if on then
    let n := if dab then (if o.freshD then 0 else o.staleD + 1) else (if o.freshP then 0 else o.staleP + 1)
    let s := s.obcSet fun o =>
      if dab then { o with staleD := n, freshD := false, dabPers := o.dabPers + 1 }
      else { o with staleP := n, freshP := false }
    let s := s.obcDrive dab t len
    if s.get OBC.pg OBC.STALE_MAX ≤ n ∧ ¬ s.obc.latched.contains 0x80C then s.obcFault 0x80C OBC.EVT_FAULT 9 else s
  else s

/-! ### Commands (R283, R284) -/

/-- The DIR conditions of START (R284). -/
def State.obcDirOk (s : State) (dir : Bool) : Bool :=
  !dir || (s.on OBC.pg OBC.CFG_V2G_EN && s.get OBC.pg OBC.INLET_TYPE == 2 && s.on OBC.pg OBC.HLC_V2G_OK)

/-- An accepted START: step 1 of PRECHARGE, and the timers restart. -/
def State.obcStart (s : State) (dir : Bool) : State :=
  let p := OBC.pg
  let s := s.obcSet fun o => { o with
    pcStep := 1, pcAt := s.now, outS2 := true, outAck := false, outPre := false, dir := dir, dirNext := dir, iref := 0,
    lossSeen := false, ccEnd := none, cvAt := none, countAt := s.now, endN := 0, rangeN := 0 }
  let zero (s : State) (x : Fld) : State := s.put64 p x 0
  let s := [OBC.ETOT_LO, OBC.ECC_LO, OBC.ECV_LO, OBC.DERATE_LO, OBC.SUSP_LO].foldl zero s
  let s := ((s.put p OBC.STAT_TMR 0).put p OBC.STAT_NPH 0).flag p OBC.STAT_CLAMP false
  (s.incSat p OBC.CNT_STARTS).obcGo 2

/-- Whether the cause of a latched fault is gone. -/
def State.obcGone (s : State) (code : Nat) : Bool :=
  let o := s.obc
  match code with
  | 0x801 => o.frameCont
  | 0x802 => !s.obcPilotBad
  | 0x803 => s.get OBC.pg OBC.INLET_PP != 0 && s.get OBC.pg OBC.INLET_PP != 7
  | 0x805 => !o.bmsOut
  | 0x807 => o.acOc == 0
  | 0x808 => o.dabOc == 0
  | 0x809 => o.linkOv == 0
  | 0x80B => o.invalDc == 0 && o.invalAc == 0
  | 0x80D => o.packOv == 0
  | _ => true

/-- The commands of `OBC_CMD` (R284). -/
def State.obcCmd (s : State) (op : Nat) (dir : Bool) : State :=
  let p := OBC.pg
  let st := s.get p OBC.STAT_STATE
  let run (ok : Bool) (f : State → State) := s.command p OBC.CMD_LAST_STS ok f
  match op with
  | 1 =>
    run (st == 1 && s.dstate == .charge && s.obcConnected && s.get p OBC.INLET_TYPE != 0 && s.obcPilot != 0 &&
      s.obc.frameSince && s.obc.latched == [] && s.obcDirOk dir) fun s => s.obcStart dir
  | 2 => run s.obcRunning fun s => s.obcStopping 1
  | 3 => run ((st == 3 || st == 4 || st == 5) && s.obcDirOk dir) fun s => s.obcSet fun o => { o with dirNext := dir }
  | 4 => run (st == 1) fun s => s.obcSet fun o => { o with latched := o.latched.filter fun c => !s.obcGone c }
  | 5 => run true fun s => s.setWord p OBC.CNT 0
  | _ => s.status p OBC.CMD_LAST_STS .unknown

/-- A block command of OBC. -/
def State.obcOp (s : State) (op : Nat) (dir : Bool) : State := s.blockCmd OBC.pg OBC.CMD_LAST_STS fun s => s.obcCmd op dir

/-- OBC_START: STOPPED to PRECHARGE. -/
def execObcStart (dt : Nat) (_req : Req) (dir : Bool) (s : State) : Host.Outcome State Fault Refusal :=
  .next ((s.advance dt).obcOp 1 dir)

/-- OBC_STOP: STOPPING with cause CMD. -/
def execObcStop (dt : Nat) (_req : Req) (s : State) : Host.Outcome State Fault Refusal :=
  .next ((s.advance dt).obcOp 2 false)

/-- OBC_SET_DIR: Iref ramps through 0 and the state follows DIR. -/
def execObcSetDir (dt : Nat) (_req : Req) (dir : Bool) (s : State) : Host.Outcome State Fault Refusal :=
  .next ((s.advance dt).obcOp 3 dir)

/-- OBC_ACK: clears the latched faults whose cause is gone. -/
def execObcAck (dt : Nat) (_req : Req) (s : State) : Host.Outcome State Fault Refusal :=
  .next ((s.advance dt).obcOp 4 false)

/-- OBC_CLR_CNT: the counts to 0. -/
def execObcClrCnt (dt : Nat) (_req : Req) (s : State) : Host.Outcome State Fault Refusal :=
  .next ((s.advance dt).obcOp 5 false)

/-- A commit wrote `CTRL.EN` of OBC (R283). -/
def State.obcEnable (s : State) : State :=
  let st := s.get OBC.pg OBC.STAT_STATE
  if s.on OBC.pg HDR.CTRL_EN then
    if st = 0 then
      (s.obcSet fun o => { o with
        vpack := none, sq := [], updAt := none, endN := 0, invalDc := 0, invalAc := 0, rangeN := 0, acOc := 0, dabOc := 0,
        linkOv := 0, packOv := 0, collN := 0 }).obcGo 1
    else s
  else if st = 0 then s
  else ((s.obcStopped none false).flag OBC.pg OBC.STAT_CLAMP false).obcGo 0

end Sys2Proof.Machine
end

