-- ==== Sys2Proof/Machine/Horizon.lean ====
section
/-! DEFINITION. The Horizon time base: sources, lock groups, compare and capture channels, interpolators and
synchronisation (R66 to R90, R495). -/

namespace Sys2Proof.Machine
open Sys2Proof

/-! ### Lock groups -/

/-- `LG_PERIOD` of a group in fine units (R75). -/
def State.lgPeriodCfg (s : State) (g : Nat) : Nat := s.get TBU.pg (TBU.LG_PERIOD.ix g) % 2 ^ 31

/-- The nominal period of a group under its configuration: a SLAVE's is a multiple of its master's (R79). -/
def State.lgPeriodAdm (s : State) (g : Nat) : Nat :=
  if s.get TBU.pg (TBU.LG_CFG_MODE.ix g) = 2 then
    s.lgPeriodCfg (s.get TBU.pg (TBU.LG_CFG_MASTER.ix g)) * (s.get TBU.pg (TBU.LG_CFG_DIV.ix g) + 1)
  else s.lgPeriodCfg g

/-- `LG_PHASE` of a group in fine units (R76). -/
def State.lgPhaseCfg (s : State) (g : Nat) : Nat := s.get TBU.pg (TBU.LG_PHASE_PHASE.ix g)

/-- The mode code of a group (R77). -/
def State.lgMode (s : State) (g : Nat) : Nat := s.get TBU.pg (TBU.LG_CFG_MODE.ix g)

/-- Whether the group's RUN bit is committed. -/
def State.lgRun (s : State) (g : Nat) : Bool := s.on TBU.pg (TBU.LG_CFG_RUN.ix g)

/-- Whether the group has a period start ahead of it: started, or about to raise its first one. -/
def State.lgRunning (s : State) (g : Nat) : Bool :=
  if h : g < 15 then (vget s.lg ⟨g, h⟩).next.isSome || s.on TBU.pg (TBU.LG_STAT_RUNNING.ix g) else false

/-- `TBU_FOFS` as a signed number of fine units (R87, R88). -/
def State.fofs (s : State) : Int := signed 64 (s.get64 TBU.pg TBU.FOFS_LO)

/-- Fabric time in ticks (R87). -/
def State.fabricTime (s : State) : Int := (s.now * 128 + s.fofs) / 128

/-- A SLAVE group's master is another group that is FREE, FABRIC or SYNC (R79). -/
def State.lgMasterOk (s : State) (g : Nat) : Bool :=
  let m := s.get TBU.pg (TBU.LG_CFG_MASTER.ix g)
  decide (m ≠ g ∧ m < 15) && s.lgMode m != 2

/-- The anchor of a group's grid in fine units of the local count (R77); SYNC takes `LG_START` alone (log 21). -/
def State.lgAnchor (s : State) (g : Nat) : Int :=
  let start : Int := (s.get64 TBU.pg (TBU.LG_START_LO.ix g) : Int) * 128
  match s.lgMode g with
  | 0 => start + s.lgPhaseCfg g
  | 1 => start + s.lgPhaseCfg g - s.fofs
  | _ => start

/-- The first start of the grid (anchor `a`, period `p`) at or after the fine time `t` (R78). -/
def firstStart (a : Int) (p : Nat) (t : Int) : Nat :=
  if t ≤ a then a.toNat
  else if p = 0 then t.toNat
  else (a + ((t - a + p - 1) / p) * p).toNat


/-- Change the hidden state of group `g`. -/
def State.lgSet (s : State) (g : Fin 15) (f : LgH → LgH) : State := { s with lg := vset s.lg g (f (vget s.lg g)) }

/-- Start group `g` under R78, its first period start at or after the fine time `t`. A SLAVE waits for its master. -/
def State.lgStartAt (s : State) (g : Fin 15) (t : Int) : State :=
  let p := s.lgPeriodCfg g
  if s.lgMode g = 2 then
    let m := s.get TBU.pg (TBU.LG_CFG_MASTER.ix g)
    let mp := if h : m < 15 then (vget s.lg ⟨m, h⟩).period else 0
    s.lgSet g fun l => { LgH.idle with
      period := mp * (s.get TBU.pg (TBU.LG_CFG_DIV.ix g) + 1), phase := s.lgPhaseCfg g, renewAt := l.renewAt }
  else
    (s.lgSet g fun _ => { LgH.idle with period := p, next := some (firstStart (s.lgAnchor g) p t), syncPer := none })
      |>.put TBU.pg (TBU.LG_STAT_SYNC_ST.ix g) (if s.lgMode g = 3 then 1 else 0)

/-- Stop group `g` and every slave of it (R78, R79). DESIGN CHOICE (log 84): RUN committed as 0 stops the group in the commit
tick, so that compare matches of the period in progress and a slave's start that is already scheduled do not occur. -/
def State.lgStop (s : State) (g : Fin 15) : State :=
  let one (s : State) (h : Fin 15) : State :=
    (s.lgSet h fun _ => LgH.idle)
      |>.flag TBU.pg (TBU.LG_STAT_RUNNING.ix h) false
      |>.flag TBU.pg (TBU.LG_STAT_SLEWING.ix h) false
      |>.flag TBU.pg (TBU.LG_STAT_RESTART_PEND.ix h) false
      |>.put TBU.pg (TBU.LG_STAT_SYNC_ST.ix h) 0
  (List.finRange 15).foldl (fun s h =>
    if h ≠ g ∧ s.lgMode h = 2 ∧ s.get TBU.pg (TBU.LG_CFG_MASTER.ix h) = g.1 then one s h else s) (one s g)

/-- Set or clear MASTER_ERR of a SLAVE group that is to run; a new error raises fault 0x107 (R79). -/
def State.lgCheckMaster (s : State) (g : Fin 15) : State :=
  let bad := s.lgRun g && s.lgMode g == 2 && !s.lgMasterOk g
  if bad && !s.on TBU.pg (TBU.LG_STAT_MASTER_ERR.ix g) then
    ((s.lgStop g).flag TBU.pg (TBU.LG_STAT_MASTER_ERR.ix g) true).evt TBU.pg TBU.EVT_MASTER_ERR
      |>.raise 0x107 1 0
  else if bad then s
  else s.flag TBU.pg (TBU.LG_STAT_MASTER_ERR.ix g) false

/-- The shorter way from phase `a` to phase `b` around period `p`, above −p/2 and up to p/2 (R80). -/
def phaseDiff (a b p : Nat) : Int :=
  if p = 0 then 0
  else
    let d := ((b : Int) - a) % p
    if 2 * d ≤ p then d else d - p

/-- A commit changed the TBU page: group `g` takes the change (R78, R80). `o` is the state before the commit, and
`newStart` tells whether the commit wrote `LG_START`. -/
def State.lgCommit (s o : State) (newStart : Bool) (g : Fin 15) : State :=
  let wasRun := o.lgRun g
  let run := s.lgRun g
  if !run then (if wasRun then s.lgStop g else s).lgCheckMaster g
  else if !wasRun then
    (((s.lgStop g).put64 TBU.pg (TBU.LG_CNT_LO.ix g) 0).lgStartAt g s.fineNow).lgCheckMaster g
  else
    let l := vget s.lg g
    let modeChanged := o.lgMode g != s.lgMode g ||
      (s.lgMode g == 2 && o.get TBU.pg (TBU.LG_CFG_MASTER.ix g) != s.get TBU.pg (TBU.LG_CFG_MASTER.ix g))
    if modeChanged && !o.lgRunning g then
      (((s.lgStop g).put64 TBU.pg (TBU.LG_CNT_LO.ix g) 0).lgStartAt g s.fineNow).lgCheckMaster g
    else if modeChanged then
      ((s.lgSet g fun l => { l with renew := true, next := some (l.next.getD (l.last + l.period)) }).flag TBU.pg
        (TBU.LG_STAT_RESTART_PEND.ix g) true).lgCheckMaster g
    else
      let p := s.lgPeriodCfg g
      let perChanged := o.lgPeriodCfg g != p
      let t := s.lgAnchor g
      match l.next with
      | none =>
        if s.lgMode g = 2 ∧ s.on TBU.pg (TBU.LG_STAT_RUNNING.ix g) then
          let d := l.slew + phaseDiff (o.lgPhaseCfg g) (s.lgPhaseCfg g) l.period
          (s.lgSet g fun l => { l with slew := d }).flag TBU.pg (TBU.LG_STAT_SLEWING.ix g) (d != 0)
        else s
      | some s0 =>
        if newStart ∧ s.lgMode g ≤ 1 ∧ (s0 : Int) < t then
          let next := if t - s0 < l.period then t.toNat else s0
          (s.lgSet g fun l => { l with restart := some (t.toNat, p), next := some next, slew := 0 })
            |>.flag TBU.pg (TBU.LG_STAT_RESTART_PEND.ix g) true |>.flag TBU.pg (TBU.LG_STAT_SLEWING.ix g) false
        else
          let d := phaseDiff (o.lgPhaseCfg g) (s.lgPhaseCfg g) (if perChanged then p else l.period)
          (s.lgSet g fun l => { l with
              newPer := if perChanged then some p else l.newPer, slew := l.slew + d,
              restart := if perChanged then l.restart.map fun r => (r.1, p) else l.restart })
            |>.flag TBU.pg (TBU.LG_STAT_SLEWING.ix g) (l.slew + d != 0)

/-- One step of a PHASE change: at most a quarter of the period (R80). -/
def slewStep (slew : Int) (p : Nat) : Int := clampInt (-(p / 4 : Nat)) (p / 4 : Nat) slew

/-- The period that a SYNC group takes from now on: the steered one, or in COAST the last one moved toward `LG_PERIOD` by
at most 0.1 % (R85). -/
def State.lgSyncPeriod (s : State) (g : Fin 15) (l : LgH) : Nat :=
  let nom := s.lgPeriodCfg g
  match l.syncPer with
  | some p => p
  | none =>
    if s.get TBU.pg (TBU.LG_STAT_SYNC_ST.ix g) = 3 then
      (clampInt ((l.period : Int) - (l.period / 1000 : Nat)) (l.period + l.period / 1000 : Nat) nom).toNat
    else if l.newPer.isSome then nom else l.period

/-- The next period start of a group that starts a period at `t` with nominal period `p` (R75, R80). -/
def lgNext (l : LgH) (t p : Nat) : Option Nat × Int :=
  match l.restart with
  | some (T, _) => (some (if T - t < 2 * p then T else t + p), l.slew)
  | none =>
    let st := slewStep l.slew p
    (some ((t + p : Int) + st).toNat, l.slew - st)

/-- A master's period start at `t` schedules the period start of its slave `h` (R77, R79). -/
def State.lgSlave (s : State) (g h : Fin 15) (t : Nat) : State :=
  if s.lgRun h ∧ s.lgMode h = 2 ∧ s.get TBU.pg (TBU.LG_CFG_MASTER.ix h) = g.1 ∧ s.lgMasterOk h then
    let l := vget s.lg h
    let d := s.get TBU.pg (TBU.LG_CFG_DIV.ix h)
    let ph := if s.lgRunning h then l.phase else s.lgPhaseCfg h
    if l.renew ∨ l.renewAt > t + ph then s
    else if l.div > 0 then s.lgSet h fun l => { l with div := l.div - 1 }
    else if l.skip then s.lgSet h fun l => { l with skip := false, div := d }
    else
      let p := (vget s.lg g).period * (d + 1)
      s.lgSet h fun l => { l with
        next := some (l.next.getD (t + ph)), phase := ph, base := t, period := p, div := d, renewAt := 0 }
  else s

/-- A slave `h` of group `g` counts its DIV anew from the first start of a new grid of its master (R79, R80). -/
def State.lgAnew (s : State) (g h : Fin 15) : State :=
  if s.lgMode h = 2 ∧ s.get TBU.pg (TBU.LG_CFG_MASTER.ix h) = g.1 then s.lgSet h fun l => { l with div := 0, skip := false }
  else s

/-- A period start of group `g` at fine time `t` is raised: the new period is fixed, the count advances and the slaves
follow. -/
def State.lgRaise (s : State) (g : Fin 15) (t : Nat) : State :=
  let l := vget s.lg g
  let again := s.on TBU.pg (TBU.LG_STAT_RUNNING.ix g)
  let s := s.put64 TBU.pg (TBU.LG_CNT_LO.ix g) (if again then s.get64 TBU.pg (TBU.LG_CNT_LO.ix g) + 1 else 1)
    |>.flag TBU.pg (TBU.LG_STAT_RUNNING.ix g) true
  if s.lgMode g = 2 then
    let st := slewStep l.slew l.period
    let ph : Int := l.phase + st
    let p : Int := l.period
    let rest := l.slew - st
    (if ph < 0 then
      s.lgSet g fun l => { l with last := t, next := some (l.base + ph + p).toNat, phase := (ph + p).toNat, slew := rest }
    else if p ≤ ph then
      s.lgSet g fun l => { l with last := t, next := none, phase := (ph - p).toNat, skip := true, slew := rest }
    else s.lgSet g fun l => { l with
      last := t, next := if t + l.period ≤ l.base + ph.toNat then some (t + l.period) else none,
      phase := ph.toNat, slew := rest })
      |>.flag TBU.pg (TBU.LG_STAT_SLEWING.ix g) (rest != 0)
      |>.flag TBU.pg (TBU.LG_STAT_RESTART_PEND.ix g) false
  else
    let joined := match l.restart with
      | some (T, _) => T == t
      | none => false
    let p := match l.restart with
      | some (T, p) => if T = t then p else l.newPer.getD l.period
      | none => if s.lgMode g = 3 then s.lgSyncPeriod g l else l.newPer.getD l.period
    let l1 : LgH := { l with
      last := t, period := p, restart := if joined then none else l.restart, newPer := none, syncPer := none }
    let (nx, sl) := lgNext l1 t p
    let s := (s.lgSet g fun _ => { l1 with next := nx, slew := sl })
      |>.flag TBU.pg (TBU.LG_STAT_SLEWING.ix g) (sl != 0)
    let s := if joined || l.renewAt != 0 then
      (s.lgSet g fun l => { l with renewAt := 0 }).flag TBU.pg (TBU.LG_STAT_RESTART_PEND.ix g) false else s
    let fresh := !again || l.renewAt != 0
    (List.finRange 15).foldl (fun s h => if h ≠ g then (if fresh then s.lgAnew g h else s).lgSlave g h t else s) s

/-- The present grid of group `g` ends at fine time `t` and the group starts anew, its first start at least 3P/4 later
(R80). -/
def State.lgRenew (s : State) (g : Fin 15) (t : Nat) : State :=
  let s := s.put64 TBU.pg (TBU.LG_CNT_LO.ix g) 0
  let m := s.get TBU.pg (TBU.LG_CFG_MASTER.ix g)
  let mp := if h : m < 15 then (vget s.lg ⟨m, h⟩).period else 0
  let p := if s.lgMode g = 2 ∧ mp ≠ 0 then mp * (s.get TBU.pg (TBU.LG_CFG_DIV.ix g) + 1) else s.lgPeriodAdm g
  let gap := 3 * p / 4
  ((s.lgStartAt g (t + gap)).lgSet g fun l => { l with renewAt := t + gap }).lgCheckMaster g

/-! ### Compare channels (R81) -/

/-- The level of the pin of compare channel `c` after its ACTION. -/
def cmpAction (action : Nat) (old : Bool) : Bool :=
  match action with
  | 1 => true
  | 2 => false
  | 3 => !old
  | _ => old

/-- Mark the channels of group `g` whose phase is not less than the period (R81). -/
def State.cmpSkips (s : State) (g : Fin 15) : State :=
  (List.range 16).foldl (fun s c =>
    if s.on TBU.pg (TBU.CMP_CFG_EN.ix c) ∧ s.get TBU.pg (TBU.CMP_CFG_LG.ix c) = g.1 ∧
        (vget s.lg g).period ≤ s.get TBU.pg (TBU.CMP_PHASE_PHASE.ix c) then
      s.flag TBU.pg (TBU.CMP_CFG_SKIPPED.ix c) true
    else s) s

/-- The fine time at which compare channel `c` matches in the present period, if it does (R81, R495). -/
def State.cmpTime (s : State) (c : Nat) : Option Nat :=
  let g := s.get TBU.pg (TBU.CMP_CFG_LG.ix c)
  if h : g < 15 then
    let l := vget s.lg ⟨g, h⟩
    let ph := s.get TBU.pg (TBU.CMP_PHASE_PHASE.ix c)
    let t := l.last + ph
    let before := match l.next with
      | some n => decide (t < n)
      | none => true
    if s.on TBU.pg (TBU.CMP_CFG_EN.ix c) && s.on TBU.pg (TBU.LG_STAT_RUNNING.ix g) && decide (ph < l.period) && before
    then some t else none
  else none

/-- The matches of compare channel `c` that are known: that of the present period and that of the next one. -/
def State.cmpTimes (s : State) (c : Nat) : List Nat :=
  let g := s.get TBU.pg (TBU.CMP_CFG_LG.ix c)
  let ph := s.get TBU.pg (TBU.CMP_PHASE_PHASE.ix c)
  (s.cmpTime c).toList ++
    if h : g < 15 then
      let l := vget s.lg ⟨g, h⟩
      if s.on TBU.pg (TBU.CMP_CFG_EN.ix c) && s.on TBU.pg (TBU.LG_STAT_RUNNING.ix g) && decide (ph < l.period) then
        l.next.toList.map (· + ph)
      else []
    else []

/-- Whether the pin of compare channel `c` is driven: CMP15's is not while `SYNC_OUT` is enabled (R81, R86). DESIGN CHOICE
(log 85): a channel with OUT_EN 1 and EN 0 does not drive its pin. -/
def State.cmpDrives (s : State) (c : Nat) : Bool :=
  s.on TBU.pg (TBU.CMP_CFG_EN.ix c) && s.on TBU.pg (TBU.CMP_CFG_OUT_EN.ix c) &&
    !(c == 15 && s.on TBU.pg TBU.SYNCOUT_EN)

/-- The level of a compare pin at fine time `t`. -/
def CmpPin.at_ (p : CmpPin) (t : Nat) : Bool := if t < p.edge then p.old else p.level

/-- The level of the pin of compare channel `c` in the present tick. -/
def State.cmpLevel (s : State) (c : Fin 16) : Bool := (vget s.tbu.cmpPin c).at_ s.fineNow

/-- A match of channel `c` at fine time `t`: its trigger line is raised and its pin acts, placed to the fine part (R81,
R83). DESIGN CHOICE (log 85): the spec gives the EVR no register that selects a trigger line, so no route takes it. -/
def State.cmpMatch (s : State) (c : Fin 16) (t : Nat) : State :=
  let s := { s with tbu := { s.tbu with cmpTick := vset s.tbu.cmpTick c (some s.now) } }
  if s.cmpDrives c then
    let old := (vget s.tbu.cmpPin c).at_ t
    let new := cmpAction (s.get TBU.pg (TBU.CMP_CFG_ACTION.ix c)) old
    if new = old then s else { s with tbu := { s.tbu with cmpPin := vset s.tbu.cmpPin c ⟨new, t, old⟩ } }
  else s

/-! ### Captures (R82) -/

/-- CAPTURE: the selected edge of the channel's source is stamped. -/
def execCapture (dt : Nat) (c : Fin 16) (falling : Bool) (fine : Fin 128) (s : State) :
    Host.Outcome State Fault Refusal :=
  let s := s.advance dt
  let edge := s.get TBU.pg (TBU.CAP_CFG_EDGE.ix c)
  let src := s.get TBU.pg (TBU.CAP_CFG_SRC.ix c)
  let picked := if falling then edge / 2 == 1 else edge % 2 == 1
  let live := src != 0 || s.on TBU.pg TBU.SYNCCFG_EN
  if s.on TBU.pg (TBU.CAP_CFG_EN.ix c) && picked && decide (src ≤ 0x15) && live then
    .next ((s.put64 TBU.pg (TBU.CAP_STAMP_LO.ix c) (s.now % 2 ^ 57 * 128 + fine.1))
      |>.flag TBU.pg (TBU.CAP_CFG_OVR.ix c)
        (s.on TBU.pg (TBU.CAP_CFG_OVR.ix c) || s.on TBU.pg (TBU.CAP_CFG_NEW.ix c))
      |>.flag TBU.pg (TBU.CAP_CFG_NEW.ix c) true)
  else .next s

/-! ### Sources (R66 to R72) -/

/-- A glide over the difference `d` in ppb begins (R68). -/
def State.glideStart (s : State) (d : Int) : State :=
  { s with tbu := { s.tbu with directBy := none, glide := some (s.now, d) } }.put TBU.pg TBU.STAT_SRC 3

/-- REF_QUALIFIED: the reference has met the conditions of R68 for QUAL_MS; direct lock from FACTORY while no lock group
runs, else GLIDE. -/
def execRefQualified (dt : Nat) (diffPpb : Int) (s : State) : Host.Outcome State Fault Refusal :=
  let s := s.advance dt
  let src := s.get TBU.pg TBU.STAT_SRC
  let long := decide (s.tbu.refFrom + s.get TBU.pg TBU.SRCCFG_QUAL_MS * 400000 ≤ s.now)
  if long ∧ ¬ (src = 0 ∧ s.tbu.qualified) ∧
      ((src = 0 ∧ diffPpb.natAbs ≤ 10000000) ∨ (src = 2 ∧ diffPpb.natAbs ≤ 1000000)) then
    let s := s.evt TBU.pg TBU.EVT_REF_BACK
    let s := { s with tbu := { s.tbu with qualified := true } }
    if src = 0 ∧ ¬ (List.range 15).any s.lgRunning then
      .next { s with tbu := { s.tbu with directBy := some (s.now + 40000, diffPpb) } }
    else .next (s.glideStart diffPpb)
  else .next s

/-- DIRECT_LOCK: the direct lock completes and SRC becomes REF; if a lock group has started meanwhile, the DCO glides
(R68). -/
def execDirectLock (dt : Nat) (s : State) : Host.Outcome State Fault Refusal :=
  let s := s.advance dt
  match s.tbu.directBy with
  | some (t, d) =>
    if t < s.now then .next s
    else if (List.range 15).any s.lgRunning then .next (s.glideStart d)
    else .next (({ s with tbu := { s.tbu with directBy := none } }.put TBU.pg TBU.STAT_SRC 1).evt TBU.pg TBU.EVT_LOCKED)
  | none => .next s

/-- What a glide over `d` ppb at `rate` ppm/ms has left at least, in ppb, `e` ticks after its start (R68). -/
def glideLeast (d : Int) (rate e : Nat) : Nat := d.natAbs - rate * 1000 * e / 400000

/-- The remaining difference of the glide in progress: a free value between the least and the difference at entry (R68). -/
def State.glideLeft (s : State) : Int × State :=
  match s.tbu.glide with
  | some (t, d) =>
    let lo := glideLeast d (s.get TBU.pg TBU.SRCCFG_GLIDE) (s.now - t)
    let (x, s) := s.freshNat
    (d.sign * (lo + x % (d.natAbs - lo + 1) : Nat), s)
  | none => (0, s)

/-- What `TBU_TRIM` reads: 0 in FACTORY, else the offset kept, or the glide's remaining difference, and steering (R88). -/
def State.trimNow (s : State) : Int × State :=
  match s.get TBU.pg TBU.STAT_SRC with
  | 0 => (0, s)
  | 3 =>
    let (d, s) := s.glideLeft
    (d + s.tbu.steer, s)
  | _ => (s.gets TBU.pg TBU.TRIM + s.tbu.steer, s)

/-- GLIDE_DONE: less than 0.1 ppm is left, at the earliest at the glide rate and at the latest ceil(|D|/GLIDE) + 1 ms after
the entry; SRC becomes REF (R68). -/
def execGlideDone (dt : Nat) (s : State) : Host.Outcome State Fault Refusal :=
  let s := s.advance dt
  let rate := s.get TBU.pg TBU.SRCCFG_GLIDE
  match s.tbu.glide with
  | some (t, d) =>
    let e := s.now - t
    if s.get TBU.pg TBU.STAT_SRC = 3 ∧ glideLeast d rate e < 100 ∧
        e ≤ ((d.natAbs + rate * 1000 - 1) / (rate * 1000) + 1) * 400000 then
      .next ((({ s with tbu := { s.tbu with glide := none } }.put TBU.pg TBU.STAT_SRC 1).put TBU.pg TBU.TRIM 0).evt TBU.pg
        TBU.EVT_LOCKED)
    else .next s
  | none => .next s

/-- REF_LOST: holdover from REF, or from GLIDE at the frequency reached so far; in FACTORY the qualification ends without a
fault (R69). -/
def execRefLost (dt : Nat) (s : State) : Host.Outcome State Fault Refusal :=
  let s := s.advance dt
  match s.get TBU.pg TBU.STAT_SRC with
  | 0 => .next { s with tbu := { s.tbu with directBy := none, qualified := false, refFrom := s.now } }
  | 1 | 3 =>
    let (d, s) := s.glideLeft
    let s := { s with tbu := { s.tbu with glide := none, refFrom := s.now } }
    .next ((((s.put TBU.pg TBU.STAT_SRC 2).puts TBU.pg TBU.TRIM d).evt TBU.pg TBU.EVT_REF_LOST).raise 0x101 1 0)
  | _ => .next { s with tbu := { s.tbu with refFrom := s.now } }

/-- REF_NEVER: no reference qualified 12 ms after reset release (R71). -/
def execRefNever (dt : Nat) (s : State) : Host.Outcome State Fault Refusal :=
  let s := s.advance dt
  if 4800000 ≤ s.now ∧ s.get TBU.pg TBU.STAT_SRC = 0 ∧ ¬ s.tbu.qualified ∧ ¬ s.tbu.neverRaised then
    .next ({ s with tbu := { s.tbu with neverRaised := true } }.raise 0x102 1 0)
  else .next s

/-- RATE_FAIL: the tick rate lies outside ±2 % (R72). -/
def execRateFail (dt : Nat) (s : State) : Host.Outcome State Fault Refusal :=
  .next ((s.advance dt).raise 0x108 5 0)

/-- COUNT_MISMATCH: the two copies of the tick counter differ (R72). -/
def execCountMismatch (dt : Nat) (s : State) : Host.Outcome State Fault Refusal :=
  .next ((s.advance dt).raise 0x109 5 0)

/-! ### Interpolators (R84) -/

/-- The BOOT calibration is complete and no output is stale. -/
def State.calOk (s : State) : State :=
  s.flag TBU.pg TBU.STAT_CAL_OK (s.tbu.calDone && s.get TBU.pg TBU.CALSTAT_STALE_CNT == 0)

/-- A fine time lies within ±2 ticks of the present tick. -/
def State.tickNear (s : State) (t : Nat) : Bool := decide (s.now ≤ t / 128 + 2 ∧ t / 128 ≤ s.now + 2)

/-- Whether an edge is scheduled on interpolator `i` within ±2 ticks (R84): outputs 0 to 35 are the tri-legs', 36 to 83 the
CPW timers', and 84 to 99 those of the compare channels (R83). -/
def State.edgeNear (s : State) (i : Nat) : Bool :=
  let pins (p : Pins) := p.edges.any fun e => e.ball == i % 6 && s.tickNear e.time
  if h : i / 6 < 6 then pins (vget s.tpw ⟨i / 6, h⟩).pins
  else if h : i / 6 - 6 < 8 then pins (vget s.cpw ⟨i / 6 - 6, h⟩)
  else
    let c : Fin 16 := ⟨(i - 84) % 16, Nat.mod_lt _ (by decide)⟩
    let sync := c == 15 && s.on TBU.pg TBU.SYNCOUT_EN && (match s.tbu.syncOut with
      | some (a, b) => s.tickNear a || s.tickNear b
      | none => false)
    sync || s.tickNear (vget s.tbu.cmpPin c).edge || (s.cmpDrives c && (match s.cmpTime c with
      | some t => s.tickNear t
      | none => false))

/-- The ticks of a calibration cycle: four outputs at a time, 2,000 ticks each (R84). -/
def calCycleTicks : Nat := 50000

/-- `TBU_CALSTAT` as a read finds it: the cycles since reset release and the largest correction of the last one (R84,
R88). -/
def State.calstatNow (s : State) (w : Nat) : Nat :=
  let c := s.now / calCycleTicks
  let worst := if c = s.tbu.cycle then s.tbu.worstOld else if c = s.tbu.cycle + 1 then s.tbu.worst else 0
  setBits (setBits w 15 0 c) 23 16 (min worst 255)

/-- INTERPOLATOR_SWAP: a calibrated delay line swaps with the serving one in a tick without a nearby edge. -/
def execInterpolatorSwap (dt : Nat) (i : Fin 100) (trimPs : Nat) (s : State) : Host.Outcome State Fault Refusal :=
  let s := s.advance dt
  if s.edgeNear i then .next s
  else
    let wasStale := vget s.tbu.stale i
    let swapped := vset s.tbu.swapped i true
    let c := s.now / calCycleTicks
    let (worst, old) :=
      if c = s.tbu.cycle then (max s.tbu.worst trimPs, s.tbu.worstOld)
      else (trimPs, if c = s.tbu.cycle + 1 then s.tbu.worst else 0)
    let s := { s with tbu := { s.tbu with
      stale := vset s.tbu.stale i false, swapped := swapped, swapAt := vset s.tbu.swapAt i s.now, cycle := c,
      worst := worst, worstOld := old, calDone := s.tbu.calDone || (List.finRange 100).all (vget swapped) } }
    let s := if wasStale then s.put TBU.pg TBU.CALSTAT_STALE_CNT (s.get TBU.pg TBU.CALSTAT_STALE_CNT - 1) else s
    .next s.calOk

/-- CAL_STALE: an output has not swapped for 16 cycles. -/
def execCalStale (dt : Nat) (i : Fin 100) (s : State) : Host.Outcome State Fault Refusal :=
  let s := s.advance dt
  if vget s.tbu.stale i ∨ s.now < vget s.tbu.swapAt i + 16 * calCycleTicks then .next s
  else
    let s := { s with tbu := { s.tbu with stale := vset s.tbu.stale i true } }
    .next (((s.incSat TBU.pg TBU.CALSTAT_STALE_CNT).calOk.evt TBU.pg TBU.EVT_CAL_STALE).raise 0x103 1 0)

/-! ### SYNC_IN and SYNC_OUT (R85, R86) -/

/-- WIN per cent of the nominal period. -/
def State.syncWindow (s : State) (g : Fin 15) : Nat := s.lgPeriodCfg g * s.get TBU.pg TBU.SYNCCFG_WIN / 100

/-- The signed distance from the nearest period start of a group to fine time `t`. -/
def nearestError (l : LgH) (t : Int) : Int :=
  if l.period = 0 then 0
  else
    let d := (t - l.last) % (l.period : Int)
    if 2 * d ≤ l.period then d else d - l.period

/-- An edge of `SYNC_IN` at fine time `e` reaches SYNC group `g`; intervals outside 400 to 16,777,215 ticks are not accepted
(R85). DESIGN CHOICE (log 86): in SEEK and COAST the first edge, and one outside the window, becomes the new reference; an
eighth of the phase error is rounded toward minus infinity and WIN per cent down. -/
def State.syncEdge (s : State) (g : Fin 15) (e : Nat) : State :=
  let l := vget s.lg g
  let st := s.get TBU.pg (TBU.LG_STAT_SYNC_ST.ix g)
  let nom := s.lgPeriodCfg g
  let w := s.syncWindow g
  let base (s : State) := s.lgSet g fun l => { l with syncRef := some e }
  match l.syncRef with
  | none => base s
  | some r =>
    let iv := e - r
    if nom ≤ iv + w ∧ iv ≤ nom + w ∧ 400 * 128 ≤ iv ∧ iv ≤ 16777215 * 128 then
      let err := nearestError l ((e : Int) + s.lgPhaseCfg g)
      let per := (clampInt ((nom : Int) - w) (nom + w) ((iv : Int) - err / 8)).toNat
      let near := decide (err.natAbs < 512)
      let good := if st = 1 then (if near then l.syncGood + 1 else 0) else 0
      let st' := if st = 3 then 1 else if st = 1 ∧ 8 ≤ good then 2 else st
      let s := s.lgSet g fun l => { l with syncRef := some e, syncPer := some per, syncGood := good }
      let s := (s.put TBU.pg (TBU.LG_STAT_SYNC_ST.ix g) st').put TBU.pg TBU.SYNCPER (2 ^ 31 + iv % 2 ^ 31)
      let s := { s with tbu := { s.tbu with syncAt := some s.now } }
      s.evtIf (st == 1 && st' == 2) TBU.pg TBU.EVT_SYNC_BACK
    else if st = 2 then s else base (s.lgSet g fun l => { l with syncGood := 0 })

/-- SYNC_IN_EDGE: the edge that `SYNCCFG.EDGE` selects steers every SYNC group. -/
def execSyncInEdge (dt : Nat) (falling : Bool) (fine : Fin 128) (s : State) : Host.Outcome State Fault Refusal :=
  let s := s.advance dt
  if s.on TBU.pg TBU.SYNCCFG_EN && s.on TBU.pg TBU.SYNCCFG_EDGE == falling then
    .next ((List.finRange 15).foldl (fun s (g : Fin 15) =>
      if s.lgRun g ∧ s.lgMode g = 3 then s.syncEdge g (s.now * 128 + fine.1) else s) s)
  else .next s

/-- SYNC_LOST: a FOLLOW group misses its accepted edge twice in a row and coasts (R85). DESIGN CHOICE (log 86): that is
2 × P × (1 + WIN/100) after the last accepted edge, and COAST forgets that edge. -/
def execSyncLost (dt : Nat) (g : Fin 15) (s : State) : Host.Outcome State Fault Refusal :=
  let s := s.advance dt
  let l := vget s.lg g
  let gap := l.period * (100 + s.get TBU.pg TBU.SYNCCFG_WIN) / 100
  let missed : Bool := match l.syncRef with
    | some r => decide (r + 2 * gap ≤ s.fineNow)
    | none => false
  if s.lgMode g = 3 ∧ s.get TBU.pg (TBU.LG_STAT_SYNC_ST.ix g) = 2 ∧ missed then
    .next (((s.lgSet g fun l => { l with syncRef := none, syncGood := 0, syncPer := none })
      |>.put TBU.pg (TBU.LG_STAT_SYNC_ST.ix g) 3).evt TBU.pg TBU.EVT_SYNC_LOST |>.raise 0x104 1 0)
  else .next s

/-- A period start of group `g` at fine time `t` starts the `SYNC_OUT` pulse of R86. -/
def State.syncOutStart (s : State) (g : Fin 15) (t : Nat) : State :=
  if s.on TBU.pg TBU.SYNCOUT_EN ∧ s.get TBU.pg TBU.SYNCOUT_LG = g.1 then
    { s with tbu := { s.tbu with syncOut := some (t, t + s.get TBU.pg TBU.SYNCOUT_WIDTH * 128) } }
  else s

/-- SYNC_OUT_END: `SYNC_OUT` returns to inactive WIDTH ticks after the period start. -/
def execSyncOutEnd (dt : Nat) (s : State) : Host.Outcome State Fault Refusal :=
  let s := s.advance dt
  match s.tbu.syncOut with
  | some (_, t) => if t / 128 ≤ s.now then .next { s with tbu := { s.tbu with syncOut := none } } else .next s
  | none => .next s

/-- The level of the `SYNC_OUT` ball (R86, R459). -/
def State.syncOutLevel (s : State) : Bool :=
  s.dstate.running && s.on TBU.pg TBU.SYNCOUT_EN &&
    ((match s.tbu.syncOut with
      | some (a, b) => decide (a ≤ s.fineNow ∧ s.fineNow < b)
      | none => false) != s.on TBU.pg TBU.SYNCOUT_POL)

/-- STEER_LIMIT: a residual above 400 ticks has persisted for 400,000 ticks (R87). -/
def execSteerLimit (dt : Nat) (s : State) : Host.Outcome State Fault Refusal :=
  let s := s.advance dt
  match s.tbu.steerSince with
  | some t =>
    if t + 400000 ≤ s.now ∧ s.on TBU.pg TBU.STAT_FAB_DISC ∧ ¬ s.tbu.steerRaised then
      .next (({ s with tbu := { s.tbu with steerRaised := true } }.evt TBU.pg TBU.EVT_STEER_LIMIT).raise 0x105 1 0)
    else .next s
  | none => .next s

end Sys2Proof.Machine
end

