-- ==== Sys2Proof/Machine/Trig.lean ====
section
/-! DEFINITION. The functions that R181 states to within 1 ulp: a value of high precision is bracketed by two binary32
values, and which of them the device returns for an argument is a free choice of the die (log 6). -/

namespace Sys2Proof.Machine
open Sys2Proof

/-- ±n/d with the magnitude rounded down to binary32. -/
def ftrunc (neg : Bool) (n d : Nat) : F32 :=
  if n = 0 then fZero neg
  else
    let e0 : Int := (Nat.log2 n : Int) - Nat.log2 d - 23
    let scale (e : Int) : Nat × Nat := if 0 ≤ e then (n, d * 2 ^ e.toNat) else (n * 2 ^ (-e).toNat, d)
    let small (e : Int) : Bool := let (a, b) := scale e; decide (a < 2 ^ 23 * b)
    let e := if small e0 then e0 - 1 else e0
    let (a, b) := scale e
    let biased := e + 150
    if 255 ≤ biased then fInf neg
    else if biased ≤ 0 then fZero neg
    else BitVec.ofNat 32 ((if neg then 2 ^ 31 else 0) + biased.toNat * 2 ^ 23 + (a / b - 2 ^ 23))

/-- The fixed point of the high-precision values: 256 fractional bits. -/
def fixOne : Int := 2 ^ 256

/-- π and ln 10 in that fixed point. -/
def fixPi : Int := 363771576891766324280234942777729862653393377328392429958772151117938894466185
def fixLn10 : Int := 266621138564480548222253459415182587429914225440519472036001743423645469947338

/-- The sum of a series: `term` is multiplied by `step / (k·(k+1))` (two factors) or `step / k` (one). -/
def fixSeries (two : Bool) (step : Int) : Nat → Nat → Int → Int
  | 0, _, t => t
  | n + 1, k, t =>
    let d : Int := if two then (k * (k + 1) : Nat) else k
    t + fixSeries two step n (if two then k + 2 else k + 1) (t * step / (fixOne * d))

/-- Sine and cosine of an angle in fixed point from 0 to π/2. -/
def fixSin (x : Int) : Int := fixSeries true (-(x * x / fixOne)) 32 2 x
def fixCos (x : Int) : Int := fixSeries true (-(x * x / fixOne)) 32 1 fixOne

/-- A fixed-point value that is not representable: one of its two binary32 neighbours, as the die chooses. -/
def pickUlp (f : Nat) (arg : F32) (v : Int) : F32 :=
  let lo := ftrunc (decide (v < 0)) v.natAbs (2 ^ 256)
  if lo.toNat % 2 ^ 31 = 0 ∨ Config.trigPick f arg % 2 = 0 then lo else lo + 1#32

/-- A representable value other than 0: itself or a neighbour within 1 ulp. -/
def pickExact (f : Nat) (arg v : F32) : F32 :=
  match Config.trigPick f arg % 3 with
  | 0 => v
  | 1 => v + 1#32
  | _ => v - 1#32

/-- sin (`q = 0`) or cos (`q = 1`) of 2π times the fraction of a turn `n/d`, without the choice. -/
def turnSin (q n d : Nat) : Int :=
  let m := (4 * (n % d) + q * d) % (4 * d)
  let x := fixPi * ((m % d : Nat) : Int) / (2 * d : Nat)
  match m / d with
  | 0 => fixSin x
  | 1 => fixCos x
  | 2 => -fixSin x
  | _ => -fixCos x

/-- sin or cos of 2π·θ, evaluated on θ − floor(θ) (R181). -/
def fturn (q : Nat) (th : F32) : F32 :=
  let r := fsub th (ffloor th)
  match fval r with
  | .fin _ n d =>
    let m := (4 * (n % d) + q * d) % (4 * d)
    if m % d = 0 then
      match m / d with
      | 1 => pickExact q r f1
      | 3 => pickExact q r (fneg f1)
      | _ => 0
    else pickUlp q r (turnSin q n d)
  | _ => fNaN

/-- sin 2πθ and cos 2πθ. -/
def fsin (th : F32) : F32 := fturn 0 th
def fcos (th : F32) : F32 := fturn 1 th

/-- tan of an angle in radians between 0 and π/2 (R195). -/
def ftan (x : F32) : F32 :=
  match fval x with
  | .fin _ n d =>
    if n = 0 then 0
    else
      let v := fixOne * (n : Int) / (d : Int)
      pickUlp 2 x (fixSin v * fixOne / fixCos v)
  | _ => fNaN

/-- 10 to the power x (R195). -/
def fpow10 (x : F32) : F32 :=
  match fval x with
  | .fin neg n d =>
    if n = 0 then pickExact 3 x f1
    else
      let v := fixLn10 * snum neg n / (d : Int)
      pickUlp 3 x (fixSeries false v 140 1 fixOne)
  | _ => fNaN

end Sys2Proof.Machine
end

