-- ==== Sys2Proof/Machine/Position.lean ====
section
/-! DEFINITION. Rotor position and speed: resolver, encoder, Hall sensors, flux observer, fusion, the lost angle and its
re-acquisition (R207 to R229). -/

namespace Sys2Proof.Machine
open Sys2Proof

/-! ### Angles and vectors -/

/-- The hidden state of unit `n`, and its change. -/
def State.posH (s : State) (n : Fin 3) : PosH := vget s.pos n
def State.posSet (s : State) (n : Fin 3) (f : PosH → PosH) : State := { s with pos := vset s.pos n (f (vget s.pos n)) }

/-- Coefficient `j` of `POS_K`: ISC, VSC, RS, LD, LQ, PSI, WC, KP, KI, WMIN (R229). -/
def State.posK (s : State) (n : Fin 3) (j : Nat) : F32 := s.rd (fldAddr (POS.pg n) (POS.K.ix j))

/-- The fraction of an angle in turns. -/
def ffrac (x : F32) : F32 := fsub x (ffloor x)

/-- An angle advanced at speed `w` for `dt` ticks (R221). -/
def fadvance (th w : F32) (dt : Int) : F32 := fadd th (fdiv (fmul (fmul w (fint dt)) fTick) f2Pi)

/-- An angle code of 1/65,536 turn, truncated (R229). -/
def angleCode (th : F32) : Nat := (ffloorInt (fmul (ffrac th) (fint 65536)) % 65536).toNat

/-- The difference of two angles modulo one turn, in 1/65,536 turn. -/
def angleDiff (a b : F32) : F32 :=
  let y := ffrac (fsub a b)
  fmul (fmin y (fsub f1 y)) (fint 65536)

/-- PARK and IPARK (R189) for an angle in turns. -/
def park (a b th : F32) : F32 × F32 :=
  let sn := fsin th
  let cs := fcos th
  (fadd (fmul a cs) (fmul b sn), fsub (fmul b cs) (fmul a sn))
def ipark (d q th : F32) : F32 × F32 :=
  let sn := fsin th
  let cs := fcos th
  (fsub (fmul d cs) (fmul q sn), fadd (fmul d sn) (fmul q cs))

/-- The matrix rows of VSD6 (R188): α, β, x, y, z1, z2 for `opt` 0 or 1. -/
def vsdRows (opt : Nat) : List (List F32) :=
  let t := frat 1 3
  let h := frat 1 6
  let r : F32 := 0x3E93CD3A#32
  let n := fneg
  let z : F32 := 0
  let z1 := [t, t, t, z, z, z]
  let z2 := [z, z, z, t, t, t]
  if opt = 0 then
    [[t, n h, n h, r, n r, z], [z, r, n r, h, h, n t], [t, n h, n h, n r, r, z], [z, n r, r, h, h, n t], z1, z2]
  else
    [[t, n h, n h, t, n h, n h], [z, r, n r, z, r, n r], [t, n h, n h, n t, h, h], [z, r, n r, z, n r, r], z1, z2]

/-- A sum of products, accumulated in index order. -/
def dot (a b : List F32) : F32 :=
  match a.zip b with
  | [] => 0
  | (x, y) :: l => l.foldl (fun acc p => fadd acc (fmul p.1 p.2)) (fmul x y)

/-- Speed and angle bindings of a unit, which hold the extrapolated values while the angle is lost (R221, R223). -/
def State.posAngle (s : State) (n : Fin 3) (t : Nat) : Int :=
  if s.posState n ≤ 1 then 0
  else
    let h := s.posH n
    froundToInt (fmul (fadvance h.th h.w ((t : Int) - h.updAt)) (fint 65536)) % 65536

/-! ### Source validity -/

/-- Whether source `i` (bit order of SRCEN) is valid. -/
def State.posValid (s : State) (n : Fin 3) (i : Nat) : Bool := s.bitOn (POS.pg n) POS.SRCSTAT_VALID i

/-- A source becomes valid or invalid; one that is disabled or marked failed never is valid (R207, R219). -/
def State.posMark (s : State) (n : Fin 3) (i : Nat) (v : Bool) : State :=
  let ok := v && s.bitOn (POS.pg n) POS.CFG_SRCEN i && !s.bitOn (POS.pg n) POS.SRCSTAT_FAILED i
  (s.posSet n fun h => { h with held := if ok then h.held else setBits h.held i i 0 }).putBit (POS.pg n) POS.SRCSTAT_VALID i ok

/-- The unit and source `i` are enabled. -/
def State.posOn (s : State) (n : Fin 3) (i : Nat) : Bool :=
  s.posState n != 0 && s.bitOn (POS.pg n) POS.CFG_SRCEN i

/-- A source fault of reaction FR1, with its event. -/
def State.posNote (s : State) (n : Fin 3) (code : Nat) (evt : Fld) : State :=
  (s.evt (POS.pg n) evt).note code 1 (2 ^ n.1) 0

/-! ### Resolver (R209 to R212) -/

/-- The excitation frequency in Hz. -/
def State.rsvFreq (s : State) (n : Fin 3) : Nat := 5000 * (s.get (POS.pg n) POS.RSV_EXC_F + 1)

/-- The electrical factor MPP/RPP. -/
def State.rsvFactor (s : State) (n : Fin 3) : F32 := frat (s.get (POS.pg n) POS.CFG_MPP) (s.get (POS.pg n) POS.CFG_RPP)

/-- The number of the present excitation period. -/
def State.rsvPeriod (s : State) (n : Fin 3) : Nat := s.now * s.rsvFreq n / 400000000

/-- The phase of the excitation at the present tick, in turns: `f_exc*t` less `shift`/256. -/
def State.rsvTurns (s : State) (n : Fin 3) (shift : Nat) : F32 :=
  froundInt false ((((s.now * s.rsvFreq n : Nat) : Int) * 256 - (shift : Int) * 400000000) % (400000000 * 256)) (400000000 * 256)

/-- The set peak amplitude of the excitation in millivolts, and the voltage between `RXn_EXCP` and `RXn_EXCN` in millivolts:
0 while the excitation is off (R209, R227). -/
def State.rsvAmplitude (s : State) (n : Fin 3) : Nat := 200 + 16 * s.get (POS.pg n) POS.RSV_AMP
def State.rsvExcitation (s : State) (n : Fin 3) : F32 :=
  if s.on (POS.pg n) POS.STAT_EXC_ON then fmul (fint (s.rsvAmplitude n)) (fsin (s.rsvTurns n 0)) else 0

/-- RSV_SAMPLE: a 16-bit sample pair, every 80 ticks, updates the tracking loop and the sums of its period (R210, R212). -/
def execRsvSample (dt : Nat) (n : Fin 3) (sn cs : BitVec 16) (s : State) : Host.Outcome State Fault Refusal :=
  let s := s.advance dt
  if s.now % 80 = 0 ∧ s.posOn n 0 then
    let p := POS.pg n
    let h := s.posH n
    let r := fsin (s.rsvTurns n (s.get p POS.RSV_PHASE))
    let e := fdiv (fmul (fmul (fsub (fmul (fint sn.toInt) (fcos h.rsvTh)) (fmul (fint cs.toInt) (fsin h.rsvTh))) r) f2)
      (fint (Config.rsvNominal (s.get p POS.RSV_AMP)))
    let wn := fmul f2Pi (fint (500 * 2 ^ s.get p POS.RSV_BW : Nat))
    let kp := fmul (frat 14 10) wn
    let ki := fmul wn wn
    let d := frat 2 10000000
    let w := fadd h.rsvW (fmul (fmul ki e) d)
    let th := fadd h.rsvTh (fdiv (fmul (fadd w (fmul kp e)) d) f2Pi)
    .next (s.posSet n fun h => { h with
      rsvTh := ffrac th, rsvW := w, rsvAt := s.now, rsvSamples := h.rsvSamples + 1
      rsvS := fadd h.rsvS (fmul (fint sn.toInt) r), rsvC := fadd h.rsvC (fmul (fint cs.toInt) r)
      rsvDS := h.rsvDS + sn.toInt, rsvDC := h.rsvDC + cs.toInt, rsvN := h.rsvN + 1 })
  else .next s

/-- The numerator and the denominator of a finite value. -/
def fratio (x : F32) : Int × Nat :=
  match fval x with
  | .fin a n d => (snum a n, d)
  | _ => (0, 1)

/-- Whether the angle of (sn, cs) differs from `th` by more than 1/128 turn (R212), in high precision. -/
def trackingLost (sn cs th : F32) : Bool :=
  match fval th with
  | .fin _ k d =>
    let (a, da) := fratio sn
    let (b, db) := fratio cs
    let sn := a * db
    let cs := b * da
    let x := cs * turnSin 1 k d + sn * turnSin 0 k d
    let lim := turnSin 1 1 128
    decide (x < 0) || decide (x * x < (sn * sn + cs * cs) * (lim * lim))
  | _ => true

/-- Raise the faults of the checks that begin to fail, bit by bit. -/
def State.rsvFaults (s : State) (n : Fin 3) (old new : Nat) : State :=
  (List.range 5).foldl (fun s b =>
    if new.testBit b && !old.testBit b then s.posNote n (0x501 + b) POS.EVT_RSV else s) s

/-- RSV_PERIOD_CHECK: once per excitation period, the checks on the samples since the last one; `exc` is the peak amplitude of
the excitation that the internal readback finds, in millivolts (R209, R212), and the four places after it carry nothing (log 102). DEDUCED (log 92): the demodulated components are
twice the means of the samples times the excitation reference, and the DC components the means of the samples. -/
def execRsvPeriodCheck (dt : Nat) (n : Fin 3) (exc : Nat) (_ _ _ _ : Unit) (s : State) : Host.Outcome State Fault Refusal :=
  let s := s.advance dt
  if s.posOn n 0 ∧ s.rsvPeriod n ≠ (s.posH n).rsvPer then
    let p := POS.pg n
    let h := s.posH n
    let mean (x : F32) : F32 := if h.rsvN = 0 then 0 else fdiv (fmul f2 x) (fint h.rsvN)
    let sn := mean h.rsvS
    let cs := mean h.rsvC
    let m := (ffloorInt (fhypot sn cs)).toNat
    let dc := max (Config.rsvMillivolt (h.rsvDS.natAbs / max 1 h.rsvN)) (Config.rsvMillivolt (h.rsvDC.natAbs / max 1 h.rsvN))
    let amp := s.rsvAmplitude n
    let excBad := decide (20 * exc < 19 * amp ∨ 21 * amp < 20 * exc)
    let lo := consec (decide (m < s.get p POS.RSVTHR_AMP_LO)) h.rsvLo
    let hi := consec (decide (s.get p POS.RSVTHR_AMP_HI < m)) h.rsvHi
    let lost := trackingLost sn cs h.rsvTh
    let lot := consec lost h.rsvLot
    let excN := consec excBad h.rsvExc
    let opn := s.on p POS.RSV_OWEN && decide (600 < dc)
    let bad := b2n (decide (2 ≤ lo)) + 2 * b2n (decide (2 ≤ hi)) + 4 * b2n (decide (4 ≤ lot)) + 8 * b2n opn +
      16 * b2n (decide (4 ≤ excN))
    let pass := decide (s.get p POS.RSVTHR_AMP_LO ≤ m ∧ m ≤ s.get p POS.RSVTHR_AMP_HI) && !lost && !opn && !excBad
    let good := if pass then h.rsvGood + 1 else 0
    let samples := if lost then 0 else h.rsvSamples
    let s := ((s.put p POS.RSVAMP_AMP (min m 65535)).put p POS.RSVAMP_DC (min dc 65535)).posSet n fun h => { h with
      rsvLo := lo, rsvHi := hi, rsvLot := lot, rsvExc := excN, rsvBad := bad, rsvGood := good, rsvSamples := samples
      rsvPer := s.rsvPeriod n, rsvS := 0, rsvC := 0, rsvDS := 0, rsvDC := 0, rsvN := 0 }
    let s := s.rsvFaults n h.rsvBad bad
    .next (if bad ≠ 0 then s.posMark n 0 false
      else if 16 ≤ good ∧ 256 ≤ samples then s.posMark n 0 true else s)
  else .next s

/-! ### Encoder (R213) -/

/-- Counts per electrical turn, as the factor MPP/(4·LINES). -/
def State.encFactor (s : State) (n : Fin 3) : F32 :=
  frat (s.get (POS.pg n) POS.CFG_MPP) (4 * s.get (POS.pg n) POS.ENC_LINES)

/-- The place of the two levels in the quadrature cycle. -/
def quadPhase (a b : Bool) : Nat := if a then (if b then 2 else 1) else (if b then 3 else 0)

/-- The encoder as it stood before the edges of this tick. -/
def State.encBefore (s : State) (n : Fin 3) : EncBase :=
  let h := s.posH n
  match h.encBase with
  | some e => if e.tick = s.now then e else ⟨s.now, h.encA, h.encB, h.encCount, h.encAt, h.encW⟩
  | none => ⟨s.now, h.encA, h.encB, h.encCount, h.encAt, h.encW⟩

/-- ENC_EDGE: the pins take the levels `a` and `b`. A change of both since the last tick is illegal: it changes no count
(R213). -/
def execEncEdge (dt : Nat) (n : Fin 3) (a b : Bool) (s : State) : Host.Outcome State Fault Refusal :=
  let s := s.advance dt
  let e := s.encBefore n
  let t := s.posSet n fun h => { h with
    encA := a, encB := b, encBase := some e, encCount := e.count, encAt := e.edgeAt, encW := e.w }
  if ¬ s.posOn n 1 then .next t
  else
    match (quadPhase a b + 4 - quadPhase e.a e.b) % 4 with
    | 0 => .next t
    | 2 => .next ((t.posMark n 1 false).posNote n 0x506 POS.EVT_ENC)
    | k =>
      let d : Int := if (k = 1) != s.on (POS.pg n) POS.ENC_DIR then 1 else -1
      let w := match e.edgeAt with
        | some t0 => fdiv (fmul (fmul (fint d) (s.encFactor n)) f2Pi) (fsec (s.now - t0))
        | none => 0
      .next (t.posSet n fun h => { h with encCount := e.count + d, encAt := some s.now, encW := w })

/-- The distance of a count from the nearest index position. -/
def indexError (count : Int) (turn : Nat) : Nat :=
  let r := (count % (turn : Int)).toNat
  min r (turn - r)

/-- ENC_INDEX: an index edge aligns the encoder, or checks the count since the last one. -/
def execEncIndex (dt : Nat) (n : Fin 3) (s : State) : Host.Outcome State Fault Refusal :=
  let s := s.advance dt
  let p := POS.pg n
  let h := s.posH n
  if ¬ s.posOn n 1 then .next s
  else if s.posValid n 1 then
    match h.encIdx with
    | none => .next (s.posSet n fun h => { h with encIdx := some h.encCount })
    | some c =>
      if s.get p POS.ENC_ZTOL < indexError (h.encCount - c) (4 * s.get p POS.ENC_LINES) then
        .next ((s.posMark n 1 false).posNote n 0x507 POS.EVT_ENC)
      else .next s
  else if s.on p POS.ENC_ZEN then
    .next ((s.posSet n fun h => { h with encCount := 0, encOfs := 0, encIdx := some 0 }).posMark n 1 true)
  else .next s

/-- ENC_SPEED_TIMEOUT: no edge within 400,000 ticks. -/
def execEncSpeedTimeout (dt : Nat) (n : Fin 3) (s : State) : Host.Outcome State Fault Refusal :=
  let s := s.advance dt
  match (s.posH n).encAt with
  | some t => if t + 400000 ≤ s.now then .next (s.posSet n fun h => { h with encW := 0 }) else .next s
  | none => .next s

/-! ### Hall sensors (R214) -/

/-- HALL_EDGE: the Hall pins take the state `st`. -/
def execHallEdge (dt : Nat) (n : Fin 3) (st : BitVec 3) (s : State) : Host.Outcome State Fault Refusal :=
  let s := s.advance dt
  let p := POS.pg n
  let h := s.posH n
  let k := hallSector (s.on p POS.HALL_DIR) st.toNat
  let s := s.posSet n fun h => { h with hallRaw := st.toNat }
  if ¬ s.posOn n 2 then .next (s.posSet n fun h => { h with hall := k })
  else
    if k = 0 then
      .next (((s.posSet n fun h => { h with hall := 0, hallN := 0, hallAt := none }).posMark n 2 false).posNote n 0x508
        POS.EVT_HALL)
    else
      if k = h.hall then .next s else
      match sectorStep h.hall k with
      | none => .next (s.posSet n fun h => { h with hall := k, hallN := 0, hallAt := none, hallW := 0 })
      | some d =>
        let w := match h.hallAt with
          | some t => fdiv (fmul (fint d) (fdiv f2Pi (fint 6))) (fsec (s.now - t))
          | none => 0
        let edge := frat (if d = 1 then (k : Int) - 1 else k) 6
        let cnt := if d = h.hallDir then h.hallN + 1 else 1
        let s := s.posSet n fun h => { h with
          hall := k, hallAt := some s.now, hallW := w, hallDir := d, hallN := cnt, hallTh := edge }
        .next (if 2 ≤ cnt then s.posMark n 2 true else s)

/-! ### Flux observer (R215 to R217) -/

/-- αβ currents and voltages, and whether every result is VALID. -/
structure Vectors where
  ia : F32
  ib : F32
  va : F32
  vb : F32
  ok : Bool
deriving DecidableEq, Repr

/-- The vectors of R215 at a latch. -/
def State.posVectors (s : State) (n : Fin 3) : Vectors :=
  let p := POS.pg n
  let g1 := s.get p POS.OBS_IG1
  let g2 := s.get p POS.OBS_IG2
  let isc := s.posK n 0
  let ok1 := (List.range 4).all fun c => isValid (s.adfRes0 g1 c)
  let ok2 := (List.range 3).all fun c => isValid (s.adfRes0 g2 c)
  let vdc := scaled (s.adfRes0 g1 3) (s.posK n 1)
  let i1 := s.phaseCurrents g1 isc
  let i2 := s.phaseCurrents g2 isc
  let v1 := s.phaseVoltages (2 * n) vdc i1
  let v2 := s.phaseVoltages (2 * n + 1) vdc i2
  match s.get p POS.OBS_SET with
  | 0 => let i := clarke3 i1; let v := clarke3 v1; ⟨i.1, i.2, v.1, v.2, ok1⟩
  | 1 => let i := clarke3 i2; let v := clarke3 v2; ⟨i.1, i.2, v.1, v.2, isValid (s.adfRes0 g1 3) && ok2⟩
  | _ =>
    let rows := vsdRows (s.get p POS.OBS_GEOM)
    let il := [i1.a, i1.b, i1.c, i2.a, i2.b, i2.c]
    let vl := [v1.a, v1.b, v1.c, v2.a, v2.b, v2.c]
    ⟨dot (rows.getD 0 []) il, dot (rows.getD 1 []) il, dot (rows.getD 0 []) vl, dot (rows.getD 1 []) vl, ok1 && ok2⟩

/-- The observer takes angle and speed, with the flux that belongs to them (R217, R225). -/
def State.obsSeed (s : State) (n : Fin 3) (v : Vectors) (th w : F32) : State :=
  let (id, iq) := park v.ia v.ib th
  let psi := ipark (fadd (fmul (s.posK n 3) id) (s.posK n 5)) (fmul (s.posK n 4) iq) th
  s.posSet n fun h => { h with psiA := psi.1, psiB := psi.2, obsTh := ffrac th, obsW := w }

/-- One update of the observer (R216), with the conditions of R217. -/
def State.obsStep (s : State) (n : Fin 3) (v : Vectors) : State :=
  let k := s.posK n
  let h := s.posH n
  let step := match h.latAt with
    | some t => fsec (s.now - t)
    | none => 0
  let (id, iq) := park v.ia v.ib h.obsTh
  let cm := ipark (fadd (fmul (k 3) id) (k 5)) (fmul (k 4) iq) h.obsTh
  let up (psi vx ix c : F32) :=
    fadd psi (fmul step (fadd (fsub vx (fmul (k 2) ix)) (fmul (k 6) (fsub c psi))))
  let pa := up h.psiA v.va v.ia cm.1
  let pb := up h.psiB v.vb v.ib cm.2
  let fa := fsub pa (fmul (k 4) v.ia)
  let fb := fsub pb (fmul (k 4) v.ib)
  let mag := fhypot fa fb
  let eps := fdiv (fsub (fmul fb (fcos h.obsTh)) (fmul fa (fsin h.obsTh))) mag
  let w := fadd h.obsW (fmul (fmul step (k 8)) eps)
  let th := fadd h.obsTh (fdiv (fmul step (fadd w (fmul (k 7) eps))) f2Pi)
  let good := v.ok && fle (k 9) (fabs w) && fle (fmul (frat 1 2) (k 5)) mag && fle (fabs eps) (frat 1 10)
  let loss := consec (!good) h.obsLoss
  let s := s.posSet n fun h => { h with
    psiA := pa, psiB := pb, obsTh := ffrac th, obsW := w, obsAt := some s.now, obsLoss := loss }
  if s.get (POS.pg n) POS.OBS_LOSSN ≤ loss then
    (s.posSet n fun h => { h with obsLost := h.obsLost || s.posValid n 3 }).posMark n 3 false
  else if good ∧ ¬ (s.posH n).obsLost then s.posMark n 3 true
  else s

/-! ### Re-acquisition (R223 to R226) -/

/-- The extrapolated speed (R223). -/
def State.posExt (s : State) (n : Fin 3) : F32 :=
  let h := s.posH n
  let dec := s.rd (fldAddr (POS.pg n) POS.DECEL)
  fmul (fsign h.w0) (fmax (fsub (fabs h.w0) (fmul (fmul dec (fint (s.now - h.lossAt))) fTick)) 0)

/-- The factor of candidate speed `j` (R224): 1 − 0.04 … 1 + 0.04. -/
def speedFactor (j : Nat) : F32 := frat ((96 : Int) + 2 * j) 100

/-- The bank at its first VALID latch: candidate 5·k + j has angle k/32 turn and speed factor j. -/
def bankStart (v : Vectors) : List Candidate :=
  (List.range 160).map fun c =>
    let (d, q) := park v.ia v.ib (frat (c / 5 : Nat) 32)
    ⟨d, q, 0, 0⟩

/-- One latch of a candidate: the short-circuit model over the latch interval, and its cost. -/
def State.bankStep (s : State) (n : Fin 3) (v : Vectors) (h w : F32) (c : Nat) (x : Candidate) : Candidate :=
  let k := s.posK n
  let wc := fmul w (speedFactor (c % 5))
  let did := fdiv (fadd (fneg (fmul (k 2) x.id)) (fmul (fmul wc (k 4)) x.iq)) (k 3)
  let diq := fdiv (fsub (fneg (fmul (k 2) x.iq)) (fmul wc (fadd (fmul (k 3) x.id) (k 5)))) (k 4)
  let d := fadd x.id (fmul did h)
  let q := fadd x.iq (fmul diq h)
  let run := fadd x.run (fdiv (fmul wc h) f2Pi)
  let (a, b) := ipark d q (fadd (frat (c / 5 : Nat) 32) run)
  let ea := fsub v.ia a
  let eb := fsub v.ib b
  ⟨d, q, run, fadd x.cost (fadd (fmul ea ea) (fmul eb eb))⟩

/-- A latch of the bank in REACQ. -/
def State.posSweep (s : State) (n : Fin 3) (v : Vectors) : State :=
  let p := POS.pg n
  let h := s.posH n
  let sq := fadd (fmul v.ia v.ia) (fmul v.ib v.ib)
  match h.sweep with
  | none =>
    if v.ok then s.posSet n fun h => { h with sweep := some ⟨s.now, s.now, 1, sq, bankStart v, none⟩ } else s
  | some b =>
    if b.evalAt.isSome then s
    else if ¬ v.ok then (s.posSet n fun h => { h with sweep := none }).incSat p POS.REACQST_ATTEMPTS
    else
      let w := s.posExt n
      let dt := fsec (s.now - b.last)
      let bank := b.bank.zipIdx.map fun e => s.bankStep n v dt w e.2 e.1
      let swept := fdiv (fmul (fmul (fabs w) (fint (s.now - b.t0))) fTick) f2Pi
      let lim := frat (s.get p POS.REACQ_SWEEP) 256
      let s := s.put p POS.REACQST_SWEEP_DONE (min 255 (ffloorInt (fmul swept (fint 256))).toNat)
      s.posSet n fun h => { h with sweep := some ⟨b.t0, s.now, b.n + 1, fadd b.sum sq, bank,
        if fle lim swept then some s.now else none⟩ }

/-- The unit takes a fusion state. -/
def State.posGo (s : State) (n : Fin 3) (st : Nat) : State :=
  let p := POS.pg n
  if s.posState n = st then s
  else
    let s := ((s.put p POS.ANG_STATE st).flag p POS.ANG_VALID (st == 2)).flag p POS.STAT_ENABLED (st != 0)
    let s := if st = 2 then s else s.put p POS.ANG_CONF 0
    let s := if st ≤ 1 then s.setWord p POS.SPD 0 else s
    s.msvPosChanged n

/-- A latch of an observer input group reaches the observer (R215 to R217): its update, and its seed from the fused angle while
another source is selected. -/
def State.obsLatch (s : State) (n : Fin 3) (v : Vectors) : State :=
  let src := s.get (POS.pg n) POS.ANG_SRC
  let s := s.obsStep n v
  if s.posState n = 2 ∧ src ≠ 4 ∧ src ≠ 5 ∧ src ≠ 0 then
    let h := s.posH n
    s.obsSeed n v (fadvance h.th h.w (s.now - h.updAt)) h.w
  else s

/-- A latch of an observer input group: the observer, where it is enabled, and the bank in REACQ (R215, R222, R224). -/
def State.posLatch (s : State) (n : Fin 3) : State :=
  if s.posState n = 0 then s
  else
    let v := s.posVectors n
    let s := (if s.posOn n 3 then s.obsLatch n v else s).posFollow n
    let s := if s.posState n = 4 then s.posSweep n v else s
    s.posSet n fun h => { h with latAt := some s.now }

/-- Slot 0 of fast group `g` has latched: the observers whose set-1 group it is. -/
def State.posLatches (s : State) (g : Nat) : State :=
  (List.finRange 3).foldl (fun s (n : Fin 3) => if s.get (POS.pg n) POS.OBS_IG1 = g then s.posLatch n else s) s

/-! ### Fusion (R218 to R223) -/

/-- The estimate of source `i` at the present tick: angle and speed. -/
def State.posEstimate (s : State) (n : Fin 3) (i : Nat) : F32 × F32 :=
  let p := POS.pg n
  let h := s.posH n
  match i with
  | 0 =>
    let f := s.rsvFactor n
    let w := fmul h.rsvW f
    (ffrac (fadvance (fadd (fmul h.rsvTh f) (frat (s.get p POS.OFS_RSV_OFS) 65536)) w (s.now - h.rsvAt)), w)
  | 1 =>
    let th := fadd (fadd (fmul (fint h.encCount) (s.encFactor n)) (frat (s.get p POS.OFS_ENC_OFS) 65536)) h.encOfs
    (ffrac (fadvance th h.encW (s.now - h.encAt.getD s.now)), h.encW)
  | 2 =>
    let lo := frat ((h.hall : Int) - 1) 6
    let hi := frat h.hall 6
    let th := fclamp (fadvance h.hallTh h.hallW (s.now - h.hallAt.getD s.now)) lo hi
    (ffrac (fadd th (frat (s.get p POS.HALL_HALL_OFS) 65536)), h.hallW)
  | _ => (ffrac (fadvance h.obsTh h.obsW (s.now - h.obsAt.getD s.now)), h.obsW)

/-- The valid sources in the order of PRI0 to PRI3, as bit numbers. -/
def State.posOrder (s : State) (n : Fin 3) : List Nat :=
  let p := POS.pg n
  ([POS.CFG_PRI0, POS.CFG_PRI1, POS.CFG_PRI2, POS.CFG_PRI3].map fun x => s.get p x).filterMap fun c =>
    if 1 ≤ c ∧ c ≤ 4 ∧ s.posValid n (c - 1) then some (c - 1) else none

/-- Entry to LOST (R223): the fused values of the last update in TRACK are frozen. -/
def State.posLoss (s : State) (n : Fin 3) : State :=
  let p := POS.pg n
  let s := (s.posSet n fun h => { h with
      lossAt := s.now, w0 := h.w, sweep := none, disN := 0, held := s.get p POS.SRCSTAT_VALID })
    |>.put p POS.REACQST_ATTEMPTS 0
  let s := (s.put p POS.ANG_SRC 0).incSat p POS.CNT_LOSS
  (s.posGo n 3).posNote n 0x50A POS.EVT_ANGLE_LOST

/-- The confidence of R220 in TRACK: `d` is the difference to the next valid source. A difference above `DEV_MAX` that is no
disagreement yet has a row of the table only after a re-acquisition: otherwise the value is free (log 81). -/
def State.posConf (s : State) (n : Fin 3) (sel : Nat) (d : Option F32) : Nat × State :=
  let dmax := s.get (POS.pg n) POS.FUS_DEV_MAX
  let ramp : Option Nat := match (s.posH n).reacqN with
    | some k => if k < 4096 then some (96 + k / 32) else none
    | none => none
  let row : Option Nat := match d with
    | some d =>
      if fle d (frat dmax 4) then some 255
      else
        match fval d with
        | .fin _ k e => if k ≤ dmax * e then some (255 - 127 * (4 * k - dmax * e) / (3 * dmax * e)) else none
        | _ => none
    | none => some (if sel ≤ 1 then 160 else if sel = 3 then 128 else 64)
  match ramp, row with
  | some r, some c => (min r c, s)
  | some r, none => (r, s)
  | none, some c => (c, s)
  | none, none => let (v, s) := s.freshNat; (v % 256, s)

/-- The fused values of an update: the selected source `sel` with angle and speed. -/
def State.posTake (s : State) (n : Fin 3) (sel : Nat) (th w : F32) : State :=
  let p := POS.pg n
  let old := s.get p POS.ANG_SRC
  let code := sel + 1
  let gone := decide (old ≠ 0) && decide (old ≤ 4) && !s.posValid n (old - 1)
  let s := if gone ∧ old ≠ sel + 1 then s.incSat p POS.CNT_SWITCH else s
  let s := s.evtIf (old != code && !(old == 5 && code == 4)) p POS.EVT_SWITCH
  let s := s.posSet n fun h => { h with
    th := th, w := w, updAt := s.now }
  ((s.put p POS.ANG_SRC code).put p POS.ANG_ANGLE (angleCode th)).setWord p POS.SPD w

/-- The comparison with a second valid source (R219): the source that is selected after it, the difference to the next
valid source, and whether no source can be trusted. -/
def State.posCompare (s : State) (n : Fin 3) : State × Option Nat × Option F32 × Bool :=
  let p := POS.pg n
  let dmax : F32 := fint (s.get p POS.FUS_DEV_MAX)
  let diff (s : State) (a b : Nat) := angleDiff (s.posEstimate n a).1 (s.posEstimate n b).1
  match s.posOrder n with
  | [] => (s, none, none, false)
  | [a] => (s.posSet n fun h => { h with disN := 0 }, some a, none, false)
  | a :: b :: rest =>
    let d := diff s a b
    let k := consec (flt dmax d) (s.posH n).disN
    let s := s.posSet n fun h => { h with disN := k }
    if k < s.get p POS.FUS_DIS_N then (s, some a, some d, false)
    else
      let s := (s.posSet n fun h => { h with disN := 0 }).posNote n 0x509 POS.EVT_DISAGREE
      let fail (s : State) (x : Nat) := (s.putBit p POS.SRCSTAT_FAILED x true).posMark n x false
      if rest.any fun c => fle (diff s a c) dmax then
        let s := fail s b
        (s, some a, (s.posOrder n)[1]?.map (diff s a), false)
      else if rest.any fun c => fle (diff s b c) dmax then
        let s := fail s a
        (s, some b, (s.posOrder n)[1]?.map (diff s b), false)
      else (s, some a, some d, true)

/-- The source angles that the registers show. -/
def State.posShow (s : State) (n : Fin 3) : State :=
  let p := POS.pg n
  let c (i : Nat) := angleCode (s.posEstimate n i).1
  ((((s.put p POS.RAW0_RSV (c 0)).put p POS.RAW0_OBS (c 3)).put p POS.RAW1_ENC (c 1)).put p POS.RAW1_HALL (c 2)).put64 p
    POS.STAMP_LO s.now

/-- An update while the angle is lost: angle and speed are extrapolated (R223). -/
def State.posExtrapolate (s : State) (n : Fin 3) : State :=
  let w := s.posExt n
  let p := POS.pg n
  let h := s.posH n
  let th := ffrac (fadvance h.th w (s.now - h.updAt))
  ((s.posSet n fun h => { h with th := th, w := w, updAt := s.now }).put p POS.ANG_ANGLE (angleCode th)).setWord p POS.SPD w

/-- The unit tracks source `sel` in this update. -/
def State.posTrackUpd (s : State) (n : Fin 3) (sel : Nat) (d : Option F32) : State :=
  let (th, w) := s.posEstimate n sel
  let (c, s) := (s.posTake n sel th w).posConf n sel d
  s.put (POS.pg n) POS.ANG_CONF c

/-- The first source of RSV, ENC and HALL in order that is valid again since the angle was lost (R222). -/
def State.posAgain (s : State) (n : Fin 3) : Option Nat :=
  (s.posOrder n).find? fun k => decide (k < 3) && !(s.posH n).held.testBit k

/-- An update in TRACK: the comparison, and the selected source, or the loss of the angle (R218, R219, R222). -/
def State.posTrackStep (s : State) (n : Fin 3) : State :=
  let (s, sel, d, lost) := s.posCompare n
  match sel with
  | some k => if lost then (s.posLoss n).posExtrapolate n else s.posTrackUpd n k d
  | none => (s.posLoss n).posExtrapolate n

/-- The update of the fused estimate and of the fusion state (R218 to R222). -/
def State.posFuse (s : State) (n : Fin 3) : State :=
  let s := ((s.posShow n).posSet n fun h => { h with reacqN := h.reacqN.map fun k => k + 1 }).posFollow n
  match s.posState n with
  | 1 => if s.posOrder n = [] then s else (s.posGo n 2).posTrackStep n
  | 2 => s.posTrackStep n
  | 3 | 4 => if (s.posAgain n).isSome then (s.posGo n 2).posTrackStep n else s.posExtrapolate n
  | 5 => s.posExtrapolate n
  | _ => s

/-- FUSION_UPDATE: the update of each multiple of 80 ticks. -/
def execFusionUpdate (dt : Nat) (n : Fin 3) (s : State) : Host.Outcome State Fault Refusal :=
  let s := s.advance dt
  if s.now % 80 = 0 ∧ s.posState n ≠ 0 then .next (s.posFuse n) else .next s

/-! ### The decision on a sweep (R225) -/

/-- The index of the smallest cost. -/
def bestCandidate (l : List Candidate) : Nat :=
  (l.zipIdx.foldl (fun (acc : Nat × F32) e => if flt e.1.cost acc.2 then (e.2, e.1.cost) else acc)
    (0, (l.head?.map (·.cost)).getD 0)).1

/-- The offset of a parabola's minimum through three costs, in steps. -/
def parabola (l m r : F32) : F32 :=
  let den := fadd (fsub l (fmul f2 m)) r
  if flt 0 den then fdiv (fmul (frat 1 2) (fsub l r)) den else 0

/-- REACQ_DECISION: within 2,000 ticks of the evaluating latch the bank is accepted or the sweep restarts. -/
def execReacqDecision (dt : Nat) (n : Fin 3) (s : State) : Host.Outcome State Fault Refusal :=
  let s := s.advance dt
  let p := POS.pg n
  match (s.posH n).sweep with
  | none => .next s
  | some b =>
    match b.evalAt with
    | none => .next s
    | some t =>
      if s.posState n ≠ 4 ∨ t + 2000 < s.now then .next s
      else
        let c := bestCandidate b.bank
        let k := c / 5
        let j := c % 5
        let cost (k j : Nat) : F32 := ((b.bank[5 * (k % 32) + j]?).map (·.cost)).getD 0
        let jmin := cost k j
        let irms := fsqrt (fdiv b.sum (fint b.n))
        let resid := fdiv (fsqrt (fdiv jmin (fint b.n))) irms
        let far := b.bank.zipIdx.filter fun e =>
          let dk := (e.2 / 5 + 32 - k) % 32
          decide (1 < min dk (32 - dk))
        let second := far.foldl (fun acc e => fmin acc e.1.cost) (fInf false)
        let uniq := s.get p POS.REACQ_UNIQ
        let ok := fle resid (frat (s.get p POS.REACQ_RES_MAX) 256) && fle (fmul (fint uniq) jmin) second
        let ratio := (ffloorInt (fdiv second jmin)).toNat
        let s := (s.put p POS.REACQST_RESID (min 255 (ffloorInt (fmul resid (fint 256))).toNat)).put p POS.REACQST_UNIQ_MEAS
          (if ffinite (fdiv second jmin) then min 255 ratio else 255)
        if ok then
          let da := parabola (cost (k + 31) j) jmin (cost (k + 1) j)
          let dw := if j = 0 ∨ j = 4 then 0 else parabola (cost k (j - 1)) jmin (cost k (j + 1))
          let w := fmul (s.posExt n) (fadd (speedFactor j) (fmul dw (frat 2 100)))
          let run := ((b.bank[c]?).map (·.run)).getD 0
          let th := fadvance (fadd (fadd (frat k 32) (fdiv da (fint 32))) run) w (s.now - b.last)
          let s := s.obsSeed n (s.posVectors n) th w
          let s := (s.posSet n fun h => { h with
            sweep := none, reacqN := some 0, obsAt := some s.now, obsLoss := 0, obsLost := false, th := ffrac th, w := w,
            updAt := s.now }).posMark n 3 true
          let s := ((s.put p POS.ANG_SRC 5).put p POS.ANG_ANGLE (angleCode th)).setWord p POS.SPD w
          let s := ((s.incSat p POS.CNT_REACQ_OK).evt p POS.EVT_REACQ_DONE).evt p POS.EVT_SWITCH
          let (c, s) := (s.posGo n 2).posConf n 3 none
          .next (s.put p POS.ANG_CONF c)
        else .next ((s.posSet n fun h => { h with sweep := none }).incSat p POS.REACQST_ATTEMPTS)

/-- REACQ_FAIL: 8,000,000 ticks after the loss without TRACK (R222, R226). -/
def execReacqFail (dt : Nat) (n : Fin 3) (s : State) : Host.Outcome State Fault Refusal :=
  let s := s.advance dt
  let p := POS.pg n
  if (s.posState n = 3 ∨ s.posState n = 4) ∧ (s.posH n).lossAt + 8000000 ≤ s.now then
    let s := ((s.posSet n fun h => { h with sweep := none }).incSat p POS.CNT_REACQ_FAIL).posGo n 5
    .next ((s.evt p POS.EVT_REACQ_FAIL).raise 0x50B 4 (2 ^ n.1))
  else .next s

/-! ### Commands and commits (R213, R222, R227, R229) -/

/-- The operations of `POS_CMD`. -/
def State.posCmd (s : State) (n : Fin 3) (op : Nat) : State :=
  let p := POS.pg n
  let x := POS.CMD_LAST_STS
  match op with
  | 1 => s.command p x (s.posState n == 5 && s.stoEff n) fun s =>
      ((s.put p POS.SRCSTAT_FAILED 0).put p POS.ANG_SRC 0).posGo n 1
  | 2 => s.command p x (s.posOn n 1 && decide (200 ≤ s.get p POS.ANG_CONF)) fun s =>
      let h := s.posH n
      let th := fadvance h.th h.w (s.now - h.updAt)
      (s.posSet n fun h => { h with
        encCount := 0, encIdx := none, encOfs := fsub th (frat (s.get p POS.OFS_ENC_OFS) 65536) }).posMark n 1 true
  | 3 => s.command p x true fun s => s.setWord p POS.CNT 0
  | _ => s.status p x .unknown

/-- A command of POSn. -/
def State.posOp (s : State) (n : Fin 3) (op : Nat) : State := s.blockCmd (POS.pg n) POS.CMD_LAST_STS fun s => s.posCmd n op

/-- POS_RESTART. -/
def execPosRestart (dt : Nat) (_req : Req) (n : Fin 3) (s : State) : Host.Outcome State Fault Refusal :=
  .next ((s.advance dt).posOp n 1)

/-- POS_SEED_ENC. -/
def execPosSeedEnc (dt : Nat) (_req : Req) (n : Fin 3) (s : State) : Host.Outcome State Fault Refusal :=
  .next ((s.advance dt).posOp n 2)

/-- POS_CLR_CNT. -/
def execPosClrCnt (dt : Nat) (_req : Req) (n : Fin 3) (s : State) : Host.Outcome State Fault Refusal :=
  .next ((s.advance dt).posOp n 3)

/-- Source `i` is disabled at a commit: it is invalid at once, and its checks begin anew with its next enable (R227). -/
def State.posSourceOff (s : State) (n : Fin 3) (i : Nat) : State :=
  let was := s.posValid n i
  let s := s.posSet n fun h =>
    match i with
    | 0 => { h with rsvLo := 0, rsvHi := 0, rsvLot := 0, rsvExc := 0, rsvBad := 0, rsvGood := 0, rsvSamples := 0 }
    | 1 => { h with encIdx := none, encAt := none, encW := 0 }
    | 2 => { h with hallAt := none, hallW := 0, hallN := 0 }
    | _ => { h with obsLoss := 0, obsLost := h.obsLost || was }
  s.posMark n i false

/-- Source `i` is enabled at a commit: the first excitation period begins, and Hall pins in an invalid state raise their fault
(R212, R214, R227). -/
def State.posSourceOn (s : State) (n : Fin 3) (i : Nat) : State :=
  match i with
  | 0 => s.posSet n fun h => { h with rsvPer := s.rsvPeriod n, rsvS := 0, rsvC := 0, rsvDS := 0, rsvDC := 0, rsvN := 0 }
  | 2 => if (s.posH n).hall = 0 then s.posNote n 0x508 POS.EVT_HALL else s
  | _ => s

/-- A commit on the page of POSn, with `o` the state before it: enable and disable of the unit and of its sources (R222, R227). -/
def State.posCommit (s o : State) (n : Fin 3) : State :=
  let p := POS.pg n
  let en := s.on p HDR.CTRL_EN
  let s :=
    if en ∧ s.posState n = 0 then s.posGo n 1
    else if ¬ en ∧ s.posState n ≠ 0 then
      ((({ s with pos := vset s.pos n (s.posH n).fresh }.put p
        POS.SRCSTAT_VALID 0).put p POS.ANG_SRC 0).put p POS.ANG_ANGLE 0).posGo n 0
    else s
  let s := s.posSet n fun h => { h with hall := hallSector (s.on p POS.HALL_DIR) h.hallRaw }
  let s := (List.range 4).foldl (fun s i =>
    if s.bitOn p POS.CFG_SRCEN i then (if s.posOn n i && !o.posOn n i then s.posSourceOn n i else s)
    else s.posSourceOff n i) s
  s.flag p POS.STAT_EXC_ON (en && s.bitOn p POS.CFG_SRCEN 0)

end Sys2Proof.Machine
end

