-- ==== Sys2Proof/Machine/Measure.lean ====
section
/-! DEFINITION. Fast and housekeeping measurement, the reference buffers and the calibration (R114 to R144). -/

namespace Sys2Proof.Machine
open Sys2Proof

/-! ### Faults that concern what reads a converter (R141) -/

/-- The machines whose supervisor names fast group `g` as a current or DC-link input. -/
def State.adfMachines (s : State) (g : Nat) : Nat :=
  [0, 1, 2].foldl (fun acc m =>
    let p := MSV.pg m
    if s.msvSt m ≠ 0 ∧ (s.get p MSV.CFG_VG = g ∨ s.get p MSV.CFG_IG1 = g ∨ (s.isSix m ∧ s.get p MSV.CFG_IG2 = g)) then
      acc ||| 2 ^ m else acc) 0

/-- DCD, OBC, BCH and the actuators of `acts` take the fault path of R330 for a fault `code` that has no entry of theirs. -/
def State.fnFault (s : State) (code : Nat) (dcd obc bch : Bool) (acts : Nat) : State :=
  let s := if dcd then s.dcdFault.evt DCD.pg DCD.EVT_FAULT else s
  let s := if obc then s.obcStopping 9 else s
  let s := if bch ∧ s.get BCH.pg BCH.STAT_STATE ≠ 0 then
      (s.bchLow.put BCH.pg BCH.STAT_STATE 3).incSat BCH.pg BCH.CNT_FAULTS else s
  (List.finRange 6).foldl (fun s (n : Fin 6) => if acts.testBit n then s.actToFault n code false else s) s

/-- The functions other than machines that read a fast group for which `f` holds take FR2. -/
def State.adfReaders (s : State) (code : Nat) (f : Nat → Bool) : State :=
  s.fnFault code (s.get DCD.pg DCD.STAT_STATE != 0 && f (s.get DCD.pg DCD.CFG_FG))
    (s.get OBC.pg OBC.STAT_STATE != 0 && (f (s.get OBC.pg OBC.CFG_FG_AC) || f (s.get OBC.pg OBC.CFG_FG_DC)))
    (s.get BCH.pg BCH.STAT_STATE != 0 && f (s.get BCH.pg BCH.CFG_FG))
    ((List.finRange 6).foldl (fun acc (n : Fin 6) =>
      if s.actSt n ≠ 0 ∧ f (s.get (ACT.pg n) ACT.CFG_FG) then acc ||| 2 ^ n.1 else acc) 0)

/-- A fault of fast groups for which `f` holds, with reaction FR4 for machines and FR2 for other functions (R141). -/
def State.adfFault (s : State) (code : Nat) (f : Nat → Bool) : State :=
  let ms := (List.range 8).foldl (fun acc g => if f g then acc ||| s.adfMachines g else acc) 0
  (s.adfReaders code f).raise code (if ms = 0 then 2 else 4) ms

/-- A fault of housekeeping converters for which `f` holds: FR2 for the converter that reads one (R141, R263). -/
def State.adhFault (s : State) (code : Nat) (f : Nat → Bool) : State :=
  (s.fnFault code (s.get DCD.pg DCD.STAT_STATE != 0 && f (s.get DCD.pg DCD.CFG_MH)) false false 0).raise code 2 0

/-! ### Result words (R114 to R116, R133 to R138) -/

/-- The value field of an input voltage in nanovolts, as the converter sees it before its correction (R114, R137):
round((raw − offset) · (1 + gain)) of the unclamped code, with the gain in 0.1 ppm and the offset in 1/256 code (R144). -/
def adcCorrected (cg ofs : Int) (gain : Nat) (vin : Int) : Int :=
  clampInt (-32768) 32767 (roundDiv
    (((gain : Int) * (vin - 750000000) * 65536 * 256 - ofs * 1500000000) * (10000000 + cg)) (1500000000 * 256 * 10000000))

/-- The value field that converter `i` (R144 numbering) gives. -/
def State.adcValue (s : State) (i gain : Nat) (vin : Int) : Int :=
  adcCorrected (s.gets ADR.pg (ADR.GAIN.ix i)) (s.gets ADR.pg (ADR.OFS.ix i)) gain vin

/-- A result word (R115). -/
def resultWord (valid openw nrdy late cal : Bool) (tag : Nat) (value : Int) : W32 :=
  BitVec.ofNat 32 (b2n valid * 2 ^ 31 + b2n openw * 2 ^ 30 + b2n nrdy * 2 ^ 29 + b2n late * 2 ^ 27 + b2n cal * 2 ^ 26 +
    tag % 256 * 2 ^ 16 + unsigned 16 value)

/-- A word with LATE or ABANDONED set. -/
def setFlag (w : W32) (b : Nat) : W32 := w ||| BitVec.ofNat 32 (2 ^ b)

/-- Whether the buffer of a converter is not ready or has failed (R133, R134): buffer 0 or 1 for the fast groups, 2 for the
housekeeping converters. -/
def State.refBad (s : State) (b : Nat) : Bool :=
  !s.bitOn ADR.pg ADR.RSTAT_RDY b || s.bitOn ADR.pg ADR.RSTAT_MON_ERR b

/-- Whether it was so at the hold instant `hold` (R115): each later change of the buffer is undone. -/
def State.refBadAt (s : State) (b : Fin 3) (hold : Nat) : Bool :=
  s.refBad b != (((vget s.adr.flips b).filter fun t => decide (hold < t)).length % 2 == 1)

/-- The calibration of converter `i` (R144 numbering). -/
def State.cal (s : State) (i : Nat) : CalH := if h : i < 36 then vget s.adr.conv ⟨i, h⟩ else ⟨0, false, 0, false, true, false⟩

/-- The word of converter `i` of a fast group, with the reference as it stood at the hold. -/
def State.adfWord (s : State) (g : Fin 8) (c : Nat) (slotBit inp inj : Nat) (nrdy : Bool) (vin : Int) : W32 :=
  let k := s.cal (4 * g + c)
  resultWord (!nrdy && k.ok && !k.limit) (s.bitOn (ADF.pg g) ADF.OWSTAT_OPEN (2 * c + inp)) nrdy false k.ok
    (g * 32 + slotBit * 16 + c * 4 + inp * 2 + inj) (s.adcValue (4 * g + c) 1 vin)

/-! ### Fast groups (R117 to R124) -/

/-- Change the hidden state of fast group `g`. -/
def State.adfSet (s : State) (g : Fin 8) (f : AdfH → AdfH) : State := { s with adf := vset s.adf g (f (vget s.adf g)) }

/-- The low and high result words of slot 0 or 1. -/
def adfRes (slot : Nat) : Fld × Fld := if slot = 0 then (ADF.RES0_LO, ADF.RES0_HI) else (ADF.RES1_LO, ADF.RES1_HI)

/-- A result is latched to its registers and its port, which keeps the last two (R121, R122). -/
def State.adfLatch (s : State) (g : Fin 8) (slot c : Nat) (w : W32) (hold : Nat) : State :=
  let p := ADF.pg g
  let (lo, hi) := adfRes slot
  let s := (s.setWord p (lo.ix c) w).setWord p (hi.ix c) (BitVec.ofNat 32 hold)
  if h : 4 * slot + c < 8 then
    s.adfSet g fun a => { a with ports := vset a.ports ⟨4 * slot + c, h⟩ (((w, hold) :: vget a.ports ⟨4 * slot + c, h⟩).take 2) }
  else s

/-- A request for a record, to be taken or refused by the channel (R122, R132, R398). -/
def State.dmaAsk (s : State) (ch : Nat) (ws : List W32) (src : Page) : State :=
  { s with dmaReq := s.dmaReq ++ [⟨ch, ws, src⟩] }

/-- The results of a trigger in order of slot and converter, with stamps in format 1 (R122). -/
def State.adfRecord (s : State) (g : Fin 8) (two : Bool) : List W32 :=
  let p := ADF.pg g
  (if two then [0, 1] else [0]).flatMap fun slot => (List.range 4).flatMap fun c =>
    let (lo, hi) := adfRes slot
    let w := s.rd (fldAddr p (lo.ix c))
    if s.on p ADF.DMA_FMT then [w, s.rd (fldAddr p (hi.ix c))] else [w]

/-- Step 7 of R119: `adf_done`, the DONE event and the DMA request. -/
def State.adfDone (s : State) (g : Fin 8) (two : Bool) : State :=
  let p := ADF.pg g
  let s := (s.adfSet g fun a => { a with seq := none, doneAt := some s.now }).flag p ADF.STAT_BUSY false
  let s := if s.on p ADF.DMA_EN then s.dmaAsk (s.get p ADF.DMA_CH) (s.adfRecord g two) p else s
  s.evt p ADF.EVT_DONE

/-- What reads the results of a slot at its latch tick: the updates of the blocks (R215, R230, R241, R245, R258, R273, R277,
R297). DESIGN CHOICE (log 93): the updates take place at the latch tick of R119 though a result is late, and read what the
result registers then hold. -/
def State.adfReach (s : State) (g : Fin 8) (slot : Nat) : State :=
  let is (p : Page) (x : Fld) := s.get p x == g.1
  if slot = 0 then
    let s := s.posLatches g
    let s := s.msvCurrentLatch g (s.adfRes0 g 0) (s.adfRes0 g 1) (s.adfRes0 g 2)
    let s := if is BCH.pg BCH.CFG_FG then s.bchFeedback else s
    let s := [0, 1, 2].foldl (fun s m => if s.get (MSV.pg m) MSV.CFG_VG = g.1 then s.msvUpdate m else s) s
    let s := if is OBC.pg OBC.CFG_FG_AC then s.obcAcSample else s
    let s := if is OBC.pg OBC.CFG_FG_DC then s.obcUpdate else s
    (List.finRange 6).foldl (fun s (n : Fin 6) => if s.get (ACT.pg n) ACT.CFG_FG = g.1 then s.actUpdate n else s) s
  else
    let s := if is DCD.pg DCD.CFG_FG then s.dcdUpdate else s
    if is OBC.pg OBC.CFG_FG_AC then s.obcAcCheck else s

/-- The hold tick of slot `slot` of a sequence. -/
def AdfSeq.hold (q : AdfSeq) (slot : Nat) : Nat := q.t0 + 80 * slot

/-- The last result of a trigger has latched: step 7 ends it (R119, R120). -/
def State.adfSlotDone (s : State) (g : Fin 8) : State :=
  let a := vget s.adf g
  match a.seq with
  | some q => if q.slot = 2 ∧ a.late.isEmpty then s.adfDone g q.two else s
  | none => s

/-- The hold ticks of the lock-group triggers that follow from the present and the next period (R118). -/
def State.adfGrid (s : State) (g : Fin 8) : List Nat :=
  let p := ADF.pg g
  let k := s.get p ADF.CFG_LG
  if h : k < 15 then
    let l := vget s.lg ⟨k, h⟩
    let ph (i : Nat) := s.get p (ADF.PH_PHASE.ix i)
    let one (t : Nat) := (t + ph 0) / 128 :: if s.on p ADF.CFG_DBL then [(t + l.period / 2 + ph 1) / 128] else []
    if s.on TBU.pg (TBU.LG_STAT_RUNNING.ix k) then
      one l.last ++ (match l.next with
        | some n => one n
        | none => [])
    else []
  else []

/-- The scheduled triggers that are known ahead, as hold ticks. -/
def State.adfHolds (s : State) (g : Fin 8) : List Nat :=
  let p := ADF.pg g
  if s.on p HDR.CTRL_EN then
    match s.get p ADF.CFG_SRC with
    | 0 => s.adfGrid g
    | 1 => (s.cmpTimes (s.get p ADF.CFG_CMP)).map fun t => t / 128
    | _ => []
  else []

/-- A trigger reaches group `g` in this tick (R118). -/
def State.adfTriggered (s : State) (g : Fin 8) : Bool :=
  let p := ADF.pg g
  s.on p HDR.CTRL_EN &&
    (match s.get p ADF.CFG_SRC with
      | 0 => (s.adfGrid g).contains s.now
      | 1 => vget s.tbu.cmpTick ⟨s.get p ADF.CFG_CMP % 16, Nat.mod_lt _ (by decide)⟩ == some s.now
      | _ => false) &&
    (vget s.adf g).holdAt != some s.now

/-- The reference buffer of a fast group. -/
def adfRef (g : Fin 8) : Fin 3 := ⟨g.1 / 4, by omega⟩

/-- A trigger of group `g` (R119, R124): a drop while a sequence is in progress, else the slot-0 hold. An injected
conversion in progress gives way. -/
def State.adfHold (s : State) (g : Fin 8) : State :=
  let p := ADF.pg g
  if (vget s.adf g).seq.isSome then
    ((s.incSat p ADF.CNT_TRIG_DROP).evt p ADF.EVT_TRIG_DROP).note 0x306 1 0 0
  else
    let q : AdfSeq := ⟨s.now, s.on p ADF.CFG_LEN, s.get p ADF.INSEL_SEL0, s.get p ADF.INSEL_SEL1, 0, false⟩
    (s.adfSet g fun a => { a with seq := some q, inj := none, holdAt := some s.now }).flag p ADF.STAT_BUSY true
      |>.put64 p ADF.TRIGCNT_LO (s.get64 p ADF.TRIGCNT_LO + 1)

/-- ADF_HOLD: the trigger of a fast group. -/
def execAdfHold (dt : Nat) (g : Fin 8) (s : State) : Host.Outcome State Fault Refusal :=
  let s := s.advance dt
  if s.adfTriggered g then .next (s.adfHold g) else .next s

/-- The words of slot `slot` of a sequence. -/
def State.adfSlotWord (s : State) (g : Fin 8) (q : AdfSeq) (vin : Quad) (c : Nat) : W32 :=
  let sel := if q.slot = 0 then q.sel0 else q.sel1
  let w := s.adfWord g c q.slot (b2n (sel.testBit c)) 0 (s.refBadAt (adfRef g) (q.hold q.slot)) (vin.get c)
  if q.cut then setFlag w 28 else w

/-- ADF_SLOT_LATCH: 72 ticks after its hold a slot latches (R119); the converters of `late` are not ready yet (R120). A
sequence that a commit cut ends here, without step 7 (R140). -/
def execAdfSlotLatch (dt : Nat) (g : Fin 8) (vin : Quad) (late : BitVec 4) (s : State) :
    Host.Outcome State Fault Refusal :=
  let s := s.advance dt
  match (vget s.adf g).seq with
  | none => .next s
  | some q =>
    if q.slot = 2 ∨ s.now ≠ q.hold q.slot + 72 then .next s
    else
      let p := ADF.pg g
      let slot := q.slot
      let last := q.cut || !q.two || slot == 1
      let s := (List.range 4).foldl (fun s c =>
        let w := s.adfSlotWord g q vin c
        if late.toNat.testBit c then s.adfSet g fun a => { a with late := a.late ++ [⟨slot, c, w, q.hold slot⟩] }
        else s.adfLatch g slot c w (q.hold slot)) s
      let s := s.adfSet g fun a => { a with seq := some { q with slot := if last then 2 else 1 } }
      let s := if late = 0 then s else ((s.incSat p ADF.CNT_LATE).evt p ADF.EVT_LATE).note 0x307 1 0 0
      let s := if q.cut then
          ((s.adfSet g fun a => { a with seq := none }).flag p ADF.STAT_BUSY false).adfReach g slot
        else (s.adfReach g slot).adfSlotDone g
      .next s

/-- LATE_RESULT: the oldest late result of converter `c` latches with LATE set (R120). -/
def execLateResult (dt : Nat) (g : Fin 8) (c : Fin 4) (s : State) : Host.Outcome State Fault Refusal :=
  let s := s.advance dt
  let a := vget s.adf g
  match a.late.find? fun r => r.c == c.1 with
  | none => .next s
  | some r =>
    let rest := a.late.filter fun x => !(x.slot == r.slot && x.c == r.c)
    let s := (s.adfLatch g r.slot r.c (setFlag r.word 27) r.hold).adfSet g fun a => { a with late := rest }
    .next (s.adfSlotDone g)

/-- A commit enabled group `g`: its triggers count from here (R142). -/
def State.adfEnable (s : State) (g : Fin 8) : State := s.put64 (ADF.pg g) ADF.TRIGCNT_LO 0

/-- A commit changed the input selects of group `g`: a hold of this tick or later takes the new ones. -/
def State.adfReselect (s : State) (g : Fin 8) : State :=
  let p := ADF.pg g
  s.adfSet g fun a => { a with
    seq := a.seq.map fun q => if q.two ∧ s.now ≤ q.hold 1 then { q with sel1 := s.get p ADF.INSEL_SEL1 } else q
    inj := a.inj.map fun e => if s.now ≤ e.1 then (e.1, s.get p ADF.INSEL_INJSEL) else e }

/-- A commit disabled group `g` (R140): a slot in progress completes with ABANDONED, a late result still to come carries it
too, and no later slot is held. -/
def State.adfDisable (s : State) (g : Fin 8) : State :=
  let s := s.adfSet g fun a => { a with late := a.late.map fun r => { r with word := setFlag r.word 28 } }
  match (vget s.adf g).seq with
  | some q =>
    if q.slot < 2 ∧ q.hold q.slot ≤ s.now then s.adfSet g fun a => { a with seq := some { q with cut := true } }
    else (s.adfSet g fun a => { a with seq := none }).flag (ADF.pg g) ADF.STAT_BUSY false
  | none => s

/-! ### Injected conversions (R123) -/

/-- A request for an injected conversion: accepted when the group is idle and no scheduled hold lies in the 80 ticks that
follow. DESIGN CHOICE (log 88): a request while an injected conversion is in progress is dropped and counted as well. -/
def State.adfInject (s : State) (g : Fin 8) : State :=
  let p := ADF.pg g
  let a := vget s.adf g
  let clear := (s.adfHolds g).all fun t => decide (t ≤ s.now ∨ s.now + 80 < t)
  if s.on p HDR.CTRL_EN ∧ a.seq.isNone ∧ a.inj.isNone ∧ clear ∧ ¬ s.adfTriggered g then
    s.adfSet g fun a => { a with inj := some (s.now + 1, s.get p ADF.INSEL_INJSEL), injAt := some (s.now + 1) }
  else (s.incSat p ADF.CNT_INJ_DROP).evt p ADF.EVT_INJ_DROP

/-- ADF_INJ_GO: a write of 1 to `ADF_INJ.GO`. -/
def execAdfInjGo (dt : Nat) (_req : Req) (g : Fin 8) (s : State) : Host.Outcome State Fault Refusal :=
  .next ((s.advance dt).adfInject g)

/-- ADF_INJ_LATCH: 72 ticks after its hold the injected conversion latches; ports and DMA are not touched. -/
def execAdfInjLatch (dt : Nat) (g : Fin 8) (vin : Quad) (s : State) : Host.Outcome State Fault Refusal :=
  let s := s.advance dt
  match (vget s.adf g).inj with
  | some (t, sel) =>
    if s.now = t + 72 then
      let p := ADF.pg g
      let s := (List.range 4).foldl (fun s c =>
        let w := s.adfWord g c 0 (b2n (sel.testBit c)) 1 (s.refBadAt (adfRef g) t) (vin.get c)
        (s.setWord p (ADF.INJRES_LO.ix c) w).setWord p (ADF.INJRES_HI.ix c) (BitVec.ofNat 32 t)) s
      .next ((s.adfSet g fun a => { a with inj := none }).evt p ADF.EVT_INJ_DONE)
    else .next s
  | none => .next s

/-! ### Open-wire tests of fast inputs (R136) -/

/-- The outcome of an open-wire test (R135): the value lies at the end of the span to which the current pulls. -/
def State.openWire (s : State) (down : Bool) (v : Int) : Bool :=
  let thr : Int := s.get ADR.pg ADR.OWTHR_THR
  if down then decide (v ≤ -thr) else decide (thr ≤ v)

/-- The input that the round-robin tests next. -/
def State.adfOwNext (s : State) (g : Fin 8) : Option Nat :=
  let en := s.get (ADF.pg g) ADF.OW_EN
  ((List.range 8).map fun k => ((vget s.adf g).owIn + 1 + k) % 8).find? fun i => en.testBit i

/-- `len` ticks have passed since a moment, if there was one. -/
def State.since (s : State) (t : Option Nat) (len : Nat) : Bool :=
  match t with
  | some t => decide (t + len ≤ s.now)
  | none => true

/-- The converter of group `g` has been idle for the last `len` ticks: no slot and no injected conversion ran in them. -/
def State.adfCalm (s : State) (g : Fin 8) (len : Nat) : Bool :=
  let a := vget s.adf g
  a.seq.isNone && a.inj.isNone && s.since a.injAt (80 + len) &&
    s.since a.holdAt ((if s.on (ADF.pg g) ADF.CFG_LEN then 160 else 80) + len)

/-- ADF_OW_TEST: the test of input `i` ends, 880 ticks after its start, at most once per 4,000 ticks, with no hold in that
time. -/
def execAdfOwTest (dt : Nat) (g : Fin 8) (i : Fin 8) (vin : Int) (s : State) : Host.Outcome State Fault Refusal :=
  let s := s.advance dt
  let p := ADF.pg g
  let a := vget s.adf g
  if s.on p HDR.CTRL_EN ∧ s.adfOwNext g = some i.1 ∧ s.adfCalm g 880 ∧ s.since a.owAt 4880 then
    let bad := s.openWire (s.bitOn p ADF.OW_DIR i) (s.adcValue (4 * g + i / 2) 1 vin)
    let s := (s.adfSet g fun a => { a with owAt := some (s.now - 880), owIn := i }).putBit p ADF.OWSTAT_OPEN i bad
    .next (if bad then (s.evt p ADF.EVT_OW).note 0x308 1 0 0 else s)
  else .next s

/-! ### Housekeeping converters (R126 to R132) -/

/-- Change the hidden state of housekeeping converter `u`. -/
def State.adhSet (s : State) (u : Fin 4) (f : AdhH → AdhH) : State := { s with adh := vset s.adh u (f (vget s.adh u)) }

/-- An entry of a sequence as it runs: tag, acquisition ticks, gain, open-wire test, its direction, and input. -/
structure AdhEntry where
  tag : Nat
  acq : Nat
  gain : Nat
  ow : Bool
  down : Bool
  ch : Nat
  last : Bool
deriving DecidableEq, Repr

/-- A native entry word (R127). -/
def nativeEntry (w : Nat) : AdhEntry :=
  ⟨bits w 31 24, 4 * bits w 23 16, 2 ^ bits w 13 12, bit w 10, bit w 11, bits w 4 0, false⟩

/-- The acquisition times of the compatibility sequence (R128). -/
def compatAcq (st : Nat) : Nat := [60, 100, 160, 240, 400, 600, 800, 1000].getD st 60

/-- Entry `n` of the compatibility sequence (R128). -/
def compatEntry (n h : Nat) : AdhEntry :=
  let gain := 2 ^ bits h 9 8
  let acq := compatAcq (bits h 7 5)
  ⟨n, if gain = 1 then acq else max 100 acq, gain, false, false, bits h 4 0, bit h 15⟩

/-- Regular entry `n` of converter `u`. -/
def State.adhReg (s : State) (u : Fin 4) (n : Nat) : AdhEntry :=
  let p := ADH.pg u
  if s.on p ADH.CFG_SEQFMT then
    let w := (s.rd (fldAddr p (ADH.CSEQ.ix (n / 2)))).toNat
    compatEntry n (if n % 2 = 0 then w % 2 ^ 16 else w / 2 ^ 16)
  else nativeEntry (s.rd (fldAddr p (ADH.SEQ.ix n))).toNat

/-- Injected entry `n`. -/
def State.adhInjEntry (s : State) (u : Fin 4) (n : Nat) : AdhEntry :=
  nativeEntry (s.rd (fldAddr (ADH.pg u) (ADH.INJ.ix n))).toNat

/-- The length of the regular sequence: up to the first END, or RLEN + 1 native entries. DESIGN CHOICE (log 88): RLEN 32 to
63 run the 32 entries that there are. -/
def State.adhLen (s : State) (u : Fin 4) : Nat :=
  if s.on (ADH.pg u) ADH.CFG_SEQFMT then
    match (List.range 16).find? fun n => (s.adhReg u n).last with
    | some n => n + 1
    | none => 16
  else min 32 (s.get (ADH.pg u) ADH.CFG_RLEN + 1)

/-- Show the sequences of converter `u` in its STAT. -/
def State.adhShow (s : State) (u : Fin 4) : State :=
  let p := ADH.pg u
  let a := vget s.adh u
  ((s.flag p ADH.STAT_REG_BUSY a.reg.isSome).flag p ADH.STAT_INJ_BUSY a.inj.isSome).put p ADH.STAT_POS
    (match a.reg with
      | some q => q.pos
      | none => 0)

/-- The regular sequence starts at `t`. -/
def State.adhStart (s : State) (u : Fin 4) (t : Nat) (late : Bool) : State :=
  (s.adhSet u fun a => { a with reg := some ⟨0, s.adhLen u, t, late⟩ }).adhShow u

/-- A regular trigger (R129, R131): the divider, a drop while the sequence runs or is paused, else its start, which waits
with LATE while the injected sequence runs. -/
def State.adhRegTrigger (s : State) (u : Fin 4) : State :=
  let p := ADH.pg u
  let a := vget s.adh u
  let div := if s.get p ADH.CFG_RSRC = 2 then 0 else s.get p ADH.STAT_DIV
  let s := s.adhSet u fun a => { a with trigs := a.trigs + 1 }
  if a.trigs % 2 ^ div ≠ 0 then s
  else if a.reg.isSome then ((s.incSat p ADH.CNT_REG_OVR).evt p ADH.EVT_REG_OVR).note 0x309 1 0 0
  else if a.inj.isSome then s.adhStart u s.now true
  else s.adhStart u s.now false

/-- A period start of group `k` plus `ph` lies in this tick (R129). Where `ph` spans further period starts, the period that
it counts from is found on the grid of the present one. -/
def State.phaseHit (s : State) (k ph : Nat) : Bool :=
  if h : k < 15 then
    let l := vget s.lg ⟨k, h⟩
    let x := l.last + ph - s.now * 128
    s.on TBU.pg (TBU.LG_STAT_RUNNING.ix k) && decide (s.now ≤ (l.last + ph) / 128) && decide (x % l.period < 128) &&
      (decide (x < 128) || decide (x / l.period < s.get64 TBU.pg (TBU.LG_CNT_LO.ix k)))
  else false

/-- ADH_REG_TRIGGER: the trigger that RSRC selects reaches converter `u`. -/
def execAdhRegTrigger (dt : Nat) (u : Fin 4) (s : State) : Host.Outcome State Fault Refusal :=
  let s := s.advance dt
  let p := ADH.pg u
  let hit : Bool := match s.get p ADH.CFG_RSRC with
    | 0 => s.phaseHit (s.get p ADH.CFG_LG) (s.get p ADH.PHASE % 2 ^ 31)
    | 1 => vget s.tbu.cmpTick ⟨s.get p ADH.CFG_RCMP % 16, Nat.mod_lt _ (by decide)⟩ == some s.now
    | 2 => (vget s.adh u).contAt == some s.now
    | _ => false
  if s.on p HDR.CTRL_EN ∧ hit then .next (s.adhRegTrigger u) else .next s

/-- ADH_REGGO: a write of 1 to `ADH_CTL.REGGO`, the trigger of source 3. -/
def State.adhRegGo (s : State) (u : Fin 4) : State :=
  if s.on (ADH.pg u) HDR.CTRL_EN ∧ s.get (ADH.pg u) ADH.CFG_RSRC = 3 then s.adhRegTrigger u else s

/-- ADH_REGGO. -/
def execAdhReggo (dt : Nat) (_req : Req) (u : Fin 4) (s : State) : Host.Outcome State Fault Refusal :=
  .next ((s.advance dt).adhRegGo u)

/-- An injected trigger (R130, R131): dropped while the sequence runs or the converter is disabled; it pre-empts a regular
entry, and the sequence starts in the next tick. -/
def State.adhInject (s : State) (u : Fin 4) : State :=
  let p := ADH.pg u
  let a := vget s.adh u
  if ¬ s.on p HDR.CTRL_EN ∨ a.inj.isSome then (s.incSat p ADH.CNT_INJ_DROP).evt p ADH.EVT_INJ_DROP
  else
    let running : Bool := match a.reg with
      | some q => decide (q.startAt < s.now)
      | none => false
    let s := s.adhSet u fun a => { a with
      inj := some ⟨0, s.get p ADH.CTL_ILEN + 1, s.now + 1, false⟩, reg := a.reg.map fun q => { q with late := true } }
    (if running then (s.incSat p ADH.CNT_PREEMPT).evt p ADH.EVT_PREEMPT else s).adhShow u

/-- A write of 1 to `ADH_CTL.GO` (R130): only by the owner of the page's lock. -/
def State.adhGo (s : State) (req : Nat) (u : Fin 4) : State :=
  let p := ADH.pg u
  if s.on p HDR.OWNER_LOCKED ∧ s.get p HDR.OWNER_ID = req then s.adhInject u else s.refuse p

/-- ADH_GO. -/
def execAdhGo (dt : Nat) (req : Req) (u : Fin 4) (s : State) : Host.Outcome State Fault Refusal :=
  .next ((s.advance dt).adhGo req u)

/-- A match of compare channel `c` triggers the injected sequences that name it, while their page is locked (R130). -/
def State.adhCompare (s : State) (c : Nat) : State :=
  (List.finRange 4).foldl (fun s (u : Fin 4) =>
    let p := ADH.pg u
    if s.on p ADH.CFG_ISRC ∧ s.get p ADH.CFG_ICMP = c ∧ s.on p HDR.OWNER_LOCKED then s.adhInject u else s) s

/-- The word of an entry that held at tick `hold`; an open-wire test carries its outcome, and sets or clears OPENW of the
input (R135). -/
def State.adhWord (s : State) (u : Fin 4) (e : AdhEntry) (vin : Int) (hold : Nat) : W32 × State :=
  let nrdy := s.refBadAt 2 hold
  let k := s.cal (32 + u)
  let v := s.adcValue (32 + u) e.gain vin
  let v4 := v / 4 * 4
  let bad := if e.ow then s.openWire e.down v4 else (vget s.adh u).openw.testBit e.ch
  let s := if e.ow then s.adhSet u fun a => { a with openw := setBits a.openw e.ch e.ch (b2n bad) } else s
  let s := if e.ow ∧ bad then s.note 0x308 1 0 0 else s
  (resultWord (!nrdy && k.ok && !k.limit) bad nrdy false k.ok e.tag v4, s)

/-- The request of one entry's result. -/
def State.adhAsk (s : State) (u : Fin 4) (inj : Bool) (w : W32) (hold : Nat) : State :=
  let p := ADH.pg u
  let ws := if s.on p ADH.DMA_FMT then [w, BitVec.ofNat 32 hold] else [w]
  if inj then (if s.on p ADH.DMA_IEN then s.dmaAsk (s.get p ADH.DMA_ICH) ws p else s)
  else if s.on p ADH.DMA_EN then s.dmaAsk (s.get p ADH.DMA_CH) ws p else s

/-- The end of the injected sequence: the regular one resumes at its entry, with its full acquisition time (R131). -/
def State.adhInjEnd (s : State) (u : Fin 4) (t : Nat) : State :=
  (s.adhSet u fun a => { a with
    inj := none, reg := a.reg.map fun q => { q with startAt := t } }).adhShow u

/-- The entry that a disable cut has ended: a converter that is enabled again goes on in continuous mode in the next tick
(R129, R140). -/
def State.adhResume (s : State) (u : Fin 4) : State :=
  if s.on (ADH.pg u) HDR.CTRL_EN then s.adhSet u fun a => { a with contAt := some (s.now + 1) } else s

/-- An injected entry ends. -/
def State.adhInjLatch (s : State) (u : Fin 4) (q : AdhSeq) (vin : Int) : State :=
  let p := ADH.pg u
  let e := s.adhInjEntry u q.pos
  let stop := (vget s.adhLost u) || (vget s.adh u).cut
  let hold := q.startAt + e.acq
  let (w, s) := s.adhWord u e vin hold
  let w := if stop then setFlag w 28 else w
  let s := (s.setWord p (ADH.INJRES_LO.ix q.pos) w).setWord p (ADH.INJRES_HI.ix q.pos) (BitVec.ofNat 32 hold)
  if stop then
    let s := { s with adhLost := vset s.adhLost u false }.adhInjEnd u s.now
    if (vget s.adh u).cut then ((s.adhSet u fun a => { a with reg := none, cut := false }).adhShow u).adhResume u else s
  else
    let s := s.adhAsk u true w hold
    if q.pos + 1 < q.len then s.adhSet u fun a => { a with inj := some { q with pos := q.pos + 1, startAt := s.now } }
    else (s.adhInjEnd u s.now).evt p ADH.EVT_INJ_DONE

/-- A regular entry ends. -/
def State.adhRegLatch (s : State) (u : Fin 4) (q : AdhSeq) (vin : Int) : State :=
  let p := ADH.pg u
  let e := s.adhReg u q.pos
  let cut := (vget s.adh u).cut
  let hold := q.startAt + e.acq
  let (w, s) := s.adhWord u e vin hold
  let w := if q.late then setFlag w 27 else w
  let w := if cut then setFlag w 28 else w
  let s := (s.setWord p (ADH.REGRES_LO.ix q.pos) w).setWord p (ADH.REGRES_HI.ix q.pos) (BitVec.ofNat 32 hold)
  let s := s.dcdEntry u q.pos w hold
  if cut then (s.adhSet u fun a => { a with reg := none, cut := false }).adhShow u |>.adhResume u
  else
    let s := s.adhAsk u false w hold
    if q.pos + 1 < q.len then
      (s.adhSet u fun a => { a with reg := some { q with pos := q.pos + 1, startAt := s.now } }).adhShow u
    else
      let dur := (List.range q.len).foldl (fun t n => t + (s.adhReg u n).acq + 140) 0
      let next := s.now + 1 + (2 ^ s.get p ADH.STAT_DIV - 1) * dur
      ((s.adhSet u fun a => { a with reg := none, contAt := some next }).adhShow u).evt p ADH.EVT_REG_DONE

/-- ADH_ENTRY_LATCH: the entry that runs ends, its acquisition time plus 140 ticks after its start. -/
def execAdhEntryLatch (dt : Nat) (u : Fin 4) (vin : Int) (s : State) : Host.Outcome State Fault Refusal :=
  let s := s.advance dt
  let a := vget s.adh u
  let ended (s : State) := s.adhSet u fun a => { a with endAt := some s.now }
  match a.inj with
  | some q => if s.now = q.startAt + (s.adhInjEntry u q.pos).acq + 140 then .next ((ended s).adhInjLatch u q vin) else .next s
  | none =>
    match a.reg with
    | some q => if s.now = q.startAt + (s.adhReg u q.pos).acq + 140 then .next ((ended s).adhRegLatch u q vin) else .next s
    | none => .next s

/-- A commit set `ADH_CFG.RSRC` of an enabled converter to continuous mode (R129): an idle converter starts in this tick, a
running sequence is followed by the next one. -/
def State.adhContinuous (s : State) (u : Fin 4) : State :=
  if (vget s.adh u).reg.isNone then s.adhSet u fun a => { a with contAt := some s.now } else s

/-- A commit wrote `CTRL.EN` of converter `u` (R129, R140): continuous mode starts, and a disable lets the entry in
progress complete with ABANDONED, also where a later commit enables the converter meanwhile. -/
def State.adhEnable (s : State) (u : Fin 4) : State :=
  if s.on (ADH.pg u) HDR.CTRL_EN then
    s.adhSet u fun a => { a with trigs := 0, contAt := if a.cut then none else some s.now }
  else
    let a := vget s.adh u
    if a.inj.isSome ∨ a.reg.isSome then s.adhSet u fun a => { a with cut := true, contAt := none }
    else s.adhSet u fun a => { a with contAt := none }

/-! ### References (R133, R134) -/

/-- The step from `o` may have made buffers fit or unfit for their converters. -/
def State.refFlip (s o : State) : State :=
  (List.finRange 3).foldl (fun s (b : Fin 3) =>
    if s.refBad b = o.refBad b then s
    else { s with adr := { s.adr with flips := vset s.adr.flips b ((s.now :: vget s.adr.flips b).take 4) } }) s

/-- A commit, or the soft reset of ADR, left the enables at their present value where `old` stood before (R133). -/
def State.adrEnable (s : State) (old : Nat) : State :=
  ((List.finRange 3).foldl (fun s (b : Fin 3) =>
    let was := old.testBit b
    let on := s.bitOn ADR.pg ADR.ACTRL_EN b
    if on && !was then
      { s with adr := { s.adr with rdyAt := vset s.adr.rdyAt b (some s.now) } }
    else if !on then
      { s with adr := { s.adr with rdyAt := vset s.adr.rdyAt b none } }.putBit ADR.pg ADR.RSTAT_RDY b false
    else s) s).refFlip s

/-- REF_BUFFER_READY: 800,000 ticks after its enable. -/
def execRefBufferReady (dt : Nat) (b : Fin 3) (s : State) : Host.Outcome State Fault Refusal :=
  let s := s.advance dt
  match vget s.adr.rdyAt b with
  | some t =>
    if t + 800000 ≤ s.now then
      .next (({ s with adr := { s.adr with rdyAt := vset s.adr.rdyAt b none } }.putBit ADR.pg ADR.RSTAT_RDY b true).refFlip s)
    else .next s
  | none => .next s

/-- REF_MONITOR_CHECK: the check of each 4,000 ticks; the third deviation in a row fails the buffer. -/
def execRefMonitorCheck (dt : Nat) (b : Fin 3) (dev : Bool) (s : State) : Host.Outcome State Fault Refusal :=
  let s := s.advance dt
  if s.now % 4000 ≠ 0 then .next s
  else
    let n := consec dev (vget s.adr.mon b)
    let s := { s with adr := { s.adr with mon := vset s.adr.mon b n } }
    if n = 3 ∧ ¬ s.bitOn ADR.pg ADR.RSTAT_MON_ERR b then
      let s := (s.putBit ADR.pg ADR.RSTAT_MON_ERR b true).refFlip s
      .next (if b = 2 then s.adhFault 0x302 fun _ => true else s.adfFault 0x301 fun g => g / 4 == b.1)
    else .next s

/-! ### Calibration (R137, R138) -/

/-- The calibration coefficients load from factory trim in flash during BOOT (R139). -/
def State.loadTrim (s : State) : State :=
  (List.range 36).foldl (fun s i => (s.puts ADR.pg (ADR.GAIN.ix i) (Config.adcTrimGain i)).puts ADR.pg (ADR.OFS.ix i)
    (Config.adcTrimOffset i)) s

/-- Change the calibration of converter `i`. -/
def State.calSet (s : State) (i : Fin 36) (f : CalH → CalH) : State :=
  { s with adr := { s.adr with conv := vset s.adr.conv i (f (vget s.adr.conv i)) } }

/-- Show the calibration of a fast converter in `ADF_CALST`. -/
def State.calShow (s : State) (i : Fin 36) : State :=
  if i.1 < 32 then
    let p := ADF.pg (i / 4)
    let c := vget s.adr.conv i
    ((s.putBit p ADF.CALST_CAL_OK (i % 4) c.ok).putBit p ADF.CALST_STALE (i % 4) (!c.ok)).putBit p ADF.CALST_LIMIT (i % 4)
      c.limit
  else s

/-- The step of converter `i` that ends now had an idle slot: no hold, request or test met it, which would have discarded it
(R137). A step takes one conversion, 80 ticks on ADF and 140 on ADH. -/
def State.calIdle (s : State) (i : Fin 36) : Bool :=
  if h : i.1 < 32 then
    let g : Fin 8 := ⟨i / 4, by omega⟩
    s.adfCalm g 80 && s.since (vget s.adf g).owAt 960
  else
    let a := vget s.adh ⟨i - 32, by omega⟩
    a.reg.isNone && a.inj.isNone && s.since a.endAt 140

/-- A coefficient moves toward `goal` by at most `step`. -/
def calMove (v goal step : Int) : Int := v + clampInt (-step) step (goal - v)

/-- The end of a cycle that needs gain `gain` (0.1 ppm) and offset `ofs` (1/256 code): a limit, or the update. -/
def State.calCycle (s : State) (i : Fin 36) (gain ofs : Int) : State :=
  let p := ADR.pg
  if gain < -50000 ∨ 50000 < gain ∨ ofs * 1000 < -16777216 ∨ 16777216 < ofs * 1000 then
    if (vget s.adr.conv i).limit then s
    else
      let s := (s.calSet i fun c => { c with limit := true }).calShow i
      if i.1 < 32 then s.adfFault 0x304 fun g => g == i / 4 else s.adhFault 0x305 fun u => u == i - 32
  else
    let s := s.puts p (ADR.GAIN.ix i) (calMove (s.gets p (ADR.GAIN.ix i)) gain 200)
    let s := s.puts p (ADR.OFS.ix i) (calMove (s.gets p (ADR.OFS.ix i)) ofs 512)
    (s.calSet i fun c => { c with cycle := true, stale := 0, ok := true, told := false }).calShow i

/-- CAL_STEP: a step of the cycle of converter `i` completes in an idle slot; the sixteenth ends the cycle. -/
def execCalStep (dt : Nat) (conv : Fin 36) (gain ofs : Int) (s : State) : Host.Outcome State Fault Refusal :=
  let s := s.advance dt
  if s.calIdle conv then
    let n := (vget s.adr.conv conv).steps + 1
    let s := s.calSet conv fun c => { c with steps := n % 16 }
    .next (if n < 16 then s else s.calCycle conv gain ofs)
  else .next s

/-- One converter at the end of a window. -/
def State.calWindow (s : State) (i : Fin 36) : State :=
  let c := vget s.adr.conv i
  if c.cycle then s.calSet i fun c => { c with cycle := false, stale := 0 }
  else
    let n := c.stale + 1
    let s := s.calSet i fun c => { c with stale := n }
    if s.get ADR.pg ADR.CALCFG_STALE_MAX ≤ n ∧ ¬ c.told then
      ((s.calSet i fun c => { c with ok := false, told := true }).calShow i).note 0x303 1 0 0
    else s

/-- CAL_WINDOW_END: a 40,000,000-tick window ends. -/
def execCalWindowEnd (dt : Nat) (s : State) : Host.Outcome State Fault Refusal :=
  let s := s.advance dt
  if s.adr.winAt + 40000000 ≤ s.now then
    .next ((List.finRange 36).foldl State.calWindow { s with adr := { s.adr with winAt := s.now } })
  else .next s

end Sys2Proof.Machine
end

