-- ==== Sys2Proof/Machine/Stages.lean ====
section
/-! DEFINITION. The Cirrus stage library (R175 to R205): descriptors, the arithmetic of every stage, and, carried along
with each value, its first-order deviation, from which the Updraft checks of R162 are made. -/

namespace Sys2Proof.Machine
open Sys2Proof

/-! ### Values with a first-order deviation (R161, R176) -/

/-- A value, and the sum of its sensitivities times the deviations of the predicted inputs; the deviation is 0 outside a
provisional run. -/
structure Dual where
  v : F32
  d : F32
deriving DecidableEq, Repr

namespace Dual

/-- A value without deviation. -/
def const (x : F32) : Dual := ⟨x, 0⟩
def add (x y : Dual) : Dual := ⟨fadd x.v y.v, fadd x.d y.d⟩
def neg (x : Dual) : Dual := ⟨fneg x.v, fneg x.d⟩
def sub (x y : Dual) : Dual := ⟨fsub x.v y.v, fsub x.d y.d⟩
def mul (x y : Dual) : Dual := ⟨fmul x.v y.v, fadd (fmul x.d y.v) (fmul x.v y.d)⟩
def div (x y : Dual) : Dual :=
  let q := fdiv x.v y.v
  ⟨q, fdiv (fsub x.d (fmul q y.d)) y.v⟩
def sqrt (x : Dual) : Dual :=
  let r := fsqrt x.v
  ⟨r, if feq r 0 then 0 else fdiv x.d (fmul f2 r)⟩
/-- sin and cos of 2π times the value. -/
def sin (x : Dual) : Dual := ⟨fsin x.v, fmul (fmul f2Pi (fcos x.v)) x.d⟩
def cos (x : Dual) : Dual := ⟨fcos x.v, fneg (fmul (fmul f2Pi (fsin x.v)) x.d)⟩
/-- The value as a result of a stage: a subnormal becomes a zero (R180). -/
def flush (x : Dual) : Dual := ⟨fflush x.v, x.d⟩
/-- The value limited to a range; the branch follows the values. -/
def clamp (x lo hi : Dual) : Dual := if flt x.v lo.v then lo.flush else if flt hi.v x.v then hi.flush else x.flush
/-- The value with its first-order correction (R163). -/
def corrected (x : Dual) : Dual := ⟨fadd x.v x.d, 0⟩

end Dual

/-- 1 ulp of a value: the weight of the last bit of its binade. -/
def fulp (x : F32) : F32 :=
  let e := x.toNat / 2 ^ 23 % 256
  if e = 0 then 0 else if 150 ≤ e then fround false (2 ^ (e - 150)) 1 else fround false 1 (2 ^ (150 - e))

/-! ### Descriptors (R175, R178, R184) -/

/-- A decoded stage: its descriptor fields, the place of its state, and whether its inputs depend on a predicted input
(R185). -/
structure Stage where
  code : Nat
  src : Nat
  src2 : Nat
  dst : Nat
  /-- N + 1. -/
  n : Nat
  opt : Nat
  cptr : Nat
  sb : Nat
  dep : Bool
deriving DecidableEq, Repr

/-- Decode a descriptor word. -/
def decodeStage (w : Nat) : Stage :=
  ⟨bits w 31 27, bits w 26 22, bits w 21 17, bits w 16 12, bits w 11 9 + 1, bits w 8 7, bits w 6 0, 0, false⟩

/-- Inputs m and measurements p of OBSERVE (R203). -/
def Stage.m (g : Stage) : Nat := g.opt % 2 + 1
def Stage.p (g : Stage) : Nat := g.opt / 2 + 1

/-- State words of a stage (R184). -/
def Stage.stateWords (g : Stage) : Nat :=
  match g.code with
  | 0x07 => 2 * g.n + 1
  | 0x08 => 4 * g.n + 1
  | 0x09 | 0x0A => 2 * g.n
  | 0x0C => 3
  | 0x11 => 2 * g.n
  | 0x14 => g.n
  | 0x15 => 1
  | _ => 0

/-- Coefficient words of a stage (R184). -/
def Stage.coefWords (g : Stage) : Nat :=
  match g.code with
  | 0x02 => 2 * g.n
  | 0x07 => 4 * g.n
  | 0x08 => 6 * g.n
  | 0x09 => 5 * g.n
  | 0x0A => 9 * g.n
  | 0x0B => if g.opt = 2 then 2 * g.n else 1
  | 0x0C | 0x0D => 3
  | 0x0E => g.n
  | 0x0F | 0x10 => 2
  | 0x11 => 2 * g.n
  | 0x12 => if g.opt % 2 = 1 then 0 else 66
  | 0x14 => g.n * g.n + g.n * g.m + 2 * g.n * g.p
  | 0x15 => 2
  | _ => 0

/-- Cost of a stage in CU (R184). -/
def Stage.cost (g : Stage) : Nat :=
  match g.code with
  | 0x01 | 0x02 => 4 + 2 * g.n
  | 0x03 => 8
  | 0x04 => 48
  | 0x05 | 0x06 => 12
  | 0x07 => 4 + 6 * g.n
  | 0x08 => 4 + 9 * g.n
  | 0x09 | 0x0A => 4 + 8 * g.n
  | 0x0B => if g.opt = 2 then 4 + 2 * g.n else 12
  | 0x0C => 16
  | 0x0D => 10
  | 0x0E => 4 + 3 * g.n
  | 0x0F => 14
  | 0x10 => 24
  | 0x11 => 4 + 4 * g.n
  | 0x12 => 6 + 6 * g.n
  | 0x13 => 2 + 2 * g.n
  | 0x14 => 8 + g.n * (g.n + g.m + 2 * g.p)
  | 0x15 => 6
  | _ => 0

/-- The working registers that a stage reads (R186 to R205); LOAD reads none, and STORE needs its target kinds. -/
def Stage.reads (g : Stage) : List Nat :=
  let grp (a k : Nat) := (List.range k).map fun i => a + i
  match g.code with
  | 0x02 => grp g.src g.n
  | 0x03 => grp g.src (if g.opt % 2 = 1 then 2 else 3)
  | 0x04 => grp g.src 6
  | 0x05 | 0x06 => grp g.src 2 ++ [g.src2]
  | 0x07 | 0x08 => grp g.src g.n ++ grp g.src2 g.n
  | 0x09 | 0x0A => [g.src]
  | 0x0B => if g.opt = 2 then grp g.src g.n else grp g.src 2 ++ (if g.src2 = g.src then [] else [g.src2])
  | 0x0C => grp g.src 2 ++ grp g.src2 2
  | 0x0D => grp g.src 3 ++ grp g.src2 2
  | 0x0E => grp g.src g.n ++ grp g.src2 g.n
  | 0x0F => grp g.src 2 ++ [g.src2]
  | 0x10 => grp g.src 4 ++ [g.src2]
  | 0x11 | 0x12 => grp g.src g.n
  | 0x14 => grp g.src g.m ++ grp g.src2 g.p
  | 0x15 => [g.src, g.src2]
  | _ => []

/-- The number of working registers that a stage writes from DST on. -/
def Stage.writes (g : Stage) : Nat :=
  match g.code with
  | 0x01 | 0x02 | 0x07 | 0x08 | 0x0E | 0x11 | 0x12 => g.n
  | 0x03 | 0x05 | 0x06 | 0x0D | 0x15 => 2
  | 0x04 | 0x10 => 6
  | 0x09 | 0x0A | 0x0C => 1
  | 0x0B => if g.opt = 2 then g.n else 2
  | 0x0F => 3
  | 0x14 => g.n + g.p
  | _ => 0

/-- The working registers that a target takes: three for a triplet, one otherwise (R205). -/
def targetRegs (bind : Nat) : Nat :=
  let k := bits bind 31 28
  if 7 ≤ k ∧ k ≤ 9 then 3 else 1

/-! ### Stage arithmetic (R186 to R204) -/

/-- What a stage is given: coefficient words from CPTR on, the table of a LUT, the time step h, and whether OBSERVE and
DECOUPLE depend on a predicted speed. -/
structure StageEnv where
  coef : Nat → F32
  h : F32
  omegaDep : Bool

/-- What a stage answers: its outputs, its state words, its regime, and its remainder bound. -/
structure StageOut where
  out : List Dual
  st : List Dual
  regime : Nat
  bound : F32
deriving DecidableEq, Repr

/-- A plain result without state or regime. -/
def plainOut (out : List Dual) : StageOut := ⟨out, [], 0, 0⟩

/-- The magnitude of a vector's deviation. -/
def devMag (a b : Dual) : F32 := fhypot a.d b.d

/-- Compensated summation (R190): the new sum and its compensation. -/
def compensated (i c delta : Dual) : Dual × Dual :=
  let y := delta.sub c
  let t := i.add y
  (t, (t.sub i).sub y)

/-- A compensated sum with a clamp, which sets the compensation to 0 where it changes the sum. -/
def compClamp (i c delta lo hi : Dual) : Dual × Dual :=
  let (t, c') := compensated i c delta
  let u := t.clamp lo hi
  if u.v = t.v then (t, c') else (u, .const 0)

/-- PARK and IPARK (R189). -/
def stagePark (inverse : Bool) (opt : Nat) (a b th : Dual) : StageOut :=
  let t := if opt % 2 = 1 then th.neg else th
  let sn := t.sin
  let cs := t.cos
  let o :=
    if inverse then [(a.mul cs).sub (b.mul sn), (a.mul sn).add (b.mul cs)]
    else [(a.mul cs).add (b.mul sn), (b.mul cs).sub (a.mul sn)]
  let w := fmul f2Pi (fabs th.d)
  let dv := devMag a b
  let v := fhypot a.v b.v
  ⟨o, [], 0, fadd (fmul (fmul (frat 1 2) (fmul w w)) (fadd v dv)) (fmul w dv)⟩

/-- The saturation code of a lane (R191): 0, +1 as 1, −1 as 3. -/
def satCode (v lo hi : F32) : Nat := if flt hi v then 1 else if flt v lo then 3 else 0

/-- One lane of PI or PID after its sum v (R191): the new integrator, compensation and output. -/
def integrate (prev : Nat) (i0 c step lo hi : Dual) : Dual × Dual :=
  if prev = 0 ∨ (prev = 1 ∧ flt step.v 0) ∨ (prev = 3 ∧ flt 0 step.v) then compClamp i0 c step lo hi else (i0, c)

/-- PI (R191): lanes of reference and feedback. -/
def stagePi (e : StageEnv) (n : Nat) (rf fb : List Dual) (st : List Dual) : StageOut :=
  let flags := (st.getD (2 * n) (.const 0)).v.toNat
  let lanes := (List.range n).map fun i =>
    let k (j : Nat) := Dual.const (e.coef (4 * i + j))
    let err := (rf.getD i (.const 0)).sub (fb.getD i (.const 0))
    let i0 := (st.getD (2 * i) (.const 0)).clamp (k 2) (k 3)
    let v := ((k 0).mul err).add i0
    let u := v.clamp (k 2) (k 3)
    let sat := satCode v.v (k 2).v (k 3).v
    let step := ((k 1).mul (.const e.h)).mul err
    let (i', c') := integrate (flags / 4 ^ i % 4) i0 (st.getD (2 * i + 1) (.const 0)) step (k 2) (k 3)
    (u, [i', c'], sat)
  let regime := (lanes.zipIdx.map fun x => x.1.2.2 * 4 ^ x.2).sum
  ⟨lanes.map (·.1), lanes.flatMap (·.2.1) ++ [.const (BitVec.ofNat 32 regime)], regime, 0⟩

/-- PID (R193). -/
def stagePid (e : StageEnv) (n : Nat) (rf fb : List Dual) (st : List Dual) : StageOut :=
  let flags := (st.getD (4 * n) (.const 0)).v.toNat
  let lanes := (List.range n).map fun i =>
    let k (j : Nat) := Dual.const (e.coef (6 * i + j))
    let w (j : Nat) := st.getD (4 * i + j) (.const 0)
    let err := (rf.getD i (.const 0)).sub (fb.getD i (.const 0))
    let i0 := (w 0).clamp (k 4) (k 5)
    let dd := if flt 0 e.h then
        (((k 3).mul (w 2)).add ((k 2).mul (err.sub (w 3)))).div ((k 3).add (.const e.h))
      else .const 0
    let v := (((k 0).mul err).add i0).add dd
    let u := v.clamp (k 4) (k 5)
    let sat := satCode v.v (k 4).v (k 5).v
    let step := ((k 1).mul (.const e.h)).mul err
    let (i', c') := integrate (flags / 4 ^ i % 4) i0 (w 1) step (k 4) (k 5)
    (u, [i', c', dd, err], sat)
  let regime := (lanes.zipIdx.map fun x => x.1.2.2 * 4 ^ x.2).sum
  ⟨lanes.map (·.1), lanes.flatMap (·.2.1) ++ [.const (BitVec.ofNat 32 regime)], regime, 0⟩

/-- BIQUAD and NOTCH (R194, R195): `stride` coefficient words per section, the five filter words from `ofs` on. -/
def stageBiquad (e : StageEnv) (stride ofs : Nat) : Nat → Nat → Dual → List Dual → StageOut
  | 0, _, x, _ => plainOut [x]
  | n + 1, j, x, st =>
    let k (i : Nat) := Dual.const (e.coef (stride * j + ofs + i))
    let s1 := st.getD 0 (.const 0)
    let s2 := st.getD 1 (.const 0)
    let y := ((k 0).mul x).add s1
    let s1' := (((k 1).mul x).sub ((k 3).mul y)).add s2
    let s2' := ((k 2).mul x).sub ((k 4).mul y)
    let r := stageBiquad e stride ofs n (j + 1) y (st.drop 2)
    { r with st := s1' :: s2' :: r.st }

/-- LIMIT (R196). -/
def stageLimit (e : StageEnv) (opt n : Nat) (x : List Dual) (r2 : Option Dual) : StageOut :=
  let a := x.getD 0 (.const 0)
  let b := x.getD 1 (.const 0)
  let r := match r2 with
    | some w => (Dual.const (e.coef 0)).mul w
    | none => .const (e.coef 0)
  let m := ((a.mul a).add (b.mul b)).sqrt
  let dv := devMag a b
  let bound := fadd (fdiv (fmul (fmul (frat 3 2) r.v) (fmul dv dv)) (fmul m.v m.v)) (fdiv (fmul (fabs r.d) dv) m.v)
  match opt with
  | 0 =>
    if flt r.v m.v then
      let k := r.div m
      ⟨[a.mul k, b.mul k], [], 1, bound⟩
    else ⟨[a.flush, b.flush], [], 0, 0⟩
  | 1 =>
    let a' := a.clamp r.neg r
    let q := ((r.mul r).sub (a'.mul a')).sqrt
    let b' := b.clamp q.neg q
    let regime := b2n (a'.v != a.v) + 2 * b2n (b'.v != b.v)
    ⟨[a', b'], [], regime, if regime = 0 then 0 else bound⟩
  | _ =>
    let lanes := (List.range n).map fun i =>
      let y := x.getD i (.const 0)
      let lo := e.coef (2 * i)
      let hi := e.coef (2 * i + 1)
      (y.clamp (.const lo) (.const hi), b2n (flt hi y.v || flt y.v lo))
    ⟨lanes.map (·.1), [], (lanes.zipIdx.map fun z => z.1.2 * 2 ^ z.2).sum, 0⟩

/-- FWEAK (R197). -/
def stageFweak (e : StageEnv) (vd vq vdc idIn : Dual) (st : List Dual) : StageOut :=
  let k (j : Nat) := Dual.const (e.coef j)
  let vmax := ((k 0).mul vdc).mul (.const fInvSqrt3)
  let vm := ((vd.mul vd).add (vq.mul vq)).sqrt
  let kh := (k 1).mul (.const e.h)
  let (iw, c) := compClamp (st.getD 0 (.const 0)) (st.getD 1 (.const 0)) (kh.mul (vmax.sub vm)) (k 2) (.const 0)
  let regime := if feq iw.v 0 then 0 else if feq iw.v (k 2).v then 2 else 1
  let dv := devMag vd vq
  ⟨[idIn.add iw], [iw, c, .const (BitVec.ofNat 32 regime)], regime, fdiv (fmul kh.v (fmul dv dv)) (fmul f2 vm.v)⟩

/-- DECOUPLE (R200). -/
def stageDecouple (e : StageEnv) (w id iq vd vq : Dual) : StageOut :=
  let k (j : Nat) := Dual.const (e.coef j)
  let b := if e.omegaDep then
      fmul (fabs w.d) (fmax (fmul (e.coef 1) (fabs iq.d)) (fmul (e.coef 0) (fabs id.d))) else 0
  ⟨[vd.sub (w.mul ((k 1).mul iq)), vq.add (w.mul (((k 0).mul id).add (k 2)))], [], 0, b⟩

/-- The modulator of one voltage vector from its three phase references (R201): compare values, regime and bound. -/
def svmLegs (e : StageEnv) (edge : Bool) (va vb vc vdc : Dual) (dv : F32) : List Dual × Nat × F32 :=
  let hp := Dual.const (e.coef 0)
  let out (d : Dual) := if edge then (hp.add hp).mul d else hp.mul ((Dual.const f1).sub d)
  if flt vdc.v (e.coef 1) then
    let d := Dual.const (frat 1 2)
    ([out d, out d, out d], 100, 0)
  else
    let gt (x y : Dual) := flt y.v x.v
    let mxI := if gt vb va then (if gt vc vb then 2 else 1) else (if gt vc va then 2 else 0)
    let mnI := if gt vb va then (if gt vc va then 0 else 2) else (if gt vc vb then 1 else 2)
    let sel (i : Nat) := match i with
      | 0 => va
      | 1 => vb
      | _ => vc
    let mx := sel mxI
    let mn := sel mnI
    let span := mx.sub mn
    let ovm := flt vdc.v span.v
    let sc (x : Dual) := if ovm then x.mul (vdc.div span) else x
    let vo := (((sc mx).add (sc mn)).mul (.const (frat 1 2))).neg
    let inv := (Dual.const f1).div vdc
    let leg (x : Dual) := out ((((sc x).add vo).mul inv).add (.const (frat 1 2)))
    let big := [va, vb, vc].foldl (fun acc x => fmax acc (fabs (fadd (sc x).v vo.v))) 0
    let d1 := fabs vdc.d
    let v2 := fmul vdc.v vdc.v
    let bound := fadd (fdiv (fmul big (fmul d1 d1)) (fmul v2 vdc.v)) (fdiv (fmul dv d1) v2)
    ([leg va, leg vb, leg vc], mxI * 3 + mnI + (if ovm then 16 else 0), bound)

/-- The phase references of SVM3 (R201). -/
def svm3Phases (a b : Dual) : Dual × Dual × Dual :=
  let h := (Dual.const (frat (-1) 2)).mul a
  let q := (Dual.const 0x3F5DB3D7#32).mul b
  (a, h.add q, h.sub q)

/-- SVM3. -/
def stageSvm3 (e : StageEnv) (opt : Nat) (a b vdc : Dual) : StageOut :=
  let (x, y, z) := svm3Phases a b
  let (o, r, bound) := svmLegs e (opt % 2 = 1) x y z vdc (devMag a b)
  ⟨o, [], r, bound⟩

/-- The phase references of set 2 of SVM6 (R202). -/
def svm6Phases (geom : Bool) (a b : Dual) : Dual × Dual × Dual :=
  let r : F32 := 0x3F5DB3D7#32
  let hf := frat 1 2
  let ref (c s : F32) := (a.mul (.const c)).add (b.mul (.const s))
  if geom then (ref f1 0, ref (fneg hf) r, ref (fneg hf) (fneg r))
  else (ref r hf, ref (fneg r) hf, ref 0 (fneg f1))

/-- SVM6 (R202). -/
def stageSvm6 (e : StageEnv) (opt : Nat) (va vb vx vy vdc : Dual) : StageOut :=
  let geom := opt % 2 = 1
  let edge := decide (opt / 2 % 2 = 1)
  let a1 := va.add vx
  let a2 := va.sub vx
  let b1 := if geom then vb.add vy else vb.sub vy
  let b2 := if geom then vb.sub vy else vb.add vy
  let (x1, y1, z1) := svm3Phases a1 b1
  let (x2, y2, z2) := svm6Phases (decide geom) a2 b2
  let (o1, r1, m1) := svmLegs e edge x1 y1 z1 vdc (devMag a1 b1)
  let (o2, r2, m2) := svmLegs e edge x2 y2 z2 vdc (devMag a2 b2)
  ⟨o1 ++ o2, [], r1 * 256 + r2, fmax m1 m2⟩

/-- RAMP (R198). -/
def stageRamp (e : StageEnv) (n : Nat) (x st : List Dual) : StageOut :=
  let lanes := (List.range n).map fun i =>
    let y := st.getD (2 * i) (.const 0)
    let c := st.getD (2 * i + 1) (.const 0)
    let r := x.getD i (.const 0)
    let up := Dual.const (fmul (e.coef (2 * i)) e.h)
    let dn := (Dual.const (fmul (e.coef (2 * i + 1)) e.h)).neg
    let delta := r.sub y
    if fle dn.v delta.v && fle delta.v up.v then (r.flush, [r.flush, .const 0], 0)
    else
      let (t, c') := compensated y c (delta.clamp dn up)
      (t, [t, c'], if flt up.v delta.v then 1 else 2)
  ⟨lanes.map (·.1), lanes.flatMap (·.2.1), (lanes.zipIdx.map fun z => z.1.2.2 * 4 ^ z.2).sum, 0⟩

/-- LUT (R199): the 66 words of the table are the coefficients. -/
def stageLut (e : StageEnv) (n : Nat) (x : List Dual) : StageOut :=
  let lanes := (List.range n).map fun i =>
    let w := ((x.getD i (.const 0)).sub (.const (e.coef 0))).mul (.const (e.coef 1))
    let u := w.clamp (.const 0) (.const (fint 63))
    let j := min (ffloorInt u.v).toNat 62
    let f := u.sub (.const (fint j))
    let y (k : Nat) := Dual.const (e.coef (2 + k))
    ((y j).add (f.mul ((y (j + 1)).sub (y j))), j + 64 * (satCode w.v 0 (fint 63)))
  ⟨lanes.map (·.1), [], (lanes.zipIdx.map fun z => z.1.2 * 256 ^ z.2).sum, 0⟩

/-- A row of a row-major matrix times a vector, accumulated in index order. -/
def rowTimes (e : StageEnv) (base cols row : Nat) (x : List Dual) : Dual :=
  (List.range (cols - 1)).foldl (fun acc j =>
      acc.add ((Dual.const (e.coef (base + row * cols + j + 1))).mul (x.getD (j + 1) (.const 0))))
    ((Dual.const (e.coef (base + row * cols))).mul (x.getD 0 (.const 0)))

/-- OBSERVE (R203). -/
def stageObserve (e : StageEnv) (n m p : Nat) (u y st : List Dual) : StageOut :=
  let bB := n * n
  let bC := bB + n * m
  let bK := bC + p * n
  let r := (List.range p).map fun i => (y.getD i (.const 0)).sub (rowTimes e bC n i st)
  let x := (List.range n).map fun i => ((rowTimes e 0 n i st).add (rowTimes e bB m i u)).add (rowTimes e bK p i r)
  let c := (List.range p).map fun i => rowTimes e bC n i x
  ⟨x ++ c, x, 0, 0⟩

/-- COMPARE (R204): the count is a binary32 integer in the register and in the state word. -/
def stageCompare (e : StageEnv) (opt : Nat) (a b : Dual) (st : List Dual) : StageOut :=
  let t := e.coef 0
  let pass := match opt with
    | 0 => fle (fabs (fsub a.v b.v)) t
    | 1 => fle t a.v
    | _ => fle a.v t
  let c := if pass then 0 else fadd (st.getD 0 (.const 0)).v f1
  ⟨[.const (if pass then 0 else f1), .const c], [.const c], 0, 0⟩

/-- One stage on its inputs in the order of `Stage.reads`, with its state words. LOAD and STORE are handled by the chain. -/
def Stage.run (g : Stage) (e : StageEnv) (x st : List Dual) : StageOut :=
  let w (i : Nat) := x.getD i (.const 0)
  match g.code with
  | 0x02 => plainOut ((List.range g.n).map fun i =>
      ((Dual.const (e.coef (2 * i))).mul (w i)).add (.const (e.coef (2 * i + 1))))
  | 0x03 =>
    let c := if g.opt % 2 = 1 then (w 0).neg.sub (w 1) else w 2
    plainOut [((((w 0).add (w 0)).sub (w 1)).sub c).mul (.const (frat 1 3)), ((w 1).sub c).mul (.const fInvSqrt3)]
  | 0x04 => plainOut ((vsdRows g.opt).map fun row =>
      let prods := row.zipIdx.map fun r => (Dual.const r.1).mul (w r.2)
      prods.tail.foldl Dual.add (prods.headD (.const 0)))
  | 0x05 => stagePark false g.opt (w 0) (w 1) (w 2)
  | 0x06 => stagePark true g.opt (w 0) (w 1) (w 2)
  | 0x07 => stagePi e g.n (x.take g.n) (x.drop g.n) st
  | 0x08 => stagePid e g.n (x.take g.n) (x.drop g.n) st
  | 0x09 => stageBiquad e 5 0 g.n 0 (w 0) st
  | 0x0A => stageBiquad e 9 4 g.n 0 (w 0) st
  | 0x0B => stageLimit e g.opt g.n x (if g.opt = 2 then none else x[2]?)
  | 0x0C => stageFweak e (w 0) (w 1) (w 2) (w 3) st
  | 0x0D => stageDecouple e (w 0) (w 1) (w 2) (w 3) (w 4)
  | 0x0E => plainOut ((List.range g.n).map fun i => (w i).add ((Dual.const (e.coef i)).mul (w (g.n + i))))
  | 0x0F => stageSvm3 e g.opt (w 0) (w 1) (w 2)
  | 0x10 => stageSvm6 e g.opt (w 0) (w 1) (w 2) (w 3) (w 4)
  | 0x11 => stageRamp e g.n x st
  | 0x12 => stageLut e g.n x
  | 0x14 => stageObserve e g.n g.m g.p (x.take g.m) (x.drop g.m) st
  | 0x15 => stageCompare e g.opt (w 0) (w 1) st
  | _ => plainOut []

/-- Whether the regime of a stage is checked (class P or P/S), and its remainder bound (class S or P/S) (R161, R184). -/
def Stage.hasRegime (g : Stage) : Bool := [0x07, 0x08, 0x0B, 0x0C, 0x0F, 0x10, 0x11, 0x12].contains g.code
def Stage.hasBound (g : Stage) (omegaDep : Bool) : Bool :=
  [0x05, 0x06, 0x0C, 0x0F, 0x10].contains g.code || (g.code == 0x0B && g.opt != 2) || (g.code == 0x0D && omegaDep)

/-- Whether a stage counts as dependent class P, S or P/S (R185). -/
def Stage.isPS (g : Stage) (omegaDep : Bool) : Bool := g.hasRegime || g.hasBound omegaDep

end Sys2Proof.Machine
end

