-- ==== Sys2Proof/Machine/Cirrus.lean ====
section
/-! DEFINITION. Cirrus: context records, triggers, executions, Updraft, commits, paired mode and faults (R145 to R174,
R205, R206). -/

namespace Sys2Proof.Machine
open Sys2Proof

/-! ### Contexts and chains -/

/-- The hidden state of context `k`, and its change. -/
def State.ctxH (s : State) (k : Nat) : CtxH := mapGet (fun _ => CtxH.idle) s.ctxs k
def State.ctxSet (s : State) (k : Nat) (f : CtxH → CtxH) : State :=
  { s with ctxs := mapSet (fun _ => CtxH.idle) s.ctxs k (f (s.ctxH k)) }

/-- Change the execution of context `k`. -/
def State.execSet (s : State) (k : Nat) (f : Exec → Exec) : State := s.ctxSet k fun c => { c with exec := c.exec.map f }

/-- A word of a record at offset `off`, where `rd` reads a word address. -/
def recWord (rd : Nat → W32) (k off : Nat) : Nat := (rd (0x30000000 + k * 0x400 + off)).toNat

/-- Binding word `b` and its fields (R177). -/
def bindWord (rd : Nat → W32) (k b : Nat) : Nat := recWord rd k (0xC0 + 4 * b)
def bindKind (w : Nat) : Nat := bits w 31 28
def bindSel (w : Nat) : Nat := bits w 27 0

/-- Registers that depend on a predicted input after a stage (R185), as a bit mask. -/
def depAfter (rd : Nat → W32) (k : Nat) (g : Stage) (mask : Nat) : Stage × Nat :=
  if g.code = 1 then
    (g, (List.range g.n).foldl (fun m i =>
      let kind := bindKind (bindWord rd k (g.src + i))
      setBits m (g.dst + i) (g.dst + i) (b2n (kind == 1 || kind == 2))) mask)
  else
    let d := g.reads.any fun r => mask.testBit r
    ({ g with dep := d }, (List.range g.writes).foldl (fun m i => setBits m (g.dst + i) (g.dst + i) (b2n d)) mask)

/-- The stages of a context, each with the place of its state and its dependence (R175, R178, R185). -/
def chainOf (rd : Nat → W32) (k : Nat) : List Stage :=
  let n := recWord rd k 0 % 32
  ((List.range n).foldl (fun (acc : List Stage × Nat × Nat) i =>
    let g := { decodeStage (recWord rd k (0x60 + 4 * i)) with sb := acc.2.1 }
    let (g, mask) := depAfter rd k g acc.2.2
    (acc.1 ++ [g], acc.2.1 + g.stateWords, mask)) ([], 0, 0)).1

/-- Whether DECOUPLE's speed input depends on a predicted input: the mask before the stage decides. -/
def omegaDeps (rd : Nat → W32) (k : Nat) (chain : List Stage) : List Bool :=
  (chain.foldl (fun (acc : List Bool × Nat) g =>
    (acc.1 ++ [acc.2.testBit g.src], (depAfter rd k g acc.2).2)) ([], 0)).1

/-- State words of a chain. -/
def chainState (chain : List Stage) : Nat := (chain.map Stage.stateWords).sum

/-- The predicted inputs of a chain: the bindings of kind 0x1 and 0x2 that its LOAD stages read. -/
def predictedBinds (rd : Nat → W32) (k : Nat) (chain : List Stage) : List Nat :=
  (((chain.filter fun g => g.code == 1).flatMap fun g => (List.range g.n).map fun i => g.src + i).filter fun b =>
    let kind := bindKind (bindWord rd k b)
    kind == 1 || kind == 2).eraseDups

/-- The context whose table a LUT with OPT 1 names (R199). -/
def lutContext (rd : Nat → W32) (k : Nat) (g : Stage) : Nat :=
  if g.opt % 2 = 1 then bindSel (bindWord rd k (g.cptr % 16)) % 256 else k

/-- The coefficient words of a stage. -/
def stageCoef (rd : Nat → W32) (k : Nat) (g : Stage) (j : Nat) : F32 :=
  if g.code = 0x12 ∧ g.opt % 2 = 1 then rd (0x30000000 + lutContext rd k g * 0x400 + 0x100 + 4 * (j % 128))
  else rd (0x30000000 + k * 0x400 + 0x100 + 4 * ((g.cptr + j) % 128))

/-! ### Running a chain -/

/-- A chain under way: registers, state words, regimes and the first stage that fails a check of R162. -/
structure Run where
  w : List Dual
  st : List Dual
  regimes : List Nat
  fail : Option Nat
deriving DecidableEq, Repr

/-- Overwrite consecutive elements of a list. -/
def setFrom {α : Type} (l : List α) (i : Nat) : List α → List α
  | [] => l
  | x :: xs => setFrom (l.set i x) (i + 1) xs

/-- The words that stay raw at the end of a stage's state: the flags of PI, PID and FWEAK. -/
def rawFlags (g : Stage) : Nat := if [0x07, 0x08, 0x0C].contains g.code then 1 else 0

/-- What the checks of R162 need: the regimes of the last committed execution, and the binding bands. -/
structure Checks where
  last : Option (List Nat)
  banded : Nat → Bool

/-- The checks of R162 and R183 on one stage. -/
def stageFails (g : Stage) (e : StageEnv) (x st : List Dual) (o : StageOut) (last : Option Nat) : Bool :=
  let fin := (o.out.all fun y => ffinite y.v) && ((o.st.take (o.st.length - rawFlags g)).all fun y => ffinite y.v)
  if !fin then true
  else if !g.dep then false
  else
    let small := o.out.foldl (fun acc y => fmin acc (fabs y.v)) (fInf false)
    let boundary := g.hasRegime && (match last with
      | some r => r != o.regime
      | none => false)
    let moved := g.hasRegime && (g.run e (x.map Dual.corrected) st).regime != o.regime
    let curved := g.hasBound e.omegaDep && !fle o.bound (fulp small)
    g.code == 0x15 || boundary || moved || curved

/-- One stage of a run. -/
def runStage (rd : Nat → W32) (k : Nat) (h : F32) (inputs : List Dual) (chk : Option Checks) (r : Run) (i : Nat)
    (g : Stage) (om : Bool) : Run :=
  match g.code with
  | 0x01 =>
    let vals := (List.range g.n).map fun j => inputs.getD ((g.src + j) % 16) (.const 0)
    let bad := match chk with
      | some c => vals.any (fun y => !ffinite y.v) || (List.range g.n).any fun j => c.banded ((g.src + j) % 16)
      | none => false
    { r with w := setFrom r.w g.dst vals, regimes := r.regimes ++ [0], fail := r.fail.or (if bad then some i else none) }
  | 0x13 => { r with regimes := r.regimes ++ [0] }
  | _ =>
    let e : StageEnv := ⟨stageCoef rd k g, h, om⟩
    let x := g.reads.map fun a => r.w.getD a (.const 0)
    let st := (r.st.drop g.sb).take g.stateWords
    let o := g.run e x st
    let bad := match chk with
      | some c => stageFails g e x st o (c.last.bind fun l => l[i]?)
      | none => false
    ⟨setFrom r.w g.dst o.out, setFrom r.st g.sb o.st, r.regimes ++ [o.regime], r.fail.or (if bad then some i else none)⟩

/-- The stages `from` to `to` − 1 of a chain. -/
def runChain (rd : Nat → W32) (k : Nat) (h : F32) (inputs : List Dual) (chk : Option Checks) (chain : List Stage)
    (lo hi : Nat) (r : Run) : Run :=
  ((chain.zip (omegaDeps rd k chain)).zipIdx.foldl (fun r x =>
    if lo ≤ x.2 ∧ x.2 < hi then runStage rd k h inputs chk r x.2 x.1.1 x.1.2 else r) r)

/-- The registers read +0 at the start (R176); the state is that of the record. -/
def runStart (rd : Nat → W32) (k : Nat) : Run :=
  ⟨List.replicate 32 (.const 0), (List.range 56).map fun j => .const (rd (0x30000000 + k * 0x400 + 0x300 + 4 * j)), [], none⟩

/-- The targets of the STORE stages in order: binding word and first register (R205). -/
def storeTargets (rd : Nat → W32) (k : Nat) (chain : List Stage) : List (Nat × Nat) :=
  (chain.filter fun g => g.code == 0x13).flatMap fun g =>
    ((List.range g.n).foldl (fun (acc : List (Nat × Nat) × Nat) i =>
      let b := bindWord rd k ((g.dst + i) % 16)
      (acc.1 ++ [(b, acc.2)], acc.2 + targetRegs b)) ([], g.src)).1

/-- What a finished run commits; a value that would be written and is not finite spoils it (R183). -/
def runOut (rd : Nat → W32) (k : Nat) (chain : List Stage) (r : Run) : ExecOut :=
  let w := r.w.map (·.v)
  let n := chainState chain
  let st := (r.st.take n).map (·.v)
  let outs := (storeTargets rd k chain).flatMap fun t => (List.range (targetRegs t.1)).map fun j => w.getD (t.2 + j) 0
  ⟨w, st, r.regimes, !((outs ++ st).all ffinite)⟩

/-! ### Faults (R172, R206) -/

/-- DCD, OBC, BCH and the actuators whose timers context `k` writes. -/
def State.ctxFunctions (s : State) (k code : Nat) : State :=
  let ts := (storeTargets s.rd k (chainOf s.rd k)).map fun t => (bindKind t.1, bindSel t.1)
  let cpw (n : Nat) := ts.contains (8, n)
  let dcd := s.get DCD.pg DCD.STAT_STATE != 0 && cpw (s.get DCD.pg DCD.CFG_TIM0)
  let obc := s.get OBC.pg OBC.STAT_STATE != 0 && (cpw (s.get OBC.pg OBC.CFG_TPFC) || cpw (s.get OBC.pg OBC.CFG_TDP))
  let acts := (List.range 6).foldl (fun m n => if ts.contains (9, n) then m ||| 2 ^ n else m) 0
  s.fnFault code dcd obc false acts

/-- The machine mask of context `k`. -/
def State.ctxMachs (s : State) (k : Nat) : Nat :=
  let m := s.get (CTX.pg k) CTX.CFG_MSV
  if m < 3 then 2 ^ m else 0

/-- The last context fault is shown. -/
def State.ctxLast (s : State) (k code : Nat) : State :=
  (s.put CIR.pg CIR.LASTFLT_CTX k).put CIR.pg CIR.LASTFLT_CODE code

/-- The context's fault is latched (R174). -/
def State.ctxLatch (s : State) (k code : Nat) : State := (s.ctxLast k code).putBit CIR.pg (CIR.CFLT.ix (k / 32)) (k % 32) true

/-- A fault with the context's REACT, on its machine, or on its function when MSV is 3. -/
def State.ctxFault (s : State) (k code : Nat) : State :=
  let react := s.get (CTX.pg k) CTX.CFG_REACT + 1
  let machs := s.ctxMachs k
  let s := (s.ctxLatch k code).evtIf ([0x401, 0x403, 0x405].contains code) CIR.pg CIR.EVT_CTX_FAULT
  let s := if machs = 0 ∧ 2 ≤ react then s.ctxFunctions k code else s
  s.raise code react machs k

/-! ### Triggers (R149, R150, R169) -/

/-- The commit latency L (R154). -/
def State.ctxLatency (s : State) (k : Nat) : Nat :=
  if s.on (CTX.pg k) CTX.CFG_UPD then 240 else s.get (CTX.pg k) CTX.TIME_LAT

/-- Whether the source of context `k` triggers in this tick. -/
def State.ctxFires (s : State) (k : Nat) : Bool :=
  let i := s.get (CTX.pg k) CTX.TRIG_IDX
  match s.get (CTX.pg k) CTX.TRIG_SRC with
  | 0 => if h : i < 15 then s.on TBU.pg (TBU.LG_STAT_RUNNING.ix i) && (vget s.lg ⟨i, h⟩).last / 128 == s.now else false
  | 1 => if h : i < 15 then
      let l := vget s.lg ⟨i, h⟩
      s.on TBU.pg (TBU.LG_STAT_RUNNING.ix i) && (l.last / 128 == s.now || (l.last + l.period / 2) / 128 == s.now)
    else false
  | 2 => if h : i < 16 then vget s.tbu.cmpTick ⟨i, h⟩ == some s.now else false
  | 3 => if h : i < 8 then (vget s.adf ⟨i, h⟩).holdAt == some s.now else false
  | 4 => if h : i < 8 then (vget s.adf ⟨i, h⟩).doneAt == some s.now else false
  | 5 => mapGet (fun _ => 0) s.evrAt i == s.now + 1
  | 6 => (s.ctxH i).commitAt == some s.now
  | _ => false

/-- A scheduled source: its lock group, the group's period, and the offsets of the triggers in it, in fine units. -/
structure Grid where
  group : Nat
  period : Nat
  offs : List Nat
deriving DecidableEq, Repr

/-- The grid of a fast group's holds (R118). -/
def State.adfAdmGrid (t : State) (g : Nat) : Option Grid :=
  let p := ADF.pg g
  match t.get p ADF.CFG_SRC with
  | 0 =>
    let k := t.get p ADF.CFG_LG
    let per := t.lgPeriodAdm k
    some ⟨k, per, t.get p (ADF.PH_PHASE.ix 0) :: if t.on p ADF.CFG_DBL then [per / 2 + t.get p (ADF.PH_PHASE.ix 1)] else []⟩
  | 1 =>
    let c := t.get p ADF.CFG_CMP
    let k := t.get TBU.pg (TBU.CMP_CFG_LG.ix c)
    some ⟨k, t.lgPeriodAdm k, [t.get TBU.pg (TBU.CMP_PHASE_PHASE.ix c)]⟩
  | _ => none

/-- The grid of a context's trigger (R149); none for a source that is not scheduled. -/
def State.ctxGrid (t : State) (k : Nat) : Option Grid :=
  let i := t.get (CTX.pg k) CTX.TRIG_IDX
  match t.get (CTX.pg k) CTX.TRIG_SRC with
  | 0 => some ⟨i, t.lgPeriodAdm i, [0]⟩
  | 1 => some ⟨i, t.lgPeriodAdm i, [0, t.lgPeriodAdm i / 2]⟩
  | 2 =>
    let g := t.get TBU.pg (TBU.CMP_CFG_LG.ix (i % 16))
    some ⟨g, t.lgPeriodAdm g, [t.get TBU.pg (TBU.CMP_PHASE_PHASE.ix (i % 16))]⟩
  | 3 => t.adfAdmGrid (i % 8)
  | _ => none

/-- The scheduled source of context `k` is enabled. -/
def State.ctxSourceOn (s : State) (k : Nat) : Bool :=
  let i := s.get (CTX.pg k) CTX.TRIG_IDX
  match s.get (CTX.pg k) CTX.TRIG_SRC with
  | 2 => s.on TBU.pg (TBU.CMP_CFG_EN.ix (i % 16))
  | 3 => s.on (ADF.pg (i % 8)) HDR.CTRL_EN
  | _ => true

/-- The scheduled trigger ticks of context `k` after this tick up to tick `t` (R149): those of the present period of its
group, and those that follow from the next period start on. -/
def State.ctxAhead (s : State) (k t : Nat) : List Nat :=
  match s.ctxGrid k with
  | some g =>
    if h : g.group < 15 then
      let l := vget s.lg ⟨g.group, h⟩
      let starts := l.last :: (match l.next with
        | some n => (List.range ((128 * (t + 1) - n) / max 1 l.period + 1)).map fun i => n + i * l.period
        | none => [])
      if s.on TBU.pg (TBU.LG_STAT_RUNNING.ix g.group) && s.ctxSourceOn k then
        (starts.flatMap fun st => (g.offs.filter fun o => decide (o < l.period)).map fun o => (st + o) / 128).filter fun x =>
          decide (s.now < x ∧ x ≤ t)
      else []
    else []
  | none => []

/-- The skip exponent of a priority (R169). -/
def State.ctxSkip (s : State) (prio : Nat) : Nat :=
  match prio with
  | 0 => s.get CIR.pg CIR.THR_EXP_BG
  | 1 => s.get CIR.pg CIR.THR_EXP_NORMAL
  | 2 => s.get CIR.pg CIR.THR_EXP_HIGH
  | _ => 0

/-- Whether the trigger of a context that `n` others precede is taken, and not skipped. -/
def State.ctxWillRun (s : State) (k n : Nat) : Bool :=
  let c := s.ctxH k
  let d := s.get (CTX.pg k) CTX.TRIG_DIV + 1
  let e := s.ctxSkip (s.get (CTX.pg k) CTX.CFG_PRIO)
  let hits := ((List.range n).filter fun i => (c.trigs + i) % d == 0).length
  (c.trigs + n) % d == 0 && (c.takes + hits + 1) % 2 ^ e == 0

/-- Whether the scheduled trigger at tick `t` lies ahead of context `k` and will be taken, and not skipped. -/
def State.ctxWillTake (s : State) (k t : Nat) : Bool :=
  let l := s.ctxAhead k t
  let due := s.ctxFires k && (s.ctxH k).trigAt != some s.now
  l.contains t && s.ctxWillRun k ((l.filter fun x => decide (x < t)).length + b2n due)

/-- The hold tick that an ADF binding expects of group `g` for trigger tick `t` (R156). -/
def State.adfExpected (s : State) (g t : Nat) : Option Nat :=
  if h : g < 8 then
    if (s.adfHolds ⟨g, h⟩).contains t then some t else (vget s.adf ⟨g, h⟩).holdAt
  else none

/-- The angle codes and the expected holds of the bindings of context `k` for trigger tick `t` (R156, R221). -/
def State.ctxAngles (s : State) (rd : Nat → W32) (k t : Nat) : List (Nat × Int) :=
  (List.range 16).filterMap fun b =>
    let w := bindWord rd k b
    let n := bindSel w % 4
    if h : bindKind w = 2 ∧ n < 3 then some (b, s.posAngle ⟨n, h.2⟩ t) else none
def State.ctxHolds (s : State) (k t : Nat) : List (Nat × Nat) :=
  let own := s.get (CTX.pg k) CTX.TRIG_SRC == 3
  (List.range 16).filterMap fun b =>
    let w := bindWord s.rd k b
    let g := bits w 6 4
    if bindKind w = 1 then
      (if own && s.get (CTX.pg k) CTX.TRIG_IDX == g then some t else s.adfExpected g t).map fun h => (b, h)
    else none

/-- A new execution with trigger tick `t`. -/
def newExec (t : Nat) (taken redo : Bool) : Exec := {
  trig := t, taken := taken, st := .waiting, redo := redo, words := [], inputs := [], dt := 0, preds := [], angs := [],
  holds := [], out := none, class_ := 0, done1 := false, done2 := false, doneAt := 0, differ := false, spoilt := false, old := false }

/-- A trigger reaches context `k`: the divider, the throttle, the overlap rule, and the execution (R150, R169). -/
def State.ctxTrigger (s : State) (k : Nat) : State :=
  let p := CTX.pg k
  let c := s.ctxH k
  let hit := c.trigs % (s.get p CTX.TRIG_DIV + 1) == 0
  let s := s.ctxSet k fun c => { c with trigs := c.trigs + 1, trigAt := some s.now, takes := c.takes + b2n hit }
  if !hit then s
  else
    let prio := s.get p CTX.CFG_PRIO
    if (c.takes + 1) % 2 ^ s.ctxSkip prio ≠ 0 then
      (s.ctxSet k fun c => { c with exec := match c.exec with
        | some e => if e.taken then some e else none
        | none => none }).incWrap CIR.pg (CIR.SKIP_COUNT.ix prio)
    else
      let start (e : Exec) : State :=
        s.ctxSet k fun c => { c with exec := some { e with
          taken := true, angs := s.ctxAngles s.rd k s.now, holds := s.ctxHolds k s.now,
          dt := match c.lastTrig with
            | some t => s.now - t
            | none => 0 } }
      match c.exec with
      | some e =>
        if e.taken then
          (((s.incWrap p CTX.TDROP).incSat CIR.pg CIR.TDROP_COUNT).put CIR.pg CIR.TDROP_LAST_CTX k).evt CIR.pg
            CIR.EVT_TRIG_DROP |>.ctxLast k 0x406 |>.note 0x406 1 (s.ctxMachs k) k
        else if e.trig = s.now then start e
        else start (newExec s.now true true)
      | none => start (newExec s.now true (s.on p CTX.CFG_UPD))

/-- CTX_TRIGGER: the trigger source of context `k` fires in this tick. -/
def execCtxTrigger (dt : Nat) (k : Fin 256) (s : State) : Host.Outcome State Fault Refusal :=
  let s := s.advance dt
  if s.on (CTX.pg k) CTX.CFG_EN ∧ s.ctxFires k ∧ (s.ctxH k).trigAt ≠ some s.now then .next (s.ctxTrigger k) else .next s

/-! ### Scheduling (R151, R152) -/

/-- The engines of context `k` under its committed configuration. -/
def State.ctxEngines (s : State) (k : Nat) : List Nat :=
  s.get (CTX.pg k) CTX.CFG_ENG :: if s.on (CTX.pg k) CTX.CFG_PAIR then [s.get (CTX.pg k) CTX.CFG_PENG] else []

/-- The record as execution `e` reads it: as kept at its start or before a LOOP commit, else as it stands (R53, R153). -/
def Exec.rd (e : Exec) (a : Nat) : W32 := mapGet resetWord e.words a
def State.execRd (s : State) (e : Exec) : Nat → W32 := if e.words.isEmpty then s.rd else e.rd

/-- A bit of `CTX_CFG` as execution `e` of context `k` runs with it, and its commit latency L (R154). -/
def State.execCfg (s : State) (k : Nat) (e : Exec) (b : Nat) : Bool := (recWord (s.execRd e) k 0).testBit b
def State.execLatency (s : State) (k : Nat) (e : Exec) : Nat :=
  if s.execCfg k e 28 then 240 else recWord (s.execRd e) k 0x008 / 65536

/-- The engines and the priority with which execution `e` of context `k` runs. -/
def State.execEngines (s : State) (k : Nat) (e : Exec) : List Nat :=
  let w := recWord (s.execRd e) k 0
  bits w 22 20 :: if w.testBit 27 then [bits w 26 24] else []
def State.execPrio (s : State) (k : Nat) (e : Exec) : Nat := bits (recWord (s.execRd e) k 0) 30 29

/-- The engines on which execution `e` of context `k` has started a run and not completed it. -/
def State.execRuns (s : State) (k : Nat) (e : Exec) : List Nat :=
  match e.st with
  | .prov | .final =>
    let l := s.execEngines k e
    (if e.done1 then [] else l.take 1) ++ (if e.done2 then [] else l.drop 1)
  | _ => []

/-- Some execution of another context than `k` satisfies `f`. -/
def State.anyOther (s : State) (k : Nat) (f : Nat → Exec → Bool) : Bool :=
  s.ctxs.any fun x => x.1 != k && (match x.2.exec with
    | some e => f x.1 e
    | none => false)

/-- An execution of a higher priority has preempted execution `e` of context `k` on one of the engines `l` (R151). -/
def State.execPreempted (s : State) (k : Nat) (e : Exec) (l : List Nat) : Bool :=
  s.anyOther k fun j f => decide (s.execPrio k e < s.execPrio j f) && (s.execRuns j f).any l.contains

/-- The engines' clocks of R171: an engine that starts to run, and one that has completed a run of context `k`. -/
def State.engStart (s : State) (k : Nat) (l : List Nat) : State :=
  l.foldl (fun s g =>
    if h : g < 8 then
      if s.anyOther k fun j f => (s.execRuns j f).contains g then s else { s with engAt := vset s.engAt ⟨g, h⟩ (some s.now) }
    else s) s
def State.engLeave (s : State) (k : Nat) (l : List Nat) : State :=
  l.foldl (fun s g =>
    if h : g < 8 then
      { s with engAt := vset s.engAt ⟨g, h⟩ (if s.anyOther k fun j f => (s.execRuns j f).contains g then some s.now else none) }
    else s) s

/-- The sample that binding word `w` names, if the port holds the result of the trigger that held at tick `hold`, slot 1
being held 80 ticks later, and it is not LATE (R119, R120, R156). -/
def State.ctxSample (s : State) (w hold : Nat) : Option W32 :=
  let g := bits w 6 4
  let i := 4 * bits w 3 3 + bits w 1 0
  if h : g < 8 ∧ i < 8 then
    ((vget (vget s.adf ⟨g, h.1⟩).ports ⟨i, h.2⟩).find? fun r =>
      r.2 == hold + 80 * bits w 3 3 && !r.1.toNat.testBit 27).map (·.1)
  else none

/-- Every expected sample of an execution is in its port, and the angle of its trigger tick is there (R156, R221). -/
def State.ctxReady (s : State) (k : Nat) (e : Exec) : Bool :=
  let rd := s.execRd e
  e.taken && (predictedBinds rd k (chainOf rd k)).all fun b =>
    if bindKind (bindWord rd k b) = 1 then
      (match e.holds.find? fun x => x.1 == b with
        | some (_, h) => (s.ctxSample (bindWord rd k b) h).isSome
        | none => false)
    else (s.ctxGrid k).isNone || decide (e.trig + 4 ≤ s.now)

/-- The working set of the execution's priority is free on its engines (R152): an execution holds its set from its start to
its commit or its end, with the configuration that it runs on. -/
def State.ctxSetFree (s : State) (k : Nat) (e : Exec) : Bool :=
  !s.anyOther k fun j f =>
    f.st != .waiting && s.execPrio j f == s.execPrio k e && (s.execEngines j f).any (s.execEngines k e).contains

/-- Whether an execution that waits could start now: a provisional run at its prediction phase, another one when its
samples are in. -/
def State.ctxStartable (s : State) (k : Nat) (e : Exec) : Bool :=
  e.st == .waiting && (if s.execCfg k e 28 && !e.redo then true else s.ctxReady k e) && s.ctxSetFree k e &&
    (s.execEngines k e).all fun g => !s.bitOn CIR.pg CIR.ENGSTAT_FAILED g

/-- Whether an execution waits for nothing but its engine: to start, or to be checked with its samples in. -/
def State.ctxWaits (s : State) (k : Nat) (e : Exec) : Bool :=
  s.ctxStartable k e || (e.st == .provDone && s.ctxReady k e)

/-- The execution is the next of its engines (R151): none of higher priority runs there, and of those that wait for nothing
but the engine none comes before it by priority, then by trigger tick, then by number. -/
def State.ctxFirst (s : State) (k : Nat) (e : Exec) : Bool :=
  let l := s.execEngines k e
  !s.execPreempted k e l && !s.anyOther k fun j f =>
    let p := s.execPrio j f
    let q := s.execPrio k e
    (s.execEngines j f).any l.contains && s.ctxWaits j f &&
      decide (q < p ∨ (p = q ∧ (f.trig < e.trig ∨ (f.trig = e.trig ∧ j < k))))

/-! ### Inputs (R153, R159, R177, R186) -/

/-- The record as an execution reads it: its own words, and the tables it shares. -/
def State.ctxWords (s : State) (k : Nat) : List (Nat × W32) :=
  let tabs := ((chainOf s.rd k).filter fun g => g.code == 0x12 && g.opt % 2 == 1).map fun g => lutContext s.rd k g
  mapKeep (fun a => (k :: tabs).any fun j => decide (0x30000000 + j * 0x400 ≤ a ∧ a < 0x30000000 + (j + 1) * 0x400)) s.regs

/-- A binding that is not a sample or an angle, as read at the start; `rd` is the record as the execution reads it. -/
def State.ctxInput (s : State) (rd : Nat → W32) (k dt b : Nat) : F32 :=
  let w := bindWord rd k b
  let sel := bindSel w
  match bindKind w with
  | 3 => if sel % 4 < 3 then s.posSpeed (sel % 4) else 0
  | 4 => s.rd (fldAddr (CTX.pg k) (CTX.STATE.ix (56 + sel % 8)))
  | 5 => if sel % 4 < 3 then s.msvWord (sel % 4) (bits w 7 4) else 0
  | 6 => s.rdMem (0x20000000 + sel % 2 ^ 23)
  | 10 => fsec dt
  | _ => 0

/-- The predicted code of a port for tick `t` from its last two results (R159); none where the newest is not VALID. -/
def State.ctxPredict (s : State) (k b t : Nat) : Option Int :=
  let w := bindWord s.rd k b
  if bindKind w = 2 then
    let n := bindSel w % 4
    if h : n < 3 then some (s.posAngle ⟨n, h⟩ t) else some 0
  else
    let g := bits w 6 4
    let i := 4 * bits w 3 3 + bits w 1 0
    if h : g < 8 ∧ i < 8 then
      match vget (vget s.adf ⟨g, h.1⟩).ports ⟨i, h.2⟩ with
      | (x1, t1) :: rest =>
        if isValid x1 then
          let v1 := signed 16 x1.toNat
          match rest with
          | (x0, t0) :: _ =>
            if isValid x0 ∧ t0 < t1 then
              some (clampInt (-32768) 32767 (v1 + roundDiv ((v1 - signed 16 x0.toNat) * ((t : Int) - t1)) (t1 - t0)))
            else some v1
          | [] => some v1
        else none
      | [] => none
    else none

/-- A code as the register value: a sample as an integer, an angle in turns. -/
def codeValue (kind : Nat) (c : Int) : F32 := if kind = 2 then frat c 65536 else fint c

/-- The SRAM words that the LOAD stages of a chain read (R177). -/
def sramLoads (rd : Nat → W32) (k : Nat) (chain : List Stage) : List Nat :=
  (((chain.filter fun g => g.code == 1).flatMap fun g => (List.range g.n).map fun i => bindWord rd k (g.src + i)).filter
    fun w => bindKind w == 6).map fun w => 0x20000000 + bindSel w % 2 ^ 23

/-- The execution takes its working set and reads what R153 says, SRAM words as requester 7 (R177); without a scheduled
trigger its angles are those of this tick (R221). -/
def State.ctxBegin (s : State) (k : Nat) (st : ExecSt) : State :=
  match (s.ctxH k).exec with
  | some e =>
    let rd := s.execRd e
    let words := if e.words.isEmpty then s.ctxWords k else e.words
    let ins := (List.range 16).map fun b => s.ctxInput rd k e.dt b
    let angs := if (s.ctxGrid k).isNone then s.ctxAngles rd k s.now else e.angs
    let s := (s.engStart k (s.execEngines k e)).execSet k fun e => { e with st := st, words := words, inputs := ins, angs := angs }
    (sramLoads rd k (chainOf rd k)).foldl (fun s a => s.granted 7 a) s
  | none => s

/-- Before a LOOP commit changes its record, a triggered execution that waits keeps the values of its trigger (R166). -/
def State.ctxFreeze (s : State) (k : Nat) : State :=
  s.execSet k fun e => if e.taken ∧ e.st = .waiting ∧ e.trig < s.now then { e with words := s.ctxWords k } else e

/-- The actual code of a predicted binding, and whether it is VALID. -/
def State.ctxActual (s : State) (k : Nat) (e : Exec) (b : Nat) : Int × Bool :=
  if bindKind (bindWord e.rd k b) = 2 then
    match e.angs.find? fun x => x.1 == b with
    | some (_, c) => (c, true)
    | none => (0, true)
  else
    match (e.holds.find? fun x => x.1 == b).bind fun x => s.ctxSample (bindWord e.rd k b) x.2 with
    | some w => (signed 16 w.toNat, isValid w)
    | none => (0, false)

/-- A STRICT stage reads a result that is not VALID (R186). -/
def State.ctxStrictBad (s : State) (k : Nat) (e : Exec) : Bool :=
  (chainOf e.rd k).any fun g => g.code == 1 && g.opt % 2 == 1 && (List.range g.n).any fun i =>
    bindKind (bindWord e.rd k (g.src + i)) == 1 && !(s.ctxActual k e (g.src + i)).2

/-- The inputs of the final run: the actual samples, and the rest as read at the start. -/
def State.ctxInputs (s : State) (k : Nat) (e : Exec) : List Dual :=
  (List.range 16).map fun b =>
    let kind := bindKind (bindWord e.rd k b)
    if kind = 1 ∨ kind = 2 then .const (codeValue kind (s.ctxActual k e b).1) else .const (e.inputs.getD b 0)

/-- A run on the actual samples from the first stage (R159, R166). -/
def State.ctxFull (s : State) (k : Nat) (e : Exec) : Run :=
  let chain := chainOf e.rd k
  runChain e.rd k (fsec e.dt) (s.ctxInputs k e) none chain 0 chain.length (runStart e.rd k)

/-! ### Updraft (R159 to R166) -/

/-- An engine met an uncorrectable error in the record: the execution stops, and its period is late (R148). -/
def State.ctxEcc (s : State) (k : Nat) : State :=
  (s.execSet k fun e => { e with st := .complete, spoilt := true, class_ := 3 }).ctxFault k 0x405

/-- UPDRAFT_PREDICT: the prediction phase of context `x.1`, PLEAD ticks before a scheduled trigger that it will take. Without
a VALID newest result, or before its configuration took effect, the period runs without speculation. `x.2` tells that a
record word that the engine reads as it starts holds an uncorrectable error (R148). -/
def execUpdraftPredict (dt : Nat) (x : Fin 256 × Bool) (s : State) : Host.Outcome State Fault Refusal :=
  let s := s.advance dt
  let k := x.1
  let p := CTX.pg k
  let c := s.ctxH k
  let t := s.now + s.get p CTX.TIME_PLEAD
  let binds := predictedBinds s.rd k (chainOf s.rd k)
  let preds := binds.map fun b => (b, s.ctxPredict k b t)
  if s.on p CTX.CFG_EN ∧ s.on p CTX.CFG_UPD ∧ s.ctxWillTake k t ∧
      c.exec.all (fun e => !e.taken && decide (e.trig < s.now)) ∧ c.enAt ≤ s.now ∧ preds.all (fun x => x.2.isSome) then
    let e := { newExec t false false with
      preds := preds.map fun x => (x.1, x.2.getD 0)
      dt := match c.lastTrig with
        | some t0 => t - t0
        | none => 0 }
    let s := s.ctxSet k fun c => { c with exec := some e }
    .next (if s.ctxStartable k e ∧ s.ctxFirst k e then (if x.2 then s.ctxEcc k else s.ctxBegin k .prov) else s)
  else .next s

/-- The inputs of the provisional run, with the deviations of the actual samples (R162). -/
def State.ctxProvInputs (s : State) (k : Nat) (e : Exec) : List Dual :=
  (List.range 16).map fun b =>
    let kind := bindKind (bindWord e.rd k b)
    if kind = 1 ∨ kind = 2 then
      let p := ((e.preds.find? fun x => x.1 == b).map (·.2)).getD 0
      let a := (s.ctxActual k e b).1
      let d := if kind = 2 then (a - p + 32768) % 65536 - 32768 else a - p
      ⟨codeValue kind p, codeValue kind d⟩
    else .const (e.inputs.getD b 0)

/-- A predicted binding whose actual value lies outside its band (R162, check 1). -/
def State.ctxBanded (s : State) (k : Nat) (e : Exec) (b : Nat) : Bool :=
  let kind := bindKind (bindWord e.rd k b)
  if kind = 1 ∨ kind = 2 then
    let p := ((e.preds.find? fun x => x.1 == b).map (·.2)).getD 0
    let (a, ok) := s.ctxActual k e b
    let band := recWord e.rd k 0x00C
    if kind = 2 then
      let d := ((a - p) % 65536).toNat
      decide (band / 65536 < min d (65536 - d))
    else !ok || decide (band % 65536 < (a - p).natAbs)
  else false

/-- A binary32 value moved by `n` units in the last place. -/
def ulpMove (x : F32) (n : Int) : F32 :=
  let u := x.toNat
  let o : Int := (if u < 2 ^ 31 then (u : Int) else (2 ^ 31 : Nat) - (u : Int)) + n
  if 0 ≤ o then BitVec.ofNat 32 o.toNat else BitVec.ofNat 32 ((-o).toNat + 2 ^ 31)

/-- The corrected values of R163: the provisional value where the correction is zero, else a value within 2 ulp of the
recompute, which the spec leaves open within that bound (log 7). -/
def State.correct (s : State) : List Dual → List Dual → List F32 × State
  | p :: ps, a :: as =>
    let (rest, s) := s.correct ps as
    if feq p.d 0 then (p.v :: rest, s)
    else
      let (n, s) := s.freshNat
      (ulpMove a.v ((n % 5 : Nat) - 2) :: rest, s)
  | _, _ => ([], s)

/-- UPDRAFT_CHECK: with all actual samples latched, the checks of R162, then the correction of R163 or the re-execution of
R164 from the first affected stage. -/
def execUpdraftCheck (dt : Nat) (k : Fin 256) (s : State) : Host.Outcome State Fault Refusal :=
  let s := s.advance dt
  match (s.ctxH k).exec with
  | some e =>
    if e.st = .provDone ∧ s.ctxReady k e ∧ s.ctxFirst k e ∧
        (s.execEngines k e).all (fun g => !s.bitOn CIR.pg CIR.ENGSTAT_FAILED g) then
      let chain := chainOf e.rd k
      let n := chain.length
      let h := fsec e.dt
      let inputs := s.ctxInputs k e
      let prov := runChain e.rd k h (s.ctxProvInputs k e)
        (some ⟨(s.ctxH k).regimes, s.ctxBanded k e⟩) chain 0 n (runStart e.rd k)
      let cut := prov.fail.getD n
      let provCut := runChain e.rd k h (s.ctxProvInputs k e) none chain 0 cut (runStart e.rd k)
      let full := runChain e.rd k h inputs none chain 0 cut (runStart e.rd k)
      let (w, s) := s.correct provCut.w full.w
      let (st, s) := s.correct provCut.st full.st
      let r := runChain e.rd k h inputs none chain cut n
        { full with w := w.map .const, st := st.map .const, regimes := provCut.regimes }
      let outs := (storeTargets e.rd k chain).flatMap fun t => (List.range (targetRegs t.1)).map fun j =>
        prov.w.getD (t.2 + j) (.const 0)
      let hit := (outs ++ prov.st.take (chainState chain)).all fun x => feq x.d 0
      let cls := if prov.fail.isSome then 3 else if hit then 1 else 2
      .next ((s.engStart k (s.execEngines k e)).execSet k fun e => { e with
        st := .final, out := some (runOut e.rd k chain r), class_ := cls, spoilt := e.spoilt || s.ctxStrictBad k e })
    else .next s
  | none => .next s

/-! ### Execution (R148, R151, R167) -/

/-- CTX_EXEC_START: an engine begins an execution of context `k`; `ecc` tells that a record word it reads holds an
uncorrectable error (R148). -/
def execCtxExecStart (dt : Nat) (k : Fin 256) (ecc : Bool) (s : State) : Host.Outcome State Fault Refusal :=
  let s := s.advance dt
  match (s.ctxH k).exec with
  | some e =>
    if s.ctxStartable k e ∧ s.ctxFirst k e then
      if ecc then .next (s.ctxEcc k)
      else if s.execCfg k e 28 ∧ ¬ e.redo then .next (s.ctxBegin k .prov)
      else
        let s := s.ctxBegin k .final
        match (s.ctxH k).exec with
        | some e =>
          let out := runOut e.rd k (chainOf e.rd k) (s.ctxFull k e)
          .next (s.execSet k fun e => { e with
            out := some out, class_ := if e.redo then 3 else 0, spoilt := s.ctxStrictBad k e })
        | none => .next s
    else .next s
  | none => .next s

/-- A fault of the Cirrus comparator (R320, R322): latched, fault 0xA05. -/
def State.cirRail (s : State) : State :=
  ((s.putBit LKS.pg LKS.STSTAT_RAIL 3 true).evt LKS.pg LKS.EVT_RAIL).raise 0xA05 5 0

/-- CTX_EXEC_COMPLETE: an engine completes its run, the second engine of a pair if `second`, unless a higher priority has
preempted it there (R151); the synchroniser passes the completion two ticks later (R13). `differ` tells that the
commit buffers of a pair differ (R167), and `rail` that their comparator answers an invalid code, which withholds the
completion (R322). -/
def execCtxExecComplete (dt : Nat) (k : Fin 256) (second differ rail : Bool) (s : State) :
    Host.Outcome State Fault Refusal :=
  let s := s.advance dt
  match (s.ctxH k).exec with
  | some e =>
    let pair := s.execCfg k e 27
    let own := if second then (s.execEngines k e).drop 1 else (s.execEngines k e).take 1
    if ((s.execEngines k e).any fun g => s.bitOn CIR.pg CIR.ENGSTAT_FAILED g) || s.execPreempted k e own then .next s
    else if rail && pair && e.st == .final then .next s.cirRail else
    let d1 := e.done1 || !second
    let d2 := e.done2 || second || !pair
    let s := if e.st = .prov ∨ e.st = .final then s.engLeave k own else s
    match e.st with
    | .prov =>
      .next (s.execSet k fun e =>
        if d1 && d2 then { e with st := .provDone, done1 := false, done2 := false } else { e with done1 := d1, done2 := d2 })
    | .final =>
      .next (s.execSet k fun e => { e with
        st := if d1 && d2 then .complete else .final, done1 := d1, done2 := d2, doneAt := s.now
        differ := e.differ || (differ && pair) })
    | _ => .next s
  | none => .next s

/-! ### Commit (R154, R155, R165, R168, R205) -/

/-- A value times `k`, rounded to the nearest integer with ties to even. -/
def roundEven (x : F32) (k : Nat) : Int :=
  match fval x with
  | .fin a n d => let q := rne (n * k) d; if a then -(q : Int) else q
  | _ => 0

/-- A STORE to the compare triplet of a CPW timer (R205), whose users then have a fresh value. -/
def State.cpwStore (s : State) (n : Fin 8) (c : Nat × Nat × Nat) : State := { s with cpwCmp := vset s.cpwCmp n c }

/-- A STORE of the phase shift of DCDC (R205). -/
def State.phiStore (s : State) (v : Nat) : State := { s with dcd := { s.dcd with phiIn := v, fresh := true } }

/-- One target of a STORE receives its value in the commit tick (R205). -/
def State.storeTo (s : State) (bind reg : Nat) (w : List W32) : State :=
  let v (j : Nat) := w.getD (reg + j) 0
  let fine (j : Nat) := (clampInt 0 (2 ^ 31 - 1) (roundEven (v j) 128)).toNat
  let sel := bindSel bind
  match bindKind bind with
  | 4 => s.mboxWrite (bits sel 15 8) (sel % 8) (v 0)
  | 6 => (s.granted 7 (0x20000000 + sel % 2 ^ 23)).wrMem (0x20000000 + sel % 2 ^ 23) (v 0)
  | 7 => if h : sel % 8 < 6 then s.tpwStore ⟨sel % 8, h⟩ (fine 0) (fine 1) (fine 2) else s
  | 8 =>
    let n : Fin 8 := ⟨sel % 8, Nat.mod_lt _ (by decide)⟩
    let s := s.cpwStore n (fine 0, fine 1, fine 2)
    let s := if s.get DCD.pg DCD.CFG_TIM0 = n.1 then s.phiStore (fine 0) else s
    let s := if s.get OBC.pg OBC.CFG_TPFC = n.1 then s.obcSet fun o => { o with freshP := true } else s
    if s.get OBC.pg OBC.CFG_TDP = n.1 then s.obcSet fun o => { o with freshD := true } else s
  | 9 =>
    let tick (j : Nat) := unsigned 32 (roundEven (v j) 1)
    if h : sel % 8 < 6 then s.actStore ⟨sel % 8, h⟩ (tick 0) (tick 1) (tick 2) else s
  | _ => s

/-- A slack value reaches the meters of the engines `l` on which the execution ran (R14, R174). -/
def State.ctxSlack (s : State) (k : Nat) (l : List Nat) (v : Int) : State :=
  let s := s.puts (CTX.pg k) CTX.RUN_SLACK v
  l.foldl (fun s e =>
    let s := if v < s.gets CIR.pg (CIR.ENG_MINSLACK.ix e) then s.puts CIR.pg (CIR.ENG_MINSLACK.ix e) v else s
    if h : e < 8 then { s with zslack := vset s.zslack ⟨e, h⟩ (min v (vget s.zslack ⟨e, h⟩)) } else s) s

/-- The Updraft counter of the class of an execution (R165). -/
def State.ctxClass (s : State) (k : Nat) (e : Exec) : State :=
  if s.execCfg k e 28 then
    s.incWrap (CTX.pg k) (match e.class_ with
      | 1 => CTX.UPD_HIT
      | 2 => CTX.UPD_CORR
      | _ => CTX.UPD_REDO)
  else s

/-- An execution is late (R155): nothing is written, and the counts and the slack meter follow. -/
def State.ctxLate (s : State) (k : Nat) (e : Exec) : State :=
  let p := CTX.pg k
  let l := s.execEngines k e
  let s := (s.ctxClass k e).ctxSet k fun c => { c with exec := none, mis := c.mis.map fun n => n + 1 }
  let old := s.get p CTX.RUN_LATE_RUN
  let s := ((s.incWrap p CTX.LATE).incSat p CTX.RUN_LATE_RUN).ctxSlack k l (-1) |>.evt CIR.pg CIR.EVT_LATE
  let n := s.get p CTX.RUN_LATE_RUN
  if n ≠ old ∧ n = s.get p CTX.CFG_LATE_MAX then s.ctxFault k 0x401 else s

/-- A pair mismatch (R168). -/
def State.ctxMismatch (s : State) (k : Nat) : State :=
  let again := match (s.ctxH k).mis with
    | some n => decide (n ≤ 16)
    | none => false
  let s := ((s.incSat CIR.pg CIR.PAIRMIS_COUNT).put CIR.pg CIR.PAIRMIS_LAST_CTX k).evt CIR.pg CIR.EVT_PAIR_MIS
  let s := (s.ctxLast k 0x402).note 0x402 1 (s.ctxMachs k) k
  let s := if again then s.ctxFault k 0x403 else s
  s.ctxSet k fun c => { c with mis := some 0 }

/-- The COMPARE stages of a committed execution: fault 0x408 once, until the count has returned to 0 (R204). -/
def State.ctxCompares (s : State) (k : Nat) (e : Exec) (o : ExecOut) : State :=
  (chainOf e.rd k).zipIdx.foldl (fun s x =>
    let (g, i) := x
    if g.code = 0x15 then
      let c := o.st.getD g.sb 0
      let trip := stageCoef e.rd k g 1
      let raised := (s.ctxH k).cmpRaised.testBit i
      if feq c 0 then s.ctxSet k fun h => { h with cmpRaised := setBits h.cmpRaised i i 0 }
      else if flt 0 trip ∧ fle trip c ∧ ¬ raised then
        (s.ctxSet k fun h => { h with cmpRaised := setBits h.cmpRaised i i 1 }).ctxFault k 0x408
      else s
    else s) s

/-- The complete result of an execution is applied (R154). -/
def State.ctxApply (s : State) (k : Nat) (e : Exec) (o : ExecOut) : State :=
  let p := CTX.pg k
  let s := o.st.zipIdx.foldl (fun s x => s.setWord p (CTX.STATE.ix x.2) x.1) s
  let s := (s.ctxClass k e).incWrap p CTX.EXEC
  let s := (s.put p CTX.RUN_LATE_RUN 0).ctxSlack k (s.execEngines k e) ((s.now : Int) - (e.doneAt + 2 : Nat))
  let s := s.ctxSet k fun c => { c with
    exec := none, commitAt := some s.now, mis := c.mis.map fun n => n + 1
    lastTrig := if e.old then c.lastTrig else some e.trig, regimes := if e.old then c.regimes else some o.regimes }
  let s := (storeTargets e.rd k (chainOf e.rd k)).foldl (fun s t => s.storeTo t.1 t.2 o.w) s
  s.ctxCompares k e o

/-- CTX_COMMIT: the commit tick of an execution, its trigger tick plus L. A completion counts when its synchroniser has
passed it, two ticks after it (R13). -/
def execCtxCommit (dt : Nat) (k : Fin 256) (s : State) : Host.Outcome State Fault Refusal :=
  let s := s.advance dt
  match (s.ctxH k).exec with
  | some e =>
    if e.taken ∧ s.now = e.trig + s.execLatency k e then
      match e.out with
      | some o =>
        if e.st ≠ .complete ∨ s.now < e.doneAt + 2 ∨ e.spoilt then .next (s.ctxLate k e)
        else if e.differ then .next ((s.ctxLate k e).ctxMismatch k)
        else if o.bad then .next ((s.ctxLate k e).ctxFault k 0x407)
        else .next (s.ctxApply k e o)
      | none => .next (s.ctxLate k e)
    else .next s
  | none => .next s

/-- A LOOP commit reached context `k`, which was enabled before or not (R53, R150, R166): a triggered execution goes on with
its old values, an execution of this tick begins anew, and one that only predicts is discarded. An enable starts the counts
of the context, but not the COMPARE faults, which wait for their counts (R204). -/
def State.ctxCommitted (s : State) (k : Nat) (wasOn : Bool) : State :=
  let on := s.on (CTX.pg k) CTX.CFG_EN
  let goes (e : Exec) := e.taken && decide (e.trig < s.now)
  let s := match (s.ctxH k).exec with
    | some e => if goes e then s else s.engLeave k (s.execRuns k e)
    | none => s
  let s := s.ctxSet k fun c => { c with
    enAt := s.now, exec := match c.exec with
      | some e => if goes e then some { e with old := e.old || !on }
                  else if e.taken ∧ on then some { newExec e.trig true (s.on (CTX.pg k) CTX.CFG_UPD) with
                    angs := s.ctxAngles s.rd k e.trig, holds := s.ctxHolds k e.trig, dt := e.dt } else none
      | none => none }
  if on ∧ ¬ wasOn then
    s.ctxSet k fun c => { CtxH.idle with
      enAt := c.enAt, exec := c.exec, trigAt := c.trigAt, commitAt := c.commitAt, mis := c.mis, cmpRaised := c.cmpRaised }
  else s

/-! ### Engine faults and commands (R171, R174) -/

/-- The contexts that engine `e` carries. -/
def State.engContexts (s : State) (e : Nat) : List Nat :=
  (List.range 256).filter fun k => s.on (CTX.pg k) CTX.CFG_EN && (s.ctxEngines k).contains e

/-- The reaction of one context to a fault of its engine, without an entry of its own. -/
def State.engReact (s : State) (k : Nat) : State :=
  let react := s.get (CTX.pg k) CTX.CFG_REACT + 1
  let m := s.ctxMachs k
  let s := s.ctxLatch k 0x404
  if react = 1 then s
  else if m = 0 then s.ctxFunctions k 0x404
  else
    match react with
    | 2 => s.machines m State.applyFr2
    | 3 => s.machines m State.applyFr3
    | _ => s.machines m State.applyFr4

/-- Engine `e` has run executions for 65,536 ticks without completing one (R171). DESIGN CHOICE (log 89): its clock starts
with the first of them and goes on over an execution that is abandoned as late, whose stage may still hang. -/
def State.engHangs (s : State) (e : Fin 8) : Bool :=
  match vget s.engAt e with
  | some t => decide (t + 65536 ≤ s.now)
  | none => false

/-- ENGINE_STALL: engine `e` has failed; its later executions are late. -/
def execEngineStall (dt : Nat) (e : Fin 8) (s : State) : Host.Outcome State Fault Refusal :=
  let s := s.advance dt
  let p := CIR.pg
  if s.bitOn p CIR.ENGSTAT_FAILED e ∨ ¬ s.engHangs e then .next s
  else
    let ks := s.engContexts e
    let top := ks.foldl (fun m k => max m (s.get (CTX.pg k) CTX.CFG_REACT + 1)) 1
    let machs := ks.foldl (fun m k => m ||| s.ctxMachs k) 0
    let s := (s.putBit p CIR.ENGSTAT_FAILED e true).evt p CIR.EVT_ENG_STALL
    let s := s.abortTransition.logEntry 0x404 top machs (0x80000000 + e.1) s.now
    let s := ks.foldl State.engReact s
    .next (if 2 ≤ top then s.stopCommits else s)

/-- The operations of `CIR_CMD` on context `k`. -/
def State.cirCmd (s : State) (op k : Nat) : State :=
  let p := CIR.pg
  let x := CIR.CMDSTS_LAST_STS
  match op with
  | 1 => s.command p x true fun s => (List.range 7).foldl (fun s i => s.setWord (CTX.pg k) ⟨0x040 + 4 * i, 31, 0, 0⟩ 0) s
  | 2 => s.command p x (s.on (CTX.pg k) CTX.CFG_EN && s.get (CTX.pg k) CTX.TRIG_SRC == 7) fun s => s.ctxTrigger k
  | _ => s.status p x .unknown

/-- A command of the CIR page. -/
def State.cirOp (s : State) (op k : Nat) : State := s.blockCmd CIR.pg CIR.CMDSTS_LAST_STS fun s => s.cirCmd op k

/-- CIR_CLR_CNT. -/
def execCirClrCnt (dt : Nat) (_req : Req) (k : Fin 256) (s : State) : Host.Outcome State Fault Refusal :=
  .next ((s.advance dt).cirOp 1 k)

/-- CIR_TRIG. -/
def execCirTrig (dt : Nat) (_req : Req) (k : Fin 256) (s : State) : Host.Outcome State Fault Refusal :=
  .next ((s.advance dt).cirOp 2 k)

end Sys2Proof.Machine
end

