-- ==== Sys2Proof/Machine/Sha.lean ====
section
/-! DEFINITION. SHA-256 (R365, R366, R468, R470), and the bitwise check values of R363 and R403 to R405. -/

namespace Sys2Proof.Machine
open Sys2Proof

/-- `n` bytes of a number, the least significant first. -/
def leBytes : Nat → Nat → List Nat
  | 0, _ => []
  | n + 1, v => v % 256 :: leBytes n (v / 256)

/-- `n` bytes of a number, the most significant first. -/
def beBytes (n v : Nat) : List Nat := (leBytes n v).reverse

/-! ### SHA-256 -/

/-- The greatest number whose `k`-th power is at most `n`, among those that agree with `r` above bit `b`. -/
def rootBelow (k n : Nat) : Nat → Nat → Nat
  | 0, r => r
  | b + 1, r => rootBelow k n b (if (r + 2 ^ b) ^ k ≤ n then r + 2 ^ b else r)

/-- The first 32 bits of the fraction of the `k`-th root of `p`: SHA-256 takes its initial value from square roots and its
round words from cube roots. -/
def rootWord (k p : Nat) : Nat := rootBelow k (p * 2 ^ (32 * k)) 37 0 % 2 ^ 32

/-- The first 64 primes: those up to 311. -/
def smallPrimes : List Nat :=
  (List.range 312).filter fun n => decide (2 ≤ n) && (List.range 18).all fun d => decide (d < 2 ∨ n ≤ d ∨ n % d ≠ 0)

/-- The chaining value before the first block, one 32-bit word per element. -/
def hashStart : List Nat := (smallPrimes.take 8).map (rootWord 2)

/-- A 32-bit word turned right by `n` places. -/
def turnRight (x n : Nat) : Nat := x / 2 ^ n + x % 2 ^ n * 2 ^ (32 - n)

/-- The exclusive or of three turns of a word. -/
def turns (x i j k : Nat) : Nat := turnRight x i ^^^ turnRight x j ^^^ turnRight x k

/-- The next word of the message schedule from the sixteen before it, the oldest first. -/
def nextWord (w : List Nat) : Nat :=
  let low := w.getD 1 0
  let high := w.getD 14 0
  (w.headD 0 + w.getD 9 0 + (turnRight low 7 ^^^ turnRight low 18 ^^^ low / 8) +
    (turnRight high 17 ^^^ turnRight high 19 ^^^ high / 2 ^ 10)) % 2 ^ 32

/-- One round with round word `k`: the state is the eight working words, and `w` the sixteen schedule words from this round
on. -/
def hashRound (st : List Nat × List Nat) (k : Nat) : List Nat × List Nat :=
  let (v, w) := st
  let x (i : Nat) := v.getD i 0
  let mix := x 7 + turns (x 4) 6 11 25 + ((x 4 &&& x 5) ||| ((2 ^ 32 - 1 - x 4) &&& x 6)) + k + w.headD 0
  let most := (x 0 &&& (x 1 ||| x 2)) ||| (x 1 &&& x 2)
  ((mix + turns (x 0) 2 13 22 + most) % 2 ^ 32 :: v.take 3 ++ (x 3 + mix) % 2 ^ 32 :: (v.drop 4).take 3, w.tail ++ [nextWord w])

/-- `n` big-endian words of a byte list. -/
def beWords : Nat → List Nat → List Nat
  | 0, _ => []
  | n + 1, bs => (bs.take 4).foldl (fun acc b => acc * 256 + b) 0 :: beWords n (bs.drop 4)

/-- The chaining value after one more block of 64 bytes. -/
def hashBlock (ks v block : List Nat) : List Nat :=
  List.zipWith (fun a b => (a + b) % 2 ^ 32) v (ks.foldl hashRound (v, beWords 16 block)).1

/-- The chaining value after `n` blocks. -/
def hashBlocks (ks : List Nat) : Nat → List Nat → List Nat → List Nat
  | 0, v, _ => v
  | n + 1, v, bs => hashBlocks ks n (hashBlock ks v (bs.take 64)) (bs.drop 64)

/-- SHA-256 of a byte list, as a 256-bit number whose most significant byte is the first of the digest. -/
def sha256 (msg : List Nat) : Nat :=
  let blocks := (msg.length + 72) / 64
  let padded := msg ++ 128 :: List.replicate (64 * blocks - msg.length - 9) 0 ++ beBytes 8 (8 * msg.length)
  (hashBlocks (smallPrimes.map (rootWord 3)) blocks hashStart padded).foldl (fun acc x => acc * 2 ^ 32 + x) 0

/-! ### Check values -/

/-- The low `w` bits of `v` in reverse order. -/
def reverseBits : Nat → Nat → Nat
  | 0, _ => 0
  | w + 1, v => (v % 2) * 2 ^ w + reverseBits w (v / 2)

/-- `n` shifts of a check state of width `w`, most significant bit first. -/
def crcShift (w poly : Nat) : Nat → Nat → Nat
  | 0, st => st
  | n + 1, st =>
    let t := st * 2 % 2 ^ w
    crcShift w poly n (if st.testBit (w - 1) then t ^^^ poly else t)

/-- Feed one byte, reversed first if `refin` (R404). -/
def crcByte (w poly : Nat) (refin : Bool) (st b : Nat) : Nat :=
  crcShift w poly 8 (st ^^^ ((if refin then reverseBits 8 b else b) * 2 ^ (w - 8)))

/-- Feed a list of bytes. -/
def crcFeed (w poly : Nat) (refin : Bool) (st : Nat) (bs : List Nat) : Nat := bs.foldl (crcByte w poly refin) st

/-- CRC-32C with the reflections and the final XOR of R363, from an initial value given as it stands unreflected. -/
def crc32c (init : Nat) (bs : List Nat) : Nat :=
  reverseBits 32 (crcFeed 32 0x1EDC6F41 true init bs) ^^^ 0xFFFFFFFF

end Sys2Proof.Machine
end

