-- ==== Sys2Proof/Machine/Dma.lean ====
section
/-! DEFINITION. DMA channels in PERIPH mode, the DMA commands and the read pointers (R397 to R402, R409). -/

namespace Sys2Proof.Machine
open Sys2Proof

/-- Change the hidden state of channel `ch`. -/
def State.dmaSet (s : State) (ch : Fin 16) (f : DmaCh → DmaCh) : State := { s with dma := vset s.dma ch (f (vget s.dma ch)) }

/-- The requester of channel `ch` at the arbiter (R397). -/
def dmaPort (ch : Nat) : Nat := 3 + ch / 4

/-- Requester `req` owns channel `ch` (R401). -/
def State.dmaOwner (s : State) (ch req : Nat) : Bool :=
  s.on DMA.pg (DMA.OWN_LOCKED.ix ch) && s.get DMA.pg (DMA.OWN_OWNER_ID.ix ch) == req

/-- A write that only the owner of channel `ch` may make; any other is counted (R401). -/
def State.dmaOwned (s : State) (ch req : Nat) (f : State → State) : State :=
  if s.dmaOwner ch req then f s else s.refuse DMA.pg

/-- Bytes of a record, and of the buffer (R398, R399). -/
def State.dmaRec (s : State) (ch : Nat) : Nat := 2 ^ s.get DMA.pg (DMA.CH_CFG_RECSZ.ix ch)

/-- Bytes of the buffer of channel `ch` (R399). -/
def State.dmaSize (s : State) (ch : Nat) : Nat := 2 ^ s.get DMA.pg (DMA.CH_CFG_SIZE.ix ch)

/-- A bus error on an access of channel `ch`: the channel stops, and stays stopped until its configuration is committed
again (R402). -/
def State.dmaError (s : State) (ch : Fin 16) : State :=
  let p := DMA.pg
  let s := s.dmaSet ch fun c => { c with cur := none, left := 0 }
  let s := ((s.flag p (DMA.CH_CHST_ERR.ix ch) true).flag p (DMA.CH_CHST_BUSY.ix ch) false).putBit p DMA.STAT_ACTIVE ch false
  (s.evt p DMA.EVT_ERR).note 0xD08 1 0 0

/-- The source page counts a request that is not taken (R398); an EVR trigger has no such count. -/
def State.dmaMiss (s : State) (src : Page) : State :=
  match src.blk with
  | .adf => s.incSat src ADF.CNT_DMA_MISS
  | .adh => s.incSat src ADH.CNT_DMA_MISS
  | _ => s

/-- DMA_PERIPH_REQUEST: the oldest request at channel `ch` is taken or refused whole (R398). -/
def execDmaPeriphRequest (dt : Nat) (ch : Fin 16) (s : State) : Host.Outcome State Fault Refusal :=
  let s := s.advance dt
  let p := DMA.pg
  match s.dmaReq.find? fun r => r.ch == ch.1 with
  | none => .next s
  | some r =>
    let s := { s with dmaReq := s.dmaReq.erase r }
    let room := s.get p (DMA.CH_FILL_FILL.ix ch) + s.dmaRec ch ≤ s.dmaSize ch
    if s.dmaActive ch ∧ s.get p (DMA.CH_CFG_MODE.ix ch) = 0 ∧ (vget s.dma ch).cur = none ∧
        (¬ s.on p (DMA.CH_CFG_OVR_MODE.ix ch) ∨ room) then
      .next ((s.dmaSet ch fun c => { c with cur := some r.words }).flag p (DMA.CH_CHST_BUSY.ix ch) true)
    else .next ((s.incSat p (DMA.CH_CNT_MISS.ix ch)).dmaMiss r.src)

/-- Write `n` words from address `a` on; words beyond the source's data are free. -/
def State.recWords (s : State) (a : Nat) : Nat → List W32 → State
  | 0, _ => s
  | n + 1, w :: ws => (s.wrMem a w).recWords (a + 4) n ws
  | n + 1, [] =>
    let (w, s) := s.freshWord
    (s.wrMem a w).recWords (a + 4) n []

/-- Write `n` words of a record that a bus error cuts: each of them is written or left as it was. -/
def State.recCut (s : State) (a : Nat) : Nat → List W32 → State
  | 0, _ => s
  | n + 1, ws =>
    let (w, s) := s.freshWord
    let (b, s) := s.freshBit
    let s := if b then s.wrMem a (ws.headD w) else s
    s.recCut (a + 4) n ws.tail

/-- The THRESH flag is set when FILL rises to WM or above (R399). -/
def State.dmaThresh (s : State) (ch : Fin 16) (old new : Nat) : State :=
  let p := DMA.pg
  let wm := max 1 (s.get p (DMA.CH_WM_WM.ix ch))
  if old < wm ∧ wm ≤ new then (s.flag p (DMA.CH_CHST_THRESH.ix ch) true).evt p DMA.EVT_THRESH else s

/-- A whole record is in the buffer: WPTR, FILL and RPTR in one handshake (R399, R400). -/
def State.dmaRecord (s : State) (ch : Fin 16) : State :=
  let p := DMA.pg
  let size := s.dmaSize ch
  let n := s.dmaRec ch
  let fill := s.get p (DMA.CH_FILL_FILL.ix ch)
  let s := s.put p (DMA.CH_WPTR_WPTR.ix ch) ((s.get p (DMA.CH_WPTR_WPTR.ix ch) + n) % size)
  let s := s.put64 p (DMA.CH_REC_LO.ix ch) (s.get64 p (DMA.CH_REC_LO.ix ch) + 1)
  if fill + n ≤ size then (s.put p (DMA.CH_FILL_FILL.ix ch) (fill + n)).dmaThresh ch fill (fill + n)
  else
    let s := s.put p (DMA.CH_RPTR_RPTR.ix ch) ((s.get p (DMA.CH_RPTR_RPTR.ix ch) + n) % size)
    let s := s.dmaSet ch fun c => { c with advAt := s.now + 1 }
    let s := (s.flag p (DMA.CH_CHST_OVR.ix ch) true).incSat p (DMA.CH_CNT_OVR.ix ch)
    (s.evt p DMA.EVT_OVR).note 0xD09 0 0 0

/-- No channel of the same port with a lower number has a record pending (R397). -/
def State.dmaFirst (s : State) (ch : Nat) : Bool :=
  (List.finRange 16).all fun (c : Fin 16) => c.1 / 4 != ch / 4 || ch ≤ c.1 || (vget s.dma c).cur == none

/-- DMA_RECORD_DONE: the last access of the record in progress has ended, or one met a bus error (`err`). -/
def execDmaRecordDone (dt : Nat) (ch : Fin 16) (err : Bool) (s : State) : Host.Outcome State Fault Refusal :=
  let s := s.advance dt
  let p := DMA.pg
  match (vget s.dma ch).cur with
  | none => .next s
  | some ws =>
    if s.dmaFirst ch then
      let a := s.get p (DMA.CH_BASE_BASE.ix ch) + s.get p (DMA.CH_WPTR_WPTR.ix ch)
      let n := s.dmaRec ch / 4
      if err then .next ((s.recCut a n ws).dmaError ch)
      else
        let s := (s.grantedN (dmaPort ch) a n).recWords a n ws
        let s := (s.dmaSet ch fun c => { c with cur := none }).flag p (DMA.CH_CHST_BUSY.ix ch) false
        .next (s.dmaRecord ch)
    else .next s

/-- DMA_BLOCK_DONE: a BLOCK transfer whose words have all been moved ends (R402). -/
def execDmaBlockDone (dt : Nat) (ch : Fin 16) (s : State) : Host.Outcome State Fault Refusal :=
  let s := s.advance dt
  let p := DMA.pg
  if s.on p (DMA.CH_CHST_BUSY.ix ch) ∧ s.get p (DMA.CH_CFG_MODE.ix ch) = 1 ∧ (vget s.dma ch).left = 0 then
    .next (((s.flag p (DMA.CH_CHST_BUSY.ix ch) false).flag p (DMA.CH_CHST_DONE.ix ch) true).evt p DMA.EVT_DONE)
  else .next s

/-! ### Commands (R409) -/

/-- The command of `DMA_CMD`: START needs an enabled, idle BLOCK channel without error, and only the owner starts and stops
a channel (R401). -/
def State.dmaCmd (s : State) (req op : Nat) (ch : Fin 16) : State :=
  let p := DMA.pg
  let x := DMA.CMD_LAST_STS
  match op with
  | 1 => s.dmaOwned ch req fun s =>
    s.command p x (s.on p (DMA.CH_CFG_EN.ix ch) && s.get p (DMA.CH_CFG_MODE.ix ch) == 1 &&
      !s.on p (DMA.CH_CHST_BUSY.ix ch) && !s.on p (DMA.CH_CHST_ERR.ix ch)) fun s => s.dmaBlockStart ch
  | 2 => s.dmaOwned ch req fun s =>
    let blk := s.get p (DMA.CH_CFG_MODE.ix ch) == 1
    let s := s.dmaSet ch fun c => { c with left := 0 }
    let s := if blk then s.flag p (DMA.CH_CHST_BUSY.ix ch) false else s
    (s.putBit p DMA.STAT_ACTIVE ch false).status p x .done
  | 3 => ((s.put p (DMA.CH_CNT_OVR.ix ch) 0).put p (DMA.CH_CNT_MISS.ix ch) 0).status p x .done
  | _ => s.status p x .unknown

/-- A write of `DMA_CMD`; SAFE_HOLD accepts none (R18). -/
def State.dmaOp (s : State) (req op : Nat) (ch : Fin 16) : State :=
  s.blockCmd DMA.pg DMA.CMD_LAST_STS fun s => s.dmaCmd req op ch

/-- DMA_START. -/
def execDmaStart (dt : Nat) (req : Req) (ch : Fin 16) (s : State) : Host.Outcome State Fault Refusal :=
  .next ((s.advance dt).dmaOp req 1 ch)

/-- DMA_STOP. -/
def execDmaStop (dt : Nat) (req : Req) (ch : Fin 16) (s : State) : Host.Outcome State Fault Refusal :=
  .next ((s.advance dt).dmaOp req 2 ch)

/-- DMA_CLR_CNT. -/
def execDmaClrCnt (dt : Nat) (req : Req) (ch : Fin 16) (s : State) : Host.Outcome State Fault Refusal :=
  .next ((s.advance dt).dmaOp req 3 ch)

/-- Whether a new read pointer releases whole records of the filled region of a buffer (R400). -/
def rptrOk (size rec rptr fill new : Nat) : Bool :=
  decide (new < size) && decide ((new + size - rptr) % size ≤ fill) && decide (new % rec = 0)

/-- A write of RPTR by the consumer, bits 17 to 0 of the word: a hardware advance in the same tick prevails (R400). -/
def State.dmaRptr (s : State) (req : Nat) (ch : Fin 16) (val : Nat) : State :=
  let p := DMA.pg
  let val := val % 2 ^ 18
  s.dmaOwned ch req fun s =>
    let size := s.dmaSize ch
    let rptr := s.get p (DMA.CH_RPTR_RPTR.ix ch)
    let fill := s.get p (DMA.CH_FILL_FILL.ix ch)
    if rptrOk size (s.dmaRec ch) rptr fill val ∧ (vget s.dma ch).advAt ≠ s.now + 1 then
      (s.put p (DMA.CH_RPTR_RPTR.ix ch) val).put p (DMA.CH_FILL_FILL.ix ch) (fill - (val + size - rptr) % size)
    else s.refuse p

/-- DMA_RPTR_WRITE. -/
def execDmaRptrWrite (dt : Nat) (req : Req) (ch : Fin 16) (val : W32) (s : State) : Host.Outcome State Fault Refusal :=
  .next ((s.advance dt).dmaRptr req ch val.toNat)

/-- A commit of channel registers (R402, R406, R409): a commit of CFG clears ERR and restarts the channel; a channel that
is enabled from then on begins with an empty buffer and a count of 0. -/
def State.dmaCommitted (s : State) (ch : Fin 16) (wasOn : Bool) : State :=
  let p := DMA.pg
  let isOn := s.on p (DMA.CH_CFG_EN.ix ch)
  let s := s.flag p (DMA.CH_CHST_ERR.ix ch) false
  let s := s.dmaSet ch fun c => { c with left := if isOn then c.left else 0 }
  let s := if isOn && !wasOn then
      (((s.put p (DMA.CH_WPTR_WPTR.ix ch) 0).put p (DMA.CH_RPTR_RPTR.ix ch) 0).put p (DMA.CH_FILL_FILL.ix ch) 0).put64 p
        (DMA.CH_REC_LO.ix ch) 0
    else s
  s.putBit p DMA.STAT_ACTIVE ch isOn

end Sys2Proof.Machine
end

