-- ==== Sys2Proof/Machine/Clf.lean ====
section
/-! DEFINITION. Clepo: ports, node states, discovery, the slot banks, the route table and the receive rings (R425 to R442,
R451, R452). -/

namespace Sys2Proof.Machine
open Sys2Proof

/-! ### Ports and node state (R426, R433) -/

/-- Change the hidden state of Clepo. -/
def State.clfSet (s : State) (f : ClfH → ClfH) : State := { s with clf := f s.clf }

/-- Change the hidden state of port `p`: 0 west, 1 east. -/
def State.portSet (s : State) (p : Fin 2) (f : ClfPort → ClfPort) : State :=
  s.clfSet fun c => { c with ports := vset c.ports p (f (vget c.ports p)) }

/-- The LINK field of a port. -/
def linkFld (p : Fin 2) : Fld := if p = 0 then CLF.LINK_W else CLF.LINK_E

/-- The delay register of a port. -/
def pdFld (p : Fin 2) : Fld := if p = 0 then CLF.PDW_PD else CLF.PDE_PD

/-- The link state of a port: 0 DOWN, 1 TRAIN, 2 UP, 3 DEGRADED. -/
def State.link (s : State) (p : Fin 2) : Nat := s.get CLF.pg (linkFld p)

/-- A port carries frames: it is UP or DEGRADED (log 30). -/
def State.portUp (s : State) (p : Fin 2) : Bool := s.link p == 2 || s.link p == 3

/-- The node state (R433). -/
def State.clfState (s : State) : Nat := s.get CLF.pg CLF.STAT_STATE

/-- The node takes a state, and a change raises the STATE event. -/
def State.clfGo (s : State) (st : Nat) : State :=
  let old := s.clfState
  (s.put CLF.pg CLF.STAT_STATE st).evtIf (old != st) CLF.pg CLF.EVT_STATE

/-- Apply `f`; a change of `CLF_TOPO` raises the TOPO event. -/
def State.withTopo (s : State) (f : State → State) : State :=
  let t := f s
  t.evtIf (t.get CLF.pg CLF.TOPO != s.get CLF.pg CLF.TOPO) CLF.pg CLF.EVT_TOPO

/-- The 64-bit device ID (R478). -/
def State.deviceId (s : State) : Nat := s.get SYS.pg SYS.CAP + s.get SYS.pg HDR.ID * 2 ^ 32

/-- Discovery starts: the root and the ring are found anew, and IDs are kept or given up (R431, R432). A source of fabric
time stays the source until discovery finds another root (log 62). -/
def State.clfDiscover (s : State) (keepId : Bool) : State :=
  let pri := s.get CLF.pg CLF.CFG_ROOT_PRI
  let own := if pri < 15 then some (pri, s.deviceId) else none
  let s := s.clfSet fun c => { c with best := own, ring := false, dup := false, dupSeen := false, idHeld := keepId && c.idHeld }
  s.withTopo fun s => s.flag CLF.pg CLF.TOPO_VALID false

/-- A port is UP: a node in LINK starts discovery (R431, R433). -/
def State.clfPortUp (s : State) : State := if s.clfState = 1 then (s.clfDiscover true).clfGo 2 else s

/-- Every enabled port is DOWN (R433). -/
def State.clfAllDown (s : State) : Bool :=
  [(0 : Fin 2), 1].all fun (p : Fin 2) => !s.bitOn CLF.pg CLF.CFG_PORT_EN p || s.link p == 0

/-- A port goes DOWN (R426): its delay is lost, fault 0xF01 is raised for a port that carried frames, and a node without a
port returns to LINK. -/
def State.portDown (s : State) (p : Fin 2) : State :=
  let up := s.portUp p
  let s := (s.put CLF.pg (linkFld p) 0).put CLF.pg (pdFld p) 0
  let s := s.portSet p fun h => { h with pdreq := none, pdAt := none, delays := [], respDue := false }
  let s := if up then (s.evt CLF.pg CLF.EVT_LINK).note 0xF01 1 0 0 else s
  if s.clfState ≠ 0 ∧ s.clfAllDown then s.clfGo 1 else s

/-- CLF_SIGNAL_DETECT: a signal on both receive lanes of an enabled port that is DOWN. -/
def execClfSignalDetect (dt : Nat) (p : Fin 2) (s : State) : Host.Outcome State Fault Refusal :=
  let s := s.advance dt
  if s.clfState ≠ 0 ∧ s.link p = 0 ∧ s.bitOn CLF.pg CLF.CFG_PORT_EN p then
    .next ((s.put CLF.pg (linkFld p) 1).portSet p fun h => { h with trainAt := s.now })
  else .next s

/-- CLF_TRAIN_DONE: both lanes are locked, aligned and deskewed in time. -/
def execClfTrainDone (dt : Nat) (p : Fin 2) (s : State) : Host.Outcome State Fault Refusal :=
  let s := s.advance dt
  if s.link p = 1 ∧ s.now ≤ (vget s.clf.ports p).trainAt + 40000 then .next (s.put CLF.pg (linkFld p) 2).clfPortUp
  else .next s

/-- CLF_TRAIN_TIMEOUT: 40,000 ticks of TRAIN have passed; one lane has trained, or neither, and the training goes on. -/
def execClfTrainTimeout (dt : Nat) (p : Fin 2) (oneLane : Bool) (s : State) : Host.Outcome State Fault Refusal :=
  let s := s.advance dt
  if s.link p = 1 ∧ (vget s.clf.ports p).trainAt + 40000 ≤ s.now then
    .next (if oneLane then (s.put CLF.pg (linkFld p) 3).clfPortUp else s.portSet p fun h => { h with trainAt := s.now })
  else .next s

/-- CLF_LANE_FAULT: one lane or both lanes of a port lose lock or meet the error limit. -/
def execClfLaneFault (dt : Nat) (p : Fin 2) (both : Bool) (s : State) : Host.Outcome State Fault Refusal :=
  let s := s.advance dt
  if s.portUp p ∧ both then .next (s.portDown p)
  else if s.link p = 2 then .next (((s.put CLF.pg (linkFld p) 3).evt CLF.pg CLF.EVT_LINK).note 0xF02 1 0 0)
  else .next s

/-! ### Commands (R426, R431, R452) -/

/-- The command of `CLF_CMD`. -/
def State.clfCmd (s : State) (op ports : Nat) : State :=
  let pg := CLF.pg
  let x := CLF.CMD_LAST_STS
  match op with
  | 1 => s.command pg x (decide (2 ≤ s.clfState)) fun s =>
    let s := s.clfDiscover false
    if s.clfState = 5 then s.clfGo 2 else s
  | 2 =>
    let sel := [(0 : Fin 2), 1].filter fun (p : Fin 2) => ports.testBit p
    s.command pg x (!sel.isEmpty && sel.all fun (p : Fin 2) => s.link p == 3 && decide ((vget s.clf.ports p).busyTo ≤ s.now))
      fun s => sel.foldl (fun (s : State) (p : Fin 2) => (s.put pg (linkFld p) 1).portSet p fun h => { h with trainAt := s.now }) s
  | 3 => ((s.put pg CLF.CNT0 0).put pg CLF.CNT1 0).status pg x .done
  | _ => s.status pg x .unknown

/-- A write of `CLF_CMD`; SAFE_HOLD accepts none (R18). -/
def State.clfOp (s : State) (op ports : Nat) : State := s.blockCmd CLF.pg CLF.CMD_LAST_STS fun s => s.clfCmd op ports

/-- CLF_RESCAN. -/
def execClfRescan (dt : Nat) (_req : Req) (s : State) : Host.Outcome State Fault Refusal := .next ((s.advance dt).clfOp 1 0)

/-- CLF_RETRAIN. -/
def execClfRetrain (dt : Nat) (_req : Req) (ports : BitVec 2) (s : State) : Host.Outcome State Fault Refusal :=
  .next ((s.advance dt).clfOp 2 ports.toNat)

/-- CLF_CLR_CNT. -/
def execClfClrCnt (dt : Nat) (_req : Req) (s : State) : Host.Outcome State Fault Refusal := .next ((s.advance dt).clfOp 3 0)

/-! ### Slot banks (R438, R439, R441, R442) -/

/-- Word `w` of slot `i` of a bank. -/
def State.slotWord (s : State) (bank i w : Nat) : Nat := (s.rd (pageBase ⟨.bank, bank⟩ + 0x10 * i + 4 * w)).toNat

/-- The active bank. -/
def State.clfBank (s : State) : Nat := s.get CLF.pg CLF.SLOTCTL_ACTIVE

/-- A slot table entry (R438). -/
structure Slot where
  en : Bool
  srck : Nat
  owner : Nat
  stream : Nat
  start : Nat
  len : Nat
  plen : Nat
  txbuf : Nat
deriving DecidableEq, Repr

/-- Slot `i` of a bank. -/
def State.slot (s : State) (bank i : Nat) : Slot :=
  let w0 := s.slotWord bank i 0
  let w2 := s.slotWord bank i 2
  ⟨bit w0 31, bits w0 29 28, bits w0 21 16, bits w0 12 8, s.slotWord bank i 1, bits w2 31 16, bits w2 8 0, s.slotWord bank i 3⟩

/-- The least LEN of a slot of `n` payload bytes (R439). -/
def slotMin (n : Nat) : Nat := ((n + 22) * 64 + 99) / 100 + 40 * 63 + 8

/-- The conditions of R439 on one enabled slot. -/
def slotOk (root sf : Nat) (i : Nat) (x : Slot) : Bool :=
  (if i = 0 then x.srck == 2 && x.start == 0 && x.owner == root else x.srck == 0 || x.srck == 1) &&
    (x.srck == 1) == (x.stream == 31) && decide (x.start + x.len ≤ sf) && decide (slotMin x.plen ≤ x.len) &&
    (x.srck != 0 || (x.txbuf % 4 == 0 && decide (0x20000000 ≤ x.txbuf) && decide (x.txbuf + x.plen ≤ 0x20600000)))

/-- No two of the slots overlap. -/
def slotsApart : List Slot → Bool
  | [] => true
  | x :: xs => (xs.all fun y => decide (x.start + x.len ≤ y.start) || decide (y.start + y.len ≤ x.start)) && slotsApart xs

/-- A bank is valid (R439). -/
def State.bankValid (s : State) (bank : Nat) : Bool :=
  let all := (List.range 255).map fun i => (i, s.slot bank i)
  let used := all.filter fun e => e.2.en
  (s.slot bank 0).en && (used.all fun e => slotOk (s.get CLF.pg CLF.TOPO_ROOT) (s.get CLF.pg CLF.SF) e.1 e.2) &&
    slotsApart (used.map fun e => e.2)

/-- A superframe starts in this tick: n starts at fabric tick n·`CLF_SF`, from the first valid fabric time on (R437). -/
def State.superframeDue (s : State) : Bool :=
  s.clf.held && !s.dev.off && decide (0 ≤ s.fabricTime ∧ s.fabricTime % (s.get CLF.pg CLF.SF : Int) = 0) &&
    s.sfTick != some s.now

/-- The bank that is active in this tick: a swap that falls in it has taken place (R441). -/
def State.bankNow (s : State) : Nat :=
  if s.superframeDue && s.on CLF.pg CLF.SLOTCTL_ARMED &&
      decide ((s.get CLF.pg CLF.SWAPAT : Int) = s.fabricTime / (s.get CLF.pg CLF.SF : Int)) then 1 - s.clfBank
  else s.clfBank

/-- A refused write of the slot tables or of `CLF_SWAPAT`. -/
def State.slotRefuse (s : State) (code : Nat) : State := (s.put CLF.pg CLF.SLOTCTL_LAST code).refuse CLF.pg

/-- The present superframe number. -/
def State.sfNum (s : State) : Nat := s.get64 CLF.pg CLF.SFNUM_LO

/-- A write of `n` to `CLF_SWAPAT`, or its reception with SWAP_FOLLOW (R442). -/
def State.swapAt (s : State) (n : Nat) : State :=
  if n ≤ s.sfNum then s.slotRefuse 4
  else if ¬ s.bankValid (1 - s.clfBank) then s.slotRefuse 5
  else if s.clfState ≠ 4 then s.slotRefuse 6
  else ((s.put CLF.pg CLF.SWAPAT n).flag CLF.pg CLF.SLOTCTL_ARMED true).put CLF.pg CLF.SLOTCTL_LAST 1

/-- CLF_SWAPAT_WRITE. -/
def execClfSwapatWrite (dt : Nat) (_req : Req) (val : W32) (s : State) : Host.Outcome State Fault Refusal :=
  .next ((s.advance dt).swapAt val.toNat)

/-- The bytes that `be` enables are taken from `val`, the others from `old`. -/
def mergeBytes (be old val : Nat) : Nat :=
  [0, 1, 2, 3].foldl (fun acc i => acc + (if be.testBit i then val / 256 ^ i % 256 else old / 256 ^ i % 256) * 256 ^ i) 0

/-- The bits of a bank word that R438 assigns. -/
def bankMask (off : Nat) : Nat :=
  if off = 0xFF0 then 0xFFFF
  else if 0xFF0 < off then 0
  else match off % 16 with
    | 0 => 0xB03F1F00
    | 8 => 0xFFFF01FF
    | _ => 0xFFFFFFFF

/-- A write to a slot bank page (R441). -/
def State.bankWrite (s : State) (addr be val : Nat) : State :=
  match pageAt addr with
  | some p =>
    let a := addr / 4 * 4
    let off := a - pageBase p
    let v := mergeBytes be (s.rd a).toNat val &&& bankMask off
    if p.blk ≠ .bank then s
    else if bankMask off = 0 then s
    else if p.num = s.bankNow then s.slotRefuse 2
    else if s.on CLF.pg CLF.SLOTCTL_ARMED && s.bankNow == s.clfBank then s.slotRefuse 3
    else if off < 0xFF0 ∧ off % 16 = 8 ∧ (256 < bits v 8 0 ∨ bits v 1 0 ≠ 0) then s.refuse CLF.pg
    else s.setWord p ⟨a - pageBase p, 31, 0, 0⟩ (BitVec.ofNat 32 v)
  | none => s

/-- CLF_SLOT_BANK_WRITE. -/
def execClfSlotBankWrite (dt : Nat) (_req : Req) (addr : Nat) (be : BitVec 4) (val : W32) (s : State) :
    Host.Outcome State Fault Refusal :=
  .next ((s.advance dt).bankWrite addr be.toNat val.toNat)

/-! ### Route table (R434) -/

/-- The address of the route entry of a source and stream. -/
def routeAddr (src stream : Nat) : Nat := 0x40084000 + 8 * (32 * src + stream)

/-- A write to the route table. -/
def State.routeWrite (s : State) (req addr be val : Nat) : State :=
  match pageAt addr with
  | some p =>
    let a := addr / 4 * 4
    if p.blk ≠ .route then s
    else if req ≠ 0 ∧ req ≠ 1 ∧ req ≠ 2 ∧ req ≠ 11 then s.refuse CLF.pg
    else if a % 8 ≠ 0 then s
    else
      let v := mergeBytes be (s.rd a).toNat val &&& 0xFF30FF03
      let kind := bits v 30 28
      let safe := (a - 0x40084000) / 8 % 32 = 31
      if (kind = 3 ∧ ¬ safe) ∨ (safe ∧ kind ≠ 0 ∧ kind ≠ 3) ∨ bits v 21 20 = 3 then s.refuse CLF.pg
      else s.setWord p ⟨a - pageBase p, 31, 0, 0⟩ (BitVec.ofNat 32 v)
  | none => s

/-- CLF_ROUTE_WRITE. -/
def execClfRouteWrite (dt : Nat) (req : Req) (addr : Nat) (be : BitVec 4) (val : W32) (s : State) :
    Host.Outcome State Fault Refusal :=
  .next ((s.advance dt).routeWrite req addr be.toNat val.toNat)

/-! ### Receive rings (R435) -/

/-- A consumer's write of the read pointer of ring `k`, under the rules of R400. -/
def State.ringRptr (s : State) (k val : Nat) : State :=
  let p := CLF.pg
  let val := val % 2 ^ 18
  let size := 2 ^ s.get p (CLF.R_CFG_SIZE.ix k)
  let rptr := s.get p (CLF.R_RPTR_RPTR.ix k)
  let fill := s.get p (CLF.RFILL_FILL.ix k)
  if rptrOk size (2 ^ s.get p (CLF.R_CFG_RECSZ.ix k)) rptr fill val then
    (s.put p (CLF.R_RPTR_RPTR.ix k) val).put p (CLF.RFILL_FILL.ix k) (fill - (val + size - rptr) % size)
  else s.refuse p

/-- CLF_RING_RPTR_WRITE. -/
def execClfRingRptrWrite (dt : Nat) (_req : Req) (k : Fin 16) (val : W32) (s : State) : Host.Outcome State Fault Refusal :=
  .next ((s.advance dt).ringRptr k val.toNat)

/-- A frame is written to ring `k` as one record, or discarded whole (R435); `t` is the tick of its start symbol. -/
def State.ringPut (s : State) (k : Nat) (f : ClfFrame) (t : Nat) : State :=
  let p := CLF.pg
  if s.on p (CLF.R_CFG_EN.ix k) then
    let n := 2 ^ s.get p (CLF.R_CFG_RECSZ.ix k)
    let size := 2 ^ s.get p (CLF.R_CFG_SIZE.ix k)
    let fill := s.get p (CLF.RFILL_FILL.ix k)
    if fill + n ≤ size then
      let wptr := s.get p (CLF.R_WPTR_WPTR.ix k)
      let room := (n - 16) / 4
      let w (v : Nat) : W32 := BitVec.ofNat 32 v
      let head := [w (f.src * 2 ^ 24 + f.stream * 2 ^ 16 + f.seq),
        w (b2n (decide (room < f.payload.length)) * 2 ^ 31 + 4 * f.payload.length), w t, w (t / 2 ^ 32)]
      let a := s.get p (CLF.R_BASE_BASE.ix k) + wptr
      let s := (s.grantedN 9 a (n / 4)).recWords a (n / 4) (head ++ f.payload.take room)
      ((s.put p (CLF.R_WPTR_WPTR.ix k) ((wptr + n) % size)).put p (CLF.RFILL_FILL.ix k) (fill + n)).evt p CLF.EVT_RING
    else (s.incSat p CLF.CNT1_RXOVR).note 0xF0A 0 0 0
  else s

/-! ### Commits (R426, R433, R450, R451) -/

/-- After a commit on the CLF page: `ctrl` says that it holds `CTRL`, `wasOn` and `ports` are the old EN and PORT_EN, `subs`
the subscriptions and `rings` the rings that a committed word touches, with their old EN. EN committed as 1 takes a CLF that
is OFF to LINK, also where a device state put it OFF with EN at 1 (R433). -/
def State.clfCommitted (s : State) (ctrl wasOn : Bool) (ports : Nat) (subs : List (Fin 8)) (rings : List (Nat × Bool)) : State :=
  let p := CLF.pg
  let isOn := s.on p HDR.CTRL_EN
  let s := if isOn && ctrl && s.clfState == 0 && s.dstate.running then s.clfGo 1 else s
  let s := if !isOn && wasOn then s.clfOff else s
  let s := [(0 : Fin 2), 1].foldl (fun (s : State) (q : Fin 2) =>
    if ports.testBit q && !s.bitOn p CLF.CFG_PORT_EN q && s.link q != 0 then s.portDown q else s) s
  let s := rings.foldl (fun (s : State) (e : Nat × Bool) =>
    if s.on p (CLF.R_CFG_EN.ix e.1) && !e.2 then
      ((s.put p (CLF.R_WPTR_WPTR.ix e.1) 0).put p (CLF.R_RPTR_RPTR.ix e.1) 0).put p (CLF.RFILL_FILL.ix e.1) 0
    else s) s
  s.clfSet fun c => { c with
    peers := subs.foldl (fun (v : Vector PeerH 8) (k : Fin 8) => vset v k ⟨none, 0, 0, false, false⟩) c.peers }

end Sys2Proof.Machine
end

