-- ==== Sys2Proof/Machine/ClfTime.lean ====
section
/-! DEFINITION. Clepo: frames, the slots of a superframe, discovery, time distribution and peer subscriptions (R428 to R450). -/

namespace Sys2Proof.Machine
open Sys2Proof

/-! ### Becoming a source, and gaining and losing fabric time (R87, R446, R447) -/

/-- A lock group in FABRIC mode runs. -/
def State.fabricGroupRuns (s : State) : Bool :=
  (List.range 15).any fun g => s.on TBU.pg (TBU.LG_STAT_RUNNING.ix g) && s.lgMode g == 1

/-- The join of R87: `TBU_FOFS` is captured while no FABRIC-mode group runs; otherwise the residual is steered out at the
limit. -/
def State.fabJoin (s : State) (ofs : Int) : State :=
  let s := { s with tbu := { s.tbu with fabOfs := ofs } }
  if ¬ s.on TBU.pg TBU.FABCFG_EN then s
  else if s.fabricGroupRuns then { s with tbu := { s.tbu with limit := 2 } }
  else
    let s := { s with tbu := { s.tbu with limit := 0 } }
    (s.put64 TBU.pg TBU.FOFS_LO (unsigned 64 ofs)).evt TBU.pg TBU.EVT_FAB_JOIN

/-- A commit changed `TBU_FABCFG.EN` (R87): a node that follows a valid fabric time joins it, and without EN steering is not
active. The source of fabric time is not steered. -/
def State.fabEnable (s : State) : State :=
  let on := s.on TBU.pg TBU.FABCFG_EN
  let s := if on && s.on TBU.pg TBU.STAT_FAB_VALID && !s.clf.isRoot then s.fabJoin s.tbu.fabOfs else s
  let s := s.flag TBU.pg TBU.STAT_FAB_DISC (on && s.on TBU.pg TBU.STAT_FAB_VALID && !s.clf.isRoot)
  { s with tbu := { s.tbu with steerSince := none, steerRaised := false } }

/-- The node becomes the source of fabric time (R446): a first one captures an offset of 0, unless a FABRIC-mode group runs. -/
def State.becomeRoot (s : State) : State :=
  let s := if s.clf.held ∨ s.fabricGroupRuns then s else s.fabJoin 0
  let s := (s.flag TBU.pg TBU.STAT_FAB_VALID true).flag TBU.pg TBU.STAT_FAB_DISC false
  let s : State := { s with tbu := { s.tbu with steerSince := none, steerRaised := false } }
  (s.clfSet fun c => { c with isRoot := true, held := true }).put CLF.pg CLF.RESID 0

/-- Root loss (R447): fault 0xF04 and discovery with the ID kept. -/
def State.rootLost (s : State) : State :=
  let s := (s.evt CLF.pg CLF.EVT_ROOT).note 0xF04 1 0 0
  let s := s.clfDiscover true
  let s := s.clfSet fun c => { c with rootSf := s.sfNum }
  if s.clfState = 3 ∨ s.clfState = 4 then s.clfGo 2 else s

/-- Fabric time is lost (R87, R446): the trim freezes. -/
def State.fabLost (s : State) : State :=
  let s := (s.flag TBU.pg TBU.STAT_FAB_VALID false).flag TBU.pg TBU.STAT_FAB_DISC false
  let s : State := { s with tbu := { s.tbu with steerSince := none, steerRaised := false } }
  let s := s.clfSet fun c => { c with timeN := 0, isRoot := false }
  if s.on TBU.pg TBU.FABCFG_EN then (s.evt TBU.pg TBU.EVT_FAB_LOST).note 0x106 1 0 0 else s

/-! ### Sending (R430, R437) -/

/-- Ticks that a frame of `n` payload words takes on one lane, rounded up. -/
def airtime (n : Nat) : Nat := ((4 * n + 22) * 64 + 99) / 100

/-- A frame leaves port `p`, if the port carries frames; a copy of a frame with an error ends with an error end symbol
(R429). -/
def State.sendAs (s : State) (p : Fin 2) (f : ClfFrame) (bad : Bool) : State :=
  if s.portUp p then
    s.portSet p fun h => { h with
      sent := some f, sentBad := bad, busyTo := if f.slot = 0xFF then h.busyTo else s.now + airtime f.payload.length }
  else s

/-- A frame without error leaves port `p`. -/
def State.sendOn (s : State) (p : Fin 2) (f : ClfFrame) : State := s.sendAs p f false

/-- Fabric tick within the superframe. -/
def State.sfPhase (s : State) : Nat := (s.fabricTime % (s.get CLF.pg CLF.SF : Int)).toNat

/-- A slot or TIME frame leaves both ports (R430). -/
def State.broadcast (s : State) (f : ClfFrame) : State :=
  let n := s.get CLF.pg CLF.TOPO_NODES + 1
  let east := if s.clf.ring then n / 2 - 1 else 63
  let west := if s.clf.ring then (n - 1) / 2 - 1 else 63
  (s.sendOn 0 { f with hops := west }).sendOn 1 { f with hops := east }

/-- An open-window frame may start (R437): outside every enabled slot, and its airtime without payload and 8 ticks of guard
end before the next slot start. Outside RUN there are no slots. -/
def State.openWindow (s : State) : Bool :=
  s.clfState != 4 || (
    let t := s.sfPhase
    let sf := s.get CLF.pg CLF.SF
    (List.range 255).all fun i =>
      let x := s.slot s.clfBank i
      !x.en || ((decide (t < x.start) || decide (x.start + x.len ≤ t)) &&
        decide (t + airtime 0 + 8 ≤ (if t < x.start then x.start else x.start + sf))))

/-- A frame of one hop outside the slots. -/
def State.unicast (s : State) (type : Nat) : ClfFrame :=
  ⟨0xFF, s.get CLF.pg CLF.TOPO_ID, 0, type, 0, 0, 0xFF, []⟩

/-- A PDRESP that waited for the open window leaves (R437, R445). -/
def State.pdAnswer (s : State) : State :=
  if s.openWindow then
    [(0 : Fin 2), 1].foldl (fun (s : State) (p : Fin 2) =>
      if (vget s.clf.ports p).respDue then (s.sendOn p (s.unicast 7)).portSet p fun h => { h with respDue := false } else s) s
  else s

/-! ### Discovery (R431, R432) -/

/-- A node that holds an ID leaves DISCOVER for TIMESYNC, and goes on to RUN where fabric time is valid already (R433). -/
def State.clfSync (s : State) : State :=
  let s := s.clfGo 3
  if s.on TBU.pg TBU.STAT_FAB_VALID then s.clfGo 4 else s

/-- Discovery completes with `n` nodes (R431, R432): the best candidate is the root, and a node that holds an ID goes on. -/
def State.discovered (s : State) (n hops rootId : Nat) : State :=
  let p := CLF.pg
  match s.clf.best with
  | none => s
  | some b =>
    let self := b.2 == s.deviceId
    if self ∧ 64 < n then s.note 0xF03 1 0 0
    else
      let stat := s.on p CLF.CFG_IDMODE
      let own := if stat then s.get p CLF.CFG_NODE_ID else if self && !s.clf.idHeld then 0 else s.get p CLF.TOPO_ID
      let hold := self || stat || s.clf.idHeld
      let s := s.withTopo fun s =>
        let s := ((s.flag p CLF.TOPO_VALID true).put p CLF.TOPO_NODES (n - 1)).flag p CLF.TOPO_RING s.clf.ring
        let s := if hold then s.put p CLF.TOPO_ID own else s
        (s.put p CLF.TOPO_ROOT (if self then own else rootId)).put p CLF.TOPO_HOPS (if self then 0 else hops)
      let s := s.clfSet fun c => { c with
        idHeld := hold, rootSf := s.sfNum, isRoot := c.isRoot && self, timeSf := if c.isRoot && !self then s.sfNum else c.timeSf }
      let s := if self && !s.clf.isRoot then s.becomeRoot else s
      let s := if self && !stat then [(0 : Fin 2), 1].foldl (fun (s : State) (p : Fin 2) => s.sendOn p (s.unicast 5)) s else s
      if s.clfState = 2 then (if s.clf.dup then s.clfGo 5 else if hold then s.clfSync else s)
      else s

/-- CLF_HELLO_SEND: the node sends a HELLO on each port, once per 40,000 ticks; discovery may complete (`done`). -/
def execClfHelloSend (dt : Nat) (done : Bool) (s : State) : Host.Outcome State Fault Refusal :=
  let s := (s.advance dt).pdAnswer
  if 2 ≤ s.clfState ∧ s.clf.helloAt + 40000 ≤ s.now ∧ (s.portUp 0 ∨ s.portUp 1) ∧ s.openWindow then
    let f := s.unicast 4
    let s := ((s.sendOn 0 f).sendOn 1 f).clfSet fun c => { c with helloAt := s.now }
    let t := s.get CLF.pg CLF.TOPO
    .next (if done then s.discovered (bits t 29 24 + 1) (bits t 5 0) (bits t 13 8) else s)
  else .next s

/-- The better of two root candidates: the lower (`ROOT_PRI`, device ID); a priority of 15 is none (R431). -/
def betterRoot (a : Option (Nat × Nat)) (pri id : Nat) : Option (Nat × Nat) :=
  if 15 ≤ pri then a
  else match a with
    | none => some (pri, id)
    | some b => if pri < b.1 ∨ (pri = b.1 ∧ id < b.2) then some (pri, id) else a

/-- CLF_HELLO_RX: a HELLO updates the root candidate and the topology; discovery may complete (`done`). -/
def execClfHelloRx (dt : Nat) (p : Fin 2) (h : ClfHello) (done : Bool) (s : State) : Host.Outcome State Fault Refusal :=
  let s := s.advance dt
  let pg := CLF.pg
  if 2 ≤ s.clfState ∧ s.portUp p then
    let own := s.deviceId
    let best := betterRoot (betterRoot s.clf.best h.rootPri h.devId) h.bestPri h.bestId
    let s := s.clfSet fun c => { c with
      best := best
      ring := c.ring || h.devId == own
      rootSf := if (best.map (·.2)) = some h.devId then s.sfNum else c.rootSf }
    let mine := if s.on pg CLF.CFG_IDMODE then some (s.get pg CLF.CFG_NODE_ID) else none
    let clash := h.devId != own && mine.isSome && h.claim == mine
    let s :=
      if clash && !s.clf.dupSeen && s.clfState != 5 then
        let s := (s.clfSet fun c => { c with dupSeen := true }).note 0xF03 1 0 0
        if h.devId < own then
          let s := s.clfSet fun c => { c with dup := true }
          if s.clfState = 2 then s.clfGo 5 else s
        else s
      else s
    .next (if done then s.discovered h.nodes h.hops h.rootId else s)
  else .next s

/-- CLF_ASSIGN_RX: the root numbers this node `id` of `n` (R432, AUTO). -/
def execClfAssignRx (dt : Nat) (p : Fin 2) (id : Nat) (n : Nat) (hops : Nat) (s : State) : Host.Outcome State Fault Refusal :=
  let s := s.advance dt
  let pg := CLF.pg
  if 2 ≤ s.clfState ∧ s.portUp p ∧ ¬ s.on pg CLF.CFG_IDMODE ∧ ¬ s.clf.idHeld ∧ id < 64 ∧ 0 < n ∧ n ≤ 64 then
    let s := s.withTopo fun s =>
      (((s.put pg CLF.TOPO_ID id).put pg CLF.TOPO_NODES (n - 1)).put pg CLF.TOPO_HOPS hops).put pg CLF.TOPO_ROOT 0
    let s := s.clfSet fun c => { c with idHeld := true }
    let s := s.sendOn (if p = 0 then 1 else 0) (s.unicast 5)
    .next (if s.clfState = 2 then s.clfSync else s)
  else .next s

/-! ### Path delay (R445) -/

/-- CLF_PD_REQUEST: a PDREQ leaves port `p`, once per PD_PER superframes. -/
def execClfPdRequest (dt : Nat) (p : Fin 2) (fine : Fin 128) (s : State) : Host.Outcome State Fault Refusal :=
  let s := (s.advance dt).pdAnswer
  let every := s.get CLF.pg CLF.TIME_PD_PER * s.get CLF.pg CLF.SF
  let due : Bool := match (vget s.clf.ports p).pdAt with
    | none => true
    | some t => decide (t + every ≤ s.now)
  if 2 ≤ s.clfState ∧ s.portUp p ∧ due ∧ s.openWindow then
    .next ((s.sendOn p (s.unicast 6)).portSet p fun h => { h with pdreq := some (s.fineNow + fine), pdAt := some s.now })
  else .next s

/-- CLF_PDREQ_RX: the neighbour's PDREQ is answered with a PDRESP, in the open window. -/
def execClfPdreqRx (dt : Nat) (p : Fin 2) (_fine : Fin 128) (s : State) : Host.Outcome State Fault Refusal :=
  let s := s.advance dt
  if 2 ≤ s.clfState ∧ s.portUp p then .next ((s.portSet p fun h => { h with respDue := true }).pdAnswer) else .next s

/-- CLF_PDRESP_RX: the delay of port `p` is the mean of the last 8 exchanges. -/
def execClfPdrespRx (dt : Nat) (p : Fin 2) (t2 : Nat) (t3 : Nat) (fine : Fin 128) (s : State) :
    Host.Outcome State Fault Refusal :=
  let s := s.advance dt
  match (vget s.clf.ports p).pdreq with
  | none => .next s
  | some t1 =>
    if s.portUp p then
      let twice : Int := ((s.fineNow + fine : Nat) : Int) - t1 - ((t3 : Int) - t2)
      let ds := (twice :: (vget s.clf.ports p).delays).take 8
      let s := s.portSet p fun h => { h with pdreq := none, delays := ds }
      .next (if ds.length = 8 then s.put CLF.pg (pdFld p) (unsigned 32 (ds.foldl (· + ·) 0 / 16)) else s)
    else .next s

/-! ### Slot checks (R443) -/

/-- A slot-ownership check fails: fault 0xF05, and the slot is discarded for the rest of the superframe. -/
def State.slotConflict (s : State) (i : Nat) : State :=
  let s := s.clfSet fun c => { c with clash := if c.clash.contains i then c.clash else i :: c.clash }
  ((s.incSat CLF.pg CLF.CNT1_CONFLICT).evt CLF.pg CLF.EVT_CONFLICT).note 0xF05 1 0 i

/-- The check of a frame of source `src` in slot `i`; the answer tells whether the frame is kept. Slot 0 is checked against
the present root (R447). -/
def State.slotCheck (s : State) (i src : Nat) : Bool × State :=
  let owner := if i = 0 then s.get CLF.pg CLF.TOPO_ROOT else (s.slot s.clfBank i).owner
  if s.clf.quar.contains i then (false, s)
  else if src ≠ owner ∨ s.clf.got.contains i ∨ s.clf.clash.contains i then (false, s.slotConflict i)
  else (true, s.clfSet fun c => { c with got := i :: c.got })

/-! ### Frames (R428 to R436) -/

/-- A frame with a wrong CHECK, a header field out of range or a code error (R429). -/
def State.crcError (s : State) : State :=
  let s := (s.incSat CLF.pg CLF.CNT0_CRC).clfSet fun c => { c with errs := c.errs + 1 }
  if s.get CLF.pg CLF.TIME_ERR_MAX < s.clf.errs ∧ ¬ s.clf.errRaised then
    (s.clfSet fun c => { c with errRaised := true }).note 0xF0B 1 0 0
  else s

/-- The header fields of a frame are in range (R428). -/
def headerOk (f : ClfFrame) : Bool :=
  (decide (f.dest < 64) || f.dest == 0xFF) && decide (f.src < 64) && decide (f.stream < 32) && decide (f.seq < 65536) &&
    decide (f.payload.length ≤ 64) && decide (f.hops < 256) && decide (f.slot < 256)

/-- A frame is forwarded out of the other port (R430), with its error marked (R429); a TIME frame bypasses the route table
(R434). -/
def State.forward (s : State) (p : Fin 2) (f : ClfFrame) (bad : Bool) : State :=
  let q : Fin 2 := if p = 0 then 1 else 0
  let e := (s.rd (routeAddr f.src f.stream)).toNat
  let stop := f.type != 2 && bit e 31 && (if q = 0 then bit e 0 else bit e 1)
  if 0 < f.hops ∧ f.src ≠ s.get CLF.pg CLF.TOPO_ID ∧ ¬ stop then s.sendAs q { f with hops := f.hops - 1 } bad else s

/-- The airtime of a frame of `n` payload words as port `p` carries it, rounded down: 0.32 ticks a symbol on two lanes, 0.64 on
one (R428). -/
def State.lanesTime (s : State) (p : Fin 2) (n : Nat) : Nat := (4 * n + 22) * (if s.link p = 2 then 32 else 64) / 100

/-- A frame whose start symbol arrived at tick `t` is delivered through its route entry (R434 to R436, R450). -/
def State.deliver (s : State) (f : ClfFrame) (t : Nat) : State :=
  let i := 32 * f.src + f.stream
  let e := (s.rd (routeAddr f.src f.stream)).toNat
  if ¬ bit e 31 then s
  else
    let prev := mapGet (fun _ => 0) s.clf.rxSeq i
    if prev = f.seq + 1 then s
    else
      let gap := prev != 0 && prev % 65536 != f.seq
      let s := if gap then s.incSat CLF.pg CLF.CNT0_SEQGAP else s
      let s := s.clfSet fun c => { c with rxSeq := mapSet (fun _ => 0) c.rxSeq i (f.seq + 1) }
      match bits e 30 28 with
      | 1 => s.ringPut (bits e 27 24) f t
      | 2 =>
        match f.payload[bits e 15 8]? with
        | some w => if bits e 21 20 < 3 then s.msvTcmd 9 (bits e 21 20) w else s
        | none => s
      | 3 => s.clfSet fun c => { c with
          peers := Vector.ofFn fun (k : Fin 8) =>
            let h := vget c.peers k
            if s.get CLF.pg (CLF.PSUB_NODE.ix k) = f.src then { h with msg := some f.payload } else h }
      | _ => s

/-- CLF_FRAME_RX: a frame at port `p`: `marked` says that it ends with an error end symbol, `good` that its CHECK and its
codes are right. The slot check falls as the header completes, whatever the CHECK (R443). The command stands 4 ticks after
the end symbol, where R436 puts the last effect of a frame (log 62). -/
def execClfFrameRx (dt : Nat) (p : Fin 2) (f : ClfFrame) (good : Bool) (marked : Bool) (s : State) :
    Host.Outcome State Fault Refusal :=
  let s := s.advance dt
  if s.clfState < 2 ∨ ¬ s.portUp p then .next s
  else
    let slotted := f.type = 1 ∨ f.type = 3
    let ok := good ∧ ¬ marked
    let s := if slotted then s.forward p f !ok else s
    let (keep, s) : Bool × State :=
      if slotted ∧ headerOk f ∧ f.slot ≠ 0xFF then s.slotCheck f.slot f.src else (true, s)
    if marked then .next (s.incSat CLF.pg CLF.CNT0_FWD_BAD)
    else if ¬ good ∨ ¬ headerOk f then .next s.crcError
    else if f.type = 0 ∨ 7 < f.type then .next (s.incSat CLF.pg CLF.CNT0_FMT)
    else if slotted ∧ keep ∧ s.clfState = 4 ∧ (f.dest = 0xFF ∨ f.dest = s.get CLF.pg CLF.TOPO_ID) then
      .next (s.deliver f (s.now - 4 - s.lanesTime p f.payload.length))
    else .next s

/-- ERROR_RATE_WINDOW_START: the count of CRC errors starts again at multiples of 400,000,000 ticks (R429). -/
def execErrorRateWindowStart (dt : Nat) (s : State) : Host.Outcome State Fault Refusal :=
  let s := s.advance dt
  if s.now % 400000000 = 0 then .next (s.clfSet fun c => { c with errs := 0, errRaised := false }) else .next s

/-! ### TIME frames (R442, R444, R446) -/

/-- The payload of a TIME frame: T0, C, the active TABLE_ID and the armed number (R446; their order is log 62's). -/
def timeWords (t0 c table armed : Nat) : List W32 := [t0, t0 / 2 ^ 32, c, table, armed].map (BitVec.ofNat 32)

/-- Change the rest of Horizon. -/
def State.tbuSet (s : State) (f : TbuH → TbuH) : State := { s with tbu := f s.tbu }

/-- The steering part of TRIM for a residual `r`: the limit while a refused rejoin is steered out, else a free value within
±STEER_MAX (R87, R88). -/
def State.steerTrim (s : State) (r : Int) : State :=
  let lim : Int := s.get TBU.pg TBU.FABCFG_STEER_MAX * 1000
  let s := if s.tbu.limit ≠ 0 ∧ r.sign ≠ s.tbu.limit ∧ s.tbu.limit ≠ 2 then s.tbuSet fun h => { h with limit := 0 } else s
  if s.tbu.limit ≠ 0 then
    s.tbuSet fun h => { h with steer := r.sign * lim, limit := r.sign }
  else
    let (x, s) := s.freshNat
    s.tbuSet fun h => { h with steer := clampInt (-lim) lim (signed 32 x) }

/-- A residual in fine units reaches Horizon (R87, R446). -/
def State.residual (s : State) (r : Int) : State :=
  let s := s.put CLF.pg CLF.RESID (unsigned 32 r)
  if s.on TBU.pg TBU.FABCFG_EN ∧ s.on TBU.pg TBU.STAT_FAB_VALID then
    let big := decide (51200 < r.natAbs)
    let s := s.tbuSet fun h => { h with
      steerSince := if big then some (h.steerSince.getD s.now) else none
      steerRaised := big && h.steerRaised }
    s.steerTrim r
  else s

/-- CLF_TIME_RX: a TIME frame arrives at port `p`. A forwarding node adds to C the delay of the port and its residence time,
a free value (R446). -/
def execClfTimeRx (dt : Nat) (p : Fin 2) (f : ClfTime) (fine : Fin 128) (s : State) : Host.Outcome State Fault Refusal :=
  let s := s.advance dt
  let pg := CLF.pg
  if s.clfState < 2 ∨ ¬ s.portUp p then .next s
  else
    let (stay, s) := s.freshNat
    let c : Int := f.corr + signed 32 (s.get pg (pdFld p)) + (stay % 2 ^ 32 : Nat)
    let s := s.forward p ⟨0xFF, f.src, 0, 2, 0, f.hops, 0,
      timeWords (unsigned 64 f.t0) (unsigned 32 c) f.table f.armed⟩ !f.good
    let (keep, s) := if s.clfState = 2 then (false, s) else s.slotCheck 0 f.src
    if ¬ f.good then .next s.crcError
    else if ¬ keep ∨ s.clf.isRoot then .next s
    else
      let here : Int := (s.fineNow + fine : Nat)
      let hasDelay := (vget s.clf.ports p).delays.length == 8
      let t : Int := f.t0 + f.corr + signed 32 (s.get pg (pdFld p))
      let sf := (f.t0 / 128 / (s.get pg CLF.SF : Int)).toNat
      let n := if s.clf.timeN ≠ 0 ∧ sf = s.clf.timeSf + 1 then s.clf.timeN + 1 else 1
      let s := s.clfSet fun c => { c with timeN := n, timeSf := sf }
      let s := if hasDelay then (s.tbuSet fun h => { h with fabOfs := t - here }).residual (t - (here + s.fofs)) else s
      let s :=
        if hasDelay ∧ 4 ≤ n ∧ ¬ s.on TBU.pg TBU.STAT_FAB_VALID then
          let s := (s.fabJoin (t - here)).flag TBU.pg TBU.STAT_FAB_VALID true
          let s := s.flag TBU.pg TBU.STAT_FAB_DISC (s.on TBU.pg TBU.FABCFG_EN)
          (s.clfSet fun c => { c with held := true }).put64 pg CLF.SFNUM_LO sf
        else s
      let s := if s.clfState = 3 ∧ s.on TBU.pg TBU.STAT_FAB_VALID then s.clfGo 4 else s
      let table := s.slotWord s.clfBank 255 0 % 65536
      let s := if f.table = table then s.clfSet fun c => { c with mismatch := false }
        else if s.clf.mismatch then s
        else ((s.clfSet fun c => { c with mismatch := true }).evt pg CLF.EVT_CONFLICT).note 0xF06 1 0 0
      let first := f.armed ≠ 0xFFFFFFFF ∧ f.armed ≠ s.clf.seenArm
      let s := s.clfSet fun c => { c with seenArm := f.armed }
      .next (if first ∧ s.on pg CLF.CFG_SWAP_FOLLOW then s.swapAt f.armed else s)

/-! ### Own slots (R440, R447, R449) -/

/-- CLF_TXBUF_READ: the read of the payload of an own slot, begun 64 ticks before the slot, is complete. -/
def execClfTxbufRead (dt : Nat) (slot : Fin 255) (s : State) : Host.Outcome State Fault Refusal :=
  let s := s.advance dt
  let x := s.slot s.clfBank slot
  let sf := s.get CLF.pg CLF.SF
  let lead := (x.start + sf - s.sfPhase) % sf
  if s.clfState = 4 ∧ x.en ∧ x.srck = 0 ∧ x.owner = s.get CLF.pg CLF.TOPO_ID ∧ lead ≤ 64 ∧ ¬ s.clf.quar.contains slot.1 then
    let ws := (List.range (x.plen / 4)).map fun i => s.rdMem (x.txbuf + 4 * i)
    .next ((s.grantedN 9 x.txbuf (x.plen / 4)).clfSet fun c => { c with txbuf := some (slot.1, ws) })
  else .next s

/-- The next SEQ of a stream of this node. -/
def State.nextSeq (s : State) (stream : Nat) : Nat × State :=
  let q := mapGet (fun _ => 0) s.clf.txSeq stream
  (q, s.clfSet fun c => { c with txSeq := mapSet (fun _ => 0) c.txSeq stream ((q + 1) % 65536) })

/-- The node sends a frame in slot `i`. -/
def State.slotSend (s : State) (i stream type : Nat) (ws : List W32) : State :=
  let (q, s) := s.nextSeq stream
  (s.broadcast ⟨0xFF, s.get CLF.pg CLF.TOPO_ID, stream, type, q, 0, i, ws⟩).clfSet fun c => { c with got := i :: c.got }

/-- CLF_SLOT_TX: the start of an own slot; the read of the payload has completed (`done`). The root sends a TIME frame in
slot 0, with or without an entry (R447). -/
def execClfSlotTx (dt : Nat) (slot : Fin 255) (done : Bool) (s : State) : Host.Outcome State Fault Refusal :=
  let s := s.advance dt
  let pg := CLF.pg
  let x := s.slot s.clfBank slot
  let own := x.owner = s.get pg CLF.TOPO_ID
  let time := slot.1 = 0 ∧ s.clf.isRoot
  let at0 := if time then 0 else x.start
  if s.clfState = 4 ∧ s.sfPhase = at0 ∧ ¬ s.clf.quar.contains slot.1 ∧ ¬ s.clf.got.contains slot.1 then
    if time then
      let t := unsigned 64 (s.fabricTime * 128)
      let armed := if s.on pg CLF.SLOTCTL_ARMED then s.get pg CLF.SWAPAT else 0xFFFFFFFF
      .next (s.slotSend 0 0 2 (timeWords t 0 (s.slotWord s.clfBank 255 0 % 65536) armed))
    else if ¬ (x.en ∧ own) then .next s
    else if x.srck = 1 then .next (s.slotSend slot.1 x.stream 3 s.clf.safeMsg)
    else if x.srck = 0 then
      match s.clf.txbuf, done with
      | some (i, ws), true =>
        let s := s.clfSet fun c => { c with txbuf := none }
        if i = slot.1 then .next (s.slotSend slot.1 x.stream 1 ws)
        else .next ((s.incSat pg CLF.CNT1_TXLATE).note 0xF07 1 0 0)
      | _, _ => .next (((s.clfSet fun c => { c with txbuf := none }).incSat pg CLF.CNT1_TXLATE).note 0xF07 1 0 0)
    else .next s
  else .next s

/-! ### Superframe boundaries (R437, R442, R443, R447, R449, R450) -/

/-- Halo builds the safety message of this superframe (R449). -/
def State.safeMessage (s : State) : State :=
  let q := (s.clf.safeSeq + 1) % 2 ^ 32
  let w0 := s.get SYS.pg SYS.DSTAT_DSTATE * 2 ^ 25 + s.get HLO.pg HLO.STAT_SAFE * 2 ^ 24 + s.get HLO.pg HLO.STAT_FR4 * 2 ^ 20 +
    s.get HLO.pg HLO.STAT_FR3 * 2 ^ 16 + s.get SFI.pg SFI.STAT_DEMAND
  let ws := [w0, q, s.deviceId % 2 ^ 32]
  let c := crc32c (q ^^^ 0xFFFFFFFF) (ws.flatMap (leBytes 4))
  s.clfSet fun h => { h with safeSeq := q, safeMsg := (ws ++ [c]).map (BitVec.ofNat 32) }

/-- Halo evaluates subscription `k` (R450). -/
def State.peerCheck (s : State) (k : Fin 8) : State :=
  let p := CLF.pg
  if s.on p (CLF.PSUB_EN.ix k) then
    let h := vget s.clf.peers k
    let set (s : State) (f : PeerH → PeerH) : State := s.clfSet fun c => { c with peers := vset c.peers k (f (vget c.peers k)) }
    let react := if s.get p (CLF.PSUB_ACT.ix k) = 1 then 4 else 3
    let machs := s.get p (CLF.PSUB_MACH.ix k)
    let valid : Bool := match h.msg with
      | some [w0, w1, w2, w3] =>
        let q := w1.toNat
        let d := (q + 2 ^ 32 + 1 - h.seq) % 2 ^ 32
        w3.toNat == crc32c (q ^^^ 0xFFFFFFFF) ([w0, w1, w2].flatMap fun w => leBytes 4 w.toNat) &&
          w2.toNat == s.get p (CLF.PUID_UID.ix k) && (h.seq == 0 || (decide (1 ≤ d) && decide (d ≤ 4)))
      | _ => false
    if valid then
      let w0 := ((h.msg.getD []).headD 0).toNat
      let w1 := ((h.msg.getD []).getD 1 0).toNat
      let dem := w0 &&& s.get p (CLF.PMASK_MASK.ix k) != 0
      let s := set s fun h => { h with msg := none, seq := w1 + 1, silent := 0, demand := dem, timeout := false }
      if dem && !h.demand then (s.evt p CLF.EVT_PEER).raise 0xF08 react machs else s
    else
      let n := h.silent + 1
      let late := decide (s.get p (CLF.PSUB_TO.ix k) ≤ n)
      let s := set s fun h => { h with msg := none, silent := n, timeout := late }
      if late && !h.timeout then (s.evt p CLF.EVT_PEER).raise 0xF09 react machs else s
  else s

/-- What a superframe boundary does on CLF (R437, R442, R443, R447, R449, R450). -/
def State.superframe (s : State) : State :=
  let p := CLF.pg
  let ft := s.fabricTime
  let sf : Int := s.get p CLF.SF
  if s.superframeDue then
    let n := (ft / sf).toNat
    let s : State := { s.put64 p CLF.SFNUM_LO n with sfTick := some s.now }
    let s := if s.on p CLF.SLOTCTL_ARMED ∧ s.get p CLF.SWAPAT = n then
        ((s.put p CLF.SLOTCTL_ACTIVE (1 - s.clfBank)).flag p CLF.SLOTCTL_ARMED false).evt p CLF.EVT_SWAPPED
      else s
    let q := s.clf.clash
    let s := s.clfSet fun c => { c with quar := q, clash := [], got := [] }
    let s := q.foldl (fun (s : State) (i : Nat) => (s.put p CLF.QUAR_SLOT i).incSat p CLF.CNT1_QUAR) s
    let s := s.flag p CLF.QUAR_ON !q.isEmpty
    let s := if s.clf.ring && !(s.portUp 0 && s.portUp 1) then
        (s.clfSet fun c => { c with ring := false }).withTopo fun s => s.flag p CLF.TOPO_RING false
      else s
    let lostN := s.get p CLF.TIME_LOST_N
    let noTime := s.on TBU.pg TBU.STAT_FAB_VALID &&
      (if s.clf.isRoot then decide (s.clfState = 0) else decide (s.clf.timeSf + lostN < n))
    let noHello := !s.clf.isRoot && s.get p CLF.TOPO_HOPS == 1 && decide (s.clf.rootSf + lostN < n)
    let s := if noTime then s.fabLost else s
    let s := if (noTime || noHello) && decide (3 ≤ s.clfState) then s.rootLost else s
    let s := s.safeMessage
    (List.finRange 8).foldl State.peerCheck s
  else s

end Sys2Proof.Machine
end

