-- ==== Sys2Proof/Machine/Halo.lean ====
section
/-! DEFINITION. Halo: heartbeat lines, STO commands and paths, safe inputs and test pulses, brakes, the watchdog and the
log commands (R330 to R360). The reactions stand in Machine/Reaction.lean, `HLO_CMD` ACK in Machine/Ack.lean. -/

namespace Sys2Proof.Machine
open Sys2Proof

/-! ### Fault log and watchdog (R351, R352, R356) -/

/-- `HLO_CMD` CLR_LOG: the entries to 0; TOTAL goes on. -/
def State.hloClrLog (s : State) : State :=
  s.command HLO.pg HLO.CMD_LAST_STS true fun s =>
    ((List.range 32).foldl (fun s i =>
      ((s.put HLO.pg (HLO.LOG_INFO.ix i) 0).put HLO.pg (HLO.LOG_AUX.ix i) 0).put64 HLO.pg (HLO.LOG_STAMP_LO.ix i) 0) s).put
        HLO.pg HLO.LOGPTR_NEXT 0

/-- `HLO_CMD` CLR_FIRST: the kept first FR5 fault to 0. -/
def State.hloClrFirst (s : State) : State :=
  s.command HLO.pg HLO.CMD_LAST_STS true fun s =>
    ((s.put HLO.pg HLO.FIRST_INFO 0).put HLO.pg HLO.FIRST_AUX 0).put64 HLO.pg HLO.FIRST_STAMP_LO 0

/-- HLO_CLR_LOG. -/
def execHloClrLog (dt : Nat) (req : Req) (s : State) : Host.Outcome State Fault Refusal :=
  .next ((s.advance dt).haloCmd req HLO.pg HLO.CMD_LAST_STS State.hloClrLog)

/-- HLO_CLR_FIRST. -/
def execHloClrFirst (dt : Nat) (req : Req) (s : State) : Host.Outcome State Fault Refusal :=
  .next ((s.advance dt).haloCmd req HLO.pg HLO.CMD_LAST_STS State.hloClrFirst)

/-- Fault 0xB0C. -/
def State.watchdog (s : State) : State := (s.evt HLO.pg HLO.EVT_WDOG).raise 0xB0C 5 0

/-- A write to `HLO_KICK` (R352): the value and the window are checked, and a good kick toggles `ALIVE`. -/
def State.kick (s : State) (req : Nat) (val : Nat) : State :=
  if req ≠ 2 then s.refuse HLO.pg
  else
    match s.halo.kickAt with
    | none => s
    | some t =>
      let lo := s.get HLO.pg HLO.CFG_WD_MIN * 400
      let hi := s.get HLO.pg HLO.CFG_WD_MAX * 400
      if val = 0xA55A ∧ t + lo ≤ s.now ∧ s.now ≤ t + hi then
        { s with halo := { s.halo with kickAt := some s.now, alive := !s.halo.alive } }
      else s.watchdog

/-- WATCHDOG_KICK: a write to `HLO_KICK`. -/
def execWatchdogKick (dt : Nat) (req : Req) (val : W32) (s : State) : Host.Outcome State Fault Refusal :=
  .next ((s.advance dt).kick req val.toNat)

/-- WATCHDOG: no kick by WD_MAX. -/
def execWatchdog (dt : Nat) (s : State) : Host.Outcome State Fault Refusal :=
  let s := s.advance dt
  match s.halo.kickAt with
  | some t => if t + s.get HLO.pg HLO.CFG_WD_MAX * 400 ≤ s.now then .next s.watchdog else .next s
  | none => .next s

/-! ### Heartbeat (R333, R334) -/

/-- GHB_HALF_PERIOD: the half-period of a running line ends; the next one takes the code in force. -/
def execGhbHalfPeriod (dt : Nat) (line : Fin 15) (s : State) : Host.Outcome State Fault Refusal :=
  let s := s.advance dt
  let h := vget s.halo.ghb line
  if s.ghbOk line ∧ h.endAt ≤ s.now then .next (s.ghbBegin line (!h.level) (!h.odd)) else .next s

/-- GHB_READBACK: a heartbeat ball differs from its commanded level for more than 4 ticks. -/
def execGhbReadback (dt : Nat) (line : Fin 15) (s : State) : Host.Outcome State Fault Refusal :=
  .next ((((s.advance dt).putBit GHB.pg GHB.STAT_BALLERR line true).evt GHB.pg GHB.EVT_READBACK).raise 0xB06 5 0)

/-! ### STO commands, paths and read-back (R337 to R339) -/

/-- The HS pair is halted for debug. -/
def State.hsHalted (s : State) : Bool := s.bitOn LKS.pg LKS.STAT_HALTED 2

/-- `STO_CMD` RELEASE for the machines of a mask (R338): path A releases at once. -/
def State.stoRelease (s : State) (mask : Nat) : State :=
  let ms := [0, 1, 2].filter fun m => mask.testBit m
  s.command STO.pg STO.CMD_LAST_STS (s.dstate == .drive && !s.hsHalted && ms.all fun m => s.stoFree m) fun s =>
    ms.foldl (fun s m =>
      let s := { s with halo := { s.halo with cmdSto := setBits s.halo.cmdSto m m 0 } }.stopSet m fun h => { h with done := false }
      if h : m < 4 then (if s.stoEff m then s.pathARelease ⟨m, h⟩ else s) else s) s

/-- STO_RELEASE. -/
def execStoRelease (dt : Nat) (req : Req) (mask : BitVec 3) (s : State) : Host.Outcome State Fault Refusal :=
  .next ((s.advance dt).haloCmd req STO.pg STO.CMD_LAST_STS fun s => s.stoRelease mask.toNat)

/-- `STO_CMD` ASSERT for the machines of a mask (R338). -/
def State.stoCmdAssert (s : State) (mask : Nat) : State :=
  s.command STO.pg STO.CMD_LAST_STS true fun s =>
    ({ s with halo := { s.halo with cmdSto := s.halo.cmdSto ||| mask % 8 } }.machines mask State.stoAssert)

/-- STO_ASSERT. -/
def execStoAssert (dt : Nat) (req : Req) (mask : BitVec 3) (s : State) : Host.Outcome State Fault Refusal :=
  .next ((s.advance dt).haloCmd req STO.pg STO.CMD_LAST_STS fun s => s.stoCmdAssert mask.toNat)

/-- `STO_CMD` CONV_RELEASE (R339). -/
def State.convRelease (s : State) : State :=
  s.command STO.pg STO.CMD_LAST_STS (s.dstate.running && !s.sfiConv) fun s =>
    { s with halo := { s.halo with convCmd := false, convSfi := false } }.pathARelease 3

/-- STO_CONV_RELEASE. -/
def execStoConvRelease (dt : Nat) (req : Req) (s : State) : Host.Outcome State Fault Refusal :=
  .next ((s.advance dt).haloCmd req STO.pg STO.CMD_LAST_STS State.convRelease)

/-- `STO_CMD` CONV_ASSERT (R339). -/
def State.convCmdAssert (s : State) : State :=
  s.command STO.pg STO.CMD_LAST_STS true fun s => { s with halo := { s.halo with convCmd := true } }.convAssert

/-- STO_CONV_ASSERT. -/
def execStoConvAssert (dt : Nat) (req : Req) (s : State) : Host.Outcome State Fault Refusal :=
  .next ((s.advance dt).haloCmd req STO.pg STO.CMD_LAST_STS State.convCmdAssert)

/-- Both paths of line `l` are high: the STO function is out of effect (R336). -/
def State.stoOut (s : State) (l : Fin 4) : State :=
  if l = 3 then
    ((s.flag STO.pg STO.STAT_CONV_EFF false).put STO.pg STO.CAUSE_CONV 0).evt STO.pg STO.EVT_RELEASE
  else
    let s := ((s.putBit STO.pg STO.STAT_EFF l false).put STO.pg (stoCauseFld l) 0).incSat STO.pg STO.CNT_RELEASES
    (((s.evt STO.pg STO.EVT_RELEASE).msvReleased l)).tpwRefreshAll

/-- STO_PATH_B_RELEASE: path B follows path A within 400 ticks (R337), and the release is complete. -/
def execStoPathBRelease (dt : Nat) (line : Fin 4) (s : State) : Host.Outcome State Fault Refusal :=
  let s := s.advance dt
  let inTime : Bool := match vget s.halo.diffAt line with
    | some t => decide (s.now ≤ t + 400)
    | none => false
  if s.halo.pathA.testBit line ∧ ¬ s.halo.pathB.testBit line ∧ inTime then
    .next ({ s with halo := { s.halo with
      pathB := setBits s.halo.pathB line line 1, diffAt := vset s.halo.diffAt line none } }.stoOut line)
  else .next s

/-- STO_PATH: the commanded states of the two paths of a line differ for 10 µs. -/
def execStoPath (dt : Nat) (line : Fin 4) (s : State) : Host.Outcome State Fault Refusal :=
  let s := s.advance dt
  match vget s.halo.diffAt line with
  | some t => if t + 4000 ≤ s.now then .next ((s.evt STO.pg STO.EVT_PATH).raise 0xB05 5 0) else .next s
  | none => .next s

/-- STO_READBACK: an STO ball differs from its commanded level for more than 8 ticks. -/
def execStoReadback (dt : Nat) (ball : Fin 8) (s : State) : Host.Outcome State Fault Refusal :=
  let s := s.advance dt
  let s := { s with halo := { s.halo with stoMis := setBits s.halo.stoMis ball ball 1 } }
  .next ((s.evt STO.pg STO.EVT_READBACK).raise 0xB04 5 0)

/-! ### Safe inputs (R340 to R344) -/

/-- Change the hidden state of input `k`. -/
def State.sfiSet (s : State) (k : Fin 16) (f : SfiIn → SfiIn) : State :=
  { s with halo := { s.halo with sfi := vset s.halo.sfi k (f (vget s.halo.sfi k)) } }

/-- The test line that channel `c2` (false: 1, true: 2) of input `k` is assigned to, if it is tested. -/
def State.sfiLine (s : State) (k : Nat) (c2 : Bool) : Option Nat :=
  if c2 then (if s.on SFI.pg (SFI.CFG_T2EN.ix k) then some (s.get SFI.pg (SFI.CFG_TPO2.ix k)) else none)
  else if s.on SFI.pg (SFI.CFG_T1EN.ix k) then some (s.get SFI.pg (SFI.CFG_TPO1.ix k)) else none

/-- The end tick of the pulse that line `j` started at `t`. -/
def State.tpoEndOf (s : State) (t : Nat) : Nat := t + s.get SFI.pg SFI.TPO_PW * 400

/-- Whether a sample of a channel assigned to line `j` is masked: from the pulse's start until RECOV after its end. -/
def State.sfiMasked (s : State) (line : Option Nat) : Bool :=
  match line with
  | some j =>
    if h : j < 4 then
      match vget s.halo.tpoAt ⟨j, h⟩ with
      | some t => decide (s.now < s.tpoEndOf t + s.get SFI.pg SFI.TPO_RECOV * 400)
      | none => false
    else false
  | none => false

/-- One counted sample of a channel's filter (R341). -/
def SfiChan.sample (c : SfiChan) (safe : Bool) (now lowN highMs : Nat) : SfiChan :=
  if safe then
    let n := c.lows + 1
    { c with lows := n, runSince := none, st := if lowN ≤ n then .safe else c.st, last := true }
  else
    let t := c.runSince.getD now
    { c with lows := 0, runSince := some t, st := if t + highMs * 400000 ≤ now then .run else c.st, last := false }

/-- The reaction of the faults of input `k` (R342). -/
def State.sfiReact (s : State) (k : Nat) : Nat :=
  match s.get SFI.pg (SFI.CFG_ACT.ix k) with
  | 1 => 4
  | 2 => 3
  | _ => 1

/-- A fault of input `k`, with the input number as its auxiliary word (R351). -/
def State.sfiFault (s : State) (k code : Nat) : State :=
  let r := s.sfiReact k
  s.raise code r (if r = 1 then 0 else s.get SFI.pg (SFI.CFG_MACH.ix k)) k

/-- A latch of input `k`: DISC, STUCK or XS. -/
def State.sfiLatched (s : State) (k : Nat) : Bool :=
  s.on SFI.pg (SFI.ST_DISC.ix k) || s.on SFI.pg (SFI.ST_STUCK.ix k) || s.on SFI.pg (SFI.ST_XS.ix k)

/-- A demand of input `k` begins (R341, R342). -/
def State.sfiBegin (s : State) (k : Fin 16) : State :=
  let s := ((s.sfiSet k fun x => { x with demand := true }).putBit SFI.pg SFI.STAT_DEMAND k true).flag SFI.pg
    (SFI.ST_DEMAND.ix k) true
  let s := (s.incSat SFI.pg SFI.CNT_DEMANDS).evt SFI.pg SFI.EVT_DEMAND
  let s := if s.on SFI.pg (SFI.CFG_CONV.ix k) then
      { s with halo := { s.halo with convSfi := true } }.convAssert
    else s
  match s.get SFI.pg (SFI.CFG_ACT.ix k) with
  | 1 => s.stoEval
  | 2 => s.machines (s.get SFI.pg (SFI.CFG_MACH.ix k)) fun s m => if s.stoEff m then s else s.stopSelect m
  | _ => s

/-- The demand of input `k` ends. -/
def State.sfiEnd (s : State) (k : Fin 16) : State :=
  let s := ((s.sfiSet k fun x => { x with demand := false }).putBit SFI.pg SFI.STAT_DEMAND k false).flag SFI.pg
    (SFI.ST_DEMAND.ix k) false
  (s.evt SFI.pg SFI.EVT_DEMAND_END).stoEval

/-- Bring the demand of input `k` in line with its channels and latches (R341). -/
def State.sfiDecide (s : State) (k : Fin 16) : State :=
  let x := vget s.halo.sfi k
  let latch := s.sfiLatched k
  let safe := x.c1.st == .safe || x.c2.st == .safe
  let run := x.c1.st == .run && x.c2.st == .run
  let s := s.flag SFI.pg (SFI.ST_C1_SAFE.ix k) (x.c1.st == .safe)
  let s := (s.flag SFI.pg (SFI.ST_C2_SAFE.ix k) (x.c2.st == .safe)).flag SFI.pg (SFI.ST_RUN.ix k) (run && !latch)
  if (safe || latch) && !x.demand then s.sfiBegin k
  else if x.demand && run && !latch && !s.on SFI.pg (SFI.CFG_MAN.ix k) then s.sfiEnd k
  else s

/-- The discrepancy timer of input `k` at a sample counted on both channels (R343). -/
def State.sfiDiscrepancy (s : State) (k : Fin 16) : State :=
  let p := SFI.pg
  let x := vget s.halo.sfi k
  let latched := s.on p (SFI.ST_DISC.ix k)
  let differ := (x.c1.st == .safe && x.c2.st == .run) || (x.c1.st == .run && x.c2.st == .safe)
  let bothSafe := x.c1.st == .safe && x.c2.st == .safe
  let bothRun := x.c1.st == .run && x.c2.st == .run
  let s := if latched && bothSafe then s.flag p (SFI.ST_REARM.ix k) true else s
  let s := if latched && bothRun && s.on p (SFI.ST_REARM.ix k) then s.sfiSet k fun x => { x with rearmRun := true } else s
  if latched then s
  else if differ then
    let t := x.discAt.getD s.now
    let el := (s.now - t) / 400000
    let s := (s.sfiSet k fun x => { x with discAt := some t }).put p (SFI.ST_DISC_EL.ix k) (min el 1023)
    if s.get p (SFI.CFG_DISC.ix k) ≤ el then
      let s := (s.flag p (SFI.ST_DISC.ix k) true).flag p (SFI.ST_REARM.ix k) false
      let s := (s.sfiSet k fun x => { x with rearmRun := false }).incSat p SFI.CNT_DISCS
      (s.evt p SFI.EVT_DISC).sfiFault k 0xB01
    else s
  else (s.sfiSet k fun x => { x with discAt := none }).put p (SFI.ST_DISC_EL.ix k) 0

/-- A failed test of input `k`: the latch, its event and its fault (R344). -/
def State.sfiTestFail (s : State) (k : Fin 16) (latch evt : Fld) (code : Nat) : State :=
  let s := s.sfiSet k fun x => { x with testOk := false, testBad := true }
  if s.on SFI.pg (latch.ix k) then s
  else (((s.flag SFI.pg (latch.ix k) true).incSat SFI.pg SFI.CNT_TESTFAILS).evt SFI.pg evt).sfiFault k code

/-- The stuck check and the marks of the cross-short check at the last sample inside the pulse of line `j` (R344). -/
def State.sfiInPulse (s : State) (k : Fin 16) (j : Nat) (safe1 safe2 : Bool) : State :=
  let s := s.sfiSet k fun x => { x with testBad := false }
  let a1 := s.sfiLine k false == some j
  let a2 := s.sfiLine k true == some j
  let s := if (a1 && !safe1) || (a2 && !safe2) then s.sfiTestFail k SFI.ST_STUCK SFI.EVT_STUCK 0xB02 else s
  s.sfiSet k fun x => { x with
    c1 := { x.c1 with inPulse := if !a1 && safe1 then some j else none }
    c2 := { x.c2 with inPulse := if !a2 && safe2 then some j else none } }

/-- The cross-short check at the first sample after the pulse of line `j`, and the verdict of the test (R344). -/
def State.sfiAfterPulse (s : State) (k : Fin 16) (j : Nat) (safe1 safe2 : Bool) : State :=
  let x := vget s.halo.sfi k
  let xs := (x.c1.inPulse == some j && !safe1) || (x.c2.inPulse == some j && !safe2)
  let s := s.sfiSet k fun x => { x with c1 := { x.c1 with inPulse := none }, c2 := { x.c2 with inPulse := none } }
  let s := if xs then s.sfiTestFail k SFI.ST_XS SFI.EVT_XS 0xB03 else s
  let own := s.sfiLine k false == some j || s.sfiLine k true == some j
  if own && !(vget s.halo.sfi k).testBad then s.sfiSet k fun x => { x with testOk := true } else s

/-- One sample of input `k`, whose two channels read the levels given (R340 to R344). -/
def State.sfiInput (s : State) (k : Fin 16) (lv1 lv2 : Bool) : State :=
  let p := SFI.pg
  if ¬ s.on p (SFI.CFG_EN.ix k) then
    let s := if (vget s.halo.sfi k).demand then s.sfiEnd k else s
    (s.sfiSet k fun _ => SfiIn.idle).put p (SFI.ST.ix k) 0
  else
    let safe1 := !lv1
    let safe2 := if s.on p (SFI.CFG_ANTI.ix k) then lv2 else !lv2
    let m1 := s.sfiMasked (s.sfiLine k false)
    let m2 := s.sfiMasked (s.sfiLine k true)
    let lowN := s.get p SFI.FILT_LOWN
    let high := s.get p SFI.FILT_HIGH_MS
    let s := (List.finRange 4).foldl (fun s (j : Fin 4) =>
      match vget s.halo.tpoAt j with
      | some t =>
        let e := s.tpoEndOf t
        if t ≤ s.now ∧ s.now < e ∧ e ≤ s.now + 400 then s.sfiInPulse k j safe1 safe2
        else if e ≤ s.now ∧ s.now < e + 400 then s.sfiAfterPulse k j safe1 safe2
        else s
      | none => s) s
    let s := s.sfiSet k fun x => { x with
      c1 := if m1 then x.c1 else x.c1.sample safe1 s.now lowN high
      c2 := if m2 then x.c2 else x.c2.sample safe2 s.now lowN high }
    let s := if m1 || m2 then s else s.sfiDiscrepancy k
    s.sfiDecide k

/-! ### Brakes (R348, R349) -/

/-- The feedback of channel `c` that its outputs ask for: FB1 in bit 0, FB2 in bit 1 (R348). -/
def sbcExpect (out : Nat) : Nat :=
  match out with
  | 1 => 3
  | 3 => 1
  | _ => 0

/-- A feedback mismatch of channel `c`. -/
def State.sbcFault (s : State) (c : Fin 2) : State :=
  let p := SSF.pg
  let s := (s.sbcApply c).put p (SSF.SBCST_STATE.ix c) 3
  let s := (s.putBit p SSF.STAT_SBC_FLT c true).evt p SSF.EVT_SBC_FAULT
  s.raise 0xB0A 3 (s.get p (SSF.SBCCFG_MACH.ix c))

/-- The feedback levels of channel `c` at a sample (R348). -/
def State.sbcSample (s : State) (c : Fin 2) (fb : Nat) : State :=
  let p := SSF.pg
  let s := (s.sbcSet c fun b => { b with fb := fb }).put p (SSF.SBCST_FB.ix c) fb
  let st := s.get p (SSF.SBCST_STATE.ix c)
  let b := vget s.halo.sbc c
  if st ≤ 1 ∧ b.changeAt + s.get p (SSF.SBCCFG_SETTLE.ix c) * 400000 ≤ s.now ∧
      fb ≠ sbcExpect (s.get p (SSF.SBCST_OUT.ix c)) then s.sbcFault c
  else s

/-- Fault 0xA08: the records of the two samplers differ (R318); its stamp and word are those of the HS pair (R351). -/
def State.sampleXchg (s : State) : State :=
  (s.evt LKS.pg LKS.EVT_XCHG).raiseAt 0xA08 5 0 (s.rd (fldAddr LKS.pg (LKS.PLAST.ix 2))).toNat
    (s.get64 LKS.pg (LKS.PSTAMP_LO.ix 2))

/-- An agreed record goes to the HS pair when it differs from the last one (R318, R340). -/
def State.sfiRecord (s : State) (v : W32) : State :=
  if s.lks.lastRec = some v then s
  else { s with lks := { s.lks with recs := s.lks.recs ++ [v], lastRec := some v } }

/-- SFI_SAMPLE: the record that each sampler formed (`SFIk_1` in bit k, `SFIk_2` in bit 16 + k) and the four brake
feedback levels, FB1 and FB2 of channel 0 first. -/
def execSfiSample (dt : Nat) (rec1 rec2 : BitVec 32) (fb : BitVec 4) (s : State) : Host.Outcome State Fault Refusal :=
  let s := s.advance dt
  if s.now % 400 = 0 ∧ s.dstate ≠ .off then
    let s := (s.sbcSample 0 (fb.toNat % 4)).sbcSample 1 (fb.toNat / 4)
    if rec1 = rec2 then
      let s := s.sfiRecord rec1
      .next ((List.finRange 16).foldl (fun s (k : Fin 16) =>
        s.sfiInput k (rec1.toNat.testBit k) (rec1.toNat.testBit (16 + k))) s)
    else .next s.sampleXchg
  else .next s

/-- TPO_PULSE_START: line `j` goes low, at a multiple of PER plus j·PER/4. -/
def execTpoPulseStart (dt : Nat) (j : Fin 4) (s : State) : Host.Outcome State Fault Refusal :=
  let s := s.advance dt
  let per := s.get SFI.pg SFI.TPO_PER * 400000
  if s.bitOn SFI.pg SFI.FILT_TPO_EN j ∧ s.now % per = j * per / 4 ∧ s.dstate ≠ .off then
    .next { s with halo := { s.halo with
      tpoAt := vset s.halo.tpoAt j (some s.now), tpoEnd := vset s.halo.tpoEnd j none } }
  else .next s

/-- TPO_PULSE_END: line `j` returns high, PW after its start. -/
def execTpoPulseEnd (dt : Nat) (j : Fin 4) (s : State) : Host.Outcome State Fault Refusal :=
  let s := s.advance dt
  match vget s.halo.tpoAt j, vget s.halo.tpoEnd j with
  | some t, none =>
    if s.tpoEndOf t ≤ s.now then .next { s with halo := { s.halo with tpoEnd := vset s.halo.tpoEnd j (some s.now) } }
    else .next s
  | _, _ => .next s

/-- The level of test-pulse output `j`. -/
def State.tpoLevel (s : State) (j : Fin 4) : Bool :=
  match vget s.halo.tpoAt j, vget s.halo.tpoEnd j with
  | some _, none => false
  | _, _ => s.dstate != .off

/-- `SFI_CMD` ACK of input `k` (R341, R343, R344): what may clear clears, and NOT_READY tells that something remains. -/
def State.sfiAck (s : State) (k : Fin 16) : State :=
  let p := SFI.pg
  if ¬ s.on p (SFI.CFG_EN.ix k) then s.status p SFI.CMD_LAST_STS .illegalState
  else
    let x := vget s.halo.sfi k
    let s := if s.on p (SFI.ST_DISC.ix k) && x.rearmRun then
        let s := ((s.flag p (SFI.ST_DISC.ix k) false).flag p (SFI.ST_REARM.ix k) false).put p (SFI.ST_DISC_EL.ix k) 0
        s.sfiSet k fun x => { x with discAt := none, rearmRun := false }
      else s
    let s := if x.testOk then (s.flag p (SFI.ST_STUCK.ix k) false).flag p (SFI.ST_XS.ix k) false else s
    let latch := s.sfiLatched k
    let run := x.c1.st == .run && x.c2.st == .run
    let s := s.flag p (SFI.ST_RUN.ix k) (run && !latch)
    let s := if x.demand && run && !latch then s.sfiEnd k else s
    if latch || (vget s.halo.sfi k).demand then s.status p SFI.CMD_LAST_STS .notReady
    else s.status p SFI.CMD_LAST_STS .done

/-- The commands of `SFI_CMD`. -/
def State.sfiCmd (s : State) (op : Nat) (k : Fin 16) : State :=
  match op with
  | 1 => s.sfiAck k
  | 2 => s.command SFI.pg SFI.CMD_LAST_STS true fun s => s.setWord SFI.pg SFI.CNT 0
  | _ => s.status SFI.pg SFI.CMD_LAST_STS .unknown

/-- SFI_ACK: ACK of input `k`. -/
def execSfiAck (dt : Nat) (req : Req) (k : Fin 16) (s : State) : Host.Outcome State Fault Refusal :=
  .next ((s.advance dt).haloCmd req SFI.pg SFI.CMD_LAST_STS fun s => s.sfiCmd 1 k)

/-- SFI_CLR_CNT: the counts to 0. -/
def execSfiClrCnt (dt : Nat) (req : Req) (s : State) : Host.Outcome State Fault Refusal :=
  .next ((s.advance dt).haloCmd req SFI.pg SFI.CMD_LAST_STS fun s => s.sfiCmd 2 0)

/-! ### Stop functions (R345 to R349) -/

/-- The brake channels of a mask. -/
def sbcChans (mask : Nat) : List (Fin 2) := (List.finRange 2).filter fun c => mask.testBit c

/-- Release the brake of channel `c`. -/
def State.sbcRelease (s : State) (c : Fin 2) : State :=
  let p := SSF.pg
  if s.get p (SSF.SBCST_STATE.ix c) = 0 then
    let s := s.sbcSet c fun b => { b with changeAt := s.now, relAt := s.now, applyAt := none, test := none }
    ((s.put p (SSF.SBCST_OUT.ix c) 3).put p (SSF.SBCST_STATE.ix c) 1).putBit p SSF.STAT_RELEASED c true
  else s.sbcSet c fun b => { b with applyAt := none }

/-- BRAKE_RELEASE is accepted only with STO out of effect on the channel's machines and no FAULT; BOOT holds the outputs
low (R349). -/
def State.sbcFree (s : State) (c : Fin 2) : Bool :=
  s.dstate != .boot && s.get SSF.pg (SSF.SBCST_STATE.ix c) != 3 &&
    [0, 1, 2].all fun m => !s.bitOn SSF.pg (SSF.SBCCFG_MACH.ix c) m || !s.stoEff m

/-- SBC_ACK of channel `c`. -/
def State.sbcAck (s : State) (c : Fin 2) : State :=
  let p := SSF.pg
  (s.put p (SSF.SBCST_STATE.ix c) 0).putBit p SSF.STAT_SBC_FLT c false

/-- The commands of `SSF_CMD` (R345, R348, R349). -/
def State.ssfCmd (s : State) (op mask ch : Nat) : State :=
  let p := SSF.pg
  let run (ok : Bool) (f : State → State) := s.command p SSF.CMD_LAST_STS ok f
  match op with
  | 1 => run true fun s => s.machines mask State.stopSelect
  | 2 => run true fun s => (sbcChans ch).foldl State.sbcApply s
  | 3 => run ((sbcChans ch).all fun c => s.sbcFree c) fun s => (sbcChans ch).foldl State.sbcRelease s
  | 4 =>
    if (sbcChans ch).all fun c => s.get p (SSF.SBCST_STATE.ix c) == 3 then
      if (sbcChans ch).all fun c => (vget s.halo.sbc c).fb == 0 then
        ((sbcChans ch).foldl State.sbcAck s).status p SSF.CMD_LAST_STS .done
      else s.status p SSF.CMD_LAST_STS .notReady
    else s.status p SSF.CMD_LAST_STS .illegalState
  | 5 => run true fun s => s.setWord p SSF.CNT 0
  | _ => s.status p SSF.CMD_LAST_STS .unknown

/-- A command of the SSF page. -/
def State.ssfOp (s : State) (req op mask ch : Nat) : State :=
  s.haloCmd req SSF.pg SSF.CMD_LAST_STS fun s => s.ssfCmd op mask ch

/-- SSF_SS1: the stop selection of the machines of the mask. -/
def execSsfSs1 (dt : Nat) (req : Req) (mask : BitVec 3) (s : State) : Host.Outcome State Fault Refusal :=
  .next ((s.advance dt).ssfOp req 1 mask.toNat 0)

/-- SSF_BRAKE_APPLY: the named channels at once. -/
def execSsfBrakeApply (dt : Nat) (req : Req) (ch : BitVec 2) (s : State) : Host.Outcome State Fault Refusal :=
  .next ((s.advance dt).ssfOp req 2 0 ch.toNat)

/-- SSF_BRAKE_RELEASE. -/
def execSsfBrakeRelease (dt : Nat) (req : Req) (ch : BitVec 2) (s : State) : Host.Outcome State Fault Refusal :=
  .next ((s.advance dt).ssfOp req 3 0 ch.toNat)

/-- SSF_SBC_ACK: clears FAULT while the applied pattern reads back. -/
def execSsfSbcAck (dt : Nat) (req : Req) (ch : BitVec 2) (s : State) : Host.Outcome State Fault Refusal :=
  .next ((s.advance dt).ssfOp req 4 0 ch.toNat)

/-- SSF_CLR_CNT: the counts to 0. -/
def execSsfClrCnt (dt : Nat) (req : Req) (s : State) : Host.Outcome State Fault Refusal :=
  .next ((s.advance dt).ssfOp req 5 0 0)

/-- SS1_TIMEOUT: T_WIN has passed without standstill. -/
def execSs1Timeout (dt : Nat) (m : Fin 3) (s : State) : Host.Outcome State Fault Refusal :=
  let s := s.advance dt
  if s.bitOn SSF.pg SSF.STAT_SS1 m ∧ (s.stopH m).t0 + s.get SSF.pg (SSF.TIMES_T_WIN.ix m) * 400000 ≤ s.now then
    .next (s.escalate m 0xB08)
  else .next s

/-- SBC_APPLY_DELAY: DLY after the STO function took effect. -/
def execSbcApplyDelay (dt : Nat) (c : Fin 2) (s : State) : Host.Outcome State Fault Refusal :=
  let s := s.advance dt
  match (vget s.halo.sbc c).applyAt with
  | some t => if t ≤ s.now then .next (s.sbcApply c) else .next s
  | none => .next s

/-- SBC_TEST_START: a periodic test of HS, or half a period later of LS. -/
def execSbcTestStart (dt : Nat) (c : Fin 2) (ls : Bool) (s : State) : Host.Outcome State Fault Refusal :=
  let s := s.advance dt
  let p := SSF.pg
  let per := s.get p (SSF.SBCCFG_TST_PER.ix c) * 40000000
  let t := s.now - (vget s.halo.sbc c).relAt
  let due := if ls then decide (per < t ∧ t % per = per / 2) else decide (0 < t ∧ t % per = 0)
  if s.get p (SSF.SBCST_STATE.ix c) = 1 ∧ due then
    .next (((s.sbcSet c fun b => { b with changeAt := s.now, test := some (ls, s.now) }).put p (SSF.SBCST_OUT.ix c)
      (if ls then 1 else 2)).put p (SSF.SBCST_STATE.ix c) 2)
  else .next s

/-- SBC_TEST_END: TST_PW has passed; the feedback at the last sample is checked and the brake is released again. -/
def execSbcTestEnd (dt : Nat) (c : Fin 2) (fb1 fb2 : Bool) (s : State) : Host.Outcome State Fault Refusal :=
  let s := s.advance dt
  let p := SSF.pg
  match (vget s.halo.sbc c).test with
  | some (_, t) =>
    if t + s.get p (SSF.SBCCFG_TST_PW.ix c) * 4000 ≤ s.now then
      let fb := b2n fb1 + 2 * b2n fb2
      let s := (s.sbcSet c fun b => { b with fb := fb }).put p (SSF.SBCST_FB.ix c) fb
      if fb = sbcExpect (s.get p (SSF.SBCST_OUT.ix c)) then
        .next (((s.sbcSet c fun b => { b with changeAt := s.now, test := none }).put p (SSF.SBCST_OUT.ix c) 3).put p
          (SSF.SBCST_STATE.ix c) 1)
      else .next (s.sbcFault c)
    else .next s
  | none => .next s

end Sys2Proof.Machine
end

