-- ==== Sys2Proof/Machine/Ack.lean ====
section
/-! DEFINITION. `HLO_CMD` ACK: which conditions keep a latched FR3 or FR4 (R112, R332). -/

namespace Sys2Proof.Machine
open Sys2Proof

/-- A condition of a supervisor fault of reaction FR3 or FR4 (0x603, 0x604, 0x608, 0x609, 0x60A, 0x60B) is present, or
the position unit is FAILED (0x50B). -/
def State.msvCondition (s : State) (m : Nat) : Bool :=
  let h := s.msvH m
  s.posState m == 5 || s.msvSt m != 0 && (
    s.on (MSV.pg m) MSV.STAT_OV_FORCE || decide (2 ≤ h.inval) ||
    fle (s.msvK m 6) (fabs (s.rd (fldAddr (POS.pg m) POS.SPD))) ||
    ((List.finRange 6).any fun (i : Fin 6) => decide (2 ≤ vget h.oc i)) ||
    ((List.finRange 2).any fun (i : Fin 2) => decide (4 ≤ vget h.sum i)))

/-- A fast group that machine m reads stands on a failed reference or a converter at its calibration limit (0x301, 0x304). -/
def State.adfCondition (s : State) (m : Nat) : Bool :=
  (List.range 8).any fun g =>
    (s.adfMachines g).testBit m &&
      (decide (3 ≤ vget s.adr.mon (if g / 4 = 0 then 0 else 1)) ||
        [0, 1, 2, 3].any fun c => if h : 4 * g + c < 36 then (vget s.adr.conv ⟨4 * g + c, h⟩).limit else false)

/-- An enabled context of machine m whose REACT is FR3 or FR4 is late, trips a COMPARE, or has a failed engine. -/
def State.ctxCondition (s : State) (m : Nat) : Bool :=
  (List.range 256).any fun k =>
    let p := CTX.pg k
    s.on p CTX.CFG_EN && s.get p CTX.CFG_MSV == m && decide (2 ≤ s.get p CTX.CFG_REACT) &&
      (decide (s.get p CTX.CFG_LATE_MAX ≤ s.get p CTX.RUN_LATE_RUN) || (s.ctxH k).cmpRaised != 0 ||
        (s.ctxEngines k).any fun e => s.bitOn CIR.pg CIR.ENGSTAT_FAILED e)

/-- A condition of a brake channel in FAULT (0xB0A) or of a peer subscription (0xF08, 0xF09) that names machine m. -/
def State.haloCondition (s : State) (m : Nat) : Bool :=
  ((List.range 2).any fun c => s.bitOn SSF.pg SSF.STAT_SBC_FLT c && s.bitOn SSF.pg (SSF.SBCCFG_MACH.ix c) m) ||
  ((List.finRange 8).any fun (k : Fin 8) =>
    let h := vget s.clf.peers k
    (h.demand || h.timeout) && s.on CLF.pg (CLF.PSUB_EN.ix k) && s.bitOn CLF.pg (CLF.PSUB_MACH.ix k) m) ||
  s.sfiDemand 1 m || s.sfiDemand 2 m

/-- ACK on one machine (R112, R332): its tri-legs are examined, and its latches clear if no condition remains. The answer
tells whether a latch remains. -/
def State.ackMachine (s : State) (m : Fin 3) : Bool × State :=
  let (a, s) := s.tpwAck ⟨2 * m.1, by omega⟩
  let (b, s) := if s.isSix m then s.tpwAck ⟨2 * m.1 + 1, by omega⟩ else (false, s)
  let p := HLO.pg
  let latched := s.bitOn p HLO.STAT_FR3 m || s.bitOn p HLO.STAT_FR4 m
  if a || b || s.msvCondition m || s.adfCondition m || s.ctxCondition m || s.haloCondition m then (latched, s)
  else (false, ((s.putBit p HLO.STAT_FR3 m false).putBit p HLO.STAT_FR4 m false).stoEval)

/-- ACK of the machines of a mask. -/
def State.hloAck (s : State) (mask : Nat) : State :=
  let p := HLO.pg
  let ms := (List.finRange 3).filter fun (m : Fin 3) => mask.testBit m
  if ms.all fun (m : Fin 3) => s.stoEff m then
    let (rest, s) := ms.foldl (fun (a : Bool × State) (m : Fin 3) =>
      let (r, s) := a.2.ackMachine m
      (a.1 || r, s)) (false, s)
    s.status p HLO.CMD_LAST_STS (if rest then .notReady else .done)
  else s.status p HLO.CMD_LAST_STS .illegalState

/-- HLO_ACK: HS only. -/
def execHloAck (dt : Nat) (req : Req) (mask : BitVec 3) (s : State) : Host.Outcome State Fault Refusal :=
  .next ((s.advance dt).haloCmd req HLO.pg HLO.CMD_LAST_STS fun s => s.hloAck mask.toNat)

end Sys2Proof.Machine
end

