-- ==== Sys2Proof/Machine/Can.lean ====
section
/-! DEFINITION. The CAN FD controllers (R411 to R424). -/

namespace Sys2Proof.Machine
open Sys2Proof

/-- Change the hidden state of controller `i`. -/
def State.canSet (s : State) (i : Fin 4) (f : CanH → CanH) : State := { s with canH := vset s.canH i (f (vget s.canH i)) }

/-- The number of data bytes of a data length code. -/
def dlcBytes (dlc : Nat) : Nat :=
  if dlc ≤ 8 then dlc
  else match dlc with
    | 9 => 12
    | 10 => 16
    | 11 => 20
    | 12 => 24
    | 13 => 32
    | 14 => 48
    | _ => 64

/-- Word `w` of the data, with the bytes past the length 0. -/
def canWord (f : CanFrame) (w : Nat) : W32 :=
  let n := if f.fdf then dlcBytes f.dlc else min f.dlc 8
  let v := (f.data.getD w 0).toNat
  BitVec.ofNat 32 (if 4 * w + 4 ≤ n then v else if n ≤ 4 * w then 0 else v % 2 ^ (8 * (n - 4 * w)))

/-- The ID word of a frame (R424). -/
def canIdWord (f : CanFrame) : W32 := BitVec.ofNat 32 (b2n f.ide * 2 ^ 31 + f.id % 2 ^ 29)

/-- The CTL word of a frame (R424). -/
def canCtlWord (f : CanFrame) : W32 :=
  BitVec.ofNat 32 (b2n f.fdf * 2 ^ 31 + b2n f.brs * 2 ^ 30 + b2n f.esi * 2 ^ 29 + f.dlc * 2 ^ 16)

/-- Show a frame and its stamp in the read window at offset `base` (R420, R424); an empty queue shows 0. -/
def State.canWindow (s : State) (i : Fin 4) (base : Nat) (e : Option (CanFrame × Nat)) : State :=
  let p := CAN.pg i
  let put (s : State) (off : Nat) (v : W32) := s.setWord p ⟨base + off, 31, 0, 0⟩ v
  match e with
  | some (f, t) =>
    let s := (put (put s 0 (canIdWord f)) 4 (canCtlWord f)).put64 p ⟨base + 8, 31, 0, 0⟩ t
    (List.range 16).foldl (fun s w => put s (0x10 + 4 * w) (canWord f w)) s
  | none => (List.range 20).foldl (fun s w => put s (4 * w) 0) s

/-- Bring the queue counts and the read windows in line with the queues (R420). -/
def State.canShow (s : State) (i : Fin 4) : State :=
  let h := vget s.canH i
  let p := CAN.pg i
  let s := ((s.put p CAN.FSTAT_TX h.fifo.length).put p CAN.FSTAT_RX h.rx.length).put p CAN.FSTAT_HP h.hp.length
  ((s.flag p CAN.FSTAT_TXU_BUSY h.txu.isSome).canWindow i 0x100 h.rx.head?).canWindow i 0x180 h.hp.head?

/-- Controller `i` takes a new state. -/
def State.canGo (s : State) (i : Fin 4) (st : Nat) : State :=
  let old := s.get (CAN.pg i) CAN.STAT_STATE
  (s.put (CAN.pg i) CAN.STAT_STATE st).evtIf (old != st) (CAN.pg i) CAN.EVT_STATE

/-- The state that the counters demand (R415). -/
def State.canCheck (s : State) (i : Fin 4) : State :=
  let p := CAN.pg i
  let st := s.get p CAN.STAT_STATE
  let tec := s.get p CAN.ECNT_TEC
  let high := decide (127 < tec ∨ 127 < s.get p CAN.ECNT_REC)
  if (st = 1 ∨ st = 2) ∧ 255 < tec then
    let s := ((s.canSet i fun h => { h with sending := none }).canGo i 3).raise 0xE02 1 0
    if s.on p CAN.MODE_AUTO_REC then s.canGo i 4 else s
  else if st = 1 ∧ high then (s.canGo i 2).raise 0xE01 1 0
  else if st = 2 ∧ ¬ high then s.canGo i 1
  else s

/-- The frame under transmission ends: a pending STOP, TXU_ABORT or FLUSH takes effect (R415, R418). -/
def State.canEnd (s : State) (i : Fin 4) : State :=
  let h := vget s.canH i
  let s := (s.canSet i fun h => h.settle s.now).canShow i
  if h.stopping then s.canGo i 0 else s

/-- Add to the error counters: TEC has 9 bits and REC saturates at 255. -/
def State.canCount (s : State) (i : Fin 4) (tec rec : Nat) : State :=
  let p := CAN.pg i
  (s.put p CAN.ECNT_TEC (min 511 (s.get p CAN.ECNT_TEC + tec))).put p CAN.ECNT_REC (min 255 (s.get p CAN.ECNT_REC + rec))

/-! ### Commands (R412, R415, R418, R424) -/

/-- The commands of `CAN_CMD`. -/
def State.canCmd (s : State) (i : Fin 4) (op : Nat) : State :=
  let p := CAN.pg i
  let st := s.get p CAN.STAT_STATE
  let h := vget s.canH i
  let run (ok : Bool) (f : State → State) := s.command p CAN.CMD_LAST_STS ok f
  match op with
  | 1 => run (st == 0 && s.dstate.running && s.get TBU.pg TBU.STAT_SRC != 0) fun s =>
      s.canSet i fun h => { h with starting := true }
  | 2 => run true fun s =>
      if h.sending.isSome then s.canSet i fun h => { h with stopping := true }
      else (s.canSet i fun h => { h with starting := false }).canGo i 0
  | 3 => run (st == 3) fun s => s.canGo i 4
  | 4 => run true fun s =>
      (if h.sending = some .txu then s.canSet i fun h => { h with txuDrop := true }
       else s.canSet i fun h => { h with txu := none }).canShow i
  | 5 => run true fun s =>
      (if h.sending = some .head then s.canSet i fun h => { h with headDrop := true, fifo := h.fifo.take 1 }
       else s.canSet i fun h => { h with fifo := [] }).canShow i
  | 6 => run true fun s => s.setWord p CAN.CNT 0
  | _ => s.status p CAN.CMD_LAST_STS .unknown

/-- CAN_START: out of INIT. -/
def execCanStart (dt : Nat) (_req : Req) (i : Fin 4) (s : State) : Host.Outcome State Fault Refusal :=
  .next ((s.advance dt).blockCmd (CAN.pg i) CAN.CMD_LAST_STS fun s => s.canCmd i 1)

/-- CAN_STOP: back to INIT, after a frame in transmission; in INIT it takes back a START that still waits for its idle bits
(DEDUCED: R424 names no state for STOP, log 95). -/
def execCanStop (dt : Nat) (_req : Req) (i : Fin 4) (s : State) : Host.Outcome State Fault Refusal :=
  .next ((s.advance dt).blockCmd (CAN.pg i) CAN.CMD_LAST_STS fun s => s.canCmd i 2)

/-- CAN_RECOVER: BUS_OFF to RECOVERING. -/
def execCanRecover (dt : Nat) (_req : Req) (i : Fin 4) (s : State) : Host.Outcome State Fault Refusal :=
  .next ((s.advance dt).blockCmd (CAN.pg i) CAN.CMD_LAST_STS fun s => s.canCmd i 3)

/-- CAN_TXU_ABORT: empties the urgent buffer. -/
def execCanTxuAbort (dt : Nat) (_req : Req) (i : Fin 4) (s : State) : Host.Outcome State Fault Refusal :=
  .next ((s.advance dt).blockCmd (CAN.pg i) CAN.CMD_LAST_STS fun s => s.canCmd i 4)

/-- CAN_FLUSH: empties the transmit FIFO. -/
def execCanFlush (dt : Nat) (_req : Req) (i : Fin 4) (s : State) : Host.Outcome State Fault Refusal :=
  .next ((s.advance dt).blockCmd (CAN.pg i) CAN.CMD_LAST_STS fun s => s.canCmd i 5)

/-- CAN_CLR_CNT: the counts to 0. -/
def execCanClrCnt (dt : Nat) (_req : Req) (i : Fin 4) (s : State) : Host.Outcome State Fault Refusal :=
  .next ((s.advance dt).blockCmd (CAN.pg i) CAN.CMD_LAST_STS fun s => s.canCmd i 6)

/-! ### Pushes and pops (R416, R420) -/

/-- The requesters that build frames (R416). -/
def canWriter (req : Nat) : Bool := req == 0 || req == 1 || req == 2 || req == 11

/-- The key of word offset `off` of the staging window of requester `req`. -/
def canWinKey (i : Fin 4) (off req : Nat) : Nat := (pageBase (CAN.pg i) + off) * 16 + req

/-- A word of a staging window. -/
def State.canWinRd (s : State) (i : Fin 4) (off req : Nat) : W32 := mapGet (fun _ => 0) s.canWin (canWinKey i off req)

/-- A write to a word of the staging window (R416). -/
def State.canWinWr (s : State) (i : Fin 4) (off req : Nat) (v : W32) : State :=
  if canWriter req then { s with canWin := mapSet (fun _ => 0) s.canWin (canWinKey i off req) v } else s.refuse (CAN.pg i)

/-- The frame in a staging window. -/
def State.canStaged (s : State) (i : Fin 4) (req : Nat) : CanFrame :=
  let id := (s.canWinRd i 0x80 req).toNat
  let ctl := (s.canWinRd i 0x84 req).toNat
  { ide := bit id 31, id := bits id 28 0, fdf := bit ctl 31, brs := bit ctl 30, esi := bit ctl 29, rtr := false
    dlc := ⟨bits ctl 19 16, by unfold bits; omega⟩
    data := (List.range 16).map fun w => s.canWinRd i (0x88 + 4 * w) req }

/-- A write to `CAN_TXPUSH` (R416). -/
def State.canPush (s : State) (i : Fin 4) (req push : Nat) : State :=
  let p := CAN.pg i
  let h := vget s.canH i
  let f := s.canStaged i req
  let bad := (push == 1 && decide (16 ≤ h.fifo.length)) || (push == 2 && h.txu.isSome) ||
    (!f.fdf && decide (8 < f.dlc.1)) || s.on p CAN.MODE_LISTEN
  if ¬ canWriter req then s.refuse p
  else if push ≠ 1 ∧ push ≠ 2 then s
  else if bad then (s.incSat p CAN.CNT_TXFULL).refuse p
  else if push = 1 then
    (s.canSet i fun h => { h with
      fifo := h.fifo ++ [f], headAt := if h.fifo = [] then s.now else h.headAt
      headRaised := if h.fifo = [] then false else h.headRaised }).canShow i
  else (s.canSet i fun h => { h with txu := some f }).canShow i

/-- CAN_PUSH_FIFO: PUSH 1. -/
def execCanPushFifo (dt : Nat) (req : Req) (i : Fin 4) (s : State) : Host.Outcome State Fault Refusal :=
  .next ((s.advance dt).canPush i req 1)

/-- CAN_PUSH_TXU: PUSH 2. -/
def execCanPushTxu (dt : Nat) (req : Req) (i : Fin 4) (s : State) : Host.Outcome State Fault Refusal :=
  .next ((s.advance dt).canPush i req 2)

/-- A write of 1 to `CAN_RXPOP` (R420). -/
def State.canRxPop (s : State) (i : Fin 4) : State :=
  if (vget s.canH i).rx = [] then s.refuse (CAN.pg i) else (s.canSet i fun h => { h with rx := h.rx.tail }).canShow i

/-- A write of 1 to `CAN_HPPOP` (R420). -/
def State.canHpPop (s : State) (i : Fin 4) : State :=
  if (vget s.canH i).hp = [] then s.refuse (CAN.pg i) else (s.canSet i fun h => { h with hp := h.hp.tail }).canShow i

/-- CAN_RXPOP: the oldest frame of the receive FIFO is removed. -/
def execCanRxpop (dt : Nat) (_req : Req) (i : Fin 4) (s : State) : Host.Outcome State Fault Refusal :=
  .next ((s.advance dt).canRxPop i)

/-- CAN_HPPOP: the oldest frame of the high-priority buffer is removed. -/
def execCanHppop (dt : Nat) (_req : Req) (i : Fin 4) (s : State) : Host.Outcome State Fault Refusal :=
  .next ((s.advance dt).canHpPop i)

/-! ### The bus (R417 to R422) -/

/-- Whether the controller takes part in traffic: ACTIVE or PASSIVE. -/
def State.canLive (s : State) (i : Fin 4) : Bool :=
  s.get (CAN.pg i) CAN.STAT_STATE == 1 || s.get (CAN.pg i) CAN.STAT_STATE == 2

/-- CAN_START_OF_FRAME: the stamp and the filter set are taken, and TXU or else the FIFO head is offered. -/
def execCanStartOfFrame (dt : Nat) (i : Fin 4) (s : State) : Host.Outcome State Fault Refusal :=
  let s := s.advance dt
  if s.canLive i then
    let h := vget s.canH i
    let offer : Option CanSrc :=
      if s.on (CAN.pg i) CAN.MODE_LISTEN then none
      else if h.txu.isSome then some .txu
      else if h.fifo ≠ [] then some .head
      else none
    .next (s.canSet i fun h => { h with
      sofAt := s.now, sending := offer
      filt := (List.range 64).map fun k => s.rd (pageBase (CAN.pg i) + 0x200 + 4 * k) })
  else .next s

/-- Where the filters send a frame (R419): 0 reject, 1 receive FIFO, 2 high-priority buffer. -/
def canTarget (filt : List W32) (dflt : Nat) (f : CanFrame) : Nat :=
  let hit (k : Nat) : Bool :=
    let id := (filt.getD (2 * k) 0).toNat
    let m := (filt.getD (2 * k + 1) 0).toNat
    bit id 31 && bit m 31 == f.ide && ((bits id 28 0 ^^^ f.id % 2 ^ 29) &&& bits m 28 0) == 0
  match (List.range 32).find? hit with
  | some k => bits (filt.getD (2 * k) 0).toNat 30 29
  | none => dflt

/-- A frame with its stamp passes the filters into its queue (R419, R420). -/
def State.canDeliver (s : State) (i : Fin 4) (f : CanFrame) : State :=
  let p := CAN.pg i
  let h := vget s.canH i
  match canTarget h.filt (s.get p CAN.MODE_DEFAULT) f with
  | 1 =>
    if 32 ≤ h.rx.length then ((s.incSat p CAN.CNT_RXOVR).evt p CAN.EVT_OVR).raise 0xE03 0 0
    else ((s.canSet i fun h => { h with rx := h.rx ++ [(f, h.sofAt)] }).canShow i).evt p CAN.EVT_RX
  | 2 =>
    if 4 ≤ h.hp.length then
      (((s.canSet i fun h => { h with hp := h.hp.tail ++ [(f, h.sofAt)] }).canShow i).incSat p CAN.CNT_HPOVR).evt p
        CAN.EVT_HP |>.evt p CAN.EVT_OVR |>.raise 0xE04 1 0
    else ((s.canSet i fun h => { h with hp := h.hp ++ [(f, h.sofAt)] }).canShow i).evt p CAN.EVT_HP
  | _ => s

/-- CAN_TX_DONE: the offered frame completes with its start-of-frame stamp; `tdc` is the delay that R414 measures. An FD
frame does not complete while `MODE.FD` is 0 (DEDUCED from R424: it is a form error, log 95). -/
def execCanTxDone (dt : Nat) (i : Fin 4) (tdc : Fin 128) (s : State) : Host.Outcome State Fault Refusal :=
  let s := s.advance dt
  let p := CAN.pg i
  let h := vget s.canH i
  let frame := match h.sending with
    | some .txu => h.txu
    | some .head => h.fifo.head?
    | none => none
  match s.canLive i, frame.filter fun f => !f.fdf || s.on p CAN.MODE_FD with
  | true, some f =>
    let isTxu := h.sending == some .txu
    let s := (s.put64 p CAN.TXSTAMP_LO h.sofAt).evt p CAN.EVT_TXDONE
    let s := s.evtIf isTxu p CAN.EVT_TXU_DONE
    let s := if s.on p CAN.TDC_EN && f.fdf then s.put p CAN.TDC_TDCV tdc else s
    let s := s.put p CAN.ECNT_TEC (s.get p CAN.ECNT_TEC - 1)
    let s := if isTxu then s.canSet i fun h => { h with txu := none, txuDrop := false }
      else s.canSet i fun h => { h with
        fifo := h.fifo.tail, headDrop := false, headAt := s.now, headRaised := false }
    let s := if s.on p CAN.MODE_LOOP then s.canDeliver i { f with esi := s.get p CAN.STAT_STATE == 2 } else s
    .next ((s.canCheck i).canEnd i)
  | _, _ => .next s

/-- A frame is received without error: REC falls by 1, or from above 127 to some value of 119 to 127 (ISO 11898-1). -/
def State.canGood (s : State) (i : Fin 4) : State :=
  let p := CAN.pg i
  let r := s.get p CAN.ECNT_REC
  if s.on p CAN.MODE_LISTEN then s
  else if 127 < r then
    let (n, s) := s.freshNat
    s.put p CAN.ECNT_REC (119 + n % 9)
  else s.put p CAN.ECNT_REC (r - 1)

/-- CAN_RX_FRAME: a received frame is filtered, stamped and queued; a remote frame is discarded and counted (R411), and an
FD frame is a form error while `MODE.FD` is 0. -/
def execCanRxFrame (dt : Nat) (i : Fin 4) (f : CanFrame) (s : State) : Host.Outcome State Fault Refusal :=
  let s := s.advance dt
  let p := CAN.pg i
  if s.canLive i then
    if f.fdf && !s.on p CAN.MODE_FD then
      let s := if s.on p CAN.MODE_LISTEN then s else s.canCount i 0 1
      .next ((s.canCheck i).canEnd i)
    else
      let s := s.canGood i
      let s := if f.rtr then s.incSat p CAN.CNT_RTR else s.canDeliver i f
      .next ((s.canCheck i).canEnd i)
  else .next s

/-- CAN_ERROR: TEC and REC follow ISO 11898-1, and the controller's state follows them. -/
def execCanError (dt : Nat) (i : Fin 4) (e : CanErr) (s : State) : Host.Outcome State Fault Refusal :=
  let s := s.advance dt
  if s.canLive i then
    let s :=
      if s.on (CAN.pg i) CAN.MODE_LISTEN then s
      else match e with
        | .tx => s.canCount i 8 0
        | .txExempt => s
        | .rx => s.canCount i 0 1
        | .rxFlag => s.canCount i 0 8
    .next ((s.canCheck i).canEnd i)
  else .next s

/-- CAN_IDLE_DETECT: 11 consecutive recessive bits after START enter ACTIVE. -/
def execCanIdleDetect (dt : Nat) (i : Fin 4) (s : State) : Host.Outcome State Fault Refusal :=
  let s := s.advance dt
  if s.get (CAN.pg i) CAN.STAT_STATE = 0 ∧ (vget s.canH i).starting then
    .next (((s.canSet i fun h => { h with starting := false }).canGo i 1).canCheck i)
  else .next s

/-- CAN_RECOVERY_DONE: RECOVERING ends in ACTIVE with both counters at 0. -/
def execCanRecoveryDone (dt : Nat) (i : Fin 4) (s : State) : Host.Outcome State Fault Refusal :=
  let s := s.advance dt
  let p := CAN.pg i
  if s.get p CAN.STAT_STATE = 4 then .next (((s.put p CAN.ECNT_TEC 0).put p CAN.ECNT_REC 0).canGo i 1) else .next s

/-- HEAD_AGE: the FIFO head has waited HEAD_AGE ticks. -/
def execHeadAge (dt : Nat) (i : Fin 4) (s : State) : Host.Outcome State Fault Refusal :=
  let s := s.advance dt
  let p := CAN.pg i
  let h := vget s.canH i
  if h.fifo ≠ [] ∧ ¬ h.headRaised ∧ h.headAt + s.get p CAN.TXCFG_HEAD_AGE ≤ s.now then
    .next (((s.canSet i fun h => { h with headRaised := true }).evt p CAN.EVT_HEAD_AGE).raise 0xE05 0 0)
  else .next s

end Sys2Proof.Machine
end

