-- ==== Sys2Proof/Machine/Ecdsa.lean ====
section
/-! DEFINITION. ECDSA on the curve P-256, as the boot ROM verifies an image's signature with it (R468, R469). PRESUMED: the
spec names the algorithm, and the curve's numbers are those of its standard (log 98). -/

namespace Sys2Proof.Machine
open Sys2Proof

/-- The field prime of P-256. -/
def fieldP : Nat := 2 ^ 256 - 2 ^ 224 + 2 ^ 192 + 2 ^ 96 - 1

/-- The order of the base point. -/
def orderN : Nat := 0xffffffff00000000ffffffffffffffffbce6faada7179e84f3b9cac2fc632551

/-- The constant of the curve equation y² = x³ - 3x + b. -/
def curveB : Nat := 0x5ac635d8aa3a93e7b3ebbd55769886bc651d06b0cc53b0f63bce3c3e27d2604b

/-- A point of the curve as x/z² and y/z³; z = 0 is the point at infinity. -/
structure CurvePt where
  x : Nat
  y : Nat
  z : Nat
deriving DecidableEq, Repr

/-- The base point. -/
def basePt : CurvePt :=
  ⟨0x6b17d1f2e12c4247f8bce6e563a440f277037d812deb33a0f4a13945d898c296,
   0x4fe342e2fe1a7f9b8ee7eb4a7c0f9e162bce33576b315ececbb6406837bf51f5, 1⟩

/-- The point at infinity. -/
def nullPt : CurvePt := ⟨1, 1, 0⟩

/-- A difference in the field; the second number is reduced. -/
def fsubP (a b : Nat) : Nat := (a + fieldP - b % fieldP) % fieldP

/-- A product in the field. -/
def fmulP (a b : Nat) : Nat := a * b % fieldP

/-- Twice a point. -/
def CurvePt.twice (p : CurvePt) : CurvePt :=
  let z2 := fmulP p.z p.z
  let y2 := fmulP p.y p.y
  let s := fmulP (4 * p.x) y2
  let m := fmulP (3 * fsubP p.x z2) (p.x + z2)
  let x := fsubP (fmulP m m) (2 * s)
  ⟨x, fsubP (fmulP m (fsubP s x)) (8 * fmulP y2 y2), fmulP (2 * p.y) p.z⟩

/-- The sum of two points. -/
def CurvePt.plus (p q : CurvePt) : CurvePt :=
  if p.z = 0 then q
  else if q.z = 0 then p
  else
    let zp := fmulP p.z p.z
    let zq := fmulP q.z q.z
    let u := fmulP p.x zq
    let s := fmulP p.y (fmulP zq q.z)
    let h := fsubP (fmulP q.x zp) u
    let r := fsubP (fmulP q.y (fmulP zp p.z)) s
    if h = 0 then (if r = 0 then p.twice else nullPt)
    else
      let h2 := fmulP h h
      let h3 := fmulP h h2
      let v := fmulP u h2
      let x := fsubP (fmulP r r) (h3 + 2 * v)
      ⟨x, fsubP (fmulP r (fsubP v x)) (fmulP s h3), fmulP h (fmulP p.z q.z)⟩

/-- The point `a`·`p` + `b`·`q`, from the low `n` bits of the two factors. -/
def twoMultiples (a b : Nat) (p q : CurvePt) : Nat → CurvePt
  | 0 => nullPt
  | n + 1 =>
    let t := (twoMultiples (a / 2) (b / 2) p q n).twice
    let t := if a.testBit 0 then t.plus p else t
    if b.testBit 0 then t.plus q else t

/-- The power `a` to the low `n` bits of `e`, modulo the order. -/
def powN (a e : Nat) : Nat → Nat
  | 0 => 1
  | n + 1 =>
    let h := powN a (e / 2) n
    h * h % orderN * (if e.testBit 0 then a else 1) % orderN

/-- Whether `(r, s)` is a signature of the hash `e` under the public key `(x, y)`. -/
def ecdsaOk (e x y r s : Nat) : Bool :=
  let onCurve := decide (x < fieldP ∧ y < fieldP ∧ fmulP y y = (x * x * x + (fieldP - 3) * x + curveB) % fieldP)
  let inside (v : Nat) := decide (0 < v ∧ v < orderN)
  let w := powN s (orderN - 2) 256
  let p := twoMultiples (e * w % orderN) (r * w % orderN) basePt ⟨x, y, 1⟩ 256
  let z2 := fmulP p.z p.z
  onCurve && inside r && inside s && p.z != 0 &&
    (fmulP r z2 == p.x || (decide (r + orderN < fieldP) && fmulP (r + orderN) z2 == p.x))

end Sys2Proof.Machine
end

