-- ==== Sys2Proof/Machine/Keys.lean ====
section
/-! DEFINITION. The unlock of RWK fields (R45, R46). -/

namespace Sys2Proof.Machine
open Sys2Proof

/-- The key of the (page, requester) maps. -/
def pageReq (p : Page) (req : Nat) : Nat := pageBase p + req

/-- The unlock of requester `req` on page `p`. -/
def State.unlock (s : State) (p : Page) (req : Nat) : Unlock := mapGet (fun _ => .none) s.keys (pageReq p req)

/-- Change the unlock of requester `req` on page `p`. -/
def State.setUnlock (s : State) (p : Page) (req : Nat) (u : Unlock) : State :=
  { s with keys := mapSet (fun _ => .none) s.keys (pageReq p req) u }

/-- The requester holds an unlock that a write in this tick may use (R46). -/
def State.unlocked (s : State) (p : Page) (req : Nat) : Bool :=
  match s.unlock p req with
  | .held t => decide (s.now ≤ t + 64)
  | _ => false

/-- A write to `KEY` (R46). -/
def State.keyWrite (s : State) (p : Page) (req : Nat) (val : W32) : State :=
  if val = 0x7A3C#32 then s.setUnlock p req (.first s.now)
  else
    match s.unlock p req with
    | .first t =>
      if val = 0x85C3#32 ∧ s.now ≤ t + 64 then s.setUnlock p req (.held s.now) else (s.setUnlock p req .none).refuse p
    | _ => (s.setUnlock p req .none).refuse p

/-- A write to an RWK field: with an unlock the write takes effect and uses it up; without one it is counted (R45, R46). -/
def State.withKey (s : State) (p : Page) (req : Nat) (f : State → State) : State :=
  if s.unlocked p req then f (s.setUnlock p req .none) else s.refuse p

/-- KEY_WRITE: a write to the `KEY` register of a page; on a Halo page HS alone may write it (R41). -/
def execKeyWrite (dt : Nat) (req : Req) (page : Page) (val : W32) (s : State) : Host.Outcome State Fault Refusal :=
  let s := s.advance dt
  if pageValid page && hasHeader page then
    .next (if isHalo page && req != 2 then s.refuse page else s.keyWrite page req val)
  else .next s

/-- UNLOCK_LAPSE: an unused unlock lapses once 65 ticks have passed. -/
def execUnlockLapse (dt : Nat) (req : Req) (page : Page) (s : State) : Host.Outcome State Fault Refusal :=
  let s := s.advance dt
  match s.unlock page req with
  | .held t => if t + 65 ≤ s.now then .next (s.setUnlock page req .none) else .next s
  | _ => .next s

end Sys2Proof.Machine
end

