-- ==== Sys2Proof/Machine/Scf.lean ====
section
/-! DEFINITION. Safety parameters, password sessions and the change log (R361 to R376). -/

namespace Sys2Proof.Machine
open Sys2Proof

/-! ### The safety image (R361, R363) -/

/-- The bits of a register that are safety parameters. -/
def RegDef.safeMask (r : RegDef) : Nat := r.fields.foldl (fun m f => if f.safe then m ||| mask f.hi f.lo else m) 0

/-- The safety words of one page with their masks, in ascending order of address. -/
def pageSafeWords (p : Page) : List (Nat × Nat) :=
  (pageRegs p).foldl (fun acc r =>
    let m := r.safeMask
    if m = 0 then acc
    else (List.range r.count).foldl (fun acc i => mapInsert acc (pageBase p + r.off + i * r.stride) m) acc) []

/-- All pages of a block. -/
def blockPages (b : Block) : List Page := (List.range (blockInfo b).count).map fun i => ⟨b, i⟩

/-- Every safety word with its mask, in ascending order of address (R363): context memory lies below all pages. -/
def safeWords : List (Nat × Nat) :=
  ((Block.ctx :: allBlocks.filter fun b => b != .ctx).flatMap blockPages).flatMap pageSafeWords

/-- What a stored image holds for the safety bits of a word; its pairs list the words that differ from reset. -/
def ScfRec.word (r : ScfRec) (a m : Nat) : Nat :=
  match r.pairs.find? fun e => e.1 == a with
  | some (_, v) => v
  | none => (resetWord a).toNat &&& m

/-- The check value of an image (R363). -/
def imageCrc (f : Nat → Nat → Nat) : Nat :=
  crc32c 0xFFFFFFFF (safeWords.flatMap fun e => leBytes 4 e.1 ++ leBytes 4 (f e.1 e.2))

/-- The active value of the safety bits of a word. -/
def State.safeWord (s : State) (a m : Nat) : Nat := (s.rd a).toNat &&& m

/-- The pairs of the active image. -/
def State.activePairs (s : State) : List (Nat × Nat) :=
  (safeWords.filter fun e => s.safeWord e.1 e.2 != (resetWord e.1).toNat &&& e.2).map fun e => (e.1, s.safeWord e.1 e.2)

/-- Write the safety bits of a word. -/
def State.putSafe (s : State) (a m v : Nat) : State :=
  s.wr a (BitVec.ofNat 32 (((s.rd a).toNat &&& (2 ^ 32 - 1 - m)) ||| (v &&& m)))

/-- Write a stored image into the active fields (R361, R363). -/
def State.loadImage (s : State) (r : ScfRec) : State :=
  safeWords.foldl (fun s e => s.putSafe e.1 e.2 (r.word e.1 e.2)) s

/-! ### Records (R364) -/

/-- The record copy in force. -/
def State.scfNewest (s : State) : ScfRec := if s.on SCF.pg SCF.STAT_COPY then s.scf.rec1 else s.scf.rec0

/-- Change the record copy that is not in force. -/
def State.scfOther (s : State) (f : ScfRec → ScfRec) : State :=
  if s.on SCF.pg SCF.STAT_COPY then { s with scf := { s.scf with rec0 := f s.scf.rec0 } }
  else { s with scf := { s.scf with rec1 := f s.scf.rec1 } }

/-- A record takes the place of the copy not in force, and is in force after its readback check. -/
def State.scfStore (s : State) (r : ScfRec) : State :=
  (s.scfOther fun _ => { r with valid := true, num := s.scfNewest.num + 1 }).flag SCF.pg SCF.STAT_COPY
    (!s.on SCF.pg SCF.STAT_COPY)

/-- An SCF operation is in progress. -/
def State.scfBusy (s : State) : Bool := decide (s.scf.op ≠ .none)

/-- An operation of bank FS that was asked for before tick `t` is not complete: they run one at a time, in the order in which
they arrive (R392). -/
def State.fsWaits (s : State) (t : Nat) : Bool :=
  (s.scf.queue.any fun e => decide (e.tick < t)) || (s.scfBusy && decide (s.scf.opAt < t)) ||
    (s.scf.lockStore && decide (s.scf.lockAt < t))

/-- An operation of bank FS ends: a copy that waits for it starts now (R376). -/
def State.fsDone (s : State) : State :=
  { s with scf := { s.scf with copyAt := s.scf.copyAt.map fun t => if s.fsWaits (t + 1) then t else s.now } }

/-! ### Log (R369 to R373) -/

/-- The flash address of the entry of sequence number `n` (R372): 4,096 places of 32 bytes in two sectors. -/
def slgAddr (n : Nat) : Nat := 0x08FE0000 + (n - 1) % 4096 * 32

/-- Words 1 to 6 of an entry (R369). -/
def State.slgWords (s : State) (e : SlgEntry) : List Nat :=
  [e.kind * 2 ^ 24 + 2 * 2 ^ 20 + s.scfNewest.boots % 2 ^ 16, e.tick % 2 ^ 32, e.tick / 2 ^ 32 % 2 ^ 32, e.w4 % 2 ^ 32,
   e.w5 % 2 ^ 32, e.w6 % 2 ^ 32]

/-- The CHECK word of an entry (R369). -/
def slgCheck (seq : Nat) (ws : List Nat) : Nat := crc32c (seq ^^^ 0xFFFFFFFF) (ws.flatMap (leBytes 4))

/-- Write consecutive words of memory. -/
def State.wrMemWords (s : State) (a : Nat) (ws : List Nat) : State :=
  (ws.foldl (fun (acc : State × Nat) w => (acc.1.wrBytes acc.2 w 4, acc.2 + 4)) (s, a)).1

/-- Write `n` bytes of one value. -/
def State.fillBytes (s : State) (a : Nat) (v : Byte) : Nat → State
  | 0 => s
  | n + 1 => (s.wrByte (a + n) v).fillBytes a v n

/-- The entries of the change set of requester `r` leave the queue. -/
def State.slgDrop (s : State) (r : Fin 16) : State :=
  { s with scf := { s.scf with queue := s.scf.queue.filter fun e => e.set != some r } }

/-- The log cannot be programmed (R371): fault 0xB0E, and the set that waits for the entry fails. -/
def State.slgFail (s : State) (e : SlgEntry) : State :=
  let s := (s.flag SLG.pg SLG.STAT_WFAIL true).note 0xB0E 1 0 0
  match e.set with
  | some r => (s.slgDrop r).csetEnd r 4
  | none => s

/-- One entry is programmed. -/
def State.slgWrite (s : State) (e : SlgEntry) : State :=
  let p := SLG.pg
  let n := s.get p SLG.SEQ
  let ws := s.slgWords e
  let s := s.wrMemWords (slgAddr n) (n :: ws ++ [slgCheck n ws])
  let s := ((s.put p SLG.SEQ (n + 1)).put p SLG.CNT_HELD (s.get p SLG.CNT_HELD + 1)).evt p SLG.EVT_ENTRY
  let s := s.flag p SLG.STAT_FULL (n + 1 == 0xFFFFFFFF)
  match e.set with
  | some r =>
    let c := vget s.sets r
    { s with sets := vset s.sets r { c with logLeft := c.logLeft - 1, after := s.now } }
  | none => s

/-- The next entry begins a sector that is still to be erased (R372). -/
def State.slgEraseDue (s : State) : Bool :=
  s.get SLG.pg SLG.STAT_SECTOR != (s.get SLG.pg SLG.SEQ - 1) / 2048 % 2

/-- The erase of the other sector: the entries it held are gone, and it is the active one. -/
def State.slgErase (s : State) : State :=
  let p := SLG.pg
  let sec := 1 - s.get p SLG.STAT_SECTOR
  ((s.fillBytes (0x08FE0000 + sec * 0x10000) 0xFF#8 0x10000).put p SLG.STAT_SECTOR sec).put p SLG.CNT_HELD
    (min (s.get p SLG.CNT_HELD) 2048)

/-- LOG_PROGRAM_DONE: SLG finishes one operation in bank FS, the programming of the entry at the front of its queue or the
erase that this entry waits for. At SEQ 0xFFFF_FFFF nothing is written any more. -/
def execLogProgramDone (dt : Nat) (ok : Bool) (s : State) : Host.Outcome State Fault Refusal :=
  let s := s.advance dt
  match s.scf.queue with
  | [] => .next s
  | e :: rest =>
    let t : State := { s with scf := { s.scf with queue := rest } }
    if s.fsWaits e.tick then .next s
    else if s.on SLG.pg SLG.STAT_FULL then
      match e.set with
      | some r => .next ((t.slgDrop r).csetEnd r 4).fsDone
      | none => .next t.fsDone
    else if ¬ ok then .next (t.slgFail e).fsDone
    else if s.slgEraseDue then .next s.slgErase
    else .next (t.slgWrite e).fsDone

/-- A write to `SLG_RDSEQ` (R375, R376): the copy starts, and the words read 0 until it is done. -/
def State.slgRead (s : State) (req : Nat) (val : W32) : State :=
  if req = 2 then
    let p := SLG.pg
    let s := (s.setWord p SLG.RDSEQ val).flag p SLG.STAT_RDBUSY true
    let s := (List.range 8).foldl (fun s i => s.put p (SLG.ENT.ix i) 0) s
    { s with scf := { s.scf with copyAt := some s.now } }
  else s.refuse SLG.pg

/-- SLG_RDSEQ_WRITE. -/
def execSlgRdseqWrite (dt : Nat) (req : Req) (val : W32) (s : State) : Host.Outcome State Fault Refusal :=
  .next ((s.advance dt).slgRead req val)

/-- SLG_COPY_DONE: the operations of bank FS before it are complete, and 400 ticks later at the earliest the copy shows the entry, or 0 where it is not held. -/
def execSlgCopyDone (dt : Nat) (s : State) : Host.Outcome State Fault Refusal :=
  let s := s.advance dt
  match s.scf.copyAt with
  | none => .next s
  | some t =>
    if s.now < t + 400 ∨ s.fsWaits (t + 1) then .next s
    else
      let p := SLG.pg
      let n := s.get p SLG.RDSEQ
      let held := decide (n < s.get p SLG.SEQ ∧ s.get p SLG.SEQ ≤ n + s.get p SLG.CNT_HELD)
      let s := s.flag p SLG.STAT_RDBUSY false
      let s := (List.range 8).foldl (fun s i =>
        s.put p (SLG.ENT.ix i) (if held then (s.rdMem (slgAddr n + 4 * i)).toNat else 0)) s
      .next { s with scf := { s.scf with copyAt := none } }

/-! ### Password and session (R365 to R368) -/

/-- The first `len` bytes of the password buffer. -/
def State.scfPwd (s : State) (len : Nat) : List Nat :=
  (List.range len).map fun i => (byteOf (s.rd (fldAddr SCF.pg (SCF.PWD.ix (i / 4)))) (i % 4)).toNat

/-- The password buffer is cleared as a command completes (R366). -/
def State.scfClear (s : State) : State := (List.range 8).foldl (fun s i => s.put SCF.pg (SCF.PWD.ix i) 0) s

/-- SHA-256(salt ‖ password), the salt as 16 bytes (R365). -/
def pwdHash (salt : Nat) (pwd : List Nat) : Nat := sha256 (beBytes 16 salt ++ pwd)

/-- The salt that belongs to a sequence number (R365). -/
def State.scfSalt (s : State) (seq : Nat) : Nat :=
  sha256 (leBytes 4 (s.rd (fldAddr SYS.pg ⟨0x004, 31, 0, 0⟩)).toNat ++ leBytes 4 (s.rd (fldAddr SYS.pg HDR.ID)).toNat ++ leBytes 4 seq) /
    2 ^ 128

/-- A command of SCF: the session timer restarts, and the buffer is cleared unless the command stays PENDING. -/
def State.scfCmd (s : State) (req : Nat) (f : State → State) : State :=
  s.haloCmd req SCF.pg SCF.CMD_LAST_STS fun s =>
    let s := f { s with scf := { s.scf with sessAt := s.now } }
    if s.get SCF.pg SCF.CMD_LAST_STS = 2 then s else s.scfClear

/-- A password length above 32 is outside the range of LEN (R375). -/
def State.scfLen (s : State) (len : Nat) (f : State → State) : State := if len ≤ 32 then f s else s.refuse SCF.pg

/-- No change set is open or committing (R368). -/
def State.noSets (s : State) : Bool := (List.finRange 16).all fun r => (vget s.sets r).pages.isEmpty

/-- The session is AUTH. -/
def State.scfAuth (s : State) : Bool := s.get SCF.pg SCF.STAT_SESSION == 1

/-- The session takes a new state. -/
def State.scfSession (s : State) (v : Nat) : State := (s.put SCF.pg SCF.STAT_SESSION v).evt SCF.pg SCF.EVT_SESSION

/-- The lockout of R366: 60 s, doubled with each further one up to 3,840 s. -/
def lockoutSeconds (n : Nat) : Nat := min 3840 (60 * 2 ^ (n - 1))

/-- A failed OPEN (R366). -/
def State.scfFail (s : State) : State :=
  let p := SCF.pg
  let s := (s.incSat p SCF.LOCK_FAILS).evt p SCF.EVT_AUTH_FAIL
  let n := s.get p SCF.LOCK_FAILS
  let s := (s.slgPush 2 0 n 0 none).status p SCF.CMD_LAST_STS .notReady
  if n < s.get p SCF.CFG_MAXTRY then s
  else
    let s := ((s.incSat p SCF.LOCK_LOCKN).put p SCF.LOCK_FAILS 0).scfSession 2
    let k := s.get p SCF.LOCK_LOCKN
    let sec := lockoutSeconds k
    let s := (s.slgPush 3 0 k sec none).evt p SCF.EVT_LOCKOUT |>.note 0xB0F 1 0 0
    { s with scf := { s.scf with lockEnd := some (s.now + sec * 400000000), lockStore := true, lockAt := s.now } }

/-- OPEN (R365, R366). -/
def State.scfOpen (s : State) (len : Nat) : State :=
  let p := SCF.pg
  if s.dstate = .service ∧ s.get p SCF.STAT_SESSION = 0 then
    let good := match s.scfNewest.pwd with
      | none => decide (len = 0)
      | some (salt, hash) => pwdHash salt (s.scfPwd len) == hash
    if good then
      let s := if s.get p SCF.LOCK_LOCKN = 0 then s else { s with scf := { s.scf with lockStore := true, lockAt := s.now } }
      ((((s.put p SCF.LOCK_FAILS 0).put p SCF.LOCK_LOCKN 0).scfSession 1).slgPush 1 0 0 0 none).status p SCF.CMD_LAST_STS
        .done
    else s.scfFail
  else s.status p SCF.CMD_LAST_STS .illegalState

/-- CLOSE (R368). -/
def State.scfCloseCmd (s : State) : State := s.command SCF.pg SCF.CMD_LAST_STS s.scfAuth fun s => s.scfClose 1

/-- SET_PWD (R365, R368): PENDING until the record is stored. -/
def State.scfSetPwd (s : State) (len : Nat) : State :=
  let p := SCF.pg
  if s.scfAuth ∧ 8 ≤ len ∧ s.noSets ∧ ¬ s.scfBusy then
    let salt := s.scfSalt (s.get SLG.pg SLG.SEQ + s.scf.queue.length)
    let s := { s with scf := { s.scf with op := .setPwd salt (pwdHash salt (s.scfPwd len)), opAt := s.now } }
    (s.slgPush 7 0 0 0 none).put p SCF.CMD_LAST_STS 2
  else s.status p SCF.CMD_LAST_STS .illegalState

/-- The password of the session's device is set (R365, R368). -/
def State.scfUnset (s : State) : Bool := s.scfNewest.pwd.isNone

/-- CONFIRM (R363, R368): PENDING until stored where the check values agree. -/
def State.scfConfirm (s : State) : State :=
  let p := SCF.pg
  if s.scfAuth ∧ ¬ s.scfUnset ∧ s.on p SCF.STAT_CHANGED ∧ s.noSets ∧ ¬ s.scfBusy then
    if s.rd (fldAddr p SCF.IMGCRC) = s.rd (fldAddr p SCF.EXPCRC) then
      { s with scf := { s.scf with op := .confirm, opAt := s.now } }.put p SCF.CMD_LAST_STS 2
    else s.status p SCF.CMD_LAST_STS .notReady
  else s.status p SCF.CMD_LAST_STS .illegalState

/-- REVERT (R363, R368): the stored image is active from the next GENERAL boundary on. -/
def State.scfRevert (s : State) : State :=
  let p := SCF.pg
  s.command p SCF.CMD_LAST_STS (s.scfAuth && !s.scfUnset && s.noSets && !s.scfBusy) fun s =>
    let s := { s with scf := { s.scf with revertAt := some s.now } }
    s.slgPush 6 0 (s.get p SCF.STOCRC) 0 none

/-- The GENERAL boundary after a REVERT. -/
def State.scfRevertApply (s : State) : State :=
  match s.scf.revertAt with
  | some t =>
    if t < s.now then
      let s := ((s.loadImage s.scfNewest).flag SCF.pg SCF.STAT_CHANGED false).flag SCF.pg SCF.STAT_CONSIST false
      { s with scf := { s.scf with revertAt := none, crcDue := some s.now } }
    else s
  | none => s

/-- SCF_OPEN. -/
def execScfOpen (dt : Nat) (req : Req) (len : Fin 64) (s : State) : Host.Outcome State Fault Refusal :=
  .next ((s.advance dt).scfLen len fun s => s.scfCmd req fun s => s.scfOpen len)

/-- SCF_CLOSE. -/
def execScfClose (dt : Nat) (req : Req) (s : State) : Host.Outcome State Fault Refusal :=
  .next ((s.advance dt).scfCmd req State.scfCloseCmd)

/-- SCF_SET_PWD. -/
def execScfSetPwd (dt : Nat) (req : Req) (len : Fin 64) (s : State) : Host.Outcome State Fault Refusal :=
  .next ((s.advance dt).scfLen len fun s => s.scfCmd req fun s => s.scfSetPwd len)

/-- SCF_CONFIRM. -/
def execScfConfirm (dt : Nat) (req : Req) (s : State) : Host.Outcome State Fault Refusal :=
  .next ((s.advance dt).scfCmd req State.scfConfirm)

/-- SCF_REVERT. -/
def execScfRevert (dt : Nat) (req : Req) (s : State) : Host.Outcome State Fault Refusal :=
  .next ((s.advance dt).scfCmd req State.scfRevert)

/-- A PENDING command of SCF completes. -/
def State.scfDone (s : State) (st : Status) : State :=
  ({ s with scf := { s.scf with op := .none } }.status SCF.pg SCF.CMD_LAST_STS st).scfClear

/-- The copy that was being programmed fails its readback check (R364). -/
def State.scfBad (s : State) : State := s.scfOther fun r => { r with valid := false }

/-- The store of LOCKN ends. -/
def State.scfLockStored (s : State) (ok : Bool) : State :=
  let s := { s with scf := { s.scf with lockStore := false } }
  if ok then s.scfStore { s.scfNewest with lockN := s.get SCF.pg SCF.LOCK_LOCKN } else s.scfBad

/-- The store of the PENDING command ends; that of a CONFIRM within 200 ms of the command (R368). -/
def State.scfOpStored (s : State) (ok : Bool) : State :=
  let p := SCF.pg
  match s.scf.op with
  | .none => s
  | .setPwd salt hash =>
    if ok then ((s.scfStore { s.scfNewest with pwd := some (salt, hash) }).flag p SCF.STAT_UNSET false).scfDone .done
    else s.scfBad.scfDone .notReady
  | .confirm =>
    if s.scf.opAt + 80000000 < s.now then s
    else if ok then
      let crc := imageCrc s.safeWord
      let s := s.scfStore { s.scfNewest with pairs := s.activePairs }
      let s := ((s.put p SCF.STOCRC crc).flag p SCF.STAT_CONSIST true).slgPush 5 0 crc safeWords.length none
      (s.scfDone .done).evt p SCF.EVT_CONFIRMED
    else s.scfBad.scfDone .notReady

/-- SCF_STORE_DONE: the programming of a record copy ends with its readback check (R364), in the order in which bank FS was
asked; of two asked in one tick the change of LOCKN comes first. -/
def execScfStoreDone (dt : Nat) (ok : Bool) (s : State) : Host.Outcome State Fault Refusal :=
  let s := s.advance dt
  if s.scf.lockStore ∧ ¬ s.fsWaits s.scf.lockAt then .next (s.scfLockStored ok).fsDone
  else if s.scfBusy ∧ ¬ s.fsWaits s.scf.opAt then .next (s.scfOpStored ok).fsDone
  else .next s

/-- LOCKOUT_END: the lockout time ends (R366). -/
def execLockoutEnd (dt : Nat) (s : State) : Host.Outcome State Fault Refusal :=
  let s := s.advance dt
  match s.scf.lockEnd with
  | some t =>
    if t ≤ s.now then .next ({ s with scf := { s.scf with lockEnd := none } }.scfSession 0) else .next s
  | none => .next s

/-- SESSION_TIMEOUT: no SCF command for SESS_TO minutes (R367). -/
def execSessionTimeout (dt : Nat) (s : State) : Host.Outcome State Fault Refusal :=
  let s := s.advance dt
  if s.scf.sessAt + s.get SCF.pg SCF.CFG_SESS_TO * 24000000000 ≤ s.now then .next (s.scfClose 2) else .next s

/-- IMGCRC_RECOMPUTED: SCF_IMGCRC shows the check value of the active fields, within 1 ms of a commit (R363). -/
def execImgcrcRecomputed (dt : Nat) (s : State) : Host.Outcome State Fault Refusal :=
  let s := s.advance dt
  match s.scf.crcDue with
  | some t =>
    if t + 400000 < s.now then .next s
    else .next ({ s with scf := { s.scf with crcDue := none } }.put SCF.pg SCF.IMGCRC (imageCrc s.safeWord))
  | none => .next s

/-- The seconds of a lockout that remain, as `SCF_LOCK.REMAIN` reads. -/
def State.scfRemain (s : State) : Nat :=
  match s.scf.lockEnd with
  | some t => (t - s.now + 399999999) / 400000000
  | none => 0

end Sys2Proof.Machine
end

