-- ==== Sys2Proof/Machine/Device.lean ====
section
/-! DEFINITION. Supplies, resets, boot, start tests, the commands of `SYS_DCMD`, key revocation, supervisor balls and JTAG
(R16 to R30, R456 to R475). -/

namespace Sys2Proof.Machine
open Sys2Proof

/-- Change the power and boot part of the state. -/
def State.devSet (s : State) (f : Dev → Dev) : State := { s with dev := f s.dev }

/-- Change a lockstep pair. -/
def State.pairSet (s : State) (i : Fin 3) (f : PairH → PairH) : State :=
  { s with lks := { s.lks with pairs := vset s.lks.pairs i (f (vget s.lks.pairs i)) } }

/-- Device safe state and SAFE_HOLD without a fault reaction (R18, R24). -/
def State.toSafeHold (s : State) : State :=
  let s := s.flag HLO.pg HLO.STAT_SAFE true
  if s.dstate = .safeHold then s else s.enter .safeHold

/-! ### Reset (R351, R372, R388, R457 to R466, R480) -/

/-- The register words that outlive a reset: the RST page and `HLO_FIRST` in the always-on domain, the revoke bits, and
the log counters and the record copy that SLG and SCF hold in flash bank FS. -/
def alwaysOn (a : Nat) : Bool :=
  let at_ (p : Page) (off : Nat) := a == pageBase p + off
  (decide (pageBase RST.pg + 0x040 ≤ a) && decide (a < pageBase RST.pg + 0x1000)) || at_ SYS.pg 0x05C ||
    [0x050, 0x054, 0x058, 0x05C].any (at_ HLO.pg) || [0x00C, 0x040, 0x044].any (at_ SLG.pg) || at_ SCF.pg 0x00C

/-- The flash bytes, which a reset leaves (R388). -/
def inFlash (a : Nat) : Bool := regionOf a == some .flash

/-- A record that was being programmed when the reset came is not valid (R364). -/
def State.scfCut (s : State) : State :=
  if s.scf.op ≠ .none ∨ s.scf.lockStore then s.scfOther fun r => { r with valid := false } else s

/-- A log entry that was being programmed when the reset came may fail its check (R373). -/
def State.slgCut (s : State) : State :=
  if s.scf.queue = [] then s
  else
    let (b, s) := s.freshBit
    if b then s.incSat SLG.pg SLG.CNT_BROKEN else s

/-- An open session closes with the reset of HS, cause 4 (R367, R370). -/
def State.resetEntries (s : State) : List SlgEntry :=
  if s.get SCF.pg SCF.STAT_SESSION = 1 then [⟨8, s.now, 0, 4, 0, none⟩] else []

/-- An instruction of the test access port outside SAFE_HOLD, where EXTEST, CLAMP and HIGHZ act as BYPASS (R475). -/
def JtagIr.plain : JtagIr → JtagIr
  | .extest | .clamp | .highz => .bypass
  | i => i

/-- The device enters OFF (R24, R458, R462): everything but the always-on content, flash and the waiting commands takes
its reset value, and every output its OFF level. -/
def State.toOff (s : State) : State :=
  if s.dev.off then s
  else
    let entries := s.resetEntries
    let s := s.scfCut.slgCut
    let r : State := { State.reset with
      pending := s.pending, free := s.free, dev := { s.dev with off := true, admFail := false, cells := [], jtag := s.dev.jtag.plain }
      regs := mapKeep alwaysOn s.regs, mem := mapKeep inFlash s.mem
      scf := { State.reset.scf with rec0 := s.scf.rec0, rec1 := s.scf.rec1, queue := entries } }
    let p := SLG.pg
    let keep := s.get SLG.pg SLG.STAT_FULL * 2 + s.get SLG.pg SLG.STAT_SECTOR
    (r.put p ⟨0x00C, 31, 0, 0⟩ keep).put SCF.pg ⟨0x00C, 31, 0, 0⟩ (s.get SCF.pg SCF.STAT_COPY * 8)

/-- Note a cause of the reset by its code in `RST_CAUSE` (R465). -/
def State.cause (s : State) (c : Nat) : State := s.devSet fun d => { d with causes := setBits d.causes c c 1 }

/-- The highest cause (R465). -/
def lastCause (causes : Nat) : Nat := ([1, 2, 4, 3, 6, 5].find? fun c => causes.testBit c).getD 1

/-- The always-on words at power-on (R463, R480). -/
def State.powerOnWords (s : State) : State :=
  let s := ((s.setWord RST.pg RST.CAUSE 0x81#32).setWord RST.pg RST.CNT 0).setWord RST.pg RST.CMD 0
  ((s.put HLO.pg HLO.FIRST_INFO 0).put HLO.pg HLO.FIRST_AUX 0).put64 HLO.pg HLO.FIRST_STAMP_LO 0

/-- `RST_CAUSE` and `RST_CNT` at the release of any other reset (R465, R480). -/
def State.causeWords (s : State) (causes : Nat) : State :=
  let p := RST.pg
  let cold := causes.testBit 2 || causes.testBit 4
  let s := (s.put p RST.CAUSE_LAST (lastCause causes)).flag p RST.CAUSE_COLD cold
  let s := s.put p RST.CAUSE_HIST (s.get p RST.CAUSE_HIST ||| causes)
  let s := if causes.testBit 2 then s.put p RST.CAUSE_SUPPLY s.dev.supply else s
  s.incSat p (if cold then RST.CNT_COLD else RST.CNT_WARM)

/-- Reset release: tick 0 of BOOT (R8, R24, R462, R463, R467). -/
def State.release (s : State) : State :=
  let causes := s.dev.causes
  let s := if causes.testBit 1 then s.powerOnWords else s.causeWords causes
  let s := { s with now := 0 }
  let s := s.devSet fun d => { d with off := false, causes := 0, rejected := false, key := 2, entries := (0, 0, 0), test := 0, testAt := 0, boundAt := 0 }
  s.put SYS.pg SYS.BOOT_MODE s.dev.bootMode

/-- SUPPLY_VALID: supply `k` rises above its undervoltage threshold; the valid count starts again. -/
def execSupplyValid (dt : Nat) (k : Fin 6) (s : State) : Host.Outcome State Fault Refusal :=
  .next ((s.advance dt).devSet fun d => if vget d.supplyOk k then d else { d with supplyOk := vset d.supplyOk k true, waitDone := false })

/-- Whether the outputs are driven: `VDD_AON` and `VDD_IO` are both above their thresholds (R457, R459). -/
def State.powered (s : State) : Bool := vget s.dev.supplyOk 5 && vget s.dev.supplyOk 1

/-- POWER_VALID: the end of the 2 ms supply wait; `boot` is `BOOT1`:`BOOT0`, taken when no reset filter has sampled them
(R467). -/
def execPowerValid (dt : Nat) (boot : BitVec 2) (s : State) : Host.Outcome State Fault Refusal :=
  let s := s.advance dt
  if s.dev.off ∧ ¬ s.dev.waitDone ∧ (List.finRange 6).all fun k => vget s.dev.supplyOk k then
    let s := s.devSet fun d => { d with
      waitDone := true, bootMode := if d.causes.testBit 3 || d.causes.testBit 4 then d.bootMode else boot.toNat }
    .next (if s.dev.nresetLow then s else s.release)
  else .next s

/-- SUPPLY_UV: a power-on reset for `VDD_AON`, and a cold one for any other supply. -/
def execSupplyUv (dt : Nat) (k : Fin 6) (s : State) : Host.Outcome State Fault Refusal :=
  let s := s.advance dt
  let s := s.toOff.devSet fun d => { d with supplyOk := vset d.supplyOk k false, waitDone := false }
  if k = 5 then .next ((s.cause 1).put64 RST.pg RST.HELD_LO 0)
  else .next ((s.cause 2).devSet fun d => { d with supply := k })

/-- SUPPLY_OV: fault 0x001. -/
def execSupplyOv (dt : Nat) (k : Fin 6) (s : State) : Host.Outcome State Fault Refusal :=
  let s := s.advance dt
  if s.dev.off then .next s
  else .next ((((s.putBit PWR.pg PWR.STAT_OV k true).evt PWR.pg PWR.EVT_OV).incSat PWR.pg PWR.CNT_OVCNT).raise 0x001 5 0)

/-- NRESET_ASSERT: the low level has passed the filter. -/
def execNresetAssert (dt : Nat) (s : State) : Host.Outcome State Fault Refusal :=
  .next ((s.advance dt).toOff.devSet fun d => { d with nresetLow := true })

/-- NRESET_RELEASE: `heldUs` is the hold time that the always-on domain has counted (R464), `boot` the sampled boot pins. A
hold between 19.8 ms and 20.2 ms gives a free choice of the two kinds (R463). -/
def execNresetRelease (dt : Nat) (heldUs : Nat) (boot : BitVec 2) (s : State) : Host.Outcome State Fault Refusal :=
  let s := s.advance dt
  if s.dev.nresetLow then
    let (b, s) := s.freshBit
    let cold := decide (20200 ≤ heldUs) || (decide (19800 ≤ heldUs) && b)
    let s := (s.cause (if cold then 4 else 3)).put64 RST.pg RST.HELD_LO heldUs
    let s := s.devSet fun d => { d with nresetLow := false, bootMode := boot.toNat, heldLong := d.heldLong || decide (1000000 ≤ heldUs) }
    .next (if s.dev.waitDone then s.release else s)
  else .next s

/-- A warm reset of the device by command or by the debugger (R463, R466): the conditions for leaving OFF hold, so the
release follows at once. -/
def State.warmReset (s : State) (c : Nat) : State := (s.toOff.cause c).release

/-- DEBUG_SYSTEM_RESET. -/
def execDebugSystemReset (dt : Nat) (s : State) : Host.Outcome State Fault Refusal :=
  let s := s.advance dt
  .next (if s.dev.off then s else s.warmReset 6)

/-- A reset of requester `r` on its own (R55, R59): its locks are lost, and a set that is still STAGING is discarded. -/
def State.requesterReset (s : State) (r : Fin 16) : State :=
  let s := s.loseLocks r
  let c := vget s.sets r
  if c.pages ≠ [] ∧ ¬ c.committing then s.csetEnd r 8 else s

/-- A reset of the pair AP0 or AP1 (R327, R466): both cores together, with window, delay FIFO and agreement buffer. -/
def State.pairReset (s : State) (i : Fin 2) : State :=
  let s := s.requesterReset ⟨i.1, by omega⟩
  let s := (s.putBit LKS.pg LKS.STAT_RETRY i false).putBit LKS.pg LKS.STAT_HALTED i false
  s.pairSet ⟨i.1, by omega⟩ fun h => { PairH.idle with resetAt := some s.now, entry := h.entry }

/-- The command `op` of `RST_CMD`, after its unlock (R466). -/
def State.rstCmd (s : State) (req op : Nat) : State :=
  let p := RST.pg
  let d := s.dstate
  let bad := s.status p RST.CMD_LAST_STS .illegalState
  let sw := req == 2 || req == 11
  match op with
  | 1 =>
    if ((sw || req == 0 || req == 1) && (d == .standby || d == .service)) || (sw && d == .safeHold) then
      ((s.status p RST.CMD_LAST_STS .done).put p RST.CAUSE_REQ req).warmReset 5
    else bad
  | 2 | 3 =>
    if sw && (d.running || d == .selftest) then (s.pairReset (if op = 2 then 0 else 1)).status p RST.CMD_LAST_STS .done else bad
  | _ => s.status p RST.CMD_LAST_STS .unknown

/-- RST_CMD_DEVICE. -/
def execRstCmdDevice (dt : Nat) (req : Req) (s : State) : Host.Outcome State Fault Refusal :=
  .next ((s.advance dt).withKey RST.pg req fun s => s.rstCmd req 1)

/-- RST_CMD_AP0. -/
def execRstCmdAp0 (dt : Nat) (req : Req) (s : State) : Host.Outcome State Fault Refusal :=
  .next ((s.advance dt).withKey RST.pg req fun s => s.rstCmd req 2)

/-- RST_CMD_AP1. -/
def execRstCmdAp1 (dt : Nat) (req : Req) (s : State) : Host.Outcome State Fault Refusal :=
  .next ((s.advance dt).withKey RST.pg req fun s => s.rstCmd req 3)

/-- PAIR_RESTART: 400 ticks after its reset a pair starts at its entry address; AP0 and AP1 stay halted in SAFE_HOLD. -/
def execPairRestart (dt : Nat) (p : Fin 2) (s : State) : Host.Outcome State Fault Refusal :=
  let s := s.advance dt
  let i : Fin 3 := ⟨p.1, by omega⟩
  match (vget s.lks.pairs i).resetAt with
  | some t =>
    if t + 400 ≤ s.now ∧ s.dstate ≠ .safeHold then
      .next (s.pairSet i fun h => { h with resetAt := none, run := true, pc := BitVec.ofNat 32 h.entry })
    else .next s
  | none => .next s

/-! ### Boot (R467 to R472) -/

/-- The slots that a boot mode tries, in order: 0 is slot A, 1 is slot B (R467). -/
def bootOrder : Nat → List Nat
  | 0 => [0, 1]
  | 1 => [1, 0]
  | 2 => [0]
  | _ => [1]

/-- The result field of a slot. -/
def bootRes (slot : Nat) : Fld := if slot = 0 then SYS.BOOT_A_RES else SYS.BOOT_B_RES

/-- The next slot to try. -/
def State.bootNext (s : State) : Option Nat :=
  (bootOrder (s.get SYS.pg SYS.BOOT_MODE)).find? fun k => s.get SYS.pg (bootRes k) == 0

/-- The first address of a slot (R467). -/
def slotBase (slot : Nat) : Nat := 0x08000000 + slot * 0x800000

/-- `n` bytes of flash from address `a` on, in ascending order. -/
def State.byteList (s : State) (a n : Nat) : List Nat := (List.range n).map fun i => (s.rdByte (a + i)).toNat

/-- `n` bytes at offset `off` of a slot's header, least significant first (R468). -/
def State.imageField (s : State) (slot off n : Nat) : Nat := s.rdBytes (slotBase slot + off) n

/-- `n` bytes at offset `off` of a slot's header, most significant first, as the key and the signature stand (R468). -/
def State.imageNumber (s : State) (slot off n : Nat) : Nat :=
  (s.byteList (slotBase slot + off) n).foldl (fun acc b => acc * 256 + b) 0

/-- Magic, version, length and entry addresses of a slot are valid (R468, R469 code 0x2). -/
def State.slotHeaderOk (s : State) (slot : Nat) : Bool :=
  let base := slotBase slot
  let entry (off : Nat) : Bool := let a := s.imageField slot off 4; decide (base ≤ a ∧ a < base + 0x780000)
  let len := s.imageField slot 0x0C 4
  s.imageField slot 0x00 4 == 0x38345859 && s.imageField slot 0x04 4 == 1 && decide (len % 16 = 0 ∧ len ≤ 0x77FF00) &&
    entry 0x10 && entry 0x14 && entry 0x18

/-- The key hash, not revoked, that SHA-256 of X‖Y of a slot equals: 0 for KH0 and 1 for KH1 (R470). -/
def State.slotKey (s : State) (slot : Nat) : Option Nat :=
  let h := sha256 (s.byteList (slotBase slot + 0x40) 64)
  let live (k kh : Nat) : Bool := kh == h && !(s.get SYS.pg SYS.KEYREV_REVOKE).testBit k
  if live 0 s.dev.keyHash0 then some 0 else if live 1 s.dev.keyHash1 then some 1 else none

/-- The result of the checks of R469 on the bytes of a slot, in the order of its codes; `err` says that the slot has an
uncorrectable flash error. -/
def State.slotResult (s : State) (slot : Nat) (err : Bool) : Nat :=
  let base := slotBase slot
  let grade := s.imageField slot 0x1C 4
  if !s.slotHeaderOk slot then 2
  else if ¬ (grade = 0xFF ∨ grade = s.get SYS.pg SYS.CAP_GRADE) then 3
  else if (s.slotKey slot).isNone then 4
  else if sha256 (s.byteList (base + 0x100) (s.imageField slot 0x0C 4)) ≠ s.imageNumber slot 0x20 32 then 5
  else if !ecdsaOk (sha256 (s.byteList base 0x80)) (s.imageNumber slot 0x40 32) (s.imageNumber slot 0x60 32)
      (s.imageNumber slot 0x80 32) (s.imageNumber slot 0xA0 32) then 6
  else if err then 7
  else 1

/-- BOOT_SLOT_CHECK: the result of a slot is recorded; the first accepted slot is run, and BOOT ends in SAFE_HOLD when no
slot is left. -/
def execBootSlotCheck (dt : Nat) (slot : Fin 2) (err : Bool) (s : State) : Host.Outcome State Fault Refusal :=
  let s := s.advance dt
  let p := SYS.pg
  if s.dstate = .boot ∧ s.get p SYS.BOOT_RESULT = 0 ∧ s.bootNext = some slot.1 then
    let r := s.slotResult slot err
    let word (off : Nat) := s.imageField slot off 4
    let entries := (word 0x10, word 0x14, word 0x18)
    let key := (s.slotKey slot).getD 2
    let ver := word 0x08
    let s := s.put p (bootRes slot) r
    if r = 1 then
      let s := (s.put p SYS.BOOT_RESULT (slot + 1)).put p SYS.IMGVER ver
      .next (s.devSet fun d => { d with key := key, entries := entries })
    else
      let s := s.devSet fun d => { d with rejected := true }
      .next (if s.bootNext = none then (s.put p SYS.BOOT_RESULT 3).toSafeHold else s)
  else .next s

/-- BOOT loads the valid record of the higher confirm number (R364) and writes its image into the safety fields (R361);
`LOCKN` above 0 starts the lockout anew (R366). -/
def State.scfBoot (s : State) : State :=
  let p := SCF.pg
  let one := s.scf.rec1.valid && (!s.scf.rec0.valid || decide (s.scf.rec0.num < s.scf.rec1.num))
  let s := s.flag p SCF.STAT_COPY one
  let bump (r : ScfRec) : ScfRec := { r with boots := r.boots + 1 }
  let s : State := { s with scf := if one then { s.scf with rec1 := bump s.scf.rec1 } else { s.scf with rec0 := bump s.scf.rec0 } }
  let r := s.scfNewest
  let s := if r.valid then s.loadImage r else s
  let s := s.flag p SCF.STAT_UNSET r.pwd.isNone
  let s := (s.put p SCF.STOCRC (imageCrc r.word)).put p SCF.IMGCRC (imageCrc s.safeWord)
  let s := s.put p SCF.LOCK_LOCKN r.lockN
  if r.lockN = 0 then s
  else { s.put p SCF.STAT_SESSION 2 with scf := { s.scf with lockEnd := some (s.now + lockoutSeconds r.lockN * 400000000) } }

/-- Entry to SELFTEST with the first start test; `bound` is the tick from which R24 or R25 counts. -/
def State.toSelftest (s : State) (bound : Nat) : State :=
  (s.enter .selftest).devSet fun d => { d with test := 1, testAt := s.now, boundAt := bound }

/-- BOOT_HANDOVER: the three pairs run the image, Halo is operational, and the faults that waited for it are logged. -/
def execBootHandover (dt : Nat) (s : State) : Host.Outcome State Fault Refusal :=
  let s := s.advance dt
  let res := s.get SYS.pg SYS.BOOT_RESULT
  if s.dstate = .boot ∧ (res = 1 ∨ res = 2) ∧ s.now ≤ 4800000 then
    let (a0, a1, hs) := s.dev.entries
    let start (s : State) (i : Fin 3) (a : Nat) : State :=
      s.pairSet i fun h => { h with run := true, entry := a, pc := BitVec.ofNat 32 a }
    let s := start (start (start s.scfBoot.loadTrim 0 a0) 1 a1) 2 hs
    let s := (s.put SYS.pg SYS.TBOOT s.now).toSelftest 0
    let s := if s.dev.rejected then s.note 0x002 1 0 0 else s
    let s := if s.dev.heldLong then (s.note 0x003 1 0 0).devSet fun d => { d with heldLong := false } else s
    .next (if s.get SLG.pg SLG.CNT_BROKEN = 0 then s else (s.evt SLG.pg SLG.EVT_BROKEN).note 0xB10 1 0 0)
  else .next s

/-- BOOT_TIMEOUT. -/
def execBootTimeout (dt : Nat) (s : State) : Host.Outcome State Fault Refusal :=
  let s := s.advance dt
  .next (if s.dstate = .boot ∧ 4800000 < s.now then s.toSafeHold else s)

/-- The bound of a start test (R472). -/
def testBound : Nat → Nat
  | 1 => 1600000
  | 6 => 800000
  | 7 => 1200000
  | _ => 400000

/-- The safety image check (R364): a valid record, whose image is the active one. -/
def State.imageOk (s : State) : Bool := s.scfNewest.valid && imageCrc s.scfNewest.word == imageCrc s.safeWord

/-- A failed start test ends SELFTEST in SAFE_HOLD (R472); the image check does so through fault 0xB0D (R364). -/
def State.testFail (s : State) : State :=
  let s := s.put SYS.pg SYS.STFAIL_TEST s.dev.test
  if s.dev.test = 9 ∧ ¬ s.imageOk then s.raise 0xB0D 5 0 else s.toSafeHold

/-- Start test 0x7 waits while an enabled reference buffer is not ready (R133, R472). -/
def State.testWaits (s : State) : Bool :=
  s.dev.test == 7 && [0, 1, 2].any fun b => s.bitOn ADR.pg ADR.ACTRL_EN b && !s.bitOn ADR.pg ADR.RSTAT_RDY b

/-- The running start test has overrun its bound (R472). -/
def State.testOver (s : State) : Bool := decide (1 ≤ s.dev.test ∧ s.dev.testAt + testBound s.dev.test < s.now)

/-- START_TEST_COMPLETE: the running start test finishes. -/
def execStartTestComplete (dt : Nat) (pass : Bool) (s : State) : Host.Outcome State Fault Refusal :=
  let s := s.advance dt
  let d := s.dev
  if s.dstate = .selftest ∧ 1 ≤ d.test then
    if ¬ pass ∨ s.testOver ∨ d.boundAt + 16000000 < s.now ∨ (d.test = 9 ∧ ¬ s.imageOk) then .next s.testFail
    else if s.testWaits then .next s
    else if d.test < 10 then .next (s.devSet fun d => { d with test := d.test + 1, testAt := s.now })
    else
      .next (((s.put SYS.pg SYS.TSTEST s.now).devSet fun d => { d with test := 0 }).enter .standby)
  else .next s

/-- SELFTEST_TIMEOUT: the bound of R24 or R25, or that of the running start test, has passed. -/
def execSelftestTimeout (dt : Nat) (s : State) : Host.Outcome State Fault Refusal :=
  let s := s.advance dt
  .next (if s.dstate = .selftest ∧ (s.dev.boundAt + 16000000 < s.now ∨ s.testOver) then s.testFail else s)

/-- A write to `SYS_KEYREV` (R470). -/
def State.keyRevoke (s : State) (req bits : Nat) : State :=
  let p := SYS.pg
  if req ≠ 2 then s.refuse p
  else s.withKey p req fun s =>
    let new := s.get p SYS.KEYREV_REVOKE ||| bits % 4
    if s.dstate = .service ∧ s.scfAuth ∧ new ≠ 3 ∧ ¬ new.testBit s.dev.key then s.put p SYS.KEYREV_REVOKE new
    else s.countCmd p

/-- KEY_REVOKE. -/
def execKeyRevoke (dt : Nat) (req : Req) (bits : BitVec 2) (s : State) : Host.Outcome State Fault Refusal :=
  .next ((s.advance dt).keyRevoke req bits.toNat)

/-! ### Supervisor balls (R461, R473, R474) -/

/-- The level that the device commands on a ball. -/
def State.outLevel (s : State) (b : OutBall) : Bool :=
  let ok := s.dstate.running && !s.safe
  match b with
  | .alive => s.halo.alive
  | .errOutP => ok
  | .errOutN => !ok
  | .resetOut => !(s.dstate.running || s.dstate == .selftest)

/-- OUT_READBACK: fault 0x004. -/
def execOutReadback (dt : Nat) (_ball : OutBall) (s : State) : Host.Outcome State Fault Refusal :=
  let s := s.advance dt
  if s.dev.off then .next s
  else .next ((s.evt SYS.pg SYS.EVT_READBACK).raise 0x004 5 0)

/-! ### The commands of SYS_DCMD (R19 to R30) -/

/-- Whether condition `c` of R23 is unmet. -/
def State.unmet (s : State) (c : Nat) : Bool :=
  let ms := [0, 1, 2].filter fun m => s.msvSt m != 0
  match c with
  | 0x1 => (List.range 16).any fun k =>
    (s.bitOn SFI.pg SFI.STAT_DEMAND k && (s.get SFI.pg (SFI.CFG_ACT.ix k) == 1 || s.get SFI.pg (SFI.CFG_ACT.ix k) == 2)) ||
      s.on SFI.pg (SFI.ST_DISC.ix k)
  | 0x2 => s.get HLO.pg HLO.STAT_FR3 != 0 || s.get HLO.pg HLO.STAT_FR4 != 0
  | 0x3 => !s.noSets || s.dev.admFail
  | 0x4 => ms.any fun m => flt (s.msvH m).vdc (s.msvK m 24)
  | 0x5 => ms.any fun m => !s.msvStandstill m
  | 0x6 => s.obc.inlet
  | 0x7 => !s.obc.inlet || s.get OBC.pg OBC.INLET_TYPE == 0
  | 0x8 => !(s.obc.frame && s.obc.frameCont && !s.obc.bmsOut)
  | 0x9 => decide (2 ≤ s.get OBC.pg OBC.STAT_STATE)
  | _ => s.on SCF.pg SCF.STAT_CHANGED && !s.on SCF.pg SCF.STAT_CONSIST

/-- The conditions of a transition (R24). -/
def dcmdConds (d : DState) (op : Nat) : List Nat :=
  match op, d with
  | 1, .drive => [0x5]
  | 1, .service => [0x3, 0xA]
  | 2, _ => [0x1, 0x2, 0x3, 0x4, 0x6]
  | 3, _ => [0x2, 0x3, 0x5, 0x7, 0x8]
  | 4, _ => [0x3, 0x5, 0x9]
  | _, _ => []

/-- The states that accept a command (R18, R21). -/
def dcmdAccepted (op : Nat) (d : DState) : Bool :=
  match op with
  | 1 => d == .drive || d == .charge || d == .service
  | 2 | 3 | 4 => d == .standby
  | _ => !(d == .off || d == .safeHold)

/-- A write to `SYS_DCMD` (R19 to R23, R25, R26, R29, R325). The STO assertion of DRIVE to STANDBY takes place in the tick
of the command (DESIGN CHOICE, log 50: R26 gives a bound of 4,000 ticks), before the transition is PENDING, so that a fault
that the assertion itself raises does not abort it. -/
def State.dcmd (s : State) (req op : Nat) : State :=
  let p := SYS.pg
  let d := s.dstate
  let s := ((s.put p SYS.DSTAT_LAST_REQ req).put p SYS.DSTAT_LAST_CMD op).put p SYS.DSTAT_NR_COND 0
  let st (x : Status) := s.status p SYS.DSTAT_LAST_STS x
  if op = 0 ∨ 5 < op then st .unknown
  else if ¬ (req = 2 ∨ (op ≠ 5 ∧ req ≤ 1)) then st .denied
  else if ¬ dcmdAccepted op d ∨ (d.running ∧ s.on p SYS.DSTAT_TRANS) ∨ (2 ≤ op ∧ op ≤ 4 ∧ s.bitOn LKS.pg LKS.STAT_HALTED 2) then
    st .illegalState
  else if op = 5 then s.toSafeHold.status p SYS.DSTAT_LAST_STS .done
  else
    match (dcmdConds d op).find? s.unmet with
    | some c => (s.put p SYS.DSTAT_NR_COND c).status p SYS.DSTAT_LAST_STS .notReady
    | none =>
      let target : DState := match op with
        | 1 => if d = .service ∧ s.on SCF.pg SCF.STAT_CHANGED then .selftest else .standby
        | 2 => .drive
        | 3 => .charge
        | _ => .service
      let s := if d = .charge then s.obcStopping 0xA else s
      let s := (((s.put p SYS.DSTAT_TARGET target.code).flag p SYS.DSTAT_TRANS true).put p SYS.DSTAT_LAST_STS 0).devSet fun v =>
        { v with boundAt := s.now }
      (if d = .drive then s.stoEval else s).put p SYS.DSTAT_LAST_STS 2

/-- STANDBY. -/
def execStandby (dt : Nat) (req : Req) (s : State) : Host.Outcome State Fault Refusal := .next ((s.advance dt).dcmd req 1)

/-- DRIVE. -/
def execDrive (dt : Nat) (req : Req) (s : State) : Host.Outcome State Fault Refusal := .next ((s.advance dt).dcmd req 2)

/-- CHARGE. -/
def execCharge (dt : Nat) (req : Req) (s : State) : Host.Outcome State Fault Refusal := .next ((s.advance dt).dcmd req 3)

/-- SERVICE. -/
def execService (dt : Nat) (req : Req) (s : State) : Host.Outcome State Fault Refusal := .next ((s.advance dt).dcmd req 4)

/-- SAFE_HOLD. -/
def execSafeHold (dt : Nat) (req : Req) (s : State) : Host.Outcome State Fault Refusal := .next ((s.advance dt).dcmd req 5)

/-- The bound of R26 for a transition to `t`, from the command on; out of CHARGE the charger gives it, and out of SERVICE
R26 states none. -/
def dcmdBound (d t : DState) : Option Nat :=
  match d, t with
  | .standby, .drive => some 400000
  | .standby, _ | .drive, _ => some 4000
  | _, _ => none

/-- The pending transition to `t` may complete now (R26). -/
def State.transitionDue (s : State) (t : DState) : Bool :=
  match dcmdBound s.dstate t with
  | some b => decide (s.now ≤ s.dev.boundAt + b)
  | none => s.dstate != .charge || decide (s.get OBC.pg OBC.STAT_STATE ≤ 1)

/-- STATE_TRANSITION_DONE: the pending transition completes within its bound; out of CHARGE only once the charger has
stopped (R26). -/
def execStateTransitionDone (dt : Nat) (s : State) : Host.Outcome State Fault Refusal :=
  let s := s.advance dt
  let p := SYS.pg
  let d := s.dstate
  let target := DState.ofCode (s.get p SYS.DSTAT_TARGET)
  if d.running ∧ s.on p SYS.DSTAT_TRANS ∧ s.transitionDue target then
    let s := s.put p SYS.DSTAT_LAST_STS 1
    let s := if target = .selftest then s.toSelftest s.dev.boundAt else s.enter target
    .next (if target = .service then (s.flag SCF.pg SCF.STAT_CHANGED false).flag SCF.pg SCF.STAT_CONSIST false else s)
  else .next s

/-! ### JTAG (R475) -/

/-- An instruction of the test access port, which a device in OFF does not take. -/
def State.jtagIr (s : State) (i : JtagIr) : State := if s.dev.off then s else s.devSet fun d => { d with jtag := i }

/-- EXTEST, CLAMP and HIGHZ act as BYPASS outside SAFE_HOLD. -/
def State.jtagHold (s : State) (i : JtagIr) : State := s.jtagIr (if s.dstate = .safeHold then i else .bypass)

/-- JTAG_BYPASS. -/
def execJtagBypass (dt : Nat) (s : State) : Host.Outcome State Fault Refusal := .next ((s.advance dt).jtagIr .bypass)

/-- JTAG_IDCODE: the code is shifted out. -/
def execJtagIdcode (dt : Nat) (s : State) : Host.Outcome State Fault Refusal :=
  let s := s.advance dt
  .next (if s.dev.off then s else (s.jtagIr .idcode).answer (.data 0x1048076B#32))

/-- The observe-only cells: in the order of R454, the PWM, GHB and STO pins are 0 to 142 and the SBC pins 375 to 382. -/
def observeOnly (cell : Nat) : Bool := decide (cell < 143) || (decide (375 ≤ cell) && decide (cell < 383))

/-- JTAG_SAMPLE_PRELOAD: `cells` are the cells shifted in; observe-only cells take no value. -/
def execJtagSamplePreload (dt : Nat) (cells : List (Nat × Bool)) (s : State) : Host.Outcome State Fault Refusal :=
  let s := s.advance dt
  .next (if s.dev.off then s else (s.jtagIr .sample).devSet fun d => { d with cells := cells.filter fun c => !observeOnly c.1 })

/-- JTAG_DTM. -/
def execJtagDtm (dt : Nat) (s : State) : Host.Outcome State Fault Refusal := .next ((s.advance dt).jtagIr .dtm)

/-- JTAG_EXTEST. -/
def execJtagExtest (dt : Nat) (s : State) : Host.Outcome State Fault Refusal := .next ((s.advance dt).jtagHold .extest)

/-- JTAG_CLAMP. -/
def execJtagClamp (dt : Nat) (s : State) : Host.Outcome State Fault Refusal := .next ((s.advance dt).jtagHold .clamp)

/-- JTAG_HIGHZ. -/
def execJtagHighz (dt : Nat) (s : State) : Host.Outcome State Fault Refusal := .next ((s.advance dt).jtagHold .highz)

end Sys2Proof.Machine
end

