-- ==== Sys2Proof/Machine/Flash.lean ====
section
/-! DEFINITION. Flash programming through the ARB page (R391, R392). -/

namespace Sys2Proof.Machine
open Sys2Proof

/-- The result of a flash command in `FLS_STAT.LAST`. -/
def State.flsLast (s : State) (code : Nat) : State := s.put ARB.pg ARB.FLS_STAT_LAST code

/-- The four words of `FLS_DATA0` to `FLS_DATA3`. -/
def State.flsData (s : State) : List W32 :=
  [0, 1, 2, 3].map fun i => s.rd (fldAddr ARB.pg (ARB.FLS_DATA.ix i))

/-- Every byte of `n` from address `a` on is 0xFF. -/
def State.erased (s : State) (a : Nat) : Nat → Bool
  | 0 => true
  | n + 1 => s.rdByte a == 0xFF#8 && s.erased (a + 1) n

/-- An operation starts. -/
def State.flsGo (s : State) (op : FlashOp) : State :=
  { s.flag ARB.pg ARB.FLS_STAT_BUSY true with arb := { s.arb with flash := some op, flashAt := s.now } }

/-- A command of `FLS_CMD` with its unlock (R391). -/
def State.flsCmd (s : State) (op : Nat) : State :=
  let p := ARB.pg
  let a := s.get p ARB.FLS_ADDR_ADDR
  let d := s.dstate
  if op ≠ 1 ∧ op ≠ 2 then s.countCmd p
  else if d ≠ .boot ∧ d ≠ .standby ∧ d ≠ .service then s.countCmd p
  else if s.on p ARB.FLS_STAT_BUSY then s.flsLast 2
  else if a < 0x08000000 ∨ 0x08FC0000 ≤ a then s.flsLast 3
  else if op = 2 then s.flsGo (.erase (a / 0x10000 * 0x10000))
  else if a % 16 ≠ 0 then s.flsLast 6
  else if s.erased a 16 then s.flsGo (.program a s.flsData)
  else s.flsLast 4

/-- A write of `FLS_CMD`: requesters 0, 1, 2 and 11 only, and RWK (R391). -/
def State.flsWrite (s : State) (req op : Nat) : State :=
  if req = 0 ∨ req = 1 ∨ req = 2 ∨ req = 11 then s.withKey ARB.pg req fun s => s.flsCmd op else s.refuse ARB.pg

/-- FLS_PROGRAM. -/
def execFlsProgram (dt : Nat) (req : Req) (s : State) : Host.Outcome State Fault Refusal := .next ((s.advance dt).flsWrite req 1)

/-- FLS_ERASE. -/
def execFlsErase (dt : Nat) (req : Req) (s : State) : Host.Outcome State Fault Refusal := .next ((s.advance dt).flsWrite req 2)

/-- Set `n` bytes from address `a` on to all ones. -/
def State.eraseBytes (s : State) (a : Nat) : Nat → State
  | 0 => s
  | n + 1 => (s.wrByte a 0xFF#8).eraseBytes (a + 1) n

/-- Set `n` bytes from address `a` on to free values. -/
def State.freeBytes (s : State) (a : Nat) : Nat → State
  | 0 => s
  | n + 1 =>
    let (w, s) := s.freshWord
    (s.wrByte a (BitVec.ofNat 8 w.toNat)).freeBytes (a + 1) n

/-- The bound of an operation in ticks (R391). -/
def FlashOp.bound : FlashOp → Nat
  | .program .. => 8000
  | .erase _ => 24000000

/-- FLASH_OP_DONE: the operation ends within its bound, and readback agrees (`ok`) or differs. -/
def execFlashOpDone (dt : Nat) (ok : Bool) (s : State) : Host.Outcome State Fault Refusal :=
  let s := s.advance dt
  let p := ARB.pg
  match s.arb.flash with
  | none => .next s
  | some op =>
    if s.arb.flashAt + op.bound < s.now then .next s else
    let s := { s.flag p ARB.FLS_STAT_BUSY false with arb := { s.arb with flash := none } }
    let s := match op, ok with
      | .program a ws, true => ((ws.zip [0, 1, 2, 3]).foldl (fun (s : State) (x : W32 × Nat) => s.wrMem (a + 4 * x.2) x.1) s).flsLast 1
      | .erase a, true => (s.eraseBytes a 0x10000).flsLast 1
      | .program a _, false => ((s.freeBytes a 16).flsLast 5).note 0xD06 1 0 0
      | .erase a, false => ((s.freeBytes a 0x10000).flsLast 5).note 0xD06 1 0 0
    .next (s.evt p ARB.EVT_FLASH)

end Sys2Proof.Machine
end

