-- ==== Sys2Proof/Machine/CirrusAdm.lean ====
section
/-! DEFINITION. The admission of Cirrus contexts: the checks of R158 and R179, the cost figures of R157 and R185, and the
coefficients of NOTCH (R195). Every function takes the configuration as it would stand after the commit. -/

namespace Sys2Proof.Machine
open Sys2Proof

/-! ### Reason 0x8: stages, bindings and coefficients (R158, R177 to R179) -/

/-- The largest `n` of a stage, or 0 for an unknown code (R184). -/
def Stage.maxN (g : Stage) : Nat :=
  match g.code with
  | 0x01 | 0x02 | 0x0E | 0x11 | 0x13 => 8
  | 0x07 | 0x08 | 0x09 | 0x0A | 0x12 | 0x14 => 4
  | 0x0B => if g.opt = 2 then 8 else 1
  | 0x03 | 0x04 | 0x05 | 0x06 | 0x0C | 0x0D | 0x0F | 0x10 | 0x15 => 1
  | _ => 0

/-- OPT values marked refused. -/
def Stage.optOk (g : Stage) : Bool :=
  match g.code with
  | 0x01 | 0x04 => decide (g.opt < 2)
  | 0x0B | 0x15 => g.opt != 3
  | _ => true

/-- A binding as a LOAD input (R177): its kind, and no unused SEL bit set. -/
def loadBindOk (w : Nat) : Bool :=
  let s := bindSel w
  match bindKind w with
  | 1 => decide (s < 128) && !s.testBit 2
  | 2 | 3 => decide (s < 3)
  | 4 => decide (s < 8)
  | 5 => decide (s < 256 ∧ s % 4 < 3) && decide (s / 4 % 4 = 0)
  | 6 => decide (s < 0x600000 ∧ s % 4 = 0)
  | 10 => s == 0
  | _ => false

/-- A binding as a STORE target. -/
def storeBindOk (w : Nat) : Bool :=
  let s := bindSel w
  match bindKind w with
  | 4 => decide (s < 65536 ∧ s / 8 % 32 = 0)
  | 6 => decide (s < 0x600000 ∧ s % 4 = 0)
  | 7 | 9 => decide (s < 6)
  | 8 => decide (s < 8)
  | _ => false

/-- A binding word of a record, referenced or not: a known kind, and no unused SEL bit set (R177). -/
def bindOk (w : Nat) : Bool :=
  loadBindOk w || storeBindOk w || (bindKind w == 0 && bindSel w == 0) || (bindKind w == 11 && decide (bindSel w < 256))

/-- The coefficient ranges of a stage. -/
def coefOk (g : Stage) (c : Nat → F32) : Bool :=
  let all (n : Nat) (f : Nat → Bool) := (List.range n).all f
  match g.code with
  | 0x07 => all g.n fun i => flt (c (4 * i + 2)) (c (4 * i + 3)) && fle 0 (c (4 * i + 1))
  | 0x08 => all g.n fun i => flt (c (6 * i + 4)) (c (6 * i + 5)) && fle 0 (c (6 * i + 1)) && flt 0 (c (6 * i + 3))
  | 0x09 => all g.n fun i => flt (fabs (c (5 * i + 4))) f1 && flt (fabs (c (5 * i + 3))) (fadd f1 (c (5 * i + 4)))
  | 0x0A => all g.n fun i =>
      let f0 := c (9 * i)
      let ft := fmul f0 (c (9 * i + 3))
      flt 0 ft && flt ft (frat 45 100) && flt 0 (c (9 * i + 1)) && fle (c (9 * i + 1)) (fmul f2 f0) &&
        fle (fint (-60)) (c (9 * i + 2)) && fle (c (9 * i + 2)) 0
  | 0x0B => if g.opt = 2 then all g.n fun i => fle (c (2 * i)) (c (2 * i + 1)) else flt 0 (c 0)
  | 0x0C => fle (frat 1 2) (c 0) && fle (c 0) f1 && fle 0 (c 1) && flt (c 2) 0
  | 0x0F | 0x10 => flt 0 (c 0) && flt 0 (c 1)
  | 0x11 => all (2 * g.n) fun i => flt 0 (c i)
  | 0x12 => flt 0 (c 1)
  | 0x15 => fle 0 (c 1) && fle (c 1) (fint 65535) && feq (ffloor (c 1)) (c 1)
  | _ => true

/-- The flag word of PI or PID holds only codes of R191. -/
def flagOk (rd : Nat → W32) (k : Nat) (g : Stage) : Bool :=
  let word (j : Nat) := recWord rd k (0x300 + 4 * (g.sb + j))
  let ok (w : Nat) := decide (w < 4 ^ g.n) && (List.range g.n).all fun i => w / 4 ^ i % 4 != 2
  match g.code with
  | 0x07 => ok (word (2 * g.n))
  | 0x08 => ok (word (4 * g.n))
  | _ => true

/-- The registers that STORE reads, by its targets. -/
def storeReach (rd : Nat → W32) (k : Nat) (g : Stage) : Nat :=
  g.src + ((List.range g.n).map fun i => targetRegs (bindWord rd k ((g.dst + i) % 16))).sum

/-- One stage of context `k` under reason 0x8. -/
def State.stageOk (t : State) (k : Nat) (g : Stage) : Bool :=
  let rd := t.rd
  let bind (b : Nat) := bindWord rd k b
  let regsOk := g.reads.all (fun r => decide (r < 32)) && (g.code == 0x13 || decide (g.writes = 0 ∨ g.dst + g.writes ≤ 32))
  let bindsOk :=
    match g.code with
    | 0x01 => decide (g.src + g.n ≤ 16) && (List.range g.n).all fun i =>
        loadBindOk (bind (g.src + i)) &&
          (bindKind (bind (g.src + i)) != 1 || t.get (ADF.pg (bits (bind (g.src + i)) 6 4)) ADF.CFG_SRC != 2)
    | 0x13 => decide (g.dst + g.n ≤ 16 ∧ storeReach rd k g ≤ 32) && (List.range g.n).all fun i =>
        storeBindOk (bind (g.dst + i)) &&
          (bindKind (bind (g.dst + i)) != 7 || t.get (TPW.pg (bindSel (bind (g.dst + i)))) TPW.CFG_CMP_SRC == 0)
    | 0x12 => g.opt % 2 == 0 || (bindKind (bind (g.cptr % 16)) == 11 && decide (bindSel (bind (g.cptr % 16)) < 256))
    | _ => true
  decide (1 ≤ g.n ∧ g.n ≤ g.maxN) && g.optOk && regsOk && decide (g.coefWords = 0 ∨ g.cptr + g.coefWords ≤ 128) &&
    bindsOk && coefOk g (stageCoef rd k g) && flagOk rd k g

/-- The enabled contexts. -/
def State.ctxEnabled (t : State) : List Nat := (List.range 256).filter fun k => t.on (CTX.pg k) CTX.CFG_EN

/-- The mailbox words and triplets that a context writes, as (kind, selector). -/
def State.ctxWrites (t : State) (k : Nat) : List (Nat × Nat) :=
  ((storeTargets t.rd k (chainOf t.rd k)).map fun x => (bindKind x.1, bindSel x.1)).filter fun x => x.1 != 6

/-- The mailbox words that DCD, OBC and the actuator channels write (R259, R274, R297), while they are enabled. -/
def State.blockWrites (t : State) : List (Nat × Nat) :=
  (if t.on DCD.pg HDR.CTRL_EN then [(4, t.get DCD.pg DCD.CTX * 256)] else []) ++
  (if t.on OBC.pg HDR.CTRL_EN then
    let a := t.get OBC.pg OBC.CTXS_PFC
    let d := t.get OBC.pg OBC.CTXS_DAB
    (List.range 4).map (fun w => (4, a * 256 + w)) ++ (List.range 2).map (fun w => (4, d * 256 + w))
   else []) ++
  ((List.range 6).filter fun n => t.on (ACT.pg n) HDR.CTRL_EN).flatMap fun n =>
    (List.range 6).map fun w => (4, t.get (ACT.pg n) ACT.LOOP_CTX * 256 + w)

/-- The contexts with a mailbox word that two of these blocks write. -/
def State.wordClash (t : State) : List Nat :=
  let l := t.blockWrites.map Prod.snd
  ((l.zipIdx.filter fun x => (l.take x.2).contains x.1).map fun x => x.1 / 256).eraseDups

/-- Reason 0x8 for context `k` among the enabled ones. -/
def State.adm8 (t : State) (all : List Nat) (k : Nat) : Bool :=
  let n := recWord t.rd k 0 % 32
  let chain := chainOf t.rd k
  let own := t.ctxWrites k
  let others := (all.filter fun j => j != k).flatMap t.ctxWrites ++ t.blockWrites
  decide (1 ≤ n ∧ n ≤ 24) && chain.all (t.stageOk k) && (List.range 16).all (fun b => bindOk (bindWord t.rd k b)) && decide (chainState chain ≤ 56) &&
    own.eraseDups.length == own.length && own.all fun x => !others.contains x

/-! ### Triggers as admission sees them (R149, R158) -/

/-- The gaps between the triggers of a grid, in fine units. -/
def Grid.gaps (g : Grid) : List Nat :=
  match g.offs with
  | [a, b] => [b - a, g.period + a - b]
  | _ => [g.period]

/-- The shortest sum of `n` consecutive gaps, cyclically. -/
def shortestRun (gaps : List Nat) (n : Nat) : Nat :=
  let q := max 1 gaps.length
  let total := gaps.sum
  ((List.range q).map fun s => n / q * total + ((List.range (n % q)).map fun i => gaps.getD ((s + i) % q) 0).sum).foldl min
    (n / q * total + total)

/-- The shortest time between a trigger of a context that is taken and the `n`-th one taken after it, in ticks. -/
def State.ctxApart (t : State) (k n : Nat) : Nat :=
  match t.ctxGrid k with
  | some g => shortestRun g.gaps (n * (t.get (CTX.pg k) CTX.TRIG_DIV + 1)) / 128
  | none => 2000 * n

/-- The shortest interval between two taken triggers of a context, in ticks. -/
def State.ctxInterval (t : State) (k : Nat) : Nat := t.ctxApart k 1

/-- The offsets of a context's triggers in the period of its grid; a trigger of no grid stands alone. -/
def State.ctxOffs (t : State) (k : Nat) : List Nat :=
  match t.ctxGrid k with
  | some g => g.offs
  | none => [0]

/-! ### Costs (R157, R185) -/

/-- CHAIN, CHECK and REDO_P of a context. -/
def State.ctxChain (t : State) (k : Nat) : Nat := ((chainOf t.rd k).map Stage.cost).sum
def State.ctxCheck (t : State) (k : Nat) : Nat :=
  if t.on (CTX.pg k) CTX.CFG_UPD then
    let chain := chainOf t.rd k
    let ps := (chain.zip (omegaDeps t.rd k chain)).filter fun x => x.1.dep && x.1.isPS x.2
    10 + 2 * (predictedBinds t.rd k chain).length + 2 * ps.length
  else 0
def State.ctxRedo (t : State) (k : Nat) : Nat :=
  if t.on (CTX.pg k) CTX.CFG_UPD then
    let chain := chainOf t.rd k
    let l := chain.zip (omegaDeps t.rd k chain)
    ((l.dropWhile fun x => !(x.1.dep && x.1.isPS x.2)).map fun x => x.1.cost).sum
  else 0

/-- The share of an engine's ticks that a context takes, as a fraction: its cost per execution times its taken triggers. -/
def State.ctxShare (t : State) (k : Nat) : Nat × Nat :=
  let c := t.ctxChain k + t.ctxCheck k
  let d := t.get (CTX.pg k) CTX.TRIG_DIV + 1
  match t.ctxGrid k with
  | some g => if g.period = 0 then (0, 1) else (c * g.offs.length * 128, g.period * d)
  | none => (c, 2000 * d)

/-! ### Reason 0x2: the window (R158) -/

/-- The interval in which an execution occupies the engine, relative to its trigger: before and after it. -/
def State.ctxSpan (t : State) (k : Nat) : Nat × Nat :=
  (if t.on (CTX.pg k) CTX.CFG_UPD then t.get (CTX.pg k) CTX.TIME_PLEAD else 0, t.ctxLatency k)

/-- The sample latch of a context after its trigger at offset `o` of its grid, the latest over its bound ports; none without
a port. A hold on another group can fall as late as the trigger. -/
def State.ctxLatchAt (t : State) (k o : Nat) : Option Int :=
  let own := t.ctxGrid k
  ((predictedBinds t.rd k (chainOf t.rd k)).filterMap fun b =>
    let w := bindWord t.rd k b
    if bindKind w = 1 then
      let g := bits w 6 4
      let conv : Int := if t.on (ADF.pg g) ADF.CFG_LEN then 152 else 72
      let hold : Int :=
        if t.get (CTX.pg k) CTX.TRIG_SRC = 3 ∧ t.get (CTX.pg k) CTX.TRIG_IDX = g then 0
        else (match own, t.adfAdmGrid g with
          | some a, some b =>
            if a.group = b.group ∧ 0 < a.period then
              -((((b.offs.map fun h => (o + a.period - h % a.period) % a.period).foldl min a.period) / 128 : Nat) : Int)
            else (0 : Int)
          | _, _ => (0 : Int))
      some (hold + conv)
    else none).foldl (fun (m : Option Int) x => some (match m with
      | some y => max x y
      | none => x)) none

/-- How far each trigger of context `j`, taken or not, occupies the window from `lo` to `hi` around the trigger of context `k`
at offset `o`, in the order of the triggers; none where the two are not on one lock group. -/
def State.ctxOverlaps (t : State) (j k o : Nat) (lo hi : Int) : Option (List Nat) :=
  let (a, b) := t.ctxSpan j
  match t.ctxGrid j, t.ctxGrid k with
  | some gj, some gk =>
    if gj.group = gk.group ∧ 0 < gj.period then
      let r := (lo.natAbs + hi.natAbs + a + b) * 128 / gj.period + 2
      some ((List.range (2 * r + 1)).flatMap fun (n : Nat) => gj.offs.filterMap fun (f : Nat) =>
        let d : Int := ((f : Int) - o + ((n : Int) - r) * gj.period) / 128
        if d - a ≤ hi ∧ lo ≤ d + b then some (min hi (d + b) - max lo (d - a)).toNat else none)
    else none
  | _, _ => none

/-- Every `d`-th element of a list from place `i` on. -/
def everyNth (l : List Nat) (d i : Nat) : List Nat := (l.zipIdx.filter fun x => x.2 % d == i).map Prod.fst

/-- What context `j` can take from the window of context `k`: its executions, and, `held`, the intervals in which it holds a
working set of the same priority; the worst case over the triggers that DIV can take. -/
def State.ctxTakes (t : State) (j k o : Nat) (held : Bool) (lo hi : Int) : Nat :=
  let cost := t.ctxChain j + t.ctxCheck j
  let div := t.get (CTX.pg j) CTX.TRIG_DIV + 1
  match t.ctxOverlaps j k o lo hi with
  | some l =>
    ((List.range div).map fun i =>
      let x := everyNth l div i
      x.length * cost + if held then x.sum else 0).foldl max 0
  | none =>
    let (a, b) := t.ctxSpan j
    let win := (hi - lo).toNat
    let len := win + a + b
    let n := (List.range (len / max 1 (t.ctxInterval j) + 2)).foldl (fun m i => if t.ctxApart j i ≤ len then i + 1 else m) 1
    n * cost + if held then min (n * min (a + b) win) win else 0

/-- The interference on engine `e` over the window of context `k` at offset `o`: blocking by a lower priority, executions of
equal or higher priority, and the holding intervals of the equal ones. -/
def State.ctxInterference (t : State) (all : List Nat) (k o e : Nat) (lo hi : Int) : Nat :=
  let prio (j : Nat) := t.get (CTX.pg j) CTX.CFG_PRIO
  let peers := all.filter fun j => j != k && (t.ctxEngines j).contains e
  let block := (peers.filter fun j => decide (prio j < prio k)).foldl (fun m j =>
    (chainOf t.rd j).foldl (fun m g => max m g.cost) m) 0
  block + ((peers.filter fun j => decide (prio k ≤ prio j)).map fun j => t.ctxTakes j k o (prio j == prio k) lo hi).sum

/-- Reason 0x2 for context `k` on its engines, with `extra` added to the hit path. -/
def State.adm2 (t : State) (all : List Nat) (k extra : Nat) : Bool :=
  let hi : Int := (t.ctxLatency k : Int) - 2
  let upd := t.on (CTX.pg k) CTX.CFG_UPD
  let lead : Int := t.get (CTX.pg k) CTX.TIME_PLEAD
  (t.ctxOffs k).all fun o =>
    let latch := t.ctxLatchAt k o
    let lo : Int := if upd then -lead else max 0 (latch.getD 0)
    (t.ctxEngines k).all fun e =>
      let i : Int := t.ctxInterference all k o e lo hi
      let path : Int :=
        if upd then max (t.ctxChain k : Int) (latch.getD lo - lo) + t.ctxCheck k + extra else t.ctxChain k + extra
      decide (path + i ≤ hi - lo)

/-! ### The other checks -/

/-- Chained triggers from context `k` return to it. -/
def State.ctxCycle (t : State) (k : Nat) : Bool :=
  ((List.range 256).foldl (fun (acc : Option Nat × Bool) _ =>
    match acc.1 with
    | none => acc
    | some j =>
      if t.get (CTX.pg j) CTX.TRIG_SRC = 6 then
        let i := t.get (CTX.pg j) CTX.TRIG_IDX
        (some i, acc.2 || i == k)
      else (none, acc.2)) (some k, false)).2

/-- Reason 0x7 for context `k`. -/
def State.adm7 (t : State) (k : Nat) : Bool :=
  let binds := ((chainOf t.rd k).filter fun g => g.code == 1).flatMap fun g => (List.range g.n).map fun i => bindWord t.rd k (g.src + i)
  let src := t.get (CTX.pg k) CTX.TRIG_SRC
  binds.all (fun w =>
    match bindKind w with
    | 1 => t.on (ADF.pg (bits w 6 4)) HDR.CTRL_EN
    | 2 | 3 => t.on (POS.pg (bindSel w % 4)) HDR.CTRL_EN
    | _ => true) &&
  (src != 6 || t.on (CTX.pg (t.get (CTX.pg k) CTX.TRIG_IDX)) CTX.CFG_EN)

/-- A supervisor uses context `k` as a traction current loop (R34, R246). -/
def State.ctxLoop (t : State) (k : Nat) : Bool :=
  (List.range 3).any fun m =>
    t.on (MSV.pg m) MSV.ONESET_EN && [MSV.ONESET_CTX6, MSV.ONESET_CTX1, MSV.ONESET_CTX2].any fun x => t.get (MSV.pg m) x == k

/-- Context `k` writes a TPW triplet. -/
def State.ctxTpw (t : State) (k : Nat) : Bool := (t.ctxWrites k).any fun x => x.1 == 7

/-- The utilisation of engine `e` as a fraction. -/
def State.engUtil (t : State) (all : List Nat) (e : Nat) : Nat × Nat :=
  ((all.filter fun k => (t.ctxEngines k).contains e).map t.ctxShare).foldl (fun a x => (a.1 * x.2 + x.1 * a.2, a.2 * x.2)) (0, 1)

/-- The utilisation of engine `e` in 0.01 %. -/
def State.engPercent (t : State) (all : List Nat) (e : Nat) : Nat :=
  let u := t.engUtil all e
  10000 * u.1 / u.2

/-- The check of one reason on context `k`. -/
def State.admOne (t : State) (all : List Nat) (reason k : Nat) : Bool :=
  let p := CTX.pg k
  let upd := t.on p CTX.CFG_UPD
  match reason with
  | 0x8 => t.adm8 all k
  | 0x9 => !t.ctxCycle k
  | 0x7 => t.adm7 k
  | 0xA => upd || decide (360 ≤ t.get p CTX.TIME_LAT)
  | 0x3 => (!(t.ctxTpw k || t.ctxLoop k) || t.get p CTX.CFG_PRIO == 3) && (!t.ctxTpw k || t.get p CTX.CFG_REACT == 3)
  | 0x4 => !upd || ((t.ctxGrid k).isSome && decide (t.get p CTX.TIME_PLEAD + 241 ≤ t.ctxInterval k) &&
      decide ((predictedBinds t.rd k (chainOf t.rd k)).length ≤ 12))
  | 0x5 => !t.on p CTX.CFG_PAIR || decide (t.get p CTX.CFG_ENG / 4 ≠ t.get p CTX.CFG_PENG / 4)
  | 0x6 => (t.ctxGrid k).isNone || (decide (2000 ≤ t.ctxInterval k) &&
      decide (t.ctxLatency k + t.get p CTX.TIME_PLEAD < t.ctxInterval k))
  | 0x2 => t.adm2 all k 0
  | _ => true

/-- Reason 0x1: the first engine above the ceiling. -/
def State.admCeil (t : State) (all : List Nat) : Option Nat :=
  (List.range 8).find? fun e => decide (t.get CIR.pg CIR.CFG_CEIL * (t.engUtil all e).2 < 100 * (t.engUtil all e).1)

/-- The first failing check in the order of R158: reason, context and engine. -/
def State.cirAdmit (t : State) : Option (Nat × Nat × Nat) :=
  let all := t.ctxEnabled
  let clash := t.wordClash
  let fails (r k : Nat) : Bool := (all.contains k && !t.admOne all r k) || (r == 8 && clash.contains k)
  let ctxFail (r : Nat) : Option (Nat × Nat × Nat) :=
    ((if r = 8 then List.range 256 else all).find? (fails r)).map fun k => (r, k, t.get (CTX.pg k) CTX.CFG_ENG)
  let early := [0x8, 0x9, 0x7, 0xA, 0x3, 0x4, 0x5, 0x6].findSome? ctxFail
  let ceil : Option (Nat × Nat × Nat) := (t.admCeil all).map fun e =>
    (0x1, ((all.find? fun k => (t.ctxEngines k).contains e).getD 0), e)
  early.or (ceil.or (ctxFail 0x2))

/-- What an admission writes to the CIR page and the context headers (R157, R174, R185). -/
def State.cirFigures (s t : State) : State :=
  let all := t.ctxEnabled
  let s := all.foldl (fun s k =>
    let p := CTX.pg k
    (((s.put p CTX.COST_CHAIN (t.ctxChain k)).put p CTX.COST_CHECK (t.ctxCheck k)).put p CTX.COST2_REDO_P (t.ctxRedo k)).flag p
      CTX.COST2_REDO_FIT (t.adm2 all k (t.ctxRedo k))) s
  let u (e : Nat) := t.engPercent all e
  let s := (List.range 8).foldl (fun s e => s.put CIR.pg (CIR.ENG_UTIL.ix e) (u e)) s
  (s.put CIR.pg CIR.ADM_UTIL_MAX (((List.range 8).map u).foldl max 0)).put CIR.pg CIR.ADM_REASON 0
    |>.flag CIR.pg CIR.STAT_ADM_OK true

/-- A failed admission is shown (R158). -/
def State.cirRefused (s : State) (f : Nat × Nat × Nat) : State :=
  let p := CIR.pg
  ((((s.put p CIR.ADM_REASON f.1).put p CIR.ADM_FAIL_CTX f.2.1).put p CIR.ADM_FAIL_ENG f.2.2).flag p CIR.STAT_ADM_OK
    false).evt p CIR.EVT_ADM_FAIL

/-! ### NOTCH coefficients (R195) -/

/-- The five filter words of a NOTCH section from f0, W, D and Ts. -/
def notchWords (f0 w d ts : F32) : List F32 :=
  let t := ftan (fmul (fmul 0x40490FDB#32 f0) ts)
  let z := fdiv w (fmul f2 f0)
  let dd := fpow10 (fdiv d (fint 20))
  let tt := fmul t t
  let zt := fmul (fmul f2 z) t
  let dzt := fmul (fmul (fmul f2 dd) z) t
  let a0 := fadd (fadd f1 zt) tt
  let mid := fdiv (fmul f2 (fsub tt f1)) a0
  [fdiv (fadd (fadd f1 dzt) tt) a0, mid, fdiv (fadd (fsub f1 dzt) tt) a0, mid, fdiv (fadd (fsub f1 zt) tt) a0]

/-- Words 4 to 8 of every NOTCH section of context `k`, computed as its record commits. -/
def State.notchCommit (s : State) (k : Nat) : State :=
  ((chainOf s.rd k).filter fun g => g.code == 0x0A).foldl (fun s g =>
    (List.range g.n).foldl (fun s j =>
      let base := g.cptr + 9 * j
      let c (i : Nat) := s.rd (fldAddr (CTX.pg k) (CTX.COEF.ix (base + i)))
      (notchWords (c 0) (c 1) (c 2) (c 3)).zipIdx.foldl (fun s x =>
        s.setWord (CTX.pg k) (CTX.COEF.ix (base + 4 + x.2)) x.1) s) s) s

end Sys2Proof.Machine
end

