-- ==== Sys2Proof/Machine/Operands.lean ====
section
/-! DEFINITION. The operand forms of a bus write: byte enables, the value formed from them, the present value of a staged
field, and the ranges that the register maps state (R45, R48, R49, R494). -/

namespace Sys2Proof.Machine
open Sys2Proof

/-! ### Byte enables (R494) -/

/-- The bits of the enabled bytes. -/
def beMask (be : Nat) : Nat :=
  [0, 1, 2, 3].foldl (fun m i => if be.testBit i then m ||| 0xFF <<< (8 * i) else m) 0

/-- The bits of a field. -/
def FieldDef.bits (f : FieldDef) : Nat := mask f.hi f.lo

/-- The bits of the fields of a register whose access code satisfies `p`. -/
def RegDef.bitsOf (r : RegDef) (p : Acc → Bool) : Nat :=
  r.fields.foldl (fun m f => if p f.acc then m ||| f.bits else m) 0

/-- Codes whose bytes keep their present value where a write does not enable them. -/
def Acc.keeps : Acc → Bool
  | .rw | .rws | .rwsk | .cz => true
  | _ => false

/-- Staged codes. -/
def Acc.staged : Acc → Bool
  | .rws | .rwsk => true
  | _ => false

/-- Codes that need the unlock. -/
def Acc.keyed : Acc → Bool
  | .rwsk | .wok => true
  | _ => false

/-- Codes that a write can act on. -/
def Acc.writable : Acc → Bool
  | .ro => false
  | _ => true

/-- The value that a write forms from the present value `cur` (R494). -/
def formWord (r : RegDef) (cur be val : Nat) : Nat :=
  (val &&& beMask be) ||| (cur &&& r.bitsOf Acc.keeps &&& (0xFFFFFFFF - beMask be))

/-- Some byte of the field is enabled. -/
def FieldDef.hit (f : FieldDef) (be : Nat) : Bool := f.bits &&& beMask be != 0

/-! ### Staged values (R45, R52) -/

/-- The change set of a requester. -/
def State.setOf (s : State) (req : Nat) : CSet := if h : req < 16 then vget s.sets ⟨req, h⟩ else CSet.empty

/-- Change the set of a requester. -/
def State.setSet (s : State) (req : Nat) (c : CSet) : State :=
  if h : req < 16 then { s with sets := vset s.sets ⟨req, h⟩ c } else s

/-- The page of a staged word. -/
def Staged.page (w : Staged) : Page := (pageAt w.addr).getD SYS.pg

/-- A staged word over the active one. -/
def Staged.onto (w : Staged) (cur : Nat) : Nat := (cur &&& (0xFFFFFFFF - w.mask)) ||| (w.val &&& w.mask)

/-- The word at `a` as a set would leave it. -/
def CSet.value (c : CSet) (a cur : Nat) : Nat :=
  match c.words.find? fun w => w.addr == a with
  | some w => w.onto cur
  | none => cur

/-- The present value of a word for a requester: staged where one is staged, else active (R494). -/
def State.present (s : State) (req a : Nat) : Nat := (s.setOf req).value a (s.rd a).toNat

/-- The present value of a field for a requester. -/
def State.presentFld (s : State) (req : Nat) (p : Page) (x : Fld) : Nat := Machine.bits (s.present req (fldAddr p x)) x.hi x.lo

/-- The page whose membership lets a page's words be staged: the CIR page for a context record (R53). -/
def stagePage (p : Page) : Page := if p.blk = .ctx then CIR.pg else p

/-- The requester's set is open, not frozen, and holds the page. -/
def State.staging (s : State) (req : Nat) (p : Page) : Bool :=
  !(s.setOf req).committing && (s.setOf req).pages.contains (stagePage p)

/-- Stage the bits `m` of word `a`; a second write replaces the staged value (R52). -/
def CSet.stage (c : CSet) (a m val : Nat) : CSet :=
  match c.words.find? fun w => w.addr == a with
  | some w =>
    let v := (w.val &&& (0xFFFFFFFF - m)) ||| (val &&& m)
    { c with words := c.words.map fun x => if x.addr = a then ⟨a, v, w.mask ||| m⟩ else x }
  | none => { c with words := c.words ++ [⟨a, val &&& m, m⟩] }

/-! ### Ranges -/

/-- The field of a formed value. -/
def FieldDef.val (f : FieldDef) (v : Nat) : Nat := Machine.bits v f.hi f.lo

/-- A plain range of a register table. -/
def FieldDef.inRange (f : FieldDef) (v : Nat) : Bool :=
  match f.acc with
  | .rw | .rws | .rwsk => decide (f.min ≤ f.val v ∧ f.val v ≤ f.max)
  | _ => true

/-- The range of coefficient `j` of the supervisor (R253); `k` gives the present coefficients. -/
def msvKOk (j : Nat) (x : F32) (k : Nat → F32) : Bool :=
  match j with
  | 0 | 2 | 3 | 4 | 5 | 7 | 8 | 11 | 12 | 13 | 15 | 19 | 25 => flt 0 x
  | 1 => fle 0 x
  | 6 => flt (fadd (k 4) (k 5)) x
  | 9 | 10 => fle 0 x && fle x f1
  | 16 => fle (frat 1 4) x && fle x (frat 1 2)
  | 18 => flt (k 17) x
  | 20 => fle (frat 1 1000) x && fle x (fint 10)
  | _ => true

/-- The range of coefficient `j` of the chopper (R254). -/
def bchKOk (j : Nat) (x : F32) : Bool := if j = 4 then fle 0 x && fle x f1 else flt 0 x

/-- The range of coefficient `j` of a position unit (R229). -/
def posKOk (j : Nat) (x : F32) : Bool := if j = 7 ∨ j = 8 then fle 0 x else flt 0 x

/-- The range of coefficient `j` of DCD (R271). -/
def dcdKOk (j : Nat) (x : F32) (k : Nat → F32) : Bool :=
  match j with
  | 5 | 13 | 15 => flt (k (j - 1)) x
  | 7 => flt (k 5) x
  | 8 => flt x (k 4)
  | 17 => fle (frat 1 10) x && fle x (frat 95 100)
  | 18 => fle 0 x && fle x f1
  | 19 => fle (k 18) x && fle x f1
  | 21 => fle (frat 1 1000) x && fle x (fint 10)
  | _ => flt 0 x

/-- The range of coefficient `j` of OBC (R290). -/
def obcKOk (j : Nat) (x : F32) (k : Nat → F32) : Bool :=
  match j with
  | 6 | 16 => flt (k (j - 1)) x
  | 7 | 8 => fle (fint 6) x && fle x (fint 80)
  | 9 => fle (frat 4 5) x && fle x f1
  | 14 => fle 0 x && fle x (fint 44000)
  | 19 | 20 | 21 | 22 => true
  | _ => flt 0 x

/-- The range of coefficient `j` of an actuator channel (R306). -/
def actKOk (j : Nat) (x : F32) (k : Nat → F32) : Bool :=
  match j with
  | 2 => flt (k 1) x
  | 3 => flt 0 x && fle x (k 2)
  | 6 => fle (frat 1 20) x && fle x (frat 9 10)
  | 8 | 9 => true
  | 10 => flt (k 9) x
  | 12 => fle (k 9) x && fle x (k 10)
  | 13 => fle 0 x && fle x (frat 1 2)
  | 15 => fle (frat 1 100) x && fle x (fint 5)
  | 16 => fle (frat 1 100) x && fle x (fint 60)
  | _ => flt 0 x

/-- The range of word `w` of a machine set of SSF (R359). -/
def ssfKOk (w : Nat) (x : F32) : Bool :=
  match w with
  | 2 | 3 | 4 | 6 | 8 | 9 => flt 0 x
  | 5 => fle 0 x && fle x f1
  | 7 => fle 0 x
  | _ => true

/-- Coefficient `j` of an array that starts at offset `base` of a page, as the writer would leave it. -/
def State.coefNow (s : State) (req : Nat) (p : Page) (base j : Nat) : F32 :=
  BitVec.ofNat 32 (s.present req (pageBase p + base + 4 * j))

/-- A bit timing of CAN (R413); the fields hold TSEG1, TSEG2 and SJW less one. -/
def canTimingOk (tseg1Min : Nat) (p : Page) (t1 t2 sj : Fld) (v : Nat) : Bool :=
  let f (x : Fld) := Machine.bits v x.hi x.lo
  decide (tseg1Min ≤ f t1 + 1 ∧ f sj ≤ f t2 ∧ p.blk = .can)

/-- Ranges that relate a value to a constant outside the register tables, to another field of the same word, or to
another register of the page as the writer would leave it (R76, R229, R253, R254, R271, R290, R306, R355, R359, R387,
R396, R409, R413). -/
def State.rangeOk (s : State) (req : Nat) (p : Page) (off v : Nat) : Bool :=
  let x : F32 := BitVec.ofNat 32 v
  let hi := v / 2 ^ 16
  let lo := v % 2 ^ 16
  let j (base : Nat) := (off - base) / 4
  let within (base n : Nat) := decide (base ≤ off ∧ off < base + 4 * n)
  match p.blk with
  | .tbu =>
    if 0x100 ≤ off ∧ off < 0x2E0 then
      let g := (off - 0x100) / 32
      if (off - 0x100) % 32 = 4 then
        decide (400 * 128 ≤ v % 2 ^ 31 ∧ s.presentFld req p (TBU.LG_PHASE_PHASE.ix g) < v % 2 ^ 31)
      else if (off - 0x100) % 32 = 8 then decide (v % 2 ^ 31 < s.present req (fldAddr p (TBU.LG_PERIOD.ix g)) % 2 ^ 31)
      else true
    else true
  | .tmu =>
    if off = 0x044 then decide (lo < hi)
    else if off = 0x048 then decide (lo < hi)
    else if off = 0x04C then decide (hi ≤ (if Config.isG1 then 0x820 else 0x9B0))
    else true
  | .arb => if off = 0x048 then decide (v % 32 < 24 ∨ v % 32 = 31) else true
  | .dma =>
    if 0x100 ≤ off ∧ off < 0x500 then
      let c := (off - 0x100) / 64
      if (off - 0x100) % 64 = 8 then decide (v % 2 ^ 19 ≤ 2 ^ s.presentFld req p (DMA.CH_CFG_SIZE.ix c))
      else if (off - 0x100) % 64 = 0xC then decide (v % 4 = 0)
      else true
    else true
  | .hlo => if off = 0x040 then decide (lo < hi) else true
  | .msv =>
    if within 0x080 26 then msvKOk (j 0x080) x (s.coefNow req p 0x080)
    else if off = 0x04C then decide (lo / 16 < hi)
    else true
  | .bch => if within 0x060 7 then bchKOk (j 0x060) x else true
  | .pos =>
    if within 0x060 10 then posKOk (j 0x060) x
    else if off = 0x088 then fle 0 x
    else if off = 0x04C then decide (lo < hi)
    else true
  | .dcd =>
    if within 0x080 23 then dcdKOk (j 0x080) x (s.coefNow req p 0x080)
    else if off = 0x040 then decide (Machine.bits v 13 12 ≤ Machine.bits v 17 16)
    else true
  | .obc =>
    if within 0x100 25 then obcKOk (j 0x100) x (s.coefNow req p 0x100)
    else if off = 0x064 then fle 0 x
    else true
  | .act =>
    if within 0x080 17 then actKOk (j 0x080) x (s.coefNow req p 0x080)
    else if off = 0x048 then decide (lo / 16 < hi)
    else true
  | .ssf => if 0x080 ≤ off ∧ off < 0x140 then ssfKOk ((off - 0x080) % 0x40 / 4) x else true
  | .can =>
    if off = 0x040 then canTimingOk 2 p CAN.NBT_TSEG1 CAN.NBT_TSEG2 CAN.NBT_SJW v
    else if off = 0x044 then canTimingOk 1 p CAN.DBT_TSEG1 CAN.DBT_TSEG2 CAN.DBT_SJW v
    else true
  | _ => true

/-- Every field of a formed value lies in its stated range. -/
def State.inRange (s : State) (req : Nat) (p : Page) (off : Nat) (r : RegDef) (v : Nat) : Bool :=
  r.fields.all (fun f => f.inRange v) && s.rangeOk req p off v

end Sys2Proof.Machine
end

