-- ==== Sys2Proof/Machine/Admission.lean ====
section
/-! DEFINITION. Admission of a change set (R33, R54): every chapter's checks on the configuration as it would stand after
the commit. Which pages are checked although they stay disabled, log 40 says. -/

namespace Sys2Proof.Machine
open Sys2Proof

/-- The configuration as it would stand after the commit of a set. -/
def State.withSet (s : State) (c : CSet) : State :=
  c.words.foldl (fun s w => s.wr w.addr (BitVec.ofNat 32 (w.onto (s.rd w.addr).toNat))) s

/-- A page is enabled. -/
def State.pageOn (t : State) (p : Page) : Bool := t.on p HDR.CTRL_EN

/-- The set touches a page of the block. -/
def CSet.touches (c : CSet) (b : Block) : Bool := c.pages.any fun p => p.blk == b

/-- The set stages some bit of the mask in a word, to a value other than the active one. -/
def CSet.alters (c : CSet) (s : State) (a m : Nat) : Bool :=
  (c.value a (s.rd a).toNat ^^^ (s.rd a).toNat) &&& m != 0

/-! ### Traction PWM (R91, R107, R108) -/

/-- The pair row of R107 for machine `m`. -/
def State.admPair (t : State) (m : Nat) : Bool :=
  let a := TPW.pg (2 * m)
  let b := TPW.pg (2 * m + 1)
  let same (x : Fld) := t.get a x == t.get b x
  let shift := t.on b TPW.CFG_HALF_SHIFT
  t.on a TPW.CFG_PAIR && !t.on b TPW.CFG_PAIR && same TPW.CFG_LG && same TPW.CFG_MODE && same TPW.CFG_UPD &&
    same TPW.CFG_MINP_MODE && same TPW.CFG_CMP_SRC && same TPW.MINP && same TPW.DT && !t.on a TPW.CFG_HALF_SHIFT &&
    (!shift || (t.lgPeriodAdm (t.get a TPW.CFG_LG) % 2 == 0 && t.on a TPW.CFG_UPD && t.on b TPW.CFG_UPD))

/-- Group `g` runs, or the set starts it (R108). -/
def State.groupRuns (t s : State) (g : Nat) : Bool :=
  t.lgRun g && (!s.lgRun g || s.lgRunning g || (if h : g < 15 then (vget s.lg ⟨g, h⟩).next.isSome else false))

/-- The rows of R108 for one enabled tri-leg. `s` is the configuration before the commit. -/
def State.admTriLeg (t s : State) (n : Fin 6) : Bool :=
  let p := TPW.pg n
  let g := t.get p TPW.CFG_LG
  let per := t.lgPeriodAdm g
  let edge := t.get p TPW.CFG_MODE == 1
  decide (4000 * 128 ≤ per ∧ per ≤ 200000 * 128) && t.groupRuns s g && decide (t.get p TPW.CFG_MODE ≤ 4) &&
    (!edge || !t.on p TPW.CFG_UPD) && decide (2 * t.tpwW n ≤ (if edge then per else per / 2)) &&
    (!t.isSix (n / 2) || t.admPair (n / 2)) && (n.1 % 2 == 0 || t.isSix (n / 2))

/-- R108. -/
def State.admTpw (t s : State) : Bool := (List.finRange 6).all fun (n : Fin 6) => !t.pageOn (TPW.pg n) || t.admTriLeg s n

/-- The set stages a register of lock group `g`. -/
def CSet.movesGroup (c : CSet) (g : Nat) : Bool :=
  c.words.any fun w => decide (fldAddr TBU.pg (TBU.LG_CFG.ix g) ≤ w.addr ∧ w.addr < fldAddr TBU.pg (TBU.LG_CFG.ix g) + 32)

/-- The set touches a TPW page, or the lock group of an enabled tri-leg (R108). -/
def State.admTpwDue (t : State) (c : CSet) : Bool :=
  c.touches .tpw || (List.range 6).any fun n => t.pageOn (TPW.pg n) && c.movesGroup (t.get (TPW.pg n) TPW.CFG_LG)

/-- An odd tri-leg is enabled only while its machine is six-phase (R91). -/
def State.admOdd (t : State) : Bool := (List.range 3).all fun m => t.isSix m || !t.pageOn (TPW.pg (2 * m + 1))

/-! ### Measurement (R118, R125 to R128, R133) -/

/-- The rows of R125 for one fast group. `s` is the configuration before the commit. -/
def State.admAdf (t s : State) (g : Nat) : Bool :=
  let p := ADF.pg g
  let src := t.get p ADF.CFG_SRC
  let per := t.lgPeriodAdm (t.get p ADF.CFG_LG)
  let h := per / 2
  let a := t.get p (ADF.PH_PHASE.ix 0)
  let b := t.get p (ADF.PH_PHASE.ix 1)
  let dist := 80 * (t.get p ADF.CFG_LEN + 1) * 128
  let spacing :=
    if t.on p ADF.CFG_DBL then decide (a < h ∧ b < h ∧ a + dist ≤ h + b ∧ h + b + dist ≤ per + a)
    else decide (a < per ∧ dist ≤ per)
  decide (src ≤ 2) && (src != 0 || (t.groupRuns s (t.get p ADF.CFG_LG) && spacing)) && t.bitOn ADR.pg ADR.ACTRL_EN (g / 4)

/-- An entry of a housekeeping sequence (R126, R127): an input that exists, an acquisition time of 60 ticks or more, and of
100 or more with gain. -/
def AdhEntry.ok (e : AdhEntry) : Bool := decide (e.ch < 24 ∧ 60 ≤ e.acq ∧ (e.gain = 1 ∨ 100 ≤ e.acq))

/-- The entries that the set stages, in use or not (R126 to R128). -/
def State.admAdhWords (t : State) (c : CSet) : Bool :=
  c.words.all fun w =>
    let v := (t.rd w.addr).toNat
    let off := w.addr - pageBase w.page
    w.page.blk != .adh || (
      if 0x100 ≤ off ∧ off < 0x190 then (nativeEntry v).ok
      else if 0x1C0 ≤ off ∧ off < 0x1E0 then (compatEntry 0 (v % 2 ^ 16)).ok && (compatEntry 0 (v / 2 ^ 16)).ok
      else true)

/-- One enabled housekeeping converter. -/
def State.admAdh (t : State) (u : Fin 4) : Bool :=
  (List.range (t.adhLen u)).all (fun n => (t.adhReg u n).ok) &&
    (List.range (t.get (ADH.pg u) ADH.CTL_ILEN + 1)).all (fun n => (t.adhInjEntry u n).ok) &&
    t.bitOn ADR.pg ADR.ACTRL_EN 2

/-- The fast groups whose page the set touches, and the enabled ones whose lock group or reference buffers it touches (R125,
R133); the housekeeping entries that it stages, and the enabled converters. -/
def State.admMeasure (t s : State) (c : CSet) : Bool :=
  let refs := c.touches .adr
  (List.range 8).all (fun g =>
      let p := ADF.pg g
      !(c.pages.contains p || (t.pageOn p && (refs || c.movesGroup (t.get p ADF.CFG_LG)))) || t.admAdf s g) &&
    t.admAdhWords c &&
    (List.finRange 4).all fun (u : Fin 4) =>
      !(t.pageOn (ADH.pg u) && (refs || c.pages.contains (ADH.pg u))) || t.admAdh u

/-! ### Positions (R208, R227) -/

/-- The rows of R227 for one position unit, enabled or not. -/
def State.admPos (t : State) (n : Nat) : Bool :=
  let p := POS.pg n
  let en := t.get p POS.CFG_SRCEN
  let pri := [t.get p POS.CFG_PRI0, t.get p POS.CFG_PRI1, t.get p POS.CFG_PRI2, t.get p POS.CFG_PRI3]
  let listed := pri.filter fun c => c != 0
  let obs := en.testBit 3
  pri.head? != some 0 && pri.all (fun c => decide (c ≤ 4)) && listed.eraseDups.length == listed.length &&
    listed.all (fun c => en.testBit (c - 1)) && decide (t.get p POS.CFG_MPP % t.get p POS.CFG_RPP = 0) &&
    fle 0 (t.rd (fldAddr p POS.DECEL)) && (List.range 10).all (fun j => posKOk j (t.rd (pageBase p + 0x060 + 4 * j))) &&
    (!obs || (t.pageOn (ADF.pg (t.get p POS.OBS_IG1)) &&
      (t.get p POS.OBS_SET == 0 || t.pageOn (ADF.pg (t.get p POS.OBS_IG2)))))

/-! ### Supervisors and chopper (R230, R240, R246, R251) -/

/-- Coefficient `j` of a page's array. -/
def State.coefAct (t : State) (p : Page) (base j : Nat) : F32 := t.rd (pageBase p + base + 4 * j)

/-- One-set running of machine `m` is well configured (R246). -/
def State.admOneSet (t : State) (m : Nat) : Bool :=
  let p := MSV.pg m
  let c6 := t.get p MSV.ONESET_CTX6
  let variant (k : Nat) : State := (t.flag (CTX.pg c6) CTX.CFG_EN false).flag (CTX.pg k) CTX.CFG_EN true
  let one (k set : Nat) : Bool :=
    let q := CTX.pg k
    !t.on q CTX.CFG_EN && t.get q CTX.CFG_PRIO == 3 && t.get q CTX.CFG_REACT == 3 && t.get q CTX.CFG_MSV == m &&
      (t.ctxWrites k == [(7, 2 * m + set)]) && (variant k).cirAdmit.isNone
  !t.on p MSV.ONESET_EN || (one (t.get p MSV.ONESET_CTX1) 0 && one (t.get p MSV.ONESET_CTX2) 1 &&
    decide (4 ≤ t.get (TPW.pg (2 * m)) TPW.STALE_MAX ∧ 4 ≤ t.get (TPW.pg (2 * m + 1)) TPW.STALE_MAX))

/-- R246 for every machine with one-set running. -/
def State.admOneSets (t : State) : Bool := (List.range 3).all t.admOneSet

/-- The DC-link group of every enabled supervisor is triggered by a lock group (R230). -/
def State.admVg (t : State) : Bool :=
  (List.range 3).all fun m => !t.pageOn (MSV.pg m) || t.get (ADF.pg (t.get (MSV.pg m) MSV.CFG_VG)) ADF.CFG_SRC == 0

/-- The list of R251 for one supervisor, enabled or not. -/
def State.admMsv (t : State) (m : Nat) : Bool :=
  let p := MSV.pg m
  let k := t.coefAct p 0x080
  let vg := t.get p MSV.CFG_VG
  let six := t.isSix m
  flt (k 24) (k 21) && flt (k 21) (k 22) && flt (k 22) (k 23) && flt 0 (k 10) && flt (k 10) (k 9) && fle (k 9) f1 &&
    fle (k 2) (k 14) && (List.range 26).all (fun j => msvKOk j (k j) k) &&
    t.pageOn (ADF.pg (t.get p MSV.CFG_IG1)) && t.pageOn (ADF.pg vg) && t.get (ADF.pg vg) ADF.CFG_SRC == 0 &&
    (!six || (t.pageOn (ADF.pg (t.get p MSV.CFG_IG2)) && t.pageOn (TPW.pg (2 * m)) && t.pageOn (TPW.pg (2 * m + 1)) &&
      t.on (TPW.pg (2 * m)) TPW.CFG_PAIR)) &&
    t.pageOn (POS.pg m)

/-! ### Converter timers (R240, R255, R258, R260, R272 to R274, R279, R280) -/

/-- The legs that DCD, OBC and BCH own, as 3·timer + leg. -/
def State.dcdLegs (t : State) : List Nat :=
  if t.pageOn DCD.pg then t.dcdTimers.flatMap fun n => (List.range 3).map fun l => 3 * n + l else []
def State.obcLegs (t : State) : List Nat :=
  if t.pageOn OBC.pg then
    [OBC.CFG_TPFC, OBC.CFG_TDP, OBC.CFG_TDS].flatMap fun x => (List.range 3).map fun l => 3 * t.get OBC.pg x + l
  else []
def State.bchLegs (t : State) : List Nat :=
  if t.pageOn BCH.pg then [3 * t.get BCH.pg BCH.CFG_TIM + t.get BCH.pg BCH.CFG_LEG] else []

/-- The contexts that STORE to timer `n`. -/
def State.cpwWriters (t : State) (n : Nat) : List Nat :=
  t.ctxEnabled.filter fun k => (t.ctxWrites k).any fun w => w.1 == 8 && w.2 == n

/-- The triplet of a timer is written by no context but the given ones. -/
def State.cpwOnly (t : State) (n : Nat) (l : List Nat) : Bool := (t.cpwWriters n).all l.contains

/-- No leg has two owners (R240, R255, R272), and no STORE targets an owned leg but those of R260 and R274. -/
def State.admLegs (t : State) : Bool :=
  let legs := t.dcdLegs ++ t.obcLegs.eraseDups ++ t.bchLegs
  let allowed (n : Nat) : List Nat :=
    (if t.pageOn DCD.pg ∧ n = t.get DCD.pg DCD.CFG_TIM0 then [t.get DCD.pg DCD.CTX] else []) ++
      (if t.pageOn OBC.pg ∧ n = t.get OBC.pg OBC.CFG_TPFC then [t.get OBC.pg OBC.CTXS_PFC] else []) ++
      (if t.pageOn OBC.pg ∧ n = t.get OBC.pg OBC.CFG_TDP then [t.get OBC.pg OBC.CTXS_DAB] else [])
  legs.eraseDups.length == legs.length && legs.all (fun l => decide (l < 24)) &&
    (legs.map (· / 3)).eraseDups.all fun n => t.cpwOnly n (allowed n)

/-- A loop context, where it is enabled: CRITICAL if required, on the grid of group `g`. -/
def State.loopOk (t : State) (k g : Nat) (critical : Bool) : Bool :=
  !t.on (CTX.pg k) CTX.CFG_EN ||
    ((!critical || t.get (CTX.pg k) CTX.CFG_PRIO == 3) && (match t.ctxGrid k with
      | some x => x.group == g
      | none => false))

/-- DCD (R255 to R260). `s` is the configuration before the commit. -/
def State.admDcd (t s : State) (c : CSet) : Bool :=
  let p := DCD.pg
  let fg := ADF.pg (t.get p DCD.CFG_FG)
  let g := t.get p DCD.CFG_LG
  let k := t.get p DCD.CTX
  let moved := [DCD.CFG_NPH, DCD.CFG_NMIN, DCD.CFG_TIM0, DCD.CFG_FG, DCD.CFG_LG, DCD.CFG_MH].any fun x => t.get p x != s.get p x
  (!moved || decide (s.get p DCD.STAT_STATE ≤ 1)) && (!t.pageOn p || (
    t.get fg ADF.CFG_SRC == 0 && t.get fg ADF.CFG_LG == g && t.on fg ADF.CFG_LEN && t.get fg ADF.INSEL_SEL0 == 0 &&
    t.get fg ADF.INSEL_SEL1 == 0xF && (!t.on p DCD.CFG_ZDIV || decide (2 * t.lgPeriodAdm g ≤ 8000 * 128)) &&
    t.loopOk k g true && (!t.on (CTX.pg k) CTX.CFG_EN || decide (t.get (CTX.pg k) CTX.TRIG_DIV < t.get p DCD.STALE_MAX)) &&
    flt (t.coefAct p 0x080 14) (t.coefAct p 0x080 15) &&
    !(c.words.any fun w => w.addr == fldAddr (CTX.pg k) (CTX.STATE.ix 56))))

/-- The steps of profile `z` as pairs of voltage and current (R280). -/
def State.obcPoints (t : State) (z : Nat) : List (Nat × Nat) :=
  ((List.range 4).map fun k =>
    let w := (t.rd (pageBase OBC.pg + 0x200 + 0x10 * z + 4 * k)).toNat
    (w / 2 ^ 16, w % 2 ^ 16)).takeWhile fun e => e.2 != 0

/-- A list rises strictly. -/
def rising : List Nat → Bool
  | a :: b :: l => decide (a < b) && rising (b :: l)
  | _ => true

/-- OBC (R272 to R274, R279, R280). -/
def State.admObc (t : State) : Bool :=
  let p := OBC.pg
  let k := t.coefAct p 0x100
  let ac := ADF.pg (t.get p OBC.CFG_FG_AC)
  let dc := ADF.pg (t.get p OBC.CFG_FG_DC)
  let tim (x : Fld) : Nat := Config.cpwGroup (t.get p x)
  let vmax := t.obc.bms3.toNat / 2 ^ 16
  !t.pageOn p || (
    t.get ac ADF.CFG_SRC == 0 && t.get ac ADF.CFG_LG == tim OBC.CFG_TPFC && t.get dc ADF.CFG_SRC == 0 &&
    t.get dc ADF.CFG_LG == tim OBC.CFG_TDP && t.get dc ADF.CFG_LG == tim OBC.CFG_TDS &&
    [OBC.CTXS_PFC, OBC.CTXS_DAB].all (fun x =>
      !t.on (CTX.pg (t.get p x)) CTX.CFG_EN || t.get (CTX.pg (t.get p x)) CTX.CFG_PRIO == 3) &&
    flt (k 19) (k 20) && flt (k 20) (k 21) && flt (k 21) (k 22) && flt 0 (k 23) &&
    (List.range 5).all fun z =>
      let vs := (t.obcPoints z).map Prod.fst
      rising vs && (!t.obc.frame || vs.all fun v => decide (v ≤ vmax)))

/-! ### Actuators (R291, R292, R295, R297, R305) -/

/-- Channel `n`. `s` is the configuration before the commit. -/
def State.admAct (t s : State) (n : Nat) : Bool :=
  let p := ACT.pg n
  let fg := ADF.pg (t.get p ACT.CFG_FG)
  let g := t.get p ACT.CFG_LG
  let moved := [ACT.CFG_MACH, ACT.CFG_COMM, ACT.CFG_FG, ACT.CFG_LG, ACT.LOOP_CTX].any fun x => t.get p x != s.get p x
  (!moved || decide (s.get p ACT.STAT_STATE ≤ 1)) && (!t.pageOn p || (
    decide (t.get p ACT.CFG_MACH ≤ 1) && !(t.get p ACT.CFG_MACH == 1 && t.on p ACT.CFG_COMM) &&
    decide (2 * (t.get p ACT.DT_MINP + t.get p ACT.DT_DT) * 128 ≤ t.lgPeriodAdm g) &&
    decide (8000 * 128 ≤ t.lgPeriodAdm g ∧ t.lgPeriodAdm g ≤ 200000 * 128) &&
    t.get fg ADF.CFG_SRC == 0 && t.get fg ADF.CFG_LG == g && t.loopOk (t.get p ACT.LOOP_CTX) g false))

/-! ### Halo (R342, R344, R345, R349) -/

/-- The SFI page. -/
def State.admSfi (t : State) : Bool :=
  let p := SFI.pg
  (List.range 16).all (fun k => t.get p (SFI.CFG_ACT.ix k) != 3) &&
    (t.get p SFI.FILT_TPO_EN == 0 || decide (4 * (t.get p SFI.TPO_PW + t.get p SFI.TPO_RECOV) < 1000 * t.get p SFI.TPO_PER))

/-- The SSF page. -/
def State.admSsf (t : State) : Bool :=
  let p := SSF.pg
  (List.range 3).all fun m =>
    let stop := t.get p (SSF.MCFG_STOP.ix m)
    stop != 0 && (decide (stop < 2) || (List.range 2).any fun c => t.bitOn p (SSF.SBCCFG_MACH.ix c) m)

/-! ### Memory blocks (R394, R398, R399, R435) -/

/-- A buffer of `2^size` bytes at `base` lies in one SRAM bank, aligned to its size, with records no larger than it. -/
def bufferOk (base size recsz : Nat) : Bool :=
  decide (0x20000000 ≤ base ∧ base + 2 ^ size ≤ 0x20600000 ∧ base % 2 ^ size = 0 ∧ size ≤ 18 ∧ recsz ≤ size)

/-- The address of a `CRC_DIN` register. -/
def isCrcDin (a : Nat) : Bool := (List.range 4).any fun i => a == fldAddr (CRC.pg i) CRC.DIN

/-- One enabled DMA channel. -/
def State.admDma (t : State) (ch : Nat) : Bool :=
  let p := DMA.pg
  let base := t.get p (DMA.CH_BASE_BASE.ix ch)
  match t.get p (DMA.CH_CFG_MODE.ix ch) with
  | 0 => bufferOk base (t.get p (DMA.CH_CFG_SIZE.ix ch)) (t.get p (DMA.CH_CFG_RECSZ.ix ch))
  | 1 =>
    if t.on p (DMA.CH_CFG_DST_FIX.ix ch) then isCrcDin base
    else decide (base % 4 = 0 ∧ 0x20000000 ≤ base ∧ base + 4 * t.get p (DMA.CH_LEN_LEN.ix ch) ≤ 0x20600000)
  | _ => false

/-- Quotas of the high class (R394). -/
def State.admArb (t : State) : Bool :=
  let high := (List.range 12).filter fun r => t.bitOn ARB.pg ARB.PRIO_HIGH r
  decide (4 * (high.map fun r => t.get ARB.pg (ARB.QUOTA.ix r)).sum ≤ t.get ARB.pg ARB.CFG_WIN)

/-- Receive rings (R435). -/
def State.admRings (t : State) : Bool :=
  (List.range 16).all fun k => !t.on CLF.pg (CLF.R_CFG_EN.ix k) ||
    bufferOk (t.get CLF.pg (CLF.R_BASE.ix k)) (t.get CLF.pg (CLF.R_CFG_SIZE.ix k)) (t.get CLF.pg (CLF.R_CFG_RECSZ.ix k))

/-! ### Pins and CAN (R413, R476) -/

/-- The blocks' GPIO pins, one entry per driver. -/
def State.gpioDrivers (t : State) : List Nat :=
  ((List.range 16).filter fun c => t.on TBU.pg (TBU.CMP_CFG_OUT_EN.ix c)).map (fun c => 32 + c) ++
    if t.pageOn OBC.pg then [OBC.IO_S2, OBC.IO_ACK, OBC.IO_PRE, OBC.IO_CLAMP].map fun x => t.get OBC.pg x else []

/-- No pin has two drivers. -/
def State.admGpio (t : State) : Bool := t.gpioDrivers.eraseDups.length == t.gpioDrivers.length

/-- The bit timing, TDC and mode of a controller change only in INIT. -/
def State.admCan (s : State) (c : CSet) : Bool :=
  (List.range 4).all fun i =>
    !(c.words.any fun w => [CAN.NBT, CAN.DBT, CAN.TDC, CAN.MODE].any fun x => w.addr == fldAddr (CAN.pg i) x) ||
      s.get (CAN.pg i) CAN.STAT_STATE == 0

/-! ### The whole set -/

/-- The pages that hold the trigger source of context `k` (R149), with those whose grid it follows, and the pages that its
binding words name (R177). -/
def State.ctxSources (t : State) (k : Nat) : List Page :=
  let i := t.get (CTX.pg k) CTX.TRIG_IDX
  (match t.get (CTX.pg k) CTX.TRIG_SRC with
    | 0 | 1 | 2 => [TBU.pg]
    | 3 => [ADF.pg (i % 8), TBU.pg]
    | 4 => [ADF.pg (i % 8)]
    | 5 => headerPages.filter fun p => evrSource p == some i
    | _ => []) ++
  (List.range 16).flatMap fun b =>
    let w := bindWord t.rd k b
    let n := bindSel w
    match bindKind w with
    | 1 => [ADF.pg (bits w 6 4), TBU.pg]
    | 2 | 3 => [POS.pg (n % 4)]
    | 5 => [MSV.pg (n % 4)]
    | 7 => [TPW.pg n]
    | _ => []

/-- Admission of the contexts is due (R33, R158): the set touches CIR, DMA or ARB, a source that an enabled context names, or
a page whose block writes mailbox words or names contexts (R246, R259, R274, R297). -/
def State.admCirDue (s : State) (c : CSet) : Bool :=
  let t := s.withSet c
  [Block.cir, .dma, .arb, .dcd, .obc, .act, .msv].any c.touches ||
    t.ctxEnabled.any fun k => (t.ctxSources k).any c.pages.contains

/-- The checks of every chapter but Cirrus, on those pages that the set touches. -/
def State.admBlocks (s : State) (c : CSet) : Bool :=
  let t := s.withSet c
  let hit (l : List Block) := l.any fun b => c.touches b
  let each (b : Block) (n : Nat) (f : Nat → Bool) := (List.range n).all fun i => !c.pages.contains ⟨b, i⟩ || f i
  t.admOdd && (!t.admTpwDue c || t.admTpw s) && t.admMeasure s c &&
    each .pos 3 t.admPos && each .msv 3 t.admMsv && (!hit [.adf, .msv] || t.admVg) &&
    (!(hit [.tpw, .msv] || s.admCirDue c) || t.admOneSets) && t.admLegs && (!hit [.dcd, .adf, .cir, .tbu] || t.admDcd s c) &&
    (!hit [.obc, .adf, .cir] || t.admObc) &&
    (!hit [.act, .adf, .cir, .tbu] || (List.range 6).all fun n => t.admAct s n) &&
    (!c.touches .sfi || t.admSfi) && (!c.touches .ssf || t.admSsf) && (!c.touches .arb || t.admArb) &&
    (!c.touches .dma || (List.range 16).all fun ch => !t.on DMA.pg (DMA.CH_CFG_EN.ix ch) || t.admDma ch) &&
    (!c.touches .clf || t.admRings) && t.admGpio && s.admCan c

/-- Admission of a set before any value is applied: the answer, and the state with what the CIR page and the context headers
then show. -/
def State.admitSet (s : State) (c : CSet) : Bool × State :=
  let ok := s.admBlocks c
  if s.admCirDue c then
    let t := s.withSet c
    match t.cirAdmit with
    | some f => (false, s.cirRefused f)
    | none => (ok, if ok then s.cirFigures t else s)
  else (ok, s)

end Sys2Proof.Machine
end

