-- ==== Sys2Proof/Machine/Comparator.lean ====
section
/-! DEFINITION. The comparators of LKS: self-test, comparator faults, transient windows and the commands of `LKS_CMD`
(R315, R320, R321, R328, R329). Comparators 0 to 2 serve AP0, AP1 and HS, comparator 3 the Cirrus contexts. -/

namespace Sys2Proof.Machine
open Sys2Proof

/-- A fault of class 0xA of pair `i`: its record carries `LKS_PLAST` and `LKS_PSTAMP` of the pair (R327); the event is
`x`. A fault of comparator 3 has no pair, and its stamp is the present tick. -/
def State.lksFault (s : State) (i : Nat) (x : Fld) (code react : Nat) : State :=
  let s := s.evt LKS.pg x
  if i < 3 then
    s.raiseAt code react 0 (s.rd (fldAddr LKS.pg (LKS.PLAST.ix i))).toNat (s.get64 LKS.pg (LKS.PSTAMP_LO.ix i))
  else s.raise code react 0

/-- A comparator fault on comparator `c` (R320). -/
def State.railFault (s : State) (c : Nat) : State :=
  (s.putBit LKS.pg LKS.STSTAT_RAIL c true).lksFault c LKS.EVT_RAIL 0xA05 5

/-- A missed self-test on comparator `c` (R321). -/
def State.testMiss (s : State) (c : Nat) : State :=
  (s.putBit LKS.pg LKS.STSTAT_MISS c true).lksFault c LKS.EVT_ST_MISS 0xA04 5

/-! ### Self-test (R321) -/

/-- The self-test period in ticks. -/
def State.testPer (s : State) : Nat := s.get LKS.pg LKS.CFG_STPER * 40000

/-- The lane field of comparator `c`. -/
def testLane (c : Nat) : Fld := ⟨0x060, 8 * c + 7, 8 * c, 0⟩

/-- The lanes of comparator `c`. -/
def testLanes (c : Nat) : Nat := if c = 3 then 64 else 192

/-- A probe of comparator `c` is complete: the lane advances, and wraps with a new direction. -/
def State.testDone (s : State) (c : Nat) : State :=
  let p := LKS.pg
  let s := s.incWrap p LKS.STCNT
  let n := s.get p (testLane c) + 1
  if n < testLanes c then s.put p (testLane c) n
  else ((s.put p (testLane c) 0).putBit p LKS.STSTAT_DIR c (!s.bitOn p LKS.STSTAT_DIR c)).evt p LKS.EVT_ST_WRAP

/-- COMPARATOR_PROBE: comparator `c` is idle, and the test of this period or an extra one (R329) runs. -/
def execComparatorProbe (dt : Nat) (c : Fin 4) (u : CmpUpset) (s : State) : Host.Outcome State Fault Refusal :=
  let s := s.advance dt
  let k := s.now / s.testPer + 1
  let due := vget s.lks.tested c != k
  if s.dev.off ∨ ¬ (due ∨ vget s.lks.extra c) then .next s
  else if u = .rail then .next (s.railFault c)
  else
    let s : State := if due then { s with lks := { s.lks with tested := vset s.lks.tested c k } }
      else { s with lks := { s.lks with extra := vset s.lks.extra c false } }
    let s := s.testDone c
    .next (if u = .blind then s.testMiss c else s)

/-- SELFTEST_MISS: at the end of a period its test of comparator `c` is not complete. -/
def execSelftestMiss (dt : Nat) (c : Fin 4) (s : State) : Host.Outcome State Fault Refusal :=
  let s := s.advance dt
  let n := s.now / s.testPer
  if ¬ s.dev.off ∧ s.now % s.testPer = 0 ∧ vget s.lks.tested c < n then
    .next ({ s with lks := { s.lks with tested := vset s.lks.tested c n } }.testMiss c)
  else .next s

/-- A commit of `LKS_CFG`: where it changes STPER, the periods of the new length count from the next one on. -/
def State.lksCommitted (s o : State) : State :=
  if o.get LKS.pg LKS.CFG_STPER = s.get LKS.pg LKS.CFG_STPER then s
  else { s with lks := { s.lks with tested := Vector.replicate 4 (s.now / s.testPer + 1) } }

/-! ### Transient windows (R315) -/

/-- TRANS_WINDOW_START: a window starts at each multiple of 400,000,000 ticks. -/
def execTransWindowStart (dt : Nat) (s : State) : Host.Outcome State Fault Refusal :=
  let s := s.advance dt
  if s.now % 400000000 = 0 then
    .next ([0, 1, 2].foldl (fun s i => s.put LKS.pg (LKS.PCNT_TRANS_WIN.ix i) 0) s)
  else .next s

/-! ### Commands (R329) -/

/-- The command `op` of `LKS_CMD`. -/
def State.lksCmd (s : State) (op : Nat) : State :=
  let p := LKS.pg
  match op with
  | 1 => s.command p LKS.CMD_LAST_STS true fun s =>
    [0, 1, 2].foldl (fun s i =>
      let s := ((s.put p (LKS.PCNT.ix i) 0).put p (LKS.PLAST.ix i) 0).put p (LKS.PPC.ix i) 0
      s.put64 p (LKS.PSTAMP_LO.ix i) 0) s
  | 2 => s.command p LKS.CMD_LAST_STS true fun s => { s with lks := { s.lks with extra := Vector.replicate 4 true } }
  | _ => s.status p LKS.CMD_LAST_STS .unknown

/-- LKS_CLR_CNT: the counts and records of the pairs to 0. -/
def execLksClrCnt (dt : Nat) (req : Req) (s : State) : Host.Outcome State Fault Refusal :=
  .next ((s.advance dt).haloCmd req LKS.pg LKS.CMD_LAST_STS fun s => s.lksCmd 1)

/-- LKS_PROBE: one extra test of every comparator. -/
def execLksProbe (dt : Nat) (req : Req) (s : State) : Host.Outcome State Fault Refusal :=
  .next ((s.advance dt).haloCmd req LKS.pg LKS.CMD_LAST_STS fun s => s.lksCmd 2)

/-! ### Slack (R14, R323) -/

/-- The slack meter of pair `r` records the boundary of the first domain that its set commits, less the tick `t` of the
confirmed COMMIT write. -/
def State.pairSlack (s : State) (r t : Nat) : State :=
  if h : r < 3 then { s with pslack := vset s.pslack ⟨r, h⟩ (min (vget s.pslack ⟨r, h⟩) ((s.now : Int) - t)) } else s

end Sys2Proof.Machine
end

