-- ==== Sys2Proof/Machine/Commit.lean ====
section
/-! DEFINITION. What a commit boundary does: the staged values of one domain become active in one tick, and every block
takes up what the new values enable, disable or change (R53 to R55). -/

namespace Sys2Proof.Machine
open Sys2Proof

/-- The words of a set that belong to a domain. -/
def CSet.wordsOf (c : CSet) (d : Domain) : List Staged := c.words.filter fun w => pageDom (stagePage w.page) == d

/-- The word of field `x` on page `p` is among the words. -/
def hasWord (ws : List Staged) (p : Page) (x : Fld) : Bool := ws.any fun w => w.addr == fldAddr p x

/-- Some word lies on the page. -/
def hasPage (ws : List Staged) (p : Page) : Bool := ws.any fun w => w.page == p

/-- Write staged words into the active registers. -/
def State.writeStaged (s : State) (ws : List Staged) : State :=
  ws.foldl (fun s w => s.wr w.addr (BitVec.ofNat 32 (w.onto (s.rd w.addr).toNat))) s

/-- The contexts whose record the words touch. -/
def touchedCtx (ws : List Staged) : List Nat := ((ws.filter fun w => w.page.blk == .ctx).map fun w => w.page.num).eraseDups

/-! ### Blocks after a commit -/

/-- A commit wrote `CTRL.EN` of DCD (R264): the runs of updates that R269 counts begin anew. -/
def State.dcdEnable (s : State) : State :=
  let st := s.get DCD.pg DCD.STAT_STATE
  if s.on DCD.pg HDR.CTRL_EN then
    if st = 0 then
      { s.dcdLatch with dcd := { s.dcdLatch.dcd with inval := 0, ov := 0, uv := 0, iph := 0, vinBad := 0, hold := 0 } }.dcdGo 1
    else s
  else if st = 0 then s
  else s.dcdLow.dcdGo 0

/-- TBU: every group whose registers changed takes the change, and the masters of SLAVE groups are checked (R78 to R80). -/
def State.tbuCommitted (s o : State) (ws : List Staged) : State :=
  let s := (List.finRange 15).foldl (fun s (g : Fin 15) =>
    let hit := [TBU.LG_CFG, TBU.LG_PERIOD, TBU.LG_PHASE, TBU.LG_START_LO, TBU.LG_START_HI].any fun x => hasWord ws TBU.pg (x.ix g)
    if hit then s.lgCommit o (hasWord ws TBU.pg (TBU.LG_START_LO.ix g) || hasWord ws TBU.pg (TBU.LG_START_HI.ix g)) g else s) s
  (List.finRange 15).foldl (fun s (g : Fin 15) => if s.lgRun g ∧ s.lgMode g = 2 then s.lgCheckMaster g else s) s

/-- The measurement pages. -/
def State.measureCommitted (s o : State) (ws : List Staged) : State :=
  let was (p : Page) := o.on p HDR.CTRL_EN
  let s := (List.finRange 8).foldl (fun s (g : Fin 8) =>
    let p := ADF.pg g
    let s := if hasWord ws p ADF.INSEL_SEL0 then s.adfReselect g else s
    if was p && !s.on p HDR.CTRL_EN then s.adfDisable g
    else if !was p && s.on p HDR.CTRL_EN then s.adfEnable g else s) s
  let s := (List.finRange 4).foldl (fun s (u : Fin 4) =>
    let p := ADH.pg u
    if was p != s.on p HDR.CTRL_EN then s.adhEnable u
    else if s.on p HDR.CTRL_EN ∧ s.get p ADH.CFG_RSRC = 2 ∧ o.get p ADH.CFG_RSRC ≠ 2 then s.adhContinuous u
    else s) s
  let s := if hasWord ws ADR.pg ADR.ACTRL then s.adrEnable (o.get ADR.pg ADR.ACTRL_EN) else s
  (List.finRange 3).foldl (fun s (n : Fin 3) => if hasPage ws (POS.pg n) then s.posCommit o n else s) s

/-- The context records (R53, R195). -/
def State.ctxsCommitted (s o : State) (ws : List Staged) : State :=
  (touchedCtx ws).foldl (fun s k => (s.ctxCommitted k (o.on (CTX.pg k) CTX.CFG_EN)).notchCommit k) s

/-- The traction pages. -/
def State.tractionCommitted (s o : State) (ws : List Staged) : State :=
  let s := (List.range 3).foldl (fun s m =>
    let p := MSV.pg m
    if o.on p HDR.CTRL_EN != s.on p HDR.CTRL_EN then s.msvEnable m
    else if hasPage ws p then s.lhActive m else s) s
  s.ghbDeliver.tpwRefreshAll

/-- A commit gave BCH another pin: the old one goes low (R240). -/
def State.bchMoved (s o : State) : State :=
  let same := [BCH.CFG_TIM, BCH.CFG_LEG, BCH.CFG_SW].all fun x => s.get BCH.pg x == o.get BCH.pg x
  if same ∨ o.get BCH.pg BCH.STAT_STATE = 0 then s
  else s.bchLow.cpwLegLow (o.get BCH.pg BCH.CFG_TIM) (o.get BCH.pg BCH.CFG_LEG)

/-- The converter pages. -/
def State.converterCommitted (s o : State) : State :=
  let moved (p : Page) := o.on p HDR.CTRL_EN != s.on p HDR.CTRL_EN
  let s := s.bchMoved o
  let s := if moved DCD.pg then s.dcdEnable else s
  let s := if moved OBC.pg then s.obcEnable else s
  if moved BCH.pg then s.bchEnable else s

/-- The actuator pages. -/
def State.actuatorCommitted (s o : State) : State :=
  (List.finRange 6).foldl (fun s (n : Fin 6) =>
    let p := ACT.pg n
    if o.on p HDR.CTRL_EN != s.on p HDR.CTRL_EN then s.actEnable n else if s.on p HDR.CTRL_EN then s.actHall n else s) s

/-- The CLF page. -/
def State.fabricCommitted (s o : State) (ws : List Staged) : State :=
  let p := CLF.pg
  let subs := (List.finRange 8).filter fun (k : Fin 8) => hasWord ws p (CLF.PSUB.ix k)
  let rings := ((List.range 16).filter fun k => hasWord ws p (CLF.R_CFG.ix k)).map fun k => (k, o.on p (CLF.R_CFG_EN.ix k))
  if hasPage ws p then s.clfCommitted (hasWord ws p HDR.CTRL_EN) (o.on p HDR.CTRL_EN) (o.get p CLF.CFG_PORT_EN) subs rings else s

/-- The GENERAL pages. -/
def State.generalCommitted (s o : State) (ws : List Staged) : State :=
  let s := if hasPage ws TBU.pg then s.tbuCommitted o ws else s
  let s := if o.on TBU.pg TBU.FABCFG_EN != s.on TBU.pg TBU.FABCFG_EN then s.fabEnable else s
  let s := (List.finRange 16).foldl (fun s (c : Fin 16) =>
    if hasWord ws DMA.pg (DMA.CH_CFG.ix c) then s.dmaCommitted c (o.on DMA.pg (DMA.CH_CFG_EN.ix c)) else s) s
  if hasWord ws ARB.pg ARB.CNTSEL then s.arbClear else s

/-- The staged words of one domain take effect. `ws` are those words. -/
def State.takeDomain (s : State) (d : Domain) (ws : List Staged) : State :=
  let o := (touchedCtx ws).foldl State.ctxFreeze s
  let s := o.writeStaged ws
  let changed := ws.any fun w =>
    match regAt w.page (w.addr - pageBase w.page) with
    | some r => (((o.rd w.addr) ^^^ (s.rd w.addr)).toNat &&& r.safeMask) != 0
    | none => false
  let s := if changed then (s.flag SCF.pg SCF.STAT_CHANGED true).flag SCF.pg SCF.STAT_CONSIST false else s
  let s := { s with scf := { s.scf with crcDue := some s.now } }
  match d with
  | .general => s.generalCommitted o ws
  | .measure => s.measureCommitted o ws
  | .loop => s.ctxsCommitted o ws
  | .traction => s.tractionCommitted o ws
  | .converter => s.converterCommitted o
  | .actuator => s.actuatorCommitted o
  | .fabric => s.fabricCommitted o ws
  | .safety => (s.lksCommitted o).stoEval.ghbDeliver

/-! ### The boundary -/

/-- The next domain of the set of requester `r` commits; after its last one the set ends (R50, R51, R54, R55); the pairs meter the
slack of the first (R323). -/
def State.commitStep (s : State) (r : Fin 16) : State :=
  let c := vget s.sets r
  match c.plan with
  | [] => s
  | (d, _) :: rest =>
    let s := s.takeDomain d (c.wordsOf d)
    let s := if c.done = 0 then s.pairSlack r c.after else s
    let s := c.pages.foldl (fun s p => s.put p HDR.CSET_STAT_STEPS_DONE (c.done + 1)) s
    if rest = [] then
      if c.cut then s.csetEnd r 9
      else
        (c.pages.foldl (fun s p => s.flag p HDR.CSET_STAT_SPLIT_DONE (c.ordered && decide (1 < c.width))) s).csetEnd r 1
    else { s with sets := vset s.sets r { c with plan := rest, done := c.done + 1, after := s.now } }

/-- The set of requester `r` waits for boundary `b`, and that boundary lies in this tick. -/
def State.commitDue (s : State) (b : Boundary) (r : Fin 16) : Bool :=
  let c := vget s.sets r
  match c.plan with
  | [] => false
  | (_, w) :: _ =>
    c.committing && c.logLeft == 0 && decide (c.after < s.now) && s.effBoundary w == b && s.boundaryNow b

/-- A commit boundary: every set that waits for it commits one domain, and at the GENERAL boundary a pending REVERT takes
effect (R53, R363). -/
def State.commitAt (s : State) (b : Boundary) : State :=
  let s := (List.finRange 16).foldl (fun s (r : Fin 16) => if s.commitDue b r then s.commitStep r else s) s
  if b = .general ∧ s.boundaryNow .general then s.scfRevertApply else s

/-- DOMAIN_COMMIT: the staged values of one domain take effect at their boundary; in another tick nothing does. -/
def execDomainCommit (dt : Nat) (b : Boundary) (s : State) : Host.Outcome State Fault Refusal :=
  .next ((s.advance dt).commitAt b)

end Sys2Proof.Machine
end

