-- ==== Sys2Proof/Machine/ChangeSet.lean ====
section
/-! DEFINITION. The operations of `CSET`: STAGE, COMMIT and ABORT (R49 to R54, R371). -/

namespace Sys2Proof.Machine
open Sys2Proof

/-- The requester whose set holds the page. -/
def State.holder (s : State) (p : Page) : Option (Fin 16) := (List.finRange 16).find? fun (r : Fin 16) => (vget s.sets r).pages.contains p

/-- The requesters that open change sets (R52). -/
def opensSets (req : Nat) : Bool := req == 0 || req == 1 || req == 2 || req == 11

/-! ### STAGE and ABORT -/

/-- STAGE: the page joins the writer's set, which opens if there is none (R49, R50). -/
def State.csetStage (s : State) (req : Nat) (p : Page) : State :=
  let c := s.setOf req
  let s := if c.pages.contains p then s else s.setSet req { c with pages := c.pages ++ [p] }
  ((s.put p HDR.CSET_STAT_STATE 1).put p HDR.CSET_STAT_SET_OWNER req).put p HDR.CSET_STAT_SPLIT_DONE 0

/-- ABORT: the writer's open set is discarded on all of its pages. -/
def State.csetAbort (s : State) (req : Nat) (p : Page) : State :=
  let c := s.setOf req
  if c.pages = [] then s.csetLast p 7
  else if c.committing then s.csetLast p 6
  else if h : req < 16 then s.csetEnd ⟨req, h⟩ 8 else s

/-! ### COMMIT -/

/-- The lock group that times a page's own timer or trigger (R49, log 41). -/
def State.ownGroup (s : State) (p : Page) : Option Nat :=
  match p.blk with
  | .tpw => some (s.get p TPW.CFG_LG)
  | .act => some (s.get p ACT.CFG_LG)
  | .dcd => some (s.get p DCD.CFG_LG)
  | .cpw => some (Config.cpwGroup p.num)
  | .bch => some (Config.cpwGroup (s.get p BCH.CFG_TIM))
  | .adf =>
    match s.get p ADF.CFG_SRC with
    | 0 => some (s.get p ADF.CFG_LG)
    | 1 => some (s.get TBU.pg (TBU.CMP_CFG_LG.ix (s.get p ADF.CFG_CMP)))
    | _ => none
  | .adh =>
    match s.get p ADH.CFG_RSRC with
    | 0 => some (s.get p ADH.CFG_LG)
    | 1 => some (s.get TBU.pg (TBU.CMP_CFG_LG.ix (s.get p ADH.CFG_RCMP)))
    | _ => none
  | _ => none

/-- The boundary of one member page at COMMIT (R53, R451). -/
def State.pageBoundary (s : State) (p : Page) : Boundary :=
  match pageDom p with
  | .general | .safety => .general
  | .fabric => if s.clfState = 4 then .superframe else .general
  | _ =>
    let sel := s.get p HDR.CSET_DOMSEL
    match (if sel = 15 then s.ownGroup p else some sel) with
    | some g => if h : g < 15 then (if s.lgRunning g then .group ⟨g, h⟩ else .general) else .general
    | none => .general

/-- The domains of a set, in the order of their codes. -/
def CSet.domains (c : CSet) : List Domain := Domain.all.filter fun d => c.pages.any fun p => pageDom p == d

/-- The plan of a set: each domain with the boundary that its pages share; none if they do not (R53). -/
def State.csetPlan (s : State) (c : CSet) : Option (List (Domain × Boundary)) :=
  c.domains.foldr (fun d acc =>
    match acc, ((c.pages.filter fun p => pageDom p == d).map s.pageBoundary).eraseDups with
    | some l, [b] => some ((d, b) :: l)
    | _, _ => none) (some [])

/-- The safety words that a set changes: address, old and new masked value, in ascending order (R370, R371). -/
def State.csetParams (s : State) (c : CSet) : List (Nat × (Nat × Nat)) :=
  c.words.foldl (fun l w =>
    let m := match regAt w.page (w.addr - pageBase w.page) with
      | some r => r.safeMask
      | none => 0
    let old := (s.rd w.addr).toNat &&& m
    let new := w.onto (s.rd w.addr).toNat &&& m
    if old = new then l else mapInsert l w.addr (old, new)) []

/-- A result on every member page, with the set still open (R51). -/
def State.csetResult (s : State) (c : CSet) (code : Nat) : State := c.pages.foldl (fun s p => s.csetLast p code) s

/-- The set of requester `r` is frozen with its plan; `log` entries are still to be programmed (R54, R371). -/
def State.csetFrozen (s : State) (r : Fin 16) (c : CSet) (ordered : Bool) (plan : List (Domain × Boundary)) (log : Nat) :
    State :=
  { s with sets := vset s.sets r { c with
      plan := plan, committing := true, ordered := ordered, done := 0, width := plan.length, after := s.now,
      logLeft := log, cut := false } }

/-- The set of requester `r` freezes with its plan; admission and the change log decide on it (R54, R371). -/
def State.csetFreeze (s : State) (r : Fin 16) (ordered : Bool) (plan : List (Domain × Boundary)) : State :=
  let c := vget s.sets r
  let params := s.csetParams c
  let s := c.pages.foldl (fun s p => (s.put p HDR.CSET_STAT_STATE 2).put p HDR.CSET_STAT_STEPS_DONE 0) s
  let (ok, s) := s.admitSet c
  let ok := ok && !(params != [] && s.on SLG.pg SLG.STAT_FULL)
  let s := { s with dev := { s.dev with admFail := !ok } }
  if !ok then s.csetEnd r 4
  else params.foldl (fun s e => s.slgPush 4 e.1 e.2.1 e.2.2 (some r)) (s.csetFrozen r c ordered plan params.length)

/-- COMMIT: the checks of R51 to R54, with the mode of the page that is written. DESIGN CHOICE (log 87): where several
refusals apply, LAST shows ILLEGAL_STATE before SPLIT_REFUSED for several domains, before TOO_WIDE, before SPLIT_REFUSED
for unequal boundaries. -/
def State.csetCommit (s : State) (req : Nat) (p : Page) : State :=
  let c := s.setOf req
  if c.pages = [] then s.csetLast p 7
  else if c.committing then s.csetLast p 6
  else
    let safety := c.domains.contains .safety || !(s.csetParams c).isEmpty
    let ordered := s.get p HDR.CSET_MODE == 1
    if s.on SYS.pg SYS.DSTAT_TRANS ∨ (safety ∧ s.dstate ≠ .service) then s.csetResult c 5
    else if ¬ ordered ∧ 1 < c.domains.length then s.csetResult c 2
    else if 4 < c.domains.length then s.csetResult c 3
    else
      match s.csetPlan c with
      | none => s.csetResult c 2
      | some plan => if h : req < 16 then s.csetFreeze ⟨req, h⟩ ordered plan else s

/-! ### A write to `CSET` -/

/-- A write to `CSET`: a refused operation leaves the whole register as it is; otherwise DOMSEL and CSET_MODE are written,
and STAGE, COMMIT and ABORT act in this order (R49, R51, R52). -/
def State.csetWrite (s : State) (req : Nat) (p : Page) (be val : Nat) : State :=
  let ops := val &&& beMask be &&& 7
  let held : Bool := match s.holder p with
    | some r => r.1 != req
    | none => false
  if isHalo p ∧ req ≠ 2 then s.refuse p
  else if ops ≠ 0 ∧ ¬ opensSets req then s.refuse p
  else if ops ≠ 0 ∧ ((s.setOf req).committing ∨ (ops.testBit 0 ∧ held)) then s.csetLast p 6
  else
    let a := fldAddr p HDR.CSET
    let m := 0xF300 &&& beMask be
    let s := s.setWord p HDR.CSET (BitVec.ofNat 32 (((s.rd a).toNat &&& (0xFFFFFFFF - m)) ||| (val &&& m)))
    let s := if ops.testBit 0 then s.csetStage req p else s
    let s := if ops.testBit 1 then s.csetCommit req p else s
    if ops.testBit 2 then s.csetAbort req p else s

/-- A command row of `CSET`: the whole register is written with one operation. -/
def State.csetRow (s : State) (req : Nat) (p : Page) (val : W32) (op : Nat) : State :=
  if pageValid p && hasHeader p then s.csetWrite req p 15 ((val.toNat &&& 0xFFFFFFF8) ||| op) else s

/-- CSET_STAGE. -/
def execCsetStage (dt : Nat) (req : Req) (page : Page) (val : W32) (s : State) : Host.Outcome State Fault Refusal :=
  .next ((s.advance dt).csetRow req page val 1)

/-- CSET_COMMIT. -/
def execCsetCommit (dt : Nat) (req : Req) (page : Page) (val : W32) (s : State) : Host.Outcome State Fault Refusal :=
  .next ((s.advance dt).csetRow req page val 2)

/-- CSET_ABORT. -/
def execCsetAbort (dt : Nat) (req : Req) (page : Page) (val : W32) (s : State) : Host.Outcome State Fault Refusal :=
  .next ((s.advance dt).csetRow req page val 4)

end Sys2Proof.Machine
end

