-- ==== Sys2Proof/Machine/Crc.lean ====
section
/-! DEFINITION. The check-value units (R403 to R405, R410). -/

namespace Sys2Proof.Machine
open Sys2Proof

/-- Width and polynomial of a POLY code (R403). -/
def crcPoly : Nat → Nat × Nat
  | 0 => (8, 0x1D)
  | 1 => (16, 0x1021)
  | 2 => (32, 0x04C11DB7)
  | _ => (32, 0x1EDC6F41)

/-- Requester `req` holds the lock of page `p` (R58). -/
def State.lockedBy (s : State) (p : Page) (req : Nat) : Bool := s.on p HDR.OWNER_LOCKED && s.get p HDR.OWNER_ID == req

/-- START (R404). The word `CRC_RES_LO` of the register map holds the state itself. -/
def State.crcStart (s : State) (p : Page) : State :=
  let (w, _) := crcPoly (s.get p CRC.CFG_POLY)
  let init := s.get p CRC.INIT
  let st := if s.get p CRC.CFG_FOLD = 2 then init ^^^ s.get p CRC.SEQ else init
  let s := (s.put p CRC.RES_LO (st % 2 ^ w)).put p CRC.RES_HI 0
  (s.flag p CRC.STAT_RUNNING true).flag p CRC.STAT_ABANDONED false

/-- Feed bytes to the unit (R404). -/
def State.crcFeed (s : State) (p : Page) (bs : List Nat) : State :=
  let (w, poly) := crcPoly (s.get p CRC.CFG_POLY)
  s.put p CRC.RES_LO (Machine.crcFeed w poly (s.on p CRC.CFG_REFIN) (s.get p CRC.RES_LO % 2 ^ w) bs)

/-- A write of `CRC_DIN` with byte enables `be` (R404); a unit that an owner's loss stopped takes no data (R405). -/
def State.crcDin (s : State) (p : Page) (be val : Nat) : State :=
  let addr := s.get p CRC.CFG_FOLD == 1
  if addr && be != 15 then s.refuse p
  else if s.on p CRC.STAT_ABANDONED then s
  else
    let bs := ((List.range 4).filter fun i => be.testBit i).map fun i => val / 256 ^ i % 256
    let s := if addr then (s.crcFeed p (leBytes 4 (s.get p CRC.ADDR))).put p CRC.ADDR (s.get p CRC.ADDR + 4) else s
    (s.crcFeed p bs).put p CRC.RES_HI (s.get p CRC.RES_HI + bs.length)

/-- What `CRC_RES_LO` reads (R405): 0 until the unit has been started or fed. -/
def State.crcResult (s : State) (p : Page) : Nat :=
  let (w, _) := crcPoly (s.get p CRC.CFG_POLY)
  let st := s.get p CRC.RES_LO % 2 ^ w
  if s.on p CRC.STAT_RUNNING || s.on p CRC.STAT_ABANDONED || s.get p CRC.RES_HI != 0 then
    (if s.on p CRC.CFG_REFOUT then reverseBits w st else st) ^^^ (s.get p CRC.XOR % 2 ^ w)
  else 0

/-- A write that only the holder of the page's lock may make (R403). -/
def State.crcOwned (s : State) (p : Page) (req : Nat) (f : State → State) : State :=
  if s.lockedBy p req then f s else s.refuse p

/-- CRC_START: a 1 in `CRC_CTL.START`. -/
def execCrcStart (dt : Nat) (req : Req) (i : Fin 4) (s : State) : Host.Outcome State Fault Refusal :=
  .next ((s.advance dt).crcOwned (CRC.pg i) req fun s => s.crcStart (CRC.pg i))

/-- CRC_DIN_WRITE. -/
def execCrcDinWrite (dt : Nat) (req : Req) (i : Fin 4) (be : BitVec 4) (val : W32) (s : State) : Host.Outcome State Fault Refusal :=
  .next ((s.advance dt).crcOwned (CRC.pg i) req fun s => s.crcDin (CRC.pg i) be.toNat val.toNat)

end Sys2Proof.Machine
end

