-- ==== Sys2Proof/Machine/Services.lean ====
section
/-! DEFINITION. Services of the common header: locks, event flags and the soft reset of a page (R41, R43, R44, R58). -/

namespace Sys2Proof.Machine
open Sys2Proof

/-! ### Locks (R58, R401) -/

/-- The page and the place of a lock's word: 0 to 3 ADH, 4 to 7 CRC, 8 to 23 the channels of DMA. -/
def lockPlace (l : Nat) : Page × (Fld → Fld) :=
  if l < 4 then (ADH.pg l, id)
  else if l < 8 then (CRC.pg (l - 4), id)
  else (DMA.pg, fun x => { x with off := x.off + 0x108 + 64 * (l - 8) })

/-- ACQ: the lock is taken if it is free; otherwise the refusal is counted. -/
def State.lockAcq (s : State) (l req : Nat) : State :=
  let (p, at_) := lockPlace l
  if 24 ≤ l then s
  else if s.on p (at_ HDR.OWNER_LOCKED) then s.incSat p HDR.ERRCNT_LOCK
  else (s.flag p (at_ HDR.OWNER_LOCKED) true).put p (at_ HDR.OWNER_ID) req

/-- An injected sequence runs only while the lock is held (R130): a release stops it at its next entry boundary, as the loss of
its owner does (log 88). -/
def State.lockStop (s : State) (l : Nat) : State :=
  if h : l < 4 then { s with adhLost := vset s.adhLost ⟨l, h⟩ (vget s.adh ⟨l, h⟩).inj.isSome } else s

/-- REL: the lock is released if the writer holds it; otherwise the refusal is counted. -/
def State.lockRel (s : State) (l req : Nat) : State :=
  let (p, at_) := lockPlace l
  if 24 ≤ l then s
  else if s.on p (at_ HDR.OWNER_LOCKED) ∧ s.get p (at_ HDR.OWNER_ID) = req then (s.flag p (at_ HDR.OWNER_LOCKED) false).lockStop l
  else s.incSat p HDR.ERRCNT_LOCK

/-- OWNER_ACQ: of two writes in the same arbiter decision the lower requester's acts first (R59). -/
def execOwnerAcq (dt : Nat) (req : Req) (lock : Nat) (rival : Option Req) (s : State) : Host.Outcome State Fault Refusal :=
  let s := s.advance dt
  match rival with
  | none => .next (s.lockAcq lock req)
  | some q => .next ((s.lockAcq lock (min req.1 q.1)).lockAcq lock (max req.1 q.1))

/-- OWNER_REL. -/
def execOwnerRel (dt : Nat) (req : Req) (lock : Nat) (s : State) : Host.Outcome State Fault Refusal :=
  .next ((s.advance dt).lockRel lock req)

/-- The lock of a page's `OWNER` register. -/
def pageLock (p : Page) : Option Nat :=
  match p.blk with
  | .adh => some p.num
  | .crc => some (4 + p.num)
  | _ => none

/-- A write to the `OWNER` register of a page, or of a DMA channel `lock` (R58, R401): ACQ and REL written to the header of
DMA are counted, and pages without a lock ignore them. -/
def State.ownerWrite (s : State) (req : Nat) (p : Page) (lock : Option Nat) (v : Nat) : State :=
  match lock with
  | some l =>
    let s := if v.testBit 8 then s.lockAcq l req else s
    if v.testBit 9 then s.lockRel l req else s
  | none => if p.blk = .dma ∧ v &&& 0x300 ≠ 0 then s.incSat p HDR.ERRCNT_LOCK else s

/-! ### Event flags (R41, R44) -/

/-- The event flags that a page defines. -/
def evtMask (p : Page) : Nat :=
  match (blockRegs p.blk).find? fun r => r.off == 0x010 with
  | some r => r.bitsOf fun _ => true
  | none => 0

/-- EVT_FORCE: each 1 sets the flag at its place; on a Halo page for HS only. -/
def State.evtForce (s : State) (req : Nat) (p : Page) (v : Nat) : State :=
  if isHalo p ∧ req ≠ 2 then s.refuse p else s.evtBits p (v &&& evtMask p)

/-- A write to `EVT`: each 1 clears its flag, but a flag that the hardware sets in the same handshake ends set. -/
def State.evtClear (s : State) (req : Nat) (p : Page) (v hw : Nat) : State :=
  let m := evtMask p
  if isHalo p ∧ req ≠ 2 then (s.refuse p).evtBits p (hw &&& m)
  else s.withLine p fun s => s.put p HDR.EVT ((s.get p HDR.EVT &&& (0xFFFFFFFF - v % 2 ^ 32)) ||| (hw &&& m))

/-- EVT_FORCE. -/
def execEvtForce (dt : Nat) (req : Req) (page : Page) (val : W32) (s : State) : Host.Outcome State Fault Refusal :=
  let s := s.advance dt
  .next (if pageValid page && hasHeader page then s.evtForce req page val.toNat else s)

/-- EVT_CLEAR. -/
def execEvtClear (dt : Nat) (req : Req) (page : Page) (val : W32) (hw : W32) (s : State) : Host.Outcome State Fault Refusal :=
  let s := s.advance dt
  .next (if pageValid page && hasHeader page then s.evtClear req page val.toNat hw.toNat else s)

/-! ### Soft reset (R42, R43) -/

/-- CPW timer `n` serves the DC-DC converter or the brake chopper, whose registers name it. -/
def State.cpwServesRun (s : State) (n : Nat) : Bool := s.dcdTimers.contains n || s.get BCH.pg BCH.CFG_TIM == n

/-- Whether a `SOFT_RST` of the page is accepted (R43). A CPW page serves the functions whose registers name its timer. -/
def State.softRstOk (s : State) (p : Page) : Bool :=
  match p.blk with
  | .tpw | .msv => s.dstate != .drive
  | .cpw => (!s.cpwServesRun p.num || !s.dstate.running) && (!s.obcTimers.contains p.num || s.dstate != .charge)
  | .bch | .dcd | .act => !s.dstate.running
  | .obc => s.dstate != .charge
  | .can => !s.dstate.running || s.get p CAN.STAT_STATE == 0
  | .clf => !s.dstate.running || s.clfState == 0
  | .adf | .adh | .pos => !s.on p HDR.CTRL_EN
  | .adr => (List.range 8).all (fun g => !s.on (ADF.pg g) HDR.CTRL_EN) && (List.range 4).all fun u => !s.on (ADH.pg u) HDR.CTRL_EN
  | .cir => s.ctxEnabled.isEmpty
  | .dma => (List.range 16).all fun c => !s.on DMA.pg (DMA.CH_CFG_EN.ix c)
  | .crc | .gpio | .dbg => true
  | _ => false

/-- An open set that holds the page is discarded (R42). DESIGN CHOICE (log 77): a set that is COMMITTING is no open set, so
it runs on, while `CSET_STAT` of the page reads its reset value until the set ends. -/
def State.dropSet (s : State) (p : Page) : State :=
  match s.holder p with
  | some r => if (vget s.sets r).committing then s else s.csetEnd r 8
  | none => s

/-- Words of a page that its soft reset leaves: the readiness, the monitor errors and the calibration of ADR (R133, R134),
and the words that report another block's state, `ADF_CALST` that of ADR and `CIR_THR` that of Zenith. -/
def softKept (p : Page) (off : Nat) : Bool :=
  match p.blk with
  | .adr => off == 0x044 || decide (0x100 ≤ off ∧ off < 0x300)
  | .adf => off == 0x064
  | .cir => off == 0x04C
  | _ => false

/-- The bits of the word at address `a` that are safety parameters. -/
def safeBits (a : Nat) : Nat :=
  match pageAt a with
  | some p =>
    match regAt p (a - pageBase p) with
    | some r => r.safeMask
    | none => 0
  | none => 0

/-- The word at address `a` returns to its reset value, but for its safety parameters, which no command changes outside
SERVICE (R17, R25; log 77). -/
def State.wordReset (s : State) (a : Nat) : State :=
  s.wr a (BitVec.ofNat 32 (((resetWord a).toNat &&& (2 ^ 32 - 1 - safeBits a)) ||| s.safeWord a (safeBits a)))

/-- Every listed word whose address satisfies `f` returns to its reset value. -/
def State.wordsReset (s : State) (f : Nat → Bool) : State :=
  s.regs.foldl (fun t e => if f e.1 then t.wordReset e.1 else t) s

/-- The registers, unlocks and 64-bit buffers of a page return to their reset values. -/
def State.clearPage (s : State) (p : Page) : State :=
  let lo := pageBase p
  let outside (a : Nat) := decide (a < lo ∨ lo + pageSize p.blk ≤ a) || softKept p (a - lo)
  let s := s.wordsReset fun a => !outside a
  { s with keys := mapKeep outside s.keys, snaps := mapKeep outside s.snaps, lows := mapKeep outside s.lows }

/-- The pins and shadow triplets of CPW timer `n` return to reset. -/
def State.cpwClear (s : State) (n : Fin 8) : State :=
  { s with cpw := vset s.cpw n Pins.low, cpwCmp := vset s.cpwCmp n (0, 0, 0) }

/-- The fabric's hidden state, slot banks and route table return to reset. -/
def State.clfClear (s : State) : State :=
  { s.wordsReset (fun a => decide (0x40081000 ≤ a ∧ a < 0x40088000)) with clf := ClfH.idle }

/-- The sequences of ADH unit `u` return to reset. -/
def State.adhClear (s : State) (u : Fin 4) : State :=
  { s with adh := vset s.adh u AdhH.idle, adhLost := vset s.adhLost u false }

/-- The contexts, their memory and their slack meters return to reset. -/
def State.ctxClear (s : State) : State :=
  { s.wordsReset (fun a => decide (0x30000000 ≤ a ∧ a < 0x30040000)) with
    ctxs := [], engAt := Vector.replicate 8 none, zslack := Vector.replicate 8 32767 }

/-- The channels and requests of DMA return to reset. -/
def State.dmaClear (s : State) : State :=
  { s with dma := Vector.replicate 16 ⟨none, 0, 0, 0⟩, dmaReq := [] }

/-- The soft reset of ADR enables every buffer: one that was disabled starts its readiness delay (R133). -/
def State.adrRestart (s : State) : State :=
  (List.finRange 3).foldl (fun s (b : Fin 3) =>
    if (vget s.adr.rdyAt b).isNone && !s.bitOn ADR.pg ADR.RSTAT_RDY b then
      { s with adr := { s.adr with rdyAt := vset s.adr.rdyAt b (some s.now) } }
    else s) s

/-- The queues, the frame in progress and the staging windows of CAN controller `i` return to reset. -/
def State.canClear (s : State) (i : Fin 4) : State :=
  { s with
    canH := vset s.canH i CanH.idle
    canWin := mapKeep (fun k => decide (¬ (pageBase (CAN.pg i) * 16 ≤ k ∧ k < (pageBase (CAN.pg i) + 0x1000) * 16))) s.canWin }

/-- The hidden state of a page's block returns to its reset value. -/
def State.clearHidden (s : State) (p : Page) : State :=
  match p.blk with
  | .tpw => if h : p.num < 6 then
      let o := vget s.tpw ⟨p.num, h⟩
      let s := { s with tpw := vset s.tpw ⟨p.num, h⟩ { TpwH.idle with
        latch := o.latch, req := o.req, mis := o.mis, perStart := o.perStart, perNom := o.perNom, perLen := o.perLen } }
      (s.flag p TPW.STAT_RANGE_ERR (o.latch.testBit 0)).tpwRefresh ⟨p.num, h⟩
    else s
  | .msv => if h : p.num < 3 then { s with msv := vset s.msv ⟨p.num, h⟩ MsvH.idle }.stoEval.ghbDeliver else s
  | .cpw => if h : p.num < 8 then s.cpwClear ⟨p.num, h⟩ else s
  | .bch => { s with bch := BchH.idle }
  | .dcd => { s with dcd := DcdH.idle }
  | .obc => { s with obc := ObcH.idle }
  | .act => if h : p.num < 6 then { s with act := vset s.act ⟨p.num, h⟩ ActH.idle } else s
  | .can => if h : p.num < 4 then (s.canClear ⟨p.num, h⟩).loseLocks 10 else s.loseLocks 10
  | .clf => s.clfClear.loseLocks 9
  | .dbg => s.loseLocks 11
  | .adf => if h : p.num < 8 then { s with adf := vset s.adf ⟨p.num, h⟩ AdfH.idle } else s
  | .adh => if h : p.num < 4 then
      (s.adhClear ⟨p.num, h⟩).put p ADH.STAT_DIV (min 3 (s.get TMU.pg TMU.THRST_LEVEL - 6))
    else s
  | .adr => s.adrRestart
  | .pos => if h : p.num < 3 then { s with pos := vset s.pos ⟨p.num, h⟩ (vget s.pos ⟨p.num, h⟩).fresh } else s
  | .cir => s.ctxClear
  | .dma => s.dmaClear
  | _ => s

/-- What must happen before the words of a page are cleared: supervisors let go of their tri-legs, and pins go low. -/
def State.beforeClear (s : State) (p : Page) : State :=
  match p.blk with
  | .msv => if s.msvSt p.num = 0 then s else s.msvRelease p.num
  | .bch => s.bchLow
  | .dcd => s.dcdLow
  | .obc => s.obcLow
  | .act => if h : p.num < 6 then s.actLow ⟨p.num, h⟩ else s
  | .can => s.canInit p.num
  | .clf => s.clfOff
  | _ => s

/-- `SOFT_RST` of a page: registers and state return to their reset values, open sets and locks on the page are discarded;
a rejected one is counted (R42, R43, R60). -/
def State.softRst (s : State) (req : Nat) (p : Page) : State :=
  if isHalo p ∧ req ≠ 2 then s.refuse p
  else if s.softRstOk p then ((((s.dropSet p).beforeClear p).clearPage p).clearHidden p)
  else s.countCmd p

/-- SOFT_RST. -/
def execSoftRst (dt : Nat) (req : Req) (page : Page) (s : State) : Host.Outcome State Fault Refusal :=
  let s := s.advance dt
  .next (if pageValid page && hasHeader page then s.softRst req page else s)

end Sys2Proof.Machine
end

