-- ==== Sys2Proof/Machine/Access.lean ====
section
/-! DEFINITION. A bus write to a register page or to a context record: every field acts by its access code, and a register
that commands a block acts in the writing handshake (R39, R41, R45 to R48, R52, R147, R355, R362, R401, R494). -/

namespace Sys2Proof.Machine
open Sys2Proof

/-! ### Fields by their access codes (R45) -/

/-- The page whose `ERRCNT` counts a refused access of page `p` (R147, R441). -/
def errPage (p : Page) : Page :=
  match p.blk with
  | .ctx => CIR.pg
  | .bank | .route => CLF.pg
  | _ => p

/-- What the fields that act in the writing handshake become. -/
def RegDef.apply (r : RegDef) (cur v : Nat) : Nat :=
  r.fields.foldl (fun c f =>
    match f.acc with
    | .rw => setBits c f.hi f.lo (f.val v)
    | .w1c => c &&& (0xFFFFFFFF - (v &&& f.bits))
    | .cz => if f.val v = 0 then setBits c f.hi f.lo 0 else c
    | _ => c) cur

/-- The requester may stage this register now: its set is open and holds the page, and a channel of DMA is its own (R45,
R401). -/
def State.mayStage (s : State) (req : Nat) (p : Page) (off : Nat) : Bool :=
  s.staging req p && (p.blk != .dma || decide (off < 0x100) || s.dmaOwner ((off - 0x100) / 64) req)

/-- In SERVICE a safety parameter is staged only by HS in an AUTH session of a device with a password (R362, R365). -/
def State.safetyOk (s : State) (req cur v m : Nat) : Bool :=
  s.dstate != .service || (cur ^^^ v) &&& m == 0 || (req == 2 && s.scfAuth && !s.scfUnset)

/-- Write the formed value `v` to a register: the answer tells whether any part was refused. An out-of-range value changes
nothing, a keyed field needs the unlock and uses it up, and a staged field needs an open set (R45, R46, R76). -/
def State.storeWord (s : State) (req : Nat) (p : Page) (off be : Nat) (r : RegDef) (v : Nat) : Bool × State :=
  let a := pageBase p + off
  let cur := (s.rd a).toNat
  let keyed := r.fields.any fun f => f.acc.keyed && f.hit be
  let open_ := s.unlocked p req
  let s := if keyed && open_ then s.setUnlock p req .none else s
  if !s.inRange req p off r v then (true, s)
  else
    let staged := r.bitsOf fun c => c.staged && (!c.keyed || (keyed && open_))
    let may := s.mayStage req p off && s.safetyOk req cur v (r.safeMask &&& staged)
    let s := s.setWord p ⟨off, 31, 0, 0⟩ (BitVec.ofNat 32 (r.apply cur v))
    let s := if staged != 0 && may then s.setSet req ((s.setOf req).stage a staged v) else s
    let pure := r.fields.all fun f => f.acc.staged || !f.acc.writable
    ((keyed && !open_) || (staged != 0 && !may && (pure || (cur ^^^ v) &&& staged != 0)), s)

/-- Write the formed value `v` to a register; a refused write is counted once. -/
def State.regStore (s : State) (req : Nat) (p : Page) (off be : Nat) (r : RegDef) (v : Nat) : State :=
  let (bad, s) := s.storeWord req p off be r v
  if bad then s.refuse (errPage p) else s

/-! ### 64-bit values (R48) -/

/-- A write to `_LO` is held for its requester. -/
def State.holdLo (s : State) (req : Nat) (p : Page) (off v : Nat) : State :=
  { s with lows := mapInsert (mapErase s.lows (pageReq p req)) (pageReq p req) (pageBase p + off, BitVec.ofNat 32 v) }

/-- A write to `_HI` at `off` writes both halves if the requester's held `_LO` belongs to it, else the upper half alone. -/
def State.storeHi (s : State) (req : Nat) (p : Page) (off be : Nat) (r : RegDef) (v : Nat) : State :=
  match s.lows.find? fun e => e.1 == pageReq p req && e.2.1 + 4 == pageBase p + off, regAt p (off - 4) with
  | some (k, (_, lo)), some rl =>
    let s := { s with lows := mapErase s.lows k }
    let (b1, s) := s.storeWord req p (off - 4) 15 rl lo.toNat
    let (b2, s) := s.storeWord req p off be r v
    if b1 || b2 then s.refuse (errPage p) else s
  | _, _ => s.regStore req p off be r v

/-! ### The common header (R41) -/

/-- Registers of the header whose write is more than its fields; `v` is the formed value. -/
def State.headerWrite (s : State) (req : Nat) (p : Page) (off be v val : Nat) : Option State :=
  match off with
  | 0x010 => some (s.evtClear req p v 0)
  | 0x014 => some (s.withLine p fun s => s.put p HDR.EVT_EN (v &&& evtMask p))
  | 0x018 => some (s.evtForce req p v)
  | 0x01C => some (s.keyWrite p req (BitVec.ofNat 32 v))
  | 0x020 => some (s.csetWrite req p be val)
  | 0x028 =>
    let s := if v.testBit 31 then s.flag p HDR.OWNER_LOST false else s
    some (s.ownerWrite req p (pageLock p) v)
  | _ => none

/-! ### Registers that command a block -/

/-- `HLO_CMD` (R356). -/
def State.hloCmd (s : State) (op mask : Nat) : State :=
  match op with
  | 1 => s.hloAck mask
  | 2 => s.hloClrLog
  | 3 => s.hloClrFirst
  | _ => s.status HLO.pg HLO.CMD_LAST_STS .unknown

/-- `STO_CMD` (R358). -/
def State.stoCmd (s : State) (op mask : Nat) : State :=
  match op with
  | 1 => s.stoRelease mask
  | 2 => s.stoCmdAssert mask
  | 3 => s.convRelease
  | 4 => s.convCmdAssert
  | _ => s.status STO.pg STO.CMD_LAST_STS .unknown

/-- `SCF_CMD` (R368). -/
def State.scfOp (s : State) (req op len : Nat) : State :=
  s.scfLen len fun s => s.scfCmd req fun s =>
    match op with
    | 1 => s.scfOpen len
    | 2 => s.scfCloseCmd
    | 3 => s.scfSetPwd len
    | 4 => s.scfConfirm
    | 5 => s.scfRevert
    | _ => s.status SCF.pg SCF.CMD_LAST_STS .unknown

/-- Command registers of the Halo pages, written by HS. -/
def State.haloWrite (s : State) (req : Nat) (p : Page) (off v : Nat) : Option State :=
  let op := v % 16
  match p.blk with
  | .hlo =>
    if off = 0x044 then some (s.kick req v)
    else if off = 0x048 then some (s.haloCmd req p HLO.CMD_LAST_STS fun s => s.hloCmd op (bits v 10 8))
    else none
  | .lks => if off = 0x070 then some (s.haloCmd req p LKS.CMD_LAST_STS fun s => s.lksCmd op) else none
  | .sfi =>
    if off = 0x048 then
      some (s.haloCmd req p SFI.CMD_LAST_STS fun s => s.sfiCmd op ⟨v / 256 % 16, Nat.mod_lt _ (by decide)⟩)
    else none
  | .sto => if off = 0x040 then some (s.haloCmd req p STO.CMD_LAST_STS fun s => s.stoCmd op (bits v 10 8)) else none
  | .ssf => if off = 0x040 then some (s.ssfOp req op (bits v 10 8) (bits v 13 12)) else none
  | .scf =>
    if off = 0x044 then some (s.scfOp req op (bits v 13 8))
    else if 0x060 ≤ off ∧ off < 0x080 then some (s.setWord p ⟨off, 31, 0, 0⟩ (BitVec.ofNat 32 v))
    else none
  | .slg => if off = 0x048 then some (s.slgRead req (BitVec.ofNat 32 v)) else none
  | _ => none

/-- Command registers of DMA and of its channels (R400, R401, R409). -/
def State.dmaWrite (s : State) (req off v : Nat) : Option State :=
  let p := DMA.pg
  if off = 0x040 then some (s.dmaOp req (v % 16) ⟨v / 256 % 16, Nat.mod_lt _ (by decide)⟩)
  else if h : 0x100 ≤ off ∧ off < 0x500 then
    let c : Fin 16 := ⟨(off - 0x100) / 64, by omega⟩
    if (off - 0x100) % 64 = 0x18 then some (s.dmaRptr req c v)
    else if (off - 0x100) % 64 = 0x30 then
      let s := if v.testBit 31 then s.flag p { HDR.OWNER_LOST with off := off } false else s
      some (s.ownerWrite req p (some (8 + c)) v)
    else none
  else none

/-- Command registers of the CAN controllers and the staging window (R416, R420, R424). -/
def State.canWrite (s : State) (req : Nat) (i : Fin 4) (off be v val : Nat) : Option State :=
  let p := CAN.pg i
  if off = 0x050 then some (s.blockCmd p CAN.CMD_LAST_STS fun s => s.canCmd i (v % 16))
  else if off = 0x0C8 then some (s.canPush i req (v % 4))
  else if off = 0x150 then some (if v.testBit 0 then s.canRxPop i else s)
  else if off = 0x1D0 then some (if v.testBit 0 then s.canHpPop i else s)
  else if 0x080 ≤ off ∧ off < 0x0C8 then
    let m := match regAt p off with
      | some r => r.bitsOf fun _ => true
      | none => 0
    some (s.canWinWr i off req (BitVec.ofNat 32 (mergeBytes be (s.canWinRd i off req).toNat val &&& m)))
  else none

/-- Command registers of the blocks below the Halo pages; `v` is the formed value. -/
def State.blockWrite (s : State) (req : Nat) (p : Page) (off be v val : Nat) (r : RegDef) : Option State :=
  let op := v % 16
  let k := p.num
  let w : W32 := BitVec.ofNat 32 v
  let plain (s : State) := s.regStore req p off be r v
  match p.blk with
  | .sys =>
    if off = 0x040 then some (s.dcmd req op)
    else if off = 0x05C then some (s.keyRevoke req v)
    else none
  | .rst => if off = 0x054 then some (s.withKey p req fun s => s.rstCmd req op) else none
  | .arb => if off = 0x050 then some (s.arbOp op) else if off = 0x074 then some (s.flsWrite req op) else none
  | .dma => s.dmaWrite req off v
  | .crc =>
    if off = 0x054 then some (s.crcOwned p req fun s => if v.testBit 0 then s.crcStart p else s)
    else if off = 0x058 then some (s.crcOwned p req fun s => s.crcDin p be v)
    else if 0x040 ≤ off ∧ off ≤ 0x050 then some (s.crcOwned p req plain)
    else none
  | .tpw =>
    if h : k < 6 then
      if off = 0x050 then some (s.tpwCmd ⟨k, h⟩ (v % 8))
      else if g : 0x060 ≤ off ∧ off < 0x06C then some (s.tpwCmp req ⟨k, h⟩ ⟨(off - 0x060) / 4, by omega⟩ v)
      else none
    else none
  | .act =>
    if h : k < 6 then
      if off = 0x058 then some (s.actOp ⟨k, h⟩ op)
      else if off = 0x05C then some (s.actTgt req ⟨k, h⟩ w)
      else if g : 0x070 ≤ off ∧ off < 0x07C then some (s.actCmp req ⟨k, h⟩ ⟨(off - 0x070) / 4, by omega⟩ v)
      else none
    else none
  | .pos => if h : k < 3 then (if off = 0x090 then some (s.posOp ⟨k, h⟩ op) else none) else none
  | .cir => if off = 0x050 then some (s.cirOp op (bits v 31 24)) else none
  | .adf => if h : k < 8 then (if off = 0x050 then some (if v.testBit 0 then s.adfInject ⟨k, h⟩ else s) else none) else none
  | .dcd =>
    if off = 0x058 then some (s.dcdVset w)
    else if off = 0x05C then some (s.blockCmd p DCD.CMD_LAST_STS fun s => s.dcdCmd op)
    else none
  | .obc =>
    if off = 0x060 then some (s.obcOp op (v.testBit 8))
    else if off = 0x06C then some (s.obcFrame req w)
    else if 0x068 ≤ off ∧ off ≤ 0x078 then some (if req ≤ 1 then plain s else s.refuse p)
    else none
  | .msv => if off = 0x050 then some (s.msvTcmd req k w) else if off = 0x054 then some (s.msvOp k op) else none
  | .bch => if off = 0x048 then some (s.bchCmd op) else none
  | .can => if h : k < 4 then s.canWrite req ⟨k, h⟩ off be v val else none
  | .clf =>
    if off = 0x054 then some (s.clfOp op (bits v 9 8))
    else if off = 0x05C then some (s.swapAt v)
    else if 0x100 ≤ off ∧ off < 0x200 ∧ off % 16 = 0xC then some (s.ringRptr ((off - 0x100) / 16) v)
    else none
  | _ => s.haloWrite req p off v

/-- What a write does beside the fields of a register: the soft reset of `CTRL`, the end of SKIPPED of a compare channel
(R81), and the sequences that `ADH_CTL` starts. -/
def State.afterWrite (s : State) (req : Nat) (p : Page) (off v : Nat) : State :=
  if off = 0x008 ∧ hasHeader p then (if v.testBit 1 then s.softRst req p else s)
  else
    match p.blk with
    | .tbu =>
      if 0x300 ≤ off ∧ off < 0x400 ∧ off % 16 = 0 then s.flag p (TBU.CMP_CFG_SKIPPED.ix ((off - 0x300) / 16)) false else s
    | .adh =>
      if h : p.num < 4 then
        if off = 0x048 then
          let s := if v.testBit 1 then s.adhRegGo ⟨p.num, h⟩ else s
          if v.testBit 0 then s.adhGo req ⟨p.num, h⟩ else s
        else s
      else s
    | _ => s

/-! ### The write -/

/-- What a register whose write is more than its fields does; none for every other. -/
def State.regAct (s : State) (req : Nat) (p : Page) (off be v val : Nat) (r : RegDef) : Option State :=
  if off < 0x040 ∧ hasHeader p then s.headerWrite req p off be v val else s.blockWrite req p off be v val r

/-- A write of the bytes `be` of the word at `addr`, which lies in a listed page or in a context record. Offsets that no
chapter assigns ignore it, and so do registers without a writable field; a record counts a write to its counter area and
costs (R147), and a Halo page one by another requester than HS (R41, R355). -/
def State.regWrite (s : State) (req addr be val : Nat) : State :=
  match pageAt addr with
  | none => s
  | some p =>
    let off := addr / 4 * 4 - pageBase p
    if be = 0 then s
    else
      match p.blk with
      | .bank => s.bankWrite addr be val
      | .route => s.routeWrite req addr be val
      | _ =>
        match regAt p off with
        | none => if p.blk = .ctx ∧ 0x040 ≤ off ∧ off < 0x060 then s.refuse (errPage p) else s
        | some r =>
          if !(r.fields.any fun f => f.acc.writable) then (if p.blk = .ctx then s.refuse (errPage p) else s)
          else if isHalo p ∧ req ≠ 2 then s.refuse p
          else
            let v := formWord r (s.present req (pageBase p + off)) be val
            match s.regAct req p off be v val r with
            | some t => t
            | none =>
              match r.half with
              | .lo => s.holdLo req p off v
              | .hi => s.storeHi req p off be r v
              | .none => (s.regStore req p off be r v).afterWrite req p off v

/-- A write of requester `req` on the bus to a word of a page; elsewhere there is no register, and the answer is a bus
error. -/
def State.pageWrite (s : State) (req addr be val : Nat) : State :=
  if (pageAt addr).isSome then (s.regWrite req addr be val).answer .done else s.answer .error

/-- REGISTER_WRITE: a write with byte enables to a register or a context record. -/
def execRegisterWrite (dt : Nat) (req : Req) (addr : Nat) (be : BitVec 4) (val : W32) (s : State) :
    Host.Outcome State Fault Refusal :=
  .next ((s.advance dt).pageWrite req addr be.toNat val.toNat)

/-- Which half of a 64-bit value lies at `addr`. -/
def halfAt (addr : Nat) : Half :=
  match pageAt addr with
  | some p =>
    match regAt p (addr - pageBase p) with
    | some r => r.half
    | none => .none
  | none => .none

/-- PAIR_WRITE_LO: the half is held. -/
def execPairWriteLo (dt : Nat) (req : Req) (addr : Nat) (val : W32) (s : State) : Host.Outcome State Fault Refusal :=
  let s := s.advance dt
  if halfAt addr = .lo then .next (s.pageWrite req addr 15 val.toNat) else .next s

/-- PAIR_WRITE_HI: both halves, or the upper one alone. -/
def execPairWriteHi (dt : Nat) (req : Req) (addr : Nat) (val : W32) (s : State) : Host.Outcome State Fault Refusal :=
  let s := s.advance dt
  if halfAt addr = .hi then .next (s.pageWrite req addr 15 val.toNat) else .next s

end Sys2Proof.Machine
end

