-- ==== Sys2Proof/Machine/Bus.lean ====
section
/-! DEFINITION. The bus: reads of register pages with their side effects, accesses to memories, arbitration and ECC
(R39, R46, R48, R88, R174, R324, R388 to R397, R402, R494). -/

namespace Sys2Proof.Machine
open Sys2Proof

/-! ### Values that a page computes when it is read -/

/-- The levels that the blocks drive on `GPIO0` to `GPIO47` (R476): pin and level. -/
def State.gpioDriven (s : State) : List (Nat × Bool) :=
  (((List.finRange 16).filter fun (c : Fin 16) => s.cmpDrives c).map fun c => (32 + c.1, s.cmpLevel c)) ++
    if s.on OBC.pg HDR.CTRL_EN then
      [(s.get OBC.pg OBC.IO_S2, s.obc.outS2), (s.get OBC.pg OBC.IO_ACK, s.obc.outAck),
        (s.get OBC.pg OBC.IO_PRE, s.obc.outPre), (s.get OBC.pg OBC.IO_CLAMP, s.on OBC.pg OBC.STAT_CLAMP)]
    else []

/-- The levels of pins 32·k to 32·k + 31; a pin that nobody drives has a free level. -/
def State.gpioIn (s : State) (k : Nat) : Nat × State :=
  let (w, s) := s.freshWord
  let n := if k = 0 then 32 else 16
  let drv := s.gpioDriven
  let level (i : Nat) : Bool :=
    if ¬ s.dstate.running then w.toNat.testBit i
    else
      match drv.find? fun d => d.1 == 32 * k + i with
      | some d => d.2
      | none =>
        if (s.rd (pageBase GPIO.pg + 0x050 + 4 * k)).toNat.testBit i then (s.rd (pageBase GPIO.pg + 0x048 + 4 * k)).toNat.testBit i
        else w.toNat.testBit i
  ((List.range n).foldl (fun a i => if level i then a ||| 2 ^ i else a) 0, s)

/-- The channels of DMA that are owned. -/
def State.dmaOwnedChs (s : State) : List Nat := (List.range 16).filter fun c => s.on DMA.pg (DMA.OWN_LOCKED.ix c)

/-- Whether the group's scheduled triggers are active. -/
def State.adfRunning (s : State) (p : Page) : Bool :=
  s.on p HDR.CTRL_EN &&
    (match s.get p ADF.CFG_SRC with
    | 0 => s.lgRunning (s.get p ADF.CFG_LG)
    | 1 =>
      let c := s.get p ADF.CFG_CMP
      s.on TBU.pg (TBU.CMP_CFG_EN.ix c) && s.lgRunning (s.get TBU.pg (TBU.CMP_CFG_LG.ix c))
    | _ => false)

/-- An execution is in progress on engine `e`. -/
def State.engBusy (s : State) (e : Nat) : Bool :=
  s.ctxs.any fun x => match x.2.exec with
    | some q => (s.execRuns x.1 q).contains e
    | none => false

/-- The mask of the numbers below `n` that satisfy `f`. -/
def maskOf (n : Nat) (f : Nat → Bool) : Nat := (List.range n).foldl (fun a i => if f i then a ||| 2 ^ i else a) 0

/-- The status of lockstep pair `i` (R329). -/
def State.pairStat (s : State) (i : Fin 3) : Nat :=
  let h := vget s.lks.pairs i
  h.win.length * 2 ^ 16 + h.fifo.length * 2 ^ 8 + b2n h.halted * 4 + b2n h.retry.isSome * 2 + b2n (h.run && !h.halted)

/-- The carrier of a tri-leg is in the second half of its period (R93, R113). -/
def State.tpwSecond (s : State) (p : Page) (h : TpwH) : Bool :=
  let half := h.perNom / 2
  let past (t : Nat) := decide (t / 128 ≤ s.now)
  h.perNom != 0 &&
    (if s.on p TPW.CFG_HALF_SHIFT then !past (h.perStart + half) || past (h.perStart + 2 * half) else past (h.perStart + half))

/-- The pair of machine `m` is admitted under R107: six-phase, with both members enabled (R113). -/
def State.tpwPaired (s : State) (m : Nat) : Bool :=
  s.isSix m && s.on (TPW.pg (2 * m)) HDR.CTRL_EN && s.on (TPW.pg (2 * m + 1)) HDR.CTRL_EN &&
    s.on (TPW.pg (2 * m)) TPW.CFG_PAIR

/-- A word as a read finds it: `w` is the stored word. -/
def State.wordNow (s : State) (p : Page) (off w : Nat) : Nat :=
  match p.blk with
  | .sys =>
    if off = 0x00C then
      setBits (setBits w 2 2 (b2n s.dstate.running)) 1 1 (b2n (s.halo.alive && (s.dstate.running || s.dstate == .selftest)))
    else w
  | .evr => if 0x040 ≤ off ∧ off < 0x054 then (s.evrPend ((off - 0x040) / 4)).toNat else w
  | .tbu =>
    let ft := unsigned 64 s.fabricTime
    match off with
    | 0x00C =>
      setBits w 4 4 (b2n (match s.tbu.syncAt with
        | some t => decide (s.now ≤ t + 16777215)
        | none => false))
    | 0x048 => s.calstatNow w
    | 0x050 => s.now % 2 ^ 32
    | 0x054 => s.now / 2 ^ 32 % 2 ^ 32
    | 0x058 => ft % 2 ^ 32
    | 0x05C => ft / 2 ^ 32
    | _ => w
  | .dma =>
    if off = 0x028 then
      match s.dmaOwnedChs with
      | c :: _ => setBits (setBits w 16 16 1) 3 0 (s.get DMA.pg (DMA.OWN_OWNER_ID.ix c))
      | [] => setBits (setBits w 16 16 0) 3 0 0
    else w
  | .crc => if off = 0x060 then s.crcResult p else w
  | .gpio =>
    if off = 0x058 then maskOf 32 fun i => s.gpioDriven.any fun d => d.1 == i
    else if off = 0x05C then maskOf 16 fun i => s.gpioDriven.any fun d => d.1 == 32 + i
    else w
  | .tpw =>
    if off = 0x00C then
      let h : TpwH := if h : p.num < 6 then vget s.tpw ⟨p.num, h⟩ else TpwH.idle
      let run := s.on TBU.pg (TBU.LG_STAT_RUNNING.ix (s.get p TPW.CFG_LG))
      setBits (setBits (setBits w 6 6 (b2n (run && s.tpwSecond p h))) 5 5 (b2n (s.tpwPaired (p.num / 2)))) 1 1
        (b2n (tpwPeriodOk h.perNom && run))
    else w
  | .pos => if off = 0x00C then setBits w 2 2 (b2n (s.posAsc p.num)) else w
  | .dcd =>
    if off = 0x00C then setBits w 9 9 (b2n (s.get TBU.pg (TBU.LG_STAT_SYNC_ST.ix (s.get DCD.pg DCD.CFG_LG)) == 2)) else w
  | .adf =>
    if off = 0x00C then setBits (setBits w 1 1 (b2n (s.adfRunning p))) 0 0 (b2n !(s.refBad (if p.num < 4 then 0 else 1))) else w
  | .cir =>
    if off = 0x00C then setBits w 7 0 (maskOf 8 fun e => s.ctxEnabled.any fun k => (s.ctxEngines k).contains e)
    else if off = 0x048 then setBits w 7 0 (maskOf 8 s.engBusy)
    else w
  | .lks =>
    if 0x080 ≤ off ∧ off < 0x0E0 ∧ off % 32 = 0 then s.pairStat ⟨(off - 0x080) / 32 % 3, Nat.mod_lt _ (by decide)⟩ else w
  | .scf => if off = SCF.LOCK_REMAIN.off then setBits w SCF.LOCK_REMAIN.hi SCF.LOCK_REMAIN.lo s.scfRemain else w
  | _ => w

/-- A word whose value a read finds outside the state: supply voltages, whether a supply that rose above its overvoltage
threshold is still above it (R479), the balls of a tri-leg, which may differ from their
commanded levels for up to 8 ticks without a fault and, with dead time 0, lag by the interlock (R106, log 90), and
undriven pins. -/
def State.wordFree (s : State) (p : Page) (off w : Nat) : Nat × State :=
  match p.blk with
  | .pwr =>
    if 0x060 ≤ off ∧ off < 0x078 then
      let (v, s) := s.freshWord
      (v.toNat % 2 ^ 16, s)
    else if off = PWR.STAT.off then
      let (v, s) := s.freshWord
      (w &&& v.toNat, s)
    else (w, s)
  | .tbu =>
    if off = TBU.TRIM.off then
      let (v, s) := s.trimNow
      (unsigned 32 v, s)
    else (w, s)
  | .tpw =>
    if h : p.num < 6 then
      if off = TPW.PINS_BALL.off then
        let (b, s) := s.freshWord
        ((vget s.tpw ⟨p.num, h⟩).pins.levels s.fineNow * 256 + b.toNat % 64, s)
      else (w, s)
    else (w, s)
  | .sto =>
    if off = 0x00C then
      let a := s.halo.pathA % 16 + s.halo.pathB % 16 * 16
      let (f, s) := s.freshWord
      let v := maskOf 8 fun i => if s.halo.stoMis.testBit i then f.toNat.testBit i else a.testBit i
      (setBits (setBits (setBits w 26 24 (v / 16)) 18 16 v) 13 12 (v / 8 % 2 + v / 128 * 2), s)
    else (w, s)
  | .gpio => if off = 0x040 then s.gpioIn 0 else if off = 0x044 then s.gpioIn 1 else (w, s)
  | _ => (w, s)

/-! ### Reads of a page (R45 to R48) -/

/-- The bits of a register that a read shows. -/
def RegDef.readMask (r : RegDef) : Nat := r.bitsOf fun a => a != .wo && a != .wok

/-- A word of a page without the side effects of a read. -/
def State.pageWord (s : State) (req : Nat) (p : Page) (off : Nat) : Nat × State :=
  let w := (s.rd (pageBase p + off)).toNat
  match p.blk with
  | .bank | .route => (w, s)
  | _ =>
    match regAt p off with
    | none => (0, s)
    | some r =>
      if off = 0x01C ∧ hasHeader p then (b2n (s.unlocked p req), s)
      else if h : p.blk = .can ∧ p.num < 4 ∧ 0x080 ≤ off ∧ off < 0x0C8 then ((s.canWinRd ⟨p.num, h.2.1⟩ off req).toNat, s)
      else
        let (v, s) := s.wordFree p off (s.wordNow p off w)
        (v &&& r.readMask, s)

/-- What a read of a word clears (R88, R174, R329). -/
def State.readClear (s : State) (p : Page) (off : Nat) : State :=
  match p.blk with
  | .tbu =>
    if 0x404 ≤ off ∧ off < 0x504 ∧ off % 16 = 4 then s.flag p (TBU.CAP_CFG_NEW.ix ((off - 0x404) / 16)) false else s
  | .cir => if 0x080 ≤ off ∧ off < 0x0A0 then s.put p (CIR.ENG_MINSLACK.ix ((off - 0x080) / 4)) 0x7FFF else s
  | .lks => if off = 0x00C then s.put p LKS.STAT_HALT_REF 0 else s
  | _ => s

/-- A read of the word at offset `off` of a page by requester `req`, with its side effects (R48, R494). -/
def State.pageRead (s : State) (req : Nat) (p : Page) (off : Nat) : Nat × State :=
  let s := if p.blk = .obc then s.obcTick else s
  let half := match regAt p off with
    | some r => r.half
    | none => Half.none
  match half with
  | .hi =>
    match s.snaps.find? fun e => e.1 == pageReq p req && e.2.1 + 4 == pageBase p + off with
    | some (_, (_, v)) => (v.toNat, s)
    | none =>
      let (v, s) := s.pageWord req p off
      (v, s.refuse (errPage p))
  | .lo =>
    let (v, s) := s.pageWord req p off
    let (u, s) := s.pageWord req p (off + 4)
    let k := pageReq p req
    (v, { s with snaps := mapInsert (mapErase s.snaps k) k (pageBase p + off, BitVec.ofNat 32 u) }.readClear p off)
  | .none =>
    let (v, s) := s.pageWord req p off
    (v, s.readClear p off)

/-! ### One access (R39, R494) -/

/-- Bytes of an access: 1, 2 or 4. -/
def busBytes (q : BusReq) : Nat := 2 ^ q.size.1

/-- An access that the bus may answer: aligned, in a listed place, and not a store to boot ROM or flash; Halo SRAM serves HS
alone. -/
def busOk (req a n : Nat) (store : Bool) : Bool :=
  decide (a % n = 0) &&
    match regionOf a with
    | some .rom | some .flash => !store
    | some .sram => true
    | some .halo => req == 2
    | none => (pageAt a).isSome

/-- The byte enables of `n` bytes at address `a`. -/
def enables (a n : Nat) : Nat := (2 ^ n - 1) * 2 ^ (a % 4)

/-- A read of `n` bytes at address `a`: none where it ends with a bus error. -/
def State.busRead (s : State) (req a n : Nat) : Option W32 × State :=
  if busOk req a n false then
    match regionOf a, pageAt a with
    | some _, _ => (some (BitVec.ofNat 32 (s.rdBytes a n)), s)
    | none, some p =>
      let (v, s) := s.pageRead req p (a / 4 * 4 - pageBase p)
      (some (BitVec.ofNat 32 (v / 256 ^ (a % 4) % 256 ^ n)), s)
    | none, none => (none, s)
  else (none, s)

/-- A write of the low `n` bytes of `v` to address `a`: false where it ends with a bus error. -/
def State.busWrite (s : State) (req a n : Nat) (v : W32) : Bool × State :=
  if busOk req a n true then
    match regionOf a with
    | some _ => (true, s.wrBytes a v.toNat n)
    | none => (true, s.regWrite req a (enables a n) (v.toNat % 256 ^ n * 256 ^ (a % 4)))
  else (false, s)

/-- Executions that bind the SRAM word at `a` end as late, when the engine's access to it meets a bus error (R389). -/
def State.cirBusError (s : State) (a : Nat) : State :=
  s.ctxs.foldl (fun s x =>
    s.execSet x.1 fun e =>
      if e.st ≠ .waiting ∧ (List.range 16).any fun b =>
          bindKind (bindWord e.rd x.1 b) == 6 && 0x20000000 + bindSel (bindWord e.rd x.1 b) % 2 ^ 23 == a / 4 * 4 then
        { e with spoilt := true }
      else e) s

/-- The channel whose access a DMA port makes: the pending record of the lowest PERIPH channel, else the lowest BLOCK
channel that runs (R397). -/
def State.portChannel (s : State) (req : Nat) : Option (Fin 16) :=
  let chs := (List.finRange 16).filter fun (c : Fin 16) => dmaPort c == req
  match chs.find? fun c => (vget s.dma c).cur.isSome with
  | some c => some c
  | none => chs.find? fun c => s.on DMA.pg (DMA.CH_CHST_BUSY.ix c) && s.get DMA.pg (DMA.CH_CFG_MODE.ix c) == 1

/-- An access of `req` at `a` has ended with a bus error (R39, R389, R402). -/
def State.busError (s : State) (req a : Nat) : State :=
  let s := s.answer .error
  if req = 7 then s.cirBusError a
  else
    match s.portChannel req with
    | some c => s.dmaError c
    | none => s

/-- The access of request `q`, which has been granted. An uncorrectable error refuses a read, and a store of less than a
word; boot ROM cannot correct at all (R388, R389). -/
def State.busDo (s : State) (q : BusReq) (ecc : Ecc) : State :=
  let reads := q.write.isNone || q.size.1 != 2
  let mem := (regionOf q.addr).isSome
  let bad := mem && reads && (ecc == .double || (ecc == .single && regionOf q.addr == some .rom))
  let s := if ¬ mem ∨ ¬ reads then s
    else match ecc with
      | .none => s
      | .single => s.eccSingle (q.addr / 4 * 4)
      | .double => s.eccDouble (q.addr / 4 * 4)
  if bad then s.busError q.req q.addr
  else
    match q.write with
    | none =>
      match s.busRead q.req q.addr (busBytes q) with
      | (some v, s) => s.answer (.data v)
      | (none, s) => s.busError q.req q.addr
    | some v =>
      match s.busWrite q.req q.addr (busBytes q) v with
      | (true, s) => s.answer .done
      | (false, s) => s.busError q.req q.addr

/-- A program or erase operation keeps the bank of address `a` (R391, R392): banks 25 and 26 are programmed by firmware,
bank 27 by SCF and SLG. -/
def State.bankBusy (s : State) (a : Nat) : Bool :=
  match bankOf a with
  | some 25 | some 26 =>
    (match s.arb.flash with
    | some (.program t _) | some (.erase t) => bankOf t == bankOf a
    | none => false)
  | some 27 => s.scf.lockStore || decide (s.scf.op ≠ .none) || !s.scf.queue.isEmpty
  | _ => false

/-- BUS_ACCESS: the requests that are present in one decision of the bank of the first of them. The arbiter grants one, and
the others wait; a request to a page meets no arbiter, and one that the bus refuses takes no grant. -/
def execBusAccess (dt : Nat) (reqs : List BusReq) (ecc : Ecc) (s : State) : Host.Outcome State Fault Refusal :=
  let s := (s.advance dt).arbRoll
  match reqs with
  | [] => .next s
  | q :: _ =>
    if !busOk q.req q.addr (busBytes q) q.write.isSome then .next (s.busError q.req q.addr)
    else
      match bankOf q.addr with
      | none => .next (s.busDo q .none)
      | some b =>
        let here := reqs.filter fun x => bankOf x.addr == some b && busOk x.req x.addr (busBytes x) x.write.isSome
        let rs := here.map fun x => x.req.1
        if s.bankBusy q.addr then .next ((s.arbWait b rs false).answer .none)
        else
          match s.arbChoose b rs with
          | none => .next s
          | some (r, high) =>
            let s := (s.arbTake b r high).arbWait b (rs.filter fun x => x != r) true
            match here.find? fun x => x.req.1 == r with
            | some x => .next (s.busDo x ecc)
            | none => .next s

/-! ### Reads of 64-bit values (R48, R88) -/

/-- A read of the word at `addr`, answered. -/
def State.readReply (s : State) (req addr : Nat) : State :=
  match s.busRead req addr 4 with
  | (some v, s) => s.answer (.data v)
  | (none, s) => s.answer .error

/-- PAIR_READ_LO: the lower half, and the snapshot of the upper half. -/
def execPairReadLo (dt : Nat) (req : Req) (addr : Nat) (s : State) : Host.Outcome State Fault Refusal :=
  let s := s.advance dt
  if halfAt addr = .lo then .next (s.readReply req addr) else .next s

/-- PAIR_READ_HI: the snapshot, or the live upper half. -/
def execPairReadHi (dt : Nat) (req : Req) (addr : Nat) (s : State) : Host.Outcome State Fault Refusal :=
  let s := s.advance dt
  if halfAt addr = .hi then .next (s.readReply req addr) else .next s

/-- CAP_STAMP_LO_READ: the read clears NEW of the capture channel. -/
def execCapStampLoRead (dt : Nat) (req : Req) (c : Fin 16) (s : State) : Host.Outcome State Fault Refusal :=
  .next ((s.advance dt).readReply req (fldAddr TBU.pg (TBU.CAP_STAMP_LO.ix c)))

/-! ### Block transfers (R397, R398, R402, R404) -/

/-- The destination word of a transfer: BASE and on, or always BASE with DST_FIX. A `CRC_DIN` takes it while the channel's
owner holds the unit's lock. -/
def State.burstStore (s : State) (c : Fin 16) (a : Nat) (v : W32) : Bool × State :=
  match pageAt a with
  | some p =>
    if p.blk = .crc ∧ a - pageBase p = 0x058 then
      (true, s.crcOwned p (s.get DMA.pg (DMA.OWN_OWNER_ID.ix c)) fun s => s.crcDin p 15 v.toNat)
    else s.busWrite (dmaPort c) a 4 v
  | none => s.busWrite (dmaPort c) a 4 v

/-- Up to `n` words of a burst of channel `c`; a bus error stops the channel. -/
def State.burst (s : State) (c : Fin 16) : Nat → State
  | 0 => s
  | n + 1 =>
    let h := vget s.dma c
    if h.left = 0 then s
    else
      let src := s.get DMA.pg (DMA.CH_SRC_SRC.ix c) + 4 * h.pos
      let base := s.get DMA.pg (DMA.CH_BASE_BASE.ix c)
      let dst := if s.on DMA.pg (DMA.CH_CFG_DST_FIX.ix c) then base else base + 4 * h.pos
      match (s.granted (dmaPort c) src).busRead (dmaPort c) src 4 with
      | (none, s) => s.dmaError c
      | (some v, s) =>
        match (s.granted (dmaPort c) dst).burstStore c dst v with
        | (false, s) => s.dmaError c
        | (true, s) =>
          let s := s.dmaSet c fun h => { h with left := h.left - 1, pos := h.pos + 1 }
          let s := s.put64 DMA.pg (DMA.CH_REC_LO.ix c) (s.get64 DMA.pg (DMA.CH_REC_LO.ix c) + 1)
          s.burst c n

/-- DMA_BLOCK_BURST: a BLOCK channel moves up to 16 words, when its port has no record to write and no lower BLOCK channel
runs. An error of a memory (`err`) stops it after a free number of words. -/
def execDmaBlockBurst (dt : Nat) (ch : Fin 16) (err : Bool) (s : State) : Host.Outcome State Fault Refusal :=
  let s := s.advance dt
  if s.portChannel (dmaPort ch) = some ch ∧ (vget s.dma ch).cur = none ∧ 0 < (vget s.dma ch).left then
    if err then
      let (n, s) := s.freshNat
      .next ((s.burst ch (n % min 16 (vget s.dma ch).left)).dmaError ch)
    else .next (s.burst ch 16)
  else .next s

end Sys2Proof.Machine
end

