-- ==== Sys2Proof/Machine/Lockstep.lean ====
section
/-! DEFINITION. The lockstep pairs: retirement, early and full comparison, commit, mismatch and retry, asynchronous inputs
and debug (R307 to R319, R324 to R328). -/

namespace Sys2Proof.Machine
open Sys2Proof

/-! ### The compare word (R309) -/

/-- A field of a compare word. -/
def lanes (w : BitVec 192) (hi lo : Nat) : Nat := bits w.toNat hi lo

/-- The lowest lane in which two words differ; 0xFF where they agree. -/
def firstLane (n : Nat) (a b : Nat) : Nat := ((List.range n).find? fun i => a.testBit i != b.testBit i).getD 0xFF

/-- The pair executes: it is out of reset, and not halted. -/
def PairH.live (h : PairH) : Bool := h.run && !h.halted

/-- The state of pair `i`. -/
def State.pairOf (s : State) (i : Fin 3) : PairH := vget s.lks.pairs i

/-! ### Mismatch and retry (R313 to R315) -/

/-- Fault 0xA02: a mismatch of any cause during the retry. -/
def State.lasting (s : State) (i : Fin 3) : State :=
  let s := (s.put LKS.pg (LKS.PLAST_OUTCOME.ix i) 3).putBit LKS.pg LKS.STAT_RETRY i false
  (s.pairSet i fun h => { h with win := [], retry := none }).lksFault i LKS.EVT_LASTING 0xA02 5

/-- A mismatch at position `pos` of the window with a cause and a lane: the unconfirmed entries are discarded, and a first
mismatch starts the retry of `n` entries. -/
def State.mismatch (s : State) (i : Fin 3) (cause lane pos n : Nat) : State :=
  let p := LKS.pg
  let h := s.pairOf i
  let s := ((s.put p (LKS.PLAST_CAUSE.ix i) cause).put p (LKS.PLAST_LANE.ix i) lane).put p (LKS.PLAST_SLOT.ix i)
    ((h.slot + pos) % 8)
  let s := (s.setWord p (LKS.PPC.ix i) h.pc).put64 p (LKS.PSTAMP_LO.ix i) s.now
  if h.retry.isSome then s.lasting i
  else
    let s := (s.put p (LKS.PLAST_OUTCOME.ix i) 1).putBit p LKS.STAT_RETRY i true
    s.pairSet i fun h => { h with win := [], retry := some n }

/-- A parity error (R319): a mismatch with cause PARITY and no lane, and fault 0xA06. -/
def State.parityError (s : State) (i : Fin 3) (pos n : Nat) : State :=
  let s := s.incSat LKS.pg (LKS.PCNT_PAR.ix i)
  (s.mismatch i 3 0xFF pos n).lksFault i LKS.EVT_PARITY 0xA06 0

/-- The retry ends without a mismatch: fault 0xA01, and 0xA03 where the window has more than TMAX transients. -/
def State.transient (s : State) (i : Fin 3) : State :=
  let p := LKS.pg
  let s := (s.put p (LKS.PLAST_OUTCOME.ix i) 2).putBit p LKS.STAT_RETRY i false
  let s := s.pairSet i fun h => { h with retry := none }
  let n := s.get p (LKS.PCNT_TRANS_WIN.ix i) + 1
  let s := (s.incSat p (LKS.PCNT_TRANS.ix i)).incSat p (LKS.PCNT_TRANS_WIN.ix i)
  let s := s.lksFault i LKS.EVT_TRANSIENT 0xA01 1
  if s.get p LKS.CFG_TMAX < n then s.lksFault i LKS.EVT_RATE 0xA03 5 else s

/-! ### Retirement (R307, R310) -/

/-- INSTRUCTION_RETIRE: a core of a pair retires an instruction with its compare word. The main core waits while the window
is full or a halt is asked; the checker's word is that of the oldest entry that has none. -/
def execInstructionRetire (dt : Nat) (pair : Fin 3) (side : CoreSide) (word : BitVec 192) (s : State) :
    Host.Outcome State Fault Refusal :=
  let s := s.advance dt
  let h := s.pairOf pair
  if ¬ h.live ∨ s.dev.off then .next s
  else
    match side with
    | .main =>
      if 8 ≤ h.win.length ∨ (h.haltReq ∧ ¬ h.step) then .next s
      else
        .next (s.pairSet pair fun h => { h with
          win := h.win ++ [⟨word, s.now, none⟩], step := false
          loads := if h.win.length < h.loads.length then h.loads else h.loads ++ [none] })
    | .checker =>
      match h.win.findIdx? fun e => e.chk.isNone with
      | some k => .next (s.pairSet pair fun h => { h with win := h.win.modify k fun e => { e with chk := some word } })
      | none => .next s

/-! ### Loads (R311, R314) -/

/-- EARLY_COMPARE: the partial entries of the next load, of which the main core names bytes `mbe` at `maddr`. Where both
agree the load is issued; on a retry a filled slot answers, and must hold the same address. -/
def execEarlyCompare (dt : Nat) (pair : Fin 3) (mbe : BitVec 4) (maddr : W32) (cbe : BitVec 4) (caddr : W32) (u : CmpUpset)
    (s : State) : Host.Outcome State Fault Refusal :=
  let s := s.advance dt
  let h := s.pairOf pair
  let pos := h.win.length
  let n := match h.retry with
    | some k => k
    | none => pos + 1
  if ¬ h.live ∨ s.dev.off ∨ 8 ≤ pos then .next s
  else
    match u with
    | .rail => .next (s.railFault pair)
    | .parity => .next (s.parityError pair pos n)
    | _ =>
      if maddr ≠ caddr then .next (s.mismatch pair 1 (84 + firstLane 32 maddr.toNat caddr.toNat) pos n)
      else if mbe ≠ cbe then .next (s.mismatch pair 1 (148 + firstLane 4 mbe.toNat cbe.toNat) pos n)
      else
        match h.loads[pos]? with
        | some (some l) =>
          if h.retry.isSome ∧ l.addr ≠ maddr.toNat then .next (s.mismatch pair 4 0xFF pos n) else .next s
        | some none => .next (s.pairSet pair fun h => { h with loads := h.loads.set pos (some ⟨maddr.toNat, mbe.toNat, none⟩) })
        | none =>
          .next (s.pairSet pair fun h => { h with
            loads := h.loads ++ List.replicate (pos - h.loads.length) none ++ [some ⟨maddr.toNat, mbe.toNat, none⟩] })

/-- The first byte of byte enables, and their number. -/
def enabledBytes (be : Nat) : Nat × Nat :=
  let bs := (List.range 4).filter be.testBit
  (bs.headD 0, bs.length)

/-- LOAD_RESPONSE: the oldest issued load of the pair is answered on the bus, as its requester; data or bus error is kept
in the agreement buffer. An access to a bank that an operation keeps goes on waiting. -/
def execLoadResponse (dt : Nat) (pair : Fin 3) (s : State) : Host.Outcome State Fault Refusal :=
  let s := s.advance dt
  let h := s.pairOf pair
  match h.loads.findIdx? fun l => match l with
    | some l => l.resp.isNone
    | none => false with
  | none => .next s
  | some k =>
    match h.loads[k]? with
    | some (some l) =>
      let (j, n) := enabledBytes l.be
      let a := l.addr / 4 * 4 + j
      if s.bankBusy a then .next s
      else
        let (r, s) := (s.granted pair a).busRead pair a n
        let s := s.answer (match r with
          | some v => .data v
          | none => .error)
        .next (s.pairSet pair fun h => { h with
          loads := h.loads.set k (some { l with resp := some (r.getD 0, r.isNone) }) })
    | _ => .next s

/-! ### Commit (R310, R311, R314, R317) -/

/-- The store of a committed entry: the enabled bytes of the word at its address (R311). -/
def State.storeEntry (s : State) (req a be v : Nat) : State :=
  let a := a / 4 * 4
  let s := s.granted req a
  if busOk req a 4 true then
    match regionOf a with
    | some _ =>
      ((List.range 4).foldl (fun s i =>
        if be.testBit i then s.wrByte (a + i) (BitVec.ofNat 8 (v / 256 ^ i)) else s) s).answer .done
    | none => (s.regWrite req a be v).answer .done
  else s.answer .error

/-- The registers, CSRs, trap record and next address of pair `h` after the entry `w` at `pc`. -/
def PairH.take (h : PairH) (w : BitVec 192) : PairH :=
  let v : W32 := BitVec.ofNat 32 (lanes w 31 0)
  let rd := lanes w 37 32
  let h := if lanes w 38 38 = 1 then
      (if e : rd < 32 then (if rd = 0 then h else { h with x := vset h.x ⟨rd, e⟩ v })
       else if e : rd - 32 < 32 then { h with f := vset h.f ⟨rd - 32, e⟩ v } else h)
    else h
  let h := if lanes w 51 51 = 1 then
      { h with csr := mapSet (fun _ => 0) h.csr (lanes w 50 39) (BitVec.ofNat 32 (lanes w 83 52)) } else h
  let h := if lanes w 159 159 = 1 then { h with trap := some (lanes w 158 154, h.pc) } else h
  { h with pc := BitVec.ofNat 32 (lanes w 191 160) }

/-- The oldest entry of pair `i` commits with its word. -/
def State.commitEntry (s : State) (i : Fin 3) (w : BitVec 192) : State :=
  let s := s.pairSet i fun h =>
    let h := h.take w
    { h with
      win := h.win.tail, slot := (h.slot + 1) % 8, loads := h.loads.tail, count := h.count + 1
      fifo := h.fifo.filter fun e => decide (h.count < e.instr) }
  let s := if lanes w 153 152 = 2 then s.storeEntry i (lanes w 115 84) (lanes w 151 148) (lanes w 147 116) else s
  match (s.pairOf i).retry with
  | some n => if n ≤ 1 then s.transient i else s.pairSet i fun h => { h with retry := some (n - 1) }
  | none => s

/-- The load of the oldest entry has been issued and answered (R311): both cores have then written the value. An entry of
another kind waits for none. -/
def PairH.loaded (h : PairH) (w : BitVec 192) : Bool :=
  lanes w 153 152 != 1 || (match h.loads.head? with
    | some (some l) => l.resp.isSome
    | _ => false)

/-- COMPARE_ENTRY: the two words of the oldest entry are compared. -/
def execCompareEntry (dt : Nat) (pair : Fin 3) (u : CmpUpset) (s : State) : Host.Outcome State Fault Refusal :=
  let s := s.advance dt
  let h := s.pairOf pair
  let n := match h.retry with
    | some k => k
    | none => h.win.length
  match h.win with
  | [] => .next s
  | e :: _ =>
    match e.chk with
    | none => .next s
    | some c =>
      if s.dev.off ∨ ¬ h.run ∨ ¬ h.loaded e.main then .next s
      else
        match u with
        | .rail => .next (s.railFault pair)
        | .parity => .next (s.parityError pair 0 n)
        | _ =>
          if e.main = c then .next (s.commitEntry pair c)
          else .next (s.mismatch pair 1 (firstLane 192 e.main.toNat c.toNat) 0 n)

/-- LAG_TIMEOUT: the checker's word for an entry, or for an early comparison whose main word is `early` ticks old, is missing
LAG_MAX ticks after the main core's (R312). -/
def execLagTimeout (dt : Nat) (pair : Fin 3) (early : Option Nat) (s : State) : Host.Outcome State Fault Refusal :=
  let s := s.advance dt
  let h := s.pairOf pair
  let lim := s.get LKS.pg LKS.CFG_LAG_MAX
  let n (k : Nat) := match h.retry with
    | some r => r
    | none => k
  if ¬ h.run ∨ s.dev.off then .next s
  else
    match early with
    | some age =>
      if lim ≤ age ∧ h.win.length < 8 ∧ ¬ h.halted then .next (s.mismatch pair 2 0xFF h.win.length (n (h.win.length + 1)))
      else .next s
    | none =>
      match h.win.findIdx? fun e => e.chk.isNone && decide (e.mainAt + lim ≤ s.now) with
      | some k => .next (s.mismatch pair 2 0xFF k (n h.win.length))
      | none => .next s

/-! ### Asynchronous inputs (R317, R318, R324) -/

/-- The kind and the value that the delay FIFO records of an input; a GPIO read gives the levels of pins 0–31 or 32–47. -/
def State.asyncEntry (s : State) (inp : AsyncIn) : (Nat × Nat) × State :=
  match inp with
  | .interrupt c => ((0, c.toNat), s)
  | .dmaDone ch => ((1, ch.1), s)
  | .gpioRead hi =>
    let (v, s) := s.gpioIn (b2n hi)
    ((2, v), s)
  | .timeRead => ((3, s.now % 2 ^ 64), s)
  | .debugReg r v => ((4, r.1 * 2 ^ 32 + v.toNat), s)
  | .debugCsr r v => ((5, r.toNat * 2 ^ 32 + v.toNat), s)
  | .debugPc v => ((6, v.toNat), s)
  | .safeInputs v => ((7, v.toNat), s)

/-- What a debugger's write does at the halt boundary. -/
def PairH.debugWrite (h : PairH) (inp : AsyncIn) : PairH :=
  match inp with
  | .debugReg r v =>
    if e : r.1 < 32 then (if r.1 = 0 then h else { h with x := vset h.x ⟨r.1, e⟩ v })
    else { h with f := vset h.f ⟨r.1 - 32, by omega⟩ v }
  | .debugCsr r v => { h with csr := mapSet (fun _ => 0) h.csr r.toNat v }
  | .debugPc v => { h with pc := v }
  | _ => h

/-- A write of the debugger. -/
def asyncDebug : AsyncIn → Bool
  | .debugReg .. | .debugCsr .. | .debugPc .. => true
  | _ => false

/-- ASYNC_INPUT_TAKEN: the main core takes an input at its present boundary, unless its delay FIFO is full or a retry runs. A
debugger writes only to a halted pair, a safe-input record is the oldest one that HS has not taken, and the low 8 bits of an
interrupt's cause are the number of one that is asserted (R61, R62). -/
def execAsyncInputTaken (dt : Nat) (pair : Fin 3) (inp : AsyncIn) (s : State) : Host.Outcome State Fault Refusal :=
  let s := s.advance dt
  let h := s.pairOf pair
  let fits : Bool := match inp with
    | .safeInputs v => pair == 2 && s.lks.recs.head? == some v && !h.halted
    | .interrupt c => !h.halted && s.irqAsserted pair (c.toNat % 256)
    | _ => h.halted == asyncDebug inp
  if h.run ∧ h.fifo.length < 16 ∧ h.retry.isNone ∧ fits ∧ ¬ s.dev.off then
    let ((k, v), s) := s.asyncEntry inp
    let s := s.pairSet pair fun h =>
      { h.debugWrite inp with fifo := h.fifo ++ [⟨h.count + h.win.length, k, v⟩] }
    .next (match inp with
      | .safeInputs _ => { s with lks := { s.lks with recs := s.lks.recs.tail } }
      | _ => s)
  else .next s

/-! ### Debug (R324, R325, R352) -/

/-- Whether the debugger may halt pair `i`. -/
def State.haltAllowed (s : State) (i : Fin 3) : Bool :=
  if i = 2 then s.on LKS.pg LKS.CFG_HS_DBG && (s.dstate == .standby || s.dstate == .service) else s.on LKS.pg LKS.CFG_DBG_EN

/-- DEBUG_HALT_REQUEST: the main core stops retiring, or the request is not acted on and HALT_REF is set. -/
def execDebugHaltRequest (dt : Nat) (pair : Fin 3) (s : State) : Host.Outcome State Fault Refusal :=
  let s := s.advance dt
  if s.haltAllowed pair then .next (s.pairSet pair fun h => { h with haltReq := h.run && !h.halted })
  else .next (s.putBit LKS.pg LKS.STAT_HALT_REF pair true)

/-- DEBUG_HALTED: the window is empty and no retry runs; the pair halts. The watchdog interval of HS is suspended. -/
def execDebugHalted (dt : Nat) (pair : Fin 3) (s : State) : Host.Outcome State Fault Refusal :=
  let s := s.advance dt
  let h := s.pairOf pair
  if h.run ∧ h.haltReq ∧ ¬ h.step ∧ ¬ h.halted ∧ h.win = [] ∧ h.retry = none then
    let s := (s.pairSet pair fun h => { h with halted := true, haltReq := false }).putBit LKS.pg LKS.STAT_HALTED pair true
    let s := (List.range 8).foldl State.cpwFreeze s
    .next (if pair = 2 then { s with halo := { s.halo with kickAt := none } } else s)
  else .next s

/-- DEBUG_STEP: a halted pair retires one instruction, and halts again once it has committed. -/
def execDebugStep (dt : Nat) (pair : Fin 3) (s : State) : Host.Outcome State Fault Refusal :=
  let s := s.advance dt
  if (s.pairOf pair).halted then
    .next ((s.pairSet pair fun h => { h with halted := false, haltReq := true, step := true }).putBit LKS.pg LKS.STAT_HALTED
      pair false)
  else .next s

/-- DEBUG_RESUME: the pair goes on; for HS a new watchdog interval starts where the watchdog is in force. -/
def execDebugResume (dt : Nat) (pair : Fin 3) (s : State) : Host.Outcome State Fault Refusal :=
  let s := s.advance dt
  if (s.pairOf pair).halted then
    let s := (s.pairSet pair fun h => { h with halted := false }).putBit LKS.pg LKS.STAT_HALTED pair false
    .next (if pair = 2 ∧ (s.dstate.running ∨ s.dstate = .selftest) then
      { s with halo := { s.halo with kickAt := some s.now } } else s)
  else .next s

end Sys2Proof.Machine
end

