-- ==== Sys2Proof/Machine/PeriodStart.lean ====
section
/-! DEFINITION. What happens at a period start of a lock group, at a compare match and at a superframe boundary (R75 to
R81, R93, R242, R247, R256, R293, R437). -/

namespace Sys2Proof.Machine
open Sys2Proof

/-! ### The swap of one-set running (R247) -/

/-- Enable or disable a context in the way of a LOOP commit. -/
def State.ctxSwitch (s : State) (k : Nat) (on : Bool) : State :=
  let o := s.ctxFreeze k
  (o.flag (CTX.pg k) CTX.CFG_EN on).ctxCommitted k (o.on (CTX.pg k) CTX.CFG_EN)

/-- The swap that machine m waits for takes effect: target 0 is the six-phase context, 1 and 2 are the contexts of one
set. -/
def State.onesetSwap (s : State) (m : Nat) : State :=
  let p := MSV.pg m
  let c6 := s.get p MSV.ONESET_CTX6
  match (s.msvH m).swapTo with
  | none => s
  | some 0 =>
    let k := if s.get p MSV.STAT_SET_MODE = 1 then s.get p MSV.ONESET_CTX1 else s.get p MSV.ONESET_CTX2
    let s := ((s.ctxSwitch k false).ctxSwitch c6 true).put p MSV.STAT_SET_MODE 0
    let s := s.msvSet m fun h => { h with swapTo := none }
    if s.msvSt m = 2 then s.tpwRequestAll m 1 else s
  | some j =>
    let k := if j = 1 then s.get p MSV.ONESET_CTX1 else s.get p MSV.ONESET_CTX2
    let s := (((s.ctxSwitch c6 false).ctxSwitch k true).put p MSV.STAT_SET_MODE j).incSat p MSV.CNT_SWAPS
    (s.msvSet m fun h => { h with swapTo := none, healing := s.msvSt m == 5 }).msvFollow m

/-! ### Period starts -/

/-- Zenith has doubled the period of DCD (R35, R257). -/
def State.dcdDoubled (s : State) : Bool := s.on DCD.pg DCD.CFG_ZDIV && decide (12 ≤ s.get TMU.pg TMU.THRST_LEVEL)

/-- The timers of group `g` start a period at fine time `t`. -/
def State.timersStart (s : State) (g : Fin 15) (t : Nat) : State :=
  let l := vget s.lg g
  let per := l.period
  let len := match l.next with
    | some n => n - t
    | none => per
  let s := (List.range 3).foldl (fun s m =>
    if s.get (TPW.pg (2 * m)) TPW.CFG_LG = g.1 then s.onesetSwap m else s) s
  let s := (List.finRange 6).foldl (fun s (n : Fin 6) =>
    if s.get (TPW.pg n) TPW.CFG_LG = g.1 then s.tpwPeriod n t per len else s) s
  let s := if s.get DCD.pg DCD.CFG_LG = g.1 then
      (if s.dcdDoubled then (if s.get64 TBU.pg (TBU.LG_CNT_LO.ix g) % 2 = 0 then s.dcdPeriod t (2 * per) else s)
       else s.dcdPeriod t per)
    else s
  let s := if Config.cpwGroup (s.get BCH.pg BCH.CFG_TIM) = g then s.bchPeriod t per len else s
  let s := if Config.cpwGroup (s.get OBC.pg OBC.CFG_TPFC) = g then s.obcPeriod false t len else s
  let s := if Config.cpwGroup (s.get OBC.pg OBC.CFG_TDP) = g then s.obcPeriod true t len else s
  (List.finRange 6).foldl (fun s (n : Fin 6) =>
    if s.get (ACT.pg n) ACT.CFG_LG = g.1 then s.actPeriod n t per len else s) s

/-- A period start of group `g` at fine time `t`: the boundary commits first, so that the new period runs with the new
values (R53, R83). -/
def State.periodStart (s : State) (g : Fin 15) (t : Nat) : State :=
  ((((s.lgRaise g t).commitAt (.group g)).timersStart g t).cmpSkips g).syncOutStart g t

/-- LG_PERIOD_START: group `g` reaches its next period start, or ends its grid where a new one is pending. -/
def execLgPeriodStart (dt : Nat) (g : Fin 15) (s : State) : Host.Outcome State Fault Refusal :=
  let s := s.advance dt
  match (vget s.lg g).next with
  | some t =>
    if t / 128 = s.now then .next (if (vget s.lg g).renew then s.lgRenew g t else s.periodStart g t) else .next s
  | none => .next s

/-- CMP_MATCH: compare channel `c` matches; the injected sequences that it triggers start. -/
def execCmpMatch (dt : Nat) (c : Fin 16) (s : State) : Host.Outcome State Fault Refusal :=
  let s := s.advance dt
  match s.cmpTime c with
  | some t =>
    if t / 128 = s.now ∧ vget s.tbu.cmpTick c ≠ some s.now then .next ((s.cmpMatch c t).adhCompare c) else .next s
  | none => .next s

/-- CLF_SUPERFRAME: a superframe starts; the FABRIC domain commits at it. -/
def execClfSuperframe (dt : Nat) (s : State) : Host.Outcome State Fault Refusal :=
  let s := s.advance dt
  if s.superframeDue then .next (s.superframe.commitAt .superframe) else .next s

end Sys2Proof.Machine
end

