-- ==== Sys2Proof/Machine/Thermal.lean ====
section
/-! DEFINITION. Zenith: the scan, the cross-check, cluster and maximum temperatures, rates of rise, slack, and the throttle
ladder (R377 to R387). -/

namespace Sys2Proof.Machine
open Sys2Proof

/-- Change Zenith's hidden state. -/
def State.tmuSet (s : State) (f : TmuH → TmuH) : State := { s with tmu := f s.tmu }

/-- Twice the reference of a sensor (R378), from the readings of the other sensors in the check: none of one. -/
def twiceRef : List Int → Option Int
  | [] => none
  | [a] => some (2 * a)
  | [a, b] => some (a + b)
  | a :: b :: c :: _ => some (2 * max (min a b) (min (max a b) c))

/-- A sensor is excluded: faults 0xC01, and 0xC02 with the second one of its cluster (R378). -/
def State.tmuExclude (s : State) (i : Nat) : State :=
  let p := TMU.pg
  let s := (s.putBit p TMU.EXCL_SENS i true).flag p (TMU.TS_EXCL.ix i) true
  let s := ((s.incSat p TMU.CNT_EXCLS).evt p TMU.EVT_EXCL).note 0xC01 1 0 0
  let q := i / 4
  let n := ((List.range 4).filter fun j => s.bitOn p TMU.EXCL_SENS (4 * q + j)).length
  if 2 ≤ n ∧ ¬ s.bitOn p TMU.EXCL_CLFAIL q then
    ((s.putBit p TMU.EXCL_CLFAIL q true).evt p TMU.EVT_CLUSTER).note 0xC02 1 0 0
  else s

/-- The cross-check of one scan, on the exclusions as they stood before it (R378). -/
def State.tmuCross (s : State) (temps : Vector Int 24) : State :=
  let p := TMU.pg
  let excl := s.get p TMU.EXCL_SENS
  let fail := s.get p TMU.EXCL_CLFAIL
  let lim : Int := s.get p TMU.CFG_XDEV * 16
  (List.finRange 24).foldl (fun s (i : Fin 24) =>
    if excl.testBit i || fail.testBit (i / 4) then s
    else
      let others := ((List.finRange 24).filter fun j => j.1 / 4 == i.1 / 4 && j != i && !excl.testBit j).map fun j => vget temps j
      let dev := match twiceRef others with
        | some r => decide (2 * lim < ((2 * vget temps i - r).natAbs : Int))
        | none => false
      let n := if dev then (vget s.tmu.devN i) + 1 else 0
      let s := s.tmuSet fun h => { h with devN := vset h.devN i n }
      if s.get p TMU.CFG_XN ≤ n then s.tmuExclude i else s) s

/-- The external sensors (R380). -/
def State.tmuExternal (s : State) : State :=
  let p := TMU.pg
  (List.finRange 16).foldl (fun s (j : Fin 16) =>
    if ¬ s.on p (TMU.EXTCFG_EN.ix j) then
      (s.tmuSet fun t => { t with ext := vset t.ext j { vget t.ext j with age := 0, bad := false } }).flag p
        (TMU.EXTT_VALID.ix j) false
    else
      let u := s.get p (TMU.EXTCFG_U.ix j)
      let n := s.get p (TMU.EXTCFG_ENTRY.ix j)
      let a := ADH.pg u
      let w := s.rd (fldAddr a (ADH.REGRES_LO.ix n))
      let now := (w, s.rd (fldAddr a (ADH.REGRES_HI.ix n)))
      let h := vget s.tmu.ext j
      let age := if now = h.last then h.age + 1 else 0
      let bad := !w.toNat.testBit 31 || w.toNat.testBit 30 || decide (100 ≤ age) || !s.on a HDR.CTRL_EN
      let s := s.tmuSet fun t => { t with ext := vset t.ext j ⟨now, age, bad⟩ }
      if bad then
        let s := s.flag p (TMU.EXTT_VALID.ix j) false
        if h.bad then s else (s.evt p TMU.EVT_EXT).note 0xC06 1 0 0
      else
        let t := fadd (fmul (s.rd (fldAddr p (TMU.EXTG.ix j))) (fint (signed 16 w.toNat))) (s.rd (fldAddr p (TMU.EXTO.ix j)))
        let (x, s) := s.freshNat
        let v := if ffinite t then unsigned 16 (clampInt (-32768) 32767 (froundToInt (fmul t (fint 16)))) else x
        (s.put p (TMU.EXTT_TEMP.ix j) v).flag p (TMU.EXTT_VALID.ix j) true) s

/-- The hottest of a list of sensors: the first one in case of a tie. -/
def hottest (l : List (Nat × Int)) : Option (Nat × Int) :=
  l.foldl (fun (m : Option (Nat × Int)) x => match m with
    | some y => if y.2 < x.2 then some x else m
    | none => some x) none

/-- Cluster temperatures and TMAX with its source (R379, R381). -/
def State.tmuTemps (s : State) (temps : Vector Int 24) : Vector Int 6 × Option (Nat × Int) :=
  let p := TMU.pg
  let excl := s.get p TMU.EXCL_SENS
  let live := ((List.finRange 24).filter fun (i : Fin 24) => !excl.testBit i.1).map fun (i : Fin 24) => (i.1, vget temps i)
  let ext := ((List.range 16).filter fun j => s.on p (TMU.EXTCFG_EN.ix j) && s.on p (TMU.EXTCFG_INMAX.ix j) &&
    s.on p (TMU.EXTT_VALID.ix j)).map fun j => (32 + j, s.gets p (TMU.EXTT_TEMP.ix j))
  let top := hottest (live ++ ext)
  let cl (q : Nat) : Int := match hottest (live.filter fun x => x.1 / 4 == q) with
    | some x => x.2
    | none => (top.map (·.2)).getD 0
  (Vector.ofFn fun (q : Fin 6) => cl q, top)

/-- The limits on TMAX (R381). -/
def State.tmuLimits (s : State) (tmax : Int) : State :=
  let p := TMU.pg
  let hot := s.gets p TMU.TLIM0_T_HOT
  let s :=
    if hot ≤ tmax then
      if s.on p TMU.STAT_HOT then s else ((s.flag p TMU.STAT_HOT true).evt p TMU.EVT_HOT).note 0xC04 1 0 0
    else if tmax ≤ hot - s.get p TMU.TLIM1_T_HYS then s.flag p TMU.STAT_HOT false
    else s
  let n := if s.gets p TMU.TLIM1_T_SHUT ≤ tmax then s.tmu.shut + 1 else 0
  let s := s.tmuSet fun h => { h with shut := n }
  if n = 2 then (s.evt p TMU.EVT_SHUT).raise 0xC05 5 0 else s

/-- The rates of rise (R382). -/
def State.tmuRates (s : State) (cl : Vector Int 6) : State :=
  let p := TMU.pg
  let win := s.get p TMU.RR_RR_WIN
  (List.finRange 6).foldl (fun s (q : Fin 6) =>
    match s.tmu.hist[win - 1]? with
    | none => (s.tmuSet fun h => { h with rate := setBits h.rate q q 0 }).puts p (TMU.CLT_RATE.ix q) 0
    | some old =>
      let d := vget cl q - vget old q
      let s := s.puts p (TMU.CLT_RATE.ix q) (clampInt (-32768) 32767 (roundDiv (d * 100000) (16 * win)))
      let above := decide ((s.get p TMU.RR_RR_MAX * 16 * win : Int) < d * 10000)
      let was := s.tmu.rate.testBit q
      let s := s.tmuSet fun h => { h with rate := setBits h.rate q q (b2n above) }
      if above && !was then ((s.incSat p TMU.CNT_RATES).evt p TMU.EVT_RATE).note 0xC03 1 0 0 else s) s

/-- The slack meters start again. -/
def State.slackReset (s : State) : State :=
  { s with zslack := Vector.replicate 8 32767, pslack := Vector.replicate 3 32767 }

/-- The lowest slack that a meter recorded since the previous scan, with its number; the meters start anew (R383). -/
def State.tmuSlack (s : State) : State :=
  let p := TMU.pg
  let m := ((s.zslack.toList ++ s.pslack.toList).zipIdx).foldl (fun (m : Int × Nat) x => if x.1 < m.1 then (x.1, x.2) else m) (32767, 15)
  let s := s.slackReset
  (s.puts p TMU.MINSLK_MINSLK (max m.1 (-32768))).put p TMU.MINSLK_METER m.2

/-- A new level: the skip exponents of CIR and the dividers of the housekeeping converters (R383, R384). -/
def State.tmuLevel (s : State) (l : Nat) : State :=
  let p := TMU.pg
  let old := s.get p TMU.THRST_LEVEL
  if l = old then s
  else
    let s := ((s.put p TMU.THRST_LEVEL l).flag p TMU.STAT_THROTTLED (l != 0)).evt p TMU.EVT_LEVEL
    let s := s.tmuSet fun h => { h with changeAt := some h.scans, dn := 0 }
    let thr := min 3 l * 256 + min 3 (l - 3) * 16 + min 2 (l - 9)
    let s := if s.get CIR.pg CIR.THR = thr then s else (s.put CIR.pg CIR.THR thr).evt CIR.pg CIR.EVT_THROTTLE
    (List.range 4).foldl (fun s u => s.put (ADH.pg u) ADH.STAT_DIV (min 3 (l - 6))) s

/-- The throttle ladder at one scan (R383). -/
def State.tmuThrottle (s : State) (tmax : Int) : State :=
  let p := TMU.pg
  let slack := s.gets p TMU.MINSLK_MINSLK
  let thr := s.gets p TMU.TLIM0_T_THR
  let cs := decide (slack < s.get p TMU.SLK_SLK_UP)
  let ct := decide (thr ≤ tmax)
  let cr := s.tmu.rate != 0
  let s := s.put p TMU.THRST_CAUSE (b2n cs + 2 * b2n ct + 4 * b2n cr)
  let l := s.get p TMU.THRST_LEVEL
  let cap := s.get p TMU.CFG_LMAX
  let down := decide ((s.get p TMU.SLK_SLK_DN : Int) ≤ slack) && decide (tmax ≤ thr - s.get p TMU.TLIM1_T_HYS) && !cr
  let s := s.tmuSet fun h => { h with dn := if down then h.dn + 1 else 0 }
  let held := match s.tmu.changeAt with
    | some k => decide (k + s.get p TMU.CFG_UP_HOLD ≤ s.tmu.scans)
    | none => true
  if cap < l then s.tmuLevel cap
  else if (cs || ct || cr) && held && decide (l < cap) then (s.incSat p TMU.CNT_UPS).tmuLevel (l + 1)
  else if s.get p TMU.CFG_DN_N ≤ s.tmu.dn ∧ 0 < l then (s.incSat p TMU.CNT_DOWNS).tmuLevel (l - 1)
  else s

/-- ZENITH_SCAN: one scan, on the readings of the 24 sensors in 1/16 °C (R377). -/
def execZenithScan (dt : Nat) (temps : Vector Int 24) (s : State) : Host.Outcome State Fault Refusal :=
  let s := s.advance dt
  let p := TMU.pg
  if s.now % 40000 = 0 ∧ 0 < s.now ∧ ¬ s.dev.off then
    let s := s.tmuSet fun h => { h with scans := h.scans + 1 }
    let s := (List.finRange 24).foldl (fun s (i : Fin 24) => s.puts p (TMU.TS_TEMP.ix i) (clampInt (-32768) 32767 (vget temps i))) s
    let s := s.flag p TMU.STAT_SCANNING true
    let s := if 16 ≤ s.tmu.scans then (s.flag p TMU.STAT_XCHK true).tmuCross temps else s
    let s := s.tmuExternal
    let (cl, top) := s.tmuTemps temps
    let s := (List.finRange 6).foldl (fun s (q : Fin 6) => s.puts p (TMU.CLT_TEMP.ix q) (vget cl q)) s
    let near (c t : Int) : Int := clampInt (c - 8) (c + 8) t
    let s := s.tmuSet fun h => { h with
      comp := if h.scans = 1 then cl else Vector.ofFn fun (q : Fin 6) => near (vget h.comp q) (vget cl q) }
    let (src, tmax) := top.getD (0x3F, -32768)
    let s := (s.puts p TMU.MAX_TMAX tmax).put p TMU.MAX_SRC src
    let s := s.tmuRates cl
    let s := s.tmuSet fun h => { h with hist := (cl :: h.hist).take 255 }
    .next ((s.tmuSlack.tmuThrottle tmax).tmuLimits tmax)
  else .next s

end Sys2Proof.Machine
end

