-- ==== Sys2Proof/Machine/Dispatch.lean ====
section
/-! DEFINITION. Which meaning each command has: one direct call per constructor. -/

namespace Sys2Proof.Machine
open Sys2Proof

def exec (i : Instr) (s : State) : Host.Outcome State Fault Refusal :=
  match i with
  | .powerValid dt boot => Sys2Proof.Machine.execPowerValid dt boot s
  | .supplyUv dt k => Sys2Proof.Machine.execSupplyUv dt k s
  | .supplyOv dt k => Sys2Proof.Machine.execSupplyOv dt k s
  | .nresetAssert dt => Sys2Proof.Machine.execNresetAssert dt s
  | .nresetRelease dt heldUs boot => Sys2Proof.Machine.execNresetRelease dt heldUs boot s
  | .rstCmdDevice dt req => Sys2Proof.Machine.execRstCmdDevice dt req s
  | .rstCmdAp0 dt req => Sys2Proof.Machine.execRstCmdAp0 dt req s
  | .rstCmdAp1 dt req => Sys2Proof.Machine.execRstCmdAp1 dt req s
  | .pairRestart dt p => Sys2Proof.Machine.execPairRestart dt p s
  | .debugSystemReset dt => Sys2Proof.Machine.execDebugSystemReset dt s
  | .bootSlotCheck dt slot err => Sys2Proof.Machine.execBootSlotCheck dt slot err s
  | .bootHandover dt => Sys2Proof.Machine.execBootHandover dt s
  | .bootTimeout dt => Sys2Proof.Machine.execBootTimeout dt s
  | .startTestComplete dt pass => Sys2Proof.Machine.execStartTestComplete dt pass s
  | .selftestTimeout dt => Sys2Proof.Machine.execSelftestTimeout dt s
  | .keyRevoke dt req bits => Sys2Proof.Machine.execKeyRevoke dt req bits s
  | .outReadback dt ball => Sys2Proof.Machine.execOutReadback dt ball s
  | .jtagBypass dt => Sys2Proof.Machine.execJtagBypass dt s
  | .jtagIdcode dt => Sys2Proof.Machine.execJtagIdcode dt s
  | .jtagSamplePreload dt cells => Sys2Proof.Machine.execJtagSamplePreload dt cells s
  | .jtagDtm dt => Sys2Proof.Machine.execJtagDtm dt s
  | .jtagExtest dt => Sys2Proof.Machine.execJtagExtest dt s
  | .jtagClamp dt => Sys2Proof.Machine.execJtagClamp dt s
  | .jtagHighz dt => Sys2Proof.Machine.execJtagHighz dt s
  | .standby dt req => Sys2Proof.Machine.execStandby dt req s
  | .drive dt req => Sys2Proof.Machine.execDrive dt req s
  | .charge dt req => Sys2Proof.Machine.execCharge dt req s
  | .service dt req => Sys2Proof.Machine.execService dt req s
  | .safeHold dt req => Sys2Proof.Machine.execSafeHold dt req s
  | .stateTransitionDone dt => Sys2Proof.Machine.execStateTransitionDone dt s
  | .registerWrite dt req addr be val => Sys2Proof.Machine.execRegisterWrite dt req addr be val s
  | .keyWrite dt req page val => Sys2Proof.Machine.execKeyWrite dt req page val s
  | .unlockLapse dt req page => Sys2Proof.Machine.execUnlockLapse dt req page s
  | .pairReadLo dt req addr => Sys2Proof.Machine.execPairReadLo dt req addr s
  | .pairReadHi dt req addr => Sys2Proof.Machine.execPairReadHi dt req addr s
  | .pairWriteLo dt req addr val => Sys2Proof.Machine.execPairWriteLo dt req addr val s
  | .pairWriteHi dt req addr val => Sys2Proof.Machine.execPairWriteHi dt req addr val s
  | .softRst dt req page => Sys2Proof.Machine.execSoftRst dt req page s
  | .evtForce dt req page val => Sys2Proof.Machine.execEvtForce dt req page val s
  | .evtClear dt req page val hw => Sys2Proof.Machine.execEvtClear dt req page val hw s
  | .csetStage dt req page val => Sys2Proof.Machine.execCsetStage dt req page val s
  | .csetCommit dt req page val => Sys2Proof.Machine.execCsetCommit dt req page val s
  | .csetAbort dt req page val => Sys2Proof.Machine.execCsetAbort dt req page val s
  | .domainCommit dt b => Sys2Proof.Machine.execDomainCommit dt b s
  | .ownerAcq dt req lock rival => Sys2Proof.Machine.execOwnerAcq dt req lock rival s
  | .ownerRel dt req lock => Sys2Proof.Machine.execOwnerRel dt req lock s
  | .refQualified dt diffPpb => Sys2Proof.Machine.execRefQualified dt diffPpb s
  | .directLock dt => Sys2Proof.Machine.execDirectLock dt s
  | .glideDone dt => Sys2Proof.Machine.execGlideDone dt s
  | .refLost dt => Sys2Proof.Machine.execRefLost dt s
  | .refNever dt => Sys2Proof.Machine.execRefNever dt s
  | .rateFail dt => Sys2Proof.Machine.execRateFail dt s
  | .countMismatch dt => Sys2Proof.Machine.execCountMismatch dt s
  | .lgPeriodStart dt g => Sys2Proof.Machine.execLgPeriodStart dt g s
  | .cmpMatch dt c => Sys2Proof.Machine.execCmpMatch dt c s
  | .capture dt c falling fine => Sys2Proof.Machine.execCapture dt c falling fine s
  | .capStampLoRead dt req c => Sys2Proof.Machine.execCapStampLoRead dt req c s
  | .interpolatorSwap dt ix trimPs => Sys2Proof.Machine.execInterpolatorSwap dt ix trimPs s
  | .calStale dt ix => Sys2Proof.Machine.execCalStale dt ix s
  | .syncInEdge dt falling fine => Sys2Proof.Machine.execSyncInEdge dt falling fine s
  | .syncLost dt g => Sys2Proof.Machine.execSyncLost dt g s
  | .syncOutEnd dt => Sys2Proof.Machine.execSyncOutEnd dt s
  | .steerLimit dt => Sys2Proof.Machine.execSteerLimit dt s
  | .tpwCmpWrite dt req n leg val => Sys2Proof.Machine.execTpwCmpWrite dt req n leg val s
  | .tpwUpdatePoint dt n => Sys2Proof.Machine.execTpwUpdatePoint dt n s
  | .tpwPatSwitch dt req n => Sys2Proof.Machine.execTpwPatSwitch dt req n s
  | .tpwPatPi dt req n => Sys2Proof.Machine.execTpwPatPi dt req n s
  | .tpwPatAscLow dt req n => Sys2Proof.Machine.execTpwPatAscLow dt req n s
  | .tpwPatAscHigh dt req n => Sys2Proof.Machine.execTpwPatAscHigh dt req n s
  | .outMismatch dt n ball => Sys2Proof.Machine.execOutMismatch dt n ball s
  | .shootThrough dt n leg => Sys2Proof.Machine.execShootThrough dt n leg s
  | .adfHold dt g => Sys2Proof.Machine.execAdfHold dt g s
  | .adfSlotLatch dt g vin late => Sys2Proof.Machine.execAdfSlotLatch dt g vin late s
  | .lateResult dt g c => Sys2Proof.Machine.execLateResult dt g c s
  | .adfInjGo dt req g => Sys2Proof.Machine.execAdfInjGo dt req g s
  | .adfInjLatch dt g vin => Sys2Proof.Machine.execAdfInjLatch dt g vin s
  | .adfOwTest dt g ix vin => Sys2Proof.Machine.execAdfOwTest dt g ix vin s
  | .calStep dt conv gain ofs => Sys2Proof.Machine.execCalStep dt conv gain ofs s
  | .calWindowEnd dt => Sys2Proof.Machine.execCalWindowEnd dt s
  | .refBufferReady dt b => Sys2Proof.Machine.execRefBufferReady dt b s
  | .refMonitorCheck dt b dev => Sys2Proof.Machine.execRefMonitorCheck dt b dev s
  | .adhRegTrigger dt u => Sys2Proof.Machine.execAdhRegTrigger dt u s
  | .adhReggo dt req u => Sys2Proof.Machine.execAdhReggo dt req u s
  | .adhGo dt req u => Sys2Proof.Machine.execAdhGo dt req u s
  | .adhEntryLatch dt u vin => Sys2Proof.Machine.execAdhEntryLatch dt u vin s
  | .ctxTrigger dt k => Sys2Proof.Machine.execCtxTrigger dt k s
  | .updraftPredict dt k => Sys2Proof.Machine.execUpdraftPredict dt k s
  | .ctxExecStart dt k ecc => Sys2Proof.Machine.execCtxExecStart dt k ecc s
  | .ctxExecComplete dt k second differ rail => Sys2Proof.Machine.execCtxExecComplete dt k second differ rail s
  | .updraftCheck dt k => Sys2Proof.Machine.execUpdraftCheck dt k s
  | .ctxCommit dt k => Sys2Proof.Machine.execCtxCommit dt k s
  | .engineStall dt e => Sys2Proof.Machine.execEngineStall dt e s
  | .cirClrCnt dt req k => Sys2Proof.Machine.execCirClrCnt dt req k s
  | .cirTrig dt req k => Sys2Proof.Machine.execCirTrig dt req k s
  | .rsvSample dt n sn cs => Sys2Proof.Machine.execRsvSample dt n sn cs s
  | .rsvPeriodCheck dt n exc u1 u2 u3 u4 => Sys2Proof.Machine.execRsvPeriodCheck dt n exc u1 u2 u3 u4 s
  | .encEdge dt n a b => Sys2Proof.Machine.execEncEdge dt n a b s
  | .encIndex dt n => Sys2Proof.Machine.execEncIndex dt n s
  | .encSpeedTimeout dt n => Sys2Proof.Machine.execEncSpeedTimeout dt n s
  | .hallEdge dt n st => Sys2Proof.Machine.execHallEdge dt n st s
  | .fusionUpdate dt n => Sys2Proof.Machine.execFusionUpdate dt n s
  | .reacqDecision dt n => Sys2Proof.Machine.execReacqDecision dt n s
  | .reacqFail dt n => Sys2Proof.Machine.execReacqFail dt n s
  | .posRestart dt req n => Sys2Proof.Machine.execPosRestart dt req n s
  | .posSeedEnc dt req n => Sys2Proof.Machine.execPosSeedEnc dt req n s
  | .posClrCnt dt req n => Sys2Proof.Machine.execPosClrCnt dt req n s
  | .msvTcmdWrite dt req m val => Sys2Proof.Machine.execMsvTcmdWrite dt req m val s
  | .tcmdTimeout dt m => Sys2Proof.Machine.execTcmdTimeout dt m s
  | .msvRun dt req m => Sys2Proof.Machine.execMsvRun dt req m s
  | .msvStop dt req m => Sys2Proof.Machine.execMsvStop dt req m s
  | .msvDirFwd dt req m => Sys2Proof.Machine.execMsvDirFwd dt req m s
  | .msvDirRev dt req m => Sys2Proof.Machine.execMsvDirRev dt req m s
  | .msvDirBoth dt req m => Sys2Proof.Machine.execMsvDirBoth dt req m s
  | .msvOnesetRestore dt req m => Sys2Proof.Machine.execMsvOnesetRestore dt req m s
  | .msvAck dt req m => Sys2Proof.Machine.execMsvAck dt req m s
  | .msvClrCnt dt req m => Sys2Proof.Machine.execMsvClrCnt dt req m s
  | .lhPinSample dt pin code => Sys2Proof.Machine.execLhPinSample dt pin code s
  | .cmdPinEdge dt pin falling => Sys2Proof.Machine.execCmdPinEdge dt pin falling s
  | .bchAck dt req => Sys2Proof.Machine.execBchAck dt req s
  | .bchClrCnt dt req => Sys2Proof.Machine.execBchClrCnt dt req s
  | .dcdVsetWrite dt req val => Sys2Proof.Machine.execDcdVsetWrite dt req val s
  | .dcdStart dt req => Sys2Proof.Machine.execDcdStart dt req s
  | .dcdStop dt req => Sys2Proof.Machine.execDcdStop dt req s
  | .dcdAck dt req => Sys2Proof.Machine.execDcdAck dt req s
  | .dcdClrCnt dt req => Sys2Proof.Machine.execDcdClrCnt dt req s
  | .dcdTestTimeout dt p => Sys2Proof.Machine.execDcdTestTimeout dt p s
  | .softstartTo dt => Sys2Proof.Machine.execSoftstartTo dt s
  | .cpSample dt mv edge => Sys2Proof.Machine.execCpSample dt mv edge s
  | .ppSample dt vpp vdda => Sys2Proof.Machine.execPpSample dt vpp vdda s
  | .obcBmsFrame dt req val => Sys2Proof.Machine.execObcBmsFrame dt req val s
  | .bmsTimeout dt => Sys2Proof.Machine.execBmsTimeout dt s
  | .obcStart dt req dir => Sys2Proof.Machine.execObcStart dt req dir s
  | .obcStop dt req => Sys2Proof.Machine.execObcStop dt req s
  | .obcSetDir dt req dir => Sys2Proof.Machine.execObcSetDir dt req dir s
  | .obcAck dt req => Sys2Proof.Machine.execObcAck dt req s
  | .obcClrCnt dt req => Sys2Proof.Machine.execObcClrCnt dt req s
  | .obcPhaseCountDone dt => Sys2Proof.Machine.execObcPhaseCountDone dt s
  | .prechargeTo dt => Sys2Proof.Machine.execPrechargeTo dt s
  | .timerExpired dt t => Sys2Proof.Machine.execTimerExpired dt t s
  | .obcStopBound dt => Sys2Proof.Machine.execObcStopBound dt s
  | .obcPfcInhibit dt => Sys2Proof.Machine.execObcPfcInhibit dt s
  | .actCmpWrite dt req n leg val => Sys2Proof.Machine.execActCmpWrite dt req n leg val s
  | .actTgtWrite dt req n val => Sys2Proof.Machine.execActTgtWrite dt req n val s
  | .actHallEdge dt n st => Sys2Proof.Machine.execActHallEdge dt n st s
  | .actBemfEdge dt n => Sys2Proof.Machine.execActBemfEdge dt n s
  | .actAlignEnd dt n => Sys2Proof.Machine.execActAlignEnd dt n s
  | .actForcedCommutation dt n => Sys2Proof.Machine.execActForcedCommutation dt n s
  | .sensorlessStart dt n => Sys2Proof.Machine.execSensorlessStart dt n s
  | .actSpeedTimeout dt n => Sys2Proof.Machine.execActSpeedTimeout dt n s
  | .actRun dt req n => Sys2Proof.Machine.execActRun dt req n s
  | .actSeq dt req n => Sys2Proof.Machine.execActSeq dt req n s
  | .actBrake dt req n => Sys2Proof.Machine.execActBrake dt req n s
  | .actStop dt req n => Sys2Proof.Machine.execActStop dt req n s
  | .actAck dt req n => Sys2Proof.Machine.execActAck dt req n s
  | .actClrCnt dt req n => Sys2Proof.Machine.execActClrCnt dt req n s
  | .actSetPos dt req n => Sys2Proof.Machine.execActSetPos dt req n s
  | .seqTimeout dt n => Sys2Proof.Machine.execSeqTimeout dt n s
  | .instructionRetire dt pair side word => Sys2Proof.Machine.execInstructionRetire dt pair side word s
  | .earlyCompare dt pair mbe maddr cbe caddr u => Sys2Proof.Machine.execEarlyCompare dt pair mbe maddr cbe caddr u s
  | .loadResponse dt pair => Sys2Proof.Machine.execLoadResponse dt pair s
  | .compareEntry dt pair u => Sys2Proof.Machine.execCompareEntry dt pair u s
  | .lagTimeout dt pair early => Sys2Proof.Machine.execLagTimeout dt pair early s
  | .transWindowStart dt => Sys2Proof.Machine.execTransWindowStart dt s
  | .asyncInputTaken dt pair inp => Sys2Proof.Machine.execAsyncInputTaken dt pair inp s
  | .comparatorProbe dt cmp u => Sys2Proof.Machine.execComparatorProbe dt cmp u s
  | .selftestMiss dt cmp => Sys2Proof.Machine.execSelftestMiss dt cmp s
  | .debugHaltRequest dt pair => Sys2Proof.Machine.execDebugHaltRequest dt pair s
  | .debugHalted dt pair => Sys2Proof.Machine.execDebugHalted dt pair s
  | .debugStep dt pair => Sys2Proof.Machine.execDebugStep dt pair s
  | .debugResume dt pair => Sys2Proof.Machine.execDebugResume dt pair s
  | .lksClrCnt dt req => Sys2Proof.Machine.execLksClrCnt dt req s
  | .lksProbe dt req => Sys2Proof.Machine.execLksProbe dt req s
  | .hloAck dt req mask => Sys2Proof.Machine.execHloAck dt req mask s
  | .hloClrLog dt req => Sys2Proof.Machine.execHloClrLog dt req s
  | .hloClrFirst dt req => Sys2Proof.Machine.execHloClrFirst dt req s
  | .watchdogKick dt req val => Sys2Proof.Machine.execWatchdogKick dt req val s
  | .watchdog dt => Sys2Proof.Machine.execWatchdog dt s
  | .ghbReadback dt line => Sys2Proof.Machine.execGhbReadback dt line s
  | .stoRelease dt req mask => Sys2Proof.Machine.execStoRelease dt req mask s
  | .stoAssert dt req mask => Sys2Proof.Machine.execStoAssert dt req mask s
  | .stoConvRelease dt req => Sys2Proof.Machine.execStoConvRelease dt req s
  | .stoConvAssert dt req => Sys2Proof.Machine.execStoConvAssert dt req s
  | .stoPathBRelease dt line => Sys2Proof.Machine.execStoPathBRelease dt line s
  | .stoReadback dt ball => Sys2Proof.Machine.execStoReadback dt ball s
  | .stoPath dt line => Sys2Proof.Machine.execStoPath dt line s
  | .sfiSample dt rec1 rec2 fb => Sys2Proof.Machine.execSfiSample dt rec1 rec2 fb s
  | .tpoPulseStart dt j => Sys2Proof.Machine.execTpoPulseStart dt j s
  | .tpoPulseEnd dt j => Sys2Proof.Machine.execTpoPulseEnd dt j s
  | .sfiAck dt req k => Sys2Proof.Machine.execSfiAck dt req k s
  | .sfiClrCnt dt req => Sys2Proof.Machine.execSfiClrCnt dt req s
  | .ssfSs1 dt req mask => Sys2Proof.Machine.execSsfSs1 dt req mask s
  | .ssfBrakeApply dt req ch => Sys2Proof.Machine.execSsfBrakeApply dt req ch s
  | .ssfBrakeRelease dt req ch => Sys2Proof.Machine.execSsfBrakeRelease dt req ch s
  | .ssfSbcAck dt req ch => Sys2Proof.Machine.execSsfSbcAck dt req ch s
  | .ssfClrCnt dt req => Sys2Proof.Machine.execSsfClrCnt dt req s
  | .ss1Timeout dt m => Sys2Proof.Machine.execSs1Timeout dt m s
  | .sbcApplyDelay dt c => Sys2Proof.Machine.execSbcApplyDelay dt c s
  | .sbcTestStart dt c ls => Sys2Proof.Machine.execSbcTestStart dt c ls s
  | .sbcTestEnd dt c fb1 fb2 => Sys2Proof.Machine.execSbcTestEnd dt c fb1 fb2 s
  | .scfOpen dt req len => Sys2Proof.Machine.execScfOpen dt req len s
  | .scfClose dt req => Sys2Proof.Machine.execScfClose dt req s
  | .scfSetPwd dt req len => Sys2Proof.Machine.execScfSetPwd dt req len s
  | .scfConfirm dt req => Sys2Proof.Machine.execScfConfirm dt req s
  | .scfRevert dt req => Sys2Proof.Machine.execScfRevert dt req s
  | .scfStoreDone dt ok => Sys2Proof.Machine.execScfStoreDone dt ok s
  | .lockoutEnd dt => Sys2Proof.Machine.execLockoutEnd dt s
  | .sessionTimeout dt => Sys2Proof.Machine.execSessionTimeout dt s
  | .slgRdseqWrite dt req val => Sys2Proof.Machine.execSlgRdseqWrite dt req val s
  | .slgCopyDone dt => Sys2Proof.Machine.execSlgCopyDone dt s
  | .zenithScan dt temps => Sys2Proof.Machine.execZenithScan dt temps s
  | .busAccess dt reqs ecc => Sys2Proof.Machine.execBusAccess dt reqs ecc s
  | .arbWindowStart dt => Sys2Proof.Machine.execArbWindowStart dt s
  | .starvation dt req bank => Sys2Proof.Machine.execStarvation dt req bank s
  | .scrubAccess dt bank ecc => Sys2Proof.Machine.execScrubAccess dt bank ecc s
  | .flsProgram dt req => Sys2Proof.Machine.execFlsProgram dt req s
  | .flsErase dt req => Sys2Proof.Machine.execFlsErase dt req s
  | .flashOpDone dt ok => Sys2Proof.Machine.execFlashOpDone dt ok s
  | .arbClrCnt dt req => Sys2Proof.Machine.execArbClrCnt dt req s
  | .dmaStart dt req ch => Sys2Proof.Machine.execDmaStart dt req ch s
  | .dmaStop dt req ch => Sys2Proof.Machine.execDmaStop dt req ch s
  | .dmaClrCnt dt req ch => Sys2Proof.Machine.execDmaClrCnt dt req ch s
  | .dmaPeriphRequest dt ch => Sys2Proof.Machine.execDmaPeriphRequest dt ch s
  | .dmaRecordDone dt ch err => Sys2Proof.Machine.execDmaRecordDone dt ch err s
  | .dmaBlockBurst dt ch err => Sys2Proof.Machine.execDmaBlockBurst dt ch err s
  | .dmaBlockDone dt ch => Sys2Proof.Machine.execDmaBlockDone dt ch s
  | .dmaRptrWrite dt req ch val => Sys2Proof.Machine.execDmaRptrWrite dt req ch val s
  | .crcStart dt req ix => Sys2Proof.Machine.execCrcStart dt req ix s
  | .crcDinWrite dt req ix be val => Sys2Proof.Machine.execCrcDinWrite dt req ix be val s
  | .canStart dt req ix => Sys2Proof.Machine.execCanStart dt req ix s
  | .canStop dt req ix => Sys2Proof.Machine.execCanStop dt req ix s
  | .canRecover dt req ix => Sys2Proof.Machine.execCanRecover dt req ix s
  | .canTxuAbort dt req ix => Sys2Proof.Machine.execCanTxuAbort dt req ix s
  | .canFlush dt req ix => Sys2Proof.Machine.execCanFlush dt req ix s
  | .canClrCnt dt req ix => Sys2Proof.Machine.execCanClrCnt dt req ix s
  | .canPushFifo dt req ix => Sys2Proof.Machine.execCanPushFifo dt req ix s
  | .canPushTxu dt req ix => Sys2Proof.Machine.execCanPushTxu dt req ix s
  | .canStartOfFrame dt ix => Sys2Proof.Machine.execCanStartOfFrame dt ix s
  | .canTxDone dt ix tdc => Sys2Proof.Machine.execCanTxDone dt ix tdc s
  | .canRxFrame dt ix f => Sys2Proof.Machine.execCanRxFrame dt ix f s
  | .canError dt ix e => Sys2Proof.Machine.execCanError dt ix e s
  | .canIdleDetect dt ix => Sys2Proof.Machine.execCanIdleDetect dt ix s
  | .canRecoveryDone dt ix => Sys2Proof.Machine.execCanRecoveryDone dt ix s
  | .headAge dt ix => Sys2Proof.Machine.execHeadAge dt ix s
  | .canRxpop dt req ix => Sys2Proof.Machine.execCanRxpop dt req ix s
  | .canHppop dt req ix => Sys2Proof.Machine.execCanHppop dt req ix s
  | .clfSignalDetect dt p => Sys2Proof.Machine.execClfSignalDetect dt p s
  | .clfTrainDone dt p => Sys2Proof.Machine.execClfTrainDone dt p s
  | .clfTrainTimeout dt p oneLane => Sys2Proof.Machine.execClfTrainTimeout dt p oneLane s
  | .clfLaneFault dt p both => Sys2Proof.Machine.execClfLaneFault dt p both s
  | .clfRescan dt req => Sys2Proof.Machine.execClfRescan dt req s
  | .clfRetrain dt req ports => Sys2Proof.Machine.execClfRetrain dt req ports s
  | .clfClrCnt dt req => Sys2Proof.Machine.execClfClrCnt dt req s
  | .clfHelloSend dt done => Sys2Proof.Machine.execClfHelloSend dt done s
  | .clfHelloRx dt p h done => Sys2Proof.Machine.execClfHelloRx dt p h done s
  | .clfAssignRx dt p id n hops => Sys2Proof.Machine.execClfAssignRx dt p id n hops s
  | .clfPdRequest dt p fine => Sys2Proof.Machine.execClfPdRequest dt p fine s
  | .clfPdreqRx dt p fine => Sys2Proof.Machine.execClfPdreqRx dt p fine s
  | .clfPdrespRx dt p t2 t3 fine => Sys2Proof.Machine.execClfPdrespRx dt p t2 t3 fine s
  | .clfFrameRx dt p f good marked => Sys2Proof.Machine.execClfFrameRx dt p f good marked s
  | .clfTimeRx dt p f fine => Sys2Proof.Machine.execClfTimeRx dt p f fine s
  | .clfTxbufRead dt slot => Sys2Proof.Machine.execClfTxbufRead dt slot s
  | .clfSlotTx dt slot done => Sys2Proof.Machine.execClfSlotTx dt slot done s
  | .clfSuperframe dt => Sys2Proof.Machine.execClfSuperframe dt s
  | .clfSwapatWrite dt req val => Sys2Proof.Machine.execClfSwapatWrite dt req val s
  | .clfSlotBankWrite dt req addr be val => Sys2Proof.Machine.execClfSlotBankWrite dt req addr be val s
  | .clfRouteWrite dt req addr be val => Sys2Proof.Machine.execClfRouteWrite dt req addr be val s
  | .clfRingRptrWrite dt req k val => Sys2Proof.Machine.execClfRingRptrWrite dt req k val s
  | .supplyValid dt k => Sys2Proof.Machine.execSupplyValid dt k s
  | .actSectorAdvance dt n => Sys2Proof.Machine.execActSectorAdvance dt n s
  | .ghbHalfPeriod dt line => Sys2Proof.Machine.execGhbHalfPeriod dt line s
  | .imgcrcRecomputed dt => Sys2Proof.Machine.execImgcrcRecomputed dt s
  | .logProgramDone dt ok => Sys2Proof.Machine.execLogProgramDone dt ok s
  | .errorRateWindowStart dt => Sys2Proof.Machine.execErrorRateWindowStart dt s

end Sys2Proof.Machine
end

