-- ==== Sys2Proof/Safety.lean ====
section
/-! DEFINITION. What claims call a sound state, the parts of the state, and what it is to change some parts only. -/

namespace Sys2Proof.Machine
open Sys2Proof

/-- Registers and memory are in canonical form, so that equal contents are equal data. -/
def State.Canonical (s : State) : Prop := Registers.wf s.regs ∧ Memory.wf s.mem

/-- A part of the state: the register pages of a block, or one of the fields of `State` beside the registers. -/
inductive Part where
  | block (b : Block)
  | pending | now | free | mem | reply | keys | snaps | lows | sets | dev | tbu | lg | sfTick | tpw | cpw | cpwCmp
  | dcd | dma | dmaReq | msv | pin | bch | obc | act | halo | scf | canH | canWin | adhLost | adf | adh | adr | pos
  | ctxs | evrAt | engAt | zslack | pslack | lks | tmu | arb | clf
deriving DecidableEq, Repr

/-- The block whose pages hold address `a` (R40). -/
def blockAt (a : Nat) : Option Block := (pageAt a).map Page.blk

/-- The part is the same in both states; of a block, every word of its pages. -/
def State.sameAt (s t : State) : Part → Prop
  | .block b => ∀ a, blockAt a = some b → t.rd a = s.rd a
  | .pending => t.pending = s.pending
  | .now => t.now = s.now
  | .free => t.free = s.free
  | .mem => t.mem = s.mem
  | .reply => t.reply = s.reply
  | .keys => t.keys = s.keys
  | .snaps => t.snaps = s.snaps
  | .lows => t.lows = s.lows
  | .sets => t.sets = s.sets
  | .dev => t.dev = s.dev
  | .tbu => t.tbu = s.tbu
  | .lg => t.lg = s.lg
  | .sfTick => t.sfTick = s.sfTick
  | .tpw => t.tpw = s.tpw
  | .cpw => t.cpw = s.cpw
  | .cpwCmp => t.cpwCmp = s.cpwCmp
  | .dcd => t.dcd = s.dcd
  | .dma => t.dma = s.dma
  | .dmaReq => t.dmaReq = s.dmaReq
  | .msv => t.msv = s.msv
  | .pin => t.pin = s.pin
  | .bch => t.bch = s.bch
  | .obc => t.obc = s.obc
  | .act => t.act = s.act
  | .halo => t.halo = s.halo
  | .scf => t.scf = s.scf
  | .canH => t.canH = s.canH
  | .canWin => t.canWin = s.canWin
  | .adhLost => t.adhLost = s.adhLost
  | .adf => t.adf = s.adf
  | .adh => t.adh = s.adh
  | .adr => t.adr = s.adr
  | .pos => t.pos = s.pos
  | .ctxs => t.ctxs = s.ctxs
  | .evrAt => t.evrAt = s.evrAt
  | .engAt => t.engAt = s.engAt
  | .zslack => t.zslack = s.zslack
  | .pslack => t.pslack = s.pslack
  | .lks => t.lks = s.lks
  | .tmu => t.tmu = s.tmu
  | .arb => t.arb = s.arb
  | .clf => t.clf = s.clf

/-- From `s` to `t` only the listed parts may have changed. -/
def State.Within (F : List Part) (s t : State) : Prop := ∀ p, p ∉ F → s.sameAt t p

/-- The register pages of every block. -/
def Part.allRegs : List Part := allBlocks.map .block

/-- Some parts, and the register pages of every block. -/
def Part.andRegs (l : List Part) : List Part := l ++ Part.allRegs

/-- What a fault and its reaction may change (R330, R331): the stops, the pins, the change sets that end, the log, and the
pages that show them. -/
def Part.reaction : List Part :=
  Part.andRegs [.act, .adhLost, .bch, .canH, .clf, .cpw, .dcd, .dev, .dma, .dmaReq, .evrAt, .halo, .lks, .msv, .obc, .scf, .sets, .tpw]

/-- Every part but the queue of commands. -/
def Part.butPending : List Part :=
  Part.andRegs [.now, .free, .mem, .reply, .keys, .snaps, .lows, .sets, .dev, .tbu, .lg, .sfTick, .tpw, .cpw,
    .cpwCmp, .dcd, .dma, .dmaReq, .msv, .pin, .bch, .obc, .act, .halo, .scf, .canH, .canWin,
    .adhLost, .adf, .adh, .adr, .pos, .ctxs, .evrAt, .engAt, .zslack, .pslack, .lks, .tmu, .arb,
    .clf]

/-- What each command may change: time, its own block, what its events trigger, and what the reactions it can cause stop.
No command changes the queue. -/
def footprint : Instr → List Part
  | .powerValid .. => [.dev, .now, .block .hlo, .block .rst, .block .sys]
  | .supplyUv .. | .nresetAssert .. | .rstCmdDevice .. | .rstCmdAp0 .. | .rstCmdAp1 .. | .debugSystemReset ..
  | .registerWrite .. | .pairWriteLo .. | .pairWriteHi .. | .compareEntry .. | .busAccess .. | .dmaBlockBurst .. =>
    Part.butPending
  | .supplyOv .. | .startTestComplete .. | .selftestTimeout .. | .outReadback .. | .rateFail .. | .countMismatch ..
  | .tpwUpdatePoint .. | .outMismatch .. | .shootThrough .. | .reacqFail .. | .tcmdTimeout .. | .dcdTestTimeout ..
  | .softstartTo .. | .cpSample .. | .ppSample .. | .obcBmsFrame .. | .bmsTimeout .. | .obcPhaseCountDone ..
  | .prechargeTo .. | .timerExpired .. | .actHallEdge .. | .sensorlessStart .. | .seqTimeout .. | .earlyCompare ..
  | .lagTimeout .. | .comparatorProbe .. | .selftestMiss .. | .watchdogKick .. | .watchdog .. | .ghbReadback ..
  | .stoReadback .. | .stoPath .. | .sfiSample .. | .sbcTestEnd .. | .canTxDone .. | .canError ..
  | .canIdleDetect .. | .headAge .. => .now :: .pos :: Part.reaction
  | .nresetRelease .. => [.dev, .free, .now, .block .hlo, .block .rst, .block .sys]
  | .pairRestart .. | .instructionRetire .. => [.lks, .now]
  | .bootSlotCheck .. | .bootHandover .. | .bootTimeout .. | .standby .. | .drive .. | .charge .. | .service ..
  | .safeHold .. | .stateTransitionDone .. =>
    Part.andRegs [.act, .bch, .canH, .clf, .cpw, .dcd, .dev, .dma, .dmaReq, .evrAt, .halo, .lks, .msv, .now,
      .obc, .pos, .scf, .sets, .tpw]
  | .keyRevoke .. => [.keys, .now, .block .sys]
  | .jtagBypass .. | .jtagSamplePreload .. | .jtagDtm .. | .jtagExtest .. | .jtagClamp .. | .jtagHighz ..
  | .supplyValid .. => [.dev, .now]
  | .jtagIdcode .. => [.dev, .now, .reply]
  | .keyWrite _ _ page _ => [.keys, .now, .block page.blk]
  | .unlockLapse .. => [.keys, .now]
  | .pairReadLo .. | .pairReadHi .. | .capStampLoRead .. => Part.andRegs [.free, .now, .obc, .reply, .snaps]
  | .softRst .. =>
    Part.andRegs [.act, .adf, .adh, .adhLost, .adr, .bch, .canH, .canWin, .clf, .cpw, .cpwCmp, .ctxs, .dcd, .dma,
      .dmaReq, .engAt, .evrAt, .halo, .keys, .lows, .msv, .now, .obc, .pos, .sets, .snaps, .tpw, .zslack]
  | .evtForce _ _ page _ => [.dma, .dmaReq, .evrAt, .now, .block .dma, .block page.blk]
  | .evtClear _ _ page _ _ => [.dma, .dmaReq, .evrAt, .now, .block .dma, .block page.blk]
  | .csetStage .. | .csetCommit .. | .csetAbort .. | .scfClose .. | .sessionTimeout .. =>
    Part.andRegs [.dev, .dma, .dmaReq, .evrAt, .now, .scf, .sets]
  | .domainCommit .. =>
    .adf :: .adh :: .adr :: .ctxs :: .engAt :: .lg :: .now :: .pos :: .pslack :: .tbu :: Part.reaction
  | .ownerAcq .. => [.now, .block .adh, .block .crc, .block .dma]
  | .ownerRel .. => [.adhLost, .now, .block .adh, .block .crc, .block .dma]
  | .refQualified .. | .directLock .. | .glideDone .. => [.dma, .dmaReq, .evrAt, .now, .tbu, .block .dma, .block .tbu]
  | .refLost .. | .clfTimeRx .. => .free :: .now :: .pos :: .tbu :: Part.reaction
  | .refNever .. | .calStale .. | .steerLimit .. => .now :: .pos :: .tbu :: Part.reaction
  | .lgPeriodStart .. =>
    .adf :: .adh :: .adr :: .ctxs :: .engAt :: .free :: .lg :: .now :: .pos :: .pslack :: .tbu :: Part.reaction
  | .cmpMatch .. => [.adh, .dma, .dmaReq, .evrAt, .now, .tbu, .block .adh, .block .dma]
  | .capture .. => [.now, .block .tbu]
  | .interpolatorSwap .. => [.now, .tbu, .block .clf, .block .tbu]
  | .syncInEdge .. => [.dma, .dmaReq, .evrAt, .lg, .now, .tbu, .block .dma, .block .tbu]
  | .syncLost .. => .lg :: .now :: .pos :: Part.reaction
  | .syncOutEnd .. => [.now, .tbu]
  | .tpwCmpWrite .. =>
    [.dma, .dmaReq, .evrAt, .msv, .now, .pos, .tpw, .block .dma, .block .hlo, .block .pos, .block .sys,
      .block .tpw]
  | .tpwPatSwitch .. | .tpwPatPi .. | .tpwPatAscLow .. | .tpwPatAscHigh .. => [.now, .tpw, .block .tpw]
  | .adfHold .. | .adfOwTest .. =>
    [.adf, .dma, .dmaReq, .evrAt, .now, .block .adf, .block .dma, .block .hlo, .block .sys]
  | .adfSlotLatch .. => .adf :: .now :: .pos :: Part.reaction
  | .lateResult .. | .adfInjGo .. | .adfInjLatch .. => [.adf, .dma, .dmaReq, .evrAt, .now, .block .adf, .block .dma]
  | .calStep .. | .refMonitorCheck .. => .adr :: .now :: .pos :: Part.reaction
  | .calWindowEnd .. => [.adr, .dma, .dmaReq, .evrAt, .now, .block .adf, .block .dma, .block .hlo, .block .sys]
  | .refBufferReady .. => [.adr, .now, .block .adr]
  | .adhRegTrigger .. | .adhReggo .. =>
    [.adh, .dma, .dmaReq, .evrAt, .now, .block .adh, .block .dma, .block .hlo, .block .sys]
  | .adhGo .. => [.adh, .dma, .dmaReq, .evrAt, .now, .block .adh, .block .dma]
  | .adhEntryLatch .. => .adh :: .now :: .pos :: Part.reaction
  | .ctxTrigger .. | .cirClrCnt .. | .cirTrig .. =>
    [.ctxs, .dma, .dmaReq, .evrAt, .now, .block .cir, .block .ctx, .block .dma, .block .hlo, .block .sys]
  | .updraftPredict .. | .ctxExecStart .. => .arb :: .ctxs :: .engAt :: .now :: .pos :: Part.reaction
  | .ctxExecComplete .. => .ctxs :: .engAt :: .now :: .pos :: Part.reaction
  | .updraftCheck .. => [.ctxs, .engAt, .free, .now]
  | .ctxCommit .. =>
    .adf :: .adh :: .adr :: .arb :: .cpwCmp :: .ctxs :: .engAt :: .lg :: .mem :: .now :: .pos :: .pslack ::
      .tbu :: .zslack :: Part.reaction
  | .engineStall .. =>
    Part.andRegs [.act, .bch, .cpw, .dcd, .dev, .dma, .dmaReq, .evrAt, .halo, .msv, .now, .obc, .pos, .sets, .tpw]
  | .rsvSample .. | .encSpeedTimeout .. => [.now, .pos]
  | .rsvPeriodCheck .. | .encEdge .. | .encIndex .. | .hallEdge .. =>
    [.dma, .dmaReq, .evrAt, .now, .pos, .block .dma, .block .hlo, .block .pos, .block .sys]
  | .fusionUpdate .. | .reacqDecision .. =>
    Part.andRegs [.dma, .dmaReq, .evrAt, .free, .halo, .msv, .now, .pos, .sets, .tpw]
  | .posRestart .. | .posSeedEnc .. | .posClrCnt .. | .ssfSs1 .. | .ssfBrakeApply .. | .ssfBrakeRelease ..
  | .ssfSbcAck .. | .ssfClrCnt .. | .ss1Timeout .. =>
    Part.andRegs [.dma, .dmaReq, .evrAt, .halo, .msv, .now, .pos, .sets, .tpw]
  | .msvTcmdWrite .. => [.msv, .now, .block .msv]
  | .msvRun .. | .msvStop .. | .msvDirFwd .. | .msvDirRev .. | .msvDirBoth .. | .msvOnesetRestore .. | .msvAck ..
  | .msvClrCnt .. =>
    [.dma, .dmaReq, .evrAt, .halo, .msv, .now, .pos, .tpw, .block .dma, .block .hlo, .block .msv, .block .pos,
      .block .sys, .block .tpw]
  | .lhPinSample .. | .cmdPinEdge .. => [.now, .pin]
  | .bchAck .. | .bchClrCnt .. => [.now, .block .bch]
  | .dcdVsetWrite .. => [.now, .block .dcd]
  | .dcdStart .. | .dcdStop .. | .dcdAck .. | .dcdClrCnt .. =>
    [.cpw, .dcd, .dma, .dmaReq, .evrAt, .now, .block .dcd, .block .dma]
  | .obcStart .. | .obcStop .. | .obcSetDir .. | .obcAck .. | .obcClrCnt .. =>
    [.dev, .dma, .dmaReq, .evrAt, .now, .obc, .block .dma, .block .obc]
  | .obcStopBound .. | .obcPfcInhibit .. => [.cpw, .dev, .dma, .dmaReq, .evrAt, .now, .obc, .block .dma, .block .obc]
  | .actCmpWrite .. | .actForcedCommutation .. | .actSectorAdvance .. => [.act, .now, .block .act]
  | .actTgtWrite .. => [.now, .block .act]
  | .actBemfEdge .. | .actAlignEnd .. | .actSpeedTimeout .. => [.act, .now]
  | .actRun .. | .actSeq .. | .actBrake .. | .actStop .. | .actAck .. | .actClrCnt .. | .actSetPos .. =>
    [.act, .dma, .dmaReq, .evrAt, .now, .block .act, .block .dma]
  | .loadResponse .. => Part.andRegs [.arb, .free, .lks, .now, .obc, .reply, .snaps]
  | .transWindowStart .. => [.now, .block .lks]
  | .asyncInputTaken .. => [.free, .lks, .now]
  | .debugHaltRequest .. | .debugStep .. | .lksClrCnt .. | .lksProbe .. => [.lks, .now, .block .lks]
  | .debugHalted .. => [.cpw, .halo, .lks, .now, .block .lks]
  | .debugResume .. => [.halo, .lks, .now, .block .lks]
  | .hloAck .. =>
    [.dma, .dmaReq, .evrAt, .free, .halo, .msv, .now, .pos, .tpw, .block .dma, .block .hlo, .block .msv,
      .block .pos, .block .ssf, .block .sto, .block .sys, .block .tpw]
  | .hloClrLog .. | .hloClrFirst .. => [.now, .block .hlo]
  | .stoRelease .. | .stoConvRelease .. => [.halo, .now, .block .sto]
  | .stoAssert .. =>
    [.dma, .dmaReq, .evrAt, .halo, .msv, .now, .pos, .tpw, .block .dma, .block .hlo, .block .msv, .block .pos,
      .block .ssf, .block .sto, .block .sys, .block .tpw]
  | .stoConvAssert .. => [.cpw, .dcd, .dma, .dmaReq, .evrAt, .halo, .now, .block .dcd, .block .dma, .block .sto]
  | .stoPathBRelease .. =>
    [.dma, .dmaReq, .evrAt, .halo, .msv, .now, .pos, .tpw, .block .dma, .block .hlo, .block .msv, .block .pos,
      .block .sto, .block .sys, .block .tpw]
  | .tpoPulseStart .. | .tpoPulseEnd .. | .ghbHalfPeriod .. => [.halo, .now]
  | .sfiAck .. | .sfiClrCnt .. =>
    [.dma, .dmaReq, .evrAt, .halo, .msv, .now, .pos, .tpw, .block .dma, .block .hlo, .block .msv, .block .pos,
      .block .sfi, .block .ssf, .block .sto, .block .sys, .block .tpw]
  | .sbcApplyDelay .. | .sbcTestStart .. => [.halo, .now, .block .ssf]
  | .scfOpen .. => [.dma, .dmaReq, .evrAt, .now, .scf, .block .dma, .block .hlo, .block .scf, .block .sys]
  | .scfSetPwd .. | .scfConfirm .. | .scfRevert .. | .imgcrcRecomputed .. => [.now, .scf, .block .scf]
  | .scfStoreDone .. | .lockoutEnd .. => [.dma, .dmaReq, .evrAt, .now, .scf, .block .dma, .block .scf]
  | .slgRdseqWrite .. | .slgCopyDone .. => [.now, .scf, .block .slg]
  | .zenithScan .. => .free :: .now :: .pos :: .pslack :: .tmu :: .zslack :: Part.reaction
  | .arbWindowStart .. => [.arb, .now]
  | .starvation .. => [.dma, .dmaReq, .evrAt, .now, .block .arb, .block .dma, .block .hlo, .block .sys]
  | .scrubAccess .. => .arb :: .now :: .pos :: Part.reaction
  | .flsProgram .. | .flsErase .. => [.arb, .keys, .now, .block .arb]
  | .flashOpDone .. | .dmaRecordDone .. =>
    [.arb, .dma, .dmaReq, .evrAt, .free, .mem, .now, .block .arb, .block .dma, .block .hlo, .block .sys]
  | .arbClrCnt .. => [.now, .block .arb]
  | .dmaStart .. | .dmaStop .. | .dmaClrCnt .. => [.dma, .now, .block .dma]
  | .dmaPeriphRequest .. => Part.andRegs [.dma, .dmaReq, .now]
  | .dmaBlockDone .. => [.dma, .dmaReq, .evrAt, .now, .block .dma]
  | .dmaRptrWrite .. => [.now, .block .dma]
  | .crcStart .. | .crcDinWrite .. => [.now, .block .crc]
  | .canStart .. | .canStop .. | .canRecover .. | .canTxuAbort .. | .canFlush .. | .canClrCnt .. =>
    [.canH, .dma, .dmaReq, .evrAt, .now, .block .can, .block .dma]
  | .canPushFifo .. | .canPushTxu .. | .canRxpop .. | .canHppop .. => [.canH, .now, .block .can]
  | .canStartOfFrame .. => [.canH, .now]
  | .canRxFrame .. => .free :: .now :: .pos :: Part.reaction
  | .canRecoveryDone .. => [.dma, .dmaReq, .evrAt, .now, .block .can, .block .dma]
  | .clfSignalDetect .. | .clfPdrespRx .. => [.clf, .now, .block .clf]
  | .clfTrainDone .. | .clfTrainTimeout .. | .clfRescan .. | .clfRetrain .. | .clfClrCnt .. | .clfAssignRx .. =>
    [.clf, .dma, .dmaReq, .evrAt, .now, .block .clf, .block .dma]
  | .clfLaneFault .. | .clfSlotTx .. =>
    [.clf, .dma, .dmaReq, .evrAt, .now, .block .clf, .block .dma, .block .hlo, .block .sys]
  | .clfHelloSend .. | .clfHelloRx .. =>
    [.clf, .dma, .dmaReq, .evrAt, .now, .tbu, .block .clf, .block .dma, .block .hlo, .block .sys, .block .tbu]
  | .clfPdRequest .. | .clfPdreqRx .. | .errorRateWindowStart .. => [.clf, .now]
  | .clfFrameRx .. =>
    [.arb, .clf, .dma, .dmaReq, .evrAt, .free, .mem, .msv, .now, .block .arb, .block .clf, .block .dma,
      .block .hlo, .block .msv, .block .sys]
  | .clfTxbufRead .. => [.arb, .clf, .now, .block .arb]
  | .clfSuperframe .. =>
    .adf :: .adh :: .adr :: .ctxs :: .engAt :: .lg :: .now :: .pos :: .pslack :: .sfTick :: .tbu :: Part.reaction
  | .clfSwapatWrite .. | .clfRingRptrWrite .. => [.now, .block .clf]
  | .clfSlotBankWrite .. => [.now, .block .bank, .block .clf]
  | .clfRouteWrite .. => [.now, .block .clf, .block .route]
  | .logProgramDone .. => Part.andRegs [.dma, .dmaReq, .evrAt, .mem, .now, .scf, .sets]

end Sys2Proof.Machine
end

