-- ==== Sys2Proof/Certificates/Slice0/Obligations.lean ====
section
/-! DEFINITION. The statements about the model. Each names the command or the function it is about; `exec` answers the next state
that the clause gives, under conditions on the state and the operands alone. `s.advance dt` is the state in which `dt` Horizon
ticks have passed, the operand that every command carries (log 1). -/

open Sys2Proof Sys2Proof.Machine

/-- The state of which a COMMIT written with `val` asks admission: `CSET` written, and the page COMMITTING. -/
def Sys2Proof.Machine.State.atAdmission (s : State) (page : Page) (val : W32) : State :=
  ((s.setWord page HDR.CSET (BitVec.ofNat 32 (((s.rd (fldAddr page HDR.CSET)).toNat &&& 0xFFFF0CFF) |||
    (val.toNat &&& 0xF300)))).put page HDR.CSET_STAT_STATE 2).put page HDR.CSET_STAT_STEPS_DONE 0

/-- A step takes the command at the front of the queue and runs it with the queue's rest. -/
def Obligations.StepRunsTheFrontCommand : Prop :=
  ∀ (c : Instr) (s : State), step { s with pending := c :: s.pending } = exec c s

/-- On an empty queue one Horizon tick passes and nothing else changes; in OFF not even that (the model's choice, log 4). -/
def Obligations.EmptyQueuePassesOneTick : Prop :=
  ∀ s : State, s.pending = [] → step s = .next { s with now := if s.dev.off then s.now else s.now + 1 }

/-- The state after reset holds registers and memory in canonical form, waits in BOOT with the counter at 0, has no command
waiting, and reads zero in every byte of both RAMs. -/
def Obligations.ResetIsCanonicalAndWaitsInBoot : Prop :=
  State.reset.Canonical ∧ State.reset.dstate = .boot ∧ State.reset.now = 0 ∧ State.reset.pending = [] ∧
  ∀ a, regionOf a = some .sram ∨ regionOf a = some .halo → State.reset.rdByte a = 0

/-- Registers and memory stay in canonical form over every step, whatever the state and the command. -/
def Obligations.EveryStepKeepsCanonicalForm : Prop :=
  ∀ s t : State, s.Canonical → step s = .next t → t.Canonical

/-- No command changes a part of the state outside its footprint: a field of the state or a register page of a block that
`footprint` does not list for it reads as before. -/
def Obligations.EveryCommandKeepsToItsFootprint : Prop :=
  ∀ (c : Instr) (s t : State), exec c s = .next t → s.Within (footprint c) t

/-- Every command answers a next state in every state, and leaves the queue of waiting commands as it was. -/
def Obligations.EveryCommandAnswersAndLeavesTheQueue : Prop :=
  ∀ (c : Instr) (s : State), ∃ t, exec c s = .next t ∧ t.pending = s.pending

/-- Memory changes only by a bus access, a register write or a committed entry of a core, the commit of a context, a
transfer of DMA, a flash operation, the receiver of the fabric, a log copy, or a reset: over every other command every byte
reads as before. -/
def Obligations.OnlyTheseCommandsWriteMemory : Prop :=
  ∀ (c : Instr) (s t : State), (match c with
    | .supplyUv .. | .nresetAssert .. | .rstCmdDevice .. | .rstCmdAp0 .. | .rstCmdAp1 .. | .debugSystemReset ..
    | .registerWrite .. | .pairWriteLo .. | .pairWriteHi .. | .compareEntry .. | .busAccess .. | .dmaBlockBurst ..
    | .dmaRecordDone .. | .flashOpDone .. | .ctxCommit .. | .clfFrameRx ..
    | .logProgramDone .. => False
    | _ => True) → exec c s = .next t → ∀ a, t.rdByte a = s.rdByte a

/-- A write of a requester other than HS to a word of a Halo page changes no register but that page's `ERRCNT`. -/
def Obligations.HaloPagesTakeWritesOfHsOnly : Prop :=
  ∀ (dt : Nat) (req : Req) (addr : Nat) (be : BitVec 4) (val : W32) (s : State) (p : Page),
    pageAt addr = some p → isHalo p = true → req.1 ≠ 2 →
    ∃ t, exec (.registerWrite dt req addr be val) s = .next t ∧
      (∀ a, a ≠ fldAddr p HDR.ERRCNT → t.rd a = s.rd a) ∧ (∀ a, t.rdByte a = s.rdByte a)

/-- The supplies and the reset pin: a supply that rises or falls is recorded; an undervoltage and a low NRESET bring OFF;
the end of the supply wait, and the release of NRESET after it, start BOOT at tick 0. A device reset by command or by the
debugger starts BOOT at tick 0; a reset of one pair stops both of its cores with an empty window, and 400 ticks later the
pair starts at its entry address. -/
def Obligations.SuppliesAndResetsRestartTheDevice : Prop :=
  ((∀ dt k (s : State), ∃ t, exec (.supplyValid dt k) s = .next t ∧ vget t.dev.supplyOk k = true ∧ t.regs = s.regs ∧
     t.mem = s.mem) ∧
   (∀ dt boot (s : State), s.dev.off = true → s.dev.waitDone = false → (∀ k, vget s.dev.supplyOk k = true) →
     s.dev.nresetLow = false →
     ∃ t, exec (.powerValid dt boot) s = .next t ∧ t.dev.off = false ∧ t.dev.waitDone = true ∧ t.now = 0) ∧
   (∀ dt k (s : State), ∃ t, exec (.supplyUv dt k) s = .next t ∧ t.dev.off = true ∧ vget t.dev.supplyOk k = false ∧
     t.dev.waitDone = false) ∧
   (∀ dt (s : State), ∃ t, exec (.nresetAssert dt) s = .next t ∧ t.dev.off = true ∧ t.dev.nresetLow = true) ∧
   (∀ dt held boot (s : State), s.dev.nresetLow = true → s.dev.waitDone = true →
     ∃ t, exec (.nresetRelease dt held boot) s = .next t ∧ t.dev.off = false ∧ t.dev.nresetLow = false ∧ t.now = 0)) ∧
  ((∀ dt (req : Req) (s : State), (s.advance dt).unlocked RST.pg req = true →
     ((s.dstate = .standby ∨ s.dstate = .service) ∧ (req.1 ≤ 2 ∨ req.1 = 11) ∨
       s.dstate = .safeHold ∧ (req.1 = 2 ∨ req.1 = 11)) →
     ∃ t, exec (.rstCmdDevice dt req) s = .next t ∧ t.dev.off = false ∧ t.now = 0) ∧
   (∀ dt (s : State), s.dev.off = false →
     ∃ t, exec (.debugSystemReset dt) s = .next t ∧ t.dev.off = false ∧ t.now = 0) ∧
   (∀ dt (req : Req) (s : State), (s.advance dt).unlocked RST.pg req = true →
     (s.dstate.running = true ∨ s.dstate = .selftest) → (req.1 = 2 ∨ req.1 = 11) →
     (∃ t, exec (.rstCmdAp0 dt req) s = .next t ∧ t.get RST.pg RST.CMD_LAST_STS = Status.done.code ∧
       (vget t.lks.pairs 0).run = false ∧ (vget t.lks.pairs 0).resetAt = some t.now) ∧
     (∃ t, exec (.rstCmdAp1 dt req) s = .next t ∧ t.get RST.pg RST.CMD_LAST_STS = Status.done.code ∧
       (vget t.lks.pairs 1).run = false ∧ (vget t.lks.pairs 1).resetAt = some t.now)) ∧
   (∀ dt (i : Fin 2) (s : State) r, s.dev.off = false → s.dstate ≠ .safeHold →
     (vget s.lks.pairs ⟨i.1, by omega⟩).resetAt = some r → r + 400 ≤ s.now + dt →
     ∃ t, exec (.pairRestart dt i) s = .next t ∧ (vget t.lks.pairs ⟨i.1, by omega⟩).run = true ∧
       (vget t.lks.pairs ⟨i.1, by omega⟩).pc = BitVec.ofNat 32 (vget s.lks.pairs ⟨i.1, by omega⟩).entry))

/-- BOOT and SELFTEST: the result of the slot that is next is recorded, an accepted one is run, and a rejected last one ends
in SAFE_HOLD; the hand-over enters SELFTEST; each start test that passes starts the next one, and the tenth enters STANDBY;
a bound that runs out ends in SAFE_HOLD. -/
def Obligations.BootAndSelftestAdvance : Prop :=
  (∀ dt (slot : Fin 2) err (s : State), s.dstate = .boot → s.get SYS.pg SYS.BOOT_RESULT = 0 → s.bootNext = some slot.1 →
    (s.slotResult slot err = 1 →
      ∃ t, exec (.bootSlotCheck dt slot err) s = .next t ∧ t.get SYS.pg (bootRes slot) = 1 ∧
        t.get SYS.pg SYS.BOOT_RESULT = slot.1 + 1 ∧ t.get SYS.pg SYS.IMGVER = s.imageField slot 0x08 4) ∧
    (s.slotResult slot err ≠ 1 →
      ∃ t, exec (.bootSlotCheck dt slot err) s = .next t ∧ t.get SYS.pg (bootRes slot) = s.slotResult slot err ∧
        t.dev.rejected = true ∧ (s.get SYS.pg SYS.BOOT_MODE = 2 + slot.1 →
          t.get SYS.pg SYS.BOOT_RESULT = 3 ∧ t.get SYS.pg SYS.DSTAT_DSTATE = DState.safeHold.code))) ∧
  (∀ dt (s : State), s.dstate = .boot → (s.get SYS.pg SYS.BOOT_RESULT = 1 ∨ s.get SYS.pg SYS.BOOT_RESULT = 2) →
    s.now + dt ≤ 4800000 →
    ∃ t, exec (.bootHandover dt) s = .next t ∧ t.get SYS.pg SYS.DSTAT_DSTATE = DState.selftest.code) ∧
  (∀ dt (s : State), s.dstate = .boot → 4800000 < s.now + dt →
    ∃ t, exec (.bootTimeout dt) s = .next t ∧ t.get SYS.pg SYS.DSTAT_DSTATE = DState.safeHold.code) ∧
  (∀ dt (s : State), s.dstate = .selftest → 1 ≤ s.dev.test → s.dev.test < 10 → (s.dev.test = 9 → s.imageOk = true) →
    (s.dev.test = 7 → ∀ b, b < 3 → s.bitOn ADR.pg ADR.ACTRL_EN b = true → s.bitOn ADR.pg ADR.RSTAT_RDY b = true) →
    s.now + dt ≤ s.dev.testAt + testBound s.dev.test → s.now + dt ≤ s.dev.boundAt + 16000000 →
    ∃ t, exec (.startTestComplete dt true) s = .next t ∧ t.dev.test = s.dev.test + 1 ∧ t.dev.testAt = t.now ∧
      t.regs = s.regs) ∧
  (∀ dt (s : State), s.dstate = .selftest → s.dev.test = 10 → s.now + dt ≤ s.dev.testAt + testBound 10 →
    s.now + dt ≤ s.dev.boundAt + 16000000 →
    ∃ t, exec (.startTestComplete dt true) s = .next t ∧ t.get SYS.pg SYS.DSTAT_DSTATE = DState.standby.code) ∧
  (∀ dt (s : State), s.dstate = .selftest → s.dev.test ≠ 9 →
    (s.dev.boundAt + 16000000 < s.now + dt ∨ 1 ≤ s.dev.test ∧ s.dev.testAt + testBound s.dev.test < s.now + dt) →
    ∃ t, exec (.selftestTimeout dt) s = .next t ∧ t.get SYS.pg SYS.DSTAT_DSTATE = DState.safeHold.code)

/-- A device command of an allowed requester, in a state that accepts it, without a pending transition and with its
conditions met: the command and its requester are recorded, its transition is pending, and the state is as before. STANDBY
in DRIVE asserts STO on every machine at once (the model's choice, log 50). `SAFE_HOLD` of HS takes effect at once. A
pending transition completes within its bound from the command on, and out of CHARGE once the charger has stopped: the
device takes the target state, `PREV` holds the state before, and the command ends with DONE. -/
def Obligations.DeviceCommandsChangeTheDeviceState : Prop :=
  ((∀ dt (req : Req) (s : State), req.1 ≤ 2 → s.on SYS.pg SYS.DSTAT_TRANS = false →
     ((s.dstate = .drive ∧ (s.advance dt).unmet 0x5 = false ∨ s.dstate = .charge ∨
         s.dstate = .service ∧ (s.advance dt).unmet 0x3 = false ∧ (s.advance dt).unmet 0xA = false) →
       ∃ t, exec (.standby dt req) s = .next t ∧ t.get SYS.pg SYS.DSTAT_TARGET =
           (if s.dstate = .service ∧ s.on SCF.pg SCF.STAT_CHANGED then DState.selftest.code else DState.standby.code) ∧
         t.on SYS.pg SYS.DSTAT_TRANS = true ∧ t.get SYS.pg SYS.DSTAT_LAST_STS = 2 ∧ t.get SYS.pg SYS.DSTAT_LAST_CMD = 1 ∧
         t.get SYS.pg SYS.DSTAT_LAST_REQ = req.1 ∧ t.get SYS.pg SYS.DSTAT_DSTATE = s.get SYS.pg SYS.DSTAT_DSTATE ∧
         t.dev.boundAt = s.now + dt ∧ (s.dstate = .drive → ∀ m : Fin 3, t.stoEff m = true)) ∧
     (s.dstate = .standby → s.bitOn LKS.pg LKS.STAT_HALTED 2 = false →
       ((∀ c, c ∈ [0x1, 0x2, 0x3, 0x4, 0x6] → (s.advance dt).unmet c = false) → ∃ t, exec (.drive dt req) s = .next t ∧
         t.get SYS.pg SYS.DSTAT_TARGET = DState.drive.code ∧ t.on SYS.pg SYS.DSTAT_TRANS = true ∧
         t.get SYS.pg SYS.DSTAT_LAST_STS = 2 ∧ t.get SYS.pg SYS.DSTAT_LAST_CMD = 2 ∧ t.get SYS.pg SYS.DSTAT_LAST_REQ = req.1 ∧
         t.get SYS.pg SYS.DSTAT_DSTATE = DState.standby.code ∧ t.dev.boundAt = s.now + dt) ∧
       ((∀ c, c ∈ [0x2, 0x3, 0x5, 0x7, 0x8] → (s.advance dt).unmet c = false) → ∃ t, exec (.charge dt req) s = .next t ∧
         t.get SYS.pg SYS.DSTAT_TARGET = DState.charge.code ∧ t.on SYS.pg SYS.DSTAT_TRANS = true ∧
         t.get SYS.pg SYS.DSTAT_LAST_STS = 2 ∧ t.get SYS.pg SYS.DSTAT_LAST_CMD = 3 ∧ t.get SYS.pg SYS.DSTAT_LAST_REQ = req.1 ∧
         t.get SYS.pg SYS.DSTAT_DSTATE = DState.standby.code ∧ t.dev.boundAt = s.now + dt) ∧
       ((∀ c, c ∈ [0x3, 0x5, 0x9] → (s.advance dt).unmet c = false) → ∃ t, exec (.service dt req) s = .next t ∧
         t.get SYS.pg SYS.DSTAT_TARGET = DState.service.code ∧ t.on SYS.pg SYS.DSTAT_TRANS = true ∧
         t.get SYS.pg SYS.DSTAT_LAST_STS = 2 ∧ t.get SYS.pg SYS.DSTAT_LAST_CMD = 4 ∧ t.get SYS.pg SYS.DSTAT_LAST_REQ = req.1 ∧
         t.get SYS.pg SYS.DSTAT_DSTATE = DState.standby.code ∧ t.dev.boundAt = s.now + dt))) ∧
   (∀ dt (s : State), s.dstate ≠ .off → s.dstate ≠ .safeHold → ¬(s.dstate.running = true ∧ s.on SYS.pg SYS.DSTAT_TRANS = true) →
     ∃ t, exec (.safeHold dt 2) s = .next t ∧ t.get SYS.pg SYS.DSTAT_DSTATE = DState.safeHold.code ∧
       t.get SYS.pg SYS.DSTAT_LAST_STS = Status.done.code ∧ t.on HLO.pg HLO.STAT_SAFE = true)) ∧
  (∀ dt (s : State) (d : DState), s.dstate.running = true → s.on SYS.pg SYS.DSTAT_TRANS = true →
     s.get SYS.pg SYS.DSTAT_TARGET = d.code → d ≠ .off →
     (s.dstate = .standby → s.now + dt ≤ s.dev.boundAt + if d = .drive then 400000 else 4000) →
     (s.dstate = .drive → s.now + dt ≤ s.dev.boundAt + 4000) →
     (s.dstate = .charge → s.get OBC.pg OBC.STAT_STATE ≤ 1) →
     ∃ t, exec (.stateTransitionDone dt) s = .next t ∧ t.get SYS.pg SYS.DSTAT_DSTATE = d.code ∧
       t.get SYS.pg SYS.DSTAT_TARGET = d.code ∧ t.get SYS.pg SYS.DSTAT_PREV = s.dstate.code ∧
       t.get SYS.pg SYS.DSTAT_LAST_STS = Status.done.code)

/-- The JTAG port takes its instruction outside OFF; EXTEST, CLAMP and HIGHZ act as BYPASS outside SAFE_HOLD, IDCODE shifts
the code out, and observe-only cells take no value. A supply overvoltage and a mismatch of a supervisor ball raise faults
0x001 and 0x004 of reaction FR5, after their flags; the keys of the boot image are revoked by HS in an AUTH session of
SERVICE, never both and never the one in use. -/
def Obligations.JtagFaultsAndKeyRevocation : Prop :=
  (∀ dt cells (s : State), s.dev.off = false →
     exec (.jtagBypass dt) s = .next ((s.advance dt).devSet fun d => { d with jtag := .bypass }) ∧
     exec (.jtagDtm dt) s = .next ((s.advance dt).devSet fun d => { d with jtag := .dtm }) ∧
     (∃ t, exec (.jtagIdcode dt) s = .next t ∧ t.dev.jtag = .idcode ∧ t.reply = .data 0x1048076B#32 ∧ t.regs = s.regs) ∧
     (∃ t, exec (.jtagSamplePreload dt cells) s = .next t ∧ t.dev.jtag = .sample ∧ (∀ c ∈ t.dev.cells, observeOnly c.1 = false) ∧
       t.regs = s.regs) ∧
     (s.dstate = .safeHold →
       (∃ t, exec (.jtagExtest dt) s = .next t ∧ t.dev.jtag = .extest) ∧
       (∃ t, exec (.jtagClamp dt) s = .next t ∧ t.dev.jtag = .clamp) ∧
       (∃ t, exec (.jtagHighz dt) s = .next t ∧ t.dev.jtag = .highz)) ∧
     (s.dstate ≠ .safeHold →
       (∃ t, exec (.jtagExtest dt) s = .next t ∧ t.dev.jtag = .bypass) ∧
       (∃ t, exec (.jtagClamp dt) s = .next t ∧ t.dev.jtag = .bypass) ∧
       (∃ t, exec (.jtagHighz dt) s = .next t ∧ t.dev.jtag = .bypass))) ∧
  ((∀ dt k (s : State), s.dev.off = false → exec (.supplyOv dt k) s =
     .next (((((s.advance dt).putBit PWR.pg PWR.STAT_OV k true).evt PWR.pg PWR.EVT_OV).incSat PWR.pg PWR.CNT_OVCNT).raise 0x001 5 0)) ∧
   (∀ dt ball (s : State), s.dev.off = false →
     exec (.outReadback dt ball) s = .next (((s.advance dt).evt SYS.pg SYS.EVT_READBACK).raise 0x004 5 0)) ∧
   (∀ dt (bits : BitVec 2) (s : State), (s.advance dt).unlocked SYS.pg 2 = true → s.dstate = .service → s.scfAuth = true →
     s.get SYS.pg SYS.KEYREV_REVOKE ||| bits.toNat ≠ 3 → (s.get SYS.pg SYS.KEYREV_REVOKE ||| bits.toNat).testBit s.dev.key = false →
     ∃ t, exec (.keyRevoke dt 2 bits) s = .next t ∧ t.get SYS.pg SYS.KEYREV_REVOKE = s.get SYS.pg SYS.KEYREV_REVOKE ||| bits.toNat) ∧
   (∀ dt (req : Req) bits (s : State), req.1 ≠ 2 →
     exec (.keyRevoke dt req bits) s = .next ((s.advance dt).refuse SYS.pg)))

/-- The unlock of a page: the first word opens the sequence, the second within 64 ticks grants the unlock, any other value
and a late second word cancel it and are counted, an unused unlock lapses after 65 ticks, and no write touches the unlock of
another requester or page. -/
def Obligations.UnlockSequenceOfKey : Prop :=
  ∀ (dt : Nat) (req : Req) (page : Page) (s : State), pageValid page = true → hasHeader page = true → s.dev.off = false →
    (isHalo page = true → req.1 = 2) →
    (∃ t, exec (.keyWrite dt req page 0x7A3C#32) s = .next t ∧ t.unlock page req = .first (s.now + dt)) ∧
    (∀ t0, s.unlock page req = .first t0 → s.now + dt ≤ t0 + 64 →
      ∃ t, exec (.keyWrite dt req page 0x85C3#32) s = .next t ∧ t.unlocked page req = true ∧
        t.get page HDR.ERRCNT_ACCESS = s.get page HDR.ERRCNT_ACCESS) ∧
    (∀ t0, s.unlock page req = .first t0 → t0 + 64 < s.now + dt →
      ∃ t, exec (.keyWrite dt req page 0x85C3#32) s = .next t ∧ t.unlock page req = .none ∧
        t.get page HDR.ERRCNT_ACCESS = min 255 (s.get page HDR.ERRCNT_ACCESS + 1)) ∧
    (∀ val, val ≠ 0x7A3C#32 → val ≠ 0x85C3#32 →
      ∃ t, exec (.keyWrite dt req page val) s = .next t ∧ t.unlock page req = .none ∧
        t.get page HDR.ERRCNT_ACCESS = min 255 (s.get page HDR.ERRCNT_ACCESS + 1)) ∧
    (∀ t0, s.unlock page req = .held t0 → t0 + 65 ≤ s.now + dt →
      ∃ t, exec (.unlockLapse dt req page) s = .next t ∧ t.unlock page req = .none ∧ t.regs = s.regs) ∧
    (∀ (val : W32) (q : Page) (r : Req), pageValid q = true → (q ≠ page ∨ r ≠ req) →
      ∃ t, exec (.keyWrite dt req page val) s = .next t ∧ t.unlock q r = s.unlock q r)

/-- A flag that the hardware sets in the same handshake as a write clears it ends set. -/
def Obligations.HardwareSetFlagSurvivesItsClear : Prop :=
  ∀ (dt : Nat) (req : Req) (page : Page) (val hw : W32) (s : State) (b : Nat), pageValid page = true →
    hasHeader page = true → (hw.toNat &&& evtMask page).testBit b = true →
    ∃ t, exec (.evtClear dt req page val hw) s = .next t ∧ (t.get page HDR.EVT).testBit b = true

/-- A 1 written to `EVT_FORCE` sets its flag, and one written to `EVT` clears it; no other flag changes. An accepted soft
reset brings the words of the page back to their reset values and its open set to its end. Safety parameters stay (R17), as
do the words that report another block's state and the calibration that ADR keeps; a tri-leg follows its conditions again in
its status words. A rejected soft reset is counted and has no other effect. -/
def Obligations.EventFlagsAndSoftReset : Prop :=
  (∀ (dt : Nat) (req : Req) (page : Page) (val : W32) (s : State), pageValid page = true → hasHeader page = true →
     (isHalo page = true → req.1 = 2) →
     (∃ t, exec (.evtForce dt req page val) s = .next t ∧
       t.get page HDR.EVT = s.get page HDR.EVT ||| (val.toNat &&& evtMask page)) ∧
     (∃ t, exec (.evtClear dt req page val 0) s = .next t ∧
       t.get page HDR.EVT = s.get page HDR.EVT &&& (0xFFFFFFFF - val.toNat))) ∧
  (∀ (dt : Nat) (req : Req) (page : Page) (s : State), pageValid page = true → isHalo page = false →
     hasHeader page = true →
     ((s.advance dt).softRstOk page = true →
       ∃ t, exec (.softRst dt req page) s = .next t ∧
         (∀ a, pageAt a = some page → softKept page (a - pageBase page) = false →
           ¬(page.blk = .adh ∧ a = fldAddr page HDR.STAT) →
           ¬(page.blk = .tpw ∧ (a = fldAddr page HDR.STAT ∨ a = fldAddr page HDR.EVT ∨
             a = fldAddr page TPW.PAT)) →
           (t.rd a).toNat &&& (0xFFFFFFFF - safeBits a) = (resetWord a).toNat &&& (0xFFFFFFFF - safeBits a) ∧
           (t.rd a).toNat &&& safeBits a = (s.rd a).toNat &&& safeBits a) ∧
         (∀ r, page ∈ (vget s.sets r).pages → (vget s.sets r).committing = false →
           (∀ q, q ≠ r → page ∉ (vget s.sets q).pages) → vget t.sets r = CSet.empty) ∧
         ∀ i, i < 36 → page.blk = .adr → t.gets page (ADR.GAIN.ix i) = s.gets page (ADR.GAIN.ix i) ∧
           t.gets page (ADR.OFS.ix i) = s.gets page (ADR.OFS.ix i)) ∧
     ((s.advance dt).softRstOk page = false →
       ∃ t, exec (.softRst dt req page) s = .next t ∧
         t.get page HDR.ERRCNT_CMD = min 255 (s.get page HDR.ERRCNT_CMD + 1) ∧
         (∀ a, a ≠ fldAddr page HDR.ERRCNT → t.rd a = s.rd a) ∧ ∀ q, State.sameAt s t q ∨ q = .now ∨ ∃ b, q = .block b))

/-- A lock that is free goes to the writer of ACQ, and of two writers in one arbiter decision to the lower requester; a held
lock stays with its holder, which alone releases it, and each refusal is counted. -/
def Obligations.LocksGoToTheLowerRequester : Prop :=
  ∀ (dt : Nat) (req : Req) (l : Fin 24) (s : State),
    (s.on (lockPlace l).1 ((lockPlace l).2 HDR.OWNER_LOCKED) = false →
      (∃ t, exec (.ownerAcq dt req l none) s = .next t ∧ t.on (lockPlace l).1 ((lockPlace l).2 HDR.OWNER_LOCKED) = true ∧
        t.get (lockPlace l).1 ((lockPlace l).2 HDR.OWNER_ID) = req) ∧
      (∀ q : Req, q ≠ req → ∃ t, exec (.ownerAcq dt req l (some q)) s = .next t ∧
        t.on (lockPlace l).1 ((lockPlace l).2 HDR.OWNER_LOCKED) = true ∧
        t.get (lockPlace l).1 ((lockPlace l).2 HDR.OWNER_ID) = min req.1 q.1 ∧
        t.get (lockPlace l).1 HDR.ERRCNT_LOCK = min 255 (s.get (lockPlace l).1 HDR.ERRCNT_LOCK + 1))) ∧
    (s.on (lockPlace l).1 ((lockPlace l).2 HDR.OWNER_LOCKED) = true →
      (∃ t, exec (.ownerAcq dt req l none) s = .next t ∧ t.on (lockPlace l).1 ((lockPlace l).2 HDR.OWNER_LOCKED) = true ∧
        t.get (lockPlace l).1 ((lockPlace l).2 HDR.OWNER_ID) = s.get (lockPlace l).1 ((lockPlace l).2 HDR.OWNER_ID) ∧
        t.get (lockPlace l).1 HDR.ERRCNT_LOCK = min 255 (s.get (lockPlace l).1 HDR.ERRCNT_LOCK + 1)) ∧
      (s.get (lockPlace l).1 ((lockPlace l).2 HDR.OWNER_ID) = req →
        ∃ t, exec (.ownerRel dt req l) s = .next t ∧ t.on (lockPlace l).1 ((lockPlace l).2 HDR.OWNER_LOCKED) = false ∧
          t.get (lockPlace l).1 HDR.ERRCNT_LOCK = s.get (lockPlace l).1 HDR.ERRCNT_LOCK) ∧
      (s.get (lockPlace l).1 ((lockPlace l).2 HDR.OWNER_ID) ≠ req →
        ∃ t, exec (.ownerRel dt req l) s = .next t ∧ t.on (lockPlace l).1 ((lockPlace l).2 HDR.OWNER_LOCKED) = true ∧
          t.get (lockPlace l).1 HDR.ERRCNT_LOCK = min 255 (s.get (lockPlace l).1 HDR.ERRCNT_LOCK + 1)))

/-- Only requesters 0, 1, 2 and 11 open change sets: a STAGE, COMMIT or ABORT of any other is counted in `ERRCNT.ACCESS` and
changes nothing else. STAGE adds the page to the writer's set and shows STAGING under its owner; COMMIT and ABORT without an
open set end with NO_SET; ABORT discards an open set and leaves ABORTED on each of its pages. -/
def Obligations.ChangeSetsAreOpenedByFourRequesters : Prop :=
  (∀ (dt : Nat) (req : Req) (page : Page) (val : W32) (s : State), pageValid page = true → hasHeader page = true →
     req ∉ [0, 1, 2, 11] →
     exec (.csetStage dt req page val) s = .next ((s.advance dt).incSat page HDR.ERRCNT_ACCESS) ∧
     exec (.csetCommit dt req page val) s = .next ((s.advance dt).incSat page HDR.ERRCNT_ACCESS) ∧
     exec (.csetAbort dt req page val) s = .next ((s.advance dt).incSat page HDR.ERRCNT_ACCESS)) ∧
  (∀ (dt : Nat) (req : Req) (page : Page) (val : W32) (s : State), pageValid page = true → hasHeader page = true →
     isHalo page = false → req ∈ ([0, 1, 2, 11] : List Req) → (vget s.sets req).committing = false →
     ((∀ r, (vget s.sets r).pages.contains page = true → r = req) →
       ∃ t, exec (.csetStage dt req page val) s = .next t ∧ page ∈ (vget t.sets req).pages ∧
         t.get page HDR.CSET_STAT_STATE = 1 ∧ t.get page HDR.CSET_STAT_SET_OWNER = req ∧
         t.get page HDR.CSET_STAT_SPLIT_DONE = 0) ∧
     ((vget s.sets req).pages = [] →
       (∃ t, exec (.csetCommit dt req page val) s = .next t ∧ t.get page HDR.CSET_STAT_LAST = 7 ∧ t.sets = s.sets) ∧
       (∃ t, exec (.csetAbort dt req page val) s = .next t ∧ t.get page HDR.CSET_STAT_LAST = 7 ∧ t.sets = s.sets)) ∧
     ((vget s.sets req).pages ≠ [] → (∀ q ∈ (vget s.sets req).pages, pageValid q = true ∧ hasHeader q = true) →
       ∃ t, exec (.csetAbort dt req page val) s = .next t ∧ vget t.sets req = CSet.empty ∧
         ∀ q ∈ (vget s.sets req).pages, t.get q HDR.CSET_STAT_LAST = 8 ∧ t.get q HDR.CSET_STAT_STATE = 0))

/-- A write to a register of staged fields. In the writer's open set the staged fields take the value that the write forms,
and keep their active values; outside it the write stages nothing and is counted. A write to the common header of a page
below Halo: EVT_EN takes the enables of the events that the page defines, and a count of ERRCNT is cleared by a 0 and left
by any other value. A register of plain RW fields takes its value at once: the operands of the flash controller, and the
expected check value of the safety image from HS. -/
def Obligations.RegisterWritesFollowTheirAccessCodes : Prop :=
  (∀ (dt : Nat) (req : Req) (page : Page) (off : Nat) (r : RegDef) (be : BitVec 4) (val : W32) (s : State), be ≠ 0 →
     pageValid page = true → hasHeader page = true → (isHalo page = true → req.1 = 2) → page.blk ≠ .dma → 0x040 ≤ off →
     off < pageSize page.blk → off % 4 = 0 → regAt page off = some r → r.half = .none →
     (∀ f ∈ r.fields, f.acc = .rws ∨ f.acc = .ro) → (∃ f ∈ r.fields, f.acc = .rws) →
     s.inRange req page off r (formWord r (s.present req (pageBase page + off)) be.toNat val.toNat) = true →
     (s.dstate ≠ .service ∨ r.safeMask = 0 ∨ req.1 = 2 ∧ s.scfAuth = true ∧ s.scfUnset = false) →
     ((vget s.sets req).committing = false → page ∈ (vget s.sets req).pages →
       ∃ t, exec (.registerWrite dt req (pageBase page + off) be val) s = .next t ∧ t.reply = .done ∧
         (∀ f ∈ r.fields, f.acc = .rws →
           bits (t.present req (pageBase page + off)) f.hi f.lo =
             bits (formWord r (s.present req (pageBase page + off)) be.toNat val.toNat) f.hi f.lo ∧
           bits (t.rd (pageBase page + off)).toNat f.hi f.lo = bits (s.rd (pageBase page + off)).toNat f.hi f.lo) ∧
         t.get page HDR.ERRCNT_ACCESS = s.get page HDR.ERRCNT_ACCESS) ∧
     ((vget s.sets req).committing = true ∨ page ∉ (vget s.sets req).pages →
       ∃ t, exec (.registerWrite dt req (pageBase page + off) be val) s = .next t ∧ t.reply = .done ∧ t.sets = s.sets ∧
         t.get page HDR.ERRCNT_ACCESS = min 255 (s.get page HDR.ERRCNT_ACCESS + 1))) ∧
  (∀ (dt : Nat) (req : Req) (val : W32) (s : State),
     (∀ page, pageValid page = true → isHalo page = false → hasHeader page = true →
       (∃ t, exec (.registerWrite dt req (fldAddr page HDR.EVT_EN) 15 val) s = .next t ∧
         t.get page HDR.EVT_EN = val.toNat &&& evtMask page) ∧
       (∃ t, exec (.registerWrite dt req (fldAddr page HDR.ERRCNT) 15 val) s = .next t ∧
         ∀ x ∈ [HDR.ERRCNT_LOCK, HDR.ERRCNT_CSET, HDR.ERRCNT_ACCESS, HDR.ERRCNT_CMD],
           t.get page x = if bits val.toNat x.hi x.lo = 0 then 0 else s.get page x)) ∧
     (∀ k : Fin 4, ∃ t, exec (.registerWrite dt req (fldAddr ARB.pg (ARB.FLS_DATA.ix k)) 15 val) s = .next t ∧
       t.reply = .done ∧ t.rd (fldAddr ARB.pg (ARB.FLS_DATA.ix k)) = val ∧
       ∀ a, a ≠ fldAddr ARB.pg (ARB.FLS_DATA.ix k) → t.rd a = s.rd a) ∧
     (∃ t, exec (.registerWrite dt req (fldAddr ARB.pg ARB.FLS_ADDR) 15 val) s = .next t ∧ t.reply = .done ∧
       t.rd (fldAddr ARB.pg ARB.FLS_ADDR) = val ∧
       ∀ a, a ≠ fldAddr ARB.pg ARB.FLS_ADDR → t.rd a = s.rd a) ∧
     (req.1 = 2 → ∃ t, exec (.registerWrite dt req (fldAddr SCF.pg SCF.EXPCRC) 15 val) s = .next t ∧ t.reply = .done ∧
       t.rd (fldAddr SCF.pg SCF.EXPCRC) = val) ∧
     (∀ addr be, pageAt addr = none → ∃ t, exec (.registerWrite dt req addr be val) s = .next t ∧ t.reply = .error ∧
       t.regs = s.regs ∧ t.mem = s.mem))

/-- COMMIT of an admitted set of one page freezes it: the page shows COMMITTING, the set waits for its boundary, and the
active word is as it was. At a commit boundary after its COMMIT a frozen set takes effect: the staged bits are active, its
page is IDLE with DONE, and the set is closed. -/
def Obligations.CommitsFreezeAndTakeEffect : Prop :=
  (∀ (dt : Nat) (req : Req) (k : Fin 2) (val v : W32) (s : State), req ∈ ([0, 1, 2, 11] : List Req) →
     s.on SYS.pg SYS.DSTAT_TRANS = false →
     vget s.sets req = ⟨[GPIO.pg], [⟨fldAddr GPIO.pg (GPIO.DIR.ix k), v.toNat, 0xFFFFFFFF⟩], [], false, false, 0, 0, 0, 0, false⟩ →
     (((s.advance dt).atAdmission GPIO.pg val).admitSet (vget s.sets req)).1 = true →
     ∃ t, exec (.csetCommit dt req GPIO.pg val) s = .next t ∧ (vget t.sets req).committing = true ∧
       (vget t.sets req).plan = [(.general, .general)] ∧ (vget t.sets req).after = t.now ∧
       t.get GPIO.pg HDR.CSET_STAT_STATE = 2 ∧ t.rd (fldAddr GPIO.pg (GPIO.DIR.ix k)) = s.rd (fldAddr GPIO.pg (GPIO.DIR.ix k))) ∧
  (∀ (dt after : Nat) (req : Req) (k : Fin 2) (v m : W32) (s : State), s.dev.off = false →
     (s.now + dt) % 400 = 0 → after < s.now + dt → s.scf.revertAt = none →
     (∀ r, vget s.sets r = if r = req then ⟨[GPIO.pg], [⟨fldAddr GPIO.pg (GPIO.DIR.ix k), v.toNat, m.toNat⟩],
         [(.general, .general)], true, false, 0, 1, after, 0, false⟩ else CSet.empty) →
     ∃ t, exec (.domainCommit dt .general) s = .next t ∧
       t.rd (fldAddr GPIO.pg (GPIO.DIR.ix k)) = (s.rd (fldAddr GPIO.pg (GPIO.DIR.ix k)) &&& ~~~m) ||| (v &&& m) ∧
       t.get GPIO.pg HDR.CSET_STAT_STATE = 0 ∧ t.get GPIO.pg HDR.CSET_STAT_LAST = 1 ∧ vget t.sets req = CSet.empty)

/-- The two halves of a 64-bit value: a read of `_LO` keeps the upper half for its requester, which the following read of
`_HI` answers, and the read of a capture stamp clears NEW; a write of `_LO` is held, and the following write of `_HI` writes
both halves at once. -/
def Obligations.PairsAreReadAndWrittenWhole : Prop :=
  ∀ (dt dt' : Nat) (req : Req) (g : Fin 15) (s : State),
    (∃ t, exec (.pairReadLo dt req (fldAddr TBU.pg (TBU.LG_CNT_LO.ix g))) s = .next t ∧
      t.reply = .data (s.rd (fldAddr TBU.pg (TBU.LG_CNT_LO.ix g))) ∧ t.regs = s.regs ∧
      ∃ u, exec (.pairReadHi dt' req (fldAddr TBU.pg (TBU.LG_CNT_HI.ix g))) t = .next u ∧
        u.reply = .data (s.rd (fldAddr TBU.pg (TBU.LG_CNT_HI.ix g)))) ∧
    (∀ c : Fin 16, ∃ t, exec (.capStampLoRead dt req c) s = .next t ∧
      t.reply = .data (s.rd (fldAddr TBU.pg (TBU.CAP_STAMP_LO.ix c))) ∧ t.on TBU.pg (TBU.CAP_CFG_NEW.ix c) = false) ∧
    (∀ lo hi : W32, TBU.pg ∈ (vget s.sets req).pages → (vget s.sets req).committing = false →
      ∃ t, exec (.pairWriteLo dt req (fldAddr TBU.pg (TBU.LG_START_LO.ix g)) lo) s = .next t ∧ t.regs = s.regs ∧ t.sets = s.sets ∧
      ∃ u, exec (.pairWriteHi dt' req (fldAddr TBU.pg (TBU.LG_START_HI.ix g)) hi) t = .next u ∧
        u.present req (fldAddr TBU.pg (TBU.LG_START_LO.ix g)) = lo.toNat ∧
        u.present req (fldAddr TBU.pg (TBU.LG_START_HI.ix g)) = hi.toNat)

/-- A lone access of the System SRAM is granted: a store changes exactly its bytes, and a load answers the bytes that stand
there; what the bus has no place for is answered with an error and changes no byte. -/
def Obligations.BusAccessesReadAndWriteMemory : Prop :=
  ∀ (dt : Nat) (req : Req) (a : Nat) (val : W32) (s : State), (req.1 ≤ 2 ∨ 8 ≤ req.1) →
    (0x20000000 ≤ a → a < 0x20600000 → a % 4 = 0 →
      (∃ t, exec (.busAccess dt [⟨req, a, 2, some val⟩] .none) s = .next t ∧ t.reply = .done ∧ t.rdMem a = val ∧
        ∀ b, (b < a ∨ a + 4 ≤ b) → t.rdByte b = s.rdByte b) ∧
      (∃ t, exec (.busAccess dt [⟨req, a, 2, none⟩] .none) s = .next t ∧ t.reply = .data (s.rdMem a) ∧
        ∀ b, t.rdByte b = s.rdByte b)) ∧
    (regionOf a = none → pageAt a = none →
      ∃ t, exec (.busAccess dt [⟨req, a, 2, some val⟩] .none) s = .next t ∧ t.reply = .error ∧ ∀ b, t.rdByte b = s.rdByte b)

/-- The source of Horizon: a reference that has been qualified for QUAL_MS is locked directly while no lock group runs and
glided to otherwise, the lock reaches REF, a glide ends in REF when less than 0.1 ppm can be left, and a lost reference
leaves HOLDOVER. A tick rate outside its limits and a difference of the two tick counters bring the device safe state. -/
def Obligations.HorizonSourceAndClockFaults : Prop :=
  (∀ (dt : Nat) (s : State), s.dev.off = false →
     (s.tbu.refFrom + s.get TBU.pg TBU.SRCCFG_QUAL_MS * 400000 ≤ s.now + dt →
       (∀ d : Int, s.get TBU.pg TBU.STAT_SRC = 0 → s.tbu.qualified = false → d.natAbs ≤ 10000000 →
         (List.range 15).any s.lgRunning = false →
         ∃ t, exec (.refQualified dt d) s = .next t ∧ t.tbu.directBy = some (s.now + dt + 40000, d) ∧ t.tbu.qualified = true ∧
           t.get TBU.pg TBU.STAT_SRC = 0 ∧ t.on TBU.pg TBU.EVT_REF_BACK = true) ∧
       (∀ d : Int, (s.get TBU.pg TBU.STAT_SRC = 0 ∧ s.tbu.qualified = false ∧ d.natAbs ≤ 10000000 ∧
           (List.range 15).any s.lgRunning = true ∨ s.get TBU.pg TBU.STAT_SRC = 2 ∧ d.natAbs ≤ 1000000) →
         ∃ t, exec (.refQualified dt d) s = .next t ∧ t.get TBU.pg TBU.STAT_SRC = 3 ∧ t.tbu.glide = some (s.now + dt, d) ∧
           t.on TBU.pg TBU.EVT_REF_BACK = true)) ∧
     (∀ x d, s.tbu.directBy = some (x, d) → s.now + dt ≤ x →
       ((List.range 15).any s.lgRunning = false →
         ∃ t, exec (.directLock dt) s = .next t ∧ t.get TBU.pg TBU.STAT_SRC = 1 ∧ t.tbu.directBy = none ∧
           t.on TBU.pg TBU.EVT_LOCKED = true) ∧
       ((List.range 15).any s.lgRunning = true →
         ∃ t, exec (.directLock dt) s = .next t ∧ t.get TBU.pg TBU.STAT_SRC = 3 ∧ t.tbu.glide = some (s.now + dt, d))) ∧
     (∀ x d, s.get TBU.pg TBU.STAT_SRC = 3 → s.tbu.glide = some (x, d) →
       d.natAbs < s.get TBU.pg TBU.SRCCFG_GLIDE * 1000 * (s.now + dt - x) / 400000 + 100 →
       s.now + dt - x ≤ ((d.natAbs + s.get TBU.pg TBU.SRCCFG_GLIDE * 1000 - 1) / (s.get TBU.pg TBU.SRCCFG_GLIDE * 1000) + 1) * 400000 →
       ∃ t, exec (.glideDone dt) s = .next t ∧ t.get TBU.pg TBU.STAT_SRC = 1 ∧ t.get TBU.pg TBU.TRIM = 0 ∧
         t.tbu.glide = none ∧ t.on TBU.pg TBU.EVT_LOCKED = true) ∧
     (s.get TBU.pg TBU.STAT_SRC = 1 ∨ s.get TBU.pg TBU.STAT_SRC = 3 →
       ∃ t, exec (.refLost dt) s = .next t ∧ t.get TBU.pg TBU.STAT_SRC = 2 ∧ t.on TBU.pg TBU.EVT_REF_LOST = true ∧
         t.tbu.glide = none ∧ t.tbu.refFrom = s.now + dt) ∧
     (s.get TBU.pg TBU.STAT_SRC = 0 → s.tbu.qualified = false → s.tbu.neverRaised = false → 4800000 ≤ s.now + dt →
       ∃ t, exec (.refNever dt) s = .next t ∧ t.tbu.neverRaised = true ∧
         t.get HLO.pg (HLO.LOG_INFO.ix (s.get HLO.pg HLO.LOGPTR_NEXT)) = 1 * 2 ^ 24 + 0x102)) ∧
  (∀ (dt : Nat) (s : State), s.dev.off = false →
     (∃ t, exec (.rateFail dt) s = .next t ∧ t.get SYS.pg SYS.DSTAT_DSTATE = DState.safeHold.code ∧
       t.get HLO.pg HLO.FIRST_INFO = (if s.get HLO.pg HLO.FIRST_INFO = 0 then 5 * 2 ^ 24 + 0x108 else s.get HLO.pg HLO.FIRST_INFO)) ∧
     (∃ t, exec (.countMismatch dt) s = .next t ∧ t.get SYS.pg SYS.DSTAT_DSTATE = DState.safeHold.code ∧
       t.get HLO.pg HLO.FIRST_INFO = (if s.get HLO.pg HLO.FIRST_INFO = 0 then 5 * 2 ^ 24 + 0x109 else s.get HLO.pg HLO.FIRST_INFO)))

/-- A period start: the group's count advances, RUNNING shows, the group's boundary commits, and its timers start their
period; a match of a compare channel is dated and acts on its pin at its fine time; a capture stamps its edge. -/
def Obligations.LockGroupsAndTheirChannels : Prop :=
  (∀ (s : State) (g : Fin 15) (f : Nat),
    (s.lgRaise g f).get64 TBU.pg (TBU.LG_CNT_LO.ix g) =
      (if s.on TBU.pg (TBU.LG_STAT_RUNNING.ix g) then s.get64 TBU.pg (TBU.LG_CNT_LO.ix g) + 1 else 1) % 2 ^ 64 ∧
    (s.lgRaise g f).on TBU.pg (TBU.LG_STAT_RUNNING.ix g) = true ∧ (vget (s.lgRaise g f).lg g).last = f) ∧
  (∀ dt (g : Fin 15) (s : State) f, s.dev.off = false → (vget s.lg g).next = some f → f / 128 = s.now + dt →
    ((vget s.lg g).renew = false → exec (.lgPeriodStart dt g) s =
      .next ((((((s.advance dt).lgRaise g f).commitAt (.group g)).timersStart g f).cmpSkips g).syncOutStart g f)) ∧
    ((vget s.lg g).renew = true → exec (.lgPeriodStart dt g) s = .next ((s.advance dt).lgRenew g f))) ∧
  (∀ dt (c : Fin 16) (s : State) f, s.dev.off = false → s.cmpTime c = some f → f / 128 = s.now + dt →
    vget s.tbu.cmpTick c ≠ some (s.now + dt) →
    ∃ t, exec (.cmpMatch dt c) s = .next t ∧ vget t.tbu.cmpTick c = some (s.now + dt) ∧
      (vget t.tbu.cmpPin c).at_ f = if s.cmpDrives c then
        cmpAction (s.get TBU.pg (TBU.CMP_CFG_ACTION.ix c)) ((vget s.tbu.cmpPin c).at_ f) else (vget s.tbu.cmpPin c).at_ f) ∧
  (∀ dt (c : Fin 16) (falling : Bool) (fine : Fin 128) (s : State), s.dev.off = false →
    s.on TBU.pg (TBU.CAP_CFG_EN.ix c) = true →
    (if falling then s.get TBU.pg (TBU.CAP_CFG_EDGE.ix c) / 2 = 1 else s.get TBU.pg (TBU.CAP_CFG_EDGE.ix c) % 2 = 1) →
    s.get TBU.pg (TBU.CAP_CFG_SRC.ix c) ≤ 0x15 →
    (s.get TBU.pg (TBU.CAP_CFG_SRC.ix c) = 0 → s.on TBU.pg TBU.SYNCCFG_EN = true) →
    ∃ t, exec (.capture dt c falling fine) s = .next t ∧
      t.get64 TBU.pg (TBU.CAP_STAMP_LO.ix c) = (s.now + dt) % 2 ^ 57 * 128 + fine ∧
      t.on TBU.pg (TBU.CAP_CFG_NEW.ix c) = true ∧
      t.on TBU.pg (TBU.CAP_CFG_OVR.ix c) = (s.on TBU.pg (TBU.CAP_CFG_OVR.ix c) || s.on TBU.pg (TBU.CAP_CFG_NEW.ix c)))

/-- A swap of an interpolator ends its staleness, and an output that misses its swaps is stale and flagged; SYNC groups take
the edges of `SYNC_IN`, steer their next period by them and coast when edges are missed; the pulse of `SYNC_OUT` ends; a
residual of steering that persists is flagged once. -/
def Obligations.InterpolatorsAndSynchronisation : Prop :=
  ∀ (dt : Nat) (s : State), s.dev.off = false →
    (∀ (i : Fin 100) ps, (s.advance dt).edgeNear i = false →
      ∃ t, exec (.interpolatorSwap dt i ps) s = .next t ∧ vget t.tbu.stale i = false ∧
        vget t.tbu.swapAt i = s.now + dt) ∧
    (∀ (i : Fin 100), vget s.tbu.stale i = false → vget s.tbu.swapAt i + 16 * 50000 ≤ s.now + dt →
      ∃ t, exec (.calStale dt i) s = .next t ∧ vget t.tbu.stale i = true ∧ t.on TBU.pg TBU.EVT_CAL_STALE = true) ∧
    (∀ falling (fine : Fin 128) (g : Fin 15), s.on TBU.pg TBU.SYNCCFG_EN = true → s.on TBU.pg TBU.SYNCCFG_EDGE = falling →
      s.lgRun g = true → s.lgMode g = 3 → ∀ e, e = (s.now + dt) * 128 + fine →
      ((vget s.lg g).syncRef = none →
        ∃ t, exec (.syncInEdge dt falling fine) s = .next t ∧ (vget t.lg g).syncRef = some e) ∧
      (∀ r w, (vget s.lg g).syncRef = some r → w = s.lgPeriodCfg g * s.get TBU.pg TBU.SYNCCFG_WIN / 100 →
        s.lgPeriodCfg g ≤ e - r + w → e - r ≤ s.lgPeriodCfg g + w → 400 * 128 ≤ e - r → e - r ≤ 16777215 * 128 →
        ∃ t, exec (.syncInEdge dt falling fine) s = .next t ∧ (vget t.lg g).syncRef = some e ∧
          (vget t.lg g).syncPer = some (clampInt ((s.lgPeriodCfg g : Int) - w) (s.lgPeriodCfg g + w)
            (((e - r : Nat) : Int) - nearestError (vget s.lg g) ((e : Int) + s.lgPhaseCfg g) / 8)).toNat ∧
          (s.get TBU.pg (TBU.LG_STAT_SYNC_ST.ix g) = 3 → t.get TBU.pg (TBU.LG_STAT_SYNC_ST.ix g) = 1))) ∧
    (∀ (g : Fin 15) r, s.lgMode g = 3 → s.get TBU.pg (TBU.LG_STAT_SYNC_ST.ix g) = 2 → (vget s.lg g).syncRef = some r →
      r + 2 * ((vget s.lg g).period * (100 + s.get TBU.pg TBU.SYNCCFG_WIN) / 100) ≤ (s.now + dt) * 128 →
      ∃ t, exec (.syncLost dt g) s = .next t ∧ t.get TBU.pg (TBU.LG_STAT_SYNC_ST.ix g) = 3 ∧
        t.on TBU.pg TBU.EVT_SYNC_LOST = true ∧ (vget t.lg g).syncPer = none) ∧
    (∀ b e, s.tbu.syncOut = some (b, e) → e / 128 ≤ s.now + dt →
      ∃ t, exec (.syncOutEnd dt) s = .next t ∧ t.tbu.syncOut = none ∧ t.regs = s.regs) ∧
    (∀ e, s.tbu.steerSince = some e → e + 400000 ≤ s.now + dt → s.on TBU.pg TBU.STAT_FAB_DISC = true →
      s.tbu.steerRaised = false →
      ∃ t, exec (.steerLimit dt) s = .next t ∧ t.tbu.steerRaised = true ∧ t.on TBU.pg TBU.EVT_STEER_LIMIT = true)

/-- A shadow compare register takes a write of its source, and the write to leg 2 completes the triplet; a write of any
other requester is counted in `ERRCNT.ACCESS` and changes nothing else. An update point takes the shadows at its own tick.
After the clamp, the shift of a DISC mode keeps every value within the half period and brings one of them to its end, and
the minimum-pulse rule leaves no pulse and no gap shorter than W. -/
def Obligations.ShadowComparesAndUpdatePoints : Prop :=
  (∀ (dt : Nat) (req : Req) (n : Fin 6) (leg : Fin 3) (val : W32) (s : State),
     (((s.on (TPW.pg n) TPW.CFG_CMP_SRC = true ∧ req.1 ≤ 2) ∨ (s.on (TPW.pg n) TPW.CFG_CMP_SRC = false ∧ req.1 = 7)) →
       ∃ t, exec (.tpwCmpWrite dt req n leg val) s = .next t ∧ t.get (TPW.pg n) (TPW.CMP.ix leg) = val.toNat % 2 ^ 31 ∧
         t.get (TPW.pg n) TPW.STAT_NEW = (if leg = 2 then 1 else s.get (TPW.pg n) TPW.STAT_NEW)) ∧
     (¬((s.on (TPW.pg n) TPW.CFG_CMP_SRC = true ∧ req.1 ≤ 2) ∨ (s.on (TPW.pg n) TPW.CFG_CMP_SRC = false ∧ req.1 = 7)) →
       exec (.tpwCmpWrite dt req n leg val) s = .next ((s.advance dt).incSat (TPW.pg n) HDR.ERRCNT_ACCESS))) ∧
  ((∀ dt (n : Fin 6) (s : State) f half per rest, s.dev.off = false → (vget s.tpw n).due = (f, (half, per)) :: rest →
     f / 128 = s.now + dt →
     s.on (TPW.pg n) HDR.CTRL_EN = true →
     exec (.tpwUpdatePoint dt n) s = .next (((s.advance dt).tpwSet n fun h =>
       { h with due := rest.filter fun e => decide (s.now + dt ≤ e.1 / 128) }).tpwUpdate n f half per)) ∧
   (∀ mode h a b c : Nat, 2 ≤ mode → mode ≤ 4 → a ≤ h → b ≤ h → c ≤ h →
     (∀ x ∈ [a, b, c], 0 ≤ (x : Int) + discShift mode h a b c ∧ (x : Int) + discShift mode h a b c ≤ h) ∧
     ∃ x ∈ [a, b, c], (x : Int) + discShift mode h a b c = 0 ∨ (x : Int) + discShift mode h a b c = h) ∧
   (∀ (extend : Bool) (w l c : Nat), 2 * w ≤ l → c ≤ l →
     minPulse extend w l c = 0 ∨ minPulse extend w l c = l ∨ w ≤ minPulse extend w l c ∧ minPulse extend w l c + w ≤ l))

/-- Firmware pattern requests wait for the next update point; outside DRIVE only pulse inhibit is accepted. A ball that
differs from its commanded level and a shoot-through latch on a used tri-leg, a latched tri-leg is FORCED_LOW, and both
raise FR4 for its machine; a shoot-through pulls all six pins low in the tick after its detection. FR4 on a machine: its bit
is latched, and the STO function is asserted for it at once. -/
def Obligations.TriLegPatternsFaultsAndFr4 : Prop :=
  ((∀ (dt : Nat) (req : Req) (n : Fin 6) (s : State), (vget s.tpw n).req = none →
     (s.dstate = .drive →
       (∃ t, exec (.tpwPatSwitch dt req n) s = .next t ∧ (vget t.tpw n).fw = some 0 ∧ t.regs = s.regs) ∧
       (∃ t, exec (.tpwPatPi dt req n) s = .next t ∧ (vget t.tpw n).fw = some 1 ∧ t.regs = s.regs) ∧
       (∃ t, exec (.tpwPatAscLow dt req n) s = .next t ∧ (vget t.tpw n).fw = some 2 ∧ t.regs = s.regs) ∧
       (∃ t, exec (.tpwPatAscHigh dt req n) s = .next t ∧ (vget t.tpw n).fw = some 3 ∧ t.regs = s.regs)) ∧
     (s.dstate ≠ .drive →
       (s.dstate ≠ .safeHold → ∃ t, exec (.tpwPatPi dt req n) s = .next t ∧ (vget t.tpw n).fw = some 1 ∧ t.regs = s.regs) ∧
       exec (.tpwPatSwitch dt req n) s = .next ((s.advance dt).incSat (TPW.pg n) HDR.ERRCNT_CMD) ∧
       exec (.tpwPatAscLow dt req n) s = .next ((s.advance dt).incSat (TPW.pg n) HDR.ERRCNT_CMD) ∧
       exec (.tpwPatAscHigh dt req n) s = .next ((s.advance dt).incSat (TPW.pg n) HDR.ERRCNT_CMD))) ∧
   (∀ (dt : Nat) (n ball : Fin 6) (s : State), exec (.outMismatch dt n ball) s = .next (((((s.advance dt).tpwSet n fun h =>
     { h with mis := setBits h.mis ball ball 1 }).tpwLatch n 3).tpwRefresh n).evt (TPW.pg n) TPW.EVT_OUT_MISMATCH
       |>.raise 0x204 4 (2 ^ (n.1 / 2)))) ∧
   (∀ (dt : Nat) (n : Fin 6) (leg : Fin 3) (s u : State), u = ((s.advance dt).tpwSet n fun h =>
       { h with mis := setBits h.mis (2 * leg + 1) (2 * leg) 3, fw := none }) →
     exec (.shootThrough dt n leg) s = .next (((((if s.get (TPW.pg n) TPW.PAT_ACTIVE = 4 then u
       else u.tpwPatternAt n 4 3 (u.fineNow + 128)).tpwLatch n 4).tpwRefresh n).evt (TPW.pg n) TPW.EVT_SHOOT).raise 0x205 4
         (2 ^ (n.1 / 2)))) ∧
   (∀ (n : Fin 6) (bit : Nat) (s : State),
     (vget (s.tpwLatch n bit).tpw n).latch.testBit bit = (s.tpwUsed n || (vget s.tpw n).latch.testBit bit) ∧
     ((vget s.tpw n).latch ≠ 0 → (s.tpwRefresh n).tpwIs n 4 = true))) ∧
  (∀ (s : State) (m : Fin 3), ((s.applyFr4 m).get HLO.pg HLO.STAT_FR4).testBit m = true)

/-- A Zenith scan falls on a multiple of 40,000 ticks, reads every sensor, and moves the throttle ladder by at most one
level upward and never above LMAX. -/
def Obligations.ZenithScansAndClimbsByOneLevel : Prop :=
  (∀ dt temps (s : State), s.dev.off = false → (s.now + dt) % 40000 = 0 → 0 < s.now + dt →
    ∃ t, exec (.zenithScan dt temps) s = .next t ∧ t.tmu.scans = s.tmu.scans + 1 ∧ t.on TMU.pg TMU.STAT_SCANNING = true ∧
      ∀ i : Fin 24, t.gets TMU.pg (TMU.TS_TEMP.ix i) = clampInt (-32768) 32767 (vget temps i)) ∧
  (∀ (s : State) (tmax : Int), s.get TMU.pg TMU.THRST_LEVEL ≤ s.get TMU.pg TMU.CFG_LMAX →
    (s.tmuThrottle tmax).get TMU.pg TMU.THRST_LEVEL ≤ s.get TMU.pg TMU.THRST_LEVEL + 1 ∧
    (s.tmuThrottle tmax).get TMU.pg TMU.THRST_LEVEL ≤ s.get TMU.pg TMU.CFG_LMAX)

/-- A trigger of a fast group holds its converters at once, and a trigger during a sequence is dropped and counted; 72 ticks
after a hold the slot's four results stand in their registers with the hold tick, those not ready in the list of late ones,
and a result that comes late is latched with LATE set. -/
def Obligations.FastGroupsHoldAndLatch : Prop :=
  (∀ dt (g : Fin 8) (s : State), s.dev.off = false → (s.advance dt).adfTriggered g = true →
    ((vget s.adf g).seq = none → ∃ t, exec (.adfHold dt g) s = .next t ∧
      (vget t.adf g).seq = some ⟨s.now + dt, s.on (ADF.pg g) ADF.CFG_LEN, s.get (ADF.pg g) ADF.INSEL_SEL0,
        s.get (ADF.pg g) ADF.INSEL_SEL1, 0, false⟩ ∧ (vget t.adf g).inj = none ∧ t.on (ADF.pg g) ADF.STAT_BUSY = true ∧
      t.get64 (ADF.pg g) ADF.TRIGCNT_LO = (s.get64 (ADF.pg g) ADF.TRIGCNT_LO + 1) % 2 ^ 64) ∧
    ((vget s.adf g).seq ≠ none → ∃ t, exec (.adfHold dt g) s = .next t ∧ vget t.adf g = vget s.adf g ∧
      t.on (ADF.pg g) ADF.EVT_TRIG_DROP = true)) ∧
  (∀ dt (g : Fin 8) vin (late : BitVec 4) (s : State) q, s.dev.off = false → (vget s.adf g).seq = some q → q.slot ≤ 1 →
    s.now + dt = q.t0 + 80 * q.slot + 72 →
    ∃ t, exec (.adfSlotLatch dt g vin late) s = .next t ∧ (late ≠ 0 → t.on (ADF.pg g) ADF.EVT_LATE = true) ∧
      ((vget t.adf g).seq = none ∨ ∃ q', (vget t.adf g).seq = some q' ∧
        q'.slot = if q.two = true ∧ q.slot = 0 then 1 else 2) ∧ ∀ c, c < 4 →
      if late.toNat.testBit c then ⟨q.slot, c, s.adfSlotWord g q vin c, q.t0 + 80 * q.slot⟩ ∈ (vget t.adf g).late
      else t.rd (fldAddr (ADF.pg g) ((adfRes q.slot).1.ix c)) = s.adfSlotWord g q vin c ∧
        t.rd (fldAddr (ADF.pg g) ((adfRes q.slot).2.ix c)) = BitVec.ofNat 32 (q.t0 + 80 * q.slot)) ∧
  (∀ dt (g : Fin 8) vin (s : State) q, s.dev.off = false → (vget s.adf g).seq = some q → q.slot ≤ 1 → q.cut = false →
    s.now + dt = q.t0 + 80 * q.slot + 72 → (vget s.adf g).late = [] → (q.two = false ∨ q.slot = 1) →
    ∃ t, exec (.adfSlotLatch dt g vin 0) s = .next t ∧ (vget t.adf g).seq = none ∧
      (vget t.adf g).doneAt = some (s.now + dt) ∧ t.on (ADF.pg g) ADF.STAT_BUSY = false ∧
      t.on (ADF.pg g) ADF.EVT_DONE = true) ∧
  (∀ dt (g : Fin 8) (c : Fin 4) (s : State) r, ((vget s.adf g).late.find? fun r => r.c == c.1) = some r →
    ∃ t, exec (.lateResult dt g c) s = .next t ∧
      t.rd (fldAddr (ADF.pg g) ((adfRes r.slot).1.ix c)) = r.word ||| BitVec.ofNat 32 (2 ^ 27) ∧
      t.rd (fldAddr (ADF.pg g) ((adfRes r.slot).2.ix c)) = BitVec.ofNat 32 r.hold ∧
      (vget t.adf g).late = (vget s.adf g).late.filter fun x => !(x.slot == r.slot && x.c == r.c))

/-- An injected conversion starts in the tick after its request, with the input selects of its hold, and latches 72 ticks
later, without its port or DMA; an open-wire test in an idle time records whether its input is open. -/
def Obligations.InjectedConversionsAndOpenWireTests : Prop :=
  (∀ dt req (g : Fin 8) (s : State), s.dev.off = false → s.on (ADF.pg g) HDR.CTRL_EN = true → (vget s.adf g).seq = none →
    (vget s.adf g).inj = none → (s.advance dt).adfTriggered g = false →
    (∀ h ∈ (s.advance dt).adfHolds g, h ≤ s.now + dt ∨ s.now + dt + 80 < h) →
    ∃ t, exec (.adfInjGo dt req g) s = .next t ∧
      (vget t.adf g).inj = some (s.now + dt + 1, s.get (ADF.pg g) ADF.INSEL_INJSEL) ∧ t.regs = s.regs) ∧
  (∀ dt (g : Fin 8) vin (s : State) h sel, s.dev.off = false → (vget s.adf g).inj = some (h, sel) → s.now + dt = h + 72 →
    ∃ t, exec (.adfInjLatch dt g vin) s = .next t ∧ (vget t.adf g).inj = none ∧ t.on (ADF.pg g) ADF.EVT_INJ_DONE = true ∧
      (vget t.adf g).ports = (vget s.adf g).ports ∧
      ∀ c, c < 4 → t.rd (fldAddr (ADF.pg g) (ADF.INJRES_LO.ix c)) =
        s.adfWord g c 0 (b2n (sel.testBit c)) 1 (s.refBadAt (adfRef g) h) (vin.get c) ∧
        t.rd (fldAddr (ADF.pg g) (ADF.INJRES_HI.ix c)) = BitVec.ofNat 32 h) ∧
  (∀ dt (g ix : Fin 8) vin (s : State), s.on (ADF.pg g) HDR.CTRL_EN = true → s.adfOwNext g = some ix.1 →
    (s.advance dt).adfCalm g 880 = true → (s.advance dt).since (vget s.adf g).owAt 4880 = true →
    ∃ t, exec (.adfOwTest dt g ix vin) s = .next t ∧ (vget t.adf g).owIn = ix ∧
      (vget t.adf g).owAt = some ((s.advance dt).now - 880) ∧ t.bitOn (ADF.pg g) ADF.OWSTAT_OPEN ix =
        s.openWire (s.bitOn (ADF.pg g) ADF.OW_DIR ix) (s.adcValue (4 * g + ix / 2) 1 vin))

/-- The housekeeping converters: the regular sequence starts at the trigger that its source selects and its divider passes,
the injected one in the tick after the request of the lock's owner, and an entry that ends stands in its register with its
hold tick, LATE where it was paused, before the next one starts. -/
def Obligations.HousekeepingSequencesRun : Prop :=
  ∀ (dt : Nat) (req : Req) (u : Fin 4) (s : State), s.dev.off = false →
    (s.on (ADH.pg u) HDR.CTRL_EN = true → (vget s.adh u).reg = none →
      (s.get (ADH.pg u) ADH.CFG_RSRC = 2 → (vget s.adh u).contAt = some (s.now + dt) →
        ∃ t, exec (.adhRegTrigger dt u) s = .next t ∧
          (vget t.adh u).reg = some ⟨0, s.adhLen u, s.now + dt, (vget s.adh u).inj.isSome⟩ ∧
          t.on (ADH.pg u) ADH.STAT_REG_BUSY = true) ∧
      (s.get (ADH.pg u) ADH.CFG_RSRC = 0 → (vget s.adh u).trigs % 2 ^ s.get (ADH.pg u) ADH.STAT_DIV = 0 →
        (s.advance dt).phaseHit (s.get (ADH.pg u) ADH.CFG_LG) (s.get (ADH.pg u) ADH.PHASE % 2 ^ 31) = true →
        ∃ t, exec (.adhRegTrigger dt u) s = .next t ∧
          (vget t.adh u).reg = some ⟨0, s.adhLen u, s.now + dt, (vget s.adh u).inj.isSome⟩) ∧
      (s.get (ADH.pg u) ADH.CFG_RSRC = 3 → (vget s.adh u).trigs % 2 ^ s.get (ADH.pg u) ADH.STAT_DIV = 0 →
        ∃ t, exec (.adhReggo dt req u) s = .next t ∧
          (vget t.adh u).reg = some ⟨0, s.adhLen u, s.now + dt, (vget s.adh u).inj.isSome⟩ ∧
          t.on (ADH.pg u) ADH.STAT_REG_BUSY = true)) ∧
    (s.on (ADH.pg u) HDR.CTRL_EN = true → (vget s.adh u).inj = none → s.on (ADH.pg u) HDR.OWNER_LOCKED = true →
      s.get (ADH.pg u) HDR.OWNER_ID = req →
        ∃ t, exec (.adhGo dt req u) s = .next t ∧
          (vget t.adh u).inj = some ⟨0, s.get (ADH.pg u) ADH.CTL_ILEN + 1, s.now + dt + 1, false⟩ ∧
          t.on (ADH.pg u) ADH.STAT_INJ_BUSY = true) ∧
    (¬(s.on (ADH.pg u) HDR.OWNER_LOCKED = true ∧ s.get (ADH.pg u) HDR.OWNER_ID = req) →
      exec (.adhGo dt req u) s = .next ((s.advance dt).incSat (ADH.pg u) HDR.ERRCNT_ACCESS)) ∧
    (∀ q vin, (vget s.adh u).inj = some q → q.pos < 4 → s.now + dt = q.startAt + (s.adhInjEntry u q.pos).acq + 140 →
      vget s.adhLost u = false → (vget s.adh u).cut = false →
      ∃ t, exec (.adhEntryLatch dt u vin) s = .next t ∧
        t.rd (fldAddr (ADH.pg u) (ADH.INJRES_LO.ix q.pos)) =
          (s.adhWord u (s.adhInjEntry u q.pos) vin (q.startAt + (s.adhInjEntry u q.pos).acq)).1 ∧
        t.rd (fldAddr (ADH.pg u) (ADH.INJRES_HI.ix q.pos)) = BitVec.ofNat 32 (q.startAt + (s.adhInjEntry u q.pos).acq) ∧
        (vget t.adh u).inj = if q.pos + 1 < q.len then some { q with pos := q.pos + 1, startAt := s.now + dt } else none) ∧
    (∀ q vin, (vget s.adh u).inj = none → (vget s.adh u).reg = some q → q.pos < 32 → (vget s.adh u).cut = false →
      s.now + dt = q.startAt + (s.adhReg u q.pos).acq + 140 →
      ∃ t, exec (.adhEntryLatch dt u vin) s = .next t ∧
        t.rd (fldAddr (ADH.pg u) (ADH.REGRES_LO.ix q.pos)) =
          (s.adhWord u (s.adhReg u q.pos) vin (q.startAt + (s.adhReg u q.pos).acq)).1 |||
            (if q.late then BitVec.ofNat 32 (2 ^ 27) else 0) ∧
        t.rd (fldAddr (ADH.pg u) (ADH.REGRES_HI.ix q.pos)) = BitVec.ofNat 32 (q.startAt + (s.adhReg u q.pos).acq) ∧
        (vget t.adh u).reg = if q.pos + 1 < q.len then some { q with pos := q.pos + 1, startAt := s.now + dt } else none)

/-- A reference buffer is ready 800,000 ticks after its enable; its monitor counts deviations in a row, the third of which
fails it; the sixteenth step of a calibration cycle moves the coefficients toward what the cycle found, the gain by at most
200 steps and the offset by at most 512; a window without a cycle makes a calibration older, and STALE_MAX of them stale. -/
def Obligations.ReferencesAndCalibration : Prop :=
  ∀ (dt : Nat) (s : State), s.dev.off = false →
    (∀ (b : Fin 3) r, vget s.adr.rdyAt b = some r → r + 800000 ≤ s.now + dt →
      ∃ t, exec (.refBufferReady dt b) s = .next t ∧ t.bitOn ADR.pg ADR.RSTAT_RDY b = true ∧ vget t.adr.rdyAt b = none) ∧
    (∀ (b : Fin 3) (dev : Bool), (s.now + dt) % 4000 = 0 → (dev = true → vget s.adr.mon b ≠ 2) →
      ∃ t, exec (.refMonitorCheck dt b dev) s = .next t ∧ vget t.adr.mon b = (if dev then vget s.adr.mon b + 1 else 0) ∧
        t.regs = s.regs) ∧
    (∀ (b : Fin 3), (s.now + dt) % 4000 = 0 → vget s.adr.mon b = 2 → s.bitOn ADR.pg ADR.RSTAT_MON_ERR b = false →
      ∃ u : State, u.bitOn ADR.pg ADR.RSTAT_MON_ERR b = true ∧ vget u.adr.mon b = 3 ∧ u.now = s.now + dt ∧
        exec (.refMonitorCheck dt b true) s =
          .next (if b = 2 then u.adhFault 0x302 fun _ => true else u.adfFault 0x301 fun g => g / 4 == b.1)) ∧
    (∀ (i : Fin 36) gain ofs, (s.advance dt).calIdle i = true → (vget s.adr.conv i).steps < 15 →
      ∃ t, exec (.calStep dt i gain ofs) s = .next t ∧ (vget t.adr.conv i).steps = (vget s.adr.conv i).steps + 1) ∧
    (∀ (i : Fin 36) gain ofs, (s.advance dt).calIdle i = true → (vget s.adr.conv i).steps = 15 → -50000 ≤ gain →
      gain ≤ 50000 → -16777216 ≤ ofs * 1000 → ofs * 1000 ≤ 16777216 →
      ∃ t, exec (.calStep dt i gain ofs) s = .next t ∧ (vget t.adr.conv i).cycle = true ∧ (vget t.adr.conv i).steps = 0 ∧
        (vget t.adr.conv i).ok = true ∧ (vget t.adr.conv i).stale = 0 ∧
        t.get ADR.pg (ADR.GAIN.ix i) = unsigned (ADR.GAIN.hi + 1 - ADR.GAIN.lo) (calMove (s.gets ADR.pg (ADR.GAIN.ix i)) gain 200) ∧
        t.get ADR.pg (ADR.OFS.ix i) = unsigned (ADR.OFS.hi + 1 - ADR.OFS.lo) (calMove (s.gets ADR.pg (ADR.OFS.ix i)) ofs 512)) ∧
    (s.adr.winAt + 40000000 ≤ s.now + dt →
      ∃ t, exec (.calWindowEnd dt) s = .next t ∧ t.adr.winAt = s.now + dt ∧ ∀ i : Fin 36,
        (vget t.adr.conv i).cycle = false ∧
        (vget t.adr.conv i).stale = (if (vget s.adr.conv i).cycle then 0 else (vget s.adr.conv i).stale + 1) ∧
        ((vget s.adr.conv i).cycle = false → (vget s.adr.conv i).told = false →
          (vget t.adr.conv i).ok = ((vget s.adr.conv i).ok &&
            !decide (s.get ADR.pg ADR.CALCFG_STALE_MAX ≤ (vget s.adr.conv i).stale + 1))))

/-- A trigger of a context is counted and dated, and one that is taken starts an execution at its tick; a prediction starts
one ahead of its trigger; an engine that starts it computes its result, provisionally under Updraft, and the check against
the actual samples makes it final. -/
def Obligations.ContextTriggersStartExecutions : Prop :=
  ∀ (dt : Nat) (k : Fin 256) (s : State), s.dev.off = false →
    (s.on (CTX.pg k) CTX.CFG_EN = true → (s.advance dt).ctxFires k = true → (s.ctxH k).trigAt ≠ some (s.now + dt) →
      (∃ t, exec (.ctxTrigger dt k) s = .next t ∧ (t.ctxH k).trigs = (s.ctxH k).trigs + 1 ∧
        (t.ctxH k).trigAt = some (s.now + dt)) ∧
      ((s.ctxH k).trigs % (s.get (CTX.pg k) CTX.TRIG_DIV + 1) = 0 →
        ((s.ctxH k).takes + 1) % 2 ^ s.ctxSkip (s.get (CTX.pg k) CTX.CFG_PRIO) = 0 → (s.ctxH k).exec = none →
        ∃ t e, exec (.ctxTrigger dt k) s = .next t ∧ (t.ctxH k).exec = some e ∧ e.taken = true ∧ e.trig = s.now + dt) ∧
      (∀ e, (s.ctxH k).trigs % (s.get (CTX.pg k) CTX.TRIG_DIV + 1) = 0 →
        ((s.ctxH k).takes + 1) % 2 ^ s.ctxSkip (s.get (CTX.pg k) CTX.CFG_PRIO) = 0 → (s.ctxH k).exec = some e →
        e.taken = true → ∃ t, exec (.ctxTrigger dt k) s = .next t ∧ (t.ctxH k).exec = some e ∧
          t.on CIR.pg CIR.EVT_TRIG_DROP = true ∧ t.get CIR.pg CIR.TDROP_LAST_CTX = k)) ∧
    (s.on (CTX.pg k) CTX.CFG_EN = true → s.on (CTX.pg k) CTX.CFG_UPD = true →
      (∀ e, (s.ctxH k).exec = some e → e.taken = false ∧ e.trig < s.now + dt) →
      (s.advance dt).ctxWillTake k (s.now + dt + s.get (CTX.pg k) CTX.TIME_PLEAD) = true → (s.ctxH k).enAt ≤ s.now + dt →
      (∀ b ∈ predictedBinds s.rd k (chainOf s.rd k),
        ((s.advance dt).ctxPredict k b (s.now + dt + s.get (CTX.pg k) CTX.TIME_PLEAD)).isSome = true) →
      ∃ t e, exec (.updraftPredict dt (k, false)) s = .next t ∧ (t.ctxH k).exec = some e ∧ e.taken = false ∧
        e.trig = s.now + dt + s.get (CTX.pg k) CTX.TIME_PLEAD) ∧
    (∀ e, (s.ctxH k).exec = some e → (s.advance dt).ctxStartable k e = true → (s.advance dt).ctxFirst k e = true →
      ((s.execCfg k e 28 = false ∨ e.redo = true) →
        ∃ t f, exec (.ctxExecStart dt k false) s = .next t ∧ (t.ctxH k).exec = some f ∧ f.st = .final ∧ f.out.isSome = true) ∧
      (s.execCfg k e 28 = true → e.redo = false →
        ∃ t f, exec (.ctxExecStart dt k false) s = .next t ∧ (t.ctxH k).exec = some f ∧ f.st = .prov) ∧
      exec (.ctxExecStart dt k true) s = .next ((s.advance dt).ctxEcc k)) ∧
    (∀ e, (s.ctxH k).exec = some e → e.st = .provDone → (s.advance dt).ctxReady k e = true →
      (s.advance dt).ctxFirst k e = true → (∀ g ∈ s.execEngines k e, s.bitOn CIR.pg CIR.ENGSTAT_FAILED g = false) →
      ∃ t f, exec (.updraftCheck dt k) s = .next t ∧ (t.ctxH k).exec = some f ∧ f.st = .final ∧ f.out.isSome = true ∧
        (f.class_ = 1 ∨ f.class_ = 2 ∨ f.class_ = 3)) ∧
    (∀ e differ, (s.ctxH k).exec = some e → (s.execCfg k e 27 = false ∨ e.done2 = true) →
      (∀ g ∈ s.execEngines k e, s.bitOn CIR.pg CIR.ENGSTAT_FAILED g = false) →
      s.execPreempted k e ((s.execEngines k e).take 1) = false →
      (e.st = .final → ∃ t f, exec (.ctxExecComplete dt k false differ false) s = .next t ∧ (t.ctxH k).exec = some f ∧
        f.st = .complete ∧ f.doneAt = s.now + dt ∧ f.out = e.out) ∧
      (e.st = .prov → ∃ t f, exec (.ctxExecComplete dt k false differ false) s = .next t ∧ (t.ctxH k).exec = some f ∧
        f.st = .provDone))

/-- The commit tick of an execution applies a sound result whose completion has passed the synchroniser, and nothing of a
late one: no state word of the record changes, the slack meters read −1 and LATE is flagged. The commands of `CIR_CMD`,
accepted outside SAFE_HOLD, and the failure of an engine that has carried executions for 65,536 ticks without completing
one. -/
def Obligations.CommitTicksAndCirrusCommands : Prop :=
  (∀ (dt : Nat) (k : Fin 256) (s : State) (e : Exec), s.dev.off = false → (s.ctxH k).exec = some e → e.taken = true →
     s.now + dt = e.trig + s.execLatency k e →
     (∀ o, e.out = some o → e.st = .complete → e.doneAt + 2 ≤ s.now + dt → e.spoilt = false → e.differ = false → o.bad = false →
       exec (.ctxCommit dt k) s = .next ((s.advance dt).ctxApply k e o)) ∧
     (e.st ≠ .complete ∨ s.now + dt < e.doneAt + 2 ∨ e.spoilt = true ∨ e.out = none → s.get (CTX.pg k) CTX.RUN_LATE_RUN + 1 ≠ s.get (CTX.pg k) CTX.CFG_LATE_MAX →
       ∃ t, exec (.ctxCommit dt k) s = .next t ∧ (t.ctxH k).exec = none ∧ t.gets (CTX.pg k) CTX.RUN_SLACK = -1 ∧
         t.on CIR.pg CIR.EVT_LATE = true ∧
         ∀ i, i < 64 → t.rd (fldAddr (CTX.pg k) (CTX.STATE.ix i)) = s.rd (fldAddr (CTX.pg k) (CTX.STATE.ix i)))) ∧
  (∀ (dt : Nat) (req : Req) (k : Fin 256) (s : State), s.dev.off = false →
     (s.dstate ≠ .safeHold →
       (∃ t, exec (.cirClrCnt dt req k) s = .next t ∧ t.get CIR.pg CIR.CMDSTS_LAST_STS = Status.done.code ∧
         ∀ i, i < 7 → t.rd (fldAddr (CTX.pg k) ⟨0x040 + 4 * i, 31, 0, 0⟩) = 0) ∧
       (s.on (CTX.pg k) CTX.CFG_EN = true → s.get (CTX.pg k) CTX.TRIG_SRC = 7 →
         ∃ t, exec (.cirTrig dt req k) s = .next t ∧ t.get CIR.pg CIR.CMDSTS_LAST_STS = Status.done.code ∧
           (t.ctxH k).trigs = (s.ctxH k).trigs + 1) ∧
       (s.on (CTX.pg k) CTX.CFG_EN = false →
         exec (.cirTrig dt req k) s = .next ((s.advance dt).status CIR.pg CIR.CMDSTS_LAST_STS .illegalState))) ∧
     (∀ e : Fin 8, s.bitOn CIR.pg CIR.ENGSTAT_FAILED e = false → (s.advance dt).engHangs e = true →
       ∃ t, exec (.engineStall dt e) s = .next t ∧ t.bitOn CIR.pg CIR.ENGSTAT_FAILED e = true ∧
         t.on CIR.pg CIR.EVT_ENG_STALL = true))

/-- The sources of a position unit: the resolver's loop takes a sample pair every 80 ticks and an open sine or cosine input
invalidates it; an edge of the encoder counts up or down, a double change invalidates it, and an index aligns it; an illegal
Hall code is flagged. -/
def Obligations.PositionSourcesFollowTheirSignals : Prop :=
  ∀ (dt : Nat) (n : Fin 3) (s : State), s.dev.off = false →
    (∀ sn cs, s.posOn n 0 = true → (s.now + dt) % 80 = 0 →
      ∃ t, exec (.rsvSample dt n sn cs) s = .next t ∧ (t.posH n).rsvAt = s.now + dt ∧
        (t.posH n).rsvSamples = (s.posH n).rsvSamples + 1 ∧ (t.posH n).rsvN = (s.posH n).rsvN + 1 ∧
        (t.posH n).rsvDS = (s.posH n).rsvDS + sn.toInt ∧ (t.posH n).rsvDC = (s.posH n).rsvDC + cs.toInt ∧ t.regs = s.regs) ∧
    (∀ exc dc, s.posOn n 0 = true → (s.advance dt).rsvPeriod n ≠ (s.posH n).rsvPer →
      dc = max (Config.rsvMillivolt ((s.posH n).rsvDS.natAbs / max 1 (s.posH n).rsvN))
        (Config.rsvMillivolt ((s.posH n).rsvDC.natAbs / max 1 (s.posH n).rsvN)) →
      ∃ t, exec (.rsvPeriodCheck dt n exc () () () ()) s = .next t ∧ t.get (POS.pg n) POS.RSVAMP_DC = min dc 65535 ∧
        (t.posH n).rsvPer = (s.advance dt).rsvPeriod n ∧ (t.posH n).rsvN = 0 ∧
        (t.posH n).rsvExc = (if 20 * exc < 19 * s.rsvAmplitude n ∨ 21 * s.rsvAmplitude n < 20 * exc then
          (s.posH n).rsvExc + 1 else 0) ∧
        (4 ≤ (t.posH n).rsvExc → t.posValid n 0 = false) ∧
        (s.on (POS.pg n) POS.RSV_OWEN = true → 600 < dc → t.posValid n 0 = false)) ∧
    (∀ a b e k, s.posOn n 1 = true → e = (s.advance dt).encBefore n → k = (quadPhase a b + 4 - quadPhase e.a e.b) % 4 →
      ∃ t, exec (.encEdge dt n a b) s = .next t ∧ (t.posH n).encA = a ∧ (t.posH n).encB = b ∧
        (t.posH n).encCount = (if k = 0 ∨ k = 2 then e.count
          else if (k = 1) = (s.on (POS.pg n) POS.ENC_DIR = true) then e.count - 1 else e.count + 1) ∧
        (k ≠ 2 → t.regs = s.regs) ∧
        (k = 2 → t.posValid n 1 = false ∧ t.on (POS.pg n) POS.EVT_ENC = true)) ∧
    (s.posOn n 1 = true →
      (s.posValid n 1 = false → s.on (POS.pg n) POS.ENC_ZEN = true →
        ∃ t, exec (.encIndex dt n) s = .next t ∧ (t.posH n).encCount = 0 ∧
          t.posValid n 1 = !s.bitOn (POS.pg n) POS.SRCSTAT_FAILED 1) ∧
      (∀ c, s.posValid n 1 = true → (s.posH n).encIdx = some c →
        s.get (POS.pg n) POS.ENC_ZTOL < indexError ((s.posH n).encCount - c) (4 * s.get (POS.pg n) POS.ENC_LINES) →
        ∃ t, exec (.encIndex dt n) s = .next t ∧ t.posValid n 1 = false ∧ t.on (POS.pg n) POS.EVT_ENC = true)) ∧
    (∀ r, (s.posH n).encAt = some r → r + 400000 ≤ s.now + dt →
      ∃ t, exec (.encSpeedTimeout dt n) s = .next t ∧ (t.posH n).encW = 0 ∧ t.regs = s.regs) ∧
    (∀ st, s.posOn n 2 = true →
      (st = 0#3 ∨ st = 7#3 →
        ∃ t, exec (.hallEdge dt n st) s = .next t ∧ t.posValid n 2 = false ∧ t.on (POS.pg n) POS.EVT_HALL = true) ∧
      (∀ d, sectorStep (s.posH n).hall (hallSector (s.on (POS.pg n) POS.HALL_DIR) st.toNat) = some d → st ≠ 0#3 → st ≠ 7#3 →
        ∃ t, exec (.hallEdge dt n st) s = .next t ∧
          (t.posH n).hall = hallSector (s.on (POS.pg n) POS.HALL_DIR) st.toNat ∧ (t.posH n).hallAt = some (s.now + dt) ∧
          (t.posH n).hallDir = d))

/-- A unit that acquires tracks its only valid source at the next update, one that tracks without a valid source loses its
angle, and a lost angle is extrapolated; a decided sweep ends in TRACK or costs an attempt; and the commands of `POS_CMD`
outside SAFE_HOLD. -/
def Obligations.FusionReacquisitionAndPositionCommands : Prop :=
  ∀ (dt : Nat) (req : Req) (n : Fin 3) (s : State), s.dev.off = false →
    (∀ a, (s.now + dt) % 80 = 0 → s.posState n = 1 → s.posOrder n = [a] →
      ∃ t, exec (.fusionUpdate dt n) s = .next t ∧ t.posState n = 2 ∧ t.get (POS.pg n) POS.ANG_SRC = a + 1) ∧
    ((s.now + dt) % 80 = 0 → s.posState n = 2 → s.posOrder n = [] →
      ∃ t, exec (.fusionUpdate dt n) s = .next t ∧ (t.posState n = 3 ∨ t.posState n = 4) ∧
        t.get (POS.pg n) POS.ANG_SRC = 0 ∧ t.on (POS.pg n) POS.EVT_ANGLE_LOST = true) ∧
    ((s.now + dt) % 80 = 0 → 3 ≤ s.posState n → s.posState n ≤ 5 → s.posAgain n = none →
      ∃ t, exec (.fusionUpdate dt n) s = .next t ∧ t.rd (fldAddr (POS.pg n) POS.SPD) = (s.advance dt).posExt n ∧
        (t.posH n).updAt = s.now + dt) ∧
    (∀ b r, s.posState n = 4 → (s.posH n).sweep = some b → b.evalAt = some r → s.now + dt ≤ r + 2000 →
      ∃ t, exec (.reacqDecision dt n) s = .next t ∧ (t.posH n).sweep = none ∧
        (t.posState n = 2 ∧ t.get (POS.pg n) POS.ANG_SRC = 5 ∨ t.posState n = 4)) ∧
    ((s.posState n = 3 ∨ s.posState n = 4) → (s.posH n).lossAt + 8000000 ≤ s.now + dt →
      exec (.reacqFail dt n) s = .next ((((((s.advance dt).posSet n fun h => { h with sweep := none }).incSat (POS.pg n)
        POS.CNT_REACQ_FAIL).posGo n 5).evt (POS.pg n) POS.EVT_REACQ_FAIL).raise 0x50B 4 (2 ^ n.1))) ∧
    (s.dstate ≠ .safeHold →
      (s.posState n = 5 → s.stoEff n = true →
        ∃ t, exec (.posRestart dt req n) s = .next t ∧ t.posState n = 1 ∧ t.get (POS.pg n) POS.SRCSTAT_FAILED = 0 ∧
          t.get (POS.pg n) POS.CMD_LAST_STS = Status.done.code) ∧
      (s.posState n ≠ 5 ∨ s.stoEff n = false → exec (.posRestart dt req n) s = .next ((s.advance dt).status (POS.pg n) POS.CMD_LAST_STS .illegalState)) ∧
      (s.posOn n 1 = true → 200 ≤ s.get (POS.pg n) POS.ANG_CONF →
        ∃ t, exec (.posSeedEnc dt req n) s = .next t ∧ (t.posH n).encCount = 0 ∧
          t.get (POS.pg n) POS.CMD_LAST_STS = Status.done.code) ∧
      (∃ t, exec (.posClrCnt dt req n) s = .next t ∧ t.rd (fldAddr (POS.pg n) POS.CNT) = 0 ∧
        t.get (POS.pg n) POS.CMD_LAST_STS = Status.done.code))

/-- The torque command takes its source's writes, each of which restarts its timer; a timeout in RUN is flagged; a command
pin keeps its last 16 conversions, at least 4,000 ticks apart, and the period between its rising edges. -/
def Obligations.TorqueCommandsAndTheirPins : Prop :=
  (∀ (dt : Nat) (req : Req) (m : Fin 3) (val : W32) (s : State), s.dev.off = false →
    ((s.get (MSV.pg m) MSV.CFG_TSRC = 0 ∧ req.1 ≤ 1 ∨ s.get (MSV.pg m) MSV.CFG_TSRC = 1 ∧ req.1 = 9) →
      ∃ t, exec (.msvTcmdWrite dt req m val) s = .next t ∧ t.rd (fldAddr (MSV.pg m) MSV.TCMD) = val ∧
        (t.msvH m).cmdAt = s.now + dt) ∧
    (¬(s.get (MSV.pg m) MSV.CFG_TSRC = 0 ∧ req.1 ≤ 1 ∨ s.get (MSV.pg m) MSV.CFG_TSRC = 1 ∧ req.1 = 9) →
      exec (.msvTcmdWrite dt req m val) s = .next ((s.advance dt).incSat (MSV.pg m) HDR.ERRCNT_ACCESS))) ∧
  (∀ (dt : Nat) (m : Fin 3) (s : State), s.dev.off = false → s.msvSt m = 3 → s.get (MSV.pg m) MSV.CFG_TSRC ≤ 1 →
    (s.msvH m).lost = false → (s.msvH m).cmdAt + s.get (MSV.pg m) MSV.TCMDTO_TO ≤ s.now + dt →
    (s.on (MSV.pg m) MSV.CFG_LH_AUTO = true →
      ∃ t, exec (.tcmdTimeout dt m) s = .next t ∧ (t.msvH m).lost = true ∧ t.on (MSV.pg m) MSV.EVT_CMDLOSS = true) ∧
    (s.on (MSV.pg m) MSV.CFG_LH_AUTO = false →
      exec (.tcmdTimeout dt m) s = .next (((((s.advance dt).msvSet m fun h => { h with lat606 := true }).evt (MSV.pg m)
        MSV.EVT_CMDLOSS).raise 0x606 2 (2 ^ m.1)).msvStop m))) ∧
  (∀ (dt : Nat) (pin : Fin 9) (code : BitVec 12) (s : State),
    (∀ r, (vget s.pin pin).convAt = some r → r + 4000 ≤ (s.advance dt).now) → ∃ t, exec (.lhPinSample dt pin code) s = .next t ∧
      (vget t.pin pin).codes = (code :: (vget s.pin pin).codes).take 16 ∧
      (vget t.pin pin).convAt = some (s.advance dt).now ∧ t.regs = s.regs) ∧
  (∀ (dt : Nat) (pin : Fin 9) (s : State) r f, s.dev.off = false →
    (∃ t, exec (.cmdPinEdge dt pin true) s = .next t ∧ (vget t.pin pin).fall = some (s.now + dt)) ∧
    ((vget s.pin pin).rise = some r → (vget s.pin pin).fall = some f → r ≤ f →
      ∃ t, exec (.cmdPinEdge dt pin false) s = .next t ∧ (vget t.pin pin).rise = some (s.now + dt) ∧
        (vget t.pin pin).full = some (s.now + dt - r, f - r)))

/-- The permitted direction of a machine: DIR_FWD, DIR_REV and DIR_BOTH put FWD (1), REV (2) or BOTH (3) into `MSV_STAT.DIR`
and end with DONE while the speed does not exceed W_STILL, and end with ILLEGAL_STATE at any other time (R234). In OFF and
in SAFE_HOLD no such command is accepted (R249, R18). -/
def Obligations.DirectionChangesOnlyAtStandstill : Prop :=
  ∀ (dt : Nat) (req : Req) (m : Fin 3) (s : State),
    (fle (fabs (s.posSpeed m)) (s.msvK m 7) = true → s.msvSt m ≠ 0 → s.dstate ≠ .safeHold →
      (∃ t, exec (.msvDirFwd dt req m) s = .next t ∧ t.get (MSV.pg m) MSV.STAT_DIR = 1 ∧
        t.get (MSV.pg m) MSV.CMD_LAST_STS = Status.done.code) ∧
      (∃ t, exec (.msvDirRev dt req m) s = .next t ∧ t.get (MSV.pg m) MSV.STAT_DIR = 2 ∧
        t.get (MSV.pg m) MSV.CMD_LAST_STS = Status.done.code) ∧
      (∃ t, exec (.msvDirBoth dt req m) s = .next t ∧ t.get (MSV.pg m) MSV.STAT_DIR = 3 ∧
        t.get (MSV.pg m) MSV.CMD_LAST_STS = Status.done.code)) ∧
    (fle (fabs (s.posSpeed m)) (s.msvK m 7) = false ∨ s.msvSt m = 0 ∨ s.dstate = .safeHold →
      ∀ c ∈ [Instr.msvDirFwd dt req m, .msvDirRev dt req m, .msvDirBoth dt req m], ∃ t, exec c s = .next t ∧
        t.get (MSV.pg m) MSV.CMD_LAST_STS = Status.illegalState.code ∧
        t.get (MSV.pg m) HDR.ERRCNT_CMD = min 255 (s.get (MSV.pg m) HDR.ERRCNT_CMD + 1) ∧
        t.get (MSV.pg m) MSV.STAT_DIR = s.get (MSV.pg m) MSV.STAT_DIR)

/-- The commands of a machine supervisor outside SAFE_HOLD: RUN is pending until its members switch, STOP leaves RUN, a
restore waits for its period start, and ACK clears the command and set latches. The commands of the brake chopper outside
SAFE_HOLD. -/
def Obligations.SupervisorAndChopperCommands : Prop :=
  (∀ (dt : Nat) (req : Req) (m : Fin 3) (s : State), s.dstate ≠ .safeHold →
     (s.msvSt m = 2 → s.posTrack m = true → fle (s.msvK m 24) (s.msvH m).vdc = true → (s.msvH m).lat608 = false →
       ∃ t, exec (.msvRun dt req m) s = .next t ∧ t.get (MSV.pg m) MSV.CMD_LAST_STS = 2 ∧ (t.msvH m).runPend.isSome = true) ∧
     (¬(s.msvSt m = 2 ∧ s.posTrack m = true ∧ fle (s.msvK m 24) (s.msvH m).vdc = true ∧ (s.msvH m).lat608 = false) →
       exec (.msvRun dt req m) s = .next ((s.advance dt).status (MSV.pg m) MSV.CMD_LAST_STS .illegalState)) ∧
     (s.msvSt m = 3 → ∃ t, exec (.msvStop dt req m) s = .next t ∧ t.msvSt m = 4 ∧
       t.get (MSV.pg m) MSV.CMD_LAST_STS = Status.done.code) ∧
     ((s.msvSt m = 1 ∨ s.msvSt m = 2) →
       (s.get (MSV.pg m) MSV.STAT_SET_MODE ≠ 0 → (s.msvH m).lat608 = false →
         ∃ t, exec (.msvOnesetRestore dt req m) s = .next t ∧ (t.msvH m).swapTo = some 0 ∧
           t.get (MSV.pg m) MSV.CMD_LAST_STS = Status.done.code) ∧
       ∃ t, exec (.msvAck dt req m) s = .next t ∧ (t.msvH m).lat606 = false ∧ (t.msvH m).lat607 = false ∧
         (t.msvH m).lat608 = false ∧ t.get (MSV.pg m) MSV.CMD_LAST_STS = Status.done.code) ∧
     (∃ t, exec (.msvClrCnt dt req m) s = .next t ∧ t.rd (fldAddr (MSV.pg m) MSV.CNT) = 0 ∧
       t.get (MSV.pg m) MSV.CMD_LAST_STS = Status.done.code)) ∧
  (∀ (dt : Nat) (req : Req) (s : State),
     (s.dstate = .standby → s.get BCH.pg BCH.STAT_STATE = 3 →
       ∃ t, exec (.bchAck dt req) s = .next t ∧ t.get BCH.pg BCH.STAT_STATE = 1 ∧
         t.get BCH.pg BCH.CMD_LAST_STS = Status.done.code) ∧
     (s.dstate ≠ .safeHold → (s.dstate ≠ .standby ∨ s.get BCH.pg BCH.STAT_STATE ≠ 3) →
       exec (.bchAck dt req) s = .next ((s.advance dt).status BCH.pg BCH.CMD_LAST_STS .illegalState)) ∧
     (s.dstate ≠ .safeHold → ∃ t, exec (.bchClrCnt dt req) s = .next t ∧ t.rd (fldAddr BCH.pg BCH.CNT) = 0 ∧
       t.get BCH.pg BCH.CMD_LAST_STS = Status.done.code) ∧
     (s.dstate = .safeHold → exec (.bchAck dt req) s = .next ((s.advance dt).status BCH.pg BCH.CMD_LAST_STS .illegalState)))

/-- The DC-DC controller outside SAFE_HOLD: START enters TEST under its conditions, STOP and ACK return to IDLE, the
setpoint takes only a value in its range, and the two bounded waits end in their faults. -/
def Obligations.DcdcCommandsAndBoundedWaits : Prop :=
  ∀ (dt : Nat) (req : Req) (s : State),
    (s.dstate ≠ .safeHold →
      (s.get DCD.pg DCD.STAT_STATE = 1 → s.dstate.running = true → feq (s.rd (fldAddr DCD.pg DCD.VSET)) 0 = false →
        s.dcdVinOk = true →
        ∃ t, exec (.dcdStart dt req) s = .next t ∧ t.get DCD.pg DCD.STAT_STATE = 2 ∧
          t.get DCD.pg DCD.CMD_LAST_STS = Status.done.code ∧ t.dcd.startAt = s.now + dt ∧
          t.dcd.passes = Vector.replicate 4 0) ∧
      (s.get DCD.pg DCD.STAT_STATE = 3 ∨ s.get DCD.pg DCD.STAT_STATE = 4 →
        ∃ t, exec (.dcdStop dt req) s = .next t ∧ t.get DCD.pg DCD.STAT_STATE = 1 ∧ t.dcd.stopPins = true ∧
          t.get DCD.pg DCD.CMD_LAST_STS = Status.done.code) ∧
      (s.get DCD.pg DCD.STAT_STATE = 2 →
        ∃ t, exec (.dcdStop dt req) s = .next t ∧ t.get DCD.pg DCD.STAT_STATE = 1 ∧
          t.get DCD.pg DCD.CMD_LAST_STS = Status.done.code) ∧
      (s.get DCD.pg DCD.STAT_STATE = 5 → s.dcd.cond = false → s.dcd.perBad = false →
        ∃ t, exec (.dcdAck dt req) s = .next t ∧ t.get DCD.pg DCD.STAT_STATE = 1 ∧
          t.get DCD.pg DCD.CMD_LAST_STS = Status.done.code) ∧
      (s.get DCD.pg DCD.STAT_STATE ≠ 5 ∨ s.dcd.cond = true ∨ s.dcd.perBad = true →
        exec (.dcdAck dt req) s = .next ((s.advance dt).status DCD.pg DCD.CMD_LAST_STS .illegalState)) ∧
      ∃ t, exec (.dcdClrCnt dt req) s = .next t ∧ t.rd (fldAddr DCD.pg DCD.CNT) = 0 ∧
        t.get DCD.pg DCD.CMD_LAST_STS = Status.done.code) ∧
    (∀ val, s.get DCD.pg DCD.STAT_STATE ≠ 0 →
      (fin_ val (s.dcdK 4) (s.dcdK 5) = true →
        ∃ t, exec (.dcdVsetWrite dt req val) s = .next t ∧ t.rd (fldAddr DCD.pg DCD.VSET) = val ∧
          t.rd (fldAddr DCD.pg HDR.ERRCNT) = s.rd (fldAddr DCD.pg HDR.ERRCNT)) ∧
      (fin_ val (s.dcdK 4) (s.dcdK 5) = false →
        exec (.dcdVsetWrite dt req val) s = .next ((s.advance dt).incSat DCD.pg HDR.ERRCNT_ACCESS))) ∧
    (∀ p : Fin 4, s.dev.off = false → s.get DCD.pg DCD.STAT_STATE = 2 → s.dcd.testAt + 4000000 ≤ s.now + dt →
      p.1 < s.get DCD.pg DCD.CFG_NPH + 1 → vget s.dcd.passes p < 2 →
      exec (.dcdTestTimeout dt p) s = .next ((((s.advance dt).dcdLow.dcdGo 5).evt DCD.pg DCD.EVT_FAULT).raise 0x70A 2 0)) ∧
    (s.dev.off = false → s.get DCD.pg DCD.STAT_STATE = 3 → s.dcd.startAt + ticksOf (s.dcdK 21) ≤ s.now + dt →
      exec (.softstartTo dt) s = .next ((((s.advance dt).dcdLow.dcdGo 5).evt DCD.pg DCD.EVT_FAULT).raise 0x709 2 0))

/-- The charger's inlet: pilot samples enter their sums, a window without edges ends with PWM clear, a full period gives the
duty cycle and the PWM type, three equal results report a state, proximity is decoded from the mean of 16 samples, and
frames of the battery are timed. -/
def Obligations.ChargerDecodesItsInlet : Prop :=
  (∀ (dt : Nat) (mv : Int) (s : State) (a : Nat), s.obcDecodes = true → s.obc.cpAt = some a → a + 400 ≤ (s.advance dt).now →
    (s.advance dt).now < a + 400000 →
    ((s.advance dt).now < s.obc.winAt + 400000 →
      ∃ t, exec (.cpSample dt mv none) s = .next t ∧ t.obc.cpAll = (s.obc.cpAll.1 + 16 * (mv - 900), s.obc.cpAll.2 + 1) ∧
        t.obc.cpAt = some (s.advance dt).now ∧ t.regs = s.regs) ∧
    (∀ v, s.obc.winAt + 400000 ≤ (s.advance dt).now →
      meanOf (s.obc.cpAll.1 + 16 * (mv - 900), s.obc.cpAll.2 + 1) = some v →
      ∃ t, exec (.cpSample dt mv none) s = .next t ∧ t.get OBC.pg OBC.INLET_PWM = 0 ∧ t.get OBC.pg OBC.INLET_TYPE = 0 ∧
        t.get OBC.pg OBC.INLET_DUTY = 0 ∧ t.obc.winAt = (s.advance dt).now ∧
        (s.obc.cand = pilotState false v → s.obc.candWin = true → 2 ≤ s.obc.candN →
          t.get OBC.pg OBC.INLET_CPST = pilotState false v)) ∧
    (∀ r f e, e < (s.advance dt).now → (s.advance dt).now < e + 400000 → s.obc.rise = some r → s.obc.fall = some f → r < f → f < e →
      ∃ t, exec (.cpSample dt mv (some (true, (s.advance dt).now - e))) s = .next t ∧ t.get OBC.pg OBC.INLET_PWM = 1 ∧
        t.get OBC.pg OBC.INLET_DUTY = (2000 * (f - r) + (e - r)) / (2 * (e - r)) ∧ t.obc.rise = some e)) ∧
  (∀ (dt : Nat) (mv : Int) (s : State) edge, s.obcDecodes = false →
    ∃ t, exec (.cpSample dt mv edge) s = .next t ∧ t.obc.cpAt = none ∧ t.regs = s.regs) ∧
  (∀ (dt : Nat) (vpp vdda : Int) (s : State), s.obcDecodes = true → 0 < vdda →
    sampleDue 4000 s.obc.ppAt (s.advance dt).now = true →
    (s.obc.pp.length < 15 →
      ∃ t, exec (.ppSample dt vpp vdda) s = .next t ∧ t.obc.pp = (vpp, vdda) :: s.obc.pp ∧ t.regs = s.regs) ∧
    (15 ≤ s.obc.pp.length →
      ∃ t, exec (.ppSample dt vpp vdda) s = .next t ∧ t.get OBC.pg OBC.INLET_PP =
        proxCode (sumFrac (((vpp, vdda) :: s.obc.pp).take 16)).1 (16 * (sumFrac (((vpp, vdda) :: s.obc.pp).take 16)).2))) ∧
  (∀ (dt : Nat) (req : Req) (val : W32) (s : State), s.dev.off = false →
    (req.1 ≤ 1 → (val.toNat.testBit 31 = true ∨ s.obc.dabOn = false) →
      ∃ t, exec (.obcBmsFrame dt req val) s = .next t ∧ t.on OBC.pg OBC.BMS0_CONT = val.toNat.testBit 31 ∧
        t.obc.frameCont = val.toNat.testBit 31 ∧ t.obc.bmsAt = s.now + dt ∧ t.obc.bmsOut = false ∧
        t.obc.bms1 = s.rd (fldAddr OBC.pg OBC.BMS1)) ∧
    (req.1 ≤ 1 → val.toNat.testBit 31 = false → s.obc.dabOn = true →
      ∃ u : State, exec (.obcBmsFrame dt req val) s = .next u.obcPackLost ∧ u.on OBC.pg OBC.BMS0_CONT = false ∧
        u.obc.frameCont = false ∧ u.obc.bmsAt = s.now + dt) ∧
    (2 ≤ req.1 → exec (.obcBmsFrame dt req val) s = .next ((s.advance dt).incSat OBC.pg HDR.ERRCNT_ACCESS))) ∧
  (∀ (dt : Nat) (s : State), s.dev.off = false → 2 ≤ s.get OBC.pg OBC.STAT_STATE → s.obc.bmsOut = false →
    s.obc.bmsAt + s.get OBC.pg OBC.BMSTO_TO ≤ s.now + dt →
    exec (.bmsTimeout dt) s =
      .next (((s.advance dt).obcSet fun o => { o with bmsOut := true }).obcFault 0x805 OBC.EVT_FAULT 8))

/-- The charger's session: START enters PRECHARGE under its conditions and clears the timers, the phase count and the bounds
of PRECHARGE, the timers, STOP and the bounded end of STOPPING, the PFC inhibit, and the remaining commands. -/
def Obligations.ChargerSessionCommandsAndBounds : Prop :=
  ∀ (dt : Nat) (req : Req) (s : State),
    (s.dstate ≠ .safeHold →
      (∀ dir, s.get OBC.pg OBC.STAT_STATE = 1 → s.dstate = .charge → s.obcConnected = true →
        s.get OBC.pg OBC.INLET_TYPE ≠ 0 → s.obcPilot ≠ 0 → s.obc.frameSince = true → s.obc.latched = [] →
        s.obcDirOk dir = true →
        ∃ t, exec (.obcStart dt req dir) s = .next t ∧ t.get OBC.pg OBC.STAT_STATE = 2 ∧
          t.get OBC.pg OBC.CMD_LAST_STS = Status.done.code ∧ t.obc.pcAt = (s.advance dt).now ∧ t.obc.pcStep = 1 ∧
          t.obc.dir = dir ∧ t.get64 OBC.pg OBC.ETOT_LO = 0 ∧ t.get64 OBC.pg OBC.ECC_LO = 0 ∧
          t.get64 OBC.pg OBC.ECV_LO = 0 ∧ t.get OBC.pg OBC.STAT_TMR = 0) ∧
      (s.obcRunning = true →
        ∃ t, exec (.obcStop dt req) s = .next t ∧ t.get OBC.pg OBC.STAT_STATE = 6 ∧ t.get OBC.pg OBC.STAT_CAUSE = 1 ∧
          t.obc.stopAt = (s.advance dt).now ∧ t.get OBC.pg OBC.CMD_LAST_STS = Status.done.code) ∧
      (∀ dir, 3 ≤ s.get OBC.pg OBC.STAT_STATE → s.get OBC.pg OBC.STAT_STATE ≤ 5 → s.obcDirOk dir = true →
        ∃ t, exec (.obcSetDir dt req dir) s = .next t ∧ t.obc.dirNext = dir ∧
          t.get OBC.pg OBC.CMD_LAST_STS = Status.done.code) ∧
      (s.get OBC.pg OBC.STAT_STATE = 1 →
        ∃ t, exec (.obcAck dt req) s = .next t ∧ t.obc.latched = s.obc.latched.filter (fun c => !s.obcGone c) ∧
          t.get OBC.pg OBC.CMD_LAST_STS = Status.done.code) ∧
      ∃ t, exec (.obcClrCnt dt req) s = .next t ∧ t.rd (fldAddr OBC.pg OBC.CNT) = 0 ∧
        t.get OBC.pg OBC.CMD_LAST_STS = Status.done.code) ∧
    (s.dev.off = false → s.get OBC.pg OBC.STAT_STATE = 2 → s.obc.inhibitAt = none →
      (s.obc.pcStep = 2 → s.obc.pcAt + 8000000 ≤ s.now + dt → s.obcPresent 0 = true →
        s.obcPresent 1 = s.obcPresent 2 →
        ∃ t, exec (.obcPhaseCountDone dt) s = .next t ∧ t.get OBC.pg OBC.STAT_NPH = (if s.obcPresent 1 then 3 else 1) ∧
          t.obc.pcStep = 3 ∧ t.obc.outPre = true ∧ t.obc.pcAt = s.now + dt) ∧
      (s.obc.pcStep = 2 → s.obc.pcAt + 8000000 ≤ s.now + dt → (s.obcPresent 0 = false ∨ s.obcPresent 1 ≠ s.obcPresent 2) →
        exec (.obcPhaseCountDone dt) s = .next ((s.advance dt).put OBC.pg OBC.STAT_NPH 0).obcPrechargeFail) ∧
      (s.obc.pcStep = 1 → s.obc.pcAt + s.get OBC.pg OBC.ACWAIT_TO ≤ s.now + dt →
        exec (.prechargeTo dt) s = .next (s.advance dt).obcPrechargeFail) ∧
      (s.obc.pcStep = 3 → s.obc.pcAt + s.get OBC.pg OBC.PRETO_TO ≤ s.now + dt →
        exec (.prechargeTo dt) s = .next (s.advance dt).obcPrechargeFail)) ∧
    (s.obc.inhibitAt = none → s.obcRunning = true →
      s.get64 OBC.pg OBC.TTOT_LO ≤ (s.advance dt).obcTick.get64 OBC.pg OBC.ETOT_LO →
      exec (.timerExpired dt 0) s = .next ((((s.advance dt).obcTick.put OBC.pg OBC.STAT_TMR 1).incSat OBC.pg
        OBC.CNT_TIMER).obcFault 0x804 OBC.EVT_TIMER 3)) ∧
    (s.dev.off = false → s.get OBC.pg OBC.STAT_STATE = 6 → s.obc.inhibitAt = none → s.obc.stopAt + 40000000 ≤ s.now + dt →
      ∃ t, exec (.obcStopBound dt) s = .next t ∧ t.get OBC.pg OBC.STAT_STATE = 1 ∧ t.rd (fldAddr OBC.pg OBC.IREF) = 0 ∧
        t.obc.outS2 = false ∧ t.obc.pfcOn = false ∧ t.obc.dabOn = false) ∧
    (∀ x, s.dev.off = false → s.obc.inhibitAt = some x → x ≤ s.now + dt →
      ∃ t, exec (.obcPfcInhibit dt) s = .next t ∧ t.get OBC.pg OBC.STAT_STATE = 1 ∧
        t.get OBC.pg OBC.STAT_CAUSE = s.obc.pendCause % 16 ∧ t.obc.pfcOn = false ∧ t.obc.dabOn = false)

/-- The target of an actuator channel: in RUN it comes from `ACT_TGT` with CSRC 0 and from the command pin with CSRC 1, in
SEQ from `ACT_TGT` whatever CSRC is. Only requesters 0 and 1 write `ACT_TGT`; a value outside POS_MIN to POS_MAX is clamped,
and the clamp is counted. -/
def Obligations.ActuatorTargetsComeFromTheirSource : Prop :=
  (∀ (n : Fin 6) (s : State),
    (s.actSt n = 2 → s.get (ACT.pg n) ACT.CFG_CSRC = 0 → s.actTarget n = s.rd (fldAddr (ACT.pg n) ACT.TGT)) ∧
    (∀ v, s.actSt n = 2 → s.get (ACT.pg n) ACT.CFG_CSRC = 1 → (vget s.act n).pinTgt = some v →
      (vget s.act n).safePos = false → s.actTarget n = v) ∧
    (s.actSt n = 3 → s.actTarget n = s.rd (fldAddr (ACT.pg n) ACT.TGT))) ∧
  (∀ (dt : Nat) (req : Req) (n : Fin 6) (val : W32) (s : State),
    (req.1 ≤ 1 → ∃ t, exec (.actTgtWrite dt req n val) s = .next t ∧
      t.rd (fldAddr (ACT.pg n) ACT.TGT) = fclamp val (s.actK n 9) (s.actK n 10) ∧
      t.get (ACT.pg n) ACT.CNT_CLAMPS = (if fclamp val (s.actK n 9) (s.actK n 10) = val then
        s.get (ACT.pg n) ACT.CNT_CLAMPS else min 255 (s.get (ACT.pg n) ACT.CNT_CLAMPS + 1))) ∧
    (2 ≤ req.1 → exec (.actTgtWrite dt req n val) s = .next ((s.advance dt).incSat (ACT.pg n) HDR.ERRCNT_ACCESS)))

/-- The actuator channels' inputs: shadow compares from their source, Hall sectors counted by neighbours, and the course of
a sensorless start. -/
def Obligations.ActuatorsFollowTheirInputs : Prop :=
  (∀ (dt : Nat) (req : Req) (n : Fin 6) (leg : Fin 3) (val : W32) (s : State),
    ((if s.on (ACT.pg n) ACT.CFG_CMP_SRC then req.1 ≤ 2 else req.1 = 7) →
      ∃ t, exec (.actCmpWrite dt req n leg val) s = .next t ∧ t.get (ACT.pg n) (ACT.CMP.ix leg) = val.toNat % 2 ^ 20 ∧
        t.on (ACT.pg n) ACT.STAT_NEW = (decide (leg = 2) || s.on (ACT.pg n) ACT.STAT_NEW)) ∧
    (¬(if s.on (ACT.pg n) ACT.CFG_CMP_SRC then req.1 ≤ 2 else req.1 = 7) →
      exec (.actCmpWrite dt req n leg val) s = .next ((s.advance dt).incSat (ACT.pg n) HDR.ERRCNT_ACCESS))) ∧
  (∀ (dt : Nat) (n : Fin 6) (st : BitVec 3) (s : State), s.actSt n ≠ 0 → s.actSensorless n = false → s.actBrushed n = false →
    st.toNat ≠ (vget s.act n).hall →
    (∀ d, sectorStep (s.get (ACT.pg n) ACT.STAT_SECT) (hallSector (s.on (ACT.pg n) ACT.HALL_DIR) st.toNat) = some d →
      hallSector (s.on (ACT.pg n) ACT.HALL_DIR) st.toNat ≠ 0 → s.get (ACT.pg n) ACT.STAT_SECT ≠ 0 →
      hallSector (s.on (ACT.pg n) ACT.HALL_DIR) st.toNat ≠ s.get (ACT.pg n) ACT.STAT_SECT →
      ∃ t, exec (.actHallEdge dt n st) s = .next t ∧
        t.get (ACT.pg n) ACT.STAT_SECT = hallSector (s.on (ACT.pg n) ACT.HALL_DIR) st.toNat ∧
        t.get (ACT.pg n) ACT.POS = unsigned 32 (s.gets (ACT.pg n) ACT.POS + d)) ∧
    (hallSector (s.on (ACT.pg n) ACT.HALL_DIR) st.toNat = 0 →
      exec (.actHallEdge dt n st) s = .next ((((s.advance dt).actSet n fun h => { h with hall := st.toNat }).put (ACT.pg n)
        ACT.STAT_SECT 0).actFault n 0x904 ACT.EVT_FAULT))) ∧
  (∀ (dt : Nat) (n : Fin 6) (s : State), s.dev.off = false →
    (∀ t0, (vget s.act n).bemf = .align t0 → t0 + ticksOf (fdiv (s.actK n 15) (fint 4)) ≤ s.now + dt →
      ∃ t, exec (.actAlignEnd dt n) s = .next t ∧ (vget t.act n).bemf = .forced (s.now + dt) 0 (s.now + dt) 0) ∧
    (∀ t0 k la g, (vget s.act n).bemf = .forced t0 k la g →
      (t0 + rampStep (s.actK n 14) (s.actK n 15) (k + 1) ≤ s.now + dt →
        ∃ t, exec (.actForcedCommutation dt n) s = .next t ∧ (vget t.act n).bemf = .forced t0 (k + 1) (s.now + dt) g ∧
          t.get (ACT.pg n) ACT.STAT_SECT = sectorNext (s.get (ACT.pg n) ACT.STAT_SECT) (s.actSign n)) ∧
      (5 ≤ g → 4 * (s.now + dt - la) ≤ t0 + rampStep (s.actK n 14) (s.actK n 15) (k + 1) - la →
        ∃ t, exec (.actBemfEdge dt n) s = .next t ∧ (vget t.act n).bemf = .run) ∧
      (t0 + ticksOf (s.actK n 15) ≤ s.now + dt →
        exec (.sensorlessStart dt n) s = .next ((s.advance dt).actFault n 0x90A ACT.EVT_FAULT))) ∧
    ((vget s.act n).bemf = .run →
      (∃ t, exec (.actBemfEdge dt n) s = .next t ∧ (vget t.act n).advAt = some (s.now + dt + (vget s.act n).sectIv / 2)) ∧
      ∀ x, (vget s.act n).advAt = some x → x ≤ s.now + dt →
        ∃ t, exec (.actSectorAdvance dt n) s = .next t ∧ (vget t.act n).advAt = none ∧
          t.get (ACT.pg n) ACT.STAT_SECT = sectorNext (s.get (ACT.pg n) ACT.STAT_SECT) (s.actSign n)) ∧
    (∀ x, (vget s.act n).edgeAt = some x → x + 8000000 ≤ s.now + dt →
      ∃ t, exec (.actSpeedTimeout dt n) s = .next t ∧ t.actSpeed n = 0 ∧ t.regs = s.regs))

/-- The commands of an actuator channel outside SAFE_HOLD, by its state `st` at the start of the tick in which a sequence
ended, and the bound of a sequence. -/
def Obligations.ActuatorCommandsAndSequences : Prop :=
  ∀ (dt : Nat) (req : Req) (n : Fin 6) (s : State) (st : Nat),
    (s.dstate ≠ .safeHold →
      st = (if (vget s.act n).endAt = (s.advance dt).now + 1 ∧ s.actSt n ≠ 5 then 3 else s.actSt n) →
      ((st = 1 ∨ st = 4) → s.actMayDrive n = true →
        ∃ t, exec (.actRun dt req n) s = .next t ∧ t.actSt n = 2 ∧ t.get (ACT.pg n) ACT.CMD_LAST_STS = Status.done.code ∧
          (s.actSensorless n = true → (vget t.act n).bemf = .align (s.advance dt).now ∧ t.get (ACT.pg n) ACT.STAT_SECT = 1)) ∧
      ((st = 1 ∨ st = 2 ∨ st = 4) → s.actMayDrive n = true →
        ∃ t, exec (.actSeq dt req n) s = .next t ∧ t.actSt n = 3 ∧ t.get (ACT.pg n) ACT.CMD_LAST_STS = Status.done.code ∧
          (vget t.act n).seqAt = (s.advance dt).now) ∧
      ((st = 2 ∨ st = 3) →
        ∃ t, exec (.actBrake dt req n) s = .next t ∧ t.actSt n = 4 ∧ (vget t.act n).bemf = .off ∧
          t.get (ACT.pg n) ACT.CMD_LAST_STS = Status.done.code) ∧
      ((st = 2 ∨ st = 3 ∨ st = 4) →
        ∃ t, exec (.actStop dt req n) s = .next t ∧ t.actSt n = 1 ∧ (vget t.act n).bemf = .off ∧
          t.get (ACT.pg n) ACT.CMD_LAST_STS = Status.done.code) ∧
      (st = 5 → s.actGone n = true →
        ∃ t, exec (.actAck dt req n) s = .next t ∧ t.actSt n = 1 ∧
          t.get (ACT.pg n) ACT.CMD_LAST_STS = Status.done.code) ∧
      (∃ t, exec (.actClrCnt dt req n) s = .next t ∧ t.rd (fldAddr (ACT.pg n) ACT.CNT) = 0 ∧
        t.get (ACT.pg n) ACT.CMD_LAST_STS = Status.done.code) ∧
      (st = 1 → ∃ t, exec (.actSetPos dt req n) s = .next t ∧ t.rd (fldAddr (ACT.pg n) ACT.POS) = 0 ∧
        t.get (ACT.pg n) ACT.CMD_LAST_STS = Status.done.code) ∧
      (st ≠ 1 → exec (.actSetPos dt req n) s =
        .next ((s.advance dt).status (ACT.pg n) ACT.CMD_LAST_STS .illegalState))) ∧
    (s.dev.off = false → s.actSt n = 3 → (vget s.act n).seqAt + ticksOf (s.actK n 16) ≤ s.now + dt →
      exec (.seqTimeout dt n) s = .next ((s.advance dt).actFault n 0x907 ACT.EVT_FAULT))

/-- The commit window of a lockstep pair: words enter it, equal words commit the oldest entry, and a first difference of
words, of load addresses or of lag discards the window and starts the retry. -/
def Obligations.LockstepComparesBeforeItCommits : Prop :=
  ∀ (dt : Nat) (i : Fin 3) (s : State), s.dev.off = false → (s.pairOf i).run = true →
    ((s.pairOf i).halted = false →
      (∀ w, (s.pairOf i).win.length < 8 → (s.pairOf i).haltReq = false →
        ∃ t, exec (.instructionRetire dt i .main w) s = .next t ∧
          (t.pairOf i).win = (s.pairOf i).win ++ [⟨w, s.now + dt, none⟩] ∧ t.regs = s.regs) ∧
      (∀ w k, ((s.pairOf i).win.findIdx? fun e => e.chk.isNone) = some k →
        ∃ t, exec (.instructionRetire dt i .checker w) s = .next t ∧
          (t.pairOf i).win = (s.pairOf i).win.modify k (fun e => { e with chk := some w }) ∧ t.regs = s.regs) ∧
      (∀ be a be' a' u, (s.pairOf i).win.length < 8 → u = .none ∨ u = .blind →
        (a = a' → be = be' → (s.pairOf i).loads.length ≤ (s.pairOf i).win.length →
          ∃ t, exec (.earlyCompare dt i be a be' a' u) s = .next t ∧
            (t.pairOf i).loads[(s.pairOf i).win.length]? = some (some ⟨a.toNat, be.toNat, none⟩)) ∧
        (a ≠ a' → (s.pairOf i).retry = none →
          ∃ t, exec (.earlyCompare dt i be a be' a' u) s = .next t ∧ t.get LKS.pg (LKS.PLAST_CAUSE.ix i) = 1 ∧
            t.get LKS.pg (LKS.PLAST_LANE.ix i) = 84 + firstLane 32 a.toNat a'.toNat ∧ (t.pairOf i).win = [] ∧
            (t.pairOf i).retry = some ((s.pairOf i).win.length + 1))) ∧
      (∀ age, s.get LKS.pg LKS.CFG_LAG_MAX ≤ age → (s.pairOf i).win.length < 8 → (s.pairOf i).retry = none →
        ∃ t, exec (.lagTimeout dt i (some age)) s = .next t ∧ t.get LKS.pg (LKS.PLAST_CAUSE.ix i) = 2 ∧
          (t.pairOf i).retry = some ((s.pairOf i).win.length + 1))) ∧
    (∀ e es c u, (s.pairOf i).win = e :: es → e.chk = some c → (s.pairOf i).loaded e.main = true → u = .none ∨ u = .blind → (s.pairOf i).retry = none →
      (e.main = c → lanes c 153 152 ≠ 2 →
        ∃ t, exec (.compareEntry dt i u) s = .next t ∧ (t.pairOf i).win = es ∧
          (t.pairOf i).loads = (s.pairOf i).loads.tail ∧ (t.pairOf i).pc = BitVec.ofNat 32 (lanes c 191 160) ∧ (t.pairOf i).count = (s.pairOf i).count + 1 ∧
          t.regs = s.regs) ∧
      (e.main ≠ c →
        ∃ t, exec (.compareEntry dt i u) s = .next t ∧ t.get LKS.pg (LKS.PLAST_CAUSE.ix i) = 1 ∧
          t.get LKS.pg (LKS.PLAST_LANE.ix i) = firstLane 192 e.main.toNat c.toNat ∧
          t.get LKS.pg (LKS.PLAST_OUTCOME.ix i) = 1 ∧ t.rd (fldAddr LKS.pg (LKS.PPC.ix i)) = (s.pairOf i).pc ∧
          (t.pairOf i).win = [] ∧ (t.pairOf i).pc = (s.pairOf i).pc ∧
          (t.pairOf i).retry = some (s.pairOf i).win.length)) ∧
    (∀ e es, (s.pairOf i).win = e :: es → e.chk = none → e.mainAt + s.get LKS.pg LKS.CFG_LAG_MAX ≤ s.now + dt →
      (s.pairOf i).retry = none →
      ∃ t, exec (.lagTimeout dt i none) s = .next t ∧ t.get LKS.pg (LKS.PLAST_CAUSE.ix i) = 2 ∧
        t.get LKS.pg (LKS.PLAST_LANE.ix i) = 0xFF ∧ (t.pairOf i).win = [] ∧
        (t.pairOf i).retry = some (s.pairOf i).win.length) ∧
    (∀ k l, ((s.pairOf i).loads.findIdx? fun x => match x with | some y => y.resp.isNone | none => false) = some k →
      (s.pairOf i).loads[k]? = some (some l) → (s.advance dt).bankBusy (l.addr / 4 * 4 + (enabledBytes l.be).1) = false →
      ∃ t, exec (.loadResponse dt i) s = .next t ∧ ∃ r, (t.pairOf i).loads[k]? = some (some { l with resp := some r })) ∧
    (∀ c, (s.pairOf i).halted = false → s.irqAsserted i (c.toNat % 256) = true → (s.pairOf i).fifo.length < 16 → (s.pairOf i).retry = none →
      ∃ t, exec (.asyncInputTaken dt i (.interrupt c)) s = .next t ∧
        (t.pairOf i).fifo = (s.pairOf i).fifo ++ [⟨(s.pairOf i).count + (s.pairOf i).win.length, 0, c.toNat⟩]) ∧
    ((s.pairOf i).halted = false → (s.pairOf i).fifo.length < 16 → (s.pairOf i).retry = none →
      ∃ t, exec (.asyncInputTaken dt i .timeRead) s = .next t ∧
        (t.pairOf i).fifo = (s.pairOf i).fifo ++ [⟨(s.pairOf i).count + (s.pairOf i).win.length, 3, (s.now + dt) % 2 ^ 64⟩]) ∧
    (∀ v, (s.pairOf i).halted = true → (s.pairOf i).fifo.length < 16 → (s.pairOf i).retry = none →
      ∃ t, exec (.asyncInputTaken dt i (.debugPc v)) s = .next t ∧ (t.pairOf i).pc = v)

/-- The comparators' self-tests and transient windows, the commands of LKS by HS, and the debugger's halts. -/
def Obligations.ComparatorTestsAndDebugHalts : Prop :=
  (∀ (dt : Nat) (c : Fin 4) (s : State), s.dev.off = false →
    (vget s.lks.tested c ≠ (s.now + dt) / s.testPer + 1 →
      ∃ t, exec (.comparatorProbe dt c .none) s = .next t ∧ t.get LKS.pg LKS.STCNT = (s.get LKS.pg LKS.STCNT + 1) % 2 ^ 32 ∧
        vget t.lks.tested c = (s.now + dt) / s.testPer + 1 ∧
        t.get LKS.pg (testLane c) =
          (if s.get LKS.pg (testLane c) + 1 < testLanes c then s.get LKS.pg (testLane c) + 1 else 0)) ∧
    ((s.now + dt) % s.testPer = 0 → vget s.lks.tested c < (s.now + dt) / s.testPer →
      exec (.selftestMiss dt c) s = .next ((({ s.advance dt with lks := { s.lks with
        tested := vset s.lks.tested c ((s.now + dt) / s.testPer) } } : State).putBit LKS.pg LKS.STSTAT_MISS c true).lksFault c
        LKS.EVT_ST_MISS 0xA04 5))) ∧
  (∀ (dt : Nat) (s : State) (i : Fin 3), (s.advance dt).now % 400000000 = 0 →
    ∃ t, exec (.transWindowStart dt) s = .next t ∧ t.get LKS.pg (LKS.PCNT_TRANS_WIN.ix i) = 0) ∧
  (∀ (dt : Nat) (i : Fin 3) (s : State),
    (s.haltAllowed i = true → ∃ t, exec (.debugHaltRequest dt i) s = .next t ∧
      (t.pairOf i).haltReq = ((s.pairOf i).run && !(s.pairOf i).halted) ∧ t.regs = s.regs) ∧
    (s.haltAllowed i = false → ∃ t, exec (.debugHaltRequest dt i) s = .next t ∧
      t.bitOn LKS.pg LKS.STAT_HALT_REF i = true ∧ t.lks = s.lks) ∧
    ((s.pairOf i).run = true → (s.pairOf i).haltReq = true → (s.pairOf i).step = false → (s.pairOf i).halted = false →
      (s.pairOf i).win = [] → (s.pairOf i).retry = none →
      ∃ t, exec (.debugHalted dt i) s = .next t ∧ (t.pairOf i).halted = true ∧ (t.pairOf i).haltReq = false ∧
        t.bitOn LKS.pg LKS.STAT_HALTED i = true ∧ (i = 2 → t.halo.kickAt = none)) ∧
    ((s.pairOf i).halted = true →
      (∃ t, exec (.debugStep dt i) s = .next t ∧ (t.pairOf i).halted = false ∧ (t.pairOf i).step = true ∧
        t.bitOn LKS.pg LKS.STAT_HALTED i = false) ∧
      ∃ t, exec (.debugResume dt i) s = .next t ∧ (t.pairOf i).halted = false ∧
        t.bitOn LKS.pg LKS.STAT_HALTED i = false ∧ (i = 2 → s.dstate.running = true → t.halo.kickAt = some (s.advance dt).now))) ∧
  (∀ (dt : Nat) (req : Req) (s : State), s.dstate ≠ .safeHold → req.1 = 2 →
    (∃ t, exec (.lksClrCnt dt req) s = .next t ∧ t.get LKS.pg LKS.CMD_LAST_STS = Status.done.code ∧
      ∀ i : Fin 3, t.get LKS.pg (LKS.PCNT.ix i) = 0 ∧ t.get LKS.pg (LKS.PLAST.ix i) = 0 ∧
        t.get LKS.pg (LKS.PPC.ix i) = 0 ∧ t.get64 LKS.pg (LKS.PSTAMP_LO.ix i) = 0) ∧
    ∃ t, exec (.lksProbe dt req) s = .next t ∧ t.lks.extra = Vector.replicate 4 true ∧
      t.get LKS.pg LKS.CMD_LAST_STS = Status.done.code)

/-- The STO function: releases raise path A at once and end when path B follows within 400 ticks, assertions put both paths
low and are in effect at once, and a line whose paths differ for 10 µs, or a ball that reads back wrong, raises its fault.
-/
def Obligations.StoReleasesAndAssertions : Prop :=
  ∀ (dt : Nat) (req : Req) (mask : BitVec 3) (s : State),
    (req.1 = 2 → s.dstate ≠ .safeHold →
      (s.dstate = .drive → s.hsHalted = false → (∀ m : Fin 3, mask.toNat.testBit m = true → s.stoFree m = true) →
        ∃ t, exec (.stoRelease dt req mask) s = .next t ∧ t.get STO.pg STO.CMD_LAST_STS = Status.done.code ∧
          ∀ m : Fin 3, mask.toNat.testBit m = true → t.halo.cmdSto.testBit m = false ∧ (t.stopH m).done = false ∧
            (s.stoEff m = true → t.halo.pathA.testBit m = true)) ∧
      (s.dstate ≠ .drive → exec (.stoRelease dt req mask) s =
        .next ((s.advance dt).status STO.pg STO.CMD_LAST_STS .illegalState)) ∧
      (∃ t, exec (.stoAssert dt req mask) s = .next t ∧ t.get STO.pg STO.CMD_LAST_STS = Status.done.code ∧
        ∀ m : Fin 3, mask.toNat.testBit m = true → t.stoEff m = true ∧ t.halo.pathA.testBit m = false ∧
          t.halo.pathB.testBit m = false ∧ t.halo.cmdSto.testBit m = true) ∧
      (s.dstate.running = true → s.sfiConv = false →
        ∃ t, exec (.stoConvRelease dt req) s = .next t ∧ t.halo.convCmd = false ∧ t.halo.convSfi = false ∧
          t.halo.pathA.testBit 3 = true ∧ t.get STO.pg STO.CMD_LAST_STS = Status.done.code) ∧
      ∃ t, exec (.stoConvAssert dt req) s = .next t ∧ t.halo.convCmd = true ∧ t.on STO.pg STO.STAT_CONV_EFF = true ∧
        t.halo.pathA.testBit 3 = false ∧ t.halo.pathB.testBit 3 = false ∧
        t.get STO.pg STO.CMD_LAST_STS = Status.done.code) ∧
    (req.1 ≠ 2 → exec (.stoRelease dt req mask) s = .next ((s.advance dt).incSat STO.pg HDR.ERRCNT_ACCESS)) ∧
    (∀ (l : Fin 4) x, s.halo.pathA.testBit l = true → s.halo.pathB.testBit l = false →
      vget s.halo.diffAt l = some x → (s.advance dt).now ≤ x + 400 →
      ∃ t, exec (.stoPathBRelease dt l) s = .next t ∧ t.halo.pathB.testBit l = true ∧
        (l.1 < 3 → t.stoEff l = false) ∧ (l.1 = 3 → t.on STO.pg STO.STAT_CONV_EFF = false)) ∧
    (∀ (l : Fin 4) x, s.dev.off = false → vget s.halo.diffAt l = some x → x + 4000 ≤ s.now + dt →
      exec (.stoPath dt l) s = .next (((s.advance dt).evt STO.pg STO.EVT_PATH).raise 0xB05 5 0)) ∧
    (∀ b : Fin 8, exec (.stoReadback dt b) s = .next ((({ s.advance dt with halo := { s.halo with
      stoMis := setBits s.halo.stoMis b b 1 } } : State).evt STO.pg STO.EVT_READBACK).raise 0xB04 5 0))

/-- The heartbeat lines, the watchdog of HS, and the commands of the fault manager. -/
def Obligations.HeartbeatWatchdogAndLogCommands : Prop :=
  ∀ (dt : Nat) (req : Req) (s : State),
    (∀ l : Fin 15, s.dev.off = false → s.ghbOk l = true → (vget s.halo.ghb l).endAt ≤ s.now + dt →
      ∃ t, exec (.ghbHalfPeriod dt l) s = .next t ∧ (vget t.halo.ghb l).level = !(vget s.halo.ghb l).level ∧
        (vget t.halo.ghb l).code = s.ghbCodeOf l ∧
        (vget t.halo.ghb l).endAt = s.now + dt + ghbHalf (s.ghbCodeOf l) (!(vget s.halo.ghb l).odd) ∧ t.regs = s.regs) ∧
    (∀ l : Fin 15, exec (.ghbReadback dt l) s =
      .next ((((s.advance dt).putBit GHB.pg GHB.STAT_BALLERR l true).evt GHB.pg GHB.EVT_READBACK).raise 0xB06 5 0)) ∧
    (∀ (val : W32) x, s.dev.off = false → req.1 = 2 → s.halo.kickAt = some x →
      ((val.toNat = 0xA55A ∧ x + s.get HLO.pg HLO.CFG_WD_MIN * 400 ≤ s.now + dt ∧
          s.now + dt ≤ x + s.get HLO.pg HLO.CFG_WD_MAX * 400 →
        ∃ t, exec (.watchdogKick dt req val) s = .next t ∧ t.halo.kickAt = some (s.now + dt) ∧
          t.halo.alive = !s.halo.alive ∧ t.regs = s.regs) ∧
      (¬(val.toNat = 0xA55A ∧ x + s.get HLO.pg HLO.CFG_WD_MIN * 400 ≤ s.now + dt ∧
          s.now + dt ≤ x + s.get HLO.pg HLO.CFG_WD_MAX * 400) →
        exec (.watchdogKick dt req val) s = .next (((s.advance dt).evt HLO.pg HLO.EVT_WDOG).raise 0xB0C 5 0)) ∧
      (x + s.get HLO.pg HLO.CFG_WD_MAX * 400 ≤ s.now + dt →
        exec (.watchdog dt) s = .next (((s.advance dt).evt HLO.pg HLO.EVT_WDOG).raise 0xB0C 5 0)))) ∧
    (s.dstate ≠ .safeHold → req.1 = 2 →
      (∃ t, exec (.hloClrLog dt req) s = .next t ∧ t.get HLO.pg HLO.CMD_LAST_STS = Status.done.code ∧
        t.get HLO.pg HLO.LOGPTR_NEXT = 0 ∧ t.get HLO.pg HLO.LOGPTR_TOTAL = s.get HLO.pg HLO.LOGPTR_TOTAL ∧
        ∀ i : Fin 32, t.get HLO.pg (HLO.LOG_INFO.ix i) = 0 ∧ t.get HLO.pg (HLO.LOG_AUX.ix i) = 0 ∧
          t.get64 HLO.pg (HLO.LOG_STAMP_LO.ix i) = 0) ∧
      (∃ t, exec (.hloClrFirst dt req) s = .next t ∧ t.get HLO.pg HLO.CMD_LAST_STS = Status.done.code ∧
        t.get HLO.pg HLO.FIRST_INFO = 0 ∧ t.get HLO.pg HLO.FIRST_AUX = 0 ∧ t.get64 HLO.pg HLO.FIRST_STAMP_LO = 0) ∧
      (∀ m : Fin 3,
        (s.stoEff m = true → ((s.advance dt).ackMachine m).1 = false →
          ∃ t, exec (.hloAck dt req (BitVec.ofNat 3 (2 ^ m.1))) s = .next t ∧
            t.get HLO.pg HLO.CMD_LAST_STS = Status.done.code ∧ t.bitOn HLO.pg HLO.STAT_FR3 m = false ∧
            t.bitOn HLO.pg HLO.STAT_FR4 m = false) ∧
        (s.stoEff m = true → ((s.advance dt).ackMachine m).1 = true →
          ∃ t, exec (.hloAck dt req (BitVec.ofNat 3 (2 ^ m.1))) s = .next t ∧
            t.get HLO.pg HLO.CMD_LAST_STS = Status.notReady.code) ∧
        (s.stoEff m = false → exec (.hloAck dt req (BitVec.ofNat 3 (2 ^ m.1))) s =
          .next ((s.advance dt).status HLO.pg HLO.CMD_LAST_STS .illegalState))))

/-- Safe inputs: two equal records are decided input by input, unequal ones raise 0xA08, a channel is safe after LOWN safe
samples and runs after HIGH_MS of the other level, the test lines pulse, and ACK ends a demand whose inputs run. -/
def Obligations.SafeInputsAreSampledAndTested : Prop :=
  (∀ (dt : Nat) (r1 r2 : BitVec 32) (fb : BitVec 4) (s : State), s.dev.off = false → s.dstate ≠ .off → (s.now + dt) % 400 = 0 →
    (r1 = r2 → exec (.sfiSample dt r1 r2 fb) s = .next ((List.finRange 16).foldl
        (fun (u : State) (k : Fin 16) => u.sfiInput k (r1.toNat.testBit k) (r1.toNat.testBit (16 + k)))
        ((((s.advance dt).sbcSample 0 (fb.toNat % 4)).sbcSample 1 (fb.toNat / 4)).sfiRecord r1))) ∧
    (r1 ≠ r2 → ∃ u, exec (.sfiSample dt r1 r2 fb) s = .next (State.sampleXchg u) ∧
      u = ((s.advance dt).sbcSample 0 (fb.toNat % 4)).sbcSample 1 (fb.toNat / 4))) ∧
  (∀ (s : State) (v : W32), (s.sfiRecord v).lks.lastRec = some v ∧
    (s.sfiRecord v).lks.recs = if s.lks.lastRec = some v then s.lks.recs else s.lks.recs ++ [v]) ∧
  (∀ (s : State) (k : Fin 16) (a b : Bool), s.on SFI.pg (SFI.CFG_EN.ix k) = false →
    (s.sfiInput k a b).get SFI.pg (SFI.ST.ix k) = 0 ∧ vget (s.sfiInput k a b).halo.sfi k = SfiIn.idle) ∧
  (∀ (c : SfiChan) (now lowN ms : Nat),
    ((c.sample true now lowN ms).lows = c.lows + 1 ∧
      (lowN ≤ c.lows + 1 → (c.sample true now lowN ms).st = .safe) ∧
      (c.lows + 1 < lowN → (c.sample true now lowN ms).st = c.st)) ∧
    ((c.sample false now lowN ms).lows = 0 ∧
      ∀ x, c.runSince = some x → (x + ms * 400000 ≤ now → (c.sample false now lowN ms).st = .run) ∧
        (now < x + ms * 400000 → (c.sample false now lowN ms).st = c.st))) ∧
  (∀ (dt : Nat) (j : Fin 4) (s : State), s.dev.off = false → s.dstate ≠ .off →
    (s.bitOn SFI.pg SFI.FILT_TPO_EN j = true →
      (s.now + dt) % (s.get SFI.pg SFI.TPO_PER * 400000) = j * (s.get SFI.pg SFI.TPO_PER * 400000) / 4 →
      ∃ t, exec (.tpoPulseStart dt j) s = .next t ∧ vget t.halo.tpoAt j = some (s.now + dt) ∧ t.tpoLevel j = false) ∧
    (∀ x, vget s.halo.tpoAt j = some x → vget s.halo.tpoEnd j = none →
      x + s.get SFI.pg SFI.TPO_PW * 400 ≤ s.now + dt →
      ∃ t, exec (.tpoPulseEnd dt j) s = .next t ∧ vget t.halo.tpoEnd j = some (s.now + dt) ∧ t.tpoLevel j = true)) ∧
  (∀ (dt : Nat) (req : Req) (k : Fin 16) (s : State), req.1 = 2 → s.dstate ≠ .safeHold →
    (s.on SFI.pg (SFI.CFG_EN.ix k) = true → s.sfiLatched k = false → (vget s.halo.sfi k).demand = true →
      (vget s.halo.sfi k).c1.st = .run → (vget s.halo.sfi k).c2.st = .run →
      ∃ t, exec (.sfiAck dt req k) s = .next t ∧ t.get SFI.pg SFI.CMD_LAST_STS = Status.done.code ∧
        (vget t.halo.sfi k).demand = false ∧ t.bitOn SFI.pg SFI.STAT_DEMAND k = false) ∧
    (s.on SFI.pg (SFI.CFG_EN.ix k) = false → exec (.sfiAck dt req k) s =
      .next ((s.advance dt).status SFI.pg SFI.CMD_LAST_STS .illegalState)) ∧
    ∃ t, exec (.sfiClrCnt dt req) s = .next t ∧ t.rd (fldAddr SFI.pg SFI.CNT) = 0 ∧
      t.get SFI.pg SFI.CMD_LAST_STS = Status.done.code)

/-- Stop functions and brakes: SS1 runs the stop selection, an expired window escalates, and brakes are applied, released,
tested and acknowledged. -/
def Obligations.StopFunctionsAndBrakes : Prop :=
  (∀ (dt : Nat) (req : Req) (mask : BitVec 3) (ch : BitVec 2) (s : State), req.1 = 2 → s.dstate ≠ .safeHold →
    (exec (.ssfSs1 dt req mask) s =
      .next (((s.advance dt).machines mask.toNat State.stopSelect).status SSF.pg SSF.CMD_LAST_STS .done)) ∧
    (∃ t, exec (.ssfBrakeApply dt req ch) s = .next t ∧ t.get SSF.pg SSF.CMD_LAST_STS = Status.done.code ∧
      ∀ c : Fin 2, ch.toNat.testBit c = true → t.get SSF.pg (SSF.SBCST_OUT.ix c) = 0 ∧
        t.bitOn SSF.pg SSF.STAT_RELEASED c = false) ∧
    ((∀ c : Fin 2, ch.toNat.testBit c = true → s.sbcFree c = true) →
      ∃ t, exec (.ssfBrakeRelease dt req ch) s = .next t ∧ t.get SSF.pg SSF.CMD_LAST_STS = Status.done.code ∧
        ∀ c : Fin 2, ch.toNat.testBit c = true → s.get SSF.pg (SSF.SBCST_STATE.ix c) = 0 →
          t.get SSF.pg (SSF.SBCST_OUT.ix c) = 3 ∧ t.get SSF.pg (SSF.SBCST_STATE.ix c) = 1 ∧
          t.bitOn SSF.pg SSF.STAT_RELEASED c = true) ∧
    ((∀ c : Fin 2, ch.toNat.testBit c = true → s.get SSF.pg (SSF.SBCST_STATE.ix c) = 3 ∧ (vget s.halo.sbc c).fb = 0) →
      ∃ t, exec (.ssfSbcAck dt req ch) s = .next t ∧ t.get SSF.pg SSF.CMD_LAST_STS = Status.done.code ∧
        ∀ c : Fin 2, ch.toNat.testBit c = true → t.get SSF.pg (SSF.SBCST_STATE.ix c) = 0 ∧
          t.bitOn SSF.pg SSF.STAT_SBC_FLT c = false) ∧
    ∃ t, exec (.ssfClrCnt dt req) s = .next t ∧ t.rd (fldAddr SSF.pg SSF.CNT) = 0 ∧
      t.get SSF.pg SSF.CMD_LAST_STS = Status.done.code) ∧
  (∀ (dt : Nat) (m : Fin 3) (s : State), s.dev.off = false → s.bitOn SSF.pg SSF.STAT_SS1 m = true →
    (s.stopH m).t0 + s.get SSF.pg (SSF.TIMES_T_WIN.ix m) * 400000 ≤ s.now + dt →
    exec (.ss1Timeout dt m) s = .next ((s.advance dt).escalate m 0xB08)) ∧
  (∀ (dt : Nat) (c : Fin 2) (s : State), s.dev.off = false →
    (∀ x, (vget s.halo.sbc c).applyAt = some x → x ≤ s.now + dt →
      ∃ t, exec (.sbcApplyDelay dt c) s = .next t ∧ t.get SSF.pg (SSF.SBCST_OUT.ix c) = 0 ∧
        (vget t.halo.sbc c).applyAt = none ∧ t.bitOn SSF.pg SSF.STAT_RELEASED c = false) ∧
    (s.get SSF.pg (SSF.SBCST_STATE.ix c) = 1 → 0 < s.now + dt - (vget s.halo.sbc c).relAt →
      (s.now + dt - (vget s.halo.sbc c).relAt) % (s.get SSF.pg (SSF.SBCCFG_TST_PER.ix c) * 40000000) = 0 →
      ∃ t, exec (.sbcTestStart dt c false) s = .next t ∧ t.get SSF.pg (SSF.SBCST_OUT.ix c) = 2 ∧
        t.get SSF.pg (SSF.SBCST_STATE.ix c) = 2 ∧ (vget t.halo.sbc c).test = some (false, s.now + dt)) ∧
    (s.get SSF.pg (SSF.SBCST_STATE.ix c) = 1 →
      s.get SSF.pg (SSF.SBCCFG_TST_PER.ix c) * 40000000 < s.now + dt - (vget s.halo.sbc c).relAt →
      (s.now + dt - (vget s.halo.sbc c).relAt) % (s.get SSF.pg (SSF.SBCCFG_TST_PER.ix c) * 40000000) =
        s.get SSF.pg (SSF.SBCCFG_TST_PER.ix c) * 40000000 / 2 →
      ∃ t, exec (.sbcTestStart dt c true) s = .next t ∧ t.get SSF.pg (SSF.SBCST_OUT.ix c) = 1 ∧
        t.get SSF.pg (SSF.SBCST_STATE.ix c) = 2 ∧ (vget t.halo.sbc c).test = some (true, s.now + dt)) ∧
    (∀ ls x fb1 fb2, (vget s.halo.sbc c).test = some (ls, x) →
      x + s.get SSF.pg (SSF.SBCCFG_TST_PW.ix c) * 4000 ≤ s.now + dt →
      b2n fb1 + 2 * b2n fb2 = sbcExpect (s.get SSF.pg (SSF.SBCST_OUT.ix c)) →
      ∃ t, exec (.sbcTestEnd dt c fb1 fb2) s = .next t ∧ t.get SSF.pg (SSF.SBCST_OUT.ix c) = 3 ∧
        t.get SSF.pg (SSF.SBCST_STATE.ix c) = 1 ∧ (vget t.halo.sbc c).test = none))

/-- Sessions of the safety parameters, on commands of HS outside SAFE_HOLD: OPEN compares the password and counts failures
up to a lockout, SET_PWD and CONFIRM are PENDING until their record is stored, REVERT and CLOSE, and what time ends. -/
def Obligations.SafetySessionsAndRecords : Prop :=
  (∀ (dt : Nat) (req : Req) (len : Fin 64) (s : State), req.1 = 2 → s.dstate ≠ .safeHold →
    (∀ good, (match s.scfNewest.pwd with
        | none => decide (len.1 = 0)
        | some (salt, hash) => pwdHash salt (s.scfPwd len) == hash) = good →
      s.dstate = .service → s.get SCF.pg SCF.STAT_SESSION = 0 → len.1 ≤ 32 →
      (good = true → ∃ t, exec (.scfOpen dt req len) s = .next t ∧ t.get SCF.pg SCF.STAT_SESSION = 1 ∧
        t.get SCF.pg SCF.LOCK_FAILS = 0 ∧ t.get SCF.pg SCF.LOCK_LOCKN = 0 ∧
        t.get SCF.pg SCF.CMD_LAST_STS = Status.done.code ∧ ∀ i : Fin 8, t.get SCF.pg (SCF.PWD.ix i) = 0) ∧
      (good = false → s.get SCF.pg SCF.LOCK_FAILS + 1 < s.get SCF.pg SCF.CFG_MAXTRY →
        ∃ t, exec (.scfOpen dt req len) s = .next t ∧ t.get SCF.pg SCF.STAT_SESSION = 0 ∧
          t.get SCF.pg SCF.LOCK_FAILS = s.get SCF.pg SCF.LOCK_FAILS + 1 ∧
          t.get SCF.pg SCF.CMD_LAST_STS = Status.notReady.code) ∧
      (good = false → s.get SCF.pg SCF.CFG_MAXTRY = s.get SCF.pg SCF.LOCK_FAILS + 1 → s.get SCF.pg SCF.LOCK_LOCKN < 255 →
        ∃ t, exec (.scfOpen dt req len) s = .next t ∧ t.get SCF.pg SCF.STAT_SESSION = 2 ∧
          t.get SCF.pg SCF.LOCK_FAILS = 0 ∧ t.get SCF.pg SCF.LOCK_LOCKN = s.get SCF.pg SCF.LOCK_LOCKN + 1 ∧
          t.scf.lockEnd = some (s.now + dt + min 3840 (60 * 2 ^ s.get SCF.pg SCF.LOCK_LOCKN) * 400000000))) ∧
    (s.get SCF.pg SCF.STAT_SESSION = 1 →
      (∃ t, exec (.scfClose dt req) s = .next t ∧ t.get SCF.pg SCF.STAT_SESSION = 0 ∧
        t.get SCF.pg SCF.CMD_LAST_STS = Status.done.code) ∧
      (s.noSets = true → s.scf.op = .none →
        (8 ≤ len.1 → len.1 ≤ 32 →
          ∃ t, exec (.scfSetPwd dt req len) s = .next t ∧ t.get SCF.pg SCF.CMD_LAST_STS = 2 ∧
            ∃ salt, t.scf.op = .setPwd salt (pwdHash salt (s.scfPwd len))) ∧
        (s.scfUnset = false →
          (s.on SCF.pg SCF.STAT_CHANGED = true → s.rd (fldAddr SCF.pg SCF.IMGCRC) = s.rd (fldAddr SCF.pg SCF.EXPCRC) →
            ∃ t, exec (.scfConfirm dt req) s = .next t ∧ t.get SCF.pg SCF.CMD_LAST_STS = 2 ∧ t.scf.op = .confirm) ∧
          (s.on SCF.pg SCF.STAT_CHANGED = true → s.rd (fldAddr SCF.pg SCF.IMGCRC) ≠ s.rd (fldAddr SCF.pg SCF.EXPCRC) →
            ∃ t, exec (.scfConfirm dt req) s = .next t ∧ t.get SCF.pg SCF.CMD_LAST_STS = Status.notReady.code ∧
              t.scf.op = .none) ∧
          ∃ t, exec (.scfRevert dt req) s = .next t ∧ t.get SCF.pg SCF.CMD_LAST_STS = Status.done.code ∧
            t.scf.revertAt = some (s.advance dt).now)))) ∧
  (∀ (dt : Nat) (s : State), s.dev.off = false →
    (s.scf.lockStore = true → s.fsWaits s.scf.lockAt = false →
      ∃ t, exec (.scfStoreDone dt true) s = .next t ∧ t.scf.lockStore = false ∧
        t.scfNewest.lockN = s.get SCF.pg SCF.LOCK_LOCKN) ∧
    (s.scf.lockStore = false → s.fsWaits s.scf.opAt = false →
      (∀ salt hash, s.scf.op = .setPwd salt hash →
        ∃ t, exec (.scfStoreDone dt true) s = .next t ∧ t.scfNewest.pwd = some (salt, hash) ∧
          t.on SCF.pg SCF.STAT_UNSET = false ∧ t.scf.op = .none ∧ t.get SCF.pg SCF.CMD_LAST_STS = Status.done.code) ∧
      (s.scf.op = .confirm → s.now + dt ≤ s.scf.opAt + 80000000 →
        ∃ t, exec (.scfStoreDone dt true) s = .next t ∧ t.on SCF.pg SCF.STAT_CONSIST = true ∧
          t.get SCF.pg SCF.STOCRC = imageCrc s.safeWord % 2 ^ 32 ∧
          t.get SCF.pg SCF.CMD_LAST_STS = Status.done.code)) ∧
    (∀ x, s.scf.lockEnd = some x → x ≤ s.now + dt →
      ∃ t, exec (.lockoutEnd dt) s = .next t ∧ t.get SCF.pg SCF.STAT_SESSION = 0 ∧ t.scf.lockEnd = none) ∧
    (s.get SCF.pg SCF.STAT_SESSION = 1 → s.scf.sessAt + s.get SCF.pg SCF.CFG_SESS_TO * 24000000000 ≤ s.now + dt →
      ∃ t, exec (.sessionTimeout dt) s = .next t ∧ t.get SCF.pg SCF.STAT_SESSION = 0) ∧
    (∀ x, s.scf.crcDue = some x → s.now + dt ≤ x + 400000 →
      ∃ t, exec (.imgcrcRecomputed dt) s = .next t ∧ t.scf.crcDue = none ∧
        t.get SCF.pg SCF.IMGCRC = imageCrc s.safeWord % 2 ^ 32))

/-- The change log: an entry is programmed and numbered unless a sector erase is due first, a failed one sets WFAIL, and HS
reads one entry through a copy of 400 ticks. -/
def Obligations.ChangeLogProgramsAndCopiesEntries : Prop :=
  (∀ (dt : Nat) (s : State) e es, s.scf.queue = e :: es → s.on SLG.pg SLG.STAT_FULL = false → s.fsWaits e.tick = false →
    (s.slgEraseDue = false →
      ∃ t, exec (.logProgramDone dt true) s = .next t ∧ t.scf.queue = es ∧
        t.get SLG.pg SLG.SEQ = (s.get SLG.pg SLG.SEQ + 1) % 2 ^ 32) ∧
    (s.slgEraseDue = true →
      ∃ t, exec (.logProgramDone dt true) s = .next t ∧ t.scf.queue = e :: es ∧
        t.get SLG.pg SLG.STAT_SECTOR = 1 - s.get SLG.pg SLG.STAT_SECTOR ∧ t.get SLG.pg SLG.SEQ = s.get SLG.pg SLG.SEQ) ∧
    ∃ t, exec (.logProgramDone dt false) s = .next t ∧ t.on SLG.pg SLG.STAT_WFAIL = true) ∧
  (∀ (dt : Nat) (req : Req) (val : W32) (s : State),
    (req.1 = 2 → ∃ t, exec (.slgRdseqWrite dt req val) s = .next t ∧ t.rd (fldAddr SLG.pg SLG.RDSEQ) = val ∧
      t.on SLG.pg SLG.STAT_RDBUSY = true ∧ t.scf.copyAt = some (s.advance dt).now ∧
      ∀ i : Fin 8, t.get SLG.pg (SLG.ENT.ix i) = 0) ∧
    (req.1 ≠ 2 → exec (.slgRdseqWrite dt req val) s = .next ((s.advance dt).incSat SLG.pg HDR.ERRCNT_ACCESS))) ∧
  (∀ (dt x : Nat) (s : State), s.dev.off = false → s.scf.copyAt = some x → x + 400 ≤ s.now + dt → s.fsWaits (x + 1) = false →
    ∃ t, exec (.slgCopyDone dt) s = .next t ∧ t.on SLG.pg SLG.STAT_RDBUSY = false ∧ t.scf.copyAt = none ∧
      ∀ i : Fin 8, t.get SLG.pg (SLG.ENT.ix i) =
        if s.get SLG.pg SLG.RDSEQ < s.get SLG.pg SLG.SEQ ∧
            s.get SLG.pg SLG.SEQ ≤ s.get SLG.pg SLG.RDSEQ + s.get SLG.pg SLG.CNT_HELD then
          (s.rdMem (slgAddr (s.get SLG.pg SLG.RDSEQ) + 4 * i)).toNat else 0)

/-- The arbiter and the flash: quota windows, starvation, the counters, scrubbing, and one flash operation after another
under its unlock, of which a completed one leaves its data or all ones. -/
def Obligations.ArbiterScrubberAndFlash : Prop :=
  (∀ (dt : Nat) (s : State), s.arb.winEnd ≤ (s.advance dt).now →
    ∃ t, exec (.arbWindowStart dt) s = .next t ∧ t.arb.used = [] ∧ t.arb.high = s.get ARB.pg ARB.PRIO_HIGH ∧
      t.arb.winEnd = ((s.advance dt).now / s.get ARB.pg ARB.CFG_WIN + 1) * s.get ARB.pg ARB.CFG_WIN ∧ t.regs = s.regs) ∧
  (∀ (dt bank : Nat) (req : Req) (s : State), s.dev.off = false → req.1 < 12 →
    0 < mapGet (fun _ => 0) s.arb.reqs (16 * bank + req) / 2 → s.bitOn ARB.pg ARB.STARVE_FLAG req = false →
    mapGet (fun _ => 0) s.arb.reqs (16 * bank + req) / 2 + s.get ARB.pg ARB.CFG_STARVE_THR ≤ s.now + dt + 1 →
    ∃ t, exec (.starvation dt req bank) s = .next t ∧ t.bitOn ARB.pg ARB.STARVE_FLAG req = true ∧
      t.on ARB.pg ARB.EVT_STARVE = true) ∧
  (∀ (dt : Nat) (req : Req) (s : State), s.dstate ≠ .safeHold →
    ∃ t, exec (.arbClrCnt dt req) s = .next t ∧ t.get ARB.pg ARB.CMD_LAST_STS = Status.done.code ∧
      ∀ r : Fin 12, t.get64 ARB.pg (ARB.GRANT_LO.ix r) = 0 ∧ t.get ARB.pg (ARB.WAITS.ix r) = 0 ∧
        t.get ARB.pg (ARB.LONG.ix r) = 0) ∧
  (∀ (dt : Nat) (bank : Fin 25) (s : State), s.dev.off = false → s.on ARB.pg ARB.MEM_SCRUB_EN = true →
    (vget s.arb.scrub bank).2 + s.get ARB.pg ARB.MEM_SCRUB_INTERVAL ≤ s.now + dt →
    (s.arb.reqs.all fun e => e.1 / 16 != bank.1) = true →
    (∃ t, exec (.scrubAccess dt bank .none) s = .next t ∧
      vget t.arb.scrub bank = (((vget s.arb.scrub bank).1 + 1) % 65536, s.now + dt) ∧ t.regs = s.regs) ∧
    (bank.1 = 24 → (vget s.arb.scrub bank).1 < 65536 →
      ∃ u, exec (.scrubAccess dt bank .double) s = .next (State.raise (State.incSat (State.put u ARB.pg ARB.MEM_ERRADDR
        (0x28000000 + 4 * (vget s.arb.scrub bank).1)) ARB.pg ARB.MEM_ECCCNT_SRAM_UE) 0xD03 5 0) ∧ u.regs = s.regs)) ∧
  (∀ (dt : Nat) (req : Req) (s : State), req ∈ ([0, 1, 2, 11] : List Req) →
    (s.dstate = .boot ∨ s.dstate = .standby ∨ s.dstate = .service) → (s.advance dt).unlocked ARB.pg req = true →
    s.on ARB.pg ARB.FLS_STAT_BUSY = false → 0x08000000 ≤ s.get ARB.pg ARB.FLS_ADDR_ADDR →
    s.get ARB.pg ARB.FLS_ADDR_ADDR < 0x08FC0000 →
    (∃ t, exec (.flsErase dt req) s = .next t ∧ t.on ARB.pg ARB.FLS_STAT_BUSY = true ∧
      t.arb.flash = some (.erase (s.get ARB.pg ARB.FLS_ADDR_ADDR / 0x10000 * 0x10000))) ∧
    (s.get ARB.pg ARB.FLS_ADDR_ADDR % 16 = 0 → s.erased (s.get ARB.pg ARB.FLS_ADDR_ADDR) 16 = true →
      ∃ t, exec (.flsProgram dt req) s = .next t ∧ t.on ARB.pg ARB.FLS_STAT_BUSY = true ∧
        t.arb.flash = some (.program (s.get ARB.pg ARB.FLS_ADDR_ADDR) s.flsData) ∧ t.mem = s.mem) ∧
    (s.get ARB.pg ARB.FLS_ADDR_ADDR % 16 ≠ 0 →
      ∃ t, exec (.flsProgram dt req) s = .next t ∧ t.get ARB.pg ARB.FLS_STAT_LAST = 6 ∧ t.mem = s.mem)) ∧
  (∀ (dt a : Nat) (s : State),
    (∀ w0 w1 w2 w3, s.arb.flash = some (.program a [w0, w1, w2, w3]) → (s.advance dt).now ≤ s.arb.flashAt + 8000 →
      ∃ t, exec (.flashOpDone dt true) s = .next t ∧ t.arb.flash = none ∧ t.on ARB.pg ARB.FLS_STAT_BUSY = false ∧
        t.get ARB.pg ARB.FLS_STAT_LAST = 1 ∧ t.rdMem a = w0 ∧ t.rdMem (a + 4) = w1 ∧ t.rdMem (a + 8) = w2 ∧
        t.rdMem (a + 12) = w3 ∧ ∀ b, (b < a ∨ a + 16 ≤ b) → t.rdByte b = s.rdByte b) ∧
    (s.arb.flash = some (.erase a) → (s.advance dt).now ≤ s.arb.flashAt + 24000000 →
      ∃ t, exec (.flashOpDone dt true) s = .next t ∧ t.arb.flash = none ∧ t.on ARB.pg ARB.FLS_STAT_BUSY = false ∧
        t.get ARB.pg ARB.FLS_STAT_LAST = 1 ∧
        ∀ b, t.rdByte b = if a ≤ b ∧ b < a + 0x10000 then 0xFF#8 else s.rdByte b))

/-- A check-value unit serves the holder of its lock: START loads INIT, and the enabled bytes of DIN are fed in ascending
order and counted; another requester's write is counted as a refused access. -/
def Obligations.CheckUnitsFeedTheirOwnersBytes : Prop :=
  ∀ (dt : Nat) (req : Req) (i : Fin 4) (be : BitVec 4) (val : W32) (s : State),
    (s.lockedBy (CRC.pg i) req = true →
      (s.get (CRC.pg i) CRC.CFG_FOLD ≠ 2 →
        ∃ t, exec (.crcStart dt req i) s = .next t ∧ t.on (CRC.pg i) CRC.STAT_RUNNING = true ∧
          t.get (CRC.pg i) CRC.RES_LO = s.get (CRC.pg i) CRC.INIT % 2 ^ (crcPoly (s.get (CRC.pg i) CRC.CFG_POLY)).1 ∧
          t.get (CRC.pg i) CRC.RES_HI = 0) ∧
      (s.get (CRC.pg i) CRC.CFG_FOLD = 2 →
        ∃ t, exec (.crcStart dt req i) s = .next t ∧ t.on (CRC.pg i) CRC.STAT_RUNNING = true ∧
          t.get (CRC.pg i) CRC.RES_LO = (s.get (CRC.pg i) CRC.INIT ^^^ s.get (CRC.pg i) CRC.SEQ) %
            2 ^ (crcPoly (s.get (CRC.pg i) CRC.CFG_POLY)).1) ∧
      (s.get (CRC.pg i) CRC.CFG_FOLD ≠ 1 → s.on (CRC.pg i) CRC.STAT_ABANDONED = false →
        ∃ t, exec (.crcDinWrite dt req i be val) s = .next t ∧
          t.get (CRC.pg i) CRC.RES_LO = Machine.crcFeed (crcPoly (s.get (CRC.pg i) CRC.CFG_POLY)).1
            (crcPoly (s.get (CRC.pg i) CRC.CFG_POLY)).2 (s.on (CRC.pg i) CRC.CFG_REFIN)
            (s.get (CRC.pg i) CRC.RES_LO % 2 ^ (crcPoly (s.get (CRC.pg i) CRC.CFG_POLY)).1)
            (((List.range 4).filter fun j => be.toNat.testBit j).map fun j => val.toNat / 256 ^ j % 256) % 2 ^ 32 ∧
          t.get (CRC.pg i) CRC.RES_HI =
            (s.get (CRC.pg i) CRC.RES_HI + ((List.range 4).filter fun j => be.toNat.testBit j).length) % 2 ^ 32)) ∧
    (s.lockedBy (CRC.pg i) req = false →
      exec (.crcStart dt req i) s = .next ((s.advance dt).incSat (CRC.pg i) HDR.ERRCNT_ACCESS) ∧
      exec (.crcDinWrite dt req i be val) s = .next ((s.advance dt).incSat (CRC.pg i) HDR.ERRCNT_ACCESS))

/-- The DMA channels: commands and read-pointer writes serve the owner, a PERIPH request is taken whole or counted as
missed, a record is written at WPTR and counted in FILL, and a BLOCK transfer moves its words and ends with DONE. -/
def Obligations.DmaChannelsMoveRecordsAndBlocks : Prop :=
  (∀ (dt : Nat) (req : Req) (ch : Fin 16) (val : W32) (s : State),
    (s.dstate ≠ .safeHold → s.dmaOwner ch req = true →
      (s.on DMA.pg (DMA.CH_CFG_EN.ix ch) = true → s.get DMA.pg (DMA.CH_CFG_MODE.ix ch) = 1 →
        s.on DMA.pg (DMA.CH_CHST_BUSY.ix ch) = false → s.on DMA.pg (DMA.CH_CHST_ERR.ix ch) = false →
        (vget s.dma ch).left = 0 →
        ∃ t, exec (.dmaStart dt req ch) s = .next t ∧ t.on DMA.pg (DMA.CH_CHST_BUSY.ix ch) = true ∧
          (vget t.dma ch).left = s.get DMA.pg (DMA.CH_LEN_LEN.ix ch) ∧ (vget t.dma ch).pos = 0 ∧
          t.dmaActive ch = true ∧ t.get DMA.pg DMA.CMD_LAST_STS = Status.done.code) ∧
      ∃ t, exec (.dmaStop dt req ch) s = .next t ∧ (vget t.dma ch).left = 0 ∧
        t.dmaActive ch = false ∧ t.get DMA.pg DMA.CMD_LAST_STS = Status.done.code) ∧
    (s.dstate ≠ .safeHold → s.dmaOwner ch req = false →
      exec (.dmaStart dt req ch) s = .next ((s.advance dt).incSat DMA.pg HDR.ERRCNT_ACCESS) ∧
      exec (.dmaStop dt req ch) s = .next ((s.advance dt).incSat DMA.pg HDR.ERRCNT_ACCESS)) ∧
    (s.dstate ≠ .safeHold → ∃ t, exec (.dmaClrCnt dt req ch) s = .next t ∧ t.get DMA.pg (DMA.CH_CNT_OVR.ix ch) = 0 ∧
      t.get DMA.pg (DMA.CH_CNT_MISS.ix ch) = 0 ∧ t.get DMA.pg DMA.CMD_LAST_STS = Status.done.code) ∧
    (s.dmaOwner ch req = true →
      (rptrOk (s.dmaSize ch) (s.dmaRec ch) (s.get DMA.pg (DMA.CH_RPTR_RPTR.ix ch)) (s.get DMA.pg (DMA.CH_FILL_FILL.ix ch))
          (val.toNat % 2 ^ 18) = true → (vget s.dma ch).advAt ≠ (s.advance dt).now + 1 →
        ∃ t, exec (.dmaRptrWrite dt req ch val) s = .next t ∧
          t.get DMA.pg (DMA.CH_RPTR_RPTR.ix ch) = val.toNat % 2 ^ 18 ∧
          t.get DMA.pg (DMA.CH_FILL_FILL.ix ch) = s.get DMA.pg (DMA.CH_FILL_FILL.ix ch) -
            (val.toNat % 2 ^ 18 + s.dmaSize ch - s.get DMA.pg (DMA.CH_RPTR_RPTR.ix ch)) % s.dmaSize ch) ∧
      (rptrOk (s.dmaSize ch) (s.dmaRec ch) (s.get DMA.pg (DMA.CH_RPTR_RPTR.ix ch)) (s.get DMA.pg (DMA.CH_FILL_FILL.ix ch))
          (val.toNat % 2 ^ 18) = false →
        exec (.dmaRptrWrite dt req ch val) s = .next ((s.advance dt).incSat DMA.pg HDR.ERRCNT_ACCESS)))) ∧
  (∀ (dt : Nat) (ch : Fin 16) (r : DmaReq) (s : State), (s.dmaReq.find? fun r => r.ch == ch.1) = some r →
    (s.dmaActive ch = true → s.get DMA.pg (DMA.CH_CFG_MODE.ix ch) = 0 → (vget s.dma ch).cur = none →
      (s.on DMA.pg (DMA.CH_CFG_OVR_MODE.ix ch) = false ∨
        s.get DMA.pg (DMA.CH_FILL_FILL.ix ch) + s.dmaRec ch ≤ s.dmaSize ch) →
      ∃ t, exec (.dmaPeriphRequest dt ch) s = .next t ∧ (vget t.dma ch).cur = some r.words ∧
        t.on DMA.pg (DMA.CH_CHST_BUSY.ix ch) = true ∧ t.dmaReq = s.dmaReq.erase r) ∧
    ((vget s.dma ch).cur ≠ none → exec (.dmaPeriphRequest dt ch) s =
      .next ((({ s.advance dt with dmaReq := s.dmaReq.erase r } : State).incSat DMA.pg (DMA.CH_CNT_MISS.ix ch)).dmaMiss r.src))) ∧
  (∀ (dt a : Nat) (ch : Fin 16) (ws : List W32) (s : State), s.get DMA.pg (DMA.CH_CFG_MODE.ix ch) = 0 →
    (vget s.dma ch).cur = some ws → s.dmaFirst ch = true →
    a = s.get DMA.pg (DMA.CH_BASE_BASE.ix ch) + s.get DMA.pg (DMA.CH_WPTR_WPTR.ix ch) →
    ∃ t, exec (.dmaRecordDone dt ch false) s = .next t ∧ (vget t.dma ch).cur = none ∧
      t.on DMA.pg (DMA.CH_CHST_BUSY.ix ch) = false ∧
      t.get DMA.pg (DMA.CH_WPTR_WPTR.ix ch) =
        (s.get DMA.pg (DMA.CH_WPTR_WPTR.ix ch) + s.dmaRec ch) % s.dmaSize ch % 2 ^ 18 ∧
      (∀ (k : Nat) w, k < s.dmaRec ch / 4 → ws[k]? = some w → t.rdMem (a + 4 * k) = w) ∧
      (∀ b, (b < a ∨ a + 4 * (s.dmaRec ch / 4) ≤ b) → t.rdByte b = s.rdByte b) ∧
      (s.get DMA.pg (DMA.CH_FILL_FILL.ix ch) + s.dmaRec ch ≤ s.dmaSize ch →
        t.get DMA.pg (DMA.CH_FILL_FILL.ix ch) = (s.get DMA.pg (DMA.CH_FILL_FILL.ix ch) + s.dmaRec ch) % 2 ^ 19) ∧
      (s.dmaSize ch < s.get DMA.pg (DMA.CH_FILL_FILL.ix ch) + s.dmaRec ch →
        t.on DMA.pg (DMA.CH_CHST_OVR.ix ch) = true ∧
        t.get DMA.pg (DMA.CH_RPTR_RPTR.ix ch) =
          (s.get DMA.pg (DMA.CH_RPTR_RPTR.ix ch) + s.dmaRec ch) % s.dmaSize ch % 2 ^ 18)) ∧
  (∀ (dt : Nat) (ch : Fin 16) (s : State), s.get DMA.pg (DMA.CH_CFG_MODE.ix ch) = 1 →
    (s.on DMA.pg (DMA.CH_CHST_BUSY.ix ch) = true → (vget s.dma ch).left = 0 →
      ∃ t, exec (.dmaBlockDone dt ch) s = .next t ∧ t.on DMA.pg (DMA.CH_CHST_DONE.ix ch) = true ∧
        t.on DMA.pg DMA.EVT_DONE = true ∧
        (s.on EVR.pg (EVR.ROUTE_DMA_EN.ix 7) = false → t.on DMA.pg (DMA.CH_CHST_BUSY.ix ch) = false)) ∧
    (∀ x y, s.portChannel (dmaPort ch) = some ch → (vget s.dma ch).cur = none → (vget s.dma ch).left = 1 →
      (vget s.dma ch).pos = 0 → s.get DMA.pg (DMA.CH_SRC_SRC.ix ch) = 0x20000000 + 4 * x → x < 0x180000 →
      s.get DMA.pg (DMA.CH_BASE_BASE.ix ch) = 0x20000000 + 4 * y → y < 0x180000 →
      ∃ t, exec (.dmaBlockBurst dt ch false) s = .next t ∧ (vget t.dma ch).left = 0 ∧ (vget t.dma ch).pos = 1 ∧
        t.rdMem (0x20000000 + 4 * y) = s.rdMem (0x20000000 + 4 * x) ∧
        ∀ b, (b < 0x20000000 + 4 * y ∨ 0x20000000 + 4 * y + 4 ≤ b) → t.rdByte b = s.rdByte b))

/-- The commands, pushes and pops of a CAN controller, outside SAFE_HOLD, and the changes of its state. -/
def Obligations.CanCommandsPushesAndPops : Prop :=
  ∀ (dt : Nat) (req : Req) (i : Fin 4) (s : State),
    (s.dstate ≠ .safeHold →
      (s.get (CAN.pg i) CAN.STAT_STATE = 0 → s.dstate.running = true → s.get TBU.pg TBU.STAT_SRC ≠ 0 →
        ∃ t, exec (.canStart dt req i) s = .next t ∧ (vget t.canH i).starting = true ∧
          t.get (CAN.pg i) CAN.CMD_LAST_STS = Status.done.code) ∧
      ((vget s.canH i).sending = none → ∃ t, exec (.canStop dt req i) s = .next t ∧
        t.get (CAN.pg i) CAN.STAT_STATE = 0 ∧ (vget t.canH i).starting = false ∧
        t.get (CAN.pg i) CAN.CMD_LAST_STS = Status.done.code) ∧
      ((vget s.canH i).sending ≠ none → ∃ t, exec (.canStop dt req i) s = .next t ∧ (vget t.canH i).stopping = true ∧
        t.get (CAN.pg i) CAN.STAT_STATE = s.get (CAN.pg i) CAN.STAT_STATE ∧
        t.get (CAN.pg i) CAN.CMD_LAST_STS = Status.done.code) ∧
      (s.get (CAN.pg i) CAN.STAT_STATE = 3 → ∃ t, exec (.canRecover dt req i) s = .next t ∧
        t.get (CAN.pg i) CAN.STAT_STATE = 4 ∧ t.get (CAN.pg i) CAN.CMD_LAST_STS = Status.done.code) ∧
      ((vget s.canH i).sending ≠ some .txu → ∃ t, exec (.canTxuAbort dt req i) s = .next t ∧
        (vget t.canH i).txu = none ∧ t.on (CAN.pg i) CAN.FSTAT_TXU_BUSY = false ∧
        t.get (CAN.pg i) CAN.CMD_LAST_STS = Status.done.code) ∧
      ((vget s.canH i).sending = some .txu → ∃ t, exec (.canTxuAbort dt req i) s = .next t ∧
        (vget t.canH i).txuDrop = true ∧ (vget t.canH i).txu = (vget s.canH i).txu) ∧
      (∃ t, exec (.canFlush dt req i) s = .next t ∧
        (vget t.canH i).fifo = (if (vget s.canH i).sending = some .head then (vget s.canH i).fifo.take 1 else []) ∧
        t.get (CAN.pg i) CAN.FSTAT_TX = (vget t.canH i).fifo.length ∧
        t.get (CAN.pg i) CAN.CMD_LAST_STS = Status.done.code) ∧
      ∃ t, exec (.canClrCnt dt req i) s = .next t ∧ t.rd (fldAddr (CAN.pg i) CAN.CNT) = 0 ∧
        t.get (CAN.pg i) CAN.CMD_LAST_STS = Status.done.code) ∧
    (canWriter req = true → s.on (CAN.pg i) CAN.MODE_LISTEN = false →
      ((s.canStaged i req).fdf = true ∨ (s.canStaged i req).dlc.1 ≤ 8) →
      ((vget s.canH i).fifo.length < 16 → ∃ t, exec (.canPushFifo dt req i) s = .next t ∧
        (vget t.canH i).fifo = (vget s.canH i).fifo ++ [s.canStaged i req] ∧
        t.get (CAN.pg i) CAN.FSTAT_TX = (vget s.canH i).fifo.length + 1) ∧
      (16 ≤ (vget s.canH i).fifo.length → exec (.canPushFifo dt req i) s =
        .next (((s.advance dt).incSat (CAN.pg i) CAN.CNT_TXFULL).incSat (CAN.pg i) HDR.ERRCNT_ACCESS)) ∧
      ((vget s.canH i).txu = none → ∃ t, exec (.canPushTxu dt req i) s = .next t ∧
        (vget t.canH i).txu = some (s.canStaged i req) ∧ t.on (CAN.pg i) CAN.FSTAT_TXU_BUSY = true)) ∧
    (canWriter req = false →
      exec (.canPushFifo dt req i) s = .next ((s.advance dt).incSat (CAN.pg i) HDR.ERRCNT_ACCESS) ∧
      exec (.canPushTxu dt req i) s = .next ((s.advance dt).incSat (CAN.pg i) HDR.ERRCNT_ACCESS)) ∧
    (∀ e es, ((vget s.canH i).rx = e :: es → ∃ t, exec (.canRxpop dt req i) s = .next t ∧ (vget t.canH i).rx = es ∧
        t.get (CAN.pg i) CAN.FSTAT_RX = es.length % 64) ∧
      ((vget s.canH i).hp = e :: es → ∃ t, exec (.canHppop dt req i) s = .next t ∧ (vget t.canH i).hp = es ∧
        t.get (CAN.pg i) CAN.FSTAT_HP = es.length % 8)) ∧
    ((vget s.canH i).rx = [] → exec (.canRxpop dt req i) s = .next ((s.advance dt).incSat (CAN.pg i) HDR.ERRCNT_ACCESS)) ∧
    (s.get (CAN.pg i) CAN.STAT_STATE = 0 → (vget s.canH i).starting = true → s.get (CAN.pg i) CAN.ECNT_TEC ≤ 127 →
      s.get (CAN.pg i) CAN.ECNT_REC ≤ 127 →
      ∃ t, exec (.canIdleDetect dt i) s = .next t ∧ t.get (CAN.pg i) CAN.STAT_STATE = 1 ∧
        (vget t.canH i).starting = false) ∧
    (s.get (CAN.pg i) CAN.STAT_STATE = 4 →
      ∃ t, exec (.canRecoveryDone dt i) s = .next t ∧ t.get (CAN.pg i) CAN.STAT_STATE = 1 ∧
        t.get (CAN.pg i) CAN.ECNT_TEC = 0 ∧ t.get (CAN.pg i) CAN.ECNT_REC = 0)

/-- The traffic of a live CAN controller: a frame start takes the stamp and offers TXU before the FIFO head, a sent frame
leaves its place with its stamp, a received one passes the filters into its queue, and errors move the counters and the
state. -/
def Obligations.CanFramesAndErrors : Prop :=
  ∀ (dt : Nat) (i : Fin 4) (s : State), s.canLive i = true →
    (∃ t, exec (.canStartOfFrame dt i) s = .next t ∧ (vget t.canH i).sofAt = (s.advance dt).now ∧ t.regs = s.regs ∧
      (vget t.canH i).sending = (if s.on (CAN.pg i) CAN.MODE_LISTEN then none
        else if (vget s.canH i).txu.isSome then some .txu
        else if (vget s.canH i).fifo ≠ [] then some .head else none)) ∧
    (∀ f fs tdc, (vget s.canH i).sending = some .head → (vget s.canH i).fifo = f :: fs →
      (f.fdf = false ∨ s.on (CAN.pg i) CAN.MODE_FD = true) →
      ∃ t, exec (.canTxDone dt i tdc) s = .next t ∧ (vget t.canH i).fifo = fs ∧ (vget t.canH i).sending = none ∧
        t.get64 (CAN.pg i) CAN.TXSTAMP_LO = (vget s.canH i).sofAt % 2 ^ 64) ∧
    (∀ f tdc, (vget s.canH i).sending = some .txu → (vget s.canH i).txu = some f →
      (f.fdf = false ∨ s.on (CAN.pg i) CAN.MODE_FD = true) →
      ∃ t, exec (.canTxDone dt i tdc) s = .next t ∧ (vget t.canH i).txu = none ∧ (vget t.canH i).sending = none ∧
        t.get64 (CAN.pg i) CAN.TXSTAMP_LO = (vget s.canH i).sofAt % 2 ^ 64) ∧
    (∀ f, (f.fdf = false ∨ s.on (CAN.pg i) CAN.MODE_FD = true) → f.rtr = false →
      (canTarget (vget s.canH i).filt (s.get (CAN.pg i) CAN.MODE_DEFAULT) f = 1 → (vget s.canH i).rx.length < 32 →
        ∃ t, exec (.canRxFrame dt i f) s = .next t ∧
          (vget t.canH i).rx = (vget s.canH i).rx ++ [(f, (vget s.canH i).sofAt)]) ∧
      (canTarget (vget s.canH i).filt (s.get (CAN.pg i) CAN.MODE_DEFAULT) f = 2 → (vget s.canH i).hp.length < 4 →
        ∃ t, exec (.canRxFrame dt i f) s = .next t ∧
          (vget t.canH i).hp = (vget s.canH i).hp ++ [(f, (vget s.canH i).sofAt)]) ∧
      (canTarget (vget s.canH i).filt (s.get (CAN.pg i) CAN.MODE_DEFAULT) f = 0 →
        ∃ t, exec (.canRxFrame dt i f) s = .next t ∧ (vget t.canH i).rx = (vget s.canH i).rx ∧
          (vget t.canH i).hp = (vget s.canH i).hp)) ∧
    (s.on (CAN.pg i) CAN.MODE_LISTEN = false → (vget s.canH i).stopping = false →
      (∃ t, exec (.canError dt i .tx) s = .next t ∧
        t.get (CAN.pg i) CAN.ECNT_TEC = min 511 (s.get (CAN.pg i) CAN.ECNT_TEC + 8) ∧
        t.get (CAN.pg i) CAN.ECNT_REC = s.get (CAN.pg i) CAN.ECNT_REC ∧
        (255 < s.get (CAN.pg i) CAN.ECNT_TEC + 8 →
          t.get (CAN.pg i) CAN.STAT_STATE = if s.on (CAN.pg i) CAN.MODE_AUTO_REC then 4 else 3) ∧
        (127 < s.get (CAN.pg i) CAN.ECNT_TEC + 8 → s.get (CAN.pg i) CAN.ECNT_TEC + 8 ≤ 255 →
          t.get (CAN.pg i) CAN.STAT_STATE = 2)) ∧
      (∃ t, exec (.canError dt i .rx) s = .next t ∧
        t.get (CAN.pg i) CAN.ECNT_REC = min 255 (s.get (CAN.pg i) CAN.ECNT_REC + 1)) ∧
      ∃ t, exec (.canError dt i .rxFlag) s = .next t ∧
        t.get (CAN.pg i) CAN.ECNT_REC = min 255 (s.get (CAN.pg i) CAN.ECNT_REC + 8)) ∧
    (s.dev.off = false → (vget s.canH i).fifo ≠ [] → (vget s.canH i).headRaised = false →
      (vget s.canH i).headAt + s.get (CAN.pg i) CAN.TXCFG_HEAD_AGE ≤ s.now + dt →
      ∃ t, exec (.headAge dt i) s = .next t ∧ (vget t.canH i).headRaised = true ∧
        t.on (CAN.pg i) CAN.EVT_HEAD_AGE = true)

/-- The ports of Clepo train, degrade and go down, its commands outside SAFE_HOLD take effect, and HELLO, ASSIGN and
path-delay frames are sent and taken. -/
def Obligations.ClepoPortsAndDiscovery : Prop :=
  (∀ (dt : Nat) (p : Fin 2) (s : State), s.dev.off = false →
    (s.clfState ≠ 0 → s.link p = 0 → s.bitOn CLF.pg CLF.CFG_PORT_EN p = true →
      ∃ t, exec (.clfSignalDetect dt p) s = .next t ∧ t.link p = 1 ∧ (vget t.clf.ports p).trainAt = s.now + dt) ∧
    (s.link p = 1 →
      (s.now + dt ≤ (vget s.clf.ports p).trainAt + 40000 →
        ∃ t, exec (.clfTrainDone dt p) s = .next t ∧ t.link p = 2 ∧
          t.clfState = if s.clfState = 1 then 2 else s.clfState) ∧
      ((vget s.clf.ports p).trainAt + 40000 ≤ s.now + dt →
        (∃ t, exec (.clfTrainTimeout dt p true) s = .next t ∧ t.link p = 3) ∧
        ∃ t, exec (.clfTrainTimeout dt p false) s = .next t ∧ t.link p = 1 ∧
          (vget t.clf.ports p).trainAt = s.now + dt)) ∧
    (s.link p = 2 → ∃ t, exec (.clfLaneFault dt p false) s = .next t ∧ t.link p = 3 ∧ t.on CLF.pg CLF.EVT_LINK = true) ∧
    (s.portUp p = true → ∃ t, exec (.clfLaneFault dt p true) s = .next t ∧ t.link p = 0 ∧
      (vget t.clf.ports p).delays = [])) ∧
  (∀ (dt : Nat) (req : Req) (p : Fin 2) (s : State), s.dstate ≠ .safeHold →
    (2 ≤ s.clfState → ∃ t, exec (.clfRescan dt req) s = .next t ∧ t.on CLF.pg CLF.TOPO_VALID = false ∧
      t.clf.idHeld = false ∧ t.get CLF.pg CLF.CMD_LAST_STS = Status.done.code) ∧
    (s.link p = 3 → (vget s.clf.ports p).busyTo ≤ (s.advance dt).now →
      ∃ t, exec (.clfRetrain dt req (BitVec.ofNat 2 (2 ^ p.1))) s = .next t ∧ t.link p = 1 ∧
        (vget t.clf.ports p).trainAt = (s.advance dt).now ∧ t.get CLF.pg CLF.CMD_LAST_STS = Status.done.code) ∧
    (s.link p ≠ 3 → exec (.clfRetrain dt req (BitVec.ofNat 2 (2 ^ p.1))) s =
      .next ((s.advance dt).status CLF.pg CLF.CMD_LAST_STS .illegalState)) ∧
    ∃ t, exec (.clfClrCnt dt req) s = .next t ∧ t.get CLF.pg CLF.CNT0 = 0 ∧ t.get CLF.pg CLF.CNT1 = 0 ∧
      t.get CLF.pg CLF.CMD_LAST_STS = Status.done.code) ∧
  (∀ (dt : Nat) (p : Fin 2) (fine : Fin 128) (s : State), s.dev.off = false → 2 ≤ s.clfState → s.portUp p = true →
    (s.clf.helloAt + 40000 ≤ s.now + dt → (s.advance dt).openWindow = true →
      ∃ t, exec (.clfHelloSend dt false) s = .next t ∧ t.clf.helloAt = s.now + dt ∧
        (vget t.clf.ports p).sent = some (s.unicast 4)) ∧
    (∀ h, ∃ t, exec (.clfHelloRx dt p h false) s = .next t ∧
      t.clf.best = betterRoot (betterRoot s.clf.best h.rootPri h.devId) h.bestPri h.bestId) ∧
    (∀ h b, betterRoot (betterRoot s.clf.best h.rootPri h.devId) h.bestPri h.bestId = some b → b.2 ≠ s.deviceId →
      ∃ t, exec (.clfHelloRx dt p h true) s = .next t ∧ t.on CLF.pg CLF.TOPO_VALID = true ∧
        t.get CLF.pg CLF.TOPO_NODES = (h.nodes - 1) % 64 ∧ t.get CLF.pg CLF.TOPO_ROOT = h.rootId % 64 ∧
        t.get CLF.pg CLF.TOPO_HOPS = h.hops % 64) ∧
    (∀ id n hops, s.on CLF.pg CLF.CFG_IDMODE = false → s.clf.idHeld = false → id < 64 → 0 < n → n ≤ 64 →
      ∃ t, exec (.clfAssignRx dt p id n hops) s = .next t ∧ t.get CLF.pg CLF.TOPO_ID = id ∧
        t.get CLF.pg CLF.TOPO_NODES = n - 1 ∧ t.clf.idHeld = true ∧ (s.clfState = 2 → t.clfState = if s.on TBU.pg TBU.STAT_FAB_VALID then 4 else 3)) ∧
    ((∀ r, (vget s.clf.ports p).pdAt = some r → r + s.get CLF.pg CLF.TIME_PD_PER * s.get CLF.pg CLF.SF ≤ s.now + dt) →
      (s.advance dt).openWindow = true →
      ∃ t, exec (.clfPdRequest dt p fine) s = .next t ∧ (vget t.clf.ports p).pdreq = some ((s.now + dt) * 128 + fine) ∧
        (vget t.clf.ports p).sent = some (s.unicast 6)) ∧
    (∃ t, exec (.clfPdreqRx dt p fine) s = .next t ∧ (vget t.clf.ports p).respDue = !(s.advance dt).openWindow ∧
      (vget t.clf.ports p).sent =
        if (s.advance dt).openWindow then some (s.unicast 7) else (vget s.clf.ports p).sent) ∧
    (∀ t1 t2 t3, (vget s.clf.ports p).pdreq = some t1 →
      ∃ t, exec (.clfPdrespRx dt p t2 t3 fine) s = .next t ∧ (vget t.clf.ports p).pdreq = none ∧
        (vget t.clf.ports p).delays =
          (((((s.now + dt) * 128 + fine : Nat) : Int) - t1 - ((t3 : Int) - t2)) :: (vget s.clf.ports p).delays).take 8))

/-- Frames of Clepo: a slotted frame is forwarded and checked against its slot, marked, damaged and unknown frames are
counted, a good one is delivered, TIME frames are taken once per superframe from the root, and own slots send the payload
read for them, the safety message, the root's time, or nothing when late. -/
def Obligations.ClepoFramesAndSlots : Prop :=
  (∀ (dt : Nat) (p : Fin 2) (f : ClfFrame) (s u : State) (good marked : Bool), 2 ≤ s.clfState → s.portUp p = true →
    u = (if f.type = 1 ∨ f.type = 3 then (s.advance dt).forward p f !(good && !marked) else s.advance dt) →
    (¬((f.type = 1 ∨ f.type = 3) ∧ headerOk f = true ∧ f.slot ≠ 0xFF) →
      (marked = true → exec (.clfFrameRx dt p f good marked) s = .next (u.incSat CLF.pg CLF.CNT0_FWD_BAD)) ∧
      (marked = false → (good = false ∨ headerOk f = false) → exec (.clfFrameRx dt p f good marked) s = .next u.crcError) ∧
      (marked = false → good = true → headerOk f = true → (f.type = 0 ∨ 7 < f.type) →
        exec (.clfFrameRx dt p f good marked) s = .next (u.incSat CLF.pg CLF.CNT0_FMT)) ∧
      (marked = false → good = true → headerOk f = true → (f.type = 1 ∨ f.type = 3) → s.clfState = 4 →
        (f.dest = 0xFF ∨ f.dest = s.get CLF.pg CLF.TOPO_ID) → exec (.clfFrameRx dt p f good marked) s =
          .next (u.deliver f ((s.advance dt).now - 4 - s.lanesTime p f.payload.length)))) ∧
    ((f.type = 1 ∨ f.type = 3) → headerOk f = true → f.slot ≠ 0xFF → f.slot ≠ 0 → f.slot ∉ s.clf.quar → good = true →
      marked = false →
      (f.src = (s.slot s.clfBank f.slot).owner → f.slot ∉ s.clf.got → f.slot ∉ s.clf.clash → s.clfState = 4 →
        (f.dest = 0xFF ∨ f.dest = s.get CLF.pg CLF.TOPO_ID) → exec (.clfFrameRx dt p f good marked) s =
          .next ((u.clfSet fun c => { c with got := f.slot :: c.got }).deliver f
            ((s.advance dt).now - 4 - s.lanesTime p f.payload.length))) ∧
      (f.src ≠ (s.slot s.clfBank f.slot).owner → exec (.clfFrameRx dt p f good marked) s =
        .next (u.slotConflict f.slot)))) ∧
  (∀ (dt : Nat) (s : State), (s.advance dt).now % 400000000 = 0 →
    ∃ t, exec (.errorRateWindowStart dt) s = .next t ∧ t.clf.errs = 0 ∧ t.clf.errRaised = false ∧ t.regs = s.regs) ∧
  (∀ (dt : Nat) (p : Fin 2) (fine : Fin 128) (f : ClfTime) (s : State), 3 ≤ s.clfState → s.portUp p = true →
    (f.good = false → ∃ u, exec (.clfTimeRx dt p f fine) s = .next (State.crcError u) ∧ u.clf.errs = s.clf.errs ∧
      u.rd (fldAddr CLF.pg CLF.CNT0) = s.rd (fldAddr CLF.pg CLF.CNT0)) ∧
    (f.good = true → s.clf.isRoot = false → 0 ∉ s.clf.quar → 0 ∉ s.clf.got → 0 ∉ s.clf.clash →
      f.src = s.get CLF.pg CLF.TOPO_ROOT →
      ∃ t, exec (.clfTimeRx dt p f fine) s = .next t ∧ t.clf.got = 0 :: s.clf.got ∧ t.clf.seenArm = f.armed ∧
        t.clf.timeSf = (f.t0 / 128 / (s.get CLF.pg CLF.SF : Int)).toNat ∧
        t.clf.timeN = if s.clf.timeN ≠ 0 ∧ (f.t0 / 128 / (s.get CLF.pg CLF.SF : Int)).toNat = s.clf.timeSf + 1 then
          s.clf.timeN + 1 else 1)) ∧
  (∀ (dt : Nat) (i : Fin 255) (s u : State) (x : Slot), u = s.advance dt → x = s.slot s.clfBank i → s.clfState = 4 →
    i.1 ∉ s.clf.quar → x.en = true → x.owner = s.get CLF.pg CLF.TOPO_ID →
    (x.srck = 0 → (x.start + s.get CLF.pg CLF.SF - u.sfPhase) % s.get CLF.pg CLF.SF ≤ 64 →
      ∃ t, exec (.clfTxbufRead dt i) s = .next t ∧
        t.clf.txbuf = some (i.1, (List.range (x.plen / 4)).map fun k => s.rdMem (x.txbuf + 4 * k))) ∧
    (¬(i.1 = 0 ∧ s.clf.isRoot = true) → u.sfPhase = x.start → i.1 ∉ s.clf.got →
      (∀ ws, x.srck = 0 → s.clf.txbuf = some (i.1, ws) →
        ∃ t, exec (.clfSlotTx dt i true) s = .next t ∧ t.clf.got = i.1 :: s.clf.got ∧ t.clf.txbuf = none ∧
          ∀ p, s.portUp p = true → ∃ f, (vget t.clf.ports p).sent = some f ∧ f.type = 1 ∧ f.payload = ws ∧
            f.slot = i.1 ∧ f.seq = mapGet (fun _ => 0) s.clf.txSeq x.stream) ∧
      (x.srck = 1 → ∀ done,
        ∃ t, exec (.clfSlotTx dt i done) s = .next t ∧ t.clf.got = i.1 :: s.clf.got ∧
          ∀ p, s.portUp p = true → ∃ f, (vget t.clf.ports p).sent = some f ∧ f.type = 3 ∧ f.payload = s.clf.safeMsg) ∧
      (x.srck = 0 → s.clf.txbuf = none → ∀ done,
        ∃ t, exec (.clfSlotTx dt i done) s = .next t ∧ t.clf.got = s.clf.got ∧
          t.get CLF.pg CLF.CNT1_TXLATE = min 255 (s.get CLF.pg CLF.CNT1_TXLATE + 1)))) ∧
  (∀ (dt : Nat) (done : Bool) (s : State), s.clfState = 4 → s.clf.isRoot = true → (s.advance dt).sfPhase = 0 →
    0 ∉ s.clf.quar → 0 ∉ s.clf.got → ∃ t, exec (.clfSlotTx dt 0 done) s = .next t ∧ t.clf.got = 0 :: s.clf.got ∧
      ∀ p, s.portUp p = true → ∃ f, (vget t.clf.ports p).sent = some f ∧ f.type = 2 ∧ f.slot = 0)

/-- The tables of Clepo and its superframes: a boundary numbers the superframe and turns conflicts into quarantine, a swap
is armed for a later superframe only with a valid bank, and the slot banks, routes and ring pointers take the writes that
their rules allow. -/
def Obligations.ClepoTablesAndSuperframes : Prop :=
  (∀ (dt : Nat) (s u : State), u = s.advance dt → u.superframeDue = true →
    exec (.clfSuperframe dt) s = .next (u.superframe.commitAt .superframe) ∧
    u.superframe.get64 CLF.pg CLF.SFNUM_LO = (u.fabricTime / (s.get CLF.pg CLF.SF : Int)).toNat % 2 ^ 64 ∧
    u.superframe.sfTick = some u.now ∧ u.superframe.clf.got = [] ∧ u.superframe.clf.quar = s.clf.clash ∧
    u.superframe.clf.clash = []) ∧
  (∀ (dt : Nat) (req : Req) (val : W32) (s : State),
    (s.sfNum < val.toNat → s.bankValid (1 - s.clfBank) = true → s.clfState = 4 →
      ∃ t, exec (.clfSwapatWrite dt req val) s = .next t ∧ t.rd (fldAddr CLF.pg CLF.SWAPAT) = val ∧
        t.on CLF.pg CLF.SLOTCTL_ARMED = true ∧ t.get CLF.pg CLF.SLOTCTL_LAST = 1) ∧
    (val.toNat ≤ s.sfNum → exec (.clfSwapatWrite dt req val) s =
      .next (((s.advance dt).put CLF.pg CLF.SLOTCTL_LAST 4).incSat CLF.pg HDR.ERRCNT_ACCESS)) ∧
    (∀ (i : Fin 255) (k : Nat), k = (s.advance dt).bankNow →
      ((s.on CLF.pg CLF.SLOTCTL_ARMED = false ∨ k ≠ s.clfBank) →
        ∃ t, exec (.clfSlotBankWrite dt req (pageBase ⟨.bank, 1 - k⟩ + 16 * i + 4) 15 val) s = .next t ∧
          t.slotWord (1 - k) i 1 = val.toNat) ∧
      exec (.clfSlotBankWrite dt req (pageBase ⟨.bank, k⟩ + 16 * i + 4) 15 val) s =
        .next (((s.advance dt).put CLF.pg CLF.SLOTCTL_LAST 2).incSat CLF.pg HDR.ERRCNT_ACCESS)) ∧
    (∀ (src : Fin 64) (stream : Fin 31), req ∈ ([0, 1, 2, 11] : List Req) →
      (bits val.toNat 30 28 ≠ 3 → bits val.toNat 21 20 ≠ 3 →
        ∃ t, exec (.clfRouteWrite dt req (routeAddr src stream) 15 val) s = .next t ∧
          t.rd (routeAddr src stream) = val &&& 0xFF30FF03) ∧
      (bits val.toNat 30 28 = 3 → exec (.clfRouteWrite dt req (routeAddr src stream) 15 val) s =
        .next ((s.advance dt).incSat CLF.pg HDR.ERRCNT_ACCESS))) ∧
    (∀ k : Fin 16,
      (rptrOk (2 ^ s.get CLF.pg (CLF.R_CFG_SIZE.ix k)) (2 ^ s.get CLF.pg (CLF.R_CFG_RECSZ.ix k))
          (s.get CLF.pg (CLF.R_RPTR_RPTR.ix k)) (s.get CLF.pg (CLF.RFILL_FILL.ix k)) (val.toNat % 2 ^ 18) = true →
        ∃ t, exec (.clfRingRptrWrite dt req k val) s = .next t ∧
          t.get CLF.pg (CLF.R_RPTR_RPTR.ix k) = val.toNat % 2 ^ 18 ∧
          t.get CLF.pg (CLF.RFILL_FILL.ix k) = s.get CLF.pg (CLF.RFILL_FILL.ix k) -
            (val.toNat % 2 ^ 18 + 2 ^ s.get CLF.pg (CLF.R_CFG_SIZE.ix k) - s.get CLF.pg (CLF.R_RPTR_RPTR.ix k)) %
              2 ^ s.get CLF.pg (CLF.R_CFG_SIZE.ix k)) ∧
      (rptrOk (2 ^ s.get CLF.pg (CLF.R_CFG_SIZE.ix k)) (2 ^ s.get CLF.pg (CLF.R_CFG_RECSZ.ix k))
          (s.get CLF.pg (CLF.R_RPTR_RPTR.ix k)) (s.get CLF.pg (CLF.RFILL_FILL.ix k)) (val.toNat % 2 ^ 18) = false →
        exec (.clfRingRptrWrite dt req k val) s = .next ((s.advance dt).incSat CLF.pg HDR.ERRCNT_ACCESS))))
end

