-- ==== Sys2Proof/Laws/Map.lean ====
section
/-! SUPPORT. Laws of the canonical sparse map: a read after a write, and every operation keeps the canonical form. -/

namespace Sys2Proof.Machine

variable {α : Type}

theorem mapGet_mapErase_same (d : Nat → α) (m : List (Nat × α)) (a : Nat) : mapGet d (mapErase m a) a = d a := by
  induction m with
  | nil => rfl
  | cons e m ih =>
    obtain ⟨b, w⟩ := e
    by_cases h : a = b
    · simpa [mapErase, h] using h ▸ ih
    · simpa [mapErase, mapGet, h] using ih

theorem mapGet_mapErase_other (d : Nat → α) (m : List (Nat × α)) {a b : Nat} (h : b ≠ a) :
    mapGet d (mapErase m a) b = mapGet d m b := by
  induction m with
  | nil => rfl
  | cons e m ih =>
    obtain ⟨c, w⟩ := e
    by_cases hc : a = c
    · have : b ≠ c := hc ▸ h
      simp [mapErase, mapGet, hc, this]
      simpa [hc] using ih
    · simp only [mapErase, hc, if_false, mapGet, ih]

theorem mapGet_mapInsert_same (d : Nat → α) (m : List (Nat × α)) (a : Nat) (v : α) (h : mapErase m a = m) :
    mapGet d (mapInsert m a v) a = v := by
  induction m with
  | nil => simp [mapInsert, mapGet]
  | cons e m ih =>
    obtain ⟨b, w⟩ := e
    by_cases hb : a = b
    · exfalso
      simp only [mapErase, hb, if_true] at h
      have hl : ∀ (l : List (Nat × α)), (mapErase l b).length ≤ l.length := by
        intro l
        induction l with
        | nil => simp [mapErase]
        | cons x l il => simp only [mapErase]; split <;> simp <;> omega
      have := congrArg List.length h
      have h2 := hl m
      simp at this
      omega
    · simp only [mapErase, hb, if_false, List.cons.injEq, true_and] at h
      simp only [mapInsert]
      split
      · simp [mapGet]
      · simpa [mapGet, hb] using ih h

theorem mapGet_mapInsert_other (d : Nat → α) (m : List (Nat × α)) {a b : Nat} (v : α) (h : b ≠ a) :
    mapGet d (mapInsert m a v) b = mapGet d m b := by
  induction m with
  | nil => simp [mapInsert, mapGet, h]
  | cons e m ih =>
    obtain ⟨c, w⟩ := e
    simp only [mapInsert]
    split
    · simp [mapGet, h]
    · simp [mapGet, ih]

theorem mapErase_idem (m : List (Nat × α)) (a : Nat) : mapErase (mapErase m a) a = mapErase m a := by
  induction m with
  | nil => rfl
  | cons e m ih =>
    obtain ⟨b, w⟩ := e
    by_cases h : a = b
    · subst h; simpa [mapErase] using ih
    · simp [mapErase, h, ih]

/-- A read after a write of the same key gives the value written. -/
@[simp] theorem mapGet_mapSet_same [DecidableEq α] (d : Nat → α) (m : List (Nat × α)) (a : Nat) (v : α) :
    mapGet d (mapSet d m a v) a = v := by
  unfold mapSet
  split
  · rename_i h; rw [mapGet_mapErase_same, h]
  · exact mapGet_mapInsert_same d _ a v (mapErase_idem m a)

/-- A write leaves every other key alone. -/
theorem mapGet_mapSet_other [DecidableEq α] (d : Nat → α) (m : List (Nat × α)) {a b : Nat} (v : α) (h : b ≠ a) :
    mapGet d (mapSet d m a v) b = mapGet d m b := by
  unfold mapSet
  split
  · exact mapGet_mapErase_other d m h
  · rw [mapGet_mapInsert_other d _ v h, mapGet_mapErase_other d m h]

theorem mapWfFrom_mono [DecidableEq α] (d : Nat → α) {lo lo' : Nat} (h : lo' ≤ lo) (m : List (Nat × α))
    (hm : mapWfFrom d lo m = true) : mapWfFrom d lo' m = true := by
  cases m with
  | nil => rfl
  | cons e m =>
    simp only [mapWfFrom, Bool.and_eq_true, decide_eq_true_eq] at hm ⊢
    exact ⟨⟨by omega, hm.1.2⟩, hm.2⟩

theorem mapWfFrom_mapErase [DecidableEq α] (d : Nat → α) (m : List (Nat × α)) (a : Nat) :
    ∀ lo, mapWfFrom d lo m = true → mapWfFrom d lo (mapErase m a) = true := by
  induction m with
  | nil => intro _ _; rfl
  | cons e m ih =>
    intro lo h
    simp only [mapWfFrom, Bool.and_eq_true, decide_eq_true_eq] at h
    simp only [mapErase]
    split
    · exact mapWfFrom_mono d (by omega) _ (ih _ h.2)
    · simp only [mapWfFrom, Bool.and_eq_true, decide_eq_true_eq]
      exact ⟨h.1, ih _ h.2⟩

theorem mapWfFrom_mapInsert [DecidableEq α] (d : Nat → α) (m : List (Nat × α)) (a : Nat) (v : α) (hv : v ≠ d a) :
    ∀ lo, lo ≤ a → mapErase m a = m → mapWfFrom d lo m = true → mapWfFrom d lo (mapInsert m a v) = true := by
  induction m with
  | nil => intro lo hlo _ _; simp [mapInsert, mapWfFrom, hlo, hv]
  | cons e m ih =>
    obtain ⟨b, w⟩ := e
    intro lo hlo he h
    have hab : a ≠ b := by
      intro hab
      have := mapGet_mapErase_same d ((b, w) :: m) a
      rw [he] at this
      simp only [mapWfFrom, Bool.and_eq_true, decide_eq_true_eq] at h
      simp only [mapGet, hab, if_true] at this
      exact h.1.2 this
    simp only [mapErase, hab, if_false, List.cons.injEq, true_and] at he
    simp only [mapWfFrom, Bool.and_eq_true, decide_eq_true_eq] at h
    simp only [mapInsert]
    split
    · simp only [mapWfFrom, Bool.and_eq_true, decide_eq_true_eq]
      exact ⟨⟨hlo, hv⟩, ⟨by omega, h.1.2⟩, h.2⟩
    · simp only [mapWfFrom, Bool.and_eq_true, decide_eq_true_eq]
      exact ⟨h.1, ih _ (by omega) he h.2⟩

/-- A write keeps the canonical form. -/
theorem mapWf_mapSet [DecidableEq α] (d : Nat → α) (m : List (Nat × α)) (a : Nat) (v : α) (h : mapWf d m = true) :
    mapWf d (mapSet d m a v) = true := by
  unfold mapSet mapWf at *
  split
  · exact mapWfFrom_mapErase d m a 0 h
  · rename_i hv
    exact mapWfFrom_mapInsert d _ a v hv 0 (by omega) (mapErase_idem m a) (mapWfFrom_mapErase d m a 0 h)

/-- Keeping some of the keys keeps the canonical form. -/
theorem mapWf_mapKeep [DecidableEq α] (d : Nat → α) (p : Nat → Bool) (m : List (Nat × α)) (h : mapWf d m = true) :
    mapWf d (mapKeep p m) = true := by
  have : ∀ lo, mapWfFrom d lo m = true → mapWfFrom d lo (mapKeep p m) = true := by
    clear h
    induction m with
    | nil => intro _ _; rfl
    | cons e m ih =>
      intro lo h
      simp only [mapWfFrom, Bool.and_eq_true, decide_eq_true_eq] at h
      simp only [mapKeep, List.filter_cons]
      split
      · simp only [mapWfFrom, Bool.and_eq_true, decide_eq_true_eq]
        exact ⟨h.1, ih _ h.2⟩
      · exact mapWfFrom_mono d (by omega) _ (ih _ h.2)
  exact this 0 h

end Sys2Proof.Machine
end

