-- ==== Sys2Proof/Laws/Kept.lean ====
section
/-! SUPPORT. What an operation keeps: the parts of the state it does not touch, and the canonical form of registers and
memory. One lemma per primitive; the lemmas about operations follow from these. -/

namespace Sys2Proof.Machine
open Sys2Proof

/-- From `s` to `t` only the parts in `F` may have changed, and canonical maps stay canonical. -/
structure Kept (F : List Part) (s t : State) : Prop where
  within : s.Within F t
  regs : Registers.wf s.regs → Registers.wf t.regs
  mem : Memory.wf s.mem → Memory.wf t.mem

theorem State.sameAt_refl (s : State) (p : Part) : s.sameAt s p := by
  cases p <;> simp [State.sameAt]

theorem State.sameAt_trans {s t u : State} {p : Part} (h : s.sameAt t p) (h' : t.sameAt u p) : s.sameAt u p := by
  cases p
  case block b => exact fun a ha => (h' a ha).trans (h a ha)
  all_goals exact Eq.trans h' h

theorem Kept.refl {F : List Part} (s : State) : Kept F s s := ⟨fun p _ => s.sameAt_refl p, id, id⟩

theorem Kept.mono {F G : List Part} {s t : State} (h : Kept G s t) (hg : G ⊆ F) : Kept F s t :=
  ⟨fun p hp => h.within p fun hm => hp (hg hm), h.regs, h.mem⟩

theorem Kept.trans {F : List Part} {s t u : State} (h : Kept F s t) (h' : Kept F t u) : Kept F s u :=
  ⟨fun p hp => State.sameAt_trans (h.within p hp) (h'.within p hp), h'.regs ∘ h.regs, h'.mem ∘ h.mem⟩

/-- A number for each part. -/
def Part.idx : Part → Nat
  | .block b => 64 + b.ctorIdx
  | p => p.ctorIdx

/-- The set of a list of parts, as the bits of a number. -/
def Part.mask : List Part → Nat
  | [] => 0
  | p :: l => 1 <<< p.idx ||| Part.mask l

/-- The part of a number. -/
def Part.ofIdx (i : Nat) : Option Part :=
  if 64 ≤ i then (allBlocks[i - 64]?).map .block
  else ([.pending, .now, .free, .mem, .reply, .keys, .snaps, .lows, .sets, .dev, .tbu, .lg, .sfTick, .tpw, .cpw, .cpwCmp, .dcd, .dma, .dmaReq, .msv, .pin, .bch, .obc, .act, .halo, .scf, .canH, .canWin, .adhLost, .adf, .adh, .adr, .pos, .ctxs, .evrAt, .engAt, .zslack, .pslack, .lks, .tmu, .arb, .clf] : List Part)[i - 1]?

theorem Part.ofIdx_idx (p : Part) : Part.ofIdx p.idx = some p := by
  cases p
  case block b => cases b <;> rfl
  all_goals rfl

theorem Part.testBit_mask (l : List Part) (p : Part) : (Part.mask l).testBit p.idx = true ↔ p ∈ l := by
  induction l with
  | nil => simp [Part.mask]
  | cons q l ih =>
    have : (1 <<< q.idx).testBit p.idx = true ↔ p = q := by
      rw [Nat.one_shiftLeft, Nat.testBit_two_pow, decide_eq_true_eq]
      refine ⟨fun h => ?_, fun h => h ▸ rfl⟩
      have := Part.ofIdx_idx q
      rw [h, Part.ofIdx_idx] at this
      exact Option.some.inj this
    rw [Part.mask, Nat.testBit_or, Bool.or_eq_true, this, ih, List.mem_cons]

/-- Inclusion of lists of parts, by evaluation. -/
theorem Part.sub {F G : List Part} (h : (Part.mask G &&& Part.mask F == Part.mask G) = true) : G ⊆ F := by
  intro p hp
  rw [← Part.testBit_mask] at hp ⊢
  rw [beq_iff_eq] at h
  rw [← h, Nat.testBit_and, Bool.and_eq_true] at hp
  exact hp.2

theorem mem_allBlocks (b : Block) : b ∈ allBlocks := by cases b <;> decide

@[simp] theorem Part.mem_allRegs (b : Block) : Part.block b ∈ Part.allRegs := List.mem_map_of_mem (mem_allBlocks b)

@[simp] theorem Part.mem_andRegs (b : Block) (l : List Part) : Part.block b ∈ Part.andRegs l :=
  List.mem_append_right _ (Part.mem_allRegs b)

@[simp] theorem Part.mem_butPending (b : Block) : Part.block b ∈ Part.butPending := Part.mem_andRegs b _

@[simp] theorem Part.mem_reaction (b : Block) : Part.block b ∈ Part.reaction := Part.mem_andRegs b _

/-- One more operation. -/
theorem Kept.step {F G : List Part} {s t u : State} (h : Kept F s t) (h' : Kept G t u)
    (hg : G ⊆ F := by first
      | exact Part.sub (by decide +kernel) | (dsimp only; exact Part.sub (by decide +kernel))
      | simp [Part.reaction, Part.butPending, Part.andRegs]) : Kept F s u :=
  h.trans (h'.mono hg)

theorem Kept.ite {F : List Part} {s t u : State} {c : Prop} [Decidable c] (h : Kept F s t) (h' : Kept F s u) :
    Kept F s (if c then t else u) := by split <;> assumption

theorem Kept.foldl {F : List Part} {α : Type} {f : State → α → State} (h : ∀ t x, Kept F t (f t x)) {s t : State}
    (hs : Kept F s t) (l : List α) : Kept F s (l.foldl f t) := by
  induction l generalizing t with
  | nil => exact hs
  | cons x l ih => exact ih (hs.trans (h t x))

theorem Kept.foldlFst {F : List Part} {α β : Type} {f : State × β → α → State × β}
    (h : ∀ a x, Kept F a.1 (f a x).1) (s : State) (b : β) (l : List α) : Kept F s (l.foldl f (s, b)).1 := by
  suffices ∀ a : State × β, Kept F s a.1 → Kept F s (l.foldl f a).1 from this _ (.refl s)
  induction l with
  | nil => exact fun _ h => h
  | cons x l ih => exact fun a ha => ih _ (ha.trans (h a x))

theorem Kept.foldlSnd {F : List Part} {α β : Type} {f : β × State → α → β × State}
    (h : ∀ a x, Kept F a.2 (f a x).2) (s : State) (b : β) (l : List α) : Kept F s (l.foldl f (b, s)).2 := by
  suffices ∀ a : β × State, Kept F s a.2 → Kept F s (l.foldl f a).2 from this _ (.refl s)
  induction l with
  | nil => exact fun _ h => h
  | cons x l ih => exact fun a ha => ih _ (ha.trans (h a x))

/-- The second component of a pair that is known. -/
theorem Kept.ofSnd {F : List Part} {α : Type} {s t : State} {p : α × State} {a : α} (h : p = (a, t)) (hk : Kept F s p.2) :
    Kept F s t := by subst h; exact hk

/-- The first component of a pair that is known. -/
theorem Kept.ofFst {F : List Part} {α : Type} {s t : State} {p : State × α} {a : α} (h : p = (t, a)) (hk : Kept F s p.1) :
    Kept F s t := by subst h; exact hk

/-- An answer that may be missing. -/
def KeptOpt (F : List Part) (s : State) (o : Option State) : Prop := ∀ t, o = some t → Kept F s t

theorem KeptOpt.some {F : List Part} {s t : State} (h : Kept F s t) : KeptOpt F s (.some t) := by
  intro u hu; cases hu; exact h

theorem KeptOpt.none {F : List Part} {s : State} : KeptOpt F s .none := by intro u hu; cases hu

theorem KeptOpt.ite {F : List Part} {s : State} {o u : Option State} {c : Prop} [Decidable c] (h : KeptOpt F s o)
    (h' : KeptOpt F s u) : KeptOpt F s (if c then o else u) := by split <;> assumption

theorem KeptOpt.mono {F G : List Part} {s : State} {o : Option State} (h : KeptOpt G s o)
    (hg : G ⊆ F := by first
      | exact Part.sub (by decide +kernel) | (dsimp only; exact Part.sub (by decide +kernel))
      | simp [Part.reaction, Part.butPending, Part.andRegs]) : KeptOpt F s o := fun t ht => (h t ht).mono hg

/-- The answer that is known. -/
theorem KeptOpt.use {F : List Part} {s t : State} {o : Option State} (h : o = .some t) (hk : KeptOpt F s o) :
    Kept F s t := hk t h

/-- An outcome of a command: whatever next state it gives. -/
def KeptOut (F : List Part) (s : State) (o : Host.Outcome State Fault Refusal) : Prop := ∀ t, o = .next t → Kept F s t

theorem KeptOut.next {F : List Part} {s t : State} (h : Kept F s t) : KeptOut F s (.next t) := by
  intro u hu; cases hu; exact h

theorem KeptOut.ite {F : List Part} {s : State} {o u : Host.Outcome State Fault Refusal} {c : Prop} [Decidable c]
    (h : KeptOut F s o) (h' : KeptOut F s u) : KeptOut F s (if c then o else u) := by split <;> assumption

theorem KeptOut.mono {F G : List Part} {s : State} {o : Host.Outcome State Fault Refusal} (h : KeptOut G s o) (hg : G ⊆ F) :
    KeptOut F s o := fun t ht => (h t ht).mono hg

/-- The registers and the memory are the same, and of the other parts only those in `F` may differ. -/
theorem Kept.raw {F : List Part} {s t : State} (h : ∀ p, p ∉ F → s.sameAt t p) (hr : t.regs = s.regs)
    (hm : t.mem = s.mem) : Kept F s t := ⟨h, fun w => hr ▸ w, fun w => hm ▸ w⟩

/-- Where the pages of a block end. -/
theorem blocks_apart : ∀ b ∈ allBlocks, ∀ c ∈ allBlocks, b = c ∨
    (blockInfo b).base + (blockInfo b).count * pageSize b ≤ (blockInfo c).base ∨
    (blockInfo c).base + (blockInfo c).count * pageSize c ≤ (blockInfo b).base := by decide +kernel

theorem findSome_only {α β : Type} (f : α → Option β) (y : β) (l : List α) (h : ∀ x ∈ l, f x = none ∨ f x = some y)
    (hx : ∃ x ∈ l, f x = some y) : l.findSome? f = some y := by
  induction l with
  | nil => simp at hx
  | cons a l ih =>
    rcases h a (by simp) with ha | ha
    · rw [List.findSome?_cons, ha]
      refine ih (fun x hm => h x (by simp [hm])) ?_
      obtain ⟨x, hm, hx⟩ := hx
      rcases List.mem_cons.mp hm with rfl | hm
      · rw [ha] at hx; cases hx
      · exact ⟨x, hm, hx⟩
    · rw [List.findSome?_cons, ha]

/-- The page of a page's word is that page. -/
theorem pageAt_page {p : Page} {x : Fld} (h : inPage p x = true) : pageAt (fldAddr p x) = some p := by
  obtain ⟨b, n⟩ := p
  simp only [inPage, pageValid, Bool.and_eq_true, decide_eq_true_eq] at h
  have hs : 0 < pageSize b := by cases b <;> decide
  have hle : (n + 1) * pageSize b ≤ (blockInfo b).count * pageSize b := Nat.mul_le_mul_right _ h.1
  rw [Nat.add_mul, Nat.one_mul] at hle
  have hd : (n * pageSize b + x.off) / pageSize b = n := by
    rw [Nat.mul_comm, Nat.mul_add_div hs, Nat.div_eq_of_lt h.2, Nat.add_zero]
  have ha : fldAddr ⟨b, n⟩ x = (blockInfo b).base + (n * pageSize b + x.off) := Nat.add_assoc _ _ _
  rw [ha]
  have hb : blockPageAt ((blockInfo b).base + (n * pageSize b + x.off)) b = some ⟨b, n⟩ := by
    unfold blockPageAt
    dsimp only
    rw [if_pos (by omega), Nat.add_sub_cancel_left, hd]
  refine findSome_only _ _ _ (fun c hc => ?_) ⟨b, mem_allBlocks b, hb⟩
  by_cases hcb : c = b
  · exact .inr (hcb ▸ hb)
  · left
    unfold blockPageAt
    dsimp only
    have := (blocks_apart c hc b (mem_allBlocks b)).resolve_left hcb
    rw [if_neg (by omega)]

/-- The registers are some of the old ones, the memory is the same, and of the other parts only those in `F` may differ. -/
theorem Kept.keep {F : List Part} {s t : State} {k : Nat → Bool} (h : ∀ p, p ∉ F → s.sameAt t p)
    (hr : t.regs = mapKeep k s.regs) (hm : t.mem = s.mem) : Kept F s t :=
  ⟨h, fun w => by rw [hr]; exact mapWf_mapKeep _ _ _ w, fun w => hm ▸ w⟩

/-- The block of a page's word. -/
theorem blockAt_page {p : Page} {x : Fld} (h : inPage p x = true) : blockAt (fldAddr p x) = some p.blk := by
  rw [blockAt, pageAt_page h]; rfl

/-! ### Primitives -/

theorem Kept.setWord (s : State) (p : Page) (x : Fld) (v : W32) : Kept [.block p.blk] s (s.setWord p x v) := by
  unfold State.setWord
  split
  case isFalse => exact .refl _
  case isTrue h =>
    refine ⟨fun q hq => ?_, fun w => mapWf_mapSet _ _ _ _ w, id⟩
    cases q
    case block b =>
      intro a ha
      refine mapGet_mapSet_other _ _ _ fun e => hq ?_
      rw [e, blockAt_page h] at ha
      simpa using ha.symm
    all_goals exact rfl

/-- Any write of a register word. -/
theorem Kept.wr (s : State) (a : Nat) (v : W32) : Kept Part.allRegs s (s.wr a v) := by
  refine ⟨fun q hq => ?_, fun w => mapWf_mapSet _ _ _ _ w, id⟩
  cases q
  case block b => exact absurd (List.mem_map_of_mem (mem_allBlocks b)) hq
  all_goals exact rfl

/-- Keeping some of the registers only. -/
theorem Kept.keepRegs (s : State) (k : Nat → Bool) : Kept Part.allRegs s { s with regs := mapKeep k s.regs } := by
  refine ⟨fun q hq => ?_, fun w => mapWf_mapKeep _ _ _ w, id⟩
  cases q
  case block b => exact absurd (List.mem_map_of_mem (mem_allBlocks b)) hq
  all_goals exact rfl

theorem Kept.wrByte (s : State) (a : Nat) (v : Byte) : Kept [.mem] s (s.wrByte a v) := by
  refine ⟨fun q hq => ?_, id, fun w => mapWf_mapSet _ _ _ _ w⟩
  cases q
  case mem => exact absurd (List.mem_singleton.mpr rfl) hq
  case block b => exact fun _ _ => rfl
  all_goals exact rfl

/-- Keeping some of the memory only. -/
theorem Kept.keepMem (s : State) (k : Nat → Bool) : Kept [.mem] s { s with mem := mapKeep k s.mem } := by
  refine ⟨fun q hq => ?_, id, fun w => mapWf_mapKeep _ _ _ w⟩
  cases q
  case mem => exact absurd (List.mem_singleton.mpr rfl) hq
  case block b => exact fun _ _ => rfl
  all_goals exact rfl

theorem Kept.now_upd (s : State) (v) : Kept [.now] s { s with now := v } := by
  refine .raw (fun q hq => ?_) rfl rfl
  cases q
  case now => exact absurd (List.mem_singleton.mpr rfl) hq
  case block b => exact fun _ _ => rfl
  all_goals exact rfl

theorem Kept.free_upd (s : State) (v) : Kept [.free] s { s with free := v } := by
  refine .raw (fun q hq => ?_) rfl rfl
  cases q
  case free => exact absurd (List.mem_singleton.mpr rfl) hq
  case block b => exact fun _ _ => rfl
  all_goals exact rfl

theorem Kept.reply_upd (s : State) (v) : Kept [.reply] s { s with reply := v } := by
  refine .raw (fun q hq => ?_) rfl rfl
  cases q
  case reply => exact absurd (List.mem_singleton.mpr rfl) hq
  case block b => exact fun _ _ => rfl
  all_goals exact rfl

theorem Kept.keys_upd (s : State) (v) : Kept [.keys] s { s with keys := v } := by
  refine .raw (fun q hq => ?_) rfl rfl
  cases q
  case keys => exact absurd (List.mem_singleton.mpr rfl) hq
  case block b => exact fun _ _ => rfl
  all_goals exact rfl

theorem Kept.snaps_upd (s : State) (v) : Kept [.snaps] s { s with snaps := v } := by
  refine .raw (fun q hq => ?_) rfl rfl
  cases q
  case snaps => exact absurd (List.mem_singleton.mpr rfl) hq
  case block b => exact fun _ _ => rfl
  all_goals exact rfl

theorem Kept.lows_upd (s : State) (v) : Kept [.lows] s { s with lows := v } := by
  refine .raw (fun q hq => ?_) rfl rfl
  cases q
  case lows => exact absurd (List.mem_singleton.mpr rfl) hq
  case block b => exact fun _ _ => rfl
  all_goals exact rfl

theorem Kept.sets_upd (s : State) (v) : Kept [.sets] s { s with sets := v } := by
  refine .raw (fun q hq => ?_) rfl rfl
  cases q
  case sets => exact absurd (List.mem_singleton.mpr rfl) hq
  case block b => exact fun _ _ => rfl
  all_goals exact rfl

theorem Kept.dev_upd (s : State) (v) : Kept [.dev] s { s with dev := v } := by
  refine .raw (fun q hq => ?_) rfl rfl
  cases q
  case dev => exact absurd (List.mem_singleton.mpr rfl) hq
  case block b => exact fun _ _ => rfl
  all_goals exact rfl

theorem Kept.tbu_upd (s : State) (v) : Kept [.tbu] s { s with tbu := v } := by
  refine .raw (fun q hq => ?_) rfl rfl
  cases q
  case tbu => exact absurd (List.mem_singleton.mpr rfl) hq
  case block b => exact fun _ _ => rfl
  all_goals exact rfl

theorem Kept.lg_upd (s : State) (v) : Kept [.lg] s { s with lg := v } := by
  refine .raw (fun q hq => ?_) rfl rfl
  cases q
  case lg => exact absurd (List.mem_singleton.mpr rfl) hq
  case block b => exact fun _ _ => rfl
  all_goals exact rfl

theorem Kept.sfTick_upd (s : State) (v) : Kept [.sfTick] s { s with sfTick := v } := by
  refine .raw (fun q hq => ?_) rfl rfl
  cases q
  case sfTick => exact absurd (List.mem_singleton.mpr rfl) hq
  case block b => exact fun _ _ => rfl
  all_goals exact rfl

theorem Kept.tpw_upd (s : State) (v) : Kept [.tpw] s { s with tpw := v } := by
  refine .raw (fun q hq => ?_) rfl rfl
  cases q
  case tpw => exact absurd (List.mem_singleton.mpr rfl) hq
  case block b => exact fun _ _ => rfl
  all_goals exact rfl

theorem Kept.cpw_upd (s : State) (v) : Kept [.cpw] s { s with cpw := v } := by
  refine .raw (fun q hq => ?_) rfl rfl
  cases q
  case cpw => exact absurd (List.mem_singleton.mpr rfl) hq
  case block b => exact fun _ _ => rfl
  all_goals exact rfl

theorem Kept.cpwCmp_upd (s : State) (v) : Kept [.cpwCmp] s { s with cpwCmp := v } := by
  refine .raw (fun q hq => ?_) rfl rfl
  cases q
  case cpwCmp => exact absurd (List.mem_singleton.mpr rfl) hq
  case block b => exact fun _ _ => rfl
  all_goals exact rfl

theorem Kept.dcd_upd (s : State) (v) : Kept [.dcd] s { s with dcd := v } := by
  refine .raw (fun q hq => ?_) rfl rfl
  cases q
  case dcd => exact absurd (List.mem_singleton.mpr rfl) hq
  case block b => exact fun _ _ => rfl
  all_goals exact rfl

theorem Kept.dma_upd (s : State) (v) : Kept [.dma] s { s with dma := v } := by
  refine .raw (fun q hq => ?_) rfl rfl
  cases q
  case dma => exact absurd (List.mem_singleton.mpr rfl) hq
  case block b => exact fun _ _ => rfl
  all_goals exact rfl

theorem Kept.dmaReq_upd (s : State) (v) : Kept [.dmaReq] s { s with dmaReq := v } := by
  refine .raw (fun q hq => ?_) rfl rfl
  cases q
  case dmaReq => exact absurd (List.mem_singleton.mpr rfl) hq
  case block b => exact fun _ _ => rfl
  all_goals exact rfl

theorem Kept.msv_upd (s : State) (v) : Kept [.msv] s { s with msv := v } := by
  refine .raw (fun q hq => ?_) rfl rfl
  cases q
  case msv => exact absurd (List.mem_singleton.mpr rfl) hq
  case block b => exact fun _ _ => rfl
  all_goals exact rfl

theorem Kept.pin_upd (s : State) (v) : Kept [.pin] s { s with pin := v } := by
  refine .raw (fun q hq => ?_) rfl rfl
  cases q
  case pin => exact absurd (List.mem_singleton.mpr rfl) hq
  case block b => exact fun _ _ => rfl
  all_goals exact rfl

theorem Kept.bch_upd (s : State) (v) : Kept [.bch] s { s with bch := v } := by
  refine .raw (fun q hq => ?_) rfl rfl
  cases q
  case bch => exact absurd (List.mem_singleton.mpr rfl) hq
  case block b => exact fun _ _ => rfl
  all_goals exact rfl

theorem Kept.obc_upd (s : State) (v) : Kept [.obc] s { s with obc := v } := by
  refine .raw (fun q hq => ?_) rfl rfl
  cases q
  case obc => exact absurd (List.mem_singleton.mpr rfl) hq
  case block b => exact fun _ _ => rfl
  all_goals exact rfl

theorem Kept.act_upd (s : State) (v) : Kept [.act] s { s with act := v } := by
  refine .raw (fun q hq => ?_) rfl rfl
  cases q
  case act => exact absurd (List.mem_singleton.mpr rfl) hq
  case block b => exact fun _ _ => rfl
  all_goals exact rfl

theorem Kept.halo_upd (s : State) (v) : Kept [.halo] s { s with halo := v } := by
  refine .raw (fun q hq => ?_) rfl rfl
  cases q
  case halo => exact absurd (List.mem_singleton.mpr rfl) hq
  case block b => exact fun _ _ => rfl
  all_goals exact rfl

theorem Kept.scf_upd (s : State) (v) : Kept [.scf] s { s with scf := v } := by
  refine .raw (fun q hq => ?_) rfl rfl
  cases q
  case scf => exact absurd (List.mem_singleton.mpr rfl) hq
  case block b => exact fun _ _ => rfl
  all_goals exact rfl

theorem Kept.canH_upd (s : State) (v) : Kept [.canH] s { s with canH := v } := by
  refine .raw (fun q hq => ?_) rfl rfl
  cases q
  case canH => exact absurd (List.mem_singleton.mpr rfl) hq
  case block b => exact fun _ _ => rfl
  all_goals exact rfl

theorem Kept.canWin_upd (s : State) (v) : Kept [.canWin] s { s with canWin := v } := by
  refine .raw (fun q hq => ?_) rfl rfl
  cases q
  case canWin => exact absurd (List.mem_singleton.mpr rfl) hq
  case block b => exact fun _ _ => rfl
  all_goals exact rfl

theorem Kept.adhLost_upd (s : State) (v) : Kept [.adhLost] s { s with adhLost := v } := by
  refine .raw (fun q hq => ?_) rfl rfl
  cases q
  case adhLost => exact absurd (List.mem_singleton.mpr rfl) hq
  case block b => exact fun _ _ => rfl
  all_goals exact rfl

theorem Kept.adf_upd (s : State) (v) : Kept [.adf] s { s with adf := v } := by
  refine .raw (fun q hq => ?_) rfl rfl
  cases q
  case adf => exact absurd (List.mem_singleton.mpr rfl) hq
  case block b => exact fun _ _ => rfl
  all_goals exact rfl

theorem Kept.adh_upd (s : State) (v) : Kept [.adh] s { s with adh := v } := by
  refine .raw (fun q hq => ?_) rfl rfl
  cases q
  case adh => exact absurd (List.mem_singleton.mpr rfl) hq
  case block b => exact fun _ _ => rfl
  all_goals exact rfl

theorem Kept.adr_upd (s : State) (v) : Kept [.adr] s { s with adr := v } := by
  refine .raw (fun q hq => ?_) rfl rfl
  cases q
  case adr => exact absurd (List.mem_singleton.mpr rfl) hq
  case block b => exact fun _ _ => rfl
  all_goals exact rfl

theorem Kept.pos_upd (s : State) (v) : Kept [.pos] s { s with pos := v } := by
  refine .raw (fun q hq => ?_) rfl rfl
  cases q
  case pos => exact absurd (List.mem_singleton.mpr rfl) hq
  case block b => exact fun _ _ => rfl
  all_goals exact rfl

theorem Kept.ctxs_upd (s : State) (v) : Kept [.ctxs] s { s with ctxs := v } := by
  refine .raw (fun q hq => ?_) rfl rfl
  cases q
  case ctxs => exact absurd (List.mem_singleton.mpr rfl) hq
  case block b => exact fun _ _ => rfl
  all_goals exact rfl

theorem Kept.evrAt_upd (s : State) (v) : Kept [.evrAt] s { s with evrAt := v } := by
  refine .raw (fun q hq => ?_) rfl rfl
  cases q
  case evrAt => exact absurd (List.mem_singleton.mpr rfl) hq
  case block b => exact fun _ _ => rfl
  all_goals exact rfl

theorem Kept.engAt_upd (s : State) (v) : Kept [.engAt] s { s with engAt := v } := by
  refine .raw (fun q hq => ?_) rfl rfl
  cases q
  case engAt => exact absurd (List.mem_singleton.mpr rfl) hq
  case block b => exact fun _ _ => rfl
  all_goals exact rfl

theorem Kept.zslack_upd (s : State) (v) : Kept [.zslack] s { s with zslack := v } := by
  refine .raw (fun q hq => ?_) rfl rfl
  cases q
  case zslack => exact absurd (List.mem_singleton.mpr rfl) hq
  case block b => exact fun _ _ => rfl
  all_goals exact rfl

theorem Kept.pslack_upd (s : State) (v) : Kept [.pslack] s { s with pslack := v } := by
  refine .raw (fun q hq => ?_) rfl rfl
  cases q
  case pslack => exact absurd (List.mem_singleton.mpr rfl) hq
  case block b => exact fun _ _ => rfl
  all_goals exact rfl

theorem Kept.lks_upd (s : State) (v) : Kept [.lks] s { s with lks := v } := by
  refine .raw (fun q hq => ?_) rfl rfl
  cases q
  case lks => exact absurd (List.mem_singleton.mpr rfl) hq
  case block b => exact fun _ _ => rfl
  all_goals exact rfl

theorem Kept.tmu_upd (s : State) (v) : Kept [.tmu] s { s with tmu := v } := by
  refine .raw (fun q hq => ?_) rfl rfl
  cases q
  case tmu => exact absurd (List.mem_singleton.mpr rfl) hq
  case block b => exact fun _ _ => rfl
  all_goals exact rfl

theorem Kept.arb_upd (s : State) (v) : Kept [.arb] s { s with arb := v } := by
  refine .raw (fun q hq => ?_) rfl rfl
  cases q
  case arb => exact absurd (List.mem_singleton.mpr rfl) hq
  case block b => exact fun _ _ => rfl
  all_goals exact rfl

theorem Kept.clf_upd (s : State) (v) : Kept [.clf] s { s with clf := v } := by
  refine .raw (fun q hq => ?_) rfl rfl
  cases q
  case clf => exact absurd (List.mem_singleton.mpr rfl) hq
  case block b => exact fun _ _ => rfl
  all_goals exact rfl

end Sys2Proof.Machine
end

