-- ==== Sys2Proof/Laws/KeptOps.lean ====
section
/-! SUPPORT. What each operation of Machine/Ops.lean keeps. -/

namespace Sys2Proof.Machine
open Sys2Proof
set_option Elab.async false

theorem Kept.put (s : State) (p : Page) (x : Fld) (v : Nat) : Kept [.block p.blk] s (s.put p x v) := .setWord ..

theorem Kept.puts (s : State) (p : Page) (x : Fld) (v : Int) : Kept [.block p.blk] s (s.puts p x v) := .put ..

theorem Kept.flag (s : State) (p : Page) (x : Fld) (v : Bool) : Kept [.block p.blk] s (s.flag p x v) := .put ..

theorem Kept.incSat (s : State) (p : Page) (x : Fld) : Kept [.block p.blk] s (s.incSat p x) := .ite (.put ..) (.refl
    _)

theorem Kept.incWrap (s : State) (p : Page) (x : Fld) : Kept [.block p.blk] s (s.incWrap p x) := .put ..

theorem Kept.put64 (s : State) (p : Page) (x : Fld) (v : Nat) : Kept [.block p.blk] s (s.put64 p x v) :=
  .trans (.setWord ..) (.setWord ..)

theorem Kept.mboxWrite (s : State) (k w : Nat) (v : W32) : Kept [.block .ctx] s (State.mboxWrite s k w v) := by
  unfold State.mboxWrite
  repeat' with_reducible first
    | exact .refl _
    | refine .step ?_ (by with_reducible first
        | exact .setWord ..)

theorem Kept.answer (s : State) (r : Reply) : Kept [.reply] s (State.answer s r) := by
  unfold State.answer
  repeat' with_reducible first
    | exact .refl _
    | refine .step ?_ (by with_reducible first
        | exact .reply_upd ..)

theorem Kept.wrBytes (s : State) (a v n : Nat) : Kept [.mem] s (s.wrBytes a v n) := by
  induction n generalizing s a v with
  | zero => exact .refl _
  | succ n ih => exact .trans (.wrByte ..) (ih ..)

theorem Kept.wrMem (s : State) (a : Nat) (v : W32) : Kept [.mem] s (State.wrMem s a v) := by
  unfold State.wrMem
  repeat' with_reducible first
    | exact .refl _
    | refine .step ?_ (by with_reducible first
        | exact .wrBytes ..)

theorem Kept.freshNat (s : State) : Kept [.free] s s.freshNat.2 := .free_upd ..

theorem Kept.freshBit (s : State) : Kept [.free] s s.freshBit.2 := .free_upd ..

theorem Kept.freshWord (s : State) : Kept [.free] s s.freshWord.2 := .free_upd ..

theorem Kept.advance (s : State) (dt : Nat) : Kept [.now] s (State.advance s dt) := by
  unfold State.advance
  repeat' with_reducible first
    | exact .refl _
    | refine .ite ?_ ?_
    | split
    | refine .step ?_ (by with_reducible first
        | exact .now_upd ..)

end Sys2Proof.Machine
end

