-- ==== Sys2Proof/Laws/KeptDmaReq.lean ====
section
/-! SUPPORT. What each operation of Machine/DmaReq.lean keeps. -/

namespace Sys2Proof.Machine
open Sys2Proof
set_option Elab.async false

theorem Kept.dmaBlockStart (s : State) (ch : Nat) : Kept [.dma, .block .dma] s (State.dmaBlockStart s ch) := by
  unfold State.dmaBlockStart
  dsimp only
  repeat' with_reducible first
    | exact .refl _
    | refine .step ?_ (by with_reducible first
        | exact .flag .. | exact .put ..)
    | refine .ite ?_ ?_
    | split
    | refine .step ?_ (by with_reducible first
        | exact .dma_upd ..)

end Sys2Proof.Machine
end

