-- ==== Sys2Proof/Laws/KeptFlags.lean ====
section
/-! SUPPORT. What each operation of Machine/Flags.lean keeps. -/

namespace Sys2Proof.Machine
open Sys2Proof
set_option Elab.async false

theorem Kept.evrTrigger (s : State) (ch : Nat) : Kept [.dma, .dmaReq, .block .dma] s (State.evrTrigger s ch) := by
  unfold State.evrTrigger
  repeat' with_reducible first
    | exact .refl _
    | refine .step ?_ (by with_reducible first
        | exact .dmaBlockStart ..)
    | refine .ite ?_ ?_
    | split
    | refine .step ?_ (by with_reducible first
        | exact .dmaReq_upd ..)

theorem Kept.withLine {F : List Part} {r s : State} {p : Page} {f : State → State} (hs : Kept F r s)
    (hF : [.dma, .dmaReq, .evrAt, .block .dma] ⊆ F) (hf : ∀ t, Kept F t (f t)) : Kept F r (s.withLine p f) := by
  have hs := hs.trans (hf s)
  have hr (n : Nat) := hs.step (.evrAt_upd (f s) (mapSet (fun _ => 0) (f s).evrAt n ((f s).now + 1)))
    fun _ h => hF (by simp_all)
  unfold State.withLine
  dsimp only
  split
  · split
    · split
      · exact .step (hr _) (.evrTrigger ..) fun _ h => hF (by simp_all; tauto)
      · exact hr _
    · exact hs
  · exact hs

theorem Kept.evtBits (s : State) (p : Page) (m : Nat) :
    Kept [.dma, .dmaReq, .evrAt, .block .dma, .block p.blk] s (s.evtBits p m) :=
  .withLine (.refl s) (by simp) fun _ => .step (.refl _) (.put ..) (by simp)

theorem Kept.evt (s : State) (p : Page) (x : Fld) :
    Kept [.dma, .dmaReq, .evrAt, .block .dma, .block p.blk] s (s.evt p x) := .evtBits ..

theorem Kept.evtIf (s : State) (c : Bool) (p : Page) (x : Fld) :
    Kept [.dma, .dmaReq, .evrAt, .block .dma, .block p.blk] s (s.evtIf c p x) := .ite (.evt ..) (.refl _)

theorem Kept.refuse (s : State) (p : Page) : Kept [.block p.blk] s (State.refuse s p) := by
  unfold State.refuse
  repeat' with_reducible first
    | exact .refl _
    | refine .step ?_ (by with_reducible first
        | exact .incSat ..)

theorem Kept.countCmd (s : State) (p : Page) : Kept [.block p.blk] s (State.countCmd s p) := by
  unfold State.countCmd
  repeat' with_reducible first
    | exact .refl _
    | refine .step ?_ (by with_reducible first
        | exact .incSat ..)

theorem Kept.status (s : State) (p : Page) (x : Fld) (st : Status) : Kept [.block p.blk] s (State.status s p x st) :=
    by
  unfold State.status
  dsimp only
  repeat' with_reducible first
    | exact .refl _
    | refine .step ?_ (by with_reducible first
        | exact .put .. | exact .countCmd ..)
    | split

theorem Kept.command {F : List Part} {r s : State} {p : Page} {x : Fld} {ok : Bool} {f : State → State} (hs : Kept F
    r s)
    (hF : [.block p.blk] ⊆ F) (hf : ∀ t, Kept F t (f t)) : Kept F r (s.command p x ok f) :=
  .ite (.step (hs.trans (hf s)) (.status ..) hF) (.step hs (.status ..) hF)

end Sys2Proof.Machine
end

