-- ==== Sys2Proof/Laws/KeptLog.lean ====
section
/-! SUPPORT. What each operation of Machine/Log.lean keeps. -/

namespace Sys2Proof.Machine
open Sys2Proof
set_option Elab.async false

theorem Kept.logEntry (s : State) (code react machs aux stamp : Nat) : Kept [.dma, .dmaReq, .evrAt, .block .dma,
    .block .hlo] s (State.logEntry s code react machs aux stamp) := by
  unfold State.logEntry
  dsimp only
  repeat' with_reducible first
    | exact .refl _
    | refine .step ?_ (by with_reducible first
        | exact .put .. | exact .put64 .. | exact .incWrap .. | exact .evt ..)

theorem Kept.abortTransition (s : State) : Kept [.block .sys] s (State.abortTransition s) := by
  unfold State.abortTransition
  repeat' with_reducible first
    | exact .refl _
    | refine .step ?_ (by with_reducible first
        | exact .flag .. | exact .put ..)
    | refine .ite ?_ ?_
    | split

theorem Kept.note (s : State) (code react machs aux : Nat) : Kept [.dma, .dmaReq, .evrAt, .block .dma, .block .hlo,
    .block .sys] s (State.note s code react machs aux) := by
  unfold State.note
  repeat' with_reducible first
    | exact .refl _
    | refine .step ?_ (by with_reducible first
        | exact .abortTransition .. | exact .logEntry ..)

end Sys2Proof.Machine
end

