-- ==== Sys2Proof/Laws/KeptPins.lean ====
section
/-! SUPPORT. What each operation of Machine/Pins.lean keeps. -/

namespace Sys2Proof.Machine
open Sys2Proof
set_option Elab.async false

theorem Kept.tpwSet (s : State) (n : Fin 6) (f : TpwH → TpwH) : Kept [.tpw] s (State.tpwSet s n f) := by
  unfold State.tpwSet
  repeat' with_reducible first
    | exact .refl _
    | refine .step ?_ (by with_reducible first
        | exact .tpw_upd ..)

theorem Kept.posFollow (s : State) (m : Nat) : Kept [.dma, .dmaReq, .evrAt, .pos, .block .dma, .block .hlo, .block
    .pos, .block .sys] s (State.posFollow s m) := by
  unfold State.posFollow
  dsimp only
  repeat' with_reducible first
    | exact .refl _
    | refine .step ?_ (by with_reducible first
        | exact .put .. | exact .incSat .. | exact .evt .. | exact .note ..)
    | refine .ite ?_ ?_
    | split
    | refine .step ?_ (by with_reducible first
        | exact .pos_upd ..)

theorem Kept.tpwPatternAt (s : State) (n : Fin 6) (pat src t : Nat) : Kept [.dma, .dmaReq, .evrAt, .pos, .tpw, .block
    .dma, .block .hlo, .block .pos, .block .sys, .block .tpw] s (State.tpwPatternAt s n pat src t) := by
  unfold State.tpwPatternAt
  dsimp only
  repeat' with_reducible first
    | exact .refl _
    | refine .step ?_ (by with_reducible first
        | exact .tpwSet .. | exact .put .. | exact .flag .. | exact .evtIf .. | exact .posFollow ..)
    | intro _

theorem Kept.tpwPattern (s : State) (n : Fin 6) (pat src : Nat) : Kept [.dma, .dmaReq, .evrAt, .pos, .tpw, .block
    .dma, .block .hlo, .block .pos, .block .sys, .block .tpw] s (State.tpwPattern s n pat src) := by
  unfold State.tpwPattern
  repeat' with_reducible first
    | exact .refl _
    | refine .step ?_ (by with_reducible first
        | exact .tpwPatternAt ..)

theorem Kept.tpwRefresh (s : State) (n : Fin 6) : Kept [.dma, .dmaReq, .evrAt, .pos, .tpw, .block .dma, .block .hlo,
    .block .pos, .block .sys, .block .tpw] s (State.tpwRefresh s n) := by
  unfold State.tpwRefresh
  dsimp only
  repeat' with_reducible first
    | exact .refl _
    | refine .step ?_ (by with_reducible first
        | exact .flag .. | exact .tpwPattern .. | exact .put .. | exact .tpwSet ..)
    | refine .ite ?_ ?_
    | intro _
    | split

theorem Kept.tpwRefreshAll (s : State) : Kept [.dma, .dmaReq, .evrAt, .pos, .tpw, .block .dma, .block .hlo, .block
    .pos, .block .sys, .block .tpw] s (State.tpwRefreshAll s) := by
  unfold State.tpwRefreshAll
  repeat' with_reducible first
    | exact .refl _
    | refine .step ?_ (by with_reducible first
        | exact .tpwRefresh ..)
    | refine .foldl ?_ ?_ _
    | intro _

theorem Kept.tpwRequest (s : State) (n : Fin 6) (pat : Nat) : Kept [.dma, .dmaReq, .evrAt, .pos, .tpw, .block .dma,
    .block .hlo, .block .pos, .block .sys, .block .tpw] s (State.tpwRequest s n pat) := by
  unfold State.tpwRequest
  dsimp only
  repeat' with_reducible first
    | exact .refl _
    | refine .step ?_ (by with_reducible first
        | exact .tpwSet .. | exact .put .. | exact .tpwPattern ..)
    | refine .ite ?_ ?_
    | intro _
    | split

theorem Kept.tpwRequestAll (s : State) (m pat : Nat) : Kept [.dma, .dmaReq, .evrAt, .pos, .tpw, .block .dma, .block
    .hlo, .block .pos, .block .sys, .block .tpw] s (State.tpwRequestAll s m pat) := by
  unfold State.tpwRequestAll
  repeat' with_reducible first
    | exact .refl _
    | refine .step ?_ (by with_reducible first
        | exact .tpwRequest ..)
    | refine .ite ?_ ?_
    | refine .foldl ?_ ?_ _
    | intro _
    | split

theorem Kept.tpwRelease (s : State) (n : Fin 6) : Kept [.tpw] s (State.tpwRelease s n) := by
  unfold State.tpwRelease
  repeat' with_reducible first
    | exact .refl _
    | refine .step ?_ (by with_reducible first
        | exact .tpwSet ..)
    | intro _

end Sys2Proof.Machine
end

