-- ==== Sys2Proof/Laws/KeptStops.lean ====
section
/-! SUPPORT. What each operation of Machine/Stops.lean keeps. -/

namespace Sys2Proof.Machine
open Sys2Proof
set_option Elab.async false

theorem Kept.putBit (s : State) (p : Page) (x : Fld) (b : Nat) (v : Bool) : Kept [.block p.blk] s (State.putBit s p x
    b v) := by
  unfold State.putBit
  repeat' with_reducible first
    | exact .refl _
    | refine .step ?_ (by with_reducible first
        | exact .put ..)

theorem Kept.blockCmd {F : List Part} {r s : State} {p : Page} {x : Fld} {f : State → State} (hs : Kept F r s)
    (hF : [.block p.blk] ⊆ F) (hf : ∀ t, Kept F t (f t)) : Kept F r (s.blockCmd p x f) :=
  .ite (.step hs (.status ..) hF) (hs.trans (hf s))

theorem Kept.haloCmd {F : List Part} {r s : State} {req : Nat} {p : Page} {x : Fld} {f : State → State}
    (hs : Kept F r s) (hF : [.block p.blk] ⊆ F) (hf : ∀ t, Kept F t (f t)) : Kept F r (s.haloCmd req p x f) :=
  .ite (.blockCmd hs hF hf) (.step hs (.refuse ..) hF)

theorem Kept.msvSet (s : State) (m : Nat) (f : MsvH → MsvH) : Kept [.msv] s (State.msvSet s m f) := by
  unfold State.msvSet
  repeat' with_reducible first
    | exact .refl _
    | refine .ite ?_ ?_
    | split
    | refine .step ?_ (by with_reducible first
        | exact .msv_upd ..)

theorem Kept.stopSet (s : State) (m : Nat) (f : StopH → StopH) : Kept [.halo] s (State.stopSet s m f) := by
  unfold State.stopSet
  repeat' with_reducible first
    | exact .refl _
    | refine .ite ?_ ?_
    | split
    | refine .step ?_ (by with_reducible first
        | exact .halo_upd ..)

theorem Kept.lhActive (s : State) (m : Nat) : Kept [.block .msv] s (State.lhActive s m) := by
  unfold State.lhActive
  repeat' with_reducible first
    | exact .refl _
    | refine .step ?_ (by with_reducible first
        | exact .flag ..)

theorem Kept.msvGo (s : State) (m st : Nat) : Kept [.dma, .dmaReq, .evrAt, .halo, .msv, .block .dma, .block .msv] s
    (State.msvGo s m st) := by
  unfold State.msvGo
  dsimp only
  repeat' with_reducible first
    | exact .refl _
    | refine .step ?_ (by with_reducible first
        | exact .put .. | exact .msvSet .. | exact .stopSet .. | exact .flag .. | exact .lhActive ..
        | exact .evtIf ..)
    | refine .ite ?_ ?_
    | intro _
    | split

theorem Kept.msvRelease (s : State) (m : Nat) : Kept [.msv, .tpw, .block .msv] s (State.msvRelease s m) := by
  unfold State.msvRelease
  dsimp only
  repeat' with_reducible first
    | exact .refl _
    | refine .step ?_ (by with_reducible first
        | exact .put .. | exact .msvSet .. | exact .tpwRelease ..)
    | refine .ite ?_ ?_
    | refine .foldl ?_ ?_ _
    | intro _
    | split

theorem Kept.msvToSto (s : State) (m : Nat) : Kept [.dma, .dmaReq, .evrAt, .halo, .msv, .tpw, .block .dma, .block
    .msv] s (State.msvToSto s m) := by
  unfold State.msvToSto
  repeat' with_reducible first
    | exact .refl _
    | refine .step ?_ (by with_reducible first
        | exact .msvRelease .. | exact .msvGo ..)
    | refine .ite ?_ ?_
    | split

theorem Kept.msvStop (s : State) (m : Nat) : Kept [.dma, .dmaReq, .evrAt, .halo, .msv, .block .dma, .block .msv] s
    (State.msvStop s m) := by
  unfold State.msvStop
  repeat' with_reducible first
    | exact .refl _
    | refine .step ?_ (by with_reducible first
        | exact .msvGo .. | exact .put ..)
    | split

theorem Kept.msvSs1 (s : State) (m : Nat) : Kept [.dma, .dmaReq, .evrAt, .halo, .msv, .block .dma, .block .msv] s
    (State.msvSs1 s m) := by
  unfold State.msvSs1
  dsimp only
  repeat' with_reducible first
    | exact .refl _
    | refine .step ?_ (by with_reducible first
        | exact .msvGo .. | exact .flag ..)
    | refine .ite ?_ ?_
    | split

theorem Kept.ghbDeliver (s : State) : Kept [.dma, .dmaReq, .evrAt, .block .dma, .block .ghb] s (State.ghbDeliver s)
    := by
  unfold State.ghbDeliver
  dsimp only
  repeat' with_reducible first
    | exact .refl _
    | refine .step ?_ (by with_reducible first
        | exact .put .. | exact .incWrap .. | exact .evt ..)
    | refine .ite ?_ ?_
    | refine .foldl ?_ ?_ _
    | intro _
    | split

theorem Kept.msvPrearm (s : State) (m c : Nat) : Kept [.dma, .dmaReq, .evrAt, .block .dma, .block .ghb, .block .msv]
    s (State.msvPrearm s m c) := by
  unfold State.msvPrearm
  repeat' with_reducible first
    | exact .refl _
    | refine .step ?_ (by with_reducible first
        | exact .put .. | exact .evt .. | exact .ghbDeliver ..)
    | refine .ite ?_ ?_
    | split

theorem Kept.ghbBegin (s : State) (l : Fin 15) (level odd : Bool) : Kept [.halo] s (State.ghbBegin s l level odd) :=
    by
  unfold State.ghbBegin
  dsimp only
  repeat' with_reducible first
    | exact .refl _
    | refine .step ?_ (by with_reducible first
        | exact .halo_upd ..)

theorem Kept.ghbStart (s : State) : Kept [.halo, .block .ghb] s (State.ghbStart s) := by
  unfold State.ghbStart
  repeat' with_reducible first
    | exact .refl _
    | refine .step ?_ (by with_reducible first
        | exact .ghbBegin .. | exact .put ..)
    | refine .foldl ?_ ?_ _
    | intro _

theorem Kept.ghbStop (s : State) : Kept [.halo, .block .ghb] s (State.ghbStop s) := by
  unfold State.ghbStop
  repeat' with_reducible first
    | exact .refl _
    | refine .step ?_ (by with_reducible first
        | exact .put ..)
    | refine .step ?_ (by with_reducible first
        | exact .halo_upd ..)

theorem Kept.sbcSet (s : State) (c : Fin 2) (f : SbcH → SbcH) : Kept [.halo] s (State.sbcSet s c f) := by
  unfold State.sbcSet
  repeat' with_reducible first
    | exact .refl _
    | refine .step ?_ (by with_reducible first
        | exact .halo_upd ..)

theorem Kept.sbcApply (s : State) (c : Fin 2) : Kept [.halo, .block .ssf] s (State.sbcApply s c) := by
  unfold State.sbcApply
  dsimp only
  repeat' with_reducible first
    | exact .refl _
    | refine .step ?_ (by with_reducible first
        | exact .sbcSet .. | exact .put .. | exact .putBit ..)
    | refine .ite ?_ ?_
    | intro _
    | split

theorem Kept.sbcOnSto (s : State) (m : Nat) : Kept [.halo, .block .ssf] s (State.sbcOnSto s m) := by
  unfold State.sbcOnSto
  dsimp only
  repeat' with_reducible first
    | exact .refl _
    | refine .step ?_ (by with_reducible first
        | exact .sbcApply .. | exact .sbcSet ..)
    | refine .ite ?_ ?_
    | refine .foldl ?_ ?_ _
    | intro _
    | split

theorem Kept.stoRecord (s : State) (m : Nat) : Kept [.block .sto] s (State.stoRecord s m) := by
  unfold State.stoRecord
  dsimp only
  repeat' with_reducible first
    | exact .refl _
    | refine .step ?_ (by with_reducible first
        | exact .put ..)
    | refine .ite ?_ ?_
    | split

theorem Kept.pathsLow (s : State) (l : Fin 4) : Kept [.halo] s (State.pathsLow s l) := by
  unfold State.pathsLow
  repeat' with_reducible first
    | exact .refl _
    | refine .step ?_ (by with_reducible first
        | exact .halo_upd ..)

theorem Kept.pathARelease (s : State) (l : Fin 4) : Kept [.halo] s (State.pathARelease s l) := by
  unfold State.pathARelease
  repeat' with_reducible first
    | exact .refl _
    | refine .ite ?_ ?_
    | split
    | refine .step ?_ (by with_reducible first
        | exact .halo_upd ..)

theorem Kept.ss1End (s : State) (m st : Nat) : Kept [.dma, .dmaReq, .evrAt, .halo, .block .dma, .block .ssf] s
    (State.ss1End s m st) := by
  unfold State.ss1End
  dsimp only
  repeat' with_reducible first
    | exact .refl _
    | refine .step ?_ (by with_reducible first
        | exact .putBit .. | exact .put .. | exact .stopSet .. | exact .incSat .. | exact .evt ..)
    | refine .ite ?_ ?_
    | intro _
    | split

theorem Kept.stoAssert (s : State) (m : Nat) : Kept [.dma, .dmaReq, .evrAt, .halo, .msv, .pos, .tpw, .block .dma,
    .block .hlo, .block .msv, .block .pos, .block .ssf, .block .sto, .block .sys, .block .tpw] s (State.stoAssert s
    m) := by
  unfold State.stoAssert
  dsimp only
  repeat' with_reducible first
    | exact .refl _
    | refine .step ?_ (by with_reducible first
        | exact .pathsLow .. | exact .stoRecord .. | exact .putBit .. | exact .incSat .. | exact .evt ..
        | exact .ss1End .. | exact .msvToSto .. | exact .sbcOnSto .. | exact .tpwRefreshAll ..)
    | refine .ite ?_ ?_
    | split

theorem Kept.stoEval (s : State) : Kept [.dma, .dmaReq, .evrAt, .halo, .msv, .pos, .tpw, .block .dma, .block .hlo,
    .block .msv, .block .pos, .block .ssf, .block .sto, .block .sys, .block .tpw] s (State.stoEval s) := by
  unfold State.stoEval
  repeat' with_reducible first
    | exact .refl _
    | refine .step ?_ (by with_reducible first
        | exact .stoAssert .. | exact .stoRecord ..)
    | refine .ite ?_ ?_
    | refine .foldl ?_ ?_ _
    | intro _
    | split

theorem Kept.cpwPins (s : State) (n : Nat) (f : Pins → Pins) : Kept [.cpw] s (State.cpwPins s n f) := by
  unfold State.cpwPins
  repeat' with_reducible first
    | exact .refl _
    | refine .ite ?_ ?_
    | split
    | refine .step ?_ (by with_reducible first
        | exact .cpw_upd ..)

theorem Kept.cpwLegLow (s : State) (n leg : Nat) : Kept [.cpw] s (State.cpwLegLow s n leg) := by
  unfold State.cpwLegLow
  repeat' with_reducible first
    | exact .refl _
    | refine .step ?_ (by with_reducible first
        | exact .cpwPins ..)
    | intro _

theorem Kept.cpwPlace (s : State) (n : Nat) (f : Pins → Pins) : Kept [.cpw] s (State.cpwPlace s n f) := by
  unfold State.cpwPlace
  repeat' with_reducible first
    | exact .refl _
    | refine .step ?_ (by with_reducible first
        | exact .cpwPins ..)
    | refine .ite ?_ ?_
    | intro _
    | split

theorem Kept.cpwFreeze (s : State) (n : Nat) : Kept [.cpw] s (State.cpwFreeze s n) := by
  unfold State.cpwFreeze
  repeat' with_reducible first
    | exact .refl _
    | refine .step ?_ (by with_reducible first
        | exact .cpwPins ..)
    | refine .ite ?_ ?_
    | intro _
    | split

theorem Kept.cpwLow (s : State) (n : Nat) : Kept [.cpw] s (State.cpwLow s n) := by
  unfold State.cpwLow
  repeat' with_reducible first
    | exact .refl _
    | refine .step ?_ (by with_reducible first
        | exact .cpwLegLow ..)
    | refine .foldl ?_ ?_ _
    | intro _

theorem Kept.dcdGo (s : State) (st : Nat) : Kept [.dma, .dmaReq, .evrAt, .block .dcd, .block .dma] s (State.dcdGo s
    st) := by
  unfold State.dcdGo
  dsimp only
  repeat' with_reducible first
    | exact .refl _
    | refine .step ?_ (by with_reducible first
        | exact .put .. | exact .evtIf ..)

theorem Kept.dcdPhaseLow (s : State) (p : Nat) : Kept [.cpw] s (State.dcdPhaseLow s p) := by
  unfold State.dcdPhaseLow
  repeat' with_reducible first
    | exact .refl _
    | refine .step ?_ (by with_reducible first
        | exact .cpwLegLow ..)
    | refine .foldl ?_ ?_ _
    | refine .foldlSnd ?_ _ _ _ | refine .foldlFst ?_ _ _ _
    | intro _

theorem Kept.dcdModes (s : State) : Kept [.dma, .dmaReq, .evrAt, .block .dcd, .block .dma] s (State.dcdModes s) := by
  unfold State.dcdModes
  dsimp only
  repeat' with_reducible first
    | exact .refl _
    | refine .step ?_ (by with_reducible first
        | exact .put .. | exact .flag .. | exact .evtIf ..)
    | intro _

theorem Kept.dcdLow (s : State) : Kept [.cpw, .dcd, .dma, .dmaReq, .evrAt, .block .dcd, .block .dma] s (State.dcdLow
    s) := by
  unfold State.dcdLow
  dsimp only
  repeat' with_reducible first
    | exact .refl _
    | refine .step ?_ (by with_reducible first
        | exact .cpwLow .. | exact .dcdModes ..)
    | refine .foldl ?_ ?_ _
    | intro _
    | refine .step ?_ (by with_reducible first
        | exact .dcd_upd ..)

theorem Kept.dcdStop (s : State) : Kept [.cpw, .dcd, .dma, .dmaReq, .evrAt, .block .dcd, .block .dma] s
    (State.dcdStop s) := by
  unfold State.dcdStop
  repeat' with_reducible first
    | exact .refl _
    | refine .step ?_ (by with_reducible first
        | exact .dcdLow .. | exact .dcdGo ..)
    | refine .ite ?_ ?_
    | split
    | refine .step ?_ (by with_reducible first
        | exact .dcd_upd ..)

theorem Kept.dcdFault (s : State) : Kept [.cpw, .dcd, .dma, .dmaReq, .evrAt, .block .dcd, .block .dma] s
    (State.dcdFault s) := by
  unfold State.dcdFault
  repeat' with_reducible first
    | exact .refl _
    | refine .step ?_ (by with_reducible first
        | exact .dcdLow .. | exact .dcdGo ..)
    | refine .ite ?_ ?_
    | split

theorem Kept.dcdRefresh (s : State) : Kept [.cpw, .dcd, .dma, .dmaReq, .evrAt, .block .dcd, .block .dma] s
    (State.dcdRefresh s) := by
  unfold State.dcdRefresh
  dsimp only
  repeat' with_reducible first
    | exact .refl _
    | refine .step ?_ (by with_reducible first
        | exact .dcdLow .. | exact .dcdGo ..)
    | refine .ite ?_ ?_
    | split

theorem Kept.bchLow (s : State) : Kept [.bch, .cpw] s (State.bchLow s) := by
  unfold State.bchLow
  dsimp only
  repeat' with_reducible first
    | exact .refl _
    | refine .step ?_ (by with_reducible first
        | exact .cpwLegLow ..)
    | intro _
    | refine .step ?_ (by with_reducible first
        | exact .bch_upd ..)

theorem Kept.bchHold (s : State) : Kept [.bch, .cpw, .block .bch] s (State.bchHold s) := by
  unfold State.bchHold
  repeat' with_reducible first
    | exact .refl _
    | refine .step ?_ (by with_reducible first
        | exact .bchLow .. | exact .put ..)
    | refine .ite ?_ ?_
    | split

theorem Kept.obcLow (s : State) : Kept [.cpw, .obc] s (State.obcLow s) := by
  unfold State.obcLow
  repeat' with_reducible first
    | exact .refl _
    | refine .step ?_ (by with_reducible first
        | exact .cpwLow ..)
    | refine .step ?_ (by with_reducible first
        | exact .obc_upd ..)

theorem Kept.obcRefresh (s : State) : Kept [.cpw] s (State.obcRefresh s) := by
  unfold State.obcRefresh
  repeat' with_reducible first
    | exact .refl _
    | refine .step ?_ (by with_reducible first
        | exact .cpwLow ..)
    | refine .ite ?_ ?_
    | split

theorem Kept.obcGo (s : State) (st : Nat) : Kept [.dma, .dmaReq, .evrAt, .block .dma, .block .obc] s (State.obcGo s
    st) := by
  unfold State.obcGo
  dsimp only
  repeat' with_reducible first
    | exact .refl _
    | refine .step ?_ (by with_reducible first
        | exact .put .. | exact .evtIf ..)

theorem Kept.obcSet (s : State) (f : ObcH → ObcH) : Kept [.obc] s (State.obcSet s f) := by
  unfold State.obcSet
  repeat' with_reducible first
    | exact .refl _
    | refine .step ?_ (by with_reducible first
        | exact .obc_upd ..)

theorem Kept.obcTick (s : State) : Kept [.obc, .block .obc] s (State.obcTick s) := by
  unfold State.obcTick
  dsimp only
  repeat' with_reducible first
    | exact .refl _
    | refine .step ?_ (by with_reducible first
        | exact .put64 .. | exact .obcSet ..)
    | refine .ite ?_ ?_
    | intro _
    | split

theorem Kept.obcStopping (s : State) (cause : Nat) : Kept [.dev, .dma, .dmaReq, .evrAt, .obc, .block .dma, .block
    .obc] s (State.obcStopping s cause) := by
  unfold State.obcStopping
  dsimp only
  repeat' with_reducible first
    | exact .refl _
    | refine .step ?_ (by with_reducible first
        | exact .obcTick .. | exact .put .. | exact .cause .. | exact .obcGo ..)
    | refine .ite ?_ ?_
    | split
    | refine .step ?_ (by with_reducible first
        | exact .obc_upd ..)

theorem Kept.actSet (s : State) (n : Fin 6) (f : ActH → ActH) : Kept [.act] s (State.actSet s n f) := by
  unfold State.actSet
  repeat' with_reducible first
    | exact .refl _
    | refine .step ?_ (by with_reducible first
        | exact .act_upd ..)

theorem Kept.actPat (s : State) (n : Fin 6) (pat : Nat) : Kept [.dma, .dmaReq, .evrAt, .block .act, .block .dma] s
    (State.actPat s n pat) := by
  unfold State.actPat
  dsimp only
  repeat' with_reducible first
    | exact .refl _
    | refine .step ?_ (by with_reducible first
        | exact .put .. | exact .evtIf ..)

theorem Kept.actLow (s : State) (n : Fin 6) : Kept [.act, .dma, .dmaReq, .evrAt, .block .act, .block .dma] s
    (State.actLow s n) := by
  unfold State.actLow
  repeat' with_reducible first
    | exact .refl _
    | refine .step ?_ (by with_reducible first
        | exact .actSet .. | exact .actPat ..)
    | intro _

theorem Kept.actGo (s : State) (n : Fin 6) (st : Nat) : Kept [.act, .dma, .dmaReq, .evrAt, .block .act, .block .dma]
    s (State.actGo s n st) := by
  unfold State.actGo
  dsimp only
  repeat' with_reducible first
    | exact .refl _
    | refine .step ?_ (by with_reducible first
        | exact .actSet .. | exact .put .. | exact .evtIf ..)
    | refine .ite ?_ ?_
    | intro _
    | split

theorem Kept.actRefresh (s : State) (n : Fin 6) : Kept [.act, .dma, .dmaReq, .evrAt, .block .act, .block .dma] s
    (State.actRefresh s n) := by
  unfold State.actRefresh
  dsimp only
  repeat' with_reducible first
    | exact .refl _
    | refine .step ?_ (by with_reducible first
        | exact .actLow .. | exact .actSet .. | exact .actGo ..)
    | refine .ite ?_ ?_
    | intro _
    | split

theorem Kept.actRefreshAll (s : State) : Kept [.act, .dma, .dmaReq, .evrAt, .block .act, .block .dma] s
    (State.actRefreshAll s) := by
  unfold State.actRefreshAll
  repeat' with_reducible first
    | exact .refl _
    | refine .step ?_ (by with_reducible first
        | exact .actRefresh ..)
    | refine .foldl ?_ ?_ _
    | intro _

theorem Kept.convRecord (s : State) : Kept [.block .sto] s (State.convRecord s) := by
  unfold State.convRecord
  dsimp only
  repeat' with_reducible first
    | exact .refl _
    | refine .step ?_ (by with_reducible first
        | exact .put ..)
    | refine .ite ?_ ?_
    | split

theorem Kept.convAssert (s : State) : Kept [.cpw, .dcd, .dma, .dmaReq, .evrAt, .halo, .block .dcd, .block .dma,
    .block .sto] s (State.convAssert s) := by
  unfold State.convAssert
  dsimp only
  repeat' with_reducible first
    | exact .refl _
    | refine .step ?_ (by with_reducible first
        | exact .pathsLow .. | exact .flag .. | exact .evt .. | exact .convRecord .. | exact .dcdRefresh ..
        | exact .obcRefresh ..)
    | refine .ite ?_ ?_
    | split

end Sys2Proof.Machine
end

