-- ==== Sys2Proof/Laws/KeptReaction.lean ====
section
/-! SUPPORT. What each operation of Machine/Reaction.lean keeps. -/

namespace Sys2Proof.Machine
open Sys2Proof
set_option Elab.async false

theorem Kept.logFirst (s : State) (code machs aux stamp : Nat) : Kept [.block .hlo] s (State.logFirst s code machs
    aux stamp) := by
  unfold State.logFirst
  dsimp only
  repeat' with_reducible first
    | exact .refl _
    | refine .step ?_ (by with_reducible first
        | exact .put .. | exact .put64 ..)
    | refine .ite ?_ ?_
    | split

theorem Kept.csetLast (s : State) (p : Page) (code : Nat) : Kept [.block p.blk] s (State.csetLast s p code) := by
  unfold State.csetLast
  dsimp only
  repeat' with_reducible first
    | exact .refl _
    | refine .step ?_ (by with_reducible first
        | exact .put .. | exact .incSat ..)
    | refine .ite ?_ ?_
    | split

theorem Kept.csetEnd (s : State) (r : Fin 16) (code : Nat) :
    Kept (Part.andRegs [.sets]) s (State.csetEnd s r code) :=
  .step (.foldl (fun t _ => .step (.step (.refl t) (.put ..) (by simp)) (.csetLast ..) (by simp)) (.refl s) _)
    (.sets_upd ..) (by decide +kernel)

theorem Kept.csetStop (s : State) : Kept (Part.andRegs [.sets]) s (State.csetStop s).1 := by
  refine .foldlFst (fun a r => ?_) _ _ _
  dsimp only
  repeat' split
  all_goals first
    | exact .refl _
    | exact .step (.refl _) (.sets_upd ..) (by decide +kernel)
    | exact .csetEnd ..

theorem Kept.loseLocks (s : State) (r : Nat) : Kept [.adhLost, .dma, .dmaReq, .evrAt, .block .adh, .block .crc,
    .block .dma, .block .hlo, .block .sys] s (State.loseLocks s r) := by
  unfold State.loseLocks
  dsimp only
  repeat' with_reducible first
    | exact .refl _
    | refine .step ?_ (by with_reducible first
        | exact .flag .. | exact .put .. | exact .note .. | exact .evt .. | exact .putBit ..)
    | refine .ite ?_ ?_
    | refine .foldl ?_ ?_ _
    | intro _
    | split
    | refine .step ?_ (by with_reducible first
        | exact .adhLost_upd .. | exact .dma_upd ..)

theorem Kept.slgPush (s : State) (kind w4 w5 w6 : Nat) (set : Option (Fin 16)) : Kept [.scf] s (State.slgPush s kind
    w4 w5 w6 set) := by
  unfold State.slgPush
  repeat' with_reducible first
    | exact .refl _
    | refine .step ?_ (by with_reducible first
        | exact .scf_upd ..)

theorem Kept.scfClose (s : State) (cause : Nat) : Kept (Part.andRegs [.dev, .dma, .dmaReq, .evrAt, .scf, .sets]) s
    (State.scfClose s cause) := by
  unfold State.scfClose
  dsimp only
  repeat' with_reducible first
    | exact .refl _
    | refine .step ?_ (by with_reducible first
        | exact .put .. | exact .evt .. | exact .slgPush .. | exact .cause .. | exact .csetEnd ..)
    | refine .ite ?_ ?_
    | split

theorem Kept.canInit (s : State) (i : Nat) : Kept [.canH, .dma, .dmaReq, .evrAt, .block .can, .block .dma] s
    (State.canInit s i) := by
  unfold State.canInit
  dsimp only
  repeat' with_reducible first
    | exact .refl _
    | refine .step ?_ (by with_reducible first
        | exact .put .. | exact .flag .. | exact .evtIf ..)
    | refine .ite ?_ ?_
    | split
    | refine .step ?_ (by with_reducible first
        | exact .canH_upd ..)

theorem Kept.clfOff (s : State) : Kept [.clf, .dma, .dmaReq, .evrAt, .block .clf, .block .dma] s (State.clfOff s) :=
    by
  unfold State.clfOff
  dsimp only
  repeat' with_reducible first
    | exact .refl _
    | refine .step ?_ (by with_reducible first
        | exact .put .. | exact .evtIf ..)
    | intro _
    | refine .step ?_ (by with_reducible first
        | exact .clf_upd ..)

theorem Kept.watchdogOff (s : State) : Kept [.halo] s (State.watchdogOff s) := by
  unfold State.watchdogOff
  repeat' with_reducible first
    | exact .refl _
    | refine .step ?_ (by with_reducible first
        | exact .halo_upd ..)

theorem Kept.holdPairs (s : State) : Kept [.lks] s (State.holdPairs s) := by
  unfold State.holdPairs
  dsimp only
  repeat' with_reducible first
    | exact .refl _
    | refine .step ?_ (by with_reducible first
        | exact .lks_upd ..)

theorem Kept.enterHalo (s : State) (old d : DState) : Kept (Part.andRegs [.dev, .dma, .dmaReq, .evrAt, .halo, .lks,
    .scf, .sets]) s (State.enterHalo s old d) := by
  unfold State.enterHalo
  dsimp only
  repeat' with_reducible first
    | exact .refl _
    | refine .step ?_ (by with_reducible first
        | exact .scfClose .. | exact .ghbStart .. | exact .ghbStop .. | exact .watchdogOff ..
        | exact .holdPairs ..)
    | refine .ite ?_ ?_
    | split
    | refine .step ?_ (by with_reducible first
        | exact .halo_upd ..)

theorem Kept.restFunctions (s : State) : Kept [.act, .bch, .canH, .clf, .cpw, .dcd, .dma, .dmaReq, .evrAt, .halo,
    .block .act, .block .bch, .block .can, .block .clf, .block .dcd, .block .dma, .block .ssf, .block .sto] s
    (State.restFunctions s) := by
  unfold State.restFunctions
  dsimp only
  repeat' with_reducible first
    | exact .refl _
    | refine .step ?_ (by with_reducible first
        | exact .convAssert .. | exact .sbcApply .. | exact .dcdLow .. | exact .dcdGo .. | exact .bchHold ..
        | exact .actRefreshAll .. | exact .canInit .. | exact .clfOff ..)
    | refine .ite ?_ ?_
    | refine .foldl ?_ ?_ _
    | intro _
    | split

theorem Kept.enterCharger (s : State) (old d : DState) : Kept [.cpw, .dev, .dma, .dmaReq, .evrAt, .obc, .block .dma,
    .block .obc] s (State.enterCharger s old d) := by
  unfold State.enterCharger
  dsimp only
  repeat' with_reducible first
    | exact .refl _
    | refine .step ?_ (by with_reducible first
        | exact .obcStopping .. | exact .obcLow ..)
    | refine .ite ?_ ?_
    | split

theorem Kept.enterPaths (s : State) (old d : DState) : Kept [.dma, .dmaReq, .evrAt, .halo, .msv, .pos, .tpw, .block
    .dma, .block .hlo, .block .msv, .block .pos, .block .ssf, .block .sto, .block .sys, .block .tpw] s
    (State.enterPaths s old d) := by
  unfold State.enterPaths
  dsimp only
  repeat' with_reducible first
    | exact .refl _
    | refine .step ?_ (by with_reducible first
        | exact .convRecord .. | exact .pathARelease .. | exact .stoEval ..)
    | refine .ite ?_ ?_
    | refine .foldl ?_ ?_ _
    | refine .foldlSnd ?_ _ _ _ | refine .foldlFst ?_ _ _ _
    | intro _
    | split

theorem Kept.enter (s : State) (d : DState) : Kept (Part.andRegs [.act, .bch, .canH, .clf, .cpw, .dcd, .dev, .dma,
    .dmaReq, .evrAt, .halo, .lks, .msv, .obc, .pos, .scf, .sets, .tpw]) s (State.enter s d) := by
  unfold State.enter
  dsimp only
  repeat' with_reducible first
    | exact .refl _
    | refine .step ?_ (by with_reducible first
        | exact .put .. | exact .flag .. | exact .evt .. | exact .enterHalo .. | exact .restFunctions ..
        | exact .enterCharger .. | exact .enterPaths .. | exact .tpwRefreshAll ..)
    | refine .ite ?_ ?_
    | split

theorem Kept.safeHoldNow (s : State) : Kept (.pos :: Part.reaction) s (State.safeHoldNow s) := by
  unfold State.safeHoldNow
  dsimp only
  repeat' with_reducible first
    | exact .refl _
    | refine .step ?_ (by with_reducible first
        | exact .flag .. | exact .enter .. | exact .loseLocks ..)
    | refine .ite ?_ ?_
    | split

theorem Kept.stopCommits (s : State) : Kept (Part.andRegs [.dma, .dmaReq, .evrAt, .sets]) s (State.stopCommits s) :=
    by
  unfold State.stopCommits
  dsimp only
  repeat' with_reducible first
    | exact .refl _
    | refine .step ?_ (by with_reducible first
        | exact .csetStop .. | exact .evt .. | exact .note ..)
    | refine .ite ?_ ?_
    | (rename_i h; refine .ofSnd h ?_) | (rename_i h; refine .ofFst h ?_)
    | split

theorem Kept.applyFr4 (s : State) (m : Nat) : Kept [.dma, .dmaReq, .evrAt, .halo, .msv, .pos, .tpw, .block .dma,
    .block .hlo, .block .msv, .block .pos, .block .ssf, .block .sto, .block .sys, .block .tpw] s (State.applyFr4 s m)
    := by
  unfold State.applyFr4
  dsimp only
  repeat' with_reducible first
    | exact .refl _
    | refine .step ?_ (by with_reducible first
        | exact .putBit .. | exact .evt .. | exact .ss1End .. | exact .stoAssert ..)
    | refine .ite ?_ ?_
    | split

theorem Kept.escalate (s : State) (m code : Nat) : Kept (Part.andRegs [.dma, .dmaReq, .evrAt, .halo, .msv, .pos,
    .sets, .tpw]) s (State.escalate s m code) := by
  unfold State.escalate
  dsimp only
  repeat' with_reducible first
    | exact .refl _
    | refine .step ?_ (by with_reducible first
        | exact .note .. | exact .evt .. | exact .put .. | exact .incSat .. | exact .stopSet ..
        | exact .applyFr4 .. | exact .stopCommits ..)
    | refine .ite ?_ ?_
    | intro _
    | split

theorem Kept.stopSelect (s : State) (m : Nat) : Kept (Part.andRegs [.dma, .dmaReq, .evrAt, .halo, .msv, .pos, .sets,
    .tpw]) s (State.stopSelect s m) := by
  unfold State.stopSelect
  dsimp only
  repeat' with_reducible first
    | exact .refl _
    | refine .step ?_ (by with_reducible first
        | exact .stopSet .. | exact .put .. | exact .incSat .. | exact .evt .. | exact .stoAssert ..
        | exact .escalate .. | exact .putBit .. | exact .setWord .. | exact .msvSs1 ..)
    | refine .ite ?_ ?_
    | intro _
    | split

theorem Kept.applyFr3 (s : State) (m : Nat) : Kept (Part.andRegs [.dma, .dmaReq, .evrAt, .halo, .msv, .pos, .sets,
    .tpw]) s (State.applyFr3 s m) := by
  unfold State.applyFr3
  dsimp only
  repeat' with_reducible first
    | exact .refl _
    | refine .step ?_ (by with_reducible first
        | exact .putBit .. | exact .evt .. | exact .stopSelect ..)
    | refine .ite ?_ ?_
    | split

theorem Kept.applyFr2 (s : State) (m : Nat) : Kept [.dma, .dmaReq, .evrAt, .halo, .msv, .block .dma, .block .msv] s
    (State.applyFr2 s m) := by
  unfold State.applyFr2
  repeat' with_reducible first
    | exact .refl _
    | refine .step ?_ (by with_reducible first
        | exact .msvStop ..)
    | refine .ite ?_ ?_
    | split

theorem Kept.machines {F : List Part} {r s : State} {mask : Nat} {f : State → Nat → State} (hs : Kept F r s)
    (hf : ∀ t m, Kept F t (f t m)) : Kept F r (s.machines mask f) :=
  .foldl (fun _ _ => .ite (hf _ _) (.refl _)) hs _

theorem Kept.raiseAt (s : State) (code react machs aux stamp : Nat) : Kept (.pos :: Part.reaction) s (State.raiseAt s
    code react machs aux stamp) := by
  unfold State.raiseAt
  dsimp only
  repeat' with_reducible first
    | exact .refl _
    | refine .step ?_ (by with_reducible first
        | exact .abortTransition .. | exact .logEntry .. | exact .applyFr2 .. | exact .applyFr3 ..
        | exact .applyFr4 .. | exact .logFirst .. | exact .safeHoldNow .. | exact .stopCommits ..)
    | refine .machines ?_ ?_
    | (show (_ : List Part) ⊆ _; first | exact Part.sub (by decide +kernel) | (dsimp only; exact Part.sub (by decide +kernel)) | simp [Part.reaction, Part.butPending, Part.andRegs])
    | refine .ite ?_ ?_
    | intro _
    | split

theorem Kept.raise (s : State) (code react machs : Nat) (aux : Nat) : Kept (.pos :: Part.reaction) s (State.raise s
    code react machs aux) := by
  unfold State.raise
  repeat' with_reducible first
    | exact .refl _
    | refine .step ?_ (by with_reducible first
        | exact .raiseAt ..)

end Sys2Proof.Machine
end

