-- ==== Sys2Proof/Laws/State.lean ====
section
/-! SUPPORT. Reads after writes: every field of the state after each update, and every register field after a write of a
register field. -/

namespace Sys2Proof.Machine
open Sys2Proof
set_option Elab.async false

/-! ### Bits of a number -/

theorem testBit_bits (v hi lo i : Nat) :
    (bits v hi lo).testBit i = (decide (i < hi + 1 - lo) && v.testBit (lo + i)) := by
  simp [bits, Nat.testBit_mod_two_pow, Nat.testBit_shiftRight]

theorem bits_lt (v hi lo : Nat) : bits v hi lo < 2 ^ (hi + 1 - lo) := Nat.mod_lt _ (Nat.two_pow_pos _)

/-- A value that a field holds, cut into the pieces below, in and above the field. -/
theorem setBits_split (v hi lo x : Nat) (h : lo ≤ hi + 1) :
    setBits v hi lo x = v % 2 ^ lo + 2 ^ lo * (x % 2 ^ (hi + 1 - lo)) + 2 ^ (hi + 1) * (v / 2 ^ (hi + 1)) := by
  have hp : 2 ^ (hi + 1) = 2 ^ lo * 2 ^ (hi + 1 - lo) := by rw [← pow_add]; congr 1; omega
  have h1 : v = v % 2 ^ lo + 2 ^ lo * (v / 2 ^ lo % 2 ^ (hi + 1 - lo)) + 2 ^ (hi + 1) * (v / 2 ^ (hi + 1)) := by
    have a := Nat.mod_add_div v (2 ^ lo)
    have b := Nat.mod_add_div (v / 2 ^ lo) (2 ^ (hi + 1 - lo))
    rw [Nat.div_div_eq_div_mul, ← hp] at b
    conv_lhs => rw [← a, ← b]
    rw [Nat.mul_add, hp]; ring
  unfold setBits bits
  rw [Nat.shiftRight_eq_div_pow, Nat.shiftLeft_eq, Nat.shiftLeft_eq, Nat.mul_comm _ (2 ^ lo), Nat.mul_comm _ (2 ^ lo)]
  omega

theorem testBit_setBits (v hi lo x i : Nat) (h : lo ≤ hi + 1) :
    (setBits v hi lo x).testBit i = if lo ≤ i ∧ i ≤ hi then x.testBit (i - lo) else v.testBit i := by
  rw [setBits_split v hi lo x h]
  have hl : v % 2 ^ lo < 2 ^ lo := Nat.mod_lt _ (Nat.two_pow_pos _)
  have hm : v % 2 ^ lo + 2 ^ lo * (x % 2 ^ (hi + 1 - lo)) < 2 ^ (hi + 1) := by
    have hx : x % 2 ^ (hi + 1 - lo) < 2 ^ (hi + 1 - lo) := Nat.mod_lt _ (Nat.two_pow_pos _)
    have hp : 2 ^ (hi + 1) = 2 ^ lo * 2 ^ (hi + 1 - lo) := by rw [← pow_add]; congr 1; omega
    have := Nat.mul_le_mul_left (2 ^ lo) (Nat.succ_le_of_lt hx)
    rw [hp]
    calc _ < 2 ^ lo + 2 ^ lo * (x % 2 ^ (hi + 1 - lo)) := by omega
      _ = 2 ^ lo * (x % 2 ^ (hi + 1 - lo) + 1) := by ring
      _ ≤ _ := this
  rw [Nat.add_comm, Nat.testBit_two_pow_mul_add _ hm]
  by_cases h1 : i < hi + 1
  · rw [if_pos h1, Nat.add_comm, Nat.testBit_two_pow_mul_add _ hl]
    by_cases h2 : i < lo
    · rw [if_pos h2, if_neg (by omega), Nat.testBit_mod_two_pow]; simp [h2]
    · rw [if_neg h2, if_pos (by omega), Nat.testBit_mod_two_pow]
      have : i - lo < hi + 1 - lo := by omega
      simp [this]
  · rw [if_neg h1, if_neg (by omega), Nat.testBit_div_two_pow]
    congr 1; omega

/-- A field reads back what was written, cut to its width. -/
theorem bits_setBits_same (v hi lo x : Nat) (h : lo ≤ hi + 1) :
    bits (setBits v hi lo x) hi lo = x % 2 ^ (hi + 1 - lo) := by
  apply Nat.eq_of_testBit_eq
  intro i
  rw [testBit_bits, testBit_setBits _ _ _ _ _ h, Nat.testBit_mod_two_pow]
  by_cases hi' : i < hi + 1 - lo
  · rw [if_pos (by omega), Nat.add_sub_cancel_left]
  · simp [hi']

/-- A field keeps its value when other bits of its word are written. -/
theorem bits_setBits_other (v hi lo x hi' lo' : Nat) (h : lo ≤ hi + 1) (hd : hi' < lo ∨ hi < lo') :
    bits (setBits v hi lo x) hi' lo' = bits v hi' lo' := by
  apply Nat.eq_of_testBit_eq
  intro i
  rw [testBit_bits, testBit_bits, testBit_setBits _ _ _ _ _ h]
  by_cases hi : i < hi' + 1 - lo'
  · rw [if_neg (by omega)]
  · simp [hi]

theorem setBits_lt (v hi lo x n : Nat) (h : lo ≤ hi + 1) (hn : hi < n) (hv : v < 2 ^ n) : setBits v hi lo x < 2 ^ n := by
  apply Nat.lt_pow_two_of_testBit
  intro i hi
  rw [testBit_setBits _ _ _ _ _ h, if_neg (by omega)]
  exact Nat.testBit_lt_two_pow (lt_of_lt_of_le hv (Nat.pow_le_pow_right (by decide) hi))

/-! ### Words -/

@[simp] theorem State.rd_wr_same (s : State) (a : Nat) (v : W32) : (s.wr a v).rd a = v := mapGet_mapSet_same ..

theorem State.rd_wr_other (s : State) {a b : Nat} (v : W32) (h : b ≠ a) : (s.wr a v).rd b = s.rd b :=
  mapGet_mapSet_other _ _ _ h

@[simp] theorem State.rdByte_wrByte_same (s : State) (a : Nat) (v : Byte) : (s.wrByte a v).rdByte a = v :=
  mapGet_mapSet_same ..

theorem State.rdByte_wrByte_other (s : State) {a b : Nat} (v : Byte) (h : b ≠ a) : (s.wrByte a v).rdByte b = s.rdByte b :=
  mapGet_mapSet_other _ _ _ h

theorem State.rd_setWord_same (s : State) {p : Page} {x : Fld} (v : W32) (h : inPage p x = true) :
    (s.setWord p x v).rd (fldAddr p x) = v := by simp [State.setWord, h]

theorem State.rd_setWord_other (s : State) {p : Page} {x : Fld} {a : Nat} (v : W32) (h : a ≠ fldAddr p x) :
    (s.setWord p x v).rd a = s.rd a := by
  unfold State.setWord
  split
  · exact s.rd_wr_other v h
  · rfl

/-- A field as it reads after a write of it. -/
theorem State.get_put_same (s : State) {p : Page} {x : Fld} (v : Nat) (hp : inPage p x = true) (hl : x.lo ≤ x.hi + 1)
    (hh : x.hi < 32) : (s.put p x v).get p x = v % 2 ^ (x.hi + 1 - x.lo) := by
  unfold State.get State.put
  rw [s.rd_setWord_same _ hp, BitVec.toNat_ofNat,
    Nat.mod_eq_of_lt (setBits_lt _ _ _ _ _ hl hh (s.rd (fldAddr p x)).isLt), bits_setBits_same _ _ _ _ hl]

/-- A field of another word is not touched by a write of a field. -/
theorem State.get_put_word (s : State) {p q : Page} {x y : Fld} (v : Nat) (h : fldAddr q y ≠ fldAddr p x) :
    (s.put p x v).get q y = s.get q y := by
  unfold State.get State.put
  rw [s.rd_setWord_other _ h]

/-- A field beside the one written keeps its value. -/
theorem State.get_put_bits (s : State) {p q : Page} {x y : Fld} (v : Nat) (hl : x.lo ≤ x.hi + 1) (hh : x.hi < 32)
    (hd : y.hi < x.lo ∨ x.hi < y.lo) : (s.put p x v).get q y = s.get q y := by
  by_cases ha : fldAddr q y = fldAddr p x
  · unfold State.get State.put State.setWord
    split
    · rw [ha, s.rd_wr_same, BitVec.toNat_ofNat,
        Nat.mod_eq_of_lt (setBits_lt _ _ _ _ _ hl hh (s.rd (fldAddr p x)).isLt), bits_setBits_other _ _ _ _ _ _ hl hd]
    · rfl
  · exact s.get_put_word v ha

/-- A field of a page is not touched by an operation that leaves the page's block alone. -/
theorem State.get_within {F : List Part} {s t : State} (h : s.Within F t) {p : Page} {x : Fld} (hp : inPage p x = true)
    (hF : Part.block p.blk ∉ F) : t.get p x = s.get p x := by
  unfold State.get
  rw [h (.block p.blk) hF _ (blockAt_page hp)]

/-! ### The fields of the state after each update -/

@[simp] theorem State.wr_pending (s : State) (a : Nat) (v : W32) : (s.wr a v).pending = s.pending := rfl
@[simp] theorem State.wr_now (s : State) (a : Nat) (v : W32) : (s.wr a v).now = s.now := rfl
@[simp] theorem State.wr_free (s : State) (a : Nat) (v : W32) : (s.wr a v).free = s.free := rfl
@[simp] theorem State.wr_mem (s : State) (a : Nat) (v : W32) : (s.wr a v).mem = s.mem := rfl
@[simp] theorem State.wr_reply (s : State) (a : Nat) (v : W32) : (s.wr a v).reply = s.reply := rfl
@[simp] theorem State.wr_keys (s : State) (a : Nat) (v : W32) : (s.wr a v).keys = s.keys := rfl
@[simp] theorem State.wr_snaps (s : State) (a : Nat) (v : W32) : (s.wr a v).snaps = s.snaps := rfl
@[simp] theorem State.wr_lows (s : State) (a : Nat) (v : W32) : (s.wr a v).lows = s.lows := rfl
@[simp] theorem State.wr_sets (s : State) (a : Nat) (v : W32) : (s.wr a v).sets = s.sets := rfl
@[simp] theorem State.wr_dev (s : State) (a : Nat) (v : W32) : (s.wr a v).dev = s.dev := rfl
@[simp] theorem State.wr_tbu (s : State) (a : Nat) (v : W32) : (s.wr a v).tbu = s.tbu := rfl
@[simp] theorem State.wr_lg (s : State) (a : Nat) (v : W32) : (s.wr a v).lg = s.lg := rfl
@[simp] theorem State.wr_sfTick (s : State) (a : Nat) (v : W32) : (s.wr a v).sfTick = s.sfTick := rfl
@[simp] theorem State.wr_tpw (s : State) (a : Nat) (v : W32) : (s.wr a v).tpw = s.tpw := rfl
@[simp] theorem State.wr_cpw (s : State) (a : Nat) (v : W32) : (s.wr a v).cpw = s.cpw := rfl
@[simp] theorem State.wr_cpwCmp (s : State) (a : Nat) (v : W32) : (s.wr a v).cpwCmp = s.cpwCmp := rfl
@[simp] theorem State.wr_dcd (s : State) (a : Nat) (v : W32) : (s.wr a v).dcd = s.dcd := rfl
@[simp] theorem State.wr_dma (s : State) (a : Nat) (v : W32) : (s.wr a v).dma = s.dma := rfl
@[simp] theorem State.wr_dmaReq (s : State) (a : Nat) (v : W32) : (s.wr a v).dmaReq = s.dmaReq := rfl
@[simp] theorem State.wr_msv (s : State) (a : Nat) (v : W32) : (s.wr a v).msv = s.msv := rfl
@[simp] theorem State.wr_pin (s : State) (a : Nat) (v : W32) : (s.wr a v).pin = s.pin := rfl
@[simp] theorem State.wr_bch (s : State) (a : Nat) (v : W32) : (s.wr a v).bch = s.bch := rfl
@[simp] theorem State.wr_obc (s : State) (a : Nat) (v : W32) : (s.wr a v).obc = s.obc := rfl
@[simp] theorem State.wr_act (s : State) (a : Nat) (v : W32) : (s.wr a v).act = s.act := rfl
@[simp] theorem State.wr_halo (s : State) (a : Nat) (v : W32) : (s.wr a v).halo = s.halo := rfl
@[simp] theorem State.wr_scf (s : State) (a : Nat) (v : W32) : (s.wr a v).scf = s.scf := rfl
@[simp] theorem State.wr_canH (s : State) (a : Nat) (v : W32) : (s.wr a v).canH = s.canH := rfl
@[simp] theorem State.wr_canWin (s : State) (a : Nat) (v : W32) : (s.wr a v).canWin = s.canWin := rfl
@[simp] theorem State.wr_adhLost (s : State) (a : Nat) (v : W32) : (s.wr a v).adhLost = s.adhLost := rfl
@[simp] theorem State.wr_adf (s : State) (a : Nat) (v : W32) : (s.wr a v).adf = s.adf := rfl
@[simp] theorem State.wr_adh (s : State) (a : Nat) (v : W32) : (s.wr a v).adh = s.adh := rfl
@[simp] theorem State.wr_adr (s : State) (a : Nat) (v : W32) : (s.wr a v).adr = s.adr := rfl
@[simp] theorem State.wr_pos (s : State) (a : Nat) (v : W32) : (s.wr a v).pos = s.pos := rfl
@[simp] theorem State.wr_ctxs (s : State) (a : Nat) (v : W32) : (s.wr a v).ctxs = s.ctxs := rfl
@[simp] theorem State.wr_evrAt (s : State) (a : Nat) (v : W32) : (s.wr a v).evrAt = s.evrAt := rfl
@[simp] theorem State.wr_engAt (s : State) (a : Nat) (v : W32) : (s.wr a v).engAt = s.engAt := rfl
@[simp] theorem State.wr_zslack (s : State) (a : Nat) (v : W32) : (s.wr a v).zslack = s.zslack := rfl
@[simp] theorem State.wr_pslack (s : State) (a : Nat) (v : W32) : (s.wr a v).pslack = s.pslack := rfl
@[simp] theorem State.wr_lks (s : State) (a : Nat) (v : W32) : (s.wr a v).lks = s.lks := rfl
@[simp] theorem State.wr_tmu (s : State) (a : Nat) (v : W32) : (s.wr a v).tmu = s.tmu := rfl
@[simp] theorem State.wr_arb (s : State) (a : Nat) (v : W32) : (s.wr a v).arb = s.arb := rfl
@[simp] theorem State.wr_clf (s : State) (a : Nat) (v : W32) : (s.wr a v).clf = s.clf := rfl

@[simp] theorem State.setWord_pending (s : State) (p : Page) (x : Fld) (v : W32) : (s.setWord p x v).pending = s.pending := by
  unfold State.setWord; split <;> rfl
@[simp] theorem State.setWord_now (s : State) (p : Page) (x : Fld) (v : W32) : (s.setWord p x v).now = s.now := by
  unfold State.setWord; split <;> rfl
@[simp] theorem State.setWord_free (s : State) (p : Page) (x : Fld) (v : W32) : (s.setWord p x v).free = s.free := by
  unfold State.setWord; split <;> rfl
@[simp] theorem State.setWord_mem (s : State) (p : Page) (x : Fld) (v : W32) : (s.setWord p x v).mem = s.mem := by
  unfold State.setWord; split <;> rfl
@[simp] theorem State.setWord_reply (s : State) (p : Page) (x : Fld) (v : W32) : (s.setWord p x v).reply = s.reply := by
  unfold State.setWord; split <;> rfl
@[simp] theorem State.setWord_keys (s : State) (p : Page) (x : Fld) (v : W32) : (s.setWord p x v).keys = s.keys := by
  unfold State.setWord; split <;> rfl
@[simp] theorem State.setWord_snaps (s : State) (p : Page) (x : Fld) (v : W32) : (s.setWord p x v).snaps = s.snaps := by
  unfold State.setWord; split <;> rfl
@[simp] theorem State.setWord_lows (s : State) (p : Page) (x : Fld) (v : W32) : (s.setWord p x v).lows = s.lows := by
  unfold State.setWord; split <;> rfl
@[simp] theorem State.setWord_sets (s : State) (p : Page) (x : Fld) (v : W32) : (s.setWord p x v).sets = s.sets := by
  unfold State.setWord; split <;> rfl
@[simp] theorem State.setWord_dev (s : State) (p : Page) (x : Fld) (v : W32) : (s.setWord p x v).dev = s.dev := by
  unfold State.setWord; split <;> rfl
@[simp] theorem State.setWord_tbu (s : State) (p : Page) (x : Fld) (v : W32) : (s.setWord p x v).tbu = s.tbu := by
  unfold State.setWord; split <;> rfl
@[simp] theorem State.setWord_lg (s : State) (p : Page) (x : Fld) (v : W32) : (s.setWord p x v).lg = s.lg := by
  unfold State.setWord; split <;> rfl
@[simp] theorem State.setWord_sfTick (s : State) (p : Page) (x : Fld) (v : W32) : (s.setWord p x v).sfTick = s.sfTick := by
  unfold State.setWord; split <;> rfl
@[simp] theorem State.setWord_tpw (s : State) (p : Page) (x : Fld) (v : W32) : (s.setWord p x v).tpw = s.tpw := by
  unfold State.setWord; split <;> rfl
@[simp] theorem State.setWord_cpw (s : State) (p : Page) (x : Fld) (v : W32) : (s.setWord p x v).cpw = s.cpw := by
  unfold State.setWord; split <;> rfl
@[simp] theorem State.setWord_cpwCmp (s : State) (p : Page) (x : Fld) (v : W32) : (s.setWord p x v).cpwCmp = s.cpwCmp := by
  unfold State.setWord; split <;> rfl
@[simp] theorem State.setWord_dcd (s : State) (p : Page) (x : Fld) (v : W32) : (s.setWord p x v).dcd = s.dcd := by
  unfold State.setWord; split <;> rfl
@[simp] theorem State.setWord_dma (s : State) (p : Page) (x : Fld) (v : W32) : (s.setWord p x v).dma = s.dma := by
  unfold State.setWord; split <;> rfl
@[simp] theorem State.setWord_dmaReq (s : State) (p : Page) (x : Fld) (v : W32) : (s.setWord p x v).dmaReq = s.dmaReq := by
  unfold State.setWord; split <;> rfl
@[simp] theorem State.setWord_msv (s : State) (p : Page) (x : Fld) (v : W32) : (s.setWord p x v).msv = s.msv := by
  unfold State.setWord; split <;> rfl
@[simp] theorem State.setWord_pin (s : State) (p : Page) (x : Fld) (v : W32) : (s.setWord p x v).pin = s.pin := by
  unfold State.setWord; split <;> rfl
@[simp] theorem State.setWord_bch (s : State) (p : Page) (x : Fld) (v : W32) : (s.setWord p x v).bch = s.bch := by
  unfold State.setWord; split <;> rfl
@[simp] theorem State.setWord_obc (s : State) (p : Page) (x : Fld) (v : W32) : (s.setWord p x v).obc = s.obc := by
  unfold State.setWord; split <;> rfl
@[simp] theorem State.setWord_act (s : State) (p : Page) (x : Fld) (v : W32) : (s.setWord p x v).act = s.act := by
  unfold State.setWord; split <;> rfl
@[simp] theorem State.setWord_halo (s : State) (p : Page) (x : Fld) (v : W32) : (s.setWord p x v).halo = s.halo := by
  unfold State.setWord; split <;> rfl
@[simp] theorem State.setWord_scf (s : State) (p : Page) (x : Fld) (v : W32) : (s.setWord p x v).scf = s.scf := by
  unfold State.setWord; split <;> rfl
@[simp] theorem State.setWord_canH (s : State) (p : Page) (x : Fld) (v : W32) : (s.setWord p x v).canH = s.canH := by
  unfold State.setWord; split <;> rfl
@[simp] theorem State.setWord_canWin (s : State) (p : Page) (x : Fld) (v : W32) : (s.setWord p x v).canWin = s.canWin := by
  unfold State.setWord; split <;> rfl
@[simp] theorem State.setWord_adhLost (s : State) (p : Page) (x : Fld) (v : W32) : (s.setWord p x v).adhLost = s.adhLost := by
  unfold State.setWord; split <;> rfl
@[simp] theorem State.setWord_adf (s : State) (p : Page) (x : Fld) (v : W32) : (s.setWord p x v).adf = s.adf := by
  unfold State.setWord; split <;> rfl
@[simp] theorem State.setWord_adh (s : State) (p : Page) (x : Fld) (v : W32) : (s.setWord p x v).adh = s.adh := by
  unfold State.setWord; split <;> rfl
@[simp] theorem State.setWord_adr (s : State) (p : Page) (x : Fld) (v : W32) : (s.setWord p x v).adr = s.adr := by
  unfold State.setWord; split <;> rfl
@[simp] theorem State.setWord_pos (s : State) (p : Page) (x : Fld) (v : W32) : (s.setWord p x v).pos = s.pos := by
  unfold State.setWord; split <;> rfl
@[simp] theorem State.setWord_ctxs (s : State) (p : Page) (x : Fld) (v : W32) : (s.setWord p x v).ctxs = s.ctxs := by
  unfold State.setWord; split <;> rfl
@[simp] theorem State.setWord_evrAt (s : State) (p : Page) (x : Fld) (v : W32) : (s.setWord p x v).evrAt = s.evrAt := by
  unfold State.setWord; split <;> rfl
@[simp] theorem State.setWord_engAt (s : State) (p : Page) (x : Fld) (v : W32) : (s.setWord p x v).engAt = s.engAt := by
  unfold State.setWord; split <;> rfl
@[simp] theorem State.setWord_zslack (s : State) (p : Page) (x : Fld) (v : W32) : (s.setWord p x v).zslack = s.zslack := by
  unfold State.setWord; split <;> rfl
@[simp] theorem State.setWord_pslack (s : State) (p : Page) (x : Fld) (v : W32) : (s.setWord p x v).pslack = s.pslack := by
  unfold State.setWord; split <;> rfl
@[simp] theorem State.setWord_lks (s : State) (p : Page) (x : Fld) (v : W32) : (s.setWord p x v).lks = s.lks := by
  unfold State.setWord; split <;> rfl
@[simp] theorem State.setWord_tmu (s : State) (p : Page) (x : Fld) (v : W32) : (s.setWord p x v).tmu = s.tmu := by
  unfold State.setWord; split <;> rfl
@[simp] theorem State.setWord_arb (s : State) (p : Page) (x : Fld) (v : W32) : (s.setWord p x v).arb = s.arb := by
  unfold State.setWord; split <;> rfl
@[simp] theorem State.setWord_clf (s : State) (p : Page) (x : Fld) (v : W32) : (s.setWord p x v).clf = s.clf := by
  unfold State.setWord; split <;> rfl

@[simp] theorem State.put_pending (s : State) (p : Page) (x : Fld) (v : Nat) : (s.put p x v).pending = s.pending := s.setWord_pending ..
@[simp] theorem State.put_now (s : State) (p : Page) (x : Fld) (v : Nat) : (s.put p x v).now = s.now := s.setWord_now ..
@[simp] theorem State.put_free (s : State) (p : Page) (x : Fld) (v : Nat) : (s.put p x v).free = s.free := s.setWord_free ..
@[simp] theorem State.put_mem (s : State) (p : Page) (x : Fld) (v : Nat) : (s.put p x v).mem = s.mem := s.setWord_mem ..
@[simp] theorem State.put_reply (s : State) (p : Page) (x : Fld) (v : Nat) : (s.put p x v).reply = s.reply := s.setWord_reply ..
@[simp] theorem State.put_keys (s : State) (p : Page) (x : Fld) (v : Nat) : (s.put p x v).keys = s.keys := s.setWord_keys ..
@[simp] theorem State.put_snaps (s : State) (p : Page) (x : Fld) (v : Nat) : (s.put p x v).snaps = s.snaps := s.setWord_snaps ..
@[simp] theorem State.put_lows (s : State) (p : Page) (x : Fld) (v : Nat) : (s.put p x v).lows = s.lows := s.setWord_lows ..
@[simp] theorem State.put_sets (s : State) (p : Page) (x : Fld) (v : Nat) : (s.put p x v).sets = s.sets := s.setWord_sets ..
@[simp] theorem State.put_dev (s : State) (p : Page) (x : Fld) (v : Nat) : (s.put p x v).dev = s.dev := s.setWord_dev ..
@[simp] theorem State.put_tbu (s : State) (p : Page) (x : Fld) (v : Nat) : (s.put p x v).tbu = s.tbu := s.setWord_tbu ..
@[simp] theorem State.put_lg (s : State) (p : Page) (x : Fld) (v : Nat) : (s.put p x v).lg = s.lg := s.setWord_lg ..
@[simp] theorem State.put_sfTick (s : State) (p : Page) (x : Fld) (v : Nat) : (s.put p x v).sfTick = s.sfTick := s.setWord_sfTick ..
@[simp] theorem State.put_tpw (s : State) (p : Page) (x : Fld) (v : Nat) : (s.put p x v).tpw = s.tpw := s.setWord_tpw ..
@[simp] theorem State.put_cpw (s : State) (p : Page) (x : Fld) (v : Nat) : (s.put p x v).cpw = s.cpw := s.setWord_cpw ..
@[simp] theorem State.put_cpwCmp (s : State) (p : Page) (x : Fld) (v : Nat) : (s.put p x v).cpwCmp = s.cpwCmp := s.setWord_cpwCmp ..
@[simp] theorem State.put_dcd (s : State) (p : Page) (x : Fld) (v : Nat) : (s.put p x v).dcd = s.dcd := s.setWord_dcd ..
@[simp] theorem State.put_dma (s : State) (p : Page) (x : Fld) (v : Nat) : (s.put p x v).dma = s.dma := s.setWord_dma ..
@[simp] theorem State.put_dmaReq (s : State) (p : Page) (x : Fld) (v : Nat) : (s.put p x v).dmaReq = s.dmaReq := s.setWord_dmaReq ..
@[simp] theorem State.put_msv (s : State) (p : Page) (x : Fld) (v : Nat) : (s.put p x v).msv = s.msv := s.setWord_msv ..
@[simp] theorem State.put_pin (s : State) (p : Page) (x : Fld) (v : Nat) : (s.put p x v).pin = s.pin := s.setWord_pin ..
@[simp] theorem State.put_bch (s : State) (p : Page) (x : Fld) (v : Nat) : (s.put p x v).bch = s.bch := s.setWord_bch ..
@[simp] theorem State.put_obc (s : State) (p : Page) (x : Fld) (v : Nat) : (s.put p x v).obc = s.obc := s.setWord_obc ..
@[simp] theorem State.put_act (s : State) (p : Page) (x : Fld) (v : Nat) : (s.put p x v).act = s.act := s.setWord_act ..
@[simp] theorem State.put_halo (s : State) (p : Page) (x : Fld) (v : Nat) : (s.put p x v).halo = s.halo := s.setWord_halo ..
@[simp] theorem State.put_scf (s : State) (p : Page) (x : Fld) (v : Nat) : (s.put p x v).scf = s.scf := s.setWord_scf ..
@[simp] theorem State.put_canH (s : State) (p : Page) (x : Fld) (v : Nat) : (s.put p x v).canH = s.canH := s.setWord_canH ..
@[simp] theorem State.put_canWin (s : State) (p : Page) (x : Fld) (v : Nat) : (s.put p x v).canWin = s.canWin := s.setWord_canWin ..
@[simp] theorem State.put_adhLost (s : State) (p : Page) (x : Fld) (v : Nat) : (s.put p x v).adhLost = s.adhLost := s.setWord_adhLost ..
@[simp] theorem State.put_adf (s : State) (p : Page) (x : Fld) (v : Nat) : (s.put p x v).adf = s.adf := s.setWord_adf ..
@[simp] theorem State.put_adh (s : State) (p : Page) (x : Fld) (v : Nat) : (s.put p x v).adh = s.adh := s.setWord_adh ..
@[simp] theorem State.put_adr (s : State) (p : Page) (x : Fld) (v : Nat) : (s.put p x v).adr = s.adr := s.setWord_adr ..
@[simp] theorem State.put_pos (s : State) (p : Page) (x : Fld) (v : Nat) : (s.put p x v).pos = s.pos := s.setWord_pos ..
@[simp] theorem State.put_ctxs (s : State) (p : Page) (x : Fld) (v : Nat) : (s.put p x v).ctxs = s.ctxs := s.setWord_ctxs ..
@[simp] theorem State.put_evrAt (s : State) (p : Page) (x : Fld) (v : Nat) : (s.put p x v).evrAt = s.evrAt := s.setWord_evrAt ..
@[simp] theorem State.put_engAt (s : State) (p : Page) (x : Fld) (v : Nat) : (s.put p x v).engAt = s.engAt := s.setWord_engAt ..
@[simp] theorem State.put_zslack (s : State) (p : Page) (x : Fld) (v : Nat) : (s.put p x v).zslack = s.zslack := s.setWord_zslack ..
@[simp] theorem State.put_pslack (s : State) (p : Page) (x : Fld) (v : Nat) : (s.put p x v).pslack = s.pslack := s.setWord_pslack ..
@[simp] theorem State.put_lks (s : State) (p : Page) (x : Fld) (v : Nat) : (s.put p x v).lks = s.lks := s.setWord_lks ..
@[simp] theorem State.put_tmu (s : State) (p : Page) (x : Fld) (v : Nat) : (s.put p x v).tmu = s.tmu := s.setWord_tmu ..
@[simp] theorem State.put_arb (s : State) (p : Page) (x : Fld) (v : Nat) : (s.put p x v).arb = s.arb := s.setWord_arb ..
@[simp] theorem State.put_clf (s : State) (p : Page) (x : Fld) (v : Nat) : (s.put p x v).clf = s.clf := s.setWord_clf ..

@[simp] theorem State.flag_pending (s : State) (p : Page) (x : Fld) (b : Bool) : (s.flag p x b).pending = s.pending := s.setWord_pending ..
@[simp] theorem State.flag_now (s : State) (p : Page) (x : Fld) (b : Bool) : (s.flag p x b).now = s.now := s.setWord_now ..
@[simp] theorem State.flag_free (s : State) (p : Page) (x : Fld) (b : Bool) : (s.flag p x b).free = s.free := s.setWord_free ..
@[simp] theorem State.flag_mem (s : State) (p : Page) (x : Fld) (b : Bool) : (s.flag p x b).mem = s.mem := s.setWord_mem ..
@[simp] theorem State.flag_reply (s : State) (p : Page) (x : Fld) (b : Bool) : (s.flag p x b).reply = s.reply := s.setWord_reply ..
@[simp] theorem State.flag_keys (s : State) (p : Page) (x : Fld) (b : Bool) : (s.flag p x b).keys = s.keys := s.setWord_keys ..
@[simp] theorem State.flag_snaps (s : State) (p : Page) (x : Fld) (b : Bool) : (s.flag p x b).snaps = s.snaps := s.setWord_snaps ..
@[simp] theorem State.flag_lows (s : State) (p : Page) (x : Fld) (b : Bool) : (s.flag p x b).lows = s.lows := s.setWord_lows ..
@[simp] theorem State.flag_sets (s : State) (p : Page) (x : Fld) (b : Bool) : (s.flag p x b).sets = s.sets := s.setWord_sets ..
@[simp] theorem State.flag_dev (s : State) (p : Page) (x : Fld) (b : Bool) : (s.flag p x b).dev = s.dev := s.setWord_dev ..
@[simp] theorem State.flag_tbu (s : State) (p : Page) (x : Fld) (b : Bool) : (s.flag p x b).tbu = s.tbu := s.setWord_tbu ..
@[simp] theorem State.flag_lg (s : State) (p : Page) (x : Fld) (b : Bool) : (s.flag p x b).lg = s.lg := s.setWord_lg ..
@[simp] theorem State.flag_sfTick (s : State) (p : Page) (x : Fld) (b : Bool) : (s.flag p x b).sfTick = s.sfTick := s.setWord_sfTick ..
@[simp] theorem State.flag_tpw (s : State) (p : Page) (x : Fld) (b : Bool) : (s.flag p x b).tpw = s.tpw := s.setWord_tpw ..
@[simp] theorem State.flag_cpw (s : State) (p : Page) (x : Fld) (b : Bool) : (s.flag p x b).cpw = s.cpw := s.setWord_cpw ..
@[simp] theorem State.flag_cpwCmp (s : State) (p : Page) (x : Fld) (b : Bool) : (s.flag p x b).cpwCmp = s.cpwCmp := s.setWord_cpwCmp ..
@[simp] theorem State.flag_dcd (s : State) (p : Page) (x : Fld) (b : Bool) : (s.flag p x b).dcd = s.dcd := s.setWord_dcd ..
@[simp] theorem State.flag_dma (s : State) (p : Page) (x : Fld) (b : Bool) : (s.flag p x b).dma = s.dma := s.setWord_dma ..
@[simp] theorem State.flag_dmaReq (s : State) (p : Page) (x : Fld) (b : Bool) : (s.flag p x b).dmaReq = s.dmaReq := s.setWord_dmaReq ..
@[simp] theorem State.flag_msv (s : State) (p : Page) (x : Fld) (b : Bool) : (s.flag p x b).msv = s.msv := s.setWord_msv ..
@[simp] theorem State.flag_pin (s : State) (p : Page) (x : Fld) (b : Bool) : (s.flag p x b).pin = s.pin := s.setWord_pin ..
@[simp] theorem State.flag_bch (s : State) (p : Page) (x : Fld) (b : Bool) : (s.flag p x b).bch = s.bch := s.setWord_bch ..
@[simp] theorem State.flag_obc (s : State) (p : Page) (x : Fld) (b : Bool) : (s.flag p x b).obc = s.obc := s.setWord_obc ..
@[simp] theorem State.flag_act (s : State) (p : Page) (x : Fld) (b : Bool) : (s.flag p x b).act = s.act := s.setWord_act ..
@[simp] theorem State.flag_halo (s : State) (p : Page) (x : Fld) (b : Bool) : (s.flag p x b).halo = s.halo := s.setWord_halo ..
@[simp] theorem State.flag_scf (s : State) (p : Page) (x : Fld) (b : Bool) : (s.flag p x b).scf = s.scf := s.setWord_scf ..
@[simp] theorem State.flag_canH (s : State) (p : Page) (x : Fld) (b : Bool) : (s.flag p x b).canH = s.canH := s.setWord_canH ..
@[simp] theorem State.flag_canWin (s : State) (p : Page) (x : Fld) (b : Bool) : (s.flag p x b).canWin = s.canWin := s.setWord_canWin ..
@[simp] theorem State.flag_adhLost (s : State) (p : Page) (x : Fld) (b : Bool) : (s.flag p x b).adhLost = s.adhLost := s.setWord_adhLost ..
@[simp] theorem State.flag_adf (s : State) (p : Page) (x : Fld) (b : Bool) : (s.flag p x b).adf = s.adf := s.setWord_adf ..
@[simp] theorem State.flag_adh (s : State) (p : Page) (x : Fld) (b : Bool) : (s.flag p x b).adh = s.adh := s.setWord_adh ..
@[simp] theorem State.flag_adr (s : State) (p : Page) (x : Fld) (b : Bool) : (s.flag p x b).adr = s.adr := s.setWord_adr ..
@[simp] theorem State.flag_pos (s : State) (p : Page) (x : Fld) (b : Bool) : (s.flag p x b).pos = s.pos := s.setWord_pos ..
@[simp] theorem State.flag_ctxs (s : State) (p : Page) (x : Fld) (b : Bool) : (s.flag p x b).ctxs = s.ctxs := s.setWord_ctxs ..
@[simp] theorem State.flag_evrAt (s : State) (p : Page) (x : Fld) (b : Bool) : (s.flag p x b).evrAt = s.evrAt := s.setWord_evrAt ..
@[simp] theorem State.flag_engAt (s : State) (p : Page) (x : Fld) (b : Bool) : (s.flag p x b).engAt = s.engAt := s.setWord_engAt ..
@[simp] theorem State.flag_zslack (s : State) (p : Page) (x : Fld) (b : Bool) : (s.flag p x b).zslack = s.zslack := s.setWord_zslack ..
@[simp] theorem State.flag_pslack (s : State) (p : Page) (x : Fld) (b : Bool) : (s.flag p x b).pslack = s.pslack := s.setWord_pslack ..
@[simp] theorem State.flag_lks (s : State) (p : Page) (x : Fld) (b : Bool) : (s.flag p x b).lks = s.lks := s.setWord_lks ..
@[simp] theorem State.flag_tmu (s : State) (p : Page) (x : Fld) (b : Bool) : (s.flag p x b).tmu = s.tmu := s.setWord_tmu ..
@[simp] theorem State.flag_arb (s : State) (p : Page) (x : Fld) (b : Bool) : (s.flag p x b).arb = s.arb := s.setWord_arb ..
@[simp] theorem State.flag_clf (s : State) (p : Page) (x : Fld) (b : Bool) : (s.flag p x b).clf = s.clf := s.setWord_clf ..

@[simp] theorem State.wrByte_pending (s : State) (a : Nat) (v : Byte) : (s.wrByte a v).pending = s.pending := rfl
@[simp] theorem State.wrByte_now (s : State) (a : Nat) (v : Byte) : (s.wrByte a v).now = s.now := rfl
@[simp] theorem State.wrByte_free (s : State) (a : Nat) (v : Byte) : (s.wrByte a v).free = s.free := rfl
@[simp] theorem State.wrByte_regs (s : State) (a : Nat) (v : Byte) : (s.wrByte a v).regs = s.regs := rfl
@[simp] theorem State.wrByte_reply (s : State) (a : Nat) (v : Byte) : (s.wrByte a v).reply = s.reply := rfl
@[simp] theorem State.wrByte_keys (s : State) (a : Nat) (v : Byte) : (s.wrByte a v).keys = s.keys := rfl
@[simp] theorem State.wrByte_snaps (s : State) (a : Nat) (v : Byte) : (s.wrByte a v).snaps = s.snaps := rfl
@[simp] theorem State.wrByte_lows (s : State) (a : Nat) (v : Byte) : (s.wrByte a v).lows = s.lows := rfl
@[simp] theorem State.wrByte_sets (s : State) (a : Nat) (v : Byte) : (s.wrByte a v).sets = s.sets := rfl
@[simp] theorem State.wrByte_dev (s : State) (a : Nat) (v : Byte) : (s.wrByte a v).dev = s.dev := rfl
@[simp] theorem State.wrByte_tbu (s : State) (a : Nat) (v : Byte) : (s.wrByte a v).tbu = s.tbu := rfl
@[simp] theorem State.wrByte_lg (s : State) (a : Nat) (v : Byte) : (s.wrByte a v).lg = s.lg := rfl
@[simp] theorem State.wrByte_sfTick (s : State) (a : Nat) (v : Byte) : (s.wrByte a v).sfTick = s.sfTick := rfl
@[simp] theorem State.wrByte_tpw (s : State) (a : Nat) (v : Byte) : (s.wrByte a v).tpw = s.tpw := rfl
@[simp] theorem State.wrByte_cpw (s : State) (a : Nat) (v : Byte) : (s.wrByte a v).cpw = s.cpw := rfl
@[simp] theorem State.wrByte_cpwCmp (s : State) (a : Nat) (v : Byte) : (s.wrByte a v).cpwCmp = s.cpwCmp := rfl
@[simp] theorem State.wrByte_dcd (s : State) (a : Nat) (v : Byte) : (s.wrByte a v).dcd = s.dcd := rfl
@[simp] theorem State.wrByte_dma (s : State) (a : Nat) (v : Byte) : (s.wrByte a v).dma = s.dma := rfl
@[simp] theorem State.wrByte_dmaReq (s : State) (a : Nat) (v : Byte) : (s.wrByte a v).dmaReq = s.dmaReq := rfl
@[simp] theorem State.wrByte_msv (s : State) (a : Nat) (v : Byte) : (s.wrByte a v).msv = s.msv := rfl
@[simp] theorem State.wrByte_pin (s : State) (a : Nat) (v : Byte) : (s.wrByte a v).pin = s.pin := rfl
@[simp] theorem State.wrByte_bch (s : State) (a : Nat) (v : Byte) : (s.wrByte a v).bch = s.bch := rfl
@[simp] theorem State.wrByte_obc (s : State) (a : Nat) (v : Byte) : (s.wrByte a v).obc = s.obc := rfl
@[simp] theorem State.wrByte_act (s : State) (a : Nat) (v : Byte) : (s.wrByte a v).act = s.act := rfl
@[simp] theorem State.wrByte_halo (s : State) (a : Nat) (v : Byte) : (s.wrByte a v).halo = s.halo := rfl
@[simp] theorem State.wrByte_scf (s : State) (a : Nat) (v : Byte) : (s.wrByte a v).scf = s.scf := rfl
@[simp] theorem State.wrByte_canH (s : State) (a : Nat) (v : Byte) : (s.wrByte a v).canH = s.canH := rfl
@[simp] theorem State.wrByte_canWin (s : State) (a : Nat) (v : Byte) : (s.wrByte a v).canWin = s.canWin := rfl
@[simp] theorem State.wrByte_adhLost (s : State) (a : Nat) (v : Byte) : (s.wrByte a v).adhLost = s.adhLost := rfl
@[simp] theorem State.wrByte_adf (s : State) (a : Nat) (v : Byte) : (s.wrByte a v).adf = s.adf := rfl
@[simp] theorem State.wrByte_adh (s : State) (a : Nat) (v : Byte) : (s.wrByte a v).adh = s.adh := rfl
@[simp] theorem State.wrByte_adr (s : State) (a : Nat) (v : Byte) : (s.wrByte a v).adr = s.adr := rfl
@[simp] theorem State.wrByte_pos (s : State) (a : Nat) (v : Byte) : (s.wrByte a v).pos = s.pos := rfl
@[simp] theorem State.wrByte_ctxs (s : State) (a : Nat) (v : Byte) : (s.wrByte a v).ctxs = s.ctxs := rfl
@[simp] theorem State.wrByte_evrAt (s : State) (a : Nat) (v : Byte) : (s.wrByte a v).evrAt = s.evrAt := rfl
@[simp] theorem State.wrByte_engAt (s : State) (a : Nat) (v : Byte) : (s.wrByte a v).engAt = s.engAt := rfl
@[simp] theorem State.wrByte_zslack (s : State) (a : Nat) (v : Byte) : (s.wrByte a v).zslack = s.zslack := rfl
@[simp] theorem State.wrByte_pslack (s : State) (a : Nat) (v : Byte) : (s.wrByte a v).pslack = s.pslack := rfl
@[simp] theorem State.wrByte_lks (s : State) (a : Nat) (v : Byte) : (s.wrByte a v).lks = s.lks := rfl
@[simp] theorem State.wrByte_tmu (s : State) (a : Nat) (v : Byte) : (s.wrByte a v).tmu = s.tmu := rfl
@[simp] theorem State.wrByte_arb (s : State) (a : Nat) (v : Byte) : (s.wrByte a v).arb = s.arb := rfl
@[simp] theorem State.wrByte_clf (s : State) (a : Nat) (v : Byte) : (s.wrByte a v).clf = s.clf := rfl

@[simp] theorem State.advance_pending (s : State) (dt : Nat) : (s.advance dt).pending = s.pending := by
  unfold State.advance; split <;> rfl
@[simp] theorem State.advance_free (s : State) (dt : Nat) : (s.advance dt).free = s.free := by
  unfold State.advance; split <;> rfl
@[simp] theorem State.advance_regs (s : State) (dt : Nat) : (s.advance dt).regs = s.regs := by
  unfold State.advance; split <;> rfl
@[simp] theorem State.advance_mem (s : State) (dt : Nat) : (s.advance dt).mem = s.mem := by
  unfold State.advance; split <;> rfl
@[simp] theorem State.advance_reply (s : State) (dt : Nat) : (s.advance dt).reply = s.reply := by
  unfold State.advance; split <;> rfl
@[simp] theorem State.advance_keys (s : State) (dt : Nat) : (s.advance dt).keys = s.keys := by
  unfold State.advance; split <;> rfl
@[simp] theorem State.advance_snaps (s : State) (dt : Nat) : (s.advance dt).snaps = s.snaps := by
  unfold State.advance; split <;> rfl
@[simp] theorem State.advance_lows (s : State) (dt : Nat) : (s.advance dt).lows = s.lows := by
  unfold State.advance; split <;> rfl
@[simp] theorem State.advance_sets (s : State) (dt : Nat) : (s.advance dt).sets = s.sets := by
  unfold State.advance; split <;> rfl
@[simp] theorem State.advance_dev (s : State) (dt : Nat) : (s.advance dt).dev = s.dev := by
  unfold State.advance; split <;> rfl
@[simp] theorem State.advance_tbu (s : State) (dt : Nat) : (s.advance dt).tbu = s.tbu := by
  unfold State.advance; split <;> rfl
@[simp] theorem State.advance_lg (s : State) (dt : Nat) : (s.advance dt).lg = s.lg := by
  unfold State.advance; split <;> rfl
@[simp] theorem State.advance_sfTick (s : State) (dt : Nat) : (s.advance dt).sfTick = s.sfTick := by
  unfold State.advance; split <;> rfl
@[simp] theorem State.advance_tpw (s : State) (dt : Nat) : (s.advance dt).tpw = s.tpw := by
  unfold State.advance; split <;> rfl
@[simp] theorem State.advance_cpw (s : State) (dt : Nat) : (s.advance dt).cpw = s.cpw := by
  unfold State.advance; split <;> rfl
@[simp] theorem State.advance_cpwCmp (s : State) (dt : Nat) : (s.advance dt).cpwCmp = s.cpwCmp := by
  unfold State.advance; split <;> rfl
@[simp] theorem State.advance_dcd (s : State) (dt : Nat) : (s.advance dt).dcd = s.dcd := by
  unfold State.advance; split <;> rfl
@[simp] theorem State.advance_dma (s : State) (dt : Nat) : (s.advance dt).dma = s.dma := by
  unfold State.advance; split <;> rfl
@[simp] theorem State.advance_dmaReq (s : State) (dt : Nat) : (s.advance dt).dmaReq = s.dmaReq := by
  unfold State.advance; split <;> rfl
@[simp] theorem State.advance_msv (s : State) (dt : Nat) : (s.advance dt).msv = s.msv := by
  unfold State.advance; split <;> rfl
@[simp] theorem State.advance_pin (s : State) (dt : Nat) : (s.advance dt).pin = s.pin := by
  unfold State.advance; split <;> rfl
@[simp] theorem State.advance_bch (s : State) (dt : Nat) : (s.advance dt).bch = s.bch := by
  unfold State.advance; split <;> rfl
@[simp] theorem State.advance_obc (s : State) (dt : Nat) : (s.advance dt).obc = s.obc := by
  unfold State.advance; split <;> rfl
@[simp] theorem State.advance_act (s : State) (dt : Nat) : (s.advance dt).act = s.act := by
  unfold State.advance; split <;> rfl
@[simp] theorem State.advance_halo (s : State) (dt : Nat) : (s.advance dt).halo = s.halo := by
  unfold State.advance; split <;> rfl
@[simp] theorem State.advance_scf (s : State) (dt : Nat) : (s.advance dt).scf = s.scf := by
  unfold State.advance; split <;> rfl
@[simp] theorem State.advance_canH (s : State) (dt : Nat) : (s.advance dt).canH = s.canH := by
  unfold State.advance; split <;> rfl
@[simp] theorem State.advance_canWin (s : State) (dt : Nat) : (s.advance dt).canWin = s.canWin := by
  unfold State.advance; split <;> rfl
@[simp] theorem State.advance_adhLost (s : State) (dt : Nat) : (s.advance dt).adhLost = s.adhLost := by
  unfold State.advance; split <;> rfl
@[simp] theorem State.advance_adf (s : State) (dt : Nat) : (s.advance dt).adf = s.adf := by
  unfold State.advance; split <;> rfl
@[simp] theorem State.advance_adh (s : State) (dt : Nat) : (s.advance dt).adh = s.adh := by
  unfold State.advance; split <;> rfl
@[simp] theorem State.advance_adr (s : State) (dt : Nat) : (s.advance dt).adr = s.adr := by
  unfold State.advance; split <;> rfl
@[simp] theorem State.advance_pos (s : State) (dt : Nat) : (s.advance dt).pos = s.pos := by
  unfold State.advance; split <;> rfl
@[simp] theorem State.advance_ctxs (s : State) (dt : Nat) : (s.advance dt).ctxs = s.ctxs := by
  unfold State.advance; split <;> rfl
@[simp] theorem State.advance_evrAt (s : State) (dt : Nat) : (s.advance dt).evrAt = s.evrAt := by
  unfold State.advance; split <;> rfl
@[simp] theorem State.advance_engAt (s : State) (dt : Nat) : (s.advance dt).engAt = s.engAt := by
  unfold State.advance; split <;> rfl
@[simp] theorem State.advance_zslack (s : State) (dt : Nat) : (s.advance dt).zslack = s.zslack := by
  unfold State.advance; split <;> rfl
@[simp] theorem State.advance_pslack (s : State) (dt : Nat) : (s.advance dt).pslack = s.pslack := by
  unfold State.advance; split <;> rfl
@[simp] theorem State.advance_lks (s : State) (dt : Nat) : (s.advance dt).lks = s.lks := by
  unfold State.advance; split <;> rfl
@[simp] theorem State.advance_tmu (s : State) (dt : Nat) : (s.advance dt).tmu = s.tmu := by
  unfold State.advance; split <;> rfl
@[simp] theorem State.advance_arb (s : State) (dt : Nat) : (s.advance dt).arb = s.arb := by
  unfold State.advance; split <;> rfl
@[simp] theorem State.advance_clf (s : State) (dt : Nat) : (s.advance dt).clf = s.clf := by
  unfold State.advance; split <;> rfl

/-! ### Register fields beside updates of the other parts -/

@[simp] theorem State.get_advance (s : State) (dt : Nat) (p : Page) (x : Fld) : (s.advance dt).get p x = s.get p x := by
  unfold State.advance; split <;> rfl

@[simp] theorem State.rd_advance (s : State) (dt a : Nat) : (s.advance dt).rd a = s.rd a := by
  unfold State.advance; split <;> rfl

@[simp] theorem State.get_wrByte (s : State) (a : Nat) (v : Byte) (p : Page) (x : Fld) :
    (s.wrByte a v).get p x = s.get p x := rfl

@[simp] theorem State.get_pending (s : State) (v) (p : Page) (x : Fld) : State.get { s with pending := v } p x = s.get p x := rfl
@[simp] theorem State.get_now (s : State) (v) (p : Page) (x : Fld) : State.get { s with now := v } p x = s.get p x := rfl
@[simp] theorem State.get_free (s : State) (v) (p : Page) (x : Fld) : State.get { s with free := v } p x = s.get p x := rfl
@[simp] theorem State.get_mem (s : State) (v) (p : Page) (x : Fld) : State.get { s with mem := v } p x = s.get p x := rfl
@[simp] theorem State.get_reply (s : State) (v) (p : Page) (x : Fld) : State.get { s with reply := v } p x = s.get p x := rfl
@[simp] theorem State.get_keys (s : State) (v) (p : Page) (x : Fld) : State.get { s with keys := v } p x = s.get p x := rfl
@[simp] theorem State.get_snaps (s : State) (v) (p : Page) (x : Fld) : State.get { s with snaps := v } p x = s.get p x := rfl
@[simp] theorem State.get_lows (s : State) (v) (p : Page) (x : Fld) : State.get { s with lows := v } p x = s.get p x := rfl
@[simp] theorem State.get_sets (s : State) (v) (p : Page) (x : Fld) : State.get { s with sets := v } p x = s.get p x := rfl
@[simp] theorem State.get_dev (s : State) (v) (p : Page) (x : Fld) : State.get { s with dev := v } p x = s.get p x := rfl
@[simp] theorem State.get_tbu (s : State) (v) (p : Page) (x : Fld) : State.get { s with tbu := v } p x = s.get p x := rfl
@[simp] theorem State.get_lg (s : State) (v) (p : Page) (x : Fld) : State.get { s with lg := v } p x = s.get p x := rfl
@[simp] theorem State.get_sfTick (s : State) (v) (p : Page) (x : Fld) : State.get { s with sfTick := v } p x = s.get p x := rfl
@[simp] theorem State.get_tpw (s : State) (v) (p : Page) (x : Fld) : State.get { s with tpw := v } p x = s.get p x := rfl
@[simp] theorem State.get_cpw (s : State) (v) (p : Page) (x : Fld) : State.get { s with cpw := v } p x = s.get p x := rfl
@[simp] theorem State.get_cpwCmp (s : State) (v) (p : Page) (x : Fld) : State.get { s with cpwCmp := v } p x = s.get p x := rfl
@[simp] theorem State.get_dcd (s : State) (v) (p : Page) (x : Fld) : State.get { s with dcd := v } p x = s.get p x := rfl
@[simp] theorem State.get_dma (s : State) (v) (p : Page) (x : Fld) : State.get { s with dma := v } p x = s.get p x := rfl
@[simp] theorem State.get_dmaReq (s : State) (v) (p : Page) (x : Fld) : State.get { s with dmaReq := v } p x = s.get p x := rfl
@[simp] theorem State.get_msv (s : State) (v) (p : Page) (x : Fld) : State.get { s with msv := v } p x = s.get p x := rfl
@[simp] theorem State.get_pin (s : State) (v) (p : Page) (x : Fld) : State.get { s with pin := v } p x = s.get p x := rfl
@[simp] theorem State.get_bch (s : State) (v) (p : Page) (x : Fld) : State.get { s with bch := v } p x = s.get p x := rfl
@[simp] theorem State.get_obc (s : State) (v) (p : Page) (x : Fld) : State.get { s with obc := v } p x = s.get p x := rfl
@[simp] theorem State.get_act (s : State) (v) (p : Page) (x : Fld) : State.get { s with act := v } p x = s.get p x := rfl
@[simp] theorem State.get_halo (s : State) (v) (p : Page) (x : Fld) : State.get { s with halo := v } p x = s.get p x := rfl
@[simp] theorem State.get_scf (s : State) (v) (p : Page) (x : Fld) : State.get { s with scf := v } p x = s.get p x := rfl
@[simp] theorem State.get_canH (s : State) (v) (p : Page) (x : Fld) : State.get { s with canH := v } p x = s.get p x := rfl
@[simp] theorem State.get_canWin (s : State) (v) (p : Page) (x : Fld) : State.get { s with canWin := v } p x = s.get p x := rfl
@[simp] theorem State.get_adhLost (s : State) (v) (p : Page) (x : Fld) : State.get { s with adhLost := v } p x = s.get p x := rfl
@[simp] theorem State.get_adf (s : State) (v) (p : Page) (x : Fld) : State.get { s with adf := v } p x = s.get p x := rfl
@[simp] theorem State.get_adh (s : State) (v) (p : Page) (x : Fld) : State.get { s with adh := v } p x = s.get p x := rfl
@[simp] theorem State.get_adr (s : State) (v) (p : Page) (x : Fld) : State.get { s with adr := v } p x = s.get p x := rfl
@[simp] theorem State.get_pos (s : State) (v) (p : Page) (x : Fld) : State.get { s with pos := v } p x = s.get p x := rfl
@[simp] theorem State.get_ctxs (s : State) (v) (p : Page) (x : Fld) : State.get { s with ctxs := v } p x = s.get p x := rfl
@[simp] theorem State.get_evrAt (s : State) (v) (p : Page) (x : Fld) : State.get { s with evrAt := v } p x = s.get p x := rfl
@[simp] theorem State.get_engAt (s : State) (v) (p : Page) (x : Fld) : State.get { s with engAt := v } p x = s.get p x := rfl
@[simp] theorem State.get_zslack (s : State) (v) (p : Page) (x : Fld) : State.get { s with zslack := v } p x = s.get p x := rfl
@[simp] theorem State.get_pslack (s : State) (v) (p : Page) (x : Fld) : State.get { s with pslack := v } p x = s.get p x := rfl
@[simp] theorem State.get_lks (s : State) (v) (p : Page) (x : Fld) : State.get { s with lks := v } p x = s.get p x := rfl
@[simp] theorem State.get_tmu (s : State) (v) (p : Page) (x : Fld) : State.get { s with tmu := v } p x = s.get p x := rfl
@[simp] theorem State.get_arb (s : State) (v) (p : Page) (x : Fld) : State.get { s with arb := v } p x = s.get p x := rfl
@[simp] theorem State.get_clf (s : State) (v) (p : Page) (x : Fld) : State.get { s with clf := v } p x = s.get p x := rfl

end Sys2Proof.Machine
end

