-- ==== Sys2Proof/Laws/Events.lean ====
section
/-! SUPPORT. What raising an event, recording a command status, and writing a log entry do to the registers. -/

namespace Sys2Proof.Machine
open Sys2Proof
set_option Elab.async false

/-- After the change it makes, an operation on a summary line touches at most DMA and the dates of the lines (R61). -/
theorem Kept.withLine_from (s : State) (p : Page) (f : State → State) :
    Kept [.dma, .dmaReq, .evrAt, .block .dma] (f s) (s.withLine p f) := by
  unfold State.withLine
  dsimp only
  split
  · split
    · split
      · exact .step (.step (.refl _) (.evrAt_upd ..)) (.evrTrigger ..)
      · exact .step (.refl _) (.evrAt_upd ..)
    · exact .refl _
  · exact .refl _

/-- Register fields outside DMA after an event. -/
theorem State.get_evtBits (s : State) (p q : Page) (m : Nat) (y : Fld) (hq : inPage q y = true) (hd : q.blk ≠ .dma) :
    (s.evtBits p m).get q y = (s.put p HDR.EVT (s.get p HDR.EVT ||| m)).get q y :=
  State.get_within (Kept.withLine_from s p _).within hq (by simp [hd])

/-- A register field of another word, outside DMA, keeps its value when an event is raised. -/
theorem State.get_evt_word (s : State) {p q : Page} {x y : Fld} (hq : inPage q y = true) (hd : q.blk ≠ .dma)
    (h : fldAddr q y ≠ fldAddr p HDR.EVT) : (s.evt p x).get q y = s.get q y := by
  rw [State.evt, s.get_evtBits _ _ _ _ hq hd, s.get_put_word _ h]

/-- The event's flag is set (R44). -/
theorem State.on_evt (s : State) {p : Page} {x : Fld} (hp : inPage p x = true) (hd : p.blk ≠ .dma) (ho : x.off = 0x010)
    (hw : x.hi = x.lo) (hh : x.hi < 32) : (s.evt p x).get p x = 1 := by
  have he : inPage p HDR.EVT = true := by
    simp only [inPage, ho] at hp ⊢
    exact hp
  have hx : (s.evt p x).get p HDR.EVT = s.get p HDR.EVT ||| mask x.hi x.lo := by
    rw [State.evt, s.get_evtBits _ _ _ _ he hd, s.get_put_same _ he (by decide) (by decide)]
    refine Nat.mod_eq_of_lt (Nat.or_lt_two_pow (bits_lt _ _ _) ?_)
    rw [mask, hw, Nat.add_sub_cancel_left, Nat.shiftLeft_eq]
    calc (2 ^ 1 - 1) * 2 ^ x.lo = 2 ^ x.lo := by ring
      _ < 2 ^ 32 := Nat.pow_lt_pow_right (by decide) (by omega)
  have hg : (s.evt p x).get p x = bits ((s.evt p x).get p HDR.EVT) x.hi x.lo := by
    apply Nat.eq_of_testBit_eq
    intro i
    have ha : fldAddr p x = fldAddr p HDR.EVT := by simp [fldAddr, ho, HDR.EVT]
    unfold State.get
    rw [ha, testBit_bits, testBit_bits, testBit_bits]
    by_cases hi : i < x.hi + 1 - x.lo
    · have : x.lo + i < 31 + 1 - 0 := by omega
      simp [HDR.EVT, hi, this]
    · simp [hi]
  rw [hg, hx, hw]
  apply Nat.eq_of_testBit_eq
  intro i
  rw [testBit_bits, Nat.testBit_or, mask, Nat.testBit_shiftLeft]
  cases i with
  | zero => simp
  | succ i => simp [Nat.testBit_succ]

/-- The status of a command as it reads afterwards (R22, R60). -/
theorem State.get_status (s : State) {p : Page} {x : Fld} (st : Status) (hp : inPage p x = true) (hl : x.lo + 2 ≤ x.hi)
    (hh : x.hi < 32) (ho : x.off ≠ 0x02C) : (s.status p x st).get p x = st.code := by
  have hm : st.code % 2 ^ (x.hi + 1 - x.lo) = st.code := by
    refine Nat.mod_eq_of_lt (lt_of_lt_of_le (b := 2 ^ 3) (by cases st <;> decide) (Nat.pow_le_pow_right (by decide) (by omega)))
  have h0 : (s.put p x st.code).get p x = st.code := by rw [s.get_put_same _ hp (by omega) hh, hm]
  have ha : fldAddr p x ≠ fldAddr p HDR.ERRCNT_CMD := by
    intro h
    simp only [fldAddr, HDR.ERRCNT_CMD] at h
    omega
  have hc (t : State) : (t.countCmd p).get p x = t.get p x := by
    unfold State.countCmd State.incSat
    dsimp only
    split
    · exact t.get_put_word _ ha
    · rfl
  cases st <;> simp only [State.status, hc, h0]

/-- Register fields outside the log page and DMA, beside the transition that a fault ends, keep their value when a fault
of reaction FR0 or FR1 is noted (R330, R351). -/
theorem State.get_note (s : State) (code react machs aux : Nat) {q : Page} {y : Fld} (hq : inPage q y = true)
    (hd : q.blk ≠ .dma) (hh : q.blk ≠ .hlo) (hs : q.blk ≠ .sys) : (s.note code react machs aux).get q y = s.get q y :=
  State.get_within (Kept.note s code react machs aux).within hq (by simp [hd, hh, hs])

/-- A fault ends a pending transition, and leaves the device state (R30). -/
theorem State.abortTransition_dstate (s : State) :
    s.abortTransition.get SYS.pg SYS.DSTAT_DSTATE = s.get SYS.pg SYS.DSTAT_DSTATE := by
  unfold State.abortTransition
  split
  · rw [State.get_put_bits _ _ (by decide) (by decide) (by decide), State.get_put_bits _ _ (by decide) (by decide) (by decide),
      State.flag, State.get_put_bits _ _ (by decide) (by decide) (by decide)]
  · rfl

/-- A noted fault leaves the device state. -/
theorem State.note_dstate (s : State) (code react machs aux : Nat) :
    (s.note code react machs aux).get SYS.pg SYS.DSTAT_DSTATE = s.get SYS.pg SYS.DSTAT_DSTATE := by
  unfold State.note
  rw [State.get_within (Kept.logEntry ..).within (by decide) (by decide), s.abortTransition_dstate]

/-- The end of a change set leaves every register but the status words and error counts of its pages (R51). -/
theorem State.rd_csetEnd (s : State) (r : Fin 16) (code a : Nat)
    (h : ∀ p, a ≠ fldAddr p HDR.CSET_STAT ∧ a ≠ fldAddr p HDR.ERRCNT) : (s.csetEnd r code).rd a = s.rd a := by
  unfold State.csetEnd
  have hf (l : List Page) (s : State) :
      (l.foldl (fun s p => (s.put p HDR.CSET_STAT_STATE 0).csetLast p code) s).rd a = s.rd a := by
    induction l generalizing s with
    | nil => rfl
    | cons p l ih =>
      rw [List.foldl_cons, ih]
      have h1 : a ≠ fldAddr p HDR.CSET_STAT_STATE := (h p).1
      have h2 : a ≠ fldAddr p HDR.CSET_STAT_LAST := (h p).1
      have h3 : a ≠ fldAddr p HDR.ERRCNT_CSET := (h p).2
      have hl (t : State) : (t.csetLast p code).rd a = t.rd a := by
        unfold State.csetLast State.incSat
        dsimp only
        split
        · exact State.rd_setWord_other _ _ h2
        · split
          · exact (State.rd_setWord_other _ _ h3).trans (State.rd_setWord_other _ _ h2)
          · exact State.rd_setWord_other _ _ h2
      rw [hl]
      exact State.rd_setWord_other _ _ h1
  exact hf _ s

end Sys2Proof.Machine
end

