-- ==== Sys2Proof/Laws/KeptDcdc.lean ====
section
/-! SUPPORT. What each operation of Machine/Dcdc.lean keeps. -/

namespace Sys2Proof.Machine
open Sys2Proof
set_option Elab.async false

theorem Kept.dcdLatch (s : State) : Kept [.dcd] s (State.dcdLatch s) := by
  unfold State.dcdLatch
  repeat' with_reducible first
    | exact .refl _
    | intro _
    | refine .step ?_ (by with_reducible first
        | exact .dcd_upd ..)

theorem Kept.dcdTrip (s : State) (code : Nat) : Kept (.pos :: Part.reaction) s (State.dcdTrip s code) := by
  unfold State.dcdTrip
  repeat' with_reducible first
    | exact .refl _
    | refine .step ?_ (by with_reducible first
        | exact .dcdFault .. | exact .evt .. | exact .raise ..)

theorem Kept.dcdVset (s : State) (val : W32) : Kept [.block .dcd] s (State.dcdVset s val) := by
  unfold State.dcdVset
  repeat' with_reducible first
    | exact .refl _
    | refine .step ?_ (by with_reducible first
        | exact .countCmd .. | exact .setWord .. | exact .refuse ..)
    | refine .ite ?_ ?_
    | split

theorem Kept.dcdCmd (s : State) (op : Nat) : Kept [.cpw, .dcd, .dma, .dmaReq, .evrAt, .block .dcd, .block .dma] s
    (State.dcdCmd s op) := by
  unfold State.dcdCmd
  dsimp only
  repeat' with_reducible first
    | exact .refl _
    | refine .step ?_ (by with_reducible first
        | exact .put .. | exact .dcdGo .. | exact .dcdStop .. | exact .setWord .. | exact .status ..)
    | refine .command ?_ ?_ ?_
    | (show (_ : List Part) ⊆ _; first | exact Part.sub (by decide +kernel) | (dsimp only; exact Part.sub (by decide +kernel)) | simp [Part.reaction, Part.butPending, Part.andRegs])
    | intro _
    | split
    | refine .step ?_ (by with_reducible first
        | exact .dcd_upd ..)

theorem Kept.execDcdVsetWrite (dt : Nat) (_req : Req) (val : W32) (s : State) : KeptOut [.now, .block .dcd] s
    (Machine.execDcdVsetWrite dt _req val s) := by
  unfold Machine.execDcdVsetWrite
  repeat' with_reducible first
    | exact .refl _
    | refine .step ?_ (by with_reducible first
        | exact .advance .. | exact .dcdVset ..)
    | refine .next ?_

theorem Kept.execDcdStart (dt : Nat) (_req : Req) (s : State) : KeptOut [.cpw, .dcd, .dma, .dmaReq, .evrAt, .now,
    .block .dcd, .block .dma] s (Machine.execDcdStart dt _req s) := by
  unfold Machine.execDcdStart
  repeat' with_reducible first
    | exact .refl _
    | refine .step ?_ (by with_reducible first
        | exact .advance .. | exact .dcdCmd ..)
    | refine .blockCmd ?_ ?_ ?_
    | (show (_ : List Part) ⊆ _; first | exact Part.sub (by decide +kernel) | (dsimp only; exact Part.sub (by decide +kernel)) | simp [Part.reaction, Part.butPending, Part.andRegs])
    | refine .next ?_
    | intro _

theorem Kept.execDcdStop (dt : Nat) (_req : Req) (s : State) : KeptOut [.cpw, .dcd, .dma, .dmaReq, .evrAt, .now,
    .block .dcd, .block .dma] s (Machine.execDcdStop dt _req s) := by
  unfold Machine.execDcdStop
  repeat' with_reducible first
    | exact .refl _
    | refine .step ?_ (by with_reducible first
        | exact .advance .. | exact .dcdCmd ..)
    | refine .blockCmd ?_ ?_ ?_
    | (show (_ : List Part) ⊆ _; first | exact Part.sub (by decide +kernel) | (dsimp only; exact Part.sub (by decide +kernel)) | simp [Part.reaction, Part.butPending, Part.andRegs])
    | refine .next ?_
    | intro _

theorem Kept.execDcdAck (dt : Nat) (_req : Req) (s : State) : KeptOut [.cpw, .dcd, .dma, .dmaReq, .evrAt, .now,
    .block .dcd, .block .dma] s (Machine.execDcdAck dt _req s) := by
  unfold Machine.execDcdAck
  repeat' with_reducible first
    | exact .refl _
    | refine .step ?_ (by with_reducible first
        | exact .advance .. | exact .dcdCmd ..)
    | refine .blockCmd ?_ ?_ ?_
    | (show (_ : List Part) ⊆ _; first | exact Part.sub (by decide +kernel) | (dsimp only; exact Part.sub (by decide +kernel)) | simp [Part.reaction, Part.butPending, Part.andRegs])
    | refine .next ?_
    | intro _

theorem Kept.execDcdClrCnt (dt : Nat) (_req : Req) (s : State) : KeptOut [.cpw, .dcd, .dma, .dmaReq, .evrAt, .now,
    .block .dcd, .block .dma] s (Machine.execDcdClrCnt dt _req s) := by
  unfold Machine.execDcdClrCnt
  repeat' with_reducible first
    | exact .refl _
    | refine .step ?_ (by with_reducible first
        | exact .advance .. | exact .dcdCmd ..)
    | refine .blockCmd ?_ ?_ ?_
    | (show (_ : List Part) ⊆ _; first | exact Part.sub (by decide +kernel) | (dsimp only; exact Part.sub (by decide +kernel)) | simp [Part.reaction, Part.butPending, Part.andRegs])
    | refine .next ?_
    | intro _

theorem Kept.dcdTestDone (s : State) : Kept (Part.andRegs [.act, .bch, .canH, .clf, .cpw, .dcd, .dev, .dma, .dmaReq,
    .evrAt, .halo, .lks, .msv, .obc, .pos, .scf, .sets, .tpw]) s (State.dcdTestDone s) := by
  unfold State.dcdTestDone
  dsimp only
  repeat' with_reducible first
    | exact .refl _
    | refine .step ?_ (by with_reducible first
        | exact .dcdLow .. | exact .enter .. | exact .dcdModes .. | exact .dcdGo .. | exact .dcdRefresh ..)
    | refine .ite ?_ ?_
    | intro _
    | split
    | refine .step ?_ (by with_reducible first
        | exact .dcd_upd ..)

theorem Kept.dcdMid (s : State) (p : Fin 4) (word : W32) (hold : Nat) : Kept (.pos :: Part.reaction) s (State.dcdMid
    s p word hold) := by
  unfold State.dcdMid
  dsimp only
  repeat' with_reducible first
    | exact .refl _
    | refine .step ?_ (by with_reducible first
        | exact .put .. | exact .dcdTrip .. | exact .dcdTestDone ..)
    | refine .ite ?_ ?_
    | split
    | refine .step ?_ (by with_reducible first
        | exact .dcd_upd ..)

theorem Kept.dcdEntry (s : State) (u e : Nat) (word : W32) (hold : Nat) : Kept (.pos :: Part.reaction) s
    (State.dcdEntry s u e word hold) := by
  unfold State.dcdEntry
  repeat' with_reducible first
    | exact .refl _
    | refine .step ?_ (by with_reducible first
        | exact .dcdMid ..)
    | refine .ite ?_ ?_
    | refine .foldl ?_ ?_ _
    | intro _
    | split

theorem Kept.execDcdTestTimeout (dt : Nat) (p : Fin 4) (s : State) : KeptOut (.now :: .pos :: Part.reaction) s
    (Machine.execDcdTestTimeout dt p s) := by
  unfold Machine.execDcdTestTimeout
  dsimp only
  repeat' with_reducible first
    | exact .refl _
    | refine .step ?_ (by with_reducible first
        | exact .advance .. | exact .dcdTrip ..)
    | refine .next ?_
    | refine KeptOut.ite ?_ ?_
    | refine .ite ?_ ?_
    | split

theorem Kept.execSoftstartTo (dt : Nat) (s : State) : KeptOut (.now :: .pos :: Part.reaction) s
    (Machine.execSoftstartTo dt s) := by
  unfold Machine.execSoftstartTo
  dsimp only
  repeat' with_reducible first
    | exact .refl _
    | refine .step ?_ (by with_reducible first
        | exact .advance .. | exact .dcdTrip ..)
    | refine .next ?_
    | refine KeptOut.ite ?_ ?_
    | refine .ite ?_ ?_
    | split

theorem Kept.dcdSequence (s : State) : Kept (.pos :: Part.reaction) s (State.dcdSequence s) := by
  unfold State.dcdSequence
  dsimp only
  repeat' with_reducible first
    | exact .refl _
    | refine .step ?_ (by with_reducible first
        | exact .enter .. | exact .incSat .. | exact .evt .. | exact .raise ..)
    | refine .ite ?_ ?_
    | intro _
    | split
    | refine .step ?_ (by with_reducible first
        | exact .dcd_upd ..)

theorem Kept.dcdPhase (s : State) (p t per phi : Nat) : Kept [.cpw] s (State.dcdPhase s p t per phi) := by
  unfold State.dcdPhase
  dsimp only
  repeat' with_reducible first
    | exact .refl _
    | refine .step ?_ (by with_reducible first
        | exact .cpwPlace ..)
    | intro _

theorem Kept.dcdSlew (s : State) (per : Nat) : Kept [.dcd] s (State.dcdSlew s per) := by
  unfold State.dcdSlew
  dsimp only
  repeat' with_reducible first
    | exact .refl _
    | refine .ite ?_ ?_
    | split
    | refine .step ?_ (by with_reducible first
        | exact .dcd_upd ..)

theorem Kept.dcdPhi (s : State) (per : Nat) : Kept [.dcd, .block .dcd] s (State.dcdPhi s per) := by
  unfold State.dcdPhi
  dsimp only
  repeat' with_reducible first
    | exact .refl _
    | refine .step ?_ (by with_reducible first
        | exact .incSat .. | exact .put ..)
    | refine .ite ?_ ?_
    | split
    | refine .step ?_ (by with_reducible first
        | exact .dcd_upd ..)

theorem Kept.dcdFollow (s : State) : Kept [.dcd] s (State.dcdFollow s) := by
  unfold State.dcdFollow
  repeat' with_reducible first
    | exact .refl _
    | refine .step ?_ (by with_reducible first
        | exact .dcd_upd ..)

theorem Kept.dcdMail (s : State) : Kept [.block .ctx] s (State.dcdMail s) := by
  unfold State.dcdMail
  repeat' with_reducible first
    | exact .refl _
    | refine .step ?_ (by with_reducible first
        | exact .mboxWrite ..)

theorem Kept.dcdPeriod (s : State) (t per : Nat) : Kept (.pos :: Part.reaction) s (State.dcdPeriod s t per) := by
  unfold State.dcdPeriod
  dsimp only
  repeat' with_reducible first
    | exact .refl _
    | refine .step ?_ (by with_reducible first
        | exact .dcdLow .. | exact .dcdFollow .. | exact .dcdMail .. | exact .dcdPhi .. | exact .dcdTrip ..
        | exact .dcdSlew .. | exact .dcdSequence .. | exact .dcdModes .. | exact .dcdPhase ..
        | exact .dcdPhaseLow ..)
    | refine .ite ?_ ?_
    | refine .foldl ?_ ?_ _
    | refine .foldlSnd ?_ _ _ _ | refine .foldlFst ?_ _ _ _
    | intro _
    | split
    | refine .step ?_ (by with_reducible first
        | exact .dcd_upd ..)

theorem Kept.dcdTake (s : State) : Kept [.dcd, .dma, .dmaReq, .evrAt, .block .dcd, .block .dma] s (State.dcdTake s)
    := by
  unfold State.dcdTake
  dsimp only
  repeat' with_reducible first
    | exact .refl _
    | refine .step ?_ (by with_reducible first
        | exact .setWord .. | exact .evtIf ..)
    | refine .ite ?_ ?_
    | intro _
    | split
    | refine .step ?_ (by with_reducible first
        | exact .dcd_upd ..)

theorem Kept.dcdUpdate (s : State) : Kept (.pos :: Part.reaction) s (State.dcdUpdate s) := by
  unfold State.dcdUpdate
  dsimp only
  repeat' with_reducible first
    | exact .refl _
    | refine .step ?_ (by with_reducible first
        | exact .dcdLatch .. | exact .dcdTake .. | exact .dcdFollow .. | exact .setWord .. | exact .dcdTrip ..
        | exact .evt .. | exact .raise .. | exact .dcdGo ..)
    | refine .ite ?_ ?_
    | refine .foldl ?_ ?_ _
    | intro _
    | split

end Sys2Proof.Machine
end

