-- ==== Sys2Proof/Laws/KeptTpw.lean ====
section
/-! SUPPORT. What each operation of Machine/Tpw.lean keeps. -/

namespace Sys2Proof.Machine
open Sys2Proof
set_option Elab.async false

theorem Kept.tpwKeep (s : State) (n : Fin 6) : Kept [.tpw] s (State.tpwKeep s n) := by
  unfold State.tpwKeep
  dsimp only
  repeat' with_reducible first
    | exact .refl _
    | refine .step ?_ (by with_reducible first
        | exact .tpwSet ..)
    | refine .ite ?_ ?_
    | intro _
    | split

theorem Kept.tpwAsk (s : State) (n pat : Nat) : Kept [.dma, .dmaReq, .evrAt, .pos, .tpw, .block .dma, .block .hlo,
    .block .pos, .block .sys, .block .tpw] s (State.tpwAsk s n pat) := by
  unfold State.tpwAsk
  repeat' with_reducible first
    | exact .refl _
    | refine .step ?_ (by with_reducible first
        | exact .tpwRequest ..)
    | refine .ite ?_ ?_
    | split

theorem Kept.tpwComplete (s : State) (n : Fin 6) : Kept [.dma, .dmaReq, .evrAt, .msv, .pos, .tpw, .block .dma, .block
    .hlo, .block .pos, .block .sys, .block .tpw] s (State.tpwComplete s n) := by
  unfold State.tpwComplete
  dsimp only
  repeat' with_reducible first
    | exact .refl _
    | refine .step ?_ (by with_reducible first
        | exact .flag .. | exact .tpwSet .. | exact .tpwAsk .. | exact .msvSet ..)
    | refine .ite ?_ ?_
    | intro _
    | split

theorem Kept.tpwCmp (s : State) (req : Nat) (n : Fin 6) (leg : Fin 3) (val : Nat) : Kept [.dma, .dmaReq, .evrAt,
    .msv, .pos, .tpw, .block .dma, .block .hlo, .block .pos, .block .sys, .block .tpw] s (State.tpwCmp s req n leg
    val) := by
  unfold State.tpwCmp
  dsimp only
  repeat' with_reducible first
    | exact .refl _
    | refine .step ?_ (by with_reducible first
        | exact .tpwKeep .. | exact .put .. | exact .tpwComplete .. | exact .refuse ..)
    | refine .ite ?_ ?_
    | split

theorem Kept.tpwStore (s : State) (n : Fin 6) (a b c : Nat) : Kept [.dma, .dmaReq, .evrAt, .msv, .pos, .tpw, .block
    .dma, .block .hlo, .block .pos, .block .sys, .block .tpw] s (State.tpwStore s n a b c) := by
  unfold State.tpwStore
  repeat' with_reducible first
    | exact .refl _
    | refine .step ?_ (by with_reducible first
        | exact .tpwCmp ..)

theorem Kept.execTpwCmpWrite (dt : Nat) (req : Req) (n : Fin 6) (leg : Fin 3) (val : W32) (s : State) : KeptOut
    [.dma, .dmaReq, .evrAt, .msv, .now, .pos, .tpw, .block .dma, .block .hlo, .block .pos, .block .sys, .block .tpw]
    s (Machine.execTpwCmpWrite dt req n leg val s) := by
  unfold Machine.execTpwCmpWrite
  repeat' with_reducible first
    | exact .refl _
    | refine .step ?_ (by with_reducible first
        | exact .advance .. | exact .tpwCmp ..)
    | refine .next ?_

theorem Kept.tpwLatch (s : State) (n : Fin 6) (bit : Nat) : Kept [.tpw] s (State.tpwLatch s n bit) := by
  unfold State.tpwLatch
  repeat' with_reducible first
    | exact .refl _
    | refine .step ?_ (by with_reducible first
        | exact .tpwSet ..)
    | refine .ite ?_ ?_
    | intro _
    | split

theorem Kept.tpwTrip (s : State) (n : Fin 6) (bit : Nat) (evt : Fld) (code : Nat) : Kept (.pos :: Part.reaction) s
    (State.tpwTrip s n bit evt code) := by
  unfold State.tpwTrip
  dsimp only
  repeat' with_reducible first
    | exact .refl _
    | refine .step ?_ (by with_reducible first
        | exact .tpwLatch .. | exact .tpwRefresh .. | exact .evt .. | exact .raise ..)

theorem Kept.execOutMismatch (dt : Nat) (n ball : Fin 6) (s : State) : KeptOut (.now :: .pos :: Part.reaction) s
    (Machine.execOutMismatch dt n ball s) := by
  unfold Machine.execOutMismatch
  dsimp only
  repeat' with_reducible first
    | exact .refl _
    | refine .step ?_ (by with_reducible first
        | exact .advance .. | exact .tpwSet .. | exact .tpwTrip ..)
    | refine .next ?_
    | intro _

theorem Kept.execShootThrough (dt : Nat) (n : Fin 6) (leg : Fin 3) (s : State) : KeptOut (.now :: .pos ::
    Part.reaction) s (Machine.execShootThrough dt n leg s) := by
  unfold Machine.execShootThrough
  dsimp only
  repeat' with_reducible first
    | exact .refl _
    | refine .step ?_ (by with_reducible first
        | exact .advance .. | exact .tpwSet .. | exact .tpwPatternAt .. | exact .tpwTrip ..)
    | refine .next ?_
    | refine KeptOut.ite ?_ ?_
    | refine .ite ?_ ?_
    | intro _
    | split

theorem Kept.msvSwitched (s : State) (m : Nat) : Kept [.dma, .dmaReq, .evrAt, .halo, .msv, .block .dma, .block .msv]
    s (State.msvSwitched s m) := by
  unfold State.msvSwitched
  dsimp only
  repeat' with_reducible first
    | exact .refl _
    | refine .step ?_ (by with_reducible first
        | exact .msvSet .. | exact .put .. | exact .msvGo ..)
    | refine .ite ?_ ?_
    | intro _
    | split

theorem Kept.msvUpdatePoint (s : State) (n : Fin 6) : Kept [.dma, .dmaReq, .evrAt, .halo, .msv, .pos, .tpw, .block
    .dma, .block .hlo, .block .msv, .block .pos, .block .sys, .block .tpw] s (State.msvUpdatePoint s n) := by
  unfold State.msvUpdatePoint
  dsimp only
  repeat' with_reducible first
    | exact .refl _
    | refine .step ?_ (by with_reducible first
        | exact .msvSet .. | exact .put .. | exact .tpwAsk .. | exact .msvSwitched ..)
    | refine .ite ?_ ?_
    | refine .foldl ?_ ?_ _
    | refine .foldlSnd ?_ _ _ _ | refine .foldlFst ?_ _ _ _
    | intro _
    | split

theorem Kept.tpwPlace (s : State) (n : Fin 6) (t : Nat) (half : Bool) (p len : Nat) : Kept [.dma, .dmaReq, .evrAt,
    .tpw, .block .dma, .block .tpw] s (State.tpwPlace s n t half p len) := by
  unfold State.tpwPlace
  dsimp only
  repeat' with_reducible first
    | exact .refl _
    | refine .step ?_ (by with_reducible first
        | exact .tpwSet .. | exact .incSat .. | exact .evt ..)
    | refine .ite ?_ ?_
    | refine .foldl ?_ ?_ _
    | intro _
    | split

theorem Kept.tpwTake (s : State) (n : Fin 6) (new : Bool) : Kept [.dma, .dmaReq, .evrAt, .pos, .tpw, .block .dma,
    .block .hlo, .block .pos, .block .sys, .block .tpw] s (State.tpwTake s n new) := by
  unfold State.tpwTake
  dsimp only
  repeat' with_reducible first
    | exact .refl _
    | refine .step ?_ (by with_reducible first
        | exact .tpwSet .. | exact .tpwPattern .. | exact .put ..)
    | refine .ite ?_ ?_
    | intro _
    | split

theorem Kept.tpwUpdate (s : State) (n : Fin 6) (t : Nat) (half : Bool) (per : Nat) : Kept (.pos :: Part.reaction) s
    (State.tpwUpdate s n t half per) := by
  unfold State.tpwUpdate
  dsimp only
  repeat' with_reducible first
    | exact .refl _
    | refine .step ?_ (by with_reducible first
        | exact .put64 .. | exact .flag .. | exact .evt .. | exact .put .. | exact .incSat .. | exact .raise ..
        | exact .evtIf .. | exact .tpwTake .. | exact .tpwTrip .. | exact .tpwPlace ..
        | exact .msvUpdatePoint ..)
    | refine .ite ?_ ?_
    | refine .foldl ?_ ?_ _
    | refine .foldlSnd ?_ _ _ _ | refine .foldlFst ?_ _ _ _
    | (rename_i h; refine .ofSnd h ?_) | (rename_i h; refine .ofFst h ?_)
    | intro _
    | split

theorem Kept.execTpwUpdatePoint (dt : Nat) (n : Fin 6) (s : State) : KeptOut (.now :: .pos :: Part.reaction) s
    (Machine.execTpwUpdatePoint dt n s) := by
  unfold Machine.execTpwUpdatePoint
  dsimp only
  repeat' with_reducible first
    | exact .refl _
    | refine .step ?_ (by with_reducible first
        | exact .advance .. | exact .tpwSet .. | exact .tpwUpdate ..)
    | refine .next ?_
    | refine KeptOut.ite ?_ ?_
    | refine .ite ?_ ?_
    | intro _
    | split

theorem Kept.tpwPeriod (s : State) (n : Fin 6) (t per len : Nat) : Kept (.pos :: Part.reaction) s (State.tpwPeriod s
    n t per len) := by
  unfold State.tpwPeriod
  dsimp only
  repeat' with_reducible first
    | exact .refl _
    | refine .step ?_ (by with_reducible first
        | exact .tpwSet .. | exact .flag .. | exact .tpwTrip ..)
    | refine .ite ?_ ?_
    | intro _
    | split

theorem Kept.tpwCmd (s : State) (n : Fin 6) (cmd : Nat) : Kept [.tpw, .block .tpw] s (State.tpwCmd s n cmd) := by
  unfold State.tpwCmd
  dsimp only
  repeat' with_reducible first
    | exact .refl _
    | refine .step ?_ (by with_reducible first
        | exact .countCmd .. | exact .tpwSet ..)
    | refine .ite ?_ ?_
    | intro _
    | split

theorem Kept.execTpwPatSwitch (dt : Nat) (_req : Req) (n : Fin 6) (s : State) : KeptOut [.now, .tpw, .block .tpw] s
    (Machine.execTpwPatSwitch dt _req n s) := by
  unfold Machine.execTpwPatSwitch
  repeat' with_reducible first
    | exact .refl _
    | refine .step ?_ (by with_reducible first
        | exact .advance .. | exact .tpwCmd ..)
    | refine .next ?_

theorem Kept.execTpwPatPi (dt : Nat) (_req : Req) (n : Fin 6) (s : State) : KeptOut [.now, .tpw, .block .tpw] s
    (Machine.execTpwPatPi dt _req n s) := by
  unfold Machine.execTpwPatPi
  repeat' with_reducible first
    | exact .refl _
    | refine .step ?_ (by with_reducible first
        | exact .advance .. | exact .tpwCmd ..)
    | refine .next ?_

theorem Kept.execTpwPatAscLow (dt : Nat) (_req : Req) (n : Fin 6) (s : State) : KeptOut [.now, .tpw, .block .tpw] s
    (Machine.execTpwPatAscLow dt _req n s) := by
  unfold Machine.execTpwPatAscLow
  repeat' with_reducible first
    | exact .refl _
    | refine .step ?_ (by with_reducible first
        | exact .advance .. | exact .tpwCmd ..)
    | refine .next ?_

theorem Kept.execTpwPatAscHigh (dt : Nat) (_req : Req) (n : Fin 6) (s : State) : KeptOut [.now, .tpw, .block .tpw] s
    (Machine.execTpwPatAscHigh dt _req n s) := by
  unfold Machine.execTpwPatAscHigh
  repeat' with_reducible first
    | exact .refl _
    | refine .step ?_ (by with_reducible first
        | exact .advance .. | exact .tpwCmd ..)
    | refine .next ?_

theorem Kept.tpwBalls (s : State) (n : Fin 6) : Kept [.free] s (State.tpwBalls s n).2 := by
  unfold State.tpwBalls
  dsimp only
  repeat' with_reducible first
    | exact .refl _
    | refine .step ?_ (by with_reducible first
        | exact .freshBit ..)
    | refine .ite ?_ ?_
    | refine .foldl ?_ ?_ _
    | refine .foldlSnd ?_ _ _ _ | refine .foldlFst ?_ _ _ _
    | (rename_i h; refine .ofSnd h ?_) | (rename_i h; refine .ofFst h ?_)
    | intro _
    | split

theorem Kept.tpwAck (s : State) (n : Fin 6) : Kept [.dma, .dmaReq, .evrAt, .free, .pos, .tpw, .block .dma, .block
    .hlo, .block .pos, .block .sys, .block .tpw] s (State.tpwAck s n).2 := by
  unfold State.tpwAck
  dsimp only
  repeat' with_reducible first
    | exact .refl _
    | refine .step ?_ (by with_reducible first
        | exact .tpwBalls .. | exact .put .. | exact .tpwSet .. | exact .flag .. | exact .tpwRefresh ..)
    | refine .ite ?_ ?_
    | (rename_i h; refine .ofSnd h ?_) | (rename_i h; refine .ofFst h ?_)
    | intro _
    | split

end Sys2Proof.Machine
end

