-- ==== Sys2Proof/Laws/KeptTraction.lean ====
section
/-! SUPPORT. What each operation of Machine/Traction.lean keeps. -/

namespace Sys2Proof.Machine
open Sys2Proof
set_option Elab.async false

theorem Kept.msvTcmd (s : State) (req m : Nat) (val : W32) : Kept [.msv, .block .msv] s (State.msvTcmd s req m val)
    := by
  unfold State.msvTcmd
  dsimp only
  repeat' with_reducible first
    | exact .refl _
    | refine .step ?_ (by with_reducible first
        | exact .setWord .. | exact .msvSet .. | exact .refuse ..)
    | refine .ite ?_ ?_
    | intro _
    | split

theorem Kept.execMsvTcmdWrite (dt : Nat) (req : Req) (m : Fin 3) (val : W32) (s : State) : KeptOut [.msv, .now,
    .block .msv] s (Machine.execMsvTcmdWrite dt req m val s) := by
  unfold Machine.execMsvTcmdWrite
  repeat' with_reducible first
    | exact .refl _
    | refine .step ?_ (by with_reducible first
        | exact .advance .. | exact .msvTcmd ..)
    | refine .next ?_

theorem Kept.execTcmdTimeout (dt : Nat) (m : Fin 3) (s : State) : KeptOut (.now :: .pos :: Part.reaction) s
    (Machine.execTcmdTimeout dt m s) := by
  unfold Machine.execTcmdTimeout
  dsimp only
  repeat' with_reducible first
    | exact .refl _
    | refine .step ?_ (by with_reducible first
        | exact .advance .. | exact .msvSet .. | exact .evt .. | exact .lhActive .. | exact .note ..
        | exact .raise .. | exact .msvStop ..)
    | refine .next ?_
    | refine KeptOut.ite ?_ ?_
    | refine .ite ?_ ?_
    | intro _
    | split

theorem Kept.execLhPinSample (dt : Nat) (pin : Fin 9) (code : BitVec 12) (s : State) : KeptOut [.now, .pin] s
    (Machine.execLhPinSample dt pin code s) := by
  unfold Machine.execLhPinSample
  dsimp only
  repeat' with_reducible first
    | exact .refl _
    | refine .step ?_ (by with_reducible first
        | exact .advance ..)
    | refine .next ?_
    | refine KeptOut.ite ?_ ?_
    | refine .ite ?_ ?_
    | intro _
    | split
    | refine .step ?_ (by with_reducible first
        | exact .pin_upd ..)

theorem Kept.execCmdPinEdge (dt : Nat) (pin : Fin 9) (falling : Bool) (s : State) : KeptOut [.now, .pin] s
    (Machine.execCmdPinEdge dt pin falling s) := by
  unfold Machine.execCmdPinEdge
  dsimp only
  repeat' with_reducible first
    | exact .refl _
    | refine .step ?_ (by with_reducible first
        | exact .advance ..)
    | refine .next ?_
    | refine KeptOut.ite ?_ ?_
    | refine .ite ?_ ?_
    | split
    | refine .step ?_ (by with_reducible first
        | exact .pin_upd ..)

theorem Kept.msvLimp (s : State) (m : Nat) : Kept [.msv] s (State.msvLimp s m).1 := by
  unfold State.msvLimp
  dsimp only
  repeat' with_reducible first
    | exact .refl _
    | refine .step ?_ (by with_reducible first
        | exact .msvSet ..)
    | refine .ite ?_ ?_
    | intro _
    | split

theorem Kept.msvScale (s : State) (m : Nat) : Kept [.msv] s (State.msvScale s m) := by
  unfold State.msvScale
  dsimp only
  repeat' with_reducible first
    | exact .refl _
    | refine .step ?_ (by with_reducible first
        | exact .msvSet ..)
    | refine .ite ?_ ?_
    | intro _
    | split

theorem Kept.msvTorque (s : State) (m : Nat) (w hi lo : F32) : Kept [.msv, .block .msv] s (State.msvTorque s m w hi
    lo) := by
  unfold State.msvTorque
  dsimp only
  repeat' with_reducible first
    | exact .refl _
    | refine .step ?_ (by with_reducible first
        | exact .msvSet .. | exact .setWord ..)
    | refine .ite ?_ ?_
    | intro _
    | split

theorem Kept.msvStages (s : State) (m : Nat) (vdc w : F32) : Kept [.msv, .block .msv] s (State.msvStages s m vdc w).1
    := by
  unfold State.msvStages
  dsimp only
  repeat' with_reducible first
    | exact .refl _
    | refine .step ?_ (by with_reducible first
        | exact .msvSet .. | exact .put .. | exact .flag .. | exact .incSat ..)
    | refine .ite ?_ ?_
    | (rename_i h; refine .ofSnd h ?_) | (rename_i h; refine .ofFst h ?_)
    | intro _
    | split

theorem Kept.msvChoose (s : State) (m : Nat) (w : F32) : Kept [.dma, .dmaReq, .evrAt, .block .dma, .block .ghb,
    .block .msv] s (State.msvChoose s m w) := by
  unfold State.msvChoose
  dsimp only
  repeat' with_reducible first
    | exact .refl _
    | refine .step ?_ (by with_reducible first
        | exact .setWord .. | exact .msvPrearm .. | exact .ghbDeliver ..)
    | refine .ite ?_ ?_
    | split

theorem Kept.msvFollow (s : State) (m : Nat) : Kept [.dma, .dmaReq, .evrAt, .pos, .tpw, .block .dma, .block .hlo,
    .block .pos, .block .sys, .block .tpw] s (State.msvFollow s m) := by
  unfold State.msvFollow
  dsimp only
  repeat' with_reducible first
    | exact .refl _
    | refine .step ?_ (by with_reducible first
        | exact .tpwAsk ..)
    | refine .ite ?_ ?_
    | refine .foldl ?_ ?_ _
    | intro _
    | split

theorem Kept.msvForceAsc (s : State) (m : Nat) : Kept [.dma, .dmaReq, .evrAt, .pos, .tpw, .block .dma, .block .hlo,
    .block .pos, .block .sys, .block .tpw] s (State.msvForceAsc s m) := by
  unfold State.msvForceAsc
  repeat' with_reducible first
    | exact .refl _
    | refine .step ?_ (by with_reducible first
        | exact .tpwRequestAll ..)
    | refine .ite ?_ ?_
    | split

theorem Kept.msvPublish (s : State) (m : Nat) (vdc hi lo : F32) : Kept [.msv] s (State.msvPublish s m vdc hi lo) := by
  unfold State.msvPublish
  dsimp only
  repeat' with_reducible first
    | exact .refl _
    | refine .step ?_ (by with_reducible first
        | exact .msvSet ..)
    | refine .ite ?_ ?_
    | intro _
    | split

theorem Kept.msvStill (s : State) (m : Nat) (w : F32) : Kept [.dma, .dmaReq, .evrAt, .halo, .msv, .pos, .tpw, .block
    .dma, .block .hlo, .block .msv, .block .pos, .block .ssf, .block .sto, .block .sys, .block .tpw] s
    (State.msvStill s m w) := by
  unfold State.msvStill
  dsimp only
  repeat' with_reducible first
    | exact .refl _
    | refine .step ?_ (by with_reducible first
        | exact .msvSet .. | exact .ss1End .. | exact .stoAssert .. | exact .msvGo .. | exact .msvFollow ..
        | exact .tpwAsk ..)
    | refine .ite ?_ ?_
    | refine .foldl ?_ ?_ _
    | intro _
    | split

theorem Kept.ss1Update (s : State) (m : Nat) (w : F32) : Kept (Part.andRegs [.dma, .dmaReq, .evrAt, .halo, .msv,
    .pos, .sets, .tpw]) s (State.ss1Update s m w) := by
  unfold State.ss1Update
  dsimp only
  repeat' with_reducible first
    | exact .refl _
    | refine .step ?_ (by with_reducible first
        | exact .setWord .. | exact .stopSet .. | exact .escalate ..)
    | refine .ite ?_ ?_
    | intro _
    | split

theorem Kept.tpUpdate (s : State) (m : Nat) (w tref : F32) : Kept (.pos :: Part.reaction) s (State.tpUpdate s m w
    tref) := by
  unfold State.tpUpdate
  dsimp only
  repeat' with_reducible first
    | exact .refl _
    | refine .step ?_ (by with_reducible first
        | exact .stopSet .. | exact .setWord .. | exact .put .. | exact .incSat .. | exact .evt ..
        | exact .raise ..)
    | refine .ite ?_ ?_
    | intro _
    | split

theorem Kept.msvUpdate (s : State) (m : Nat) : Kept (.pos :: Part.reaction) s (State.msvUpdate s m) := by
  unfold State.msvUpdate
  dsimp only
  repeat' with_reducible first
    | exact .refl _
    | refine .step ?_ (by with_reducible first
        | exact .msvSet .. | exact .setWord .. | exact .msvStill .. | exact .msvLimp .. | exact .msvScale ..
        | exact .msvTorque .. | exact .msvStages .. | exact .msvChoose .. | exact .msvForceAsc ..
        | exact .msvFollow .. | exact .msvPublish .. | exact .evt .. | exact .raise .. | exact .msvStop ..
        | exact .ss1Update .. | exact .tpUpdate ..)
    | refine .ite ?_ ?_
    | refine .foldl ?_ ?_ _
    | refine .foldlSnd ?_ _ _ _ | refine .foldlFst ?_ _ _ _
    | (rename_i h; refine .ofSnd h ?_) | (rename_i h; refine .ofFst h ?_)
    | intro _
    | split

theorem Kept.msvSetFault (s : State) (m : Nat) (k : Fin 2) : Kept (.pos :: Part.reaction) s (State.msvSetFault s m k)
    := by
  unfold State.msvSetFault
  dsimp only
  repeat' with_reducible first
    | exact .refl _
    | refine .step ?_ (by with_reducible first
        | exact .msvSet .. | exact .evt .. | exact .note .. | exact .put .. | exact .incSat .. | exact .msvGo ..
        | exact .msvFollow .. | exact .raise ..)
    | refine .ite ?_ ?_
    | intro _
    | split

theorem Kept.msvCurrents (s : State) (m : Nat) (k : Fin 2) (ra rb rc : W32) : Kept (.pos :: Part.reaction) s
    (State.msvCurrents s m k ra rb rc) := by
  unfold State.msvCurrents
  dsimp only
  repeat' with_reducible first
    | exact .refl _
    | refine .step ?_ (by with_reducible first
        | exact .msvSet .. | exact .evt .. | exact .raise .. | exact .msvSetFault ..)
    | refine .ite ?_ ?_
    | intro _
    | split

theorem Kept.msvCurrentLatch (s : State) (g : Nat) (ra rb rc : W32) : Kept (.pos :: Part.reaction) s
    (State.msvCurrentLatch s g ra rb rc) := by
  unfold State.msvCurrentLatch
  dsimp only
  repeat' with_reducible first
    | exact .refl _
    | refine .step ?_ (by with_reducible first
        | exact .msvCurrents ..)
    | refine .ite ?_ ?_
    | refine .foldl ?_ ?_ _
    | intro _
    | split

theorem Kept.msvPosChanged (s : State) (m : Nat) : Kept (Part.andRegs [.dma, .dmaReq, .evrAt, .halo, .msv, .pos,
    .sets, .tpw]) s (State.msvPosChanged s m) := by
  unfold State.msvPosChanged
  dsimp only
  repeat' with_reducible first
    | exact .refl _
    | refine .step ?_ (by with_reducible first
        | exact .msvSet .. | exact .tpwAsk .. | exact .put .. | exact .incSat .. | exact .msvGo ..
        | exact .msvFollow .. | exact .escalate ..)
    | refine .ite ?_ ?_
    | refine .foldl ?_ ?_ _
    | intro _
    | split

theorem Kept.msvEnable (s : State) (m : Nat) : Kept [.dma, .dmaReq, .evrAt, .halo, .msv, .pos, .tpw, .block .dma,
    .block .ghb, .block .hlo, .block .msv, .block .pos, .block .ssf, .block .sto, .block .sys, .block .tpw] s
    (State.msvEnable s m) := by
  unfold State.msvEnable
  dsimp only
  repeat' with_reducible first
    | exact .refl _
    | refine .step ?_ (by with_reducible first
        | exact .msvSet .. | exact .put .. | exact .msvGo .. | exact .stoEval .. | exact .ghbDeliver ..
        | exact .msvRelease .. | exact .flag ..)
    | refine .ite ?_ ?_
    | intro _
    | split

theorem Kept.msvReleased (s : State) (m : Nat) : Kept [.dma, .dmaReq, .evrAt, .halo, .msv, .pos, .tpw, .block .dma,
    .block .hlo, .block .msv, .block .pos, .block .sys, .block .tpw] s (State.msvReleased s m) := by
  unfold State.msvReleased
  dsimp only
  repeat' with_reducible first
    | exact .refl _
    | refine .step ?_ (by with_reducible first
        | exact .msvGo .. | exact .msvFollow .. | exact .tpwAsk ..)
    | refine .ite ?_ ?_
    | refine .foldl ?_ ?_ _
    | intro _
    | split

theorem Kept.msvRun (s : State) (m : Nat) : Kept [.dma, .dmaReq, .evrAt, .msv, .pos, .tpw, .block .dma, .block .hlo,
    .block .msv, .block .pos, .block .sys, .block .tpw] s (State.msvRun s m) := by
  unfold State.msvRun
  dsimp only
  repeat' with_reducible first
    | exact .refl _
    | refine .step ?_ (by with_reducible first
        | exact .put .. | exact .msvSet .. | exact .tpwAsk ..)
    | refine .foldl ?_ ?_ _
    | intro _

theorem Kept.msvCmd (s : State) (m op : Nat) : Kept [.dma, .dmaReq, .evrAt, .halo, .msv, .pos, .tpw, .block .dma,
    .block .hlo, .block .msv, .block .pos, .block .sys, .block .tpw] s (State.msvCmd s m op) := by
  unfold State.msvCmd
  dsimp only
  repeat' with_reducible first
    | exact .refl _
    | refine .step ?_ (by with_reducible first
        | exact .put .. | exact .msvRun .. | exact .status .. | exact .msvStop .. | exact .msvSet ..
        | exact .setWord ..)
    | refine .command ?_ ?_ ?_
    | (show (_ : List Part) ⊆ _; first | exact Part.sub (by decide +kernel) | (dsimp only; exact Part.sub (by decide +kernel)) | simp [Part.reaction, Part.butPending, Part.andRegs])
    | refine .ite ?_ ?_
    | intro _
    | split

theorem Kept.msvOp (s : State) (m op : Nat) : Kept [.dma, .dmaReq, .evrAt, .halo, .msv, .pos, .tpw, .block .dma,
    .block .hlo, .block .msv, .block .pos, .block .sys, .block .tpw] s (State.msvOp s m op) := by
  unfold State.msvOp
  repeat' with_reducible first
    | exact .refl _
    | refine .step ?_ (by with_reducible first
        | exact .msvCmd ..)
    | refine .blockCmd ?_ ?_ ?_
    | (show (_ : List Part) ⊆ _; first | exact Part.sub (by decide +kernel) | (dsimp only; exact Part.sub (by decide +kernel)) | simp [Part.reaction, Part.butPending, Part.andRegs])
    | intro _

theorem Kept.execMsvRun (dt : Nat) (_req : Req) (m : Fin 3) (s : State) : KeptOut [.dma, .dmaReq, .evrAt, .halo,
    .msv, .now, .pos, .tpw, .block .dma, .block .hlo, .block .msv, .block .pos, .block .sys, .block .tpw] s
    (Machine.execMsvRun dt _req m s) := by
  unfold Machine.execMsvRun
  repeat' with_reducible first
    | exact .refl _
    | refine .step ?_ (by with_reducible first
        | exact .advance .. | exact .msvOp ..)
    | refine .next ?_

theorem Kept.execMsvStop (dt : Nat) (_req : Req) (m : Fin 3) (s : State) : KeptOut [.dma, .dmaReq, .evrAt, .halo,
    .msv, .now, .pos, .tpw, .block .dma, .block .hlo, .block .msv, .block .pos, .block .sys, .block .tpw] s
    (Machine.execMsvStop dt _req m s) := by
  unfold Machine.execMsvStop
  repeat' with_reducible first
    | exact .refl _
    | refine .step ?_ (by with_reducible first
        | exact .advance .. | exact .msvOp ..)
    | refine .next ?_

theorem Kept.execMsvDirFwd (dt : Nat) (_req : Req) (m : Fin 3) (s : State) : KeptOut [.dma, .dmaReq, .evrAt, .halo,
    .msv, .now, .pos, .tpw, .block .dma, .block .hlo, .block .msv, .block .pos, .block .sys, .block .tpw] s
    (Machine.execMsvDirFwd dt _req m s) := by
  unfold Machine.execMsvDirFwd
  repeat' with_reducible first
    | exact .refl _
    | refine .step ?_ (by with_reducible first
        | exact .advance .. | exact .msvOp ..)
    | refine .next ?_

theorem Kept.execMsvDirRev (dt : Nat) (_req : Req) (m : Fin 3) (s : State) : KeptOut [.dma, .dmaReq, .evrAt, .halo,
    .msv, .now, .pos, .tpw, .block .dma, .block .hlo, .block .msv, .block .pos, .block .sys, .block .tpw] s
    (Machine.execMsvDirRev dt _req m s) := by
  unfold Machine.execMsvDirRev
  repeat' with_reducible first
    | exact .refl _
    | refine .step ?_ (by with_reducible first
        | exact .advance .. | exact .msvOp ..)
    | refine .next ?_

theorem Kept.execMsvDirBoth (dt : Nat) (_req : Req) (m : Fin 3) (s : State) : KeptOut [.dma, .dmaReq, .evrAt, .halo,
    .msv, .now, .pos, .tpw, .block .dma, .block .hlo, .block .msv, .block .pos, .block .sys, .block .tpw] s
    (Machine.execMsvDirBoth dt _req m s) := by
  unfold Machine.execMsvDirBoth
  repeat' with_reducible first
    | exact .refl _
    | refine .step ?_ (by with_reducible first
        | exact .advance .. | exact .msvOp ..)
    | refine .next ?_

theorem Kept.execMsvOnesetRestore (dt : Nat) (_req : Req) (m : Fin 3) (s : State) : KeptOut [.dma, .dmaReq, .evrAt,
    .halo, .msv, .now, .pos, .tpw, .block .dma, .block .hlo, .block .msv, .block .pos, .block .sys, .block .tpw] s
    (Machine.execMsvOnesetRestore dt _req m s) := by
  unfold Machine.execMsvOnesetRestore
  repeat' with_reducible first
    | exact .refl _
    | refine .step ?_ (by with_reducible first
        | exact .advance .. | exact .msvOp ..)
    | refine .next ?_

theorem Kept.execMsvAck (dt : Nat) (_req : Req) (m : Fin 3) (s : State) : KeptOut [.dma, .dmaReq, .evrAt, .halo,
    .msv, .now, .pos, .tpw, .block .dma, .block .hlo, .block .msv, .block .pos, .block .sys, .block .tpw] s
    (Machine.execMsvAck dt _req m s) := by
  unfold Machine.execMsvAck
  repeat' with_reducible first
    | exact .refl _
    | refine .step ?_ (by with_reducible first
        | exact .advance .. | exact .msvOp ..)
    | refine .next ?_

theorem Kept.execMsvClrCnt (dt : Nat) (_req : Req) (m : Fin 3) (s : State) : KeptOut [.dma, .dmaReq, .evrAt, .halo,
    .msv, .now, .pos, .tpw, .block .dma, .block .hlo, .block .msv, .block .pos, .block .sys, .block .tpw] s
    (Machine.execMsvClrCnt dt _req m s) := by
  unfold Machine.execMsvClrCnt
  repeat' with_reducible first
    | exact .refl _
    | refine .step ?_ (by with_reducible first
        | exact .advance .. | exact .msvOp ..)
    | refine .next ?_

theorem Kept.bchTrip (s : State) (code : Nat) (evt : Fld) : Kept (.pos :: Part.reaction) s (State.bchTrip s code evt)
    := by
  unfold State.bchTrip
  dsimp only
  repeat' with_reducible first
    | exact .refl _
    | refine .step ?_ (by with_reducible first
        | exact .bchLow .. | exact .put .. | exact .incSat .. | exact .evt .. | exact .raise ..)
    | refine .step ?_ (by with_reducible first
        | exact .bch_upd ..)

theorem Kept.bchFeedback (s : State) : Kept (.pos :: Part.reaction) s (State.bchFeedback s) := by
  unfold State.bchFeedback
  dsimp only
  repeat' with_reducible first
    | exact .refl _
    | refine .step ?_ (by with_reducible first
        | exact .bchTrip ..)
    | refine .ite ?_ ?_
    | intro _
    | split
    | refine .step ?_ (by with_reducible first
        | exact .bch_upd ..)

theorem Kept.bchPeriod (s : State) (t per len : Nat) : Kept (.pos :: Part.reaction) s (State.bchPeriod s t per len)
    := by
  unfold State.bchPeriod
  dsimp only
  repeat' with_reducible first
    | exact .refl _
    | refine .step ?_ (by with_reducible first
        | exact .setWord .. | exact .bchLow .. | exact .put .. | exact .evt .. | exact .raise ..
        | exact .cpwPins .. | exact .incSat .. | exact .evtIf ..)
    | refine .ite ?_ ?_
    | intro _
    | split
    | refine .step ?_ (by with_reducible first
        | exact .bch_upd ..)

theorem Kept.bchEnable (s : State) : Kept [.bch, .cpw, .block .bch] s (State.bchEnable s) := by
  unfold State.bchEnable
  dsimp only
  repeat' with_reducible first
    | exact .refl _
    | refine .step ?_ (by with_reducible first
        | exact .put .. | exact .bchLow ..)
    | refine .ite ?_ ?_
    | split
    | refine .step ?_ (by with_reducible first
        | exact .bch_upd ..)

theorem Kept.bchCmd (s : State) (op : Nat) : Kept [.block .bch] s (State.bchCmd s op) := by
  unfold State.bchCmd
  repeat' with_reducible first
    | exact .refl _
    | refine .step ?_ (by with_reducible first
        | exact .put .. | exact .setWord .. | exact .status ..)
    | refine .blockCmd ?_ ?_ ?_
    | refine .command ?_ ?_ ?_
    | (show (_ : List Part) ⊆ _; first | exact Part.sub (by decide +kernel) | (dsimp only; exact Part.sub (by decide +kernel)) | simp [Part.reaction, Part.butPending, Part.andRegs])
    | intro _
    | split

theorem Kept.execBchAck (dt : Nat) (_req : Req) (s : State) : KeptOut [.now, .block .bch] s (Machine.execBchAck dt
    _req s) := by
  unfold Machine.execBchAck
  repeat' with_reducible first
    | exact .refl _
    | refine .step ?_ (by with_reducible first
        | exact .advance .. | exact .bchCmd ..)
    | refine .next ?_

theorem Kept.execBchClrCnt (dt : Nat) (_req : Req) (s : State) : KeptOut [.now, .block .bch] s (Machine.execBchClrCnt
    dt _req s) := by
  unfold Machine.execBchClrCnt
  repeat' with_reducible first
    | exact .refl _
    | refine .step ?_ (by with_reducible first
        | exact .advance .. | exact .bchCmd ..)
    | refine .next ?_

end Sys2Proof.Machine
end

