-- ==== Sys2Proof/Laws/KeptCharger.lean ====
section
/-! SUPPORT. What each operation of Machine/Charger.lean keeps. -/

namespace Sys2Proof.Machine
open Sys2Proof
set_option Elab.async false

theorem Kept.obcStopped (s : State) (cause : Option Nat) (clamp : Bool) : Kept [.cpw, .dev, .dma, .dmaReq, .evrAt,
    .obc, .block .dma, .block .obc] s (State.obcStopped s cause clamp) := by
  unfold State.obcStopped
  dsimp only
  repeat' with_reducible first
    | exact .refl _
    | refine .step ?_ (by with_reducible first
        | exact .obcTick .. | exact .obcLow .. | exact .obcSet .. | exact .setWord .. | exact .put ..
        | exact .cause .. | exact .flag .. | exact .obcGo ..)
    | refine .ite ?_ ?_
    | intro _
    | split

theorem Kept.obcNote (s : State) (code : Nat) (evt : Fld) : Kept (.pos :: Part.reaction) s (State.obcNote s code evt)
    := by
  unfold State.obcNote
  repeat' with_reducible first
    | exact .refl _
    | refine .step ?_ (by with_reducible first
        | exact .obcSet .. | exact .evt .. | exact .raise ..)
    | refine .ite ?_ ?_
    | intro _
    | split

theorem Kept.obcFault (s : State) (code : Nat) (evt : Fld) (cause : Nat) : Kept (.pos :: Part.reaction) s
    (State.obcFault s code evt cause) := by
  unfold State.obcFault
  dsimp only
  repeat' with_reducible first
    | exact .refl _
    | refine .step ?_ (by with_reducible first
        | exact .obcTick .. | exact .obcNote .. | exact .evt .. | exact .put .. | exact .cause ..
        | exact .obcStopping ..)
    | refine .ite ?_ ?_
    | split

theorem Kept.obcDabLow (s : State) : Kept [.cpw, .obc] s (State.obcDabLow s) := by
  unfold State.obcDabLow
  repeat' with_reducible first
    | exact .refl _
    | refine .step ?_ (by with_reducible first
        | exact .obcSet .. | exact .cpwLow ..)
    | intro _

theorem Kept.obcInhibit (s : State) (code : Nat) (evt : Fld) (cause : Nat) : Kept (.pos :: Part.reaction) s
    (State.obcInhibit s code evt cause) := by
  unfold State.obcInhibit
  dsimp only
  repeat' with_reducible first
    | exact .refl _
    | refine .step ?_ (by with_reducible first
        | exact .obcTick .. | exact .obcNote .. | exact .evt .. | exact .obcDabLow .. | exact .obcSet ..
        | exact .cause ..)
    | refine .ite ?_ ?_
    | intro _
    | split

theorem Kept.obcPackLost (s : State) : Kept (.pos :: Part.reaction) s (State.obcPackLost s) := by
  unfold State.obcPackLost
  repeat' with_reducible first
    | exact .refl _
    | refine .step ?_ (by with_reducible first
        | exact .obcSet .. | exact .incSat .. | exact .obcInhibit ..)
    | refine .ite ?_ ?_
    | intro _
    | split

theorem Kept.execObcPfcInhibit (dt : Nat) (s : State) : KeptOut [.cpw, .dev, .dma, .dmaReq, .evrAt, .now, .obc,
    .block .dma, .block .obc] s (Machine.execObcPfcInhibit dt s) := by
  unfold Machine.execObcPfcInhibit
  dsimp only
  repeat' with_reducible first
    | exact .refl _
    | refine .step ?_ (by with_reducible first
        | exact .advance .. | exact .obcStopped ..)
    | refine .next ?_
    | refine KeptOut.ite ?_ ?_
    | refine .ite ?_ ?_
    | split

theorem Kept.execObcStopBound (dt : Nat) (s : State) : KeptOut [.cpw, .dev, .dma, .dmaReq, .evrAt, .now, .obc, .block
    .dma, .block .obc] s (Machine.execObcStopBound dt s) := by
  unfold Machine.execObcStopBound
  dsimp only
  repeat' with_reducible first
    | exact .refl _
    | refine .step ?_ (by with_reducible first
        | exact .advance .. | exact .obcStopped ..)
    | refine .next ?_
    | refine KeptOut.ite ?_ ?_
    | refine .ite ?_ ?_
    | split

theorem Kept.obcShowPilot (s : State) : Kept [.block .obc] s (State.obcShowPilot s) := by
  unfold State.obcShowPilot
  repeat' with_reducible first
    | exact .refl _
    | refine .step ?_ (by with_reducible first
        | exact .put ..)

theorem Kept.obcInlet (s : State) : Kept [.dma, .dmaReq, .evrAt, .obc, .block .dma, .block .hlo, .block .obc, .block
    .sys] s (State.obcInlet s) := by
  unfold State.obcInlet
  dsimp only
  repeat' with_reducible first
    | exact .refl _
    | refine .step ?_ (by with_reducible first
        | exact .obcSet .. | exact .evt .. | exact .note ..)
    | refine .ite ?_ ?_
    | intro _
    | split

theorem Kept.obcDecoded (s : State) (win : Bool) (st : Nat) : Kept (.pos :: Part.reaction) s (State.obcDecoded s win
    st) := by
  unfold State.obcDecoded
  dsimp only
  repeat' with_reducible first
    | exact .refl _
    | refine .step ?_ (by with_reducible first
        | exact .obcSet .. | exact .put .. | exact .obcInhibit .. | exact .obcInlet ..)
    | refine .ite ?_ ?_
    | intro _
    | split

theorem Kept.obcPeriodEnd (s : State) (p h : Nat) : Kept (.pos :: Part.reaction) s (State.obcPeriodEnd s p h) := by
  unfold State.obcPeriodEnd
  dsimp only
  repeat' with_reducible first
    | exact .refl _
    | refine .step ?_ (by with_reducible first
        | exact .flag .. | exact .put .. | exact .obcShowPilot .. | exact .obcDecoded ..)
    | refine .ite ?_ ?_
    | split

theorem Kept.obcWindowEnd (s : State) : Kept (.pos :: Part.reaction) s (State.obcWindowEnd s) := by
  unfold State.obcWindowEnd
  dsimp only
  repeat' with_reducible first
    | exact .refl _
    | refine .step ?_ (by with_reducible first
        | exact .flag .. | exact .put .. | exact .obcSet .. | exact .obcShowPilot .. | exact .obcDecoded ..)
    | intro _
    | split

theorem Kept.obcEdge (s : State) (rising : Bool) (t : Nat) : Kept (.pos :: Part.reaction) s (State.obcEdge s rising
    t) := by
  unfold State.obcEdge
  dsimp only
  repeat' with_reducible first
    | exact .refl _
    | refine .step ?_ (by with_reducible first
        | exact .obcPeriodEnd .. | exact .obcSet ..)
    | refine .ite ?_ ?_
    | intro _
    | split

theorem Kept.obcPilotBegin (s : State) : Kept [.obc] s (State.obcPilotBegin s) := by
  unfold State.obcPilotBegin
  repeat' with_reducible first
    | exact .refl _
    | refine .step ?_ (by with_reducible first
        | exact .obcSet ..)
    | refine .ite ?_ ?_
    | intro _
    | split

theorem Kept.obcPilotTake (s : State) (mv : Int) : Kept (.pos :: Part.reaction) s (State.obcPilotTake s mv) := by
  unfold State.obcPilotTake
  dsimp only
  repeat' with_reducible first
    | exact .refl _
    | refine .step ?_ (by with_reducible first
        | exact .obcSet .. | exact .obcWindowEnd ..)
    | refine .ite ?_ ?_
    | intro _
    | split

theorem Kept.execCpSample (dt : Nat) (mv : Int) (edge : Option (Bool × Nat)) (s : State) : KeptOut (.now :: .pos ::
    Part.reaction) s (Machine.execCpSample dt mv edge s) := by
  unfold Machine.execCpSample
  dsimp only
  repeat' with_reducible first
    | exact .refl _
    | refine .step ?_ (by with_reducible first
        | exact .advance .. | exact .obcPilotBegin .. | exact .obcEdge .. | exact .obcPilotTake ..
        | exact .obcSet ..)
    | refine .next ?_
    | refine KeptOut.ite ?_ ?_
    | refine .ite ?_ ?_
    | intro _
    | split

theorem Kept.execPpSample (dt : Nat) (vpp vdda : Int) (s : State) : KeptOut (.now :: .pos :: Part.reaction) s
    (Machine.execPpSample dt vpp vdda s) := by
  unfold Machine.execPpSample
  dsimp only
  repeat' with_reducible first
    | exact .refl _
    | refine .step ?_ (by with_reducible first
        | exact .advance .. | exact .obcSet .. | exact .put .. | exact .obcInhibit .. | exact .obcInlet ..)
    | refine .next ?_
    | refine KeptOut.ite ?_ ?_
    | refine .ite ?_ ?_
    | (rename_i h; refine .ofSnd h ?_) | (rename_i h; refine .ofFst h ?_)
    | intro _
    | split

theorem Kept.obcFrame (s : State) (req : Nat) (val : W32) : Kept (.pos :: Part.reaction) s (State.obcFrame s req val)
    := by
  unfold State.obcFrame
  dsimp only
  repeat' with_reducible first
    | exact .refl _
    | refine .step ?_ (by with_reducible first
        | exact .refuse .. | exact .flag .. | exact .obcSet .. | exact .obcPackLost ..)
    | refine .ite ?_ ?_
    | intro _
    | split

theorem Kept.execObcBmsFrame (dt : Nat) (req : Req) (val : W32) (s : State) : KeptOut (.now :: .pos :: Part.reaction)
    s (Machine.execObcBmsFrame dt req val s) := by
  unfold Machine.execObcBmsFrame
  repeat' with_reducible first
    | exact .refl _
    | refine .step ?_ (by with_reducible first
        | exact .advance .. | exact .obcFrame ..)
    | refine .next ?_

theorem Kept.execBmsTimeout (dt : Nat) (s : State) : KeptOut (.now :: .pos :: Part.reaction) s
    (Machine.execBmsTimeout dt s) := by
  unfold Machine.execBmsTimeout
  dsimp only
  repeat' with_reducible first
    | exact .refl _
    | refine .step ?_ (by with_reducible first
        | exact .advance .. | exact .obcSet .. | exact .obcFault ..)
    | refine .next ?_
    | refine KeptOut.ite ?_ ?_
    | refine .ite ?_ ?_
    | intro _
    | split

theorem Kept.obcEnterStep (s : State) (k : Nat) : Kept [.obc, .block .obc] s (State.obcEnterStep s k) := by
  unfold State.obcEnterStep
  dsimp only
  repeat' with_reducible first
    | exact .refl _
    | refine .step ?_ (by with_reducible first
        | exact .put .. | exact .obcSet ..)
    | refine .ite ?_ ?_
    | intro _
    | split

theorem Kept.obcProfile (s : State) (vpack : F32) : Kept [.dma, .dmaReq, .evrAt, .obc, .block .dma, .block .obc] s
    (State.obcProfile s vpack) := by
  unfold State.obcProfile
  dsimp only
  repeat' with_reducible first
    | exact .refl _
    | refine .step ?_ (by with_reducible first
        | exact .put .. | exact .evt .. | exact .obcEnterStep ..)
    | refine .ite ?_ ?_
    | split

theorem Kept.obcIref (s : State) (i : F32) (src : Nat) : Kept [.obc, .block .obc] s (State.obcIref s i src) := by
  unfold State.obcIref
  repeat' with_reducible first
    | exact .refl _
    | refine .step ?_ (by with_reducible first
        | exact .obcSet .. | exact .setWord .. | exact .put ..)
    | intro _

theorem Kept.obcMeasure (s : State) : Kept (.pos :: Part.reaction) s (State.obcMeasure s) := by
  unfold State.obcMeasure
  dsimp only
  repeat' with_reducible first
    | exact .refl _
    | refine .step ?_ (by with_reducible first
        | exact .obcSet .. | exact .obcPackLost .. | exact .obcInhibit .. | exact .obcFault ..)
    | refine .ite ?_ ?_
    | intro _
    | split

theorem Kept.obcMail (s : State) : Kept [.block .ctx] s (State.obcMail s) := by
  unfold State.obcMail
  dsimp only
  repeat' with_reducible first
    | exact .refl _
    | refine .step ?_ (by with_reducible first
        | exact .mboxWrite ..)
    | refine .ite ?_ ?_
    | split

theorem Kept.obcControl (s : State) (vpack step : F32) : Kept [.cpw, .dev, .dma, .dmaReq, .evrAt, .obc, .block .dma,
    .block .obc] s (State.obcControl s vpack step) := by
  unfold State.obcControl
  dsimp only
  repeat' with_reducible first
    | exact .refl _
    | refine .step ?_ (by with_reducible first
        | exact .obcDabLow .. | exact .incSat .. | exact .obcGo .. | exact .obcSet .. | exact .obcIref ..
        | exact .evt .. | exact .obcStopping ..)
    | refine .ite ?_ ?_
    | (rename_i h; refine .ofSnd h ?_) | (rename_i h; refine .ofFst h ?_)
    | intro _
    | split

theorem Kept.obcUpdate (s : State) : Kept (.pos :: Part.reaction) s (State.obcUpdate s) := by
  unfold State.obcUpdate
  dsimp only
  repeat' with_reducible first
    | exact .refl _
    | refine .step ?_ (by with_reducible first
        | exact .obcTick .. | exact .obcMeasure .. | exact .obcProfile .. | exact .obcStopped ..
        | exact .obcIref .. | exact .obcStopping .. | exact .obcControl .. | exact .obcSet ..
        | exact .obcMail ..)
    | refine .ite ?_ ?_
    | intro _
    | split

theorem Kept.obcAcSample (s : State) : Kept [.obc] s (State.obcAcSample s) := by
  unfold State.obcAcSample
  dsimp only
  repeat' with_reducible first
    | exact .refl _
    | refine .step ?_ (by with_reducible first
        | exact .obcSet ..)
    | refine .ite ?_ ?_
    | intro _
    | split

theorem Kept.obcPrecharge (s : State) : Kept [.dma, .dmaReq, .evrAt, .obc, .block .dma, .block .obc] s
    (State.obcPrecharge s) := by
  unfold State.obcPrecharge
  dsimp only
  repeat' with_reducible first
    | exact .refl _
    | refine .step ?_ (by with_reducible first
        | exact .obcSet .. | exact .obcTick .. | exact .obcEnterStep .. | exact .obcGo .. | exact .put ..)
    | refine .ite ?_ ?_
    | intro _
    | split

theorem Kept.obcAcCheck (s : State) : Kept (.pos :: Part.reaction) s (State.obcAcCheck s) := by
  unfold State.obcAcCheck
  dsimp only
  repeat' with_reducible first
    | exact .refl _
    | refine .step ?_ (by with_reducible first
        | exact .obcSet .. | exact .obcInhibit .. | exact .obcFault .. | exact .obcPrecharge ..)
    | refine .ite ?_ ?_
    | intro _
    | split

theorem Kept.obcPrechargeFail (s : State) : Kept (.pos :: Part.reaction) s (State.obcPrechargeFail s) := by
  unfold State.obcPrechargeFail
  repeat' with_reducible first
    | exact .refl _
    | refine .step ?_ (by with_reducible first
        | exact .obcTick .. | exact .obcNote .. | exact .obcStopped ..)

theorem Kept.execObcPhaseCountDone (dt : Nat) (s : State) : KeptOut (.now :: .pos :: Part.reaction) s
    (Machine.execObcPhaseCountDone dt s) := by
  unfold Machine.execObcPhaseCountDone
  dsimp only
  repeat' with_reducible first
    | exact .refl _
    | refine .step ?_ (by with_reducible first
        | exact .advance .. | exact .put .. | exact .obcPrechargeFail .. | exact .obcSet ..)
    | refine .next ?_
    | refine KeptOut.ite ?_ ?_
    | refine .ite ?_ ?_
    | intro _
    | split

theorem Kept.execPrechargeTo (dt : Nat) (s : State) : KeptOut (.now :: .pos :: Part.reaction) s
    (Machine.execPrechargeTo dt s) := by
  unfold Machine.execPrechargeTo
  dsimp only
  repeat' with_reducible first
    | exact .refl _
    | refine .step ?_ (by with_reducible first
        | exact .advance .. | exact .obcPrechargeFail ..)
    | refine .next ?_
    | refine KeptOut.ite ?_ ?_
    | refine .ite ?_ ?_
    | split

theorem Kept.execTimerExpired (dt : Nat) (t : Fin 3) (s : State) : KeptOut (.now :: .pos :: Part.reaction) s
    (Machine.execTimerExpired dt t s) := by
  unfold Machine.execTimerExpired
  dsimp only
  repeat' with_reducible first
    | exact .refl _
    | refine .step ?_ (by with_reducible first
        | exact .advance .. | exact .obcTick .. | exact .put .. | exact .incSat .. | exact .obcFault ..)
    | refine .next ?_
    | refine KeptOut.ite ?_ ?_
    | refine .ite ?_ ?_
    | (rename_i h; refine .ofSnd h ?_) | (rename_i h; refine .ofFst h ?_)
    | split

theorem Kept.obcLeg (s : State) (ts : List (Nat × Nat)) (leg t len : Nat) : Kept [.cpw, .free] s (State.obcLeg s ts
    leg t len) := by
  unfold State.obcLeg
  dsimp only
  repeat' with_reducible first
    | exact .refl _
    | refine .step ?_ (by with_reducible first
        | exact .freshNat .. | exact .cpwPlace ..)
    | refine .foldl ?_ ?_ _
    | refine .foldlSnd ?_ _ _ _ | refine .foldlFst ?_ _ _ _
    | (rename_i h; refine .ofSnd h ?_) | (rename_i h; refine .ofFst h ?_)
    | intro _
    | split

theorem Kept.obcDrive (s : State) (dab : Bool) (t len : Nat) : Kept [.cpw, .free] s (State.obcDrive s dab t len) := by
  unfold State.obcDrive
  dsimp only
  repeat' with_reducible first
    | exact .refl _
    | refine .step ?_ (by with_reducible first
        | exact .obcLeg .. | exact .cpwLegLow ..)
    | refine .ite ?_ ?_
    | refine .foldl ?_ ?_ _
    | refine .foldlSnd ?_ _ _ _ | refine .foldlFst ?_ _ _ _
    | intro _
    | split

theorem Kept.obcPeriod (s : State) (dab : Bool) (t len : Nat) : Kept (.free :: .pos :: Part.reaction) s
    (State.obcPeriod s dab t len) := by
  unfold State.obcPeriod
  dsimp only
  repeat' with_reducible first
    | exact .refl _
    | refine .step ?_ (by with_reducible first
        | exact .obcSet .. | exact .obcDrive .. | exact .obcFault ..)
    | refine .ite ?_ ?_
    | intro _
    | split

theorem Kept.obcStart (s : State) (dir : Bool) : Kept [.dma, .dmaReq, .evrAt, .obc, .block .dma, .block .obc] s
    (State.obcStart s dir) := by
  unfold State.obcStart
  dsimp only
  repeat' with_reducible first
    | exact .refl _
    | refine .step ?_ (by with_reducible first
        | exact .obcSet .. | exact .put64 .. | exact .put .. | exact .flag .. | exact .incSat ..
        | exact .obcGo ..)
    | refine .foldl ?_ ?_ _
    | intro _

theorem Kept.obcCmd (s : State) (op : Nat) (dir : Bool) : Kept [.dev, .dma, .dmaReq, .evrAt, .obc, .block .dma,
    .block .obc] s (State.obcCmd s op dir) := by
  unfold State.obcCmd
  dsimp only
  repeat' with_reducible first
    | exact .refl _
    | refine .step ?_ (by with_reducible first
        | exact .obcStart .. | exact .obcStopping .. | exact .obcSet .. | exact .setWord .. | exact .status ..)
    | refine .command ?_ ?_ ?_
    | (show (_ : List Part) ⊆ _; first | exact Part.sub (by decide +kernel) | (dsimp only; exact Part.sub (by decide +kernel)) | simp [Part.reaction, Part.butPending, Part.andRegs])
    | intro _
    | split

theorem Kept.obcOp (s : State) (op : Nat) (dir : Bool) : Kept [.dev, .dma, .dmaReq, .evrAt, .obc, .block .dma, .block
    .obc] s (State.obcOp s op dir) := by
  unfold State.obcOp
  repeat' with_reducible first
    | exact .refl _
    | refine .step ?_ (by with_reducible first
        | exact .obcCmd ..)
    | refine .blockCmd ?_ ?_ ?_
    | (show (_ : List Part) ⊆ _; first | exact Part.sub (by decide +kernel) | (dsimp only; exact Part.sub (by decide +kernel)) | simp [Part.reaction, Part.butPending, Part.andRegs])
    | intro _

theorem Kept.execObcStart (dt : Nat) (_req : Req) (dir : Bool) (s : State) : KeptOut [.dev, .dma, .dmaReq, .evrAt,
    .now, .obc, .block .dma, .block .obc] s (Machine.execObcStart dt _req dir s) := by
  unfold Machine.execObcStart
  repeat' with_reducible first
    | exact .refl _
    | refine .step ?_ (by with_reducible first
        | exact .advance .. | exact .obcOp ..)
    | refine .next ?_

theorem Kept.execObcStop (dt : Nat) (_req : Req) (s : State) : KeptOut [.dev, .dma, .dmaReq, .evrAt, .now, .obc,
    .block .dma, .block .obc] s (Machine.execObcStop dt _req s) := by
  unfold Machine.execObcStop
  repeat' with_reducible first
    | exact .refl _
    | refine .step ?_ (by with_reducible first
        | exact .advance .. | exact .obcOp ..)
    | refine .next ?_

theorem Kept.execObcSetDir (dt : Nat) (_req : Req) (dir : Bool) (s : State) : KeptOut [.dev, .dma, .dmaReq, .evrAt,
    .now, .obc, .block .dma, .block .obc] s (Machine.execObcSetDir dt _req dir s) := by
  unfold Machine.execObcSetDir
  repeat' with_reducible first
    | exact .refl _
    | refine .step ?_ (by with_reducible first
        | exact .advance .. | exact .obcOp ..)
    | refine .next ?_

theorem Kept.execObcAck (dt : Nat) (_req : Req) (s : State) : KeptOut [.dev, .dma, .dmaReq, .evrAt, .now, .obc,
    .block .dma, .block .obc] s (Machine.execObcAck dt _req s) := by
  unfold Machine.execObcAck
  repeat' with_reducible first
    | exact .refl _
    | refine .step ?_ (by with_reducible first
        | exact .advance .. | exact .obcOp ..)
    | refine .next ?_

theorem Kept.execObcClrCnt (dt : Nat) (_req : Req) (s : State) : KeptOut [.dev, .dma, .dmaReq, .evrAt, .now, .obc,
    .block .dma, .block .obc] s (Machine.execObcClrCnt dt _req s) := by
  unfold Machine.execObcClrCnt
  repeat' with_reducible first
    | exact .refl _
    | refine .step ?_ (by with_reducible first
        | exact .advance .. | exact .obcOp ..)
    | refine .next ?_

theorem Kept.obcEnable (s : State) : Kept [.cpw, .dev, .dma, .dmaReq, .evrAt, .obc, .block .dma, .block .obc] s
    (State.obcEnable s) := by
  unfold State.obcEnable
  dsimp only
  repeat' with_reducible first
    | exact .refl _
    | refine .step ?_ (by with_reducible first
        | exact .obcSet .. | exact .obcGo .. | exact .obcStopped .. | exact .flag ..)
    | refine .ite ?_ ?_
    | intro _
    | split

end Sys2Proof.Machine
end

