-- ==== Sys2Proof/Laws/KeptKeys.lean ====
section
/-! SUPPORT. What each operation of Machine/Keys.lean keeps. -/

namespace Sys2Proof.Machine
open Sys2Proof
set_option Elab.async false

theorem Kept.setUnlock (s : State) (p : Page) (req : Nat) (u : Unlock) : Kept [.keys] s (State.setUnlock s p req u)
    := by
  unfold State.setUnlock
  repeat' with_reducible first
    | exact .refl _
    | intro _
    | refine .step ?_ (by with_reducible first
        | exact .keys_upd ..)

theorem Kept.keyWrite (s : State) (p : Page) (req : Nat) (val : W32) : Kept [.keys, .block p.blk] s (State.keyWrite s
    p req val) := by
  unfold State.keyWrite
  repeat' with_reducible first
    | exact .refl _
    | refine .step ?_ (by with_reducible first
        | exact .setUnlock .. | exact .refuse ..)
    | refine .ite ?_ ?_
    | split

theorem Kept.withKey {F : List Part} {r s : State} {p : Page} {req : Nat} {f : State → State} (hs : Kept F r s)
    (hF : [.keys, .block p.blk] ⊆ F) (hf : ∀ t, Kept F t (f t)) : Kept F r (s.withKey p req f) :=
  .ite (.trans (.step hs (.setUnlock ..) fun _ h => hF (by simp_all)) (hf _))
    (.step hs (.refuse ..) fun _ h => hF (by simp_all))

theorem Kept.execKeyWrite (dt : Nat) (req : Req) (page : Page) (val : W32) (s : State) : KeptOut [.keys, .now, .block
    page.blk] s (Machine.execKeyWrite dt req page val s) := by
  unfold Machine.execKeyWrite
  dsimp only
  repeat' with_reducible first
    | exact .refl _
    | refine .step ?_ (by with_reducible first
        | exact .advance .. | exact .refuse .. | exact .keyWrite ..)
    | refine .next ?_
    | refine KeptOut.ite ?_ ?_
    | refine .ite ?_ ?_
    | split

theorem Kept.execUnlockLapse (dt : Nat) (req : Req) (page : Page) (s : State) : KeptOut [.keys, .now] s
    (Machine.execUnlockLapse dt req page s) := by
  unfold Machine.execUnlockLapse
  dsimp only
  repeat' with_reducible first
    | exact .refl _
    | refine .step ?_ (by with_reducible first
        | exact .advance .. | exact .setUnlock ..)
    | refine .next ?_
    | refine KeptOut.ite ?_ ?_
    | refine .ite ?_ ?_
    | split

end Sys2Proof.Machine
end

