-- ==== Sys2Proof/Laws/KeptActuator.lean ====
section
/-! SUPPORT. What each operation of Machine/Actuator.lean keeps. -/

namespace Sys2Proof.Machine
open Sys2Proof
set_option Elab.async false

theorem Kept.actKeep (s : State) (n : Fin 6) : Kept [.act] s (State.actKeep s n) := by
  unfold State.actKeep
  repeat' with_reducible first
    | exact .refl _
    | refine .step ?_ (by with_reducible first
        | exact .actSet ..)
    | refine .ite ?_ ?_
    | intro _
    | split

theorem Kept.actCmp (s : State) (req : Nat) (n : Fin 6) (leg : Fin 3) (val : Nat) : Kept [.act, .block .act] s
    (State.actCmp s req n leg val) := by
  unfold State.actCmp
  dsimp only
  repeat' with_reducible first
    | exact .refl _
    | refine .step ?_ (by with_reducible first
        | exact .actKeep .. | exact .put .. | exact .flag .. | exact .refuse ..)
    | refine .ite ?_ ?_
    | split

theorem Kept.actStore (s : State) (n : Fin 6) (a b c : Nat) : Kept [.act, .block .act] s (State.actStore s n a b c)
    := by
  unfold State.actStore
  repeat' with_reducible first
    | exact .refl _
    | refine .step ?_ (by with_reducible first
        | exact .actCmp ..)

theorem Kept.execActCmpWrite (dt : Nat) (req : Req) (n : Fin 6) (leg : Fin 3) (val : W32) (s : State) : KeptOut
    [.act, .now, .block .act] s (Machine.execActCmpWrite dt req n leg val s) := by
  unfold Machine.execActCmpWrite
  repeat' with_reducible first
    | exact .refl _
    | refine .step ?_ (by with_reducible first
        | exact .advance .. | exact .actCmp ..)
    | refine .next ?_

theorem Kept.actTgt (s : State) (req : Nat) (n : Fin 6) (val : W32) : Kept [.block .act] s (State.actTgt s req n val)
    := by
  unfold State.actTgt
  dsimp only
  repeat' with_reducible first
    | exact .refl _
    | refine .step ?_ (by with_reducible first
        | exact .refuse .. | exact .incSat .. | exact .setWord ..)
    | refine .ite ?_ ?_
    | split

theorem Kept.execActTgtWrite (dt : Nat) (req : Req) (n : Fin 6) (val : W32) (s : State) : KeptOut [.now, .block .act]
    s (Machine.execActTgtWrite dt req n val s) := by
  unfold Machine.execActTgtWrite
  repeat' with_reducible first
    | exact .refl _
    | refine .step ?_ (by with_reducible first
        | exact .advance .. | exact .actTgt ..)
    | refine .next ?_

theorem Kept.actIdlePins (s : State) (n : Fin 6) (pat t : Nat) : Kept [.act] s (State.actIdlePins s n pat t) := by
  unfold State.actIdlePins
  dsimp only
  repeat' with_reducible first
    | exact .refl _
    | refine .step ?_ (by with_reducible first
        | exact .actSet ..)
    | refine .ite ?_ ?_
    | intro _
    | split

theorem Kept.actToFault (s : State) (n : Fin 6) (code : Nat) (free : Bool) : Kept [.act, .dev, .dma, .dmaReq, .evrAt,
    .block .act, .block .dma] s (State.actToFault s n code free) := by
  unfold State.actToFault
  dsimp only
  repeat' with_reducible first
    | exact .refl _
    | refine .step ?_ (by with_reducible first
        | exact .actSet .. | exact .cause .. | exact .actGo .. | exact .actIdlePins .. | exact .actPat ..)
    | refine .ite ?_ ?_
    | intro _
    | split

theorem Kept.actFault (s : State) (n : Fin 6) (code : Nat) (evt : Fld) : Kept (.pos :: Part.reaction) s
    (State.actFault s n code evt) := by
  unfold State.actFault
  dsimp only
  repeat' with_reducible first
    | exact .refl _
    | refine .step ?_ (by with_reducible first
        | exact .evt .. | exact .put .. | exact .actToFault .. | exact .raise ..)
    | refine .ite ?_ ?_
    | split

theorem Kept.actCount (s : State) (n : Fin 6) (d : Int) : Kept [.act, .block .act] s (State.actCount s n d) := by
  unfold State.actCount
  dsimp only
  repeat' with_reducible first
    | exact .refl _
    | refine .step ?_ (by with_reducible first
        | exact .actSet .. | exact .puts ..)
    | intro _

theorem Kept.actHall (s : State) (n : Fin 6) : Kept (.pos :: Part.reaction) s (State.actHall s n) := by
  unfold State.actHall
  dsimp only
  repeat' with_reducible first
    | exact .refl _
    | refine .step ?_ (by with_reducible first
        | exact .put .. | exact .actFault ..)
    | refine .ite ?_ ?_
    | split

theorem Kept.execActHallEdge (dt : Nat) (n : Fin 6) (st : BitVec 3) (s : State) : KeptOut (.now :: .pos ::
    Part.reaction) s (Machine.execActHallEdge dt n st s) := by
  unfold Machine.execActHallEdge
  dsimp only
  repeat' with_reducible first
    | exact .refl _
    | refine .step ?_ (by with_reducible first
        | exact .advance .. | exact .actSet .. | exact .actCount .. | exact .put .. | exact .actFault ..
        | exact .raise ..)
    | refine .next ?_
    | refine KeptOut.ite ?_ ?_
    | refine .ite ?_ ?_
    | intro _
    | split

theorem Kept.execActSpeedTimeout (dt : Nat) (n : Fin 6) (s : State) : KeptOut [.act, .now] s
    (Machine.execActSpeedTimeout dt n s) := by
  unfold Machine.execActSpeedTimeout
  dsimp only
  repeat' with_reducible first
    | exact .refl _
    | refine .step ?_ (by with_reducible first
        | exact .advance .. | exact .actSet ..)
    | refine .next ?_
    | refine KeptOut.ite ?_ ?_
    | refine .ite ?_ ?_
    | intro _
    | split

theorem Kept.actAlign (s : State) (n : Fin 6) : Kept [.act, .block .act] s (State.actAlign s n) := by
  unfold State.actAlign
  repeat' with_reducible first
    | exact .refl _
    | refine .step ?_ (by with_reducible first
        | exact .actSet .. | exact .put ..)
    | refine .ite ?_ ?_
    | intro _
    | split

theorem Kept.actCommutate (s : State) (n : Fin 6) : Kept [.act, .block .act] s (State.actCommutate s n) := by
  unfold State.actCommutate
  dsimp only
  repeat' with_reducible first
    | exact .refl _
    | refine .step ?_ (by with_reducible first
        | exact .put .. | exact .actCount .. | exact .actSet ..)
    | intro _

theorem Kept.execActAlignEnd (dt : Nat) (n : Fin 6) (s : State) : KeptOut [.act, .now] s (Machine.execActAlignEnd dt
    n s) := by
  unfold Machine.execActAlignEnd
  dsimp only
  repeat' with_reducible first
    | exact .refl _
    | refine .step ?_ (by with_reducible first
        | exact .advance .. | exact .actSet ..)
    | refine .next ?_
    | refine KeptOut.ite ?_ ?_
    | refine .ite ?_ ?_
    | intro _
    | split

theorem Kept.execActForcedCommutation (dt : Nat) (n : Fin 6) (s : State) : KeptOut [.act, .now, .block .act] s
    (Machine.execActForcedCommutation dt n s) := by
  unfold Machine.execActForcedCommutation
  dsimp only
  repeat' with_reducible first
    | exact .refl _
    | refine .step ?_ (by with_reducible first
        | exact .advance .. | exact .actSet .. | exact .actCommutate ..)
    | refine .next ?_
    | refine KeptOut.ite ?_ ?_
    | refine .ite ?_ ?_
    | intro _
    | split

theorem Kept.execActBemfEdge (dt : Nat) (n : Fin 6) (s : State) : KeptOut [.act, .now] s (Machine.execActBemfEdge dt
    n s) := by
  unfold Machine.execActBemfEdge
  dsimp only
  repeat' with_reducible first
    | exact .refl _
    | refine .step ?_ (by with_reducible first
        | exact .advance .. | exact .actSet ..)
    | refine .next ?_
    | refine KeptOut.ite ?_ ?_
    | refine .ite ?_ ?_
    | intro _
    | split

theorem Kept.execActSectorAdvance (dt : Nat) (n : Fin 6) (s : State) : KeptOut [.act, .now, .block .act] s
    (Machine.execActSectorAdvance dt n s) := by
  unfold Machine.execActSectorAdvance
  dsimp only
  repeat' with_reducible first
    | exact .refl _
    | refine .step ?_ (by with_reducible first
        | exact .advance .. | exact .actSet .. | exact .actCommutate ..)
    | refine .next ?_
    | refine KeptOut.ite ?_ ?_
    | refine .ite ?_ ?_
    | intro _
    | split

theorem Kept.execSensorlessStart (dt : Nat) (n : Fin 6) (s : State) : KeptOut (.now :: .pos :: Part.reaction) s
    (Machine.execSensorlessStart dt n s) := by
  unfold Machine.execSensorlessStart
  dsimp only
  repeat' with_reducible first
    | exact .refl _
    | refine .step ?_ (by with_reducible first
        | exact .advance .. | exact .actFault ..)
    | refine .next ?_
    | refine KeptOut.ite ?_ ?_
    | refine .ite ?_ ?_
    | split

theorem Kept.actDrive (s : State) (n : Fin 6) (t len : Nat) : Kept [.act] s (State.actDrive s n t len) := by
  unfold State.actDrive
  dsimp only
  repeat' with_reducible first
    | exact .refl _
    | refine .step ?_ (by with_reducible first
        | exact .actSet ..)
    | refine .ite ?_ ?_
    | (rename_i h; refine .ofSnd h ?_) | (rename_i h; refine .ofFst h ?_)
    | intro _
    | split

theorem Kept.actPeriod (s : State) (n : Fin 6) (t per len : Nat) : Kept (.pos :: Part.reaction) s (State.actPeriod s
    n t per len) := by
  unfold State.actPeriod
  dsimp only
  repeat' with_reducible first
    | exact .refl _
    | refine .step ?_ (by with_reducible first
        | exact .actSet .. | exact .flag .. | exact .actFault .. | exact .actPat .. | exact .actDrive ..
        | exact .actIdlePins ..)
    | refine .ite ?_ ?_
    | intro _
    | split

theorem Kept.actPinUpdate (s : State) (n : Fin 6) : Kept (.pos :: Part.reaction) s (State.actPinUpdate s n) := by
  unfold State.actPinUpdate
  dsimp only
  repeat' with_reducible first
    | exact .refl _
    | refine .step ?_ (by with_reducible first
        | exact .flag .. | exact .actSet .. | exact .evt .. | exact .raise ..)
    | refine .ite ?_ ?_
    | intro _
    | split

theorem Kept.actSeqEnd (s : State) (n : Fin 6) : Kept [.act, .dma, .dmaReq, .evrAt, .block .act, .block .dma] s
    (State.actSeqEnd s n) := by
  unfold State.actSeqEnd
  dsimp only
  repeat' with_reducible first
    | exact .refl _
    | refine .step ?_ (by with_reducible first
        | exact .put .. | exact .evt .. | exact .incSat .. | exact .actSet .. | exact .actGo ..
        | exact .actIdlePins ..)
    | intro _
    | split

theorem Kept.actDetect (s : State) (n : Fin 6) (i w tgt : F32) : Kept (.pos :: Part.reaction) s (State.actDetect s n
    i w tgt) := by
  unfold State.actDetect
  dsimp only
  repeat' with_reducible first
    | exact .refl _
    | refine .step ?_ (by with_reducible first
        | exact .actSet .. | exact .actFault .. | exact .incSat .. | exact .put .. | exact .actSeqEnd ..)
    | refine .ite ?_ ?_
    | intro _
    | split

theorem Kept.actUpdate (s : State) (n : Fin 6) : Kept (.pos :: Part.reaction) s (State.actUpdate s n) := by
  unfold State.actUpdate
  dsimp only
  repeat' with_reducible first
    | exact .refl _
    | refine .step ?_ (by with_reducible first
        | exact .setWord .. | exact .actSet .. | exact .actPinUpdate .. | exact .mboxWrite ..
        | exact .actFault .. | exact .actDetect ..)
    | refine .ite ?_ ?_
    | intro _
    | split

theorem Kept.execSeqTimeout (dt : Nat) (n : Fin 6) (s : State) : KeptOut (.now :: .pos :: Part.reaction) s
    (Machine.execSeqTimeout dt n s) := by
  unfold Machine.execSeqTimeout
  dsimp only
  repeat' with_reducible first
    | exact .refl _
    | refine .step ?_ (by with_reducible first
        | exact .advance .. | exact .actFault ..)
    | refine .next ?_
    | refine KeptOut.ite ?_ ?_
    | refine .ite ?_ ?_
    | split

theorem Kept.actCmd (s : State) (n : Fin 6) (op : Nat) : Kept [.act, .dma, .dmaReq, .evrAt, .block .act, .block .dma]
    s (State.actCmd s n op) := by
  unfold State.actCmd
  dsimp only
  repeat' with_reducible first
    | exact .refl _
    | refine .step ?_ (by with_reducible first
        | exact .actSet .. | exact .actAlign .. | exact .actGo .. | exact .actIdlePins .. | exact .setWord ..
        | exact .status ..)
    | refine .command ?_ ?_ ?_
    | (show (_ : List Part) ⊆ _; first | exact Part.sub (by decide +kernel) | (dsimp only; exact Part.sub (by decide +kernel)) | simp [Part.reaction, Part.butPending, Part.andRegs])
    | refine .ite ?_ ?_
    | intro _
    | split

theorem Kept.actOp (s : State) (n : Fin 6) (op : Nat) : Kept [.act, .dma, .dmaReq, .evrAt, .block .act, .block .dma]
    s (State.actOp s n op) := by
  unfold State.actOp
  repeat' with_reducible first
    | exact .refl _
    | refine .step ?_ (by with_reducible first
        | exact .actCmd ..)
    | refine .blockCmd ?_ ?_ ?_
    | (show (_ : List Part) ⊆ _; first | exact Part.sub (by decide +kernel) | (dsimp only; exact Part.sub (by decide +kernel)) | simp [Part.reaction, Part.butPending, Part.andRegs])
    | intro _

theorem Kept.execActRun (dt : Nat) (_req : Req) (n : Fin 6) (s : State) : KeptOut [.act, .dma, .dmaReq, .evrAt, .now,
    .block .act, .block .dma] s (Machine.execActRun dt _req n s) := by
  unfold Machine.execActRun
  repeat' with_reducible first
    | exact .refl _
    | refine .step ?_ (by with_reducible first
        | exact .advance .. | exact .actOp ..)
    | refine .next ?_

theorem Kept.execActSeq (dt : Nat) (_req : Req) (n : Fin 6) (s : State) : KeptOut [.act, .dma, .dmaReq, .evrAt, .now,
    .block .act, .block .dma] s (Machine.execActSeq dt _req n s) := by
  unfold Machine.execActSeq
  repeat' with_reducible first
    | exact .refl _
    | refine .step ?_ (by with_reducible first
        | exact .advance .. | exact .actOp ..)
    | refine .next ?_

theorem Kept.execActBrake (dt : Nat) (_req : Req) (n : Fin 6) (s : State) : KeptOut [.act, .dma, .dmaReq, .evrAt,
    .now, .block .act, .block .dma] s (Machine.execActBrake dt _req n s) := by
  unfold Machine.execActBrake
  repeat' with_reducible first
    | exact .refl _
    | refine .step ?_ (by with_reducible first
        | exact .advance .. | exact .actOp ..)
    | refine .next ?_

theorem Kept.execActStop (dt : Nat) (_req : Req) (n : Fin 6) (s : State) : KeptOut [.act, .dma, .dmaReq, .evrAt,
    .now, .block .act, .block .dma] s (Machine.execActStop dt _req n s) := by
  unfold Machine.execActStop
  repeat' with_reducible first
    | exact .refl _
    | refine .step ?_ (by with_reducible first
        | exact .advance .. | exact .actOp ..)
    | refine .next ?_

theorem Kept.execActAck (dt : Nat) (_req : Req) (n : Fin 6) (s : State) : KeptOut [.act, .dma, .dmaReq, .evrAt, .now,
    .block .act, .block .dma] s (Machine.execActAck dt _req n s) := by
  unfold Machine.execActAck
  repeat' with_reducible first
    | exact .refl _
    | refine .step ?_ (by with_reducible first
        | exact .advance .. | exact .actOp ..)
    | refine .next ?_

theorem Kept.execActClrCnt (dt : Nat) (_req : Req) (n : Fin 6) (s : State) : KeptOut [.act, .dma, .dmaReq, .evrAt,
    .now, .block .act, .block .dma] s (Machine.execActClrCnt dt _req n s) := by
  unfold Machine.execActClrCnt
  repeat' with_reducible first
    | exact .refl _
    | refine .step ?_ (by with_reducible first
        | exact .advance .. | exact .actOp ..)
    | refine .next ?_

theorem Kept.execActSetPos (dt : Nat) (_req : Req) (n : Fin 6) (s : State) : KeptOut [.act, .dma, .dmaReq, .evrAt,
    .now, .block .act, .block .dma] s (Machine.execActSetPos dt _req n s) := by
  unfold Machine.execActSetPos
  repeat' with_reducible first
    | exact .refl _
    | refine .step ?_ (by with_reducible first
        | exact .advance .. | exact .actOp ..)
    | refine .next ?_

theorem Kept.actEnable (s : State) (n : Fin 6) : Kept (.pos :: Part.reaction) s (State.actEnable s n) := by
  unfold State.actEnable
  dsimp only
  repeat' with_reducible first
    | exact .refl _
    | refine .step ?_ (by with_reducible first
        | exact .actSet .. | exact .actGo .. | exact .actHall .. | exact .actLow ..)
    | refine .ite ?_ ?_
    | intro _
    | split

end Sys2Proof.Machine
end

