-- ==== Sys2Proof/Laws/KeptHorizon.lean ====
section
/-! SUPPORT. What each operation of Machine/Horizon.lean keeps. -/

namespace Sys2Proof.Machine
open Sys2Proof
set_option Elab.async false

theorem Kept.lgSet (s : State) (g : Fin 15) (f : LgH → LgH) : Kept [.lg] s (State.lgSet s g f) := by
  unfold State.lgSet
  repeat' with_reducible first
    | exact .refl _
    | refine .step ?_ (by with_reducible first
        | exact .lg_upd ..)

theorem Kept.lgStartAt (s : State) (g : Fin 15) (t : Int) : Kept [.lg, .block .tbu] s (State.lgStartAt s g t) := by
  unfold State.lgStartAt
  dsimp only
  repeat' with_reducible first
    | exact .refl _
    | refine .step ?_ (by with_reducible first
        | exact .lgSet .. | exact .put ..)
    | refine .ite ?_ ?_
    | intro _
    | split

theorem Kept.lgStop (s : State) (g : Fin 15) : Kept [.lg, .block .tbu] s (State.lgStop s g) := by
  unfold State.lgStop
  dsimp only
  repeat' with_reducible first
    | exact .refl _
    | refine .step ?_ (by with_reducible first
        | exact .lgSet .. | exact .flag .. | exact .put ..)
    | refine .ite ?_ ?_
    | refine .foldl ?_ ?_ _
    | refine .foldlSnd ?_ _ _ _ | refine .foldlFst ?_ _ _ _
    | intro _
    | split

theorem Kept.lgCheckMaster (s : State) (g : Fin 15) : Kept (.lg :: .pos :: Part.reaction) s (State.lgCheckMaster s g)
    := by
  unfold State.lgCheckMaster
  dsimp only
  repeat' with_reducible first
    | exact .refl _
    | refine .step ?_ (by with_reducible first
        | exact .lgStop .. | exact .flag .. | exact .evt .. | exact .raise ..)
    | refine .ite ?_ ?_
    | split

theorem Kept.lgCommit (s o : State) (newStart : Bool) (g : Fin 15) : Kept (.lg :: .pos :: Part.reaction) s
    (State.lgCommit s o newStart g) := by
  unfold State.lgCommit
  dsimp only
  repeat' with_reducible first
    | exact .refl _
    | refine .step ?_ (by with_reducible first
        | exact .lgStop .. | exact .lgCheckMaster .. | exact .put64 .. | exact .lgStartAt .. | exact .lgSet ..
        | exact .flag ..)
    | refine .ite ?_ ?_
    | intro _
    | split

theorem Kept.lgSlave (s : State) (g h : Fin 15) (t : Nat) : Kept [.lg] s (State.lgSlave s g h t) := by
  unfold State.lgSlave
  dsimp only
  repeat' with_reducible first
    | exact .refl _
    | refine .step ?_ (by with_reducible first
        | exact .lgSet ..)
    | refine .ite ?_ ?_
    | intro _
    | split

theorem Kept.lgAnew (s : State) (g h : Fin 15) : Kept [.lg] s (State.lgAnew s g h) := by
  unfold State.lgAnew
  repeat' with_reducible first
    | exact .refl _
    | refine .step ?_ (by with_reducible first
        | exact .lgSet ..)
    | refine .ite ?_ ?_
    | intro _
    | split

theorem Kept.lgRaise (s : State) (g : Fin 15) (t : Nat) : Kept [.lg, .block .tbu] s (State.lgRaise s g t) := by
  unfold State.lgRaise
  dsimp only
  repeat' with_reducible first
    | exact .refl _
    | refine .step ?_ (by with_reducible first
        | exact .put64 .. | exact .flag .. | exact .lgSet .. | exact .lgAnew .. | exact .lgSlave ..)
    | refine .ite ?_ ?_
    | refine .foldl ?_ ?_ _
    | (rename_i h; refine .ofSnd h ?_) | (rename_i h; refine .ofFst h ?_)
    | intro _
    | split

theorem Kept.lgRenew (s : State) (g : Fin 15) (t : Nat) : Kept (.lg :: .pos :: Part.reaction) s (State.lgRenew s g t)
    := by
  unfold State.lgRenew
  dsimp only
  repeat' with_reducible first
    | exact .refl _
    | refine .step ?_ (by with_reducible first
        | exact .put64 .. | exact .lgStartAt .. | exact .lgSet .. | exact .lgCheckMaster ..)
    | refine .ite ?_ ?_
    | intro _
    | split

theorem Kept.cmpSkips (s : State) (g : Fin 15) : Kept [.block .tbu] s (State.cmpSkips s g) := by
  unfold State.cmpSkips
  repeat' with_reducible first
    | exact .refl _
    | refine .step ?_ (by with_reducible first
        | exact .flag ..)
    | refine .ite ?_ ?_
    | refine .foldl ?_ ?_ _
    | refine .foldlSnd ?_ _ _ _ | refine .foldlFst ?_ _ _ _
    | intro _
    | split

theorem Kept.cmpMatch (s : State) (c : Fin 16) (t : Nat) : Kept [.tbu] s (State.cmpMatch s c t) := by
  unfold State.cmpMatch
  dsimp only
  repeat' with_reducible first
    | exact .refl _
    | refine .ite ?_ ?_
    | split
    | refine .step ?_ (by with_reducible first
        | exact .tbu_upd ..)

theorem Kept.execCapture (dt : Nat) (c : Fin 16) (falling : Bool) (fine : Fin 128) (s : State) : KeptOut [.now,
    .block .tbu] s (Machine.execCapture dt c falling fine s) := by
  unfold Machine.execCapture
  dsimp only
  repeat' with_reducible first
    | exact .refl _
    | refine .step ?_ (by with_reducible first
        | exact .advance .. | exact .put64 .. | exact .flag ..)
    | refine .next ?_
    | refine KeptOut.ite ?_ ?_
    | refine .ite ?_ ?_
    | split

theorem Kept.glideStart (s : State) (d : Int) : Kept [.tbu, .block .tbu] s (State.glideStart s d) := by
  unfold State.glideStart
  repeat' with_reducible first
    | exact .refl _
    | refine .step ?_ (by with_reducible first
        | exact .put ..)
    | refine .step ?_ (by with_reducible first
        | exact .tbu_upd ..)

theorem Kept.execRefQualified (dt : Nat) (diffPpb : Int) (s : State) : KeptOut [.dma, .dmaReq, .evrAt, .now, .tbu,
    .block .dma, .block .tbu] s (Machine.execRefQualified dt diffPpb s) := by
  unfold Machine.execRefQualified
  dsimp only
  repeat' with_reducible first
    | exact .refl _
    | refine .step ?_ (by with_reducible first
        | exact .advance .. | exact .evt .. | exact .glideStart ..)
    | refine .next ?_
    | refine KeptOut.ite ?_ ?_
    | refine .ite ?_ ?_
    | split
    | refine .step ?_ (by with_reducible first
        | exact .tbu_upd ..)

theorem Kept.execDirectLock (dt : Nat) (s : State) : KeptOut [.dma, .dmaReq, .evrAt, .now, .tbu, .block .dma, .block
    .tbu] s (Machine.execDirectLock dt s) := by
  unfold Machine.execDirectLock
  dsimp only
  repeat' with_reducible first
    | exact .refl _
    | refine .step ?_ (by with_reducible first
        | exact .advance .. | exact .glideStart .. | exact .put .. | exact .evt ..)
    | refine .next ?_
    | refine KeptOut.ite ?_ ?_
    | refine .ite ?_ ?_
    | split
    | refine .step ?_ (by with_reducible first
        | exact .tbu_upd ..)

theorem Kept.glideLeft (s : State) : Kept [.free] s (State.glideLeft s).2 := by
  unfold State.glideLeft
  dsimp only
  repeat' with_reducible first
    | exact .refl _
    | refine .step ?_ (by with_reducible first
        | exact .freshNat ..)
    | (rename_i h; refine .ofSnd h ?_) | (rename_i h; refine .ofFst h ?_)
    | split

theorem Kept.trimNow (s : State) : Kept [.free] s (State.trimNow s).2 := by
  unfold State.trimNow
  dsimp only
  repeat' with_reducible first
    | exact .refl _
    | refine .step ?_ (by with_reducible first
        | exact .glideLeft ..)
    | (rename_i h; refine .ofSnd h ?_) | (rename_i h; refine .ofFst h ?_)
    | split

theorem Kept.execGlideDone (dt : Nat) (s : State) : KeptOut [.dma, .dmaReq, .evrAt, .now, .tbu, .block .dma, .block
    .tbu] s (Machine.execGlideDone dt s) := by
  unfold Machine.execGlideDone
  dsimp only
  repeat' with_reducible first
    | exact .refl _
    | refine .step ?_ (by with_reducible first
        | exact .advance .. | exact .put .. | exact .evt ..)
    | refine .next ?_
    | refine KeptOut.ite ?_ ?_
    | refine .ite ?_ ?_
    | split
    | refine .step ?_ (by with_reducible first
        | exact .tbu_upd ..)

theorem Kept.execRefLost (dt : Nat) (s : State) : KeptOut (.free :: .now :: .pos :: .tbu :: Part.reaction) s
    (Machine.execRefLost dt s) := by
  unfold Machine.execRefLost
  dsimp only
  repeat' with_reducible first
    | exact .refl _
    | refine .step ?_ (by with_reducible first
        | exact .advance .. | exact .glideLeft .. | exact .put .. | exact .puts .. | exact .evt ..
        | exact .raise ..)
    | refine .next ?_
    | (rename_i h; refine .ofSnd h ?_) | (rename_i h; refine .ofFst h ?_)
    | split
    | refine .step ?_ (by with_reducible first
        | exact .tbu_upd ..)

theorem Kept.execRefNever (dt : Nat) (s : State) : KeptOut (.now :: .pos :: .tbu :: Part.reaction) s
    (Machine.execRefNever dt s) := by
  unfold Machine.execRefNever
  dsimp only
  repeat' with_reducible first
    | exact .refl _
    | refine .step ?_ (by with_reducible first
        | exact .advance .. | exact .raise ..)
    | refine .next ?_
    | refine KeptOut.ite ?_ ?_
    | refine .ite ?_ ?_
    | split
    | refine .step ?_ (by with_reducible first
        | exact .tbu_upd ..)

theorem Kept.execRateFail (dt : Nat) (s : State) : KeptOut (.now :: .pos :: Part.reaction) s (Machine.execRateFail dt
    s) := by
  unfold Machine.execRateFail
  repeat' with_reducible first
    | exact .refl _
    | refine .step ?_ (by with_reducible first
        | exact .advance .. | exact .raise ..)
    | refine .next ?_

theorem Kept.execCountMismatch (dt : Nat) (s : State) : KeptOut (.now :: .pos :: Part.reaction) s
    (Machine.execCountMismatch dt s) := by
  unfold Machine.execCountMismatch
  repeat' with_reducible first
    | exact .refl _
    | refine .step ?_ (by with_reducible first
        | exact .advance .. | exact .raise ..)
    | refine .next ?_

theorem Kept.calOk (s : State) : Kept [.block .tbu] s (State.calOk s) := by
  unfold State.calOk
  repeat' with_reducible first
    | exact .refl _
    | refine .step ?_ (by with_reducible first
        | exact .flag ..)

theorem Kept.execInterpolatorSwap (dt : Nat) (i : Fin 100) (trimPs : Nat) (s : State) : KeptOut [.now, .tbu, .block
    .clf, .block .tbu] s (Machine.execInterpolatorSwap dt i trimPs s) := by
  unfold Machine.execInterpolatorSwap
  dsimp only
  repeat' with_reducible first
    | exact .refl _
    | refine .step ?_ (by with_reducible first
        | exact .advance .. | exact .swapAt .. | exact .put .. | exact .calOk ..)
    | refine .next ?_
    | refine KeptOut.ite ?_ ?_
    | refine .ite ?_ ?_
    | (rename_i h; refine .ofSnd h ?_) | (rename_i h; refine .ofFst h ?_)
    | split
    | refine .step ?_ (by with_reducible first
        | exact .tbu_upd ..)

theorem Kept.execCalStale (dt : Nat) (i : Fin 100) (s : State) : KeptOut (.now :: .pos :: .tbu :: Part.reaction) s
    (Machine.execCalStale dt i s) := by
  unfold Machine.execCalStale
  dsimp only
  repeat' with_reducible first
    | exact .refl _
    | refine .step ?_ (by with_reducible first
        | exact .advance .. | exact .swapAt .. | exact .incSat .. | exact .calOk .. | exact .evt ..
        | exact .raise ..)
    | refine .next ?_
    | refine KeptOut.ite ?_ ?_
    | refine .ite ?_ ?_
    | split
    | refine .step ?_ (by with_reducible first
        | exact .tbu_upd ..)

theorem Kept.syncEdge (s : State) (g : Fin 15) (e : Nat) : Kept [.dma, .dmaReq, .evrAt, .lg, .tbu, .block .dma,
    .block .tbu] s (State.syncEdge s g e) := by
  unfold State.syncEdge
  dsimp only
  repeat' with_reducible first
    | exact .refl _
    | refine .step ?_ (by with_reducible first
        | exact .lgSet .. | exact .put .. | exact .evtIf ..)
    | refine .ite ?_ ?_
    | intro _
    | split
    | refine .step ?_ (by with_reducible first
        | exact .tbu_upd ..)

theorem Kept.execSyncInEdge (dt : Nat) (falling : Bool) (fine : Fin 128) (s : State) : KeptOut [.dma, .dmaReq,
    .evrAt, .lg, .now, .tbu, .block .dma, .block .tbu] s (Machine.execSyncInEdge dt falling fine s) := by
  unfold Machine.execSyncInEdge
  dsimp only
  repeat' with_reducible first
    | exact .refl _
    | refine .step ?_ (by with_reducible first
        | exact .advance .. | exact .syncEdge ..)
    | refine .next ?_
    | refine KeptOut.ite ?_ ?_
    | refine .ite ?_ ?_
    | refine .foldl ?_ ?_ _
    | refine .foldlSnd ?_ _ _ _ | refine .foldlFst ?_ _ _ _
    | intro _
    | split

theorem Kept.execSyncLost (dt : Nat) (g : Fin 15) (s : State) : KeptOut (.lg :: .now :: .pos :: Part.reaction) s
    (Machine.execSyncLost dt g s) := by
  unfold Machine.execSyncLost
  dsimp only
  repeat' with_reducible first
    | exact .refl _
    | refine .step ?_ (by with_reducible first
        | exact .advance .. | exact .lgSet .. | exact .put .. | exact .evt .. | exact .raise ..)
    | refine .next ?_
    | refine KeptOut.ite ?_ ?_
    | refine .ite ?_ ?_
    | intro _
    | split

theorem Kept.syncOutStart (s : State) (g : Fin 15) (t : Nat) : Kept [.tbu] s (State.syncOutStart s g t) := by
  unfold State.syncOutStart
  repeat' with_reducible first
    | exact .refl _
    | refine .ite ?_ ?_
    | split
    | refine .step ?_ (by with_reducible first
        | exact .tbu_upd ..)

theorem Kept.execSyncOutEnd (dt : Nat) (s : State) : KeptOut [.now, .tbu] s (Machine.execSyncOutEnd dt s) := by
  unfold Machine.execSyncOutEnd
  dsimp only
  repeat' with_reducible first
    | exact .refl _
    | refine .step ?_ (by with_reducible first
        | exact .advance ..)
    | refine .next ?_
    | refine KeptOut.ite ?_ ?_
    | refine .ite ?_ ?_
    | split
    | refine .step ?_ (by with_reducible first
        | exact .tbu_upd ..)

theorem Kept.execSteerLimit (dt : Nat) (s : State) : KeptOut (.now :: .pos :: .tbu :: Part.reaction) s
    (Machine.execSteerLimit dt s) := by
  unfold Machine.execSteerLimit
  dsimp only
  repeat' with_reducible first
    | exact .refl _
    | refine .step ?_ (by with_reducible first
        | exact .advance .. | exact .evt .. | exact .raise ..)
    | refine .next ?_
    | refine KeptOut.ite ?_ ?_
    | refine .ite ?_ ?_
    | split
    | refine .step ?_ (by with_reducible first
        | exact .tbu_upd ..)

end Sys2Proof.Machine
end

