-- ==== Sys2Proof/Laws/KeptPosition.lean ====
section
/-! SUPPORT. What each operation of Machine/Position.lean keeps. -/

namespace Sys2Proof.Machine
open Sys2Proof
set_option Elab.async false

theorem Kept.posSet (s : State) (n : Fin 3) (f : PosH → PosH) : Kept [.pos] s (State.posSet s n f) := by
  unfold State.posSet
  repeat' with_reducible first
    | exact .refl _
    | refine .step ?_ (by with_reducible first
        | exact .pos_upd ..)

theorem Kept.posMark (s : State) (n : Fin 3) (i : Nat) (v : Bool) : Kept [.pos, .block .pos] s (State.posMark s n i
    v) := by
  unfold State.posMark
  dsimp only
  repeat' with_reducible first
    | exact .refl _
    | refine .step ?_ (by with_reducible first
        | exact .posSet .. | exact .putBit ..)
    | refine .ite ?_ ?_
    | intro _
    | split

theorem Kept.posNote (s : State) (n : Fin 3) (code : Nat) (evt : Fld) : Kept [.dma, .dmaReq, .evrAt, .block .dma,
    .block .hlo, .block .pos, .block .sys] s (State.posNote s n code evt) := by
  unfold State.posNote
  repeat' with_reducible first
    | exact .refl _
    | refine .step ?_ (by with_reducible first
        | exact .evt .. | exact .note ..)

theorem Kept.execRsvSample (dt : Nat) (n : Fin 3) (sn cs : BitVec 16) (s : State) : KeptOut [.now, .pos] s
    (Machine.execRsvSample dt n sn cs s) := by
  unfold Machine.execRsvSample
  dsimp only
  repeat' with_reducible first
    | exact .refl _
    | refine .step ?_ (by with_reducible first
        | exact .advance .. | exact .posSet ..)
    | refine .next ?_
    | refine KeptOut.ite ?_ ?_
    | refine .ite ?_ ?_
    | intro _
    | split

theorem Kept.rsvFaults (s : State) (n : Fin 3) (old new : Nat) : Kept [.dma, .dmaReq, .evrAt, .block .dma, .block
    .hlo, .block .pos, .block .sys] s (State.rsvFaults s n old new) := by
  unfold State.rsvFaults
  repeat' with_reducible first
    | exact .refl _
    | refine .step ?_ (by with_reducible first
        | exact .posNote ..)
    | refine .ite ?_ ?_
    | refine .foldl ?_ ?_ _
    | intro _
    | split

theorem Kept.execRsvPeriodCheck (dt : Nat) (n : Fin 3) (exc : Nat) (u1 u2 u3 u4 : Unit) (s : State) :
    KeptOut [.dma, .dmaReq, .evrAt, .now, .pos, .block .dma, .block .hlo, .block .pos, .block .sys] s
      (Machine.execRsvPeriodCheck dt n exc u1 u2 u3 u4 s) := by
  unfold Machine.execRsvPeriodCheck
  dsimp only
  repeat' with_reducible first
    | exact .refl _
    | refine .step ?_ (by with_reducible first
        | exact .advance .. | exact .put .. | exact .posSet .. | exact .rsvFaults .. | exact .posMark ..)
    | refine .next ?_
    | refine KeptOut.ite ?_ ?_
    | refine .ite ?_ ?_
    | intro _
    | split

theorem Kept.execEncEdge (dt : Nat) (n : Fin 3) (a b : Bool) (s : State) : KeptOut [.dma, .dmaReq, .evrAt, .now,
    .pos, .block .dma, .block .hlo, .block .pos, .block .sys] s (Machine.execEncEdge dt n a b s) := by
  unfold Machine.execEncEdge
  dsimp only
  repeat' with_reducible first
    | exact .refl _
    | refine .step ?_ (by with_reducible first
        | exact .advance .. | exact .posSet .. | exact .posMark .. | exact .posNote ..)
    | refine .next ?_
    | refine KeptOut.ite ?_ ?_
    | refine .ite ?_ ?_
    | intro _
    | split

theorem Kept.execEncIndex (dt : Nat) (n : Fin 3) (s : State) : KeptOut [.dma, .dmaReq, .evrAt, .now, .pos, .block
    .dma, .block .hlo, .block .pos, .block .sys] s (Machine.execEncIndex dt n s) := by
  unfold Machine.execEncIndex
  dsimp only
  repeat' with_reducible first
    | exact .refl _
    | refine .step ?_ (by with_reducible first
        | exact .advance .. | exact .posSet .. | exact .posMark .. | exact .posNote ..)
    | refine .next ?_
    | refine KeptOut.ite ?_ ?_
    | refine .ite ?_ ?_
    | intro _
    | split

theorem Kept.execEncSpeedTimeout (dt : Nat) (n : Fin 3) (s : State) : KeptOut [.now, .pos] s
    (Machine.execEncSpeedTimeout dt n s) := by
  unfold Machine.execEncSpeedTimeout
  dsimp only
  repeat' with_reducible first
    | exact .refl _
    | refine .step ?_ (by with_reducible first
        | exact .advance .. | exact .posSet ..)
    | refine .next ?_
    | refine KeptOut.ite ?_ ?_
    | refine .ite ?_ ?_
    | intro _
    | split

theorem Kept.execHallEdge (dt : Nat) (n : Fin 3) (st : BitVec 3) (s : State) : KeptOut [.dma, .dmaReq, .evrAt, .now,
    .pos, .block .dma, .block .hlo, .block .pos, .block .sys] s (Machine.execHallEdge dt n st s) := by
  unfold Machine.execHallEdge
  dsimp only
  repeat' with_reducible first
    | exact .refl _
    | refine .step ?_ (by with_reducible first
        | exact .advance .. | exact .posSet .. | exact .posMark .. | exact .posNote ..)
    | refine .next ?_
    | refine KeptOut.ite ?_ ?_
    | refine .ite ?_ ?_
    | intro _
    | split

theorem Kept.obsSeed (s : State) (n : Fin 3) (v : Vectors) (th w : F32) : Kept [.pos] s (State.obsSeed s n v th w) :=
    by
  unfold State.obsSeed
  dsimp only
  repeat' with_reducible first
    | exact .refl _
    | refine .step ?_ (by with_reducible first
        | exact .posSet ..)
    | (rename_i h; refine .ofSnd h ?_) | (rename_i h; refine .ofFst h ?_)
    | intro _
    | split

theorem Kept.obsStep (s : State) (n : Fin 3) (v : Vectors) : Kept [.pos, .block .pos] s (State.obsStep s n v) := by
  unfold State.obsStep
  dsimp only
  repeat' with_reducible first
    | exact .refl _
    | refine .step ?_ (by with_reducible first
        | exact .posSet .. | exact .posMark ..)
    | refine .ite ?_ ?_
    | (rename_i h; refine .ofSnd h ?_) | (rename_i h; refine .ofFst h ?_)
    | intro _
    | split

theorem Kept.posSweep (s : State) (n : Fin 3) (v : Vectors) : Kept [.pos, .block .pos] s (State.posSweep s n v) := by
  unfold State.posSweep
  dsimp only
  repeat' with_reducible first
    | exact .refl _
    | refine .step ?_ (by with_reducible first
        | exact .posSet .. | exact .incSat .. | exact .put ..)
    | refine .ite ?_ ?_
    | intro _
    | split

theorem Kept.posGo (s : State) (n : Fin 3) (st : Nat) : Kept (Part.andRegs [.dma, .dmaReq, .evrAt, .halo, .msv, .pos,
    .sets, .tpw]) s (State.posGo s n st) := by
  unfold State.posGo
  dsimp only
  repeat' with_reducible first
    | exact .refl _
    | refine .step ?_ (by with_reducible first
        | exact .put .. | exact .flag .. | exact .setWord .. | exact .msvPosChanged ..)
    | refine .ite ?_ ?_
    | split

theorem Kept.obsLatch (s : State) (n : Fin 3) (v : Vectors) : Kept [.pos, .block .pos] s (State.obsLatch s n v) := by
  unfold State.obsLatch
  dsimp only
  repeat' with_reducible first
    | exact .refl _
    | refine .step ?_ (by with_reducible first
        | exact .obsStep .. | exact .obsSeed ..)
    | refine .ite ?_ ?_
    | split

theorem Kept.posLatch (s : State) (n : Fin 3) : Kept [.dma, .dmaReq, .evrAt, .pos, .block .dma, .block .hlo, .block
    .pos, .block .sys] s (State.posLatch s n) := by
  unfold State.posLatch
  dsimp only
  repeat' with_reducible first
    | exact .refl _
    | refine .step ?_ (by with_reducible first
        | exact .obsLatch .. | exact .posFollow .. | exact .posSweep .. | exact .posSet ..)
    | refine .ite ?_ ?_
    | intro _
    | split

theorem Kept.posLatches (s : State) (g : Nat) : Kept [.dma, .dmaReq, .evrAt, .pos, .block .dma, .block .hlo, .block
    .pos, .block .sys] s (State.posLatches s g) := by
  unfold State.posLatches
  repeat' with_reducible first
    | exact .refl _
    | refine .step ?_ (by with_reducible first
        | exact .posLatch ..)
    | refine .ite ?_ ?_
    | refine .foldl ?_ ?_ _
    | intro _
    | split

theorem Kept.posLoss (s : State) (n : Fin 3) : Kept (Part.andRegs [.dma, .dmaReq, .evrAt, .halo, .msv, .pos, .sets,
    .tpw]) s (State.posLoss s n) := by
  unfold State.posLoss
  dsimp only
  repeat' with_reducible first
    | exact .refl _
    | refine .step ?_ (by with_reducible first
        | exact .posSet .. | exact .put .. | exact .incSat .. | exact .posGo .. | exact .posNote ..)
    | intro _

theorem Kept.posConf (s : State) (n : Fin 3) (sel : Nat) (d : Option F32) : Kept [.free] s (State.posConf s n sel
    d).2 := by
  unfold State.posConf
  dsimp only
  repeat' with_reducible first
    | exact .refl _
    | refine .step ?_ (by with_reducible first
        | exact .freshNat ..)
    | refine .ite ?_ ?_
    | (rename_i h; refine .ofSnd h ?_) | (rename_i h; refine .ofFst h ?_)
    | split

theorem Kept.posTake (s : State) (n : Fin 3) (sel : Nat) (th w : F32) : Kept [.dma, .dmaReq, .evrAt, .pos, .block
    .dma, .block .pos] s (State.posTake s n sel th w) := by
  unfold State.posTake
  dsimp only
  repeat' with_reducible first
    | exact .refl _
    | refine .step ?_ (by with_reducible first
        | exact .incSat .. | exact .evtIf .. | exact .posSet .. | exact .put .. | exact .setWord ..)
    | refine .ite ?_ ?_
    | intro _
    | split

theorem Kept.posCompare (s : State) (n : Fin 3) : Kept [.dma, .dmaReq, .evrAt, .pos, .block .dma, .block .hlo, .block
    .pos, .block .sys] s (State.posCompare s n).1 := by
  unfold State.posCompare
  dsimp only
  repeat' with_reducible first
    | exact .refl _
    | refine .step ?_ (by with_reducible first
        | exact .posSet .. | exact .posNote .. | exact .putBit .. | exact .posMark ..)
    | refine .ite ?_ ?_
    | (rename_i h; refine .ofSnd h ?_) | (rename_i h; refine .ofFst h ?_)
    | intro _
    | split

theorem Kept.posShow (s : State) (n : Fin 3) : Kept [.block .pos] s (State.posShow s n) := by
  unfold State.posShow
  dsimp only
  repeat' with_reducible first
    | exact .refl _
    | refine .step ?_ (by with_reducible first
        | exact .put .. | exact .put64 ..)

theorem Kept.posExtrapolate (s : State) (n : Fin 3) : Kept [.pos, .block .pos] s (State.posExtrapolate s n) := by
  unfold State.posExtrapolate
  dsimp only
  repeat' with_reducible first
    | exact .refl _
    | refine .step ?_ (by with_reducible first
        | exact .posSet .. | exact .put .. | exact .setWord ..)
    | intro _

theorem Kept.posTrackUpd (s : State) (n : Fin 3) (sel : Nat) (d : Option F32) : Kept [.dma, .dmaReq, .evrAt, .free,
    .pos, .block .dma, .block .pos] s (State.posTrackUpd s n sel d) := by
  unfold State.posTrackUpd
  dsimp only
  repeat' with_reducible first
    | exact .refl _
    | refine .step ?_ (by with_reducible first
        | exact .posTake .. | exact .posConf .. | exact .put ..)
    | (rename_i h; refine .ofSnd h ?_) | (rename_i h; refine .ofFst h ?_)
    | split

theorem Kept.posTrackStep (s : State) (n : Fin 3) : Kept (Part.andRegs [.dma, .dmaReq, .evrAt, .free, .halo, .msv,
    .pos, .sets, .tpw]) s (State.posTrackStep s n) := by
  unfold State.posTrackStep
  dsimp only
  repeat' with_reducible first
    | exact .refl _
    | refine .step ?_ (by with_reducible first
        | exact .posCompare .. | exact .posLoss .. | exact .posExtrapolate .. | exact .posTrackUpd ..)
    | refine .ite ?_ ?_
    | (rename_i h; refine .ofSnd h ?_) | (rename_i h; refine .ofFst h ?_)
    | split

theorem Kept.posFuse (s : State) (n : Fin 3) : Kept (Part.andRegs [.dma, .dmaReq, .evrAt, .free, .halo, .msv, .pos,
    .sets, .tpw]) s (State.posFuse s n) := by
  unfold State.posFuse
  dsimp only
  repeat' with_reducible first
    | exact .refl _
    | refine .step ?_ (by with_reducible first
        | exact .posShow .. | exact .posSet .. | exact .posFollow .. | exact .posGo .. | exact .posTrackStep ..
        | exact .posExtrapolate ..)
    | refine .ite ?_ ?_
    | intro _
    | split

theorem Kept.execFusionUpdate (dt : Nat) (n : Fin 3) (s : State) : KeptOut (Part.andRegs [.dma, .dmaReq, .evrAt,
    .free, .halo, .msv, .now, .pos, .sets, .tpw]) s (Machine.execFusionUpdate dt n s) := by
  unfold Machine.execFusionUpdate
  dsimp only
  repeat' with_reducible first
    | exact .refl _
    | refine .step ?_ (by with_reducible first
        | exact .advance .. | exact .posFuse ..)
    | refine .next ?_
    | refine KeptOut.ite ?_ ?_
    | refine .ite ?_ ?_
    | split

theorem Kept.execReacqDecision (dt : Nat) (n : Fin 3) (s : State) : KeptOut (Part.andRegs [.dma, .dmaReq, .evrAt,
    .free, .halo, .msv, .now, .pos, .sets, .tpw]) s (Machine.execReacqDecision dt n s) := by
  unfold Machine.execReacqDecision
  dsimp only
  repeat' with_reducible first
    | exact .refl _
    | refine .step ?_ (by with_reducible first
        | exact .advance .. | exact .put .. | exact .obsSeed .. | exact .posSet .. | exact .posMark ..
        | exact .setWord .. | exact .incSat .. | exact .evt .. | exact .posGo .. | exact .posConf ..)
    | refine .next ?_
    | refine KeptOut.ite ?_ ?_
    | refine .ite ?_ ?_
    | refine .foldl ?_ ?_ _
    | refine .foldlSnd ?_ _ _ _ | refine .foldlFst ?_ _ _ _
    | (rename_i h; refine .ofSnd h ?_) | (rename_i h; refine .ofFst h ?_)
    | intro _
    | split

theorem Kept.execReacqFail (dt : Nat) (n : Fin 3) (s : State) : KeptOut (.now :: .pos :: Part.reaction) s
    (Machine.execReacqFail dt n s) := by
  unfold Machine.execReacqFail
  dsimp only
  repeat' with_reducible first
    | exact .refl _
    | refine .step ?_ (by with_reducible first
        | exact .advance .. | exact .posSet .. | exact .incSat .. | exact .posGo .. | exact .evt ..
        | exact .raise ..)
    | refine .next ?_
    | refine KeptOut.ite ?_ ?_
    | refine .ite ?_ ?_
    | intro _
    | split

theorem Kept.posCmd (s : State) (n : Fin 3) (op : Nat) : Kept (Part.andRegs [.dma, .dmaReq, .evrAt, .halo, .msv,
    .pos, .sets, .tpw]) s (State.posCmd s n op) := by
  unfold State.posCmd
  dsimp only
  repeat' with_reducible first
    | exact .refl _
    | refine .step ?_ (by with_reducible first
        | exact .put .. | exact .posGo .. | exact .posSet .. | exact .posMark .. | exact .setWord ..
        | exact .status ..)
    | refine .command ?_ ?_ ?_
    | (show (_ : List Part) ⊆ _; first | exact Part.sub (by decide +kernel) | (dsimp only; exact Part.sub (by decide +kernel)) | simp [Part.reaction, Part.butPending, Part.andRegs])
    | intro _
    | split

theorem Kept.posOp (s : State) (n : Fin 3) (op : Nat) : Kept (Part.andRegs [.dma, .dmaReq, .evrAt, .halo, .msv, .pos,
    .sets, .tpw]) s (State.posOp s n op) := by
  unfold State.posOp
  repeat' with_reducible first
    | exact .refl _
    | refine .step ?_ (by with_reducible first
        | exact .posCmd ..)
    | refine .blockCmd ?_ ?_ ?_
    | (show (_ : List Part) ⊆ _; first | exact Part.sub (by decide +kernel) | (dsimp only; exact Part.sub (by decide +kernel)) | simp [Part.reaction, Part.butPending, Part.andRegs])
    | intro _

theorem Kept.execPosRestart (dt : Nat) (_req : Req) (n : Fin 3) (s : State) : KeptOut (Part.andRegs [.dma, .dmaReq,
    .evrAt, .halo, .msv, .now, .pos, .sets, .tpw]) s (Machine.execPosRestart dt _req n s) := by
  unfold Machine.execPosRestart
  repeat' with_reducible first
    | exact .refl _
    | refine .step ?_ (by with_reducible first
        | exact .advance .. | exact .posOp ..)
    | refine .next ?_

theorem Kept.execPosSeedEnc (dt : Nat) (_req : Req) (n : Fin 3) (s : State) : KeptOut (Part.andRegs [.dma, .dmaReq,
    .evrAt, .halo, .msv, .now, .pos, .sets, .tpw]) s (Machine.execPosSeedEnc dt _req n s) := by
  unfold Machine.execPosSeedEnc
  repeat' with_reducible first
    | exact .refl _
    | refine .step ?_ (by with_reducible first
        | exact .advance .. | exact .posOp ..)
    | refine .next ?_

theorem Kept.execPosClrCnt (dt : Nat) (_req : Req) (n : Fin 3) (s : State) : KeptOut (Part.andRegs [.dma, .dmaReq,
    .evrAt, .halo, .msv, .now, .pos, .sets, .tpw]) s (Machine.execPosClrCnt dt _req n s) := by
  unfold Machine.execPosClrCnt
  repeat' with_reducible first
    | exact .refl _
    | refine .step ?_ (by with_reducible first
        | exact .advance .. | exact .posOp ..)
    | refine .next ?_

theorem Kept.posSourceOff (s : State) (n : Fin 3) (i : Nat) : Kept [.pos, .block .pos] s (State.posSourceOff s n i)
    := by
  unfold State.posSourceOff
  dsimp only
  repeat' with_reducible first
    | exact .refl _
    | refine .step ?_ (by with_reducible first
        | exact .posSet .. | exact .posMark ..)
    | intro _
    | split

theorem Kept.posSourceOn (s : State) (n : Fin 3) (i : Nat) : Kept [.dma, .dmaReq, .evrAt, .pos, .block .dma, .block
    .hlo, .block .pos, .block .sys] s (State.posSourceOn s n i) := by
  unfold State.posSourceOn
  repeat' with_reducible first
    | exact .refl _
    | refine .step ?_ (by with_reducible first
        | exact .posSet .. | exact .posNote ..)
    | refine .ite ?_ ?_
    | intro _
    | split

theorem Kept.posCommit (s o : State) (n : Fin 3) : Kept (Part.andRegs [.dma, .dmaReq, .evrAt, .halo, .msv, .pos,
    .sets, .tpw]) s (State.posCommit s o n) := by
  unfold State.posCommit
  dsimp only
  repeat' with_reducible first
    | exact .refl _
    | refine .step ?_ (by with_reducible first
        | exact .posGo .. | exact .put .. | exact .posSet .. | exact .posSourceOn .. | exact .posSourceOff ..
        | exact .flag ..)
    | refine .ite ?_ ?_
    | refine .foldl ?_ ?_ _
    | intro _
    | split
    | refine .step ?_ (by with_reducible first
        | exact .pos_upd ..)

end Sys2Proof.Machine
end

