-- ==== Sys2Proof/Laws/KeptMeasure.lean ====
section
/-! SUPPORT. What each operation of Machine/Measure.lean keeps. -/

namespace Sys2Proof.Machine
open Sys2Proof
set_option Elab.async false

theorem Kept.fnFault (s : State) (code : Nat) (dcd obc bch : Bool) (acts : Nat) : Kept [.act, .bch, .cpw, .dcd, .dev,
    .dma, .dmaReq, .evrAt, .obc, .block .act, .block .bch, .block .dcd, .block .dma, .block .obc] s (State.fnFault s
    code dcd obc bch acts) := by
  unfold State.fnFault
  dsimp only
  repeat' with_reducible first
    | exact .refl _
    | refine .step ?_ (by with_reducible first
        | exact .dcdFault .. | exact .evt .. | exact .obcStopping .. | exact .bchLow .. | exact .put ..
        | exact .incSat .. | exact .actToFault ..)
    | refine .ite ?_ ?_
    | refine .foldl ?_ ?_ _
    | intro _
    | split

theorem Kept.adfReaders (s : State) (code : Nat) (f : Nat → Bool) : Kept [.act, .bch, .cpw, .dcd, .dev, .dma,
    .dmaReq, .evrAt, .obc, .block .act, .block .bch, .block .dcd, .block .dma, .block .obc] s (State.adfReaders s
    code f) := by
  unfold State.adfReaders
  repeat' with_reducible first
    | exact .refl _
    | refine .step ?_ (by with_reducible first
        | exact .fnFault ..)
    | refine .ite ?_ ?_
    | refine .foldl ?_ ?_ _
    | refine .foldlSnd ?_ _ _ _ | refine .foldlFst ?_ _ _ _
    | intro _
    | split

theorem Kept.adfFault (s : State) (code : Nat) (f : Nat → Bool) : Kept (.pos :: Part.reaction) s (State.adfFault s
    code f) := by
  unfold State.adfFault
  dsimp only
  repeat' with_reducible first
    | exact .refl _
    | refine .step ?_ (by with_reducible first
        | exact .adfReaders .. | exact .raise ..)
    | refine .ite ?_ ?_
    | refine .foldl ?_ ?_ _
    | intro _
    | split

theorem Kept.adhFault (s : State) (code : Nat) (f : Nat → Bool) : Kept (.pos :: Part.reaction) s (State.adhFault s
    code f) := by
  unfold State.adhFault
  repeat' with_reducible first
    | exact .refl _
    | refine .step ?_ (by with_reducible first
        | exact .fnFault .. | exact .raise ..)

theorem Kept.adfSet (s : State) (g : Fin 8) (f : AdfH → AdfH) : Kept [.adf] s (State.adfSet s g f) := by
  unfold State.adfSet
  repeat' with_reducible first
    | exact .refl _
    | refine .step ?_ (by with_reducible first
        | exact .adf_upd ..)

theorem Kept.adfLatch (s : State) (g : Fin 8) (slot c : Nat) (w : W32) (hold : Nat) : Kept [.adf, .block .adf] s
    (State.adfLatch s g slot c w hold) := by
  unfold State.adfLatch
  dsimp only
  repeat' with_reducible first
    | exact .refl _
    | refine .step ?_ (by with_reducible first
        | exact .setWord .. | exact .adfSet ..)
    | refine .ite ?_ ?_
    | (rename_i h; refine .ofSnd h ?_) | (rename_i h; refine .ofFst h ?_)
    | intro _
    | split

theorem Kept.dmaAsk (s : State) (ch : Nat) (ws : List W32) (src : Page) : Kept [.dmaReq] s (State.dmaAsk s ch ws src)
    := by
  unfold State.dmaAsk
  repeat' with_reducible first
    | exact .refl _
    | refine .step ?_ (by with_reducible first
        | exact .dmaReq_upd ..)

theorem Kept.adfDone (s : State) (g : Fin 8) (two : Bool) : Kept [.adf, .dma, .dmaReq, .evrAt, .block .adf, .block
    .dma] s (State.adfDone s g two) := by
  unfold State.adfDone
  dsimp only
  repeat' with_reducible first
    | exact .refl _
    | refine .step ?_ (by with_reducible first
        | exact .adfSet .. | exact .flag .. | exact .dmaAsk .. | exact .evt ..)
    | refine .ite ?_ ?_
    | intro _
    | split

theorem Kept.adfReach (s : State) (g : Fin 8) (slot : Nat) : Kept (.pos :: Part.reaction) s (State.adfReach s g slot)
    := by
  unfold State.adfReach
  dsimp only
  repeat' with_reducible first
    | exact .refl _
    | refine .step ?_ (by with_reducible first
        | exact .posLatches .. | exact .msvCurrentLatch .. | exact .bchFeedback .. | exact .msvUpdate ..
        | exact .obcAcSample .. | exact .obcUpdate .. | exact .actUpdate .. | exact .dcdUpdate ..
        | exact .obcAcCheck ..)
    | refine .ite ?_ ?_
    | refine .foldl ?_ ?_ _
    | refine .foldlSnd ?_ _ _ _ | refine .foldlFst ?_ _ _ _
    | intro _
    | split

theorem Kept.adfSlotDone (s : State) (g : Fin 8) : Kept [.adf, .dma, .dmaReq, .evrAt, .block .adf, .block .dma] s
    (State.adfSlotDone s g) := by
  unfold State.adfSlotDone
  dsimp only
  repeat' with_reducible first
    | exact .refl _
    | refine .step ?_ (by with_reducible first
        | exact .adfDone ..)
    | refine .ite ?_ ?_
    | split

theorem Kept.adfHold (s : State) (g : Fin 8) : Kept [.adf, .dma, .dmaReq, .evrAt, .block .adf, .block .dma, .block
    .hlo, .block .sys] s (State.adfHold s g) := by
  unfold State.adfHold
  dsimp only
  repeat' with_reducible first
    | exact .refl _
    | refine .step ?_ (by with_reducible first
        | exact .incSat .. | exact .evt .. | exact .note .. | exact .adfSet .. | exact .flag ..
        | exact .put64 ..)
    | refine .ite ?_ ?_
    | intro _
    | split

theorem Kept.execAdfHold (dt : Nat) (g : Fin 8) (s : State) : KeptOut [.adf, .dma, .dmaReq, .evrAt, .now, .block
    .adf, .block .dma, .block .hlo, .block .sys] s (Machine.execAdfHold dt g s) := by
  unfold Machine.execAdfHold
  dsimp only
  repeat' with_reducible first
    | exact .refl _
    | refine .step ?_ (by with_reducible first
        | exact .advance .. | exact .adfHold ..)
    | refine .next ?_
    | refine KeptOut.ite ?_ ?_
    | refine .ite ?_ ?_
    | split

theorem Kept.execAdfSlotLatch (dt : Nat) (g : Fin 8) (vin : Quad) (late : BitVec 4) (s : State) : KeptOut (.adf ::
    .now :: .pos :: Part.reaction) s (Machine.execAdfSlotLatch dt g vin late s) := by
  unfold Machine.execAdfSlotLatch
  dsimp only
  repeat' with_reducible first
    | exact .refl _
    | refine .step ?_ (by with_reducible first
        | exact .advance .. | exact .adfSet .. | exact .adfLatch .. | exact .incSat .. | exact .evt ..
        | exact .note .. | exact .flag .. | exact .adfReach .. | exact .adfSlotDone ..)
    | refine .next ?_
    | refine KeptOut.ite ?_ ?_
    | refine .ite ?_ ?_
    | refine .foldl ?_ ?_ _
    | intro _
    | split

theorem Kept.execLateResult (dt : Nat) (g : Fin 8) (c : Fin 4) (s : State) : KeptOut [.adf, .dma, .dmaReq, .evrAt,
    .now, .block .adf, .block .dma] s (Machine.execLateResult dt g c s) := by
  unfold Machine.execLateResult
  dsimp only
  repeat' with_reducible first
    | exact .refl _
    | refine .step ?_ (by with_reducible first
        | exact .advance .. | exact .adfLatch .. | exact .adfSet .. | exact .adfSlotDone ..)
    | refine .next ?_
    | intro _
    | split

theorem Kept.adfEnable (s : State) (g : Fin 8) : Kept [.block .adf] s (State.adfEnable s g) := by
  unfold State.adfEnable
  repeat' with_reducible first
    | exact .refl _
    | refine .step ?_ (by with_reducible first
        | exact .put64 ..)

theorem Kept.adfReselect (s : State) (g : Fin 8) : Kept [.adf] s (State.adfReselect s g) := by
  unfold State.adfReselect
  dsimp only
  repeat' with_reducible first
    | exact .refl _
    | refine .step ?_ (by with_reducible first
        | exact .adfSet ..)
    | refine .ite ?_ ?_
    | intro _
    | split

theorem Kept.adfDisable (s : State) (g : Fin 8) : Kept [.adf, .block .adf] s (State.adfDisable s g) := by
  unfold State.adfDisable
  dsimp only
  repeat' with_reducible first
    | exact .refl _
    | refine .step ?_ (by with_reducible first
        | exact .adfSet .. | exact .flag ..)
    | refine .ite ?_ ?_
    | intro _
    | split

theorem Kept.adfInject (s : State) (g : Fin 8) : Kept [.adf, .dma, .dmaReq, .evrAt, .block .adf, .block .dma] s
    (State.adfInject s g) := by
  unfold State.adfInject
  dsimp only
  repeat' with_reducible first
    | exact .refl _
    | refine .step ?_ (by with_reducible first
        | exact .adfSet .. | exact .incSat .. | exact .evt ..)
    | refine .ite ?_ ?_
    | intro _
    | split

theorem Kept.execAdfInjGo (dt : Nat) (_req : Req) (g : Fin 8) (s : State) : KeptOut [.adf, .dma, .dmaReq, .evrAt,
    .now, .block .adf, .block .dma] s (Machine.execAdfInjGo dt _req g s) := by
  unfold Machine.execAdfInjGo
  repeat' with_reducible first
    | exact .refl _
    | refine .step ?_ (by with_reducible first
        | exact .advance .. | exact .adfInject ..)
    | refine .next ?_

theorem Kept.execAdfInjLatch (dt : Nat) (g : Fin 8) (vin : Quad) (s : State) : KeptOut [.adf, .dma, .dmaReq, .evrAt,
    .now, .block .adf, .block .dma] s (Machine.execAdfInjLatch dt g vin s) := by
  unfold Machine.execAdfInjLatch
  dsimp only
  repeat' with_reducible first
    | exact .refl _
    | refine .step ?_ (by with_reducible first
        | exact .advance .. | exact .setWord .. | exact .adfSet .. | exact .evt ..)
    | refine .next ?_
    | refine KeptOut.ite ?_ ?_
    | refine .ite ?_ ?_
    | refine .foldl ?_ ?_ _
    | intro _
    | split

theorem Kept.execAdfOwTest (dt : Nat) (g : Fin 8) (i : Fin 8) (vin : Int) (s : State) : KeptOut [.adf, .dma, .dmaReq,
    .evrAt, .now, .block .adf, .block .dma, .block .hlo, .block .sys] s (Machine.execAdfOwTest dt g i vin s) := by
  unfold Machine.execAdfOwTest
  dsimp only
  repeat' with_reducible first
    | exact .refl _
    | refine .step ?_ (by with_reducible first
        | exact .advance .. | exact .adfSet .. | exact .putBit .. | exact .evt .. | exact .note ..)
    | refine .next ?_
    | refine KeptOut.ite ?_ ?_
    | refine .ite ?_ ?_
    | intro _
    | split

theorem Kept.adhSet (s : State) (u : Fin 4) (f : AdhH → AdhH) : Kept [.adh] s (State.adhSet s u f) := by
  unfold State.adhSet
  repeat' with_reducible first
    | exact .refl _
    | refine .step ?_ (by with_reducible first
        | exact .adh_upd ..)

theorem Kept.adhShow (s : State) (u : Fin 4) : Kept [.block .adh] s (State.adhShow s u) := by
  unfold State.adhShow
  dsimp only
  repeat' with_reducible first
    | exact .refl _
    | refine .step ?_ (by with_reducible first
        | exact .flag .. | exact .put ..)
    | split

theorem Kept.adhStart (s : State) (u : Fin 4) (t : Nat) (late : Bool) : Kept [.adh, .block .adh] s (State.adhStart s
    u t late) := by
  unfold State.adhStart
  repeat' with_reducible first
    | exact .refl _
    | refine .step ?_ (by with_reducible first
        | exact .adhSet .. | exact .adhShow ..)
    | intro _

theorem Kept.adhRegTrigger (s : State) (u : Fin 4) : Kept [.adh, .dma, .dmaReq, .evrAt, .block .adh, .block .dma,
    .block .hlo, .block .sys] s (State.adhRegTrigger s u) := by
  unfold State.adhRegTrigger
  dsimp only
  repeat' with_reducible first
    | exact .refl _
    | refine .step ?_ (by with_reducible first
        | exact .adhSet .. | exact .incSat .. | exact .evt .. | exact .note .. | exact .adhStart ..)
    | refine .ite ?_ ?_
    | intro _
    | split

theorem Kept.execAdhRegTrigger (dt : Nat) (u : Fin 4) (s : State) : KeptOut [.adh, .dma, .dmaReq, .evrAt, .now,
    .block .adh, .block .dma, .block .hlo, .block .sys] s (Machine.execAdhRegTrigger dt u s) := by
  unfold Machine.execAdhRegTrigger
  dsimp only
  repeat' with_reducible first
    | exact .refl _
    | refine .step ?_ (by with_reducible first
        | exact .advance .. | exact .adhRegTrigger ..)
    | refine .next ?_
    | refine KeptOut.ite ?_ ?_
    | refine .ite ?_ ?_
    | split

theorem Kept.adhRegGo (s : State) (u : Fin 4) : Kept [.adh, .dma, .dmaReq, .evrAt, .block .adh, .block .dma, .block
    .hlo, .block .sys] s (State.adhRegGo s u) := by
  unfold State.adhRegGo
  repeat' with_reducible first
    | exact .refl _
    | refine .step ?_ (by with_reducible first
        | exact .adhRegTrigger ..)
    | refine .ite ?_ ?_
    | split

theorem Kept.execAdhReggo (dt : Nat) (_req : Req) (u : Fin 4) (s : State) : KeptOut [.adh, .dma, .dmaReq, .evrAt,
    .now, .block .adh, .block .dma, .block .hlo, .block .sys] s (Machine.execAdhReggo dt _req u s) := by
  unfold Machine.execAdhReggo
  repeat' with_reducible first
    | exact .refl _
    | refine .step ?_ (by with_reducible first
        | exact .advance .. | exact .adhRegGo ..)
    | refine .next ?_

theorem Kept.adhInject (s : State) (u : Fin 4) : Kept [.adh, .dma, .dmaReq, .evrAt, .block .adh, .block .dma] s
    (State.adhInject s u) := by
  unfold State.adhInject
  dsimp only
  repeat' with_reducible first
    | exact .refl _
    | refine .step ?_ (by with_reducible first
        | exact .incSat .. | exact .evt .. | exact .adhSet .. | exact .adhShow ..)
    | refine .ite ?_ ?_
    | intro _
    | split

theorem Kept.adhGo (s : State) (req : Nat) (u : Fin 4) : Kept [.adh, .dma, .dmaReq, .evrAt, .block .adh, .block .dma]
    s (State.adhGo s req u) := by
  unfold State.adhGo
  dsimp only
  repeat' with_reducible first
    | exact .refl _
    | refine .step ?_ (by with_reducible first
        | exact .adhInject .. | exact .refuse ..)
    | refine .ite ?_ ?_
    | split

theorem Kept.execAdhGo (dt : Nat) (req : Req) (u : Fin 4) (s : State) : KeptOut [.adh, .dma, .dmaReq, .evrAt, .now,
    .block .adh, .block .dma] s (Machine.execAdhGo dt req u s) := by
  unfold Machine.execAdhGo
  repeat' with_reducible first
    | exact .refl _
    | refine .step ?_ (by with_reducible first
        | exact .advance .. | exact .adhGo ..)
    | refine .next ?_

theorem Kept.adhCompare (s : State) (c : Nat) : Kept [.adh, .dma, .dmaReq, .evrAt, .block .adh, .block .dma] s
    (State.adhCompare s c) := by
  unfold State.adhCompare
  dsimp only
  repeat' with_reducible first
    | exact .refl _
    | refine .step ?_ (by with_reducible first
        | exact .adhInject ..)
    | refine .ite ?_ ?_
    | refine .foldl ?_ ?_ _
    | intro _
    | split

theorem Kept.adhWord (s : State) (u : Fin 4) (e : AdhEntry) (vin : Int) (hold : Nat) : Kept [.adh, .dma, .dmaReq,
    .evrAt, .block .dma, .block .hlo, .block .sys] s (State.adhWord s u e vin hold).2 := by
  unfold State.adhWord
  dsimp only
  repeat' with_reducible first
    | exact .refl _
    | refine .step ?_ (by with_reducible first
        | exact .adhSet .. | exact .note ..)
    | refine .ite ?_ ?_
    | intro _
    | split

theorem Kept.adhAsk (s : State) (u : Fin 4) (inj : Bool) (w : W32) (hold : Nat) : Kept [.dmaReq] s (State.adhAsk s u
    inj w hold) := by
  unfold State.adhAsk
  dsimp only
  repeat' with_reducible first
    | exact .refl _
    | refine .step ?_ (by with_reducible first
        | exact .dmaAsk ..)
    | refine .ite ?_ ?_
    | split

theorem Kept.adhInjEnd (s : State) (u : Fin 4) (t : Nat) : Kept [.adh, .block .adh] s (State.adhInjEnd s u t) := by
  unfold State.adhInjEnd
  repeat' with_reducible first
    | exact .refl _
    | refine .step ?_ (by with_reducible first
        | exact .adhSet .. | exact .adhShow ..)
    | intro _

theorem Kept.adhResume (s : State) (u : Fin 4) : Kept [.adh] s (State.adhResume s u) := by
  unfold State.adhResume
  repeat' with_reducible first
    | exact .refl _
    | refine .step ?_ (by with_reducible first
        | exact .adhSet ..)
    | refine .ite ?_ ?_
    | intro _
    | split

theorem Kept.adhInjLatch (s : State) (u : Fin 4) (q : AdhSeq) (vin : Int) : Kept [.adh, .adhLost, .dma, .dmaReq,
    .evrAt, .block .adh, .block .dma, .block .hlo, .block .sys] s (State.adhInjLatch s u q vin) := by
  unfold State.adhInjLatch
  dsimp only
  repeat' with_reducible first
    | exact .refl _
    | refine .step ?_ (by with_reducible first
        | exact .adhWord .. | exact .setWord .. | exact .adhInjEnd .. | exact .adhSet .. | exact .adhShow ..
        | exact .adhResume .. | exact .adhAsk .. | exact .evt ..)
    | refine .ite ?_ ?_
    | (rename_i h; refine .ofSnd h ?_) | (rename_i h; refine .ofFst h ?_)
    | intro _
    | split
    | refine .step ?_ (by with_reducible first
        | exact .adhLost_upd ..)

theorem Kept.adhRegLatch (s : State) (u : Fin 4) (q : AdhSeq) (vin : Int) : Kept (.adh :: .pos :: Part.reaction) s
    (State.adhRegLatch s u q vin) := by
  unfold State.adhRegLatch
  dsimp only
  repeat' with_reducible first
    | exact .refl _
    | refine .step ?_ (by with_reducible first
        | exact .adhWord .. | exact .setWord .. | exact .dcdEntry .. | exact .adhSet .. | exact .adhShow ..
        | exact .adhResume .. | exact .adhAsk .. | exact .evt ..)
    | refine .ite ?_ ?_
    | refine .foldl ?_ ?_ _
    | (rename_i h; refine .ofSnd h ?_) | (rename_i h; refine .ofFst h ?_)
    | intro _
    | split

theorem Kept.execAdhEntryLatch (dt : Nat) (u : Fin 4) (vin : Int) (s : State) : KeptOut (.adh :: .now :: .pos ::
    Part.reaction) s (Machine.execAdhEntryLatch dt u vin s) := by
  unfold Machine.execAdhEntryLatch
  dsimp only
  repeat' with_reducible first
    | exact .refl _
    | refine .step ?_ (by with_reducible first
        | exact .advance .. | exact .adhSet .. | exact .adhInjLatch .. | exact .adhRegLatch ..)
    | refine .next ?_
    | refine KeptOut.ite ?_ ?_
    | refine .ite ?_ ?_
    | intro _
    | split

theorem Kept.adhContinuous (s : State) (u : Fin 4) : Kept [.adh] s (State.adhContinuous s u) := by
  unfold State.adhContinuous
  repeat' with_reducible first
    | exact .refl _
    | refine .step ?_ (by with_reducible first
        | exact .adhSet ..)
    | refine .ite ?_ ?_
    | intro _
    | split

theorem Kept.adhEnable (s : State) (u : Fin 4) : Kept [.adh] s (State.adhEnable s u) := by
  unfold State.adhEnable
  dsimp only
  repeat' with_reducible first
    | exact .refl _
    | refine .step ?_ (by with_reducible first
        | exact .adhSet ..)
    | refine .ite ?_ ?_
    | intro _
    | split

theorem Kept.refFlip (s o : State) : Kept [.adr] s (State.refFlip s o) := by
  unfold State.refFlip
  repeat' with_reducible first
    | exact .refl _
    | refine .ite ?_ ?_
    | refine .foldl ?_ ?_ _
    | intro _
    | split
    | refine .step ?_ (by with_reducible first
        | exact .adr_upd ..)

theorem Kept.adrEnable (s : State) (old : Nat) : Kept [.adr, .block .adr] s (State.adrEnable s old) := by
  unfold State.adrEnable
  dsimp only
  repeat' with_reducible first
    | exact .refl _
    | refine .step ?_ (by with_reducible first
        | exact .putBit .. | exact .refFlip ..)
    | refine .ite ?_ ?_
    | refine .foldl ?_ ?_ _
    | intro _
    | split
    | refine .step ?_ (by with_reducible first
        | exact .adr_upd ..)

theorem Kept.execRefBufferReady (dt : Nat) (b : Fin 3) (s : State) : KeptOut [.adr, .now, .block .adr] s
    (Machine.execRefBufferReady dt b s) := by
  unfold Machine.execRefBufferReady
  dsimp only
  repeat' with_reducible first
    | exact .refl _
    | refine .step ?_ (by with_reducible first
        | exact .advance .. | exact .putBit .. | exact .refFlip ..)
    | refine .next ?_
    | refine KeptOut.ite ?_ ?_
    | refine .ite ?_ ?_
    | split
    | refine .step ?_ (by with_reducible first
        | exact .adr_upd ..)

theorem Kept.execRefMonitorCheck (dt : Nat) (b : Fin 3) (dev : Bool) (s : State) : KeptOut (.adr :: .now :: .pos ::
    Part.reaction) s (Machine.execRefMonitorCheck dt b dev s) := by
  unfold Machine.execRefMonitorCheck
  dsimp only
  repeat' with_reducible first
    | exact .refl _
    | refine .step ?_ (by with_reducible first
        | exact .advance .. | exact .putBit .. | exact .refFlip .. | exact .adhFault .. | exact .adfFault ..)
    | refine .next ?_
    | refine KeptOut.ite ?_ ?_
    | refine .ite ?_ ?_
    | intro _
    | split
    | refine .step ?_ (by with_reducible first
        | exact .adr_upd ..)

theorem Kept.loadTrim (s : State) : Kept [.block .adr] s (State.loadTrim s) := by
  unfold State.loadTrim
  repeat' with_reducible first
    | exact .refl _
    | refine .step ?_ (by with_reducible first
        | exact .puts ..)
    | refine .foldl ?_ ?_ _
    | intro _

theorem Kept.calSet (s : State) (i : Fin 36) (f : CalH → CalH) : Kept [.adr] s (State.calSet s i f) := by
  unfold State.calSet
  repeat' with_reducible first
    | exact .refl _
    | refine .step ?_ (by with_reducible first
        | exact .adr_upd ..)

theorem Kept.calShow (s : State) (i : Fin 36) : Kept [.block .adf] s (State.calShow s i) := by
  unfold State.calShow
  dsimp only
  repeat' with_reducible first
    | exact .refl _
    | refine .step ?_ (by with_reducible first
        | exact .putBit ..)
    | refine .ite ?_ ?_
    | split

theorem Kept.calCycle (s : State) (i : Fin 36) (gain ofs : Int) : Kept (.adr :: .pos :: Part.reaction) s
    (State.calCycle s i gain ofs) := by
  unfold State.calCycle
  dsimp only
  repeat' with_reducible first
    | exact .refl _
    | refine .step ?_ (by with_reducible first
        | exact .calSet .. | exact .calShow .. | exact .adfFault .. | exact .adhFault .. | exact .puts ..)
    | refine .ite ?_ ?_
    | intro _
    | split

theorem Kept.execCalStep (dt : Nat) (conv : Fin 36) (gain ofs : Int) (s : State) : KeptOut (.adr :: .now :: .pos ::
    Part.reaction) s (Machine.execCalStep dt conv gain ofs s) := by
  unfold Machine.execCalStep
  dsimp only
  repeat' with_reducible first
    | exact .refl _
    | refine .step ?_ (by with_reducible first
        | exact .advance .. | exact .calSet .. | exact .calCycle ..)
    | refine .next ?_
    | refine KeptOut.ite ?_ ?_
    | refine .ite ?_ ?_
    | intro _
    | split

theorem Kept.calWindow (s : State) (i : Fin 36) : Kept [.adr, .dma, .dmaReq, .evrAt, .block .adf, .block .dma, .block
    .hlo, .block .sys] s (State.calWindow s i) := by
  unfold State.calWindow
  dsimp only
  repeat' with_reducible first
    | exact .refl _
    | refine .step ?_ (by with_reducible first
        | exact .calSet .. | exact .calShow .. | exact .note ..)
    | refine .ite ?_ ?_
    | intro _
    | split

theorem Kept.execCalWindowEnd (dt : Nat) (s : State) : KeptOut [.adr, .dma, .dmaReq, .evrAt, .now, .block .adf,
    .block .dma, .block .hlo, .block .sys] s (Machine.execCalWindowEnd dt s) := by
  unfold Machine.execCalWindowEnd
  dsimp only
  repeat' with_reducible first
    | exact .refl _
    | refine .step ?_ (by with_reducible first
        | exact .advance .. | exact .calWindow ..)
    | refine .next ?_
    | refine KeptOut.ite ?_ ?_
    | refine .ite ?_ ?_
    | refine .foldl ?_ ?_ _
    | intro _
    | split
    | refine .step ?_ (by with_reducible first
        | exact .adr_upd ..)

end Sys2Proof.Machine
end

