-- ==== Sys2Proof/Laws/KeptScf.lean ====
section
/-! SUPPORT. What each operation of Machine/Scf.lean keeps. -/

namespace Sys2Proof.Machine
open Sys2Proof
set_option Elab.async false

theorem Kept.putSafe (s : State) (a m v : Nat) : Kept Part.allRegs s (State.putSafe s a m v) := by
  unfold State.putSafe
  repeat' with_reducible first
    | exact .refl _
    | refine .step ?_ (by with_reducible first
        | exact .wr ..)

theorem Kept.loadImage (s : State) (r : ScfRec) : Kept Part.allRegs s (State.loadImage s r) := by
  unfold State.loadImage
  repeat' with_reducible first
    | exact .refl _
    | refine .step ?_ (by with_reducible first
        | exact .putSafe ..)
    | refine .foldl ?_ ?_ _
    | refine .foldlSnd ?_ _ _ _ | refine .foldlFst ?_ _ _ _
    | intro _

theorem Kept.scfOther (s : State) (f : ScfRec → ScfRec) : Kept [.scf] s (State.scfOther s f) := by
  unfold State.scfOther
  repeat' with_reducible first
    | exact .refl _
    | refine .ite ?_ ?_
    | split
    | refine .step ?_ (by with_reducible first
        | exact .scf_upd ..)

theorem Kept.scfStore (s : State) (r : ScfRec) : Kept [.scf, .block .scf] s (State.scfStore s r) := by
  unfold State.scfStore
  repeat' with_reducible first
    | exact .refl _
    | refine .step ?_ (by with_reducible first
        | exact .scfOther .. | exact .flag ..)
    | intro _

theorem Kept.fsDone (s : State) : Kept [.scf] s (State.fsDone s) := by
  unfold State.fsDone
  repeat' with_reducible first
    | exact .refl _
    | refine .ite ?_ ?_
    | intro _
    | split
    | refine .step ?_ (by with_reducible first
        | exact .scf_upd ..)

theorem Kept.wrMemWords (s : State) (a : Nat) (ws : List Nat) : Kept [.mem] s (State.wrMemWords s a ws) := by
  unfold State.wrMemWords
  repeat' with_reducible first
    | exact .refl _
    | refine .step ?_ (by with_reducible first
        | exact .wrBytes ..)
    | refine .foldl ?_ ?_ _
    | refine .foldlSnd ?_ _ _ _ | refine .foldlFst ?_ _ _ _
    | (rename_i h; refine .ofSnd h ?_) | (rename_i h; refine .ofFst h ?_)
    | intro _

theorem Kept.fillBytes (s : State) (a : Nat) (v : Byte) (n : Nat) : Kept [.mem] s (s.fillBytes a v n) := by
  induction n generalizing s with
  | zero => exact .refl _
  | succ n ih => exact .trans (.wrByte ..) (ih ..)

theorem Kept.slgDrop (s : State) (r : Fin 16) : Kept [.scf] s (State.slgDrop s r) := by
  unfold State.slgDrop
  repeat' with_reducible first
    | exact .refl _
    | intro _
    | refine .step ?_ (by with_reducible first
        | exact .scf_upd ..)

theorem Kept.slgFail (s : State) (e : SlgEntry) : Kept (Part.andRegs [.dma, .dmaReq, .evrAt, .scf, .sets]) s
    (State.slgFail s e) := by
  unfold State.slgFail
  dsimp only
  repeat' with_reducible first
    | exact .refl _
    | refine .step ?_ (by with_reducible first
        | exact .flag .. | exact .note .. | exact .slgDrop .. | exact .csetEnd ..)
    | split

theorem Kept.slgWrite (s : State) (e : SlgEntry) : Kept [.dma, .dmaReq, .evrAt, .mem, .sets, .block .dma, .block
    .slg] s (State.slgWrite s e) := by
  unfold State.slgWrite
  dsimp only
  repeat' with_reducible first
    | exact .refl _
    | refine .step ?_ (by with_reducible first
        | exact .wrMemWords .. | exact .put .. | exact .evt .. | exact .flag ..)
    | split
    | refine .step ?_ (by with_reducible first
        | exact .sets_upd ..)

theorem Kept.slgErase (s : State) : Kept [.mem, .block .slg] s (State.slgErase s) := by
  unfold State.slgErase
  dsimp only
  repeat' with_reducible first
    | exact .refl _
    | refine .step ?_ (by with_reducible first
        | exact .fillBytes .. | exact .put ..)

theorem Kept.execLogProgramDone (dt : Nat) (ok : Bool) (s : State) : KeptOut (Part.andRegs [.dma, .dmaReq, .evrAt,
    .mem, .now, .scf, .sets]) s (Machine.execLogProgramDone dt ok s) := by
  unfold Machine.execLogProgramDone
  dsimp only
  repeat' with_reducible first
    | exact .refl _
    | refine .step ?_ (by with_reducible first
        | exact .advance .. | exact .slgDrop .. | exact .csetEnd .. | exact .fsDone .. | exact .slgFail ..
        | exact .slgErase .. | exact .slgWrite ..)
    | refine .next ?_
    | refine KeptOut.ite ?_ ?_
    | refine .ite ?_ ?_
    | split
    | refine .step ?_ (by with_reducible first
        | exact .scf_upd ..)

theorem Kept.slgRead (s : State) (req : Nat) (val : W32) : Kept [.scf, .block .slg] s (State.slgRead s req val) := by
  unfold State.slgRead
  dsimp only
  repeat' with_reducible first
    | exact .refl _
    | refine .step ?_ (by with_reducible first
        | exact .setWord .. | exact .flag .. | exact .put .. | exact .refuse ..)
    | refine .ite ?_ ?_
    | refine .foldl ?_ ?_ _
    | intro _
    | split
    | refine .step ?_ (by with_reducible first
        | exact .scf_upd ..)

theorem Kept.execSlgRdseqWrite (dt : Nat) (req : Req) (val : W32) (s : State) : KeptOut [.now, .scf, .block .slg] s
    (Machine.execSlgRdseqWrite dt req val s) := by
  unfold Machine.execSlgRdseqWrite
  repeat' with_reducible first
    | exact .refl _
    | refine .step ?_ (by with_reducible first
        | exact .advance .. | exact .slgRead ..)
    | refine .next ?_

theorem Kept.execSlgCopyDone (dt : Nat) (s : State) : KeptOut [.now, .scf, .block .slg] s (Machine.execSlgCopyDone dt
    s) := by
  unfold Machine.execSlgCopyDone
  dsimp only
  repeat' with_reducible first
    | exact .refl _
    | refine .step ?_ (by with_reducible first
        | exact .advance .. | exact .flag .. | exact .put ..)
    | refine .next ?_
    | refine KeptOut.ite ?_ ?_
    | refine .ite ?_ ?_
    | refine .foldl ?_ ?_ _
    | intro _
    | split
    | refine .step ?_ (by with_reducible first
        | exact .scf_upd ..)

theorem Kept.scfClear (s : State) : Kept [.block .scf] s (State.scfClear s) := by
  unfold State.scfClear
  repeat' with_reducible first
    | exact .refl _
    | refine .step ?_ (by with_reducible first
        | exact .put ..)
    | refine .foldl ?_ ?_ _
    | intro _

theorem Kept.scfCmd {F : List Part} {r s : State} {req : Nat} {f : State → State} (hs : Kept F r s)
    (hF : [.scf, .block .scf] ⊆ F) (hf : ∀ t, Kept F t (f t)) : Kept F r (s.scfCmd req f) := by
  refine .haloCmd hs (fun _ h => hF (by simp_all)) fun t => ?_
  have h := (Kept.step (.refl t) (.scf_upd t { t.scf with sessAt := t.now }) fun _ h => hF (by simp_all)).trans (hf _)
  exact .ite h (.step h (.scfClear ..) fun _ h => hF (by simp_all))

theorem Kept.scfLen {F : List Part} {r s : State} {len : Nat} {f : State → State} (hs : Kept F r s)
    (hF : [.block .scf] ⊆ F) (hf : ∀ t, Kept F t (f t)) : Kept F r (s.scfLen len f) :=
  .ite (hs.trans (hf s)) (.step hs (.refuse ..) hF)

theorem Kept.scfSession (s : State) (v : Nat) : Kept [.dma, .dmaReq, .evrAt, .block .dma, .block .scf] s
    (State.scfSession s v) := by
  unfold State.scfSession
  repeat' with_reducible first
    | exact .refl _
    | refine .step ?_ (by with_reducible first
        | exact .put .. | exact .evt ..)

theorem Kept.scfFail (s : State) : Kept [.dma, .dmaReq, .evrAt, .scf, .block .dma, .block .hlo, .block .scf, .block
    .sys] s (State.scfFail s) := by
  unfold State.scfFail
  dsimp only
  repeat' with_reducible first
    | exact .refl _
    | refine .step ?_ (by with_reducible first
        | exact .incSat .. | exact .evt .. | exact .slgPush .. | exact .status .. | exact .put ..
        | exact .scfSession .. | exact .note ..)
    | refine .ite ?_ ?_
    | split
    | refine .step ?_ (by with_reducible first
        | exact .scf_upd ..)

theorem Kept.scfOpen (s : State) (len : Nat) : Kept [.dma, .dmaReq, .evrAt, .scf, .block .dma, .block .hlo, .block
    .scf, .block .sys] s (State.scfOpen s len) := by
  unfold State.scfOpen
  dsimp only
  repeat' with_reducible first
    | exact .refl _
    | refine .step ?_ (by with_reducible first
        | exact .put .. | exact .scfSession .. | exact .slgPush .. | exact .status .. | exact .scfFail ..)
    | refine .ite ?_ ?_
    | split
    | refine .step ?_ (by with_reducible first
        | exact .scf_upd ..)

theorem Kept.scfCloseCmd (s : State) : Kept (Part.andRegs [.dev, .dma, .dmaReq, .evrAt, .scf, .sets]) s
    (State.scfCloseCmd s) := by
  unfold State.scfCloseCmd
  repeat' with_reducible first
    | exact .refl _
    | refine .step ?_ (by with_reducible first
        | exact .scfClose ..)
    | refine .command ?_ ?_ ?_
    | (show (_ : List Part) ⊆ _; first | exact Part.sub (by decide +kernel) | (dsimp only; exact Part.sub (by decide +kernel)) | simp [Part.reaction, Part.butPending, Part.andRegs])
    | intro _

theorem Kept.scfSetPwd (s : State) (len : Nat) : Kept [.scf, .block .scf] s (State.scfSetPwd s len) := by
  unfold State.scfSetPwd
  dsimp only
  repeat' with_reducible first
    | exact .refl _
    | refine .step ?_ (by with_reducible first
        | exact .slgPush .. | exact .put .. | exact .status ..)
    | refine .ite ?_ ?_
    | split
    | refine .step ?_ (by with_reducible first
        | exact .scf_upd ..)

theorem Kept.scfConfirm (s : State) : Kept [.scf, .block .scf] s (State.scfConfirm s) := by
  unfold State.scfConfirm
  dsimp only
  repeat' with_reducible first
    | exact .refl _
    | refine .step ?_ (by with_reducible first
        | exact .put .. | exact .status ..)
    | refine .ite ?_ ?_
    | split
    | refine .step ?_ (by with_reducible first
        | exact .scf_upd ..)

theorem Kept.scfRevert (s : State) : Kept [.scf, .block .scf] s (State.scfRevert s) := by
  unfold State.scfRevert
  dsimp only
  repeat' with_reducible first
    | exact .refl _
    | refine .step ?_ (by with_reducible first
        | exact .slgPush ..)
    | refine .command ?_ ?_ ?_
    | (show (_ : List Part) ⊆ _; first | exact Part.sub (by decide +kernel) | (dsimp only; exact Part.sub (by decide +kernel)) | simp [Part.reaction, Part.butPending, Part.andRegs])
    | intro _
    | refine .step ?_ (by with_reducible first
        | exact .scf_upd ..)

theorem Kept.scfRevertApply (s : State) : Kept (Part.andRegs [.scf]) s (State.scfRevertApply s) := by
  unfold State.scfRevertApply
  dsimp only
  repeat' with_reducible first
    | exact .refl _
    | refine .step ?_ (by with_reducible first
        | exact .loadImage .. | exact .flag ..)
    | refine .ite ?_ ?_
    | split
    | refine .step ?_ (by with_reducible first
        | exact .scf_upd ..)

theorem Kept.execScfOpen (dt : Nat) (req : Req) (len : Fin 64) (s : State) : KeptOut [.dma, .dmaReq, .evrAt, .now,
    .scf, .block .dma, .block .hlo, .block .scf, .block .sys] s (Machine.execScfOpen dt req len s) := by
  unfold Machine.execScfOpen
  repeat' with_reducible first
    | exact .refl _
    | refine .step ?_ (by with_reducible first
        | exact .advance .. | exact .scfOpen ..)
    | refine .scfLen ?_ ?_ ?_
    | refine .scfCmd ?_ ?_ ?_
    | (show (_ : List Part) ⊆ _; first | exact Part.sub (by decide +kernel) | (dsimp only; exact Part.sub (by decide +kernel)) | simp [Part.reaction, Part.butPending, Part.andRegs])
    | refine .next ?_
    | intro _

theorem Kept.execScfClose (dt : Nat) (req : Req) (s : State) : KeptOut (Part.andRegs [.dev, .dma, .dmaReq, .evrAt,
    .now, .scf, .sets]) s (Machine.execScfClose dt req s) := by
  unfold Machine.execScfClose
  repeat' with_reducible first
    | exact .refl _
    | refine .step ?_ (by with_reducible first
        | exact .advance .. | exact .scfCloseCmd ..)
    | refine .scfCmd ?_ ?_ ?_
    | (show (_ : List Part) ⊆ _; first | exact Part.sub (by decide +kernel) | (dsimp only; exact Part.sub (by decide +kernel)) | simp [Part.reaction, Part.butPending, Part.andRegs])
    | refine .next ?_
    | intro _

theorem Kept.execScfSetPwd (dt : Nat) (req : Req) (len : Fin 64) (s : State) : KeptOut [.now, .scf, .block .scf] s
    (Machine.execScfSetPwd dt req len s) := by
  unfold Machine.execScfSetPwd
  repeat' with_reducible first
    | exact .refl _
    | refine .step ?_ (by with_reducible first
        | exact .advance .. | exact .scfSetPwd ..)
    | refine .scfLen ?_ ?_ ?_
    | refine .scfCmd ?_ ?_ ?_
    | (show (_ : List Part) ⊆ _; first | exact Part.sub (by decide +kernel) | (dsimp only; exact Part.sub (by decide +kernel)) | simp [Part.reaction, Part.butPending, Part.andRegs])
    | refine .next ?_
    | intro _

theorem Kept.execScfConfirm (dt : Nat) (req : Req) (s : State) : KeptOut [.now, .scf, .block .scf] s
    (Machine.execScfConfirm dt req s) := by
  unfold Machine.execScfConfirm
  repeat' with_reducible first
    | exact .refl _
    | refine .step ?_ (by with_reducible first
        | exact .advance .. | exact .scfConfirm ..)
    | refine .scfCmd ?_ ?_ ?_
    | (show (_ : List Part) ⊆ _; first | exact Part.sub (by decide +kernel) | (dsimp only; exact Part.sub (by decide +kernel)) | simp [Part.reaction, Part.butPending, Part.andRegs])
    | refine .next ?_
    | intro _

theorem Kept.execScfRevert (dt : Nat) (req : Req) (s : State) : KeptOut [.now, .scf, .block .scf] s
    (Machine.execScfRevert dt req s) := by
  unfold Machine.execScfRevert
  repeat' with_reducible first
    | exact .refl _
    | refine .step ?_ (by with_reducible first
        | exact .advance .. | exact .scfRevert ..)
    | refine .scfCmd ?_ ?_ ?_
    | (show (_ : List Part) ⊆ _; first | exact Part.sub (by decide +kernel) | (dsimp only; exact Part.sub (by decide +kernel)) | simp [Part.reaction, Part.butPending, Part.andRegs])
    | refine .next ?_
    | intro _

theorem Kept.scfDone (s : State) (st : Status) : Kept [.scf, .block .scf] s (State.scfDone s st) := by
  unfold State.scfDone
  repeat' with_reducible first
    | exact .refl _
    | refine .step ?_ (by with_reducible first
        | exact .status .. | exact .scfClear ..)
    | refine .step ?_ (by with_reducible first
        | exact .scf_upd ..)

theorem Kept.scfBad (s : State) : Kept [.scf] s (State.scfBad s) := by
  unfold State.scfBad
  repeat' with_reducible first
    | exact .refl _
    | refine .step ?_ (by with_reducible first
        | exact .scfOther ..)
    | intro _

theorem Kept.scfLockStored (s : State) (ok : Bool) : Kept [.scf, .block .scf] s (State.scfLockStored s ok) := by
  unfold State.scfLockStored
  dsimp only
  repeat' with_reducible first
    | exact .refl _
    | refine .step ?_ (by with_reducible first
        | exact .scfStore .. | exact .scfBad ..)
    | refine .ite ?_ ?_
    | split
    | refine .step ?_ (by with_reducible first
        | exact .scf_upd ..)

theorem Kept.scfOpStored (s : State) (ok : Bool) : Kept [.dma, .dmaReq, .evrAt, .scf, .block .dma, .block .scf] s
    (State.scfOpStored s ok) := by
  unfold State.scfOpStored
  dsimp only
  repeat' with_reducible first
    | exact .refl _
    | refine .step ?_ (by with_reducible first
        | exact .scfStore .. | exact .flag .. | exact .scfDone .. | exact .scfBad .. | exact .put ..
        | exact .slgPush .. | exact .evt ..)
    | refine .ite ?_ ?_
    | split

theorem Kept.execScfStoreDone (dt : Nat) (ok : Bool) (s : State) : KeptOut [.dma, .dmaReq, .evrAt, .now, .scf, .block
    .dma, .block .scf] s (Machine.execScfStoreDone dt ok s) := by
  unfold Machine.execScfStoreDone
  dsimp only
  repeat' with_reducible first
    | exact .refl _
    | refine .step ?_ (by with_reducible first
        | exact .advance .. | exact .scfLockStored .. | exact .fsDone .. | exact .scfOpStored ..)
    | refine .next ?_
    | refine KeptOut.ite ?_ ?_
    | refine .ite ?_ ?_
    | split

theorem Kept.execLockoutEnd (dt : Nat) (s : State) : KeptOut [.dma, .dmaReq, .evrAt, .now, .scf, .block .dma, .block
    .scf] s (Machine.execLockoutEnd dt s) := by
  unfold Machine.execLockoutEnd
  dsimp only
  repeat' with_reducible first
    | exact .refl _
    | refine .step ?_ (by with_reducible first
        | exact .advance .. | exact .scfSession ..)
    | refine .next ?_
    | refine KeptOut.ite ?_ ?_
    | refine .ite ?_ ?_
    | split
    | refine .step ?_ (by with_reducible first
        | exact .scf_upd ..)

theorem Kept.execSessionTimeout (dt : Nat) (s : State) : KeptOut (Part.andRegs [.dev, .dma, .dmaReq, .evrAt, .now,
    .scf, .sets]) s (Machine.execSessionTimeout dt s) := by
  unfold Machine.execSessionTimeout
  dsimp only
  repeat' with_reducible first
    | exact .refl _
    | refine .step ?_ (by with_reducible first
        | exact .advance .. | exact .scfClose ..)
    | refine .next ?_
    | refine KeptOut.ite ?_ ?_
    | refine .ite ?_ ?_
    | split

theorem Kept.execImgcrcRecomputed (dt : Nat) (s : State) : KeptOut [.now, .scf, .block .scf] s
    (Machine.execImgcrcRecomputed dt s) := by
  unfold Machine.execImgcrcRecomputed
  dsimp only
  repeat' with_reducible first
    | exact .refl _
    | refine .step ?_ (by with_reducible first
        | exact .advance .. | exact .put ..)
    | refine .next ?_
    | refine KeptOut.ite ?_ ?_
    | refine .ite ?_ ?_
    | split
    | refine .step ?_ (by with_reducible first
        | exact .scf_upd ..)

end Sys2Proof.Machine
end

