-- ==== Sys2Proof/Laws/KeptDevice.lean ====
section
/-! SUPPORT. What each operation of Machine/Device.lean keeps. -/

namespace Sys2Proof.Machine
open Sys2Proof
set_option Elab.async false

theorem Kept.devSet (s : State) (f : Dev → Dev) : Kept [.dev] s (State.devSet s f) := by
  unfold State.devSet
  repeat' with_reducible first
    | exact .refl _
    | refine .step ?_ (by with_reducible first
        | exact .dev_upd ..)

theorem Kept.pairSet (s : State) (i : Fin 3) (f : PairH → PairH) : Kept [.lks] s (State.pairSet s i f) := by
  unfold State.pairSet
  repeat' with_reducible first
    | exact .refl _
    | refine .step ?_ (by with_reducible first
        | exact .lks_upd ..)

theorem Kept.toSafeHold (s : State) : Kept (Part.andRegs [.act, .bch, .canH, .clf, .cpw, .dcd, .dev, .dma, .dmaReq,
    .evrAt, .halo, .lks, .msv, .obc, .pos, .scf, .sets, .tpw]) s (State.toSafeHold s) := by
  unfold State.toSafeHold
  dsimp only
  repeat' with_reducible first
    | exact .refl _
    | refine .step ?_ (by with_reducible first
        | exact .flag .. | exact .enter ..)
    | refine .ite ?_ ?_
    | split

theorem Kept.scfCut (s : State) : Kept [.scf] s (State.scfCut s) := by
  unfold State.scfCut
  repeat' with_reducible first
    | exact .refl _
    | refine .step ?_ (by with_reducible first
        | exact .scfOther ..)
    | refine .ite ?_ ?_
    | intro _
    | split

theorem Kept.slgCut (s : State) : Kept [.free, .block .slg] s (State.slgCut s) := by
  unfold State.slgCut
  dsimp only
  repeat' with_reducible first
    | exact .refl _
    | refine .step ?_ (by with_reducible first
        | exact .freshBit .. | exact .incSat ..)
    | refine .ite ?_ ?_
    | (rename_i h; refine .ofSnd h ?_) | (rename_i h; refine .ofFst h ?_)
    | split

theorem Kept.toOff (s : State) : Kept Part.butPending s s.toOff := by
  unfold State.toOff
  split
  · exact .refl _
  · dsimp only
    refine .step (.step (.trans (.step (.step (.refl s) (.scfCut ..) ?_) (.slgCut ..) ?_)
      ⟨fun q hq => ?_, fun w => mapWf_mapKeep _ _ _ w, fun w => mapWf_mapKeep _ _ _ w⟩) (.put ..) ?_) (.put ..) ?_
    case refine_3 =>
      cases q
      case pending => rfl
      case free => rfl
      case block b => exact absurd (by simp) hq
      all_goals exact absurd (by decide +kernel) hq
    all_goals decide +kernel

theorem Kept.cause (s : State) (c : Nat) : Kept [.dev] s (State.cause s c) := by
  unfold State.cause
  repeat' with_reducible first
    | exact .refl _
    | refine .step ?_ (by with_reducible first
        | exact .devSet ..)
    | intro _

theorem Kept.powerOnWords (s : State) : Kept [.block .hlo, .block .rst] s (State.powerOnWords s) := by
  unfold State.powerOnWords
  dsimp only
  repeat' with_reducible first
    | exact .refl _
    | refine .step ?_ (by with_reducible first
        | exact .setWord .. | exact .put .. | exact .put64 ..)

theorem Kept.causeWords (s : State) (causes : Nat) : Kept [.block .rst] s (State.causeWords s causes) := by
  unfold State.causeWords
  dsimp only
  repeat' with_reducible first
    | exact .refl _
    | refine .step ?_ (by with_reducible first
        | exact .put .. | exact .flag .. | exact .incSat ..)
    | refine .ite ?_ ?_
    | split

theorem Kept.release (s : State) : Kept [.dev, .now, .block .hlo, .block .rst, .block .sys] s (State.release s) := by
  unfold State.release
  dsimp only
  repeat' with_reducible first
    | exact .refl _
    | refine .step ?_ (by with_reducible first
        | exact .powerOnWords .. | exact .causeWords .. | exact .devSet .. | exact .put ..)
    | refine .ite ?_ ?_
    | intro _
    | split
    | refine .step ?_ (by with_reducible first
        | exact .now_upd ..)

theorem Kept.execSupplyValid (dt : Nat) (k : Fin 6) (s : State) : KeptOut [.dev, .now] s (Machine.execSupplyValid dt
    k s) := by
  unfold Machine.execSupplyValid
  repeat' with_reducible first
    | exact .refl _
    | refine .step ?_ (by with_reducible first
        | exact .advance .. | exact .devSet ..)
    | refine .next ?_
    | refine KeptOut.ite ?_ ?_
    | refine .ite ?_ ?_
    | intro _
    | split

theorem Kept.execPowerValid (dt : Nat) (boot : BitVec 2) (s : State) : KeptOut [.dev, .now, .block .hlo, .block .rst,
    .block .sys] s (Machine.execPowerValid dt boot s) := by
  unfold Machine.execPowerValid
  dsimp only
  repeat' with_reducible first
    | exact .refl _
    | refine .step ?_ (by with_reducible first
        | exact .advance .. | exact .devSet .. | exact .release ..)
    | refine .next ?_
    | refine KeptOut.ite ?_ ?_
    | refine .ite ?_ ?_
    | intro _
    | split

theorem Kept.execSupplyUv (dt : Nat) (k : Fin 6) (s : State) : KeptOut Part.butPending s (Machine.execSupplyUv dt k
    s) := by
  unfold Machine.execSupplyUv
  dsimp only
  repeat' with_reducible first
    | exact .refl _
    | refine .step ?_ (by with_reducible first
        | exact .advance .. | exact .toOff .. | exact .devSet .. | exact .cause .. | exact .put64 ..)
    | refine .next ?_
    | refine KeptOut.ite ?_ ?_
    | refine .ite ?_ ?_
    | intro _
    | split

theorem Kept.execSupplyOv (dt : Nat) (k : Fin 6) (s : State) : KeptOut (.now :: .pos :: Part.reaction) s
    (Machine.execSupplyOv dt k s) := by
  unfold Machine.execSupplyOv
  dsimp only
  repeat' with_reducible first
    | exact .refl _
    | refine .step ?_ (by with_reducible first
        | exact .advance .. | exact .putBit .. | exact .evt .. | exact .incSat .. | exact .raise ..)
    | refine .next ?_
    | refine KeptOut.ite ?_ ?_
    | refine .ite ?_ ?_
    | split

theorem Kept.execNresetAssert (dt : Nat) (s : State) : KeptOut Part.butPending s (Machine.execNresetAssert dt s) := by
  unfold Machine.execNresetAssert
  repeat' with_reducible first
    | exact .refl _
    | refine .step ?_ (by with_reducible first
        | exact .advance .. | exact .toOff .. | exact .devSet ..)
    | refine .next ?_
    | intro _

theorem Kept.execNresetRelease (dt : Nat) (heldUs : Nat) (boot : BitVec 2) (s : State) : KeptOut [.dev, .free, .now,
    .block .hlo, .block .rst, .block .sys] s (Machine.execNresetRelease dt heldUs boot s) := by
  unfold Machine.execNresetRelease
  dsimp only
  repeat' with_reducible first
    | exact .refl _
    | refine .step ?_ (by with_reducible first
        | exact .advance .. | exact .freshBit .. | exact .cause .. | exact .put64 .. | exact .devSet ..
        | exact .release ..)
    | refine .next ?_
    | refine KeptOut.ite ?_ ?_
    | refine .ite ?_ ?_
    | (rename_i h; refine .ofSnd h ?_) | (rename_i h; refine .ofFst h ?_)
    | intro _
    | split

theorem Kept.warmReset (s : State) (c : Nat) : Kept Part.butPending s (State.warmReset s c) := by
  unfold State.warmReset
  repeat' with_reducible first
    | exact .refl _
    | refine .step ?_ (by with_reducible first
        | exact .toOff .. | exact .cause .. | exact .release ..)

theorem Kept.execDebugSystemReset (dt : Nat) (s : State) : KeptOut Part.butPending s (Machine.execDebugSystemReset dt
    s) := by
  unfold Machine.execDebugSystemReset
  dsimp only
  repeat' with_reducible first
    | exact .refl _
    | refine .step ?_ (by with_reducible first
        | exact .advance .. | exact .warmReset ..)
    | refine .next ?_
    | refine KeptOut.ite ?_ ?_
    | refine .ite ?_ ?_
    | split

theorem Kept.requesterReset (s : State) (r : Fin 16) : Kept (Part.andRegs [.adhLost, .dma, .dmaReq, .evrAt, .sets]) s
    (State.requesterReset s r) := by
  unfold State.requesterReset
  dsimp only
  repeat' with_reducible first
    | exact .refl _
    | refine .step ?_ (by with_reducible first
        | exact .loseLocks .. | exact .csetEnd ..)
    | refine .ite ?_ ?_
    | split

theorem Kept.pairReset (s : State) (i : Fin 2) : Kept (Part.andRegs [.adhLost, .dma, .dmaReq, .evrAt, .lks, .sets]) s
    (State.pairReset s i) := by
  unfold State.pairReset
  dsimp only
  repeat' with_reducible first
    | exact .refl _
    | refine .step ?_ (by with_reducible first
        | exact .requesterReset .. | exact .putBit .. | exact .pairSet ..)
    | intro _

theorem Kept.rstCmd (s : State) (req op : Nat) : Kept Part.butPending s (State.rstCmd s req op) := by
  unfold State.rstCmd
  dsimp only
  repeat' with_reducible first
    | exact .refl _
    | refine .step ?_ (by with_reducible first
        | exact .status .. | exact .put .. | exact .warmReset .. | exact .pairReset ..)
    | refine .ite ?_ ?_
    | split

theorem Kept.execRstCmdDevice (dt : Nat) (req : Req) (s : State) : KeptOut Part.butPending s
    (Machine.execRstCmdDevice dt req s) := by
  unfold Machine.execRstCmdDevice
  repeat' with_reducible first
    | exact .refl _
    | refine .step ?_ (by with_reducible first
        | exact .advance .. | exact .rstCmd ..)
    | refine .withKey ?_ ?_ ?_
    | (show (_ : List Part) ⊆ _; first | exact Part.sub (by decide +kernel) | (dsimp only; exact Part.sub (by decide +kernel)) | simp [Part.reaction, Part.butPending, Part.andRegs])
    | refine .next ?_
    | intro _

theorem Kept.execRstCmdAp0 (dt : Nat) (req : Req) (s : State) : KeptOut Part.butPending s (Machine.execRstCmdAp0 dt
    req s) := by
  unfold Machine.execRstCmdAp0
  repeat' with_reducible first
    | exact .refl _
    | refine .step ?_ (by with_reducible first
        | exact .advance .. | exact .rstCmd ..)
    | refine .withKey ?_ ?_ ?_
    | (show (_ : List Part) ⊆ _; first | exact Part.sub (by decide +kernel) | (dsimp only; exact Part.sub (by decide +kernel)) | simp [Part.reaction, Part.butPending, Part.andRegs])
    | refine .next ?_
    | intro _

theorem Kept.execRstCmdAp1 (dt : Nat) (req : Req) (s : State) : KeptOut Part.butPending s (Machine.execRstCmdAp1 dt
    req s) := by
  unfold Machine.execRstCmdAp1
  repeat' with_reducible first
    | exact .refl _
    | refine .step ?_ (by with_reducible first
        | exact .advance .. | exact .rstCmd ..)
    | refine .withKey ?_ ?_ ?_
    | (show (_ : List Part) ⊆ _; first | exact Part.sub (by decide +kernel) | (dsimp only; exact Part.sub (by decide +kernel)) | simp [Part.reaction, Part.butPending, Part.andRegs])
    | refine .next ?_
    | intro _

theorem Kept.execPairRestart (dt : Nat) (p : Fin 2) (s : State) : KeptOut [.lks, .now] s (Machine.execPairRestart dt
    p s) := by
  unfold Machine.execPairRestart
  dsimp only
  repeat' with_reducible first
    | exact .refl _
    | refine .step ?_ (by with_reducible first
        | exact .advance .. | exact .pairSet ..)
    | refine .next ?_
    | refine KeptOut.ite ?_ ?_
    | refine .ite ?_ ?_
    | intro _
    | split

theorem Kept.execBootSlotCheck (dt : Nat) (slot : Fin 2) (err : Bool) (s : State) : KeptOut (Part.andRegs [.act,
    .bch, .canH, .clf, .cpw, .dcd, .dev, .dma, .dmaReq, .evrAt, .halo, .lks, .msv, .now, .obc, .pos, .scf, .sets,
    .tpw]) s (Machine.execBootSlotCheck dt slot err s) := by
  unfold Machine.execBootSlotCheck
  dsimp only
  repeat' with_reducible first
    | exact .refl _
    | refine .step ?_ (by with_reducible first
        | exact .advance .. | exact .put .. | exact .devSet .. | exact .toSafeHold ..)
    | refine .next ?_
    | refine KeptOut.ite ?_ ?_
    | refine .ite ?_ ?_
    | intro _
    | split

theorem Kept.scfBoot (s : State) : Kept (Part.andRegs [.scf]) s (State.scfBoot s) := by
  unfold State.scfBoot
  dsimp only
  repeat' with_reducible first
    | exact .refl _
    | refine .step ?_ (by with_reducible first
        | exact .flag .. | exact .loadImage .. | exact .put ..)
    | refine .ite ?_ ?_
    | split
    | refine .step ?_ (by with_reducible first
        | exact .scf_upd ..)

theorem Kept.toSelftest (s : State) (bound : Nat) : Kept (Part.andRegs [.act, .bch, .canH, .clf, .cpw, .dcd, .dev,
    .dma, .dmaReq, .evrAt, .halo, .lks, .msv, .obc, .pos, .scf, .sets, .tpw]) s (State.toSelftest s bound) := by
  unfold State.toSelftest
  repeat' with_reducible first
    | exact .refl _
    | refine .step ?_ (by with_reducible first
        | exact .enter .. | exact .devSet ..)
    | intro _

theorem Kept.execBootHandover (dt : Nat) (s : State) : KeptOut (Part.andRegs [.act, .bch, .canH, .clf, .cpw, .dcd,
    .dev, .dma, .dmaReq, .evrAt, .halo, .lks, .msv, .now, .obc, .pos, .scf, .sets, .tpw]) s (Machine.execBootHandover
    dt s) := by
  unfold Machine.execBootHandover
  dsimp only
  repeat' with_reducible first
    | exact .refl _
    | refine .step ?_ (by with_reducible first
        | exact .advance .. | exact .pairSet .. | exact .scfBoot .. | exact .loadTrim .. | exact .put ..
        | exact .toSelftest .. | exact .note .. | exact .devSet .. | exact .evt ..)
    | refine .next ?_
    | refine KeptOut.ite ?_ ?_
    | refine .ite ?_ ?_
    | (rename_i h; refine .ofSnd h ?_) | (rename_i h; refine .ofFst h ?_)
    | intro _
    | split

theorem Kept.execBootTimeout (dt : Nat) (s : State) : KeptOut (Part.andRegs [.act, .bch, .canH, .clf, .cpw, .dcd,
    .dev, .dma, .dmaReq, .evrAt, .halo, .lks, .msv, .now, .obc, .pos, .scf, .sets, .tpw]) s (Machine.execBootTimeout
    dt s) := by
  unfold Machine.execBootTimeout
  dsimp only
  repeat' with_reducible first
    | exact .refl _
    | refine .step ?_ (by with_reducible first
        | exact .advance .. | exact .toSafeHold ..)
    | refine .next ?_
    | refine KeptOut.ite ?_ ?_
    | refine .ite ?_ ?_
    | split

theorem Kept.testFail (s : State) : Kept (.pos :: Part.reaction) s (State.testFail s) := by
  unfold State.testFail
  dsimp only
  repeat' with_reducible first
    | exact .refl _
    | refine .step ?_ (by with_reducible first
        | exact .put .. | exact .raise .. | exact .toSafeHold ..)
    | refine .ite ?_ ?_
    | split

theorem Kept.execStartTestComplete (dt : Nat) (pass : Bool) (s : State) : KeptOut (.now :: .pos :: Part.reaction) s
    (Machine.execStartTestComplete dt pass s) := by
  unfold Machine.execStartTestComplete
  dsimp only
  repeat' with_reducible first
    | exact .refl _
    | refine .step ?_ (by with_reducible first
        | exact .advance .. | exact .testFail .. | exact .devSet .. | exact .put .. | exact .enter ..)
    | refine .next ?_
    | refine KeptOut.ite ?_ ?_
    | refine .ite ?_ ?_
    | intro _
    | split

theorem Kept.execSelftestTimeout (dt : Nat) (s : State) : KeptOut (.now :: .pos :: Part.reaction) s
    (Machine.execSelftestTimeout dt s) := by
  unfold Machine.execSelftestTimeout
  dsimp only
  repeat' with_reducible first
    | exact .refl _
    | refine .step ?_ (by with_reducible first
        | exact .advance .. | exact .testFail ..)
    | refine .next ?_
    | refine KeptOut.ite ?_ ?_
    | refine .ite ?_ ?_
    | split

theorem Kept.keyRevoke (s : State) (req bits : Nat) : Kept [.keys, .block .sys] s (State.keyRevoke s req bits) := by
  unfold State.keyRevoke
  dsimp only
  repeat' with_reducible first
    | exact .refl _
    | refine .step ?_ (by with_reducible first
        | exact .refuse .. | exact .put .. | exact .countCmd ..)
    | refine .withKey ?_ ?_ ?_
    | (show (_ : List Part) ⊆ _; first | exact Part.sub (by decide +kernel) | (dsimp only; exact Part.sub (by decide +kernel)) | simp [Part.reaction, Part.butPending, Part.andRegs])
    | refine .ite ?_ ?_
    | intro _
    | split

theorem Kept.execKeyRevoke (dt : Nat) (req : Req) (bits : BitVec 2) (s : State) : KeptOut [.keys, .now, .block .sys]
    s (Machine.execKeyRevoke dt req bits s) := by
  unfold Machine.execKeyRevoke
  repeat' with_reducible first
    | exact .refl _
    | refine .step ?_ (by with_reducible first
        | exact .advance .. | exact .keyRevoke ..)
    | refine .next ?_

theorem Kept.execOutReadback (dt : Nat) (_ball : OutBall) (s : State) : KeptOut (.now :: .pos :: Part.reaction) s
    (Machine.execOutReadback dt _ball s) := by
  unfold Machine.execOutReadback
  dsimp only
  repeat' with_reducible first
    | exact .refl _
    | refine .step ?_ (by with_reducible first
        | exact .advance .. | exact .evt .. | exact .raise ..)
    | refine .next ?_
    | refine KeptOut.ite ?_ ?_
    | refine .ite ?_ ?_
    | split

theorem Kept.dcmd (s : State) (req op : Nat) : Kept (Part.andRegs [.act, .bch, .canH, .clf, .cpw, .dcd, .dev, .dma,
    .dmaReq, .evrAt, .halo, .lks, .msv, .obc, .pos, .scf, .sets, .tpw]) s (State.dcmd s req op) := by
  unfold State.dcmd
  dsimp only
  repeat' with_reducible first
    | exact .refl _
    | refine .step ?_ (by with_reducible first
        | exact .put .. | exact .status .. | exact .toSafeHold .. | exact .obcStopping .. | exact .flag ..
        | exact .devSet .. | exact .stoEval ..)
    | refine .ite ?_ ?_
    | intro _
    | split

theorem Kept.execStandby (dt : Nat) (req : Req) (s : State) : KeptOut (Part.andRegs [.act, .bch, .canH, .clf, .cpw,
    .dcd, .dev, .dma, .dmaReq, .evrAt, .halo, .lks, .msv, .now, .obc, .pos, .scf, .sets, .tpw]) s
    (Machine.execStandby dt req s) := by
  unfold Machine.execStandby
  repeat' with_reducible first
    | exact .refl _
    | refine .step ?_ (by with_reducible first
        | exact .advance .. | exact .dcmd ..)
    | refine .next ?_

theorem Kept.execDrive (dt : Nat) (req : Req) (s : State) : KeptOut (Part.andRegs [.act, .bch, .canH, .clf, .cpw,
    .dcd, .dev, .dma, .dmaReq, .evrAt, .halo, .lks, .msv, .now, .obc, .pos, .scf, .sets, .tpw]) s (Machine.execDrive
    dt req s) := by
  unfold Machine.execDrive
  repeat' with_reducible first
    | exact .refl _
    | refine .step ?_ (by with_reducible first
        | exact .advance .. | exact .dcmd ..)
    | refine .next ?_

theorem Kept.execCharge (dt : Nat) (req : Req) (s : State) : KeptOut (Part.andRegs [.act, .bch, .canH, .clf, .cpw,
    .dcd, .dev, .dma, .dmaReq, .evrAt, .halo, .lks, .msv, .now, .obc, .pos, .scf, .sets, .tpw]) s (Machine.execCharge
    dt req s) := by
  unfold Machine.execCharge
  repeat' with_reducible first
    | exact .refl _
    | refine .step ?_ (by with_reducible first
        | exact .advance .. | exact .dcmd ..)
    | refine .next ?_

theorem Kept.execService (dt : Nat) (req : Req) (s : State) : KeptOut (Part.andRegs [.act, .bch, .canH, .clf, .cpw,
    .dcd, .dev, .dma, .dmaReq, .evrAt, .halo, .lks, .msv, .now, .obc, .pos, .scf, .sets, .tpw]) s
    (Machine.execService dt req s) := by
  unfold Machine.execService
  repeat' with_reducible first
    | exact .refl _
    | refine .step ?_ (by with_reducible first
        | exact .advance .. | exact .dcmd ..)
    | refine .next ?_

theorem Kept.execSafeHold (dt : Nat) (req : Req) (s : State) : KeptOut (Part.andRegs [.act, .bch, .canH, .clf, .cpw,
    .dcd, .dev, .dma, .dmaReq, .evrAt, .halo, .lks, .msv, .now, .obc, .pos, .scf, .sets, .tpw]) s
    (Machine.execSafeHold dt req s) := by
  unfold Machine.execSafeHold
  repeat' with_reducible first
    | exact .refl _
    | refine .step ?_ (by with_reducible first
        | exact .advance .. | exact .dcmd ..)
    | refine .next ?_

theorem Kept.execStateTransitionDone (dt : Nat) (s : State) : KeptOut (Part.andRegs [.act, .bch, .canH, .clf, .cpw,
    .dcd, .dev, .dma, .dmaReq, .evrAt, .halo, .lks, .msv, .now, .obc, .pos, .scf, .sets, .tpw]) s
    (Machine.execStateTransitionDone dt s) := by
  unfold Machine.execStateTransitionDone
  dsimp only
  repeat' with_reducible first
    | exact .refl _
    | refine .step ?_ (by with_reducible first
        | exact .advance .. | exact .put .. | exact .toSelftest .. | exact .enter .. | exact .flag ..)
    | refine .next ?_
    | refine KeptOut.ite ?_ ?_
    | refine .ite ?_ ?_
    | split

theorem Kept.jtagIr (s : State) (i : JtagIr) : Kept [.dev] s (State.jtagIr s i) := by
  unfold State.jtagIr
  repeat' with_reducible first
    | exact .refl _
    | refine .step ?_ (by with_reducible first
        | exact .devSet ..)
    | refine .ite ?_ ?_
    | intro _
    | split

theorem Kept.jtagHold (s : State) (i : JtagIr) : Kept [.dev] s (State.jtagHold s i) := by
  unfold State.jtagHold
  repeat' with_reducible first
    | exact .refl _
    | refine .step ?_ (by with_reducible first
        | exact .jtagIr ..)
    | refine .ite ?_ ?_
    | split

theorem Kept.execJtagBypass (dt : Nat) (s : State) : KeptOut [.dev, .now] s (Machine.execJtagBypass dt s) := by
  unfold Machine.execJtagBypass
  repeat' with_reducible first
    | exact .refl _
    | refine .step ?_ (by with_reducible first
        | exact .advance .. | exact .jtagIr ..)
    | refine .next ?_

theorem Kept.execJtagIdcode (dt : Nat) (s : State) : KeptOut [.dev, .now, .reply] s (Machine.execJtagIdcode dt s) :=
    by
  unfold Machine.execJtagIdcode
  dsimp only
  repeat' with_reducible first
    | exact .refl _
    | refine .step ?_ (by with_reducible first
        | exact .advance .. | exact .jtagIr .. | exact .answer ..)
    | refine .next ?_
    | refine KeptOut.ite ?_ ?_
    | refine .ite ?_ ?_
    | split

theorem Kept.execJtagSamplePreload (dt : Nat) (cells : List (Nat × Bool)) (s : State) : KeptOut [.dev, .now] s
    (Machine.execJtagSamplePreload dt cells s) := by
  unfold Machine.execJtagSamplePreload
  dsimp only
  repeat' with_reducible first
    | exact .refl _
    | refine .step ?_ (by with_reducible first
        | exact .advance .. | exact .jtagIr .. | exact .devSet ..)
    | refine .next ?_
    | refine KeptOut.ite ?_ ?_
    | refine .ite ?_ ?_
    | intro _
    | split

theorem Kept.execJtagDtm (dt : Nat) (s : State) : KeptOut [.dev, .now] s (Machine.execJtagDtm dt s) := by
  unfold Machine.execJtagDtm
  repeat' with_reducible first
    | exact .refl _
    | refine .step ?_ (by with_reducible first
        | exact .advance .. | exact .jtagIr ..)
    | refine .next ?_

theorem Kept.execJtagExtest (dt : Nat) (s : State) : KeptOut [.dev, .now] s (Machine.execJtagExtest dt s) := by
  unfold Machine.execJtagExtest
  repeat' with_reducible first
    | exact .refl _
    | refine .step ?_ (by with_reducible first
        | exact .advance .. | exact .jtagHold ..)
    | refine .next ?_

theorem Kept.execJtagClamp (dt : Nat) (s : State) : KeptOut [.dev, .now] s (Machine.execJtagClamp dt s) := by
  unfold Machine.execJtagClamp
  repeat' with_reducible first
    | exact .refl _
    | refine .step ?_ (by with_reducible first
        | exact .advance .. | exact .jtagHold ..)
    | refine .next ?_

theorem Kept.execJtagHighz (dt : Nat) (s : State) : KeptOut [.dev, .now] s (Machine.execJtagHighz dt s) := by
  unfold Machine.execJtagHighz
  repeat' with_reducible first
    | exact .refl _
    | refine .step ?_ (by with_reducible first
        | exact .advance .. | exact .jtagHold ..)
    | refine .next ?_

end Sys2Proof.Machine
end

