-- ==== Sys2Proof/Laws/Device.lean ====
section
/-! SUPPORT. The device state after an entry (R16, R20, R24). -/

namespace Sys2Proof.Machine
open Sys2Proof
set_option Elab.async false

/-- Pages start at multiples of 1 KB (R39). -/
theorem pageBase_mod (p : Page) : pageBase p % 0x400 = 0 := by
  obtain ⟨b, n⟩ := p
  cases b <;> simp only [pageBase, blockInfo, pageSize] <;> omega

theorem fldAddr_ne_of_mod {p q : Page} {x y : Fld} (h : x.off % 0x400 ≠ y.off % 0x400) : fldAddr p x ≠ fldAddr q y := by
  have hp := pageBase_mod p
  have hq := pageBase_mod q
  unfold fldAddr
  omega

/-- The device state of a code. -/
theorem DState.ofCode_safeHold {n : Nat} : DState.ofCode n = .safeHold ↔ n = 7 := by
  constructor
  · intro h
    unfold DState.ofCode at h
    split at h <;> first | rfl | cases h
  · rintro rfl; rfl

theorem State.get_scfClose (s : State) (cause : Nat) {q : Page} {y : Fld} (hq : inPage q y = true) (hs : q.blk = .sys)
    (ho : y.off % 0x400 = 0x044) : (s.scfClose cause).get q y = s.get q y := by
  unfold State.scfClose
  have hb : (((s.put SCF.pg SCF.STAT_SESSION 0).evt SCF.pg SCF.EVT_SESSION).slgPush 8 0 cause 0 none).get q y = s.get q y :=
    State.get_within (Kept.step (F := [.dma, .dmaReq, .evrAt, .scf, .block .dma, .block .scf])
      (.step (.step (.refl s) (.put ..)) (.evt ..)) (.slgPush ..)).within hq (by simp [hs])
  dsimp only
  split
  · split
    · rw [← hb, State.get, State.get, State.rd_csetEnd]
      exact fun p => ⟨fldAddr_ne_of_mod (by rw [ho]; decide), fldAddr_ne_of_mod (by rw [ho]; decide)⟩
    · exact hb
  · rfl

theorem State.enterHalo_dstate (s : State) (old d : DState) :
    (s.enterHalo old d).get SYS.pg SYS.DSTAT_DSTATE = s.get SYS.pg SYS.DSTAT_DSTATE := by
  have h1 (t : State) : (if old = .service then t.scfClose 3 else t).get SYS.pg SYS.DSTAT_DSTATE =
      t.get SYS.pg SYS.DSTAT_DSTATE := by
    split
    · exact t.get_scfClose 3 (by decide) rfl (by decide)
    · rfl
  unfold State.enterHalo
  dsimp only
  rw [← h1 s]
  generalize (if old = .service then s.scfClose 3 else s) = u
  split
  · exact (State.get_halo u.ghbStart _ _ _).trans (State.get_within (Kept.ghbStart u).within (by decide) (by decide))
  · split
    · exact State.get_within (F := [.halo, .lks, .block .ghb])
        (Kept.step (.step (.step (.refl u) (.ghbStop ..)) (.watchdogOff ..)) (.holdPairs ..)).within (by decide) (by decide)
    · rfl

/-- Both states show the same device state. -/
def SameDevice (s t : State) : Prop := t.get SYS.pg SYS.DSTAT_DSTATE = s.get SYS.pg SYS.DSTAT_DSTATE

theorem SameDevice.refl (s : State) : SameDevice s s := rfl

theorem SameDevice.trans {s t u : State} (h : SameDevice s t) (h' : SameDevice t u) : SameDevice s u := Eq.trans h' h

/-- An operation that leaves the SYS page keeps the device state. -/
theorem SameDevice.kept {s t u : State} {F : List Part} (h : SameDevice s t) (k : Kept F t u)
    (hF : Part.block .sys ∉ F := by first | decide | simp) : SameDevice s u := h.trans (State.get_within k.within (by decide) hF)

theorem SameDevice.ite {c : Prop} [Decidable c] {s t u : State} (h : SameDevice s t) (h' : SameDevice s u) :
    SameDevice s (if c then t else u) := by split <;> assumption

theorem SameDevice.foldl {α : Type} {f : State → α → State} (h : ∀ s a, SameDevice s (f s a)) (l : List α) (s : State) :
    SameDevice s (l.foldl f s) := by
  induction l generalizing s with
  | nil => exact .refl s
  | cons a l ih => exact (h s a).trans (ih _)

/-- The position unit that follows its machine's patterns leaves the device state, also where it notes a loss (R222, R223). -/
theorem SameDevice.posFollow (s : State) (m : Nat) : SameDevice s (s.posFollow m) := by
  unfold State.posFollow
  dsimp only
  split
  · split
    · exact .ite (.kept (.refl s) (.put ..)) (.refl s)
    · refine .ite (.refl s) ?_
      exact ((((SameDevice.refl s).kept (Kept.pos_upd ..)).kept (.put ..)).kept (.incSat ..) |>.kept (.evt ..)).trans
        (State.note_dstate ..)
    · exact .refl s
  · exact .refl s

theorem SameDevice.tpwPattern (s : State) (n : Fin 6) (pat src : Nat) : SameDevice s (s.tpwPattern n pat src) :=
  (((((SameDevice.refl s).kept (.tpwSet ..)).kept (.put ..)).kept (.put ..)).kept (.flag ..) |>.kept (.evtIf ..)).trans
    (.posFollow ..)

theorem SameDevice.tpwRefresh (s : State) (n : Fin 6) : SameDevice s (s.tpwRefresh n) := by
  unfold State.tpwRefresh
  dsimp only
  have h : SameDevice s ((s.flag (TPW.pg n) TPW.STAT_STO_EFF (s.stoEff (n.1 / 2))).flag (TPW.pg n) TPW.STAT_GHB_OK
      (s.ghbOk n)) := ((SameDevice.refl s).kept (.flag ..)).kept (.flag ..)
  refine h.trans ?_
  clear h
  generalize (s.flag (TPW.pg n) TPW.STAT_STO_EFF (s.stoEff (n.1 / 2))).flag (TPW.pg n) TPW.STAT_GHB_OK (s.ghbOk n) = u
  split
  · refine .ite ?_ (.refl _)
    split <;> exact .tpwPattern ..
  · exact .ite (.kept (.refl _) (.put ..)) ((SameDevice.kept (.refl _) (.tpwSet ..)).trans (.tpwPattern ..))

theorem SameDevice.tpwRefreshAll (s : State) : SameDevice s s.tpwRefreshAll := .foldl .tpwRefresh _ s

theorem SameDevice.stoAssert (s : State) (m : Nat) : SameDevice s (s.stoAssert m) := by
  have hl : SameDevice s (if h : m < 4 then s.pathsLow ⟨m, h⟩ else s) := by
    split
    · exact .kept (.refl s) (.pathsLow ..)
    · exact .refl s
  have he (t : State) : SameDevice t ((t.putBit STO.pg STO.STAT_EFF m true).incSat STO.pg STO.CNT_ASSERTS |>.evt STO.pg
      STO.EVT_ASSERT) := ((SameDevice.refl t).kept (.putBit ..)).kept (.incSat ..) |>.kept (.evt ..)
  have hs (t : State) : SameDevice t (if t.bitOn SSF.pg SSF.STAT_SS1 m = true then t.ss1End m 2 else t) :=
    .ite (.kept (.refl t) (.ss1End ..)) (.refl t)
  have hr (t : State) : SameDevice t (((t.msvToSto m).stoRecord m).sbcOnSto m |>.tpwRefreshAll) :=
    (((SameDevice.refl t).kept (.msvToSto ..)).kept (.stoRecord ..) |>.kept (.sbcOnSto ..)).trans (.tpwRefreshAll _)
  unfold State.stoAssert
  dsimp only
  refine hl.trans (.ite (.kept (.refl _) (.stoRecord ..)) ?_)
  exact ((he _).trans (hs _)).trans (hr _)

theorem SameDevice.stoEval (s : State) : SameDevice s s.stoEval :=
  .foldl (fun s m => .ite (.stoAssert s m) (.kept (.refl s) (.stoRecord ..))) _ s

theorem SameDevice.enterPaths (s : State) (old d : DState) : SameDevice s (s.enterPaths old d) := by
  unfold State.enterPaths
  dsimp only
  refine .trans (.trans (.ite (.ite (.kept (.refl s) (.convRecord ..)) (.kept (.refl s) (.pathARelease ..))) (.refl s))
    (.stoEval _)) (.ite (.foldl (fun t m => .ite (.kept (.refl t) (.pathARelease ..)) (.refl t)) _ _) (.refl _))

/-- The device takes the state it enters (R16, R20). -/
theorem State.enter_dstate (s : State) (d : DState) : (s.enter d).get SYS.pg SYS.DSTAT_DSTATE = d.code := by
  unfold State.enter
  dsimp only
  rw [SameDevice.tpwRefreshAll _, SameDevice.enterPaths .., State.get_within (Kept.enterCharger ..).within (by decide) (by decide)]
  have hr (t : State) : (if d.running = true then t else t.restFunctions).get SYS.pg SYS.DSTAT_DSTATE =
      t.get SYS.pg SYS.DSTAT_DSTATE := by
    split
    · rfl
    · exact State.get_within (Kept.restFunctions _).within (by decide) (by decide)
  rw [hr, State.enterHalo_dstate, State.get_evt_word _ (by decide) (by decide) (by decide),
    State.get_put_bits _ _ (by decide) (by decide) (by decide), State.flag,
    State.get_put_bits _ _ (by decide) (by decide) (by decide), State.get_put_bits _ _ (by decide) (by decide) (by decide),
    State.get_put_same _ _ (by decide) (by decide) (by decide)]
  cases d <;> decide

/-- The device safe state ends in SAFE_HOLD (R18). -/
theorem State.toSafeHold_dstate (s : State) : s.toSafeHold.get SYS.pg SYS.DSTAT_DSTATE = 7 := by
  unfold State.toSafeHold
  dsimp only
  split
  · rename_i h
    unfold State.dstate at h
    split at h
    · cases h
    · exact DState.ofCode_safeHold.mp h
  · exact State.enter_dstate _ _

end Sys2Proof.Machine
end

