-- ==== Sys2Proof/Laws/KeptArb.lean ====
section
/-! SUPPORT. What each operation of Machine/Arb.lean keeps. -/

namespace Sys2Proof.Machine
open Sys2Proof
set_option Elab.async false

theorem Kept.arbGrant (s : State) (r bank : Nat) : Kept [.block .arb] s (State.arbGrant s r bank) := by
  unfold State.arbGrant
  repeat' with_reducible first
    | exact .refl _
    | refine .step ?_ (by with_reducible first
        | exact .put64 ..)
    | refine .ite ?_ ?_
    | split

theorem Kept.arbWaited (s : State) (r bank w : Nat) (behind : Bool) : Kept [.block .arb] s (State.arbWaited s r bank
    w behind) := by
  unfold State.arbWaited
  dsimp only
  repeat' with_reducible first
    | exact .refl _
    | refine .step ?_ (by with_reducible first
        | exact .incSat .. | exact .put ..)
    | refine .ite ?_ ?_
    | split

theorem Kept.arbClear (s : State) : Kept [.block .arb] s (State.arbClear s) := by
  unfold State.arbClear
  repeat' with_reducible first
    | exact .refl _
    | refine .step ?_ (by with_reducible first
        | exact .put64 .. | exact .put ..)
    | refine .foldl ?_ ?_ _
    | intro _

theorem Kept.arbRoll (s : State) : Kept [.arb] s (State.arbRoll s) := by
  unfold State.arbRoll
  dsimp only
  repeat' with_reducible first
    | exact .refl _
    | refine .ite ?_ ?_
    | intro _
    | split
    | refine .step ?_ (by with_reducible first
        | exact .arb_upd ..)

theorem Kept.arbTake (s : State) (bank r : Nat) (high : Bool) : Kept [.arb, .block .arb] s (State.arbTake s bank r
    high) := by
  unfold State.arbTake
  dsimp only
  repeat' with_reducible first
    | exact .refl _
    | refine .step ?_ (by with_reducible first
        | exact .arbGrant .. | exact .arbWaited ..)
    | refine .ite ?_ ?_
    | intro _
    | split
    | refine .step ?_ (by with_reducible first
        | exact .arb_upd ..)

theorem Kept.granted (s : State) (r a : Nat) : Kept [.arb, .block .arb] s (State.granted s r a) := by
  unfold State.granted
  dsimp only
  repeat' with_reducible first
    | exact .refl _
    | refine .step ?_ (by with_reducible first
        | exact .arbRoll .. | exact .arbTake ..)
    | split

theorem Kept.grantedN (s : State) (r a n : Nat) : Kept [.arb, .block .arb] s (s.grantedN r a n) := by
  induction n generalizing s with
  | zero => exact .refl _
  | succ n ih => exact .trans (.step (.refl s) (.granted ..)) (ih ..)

theorem Kept.arbWait (s : State) (bank : Nat) (rs : List Nat) (behind : Bool) : Kept [.arb] s (State.arbWait s bank
    rs behind) := by
  unfold State.arbWait
  dsimp only
  repeat' with_reducible first
    | exact .refl _
    | refine .ite ?_ ?_
    | refine .foldl ?_ ?_ _
    | intro _
    | split
    | refine .step ?_ (by with_reducible first
        | exact .arb_upd ..)

theorem Kept.execArbWindowStart (dt : Nat) (s : State) : KeptOut [.arb, .now] s (Machine.execArbWindowStart dt s) :=
    by
  unfold Machine.execArbWindowStart
  repeat' with_reducible first
    | exact .refl _
    | refine .step ?_ (by with_reducible first
        | exact .advance .. | exact .arbRoll ..)
    | refine .next ?_

theorem Kept.execStarvation (dt : Nat) (req : Req) (bank : Nat) (s : State) : KeptOut [.dma, .dmaReq, .evrAt, .now,
    .block .arb, .block .dma, .block .hlo, .block .sys] s (Machine.execStarvation dt req bank s) := by
  unfold Machine.execStarvation
  dsimp only
  repeat' with_reducible first
    | exact .refl _
    | refine .step ?_ (by with_reducible first
        | exact .advance .. | exact .putBit .. | exact .evt .. | exact .note ..)
    | refine .next ?_
    | refine KeptOut.ite ?_ ?_
    | refine .ite ?_ ?_
    | intro _
    | split

theorem Kept.arbCmd (s : State) (op : Nat) : Kept [.block .arb] s (State.arbCmd s op) := by
  unfold State.arbCmd
  dsimp only
  repeat' with_reducible first
    | exact .refl _
    | refine .step ?_ (by with_reducible first
        | exact .arbClear .. | exact .status ..)
    | refine .ite ?_ ?_
    | split

theorem Kept.arbOp (s : State) (op : Nat) : Kept [.block .arb] s (State.arbOp s op) := by
  unfold State.arbOp
  repeat' with_reducible first
    | exact .refl _
    | refine .step ?_ (by with_reducible first
        | exact .arbCmd ..)
    | refine .blockCmd ?_ ?_ ?_
    | (show (_ : List Part) ⊆ _; first | exact Part.sub (by decide +kernel) | (dsimp only; exact Part.sub (by decide +kernel)) | simp [Part.reaction, Part.butPending, Part.andRegs])
    | intro _

theorem Kept.execArbClrCnt (dt : Nat) (_req : Req) (s : State) : KeptOut [.now, .block .arb] s (Machine.execArbClrCnt
    dt _req s) := by
  unfold Machine.execArbClrCnt
  repeat' with_reducible first
    | exact .refl _
    | refine .step ?_ (by with_reducible first
        | exact .advance .. | exact .arbOp ..)
    | refine .next ?_

theorem Kept.eccDouble (s : State) (a : Nat) : Kept (.pos :: Part.reaction) s (State.eccDouble s a) := by
  unfold State.eccDouble
  dsimp only
  repeat' with_reducible first
    | exact .refl _
    | refine .step ?_ (by with_reducible first
        | exact .put .. | exact .incSat .. | exact .note .. | exact .raise ..)
    | split

theorem Kept.eccSingle (s : State) (a : Nat) : Kept [.dma, .dmaReq, .evrAt, .block .arb, .block .dma, .block .hlo,
    .block .sys] s (State.eccSingle s a) := by
  unfold State.eccSingle
  repeat' with_reducible first
    | exact .refl _
    | refine .step ?_ (by with_reducible first
        | exact .incSat .. | exact .note ..)
    | split

theorem Kept.execScrubAccess (dt : Nat) (bank : Fin 25) (ecc : Ecc) (s : State) : KeptOut (.arb :: .now :: .pos ::
    Part.reaction) s (Machine.execScrubAccess dt bank ecc s) := by
  unfold Machine.execScrubAccess
  dsimp only
  repeat' with_reducible first
    | exact .refl _
    | refine .step ?_ (by with_reducible first
        | exact .advance .. | exact .eccSingle .. | exact .eccDouble ..)
    | refine .next ?_
    | refine KeptOut.ite ?_ ?_
    | refine .ite ?_ ?_
    | (rename_i h; refine .ofSnd h ?_) | (rename_i h; refine .ofFst h ?_)
    | intro _
    | split
    | refine .step ?_ (by with_reducible first
        | exact .arb_upd ..)

end Sys2Proof.Machine
end

