-- ==== Sys2Proof/Laws/KeptCirrus.lean ====
section
/-! SUPPORT. What each operation of Machine/Cirrus.lean keeps. -/

namespace Sys2Proof.Machine
open Sys2Proof
set_option Elab.async false

theorem Kept.ctxSet (s : State) (k : Nat) (f : CtxH → CtxH) : Kept [.ctxs] s (State.ctxSet s k f) := by
  unfold State.ctxSet
  repeat' with_reducible first
    | exact .refl _
    | intro _
    | refine .step ?_ (by with_reducible first
        | exact .ctxs_upd ..)

theorem Kept.execSet (s : State) (k : Nat) (f : Exec → Exec) : Kept [.ctxs] s (State.execSet s k f) := by
  unfold State.execSet
  repeat' with_reducible first
    | exact .refl _
    | refine .step ?_ (by with_reducible first
        | exact .ctxSet ..)
    | intro _

theorem Kept.ctxFunctions (s : State) (k code : Nat) : Kept [.act, .bch, .cpw, .dcd, .dev, .dma, .dmaReq, .evrAt,
    .obc, .block .act, .block .bch, .block .dcd, .block .dma, .block .obc] s (State.ctxFunctions s k code) := by
  unfold State.ctxFunctions
  dsimp only
  repeat' with_reducible first
    | exact .refl _
    | refine .step ?_ (by with_reducible first
        | exact .fnFault ..)
    | refine .ite ?_ ?_
    | refine .foldl ?_ ?_ _
    | refine .foldlSnd ?_ _ _ _ | refine .foldlFst ?_ _ _ _
    | intro _
    | split

theorem Kept.ctxLast (s : State) (k code : Nat) : Kept [.block .cir] s (State.ctxLast s k code) := by
  unfold State.ctxLast
  repeat' with_reducible first
    | exact .refl _
    | refine .step ?_ (by with_reducible first
        | exact .put ..)

theorem Kept.ctxLatch (s : State) (k code : Nat) : Kept [.block .cir] s (State.ctxLatch s k code) := by
  unfold State.ctxLatch
  repeat' with_reducible first
    | exact .refl _
    | refine .step ?_ (by with_reducible first
        | exact .ctxLast .. | exact .putBit ..)

theorem Kept.ctxFault (s : State) (k code : Nat) : Kept (.pos :: Part.reaction) s (State.ctxFault s k code) := by
  unfold State.ctxFault
  dsimp only
  repeat' with_reducible first
    | exact .refl _
    | refine .step ?_ (by with_reducible first
        | exact .ctxLatch .. | exact .evtIf .. | exact .ctxFunctions .. | exact .raise ..)
    | refine .ite ?_ ?_
    | split

theorem Kept.ctxTrigger (s : State) (k : Nat) : Kept [.ctxs, .dma, .dmaReq, .evrAt, .block .cir, .block .ctx, .block
    .dma, .block .hlo, .block .sys] s (State.ctxTrigger s k) := by
  unfold State.ctxTrigger
  dsimp only
  repeat' with_reducible first
    | exact .refl _
    | refine .step ?_ (by with_reducible first
        | exact .ctxSet .. | exact .incWrap .. | exact .incSat .. | exact .put .. | exact .evt ..
        | exact .ctxLast .. | exact .note ..)
    | refine .ite ?_ ?_
    | intro _
    | split

theorem Kept.execCtxTrigger (dt : Nat) (k : Fin 256) (s : State) : KeptOut [.ctxs, .dma, .dmaReq, .evrAt, .now,
    .block .cir, .block .ctx, .block .dma, .block .hlo, .block .sys] s (Machine.execCtxTrigger dt k s) := by
  unfold Machine.execCtxTrigger
  dsimp only
  repeat' with_reducible first
    | exact .refl _
    | refine .step ?_ (by with_reducible first
        | exact .advance .. | exact .ctxTrigger ..)
    | refine .next ?_
    | refine KeptOut.ite ?_ ?_
    | refine .ite ?_ ?_
    | split

theorem Kept.engStart (s : State) (k : Nat) (l : List Nat) : Kept [.engAt] s (State.engStart s k l) := by
  unfold State.engStart
  repeat' with_reducible first
    | exact .refl _
    | refine .ite ?_ ?_
    | refine .foldl ?_ ?_ _
    | intro _
    | split
    | refine .step ?_ (by with_reducible first
        | exact .engAt_upd ..)

theorem Kept.engLeave (s : State) (k : Nat) (l : List Nat) : Kept [.engAt] s (State.engLeave s k l) := by
  unfold State.engLeave
  repeat' with_reducible first
    | exact .refl _
    | refine .ite ?_ ?_
    | refine .foldl ?_ ?_ _
    | intro _
    | split
    | refine .step ?_ (by with_reducible first
        | exact .engAt_upd ..)

theorem Kept.ctxBegin (s : State) (k : Nat) (st : ExecSt) : Kept [.arb, .ctxs, .engAt, .block .arb] s (State.ctxBegin
    s k st) := by
  unfold State.ctxBegin
  dsimp only
  repeat' with_reducible first
    | exact .refl _
    | refine .step ?_ (by with_reducible first
        | exact .engStart .. | exact .execSet .. | exact .granted ..)
    | refine .ite ?_ ?_
    | refine .foldl ?_ ?_ _
    | intro _
    | split

theorem Kept.ctxFreeze (s : State) (k : Nat) : Kept [.ctxs] s (State.ctxFreeze s k) := by
  unfold State.ctxFreeze
  repeat' with_reducible first
    | exact .refl _
    | refine .step ?_ (by with_reducible first
        | exact .execSet ..)
    | refine .ite ?_ ?_
    | intro _
    | split

theorem Kept.ctxEcc (s : State) (k : Nat) : Kept (.ctxs :: .pos :: Part.reaction) s (State.ctxEcc s k) := by
  unfold State.ctxEcc
  repeat' with_reducible first
    | exact .refl _
    | refine .step ?_ (by with_reducible first
        | exact .execSet .. | exact .ctxFault ..)
    | intro _

theorem Kept.execUpdraftPredict (dt : Nat) (k : Fin 256 × Bool) (s : State) : KeptOut (.arb :: .ctxs :: .engAt
    :: .now :: .pos :: Part.reaction) s (Machine.execUpdraftPredict dt k s) := by
  unfold Machine.execUpdraftPredict
  dsimp only
  repeat' with_reducible first
    | exact .refl _
    | refine .step ?_ (by with_reducible first
        | exact .advance .. | exact .ctxSet .. | exact .ctxEcc .. | exact .ctxBegin ..)
    | refine .next ?_
    | refine KeptOut.ite ?_ ?_
    | refine .ite ?_ ?_
    | intro _
    | split

theorem Kept.correct (s : State) (ps as : List Dual) : Kept [.free] s (s.correct ps as).2 := by
  induction ps generalizing as with
  | nil => unfold State.correct; exact .refl _
  | cons p ps ih =>
    cases as with
    | nil => exact .refl _
    | cons a as =>
      have h := ih as
      unfold State.correct
      dsimp only
      split
      · exact h
      · exact .step h (.freshNat _) (by decide)

theorem Kept.execUpdraftCheck (dt : Nat) (k : Fin 256) (s : State) : KeptOut [.ctxs, .engAt, .free, .now] s
    (Machine.execUpdraftCheck dt k s) := by
  unfold Machine.execUpdraftCheck
  dsimp only
  repeat' with_reducible first
    | exact .refl _
    | refine .step ?_ (by with_reducible first
        | exact .advance .. | exact .correct .. | exact .engStart .. | exact .execSet ..)
    | refine .next ?_
    | refine KeptOut.ite ?_ ?_
    | refine .ite ?_ ?_
    | (rename_i h; refine .ofSnd h ?_) | (rename_i h; refine .ofFst h ?_)
    | intro _
    | split

theorem Kept.execCtxExecStart (dt : Nat) (k : Fin 256) (ecc : Bool) (s : State) : KeptOut (.arb :: .ctxs :: .engAt ::
    .now :: .pos :: Part.reaction) s (Machine.execCtxExecStart dt k ecc s) := by
  unfold Machine.execCtxExecStart
  dsimp only
  repeat' with_reducible first
    | exact .refl _
    | refine .step ?_ (by with_reducible first
        | exact .advance .. | exact .ctxEcc .. | exact .ctxBegin .. | exact .execSet ..)
    | refine .next ?_
    | refine KeptOut.ite ?_ ?_
    | refine .ite ?_ ?_
    | intro _
    | split

theorem Kept.cirRail (s : State) : Kept (.pos :: Part.reaction) s (State.cirRail s) := by
  unfold State.cirRail
  repeat' with_reducible first
    | exact .refl _
    | refine .step ?_ (by with_reducible first
        | exact .putBit .. | exact .evt .. | exact .raise ..)

theorem Kept.execCtxExecComplete (dt : Nat) (k : Fin 256) (second differ rail : Bool) (s : State) : KeptOut (.ctxs ::
    .engAt :: .now :: .pos :: Part.reaction) s (Machine.execCtxExecComplete dt k second differ rail s) := by
  unfold Machine.execCtxExecComplete
  dsimp only
  repeat' with_reducible first
    | exact .refl _
    | refine .step ?_ (by with_reducible first
        | exact .advance .. | exact .cirRail .. | exact .engLeave .. | exact .execSet ..)
    | refine .next ?_
    | refine KeptOut.ite ?_ ?_
    | refine .ite ?_ ?_
    | intro _
    | split

theorem Kept.cpwStore (s : State) (n : Fin 8) (c : Nat × Nat × Nat) : Kept [.cpwCmp] s (State.cpwStore s n c) := by
  unfold State.cpwStore
  repeat' with_reducible first
    | exact .refl _
    | refine .step ?_ (by with_reducible first
        | exact .cpwCmp_upd ..)

theorem Kept.phiStore (s : State) (v : Nat) : Kept [.dcd] s (State.phiStore s v) := by
  unfold State.phiStore
  repeat' with_reducible first
    | exact .refl _
    | refine .step ?_ (by with_reducible first
        | exact .dcd_upd ..)

theorem Kept.storeTo (s : State) (bind reg : Nat) (w : List W32) : Kept [.act, .arb, .cpwCmp, .dcd, .dma, .dmaReq,
    .evrAt, .mem, .msv, .obc, .pos, .tpw, .block .act, .block .arb, .block .ctx, .block .dma, .block .hlo, .block
    .pos, .block .sys, .block .tpw] s (State.storeTo s bind reg w) := by
  unfold State.storeTo
  dsimp only
  repeat' with_reducible first
    | exact .refl _
    | refine .step ?_ (by with_reducible first
        | exact .mboxWrite .. | exact .granted .. | exact .wrMem .. | exact .tpwStore .. | exact .cpwStore ..
        | exact .phiStore .. | exact .obcSet .. | exact .actStore ..)
    | refine .ite ?_ ?_
    | intro _
    | split

theorem Kept.ctxSlack (s : State) (k : Nat) (l : List Nat) (v : Int) : Kept [.zslack, .block .cir, .block .ctx] s
    (State.ctxSlack s k l v) := by
  unfold State.ctxSlack
  dsimp only
  repeat' with_reducible first
    | exact .refl _
    | refine .step ?_ (by with_reducible first
        | exact .puts ..)
    | refine .ite ?_ ?_
    | refine .foldl ?_ ?_ _
    | intro _
    | split
    | refine .step ?_ (by with_reducible first
        | exact .zslack_upd ..)

theorem Kept.ctxClass (s : State) (k : Nat) (e : Exec) : Kept [.block .ctx] s (State.ctxClass s k e) := by
  unfold State.ctxClass
  repeat' with_reducible first
    | exact .refl _
    | refine .step ?_ (by with_reducible first
        | exact .incWrap ..)
    | refine .ite ?_ ?_
    | split

theorem Kept.ctxLate (s : State) (k : Nat) (e : Exec) : Kept (.ctxs :: .pos :: .zslack :: Part.reaction) s
    (State.ctxLate s k e) := by
  unfold State.ctxLate
  dsimp only
  repeat' with_reducible first
    | exact .refl _
    | refine .step ?_ (by with_reducible first
        | exact .ctxClass .. | exact .ctxSet .. | exact .incWrap .. | exact .incSat .. | exact .ctxSlack ..
        | exact .evt .. | exact .ctxFault ..)
    | refine .ite ?_ ?_
    | intro _
    | split

theorem Kept.ctxMismatch (s : State) (k : Nat) : Kept (.ctxs :: .pos :: Part.reaction) s (State.ctxMismatch s k) := by
  unfold State.ctxMismatch
  dsimp only
  repeat' with_reducible first
    | exact .refl _
    | refine .step ?_ (by with_reducible first
        | exact .incSat .. | exact .put .. | exact .evt .. | exact .ctxLast .. | exact .note ..
        | exact .ctxFault .. | exact .ctxSet ..)
    | refine .ite ?_ ?_
    | intro _
    | split

theorem Kept.ctxCompares (s : State) (k : Nat) (e : Exec) (o : ExecOut) : Kept (.ctxs :: .pos :: Part.reaction) s
    (State.ctxCompares s k e o) := by
  unfold State.ctxCompares
  dsimp only
  repeat' with_reducible first
    | exact .refl _
    | refine .step ?_ (by with_reducible first
        | exact .ctxSet .. | exact .ctxFault ..)
    | refine .ite ?_ ?_
    | refine .foldl ?_ ?_ _
    | (rename_i h; refine .ofSnd h ?_) | (rename_i h; refine .ofFst h ?_)
    | intro _
    | split

theorem Kept.ctxApply (s : State) (k : Nat) (e : Exec) (o : ExecOut) : Kept (.adf :: .adh :: .adr :: .arb :: .cpwCmp
    :: .ctxs :: .engAt :: .lg :: .mem :: .pos :: .pslack :: .tbu :: .zslack :: Part.reaction) s (State.ctxApply s k e
    o) := by
  unfold State.ctxApply
  dsimp only
  repeat' with_reducible first
    | exact .refl _
    | refine .step ?_ (by with_reducible first
        | exact .setWord .. | exact .ctxClass .. | exact .incWrap .. | exact .put .. | exact .ctxSlack ..
        | exact .ctxSet .. | exact .commitAt .. | exact .storeTo .. | exact .ctxCompares ..)
    | refine .ite ?_ ?_
    | refine .foldl ?_ ?_ _
    | refine .foldlSnd ?_ _ _ _ | refine .foldlFst ?_ _ _ _
    | intro _
    | split

theorem Kept.execCtxCommit (dt : Nat) (k : Fin 256) (s : State) : KeptOut (.adf :: .adh :: .adr :: .arb :: .cpwCmp ::
    .ctxs :: .engAt :: .lg :: .mem :: .now :: .pos :: .pslack :: .tbu :: .zslack :: Part.reaction) s
    (Machine.execCtxCommit dt k s) := by
  unfold Machine.execCtxCommit
  dsimp only
  repeat' with_reducible first
    | exact .refl _
    | refine .step ?_ (by with_reducible first
        | exact .advance .. | exact .ctxLate .. | exact .ctxMismatch .. | exact .ctxFault ..
        | exact .ctxApply ..)
    | refine .next ?_
    | refine KeptOut.ite ?_ ?_
    | refine .ite ?_ ?_
    | split

theorem Kept.ctxCommitted (s : State) (k : Nat) (wasOn : Bool) : Kept (.adf :: .adh :: .adr :: .ctxs :: .engAt :: .lg
    :: .pos :: .pslack :: .tbu :: Part.reaction) s (State.ctxCommitted s k wasOn) := by
  unfold State.ctxCommitted
  dsimp only
  repeat' with_reducible first
    | exact .refl _
    | refine .step ?_ (by with_reducible first
        | exact .engLeave .. | exact .ctxSet .. | exact .commitAt ..)
    | refine .ite ?_ ?_
    | intro _
    | split

theorem Kept.engReact (s : State) (k : Nat) : Kept (Part.andRegs [.act, .bch, .cpw, .dcd, .dev, .dma, .dmaReq,
    .evrAt, .halo, .msv, .obc, .pos, .sets, .tpw]) s (State.engReact s k) := by
  unfold State.engReact
  dsimp only
  repeat' with_reducible first
    | exact .refl _
    | refine .step ?_ (by with_reducible first
        | exact .ctxLatch .. | exact .ctxFunctions .. | exact .applyFr2 .. | exact .applyFr3 ..
        | exact .applyFr4 ..)
    | refine .machines ?_ ?_
    | (show (_ : List Part) ⊆ _; first | exact Part.sub (by decide +kernel) | (dsimp only; exact Part.sub (by decide +kernel)) | simp [Part.reaction, Part.butPending, Part.andRegs])
    | refine .ite ?_ ?_
    | intro _
    | split

theorem Kept.execEngineStall (dt : Nat) (e : Fin 8) (s : State) : KeptOut (Part.andRegs [.act, .bch, .cpw, .dcd,
    .dev, .dma, .dmaReq, .evrAt, .halo, .msv, .now, .obc, .pos, .sets, .tpw]) s (Machine.execEngineStall dt e s) := by
  unfold Machine.execEngineStall
  dsimp only
  repeat' with_reducible first
    | exact .refl _
    | refine .step ?_ (by with_reducible first
        | exact .advance .. | exact .putBit .. | exact .evt .. | exact .abortTransition .. | exact .logEntry ..
        | exact .engReact .. | exact .stopCommits ..)
    | refine .next ?_
    | refine KeptOut.ite ?_ ?_
    | refine .ite ?_ ?_
    | refine .foldl ?_ ?_ _
    | refine .foldlSnd ?_ _ _ _ | refine .foldlFst ?_ _ _ _
    | intro _
    | split

theorem Kept.cirCmd (s : State) (op k : Nat) : Kept [.ctxs, .dma, .dmaReq, .evrAt, .block .cir, .block .ctx, .block
    .dma, .block .hlo, .block .sys] s (State.cirCmd s op k) := by
  unfold State.cirCmd
  dsimp only
  repeat' with_reducible first
    | exact .refl _
    | refine .step ?_ (by with_reducible first
        | exact .setWord .. | exact .ctxTrigger .. | exact .status ..)
    | refine .command ?_ ?_ ?_
    | (show (_ : List Part) ⊆ _; first | exact Part.sub (by decide +kernel) | (dsimp only; exact Part.sub (by decide +kernel)) | simp [Part.reaction, Part.butPending, Part.andRegs])
    | refine .foldl ?_ ?_ _
    | intro _
    | split

theorem Kept.cirOp (s : State) (op k : Nat) : Kept [.ctxs, .dma, .dmaReq, .evrAt, .block .cir, .block .ctx, .block
    .dma, .block .hlo, .block .sys] s (State.cirOp s op k) := by
  unfold State.cirOp
  repeat' with_reducible first
    | exact .refl _
    | refine .step ?_ (by with_reducible first
        | exact .cirCmd ..)
    | refine .blockCmd ?_ ?_ ?_
    | (show (_ : List Part) ⊆ _; first | exact Part.sub (by decide +kernel) | (dsimp only; exact Part.sub (by decide +kernel)) | simp [Part.reaction, Part.butPending, Part.andRegs])
    | intro _

theorem Kept.execCirClrCnt (dt : Nat) (_req : Req) (k : Fin 256) (s : State) : KeptOut [.ctxs, .dma, .dmaReq, .evrAt,
    .now, .block .cir, .block .ctx, .block .dma, .block .hlo, .block .sys] s (Machine.execCirClrCnt dt _req k s) := by
  unfold Machine.execCirClrCnt
  repeat' with_reducible first
    | exact .refl _
    | refine .step ?_ (by with_reducible first
        | exact .advance .. | exact .cirOp ..)
    | refine .next ?_

theorem Kept.execCirTrig (dt : Nat) (_req : Req) (k : Fin 256) (s : State) : KeptOut [.ctxs, .dma, .dmaReq, .evrAt,
    .now, .block .cir, .block .ctx, .block .dma, .block .hlo, .block .sys] s (Machine.execCirTrig dt _req k s) := by
  unfold Machine.execCirTrig
  repeat' with_reducible first
    | exact .refl _
    | refine .step ?_ (by with_reducible first
        | exact .advance .. | exact .cirOp ..)
    | refine .next ?_

end Sys2Proof.Machine
end

