-- ==== Sys2Proof/Laws/KeptDma.lean ====
section
/-! SUPPORT. What each operation of Machine/Dma.lean keeps. -/

namespace Sys2Proof.Machine
open Sys2Proof
set_option Elab.async false

theorem Kept.dmaSet (s : State) (ch : Fin 16) (f : DmaCh → DmaCh) : Kept [.dma] s (State.dmaSet s ch f) := by
  unfold State.dmaSet
  repeat' with_reducible first
    | exact .refl _
    | refine .step ?_ (by with_reducible first
        | exact .dma_upd ..)

theorem Kept.dmaOwned {F : List Part} {r s : State} {ch req : Nat} {f : State → State} (hs : Kept F r s)
    (hF : [.block .dma] ⊆ F) (hf : ∀ t, Kept F t (f t)) : Kept F r (s.dmaOwned ch req f) :=
  .ite (hs.trans (hf s)) (.step hs (.refuse ..) hF)

theorem Kept.dmaError (s : State) (ch : Fin 16) : Kept [.dma, .dmaReq, .evrAt, .block .dma, .block .hlo, .block .sys]
    s (State.dmaError s ch) := by
  unfold State.dmaError
  dsimp only
  repeat' with_reducible first
    | exact .refl _
    | refine .step ?_ (by with_reducible first
        | exact .dmaSet .. | exact .flag .. | exact .putBit .. | exact .evt .. | exact .note ..)
    | intro _

theorem Kept.dmaMiss (s : State) (src : Page) : Kept [.block src.blk] s (State.dmaMiss s src) := by
  unfold State.dmaMiss
  repeat' with_reducible first
    | exact .refl _
    | refine .step ?_ (by with_reducible first
        | exact .incSat ..)
    | split

theorem Kept.execDmaPeriphRequest (dt : Nat) (ch : Fin 16) (s : State) : KeptOut (Part.andRegs [.dma, .dmaReq, .now])
    s (Machine.execDmaPeriphRequest dt ch s) := by
  unfold Machine.execDmaPeriphRequest
  dsimp only
  repeat' with_reducible first
    | exact .refl _
    | refine .step ?_ (by with_reducible first
        | exact .advance .. | exact .dmaSet .. | exact .flag .. | exact .incSat .. | exact .dmaMiss ..)
    | refine .next ?_
    | refine KeptOut.ite ?_ ?_
    | refine .ite ?_ ?_
    | intro _
    | split
    | refine .step ?_ (by with_reducible first
        | exact .dmaReq_upd ..)

theorem Kept.recWords (s : State) (a n : Nat) (ws : List W32) : Kept [.free, .mem] s (s.recWords a n ws) := by
  induction n generalizing s a ws with
  | zero => unfold State.recWords; exact .refl _
  | succ n ih =>
    cases ws with
    | nil => exact .trans (.step (.step (.refl s) (.freshWord s) (by decide)) (.wrMem ..) (by decide)) (ih ..)
    | cons w ws => exact .trans (.step (.refl s) (.wrMem ..) (by decide)) (ih ..)

theorem Kept.recCut (s : State) (a n : Nat) (ws : List W32) : Kept [.free, .mem] s (s.recCut a n ws) := by
  induction n generalizing s a ws with
  | zero => unfold State.recCut; exact .refl _
  | succ n ih =>
    have h := Kept.step (F := [.free, .mem]) (.step (.refl s) (.freshWord s) (by decide)) (.freshBit _) (by decide)
    exact .trans (.ite (.step h (.wrMem ..) (by decide)) h) (ih ..)

theorem Kept.dmaThresh (s : State) (ch : Fin 16) (old new : Nat) : Kept [.dma, .dmaReq, .evrAt, .block .dma] s
    (State.dmaThresh s ch old new) := by
  unfold State.dmaThresh
  dsimp only
  repeat' with_reducible first
    | exact .refl _
    | refine .step ?_ (by with_reducible first
        | exact .flag .. | exact .evt ..)
    | refine .ite ?_ ?_
    | split

theorem Kept.dmaRecord (s : State) (ch : Fin 16) : Kept [.dma, .dmaReq, .evrAt, .block .dma, .block .hlo, .block
    .sys] s (State.dmaRecord s ch) := by
  unfold State.dmaRecord
  dsimp only
  repeat' with_reducible first
    | exact .refl _
    | refine .step ?_ (by with_reducible first
        | exact .put .. | exact .put64 .. | exact .dmaThresh .. | exact .dmaSet .. | exact .flag ..
        | exact .incSat .. | exact .evt .. | exact .note ..)
    | refine .ite ?_ ?_
    | intro _
    | split

theorem Kept.execDmaRecordDone (dt : Nat) (ch : Fin 16) (err : Bool) (s : State) : KeptOut [.arb, .dma, .dmaReq,
    .evrAt, .free, .mem, .now, .block .arb, .block .dma, .block .hlo, .block .sys] s (Machine.execDmaRecordDone dt ch
    err s) := by
  unfold Machine.execDmaRecordDone
  dsimp only
  repeat' with_reducible first
    | exact .refl _
    | refine .step ?_ (by with_reducible first
        | exact .advance .. | exact .recCut .. | exact .dmaError .. | exact .grantedN .. | exact .recWords ..
        | exact .dmaSet .. | exact .flag .. | exact .dmaRecord ..)
    | refine .next ?_
    | refine KeptOut.ite ?_ ?_
    | refine .ite ?_ ?_
    | intro _
    | split

theorem Kept.execDmaBlockDone (dt : Nat) (ch : Fin 16) (s : State) : KeptOut [.dma, .dmaReq, .evrAt, .now, .block
    .dma] s (Machine.execDmaBlockDone dt ch s) := by
  unfold Machine.execDmaBlockDone
  dsimp only
  repeat' with_reducible first
    | exact .refl _
    | refine .step ?_ (by with_reducible first
        | exact .advance .. | exact .flag .. | exact .evt ..)
    | refine .next ?_
    | refine KeptOut.ite ?_ ?_
    | refine .ite ?_ ?_
    | split

theorem Kept.dmaCmd (s : State) (req op : Nat) (ch : Fin 16) : Kept [.dma, .block .dma] s (State.dmaCmd s req op ch)
    := by
  unfold State.dmaCmd
  dsimp only
  repeat' with_reducible first
    | exact .refl _
    | refine .step ?_ (by with_reducible first
        | exact .dmaBlockStart .. | exact .dmaSet .. | exact .flag .. | exact .putBit .. | exact .status ..
        | exact .put ..)
    | refine .dmaOwned ?_ ?_ ?_
    | refine .command ?_ ?_ ?_
    | (show (_ : List Part) ⊆ _; first | exact Part.sub (by decide +kernel) | (dsimp only; exact Part.sub (by decide +kernel)) | simp [Part.reaction, Part.butPending, Part.andRegs])
    | refine .ite ?_ ?_
    | intro _
    | split

theorem Kept.dmaOp (s : State) (req op : Nat) (ch : Fin 16) : Kept [.dma, .block .dma] s (State.dmaOp s req op ch) :=
    by
  unfold State.dmaOp
  repeat' with_reducible first
    | exact .refl _
    | refine .step ?_ (by with_reducible first
        | exact .dmaCmd ..)
    | refine .blockCmd ?_ ?_ ?_
    | (show (_ : List Part) ⊆ _; first | exact Part.sub (by decide +kernel) | (dsimp only; exact Part.sub (by decide +kernel)) | simp [Part.reaction, Part.butPending, Part.andRegs])
    | intro _

theorem Kept.execDmaStart (dt : Nat) (req : Req) (ch : Fin 16) (s : State) : KeptOut [.dma, .now, .block .dma] s
    (Machine.execDmaStart dt req ch s) := by
  unfold Machine.execDmaStart
  repeat' with_reducible first
    | exact .refl _
    | refine .step ?_ (by with_reducible first
        | exact .advance .. | exact .dmaOp ..)
    | refine .next ?_

theorem Kept.execDmaStop (dt : Nat) (req : Req) (ch : Fin 16) (s : State) : KeptOut [.dma, .now, .block .dma] s
    (Machine.execDmaStop dt req ch s) := by
  unfold Machine.execDmaStop
  repeat' with_reducible first
    | exact .refl _
    | refine .step ?_ (by with_reducible first
        | exact .advance .. | exact .dmaOp ..)
    | refine .next ?_

theorem Kept.execDmaClrCnt (dt : Nat) (req : Req) (ch : Fin 16) (s : State) : KeptOut [.dma, .now, .block .dma] s
    (Machine.execDmaClrCnt dt req ch s) := by
  unfold Machine.execDmaClrCnt
  repeat' with_reducible first
    | exact .refl _
    | refine .step ?_ (by with_reducible first
        | exact .advance .. | exact .dmaOp ..)
    | refine .next ?_

theorem Kept.dmaRptr (s : State) (req : Nat) (ch : Fin 16) (val : Nat) : Kept [.block .dma] s (State.dmaRptr s req ch
    val) := by
  unfold State.dmaRptr
  dsimp only
  repeat' with_reducible first
    | exact .refl _
    | refine .step ?_ (by with_reducible first
        | exact .put .. | exact .refuse ..)
    | refine .dmaOwned ?_ ?_ ?_
    | (show (_ : List Part) ⊆ _; first | exact Part.sub (by decide +kernel) | (dsimp only; exact Part.sub (by decide +kernel)) | simp [Part.reaction, Part.butPending, Part.andRegs])
    | refine .ite ?_ ?_
    | intro _
    | split

theorem Kept.execDmaRptrWrite (dt : Nat) (req : Req) (ch : Fin 16) (val : W32) (s : State) : KeptOut [.now, .block
    .dma] s (Machine.execDmaRptrWrite dt req ch val s) := by
  unfold Machine.execDmaRptrWrite
  repeat' with_reducible first
    | exact .refl _
    | refine .step ?_ (by with_reducible first
        | exact .advance .. | exact .dmaRptr ..)
    | refine .next ?_

theorem Kept.dmaCommitted (s : State) (ch : Fin 16) (wasOn : Bool) : Kept [.dma, .block .dma] s (State.dmaCommitted s
    ch wasOn) := by
  unfold State.dmaCommitted
  dsimp only
  repeat' with_reducible first
    | exact .refl _
    | refine .step ?_ (by with_reducible first
        | exact .flag .. | exact .dmaSet .. | exact .put .. | exact .put64 .. | exact .putBit ..)
    | refine .ite ?_ ?_
    | intro _
    | split

end Sys2Proof.Machine
end

