-- ==== Sys2Proof/Laws/KeptClf.lean ====
section
/-! SUPPORT. What each operation of Machine/Clf.lean keeps. -/

namespace Sys2Proof.Machine
open Sys2Proof
set_option Elab.async false

theorem Kept.clfSet (s : State) (f : ClfH → ClfH) : Kept [.clf] s (State.clfSet s f) := by
  unfold State.clfSet
  repeat' with_reducible first
    | exact .refl _
    | refine .step ?_ (by with_reducible first
        | exact .clf_upd ..)

theorem Kept.portSet (s : State) (p : Fin 2) (f : ClfPort → ClfPort) : Kept [.clf] s (State.portSet s p f) := by
  unfold State.portSet
  repeat' with_reducible first
    | exact .refl _
    | refine .step ?_ (by with_reducible first
        | exact .clfSet ..)
    | intro _

theorem Kept.clfGo (s : State) (st : Nat) : Kept [.dma, .dmaReq, .evrAt, .block .clf, .block .dma] s (State.clfGo s
    st) := by
  unfold State.clfGo
  dsimp only
  repeat' with_reducible first
    | exact .refl _
    | refine .step ?_ (by with_reducible first
        | exact .put .. | exact .evtIf ..)

theorem Kept.withTopo {F : List Part} {r s : State} {f : State → State} (hs : Kept F r s)
    (hF : [.dma, .dmaReq, .evrAt, .block .dma, .block .clf] ⊆ F) (hf : ∀ t, Kept F t (f t)) : Kept F r (s.withTopo f) :=
  .step (hs.trans (hf s)) (.evtIf ..) hF

theorem Kept.clfDiscover (s : State) (keepId : Bool) : Kept [.clf, .dma, .dmaReq, .evrAt, .block .clf, .block .dma] s
    (State.clfDiscover s keepId) := by
  unfold State.clfDiscover
  dsimp only
  repeat' with_reducible first
    | exact .refl _
    | refine .step ?_ (by with_reducible first
        | exact .clfSet .. | exact .flag ..)
    | refine .withTopo ?_ ?_ ?_
    | (show (_ : List Part) ⊆ _; first | exact Part.sub (by decide +kernel) | (dsimp only; exact Part.sub (by decide +kernel)) | simp [Part.reaction, Part.butPending, Part.andRegs])
    | refine .ite ?_ ?_
    | intro _
    | split

theorem Kept.clfPortUp (s : State) : Kept [.clf, .dma, .dmaReq, .evrAt, .block .clf, .block .dma] s (State.clfPortUp
    s) := by
  unfold State.clfPortUp
  repeat' with_reducible first
    | exact .refl _
    | refine .step ?_ (by with_reducible first
        | exact .clfDiscover .. | exact .clfGo ..)
    | refine .ite ?_ ?_
    | split

theorem Kept.portDown (s : State) (p : Fin 2) : Kept [.clf, .dma, .dmaReq, .evrAt, .block .clf, .block .dma, .block
    .hlo, .block .sys] s (State.portDown s p) := by
  unfold State.portDown
  dsimp only
  repeat' with_reducible first
    | exact .refl _
    | refine .step ?_ (by with_reducible first
        | exact .put .. | exact .portSet .. | exact .evt .. | exact .note .. | exact .clfGo ..)
    | refine .ite ?_ ?_
    | intro _
    | split

theorem Kept.execClfSignalDetect (dt : Nat) (p : Fin 2) (s : State) : KeptOut [.clf, .now, .block .clf] s
    (Machine.execClfSignalDetect dt p s) := by
  unfold Machine.execClfSignalDetect
  dsimp only
  repeat' with_reducible first
    | exact .refl _
    | refine .step ?_ (by with_reducible first
        | exact .advance .. | exact .put .. | exact .portSet ..)
    | refine .next ?_
    | refine KeptOut.ite ?_ ?_
    | refine .ite ?_ ?_
    | intro _
    | split

theorem Kept.execClfTrainDone (dt : Nat) (p : Fin 2) (s : State) : KeptOut [.clf, .dma, .dmaReq, .evrAt, .now, .block
    .clf, .block .dma] s (Machine.execClfTrainDone dt p s) := by
  unfold Machine.execClfTrainDone
  dsimp only
  repeat' with_reducible first
    | exact .refl _
    | refine .step ?_ (by with_reducible first
        | exact .advance .. | exact .put .. | exact .clfPortUp ..)
    | refine .next ?_
    | refine KeptOut.ite ?_ ?_
    | refine .ite ?_ ?_
    | split

theorem Kept.execClfTrainTimeout (dt : Nat) (p : Fin 2) (oneLane : Bool) (s : State) : KeptOut [.clf, .dma, .dmaReq,
    .evrAt, .now, .block .clf, .block .dma] s (Machine.execClfTrainTimeout dt p oneLane s) := by
  unfold Machine.execClfTrainTimeout
  dsimp only
  repeat' with_reducible first
    | exact .refl _
    | refine .step ?_ (by with_reducible first
        | exact .advance .. | exact .put .. | exact .clfPortUp .. | exact .portSet ..)
    | refine .next ?_
    | refine KeptOut.ite ?_ ?_
    | refine .ite ?_ ?_
    | intro _
    | split

theorem Kept.execClfLaneFault (dt : Nat) (p : Fin 2) (both : Bool) (s : State) : KeptOut [.clf, .dma, .dmaReq,
    .evrAt, .now, .block .clf, .block .dma, .block .hlo, .block .sys] s (Machine.execClfLaneFault dt p both s) := by
  unfold Machine.execClfLaneFault
  dsimp only
  repeat' with_reducible first
    | exact .refl _
    | refine .step ?_ (by with_reducible first
        | exact .advance .. | exact .portDown .. | exact .put .. | exact .evt .. | exact .note ..)
    | refine .next ?_
    | refine KeptOut.ite ?_ ?_
    | refine .ite ?_ ?_
    | split

theorem Kept.clfCmd (s : State) (op ports : Nat) : Kept [.clf, .dma, .dmaReq, .evrAt, .block .clf, .block .dma] s
    (State.clfCmd s op ports) := by
  unfold State.clfCmd
  dsimp only
  repeat' with_reducible first
    | exact .refl _
    | refine .step ?_ (by with_reducible first
        | exact .clfDiscover .. | exact .clfGo .. | exact .put .. | exact .portSet .. | exact .status ..)
    | refine .command ?_ ?_ ?_
    | (show (_ : List Part) ⊆ _; first | exact Part.sub (by decide +kernel) | (dsimp only; exact Part.sub (by decide +kernel)) | simp [Part.reaction, Part.butPending, Part.andRegs])
    | refine .ite ?_ ?_
    | refine .foldl ?_ ?_ _
    | intro _
    | split

theorem Kept.clfOp (s : State) (op ports : Nat) : Kept [.clf, .dma, .dmaReq, .evrAt, .block .clf, .block .dma] s
    (State.clfOp s op ports) := by
  unfold State.clfOp
  repeat' with_reducible first
    | exact .refl _
    | refine .step ?_ (by with_reducible first
        | exact .clfCmd ..)
    | refine .blockCmd ?_ ?_ ?_
    | (show (_ : List Part) ⊆ _; first | exact Part.sub (by decide +kernel) | (dsimp only; exact Part.sub (by decide +kernel)) | simp [Part.reaction, Part.butPending, Part.andRegs])
    | intro _

theorem Kept.execClfRescan (dt : Nat) (_req : Req) (s : State) : KeptOut [.clf, .dma, .dmaReq, .evrAt, .now, .block
    .clf, .block .dma] s (Machine.execClfRescan dt _req s) := by
  unfold Machine.execClfRescan
  repeat' with_reducible first
    | exact .refl _
    | refine .step ?_ (by with_reducible first
        | exact .advance .. | exact .clfOp ..)
    | refine .next ?_

theorem Kept.execClfRetrain (dt : Nat) (_req : Req) (ports : BitVec 2) (s : State) : KeptOut [.clf, .dma, .dmaReq,
    .evrAt, .now, .block .clf, .block .dma] s (Machine.execClfRetrain dt _req ports s) := by
  unfold Machine.execClfRetrain
  repeat' with_reducible first
    | exact .refl _
    | refine .step ?_ (by with_reducible first
        | exact .advance .. | exact .clfOp ..)
    | refine .next ?_

theorem Kept.execClfClrCnt (dt : Nat) (_req : Req) (s : State) : KeptOut [.clf, .dma, .dmaReq, .evrAt, .now, .block
    .clf, .block .dma] s (Machine.execClfClrCnt dt _req s) := by
  unfold Machine.execClfClrCnt
  repeat' with_reducible first
    | exact .refl _
    | refine .step ?_ (by with_reducible first
        | exact .advance .. | exact .clfOp ..)
    | refine .next ?_

theorem Kept.slotRefuse (s : State) (code : Nat) : Kept [.block .clf] s (State.slotRefuse s code) := by
  unfold State.slotRefuse
  repeat' with_reducible first
    | exact .refl _
    | refine .step ?_ (by with_reducible first
        | exact .put .. | exact .refuse ..)

theorem Kept.swapAt (s : State) (n : Nat) : Kept [.block .clf] s (State.swapAt s n) := by
  unfold State.swapAt
  repeat' with_reducible first
    | exact .refl _
    | refine .step ?_ (by with_reducible first
        | exact .slotRefuse .. | exact .put .. | exact .flag ..)
    | refine .ite ?_ ?_
    | split

theorem Kept.execClfSwapatWrite (dt : Nat) (_req : Req) (val : W32) (s : State) : KeptOut [.now, .block .clf] s
    (Machine.execClfSwapatWrite dt _req val s) := by
  unfold Machine.execClfSwapatWrite
  repeat' with_reducible first
    | exact .refl _
    | refine .step ?_ (by with_reducible first
        | exact .advance .. | exact .swapAt ..)
    | refine .next ?_

theorem Kept.bankWrite (s : State) (addr be val : Nat) : Kept [.block .bank, .block .clf] s (s.bankWrite addr be val)
    := by
  unfold State.bankWrite
  split
  · rename_i p _
    dsimp only
    by_cases hb : p.blk = .bank
    · have h (x : Fld) (v : W32) : Kept [.block .bank] s (s.setWord p x v) := hb ▸ .setWord ..
      repeat' with_reducible first
        | exact .refl _
        | exact .step (.refl _) (h ..)
        | refine .step ?_ (by with_reducible first
            | exact .refuse .. | exact .slotRefuse ..)
        | refine .ite ?_ ?_
        | split
    · rw [if_pos hb]; exact .refl _
  · exact .refl _

theorem Kept.execClfSlotBankWrite (dt : Nat) (_req : Req) (addr : Nat) (be : BitVec 4) (val : W32) (s : State) :
    KeptOut [.now, .block .bank, .block .clf] s (Machine.execClfSlotBankWrite dt _req addr be val s) := by
  unfold Machine.execClfSlotBankWrite
  repeat' with_reducible first
    | exact .refl _
    | refine .step ?_ (by with_reducible first
        | exact .advance .. | exact .bankWrite ..)
    | refine .next ?_

theorem Kept.routeWrite (s : State) (req addr be val : Nat) : Kept [.block .clf, .block .route] s (s.routeWrite req
    addr be val) := by
  unfold State.routeWrite
  split
  · rename_i p _
    dsimp only
    by_cases hb : p.blk = .route
    · have h (x : Fld) (v : W32) : Kept [.block .route] s (s.setWord p x v) := hb ▸ .setWord ..
      repeat' with_reducible first
        | exact .refl _
        | exact .step (.refl _) (h ..)
        | refine .step ?_ (by with_reducible first
            | exact .refuse ..)
        | refine .ite ?_ ?_
        | split
    · rw [if_pos hb]; exact .refl _
  · exact .refl _

theorem Kept.execClfRouteWrite (dt : Nat) (req : Req) (addr : Nat) (be : BitVec 4) (val : W32) (s : State) : KeptOut
    [.now, .block .clf, .block .route] s (Machine.execClfRouteWrite dt req addr be val s) := by
  unfold Machine.execClfRouteWrite
  repeat' with_reducible first
    | exact .refl _
    | refine .step ?_ (by with_reducible first
        | exact .advance .. | exact .routeWrite ..)
    | refine .next ?_

theorem Kept.ringRptr (s : State) (k val : Nat) : Kept [.block .clf] s (State.ringRptr s k val) := by
  unfold State.ringRptr
  dsimp only
  repeat' with_reducible first
    | exact .refl _
    | refine .step ?_ (by with_reducible first
        | exact .put .. | exact .refuse ..)
    | refine .ite ?_ ?_
    | split

theorem Kept.execClfRingRptrWrite (dt : Nat) (_req : Req) (k : Fin 16) (val : W32) (s : State) : KeptOut [.now,
    .block .clf] s (Machine.execClfRingRptrWrite dt _req k val s) := by
  unfold Machine.execClfRingRptrWrite
  repeat' with_reducible first
    | exact .refl _
    | refine .step ?_ (by with_reducible first
        | exact .advance .. | exact .ringRptr ..)
    | refine .next ?_

theorem Kept.ringPut (s : State) (k : Nat) (f : ClfFrame) (t : Nat) : Kept [.arb, .dma, .dmaReq, .evrAt, .free, .mem,
    .block .arb, .block .clf, .block .dma, .block .hlo, .block .sys] s (State.ringPut s k f t) := by
  unfold State.ringPut
  dsimp only
  repeat' with_reducible first
    | exact .refl _
    | refine .step ?_ (by with_reducible first
        | exact .grantedN .. | exact .recWords .. | exact .put .. | exact .evt .. | exact .incSat ..
        | exact .note ..)
    | refine .ite ?_ ?_
    | split

theorem Kept.clfCommitted (s : State) (ctrl wasOn : Bool) (ports : Nat) (subs : List (Fin 8)) (rings : List (Nat ×
    Bool)) : Kept [.clf, .dma, .dmaReq, .evrAt, .block .clf, .block .dma, .block .hlo, .block .sys] s
    (State.clfCommitted s ctrl wasOn ports subs rings) := by
  unfold State.clfCommitted
  dsimp only
  repeat' with_reducible first
    | exact .refl _
    | refine .step ?_ (by with_reducible first
        | exact .clfGo .. | exact .clfOff .. | exact .portDown .. | exact .put .. | exact .clfSet ..)
    | refine .ite ?_ ?_
    | refine .foldl ?_ ?_ _
    | refine .foldlSnd ?_ _ _ _ | refine .foldlFst ?_ _ _ _
    | intro _
    | split

end Sys2Proof.Machine
end

