-- ==== Sys2Proof/Laws/KeptClfTime.lean ====
section
/-! SUPPORT. What each operation of Machine/ClfTime.lean keeps. -/

namespace Sys2Proof.Machine
open Sys2Proof
set_option Elab.async false

theorem Kept.fabJoin (s : State) (ofs : Int) : Kept [.dma, .dmaReq, .evrAt, .tbu, .block .dma, .block .tbu] s
    (State.fabJoin s ofs) := by
  unfold State.fabJoin
  dsimp only
  repeat' with_reducible first
    | exact .refl _
    | refine .step ?_ (by with_reducible first
        | exact .put64 .. | exact .evt ..)
    | refine .ite ?_ ?_
    | split
    | refine .step ?_ (by with_reducible first
        | exact .tbu_upd ..)

theorem Kept.fabEnable (s : State) : Kept [.dma, .dmaReq, .evrAt, .tbu, .block .dma, .block .tbu] s (State.fabEnable
    s) := by
  unfold State.fabEnable
  dsimp only
  repeat' with_reducible first
    | exact .refl _
    | refine .step ?_ (by with_reducible first
        | exact .fabJoin .. | exact .flag ..)
    | refine .ite ?_ ?_
    | split
    | refine .step ?_ (by with_reducible first
        | exact .tbu_upd ..)

theorem Kept.becomeRoot (s : State) : Kept [.clf, .dma, .dmaReq, .evrAt, .tbu, .block .clf, .block .dma, .block .tbu]
    s (State.becomeRoot s) := by
  unfold State.becomeRoot
  dsimp only
  repeat' with_reducible first
    | exact .refl _
    | refine .step ?_ (by with_reducible first
        | exact .fabJoin .. | exact .flag .. | exact .clfSet .. | exact .put ..)
    | refine .ite ?_ ?_
    | intro _
    | split
    | refine .step ?_ (by with_reducible first
        | exact .tbu_upd ..)

theorem Kept.rootLost (s : State) : Kept [.clf, .dma, .dmaReq, .evrAt, .block .clf, .block .dma, .block .hlo, .block
    .sys] s (State.rootLost s) := by
  unfold State.rootLost
  dsimp only
  repeat' with_reducible first
    | exact .refl _
    | refine .step ?_ (by with_reducible first
        | exact .evt .. | exact .note .. | exact .clfDiscover .. | exact .clfSet .. | exact .clfGo ..)
    | refine .ite ?_ ?_
    | intro _
    | split

theorem Kept.fabLost (s : State) : Kept [.clf, .dma, .dmaReq, .evrAt, .tbu, .block .dma, .block .hlo, .block .sys,
    .block .tbu] s (State.fabLost s) := by
  unfold State.fabLost
  dsimp only
  repeat' with_reducible first
    | exact .refl _
    | refine .step ?_ (by with_reducible first
        | exact .flag .. | exact .clfSet .. | exact .evt .. | exact .note ..)
    | refine .ite ?_ ?_
    | intro _
    | split
    | refine .step ?_ (by with_reducible first
        | exact .tbu_upd ..)

theorem Kept.sendAs (s : State) (p : Fin 2) (f : ClfFrame) (bad : Bool) : Kept [.clf] s (State.sendAs s p f bad) := by
  unfold State.sendAs
  repeat' with_reducible first
    | exact .refl _
    | refine .step ?_ (by with_reducible first
        | exact .portSet ..)
    | refine .ite ?_ ?_
    | intro _
    | split

theorem Kept.sendOn (s : State) (p : Fin 2) (f : ClfFrame) : Kept [.clf] s (State.sendOn s p f) := by
  unfold State.sendOn
  repeat' with_reducible first
    | exact .refl _
    | refine .step ?_ (by with_reducible first
        | exact .sendAs ..)

theorem Kept.broadcast (s : State) (f : ClfFrame) : Kept [.clf] s (State.broadcast s f) := by
  unfold State.broadcast
  dsimp only
  repeat' with_reducible first
    | exact .refl _
    | refine .step ?_ (by with_reducible first
        | exact .sendOn ..)
    | refine .ite ?_ ?_
    | split

theorem Kept.pdAnswer (s : State) : Kept [.clf] s (State.pdAnswer s) := by
  unfold State.pdAnswer
  repeat' with_reducible first
    | exact .refl _
    | refine .step ?_ (by with_reducible first
        | exact .sendOn .. | exact .portSet ..)
    | refine .ite ?_ ?_
    | refine .foldl ?_ ?_ _
    | intro _
    | split

theorem Kept.clfSync (s : State) : Kept [.dma, .dmaReq, .evrAt, .block .clf, .block .dma] s (State.clfSync s) := by
  unfold State.clfSync
  dsimp only
  repeat' with_reducible first
    | exact .refl _
    | refine .step ?_ (by with_reducible first
        | exact .clfGo ..)
    | refine .ite ?_ ?_
    | split

theorem Kept.discovered (s : State) (n hops rootId : Nat) : Kept [.clf, .dma, .dmaReq, .evrAt, .tbu, .block .clf,
    .block .dma, .block .hlo, .block .sys, .block .tbu] s (State.discovered s n hops rootId) := by
  unfold State.discovered
  dsimp only
  repeat' with_reducible first
    | exact .refl _
    | refine .step ?_ (by with_reducible first
        | exact .note .. | exact .flag .. | exact .put .. | exact .clfSet .. | exact .becomeRoot ..
        | exact .sendOn .. | exact .clfGo .. | exact .clfSync ..)
    | refine .withTopo ?_ ?_ ?_
    | (show (_ : List Part) ⊆ _; first | exact Part.sub (by decide +kernel) | (dsimp only; exact Part.sub (by decide +kernel)) | simp [Part.reaction, Part.butPending, Part.andRegs])
    | refine .ite ?_ ?_
    | refine .foldl ?_ ?_ _
    | refine .foldlSnd ?_ _ _ _ | refine .foldlFst ?_ _ _ _
    | intro _
    | split

theorem Kept.execClfHelloSend (dt : Nat) (done : Bool) (s : State) : KeptOut [.clf, .dma, .dmaReq, .evrAt, .now,
    .tbu, .block .clf, .block .dma, .block .hlo, .block .sys, .block .tbu] s (Machine.execClfHelloSend dt done s) :=
    by
  unfold Machine.execClfHelloSend
  dsimp only
  repeat' with_reducible first
    | exact .refl _
    | refine .step ?_ (by with_reducible first
        | exact .advance .. | exact .pdAnswer .. | exact .sendOn .. | exact .clfSet .. | exact .discovered ..)
    | refine .next ?_
    | refine KeptOut.ite ?_ ?_
    | refine .ite ?_ ?_
    | intro _
    | split

theorem Kept.execClfHelloRx (dt : Nat) (p : Fin 2) (h : ClfHello) (done : Bool) (s : State) : KeptOut [.clf, .dma,
    .dmaReq, .evrAt, .now, .tbu, .block .clf, .block .dma, .block .hlo, .block .sys, .block .tbu] s
    (Machine.execClfHelloRx dt p h done s) := by
  unfold Machine.execClfHelloRx
  dsimp only
  repeat' with_reducible first
    | exact .refl _
    | refine .step ?_ (by with_reducible first
        | exact .advance .. | exact .clfSet .. | exact .note .. | exact .clfGo .. | exact .discovered ..)
    | refine .next ?_
    | refine KeptOut.ite ?_ ?_
    | refine .ite ?_ ?_
    | intro _
    | split

theorem Kept.execClfAssignRx (dt : Nat) (p : Fin 2) (id : Nat) (n : Nat) (hops : Nat) (s : State) : KeptOut [.clf,
    .dma, .dmaReq, .evrAt, .now, .block .clf, .block .dma] s (Machine.execClfAssignRx dt p id n hops s) := by
  unfold Machine.execClfAssignRx
  dsimp only
  repeat' with_reducible first
    | exact .refl _
    | refine .step ?_ (by with_reducible first
        | exact .advance .. | exact .put .. | exact .clfSet .. | exact .sendOn .. | exact .clfSync ..)
    | refine .withTopo ?_ ?_ ?_
    | (show (_ : List Part) ⊆ _; first | exact Part.sub (by decide +kernel) | (dsimp only; exact Part.sub (by decide +kernel)) | simp [Part.reaction, Part.butPending, Part.andRegs])
    | refine .next ?_
    | refine KeptOut.ite ?_ ?_
    | refine .ite ?_ ?_
    | intro _
    | split

theorem Kept.execClfPdRequest (dt : Nat) (p : Fin 2) (fine : Fin 128) (s : State) : KeptOut [.clf, .now] s
    (Machine.execClfPdRequest dt p fine s) := by
  unfold Machine.execClfPdRequest
  dsimp only
  repeat' with_reducible first
    | exact .refl _
    | refine .step ?_ (by with_reducible first
        | exact .advance .. | exact .pdAnswer .. | exact .sendOn .. | exact .portSet ..)
    | refine .next ?_
    | refine KeptOut.ite ?_ ?_
    | refine .ite ?_ ?_
    | intro _
    | split

theorem Kept.execClfPdreqRx (dt : Nat) (p : Fin 2) (_fine : Fin 128) (s : State) : KeptOut [.clf, .now] s
    (Machine.execClfPdreqRx dt p _fine s) := by
  unfold Machine.execClfPdreqRx
  dsimp only
  repeat' with_reducible first
    | exact .refl _
    | refine .step ?_ (by with_reducible first
        | exact .advance .. | exact .portSet .. | exact .pdAnswer ..)
    | refine .next ?_
    | refine KeptOut.ite ?_ ?_
    | refine .ite ?_ ?_
    | intro _
    | split

theorem Kept.execClfPdrespRx (dt : Nat) (p : Fin 2) (t2 : Nat) (t3 : Nat) (fine : Fin 128) (s : State) : KeptOut
    [.clf, .now, .block .clf] s (Machine.execClfPdrespRx dt p t2 t3 fine s) := by
  unfold Machine.execClfPdrespRx
  dsimp only
  repeat' with_reducible first
    | exact .refl _
    | refine .step ?_ (by with_reducible first
        | exact .advance .. | exact .portSet .. | exact .put ..)
    | refine .next ?_
    | refine KeptOut.ite ?_ ?_
    | refine .ite ?_ ?_
    | refine .foldl ?_ ?_ _
    | intro _
    | split

theorem Kept.slotConflict (s : State) (i : Nat) : Kept [.clf, .dma, .dmaReq, .evrAt, .block .clf, .block .dma, .block
    .hlo, .block .sys] s (State.slotConflict s i) := by
  unfold State.slotConflict
  dsimp only
  repeat' with_reducible first
    | exact .refl _
    | refine .step ?_ (by with_reducible first
        | exact .clfSet .. | exact .incSat .. | exact .evt .. | exact .note ..)
    | refine .ite ?_ ?_
    | intro _
    | split

theorem Kept.slotCheck (s : State) (i src : Nat) : Kept [.clf, .dma, .dmaReq, .evrAt, .block .clf, .block .dma,
    .block .hlo, .block .sys] s (State.slotCheck s i src).2 := by
  unfold State.slotCheck
  dsimp only
  repeat' with_reducible first
    | exact .refl _
    | refine .step ?_ (by with_reducible first
        | exact .slotConflict .. | exact .clfSet ..)
    | refine .ite ?_ ?_
    | intro _
    | split

theorem Kept.crcError (s : State) : Kept [.clf, .dma, .dmaReq, .evrAt, .block .clf, .block .dma, .block .hlo, .block
    .sys] s (State.crcError s) := by
  unfold State.crcError
  dsimp only
  repeat' with_reducible first
    | exact .refl _
    | refine .step ?_ (by with_reducible first
        | exact .incSat .. | exact .clfSet .. | exact .note ..)
    | refine .ite ?_ ?_
    | intro _
    | split

theorem Kept.forward (s : State) (p : Fin 2) (f : ClfFrame) (bad : Bool) : Kept [.clf] s (State.forward s p f bad) :=
    by
  unfold State.forward
  dsimp only
  repeat' with_reducible first
    | exact .refl _
    | refine .step ?_ (by with_reducible first
        | exact .sendAs ..)
    | refine .ite ?_ ?_
    | split

theorem Kept.deliver (s : State) (f : ClfFrame) (t : Nat) : Kept [.arb, .clf, .dma, .dmaReq, .evrAt, .free, .mem,
    .msv, .block .arb, .block .clf, .block .dma, .block .hlo, .block .msv, .block .sys] s (State.deliver s f t) := by
  unfold State.deliver
  dsimp only
  repeat' with_reducible first
    | exact .refl _
    | refine .step ?_ (by with_reducible first
        | exact .incSat .. | exact .clfSet .. | exact .ringPut .. | exact .msvTcmd ..)
    | refine .ite ?_ ?_
    | intro _
    | split

theorem Kept.execClfFrameRx (dt : Nat) (p : Fin 2) (f : ClfFrame) (good : Bool) (marked : Bool) (s : State) : KeptOut
    [.arb, .clf, .dma, .dmaReq, .evrAt, .free, .mem, .msv, .now, .block .arb, .block .clf, .block .dma, .block .hlo,
    .block .msv, .block .sys] s (Machine.execClfFrameRx dt p f good marked s) := by
  unfold Machine.execClfFrameRx
  dsimp only
  repeat' with_reducible first
    | exact .refl _
    | refine .step ?_ (by with_reducible first
        | exact .advance .. | exact .forward .. | exact .slotCheck .. | exact .incSat .. | exact .crcError ..
        | exact .deliver ..)
    | refine .next ?_
    | refine KeptOut.ite ?_ ?_
    | refine .ite ?_ ?_
    | (rename_i h; refine .ofSnd h ?_) | (rename_i h; refine .ofFst h ?_)
    | split

theorem Kept.execErrorRateWindowStart (dt : Nat) (s : State) : KeptOut [.clf, .now] s
    (Machine.execErrorRateWindowStart dt s) := by
  unfold Machine.execErrorRateWindowStart
  dsimp only
  repeat' with_reducible first
    | exact .refl _
    | refine .step ?_ (by with_reducible first
        | exact .advance .. | exact .clfSet ..)
    | refine .next ?_
    | refine KeptOut.ite ?_ ?_
    | refine .ite ?_ ?_
    | intro _
    | split

theorem Kept.tbuSet (s : State) (f : TbuH → TbuH) : Kept [.tbu] s (State.tbuSet s f) := by
  unfold State.tbuSet
  repeat' with_reducible first
    | exact .refl _
    | refine .step ?_ (by with_reducible first
        | exact .tbu_upd ..)

theorem Kept.steerTrim (s : State) (r : Int) : Kept [.free, .tbu] s (State.steerTrim s r) := by
  unfold State.steerTrim
  dsimp only
  repeat' with_reducible first
    | exact .refl _
    | refine .step ?_ (by with_reducible first
        | exact .tbuSet .. | exact .freshNat ..)
    | refine .ite ?_ ?_
    | (rename_i h; refine .ofSnd h ?_) | (rename_i h; refine .ofFst h ?_)
    | intro _
    | split

theorem Kept.residual (s : State) (r : Int) : Kept [.free, .tbu, .block .clf] s (State.residual s r) := by
  unfold State.residual
  dsimp only
  repeat' with_reducible first
    | exact .refl _
    | refine .step ?_ (by with_reducible first
        | exact .put .. | exact .tbuSet .. | exact .steerTrim ..)
    | refine .ite ?_ ?_
    | intro _
    | split

theorem Kept.execClfTimeRx (dt : Nat) (p : Fin 2) (f : ClfTime) (fine : Fin 128) (s : State) : KeptOut (.free :: .now
    :: .pos :: .tbu :: Part.reaction) s (Machine.execClfTimeRx dt p f fine s) := by
  unfold Machine.execClfTimeRx
  dsimp only
  repeat' with_reducible first
    | exact .refl _
    | refine .step ?_ (by with_reducible first
        | exact .advance .. | exact .freshNat .. | exact .forward .. | exact .slotCheck .. | exact .crcError ..
        | exact .clfSet .. | exact .tbuSet .. | exact .residual .. | exact .fabJoin .. | exact .flag ..
        | exact .put64 .. | exact .clfGo .. | exact .mismatch .. | exact .evt .. | exact .note ..
        | exact .swapAt ..)
    | refine .next ?_
    | refine KeptOut.ite ?_ ?_
    | refine .ite ?_ ?_
    | (rename_i h; refine .ofSnd h ?_) | (rename_i h; refine .ofFst h ?_)
    | intro _
    | split

theorem Kept.execClfTxbufRead (dt : Nat) (slot : Fin 255) (s : State) : KeptOut [.arb, .clf, .now, .block .arb] s
    (Machine.execClfTxbufRead dt slot s) := by
  unfold Machine.execClfTxbufRead
  dsimp only
  repeat' with_reducible first
    | exact .refl _
    | refine .step ?_ (by with_reducible first
        | exact .advance .. | exact .grantedN .. | exact .clfSet ..)
    | refine .next ?_
    | refine KeptOut.ite ?_ ?_
    | refine .ite ?_ ?_
    | intro _
    | split

theorem Kept.nextSeq (s : State) (stream : Nat) : Kept [.clf] s (State.nextSeq s stream).2 := by
  unfold State.nextSeq
  dsimp only
  repeat' with_reducible first
    | exact .refl _
    | refine .step ?_ (by with_reducible first
        | exact .clfSet ..)
    | intro _

theorem Kept.slotSend (s : State) (i stream type : Nat) (ws : List W32) : Kept [.clf] s (State.slotSend s i stream
    type ws) := by
  unfold State.slotSend
  dsimp only
  repeat' with_reducible first
    | exact .refl _
    | refine .step ?_ (by with_reducible first
        | exact .nextSeq .. | exact .broadcast .. | exact .clfSet ..)
    | (rename_i h; refine .ofSnd h ?_) | (rename_i h; refine .ofFst h ?_)
    | intro _
    | split

theorem Kept.execClfSlotTx (dt : Nat) (slot : Fin 255) (done : Bool) (s : State) : KeptOut [.clf, .dma, .dmaReq,
    .evrAt, .now, .block .clf, .block .dma, .block .hlo, .block .sys] s (Machine.execClfSlotTx dt slot done s) := by
  unfold Machine.execClfSlotTx
  dsimp only
  repeat' with_reducible first
    | exact .refl _
    | refine .step ?_ (by with_reducible first
        | exact .advance .. | exact .slotSend .. | exact .clfSet .. | exact .incSat .. | exact .note ..)
    | refine .next ?_
    | refine KeptOut.ite ?_ ?_
    | refine .ite ?_ ?_
    | intro _
    | split

theorem Kept.safeMessage (s : State) : Kept [.clf] s (State.safeMessage s) := by
  unfold State.safeMessage
  dsimp only
  repeat' with_reducible first
    | exact .refl _
    | refine .step ?_ (by with_reducible first
        | exact .clfSet ..)
    | intro _

theorem Kept.peerCheck (s : State) (k : Fin 8) : Kept (.pos :: Part.reaction) s (State.peerCheck s k) := by
  unfold State.peerCheck
  dsimp only
  repeat' with_reducible first
    | exact .refl _
    | refine .step ?_ (by with_reducible first
        | exact .clfSet .. | exact .evt .. | exact .raise ..)
    | refine .ite ?_ ?_
    | intro _
    | split

theorem Kept.superframe (s : State) : Kept (.pos :: .sfTick :: .tbu :: Part.reaction) s (State.superframe s) := by
  unfold State.superframe
  dsimp only
  repeat' with_reducible first
    | exact .refl _
    | refine .step ?_ (by with_reducible first
        | exact .put64 .. | exact .put .. | exact .flag .. | exact .evt .. | exact .clfSet .. | exact .incSat ..
        | exact .fabLost .. | exact .rootLost .. | exact .safeMessage .. | exact .peerCheck ..)
    | refine .withTopo ?_ ?_ ?_
    | (show (_ : List Part) ⊆ _; first | exact Part.sub (by decide +kernel) | (dsimp only; exact Part.sub (by decide +kernel)) | simp [Part.reaction, Part.butPending, Part.andRegs])
    | refine .ite ?_ ?_
    | refine .foldl ?_ ?_ _
    | intro _
    | split
    | refine .step ?_ (by with_reducible first
        | exact .sfTick_upd ..)

end Sys2Proof.Machine
end

