-- ==== Sys2Proof/Laws/KeptHalo.lean ====
section
/-! SUPPORT. What each operation of Machine/Halo.lean keeps. -/

namespace Sys2Proof.Machine
open Sys2Proof
set_option Elab.async false

theorem Kept.hloClrLog (s : State) : Kept [.block .hlo] s (State.hloClrLog s) := by
  unfold State.hloClrLog
  repeat' with_reducible first
    | exact .refl _
    | refine .step ?_ (by with_reducible first
        | exact .put .. | exact .put64 ..)
    | refine .command ?_ ?_ ?_
    | (show (_ : List Part) ⊆ _; first | exact Part.sub (by decide +kernel) | (dsimp only; exact Part.sub (by decide +kernel)) | simp [Part.reaction, Part.butPending, Part.andRegs])
    | refine .foldl ?_ ?_ _
    | intro _

theorem Kept.hloClrFirst (s : State) : Kept [.block .hlo] s (State.hloClrFirst s) := by
  unfold State.hloClrFirst
  repeat' with_reducible first
    | exact .refl _
    | refine .step ?_ (by with_reducible first
        | exact .put .. | exact .put64 ..)
    | refine .command ?_ ?_ ?_
    | (show (_ : List Part) ⊆ _; first | exact Part.sub (by decide +kernel) | (dsimp only; exact Part.sub (by decide +kernel)) | simp [Part.reaction, Part.butPending, Part.andRegs])
    | intro _

theorem Kept.execHloClrLog (dt : Nat) (req : Req) (s : State) : KeptOut [.now, .block .hlo] s (Machine.execHloClrLog
    dt req s) := by
  unfold Machine.execHloClrLog
  repeat' with_reducible first
    | exact .refl _
    | refine .step ?_ (by with_reducible first
        | exact .advance .. | exact .hloClrLog ..)
    | refine .haloCmd ?_ ?_ ?_
    | (show (_ : List Part) ⊆ _; first | exact Part.sub (by decide +kernel) | (dsimp only; exact Part.sub (by decide +kernel)) | simp [Part.reaction, Part.butPending, Part.andRegs])
    | refine .next ?_
    | intro _

theorem Kept.execHloClrFirst (dt : Nat) (req : Req) (s : State) : KeptOut [.now, .block .hlo] s
    (Machine.execHloClrFirst dt req s) := by
  unfold Machine.execHloClrFirst
  repeat' with_reducible first
    | exact .refl _
    | refine .step ?_ (by with_reducible first
        | exact .advance .. | exact .hloClrFirst ..)
    | refine .haloCmd ?_ ?_ ?_
    | (show (_ : List Part) ⊆ _; first | exact Part.sub (by decide +kernel) | (dsimp only; exact Part.sub (by decide +kernel)) | simp [Part.reaction, Part.butPending, Part.andRegs])
    | refine .next ?_
    | intro _

theorem Kept.watchdog (s : State) : Kept (.pos :: Part.reaction) s (State.watchdog s) := by
  unfold State.watchdog
  repeat' with_reducible first
    | exact .refl _
    | refine .step ?_ (by with_reducible first
        | exact .evt .. | exact .raise ..)

theorem Kept.kick (s : State) (req : Nat) (val : Nat) : Kept (.pos :: Part.reaction) s (State.kick s req val) := by
  unfold State.kick
  dsimp only
  repeat' with_reducible first
    | exact .refl _
    | refine .step ?_ (by with_reducible first
        | exact .refuse .. | exact .watchdog ..)
    | refine .ite ?_ ?_
    | split
    | refine .step ?_ (by with_reducible first
        | exact .halo_upd ..)

theorem Kept.execWatchdogKick (dt : Nat) (req : Req) (val : W32) (s : State) : KeptOut (.now :: .pos ::
    Part.reaction) s (Machine.execWatchdogKick dt req val s) := by
  unfold Machine.execWatchdogKick
  repeat' with_reducible first
    | exact .refl _
    | refine .step ?_ (by with_reducible first
        | exact .advance .. | exact .kick ..)
    | refine .next ?_

theorem Kept.execWatchdog (dt : Nat) (s : State) : KeptOut (.now :: .pos :: Part.reaction) s (Machine.execWatchdog dt
    s) := by
  unfold Machine.execWatchdog
  dsimp only
  repeat' with_reducible first
    | exact .refl _
    | refine .step ?_ (by with_reducible first
        | exact .advance .. | exact .watchdog ..)
    | refine .next ?_
    | refine KeptOut.ite ?_ ?_
    | refine .ite ?_ ?_
    | split

theorem Kept.execGhbHalfPeriod (dt : Nat) (line : Fin 15) (s : State) : KeptOut [.halo, .now] s
    (Machine.execGhbHalfPeriod dt line s) := by
  unfold Machine.execGhbHalfPeriod
  dsimp only
  repeat' with_reducible first
    | exact .refl _
    | refine .step ?_ (by with_reducible first
        | exact .advance .. | exact .ghbBegin ..)
    | refine .next ?_
    | refine KeptOut.ite ?_ ?_
    | refine .ite ?_ ?_
    | split

theorem Kept.execGhbReadback (dt : Nat) (line : Fin 15) (s : State) : KeptOut (.now :: .pos :: Part.reaction) s
    (Machine.execGhbReadback dt line s) := by
  unfold Machine.execGhbReadback
  repeat' with_reducible first
    | exact .refl _
    | refine .step ?_ (by with_reducible first
        | exact .advance .. | exact .putBit .. | exact .evt .. | exact .raise ..)
    | refine .next ?_

theorem Kept.stoRelease (s : State) (mask : Nat) : Kept [.halo, .block .sto] s (State.stoRelease s mask) := by
  unfold State.stoRelease
  dsimp only
  repeat' with_reducible first
    | exact .refl _
    | refine .step ?_ (by with_reducible first
        | exact .stopSet .. | exact .pathARelease ..)
    | refine .command ?_ ?_ ?_
    | (show (_ : List Part) ⊆ _; first | exact Part.sub (by decide +kernel) | (dsimp only; exact Part.sub (by decide +kernel)) | simp [Part.reaction, Part.butPending, Part.andRegs])
    | refine .ite ?_ ?_
    | refine .foldl ?_ ?_ _
    | intro _
    | split
    | refine .step ?_ (by with_reducible first
        | exact .halo_upd ..)

theorem Kept.execStoRelease (dt : Nat) (req : Req) (mask : BitVec 3) (s : State) : KeptOut [.halo, .now, .block .sto]
    s (Machine.execStoRelease dt req mask s) := by
  unfold Machine.execStoRelease
  repeat' with_reducible first
    | exact .refl _
    | refine .step ?_ (by with_reducible first
        | exact .advance .. | exact .stoRelease ..)
    | refine .haloCmd ?_ ?_ ?_
    | (show (_ : List Part) ⊆ _; first | exact Part.sub (by decide +kernel) | (dsimp only; exact Part.sub (by decide +kernel)) | simp [Part.reaction, Part.butPending, Part.andRegs])
    | refine .next ?_
    | intro _

theorem Kept.stoCmdAssert (s : State) (mask : Nat) : Kept [.dma, .dmaReq, .evrAt, .halo, .msv, .pos, .tpw, .block
    .dma, .block .hlo, .block .msv, .block .pos, .block .ssf, .block .sto, .block .sys, .block .tpw] s
    (State.stoCmdAssert s mask) := by
  unfold State.stoCmdAssert
  repeat' with_reducible first
    | exact .refl _
    | refine .step ?_ (by with_reducible first
        | exact .stoAssert ..)
    | refine .command ?_ ?_ ?_
    | refine .machines ?_ ?_
    | (show (_ : List Part) ⊆ _; first | exact Part.sub (by decide +kernel) | (dsimp only; exact Part.sub (by decide +kernel)) | simp [Part.reaction, Part.butPending, Part.andRegs])
    | intro _
    | refine .step ?_ (by with_reducible first
        | exact .halo_upd ..)

theorem Kept.execStoAssert (dt : Nat) (req : Req) (mask : BitVec 3) (s : State) : KeptOut [.dma, .dmaReq, .evrAt,
    .halo, .msv, .now, .pos, .tpw, .block .dma, .block .hlo, .block .msv, .block .pos, .block .ssf, .block .sto,
    .block .sys, .block .tpw] s (Machine.execStoAssert dt req mask s) := by
  unfold Machine.execStoAssert
  repeat' with_reducible first
    | exact .refl _
    | refine .step ?_ (by with_reducible first
        | exact .advance .. | exact .stoCmdAssert ..)
    | refine .haloCmd ?_ ?_ ?_
    | (show (_ : List Part) ⊆ _; first | exact Part.sub (by decide +kernel) | (dsimp only; exact Part.sub (by decide +kernel)) | simp [Part.reaction, Part.butPending, Part.andRegs])
    | refine .next ?_
    | intro _

theorem Kept.convRelease (s : State) : Kept [.halo, .block .sto] s (State.convRelease s) := by
  unfold State.convRelease
  repeat' with_reducible first
    | exact .refl _
    | refine .step ?_ (by with_reducible first
        | exact .pathARelease ..)
    | refine .command ?_ ?_ ?_
    | (show (_ : List Part) ⊆ _; first | exact Part.sub (by decide +kernel) | (dsimp only; exact Part.sub (by decide +kernel)) | simp [Part.reaction, Part.butPending, Part.andRegs])
    | intro _
    | refine .step ?_ (by with_reducible first
        | exact .halo_upd ..)

theorem Kept.execStoConvRelease (dt : Nat) (req : Req) (s : State) : KeptOut [.halo, .now, .block .sto] s
    (Machine.execStoConvRelease dt req s) := by
  unfold Machine.execStoConvRelease
  repeat' with_reducible first
    | exact .refl _
    | refine .step ?_ (by with_reducible first
        | exact .advance .. | exact .convRelease ..)
    | refine .haloCmd ?_ ?_ ?_
    | (show (_ : List Part) ⊆ _; first | exact Part.sub (by decide +kernel) | (dsimp only; exact Part.sub (by decide +kernel)) | simp [Part.reaction, Part.butPending, Part.andRegs])
    | refine .next ?_
    | intro _

theorem Kept.convCmdAssert (s : State) : Kept [.cpw, .dcd, .dma, .dmaReq, .evrAt, .halo, .block .dcd, .block .dma,
    .block .sto] s (State.convCmdAssert s) := by
  unfold State.convCmdAssert
  repeat' with_reducible first
    | exact .refl _
    | refine .step ?_ (by with_reducible first
        | exact .convAssert ..)
    | refine .command ?_ ?_ ?_
    | (show (_ : List Part) ⊆ _; first | exact Part.sub (by decide +kernel) | (dsimp only; exact Part.sub (by decide +kernel)) | simp [Part.reaction, Part.butPending, Part.andRegs])
    | intro _
    | refine .step ?_ (by with_reducible first
        | exact .halo_upd ..)

theorem Kept.execStoConvAssert (dt : Nat) (req : Req) (s : State) : KeptOut [.cpw, .dcd, .dma, .dmaReq, .evrAt,
    .halo, .now, .block .dcd, .block .dma, .block .sto] s (Machine.execStoConvAssert dt req s) := by
  unfold Machine.execStoConvAssert
  repeat' with_reducible first
    | exact .refl _
    | refine .step ?_ (by with_reducible first
        | exact .advance .. | exact .convCmdAssert ..)
    | refine .haloCmd ?_ ?_ ?_
    | (show (_ : List Part) ⊆ _; first | exact Part.sub (by decide +kernel) | (dsimp only; exact Part.sub (by decide +kernel)) | simp [Part.reaction, Part.butPending, Part.andRegs])
    | refine .next ?_
    | intro _

theorem Kept.stoOut (s : State) (l : Fin 4) : Kept [.dma, .dmaReq, .evrAt, .halo, .msv, .pos, .tpw, .block .dma,
    .block .hlo, .block .msv, .block .pos, .block .sto, .block .sys, .block .tpw] s (State.stoOut s l) := by
  unfold State.stoOut
  dsimp only
  repeat' with_reducible first
    | exact .refl _
    | refine .step ?_ (by with_reducible first
        | exact .flag .. | exact .put .. | exact .evt .. | exact .putBit .. | exact .incSat ..
        | exact .msvReleased .. | exact .tpwRefreshAll ..)
    | refine .ite ?_ ?_
    | split

theorem Kept.execStoPathBRelease (dt : Nat) (line : Fin 4) (s : State) : KeptOut [.dma, .dmaReq, .evrAt, .halo, .msv,
    .now, .pos, .tpw, .block .dma, .block .hlo, .block .msv, .block .pos, .block .sto, .block .sys, .block .tpw] s
    (Machine.execStoPathBRelease dt line s) := by
  unfold Machine.execStoPathBRelease
  dsimp only
  repeat' with_reducible first
    | exact .refl _
    | refine .step ?_ (by with_reducible first
        | exact .advance .. | exact .stoOut ..)
    | refine .next ?_
    | refine KeptOut.ite ?_ ?_
    | refine .ite ?_ ?_
    | split
    | refine .step ?_ (by with_reducible first
        | exact .halo_upd ..)

theorem Kept.execStoPath (dt : Nat) (line : Fin 4) (s : State) : KeptOut (.now :: .pos :: Part.reaction) s
    (Machine.execStoPath dt line s) := by
  unfold Machine.execStoPath
  dsimp only
  repeat' with_reducible first
    | exact .refl _
    | refine .step ?_ (by with_reducible first
        | exact .advance .. | exact .evt .. | exact .raise ..)
    | refine .next ?_
    | refine KeptOut.ite ?_ ?_
    | refine .ite ?_ ?_
    | split

theorem Kept.execStoReadback (dt : Nat) (ball : Fin 8) (s : State) : KeptOut (.now :: .pos :: Part.reaction) s
    (Machine.execStoReadback dt ball s) := by
  unfold Machine.execStoReadback
  dsimp only
  repeat' with_reducible first
    | exact .refl _
    | refine .step ?_ (by with_reducible first
        | exact .advance .. | exact .evt .. | exact .raise ..)
    | refine .next ?_
    | refine .step ?_ (by with_reducible first
        | exact .halo_upd ..)

theorem Kept.sfiSet (s : State) (k : Fin 16) (f : SfiIn → SfiIn) : Kept [.halo] s (State.sfiSet s k f) := by
  unfold State.sfiSet
  repeat' with_reducible first
    | exact .refl _
    | refine .step ?_ (by with_reducible first
        | exact .halo_upd ..)

theorem Kept.sfiFault (s : State) (k code : Nat) : Kept (.pos :: Part.reaction) s (State.sfiFault s k code) := by
  unfold State.sfiFault
  dsimp only
  repeat' with_reducible first
    | exact .refl _
    | refine .step ?_ (by with_reducible first
        | exact .raise ..)
    | refine .ite ?_ ?_
    | split

theorem Kept.sfiBegin (s : State) (k : Fin 16) : Kept (Part.andRegs [.cpw, .dcd, .dma, .dmaReq, .evrAt, .halo, .msv,
    .pos, .sets, .tpw]) s (State.sfiBegin s k) := by
  unfold State.sfiBegin
  dsimp only
  repeat' with_reducible first
    | exact .refl _
    | refine .step ?_ (by with_reducible first
        | exact .sfiSet .. | exact .putBit .. | exact .flag .. | exact .incSat .. | exact .evt ..
        | exact .convAssert .. | exact .stoEval .. | exact .stopSelect ..)
    | refine .machines ?_ ?_
    | (show (_ : List Part) ⊆ _; first | exact Part.sub (by decide +kernel) | (dsimp only; exact Part.sub (by decide +kernel)) | simp [Part.reaction, Part.butPending, Part.andRegs])
    | refine .ite ?_ ?_
    | intro _
    | split
    | refine .step ?_ (by with_reducible first
        | exact .halo_upd ..)

theorem Kept.sfiEnd (s : State) (k : Fin 16) : Kept [.dma, .dmaReq, .evrAt, .halo, .msv, .pos, .tpw, .block .dma,
    .block .hlo, .block .msv, .block .pos, .block .sfi, .block .ssf, .block .sto, .block .sys, .block .tpw] s
    (State.sfiEnd s k) := by
  unfold State.sfiEnd
  dsimp only
  repeat' with_reducible first
    | exact .refl _
    | refine .step ?_ (by with_reducible first
        | exact .sfiSet .. | exact .putBit .. | exact .flag .. | exact .evt .. | exact .stoEval ..)
    | intro _

theorem Kept.sfiDecide (s : State) (k : Fin 16) : Kept (Part.andRegs [.cpw, .dcd, .dma, .dmaReq, .evrAt, .halo, .msv,
    .pos, .sets, .tpw]) s (State.sfiDecide s k) := by
  unfold State.sfiDecide
  dsimp only
  repeat' with_reducible first
    | exact .refl _
    | refine .step ?_ (by with_reducible first
        | exact .flag .. | exact .sfiBegin .. | exact .sfiEnd ..)
    | refine .ite ?_ ?_
    | split

theorem Kept.sfiDiscrepancy (s : State) (k : Fin 16) : Kept (.pos :: Part.reaction) s (State.sfiDiscrepancy s k) := by
  unfold State.sfiDiscrepancy
  dsimp only
  repeat' with_reducible first
    | exact .refl _
    | refine .step ?_ (by with_reducible first
        | exact .flag .. | exact .sfiSet .. | exact .put .. | exact .incSat .. | exact .evt ..
        | exact .sfiFault ..)
    | refine .ite ?_ ?_
    | intro _
    | split

theorem Kept.sfiTestFail (s : State) (k : Fin 16) (latch evt : Fld) (code : Nat) : Kept (.pos :: Part.reaction) s
    (State.sfiTestFail s k latch evt code) := by
  unfold State.sfiTestFail
  dsimp only
  repeat' with_reducible first
    | exact .refl _
    | refine .step ?_ (by with_reducible first
        | exact .sfiSet .. | exact .flag .. | exact .incSat .. | exact .evt .. | exact .sfiFault ..)
    | refine .ite ?_ ?_
    | intro _
    | split

theorem Kept.sfiInPulse (s : State) (k : Fin 16) (j : Nat) (safe1 safe2 : Bool) : Kept (.pos :: Part.reaction) s
    (State.sfiInPulse s k j safe1 safe2) := by
  unfold State.sfiInPulse
  dsimp only
  repeat' with_reducible first
    | exact .refl _
    | refine .step ?_ (by with_reducible first
        | exact .sfiSet .. | exact .sfiTestFail ..)
    | refine .ite ?_ ?_
    | intro _
    | split

theorem Kept.sfiAfterPulse (s : State) (k : Fin 16) (j : Nat) (safe1 safe2 : Bool) : Kept (.pos :: Part.reaction) s
    (State.sfiAfterPulse s k j safe1 safe2) := by
  unfold State.sfiAfterPulse
  dsimp only
  repeat' with_reducible first
    | exact .refl _
    | refine .step ?_ (by with_reducible first
        | exact .sfiSet .. | exact .sfiTestFail ..)
    | refine .ite ?_ ?_
    | intro _
    | split

theorem Kept.sfiInput (s : State) (k : Fin 16) (lv1 lv2 : Bool) : Kept (.pos :: Part.reaction) s (State.sfiInput s k
    lv1 lv2) := by
  unfold State.sfiInput
  dsimp only
  repeat' with_reducible first
    | exact .refl _
    | refine .step ?_ (by with_reducible first
        | exact .sfiEnd .. | exact .sfiSet .. | exact .put .. | exact .sfiInPulse .. | exact .sfiAfterPulse ..
        | exact .sfiDiscrepancy .. | exact .sfiDecide ..)
    | refine .ite ?_ ?_
    | refine .foldl ?_ ?_ _
    | intro _
    | split

theorem Kept.sbcFault (s : State) (c : Fin 2) : Kept (.pos :: Part.reaction) s (State.sbcFault s c) := by
  unfold State.sbcFault
  dsimp only
  repeat' with_reducible first
    | exact .refl _
    | refine .step ?_ (by with_reducible first
        | exact .sbcApply .. | exact .put .. | exact .putBit .. | exact .evt .. | exact .raise ..)

theorem Kept.sbcSample (s : State) (c : Fin 2) (fb : Nat) : Kept (.pos :: Part.reaction) s (State.sbcSample s c fb)
    := by
  unfold State.sbcSample
  dsimp only
  repeat' with_reducible first
    | exact .refl _
    | refine .step ?_ (by with_reducible first
        | exact .sbcSet .. | exact .put .. | exact .sbcFault ..)
    | refine .ite ?_ ?_
    | intro _
    | split

theorem Kept.sampleXchg (s : State) : Kept (.pos :: Part.reaction) s (State.sampleXchg s) := by
  unfold State.sampleXchg
  repeat' with_reducible first
    | exact .refl _
    | refine .step ?_ (by with_reducible first
        | exact .evt .. | exact .raiseAt ..)

theorem Kept.sfiRecord (s : State) (v : W32) : Kept [.lks] s (State.sfiRecord s v) := by
  unfold State.sfiRecord
  repeat' with_reducible first
    | exact .refl _
    | refine .ite ?_ ?_
    | split
    | refine .step ?_ (by with_reducible first
        | exact .lks_upd ..)

theorem Kept.execSfiSample (dt : Nat) (rec1 rec2 : BitVec 32) (fb : BitVec 4) (s : State) : KeptOut (.now :: .pos ::
    Part.reaction) s (Machine.execSfiSample dt rec1 rec2 fb s) := by
  unfold Machine.execSfiSample
  dsimp only
  repeat' with_reducible first
    | exact .refl _
    | refine .step ?_ (by with_reducible first
        | exact .advance .. | exact .sbcSample .. | exact .sfiRecord .. | exact .sfiInput ..
        | exact .sampleXchg ..)
    | refine .next ?_
    | refine KeptOut.ite ?_ ?_
    | refine .ite ?_ ?_
    | refine .foldl ?_ ?_ _
    | intro _
    | split

theorem Kept.execTpoPulseStart (dt : Nat) (j : Fin 4) (s : State) : KeptOut [.halo, .now] s
    (Machine.execTpoPulseStart dt j s) := by
  unfold Machine.execTpoPulseStart
  dsimp only
  repeat' with_reducible first
    | exact .refl _
    | refine .step ?_ (by with_reducible first
        | exact .advance ..)
    | refine .next ?_
    | refine KeptOut.ite ?_ ?_
    | refine .ite ?_ ?_
    | split
    | refine .step ?_ (by with_reducible first
        | exact .halo_upd ..)

theorem Kept.execTpoPulseEnd (dt : Nat) (j : Fin 4) (s : State) : KeptOut [.halo, .now] s (Machine.execTpoPulseEnd dt
    j s) := by
  unfold Machine.execTpoPulseEnd
  dsimp only
  repeat' with_reducible first
    | exact .refl _
    | refine .step ?_ (by with_reducible first
        | exact .advance ..)
    | refine .next ?_
    | refine KeptOut.ite ?_ ?_
    | refine .ite ?_ ?_
    | split
    | refine .step ?_ (by with_reducible first
        | exact .halo_upd ..)

theorem Kept.sfiAck (s : State) (k : Fin 16) : Kept [.dma, .dmaReq, .evrAt, .halo, .msv, .pos, .tpw, .block .dma,
    .block .hlo, .block .msv, .block .pos, .block .sfi, .block .ssf, .block .sto, .block .sys, .block .tpw] s
    (State.sfiAck s k) := by
  unfold State.sfiAck
  dsimp only
  repeat' with_reducible first
    | exact .refl _
    | refine .step ?_ (by with_reducible first
        | exact .status .. | exact .flag .. | exact .put .. | exact .sfiSet .. | exact .sfiEnd ..)
    | refine .ite ?_ ?_
    | intro _
    | split

theorem Kept.sfiCmd (s : State) (op : Nat) (k : Fin 16) : Kept [.dma, .dmaReq, .evrAt, .halo, .msv, .pos, .tpw,
    .block .dma, .block .hlo, .block .msv, .block .pos, .block .sfi, .block .ssf, .block .sto, .block .sys, .block
    .tpw] s (State.sfiCmd s op k) := by
  unfold State.sfiCmd
  repeat' with_reducible first
    | exact .refl _
    | refine .step ?_ (by with_reducible first
        | exact .sfiAck .. | exact .setWord .. | exact .status ..)
    | refine .command ?_ ?_ ?_
    | (show (_ : List Part) ⊆ _; first | exact Part.sub (by decide +kernel) | (dsimp only; exact Part.sub (by decide +kernel)) | simp [Part.reaction, Part.butPending, Part.andRegs])
    | intro _
    | split

theorem Kept.execSfiAck (dt : Nat) (req : Req) (k : Fin 16) (s : State) : KeptOut [.dma, .dmaReq, .evrAt, .halo,
    .msv, .now, .pos, .tpw, .block .dma, .block .hlo, .block .msv, .block .pos, .block .sfi, .block .ssf, .block
    .sto, .block .sys, .block .tpw] s (Machine.execSfiAck dt req k s) := by
  unfold Machine.execSfiAck
  repeat' with_reducible first
    | exact .refl _
    | refine .step ?_ (by with_reducible first
        | exact .advance .. | exact .sfiCmd ..)
    | refine .haloCmd ?_ ?_ ?_
    | (show (_ : List Part) ⊆ _; first | exact Part.sub (by decide +kernel) | (dsimp only; exact Part.sub (by decide +kernel)) | simp [Part.reaction, Part.butPending, Part.andRegs])
    | refine .next ?_
    | intro _

theorem Kept.execSfiClrCnt (dt : Nat) (req : Req) (s : State) : KeptOut [.dma, .dmaReq, .evrAt, .halo, .msv, .now,
    .pos, .tpw, .block .dma, .block .hlo, .block .msv, .block .pos, .block .sfi, .block .ssf, .block .sto, .block
    .sys, .block .tpw] s (Machine.execSfiClrCnt dt req s) := by
  unfold Machine.execSfiClrCnt
  repeat' with_reducible first
    | exact .refl _
    | refine .step ?_ (by with_reducible first
        | exact .advance .. | exact .sfiCmd ..)
    | refine .haloCmd ?_ ?_ ?_
    | (show (_ : List Part) ⊆ _; first | exact Part.sub (by decide +kernel) | (dsimp only; exact Part.sub (by decide +kernel)) | simp [Part.reaction, Part.butPending, Part.andRegs])
    | refine .next ?_
    | intro _

theorem Kept.sbcRelease (s : State) (c : Fin 2) : Kept [.halo, .block .ssf] s (State.sbcRelease s c) := by
  unfold State.sbcRelease
  dsimp only
  repeat' with_reducible first
    | exact .refl _
    | refine .step ?_ (by with_reducible first
        | exact .sbcSet .. | exact .put .. | exact .putBit ..)
    | refine .ite ?_ ?_
    | intro _
    | split

theorem Kept.sbcAck (s : State) (c : Fin 2) : Kept [.block .ssf] s (State.sbcAck s c) := by
  unfold State.sbcAck
  dsimp only
  repeat' with_reducible first
    | exact .refl _
    | refine .step ?_ (by with_reducible first
        | exact .put .. | exact .putBit ..)

theorem Kept.ssfCmd (s : State) (op mask ch : Nat) : Kept (Part.andRegs [.dma, .dmaReq, .evrAt, .halo, .msv, .pos,
    .sets, .tpw]) s (State.ssfCmd s op mask ch) := by
  unfold State.ssfCmd
  dsimp only
  repeat' with_reducible first
    | exact .refl _
    | refine .step ?_ (by with_reducible first
        | exact .stopSelect .. | exact .sbcApply .. | exact .sbcRelease .. | exact .sbcAck .. | exact .status ..
        | exact .setWord ..)
    | refine .command ?_ ?_ ?_
    | refine .machines ?_ ?_
    | (show (_ : List Part) ⊆ _; first | exact Part.sub (by decide +kernel) | (dsimp only; exact Part.sub (by decide +kernel)) | simp [Part.reaction, Part.butPending, Part.andRegs])
    | refine .ite ?_ ?_
    | refine .foldl ?_ ?_ _
    | intro _
    | split

theorem Kept.ssfOp (s : State) (req op mask ch : Nat) : Kept (Part.andRegs [.dma, .dmaReq, .evrAt, .halo, .msv, .pos,
    .sets, .tpw]) s (State.ssfOp s req op mask ch) := by
  unfold State.ssfOp
  repeat' with_reducible first
    | exact .refl _
    | refine .step ?_ (by with_reducible first
        | exact .ssfCmd ..)
    | refine .haloCmd ?_ ?_ ?_
    | (show (_ : List Part) ⊆ _; first | exact Part.sub (by decide +kernel) | (dsimp only; exact Part.sub (by decide +kernel)) | simp [Part.reaction, Part.butPending, Part.andRegs])
    | intro _

theorem Kept.execSsfSs1 (dt : Nat) (req : Req) (mask : BitVec 3) (s : State) : KeptOut (Part.andRegs [.dma, .dmaReq,
    .evrAt, .halo, .msv, .now, .pos, .sets, .tpw]) s (Machine.execSsfSs1 dt req mask s) := by
  unfold Machine.execSsfSs1
  repeat' with_reducible first
    | exact .refl _
    | refine .step ?_ (by with_reducible first
        | exact .advance .. | exact .ssfOp ..)
    | refine .next ?_

theorem Kept.execSsfBrakeApply (dt : Nat) (req : Req) (ch : BitVec 2) (s : State) : KeptOut (Part.andRegs [.dma,
    .dmaReq, .evrAt, .halo, .msv, .now, .pos, .sets, .tpw]) s (Machine.execSsfBrakeApply dt req ch s) := by
  unfold Machine.execSsfBrakeApply
  repeat' with_reducible first
    | exact .refl _
    | refine .step ?_ (by with_reducible first
        | exact .advance .. | exact .ssfOp ..)
    | refine .next ?_

theorem Kept.execSsfBrakeRelease (dt : Nat) (req : Req) (ch : BitVec 2) (s : State) : KeptOut (Part.andRegs [.dma,
    .dmaReq, .evrAt, .halo, .msv, .now, .pos, .sets, .tpw]) s (Machine.execSsfBrakeRelease dt req ch s) := by
  unfold Machine.execSsfBrakeRelease
  repeat' with_reducible first
    | exact .refl _
    | refine .step ?_ (by with_reducible first
        | exact .advance .. | exact .ssfOp ..)
    | refine .next ?_

theorem Kept.execSsfSbcAck (dt : Nat) (req : Req) (ch : BitVec 2) (s : State) : KeptOut (Part.andRegs [.dma, .dmaReq,
    .evrAt, .halo, .msv, .now, .pos, .sets, .tpw]) s (Machine.execSsfSbcAck dt req ch s) := by
  unfold Machine.execSsfSbcAck
  repeat' with_reducible first
    | exact .refl _
    | refine .step ?_ (by with_reducible first
        | exact .advance .. | exact .ssfOp ..)
    | refine .next ?_

theorem Kept.execSsfClrCnt (dt : Nat) (req : Req) (s : State) : KeptOut (Part.andRegs [.dma, .dmaReq, .evrAt, .halo,
    .msv, .now, .pos, .sets, .tpw]) s (Machine.execSsfClrCnt dt req s) := by
  unfold Machine.execSsfClrCnt
  repeat' with_reducible first
    | exact .refl _
    | refine .step ?_ (by with_reducible first
        | exact .advance .. | exact .ssfOp ..)
    | refine .next ?_

theorem Kept.execSs1Timeout (dt : Nat) (m : Fin 3) (s : State) : KeptOut (Part.andRegs [.dma, .dmaReq, .evrAt, .halo,
    .msv, .now, .pos, .sets, .tpw]) s (Machine.execSs1Timeout dt m s) := by
  unfold Machine.execSs1Timeout
  dsimp only
  repeat' with_reducible first
    | exact .refl _
    | refine .step ?_ (by with_reducible first
        | exact .advance .. | exact .escalate ..)
    | refine .next ?_
    | refine KeptOut.ite ?_ ?_
    | refine .ite ?_ ?_
    | split

theorem Kept.execSbcApplyDelay (dt : Nat) (c : Fin 2) (s : State) : KeptOut [.halo, .now, .block .ssf] s
    (Machine.execSbcApplyDelay dt c s) := by
  unfold Machine.execSbcApplyDelay
  dsimp only
  repeat' with_reducible first
    | exact .refl _
    | refine .step ?_ (by with_reducible first
        | exact .advance .. | exact .sbcApply ..)
    | refine .next ?_
    | refine KeptOut.ite ?_ ?_
    | refine .ite ?_ ?_
    | split

theorem Kept.execSbcTestStart (dt : Nat) (c : Fin 2) (ls : Bool) (s : State) : KeptOut [.halo, .now, .block .ssf] s
    (Machine.execSbcTestStart dt c ls s) := by
  unfold Machine.execSbcTestStart
  dsimp only
  repeat' with_reducible first
    | exact .refl _
    | refine .step ?_ (by with_reducible first
        | exact .advance .. | exact .sbcSet .. | exact .put ..)
    | refine .next ?_
    | refine KeptOut.ite ?_ ?_
    | refine .ite ?_ ?_
    | intro _
    | split

theorem Kept.execSbcTestEnd (dt : Nat) (c : Fin 2) (fb1 fb2 : Bool) (s : State) : KeptOut (.now :: .pos ::
    Part.reaction) s (Machine.execSbcTestEnd dt c fb1 fb2 s) := by
  unfold Machine.execSbcTestEnd
  dsimp only
  repeat' with_reducible first
    | exact .refl _
    | refine .step ?_ (by with_reducible first
        | exact .advance .. | exact .sbcSet .. | exact .put .. | exact .sbcFault ..)
    | refine .next ?_
    | refine KeptOut.ite ?_ ?_
    | refine .ite ?_ ?_
    | intro _
    | split

end Sys2Proof.Machine
end

