-- ==== Sys2Proof/Laws/KeptAck.lean ====
section
/-! SUPPORT. What each operation of Machine/Ack.lean keeps. -/

namespace Sys2Proof.Machine
open Sys2Proof
set_option Elab.async false

theorem Kept.ackMachine (s : State) (m : Fin 3) : Kept [.dma, .dmaReq, .evrAt, .free, .halo, .msv, .pos, .tpw, .block
    .dma, .block .hlo, .block .msv, .block .pos, .block .ssf, .block .sto, .block .sys, .block .tpw] s
    (State.ackMachine s m).2 := by
  unfold State.ackMachine
  dsimp only
  repeat' with_reducible first
    | exact .refl _
    | refine .step ?_ (by with_reducible first
        | exact .tpwAck .. | exact .putBit .. | exact .stoEval ..)
    | refine .ite ?_ ?_
    | (rename_i h; refine .ofSnd h ?_) | (rename_i h; refine .ofFst h ?_)
    | split

theorem Kept.hloAck (s : State) (mask : Nat) : Kept [.dma, .dmaReq, .evrAt, .free, .halo, .msv, .pos, .tpw, .block
    .dma, .block .hlo, .block .msv, .block .pos, .block .ssf, .block .sto, .block .sys, .block .tpw] s (State.hloAck
    s mask) := by
  unfold State.hloAck
  dsimp only
  repeat' with_reducible first
    | exact .refl _
    | refine .step ?_ (by with_reducible first
        | exact .ackMachine .. | exact .status ..)
    | refine .ite ?_ ?_
    | refine .foldl ?_ ?_ _
    | refine .foldlSnd ?_ _ _ _ | refine .foldlFst ?_ _ _ _
    | (rename_i h; refine .ofSnd h ?_) | (rename_i h; refine .ofFst h ?_)
    | intro _
    | split

theorem Kept.execHloAck (dt : Nat) (req : Req) (mask : BitVec 3) (s : State) : KeptOut [.dma, .dmaReq, .evrAt, .free,
    .halo, .msv, .now, .pos, .tpw, .block .dma, .block .hlo, .block .msv, .block .pos, .block .ssf, .block .sto,
    .block .sys, .block .tpw] s (Machine.execHloAck dt req mask s) := by
  unfold Machine.execHloAck
  repeat' with_reducible first
    | exact .refl _
    | refine .step ?_ (by with_reducible first
        | exact .advance .. | exact .hloAck ..)
    | refine .haloCmd ?_ ?_ ?_
    | (show (_ : List Part) ⊆ _; first | exact Part.sub (by decide +kernel) | (dsimp only; exact Part.sub (by decide +kernel)) | simp [Part.reaction, Part.butPending, Part.andRegs])
    | refine .next ?_
    | intro _

end Sys2Proof.Machine
end

