-- ==== Sys2Proof/Laws/KeptCan.lean ====
section
/-! SUPPORT. What each operation of Machine/Can.lean keeps. -/

namespace Sys2Proof.Machine
open Sys2Proof
set_option Elab.async false

theorem Kept.canSet (s : State) (i : Fin 4) (f : CanH → CanH) : Kept [.canH] s (State.canSet s i f) := by
  unfold State.canSet
  repeat' with_reducible first
    | exact .refl _
    | refine .step ?_ (by with_reducible first
        | exact .canH_upd ..)

theorem Kept.canWindow (s : State) (i : Fin 4) (base : Nat) (e : Option (CanFrame × Nat)) : Kept [.block .can] s
    (State.canWindow s i base e) := by
  unfold State.canWindow
  dsimp only
  repeat' with_reducible first
    | exact .refl _
    | refine .step ?_ (by with_reducible first
        | exact .put .. | exact .setWord .. | exact .put64 ..)
    | refine .foldl ?_ ?_ _
    | intro _
    | split

theorem Kept.canShow (s : State) (i : Fin 4) : Kept [.block .can] s (State.canShow s i) := by
  unfold State.canShow
  dsimp only
  repeat' with_reducible first
    | exact .refl _
    | refine .step ?_ (by with_reducible first
        | exact .put .. | exact .flag .. | exact .canWindow ..)

theorem Kept.canGo (s : State) (i : Fin 4) (st : Nat) : Kept [.dma, .dmaReq, .evrAt, .block .can, .block .dma] s
    (State.canGo s i st) := by
  unfold State.canGo
  dsimp only
  repeat' with_reducible first
    | exact .refl _
    | refine .step ?_ (by with_reducible first
        | exact .put .. | exact .evtIf ..)

theorem Kept.canCheck (s : State) (i : Fin 4) : Kept (.pos :: Part.reaction) s (State.canCheck s i) := by
  unfold State.canCheck
  dsimp only
  repeat' with_reducible first
    | exact .refl _
    | refine .step ?_ (by with_reducible first
        | exact .canSet .. | exact .canGo .. | exact .raise ..)
    | refine .ite ?_ ?_
    | intro _
    | split

theorem Kept.canEnd (s : State) (i : Fin 4) : Kept [.canH, .dma, .dmaReq, .evrAt, .block .can, .block .dma] s
    (State.canEnd s i) := by
  unfold State.canEnd
  dsimp only
  repeat' with_reducible first
    | exact .refl _
    | refine .step ?_ (by with_reducible first
        | exact .canSet .. | exact .canShow .. | exact .canGo ..)
    | refine .ite ?_ ?_
    | intro _
    | split

theorem Kept.canCount (s : State) (i : Fin 4) (tec rec : Nat) : Kept [.block .can] s (State.canCount s i tec rec) :=
    by
  unfold State.canCount
  dsimp only
  repeat' with_reducible first
    | exact .refl _
    | refine .step ?_ (by with_reducible first
        | exact .put ..)

theorem Kept.canCmd (s : State) (i : Fin 4) (op : Nat) : Kept [.canH, .dma, .dmaReq, .evrAt, .block .can, .block
    .dma] s (State.canCmd s i op) := by
  unfold State.canCmd
  dsimp only
  repeat' with_reducible first
    | exact .refl _
    | refine .step ?_ (by with_reducible first
        | exact .canSet .. | exact .canGo .. | exact .canShow .. | exact .setWord .. | exact .status ..)
    | refine .command ?_ ?_ ?_
    | (show (_ : List Part) ⊆ _; first | exact Part.sub (by decide +kernel) | (dsimp only; exact Part.sub (by decide +kernel)) | simp [Part.reaction, Part.butPending, Part.andRegs])
    | refine .ite ?_ ?_
    | intro _
    | split

theorem Kept.execCanStart (dt : Nat) (_req : Req) (i : Fin 4) (s : State) : KeptOut [.canH, .dma, .dmaReq, .evrAt,
    .now, .block .can, .block .dma] s (Machine.execCanStart dt _req i s) := by
  unfold Machine.execCanStart
  repeat' with_reducible first
    | exact .refl _
    | refine .step ?_ (by with_reducible first
        | exact .advance .. | exact .canCmd ..)
    | refine .blockCmd ?_ ?_ ?_
    | (show (_ : List Part) ⊆ _; first | exact Part.sub (by decide +kernel) | (dsimp only; exact Part.sub (by decide +kernel)) | simp [Part.reaction, Part.butPending, Part.andRegs])
    | refine .next ?_
    | intro _

theorem Kept.execCanStop (dt : Nat) (_req : Req) (i : Fin 4) (s : State) : KeptOut [.canH, .dma, .dmaReq, .evrAt,
    .now, .block .can, .block .dma] s (Machine.execCanStop dt _req i s) := by
  unfold Machine.execCanStop
  repeat' with_reducible first
    | exact .refl _
    | refine .step ?_ (by with_reducible first
        | exact .advance .. | exact .canCmd ..)
    | refine .blockCmd ?_ ?_ ?_
    | (show (_ : List Part) ⊆ _; first | exact Part.sub (by decide +kernel) | (dsimp only; exact Part.sub (by decide +kernel)) | simp [Part.reaction, Part.butPending, Part.andRegs])
    | refine .next ?_
    | intro _

theorem Kept.execCanRecover (dt : Nat) (_req : Req) (i : Fin 4) (s : State) : KeptOut [.canH, .dma, .dmaReq, .evrAt,
    .now, .block .can, .block .dma] s (Machine.execCanRecover dt _req i s) := by
  unfold Machine.execCanRecover
  repeat' with_reducible first
    | exact .refl _
    | refine .step ?_ (by with_reducible first
        | exact .advance .. | exact .canCmd ..)
    | refine .blockCmd ?_ ?_ ?_
    | (show (_ : List Part) ⊆ _; first | exact Part.sub (by decide +kernel) | (dsimp only; exact Part.sub (by decide +kernel)) | simp [Part.reaction, Part.butPending, Part.andRegs])
    | refine .next ?_
    | intro _

theorem Kept.execCanTxuAbort (dt : Nat) (_req : Req) (i : Fin 4) (s : State) : KeptOut [.canH, .dma, .dmaReq, .evrAt,
    .now, .block .can, .block .dma] s (Machine.execCanTxuAbort dt _req i s) := by
  unfold Machine.execCanTxuAbort
  repeat' with_reducible first
    | exact .refl _
    | refine .step ?_ (by with_reducible first
        | exact .advance .. | exact .canCmd ..)
    | refine .blockCmd ?_ ?_ ?_
    | (show (_ : List Part) ⊆ _; first | exact Part.sub (by decide +kernel) | (dsimp only; exact Part.sub (by decide +kernel)) | simp [Part.reaction, Part.butPending, Part.andRegs])
    | refine .next ?_
    | intro _

theorem Kept.execCanFlush (dt : Nat) (_req : Req) (i : Fin 4) (s : State) : KeptOut [.canH, .dma, .dmaReq, .evrAt,
    .now, .block .can, .block .dma] s (Machine.execCanFlush dt _req i s) := by
  unfold Machine.execCanFlush
  repeat' with_reducible first
    | exact .refl _
    | refine .step ?_ (by with_reducible first
        | exact .advance .. | exact .canCmd ..)
    | refine .blockCmd ?_ ?_ ?_
    | (show (_ : List Part) ⊆ _; first | exact Part.sub (by decide +kernel) | (dsimp only; exact Part.sub (by decide +kernel)) | simp [Part.reaction, Part.butPending, Part.andRegs])
    | refine .next ?_
    | intro _

theorem Kept.execCanClrCnt (dt : Nat) (_req : Req) (i : Fin 4) (s : State) : KeptOut [.canH, .dma, .dmaReq, .evrAt,
    .now, .block .can, .block .dma] s (Machine.execCanClrCnt dt _req i s) := by
  unfold Machine.execCanClrCnt
  repeat' with_reducible first
    | exact .refl _
    | refine .step ?_ (by with_reducible first
        | exact .advance .. | exact .canCmd ..)
    | refine .blockCmd ?_ ?_ ?_
    | (show (_ : List Part) ⊆ _; first | exact Part.sub (by decide +kernel) | (dsimp only; exact Part.sub (by decide +kernel)) | simp [Part.reaction, Part.butPending, Part.andRegs])
    | refine .next ?_
    | intro _

theorem Kept.canWinWr (s : State) (i : Fin 4) (off req : Nat) (v : W32) : Kept [.canWin, .block .can] s
    (State.canWinWr s i off req v) := by
  unfold State.canWinWr
  repeat' with_reducible first
    | exact .refl _
    | refine .step ?_ (by with_reducible first
        | exact .refuse ..)
    | refine .ite ?_ ?_
    | intro _
    | split
    | refine .step ?_ (by with_reducible first
        | exact .canWin_upd ..)

theorem Kept.canPush (s : State) (i : Fin 4) (req push : Nat) : Kept [.canH, .block .can] s (State.canPush s i req
    push) := by
  unfold State.canPush
  dsimp only
  repeat' with_reducible first
    | exact .refl _
    | refine .step ?_ (by with_reducible first
        | exact .refuse .. | exact .incSat .. | exact .canSet .. | exact .canShow ..)
    | refine .ite ?_ ?_
    | intro _
    | split

theorem Kept.execCanPushFifo (dt : Nat) (req : Req) (i : Fin 4) (s : State) : KeptOut [.canH, .now, .block .can] s
    (Machine.execCanPushFifo dt req i s) := by
  unfold Machine.execCanPushFifo
  repeat' with_reducible first
    | exact .refl _
    | refine .step ?_ (by with_reducible first
        | exact .advance .. | exact .canPush ..)
    | refine .next ?_

theorem Kept.execCanPushTxu (dt : Nat) (req : Req) (i : Fin 4) (s : State) : KeptOut [.canH, .now, .block .can] s
    (Machine.execCanPushTxu dt req i s) := by
  unfold Machine.execCanPushTxu
  repeat' with_reducible first
    | exact .refl _
    | refine .step ?_ (by with_reducible first
        | exact .advance .. | exact .canPush ..)
    | refine .next ?_

theorem Kept.canRxPop (s : State) (i : Fin 4) : Kept [.canH, .block .can] s (State.canRxPop s i) := by
  unfold State.canRxPop
  repeat' with_reducible first
    | exact .refl _
    | refine .step ?_ (by with_reducible first
        | exact .refuse .. | exact .canSet .. | exact .canShow ..)
    | refine .ite ?_ ?_
    | intro _
    | split

theorem Kept.canHpPop (s : State) (i : Fin 4) : Kept [.canH, .block .can] s (State.canHpPop s i) := by
  unfold State.canHpPop
  repeat' with_reducible first
    | exact .refl _
    | refine .step ?_ (by with_reducible first
        | exact .refuse .. | exact .canSet .. | exact .canShow ..)
    | refine .ite ?_ ?_
    | intro _
    | split

theorem Kept.execCanRxpop (dt : Nat) (_req : Req) (i : Fin 4) (s : State) : KeptOut [.canH, .now, .block .can] s
    (Machine.execCanRxpop dt _req i s) := by
  unfold Machine.execCanRxpop
  repeat' with_reducible first
    | exact .refl _
    | refine .step ?_ (by with_reducible first
        | exact .advance .. | exact .canRxPop ..)
    | refine .next ?_

theorem Kept.execCanHppop (dt : Nat) (_req : Req) (i : Fin 4) (s : State) : KeptOut [.canH, .now, .block .can] s
    (Machine.execCanHppop dt _req i s) := by
  unfold Machine.execCanHppop
  repeat' with_reducible first
    | exact .refl _
    | refine .step ?_ (by with_reducible first
        | exact .advance .. | exact .canHpPop ..)
    | refine .next ?_

theorem Kept.execCanStartOfFrame (dt : Nat) (i : Fin 4) (s : State) : KeptOut [.canH, .now] s
    (Machine.execCanStartOfFrame dt i s) := by
  unfold Machine.execCanStartOfFrame
  dsimp only
  repeat' with_reducible first
    | exact .refl _
    | refine .step ?_ (by with_reducible first
        | exact .advance .. | exact .canSet ..)
    | refine .next ?_
    | refine KeptOut.ite ?_ ?_
    | refine .ite ?_ ?_
    | intro _
    | split

theorem Kept.canDeliver (s : State) (i : Fin 4) (f : CanFrame) : Kept (.pos :: Part.reaction) s (State.canDeliver s i
    f) := by
  unfold State.canDeliver
  dsimp only
  repeat' with_reducible first
    | exact .refl _
    | refine .step ?_ (by with_reducible first
        | exact .incSat .. | exact .evt .. | exact .raise .. | exact .canSet .. | exact .canShow ..)
    | refine .ite ?_ ?_
    | intro _
    | split

theorem Kept.execCanTxDone (dt : Nat) (i : Fin 4) (tdc : Fin 128) (s : State) : KeptOut (.now :: .pos ::
    Part.reaction) s (Machine.execCanTxDone dt i tdc s) := by
  unfold Machine.execCanTxDone
  dsimp only
  repeat' with_reducible first
    | exact .refl _
    | refine .step ?_ (by with_reducible first
        | exact .advance .. | exact .put64 .. | exact .evt .. | exact .evtIf .. | exact .put ..
        | exact .canSet .. | exact .canDeliver .. | exact .canCheck .. | exact .canEnd ..)
    | refine .next ?_
    | refine KeptOut.ite ?_ ?_
    | refine .ite ?_ ?_
    | intro _
    | split

theorem Kept.canGood (s : State) (i : Fin 4) : Kept [.free, .block .can] s (State.canGood s i) := by
  unfold State.canGood
  dsimp only
  repeat' with_reducible first
    | exact .refl _
    | refine .step ?_ (by with_reducible first
        | exact .freshNat .. | exact .put ..)
    | refine .ite ?_ ?_
    | (rename_i h; refine .ofSnd h ?_) | (rename_i h; refine .ofFst h ?_)
    | split

theorem Kept.execCanRxFrame (dt : Nat) (i : Fin 4) (f : CanFrame) (s : State) : KeptOut (.free :: .now :: .pos ::
    Part.reaction) s (Machine.execCanRxFrame dt i f s) := by
  unfold Machine.execCanRxFrame
  dsimp only
  repeat' with_reducible first
    | exact .refl _
    | refine .step ?_ (by with_reducible first
        | exact .advance .. | exact .canCount .. | exact .canCheck .. | exact .canEnd .. | exact .canGood ..
        | exact .incSat .. | exact .canDeliver ..)
    | refine .next ?_
    | refine KeptOut.ite ?_ ?_
    | refine .ite ?_ ?_
    | split

theorem Kept.execCanError (dt : Nat) (i : Fin 4) (e : CanErr) (s : State) : KeptOut (.now :: .pos :: Part.reaction) s
    (Machine.execCanError dt i e s) := by
  unfold Machine.execCanError
  dsimp only
  repeat' with_reducible first
    | exact .refl _
    | refine .step ?_ (by with_reducible first
        | exact .advance .. | exact .canCount .. | exact .canCheck .. | exact .canEnd ..)
    | refine .next ?_
    | refine KeptOut.ite ?_ ?_
    | refine .ite ?_ ?_
    | split

theorem Kept.execCanIdleDetect (dt : Nat) (i : Fin 4) (s : State) : KeptOut (.now :: .pos :: Part.reaction) s
    (Machine.execCanIdleDetect dt i s) := by
  unfold Machine.execCanIdleDetect
  dsimp only
  repeat' with_reducible first
    | exact .refl _
    | refine .step ?_ (by with_reducible first
        | exact .advance .. | exact .canSet .. | exact .canGo .. | exact .canCheck ..)
    | refine .next ?_
    | refine KeptOut.ite ?_ ?_
    | refine .ite ?_ ?_
    | intro _
    | split

theorem Kept.execCanRecoveryDone (dt : Nat) (i : Fin 4) (s : State) : KeptOut [.dma, .dmaReq, .evrAt, .now, .block
    .can, .block .dma] s (Machine.execCanRecoveryDone dt i s) := by
  unfold Machine.execCanRecoveryDone
  dsimp only
  repeat' with_reducible first
    | exact .refl _
    | refine .step ?_ (by with_reducible first
        | exact .advance .. | exact .put .. | exact .canGo ..)
    | refine .next ?_
    | refine KeptOut.ite ?_ ?_
    | refine .ite ?_ ?_
    | split

theorem Kept.execHeadAge (dt : Nat) (i : Fin 4) (s : State) : KeptOut (.now :: .pos :: Part.reaction) s
    (Machine.execHeadAge dt i s) := by
  unfold Machine.execHeadAge
  dsimp only
  repeat' with_reducible first
    | exact .refl _
    | refine .step ?_ (by with_reducible first
        | exact .advance .. | exact .canSet .. | exact .evt .. | exact .raise ..)
    | refine .next ?_
    | refine KeptOut.ite ?_ ?_
    | refine .ite ?_ ?_
    | intro _
    | split

end Sys2Proof.Machine
end

