-- ==== Sys2Proof/Laws/KeptFlash.lean ====
section
/-! SUPPORT. What each operation of Machine/Flash.lean keeps. -/

namespace Sys2Proof.Machine
open Sys2Proof
set_option Elab.async false

theorem Kept.flsLast (s : State) (code : Nat) : Kept [.block .arb] s (State.flsLast s code) := by
  unfold State.flsLast
  repeat' with_reducible first
    | exact .refl _
    | refine .step ?_ (by with_reducible first
        | exact .put ..)

theorem Kept.flsGo (s : State) (op : FlashOp) : Kept [.arb, .block .arb] s (State.flsGo s op) := by
  unfold State.flsGo
  repeat' with_reducible first
    | exact .refl _
    | refine .step ?_ (by with_reducible first
        | exact .flag ..)
    | refine .step ?_ (by with_reducible first
        | exact .arb_upd ..)

theorem Kept.flsCmd (s : State) (op : Nat) : Kept [.arb, .block .arb] s (State.flsCmd s op) := by
  unfold State.flsCmd
  dsimp only
  repeat' with_reducible first
    | exact .refl _
    | refine .step ?_ (by with_reducible first
        | exact .countCmd .. | exact .flsLast .. | exact .flsGo ..)
    | refine .ite ?_ ?_
    | split

theorem Kept.flsWrite (s : State) (req op : Nat) : Kept [.arb, .keys, .block .arb] s (State.flsWrite s req op) := by
  unfold State.flsWrite
  repeat' with_reducible first
    | exact .refl _
    | refine .step ?_ (by with_reducible first
        | exact .flsCmd .. | exact .refuse ..)
    | refine .withKey ?_ ?_ ?_
    | (show (_ : List Part) ⊆ _; first | exact Part.sub (by decide +kernel) | (dsimp only; exact Part.sub (by decide +kernel)) | simp [Part.reaction, Part.butPending, Part.andRegs])
    | refine .ite ?_ ?_
    | intro _
    | split

theorem Kept.execFlsProgram (dt : Nat) (req : Req) (s : State) : KeptOut [.arb, .keys, .now, .block .arb] s
    (Machine.execFlsProgram dt req s) := by
  unfold Machine.execFlsProgram
  repeat' with_reducible first
    | exact .refl _
    | refine .step ?_ (by with_reducible first
        | exact .advance .. | exact .flsWrite ..)
    | refine .next ?_

theorem Kept.execFlsErase (dt : Nat) (req : Req) (s : State) : KeptOut [.arb, .keys, .now, .block .arb] s
    (Machine.execFlsErase dt req s) := by
  unfold Machine.execFlsErase
  repeat' with_reducible first
    | exact .refl _
    | refine .step ?_ (by with_reducible first
        | exact .advance .. | exact .flsWrite ..)
    | refine .next ?_

theorem Kept.eraseBytes (s : State) (a n : Nat) : Kept [.mem] s (s.eraseBytes a n) := by
  induction n generalizing s a with
  | zero => exact .refl _
  | succ n ih => exact .trans (.wrByte ..) (ih ..)

theorem Kept.freeBytes (s : State) (a n : Nat) : Kept [.free, .mem] s (s.freeBytes a n) := by
  induction n generalizing s a with
  | zero => exact .refl _
  | succ n ih =>
    exact .trans (.step (.step (.refl s) (.freshWord s) (by decide)) (.wrByte ..) (by decide)) (ih ..)

theorem Kept.execFlashOpDone (dt : Nat) (ok : Bool) (s : State) : KeptOut [.arb, .dma, .dmaReq, .evrAt, .free, .mem,
    .now, .block .arb, .block .dma, .block .hlo, .block .sys] s (Machine.execFlashOpDone dt ok s) := by
  unfold Machine.execFlashOpDone
  dsimp only
  repeat' with_reducible first
    | exact .refl _
    | refine .step ?_ (by with_reducible first
        | exact .advance .. | exact .flag .. | exact .wrMem .. | exact .flsLast .. | exact .eraseBytes ..
        | exact .freeBytes .. | exact .note .. | exact .evt ..)
    | refine .next ?_
    | refine KeptOut.ite ?_ ?_
    | refine .ite ?_ ?_
    | refine .foldl ?_ ?_ _
    | refine .foldlSnd ?_ _ _ _ | refine .foldlFst ?_ _ _ _
    | intro _
    | split
    | refine .step ?_ (by with_reducible first
        | exact .arb_upd ..)

end Sys2Proof.Machine
end

