-- ==== Sys2Proof/Laws/KeptCirrusAdm.lean ====
section
/-! SUPPORT. What each operation of Machine/CirrusAdm.lean keeps. -/

namespace Sys2Proof.Machine
open Sys2Proof
set_option Elab.async false

theorem Kept.cirFigures (s t : State) : Kept [.block .cir, .block .ctx] s (State.cirFigures s t) := by
  unfold State.cirFigures
  dsimp only
  repeat' with_reducible first
    | exact .refl _
    | refine .step ?_ (by with_reducible first
        | exact .put .. | exact .flag ..)
    | refine .foldl ?_ ?_ _
    | intro _

theorem Kept.cirRefused (s : State) (f : Nat × Nat × Nat) : Kept [.dma, .dmaReq, .evrAt, .block .cir, .block .dma] s
    (State.cirRefused s f) := by
  unfold State.cirRefused
  dsimp only
  repeat' with_reducible first
    | exact .refl _
    | refine .step ?_ (by with_reducible first
        | exact .put .. | exact .flag .. | exact .evt ..)

theorem Kept.notchCommit (s : State) (k : Nat) : Kept [.block .ctx] s (State.notchCommit s k) := by
  unfold State.notchCommit
  dsimp only
  repeat' with_reducible first
    | exact .refl _
    | refine .step ?_ (by with_reducible first
        | exact .setWord ..)
    | refine .foldl ?_ ?_ _
    | refine .foldlSnd ?_ _ _ _ | refine .foldlFst ?_ _ _ _
    | intro _

end Sys2Proof.Machine
end

