-- ==== Sys2Proof/Laws/KeptOperands.lean ====
section
/-! SUPPORT. What each operation of Machine/Operands.lean keeps. -/

namespace Sys2Proof.Machine
open Sys2Proof
set_option Elab.async false

theorem Kept.setSet (s : State) (req : Nat) (c : CSet) : Kept [.sets] s (State.setSet s req c) := by
  unfold State.setSet
  repeat' with_reducible first
    | exact .refl _
    | refine .ite ?_ ?_
    | split
    | refine .step ?_ (by with_reducible first
        | exact .sets_upd ..)

end Sys2Proof.Machine
end

