-- ==== Sys2Proof/Laws/KeptAdmission.lean ====
section
/-! SUPPORT. What each operation of Machine/Admission.lean keeps. -/

namespace Sys2Proof.Machine
open Sys2Proof
set_option Elab.async false

theorem Kept.withSet (s : State) (c : CSet) : Kept Part.allRegs s (State.withSet s c) := by
  unfold State.withSet
  repeat' with_reducible first
    | exact .refl _
    | refine .step ?_ (by with_reducible first
        | exact .wr ..)
    | refine .foldl ?_ ?_ _
    | intro _

theorem Kept.admitSet (s : State) (c : CSet) : Kept (Part.andRegs [.dma, .dmaReq, .evrAt]) s (State.admitSet s c).2
    := by
  unfold State.admitSet
  dsimp only
  repeat' with_reducible first
    | exact .refl _
    | refine .step ?_ (by with_reducible first
        | exact .withSet .. | exact .cirRefused .. | exact .cirFigures ..)
    | refine .ite ?_ ?_
    | split

end Sys2Proof.Machine
end

