-- ==== Sys2Proof/Laws/KeptComparator.lean ====
section
/-! SUPPORT. What each operation of Machine/Comparator.lean keeps. -/

namespace Sys2Proof.Machine
open Sys2Proof
set_option Elab.async false

theorem Kept.lksFault (s : State) (i : Nat) (x : Fld) (code react : Nat) : Kept (.pos :: Part.reaction) s
    (State.lksFault s i x code react) := by
  unfold State.lksFault
  dsimp only
  repeat' with_reducible first
    | exact .refl _
    | refine .step ?_ (by with_reducible first
        | exact .evt .. | exact .raiseAt .. | exact .raise ..)
    | refine .ite ?_ ?_
    | split

theorem Kept.railFault (s : State) (c : Nat) : Kept (.pos :: Part.reaction) s (State.railFault s c) := by
  unfold State.railFault
  repeat' with_reducible first
    | exact .refl _
    | refine .step ?_ (by with_reducible first
        | exact .putBit .. | exact .lksFault ..)

theorem Kept.testMiss (s : State) (c : Nat) : Kept (.pos :: Part.reaction) s (State.testMiss s c) := by
  unfold State.testMiss
  repeat' with_reducible first
    | exact .refl _
    | refine .step ?_ (by with_reducible first
        | exact .putBit .. | exact .lksFault ..)

theorem Kept.testDone (s : State) (c : Nat) : Kept [.dma, .dmaReq, .evrAt, .block .dma, .block .lks] s
    (State.testDone s c) := by
  unfold State.testDone
  dsimp only
  repeat' with_reducible first
    | exact .refl _
    | refine .step ?_ (by with_reducible first
        | exact .incWrap .. | exact .put .. | exact .putBit .. | exact .evt ..)
    | refine .ite ?_ ?_
    | split

theorem Kept.execComparatorProbe (dt : Nat) (c : Fin 4) (u : CmpUpset) (s : State) : KeptOut (.now :: .pos ::
    Part.reaction) s (Machine.execComparatorProbe dt c u s) := by
  unfold Machine.execComparatorProbe
  dsimp only
  repeat' with_reducible first
    | exact .refl _
    | refine .step ?_ (by with_reducible first
        | exact .advance .. | exact .railFault .. | exact .testDone .. | exact .testMiss ..)
    | refine .next ?_
    | refine KeptOut.ite ?_ ?_
    | refine .ite ?_ ?_
    | split
    | refine .step ?_ (by with_reducible first
        | exact .lks_upd ..)

theorem Kept.execSelftestMiss (dt : Nat) (c : Fin 4) (s : State) : KeptOut (.now :: .pos :: Part.reaction) s
    (Machine.execSelftestMiss dt c s) := by
  unfold Machine.execSelftestMiss
  dsimp only
  repeat' with_reducible first
    | exact .refl _
    | refine .step ?_ (by with_reducible first
        | exact .advance .. | exact .testMiss ..)
    | refine .next ?_
    | refine KeptOut.ite ?_ ?_
    | refine .ite ?_ ?_
    | split
    | refine .step ?_ (by with_reducible first
        | exact .lks_upd ..)

theorem Kept.lksCommitted (s o : State) : Kept [.lks] s (State.lksCommitted s o) := by
  unfold State.lksCommitted
  repeat' with_reducible first
    | exact .refl _
    | refine .ite ?_ ?_
    | split
    | refine .step ?_ (by with_reducible first
        | exact .lks_upd ..)

theorem Kept.execTransWindowStart (dt : Nat) (s : State) : KeptOut [.now, .block .lks] s
    (Machine.execTransWindowStart dt s) := by
  unfold Machine.execTransWindowStart
  dsimp only
  repeat' with_reducible first
    | exact .refl _
    | refine .step ?_ (by with_reducible first
        | exact .advance .. | exact .put ..)
    | refine .next ?_
    | refine KeptOut.ite ?_ ?_
    | refine .ite ?_ ?_
    | refine .foldl ?_ ?_ _
    | intro _
    | split

theorem Kept.lksCmd (s : State) (op : Nat) : Kept [.lks, .block .lks] s (State.lksCmd s op) := by
  unfold State.lksCmd
  dsimp only
  repeat' with_reducible first
    | exact .refl _
    | refine .step ?_ (by with_reducible first
        | exact .put .. | exact .put64 .. | exact .status ..)
    | refine .command ?_ ?_ ?_
    | (show (_ : List Part) ⊆ _; first | exact Part.sub (by decide +kernel) | (dsimp only; exact Part.sub (by decide +kernel)) | simp [Part.reaction, Part.butPending, Part.andRegs])
    | refine .foldl ?_ ?_ _
    | intro _
    | split
    | refine .step ?_ (by with_reducible first
        | exact .lks_upd ..)

theorem Kept.execLksClrCnt (dt : Nat) (req : Req) (s : State) : KeptOut [.lks, .now, .block .lks] s
    (Machine.execLksClrCnt dt req s) := by
  unfold Machine.execLksClrCnt
  repeat' with_reducible first
    | exact .refl _
    | refine .step ?_ (by with_reducible first
        | exact .advance .. | exact .lksCmd ..)
    | refine .haloCmd ?_ ?_ ?_
    | (show (_ : List Part) ⊆ _; first | exact Part.sub (by decide +kernel) | (dsimp only; exact Part.sub (by decide +kernel)) | simp [Part.reaction, Part.butPending, Part.andRegs])
    | refine .next ?_
    | intro _

theorem Kept.execLksProbe (dt : Nat) (req : Req) (s : State) : KeptOut [.lks, .now, .block .lks] s
    (Machine.execLksProbe dt req s) := by
  unfold Machine.execLksProbe
  repeat' with_reducible first
    | exact .refl _
    | refine .step ?_ (by with_reducible first
        | exact .advance .. | exact .lksCmd ..)
    | refine .haloCmd ?_ ?_ ?_
    | (show (_ : List Part) ⊆ _; first | exact Part.sub (by decide +kernel) | (dsimp only; exact Part.sub (by decide +kernel)) | simp [Part.reaction, Part.butPending, Part.andRegs])
    | refine .next ?_
    | intro _

theorem Kept.pairSlack (s : State) (r t : Nat) : Kept [.pslack] s (State.pairSlack s r t) := by
  unfold State.pairSlack
  repeat' with_reducible first
    | exact .refl _
    | refine .ite ?_ ?_
    | split
    | refine .step ?_ (by with_reducible first
        | exact .pslack_upd ..)

end Sys2Proof.Machine
end

