-- ==== Sys2Proof/Laws/KeptCommit.lean ====
section
/-! SUPPORT. What each operation of Machine/Commit.lean keeps. -/

namespace Sys2Proof.Machine
open Sys2Proof
set_option Elab.async false

theorem Kept.writeStaged (s : State) (ws : List Staged) : Kept Part.allRegs s (State.writeStaged s ws) := by
  unfold State.writeStaged
  repeat' with_reducible first
    | exact .refl _
    | refine .step ?_ (by with_reducible first
        | exact .wr ..)
    | refine .foldl ?_ ?_ _
    | intro _

theorem Kept.dcdEnable (s : State) : Kept [.cpw, .dcd, .dma, .dmaReq, .evrAt, .block .dcd, .block .dma] s
    (State.dcdEnable s) := by
  unfold State.dcdEnable
  dsimp only
  repeat' with_reducible first
    | exact .refl _
    | refine .step ?_ (by with_reducible first
        | exact .dcdLatch .. | exact .dcdGo .. | exact .dcdLow ..)
    | refine .ite ?_ ?_
    | split
    | refine .step ?_ (by with_reducible first
        | exact .dcd_upd ..)

theorem Kept.tbuCommitted (s o : State) (ws : List Staged) : Kept (.lg :: .pos :: Part.reaction) s
    (State.tbuCommitted s o ws) := by
  unfold State.tbuCommitted
  dsimp only
  repeat' with_reducible first
    | exact .refl _
    | refine .step ?_ (by with_reducible first
        | exact .lgCommit .. | exact .lgCheckMaster ..)
    | refine .ite ?_ ?_
    | refine .foldl ?_ ?_ _
    | intro _
    | split

theorem Kept.measureCommitted (s o : State) (ws : List Staged) : Kept (Part.andRegs [.adf, .adh, .adr, .dma, .dmaReq,
    .evrAt, .halo, .msv, .pos, .sets, .tpw]) s (State.measureCommitted s o ws) := by
  unfold State.measureCommitted
  dsimp only
  repeat' with_reducible first
    | exact .refl _
    | refine .step ?_ (by with_reducible first
        | exact .adfReselect .. | exact .adfDisable .. | exact .adfEnable .. | exact .adhEnable ..
        | exact .adhContinuous .. | exact .adrEnable .. | exact .posCommit ..)
    | refine .ite ?_ ?_
    | refine .foldl ?_ ?_ _
    | intro _
    | split

theorem Kept.ctxsCommitted (s o : State) (ws : List Staged) : Kept (.adf :: .adh :: .adr :: .ctxs :: .engAt :: .lg ::
    .pos :: .pslack :: .tbu :: Part.reaction) s (State.ctxsCommitted s o ws) := by
  unfold State.ctxsCommitted
  repeat' with_reducible first
    | exact .refl _
    | refine .step ?_ (by with_reducible first
        | exact .ctxCommitted .. | exact .notchCommit ..)
    | refine .foldl ?_ ?_ _
    | intro _

theorem Kept.tractionCommitted (s o : State) (ws : List Staged) : Kept [.dma, .dmaReq, .evrAt, .halo, .msv, .pos,
    .tpw, .block .dma, .block .ghb, .block .hlo, .block .msv, .block .pos, .block .ssf, .block .sto, .block .sys,
    .block .tpw] s (State.tractionCommitted s o ws) := by
  unfold State.tractionCommitted
  dsimp only
  repeat' with_reducible first
    | exact .refl _
    | refine .step ?_ (by with_reducible first
        | exact .msvEnable .. | exact .lhActive .. | exact .ghbDeliver .. | exact .tpwRefreshAll ..)
    | refine .ite ?_ ?_
    | refine .foldl ?_ ?_ _
    | intro _
    | split

theorem Kept.bchMoved (s o : State) : Kept [.bch, .cpw] s (State.bchMoved s o) := by
  unfold State.bchMoved
  dsimp only
  repeat' with_reducible first
    | exact .refl _
    | refine .step ?_ (by with_reducible first
        | exact .bchLow .. | exact .cpwLegLow ..)
    | refine .ite ?_ ?_
    | intro _
    | split

theorem Kept.converterCommitted (s o : State) : Kept [.bch, .cpw, .dcd, .dev, .dma, .dmaReq, .evrAt, .obc, .block
    .bch, .block .dcd, .block .dma, .block .obc] s (State.converterCommitted s o) := by
  unfold State.converterCommitted
  dsimp only
  repeat' with_reducible first
    | exact .refl _
    | refine .step ?_ (by with_reducible first
        | exact .bchMoved .. | exact .dcdEnable .. | exact .obcEnable .. | exact .bchEnable ..)
    | refine .ite ?_ ?_
    | split

theorem Kept.actuatorCommitted (s o : State) : Kept (.pos :: Part.reaction) s (State.actuatorCommitted s o) := by
  unfold State.actuatorCommitted
  dsimp only
  repeat' with_reducible first
    | exact .refl _
    | refine .step ?_ (by with_reducible first
        | exact .actEnable .. | exact .actHall ..)
    | refine .ite ?_ ?_
    | refine .foldl ?_ ?_ _
    | intro _
    | split

theorem Kept.fabricCommitted (s o : State) (ws : List Staged) : Kept [.clf, .dma, .dmaReq, .evrAt, .block .clf,
    .block .dma, .block .hlo, .block .sys] s (State.fabricCommitted s o ws) := by
  unfold State.fabricCommitted
  dsimp only
  repeat' with_reducible first
    | exact .refl _
    | refine .step ?_ (by with_reducible first
        | exact .clfCommitted ..)
    | refine .ite ?_ ?_
    | intro _
    | split

theorem Kept.generalCommitted (s o : State) (ws : List Staged) : Kept (.lg :: .pos :: .tbu :: Part.reaction) s
    (State.generalCommitted s o ws) := by
  unfold State.generalCommitted
  dsimp only
  repeat' with_reducible first
    | exact .refl _
    | refine .step ?_ (by with_reducible first
        | exact .tbuCommitted .. | exact .fabEnable .. | exact .dmaCommitted .. | exact .arbClear ..)
    | refine .ite ?_ ?_
    | refine .foldl ?_ ?_ _
    | intro _
    | split

theorem Kept.takeDomain (s : State) (d : Domain) (ws : List Staged) : Kept (.adf :: .adh :: .adr :: .ctxs :: .engAt
    :: .lg :: .pos :: .pslack :: .tbu :: Part.reaction) s (State.takeDomain s d ws) := by
  unfold State.takeDomain
  dsimp only
  repeat' with_reducible first
    | exact .refl _
    | refine .step ?_ (by with_reducible first
        | exact .ctxFreeze .. | exact .writeStaged .. | exact .flag .. | exact .generalCommitted ..
        | exact .measureCommitted .. | exact .ctxsCommitted .. | exact .tractionCommitted ..
        | exact .converterCommitted .. | exact .actuatorCommitted .. | exact .fabricCommitted ..
        | exact .lksCommitted .. | exact .stoEval .. | exact .ghbDeliver ..)
    | refine .ite ?_ ?_
    | refine .foldl ?_ ?_ _
    | intro _
    | split
    | refine .step ?_ (by with_reducible first
        | exact .scf_upd ..)

theorem Kept.commitStep (s : State) (r : Fin 16) : Kept (.adf :: .adh :: .adr :: .ctxs :: .engAt :: .lg :: .pos ::
    .pslack :: .tbu :: Part.reaction) s (State.commitStep s r) := by
  unfold State.commitStep
  dsimp only
  repeat' with_reducible first
    | exact .refl _
    | refine .step ?_ (by with_reducible first
        | exact .takeDomain .. | exact .pairSlack .. | exact .put .. | exact .csetEnd .. | exact .flag ..)
    | refine .ite ?_ ?_
    | refine .foldl ?_ ?_ _
    | intro _
    | split
    | refine .step ?_ (by with_reducible first
        | exact .sets_upd ..)

theorem Kept.commitAt (s : State) (b : Boundary) : Kept (.adf :: .adh :: .adr :: .ctxs :: .engAt :: .lg :: .pos ::
    .pslack :: .tbu :: Part.reaction) s (State.commitAt s b) := by
  unfold State.commitAt
  dsimp only
  repeat' with_reducible first
    | exact .refl _
    | refine .step ?_ (by with_reducible first
        | exact .commitStep .. | exact .scfRevertApply ..)
    | refine .ite ?_ ?_
    | refine .foldl ?_ ?_ _
    | intro _
    | split

theorem Kept.execDomainCommit (dt : Nat) (b : Boundary) (s : State) : KeptOut (.adf :: .adh :: .adr :: .ctxs ::
    .engAt :: .lg :: .now :: .pos :: .pslack :: .tbu :: Part.reaction) s (Machine.execDomainCommit dt b s) := by
  unfold Machine.execDomainCommit
  repeat' with_reducible first
    | exact .refl _
    | refine .step ?_ (by with_reducible first
        | exact .advance .. | exact .commitAt ..)
    | refine .next ?_

end Sys2Proof.Machine
end

