-- ==== Sys2Proof/Laws/KeptChangeSet.lean ====
section
/-! SUPPORT. What each operation of Machine/ChangeSet.lean keeps. -/

namespace Sys2Proof.Machine
open Sys2Proof
set_option Elab.async false

theorem Kept.csetStage (s : State) (req : Nat) (p : Page) : Kept [.sets, .block p.blk] s (State.csetStage s req p) :=
    by
  unfold State.csetStage
  dsimp only
  repeat' with_reducible first
    | exact .refl _
    | refine .step ?_ (by with_reducible first
        | exact .setSet .. | exact .put ..)
    | refine .ite ?_ ?_
    | split

theorem Kept.csetAbort (s : State) (req : Nat) (p : Page) : Kept (Part.andRegs [.sets]) s (State.csetAbort s req p)
    := by
  unfold State.csetAbort
  dsimp only
  repeat' with_reducible first
    | exact .refl _
    | refine .step ?_ (by with_reducible first
        | exact .csetLast .. | exact .csetEnd ..)
    | refine .ite ?_ ?_
    | split

theorem Kept.csetResult (s : State) (c : CSet) (code : Nat) : Kept Part.allRegs s (State.csetResult s c code) := by
  unfold State.csetResult
  repeat' with_reducible first
    | exact .refl _
    | refine .step ?_ (by with_reducible first
        | exact .csetLast ..)
    | refine .foldl ?_ ?_ _
    | intro _

theorem Kept.csetFrozen (s : State) (r : Fin 16) (c : CSet) (ordered : Bool) (plan : List (Domain × Boundary)) (log :
    Nat) : Kept [.sets] s (State.csetFrozen s r c ordered plan log) := by
  unfold State.csetFrozen
  repeat' with_reducible first
    | exact .refl _
    | refine .step ?_ (by with_reducible first
        | exact .sets_upd ..)

theorem Kept.csetFreeze (s : State) (r : Fin 16) (ordered : Bool) (plan : List (Domain × Boundary)) : Kept
    (Part.andRegs [.dev, .dma, .dmaReq, .evrAt, .scf, .sets]) s (State.csetFreeze s r ordered plan) := by
  unfold State.csetFreeze
  dsimp only
  repeat' with_reducible first
    | exact .refl _
    | refine .step ?_ (by with_reducible first
        | exact .put .. | exact .admitSet .. | exact .csetEnd .. | exact .slgPush .. | exact .csetFrozen ..)
    | refine .ite ?_ ?_
    | refine .foldl ?_ ?_ _
    | refine .foldlSnd ?_ _ _ _ | refine .foldlFst ?_ _ _ _
    | (rename_i h; refine .ofSnd h ?_) | (rename_i h; refine .ofFst h ?_)
    | intro _
    | split
    | refine .step ?_ (by with_reducible first
        | exact .dev_upd ..)

theorem Kept.csetCommit (s : State) (req : Nat) (p : Page) : Kept (Part.andRegs [.dev, .dma, .dmaReq, .evrAt, .scf,
    .sets]) s (State.csetCommit s req p) := by
  unfold State.csetCommit
  dsimp only
  repeat' with_reducible first
    | exact .refl _
    | refine .step ?_ (by with_reducible first
        | exact .csetLast .. | exact .csetResult .. | exact .csetFreeze ..)
    | refine .ite ?_ ?_
    | split

theorem Kept.csetWrite (s : State) (req : Nat) (p : Page) (be val : Nat) : Kept (Part.andRegs [.dev, .dma, .dmaReq,
    .evrAt, .scf, .sets]) s (State.csetWrite s req p be val) := by
  unfold State.csetWrite
  dsimp only
  repeat' with_reducible first
    | exact .refl _
    | refine .step ?_ (by with_reducible first
        | exact .refuse .. | exact .csetLast .. | exact .setWord .. | exact .csetStage .. | exact .csetCommit ..
        | exact .csetAbort ..)
    | refine .ite ?_ ?_
    | split

theorem Kept.csetRow (s : State) (req : Nat) (p : Page) (val : W32) (op : Nat) : Kept (Part.andRegs [.dev, .dma,
    .dmaReq, .evrAt, .scf, .sets]) s (State.csetRow s req p val op) := by
  unfold State.csetRow
  repeat' with_reducible first
    | exact .refl _
    | refine .step ?_ (by with_reducible first
        | exact .csetWrite ..)
    | refine .ite ?_ ?_
    | split

theorem Kept.execCsetStage (dt : Nat) (req : Req) (page : Page) (val : W32) (s : State) : KeptOut (Part.andRegs
    [.dev, .dma, .dmaReq, .evrAt, .now, .scf, .sets]) s (Machine.execCsetStage dt req page val s) := by
  unfold Machine.execCsetStage
  repeat' with_reducible first
    | exact .refl _
    | refine .step ?_ (by with_reducible first
        | exact .advance .. | exact .csetRow ..)
    | refine .next ?_

theorem Kept.execCsetCommit (dt : Nat) (req : Req) (page : Page) (val : W32) (s : State) : KeptOut (Part.andRegs
    [.dev, .dma, .dmaReq, .evrAt, .now, .scf, .sets]) s (Machine.execCsetCommit dt req page val s) := by
  unfold Machine.execCsetCommit
  repeat' with_reducible first
    | exact .refl _
    | refine .step ?_ (by with_reducible first
        | exact .advance .. | exact .csetRow ..)
    | refine .next ?_

theorem Kept.execCsetAbort (dt : Nat) (req : Req) (page : Page) (val : W32) (s : State) : KeptOut (Part.andRegs
    [.dev, .dma, .dmaReq, .evrAt, .now, .scf, .sets]) s (Machine.execCsetAbort dt req page val s) := by
  unfold Machine.execCsetAbort
  repeat' with_reducible first
    | exact .refl _
    | refine .step ?_ (by with_reducible first
        | exact .advance .. | exact .csetRow ..)
    | refine .next ?_

end Sys2Proof.Machine
end

