-- ==== Sys2Proof/Laws/KeptCrc.lean ====
section
/-! SUPPORT. What each operation of Machine/Crc.lean keeps. -/

namespace Sys2Proof.Machine
open Sys2Proof
set_option Elab.async false

theorem Kept.crcStart (s : State) (p : Page) : Kept [.block p.blk] s (State.crcStart s p) := by
  unfold State.crcStart
  dsimp only
  repeat' with_reducible first
    | exact .refl _
    | refine .step ?_ (by with_reducible first
        | exact .put .. | exact .flag ..)
    | refine .ite ?_ ?_
    | (rename_i h; refine .ofSnd h ?_) | (rename_i h; refine .ofFst h ?_)
    | split

theorem Kept.crcFeed (s : State) (p : Page) (bs : List Nat) : Kept [.block p.blk] s (State.crcFeed s p bs) := by
  unfold State.crcFeed
  dsimp only
  repeat' with_reducible first
    | exact .refl _
    | refine .step ?_ (by with_reducible first
        | exact .put ..)
    | (rename_i h; refine .ofSnd h ?_) | (rename_i h; refine .ofFst h ?_)
    | split

theorem Kept.crcDin (s : State) (p : Page) (be val : Nat) : Kept [.block p.blk] s (State.crcDin s p be val) := by
  unfold State.crcDin
  dsimp only
  repeat' with_reducible first
    | exact .refl _
    | refine .step ?_ (by with_reducible first
        | exact .refuse .. | exact .crcFeed .. | exact .put ..)
    | refine .ite ?_ ?_
    | intro _
    | split

theorem Kept.crcOwned {F : List Part} {r s : State} {p : Page} {req : Nat} {f : State → State} (hs : Kept F r s)
    (hF : [.block p.blk] ⊆ F) (hf : ∀ t, Kept F t (f t)) : Kept F r (s.crcOwned p req f) :=
  .ite (hs.trans (hf s)) (.step hs (.refuse ..) hF)

theorem Kept.execCrcStart (dt : Nat) (req : Req) (i : Fin 4) (s : State) : KeptOut [.now, .block .crc] s
    (Machine.execCrcStart dt req i s) := by
  unfold Machine.execCrcStart
  repeat' with_reducible first
    | exact .refl _
    | refine .step ?_ (by with_reducible first
        | exact .advance .. | exact .crcStart ..)
    | refine .crcOwned ?_ ?_ ?_
    | (show (_ : List Part) ⊆ _; first | exact Part.sub (by decide +kernel) | (dsimp only; exact Part.sub (by decide +kernel)) | simp [Part.reaction, Part.butPending, Part.andRegs])
    | refine .next ?_
    | intro _

theorem Kept.execCrcDinWrite (dt : Nat) (req : Req) (i : Fin 4) (be : BitVec 4) (val : W32) (s : State) : KeptOut
    [.now, .block .crc] s (Machine.execCrcDinWrite dt req i be val s) := by
  unfold Machine.execCrcDinWrite
  repeat' with_reducible first
    | exact .refl _
    | refine .step ?_ (by with_reducible first
        | exact .advance .. | exact .crcDin ..)
    | refine .crcOwned ?_ ?_ ?_
    | (show (_ : List Part) ⊆ _; first | exact Part.sub (by decide +kernel) | (dsimp only; exact Part.sub (by decide +kernel)) | simp [Part.reaction, Part.butPending, Part.andRegs])
    | refine .next ?_
    | intro _

end Sys2Proof.Machine
end

