-- ==== Sys2Proof/Laws/KeptServices.lean ====
section
/-! SUPPORT. What each operation of Machine/Services.lean keeps. -/

namespace Sys2Proof.Machine
open Sys2Proof
set_option Elab.async false

theorem lockPlace_blk (l : Nat) : [.block (lockPlace l).1.blk] ⊆ [Part.block .adh, .block .crc, .block .dma] := by
  unfold lockPlace
  (repeat' split) <;> simp

theorem Kept.lockAcq (s : State) (l req : Nat) : Kept [.block .adh, .block .crc, .block .dma] s (s.lockAcq l req) :=
    by
  have h := lockPlace_blk l
  unfold State.lockAcq
  dsimp only
  exact .ite (.refl _) (.ite (.step (.refl _) (.incSat ..) h) (.step (.step (.refl _) (.flag ..) h) (.put ..) h))

theorem Kept.lockStop (s : State) (l : Nat) : Kept [.adhLost] s (State.lockStop s l) := by
  unfold State.lockStop
  repeat' with_reducible first
    | exact .refl _
    | refine .ite ?_ ?_
    | split
    | refine .step ?_ (by with_reducible first
        | exact .adhLost_upd ..)

theorem Kept.lockRel (s : State) (l req : Nat) : Kept [.adhLost, .block .adh, .block .crc, .block .dma] s (s.lockRel
    l req) := by
  have h : [.block (lockPlace l).1.blk] ⊆ [Part.adhLost, .block .adh, .block .crc, .block .dma] :=
    fun q hq => List.mem_cons_of_mem _ (lockPlace_blk l hq)
  unfold State.lockRel
  dsimp only
  exact .ite (.refl _) (.ite (.step (.step (.refl _) (.flag ..) h) (.lockStop ..)) (.step (.refl _) (.incSat ..) h))

theorem Kept.execOwnerAcq (dt : Nat) (req : Req) (lock : Nat) (rival : Option Req) (s : State) : KeptOut [.now,
    .block .adh, .block .crc, .block .dma] s (Machine.execOwnerAcq dt req lock rival s) := by
  unfold Machine.execOwnerAcq
  dsimp only
  repeat' with_reducible first
    | exact .refl _
    | refine .step ?_ (by with_reducible first
        | exact .advance .. | exact .lockAcq ..)
    | refine .next ?_
    | split

theorem Kept.execOwnerRel (dt : Nat) (req : Req) (lock : Nat) (s : State) : KeptOut [.adhLost, .now, .block .adh,
    .block .crc, .block .dma] s (Machine.execOwnerRel dt req lock s) := by
  unfold Machine.execOwnerRel
  repeat' with_reducible first
    | exact .refl _
    | refine .step ?_ (by with_reducible first
        | exact .advance .. | exact .lockRel ..)
    | refine .next ?_

theorem Kept.ownerWrite (s : State) (req : Nat) (p : Page) (lock : Option Nat) (v : Nat) : Kept [.adhLost, .block
    .adh, .block .crc, .block .dma, .block p.blk] s (State.ownerWrite s req p lock v) := by
  unfold State.ownerWrite
  dsimp only
  repeat' with_reducible first
    | exact .refl _
    | refine .step ?_ (by with_reducible first
        | exact .lockAcq .. | exact .lockRel .. | exact .incSat ..)
    | refine .ite ?_ ?_
    | split

theorem Kept.evtForce (s : State) (req : Nat) (p : Page) (v : Nat) : Kept [.dma, .dmaReq, .evrAt, .block .dma, .block
    p.blk] s (State.evtForce s req p v) := by
  unfold State.evtForce
  repeat' with_reducible first
    | exact .refl _
    | refine .step ?_ (by with_reducible first
        | exact .refuse .. | exact .evtBits ..)
    | refine .ite ?_ ?_
    | split

theorem Kept.evtClear (s : State) (req : Nat) (p : Page) (v hw : Nat) : Kept [.dma, .dmaReq, .evrAt, .block .dma,
    .block p.blk] s (State.evtClear s req p v hw) := by
  unfold State.evtClear
  dsimp only
  repeat' with_reducible first
    | exact .refl _
    | refine .step ?_ (by with_reducible first
        | exact .refuse .. | exact .evtBits .. | exact .put ..)
    | refine .withLine ?_ ?_ ?_
    | (show (_ : List Part) ⊆ _; first | exact Part.sub (by decide +kernel) | (dsimp only; exact Part.sub (by decide +kernel)) | simp [Part.reaction, Part.butPending, Part.andRegs])
    | refine .ite ?_ ?_
    | intro _
    | split

theorem Kept.execEvtForce (dt : Nat) (req : Req) (page : Page) (val : W32) (s : State) : KeptOut [.dma, .dmaReq,
    .evrAt, .now, .block .dma, .block page.blk] s (Machine.execEvtForce dt req page val s) := by
  unfold Machine.execEvtForce
  dsimp only
  repeat' with_reducible first
    | exact .refl _
    | refine .step ?_ (by with_reducible first
        | exact .advance .. | exact .evtForce ..)
    | refine .next ?_
    | refine KeptOut.ite ?_ ?_
    | refine .ite ?_ ?_
    | split

theorem Kept.execEvtClear (dt : Nat) (req : Req) (page : Page) (val : W32) (hw : W32) (s : State) : KeptOut [.dma,
    .dmaReq, .evrAt, .now, .block .dma, .block page.blk] s (Machine.execEvtClear dt req page val hw s) := by
  unfold Machine.execEvtClear
  dsimp only
  repeat' with_reducible first
    | exact .refl _
    | refine .step ?_ (by with_reducible first
        | exact .advance .. | exact .evtClear ..)
    | refine .next ?_
    | refine KeptOut.ite ?_ ?_
    | refine .ite ?_ ?_
    | split

theorem Kept.dropSet (s : State) (p : Page) : Kept (Part.andRegs [.sets]) s (State.dropSet s p) := by
  unfold State.dropSet
  repeat' with_reducible first
    | exact .refl _
    | refine .step ?_ (by with_reducible first
        | exact .csetEnd ..)
    | refine .ite ?_ ?_
    | split

theorem Kept.wordReset (s : State) (a : Nat) : Kept Part.allRegs s (State.wordReset s a) := by
  unfold State.wordReset
  repeat' with_reducible first
    | exact .refl _
    | refine .step ?_ (by with_reducible first
        | exact .wr ..)

theorem Kept.wordsReset (s : State) (f : Nat → Bool) : Kept Part.allRegs s (State.wordsReset s f) := by
  unfold State.wordsReset
  repeat' with_reducible first
    | exact .refl _
    | refine .step ?_ (by with_reducible first
        | exact .wordReset ..)
    | refine .ite ?_ ?_
    | refine .foldl ?_ ?_ _
    | refine .foldlSnd ?_ _ _ _ | refine .foldlFst ?_ _ _ _
    | intro _
    | split

theorem Kept.clearPage (s : State) (p : Page) : Kept (Part.andRegs [.keys, .lows, .snaps]) s (s.clearPage p) := by
  refine .trans ((Kept.wordsReset s _).mono (List.subset_append_right ..)) (.raw (fun q hq => ?_) rfl rfl)
  cases q
  case block b => exact fun _ _ => rfl
  all_goals first
    | rfl
    | exact absurd (by decide +kernel) hq

theorem Kept.cpwClear (s : State) (n : Fin 8) : Kept [.cpw, .cpwCmp] s (s.cpwClear n) := by
  refine .raw (fun q hq => ?_) rfl rfl
  cases q
  case block b => exact fun _ _ => rfl
  all_goals first
    | rfl
    | exact absurd (by decide +kernel) hq

theorem Kept.clfClear (s : State) : Kept (Part.andRegs [.clf]) s (s.clfClear) := by
  refine .trans ((Kept.wordsReset s _).mono (List.subset_append_right ..)) (.raw (fun q hq => ?_) rfl rfl)
  cases q
  case block b => exact fun _ _ => rfl
  all_goals first
    | rfl
    | exact absurd (by decide +kernel) hq

theorem Kept.adhClear (s : State) (u : Fin 4) : Kept [.adh, .adhLost] s (s.adhClear u) := by
  refine .raw (fun q hq => ?_) rfl rfl
  cases q
  case block b => exact fun _ _ => rfl
  all_goals first
    | rfl
    | exact absurd (by decide +kernel) hq

theorem Kept.ctxClear (s : State) : Kept (Part.andRegs [.ctxs, .engAt, .zslack]) s (s.ctxClear) := by
  refine .trans ((Kept.wordsReset s _).mono (List.subset_append_right ..)) (.raw (fun q hq => ?_) rfl rfl)
  cases q
  case block b => exact fun _ _ => rfl
  all_goals first
    | rfl
    | exact absurd (by decide +kernel) hq

theorem Kept.dmaClear (s : State) : Kept [.dma, .dmaReq] s (s.dmaClear) := by
  refine .raw (fun q hq => ?_) rfl rfl
  cases q
  case block b => exact fun _ _ => rfl
  all_goals first
    | rfl
    | exact absurd (by decide +kernel) hq

theorem Kept.adrRestart (s : State) : Kept [.adr] s (State.adrRestart s) := by
  unfold State.adrRestart
  repeat' with_reducible first
    | exact .refl _
    | refine .ite ?_ ?_
    | refine .foldl ?_ ?_ _
    | intro _
    | split
    | refine .step ?_ (by with_reducible first
        | exact .adr_upd ..)

theorem Kept.canClear (s : State) (i : Fin 4) : Kept [.canH, .canWin] s (s.canClear i) := by
  refine .raw (fun q hq => ?_) rfl rfl
  cases q
  case block b => exact fun _ _ => rfl
  all_goals first
    | rfl
    | exact absurd (by decide +kernel) hq

theorem Kept.clearHidden (s : State) (p : Page) : Kept (Part.andRegs [.act, .adf, .adh, .adhLost, .adr, .bch, .canH,
    .canWin, .clf, .cpw, .cpwCmp, .ctxs, .dcd, .dma, .dmaReq, .engAt, .evrAt, .halo, .msv, .obc, .pos, .tpw,
    .zslack]) s (State.clearHidden s p) := by
  unfold State.clearHidden
  dsimp only
  repeat' with_reducible first
    | exact .refl _
    | refine .step ?_ (by with_reducible first
        | exact .flag .. | exact .tpwRefresh .. | exact .stoEval .. | exact .ghbDeliver .. | exact .cpwClear ..
        | exact .canClear .. | exact .loseLocks .. | exact .clfClear .. | exact .adhClear .. | exact .put ..
        | exact .adrRestart .. | exact .ctxClear .. | exact .dmaClear ..)
    | refine .ite ?_ ?_
    | split
    | refine .step ?_ (by with_reducible first
        | exact .act_upd .. | exact .adf_upd .. | exact .bch_upd .. | exact .dcd_upd .. | exact .msv_upd ..
        | exact .obc_upd .. | exact .pos_upd .. | exact .tpw_upd ..)

theorem Kept.beforeClear (s : State) (p : Page) : Kept [.act, .bch, .canH, .clf, .cpw, .dcd, .dma, .dmaReq, .evrAt,
    .msv, .obc, .tpw, .block .act, .block .can, .block .clf, .block .dcd, .block .dma, .block .msv] s
    (State.beforeClear s p) := by
  unfold State.beforeClear
  repeat' with_reducible first
    | exact .refl _
    | refine .step ?_ (by with_reducible first
        | exact .msvRelease .. | exact .bchLow .. | exact .dcdLow .. | exact .obcLow .. | exact .actLow ..
        | exact .canInit .. | exact .clfOff ..)
    | refine .ite ?_ ?_
    | split

theorem Kept.softRst (s : State) (req : Nat) (p : Page) : Kept (Part.andRegs [.act, .adf, .adh, .adhLost, .adr, .bch,
    .canH, .canWin, .clf, .cpw, .cpwCmp, .ctxs, .dcd, .dma, .dmaReq, .engAt, .evrAt, .halo, .keys, .lows, .msv, .obc,
    .pos, .sets, .snaps, .tpw, .zslack]) s (State.softRst s req p) := by
  unfold State.softRst
  repeat' with_reducible first
    | exact .refl _
    | refine .step ?_ (by with_reducible first
        | exact .refuse .. | exact .dropSet .. | exact .beforeClear .. | exact .clearPage ..
        | exact .clearHidden .. | exact .countCmd ..)
    | refine .ite ?_ ?_
    | split

theorem Kept.execSoftRst (dt : Nat) (req : Req) (page : Page) (s : State) : KeptOut (Part.andRegs [.act, .adf, .adh,
    .adhLost, .adr, .bch, .canH, .canWin, .clf, .cpw, .cpwCmp, .ctxs, .dcd, .dma, .dmaReq, .engAt, .evrAt, .halo,
    .keys, .lows, .msv, .now, .obc, .pos, .sets, .snaps, .tpw, .zslack]) s (Machine.execSoftRst dt req page s) := by
  unfold Machine.execSoftRst
  dsimp only
  repeat' with_reducible first
    | exact .refl _
    | refine .step ?_ (by with_reducible first
        | exact .advance .. | exact .softRst ..)
    | refine .next ?_
    | refine KeptOut.ite ?_ ?_
    | refine .ite ?_ ?_
    | split

end Sys2Proof.Machine
end

