-- ==== Sys2Proof/Laws/KeptAccess.lean ====
section
/-! SUPPORT. What each operation of Machine/Access.lean keeps. -/

namespace Sys2Proof.Machine
open Sys2Proof
set_option Elab.async false

@[simp] theorem errPage_blk (p : Page) : (errPage p).blk = .cir ∨ (errPage p).blk = .clf ∨ (errPage p).blk = p.blk := by
  unfold errPage
  split <;> simp [*]

@[simp] theorem errPage_blk' (p : Page) (c : Block) :
    (errPage p).blk = .cir ∨ (errPage p).blk = .clf ∨ (errPage p).blk = c ∨ (errPage p).blk = p.blk := by
  rcases errPage_blk p with h | h | h <;> simp [h]

theorem Kept.storeWord (s : State) (req : Nat) (p : Page) (off be : Nat) (r : RegDef) (v : Nat) : Kept [.keys, .sets,
    .block p.blk] s (State.storeWord s req p off be r v).2 := by
  unfold State.storeWord
  dsimp only
  repeat' with_reducible first
    | exact .refl _
    | refine .step ?_ (by with_reducible first
        | exact .setUnlock .. | exact .setWord .. | exact .setSet ..)
    | refine .ite ?_ ?_
    | intro _
    | split

theorem Kept.regStore (s : State) (req : Nat) (p : Page) (off be : Nat) (r : RegDef) (v : Nat) : Kept [.keys, .sets,
    .block .cir, .block .clf, .block p.blk] s (State.regStore s req p off be r v) := by
  unfold State.regStore
  dsimp only
  repeat' with_reducible first
    | exact .refl _
    | refine .step ?_ (by with_reducible first
        | exact .storeWord .. | exact .refuse ..)
    | refine .ite ?_ ?_
    | (rename_i h; refine .ofSnd h ?_) | (rename_i h; refine .ofFst h ?_)
    | split

theorem Kept.holdLo (s : State) (req : Nat) (p : Page) (off v : Nat) : Kept [.lows] s (State.holdLo s req p off v) :=
    by
  unfold State.holdLo
  repeat' with_reducible first
    | exact .refl _
    | refine .step ?_ (by with_reducible first
        | exact .lows_upd ..)

theorem Kept.storeHi (s : State) (req : Nat) (p : Page) (off be : Nat) (r : RegDef) (v : Nat) : Kept [.keys, .lows,
    .sets, .block .cir, .block .clf, .block p.blk] s (State.storeHi s req p off be r v) := by
  unfold State.storeHi
  dsimp only
  repeat' with_reducible first
    | exact .refl _
    | refine .step ?_ (by with_reducible first
        | exact .storeWord .. | exact .refuse .. | exact .regStore ..)
    | refine .ite ?_ ?_
    | (rename_i h; refine .ofSnd h ?_) | (rename_i h; refine .ofFst h ?_)
    | intro _
    | split
    | refine .step ?_ (by with_reducible first
        | exact .lows_upd ..)

theorem Kept.headerWrite (s : State) (req : Nat) (p : Page) (off be v val : Nat) : KeptOpt (Part.andRegs [.adhLost,
    .dev, .dma, .dmaReq, .evrAt, .keys, .scf, .sets]) s (State.headerWrite s req p off be v val) := by
  unfold State.headerWrite
  dsimp only
  repeat' with_reducible first
    | exact .refl _
    | refine .step ?_ (by with_reducible first
        | exact .evtClear .. | exact .put .. | exact .evtForce .. | exact .keyWrite .. | exact .csetWrite ..
        | exact .flag .. | exact .ownerWrite ..)
    | refine .withLine ?_ ?_ ?_
    | (show (_ : List Part) ⊆ _; first | exact Part.sub (by decide +kernel) | (dsimp only; exact Part.sub (by decide +kernel)) | simp [Part.reaction, Part.butPending, Part.andRegs])
    | refine .some ?_ | exact .none | refine KeptOpt.ite ?_ ?_
    | refine .ite ?_ ?_
    | intro _
    | split

theorem Kept.hloCmd (s : State) (op mask : Nat) : Kept [.dma, .dmaReq, .evrAt, .free, .halo, .msv, .pos, .tpw, .block
    .dma, .block .hlo, .block .msv, .block .pos, .block .ssf, .block .sto, .block .sys, .block .tpw] s (State.hloCmd
    s op mask) := by
  unfold State.hloCmd
  repeat' with_reducible first
    | exact .refl _
    | refine .step ?_ (by with_reducible first
        | exact .hloAck .. | exact .hloClrLog .. | exact .hloClrFirst .. | exact .status ..)
    | split

theorem Kept.stoCmd (s : State) (op mask : Nat) : Kept [.cpw, .dcd, .dma, .dmaReq, .evrAt, .halo, .msv, .pos, .tpw,
    .block .dcd, .block .dma, .block .hlo, .block .msv, .block .pos, .block .ssf, .block .sto, .block .sys, .block
    .tpw] s (State.stoCmd s op mask) := by
  unfold State.stoCmd
  repeat' with_reducible first
    | exact .refl _
    | refine .step ?_ (by with_reducible first
        | exact .stoRelease .. | exact .stoCmdAssert .. | exact .convRelease .. | exact .convCmdAssert ..
        | exact .status ..)
    | split

theorem Kept.scfOp (s : State) (req op len : Nat) : Kept (Part.andRegs [.dev, .dma, .dmaReq, .evrAt, .scf, .sets]) s
    (State.scfOp s req op len) := by
  unfold State.scfOp
  repeat' with_reducible first
    | exact .refl _
    | refine .step ?_ (by with_reducible first
        | exact .scfOpen .. | exact .scfCloseCmd .. | exact .scfSetPwd .. | exact .scfConfirm ..
        | exact .scfRevert .. | exact .status ..)
    | refine .scfLen ?_ ?_ ?_
    | refine .scfCmd ?_ ?_ ?_
    | (show (_ : List Part) ⊆ _; first | exact Part.sub (by decide +kernel) | (dsimp only; exact Part.sub (by decide +kernel)) | simp [Part.reaction, Part.butPending, Part.andRegs])
    | intro _
    | split

theorem Kept.haloWrite (s : State) (req : Nat) (p : Page) (off v : Nat) : KeptOpt (.free :: .pos :: Part.reaction) s
    (State.haloWrite s req p off v) := by
  unfold State.haloWrite
  dsimp only
  repeat' with_reducible first
    | exact .refl _
    | refine .step ?_ (by with_reducible first
        | exact .kick .. | exact .hloCmd .. | exact .lksCmd .. | exact .sfiCmd .. | exact .stoCmd ..
        | exact .ssfOp .. | exact .scfOp .. | exact .setWord .. | exact .slgRead ..)
    | refine .haloCmd ?_ ?_ ?_
    | (show (_ : List Part) ⊆ _; first | exact Part.sub (by decide +kernel) | (dsimp only; exact Part.sub (by decide +kernel)) | simp [Part.reaction, Part.butPending, Part.andRegs])
    | refine .some ?_ | exact .none | refine KeptOpt.ite ?_ ?_
    | refine .ite ?_ ?_
    | intro _
    | split

theorem Kept.dmaWrite (s : State) (req off v : Nat) : KeptOpt [.adhLost, .dma, .block .adh, .block .crc, .block .dma]
    s (State.dmaWrite s req off v) := by
  unfold State.dmaWrite
  dsimp only
  repeat' with_reducible first
    | exact .refl _
    | refine .step ?_ (by with_reducible first
        | exact .dmaOp .. | exact .dmaRptr .. | exact .flag .. | exact .ownerWrite ..)
    | refine .some ?_ | exact .none | refine KeptOpt.ite ?_ ?_
    | refine .ite ?_ ?_
    | split

theorem Kept.canWrite (s : State) (req : Nat) (i : Fin 4) (off be v val : Nat) : KeptOpt [.canH, .canWin, .dma,
    .dmaReq, .evrAt, .block .can, .block .dma] s (State.canWrite s req i off be v val) := by
  unfold State.canWrite
  dsimp only
  repeat' with_reducible first
    | exact .refl _
    | refine .step ?_ (by with_reducible first
        | exact .canCmd .. | exact .canPush .. | exact .canRxPop .. | exact .canHpPop .. | exact .canWinWr ..)
    | refine .blockCmd ?_ ?_ ?_
    | (show (_ : List Part) ⊆ _; first | exact Part.sub (by decide +kernel) | (dsimp only; exact Part.sub (by decide +kernel)) | simp [Part.reaction, Part.butPending, Part.andRegs])
    | refine .some ?_ | exact .none | refine KeptOpt.ite ?_ ?_
    | refine .ite ?_ ?_
    | intro _
    | split

theorem Kept.blockWrite (s : State) (req : Nat) (p : Page) (off be v val : Nat) (r : RegDef) : KeptOpt
    Part.butPending s (State.blockWrite s req p off be v val r) := by
  unfold State.blockWrite
  dsimp only
  repeat' with_reducible first
    | exact .refl _
    | refine .step ?_ (by with_reducible first
        | exact .regStore .. | exact .dcmd .. | exact .keyRevoke .. | exact .rstCmd .. | exact .arbOp ..
        | exact .flsWrite .. | exact .crcStart .. | exact .crcDin .. | exact .tpwCmd .. | exact .tpwCmp ..
        | exact .actOp .. | exact .actTgt .. | exact .actCmp .. | exact .posOp .. | exact .cirOp ..
        | exact .adfInject .. | exact .dcdVset .. | exact .dcdCmd .. | exact .obcOp .. | exact .obcFrame ..
        | exact .refuse .. | exact .msvTcmd .. | exact .msvOp .. | exact .bchCmd .. | exact .clfOp ..
        | exact .swapAt .. | exact .ringRptr ..)
    | refine .withKey ?_ ?_ ?_
    | refine .crcOwned ?_ ?_ ?_
    | refine .blockCmd ?_ ?_ ?_
    | (show (_ : List Part) ⊆ _; first | exact Part.sub (by decide +kernel) | (dsimp only; exact Part.sub (by decide +kernel)) | simp [Part.reaction, Part.butPending, Part.andRegs])
    | refine .some ?_ | exact .none | refine KeptOpt.ite ?_ ?_
    | refine KeptOpt.mono (by with_reducible first
        | exact Kept.dmaWrite .. | exact Kept.canWrite .. | exact Kept.haloWrite ..)
    | refine .ite ?_ ?_
    | intro _
    | split

theorem Kept.afterWrite (s : State) (req : Nat) (p : Page) (off v : Nat) : Kept (Part.andRegs [.act, .adf, .adh,
    .adhLost, .adr, .bch, .canH, .canWin, .clf, .cpw, .cpwCmp, .ctxs, .dcd, .dma, .dmaReq, .engAt, .evrAt, .halo,
    .keys, .lows, .msv, .obc, .pos, .sets, .snaps, .tpw, .zslack]) s (State.afterWrite s req p off v) := by
  unfold State.afterWrite
  dsimp only
  repeat' with_reducible first
    | exact .refl _
    | refine .step ?_ (by with_reducible first
        | exact .softRst .. | exact .flag .. | exact .adhRegGo .. | exact .adhGo ..)
    | refine .ite ?_ ?_
    | split

theorem Kept.regAct (s : State) (req : Nat) (p : Page) (off be v val : Nat) (r : RegDef) : KeptOpt Part.butPending s
    (State.regAct s req p off be v val r) := by
  unfold State.regAct
  repeat' with_reducible first
    | exact .refl _
    | refine .some ?_ | exact .none | refine KeptOpt.ite ?_ ?_
    | refine KeptOpt.mono (by with_reducible first
        | exact Kept.headerWrite .. | exact Kept.blockWrite ..)
    | refine .ite ?_ ?_
    | split

theorem Kept.regWrite (s : State) (req addr be val : Nat) : Kept Part.butPending s (State.regWrite s req addr be val)
    := by
  unfold State.regWrite
  dsimp only
  repeat' with_reducible first
    | exact .refl _
    | refine .step ?_ (by with_reducible first
        | exact .bankWrite .. | exact .routeWrite .. | exact .refuse .. | exact .holdLo .. | exact .storeHi ..
        | exact .regStore .. | exact .afterWrite ..)
    | refine KeptOpt.mono (by with_reducible first
        | exact Kept.regAct ..)
    | (refine KeptOpt.use (o := ?o) ?h ?_; (case h => assumption))
    | refine .ite ?_ ?_
    | intro _
    | split

theorem Kept.pageWrite (s : State) (req addr be val : Nat) : Kept Part.butPending s (State.pageWrite s req addr be
    val) := by
  unfold State.pageWrite
  repeat' with_reducible first
    | exact .refl _
    | refine .step ?_ (by with_reducible first
        | exact .regWrite .. | exact .answer ..)
    | refine .ite ?_ ?_
    | split

theorem Kept.execRegisterWrite (dt : Nat) (req : Req) (addr : Nat) (be : BitVec 4) (val : W32) (s : State) : KeptOut
    Part.butPending s (Machine.execRegisterWrite dt req addr be val s) := by
  unfold Machine.execRegisterWrite
  repeat' with_reducible first
    | exact .refl _
    | refine .step ?_ (by with_reducible first
        | exact .advance .. | exact .pageWrite ..)
    | refine .next ?_

theorem Kept.execPairWriteLo (dt : Nat) (req : Req) (addr : Nat) (val : W32) (s : State) : KeptOut Part.butPending s
    (Machine.execPairWriteLo dt req addr val s) := by
  unfold Machine.execPairWriteLo
  dsimp only
  repeat' with_reducible first
    | exact .refl _
    | refine .step ?_ (by with_reducible first
        | exact .advance .. | exact .pageWrite ..)
    | refine .next ?_
    | refine KeptOut.ite ?_ ?_
    | refine .ite ?_ ?_
    | split

theorem Kept.execPairWriteHi (dt : Nat) (req : Req) (addr : Nat) (val : W32) (s : State) : KeptOut Part.butPending s
    (Machine.execPairWriteHi dt req addr val s) := by
  unfold Machine.execPairWriteHi
  dsimp only
  repeat' with_reducible first
    | exact .refl _
    | refine .step ?_ (by with_reducible first
        | exact .advance .. | exact .pageWrite ..)
    | refine .next ?_
    | refine KeptOut.ite ?_ ?_
    | refine .ite ?_ ?_
    | split

end Sys2Proof.Machine
end

