-- ==== Sys2Proof/Laws/KeptBus.lean ====
section
/-! SUPPORT. What each operation of Machine/Bus.lean keeps. -/

namespace Sys2Proof.Machine
open Sys2Proof
set_option Elab.async false

theorem Kept.gpioIn (s : State) (k : Nat) : Kept [.free] s (State.gpioIn s k).2 := by
  unfold State.gpioIn
  dsimp only
  repeat' with_reducible first
    | exact .refl _
    | refine .step ?_ (by with_reducible first
        | exact .freshWord ..)
    | refine .ite ?_ ?_
    | refine .foldl ?_ ?_ _
    | refine .foldlSnd ?_ _ _ _ | refine .foldlFst ?_ _ _ _
    | (rename_i h; refine .ofSnd h ?_) | (rename_i h; refine .ofFst h ?_)
    | intro _
    | split

theorem Kept.wordFree (s : State) (p : Page) (off w : Nat) : Kept [.free] s (State.wordFree s p off w).2 := by
  unfold State.wordFree
  dsimp only
  repeat' with_reducible first
    | exact .refl _
    | refine .step ?_ (by with_reducible first
        | exact .freshWord .. | exact .trimNow .. | exact .gpioIn ..)
    | refine .ite ?_ ?_
    | (rename_i h; refine .ofSnd h ?_) | (rename_i h; refine .ofFst h ?_)
    | intro _
    | split

theorem Kept.pageWord (s : State) (req : Nat) (p : Page) (off : Nat) : Kept [.free] s (State.pageWord s req p off).2
    := by
  unfold State.pageWord
  dsimp only
  repeat' with_reducible first
    | exact .refl _
    | refine .step ?_ (by with_reducible first
        | exact .wordFree ..)
    | refine .ite ?_ ?_
    | (rename_i h; refine .ofSnd h ?_) | (rename_i h; refine .ofFst h ?_)
    | split

theorem Kept.readClear (s : State) (p : Page) (off : Nat) : Kept [.block p.blk] s (State.readClear s p off) := by
  unfold State.readClear
  repeat' with_reducible first
    | exact .refl _
    | refine .step ?_ (by with_reducible first
        | exact .flag .. | exact .put ..)
    | refine .ite ?_ ?_
    | split

theorem Kept.pageRead (s : State) (req : Nat) (p : Page) (off : Nat) : Kept [.free, .obc, .snaps, .block .cir, .block
    .clf, .block .obc, .block p.blk] s (State.pageRead s req p off).2 := by
  unfold State.pageRead
  dsimp only
  repeat' with_reducible first
    | exact .refl _
    | refine .step ?_ (by with_reducible first
        | exact .obcTick .. | exact .pageWord .. | exact .refuse .. | exact .readClear ..)
    | refine .ite ?_ ?_
    | (rename_i h; refine .ofSnd h ?_) | (rename_i h; refine .ofFst h ?_)
    | intro _
    | split
    | refine .step ?_ (by with_reducible first
        | exact .snaps_upd ..)

theorem Kept.busRead (s : State) (req a n : Nat) : Kept (Part.andRegs [.free, .obc, .snaps]) s (State.busRead s req a
    n).2 := by
  unfold State.busRead
  dsimp only
  repeat' with_reducible first
    | exact .refl _
    | refine .step ?_ (by with_reducible first
        | exact .pageRead ..)
    | refine .ite ?_ ?_
    | (rename_i h; refine .ofSnd h ?_) | (rename_i h; refine .ofFst h ?_)
    | split

theorem Kept.busWrite (s : State) (req a n : Nat) (v : W32) : Kept Part.butPending s (State.busWrite s req a n v).2
    := by
  unfold State.busWrite
  repeat' with_reducible first
    | exact .refl _
    | refine .step ?_ (by with_reducible first
        | exact .wrBytes .. | exact .regWrite ..)
    | refine .ite ?_ ?_
    | split

theorem Kept.cirBusError (s : State) (a : Nat) : Kept [.ctxs] s (State.cirBusError s a) := by
  unfold State.cirBusError
  repeat' with_reducible first
    | exact .refl _
    | refine .step ?_ (by with_reducible first
        | exact .execSet ..)
    | refine .ite ?_ ?_
    | refine .foldl ?_ ?_ _
    | refine .foldlSnd ?_ _ _ _ | refine .foldlFst ?_ _ _ _
    | intro _
    | split

theorem Kept.busError (s : State) (req a : Nat) : Kept [.ctxs, .dma, .dmaReq, .evrAt, .reply, .block .dma, .block
    .hlo, .block .sys] s (State.busError s req a) := by
  unfold State.busError
  dsimp only
  repeat' with_reducible first
    | exact .refl _
    | refine .step ?_ (by with_reducible first
        | exact .answer .. | exact .cirBusError .. | exact .dmaError ..)
    | refine .ite ?_ ?_
    | split

theorem Kept.busDo (s : State) (q : BusReq) (ecc : Ecc) : Kept Part.butPending s (State.busDo s q ecc) := by
  unfold State.busDo
  dsimp only
  repeat' with_reducible first
    | exact .refl _
    | refine .step ?_ (by with_reducible first
        | exact .eccSingle .. | exact .eccDouble .. | exact .busError .. | exact .busRead .. | exact .answer ..
        | exact .busWrite ..)
    | refine .ite ?_ ?_
    | (rename_i h; refine .ofSnd h ?_) | (rename_i h; refine .ofFst h ?_)
    | split

theorem Kept.execBusAccess (dt : Nat) (reqs : List BusReq) (ecc : Ecc) (s : State) : KeptOut Part.butPending s
    (Machine.execBusAccess dt reqs ecc s) := by
  unfold Machine.execBusAccess
  dsimp only
  repeat' with_reducible first
    | exact .refl _
    | refine .step ?_ (by with_reducible first
        | exact .advance .. | exact .arbRoll .. | exact .busError .. | exact .busDo .. | exact .arbWait ..
        | exact .answer .. | exact .arbTake ..)
    | refine .next ?_
    | refine KeptOut.ite ?_ ?_
    | refine .ite ?_ ?_
    | intro _
    | split

theorem Kept.readReply (s : State) (req addr : Nat) : Kept (Part.andRegs [.free, .obc, .reply, .snaps]) s
    (State.readReply s req addr) := by
  unfold State.readReply
  repeat' with_reducible first
    | exact .refl _
    | refine .step ?_ (by with_reducible first
        | exact .busRead .. | exact .answer ..)
    | (rename_i h; refine .ofSnd h ?_) | (rename_i h; refine .ofFst h ?_)
    | split

theorem Kept.execPairReadLo (dt : Nat) (req : Req) (addr : Nat) (s : State) : KeptOut (Part.andRegs [.free, .now,
    .obc, .reply, .snaps]) s (Machine.execPairReadLo dt req addr s) := by
  unfold Machine.execPairReadLo
  dsimp only
  repeat' with_reducible first
    | exact .refl _
    | refine .step ?_ (by with_reducible first
        | exact .advance .. | exact .readReply ..)
    | refine .next ?_
    | refine KeptOut.ite ?_ ?_
    | refine .ite ?_ ?_
    | split

theorem Kept.execPairReadHi (dt : Nat) (req : Req) (addr : Nat) (s : State) : KeptOut (Part.andRegs [.free, .now,
    .obc, .reply, .snaps]) s (Machine.execPairReadHi dt req addr s) := by
  unfold Machine.execPairReadHi
  dsimp only
  repeat' with_reducible first
    | exact .refl _
    | refine .step ?_ (by with_reducible first
        | exact .advance .. | exact .readReply ..)
    | refine .next ?_
    | refine KeptOut.ite ?_ ?_
    | refine .ite ?_ ?_
    | split

theorem Kept.execCapStampLoRead (dt : Nat) (req : Req) (c : Fin 16) (s : State) : KeptOut (Part.andRegs [.free, .now,
    .obc, .reply, .snaps]) s (Machine.execCapStampLoRead dt req c s) := by
  unfold Machine.execCapStampLoRead
  repeat' with_reducible first
    | exact .refl _
    | refine .step ?_ (by with_reducible first
        | exact .advance .. | exact .readReply ..)
    | refine .next ?_

theorem Kept.burstStore (s : State) (c : Fin 16) (a : Nat) (v : W32) : Kept Part.butPending s (State.burstStore s c a
    v).2 := by
  unfold State.burstStore
  repeat' with_reducible first
    | exact .refl _
    | refine .step ?_ (by with_reducible first
        | exact .crcDin .. | exact .busWrite ..)
    | refine .crcOwned ?_ ?_ ?_
    | (show (_ : List Part) ⊆ _; first | exact Part.sub (by decide +kernel) | (dsimp only; exact Part.sub (by decide +kernel)) | simp [Part.reaction, Part.butPending, Part.andRegs])
    | refine .ite ?_ ?_
    | intro _
    | split

theorem Kept.burst (s : State) (c : Fin 16) (n : Nat) : Kept Part.butPending s (s.burst c n) := by
  induction n generalizing s with
  | zero => exact .refl _
  | succ n ih =>
    unfold State.burst
    dsimp only
    split
    · exact .refl _
    · split
      · rename_i h
        exact .step (.ofSnd h (.step (.step (.refl s) (.granted ..)) (.busRead ..))) (.dmaError ..)
      · rename_i h
        have h := Kept.ofSnd h (.step (.step (F := Part.butPending) (.refl s) (.granted ..)) (.busRead ..))
        split
        · rename_i g
          exact .step (.ofSnd g (.step (.step h (.granted ..)) (.burstStore ..))) (.dmaError ..)
        · rename_i g
          have h := Kept.ofSnd g (.step (.step h (.granted ..)) (.burstStore ..))
          exact .trans (.step (.step h (.dmaSet ..)) (.put64 ..)) (ih ..)

theorem Kept.execDmaBlockBurst (dt : Nat) (ch : Fin 16) (err : Bool) (s : State) : KeptOut Part.butPending s
    (Machine.execDmaBlockBurst dt ch err s) := by
  unfold Machine.execDmaBlockBurst
  dsimp only
  repeat' with_reducible first
    | exact .refl _
    | refine .step ?_ (by with_reducible first
        | exact .advance .. | exact .freshNat .. | exact .burst .. | exact .dmaError ..)
    | refine .next ?_
    | refine KeptOut.ite ?_ ?_
    | refine .ite ?_ ?_
    | (rename_i h; refine .ofSnd h ?_) | (rename_i h; refine .ofFst h ?_)
    | split

end Sys2Proof.Machine
end

