-- ==== Sys2Proof/Laws/KeptLockstep.lean ====
section
/-! SUPPORT. What each operation of Machine/Lockstep.lean keeps. -/

namespace Sys2Proof.Machine
open Sys2Proof
set_option Elab.async false

theorem Kept.lasting (s : State) (i : Fin 3) : Kept (.pos :: Part.reaction) s (State.lasting s i) := by
  unfold State.lasting
  dsimp only
  repeat' with_reducible first
    | exact .refl _
    | refine .step ?_ (by with_reducible first
        | exact .put .. | exact .putBit .. | exact .pairSet .. | exact .lksFault ..)
    | intro _

theorem Kept.mismatch (s : State) (i : Fin 3) (cause lane pos n : Nat) : Kept (.pos :: Part.reaction) s
    (State.mismatch s i cause lane pos n) := by
  unfold State.mismatch
  dsimp only
  repeat' with_reducible first
    | exact .refl _
    | refine .step ?_ (by with_reducible first
        | exact .put .. | exact .cause .. | exact .setWord .. | exact .put64 .. | exact .lasting ..
        | exact .putBit .. | exact .pairSet ..)
    | refine .ite ?_ ?_
    | intro _
    | split

theorem Kept.parityError (s : State) (i : Fin 3) (pos n : Nat) : Kept (.pos :: Part.reaction) s (State.parityError s
    i pos n) := by
  unfold State.parityError
  dsimp only
  repeat' with_reducible first
    | exact .refl _
    | refine .step ?_ (by with_reducible first
        | exact .incSat .. | exact .mismatch .. | exact .lksFault ..)

theorem Kept.transient (s : State) (i : Fin 3) : Kept (.pos :: Part.reaction) s (State.transient s i) := by
  unfold State.transient
  dsimp only
  repeat' with_reducible first
    | exact .refl _
    | refine .step ?_ (by with_reducible first
        | exact .put .. | exact .putBit .. | exact .pairSet .. | exact .incSat .. | exact .lksFault ..)
    | refine .ite ?_ ?_
    | intro _
    | split

theorem Kept.execInstructionRetire (dt : Nat) (pair : Fin 3) (side : CoreSide) (word : BitVec 192) (s : State) :
    KeptOut [.lks, .now] s (Machine.execInstructionRetire dt pair side word s) := by
  unfold Machine.execInstructionRetire
  dsimp only
  repeat' with_reducible first
    | exact .refl _
    | refine .step ?_ (by with_reducible first
        | exact .advance .. | exact .pairSet ..)
    | refine .next ?_
    | refine KeptOut.ite ?_ ?_
    | refine .ite ?_ ?_
    | intro _
    | split

theorem Kept.execEarlyCompare (dt : Nat) (pair : Fin 3) (mbe : BitVec 4) (maddr : W32) (cbe : BitVec 4) (caddr : W32)
    (u : CmpUpset) (s : State) : KeptOut (.now :: .pos :: Part.reaction) s (Machine.execEarlyCompare dt pair mbe
    maddr cbe caddr u s) := by
  unfold Machine.execEarlyCompare
  dsimp only
  repeat' with_reducible first
    | exact .refl _
    | refine .step ?_ (by with_reducible first
        | exact .advance .. | exact .railFault .. | exact .parityError .. | exact .mismatch ..
        | exact .pairSet ..)
    | refine .next ?_
    | refine KeptOut.ite ?_ ?_
    | refine .ite ?_ ?_
    | intro _
    | split

theorem Kept.execLoadResponse (dt : Nat) (pair : Fin 3) (s : State) : KeptOut (Part.andRegs [.arb, .free, .lks, .now,
    .obc, .reply, .snaps]) s (Machine.execLoadResponse dt pair s) := by
  unfold Machine.execLoadResponse
  dsimp only
  repeat' with_reducible first
    | exact .refl _
    | refine .step ?_ (by with_reducible first
        | exact .advance .. | exact .granted .. | exact .busRead .. | exact .answer .. | exact .pairSet ..)
    | refine .next ?_
    | refine KeptOut.ite ?_ ?_
    | refine .ite ?_ ?_
    | (rename_i h; refine .ofSnd h ?_) | (rename_i h; refine .ofFst h ?_)
    | intro _
    | split

theorem Kept.storeEntry (s : State) (req a be v : Nat) : Kept Part.butPending s (State.storeEntry s req a be v) := by
  unfold State.storeEntry
  dsimp only
  repeat' with_reducible first
    | exact .refl _
    | refine .step ?_ (by with_reducible first
        | exact .granted .. | exact .wrByte .. | exact .answer .. | exact .regWrite ..)
    | refine .ite ?_ ?_
    | refine .foldl ?_ ?_ _
    | intro _
    | split

theorem Kept.commitEntry (s : State) (i : Fin 3) (w : BitVec 192) : Kept Part.butPending s (State.commitEntry s i w)
    := by
  unfold State.commitEntry
  dsimp only
  repeat' with_reducible first
    | exact .refl _
    | refine .step ?_ (by with_reducible first
        | exact .pairSet .. | exact .storeEntry .. | exact .transient ..)
    | refine .ite ?_ ?_
    | intro _
    | split

theorem Kept.execCompareEntry (dt : Nat) (pair : Fin 3) (u : CmpUpset) (s : State) : KeptOut Part.butPending s
    (Machine.execCompareEntry dt pair u s) := by
  unfold Machine.execCompareEntry
  dsimp only
  repeat' with_reducible first
    | exact .refl _
    | refine .step ?_ (by with_reducible first
        | exact .advance .. | exact .railFault .. | exact .parityError .. | exact .commitEntry ..
        | exact .mismatch ..)
    | refine .next ?_
    | refine KeptOut.ite ?_ ?_
    | refine .ite ?_ ?_
    | split

theorem Kept.execLagTimeout (dt : Nat) (pair : Fin 3) (early : Option Nat) (s : State) : KeptOut (.now :: .pos ::
    Part.reaction) s (Machine.execLagTimeout dt pair early s) := by
  unfold Machine.execLagTimeout
  dsimp only
  repeat' with_reducible first
    | exact .refl _
    | refine .step ?_ (by with_reducible first
        | exact .advance .. | exact .mismatch ..)
    | refine .next ?_
    | refine KeptOut.ite ?_ ?_
    | refine .ite ?_ ?_
    | intro _
    | split

theorem Kept.asyncEntry (s : State) (inp : AsyncIn) : Kept [.free] s (State.asyncEntry s inp).2 := by
  unfold State.asyncEntry
  dsimp only
  repeat' with_reducible first
    | exact .refl _
    | refine .step ?_ (by with_reducible first
        | exact .gpioIn ..)
    | (rename_i h; refine .ofSnd h ?_) | (rename_i h; refine .ofFst h ?_)
    | split

theorem Kept.execAsyncInputTaken (dt : Nat) (pair : Fin 3) (inp : AsyncIn) (s : State) : KeptOut [.free, .lks, .now]
    s (Machine.execAsyncInputTaken dt pair inp s) := by
  unfold Machine.execAsyncInputTaken
  dsimp only
  repeat' with_reducible first
    | exact .refl _
    | refine .step ?_ (by with_reducible first
        | exact .advance .. | exact .asyncEntry .. | exact .pairSet ..)
    | refine .next ?_
    | refine KeptOut.ite ?_ ?_
    | refine .ite ?_ ?_
    | (rename_i h; refine .ofSnd h ?_) | (rename_i h; refine .ofFst h ?_)
    | intro _
    | split
    | refine .step ?_ (by with_reducible first
        | exact .lks_upd ..)

theorem Kept.execDebugHaltRequest (dt : Nat) (pair : Fin 3) (s : State) : KeptOut [.lks, .now, .block .lks] s
    (Machine.execDebugHaltRequest dt pair s) := by
  unfold Machine.execDebugHaltRequest
  dsimp only
  repeat' with_reducible first
    | exact .refl _
    | refine .step ?_ (by with_reducible first
        | exact .advance .. | exact .pairSet .. | exact .putBit ..)
    | refine .next ?_
    | refine KeptOut.ite ?_ ?_
    | refine .ite ?_ ?_
    | intro _
    | split

theorem Kept.execDebugHalted (dt : Nat) (pair : Fin 3) (s : State) : KeptOut [.cpw, .halo, .lks, .now, .block .lks] s
    (Machine.execDebugHalted dt pair s) := by
  unfold Machine.execDebugHalted
  dsimp only
  repeat' with_reducible first
    | exact .refl _
    | refine .step ?_ (by with_reducible first
        | exact .advance .. | exact .pairSet .. | exact .putBit .. | exact .cpwFreeze ..)
    | refine .next ?_
    | refine KeptOut.ite ?_ ?_
    | refine .ite ?_ ?_
    | refine .foldl ?_ ?_ _
    | intro _
    | split
    | refine .step ?_ (by with_reducible first
        | exact .halo_upd ..)

theorem Kept.execDebugStep (dt : Nat) (pair : Fin 3) (s : State) : KeptOut [.lks, .now, .block .lks] s
    (Machine.execDebugStep dt pair s) := by
  unfold Machine.execDebugStep
  dsimp only
  repeat' with_reducible first
    | exact .refl _
    | refine .step ?_ (by with_reducible first
        | exact .advance .. | exact .pairSet .. | exact .putBit ..)
    | refine .next ?_
    | refine KeptOut.ite ?_ ?_
    | refine .ite ?_ ?_
    | intro _
    | split

theorem Kept.execDebugResume (dt : Nat) (pair : Fin 3) (s : State) : KeptOut [.halo, .lks, .now, .block .lks] s
    (Machine.execDebugResume dt pair s) := by
  unfold Machine.execDebugResume
  dsimp only
  repeat' with_reducible first
    | exact .refl _
    | refine .step ?_ (by with_reducible first
        | exact .advance .. | exact .pairSet .. | exact .putBit ..)
    | refine .next ?_
    | refine KeptOut.ite ?_ ?_
    | refine .ite ?_ ?_
    | intro _
    | split
    | refine .step ?_ (by with_reducible first
        | exact .halo_upd ..)

end Sys2Proof.Machine
end

