-- ==== Sys2Proof/Laws/KeptPeriodStart.lean ====
section
/-! SUPPORT. What each operation of Machine/PeriodStart.lean keeps. -/

namespace Sys2Proof.Machine
open Sys2Proof
set_option Elab.async false

theorem Kept.ctxSwitch (s : State) (k : Nat) (on : Bool) : Kept (.adf :: .adh :: .adr :: .ctxs :: .engAt :: .lg ::
    .pos :: .pslack :: .tbu :: Part.reaction) s (State.ctxSwitch s k on) := by
  unfold State.ctxSwitch
  dsimp only
  repeat' with_reducible first
    | exact .refl _
    | refine .step ?_ (by with_reducible first
        | exact .ctxFreeze .. | exact .flag .. | exact .ctxCommitted ..)

theorem Kept.onesetSwap (s : State) (m : Nat) : Kept (.adf :: .adh :: .adr :: .ctxs :: .engAt :: .lg :: .pos ::
    .pslack :: .tbu :: Part.reaction) s (State.onesetSwap s m) := by
  unfold State.onesetSwap
  dsimp only
  repeat' with_reducible first
    | exact .refl _
    | refine .step ?_ (by with_reducible first
        | exact .ctxSwitch .. | exact .put .. | exact .msvSet .. | exact .tpwRequestAll .. | exact .incSat ..
        | exact .msvFollow ..)
    | refine .ite ?_ ?_
    | intro _
    | split

theorem Kept.timersStart (s : State) (g : Fin 15) (t : Nat) : Kept (.adf :: .adh :: .adr :: .ctxs :: .engAt :: .free
    :: .lg :: .pos :: .pslack :: .tbu :: Part.reaction) s (State.timersStart s g t) := by
  unfold State.timersStart
  dsimp only
  repeat' with_reducible first
    | exact .refl _
    | refine .step ?_ (by with_reducible first
        | exact .onesetSwap .. | exact .tpwPeriod .. | exact .dcdPeriod .. | exact .bchPeriod ..
        | exact .obcPeriod .. | exact .actPeriod ..)
    | refine .ite ?_ ?_
    | refine .foldl ?_ ?_ _
    | refine .foldlSnd ?_ _ _ _ | refine .foldlFst ?_ _ _ _
    | intro _
    | split

theorem Kept.periodStart (s : State) (g : Fin 15) (t : Nat) : Kept (.adf :: .adh :: .adr :: .ctxs :: .engAt :: .free
    :: .lg :: .pos :: .pslack :: .tbu :: Part.reaction) s (State.periodStart s g t) := by
  unfold State.periodStart
  repeat' with_reducible first
    | exact .refl _
    | refine .step ?_ (by with_reducible first
        | exact .lgRaise .. | exact .commitAt .. | exact .timersStart .. | exact .cmpSkips ..
        | exact .syncOutStart ..)

theorem Kept.execLgPeriodStart (dt : Nat) (g : Fin 15) (s : State) : KeptOut (.adf :: .adh :: .adr :: .ctxs :: .engAt
    :: .free :: .lg :: .now :: .pos :: .pslack :: .tbu :: Part.reaction) s (Machine.execLgPeriodStart dt g s) := by
  unfold Machine.execLgPeriodStart
  dsimp only
  repeat' with_reducible first
    | exact .refl _
    | refine .step ?_ (by with_reducible first
        | exact .advance .. | exact .lgRenew .. | exact .periodStart ..)
    | refine .next ?_
    | refine KeptOut.ite ?_ ?_
    | refine .ite ?_ ?_
    | split

theorem Kept.execCmpMatch (dt : Nat) (c : Fin 16) (s : State) : KeptOut [.adh, .dma, .dmaReq, .evrAt, .now, .tbu,
    .block .adh, .block .dma] s (Machine.execCmpMatch dt c s) := by
  unfold Machine.execCmpMatch
  dsimp only
  repeat' with_reducible first
    | exact .refl _
    | refine .step ?_ (by with_reducible first
        | exact .advance .. | exact .cmpMatch .. | exact .adhCompare ..)
    | refine .next ?_
    | refine KeptOut.ite ?_ ?_
    | refine .ite ?_ ?_
    | split

theorem Kept.execClfSuperframe (dt : Nat) (s : State) : KeptOut (.adf :: .adh :: .adr :: .ctxs :: .engAt :: .lg ::
    .now :: .pos :: .pslack :: .sfTick :: .tbu :: Part.reaction) s (Machine.execClfSuperframe dt s) := by
  unfold Machine.execClfSuperframe
  dsimp only
  repeat' with_reducible first
    | exact .refl _
    | refine .step ?_ (by with_reducible first
        | exact .advance .. | exact .superframe .. | exact .commitAt ..)
    | refine .next ?_
    | refine KeptOut.ite ?_ ?_
    | refine .ite ?_ ?_
    | split

end Sys2Proof.Machine
end

