-- ==== Sys2Proof/Laws/KeptThermal.lean ====
section
/-! SUPPORT. What each operation of Machine/Thermal.lean keeps. -/

namespace Sys2Proof.Machine
open Sys2Proof
set_option Elab.async false

theorem Kept.tmuSet (s : State) (f : TmuH → TmuH) : Kept [.tmu] s (State.tmuSet s f) := by
  unfold State.tmuSet
  repeat' with_reducible first
    | exact .refl _
    | refine .step ?_ (by with_reducible first
        | exact .tmu_upd ..)

theorem Kept.tmuExclude (s : State) (i : Nat) : Kept [.dma, .dmaReq, .evrAt, .block .dma, .block .hlo, .block .sys,
    .block .tmu] s (State.tmuExclude s i) := by
  unfold State.tmuExclude
  dsimp only
  repeat' with_reducible first
    | exact .refl _
    | refine .step ?_ (by with_reducible first
        | exact .putBit .. | exact .flag .. | exact .incSat .. | exact .evt .. | exact .note ..)
    | refine .ite ?_ ?_
    | intro _
    | split

theorem Kept.tmuCross (s : State) (temps : Vector Int 24) : Kept [.dma, .dmaReq, .evrAt, .tmu, .block .dma, .block
    .hlo, .block .sys, .block .tmu] s (State.tmuCross s temps) := by
  unfold State.tmuCross
  dsimp only
  repeat' with_reducible first
    | exact .refl _
    | refine .step ?_ (by with_reducible first
        | exact .tmuSet .. | exact .tmuExclude ..)
    | refine .ite ?_ ?_
    | refine .foldl ?_ ?_ _
    | refine .foldlSnd ?_ _ _ _ | refine .foldlFst ?_ _ _ _
    | intro _
    | split

theorem Kept.tmuExternal (s : State) : Kept [.dma, .dmaReq, .evrAt, .free, .tmu, .block .dma, .block .hlo, .block
    .sys, .block .tmu] s (State.tmuExternal s) := by
  unfold State.tmuExternal
  dsimp only
  repeat' with_reducible first
    | exact .refl _
    | refine .step ?_ (by with_reducible first
        | exact .tmuSet .. | exact .flag .. | exact .evt .. | exact .note .. | exact .freshNat ..
        | exact .put ..)
    | refine .ite ?_ ?_
    | refine .foldl ?_ ?_ _
    | (rename_i h; refine .ofSnd h ?_) | (rename_i h; refine .ofFst h ?_)
    | intro _
    | split

theorem Kept.tmuLimits (s : State) (tmax : Int) : Kept (.pos :: .tmu :: Part.reaction) s (State.tmuLimits s tmax) :=
    by
  unfold State.tmuLimits
  dsimp only
  repeat' with_reducible first
    | exact .refl _
    | refine .step ?_ (by with_reducible first
        | exact .flag .. | exact .evt .. | exact .note .. | exact .tmuSet .. | exact .raise ..)
    | refine .ite ?_ ?_
    | intro _
    | split

theorem Kept.tmuRates (s : State) (cl : Vector Int 6) : Kept [.dma, .dmaReq, .evrAt, .tmu, .block .dma, .block .hlo,
    .block .sys, .block .tmu] s (State.tmuRates s cl) := by
  unfold State.tmuRates
  dsimp only
  repeat' with_reducible first
    | exact .refl _
    | refine .step ?_ (by with_reducible first
        | exact .tmuSet .. | exact .puts .. | exact .incSat .. | exact .evt .. | exact .note ..)
    | refine .ite ?_ ?_
    | refine .foldl ?_ ?_ _
    | intro _
    | split

theorem Kept.slackReset (s : State) : Kept [.pslack, .zslack] s (s.slackReset) := by
  refine .raw (fun q hq => ?_) rfl rfl
  cases q
  case block b => exact fun _ _ => rfl
  all_goals first
    | rfl
    | exact absurd (by decide +kernel) hq

theorem Kept.tmuSlack (s : State) : Kept [.pslack, .zslack, .block .tmu] s (State.tmuSlack s) := by
  unfold State.tmuSlack
  dsimp only
  repeat' with_reducible first
    | exact .refl _
    | refine .step ?_ (by with_reducible first
        | exact .slackReset .. | exact .puts .. | exact .put ..)
    | refine .ite ?_ ?_
    | refine .foldl ?_ ?_ _
    | refine .foldlSnd ?_ _ _ _ | refine .foldlFst ?_ _ _ _
    | intro _
    | split

theorem Kept.tmuLevel (s : State) (l : Nat) : Kept [.dma, .dmaReq, .evrAt, .tmu, .block .adh, .block .cir, .block
    .dma, .block .tmu] s (State.tmuLevel s l) := by
  unfold State.tmuLevel
  dsimp only
  repeat' with_reducible first
    | exact .refl _
    | refine .step ?_ (by with_reducible first
        | exact .put .. | exact .flag .. | exact .evt .. | exact .tmuSet ..)
    | refine .ite ?_ ?_
    | refine .foldl ?_ ?_ _
    | intro _
    | split

theorem Kept.tmuThrottle (s : State) (tmax : Int) : Kept [.dma, .dmaReq, .evrAt, .tmu, .block .adh, .block .cir,
    .block .dma, .block .tmu] s (State.tmuThrottle s tmax) := by
  unfold State.tmuThrottle
  dsimp only
  repeat' with_reducible first
    | exact .refl _
    | refine .step ?_ (by with_reducible first
        | exact .put .. | exact .tmuSet .. | exact .tmuLevel .. | exact .incSat ..)
    | refine .ite ?_ ?_
    | intro _
    | split

theorem Kept.execZenithScan (dt : Nat) (temps : Vector Int 24) (s : State) : KeptOut (.free :: .now :: .pos ::
    .pslack :: .tmu :: .zslack :: Part.reaction) s (Machine.execZenithScan dt temps s) := by
  unfold Machine.execZenithScan
  dsimp only
  repeat' with_reducible first
    | exact .refl _
    | refine .step ?_ (by with_reducible first
        | exact .advance .. | exact .tmuSet .. | exact .puts .. | exact .flag .. | exact .tmuCross ..
        | exact .tmuExternal .. | exact .put .. | exact .tmuRates .. | exact .tmuSlack ..
        | exact .tmuThrottle .. | exact .tmuLimits ..)
    | refine .next ?_
    | refine KeptOut.ite ?_ ?_
    | refine .ite ?_ ?_
    | refine .foldl ?_ ?_ _
    | (rename_i h; refine .ofSnd h ?_) | (rename_i h; refine .ofFst h ?_)
    | intro _
    | split

end Sys2Proof.Machine
end

