-- ==== Sys2Proof/Laws/PerInstr.lean ====
section
/-! SUPPORT. The family KeepsQueue: the footprint of a command holds no part that is the queue, one lemma per constructor. -/

namespace Sys2Proof.Laws.KeepsQueue
open Sys2Proof Sys2Proof.Machine
set_option Elab.async false

/-- The command's footprint leaves the queue out. -/
def Statement (i : Instr) : Prop := Part.pending ∉ footprint i

theorem allRegs : Part.pending ∉ Part.allRegs := by decide +kernel

theorem reaction : Part.pending ∉ Part.reaction := by decide +kernel

theorem butPending : Part.pending ∉ Part.butPending := by decide +kernel

theorem powerValid (dt : Nat) (boot : BitVec 2) : Statement (.powerValid dt boot) := by simp [Statement, footprint]

theorem supplyUv (dt : Nat) (k : Fin 6) : Statement (.supplyUv dt k) := butPending

theorem supplyOv (dt : Nat) (k : Fin 6) : Statement (.supplyOv dt k) := by simp [Statement, footprint, reaction]

theorem nresetAssert (dt : Nat) : Statement (.nresetAssert dt) := butPending

theorem nresetRelease (dt : Nat) (heldUs : Nat) (boot : BitVec 2) : Statement (.nresetRelease dt heldUs boot) :=
  by simp [Statement, footprint]

theorem rstCmdDevice (dt : Nat) (req : Req) : Statement (.rstCmdDevice dt req) := butPending

theorem rstCmdAp0 (dt : Nat) (req : Req) : Statement (.rstCmdAp0 dt req) := butPending

theorem rstCmdAp1 (dt : Nat) (req : Req) : Statement (.rstCmdAp1 dt req) := butPending

theorem pairRestart (dt : Nat) (p : Fin 2) : Statement (.pairRestart dt p) := by simp [Statement, footprint]

theorem debugSystemReset (dt : Nat) : Statement (.debugSystemReset dt) := butPending

theorem bootSlotCheck (dt : Nat) (slot : Fin 2) (err : Bool) : Statement (.bootSlotCheck dt slot err) :=
  by simp [Statement, footprint, Part.andRegs, allRegs]

theorem bootHandover (dt : Nat) : Statement (.bootHandover dt) :=
  by simp [Statement, footprint, Part.andRegs, allRegs]

theorem bootTimeout (dt : Nat) : Statement (.bootTimeout dt) := by simp [Statement, footprint, Part.andRegs, allRegs]

theorem startTestComplete (dt : Nat) (pass : Bool) : Statement (.startTestComplete dt pass) :=
  by simp [Statement, footprint, reaction]

theorem selftestTimeout (dt : Nat) : Statement (.selftestTimeout dt) := by simp [Statement, footprint, reaction]

theorem keyRevoke (dt : Nat) (req : Req) (bits : BitVec 2) : Statement (.keyRevoke dt req bits) :=
  by simp [Statement, footprint]

theorem outReadback (dt : Nat) (ball : OutBall) : Statement (.outReadback dt ball) :=
  by simp [Statement, footprint, reaction]

theorem jtagBypass (dt : Nat) : Statement (.jtagBypass dt) := by simp [Statement, footprint]

theorem jtagIdcode (dt : Nat) : Statement (.jtagIdcode dt) := by simp [Statement, footprint]

theorem jtagSamplePreload (dt : Nat) (cells : List (Nat × Bool)) : Statement (.jtagSamplePreload dt cells) :=
  by simp [Statement, footprint]

theorem jtagDtm (dt : Nat) : Statement (.jtagDtm dt) := by simp [Statement, footprint]

theorem jtagExtest (dt : Nat) : Statement (.jtagExtest dt) := by simp [Statement, footprint]

theorem jtagClamp (dt : Nat) : Statement (.jtagClamp dt) := by simp [Statement, footprint]

theorem jtagHighz (dt : Nat) : Statement (.jtagHighz dt) := by simp [Statement, footprint]

theorem standby (dt : Nat) (req : Req) : Statement (.standby dt req) :=
  by simp [Statement, footprint, Part.andRegs, allRegs]

theorem drive (dt : Nat) (req : Req) : Statement (.drive dt req) :=
  by simp [Statement, footprint, Part.andRegs, allRegs]

theorem charge (dt : Nat) (req : Req) : Statement (.charge dt req) :=
  by simp [Statement, footprint, Part.andRegs, allRegs]

theorem service (dt : Nat) (req : Req) : Statement (.service dt req) :=
  by simp [Statement, footprint, Part.andRegs, allRegs]

theorem safeHold (dt : Nat) (req : Req) : Statement (.safeHold dt req) :=
  by simp [Statement, footprint, Part.andRegs, allRegs]

theorem stateTransitionDone (dt : Nat) : Statement (.stateTransitionDone dt) :=
  by simp [Statement, footprint, Part.andRegs, allRegs]

theorem registerWrite (dt : Nat) (req : Req) (addr : Nat) (be : BitVec 4) (val : W32) :
    Statement (.registerWrite dt req addr be val) :=
  butPending

theorem keyWrite (dt : Nat) (req : Req) (page : Page) (val : W32) : Statement (.keyWrite dt req page val) :=
  by simp [Statement, footprint]

theorem unlockLapse (dt : Nat) (req : Req) (page : Page) : Statement (.unlockLapse dt req page) :=
  by simp [Statement, footprint]

theorem pairReadLo (dt : Nat) (req : Req) (addr : Nat) : Statement (.pairReadLo dt req addr) :=
  by simp [Statement, footprint, Part.andRegs, allRegs]

theorem pairReadHi (dt : Nat) (req : Req) (addr : Nat) : Statement (.pairReadHi dt req addr) :=
  by simp [Statement, footprint, Part.andRegs, allRegs]

theorem pairWriteLo (dt : Nat) (req : Req) (addr : Nat) (val : W32) : Statement (.pairWriteLo dt req addr val) :=
  butPending

theorem pairWriteHi (dt : Nat) (req : Req) (addr : Nat) (val : W32) : Statement (.pairWriteHi dt req addr val) :=
  butPending

theorem softRst (dt : Nat) (req : Req) (page : Page) : Statement (.softRst dt req page) :=
  by simp [Statement, footprint, Part.andRegs, allRegs]

theorem evtForce (dt : Nat) (req : Req) (page : Page) (val : W32) : Statement (.evtForce dt req page val) :=
  by simp [Statement, footprint]

theorem evtClear (dt : Nat) (req : Req) (page : Page) (val : W32) (hw : W32) :
    Statement (.evtClear dt req page val hw) :=
  by simp [Statement, footprint]

theorem csetStage (dt : Nat) (req : Req) (page : Page) (val : W32) : Statement (.csetStage dt req page val) :=
  by simp [Statement, footprint, Part.andRegs, allRegs]

theorem csetCommit (dt : Nat) (req : Req) (page : Page) (val : W32) : Statement (.csetCommit dt req page val) :=
  by simp [Statement, footprint, Part.andRegs, allRegs]

theorem csetAbort (dt : Nat) (req : Req) (page : Page) (val : W32) : Statement (.csetAbort dt req page val) :=
  by simp [Statement, footprint, Part.andRegs, allRegs]

theorem domainCommit (dt : Nat) (b : Boundary) : Statement (.domainCommit dt b) :=
  by simp [Statement, footprint, reaction]

theorem ownerAcq (dt : Nat) (req : Req) (lock : Nat) (rival : Option Req) : Statement (.ownerAcq dt req lock rival) :=
  by simp [Statement, footprint]

theorem ownerRel (dt : Nat) (req : Req) (lock : Nat) : Statement (.ownerRel dt req lock) :=
  by simp [Statement, footprint]

theorem refQualified (dt : Nat) (diffPpb : Int) : Statement (.refQualified dt diffPpb) :=
  by simp [Statement, footprint]

theorem directLock (dt : Nat) : Statement (.directLock dt) := by simp [Statement, footprint]

theorem glideDone (dt : Nat) : Statement (.glideDone dt) := by simp [Statement, footprint]

theorem refLost (dt : Nat) : Statement (.refLost dt) := by simp [Statement, footprint, reaction]

theorem refNever (dt : Nat) : Statement (.refNever dt) := by simp [Statement, footprint, reaction]

theorem rateFail (dt : Nat) : Statement (.rateFail dt) := by simp [Statement, footprint, reaction]

theorem countMismatch (dt : Nat) : Statement (.countMismatch dt) := by simp [Statement, footprint, reaction]

theorem lgPeriodStart (dt : Nat) (g : Fin 15) : Statement (.lgPeriodStart dt g) :=
  by simp [Statement, footprint, reaction]

theorem cmpMatch (dt : Nat) (c : Fin 16) : Statement (.cmpMatch dt c) := by simp [Statement, footprint]

theorem capture (dt : Nat) (c : Fin 16) (falling : Bool) (fine : Fin 128) : Statement (.capture dt c falling fine) :=
  by simp [Statement, footprint]

theorem capStampLoRead (dt : Nat) (req : Req) (c : Fin 16) : Statement (.capStampLoRead dt req c) :=
  by simp [Statement, footprint, Part.andRegs, allRegs]

theorem interpolatorSwap (dt : Nat) (ix : Fin 100) (trimPs : Nat) : Statement (.interpolatorSwap dt ix trimPs) :=
  by simp [Statement, footprint]

theorem calStale (dt : Nat) (ix : Fin 100) : Statement (.calStale dt ix) := by simp [Statement, footprint, reaction]

theorem syncInEdge (dt : Nat) (falling : Bool) (fine : Fin 128) : Statement (.syncInEdge dt falling fine) :=
  by simp [Statement, footprint]

theorem syncLost (dt : Nat) (g : Fin 15) : Statement (.syncLost dt g) := by simp [Statement, footprint, reaction]

theorem syncOutEnd (dt : Nat) : Statement (.syncOutEnd dt) := by simp [Statement, footprint]

theorem steerLimit (dt : Nat) : Statement (.steerLimit dt) := by simp [Statement, footprint, reaction]

theorem tpwCmpWrite (dt : Nat) (req : Req) (n : Fin 6) (leg : Fin 3) (val : W32) :
    Statement (.tpwCmpWrite dt req n leg val) :=
  by simp [Statement, footprint]

theorem tpwUpdatePoint (dt : Nat) (n : Fin 6) : Statement (.tpwUpdatePoint dt n) :=
  by simp [Statement, footprint, reaction]

theorem tpwPatSwitch (dt : Nat) (req : Req) (n : Fin 6) : Statement (.tpwPatSwitch dt req n) :=
  by simp [Statement, footprint]

theorem tpwPatPi (dt : Nat) (req : Req) (n : Fin 6) : Statement (.tpwPatPi dt req n) :=
  by simp [Statement, footprint]

theorem tpwPatAscLow (dt : Nat) (req : Req) (n : Fin 6) : Statement (.tpwPatAscLow dt req n) :=
  by simp [Statement, footprint]

theorem tpwPatAscHigh (dt : Nat) (req : Req) (n : Fin 6) : Statement (.tpwPatAscHigh dt req n) :=
  by simp [Statement, footprint]

theorem outMismatch (dt : Nat) (n : Fin 6) (ball : Fin 6) : Statement (.outMismatch dt n ball) :=
  by simp [Statement, footprint, reaction]

theorem shootThrough (dt : Nat) (n : Fin 6) (leg : Fin 3) : Statement (.shootThrough dt n leg) :=
  by simp [Statement, footprint, reaction]

theorem adfHold (dt : Nat) (g : Fin 8) : Statement (.adfHold dt g) := by simp [Statement, footprint]

theorem adfSlotLatch (dt : Nat) (g : Fin 8) (vin : Quad) (late : BitVec 4) :
    Statement (.adfSlotLatch dt g vin late) :=
  by simp [Statement, footprint, reaction]

theorem lateResult (dt : Nat) (g : Fin 8) (c : Fin 4) : Statement (.lateResult dt g c) :=
  by simp [Statement, footprint]

theorem adfInjGo (dt : Nat) (req : Req) (g : Fin 8) : Statement (.adfInjGo dt req g) :=
  by simp [Statement, footprint]

theorem adfInjLatch (dt : Nat) (g : Fin 8) (vin : Quad) : Statement (.adfInjLatch dt g vin) :=
  by simp [Statement, footprint]

theorem adfOwTest (dt : Nat) (g : Fin 8) (ix : Fin 8) (vin : Int) : Statement (.adfOwTest dt g ix vin) :=
  by simp [Statement, footprint]

theorem calStep (dt : Nat) (conv : Fin 36) (gain : Int) (ofs : Int) : Statement (.calStep dt conv gain ofs) :=
  by simp [Statement, footprint, reaction]

theorem calWindowEnd (dt : Nat) : Statement (.calWindowEnd dt) := by simp [Statement, footprint]

theorem refBufferReady (dt : Nat) (b : Fin 3) : Statement (.refBufferReady dt b) := by simp [Statement, footprint]

theorem refMonitorCheck (dt : Nat) (b : Fin 3) (dev : Bool) : Statement (.refMonitorCheck dt b dev) :=
  by simp [Statement, footprint, reaction]

theorem adhRegTrigger (dt : Nat) (u : Fin 4) : Statement (.adhRegTrigger dt u) := by simp [Statement, footprint]

theorem adhReggo (dt : Nat) (req : Req) (u : Fin 4) : Statement (.adhReggo dt req u) :=
  by simp [Statement, footprint]

theorem adhGo (dt : Nat) (req : Req) (u : Fin 4) : Statement (.adhGo dt req u) := by simp [Statement, footprint]

theorem adhEntryLatch (dt : Nat) (u : Fin 4) (vin : Int) : Statement (.adhEntryLatch dt u vin) :=
  by simp [Statement, footprint, reaction]

theorem ctxTrigger (dt : Nat) (k : Fin 256) : Statement (.ctxTrigger dt k) := by simp [Statement, footprint]

theorem updraftPredict (dt : Nat) (k : Fin 256 × Bool) : Statement (.updraftPredict dt k) :=
  by simp [Statement, footprint, reaction]

theorem ctxExecStart (dt : Nat) (k : Fin 256) (ecc : Bool) : Statement (.ctxExecStart dt k ecc) :=
  by simp [Statement, footprint, reaction]

theorem ctxExecComplete (dt : Nat) (k : Fin 256) (second : Bool) (differ : Bool) (rail : Bool) :
    Statement (.ctxExecComplete dt k second differ rail) :=
  by simp [Statement, footprint, reaction]

theorem updraftCheck (dt : Nat) (k : Fin 256) : Statement (.updraftCheck dt k) := by simp [Statement, footprint]

theorem ctxCommit (dt : Nat) (k : Fin 256) : Statement (.ctxCommit dt k) := by simp [Statement, footprint, reaction]

theorem engineStall (dt : Nat) (e : Fin 8) : Statement (.engineStall dt e) :=
  by simp [Statement, footprint, Part.andRegs, allRegs]

theorem cirClrCnt (dt : Nat) (req : Req) (k : Fin 256) : Statement (.cirClrCnt dt req k) :=
  by simp [Statement, footprint]

theorem cirTrig (dt : Nat) (req : Req) (k : Fin 256) : Statement (.cirTrig dt req k) :=
  by simp [Statement, footprint]

theorem rsvSample (dt : Nat) (n : Fin 3) (sn : BitVec 16) (cs : BitVec 16) : Statement (.rsvSample dt n sn cs) :=
  by simp [Statement, footprint]

theorem rsvPeriodCheck (dt : Nat) (n : Fin 3) (exc : Nat) (u1 u2 u3 u4 : Unit) :
    Statement (.rsvPeriodCheck dt n exc u1 u2 u3 u4) :=
  by simp [Statement, footprint]

theorem encEdge (dt : Nat) (n : Fin 3) (a : Bool) (b : Bool) : Statement (.encEdge dt n a b) :=
  by simp [Statement, footprint]

theorem encIndex (dt : Nat) (n : Fin 3) : Statement (.encIndex dt n) := by simp [Statement, footprint]

theorem encSpeedTimeout (dt : Nat) (n : Fin 3) : Statement (.encSpeedTimeout dt n) := by simp [Statement, footprint]

theorem hallEdge (dt : Nat) (n : Fin 3) (st : BitVec 3) : Statement (.hallEdge dt n st) :=
  by simp [Statement, footprint]

theorem fusionUpdate (dt : Nat) (n : Fin 3) : Statement (.fusionUpdate dt n) :=
  by simp [Statement, footprint, Part.andRegs, allRegs]

theorem reacqDecision (dt : Nat) (n : Fin 3) : Statement (.reacqDecision dt n) :=
  by simp [Statement, footprint, Part.andRegs, allRegs]

theorem reacqFail (dt : Nat) (n : Fin 3) : Statement (.reacqFail dt n) := by simp [Statement, footprint, reaction]

theorem posRestart (dt : Nat) (req : Req) (n : Fin 3) : Statement (.posRestart dt req n) :=
  by simp [Statement, footprint, Part.andRegs, allRegs]

theorem posSeedEnc (dt : Nat) (req : Req) (n : Fin 3) : Statement (.posSeedEnc dt req n) :=
  by simp [Statement, footprint, Part.andRegs, allRegs]

theorem posClrCnt (dt : Nat) (req : Req) (n : Fin 3) : Statement (.posClrCnt dt req n) :=
  by simp [Statement, footprint, Part.andRegs, allRegs]

theorem msvTcmdWrite (dt : Nat) (req : Req) (m : Fin 3) (val : W32) : Statement (.msvTcmdWrite dt req m val) :=
  by simp [Statement, footprint]

theorem tcmdTimeout (dt : Nat) (m : Fin 3) : Statement (.tcmdTimeout dt m) :=
  by simp [Statement, footprint, reaction]

theorem msvRun (dt : Nat) (req : Req) (m : Fin 3) : Statement (.msvRun dt req m) := by simp [Statement, footprint]

theorem msvStop (dt : Nat) (req : Req) (m : Fin 3) : Statement (.msvStop dt req m) := by simp [Statement, footprint]

theorem msvDirFwd (dt : Nat) (req : Req) (m : Fin 3) : Statement (.msvDirFwd dt req m) :=
  by simp [Statement, footprint]

theorem msvDirRev (dt : Nat) (req : Req) (m : Fin 3) : Statement (.msvDirRev dt req m) :=
  by simp [Statement, footprint]

theorem msvDirBoth (dt : Nat) (req : Req) (m : Fin 3) : Statement (.msvDirBoth dt req m) :=
  by simp [Statement, footprint]

theorem msvOnesetRestore (dt : Nat) (req : Req) (m : Fin 3) : Statement (.msvOnesetRestore dt req m) :=
  by simp [Statement, footprint]

theorem msvAck (dt : Nat) (req : Req) (m : Fin 3) : Statement (.msvAck dt req m) := by simp [Statement, footprint]

theorem msvClrCnt (dt : Nat) (req : Req) (m : Fin 3) : Statement (.msvClrCnt dt req m) :=
  by simp [Statement, footprint]

theorem lhPinSample (dt : Nat) (pin : Fin 9) (code : BitVec 12) : Statement (.lhPinSample dt pin code) :=
  by simp [Statement, footprint]

theorem cmdPinEdge (dt : Nat) (pin : Fin 9) (falling : Bool) : Statement (.cmdPinEdge dt pin falling) :=
  by simp [Statement, footprint]

theorem bchAck (dt : Nat) (req : Req) : Statement (.bchAck dt req) := by simp [Statement, footprint]

theorem bchClrCnt (dt : Nat) (req : Req) : Statement (.bchClrCnt dt req) := by simp [Statement, footprint]

theorem dcdVsetWrite (dt : Nat) (req : Req) (val : W32) : Statement (.dcdVsetWrite dt req val) :=
  by simp [Statement, footprint]

theorem dcdStart (dt : Nat) (req : Req) : Statement (.dcdStart dt req) := by simp [Statement, footprint]

theorem dcdStop (dt : Nat) (req : Req) : Statement (.dcdStop dt req) := by simp [Statement, footprint]

theorem dcdAck (dt : Nat) (req : Req) : Statement (.dcdAck dt req) := by simp [Statement, footprint]

theorem dcdClrCnt (dt : Nat) (req : Req) : Statement (.dcdClrCnt dt req) := by simp [Statement, footprint]

theorem dcdTestTimeout (dt : Nat) (p : Fin 4) : Statement (.dcdTestTimeout dt p) :=
  by simp [Statement, footprint, reaction]

theorem softstartTo (dt : Nat) : Statement (.softstartTo dt) := by simp [Statement, footprint, reaction]

theorem cpSample (dt : Nat) (mv : Int) (edge : Option (Bool × Nat)) : Statement (.cpSample dt mv edge) :=
  by simp [Statement, footprint, reaction]

theorem ppSample (dt : Nat) (vpp : Int) (vdda : Int) : Statement (.ppSample dt vpp vdda) :=
  by simp [Statement, footprint, reaction]

theorem obcBmsFrame (dt : Nat) (req : Req) (val : W32) : Statement (.obcBmsFrame dt req val) :=
  by simp [Statement, footprint, reaction]

theorem bmsTimeout (dt : Nat) : Statement (.bmsTimeout dt) := by simp [Statement, footprint, reaction]

theorem obcStart (dt : Nat) (req : Req) (dir : Bool) : Statement (.obcStart dt req dir) :=
  by simp [Statement, footprint]

theorem obcStop (dt : Nat) (req : Req) : Statement (.obcStop dt req) := by simp [Statement, footprint]

theorem obcSetDir (dt : Nat) (req : Req) (dir : Bool) : Statement (.obcSetDir dt req dir) :=
  by simp [Statement, footprint]

theorem obcAck (dt : Nat) (req : Req) : Statement (.obcAck dt req) := by simp [Statement, footprint]

theorem obcClrCnt (dt : Nat) (req : Req) : Statement (.obcClrCnt dt req) := by simp [Statement, footprint]

theorem obcPhaseCountDone (dt : Nat) : Statement (.obcPhaseCountDone dt) := by simp [Statement, footprint, reaction]

theorem prechargeTo (dt : Nat) : Statement (.prechargeTo dt) := by simp [Statement, footprint, reaction]

theorem timerExpired (dt : Nat) (t : Fin 3) : Statement (.timerExpired dt t) :=
  by simp [Statement, footprint, reaction]

theorem obcStopBound (dt : Nat) : Statement (.obcStopBound dt) := by simp [Statement, footprint]

theorem obcPfcInhibit (dt : Nat) : Statement (.obcPfcInhibit dt) := by simp [Statement, footprint]

theorem actCmpWrite (dt : Nat) (req : Req) (n : Fin 6) (leg : Fin 3) (val : W32) :
    Statement (.actCmpWrite dt req n leg val) :=
  by simp [Statement, footprint]

theorem actTgtWrite (dt : Nat) (req : Req) (n : Fin 6) (val : W32) : Statement (.actTgtWrite dt req n val) :=
  by simp [Statement, footprint]

theorem actHallEdge (dt : Nat) (n : Fin 6) (st : BitVec 3) : Statement (.actHallEdge dt n st) :=
  by simp [Statement, footprint, reaction]

theorem actBemfEdge (dt : Nat) (n : Fin 6) : Statement (.actBemfEdge dt n) := by simp [Statement, footprint]

theorem actAlignEnd (dt : Nat) (n : Fin 6) : Statement (.actAlignEnd dt n) := by simp [Statement, footprint]

theorem actForcedCommutation (dt : Nat) (n : Fin 6) : Statement (.actForcedCommutation dt n) :=
  by simp [Statement, footprint]

theorem sensorlessStart (dt : Nat) (n : Fin 6) : Statement (.sensorlessStart dt n) :=
  by simp [Statement, footprint, reaction]

theorem actSpeedTimeout (dt : Nat) (n : Fin 6) : Statement (.actSpeedTimeout dt n) := by simp [Statement, footprint]

theorem actRun (dt : Nat) (req : Req) (n : Fin 6) : Statement (.actRun dt req n) := by simp [Statement, footprint]

theorem actSeq (dt : Nat) (req : Req) (n : Fin 6) : Statement (.actSeq dt req n) := by simp [Statement, footprint]

theorem actBrake (dt : Nat) (req : Req) (n : Fin 6) : Statement (.actBrake dt req n) :=
  by simp [Statement, footprint]

theorem actStop (dt : Nat) (req : Req) (n : Fin 6) : Statement (.actStop dt req n) := by simp [Statement, footprint]

theorem actAck (dt : Nat) (req : Req) (n : Fin 6) : Statement (.actAck dt req n) := by simp [Statement, footprint]

theorem actClrCnt (dt : Nat) (req : Req) (n : Fin 6) : Statement (.actClrCnt dt req n) :=
  by simp [Statement, footprint]

theorem actSetPos (dt : Nat) (req : Req) (n : Fin 6) : Statement (.actSetPos dt req n) :=
  by simp [Statement, footprint]

theorem seqTimeout (dt : Nat) (n : Fin 6) : Statement (.seqTimeout dt n) := by simp [Statement, footprint, reaction]

theorem instructionRetire (dt : Nat) (pair : Fin 3) (side : CoreSide) (word : BitVec 192) :
    Statement (.instructionRetire dt pair side word) :=
  by simp [Statement, footprint]

theorem earlyCompare (dt : Nat) (pair : Fin 3) (mbe : BitVec 4) (maddr : W32) (cbe : BitVec 4) (caddr : W32) (u : CmpUpset) :
    Statement (.earlyCompare dt pair mbe maddr cbe caddr u) :=
  by simp [Statement, footprint, reaction]

theorem loadResponse (dt : Nat) (pair : Fin 3) : Statement (.loadResponse dt pair) :=
  by simp [Statement, footprint, Part.andRegs, allRegs]

theorem compareEntry (dt : Nat) (pair : Fin 3) (u : CmpUpset) : Statement (.compareEntry dt pair u) := butPending

theorem lagTimeout (dt : Nat) (pair : Fin 3) (early : Option Nat) : Statement (.lagTimeout dt pair early) :=
  by simp [Statement, footprint, reaction]

theorem transWindowStart (dt : Nat) : Statement (.transWindowStart dt) := by simp [Statement, footprint]

theorem asyncInputTaken (dt : Nat) (pair : Fin 3) (inp : AsyncIn) : Statement (.asyncInputTaken dt pair inp) :=
  by simp [Statement, footprint]

theorem comparatorProbe (dt : Nat) (cmp : Fin 4) (u : CmpUpset) : Statement (.comparatorProbe dt cmp u) :=
  by simp [Statement, footprint, reaction]

theorem selftestMiss (dt : Nat) (cmp : Fin 4) : Statement (.selftestMiss dt cmp) :=
  by simp [Statement, footprint, reaction]

theorem debugHaltRequest (dt : Nat) (pair : Fin 3) : Statement (.debugHaltRequest dt pair) :=
  by simp [Statement, footprint]

theorem debugHalted (dt : Nat) (pair : Fin 3) : Statement (.debugHalted dt pair) := by simp [Statement, footprint]

theorem debugStep (dt : Nat) (pair : Fin 3) : Statement (.debugStep dt pair) := by simp [Statement, footprint]

theorem debugResume (dt : Nat) (pair : Fin 3) : Statement (.debugResume dt pair) := by simp [Statement, footprint]

theorem lksClrCnt (dt : Nat) (req : Req) : Statement (.lksClrCnt dt req) := by simp [Statement, footprint]

theorem lksProbe (dt : Nat) (req : Req) : Statement (.lksProbe dt req) := by simp [Statement, footprint]

theorem hloAck (dt : Nat) (req : Req) (mask : BitVec 3) : Statement (.hloAck dt req mask) :=
  by simp [Statement, footprint]

theorem hloClrLog (dt : Nat) (req : Req) : Statement (.hloClrLog dt req) := by simp [Statement, footprint]

theorem hloClrFirst (dt : Nat) (req : Req) : Statement (.hloClrFirst dt req) := by simp [Statement, footprint]

theorem watchdogKick (dt : Nat) (req : Req) (val : W32) : Statement (.watchdogKick dt req val) :=
  by simp [Statement, footprint, reaction]

theorem watchdog (dt : Nat) : Statement (.watchdog dt) := by simp [Statement, footprint, reaction]

theorem ghbReadback (dt : Nat) (line : Fin 15) : Statement (.ghbReadback dt line) :=
  by simp [Statement, footprint, reaction]

theorem stoRelease (dt : Nat) (req : Req) (mask : BitVec 3) : Statement (.stoRelease dt req mask) :=
  by simp [Statement, footprint]

theorem stoAssert (dt : Nat) (req : Req) (mask : BitVec 3) : Statement (.stoAssert dt req mask) :=
  by simp [Statement, footprint]

theorem stoConvRelease (dt : Nat) (req : Req) : Statement (.stoConvRelease dt req) := by simp [Statement, footprint]

theorem stoConvAssert (dt : Nat) (req : Req) : Statement (.stoConvAssert dt req) := by simp [Statement, footprint]

theorem stoPathBRelease (dt : Nat) (line : Fin 4) : Statement (.stoPathBRelease dt line) :=
  by simp [Statement, footprint]

theorem stoReadback (dt : Nat) (ball : Fin 8) : Statement (.stoReadback dt ball) :=
  by simp [Statement, footprint, reaction]

theorem stoPath (dt : Nat) (line : Fin 4) : Statement (.stoPath dt line) := by simp [Statement, footprint, reaction]

theorem sfiSample (dt : Nat) (rec1 : BitVec 32) (rec2 : BitVec 32) (fb : BitVec 4) :
    Statement (.sfiSample dt rec1 rec2 fb) :=
  by simp [Statement, footprint, reaction]

theorem tpoPulseStart (dt : Nat) (j : Fin 4) : Statement (.tpoPulseStart dt j) := by simp [Statement, footprint]

theorem tpoPulseEnd (dt : Nat) (j : Fin 4) : Statement (.tpoPulseEnd dt j) := by simp [Statement, footprint]

theorem sfiAck (dt : Nat) (req : Req) (k : Fin 16) : Statement (.sfiAck dt req k) := by simp [Statement, footprint]

theorem sfiClrCnt (dt : Nat) (req : Req) : Statement (.sfiClrCnt dt req) := by simp [Statement, footprint]

theorem ssfSs1 (dt : Nat) (req : Req) (mask : BitVec 3) : Statement (.ssfSs1 dt req mask) :=
  by simp [Statement, footprint, Part.andRegs, allRegs]

theorem ssfBrakeApply (dt : Nat) (req : Req) (ch : BitVec 2) : Statement (.ssfBrakeApply dt req ch) :=
  by simp [Statement, footprint, Part.andRegs, allRegs]

theorem ssfBrakeRelease (dt : Nat) (req : Req) (ch : BitVec 2) : Statement (.ssfBrakeRelease dt req ch) :=
  by simp [Statement, footprint, Part.andRegs, allRegs]

theorem ssfSbcAck (dt : Nat) (req : Req) (ch : BitVec 2) : Statement (.ssfSbcAck dt req ch) :=
  by simp [Statement, footprint, Part.andRegs, allRegs]

theorem ssfClrCnt (dt : Nat) (req : Req) : Statement (.ssfClrCnt dt req) :=
  by simp [Statement, footprint, Part.andRegs, allRegs]

theorem ss1Timeout (dt : Nat) (m : Fin 3) : Statement (.ss1Timeout dt m) :=
  by simp [Statement, footprint, Part.andRegs, allRegs]

theorem sbcApplyDelay (dt : Nat) (c : Fin 2) : Statement (.sbcApplyDelay dt c) := by simp [Statement, footprint]

theorem sbcTestStart (dt : Nat) (c : Fin 2) (ls : Bool) : Statement (.sbcTestStart dt c ls) :=
  by simp [Statement, footprint]

theorem sbcTestEnd (dt : Nat) (c : Fin 2) (fb1 : Bool) (fb2 : Bool) : Statement (.sbcTestEnd dt c fb1 fb2) :=
  by simp [Statement, footprint, reaction]

theorem scfOpen (dt : Nat) (req : Req) (len : Fin 64) : Statement (.scfOpen dt req len) :=
  by simp [Statement, footprint]

theorem scfClose (dt : Nat) (req : Req) : Statement (.scfClose dt req) :=
  by simp [Statement, footprint, Part.andRegs, allRegs]

theorem scfSetPwd (dt : Nat) (req : Req) (len : Fin 64) : Statement (.scfSetPwd dt req len) :=
  by simp [Statement, footprint]

theorem scfConfirm (dt : Nat) (req : Req) : Statement (.scfConfirm dt req) := by simp [Statement, footprint]

theorem scfRevert (dt : Nat) (req : Req) : Statement (.scfRevert dt req) := by simp [Statement, footprint]

theorem scfStoreDone (dt : Nat) (ok : Bool) : Statement (.scfStoreDone dt ok) := by simp [Statement, footprint]

theorem lockoutEnd (dt : Nat) : Statement (.lockoutEnd dt) := by simp [Statement, footprint]

theorem sessionTimeout (dt : Nat) : Statement (.sessionTimeout dt) :=
  by simp [Statement, footprint, Part.andRegs, allRegs]

theorem slgRdseqWrite (dt : Nat) (req : Req) (val : W32) : Statement (.slgRdseqWrite dt req val) :=
  by simp [Statement, footprint]

theorem slgCopyDone (dt : Nat) : Statement (.slgCopyDone dt) := by simp [Statement, footprint]

theorem zenithScan (dt : Nat) (temps : Vector Int 24) : Statement (.zenithScan dt temps) :=
  by simp [Statement, footprint, reaction]

theorem busAccess (dt : Nat) (reqs : List BusReq) (ecc : Ecc) : Statement (.busAccess dt reqs ecc) := butPending

theorem arbWindowStart (dt : Nat) : Statement (.arbWindowStart dt) := by simp [Statement, footprint]

theorem starvation (dt : Nat) (req : Req) (bank : Nat) : Statement (.starvation dt req bank) :=
  by simp [Statement, footprint]

theorem scrubAccess (dt : Nat) (bank : Fin 25) (ecc : Ecc) : Statement (.scrubAccess dt bank ecc) :=
  by simp [Statement, footprint, reaction]

theorem flsProgram (dt : Nat) (req : Req) : Statement (.flsProgram dt req) := by simp [Statement, footprint]

theorem flsErase (dt : Nat) (req : Req) : Statement (.flsErase dt req) := by simp [Statement, footprint]

theorem flashOpDone (dt : Nat) (ok : Bool) : Statement (.flashOpDone dt ok) := by simp [Statement, footprint]

theorem arbClrCnt (dt : Nat) (req : Req) : Statement (.arbClrCnt dt req) := by simp [Statement, footprint]

theorem dmaStart (dt : Nat) (req : Req) (ch : Fin 16) : Statement (.dmaStart dt req ch) :=
  by simp [Statement, footprint]

theorem dmaStop (dt : Nat) (req : Req) (ch : Fin 16) : Statement (.dmaStop dt req ch) :=
  by simp [Statement, footprint]

theorem dmaClrCnt (dt : Nat) (req : Req) (ch : Fin 16) : Statement (.dmaClrCnt dt req ch) :=
  by simp [Statement, footprint]

theorem dmaPeriphRequest (dt : Nat) (ch : Fin 16) : Statement (.dmaPeriphRequest dt ch) :=
  by simp [Statement, footprint, Part.andRegs, allRegs]

theorem dmaRecordDone (dt : Nat) (ch : Fin 16) (err : Bool) : Statement (.dmaRecordDone dt ch err) :=
  by simp [Statement, footprint]

theorem dmaBlockBurst (dt : Nat) (ch : Fin 16) (err : Bool) : Statement (.dmaBlockBurst dt ch err) := butPending

theorem dmaBlockDone (dt : Nat) (ch : Fin 16) : Statement (.dmaBlockDone dt ch) := by simp [Statement, footprint]

theorem dmaRptrWrite (dt : Nat) (req : Req) (ch : Fin 16) (val : W32) : Statement (.dmaRptrWrite dt req ch val) :=
  by simp [Statement, footprint]

theorem crcStart (dt : Nat) (req : Req) (ix : Fin 4) : Statement (.crcStart dt req ix) :=
  by simp [Statement, footprint]

theorem crcDinWrite (dt : Nat) (req : Req) (ix : Fin 4) (be : BitVec 4) (val : W32) :
    Statement (.crcDinWrite dt req ix be val) :=
  by simp [Statement, footprint]

theorem canStart (dt : Nat) (req : Req) (ix : Fin 4) : Statement (.canStart dt req ix) :=
  by simp [Statement, footprint]

theorem canStop (dt : Nat) (req : Req) (ix : Fin 4) : Statement (.canStop dt req ix) :=
  by simp [Statement, footprint]

theorem canRecover (dt : Nat) (req : Req) (ix : Fin 4) : Statement (.canRecover dt req ix) :=
  by simp [Statement, footprint]

theorem canTxuAbort (dt : Nat) (req : Req) (ix : Fin 4) : Statement (.canTxuAbort dt req ix) :=
  by simp [Statement, footprint]

theorem canFlush (dt : Nat) (req : Req) (ix : Fin 4) : Statement (.canFlush dt req ix) :=
  by simp [Statement, footprint]

theorem canClrCnt (dt : Nat) (req : Req) (ix : Fin 4) : Statement (.canClrCnt dt req ix) :=
  by simp [Statement, footprint]

theorem canPushFifo (dt : Nat) (req : Req) (ix : Fin 4) : Statement (.canPushFifo dt req ix) :=
  by simp [Statement, footprint]

theorem canPushTxu (dt : Nat) (req : Req) (ix : Fin 4) : Statement (.canPushTxu dt req ix) :=
  by simp [Statement, footprint]

theorem canStartOfFrame (dt : Nat) (ix : Fin 4) : Statement (.canStartOfFrame dt ix) :=
  by simp [Statement, footprint]

theorem canTxDone (dt : Nat) (ix : Fin 4) (tdc : Fin 128) : Statement (.canTxDone dt ix tdc) :=
  by simp [Statement, footprint, reaction]

theorem canRxFrame (dt : Nat) (ix : Fin 4) (f : CanFrame) : Statement (.canRxFrame dt ix f) :=
  by simp [Statement, footprint, reaction]

theorem canError (dt : Nat) (ix : Fin 4) (e : CanErr) : Statement (.canError dt ix e) :=
  by simp [Statement, footprint, reaction]

theorem canIdleDetect (dt : Nat) (ix : Fin 4) : Statement (.canIdleDetect dt ix) :=
  by simp [Statement, footprint, reaction]

theorem canRecoveryDone (dt : Nat) (ix : Fin 4) : Statement (.canRecoveryDone dt ix) :=
  by simp [Statement, footprint]

theorem headAge (dt : Nat) (ix : Fin 4) : Statement (.headAge dt ix) := by simp [Statement, footprint, reaction]

theorem canRxpop (dt : Nat) (req : Req) (ix : Fin 4) : Statement (.canRxpop dt req ix) :=
  by simp [Statement, footprint]

theorem canHppop (dt : Nat) (req : Req) (ix : Fin 4) : Statement (.canHppop dt req ix) :=
  by simp [Statement, footprint]

theorem clfSignalDetect (dt : Nat) (p : Fin 2) : Statement (.clfSignalDetect dt p) := by simp [Statement, footprint]

theorem clfTrainDone (dt : Nat) (p : Fin 2) : Statement (.clfTrainDone dt p) := by simp [Statement, footprint]

theorem clfTrainTimeout (dt : Nat) (p : Fin 2) (oneLane : Bool) : Statement (.clfTrainTimeout dt p oneLane) :=
  by simp [Statement, footprint]

theorem clfLaneFault (dt : Nat) (p : Fin 2) (both : Bool) : Statement (.clfLaneFault dt p both) :=
  by simp [Statement, footprint]

theorem clfRescan (dt : Nat) (req : Req) : Statement (.clfRescan dt req) := by simp [Statement, footprint]

theorem clfRetrain (dt : Nat) (req : Req) (ports : BitVec 2) : Statement (.clfRetrain dt req ports) :=
  by simp [Statement, footprint]

theorem clfClrCnt (dt : Nat) (req : Req) : Statement (.clfClrCnt dt req) := by simp [Statement, footprint]

theorem clfHelloSend (dt : Nat) (done : Bool) : Statement (.clfHelloSend dt done) := by simp [Statement, footprint]

theorem clfHelloRx (dt : Nat) (p : Fin 2) (h : ClfHello) (done : Bool) : Statement (.clfHelloRx dt p h done) :=
  by simp [Statement, footprint]

theorem clfAssignRx (dt : Nat) (p : Fin 2) (id : Nat) (n : Nat) (hops : Nat) :
    Statement (.clfAssignRx dt p id n hops) :=
  by simp [Statement, footprint]

theorem clfPdRequest (dt : Nat) (p : Fin 2) (fine : Fin 128) : Statement (.clfPdRequest dt p fine) :=
  by simp [Statement, footprint]

theorem clfPdreqRx (dt : Nat) (p : Fin 2) (fine : Fin 128) : Statement (.clfPdreqRx dt p fine) :=
  by simp [Statement, footprint]

theorem clfPdrespRx (dt : Nat) (p : Fin 2) (t2 : Nat) (t3 : Nat) (fine : Fin 128) :
    Statement (.clfPdrespRx dt p t2 t3 fine) :=
  by simp [Statement, footprint]

theorem clfFrameRx (dt : Nat) (p : Fin 2) (f : ClfFrame) (good : Bool) (marked : Bool) :
    Statement (.clfFrameRx dt p f good marked) :=
  by simp [Statement, footprint]

theorem clfTimeRx (dt : Nat) (p : Fin 2) (f : ClfTime) (fine : Fin 128) : Statement (.clfTimeRx dt p f fine) :=
  by simp [Statement, footprint, reaction]

theorem clfTxbufRead (dt : Nat) (slot : Fin 255) : Statement (.clfTxbufRead dt slot) :=
  by simp [Statement, footprint]

theorem clfSlotTx (dt : Nat) (slot : Fin 255) (done : Bool) : Statement (.clfSlotTx dt slot done) :=
  by simp [Statement, footprint]

theorem clfSuperframe (dt : Nat) : Statement (.clfSuperframe dt) := by simp [Statement, footprint, reaction]

theorem clfSwapatWrite (dt : Nat) (req : Req) (val : W32) : Statement (.clfSwapatWrite dt req val) :=
  by simp [Statement, footprint]

theorem clfSlotBankWrite (dt : Nat) (req : Req) (addr : Nat) (be : BitVec 4) (val : W32) :
    Statement (.clfSlotBankWrite dt req addr be val) :=
  by simp [Statement, footprint]

theorem clfRouteWrite (dt : Nat) (req : Req) (addr : Nat) (be : BitVec 4) (val : W32) :
    Statement (.clfRouteWrite dt req addr be val) :=
  by simp [Statement, footprint]

theorem clfRingRptrWrite (dt : Nat) (req : Req) (k : Fin 16) (val : W32) :
    Statement (.clfRingRptrWrite dt req k val) :=
  by simp [Statement, footprint]

theorem supplyValid (dt : Nat) (k : Fin 6) : Statement (.supplyValid dt k) := by simp [Statement, footprint]

theorem actSectorAdvance (dt : Nat) (n : Fin 6) : Statement (.actSectorAdvance dt n) :=
  by simp [Statement, footprint]

theorem ghbHalfPeriod (dt : Nat) (line : Fin 15) : Statement (.ghbHalfPeriod dt line) :=
  by simp [Statement, footprint]

theorem imgcrcRecomputed (dt : Nat) : Statement (.imgcrcRecomputed dt) := by simp [Statement, footprint]

theorem logProgramDone (dt : Nat) (ok : Bool) : Statement (.logProgramDone dt ok) :=
  by simp [Statement, footprint, Part.andRegs, allRegs]

theorem errorRateWindowStart (dt : Nat) : Statement (.errorRateWindowStart dt) := by simp [Statement, footprint]

end Sys2Proof.Laws.KeepsQueue
end

