-- ==== Sys2Proof/WellFormed.lean ====
section
/-! DEFINITION. Which commands are well formed: requesters that exist (R64), pages of the page table (R40), addresses of
32 bits, locks and banks that exist, frames of legal shape. The model gives ill-formed commands a meaning too; nothing in
the spec can issue them. -/

namespace Sys2Proof
open Sys2Proof.Machine

/-- A requester that issues accesses: IDs 12 to 15 are reserved and never issued (R64). -/
def wfReq (r : Req) : Bool := decide (r.1 < 12)

/-- A page with the common header (R40, R41). -/
def wfPage (p : Page) : Bool := pageValid p && hasHeader p

/-- A word address of the 32-bit address space (R39). -/
def wfWord (a : Nat) : Bool := decide (a < 2 ^ 32) && decide (a % 4 = 0)

/-- A lock (R58): 0 to 3 of ADH0 to ADH3, 4 to 7 of CRC0 to CRC3, 8 to 23 of DMA channels 0 to 15. -/
def wfLock (l : Nat) : Bool := decide (l < 24)

/-- A bank of the arbiter (R394): 0 to 23 of SRAM and 24 to 31 as `ARB_CNTSEL` numbers the rest. -/
def wfBank (b : Nat) : Bool := decide (b < 32)

/-- Bus requests of one decision: each of an issued requester, of 1, 2 or 4 bytes, at an address of 32 bits. -/
def wfBus (l : List BusReq) : Bool :=
  l.all fun r => wfReq r.req && decide (r.addr < 2 ^ 32) && decide (r.size.1 ≤ 2)

/-- A CAN frame of legal identifier and payload length (R411). -/
def wfCan (f : CanFrame) : Bool :=
  decide (f.id < (if f.ide then 2 ^ 29 else 2 ^ 11)) && decide (f.data.length ≤ 16)

/-- A fabric frame whose payload is at most 256 bytes, 64 words (R428). -/
def wfClf (f : ClfFrame) : Bool := decide (f.payload.length ≤ 64)

/-- The well-formed commands. -/
def Instr.wf : Instr → Bool
  | .powerValid _ _ => true
  | .supplyUv _ _ => true
  | .supplyOv _ _ => true
  | .nresetAssert _ => true
  | .nresetRelease _ _ _ => true
  | .rstCmdDevice _ req => wfReq req
  | .rstCmdAp0 _ req => wfReq req
  | .rstCmdAp1 _ req => wfReq req
  | .pairRestart _ _ => true
  | .debugSystemReset _ => true
  | .bootSlotCheck _ _ _ => true
  | .bootHandover _ => true
  | .bootTimeout _ => true
  | .startTestComplete _ _ => true
  | .selftestTimeout _ => true
  | .keyRevoke _ req _ => wfReq req
  | .outReadback _ _ => true
  | .jtagBypass _ => true
  | .jtagIdcode _ => true
  | .jtagSamplePreload _ _ => true
  | .jtagDtm _ => true
  | .jtagExtest _ => true
  | .jtagClamp _ => true
  | .jtagHighz _ => true
  | .standby _ req => wfReq req
  | .drive _ req => wfReq req
  | .charge _ req => wfReq req
  | .service _ req => wfReq req
  | .safeHold _ req => wfReq req
  | .stateTransitionDone _ => true
  | .registerWrite _ req addr _ _ => wfReq req && wfWord addr
  | .keyWrite _ req page _ => wfReq req && wfPage page
  | .unlockLapse _ req page => wfReq req && wfPage page
  | .pairReadLo _ req addr => wfReq req && wfWord addr
  | .pairReadHi _ req addr => wfReq req && wfWord addr
  | .pairWriteLo _ req addr _ => wfReq req && wfWord addr
  | .pairWriteHi _ req addr _ => wfReq req && wfWord addr
  | .softRst _ req page => wfReq req && wfPage page
  | .evtForce _ req page _ => wfReq req && wfPage page
  | .evtClear _ req page _ _ => wfReq req && wfPage page
  | .csetStage _ req page _ => wfReq req && wfPage page
  | .csetCommit _ req page _ => wfReq req && wfPage page
  | .csetAbort _ req page _ => wfReq req && wfPage page
  | .domainCommit _ _ => true
  | .ownerAcq _ req lock _ => wfReq req && wfLock lock
  | .ownerRel _ req lock => wfReq req && wfLock lock
  | .refQualified _ _ => true
  | .directLock _ => true
  | .glideDone _ => true
  | .refLost _ => true
  | .refNever _ => true
  | .rateFail _ => true
  | .countMismatch _ => true
  | .lgPeriodStart _ _ => true
  | .cmpMatch _ _ => true
  | .capture _ _ _ _ => true
  | .capStampLoRead _ req _ => wfReq req
  | .interpolatorSwap _ _ _ => true
  | .calStale _ _ => true
  | .syncInEdge _ _ _ => true
  | .syncLost _ _ => true
  | .syncOutEnd _ => true
  | .steerLimit _ => true
  | .tpwCmpWrite _ req _ _ _ => wfReq req
  | .tpwUpdatePoint _ _ => true
  | .tpwPatSwitch _ req _ => wfReq req
  | .tpwPatPi _ req _ => wfReq req
  | .tpwPatAscLow _ req _ => wfReq req
  | .tpwPatAscHigh _ req _ => wfReq req
  | .outMismatch _ _ _ => true
  | .shootThrough _ _ _ => true
  | .adfHold _ _ => true
  | .adfSlotLatch _ _ _ _ => true
  | .lateResult _ _ _ => true
  | .adfInjGo _ req _ => wfReq req
  | .adfInjLatch _ _ _ => true
  | .adfOwTest _ _ _ _ => true
  | .calStep _ _ _ _ => true
  | .calWindowEnd _ => true
  | .refBufferReady _ _ => true
  | .refMonitorCheck _ _ _ => true
  | .adhRegTrigger _ _ => true
  | .adhReggo _ req _ => wfReq req
  | .adhGo _ req _ => wfReq req
  | .adhEntryLatch _ _ _ => true
  | .ctxTrigger _ _ => true
  | .updraftPredict _ _ => true
  | .ctxExecStart _ _ _ => true
  | .ctxExecComplete _ _ _ _ _ => true
  | .updraftCheck _ _ => true
  | .ctxCommit _ _ => true
  | .engineStall _ _ => true
  | .cirClrCnt _ req _ => wfReq req
  | .cirTrig _ req _ => wfReq req
  | .rsvSample _ _ _ _ => true
  | .rsvPeriodCheck _ _ _ _ _ _ _ => true
  | .encEdge _ _ _ _ => true
  | .encIndex _ _ => true
  | .encSpeedTimeout _ _ => true
  | .hallEdge _ _ _ => true
  | .fusionUpdate _ _ => true
  | .reacqDecision _ _ => true
  | .reacqFail _ _ => true
  | .posRestart _ req _ => wfReq req
  | .posSeedEnc _ req _ => wfReq req
  | .posClrCnt _ req _ => wfReq req
  | .msvTcmdWrite _ req _ _ => wfReq req
  | .tcmdTimeout _ _ => true
  | .msvRun _ req _ => wfReq req
  | .msvStop _ req _ => wfReq req
  | .msvDirFwd _ req _ => wfReq req
  | .msvDirRev _ req _ => wfReq req
  | .msvDirBoth _ req _ => wfReq req
  | .msvOnesetRestore _ req _ => wfReq req
  | .msvAck _ req _ => wfReq req
  | .msvClrCnt _ req _ => wfReq req
  | .lhPinSample _ _ _ => true
  | .cmdPinEdge _ _ _ => true
  | .bchAck _ req => wfReq req
  | .bchClrCnt _ req => wfReq req
  | .dcdVsetWrite _ req _ => wfReq req
  | .dcdStart _ req => wfReq req
  | .dcdStop _ req => wfReq req
  | .dcdAck _ req => wfReq req
  | .dcdClrCnt _ req => wfReq req
  | .dcdTestTimeout _ _ => true
  | .softstartTo _ => true
  | .cpSample _ _ _ => true
  | .ppSample _ _ _ => true
  | .obcBmsFrame _ req _ => wfReq req
  | .bmsTimeout _ => true
  | .obcStart _ req _ => wfReq req
  | .obcStop _ req => wfReq req
  | .obcSetDir _ req _ => wfReq req
  | .obcAck _ req => wfReq req
  | .obcClrCnt _ req => wfReq req
  | .obcPhaseCountDone _ => true
  | .prechargeTo _ => true
  | .timerExpired _ _ => true
  | .obcStopBound _ => true
  | .obcPfcInhibit _ => true
  | .actCmpWrite _ req _ _ _ => wfReq req
  | .actTgtWrite _ req _ _ => wfReq req
  | .actHallEdge _ _ _ => true
  | .actBemfEdge _ _ => true
  | .actAlignEnd _ _ => true
  | .actForcedCommutation _ _ => true
  | .sensorlessStart _ _ => true
  | .actSpeedTimeout _ _ => true
  | .actRun _ req _ => wfReq req
  | .actSeq _ req _ => wfReq req
  | .actBrake _ req _ => wfReq req
  | .actStop _ req _ => wfReq req
  | .actAck _ req _ => wfReq req
  | .actClrCnt _ req _ => wfReq req
  | .actSetPos _ req _ => wfReq req
  | .seqTimeout _ _ => true
  | .instructionRetire _ _ _ _ => true
  | .earlyCompare _ _ _ _ _ _ _ => true
  | .loadResponse _ _ => true
  | .compareEntry _ _ _ => true
  | .lagTimeout _ _ _ => true
  | .transWindowStart _ => true
  | .asyncInputTaken _ _ _ => true
  | .comparatorProbe _ _ _ => true
  | .selftestMiss _ _ => true
  | .debugHaltRequest _ _ => true
  | .debugHalted _ _ => true
  | .debugStep _ _ => true
  | .debugResume _ _ => true
  | .lksClrCnt _ req => wfReq req
  | .lksProbe _ req => wfReq req
  | .hloAck _ req _ => wfReq req
  | .hloClrLog _ req => wfReq req
  | .hloClrFirst _ req => wfReq req
  | .watchdogKick _ req _ => wfReq req
  | .watchdog _ => true
  | .ghbReadback _ _ => true
  | .stoRelease _ req _ => wfReq req
  | .stoAssert _ req _ => wfReq req
  | .stoConvRelease _ req => wfReq req
  | .stoConvAssert _ req => wfReq req
  | .stoPathBRelease _ _ => true
  | .stoReadback _ _ => true
  | .stoPath _ _ => true
  | .sfiSample _ _ _ _ => true
  | .tpoPulseStart _ _ => true
  | .tpoPulseEnd _ _ => true
  | .sfiAck _ req _ => wfReq req
  | .sfiClrCnt _ req => wfReq req
  | .ssfSs1 _ req _ => wfReq req
  | .ssfBrakeApply _ req _ => wfReq req
  | .ssfBrakeRelease _ req _ => wfReq req
  | .ssfSbcAck _ req _ => wfReq req
  | .ssfClrCnt _ req => wfReq req
  | .ss1Timeout _ _ => true
  | .sbcApplyDelay _ _ => true
  | .sbcTestStart _ _ _ => true
  | .sbcTestEnd _ _ _ _ => true
  | .scfOpen _ req _ => wfReq req
  | .scfClose _ req => wfReq req
  | .scfSetPwd _ req _ => wfReq req
  | .scfConfirm _ req => wfReq req
  | .scfRevert _ req => wfReq req
  | .scfStoreDone _ _ => true
  | .lockoutEnd _ => true
  | .sessionTimeout _ => true
  | .slgRdseqWrite _ req _ => wfReq req
  | .slgCopyDone _ => true
  | .zenithScan _ _ => true
  | .busAccess _ reqs _ => wfBus reqs
  | .arbWindowStart _ => true
  | .starvation _ req bank => wfReq req && wfBank bank
  | .scrubAccess _ _ _ => true
  | .flsProgram _ req => wfReq req
  | .flsErase _ req => wfReq req
  | .flashOpDone _ _ => true
  | .arbClrCnt _ req => wfReq req
  | .dmaStart _ req _ => wfReq req
  | .dmaStop _ req _ => wfReq req
  | .dmaClrCnt _ req _ => wfReq req
  | .dmaPeriphRequest _ _ => true
  | .dmaRecordDone _ _ _ => true
  | .dmaBlockBurst _ _ _ => true
  | .dmaBlockDone _ _ => true
  | .dmaRptrWrite _ req _ _ => wfReq req
  | .crcStart _ req _ => wfReq req
  | .crcDinWrite _ req _ _ _ => wfReq req
  | .canStart _ req _ => wfReq req
  | .canStop _ req _ => wfReq req
  | .canRecover _ req _ => wfReq req
  | .canTxuAbort _ req _ => wfReq req
  | .canFlush _ req _ => wfReq req
  | .canClrCnt _ req _ => wfReq req
  | .canPushFifo _ req _ => wfReq req
  | .canPushTxu _ req _ => wfReq req
  | .canStartOfFrame _ _ => true
  | .canTxDone _ _ _ => true
  | .canRxFrame _ _ f => wfCan f
  | .canError _ _ _ => true
  | .canIdleDetect _ _ => true
  | .canRecoveryDone _ _ => true
  | .headAge _ _ => true
  | .canRxpop _ req _ => wfReq req
  | .canHppop _ req _ => wfReq req
  | .clfSignalDetect _ _ => true
  | .clfTrainDone _ _ => true
  | .clfTrainTimeout _ _ _ => true
  | .clfLaneFault _ _ _ => true
  | .clfRescan _ req => wfReq req
  | .clfRetrain _ req _ => wfReq req
  | .clfClrCnt _ req => wfReq req
  | .clfHelloSend _ _ => true
  | .clfHelloRx _ _ _ _ => true
  | .clfAssignRx _ _ _ _ _ => true
  | .clfPdRequest _ _ _ => true
  | .clfPdreqRx _ _ _ => true
  | .clfPdrespRx _ _ _ _ _ => true
  | .clfFrameRx _ _ f _ _ => wfClf f
  | .clfTimeRx _ _ _ _ => true
  | .clfTxbufRead _ _ => true
  | .clfSlotTx _ _ _ => true
  | .clfSuperframe _ => true
  | .clfSwapatWrite _ req _ => wfReq req
  | .clfSlotBankWrite _ req addr _ _ => wfReq req && wfWord addr
  | .clfRouteWrite _ req addr _ _ => wfReq req && wfWord addr
  | .clfRingRptrWrite _ req _ _ => wfReq req
  | .supplyValid _ _ => true
  | .actSectorAdvance _ _ => true
  | .ghbHalfPeriod _ _ => true
  | .imgcrcRecomputed _ => true
  | .logProgramDone _ _ => true
  | .errorRateWindowStart _ => true

end Sys2Proof
end

