-- ==== Sys2Proof/Tests/Slice0.lean ====
section
/-! SUPPORT. Tests: a witness for the hypotheses of every clause of every statement, ill-formed commands that the check
refuses, values the spec prints, and single steps. -/

namespace Sys2Proof.Tests
open Sys2Proof Sys2Proof.Machine

set_option Elab.async false

/-! ### States of the tests -/

/-- Reset, but in device state `d`. -/
def inState (d : DState) : State :=
  ((State.reset.put SYS.pg SYS.DSTAT_DSTATE d.code).put SYS.pg SYS.DSTAT_TARGET d.code).flag SYS.pg SYS.DSTAT_TRANS
    (d == .boot || d == .selftest)

/-- Requester `r` holds an open change set on some pages. -/
def withPages (r : Fin 16) (ps : List Page) : State :=
  { State.reset with sets := vset State.reset.sets r { CSet.empty with pages := ps } }

/-- A set on the GPIO page that stages `GPIO_DIRk`. -/
def gpioSet (k v m : Nat) : CSet :=
  { CSet.empty with pages := [GPIO.pg], words := [⟨fldAddr GPIO.pg (GPIO.DIR.ix k), v, m⟩] }

/-- Lock group `g` with hidden state `h`. -/
def withGroup (g : Fin 15) (h : LgH) : State := { State.reset with lg := vset State.reset.lg g h }

/-- A word as four bytes, least significant first. -/
def lowBytes (v : Nat) : List Byte := (List.range 4).map fun i => BitVec.ofNat 8 (v / 256 ^ i)

/-- The bytes of a number, most significant first. -/
def highBytes (v n : Nat) : List Byte := (List.range n).map fun i => BitVec.ofNat 8 (v / 256 ^ (n - 1 - i))

/-- The header of an image of 16 bytes with a public key and a signature by its private key (RFC 6979, A.2.5), made with a
script of its own outside the model. -/
def imageHeader : List Byte :=
  [0x38345859, 1, 7, 16, 0x08000100, 0x08000104, 0x08000108, 0xFF].flatMap lowBytes ++
  highBytes 0x5dfbabeedf318bf33c0927c43d7630f51b82f351740301354fa3d7fc51f0132e 32 ++
  highBytes 0x60fed4ba255a9d31c961eb74c6356d68c049b8923b61fa6ce669622e60f29fb6 32 ++
  highBytes 0x7903fe1008b8bc99a41ae9e95628bc64f2f1b20c2d7e9f5177a3c294d4462299 32 ++
  highBytes 0xefd48b2aacb6a8fd1140dd9cd45e81d69d2c877b56aaf991c34d0ea84eaf3716 32 ++
  highBytes 0x4e83620b5f2b6c22d43d234e5140c19689221b1ca0843515c84180c6e7b28b14 32

/-- Slot A holds that image, whose key hashes to KH0. -/
def goodSlot : State :=
  { State.reset with
    regs := [(0x4000005C, 0#32)]
    mem := (imageHeader.zipIdx.map fun (b, i) => (0x08000000 + i, b)) ++
      (List.range 16).map fun i => (0x08000100 + i, BitVec.ofNat 8 (i + 1))
    dev := { State.reset.dev with keyHash0 :=
      0xd6c23e2744a840cb3a5a14b6554cce7c070057c4e3298cb93577de687eece659 } }


/-- ADF group 0, triggered by compare channel 0, which matches in tick 5. -/
def trigGroup : State :=
  ({ State.reset with tbu := { State.reset.tbu with cmpTick := vset State.reset.tbu.cmpTick 0 (some 5) } }.flag (ADF.pg 0)
    HDR.CTRL_EN true).put (ADF.pg 0) ADF.CFG_SRC 1

/-- Context 0, enabled and triggered by compare channel 0, which matches in tick 0. -/
def trigContext : State :=
  ({ State.reset with tbu := { State.reset.tbu with cmpTick := vset State.reset.tbu.cmpTick 0 (some 0) } }.flag (CTX.pg 0)
    CTX.CFG_EN true).put (CTX.pg 0) CTX.TRIG_SRC 2

/-- Context 0 in Updraft, one PLEAD and a tick before the period start of lock group 0. -/
def predContext : State :=
  (((((withGroup 0 { LgH.idle with
    next := some (101 * 128), period := 512000 }).flag TBU.pg (TBU.LG_STAT_RUNNING.ix 0) true).flag (CTX.pg 0) CTX.CFG_EN
    true).flag (CTX.pg 0) CTX.CFG_UPD true).put (CTX.pg 0) CTX.TRIG_SRC 0).put (CTX.pg 0) CTX.TIME_PLEAD 100

/-- A taken execution that waits. -/
def anExec : Exec := newExec 0 true false

/-- Context 0 with an execution. -/
def execContext (f : Exec → Exec) : State := State.reset.ctxSet 0 fun c => { c with exec := some (f anExec) }

/-- Position unit 0 in a state, with the enabled sources `en`. -/
def posUnit (st en : Nat) : State := (State.reset.put (POS.pg 0) POS.ANG_STATE st).put (POS.pg 0) POS.CFG_SRCEN en

/-- The inlet is decoded in STANDBY. -/
def inlet : State := (inState .standby).flag OBC.pg OBC.CFG_INLET_EN true

/-- Actuator 0 enabled in STANDBY, with its heartbeat, in state `st`. -/
def actReady (st : Nat) : State :=
  (((inState .standby).put GHB.pg GHB.STAT_RUN 0x4000).flag (ACT.pg 0) HDR.CTRL_EN true).put (ACT.pg 0) ACT.STAT_STATE st

/-- The HS pair runs. -/
def runPair (f : PairH → PairH) : State := State.reset.pairSet 2 fun h => f { h with run := true }

/-- The watchdog interval starts in tick 0. -/
def kicked : State := { State.reset with halo := { State.reset.halo with kickAt := some 0 } }

/-- Safe input 15 demands while both channels read the run level. -/
def demandInput : State :=
  (State.reset.sfiSet 15 fun x => { x with demand := true, c1 := { x.c1 with st := .run }, c2 := { x.c2 with st := .run } }).flag
    SFI.pg (SFI.CFG_EN.ix 15) true

/-- Brake channel 0 with hidden state `h`. -/
def withBrake (h : SbcH) : State := { State.reset with halo := { State.reset.halo with sbc := vset State.reset.halo.sbc 0 h } }

/-- SERVICE with a session in AUTH. -/
def session : State := (inState .service).put SCF.pg SCF.STAT_SESSION 1

/-- The newest record holds a password. -/
def withPassword (s : State) : State := { s with scf := { s.scf with rec0 := { s.scf.rec0 with pwd := some (1, 2) } } }

/-- One entry of the change log waits for its programming. -/
def queued : State := { State.reset with scf := { State.reset.scf with queue := [⟨8, 0, 0, 4, 0, none⟩] } }

/-- Requester 11 has unlocked ARB and points at 16 erased bytes. -/
def blankFlash : State :=
  { (State.reset.setUnlock ARB.pg 11 (.held 0)).put ARB.pg ARB.FLS_ADDR_ADDR 0x08FBFFF0 with
    mem := (List.range 16).map fun i => (0x08FBFFF0 + i, 0xFF#8) }

/-- A CAN frame with identifier 1. -/
def aFrame : CanFrame := ⟨false, 1, false, false, false, false, 1, [7]⟩

/-- Controller 3 with hidden state `h`, in INIT and on the bus. -/
def withCan (h : CanH) : State := { State.reset with canH := vset State.reset.canH 3 h }
def liveCan (h : CanH) : State := (withCan h).put (CAN.pg 3) CAN.STAT_STATE 1

/-- The node in state `st`, its east port in link state `l`. -/
def clfAt (st l : Nat) : State := (State.reset.put CLF.pg CLF.STAT_STATE st).put CLF.pg CLF.LINK_E l

/-- A frame of node 1 outside the slots. -/
def dataFrame : ClfFrame := ⟨0xFF, 1, 0, 1, 0, 0, 0xFF, []⟩

/-- In RUN, slot 254 of bank 0 is the node's own, at offset 12,000, with payload source `k`. -/
def ownSlot (k : Nat) : State :=
  (((clfAt 4 2).wr 0x40081FE0 (BitVec.ofNat 32 (0x80000000 + k * 2 ^ 28))).wr 0x40081FE4 12000#32).wr 0x40081FE8 0x0BB80004#32

/-- In RUN, bank 1 is valid: slot 0 carries the TIME frame of the root, node 0. -/
def loadedBank : State := ((clfAt 4 2).wr 0x40082000 0xA0000000#32).wr 0x40082008 0x0BB80014#32

/-! ### Witnesses for the hypotheses of the statements, one for each clause that has any -/

theorem witness_EmptyQueuePassesOneTick : ∃ (s : State), s.pending = [] :=
  ⟨State.reset, by decide +kernel⟩

theorem witness_ResetIsCanonicalAndWaitsInBoot : ∃ (a : Nat), (regionOf a = some Region.sram ∨ regionOf a = some
    Region.halo) :=
  ⟨0x20000000, by decide +kernel⟩

theorem witness_HaloPagesTakeWritesOfHsOnly : ∃ (req : Req) (addr : Nat) (p : Page), pageAt addr = some p ∧ isHalo p =
    true ∧ req.val ≠ 2 :=
  ⟨0, 0x50000040, HLO.pg, by decide +kernel⟩

theorem witness_SuppliesAndResetsRestartTheDevice_2 : ∃ (s : State), s.dev.off = true ∧ s.dev.waitDone = false ∧ (∀ (k
    : Fin 6), vget s.dev.supplyOk k = true) ∧ s.dev.nresetLow = false :=
  ⟨State.reset.devSet fun d => { d with off := true, waitDone := false }, by decide +kernel⟩

theorem witness_SuppliesAndResetsRestartTheDevice_5 : ∃ (s : State), s.dev.nresetLow = true ∧ s.dev.waitDone = true :=
  ⟨State.reset.devSet fun d => { d with nresetLow := true }, by decide +kernel⟩

theorem witness_SuppliesAndResetsRestartTheDevice_6 : ∃ (dt : Nat) (req : Req) (s : State), (s.advance dt).unlocked
    RST.pg req.val = true ∧ ((s.dstate = DState.standby ∨ s.dstate = DState.service) ∧ (req.val ≤ 2 ∨ req.val = 11) ∨
    s.dstate = DState.safeHold ∧ (req.val = 2 ∨ req.val = 11)) :=
  ⟨64, 2, (inState .standby).setUnlock RST.pg 2 (.held 0), by decide +kernel⟩

theorem witness_SuppliesAndResetsRestartTheDevice_7 : ∃ (s : State), s.dev.off = false :=
  ⟨State.reset, by decide +kernel⟩

theorem witness_SuppliesAndResetsRestartTheDevice_8 : ∃ (dt : Nat) (req : Req) (s : State), (s.advance dt).unlocked
    RST.pg req.val = true ∧ (s.dstate.running = true ∨ s.dstate = DState.selftest) ∧ (req.val = 2 ∨ req.val = 11) :=
  ⟨64, 2, (inState .standby).setUnlock RST.pg 2 (.held 0), by decide +kernel⟩

theorem witness_SuppliesAndResetsRestartTheDevice_9 : ∃ (dt : Nat) (i : Fin 2) (s : State) (r : Nat), s.dev.off =
    false ∧ s.dstate ≠ DState.safeHold ∧ (vget s.lks.pairs ⟨i.val, by omega⟩).resetAt = some r ∧ r + 400 ≤ s.now + dt
    :=
  ⟨400, 0, (inState .standby).pairSet 0 fun h => { h with resetAt := some 0 }, 0, by decide +kernel⟩

theorem witness_BootAndSelftestAdvance_1 : ∃ (slot : Fin 2) (err : Bool) (s : State), s.dstate = DState.boot ∧ s.get
    SYS.pg SYS.BOOT_RESULT = 0 ∧ s.bootNext = some slot.val ∧ s.slotResult slot.val err = 1 :=
  ⟨0, false, goodSlot, by decide +kernel⟩

theorem witness_BootAndSelftestAdvance_2 : ∃ (slot : Fin 2) (err : Bool) (s : State), s.dstate = DState.boot ∧ s.get
    SYS.pg SYS.BOOT_RESULT = 0 ∧ s.bootNext = some slot.val ∧ s.slotResult slot.val err ≠ 1 :=
  ⟨0, false, { goodSlot with mem := [(0x08000000, 0#8), (0x08000001, 0#8), (0x08000002, 0#8), (0x08000003, 0#8)] },
    by decide +kernel⟩

theorem witness_BootAndSelftestAdvance_3 : ∃ (dt : Nat) (s : State), s.dstate = DState.boot ∧ (s.get SYS.pg
    SYS.BOOT_RESULT = 1 ∨ s.get SYS.pg SYS.BOOT_RESULT = 2) ∧ s.now + dt ≤ 4800000 :=
  ⟨4800000, State.reset.put SYS.pg SYS.BOOT_RESULT 1, by decide +kernel⟩

theorem witness_BootAndSelftestAdvance_4 : ∃ (dt : Nat) (s : State), s.dstate = DState.boot ∧ 4800000 < s.now + dt :=
  ⟨4800001, State.reset, by decide +kernel⟩

theorem witness_BootAndSelftestAdvance_5 : ∃ (dt : Nat) (s : State), s.dstate = DState.selftest ∧ 1 ≤ s.dev.test ∧
    s.dev.test < 10 ∧ (s.dev.test = 9 → s.imageOk = true) ∧ (s.dev.test = 7 → ∀ (b : Nat), b < 3 → s.bitOn ADR.pg
    ADR.ACTRL_EN b = true → s.bitOn ADR.pg ADR.RSTAT_RDY b = true) ∧ s.now + dt ≤ s.dev.testAt + testBound s.dev.test
    ∧ s.now + dt ≤ s.dev.boundAt + 16000000 :=
  ⟨1600000, (inState .selftest).devSet fun d => { d with test := 1 }, by decide +kernel⟩

theorem witness_BootAndSelftestAdvance_6 : ∃ (dt : Nat) (s : State), s.dstate = DState.selftest ∧ s.dev.test = 10 ∧
    s.now + dt ≤ s.dev.testAt + testBound 10 ∧ s.now + dt ≤ s.dev.boundAt + 16000000 :=
  ⟨400000, (inState .selftest).devSet fun d => { d with test := 10 }, by decide +kernel⟩

theorem witness_BootAndSelftestAdvance_7 : ∃ (dt : Nat) (s : State), s.dstate = DState.selftest ∧ s.dev.test ≠ 9 ∧
    (s.dev.boundAt + 16000000 < s.now + dt ∨ 1 ≤ s.dev.test ∧ s.dev.testAt + testBound s.dev.test < s.now + dt) :=
  ⟨16000001, (inState .selftest).devSet fun d => { d with test := 1 }, by decide +kernel⟩

theorem witness_DeviceCommandsChangeTheDeviceState_1 : ∃ (dt : Nat) (req : Req) (s : State), req.val ≤ 2 ∧ s.on SYS.pg
    SYS.DSTAT_TRANS = false ∧ (s.dstate = DState.drive ∧ (s.advance dt).unmet 5 = false ∨ s.dstate = DState.charge ∨
    s.dstate = DState.service ∧ (s.advance dt).unmet 3 = false ∧ (s.advance dt).unmet 10 = false) :=
  ⟨0, 2, inState .drive, by decide +kernel⟩

theorem witness_DeviceCommandsChangeTheDeviceState_2 : ∃ (dt : Nat) (req : Req) (s : State), req.val ≤ 2 ∧ s.on SYS.pg
    SYS.DSTAT_TRANS = false ∧ s.dstate = DState.standby ∧ s.bitOn LKS.pg LKS.STAT_HALTED 2 = false ∧ (∀ (c : Nat), c ∈
    [1, 2, 3, 4, 6] → (s.advance dt).unmet c = false) :=
  ⟨0, 2, inState .standby, by decide +kernel⟩

theorem witness_DeviceCommandsChangeTheDeviceState_3 : ∃ (dt : Nat) (req : Req) (s : State), req.val ≤ 2 ∧ s.on SYS.pg
    SYS.DSTAT_TRANS = false ∧ s.dstate = DState.standby ∧ s.bitOn LKS.pg LKS.STAT_HALTED 2 = false ∧ (∀ (c : Nat), c ∈
    [2, 3, 5, 7, 8] → (s.advance dt).unmet c = false) :=
  ⟨0, 2, ((inState .standby).put OBC.pg OBC.INLET_TYPE 1).obcSet fun o =>
    { o with inlet := true, frame := true, frameCont := true }, by decide +kernel⟩

theorem witness_DeviceCommandsChangeTheDeviceState_4 : ∃ (dt : Nat) (req : Req) (s : State), req.val ≤ 2 ∧ s.on SYS.pg
    SYS.DSTAT_TRANS = false ∧ s.dstate = DState.standby ∧ s.bitOn LKS.pg LKS.STAT_HALTED 2 = false ∧ (∀ (c : Nat), c ∈
    [3, 5, 9] → (s.advance dt).unmet c = false) :=
  ⟨0, 2, inState .standby, by decide +kernel⟩

theorem witness_DeviceCommandsChangeTheDeviceState_5 : ∃ (s : State), s.dstate ≠ DState.off ∧ s.dstate ≠
    DState.safeHold ∧ (¬(s.dstate.running = true ∧ s.on SYS.pg SYS.DSTAT_TRANS = true)) :=
  ⟨State.reset, by decide +kernel⟩

theorem witness_DeviceCommandsChangeTheDeviceState_6 : ∃ (dt : Nat) (s : State) (d : DState), s.dstate.running = true
    ∧ s.on SYS.pg SYS.DSTAT_TRANS = true ∧ s.get SYS.pg SYS.DSTAT_TARGET = d.code ∧ d ≠ DState.off ∧ (s.dstate =
    DState.standby → s.now + dt ≤ s.dev.boundAt + if d = DState.drive then 400000 else 4000) ∧ (s.dstate =
    DState.drive → s.now + dt ≤ s.dev.boundAt + 4000) ∧ (s.dstate = DState.charge → s.get OBC.pg OBC.STAT_STATE ≤ 1)
    :=
  ⟨0, ((inState .drive).flag SYS.pg SYS.DSTAT_TRANS true).put SYS.pg SYS.DSTAT_TARGET DState.standby.code, .standby,
    by decide +kernel⟩

theorem witness_JtagFaultsAndKeyRevocation_1 : ∃ (s : State), s.dev.off = false :=
  ⟨State.reset, by decide +kernel⟩

theorem witness_JtagFaultsAndKeyRevocation_2 : ∃ (s : State), s.dev.off = false ∧ s.dstate = DState.safeHold :=
  ⟨inState .safeHold, by decide +kernel⟩

theorem witness_JtagFaultsAndKeyRevocation_3 : ∃ (s : State), s.dev.off = false ∧ s.dstate ≠ DState.safeHold :=
  ⟨State.reset, by decide +kernel⟩

theorem witness_JtagFaultsAndKeyRevocation_4 : ∃ (s : State), s.dev.off = false :=
  ⟨State.reset, by decide +kernel⟩

theorem witness_JtagFaultsAndKeyRevocation_5 : ∃ (s : State), s.dev.off = false :=
  ⟨State.reset, by decide +kernel⟩

theorem witness_JtagFaultsAndKeyRevocation_6 : ∃ (dt : Nat) (bits : BitVec 2) (s : State), (s.advance dt).unlocked
    SYS.pg 2 = true ∧ s.dstate = DState.service ∧ s.scfAuth = true ∧ s.get SYS.pg SYS.KEYREV_REVOKE ||| bits.toNat ≠ 3
    ∧ (s.get SYS.pg SYS.KEYREV_REVOKE ||| bits.toNat).testBit s.dev.key = false :=
  ⟨64, 1, ({ State.reset with regs := [(0x4000005C, 0#32)] }.put SYS.pg SYS.DSTAT_DSTATE 6 |>.put SCF.pg
    SCF.STAT_SESSION 1 |>.setUnlock SYS.pg 2 (.held 0)).devSet fun d => { d with key := 1 }, by decide +kernel⟩

theorem witness_JtagFaultsAndKeyRevocation_7 : ∃ (req : Req), req.val ≠ 2 :=
  ⟨0, by decide +kernel⟩

theorem witness_UnlockSequenceOfKey_1 : ∃ (req : Req) (page : Page) (s : State), pageValid page = true ∧ hasHeader
    page = true ∧ s.dev.off = false ∧ (isHalo page = true → req.val = 2) :=
  ⟨2, HLO.pg, State.reset, by decide +kernel⟩

theorem witness_UnlockSequenceOfKey_2 : ∃ (dt : Nat) (req : Req) (page : Page) (s : State) (t0 : Nat), pageValid page
    = true ∧ hasHeader page = true ∧ s.dev.off = false ∧ (isHalo page = true → req.val = 2) ∧ s.unlock page req.val =
    Unlock.first t0 ∧ s.now + dt ≤ t0 + 64 :=
  ⟨64, 2, HLO.pg, State.reset.setUnlock HLO.pg 2 (.first 0), 0, by decide +kernel⟩

theorem witness_UnlockSequenceOfKey_3 : ∃ (dt : Nat) (req : Req) (page : Page) (s : State) (t0 : Nat), pageValid page
    = true ∧ hasHeader page = true ∧ s.dev.off = false ∧ (isHalo page = true → req.val = 2) ∧ s.unlock page req.val =
    Unlock.first t0 ∧ t0 + 64 < s.now + dt :=
  ⟨65, 2, HLO.pg, State.reset.setUnlock HLO.pg 2 (.first 0), 0, by decide +kernel⟩

theorem witness_UnlockSequenceOfKey_4 : ∃ (req : Req) (page : Page) (s : State) (val : BitVec 32), pageValid page =
    true ∧ hasHeader page = true ∧ s.dev.off = false ∧ (isHalo page = true → req.val = 2) ∧ val ≠ 31292#32 ∧ val ≠
    34243#32 :=
  ⟨2, HLO.pg, State.reset, 0, by decide +kernel⟩

theorem witness_UnlockSequenceOfKey_5 : ∃ (dt : Nat) (req : Req) (page : Page) (s : State) (t0 : Nat), pageValid page
    = true ∧ hasHeader page = true ∧ s.dev.off = false ∧ (isHalo page = true → req.val = 2) ∧ s.unlock page req.val =
    Unlock.held t0 ∧ t0 + 65 ≤ s.now + dt :=
  ⟨65, 2, HLO.pg, State.reset.setUnlock HLO.pg 2 (.held 0), 0, by decide +kernel⟩

theorem witness_UnlockSequenceOfKey_6 : ∃ (req : Req) (page : Page) (s : State) (q : Page) (r : Req), pageValid page =
    true ∧ hasHeader page = true ∧ s.dev.off = false ∧ (isHalo page = true → req.val = 2) ∧ pageValid q = true ∧ (q ≠
    page ∨ r ≠ req) :=
  ⟨2, HLO.pg, State.reset, HLO.pg, 1, by decide +kernel⟩

theorem witness_HardwareSetFlagSurvivesItsClear : ∃ (page : Page) (hw : W32) (b : Nat), pageValid page = true ∧
    hasHeader page = true ∧ (hw.toNat &&& evtMask page).testBit b = true :=
  ⟨CLF.pg, 1, 0, by decide +kernel⟩

theorem witness_EventFlagsAndSoftReset_1 : ∃ (req : Req) (page : Page), pageValid page = true ∧ hasHeader page = true
    ∧ (isHalo page = true → req.val = 2) :=
  ⟨2, HLO.pg, by decide +kernel⟩

theorem witness_EventFlagsAndSoftReset_2 : ∃ (dt : Nat) (page : Page) (s : State), pageValid page = true ∧ isHalo page
    = false ∧ hasHeader page = true ∧ (s.advance dt).softRstOk page = true :=
  ⟨0, GPIO.pg, State.reset, by decide +kernel⟩

theorem witness_EventFlagsAndSoftReset_3 : ∃ (dt : Nat) (page : Page) (s : State), pageValid page = true ∧ isHalo page
    = false ∧ hasHeader page = true ∧ (s.advance dt).softRstOk page = false :=
  ⟨0, SYS.pg, State.reset, by decide +kernel⟩

theorem witness_LocksGoToTheLowerRequester_1 : ∃ (l : Fin 24) (s : State), s.on (lockPlace l.val).fst ((lockPlace
    l.val).snd HDR.OWNER_LOCKED) = false :=
  ⟨23, State.reset, by decide +kernel⟩

theorem witness_LocksGoToTheLowerRequester_2 : ∃ (req : Req) (l : Fin 24) (s : State) (q : Req), s.on (lockPlace
    l.val).fst ((lockPlace l.val).snd HDR.OWNER_LOCKED) = false ∧ q ≠ req :=
  ⟨0, 23, State.reset, 1, by decide +kernel⟩

theorem witness_LocksGoToTheLowerRequester_3 : ∃ (l : Fin 24) (s : State), s.on (lockPlace l.val).fst ((lockPlace
    l.val).snd HDR.OWNER_LOCKED) = true :=
  ⟨23, State.reset.lockAcq 23 5, by decide +kernel⟩

theorem witness_LocksGoToTheLowerRequester_4 : ∃ (req : Req) (l : Fin 24) (s : State), s.on (lockPlace l.val).fst
    ((lockPlace l.val).snd HDR.OWNER_LOCKED) = true ∧ s.get (lockPlace l.val).fst ((lockPlace l.val).snd HDR.OWNER_ID)
    = req.val :=
  ⟨5, 23, State.reset.lockAcq 23 5, by decide +kernel⟩

theorem witness_LocksGoToTheLowerRequester_5 : ∃ (req : Req) (l : Fin 24) (s : State), s.on (lockPlace l.val).fst
    ((lockPlace l.val).snd HDR.OWNER_LOCKED) = true ∧ s.get (lockPlace l.val).fst ((lockPlace l.val).snd HDR.OWNER_ID)
    ≠ req.val :=
  ⟨4, 23, State.reset.lockAcq 23 5, by decide +kernel⟩

theorem witness_ChangeSetsAreOpenedByFourRequesters_1 : ∃ (req : Req) (page : Page), pageValid page = true ∧ hasHeader
    page = true ∧ ¬req ∈ [0, 1, 2, 11] :=
  ⟨3, GPIO.pg, by decide +kernel⟩

theorem witness_ChangeSetsAreOpenedByFourRequesters_2 : ∃ (req : Req) (page : Page) (s : State), pageValid page = true
    ∧ hasHeader page = true ∧ isHalo page = false ∧ req ∈ [0, 1, 2, 11] ∧ (vget s.sets req).committing = false ∧ (∀ (r
    : Fin 16), (vget s.sets r).pages.contains page = true → r = req) :=
  ⟨11, GPIO.pg, State.reset, by decide +kernel⟩

theorem witness_ChangeSetsAreOpenedByFourRequesters_3 : ∃ (req : Req) (page : Page) (s : State), pageValid page = true
    ∧ hasHeader page = true ∧ isHalo page = false ∧ req ∈ [0, 1, 2, 11] ∧ (vget s.sets req).committing = false ∧ (vget
    s.sets req).pages = [] :=
  ⟨11, GPIO.pg, State.reset, by decide +kernel⟩

theorem witness_ChangeSetsAreOpenedByFourRequesters_4 : ∃ (req : Req) (page : Page) (s : State), pageValid page = true
    ∧ hasHeader page = true ∧ isHalo page = false ∧ req ∈ [0, 1, 2, 11] ∧ (vget s.sets req).committing = false ∧ (vget
    s.sets req).pages ≠ [] ∧ (∀ (q : Page), q ∈ (vget s.sets req).pages → pageValid q = true ∧ hasHeader q = true) :=
  ⟨11, GPIO.pg, withPages 11 [GPIO.pg], by decide +kernel⟩

theorem witness_RegisterWritesFollowTheirAccessCodes_1 : ∃ (req : Req) (page : Page) (off : Nat) (r : RegDef) (be :
    BitVec 4) (val : W32) (s : State), be ≠ 0 ∧ pageValid page = true ∧ hasHeader page = true ∧ (isHalo page = true →
    req.val = 2) ∧ page.blk ≠ Block.dma ∧ 64 ≤ off ∧ off < pageSize page.blk ∧ off % 4 = 0 ∧ regAt page off = some r ∧
    r.half = Half.none ∧ (∀ (f : FieldDef), f ∈ r.fields → f.acc = Acc.rws ∨ f.acc = Acc.ro) ∧ (∃ f, f ∈ r.fields ∧
    f.acc = Acc.rws) ∧ s.inRange req.val page off r (formWord r (s.present req.val (pageBase page + off)) be.toNat
    (val.toNat)) = true ∧ (s.dstate ≠ DState.service ∨ r.safeMask = 0 ∨ req.val = 2 ∧ s.scfAuth = true ∧ s.scfUnset =
    false) ∧ (vget s.sets req).committing = false ∧ page ∈ (vget s.sets req).pages :=
  ⟨0, GPIO.pg, 0x50, (regAt GPIO.pg 0x50).get (by decide +kernel), 8, 0, withPages 0 [GPIO.pg], by decide +kernel⟩

theorem witness_RegisterWritesFollowTheirAccessCodes_2 : ∃ (req : Req) (page : Page) (off : Nat) (r : RegDef) (be :
    BitVec 4) (val : W32) (s : State), be ≠ 0 ∧ pageValid page = true ∧ hasHeader page = true ∧ (isHalo page = true →
    req.val = 2) ∧ page.blk ≠ Block.dma ∧ 64 ≤ off ∧ off < pageSize page.blk ∧ off % 4 = 0 ∧ regAt page off = some r ∧
    r.half = Half.none ∧ (∀ (f : FieldDef), f ∈ r.fields → f.acc = Acc.rws ∨ f.acc = Acc.ro) ∧ (∃ f, f ∈ r.fields ∧
    f.acc = Acc.rws) ∧ s.inRange req.val page off r (formWord r (s.present req.val (pageBase page + off)) be.toNat
    (val.toNat)) = true ∧ (s.dstate ≠ DState.service ∨ r.safeMask = 0 ∨ req.val = 2 ∧ s.scfAuth = true ∧ s.scfUnset =
    false) ∧ ((vget s.sets req).committing = true ∨ ¬page ∈ (vget s.sets req).pages) :=
  ⟨0, GPIO.pg, 0x50, (regAt GPIO.pg 0x50).get (by decide +kernel), 8, 0, State.reset, by decide +kernel⟩

theorem witness_RegisterWritesFollowTheirAccessCodes_3 : ∃ (page : Page), pageValid page = true ∧ isHalo page = false
    ∧ hasHeader page = true :=
  ⟨CLF.pg, by decide +kernel⟩

theorem witness_RegisterWritesFollowTheirAccessCodes_6 : ∃ (req : Req), req.val = 2 :=
  ⟨2, by decide +kernel⟩

theorem witness_RegisterWritesFollowTheirAccessCodes_7 : ∃ (addr : Nat), pageAt addr = none :=
  ⟨0x4FFF0000, by decide +kernel⟩

theorem witness_CommitsFreezeAndTakeEffect_1 : ∃ (dt : Nat) (req : Req) (k : Fin 2) (val : W32) (v : W32) (s : State),
    req ∈ [0, 1, 2, 11] ∧ s.on SYS.pg SYS.DSTAT_TRANS = false ∧ vget s.sets req =
    { pages := [GPIO.pg], words := [{ addr := fldAddr GPIO.pg (GPIO.DIR.ix k.val), val := v.toNat, mask := 4294967295 }], plan := [], committing := false, ordered := false, done := 0, width := 0, after := 0, logLeft := 0, cut := false }
    ∧ (((s.advance dt).atAdmission GPIO.pg val).admitSet (vget s.sets req)).fst = true :=
  ⟨0, 11, 1, 0, 1, { inState .standby with sets := vset State.reset.sets 11 (gpioSet 1 1 0xFFFFFFFF) },
    by decide +kernel⟩

theorem witness_CommitsFreezeAndTakeEffect_2 : ∃ (dt : Nat) (after : Nat) (req : Req) (k : Fin 2) (v : W32) (m : W32)
    (s : State), s.dev.off = false ∧ (s.now + dt) % 400 = 0 ∧ after < s.now + dt ∧ s.scf.revertAt = none ∧ (∀ (r : Fin
    16), vget s.sets r = if r = req then
    { pages := [GPIO.pg], words := [{ addr := fldAddr GPIO.pg (GPIO.DIR.ix k.val), val := v.toNat, mask := m.toNat }], plan := [(Domain.general, Boundary.general)], committing := true, ordered := false, done := 0, width := 1, after := after, logLeft := 0, cut := false }
    else CSet.empty) :=
  ⟨400, 0, 11, 1, 1, 1,
    { State.reset with sets := vset State.reset.sets 11 { gpioSet 1 1 1 with
      plan := [(Domain.general, Boundary.general)], committing := true, width := 1 } },
    by decide +kernel⟩

theorem witness_PairsAreReadAndWrittenWhole : ∃ (req : Req) (s : State), TBU.pg ∈ (vget s.sets req).pages ∧ (vget
    s.sets req).committing = false :=
  ⟨0, withPages 0 [TBU.pg], by decide +kernel⟩

theorem witness_BusAccessesReadAndWriteMemory_1 : ∃ (req : Req) (a : Nat), (req.val ≤ 2 ∨ 8 ≤ req.val) ∧ 536870912 ≤ a
    ∧ a < 543162368 ∧ a % 4 = 0 :=
  ⟨15, 0x205FFFFC, by decide +kernel⟩

theorem witness_BusAccessesReadAndWriteMemory_2 : ∃ (req : Req) (a : Nat), (req.val ≤ 2 ∨ 8 ≤ req.val) ∧ regionOf a =
    none ∧ pageAt a = none :=
  ⟨8, 0x10000000, by decide +kernel⟩

theorem witness_HorizonSourceAndClockFaults_1 : ∃ (dt : Nat) (s : State) (d : Int), s.dev.off = false ∧ s.tbu.refFrom
    + s.get TBU.pg TBU.SRCCFG_QUAL_MS * 400000 ≤ s.now + dt ∧ s.get TBU.pg TBU.STAT_SRC = 0 ∧ s.tbu.qualified = false
    ∧ d.natAbs ≤ 10000000 ∧ (List.range 15).any s.lgRunning = false :=
  ⟨State.reset.get TBU.pg TBU.SRCCFG_QUAL_MS * 400000, State.reset, 10000000, by decide +kernel⟩

theorem witness_HorizonSourceAndClockFaults_2 : ∃ (dt : Nat) (s : State) (d : Int), s.dev.off = false ∧ s.tbu.refFrom
    + s.get TBU.pg TBU.SRCCFG_QUAL_MS * 400000 ≤ s.now + dt ∧ (s.get TBU.pg TBU.STAT_SRC = 0 ∧ s.tbu.qualified = false
    ∧ d.natAbs ≤ 10000000 ∧ (List.range 15).any s.lgRunning = true ∨ s.get TBU.pg TBU.STAT_SRC = 2 ∧ d.natAbs ≤
    1000000) :=
  ⟨State.reset.get TBU.pg TBU.SRCCFG_QUAL_MS * 400000, State.reset.put TBU.pg TBU.STAT_SRC 2, 1000000,
    by decide +kernel⟩

theorem witness_HorizonSourceAndClockFaults_3 : ∃ (dt : Nat) (s : State) (x : Nat) (d : Int), s.dev.off = false ∧
    s.tbu.directBy = some (x, d) ∧ s.now + dt ≤ x ∧ (List.range 15).any s.lgRunning = false :=
  ⟨5, { State.reset with tbu := { State.reset.tbu with directBy := some (5, 3) } }, 5, 3, by decide +kernel⟩

theorem witness_HorizonSourceAndClockFaults_4 : ∃ (dt : Nat) (s : State) (x : Nat) (d : Int), s.dev.off = false ∧
    s.tbu.directBy = some (x, d) ∧ s.now + dt ≤ x ∧ (List.range 15).any s.lgRunning = true :=
  ⟨5, { State.reset with tbu := { State.reset.tbu with directBy := some (5, 3) } }.flag TBU.pg (TBU.LG_STAT_RUNNING.ix
    0) true, 5, 3, by decide +kernel⟩

theorem witness_HorizonSourceAndClockFaults_5 : ∃ (dt : Nat) (s : State) (x : Nat) (d : Int), s.dev.off = false ∧
    s.get TBU.pg TBU.STAT_SRC = 3 ∧ s.tbu.glide = some (x, d) ∧ d.natAbs < s.get TBU.pg TBU.SRCCFG_GLIDE * 1000 *
    (s.now + dt - x) / 400000 + 100 ∧ s.now + dt - x ≤ ((d.natAbs + s.get TBU.pg TBU.SRCCFG_GLIDE * 1000 - 1) / (s.get
    TBU.pg TBU.SRCCFG_GLIDE * 1000) + 1) * 400000 :=
  ⟨400000, { State.reset with tbu := { State.reset.tbu with glide := some (0, 50) } }.put TBU.pg TBU.STAT_SRC 3, 0,
    50, by decide +kernel⟩

theorem witness_HorizonSourceAndClockFaults_6 : ∃ (s : State), s.dev.off = false ∧ (s.get TBU.pg TBU.STAT_SRC = 1 ∨
    s.get TBU.pg TBU.STAT_SRC = 3) :=
  ⟨State.reset.put TBU.pg TBU.STAT_SRC 1, by decide +kernel⟩

theorem witness_HorizonSourceAndClockFaults_7 : ∃ (dt : Nat) (s : State), s.dev.off = false ∧ s.get TBU.pg
    TBU.STAT_SRC = 0 ∧ s.tbu.qualified = false ∧ s.tbu.neverRaised = false ∧ 4800000 ≤ s.now + dt :=
  ⟨4800000, State.reset, by decide +kernel⟩

theorem witness_HorizonSourceAndClockFaults_8 : ∃ (s : State), s.dev.off = false :=
  ⟨State.reset, by decide +kernel⟩

theorem witness_LockGroupsAndTheirChannels_2 : ∃ (dt : Nat) (g : Fin 15) (s : State) (f : Nat), s.dev.off = false ∧
    (vget s.lg g).next = some f ∧ f / 128 = s.now + dt ∧ (vget s.lg g).renew = false :=
  ⟨1, 0, withGroup 0 { LgH.idle with next := some 128, renew := false }, 128, by decide +kernel⟩

theorem witness_LockGroupsAndTheirChannels_3 : ∃ (dt : Nat) (g : Fin 15) (s : State) (f : Nat), s.dev.off = false ∧
    (vget s.lg g).next = some f ∧ f / 128 = s.now + dt ∧ (vget s.lg g).renew = true :=
  ⟨1, 0, withGroup 0 { LgH.idle with next := some 128, renew := true }, 128, by decide +kernel⟩

theorem witness_LockGroupsAndTheirChannels_4 : ∃ (dt : Nat) (c : Fin 16) (s : State) (f : Nat), s.dev.off = false ∧
    s.cmpTime c.val = some f ∧ f / 128 = s.now + dt ∧ vget s.tbu.cmpTick c ≠ some (s.now + dt) :=
  ⟨1, 0, ((withGroup 0 { LgH.idle with last := 128, period := 128 }).flag TBU.pg (TBU.CMP_CFG_EN.ix 0) true).flag
    TBU.pg (TBU.LG_STAT_RUNNING.ix 0) true, 128, by decide +kernel⟩

theorem witness_LockGroupsAndTheirChannels_5 : ∃ (c : Fin 16) (falling : Bool) (s : State), s.dev.off = false ∧ s.on
    TBU.pg (TBU.CAP_CFG_EN.ix c.val) = true ∧ (if falling = true then s.get TBU.pg (TBU.CAP_CFG_EDGE.ix c.val) / 2 = 1
    else s.get TBU.pg (TBU.CAP_CFG_EDGE.ix c.val) % 2 = 1) ∧ s.get TBU.pg (TBU.CAP_CFG_SRC.ix c.val) ≤ 21 ∧ (s.get
    TBU.pg (TBU.CAP_CFG_SRC.ix c.val) = 0 → s.on TBU.pg TBU.SYNCCFG_EN = true) :=
  ⟨0, false, ((State.reset.flag TBU.pg (TBU.CAP_CFG_EN.ix 0) true).put TBU.pg (TBU.CAP_CFG_SRC.ix 0) 21).put TBU.pg
    (TBU.CAP_CFG_EDGE.ix 0) 1, by decide +kernel⟩

theorem witness_InterpolatorsAndSynchronisation_1 : ∃ (dt : Nat) (s : State) (i : Fin 100), s.dev.off = false ∧
    (s.advance dt).edgeNear i.val = false :=
  ⟨0, State.reset, 0, by decide +kernel⟩

theorem witness_InterpolatorsAndSynchronisation_2 : ∃ (dt : Nat) (s : State) (i : Fin 100), s.dev.off = false ∧ vget
    s.tbu.stale i = false ∧ vget s.tbu.swapAt i + 16 * 50000 ≤ s.now + dt :=
  ⟨800000, State.reset, 99, by decide +kernel⟩

theorem witness_InterpolatorsAndSynchronisation_3 : ∃ (dt : Nat) (s : State) (falling : Bool) (fine : Fin 128) (g :
    Fin 15) (e : Nat), s.dev.off = false ∧ s.on TBU.pg TBU.SYNCCFG_EN = true ∧ s.on TBU.pg TBU.SYNCCFG_EDGE = falling
    ∧ s.lgRun g.val = true ∧ s.lgMode g.val = 3 ∧ e = (s.now + dt) * 128 + fine.val ∧ (vget s.lg g).syncRef = none :=
  ⟨0, ((State.reset.flag TBU.pg TBU.SYNCCFG_EN true).flag TBU.pg (TBU.LG_CFG_RUN.ix 0) true).put TBU.pg
    (TBU.LG_CFG_MODE.ix 0) 3, false, 0, 0, ((((State.reset.flag TBU.pg TBU.SYNCCFG_EN true).flag TBU.pg
    (TBU.LG_CFG_RUN.ix 0) true).put TBU.pg (TBU.LG_CFG_MODE.ix 0) 3 : State).now + (0 : Nat)) * 128 + (0 : Fin
    128).val, by decide +kernel, by decide +kernel, by decide +kernel, by decide +kernel, by decide +kernel, rfl,
    by decide +kernel⟩

theorem witness_InterpolatorsAndSynchronisation_4 : ∃ (dt : Nat) (s : State) (falling : Bool) (fine : Fin 128) (g :
    Fin 15) (e : Nat) (r : Nat) (w : Nat), s.dev.off = false ∧ s.on TBU.pg TBU.SYNCCFG_EN = true ∧ s.on TBU.pg
    TBU.SYNCCFG_EDGE = falling ∧ s.lgRun g.val = true ∧ s.lgMode g.val = 3 ∧ e = (s.now + dt) * 128 + fine.val ∧ (vget
    s.lg g).syncRef = some r ∧ w = s.lgPeriodCfg g.val * s.get TBU.pg TBU.SYNCCFG_WIN / 100 ∧ s.lgPeriodCfg g.val ≤ e
    - r + w ∧ e - r ≤ s.lgPeriodCfg g.val + w ∧ 400 * 128 ≤ e - r ∧ e - r ≤ 16777215 * 128 :=
  ⟨4200, (((withGroup 0 { LgH.idle with syncRef := some 0 }).flag TBU.pg TBU.SYNCCFG_EN true).flag TBU.pg
    (TBU.LG_CFG_RUN.ix 0) true).put
      TBU.pg (TBU.LG_CFG_MODE.ix 0) 3, false, 0, 0, (((((withGroup 0
    { LgH.idle with syncRef := some 0 }).flag TBU.pg TBU.SYNCCFG_EN true).flag TBU.pg (TBU.LG_CFG_RUN.ix 0) true).put
    TBU.pg (TBU.LG_CFG_MODE.ix 0) 3 : State).now + (4200 : Nat)) * 128 + (0 : Fin 128).val, 0, ((((withGroup 0
    { LgH.idle with syncRef := some 0 }).flag TBU.pg TBU.SYNCCFG_EN true).flag TBU.pg (TBU.LG_CFG_RUN.ix 0) true).put
    TBU.pg (TBU.LG_CFG_MODE.ix 0) 3 : State).lgPeriodCfg (0 : Fin 15).val * ((((withGroup 0
    { LgH.idle with syncRef := some 0 }).flag TBU.pg TBU.SYNCCFG_EN true).flag TBU.pg (TBU.LG_CFG_RUN.ix 0) true).put
    TBU.pg (TBU.LG_CFG_MODE.ix 0) 3 : State).get TBU.pg TBU.SYNCCFG_WIN / 100, by decide +kernel, by decide +kernel,
    by decide +kernel, by decide +kernel, by decide +kernel, rfl, by decide +kernel, rfl, by decide +kernel⟩

theorem witness_InterpolatorsAndSynchronisation_5 : ∃ (dt : Nat) (s : State) (g : Fin 15) (r : Nat), s.dev.off = false
    ∧ s.lgMode g.val = 3 ∧ s.get TBU.pg (TBU.LG_STAT_SYNC_ST.ix g.val) = 2 ∧ (vget s.lg g).syncRef = some r ∧ r + 2 *
    ((vget s.lg g).period * (100 + s.get TBU.pg TBU.SYNCCFG_WIN) / 100) ≤ (s.now + dt) * 128 :=
  ⟨2, ((withGroup 0 { LgH.idle with syncRef := some 0 }).put TBU.pg (TBU.LG_CFG_MODE.ix 0) 3).put TBU.pg
    (TBU.LG_STAT_SYNC_ST.ix 0) 2, 0, 0, by decide +kernel⟩

theorem witness_InterpolatorsAndSynchronisation_6 : ∃ (dt : Nat) (s : State) (b : Nat) (e : Nat), s.dev.off = false ∧
    s.tbu.syncOut = some (b, e) ∧ e / 128 ≤ s.now + dt :=
  ⟨5, { State.reset with tbu := { State.reset.tbu with syncOut := some (0, 640) } }, 0, 640, by decide +kernel⟩

theorem witness_InterpolatorsAndSynchronisation_7 : ∃ (dt : Nat) (s : State) (e : Nat), s.dev.off = false ∧
    s.tbu.steerSince = some e ∧ e + 400000 ≤ s.now + dt ∧ s.on TBU.pg TBU.STAT_FAB_DISC = true ∧ s.tbu.steerRaised =
    false :=
  ⟨400000, { State.reset with tbu := { State.reset.tbu with steerSince := some 0 } }.flag TBU.pg TBU.STAT_FAB_DISC
    true, 0, by decide +kernel⟩

theorem witness_ShadowComparesAndUpdatePoints_1 : ∃ (req : Req) (n : Fin 6) (s : State), (s.on (TPW.pg n.val)
    TPW.CFG_CMP_SRC = true ∧ req.val ≤ 2 ∨ s.on (TPW.pg n.val) TPW.CFG_CMP_SRC = false ∧ req.val = 7) :=
  ⟨7, 0, State.reset, by decide +kernel⟩

theorem witness_ShadowComparesAndUpdatePoints_2 : ∃ (req : Req) (n : Fin 6) (s : State), (¬(s.on (TPW.pg n.val)
    TPW.CFG_CMP_SRC = true ∧ req.val ≤ 2 ∨ s.on (TPW.pg n.val) TPW.CFG_CMP_SRC = false ∧ req.val = 7)) :=
  ⟨0, 0, State.reset, by decide +kernel⟩

theorem witness_ShadowComparesAndUpdatePoints_3 : ∃ (dt : Nat) (n : Fin 6) (s : State) (f : Nat) (half : Bool) (per :
    Nat) (rest : List (Nat × Bool × Nat)), s.dev.off = false ∧ (vget s.tpw n).due = (f, half, per) :: rest ∧ f / 128 =
    s.now + dt ∧ s.on (TPW.pg n.val) HDR.CTRL_EN = true :=
  ⟨1, 0, { State.reset with tpw := vset State.reset.tpw 0 { TpwH.idle with due := [(128, true, 0)] } }.flag (TPW.pg 0)
    HDR.CTRL_EN true, 128, true, 0, [], by decide +kernel⟩

theorem witness_ShadowComparesAndUpdatePoints_4 : ∃ (mode : Nat) (h : Nat) (a : Nat) (b : Nat) (c : Nat) (x : Nat), 2
    ≤ mode ∧ mode ≤ 4 ∧ a ≤ h ∧ b ≤ h ∧ c ≤ h ∧ x ∈ [a, b, c] :=
  ⟨4, 10, 0, 5, 10, 10, by decide +kernel⟩

theorem witness_ShadowComparesAndUpdatePoints_5 : ∃ (mode : Nat) (h : Nat) (a : Nat) (b : Nat) (c : Nat), 2 ≤ mode ∧
    mode ≤ 4 ∧ a ≤ h ∧ b ≤ h ∧ c ≤ h :=
  ⟨4, 10, 0, 5, 10, by decide +kernel⟩

theorem witness_ShadowComparesAndUpdatePoints_6 : ∃ (w : Nat) (l : Nat) (c : Nat), 2 * w ≤ l ∧ c ≤ l :=
  ⟨1, 2, 2, by decide +kernel⟩

theorem witness_TriLegPatternsFaultsAndFr4_1 : ∃ (n : Fin 6) (s : State), (vget s.tpw n).req = none ∧ s.dstate =
    DState.drive :=
  ⟨0, inState .drive, by decide +kernel⟩

theorem witness_TriLegPatternsFaultsAndFr4_2 : ∃ (n : Fin 6) (s : State), (vget s.tpw n).req = none ∧ s.dstate ≠
    DState.drive ∧ s.dstate ≠ DState.safeHold :=
  ⟨0, inState .standby, by decide +kernel⟩

theorem witness_TriLegPatternsFaultsAndFr4_3 : ∃ (n : Fin 6) (s : State), (vget s.tpw n).req = none ∧ s.dstate ≠
    DState.drive :=
  ⟨0, inState .standby, by decide +kernel⟩

theorem witness_TriLegPatternsFaultsAndFr4_5 : ∃ (dt : Nat) (n : Fin 6) (leg : Fin 3) (s : State) (u : State), u =
    (s.advance dt).tpwSet n fun h =>
    { pins := h.pins, req := h.req, fw := none, latch := h.latch, due := h.due, perStart := h.perStart, perLen := h.perLen, perNom := h.perNom, prevTick := h.prevTick, prevCmp := h.prevCmp, prevNew := h.prevNew, newAt := h.newAt, mis := setBits h.mis (2 * leg.val + 1) (2 * leg.val) 3 }
    :=
  ⟨0, 0, 0, State.reset, (State.reset.advance (0 : Nat)).tpwSet (0 : Fin 6) fun h =>
    { pins := h.pins, req := h.req, fw := none, latch := h.latch, due := h.due, perStart := h.perStart, perLen := h.perLen, perNom := h.perNom, prevTick := h.prevTick, prevCmp := h.prevCmp, prevNew := h.prevNew, newAt := h.newAt, mis := setBits h.mis (2 * (0 : Fin 3).val + 1) (2 * (0 : Fin 3).val) 3 },
    rfl⟩

theorem witness_TriLegPatternsFaultsAndFr4_7 : ∃ (n : Fin 6) (s : State), (vget s.tpw n).latch ≠ 0 :=
  ⟨0, { State.reset with tpw := vset State.reset.tpw 0 { TpwH.idle with latch := 1 } }, by decide +kernel⟩

theorem witness_ZenithScansAndClimbsByOneLevel_1 : ∃ (dt : Nat) (s : State), s.dev.off = false ∧ (s.now + dt) % 40000
    = 0 ∧ 0 < s.now + dt :=
  ⟨40000, State.reset, by decide +kernel⟩

theorem witness_ZenithScansAndClimbsByOneLevel_2 : ∃ (s : State), s.get TMU.pg TMU.THRST_LEVEL ≤ s.get TMU.pg
    TMU.CFG_LMAX :=
  ⟨State.reset, by decide +kernel⟩

theorem witness_FastGroupsHoldAndLatch_1 : ∃ (dt : Nat) (g : Fin 8) (s : State), s.dev.off = false ∧ (s.advance
    dt).adfTriggered g = true ∧ (vget s.adf g).seq = none :=
  ⟨5, 0, trigGroup, by decide +kernel⟩

theorem witness_FastGroupsHoldAndLatch_2 : ∃ (dt : Nat) (g : Fin 8) (s : State), s.dev.off = false ∧ (s.advance
    dt).adfTriggered g = true ∧ (vget s.adf g).seq ≠ none :=
  ⟨5, 0, { trigGroup with adf := vset trigGroup.adf 0 { AdfH.idle with seq := some ⟨0, false, 0, 0, 0, false⟩ } },
    by decide +kernel⟩

theorem witness_FastGroupsHoldAndLatch_3 : ∃ (dt : Nat) (g : Fin 8) (s : State) (q : AdfSeq), s.dev.off = false ∧
    (vget s.adf g).seq = some q ∧ q.slot ≤ 1 ∧ s.now + dt = q.t0 + 80 * q.slot + 72 :=
  ⟨152, 0,
    { State.reset with adf := vset State.reset.adf 0 { AdfH.idle with seq := some ⟨0, true, 0, 0, 1, false⟩ } }, ⟨0,
    true, 0, 0, 1, false⟩, by decide +kernel⟩

theorem witness_FastGroupsHoldAndLatch_4 : ∃ (dt : Nat) (g : Fin 8) (s : State) (q : AdfSeq), s.dev.off = false ∧
    (vget s.adf g).seq = some q ∧ q.slot ≤ 1 ∧ q.cut = false ∧ s.now + dt = q.t0 + 80 * q.slot + 72 ∧ (vget s.adf
    g).late = [] ∧ (q.two = false ∨ q.slot = 1) :=
  ⟨152, 0,
    { State.reset with adf := vset State.reset.adf 0 { AdfH.idle with seq := some ⟨0, true, 0, 0, 1, false⟩ } }, ⟨0,
    true, 0, 0, 1, false⟩, by decide +kernel⟩

theorem witness_FastGroupsHoldAndLatch_5 : ∃ (g : Fin 8) (c : Fin 4) (s : State) (r : LateRes), List.find? (fun r =>
    r.c == c.val) (vget s.adf g).late = some r :=
  ⟨0, 0, { State.reset with adf := vset State.reset.adf 0 { AdfH.idle with late := [⟨1, 0, 5, 80⟩] } }, ⟨1, 0, 5, 80⟩,
    by decide +kernel⟩

theorem witness_InjectedConversionsAndOpenWireTests_1 : ∃ (dt : Nat) (g : Fin 8) (s : State), s.dev.off = false ∧ s.on
    (ADF.pg g.val) HDR.CTRL_EN = true ∧ (vget s.adf g).seq = none ∧ (vget s.adf g).inj = none ∧ (s.advance
    dt).adfTriggered g = false ∧ (∀ (h : Nat), h ∈ (s.advance dt).adfHolds g → h ≤ s.now + dt ∨ s.now + dt + 80 < h)
    :=
  ⟨0, 0, (State.reset.flag (ADF.pg 0) HDR.CTRL_EN true).put (ADF.pg 0) ADF.CFG_SRC 2, by decide +kernel⟩

theorem witness_InjectedConversionsAndOpenWireTests_2 : ∃ (dt : Nat) (g : Fin 8) (s : State) (h : Nat) (sel : Nat),
    s.dev.off = false ∧ (vget s.adf g).inj = some (h, sel) ∧ s.now + dt = h + 72 :=
  ⟨72, 0, { State.reset with adf := vset State.reset.adf 0 { AdfH.idle with inj := some (0, 3) } }, 0, 3,
    by decide +kernel⟩

theorem witness_InjectedConversionsAndOpenWireTests_3 : ∃ (dt : Nat) (g : Fin 8) (ix : Fin 8) (s : State), s.on
    (ADF.pg g.val) HDR.CTRL_EN = true ∧ s.adfOwNext g = some ix.val ∧ (s.advance dt).adfCalm g 880 = true ∧ (s.advance
    dt).since (vget s.adf g).owAt 4880 = true :=
  ⟨0, 0, 7, (State.reset.flag (ADF.pg 0) HDR.CTRL_EN true).put (ADF.pg 0) ADF.OW_EN 0x80, by decide +kernel⟩

theorem witness_HousekeepingSequencesRun_1 : ∃ (dt : Nat) (u : Fin 4) (s : State), s.dev.off = false ∧ s.on (ADH.pg
    u.val) HDR.CTRL_EN = true ∧ (vget s.adh u).reg = none ∧ s.get (ADH.pg u.val) ADH.CFG_RSRC = 2 ∧ (vget s.adh
    u).contAt = some (s.now + dt) :=
  ⟨0, 0, { State.reset with adh := vset State.reset.adh 0 { AdhH.idle with contAt := some 0 } }.flag (ADH.pg 0)
    HDR.CTRL_EN true |>.put (ADH.pg 0) ADH.CFG_RSRC 2, by decide +kernel⟩

theorem witness_HousekeepingSequencesRun_2 : ∃ (dt : Nat) (u : Fin 4) (s : State), s.dev.off = false ∧ s.on (ADH.pg
    u.val) HDR.CTRL_EN = true ∧ (vget s.adh u).reg = none ∧ s.get (ADH.pg u.val) ADH.CFG_RSRC = 0 ∧ (vget s.adh
    u).trigs % 2 ^ s.get (ADH.pg u.val) ADH.STAT_DIV = 0 ∧ (s.advance dt).phaseHit (s.get (ADH.pg u.val) ADH.CFG_LG)
    (s.get (ADH.pg u.val) ADH.PHASE % 2 ^ 31) = true :=
  ⟨1, 0, (((withGroup 0 { LgH.idle with last := 128, period := 512000 }).flag TBU.pg (TBU.LG_STAT_RUNNING.ix 0)
    true).flag (ADH.pg 0)
      HDR.CTRL_EN true).put (ADH.pg 0) ADH.CFG_RSRC 0, by decide +kernel⟩

theorem witness_HousekeepingSequencesRun_3 : ∃ (u : Fin 4) (s : State), s.dev.off = false ∧ s.on (ADH.pg u.val)
    HDR.CTRL_EN = true ∧ (vget s.adh u).reg = none ∧ s.get (ADH.pg u.val) ADH.CFG_RSRC = 3 ∧ (vget s.adh u).trigs % 2
    ^ s.get (ADH.pg u.val) ADH.STAT_DIV = 0 :=
  ⟨0, (State.reset.flag (ADH.pg 0) HDR.CTRL_EN true).put (ADH.pg 0) ADH.CFG_RSRC 3, by decide +kernel⟩

theorem witness_HousekeepingSequencesRun_4 : ∃ (req : Req) (u : Fin 4) (s : State), s.dev.off = false ∧ s.on (ADH.pg
    u.val) HDR.CTRL_EN = true ∧ (vget s.adh u).inj = none ∧ s.on (ADH.pg u.val) HDR.OWNER_LOCKED = true ∧ s.get
    (ADH.pg u.val) HDR.OWNER_ID = req.val :=
  ⟨1, 0, (State.reset.flag (ADH.pg 0) HDR.CTRL_EN true).lockAcq 0 1, by decide +kernel⟩

theorem witness_HousekeepingSequencesRun_5 : ∃ (req : Req) (u : Fin 4) (s : State), s.dev.off = false ∧ (¬(s.on
    (ADH.pg u.val) HDR.OWNER_LOCKED = true ∧ s.get (ADH.pg u.val) HDR.OWNER_ID = req.val)) :=
  ⟨0, 0, State.reset.lockAcq 0 1, by decide +kernel⟩

theorem witness_HousekeepingSequencesRun_6 : ∃ (dt : Nat) (u : Fin 4) (s : State) (q : AdhSeq), s.dev.off = false ∧
    (vget s.adh u).inj = some q ∧ q.pos < 4 ∧ s.now + dt = q.startAt + (s.adhInjEntry u q.pos).acq + 140 ∧ vget
    s.adhLost u = false ∧ (vget s.adh u).cut = false :=
  ⟨140 + (State.reset.adhInjEntry 0 3).acq, 0,
    { State.reset with adh := vset State.reset.adh 0 { AdhH.idle with inj := some ⟨3, 4, 0, false⟩ } }, ⟨3, 4, 0,
    false⟩, by decide +kernel⟩

theorem witness_HousekeepingSequencesRun_7 : ∃ (dt : Nat) (u : Fin 4) (s : State) (q : AdhSeq), s.dev.off = false ∧
    (vget s.adh u).inj = none ∧ (vget s.adh u).reg = some q ∧ q.pos < 32 ∧ (vget s.adh u).cut = false ∧ s.now + dt =
    q.startAt + (s.adhReg u q.pos).acq + 140 :=
  ⟨140 + (State.reset.adhReg 0 3).acq, 0,
    { State.reset with adh := vset State.reset.adh 0 { AdhH.idle with reg := some ⟨3, 4, 0, false⟩ } }, ⟨3, 4, 0,
    false⟩, by decide +kernel⟩

theorem witness_ReferencesAndCalibration_1 : ∃ (dt : Nat) (s : State) (b : Fin 3) (r : Nat), s.dev.off = false ∧ vget
    s.adr.rdyAt b = some r ∧ r + 800000 ≤ s.now + dt :=
  ⟨800000, { State.reset with adr := { State.reset.adr with rdyAt := vset State.reset.adr.rdyAt 0 (some 0) } }, 0, 0,
    by decide +kernel⟩

theorem witness_ReferencesAndCalibration_2 : ∃ (dt : Nat) (s : State) (b : Fin 3) (dev : Bool), s.dev.off = false ∧
    (s.now + dt) % 4000 = 0 ∧ (dev = true → vget s.adr.mon b ≠ 2) :=
  ⟨4000, State.reset, 0, true, by decide +kernel⟩

theorem witness_ReferencesAndCalibration_3 : ∃ (dt : Nat) (s : State) (b : Fin 3), s.dev.off = false ∧ (s.now + dt) %
    4000 = 0 ∧ vget s.adr.mon b = 2 ∧ s.bitOn ADR.pg ADR.RSTAT_MON_ERR b.val = false :=
  ⟨4000, { State.reset with adr := { State.reset.adr with mon := Vector.replicate 3 2 } }, 0, by decide +kernel⟩

theorem witness_ReferencesAndCalibration_4 : ∃ (dt : Nat) (s : State) (i : Fin 36), s.dev.off = false ∧ (s.advance
    dt).calIdle i = true ∧ (vget s.adr.conv i).steps < 15 :=
  ⟨0, State.reset, 35, by decide +kernel⟩

theorem witness_ReferencesAndCalibration_5 : ∃ (dt : Nat) (s : State) (i : Fin 36) (gain : Int) (ofs : Int), s.dev.off
    = false ∧ (s.advance dt).calIdle i = true ∧ (vget s.adr.conv i).steps = 15 ∧ -50000 ≤ gain ∧ gain ≤ 50000 ∧
    -16777216 ≤ ofs * 1000 ∧ ofs * 1000 ≤ 16777216 :=
  ⟨0,
    { State.reset with adr := { State.reset.adr with conv := State.reset.adr.conv.map fun c => { c with steps := 15 } } },
    35, 50000, -16777, by decide +kernel⟩

theorem witness_ReferencesAndCalibration_6 : ∃ (dt : Nat) (s : State), s.dev.off = false ∧ s.adr.winAt + 40000000 ≤
    s.now + dt :=
  ⟨40000000, State.reset, by decide +kernel⟩

theorem witness_ContextTriggersStartExecutions_1 : ∃ (dt : Nat) (k : Fin 256) (s : State), s.dev.off = false ∧ s.on
    (CTX.pg k.val) CTX.CFG_EN = true ∧ (s.advance dt).ctxFires k.val = true ∧ (s.ctxH k.val).trigAt ≠ some (s.now +
    dt) :=
  ⟨0, 0, trigContext, by decide +kernel⟩

theorem witness_ContextTriggersStartExecutions_2 : ∃ (dt : Nat) (k : Fin 256) (s : State), s.dev.off = false ∧ s.on
    (CTX.pg k.val) CTX.CFG_EN = true ∧ (s.advance dt).ctxFires k.val = true ∧ (s.ctxH k.val).trigAt ≠ some (s.now +
    dt) ∧ (s.ctxH k.val).trigs % (s.get (CTX.pg k.val) CTX.TRIG_DIV + 1) = 0 ∧ ((s.ctxH k.val).takes + 1) % 2 ^
    s.ctxSkip (s.get (CTX.pg k.val) CTX.CFG_PRIO) = 0 ∧ (s.ctxH k.val).exec = none :=
  ⟨0, 0, trigContext, by decide +kernel⟩

theorem witness_ContextTriggersStartExecutions_3 : ∃ (dt : Nat) (k : Fin 256) (s : State) (e : Exec), s.dev.off =
    false ∧ s.on (CTX.pg k.val) CTX.CFG_EN = true ∧ (s.advance dt).ctxFires k.val = true ∧ (s.ctxH k.val).trigAt ≠
    some (s.now + dt) ∧ (s.ctxH k.val).trigs % (s.get (CTX.pg k.val) CTX.TRIG_DIV + 1) = 0 ∧ ((s.ctxH k.val).takes +
    1) % 2 ^ s.ctxSkip (s.get (CTX.pg k.val) CTX.CFG_PRIO) = 0 ∧ (s.ctxH k.val).exec = some e ∧ e.taken = true :=
  ⟨0, 0, trigContext.ctxSet 0 fun c => { c with exec := some anExec }, anExec, by decide +kernel⟩

theorem witness_ContextTriggersStartExecutions_4 : ∃ (dt : Nat) (k : Fin 256) (s : State), s.dev.off = false ∧ s.on
    (CTX.pg k.val) CTX.CFG_EN = true ∧ s.on (CTX.pg k.val) CTX.CFG_UPD = true ∧ (∀ (e : Exec), (s.ctxH k.val).exec =
    some e → e.taken = false ∧ e.trig < s.now + dt) ∧ (s.advance dt).ctxWillTake k.val (s.now + dt + s.get (CTX.pg
    k.val) CTX.TIME_PLEAD) = true ∧ (s.ctxH k.val).enAt ≤ s.now + dt ∧ (∀ (b : Nat), b ∈ predictedBinds s.rd k.val
    (chainOf s.rd k.val) → ((s.advance dt).ctxPredict k.val b (s.now + dt + s.get (CTX.pg k.val)
    CTX.TIME_PLEAD)).isSome = true) :=
  ⟨1, 0, predContext, by decide +kernel⟩

theorem witness_ContextTriggersStartExecutions_5 : ∃ (dt : Nat) (k : Fin 256) (s : State) (e : Exec), s.dev.off =
    false ∧ (s.ctxH k.val).exec = some e ∧ (s.advance dt).ctxStartable k.val e = true ∧ (s.advance dt).ctxFirst k.val
    e = true ∧ (s.execCfg k.val e 28 = false ∨ e.redo = true) :=
  ⟨4, 0, execContext (fun e => e), anExec, by decide +kernel⟩

theorem witness_ContextTriggersStartExecutions_6 : ∃ (dt : Nat) (k : Fin 256) (s : State) (e : Exec), s.dev.off =
    false ∧ (s.ctxH k.val).exec = some e ∧ (s.advance dt).ctxStartable k.val e = true ∧ (s.advance dt).ctxFirst k.val
    e = true ∧ s.execCfg k.val e 28 = true ∧ e.redo = false :=
  ⟨0, 0, execContext fun e => { e with words := [(0x30000000, 0x10000000#32)] },
    { anExec with words := [(0x30000000, 0x10000000#32)] }, by decide +kernel⟩

theorem witness_ContextTriggersStartExecutions_7 : ∃ (dt : Nat) (k : Fin 256) (s : State) (e : Exec), s.dev.off =
    false ∧ (s.ctxH k.val).exec = some e ∧ (s.advance dt).ctxStartable k.val e = true ∧ (s.advance dt).ctxFirst k.val
    e = true :=
  ⟨0, 0, execContext fun e => { e with words := [(0x30000000, 0x10000000#32)] },
    { anExec with words := [(0x30000000, 0x10000000#32)] }, by decide +kernel⟩

theorem witness_ContextTriggersStartExecutions_8 : ∃ (dt : Nat) (k : Fin 256) (s : State) (e : Exec), s.dev.off =
    false ∧ (s.ctxH k.val).exec = some e ∧ e.st = ExecSt.provDone ∧ (s.advance dt).ctxReady k.val e = true ∧
    (s.advance dt).ctxFirst k.val e = true ∧ (∀ (g : Nat), g ∈ s.execEngines k.val e → s.bitOn CIR.pg
    CIR.ENGSTAT_FAILED g = false) :=
  ⟨4, 0, execContext fun e => { e with st := .provDone }, { anExec with st := .provDone }, by decide +kernel⟩

theorem witness_ContextTriggersStartExecutions_9 : ∃ (k : Fin 256) (s : State) (e : Exec), s.dev.off = false ∧ (s.ctxH
    k.val).exec = some e ∧ (s.execCfg k.val e 27 = false ∨ e.done2 = true) ∧ (∀ (g : Nat), g ∈ s.execEngines k.val e →
    s.bitOn CIR.pg CIR.ENGSTAT_FAILED g = false) ∧ s.execPreempted k.val e (List.take 1 (s.execEngines k.val e)) =
    false ∧ e.st = ExecSt.final :=
  ⟨0, execContext fun e => { e with st := .final }, { anExec with st := .final }, by decide +kernel⟩

theorem witness_ContextTriggersStartExecutions_10 : ∃ (k : Fin 256) (s : State) (e : Exec), s.dev.off = false ∧
    (s.ctxH k.val).exec = some e ∧ (s.execCfg k.val e 27 = false ∨ e.done2 = true) ∧ (∀ (g : Nat), g ∈ s.execEngines
    k.val e → s.bitOn CIR.pg CIR.ENGSTAT_FAILED g = false) ∧ s.execPreempted k.val e (List.take 1 (s.execEngines k.val
    e)) = false ∧ e.st = ExecSt.prov :=
  ⟨0, execContext fun e => { e with st := .prov }, { anExec with st := .prov }, by decide +kernel⟩

theorem witness_CommitTicksAndCirrusCommands_1 : ∃ (dt : Nat) (k : Fin 256) (s : State) (e : Exec) (o : ExecOut),
    s.dev.off = false ∧ (s.ctxH k.val).exec = some e ∧ e.taken = true ∧ s.now + dt = e.trig + s.execLatency k.val e ∧
    e.out = some o ∧ e.st = ExecSt.complete ∧ e.doneAt + 2 ≤ s.now + dt ∧ e.spoilt = false ∧ e.differ = false ∧ o.bad
    = false :=
  ⟨(State.reset.execLatency 0 anExec), 0, execContext fun e =>
    { e with st := .complete, out := some ⟨[], [], [], false⟩ },
    { anExec with st := .complete, out := some ⟨[], [], [], false⟩ }, ⟨[], [], [], false⟩, by decide +kernel⟩

theorem witness_CommitTicksAndCirrusCommands_2 : ∃ (dt : Nat) (k : Fin 256) (s : State) (e : Exec), s.dev.off = false
    ∧ (s.ctxH k.val).exec = some e ∧ e.taken = true ∧ s.now + dt = e.trig + s.execLatency k.val e ∧ (e.st ≠
    ExecSt.complete ∨ s.now + dt < e.doneAt + 2 ∨ e.spoilt = true ∨ e.out = none) ∧ s.get (CTX.pg k.val)
    CTX.RUN_LATE_RUN + 1 ≠ s.get (CTX.pg k.val) CTX.CFG_LATE_MAX :=
  ⟨(State.reset.execLatency 0 anExec), 0, (execContext fun e => { e with st := .complete, spoilt := true }).put
    (CTX.pg 0) CTX.CFG_LATE_MAX 2, { anExec with st := .complete, spoilt := true }, by decide +kernel⟩

theorem witness_CommitTicksAndCirrusCommands_3 : ∃ (s : State), s.dev.off = false ∧ s.dstate ≠ DState.safeHold :=
  ⟨State.reset, by decide +kernel⟩

theorem witness_CommitTicksAndCirrusCommands_4 : ∃ (k : Fin 256) (s : State), s.dev.off = false ∧ s.dstate ≠
    DState.safeHold ∧ s.on (CTX.pg k.val) CTX.CFG_EN = true ∧ s.get (CTX.pg k.val) CTX.TRIG_SRC = 7 :=
  ⟨255, (State.reset.flag (CTX.pg 255) CTX.CFG_EN true).put (CTX.pg 255) CTX.TRIG_SRC 7, by decide +kernel⟩

theorem witness_CommitTicksAndCirrusCommands_5 : ∃ (k : Fin 256) (s : State), s.dev.off = false ∧ s.dstate ≠
    DState.safeHold ∧ s.on (CTX.pg k.val) CTX.CFG_EN = false :=
  ⟨0, State.reset, by decide +kernel⟩

theorem witness_CommitTicksAndCirrusCommands_6 : ∃ (dt : Nat) (s : State) (e : Fin 8), s.dev.off = false ∧ s.bitOn
    CIR.pg CIR.ENGSTAT_FAILED e.val = false ∧ (s.advance dt).engHangs e = true :=
  ⟨65536, { State.reset with engAt := vset State.reset.engAt 7 (some 0) }, 7, by decide +kernel⟩

theorem witness_PositionSourcesFollowTheirSignals_1 : ∃ (dt : Nat) (n : Fin 3) (s : State), s.dev.off = false ∧
    s.posOn n 0 = true ∧ (s.now + dt) % 80 = 0 :=
  ⟨80, 0, posUnit 1 1, by decide +kernel⟩

theorem witness_PositionSourcesFollowTheirSignals_2 : ∃ (dt : Nat) (n : Fin 3) (s : State) (dc : Nat), s.dev.off =
    false ∧ s.posOn n 0 = true ∧ (s.advance dt).rsvPeriod n ≠ (s.posH n).rsvPer ∧ dc = max (Config.rsvMillivolt
    ((s.posH n).rsvDS.natAbs / max 1 (s.posH n).rsvN)) (Config.rsvMillivolt ((s.posH n).rsvDC.natAbs / max 1 (s.posH
    n).rsvN)) :=
  ⟨400000, 0, posUnit 1 1, max (Config.rsvMillivolt (((posUnit 1 1 : State).posH (0 : Fin 3)).rsvDS.natAbs / max 1
    ((posUnit 1 1 : State).posH (0 : Fin 3)).rsvN)) (Config.rsvMillivolt (((posUnit 1 1 : State).posH (0 : Fin
    3)).rsvDC.natAbs / max 1 ((posUnit 1 1 : State).posH (0 : Fin 3)).rsvN)), by decide +kernel, by decide +kernel,
    by decide +kernel, rfl⟩

theorem witness_PositionSourcesFollowTheirSignals_3 : ∃ (dt : Nat) (n : Fin 3) (s : State) (a : Bool) (b : Bool) (e :
    EncBase) (k : Nat), s.dev.off = false ∧ s.posOn n 1 = true ∧ e = (s.advance dt).encBefore n ∧ k = (quadPhase a b +
    4 - quadPhase e.a e.b) % 4 :=
  ⟨0, 0, posUnit 1 2, true, false, ((posUnit 1 2 : State).advance (0 : Nat)).encBefore (0 : Fin 3), (quadPhase true
    false + 4 - quadPhase (((posUnit 1 2 : State).advance (0 : Nat)).encBefore (0 : Fin 3) : EncBase).a (((posUnit 1 2
    : State).advance (0 : Nat)).encBefore (0 : Fin 3) : EncBase).b) % 4, by decide +kernel, by decide +kernel, rfl,
    rfl⟩

theorem witness_PositionSourcesFollowTheirSignals_4 : ∃ (n : Fin 3) (s : State), s.dev.off = false ∧ s.posOn n 1 =
    true ∧ s.posValid n 1 = false ∧ s.on (POS.pg n.val) POS.ENC_ZEN = true :=
  ⟨0, (posUnit 1 2).flag (POS.pg 0) POS.ENC_ZEN true, by decide +kernel⟩

theorem witness_PositionSourcesFollowTheirSignals_5 : ∃ (n : Fin 3) (s : State) (c : Int), s.dev.off = false ∧ s.posOn
    n 1 = true ∧ s.posValid n 1 = true ∧ (s.posH n).encIdx = some c ∧ s.get (POS.pg n.val) POS.ENC_ZTOL < indexError
    ((s.posH n).encCount - c) (4 * s.get (POS.pg n.val) POS.ENC_LINES) :=
  ⟨0, ((posUnit 1 2).put (POS.pg 0) POS.SRCSTAT_VALID 2).posSet 0 fun h => { h with encIdx := some 500 }, 500,
    by decide +kernel⟩

theorem witness_PositionSourcesFollowTheirSignals_6 : ∃ (dt : Nat) (n : Fin 3) (s : State) (r : Nat), s.dev.off =
    false ∧ (s.posH n).encAt = some r ∧ r + 400000 ≤ s.now + dt :=
  ⟨400000, 0, (posUnit 1 2).posSet 0 fun h => { h with encAt := some 0 }, 0, by decide +kernel⟩

theorem witness_PositionSourcesFollowTheirSignals_7 : ∃ (n : Fin 3) (s : State) (st : BitVec 3), s.dev.off = false ∧
    s.posOn n 2 = true ∧ (st = 0#3 ∨ st = 7#3) :=
  ⟨0, posUnit 1 4, 7, by decide +kernel⟩

theorem witness_PositionSourcesFollowTheirSignals_8 : ∃ (n : Fin 3) (s : State) (st : BitVec 3) (d : Int), s.dev.off =
    false ∧ s.posOn n 2 = true ∧ sectorStep (s.posH n).hall (hallSector (s.on (POS.pg n.val) POS.HALL_DIR) st.toNat) =
    some d ∧ st ≠ 0#3 ∧ st ≠ 7#3 :=
  ⟨0, (posUnit 1 4).posSet 0 fun h => { h with hall := 1 }, 3, 1, by decide +kernel⟩

theorem witness_FusionReacquisitionAndPositionCommands_1 : ∃ (dt : Nat) (n : Fin 3) (s : State) (a : Nat), s.dev.off =
    false ∧ (s.now + dt) % 80 = 0 ∧ s.posState n.val = 1 ∧ s.posOrder n = [a] :=
  ⟨80, 0, ((posUnit 1 1).put (POS.pg 0) POS.CFG_PRI0 1).put (POS.pg 0) POS.SRCSTAT_VALID 1, 0, by decide +kernel⟩

theorem witness_FusionReacquisitionAndPositionCommands_2 : ∃ (dt : Nat) (n : Fin 3) (s : State), s.dev.off = false ∧
    (s.now + dt) % 80 = 0 ∧ s.posState n.val = 2 ∧ s.posOrder n = [] :=
  ⟨80, 0, posUnit 2 1, by decide +kernel⟩

theorem witness_FusionReacquisitionAndPositionCommands_3 : ∃ (dt : Nat) (n : Fin 3) (s : State), s.dev.off = false ∧
    (s.now + dt) % 80 = 0 ∧ 3 ≤ s.posState n.val ∧ s.posState n.val ≤ 5 ∧ s.posAgain n = none :=
  ⟨80, 0, posUnit 3 1, by decide +kernel⟩

theorem witness_FusionReacquisitionAndPositionCommands_4 : ∃ (dt : Nat) (n : Fin 3) (s : State) (b : Sweep) (r : Nat),
    s.dev.off = false ∧ s.posState n.val = 4 ∧ (s.posH n).sweep = some b ∧ b.evalAt = some r ∧ s.now + dt ≤ r + 2000
    :=
  ⟨2000, 0, (posUnit 4 1).posSet 0 fun h =>
    { h with sweep := some { t0 := 0, last := 0, n := 0, sum := 0, bank := [], evalAt := some 0 } },
    { t0 := 0, last := 0, n := 0, sum := 0, bank := [], evalAt := some 0 }, 0, by decide +kernel⟩

theorem witness_FusionReacquisitionAndPositionCommands_5 : ∃ (dt : Nat) (n : Fin 3) (s : State), s.dev.off = false ∧
    (s.posState n.val = 3 ∨ s.posState n.val = 4) ∧ (s.posH n).lossAt + 8000000 ≤ s.now + dt :=
  ⟨8000000, 0, posUnit 4 1, by decide +kernel⟩

theorem witness_FusionReacquisitionAndPositionCommands_6 : ∃ (n : Fin 3) (s : State), s.dev.off = false ∧ s.dstate ≠
    DState.safeHold ∧ s.posState n.val = 5 ∧ s.stoEff n.val = true :=
  ⟨0, (posUnit 5 1).put STO.pg STO.STAT_EFF 7, by decide +kernel⟩

theorem witness_FusionReacquisitionAndPositionCommands_7 : ∃ (n : Fin 3) (s : State), s.dev.off = false ∧ s.dstate ≠
    DState.safeHold ∧ (s.posState n.val ≠ 5 ∨ s.stoEff n.val = false) :=
  ⟨0, posUnit 2 1, by decide +kernel⟩

theorem witness_FusionReacquisitionAndPositionCommands_8 : ∃ (n : Fin 3) (s : State), s.dev.off = false ∧ s.dstate ≠
    DState.safeHold ∧ s.posOn n 1 = true ∧ 200 ≤ s.get (POS.pg n.val) POS.ANG_CONF :=
  ⟨0, (posUnit 2 2).put (POS.pg 0) POS.ANG_CONF 200, by decide +kernel⟩

theorem witness_FusionReacquisitionAndPositionCommands_9 : ∃ (s : State), s.dev.off = false ∧ s.dstate ≠
    DState.safeHold :=
  ⟨State.reset, by decide +kernel⟩

theorem witness_TorqueCommandsAndTheirPins_1 : ∃ (req : Req) (m : Fin 3) (s : State), s.dev.off = false ∧ (s.get
    (MSV.pg m.val) MSV.CFG_TSRC = 0 ∧ req.val ≤ 1 ∨ s.get (MSV.pg m.val) MSV.CFG_TSRC = 1 ∧ req.val = 9) :=
  ⟨1, 0, State.reset, by decide +kernel⟩

theorem witness_TorqueCommandsAndTheirPins_2 : ∃ (req : Req) (m : Fin 3) (s : State), s.dev.off = false ∧ (¬(s.get
    (MSV.pg m.val) MSV.CFG_TSRC = 0 ∧ req.val ≤ 1 ∨ s.get (MSV.pg m.val) MSV.CFG_TSRC = 1 ∧ req.val = 9)) :=
  ⟨9, 0, State.reset, by decide +kernel⟩

theorem witness_TorqueCommandsAndTheirPins_3 : ∃ (dt : Nat) (m : Fin 3) (s : State), s.dev.off = false ∧ s.msvSt m.val
    = 3 ∧ s.get (MSV.pg m.val) MSV.CFG_TSRC ≤ 1 ∧ (s.msvH m.val).lost = false ∧ (s.msvH m.val).cmdAt + s.get (MSV.pg
    m.val) MSV.TCMDTO_TO ≤ s.now + dt ∧ s.on (MSV.pg m.val) MSV.CFG_LH_AUTO = true :=
  ⟨(State.reset.get (MSV.pg 0) MSV.TCMDTO_TO), 0, ((State.reset.put (MSV.pg 0) MSV.STAT_STATE 3)).flag (MSV.pg 0)
    MSV.CFG_LH_AUTO true, by decide +kernel⟩

theorem witness_TorqueCommandsAndTheirPins_4 : ∃ (dt : Nat) (m : Fin 3) (s : State), s.dev.off = false ∧ s.msvSt m.val
    = 3 ∧ s.get (MSV.pg m.val) MSV.CFG_TSRC ≤ 1 ∧ (s.msvH m.val).lost = false ∧ (s.msvH m.val).cmdAt + s.get (MSV.pg
    m.val) MSV.TCMDTO_TO ≤ s.now + dt ∧ s.on (MSV.pg m.val) MSV.CFG_LH_AUTO = false :=
  ⟨(State.reset.get (MSV.pg 0) MSV.TCMDTO_TO), 0, ((State.reset.put (MSV.pg 0) MSV.STAT_STATE 3)).flag (MSV.pg 0)
    MSV.CFG_LH_AUTO false, by decide +kernel⟩

theorem witness_TorqueCommandsAndTheirPins_5 : ∃ (dt : Nat) (pin : Fin 9) (s : State), (∀ (r : Nat), (vget s.pin
    pin).convAt = some r → r + 4000 ≤ (s.advance dt).now) :=
  ⟨0, 0, State.reset, by decide +kernel⟩

theorem witness_TorqueCommandsAndTheirPins_6 : ∃ (s : State), s.dev.off = false :=
  ⟨State.reset, by decide +kernel⟩

theorem witness_TorqueCommandsAndTheirPins_7 : ∃ (pin : Fin 9) (s : State) (r : Nat) (f : Nat), s.dev.off = false ∧
    (vget s.pin pin).rise = some r ∧ (vget s.pin pin).fall = some f ∧ r ≤ f :=
  ⟨0, { State.reset with pin := vset State.reset.pin 0 { CmdPin.idle with rise := some 1, fall := some 1 } }, 1, 1,
    by decide +kernel⟩

theorem witness_DirectionChangesOnlyAtStandstill_1 : ∃ (m : Fin 3) (s : State), fle (fabs (s.posSpeed m.val)) (s.msvK
    m.val 7) = true ∧ s.msvSt m.val ≠ 0 ∧ s.dstate ≠ DState.safeHold :=
  ⟨0, State.reset.put (MSV.pg 0) MSV.STAT_STATE 2, by decide +kernel⟩

theorem witness_DirectionChangesOnlyAtStandstill_2 : ∃ (dt : Nat) (req : Req) (m : Fin 3) (s : State) (c : Instr),
    (fle (fabs (s.posSpeed m.val)) (s.msvK m.val 7) = false ∨ s.msvSt m.val = 0 ∨ s.dstate = DState.safeHold) ∧ c ∈
    [Instr.msvDirFwd dt req m, Instr.msvDirRev dt req m, Instr.msvDirBoth dt req m] :=
  ⟨0, 0, 0, State.reset, .msvDirRev 0 0 0, by decide +kernel⟩

theorem witness_SupervisorAndChopperCommands_1 : ∃ (m : Fin 3) (s : State), s.dstate ≠ DState.safeHold ∧ s.msvSt m.val
    = 2 ∧ s.posTrack m.val = true ∧ fle (s.msvK m.val 24) (s.msvH m.val).vdc = true ∧ (s.msvH m.val).lat608 = false :=
  ⟨0, ((State.reset.put (MSV.pg 0) MSV.STAT_STATE 2).put (POS.pg 0) POS.ANG_STATE 2), by decide +kernel⟩

theorem witness_SupervisorAndChopperCommands_2 : ∃ (m : Fin 3) (s : State), s.dstate ≠ DState.safeHold ∧ (¬(s.msvSt
    m.val = 2 ∧ s.posTrack m.val = true ∧ fle (s.msvK m.val 24) (s.msvH m.val).vdc = true ∧ (s.msvH m.val).lat608 =
    false)) :=
  ⟨0, State.reset, by decide +kernel⟩

theorem witness_SupervisorAndChopperCommands_3 : ∃ (m : Fin 3) (s : State), s.dstate ≠ DState.safeHold ∧ s.msvSt m.val
    = 3 :=
  ⟨0, State.reset.put (MSV.pg 0) MSV.STAT_STATE 3, by decide +kernel⟩

theorem witness_SupervisorAndChopperCommands_4 : ∃ (m : Fin 3) (s : State), s.dstate ≠ DState.safeHold ∧ (s.msvSt
    m.val = 1 ∨ s.msvSt m.val = 2) ∧ s.get (MSV.pg m.val) MSV.STAT_SET_MODE ≠ 0 ∧ (s.msvH m.val).lat608 = false :=
  ⟨0, (State.reset.put (MSV.pg 0) MSV.STAT_STATE 1).put (MSV.pg 0) MSV.STAT_SET_MODE 1, by decide +kernel⟩

theorem witness_SupervisorAndChopperCommands_5 : ∃ (m : Fin 3) (s : State), s.dstate ≠ DState.safeHold ∧ (s.msvSt
    m.val = 1 ∨ s.msvSt m.val = 2) :=
  ⟨0, State.reset.put (MSV.pg 0) MSV.STAT_STATE 2, by decide +kernel⟩

theorem witness_SupervisorAndChopperCommands_6 : ∃ (s : State), s.dstate ≠ DState.safeHold :=
  ⟨State.reset, by decide +kernel⟩

theorem witness_SupervisorAndChopperCommands_7 : ∃ (s : State), s.dstate = DState.standby ∧ s.get BCH.pg
    BCH.STAT_STATE = 3 :=
  ⟨(inState .standby).put BCH.pg BCH.STAT_STATE 3, by decide +kernel⟩

theorem witness_SupervisorAndChopperCommands_8 : ∃ (s : State), s.dstate ≠ DState.safeHold ∧ (s.dstate ≠
    DState.standby ∨ s.get BCH.pg BCH.STAT_STATE ≠ 3) :=
  ⟨State.reset, by decide +kernel⟩

theorem witness_SupervisorAndChopperCommands_9 : ∃ (s : State), s.dstate ≠ DState.safeHold :=
  ⟨State.reset, by decide +kernel⟩

theorem witness_SupervisorAndChopperCommands_10 : ∃ (s : State), s.dstate = DState.safeHold :=
  ⟨inState .safeHold, by decide +kernel⟩

theorem witness_DcdcCommandsAndBoundedWaits_1 : ∃ (s : State), s.dstate ≠ DState.safeHold ∧ s.get DCD.pg
    DCD.STAT_STATE = 1 ∧ s.dstate.running = true ∧ feq (s.rd (fldAddr DCD.pg DCD.VSET)) 0 = false ∧ s.dcdVinOk = true
    :=
  ⟨((inState .standby).put DCD.pg DCD.STAT_STATE 1).setWord DCD.pg DCD.VSET f1, by decide +kernel⟩

theorem witness_DcdcCommandsAndBoundedWaits_2 : ∃ (s : State), s.dstate ≠ DState.safeHold ∧ (s.get DCD.pg
    DCD.STAT_STATE = 3 ∨ s.get DCD.pg DCD.STAT_STATE = 4) :=
  ⟨State.reset.put DCD.pg DCD.STAT_STATE 3, by decide +kernel⟩

theorem witness_DcdcCommandsAndBoundedWaits_3 : ∃ (s : State), s.dstate ≠ DState.safeHold ∧ s.get DCD.pg
    DCD.STAT_STATE = 2 :=
  ⟨State.reset.put DCD.pg DCD.STAT_STATE 2, by decide +kernel⟩

theorem witness_DcdcCommandsAndBoundedWaits_4 : ∃ (s : State), s.dstate ≠ DState.safeHold ∧ s.get DCD.pg
    DCD.STAT_STATE = 5 ∧ s.dcd.cond = false ∧ s.dcd.perBad = false :=
  ⟨State.reset.put DCD.pg DCD.STAT_STATE 5, by decide +kernel⟩

theorem witness_DcdcCommandsAndBoundedWaits_5 : ∃ (s : State), s.dstate ≠ DState.safeHold ∧ (s.get DCD.pg
    DCD.STAT_STATE ≠ 5 ∨ s.dcd.cond = true ∨ s.dcd.perBad = true) :=
  ⟨{ State.reset with dcd := { State.reset.dcd with cond := true } }.put DCD.pg DCD.STAT_STATE 5, by decide +kernel⟩

theorem witness_DcdcCommandsAndBoundedWaits_6 : ∃ (s : State), s.dstate ≠ DState.safeHold :=
  ⟨State.reset, by decide +kernel⟩

theorem witness_DcdcCommandsAndBoundedWaits_7 : ∃ (s : State) (val : F32), s.get DCD.pg DCD.STAT_STATE ≠ 0 ∧ fin_ val
    (s.dcdK 4) (s.dcdK 5) = true :=
  ⟨((State.reset.put DCD.pg DCD.STAT_STATE 1).setWord DCD.pg (DCD.K.ix 5) f1).dcdLatch, f1, by decide +kernel⟩

theorem witness_DcdcCommandsAndBoundedWaits_8 : ∃ (s : State) (val : F32), s.get DCD.pg DCD.STAT_STATE ≠ 0 ∧ fin_ val
    (s.dcdK 4) (s.dcdK 5) = false :=
  ⟨(State.reset.put DCD.pg DCD.STAT_STATE 1).setWord DCD.pg (DCD.K.ix 5) f1, f2, by decide +kernel⟩

theorem witness_DcdcCommandsAndBoundedWaits_9 : ∃ (dt : Nat) (s : State) (p : Fin 4), s.dev.off = false ∧ s.get DCD.pg
    DCD.STAT_STATE = 2 ∧ s.dcd.testAt + 4000000 ≤ s.now + dt ∧ p.val < s.get DCD.pg DCD.CFG_NPH + 1 ∧ vget
    s.dcd.passes p < 2 :=
  ⟨4000000, (State.reset.put DCD.pg DCD.STAT_STATE 2).put DCD.pg DCD.CFG_NPH 3, 3, by decide +kernel⟩

theorem witness_DcdcCommandsAndBoundedWaits_10 : ∃ (dt : Nat) (s : State), s.dev.off = false ∧ s.get DCD.pg
    DCD.STAT_STATE = 3 ∧ s.dcd.startAt + ticksOf (s.dcdK 21) ≤ s.now + dt :=
  ⟨ticksOf (State.reset.dcdK 21), State.reset.put DCD.pg DCD.STAT_STATE 3, by decide +kernel⟩

theorem witness_ChargerDecodesItsInlet_1 : ∃ (dt : Nat) (s : State) (a : Nat), s.obcDecodes = true ∧ s.obc.cpAt = some
    a ∧ a + 400 ≤ (s.advance dt).now ∧ (s.advance dt).now < a + 400000 ∧ (s.advance dt).now < s.obc.winAt + 400000 :=
  ⟨399999, inlet.obcSet fun o => { o with cpAt := some 0 }, 0, by decide +kernel⟩

theorem witness_ChargerDecodesItsInlet_2 : ∃ (dt : Nat) (mv : Int) (s : State) (a : Nat) (v : Int), s.obcDecodes =
    true ∧ s.obc.cpAt = some a ∧ a + 400 ≤ (s.advance dt).now ∧ (s.advance dt).now < a + 400000 ∧ s.obc.winAt + 400000
    ≤ (s.advance dt).now ∧ meanOf (s.obc.cpAll.fst + 16 * (mv - 900), s.obc.cpAll.snd + 1) = some v :=
  ⟨400000, 900, inlet.obcSet fun o => { o with cpAt := some 1 }, 1, 0, by decide +kernel⟩

theorem witness_ChargerDecodesItsInlet_3 : ∃ (dt : Nat) (s : State) (a : Nat) (r : Nat) (f : Nat) (e : Nat),
    s.obcDecodes = true ∧ s.obc.cpAt = some a ∧ a + 400 ≤ (s.advance dt).now ∧ (s.advance dt).now < a + 400000 ∧ e <
    (s.advance dt).now ∧ (s.advance dt).now < e + 400000 ∧ s.obc.rise = some r ∧ s.obc.fall = some f ∧ r < f ∧ f < e
    :=
  ⟨1000, inlet.obcSet fun o => { o with cpAt := some 0, rise := some 0, fall := some 1 }, 0, 0, 1, 2,
    by decide +kernel⟩

theorem witness_ChargerDecodesItsInlet_4 : ∃ (s : State), s.obcDecodes = false :=
  ⟨State.reset, by decide +kernel⟩

theorem witness_ChargerDecodesItsInlet_5 : ∃ (dt : Nat) (vdda : Int) (s : State), s.obcDecodes = true ∧ 0 < vdda ∧
    sampleDue 4000 s.obc.ppAt (s.advance dt).now = true ∧ s.obc.pp.length < 15 :=
  ⟨0, 1, inlet.obcSet fun o => { o with pp := List.replicate 14 (1, 1) }, by decide +kernel⟩

theorem witness_ChargerDecodesItsInlet_6 : ∃ (dt : Nat) (vdda : Int) (s : State), s.obcDecodes = true ∧ 0 < vdda ∧
    sampleDue 4000 s.obc.ppAt (s.advance dt).now = true ∧ 15 ≤ s.obc.pp.length :=
  ⟨0, 1, inlet.obcSet fun o => { o with pp := List.replicate 15 (1, 1) }, by decide +kernel⟩

theorem witness_ChargerDecodesItsInlet_7 : ∃ (req : Req) (val : W32) (s : State), s.dev.off = false ∧ req.val ≤ 1 ∧
    ((val.toNat).testBit 31 = true ∨ s.obc.dabOn = false) :=
  ⟨1, 0, State.reset, by decide +kernel⟩

theorem witness_ChargerDecodesItsInlet_8 : ∃ (req : Req) (val : W32) (s : State), s.dev.off = false ∧ req.val ≤ 1 ∧
    (val.toNat).testBit 31 = false ∧ s.obc.dabOn = true :=
  ⟨1, 0, State.reset.obcSet fun o => { o with dabOn := true }, by decide +kernel⟩

theorem witness_ChargerDecodesItsInlet_9 : ∃ (req : Req) (s : State), s.dev.off = false ∧ 2 ≤ req.val :=
  ⟨2, State.reset, by decide +kernel⟩

theorem witness_ChargerDecodesItsInlet_10 : ∃ (dt : Nat) (s : State), s.dev.off = false ∧ 2 ≤ s.get OBC.pg
    OBC.STAT_STATE ∧ s.obc.bmsOut = false ∧ s.obc.bmsAt + s.get OBC.pg OBC.BMSTO_TO ≤ s.now + dt :=
  ⟨State.reset.get OBC.pg OBC.BMSTO_TO, State.reset.put OBC.pg OBC.STAT_STATE 2, by decide +kernel⟩

theorem witness_ChargerSessionCommandsAndBounds_1 : ∃ (s : State) (dir : Bool), s.dstate ≠ DState.safeHold ∧ s.get
    OBC.pg OBC.STAT_STATE = 1 ∧ s.dstate = DState.charge ∧ s.obcConnected = true ∧ s.get OBC.pg OBC.INLET_TYPE ≠ 0 ∧
    s.obcPilot ≠ 0 ∧ s.obc.frameSince = true ∧ s.obc.latched = [] ∧ s.obcDirOk dir = true :=
  ⟨((((((inState .charge).put OBC.pg OBC.STAT_STATE 1).put OBC.pg OBC.INLET_TYPE 2).put OBC.pg OBC.INLET_PP 2).put
    OBC.pg
      OBC.HLC_LIM 1).flag OBC.pg OBC.CFG_V2G_EN true).flag OBC.pg OBC.HLC_V2G_OK true |>.obcSet fun o =>
    { o with frameSince := true }, true, by decide +kernel⟩

theorem witness_ChargerSessionCommandsAndBounds_2 : ∃ (s : State), s.dstate ≠ DState.safeHold ∧ s.obcRunning = true :=
  ⟨State.reset.put OBC.pg OBC.STAT_STATE 5, by decide +kernel⟩

theorem witness_ChargerSessionCommandsAndBounds_3 : ∃ (s : State) (dir : Bool), s.dstate ≠ DState.safeHold ∧ 3 ≤ s.get
    OBC.pg OBC.STAT_STATE ∧ s.get OBC.pg OBC.STAT_STATE ≤ 5 ∧ s.obcDirOk dir = true :=
  ⟨State.reset.put OBC.pg OBC.STAT_STATE 5, false, by decide +kernel⟩

theorem witness_ChargerSessionCommandsAndBounds_4 : ∃ (s : State), s.dstate ≠ DState.safeHold ∧ s.get OBC.pg
    OBC.STAT_STATE = 1 :=
  ⟨State.reset.put OBC.pg OBC.STAT_STATE 1, by decide +kernel⟩

theorem witness_ChargerSessionCommandsAndBounds_5 : ∃ (s : State), s.dstate ≠ DState.safeHold :=
  ⟨State.reset, by decide +kernel⟩

theorem witness_ChargerSessionCommandsAndBounds_6 : ∃ (dt : Nat) (s : State), s.dev.off = false ∧ s.get OBC.pg
    OBC.STAT_STATE = 2 ∧ s.obc.inhibitAt = none ∧ s.obc.pcStep = 2 ∧ s.obc.pcAt + 8000000 ≤ s.now + dt ∧ s.obcPresent
    0 = true ∧ s.obcPresent 1 = s.obcPresent 2 :=
  ⟨8000000, (State.reset.put OBC.pg OBC.STAT_STATE 2).obcSet fun o => { o with pcStep := 2 }, by decide +kernel⟩

theorem witness_ChargerSessionCommandsAndBounds_7 : ∃ (dt : Nat) (s : State), s.dev.off = false ∧ s.get OBC.pg
    OBC.STAT_STATE = 2 ∧ s.obc.inhibitAt = none ∧ s.obc.pcStep = 2 ∧ s.obc.pcAt + 8000000 ≤ s.now + dt ∧ (s.obcPresent
    0 = false ∨ s.obcPresent 1 ≠ s.obcPresent 2) :=
  ⟨8000000, ((State.reset.put OBC.pg OBC.STAT_STATE 2).setWord OBC.pg (OBC.K.ix 5) f1).obcSet fun o =>
    { o with pcStep := 2 }, by decide +kernel⟩

theorem witness_ChargerSessionCommandsAndBounds_8 : ∃ (dt : Nat) (s : State), s.dev.off = false ∧ s.get OBC.pg
    OBC.STAT_STATE = 2 ∧ s.obc.inhibitAt = none ∧ s.obc.pcStep = 1 ∧ s.obc.pcAt + s.get OBC.pg OBC.ACWAIT_TO ≤ s.now +
    dt :=
  ⟨State.reset.get OBC.pg OBC.ACWAIT_TO, (State.reset.put OBC.pg OBC.STAT_STATE 2).obcSet fun o =>
    { o with pcStep := 1 }, by decide +kernel⟩

theorem witness_ChargerSessionCommandsAndBounds_9 : ∃ (dt : Nat) (s : State), s.dev.off = false ∧ s.get OBC.pg
    OBC.STAT_STATE = 2 ∧ s.obc.inhibitAt = none ∧ s.obc.pcStep = 3 ∧ s.obc.pcAt + s.get OBC.pg OBC.PRETO_TO ≤ s.now +
    dt :=
  ⟨State.reset.get OBC.pg OBC.PRETO_TO, (State.reset.put OBC.pg OBC.STAT_STATE 2).obcSet fun o =>
    { o with pcStep := 3 }, by decide +kernel⟩

theorem witness_ChargerSessionCommandsAndBounds_10 : ∃ (dt : Nat) (s : State), s.obc.inhibitAt = none ∧ s.obcRunning =
    true ∧ s.get64 OBC.pg OBC.TTOT_LO ≤ (s.advance dt).obcTick.get64 OBC.pg OBC.ETOT_LO :=
  ⟨State.reset.get64 OBC.pg OBC.TTOT_LO, State.reset.put OBC.pg OBC.STAT_STATE 5, by decide +kernel⟩

theorem witness_ChargerSessionCommandsAndBounds_11 : ∃ (dt : Nat) (s : State), s.dev.off = false ∧ s.get OBC.pg
    OBC.STAT_STATE = 6 ∧ s.obc.inhibitAt = none ∧ s.obc.stopAt + 40000000 ≤ s.now + dt :=
  ⟨40000000, State.reset.put OBC.pg OBC.STAT_STATE 6, by decide +kernel⟩

theorem witness_ChargerSessionCommandsAndBounds_12 : ∃ (dt : Nat) (s : State) (x : Nat), s.dev.off = false ∧
    s.obc.inhibitAt = some x ∧ x ≤ s.now + dt :=
  ⟨5, State.reset.obcSet fun o => { o with inhibitAt := some 5 }, 5, by decide +kernel⟩

theorem witness_ActuatorTargetsComeFromTheirSource_1 : ∃ (n : Fin 6) (s : State), s.actSt n = 2 ∧ s.get (ACT.pg n.val)
    ACT.CFG_CSRC = 0 :=
  ⟨0, State.reset.put (ACT.pg 0) ACT.STAT_STATE 2, by decide +kernel⟩

theorem witness_ActuatorTargetsComeFromTheirSource_2 : ∃ (n : Fin 6) (s : State) (v : W32), s.actSt n = 2 ∧ s.get
    (ACT.pg n.val) ACT.CFG_CSRC = 1 ∧ (vget s.act n).pinTgt = some v ∧ (vget s.act n).safePos = false :=
  ⟨0, ((State.reset.put (ACT.pg 0) ACT.STAT_STATE 2).put (ACT.pg 0) ACT.CFG_CSRC 1).actSet 0 fun h =>
    { h with pinTgt := some f1 }, f1, by decide +kernel⟩

theorem witness_ActuatorTargetsComeFromTheirSource_3 : ∃ (n : Fin 6) (s : State), s.actSt n = 3 :=
  ⟨0, State.reset.put (ACT.pg 0) ACT.STAT_STATE 3, by decide +kernel⟩

theorem witness_ActuatorTargetsComeFromTheirSource_4 : ∃ (req : Req), req.val ≤ 1 :=
  ⟨1, by decide +kernel⟩

theorem witness_ActuatorTargetsComeFromTheirSource_5 : ∃ (req : Req), 2 ≤ req.val :=
  ⟨2, by decide +kernel⟩

theorem witness_ActuatorsFollowTheirInputs_1 : ∃ (req : Req) (n : Fin 6) (s : State), (if s.on (ACT.pg n.val)
    ACT.CFG_CMP_SRC = true then req.val ≤ 2 else req.val = 7) :=
  ⟨7, 0, State.reset, by decide +kernel⟩

theorem witness_ActuatorsFollowTheirInputs_2 : ∃ (req : Req) (n : Fin 6) (s : State), ¬if s.on (ACT.pg n.val)
    ACT.CFG_CMP_SRC = true then req.val ≤ 2 else req.val = 7 :=
  ⟨0, 0, State.reset, by decide +kernel⟩

theorem witness_ActuatorsFollowTheirInputs_3 : ∃ (n : Fin 6) (st : BitVec 3) (s : State) (d : Int), s.actSt n ≠ 0 ∧
    s.actSensorless n = false ∧ s.actBrushed n = false ∧ st.toNat ≠ (vget s.act n).hall ∧ sectorStep (s.get (ACT.pg
    n.val) ACT.STAT_SECT) (hallSector (s.on (ACT.pg n.val) ACT.HALL_DIR) st.toNat) = some d ∧ hallSector (s.on (ACT.pg
    n.val) ACT.HALL_DIR) st.toNat ≠ 0 ∧ s.get (ACT.pg n.val) ACT.STAT_SECT ≠ 0 ∧ hallSector (s.on (ACT.pg n.val)
    ACT.HALL_DIR) st.toNat ≠ s.get (ACT.pg n.val) ACT.STAT_SECT :=
  ⟨0, 3, (State.reset.put (ACT.pg 0) ACT.STAT_STATE 1).put (ACT.pg 0) ACT.STAT_SECT 1, 1, by decide +kernel⟩

theorem witness_ActuatorsFollowTheirInputs_4 : ∃ (n : Fin 6) (st : BitVec 3) (s : State), s.actSt n ≠ 0 ∧
    s.actSensorless n = false ∧ s.actBrushed n = false ∧ st.toNat ≠ (vget s.act n).hall ∧ hallSector (s.on (ACT.pg
    n.val) ACT.HALL_DIR) st.toNat = 0 :=
  ⟨0, 7, (State.reset.put (ACT.pg 0) ACT.STAT_STATE 1).put (ACT.pg 0) ACT.STAT_SECT 1, by decide +kernel⟩

theorem witness_ActuatorsFollowTheirInputs_5 : ∃ (dt : Nat) (n : Fin 6) (s : State) (t0 : Nat), s.dev.off = false ∧
    (vget s.act n).bemf = Bemf.align t0 ∧ t0 + ticksOf (fdiv (s.actK n 15) (fint 4)) ≤ s.now + dt :=
  ⟨ticksOf (fdiv (State.reset.actK 0 15) (fint 4)), 0, State.reset.actSet 0 fun h => { h with bemf := .align 0 }, 0,
    by decide +kernel⟩

theorem witness_ActuatorsFollowTheirInputs_6 : ∃ (dt : Nat) (n : Fin 6) (s : State) (t0 : Nat) (k : Nat) (la : Nat) (g
    : Nat), s.dev.off = false ∧ (vget s.act n).bemf = Bemf.forced t0 k la g ∧ t0 + rampStep (s.actK n 14) (s.actK n
    15) (k + 1) ≤ s.now + dt :=
  ⟨rampStep (State.reset.actK 0 14) (State.reset.actK 0 15) 1, 0, State.reset.actSet 0 fun h =>
    { h with bemf := .forced 0 0 0 0 }, 0, 0, 0, 0, by decide +kernel⟩

theorem witness_ActuatorsFollowTheirInputs_7 : ∃ (dt : Nat) (n : Fin 6) (s : State) (t0 : Nat) (k : Nat) (la : Nat) (g
    : Nat), s.dev.off = false ∧ (vget s.act n).bemf = Bemf.forced t0 k la g ∧ 5 ≤ g ∧ 4 * (s.now + dt - la) ≤ t0 +
    rampStep (s.actK n 14) (s.actK n 15) (k + 1) - la :=
  ⟨0, 0, State.reset.actSet 0 fun h => { h with bemf := .forced 0 0 0 5 }, 0, 0, 0, 5, by decide +kernel⟩

theorem witness_ActuatorsFollowTheirInputs_8 : ∃ (dt : Nat) (n : Fin 6) (s : State) (t0 : Nat) (k : Nat) (la : Nat) (g
    : Nat), s.dev.off = false ∧ (vget s.act n).bemf = Bemf.forced t0 k la g ∧ t0 + ticksOf (s.actK n 15) ≤ s.now + dt
    :=
  ⟨ticksOf (State.reset.actK 0 15), 0, State.reset.actSet 0 fun h => { h with bemf := .forced 0 0 0 5 }, 0, 0, 0, 5,
    by decide +kernel⟩

theorem witness_ActuatorsFollowTheirInputs_9 : ∃ (n : Fin 6) (s : State), s.dev.off = false ∧ (vget s.act n).bemf =
    Bemf.run :=
  ⟨0, State.reset.actSet 0 fun h => { h with bemf := .run }, by decide +kernel⟩

theorem witness_ActuatorsFollowTheirInputs_10 : ∃ (dt : Nat) (n : Fin 6) (s : State) (x : Nat), s.dev.off = false ∧
    (vget s.act n).bemf = Bemf.run ∧ (vget s.act n).advAt = some x ∧ x ≤ s.now + dt :=
  ⟨5, 0, State.reset.actSet 0 fun h => { h with bemf := .run, advAt := some 5 }, 5, by decide +kernel⟩

theorem witness_ActuatorsFollowTheirInputs_11 : ∃ (dt : Nat) (n : Fin 6) (s : State) (x : Nat), s.dev.off = false ∧
    (vget s.act n).edgeAt = some x ∧ x + 8000000 ≤ s.now + dt :=
  ⟨8000000, 0, State.reset.actSet 0 fun h => { h with edgeAt := some 0 }, 0, by decide +kernel⟩

theorem witness_ActuatorCommandsAndSequences_1 : ∃ (dt : Nat) (n : Fin 6) (s : State) (st : Nat), s.dstate ≠
    DState.safeHold ∧ (st = if (vget s.act n).endAt = (s.advance dt).now + 1 ∧ s.actSt n ≠ 5 then 3 else s.actSt n) ∧
    (st = 1 ∨ st = 4) ∧ s.actMayDrive n = true :=
  ⟨0, 0, actReady 4, if (vget (actReady 4 : State).act (0 : Fin 6)).endAt = ((actReady 4 : State).advance (0 :
    Nat)).now + 1 ∧ (actReady 4 : State).actSt (0 : Fin 6) ≠ 5 then 3 else (actReady 4 : State).actSt (0 : Fin 6),
    by decide +kernel, rfl, by decide +kernel⟩

theorem witness_ActuatorCommandsAndSequences_2 : ∃ (dt : Nat) (n : Fin 6) (s : State) (st : Nat), s.dstate ≠
    DState.safeHold ∧ (st = if (vget s.act n).endAt = (s.advance dt).now + 1 ∧ s.actSt n ≠ 5 then 3 else s.actSt n) ∧
    (st = 1 ∨ st = 2 ∨ st = 4) ∧ s.actMayDrive n = true :=
  ⟨0, 0, actReady 4, if (vget (actReady 4 : State).act (0 : Fin 6)).endAt = ((actReady 4 : State).advance (0 :
    Nat)).now + 1 ∧ (actReady 4 : State).actSt (0 : Fin 6) ≠ 5 then 3 else (actReady 4 : State).actSt (0 : Fin 6),
    by decide +kernel, rfl, by decide +kernel⟩

theorem witness_ActuatorCommandsAndSequences_3 : ∃ (dt : Nat) (n : Fin 6) (s : State) (st : Nat), s.dstate ≠
    DState.safeHold ∧ (st = if (vget s.act n).endAt = (s.advance dt).now + 1 ∧ s.actSt n ≠ 5 then 3 else s.actSt n) ∧
    (st = 2 ∨ st = 3) :=
  ⟨0, 0, actReady 3, if (vget (actReady 3 : State).act (0 : Fin 6)).endAt = ((actReady 3 : State).advance (0 :
    Nat)).now + 1 ∧ (actReady 3 : State).actSt (0 : Fin 6) ≠ 5 then 3 else (actReady 3 : State).actSt (0 : Fin 6),
    by decide +kernel, rfl, by decide +kernel⟩

theorem witness_ActuatorCommandsAndSequences_4 : ∃ (dt : Nat) (n : Fin 6) (s : State) (st : Nat), s.dstate ≠
    DState.safeHold ∧ (st = if (vget s.act n).endAt = (s.advance dt).now + 1 ∧ s.actSt n ≠ 5 then 3 else s.actSt n) ∧
    (st = 2 ∨ st = 3 ∨ st = 4) :=
  ⟨0, 0, actReady 4, if (vget (actReady 4 : State).act (0 : Fin 6)).endAt = ((actReady 4 : State).advance (0 :
    Nat)).now + 1 ∧ (actReady 4 : State).actSt (0 : Fin 6) ≠ 5 then 3 else (actReady 4 : State).actSt (0 : Fin 6),
    by decide +kernel, rfl, by decide +kernel⟩

theorem witness_ActuatorCommandsAndSequences_5 : ∃ (dt : Nat) (n : Fin 6) (s : State) (st : Nat), s.dstate ≠
    DState.safeHold ∧ (st = if (vget s.act n).endAt = (s.advance dt).now + 1 ∧ s.actSt n ≠ 5 then 3 else s.actSt n) ∧
    st = 5 ∧ s.actGone n = true :=
  ⟨0, 0, actReady 5, if (vget (actReady 5 : State).act (0 : Fin 6)).endAt = ((actReady 5 : State).advance (0 :
    Nat)).now + 1 ∧ (actReady 5 : State).actSt (0 : Fin 6) ≠ 5 then 3 else (actReady 5 : State).actSt (0 : Fin 6),
    by decide +kernel, rfl, by decide +kernel⟩

theorem witness_ActuatorCommandsAndSequences_6 : ∃ (dt : Nat) (n : Fin 6) (s : State) (st : Nat), s.dstate ≠
    DState.safeHold ∧ (st = if (vget s.act n).endAt = (s.advance dt).now + 1 ∧ s.actSt n ≠ 5 then 3 else s.actSt n) :=
  ⟨0, 0, State.reset, if (vget State.reset.act (0 : Fin 6)).endAt = (State.reset.advance (0 : Nat)).now + 1 ∧
    State.reset.actSt (0 : Fin 6) ≠ 5 then 3 else State.reset.actSt (0 : Fin 6), by decide +kernel, rfl⟩

theorem witness_ActuatorCommandsAndSequences_7 : ∃ (dt : Nat) (n : Fin 6) (s : State) (st : Nat), s.dstate ≠
    DState.safeHold ∧ (st = if (vget s.act n).endAt = (s.advance dt).now + 1 ∧ s.actSt n ≠ 5 then 3 else s.actSt n) ∧
    st = 1 :=
  ⟨0, 0, actReady 1, if (vget (actReady 1 : State).act (0 : Fin 6)).endAt = ((actReady 1 : State).advance (0 :
    Nat)).now + 1 ∧ (actReady 1 : State).actSt (0 : Fin 6) ≠ 5 then 3 else (actReady 1 : State).actSt (0 : Fin 6),
    by decide +kernel, rfl, by decide +kernel⟩

theorem witness_ActuatorCommandsAndSequences_8 : ∃ (dt : Nat) (n : Fin 6) (s : State) (st : Nat), s.dstate ≠
    DState.safeHold ∧ (st = if (vget s.act n).endAt = (s.advance dt).now + 1 ∧ s.actSt n ≠ 5 then 3 else s.actSt n) ∧
    st ≠ 1 :=
  ⟨0, 0, actReady 2, if (vget (actReady 2 : State).act (0 : Fin 6)).endAt = ((actReady 2 : State).advance (0 :
    Nat)).now + 1 ∧ (actReady 2 : State).actSt (0 : Fin 6) ≠ 5 then 3 else (actReady 2 : State).actSt (0 : Fin 6),
    by decide +kernel, rfl, by decide +kernel⟩

theorem witness_ActuatorCommandsAndSequences_9 : ∃ (dt : Nat) (n : Fin 6) (s : State), s.dev.off = false ∧ s.actSt n =
    3 ∧ (vget s.act n).seqAt + ticksOf (s.actK n 16) ≤ s.now + dt :=
  ⟨ticksOf (State.reset.actK 0 16), 0, State.reset.put (ACT.pg 0) ACT.STAT_STATE 3, by decide +kernel⟩

theorem witness_LockstepComparesBeforeItCommits_1 : ∃ (i : Fin 3) (s : State), s.dev.off = false ∧ (s.pairOf i).run =
    true ∧ (s.pairOf i).halted = false ∧ (s.pairOf i).win.length < 8 ∧ (s.pairOf i).haltReq = false :=
  ⟨2, runPair fun h => { h with win := List.replicate 7 ⟨0, 0, none⟩ }, by decide +kernel⟩

theorem witness_LockstepComparesBeforeItCommits_2 : ∃ (i : Fin 3) (s : State) (k : Nat), s.dev.off = false ∧ (s.pairOf
    i).run = true ∧ (s.pairOf i).halted = false ∧ List.findIdx? (fun e => e.chk.isNone) (s.pairOf i).win = some k :=
  ⟨2, runPair fun h => { h with win := [⟨0, 0, none⟩] }, 0, by decide +kernel⟩

theorem witness_LockstepComparesBeforeItCommits_3 : ∃ (i : Fin 3) (s : State) (be : BitVec 4) (a : W32) (be' : BitVec
    4) (a' : W32) (u : CmpUpset), s.dev.off = false ∧ (s.pairOf i).run = true ∧ (s.pairOf i).halted = false ∧
    (s.pairOf i).win.length < 8 ∧ (u = CmpUpset.none ∨ u = CmpUpset.blind) ∧ a = a' ∧ be = be' ∧ (s.pairOf
    i).loads.length ≤ (s.pairOf i).win.length :=
  ⟨2, runPair fun h => { h with win := List.replicate 7 ⟨0, 0, none⟩ }, (0 : BitVec 4), 0, 0, 0, .blind,
    by decide +kernel, by decide +kernel, by decide +kernel, by decide +kernel, by decide +kernel, by decide +kernel,
    rfl, by decide +kernel⟩

theorem witness_LockstepComparesBeforeItCommits_4 : ∃ (i : Fin 3) (s : State) (a : W32) (a' : W32) (u : CmpUpset),
    s.dev.off = false ∧ (s.pairOf i).run = true ∧ (s.pairOf i).halted = false ∧ (s.pairOf i).win.length < 8 ∧ (u =
    CmpUpset.none ∨ u = CmpUpset.blind) ∧ a ≠ a' ∧ (s.pairOf i).retry = none :=
  ⟨2, runPair fun h => { h with win := List.replicate 7 ⟨0, 0, none⟩ }, 1, 0, .blind, by decide +kernel⟩

theorem witness_LockstepComparesBeforeItCommits_5 : ∃ (i : Fin 3) (s : State) (age : Nat), s.dev.off = false ∧
    (s.pairOf i).run = true ∧ (s.pairOf i).halted = false ∧ s.get LKS.pg LKS.CFG_LAG_MAX ≤ age ∧ (s.pairOf
    i).win.length < 8 ∧ (s.pairOf i).retry = none :=
  ⟨2, runPair fun h => { h with win := List.replicate 7 ⟨0, 0, none⟩ }, State.reset.get LKS.pg LKS.CFG_LAG_MAX,
    by decide +kernel⟩

theorem witness_LockstepComparesBeforeItCommits_6 : ∃ (i : Fin 3) (s : State) (e : Entry) (es : List Entry) (c :
    BitVec 192) (u : CmpUpset), s.dev.off = false ∧ (s.pairOf i).run = true ∧ (s.pairOf i).win = e :: es ∧ e.chk =
    some c ∧ (s.pairOf i).loaded e.main = true ∧ (u = CmpUpset.none ∨ u = CmpUpset.blind) ∧ (s.pairOf i).retry = none
    ∧ e.main = c ∧ lanes c 153 152 ≠ 2 :=
  ⟨2, runPair fun h => { h with win := [⟨0, 0, some 0⟩] }, ⟨0, 0, some 0⟩, [], 0, .blind, by decide +kernel⟩

theorem witness_LockstepComparesBeforeItCommits_7 : ∃ (i : Fin 3) (s : State) (e : Entry) (es : List Entry) (c :
    BitVec 192) (u : CmpUpset), s.dev.off = false ∧ (s.pairOf i).run = true ∧ (s.pairOf i).win = e :: es ∧ e.chk =
    some c ∧ (s.pairOf i).loaded e.main = true ∧ (u = CmpUpset.none ∨ u = CmpUpset.blind) ∧ (s.pairOf i).retry = none
    ∧ e.main ≠ c :=
  ⟨2, runPair fun h => { h with win := [⟨1, 0, some 0⟩] }, ⟨1, 0, some 0⟩, [], 0, .blind, by decide +kernel⟩

theorem witness_LockstepComparesBeforeItCommits_8 : ∃ (dt : Nat) (i : Fin 3) (s : State) (e : Entry) (es : List
    Entry), s.dev.off = false ∧ (s.pairOf i).run = true ∧ (s.pairOf i).win = e :: es ∧ e.chk = none ∧ e.mainAt + s.get
    LKS.pg LKS.CFG_LAG_MAX ≤ s.now + dt ∧ (s.pairOf i).retry = none :=
  ⟨State.reset.get LKS.pg LKS.CFG_LAG_MAX, 2, runPair fun h => { h with win := [⟨1, 0, none⟩] }, ⟨1, 0, none⟩, [],
    by decide +kernel⟩

theorem witness_LockstepComparesBeforeItCommits_9 : ∃ (dt : Nat) (i : Fin 3) (s : State) (k : Nat) (l : LoadSlot),
    s.dev.off = false ∧ (s.pairOf i).run = true ∧ List.findIdx?
    (fun x => match x with | some y => y.resp.isNone | none => false) (s.pairOf i).loads = some k ∧ (s.pairOf
    i).loads[k]? = some (some l) ∧ (s.advance dt).bankBusy (l.addr / 4 * 4 + (enabledBytes l.be).fst) = false :=
  ⟨0, 2, runPair fun h => { h with loads := [some ⟨0x20000000, 15, none⟩] }, 0, ⟨0x20000000, 15, none⟩,
    by decide +kernel⟩

theorem witness_LockstepComparesBeforeItCommits_10 : ∃ (i : Fin 3) (s : State) (c : W32), s.dev.off = false ∧
    (s.pairOf i).run = true ∧ (s.pairOf i).halted = false ∧ s.irqAsserted i (c.toNat % 256) = true ∧ (s.pairOf
    i).fifo.length < 16 ∧ (s.pairOf i).retry = none :=
  ⟨2, ((((runPair fun h => { h with fifo := List.replicate 15 ⟨0, 0, 0⟩ }).put EVR.pg (EVR.ROUTE_HS_IRQ.ix 0) 1).put
    EVR.pg
      (EVR.ROUTE_VECTOR.ix 0) 5).put SYS.pg HDR.EVT 1).put SYS.pg HDR.EVT_EN 1, 0x80000005,
    by decide +kernel⟩

theorem witness_LockstepComparesBeforeItCommits_11 : ∃ (i : Fin 3) (s : State), s.dev.off = false ∧ (s.pairOf i).run =
    true ∧ (s.pairOf i).halted = false ∧ (s.pairOf i).fifo.length < 16 ∧ (s.pairOf i).retry = none :=
  ⟨2, runPair fun h => { h with fifo := List.replicate 15 ⟨0, 0, 0⟩ }, by decide +kernel⟩

theorem witness_LockstepComparesBeforeItCommits_12 : ∃ (i : Fin 3) (s : State), s.dev.off = false ∧ (s.pairOf i).run =
    true ∧ (s.pairOf i).halted = true ∧ (s.pairOf i).fifo.length < 16 ∧ (s.pairOf i).retry = none :=
  ⟨2, runPair fun h => { h with halted := true }, by decide +kernel⟩

theorem witness_ComparatorTestsAndDebugHalts_1 : ∃ (dt : Nat) (c : Fin 4) (s : State), s.dev.off = false ∧ vget
    s.lks.tested c ≠ (s.now + dt) / s.testPer + 1 :=
  ⟨0, 3, State.reset, by decide +kernel⟩

theorem witness_ComparatorTestsAndDebugHalts_2 : ∃ (dt : Nat) (c : Fin 4) (s : State), s.dev.off = false ∧ (s.now +
    dt) % s.testPer = 0 ∧ vget s.lks.tested c < (s.now + dt) / s.testPer :=
  ⟨State.reset.testPer, 3, State.reset, by decide +kernel⟩

theorem witness_ComparatorTestsAndDebugHalts_3 : ∃ (dt : Nat) (s : State), (s.advance dt).now % 400000000 = 0 :=
  ⟨400000000, State.reset, by decide +kernel⟩

theorem witness_ComparatorTestsAndDebugHalts_4 : ∃ (i : Fin 3) (s : State), s.haltAllowed i = true :=
  ⟨1, State.reset.flag LKS.pg LKS.CFG_DBG_EN true, by decide +kernel⟩

theorem witness_ComparatorTestsAndDebugHalts_5 : ∃ (i : Fin 3) (s : State), s.haltAllowed i = false :=
  ⟨2, State.reset, by decide +kernel⟩

theorem witness_ComparatorTestsAndDebugHalts_6 : ∃ (i : Fin 3) (s : State), (s.pairOf i).run = true ∧ (s.pairOf
    i).haltReq = true ∧ (s.pairOf i).step = false ∧ (s.pairOf i).halted = false ∧ (s.pairOf i).win = [] ∧ (s.pairOf
    i).retry = none :=
  ⟨2, runPair fun h => { h with haltReq := true }, by decide +kernel⟩

theorem witness_ComparatorTestsAndDebugHalts_7 : ∃ (i : Fin 3) (s : State), (s.pairOf i).halted = true :=
  ⟨2, runPair fun h => { h with halted := true }, by decide +kernel⟩

theorem witness_ComparatorTestsAndDebugHalts_8 : ∃ (req : Req) (s : State), s.dstate ≠ DState.safeHold ∧ req.val = 2
    :=
  ⟨2, State.reset, by decide +kernel⟩

theorem witness_StoReleasesAndAssertions_1 : ∃ (req : Req) (mask : BitVec 3) (s : State), req.val = 2 ∧ s.dstate ≠
    DState.safeHold ∧ s.dstate = DState.drive ∧ s.hsHalted = false ∧ (∀ (m : Fin 3), mask.toNat.testBit m.val = true →
    s.stoFree m.val = true) :=
  ⟨2, 1, (inState .drive).put (MSV.pg 0) MSV.STAT_STATE 1, by decide +kernel⟩

theorem witness_StoReleasesAndAssertions_2 : ∃ (req : Req) (s : State), req.val = 2 ∧ s.dstate ≠ DState.safeHold ∧
    s.dstate ≠ DState.drive :=
  ⟨2, State.reset, by decide +kernel⟩

theorem witness_StoReleasesAndAssertions_3 : ∃ (req : Req) (s : State), req.val = 2 ∧ s.dstate ≠ DState.safeHold :=
  ⟨2, State.reset, by decide +kernel⟩

theorem witness_StoReleasesAndAssertions_4 : ∃ (req : Req) (s : State), req.val = 2 ∧ s.dstate ≠ DState.safeHold ∧
    s.dstate.running = true ∧ s.sfiConv = false :=
  ⟨2, inState .standby, by decide +kernel⟩

theorem witness_StoReleasesAndAssertions_5 : ∃ (req : Req) (s : State), req.val = 2 ∧ s.dstate ≠ DState.safeHold :=
  ⟨2, State.reset, by decide +kernel⟩

theorem witness_StoReleasesAndAssertions_6 : ∃ (req : Req), req.val ≠ 2 :=
  ⟨0, by decide +kernel⟩

theorem witness_StoReleasesAndAssertions_7 : ∃ (dt : Nat) (s : State) (l : Fin 4) (x : Nat), s.halo.pathA.testBit
    l.val = true ∧ s.halo.pathB.testBit l.val = false ∧ vget s.halo.diffAt l = some x ∧ (s.advance dt).now ≤ x + 400
    :=
  ⟨400, { State.reset with halo := { State.reset.halo with pathA := 8, diffAt := Vector.replicate 4 (some 0) } }, 3,
    0, by decide +kernel⟩

theorem witness_StoReleasesAndAssertions_8 : ∃ (dt : Nat) (s : State) (l : Fin 4) (x : Nat), s.dev.off = false ∧ vget
    s.halo.diffAt l = some x ∧ x + 4000 ≤ s.now + dt :=
  ⟨4000, { State.reset with halo := { State.reset.halo with diffAt := Vector.replicate 4 (some 0) } }, 3, 0,
    by decide +kernel⟩

theorem witness_HeartbeatWatchdogAndLogCommands_1 : ∃ (dt : Nat) (s : State) (l : Fin 15), s.dev.off = false ∧ s.ghbOk
    l.val = true ∧ (vget s.halo.ghb l).endAt ≤ s.now + dt :=
  ⟨5, { State.reset with halo := { State.reset.halo with ghb := Vector.replicate 15 ⟨5, false, false, 0⟩ } }.put
    GHB.pg GHB.STAT_RUN 0x4000, 14, by decide +kernel⟩

theorem witness_HeartbeatWatchdogAndLogCommands_3 : ∃ (dt : Nat) (req : Req) (s : State) (val : W32) (x : Nat),
    s.dev.off = false ∧ req.val = 2 ∧ s.halo.kickAt = some x ∧ (val.toNat = 42330 ∧ x + s.get HLO.pg HLO.CFG_WD_MIN *
    400 ≤ s.now + dt ∧ s.now + dt ≤ x + s.get HLO.pg HLO.CFG_WD_MAX * 400) :=
  ⟨State.reset.get HLO.pg HLO.CFG_WD_MIN * 400, 2, kicked, 0xA55A, 0, by decide +kernel⟩

theorem witness_HeartbeatWatchdogAndLogCommands_4 : ∃ (dt : Nat) (req : Req) (s : State) (val : W32) (x : Nat),
    s.dev.off = false ∧ req.val = 2 ∧ s.halo.kickAt = some x ∧ (¬(val.toNat = 42330 ∧ x + s.get HLO.pg HLO.CFG_WD_MIN
    * 400 ≤ s.now + dt ∧ s.now + dt ≤ x + s.get HLO.pg HLO.CFG_WD_MAX * 400)) :=
  ⟨State.reset.get HLO.pg HLO.CFG_WD_MAX * 400 + 1, 2, kicked, 0xA55A, 0, by decide +kernel⟩

theorem witness_HeartbeatWatchdogAndLogCommands_5 : ∃ (dt : Nat) (req : Req) (s : State) (x : Nat), s.dev.off = false
    ∧ req.val = 2 ∧ s.halo.kickAt = some x ∧ x + s.get HLO.pg HLO.CFG_WD_MAX * 400 ≤ s.now + dt :=
  ⟨State.reset.get HLO.pg HLO.CFG_WD_MAX * 400, 2, kicked, 0, by decide +kernel⟩

theorem witness_HeartbeatWatchdogAndLogCommands_6 : ∃ (req : Req) (s : State), s.dstate ≠ DState.safeHold ∧ req.val =
    2 :=
  ⟨2, State.reset, by decide +kernel⟩

theorem witness_HeartbeatWatchdogAndLogCommands_7 : ∃ (dt : Nat) (req : Req) (s : State) (m : Fin 3), s.dstate ≠
    DState.safeHold ∧ req.val = 2 ∧ s.stoEff m.val = true ∧ ((s.advance dt).ackMachine m).fst = false :=
  ⟨0, 2, State.reset.put STO.pg STO.STAT_EFF 7, 2, by decide +kernel⟩

theorem witness_HeartbeatWatchdogAndLogCommands_8 : ∃ (dt : Nat) (req : Req) (s : State) (m : Fin 3), s.dstate ≠
    DState.safeHold ∧ req.val = 2 ∧ s.stoEff m.val = true ∧ ((s.advance dt).ackMachine m).fst = true :=
  ⟨0, 2, ((State.reset.put STO.pg STO.STAT_EFF 7).put HLO.pg HLO.STAT_FR4 7).put (POS.pg 2) POS.ANG_STATE 5, 2,
    by decide +kernel⟩

theorem witness_HeartbeatWatchdogAndLogCommands_9 : ∃ (req : Req) (s : State) (m : Fin 3), s.dstate ≠ DState.safeHold
    ∧ req.val = 2 ∧ s.stoEff m.val = false :=
  ⟨2, State.reset.put STO.pg STO.STAT_EFF 0, 2, by decide +kernel⟩

theorem witness_SafeInputsAreSampledAndTested_1 : ∃ (dt : Nat) (r1 : BitVec 32) (r2 : BitVec 32) (s : State),
    s.dev.off = false ∧ s.dstate ≠ DState.off ∧ (s.now + dt) % 400 = 0 ∧ r1 = r2 :=
  ⟨400, (0 : BitVec 32), 0, State.reset, by decide +kernel, by decide +kernel, by decide +kernel, rfl⟩

theorem witness_SafeInputsAreSampledAndTested_2 : ∃ (dt : Nat) (r1 : BitVec 32) (r2 : BitVec 32) (s : State),
    s.dev.off = false ∧ s.dstate ≠ DState.off ∧ (s.now + dt) % 400 = 0 ∧ r1 ≠ r2 :=
  ⟨400, 0, 1, State.reset, by decide +kernel⟩

theorem witness_SafeInputsAreSampledAndTested_4 : ∃ (s : State) (k : Fin 16), s.on SFI.pg (SFI.CFG_EN.ix k.val) =
    false :=
  ⟨State.reset, 15, by decide +kernel⟩

theorem witness_SafeInputsAreSampledAndTested_6 : ∃ (c : SfiChan) (lowN : Nat), lowN ≤ c.lows + 1 :=
  ⟨⟨.run, 2, none, false, none⟩, 3, by decide +kernel⟩

theorem witness_SafeInputsAreSampledAndTested_7 : ∃ (c : SfiChan) (lowN : Nat), c.lows + 1 < lowN :=
  ⟨⟨.run, 2, none, false, none⟩, 4, by decide +kernel⟩

theorem witness_SafeInputsAreSampledAndTested_9 : ∃ (c : SfiChan) (now : Nat) (ms : Nat) (x : Nat), c.runSince = some
    x ∧ x + ms * 400000 ≤ now :=
  ⟨⟨.safe, 2, some 0, false, none⟩, 400000, 1, 0, by decide +kernel⟩

theorem witness_SafeInputsAreSampledAndTested_10 : ∃ (c : SfiChan) (now : Nat) (ms : Nat) (x : Nat), c.runSince = some
    x ∧ now < x + ms * 400000 :=
  ⟨⟨.safe, 2, some 0, false, none⟩, 399999, 1, 0, by decide +kernel⟩

theorem witness_SafeInputsAreSampledAndTested_11 : ∃ (dt : Nat) (j : Fin 4) (s : State), s.dev.off = false ∧ s.dstate
    ≠ DState.off ∧ s.bitOn SFI.pg SFI.FILT_TPO_EN j.val = true ∧ (s.now + dt) % (s.get SFI.pg SFI.TPO_PER * 400000) =
    j.val * (s.get SFI.pg SFI.TPO_PER * 400000) / 4 :=
  ⟨3 * (State.reset.get SFI.pg SFI.TPO_PER * 400000) / 4, 3, State.reset.put SFI.pg SFI.FILT_TPO_EN 8,
    by decide +kernel⟩

theorem witness_SafeInputsAreSampledAndTested_12 : ∃ (dt : Nat) (j : Fin 4) (s : State) (x : Nat), s.dev.off = false ∧
    s.dstate ≠ DState.off ∧ vget s.halo.tpoAt j = some x ∧ vget s.halo.tpoEnd j = none ∧ x + s.get SFI.pg SFI.TPO_PW *
    400 ≤ s.now + dt :=
  ⟨State.reset.get SFI.pg SFI.TPO_PW * 400, 3,
    { State.reset with halo := { State.reset.halo with tpoAt := Vector.replicate 4 (some 0) } }, 0, by decide +kernel⟩

theorem witness_SafeInputsAreSampledAndTested_13 : ∃ (req : Req) (k : Fin 16) (s : State), req.val = 2 ∧ s.dstate ≠
    DState.safeHold ∧ s.on SFI.pg (SFI.CFG_EN.ix k.val) = true ∧ s.sfiLatched k.val = false ∧ (vget s.halo.sfi
    k).demand = true ∧ (vget s.halo.sfi k).c1.st = ChanState.run ∧ (vget s.halo.sfi k).c2.st = ChanState.run :=
  ⟨2, 15, demandInput, by decide +kernel⟩

theorem witness_SafeInputsAreSampledAndTested_14 : ∃ (req : Req) (k : Fin 16) (s : State), req.val = 2 ∧ s.dstate ≠
    DState.safeHold ∧ s.on SFI.pg (SFI.CFG_EN.ix k.val) = false :=
  ⟨2, 15, State.reset, by decide +kernel⟩

theorem witness_SafeInputsAreSampledAndTested_15 : ∃ (req : Req) (s : State), req.val = 2 ∧ s.dstate ≠ DState.safeHold
    :=
  ⟨2, State.reset, by decide +kernel⟩

theorem witness_StopFunctionsAndBrakes_1 : ∃ (req : Req) (s : State), req.val = 2 ∧ s.dstate ≠ DState.safeHold :=
  ⟨2, State.reset, by decide +kernel⟩

theorem witness_StopFunctionsAndBrakes_2 : ∃ (req : Req) (ch : BitVec 2) (s : State), req.val = 2 ∧ s.dstate ≠
    DState.safeHold ∧ (∀ (c : Fin 2), ch.toNat.testBit c.val = true → s.sbcFree c = true) :=
  ⟨2, 3, (inState .standby), by decide +kernel⟩

theorem witness_StopFunctionsAndBrakes_3 : ∃ (req : Req) (ch : BitVec 2) (s : State), req.val = 2 ∧ s.dstate ≠
    DState.safeHold ∧ (∀ (c : Fin 2), ch.toNat.testBit c.val = true → s.get SSF.pg (SSF.SBCST_STATE.ix c.val) = 3 ∧
    (vget s.halo.sbc c).fb = 0) :=
  ⟨2, 1, State.reset.put SSF.pg (SSF.SBCST_STATE.ix 0) 3, by decide +kernel⟩

theorem witness_StopFunctionsAndBrakes_4 : ∃ (req : Req) (s : State), req.val = 2 ∧ s.dstate ≠ DState.safeHold :=
  ⟨2, State.reset, by decide +kernel⟩

theorem witness_StopFunctionsAndBrakes_5 : ∃ (dt : Nat) (m : Fin 3) (s : State), s.dev.off = false ∧ s.bitOn SSF.pg
    SSF.STAT_SS1 m.val = true ∧ (s.stopH m.val).t0 + s.get SSF.pg (SSF.TIMES_T_WIN.ix m.val) * 400000 ≤ s.now + dt :=
  ⟨State.reset.get SSF.pg (SSF.TIMES_T_WIN.ix 0) * 400000, 0, State.reset.put SSF.pg SSF.STAT_SS1 1,
    by decide +kernel⟩

theorem witness_StopFunctionsAndBrakes_6 : ∃ (dt : Nat) (c : Fin 2) (s : State) (x : Nat), s.dev.off = false ∧ (vget
    s.halo.sbc c).applyAt = some x ∧ x ≤ s.now + dt :=
  ⟨5, 0, withBrake ⟨0, some 5, 0, none, 0⟩, 5, by decide +kernel⟩

theorem witness_StopFunctionsAndBrakes_7 : ∃ (dt : Nat) (c : Fin 2) (s : State), s.dev.off = false ∧ s.get SSF.pg
    (SSF.SBCST_STATE.ix c.val) = 1 ∧ 0 < s.now + dt - (vget s.halo.sbc c).relAt ∧ (s.now + dt - (vget s.halo.sbc
    c).relAt) % (s.get SSF.pg (SSF.SBCCFG_TST_PER.ix c.val) * 40000000) = 0 :=
  ⟨State.reset.get SSF.pg (SSF.SBCCFG_TST_PER.ix 0) * 40000000, 0, State.reset.put SSF.pg (SSF.SBCST_STATE.ix 0) 1,
    by decide +kernel⟩

theorem witness_StopFunctionsAndBrakes_8 : ∃ (dt : Nat) (c : Fin 2) (s : State), s.dev.off = false ∧ s.get SSF.pg
    (SSF.SBCST_STATE.ix c.val) = 1 ∧ s.get SSF.pg (SSF.SBCCFG_TST_PER.ix c.val) * 40000000 < s.now + dt - (vget
    s.halo.sbc c).relAt ∧ (s.now + dt - (vget s.halo.sbc c).relAt) % (s.get SSF.pg (SSF.SBCCFG_TST_PER.ix c.val) *
    40000000) = s.get SSF.pg (SSF.SBCCFG_TST_PER.ix c.val) * 40000000 / 2 :=
  ⟨State.reset.get SSF.pg (SSF.SBCCFG_TST_PER.ix 0) * 60000000, 0, State.reset.put SSF.pg (SSF.SBCST_STATE.ix 0) 1,
    by decide +kernel⟩

theorem witness_StopFunctionsAndBrakes_9 : ∃ (dt : Nat) (c : Fin 2) (s : State) (ls : Bool) (x : Nat) (fb1 : Bool)
    (fb2 : Bool), s.dev.off = false ∧ (vget s.halo.sbc c).test = some (ls, x) ∧ x + s.get SSF.pg (SSF.SBCCFG_TST_PW.ix
    c.val) * 4000 ≤ s.now + dt ∧ b2n fb1 + 2 * b2n fb2 = sbcExpect (s.get SSF.pg (SSF.SBCST_OUT.ix c.val)) :=
  ⟨State.reset.get SSF.pg (SSF.SBCCFG_TST_PW.ix 0) * 4000, 0, withBrake ⟨0, none, 0, some (true, 0), 0⟩, true, 0,
    false, false, by decide +kernel⟩

theorem witness_SafetySessionsAndRecords_1 : ∃ (req : Req) (len : Fin 64) (s : State) (good : Bool), req.val = 2 ∧
    s.dstate ≠ DState.safeHold ∧
    (match s.scfNewest.pwd with | none => decide (len.val = 0) | some (salt, hash) => pwdHash salt (s.scfPwd len.val) == hash)
    = good ∧ s.dstate = DState.service ∧ s.get SCF.pg SCF.STAT_SESSION = 0 ∧ len.val ≤ 32 ∧ good = true :=
  ⟨2, 0, inState .service, true, by decide +kernel⟩

theorem witness_SafetySessionsAndRecords_2 : ∃ (req : Req) (len : Fin 64) (s : State) (good : Bool), req.val = 2 ∧
    s.dstate ≠ DState.safeHold ∧
    (match s.scfNewest.pwd with | none => decide (len.val = 0) | some (salt, hash) => pwdHash salt (s.scfPwd len.val) == hash)
    = good ∧ s.dstate = DState.service ∧ s.get SCF.pg SCF.STAT_SESSION = 0 ∧ len.val ≤ 32 ∧ good = false ∧ s.get
    SCF.pg SCF.LOCK_FAILS + 1 < s.get SCF.pg SCF.CFG_MAXTRY :=
  ⟨2, 8, inState .service, false, by decide +kernel⟩

theorem witness_SafetySessionsAndRecords_3 : ∃ (req : Req) (len : Fin 64) (s : State) (good : Bool), req.val = 2 ∧
    s.dstate ≠ DState.safeHold ∧
    (match s.scfNewest.pwd with | none => decide (len.val = 0) | some (salt, hash) => pwdHash salt (s.scfPwd len.val) == hash)
    = good ∧ s.dstate = DState.service ∧ s.get SCF.pg SCF.STAT_SESSION = 0 ∧ len.val ≤ 32 ∧ good = false ∧ s.get
    SCF.pg SCF.CFG_MAXTRY = s.get SCF.pg SCF.LOCK_FAILS + 1 ∧ s.get SCF.pg SCF.LOCK_LOCKN < 255 :=
  ⟨2, 8, (inState .service).put SCF.pg SCF.LOCK_FAILS (State.reset.get SCF.pg SCF.CFG_MAXTRY - 1), false,
    by decide +kernel⟩

theorem witness_SafetySessionsAndRecords_4 : ∃ (req : Req) (s : State), req.val = 2 ∧ s.dstate ≠ DState.safeHold ∧
    s.get SCF.pg SCF.STAT_SESSION = 1 :=
  ⟨2, session, by decide +kernel⟩

theorem witness_SafetySessionsAndRecords_5 : ∃ (req : Req) (len : Fin 64) (s : State), req.val = 2 ∧ s.dstate ≠
    DState.safeHold ∧ s.get SCF.pg SCF.STAT_SESSION = 1 ∧ s.noSets = true ∧ s.scf.op = ScfOp.none ∧ 8 ≤ len.val ∧
    len.val ≤ 32 :=
  ⟨2, 32, session, by decide +kernel⟩

theorem witness_SafetySessionsAndRecords_6 : ∃ (req : Req) (s : State), req.val = 2 ∧ s.dstate ≠ DState.safeHold ∧
    s.get SCF.pg SCF.STAT_SESSION = 1 ∧ s.noSets = true ∧ s.scf.op = ScfOp.none ∧ s.scfUnset = false ∧ s.on SCF.pg
    SCF.STAT_CHANGED = true ∧ s.rd (fldAddr SCF.pg SCF.IMGCRC) = s.rd (fldAddr SCF.pg SCF.EXPCRC) :=
  ⟨2, (withPassword session).flag SCF.pg SCF.STAT_CHANGED true |>.setWord SCF.pg SCF.EXPCRC 7 |>.setWord SCF.pg
    SCF.IMGCRC 7, by decide +kernel⟩

theorem witness_SafetySessionsAndRecords_7 : ∃ (req : Req) (s : State), req.val = 2 ∧ s.dstate ≠ DState.safeHold ∧
    s.get SCF.pg SCF.STAT_SESSION = 1 ∧ s.noSets = true ∧ s.scf.op = ScfOp.none ∧ s.scfUnset = false ∧ s.on SCF.pg
    SCF.STAT_CHANGED = true ∧ s.rd (fldAddr SCF.pg SCF.IMGCRC) ≠ s.rd (fldAddr SCF.pg SCF.EXPCRC) :=
  ⟨2, (withPassword session).flag SCF.pg SCF.STAT_CHANGED true |>.setWord SCF.pg SCF.EXPCRC 7 |>.setWord SCF.pg
    SCF.IMGCRC 8, by decide +kernel⟩

theorem witness_SafetySessionsAndRecords_8 : ∃ (req : Req) (s : State), req.val = 2 ∧ s.dstate ≠ DState.safeHold ∧
    s.get SCF.pg SCF.STAT_SESSION = 1 ∧ s.noSets = true ∧ s.scf.op = ScfOp.none ∧ s.scfUnset = false :=
  ⟨2, withPassword session, by decide +kernel⟩

theorem witness_SafetySessionsAndRecords_9 : ∃ (s : State), s.dev.off = false ∧ s.scf.lockStore = true ∧ s.fsWaits
    s.scf.lockAt = false :=
  ⟨{ State.reset with scf := { State.reset.scf with lockStore := true } }, by decide +kernel⟩

theorem witness_SafetySessionsAndRecords_10 : ∃ (s : State) (salt : Nat) (hash : Nat), s.dev.off = false ∧
    s.scf.lockStore = false ∧ s.fsWaits s.scf.opAt = false ∧ s.scf.op = ScfOp.setPwd salt hash :=
  ⟨{ State.reset with scf := { State.reset.scf with op := .setPwd 1 2 } }, 1, 2, by decide +kernel⟩

theorem witness_SafetySessionsAndRecords_11 : ∃ (dt : Nat) (s : State), s.dev.off = false ∧ s.scf.lockStore = false ∧
    s.fsWaits s.scf.opAt = false ∧ s.scf.op = ScfOp.confirm ∧ s.now + dt ≤ s.scf.opAt + 80000000 :=
  ⟨0, { State.reset with scf := { State.reset.scf with op := .confirm } }, by decide +kernel⟩

theorem witness_SafetySessionsAndRecords_12 : ∃ (dt : Nat) (s : State) (x : Nat), s.dev.off = false ∧ s.scf.lockEnd =
    some x ∧ x ≤ s.now + dt :=
  ⟨5, { State.reset with scf := { State.reset.scf with lockEnd := some 5 } }, 5, by decide +kernel⟩

theorem witness_SafetySessionsAndRecords_13 : ∃ (dt : Nat) (s : State), s.dev.off = false ∧ s.get SCF.pg
    SCF.STAT_SESSION = 1 ∧ s.scf.sessAt + s.get SCF.pg SCF.CFG_SESS_TO * 24000000000 ≤ s.now + dt :=
  ⟨State.reset.get SCF.pg SCF.CFG_SESS_TO * 24000000000, session, by decide +kernel⟩

theorem witness_SafetySessionsAndRecords_14 : ∃ (dt : Nat) (s : State) (x : Nat), s.dev.off = false ∧ s.scf.crcDue =
    some x ∧ s.now + dt ≤ x + 400000 :=
  ⟨0, { State.reset with scf := { State.reset.scf with crcDue := some 5 } }, 5, by decide +kernel⟩

theorem witness_ChangeLogProgramsAndCopiesEntries_1 : ∃ (s : State) (e : SlgEntry) (es : List SlgEntry), s.scf.queue =
    e :: es ∧ s.on SLG.pg SLG.STAT_FULL = false ∧ s.fsWaits e.tick = false ∧ s.slgEraseDue = false :=
  ⟨queued, ⟨8, 0, 0, 4, 0, none⟩, [], by decide +kernel⟩

theorem witness_ChangeLogProgramsAndCopiesEntries_2 : ∃ (s : State) (e : SlgEntry) (es : List SlgEntry), s.scf.queue =
    e :: es ∧ s.on SLG.pg SLG.STAT_FULL = false ∧ s.fsWaits e.tick = false ∧ s.slgEraseDue = true :=
  ⟨queued.flag SLG.pg SLG.STAT_SECTOR true, ⟨8, 0, 0, 4, 0, none⟩, [], by decide +kernel⟩

theorem witness_ChangeLogProgramsAndCopiesEntries_3 : ∃ (s : State) (e : SlgEntry) (es : List SlgEntry), s.scf.queue =
    e :: es ∧ s.on SLG.pg SLG.STAT_FULL = false ∧ s.fsWaits e.tick = false :=
  ⟨queued, ⟨8, 0, 0, 4, 0, none⟩, [], by decide +kernel⟩

theorem witness_ChangeLogProgramsAndCopiesEntries_4 : ∃ (req : Req), req.val = 2 :=
  ⟨2, by decide +kernel⟩

theorem witness_ChangeLogProgramsAndCopiesEntries_5 : ∃ (req : Req), req.val ≠ 2 :=
  ⟨0, by decide +kernel⟩

theorem witness_ChangeLogProgramsAndCopiesEntries_6 : ∃ (dt : Nat) (x : Nat) (s : State), s.dev.off = false ∧
    s.scf.copyAt = some x ∧ x + 400 ≤ s.now + dt ∧ s.fsWaits (x + 1) = false :=
  ⟨400, 0, { State.reset with scf := { State.reset.scf with copyAt := some 0 } }, by decide +kernel⟩

theorem witness_ArbiterScrubberAndFlash_1 : ∃ (dt : Nat) (s : State), s.arb.winEnd ≤ (s.advance dt).now :=
  ⟨State.reset.get ARB.pg ARB.CFG_WIN, State.reset, by decide +kernel⟩

theorem witness_ArbiterScrubberAndFlash_2 : ∃ (dt : Nat) (bank : Nat) (req : Req) (s : State), s.dev.off = false ∧
    req.val < 12 ∧ 0 < mapGet (fun x => 0) s.arb.reqs (16 * bank + req.val) / 2 ∧ s.bitOn ARB.pg ARB.STARVE_FLAG
    req.val = false ∧ mapGet (fun x => 0) s.arb.reqs (16 * bank + req.val) / 2 + s.get ARB.pg ARB.CFG_STARVE_THR ≤
    s.now + dt + 1 :=
  ⟨State.reset.get ARB.pg ARB.CFG_STARVE_THR, 0, 11,
    { State.reset with arb := { State.reset.arb with reqs := [(11, 2)] } }, by decide +kernel⟩

theorem witness_ArbiterScrubberAndFlash_3 : ∃ (s : State), s.dstate ≠ DState.safeHold :=
  ⟨State.reset, by decide +kernel⟩

theorem witness_ArbiterScrubberAndFlash_4 : ∃ (dt : Nat) (bank : Fin 25) (s : State), s.dev.off = false ∧ s.on ARB.pg
    ARB.MEM_SCRUB_EN = true ∧ (vget s.arb.scrub bank).snd + s.get ARB.pg ARB.MEM_SCRUB_INTERVAL ≤ s.now + dt ∧
    (s.arb.reqs.all fun e => e.fst / 16 != bank.val) = true :=
  ⟨State.reset.get ARB.pg ARB.MEM_SCRUB_INTERVAL, 24, State.reset.flag ARB.pg ARB.MEM_SCRUB_EN true,
    by decide +kernel⟩

theorem witness_ArbiterScrubberAndFlash_5 : ∃ (dt : Nat) (bank : Fin 25) (s : State), s.dev.off = false ∧ s.on ARB.pg
    ARB.MEM_SCRUB_EN = true ∧ (vget s.arb.scrub bank).snd + s.get ARB.pg ARB.MEM_SCRUB_INTERVAL ≤ s.now + dt ∧
    (s.arb.reqs.all fun e => e.fst / 16 != bank.val) = true ∧ bank.val = 24 ∧ (vget s.arb.scrub bank).fst < 65536 :=
  ⟨State.reset.get ARB.pg ARB.MEM_SCRUB_INTERVAL, 24, State.reset.flag ARB.pg ARB.MEM_SCRUB_EN true,
    by decide +kernel⟩

theorem witness_ArbiterScrubberAndFlash_6 : ∃ (dt : Nat) (req : Req) (s : State), req ∈ [0, 1, 2, 11] ∧ (s.dstate =
    DState.boot ∨ s.dstate = DState.standby ∨ s.dstate = DState.service) ∧ (s.advance dt).unlocked ARB.pg req.val =
    true ∧ s.on ARB.pg ARB.FLS_STAT_BUSY = false ∧ 134217728 ≤ s.get ARB.pg ARB.FLS_ADDR_ADDR ∧ s.get ARB.pg
    ARB.FLS_ADDR_ADDR < 150732800 :=
  ⟨64, 11, (State.reset.setUnlock ARB.pg 11 (.held 0)).put ARB.pg ARB.FLS_ADDR_ADDR 0x08FBFFFC, by decide +kernel⟩

theorem witness_ArbiterScrubberAndFlash_7 : ∃ (dt : Nat) (req : Req) (s : State), req ∈ [0, 1, 2, 11] ∧ (s.dstate =
    DState.boot ∨ s.dstate = DState.standby ∨ s.dstate = DState.service) ∧ (s.advance dt).unlocked ARB.pg req.val =
    true ∧ s.on ARB.pg ARB.FLS_STAT_BUSY = false ∧ 134217728 ≤ s.get ARB.pg ARB.FLS_ADDR_ADDR ∧ s.get ARB.pg
    ARB.FLS_ADDR_ADDR < 150732800 ∧ s.get ARB.pg ARB.FLS_ADDR_ADDR % 16 = 0 ∧ s.erased (s.get ARB.pg
    ARB.FLS_ADDR_ADDR) 16 = true :=
  ⟨64, 11, blankFlash, by decide +kernel⟩

theorem witness_ArbiterScrubberAndFlash_8 : ∃ (dt : Nat) (req : Req) (s : State), req ∈ [0, 1, 2, 11] ∧ (s.dstate =
    DState.boot ∨ s.dstate = DState.standby ∨ s.dstate = DState.service) ∧ (s.advance dt).unlocked ARB.pg req.val =
    true ∧ s.on ARB.pg ARB.FLS_STAT_BUSY = false ∧ 134217728 ≤ s.get ARB.pg ARB.FLS_ADDR_ADDR ∧ s.get ARB.pg
    ARB.FLS_ADDR_ADDR < 150732800 ∧ s.get ARB.pg ARB.FLS_ADDR_ADDR % 16 ≠ 0 :=
  ⟨64, 11, (State.reset.setUnlock ARB.pg 11 (.held 0)).put ARB.pg ARB.FLS_ADDR_ADDR 0x08FBFFFC, by decide +kernel⟩

theorem witness_ArbiterScrubberAndFlash_9 : ∃ (dt : Nat) (a : Nat) (s : State) (w0 : W32) (w1 : W32) (w2 : W32) (w3 :
    W32), s.arb.flash = some (FlashOp.program a [w0, w1, w2, w3]) ∧ (s.advance dt).now ≤ s.arb.flashAt + 8000 :=
  ⟨0, 0x08000000,
    { State.reset with arb := { State.reset.arb with flash := some (.program 0x08000000 [1, 2, 3, 4]) } }, 1, 2, 3, 4,
    by decide +kernel⟩

theorem witness_ArbiterScrubberAndFlash_10 : ∃ (dt : Nat) (a : Nat) (s : State), s.arb.flash = some (FlashOp.erase a)
    ∧ (s.advance dt).now ≤ s.arb.flashAt + 24000000 :=
  ⟨0, 0x08000000, { State.reset with arb := { State.reset.arb with flash := some (.erase 0x08000000) } },
    by decide +kernel⟩

theorem witness_CheckUnitsFeedTheirOwnersBytes_1 : ∃ (req : Req) (i : Fin 4) (s : State), s.lockedBy (CRC.pg i.val)
    req.val = true ∧ s.get (CRC.pg i.val) CRC.CFG_FOLD ≠ 2 :=
  ⟨5, 3, State.reset.lockAcq 7 5, by decide +kernel⟩

theorem witness_CheckUnitsFeedTheirOwnersBytes_2 : ∃ (req : Req) (i : Fin 4) (s : State), s.lockedBy (CRC.pg i.val)
    req.val = true ∧ s.get (CRC.pg i.val) CRC.CFG_FOLD = 2 :=
  ⟨5, 3, (State.reset.lockAcq 7 5).put (CRC.pg 3) CRC.CFG_FOLD 2, by decide +kernel⟩

theorem witness_CheckUnitsFeedTheirOwnersBytes_3 : ∃ (req : Req) (i : Fin 4) (s : State), s.lockedBy (CRC.pg i.val)
    req.val = true ∧ s.get (CRC.pg i.val) CRC.CFG_FOLD ≠ 1 ∧ s.on (CRC.pg i.val) CRC.STAT_ABANDONED = false :=
  ⟨5, 3, State.reset.lockAcq 7 5, by decide +kernel⟩

theorem witness_CheckUnitsFeedTheirOwnersBytes_4 : ∃ (req : Req) (i : Fin 4) (s : State), s.lockedBy (CRC.pg i.val)
    req.val = false :=
  ⟨4, 3, State.reset.lockAcq 7 5, by decide +kernel⟩

theorem witness_DmaChannelsMoveRecordsAndBlocks_1 : ∃ (req : Req) (ch : Fin 16) (s : State), s.dstate ≠
    DState.safeHold ∧ s.dmaOwner ch.val req.val = true ∧ s.on DMA.pg (DMA.CH_CFG_EN.ix ch.val) = true ∧ s.get DMA.pg
    (DMA.CH_CFG_MODE.ix ch.val) = 1 ∧ s.on DMA.pg (DMA.CH_CHST_BUSY.ix ch.val) = false ∧ s.on DMA.pg
    (DMA.CH_CHST_ERR.ix ch.val) = false ∧ (vget s.dma ch).left = 0 :=
  ⟨5, 15, ((State.reset.lockAcq 23 5).flag DMA.pg (DMA.CH_CFG_EN.ix 15) true).put DMA.pg (DMA.CH_CFG_MODE.ix 15) 1,
    by decide +kernel⟩

theorem witness_DmaChannelsMoveRecordsAndBlocks_2 : ∃ (req : Req) (ch : Fin 16) (s : State), s.dstate ≠
    DState.safeHold ∧ s.dmaOwner ch.val req.val = true :=
  ⟨5, 15, State.reset.lockAcq 23 5, by decide +kernel⟩

theorem witness_DmaChannelsMoveRecordsAndBlocks_3 : ∃ (req : Req) (ch : Fin 16) (s : State), s.dstate ≠
    DState.safeHold ∧ s.dmaOwner ch.val req.val = false :=
  ⟨5, 15, State.reset, by decide +kernel⟩

theorem witness_DmaChannelsMoveRecordsAndBlocks_4 : ∃ (s : State), s.dstate ≠ DState.safeHold :=
  ⟨State.reset, by decide +kernel⟩

theorem witness_DmaChannelsMoveRecordsAndBlocks_5 : ∃ (dt : Nat) (req : Req) (ch : Fin 16) (val : W32) (s : State),
    s.dmaOwner ch.val req.val = true ∧ rptrOk (s.dmaSize ch.val) (s.dmaRec ch.val) (s.get DMA.pg (DMA.CH_RPTR_RPTR.ix
    ch.val)) (s.get DMA.pg (DMA.CH_FILL_FILL.ix ch.val)) (val.toNat % 2 ^ 18) = true ∧ (vget s.dma ch).advAt ≠
    (s.advance dt).now + 1 :=
  ⟨0, 5, 15, 64, (State.reset.lockAcq 23 5).put DMA.pg (DMA.CH_FILL_FILL.ix 15) 64, by decide +kernel⟩

theorem witness_DmaChannelsMoveRecordsAndBlocks_6 : ∃ (req : Req) (ch : Fin 16) (val : W32) (s : State), s.dmaOwner
    ch.val req.val = true ∧ rptrOk (s.dmaSize ch.val) (s.dmaRec ch.val) (s.get DMA.pg (DMA.CH_RPTR_RPTR.ix ch.val))
    (s.get DMA.pg (DMA.CH_FILL_FILL.ix ch.val)) (val.toNat % 2 ^ 18) = false :=
  ⟨5, 15, 64, State.reset.lockAcq 23 5, by decide +kernel⟩

theorem witness_DmaChannelsMoveRecordsAndBlocks_7 : ∃ (ch : Fin 16) (r : DmaReq) (s : State), List.find? (fun r =>
    r.ch == ch.val) s.dmaReq = some r ∧ s.dmaActive ch.val = true ∧ s.get DMA.pg (DMA.CH_CFG_MODE.ix ch.val) = 0 ∧
    (vget s.dma ch).cur = none ∧ (s.on DMA.pg (DMA.CH_CFG_OVR_MODE.ix ch.val) = false ∨ s.get DMA.pg
    (DMA.CH_FILL_FILL.ix ch.val) + s.dmaRec ch.val ≤ s.dmaSize ch.val) :=
  ⟨15, ⟨15, [1], CLF.pg⟩, { State.reset with dmaReq := [⟨15, [1], CLF.pg⟩] }.put DMA.pg DMA.STAT_ACTIVE 0x8000,
    by decide +kernel⟩

theorem witness_DmaChannelsMoveRecordsAndBlocks_8 : ∃ (ch : Fin 16) (r : DmaReq) (s : State), List.find? (fun r =>
    r.ch == ch.val) s.dmaReq = some r ∧ (vget s.dma ch).cur ≠ none :=
  ⟨15, ⟨15, [1], CLF.pg⟩, { State.reset with dmaReq := [⟨15, [1], CLF.pg⟩] }.dmaSet 15 fun c =>
    { c with cur := some [1] }, by decide +kernel⟩

theorem witness_DmaChannelsMoveRecordsAndBlocks_9 : ∃ (a : Nat) (ch : Fin 16) (ws : List W32) (s : State), s.get
    DMA.pg (DMA.CH_CFG_MODE.ix ch.val) = 0 ∧ (vget s.dma ch).cur = some ws ∧ s.dmaFirst ch.val = true ∧ a = s.get
    DMA.pg (DMA.CH_BASE_BASE.ix ch.val) + s.get DMA.pg (DMA.CH_WPTR_WPTR.ix ch.val) :=
  ⟨(State.reset.dmaSet 15 fun c => { c with cur := some [1] } : State).get DMA.pg (DMA.CH_BASE_BASE.ix (15 : Fin
    16).val) + (State.reset.dmaSet 15 fun c => { c with cur := some [1] } : State).get DMA.pg (DMA.CH_WPTR_WPTR.ix (15
    : Fin 16).val), 15, [1], State.reset.dmaSet 15 fun c => { c with cur := some [1] }, by decide +kernel,
    by decide +kernel, by decide +kernel, rfl⟩

theorem witness_DmaChannelsMoveRecordsAndBlocks_10 : ∃ (ch : Fin 16) (s : State), s.get DMA.pg (DMA.CH_CFG_MODE.ix
    ch.val) = 1 ∧ s.on DMA.pg (DMA.CH_CHST_BUSY.ix ch.val) = true ∧ (vget s.dma ch).left = 0 :=
  ⟨15, (State.reset.put DMA.pg (DMA.CH_CFG_MODE.ix 15) 1).flag DMA.pg (DMA.CH_CHST_BUSY.ix 15) true,
    by decide +kernel⟩

theorem witness_DmaChannelsMoveRecordsAndBlocks_11 : ∃ (ch : Fin 16) (s : State) (x : Nat) (y : Nat), s.get DMA.pg
    (DMA.CH_CFG_MODE.ix ch.val) = 1 ∧ s.portChannel (dmaPort ch.val) = some ch ∧ (vget s.dma ch).cur = none ∧ (vget
    s.dma ch).left = 1 ∧ (vget s.dma ch).pos = 0 ∧ s.get DMA.pg (DMA.CH_SRC_SRC.ix ch.val) = 536870912 + 4 * x ∧ x <
    1572864 ∧ s.get DMA.pg (DMA.CH_BASE_BASE.ix ch.val) = 536870912 + 4 * y ∧ y < 1572864 :=
  ⟨15, ((((State.reset.put DMA.pg (DMA.CH_CFG_MODE.ix 15) 1).flag DMA.pg (DMA.CH_CHST_BUSY.ix 15) true).put DMA.pg
    (DMA.CH_SRC_SRC.ix 15) 0x205FFFFC).put DMA.pg (DMA.CH_BASE_BASE.ix 15) 0x20000000).dmaSet 15 fun c =>
    { c with left := 1 }, 1572863, 0, by decide +kernel⟩

theorem witness_CanCommandsPushesAndPops_1 : ∃ (i : Fin 4) (s : State), s.dstate ≠ DState.safeHold ∧ s.get (CAN.pg
    i.val) CAN.STAT_STATE = 0 ∧ s.dstate.running = true ∧ s.get TBU.pg TBU.STAT_SRC ≠ 0 :=
  ⟨3, (inState .service).put TBU.pg TBU.STAT_SRC 1, by decide +kernel⟩

theorem witness_CanCommandsPushesAndPops_2 : ∃ (i : Fin 4) (s : State), s.dstate ≠ DState.safeHold ∧ (vget s.canH
    i).sending = none :=
  ⟨3, State.reset.put (CAN.pg 3) CAN.STAT_STATE 1, by decide +kernel⟩

theorem witness_CanCommandsPushesAndPops_3 : ∃ (i : Fin 4) (s : State), s.dstate ≠ DState.safeHold ∧ (vget s.canH
    i).sending ≠ none :=
  ⟨3, liveCan { CanH.idle with sending := some .head }, by decide +kernel⟩

theorem witness_CanCommandsPushesAndPops_4 : ∃ (i : Fin 4) (s : State), s.dstate ≠ DState.safeHold ∧ s.get (CAN.pg
    i.val) CAN.STAT_STATE = 3 :=
  ⟨3, State.reset.put (CAN.pg 3) CAN.STAT_STATE 3, by decide +kernel⟩

theorem witness_CanCommandsPushesAndPops_5 : ∃ (i : Fin 4) (s : State), s.dstate ≠ DState.safeHold ∧ (vget s.canH
    i).sending ≠ some CanSrc.txu :=
  ⟨0, State.reset, by decide +kernel⟩

theorem witness_CanCommandsPushesAndPops_6 : ∃ (i : Fin 4) (s : State), s.dstate ≠ DState.safeHold ∧ (vget s.canH
    i).sending = some CanSrc.txu :=
  ⟨3, withCan { CanH.idle with sending := some .txu }, by decide +kernel⟩

theorem witness_CanCommandsPushesAndPops_7 : ∃ (s : State), s.dstate ≠ DState.safeHold :=
  ⟨State.reset, by decide +kernel⟩

theorem witness_CanCommandsPushesAndPops_8 : ∃ (req : Req) (i : Fin 4) (s : State), canWriter req.val = true ∧ s.on
    (CAN.pg i.val) CAN.MODE_LISTEN = false ∧ ((s.canStaged i req.val).fdf = true ∨ (s.canStaged i req.val).dlc.val ≤
    8) ∧ (vget s.canH i).fifo.length < 16 :=
  ⟨11, 3, withCan { CanH.idle with fifo := List.replicate 15 aFrame }, by decide +kernel⟩

theorem witness_CanCommandsPushesAndPops_9 : ∃ (req : Req) (i : Fin 4) (s : State), canWriter req.val = true ∧ s.on
    (CAN.pg i.val) CAN.MODE_LISTEN = false ∧ ((s.canStaged i req.val).fdf = true ∨ (s.canStaged i req.val).dlc.val ≤
    8) ∧ 16 ≤ (vget s.canH i).fifo.length :=
  ⟨11, 3, withCan { CanH.idle with fifo := List.replicate 16 aFrame }, by decide +kernel⟩

theorem witness_CanCommandsPushesAndPops_10 : ∃ (req : Req) (i : Fin 4) (s : State), canWriter req.val = true ∧ s.on
    (CAN.pg i.val) CAN.MODE_LISTEN = false ∧ ((s.canStaged i req.val).fdf = true ∨ (s.canStaged i req.val).dlc.val ≤
    8) ∧ (vget s.canH i).txu = none :=
  ⟨11, 3, State.reset, by decide +kernel⟩

theorem witness_CanCommandsPushesAndPops_11 : ∃ (req : Req), canWriter req.val = false :=
  ⟨3, by decide +kernel⟩

theorem witness_CanCommandsPushesAndPops_12 : ∃ (i : Fin 4) (s : State) (e : CanFrame × Nat) (es : List (CanFrame ×
    Nat)), (vget s.canH i).rx = e :: es :=
  ⟨3, withCan { CanH.idle with rx := [(aFrame, 5)] }, (aFrame, 5), [], by decide +kernel⟩

theorem witness_CanCommandsPushesAndPops_13 : ∃ (i : Fin 4) (s : State) (e : CanFrame × Nat) (es : List (CanFrame ×
    Nat)), (vget s.canH i).hp = e :: es :=
  ⟨3, withCan { CanH.idle with hp := [(aFrame, 5)] }, (aFrame, 5), [], by decide +kernel⟩

theorem witness_CanCommandsPushesAndPops_14 : ∃ (i : Fin 4) (s : State), (vget s.canH i).rx = [] :=
  ⟨0, State.reset, by decide +kernel⟩

theorem witness_CanCommandsPushesAndPops_15 : ∃ (i : Fin 4) (s : State), s.get (CAN.pg i.val) CAN.STAT_STATE = 0 ∧
    (vget s.canH i).starting = true ∧ s.get (CAN.pg i.val) CAN.ECNT_TEC ≤ 127 ∧ s.get (CAN.pg i.val) CAN.ECNT_REC ≤
    127 :=
  ⟨3, withCan { CanH.idle with starting := true }, by decide +kernel⟩

theorem witness_CanCommandsPushesAndPops_16 : ∃ (i : Fin 4) (s : State), s.get (CAN.pg i.val) CAN.STAT_STATE = 4 :=
  ⟨3, State.reset.put (CAN.pg 3) CAN.STAT_STATE 4, by decide +kernel⟩

theorem witness_CanFramesAndErrors_1 : ∃ (i : Fin 4) (s : State), s.canLive i = true :=
  ⟨3, liveCan CanH.idle, by decide +kernel⟩

theorem witness_CanFramesAndErrors_2 : ∃ (i : Fin 4) (s : State) (f : CanFrame) (fs : List CanFrame), s.canLive i =
    true ∧ (vget s.canH i).sending = some CanSrc.head ∧ (vget s.canH i).fifo = f :: fs ∧ (f.fdf = false ∨ s.on (CAN.pg
    i.val) CAN.MODE_FD = true) :=
  ⟨3, liveCan { CanH.idle with sending := some .head, fifo := [aFrame] }, aFrame, [], by decide +kernel⟩

theorem witness_CanFramesAndErrors_3 : ∃ (i : Fin 4) (s : State) (f : CanFrame), s.canLive i = true ∧ (vget s.canH
    i).sending = some CanSrc.txu ∧ (vget s.canH i).txu = some f ∧ (f.fdf = false ∨ s.on (CAN.pg i.val) CAN.MODE_FD =
    true) :=
  ⟨3, liveCan { CanH.idle with sending := some .txu, txu := some aFrame }, aFrame, by decide +kernel⟩

theorem witness_CanFramesAndErrors_4 : ∃ (i : Fin 4) (s : State) (f : CanFrame), s.canLive i = true ∧ (f.fdf = false ∨
    s.on (CAN.pg i.val) CAN.MODE_FD = true) ∧ f.rtr = false ∧ canTarget (vget s.canH i).filt (s.get (CAN.pg i.val)
    CAN.MODE_DEFAULT) f = 1 ∧ (vget s.canH i).rx.length < 32 :=
  ⟨3, liveCan { CanH.idle with filt := [0xA0000001#32, 0x1FFFFFFF#32], rx := List.replicate 31 (aFrame, 5) }, aFrame,
    by decide +kernel⟩

theorem witness_CanFramesAndErrors_5 : ∃ (i : Fin 4) (s : State) (f : CanFrame), s.canLive i = true ∧ (f.fdf = false ∨
    s.on (CAN.pg i.val) CAN.MODE_FD = true) ∧ f.rtr = false ∧ canTarget (vget s.canH i).filt (s.get (CAN.pg i.val)
    CAN.MODE_DEFAULT) f = 2 ∧ (vget s.canH i).hp.length < 4 :=
  ⟨3, liveCan { CanH.idle with filt := [0xC0000001#32, 0x1FFFFFFF#32], hp := List.replicate 3 (aFrame, 5) }, aFrame,
    by decide +kernel⟩

theorem witness_CanFramesAndErrors_6 : ∃ (i : Fin 4) (s : State) (f : CanFrame), s.canLive i = true ∧ (f.fdf = false ∨
    s.on (CAN.pg i.val) CAN.MODE_FD = true) ∧ f.rtr = false ∧ canTarget (vget s.canH i).filt (s.get (CAN.pg i.val)
    CAN.MODE_DEFAULT) f = 0 :=
  ⟨3, liveCan { CanH.idle with filt := [0x80000001#32, 0x1FFFFFFF#32] }, aFrame, by decide +kernel⟩

theorem witness_CanFramesAndErrors_7 : ∃ (i : Fin 4) (s : State), s.canLive i = true ∧ s.on (CAN.pg i.val)
    CAN.MODE_LISTEN = false ∧ (vget s.canH i).stopping = false :=
  ⟨3, liveCan CanH.idle, by decide +kernel⟩

theorem witness_CanFramesAndErrors_8 : ∃ (dt : Nat) (i : Fin 4) (s : State), s.canLive i = true ∧ s.dev.off = false ∧
    (vget s.canH i).fifo ≠ [] ∧ (vget s.canH i).headRaised = false ∧ (vget s.canH i).headAt + s.get (CAN.pg i.val)
    CAN.TXCFG_HEAD_AGE ≤ s.now + dt :=
  ⟨State.reset.get (CAN.pg 3) CAN.TXCFG_HEAD_AGE, 3, liveCan { CanH.idle with fifo := [aFrame] }, by decide +kernel⟩

theorem witness_ClepoPortsAndDiscovery_1 : ∃ (p : Fin 2) (s : State), s.dev.off = false ∧ s.clfState ≠ 0 ∧ s.link p =
    0 ∧ s.bitOn CLF.pg CLF.CFG_PORT_EN p.val = true :=
  ⟨1, State.reset.put CLF.pg CLF.STAT_STATE 1, by decide +kernel⟩

theorem witness_ClepoPortsAndDiscovery_2 : ∃ (dt : Nat) (p : Fin 2) (s : State), s.dev.off = false ∧ s.link p = 1 ∧
    s.now + dt ≤ (vget s.clf.ports p).trainAt + 40000 :=
  ⟨40000, 1, clfAt 1 1, by decide +kernel⟩

theorem witness_ClepoPortsAndDiscovery_3 : ∃ (dt : Nat) (p : Fin 2) (s : State), s.dev.off = false ∧ s.link p = 1 ∧
    (vget s.clf.ports p).trainAt + 40000 ≤ s.now + dt :=
  ⟨40000, 1, clfAt 1 1, by decide +kernel⟩

theorem witness_ClepoPortsAndDiscovery_4 : ∃ (p : Fin 2) (s : State), s.dev.off = false ∧ s.link p = 2 :=
  ⟨1, clfAt 4 2, by decide +kernel⟩

theorem witness_ClepoPortsAndDiscovery_5 : ∃ (p : Fin 2) (s : State), s.dev.off = false ∧ s.portUp p = true :=
  ⟨1, clfAt 4 3, by decide +kernel⟩

theorem witness_ClepoPortsAndDiscovery_6 : ∃ (s : State), s.dstate ≠ DState.safeHold ∧ 2 ≤ s.clfState :=
  ⟨clfAt 2 2, by decide +kernel⟩

theorem witness_ClepoPortsAndDiscovery_7 : ∃ (dt : Nat) (p : Fin 2) (s : State), s.dstate ≠ DState.safeHold ∧ s.link p
    = 3 ∧ (vget s.clf.ports p).busyTo ≤ (s.advance dt).now :=
  ⟨0, 1, clfAt 2 3, by decide +kernel⟩

theorem witness_ClepoPortsAndDiscovery_8 : ∃ (p : Fin 2) (s : State), s.dstate ≠ DState.safeHold ∧ s.link p ≠ 3 :=
  ⟨1, clfAt 2 2, by decide +kernel⟩

theorem witness_ClepoPortsAndDiscovery_9 : ∃ (s : State), s.dstate ≠ DState.safeHold :=
  ⟨State.reset, by decide +kernel⟩

theorem witness_ClepoPortsAndDiscovery_10 : ∃ (dt : Nat) (p : Fin 2) (s : State), s.dev.off = false ∧ 2 ≤ s.clfState ∧
    s.portUp p = true ∧ s.clf.helloAt + 40000 ≤ s.now + dt ∧ (s.advance dt).openWindow = true :=
  ⟨40000, 1, clfAt 2 2, by decide +kernel⟩

theorem witness_ClepoPortsAndDiscovery_11 : ∃ (p : Fin 2) (s : State), s.dev.off = false ∧ 2 ≤ s.clfState ∧ s.portUp p
    = true :=
  ⟨1, clfAt 2 2, by decide +kernel⟩

theorem witness_ClepoPortsAndDiscovery_12 : ∃ (p : Fin 2) (s : State) (h : ClfHello) (b : Nat × Nat), s.dev.off =
    false ∧ 2 ≤ s.clfState ∧ s.portUp p = true ∧ betterRoot (betterRoot s.clf.best h.rootPri h.devId) h.bestPri
    h.bestId = some b ∧ b.snd ≠ s.deviceId :=
  ⟨1, ({ State.reset with regs := [(0x40000000, 0#32), (0x40000004, 1#32)] }.put CLF.pg CLF.STAT_STATE 2).put CLF.pg
    CLF.LINK_E 2, ⟨0, 0, 0, 0, none, 1, 0, 0⟩, (0, 0), by decide +kernel⟩

theorem witness_ClepoPortsAndDiscovery_13 : ∃ (p : Fin 2) (s : State) (id : Nat) (n : Nat), s.dev.off = false ∧ 2 ≤
    s.clfState ∧ s.portUp p = true ∧ s.on CLF.pg CLF.CFG_IDMODE = false ∧ s.clf.idHeld = false ∧ id < 64 ∧ 0 < n ∧ n ≤
    64 :=
  ⟨1, clfAt 2 2, 63, 64, by decide +kernel⟩

theorem witness_ClepoPortsAndDiscovery_14 : ∃ (dt : Nat) (p : Fin 2) (s : State), s.dev.off = false ∧ 2 ≤ s.clfState ∧
    s.portUp p = true ∧ (∀ (r : Nat), (vget s.clf.ports p).pdAt = some r → r + s.get CLF.pg CLF.TIME_PD_PER * s.get
    CLF.pg CLF.SF ≤ s.now + dt) ∧ (s.advance dt).openWindow = true :=
  ⟨0, 1, clfAt 2 2, by decide +kernel⟩

theorem witness_ClepoPortsAndDiscovery_15 : ∃ (p : Fin 2) (s : State), s.dev.off = false ∧ 2 ≤ s.clfState ∧ s.portUp p
    = true :=
  ⟨1, clfAt 2 2, by decide +kernel⟩

theorem witness_ClepoPortsAndDiscovery_16 : ∃ (p : Fin 2) (s : State) (t1 : Nat), s.dev.off = false ∧ 2 ≤ s.clfState ∧
    s.portUp p = true ∧ (vget s.clf.ports p).pdreq = some t1 :=
  ⟨1, (clfAt 2 2).portSet 1 fun h => { h with pdreq := some 0 }, 0, by decide +kernel⟩

theorem witness_ClepoFramesAndSlots_1 : ∃ (dt : Nat) (p : Fin 2) (f : ClfFrame) (s : State) (u : State) (good : Bool)
    (marked : Bool), 2 ≤ s.clfState ∧ s.portUp p = true ∧ (u = if f.type = 1 ∨ f.type = 3 then (s.advance dt).forward
    p f !(good && !marked) else s.advance dt) ∧ (¬((f.type = 1 ∨ f.type = 3) ∧ headerOk f = true ∧ f.slot ≠ 255)) ∧
    marked = true :=
  ⟨0, 1, dataFrame, clfAt 2 2, if dataFrame.type = 1 ∨ dataFrame.type = 3 then ((clfAt 2 2 : State).advance (0 :
    Nat)).forward (1 : Fin 2) dataFrame !(true && !true) else (clfAt 2 2 : State).advance (0 : Nat), true, true,
    by decide +kernel, by decide +kernel, rfl, by decide +kernel⟩

theorem witness_ClepoFramesAndSlots_2 : ∃ (dt : Nat) (p : Fin 2) (f : ClfFrame) (s : State) (u : State) (good : Bool)
    (marked : Bool), 2 ≤ s.clfState ∧ s.portUp p = true ∧ (u = if f.type = 1 ∨ f.type = 3 then (s.advance dt).forward
    p f !(good && !marked) else s.advance dt) ∧ (¬((f.type = 1 ∨ f.type = 3) ∧ headerOk f = true ∧ f.slot ≠ 255)) ∧
    marked = false ∧ (good = false ∨ headerOk f = false) :=
  ⟨0, 1, dataFrame, clfAt 2 2, if dataFrame.type = 1 ∨ dataFrame.type = 3 then ((clfAt 2 2 : State).advance (0 :
    Nat)).forward (1 : Fin 2) dataFrame !(false && !false) else (clfAt 2 2 : State).advance (0 : Nat), false, false,
    by decide +kernel, by decide +kernel, rfl, by decide +kernel⟩

theorem witness_ClepoFramesAndSlots_3 : ∃ (dt : Nat) (p : Fin 2) (f : ClfFrame) (s : State) (u : State) (good : Bool)
    (marked : Bool), 2 ≤ s.clfState ∧ s.portUp p = true ∧ (u = if f.type = 1 ∨ f.type = 3 then (s.advance dt).forward
    p f !(good && !marked) else s.advance dt) ∧ (¬((f.type = 1 ∨ f.type = 3) ∧ headerOk f = true ∧ f.slot ≠ 255)) ∧
    marked = false ∧ good = true ∧ headerOk f = true ∧ (f.type = 0 ∨ 7 < f.type) :=
  ⟨0, 1, { dataFrame with type := 8 }, clfAt 2 2, if ({ dataFrame with type := 8 } : ClfFrame).type = 1 ∨
    ({ dataFrame with type := 8 } : ClfFrame).type = 3 then ((clfAt 2 2 : State).advance (0 : Nat)).forward (1 : Fin
    2) ({ dataFrame with type := 8 } : ClfFrame) !(true && !false) else (clfAt 2 2 : State).advance (0 : Nat), true,
    false, by decide +kernel, by decide +kernel, rfl, by decide +kernel⟩

theorem witness_ClepoFramesAndSlots_4 : ∃ (dt : Nat) (p : Fin 2) (f : ClfFrame) (s : State) (u : State) (good : Bool)
    (marked : Bool), 2 ≤ s.clfState ∧ s.portUp p = true ∧ (u = if f.type = 1 ∨ f.type = 3 then (s.advance dt).forward
    p f !(good && !marked) else s.advance dt) ∧ (¬((f.type = 1 ∨ f.type = 3) ∧ headerOk f = true ∧ f.slot ≠ 255)) ∧
    marked = false ∧ good = true ∧ headerOk f = true ∧ (f.type = 1 ∨ f.type = 3) ∧ s.clfState = 4 ∧ (f.dest = 255 ∨
    f.dest = s.get CLF.pg CLF.TOPO_ID) :=
  ⟨0, 1, dataFrame, clfAt 4 2, if dataFrame.type = 1 ∨ dataFrame.type = 3 then ((clfAt 4 2 : State).advance (0 :
    Nat)).forward (1 : Fin 2) dataFrame !(true && !false) else (clfAt 4 2 : State).advance (0 : Nat), true, false,
    by decide +kernel, by decide +kernel, rfl, by decide +kernel⟩

theorem witness_ClepoFramesAndSlots_5 : ∃ (dt : Nat) (p : Fin 2) (f : ClfFrame) (s : State) (u : State) (good : Bool)
    (marked : Bool), 2 ≤ s.clfState ∧ s.portUp p = true ∧ (u = if f.type = 1 ∨ f.type = 3 then (s.advance dt).forward
    p f !(good && !marked) else s.advance dt) ∧ (f.type = 1 ∨ f.type = 3) ∧ headerOk f = true ∧ f.slot ≠ 255 ∧ f.slot
    ≠ 0 ∧ ¬f.slot ∈ s.clf.quar ∧ good = true ∧ marked = false ∧ f.src = (s.slot s.clfBank f.slot).owner ∧ ¬f.slot ∈
    s.clf.got ∧ ¬f.slot ∈ s.clf.clash ∧ s.clfState = 4 ∧ (f.dest = 255 ∨ f.dest = s.get CLF.pg CLF.TOPO_ID) :=
  ⟨0, 1, { dataFrame with slot := 254 }, (clfAt 4 2).wr 0x40081FE0 0x80010000#32, if ({ dataFrame with slot := 254 } :
    ClfFrame).type = 1 ∨ ({ dataFrame with slot := 254 } : ClfFrame).type = 3 then (((clfAt 4 2).wr 0x40081FE0
    0x80010000#32 : State).advance (0 : Nat)).forward (1 : Fin 2) ({ dataFrame with slot := 254 } : ClfFrame) !(true
    && !false) else ((clfAt 4 2).wr 0x40081FE0 0x80010000#32 : State).advance (0 : Nat), true, false,
    by decide +kernel, by decide +kernel, rfl, by decide +kernel⟩

theorem witness_ClepoFramesAndSlots_6 : ∃ (dt : Nat) (p : Fin 2) (f : ClfFrame) (s : State) (u : State) (good : Bool)
    (marked : Bool), 2 ≤ s.clfState ∧ s.portUp p = true ∧ (u = if f.type = 1 ∨ f.type = 3 then (s.advance dt).forward
    p f !(good && !marked) else s.advance dt) ∧ (f.type = 1 ∨ f.type = 3) ∧ headerOk f = true ∧ f.slot ≠ 255 ∧ f.slot
    ≠ 0 ∧ ¬f.slot ∈ s.clf.quar ∧ good = true ∧ marked = false ∧ f.src ≠ (s.slot s.clfBank f.slot).owner :=
  ⟨0, 1, { dataFrame with slot := 254 }, clfAt 4 2, if ({ dataFrame with slot := 254 } : ClfFrame).type = 1 ∨
    ({ dataFrame with slot := 254 } : ClfFrame).type = 3 then ((clfAt 4 2 : State).advance (0 : Nat)).forward (1 : Fin
    2) ({ dataFrame with slot := 254 } : ClfFrame) !(true && !false) else (clfAt 4 2 : State).advance (0 : Nat), true,
    false, by decide +kernel, by decide +kernel, rfl, by decide +kernel⟩

theorem witness_ClepoFramesAndSlots_7 : ∃ (dt : Nat) (s : State), (s.advance dt).now % 400000000 = 0 :=
  ⟨400000000, State.reset, by decide +kernel⟩

theorem witness_ClepoFramesAndSlots_8 : ∃ (p : Fin 2) (f : ClfTime) (s : State), 3 ≤ s.clfState ∧ s.portUp p = true ∧
    f.good = false :=
  ⟨1, ⟨0, 1, 0, 0, 0, 0, false⟩, clfAt 3 2, by decide +kernel⟩

theorem witness_ClepoFramesAndSlots_9 : ∃ (p : Fin 2) (f : ClfTime) (s : State), 3 ≤ s.clfState ∧ s.portUp p = true ∧
    f.good = true ∧ s.clf.isRoot = false ∧ ¬0 ∈ s.clf.quar ∧ ¬0 ∈ s.clf.got ∧ ¬0 ∈ s.clf.clash ∧ f.src = s.get CLF.pg
    CLF.TOPO_ROOT :=
  ⟨1, ⟨0, 1, 0, 0, 0, 0, true⟩, clfAt 3 2, by decide +kernel⟩

theorem witness_ClepoFramesAndSlots_10 : ∃ (dt : Nat) (i : Fin 255) (s : State) (u : State) (x : Slot), u = s.advance
    dt ∧ x = s.slot s.clfBank i.val ∧ s.clfState = 4 ∧ ¬i.val ∈ s.clf.quar ∧ x.en = true ∧ x.owner = s.get CLF.pg
    CLF.TOPO_ID ∧ x.srck = 0 ∧ (x.start + s.get CLF.pg CLF.SF - u.sfPhase) % s.get CLF.pg CLF.SF ≤ 64 :=
  ⟨12000 - 64, 254, ownSlot 0, (ownSlot 0 : State).advance (12000 - 64 : Nat), (ownSlot 0 : State).slot (ownSlot 0 :
    State).clfBank (254 : Fin 255).val, rfl, rfl, by decide +kernel⟩

theorem witness_ClepoFramesAndSlots_11 : ∃ (dt : Nat) (i : Fin 255) (s : State) (u : State) (x : Slot) (ws : List
    W32), u = s.advance dt ∧ x = s.slot s.clfBank i.val ∧ s.clfState = 4 ∧ ¬i.val ∈ s.clf.quar ∧ x.en = true ∧ x.owner
    = s.get CLF.pg CLF.TOPO_ID ∧ (¬(i.val = 0 ∧ s.clf.isRoot = true)) ∧ u.sfPhase = x.start ∧ ¬i.val ∈ s.clf.got ∧
    x.srck = 0 ∧ s.clf.txbuf = some (i.val, ws) :=
  ⟨12000, 254, (ownSlot 0).clfSet fun c => { c with txbuf := some (254, [7]) }, ((ownSlot 0).clfSet fun c =>
    { c with txbuf := some (254, [7]) } : State).advance (12000 : Nat), ((ownSlot 0).clfSet fun c =>
    { c with txbuf := some (254, [7]) } : State).slot ((ownSlot 0).clfSet fun c => { c with txbuf := some (254, [7]) }
    : State).clfBank (254 : Fin 255).val, [7], rfl, rfl, by decide +kernel⟩

theorem witness_ClepoFramesAndSlots_12 : ∃ (dt : Nat) (i : Fin 255) (s : State) (u : State) (x : Slot), u = s.advance
    dt ∧ x = s.slot s.clfBank i.val ∧ s.clfState = 4 ∧ ¬i.val ∈ s.clf.quar ∧ x.en = true ∧ x.owner = s.get CLF.pg
    CLF.TOPO_ID ∧ (¬(i.val = 0 ∧ s.clf.isRoot = true)) ∧ u.sfPhase = x.start ∧ ¬i.val ∈ s.clf.got ∧ x.srck = 1 :=
  ⟨12000, 254, ownSlot 1, (ownSlot 1 : State).advance (12000 : Nat), (ownSlot 1 : State).slot (ownSlot 1 :
    State).clfBank (254 : Fin 255).val, rfl, rfl, by decide +kernel⟩

theorem witness_ClepoFramesAndSlots_13 : ∃ (dt : Nat) (i : Fin 255) (s : State) (u : State) (x : Slot), u = s.advance
    dt ∧ x = s.slot s.clfBank i.val ∧ s.clfState = 4 ∧ ¬i.val ∈ s.clf.quar ∧ x.en = true ∧ x.owner = s.get CLF.pg
    CLF.TOPO_ID ∧ (¬(i.val = 0 ∧ s.clf.isRoot = true)) ∧ u.sfPhase = x.start ∧ ¬i.val ∈ s.clf.got ∧ x.srck = 0 ∧
    s.clf.txbuf = none :=
  ⟨12000, 254, ownSlot 0, (ownSlot 0 : State).advance (12000 : Nat), (ownSlot 0 : State).slot (ownSlot 0 :
    State).clfBank (254 : Fin 255).val, rfl, rfl, by decide +kernel⟩

theorem witness_ClepoFramesAndSlots_14 : ∃ (dt : Nat) (s : State), s.clfState = 4 ∧ s.clf.isRoot = true ∧ (s.advance
    dt).sfPhase = 0 ∧ ¬0 ∈ s.clf.quar ∧ ¬0 ∈ s.clf.got :=
  ⟨0, (clfAt 4 2).clfSet fun c => { c with isRoot := true }, by decide +kernel⟩

theorem witness_ClepoTablesAndSuperframes_1 : ∃ (dt : Nat) (s : State) (u : State), u = s.advance dt ∧ u.superframeDue
    = true :=
  ⟨40000, State.reset.clfSet fun c => { c with held := true }, (State.reset.clfSet fun c => { c with held := true } :
    State).advance (40000 : Nat), rfl, by decide +kernel⟩

theorem witness_ClepoTablesAndSuperframes_2 : ∃ (val : W32) (s : State), s.sfNum < val.toNat ∧ s.bankValid (1 -
    s.clfBank) = true ∧ s.clfState = 4 :=
  ⟨1, loadedBank, by decide +kernel⟩

theorem witness_ClepoTablesAndSuperframes_3 : ∃ (val : W32) (s : State), val.toNat ≤ s.sfNum :=
  ⟨0, State.reset, by decide +kernel⟩

theorem witness_ClepoTablesAndSuperframes_4 : ∃ (dt : Nat) (s : State) (k : Nat), k = (s.advance dt).bankNow ∧ (s.on
    CLF.pg CLF.SLOTCTL_ARMED = false ∨ k ≠ s.clfBank) :=
  ⟨0, State.reset, (State.reset.advance (0 : Nat)).bankNow, rfl, by decide +kernel⟩

theorem witness_ClepoTablesAndSuperframes_5 : ∃ (dt : Nat) (s : State) (k : Nat), k = (s.advance dt).bankNow :=
  ⟨0, State.reset, (State.reset.advance (0 : Nat)).bankNow, rfl⟩

theorem witness_ClepoTablesAndSuperframes_6 : ∃ (req : Req) (val : W32), req ∈ [0, 1, 2, 11] ∧ bits (val.toNat) 30 28
    ≠ 3 ∧ bits (val.toNat) 21 20 ≠ 3 :=
  ⟨11, 0x80000000, by decide +kernel⟩

theorem witness_ClepoTablesAndSuperframes_7 : ∃ (req : Req) (val : W32), req ∈ [0, 1, 2, 11] ∧ bits (val.toNat) 30 28
    = 3 :=
  ⟨11, 0xB0000000, by decide +kernel⟩

theorem witness_ClepoTablesAndSuperframes_8 : ∃ (val : W32) (s : State) (k : Fin 16), rptrOk (2 ^ s.get CLF.pg
    (CLF.R_CFG_SIZE.ix k.val)) (2 ^ s.get CLF.pg (CLF.R_CFG_RECSZ.ix k.val)) (s.get CLF.pg (CLF.R_RPTR_RPTR.ix k.val))
    (s.get CLF.pg (CLF.RFILL_FILL.ix k.val)) (val.toNat % 2 ^ 18) = true :=
  ⟨64, State.reset.put CLF.pg (CLF.RFILL_FILL.ix 15) 64, 15, by decide +kernel⟩

theorem witness_ClepoTablesAndSuperframes_9 : ∃ (val : W32) (s : State) (k : Fin 16), rptrOk (2 ^ s.get CLF.pg
    (CLF.R_CFG_SIZE.ix k.val)) (2 ^ s.get CLF.pg (CLF.R_CFG_RECSZ.ix k.val)) (s.get CLF.pg (CLF.R_RPTR_RPTR.ix k.val))
    (s.get CLF.pg (CLF.RFILL_FILL.ix k.val)) (val.toNat % 2 ^ 18) = false :=
  ⟨64, State.reset, 15, by decide +kernel⟩

/-! ### Witnesses that need a proof of their own -/

theorem reset_is_canonical : State.Canonical State.reset := by
  unfold State.Canonical
  decide +kernel

theorem later_reset_is_canonical : State.Canonical { State.reset with now := 1 } := by
  unfold State.Canonical
  decide +kernel

theorem witness_EveryStepKeepsCanonicalForm : ∃ s t : State, s.Canonical ∧ step s = .next t :=
  ⟨State.reset, _, reset_is_canonical, rfl⟩

theorem witness_EveryCommandKeepsToItsFootprint : ∃ (c : Instr) (s t : State), exec c s = .next t :=
  ⟨.jtagBypass 0, State.reset, _, rfl⟩

theorem witness_OnlyTheseCommandsWriteMemory : ∃ (c : Instr) (s t : State), (match c with
    | .supplyUv .. | .nresetAssert .. | .rstCmdDevice .. | .rstCmdAp0 .. | .rstCmdAp1 .. | .debugSystemReset ..
    | .registerWrite .. | .pairWriteLo .. | .pairWriteHi .. | .compareEntry .. | .busAccess .. | .dmaBlockBurst ..
    | .dmaRecordDone .. | .flashOpDone .. | .ctxCommit .. | .clfFrameRx ..
    | .logProgramDone .. => False
    | _ => True) ∧ exec c s = .next t :=
  ⟨.jtagBypass 0, State.reset, _, trivial, rfl⟩

/-! ### Ill-formed commands are refused, one for each check -/

theorem wf_refuses_requester : Instr.wf (.drive 0 12) = false := by decide
theorem wf_takes_requester : Instr.wf (.drive 0 11) = true := by decide
theorem wf_refuses_page : Instr.wf (.softRst 0 0 ⟨.sys, 1⟩) = false := by decide
theorem wf_takes_page : Instr.wf (.softRst 0 0 SYS.pg) = true := by decide
theorem wf_refuses_word : Instr.wf (.registerWrite 0 0 0x40000042 15 0) = false := by decide
theorem wf_refuses_long_address : Instr.wf (.pairReadLo 0 0 0x100000000) = false := by decide
theorem wf_refuses_lock : Instr.wf (.ownerRel 0 0 24) = false := by decide
theorem wf_takes_lock : Instr.wf (.ownerRel 0 0 23) = true := by decide
theorem wf_refuses_bank : Instr.wf (.starvation 0 0 32) = false := by decide
theorem wf_refuses_bus : Instr.wf (.busAccess 0 [⟨0, 0x100000000, 2, none⟩] .none) = false := by decide
theorem wf_refuses_can : Instr.wf (.canRxFrame 0 0 ⟨false, 0x800, false, false, false, false, 1, [7]⟩) = false := by decide
theorem wf_refuses_clf : Instr.wf (.clfFrameRx 0 0 ⟨0xFF, 1, 0, 1, 0, 0, 0xFF, List.replicate 65 0⟩ true false) = false := by
  decide

/-! ### Values the spec prints -/

/-- The digits 1 to 9 as ASCII, the message of the table of R405. -/
def digits : List Nat := (List.range 9).map (· + 0x31)

/-- R405, POLY 0. -/
theorem test_crc8 : crcFeed 8 0x1D false 0xFF digits ^^^ 0xFF = 0x4B := by decide +kernel
/-- R405, POLY 1. -/
theorem test_crc16 : crcFeed 16 0x1021 false 0xFFFF digits = 0x29B1 := by decide +kernel
/-- R405, POLY 2. -/
theorem test_crc32 : reverseBits 32 (crcFeed 32 0x04C11DB7 true 0xFFFFFFFF digits) ^^^ 0xFFFFFFFF = 0xCBF43926 := by
  decide +kernel
/-- R405, POLY 3. -/
theorem test_crc32c : reverseBits 32 (crcFeed 32 0x1EDC6F41 true 0xFFFFFFFF digits) ^^^ 0xFFFFFFFF = 0xE3069283 := by
  decide +kernel

/-- FIPS 180-4, the message abc. -/
theorem test_sha256 : sha256 [0x61, 0x62, 0x63] = 0xba7816bf8f01cfea414140de5dae2223b00361a396177a9cb410ff61f20015ad := by
  decide +kernel

/-- Chapter 05, worked example: 612 A on converter 0 of group 0. -/
theorem test_result_word_positive : resultWord true false false false true 0x00 (adcCorrected 0 0 1 1056000000) = 0x84003439#32 := by
  decide +kernel
/-- Chapter 05, worked example: -305 A on converter 1 of group 1. -/
theorem test_result_word_negative : resultWord true false false false true 0x24 (adcCorrected 0 0 1 597500000) = 0x8424E5F9#32 := by
  decide +kernel

/-- R96 and its example: DISC_MAX. -/
theorem test_disc_max : discShift 2 2000 600 1200 1500 = -600 := by decide
/-- R96 and its example: DISC_60. -/
theorem test_disc_60 : discShift 4 2000 600 1200 1500 = 500 := by decide
/-- R100 and its example: DROP. -/
theorem test_minimum_pulse_drop : minPulse false 240 2000 150 = 0 := by decide
/-- R100 and its example: EXTEND. -/
theorem test_minimum_pulse_extend : minPulse true 240 2000 150 = 240 := by decide

/-- Chapter 07, worked example: the PI descriptor. -/
theorem test_pi_descriptor : (let g := decodeStage 0x3A1B3610; (g.code, g.src, g.src2, g.dst, g.n, g.opt, g.cptr)) =
    (0x07, 8, 13, 19, 4, 0, 0x10) := by decide +kernel

/-- Chapter 17, worked example, step 6. -/
theorem test_read_pointer : rptrOk 8192 32 1408 8192 4096 = true := by decide

/-- IEEE 754: 1/3 and the square root of 2 in binary32. -/
theorem test_float : fdiv (fint 1) (fint 3) = 0x3EAAAAAB#32 ∧ fsqrt (fint 2) = 0x3FB504F3#32 := by decide +kernel

/-! ### One step -/

/-- Read a field after a command. -/
def after (c : Instr) (s : State) (p : Page) (x : Fld) : Option Nat :=
  match step { s with pending := [c] } with
  | .next t => some (t.get p x)
  | _ => none

/-- Chapter 01, worked example, step 3: DRIVE in SELFTEST ends with ILLEGAL_STATE. -/
theorem test_drive_in_selftest : after (.drive 0 0) (inState .selftest) SYS.pg SYS.DSTAT_LAST_STS = some 3 := by
  decide +kernel
/-- Chapter 01, worked example, step 4: the last start test passes. -/
theorem test_start_test_passes : after (.startTestComplete 0 true)
    ((inState .selftest).devSet fun d => { d with test := 10 }) SYS.pg SYS.DSTAT_DSTATE = some DState.standby.code := by decide +kernel
/-- The device identification of the JTAG port. -/
theorem test_idcode : (match exec (.jtagIdcode 0) (inState .standby) with
    | .next t => t.reply
    | _ => .none) = .data 0x1048076B#32 := by decide +kernel
/-- The supply that is valid last starts BOOT. -/
theorem test_power_valid : after (.powerValid 0 0) State.reset SYS.pg SYS.DSTAT_DSTATE = some DState.boot.code := by
  decide +kernel

/-- R21: a device command by a requester that may not send it changes no device state. -/
theorem test_drive_by_debug : after (.drive 0 11) (inState .standby) SYS.pg SYS.DSTAT_DSTATE = some DState.standby.code := by
  decide +kernel
end Sys2Proof.Tests
end

section
/-! SUPPORT. The state after reset: what registers and memory read as where nothing is written, and the obligation on it. -/

namespace Sys2Proof.Machine
open Sys2Proof

/-! ### Reads where nothing is written -/

/-- A field's word reads after reset as its register table says, where no special reset value stands (R41). -/
theorem resetWord_fldAddr {p : Page} {x : Fld} {v : Nat} (hp : inPage p x = true) (hs : specialReset p x.off = none)
    (hr : (regAt p x.off).map RegDef.reset = some v) : resetWord (fldAddr p x) = BitVec.ofNat 32 v := by
  obtain ⟨r, hreg, rfl⟩ := Option.map_eq_some_iff.mp hr
  have hoff : fldAddr p x - pageBase p = x.off := Nat.add_sub_cancel_left ..
  simp only [resetWord, pageAt_page hp, hoff, hs, hreg]

/-- The two RAMs read 0 where no step has written (R388). -/
theorem memDefault_ram {a : Nat} (h : regionOf a = some .sram ∨ regionOf a = some .halo) : memDefault a = 0 := by
  rcases h with h | h <;> simp only [memDefault, h]

/-! ### The state after reset -/

@[simp] theorem State.rd_reset (a : Nat) : State.reset.rd a = resetWord a := rfl

@[simp] theorem State.rdByte_reset (a : Nat) : State.reset.rdByte a = memDefault a := rfl

/-- No register and no byte is listed, so both maps are canonical (log 9). -/
theorem State.canonical_reset : State.reset.Canonical := ⟨rfl, rfl⟩

/-- `SYS_DSTAT` resets with the code of BOOT in its field `DSTATE` (R16). -/
theorem State.get_dstate_reset : State.reset.get SYS.pg SYS.DSTAT_DSTATE = DState.boot.code := by
  have hword : resetWord (fldAddr SYS.pg SYS.DSTAT_DSTATE) = 0x19#32 :=
    resetWord_fldAddr (by decide) rfl (by decide)
  rw [State.get, State.rd_reset, hword]
  decide

theorem DState.ofCode_code (d : DState) : DState.ofCode d.code = d := by cases d <;> rfl

/-- The device waits in BOOT: it is powered, and `DSTATE` holds the code of BOOT (R16). -/
theorem State.dstate_reset : State.reset.dstate = .boot := by
  have hon : State.reset.dev.off = false := rfl
  simp only [State.dstate, hon, State.get_dstate_reset, DState.ofCode_code, Bool.false_eq_true, if_false]

/-- Both RAMs read 0 after reset, the zero fill of R388. -/
theorem State.rdByte_reset_ram {a : Nat} (h : regionOf a = some .sram ∨ regionOf a = some .halo) :
    State.reset.rdByte a = 0 := by
  rw [State.rdByte_reset, memDefault_ram h]

/-- Settles O3: both maps are empty, `SYS_DSTAT` resets to BOOT (R16), the Horizon count is 0 (R8), and the RAMs read
their zero fill (R388). -/
theorem resetIsCanonicalAndWaitsInBoot : Obligations.ResetIsCanonicalAndWaitsInBoot :=
  ⟨State.canonical_reset, State.dstate_reset, rfl, rfl, fun _ h => State.rdByte_reset_ram h⟩

end Sys2Proof.Machine
end

section
/-! SUPPORT. What the entry to a device state leaves: the words `SYS_BOOT` and `HLO_STAT`, the power and boot part, and,
where no fault can abort a pending transition, the word `SYS_DSTAT` itself (R20, R27). -/

namespace Sys2Proof.Machine
open Sys2Proof

/-! ### Words beside an event, a log entry and the end of a change set -/

/-- An event leaves every word but that of the page's flags, outside DMA (R44, R61). -/
theorem State.rd_evt_word (s : State) {p : Page} {x : Fld} {a : Nat} {b : Block} (hb : blockAt a = some b) (hd : b ≠ .dma)
    (h : a ≠ fldAddr p HDR.EVT) : (s.evt p x).rd a = s.rd a :=
  ((Kept.withLine_from s p _).within (.block b) (by simp [hd]) a hb).trans (s.rd_setWord_other _ h)

theorem State.rd_put_word (s : State) {p : Page} {x : Fld} {a : Nat} (v : Nat) (h : a ≠ fldAddr p x) :
    (s.put p x v).rd a = s.rd a := s.rd_setWord_other _ h

theorem State.rd_put64_word (s : State) {p : Page} {x : Fld} {a : Nat} (v : Nat) (h : a ≠ fldAddr p x)
    (h' : a ≠ fldAddr p { x with off := x.off + 4 }) : (s.put64 p x v).rd a = s.rd a :=
  (State.rd_setWord_other _ _ h').trans (s.rd_setWord_other _ h)

theorem State.rd_incSat_word (s : State) {p : Page} {x : Fld} {a : Nat} (h : a ≠ fldAddr p x) :
    (s.incSat p x).rd a = s.rd a := by
  unfold State.incSat
  dsimp only
  split
  · exact s.rd_put_word _ h
  · rfl

/-- The end of a change set writes the status words and error counts of its pages alone (R51). -/
theorem State.rd_csetEnd_word (s : State) (r : Fin 16) (code : Nat) {p : Page} {x : Fld} (h1 : x.off % 0x400 ≠ 0x024)
    (h2 : x.off % 0x400 ≠ 0x02C) : (s.csetEnd r code).rd (fldAddr p x) = s.rd (fldAddr p x) :=
  s.rd_csetEnd r code _ fun _ => ⟨fldAddr_ne_of_mod h1, fldAddr_ne_of_mod h2⟩

/-- A field of the same word has the same value. -/
theorem State.get_eq_of_rd {s t : State} {p : Page} {x : Fld} {a : Nat} (h : t.rd a = s.rd a) (ha : fldAddr p x = a) :
    t.get p x = s.get p x := by rw [State.get, State.get, ha, h]

/-- A relation that every step keeps holds from the start of a fold to its end. -/
theorem State.foldl_related {R : State → State → Prop} (hrefl : ∀ s, R s s) (htrans : ∀ {s t u}, R s t → R t u → R s u)
    {α : Type} {f : State → α → State} (h : ∀ s a, R s (f s a)) (l : List α) (s : State) : R s (l.foldl f s) := by
  induction l generalizing s with
  | nil => exact hrefl s
  | cons a l ih => exact htrans (h s a) (ih _)

/-- The word of the fault manager's latches. -/
abbrev haloStat : Nat := fldAddr HLO.pg HLO.STAT

/-- A log entry leaves the latches of the fault manager (R351). -/
theorem State.rd_logEntry_stat (s : State) (code react machs aux stamp : Nat) :
    (s.logEntry code react machs aux stamp).rd haloStat = s.rd haloStat := by
  have hix (x : Fld) (i : Nat) (hx : 0x00C < x.off) : haloStat ≠ fldAddr HLO.pg (x.ix i) := by
    simp only [haloStat, fldAddr, Fld.ix, HLO.STAT]; omega
  have hix' (x : Fld) (i : Nat) (hx : 0x00C < x.off) :
      haloStat ≠ fldAddr HLO.pg { x.ix i with off := (x.ix i).off + 4 } := by
    simp only [haloStat, fldAddr, Fld.ix, HLO.STAT]; omega
  unfold State.logEntry
  dsimp only
  rw [State.rd_evt_word _ (b := .hlo) (blockAt_page (by decide)) (by decide) (by decide), State.incWrap,
    State.rd_put_word _ _ (by decide), State.rd_put_word _ _ (by decide),
    State.rd_put64_word _ _ (hix _ _ (by decide)) (hix' _ _ (by decide)), State.rd_put_word _ _ (hix _ _ (by decide)),
    State.rd_put_word _ _ (hix _ _ (by decide))]

/-- A fault that comes while no transition is pending aborts none (R27). -/
theorem State.abortTransition_eq_self {s : State} (h : s.get SYS.pg SYS.DSTAT_LAST_STS ≠ 2) : s.abortTransition = s := by
  simp [State.abortTransition, h]

theorem State.rd_abortTransition (s : State) {a : Nat} (h : a ≠ fldAddr SYS.pg SYS.DSTAT) :
    s.abortTransition.rd a = s.rd a := by
  have hx (x : Fld) (ho : x.off = 0x044) : a ≠ fldAddr SYS.pg x := by rwa [fldAddr, ho]
  unfold State.abortTransition State.flag
  split
  · rw [State.rd_put_word _ _ (hx _ rfl), State.rd_put_word _ _ (hx _ rfl), State.rd_put_word _ _ (hx _ rfl)]
  · rfl

/-! ### Calm changes -/

/-- What an entry to a device state changes beside the pages SYS and HLO. -/
def Part.calm : List Part :=
  [.act, .bch, .canH, .clf, .cpw, .dcd, .dma, .dmaReq, .evrAt, .halo, .lks, .msv, .obc, .pos, .scf, .sets, .tpw,
    .block .act, .block .bch, .block .can, .block .clf, .block .dcd, .block .dma, .block .ghb, .block .msv, .block .obc,
    .block .pos, .block .scf, .block .ssf, .block .sto, .block .tpw]

/-- From `s` to `t` the power and boot part, `SYS_BOOT` and `HLO_STAT` are the same, and so is `SYS_DSTAT` unless a
transition that a fault may abort is pending (`LAST_STS` 2, R22, R27). -/
structure Calm (s t : State) : Prop where
  dev : t.dev = s.dev
  boot : t.rd (fldAddr SYS.pg SYS.BOOT) = s.rd (fldAddr SYS.pg SYS.BOOT)
  stat : t.rd haloStat = s.rd haloStat
  dstat : s.get SYS.pg SYS.DSTAT_LAST_STS ≠ 2 → t.rd (fldAddr SYS.pg SYS.DSTAT) = s.rd (fldAddr SYS.pg SYS.DSTAT)

namespace Calm

variable {s t u : State}

theorem refl (s : State) : Calm s s := ⟨rfl, rfl, rfl, fun _ => rfl⟩

theorem trans (h : Calm s t) (h' : Calm t u) : Calm s u where
  dev := h'.dev.trans h.dev
  boot := h'.boot.trans h.boot
  stat := h'.stat.trans h.stat
  dstat hs := by
    have hd := h.dstat hs
    have ht : t.get SYS.pg SYS.DSTAT_LAST_STS ≠ 2 := by rwa [State.get_eq_of_rd (x := SYS.DSTAT_LAST_STS) hd rfl]
    exact (h'.dstat ht).trans hd

/-- A change within the listed parts is calm. -/
theorem kept {G : List Part} (h : Calm s t) (k : Kept G t u) (hG : G ⊆ Part.calm := by simp [Part.calm]) : Calm s u := by
  have hk := (k.mono hG).within
  have hw {p : Page} {x : Fld} (hp : inPage p x = true) (hb : .block p.blk ∉ Part.calm) :
      u.rd (fldAddr p x) = t.rd (fldAddr p x) := hk (.block p.blk) hb _ (blockAt_page hp)
  exact h.trans ⟨hk .dev (by decide), hw (by decide) (by decide), hw (by decide) (by decide),
    fun _ => hw (by decide) (by decide)⟩

theorem ite {c : Prop} [Decidable c] (h : Calm s t) (h' : Calm s u) : Calm s (if c then t else u) := by
  split <;> assumption

theorem foldl {α : Type} {f : State → α → State} (h : ∀ s a, Calm s (f s a)) (l : List α) (s : State) :
    Calm s (l.foldl f s) := State.foldl_related refl trans h l s

/-- A noted fault is calm: it may abort a transition, and writes the log (R27, R351). -/
theorem note (s : State) (code react machs aux : Nat) : Calm s (s.note code react machs aux) := by
  have hl (t : State) (e : Nat) : Kept [.dma, .dmaReq, .evrAt, .block .dma, .block .hlo] t (t.logEntry code react machs aux e) :=
    .logEntry ..
  have hsys (t : State) (e a : Nat) (ha : blockAt a = some .sys) : (t.logEntry code react machs aux e).rd a = t.rd a :=
    (hl t e).within (.block .sys) (by decide) a ha
  refine ⟨(Kept.note s code react machs aux).within .dev (by decide), ?_, ?_, fun h => ?_⟩
  · exact (hsys _ _ _ (blockAt_page (p := SYS.pg) (by decide))).trans (s.rd_abortTransition (by decide))
  · exact (State.rd_logEntry_stat ..).trans (s.rd_abortTransition (by decide))
  · rw [State.note, State.abortTransition_eq_self h]
    exact hsys _ _ _ (blockAt_page (p := SYS.pg) (by decide))

theorem csetEnd (s : State) (r : Fin 16) (code : Nat) : Calm s (s.csetEnd r code) where
  dev := (Kept.csetEnd s r code).within .dev (by decide)
  boot := s.rd_csetEnd_word r code (by decide) (by decide)
  stat := s.rd_csetEnd_word r code (by decide) (by decide)
  dstat _ := s.rd_csetEnd_word r code (by decide) (by decide)

/-! ### The parts of an entry -/

theorem posFollow (s : State) (m : Nat) : Calm s (s.posFollow m) := by
  unfold State.posFollow
  dsimp only
  split
  · split
    · exact .ite (.kept (.refl s) (.put ..)) (.refl s)
    · refine .ite (.refl s) (.trans ?_ (.note ..))
      exact (((refl s).kept (Kept.pos_upd ..)).kept (.put ..)).kept (.incSat ..) |>.kept (.evt ..)
    · exact .refl s
  · exact .refl s

theorem tpwPattern (s : State) (n : Fin 6) (pat src : Nat) : Calm s (s.tpwPattern n pat src) :=
  (((((refl s).kept (.tpwSet ..)).kept (.put ..)).kept (.put ..)).kept (.flag ..) |>.kept (.evtIf ..)).trans (.posFollow ..)

theorem tpwRefresh (s : State) (n : Fin 6) : Calm s (s.tpwRefresh n) := by
  unfold State.tpwRefresh
  dsimp only
  refine (((refl s).kept (.flag ..)).kept (.flag ..) : Calm s ((s.flag (TPW.pg n) TPW.STAT_STO_EFF
    (s.stoEff (n.1 / 2))).flag (TPW.pg n) TPW.STAT_GHB_OK (s.ghbOk n))).trans ?_
  split
  · refine .ite ?_ (.refl _)
    split <;> exact .tpwPattern ..
  · exact .ite (.kept (.refl _) (.put ..)) ((Calm.kept (.refl _) (.tpwSet ..)).trans (.tpwPattern ..))

theorem tpwRefreshAll (s : State) : Calm s s.tpwRefreshAll := .foldl .tpwRefresh _ s

theorem stoAssert (s : State) (m : Nat) : Calm s (s.stoAssert m) := by
  have hlow : Calm s (if h : m < 4 then s.pathsLow ⟨m, h⟩ else s) := by
    split
    · exact .kept (.refl s) (.pathsLow ..)
    · exact .refl s
  have hshow (t : State) : Calm t ((t.putBit STO.pg STO.STAT_EFF m true).incSat STO.pg STO.CNT_ASSERTS |>.evt STO.pg
      STO.EVT_ASSERT) := ((refl t).kept (.putBit ..)).kept (.incSat ..) |>.kept (.evt ..)
  have hss1 (t : State) : Calm t (if t.bitOn SSF.pg SSF.STAT_SS1 m = true then t.ss1End m 2 else t) :=
    .ite (.kept (.refl t) (.ss1End ..)) (.refl t)
  have hrest (t : State) : Calm t (((t.msvToSto m).stoRecord m).sbcOnSto m |>.tpwRefreshAll) :=
    (((refl t).kept (.msvToSto ..)).kept (.stoRecord ..) |>.kept (.sbcOnSto ..)).trans (.tpwRefreshAll _)
  unfold State.stoAssert
  dsimp only
  exact hlow.trans (.ite (.kept (.refl _) (.stoRecord ..)) (((hshow _).trans (hss1 _)).trans (hrest _)))

theorem stoEval (s : State) : Calm s s.stoEval :=
  .foldl (fun s m => .ite (.stoAssert s m) (.kept (.refl s) (.stoRecord ..))) _ s

theorem enterPaths (s : State) (old d : DState) : Calm s (s.enterPaths old d) := by
  unfold State.enterPaths
  dsimp only
  refine .trans (.trans (.ite (.ite (.kept (.refl s) (.convRecord ..)) (.kept (.refl s) (.pathARelease ..))) (.refl s))
    (.stoEval _)) (.ite (.foldl (fun t m => .ite (.kept (.refl t) (.pathARelease ..)) (.refl t)) _ _) (.refl _))

theorem obcStopping (s : State) (cause : Nat) : Calm s (s.obcStopping cause) := by
  unfold State.obcStopping
  refine .ite ?_ (.refl s)
  exact (((refl s).kept (.obcTick ..)).kept (Kept.obc_upd ..)).kept (.put ..) |>.kept (.obcGo ..)

theorem enterCharger (s : State) (old d : DState) : Calm s (s.enterCharger old d) := by
  unfold State.enterCharger
  dsimp only
  have h : Calm s (if old = .charge then if d.running = true then s.obcStopping 0xA else (s.obcStopping 0xA).obcLow
      else s) := .ite (.ite (.obcStopping ..) (.kept (.obcStopping ..) (.obcLow ..))) (.refl s)
  exact .ite (.kept h (.obcLow ..)) h

theorem scfClose (s : State) (cause : Nat) : Calm s (s.scfClose cause) := by
  have h : Calm s (((s.put SCF.pg SCF.STAT_SESSION 0).evt SCF.pg SCF.EVT_SESSION).slgPush 8 0 cause 0 none) :=
    ((refl s).kept (.put ..)).kept (.evt ..) |>.kept (.slgPush ..)
  unfold State.scfClose
  exact .ite (.ite (h.trans (.csetEnd ..)) h) (.refl s)

theorem enterHalo (s : State) (old d : DState) : Calm s (s.enterHalo old d) := by
  have hclose : Calm s (if old = .service then s.scfClose 3 else s) := .ite (.scfClose ..) (.refl s)
  unfold State.enterHalo
  dsimp only
  refine hclose.trans (.ite ?_ (.ite ?_ (.refl _)))
  · exact ((refl _).kept (.ghbStart ..)).kept (.halo_upd ..)
  · exact (((refl _).kept (.ghbStop ..)).kept (.watchdogOff ..)).kept (.holdPairs ..)

end Calm

/-! ### The entry -/

/-- The writes of `SYS_DSTAT` with which the device takes state `d` (R20). -/
def State.enterWords (s : State) (d : DState) : State :=
  (((s.put SYS.pg SYS.DSTAT_DSTATE d.code).put SYS.pg SYS.DSTAT_TARGET d.code).flag SYS.pg SYS.DSTAT_TRANS
    (d == .boot || d == .selftest)).put SYS.pg SYS.DSTAT_PREV s.dstate.code

/-- After those writes and its event, an entry is calm. -/
theorem State.enter_calm (s : State) (d : DState) : Calm ((s.enterWords d).evt SYS.pg SYS.EVT_DSTATE) (s.enter d) := by
  have hrest (t : State) : Calm t (if d.running = true then t else t.restFunctions) :=
    .ite (.refl t) (.kept (.refl t) (.restFunctions ..))
  exact ((((Calm.enterHalo _ _ _).trans (hrest _)).trans (.enterCharger ..)).trans (.enterPaths ..)).trans (.tpwRefreshAll _)

end Sys2Proof.Machine
end

section
/-! SUPPORT. BOOT and SELFTEST (R16, R24, R467 to R472): the slots, the start tests, and the entry to SAFE_HOLD that ends
either. -/

namespace Sys2Proof.Machine
open Sys2Proof

/-! ### What an entry leaves -/

@[simp] theorem State.devSet_dev (s : State) (f : Dev → Dev) : (s.devSet f).dev = f s.dev := rfl
@[simp] theorem State.devSet_now (s : State) (f : Dev → Dev) : (s.devSet f).now = s.now := rfl
@[simp] theorem State.get_devSet (s : State) (f : Dev → Dev) (p : Page) (x : Fld) : (s.devSet f).get p x = s.get p x := rfl

@[simp] theorem State.dstate_advance (s : State) (dt : Nat) : (s.advance dt).dstate = s.dstate := by simp [State.dstate]

/-- Outside OFF time passes (R8). -/
theorem State.now_advance_of_on {s : State} (h : s.dev.off = false) (dt : Nat) : (s.advance dt).now = s.now + dt := by
  simp [State.advance, h]

/-- A device state other than OFF is that of a powered device. -/
theorem State.on_of_dstate {s : State} {d : DState} (h : s.dstate = d) (hd : d ≠ .off) : s.dev.off = false := by
  by_contra ho
  exact hd (h.symm.trans (if_pos (by simpa using ho)))

/-- An entry leaves the power and boot part. -/
theorem State.enter_dev (s : State) (d : DState) : (s.enter d).dev = s.dev := by
  rw [(s.enter_calm d).dev, (Kept.evt _ SYS.pg SYS.EVT_DSTATE).within .dev (by decide)]
  simp [State.enterWords]

/-- An entry leaves `SYS_BOOT`. -/
theorem State.rd_enter_boot (s : State) (d : DState) :
    (s.enter d).rd (fldAddr SYS.pg SYS.BOOT) = s.rd (fldAddr SYS.pg SYS.BOOT) := by
  rw [(s.enter_calm d).boot, State.rd_evt_word _ (blockAt_page (by decide)) (by decide) (by decide), State.enterWords,
    State.flag, State.rd_put_word _ _ (by decide), State.rd_put_word _ _ (by decide), State.rd_put_word _ _ (by decide),
    State.rd_put_word _ _ (by decide)]

/-- An entry leaves the latches of the fault manager. -/
theorem State.rd_enter_stat (s : State) (d : DState) : (s.enter d).rd haloStat = s.rd haloStat := by
  rw [(s.enter_calm d).stat, State.rd_evt_word _ (b := .hlo) (blockAt_page (by decide)) (by decide) (by decide),
    State.enterWords, State.flag, State.rd_put_word _ _ (by decide), State.rd_put_word _ _ (by decide),
    State.rd_put_word _ _ (by decide), State.rd_put_word _ _ (by decide)]

/-- While no transition is pending that a fault may abort, a field of `SYS_DSTAT` after an entry is the one written (R20). -/
theorem State.get_enter_dstat {s : State} (h : s.get SYS.pg SYS.DSTAT_LAST_STS ≠ 2) (d : DState) {x : Fld}
    (hx : fldAddr SYS.pg x = fldAddr SYS.pg SYS.DSTAT) (hp : inPage SYS.pg x = true) :
    (s.enter d).get SYS.pg x = (s.enterWords d).get SYS.pg x := by
  have hsts : ((s.enterWords d).evt SYS.pg SYS.EVT_DSTATE).get SYS.pg SYS.DSTAT_LAST_STS =
      s.get SYS.pg SYS.DSTAT_LAST_STS := by
    rw [State.get_evt_word _ (by decide) (by decide) (by decide)]
    simp (disch := decide) only [State.enterWords, State.flag, State.get_put_bits]
  rw [State.get_eq_of_rd ((s.enter_calm d).dstat (hsts ▸ h)) hx,
    State.get_evt_word _ hp (by decide) (hx ▸ by decide)]

/-- The device safe state leaves the power and boot part. -/
theorem State.toSafeHold_dev (s : State) : s.toSafeHold.dev = s.dev := by
  unfold State.toSafeHold
  dsimp only
  split
  · exact s.flag_dev ..
  · exact (State.enter_dev ..).trans (s.flag_dev ..)

/-- The device safe state leaves the fields of `SYS_BOOT`. -/
theorem State.get_toSafeHold_boot (s : State) {x : Fld} (hx : fldAddr SYS.pg x = fldAddr SYS.pg SYS.BOOT) :
    s.toSafeHold.get SYS.pg x = s.get SYS.pg x := by
  refine State.get_eq_of_rd ?_ hx
  have hf : (s.flag HLO.pg HLO.STAT_SAFE true).rd (fldAddr SYS.pg SYS.BOOT) = s.rd (fldAddr SYS.pg SYS.BOOT) :=
    s.rd_put_word _ (by decide)
  unfold State.toSafeHold
  dsimp only
  split
  · exact hf
  · exact (State.rd_enter_boot ..).trans hf

/-- Halo is in the device safe state (R18). -/
theorem State.toSafeHold_safe (s : State) : s.toSafeHold.on HLO.pg HLO.STAT_SAFE = true := by
  have hf : (s.flag HLO.pg HLO.STAT_SAFE true).get HLO.pg HLO.STAT_SAFE = 1 := by
    rw [State.flag, s.get_put_same _ (by decide) (by decide) (by decide)]; rfl
  unfold State.toSafeHold State.on
  dsimp only
  split
  · rw [hf]; rfl
  · rw [State.get_eq_of_rd (x := HLO.STAT_SAFE) (State.rd_enter_stat ..) rfl, hf]; rfl

/-! ### The slots (R467 to R470) -/

@[simp] theorem State.rdByte_advance (s : State) (dt a : Nat) : (s.advance dt).rdByte a = s.rdByte a := by
  simp [State.rdByte]

@[simp] theorem State.rdBytes_advance (s : State) (dt a n : Nat) : (s.advance dt).rdBytes a n = s.rdBytes a n := by
  induction n generalizing a with
  | zero => rfl
  | succ n ih => simp [State.rdBytes, ih]

@[simp] theorem State.imageField_advance (s : State) (dt slot off n : Nat) :
    (s.advance dt).imageField slot off n = s.imageField slot off n := s.rdBytes_advance ..

@[simp] theorem State.byteList_advance (s : State) (dt a n : Nat) : (s.advance dt).byteList a n = s.byteList a n := by
  simp [State.byteList]

/-- Time passes over the image in flash: the checks of a slot have the same result. -/
theorem State.slotResult_advance (s : State) (dt slot : Nat) (err : Bool) :
    (s.advance dt).slotResult slot err = s.slotResult slot err := by
  simp [State.slotResult, State.slotHeaderOk, State.slotKey, State.imageNumber]

theorem State.bootNext_advance (s : State) (dt : Nat) : (s.advance dt).bootNext = s.bootNext := by simp [State.bootNext]

theorem State.rdBytes_lt (s : State) (a n : Nat) : s.rdBytes a n < 256 ^ n := by
  induction n generalizing a with
  | zero => exact Nat.one_pos
  | succ n ih =>
    have hb := (s.rdByte a).isLt
    have hr := ih (a + 1)
    rw [State.rdBytes, pow_succ]
    omega

/-- The codes of R469. -/
theorem State.slotResult_range (s : State) (slot : Nat) (err : Bool) :
    1 ≤ s.slotResult slot err ∧ s.slotResult slot err ≤ 7 := by
  unfold State.slotResult
  dsimp only
  split_ifs <;> decide

/-- The result fields of the slots lie between the mode and the result of `SYS_BOOT` (R471). -/
theorem bootRes_spec (k : Nat) : fldAddr SYS.pg (bootRes k) = fldAddr SYS.pg SYS.BOOT ∧ inPage SYS.pg (bootRes k) = true ∧
    (bootRes k).hi = (bootRes k).lo + 3 ∧ 20 ≤ (bootRes k).lo ∧ (bootRes k).hi ≤ 27 := by
  unfold bootRes
  split <;> decide

/-- A slot's result as it reads afterwards. -/
theorem State.get_put_bootRes (s : State) (k : Nat) {r : Nat} (hr : r < 16) :
    (s.put SYS.pg (bootRes k) r).get SYS.pg (bootRes k) = r := by
  obtain ⟨-, hp, hw, hlo, hhi⟩ := bootRes_spec k
  rw [s.get_put_same _ hp (by omega) (by omega), show (bootRes k).hi + 1 - (bootRes k).lo = 4 by omega]
  exact Nat.mod_eq_of_lt hr

/-- With its only slot rejected a boot mode has no next one (R467). -/
theorem State.bootNext_eq_none {s : State} {slot : Fin 2} (hm : s.get SYS.pg SYS.BOOT_MODE = 2 + slot.1)
    (hr : s.get SYS.pg (bootRes slot) ≠ 0) : s.bootNext = none := by
  unfold State.bootNext
  rw [hm]
  match slot with
  | 0 => simpa [bootOrder] using hr
  | 1 => simpa [bootOrder] using hr

section Slot

variable {dt : Nat} {slot : Fin 2} {err : Bool} {s : State} (hd : s.dstate = .boot)
  (h0 : s.get SYS.pg SYS.BOOT_RESULT = 0) (hn : s.bootNext = some slot.1)

include hd h0 hn

/-- An accepted slot is run (R467, R471). -/
theorem bootSlotCheck_accepted (hr : s.slotResult slot err = 1) :
    ∃ t, exec (.bootSlotCheck dt slot err) s = .next t ∧ t.get SYS.pg (bootRes slot) = 1 ∧
      t.get SYS.pg SYS.BOOT_RESULT = slot.1 + 1 ∧ t.get SYS.pg SYS.IMGVER = s.imageField slot 0x08 4 := by
  obtain ⟨ha, -, -, hlo, hhi⟩ := bootRes_spec slot
  have hver : s.imageField slot 0x08 4 < 2 ^ 32 := s.rdBytes_lt _ 4
  change ∃ t, execBootSlotCheck dt slot err s = .next t ∧ _
  unfold execBootSlotCheck
  dsimp only
  rw [if_pos ⟨by simpa using hd, by simpa using h0, (s.bootNext_advance dt).trans hn⟩, State.slotResult_advance, if_pos hr, hr]
  refine ⟨_, rfl, ?_, ?_, ?_⟩
  · rw [State.get_devSet, State.get_put_word _ _ (ha ▸ by decide), State.get_put_bits _ _ (by decide) (by decide)
      (.inl (lt_of_le_of_lt hhi (by decide))), State.get_put_bootRes _ _ (by decide)]
  · rw [State.get_devSet, State.get_put_word _ _ (by decide), State.get_put_same _ _ (by decide) (by decide) (by decide)]
    exact Nat.mod_eq_of_lt (show slot.1 + 1 < 16 by omega)
  · rw [State.get_devSet, State.get_put_same _ _ (by decide) (by decide) (by decide), State.imageField_advance]
    exact Nat.mod_eq_of_lt hver

/-- A rejected slot is recorded, and with no slot left BOOT ends in SAFE_HOLD (R467, R471). -/
theorem bootSlotCheck_rejected (hr : s.slotResult slot err ≠ 1) :
    ∃ t, exec (.bootSlotCheck dt slot err) s = .next t ∧ t.get SYS.pg (bootRes slot) = s.slotResult slot err ∧
      t.dev.rejected = true ∧ (s.get SYS.pg SYS.BOOT_MODE = 2 + slot.1 →
        t.get SYS.pg SYS.BOOT_RESULT = 3 ∧ t.get SYS.pg SYS.DSTAT_DSTATE = DState.safeHold.code) := by
  obtain ⟨ha, -, hw, hlo, hhi⟩ := bootRes_spec slot
  obtain ⟨hr1, hr7⟩ := s.slotResult_range slot err
  change ∃ t, execBootSlotCheck dt slot err s = .next t ∧ _
  unfold execBootSlotCheck
  dsimp only
  rw [if_pos ⟨by simpa using hd, by simpa using h0, (s.bootNext_advance dt).trans hn⟩, State.slotResult_advance, if_neg hr]
  set u := ((s.advance dt).put SYS.pg (bootRes slot) (s.slotResult slot err)).devSet fun d => { d with rejected := true }
    with hu
  have hres : u.get SYS.pg (bootRes slot) = s.slotResult slot err := by
    rw [hu, State.get_devSet, State.get_put_bootRes _ _ (by omega)]
  have hmode : u.get SYS.pg SYS.BOOT_MODE = s.get SYS.pg SYS.BOOT_MODE := by
    rw [hu, State.get_devSet, State.get_put_bits _ _ (by omega) (by omega) (.inl (lt_of_lt_of_le (by decide) hlo)),
      State.get_advance]
  refine ⟨_, rfl, ?_⟩
  split
  · refine ⟨?_, ?_, fun _ => ⟨?_, State.toSafeHold_dstate _⟩⟩
    · rw [State.get_toSafeHold_boot _ ha, State.get_put_bits _ _ (by decide) (by decide)
        (.inl (lt_of_le_of_lt hhi (by decide))), hres]
    · rw [State.toSafeHold_dev, State.put_dev]; rfl
    · rw [State.get_toSafeHold_boot (x := SYS.BOOT_RESULT) _ rfl, State.get_put_same _ _ (by decide) (by decide) (by decide)]; rfl
  · rename_i hleft
    exact ⟨hres, rfl, fun hm => absurd (State.bootNext_eq_none (hmode.trans hm) (by omega)) hleft⟩

end Slot

/-! ### The hand-over and the bounds of BOOT (R24, R472) -/

theorem SameDevice.note (s : State) (code react machs aux : Nat) : SameDevice s (s.note code react machs aux) :=
  s.note_dstate ..

theorem SameDevice.devSet (s : State) (f : Dev → Dev) : SameDevice s (s.devSet f) := rfl

/-- The hand-over enters SELFTEST; the faults that waited for it leave the device state. -/
theorem bootHandover_enters {dt : Nat} {s : State} (hd : s.dstate = .boot)
    (hr : s.get SYS.pg SYS.BOOT_RESULT = 1 ∨ s.get SYS.pg SYS.BOOT_RESULT = 2) (hb : s.now + dt ≤ 4800000) :
    ∃ t, exec (.bootHandover dt) s = .next t ∧ t.get SYS.pg SYS.DSTAT_DSTATE = DState.selftest.code := by
  have hnow := State.now_advance_of_on (State.on_of_dstate hd (by decide)) dt
  have hself (u : State) : (u.toSelftest 0).get SYS.pg SYS.DSTAT_DSTATE = DState.selftest.code := u.enter_dstate _
  have hrej (u : State) : SameDevice u (if u.dev.rejected then u.note 0x002 1 0 0 else u) := .ite (.note ..) (.refl u)
  have hlong (u : State) : SameDevice u (if u.dev.heldLong then
      (u.note 0x003 1 0 0).devSet fun d => { d with heldLong := false } else u) :=
    .ite (.trans (.note ..) (.devSet ..)) (.refl u)
  have hbrk (u : State) : SameDevice u (if u.get SLG.pg SLG.CNT_BROKEN = 0 then u
      else (u.evt SLG.pg SLG.EVT_BROKEN).note 0xB10 1 0 0) := .ite (.refl u) (.trans (.kept (.refl u) (.evt ..)) (.note ..))
  change ∃ t, execBootHandover dt s = .next t ∧ _
  unfold execBootHandover
  dsimp only
  rw [if_pos ⟨by simpa using hd, by simpa using hr, by omega⟩]
  exact ⟨_, rfl, Eq.trans (((hrej _).trans (hlong _)).trans (hbrk _)) (hself _)⟩

/-- A BOOT that lasts longer than its bound ends in SAFE_HOLD (R24). -/
theorem bootTimeout_enters {dt : Nat} {s : State} (hd : s.dstate = .boot) (hb : 4800000 < s.now + dt) :
    ∃ t, exec (.bootTimeout dt) s = .next t ∧ t.get SYS.pg SYS.DSTAT_DSTATE = DState.safeHold.code := by
  have hnow := State.now_advance_of_on (State.on_of_dstate hd (by decide)) dt
  refine ⟨(s.advance dt).toSafeHold, ?_, State.toSafeHold_dstate _⟩
  change execBootTimeout dt s = _
  unfold execBootTimeout
  dsimp only
  rw [if_pos ⟨by simpa using hd, by omega⟩]

/-! ### The start tests (R24, R25, R472) -/

theorem State.imageOk_advance (s : State) (dt : Nat) : (s.advance dt).imageOk = s.imageOk := by
  have hw : (s.advance dt).safeWord = s.safeWord := by funext a m; simp [State.safeWord]
  simp [State.imageOk, State.scfNewest, State.on, hw]

section Tests

variable {dt : Nat} {s : State} (hd : s.dstate = .selftest)

include hd

/-- A start test that passes in its time, and does not wait, leads on: to the next one, or from the tenth to STANDBY. -/
theorem startTestComplete_eq (h1 : 1 ≤ s.dev.test) (h9 : s.dev.test = 9 → s.imageOk = true)
    (h7 : s.dev.test = 7 → ∀ b, b < 3 → s.bitOn ADR.pg ADR.ACTRL_EN b = true → s.bitOn ADR.pg ADR.RSTAT_RDY b = true)
    (ht : s.now + dt ≤ s.dev.testAt + testBound s.dev.test) (hb : s.now + dt ≤ s.dev.boundAt + 16000000) :
    exec (.startTestComplete dt true) s = .next (if s.dev.test < 10 then
        (s.advance dt).devSet fun d => { d with test := d.test + 1, testAt := (s.advance dt).now }
      else (((s.advance dt).put SYS.pg SYS.TSTEST (s.advance dt).now).devSet fun d => { d with test := 0 }).enter .standby) := by
  have hnow := State.now_advance_of_on (State.on_of_dstate hd (by decide)) dt
  have hover : (s.advance dt).testOver = false := by
    simp only [State.testOver, State.advance_dev, hnow, decide_eq_false_iff_not]
    omega
  have hwait : (s.advance dt).testWaits = false := by
    by_cases h : s.dev.test = 7
    · have hrdy := h7 h
      simpa [State.testWaits, State.bitOn, h] using
        And.intro (hrdy 0 (by decide)) ⟨hrdy 1 (by decide), hrdy 2 (by decide)⟩
    · simp [State.testWaits, h]
  change execStartTestComplete dt true s = _
  unfold execStartTestComplete
  dsimp only
  rw [if_pos ⟨by simpa using hd, by simpa using h1⟩, if_neg, hwait, if_neg (by decide), State.advance_dev]
  · split <;> rfl
  · rw [hover, hnow, State.advance_dev, State.imageOk_advance]
    simp only [not_true_eq_false, Bool.false_eq_true, false_or, not_or, not_lt, not_and, not_not]
    exact ⟨hb, h9⟩

/-- A bound that runs out ends SELFTEST in SAFE_HOLD. -/
theorem selftestTimeout_enters (h9 : s.dev.test ≠ 9)
    (hb : s.dev.boundAt + 16000000 < s.now + dt ∨ 1 ≤ s.dev.test ∧ s.dev.testAt + testBound s.dev.test < s.now + dt) :
    ∃ t, exec (.selftestTimeout dt) s = .next t ∧ t.get SYS.pg SYS.DSTAT_DSTATE = DState.safeHold.code := by
  have hnow := State.now_advance_of_on (State.on_of_dstate hd (by decide)) dt
  refine ⟨(s.advance dt).testFail, ?_, ?_⟩
  · change execSelftestTimeout dt s = _
    unfold execSelftestTimeout
    dsimp only
    rw [if_pos]
    simpa [State.testOver, hnow, hd] using hb
  · unfold State.testFail
    dsimp only
    rw [if_neg (by simp [h9])]
    exact State.toSafeHold_dstate _

end Tests

/-- Settles O10: each clause is the lemma about its event above; the recorded words outlive the entry to SAFE_HOLD because
an entry leaves `SYS_BOOT` and the boot part of the state. -/
theorem bootAndSelftestAdvance : Obligations.BootAndSelftestAdvance := by
  refine ⟨fun dt slot err s hd h0 hn => ⟨bootSlotCheck_accepted hd h0 hn, bootSlotCheck_rejected hd h0 hn⟩,
    fun dt s hd hr hb => bootHandover_enters hd hr hb, fun dt s hd hb => bootTimeout_enters hd hb,
    fun dt s hd h1 h10 h9 h7 ht hb => ?_, fun dt s hd h10 ht hb => ?_,
    fun dt s hd h9 hb => selftestTimeout_enters hd h9 hb⟩
  · rw [startTestComplete_eq hd h1 h9 h7 ht hb, if_pos h10]
    exact ⟨_, rfl, by simp, rfl, s.advance_regs dt⟩
  · rw [startTestComplete_eq hd (by omega) (by omega) (by omega) (h10 ▸ ht) hb, if_neg (by omega)]
    exact ⟨_, rfl, State.enter_dstate ..⟩

end Sys2Proof.Machine
end

section
/-! SUPPORT. The commands of `SYS_DCMD` and the transitions they begin (R19 to R29). -/

namespace Sys2Proof.Machine
open Sys2Proof

/-! ### The STO function at the start of a transition (R26, R338) -/

/-- A bit of a field as it reads after a write of it. -/
theorem State.bitOn_putBit_same (s : State) {p : Page} {x : Fld} {b : Nat} (v : Bool) (hp : inPage p x = true)
    (hl : x.lo ≤ x.hi + 1) (hh : x.hi < 32) (hb : b < x.hi + 1 - x.lo) : (s.putBit p x b v).bitOn p x b = v := by
  rw [State.bitOn, State.putBit, s.get_put_same _ hp hl hh, Nat.testBit_mod_two_pow, testBit_setBits _ _ _ _ _ (by omega),
    decide_eq_true hb, if_pos ⟨le_refl b, le_refl b⟩, Nat.sub_self]
  cases v <;> rfl

/-- From `s` to `t` no machine's STO function goes out of effect. -/
structure StoStays (s t : State) : Prop where
  stays : ∀ i, s.stoEff i = true → t.stoEff i = true

theorem StoStays.refl (s : State) : StoStays s s := ⟨fun _ => id⟩

theorem StoStays.trans {s t u : State} (h : StoStays s t) (h' : StoStays t u) : StoStays s u :=
  ⟨fun i => h'.stays i ∘ h.stays i⟩

theorem StoStays.ite {c : Prop} [Decidable c] {s t u : State} (h : StoStays s t) (h' : StoStays s u) :
    StoStays s (if c then t else u) := by split <;> assumption

theorem StoStays.of_get {s t : State} (h : t.get STO.pg STO.STAT_EFF = s.get STO.pg STO.STAT_EFF) : StoStays s t :=
  ⟨fun i hi => by rwa [State.stoEff, h]⟩

theorem StoStays.of_kept {s t : State} {F : List Part} (k : Kept F s t) (hF : Part.block .sto ∉ F := by decide) :
    StoStays s t := .of_get (State.get_within k.within (by decide) hF)

/-- The causes stand in another word than the effect. -/
theorem StoStays.stoRecord (s : State) (m : Nat) : StoStays s (s.stoRecord m) := by
  have hput (v : Nat) : StoStays s (s.put STO.pg (stoCauseFld m) v) := by
    refine .of_get (s.get_put_word _ ?_)
    unfold stoCauseFld
    split <;> decide
  unfold State.stoRecord
  exact .ite (.ite (.refl s) (hput _)) (hput _)

theorem StoStays.putBit (s : State) (m : Nat) : StoStays s (s.putBit STO.pg STO.STAT_EFF m true) := by
  refine ⟨fun i hi => ?_⟩
  unfold State.stoEff at hi ⊢
  have hlt : i < STO.STAT_EFF.hi + 1 - STO.STAT_EFF.lo := by
    rw [State.get, testBit_bits, Bool.and_eq_true, decide_eq_true_eq] at hi
    exact hi.1
  rw [State.putBit, s.get_put_same _ (by decide) (by decide) (by decide), Nat.testBit_mod_two_pow, decide_eq_true hlt,
    Bool.true_and, testBit_setBits _ _ _ _ _ (by omega)]
  split
  · rw [show i - m = 0 by omega]; rfl
  · exact hi

theorem StoStays.sto_counts (s : State) : StoStays s ((s.incSat STO.pg STO.CNT_ASSERTS).evt STO.pg STO.EVT_ASSERT) :=
  .of_get ((State.get_evt_word _ (by decide) (by decide) (by decide)).trans
    (State.get_eq_of_rd (s.rd_incSat_word (by decide)) rfl))

/-- An assertion of STO, after the bit of its machine is set. -/
def State.stoAssertRest (s : State) (m : Nat) : State :=
  let s := (s.incSat STO.pg STO.CNT_ASSERTS).evt STO.pg STO.EVT_ASSERT
  let s := if s.bitOn SSF.pg SSF.STAT_SS1 m then s.ss1End m 2 else s
  ((s.msvToSto m).stoRecord m).sbcOnSto m |>.tpwRefreshAll

theorem StoStays.stoAssertRest (s : State) (m : Nat) : StoStays s (s.stoAssertRest m) := by
  have hss1 (t : State) : StoStays t (if t.bitOn SSF.pg SSF.STAT_SS1 m then t.ss1End m 2 else t) :=
    .ite (.of_kept (.ss1End ..)) (.refl t)
  unfold State.stoAssertRest
  dsimp only
  exact ((((StoStays.sto_counts s).trans (hss1 _)).trans (.of_kept (.msvToSto ..))).trans (.stoRecord ..)).trans
    (.trans (.of_kept (.sbcOnSto ..)) (.of_kept (.tpwRefreshAll _)))

theorem State.stoAssert_eq (s : State) {m : Nat} (hm : m < 4) : s.stoAssert m =
    if s.stoEff m then (s.pathsLow ⟨m, hm⟩).stoRecord m
    else ((s.pathsLow ⟨m, hm⟩).putBit STO.pg STO.STAT_EFF m true).stoAssertRest m := by
  unfold State.stoAssert
  simp only [hm, dif_pos]
  rfl

theorem StoStays.stoAssert (s : State) {m : Nat} (hm : m < 4) : StoStays s (s.stoAssert m) := by
  rw [s.stoAssert_eq hm]
  have hlow : StoStays s (s.pathsLow ⟨m, hm⟩) := .of_kept (.pathsLow ..)
  exact .ite (hlow.trans (.stoRecord ..)) ((hlow.trans (.putBit ..)).trans (.stoAssertRest ..))

/-- The STO function that is asserted is in effect (R336). -/
theorem State.stoEff_stoAssert (s : State) {m : Nat} (hm : m < 3) : (s.stoAssert m).stoEff m = true := by
  by_cases he : s.stoEff m = true
  · exact (StoStays.stoAssert s (by omega)).stays m he
  · rw [s.stoAssert_eq (by omega), if_neg he]
    exact (StoStays.stoAssertRest _ m).stays m (State.bitOn_putBit_same _ true (by decide) (by decide) (by decide) hm)

/-- What `stoEval` does on one machine. -/
def State.stoCheck (s : State) (m : Nat) : State :=
  if s.stoCause m ≠ 0 ∧ ¬ s.stoEff m then s.stoAssert m else s.stoRecord m

theorem State.stoEval_eq (s : State) : s.stoEval = ((s.stoCheck 0).stoCheck 1).stoCheck 2 := rfl

theorem Calm.stoCheck (s : State) (m : Nat) : Calm s (s.stoCheck m) :=
  .ite (.stoAssert s m) (.kept (.refl s) (.stoRecord ..))

theorem StoStays.stoCheck (s : State) {m : Nat} (hm : m < 4) : StoStays s (s.stoCheck m) :=
  .ite (.stoAssert s hm) (.stoRecord s m)

/-- A pending transition is a cause on every machine: out of DRIVE it is the leaving itself, elsewhere the state (R338). -/
theorem State.stoCause_ne_zero {s : State} (h : s.on SYS.pg SYS.DSTAT_TRANS = true) (m : Nat) : s.stoCause m ≠ 0 := by
  have hc : s.dstate ≠ .drive ∨ s.leaving = true := by
    by_cases hd : s.dstate = .drive
    · exact .inr (by simp [State.leaving, hd, h])
    · exact .inl hd
  unfold State.stoCause
  by_cases hsafe : s.safe = true
  · rw [if_pos hsafe]
    split <;> decide
  · rw [if_neg hsafe, if_pos hc]
    decide

theorem State.stoEff_stoCheck {s : State} (h : s.on SYS.pg SYS.DSTAT_TRANS = true) {m : Nat} (hm : m < 3) :
    (s.stoCheck m).stoEff m = true := by
  unfold State.stoCheck
  by_cases he : s.stoEff m = true
  · rw [if_neg (by simp [he])]
    exact (StoStays.stoRecord s m).stays m he
  · rw [if_pos ⟨State.stoCause_ne_zero h m, he⟩]
    exact s.stoEff_stoAssert hm

/-- While a transition is under way that no fault can abort yet, STO takes effect on every machine (R26). -/
theorem State.stoEff_stoEval {s : State} (h : s.on SYS.pg SYS.DSTAT_TRANS = true)
    (hs : s.get SYS.pg SYS.DSTAT_LAST_STS ≠ 2) (m : Fin 3) : s.stoEval.stoEff m = true := by
  have htrans {u : State} (hu : Calm s u) : u.on SYS.pg SYS.DSTAT_TRANS = true := by
    rwa [State.on, State.get_eq_of_rd (x := SYS.DSTAT_TRANS) (hu.dstat hs) rfl]
  have h1 := Calm.stoCheck s 0
  have h2 := h1.trans (Calm.stoCheck _ 1)
  rw [s.stoEval_eq]
  match m with
  | 0 => exact ((StoStays.stoCheck _ (by decide)).trans (.stoCheck _ (by decide))).stays _ (State.stoEff_stoCheck h (by decide))
  | 1 => exact (StoStays.stoCheck _ (by decide)).stays _ (State.stoEff_stoCheck (htrans h1) (by decide))
  | 2 => exact State.stoEff_stoCheck (htrans h2) (by decide)

/-! ### The conditions of a command (R23) -/

/-- A write of `SYS_DSTAT` leaves every word of another block's pages; the records of Cirrus alone lie below. -/
theorem State.rd_put_dstat (s : State) (v : Nat) {x y : Fld} {q : Page} (hx : x.off = 0x044) (hq : q.blk ≠ .sys)
    (hc : q.blk ≠ .ctx) : (s.put SYS.pg x v).rd (fldAddr q y) = s.rd (fldAddr q y) := by
  refine s.rd_put_word v ?_
  have hsys : fldAddr SYS.pg x = 0x40000044 := by rw [fldAddr, hx]; rfl
  have hbase : 0x40001000 ≤ pageBase q := by
    obtain ⟨b, n⟩ := q
    cases b <;> simp [pageBase, blockInfo, pageSize] at hq hc ⊢ <;> omega
  rw [hsys, fldAddr]
  omega

theorem State.get_put_dstat (s : State) (v : Nat) {x y : Fld} {q : Page} (hx : x.off = 0x044) (hq : q.blk ≠ .sys)
    (hc : q.blk ≠ .ctx) : (s.put SYS.pg x v).get q y = s.get q y := State.get_eq_of_rd (s.rd_put_dstat v hx hq hc) rfl

/-- No condition of R23 rests on `SYS_DSTAT`. -/
theorem State.unmet_put_dstat (s : State) (v : Nat) {x : Fld} (hx : x.off = 0x044) :
    (s.put SYS.pg x v).unmet = s.unmet := by
  have hg {q : Page} {y : Fld} (hq : q.blk ≠ .sys) (hc : q.blk ≠ .ctx) := s.get_put_dstat (q := q) (y := y) v hx hq hc
  have hr {q : Page} {y : Fld} (hq : q.blk ≠ .sys) (hc : q.blk ≠ .ctx) := s.rd_put_dstat (q := q) (y := y) v hx hq hc
  funext c
  simp [State.unmet, State.bitOn, State.on, State.msvSt, State.msvStandstill, State.posSpeed, State.msvK, State.msvH,
    State.noSets, hg, hr]

/-! ### A command that begins a transition (R20 to R26) -/

theorem DState.code_lt (d : DState) : d.code < 8 := by cases d <;> decide

theorem DState.code_ofCode {n : Nat} (h : n < 8) : (DState.ofCode n).code = n := by
  interval_cases n <;> rfl

/-- Outside OFF the field `DSTATE` holds the code of the device state (R16). -/
theorem State.get_dstate {s : State} {d : DState} (h : s.dstate = d) (hd : d ≠ .off) :
    s.get SYS.pg SYS.DSTAT_DSTATE = d.code := by
  have hon := State.on_of_dstate h hd
  rw [State.dstate, if_neg (by simp [hon])] at h
  exact h ▸ (DState.code_ofCode (bits_lt _ 2 0)).symm

/-- The state to which a command leads (R21, R25). -/
def State.dcmdTarget (s : State) (op : Nat) : DState :=
  match op with
  | 1 => if s.dstate = .service ∧ s.on SCF.pg SCF.STAT_CHANGED then .selftest else .standby
  | 2 => .drive
  | 3 => .charge
  | _ => .service

/-- In `t` the transition to `d` by command `op` of `req` is pending, begun in `s` (R20, R22). -/
structure Pending (s t : State) (req op : Nat) (d : DState) : Prop where
  target : t.get SYS.pg SYS.DSTAT_TARGET = d.code
  trans : t.on SYS.pg SYS.DSTAT_TRANS = true
  sts : t.get SYS.pg SYS.DSTAT_LAST_STS = 2
  cmd : t.get SYS.pg SYS.DSTAT_LAST_CMD = op
  req : t.get SYS.pg SYS.DSTAT_LAST_REQ = req
  dstate : t.get SYS.pg SYS.DSTAT_DSTATE = s.get SYS.pg SYS.DSTAT_DSTATE
  bound : t.dev.boundAt = s.now
  sto : s.dstate = .drive → ∀ m : Fin 3, t.stoEff m = true

/-- The record of a command: requester, command and no unmet condition (R22). -/
def State.dcmdRecord (s : State) (req op : Nat) : State :=
  ((s.put SYS.pg SYS.DSTAT_LAST_REQ req).put SYS.pg SYS.DSTAT_LAST_CMD op).put SYS.pg SYS.DSTAT_NR_COND 0

/-- The transition is noted; a fault cannot abort it before its status is PENDING (log 50). -/
def State.dcmdBegin (s : State) (d : DState) : State :=
  (((s.put SYS.pg SYS.DSTAT_TARGET d.code).flag SYS.pg SYS.DSTAT_TRANS true).put SYS.pg SYS.DSTAT_LAST_STS 0).devSet
    fun v => { v with boundAt := s.now }

/-- The effect of an accepted command from state `old` to `d` (R26, R29, log 50). -/
def State.dcmdPend (s : State) (old d : DState) : State :=
  let s := (if old = .charge then s.obcStopping 0xA else s).dcmdBegin d
  (if old = .drive then s.stoEval else s).put SYS.pg SYS.DSTAT_LAST_STS 2

/-- A device command that is accepted (R18, R21, R23, R325). -/
theorem State.dcmd_accepted {s : State} {req op : Nat} (hreq : req ≤ 2) (hop : 1 ≤ op ∧ op ≤ 4)
    (hacc : dcmdAccepted op s.dstate = true) (htr : s.on SYS.pg SYS.DSTAT_TRANS = false)
    (hhalt : 2 ≤ op → s.bitOn LKS.pg LKS.STAT_HALTED 2 = false)
    (hconds : ∀ c ∈ dcmdConds s.dstate op, s.unmet c = false) :
    s.dcmd req op = (s.dcmdRecord req op).dcmdPend s.dstate (s.dcmdTarget op) := by
  have htr' : (s.dcmdRecord req op).on SYS.pg SYS.DSTAT_TRANS = false := by
    rw [← htr, State.on, State.on]
    simp (disch := decide) only [State.dcmdRecord, State.get_put_bits]
  have hhalt' : (s.dcmdRecord req op).bitOn LKS.pg LKS.STAT_HALTED 2 = s.bitOn LKS.pg LKS.STAT_HALTED 2 := by
    simp (disch := decide) only [State.bitOn, State.dcmdRecord, State.get_put_word]
  have hfind : (dcmdConds s.dstate op).find? (s.dcmdRecord req op).unmet = none := by
    rw [List.find?_eq_none, State.dcmdRecord, State.unmet_put_dstat _ _ rfl, State.unmet_put_dstat _ _ rfl,
      State.unmet_put_dstat _ _ rfl]
    simpa using hconds
  have hchg : (s.dcmdRecord req op).on SCF.pg SCF.STAT_CHANGED = s.on SCF.pg SCF.STAT_CHANGED := by
    simp (disch := decide) only [State.on, State.dcmdRecord, State.get_put_word]
  unfold State.dcmd
  dsimp only
  rw [← State.dcmdRecord, if_neg (by omega), if_neg (by omega), if_neg, if_neg (by omega), hfind]
  · obtain ⟨h1, h4⟩ := hop
    interval_cases op <;> simp [State.dcmdPend, State.dcmdBegin, State.dcmdTarget, hchg]
  · rw [htr', hhalt', hacc]
    simp only [not_true_eq_false, Bool.false_eq_true, and_false, false_or, not_and, Bool.not_eq_true]
    exact fun h _ => hhalt h

/-- From the begin of a transition on a fault can abort it only when its status is PENDING; until then `SYS_DSTAT` reads
what the command wrote. -/
theorem State.get_dcmdBegin_sts (s : State) (d : DState) : (s.dcmdBegin d).get SYS.pg SYS.DSTAT_LAST_STS = 0 := by
  rw [State.dcmdBegin, State.get_devSet, State.get_put_same _ _ (by decide) (by decide) (by decide)]
  rfl

/-- An accepted command leaves its transition pending (R20, R22, R26). -/
theorem State.pending_dcmdPend {s : State} {req op : Nat} (hreq : req ≤ 2) (hop : op ≤ 4) (d : DState) :
    Pending s ((s.dcmdRecord req op).dcmdPend s.dstate d) req op d := by
  have hd := d.code_lt
  set w := if s.dstate = .charge then (s.dcmdRecord req op).obcStopping 0xA else s.dcmdRecord req op with hw
  have hstop : Kept [.dev, .dma, .dmaReq, .evrAt, .obc, .block .dma, .block .obc] (s.dcmdRecord req op) w :=
    .ite (.obcStopping ..) (.refl _)
  have hwget {x : Fld} (hx : inPage SYS.pg x = true) : w.get SYS.pg x = (s.dcmdRecord req op).get SYS.pg x :=
    State.get_within hstop.within hx (by decide)
  have hwnow : w.now = s.now := (hstop.within .now (by decide)).trans (by simp [State.dcmdRecord])
  set v := w.dcmdBegin d with hv
  set u := if s.dstate = .drive then v.stoEval else v with hu
  have hcalm : Calm v u := .ite (.stoEval v) (.refl v)
  have hsts : v.get SYS.pg SYS.DSTAT_LAST_STS ≠ 2 := by rw [hv, State.get_dcmdBegin_sts]; decide
  have hget {x : Fld} (hx : fldAddr SYS.pg x = fldAddr SYS.pg SYS.DSTAT) : u.get SYS.pg x = v.get SYS.pg x :=
    State.get_eq_of_rd (hcalm.dstat hsts) hx
  have htrans : v.on SYS.pg SYS.DSTAT_TRANS = true := by
    simp (disch := decide) only [hv, State.on, State.dcmdBegin, State.get_devSet, State.flag, State.get_put_bits,
      State.get_put_same]
    rfl
  change Pending s (u.put SYS.pg SYS.DSTAT_LAST_STS 2) req op d
  constructor
  case target =>
    rw [State.get_put_bits _ _ (by decide) (by decide) (by decide), hget (by rfl)]
    simp (disch := decide) only [hv, State.dcmdBegin, State.get_devSet, State.flag, State.get_put_bits, State.get_put_same]
    exact Nat.mod_eq_of_lt hd
  case trans =>
    rw [State.on, State.get_put_bits _ _ (by decide) (by decide) (by decide), hget (by rfl)]
    exact htrans
  case sts => rw [State.get_put_same _ _ (by decide) (by decide) (by decide)]; rfl
  case cmd =>
    rw [State.get_put_bits _ _ (by decide) (by decide) (by decide), hget (by rfl)]
    simp (disch := decide) only [hv, State.dcmdBegin, State.get_devSet, State.flag, State.get_put_bits, hwget,
      State.dcmdRecord, State.get_put_same]
    exact Nat.mod_eq_of_lt (show op < 16 by omega)
  case req =>
    rw [State.get_put_bits _ _ (by decide) (by decide) (by decide), hget (by rfl)]
    simp (disch := decide) only [hv, State.dcmdBegin, State.get_devSet, State.flag, State.get_put_bits, hwget,
      State.dcmdRecord, State.get_put_same]
    exact Nat.mod_eq_of_lt (show req < 16 by omega)
  case dstate =>
    rw [State.get_put_bits _ _ (by decide) (by decide) (by decide), hget (by rfl)]
    simp (disch := decide) only [hv, State.dcmdBegin, State.get_devSet, State.flag, State.get_put_bits, hwget,
      State.dcmdRecord]
  case bound => rw [State.put_dev, hcalm.dev]; exact hwnow
  case sto =>
    intro hdrive m
    rw [State.stoEff, State.get_put_word _ _ (by decide), hu, if_pos hdrive]
    exact State.stoEff_stoEval htrans hsts m

/-- A device command that is accepted leaves its transition pending. -/
theorem State.pending_dcmd {s : State} {dt req op : Nat} (hreq : req ≤ 2) (hop : 1 ≤ op ∧ op ≤ 4)
    (hacc : dcmdAccepted op s.dstate = true) (htr : s.on SYS.pg SYS.DSTAT_TRANS = false)
    (hhalt : 2 ≤ op → s.bitOn LKS.pg LKS.STAT_HALTED 2 = false)
    (hconds : ∀ c ∈ dcmdConds s.dstate op, (s.advance dt).unmet c = false) :
    Pending (s.advance dt) ((s.advance dt).dcmd req op) req op (s.dcmdTarget op) := by
  have hconds' : ∀ c ∈ dcmdConds (s.advance dt).dstate op, (s.advance dt).unmet c = false := by
    rwa [State.dstate_advance]
  have htarget : (s.advance dt).dcmdTarget op = s.dcmdTarget op := by simp [State.dcmdTarget, State.on]
  rw [State.dcmd_accepted hreq hop (by simpa using hacc) (by simpa [State.on] using htr)
    (by simpa [State.bitOn] using hhalt) hconds', htarget]
  exact State.pending_dcmdPend hreq hop.2 _

/-! ### SAFE_HOLD (R18, R22) -/

/-- `SAFE_HOLD` of HS takes effect at once. -/
theorem State.dcmd_safeHold {s : State} (hoff : s.dstate ≠ .off) (hsafe : s.dstate ≠ .safeHold)
    (htr : ¬(s.dstate.running = true ∧ s.on SYS.pg SYS.DSTAT_TRANS = true)) :
    s.dcmd 2 5 = (s.dcmdRecord 2 5).toSafeHold.status SYS.pg SYS.DSTAT_LAST_STS .done := by
  have htr' : (s.dcmdRecord 2 5).on SYS.pg SYS.DSTAT_TRANS = s.on SYS.pg SYS.DSTAT_TRANS := by
    simp (disch := decide) only [State.on, State.dcmdRecord, State.get_put_bits]
  unfold State.dcmd
  dsimp only
  rw [← State.dcmdRecord, if_neg (by decide), if_neg (by decide), if_neg, if_pos rfl]
  have hacc : dcmdAccepted 5 s.dstate = true := by simp [dcmdAccepted, hoff, hsafe]
  rw [htr', hacc]
  simpa using htr

theorem safeHold_enters {dt : Nat} {s : State} (hoff : s.dstate ≠ .off) (hsafe : s.dstate ≠ .safeHold)
    (htr : ¬(s.dstate.running = true ∧ s.on SYS.pg SYS.DSTAT_TRANS = true)) :
    ∃ t, exec (.safeHold dt 2) s = .next t ∧ t.get SYS.pg SYS.DSTAT_DSTATE = DState.safeHold.code ∧
      t.get SYS.pg SYS.DSTAT_LAST_STS = Status.done.code ∧ t.on HLO.pg HLO.STAT_SAFE = true := by
  refine ⟨(((s.advance dt).dcmdRecord 2 5).toSafeHold).status SYS.pg SYS.DSTAT_LAST_STS .done, ?_, ?_, ?_, ?_⟩
  · exact congrArg _ (State.dcmd_safeHold (by simpa using hoff) (by simpa using hsafe) (by simpa [State.on] using htr))
  · exact (State.get_put_bits _ _ (by decide) (by decide) (by decide)).trans (State.toSafeHold_dstate _)
  · exact State.get_status _ _ (by decide) (by decide) (by decide) (by decide)
  · rw [State.on, State.status, State.get_put_word _ _ (by decide)]
    exact State.toSafeHold_safe _

/-! ### The end of a transition (R20, R26) -/

/-- A pending transition is due within its bound, and out of CHARGE once the charger has stopped (R26). -/
theorem State.transitionDue_of {s : State} {d : DState} (hrun : s.dstate.running = true)
    (hstandby : s.dstate = .standby → s.now ≤ s.dev.boundAt + if d = .drive then 400000 else 4000)
    (hdrive : s.dstate = .drive → s.now ≤ s.dev.boundAt + 4000)
    (hcharge : s.dstate = .charge → s.get OBC.pg OBC.STAT_STATE ≤ 1) : s.transitionDue d = true := by
  unfold State.transitionDue
  cases hs : s.dstate <;> rw [hs] at hrun
  case standby =>
    have h := hstandby hs
    cases d <;> simpa [dcmdBound] using h
  case drive => simpa [dcmdBound] using hdrive hs
  case charge => simpa [dcmdBound] using hcharge hs
  case service => rfl
  all_goals exact absurd hrun (by decide)

/-- What `SYS_DSTAT` reads when the device has taken state `d` with status DONE (R20). -/
theorem State.get_enter_done (s : State) (d : DState) :
    ((s.put SYS.pg SYS.DSTAT_LAST_STS 1).enter d).get SYS.pg SYS.DSTAT_TARGET = d.code ∧
    ((s.put SYS.pg SYS.DSTAT_LAST_STS 1).enter d).get SYS.pg SYS.DSTAT_PREV = s.dstate.code ∧
    ((s.put SYS.pg SYS.DSTAT_LAST_STS 1).enter d).get SYS.pg SYS.DSTAT_LAST_STS = Status.done.code := by
  have hsts : (s.put SYS.pg SYS.DSTAT_LAST_STS 1).get SYS.pg SYS.DSTAT_LAST_STS = 1 := by
    rw [State.get_put_same _ _ (by decide) (by decide) (by decide)]; rfl
  have hne : (s.put SYS.pg SYS.DSTAT_LAST_STS 1).get SYS.pg SYS.DSTAT_LAST_STS ≠ 2 := by rw [hsts]; decide
  have hold : (s.put SYS.pg SYS.DSTAT_LAST_STS 1).dstate = s.dstate := by
    simp (disch := decide) only [State.dstate, State.put_dev, State.get_put_bits]
  refine ⟨?_, ?_, ?_⟩
  all_goals
    rw [State.get_enter_dstat hne d (by rfl) (by decide)]
    simp (disch := decide) only [State.enterWords, State.flag, State.get_put_bits, State.get_put_same, hsts, hold]
  · exact Nat.mod_eq_of_lt d.code_lt
  · exact Nat.mod_eq_of_lt s.dstate.code_lt
  · rfl

/-- A pending transition that is due completes (R20, R26). -/
theorem stateTransitionDone_enters {dt : Nat} {s : State} {d : DState} (hrun : s.dstate.running = true)
    (htr : s.on SYS.pg SYS.DSTAT_TRANS = true) (htarget : s.get SYS.pg SYS.DSTAT_TARGET = d.code)
    (hdue : (s.advance dt).transitionDue d = true) :
    ∃ t, exec (.stateTransitionDone dt) s = .next t ∧ t.get SYS.pg SYS.DSTAT_DSTATE = d.code ∧
      t.get SYS.pg SYS.DSTAT_TARGET = d.code ∧ t.get SYS.pg SYS.DSTAT_PREV = s.dstate.code ∧
      t.get SYS.pg SYS.DSTAT_LAST_STS = Status.done.code := by
  set u := (s.advance dt).put SYS.pg SYS.DSTAT_LAST_STS 1 with hu
  set v := if d = .selftest then u.toSelftest u.dev.boundAt else u.enter d with hv
  have hself (x : Fld) : v.get SYS.pg x = (u.enter d).get SYS.pg x := by
    rw [hv]
    split
    · rename_i h; rw [h]; rfl
    · rfl
  have hlast {x : Fld} (hx : fldAddr SYS.pg x = fldAddr SYS.pg SYS.DSTAT) :
      (if d = .service then (v.flag SCF.pg SCF.STAT_CHANGED false).flag SCF.pg SCF.STAT_CONSIST false else v).get SYS.pg x =
        (u.enter d).get SYS.pg x := by
    rw [← hself]
    split
    · rw [State.flag, State.get_put_word _ _ (hx ▸ by decide), State.flag, State.get_put_word _ _ (hx ▸ by decide)]
    · rfl
  obtain ⟨htgt, hprev, hsts⟩ := (s.advance dt).get_enter_done d
  rw [State.dstate_advance] at hprev
  change ∃ t, execStateTransitionDone dt s = .next t ∧ _
  unfold execStateTransitionDone
  dsimp only
  rw [State.get_advance, htarget, DState.ofCode_code,
    if_pos ⟨by simpa using hrun, by simpa [State.on] using htr, hdue⟩]
  exact ⟨_, rfl, (hlast (by rfl)).trans (State.enter_dstate ..), (hlast (by rfl)).trans htgt, (hlast (by rfl)).trans hprev,
    (hlast (by rfl)).trans hsts⟩

/-- Settles O11: an accepted command is `pending_dcmd`, `SAFE_HOLD` and the end of a transition are the lemmas above; in
all three `SYS_DSTAT` keeps what is written to it, as a fault aborts a transition only while its status is PENDING. -/
theorem deviceCommandsChangeTheDeviceState : Obligations.DeviceCommandsChangeTheDeviceState := by
  refine ⟨⟨fun dt req s hreq htr => ⟨fun hfrom => ?_, fun hstandby hhalt => ?_⟩,
    fun dt s hoff hsafe htr => safeHold_enters hoff hsafe htr⟩,
    fun dt s d hrun htr htarget _ hst hdr hch => stateTransitionDone_enters hrun htr htarget ?_⟩
  · have hon : s.dev.off = false := by
      rcases hfrom with ⟨h, -⟩ | h | ⟨h, -⟩ <;> exact State.on_of_dstate h (by decide)
    have hp : Pending (s.advance dt) ((s.advance dt).dcmd req.1 1) req.1 1 (s.dcmdTarget 1) := by
      refine State.pending_dcmd hreq (by decide) ?_ htr (fun h => absurd h (by decide)) ?_
      · rcases hfrom with ⟨h, -⟩ | h | ⟨h, -⟩ <;> rw [h] <;> rfl
      · rcases hfrom with ⟨h, h5⟩ | h | ⟨h, h3, hA⟩ <;> rw [h] <;> simp_all [dcmdConds]
    refine ⟨_, rfl, hp.target.trans ?_, hp.trans, hp.sts, hp.cmd, hp.req, hp.dstate.trans (by simp),
      hp.bound.trans (State.now_advance_of_on hon dt), by simpa using hp.sto⟩
    unfold State.dcmdTarget
    split_ifs <;> rfl
  · have hon := State.on_of_dstate hstandby (by decide)
    have hcmd (op : Nat) (hop : 2 ≤ op ∧ op ≤ 4) (hconds : ∀ c ∈ dcmdConds .standby op, (s.advance dt).unmet c = false) :
        Pending (s.advance dt) ((s.advance dt).dcmd req.1 op) req.1 op (s.dcmdTarget op) := by
      refine State.pending_dcmd hreq (by omega) ?_ htr (fun _ => hhalt) (hstandby ▸ hconds)
      rw [hstandby]
      obtain ⟨h2, h4⟩ := hop
      interval_cases op <;> rfl
    have hres {op : Nat} (hp : Pending (s.advance dt) ((s.advance dt).dcmd req.1 op) req.1 op (s.dcmdTarget op)) :=
      And.intro (hp.dstate.trans ((s.get_advance ..).trans (State.get_dstate hstandby (by decide))))
        (hp.bound.trans (State.now_advance_of_on hon dt))
    refine ⟨fun hc => ?_, fun hc => ?_, fun hc => ?_⟩
    · have hp := hcmd 2 (by decide) hc
      exact ⟨_, rfl, hp.target, hp.trans, hp.sts, hp.cmd, hp.req, hres hp⟩
    · have hp := hcmd 3 (by decide) hc
      exact ⟨_, rfl, hp.target, hp.trans, hp.sts, hp.cmd, hp.req, hres hp⟩
    · have hp := hcmd 4 (by decide) hc
      exact ⟨_, rfl, hp.target, hp.trans, hp.sts, hp.cmd, hp.req, hres hp⟩
  · have hon : s.dev.off = false := State.on_of_dstate rfl fun h => by rw [h] at hrun; cases hrun
    refine State.transitionDue_of (by simpa using hrun) ?_ ?_ (by simpa using hch) <;>
      simpa [State.now_advance_of_on hon dt] using ‹_›

end Sys2Proof.Machine
end

section
/-! SUPPORT. The commit tick of an execution, the commands of `CIR_CMD` and a stalled engine (R14, R154, R155, R171, R172,
R174). -/

namespace Sys2Proof.Machine
open Sys2Proof

/-! ### Contexts -/

@[simp] theorem State.ctxH_ctxSet_same (s : State) (k : Nat) (f : CtxH → CtxH) : (s.ctxSet k f).ctxH k = f (s.ctxH k) :=
  mapGet_mapSet_same ..

@[simp] theorem State.rd_ctxSet (s : State) (k a : Nat) (f : CtxH → CtxH) : (s.ctxSet k f).rd a = s.rd a := rfl

@[simp] theorem State.ctxH_advance (s : State) (dt k : Nat) : (s.advance dt).ctxH k = s.ctxH k := by simp [State.ctxH]

/-- A change of other parts leaves the contexts. -/
theorem State.ctxH_of_kept {F : List Part} {s t : State} (h : Kept F s t) (k : Nat) (hF : Part.ctxs ∉ F := by simp) :
    t.ctxH k = s.ctxH k := by
  have hc : t.ctxs = s.ctxs := h.within .ctxs hF
  rw [State.ctxH, hc, State.ctxH]

theorem State.execLatency_advance (s : State) (dt k : Nat) (e : Exec) :
    (s.advance dt).execLatency k e = s.execLatency k e := by
  have hrd : (s.advance dt).execRd e = s.execRd e := by
    rw [State.execRd, State.execRd, show (s.advance dt).rd = s.rd from funext fun a => s.rd_advance dt a]
  rw [State.execLatency, State.execLatency, State.execCfg, State.execCfg, hrd]

theorem inPage_ctx {k : Nat} (hk : k < 256) {x : Fld} (hx : x.off < 0x400) : inPage (CTX.pg k) x = true := by
  simp [inPage, pageValid, blockInfo, pageSize, hk, hx]

theorem fldAddr_ctx_ne {k : Nat} {x y : Fld} (h : y.off ≠ x.off) : fldAddr (CTX.pg k) y ≠ fldAddr (CTX.pg k) x := by
  simpa [fldAddr] using h

/-- A word of a record is not touched by an operation that leaves the records alone. -/
theorem State.rd_ctx_of_kept {F : List Part} {s t : State} (h : Kept F s t) {k : Nat} (hk : k < 256) {x : Fld}
    (hx : x.off < 0x400) (hF : Part.block .ctx ∉ F := by simp) :
    t.rd (fldAddr (CTX.pg k) x) = s.rd (fldAddr (CTX.pg k) x) :=
  h.within (.block .ctx) hF _ (blockAt_page (inPage_ctx hk hx))

/-! ### A late execution (R155) -/

/-- The slack meters of the engines stand outside the records (R14). -/
theorem Kept.ctxSlack_meters (s : State) (k : Nat) (l : List Nat) (v : Int) :
    Kept [.zslack, .block .cir] (s.puts (CTX.pg k) CTX.RUN_SLACK v) (s.ctxSlack k l v) := by
  unfold State.ctxSlack
  refine .foldl (fun t e => ?_) (.refl _) l
  have hmin : Kept [.zslack, .block .cir] t (if v < t.gets CIR.pg (CIR.ENG_MINSLACK.ix e) then
      t.puts CIR.pg (CIR.ENG_MINSLACK.ix e) v else t) := .ite (.step (.refl t) (.puts ..)) (.refl t)
  dsimp only
  split
  · exact .step hmin (.zslack_upd ..)
  · exact hmin

/-- The class of an execution is counted in words below the other counts (R165). -/
theorem State.rd_ctxClass (s : State) (k : Nat) (e : Exec) {x : Fld} (hx : x.off < 0x040 ∨ 0x04C ≤ x.off) :
    (s.ctxClass k e).rd (fldAddr (CTX.pg k) x) = s.rd (fldAddr (CTX.pg k) x) := by
  unfold State.ctxClass
  split
  · refine s.rd_put_word _ (fldAddr_ctx_ne ?_)
    split <;> simp only [CTX.UPD_HIT, CTX.UPD_CORR, CTX.UPD_REDO] <;> omega
  · rfl

/-- The execution ends, and its late period is counted (R155). -/
def State.ctxLateCounts (s : State) (k : Nat) (e : Exec) : State :=
  (((s.ctxClass k e).ctxSet k fun c => { c with exec := none, mis := c.mis.map fun n => n + 1 }).incWrap (CTX.pg k)
    CTX.LATE).incSat (CTX.pg k) CTX.RUN_LATE_RUN

/-- A late execution, before the fault of R155. -/
def State.ctxLateShown (s : State) (k : Nat) (e : Exec) : State :=
  ((s.ctxLateCounts k e).ctxSlack k (s.execEngines k e) (-1)).evt CIR.pg CIR.EVT_LATE

section Late

variable (s : State) {k : Nat} (e : Exec) (hk : k < 256)

include hk

/-- After the counts, the words of the record change in the field `SLACK` alone. -/
theorem State.rd_ctxLateShown {x : Fld} (hx : x.off < 0x400) : (s.ctxLateShown k e).rd (fldAddr (CTX.pg k) x) =
    ((s.ctxLateCounts k e).puts (CTX.pg k) CTX.RUN_SLACK (-1)).rd (fldAddr (CTX.pg k) x) :=
  (State.rd_ctx_of_kept (Kept.evt ..) hk hx).trans (State.rd_ctx_of_kept (Kept.ctxSlack_meters ..) hk hx)

/-- Configuration and state words of the record stay as they are: nothing is written (R155). -/
theorem State.rd_ctxLateShown_other {x : Fld} (hx : x.off < 0x400) (ho : x.off < 0x040 ∨ 0x058 ≤ x.off) :
    (s.ctxLateShown k e).rd (fldAddr (CTX.pg k) x) = s.rd (fldAddr (CTX.pg k) x) := by
  have hne {y : Fld} (hy : 0x040 ≤ y.off ∧ y.off < 0x058) : fldAddr (CTX.pg k) x ≠ fldAddr (CTX.pg k) y :=
    fldAddr_ctx_ne (by omega)
  rw [s.rd_ctxLateShown e hk hx, State.puts, State.rd_put_word _ _ (hne (by decide)), State.ctxLateCounts,
    State.rd_incSat_word _ (hne (by decide)), State.incWrap, State.rd_put_word _ _ (hne (by decide)), State.rd_ctxSet,
    s.rd_ctxClass k e (by omega)]

/-- The count of late executions in a row goes up by one, or stays at its end. -/
theorem State.get_ctxLateShown_run :
    (s.ctxLateShown k e).get (CTX.pg k) CTX.RUN_LATE_RUN = s.get (CTX.pg k) CTX.RUN_LATE_RUN ∨
      (s.ctxLateShown k e).get (CTX.pg k) CTX.RUN_LATE_RUN = s.get (CTX.pg k) CTX.RUN_LATE_RUN + 1 := by
  have hold : (((s.ctxClass k e).ctxSet k fun c => { c with exec := none, mis := c.mis.map fun n => n + 1 }).incWrap
      (CTX.pg k) CTX.LATE).get (CTX.pg k) CTX.RUN_LATE_RUN = s.get (CTX.pg k) CTX.RUN_LATE_RUN :=
    (State.get_put_word _ _ (fldAddr_ctx_ne (by decide))).trans
      (State.get_eq_of_rd (s.rd_ctxClass k e (x := CTX.RUN_LATE_RUN) (by decide)) rfl)
  rw [State.get_eq_of_rd (s.rd_ctxLateShown e hk (x := CTX.RUN_LATE_RUN) (by decide)) rfl, State.puts,
    State.get_put_bits _ _ (by decide) (by decide) (by decide), State.ctxLateCounts, State.incSat, hold]
  split
  · rename_i hlt
    rw [State.get_put_same _ _ (inPage_ctx hk (by decide)) (by decide) (by decide)]
    exact .inr (Nat.mod_eq_of_lt hlt)
  · exact .inl hold

/-- Short of `LATE_MAX` late executions in a row there is no fault (R155). -/
theorem State.ctxLate_eq (hmax : s.get (CTX.pg k) CTX.RUN_LATE_RUN + 1 ≠ s.get (CTX.pg k) CTX.CFG_LATE_MAX) :
    s.ctxLate k e = s.ctxLateShown k e := by
  have hcfg : (s.ctxLateShown k e).get (CTX.pg k) CTX.CFG_LATE_MAX = s.get (CTX.pg k) CTX.CFG_LATE_MAX :=
    State.get_eq_of_rd (s.rd_ctxLateShown_other e hk (x := CTX.CFG_LATE_MAX) (by decide) (by decide)) rfl
  have hold : ((s.ctxClass k e).ctxSet k fun c => { c with exec := none, mis := c.mis.map fun n => n + 1 }).get (CTX.pg k)
      CTX.RUN_LATE_RUN = s.get (CTX.pg k) CTX.RUN_LATE_RUN :=
    State.get_eq_of_rd (s.rd_ctxClass k e (x := CTX.RUN_LATE_RUN) (by decide)) rfl
  have hrun := s.get_ctxLateShown_run e hk
  unfold State.ctxLate
  dsimp only
  rw [← State.ctxLateCounts, ← State.ctxLateShown, hold, hcfg, if_neg]
  omega

/-- What a late execution shows: it has ended, the slack meter reads −1, and LATE is flagged (R155). -/
theorem State.ctxLateShown_spec : ((s.ctxLateShown k e).ctxH k).exec = none ∧
    (s.ctxLateShown k e).gets (CTX.pg k) CTX.RUN_SLACK = -1 ∧ (s.ctxLateShown k e).on CIR.pg CIR.EVT_LATE = true := by
  refine ⟨?_, ?_, ?_⟩
  · rw [State.ctxLateShown, State.ctxH_of_kept (Kept.evt ..), State.ctxH_of_kept (Kept.ctxSlack ..), State.ctxLateCounts,
      State.ctxH_of_kept (Kept.incSat ..), State.ctxH_of_kept (Kept.incWrap ..), State.ctxH_ctxSet_same]
  · rw [State.gets, State.get_eq_of_rd (s.rd_ctxLateShown e hk (x := CTX.RUN_SLACK) (by decide)) rfl, State.puts,
      State.get_put_same _ _ (inPage_ctx hk (by decide)) (by decide) (by decide)]
    decide
  · rw [State.on, State.ctxLateShown, State.on_evt _ (by decide) (by decide) (by decide) (by decide) (by decide)]
    rfl

end Late

/-! ### The commit tick (R154, R155) -/

section Commit

variable {dt : Nat} {k : Fin 256} {s : State} {e : Exec} (hon : s.dev.off = false) (he : (s.ctxH k).exec = some e)
  (htaken : e.taken = true) (htick : s.now + dt = e.trig + s.execLatency k e)

include hon he htaken htick

/-- In its commit tick an execution without a result is late. -/
theorem ctxCommit_of_none (ho : e.out = none) : exec (.ctxCommit dt k) s = .next ((s.advance dt).ctxLate k e) := by
  change execCtxCommit dt k s = _
  unfold execCtxCommit
  dsimp only
  rw [State.ctxH_advance, he]
  dsimp only
  rw [State.now_advance_of_on hon, State.execLatency_advance, if_pos ⟨htaken, htick⟩, ho]

/-- What an execution with a result does in its commit tick. -/
theorem ctxCommit_of_some {o : ExecOut} (ho : e.out = some o) : exec (.ctxCommit dt k) s =
    if e.st ≠ .complete ∨ s.now + dt < e.doneAt + 2 ∨ e.spoilt then .next ((s.advance dt).ctxLate k e)
    else if e.differ then .next (((s.advance dt).ctxLate k e).ctxMismatch k)
    else if o.bad then .next (((s.advance dt).ctxLate k e).ctxFault k 0x407)
    else .next ((s.advance dt).ctxApply k e o) := by
  change execCtxCommit dt k s = _
  unfold execCtxCommit
  dsimp only
  rw [State.ctxH_advance, he]
  dsimp only
  rw [State.now_advance_of_on hon, State.execLatency_advance, if_pos ⟨htaken, htick⟩, ho]

/-- A sound result that is there in time is applied (R154). -/
theorem ctxCommit_applies {o : ExecOut} (ho : e.out = some o) (hst : e.st = .complete) (hdone : e.doneAt + 2 ≤ s.now + dt)
    (hspoilt : e.spoilt = false) (hdiffer : e.differ = false) (hbad : o.bad = false) :
    exec (.ctxCommit dt k) s = .next ((s.advance dt).ctxApply k e o) := by
  rw [ctxCommit_of_some hon he htaken htick ho, if_neg, hdiffer, hbad, if_neg (by decide), if_neg (by decide)]
  rw [hspoilt, not_or, not_or]
  exact ⟨not_not.mpr hst, by omega, by decide⟩

/-- A result that is not there in time, or is spoilt, is late (R155). -/
theorem ctxCommit_late (hlate : e.st ≠ .complete ∨ s.now + dt < e.doneAt + 2 ∨ e.spoilt = true ∨ e.out = none) :
    exec (.ctxCommit dt k) s = .next ((s.advance dt).ctxLate k e) := by
  cases ho : e.out with
  | none => exact ctxCommit_of_none hon he htaken htick ho
  | some o =>
    rw [ctxCommit_of_some hon he htaken htick ho, if_pos]
    simpa [ho] using hlate

end Commit

/-! ### The commands of `CIR_CMD` (R174) -/

/-- Outside SAFE_HOLD a block command is carried out (R18). -/
theorem State.cirOp_of_awake {s : State} (h : s.dstate ≠ .safeHold) (dt op k : Nat) :
    (s.advance dt).cirOp op k = (s.advance dt).cirCmd op k := if_neg (by simpa using h)

theorem State.get_cirStatus (s : State) (st : Status) :
    (s.status CIR.pg CIR.CMDSTS_LAST_STS st).get CIR.pg CIR.CMDSTS_LAST_STS = st.code :=
  s.get_status st (by decide) (by decide) (by decide) (by decide)

/-- The counts of a context, cleared (R174). -/
def State.ctxClearCounts (s : State) (k : Nat) : State :=
  (List.range 7).foldl (fun s i => s.setWord (CTX.pg k) ⟨0x040 + 4 * i, 31, 0, 0⟩ 0) s

/-- A count that is among those cleared reads 0. -/
theorem State.rd_clear_counts {k : Nat} (hk : k < 256) (l : List Nat) {i : Nat} (hi : i < 7) (s : State)
    (h : i ∈ l ∨ s.rd (fldAddr (CTX.pg k) ⟨0x040 + 4 * i, 31, 0, 0⟩) = 0) :
    (l.foldl (fun s j => s.setWord (CTX.pg k) ⟨0x040 + 4 * j, 31, 0, 0⟩ 0) s).rd
      (fldAddr (CTX.pg k) ⟨0x040 + 4 * i, 31, 0, 0⟩) = 0 := by
  induction l generalizing s with
  | nil => simpa using h
  | cons j l ih =>
    refine ih _ ?_
    by_cases hj : i = j
    · subst hj
      exact .inr (s.rd_setWord_same _ (inPage_ctx hk (by simp; omega)))
    · rw [State.rd_setWord_other _ _ (fldAddr_ctx_ne (by simpa using hj))]
      exact h.imp_left fun hm => (List.mem_cons.mp hm).resolve_left hj

/-- `CLR_CNT` clears the counts of a context (R174). -/
theorem cirClrCnt_clears {dt : Nat} {req : Req} {k : Fin 256} {s : State} (h : s.dstate ≠ .safeHold) :
    ∃ t, exec (.cirClrCnt dt req k) s = .next t ∧ t.get CIR.pg CIR.CMDSTS_LAST_STS = Status.done.code ∧
      ∀ i, i < 7 → t.rd (fldAddr (CTX.pg k) ⟨0x040 + 4 * i, 31, 0, 0⟩) = 0 := by
  have hcmd : (s.advance dt).cirCmd 1 k = ((s.advance dt).ctxClearCounts k).status CIR.pg CIR.CMDSTS_LAST_STS .done := rfl
  refine ⟨((s.advance dt).ctxClearCounts k).status CIR.pg CIR.CMDSTS_LAST_STS .done,
    congrArg Host.Outcome.next ((State.cirOp_of_awake h dt 1 k).trans hcmd), State.get_cirStatus _ _, fun i hi => ?_⟩
  exact (State.rd_ctx_of_kept (Kept.status ..) k.isLt (by simp; omega)).trans
    (State.rd_clear_counts k.isLt _ hi _ (.inl (List.mem_range.mpr hi)))

/-- A trigger is counted, whatever becomes of it (R150). -/
theorem State.trigs_ctxTrigger (s : State) (k : Nat) : ((s.ctxTrigger k).ctxH k).trigs = (s.ctxH k).trigs + 1 := by
  unfold State.ctxTrigger
  dsimp only
  split
  · simp
  · split
    · rw [State.ctxH_of_kept (Kept.incWrap ..)]
      simp
    · split
      · split
        · rw [State.ctxH_of_kept (Kept.note ..), State.ctxH_of_kept (Kept.ctxLast ..), State.ctxH_of_kept (Kept.evt ..),
            State.ctxH_of_kept (Kept.put ..), State.ctxH_of_kept (Kept.incSat ..), State.ctxH_of_kept (Kept.incWrap ..)]
          simp
        · split <;> simp
      · simp

/-- `TRIG` on an enabled context of source 7 is its trigger (R149, R174). -/
theorem cirTrig_triggers {dt : Nat} {req : Req} {k : Fin 256} {s : State} (h : s.dstate ≠ .safeHold)
    (hen : s.on (CTX.pg k) CTX.CFG_EN = true) (hsrc : s.get (CTX.pg k) CTX.TRIG_SRC = 7) :
    ∃ t, exec (.cirTrig dt req k) s = .next t ∧ t.get CIR.pg CIR.CMDSTS_LAST_STS = Status.done.code ∧
      (t.ctxH k).trigs = (s.ctxH k).trigs + 1 := by
  have hcmd : (s.advance dt).cirCmd 2 k = ((s.advance dt).ctxTrigger k).status CIR.pg CIR.CMDSTS_LAST_STS .done :=
    if_pos (by simpa [State.on, hsrc] using hen)
  refine ⟨((s.advance dt).ctxTrigger k).status CIR.pg CIR.CMDSTS_LAST_STS .done,
    congrArg Host.Outcome.next ((State.cirOp_of_awake h dt 2 k).trans hcmd), State.get_cirStatus _ _, ?_⟩
  rw [State.ctxH_of_kept (Kept.status ..), State.trigs_ctxTrigger, State.ctxH_advance]

/-- `TRIG` on a context that is not enabled is refused (R60, R174). -/
theorem cirTrig_refused {dt : Nat} {req : Req} {k : Fin 256} {s : State} (h : s.dstate ≠ .safeHold)
    (hen : s.on (CTX.pg k) CTX.CFG_EN = false) : exec (.cirTrig dt req k) s =
      .next ((s.advance dt).status CIR.pg CIR.CMDSTS_LAST_STS .illegalState) := by
  have hen' : (s.advance dt).on (CTX.pg k) CTX.CFG_EN = false := by simpa [State.on] using hen
  exact congrArg Host.Outcome.next ((State.cirOp_of_awake h dt 2 k).trans (if_neg (by simp [hen'])))

/-! ### A stalled engine (R171, R172) -/

/-- From `s` to `t` the words of the CIR page that show a failed engine and the page's events are the same. -/
structure EngShown (s t : State) : Prop where
  stat : t.rd (fldAddr CIR.pg CIR.ENGSTAT) = s.rd (fldAddr CIR.pg CIR.ENGSTAT)
  evt : t.rd (fldAddr CIR.pg CIR.EVT) = s.rd (fldAddr CIR.pg CIR.EVT)

namespace EngShown

variable {s t u : State}

theorem refl (s : State) : EngShown s s := ⟨rfl, rfl⟩

theorem trans (h : EngShown s t) (h' : EngShown t u) : EngShown s u := ⟨h'.stat.trans h.stat, h'.evt.trans h.evt⟩

/-- An operation that leaves the CIR page alone. -/
theorem kept {F : List Part} (h : EngShown s t) (k : Kept F t u) (hF : Part.block .cir ∉ F := by simp) : EngShown s u :=
  h.trans ⟨k.within (.block .cir) hF _ (blockAt_page (p := CIR.pg) (by decide)),
    k.within (.block .cir) hF _ (blockAt_page (p := CIR.pg) (by decide))⟩

theorem ite {c : Prop} [Decidable c] (h : EngShown s t) (h' : EngShown s u) : EngShown s (if c then t else u) := by
  split <;> assumption

theorem foldl {α : Type} {f : State → α → State} (h : ∀ s a, EngShown s (f s a)) (l : List α) (s : State) :
    EngShown s (l.foldl f s) := State.foldl_related refl trans h l s

theorem foldlFst {α β : Type} {f : State × β → α → State × β} (h : ∀ a x, EngShown a.1 (f a x).1) (s : State) (b : β)
    (l : List α) : EngShown s (l.foldl f (s, b)).1 := by
  suffices ∀ a : State × β, EngShown a.1 (l.foldl f a).1 from this (s, b)
  induction l with
  | nil => exact fun a => refl a.1
  | cons x l ih => exact fun a => (h a x).trans (ih _)

theorem csetEnd (s : State) (r : Fin 16) (code : Nat) : EngShown s (s.csetEnd r code) :=
  ⟨s.rd_csetEnd_word r code (by decide) (by decide), s.rd_csetEnd_word r code (by decide) (by decide)⟩

/-- Change sets that a reaction stops end on their pages' status words (R55). -/
theorem csetStop (s : State) : EngShown s s.csetStop.1 := by
  refine .foldlFst (fun a r => ?_) _ _ _
  dsimp only
  split
  · split
    · exact refl _
    · split
      · split
        · exact refl _
        · exact kept (refl _) (.sets_upd ..)
      · exact csetEnd ..
  · exact refl _

theorem stopCommits (s : State) : EngShown s s.stopCommits := by
  have h := csetStop s
  unfold State.stopCommits
  rcases hstop : s.csetStop with ⟨u, hit⟩
  have hu : EngShown s u := by rwa [hstop] at h
  have hevt : EngShown s (u.evt SYS.pg SYS.EVT_CSET_PARTIAL) := hu.kept (.evt ..)
  exact .ite (hevt.kept (.note ..)) hu

theorem escalate (s : State) (m code : Nat) : EngShown s (s.escalate m code) := by
  have hshow : EngShown s ((s.note code 4 (2 ^ m) 0).evt SSF.pg (if code = 0xB09 then SSF.EVT_SS1_ESC else SSF.EVT_SS1_FAIL)) :=
    ((refl s).kept (.note ..)).kept (.evt ..)
  have hcount (t : State) : EngShown t (if t.bitOn SSF.pg SSF.STAT_SS1 m then t
      else (t.put SSF.pg (SSF.MSTAT_STATE.ix m) 3).incSat SSF.pg SSF.CNT_ESCALATED) :=
    .ite (.refl t) (((refl t).kept (.put ..)).kept (.incSat ..))
  unfold State.escalate
  dsimp only
  exact (((hshow.trans (hcount _)).kept (.stopSet ..)).kept (.applyFr4 ..)).trans (.stopCommits _)

theorem stopSelect (s : State) (m : Nat) : EngShown s (s.stopSelect m) := by
  have hdone (t : State) : EngShown t (t.stopSet m fun h => { h with done := true }) := (refl t).kept (.stopSet ..)
  have hcomplete (t : State) : EngShown t ((((t.stopSet m fun h => { h with done := true }).put SSF.pg
      (SSF.MSTAT_STATE.ix m) 2).incSat SSF.pg SSF.CNT_SS1_DONE).evt SSF.pg SSF.EVT_SS1_DONE) :=
    (((hdone t).kept (.put ..)).kept (.incSat ..)).kept (.evt ..)
  unfold State.stopSelect
  dsimp only
  refine .ite (.refl s) (.ite ((hdone s).kept (.stoAssert ..)) ?_)
  split
  · exact hcomplete s
  · exact hcomplete s
  · exact (hcomplete s).kept (.stoAssert ..)
  · exact .escalate ..
  · refine .ite ?_ (.escalate ..)
    exact (((((refl s).kept (.stopSet ..)).kept (.putBit ..)).kept (.put ..)).kept (.evt ..) |>.kept (.setWord ..)).kept
      (.msvSs1 ..)

theorem applyFr3 (s : State) (m : Nat) : EngShown s (s.applyFr3 m) := by
  have h : EngShown s ((s.putBit HLO.pg HLO.STAT_FR3 m true).evt HLO.pg HLO.EVT_FR3) :=
    ((refl s).kept (.putBit ..)).kept (.evt ..)
  unfold State.applyFr3
  exact .ite h (h.trans (.stopSelect ..))

theorem machines {f : State → Nat → State} (h : ∀ s m, EngShown s (f s m)) (s : State) (mask : Nat) :
    EngShown s (s.machines mask f) := foldl (fun s m => .ite (h s m) (.refl s)) _ s

/-- The latch of a context's fault stands beside the words of the engines (R174). -/
theorem ctxLatch (s : State) (k code : Nat) : EngShown s (s.ctxLatch k code) := by
  have hput (t : State) {x : Fld} (v : Nat) (hx : 0x058 ≤ x.off) : EngShown t (t.put CIR.pg x v) := by
    refine ⟨t.rd_put_word _ ?_, t.rd_put_word _ ?_⟩ <;> simp only [fldAddr, CIR.ENGSTAT, CIR.EVT] <;> omega
  unfold State.ctxLatch State.ctxLast State.putBit
  exact ((hput _ _ (by decide)).trans (hput _ _ (by decide))).trans (hput _ _ (by simp [Fld.ix, CIR.CFLT]; omega))

theorem engReact (s : State) (k : Nat) : EngShown s (s.engReact k) := by
  unfold State.engReact
  dsimp only
  refine (ctxLatch s k 0x404).trans (.ite (.refl _) (.ite (.kept (.refl _) (.ctxFunctions ..)) ?_))
  split
  · exact machines (fun t m => (refl t).kept (.applyFr2 t m)) _ _
  · exact machines applyFr3 _ _
  · exact machines (fun t m => (refl t).kept (.applyFr4 t m)) _ _

end EngShown

/-- The engine's failure and its event, which the reactions of its contexts leave standing (R171, R172). -/
theorem engineStall_shows {dt : Nat} {e : Fin 8} {s : State} (hok : s.bitOn CIR.pg CIR.ENGSTAT_FAILED e = false)
    (hhang : (s.advance dt).engHangs e = true) :
    ∃ t, exec (.engineStall dt e) s = .next t ∧ t.bitOn CIR.pg CIR.ENGSTAT_FAILED e = true ∧
      t.on CIR.pg CIR.EVT_ENG_STALL = true := by
  set u := ((s.advance dt).putBit CIR.pg CIR.ENGSTAT_FAILED e true).evt CIR.pg CIR.EVT_ENG_STALL with hu
  have hstat : u.bitOn CIR.pg CIR.ENGSTAT_FAILED e = true := by
    rw [hu, State.bitOn, State.get_evt_word _ (by decide) (by decide) (by decide)]
    exact State.bitOn_putBit_same _ true (by decide) (by decide) (by decide) e.isLt
  have hevt : u.get CIR.pg CIR.EVT_ENG_STALL = 1 :=
    State.on_evt _ (by decide) (by decide) (by decide) (by decide) (by decide)
  have hrest (code react machs aux now : Nat) (ks : List Nat) (c : Prop) [Decidable c] :
      EngShown u (if c then (ks.foldl State.engReact (u.abortTransition.logEntry code react machs aux now)).stopCommits
        else ks.foldl State.engReact (u.abortTransition.logEntry code react machs aux now)) := by
    have h : EngShown u (ks.foldl State.engReact (u.abortTransition.logEntry code react machs aux now)) :=
      (((EngShown.refl u).kept (.abortTransition ..)).kept (.logEntry ..)).trans (.foldl .engReact _ _)
    exact .ite (h.trans (.stopCommits _)) h
  change ∃ t, execEngineStall dt e s = .next t ∧ _
  unfold execEngineStall
  dsimp only
  rw [if_neg (by simpa [State.bitOn, hhang] using hok)]
  refine ⟨_, rfl, ?_, ?_⟩
  · rw [State.bitOn, State.get_eq_of_rd (hrest ..).stat (by rfl)]
    exact hstat
  · rw [State.on, State.get_eq_of_rd (hrest ..).evt (by rfl), hevt]
    rfl

/-- Settles O33: the commit tick is `ctxCommit_applies` or, through `ctxLate_eq`, a late period that writes its counts and
meter alone; the commands and the stalled engine are the lemmas above. -/
theorem commitTicksAndCirrusCommands : Obligations.CommitTicksAndCirrusCommands := by
  refine ⟨fun dt k s e hon he htaken htick =>
    ⟨fun o ho hst hdone hspoilt hdiffer hbad => ctxCommit_applies hon he htaken htick ho hst hdone hspoilt hdiffer hbad,
      fun hlate hmax => ?_⟩,
    fun dt req k s _ => ⟨fun h => ⟨cirClrCnt_clears h, cirTrig_triggers h, cirTrig_refused h⟩,
      fun e => engineStall_shows⟩⟩
  obtain ⟨hexec, hslack, hevt⟩ := (s.advance dt).ctxLateShown_spec e k.isLt
  refine ⟨(s.advance dt).ctxLateShown k e, ?_, hexec, hslack, hevt, fun i hi => ?_⟩
  · rw [ctxCommit_late hon he htaken htick hlate, State.ctxLate_eq _ e k.isLt (by simpa using hmax)]
  · have hoff : (CTX.STATE.ix i).off = 0x300 + i * 4 := rfl
    rw [State.rd_ctxLateShown_other _ e k.isLt (by omega) (by omega), State.rd_advance]

end Sys2Proof.Machine
end

section
/-! SUPPORT. What holds of every command: it keeps to its footprint, keeps canonical maps canonical, and answers. -/

namespace Sys2Proof.Machine
open Sys2Proof

/-! ### One law for each command -/

/-- Every command changes only the parts of its footprint, and keeps canonical maps canonical: the law of its own
meaning. -/
theorem Kept.exec (c : Instr) (s : State) : KeptOut (footprint c) s (Machine.exec c s) := by
  cases c with
  | powerValid dt boot => exact .execPowerValid dt boot s
  | supplyUv dt k => exact .execSupplyUv dt k s
  | supplyOv dt k => exact .execSupplyOv dt k s
  | nresetAssert dt => exact .execNresetAssert dt s
  | nresetRelease dt heldUs boot => exact .execNresetRelease dt heldUs boot s
  | rstCmdDevice dt req => exact .execRstCmdDevice dt req s
  | rstCmdAp0 dt req => exact .execRstCmdAp0 dt req s
  | rstCmdAp1 dt req => exact .execRstCmdAp1 dt req s
  | pairRestart dt p => exact .execPairRestart dt p s
  | debugSystemReset dt => exact .execDebugSystemReset dt s
  | bootSlotCheck dt slot err => exact .execBootSlotCheck dt slot err s
  | bootHandover dt => exact .execBootHandover dt s
  | bootTimeout dt => exact .execBootTimeout dt s
  | startTestComplete dt pass => exact .execStartTestComplete dt pass s
  | selftestTimeout dt => exact .execSelftestTimeout dt s
  | keyRevoke dt req bits => exact .execKeyRevoke dt req bits s
  | outReadback dt ball => exact .execOutReadback dt ball s
  | jtagBypass dt => exact .execJtagBypass dt s
  | jtagIdcode dt => exact .execJtagIdcode dt s
  | jtagSamplePreload dt cells => exact .execJtagSamplePreload dt cells s
  | jtagDtm dt => exact .execJtagDtm dt s
  | jtagExtest dt => exact .execJtagExtest dt s
  | jtagClamp dt => exact .execJtagClamp dt s
  | jtagHighz dt => exact .execJtagHighz dt s
  | standby dt req => exact .execStandby dt req s
  | drive dt req => exact .execDrive dt req s
  | charge dt req => exact .execCharge dt req s
  | service dt req => exact .execService dt req s
  | safeHold dt req => exact .execSafeHold dt req s
  | stateTransitionDone dt => exact .execStateTransitionDone dt s
  | registerWrite dt req addr be val => exact .execRegisterWrite dt req addr be val s
  | keyWrite dt req page val => exact .execKeyWrite dt req page val s
  | unlockLapse dt req page => exact .execUnlockLapse dt req page s
  | pairReadLo dt req addr => exact .execPairReadLo dt req addr s
  | pairReadHi dt req addr => exact .execPairReadHi dt req addr s
  | pairWriteLo dt req addr val => exact .execPairWriteLo dt req addr val s
  | pairWriteHi dt req addr val => exact .execPairWriteHi dt req addr val s
  | softRst dt req page => exact .execSoftRst dt req page s
  | evtForce dt req page val => exact .execEvtForce dt req page val s
  | evtClear dt req page val hw => exact .execEvtClear dt req page val hw s
  | csetStage dt req page val => exact .execCsetStage dt req page val s
  | csetCommit dt req page val => exact .execCsetCommit dt req page val s
  | csetAbort dt req page val => exact .execCsetAbort dt req page val s
  | domainCommit dt b => exact .execDomainCommit dt b s
  | ownerAcq dt req lock rival => exact .execOwnerAcq dt req lock rival s
  | ownerRel dt req lock => exact .execOwnerRel dt req lock s
  | refQualified dt diffPpb => exact .execRefQualified dt diffPpb s
  | directLock dt => exact .execDirectLock dt s
  | glideDone dt => exact .execGlideDone dt s
  | refLost dt => exact .execRefLost dt s
  | refNever dt => exact .execRefNever dt s
  | rateFail dt => exact .execRateFail dt s
  | countMismatch dt => exact .execCountMismatch dt s
  | lgPeriodStart dt g => exact .execLgPeriodStart dt g s
  | cmpMatch dt c => exact .execCmpMatch dt c s
  | capture dt c falling fine => exact .execCapture dt c falling fine s
  | capStampLoRead dt req c => exact .execCapStampLoRead dt req c s
  | interpolatorSwap dt ix trimPs => exact .execInterpolatorSwap dt ix trimPs s
  | calStale dt ix => exact .execCalStale dt ix s
  | syncInEdge dt falling fine => exact .execSyncInEdge dt falling fine s
  | syncLost dt g => exact .execSyncLost dt g s
  | syncOutEnd dt => exact .execSyncOutEnd dt s
  | steerLimit dt => exact .execSteerLimit dt s
  | tpwCmpWrite dt req n leg val => exact .execTpwCmpWrite dt req n leg val s
  | tpwUpdatePoint dt n => exact .execTpwUpdatePoint dt n s
  | tpwPatSwitch dt req n => exact .execTpwPatSwitch dt req n s
  | tpwPatPi dt req n => exact .execTpwPatPi dt req n s
  | tpwPatAscLow dt req n => exact .execTpwPatAscLow dt req n s
  | tpwPatAscHigh dt req n => exact .execTpwPatAscHigh dt req n s
  | outMismatch dt n ball => exact .execOutMismatch dt n ball s
  | shootThrough dt n leg => exact .execShootThrough dt n leg s
  | adfHold dt g => exact .execAdfHold dt g s
  | adfSlotLatch dt g vin late => exact .execAdfSlotLatch dt g vin late s
  | lateResult dt g c => exact .execLateResult dt g c s
  | adfInjGo dt req g => exact .execAdfInjGo dt req g s
  | adfInjLatch dt g vin => exact .execAdfInjLatch dt g vin s
  | adfOwTest dt g ix vin => exact .execAdfOwTest dt g ix vin s
  | calStep dt conv gain ofs => exact .execCalStep dt conv gain ofs s
  | calWindowEnd dt => exact .execCalWindowEnd dt s
  | refBufferReady dt b => exact .execRefBufferReady dt b s
  | refMonitorCheck dt b dev => exact .execRefMonitorCheck dt b dev s
  | adhRegTrigger dt u => exact .execAdhRegTrigger dt u s
  | adhReggo dt req u => exact .execAdhReggo dt req u s
  | adhGo dt req u => exact .execAdhGo dt req u s
  | adhEntryLatch dt u vin => exact .execAdhEntryLatch dt u vin s
  | ctxTrigger dt k => exact .execCtxTrigger dt k s
  | updraftPredict dt k => exact .execUpdraftPredict dt k s
  | ctxExecStart dt k ecc => exact .execCtxExecStart dt k ecc s
  | ctxExecComplete dt k second differ rail => exact .execCtxExecComplete dt k second differ rail s
  | updraftCheck dt k => exact .execUpdraftCheck dt k s
  | ctxCommit dt k => exact .execCtxCommit dt k s
  | engineStall dt e => exact .execEngineStall dt e s
  | cirClrCnt dt req k => exact .execCirClrCnt dt req k s
  | cirTrig dt req k => exact .execCirTrig dt req k s
  | rsvSample dt n sn cs => exact .execRsvSample dt n sn cs s
  | rsvPeriodCheck dt n exc u1 u2 u3 u4 => exact .execRsvPeriodCheck dt n exc u1 u2 u3 u4 s
  | encEdge dt n a b => exact .execEncEdge dt n a b s
  | encIndex dt n => exact .execEncIndex dt n s
  | encSpeedTimeout dt n => exact .execEncSpeedTimeout dt n s
  | hallEdge dt n st => exact .execHallEdge dt n st s
  | fusionUpdate dt n => exact .execFusionUpdate dt n s
  | reacqDecision dt n => exact .execReacqDecision dt n s
  | reacqFail dt n => exact .execReacqFail dt n s
  | posRestart dt req n => exact .execPosRestart dt req n s
  | posSeedEnc dt req n => exact .execPosSeedEnc dt req n s
  | posClrCnt dt req n => exact .execPosClrCnt dt req n s
  | msvTcmdWrite dt req m val => exact .execMsvTcmdWrite dt req m val s
  | tcmdTimeout dt m => exact .execTcmdTimeout dt m s
  | msvRun dt req m => exact .execMsvRun dt req m s
  | msvStop dt req m => exact .execMsvStop dt req m s
  | msvDirFwd dt req m => exact .execMsvDirFwd dt req m s
  | msvDirRev dt req m => exact .execMsvDirRev dt req m s
  | msvDirBoth dt req m => exact .execMsvDirBoth dt req m s
  | msvOnesetRestore dt req m => exact .execMsvOnesetRestore dt req m s
  | msvAck dt req m => exact .execMsvAck dt req m s
  | msvClrCnt dt req m => exact .execMsvClrCnt dt req m s
  | lhPinSample dt pin code => exact .execLhPinSample dt pin code s
  | cmdPinEdge dt pin falling => exact .execCmdPinEdge dt pin falling s
  | bchAck dt req => exact .execBchAck dt req s
  | bchClrCnt dt req => exact .execBchClrCnt dt req s
  | dcdVsetWrite dt req val => exact .execDcdVsetWrite dt req val s
  | dcdStart dt req => exact .execDcdStart dt req s
  | dcdStop dt req => exact .execDcdStop dt req s
  | dcdAck dt req => exact .execDcdAck dt req s
  | dcdClrCnt dt req => exact .execDcdClrCnt dt req s
  | dcdTestTimeout dt p => exact .execDcdTestTimeout dt p s
  | softstartTo dt => exact .execSoftstartTo dt s
  | cpSample dt mv edge => exact .execCpSample dt mv edge s
  | ppSample dt vpp vdda => exact .execPpSample dt vpp vdda s
  | obcBmsFrame dt req val => exact .execObcBmsFrame dt req val s
  | bmsTimeout dt => exact .execBmsTimeout dt s
  | obcStart dt req dir => exact .execObcStart dt req dir s
  | obcStop dt req => exact .execObcStop dt req s
  | obcSetDir dt req dir => exact .execObcSetDir dt req dir s
  | obcAck dt req => exact .execObcAck dt req s
  | obcClrCnt dt req => exact .execObcClrCnt dt req s
  | obcPhaseCountDone dt => exact .execObcPhaseCountDone dt s
  | prechargeTo dt => exact .execPrechargeTo dt s
  | timerExpired dt t => exact .execTimerExpired dt t s
  | obcStopBound dt => exact .execObcStopBound dt s
  | obcPfcInhibit dt => exact .execObcPfcInhibit dt s
  | actCmpWrite dt req n leg val => exact .execActCmpWrite dt req n leg val s
  | actTgtWrite dt req n val => exact .execActTgtWrite dt req n val s
  | actHallEdge dt n st => exact .execActHallEdge dt n st s
  | actBemfEdge dt n => exact .execActBemfEdge dt n s
  | actAlignEnd dt n => exact .execActAlignEnd dt n s
  | actForcedCommutation dt n => exact .execActForcedCommutation dt n s
  | sensorlessStart dt n => exact .execSensorlessStart dt n s
  | actSpeedTimeout dt n => exact .execActSpeedTimeout dt n s
  | actRun dt req n => exact .execActRun dt req n s
  | actSeq dt req n => exact .execActSeq dt req n s
  | actBrake dt req n => exact .execActBrake dt req n s
  | actStop dt req n => exact .execActStop dt req n s
  | actAck dt req n => exact .execActAck dt req n s
  | actClrCnt dt req n => exact .execActClrCnt dt req n s
  | actSetPos dt req n => exact .execActSetPos dt req n s
  | seqTimeout dt n => exact .execSeqTimeout dt n s
  | instructionRetire dt pair side word => exact .execInstructionRetire dt pair side word s
  | earlyCompare dt pair mbe maddr cbe caddr u => exact .execEarlyCompare dt pair mbe maddr cbe caddr u s
  | loadResponse dt pair => exact .execLoadResponse dt pair s
  | compareEntry dt pair u => exact .execCompareEntry dt pair u s
  | lagTimeout dt pair early => exact .execLagTimeout dt pair early s
  | transWindowStart dt => exact .execTransWindowStart dt s
  | asyncInputTaken dt pair inp => exact .execAsyncInputTaken dt pair inp s
  | comparatorProbe dt cmp u => exact .execComparatorProbe dt cmp u s
  | selftestMiss dt cmp => exact .execSelftestMiss dt cmp s
  | debugHaltRequest dt pair => exact .execDebugHaltRequest dt pair s
  | debugHalted dt pair => exact .execDebugHalted dt pair s
  | debugStep dt pair => exact .execDebugStep dt pair s
  | debugResume dt pair => exact .execDebugResume dt pair s
  | lksClrCnt dt req => exact .execLksClrCnt dt req s
  | lksProbe dt req => exact .execLksProbe dt req s
  | hloAck dt req mask => exact .execHloAck dt req mask s
  | hloClrLog dt req => exact .execHloClrLog dt req s
  | hloClrFirst dt req => exact .execHloClrFirst dt req s
  | watchdogKick dt req val => exact .execWatchdogKick dt req val s
  | watchdog dt => exact .execWatchdog dt s
  | ghbReadback dt line => exact .execGhbReadback dt line s
  | stoRelease dt req mask => exact .execStoRelease dt req mask s
  | stoAssert dt req mask => exact .execStoAssert dt req mask s
  | stoConvRelease dt req => exact .execStoConvRelease dt req s
  | stoConvAssert dt req => exact .execStoConvAssert dt req s
  | stoPathBRelease dt line => exact .execStoPathBRelease dt line s
  | stoReadback dt ball => exact .execStoReadback dt ball s
  | stoPath dt line => exact .execStoPath dt line s
  | sfiSample dt rec1 rec2 fb => exact .execSfiSample dt rec1 rec2 fb s
  | tpoPulseStart dt j => exact .execTpoPulseStart dt j s
  | tpoPulseEnd dt j => exact .execTpoPulseEnd dt j s
  | sfiAck dt req k => exact .execSfiAck dt req k s
  | sfiClrCnt dt req => exact .execSfiClrCnt dt req s
  | ssfSs1 dt req mask => exact .execSsfSs1 dt req mask s
  | ssfBrakeApply dt req ch => exact .execSsfBrakeApply dt req ch s
  | ssfBrakeRelease dt req ch => exact .execSsfBrakeRelease dt req ch s
  | ssfSbcAck dt req ch => exact .execSsfSbcAck dt req ch s
  | ssfClrCnt dt req => exact .execSsfClrCnt dt req s
  | ss1Timeout dt m => exact .execSs1Timeout dt m s
  | sbcApplyDelay dt c => exact .execSbcApplyDelay dt c s
  | sbcTestStart dt c ls => exact .execSbcTestStart dt c ls s
  | sbcTestEnd dt c fb1 fb2 => exact .execSbcTestEnd dt c fb1 fb2 s
  | scfOpen dt req len => exact .execScfOpen dt req len s
  | scfClose dt req => exact .execScfClose dt req s
  | scfSetPwd dt req len => exact .execScfSetPwd dt req len s
  | scfConfirm dt req => exact .execScfConfirm dt req s
  | scfRevert dt req => exact .execScfRevert dt req s
  | scfStoreDone dt ok => exact .execScfStoreDone dt ok s
  | lockoutEnd dt => exact .execLockoutEnd dt s
  | sessionTimeout dt => exact .execSessionTimeout dt s
  | slgRdseqWrite dt req val => exact .execSlgRdseqWrite dt req val s
  | slgCopyDone dt => exact .execSlgCopyDone dt s
  | zenithScan dt temps => exact .execZenithScan dt temps s
  | busAccess dt reqs ecc => exact .execBusAccess dt reqs ecc s
  | arbWindowStart dt => exact .execArbWindowStart dt s
  | starvation dt req bank => exact .execStarvation dt req bank s
  | scrubAccess dt bank ecc => exact .execScrubAccess dt bank ecc s
  | flsProgram dt req => exact .execFlsProgram dt req s
  | flsErase dt req => exact .execFlsErase dt req s
  | flashOpDone dt ok => exact .execFlashOpDone dt ok s
  | arbClrCnt dt req => exact .execArbClrCnt dt req s
  | dmaStart dt req ch => exact .execDmaStart dt req ch s
  | dmaStop dt req ch => exact .execDmaStop dt req ch s
  | dmaClrCnt dt req ch => exact .execDmaClrCnt dt req ch s
  | dmaPeriphRequest dt ch => exact .execDmaPeriphRequest dt ch s
  | dmaRecordDone dt ch err => exact .execDmaRecordDone dt ch err s
  | dmaBlockBurst dt ch err => exact .execDmaBlockBurst dt ch err s
  | dmaBlockDone dt ch => exact .execDmaBlockDone dt ch s
  | dmaRptrWrite dt req ch val => exact .execDmaRptrWrite dt req ch val s
  | crcStart dt req ix => exact .execCrcStart dt req ix s
  | crcDinWrite dt req ix be val => exact .execCrcDinWrite dt req ix be val s
  | canStart dt req ix => exact .execCanStart dt req ix s
  | canStop dt req ix => exact .execCanStop dt req ix s
  | canRecover dt req ix => exact .execCanRecover dt req ix s
  | canTxuAbort dt req ix => exact .execCanTxuAbort dt req ix s
  | canFlush dt req ix => exact .execCanFlush dt req ix s
  | canClrCnt dt req ix => exact .execCanClrCnt dt req ix s
  | canPushFifo dt req ix => exact .execCanPushFifo dt req ix s
  | canPushTxu dt req ix => exact .execCanPushTxu dt req ix s
  | canStartOfFrame dt ix => exact .execCanStartOfFrame dt ix s
  | canTxDone dt ix tdc => exact .execCanTxDone dt ix tdc s
  | canRxFrame dt ix f => exact .execCanRxFrame dt ix f s
  | canError dt ix e => exact .execCanError dt ix e s
  | canIdleDetect dt ix => exact .execCanIdleDetect dt ix s
  | canRecoveryDone dt ix => exact .execCanRecoveryDone dt ix s
  | headAge dt ix => exact .execHeadAge dt ix s
  | canRxpop dt req ix => exact .execCanRxpop dt req ix s
  | canHppop dt req ix => exact .execCanHppop dt req ix s
  | clfSignalDetect dt p => exact .execClfSignalDetect dt p s
  | clfTrainDone dt p => exact .execClfTrainDone dt p s
  | clfTrainTimeout dt p oneLane => exact .execClfTrainTimeout dt p oneLane s
  | clfLaneFault dt p both => exact .execClfLaneFault dt p both s
  | clfRescan dt req => exact .execClfRescan dt req s
  | clfRetrain dt req ports => exact .execClfRetrain dt req ports s
  | clfClrCnt dt req => exact .execClfClrCnt dt req s
  | clfHelloSend dt done => exact .execClfHelloSend dt done s
  | clfHelloRx dt p h done => exact .execClfHelloRx dt p h done s
  | clfAssignRx dt p id n hops => exact .execClfAssignRx dt p id n hops s
  | clfPdRequest dt p fine => exact .execClfPdRequest dt p fine s
  | clfPdreqRx dt p fine => exact .execClfPdreqRx dt p fine s
  | clfPdrespRx dt p t2 t3 fine => exact .execClfPdrespRx dt p t2 t3 fine s
  | clfFrameRx dt p f good marked => exact .execClfFrameRx dt p f good marked s
  | clfTimeRx dt p f fine => exact .execClfTimeRx dt p f fine s
  | clfTxbufRead dt slot => exact .execClfTxbufRead dt slot s
  | clfSlotTx dt slot done => exact .execClfSlotTx dt slot done s
  | clfSuperframe dt => exact .execClfSuperframe dt s
  | clfSwapatWrite dt req val => exact .execClfSwapatWrite dt req val s
  | clfSlotBankWrite dt req addr be val => exact .execClfSlotBankWrite dt req addr be val s
  | clfRouteWrite dt req addr be val => exact .execClfRouteWrite dt req addr be val s
  | clfRingRptrWrite dt req k val => exact .execClfRingRptrWrite dt req k val s
  | supplyValid dt k => exact .execSupplyValid dt k s
  | actSectorAdvance dt n => exact .execActSectorAdvance dt n s
  | ghbHalfPeriod dt line => exact .execGhbHalfPeriod dt line s
  | imgcrcRecomputed dt => exact .execImgcrcRecomputed dt s
  | logProgramDone dt ok => exact .execLogProgramDone dt ok s
  | errorRateWindowStart dt => exact .execErrorRateWindowStart dt s

/-- Settles O5: the first part of `Kept.exec`. -/
theorem everyCommandKeepsToItsFootprint : Obligations.EveryCommandKeepsToItsFootprint :=
  fun c s t h => (Kept.exec c s t h).within

/-! ### The canonical form (R39, R41, R388) -/

theorem Kept.canonical {F : List Part} {s t : State} (h : Kept F s t) (hs : s.Canonical) : t.Canonical :=
  ⟨h.regs hs.1, h.mem hs.2⟩

/-- Settles O4: a step runs a command, which keeps the form, or lets a tick pass. -/
theorem everyStepKeepsCanonicalForm : Obligations.EveryStepKeepsCanonicalForm := by
  intro s t hs h
  unfold step at h
  split at h
  · cases h
    exact (Kept.advance s 1).canonical hs
  · exact (Kept.exec _ _ t h).canonical hs

/-! ### Memory -/

theorem mem_notMem_allRegs : Part.mem ∉ Part.allRegs := by decide +kernel

theorem mem_notMem_reaction : Part.mem ∉ Part.reaction := by decide +kernel

/-- Settles O7, from the footprints: of the commands that the statement does not name, none lists the memory. -/
theorem onlyTheseCommandsWriteMemory : Obligations.OnlyTheseCommandsWriteMemory := by
  intro c s t hc h a
  have hmem : Part.mem ∉ footprint c := by
    cases c with
    | supplyUv | nresetAssert | rstCmdDevice | rstCmdAp0 | rstCmdAp1 | debugSystemReset | registerWrite | pairWriteLo
    | pairWriteHi | compareEntry | busAccess | dmaBlockBurst | dmaRecordDone | flashOpDone | ctxCommit | clfFrameRx
    | logProgramDone => exact hc.elim
    | _ => simp [footprint, Part.andRegs, mem_notMem_reaction, mem_notMem_allRegs]
  have hkept : t.mem = s.mem := (Kept.exec c s t h).within .mem hmem
  rw [State.rdByte, hkept, State.rdByte]
/-! ### Every command answers (log 11) -/

/-- The outcome is a next state. -/
def Answers (o : Host.Outcome State Fault Refusal) : Prop := ∃ t, o = .next t

theorem Answers.next (t : State) : Answers (.next t) := ⟨t, rfl⟩

theorem Answers.ite {c : Prop} [Decidable c] {o u : Host.Outcome State Fault Refusal} (h : Answers o) (h' : Answers u) :
    Answers (if c then o else u) := by split <;> assumption

theorem clfTimeRx_answers (dt : Nat) (p : Fin 2) (f : ClfTime) (fine : Fin 128) (s : State) :
    Answers (execClfTimeRx dt p f fine s) := by
  unfold execClfTimeRx
  refine .ite (.next _) ?_
  split
  exact .ite (.next _) (.ite (.next _) (.next _))

/-- Every command answers: its meaning is one next state, or a choice between next states. -/
theorem exec_answers (c : Instr) (s : State) : Answers (exec c s) := by
  cases c with
  | nresetAssert | rstCmdDevice | rstCmdAp0 | rstCmdAp1 | debugSystemReset | bootTimeout | selftestTimeout |
    keyRevoke | jtagBypass | jtagIdcode | jtagSamplePreload | jtagDtm | jtagExtest | jtagClamp | jtagHighz | standby
    | drive | charge | service | safeHold | registerWrite | softRst | evtForce | evtClear | csetStage | csetCommit |
    csetAbort | domainCommit | ownerRel | rateFail | countMismatch | capStampLoRead | tpwCmpWrite | tpwPatSwitch |
    tpwPatPi | tpwPatAscLow | tpwPatAscHigh | outMismatch | shootThrough | adfInjGo | adhReggo | adhGo | cirClrCnt |
    cirTrig | posRestart | posSeedEnc | posClrCnt | msvTcmdWrite | msvRun | msvStop | msvDirFwd | msvDirRev |
    msvDirBoth | msvOnesetRestore | msvAck | msvClrCnt | cmdPinEdge | bchAck | bchClrCnt | dcdVsetWrite | dcdStart |
    dcdStop | dcdAck | dcdClrCnt | obcBmsFrame | obcStart | obcStop | obcSetDir | obcAck | obcClrCnt | actCmpWrite |
    actTgtWrite | actRun | actSeq | actBrake | actStop | actAck | actClrCnt | actSetPos | lksClrCnt | lksProbe |
    hloAck | hloClrLog | hloClrFirst | watchdogKick | ghbReadback | stoRelease | stoAssert | stoConvRelease |
    stoConvAssert | stoReadback | sfiAck | sfiClrCnt | ssfSs1 | ssfBrakeApply | ssfBrakeRelease | ssfSbcAck |
    ssfClrCnt | scfOpen | scfClose | scfSetPwd | scfConfirm | scfRevert | slgRdseqWrite | arbWindowStart |
    flsProgram | flsErase | arbClrCnt | dmaStart | dmaStop | dmaClrCnt | dmaRptrWrite | crcStart | crcDinWrite |
    canStart | canStop | canRecover | canTxuAbort | canFlush | canClrCnt | canPushFifo | canPushTxu | canRxpop |
    canHppop | clfRescan | clfRetrain | clfClrCnt | clfSwapatWrite | clfSlotBankWrite | clfRouteWrite |
    clfRingRptrWrite | supplyValid =>
    exact .next _
  | powerValid | supplyUv | supplyOv | nresetRelease | bootHandover | outReadback | stateTransitionDone | keyWrite |
    pairReadLo | pairReadHi | pairWriteLo | pairWriteHi | refNever | capture | interpolatorSwap | calStale |
    syncInEdge | syncLost | adfHold | adfOwTest | calStep | calWindowEnd | adhRegTrigger | ctxTrigger |
    updraftPredict | engineStall | rsvSample | rsvPeriodCheck | fusionUpdate | reacqFail | lhPinSample |
    dcdTestTimeout | softstartTo | cpSample | bmsTimeout | prechargeTo | timerExpired | obcStopBound | seqTimeout |
    transWindowStart | asyncInputTaken | selftestMiss | debugHaltRequest | debugHalted | debugStep | debugResume |
    stoPathBRelease | tpoPulseStart | ss1Timeout | sbcTestStart | sessionTimeout | zenithScan | starvation |
    dmaBlockDone | canStartOfFrame | canError | canIdleDetect | canRecoveryDone | headAge | clfSignalDetect |
    clfTrainDone | clfTrainTimeout | clfHelloSend | clfHelloRx | clfAssignRx | clfPdRequest | clfPdreqRx |
    clfTxbufRead | clfSuperframe | ghbHalfPeriod | errorRateWindowStart =>
    exact .ite (.next _) (.next _)
  | refMonitorCheck | comparatorProbe | scfStoreDone | clfLaneFault =>
    exact .ite (.next _) (.ite (.next _) (.next _))
  | bootSlotCheck | refQualified | tcmdTimeout | ppSample | obcPhaseCountDone | sfiSample | dmaBlockBurst |
    canRxFrame =>
    exact .ite (.ite (.next _) (.next _)) (.next _)
  | clfTimeRx dt p f fine => exact clfTimeRx_answers dt p f fine s
  | pairRestart | startTestComplete | unlockLapse | ownerAcq | directLock | glideDone | refLost | lgPeriodStart |
    cmpMatch | syncOutEnd | steerLimit | tpwUpdatePoint | adfSlotLatch | lateResult | adfInjLatch | refBufferReady |
    adhEntryLatch | ctxExecStart | ctxExecComplete | updraftCheck | ctxCommit | encEdge | encIndex | encSpeedTimeout
    | hallEdge | reacqDecision | obcPfcInhibit | actHallEdge | actBemfEdge | actAlignEnd | actForcedCommutation |
    sensorlessStart | actSpeedTimeout | instructionRetire | earlyCompare | loadResponse | compareEntry | lagTimeout
    | watchdog | stoPath | tpoPulseEnd | sbcApplyDelay | sbcTestEnd | lockoutEnd | slgCopyDone | busAccess |
    scrubAccess | flashOpDone | dmaPeriphRequest | dmaRecordDone | canTxDone | clfPdrespRx | clfFrameRx | clfSlotTx
    | actSectorAdvance | imgcrcRecomputed | logProgramDone =>
    dsimp only [exec, execPairRestart, execStartTestComplete, execUnlockLapse, execOwnerAcq, execDirectLock,
      execGlideDone, execRefLost, execLgPeriodStart, execCmpMatch, execSyncOutEnd, execSteerLimit,
      execTpwUpdatePoint, execAdfSlotLatch, execLateResult, execAdfInjLatch, execRefBufferReady,
      execAdhEntryLatch, execCtxExecStart, execCtxExecComplete, execUpdraftCheck, execCtxCommit,
      execEncEdge, execEncIndex, execEncSpeedTimeout, execHallEdge, execReacqDecision,
      execObcPfcInhibit, execActHallEdge, execActBemfEdge, execActAlignEnd, execActForcedCommutation,
      execSensorlessStart, execActSpeedTimeout, execInstructionRetire, execEarlyCompare,
      execLoadResponse, execCompareEntry, execLagTimeout, execWatchdog, execStoPath, execTpoPulseEnd,
      execSbcApplyDelay, execSbcTestEnd, execLockoutEnd, execSlgCopyDone, execBusAccess,
      execScrubAccess, execFlashOpDone, execDmaPeriphRequest, execDmaRecordDone, execCanTxDone,
      execClfPdrespRx, execClfFrameRx, execClfSlotTx, execActSectorAdvance, execImgcrcRecomputed,
      execLogProgramDone]
    (repeat' split) <;> exact .next _

/-- No footprint holds the queue. -/
theorem pending_notMem_footprint (c : Instr) : Part.pending ∉ footprint c := by
  cases c <;>
    simp [footprint, Part.andRegs, Laws.KeepsQueue.reaction, Laws.KeepsQueue.butPending, Laws.KeepsQueue.allRegs]

/-- Settles O6: `exec_answers`, and the footprints leave the queue out. -/
theorem everyCommandAnswersAndLeavesTheQueue : Obligations.EveryCommandAnswersAndLeavesTheQueue := by
  intro c s
  obtain ⟨t, h⟩ := exec_answers c s
  exact ⟨t, h, (Kept.exec c s t h).within .pending (pending_notMem_footprint c)⟩

end Sys2Proof.Machine
end

section
/-! SUPPORT. Pages and the words of the common header: which page holds an address, and what a count reads after a refusal
(R40, R41, R47). -/

namespace Sys2Proof.Machine
open Sys2Proof

/-! ### Pages (R39, R40) -/

theorem pageSize_pos (b : Block) : 0 < pageSize b := by cases b <;> decide

/-- A page that holds an address is listed, and the address lies in it. -/
theorem pageAt_eq_some {a : Nat} {p : Page} (h : pageAt a = some p) :
    pageValid p = true ∧ pageBase p ≤ a ∧ a < pageBase p + pageSize p.blk := by
  obtain ⟨b, -, hb⟩ := List.exists_of_findSome?_eq_some h
  unfold blockPageAt at hb
  dsimp only at hb
  split at hb
  case isFalse => cases hb
  case isTrue hin =>
    cases hb
    have hs := pageSize_pos b
    have hdiv := Nat.div_add_mod (a - (blockInfo b).base) (pageSize b)
    have hmod := Nat.mod_lt (a - (blockInfo b).base) hs
    rw [Nat.mul_comm] at hdiv
    refine ⟨?_, ?_, ?_⟩
    · simp only [pageValid, decide_eq_true_eq]
      exact (Nat.div_lt_iff_lt_mul hs).mpr (by omega)
    · simp only [pageBase]; omega
    · simp only [pageBase]; omega

theorem pageAt_of_mem {a : Nat} {p : Page} (hp : pageValid p = true) (hlo : pageBase p ≤ a)
    (hhi : a < pageBase p + pageSize p.blk) : pageAt a = some p := by
  have h := pageAt_page (p := p) (x := ⟨a - pageBase p, 0, 0, 0⟩) (by
    simp only [inPage, hp, Bool.true_and, decide_eq_true_eq]; omega)
  rwa [fldAddr, Nat.add_sub_cancel' hlo] at h

theorem fldAddr_inj {p q : Page} {x y : Fld} (hp : inPage p x = true) (hq : inPage q y = true)
    (h : fldAddr p x = fldAddr q y) : p = q ∧ x.off = y.off := by
  have hpage := pageAt_page hp
  rw [h, pageAt_page hq] at hpage
  cases hpage
  exact ⟨rfl, Nat.add_left_cancel h⟩

theorem pageSize_of_hasHeader {p : Page} (h : hasHeader p = true) : pageSize p.blk = 0x1000 := by
  obtain ⟨b, n⟩ := p
  cases b
  case ctx => cases h
  all_goals rfl

/-- A word of a page with a header lies in the page. -/
theorem inPage_of_hasHeader {p : Page} {x : Fld} (hv : pageValid p = true) (hh : hasHeader p = true)
    (hx : x.off < 0x1000) : inPage p x = true := by
  simp only [inPage, hv, pageSize_of_hasHeader hh, Bool.true_and, decide_eq_true_eq]
  exact hx

theorem inPage_of_off {p : Page} {x y : Fld} (h : inPage p x = true) (ho : y.off = x.off) : inPage p y = true := by
  rwa [inPage, ho]

/-- Every Halo page carries the common header (R39, R40). -/
theorem hasHeader_of_isHalo {p : Page} (hv : pageValid p = true) (h : isHalo p = true) : hasHeader p = true := by
  obtain ⟨b, n⟩ := p
  have hn : n < (blockInfo b).count := of_decide_eq_true hv
  have hbase : 0x50000000 ≤ (blockInfo b).base + n * pageSize b := of_decide_eq_true h
  cases b
  case ctx | bank | route => simp only [blockInfo, pageSize] at hn hbase; omega
  all_goals rfl

/-! ### Counts (R45, R47) -/

/-- A count that saturates at its width. -/
theorem State.get_incSat_same (s : State) {p : Page} {x : Fld} (hp : inPage p x = true) (hl : x.lo ≤ x.hi + 1)
    (hh : x.hi < 32) : (s.incSat p x).get p x = min (2 ^ (x.hi + 1 - x.lo) - 1) (s.get p x + 1) := by
  have hlt : s.get p x < 2 ^ (x.hi + 1 - x.lo) := bits_lt ..
  unfold State.incSat
  dsimp only
  split
  · rw [s.get_put_same _ hp hl hh, Nat.mod_eq_of_lt (by assumption)]
    omega
  · omega

theorem State.get_incSat_word (s : State) {p q : Page} {x y : Fld} (h : fldAddr q y ≠ fldAddr p x) :
    (s.incSat p x).get q y = s.get q y := State.get_eq_of_rd (s.rd_incSat_word h) rfl

/-- A refused access is counted (R45). -/
theorem State.get_refuse (s : State) {p : Page} (hp : inPage p HDR.ERRCNT = true) :
    (s.refuse p).get p HDR.ERRCNT_ACCESS = min 255 (s.get p HDR.ERRCNT_ACCESS + 1) :=
  s.get_incSat_same (inPage_of_off hp rfl) (by decide) (by decide)

theorem State.rd_refuse (s : State) {p : Page} {a : Nat} (h : a ≠ fldAddr p HDR.ERRCNT) : (s.refuse p).rd a = s.rd a :=
  s.rd_incSat_word h

/-- The parts beside the registers stay as they are when a count goes up. -/
theorem State.sameAt_incSat (s : State) (p : Page) (x : Fld) {q : Part} (hq : ∀ b, q ≠ .block b) :
    s.sameAt (s.incSat p x) q := (Kept.incSat s p x).within q (by simpa using hq p.blk)

end Sys2Proof.Machine
end

section
/-! SUPPORT. The unlock of a page (R45, R46), and writes to Halo pages by another requester than HS (R41). -/

namespace Sys2Proof.Machine
open Sys2Proof

/-! ### Unlocks -/

theorem pageReq_inj {p q : Page} {r r' : Nat} (hp : pageValid p = true) (hq : pageValid q = true) (hr : r < 16)
    (hr' : r' < 16) (h : pageReq p r = pageReq q r') : p = q ∧ r = r' := by
  have hmp := pageBase_mod p
  have hmq := pageBase_mod q
  unfold pageReq at h
  have hbase : pageBase p = pageBase q := by omega
  have hin (o : Page) (ho : pageValid o = true) : inPage o ⟨0, 0, 0, 0⟩ = true := by
    simp only [inPage, ho, Bool.true_and, decide_eq_true_eq]
    exact pageSize_pos _
  exact ⟨(fldAddr_inj (hin p hp) (hin q hq) hbase).1, by omega⟩

@[simp] theorem State.unlock_setUnlock_same (s : State) (p : Page) (r : Nat) (u : Unlock) :
    (s.setUnlock p r u).unlock p r = u := mapGet_mapSet_same ..

theorem State.unlock_setUnlock_other (s : State) {p q : Page} {r r' : Nat} (u : Unlock)
    (h : pageReq q r' ≠ pageReq p r) : (s.setUnlock p r u).unlock q r' = s.unlock q r' := mapGet_mapSet_other _ _ _ h

@[simp] theorem State.unlock_refuse (s : State) (p q : Page) (r : Nat) : (s.refuse p).unlock q r = s.unlock q r := by
  have hkeys : (s.refuse p).keys = s.keys := s.sameAt_incSat p HDR.ERRCNT_ACCESS (q := .keys) (by simp)
  rw [State.unlock, hkeys, State.unlock]

@[simp] theorem State.unlock_advance (s : State) (dt : Nat) (p : Page) (r : Nat) :
    (s.advance dt).unlock p r = s.unlock p r := by simp [State.unlock]

@[simp] theorem State.get_setUnlock (s : State) (p : Page) (r : Nat) (u : Unlock) (q : Page) (x : Fld) :
    (s.setUnlock p r u).get q x = s.get q x := rfl

theorem State.keyWrite_first (s : State) (p : Page) (r : Nat) :
    s.keyWrite p r 0x7A3C#32 = s.setUnlock p r (.first s.now) := by simp [State.keyWrite]

theorem State.keyWrite_second {s : State} {p : Page} {r t : Nat} (h : s.unlock p r = .first t) (ht : s.now ≤ t + 64) :
    s.keyWrite p r 0x85C3#32 = s.setUnlock p r (.held s.now) := by simp [State.keyWrite, h, ht]

/-- Every other word, and a second word that is late, cancels the sequence and is counted. -/
theorem State.keyWrite_wrong {s : State} {p : Page} {r : Nat} {val : W32} (h1 : val ≠ 0x7A3C#32)
    (h2 : val = 0x85C3#32 → ∀ t, s.unlock p r = .first t → t + 64 < s.now) :
    s.keyWrite p r val = (s.setUnlock p r .none).refuse p := by
  unfold State.keyWrite
  rw [if_neg h1]
  split
  next t ht =>
    rw [if_neg]
    rintro ⟨hv, hle⟩
    have := h2 hv t ht
    omega
  next => rfl

theorem State.unlock_keyWrite_other (s : State) {p q : Page} {r r' : Nat} (val : W32) (h : pageReq q r' ≠ pageReq p r) :
    (s.keyWrite p r val).unlock q r' = s.unlock q r' := by
  have hset (u : Unlock) : (s.setUnlock p r u).unlock q r' = s.unlock q r' := s.unlock_setUnlock_other u h
  unfold State.keyWrite
  split
  · exact hset _
  · split
    · split
      · exact hset _
      · rw [State.unlock_refuse, hset]
    · rw [State.unlock_refuse, hset]

theorem exec_keyWrite {dt : Nat} {req : Req} {page : Page} {val : W32} {s : State} (hv : pageValid page = true)
    (hh : hasHeader page = true) (hreq : isHalo page = true → req.1 = 2) :
    exec (.keyWrite dt req page val) s = .next ((s.advance dt).keyWrite page req val) := by
  change execKeyWrite dt req page val s = _
  have hnot : (isHalo page && req != 2) = false := by
    cases hb : isHalo page
    · rfl
    · simpa using Fin.ext (hreq hb)
  simp [execKeyWrite, hv, hh, hnot]

/-- Settles O13: the equations of `keyWrite`, with the tick of the write. -/
theorem unlockSequenceOfKey : Obligations.UnlockSequenceOfKey := by
  intro dt req page s hv hh hoff hreq
  have hnow := State.now_advance_of_on hoff dt
  have hin : inPage page HDR.ERRCNT = true := inPage_of_hasHeader hv hh (by decide)
  have hcancel (u : State) : ((u.setUnlock page req .none).refuse page).unlock page req = .none ∧
      ((u.setUnlock page req .none).refuse page).get page HDR.ERRCNT_ACCESS = min 255 (u.get page HDR.ERRCNT_ACCESS + 1) :=
    ⟨by simp, by rw [State.get_refuse _ hin, State.get_setUnlock]⟩
  refine ⟨⟨_, exec_keyWrite hv hh hreq, ?_⟩, fun t0 h0 hle => ⟨_, exec_keyWrite hv hh hreq, ?_⟩,
    fun t0 h0 hlt => ⟨_, exec_keyWrite hv hh hreq, ?_⟩, fun val h1 h2 => ⟨_, exec_keyWrite hv hh hreq, ?_⟩,
    fun t0 h0 hle => ⟨(s.advance dt).setUnlock page req .none, ?_, by simp, (s.advance_regs dt)⟩,
    fun val q r hq hne => ⟨_, exec_keyWrite hv hh hreq, ?_⟩⟩
  · rw [State.keyWrite_first, State.unlock_setUnlock_same, hnow]
  · rw [State.keyWrite_second (t := t0) (by simpa using h0) (by omega)]
    refine ⟨?_, by simp⟩
    rw [State.unlocked, State.unlock_setUnlock_same]
    simp [State.setUnlock]
  · rw [State.keyWrite_wrong (by decide)]
    · simpa using hcancel (s.advance dt)
    · intro _ t ht
      rw [State.unlock_advance, h0] at ht
      cases ht
      omega
  · rw [State.keyWrite_wrong h1 fun h => absurd h h2]
    simpa using hcancel (s.advance dt)
  · change execUnlockLapse dt req page s = _
    simp [execUnlockLapse, h0, hnow, hle]
  · rw [State.unlock_keyWrite_other, State.unlock_advance]
    intro h
    obtain ⟨hp, hr⟩ := pageReq_inj hq hv r.isLt req.isLt h
    exact hne.elim (· hp) (· (Fin.ext hr))

/-! ### Halo pages (R41) -/

/-- A write of another requester than HS to a Halo page is counted, or ignored where there is no register. -/
theorem State.regWrite_halo {s : State} {req addr be val : Nat} {p : Page} (hp : pageAt addr = some p)
    (hh : isHalo p = true) (hreq : req ≠ 2) : s.regWrite req addr be val = s ∨ s.regWrite req addr be val = s.refuse p := by
  have hhead := hasHeader_of_isHalo (pageAt_eq_some hp).1 hh
  have hctx : p.blk ≠ .ctx := by rintro h; simp [hasHeader, h] at hhead
  unfold State.regWrite
  simp only [hp, hctx, false_and, if_false, hh, ne_eq, hreq, not_false_eq_true, and_self, if_true]
  split
  · exact .inl rfl
  · split
    next h => simp [hasHeader, h] at hhead
    next h => simp [hasHeader, h] at hhead
    next =>
      split
      · exact .inl rfl
      · split
        · exact .inl rfl
        · exact .inr rfl

/-- Settles O8, from `regWrite_halo`. -/
theorem haloPagesTakeWritesOfHsOnly : Obligations.HaloPagesTakeWritesOfHsOnly := by
  intro dt req addr be val s p hp hh hreq
  refine ⟨_, rfl, ?_⟩
  have hpage : (s.advance dt).pageWrite req addr be.toNat val.toNat =
      ((s.advance dt).regWrite req addr be.toNat val.toNat).answer .done := by simp [State.pageWrite, hp]
  rw [hpage]
  have hmem : ((s.advance dt).refuse p).mem = (s.advance dt).mem :=
    (s.advance dt).sameAt_incSat p HDR.ERRCNT_ACCESS (q := .mem) (by simp)
  rcases (s.advance dt).regWrite_halo (be := be.toNat) (val := val.toNat) hp hh hreq with h | h <;> rw [h]
  · exact ⟨fun a _ => s.rd_advance dt a, s.rdByte_advance dt⟩
  · refine ⟨fun a ha => ?_, fun a => ?_⟩
    · exact ((s.advance dt).rd_refuse ha).trans (s.rd_advance dt a)
    · change mapGet memDefault ((s.advance dt).refuse p).mem a = _
      rw [hmem]
      exact s.rdByte_advance dt a

end Sys2Proof.Machine
end

section
/-! SUPPORT. Event flags (R44), locks (R58, R59) and the operations of `CSET` (R49 to R52). -/

namespace Sys2Proof.Machine
open Sys2Proof

/-! ### The flags of a page (R44, R61) -/

/-- The change of a summary line reaches no flag and no enable: a channel of DMA that it starts writes its own status words. -/
theorem State.rd_withLine_flags (s : State) (p q : Page) {x : Fld} (f : State → State) (hx : x.off = 0x010 ∨ x.off = 0x014) :
    (s.withLine p f).rd (fldAddr q x) = (f s).rd (fldAddr q x) := by
  have hstart (t : State) (ch : Nat) : (t.dmaBlockStart ch).rd (fldAddr q x) = t.rd (fldAddr q x) := by
    unfold State.dmaBlockStart
    split
    next hch =>
      have hchst : fldAddr q x ≠ fldAddr DMA.pg (DMA.CH_CHST_BUSY.ix ch) := by
        refine fldAddr_ne_of_mod ?_
        simp only [Fld.ix, DMA.CH_CHST_BUSY]
        omega
      have hactive : fldAddr q x ≠ fldAddr DMA.pg DMA.STAT_ACTIVE :=
        fldAddr_ne_of_mod (by rcases hx with h | h <;> rw [h] <;> decide)
      dsimp only
      split
      · exact (State.rd_put_word _ _ hactive).trans (State.rd_put_word _ _ hchst)
      · rfl
    next => rfl
  have htrigger (t : State) (ch : Nat) : (t.evrTrigger ch).rd (fldAddr q x) = t.rd (fldAddr q x) := by
    unfold State.evrTrigger
    split
    · rfl
    · exact hstart t ch
  unfold State.withLine
  dsimp only
  split
  · split
    · split
      · exact htrigger ..
      · rfl
    · rfl
  · rfl

theorem State.get_evt_withLine (s : State) (p q : Page) (f : State → State) :
    (s.withLine p f).get q HDR.EVT = (f s).get q HDR.EVT := State.get_eq_of_rd (s.rd_withLine_flags p q f (.inl rfl)) rfl

theorem State.get_put_evt (s : State) {p : Page} {v : Nat} (hp : inPage p HDR.EVT = true) (hv : v < 2 ^ 32) :
    (s.put p HDR.EVT v).get p HDR.EVT = v := by
  rw [s.get_put_same _ hp (by decide) (by decide)]
  exact Nat.mod_eq_of_lt hv

/-- The flags after an event. -/
theorem State.get_evtBits_evt (s : State) {p : Page} {m : Nat} (hp : inPage p HDR.EVT = true) (hm : m < 2 ^ 32) :
    (s.evtBits p m).get p HDR.EVT = s.get p HDR.EVT ||| m :=
  (s.get_evt_withLine p p _).trans (s.get_put_evt hp (Nat.or_lt_two_pow (bits_lt ..) hm))

/-- The flags after a write to `EVT` that the page takes. -/
theorem State.get_evtClear (s : State) {req v hw : Nat} {p : Page} (hp : inPage p HDR.EVT = true)
    (hreq : isHalo p = true → req = 2) (hw32 : hw < 2 ^ 32) : (s.evtClear req p v hw).get p HDR.EVT =
      (s.get p HDR.EVT &&& (0xFFFFFFFF - v % 2 ^ 32)) ||| (hw &&& evtMask p) := by
  have hnot : ¬(isHalo p = true ∧ req ≠ 2) := fun h => h.2 (hreq h.1)
  unfold State.evtClear
  dsimp only
  rw [if_neg hnot, State.get_evt_withLine]
  refine s.get_put_evt hp (Nat.or_lt_two_pow ?_ (Nat.lt_of_le_of_lt Nat.and_le_left hw32))
  exact Nat.lt_of_le_of_lt Nat.and_le_left (bits_lt ..)

theorem exec_evtClear {dt : Nat} {req : Req} {page : Page} {val hw : W32} {s : State} (hv : pageValid page = true)
    (hh : hasHeader page = true) : exec (.evtClear dt req page val hw) s =
      .next ((s.advance dt).evtClear req page val.toNat hw.toNat) := by
  change execEvtClear dt req page val hw s = _
  simp [execEvtClear, hv, hh]

/-- Settles O14: a write that the page takes leaves the flag of `hw` set, and one that it refuses is followed by the
hardware's event. -/
theorem hardwareSetFlagSurvivesItsClear : Obligations.HardwareSetFlagSurvivesItsClear := by
  intro dt req page val hw s b hv hh hb
  have hin : inPage page HDR.EVT = true := inPage_of_hasHeader hv hh (by decide)
  refine ⟨_, exec_evtClear hv hh, ?_⟩
  by_cases hreq : isHalo page = true ∧ req.1 ≠ 2
  · have hrefused : (s.advance dt).evtClear req page val.toNat hw.toNat =
        ((s.advance dt).refuse page).evtBits page (hw.toNat &&& evtMask page) := by
      simp only [State.evtClear, if_pos hreq]
    rw [hrefused, State.get_evtBits_evt _ hin (Nat.lt_of_le_of_lt Nat.and_le_left hw.isLt), Nat.testBit_or, hb,
      Bool.or_true]
  · rw [State.get_evtClear _ hin (fun h => by_contra fun hne => hreq ⟨h, hne⟩) hw.isLt, Nat.testBit_or, hb, Bool.or_true]

/-! ### Locks (R58, R59) -/

section Lock

variable {s : State} {l req : Nat}

/-- The word of a lock lies in its page, apart from the page's error counts. -/
theorem lockPlace_spec (hl : l < 24) : inPage (lockPlace l).1 ((lockPlace l).2 HDR.OWNER) = true ∧
    inPage (lockPlace l).1 HDR.ERRCNT = true ∧
    fldAddr (lockPlace l).1 HDR.ERRCNT ≠ fldAddr (lockPlace l).1 ((lockPlace l).2 HDR.OWNER) := by
  have hword (p : Page) (hv : pageValid p = true) (hh : hasHeader p = true) : inPage p HDR.OWNER = true ∧
      inPage p HDR.ERRCNT = true ∧ fldAddr p HDR.ERRCNT ≠ fldAddr p HDR.OWNER :=
    ⟨inPage_of_hasHeader hv hh (by decide), inPage_of_hasHeader hv hh (by decide), fldAddr_ne_of_mod (by decide)⟩
  unfold lockPlace
  split
  case isTrue h => exact hword (ADH.pg l) (decide_eq_true h) rfl
  case isFalse =>
    split
    case isTrue h => exact hword (CRC.pg (l - 4)) (decide_eq_true (show l - 4 < 4 by omega)) rfl
    case isFalse =>
      refine ⟨inPage_of_hasHeader rfl rfl ?_, inPage_of_hasHeader rfl rfl (by decide), ?_⟩
      · show 0x028 + 0x108 + 64 * (l - 8) < 0x1000; omega
      · simp only [fldAddr, HDR.OWNER, HDR.ERRCNT]; omega

theorem lockPlace_bits (l : Nat) (x : Fld) : ((lockPlace l).2 x).hi = x.hi ∧ ((lockPlace l).2 x).lo = x.lo := by
  unfold lockPlace
  split
  · exact ⟨rfl, rfl⟩
  · split <;> exact ⟨rfl, rfl⟩

/-- The fields of a lock lie in one word. -/
theorem lockPlace_off (l : Nat) {x y : Fld} (h : x.off = y.off) : ((lockPlace l).2 x).off = ((lockPlace l).2 y).off := by
  unfold lockPlace
  split
  · exact h
  · split
    · exact h
    · simp only [h]

theorem State.lockAcq_free (hl : l < 24) (h : s.on (lockPlace l).1 ((lockPlace l).2 HDR.OWNER_LOCKED) = false) :
    s.lockAcq l req = (s.flag (lockPlace l).1 ((lockPlace l).2 HDR.OWNER_LOCKED) true).put (lockPlace l).1
      ((lockPlace l).2 HDR.OWNER_ID) req := by
  simp [State.lockAcq, h, Nat.not_le.mpr hl]

theorem State.lockAcq_held (hl : l < 24) (h : s.on (lockPlace l).1 ((lockPlace l).2 HDR.OWNER_LOCKED) = true) :
    s.lockAcq l req = s.incSat (lockPlace l).1 HDR.ERRCNT_LOCK := by
  simp [State.lockAcq, h, Nat.not_le.mpr hl]

theorem State.lockRel_holder (hl : l < 24) (h : s.on (lockPlace l).1 ((lockPlace l).2 HDR.OWNER_LOCKED) = true)
    (hid : s.get (lockPlace l).1 ((lockPlace l).2 HDR.OWNER_ID) = req) : s.lockRel l req =
      (s.flag (lockPlace l).1 ((lockPlace l).2 HDR.OWNER_LOCKED) false).lockStop l := by
  simp [State.lockRel, h, hid, Nat.not_le.mpr hl]

theorem State.lockRel_other (hl : l < 24) (hid : s.get (lockPlace l).1 ((lockPlace l).2 HDR.OWNER_ID) ≠ req) :
    s.lockRel l req = s.incSat (lockPlace l).1 HDR.ERRCNT_LOCK := by
  simp [State.lockRel, hid, Nat.not_le.mpr hl]

theorem State.get_lockStop (s : State) (l : Nat) (p : Page) (x : Fld) : (s.lockStop l).get p x = s.get p x := by
  unfold State.lockStop
  split <;> rfl

/-- A field of a lock as it reads after a write of it. -/
theorem State.get_put_lock (hl : l < 24) {x : Fld} {v : Nat} (hx : x.off = 0x028) (hlo : x.lo ≤ x.hi) (hhi : x.hi < 32) :
    (s.put (lockPlace l).1 ((lockPlace l).2 x) v).get (lockPlace l).1 ((lockPlace l).2 x) = v % 2 ^ (x.hi + 1 - x.lo) := by
  obtain ⟨hin, -, -⟩ := lockPlace_spec hl
  obtain ⟨hb, hb'⟩ := lockPlace_bits l x
  rw [State.get_put_same _ _ (inPage_of_off hin (lockPlace_off l hx)) (by omega) (by omega), hb, hb']

/-- A write of a lock's field leaves the count of refusals. -/
theorem State.get_put_lock_count (hl : l < 24) {x : Fld} {v : Nat} (hx : x.off = 0x028) :
    (s.put (lockPlace l).1 ((lockPlace l).2 x) v).get (lockPlace l).1 HDR.ERRCNT_LOCK =
      s.get (lockPlace l).1 HDR.ERRCNT_LOCK := by
  refine s.get_put_word v ?_
  rw [fldAddr, fldAddr, lockPlace_off l (x := x) (y := HDR.OWNER) hx]
  exact (lockPlace_spec hl).2.2

/-- Taking a lock writes its requester, and leaves the counts of its page. -/
theorem State.lockAcq_takes (hl : l < 24) (h : s.on (lockPlace l).1 ((lockPlace l).2 HDR.OWNER_LOCKED) = false)
    (hreq : req < 16) : (s.lockAcq l req).on (lockPlace l).1 ((lockPlace l).2 HDR.OWNER_LOCKED) = true ∧
      (s.lockAcq l req).get (lockPlace l).1 ((lockPlace l).2 HDR.OWNER_ID) = req ∧
      (s.lockAcq l req).get (lockPlace l).1 HDR.ERRCNT_LOCK = s.get (lockPlace l).1 HDR.ERRCNT_LOCK := by
  obtain ⟨hb, hb'⟩ := lockPlace_bits l HDR.OWNER_ID
  obtain ⟨hc, hc'⟩ := lockPlace_bits l HDR.OWNER_LOCKED
  rw [State.lockAcq_free hl h]
  refine ⟨?_, ?_, ?_⟩
  · rw [State.on, State.get_put_bits _ _ (by rw [hb, hb']; decide) (by rw [hb]; decide)
      (by rw [hb, hb', hc, hc']; decide), State.flag, State.get_put_lock hl rfl (by decide) (by decide)]
    rfl
  · rw [State.get_put_lock hl rfl (by decide) (by decide)]
    exact Nat.mod_eq_of_lt hreq
  · rw [State.get_put_lock_count hl rfl, State.flag, State.get_put_lock_count hl rfl]

/-- A refused ACQ or REL is counted, and the lock stays as it is. -/
theorem State.lock_refused (hl : l < 24) {x : Fld} (hx : x.off = 0x028) :
    (s.incSat (lockPlace l).1 HDR.ERRCNT_LOCK).get (lockPlace l).1 ((lockPlace l).2 x) =
        s.get (lockPlace l).1 ((lockPlace l).2 x) ∧
      (s.incSat (lockPlace l).1 HDR.ERRCNT_LOCK).get (lockPlace l).1 HDR.ERRCNT_LOCK =
        min 255 (s.get (lockPlace l).1 HDR.ERRCNT_LOCK + 1) := by
  obtain ⟨-, hin, hne⟩ := lockPlace_spec hl
  refine ⟨State.get_incSat_word _ ?_, s.get_incSat_same (inPage_of_off hin rfl) (by decide) (by decide)⟩
  rw [fldAddr, fldAddr, lockPlace_off l (x := x) (y := HDR.OWNER) hx]
  exact hne.symm

end Lock

/-- Settles O16: of two writers the second finds the lock held. -/
theorem locksGoToTheLowerRequester : Obligations.LocksGoToTheLowerRequester := by
  intro dt req l s
  have hon (x : Fld) : (s.advance dt).on (lockPlace l).1 x = s.on (lockPlace l).1 x := by simp [State.on]
  refine ⟨fun hfree => ?_, fun hheld => ⟨⟨_, rfl, ?_⟩, fun hid => ⟨_, rfl, ?_⟩, fun hid => ⟨_, rfl, ?_⟩⟩⟩
  · have htake (r : Nat) (hr : r < 16) := State.lockAcq_takes (s := s.advance dt) l.isLt (by rw [hon, hfree]) hr
    refine ⟨⟨_, rfl, (htake req req.isLt).1, (htake req req.isLt).2.1⟩, fun q _ => ⟨_, rfl, ?_⟩⟩
    obtain ⟨hlocked, hid, hcount⟩ := htake (min req.1 q.1) (by omega)
    obtain ⟨hlocked', hcount'⟩ := State.lock_refused (s := (s.advance dt).lockAcq l (min req.1 q.1)) l.isLt
      (x := HDR.OWNER_LOCKED) rfl
    rw [State.lockAcq_held l.isLt hlocked, State.on, hlocked', hcount', hcount, State.get_advance]
    exact ⟨hlocked, (State.lock_refused l.isLt rfl).1.trans hid, rfl⟩
  · obtain ⟨hlocked, hcount⟩ := State.lock_refused (s := s.advance dt) l.isLt (x := HDR.OWNER_LOCKED) rfl
    rw [State.lockAcq_held l.isLt (by rw [hon, hheld]), State.on, hlocked, hcount, (State.lock_refused l.isLt rfl).1]
    simpa [State.on] using hheld
  · rw [State.lockRel_holder l.isLt (by rw [hon, hheld]) (by simpa using hid), State.on, State.get_lockStop, State.flag,
      State.get_put_lock l.isLt rfl (by decide) (by decide), State.get_lockStop, State.get_put_lock_count l.isLt rfl,
      State.get_advance]
    exact ⟨rfl, rfl⟩
  · obtain ⟨hlocked, hcount⟩ := State.lock_refused (s := s.advance dt) l.isLt (x := HDR.OWNER_LOCKED) rfl
    rw [State.lockRel_other l.isLt (by simpa using hid), State.on, hlocked, hcount]
    simpa [State.on] using hheld

end Sys2Proof.Machine
end

section
/-! SUPPORT. The operations of `CSET`: who opens a change set, and what STAGE, COMMIT and ABORT show (R49 to R52). -/

namespace Sys2Proof.Machine
open Sys2Proof

/-! ### The set of a requester -/

@[simp] theorem State.setOf_fin (s : State) (r : Fin 16) : s.setOf r = vget s.sets r := by simp [State.setOf]

@[simp] theorem State.sets_setSet (s : State) (r : Fin 16) (c : CSet) : (s.setSet r c).sets = vset s.sets r c := by
  simp [State.setSet]

@[simp] theorem State.get_setSet (s : State) (r : Nat) (c : CSet) (p : Page) (x : Fld) :
    (s.setSet r c).get p x = s.get p x := by
  unfold State.setSet
  split <;> rfl

theorem opensSets_iff (req : Req) : opensSets req = true ↔ req ∈ ([0, 1, 2, 11] : List Req) := by
  revert req; decide

theorem State.pages_of_holder {s : State} {p : Page} {r : Fin 16} (h : s.holder p = some r) :
    (vget s.sets r).pages.contains p = true :=
  List.find?_some (p := fun r : Fin 16 => (vget s.sets r).pages.contains p) h

/-! ### A write to `CSET` -/

/-- The operation that a command row writes. -/
theorem csetRow_ops (v : Nat) {op : Nat} (hop : op &&& 7 = op) : ((v &&& 0xFFFFFFF8) ||| op) &&& beMask 15 &&& 7 = op := by
  have hmask : beMask 15 &&& 7 = 7 := by decide
  rw [Nat.and_assoc, hmask, Nat.and_or_distrib_right, Nat.and_assoc, hop]
  simp

/-- An operation of another requester is counted, and has no other effect (R52). -/
theorem State.csetRow_refused {s : State} {req op : Nat} {p : Page} {val : W32} (hv : pageValid p = true)
    (hh : hasHeader p = true) (hreq : opensSets req = false) (hop : op &&& 7 = op) (h0 : op ≠ 0) :
    s.csetRow req p val op = s.refuse p := by
  simp only [State.csetRow, State.csetWrite, csetRow_ops _ hop, hv, hh, hreq]
  simp [h0]

/-- An operation that is taken acts after the fields of `CSET` are written. -/
theorem State.csetRow_taken {s : State} {req : Req} {op : Nat} {p : Page} {val : W32} (hv : pageValid p = true)
    (hh : hasHeader p = true) (hlow : isHalo p = false) (hreq : req ∈ ([0, 1, 2, 11] : List Req))
    (hopen : (vget s.sets req).committing = false) (hop : op &&& 7 = op)
    (hheld : op.testBit 0 = true → ∀ r, (vget s.sets r).pages.contains p = true → r = req) :
    ∃ w, s.csetRow req p val op =
      let t := s.setWord p HDR.CSET w
      let t := if op.testBit 0 then t.csetStage req p else t
      let t := if op.testBit 1 then t.csetCommit req p else t
      if op.testBit 2 then t.csetAbort req p else t := by
  unfold State.csetRow State.csetWrite
  dsimp only
  rw [csetRow_ops _ hop, if_pos (by simp [hv, hh]), if_neg (by simp [hlow]), if_neg (by simp [(opensSets_iff req).mpr hreq]),
    if_neg]
  · exact ⟨_, rfl⟩
  · rintro ⟨-, hbusy | ⟨hb, hother⟩⟩
    · simp [hopen] at hbusy
    · split at hother
      next r hr => simp [hheld hb r (State.pages_of_holder hr)] at hother
      next => cases hother

/-- Without an open set COMMIT and ABORT report `NO_SET` (R51). -/
theorem State.csetCommit_noSet {s : State} {req : Req} (p : Page) (h : (vget s.sets req).pages = []) :
    s.csetCommit req p = s.csetLast p 7 := by
  unfold State.csetCommit
  simp [h]

theorem State.csetAbort_noSet {s : State} {req : Req} (p : Page) (h : (vget s.sets req).pages = []) :
    s.csetAbort req p = s.csetLast p 7 := by
  unfold State.csetAbort
  simp [h]

/-- A field of `CSET_STAT` reads back. -/
theorem State.get_put_csetStat (s : State) {p : Page} {x : Fld} (v : Nat) (hp : inPage p HDR.CSET_STAT = true)
    (hx : x.off = 0x024) (hl : x.lo ≤ x.hi + 1) (hh : x.hi < 32) : (s.put p x v).get p x = v % 2 ^ (x.hi + 1 - x.lo) :=
  s.get_put_same v (inPage_of_off hp hx) hl hh

/-! ### STAGE (R50) -/

theorem State.mem_csetStage (s : State) (req : Req) (p : Page) : p ∈ (vget (s.csetStage req p).sets req).pages := by
  unfold State.csetStage
  simp only [State.put_sets, State.setOf_fin]
  split
  next h => simpa using h
  next => simp

theorem State.get_csetStage (s : State) (req : Req) {p : Page} (hp : inPage p HDR.CSET_STAT = true) :
    (s.csetStage req p).get p HDR.CSET_STAT_STATE = 1 ∧ (s.csetStage req p).get p HDR.CSET_STAT_SET_OWNER = req ∧
      (s.csetStage req p).get p HDR.CSET_STAT_SPLIT_DONE = 0 := by
  unfold State.csetStage
  refine ⟨?_, ?_, ?_⟩
  · rw [State.get_put_bits _ _ (by decide) (by decide) (by decide), State.get_put_bits _ _ (by decide) (by decide) (by decide),
      State.get_put_csetStat _ _ hp rfl (by decide) (by decide)]
    rfl
  · rw [State.get_put_bits _ _ (by decide) (by decide) (by decide),
      State.get_put_csetStat _ _ hp rfl (by decide) (by decide)]
    exact Nat.mod_eq_of_lt req.isLt
  · rw [State.get_put_csetStat _ _ hp rfl (by decide) (by decide)]
    rfl

/-! ### Results (R51) -/

theorem fldAddr_csetStat_ne_errcnt (p q : Page) : fldAddr p HDR.CSET_STAT ≠ fldAddr q HDR.ERRCNT :=
  fldAddr_ne_of_mod (by decide)

@[simp] theorem State.sets_csetLast (s : State) (p : Page) (code : Nat) : (s.csetLast p code).sets = s.sets :=
  (Kept.csetLast s p code).within .sets (by simp)

theorem State.rd_csetLast (s : State) {p : Page} {code a : Nat} (h1 : a ≠ fldAddr p HDR.CSET_STAT)
    (h2 : a ≠ fldAddr p HDR.ERRCNT) : (s.csetLast p code).rd a = s.rd a := by
  have hput : (s.put p HDR.CSET_STAT_LAST code).rd a = s.rd a := s.rd_put_word _ h1
  unfold State.csetLast
  dsimp only
  split
  · exact hput
  · exact (State.rd_incSat_word (x := HDR.ERRCNT_CSET) _ h2).trans hput

theorem State.get_csetLast_last (s : State) {p : Page} {code : Nat} (hp : inPage p HDR.CSET_STAT = true)
    (hc : code < 16) : (s.csetLast p code).get p HDR.CSET_STAT_LAST = code := by
  have hput : (s.put p HDR.CSET_STAT_LAST code).get p HDR.CSET_STAT_LAST = code := by
    rw [s.get_put_csetStat _ hp rfl (by decide) (by decide)]
    exact Nat.mod_eq_of_lt hc
  unfold State.csetLast
  dsimp only
  split
  · exact hput
  · exact (State.get_incSat_word (x := HDR.ERRCNT_CSET) (y := HDR.CSET_STAT_LAST) _
      (fldAddr_csetStat_ne_errcnt p p)).trans hput

theorem State.get_csetLast_state (s : State) (p q : Page) (code : Nat) :
    (s.csetLast p code).get q HDR.CSET_STAT_STATE = s.get q HDR.CSET_STAT_STATE := by
  have hput : (s.put p HDR.CSET_STAT_LAST code).get q HDR.CSET_STAT_STATE = s.get q HDR.CSET_STAT_STATE :=
    s.get_put_bits _ (by decide) (by decide) (by decide)
  unfold State.csetLast
  dsimp only
  split
  · exact hput
  · exact (State.get_incSat_word (x := HDR.ERRCNT_CSET) (y := HDR.CSET_STAT_STATE) _
      (fldAddr_csetStat_ne_errcnt q p)).trans hput

/-- A page shows the end of its set. -/
def State.shows (s : State) (q : Page) (code : Nat) : Prop :=
  s.get q HDR.CSET_STAT_LAST = code ∧ s.get q HDR.CSET_STAT_STATE = 0

theorem State.shows_same (s : State) {q : Page} {code : Nat} (hq : inPage q HDR.CSET_STAT = true) (hc : code < 16) :
    ((s.put q HDR.CSET_STAT_STATE 0).csetLast q code).shows q code := by
  refine ⟨State.get_csetLast_last _ hq hc, ?_⟩
  exact (State.get_csetLast_state ..).trans (s.get_put_csetStat 0 hq rfl (by decide) (by decide))

theorem State.shows_other {s : State} {p q : Page} {code : Nat} (hp : inPage p HDR.CSET_STAT = true)
    (hq : inPage q HDR.CSET_STAT = true) (hpq : p ≠ q) (h : s.shows q code) :
    ((s.put p HDR.CSET_STAT_STATE 0).csetLast p code).shows q code := by
  have hne : fldAddr q HDR.CSET_STAT ≠ fldAddr p HDR.CSET_STAT := fun he => hpq (fldAddr_inj hq hp he).1.symm
  have hrd := ((s.put p HDR.CSET_STAT_STATE 0).rd_csetLast (code := code) hne (fldAddr_csetStat_ne_errcnt q p)).trans
    (s.rd_put_word (x := HDR.CSET_STAT_STATE) 0 hne)
  exact ⟨(State.get_eq_of_rd (x := HDR.CSET_STAT_LAST) hrd rfl).trans h.1,
    (State.get_eq_of_rd (x := HDR.CSET_STAT_STATE) hrd rfl).trans h.2⟩

/-- The end of a set shows its result on each of its pages. -/
theorem State.shows_csetEnd (s : State) {r : Fin 16} {code : Nat} (hc : code < 16)
    (hl : ∀ p ∈ (vget s.sets r).pages, inPage p HDR.CSET_STAT = true) {q : Page} (hq : q ∈ (vget s.sets r).pages) :
    (s.csetEnd r code).shows q code := by
  suffices h : ∀ (l : List Page) (t : State), (∀ p ∈ l, inPage p HDR.CSET_STAT = true) → q ∈ l ∨ t.shows q code →
      (l.foldl (fun s p => (s.put p HDR.CSET_STAT_STATE 0).csetLast p code) t).shows q code from h _ s hl (.inl hq)
  intro l
  induction l with
  | nil => exact fun t _ h => h.resolve_left (by simp)
  | cons p l ih =>
    intro t hin h
    refine ih _ (fun p' hp' => hin p' (.tail _ hp')) ?_
    by_cases hpq : p = q
    · exact .inr (hpq ▸ t.shows_same (hin p (.head _)) hc)
    · rcases h with h | h
      · exact .inl ((List.mem_cons.mp h).resolve_left fun e => hpq e.symm)
      · exact .inr (State.shows_other (hin p (.head _)) (hl q hq) hpq h)

theorem State.sets_csetEnd (s : State) (r : Fin 16) (code : Nat) : vget (s.csetEnd r code).sets r = CSet.empty := by
  simp [State.csetEnd]

/-- Settles O17: `csetRow_refused`, and `csetRow_taken` with what each operation shows. -/
theorem changeSetsAreOpenedByFourRequesters : Obligations.ChangeSetsAreOpenedByFourRequesters := by
  refine ⟨fun dt req page val s hv hh hreq => ?_, fun dt req page val s hv hh hlow hreq hopen => ?_⟩
  · have hno : opensSets req = false := by
      rw [← Bool.not_eq_true, opensSets_iff]
      exact hreq
    exact ⟨congrArg Host.Outcome.next (State.csetRow_refused hv hh hno rfl (by decide)),
      congrArg Host.Outcome.next (State.csetRow_refused hv hh hno rfl (by decide)),
      congrArg Host.Outcome.next (State.csetRow_refused hv hh hno rfl (by decide))⟩
  · have hin : inPage page HDR.CSET_STAT = true := inPage_of_hasHeader hv hh (by decide)
    have hopen' : (vget (s.advance dt).sets req).committing = false := by simpa using hopen
    obtain ⟨wc, hcommit⟩ := State.csetRow_taken (val := val) (op := 2) hv hh hlow hreq hopen' rfl
      fun h => absurd h (by decide)
    obtain ⟨wa, habort⟩ := State.csetRow_taken (val := val) (op := 4) hv hh hlow hreq hopen' rfl
      fun h => absurd h (by decide)
    simp only [show Nat.testBit 2 0 = false from rfl, show Nat.testBit 2 1 = true from rfl,
      show Nat.testBit 2 2 = false from rfl, if_true, Bool.false_eq_true, if_false] at hcommit
    simp only [show Nat.testBit 4 0 = false from rfl, show Nat.testBit 4 1 = false from rfl,
      show Nat.testBit 4 2 = true from rfl, if_true, Bool.false_eq_true, if_false] at habort
    refine ⟨fun hall => ?_, fun hnone => ⟨?_, ?_⟩, fun hsome hpages => ⟨_, congrArg Host.Outcome.next habort, ?_⟩⟩
    · obtain ⟨ws, hstage⟩ := State.csetRow_taken (val := val) (op := 1) hv hh hlow hreq hopen' rfl
        (fun _ r => by simpa using hall r)
      refine ⟨_, congrArg Host.Outcome.next hstage, ?_⟩
      exact ⟨State.mem_csetStage .., State.get_csetStage _ req hin⟩
    · rw [State.csetCommit_noSet page (by simpa using hnone)] at hcommit
      exact ⟨_, congrArg Host.Outcome.next hcommit, State.get_csetLast_last _ hin (by decide), by simp⟩
    · rw [State.csetAbort_noSet page (by simpa using hnone)] at habort
      exact ⟨_, congrArg Host.Outcome.next habort, State.get_csetLast_last _ hin (by decide), by simp⟩
    · set u := (s.advance dt).setWord page HDR.CSET wa with hu
      have hsets : vget u.sets req = vget s.sets req := by simp [hu]
      have hend : u.csetAbort req page = u.csetEnd req 8 := by
        simp [State.csetAbort, hsets, hsome, hopen]
      change vget (u.csetAbort req page).sets req = CSet.empty ∧
        ∀ q ∈ (vget s.sets req).pages, (u.csetAbort req page).shows q 8
      rw [hend]
      refine ⟨u.sets_csetEnd req 8, fun q hq => u.shows_csetEnd (by decide) (fun p hp => ?_) (hsets ▸ hq)⟩
      rw [hsets] at hp
      exact inPage_of_hasHeader (hpages p hp).1 (hpages p hp).2 (by decide)

end Sys2Proof.Machine
end

section
/-! SUPPORT. A lone access on the bus: the arbiter grants it, memory stores its bytes, and a hole of the map answers an error
(R39, R388, R393). -/

namespace Sys2Proof.Machine
open Sys2Proof

/-! ### Bytes of memory -/

theorem State.rdByte_wrBytes_out (s : State) {a b : Nat} (v n : Nat) (h : b < a ∨ a + n ≤ b) :
    (s.wrBytes a v n).rdByte b = s.rdByte b := by
  induction n generalizing s a v with
  | zero => rfl
  | succ n ih => exact (ih _ _ (by omega)).trans (s.rdByte_wrByte_other _ (by omega))

theorem State.rdBytes_wrBytes_same (s : State) (a v n : Nat) : (s.wrBytes a v n).rdBytes a n = v % 256 ^ n := by
  induction n generalizing s a v with
  | zero => simp [State.rdBytes, Nat.mod_one]
  | succ n ih =>
    have hlow : ((s.wrByte a (BitVec.ofNat 8 v)).wrBytes (a + 1) (v / 256) n).rdByte a = BitVec.ofNat 8 v := by
      rw [State.rdByte_wrBytes_out _ _ _ (by omega), State.rdByte_wrByte_same]
    rw [State.wrBytes, State.rdBytes, hlow, ih, Nat.pow_succ', Nat.mod_mul, BitVec.toNat_ofNat]

theorem State.rdMem_wrMem_same (s : State) (a : Nat) (v : W32) : (s.wrMem a v).rdMem a = v := by
  have hv : v.toNat < 256 ^ 4 := v.isLt
  rw [State.rdMem, State.wrMem, State.rdBytes_wrBytes_same, Nat.mod_eq_of_lt hv, BitVec.ofNat_toNat, BitVec.setWidth_eq]

theorem State.rdByte_of_mem {s t : State} (h : t.mem = s.mem) (a : Nat) : t.rdByte a = s.rdByte a := by
  simp only [State.rdByte, h]

theorem State.rdMem_of_mem {s t : State} (h : t.mem = s.mem) (a : Nat) : t.rdMem a = s.rdMem a := by
  simp only [State.rdMem, State.rdBytes, State.rdByte, h]

/-! ### The arbiter (R393) -/

/-- The round robin counts modulo the sixteen requesters. -/
theorem roundRobin_mod (last : Nat) (rs : List Nat) : roundRobin last rs = roundRobin (last % 16) rs := by
  simp only [roundRobin, Nat.mod_add_mod]

/-- A lone requester is granted, wherever the round robin stands. -/
theorem roundRobin_singleton (last : Nat) (r : Fin 16) : roundRobin last [r.1] = some r.1 := by
  have hall : ∀ l r : Fin 16, roundRobin l.1 [r.1] = some r.1 := by decide
  rw [roundRobin_mod]
  exact hall ⟨last % 16, Nat.mod_lt _ (by decide)⟩ r

theorem roundRobin_nil (last : Nat) : roundRobin last [] = none := by
  simp [roundRobin]

theorem State.arbChoose_alone (s : State) (b : Nat) (r : Fin 16) : ∃ high, s.arbChoose b [r.1] = some (r.1, high) := by
  unfold State.arbChoose
  dsimp only
  rw [List.filter_singleton]
  cases s.arb.high.testBit r.1 && decide (mapGet (fun _ => 0) s.arb.used (16 * b + r.1) < s.arb.quotas.getD r.1 0)
  · exact ⟨false, by simp [roundRobin_nil, roundRobin_singleton]⟩
  · exact ⟨true, by simp [roundRobin_singleton]⟩

/-- A lone request at a bank that no operation keeps is granted, and the grant leaves memory as it was. -/
theorem execBusAccess_alone (dt : Nat) {q : BusReq} {s : State} {b : Nat} (ecc : Ecc)
    (hok : busOk q.req q.addr (busBytes q) q.write.isSome = true) (hb : bankOf q.addr = some b)
    (hfree : ∀ t : State, t.bankBusy q.addr = false) :
    ∃ u : State, exec (.busAccess dt [q] ecc) s = .next (u.busDo q ecc) ∧ u.mem = s.mem := by
  obtain ⟨high, hch⟩ := (s.advance dt).arbRoll.arbChoose_alone b q.req
  refine ⟨(s.advance dt).arbRoll.arbTake b q.req high, ?_, ?_⟩
  · change execBusAccess dt [q] ecc s = _
    unfold execBusAccess
    simp [hok, hb, hfree, hch, State.arbWait]
  · have htake := ((Kept.arbTake (s.advance dt).arbRoll b q.req high).within .mem (by decide) : _ = _)
    have hroll := ((Kept.arbRoll (s.advance dt)).within .mem (by decide) : _ = _)
    exact htake.trans (hroll.trans (s.advance_mem dt))

/-! ### System SRAM -/

theorem regionOf_sram {a : Nat} (hlo : 0x20000000 ≤ a) (hhi : a < 0x20600000) : regionOf a = some .sram := by
  unfold regionOf
  rw [if_neg (by omega), if_neg (by omega), if_pos ⟨hlo, hhi⟩]

theorem bankOf_sram {a : Nat} (hlo : 0x20000000 ≤ a) (hhi : a < 0x20600000) : ∃ b < 24, bankOf a = some b := by
  refine ⟨(a - 0x20000000) / 0x40000, by omega, ?_⟩
  unfold bankOf
  rw [if_neg (by omega), if_neg (by omega), if_neg (by omega), if_neg (by omega), if_pos ⟨hlo, hhi⟩]

/-- No operation keeps a bank of the System SRAM (R391). -/
theorem State.bankBusy_of_lt (s : State) {a b : Nat} (hb : bankOf a = some b) (hlt : b < 24) : s.bankBusy a = false := by
  unfold State.bankBusy
  rw [hb]
  have h25 : b ≠ 25 := by omega
  have h26 : b ≠ 26 := by omega
  have h27 : b ≠ 27 := by omega
  simp [h25, h26, h27]

/-- A word of the System SRAM is stored. -/
theorem State.busDo_store (s : State) {q : BusReq} {v : W32} (hw : q.write = some v)
    (hok : busOk q.req q.addr (busBytes q) true = true) (hreg : regionOf q.addr = some .sram) :
    s.busDo q .none = (s.wrBytes q.addr v.toNat (busBytes q)).answer .done := by
  unfold State.busDo State.busWrite
  simp [hw, hok, hreg]

/-- A load of the System SRAM answers the bytes that stand there. -/
theorem State.busDo_load (s : State) {q : BusReq} (hw : q.write = none)
    (hok : busOk q.req q.addr (busBytes q) false = true) (hreg : regionOf q.addr = some .sram) :
    s.busDo q .none = s.answer (.data (BitVec.ofNat 32 (s.rdBytes q.addr (busBytes q)))) := by
  unfold State.busDo State.busRead
  simp [hw, hok, hreg]

/-! ### Holes of the map -/

/-- DMA ports are the requesters 3 to 6 alone (R397). -/
theorem State.portChannel_none (s : State) {req : Nat} (h : req ≤ 2 ∨ 7 ≤ req) : s.portChannel req = none := by
  have hno : (List.finRange 16).filter (fun c : Fin 16 => dmaPort c == req) = [] := by
    rw [List.filter_eq_nil_iff]
    intro c _
    have := c.isLt
    simp only [dmaPort, beq_iff_eq]
    omega
  unfold State.portChannel
  simp [hno]

theorem State.busError_of_req (s : State) {req : Nat} (a : Nat) (h : req ≤ 2 ∨ 8 ≤ req) :
    s.busError req a = s.answer .error := by
  unfold State.busError
  dsimp only
  rw [if_neg (by omega), State.portChannel_none _ (by omega)]

/-- An access to a hole of the map ends with a bus error before the arbiter (R39). -/
theorem execBusAccess_hole (dt : Nat) {q : BusReq} (ecc : Ecc) (s : State) (hreg : regionOf q.addr = none)
    (hpage : pageAt q.addr = none) (hreq : q.req.1 ≤ 2 ∨ 8 ≤ q.req.1) :
    exec (.busAccess dt [q] ecc) s = .next ((s.advance dt).arbRoll.answer .error) := by
  change execBusAccess dt [q] ecc s = _
  unfold execBusAccess
  simp [busOk, hreg, hpage, State.busError_of_req _ _ hreq]

/-- Settles O21: `execBusAccess_alone` with what a store and a load of SRAM do, and `execBusAccess_hole`. -/
theorem busAccessesReadAndWriteMemory : Obligations.BusAccessesReadAndWriteMemory := by
  refine fun dt req a val s hreq => ⟨fun hlo hhi hal => ?_, fun hreg hpage => ?_⟩
  · have hreg := regionOf_sram hlo hhi
    obtain ⟨b, hlt, hb⟩ := bankOf_sram hlo hhi
    have hok : ∀ store, busOk req a 4 store = true := fun store => by simp [busOk, hreg, hal]
    refine ⟨?_, ?_⟩
    · obtain ⟨u, hu, hmem⟩ := execBusAccess_alone dt (q := ⟨req, a, 2, some val⟩) (s := s) .none (hok true) hb
        fun t => t.bankBusy_of_lt hb hlt
      rw [State.busDo_store u rfl (hok true) hreg] at hu
      exact ⟨_, hu, rfl, u.rdMem_wrMem_same a val, fun c hc =>
        (u.rdByte_wrBytes_out val.toNat 4 hc).trans (State.rdByte_of_mem hmem c)⟩
    · obtain ⟨u, hu, hmem⟩ := execBusAccess_alone dt (q := ⟨req, a, 2, none⟩) (s := s) .none (hok false) hb
        fun t => t.bankBusy_of_lt hb hlt
      rw [State.busDo_load u rfl (hok false) hreg] at hu
      exact ⟨_, hu, congrArg Reply.data (State.rdMem_of_mem hmem a), State.rdByte_of_mem hmem⟩
  · refine ⟨_, execBusAccess_hole dt .none s hreg hpage hreq, rfl, State.rdByte_of_mem ?_⟩
    have hroll := ((Kept.arbRoll (s.advance dt)).within .mem (by decide) : _ = _)
    exact hroll.trans (s.advance_mem dt)

end Sys2Proof.Machine
end

section
/-! SUPPORT. What a bus write forms, stages and stores: the operand layer, and where the writes of plain and of staged fields
lead (R45, R47, R52, R494). -/

namespace Sys2Proof.Machine
open Sys2Proof

/-! ### Bits and masks -/

theorem bits_congr {v w hi lo : Nat} (h : ∀ j, lo ≤ j → j ≤ hi → v.testBit j = w.testBit j) :
    bits v hi lo = bits w hi lo := by
  apply Nat.eq_of_testBit_eq
  intro i
  rw [testBit_bits, testBit_bits]
  by_cases hi' : i < hi + 1 - lo
  · rw [h _ (by omega) (by omega)]
  · simp [hi']

theorem testBit_mask (hi lo j : Nat) : (mask hi lo).testBit j = (decide (lo ≤ j) && decide (j < hi + 1)) := by
  rw [mask, Nat.testBit_shiftLeft, Nat.testBit_two_pow_sub_one]
  by_cases h : lo ≤ j
  · have : j - lo < hi + 1 - lo ↔ j < hi + 1 := by omega
    simp [h, this]
  · simp [h]

/-- The complement of a mask in a word clears each of its bits, also where the mask is wider than a word. -/
theorem testBit_compl_of_testBit {m j : Nat} (h : m.testBit j = true) : (0xFFFFFFFF - m).testBit j = false := by
  by_cases hm : m < 2 ^ 32
  · have hsub : 0xFFFFFFFF - m = 2 ^ 32 - (m + 1) := by omega
    rw [hsub, Nat.testBit_two_pow_sub_succ hm, h]
    simp
  · have hsub : 0xFFFFFFFF - m = 0 := by omega
    rw [hsub, Nat.zero_testBit]

/-- The bits of a register's fields: a bit belongs to them when it belongs to one of those fields. -/
theorem RegDef.testBit_bitsOf (r : RegDef) (P : Acc → Bool) (j : Nat) :
    (r.bitsOf P).testBit j = r.fields.any fun f => P f.acc && f.bits.testBit j := by
  have hfold (l : List FieldDef) (m : Nat) : (l.foldl (fun m f => if P f.acc then m ||| f.bits else m) m).testBit j =
      (m.testBit j || l.any fun f => P f.acc && f.bits.testBit j) := by
    induction l generalizing m with
    | nil => simp
    | cons f l ih =>
      rw [List.foldl_cons, ih, List.any_cons]
      cases P f.acc <;> simp [Nat.testBit_or, Bool.or_assoc]
  exact (hfold r.fields 0).trans (by simp)

/-- A write of all bytes forms the value itself. -/
theorem formWord_full (r : RegDef) (cur : Nat) {val : Nat} (hv : val < 2 ^ 32) : formWord r cur 15 val = val := by
  have hmask : beMask 15 = 2 ^ 32 - 1 := by decide
  have hrest : 0xFFFFFFFF - beMask 15 = 0 := by decide
  rw [formWord, hrest, Nat.and_zero, Nat.or_zero, hmask, Nat.and_two_pow_sub_one_eq_mod, Nat.mod_eq_of_lt hv]

/-! ### Change sets -/

/-- A staged word as the set shows it: the staged bits are those of the value. -/
theorem CSet.testBit_value_stage (c : CSet) (a m v cur : Nat) {j : Nat} (h : m.testBit j = true) :
    ((c.stage a m v).value a cur).testBit j = v.testBit j := by
  have hc := testBit_compl_of_testBit h
  unfold CSet.stage
  cases hfind : c.words.find? fun w => w.addr == a with
  | none =>
    simp only [CSet.value, List.find?_append, hfind, Option.none_or, List.find?_singleton, beq_self_eq_true, if_true,
      Staged.onto, Nat.testBit_or, Nat.testBit_and, h, hc]
    simp
  | some w =>
    have hor : (0xFFFFFFFF - (w.mask ||| m)).testBit j = false :=
      testBit_compl_of_testBit (by rw [Nat.testBit_or, h, Bool.or_true])
    have hmap : (c.words.map fun x => if x.addr = a then
          (⟨a, (w.val &&& (0xFFFFFFFF - m)) ||| (v &&& m), w.mask ||| m⟩ : Staged) else x).find? (fun x => x.addr == a) =
        some ⟨a, (w.val &&& (0xFFFFFFFF - m)) ||| (v &&& m), w.mask ||| m⟩ := by
      obtain ⟨hw, as, bs, hsplit, has⟩ := List.find?_eq_some_iff_append.mp hfind
      have hw' : w.addr = a := by simpa using hw
      rw [hsplit, List.map_append, List.map_cons, List.find?_append, List.find?_eq_none.mpr, Option.none_or, if_pos hw']
      · simp
      · intro x hx
        obtain ⟨y, hy, rfl⟩ := List.mem_map.mp hx
        have hya := has y hy
        by_cases h' : y.addr = a
        · simp [h'] at hya
        · simp [h']
    simp only [CSet.value, hmap, Staged.onto, Nat.testBit_or, Nat.testBit_and, h, hc, hor]
    simp

/-- The bits that a set stages in a word read, for its owner, as the value. -/
theorem State.testBit_present_stage {s : State} {req : Fin 16} {c : CSet} (a m v : Nat) {j : Nat}
    (hset : vget s.sets req = c.stage a m v) (h : m.testBit j = true) : (s.present req a).testBit j = v.testBit j := by
  rw [State.present, State.setOf_fin, hset]
  exact c.testBit_value_stage a m v _ h

/-! ### What passes time unchanged -/

@[simp] theorem State.present_advance (s : State) (dt req a : Nat) : (s.advance dt).present req a = s.present req a := by
  simp [State.present, State.setOf]

@[simp] theorem State.inRange_advance (s : State) (dt req : Nat) (p : Page) (off : Nat) (r : RegDef) (v : Nat) :
    (s.advance dt).inRange req p off r v = s.inRange req p off r v := by
  have hcoef : (s.advance dt).coefNow = s.coefNow := by
    funext req p base j
    simp [State.coefNow]
  simp only [State.inRange, State.rangeOk, State.presentFld, hcoef, State.present_advance]
  rfl

/-! ### Registers of staged fields (R45, R52) -/

/-- A write at this offset commands the block, or does more than its fields say. -/
def actsAt (b : Block) (off : Nat) : Bool :=
  match b with
  | .sys => off == 0x040 || off == 0x05C
  | .rst => off == 0x054
  | .arb => off == 0x050 || off == 0x074
  | .dma => true
  | .crc => decide (0x040 ≤ off ∧ off ≤ 0x058)
  | .tpw => off == 0x050 || decide (0x060 ≤ off ∧ off < 0x06C)
  | .act => off == 0x058 || off == 0x05C || decide (0x070 ≤ off ∧ off < 0x07C)
  | .pos => off == 0x090
  | .cir | .adf => off == 0x050
  | .adh => off == 0x048
  | .dcd => off == 0x058 || off == 0x05C
  | .obc => decide (0x060 ≤ off ∧ off ≤ 0x078)
  | .msv => off == 0x050 || off == 0x054
  | .bch => off == 0x048
  | .can => off == 0x050 || decide (0x080 ≤ off ∧ off ≤ 0x0C8) || off == 0x150 || off == 0x1D0
  | .clf => off == 0x054 || off == 0x05C || (decide (0x100 ≤ off ∧ off < 0x200) && off % 16 == 0xC)
  | .hlo => off == 0x044 || off == 0x048
  | .lks => off == 0x070
  | .sfi | .slg => off == 0x048
  | .sto | .ssf => off == 0x040
  | .scf => off == 0x044 || decide (0x060 ≤ off ∧ off < 0x080)
  | _ => false

/-- Elsewhere a write acts by the access codes of its fields alone. -/
theorem State.regAct_plain (s : State) {req off be v val : Nat} {p : Page} {r : RegDef} (hoff : 0x040 ≤ off)
    (h : actsAt p.blk off = false) : s.regAct req p off be v val r = none := by
  unfold State.regAct
  rw [if_neg (by omega)]
  obtain ⟨b, n⟩ := p
  unfold State.blockWrite
  cases b
  case crc =>
    simp only [actsAt, decide_eq_false_iff_not] at h
    dsimp only
    rw [if_neg (by omega), if_neg (by omega), if_neg (by omega)]
  case obc =>
    simp only [actsAt, decide_eq_false_iff_not] at h
    dsimp only
    rw [if_neg (by omega), if_neg (by omega), if_neg (by omega)]
  case can =>
    simp only [actsAt, Bool.or_eq_false_iff, decide_eq_false_iff_not, beq_eq_false_iff_ne] at h
    dsimp only
    split
    · unfold State.canWrite
      dsimp only
      rw [if_neg (by omega), if_neg (by omega), if_neg (by omega), if_neg (by omega), if_neg (by omega)]
    · rfl
  all_goals simp_all [actsAt, State.haloWrite]

/-- A register that holds staged fields and nothing else that a write can act on. -/
def RegDef.stagedOnly (r : RegDef) : Bool :=
  r.half == .none && r.fields.all (fun f => f.acc == .rws || f.acc == .ro) && r.fields.any fun f => f.acc == .rws

/-- A write at this offset ends SKIPPED of a compare channel (R81). -/
def endsSkipped (b : Block) (off : Nat) : Bool :=
  b == .tbu && decide (0x300 ≤ off ∧ off < 0x400) && off % 16 == 0

/-- What the register maps keep of such registers: their fields are proper, no element of theirs commands the block, and
no staged field holds SKIPPED where a write ends it. -/
def RegDef.stagedOk (b : Block) (r : RegDef) : Bool :=
  r.fields.all (fun f => decide (f.lo ≤ f.hi ∧ f.hi < 32)) &&
    (List.range r.count).all fun i => !actsAt b (r.off + i * r.stride) &&
      (!endsSkipped b (r.off + i * r.stride) || r.fields.all fun f => f.acc != .rws || decide (f.hi < 16 ∨ 16 < f.lo))

theorem blockRegs_stagedOk (b : Block) (hb : b ≠ .dma) :
    ∀ r ∈ blockRegs b, r.stagedOnly = true → r.stagedOk b = true := by
  have hall : ∀ b ∈ allBlocks, b ≠ .dma → ∀ r ∈ blockRegs b, r.stagedOnly = true → r.stagedOk b = true := by
    decide +kernel
  exact hall b (mem_allBlocks b) hb

/-- An element of a register that a page holds. -/
theorem RegDef.off_of_holds {r : RegDef} {off : Nat} (h : r.holds off = true) :
    ∃ i < r.count, off = r.off + i * r.stride := by
  simp only [RegDef.holds, Bool.and_eq_true, decide_eq_true_eq] at h
  obtain ⟨⟨hle, hmod⟩, hlt⟩ := h
  have := Nat.div_add_mod (off - r.off) r.stride
  rw [Nat.mul_comm] at this
  exact ⟨_, hlt, by omega⟩

theorem holds_of_regAt {p : Page} {off : Nat} {r : RegDef} (h : regAt p off = some r) : r.holds off = true :=
  List.find?_some (p := fun r : RegDef => r.holds off) h

/-- A register above the header stands in the block's own map. -/
theorem mem_blockRegs_of_regAt {p : Page} {off : Nat} {r : RegDef} (hoff : 0x040 ≤ off) (h : regAt p off = some r) :
    r ∈ blockRegs p.blk := by
  refine (List.mem_append.mp (List.mem_of_find?_eq_some h)).resolve_right fun hm => ?_
  have hlow : ∀ q ∈ headerRegs p, q.off < 0x030 ∧ q.count = 1 ∧ q.stride = 4 := by simp [headerRegs]
  obtain ⟨i, hi, hoi⟩ := RegDef.off_of_holds (holds_of_regAt h)
  have hr := hlow r (by split at hm <;> simp_all)
  obtain ⟨hlow1, hcount, hstride⟩ := hr
  rw [hstride] at hoi
  omega

theorem regAt_stagedOk {p : Page} {off : Nat} {r : RegDef} (hb : p.blk ≠ .dma) (hoff : 0x040 ≤ off)
    (h : regAt p off = some r) (hs : r.stagedOnly = true) :
    (∀ f ∈ r.fields, f.lo ≤ f.hi ∧ f.hi < 32) ∧ actsAt p.blk off = false ∧
      (endsSkipped p.blk off = true → ∀ f ∈ r.fields, f.acc = .rws → f.hi < 16 ∨ 16 < f.lo) := by
  have hok := blockRegs_stagedOk _ hb r (mem_blockRegs_of_regAt hoff h) hs
  obtain ⟨i, hi, rfl⟩ := RegDef.off_of_holds (holds_of_regAt h)
  simp only [RegDef.stagedOk, Bool.and_eq_true, List.all_eq_true, decide_eq_true_eq, List.mem_range, Bool.not_eq_true',
    Bool.or_eq_true, bne_iff_ne] at hok
  obtain ⟨hf, hel⟩ := hok
  refine ⟨hf, (hel i hi).1, fun he f hm ha => ?_⟩
  exact ((hel i hi).2.resolve_left (by simp [he]) f hm).resolve_left (by simp [ha])

/-- The bits that a write to such a register stages. -/
def RegDef.stagedBits (r : RegDef) : Nat := r.bitsOf fun c => c.staged && !c.keyed

theorem RegDef.testBit_stagedBits {r : RegDef} {f : FieldDef} {j : Nat} (hf : f ∈ r.fields) (ha : f.acc = .rws)
    (hlo : f.lo ≤ j) (hhi : j ≤ f.hi) : r.stagedBits.testBit j = true := by
  rw [RegDef.stagedBits, r.testBit_bitsOf, List.any_eq_true]
  refine ⟨f, hf, ?_⟩
  have : j < f.hi + 1 := by omega
  simp [ha, Acc.staged, Acc.keyed, FieldDef.bits, testBit_mask, hlo, this]

section
variable {r : RegDef} (hs : r.stagedOnly = true)
include hs

theorem RegDef.acc_of_stagedOnly : ∀ f ∈ r.fields, f.acc = .rws ∨ f.acc = .ro := by
  simp only [RegDef.stagedOnly, Bool.and_eq_true, List.all_eq_true, Bool.or_eq_true, beq_iff_eq] at hs
  exact hs.1.2

/-- Nothing of such a register acts in the writing handshake. -/
theorem RegDef.apply_of_stagedOnly (cur v : Nat) : r.apply cur v = cur := by
  have hfold : ∀ l : List FieldDef, (∀ f ∈ l, f.acc = .rws ∨ f.acc = .ro) → l.foldl (fun c f =>
      match f.acc with
      | .rw => setBits c f.hi f.lo (f.val v)
      | .w1c => c &&& (0xFFFFFFFF - (v &&& f.bits))
      | .cz => if f.val v = 0 then setBits c f.hi f.lo 0 else c
      | _ => c) cur = cur := by
    intro l hl
    induction l with
    | nil => rfl
    | cons f l ih =>
      rw [List.foldl_cons]
      rcases hl f (.head _) with h | h <;> simp only [h] <;> exact ih fun g hg => hl g (.tail _ hg)
  exact hfold r.fields (RegDef.acc_of_stagedOnly hs)

/-- A write to such a register stages its fields, or is refused as a whole. -/
theorem State.storeWord_staged {s : State} {req p off be v} (hbits : r.stagedBits ≠ 0)
    (hin : s.inRange req p off r v = true) :
    s.storeWord req p off be r v =
      let may := s.mayStage req p off && s.safetyOk req (s.rd (pageBase p + off)).toNat v (r.safeMask &&& r.stagedBits)
      let t := s.setWord p ⟨off, 31, 0, 0⟩ (s.rd (pageBase p + off))
      (!may, if may then t.setSet req ((t.setOf req).stage (pageBase p + off) r.stagedBits v) else t) := by
  have hacc := RegDef.acc_of_stagedOnly hs
  have hkeyed : (r.fields.any fun f => f.acc.keyed && f.hit be) = false := by
    rw [List.any_eq_false]
    intro f hf
    rcases hacc f hf with h | h <;> simp [h, Acc.keyed]
  have hpure : (r.fields.all fun f => f.acc.staged || !f.acc.writable) = true := by
    rw [List.all_eq_true]
    intro f hf
    rcases hacc f hf with h | h <;> simp [h, Acc.staged, Acc.writable]
  have hst : (r.bitsOf fun c => c.staged && !c.keyed) = r.stagedBits := rfl
  unfold State.storeWord
  simp [hkeyed, hpure, hin, RegDef.apply_of_stagedOnly hs, hst, hbits]

end

end Sys2Proof.Machine
end

section
/-! SUPPORT. Register writes: how a write on the bus reaches its register, and what it leaves there (R41, R44, R45, R47, R50). -/

namespace Sys2Proof.Machine
open Sys2Proof

/-! ### From the bus to the register -/

theorem blk_of_hasHeader {p : Page} (h : hasHeader p = true) : p.blk ≠ .ctx ∧ p.blk ≠ .bank ∧ p.blk ≠ .route := by
  obtain ⟨b, n⟩ := p
  refine ⟨?_, ?_, ?_⟩ <;> rintro rfl <;> cases h

theorem errPage_of_hasHeader {p : Page} (h : hasHeader p = true) : errPage p = p := by
  obtain ⟨h1, h2, h3⟩ := blk_of_hasHeader h
  unfold errPage
  split <;> simp_all

/-- The value that a write to a register forms. -/
def State.formed (s : State) (req : Nat) (p : Page) (off be val : Nat) (r : RegDef) : Nat :=
  formWord r (s.present req (pageBase p + off)) be val

/-- What a write does at the register that it reaches: a command, a half of a 64-bit value, or the fields by their codes. -/
def State.regDone (s : State) (req : Nat) (p : Page) (off be v val : Nat) (r : RegDef) : State :=
  match s.regAct req p off be v val r with
  | some t => t
  | none =>
    match r.half with
    | .lo => s.holdLo req p off v
    | .hi => s.storeHi req p off be r v
    | .none => (s.regStore req p off be r v).afterWrite req p off v

section
variable {s : State} {req off be val : Nat} {p : Page} {r : RegDef} (hv : pageValid p = true) (hh : hasHeader p = true)
  (hreq : isHalo p = true → req = 2) (hoff : off < 0x1000) (hal : off % 4 = 0) (hbe : be ≠ 0) (hr : regAt p off = some r)
  (hw : (r.fields.any fun f => f.acc.writable) = true)
include hv hh hreq hoff hal hbe hr hw

/-- A write that the page takes reaches its register. -/
theorem State.regWrite_reg :
    s.regWrite req (pageBase p + off) be val = s.regDone req p off be (s.formed req p off be val r) val r := by
  have hpage : pageAt (pageBase p + off) = some p :=
    pageAt_of_mem hv (by omega) (by rw [pageSize_of_hasHeader hh]; omega)
  have hmod := pageBase_mod p
  have haddr : (pageBase p + off) / 4 * 4 - pageBase p = off := by omega
  have hhalo : ¬(isHalo p = true ∧ req ≠ 2) := fun h => h.2 (hreq h.1)
  obtain ⟨hctx, hbank, hroute⟩ := blk_of_hasHeader hh
  unfold State.regWrite State.formed
  rw [hpage]
  dsimp only
  rw [if_neg hbe, haddr]
  split
  next h => exact absurd h hbank
  next h => exact absurd h hroute
  next =>
    simp only [hr, hw, Bool.not_true, Bool.false_eq_true, if_false, if_neg hhalo] <;> rfl

/-- A write to a register that commands its block. -/
theorem State.regWrite_act {t : State} (hact : s.regAct req p off be (s.formed req p off be val r) val r = some t) :
    s.regWrite req (pageBase p + off) be val = t := by
  rw [State.regWrite_reg hv hh hreq hoff hal hbe hr hw, State.regDone, hact]

/-- A write to a register whose fields say all that it does. -/
theorem State.regWrite_plain (hact : s.regAct req p off be (s.formed req p off be val r) val r = none)
    (hhalf : r.half = .none) : s.regWrite req (pageBase p + off) be val =
      (s.regStore req p off be r (s.formed req p off be val r)).afterWrite req p off (s.formed req p off be val r) := by
  rw [State.regWrite_reg hv hh hreq hoff hal hbe hr hw, State.regDone, hact, hhalf]

end

/-- A write to a listed page is answered as done. -/
theorem exec_registerWrite {dt : Nat} {req : Req} {p : Page} {off : Nat} {be : BitVec 4} {val : W32} {s : State}
    (hv : pageValid p = true) (hoff : off < pageSize p.blk) :
    exec (.registerWrite dt req (pageBase p + off) be val) s =
      .next (((s.advance dt).regWrite req (pageBase p + off) be.toNat val.toNat).answer .done) := by
  change Host.Outcome.next ((s.advance dt).pageWrite req (pageBase p + off) be.toNat val.toNat) = _
  simp [State.pageWrite, pageAt_of_mem hv (Nat.le_add_right _ off) (Nat.add_lt_add_left hoff _)]

@[simp] theorem State.rd_answer (s : State) (x : Reply) (a : Nat) : (s.answer x).rd a = s.rd a := rfl
@[simp] theorem State.get_answer (s : State) (x : Reply) (p : Page) (y : Fld) : (s.answer x).get p y = s.get p y := rfl
@[simp] theorem State.present_answer (s : State) (x : Reply) (req a : Nat) : (s.answer x).present req a = s.present req a := rfl

/-! ### Staged fields -/

/-- Above the header, and away from the commands of its block, a write has no effect beside its fields but the end of
SKIPPED (R81). -/
theorem State.afterWrite_plain (s : State) {req off v : Nat} {p : Page} (hoff : 0x040 ≤ off)
    (h : actsAt p.blk off = false) : s.afterWrite req p off v = s ∨
      endsSkipped p.blk off = true ∧ s.afterWrite req p off v = s.flag p ⟨off, 16, 16, 16⟩ false := by
  unfold State.afterWrite
  rw [if_neg (by omega)]
  obtain ⟨b, n⟩ := p
  cases b
  case tbu =>
    dsimp only
    split
    next hin =>
      have hix : TBU.CMP_CFG_SKIPPED.ix ((off - 0x300) / 16) = ⟨off, 16, 16, 16⟩ := by
        simp only [Fld.ix, TBU.CMP_CFG_SKIPPED]
        congr 1
        omega
      exact .inr ⟨by simp [endsSkipped, hin], by rw [hix]⟩
    next => exact .inl rfl
  case adh =>
    simp only [actsAt, beq_eq_false_iff_ne] at h
    dsimp only
    split <;> exact .inl rfl
  all_goals exact .inl rfl

/-- What the end of SKIPPED leaves: every change set, every other word, and the fields beside bit 16. -/
theorem State.afterWrite_keeps (s : State) {req off v : Nat} {p : Page} (hoff : 0x040 ≤ off)
    (h : actsAt p.blk off = false) :
    (s.afterWrite req p off v).sets = s.sets ∧
      (∀ y : Fld, y.off < 0x040 → (s.afterWrite req p off v).get p y = s.get p y) ∧
      ∀ y : Fld, (endsSkipped p.blk off = true → y.hi < 16 ∨ 16 < y.lo) →
        (s.afterWrite req p off v).get p y = s.get p y := by
  rcases s.afterWrite_plain (req := req) (v := v) hoff h with h | ⟨he, h⟩ <;> rw [h]
  · exact ⟨rfl, fun _ _ => rfl, fun _ _ => rfl⟩
  · refine ⟨State.put_sets .., fun y hy => s.get_put_word _ ?_, fun y hy => s.get_put_bits _ (by simp) (by simp) (hy he)⟩
    simp only [fldAddr]
    omega

/-- The set of the writer takes a write to a register of staged fields: it is open, and no safety parameter is closed to
the writer (R45, R362). -/
def State.takes (s : State) (req : Req) (p : Page) (r : RegDef) : Prop :=
  (vget s.sets req).committing = false ∧ p ∈ (vget s.sets req).pages ∧
    (s.dstate ≠ .service ∨ r.safeMask = 0 ∨ req.1 = 2 ∧ s.scfAuth = true ∧ s.scfUnset = false)

theorem State.staging_iff (s : State) (req : Req) {p : Page} (h : p.blk ≠ .ctx) :
    s.staging req p = true ↔ (vget s.sets req).committing = false ∧ p ∈ (vget s.sets req).pages := by
  simp [State.staging, stagePage, h]

theorem State.mayStage_eq (s : State) (req : Nat) {p : Page} (off : Nat) (h : p.blk ≠ .dma) :
    s.mayStage req p off = s.staging req p := by
  simp [State.mayStage, h]

theorem State.safetyOk_of_takes {s : State} {req : Req} {p : Page} {r : RegDef} (h : s.takes req p r) (cur v m : Nat) :
    s.safetyOk req cur v (r.safeMask &&& m) = true := by
  unfold State.safetyOk
  rcases h.2.2 with h | h | ⟨h1, h2, h3⟩
  · simp [h]
  · simp [h]
  · simp [h1, h2, h3]

section
variable {s : State} {req : Req} {off be val : Nat} {p : Page} {r : RegDef} (hv : pageValid p = true)
  (hh : hasHeader p = true) (hreq : isHalo p = true → req.1 = 2) (hdma : p.blk ≠ .dma) (hlo : 0x040 ≤ off)
  (hoff : off < 0x1000) (hal : off % 4 = 0) (hbe : be ≠ 0) (hr : regAt p off = some r) (hs : r.stagedOnly = true)
  (hin : s.inRange req p off r (s.formed req p off be val r) = true)
include hv hh hreq hdma hlo hoff hal hbe hr hs hin

theorem State.regWrite_staged : s.regWrite req (pageBase p + off) be val =
    let v := s.formed req p off be val r
    let t := s.setWord p ⟨off, 31, 0, 0⟩ (s.rd (pageBase p + off))
    (if s.staging req p && s.safetyOk req (s.rd (pageBase p + off)).toNat v (r.safeMask &&& r.stagedBits) then
      t.setSet req ((vget s.sets req).stage (pageBase p + off) r.stagedBits v) else t.refuse p).afterWrite req p off v := by
  obtain ⟨hproper, hact, -⟩ := regAt_stagedOk hdma hlo hr hs
  have hhalf : r.half = .none := by simp_all [RegDef.stagedOnly]
  have hany : ∃ f ∈ r.fields, f.acc = .rws := by simpa [RegDef.stagedOnly] using (Bool.and_eq_true_iff.mp hs).2
  obtain ⟨f, hf, ha⟩ := hany
  have hw : (r.fields.any fun f => f.acc.writable) = true :=
    List.any_eq_true.mpr ⟨f, hf, by rw [ha]; rfl⟩
  have hbits : r.stagedBits ≠ 0 := fun h0 => by
    have := RegDef.testBit_stagedBits hf ha le_rfl (hproper f hf).1
    simp [h0] at this
  rw [State.regWrite_plain hv hh hreq hoff hal hbe hr hw (s.regAct_plain hlo hact) hhalf]
  unfold State.regStore
  rw [State.storeWord_staged hs hbits hin, errPage_of_hasHeader hh, s.mayStage_eq req off hdma]
  dsimp only
  cases s.staging req p && s.safetyOk req (s.rd (pageBase p + off)).toNat (s.formed req p off be val r)
    (r.safeMask &&& r.stagedBits) <;> simp

/-- The open set takes the staged fields; the active values and the counts stay. -/
theorem State.regWrite_staged_open (htakes : s.takes req p r) :
    let t := s.regWrite req (pageBase p + off) be val
    vget t.sets req = (vget s.sets req).stage (pageBase p + off) r.stagedBits (s.formed req p off be val r) ∧
      (∀ f ∈ r.fields, f.acc = .rws → t.get p ⟨off, f.hi, f.lo, 0⟩ = s.get p ⟨off, f.hi, f.lo, 0⟩) ∧
      t.get p HDR.ERRCNT_ACCESS = s.get p HDR.ERRCNT_ACCESS := by
  obtain ⟨-, hact, hskip⟩ := regAt_stagedOk hdma hlo hr hs
  have hst : s.staging req p = true := (s.staging_iff req (blk_of_hasHeader hh).1).mpr ⟨htakes.1, htakes.2.1⟩
  have hinp : inPage p ⟨off, 31, 0, 0⟩ = true := inPage_of_hasHeader hv hh hoff
  have hsame (a : Nat) : (s.setWord p ⟨off, 31, 0, 0⟩ (s.rd (pageBase p + off))).rd a = s.rd a := by
    by_cases ha : a = fldAddr p ⟨off, 31, 0, 0⟩
    · rw [ha]; exact s.rd_setWord_same _ hinp
    · exact s.rd_setWord_other _ ha
  have hget (y : Fld) : (s.setWord p ⟨off, 31, 0, 0⟩ (s.rd (pageBase p + off))).get p y = s.get p y :=
    State.get_eq_of_rd (hsame _) rfl
  dsimp only
  rw [State.regWrite_staged hv hh hreq hdma hlo hoff hal hbe hr hs hin]
  dsimp only
  rw [hst, State.safetyOk_of_takes htakes, Bool.and_self, if_pos rfl]
  obtain ⟨hsets, hlow, hfld⟩ := ((s.setWord p ⟨off, 31, 0, 0⟩ (s.rd (pageBase p + off))).setSet req
    ((vget s.sets req).stage (pageBase p + off) r.stagedBits (s.formed req p off be val r))).afterWrite_keeps (req := req)
      (v := s.formed req p off be val r) hlo hact
  refine ⟨by rw [hsets]; simp, fun f hf ha => ?_, ?_⟩
  · rw [hfld _ fun he => hskip he f hf ha, State.get_setSet, hget]
  · rw [hlow _ (by decide), State.get_setSet, hget]

/-- A set that is not open takes nothing, and the write is counted. -/
theorem State.regWrite_staged_closed (hclosed : s.staging req p = false) :
    let t := s.regWrite req (pageBase p + off) be val
    t.sets = s.sets ∧ t.get p HDR.ERRCNT_ACCESS = min 255 (s.get p HDR.ERRCNT_ACCESS + 1) := by
  obtain ⟨-, hact, -⟩ := regAt_stagedOk hdma hlo hr hs
  dsimp only
  rw [State.regWrite_staged hv hh hreq hdma hlo hoff hal hbe hr hs hin]
  dsimp only
  rw [hclosed, Bool.false_and, if_neg (by decide)]
  set u := s.setWord p ⟨off, 31, 0, 0⟩ (s.rd (pageBase p + off)) with hu
  obtain ⟨hsets, hlow, -⟩ := (u.refuse p).afterWrite_keeps (req := req) (v := s.formed req p off be val r) hlo hact
  have hrefuse : (u.refuse p).sets = u.sets := u.sameAt_incSat p HDR.ERRCNT_ACCESS (q := .sets) (by simp)
  have hcount : u.get p HDR.ERRCNT_ACCESS = s.get p HDR.ERRCNT_ACCESS := by
    refine State.get_eq_of_rd (s.rd_setWord_other _ ?_) rfl
    simp only [fldAddr, HDR.ERRCNT_ACCESS]
    omega
  refine ⟨by rw [hsets, hrefuse, hu, State.setWord_sets], ?_⟩
  rw [hlow _ (by decide), u.get_refuse (inPage_of_hasHeader hv hh (by decide)), hcount]

end

end Sys2Proof.Machine
end

section
/-! SUPPORT. Writes to the words of the common header and to words of one plain field (R41, R44, R45, R47). -/

namespace Sys2Proof.Machine
open Sys2Proof

/-! ### The common header (R41, R44, R47) -/

/-- No block gives `EVT_EN` or `ERRCNT` a map of its own. -/
theorem blockRegs_header (b : Block) :
    ∀ r ∈ blockRegs b, hasHeader ⟨b, 0⟩ = true → r.holds 0x014 = false ∧ r.holds 0x02C = false := by
  have hall : ∀ b ∈ allBlocks, ∀ r ∈ blockRegs b, hasHeader ⟨b, 0⟩ = true →
      r.holds 0x014 = false ∧ r.holds 0x02C = false := by
    decide +kernel
  exact hall b (mem_allBlocks b)

/-- The register map of `ERRCNT`. -/
def errcntReg : RegDef :=
  ⟨0x02C, 1, 4, .none, 0, [⟨31, 24, .cz, 0, 255, false⟩, ⟨23, 16, .cz, 0, 255, false⟩, ⟨15, 8, .cz, 0, 255, false⟩,
    ⟨7, 0, .cz, 0, 255, false⟩]⟩

theorem regAt_header {p : Page} (hh : hasHeader p = true) :
    regAt p 0x014 = some ⟨0x014, 1, 4, .none, 0, [⟨31, 0, .rw, 0, 0xFFFFFFFF, false⟩]⟩ ∧
      regAt p 0x02C = some errcntReg := by
  have hown : ∀ r ∈ blockRegs p.blk, r.holds 0x014 = false ∧ r.holds 0x02C = false :=
    fun r hr => blockRegs_header p.blk r hr hh
  have h14 : (blockRegs p.blk).find? (fun r => r.holds 0x014) = none :=
    List.find?_eq_none.mpr fun r hr => by simp [(hown r hr).1]
  have h2C : (blockRegs p.blk).find? (fun r => r.holds 0x02C) = none :=
    List.find?_eq_none.mpr fun r hr => by simp [(hown r hr).2]
  unfold regAt pageRegs
  rw [if_pos hh, List.find?_append, List.find?_append, h14, h2C]
  simp [headerRegs, RegDef.holds, errcntReg]

/-- A write of all bytes forms the written value. -/
theorem exec_registerWrite_full {dt : Nat} {req : Req} {p : Page} {off : Nat} {val : W32} {s : State}
    (hv : pageValid p = true) (hoff : off < pageSize p.blk) :
    exec (.registerWrite dt req (pageBase p + off) 15 val) s =
      .next (((s.advance dt).regWrite req (pageBase p + off) 15 val.toNat).answer .done) := exec_registerWrite hv hoff

theorem State.formed_full (s : State) (req : Nat) (p : Page) (off : Nat) (val : W32) (r : RegDef) :
    s.formed req p off 15 val.toNat r = val.toNat := formWord_full _ _ val.isLt

/-- A write to `EVT_EN` of a page below Halo takes the enables of the events that the page defines. -/
theorem exec_write_evtEn (dt : Nat) (req : Req) (val : W32) (s : State) {p : Page} (hv : pageValid p = true)
    (hh : hasHeader p = true) (hlow : isHalo p = false) :
    ∃ t, exec (.registerWrite dt req (fldAddr p HDR.EVT_EN) 15 val) s = .next t ∧
      t.get p HDR.EVT_EN = val.toNat &&& evtMask p := by
  have hin : inPage p HDR.EVT_EN = true := inPage_of_hasHeader hv hh (by decide)
  have hsize : HDR.EVT_EN.off < pageSize p.blk := by rw [pageSize_of_hasHeader hh]; decide
  refine ⟨_, exec_registerWrite_full hv hsize, ?_⟩
  have hact (u : State) (r : RegDef) (v : Nat) : u.regAct req p HDR.EVT_EN.off 15 v val.toNat r =
      some (u.withLine p fun s => s.put p HDR.EVT_EN (v &&& evtMask p)) := by
    simp [State.regAct, HDR.EVT_EN, hh, State.headerWrite]
  rw [State.get_answer, State.regWrite_act (off := HDR.EVT_EN.off) hv hh (by simp [hlow]) (by decide) (by decide)
    (by decide) (regAt_header hh).1 rfl (hact ..), State.formed_full]
  rw [State.get_eq_of_rd (x := HDR.EVT_EN) (State.rd_withLine_flags _ p p _ (.inr rfl)) rfl,
    State.get_put_same _ _ hin (by decide) (by decide)]
  exact Nat.mod_eq_of_lt (Nat.lt_of_le_of_lt Nat.and_le_left val.isLt)

/-- A field that a write clears under a condition. -/
theorem bits_clear_same (P : Prop) [Decidable P] (c : Nat) {hi lo : Nat} (h : lo ≤ hi + 1) :
    bits (if P then setBits c hi lo 0 else c) hi lo = if P then 0 else bits c hi lo := by
  split
  · rw [bits_setBits_same _ _ _ _ h, Nat.zero_mod]
  · rfl

theorem bits_clear_other (P : Prop) [Decidable P] (c : Nat) {hi lo hi' lo' : Nat} (h : lo ≤ hi + 1)
    (hd : hi' < lo ∨ hi < lo') : bits (if P then setBits c hi lo 0 else c) hi' lo' = bits c hi' lo' := by
  split
  · exact bits_setBits_other _ _ _ _ _ _ h hd
  · rfl

theorem clear_lt (P : Prop) [Decidable P] {c hi lo : Nat} (h : lo ≤ hi + 1) (hh : hi < 32) (hc : c < 2 ^ 32) :
    (if P then setBits c hi lo 0 else c) < 2 ^ 32 := by
  split
  · exact setBits_lt _ _ _ _ _ h hh hc
  · exact hc

/-- The counts after a write to `ERRCNT` (R47): each field is cleared by a 0, and left by any other value. -/
theorem bits_errcnt_apply (cur v : Nat) {x : Fld}
    (hx : x ∈ [HDR.ERRCNT_LOCK, HDR.ERRCNT_CSET, HDR.ERRCNT_ACCESS, HDR.ERRCNT_CMD]) :
    bits (errcntReg.apply cur v) x.hi x.lo = if bits v x.hi x.lo = 0 then 0 else bits cur x.hi x.lo := by
  simp only [List.mem_cons, List.not_mem_nil, or_false] at hx
  simp only [RegDef.apply, errcntReg, List.foldl_cons, List.foldl_nil]
  rcases hx with rfl | rfl | rfl | rfl <;>
    simp (disch := decide) only [HDR.ERRCNT_LOCK, HDR.ERRCNT_CSET, HDR.ERRCNT_ACCESS, HDR.ERRCNT_CMD, bits_clear_other,
      bits_clear_same] <;> rfl

theorem errcnt_apply_lt {cur : Nat} (v : Nat) (hc : cur < 2 ^ 32) : errcntReg.apply cur v < 2 ^ 32 :=
  clear_lt _ (by decide) (by decide) (clear_lt _ (by decide) (by decide) (clear_lt _ (by decide) (by decide)
    (clear_lt _ (by decide) (by decide) hc)))

/-! ### Fields that act in the writing handshake (R45) -/

/-- Such a register: nothing of it is staged, needs the unlock, or has a range of its own. -/
def RegDef.direct (r : RegDef) : Prop :=
  r.half = .none ∧ ∀ f ∈ r.fields, f.acc = .cz ∨ f.acc = .rw ∧ f.min = 0 ∧ f.max = 0xFFFFFFFF

/-- A write to such a register applies the access codes of its fields. -/
theorem State.regStore_direct {s : State} {req off be v : Nat} {p : Page} {r : RegDef} (h : r.direct) (hv : v < 2 ^ 32)
    (hrange : s.rangeOk req p off v = true) :
    s.regStore req p off be r v =
      s.setWord p ⟨off, 31, 0, 0⟩ (BitVec.ofNat 32 (r.apply (s.rd (pageBase p + off)).toNat v)) := by
  obtain ⟨-, hf⟩ := h
  have hkeyed : (r.fields.any fun f => f.acc.keyed && f.hit be) = false := by
    rw [List.any_eq_false]
    intro f hm
    rcases hf f hm with h | ⟨h, -⟩ <;> simp [h, Acc.keyed]
  have hin : (r.fields.all fun f => f.inRange v) = true := by
    rw [List.all_eq_true]
    intro f hm
    rcases hf f hm with h | ⟨h, hmin, hmax⟩
    · simp [FieldDef.inRange, h]
    · have hle : f.val v ≤ v := (Nat.mod_le _ _).trans (Nat.shiftRight_le _ _)
      simp only [FieldDef.inRange, h, hmin, hmax, decide_eq_true_eq]
      omega
  have hbits : (r.bitsOf fun c => c.staged && !c.keyed) = 0 := by
    apply Nat.eq_of_testBit_eq
    intro j
    rw [r.testBit_bitsOf, Nat.zero_testBit, List.any_eq_false]
    intro f hm
    rcases hf f hm with h | ⟨h, -⟩ <;> simp [h, Acc.staged]
  unfold State.regStore State.storeWord State.inRange
  simp [hkeyed, hin, hrange, hbits]

/-- A write to `ERRCNT` of a page below Halo clears the counts whose field is 0. -/
theorem exec_write_errcnt (dt : Nat) (req : Req) (val : W32) (s : State) {p : Page} (hv : pageValid p = true)
    (hh : hasHeader p = true) (hlow : isHalo p = false) :
    ∃ t, exec (.registerWrite dt req (fldAddr p HDR.ERRCNT) 15 val) s = .next t ∧
      ∀ x ∈ [HDR.ERRCNT_LOCK, HDR.ERRCNT_CSET, HDR.ERRCNT_ACCESS, HDR.ERRCNT_CMD],
        t.get p x = if bits val.toNat x.hi x.lo = 0 then 0 else s.get p x := by
  have hin : inPage p ⟨0x02C, 31, 0, 0⟩ = true := inPage_of_hasHeader hv hh (by decide)
  refine ⟨_, exec_registerWrite_full (off := 0x02C) hv (by rw [pageSize_of_hasHeader hh]; decide), fun x hx => ?_⟩
  have hact (u : State) (v w : Nat) : u.regAct req p 0x02C 15 v w errcntReg = none := by
    simp [State.regAct, hh, State.headerWrite]
  have hdirect : errcntReg.direct := ⟨rfl, by simp [errcntReg]⟩
  have hrange (u : State) (v : Nat) : u.rangeOk req p 0x02C v = true := by
    unfold State.rangeOk
    split <;> simp
  have hafter (u : State) (v : Nat) : u.afterWrite req p 0x02C v = u := by
    unfold State.afterWrite
    rw [if_neg (by omega)]
    split <;> simp
  rw [State.get_answer, State.regWrite_plain (off := 0x02C) hv hh (by simp [hlow]) (by decide) (by decide) (by decide)
    (regAt_header hh).2 rfl (hact ..) rfl, hafter, State.formed_full, State.regStore_direct hdirect val.isLt (hrange ..)]
  have hx0 : fldAddr p x = fldAddr p ⟨0x02C, 31, 0, 0⟩ := by
    simp only [List.mem_cons, List.not_mem_nil, or_false] at hx
    rcases hx with rfl | rfl | rfl | rfl <;> rfl
  have hlt : errcntReg.apply ((s.advance dt).rd (pageBase p + 0x02C)).toNat val.toNat < 2 ^ 32 :=
    errcnt_apply_lt _ (BitVec.isLt _)
  rw [State.get, hx0, State.rd_setWord_same _ _ hin, BitVec.toNat_ofNat, Nat.mod_eq_of_lt hlt, bits_errcnt_apply _ _ hx,
    State.rd_advance, State.get, hx0]
  rfl

/-! ### Words of one plain field -/

/-- A register of one plain field takes the whole value. -/
theorem apply_plainWord {r : RegDef} (h : r.fields = [⟨31, 0, .rw, 0, 0xFFFFFFFF, false⟩]) (cur : Nat) {v : Nat}
    (hc : cur < 2 ^ 32) (hv : v < 2 ^ 32) : r.apply cur v = v := by
  have hlt := setBits_lt cur 31 0 (bits v 31 0) 32 (by decide) (by decide) hc
  have hsame := bits_setBits_same cur 31 0 (bits v 31 0) (by decide)
  simp only [bits] at hsame hlt
  simp only [RegDef.apply, h, List.foldl_cons, List.foldl_nil, FieldDef.val, bits]
  simp only [Nat.shiftRight_zero] at hsame hlt ⊢
  omega

/-- A write to such a word is taken at once, and changes nothing else (R45). -/
theorem exec_write_plainWord (dt : Nat) {req : Req} (val : W32) (s : State) {p : Page} {off : Nat} {r : RegDef}
    (hv : pageValid p = true) (hh : hasHeader p = true) (hreq : isHalo p = true → req.1 = 2) (hlo : 0x040 ≤ off)
    (hoff : off < 0x1000) (hal : off % 4 = 0) (hr : regAt p off = some r) (hhalf : r.half = .none)
    (hf : r.fields = [⟨31, 0, .rw, 0, 0xFFFFFFFF, false⟩]) (hact : actsAt p.blk off = false) (htbu : p.blk ≠ .tbu)
    (hrange : ∀ u : State, ∀ v, u.rangeOk req p off v = true) :
    ∃ t, exec (.registerWrite dt req (pageBase p + off) 15 val) s = .next t ∧ t.reply = .done ∧
      t.rd (pageBase p + off) = val ∧ ∀ a, a ≠ pageBase p + off → t.rd a = s.rd a := by
  refine ⟨_, exec_registerWrite_full hv (by rw [pageSize_of_hasHeader hh]; exact hoff), rfl, ?_⟩
  have hafter (u : State) (v : Nat) : u.afterWrite req p off v = u := by
    rcases u.afterWrite_plain (req := req) (v := v) hlo hact with h | ⟨he, -⟩
    · exact h
    · simp [endsSkipped, htbu] at he
  have hw : (r.fields.any fun f => f.acc.writable) = true := by rw [hf]; rfl
  have hdirect : r.direct := ⟨hhalf, by simp [hf]⟩
  rw [State.regWrite_plain hv hh hreq hoff hal (by decide) hr hw (State.regAct_plain _ hlo hact) hhalf, hafter,
    State.formed_full, State.regStore_direct hdirect val.isLt (hrange ..), apply_plainWord hf _ (BitVec.isLt _) val.isLt,
    BitVec.ofNat_toNat, BitVec.setWidth_eq]
  have hin : inPage p ⟨off, 31, 0, 0⟩ = true := inPage_of_hasHeader hv hh hoff
  exact ⟨State.rd_setWord_same _ _ hin, fun a ha => (State.rd_setWord_other _ _ ha).trans (s.rd_advance dt a)⟩

/-- The operands of the flash controller. -/
theorem exec_write_flsData (dt : Nat) (req : Req) (val : W32) (s : State) (k : Fin 4) :
    ∃ t, exec (.registerWrite dt req (fldAddr ARB.pg (ARB.FLS_DATA.ix k)) 15 val) s = .next t ∧ t.reply = .done ∧
      t.rd (fldAddr ARB.pg (ARB.FLS_DATA.ix k)) = val ∧
      ∀ a, a ≠ fldAddr ARB.pg (ARB.FLS_DATA.ix k) → t.rd a = s.rd a := by
  have hr : ∀ k : Fin 4, regAt ARB.pg (ARB.FLS_DATA.ix k).off =
      some ⟨0x064, 4, 4, .none, 0xFFFFFFFF, [⟨31, 0, .rw, 0, 0xFFFFFFFF, false⟩]⟩ := by decide +kernel
  have hoff : ∀ k : Fin 4, (ARB.FLS_DATA.ix k).off ≠ 0x048 ∧ actsAt .arb (ARB.FLS_DATA.ix k).off = false ∧
      0x040 ≤ (ARB.FLS_DATA.ix k).off ∧ (ARB.FLS_DATA.ix k).off < 0x1000 ∧ (ARB.FLS_DATA.ix k).off % 4 = 0 := by decide
  obtain ⟨hne, hact, hlo, hhi, hal⟩ := hoff k
  exact exec_write_plainWord dt val s (by decide) rfl (fun h => absurd h (by decide)) hlo hhi hal (hr k) rfl rfl hact
    (by decide) fun u v => if_neg hne

theorem exec_write_flsAddr (dt : Nat) (req : Req) (val : W32) (s : State) :
    ∃ t, exec (.registerWrite dt req (fldAddr ARB.pg ARB.FLS_ADDR) 15 val) s = .next t ∧ t.reply = .done ∧
      t.rd (fldAddr ARB.pg ARB.FLS_ADDR) = val ∧ ∀ a, a ≠ fldAddr ARB.pg ARB.FLS_ADDR → t.rd a = s.rd a := by
  have hr : regAt ARB.pg 0x060 = some ⟨0x060, 1, 4, .none, 0, [⟨31, 0, .rw, 0, 0xFFFFFFFF, false⟩]⟩ := by
    decide +kernel
  exact exec_write_plainWord dt val s (by decide) rfl (fun h => absurd h (by decide)) (by decide) (by decide)
    (by decide) hr rfl rfl (by decide) (by decide) fun u v => rfl

/-- The expected check value of the safety image, from HS. -/
theorem exec_write_expcrc (dt : Nat) {req : Req} (val : W32) (s : State) (hreq : req.1 = 2) :
    ∃ t, exec (.registerWrite dt req (fldAddr SCF.pg SCF.EXPCRC) 15 val) s = .next t ∧ t.reply = .done ∧
      t.rd (fldAddr SCF.pg SCF.EXPCRC) = val := by
  have hr : regAt SCF.pg 0x048 = some ⟨0x048, 1, 4, .none, 0, [⟨31, 0, .rw, 0, 0xFFFFFFFF, false⟩]⟩ := by
    decide +kernel
  obtain ⟨t, ht, hreply, hrd, -⟩ := exec_write_plainWord dt val s (off := 0x048) (p := SCF.pg) (by decide) rfl
    (fun _ => hreq)
    (by decide) (by decide) (by decide) hr rfl rfl (by decide) (by decide) fun u v => rfl
  exact ⟨t, ht, hreply, hrd⟩

end Sys2Proof.Machine
end

section
/-! SUPPORT. O18: register writes follow their access codes. -/

namespace Sys2Proof.Machine
open Sys2Proof

theorem RegDef.stagedOnly_iff (r : RegDef) : r.stagedOnly = true ↔
    r.half = .none ∧ (∀ f ∈ r.fields, f.acc = .rws ∨ f.acc = .ro) ∧ ∃ f ∈ r.fields, f.acc = .rws := by
  simp [RegDef.stagedOnly, and_assoc]

/-- Settles O18: `regWrite_staged_open` and `regWrite_staged_closed` for the staged registers, and the words of the header
and of one plain field. -/
theorem registerWritesFollowTheirAccessCodes : Obligations.RegisterWritesFollowTheirAccessCodes := by
  refine ⟨fun dt req page off r be val s hbe hv hh hhalo hdma hlo hoff hal hr hhalf hacc hany hin hsafe => ?_,
    fun dt req val s => ⟨fun page hv hlow hh => ⟨exec_write_evtEn dt req val s hv hh hlow,
      exec_write_errcnt dt req val s hv hh hlow⟩, exec_write_flsData dt req val s, exec_write_flsAddr dt req val s,
      exec_write_expcrc dt val s, fun addr be hnone => ?_⟩⟩
  · have hbe' : be.toNat ≠ 0 := fun h => hbe (BitVec.eq_of_toNat_eq h)
    have hs := r.stagedOnly_iff.mpr ⟨hhalf, hacc, hany⟩
    have hin' : (s.advance dt).inRange req page off r ((s.advance dt).formed req page off be.toNat val.toNat r) = true := by
      simpa [State.formed] using hin
    have hoff' : off < 0x1000 := by rwa [pageSize_of_hasHeader hh] at hoff
    refine ⟨fun hopen hmem => ⟨_, exec_registerWrite hv hoff, rfl, ?_⟩,
      fun hclosed => ⟨_, exec_registerWrite hv hoff, rfl, ?_⟩⟩
    · have htakes : (s.advance dt).takes req page r := by
        refine ⟨by simpa using hopen, by simpa using hmem, ?_⟩
        simpa [State.scfAuth, State.scfUnset, State.scfNewest, State.on] using hsafe
      obtain ⟨hset, hkeep, hcount⟩ :=
        State.regWrite_staged_open hv hh hhalo hdma hlo hoff' hal hbe' hr hs hin' htakes
      refine ⟨fun f hf ha => ⟨?_, ?_⟩, ?_⟩
      · refine bits_congr fun j hj hj' => ?_
        rw [State.present_answer, State.testBit_present_stage _ _ _ hset (RegDef.testBit_stagedBits hf ha hj hj'),
          State.formed, State.present_advance]
      · exact (hkeep f hf ha).trans (s.get_advance ..)
      · exact hcount.trans (s.get_advance ..)
    · have hst : (s.advance dt).staging req page = false := by
        rw [← Bool.not_eq_true, State.staging_iff _ _ (blk_of_hasHeader hh).1]
        rintro ⟨h1, h2⟩
        exact hclosed.elim (fun h => by simp [h] at h1) fun h => h (by simpa using h2)
      obtain ⟨hsets, hcount⟩ :=
        State.regWrite_staged_closed hv hh hhalo hdma hlo hoff' hal hbe' hr hs hin' hst
      exact ⟨hsets.trans (by simp), hcount.trans (by simp)⟩
  · refine ⟨_, rfl, ?_⟩
    simp [State.pageWrite, hnone, State.answer]

end Sys2Proof.Machine
end

section
/-! SUPPORT. What a soft reset leaves of a page's words before, in and after their reset (R17, R42, R44). -/

namespace Sys2Proof.Machine
open Sys2Proof

/-! ### The safety parameters of a page -/

/-- The safety parameters of the word at offset `off` of a block's pages; the common header has none. -/
def blockSafe (b : Block) (off : Nat) : Nat :=
  match (blockRegs b).find? fun r => r.holds off with
  | some r => r.safeMask
  | none => 0

theorem safeBits_page {p : Page} {a : Nat} (h : pageAt a = some p) : safeBits a = blockSafe p.blk (a - pageBase p) := by
  have hhead : ∀ r ∈ (if hasHeader p then headerRegs p else []), r.safeMask = 0 := by
    intro r hr
    split at hr
    · revert r
      simp [headerRegs, RegDef.safeMask]
    · cases hr
  unfold safeBits blockSafe
  rw [h]
  dsimp only
  unfold regAt pageRegs
  rw [List.find?_append]
  cases (blockRegs p.blk).find? fun r => r.holds (a - pageBase p) with
  | some r => rfl
  | none =>
    rw [Option.none_or]
    cases hf : (if hasHeader p then headerRegs p else []).find? fun r => r.holds (a - pageBase p) with
    | some r => exact hhead r (List.mem_of_find?_eq_some hf)
    | none => rfl

/-- Event flags, set states and counts are no safety parameters. -/
theorem blockSafe_header (b : Block) : blockSafe b 0x010 = 0 ∧ blockSafe b 0x024 = 0 ∧ blockSafe b 0x02C = 0 := by
  have hall : ∀ b ∈ allBlocks, blockSafe b 0x010 = 0 ∧ blockSafe b 0x024 = 0 ∧ blockSafe b 0x02C = 0 := by decide +kernel
  exact hall b (mem_allBlocks b)

/-! ### Words of a page that an operation leaves -/

/-- From `s` to `t` the words of page `p` are the same, but for those whose offset satisfies `W`. -/
structure Beside (p : Page) (W : Nat → Prop) (s t : State) : Prop where
  words : ∀ a, pageAt a = some p → ¬W (a - pageBase p) → t.rd a = s.rd a

namespace Beside

variable {p : Page} {W : Nat → Prop} {s t u : State}

theorem refl (s : State) : Beside p W s s := ⟨fun _ _ _ => rfl⟩

theorem trans (h : Beside p W s t) (h' : Beside p W t u) : Beside p W s u :=
  ⟨fun a ha hw => (h'.words a ha hw).trans (h.words a ha hw)⟩

/-- An operation that leaves the page's block alone. -/
theorem kept {F : List Part} (h : Beside p W s t) (k : Kept F t u) (hF : Part.block p.blk ∉ F) : Beside p W s u :=
  h.trans ⟨fun a ha _ => k.within (.block p.blk) hF a (by rw [blockAt, ha]; rfl)⟩

/-- A change beside the registers. -/
theorem regs (h : Beside p W s t) (hu : u.regs = t.regs) : Beside p W s u :=
  h.trans ⟨fun a _ _ => by rw [State.rd, State.rd, hu]⟩

theorem put (h : Beside p W s t) (q : Page) (x : Fld) (v : Nat) (hx : q = p → W x.off) : Beside p W s (t.put q x v) := by
  refine h.trans ⟨fun a ha hw => ?_⟩
  unfold State.put State.setWord
  split
  next hin =>
    refine t.rd_wr_other _ ?_
    rintro rfl
    rw [pageAt_page hin] at ha
    cases ha
    rw [fldAddr, Nat.add_sub_cancel_left] at hw
    exact hw (hx rfl)
  next => rfl

theorem flag (h : Beside p W s t) (q : Page) (x : Fld) (b : Bool) (hx : q = p → W x.off) : Beside p W s (t.flag q x b) :=
  h.put q x _ hx

theorem incSat (h : Beside p W s t) (q : Page) (x : Fld) (hx : q = p → W x.off) : Beside p W s (t.incSat q x) := by
  unfold State.incSat
  dsimp only
  split
  · exact h.put q x _ hx
  · exact h

theorem evt (h : Beside p W s t) (hp : p.blk ≠ .dma) (q : Page) (x : Fld) (hx : q = p → W 0x010) :
    Beside p W s (t.evt q x) :=
  (h.put q HDR.EVT _ hx).kept (Kept.withLine_from t q _) (by simp [hp])

theorem evtIf (h : Beside p W s t) (hp : p.blk ≠ .dma) (c : Bool) (q : Page) (x : Fld) (hx : q = p → W 0x010) :
    Beside p W s (t.evtIf c q x) := by
  unfold State.evtIf
  split
  · exact h.evt hp q x hx
  · exact h

theorem ite {c : Prop} [Decidable c] (h : Beside p W s t) (h' : Beside p W s u) : Beside p W s (if c then t else u) := by
  split <;> assumption

theorem foldl {α : Type} {f : State → α → State} (h : ∀ s a, Beside p W s (f s a)) (l : List α) (s : State) :
    Beside p W s (l.foldl f s) := State.foldl_related refl trans h l s

/-- A field of a word that stays reads as before. -/
theorem get (h : Beside p W s t) {x : Fld} (hin : inPage p x = true) (hx : ¬W x.off) : t.get p x = s.get p x := by
  refine State.get_eq_of_rd (h.words _ (pageAt_page hin) ?_) rfl
  rwa [fldAddr, Nat.add_sub_cancel_left]

end Beside

/-! ### Before the words are cleared -/

/-- The words of a block's pages that hold no safety parameter. -/
abbrev safeFree (b : Block) (off : Nat) : Prop := blockSafe b off = 0

/-- The end of a set writes the states of its pages and their counts. -/
theorem beside_csetEnd (p : Page) (s : State) (r : Fin 16) (code : Nat) :
    Beside p (safeFree p.blk) s (s.csetEnd r code) := by
  obtain ⟨-, h24, h2C⟩ := blockSafe_header p.blk
  have hlast (t : State) (q : Page) : Beside p (safeFree p.blk) t (t.csetLast q code) := by
    unfold State.csetLast
    exact .ite ((Beside.refl t).put q _ _ fun _ => h24) (((Beside.refl t).put q _ _ fun _ => h24).incSat q _ fun _ => h2C)
  unfold State.csetEnd
  exact (Beside.foldl (fun t q => ((Beside.refl t).put q _ _ fun _ => h24).trans (hlast _ q)) _ s).regs rfl

theorem beside_dropSet (s : State) (p : Page) : Beside p (safeFree p.blk) s (s.dropSet p) := by
  unfold State.dropSet
  split
  · exact .ite (.refl s) (beside_csetEnd ..)
  · exact .refl s

/-- A supervisor that lets go of its tri-legs writes its command word alone. -/
theorem beside_msvRelease {n : Nat} {W : Nat → Prop} (s : State) (m : Nat) (h : m = n → W 0x054) :
    Beside (MSV.pg n) W s (s.msvRelease m) := by
  have hpg (hq : MSV.pg m = MSV.pg n) : W 0x054 := h (congrArg Page.num hq)
  have hleg (t : State) (k : Nat) : Beside (MSV.pg n) W t (if h : k < 6 then t.tpwRelease ⟨k, h⟩ else t) := by
    split
    · exact (Beside.refl t).kept (.tpwRelease ..) (by simp)
    · exact .refl t
  unfold State.msvRelease
  dsimp only
  refine .trans ?_ (.foldl hleg _ _)
  exact (Beside.ite ((Beside.refl s).put _ MSV.CMD_LAST_STS _ hpg) (.refl s)).kept (.msvSet ..) (by simp)

theorem beside_dcdLow (s : State) (n : Nat) : Beside ⟨.dcd, n⟩ (safeFree .dcd) s s.dcdLow := by
  have hfree : safeFree .dcd DCD.PHST_MODE.off ∧ safeFree .dcd DCD.STAT_NACT.off ∧
      safeFree .dcd DCD.STAT_SHEDDING.off ∧ safeFree .dcd 0x010 := by decide +kernel
  obtain ⟨hphst, hnact, hshed, hevt⟩ := hfree
  have hlow (t : State) (k : Nat) : Beside ⟨.dcd, n⟩ (safeFree .dcd) t (t.cpwLow k) :=
    (Beside.refl t).kept (.cpwLow ..) (by simp)
  have hmodes (t : State) : Beside ⟨.dcd, n⟩ (safeFree .dcd) t t.dcdModes := by
    unfold State.dcdModes
    exact .evtIf (.flag (.put (.put (.refl t) _ _ _ fun _ => hphst) _ _ _ fun _ => hnact) _ _ _ fun _ => hshed)
      (by simp) _ _ _ fun _ => hevt
  unfold State.dcdLow
  dsimp only
  refine .trans (.trans (.kept (.refl s) (.dcd_upd ..) (by simp)) (.foldl (f := State.cpwLow) hlow _ _)) (hmodes _)

theorem beside_actLow (s : State) (n : Nat) (k : Fin 6) : Beside ⟨.act, n⟩ (safeFree .act) s (s.actLow k) := by
  have hfree : safeFree .act ACT.STAT_PAT.off ∧ safeFree .act 0x010 := by decide +kernel
  unfold State.actLow State.actPat
  exact .evtIf (.put (.kept (.refl s) (.actSet ..) (by simp)) _ _ _ fun _ => hfree.1) (by simp) _ _ _ fun _ => hfree.2

theorem beside_canInit (s : State) (n i : Nat) : Beside ⟨.can, n⟩ (safeFree .can) s (s.canInit i) := by
  have hfree : safeFree .can CAN.FSTAT_TX.off ∧ safeFree .can CAN.STAT_STATE.off ∧ safeFree .can 0x010 := by decide +kernel
  obtain ⟨hfstat, hstat, hevt⟩ := hfree
  unfold State.canInit
  dsimp only
  refine Beside.evtIf (.put ?_ _ _ _ fun _ => hstat) (by simp) _ _ _ fun _ => hevt
  split
  · exact .flag (.put (.kept (.refl s) (.canH_upd ..) (by simp)) _ _ _ fun _ => hfstat) _ _ _ fun _ => hfstat
  · exact .refl s

theorem beside_clfOff (s : State) (n : Nat) : Beside ⟨.clf, n⟩ (safeFree .clf) s s.clfOff := by
  have hfree : safeFree .clf CLF.LINK_E.off ∧ safeFree .clf CLF.LINK_W.off ∧ safeFree .clf CLF.PDW_PD.off ∧
      safeFree .clf CLF.PDE_PD.off ∧ safeFree .clf CLF.STAT_STATE.off ∧ safeFree .clf 0x010 := by decide +kernel
  obtain ⟨he, hw, hpdw, hpde, hstat, hevt⟩ := hfree
  have hlinks : Beside ⟨.clf, n⟩ (safeFree .clf) s ((((s.put CLF.pg CLF.LINK_E 0).put CLF.pg CLF.LINK_W 0).put CLF.pg
      CLF.PDW_PD 0).put CLF.pg CLF.PDE_PD 0) :=
    .put (.put (.put (.put (.refl s) _ _ _ fun _ => he) _ _ _ fun _ => hw) _ _ _ fun _ => hpdw) _ _ _ fun _ => hpde
  unfold State.clfOff
  exact .evtIf (.put (.kept hlinks (.clf_upd ..) (by simp)) _ _ _ fun _ => hstat) (by simp) _ _ _ fun _ => hevt

/-- What happens before the words are cleared touches no word with a safety parameter. -/
theorem beside_beforeClear (s : State) (p : Page) : Beside p (safeFree p.blk) s (s.beforeClear p) := by
  have hmsv : safeFree .msv 0x054 := by decide +kernel
  obtain ⟨b, n⟩ := p
  unfold State.beforeClear
  cases b
  case msv => exact .ite (.refl s) (beside_msvRelease s n fun _ => hmsv)
  case bch => exact (Beside.refl s).kept (.bchLow s) (by simp)
  case obc => exact (Beside.refl s).kept (.obcLow s) (by simp)
  case dcd => exact beside_dcdLow s n
  case act =>
    dsimp only
    split
    · exact beside_actLow s n _
    · exact .refl s
  case can => exact beside_canInit s n n
  case clf => exact beside_clfOff s n
  all_goals exact .refl s

end Sys2Proof.Machine
end

section
/-! SUPPORT. The reset of words, and what the reset of a block's hidden state leaves of its page (R17, R42). -/

namespace Sys2Proof.Machine
open Sys2Proof

/-! ### Words that return to their reset values -/

theorem mapGet_of_notMem {α : Type} (d : Nat → α) {m : List (Nat × α)} {a : Nat} (h : ∀ e ∈ m, e.1 ≠ a) :
    mapGet d m a = d a := by
  induction m with
  | nil => rfl
  | cons e m ih =>
    obtain ⟨b, w⟩ := e
    rw [mapGet, if_neg fun hab => h (b, w) (.head _) hab.symm, ih fun e he => h e (.tail _ he)]

/-- A mask and its complement in a word share no bit. -/
theorem and_and_compl (x m : Nat) : x &&& m &&& (0xFFFFFFFF - m) = 0 := by
  apply Nat.eq_of_testBit_eq
  intro j
  rw [Nat.testBit_and, Nat.testBit_and, Nat.zero_testBit]
  cases h : m.testBit j
  · simp
  · simp [testBit_compl_of_testBit h]

theorem and_compl_and (x m : Nat) : x &&& (0xFFFFFFFF - m) &&& m = 0 := by
  rw [Nat.and_assoc, Nat.and_comm _ m, ← Nat.and_assoc, and_and_compl]

/-- The word at `a` holds its reset value, but for the bits of a mask. -/
def State.isReset (s : State) (a : Nat) : Prop :=
  (s.rd a).toNat &&& (0xFFFFFFFF - safeBits a) = (resetWord a).toNat &&& (0xFFFFFFFF - safeBits a)

/-- The safety parameters of the word at `a` are the same in both states. -/
def State.sameSafe (s t : State) (a : Nat) : Prop :=
  (t.rd a).toNat &&& safeBits a = (s.rd a).toNat &&& safeBits a

theorem State.sameSafe_of_rd {s t : State} {a : Nat} (h : t.rd a = s.rd a) : s.sameSafe t a := by rw [State.sameSafe, h]

theorem State.isReset_of_rd {s t : State} {a : Nat} (h : t.rd a = s.rd a) (hs : s.isReset a) : t.isReset a := by
  rw [State.isReset, h]
  exact hs

theorem State.toNat_rd_wordReset (s : State) (a : Nat) : ((s.wordReset a).rd a).toNat =
    ((resetWord a).toNat &&& (0xFFFFFFFF - safeBits a)) ||| ((s.rd a).toNat &&& safeBits a) := by
  have hlt : ((resetWord a).toNat &&& (0xFFFFFFFF - safeBits a)) ||| ((s.rd a).toNat &&& safeBits a) < 2 ^ 32 :=
    Nat.or_lt_two_pow (Nat.lt_of_le_of_lt Nat.and_le_left (BitVec.isLt _))
      (Nat.lt_of_le_of_lt Nat.and_le_left (BitVec.isLt _))
  rw [State.wordReset, State.rd_wr_same, BitVec.toNat_ofNat, State.safeWord]
  exact Nat.mod_eq_of_lt hlt

theorem State.isReset_wordReset (s : State) (a : Nat) : (s.wordReset a).isReset a := by
  rw [State.isReset, State.toNat_rd_wordReset, Nat.and_or_distrib_right, and_and_compl, Nat.or_zero, Nat.and_assoc,
    Nat.and_self]

theorem State.sameSafe_wordReset (s : State) (a b : Nat) : s.sameSafe (s.wordReset b) a := by
  by_cases h : a = b
  · rw [h, State.sameSafe, State.toNat_rd_wordReset, Nat.and_or_distrib_right, and_compl_and, Nat.zero_or, Nat.and_assoc,
      Nat.and_self]
  · exact State.sameSafe_of_rd (s.rd_wr_other _ h)

/-- A word outside the range stays. -/
theorem State.rd_wordsReset_out (s : State) {f : Nat → Bool} {a : Nat} (h : f a = false) :
    (s.wordsReset f).rd a = s.rd a := by
  refine State.foldl_related (R := fun s t => t.rd a = s.rd a) (fun _ => rfl) (fun h h' => h'.trans h) (fun t e => ?_) _ s
  split
  next he => exact t.rd_wr_other _ fun hae => by rw [hae, he] at h; cases h
  next => rfl

/-- The reset of words leaves every safety parameter. -/
theorem State.sameSafe_wordsReset (s : State) (f : Nat → Bool) (a : Nat) : s.sameSafe (s.wordsReset f) a := by
  refine State.foldl_related (R := fun s t => s.sameSafe t a) (fun _ => rfl) (fun h h' => h'.trans h) (fun t e => ?_) _ s
  split
  · exact t.sameSafe_wordReset a e.1
  · rfl

/-- Every word of the range holds its reset value: one that is listed is written, and any other reads as it. -/
theorem State.isReset_wordsReset (s : State) {f : Nat → Bool} {a : Nat} (h : f a = true) : (s.wordsReset f).isReset a := by
  have hfold (l : List (Nat × W32)) (t : State) (hl : (∃ e ∈ l, e.1 = a) ∨ t.isReset a) :
      (l.foldl (fun t e => if f e.1 then t.wordReset e.1 else t) t).isReset a := by
    induction l generalizing t with
    | nil => exact hl.resolve_left (by simp)
    | cons e l ih =>
      refine ih _ ?_
      dsimp only
      by_cases he : e.1 = a
      · rw [he, if_pos h]
        exact .inr (t.isReset_wordReset a)
      · rcases hl with ⟨e', hm, he'⟩ | hr
        · exact .inl ⟨e', (List.mem_cons.mp hm).resolve_left fun hee => he (hee ▸ he'), he'⟩
        · refine .inr ?_
          split
          · exact State.isReset_of_rd (t.rd_wr_other _ fun hae => he hae.symm) hr
          · exact hr
  refine hfold s.regs s ?_
  by_cases hm : ∃ e ∈ s.regs, e.1 = a
  · exact .inl hm
  · refine .inr ?_
    have hd : s.rd a = resetWord a := mapGet_of_notMem resetWord fun e he hea => hm ⟨e, he, hea⟩
    rw [State.isReset, hd]

theorem beside_wordsReset {p : Page} {W : Nat → Prop} {f : Nat → Bool} (s : State)
    (h : ∀ a, pageAt a = some p → f a = false) : Beside p W s (s.wordsReset f) :=
  ⟨fun a ha _ => s.rd_wordsReset_out (h a ha)⟩

/-- The words of a page after its reset. -/
theorem State.clearPage_spec (s : State) {p : Page} {a : Nat} (ha : pageAt a = some p) :
    s.sameSafe (s.clearPage p) a ∧ (softKept p (a - pageBase p) = false → (s.clearPage p).isReset a) ∧
      (softKept p (a - pageBase p) = true → (s.clearPage p).rd a = s.rd a) := by
  obtain ⟨-, hlo, hhi⟩ := pageAt_eq_some ha
  set f : Nat → Bool := fun a => !(decide (a < pageBase p ∨ pageBase p + pageSize p.blk ≤ a) || softKept p (a - pageBase p))
    with hf
  have hrd : (s.clearPage p).rd a = (s.wordsReset f).rd a := rfl
  refine ⟨?_, fun hk => State.isReset_of_rd hrd (s.isReset_wordsReset ?_), fun hk => hrd.trans (s.rd_wordsReset_out ?_)⟩
  · have h := s.sameSafe_wordsReset f a
    rwa [State.sameSafe, ← hrd] at h
  · simp [hf, hk, hlo, hhi]
  · simp [hf, hk]

/-! ### After the words are cleared -/

/-- Words of a page that show again, after its reset, what other blocks do: those of a tri-leg, and the status of ADH. -/
def shownAfter (b : Block) (off : Nat) : Prop :=
  (b = .adh ∧ off = 0x00C) ∨ (b = .tpw ∧ (off = 0x00C ∨ off = 0x010 ∨ off = TPW.PAT.off))

theorem beside_tpwRefresh (s : State) (n : Nat) (k : Fin 6) : Beside ⟨.tpw, n⟩ (shownAfter .tpw) s (s.tpwRefresh k) := by
  have hsto : shownAfter .tpw TPW.STAT_STO_EFF.off := .inr ⟨rfl, .inl rfl⟩
  have hghb : shownAfter .tpw TPW.STAT_GHB_OK.off := .inr ⟨rfl, .inl rfl⟩
  have hswitch : shownAfter .tpw TPW.STAT_SWITCHING.off := .inr ⟨rfl, .inl rfl⟩
  have hevt : shownAfter .tpw 0x010 := .inr ⟨rfl, .inr (.inl rfl)⟩
  have hact : shownAfter .tpw TPW.PAT_ACTIVE.off := .inr ⟨rfl, .inr (.inr rfl)⟩
  have hsrc : shownAfter .tpw TPW.PAT_SRC.off := .inr ⟨rfl, .inr (.inr rfl)⟩
  have hpattern (t : State) (pat src : Nat) : Beside ⟨.tpw, n⟩ (shownAfter .tpw) t (t.tpwPattern k pat src) := by
    unfold State.tpwPattern State.tpwPatternAt
    dsimp only
    refine .kept (.evtIf (.flag (.put (.put (.kept (.refl t) (.tpwSet ..) (by simp)) _ _ _ fun _ => hact) _ _ _ fun _ => hsrc)
      _ _ _ fun _ => hswitch) (by simp) _ _ _ fun _ => hevt) (.posFollow ..) (by simp)
  have hshow (v w : Bool) : Beside ⟨.tpw, n⟩ (shownAfter .tpw) s
      ((s.flag (TPW.pg k) TPW.STAT_STO_EFF v).flag (TPW.pg k) TPW.STAT_GHB_OK w) :=
    .flag (.flag (.refl s) _ _ _ fun _ => hsto) _ _ _ fun _ => hghb
  unfold State.tpwRefresh
  dsimp only
  refine .trans (hshow _ _) (.ite (.ite ?_ (.refl _)) (.ite (.put (.refl _) _ _ _ fun _ => hsrc) ?_))
  · split <;> exact hpattern ..
  · exact .trans (.kept (.refl _) (.tpwSet ..) (by simp)) (hpattern ..)

/-- A step of a supervisor writes words of its own page. -/
theorem beside_msvGo {n : Nat} {W : Nat → Prop} (s : State) {m : Nat} (st : Nat) (h : m ≠ n) :
    Beside (MSV.pg n) W s (s.msvGo m st) := by
  have hpg {P : Prop} (hq : MSV.pg m = MSV.pg n) : P := absurd (congrArg Page.num hq) h
  have hset (c : Prop) [Decidable c] (t : State) (f : MsvH → MsvH) :
      Beside (MSV.pg n) W t (if c then t.msvSet m f else t) := .ite (.kept (.refl t) (.msvSet ..) (by simp)) (.refl t)
  have hstop (c : Prop) [Decidable c] (t : State) (f : StopH → StopH) :
      Beside (MSV.pg n) W t (if c then t else t.stopSet m f) := .ite (.refl t) (.kept (.refl t) (.stopSet ..) (by simp))
  have hflag (c : Prop) [Decidable c] (t : State) :
      Beside (MSV.pg n) W t (if c then t.flag (MSV.pg m) MSV.STAT_STOP_SS1 false else t) :=
    .ite (.flag (.refl t) _ _ _ hpg) (.refl t)
  unfold State.msvGo State.lhActive
  exact .evtIf (.flag ((((((Beside.refl s).put _ _ _ hpg).trans (hset ..)).trans (hset ..)).trans (hset ..)).trans
    (hstop ..) |>.trans (hflag ..)) _ _ _ hpg) (by simp) _ _ _ hpg

theorem inPage_msv {n : Nat} (hn : n < 3) : inPage (MSV.pg n) MSV.STAT_STATE = true :=
  Bool.and_eq_true_iff.mpr ⟨decide_eq_true hn, rfl⟩

/-- While the supervisor of page `n` is Off, no word of its page changes. -/
def Quiet (n : Nat) (s t : State) : Prop := s.msvSt n = 0 → Beside (MSV.pg n) (fun _ => False) s t

namespace Quiet

variable {n : Nat} {s t u : State}

theorem refl (s : State) : Quiet n s s := fun _ => .refl s

theorem trans (hn : n < 3) (h : Quiet n s t) (h' : Quiet n t u) : Quiet n s u := fun h0 =>
  (h h0).trans (h' (((h h0).get (x := MSV.STAT_STATE) (inPage_msv hn)
    id).trans h0))

theorem of_beside (h : Beside (MSV.pg n) (fun _ => False) s t) : Quiet n s t := fun _ => h

theorem of_kept {F : List Part} (k : Kept F s t) (hF : Part.block .msv ∉ F) : Quiet n s t :=
  of_beside (.kept (.refl s) k hF)

theorem ite {c : Prop} [Decidable c] (h : Quiet n s t) (h' : Quiet n s u) : Quiet n s (if c then t else u) := by
  split <;> assumption

/-- STO takes a supervisor out of its run, and one that is Off stays so. -/
theorem msvToSto (s : State) (m : Nat) : Quiet n s (s.msvToSto m) := by
  unfold State.msvToSto
  by_cases h : m = n
  · subst h
    intro h0
    rw [if_neg (by omega)]
    exact .refl s
  · exact .ite (of_beside ((beside_msvRelease s m fun hm => absurd hm h).trans (beside_msvGo _ _ h))) (refl s)

theorem stoAssert (hn : n < 3) (s : State) (m : Nat) : Quiet n s (s.stoAssert m) := by
  have hpaths (t : State) : Quiet n t (if h : m < 4 then t.pathsLow ⟨m, h⟩ else t) := by
    split
    · exact of_kept (.pathsLow ..) (by simp)
    · exact refl t
  have hshow (t : State) : Quiet n t (((t.putBit STO.pg STO.STAT_EFF m true).incSat STO.pg STO.CNT_ASSERTS).evt STO.pg
      STO.EVT_ASSERT) :=
    of_beside (.kept (.kept (.kept (.refl t) (.putBit ..) (by simp)) (.incSat ..) (by simp)) (.evt ..) (by simp))
  have hstop (t : State) : Quiet n t (if t.bitOn SSF.pg SSF.STAT_SS1 m then t.ss1End m 2 else t) :=
    ite (of_kept (.ss1End ..) (by simp)) (refl t)
  have hend (t : State) : Quiet n t (((t.msvToSto m).stoRecord m).sbcOnSto m).tpwRefreshAll :=
    (msvToSto t m).trans hn (of_beside (.kept (.kept (.kept (.refl _) (.stoRecord ..) (by simp)) (.sbcOnSto ..) (by simp))
      (.tpwRefreshAll ..) (by simp)))
  unfold State.stoAssert
  dsimp only
  exact (hpaths s).trans hn (ite (of_kept (.stoRecord ..) (by simp))
    ((hshow _).trans hn ((hstop _).trans hn (hend _))))

theorem stoEval (hn : n < 3) (s : State) : Quiet n s s.stoEval := by
  unfold State.stoEval
  exact State.foldl_related refl (trans hn)
    (fun t m => ite (stoAssert hn t m) (of_kept (.stoRecord ..) (by simp))) _ s

end Quiet

theorem Beside.mono {p : Page} {W W' : Nat → Prop} {s t : State} (h : Beside p W s t) (hw : ∀ off, W off → W' off) :
    Beside p W' s t := ⟨fun a ha hn => h.words a ha fun hwa => hn (hw _ hwa)⟩

/-- The slot banks and the route table lie beside the page of the fabric. -/
theorem beside_clfClear {n : Nat} {W : Nat → Prop} (s : State) : Beside ⟨.clf, n⟩ W s s.clfClear := by
  refine .regs (beside_wordsReset (f := fun a => decide (0x40081000 ≤ a ∧ a < 0x40088000)) s fun a ha => ?_) rfl
  obtain ⟨hv, hlo, hhi⟩ := pageAt_eq_some ha
  have hn : n < 1 := of_decide_eq_true hv
  simp only [pageBase, blockInfo, pageSize] at hlo hhi
  simp only [decide_eq_false_iff_not]
  omega

/-- The context records lie beside the page of Cirrus. -/
theorem beside_ctxClear {n : Nat} {W : Nat → Prop} (s : State) : Beside ⟨.cir, n⟩ W s s.ctxClear := by
  refine .regs (beside_wordsReset (f := fun a => decide (0x30000000 ≤ a ∧ a < 0x30040000)) s fun a ha => ?_) rfl
  obtain ⟨hv, hlo, hhi⟩ := pageAt_eq_some ha
  have hn : n < 1 := of_decide_eq_true hv
  simp only [pageBase, blockInfo, pageSize] at hlo hhi
  simp only [decide_eq_false_iff_not]
  omega

/-- What the reset of the hidden state of a block leaves of its page; a supervisor stands Off by then. -/
theorem beside_clearHidden (s : State) (p : Page) (hoff : p.blk = .msv → s.get p MSV.STAT_STATE = 0) :
    Beside p (shownAfter p.blk) s (s.clearHidden p) := by
  have hadh : shownAfter .adh ADH.STAT_DIV.off := .inl ⟨rfl, rfl⟩
  have hrange : shownAfter .tpw TPW.STAT_RANGE_ERR.off := .inr ⟨rfl, .inl rfl⟩
  obtain ⟨b, n⟩ := p
  unfold State.clearHidden
  cases b <;> dsimp only
  case tpw =>
    split
    · exact .trans (.flag (.kept (.refl s) (.tpw_upd ..) (by simp)) _ _ _ fun _ => hrange) (beside_tpwRefresh _ n _)
    · exact .refl s
  case msv =>
    split
    next hn =>
      have heval := (Quiet.stoEval hn { s with msv := vset s.msv ⟨n, hn⟩ MsvH.idle } (hoff rfl)).mono
        (W' := shownAfter .msv) fun _ h => h.elim
      have hidle : Beside ⟨.msv, n⟩ (shownAfter .msv) s { s with msv := vset s.msv ⟨n, hn⟩ MsvH.idle } :=
        .kept (.refl s) (.msv_upd ..) (by simp)
      exact .kept (hidle.trans heval) (.ghbDeliver ..) (by simp)
    next => exact .refl s
  case cpw =>
    split
    · exact .kept (.refl s) (.cpwClear ..) (by simp)
    · exact .refl s
  case act =>
    split
    · exact .kept (.refl s) (.act_upd ..) (by simp)
    · exact .refl s
  case can =>
    split
    · exact .kept (.kept (.refl s) (.canClear ..) (by simp)) (.loseLocks ..) (by simp)
    · exact .kept (.refl s) (.loseLocks ..) (by simp)
  case clf => exact .kept (beside_clfClear s) (.loseLocks ..) (by simp)
  case dbg => exact .kept (.refl s) (.loseLocks ..) (by simp)
  case adf =>
    split
    · exact .kept (.refl s) (.adf_upd ..) (by simp)
    · exact .refl s
  case adh =>
    split
    · exact .put (.kept (.refl s) (.adhClear ..) (by simp)) _ _ _ fun _ => hadh
    · exact .refl s
  case adr => exact .kept (.refl s) (.adrRestart ..) (by simp)
  case pos =>
    split
    · exact .kept (.refl s) (.pos_upd ..) (by simp)
    · exact .refl s
  case cir => exact beside_ctxClear s
  case dma => exact .kept (.refl s) (.dmaClear ..) (by simp)
  case bch => exact .kept (.refl s) (.bch_upd ..) (by simp)
  case dcd => exact .kept (.refl s) (.dcd_upd ..) (by simp)
  case obc => exact .kept (.refl s) (.obc_upd ..) (by simp)
  all_goals exact .refl s

end Sys2Proof.Machine
end

section
/-! SUPPORT. O15: the flags that a write forces and clears, and the soft reset of a page (R42 to R44). -/

namespace Sys2Proof.Machine
open Sys2Proof

theorem exec_evtForce {dt : Nat} {req : Req} {page : Page} {val : W32} {s : State} (hv : pageValid page = true)
    (hh : hasHeader page = true) (hreq : isHalo page = true → req.1 = 2) : exec (.evtForce dt req page val) s =
      .next ((s.advance dt).evtBits page (val.toNat &&& evtMask page)) := by
  have hnot : ¬(isHalo page = true ∧ req.1 ≠ 2) := fun h => h.2 (hreq h.1)
  change execEvtForce dt req page val s = _
  simp [execEvtForce, hv, hh, State.evtForce, hnot]

/-- A soft reset of a page below Halo, accepted or counted. -/
theorem exec_softRst {dt : Nat} {req : Req} {p : Page} {s : State} (hv : pageValid p = true) (hlow : isHalo p = false)
    (hh : hasHeader p = true) : exec (.softRst dt req p) s = .next (if (s.advance dt).softRstOk p then
      (((((s.advance dt).dropSet p).beforeClear p).clearPage p).clearHidden p) else (s.advance dt).countCmd p) := by
  change execSoftRst dt req p s = _
  simp [execSoftRst, hv, hh, State.softRst, hlow]

theorem State.sameSafe_trans {s t u : State} {a : Nat} (h : s.sameSafe t a) (h' : t.sameSafe u a) : s.sameSafe u a :=
  Eq.trans h' h

/-- An operation that writes only words without safety parameters keeps those of every word of the page. -/
theorem State.sameSafe_of_beside {s t : State} {p : Page} {a : Nat} (h : Beside p (safeFree p.blk) s t)
    (ha : pageAt a = some p) : s.sameSafe t a := by
  by_cases hf : safeFree p.blk (a - pageBase p)
  · have h0 : safeBits a = 0 := (safeBits_page ha).trans hf
    rw [State.sameSafe, h0, Nat.and_zero, Nat.and_zero]
  · exact State.sameSafe_of_rd (h.words a ha hf)

/-- A word without safety parameters that holds its reset value. -/
theorem State.rd_of_isReset {s : State} {a : Nat} (h : s.isReset a) (h0 : safeBits a = 0) : s.rd a = resetWord a := by
  have hfull (x : W32) : x.toNat &&& 0xFFFFFFFF = x.toNat :=
    (Nat.and_two_pow_sub_one_eq_mod x.toNat 32).trans (Nat.mod_eq_of_lt x.isLt)
  rw [State.isReset, h0, Nat.sub_zero, hfull, hfull] at h
  exact BitVec.eq_of_toNat_eq h

/-- A supervisor whose page is cleared stands Off. -/
theorem msv_off_of_clearPage (s : State) {p : Page} (hv : pageValid p = true) (hb : p.blk = .msv) :
    (s.clearPage p).get p MSV.STAT_STATE = 0 := by
  obtain ⟨b, n⟩ := p
  cases hb
  have hn : n < 3 := of_decide_eq_true hv
  have hpage := pageAt_page (inPage_msv hn)
  have hsub : fldAddr (MSV.pg n) MSV.STAT_STATE - pageBase ⟨.msv, n⟩ = MSV.STAT_STATE.off := Nat.add_sub_cancel_left ..
  have hfree : safeFree .msv MSV.STAT_STATE.off := by decide +kernel
  have hreset : ∀ n : Fin 3, bits (resetWord (fldAddr (MSV.pg n) MSV.STAT_STATE)).toNat MSV.STAT_STATE.hi
      MSV.STAT_STATE.lo = 0 := by decide +kernel
  obtain ⟨-, hclear, -⟩ := s.clearPage_spec hpage
  have hrd := State.rd_of_isReset (hclear rfl) ((safeBits_page hpage).trans (by rw [hsub]; exact hfree))
  exact (congrArg (fun w : W32 => bits w.toNat MSV.STAT_STATE.hi MSV.STAT_STATE.lo) hrd).trans (hreset ⟨n, hn⟩)

/-- The words of a page after its soft reset (R17, R42). -/
theorem State.softReset_words (s : State) {p : Page} {a : Nat} (hv : pageValid p = true) (ha : pageAt a = some p)
    (hkept : softKept p (a - pageBase p) = false) (hshown : ¬shownAfter p.blk (a - pageBase p)) :
    ((((s.dropSet p).beforeClear p).clearPage p).clearHidden p).isReset a ∧
      s.sameSafe ((((s.dropSet p).beforeClear p).clearPage p).clearHidden p) a := by
  set u := (s.dropSet p).beforeClear p
  have hbefore : s.sameSafe u a :=
    State.sameSafe_of_beside ((beside_dropSet s p).trans (beside_beforeClear _ p)) ha
  obtain ⟨hsafe, hclear, -⟩ := u.clearPage_spec ha
  have hafter : ((u.clearPage p).clearHidden p).rd a = (u.clearPage p).rd a :=
    (beside_clearHidden _ p fun hb => msv_off_of_clearPage u hv hb).words a ha hshown
  exact ⟨State.isReset_of_rd hafter (hclear hkept),
    State.sameSafe_trans hbefore (State.sameSafe_trans hsafe (State.sameSafe_of_rd hafter))⟩

/-- The set that alone holds the page ends (R42). -/
theorem State.softReset_sets (s : State) {p : Page} {r : Fin 16} (hr : p ∈ (vget s.sets r).pages)
    (hopen : (vget s.sets r).committing = false) (hall : ∀ q, q ≠ r → p ∉ (vget s.sets q).pages) :
    vget ((((s.dropSet p).beforeClear p).clearPage p).clearHidden p).sets r = CSet.empty := by
  have hholder : s.holder p = some r := by
    cases h : s.holder p with
    | none =>
      have hnone := List.find?_eq_none.mp h r (List.mem_finRange r)
      simp [hr] at hnone
    | some q =>
      have hq := State.pages_of_holder h
      by_contra hne
      exact hall q (fun hqr => hne (by rw [hqr])) (by simpa using hq)
  have hdrop : s.dropSet p = s.csetEnd r 8 := by simp [State.dropSet, hholder, hopen]
  have hbefore : ((s.dropSet p).beforeClear p).sets = (s.dropSet p).sets := (Kept.beforeClear _ p).within .sets (by simp)
  have hclear : (((s.dropSet p).beforeClear p).clearPage p).sets = ((s.dropSet p).beforeClear p).sets :=
    (Kept.clearPage _ p).within .sets (by decide +kernel)
  have hhidden : ((((s.dropSet p).beforeClear p).clearPage p).clearHidden p).sets =
      (((s.dropSet p).beforeClear p).clearPage p).sets := (Kept.clearHidden _ p).within .sets (by decide +kernel)
  rw [hhidden, hclear, hbefore, hdrop, State.sets_csetEnd]

/-- The calibration of ADR stays (R133, R134). -/
theorem State.softReset_adr (s : State) {p : Page} {x : Fld} (hv : pageValid p = true) (hb : p.blk = .adr)
    (hlo : 0x100 ≤ x.off) (hhi : x.off < 0x300) :
    ((((s.dropSet p).beforeClear p).clearPage p).clearHidden p).get p x = s.get p x := by
  obtain ⟨b, n⟩ := p
  cases hb
  have hin : inPage ⟨.adr, n⟩ x = true := inPage_of_hasHeader hv rfl (by omega)
  have hpage := pageAt_page hin
  have hsub : fldAddr ⟨.adr, n⟩ x - pageBase ⟨.adr, n⟩ = x.off := Nat.add_sub_cancel_left ..
  have hdrop : (s.dropSet ⟨.adr, n⟩).rd (fldAddr ⟨.adr, n⟩ x) = s.rd (fldAddr ⟨.adr, n⟩ x) := by
    unfold State.dropSet
    split
    · split
      · rfl
      · exact s.rd_csetEnd_word _ _ (by omega) (by omega)
    · rfl
  have hkept : softKept ⟨.adr, n⟩ (fldAddr ⟨.adr, n⟩ x - pageBase ⟨.adr, n⟩) = true := by
    simp [softKept, hsub, hlo, hhi]
  obtain ⟨-, -, hclear⟩ := ((s.dropSet ⟨.adr, n⟩).beforeClear ⟨.adr, n⟩).clearPage_spec hpage
  have hshown : ¬shownAfter .adr (fldAddr ⟨.adr, n⟩ x - pageBase ⟨.adr, n⟩) := by simp [shownAfter]
  have hafter := (beside_clearHidden (((s.dropSet ⟨.adr, n⟩).beforeClear ⟨.adr, n⟩).clearPage ⟨.adr, n⟩) ⟨.adr, n⟩
    (fun h => by cases h)).words _ hpage hshown
  exact State.get_eq_of_rd (hafter.trans ((hclear hkept).trans hdrop)) rfl

/-- Settles O15: the flags after a write, and the words, sets and calibration after a soft reset. -/
theorem eventFlagsAndSoftReset : Obligations.EventFlagsAndSoftReset := by
  refine ⟨fun dt req page val s hv hh hreq => ⟨⟨_, exec_evtForce hv hh hreq, ?_⟩, ⟨_, exec_evtClear hv hh, ?_⟩⟩,
    fun dt req page s hv hlow hh => ⟨fun hok => ?_, fun hno => ?_⟩⟩
  · have hin : inPage page HDR.EVT = true := inPage_of_hasHeader hv hh (by decide)
    rw [State.get_evtBits_evt _ hin (Nat.lt_of_le_of_lt Nat.and_le_left val.isLt), State.get_advance]
  · have hin : inPage page HDR.EVT = true := inPage_of_hasHeader hv hh (by decide)
    rw [State.get_evtClear _ hin hreq (by decide), State.get_advance, Nat.mod_eq_of_lt val.isLt]
    exact (congrArg _ (Nat.zero_and _)).trans (Nat.or_zero _)
  · have hexec := exec_softRst (dt := dt) (req := req) (s := s) hv hlow hh
    rw [if_pos hok] at hexec
    refine ⟨_, hexec, fun a ha hkept hadh htpw => ?_, fun r hr hopen hall => ?_, fun i hi hb => ?_⟩
    · obtain ⟨-, hlo, -⟩ := pageAt_eq_some ha
      have hshown : ¬shownAfter page.blk (a - pageBase page) := by
        rintro (⟨hb, hoff⟩ | ⟨hb, hoff⟩)
        · exact hadh ⟨hb, by simp only [fldAddr, HDR.STAT]; omega⟩
        · refine htpw ⟨hb, ?_⟩
          simp only [fldAddr, HDR.STAT, HDR.EVT, TPW.PAT] at hoff ⊢
          omega
      obtain ⟨hreset, hsafe⟩ := (s.advance dt).softReset_words hv ha hkept hshown
      exact ⟨hreset, State.sameSafe_trans (State.sameSafe_of_rd (s.rd_advance dt a)) hsafe⟩
    · exact (s.advance dt).softReset_sets (by simpa using hr) (by simpa using hopen) (by simpa using hall)
    · have hkeep (x : Fld) (hlo : 0x100 ≤ x.off) (hhi : x.off < 0x300) :=
        ((s.advance dt).softReset_adr hv hb hlo hhi).trans (s.get_advance dt page x)
      have hgain : (ADR.GAIN.ix i).off = 0x100 + i * 4 := rfl
      have hofs : (ADR.OFS.ix i).off = 0x200 + i * 4 := rfl
      exact ⟨congrArg _ (hkeep _ (by omega) (by omega)), congrArg _ (hkeep _ (by omega) (by omega))⟩
  · have hexec := exec_softRst (dt := dt) (req := req) (s := s) hv hlow hh
    rw [if_neg (by simp [hno])] at hexec
    have hin : inPage page HDR.ERRCNT_CMD = true := inPage_of_hasHeader hv hh (by decide)
    refine ⟨_, hexec, ?_, fun a ha => ?_, fun q => ?_⟩
    · exact ((s.advance dt).get_incSat_same hin (by decide) (by decide)).trans (by rw [State.get_advance]; rfl)
    · exact (State.rd_incSat_word (x := HDR.ERRCNT_CMD) _ ha).trans (s.rd_advance dt a)
    · by_cases hblock : ∃ b, q = .block b
      · exact .inr (.inr hblock)
      · by_cases hnow : q = .now
        · exact .inr (.inl hnow)
        · refine .inl (State.sameAt_trans ((Kept.advance s dt).within q (by simpa using hnow)) ?_)
          exact (s.advance dt).sameAt_incSat page HDR.ERRCNT_CMD fun b hb => hblock ⟨b, hb⟩

end Sys2Proof.Machine
end

section
/-! SUPPORT. What an event and a noted fault leave, what the log then holds, and which relations between states survive a
reaction of the fault manager (R18, R27, R55, R330, R351). -/

namespace Sys2Proof.Machine
open Sys2Proof

/-! ### Beside an event and a noted fault -/

@[simp] theorem State.evt_now (s : State) (p : Page) (x : Fld) : (s.evt p x).now = s.now :=
  (Kept.evt s p x).within .now (by simp)

@[simp] theorem State.evt_tbu (s : State) (p : Page) (x : Fld) : (s.evt p x).tbu = s.tbu :=
  (Kept.evt s p x).within .tbu (by simp)

@[simp] theorem State.evt_lg (s : State) (p : Page) (x : Fld) : (s.evt p x).lg = s.lg :=
  (Kept.evt s p x).within .lg (by simp)

@[simp] theorem State.note_tbu (s : State) (code react machs aux : Nat) : (s.note code react machs aux).tbu = s.tbu :=
  (Kept.note s code react machs aux).within .tbu (by simp)

@[simp] theorem State.note_lg (s : State) (code react machs aux : Nat) : (s.note code react machs aux).lg = s.lg :=
  (Kept.note s code react machs aux).within .lg (by simp)

/-- A fault of reaction FR1 is noted, and nothing follows (R330). -/
theorem State.raise_one (s : State) (code machs aux : Nat) : s.raise code 1 machs aux = s.note code 1 machs aux := rfl

/-! ### The log (R351) -/

/-- A log entry leaves the words between the latches and the log (R351). -/
theorem State.rd_logEntry_beside (s : State) (code react machs aux stamp : Nat) {x : Fld} (hlo : 0x050 ≤ x.off)
    (hhi : x.off < 0x100) : (s.logEntry code react machs aux stamp).rd (fldAddr HLO.pg x) = s.rd (fldAddr HLO.pg x) := by
  have hne (y : Fld) (hy : y.off < 0x050 ∨ 0x100 ≤ y.off) : fldAddr HLO.pg x ≠ fldAddr HLO.pg y := by
    simp only [fldAddr]; omega
  have hix (y : Fld) (i : Nat) (hy : 0x100 ≤ y.off) : 0x100 ≤ (y.ix i).off := by simp only [Fld.ix]; omega
  have hin : inPage HLO.pg x = true := inPage_of_hasHeader (by decide) rfl (by omega)
  unfold State.logEntry
  dsimp only
  rw [State.rd_evt_word _ (blockAt_page hin) (by decide) (hne _ (by decide)), State.incWrap,
    State.rd_put_word _ _ (hne _ (by decide)), State.rd_put_word _ _ (hne _ (by decide)),
    State.rd_put64_word _ _ (hne _ (.inr (hix _ _ (by decide))))
      (hne _ (.inr (Nat.le_add_right_of_le (hix _ _ (by decide))))),
    State.rd_put_word _ _ (hne _ (.inr (hix _ _ (by decide)))), State.rd_put_word _ _ (hne _ (.inr (hix _ _ (by decide))))]

/-- The next place of the log takes the entry (R351). -/
theorem State.get_logEntry_info (s : State) {code react machs : Nat} (aux stamp : Nat)
    (h : react * 2 ^ 24 + machs * 2 ^ 16 + code < 2 ^ 32) :
    (s.logEntry code react machs aux stamp).get HLO.pg (HLO.LOG_INFO.ix (s.get HLO.pg HLO.LOGPTR_NEXT)) =
      react * 2 ^ 24 + machs * 2 ^ 16 + code := by
  have hi : s.get HLO.pg HLO.LOGPTR_NEXT < 32 := bits_lt ..
  have hin : inPage HLO.pg (HLO.LOG_INFO.ix (s.get HLO.pg HLO.LOGPTR_NEXT)) = true :=
    inPage_of_hasHeader (by decide) rfl (by simp only [Fld.ix, HLO.LOG_INFO]; omega)
  have hne (y : Fld) (hy : y.off < 0x100) :
      fldAddr HLO.pg (HLO.LOG_INFO.ix (s.get HLO.pg HLO.LOGPTR_NEXT)) ≠ fldAddr HLO.pg y := by
    simp only [fldAddr, Fld.ix, HLO.LOG_INFO]; omega
  unfold State.logEntry
  dsimp only
  rw [State.get_evt_word _ hin (by decide) (hne _ (by decide)), State.incWrap,
    State.get_put_word _ _ (hne _ (by decide)), State.get_put_word _ _ (hne _ (by decide)),
    State.get_eq_of_rd (State.rd_put64_word _ _ ?_ ?_) rfl, State.get_put_word _ _ ?_,
    State.get_put_same _ _ hin (Nat.zero_le _) (show 31 < 32 by decide)]
  · exact Nat.mod_eq_of_lt h
  all_goals simp only [fldAddr, Fld.ix, HLO.LOG_INFO, HLO.LOG_AUX, HLO.LOG_STAMP_LO]; omega

/-- The same over a transition that the fault ends (R27). -/
theorem State.get_note_info (s : State) {code react machs : Nat} (aux : Nat)
    (h : react * 2 ^ 24 + machs * 2 ^ 16 + code < 2 ^ 32) :
    (s.note code react machs aux).get HLO.pg (HLO.LOG_INFO.ix (s.get HLO.pg HLO.LOGPTR_NEXT)) =
      react * 2 ^ 24 + machs * 2 ^ 16 + code := by
  have hnext : s.abortTransition.get HLO.pg HLO.LOGPTR_NEXT = s.get HLO.pg HLO.LOGPTR_NEXT :=
    State.get_within (Kept.abortTransition s).within (by decide) (by decide)
  rw [State.note, ← hnext]
  exact s.abortTransition.get_logEntry_info aux s.now h

/-! ### What a reaction leaves -/

/-- A relation that holds over whatever an entry to a device state or a reaction does beside its own words: changes off the
pages SYS and HLO, noted faults, ends of change sets and events of the device. `Calm` fixes its words; here they are those of
any such relation, so that the walk through an entry and a reaction is made once. -/
structure OverReactions (R : State → State → Prop) : Prop where
  refl : ∀ s, R s s
  trans : ∀ {s t u}, R s t → R t u → R s u
  beside : ∀ {G : List Part} {s t : State}, Kept G s t → .block .sys ∉ G → .block .hlo ∉ G → R s t
  note : ∀ (s : State) (code react machs aux : Nat), R s (s.note code react machs aux)
  csetEnd : ∀ (s : State) (r : Fin 16) (code : Nat), R s (s.csetEnd r code)
  deviceEvt : ∀ (s : State) (x : Fld), R s (s.evt SYS.pg x)

namespace OverReactions

variable {R : State → State → Prop} {s t u : State}

theorem ite {c : Prop} [Decidable c] (h : R s t) (h' : R s u) : R s (if c then t else u) := by split <;> assumption

variable (hR : OverReactions R)

include hR

theorem kept {G : List Part} (h : R s t) (k : Kept G t u) (hs : .block .sys ∉ G := by simp)
    (hh : .block .hlo ∉ G := by simp) : R s u := hR.trans h (hR.beside k hs hh)

/-- One operation from the start. -/
theorem one {G : List Part} (k : Kept G s t) (hs : .block .sys ∉ G := by simp) (hh : .block .hlo ∉ G := by simp) :
    R s t := hR.beside k hs hh

theorem foldl {α : Type} {f : State → α → State} (h : ∀ s a, R s (f s a)) (l : List α) (s : State) :
    R s (l.foldl f s) := State.foldl_related hR.refl hR.trans h l s

/-! #### The entry to a device state (R17, R18, R338) -/

theorem posFollow (s : State) (m : Nat) : R s (s.posFollow m) := by
  unfold State.posFollow
  dsimp only
  split
  · split
    · exact ite (hR.one (.put ..)) (hR.refl s)
    · refine ite (hR.refl s) (hR.trans ?_ (hR.note ..))
      exact hR.kept (hR.kept (hR.kept (hR.one (Kept.pos_upd ..)) (.put ..)) (.incSat ..)) (.evt ..)
    · exact hR.refl s
  · exact hR.refl s

theorem tpwPattern (s : State) (n : Fin 6) (pat src : Nat) : R s (s.tpwPattern n pat src) :=
  hR.trans (hR.kept (hR.kept (hR.kept (hR.kept (hR.one (.tpwSet ..)) (.put ..)) (.put ..)) (.flag ..)) (.evtIf ..))
    (hR.posFollow ..)

theorem tpwRefresh (s : State) (n : Fin 6) : R s (s.tpwRefresh n) := by
  unfold State.tpwRefresh
  dsimp only
  refine hR.trans (hR.kept (hR.one (.flag s (TPW.pg n) TPW.STAT_STO_EFF (s.stoEff (n.1 / 2)))) (.flag _ (TPW.pg n)
    TPW.STAT_GHB_OK (s.ghbOk n))) ?_
  split
  · refine ite ?_ (hR.refl _)
    split <;> exact hR.tpwPattern ..
  · exact ite (hR.one (.put ..)) (hR.trans (hR.one (.tpwSet ..)) (hR.tpwPattern ..))

theorem tpwRefreshAll (s : State) : R s s.tpwRefreshAll := hR.foldl hR.tpwRefresh _ s

theorem stoAssert (s : State) (m : Nat) : R s (s.stoAssert m) := by
  have hlow : R s (if h : m < 4 then s.pathsLow ⟨m, h⟩ else s) := by
    split
    · exact hR.one (.pathsLow ..)
    · exact hR.refl s
  have hshow (t : State) : R t ((t.putBit STO.pg STO.STAT_EFF m true).incSat STO.pg STO.CNT_ASSERTS |>.evt STO.pg
      STO.EVT_ASSERT) := hR.kept (hR.kept (hR.one (.putBit ..)) (.incSat ..)) (.evt ..)
  have hss1 (t : State) : R t (if t.bitOn SSF.pg SSF.STAT_SS1 m = true then t.ss1End m 2 else t) :=
    ite (hR.one (.ss1End ..)) (hR.refl t)
  have hrest (t : State) : R t (((t.msvToSto m).stoRecord m).sbcOnSto m |>.tpwRefreshAll) :=
    hR.trans (hR.kept (hR.kept (hR.one (.msvToSto ..)) (.stoRecord ..)) (.sbcOnSto ..)) (hR.tpwRefreshAll _)
  unfold State.stoAssert
  dsimp only
  exact hR.trans hlow (ite (hR.one (.stoRecord ..)) (hR.trans (hR.trans (hshow _) (hss1 _)) (hrest _)))

theorem stoEval (s : State) : R s s.stoEval :=
  hR.foldl (fun s m => ite (hR.stoAssert s m) (hR.one (.stoRecord ..))) _ s

theorem enterPaths (s : State) (old d : DState) : R s (s.enterPaths old d) := by
  unfold State.enterPaths
  dsimp only
  refine hR.trans (hR.trans (ite (ite (hR.one (.convRecord ..)) (hR.one (.pathARelease ..))) (hR.refl s))
    (hR.stoEval _)) (ite (hR.foldl (fun t m => ite (hR.one (.pathARelease ..)) (hR.refl t)) _ _) (hR.refl _))

theorem scfClose (s : State) (cause : Nat) : R s (s.scfClose cause) := by
  have h : R s (((s.put SCF.pg SCF.STAT_SESSION 0).evt SCF.pg SCF.EVT_SESSION).slgPush 8 0 cause 0 none) :=
    hR.kept (hR.kept (hR.one (.put ..)) (.evt ..)) (.slgPush ..)
  unfold State.scfClose
  exact ite (ite (hR.trans h (hR.csetEnd ..)) h) (hR.refl s)

theorem enterHalo (s : State) (old d : DState) : R s (s.enterHalo old d) := by
  have hclose : R s (if old = .service then s.scfClose 3 else s) := ite (hR.scfClose ..) (hR.refl s)
  unfold State.enterHalo
  dsimp only
  refine hR.trans hclose (ite ?_ (ite ?_ (hR.refl _)))
  · exact hR.kept (hR.one (.ghbStart ..)) (.halo_upd ..)
  · exact hR.kept (hR.kept (hR.one (.ghbStop ..)) (.watchdogOff ..)) (.holdPairs ..)

/-- The entry to `d` after the writes of `SYS_DSTAT`. -/
theorem enter (s : State) (d : DState) : R (s.enterWords d) (s.enter d) := by
  have hrest (t : State) : R t (if d.running = true then t else t.restFunctions) :=
    ite (hR.refl t) (hR.one (.restFunctions ..))
  exact hR.trans (hR.trans (hR.kept (hR.trans (hR.trans (hR.deviceEvt ..) (hR.enterHalo _ s.dstate d)) (hrest _))
    (.enterCharger ..)) (hR.enterPaths ..)) (hR.tpwRefreshAll _)

/-! #### Lost locks and stopped commits (R55, R59) -/

theorem loseLocks (s : State) (r : Nat) : R s (s.loseLocks r) := by
  have hlose (s : State) (p : Page) (hs : p.blk ≠ .sys) (hh : p.blk ≠ .hlo) :
      R s (((s.flag p HDR.OWNER_LOCKED false).flag p HDR.OWNER_LOST true).put p HDR.OWNER_LOST_ID r) :=
    hR.kept (hR.kept (hR.one (.flag ..) (by simp [hs.symm]) (by simp [hh.symm])) (.flag ..) (by simp [hs.symm])
      (by simp [hh.symm])) (.put ..) (by simp [hs.symm]) (by simp [hh.symm])
  unfold State.loseLocks
  refine hR.trans (hR.trans (hR.foldl (fun s i => ?_) _ _) (hR.foldl (fun s i => ?_) _ _)) (hR.foldl (fun s ch => ?_) _ _)
  · exact ite (hR.trans (hR.kept (hlose s (ADH.pg i) (by simp) (by simp)) (.adhLost_upd ..)) (hR.note ..)) (hR.refl s)
  · have hstop : R s (if s.on (CRC.pg i) CRC.STAT_RUNNING then
        (s.flag (CRC.pg i) CRC.STAT_RUNNING false).flag (CRC.pg i) CRC.STAT_ABANDONED true else s) :=
      ite (hR.kept (hR.one (.flag ..)) (.flag ..)) (hR.refl s)
    exact ite (hR.trans (hR.kept (hR.trans hstop (hlose _ (CRC.pg i) (by simp) (by simp))) (.evt ..)) (hR.note ..))
      (hR.refl s)
  · have hown (s : State) : R s (((s.flag DMA.pg (DMA.OWN_LOCKED.ix ch) false).flag DMA.pg (DMA.OWN_OWNER_LOST.ix ch)
        true).put DMA.pg (DMA.OWN_LOST_ID.ix ch) r) := hR.kept (hR.kept (hR.one (.flag ..)) (.flag ..)) (.put ..)
    have hhdr (s : State) : R s ((s.flag DMA.pg HDR.OWNER_LOST true).put DMA.pg HDR.OWNER_LOST_ID r) :=
      hR.kept (hR.one (.flag ..)) (.put ..)
    have hstop (s : State) : R s ((((s.flag DMA.pg (DMA.CH_CFG_EN.ix ch) false).flag DMA.pg (DMA.CH_CHST_ABANDONED.ix ch)
        true).flag DMA.pg (DMA.CH_CHST_BUSY.ix ch) false).putBit DMA.pg DMA.STAT_ACTIVE ch false) :=
      hR.kept (hR.kept (hR.kept (hR.one (.flag ..)) (.flag ..)) (.flag ..)) (.putBit ..)
    exact ite (hR.trans (hR.kept (hR.kept (hR.trans (hR.trans (hown s) (hhdr _)) (hstop _)) (.dma_upd ..)) (.evt ..))
      (hR.note ..)) (hR.refl s)

theorem csetStop (s : State) : R s s.csetStop.1 := by
  have hfold (l : List (Fin 16)) (f : State × Bool → Fin 16 → State × Bool) (h : ∀ a r, R a.1 (f a r).1) :
      ∀ a : State × Bool, R a.1 (l.foldl f a).1 := by
    induction l with
    | nil => exact fun a => hR.refl a.1
    | cons r l ih => exact fun a => hR.trans (h a r) (ih _)
  refine hfold _ _ (fun a r => ?_) (s, false)
  dsimp only
  split
  · split
    · exact hR.refl _
    · split
      · split
        · exact hR.refl _
        · exact hR.one (.sets_upd ..)
      · exact hR.csetEnd ..
  · exact hR.refl _

theorem stopCommits (s : State) : R s s.stopCommits := by
  have h := hR.csetStop s
  unfold State.stopCommits
  rcases hstop : s.csetStop with ⟨u, hit⟩
  rw [hstop] at h
  exact ite (hR.trans (hR.trans h (hR.deviceEvt ..)) (hR.note ..)) h

end OverReactions

/-! ### The device safe state (R18, R351) -/

theorem overReactions_sameDevice : OverReactions SameDevice where
  refl := .refl
  trans := .trans
  beside k hs _ := State.get_within k.within (by decide) hs
  note s code react machs aux := s.note_dstate code react machs aux
  csetEnd s r code := State.get_eq_of_rd (s.rd_csetEnd_word r code (by decide) (by decide)) rfl
  deviceEvt s _ := s.get_evt_word (by decide) (by decide) (by decide)

/-- Both states show the same first FR5 fault. -/
def SameFirst (s t : State) : Prop := t.get HLO.pg HLO.FIRST_INFO = s.get HLO.pg HLO.FIRST_INFO

theorem sameFirst_logEntry (s : State) (code react machs aux stamp : Nat) :
    SameFirst s (s.logEntry code react machs aux stamp) :=
  State.get_eq_of_rd (s.rd_logEntry_beside code react machs aux stamp (by decide) (by decide)) rfl

theorem sameFirst_abortTransition (s : State) : SameFirst s s.abortTransition :=
  State.get_within (Kept.abortTransition s).within (by decide) (by decide)

theorem overReactions_sameFirst : OverReactions SameFirst where
  refl _ := rfl
  trans h h' := Eq.trans h' h
  beside k _ hh := State.get_within k.within (by decide) hh
  note s code react machs aux := (sameFirst_logEntry ..).trans (sameFirst_abortTransition s)
  csetEnd s r code := State.get_eq_of_rd (s.rd_csetEnd_word r code (by decide) (by decide)) rfl
  deviceEvt s x := State.get_within (Kept.evt s SYS.pg x).within (by decide) (by decide)

theorem sameFirst_toSafeHold (s : State) : SameFirst s s.toSafeHold := by
  have hflag : SameFirst s (s.flag HLO.pg HLO.STAT_SAFE true) := s.get_put_word _ (by decide)
  have hwords (t : State) (d : DState) : SameFirst t (t.enterWords d) := State.get_within (Kept.step (.step (.step
    (.step (.refl t) (.put ..)) (.put ..)) (.flag ..)) (.put ..) : Kept [.block .sys] t (t.enterWords d)).within (by decide)
    (by decide)
  unfold State.toSafeHold
  exact OverReactions.ite hflag (overReactions_sameFirst.trans hflag
    (overReactions_sameFirst.trans (hwords _ _) (overReactions_sameFirst.enter _ _)))

/-- The first fault of reaction FR5 is kept (R351). -/
theorem State.get_logFirst (s : State) {code machs : Nat} (aux stamp : Nat)
    (h : 5 * 2 ^ 24 + machs * 2 ^ 16 + code < 2 ^ 32) : (s.logFirst code machs aux stamp).get HLO.pg HLO.FIRST_INFO =
      if s.get HLO.pg HLO.FIRST_INFO = 0 then 5 * 2 ^ 24 + machs * 2 ^ 16 + code else s.get HLO.pg HLO.FIRST_INFO := by
  unfold State.logFirst
  dsimp only
  split
  · rw [State.get_eq_of_rd (State.rd_put64_word _ _ (by decide) (by decide)) rfl, State.get_put_word _ _ (by decide),
      State.get_put_same _ _ (by decide) (by decide) (by decide)]
    exact Nat.mod_eq_of_lt h
  · rfl

/-- What a fault of reaction FR5 does once it is logged: the device safe state, the locks of the pairs that it halts, and the
ORDERED commits (R18, R55, R59). -/
def State.reactFive (s : State) : State := ((s.toSafeHold.loseLocks 0).loseLocks 1).stopCommits

theorem State.safeHoldNow_eq (s : State) : s.safeHoldNow = (s.toSafeHold.loseLocks 0).loseLocks 1 := by
  unfold State.safeHoldNow State.toSafeHold
  dsimp only

theorem State.raise_five (s : State) (code machs aux : Nat) : s.raise code 5 machs aux =
    ((s.abortTransition.logEntry code 5 machs aux s.now).logFirst code machs aux s.now).reactFive := by
  unfold State.raise State.raiseAt State.reactFive
  dsimp only
  rw [if_pos (by decide)]
  simp only [State.safeHoldNow_eq]

/-- Past the device safe state a reaction FR5 leaves what every reaction leaves. -/
theorem OverReactions.reactFive {R : State → State → Prop} (hR : OverReactions R) (s : State) : R s.toSafeHold s.reactFive :=
  hR.trans (hR.trans (hR.loseLocks ..) (hR.loseLocks ..)) (hR.stopCommits _)

/-- A fault of reaction FR5 brings SAFE_HOLD (R18, R330). -/
theorem State.raise_five_dstate (s : State) (code machs aux : Nat) :
    (s.raise code 5 machs aux).get SYS.pg SYS.DSTAT_DSTATE = DState.safeHold.code := by
  rw [State.raise_five]
  exact Eq.trans (overReactions_sameDevice.reactFive _) (State.toSafeHold_dstate _)

/-- A fault of reaction FR5 is kept if it is the first (R351). -/
theorem State.raise_five_first (s : State) {code machs : Nat} (aux : Nat)
    (h : 5 * 2 ^ 24 + machs * 2 ^ 16 + code < 2 ^ 32) : (s.raise code 5 machs aux).get HLO.pg HLO.FIRST_INFO =
      if s.get HLO.pg HLO.FIRST_INFO = 0 then 5 * 2 ^ 24 + machs * 2 ^ 16 + code else s.get HLO.pg HLO.FIRST_INFO := by
  have hlog : SameFirst s (s.abortTransition.logEntry code 5 machs aux s.now) :=
    (sameFirst_logEntry ..).trans (sameFirst_abortTransition s)
  have hafter (u : State) : SameFirst u u.reactFive :=
    (overReactions_sameFirst.reactFive u).trans (sameFirst_toSafeHold u)
  rw [State.raise_five, hafter, State.get_logFirst _ aux s.now h, hlog]

end Sys2Proof.Machine
end

section
/-! SUPPORT. The source of Horizon and the faults of its clock (R66 to R72, R90). -/

namespace Sys2Proof.Machine
open Sys2Proof

/-! ### Lock groups that run -/

/-- Whether a group runs depends on its hidden part and on RUNNING. -/
theorem State.lgRunning_congr {s t : State} (hlg : t.lg = s.lg)
    (hrun : ∀ g, g < 15 → t.get TBU.pg (TBU.LG_STAT_RUNNING.ix g) = s.get TBU.pg (TBU.LG_STAT_RUNNING.ix g)) :
    t.lgRunning = s.lgRunning := by
  funext g
  unfold State.lgRunning
  split
  next hg => rw [hlg, State.on, hrun g hg, State.on]
  next => rfl

@[simp] theorem State.lgRunning_advance (s : State) (dt : Nat) : (s.advance dt).lgRunning = s.lgRunning :=
  State.lgRunning_congr (s.advance_lg dt) fun _ _ => s.get_advance ..

/-- A field of the TBU page of another word reads as before an event of the page. -/
theorem State.get_evt_tbu (s : State) {x y : Fld} (hlo : y.off ≠ 0x010) (hhi : y.off < 0x1000) :
    (s.evt TBU.pg x).get TBU.pg y = s.get TBU.pg y :=
  s.get_evt_word (inPage_of_hasHeader (by decide) rfl hhi) (by decide) fun h => hlo (Nat.add_left_cancel h)

theorem State.lgRunning_evt (s : State) (x : Fld) : (s.evt TBU.pg x).lgRunning = s.lgRunning :=
  State.lgRunning_congr (s.evt_lg ..) fun g hg =>
    s.get_evt_tbu (by simp only [Fld.ix, TBU.LG_STAT_RUNNING]; omega) (by simp only [Fld.ix, TBU.LG_STAT_RUNNING]; omega)

/-- An event of the TBU page shows. -/
theorem State.on_evt_tbu (s : State) {x : Fld} (ho : x.off = 0x010) (hw : x.hi = x.lo) (hh : x.hi < 32) :
    (s.evt TBU.pg x).on TBU.pg x = true := by
  rw [State.on, s.on_evt (inPage_of_hasHeader (by decide) rfl (by omega)) (by decide) ho hw hh]
  rfl

/-- A field of the TBU page reads as before a noted fault. -/
theorem State.get_note_tbu (s : State) (code react machs aux : Nat) {x : Fld} (hx : x.off < 0x1000) :
    (s.note code react machs aux).get TBU.pg x = s.get TBU.pg x :=
  s.get_note code react machs aux (inPage_of_hasHeader (by decide) rfl hx) (by decide) (by decide) (by decide)

/-! ### The source (R66 to R71) -/

/-- The state in which a reference that is back has been taken as qualified (R68, R90). -/
def State.refBack (s : State) : State :=
  { s.evt TBU.pg TBU.EVT_REF_BACK with tbu := { (s.evt TBU.pg TBU.EVT_REF_BACK).tbu with qualified := true } }

@[simp] theorem State.refBack_now (s : State) : s.refBack.now = s.now := s.evt_now ..

theorem State.get_refBack (s : State) {x : Fld} (hlo : x.off ≠ 0x010) (hhi : x.off < 0x1000) :
    s.refBack.get TBU.pg x = s.get TBU.pg x := s.get_evt_tbu hlo hhi

theorem State.on_refBack (s : State) : s.refBack.on TBU.pg TBU.EVT_REF_BACK = true :=
  s.on_evt_tbu rfl rfl (by decide)

theorem State.lgRunning_refBack (s : State) : s.refBack.lgRunning = s.lgRunning := s.lgRunning_evt _

/-- A glide shows in SRC and changes no other word. -/
theorem State.get_glideStart_src (s : State) (d : Int) : (s.glideStart d).get TBU.pg TBU.STAT_SRC = 3 :=
  State.get_put_same _ 3 (by decide) (by decide) (by decide)

theorem State.get_glideStart_word (s : State) (d : Int) {x : Fld} (h : x.off ≠ 0x00C) :
    (s.glideStart d).get TBU.pg x = s.get TBU.pg x :=
  State.get_put_word _ 3 fun e => h (Nat.add_left_cancel e)

theorem State.glideStart_glide (s : State) (d : Int) : (s.glideStart d).tbu.glide = some (s.now, d) := by
  rw [State.glideStart, State.put_tbu]

section Qualified

variable {dt : Nat} {d : Int} {s : State} (hon : s.dev.off = false)
  (hlong : s.tbu.refFrom + s.get TBU.pg TBU.SRCCFG_QUAL_MS * 400000 ≤ s.now + dt)

include hon hlong

/-- A reference that has met its conditions long enough is back, and the source follows it (R68). -/
theorem exec_refQualified (hsrc : s.get TBU.pg TBU.STAT_SRC = 0 ∧ s.tbu.qualified = false ∧ d.natAbs ≤ 10000000 ∨
      s.get TBU.pg TBU.STAT_SRC = 2 ∧ d.natAbs ≤ 1000000) :
    exec (.refQualified dt d) s = .next (
      if s.get TBU.pg TBU.STAT_SRC = 0 ∧ ¬(List.range 15).any s.lgRunning then
        { (s.advance dt).refBack with
          tbu := { (s.advance dt).refBack.tbu with directBy := some ((s.advance dt).refBack.now + 40000, d) } }
      else (s.advance dt).refBack.glideStart d) := by
  have hnow := State.now_advance_of_on hon dt
  change execRefQualified dt d s = _
  unfold execRefQualified
  dsimp only
  rw [if_pos]
  · have hrun : (s.advance dt).refBack.lgRunning = s.lgRunning := by
      rw [State.lgRunning_refBack, State.lgRunning_advance]
    rw [← hrun, State.get_advance]
    by_cases hlock : s.get TBU.pg TBU.STAT_SRC = 0 ∧ ¬(List.range 15).any (s.advance dt).refBack.lgRunning
    · rw [if_pos hlock]
      exact if_pos hlock
    · rw [if_neg hlock]
      exact if_neg hlock
  · simp only [State.get_advance, State.advance_tbu, hnow, decide_eq_true_eq]
    rcases hsrc with ⟨h0, hq, hd⟩ | ⟨h2, hd⟩
    · exact ⟨hlong, by simp [hq], .inl ⟨h0, hd⟩⟩
    · exact ⟨hlong, by simp [h2], .inr ⟨h2, hd⟩⟩

/-- While no lock group runs a reference is locked directly from FACTORY (R68). -/
theorem refQualified_locks (h0 : s.get TBU.pg TBU.STAT_SRC = 0) (hq : s.tbu.qualified = false)
    (hd : d.natAbs ≤ 10000000) (hrun : (List.range 15).any s.lgRunning = false) :
    ∃ t, exec (.refQualified dt d) s = .next t ∧ t.tbu.directBy = some (s.now + dt + 40000, d) ∧ t.tbu.qualified = true ∧
      t.get TBU.pg TBU.STAT_SRC = 0 ∧ t.on TBU.pg TBU.EVT_REF_BACK = true := by
  rw [exec_refQualified hon hlong (.inl ⟨h0, hq, hd⟩), if_pos ⟨h0, by simp [hrun]⟩]
  refine ⟨_, rfl, ?_, rfl, ?_, State.on_refBack _⟩
  · simp only [State.refBack_now, State.now_advance_of_on hon]
  · rw [State.get_tbu, State.get_refBack _ (by decide) (by decide), State.get_advance, h0]

/-- Otherwise, and from HOLDOVER, the source glides to it (R68). -/
theorem refQualified_glides (hsrc : s.get TBU.pg TBU.STAT_SRC = 0 ∧ s.tbu.qualified = false ∧ d.natAbs ≤ 10000000 ∧
      (List.range 15).any s.lgRunning = true ∨ s.get TBU.pg TBU.STAT_SRC = 2 ∧ d.natAbs ≤ 1000000) :
    ∃ t, exec (.refQualified dt d) s = .next t ∧ t.get TBU.pg TBU.STAT_SRC = 3 ∧ t.tbu.glide = some (s.now + dt, d) ∧
      t.on TBU.pg TBU.EVT_REF_BACK = true := by
  rw [exec_refQualified hon hlong (hsrc.imp_left fun ⟨h0, hq, hd, _⟩ => ⟨h0, hq, hd⟩), if_neg]
  · refine ⟨_, rfl, State.get_glideStart_src .., ?_, ?_⟩
    · rw [State.glideStart_glide, State.refBack_now, State.now_advance_of_on hon]
    · rw [State.on, State.get_glideStart_word _ _ (by decide)]
      exact State.on_refBack _
  · rintro ⟨h0, hrun⟩
    rcases hsrc with ⟨-, -, -, h⟩ | ⟨h2, -⟩
    · exact hrun h
    · omega

end Qualified

/-- The end of a lock that no lock group's start has overtaken is REF (R68, R90). -/
theorem directLock_locks {dt x : Nat} {d : Int} {s : State} (hon : s.dev.off = false)
    (hby : s.tbu.directBy = some (x, d)) (hx : s.now + dt ≤ x) (hrun : (List.range 15).any s.lgRunning = false) :
    ∃ t, exec (.directLock dt) s = .next t ∧ t.get TBU.pg TBU.STAT_SRC = 1 ∧ t.tbu.directBy = none ∧
      t.on TBU.pg TBU.EVT_LOCKED = true := by
  have hnow := State.now_advance_of_on hon dt
  have hexec : exec (.directLock dt) s = .next (({ s.advance dt with
      tbu := { (s.advance dt).tbu with directBy := none } }.put TBU.pg TBU.STAT_SRC 1).evt TBU.pg TBU.EVT_LOCKED) := by
    change execDirectLock dt s = _
    unfold execDirectLock
    dsimp only
    rw [State.advance_tbu, hby]
    dsimp only
    rw [if_neg (by omega), State.lgRunning_advance, hrun, if_neg (by decide)]
  refine ⟨_, hexec, ?_, ?_, State.on_evt_tbu _ rfl rfl (by decide)⟩
  · rw [State.get_evt_tbu _ (by decide) (by decide), State.get_put_same _ 1 (by decide) (by decide) (by decide)]
    rfl
  · rw [State.evt_tbu, State.put_tbu]

/-- A lock group that has started meanwhile turns the lock into a glide (R68). -/
theorem directLock_glides {dt x : Nat} {d : Int} {s : State} (hon : s.dev.off = false)
    (hby : s.tbu.directBy = some (x, d)) (hx : s.now + dt ≤ x) (hrun : (List.range 15).any s.lgRunning = true) :
    ∃ t, exec (.directLock dt) s = .next t ∧ t.get TBU.pg TBU.STAT_SRC = 3 ∧ t.tbu.glide = some (s.now + dt, d) := by
  have hnow := State.now_advance_of_on hon dt
  have hexec : exec (.directLock dt) s = .next ((s.advance dt).glideStart d) := by
    change execDirectLock dt s = _
    unfold execDirectLock
    dsimp only
    rw [State.advance_tbu, hby]
    dsimp only
    rw [if_neg (by omega), State.lgRunning_advance, hrun, if_pos rfl]
  exact ⟨_, hexec, State.get_glideStart_src .., by rw [State.glideStart_glide, hnow]⟩

/-- A glide that may have less than 0.1 ppm left ends in REF (R68, R90). -/
theorem glideDone_locks {dt x : Nat} {d : Int} {s : State} (hon : s.dev.off = false)
    (hsrc : s.get TBU.pg TBU.STAT_SRC = 3) (hglide : s.tbu.glide = some (x, d))
    (hleft : d.natAbs < s.get TBU.pg TBU.SRCCFG_GLIDE * 1000 * (s.now + dt - x) / 400000 + 100)
    (hmax : s.now + dt - x ≤ ((d.natAbs + s.get TBU.pg TBU.SRCCFG_GLIDE * 1000 - 1) /
      (s.get TBU.pg TBU.SRCCFG_GLIDE * 1000) + 1) * 400000) :
    ∃ t, exec (.glideDone dt) s = .next t ∧ t.get TBU.pg TBU.STAT_SRC = 1 ∧ t.get TBU.pg TBU.TRIM = 0 ∧
      t.tbu.glide = none ∧ t.on TBU.pg TBU.EVT_LOCKED = true := by
  have hnow := State.now_advance_of_on hon dt
  have hexec : exec (.glideDone dt) s = .next ((({ s.advance dt with
      tbu := { (s.advance dt).tbu with glide := none } }.put TBU.pg TBU.STAT_SRC 1).put TBU.pg TBU.TRIM 0).evt TBU.pg
        TBU.EVT_LOCKED) := by
    change execGlideDone dt s = _
    unfold execGlideDone
    dsimp only
    rw [State.advance_tbu, hglide]
    dsimp only
    rw [hnow, State.get_advance, State.get_advance, if_pos ⟨hsrc, by unfold glideLeast; omega, hmax⟩]
  refine ⟨_, hexec, ?_, ?_, ?_, State.on_evt_tbu _ rfl rfl (by decide)⟩
  · rw [State.get_evt_tbu _ (by decide) (by decide), State.get_put_word _ _ (by decide),
      State.get_put_same _ 1 (by decide) (by decide) (by decide)]
    rfl
  · rw [State.get_evt_tbu _ (by decide) (by decide), State.get_put_same _ 0 (by decide) (by decide) (by decide)]
    rfl
  · rw [State.evt_tbu, State.put_tbu, State.put_tbu]

/-- A reference that is lost in REF or in GLIDE leaves HOLDOVER (R69, R90). -/
theorem refLost_holds {dt : Nat} {s : State} (hon : s.dev.off = false)
    (hsrc : s.get TBU.pg TBU.STAT_SRC = 1 ∨ s.get TBU.pg TBU.STAT_SRC = 3) :
    ∃ t, exec (.refLost dt) s = .next t ∧ t.get TBU.pg TBU.STAT_SRC = 2 ∧ t.on TBU.pg TBU.EVT_REF_LOST = true ∧
      t.tbu.glide = none ∧ t.tbu.refFrom = s.now + dt := by
  have hnow := State.now_advance_of_on hon dt
  obtain ⟨d, u, hleft⟩ : ∃ d u, (s.advance dt).glideLeft = (d, u) := ⟨_, _, rfl⟩
  have hu : u.now = s.now + dt := by
    have hkept := (Kept.glideLeft (s.advance dt)).within .now (by simp)
    rw [hleft] at hkept
    exact hkept.trans hnow
  have hexec : exec (.refLost dt) s = .next (((({ u with
      tbu := { u.tbu with glide := none, refFrom := u.now } }.put TBU.pg TBU.STAT_SRC 2).puts TBU.pg TBU.TRIM d).evt TBU.pg
        TBU.EVT_REF_LOST).note 0x101 1 0 0) := by
    change execRefLost dt s = _
    unfold execRefLost
    dsimp only
    rw [State.get_advance]
    rcases hsrc with h | h <;> simp only [h, hleft] <;> rw [State.raise_one]
  refine ⟨_, hexec, ?_, ?_, ?_, ?_⟩
  · rw [State.get_note_tbu _ _ _ _ _ (by decide), State.get_evt_tbu _ (by decide) (by decide), State.puts,
      State.get_put_word _ _ (by decide), State.get_put_same _ 2 (by decide) (by decide) (by decide)]
    rfl
  · rw [State.on, State.get_note_tbu _ _ _ _ _ (by decide)]
    exact State.on_evt_tbu _ rfl rfl (by decide)
  · rw [State.note_tbu, State.evt_tbu, State.puts, State.put_tbu, State.put_tbu]
  · rw [State.note_tbu, State.evt_tbu, State.puts, State.put_tbu, State.put_tbu]
    exact hu

/-- A reference that has not come within 12 ms is logged (R71, R351). -/
theorem refNever_logs {dt : Nat} {s : State} (hon : s.dev.off = false) (h0 : s.get TBU.pg TBU.STAT_SRC = 0)
    (hq : s.tbu.qualified = false) (hr : s.tbu.neverRaised = false) (ht : 4800000 ≤ s.now + dt) :
    ∃ t, exec (.refNever dt) s = .next t ∧ t.tbu.neverRaised = true ∧
      t.get HLO.pg (HLO.LOG_INFO.ix (s.get HLO.pg HLO.LOGPTR_NEXT)) = 1 * 2 ^ 24 + 0x102 := by
  have hnow := State.now_advance_of_on hon dt
  have hexec : exec (.refNever dt) s = .next ({ s.advance dt with
      tbu := { (s.advance dt).tbu with neverRaised := true } }.note 0x102 1 0 0) := by
    change execRefNever dt s = _
    unfold execRefNever
    dsimp only
    rw [if_pos ⟨by omega, by simpa using h0, by simp [hq], by simp [hr]⟩, State.raise_one]
  refine ⟨_, hexec, by rw [State.note_tbu], ?_⟩
  have hnext : State.get { s.advance dt with tbu := { (s.advance dt).tbu with neverRaised := true } } HLO.pg
      HLO.LOGPTR_NEXT = s.get HLO.pg HLO.LOGPTR_NEXT := by rw [State.get_tbu, State.get_advance]
  rw [← hnext]
  exact (State.get_note_info _ 0 (by decide)).trans (by decide)

/-- Settles O22: each clause of the source is the lemma about its event above, and both clock faults are of reaction FR5. -/
theorem horizonSourceAndClockFaults : Obligations.HorizonSourceAndClockFaults := by
  refine ⟨fun dt s hon => ⟨fun hlong => ⟨fun d h0 hq hd hrun => refQualified_locks hon hlong h0 hq hd hrun,
      fun d hsrc => refQualified_glides hon hlong hsrc⟩,
    fun x d hby hx => ⟨directLock_locks hon hby hx, directLock_glides hon hby hx⟩,
    fun x d hsrc hglide hleft hmax => glideDone_locks hon hsrc hglide hleft hmax, refLost_holds hon,
    fun h0 hq hr ht => refNever_logs hon h0 hq hr ht⟩, fun dt s _ => ⟨⟨_, rfl, ?_⟩, ⟨_, rfl, ?_⟩⟩⟩
  · refine ⟨State.raise_five_dstate .., ((s.advance dt).raise_five_first 0 (by decide)).trans ?_⟩
    rw [State.get_advance, Nat.zero_mul, Nat.add_zero]
  · refine ⟨State.raise_five_dstate .., ((s.advance dt).raise_five_first 0 (by decide)).trans ?_⟩
    rw [State.get_advance, Nat.zero_mul, Nat.add_zero]

end Sys2Proof.Machine
end

section
/-! SUPPORT. Period starts of the lock groups, compare matches and captures (R75 to R82), and a step on an empty queue
(log 4). -/

namespace Sys2Proof.Machine
open Sys2Proof

/-! ### 64-bit values and words of the TBU page -/

theorem State.rd_of_regs {s t : State} (h : t.regs = s.regs) (a : Nat) : t.rd a = s.rd a := by rw [State.rd, State.rd, h]

theorem State.get64_of_rd {s t : State} {p : Page} {x : Fld} (hlo : t.rd (fldAddr p x) = s.rd (fldAddr p x))
    (hhi : t.rd (fldAddr p x + 4) = s.rd (fldAddr p x + 4)) : t.get64 p x = s.get64 p x := by
  rw [State.get64, State.get64, hlo, hhi]

/-- A 64-bit value reads back as it was written, cut to its width (R48). -/
theorem State.get64_put64 (s : State) {p : Page} {x : Fld} (v : Nat) (hlo : inPage p x = true)
    (hhi : inPage p { x with off := x.off + 4 } = true) : (s.put64 p x v).get64 p x = v % 2 ^ 64 := by
  have hnext : fldAddr p { x with off := x.off + 4 } = fldAddr p x + 4 := (Nat.add_assoc ..).symm
  have hne : fldAddr p x ≠ fldAddr p { x with off := x.off + 4 } := by omega
  rw [State.put64, State.get64, State.rd_setWord_other _ _ hne, s.rd_setWord_same _ hlo, ← hnext,
    State.rd_setWord_same _ _ hhi, BitVec.toNat_ofNat, BitVec.toNat_ofNat]
  omega

/-- Words of one page lie apart as their offsets do. -/
theorem fldAddr_ne_of_off {p : Page} {x y : Fld} (h : x.off ≠ y.off) : fldAddr p x ≠ fldAddr p y :=
  fun e => h (Nat.add_left_cancel e)

/-- A write of a field of another word leaves a 64-bit value. -/
theorem State.get64_put_other (s : State) {p : Page} {x y : Fld} (v : Nat) (hlo : x.off ≠ y.off) (hhi : x.off + 4 ≠ y.off) :
    (s.put p y v).get64 p x = s.get64 p x := by
  have hne : fldAddr p x + 4 ≠ fldAddr p y := by simp only [fldAddr]; omega
  exact State.get64_of_rd (s.rd_put_word _ (fldAddr_ne_of_off hlo)) (s.rd_put_word _ hne)

/-- A one-bit field reads as it was written. -/
theorem State.on_flag_same (s : State) {p : Page} {x : Fld} (b : Bool) (hp : inPage p x = true) (hw : x.hi = x.lo)
    (hh : x.hi < 32) : (s.flag p x b).on p x = b := by
  rw [State.on, State.flag, s.get_put_same _ hp (by omega) hh, hw, Nat.add_sub_cancel_left]
  cases b <;> rfl

theorem inPage_tbu {x : Fld} (hx : x.off < 0x1000) : inPage TBU.pg x = true := inPage_of_hasHeader (by decide) rfl hx

/-! ### A period start (R75 to R80) -/

theorem State.vget_lgSet_same (s : State) (g : Fin 15) (f : LgH → LgH) : vget (s.lgSet g f).lg g = f (vget s.lg g) :=
  vget_vset_same ..

theorem State.vget_lgSet_other (s : State) {g h : Fin 15} (f : LgH → LgH) (hne : h ≠ g) :
    vget (s.lgSet h f).lg g = vget s.lg g := vget_vset_other _ _ _ _ hne

/-- Group `g` shows a period start at fine time `f` that brought its count to `n`. -/
structure StartShown (g : Fin 15) (f n : Nat) (s : State) : Prop where
  cnt : s.get64 TBU.pg (TBU.LG_CNT_LO.ix g) = n
  running : s.on TBU.pg (TBU.LG_STAT_RUNNING.ix g) = true
  last : (vget s.lg g).last = f

namespace StartShown

variable {g h : Fin 15} {f n : Nat} {s t : State}

theorem regs (hs : StartShown g f n s) (hr : t.regs = s.regs) (hl : (vget t.lg g).last = f) : StartShown g f n t where
  cnt := (State.get64_of_rd (State.rd_of_regs hr _) (State.rd_of_regs hr _)).trans hs.cnt
  running := by rw [State.on, State.get_eq_of_rd (State.rd_of_regs hr _) rfl]; exact hs.running
  last := hl

theorem lgSet (hs : StartShown g f n s) {F : LgH → LgH} (hF : (F (vget s.lg g)).last = f) :
    StartShown g f n (s.lgSet g F) := hs.regs rfl (by rw [State.vget_lgSet_same, hF])

theorem lgSet_other (hs : StartShown g f n s) (F : LgH → LgH) (hne : h ≠ g) : StartShown g f n (s.lgSet h F) :=
  hs.regs rfl (by rw [State.vget_lgSet_other _ _ hne, hs.last])

theorem ite {c : Prop} [Decidable c] (hs : StartShown g f n s) (ht : StartShown g f n t) :
    StartShown g f n (if c then s else t) := by split <;> assumption

/-- The bits of `LG_STAT` beside RUNNING. -/
theorem stat (hs : StartShown g f n s) {x : Fld} (b : Bool) (hoff : x.off = 0x10C) (hstride : x.stride = 32) (hlo : 0 < x.lo)
    (hw : x.lo ≤ x.hi + 1) (hhi : x.hi < 32) : StartShown g f n (s.flag TBU.pg (x.ix g) b) where
  cnt := by
    rw [State.flag, s.get64_put_other]
    · exact hs.cnt
    all_goals simp only [Fld.ix, hoff, hstride, TBU.LG_CNT_LO]; omega
  running := by
    rw [State.on, State.flag, s.get_put_bits (x := x.ix g) _ hw hhi (.inl hlo)]
    exact hs.running
  last := by rw [State.flag_lg, hs.last]

theorem lgAnew (hs : StartShown g f n s) (hne : h ≠ g) : StartShown g f n (s.lgAnew g h) :=
  ite (hs.lgSet_other _ hne) hs

theorem lgSlave (hs : StartShown g f n s) (t : Nat) (hne : h ≠ g) : StartShown g f n (s.lgSlave g h t) := by
  unfold State.lgSlave
  dsimp only
  refine ite (ite hs (ite (hs.lgSet_other _ hne) (ite (hs.lgSet_other _ hne) (hs.lgSet_other _ hne)))) hs

/-- The other groups that follow a period start. -/
theorem slaves (hs : StartShown g f n s) (fresh : Bool) (t : Nat) (l : List (Fin 15)) :
    StartShown g f n (l.foldl (fun s h => if h ≠ g then (if fresh then s.lgAnew g h else s).lgSlave g h t else s) s) := by
  induction l generalizing s with
  | nil => exact hs
  | cons h l ih =>
    rw [List.foldl_cons]
    by_cases hne : h ≠ g
    · rw [if_pos hne]
      exact ih ((ite (hs.lgAnew hne) hs).lgSlave t hne)
    · rw [if_neg hne]
      exact ih hs

end StartShown

/-- A period start advances the count, shows RUNNING and dates the period (R75). -/
theorem State.lgRaise_shows (s : State) (g : Fin 15) (f : Nat) : StartShown g f
    ((if s.on TBU.pg (TBU.LG_STAT_RUNNING.ix g) then s.get64 TBU.pg (TBU.LG_CNT_LO.ix g) + 1 else 1) % 2 ^ 64)
    (s.lgRaise g f) := by
  set n := if s.on TBU.pg (TBU.LG_STAT_RUNNING.ix g) then s.get64 TBU.pg (TBU.LG_CNT_LO.ix g) + 1 else 1 with hn
  have hcnt : ((s.put64 TBU.pg (TBU.LG_CNT_LO.ix g) n).flag TBU.pg (TBU.LG_STAT_RUNNING.ix g) true).get64 TBU.pg
      (TBU.LG_CNT_LO.ix g) = n % 2 ^ 64 := by
    rw [State.flag, State.get64_put_other, State.get64_put64]
    · exact inPage_tbu (by simp only [Fld.ix, TBU.LG_CNT_LO]; omega)
    · exact inPage_tbu (by simp only [Fld.ix, TBU.LG_CNT_LO]; omega)
    all_goals simp only [Fld.ix, TBU.LG_CNT_LO, TBU.LG_STAT_RUNNING]; omega
  have hrun : ((s.put64 TBU.pg (TBU.LG_CNT_LO.ix g) n).flag TBU.pg (TBU.LG_STAT_RUNNING.ix g) true).on TBU.pg
      (TBU.LG_STAT_RUNNING.ix g) = true :=
    State.on_flag_same _ true (inPage_tbu (by simp only [Fld.ix, TBU.LG_STAT_RUNNING]; omega)) rfl (show 0 < 32 by decide)
  have hset (F : LgH → LgH) (hF : ∀ l, (F l).last = f) : StartShown g f (n % 2 ^ 64) (((s.put64 TBU.pg (TBU.LG_CNT_LO.ix g)
      n).flag TBU.pg (TBU.LG_STAT_RUNNING.ix g) true).lgSet g F) :=
    ⟨hcnt, hrun, by rw [State.vget_lgSet_same, hF]⟩
  have hslew (u : State) (b : Bool) (hu : StartShown g f (n % 2 ^ 64) u) :
      StartShown g f (n % 2 ^ 64) (u.flag TBU.pg (TBU.LG_STAT_SLEWING.ix g) b) :=
    hu.stat b rfl rfl (by decide) (by decide) (by decide)
  have hpend (u : State) (b : Bool) (hu : StartShown g f (n % 2 ^ 64) u) :
      StartShown g f (n % 2 ^ 64) (u.flag TBU.pg (TBU.LG_STAT_RESTART_PEND.ix g) b) :=
    hu.stat b rfl rfl (by decide) (by decide) (by decide)
  have hjoin (u : State) (c : Prop) [Decidable c] (hu : StartShown g f (n % 2 ^ 64) u) : StartShown g f (n % 2 ^ 64)
      (if c then (u.lgSet g fun l => { l with renewAt := 0 }).flag TBU.pg (TBU.LG_STAT_RESTART_PEND.ix g) false else u) :=
    .ite (hpend _ _ (hu.lgSet hu.last)) hu
  unfold State.lgRaise
  dsimp only
  rw [← hn]
  split
  · exact hpend _ _ (hslew _ _ (.ite (hset _ fun _ => rfl) (.ite (hset _ fun _ => rfl) (hset _ fun _ => rfl))))
  · exact .slaves (hjoin _ _ (hslew _ _ (hset _ fun _ => rfl))) _ _ _

/-- LG_PERIOD_START: the next period start of the group, or the end of its grid (R75, R80). -/
theorem exec_lgPeriodStart {dt : Nat} {g : Fin 15} {s : State} {f : Nat} (hon : s.dev.off = false)
    (hnext : (vget s.lg g).next = some f) (hf : f / 128 = s.now + dt) : exec (.lgPeriodStart dt g) s =
      .next (if (vget s.lg g).renew then (s.advance dt).lgRenew g f else (s.advance dt).periodStart g f) := by
  change execLgPeriodStart dt g s = _
  unfold execLgPeriodStart
  dsimp only
  rw [State.advance_lg, hnext]
  dsimp only
  rw [if_pos (hf.trans (State.now_advance_of_on hon dt).symm)]

/-! ### Compare channels (R81) -/

@[simp] theorem State.cmpTime_advance (s : State) (dt c : Nat) : (s.advance dt).cmpTime c = s.cmpTime c := by
  simp [State.cmpTime, State.on]

@[simp] theorem State.cmpDrives_advance (s : State) (dt c : Nat) : (s.advance dt).cmpDrives c = s.cmpDrives c := by
  simp [State.cmpDrives, State.on]

/-- A match is dated. -/
theorem State.cmpTick_cmpMatch (s : State) (c : Fin 16) (f : Nat) :
    vget (s.cmpMatch c f).tbu.cmpTick c = some s.now := by
  unfold State.cmpMatch
  dsimp only
  split
  · split <;> exact vget_vset_same ..
  · exact vget_vset_same ..

/-- The pin of a channel that drives it has the level of its ACTION from the match on. -/
theorem State.cmpPin_cmpMatch (s : State) (c : Fin 16) (f : Nat) : (vget (s.cmpMatch c f).tbu.cmpPin c).at_ f =
    if s.cmpDrives c then cmpAction (s.get TBU.pg (TBU.CMP_CFG_ACTION.ix c)) ((vget s.tbu.cmpPin c).at_ f)
    else (vget s.tbu.cmpPin c).at_ f := by
  have hdrives : State.cmpDrives { s with tbu := { s.tbu with cmpTick := vset s.tbu.cmpTick c (some s.now) } } c =
      s.cmpDrives c := rfl
  unfold State.cmpMatch
  dsimp only
  rw [hdrives, State.get_tbu]
  split
  · split
    next hsame => exact hsame.symm
    next =>
      rw [vget_vset_same, CmpPin.at_, if_neg (lt_irrefl f)]
  · rfl

/-- CMP_MATCH: the match is dated and its pin acts; the injected sequences that it starts leave both (R81, R123). -/
theorem cmpMatch_acts {dt : Nat} {c : Fin 16} {s : State} {f : Nat} (hon : s.dev.off = false) (ht : s.cmpTime c = some f)
    (hf : f / 128 = s.now + dt) (hnew : vget s.tbu.cmpTick c ≠ some (s.now + dt)) :
    ∃ t, exec (.cmpMatch dt c) s = .next t ∧ vget t.tbu.cmpTick c = some (s.now + dt) ∧
      (vget t.tbu.cmpPin c).at_ f = if s.cmpDrives c then
        cmpAction (s.get TBU.pg (TBU.CMP_CFG_ACTION.ix c)) ((vget s.tbu.cmpPin c).at_ f)
        else (vget s.tbu.cmpPin c).at_ f := by
  have hnow := State.now_advance_of_on hon dt
  have hexec : exec (.cmpMatch dt c) s = .next (((s.advance dt).cmpMatch c f).adhCompare c) := by
    change execCmpMatch dt c s = _
    unfold execCmpMatch
    dsimp only
    rw [State.cmpTime_advance, ht]
    dsimp only
    rw [if_pos ⟨hf.trans hnow.symm, by rwa [State.advance_tbu, hnow]⟩]
  have htbu : (((s.advance dt).cmpMatch c f).adhCompare c).tbu = ((s.advance dt).cmpMatch c f).tbu :=
    (Kept.adhCompare _ c).within .tbu (by simp)
  refine ⟨_, hexec, ?_, ?_⟩
  · rw [htbu, State.cmpTick_cmpMatch, hnow]
  · rw [htbu, State.cmpPin_cmpMatch, State.cmpDrives_advance, State.get_advance, State.advance_tbu]

/-! ### Captures (R82) -/

/-- CAPTURE: the selected edge of a live source is stamped; a stamp that was not read shows as overrun. -/
theorem capture_stamps {dt : Nat} {c : Fin 16} {falling : Bool} {fine : Fin 128} {s : State} (hon : s.dev.off = false)
    (hen : s.on TBU.pg (TBU.CAP_CFG_EN.ix c) = true)
    (hedge : if falling then s.get TBU.pg (TBU.CAP_CFG_EDGE.ix c) / 2 = 1 else s.get TBU.pg (TBU.CAP_CFG_EDGE.ix c) % 2 = 1)
    (hsrc : s.get TBU.pg (TBU.CAP_CFG_SRC.ix c) ≤ 0x15)
    (hsync : s.get TBU.pg (TBU.CAP_CFG_SRC.ix c) = 0 → s.on TBU.pg TBU.SYNCCFG_EN = true) :
    ∃ t, exec (.capture dt c falling fine) s = .next t ∧
      t.get64 TBU.pg (TBU.CAP_STAMP_LO.ix c) = (s.now + dt) % 2 ^ 57 * 128 + fine ∧
      t.on TBU.pg (TBU.CAP_CFG_NEW.ix c) = true ∧
      t.on TBU.pg (TBU.CAP_CFG_OVR.ix c) = (s.on TBU.pg (TBU.CAP_CFG_OVR.ix c) || s.on TBU.pg (TBU.CAP_CFG_NEW.ix c)) := by
  have hnow := State.now_advance_of_on hon dt
  set stamp := (s.now + dt) % 2 ^ 57 * 128 + fine with hstamp
  set lost := s.on TBU.pg (TBU.CAP_CFG_OVR.ix c) || s.on TBU.pg (TBU.CAP_CFG_NEW.ix c) with hlost
  have hexec : exec (.capture dt c falling fine) s = .next ((((s.advance dt).put64 TBU.pg (TBU.CAP_STAMP_LO.ix c)
      stamp).flag TBU.pg (TBU.CAP_CFG_OVR.ix c) lost).flag TBU.pg (TBU.CAP_CFG_NEW.ix c) true) := by
    have hpicked : (if falling then s.get TBU.pg (TBU.CAP_CFG_EDGE.ix c) / 2 == 1
        else s.get TBU.pg (TBU.CAP_CFG_EDGE.ix c) % 2 == 1) = true := by cases falling <;> simpa using hedge
    have hlive : (s.get TBU.pg (TBU.CAP_CFG_SRC.ix c) != 0 || s.on TBU.pg TBU.SYNCCFG_EN) = true := by
      simpa [or_iff_not_imp_left] using hsync
    change execCapture dt c falling fine s = _
    unfold execCapture
    dsimp only
    simp only [State.on, State.get_advance, hnow] at hen hlive hlost ⊢
    rw [if_pos (by simp [hen, hpicked, hlive, hsrc]), hstamp, hlost]
  have hcfg : inPage TBU.pg (TBU.CAP_CFG_NEW.ix c) = true := inPage_tbu (by simp only [Fld.ix, TBU.CAP_CFG_NEW]; omega)
  refine ⟨_, hexec, ?_, State.on_flag_same _ true hcfg rfl (show 30 < 32 by decide), ?_⟩
  · rw [State.flag, State.get64_put_other, State.flag, State.get64_put_other, State.get64_put64]
    · omega
    · exact inPage_tbu (by simp only [Fld.ix, TBU.CAP_STAMP_LO]; omega)
    · exact inPage_tbu (by simp only [Fld.ix, TBU.CAP_STAMP_LO]; omega)
    all_goals simp only [Fld.ix, TBU.CAP_STAMP_LO, TBU.CAP_CFG_OVR, TBU.CAP_CFG_NEW]; omega
  · rw [State.on, State.flag, State.get_put_bits _ _ (show 30 ≤ 30 + 1 by decide) (show 30 < 32 by decide)
      (.inr (show 30 < 31 by decide))]
    exact State.on_flag_same _ lost (inPage_of_off hcfg rfl) rfl (show 31 < 32 by decide)

/-- Settles O23: a period start shows as `StartShown` says and is the sequence of `periodStart`; a match and a capture are the
lemmas above. -/
theorem lockGroupsAndTheirChannels : Obligations.LockGroupsAndTheirChannels := by
  refine ⟨fun s g f => ?_, fun dt g s f hon hnext hf => ⟨fun hgrid => ?_, fun hrenew => ?_⟩,
    fun dt c s f hon ht hf hnew => cmpMatch_acts hon ht hf hnew,
    fun dt c falling fine s hon hen hedge hsrc hsync => capture_stamps hon hen hedge hsrc hsync⟩
  · obtain ⟨hcnt, hrun, hlast⟩ := s.lgRaise_shows g f
    exact ⟨hcnt, hrun, hlast⟩
  · rw [exec_lgPeriodStart hon hnext hf, hgrid, if_neg (by decide), State.periodStart]
  · rw [exec_lgPeriodStart hon hnext hf, hrenew, if_pos rfl]

/-! ### An empty queue (log 4) -/

/-- Settles O2: with no command waiting a step is one tick of `advance`, which stands in OFF. -/
theorem emptyQueuePassesOneTick : Obligations.EmptyQueuePassesOneTick := by
  intro s hempty
  have hstep : step s = .next (s.advance 1) := by unfold step; rw [hempty]
  rw [hstep, State.advance]
  cases s.dev.off <;> rfl

end Sys2Proof.Machine
end

section
/-! SUPPORT. Interpolators, synchronisation and steering (R83 to R87, R90). -/

namespace Sys2Proof.Machine
open Sys2Proof

/-! ### Interpolators (R84) -/

@[simp] theorem State.calOk_tbu (s : State) : s.calOk.tbu = s.tbu := by rw [State.calOk, State.flag_tbu]

@[simp] theorem State.incSat_tbu (s : State) (p : Page) (x : Fld) : (s.incSat p x).tbu = s.tbu :=
  s.sameAt_incSat p x (q := .tbu) (by simp)

/-- A swap ends the staleness of its output and is dated (R84). -/
theorem interpolatorSwap_swaps {dt : Nat} {i : Fin 100} {s : State} (ps : Nat) (hon : s.dev.off = false)
    (hnear : (s.advance dt).edgeNear i = false) :
    ∃ t, exec (.interpolatorSwap dt i ps) s = .next t ∧ vget t.tbu.stale i = false ∧ vget t.tbu.swapAt i = s.now + dt := by
  have hcount (u : State) (c : Prop) [Decidable c] (v : Nat) :
      (if c then u.put TBU.pg TBU.CALSTAT_STALE_CNT v else u).calOk.tbu = u.tbu := by
    rw [State.calOk_tbu]
    split
    · exact u.put_tbu ..
    · rfl
  change ∃ t, execInterpolatorSwap dt i ps s = .next t ∧ _
  unfold execInterpolatorSwap
  dsimp only
  rw [if_neg (by simp [hnear])]
  refine ⟨_, rfl, ?_, ?_⟩
  · rw [hcount]
    exact vget_vset_same ..
  · rw [hcount]
    exact (vget_vset_same ..).trans (State.now_advance_of_on hon dt)

/-- An output that has not swapped for 16 cycles is stale and flagged (R84, R90). -/
theorem calStale_flags {dt : Nat} {i : Fin 100} {s : State} (hon : s.dev.off = false)
    (hfresh : vget s.tbu.stale i = false) (hmiss : vget s.tbu.swapAt i + 16 * 50000 ≤ s.now + dt) :
    ∃ t, exec (.calStale dt i) s = .next t ∧ vget t.tbu.stale i = true ∧ t.on TBU.pg TBU.EVT_CAL_STALE = true := by
  have hnow := State.now_advance_of_on hon dt
  have hexec : exec (.calStale dt i) s = .next (((State.incSat { s.advance dt with
      tbu := { (s.advance dt).tbu with stale := vset (s.advance dt).tbu.stale i true } } TBU.pg
      TBU.CALSTAT_STALE_CNT).calOk.evt TBU.pg TBU.EVT_CAL_STALE).note 0x103 1 0 0) := by
    change execCalStale dt i s = _
    unfold execCalStale
    dsimp only
    rw [if_neg, State.raise_one]
    rw [hnow, State.advance_tbu, hfresh, calCycleTicks]
    rintro (h | h)
    · cases h
    · omega
  refine ⟨_, hexec, ?_, ?_⟩
  · rw [State.note_tbu, State.evt_tbu, State.calOk_tbu, State.incSat_tbu]
    exact vget_vset_same ..
  · rw [State.on, State.get_note_tbu _ _ _ _ _ (by decide)]
    exact State.on_evt_tbu _ rfl rfl (by decide)

/-! ### SYNC groups (R85) -/

@[simp] theorem State.evtIf_now (s : State) (c : Bool) (p : Page) (x : Fld) : (s.evtIf c p x).now = s.now :=
  (Kept.evtIf s c p x).within .now (by simp)

@[simp] theorem State.evtIf_lg (s : State) (c : Bool) (p : Page) (x : Fld) : (s.evtIf c p x).lg = s.lg :=
  (Kept.evtIf s c p x).within .lg (by simp)

theorem State.get_evtIf_tbu (s : State) (c : Bool) {x y : Fld} (hlo : y.off ≠ 0x010) (hhi : y.off < 0x1000) :
    (s.evtIf c TBU.pg x).get TBU.pg y = s.get TBU.pg y := by
  unfold State.evtIf
  split
  · exact s.get_evt_tbu hlo hhi
  · rfl

/-- The words of the TBU page that an edge of `SYNC_IN` may change for groups other than `g`. -/
def syncElsewhere (g : Fin 15) (off : Nat) : Prop := off = 0x010 ∨ off = 0x074 ∨ ∃ h : Fin 15, h ≠ g ∧ off = 0x10C + h * 32

/-- Between the states only the part of other groups than `g` in an edge of `SYNC_IN` has happened. -/
structure SyncApart (g : Fin 15) (s t : State) : Prop where
  now : t.now = s.now
  group : vget t.lg g = vget s.lg g
  words : Beside TBU.pg (syncElsewhere g) s t

namespace SyncApart

variable {g h : Fin 15} {s t u : State}

theorem refl (s : State) : SyncApart g s s := ⟨rfl, rfl, .refl s⟩

theorem trans (hs : SyncApart g s t) (ht : SyncApart g t u) : SyncApart g s u :=
  ⟨ht.now.trans hs.now, ht.group.trans hs.group, hs.words.trans ht.words⟩

theorem ite {c : Prop} [Decidable c] (hs : SyncApart g s t) (ht : SyncApart g s u) :
    SyncApart g s (if c then t else u) := by split <;> assumption

theorem lgSet (hs : SyncApart g s t) (F : LgH → LgH) (hne : h ≠ g) : SyncApart g s (t.lgSet h F) :=
  ⟨hs.now, (t.vget_lgSet_other F hne).trans hs.group, hs.words.regs rfl⟩

theorem put (hs : SyncApart g s t) {x : Fld} (v : Nat) (hx : syncElsewhere g x.off) :
    SyncApart g s (t.put TBU.pg x v) :=
  ⟨(t.put_now ..).trans hs.now, by rw [State.put_lg, hs.group], hs.words.put _ _ v fun _ => hx⟩

theorem tbu (hs : SyncApart g s t) (v : TbuH) : SyncApart g s { t with tbu := v } :=
  ⟨hs.now, hs.group, hs.words.regs rfl⟩

theorem evtIf (hs : SyncApart g s t) (c : Bool) (x : Fld) : SyncApart g s (t.evtIf c TBU.pg x) :=
  ⟨(t.evtIf_now ..).trans hs.now, by rw [State.evtIf_lg, hs.group], hs.words.evtIf (by decide) _ _ _ fun _ => .inl rfl⟩

/-- The words of the group itself, and the settings of `SYNC_IN`. -/
theorem get (hs : SyncApart g s t) {x : Fld} (hx : x.off = 0x070 ∨ 0x100 + g * 32 ≤ x.off ∧ x.off < 0x120 + g * 32) :
    t.get TBU.pg x = s.get TBU.pg x := by
  refine hs.words.get (inPage_tbu (by omega)) ?_
  rintro (hoff | hoff | ⟨k, hne, hoff⟩)
  · omega
  · omega
  · have := Fin.val_ne_of_ne hne
    omega

/-- The group's configuration. -/
theorem lgRun (hs : SyncApart g s t) : t.lgRun g = s.lgRun g := by
  rw [State.lgRun, State.lgRun, State.on, State.on, hs.get (.inr (by simp only [Fld.ix, TBU.LG_CFG_RUN]; omega))]

theorem lgMode (hs : SyncApart g s t) : t.lgMode g = s.lgMode g :=
  hs.get (.inr (by simp only [Fld.ix, TBU.LG_CFG_MODE]; omega))

theorem lgPeriodCfg (hs : SyncApart g s t) : t.lgPeriodCfg g = s.lgPeriodCfg g :=
  congrArg (· % 2 ^ 31) (hs.get (.inr (by simp only [Fld.ix, TBU.LG_PERIOD]; omega)))

theorem lgPhaseCfg (hs : SyncApart g s t) : t.lgPhaseCfg g = s.lgPhaseCfg g :=
  hs.get (.inr (by simp only [Fld.ix, TBU.LG_PHASE_PHASE]; omega))

theorem syncState (hs : SyncApart g s t) :
    t.get TBU.pg (TBU.LG_STAT_SYNC_ST.ix g) = s.get TBU.pg (TBU.LG_STAT_SYNC_ST.ix g) :=
  hs.get (.inr (by simp only [Fld.ix, TBU.LG_STAT_SYNC_ST]; omega))

theorem syncWindow (hs : SyncApart g s t) : t.syncWindow g = s.syncWindow g := by
  rw [State.syncWindow, State.syncWindow, hs.lgPeriodCfg, hs.get (.inl rfl)]

/-- An edge that reaches another group. -/
theorem syncEdge (s : State) (e : Nat) (hne : h ≠ g) : SyncApart g s (s.syncEdge h e) := by
  have hstat : syncElsewhere g (TBU.LG_STAT_SYNC_ST.ix h).off := .inr (.inr ⟨h, hne, rfl⟩)
  unfold State.syncEdge
  dsimp only
  split
  · exact (refl s).lgSet _ hne
  · refine ite ?_ (ite (refl s) (((refl s).lgSet _ hne).lgSet _ hne))
    exact (((((refl s).lgSet _ hne).put _ hstat).put _ (.inr (.inl rfl))).tbu _).evtIf _ _

/-- An edge reaches the groups one after the other: before and after its turn only the others' parts happen. -/
theorem foldl {f : State → Fin 15 → State} (hf : ∀ s h, h ≠ g → SyncApart g s (f s h)) (s : State) :
    ∃ u, SyncApart g s u ∧ SyncApart g (f u g) ((List.finRange 15).foldl f s) := by
  have hothers (l : List (Fin 15)) (hl : g ∉ l) : ∀ s, SyncApart g s (l.foldl f s) := by
    induction l with
    | nil => exact refl
    | cons h l ih =>
      rw [List.mem_cons, not_or] at hl
      exact fun s => (hf s h (Ne.symm hl.1)).trans (ih hl.2 _)
  obtain ⟨before, after, hsplit⟩ := List.append_of_mem (List.mem_finRange g)
  have hnodup := List.nodup_finRange 15
  rw [hsplit, List.nodup_append] at hnodup
  obtain ⟨-, hafter, hapart⟩ := hnodup
  refine ⟨before.foldl f s, hothers before (fun hg => hapart g hg g (by simp) rfl) s, ?_⟩
  rw [hsplit, List.foldl_append, List.foldl_cons]
  exact hothers after (List.nodup_cons.mp hafter).1 _

end SyncApart

/-- The first edge of a group becomes its reference. -/
theorem State.syncEdge_first {s : State} {g : Fin 15} {e : Nat} (h : (vget s.lg g).syncRef = none) :
    (vget (s.syncEdge g e).lg g).syncRef = some e := by
  unfold State.syncEdge
  dsimp only
  rw [h]
  exact congrArg LgH.syncRef (s.vget_lgSet_same ..)

/-- An edge in the window steers the next period, and ends COAST (R85). -/
theorem State.syncEdge_taken {s : State} {g : Fin 15} {e r : Nat} (hr : (vget s.lg g).syncRef = some r)
    (hlo : s.lgPeriodCfg g ≤ e - r + s.syncWindow g) (hhi : e - r ≤ s.lgPeriodCfg g + s.syncWindow g)
    (hmin : 400 * 128 ≤ e - r) (hmax : e - r ≤ 16777215 * 128) :
    (vget (s.syncEdge g e).lg g).syncRef = some e ∧
    (vget (s.syncEdge g e).lg g).syncPer = some (clampInt ((s.lgPeriodCfg g : Int) - s.syncWindow g)
      (s.lgPeriodCfg g + s.syncWindow g)
      (((e - r : Nat) : Int) - nearestError (vget s.lg g) ((e : Int) + s.lgPhaseCfg g) / 8)).toNat ∧
    (s.get TBU.pg (TBU.LG_STAT_SYNC_ST.ix g) = 3 → (s.syncEdge g e).get TBU.pg (TBU.LG_STAT_SYNC_ST.ix g) = 1) := by
  unfold State.syncEdge
  dsimp only
  rw [hr]
  dsimp only
  rw [if_pos ⟨hlo, hhi, hmin, hmax⟩]
  simp only [State.evtIf_lg, State.put_lg, State.vget_lgSet_same, true_and]
  have hoff : (TBU.LG_STAT_SYNC_ST.ix g).off = 0x10C + g * 32 := rfl
  have hshown (u : State) (st per : Nat) : ((u.put TBU.pg (TBU.LG_STAT_SYNC_ST.ix g) st).put TBU.pg TBU.SYNCPER per).get
      TBU.pg (TBU.LG_STAT_SYNC_ST.ix g) = st % 2 ^ (5 + 1 - 4) := by
    have hper : (TBU.LG_STAT_SYNC_ST.ix g).off ≠ TBU.SYNCPER.off := by simp only [hoff, TBU.SYNCPER]; omega
    refine (State.get_put_word _ _ (fldAddr_ne_of_off hper)).trans ?_
    exact u.get_put_same st (inPage_tbu (by omega)) (show 4 ≤ 5 + 1 by decide) (show 5 < 32 by decide)
  intro hcoast
  refine (State.get_evtIf_tbu _ _ (by omega) (by omega)).trans ((hshown _ _ _).trans ?_)
  rw [hcoast, if_pos rfl]
  rfl

@[simp] theorem State.lgRun_advance (s : State) (dt g : Nat) : (s.advance dt).lgRun g = s.lgRun g := by
  simp only [State.lgRun, State.on, State.get_advance]

@[simp] theorem State.lgMode_advance (s : State) (dt g : Nat) : (s.advance dt).lgMode g = s.lgMode g := s.get_advance ..

@[simp] theorem State.lgPeriodCfg_advance (s : State) (dt g : Nat) : (s.advance dt).lgPeriodCfg g = s.lgPeriodCfg g :=
  congrArg (· % 2 ^ 31) (s.get_advance ..)

@[simp] theorem State.lgPhaseCfg_advance (s : State) (dt g : Nat) : (s.advance dt).lgPhaseCfg g = s.lgPhaseCfg g :=
  s.get_advance ..

@[simp] theorem State.syncWindow_advance (s : State) (dt : Nat) (g : Fin 15) :
    (s.advance dt).syncWindow g = s.syncWindow g := by
  simp only [State.syncWindow, State.lgPeriodCfg_advance, State.get_advance]

section Edge

variable {dt : Nat} {falling : Bool} {fine : Fin 128} {g : Fin 15} {s : State} (hon : s.dev.off = false)
  (hen : s.on TBU.pg TBU.SYNCCFG_EN = true) (hedge : s.on TBU.pg TBU.SYNCCFG_EDGE = falling)
  (hrun : s.lgRun g = true) (hmode : s.lgMode g = 3)

include hon hen hedge hrun hmode

/-- The selected edge reaches a SYNC group that runs; before and after that only other groups take it (R85). -/
theorem exec_syncInEdge : ∃ u, SyncApart g (s.advance dt) u ∧ ∃ t, exec (.syncInEdge dt falling fine) s = .next t ∧
    SyncApart g (u.syncEdge g ((s.now + dt) * 128 + fine)) t := by
  obtain ⟨u, hu, ht⟩ := SyncApart.foldl (g := g) (f := fun s (h : Fin 15) =>
    if s.lgRun h ∧ s.lgMode h = 3 then s.syncEdge h (s.now * 128 + fine) else s)
    (fun s h hne => .ite (.syncEdge s _ hne) (.refl s)) (s.advance dt)
  have hturn : u.lgRun g = true ∧ u.lgMode g = 3 := by
    rw [hu.lgRun, hu.lgMode, State.lgRun_advance, State.lgMode_advance]
    exact ⟨hrun, hmode⟩
  rw [if_pos hturn, hu.now, State.now_advance_of_on hon] at ht
  refine ⟨u, hu, _, ?_, ht⟩
  change execSyncInEdge dt falling fine s = _
  unfold execSyncInEdge
  dsimp only
  rw [if_pos]
  simpa [State.on] using And.intro hen hedge

/-- The first edge is the group's reference (R85, log 86). -/
theorem syncInEdge_first (hfirst : (vget s.lg g).syncRef = none) : ∃ t, exec (.syncInEdge dt falling fine) s = .next t ∧
    (vget t.lg g).syncRef = some ((s.now + dt) * 128 + fine) := by
  obtain ⟨u, hu, t, hexec, ht⟩ := exec_syncInEdge (dt := dt) (fine := fine) hon hen hedge hrun hmode
  refine ⟨t, hexec, ?_⟩
  rw [ht.group, State.syncEdge_first]
  rw [hu.group, State.advance_lg, hfirst]

/-- An edge in the window steers the group's next period and ends COAST (R85). -/
theorem syncInEdge_steers {e r : Nat} (he : e = (s.now + dt) * 128 + fine) (hr : (vget s.lg g).syncRef = some r)
    (hlo : s.lgPeriodCfg g ≤ e - r + s.syncWindow g) (hhi : e - r ≤ s.lgPeriodCfg g + s.syncWindow g)
    (hmin : 400 * 128 ≤ e - r) (hmax : e - r ≤ 16777215 * 128) :
    ∃ t, exec (.syncInEdge dt falling fine) s = .next t ∧ (vget t.lg g).syncRef = some e ∧
      (vget t.lg g).syncPer = some (clampInt ((s.lgPeriodCfg g : Int) - s.syncWindow g)
        (s.lgPeriodCfg g + s.syncWindow g)
        (((e - r : Nat) : Int) - nearestError (vget s.lg g) ((e : Int) + s.lgPhaseCfg g) / 8)).toNat ∧
      (s.get TBU.pg (TBU.LG_STAT_SYNC_ST.ix g) = 3 → t.get TBU.pg (TBU.LG_STAT_SYNC_ST.ix g) = 1) := by
  obtain ⟨u, hu, t, hexec, ht⟩ := exec_syncInEdge (dt := dt) (fine := fine) hon hen hedge hrun hmode
  rw [← he] at ht
  have hgroup : vget u.lg g = vget s.lg g := by rw [hu.group, State.advance_lg]
  have hper : u.lgPeriodCfg g = s.lgPeriodCfg g := by rw [hu.lgPeriodCfg, State.lgPeriodCfg_advance]
  have hphase : u.lgPhaseCfg g = s.lgPhaseCfg g := by rw [hu.lgPhaseCfg, State.lgPhaseCfg_advance]
  have hwin : u.syncWindow g = s.syncWindow g := by rw [hu.syncWindow, State.syncWindow_advance]
  have hst : u.get TBU.pg (TBU.LG_STAT_SYNC_ST.ix g) = s.get TBU.pg (TBU.LG_STAT_SYNC_ST.ix g) := by
    rw [hu.syncState, State.get_advance]
  have htaken := State.syncEdge_taken (s := u) (g := g) (e := e) (r := r)
  rw [hgroup, hper, hphase, hwin, hst] at htaken
  obtain ⟨href, hsync, hcoast⟩ := htaken hr hlo hhi hmin hmax
  exact ⟨t, hexec, by rw [ht.group, href], by rw [ht.group, hsync], fun h3 => ht.syncState.trans (hcoast h3)⟩

end Edge

/-- A FOLLOW group that misses its edge twice coasts, and forgets the edge (R85, R90, log 86). -/
theorem syncLost_coasts {dt : Nat} {g : Fin 15} {s : State} {r : Nat} (hon : s.dev.off = false) (hmode : s.lgMode g = 3)
    (hst : s.get TBU.pg (TBU.LG_STAT_SYNC_ST.ix g) = 2) (hr : (vget s.lg g).syncRef = some r)
    (hmiss : r + 2 * ((vget s.lg g).period * (100 + s.get TBU.pg TBU.SYNCCFG_WIN) / 100) ≤ (s.now + dt) * 128) :
    ∃ t, exec (.syncLost dt g) s = .next t ∧ t.get TBU.pg (TBU.LG_STAT_SYNC_ST.ix g) = 3 ∧
      t.on TBU.pg TBU.EVT_SYNC_LOST = true ∧ (vget t.lg g).syncPer = none := by
  have hnow := State.now_advance_of_on hon dt
  have hoff : (TBU.LG_STAT_SYNC_ST.ix g).off = 0x10C + g * 32 := rfl
  have hexec : exec (.syncLost dt g) s = .next (((((s.advance dt).lgSet g fun l =>
      { l with syncRef := none, syncGood := 0, syncPer := none }).put TBU.pg (TBU.LG_STAT_SYNC_ST.ix g) 3).evt TBU.pg
        TBU.EVT_SYNC_LOST).note 0x104 1 0 0) := by
    change execSyncLost dt g s = _
    unfold execSyncLost
    dsimp only
    rw [State.advance_lg, hr]
    dsimp only
    rw [if_pos, State.raise_one]
    simp only [State.lgMode_advance, State.get_advance, State.fineNow, hnow, decide_eq_true_eq]
    exact ⟨hmode, hst, hmiss⟩
  refine ⟨_, hexec, ?_, ?_, ?_⟩
  · rw [State.get_note_tbu _ _ _ _ _ (by omega), State.get_evt_tbu _ (by omega) (by omega)]
    exact State.get_put_same _ 3 (inPage_tbu (by omega)) (show 4 ≤ 5 + 1 by decide) (show 5 < 32 by decide)
  · rw [State.on, State.get_note_tbu _ _ _ _ _ (by decide)]
    exact State.on_evt_tbu _ rfl rfl (by decide)
  · rw [State.note_lg, State.evt_lg, State.put_lg, State.vget_lgSet_same]

/-! ### SYNC_OUT and steering (R86, R87) -/

/-- The pulse of `SYNC_OUT` ends, and no register changes (R86). -/
theorem syncOutEnd_ends {dt b e : Nat} {s : State} (hon : s.dev.off = false) (hout : s.tbu.syncOut = some (b, e))
    (he : e / 128 ≤ s.now + dt) :
    ∃ t, exec (.syncOutEnd dt) s = .next t ∧ t.tbu.syncOut = none ∧ t.regs = s.regs := by
  have hexec : exec (.syncOutEnd dt) s =
      .next { s.advance dt with tbu := { (s.advance dt).tbu with syncOut := none } } := by
    change execSyncOutEnd dt s = _
    unfold execSyncOutEnd
    dsimp only
    rw [State.advance_tbu, hout]
    dsimp only
    rw [if_pos (by rwa [State.now_advance_of_on hon])]
  exact ⟨_, hexec, rfl, s.advance_regs dt⟩

/-- A residual that persists for 400,000 ticks is flagged once (R87, R90). -/
theorem steerLimit_flags {dt e : Nat} {s : State} (hon : s.dev.off = false) (hsince : s.tbu.steerSince = some e)
    (he : e + 400000 ≤ s.now + dt) (hdisc : s.on TBU.pg TBU.STAT_FAB_DISC = true) (hnot : s.tbu.steerRaised = false) :
    ∃ t, exec (.steerLimit dt) s = .next t ∧ t.tbu.steerRaised = true ∧ t.on TBU.pg TBU.EVT_STEER_LIMIT = true := by
  have hexec : exec (.steerLimit dt) s = .next ((State.evt { s.advance dt with
      tbu := { (s.advance dt).tbu with steerRaised := true } } TBU.pg TBU.EVT_STEER_LIMIT).note 0x105 1 0 0) := by
    change execSteerLimit dt s = _
    unfold execSteerLimit
    dsimp only
    rw [State.advance_tbu, hsince]
    dsimp only
    rw [if_pos, State.raise_one]
    rw [State.now_advance_of_on hon, State.on, State.get_advance, hnot]
    exact ⟨he, hdisc, by decide⟩
  refine ⟨_, hexec, by rw [State.note_tbu, State.evt_tbu], ?_⟩
  rw [State.on, State.get_note_tbu _ _ _ _ _ (by decide)]
  exact State.on_evt_tbu _ rfl rfl (by decide)

/-- Settles O24: each clause is the lemma about its event above. -/
theorem interpolatorsAndSynchronisation : Obligations.InterpolatorsAndSynchronisation := by
  refine fun dt s hon => ⟨fun i ps hnear => interpolatorSwap_swaps ps hon hnear,
    fun i hfresh hmiss => calStale_flags hon hfresh hmiss, fun falling fine g hen hedge hrun hmode e he => ⟨fun hfirst => ?_,
      fun r w hr hw hlo hhi hmin hmax => ?_⟩,
    fun g r hmode hst hr hmiss => syncLost_coasts hon hmode hst hr hmiss, fun b e hout he => syncOutEnd_ends hon hout he,
    fun e hsince he hdisc hnot => steerLimit_flags hon hsince he hdisc hnot⟩
  · exact he ▸ syncInEdge_first hon hen hedge hrun hmode hfirst
  · subst hw
    exact syncInEdge_steers hon hen hedge hrun hmode he hr hlo hhi hmin hmax

end Sys2Proof.Machine
end

section
/-! SUPPORT. The traction PWM: the shadow triplet, update points, and the arithmetic that shapes the compare values (R96 to
R100). -/

namespace Sys2Proof.Machine
open Sys2Proof

/-! ### Shadow triplets (R97) -/

theorem inPage_tpw (n : Fin 6) {x : Fld} (hx : x.off < 0x1000) : inPage (TPW.pg n) x = true :=
  inPage_of_hasHeader (decide_eq_true n.isLt) rfl hx

theorem State.get_of_regs {s t : State} (h : t.regs = s.regs) (p : Page) (x : Fld) : t.get p x = s.get p x :=
  State.get_eq_of_rd (State.rd_of_regs h _) rfl

@[simp] theorem State.on_advance (s : State) (dt : Nat) (p : Page) (x : Fld) : (s.advance dt).on p x = s.on p x :=
  congrArg (· == 1) (s.get_advance ..)

@[simp] theorem State.tpwSet_regs (s : State) (n : Fin 6) (f : TpwH → TpwH) : (s.tpwSet n f).regs = s.regs := rfl

@[simp] theorem State.msvSet_regs (s : State) (m : Nat) (f : MsvH → MsvH) : (s.msvSet m f).regs = s.regs := by
  unfold State.msvSet
  split <;> rfl

/-- A request for SWITCH waits for an update point, and shows in no register (R102). -/
@[simp] theorem State.tpwAsk_switch_regs (s : State) (n : Nat) : (s.tpwAsk n 0).regs = s.regs := by
  unfold State.tpwAsk
  split <;> simp [State.tpwRequest]

@[simp] theorem State.tpwKeep_regs (s : State) (n : Fin 6) : (s.tpwKeep n).regs = s.regs := by
  unfold State.tpwKeep
  dsimp only
  split <;> rfl

/-- What a complete triplet shows is NEW; what else follows is hidden state. -/
theorem State.tpwComplete_regs (s : State) (n : Fin 6) :
    (s.tpwComplete n).regs = (s.flag (TPW.pg n) TPW.STAT_NEW true).regs := by
  unfold State.tpwComplete
  dsimp only
  split
  · split <;> simp
  · rfl

theorem State.get_tpwComplete_new (s : State) (n : Fin 6) : (s.tpwComplete n).get (TPW.pg n) TPW.STAT_NEW = 1 := by
  rw [State.get_of_regs (s.tpwComplete_regs n)]
  exact s.get_put_same 1 (inPage_tpw n (by decide)) (by decide) (by decide)

theorem State.get_tpwComplete_word (s : State) (n : Fin 6) {x : Fld} (hx : x.off ≠ 0x00C) :
    (s.tpwComplete n).get (TPW.pg n) x = s.get (TPW.pg n) x := by
  rw [State.get_of_regs (s.tpwComplete_regs n)]
  exact s.get_put_word _ (fldAddr_ne_of_off hx)

/-- The requesters that `CFG.CMP_SRC` lets write the shadows of tri-leg `n` (R97). -/
def State.tpwSource (s : State) (req n : Nat) : Prop :=
  (s.on (TPW.pg n) TPW.CFG_CMP_SRC = true ∧ req ≤ 2) ∨ (s.on (TPW.pg n) TPW.CFG_CMP_SRC = false ∧ req = 7)

section Shadow

variable {s : State} {req : Nat} {n : Fin 6} (leg : Fin 3) (val : Nat)

theorem State.tpwSource_iff : s.tpwSource req n ↔
    (if s.on (TPW.pg n) TPW.CFG_CMP_SRC then decide (req ≤ 2) else req == 7) = true := by
  unfold State.tpwSource
  cases s.on (TPW.pg n) TPW.CFG_CMP_SRC <;> simp

theorem State.tpwCmp_of_source (h : s.tpwSource req n) : s.tpwCmp req n leg val =
    if leg = 2 then ((s.tpwKeep n).put (TPW.pg n) (TPW.CMP.ix leg) val).tpwComplete n
    else (s.tpwKeep n).put (TPW.pg n) (TPW.CMP.ix leg) val := if_pos (State.tpwSource_iff.mp h)

theorem State.tpwCmp_of_not_source (h : ¬s.tpwSource req n) : s.tpwCmp req n leg val = s.refuse (TPW.pg n) :=
  if_neg (mt State.tpwSource_iff.mpr h)

/-- The shadow reads as its source wrote it, cut to its 31 bits. -/
theorem State.get_tpwCmp_shadow (h : s.tpwSource req n) :
    (s.tpwCmp req n leg val).get (TPW.pg n) (TPW.CMP.ix leg) = val % 2 ^ 31 := by
  have hoff : (TPW.CMP.ix leg).off = 0x060 + leg * 4 := rfl
  have hput : ((s.tpwKeep n).put (TPW.pg n) (TPW.CMP.ix leg) val).get (TPW.pg n) (TPW.CMP.ix leg) = val % 2 ^ 31 :=
    State.get_put_same _ val (inPage_tpw n (by omega)) (show 0 ≤ 30 + 1 by decide) (show 30 < 32 by decide)
  rw [State.tpwCmp_of_source leg val h]
  split
  · rw [State.get_tpwComplete_word _ _ (by omega), hput]
  · exact hput

/-- NEW is set by the write to leg 2 alone. -/
theorem State.get_tpwCmp_new (h : s.tpwSource req n) : (s.tpwCmp req n leg val).get (TPW.pg n) TPW.STAT_NEW =
    if leg = 2 then 1 else s.get (TPW.pg n) TPW.STAT_NEW := by
  have hoff : TPW.STAT_NEW.off ≠ (TPW.CMP.ix leg).off := show 0x00C ≠ 0x060 + leg.1 * 4 by omega
  rw [State.tpwCmp_of_source leg val h]
  split
  · exact State.get_tpwComplete_new _ n
  · rw [State.get_put_word _ _ (fldAddr_ne_of_off hoff), State.get_of_regs (s.tpwKeep_regs n)]

end Shadow

/-! ### Update points (R98) -/

theorem vset_vset {α : Type} {n : Nat} (v : Vector α n) (i : Fin n) (x y : α) : vset (vset v i x) i y = vset v i y :=
  Vector.set_set ..

theorem State.tpwSet_tpwSet (s : State) (n : Fin 6) (f g : TpwH → TpwH) :
    (s.tpwSet n f).tpwSet n g = s.tpwSet n fun h => g (f h) := by
  simp only [State.tpwSet, vget_vset_same, vset_vset]

/-- An update point that falls into this tick is taken, and those of ticks gone by are dropped. -/
theorem tpwUpdatePoint_takes {dt f per : Nat} {n : Fin 6} {s : State} {half : Bool} {rest : List (Nat × (Bool × Nat))}
    (hon : s.dev.off = false) (hdue : (vget s.tpw n).due = (f, (half, per)) :: rest) (hf : f / 128 = s.now + dt)
    (hen : s.on (TPW.pg n) HDR.CTRL_EN = true) : exec (.tpwUpdatePoint dt n) s = .next (((s.advance dt).tpwSet n fun h =>
      { h with due := rest.filter fun e => decide (s.now + dt ≤ e.1 / 128) }).tpwUpdate n f half per) := by
  have hnow := State.now_advance_of_on hon dt
  have hfilter : (vget (s.advance dt).tpw n).due.filter (fun e => decide ((s.advance dt).now ≤ e.1 / 128)) =
      (f, (half, per)) :: rest.filter fun e => decide (s.now + dt ≤ e.1 / 128) := by
    rw [State.advance_tpw, hdue, hnow]
    exact List.filter_cons_of_pos (decide_eq_true hf.ge)
  change execTpwUpdatePoint dt n s = _
  unfold execTpwUpdatePoint
  dsimp only
  rw [hfilter]
  dsimp only
  rw [if_pos ⟨hf.trans hnow.symm, (State.on_advance ..).trans hen⟩, State.tpwSet_tpwSet]

/-! ### The DISC shift (R96) -/

/-- A DISC mode brings the least value to 0 or the greatest to H. -/
theorem discShift_eq {mode : Nat} (h a b c : Nat) (hlo : 2 ≤ mode) (hhi : mode ≤ 4) :
    discShift mode h a b c = -((min a (min b c) : Nat) : Int) ∨
      discShift mode h a b c = (h : Int) - (max a (max b c) : Nat) := by
  obtain rfl | rfl | rfl : mode = 2 ∨ mode = 3 ∨ mode = 4 := by omega
  · exact .inl rfl
  · exact .inr rfl
  · exact ite_eq_or_eq ..

theorem discShift_within {mode h a b c : Nat} (hlo : 2 ≤ mode) (hhi : mode ≤ 4) (ha : a ≤ h) (hb : b ≤ h) (hc : c ≤ h)
    {x : Nat} (hx : x ∈ [a, b, c]) :
    0 ≤ (x : Int) + discShift mode h a b c ∧ (x : Int) + discShift mode h a b c ≤ h := by
  have hbetween : min a (min b c) ≤ x ∧ x ≤ max a (max b c) := by
    simp only [List.mem_cons, List.not_mem_nil, or_false] at hx
    omega
  obtain hshift | hshift := discShift_eq h a b c hlo hhi <;> omega

theorem discShift_reaches_end {mode h a b c : Nat} (hlo : 2 ≤ mode) (hhi : mode ≤ 4) :
    ∃ x ∈ [a, b, c], (x : Int) + discShift mode h a b c = 0 ∨ (x : Int) + discShift mode h a b c = h := by
  have hmin : min a (min b c) ∈ [a, b, c] := by
    simp only [List.mem_cons, List.not_mem_nil, or_false]
    omega
  have hmax : max a (max b c) ∈ [a, b, c] := by
    simp only [List.mem_cons, List.not_mem_nil, or_false]
    omega
  obtain hshift | hshift := discShift_eq h a b c hlo hhi
  · exact ⟨_, hmin, .inl (by omega)⟩
  · exact ⟨_, hmax, .inr (by omega)⟩

/-! ### The minimum pulse (R100) -/

/-- No pulse and no gap of a value within its length is shorter than W. -/
theorem minPulse_wide (extend : Bool) {w l c : Nat} (hw : 2 * w ≤ l) (hc : c ≤ l) : minPulse extend w l c = 0 ∨
    minPulse extend w l c = l ∨ w ≤ minPulse extend w l c ∧ minPulse extend w l c + w ≤ l := by
  unfold minPulse
  split
  next hpulse =>
    cases extend
    case false => exact .inl rfl
    case true => exact .inr (.inr ⟨le_rfl, show w + w ≤ l by omega⟩)
  next hpulse =>
    split
    next hgap =>
      cases extend
      case false => exact .inr (.inl rfl)
      case true => exact .inr (.inr ⟨show w ≤ l - w by omega, show l - w + w ≤ l by omega⟩)
    next hgap => omega

/-- Settles O25: each clause is the lemma about its operation above. -/
theorem shadowComparesAndUpdatePoints : Obligations.ShadowComparesAndUpdatePoints := by
  refine ⟨fun dt req n leg val s => ?_, fun dt n s f half per rest hon hdue hf hen => tpwUpdatePoint_takes hon hdue hf hen,
    fun mode h a b c hlo hhi ha hb hc => ⟨fun x hx => discShift_within hlo hhi ha hb hc hx, discShift_reaches_end hlo hhi⟩,
    fun extend w l c hw hc => minPulse_wide extend hw hc⟩
  have hsrc : (s.advance dt).tpwSource req n ↔ s.tpwSource req n := by
    unfold State.tpwSource
    rw [State.on_advance]
  refine ⟨fun h => ⟨_, rfl, State.get_tpwCmp_shadow leg _ (hsrc.mpr h), ?_⟩,
    fun h => congrArg Host.Outcome.next (State.tpwCmp_of_not_source leg _ (mt hsrc.mp h))⟩
  rw [State.get_tpwCmp_new leg _ (hsrc.mpr h), State.get_advance]

end Sys2Proof.Machine
end

section
/-! SUPPORT. The words of the converter pages over a reaction and over the updates that follow a result: no block but the
end of a change set and the loss of a lock writes them (R51, R59, R330). -/

namespace Sys2Proof.Machine
open Sys2Proof

/-! ### The converter pages -/

/-- The words of a page in which a change set that ends and a lock that is lost show. -/
def standing (off : Nat) : Prop := off = 0x024 ∨ off = 0x028 ∨ off = 0x02C

/-- The part of the state is not one of the blocks whose pages hold results. -/
def Part.besideResults : Part → Bool
  | .block .adf | .block .adh => false
  | _ => true

/-- From `s` to `t` the pages of the converters are the same, but for the words of sets, locks and refusals. -/
structure ResultsStand (s t : State) : Prop where
  adf : ∀ n, Beside (ADF.pg n) standing s t
  adh : ∀ n, Beside (ADH.pg n) standing s t

namespace ResultsStand

variable {s t u : State}

theorem refl (s : State) : ResultsStand s s := ⟨fun _ => .refl s, fun _ => .refl s⟩

theorem trans (h : ResultsStand s t) (h' : ResultsStand t u) : ResultsStand s u :=
  ⟨fun n => (h.adf n).trans (h'.adf n), fun n => (h.adh n).trans (h'.adh n)⟩

/-- An operation whose footprint holds neither block. -/
theorem kept {F : List Part} (h : ResultsStand s t) (k : Kept F t u) (hF : F.all Part.besideResults = true) :
    ResultsStand s u :=
  ⟨fun n => (h.adf n).kept k fun hmem => Bool.false_ne_true (List.all_eq_true.mp hF _ hmem),
    fun n => (h.adh n).kept k fun hmem => Bool.false_ne_true (List.all_eq_true.mp hF _ hmem)⟩

/-- One operation from the start. -/
theorem one {F : List Part} (k : Kept F s t) (hF : F.all Part.besideResults = true) : ResultsStand s t := (refl s).kept k hF

theorem ite {c : Prop} [Decidable c] (h : ResultsStand s t) (h' : ResultsStand s u) :
    ResultsStand s (if c then t else u) := by split <;> assumption

theorem foldl {α : Type} {f : State → α → State} (h : ∀ s a, ResultsStand s (f s a)) (l : List α) (s : State) :
    ResultsStand s (l.foldl f s) := State.foldl_related refl trans h l s

/-- A write of one of the words of sets, locks and refusals. -/
theorem put (h : ResultsStand s t) (p : Page) (x : Fld) (v : Nat) (hx : standing x.off) : ResultsStand s (t.put p x v) :=
  ⟨fun n => (h.adf n).put p x v fun _ => hx, fun n => (h.adh n).put p x v fun _ => hx⟩

theorem flag (h : ResultsStand s t) (p : Page) (x : Fld) (b : Bool) (hx : standing x.off) : ResultsStand s (t.flag p x b) :=
  h.put p x _ hx

theorem incSat (h : ResultsStand s t) (p : Page) (x : Fld) (hx : standing x.off) : ResultsStand s (t.incSat p x) :=
  ⟨fun n => (h.adf n).incSat p x fun _ => hx, fun n => (h.adh n).incSat p x fun _ => hx⟩

/-! ### Change sets and locks (R51, R55, R59) -/

theorem csetEnd (s : State) (r : Fin 16) (code : Nat) : ResultsStand s (s.csetEnd r code) := by
  have hlast (t : State) (p : Page) : ResultsStand t (t.csetLast p code) := by
    have h := (refl t).put p HDR.CSET_STAT_LAST code (.inl rfl)
    exact ite h (h.incSat p HDR.ERRCNT_CSET (.inr (.inr rfl)))
  unfold State.csetEnd
  exact (foldl (fun t p => ((refl t).put p HDR.CSET_STAT_STATE 0 (.inl rfl)).trans (hlast _ p)) _ s).kept (.sets_upd ..) rfl

theorem csetStop (s : State) : ResultsStand s s.csetStop.1 := by
  have hfold (l : List (Fin 16)) (f : State × Bool → Fin 16 → State × Bool) (h : ∀ a r, ResultsStand a.1 (f a r).1) :
      ∀ a : State × Bool, ResultsStand a.1 (l.foldl f a).1 := by
    induction l with
    | nil => exact fun a => refl a.1
    | cons r l ih => exact fun a => (h a r).trans (ih _)
  refine hfold _ _ (fun a r => ?_) (s, false)
  dsimp only
  split
  · split
    · exact refl _
    · split
      · split
        · exact refl _
        · exact one (.sets_upd ..) rfl
      · exact csetEnd ..
  · exact refl _

theorem stopCommits (s : State) : ResultsStand s s.stopCommits := by
  have h := csetStop s
  unfold State.stopCommits
  rcases hstop : s.csetStop with ⟨u, hit⟩
  rw [hstop] at h
  exact ite ((h.kept (.evt ..) rfl).kept (.note ..) rfl) h

theorem loseLocks (s : State) (r : Nat) : ResultsStand s (s.loseLocks r) := by
  have hlose (s : State) (p : Page) : ResultsStand s
      (((s.flag p HDR.OWNER_LOCKED false).flag p HDR.OWNER_LOST true).put p HDR.OWNER_LOST_ID r) :=
    (((refl s).flag _ _ _ (.inr (.inl rfl))).flag _ _ _ (.inr (.inl rfl))).put _ _ _ (.inr (.inl rfl))
  unfold State.loseLocks
  refine ((foldl (fun s i => ?_) _ _).trans (foldl (fun s i => ?_) _ _)).trans (foldl (fun s ch => ?_) _ _)
  · exact ite (((hlose s (ADH.pg i)).kept (.adhLost_upd ..) rfl).kept (.note ..) rfl) (refl s)
  · have hstop : ResultsStand s (if s.on (CRC.pg i) CRC.STAT_RUNNING then
        (s.flag (CRC.pg i) CRC.STAT_RUNNING false).flag (CRC.pg i) CRC.STAT_ABANDONED true else s) :=
      ite ((one (.flag ..) rfl).kept (.flag ..) rfl) (refl s)
    exact ite (((hstop.trans (hlose _ (CRC.pg i))).kept (.evt ..) rfl).kept (.note ..) rfl) (refl s)
  · refine ite ?_ (refl s)
    refine .kept (.kept (.kept (.kept (.kept (.kept (.kept ?_ (.flag ..) rfl) (.flag ..) rfl) (.flag ..) rfl) (.putBit ..) rfl)
      (.dma_upd ..) rfl) (.evt ..) rfl) (.note ..) rfl
    exact .kept (.kept (.kept (.kept (one (.flag ..) rfl) (.flag ..) rfl) (.put ..) rfl) (.flag ..) rfl) (.put ..) rfl

/-! ### Reactions (R330, R331) -/

theorem machines {f : State → Nat → State} (h : ∀ s m, ResultsStand s (f s m)) (s : State) (mask : Nat) :
    ResultsStand s (s.machines mask f) := foldl (fun s m => ite (h s m) (refl s)) _ s

theorem escalate (s : State) (m code : Nat) : ResultsStand s (s.escalate m code) := by
  have hcount (t : State) : ResultsStand t (if t.bitOn SSF.pg SSF.STAT_SS1 m then t
      else (t.put SSF.pg (SSF.MSTAT_STATE.ix m) 3).incSat SSF.pg SSF.CNT_ESCALATED) :=
    ite (refl t) ((one (.put ..) rfl).kept (.incSat ..) rfl)
  have hshow : ResultsStand s ((s.note code 4 (2 ^ m) 0).evt SSF.pg
      (if code = 0xB09 then SSF.EVT_SS1_ESC else SSF.EVT_SS1_FAIL)) := (one (.note ..) rfl).kept (.evt ..) rfl
  unfold State.escalate
  dsimp only
  exact (((hshow.trans (hcount _)).kept (.stopSet ..) rfl).kept (.applyFr4 ..) rfl).trans (stopCommits _)

theorem stopSelect (s : State) (m : Nat) : ResultsStand s (s.stopSelect m) := by
  have hdone (t : State) : ResultsStand t (t.stopSet m fun h => { h with done := true }) := one (.stopSet ..) rfl
  have hcomplete (t : State) : ResultsStand t ((((t.stopSet m fun h => { h with done := true }).put SSF.pg
      (SSF.MSTAT_STATE.ix m) 2).incSat SSF.pg SSF.CNT_SS1_DONE).evt SSF.pg SSF.EVT_SS1_DONE) :=
    (((hdone t).kept (.put ..) rfl).kept (.incSat ..) rfl).kept (.evt ..) rfl
  unfold State.stopSelect
  dsimp only
  refine ite (refl s) (ite ((hdone s).kept (.stoAssert ..) rfl) ?_)
  split
  · exact hcomplete s
  · exact hcomplete s
  · exact (hcomplete s).kept (.stoAssert ..) rfl
  · exact escalate ..
  · refine ite ?_ (escalate ..)
    exact (((((one (.stopSet ..) rfl).kept (.putBit ..) rfl).kept (.put ..) rfl).kept (.evt ..) rfl).kept
      (.setWord ..) rfl).kept (.msvSs1 ..) rfl

theorem applyFr3 (s : State) (m : Nat) : ResultsStand s (s.applyFr3 m) := by
  have h : ResultsStand s ((s.putBit HLO.pg HLO.STAT_FR3 m true).evt HLO.pg HLO.EVT_FR3) :=
    (one (.putBit ..) rfl).kept (.evt ..) rfl
  exact ite h (h.trans (stopSelect ..))

theorem scfClose (s : State) (cause : Nat) : ResultsStand s (s.scfClose cause) := by
  have h : ResultsStand s (((s.put SCF.pg SCF.STAT_SESSION 0).evt SCF.pg SCF.EVT_SESSION).slgPush 8 0 cause 0 none) :=
    ((one (.put ..) rfl).kept (.evt ..) rfl).kept (.slgPush ..) rfl
  exact ite (ite (h.trans (csetEnd ..)) h) (refl s)

theorem enterHalo (s : State) (old d : DState) : ResultsStand s (s.enterHalo old d) := by
  have hclose : ResultsStand s (if old = .service then s.scfClose 3 else s) := ite (scfClose ..) (refl s)
  refine hclose.trans (ite ?_ (ite ?_ (refl _)))
  · exact (one (.ghbStart ..) rfl).kept (.halo_upd ..) rfl
  · exact ((one (.ghbStop ..) rfl).kept (.watchdogOff ..) rfl).kept (.holdPairs ..) rfl

theorem enter (s : State) (d : DState) : ResultsStand s (s.enter d) := by
  have hrest (t : State) : ResultsStand t (if d.running = true then t else t.restFunctions) :=
    ite (refl t) (one (.restFunctions ..) rfl)
  have hwords : ResultsStand s ((s.enterWords d).evt SYS.pg SYS.EVT_DSTATE) :=
    ((((one (.put ..) rfl).kept (.put ..) rfl).kept (.flag ..) rfl).kept (.put ..) rfl).kept (.evt ..) rfl
  exact ((((hwords.trans (enterHalo _ s.dstate d)).trans (hrest _)).kept (.enterCharger ..) rfl).kept
    (.enterPaths ..) rfl).kept (.tpwRefreshAll ..) rfl

theorem safeHoldNow (s : State) : ResultsStand s s.safeHoldNow := by
  have hsafe : ResultsStand s (s.flag HLO.pg HLO.STAT_SAFE true) := one (.flag ..) rfl
  unfold State.safeHoldNow
  dsimp only
  exact ((hsafe.trans (ite (refl _) (enter ..))).trans (loseLocks ..)).trans (loseLocks ..)

/-- A fault and its reaction leave the results of the converters (R330). -/
theorem raise (s : State) (code react machs aux : Nat) : ResultsStand s (s.raise code react machs aux) := by
  have hlog : ResultsStand s (s.abortTransition.logEntry code react machs aux s.now) :=
    (one (.abortTransition ..) rfl).kept (.logEntry ..) rfl
  unfold State.raise State.raiseAt
  dsimp only
  suffices hreact : ∀ t, ResultsStand s t → ResultsStand s (if 2 ≤ react then t.stopCommits else t) by
    refine hreact _ (hlog.trans ?_)
    split
    · exact machines (fun t m => one (.applyFr2 ..) rfl) _ _
    · exact machines applyFr3 _ _
    · exact machines (fun t m => one (.applyFr4 ..) rfl) _ _
    · exact (one (.logFirst ..) rfl).trans (safeHoldNow _)
    · exact refl _
  exact fun t ht => ite (ht.trans (stopCommits t)) ht

/-! ### The converter DCD (R258, R263, R269) -/

theorem dcdTrip (s : State) (code : Nat) : ResultsStand s (s.dcdTrip code) :=
  ((one (.dcdFault ..) rfl).kept (.evt ..) rfl).trans (raise ..)

theorem dcdTestDone (s : State) : ResultsStand s s.dcdTestDone := by
  have hlow : ResultsStand s (if s.dcd.stopPins then s.dcdLow else s) := ite (one (.dcdLow ..) rfl) (refl s)
  exact ite ((((hlow.kept (.dcd_upd ..) rfl).kept (.dcdModes ..) rfl).kept (.dcdGo ..) rfl).kept (.dcdRefresh ..) rfl)
    (refl s)

theorem dcdMid (s : State) (p : Fin 4) (word : W32) (hold : Nat) : ResultsStand s (s.dcdMid p word hold) := by
  refine ite (ite ?_ (ite ?_ ?_)) (refl s)
  · exact (one (.put ..) rfl).trans (dcdTrip ..)
  · exact (one (.dcd_upd ..) rfl).trans (dcdTestDone _)
  · exact (one (.put ..) rfl).trans (dcdTrip ..)

/-- What DCD takes from a housekeeping result leaves the results (R263). -/
theorem dcdEntry (s : State) (u e : Nat) (word : W32) (hold : Nat) : ResultsStand s (s.dcdEntry u e word hold) :=
  foldl (fun s p => ite (dcdMid s p word hold) (refl s)) _ s

theorem dcdUpdate (s : State) : ResultsStand s s.dcdUpdate := by
  have hfollow (t : State) (c : Prop) [Decidable c] : ResultsStand t (if c then t else t.dcdFollow) :=
    ite (refl t) (one (.dcdFollow ..) rfl)
  have hlimit (t : State) (b : Bool) : ResultsStand t (if b then (t.evt DCD.pg DCD.EVT_ILIM).raise 0x705 1 0 else t) :=
    ite ((one (.evt ..) rfl).trans (raise ..)) (refl t)
  have htake : ResultsStand s s.dcdLatch.dcdTake := (one (.dcdLatch ..) rfl).kept (.dcdTake ..) rfl
  unfold State.dcdUpdate
  dsimp only
  refine ite (refl s) (((htake.trans (hfollow _ _)).kept (.setWord _ DCD.pg DCD.VREF _) rfl).trans
    (ite (foldl dcdTrip _ _) ?_))
  exact ite ((hlimit _ _).kept (.dcdGo ..) rfl) (hlimit _ _)

/-! ### The supervisors (R230, R245, R347, R350) -/

theorem ss1Update (s : State) (m : Nat) (w : F32) : ResultsStand s (s.ss1Update m w) := by
  have hover : ∀ {t}, ResultsStand s t → ∀ n, ResultsStand s (if 2 ≤ n then t.escalate m 0xB07 else t) :=
    fun ht n => ite (ht.trans (escalate ..)) ht
  exact ite (hover ((one (.setWord ..) rfl).kept (.stopSet ..) rfl) _) (refl s)

theorem tpUpdate (s : State) (m : Nat) (w tref : F32) : ResultsStand s (s.tpUpdate m w tref) := by
  have hfail (t : State) : ResultsStand t
      (if (t.incSat SSF.pg (SSF.MSTAT_TP_FAILS.ix m)).get SSF.pg (SSF.MSTAT_TP_FAILS.ix m) =
          (t.incSat SSF.pg (SSF.MSTAT_TP_FAILS.ix m)).get SSF.pg (SSF.MCFG_TP_N.ix m) then
        ((t.incSat SSF.pg (SSF.MSTAT_TP_FAILS.ix m)).evt SSF.pg SSF.EVT_TP).raise 0xB0B 4 (2 ^ m)
      else t.incSat SSF.pg (SSF.MSTAT_TP_FAILS.ix m)) :=
    ite (((one (.incSat ..) rfl).kept (.evt ..) rfl).trans (raise ..)) (one (.incSat ..) rfl)
  refine ite (ite ?_ (one (.stopSet ..) rfl)) (refl s)
  exact (((one (.stopSet ..) rfl).kept (.setWord ..) rfl).kept (.setWord ..) rfl).trans (ite (one (.put ..) rfl) (hfail _))

theorem msvUpdate (s : State) (m : Nat) : ResultsStand s (s.msvUpdate m) := by
  have hasc (t : State) (b : Bool) : ResultsStand t (if b then t.msvForceAsc m else t) :=
    ite (one (.msvForceAsc ..) rfl) (refl t)
  have hfaults (t : State) (l : List (Nat × Nat × Fld)) : ResultsStand t
      (l.foldl (fun s f => (s.evt (MSV.pg m) f.2.2).raise f.1 f.2.1 (2 ^ m)) t) :=
    foldl (fun s f => (one (.evt ..) rfl).trans (raise ..)) l t
  have hloss (t : State) (b : Bool) : ResultsStand t (if b then (((t.msvSet m fun h => { h with lat607 := true }).evt
      (MSV.pg m) MSV.EVT_CMDLOSS).raise 0x607 2 (2 ^ m)).msvStop m else t) :=
    ite ((((one (.msvSet ..) rfl).kept (.evt ..) rfl).trans (raise ..)).kept (.msvStop ..) rfl) (refl t)
  unfold State.msvUpdate
  dsimp only
  refine ite (refl s) ?_
  refine .trans (.trans (.trans (.trans ?_ (hfaults ..)) (hloss ..)) (ss1Update ..)) (tpUpdate ..)
  refine .kept (.kept (.trans (.kept (.kept (.kept (.kept ?_ (.msvScale ..) rfl) (.msvTorque ..) rfl) (.msvStages ..) rfl)
    (.msvChoose ..) rfl) (hasc ..)) (.msvFollow ..) rfl) (.msvPublish ..) rfl
  exact (((one (.msvSet ..) rfl).kept (.setWord ..) rfl).kept (.msvStill ..) rfl).kept (.msvLimp ..) rfl

theorem msvSetFault (s : State) (m : Nat) (k : Fin 2) : ResultsStand s (s.msvSetFault m k) := by
  have hset : ResultsStand s ((s.msvSet m fun h => { h with lat608 := true }).evt (MSV.pg m) MSV.EVT_SET) :=
    (one (.msvSet ..) rfl).kept (.evt ..) rfl
  unfold State.msvSetFault
  dsimp only
  refine ite (ite ?_ (hset.kept (.note ..) rfl)) (hset.trans (raise ..))
  exact (((((hset.kept (.note ..) rfl).kept (.put ..) rfl).kept (.incSat ..) rfl).kept (.msvSet ..) rfl).kept (.msvGo ..) rfl).kept
    (.msvFollow ..) rfl

theorem msvCurrents (s : State) (m : Nat) (k : Fin 2) (ra rb rc : W32) : ResultsStand s (s.msvCurrents m k ra rb rc) := by
  have htrip (t : State) (b : Bool) : ResultsStand t
      (if b then (t.evt (MSV.pg m) MSV.EVT_OC).raise 0x60A 4 (2 ^ m) else t) :=
    ite ((one (.evt ..) rfl).trans (raise ..)) (refl t)
  have hset (t : State) (b : Bool) : ResultsStand t (if b then t.msvSetFault m k else t) := ite (msvSetFault ..) (refl t)
  unfold State.msvCurrents
  dsimp only
  exact ite (refl s) (((one (.msvSet ..) rfl).trans (htrip ..)).trans (hset ..))

theorem msvCurrentLatch (s : State) (g : Nat) (ra rb rc : W32) : ResultsStand s (s.msvCurrentLatch g ra rb rc) := by
  have hset (t : State) (m : Nat) (k : Fin 2) (c : Prop) [Decidable c] : ResultsStand t
      (if c then t.msvCurrents m k ra rb rc else t) := ite (msvCurrents ..) (refl t)
  exact foldl (fun t m => (hset t m 0 _).trans (hset _ m 1 _)) _ s

/-! ### The chopper and the actuators (R241, R297 to R303) -/

theorem bchTrip (s : State) (code : Nat) (evt : Fld) : ResultsStand s (s.bchTrip code evt) :=
  (((((one (.bchLow ..) rfl).kept (.put ..) rfl).kept (.incSat ..) rfl).kept (.bch_upd ..) rfl).kept (.evt ..) rfl).trans
    (raise ..)

theorem bchFeedback (s : State) : ResultsStand s s.bchFeedback := by
  have hcount {t : State} (ht : ResultsStand s t) (c : Prop) [Decidable c] (code : Nat) (evt : Fld) : ResultsStand s
      (if c then t.bchTrip code evt else t) := ite (ht.trans (bchTrip ..)) ht
  unfold State.bchFeedback
  dsimp only
  refine ite (ite ?_ (ite ?_ (refl s))) (refl s)
  · exact hcount (one (.bch_upd ..) rfl) _ _ _
  · exact hcount (one (.bch_upd ..) rfl) _ _ _

theorem actFault (s : State) (n : Fin 6) (code : Nat) (evt : Fld) : ResultsStand s (s.actFault n code evt) := by
  have hres (t : State) (c d : Prop) [Decidable c] [Decidable d] : ResultsStand t
      (if c then t.put (ACT.pg n) ACT.STAT_SEQ_RES 3 else if d then t.put (ACT.pg n) ACT.STAT_SEQ_RES 2 else t) :=
    ite (one (.put ..) rfl) (ite (one (.put ..) rfl) (refl t))
  unfold State.actFault
  dsimp only
  exact ite (refl s) (((((one (.evt ..) rfl).kept (.evt ..) rfl).trans (hres ..)).kept (.actToFault ..) rfl).trans
    (raise ..))

theorem actPinUpdate (s : State) (n : Fin 6) : ResultsStand s (s.actPinUpdate n) := by
  have hsafe (t : State) (b : Bool) : ResultsStand t (if b then t.actSet n fun h => { h with safePos := true } else t) :=
    ite (one (.actSet ..) rfl) (refl t)
  unfold State.actPinUpdate
  dsimp only
  refine ite (one (.flag ..) rfl) ?_
  split
  · exact (one (.actSet ..) rfl).kept (.flag ..) rfl
  · have hbad (k : Nat) : ResultsStand s ((s.actSet n fun h => { h with pinBad := k }).flag (ACT.pg n) ACT.STAT_PIN_VALID
        false) := (one (.actSet ..) rfl).kept (.flag ..) rfl
    exact ite ((((hbad _).trans (hsafe ..)).kept (.evt ..) rfl).trans (raise ..)) (hbad _)

theorem actDetect (s : State) (n : Fin 6) (i w tgt : F32) : ResultsStand s (s.actDetect n i w tgt) := by
  have hset (f : ActH → ActH) : ResultsStand s (s.actSet n f) := one (.actSet ..) rfl
  unfold State.actDetect
  dsimp only
  refine ite (ite ?_ (ite ?_ (ite ?_ (ite ?_ (hset _))))) (hset _)
  · exact (hset _).trans (actFault ..)
  · exact ((hset _).kept (.incSat ..) rfl).trans (actFault ..)
  · exact (((hset _).kept (.put ..) rfl).kept (.incSat ..) rfl).trans (actFault ..)
  · exact (hset _).kept (.actSeqEnd ..) rfl

theorem actUpdate (s : State) (n : Fin 6) : ResultsStand s (s.actUpdate n) := by
  have hmail (t : State) (c : Nat) (w0 w1 w2 w3 w4 w5 : W32) : ResultsStand t
      ((((((t.mboxWrite c 0 w0).mboxWrite c 1 w1).mboxWrite c 2 w2).mboxWrite c 3 w3).mboxWrite c 4 w4).mboxWrite c 5 w5) :=
    (((((one (.mboxWrite ..) rfl).kept (.mboxWrite ..) rfl).kept (.mboxWrite ..) rfl).kept (.mboxWrite ..) rfl).kept
      (.mboxWrite ..) rfl).kept (.mboxWrite ..) rfl
  unfold State.actUpdate
  dsimp only
  refine ite (refl s) ?_
  have hread (i w : F32) (f : ActH → ActH) : ResultsStand s
      ((((s.setWord (ACT.pg n) ACT.IBR i).setWord (ACT.pg n) ACT.SPD w).actSet n f).actPinUpdate n) :=
    (((one (.setWord ..) rfl).kept (.setWord ..) rfl).kept (.actSet ..) rfl).trans (actPinUpdate ..)
  exact ite (((hread ..).trans (hmail ..)).trans (actFault ..)) (((hread ..).trans (hmail ..)).trans (actDetect ..))

/-! ### The charger (R273 to R288) -/

theorem obcNote (s : State) (code : Nat) (evt : Fld) : ResultsStand s (s.obcNote code evt) :=
  ((one (.obcSet ..) rfl).kept (.evt ..) rfl).trans (raise ..)

theorem obcFault (s : State) (code : Nat) (evt : Fld) (cause : Nat) : ResultsStand s (s.obcFault code evt cause) := by
  have hnote : ResultsStand s (s.obcTick.obcNote code evt) := (one (.obcTick ..) rfl).trans (obcNote ..)
  unfold State.obcFault
  dsimp only
  exact ite (ite (hnote.kept (.put ..) rfl) hnote) (hnote.kept (.obcStopping ..) rfl)

theorem obcInhibit (s : State) (code : Nat) (evt : Fld) (cause : Nat) : ResultsStand s (s.obcInhibit code evt cause) := by
  have hnote : ResultsStand s (s.obcTick.obcNote code evt) := (one (.obcTick ..) rfl).trans (obcNote ..)
  unfold State.obcInhibit
  dsimp only
  exact ite ((hnote.kept (.obcDabLow ..) rfl).kept (.obcSet ..) rfl) hnote

theorem obcPackLost (s : State) : ResultsStand s s.obcPackLost :=
  ite (refl s) (((one (.obcSet ..) rfl).kept (.incSat ..) rfl).trans (obcInhibit ..))

/-- A check of the charger that may inhibit it. -/
theorem obcInhibitIf (s : State) (c : Prop) [Decidable c] (code : Nat) (evt : Fld) (cause : Nat) :
    ResultsStand s (if c then s.obcInhibit code evt cause else s) := ite (obcInhibit ..) (refl s)

/-- A check of the charger that may stop it. -/
theorem obcFaultIf (s : State) (c : Prop) [Decidable c] (code : Nat) (evt : Fld) (cause : Nat) :
    ResultsStand s (if c then s.obcFault code evt cause else s) := ite (obcFault ..) (refl s)

theorem obcMeasure (s : State) : ResultsStand s s.obcMeasure := by
  have hlost (t : State) (b : Bool) : ResultsStand t (if b then t.obcPackLost else t) := ite (obcPackLost t) (refl t)
  unfold State.obcMeasure
  dsimp only
  exact (((((one (.obcSet ..) rfl).trans (hlost ..)).trans (obcInhibitIf ..)).trans (obcFaultIf ..)).trans (obcFaultIf ..))

theorem obcUpdate (s : State) : ResultsStand s s.obcUpdate := by
  have hread (v : F32) : ResultsStand s (s.obcTick.obcMeasure.obcProfile v) :=
    ((one (.obcTick ..) rfl).trans (obcMeasure _)).kept (.obcProfile ..) rfl
  unfold State.obcUpdate
  dsimp only
  refine ite (refl s) (.kept (.kept (ite (hread _) (ite (ite ?_ ?_) (ite ?_ (ite ?_ (hread _))))) (.obcSet ..) rfl)
    (.obcMail ..) rfl)
  · exact (hread _).kept (.obcStopped ..) rfl
  · exact (hread _).kept (.obcIref ..) rfl
  · exact (hread _).kept (.obcStopping ..) rfl
  · exact (hread _).kept (.obcControl ..) rfl

theorem obcAcCheck (s : State) : ResultsStand s s.obcAcCheck := by
  unfold State.obcAcCheck
  dsimp only
  refine ite (refl s) (.trans (.trans (.trans (.trans (.trans (one (.obcSet ..) rfl) (obcInhibitIf ..)) (obcInhibitIf ..))
    (obcInhibitIf ..)) (obcFaultIf ..)) (ite (one (.obcPrecharge ..) rfl) (refl _)))

/-! ### What reads a slot's results (R119) -/

/-- The updates that follow a latch leave the results, also where a fault that they find stops the device. -/
theorem adfReach (s : State) (g : Fin 8) (slot : Nat) : ResultsStand s (s.adfReach g slot) := by
  have hlatch (ra rb rc : W32) : ResultsStand s ((s.posLatches g).msvCurrentLatch g ra rb rc) :=
    (one (.posLatches ..) rfl).trans (msvCurrentLatch ..)
  have hbch (t : State) (b : Bool) : ResultsStand t (if b then t.bchFeedback else t) := ite (bchFeedback t) (refl t)
  have hmsv (t : State) : ResultsStand t ([0, 1, 2].foldl (fun s m =>
      if s.get (MSV.pg m) MSV.CFG_VG = g.1 then s.msvUpdate m else s) t) :=
    foldl (fun t m => ite (msvUpdate t m) (refl t)) _ t
  have hac (t : State) (b : Bool) : ResultsStand t (if b then t.obcAcSample else t) :=
    ite (one (.obcAcSample ..) rfl) (refl t)
  have hdc (t : State) (b : Bool) : ResultsStand t (if b then t.obcUpdate else t) := ite (obcUpdate t) (refl t)
  have hact (t : State) : ResultsStand t ((List.finRange 6).foldl (fun s (n : Fin 6) =>
      if s.get (ACT.pg n) ACT.CFG_FG = g.1 then s.actUpdate n else s) t) :=
    foldl (fun t n => ite (actUpdate t n) (refl t)) _ t
  have hdcd (t : State) (b : Bool) : ResultsStand t (if b then t.dcdUpdate else t) := ite (dcdUpdate t) (refl t)
  have hcheck (t : State) (b : Bool) : ResultsStand t (if b then t.obcAcCheck else t) := ite (obcAcCheck t) (refl t)
  unfold State.adfReach
  dsimp only
  exact ite (((((((hlatch ..).trans (hbch ..)).trans (hmsv _)).trans (hac ..)).trans (hdc ..)).trans (hact _)))
    ((hdcd ..).trans (hcheck ..))

end ResultsStand
end Sys2Proof.Machine
end

section
/-! SUPPORT. The pages of the converters and the parts of the state beside them: reads after the writes of a conversion, and
the result words as functions of the references and the calibration (R114, R115, R133, R137). -/

namespace Sys2Proof.Machine
open Sys2Proof

/-! ### The pages -/

theorem inPage_adf (g : Fin 8) {x : Fld} (hx : x.off < 0x1000) : inPage (ADF.pg g) x = true :=
  inPage_of_hasHeader (decide_eq_true g.isLt) rfl hx

theorem inPage_adh (u : Fin 4) {x : Fld} (hx : x.off < 0x1000) : inPage (ADH.pg u) x = true :=
  inPage_of_hasHeader (decide_eq_true u.isLt) rfl hx

theorem inPage_adr {x : Fld} (hx : x.off < 0x1000) : inPage ADR.pg x = true := inPage_of_hasHeader (by decide) rfl hx

/-- An event shows on a page outside DMA (R44). -/
theorem State.on_evt_page (s : State) {p : Page} {x : Fld} (hp : inPage p x = true) (hd : p.blk ≠ .dma) (ho : x.off = 0x010)
    (hw : x.hi = x.lo) (hh : x.hi < 32) : (s.evt p x).on p x = true := by
  rw [State.on, s.on_evt hp hd ho hw hh]
  rfl

/-- A flag of the page that is set stays set over another event (R44). -/
theorem State.on_evt_stays {s : State} {p : Page} {x y : Fld} (hp : inPage p y = true) (hd : p.blk ≠ .dma)
    (ho : y.off = 0x010) (hw : y.hi = y.lo) (hh : y.hi < 32) (h : s.on p y = true) : (s.evt p x).on p y = true := by
  have he : inPage p HDR.EVT = true := inPage_of_off hp ho.symm
  have hbit (t : State) : t.on p y = (t.get p HDR.EVT).testBit y.lo := by
    have haddr : fldAddr p y = fldAddr p HDR.EVT := congrArg (pageBase p + ·) ho
    have hfield : t.get p y < 2 := lt_of_lt_of_eq (bits_lt ..) (by rw [hw, Nat.add_sub_cancel_left, pow_one])
    have hlow : (t.get p y).testBit 0 = (t.get p HDR.EVT).testBit y.lo := by
      rw [State.get, State.get, haddr, testBit_bits, testBit_bits, hw, decide_eq_true (by omega),
        decide_eq_true (show y.lo < HDR.EVT.hi + 1 - HDR.EVT.lo from lt_of_eq_of_lt hw.symm hh)]
      simp [HDR.EVT]
    rw [← hlow, State.on]
    obtain h0 | h1 : t.get p y = 0 ∨ t.get p y = 1 := by omega
    · rw [h0]; rfl
    · rw [h1]; rfl
  rw [hbit] at h ⊢
  rw [State.evt, s.get_evtBits _ _ _ _ he hd, s.get_put_same _ he (by decide) (by decide), Nat.testBit_mod_two_pow,
    Nat.testBit_or, h, Bool.true_or, Bool.and_true]
  exact decide_eq_true (lt_of_eq_of_lt hw.symm hh)

/-- A one-bit field of another word reads as before a write. -/
theorem State.on_put_word (s : State) {p q : Page} {x y : Fld} (v : Nat) (h : fldAddr q y ≠ fldAddr p x) :
    (s.put p x v).on q y = s.on q y := congrArg (· == 1) (s.get_put_word v h)

@[simp] theorem State.bitOn_advance (s : State) (dt : Nat) (p : Page) (x : Fld) (b : Nat) :
    (s.advance dt).bitOn p x b = s.bitOn p x b := congrArg (·.testBit b) (s.get_advance ..)

@[simp] theorem State.get64_advance (s : State) (dt : Nat) (p : Page) (x : Fld) : (s.advance dt).get64 p x = s.get64 p x :=
  State.get64_of_rd (s.rd_advance ..) (s.rd_advance ..)

/-! ### The hidden state of a fast group -/

@[simp] theorem State.vget_adfSet (s : State) (g : Fin 8) (f : AdfH → AdfH) : vget (s.adfSet g f).adf g = f (vget s.adf g) :=
  vget_vset_same ..

@[simp] theorem State.adfSet_now (s : State) (g : Fin 8) (f : AdfH → AdfH) : (s.adfSet g f).now = s.now := rfl
@[simp] theorem State.rd_adfSet (s : State) (g : Fin 8) (f : AdfH → AdfH) (a : Nat) : (s.adfSet g f).rd a = s.rd a := rfl

@[simp] theorem State.incSat_adf (s : State) (p : Page) (x : Fld) : (s.incSat p x).adf = s.adf :=
  s.sameAt_incSat p x (q := .adf) (by simp)

@[simp] theorem State.put64_adf (s : State) (p : Page) (x : Fld) (v : Nat) : (s.put64 p x v).adf = s.adf :=
  (Kept.put64 s p x v).within .adf (by simp)

@[simp] theorem State.evt_adf (s : State) (p : Page) (x : Fld) : (s.evt p x).adf = s.adf :=
  (Kept.evt s p x).within .adf (by simp)

@[simp] theorem State.note_adf (s : State) (code react machs aux : Nat) : (s.note code react machs aux).adf = s.adf :=
  (Kept.note s code react machs aux).within .adf (by simp)

@[simp] theorem State.adfReach_adf (s : State) (g : Fin 8) (slot : Nat) : (s.adfReach g slot).adf = s.adf :=
  (Kept.adfReach s g slot).within .adf (by decide)

@[simp] theorem State.adfReach_now (s : State) (g : Fin 8) (slot : Nat) : (s.adfReach g slot).now = s.now :=
  (Kept.adfReach s g slot).within .now (by decide)

/-! ### References and calibration (R114, R133, R137) -/

/-- The part of the state is neither the references' own nor their page. -/
def Part.besideRefs : Part → Bool
  | .adr | .block .adr => false
  | _ => true

/-- The reference buffers and the calibration are the same in both states. -/
structure SameRefs (s t : State) : Prop where
  adr : t.adr = s.adr
  words : ∀ x : Fld, x.off < 0x1000 → t.rd (fldAddr ADR.pg x) = s.rd (fldAddr ADR.pg x)

namespace SameRefs

variable {s t u : State}

theorem refl (s : State) : SameRefs s s := ⟨rfl, fun _ _ => rfl⟩

theorem trans (h : SameRefs s t) (h' : SameRefs t u) : SameRefs s u :=
  ⟨h'.adr.trans h.adr, fun x hx => (h'.words x hx).trans (h.words x hx)⟩

/-- An operation whose footprint holds neither of them. -/
theorem of_kept {F : List Part} (k : Kept F s t) (hF : F.all Part.besideRefs = true) : SameRefs s t :=
  ⟨k.within .adr fun hmem => Bool.false_ne_true (List.all_eq_true.mp hF _ hmem),
    fun _ hx => k.within (.block .adr) (fun hmem => Bool.false_ne_true (List.all_eq_true.mp hF _ hmem)) _
      (blockAt_page (inPage_adr hx))⟩

theorem get (h : SameRefs s t) {x : Fld} (hx : x.off < 0x1000) : t.get ADR.pg x = s.get ADR.pg x :=
  State.get_eq_of_rd (h.words x hx) rfl

theorem refBadAt (h : SameRefs s t) (b : Fin 3) (hold : Nat) : t.refBadAt b hold = s.refBadAt b hold := by
  rw [State.refBadAt, State.refBadAt, State.refBad, State.refBad, State.bitOn, State.bitOn, State.bitOn, State.bitOn,
    h.get (by decide), h.get (by decide), h.adr]

theorem cal (h : SameRefs s t) (i : Nat) : t.cal i = s.cal i := by rw [State.cal, State.cal, h.adr]

theorem adcValue (h : SameRefs s t) {i : Nat} (hi : i < 36) (gain : Nat) (vin : Int) :
    t.adcValue i gain vin = s.adcValue i gain vin := by
  have hgain : (ADR.GAIN.ix i).off < 0x1000 := show 0x100 + i * 4 < 0x1000 by omega
  have hofs : (ADR.OFS.ix i).off < 0x1000 := show 0x200 + i * 4 < 0x1000 by omega
  rw [State.adcValue, State.adcValue, State.gets, State.gets, State.gets, State.gets, h.get hgain, h.get hofs]

theorem openWire (h : SameRefs s t) (down : Bool) (v : Int) : t.openWire down v = s.openWire down v := by
  rw [State.openWire, State.openWire, h.get (by decide)]

/-- The word of a fast converter follows from the references, the calibration and the open inputs. -/
theorem adfWord (h : SameRefs s t) {g : Fin 8} {c : Nat} (hc : c < 4)
    (how : t.get (ADF.pg g) ADF.OWSTAT_OPEN = s.get (ADF.pg g) ADF.OWSTAT_OPEN) (slotBit inp inj : Nat) (nrdy : Bool)
    (vin : Int) : t.adfWord g c slotBit inp inj nrdy vin = s.adfWord g c slotBit inp inj nrdy vin := by
  rw [State.adfWord, State.adfWord, State.bitOn, State.bitOn, h.cal, h.adcValue (by omega), how]

theorem adfSlotWord (h : SameRefs s t) {g : Fin 8} {c : Nat} (hc : c < 4)
    (how : t.get (ADF.pg g) ADF.OWSTAT_OPEN = s.get (ADF.pg g) ADF.OWSTAT_OPEN) (q : AdfSeq) (vin : Quad) :
    t.adfSlotWord g q vin c = s.adfSlotWord g q vin c := by
  rw [State.adfSlotWord, State.adfSlotWord, h.refBadAt, h.adfWord hc how]

end SameRefs

end Sys2Proof.Machine
end

section
/-! SUPPORT. The fast groups: holds, slot latches, late results, injected conversions and open-wire tests (R117 to R124,
R136). -/

namespace Sys2Proof.Machine
open Sys2Proof

/-! ### Holds (R117, R118, R124) -/

/-- A trigger of an idle group holds its converters, and is counted. -/
theorem adfHold_holds {dt : Nat} {g : Fin 8} {s : State} (hon : s.dev.off = false)
    (htrig : (s.advance dt).adfTriggered g = true) (hidle : (vget s.adf g).seq = none) :
    ∃ t, exec (.adfHold dt g) s = .next t ∧
      (vget t.adf g).seq = some ⟨s.now + dt, s.on (ADF.pg g) ADF.CFG_LEN, s.get (ADF.pg g) ADF.INSEL_SEL0,
        s.get (ADF.pg g) ADF.INSEL_SEL1, 0, false⟩ ∧ (vget t.adf g).inj = none ∧ t.on (ADF.pg g) ADF.STAT_BUSY = true ∧
      t.get64 (ADF.pg g) ADF.TRIGCNT_LO = (s.get64 (ADF.pg g) ADF.TRIGCNT_LO + 1) % 2 ^ 64 := by
  have hnow := State.now_advance_of_on hon dt
  have hexec : exec (.adfHold dt g) s = .next ((s.advance dt).adfHold g) := by
    change execAdfHold dt g s = _
    unfold execAdfHold
    dsimp only
    rw [if_pos htrig]
  refine ⟨_, hexec, ?_⟩
  unfold State.adfHold
  dsimp only
  rw [State.advance_adf, hidle, if_neg (by simp), hnow, State.on_advance, State.get_advance, State.get_advance]
  refine ⟨by simp, by simp, ?_, ?_⟩
  · have hlow : fldAddr (ADF.pg g) ADF.STAT_BUSY ≠ fldAddr (ADF.pg g) ADF.TRIGCNT_LO := fldAddr_ne_of_off (by decide)
    have hhigh : fldAddr (ADF.pg g) ADF.STAT_BUSY ≠ fldAddr (ADF.pg g) ADF.TRIGCNT_HI := fldAddr_ne_of_off (by decide)
    rw [State.on, State.get_eq_of_rd (State.rd_put64_word _ _ hlow hhigh) rfl]
    exact State.on_flag_same _ true (inPage_adf g (by decide)) rfl (by decide)
  · rw [State.get64_put64 _ _ (inPage_adf g (by decide)) (inPage_adf g (by decide)), State.get64_advance]

/-- A trigger during a sequence is dropped, counted and reported. -/
theorem adfHold_drops {dt : Nat} {g : Fin 8} {s : State} (htrig : (s.advance dt).adfTriggered g = true)
    (hbusy : (vget s.adf g).seq ≠ none) : ∃ t, exec (.adfHold dt g) s = .next t ∧ vget t.adf g = vget s.adf g ∧
      t.on (ADF.pg g) ADF.EVT_TRIG_DROP = true := by
  have hexec : exec (.adfHold dt g) s = .next ((((s.advance dt).incSat (ADF.pg g) ADF.CNT_TRIG_DROP).evt (ADF.pg g)
      ADF.EVT_TRIG_DROP).note 0x306 1 0 0) := by
    change execAdfHold dt g s = _
    unfold execAdfHold State.adfHold
    dsimp only
    rw [if_pos htrig, State.advance_adf, if_pos (Option.isSome_iff_ne_none.mpr hbusy)]
  refine ⟨_, hexec, by simp, ?_⟩
  rw [State.on, State.get_note _ _ _ _ _ (inPage_adf g (by decide)) (by simp) (by simp) (by simp)]
  exact State.on_evt_page _ (inPage_adf g (by decide)) (by simp) rfl rfl (by decide)

/-! ### The registers of a slot (R119, R121) -/

/-- The pair of registers of a slot's results: the hold tick stands beside the word. -/
theorem adfRes_spec (slot : Nat) : (adfRes slot).1.stride = 8 ∧ (adfRes slot).2.stride = 8 ∧
    (adfRes slot).2.off = (adfRes slot).1.off + 4 ∧ 0x080 ≤ (adfRes slot).1.off ∧ (adfRes slot).1.off ≤ 0x0A0 := by
  unfold adfRes
  split <;> decide

/-- The words of the group beside its results. -/
def belowResults (off : Nat) : Prop := off < 0x080

theorem Beside.adfSet {p : Page} {W : Nat → Prop} {s t : State} (h : Beside p W s t) (g : Fin 8) (F : AdfH → AdfH) :
    Beside p W s (t.adfSet g F) := h.regs rfl

/-- The result words of both registers of converter `c`. -/
theorem not_belowResults (slot c : Nat) : ¬belowResults ((adfRes slot).1.ix c).off ∧ ¬belowResults ((adfRes slot).2.ix c).off := by
  obtain ⟨-, -, hhi, hlo, -⟩ := adfRes_spec slot
  simp only [belowResults, Fld.ix]
  omega

/-- A latched result stands in its registers with its hold tick. -/
theorem State.rd_adfLatch_same (s : State) (g : Fin 8) (slot : Nat) {c : Nat} (hc : c < 4) (w : W32) (hold : Nat) :
    (s.adfLatch g slot c w hold).rd (fldAddr (ADF.pg g) ((adfRes slot).1.ix c)) = w ∧
      (s.adfLatch g slot c w hold).rd (fldAddr (ADF.pg g) ((adfRes slot).2.ix c)) = BitVec.ofNat 32 hold := by
  obtain ⟨hs1, hs2, hhi, -, hmax⟩ := adfRes_spec slot
  have hp1 : inPage (ADF.pg g) ((adfRes slot).1.ix c) = true := inPage_adf g (by simp only [Fld.ix, hs1]; omega)
  have hp2 : inPage (ADF.pg g) ((adfRes slot).2.ix c) = true := inPage_adf g (by simp only [Fld.ix, hs2]; omega)
  have hne : fldAddr (ADF.pg g) ((adfRes slot).1.ix c) ≠ fldAddr (ADF.pg g) ((adfRes slot).2.ix c) :=
    fldAddr_ne_of_off (by simp only [Fld.ix, hs1, hs2]; omega)
  have hregs : (s.adfLatch g slot c w hold).regs = ((s.setWord (ADF.pg g) ((adfRes slot).1.ix c) w).setWord (ADF.pg g)
      ((adfRes slot).2.ix c) (BitVec.ofNat 32 hold)).regs := by
    unfold State.adfLatch
    dsimp only
    split <;> rfl
  rw [State.rd_of_regs hregs, State.rd_of_regs hregs, State.rd_setWord_other _ _ hne, State.rd_setWord_same _ _ hp1,
    State.rd_setWord_same _ _ hp2]
  exact ⟨rfl, rfl⟩

/-- A latch writes the two registers of its result alone. -/
theorem State.rd_adfLatch_other (s : State) (g : Fin 8) (slot c : Nat) (w : W32) (hold : Nat) {x : Fld}
    (h1 : x.off ≠ ((adfRes slot).1.ix c).off) (h2 : x.off ≠ ((adfRes slot).2.ix c).off) :
    (s.adfLatch g slot c w hold).rd (fldAddr (ADF.pg g) x) = s.rd (fldAddr (ADF.pg g) x) := by
  have hwords := (State.rd_setWord_other (s.setWord (ADF.pg g) ((adfRes slot).1.ix c) w) (BitVec.ofNat 32 hold)
    (fldAddr_ne_of_off h2)).trans (s.rd_setWord_other w (fldAddr_ne_of_off (p := ADF.pg g) h1))
  unfold State.adfLatch
  dsimp only
  split
  · exact hwords
  · exact hwords

/-- A latch leaves the list of late results, and the sequence. -/
theorem State.adfLatch_hidden (s : State) (g : Fin 8) (slot c : Nat) (w : W32) (hold : Nat) :
    (vget (s.adfLatch g slot c w hold).adf g).late = (vget s.adf g).late ∧
      (vget (s.adfLatch g slot c w hold).adf g).seq = (vget s.adf g).seq := by
  unfold State.adfLatch
  dsimp only
  split
  · rw [State.vget_adfSet, State.setWord_adf, State.setWord_adf]
    exact ⟨rfl, rfl⟩
  · rw [State.setWord_adf, State.setWord_adf]
    exact ⟨rfl, rfl⟩

/-! ### A slot latches (R119, R120) -/

/-- One converter at the latch of its slot: its result latches, or is late. -/
def State.adfLatchOne (g : Fin 8) (q : AdfSeq) (vin : Quad) (late : BitVec 4) (s : State) (c : Nat) : State :=
  let w := s.adfSlotWord g q vin c
  if late.toNat.testBit c then s.adfSet g fun a => { a with late := a.late ++ [⟨q.slot, c, w, q.hold q.slot⟩] }
  else s.adfLatch g q.slot c w (q.hold q.slot)

/-- From `s` to `t` the first `n` converters of the slot have latched or are listed as late. -/
structure SlotLatched (g : Fin 8) (q : AdfSeq) (vin : Quad) (late : BitVec 4) (s : State) (n : Nat) (t : State) : Prop where
  kept : Kept [.adf, .block .adf] s t
  other : ∀ x : Fld, belowResults x.off → t.rd (fldAddr (ADF.pg g) x) = s.rd (fldAddr (ADF.pg g) x)
  listed : (vget t.adf g).late = (vget s.adf g).late ++
    ((List.range n).filter fun c => late.toNat.testBit c).map fun c => ⟨q.slot, c, s.adfSlotWord g q vin c, q.hold q.slot⟩
  results : ∀ c < n, late.toNat.testBit c = false →
    t.rd (fldAddr (ADF.pg g) ((adfRes q.slot).1.ix c)) = s.adfSlotWord g q vin c ∧
      t.rd (fldAddr (ADF.pg g) ((adfRes q.slot).2.ix c)) = BitVec.ofNat 32 (q.hold q.slot)

namespace SlotLatched

variable {g : Fin 8} {q : AdfSeq} {vin : Quad} {late : BitVec 4} {s t : State} {n : Nat}

/-- The next converter sees the references as the first one did, and so has the word of the start. -/
theorem word (h : SlotLatched g q vin late s n t) (hn : n < 4) : t.adfSlotWord g q vin n = s.adfSlotWord g q vin n :=
  (SameRefs.of_kept h.kept rfl).adfSlotWord hn (State.get_eq_of_rd (h.other ADF.OWSTAT_OPEN (show 0x05C < 0x080 by decide)) rfl) q vin

theorem one (h : SlotLatched g q vin late s n t) (hn : n < 4) :
    SlotLatched g q vin late s (n + 1) (t.adfLatchOne g q vin late n) := by
  obtain ⟨hs1, hs2, hhi, hmin, -⟩ := adfRes_spec q.slot
  have hcases (c : Nat) (hc : c < n + 1) : c < n ∨ c = n := by omega
  unfold State.adfLatchOne
  dsimp only
  rw [h.word hn]
  split
  next hlate =>
    refine ⟨h.kept.trans ((Kept.adfSet ..).mono (by simp)), h.other, ?_, fun c hc hbit => ?_⟩
    · rw [State.vget_adfSet, List.range_succ, List.filter_append, List.map_append, ← List.append_assoc, ← h.listed,
        List.filter_singleton, hlate]
      rfl
    · obtain hc | rfl := hcases c hc
      · exact h.results c hc hbit
      · exact absurd hlate (by simp [hbit])
  next hready =>
    refine ⟨h.kept.trans (Kept.adfLatch ..), fun x hx => ?_, ?_, fun c hc hbit => ?_⟩
    · have hx : x.off < 0x080 := hx
      refine (State.rd_adfLatch_other _ _ _ _ _ _ ?_ ?_).trans (h.other x hx) <;> simp only [Fld.ix] <;> omega
    · rw [(State.adfLatch_hidden ..).1, List.range_succ, List.filter_append, List.map_append, h.listed,
        List.filter_singleton, Bool.eq_false_of_not_eq_true hready]
      exact congrArg _ (List.append_nil _).symm
    · obtain hc | rfl := hcases c hc
      · obtain ⟨hlo, hhigh⟩ := h.results c hc hbit
        refine ⟨(State.rd_adfLatch_other _ _ _ _ _ _ ?_ ?_).trans hlo, (State.rd_adfLatch_other _ _ _ _ _ _ ?_ ?_).trans hhigh⟩
          <;> simp only [Fld.ix, hs1, hs2] <;> omega
      · exact State.rd_adfLatch_same t g q.slot hn _ _

/-- The four converters in turn. -/
theorem all (g : Fin 8) (q : AdfSeq) (vin : Quad) (late : BitVec 4) (s : State) :
    SlotLatched g q vin late s 4 ((List.range 4).foldl (State.adfLatchOne g q vin late) s) := by
  have hfold : ∀ n, n ≤ 4 → SlotLatched g q vin late s n ((List.range n).foldl (State.adfLatchOne g q vin late) s) := by
    intro n
    induction n with
    | zero => exact fun _ => ⟨.refl s, fun _ _ => rfl, (List.append_nil _).symm, fun c hc => absurd hc (Nat.not_lt_zero c)⟩
    | succ n ih =>
      intro hn
      rw [List.range_succ, List.foldl_append]
      exact (ih (by omega)).one (by omega)
  exact hfold 4 le_rfl

end SlotLatched

/-- Whether slot `q.slot` is the last of its sequence. -/
def AdfSeq.last (q : AdfSeq) : Bool := q.cut || !q.two || q.slot == 1

/-- The state in which a slot has latched, before its results are read: the next slot is due, and late results are
reported. -/
def State.adfLatched (s : State) (g : Fin 8) (q : AdfSeq) (vin : Quad) (late : BitVec 4) : State :=
  let t := ((List.range 4).foldl (State.adfLatchOne g q vin late) s).adfSet g fun a =>
    { a with seq := some { q with slot := if q.last then 2 else 1 } }
  if late = 0 then t else ((t.incSat (ADF.pg g) ADF.CNT_LATE).evt (ADF.pg g) ADF.EVT_LATE).note 0x307 1 0 0

theorem exec_adfSlotLatch {dt : Nat} {g : Fin 8} {vin : Quad} {late : BitVec 4} {s : State} {q : AdfSeq}
    (hon : s.dev.off = false) (hseq : (vget s.adf g).seq = some q) (hslot : q.slot ≤ 1)
    (hdue : s.now + dt = q.t0 + 80 * q.slot + 72) : exec (.adfSlotLatch dt g vin late) s =
      .next (if q.cut then ((((s.advance dt).adfLatched g q vin late).adfSet g fun a => { a with seq := none }).flag
          (ADF.pg g) ADF.STAT_BUSY false).adfReach g q.slot
        else (((s.advance dt).adfLatched g q vin late).adfReach g q.slot).adfSlotDone g) := by
  have hnow := State.now_advance_of_on hon dt
  have hrun : ¬(q.slot = 2 ∨ (s.advance dt).now ≠ q.hold q.slot + 72) := by
    rw [hnow, hdue, AdfSeq.hold]
    omega
  change execAdfSlotLatch dt g vin late s = _
  unfold execAdfSlotLatch
  dsimp only
  rw [State.advance_adf, hseq]
  dsimp only
  rw [if_neg hrun]
  rfl

/-! #### The latched slot -/

section Latched

variable {g : Fin 8} {q : AdfSeq} {vin : Quad} {late : BitVec 4} {s : State}

/-- Reporting the late results leaves the results. -/
theorem State.adfLatched_beside : Beside (ADF.pg g) belowResults
    ((List.range 4).foldl (State.adfLatchOne g q vin late) s) (s.adfLatched g q vin late) := by
  have hset (F : AdfH → AdfH) : Beside (ADF.pg g) belowResults ((List.range 4).foldl (State.adfLatchOne g q vin late) s)
      (((List.range 4).foldl (State.adfLatchOne g q vin late) s).adfSet g F) := (Beside.refl _).adfSet g F
  unfold State.adfLatched
  refine .ite (hset _) ((((hset _).incSat _ _ fun _ => ?_).evt (by simp) _ _ fun _ => ?_).kept (.note ..) (by simp))
  · exact show 0x060 < 0x080 by decide
  · exact show 0x010 < 0x080 by decide

theorem State.adfLatched_hidden : (vget (s.adfLatched g q vin late).adf g).late = (vget s.adf g).late ++
      ((List.range 4).filter fun c => late.toNat.testBit c).map (fun c =>
        ⟨q.slot, c, s.adfSlotWord g q vin c, q.hold q.slot⟩) ∧
    (vget (s.adfLatched g q vin late).adf g).seq = some { q with slot := if q.last then 2 else 1 } := by
  have hset : vget (s.adfLatched g q vin late).adf g = { vget ((List.range 4).foldl (State.adfLatchOne g q vin late) s).adf g
      with seq := some { q with slot := if q.last then 2 else 1 } } := by
    unfold State.adfLatched
    dsimp only
    split <;> simp
  rw [hset]
  exact ⟨(SlotLatched.all g q vin late s).listed, rfl⟩

theorem State.on_adfLatched (hlate : late ≠ 0) : (s.adfLatched g q vin late).on (ADF.pg g) ADF.EVT_LATE = true := by
  unfold State.adfLatched
  dsimp only
  rw [if_neg hlate, State.on, State.get_note _ _ _ _ _ (inPage_adf g (by decide)) (by simp) (by simp) (by simp)]
  exact State.on_evt_page _ (inPage_adf g (by decide)) (by simp) rfl rfl (by decide)

end Latched

/-! #### The end of a trigger's sequence -/

/-- The end of a sequence shows in its status and its event alone; its record goes to DMA (R119, R122). -/
theorem State.adfDone_beside (s : State) (g : Fin 8) (two : Bool) : Beside (ADF.pg g) belowResults s (s.adfDone g two) := by
  have hidle : Beside (ADF.pg g) belowResults s ((s.adfSet g fun a => { a with seq := none, doneAt := some s.now }).flag
      (ADF.pg g) ADF.STAT_BUSY false) := ((Beside.refl s).adfSet _ _).flag _ _ _ fun _ => show 0x00C < 0x080 by decide
  unfold State.adfDone
  dsimp only
  refine .evt (.ite ?_ hidle) (by simp) _ _ fun _ => show 0x010 < 0x080 by decide
  exact hidle.kept (.dmaReq_upd ..) (by simp)

theorem State.adfDone_hidden (s : State) (g : Fin 8) (two : Bool) :
    vget (s.adfDone g two).adf g = { vget s.adf g with seq := none, doneAt := some s.now } := by
  unfold State.adfDone
  dsimp only
  rw [State.evt_adf]
  split <;> simp [State.dmaAsk]

theorem State.adfDone_shows (s : State) (g : Fin 8) (two : Bool) : (s.adfDone g two).on (ADF.pg g) ADF.STAT_BUSY = false ∧
    (s.adfDone g two).on (ADF.pg g) ADF.EVT_DONE = true := by
  have hidle : ((s.adfSet g fun a => { a with seq := none, doneAt := some s.now }).flag (ADF.pg g) ADF.STAT_BUSY false).on
      (ADF.pg g) ADF.STAT_BUSY = false := State.on_flag_same _ false (inPage_adf g (by decide)) rfl (by decide)
  unfold State.adfDone
  dsimp only
  refine ⟨?_, State.on_evt_page _ (inPage_adf g (by decide)) (by simp) rfl rfl (by decide)⟩
  rw [State.on, State.get_evt_word _ (inPage_adf g (by decide)) (by simp) (fldAddr_ne_of_off (by decide))]
  split <;> exact hidle

/-- An event of the group that shows keeps showing over the end of its sequence. -/
theorem State.on_adfDone {s : State} {g : Fin 8} {x : Fld} (ho : x.off = 0x010) (hw : x.hi = x.lo) (hh : x.hi < 32) (two : Bool)
    (h : s.on (ADF.pg g) x = true) : (s.adfDone g two).on (ADF.pg g) x = true := by
  have hp : inPage (ADF.pg g) x = true := inPage_adf g (by omega)
  have hidle : ((s.adfSet g fun a => { a with seq := none, doneAt := some s.now }).flag (ADF.pg g) ADF.STAT_BUSY false).on
      (ADF.pg g) x = true :=
    (State.on_put_word _ _ (fldAddr_ne_of_off (show x.off ≠ 0x00C by omega))).trans h
  unfold State.adfDone
  dsimp only
  refine State.on_evt_stays hp (by simp) ho hw hh ?_
  split <;> exact hidle

/-- Step 7 of R119 is taken, or waits for a slot or a late result. -/
theorem State.adfSlotDone_cases (s : State) (g : Fin 8) :
    s.adfSlotDone g = s ∨ ∃ two, s.adfSlotDone g = s.adfDone g two := by
  unfold State.adfSlotDone
  dsimp only
  split
  · split
    · exact .inr ⟨_, rfl⟩
    · exact .inl rfl
  · exact .inl rfl

/-- The step leaves the results and the list of late ones, and the events that show. -/
theorem State.adfSlotDone_spec (s : State) (g : Fin 8) : Beside (ADF.pg g) belowResults s (s.adfSlotDone g) ∧
    (vget (s.adfSlotDone g).adf g).late = (vget s.adf g).late ∧
    ((vget (s.adfSlotDone g).adf g).seq = none ∨ (vget (s.adfSlotDone g).adf g).seq = (vget s.adf g).seq) ∧
    (s.on (ADF.pg g) ADF.EVT_LATE = true → (s.adfSlotDone g).on (ADF.pg g) ADF.EVT_LATE = true) := by
  obtain h | ⟨two, h⟩ := s.adfSlotDone_cases g
  · rw [h]
    exact ⟨.refl s, rfl, .inr rfl, id⟩
  · rw [h, State.adfDone_hidden]
    exact ⟨s.adfDone_beside g two, rfl, .inl rfl, State.on_adfDone rfl rfl (by decide) two⟩

/-! #### The clauses -/

theorem standing_belowResults {off : Nat} (h : standing off) : belowResults off := by
  unfold standing at h
  unfold belowResults
  omega

/-- The updates that read a slot leave the results of its group. -/
theorem State.adfReach_beside (s : State) (g : Fin 8) (slot : Nat) : Beside (ADF.pg g) belowResults s (s.adfReach g slot) :=
  ((ResultsStand.adfReach s g slot).adf g).mono fun _ => standing_belowResults

theorem State.on_adfReach (s : State) (g : Fin 8) (slot : Nat) :
    (s.adfReach g slot).on (ADF.pg g) ADF.EVT_LATE = s.on (ADF.pg g) ADF.EVT_LATE :=
  congrArg (· == 1) (((ResultsStand.adfReach s g slot).adf g).get (inPage_adf g (by decide))
    (show ¬standing 0x010 by unfold standing; omega))

/-- What a slot leaves when it has latched and been read. -/
theorem adfSlotLatch_leaves {dt : Nat} {g : Fin 8} {vin : Quad} {late : BitVec 4} {s : State} {q : AdfSeq}
    (hon : s.dev.off = false) (hseq : (vget s.adf g).seq = some q) (hslot : q.slot ≤ 1)
    (hdue : s.now + dt = q.t0 + 80 * q.slot + 72) : ∃ t, exec (.adfSlotLatch dt g vin late) s = .next t ∧
      Beside (ADF.pg g) belowResults ((s.advance dt).adfLatched g q vin late) t ∧
      (vget t.adf g).late = (vget ((s.advance dt).adfLatched g q vin late).adf g).late ∧
      ((vget t.adf g).seq = none ∨ q.cut = false ∧
        (vget t.adf g).seq = (vget ((s.advance dt).adfLatched g q vin late).adf g).seq) ∧
      (((s.advance dt).adfLatched g q vin late).on (ADF.pg g) ADF.EVT_LATE = true → t.on (ADF.pg g) ADF.EVT_LATE = true) := by
  rw [exec_adfSlotLatch hon hseq hslot hdue]
  generalize (s.advance dt).adfLatched g q vin late = u
  refine ⟨_, rfl, ?_⟩
  cases hcut : q.cut
  case true =>
    have hidle : Beside (ADF.pg g) belowResults u ((u.adfSet g fun a => { a with seq := none }).flag (ADF.pg g)
        ADF.STAT_BUSY false) := ((Beside.refl u).adfSet _ _).flag _ _ _ fun _ => show 0x00C < 0x080 by decide
    rw [if_pos rfl, State.adfReach_adf, State.flag_adf, State.vget_adfSet, State.on_adfReach, State.flag,
      State.on_put_word _ _ (fldAddr_ne_of_off (by decide))]
    exact ⟨hidle.trans (State.adfReach_beside ..), rfl, .inl rfl, id⟩
  case false =>
    obtain ⟨hwords, hlate, hnext, hevt⟩ := (u.adfReach g q.slot).adfSlotDone_spec g
    rw [State.adfReach_adf] at hlate hnext
    rw [State.on_adfReach] at hevt
    rw [if_neg (by decide)]
    exact ⟨(u.adfReach_beside g q.slot).trans hwords, hlate, hnext.imp_right fun h => ⟨rfl, h⟩, hevt⟩

/-- The results of a latched slot: in their registers, or listed as late. -/
theorem adfSlotLatch_shows {dt : Nat} {g : Fin 8} {vin : Quad} {late : BitVec 4} {s : State} {q : AdfSeq}
    (hon : s.dev.off = false) (hseq : (vget s.adf g).seq = some q) (hslot : q.slot ≤ 1)
    (hdue : s.now + dt = q.t0 + 80 * q.slot + 72) : ∃ t, exec (.adfSlotLatch dt g vin late) s = .next t ∧
      (late ≠ 0 → t.on (ADF.pg g) ADF.EVT_LATE = true) ∧
      ((vget t.adf g).seq = none ∨ ∃ q', (vget t.adf g).seq = some q' ∧
        q'.slot = if q.two = true ∧ q.slot = 0 then 1 else 2) ∧ ∀ c, c < 4 →
      if late.toNat.testBit c then ⟨q.slot, c, s.adfSlotWord g q vin c, q.t0 + 80 * q.slot⟩ ∈ (vget t.adf g).late
      else t.rd (fldAddr (ADF.pg g) ((adfRes q.slot).1.ix c)) = s.adfSlotWord g q vin c ∧
        t.rd (fldAddr (ADF.pg g) ((adfRes q.slot).2.ix c)) = BitVec.ofNat 32 (q.t0 + 80 * q.slot) := by
  obtain ⟨t, hexec, hwords, hlist, hnext, hevt⟩ := adfSlotLatch_leaves (vin := vin) (late := late) hon hseq hslot hdue
  obtain ⟨hlate, hslots⟩ := State.adfLatched_hidden (g := g) (q := q) (vin := vin) (late := late) (s := s.advance dt)
  have hword (c : Nat) (hc : c < 4) : (s.advance dt).adfSlotWord g q vin c = s.adfSlotWord g q vin c :=
    (SameRefs.of_kept (.advance s dt) rfl).adfSlotWord hc (s.get_advance ..) q vin
  have hnext : (vget t.adf g).seq = none ∨ ∃ q', (vget t.adf g).seq = some q' ∧
      q'.slot = if q.two = true ∧ q.slot = 0 then 1 else 2 := by
    obtain h | ⟨hcut, h⟩ := hnext
    · exact .inl h
    · refine .inr ⟨_, h.trans hslots, ?_⟩
      rw [AdfSeq.last, hcut]
      obtain hs | hs : q.slot = 0 ∨ q.slot = 1 := by omega
      · cases q.two <;> simp [hs]
      · cases q.two <;> simp [hs]
  refine ⟨t, hexec, fun h => hevt (State.on_adfLatched h), hnext, fun c hc => ?_⟩
  split
  next hbit =>
    rw [hlist, hlate, ← hword c hc]
    exact List.mem_append_right _ (List.mem_map.mpr ⟨c, List.mem_filter.mpr ⟨List.mem_range.mpr hc, hbit⟩, rfl⟩)
  next hbit =>
    obtain ⟨hs1, hs2, hhi, hmin, hmax⟩ := adfRes_spec q.slot
    obtain ⟨hlo, hhigh⟩ := not_belowResults q.slot c
    have hall := State.adfLatched_beside.trans hwords
    have hread {x : Fld} (hx : x.off < 0x1000) (hb : ¬belowResults x.off) :=
      hall.words _ (pageAt_page (inPage_adf g hx)) (by rwa [fldAddr, Nat.add_sub_cancel_left])
    obtain ⟨hw, hh⟩ := (SlotLatched.all g q vin late (s.advance dt)).results c hc (Bool.eq_false_of_not_eq_true hbit)
    rw [hread (by simp only [Fld.ix, hs1]; omega) hlo, hread (by simp only [Fld.ix, hs2]; omega) hhigh, hw, hh, hword c hc]
    exact ⟨rfl, rfl⟩

/-- The last slot without a late result ends the trigger's sequence. -/
theorem adfSlotLatch_ends {dt : Nat} {g : Fin 8} {vin : Quad} {s : State} {q : AdfSeq}
    (hon : s.dev.off = false) (hseq : (vget s.adf g).seq = some q) (hslot : q.slot ≤ 1) (hcut : q.cut = false)
    (hdue : s.now + dt = q.t0 + 80 * q.slot + 72) (hnone : (vget s.adf g).late = []) (hlast : q.two = false ∨ q.slot = 1) :
    ∃ t, exec (.adfSlotLatch dt g vin 0) s = .next t ∧ (vget t.adf g).seq = none ∧
      (vget t.adf g).doneAt = some (s.now + dt) ∧ t.on (ADF.pg g) ADF.STAT_BUSY = false ∧
      t.on (ADF.pg g) ADF.EVT_DONE = true := by
  obtain ⟨hlate, hslots⟩ := State.adfLatched_hidden (g := g) (q := q) (vin := vin) (late := 0) (s := s.advance dt)
  have hlast : q.last = true := by
    rw [AdfSeq.last, hcut]
    obtain h | h := hlast <;> simp [h]
  have hnow : ((s.advance dt).adfLatched g q vin 0).now = s.now + dt := by
    rw [State.adfLatched, if_pos rfl, State.adfSet_now, (SlotLatched.all g q vin 0 (s.advance dt)).kept.within .now (by simp),
      State.now_advance_of_on hon]
  have hdone : (((s.advance dt).adfLatched g q vin 0).adfReach g q.slot).adfSlotDone g =
      (((s.advance dt).adfLatched g q vin 0).adfReach g q.slot).adfDone g q.two := by
    unfold State.adfSlotDone
    dsimp only
    rw [State.adfReach_adf, hslots]
    dsimp only
    rw [hlate, State.advance_adf, hnone, hlast, if_pos ⟨rfl, rfl⟩]
  rw [exec_adfSlotLatch hon hseq hslot hdue, hcut, if_neg (by decide), hdone]
  refine ⟨_, rfl, ?_, ?_, (State.adfDone_shows ..).1, (State.adfDone_shows ..).2⟩
  · rw [State.adfDone_hidden]
  · rw [State.adfDone_hidden, State.adfReach_now, hnow]

/-- A late result latches with LATE set, and leaves the list (R120). -/
theorem lateResult_latches {dt : Nat} {g : Fin 8} {c : Fin 4} {s : State} {r : LateRes}
    (hr : ((vget s.adf g).late.find? fun r => r.c == c.1) = some r) : ∃ t, exec (.lateResult dt g c) s = .next t ∧
      t.rd (fldAddr (ADF.pg g) ((adfRes r.slot).1.ix c)) = r.word ||| BitVec.ofNat 32 (2 ^ 27) ∧
      t.rd (fldAddr (ADF.pg g) ((adfRes r.slot).2.ix c)) = BitVec.ofNat 32 r.hold ∧
      (vget t.adf g).late = (vget s.adf g).late.filter fun x => !(x.slot == r.slot && x.c == r.c) := by
  have hc : r.c = c := by simpa using List.find?_some hr
  have hexec : exec (.lateResult dt g c) s = .next ((((s.advance dt).adfLatch g r.slot r.c (setFlag r.word 27)
      r.hold).adfSet g fun a => { a with late := (vget s.adf g).late.filter fun x => !(x.slot == r.slot && x.c == r.c) }).adfSlotDone
        g) := by
    change execLateResult dt g c s = _
    unfold execLateResult
    dsimp only
    rw [State.advance_adf, hr]
  obtain ⟨hs1, hs2, hhi, hmin, hmax⟩ := adfRes_spec r.slot
  obtain ⟨hlo, hhigh⟩ := not_belowResults r.slot c
  obtain ⟨hlatched, hheld⟩ := (s.advance dt).rd_adfLatch_same g r.slot c.isLt (setFlag r.word 27) r.hold
  refine ⟨_, hexec, ?_⟩
  rw [hc]
  set u := ((s.advance dt).adfLatch g r.slot c (setFlag r.word 27) r.hold).adfSet g fun a =>
    { a with late := (vget s.adf g).late.filter fun x => !(x.slot == r.slot && x.c == c) } with hu
  obtain ⟨hwords, hlist, -, -⟩ := u.adfSlotDone_spec g
  have hread {x : Fld} (hx : x.off < 0x1000) (hb : ¬belowResults x.off) :=
    hwords.words _ (pageAt_page (inPage_adf g hx)) (by rwa [fldAddr, Nat.add_sub_cancel_left])
  refine ⟨?_, ?_, ?_⟩
  · rw [hread (by simp only [Fld.ix, hs1]; omega) hlo, hu, State.rd_adfSet, hlatched, setFlag]
  · rw [hread (by simp only [Fld.ix, hs2]; omega) hhigh, hu, State.rd_adfSet, hheld]
  · rw [hlist, hu, State.vget_adfSet]

/-- Settles O28: each clause is the lemma about its event above. -/
theorem fastGroupsHoldAndLatch : Obligations.FastGroupsHoldAndLatch :=
  ⟨fun _ _ _ hon htrig => ⟨adfHold_holds hon htrig, adfHold_drops htrig⟩,
    fun _ _ _ _ _ _ hon hseq hslot hdue => adfSlotLatch_shows hon hseq hslot hdue,
    fun _ _ _ _ _ hon hseq hslot hcut hdue hnone hlast => adfSlotLatch_ends hon hseq hslot hcut hdue hnone hlast,
    fun _ _ _ _ _ hr => lateResult_latches hr⟩

end Sys2Proof.Machine
end

section
/-! SUPPORT. Injected conversions and open-wire tests of the fast groups (R123, R136). -/

namespace Sys2Proof.Machine
open Sys2Proof

/-! ### Injected conversions (R123) -/

/-- An accepted request holds in the next tick, and shows in no register yet. -/
theorem adfInjGo_holds {dt : Nat} {req : Req} {g : Fin 8} {s : State} (hon : s.dev.off = false)
    (hen : s.on (ADF.pg g) HDR.CTRL_EN = true) (hidle : (vget s.adf g).seq = none) (hfree : (vget s.adf g).inj = none)
    (htrig : (s.advance dt).adfTriggered g = false)
    (hclear : ∀ h ∈ (s.advance dt).adfHolds g, h ≤ s.now + dt ∨ s.now + dt + 80 < h) :
    ∃ t, exec (.adfInjGo dt req g) s = .next t ∧
      (vget t.adf g).inj = some (s.now + dt + 1, s.get (ADF.pg g) ADF.INSEL_INJSEL) ∧ t.regs = s.regs := by
  have hnow := State.now_advance_of_on hon dt
  have hexec : exec (.adfInjGo dt req g) s = .next ((s.advance dt).adfSet g fun a => { a with
      inj := some (s.now + dt + 1, s.get (ADF.pg g) ADF.INSEL_INJSEL), injAt := some (s.now + dt + 1) }) := by
    change Host.Outcome.next ((s.advance dt).adfInject g) = _
    unfold State.adfInject
    dsimp only
    rw [hnow, State.on_advance, State.advance_adf, State.get_advance, if_pos]
    refine ⟨hen, by simp [hidle], by simp [hfree], ?_, by simp [htrig]⟩
    exact List.all_eq_true.mpr fun h hh => decide_eq_true (hclear h hh)
  exact ⟨_, hexec, by simp, s.advance_regs dt⟩

/-- One converter at the latch of an injected conversion held at `hold`. -/
def State.adfInjOne (g : Fin 8) (hold sel : Nat) (vin : Quad) (s : State) (c : Nat) : State :=
  let w := s.adfWord g c 0 (b2n (sel.testBit c)) 1 (s.refBadAt (adfRef g) hold) (vin.get c)
  (s.setWord (ADF.pg g) (ADF.INJRES_LO.ix c) w).setWord (ADF.pg g) (ADF.INJRES_HI.ix c) (BitVec.ofNat 32 hold)

/-- From `s` to `t` the first `n` converters have latched their injected results. -/
structure InjLatched (g : Fin 8) (hold sel : Nat) (vin : Quad) (s : State) (n : Nat) (t : State) : Prop where
  kept : Kept [.block .adf] s t
  openw : t.get (ADF.pg g) ADF.OWSTAT_OPEN = s.get (ADF.pg g) ADF.OWSTAT_OPEN
  results : ∀ c < n, t.rd (fldAddr (ADF.pg g) (ADF.INJRES_LO.ix c)) =
      s.adfWord g c 0 (b2n (sel.testBit c)) 1 (s.refBadAt (adfRef g) hold) (vin.get c) ∧
    t.rd (fldAddr (ADF.pg g) (ADF.INJRES_HI.ix c)) = BitVec.ofNat 32 hold

namespace InjLatched

variable {g : Fin 8} {hold sel : Nat} {vin : Quad} {s t : State} {n : Nat}

theorem off_lo (c : Nat) : (ADF.INJRES_LO.ix c).off = 0x0C0 + c * 8 := rfl
theorem off_hi (c : Nat) : (ADF.INJRES_HI.ix c).off = 0x0C4 + c * 8 := rfl

theorem one (h : InjLatched g hold sel vin s n t) (hn : n < 4) :
    InjLatched g hold sel vin s (n + 1) (t.adfInjOne g hold sel vin n) := by
  have hlo := off_lo n
  have hhi := off_hi n
  have hrefs : SameRefs s t := .of_kept h.kept rfl
  have hother {x : Fld} (h1 : x.off ≠ 0x0C0 + n * 8) (h2 : x.off ≠ 0x0C4 + n * 8) (w v : W32) :
      ((t.setWord (ADF.pg g) (ADF.INJRES_LO.ix n) w).setWord (ADF.pg g) (ADF.INJRES_HI.ix n) v).rd (fldAddr (ADF.pg g) x) =
        t.rd (fldAddr (ADF.pg g) x) :=
    (State.rd_setWord_other _ _ (fldAddr_ne_of_off h2)).trans (State.rd_setWord_other _ _ (fldAddr_ne_of_off h1))
  unfold State.adfInjOne
  dsimp only
  rw [hrefs.refBadAt, hrefs.adfWord hn h.openw]
  refine ⟨(h.kept.trans (.setWord _ (ADF.pg g) _ _)).trans (.setWord _ (ADF.pg g) _ _), ?_, fun c hc => ?_⟩
  · refine (State.get_eq_of_rd (hother ?_ ?_ _ _) rfl).trans h.openw <;> simp only [ADF.OWSTAT_OPEN] <;> omega
  · obtain hc | rfl : c < n ∨ c = n := by omega
    · rw [hother (by rw [off_lo]; omega) (by rw [off_lo]; omega), hother (by rw [off_hi]; omega) (by rw [off_hi]; omega)]
      exact h.results c hc
    · rw [State.rd_setWord_other _ _ (fldAddr_ne_of_off (by omega)), State.rd_setWord_same _ _ (inPage_adf g (by omega)),
        State.rd_setWord_same _ _ (inPage_adf g (by omega))]
      exact ⟨rfl, rfl⟩

/-- The four converters in turn. -/
theorem all (g : Fin 8) (hold sel : Nat) (vin : Quad) (s : State) :
    InjLatched g hold sel vin s 4 ((List.range 4).foldl (State.adfInjOne g hold sel vin) s) := by
  have hfold : ∀ n, n ≤ 4 → InjLatched g hold sel vin s n ((List.range n).foldl (State.adfInjOne g hold sel vin) s) := by
    intro n
    induction n with
    | zero => exact fun _ => ⟨.refl s, rfl, fun c hc => absurd hc (Nat.not_lt_zero c)⟩
    | succ n ih =>
      intro hn
      rw [List.range_succ, List.foldl_append]
      exact (ih (by omega)).one (by omega)
  exact hfold 4 le_rfl

end InjLatched

/-- The injected results stand in their own registers, and the sample ports are not touched. -/
theorem adfInjLatch_latches {dt : Nat} {g : Fin 8} {vin : Quad} {s : State} {h sel : Nat} (hon : s.dev.off = false)
    (hinj : (vget s.adf g).inj = some (h, sel)) (hdue : s.now + dt = h + 72) :
    ∃ t, exec (.adfInjLatch dt g vin) s = .next t ∧ (vget t.adf g).inj = none ∧ t.on (ADF.pg g) ADF.EVT_INJ_DONE = true ∧
      (vget t.adf g).ports = (vget s.adf g).ports ∧
      ∀ c, c < 4 → t.rd (fldAddr (ADF.pg g) (ADF.INJRES_LO.ix c)) =
        s.adfWord g c 0 (b2n (sel.testBit c)) 1 (s.refBadAt (adfRef g) h) (vin.get c) ∧
        t.rd (fldAddr (ADF.pg g) (ADF.INJRES_HI.ix c)) = BitVec.ofNat 32 h := by
  have hexec : exec (.adfInjLatch dt g vin) s = .next ((((List.range 4).foldl (State.adfInjOne g h sel vin)
      (s.advance dt)).adfSet g fun a => { a with inj := none }).evt (ADF.pg g) ADF.EVT_INJ_DONE) := by
    change execAdfInjLatch dt g vin s = _
    unfold execAdfInjLatch
    dsimp only
    rw [State.advance_adf, hinj]
    dsimp only
    rw [if_pos ((State.now_advance_of_on hon dt).trans hdue)]
    rfl
  have hlatched := InjLatched.all g h sel vin (s.advance dt)
  have hadf := hlatched.kept.within .adf (by simp)
  have hrefs : SameRefs s (s.advance dt) := .of_kept (.advance s dt) rfl
  refine ⟨_, hexec, ?_, State.on_evt_page _ (inPage_adf g (by decide)) (by simp) rfl rfl (by decide), ?_, fun c hc => ?_⟩
  · rw [State.evt_adf, State.vget_adfSet]
  · rw [State.evt_adf, State.vget_adfSet, hadf, State.advance_adf]
  · have hread {x : Fld} (hx : 0x0C0 ≤ x.off) (hx' : x.off < 0x1000) (u : State) :
        (u.evt (ADF.pg g) ADF.EVT_INJ_DONE).rd (fldAddr (ADF.pg g) x) = u.rd (fldAddr (ADF.pg g) x) :=
      State.rd_evt_word u (blockAt_page (inPage_adf g hx')) (by simp) (fldAddr_ne_of_off (show x.off ≠ 0x010 by omega))
    have hlo := InjLatched.off_lo c
    have hhi := InjLatched.off_hi c
    obtain ⟨hw, hh⟩ := hlatched.results c hc
    rw [hread (by omega) (by omega), hread (by omega) (by omega), State.rd_adfSet, State.rd_adfSet, hw, hh, hrefs.refBadAt,
      hrefs.adfWord hc (s.get_advance ..)]
    exact ⟨rfl, rfl⟩

/-! ### Open-wire tests (R135, R136) -/

@[simp] theorem State.adfOwNext_advance (s : State) (dt : Nat) (g : Fin 8) : (s.advance dt).adfOwNext g = s.adfOwNext g := by
  simp [State.adfOwNext]

/-- A test that ends is dated back to its start, and its input shows as open or not. -/
theorem adfOwTest_shows {dt : Nat} {g ix : Fin 8} {vin : Int} {s : State} (hen : s.on (ADF.pg g) HDR.CTRL_EN = true)
    (hnext : s.adfOwNext g = some ix.1) (hcalm : (s.advance dt).adfCalm g 880 = true)
    (hsince : (s.advance dt).since (vget s.adf g).owAt 4880 = true) :
    ∃ t, exec (.adfOwTest dt g ix vin) s = .next t ∧ (vget t.adf g).owIn = ix ∧
      (vget t.adf g).owAt = some ((s.advance dt).now - 880) ∧ t.bitOn (ADF.pg g) ADF.OWSTAT_OPEN ix =
        s.openWire (s.bitOn (ADF.pg g) ADF.OW_DIR ix) (s.adcValue (4 * g + ix / 2) 1 vin) := by
  have hrefs : SameRefs s (s.advance dt) := .of_kept (.advance s dt) rfl
  set bad := s.openWire (s.bitOn (ADF.pg g) ADF.OW_DIR ix) (s.adcValue (4 * g + ix / 2) 1 vin) with hbad
  set u := ((s.advance dt).adfSet g fun a => { a with owAt := some ((s.advance dt).now - 880), owIn := ix }).putBit
    (ADF.pg g) ADF.OWSTAT_OPEN ix bad with hu
  have hexec : exec (.adfOwTest dt g ix vin) s =
      .next (if bad then (u.evt (ADF.pg g) ADF.EVT_OW).note 0x308 1 0 0 else u) := by
    change execAdfOwTest dt g ix vin s = _
    unfold execAdfOwTest
    dsimp only
    rw [State.on_advance, State.adfOwNext_advance, State.advance_adf, if_pos ⟨hen, hnext, hcalm, hsince⟩, hrefs.openWire,
      hrefs.adcValue (by omega), State.bitOn_advance, ← hbad]
  have hadf : vget u.adf g = { vget s.adf g with owAt := some ((s.advance dt).now - 880), owIn := ix } := by
    rw [hu, State.putBit, State.put_adf, State.vget_adfSet, State.advance_adf]
  have hopen : u.bitOn (ADF.pg g) ADF.OWSTAT_OPEN ix = bad :=
    State.bitOn_putBit_same _ bad (inPage_adf g (by decide)) (by decide) (by decide) (show ix.1 < 8 from ix.isLt)
  refine ⟨_, hexec, ?_⟩
  split
  · rw [State.note_adf, State.evt_adf, State.bitOn, State.get_note _ _ _ _ _ (inPage_adf g (by decide)) (by simp) (by simp)
      (by simp), State.get_evt_word _ (inPage_adf g (by decide)) (by simp) (fldAddr_ne_of_off (by decide)), hadf]
    exact ⟨rfl, rfl, hopen⟩
  · rw [hadf]
    exact ⟨rfl, rfl, hopen⟩

/-- Settles O29: each clause is the lemma about its event above. -/
theorem injectedConversionsAndOpenWireTests : Obligations.InjectedConversionsAndOpenWireTests :=
  ⟨fun _ _ _ _ hon hen hidle hfree htrig hclear => adfInjGo_holds hon hen hidle hfree htrig hclear,
    fun _ _ _ _ _ _ hon hinj hdue => adfInjLatch_latches hon hinj hdue,
    fun _ _ _ _ _ hen hnext hcalm hsince => adfOwTest_shows hen hnext hcalm hsince⟩

end Sys2Proof.Machine
end

section
/-! SUPPORT. The housekeeping converters: triggers of the two sequences, and the end of an entry (R126 to R132). -/

namespace Sys2Proof.Machine
open Sys2Proof

/-! ### The hidden state of a housekeeping converter -/

@[simp] theorem State.vget_adhSet (s : State) (u : Fin 4) (f : AdhH → AdhH) : vget (s.adhSet u f).adh u = f (vget s.adh u) :=
  vget_vset_same ..

@[simp] theorem State.adhSet_now (s : State) (u : Fin 4) (f : AdhH → AdhH) : (s.adhSet u f).now = s.now := rfl
@[simp] theorem State.adhSet_adhLost (s : State) (u : Fin 4) (f : AdhH → AdhH) : (s.adhSet u f).adhLost = s.adhLost := rfl

@[simp] theorem State.incSat_adh (s : State) (p : Page) (x : Fld) : (s.incSat p x).adh = s.adh :=
  s.sameAt_incSat p x (q := .adh) (by simp)

@[simp] theorem State.evt_adh (s : State) (p : Page) (x : Fld) : (s.evt p x).adh = s.adh :=
  (Kept.evt s p x).within .adh (by simp)

@[simp] theorem State.adhShow_adh (s : State) (u : Fin 4) : (s.adhShow u).adh = s.adh :=
  (Kept.adhShow s u).within .adh (by simp)

@[simp] theorem State.adhAsk_now (s : State) (u : Fin 4) (inj : Bool) (w : W32) (hold : Nat) :
    (s.adhAsk u inj w hold).now = s.now := (Kept.adhAsk s u inj w hold).within .now (by simp)

@[simp] theorem State.dcdEntry_now (s : State) (u e : Nat) (word : W32) (hold : Nat) : (s.dcdEntry u e word hold).now = s.now :=
  (Kept.dcdEntry s u e word hold).within .now (by decide)

/-! ### What the configuration says (R127, R128) -/

theorem State.on_of_regs {s t : State} (h : t.regs = s.regs) (p : Page) (x : Fld) : t.on p x = s.on p x :=
  congrArg (· == 1) (State.get_of_regs h p x)

theorem State.adhReg_of_regs {s t : State} (h : t.regs = s.regs) (u : Fin 4) (n : Nat) : t.adhReg u n = s.adhReg u n := by
  rw [State.adhReg, State.adhReg, State.on_of_regs h, State.rd_of_regs h, State.rd_of_regs h]

theorem State.adhInjEntry_of_regs {s t : State} (h : t.regs = s.regs) (u : Fin 4) (n : Nat) :
    t.adhInjEntry u n = s.adhInjEntry u n := by simp only [State.adhInjEntry, State.rd_of_regs h]

theorem State.adhLen_of_regs {s t : State} (h : t.regs = s.regs) (u : Fin 4) : t.adhLen u = s.adhLen u := by
  rw [State.adhLen, State.adhLen, State.on_of_regs h, State.get_of_regs h,
    funext fun n => congrArg AdhEntry.last (State.adhReg_of_regs h u n)]

/-! ### What the page shows -/

/-- The words of the page beside its results. -/
def belowEntries (off : Nat) : Prop := off < 0x200

theorem standing_belowEntries {off : Nat} (h : standing off) : belowEntries off := by
  unfold standing at h
  unfold belowEntries
  omega

section Page

variable {u : Fin 4} {s t : State}

theorem Beside.adhSet {p : Page} {W : Nat → Prop} (h : Beside p W s t) (u : Fin 4) (F : AdhH → AdhH) :
    Beside p W s (t.adhSet u F) := h.regs rfl

theorem Beside.adhShow (h : Beside (ADH.pg u) belowEntries s t) : Beside (ADH.pg u) belowEntries s (t.adhShow u) := by
  have hstat : belowEntries 0x00C := show 0x00C < 0x200 by decide
  exact ((h.flag _ ADH.STAT_REG_BUSY _ fun _ => hstat).flag _ ADH.STAT_INJ_BUSY _ fun _ => hstat).put _ ADH.STAT_POS _
    fun _ => hstat

theorem Beside.adhEvt (h : Beside (ADH.pg u) belowEntries s t) {x : Fld} :
    Beside (ADH.pg u) belowEntries s (t.evt (ADH.pg u) x) :=
  h.evt (by simp) _ _ fun _ => show 0x010 < 0x200 by decide

/-- A result word of the page. -/
theorem Beside.rd_entry (h : Beside (ADH.pg u) belowEntries s t) {x : Fld} (hlo : 0x200 ≤ x.off) (hhi : x.off < 0x1000) :
    t.rd (fldAddr (ADH.pg u) x) = s.rd (fldAddr (ADH.pg u) x) := by
  refine h.words _ (pageAt_page (inPage_adh u hhi)) ?_
  rw [fldAddr, Nat.add_sub_cancel_left]
  exact Nat.not_lt.mpr hlo

end Page

/-- The status word shows whether the sequences run. -/
theorem State.on_adhShow (s : State) (u : Fin 4) :
    (s.adhShow u).on (ADH.pg u) ADH.STAT_REG_BUSY = (vget s.adh u).reg.isSome ∧
      (s.adhShow u).on (ADH.pg u) ADH.STAT_INJ_BUSY = (vget s.adh u).inj.isSome := by
  unfold State.adhShow
  dsimp only
  constructor
  · rw [State.on, State.get_put_bits _ _ (by decide) (by decide) (by decide), State.flag, State.get_put_bits _ _ (by decide)
      (by decide) (by decide)]
    exact State.on_flag_same _ _ (inPage_adh u (by decide)) rfl (by decide)
  · rw [State.on, State.get_put_bits _ _ (by decide) (by decide) (by decide)]
    exact State.on_flag_same _ _ (inPage_adh u (by decide)) rfl (by decide)

/-! ### Triggers of the regular sequence (R129, R131) -/

/-- A trigger that the divider passes starts the sequence of a converter at rest, LATE where the injected one runs. -/
theorem State.adhRegTrigger_starts {s : State} {u : Fin 4} (hreg : (vget s.adh u).reg = none)
    (hdiv : s.get (ADH.pg u) ADH.CFG_RSRC = 2 ∨ (vget s.adh u).trigs % 2 ^ s.get (ADH.pg u) ADH.STAT_DIV = 0) :
    (vget (s.adhRegTrigger u).adh u).reg = some ⟨0, s.adhLen u, s.now, (vget s.adh u).inj.isSome⟩ ∧
      (s.adhRegTrigger u).on (ADH.pg u) ADH.STAT_REG_BUSY = true := by
  set v := s.adhSet u fun a => { a with trigs := a.trigs + 1 } with hv
  have hpass : ¬(vget s.adh u).trigs % 2 ^ (if s.get (ADH.pg u) ADH.CFG_RSRC = 2 then 0
      else s.get (ADH.pg u) ADH.STAT_DIV) ≠ 0 := by
    split
    · simp [Nat.mod_one]
    · next hsrc => exact not_not.mpr (hdiv.resolve_left hsrc)
  have hstart : s.adhRegTrigger u = v.adhStart u s.now (vget s.adh u).inj.isSome := by
    unfold State.adhRegTrigger
    dsimp only
    rw [if_neg hpass, hreg, if_neg (by simp), ← hv]
    cases (vget s.adh u).inj <;> rfl
  rw [hstart]
  unfold State.adhStart
  rw [(State.on_adhShow ..).1, State.adhShow_adh, State.vget_adhSet, State.adhLen_of_regs (show v.regs = s.regs from rfl)]
  exact ⟨rfl, rfl⟩

section Triggers

variable {dt : Nat} {req : Req} {u : Fin 4} {s : State}

/-- A trigger of an enabled converter at rest, as the clauses about its sources read it. -/
theorem adhRegTrigger_advance (hon : s.dev.off = false) (hreg : (vget s.adh u).reg = none)
    (hdiv : s.get (ADH.pg u) ADH.CFG_RSRC = 2 ∨ (vget s.adh u).trigs % 2 ^ s.get (ADH.pg u) ADH.STAT_DIV = 0) :
    (vget ((s.advance dt).adhRegTrigger u).adh u).reg =
        some ⟨0, s.adhLen u, s.now + dt, (vget s.adh u).inj.isSome⟩ ∧
      ((s.advance dt).adhRegTrigger u).on (ADH.pg u) ADH.STAT_REG_BUSY = true := by
  have h := State.adhRegTrigger_starts (s := s.advance dt) (u := u) (by simpa using hreg) (by simpa using hdiv)
  rwa [State.adhLen_of_regs (s.advance_regs dt), State.now_advance_of_on hon, State.advance_adh] at h

/-- In continuous mode the next sequence starts at its tick (R129). -/
theorem adhRegTrigger_continuous (hon : s.dev.off = false) (hen : s.on (ADH.pg u) HDR.CTRL_EN = true)
    (hreg : (vget s.adh u).reg = none) (hsrc : s.get (ADH.pg u) ADH.CFG_RSRC = 2)
    (hat : (vget s.adh u).contAt = some (s.now + dt)) : ∃ t, exec (.adhRegTrigger dt u) s = .next t ∧
      (vget t.adh u).reg = some ⟨0, s.adhLen u, s.now + dt, (vget s.adh u).inj.isSome⟩ ∧
      t.on (ADH.pg u) ADH.STAT_REG_BUSY = true := by
  have hexec : exec (.adhRegTrigger dt u) s = .next ((s.advance dt).adhRegTrigger u) := by
    change execAdhRegTrigger dt u s = _
    unfold execAdhRegTrigger
    dsimp only
    rw [State.get_advance, hsrc, State.on_advance, State.advance_adh, hat, State.now_advance_of_on hon]
    exact if_pos ⟨hen, beq_self_eq_true _⟩
  exact ⟨_, hexec, adhRegTrigger_advance hon hreg (.inl hsrc)⟩

/-- A period start of the lock group, with the phase, starts the sequence (R129). -/
theorem adhRegTrigger_period (hon : s.dev.off = false) (hen : s.on (ADH.pg u) HDR.CTRL_EN = true)
    (hreg : (vget s.adh u).reg = none) (hsrc : s.get (ADH.pg u) ADH.CFG_RSRC = 0)
    (hdiv : (vget s.adh u).trigs % 2 ^ s.get (ADH.pg u) ADH.STAT_DIV = 0)
    (hhit : (s.advance dt).phaseHit (s.get (ADH.pg u) ADH.CFG_LG) (s.get (ADH.pg u) ADH.PHASE % 2 ^ 31) = true) :
    ∃ t, exec (.adhRegTrigger dt u) s = .next t ∧
      (vget t.adh u).reg = some ⟨0, s.adhLen u, s.now + dt, (vget s.adh u).inj.isSome⟩ := by
  have hexec : exec (.adhRegTrigger dt u) s = .next ((s.advance dt).adhRegTrigger u) := by
    change execAdhRegTrigger dt u s = _
    unfold execAdhRegTrigger
    dsimp only
    rw [State.get_advance, hsrc, State.on_advance, State.get_advance, State.get_advance]
    exact if_pos ⟨hen, hhit⟩
  exact ⟨_, hexec, (adhRegTrigger_advance hon hreg (.inr hdiv)).1⟩

/-- A write of REGGO starts the sequence of source 3 (R129). -/
theorem adhReggo_starts (hon : s.dev.off = false) (hen : s.on (ADH.pg u) HDR.CTRL_EN = true)
    (hreg : (vget s.adh u).reg = none) (hsrc : s.get (ADH.pg u) ADH.CFG_RSRC = 3)
    (hdiv : (vget s.adh u).trigs % 2 ^ s.get (ADH.pg u) ADH.STAT_DIV = 0) : ∃ t, exec (.adhReggo dt req u) s = .next t ∧
      (vget t.adh u).reg = some ⟨0, s.adhLen u, s.now + dt, (vget s.adh u).inj.isSome⟩ ∧
      t.on (ADH.pg u) ADH.STAT_REG_BUSY = true := by
  have hexec : exec (.adhReggo dt req u) s = .next ((s.advance dt).adhRegTrigger u) := by
    change Host.Outcome.next ((s.advance dt).adhRegGo u) = _
    rw [State.adhRegGo, State.on_advance, State.get_advance, if_pos ⟨hen, hsrc⟩]
  exact ⟨_, hexec, adhRegTrigger_advance hon hreg (.inr hdiv)⟩

/-! ### Triggers of the injected sequence (R130, R131) -/

/-- The owner of the lock starts the injected sequence in the next tick. -/
theorem adhGo_starts (hon : s.dev.off = false) (hen : s.on (ADH.pg u) HDR.CTRL_EN = true) (hinj : (vget s.adh u).inj = none)
    (hlock : s.on (ADH.pg u) HDR.OWNER_LOCKED = true) (hown : s.get (ADH.pg u) HDR.OWNER_ID = req) :
    ∃ t, exec (.adhGo dt req u) s = .next t ∧
      (vget t.adh u).inj = some ⟨0, s.get (ADH.pg u) ADH.CTL_ILEN + 1, s.now + dt + 1, false⟩ ∧
      t.on (ADH.pg u) ADH.STAT_INJ_BUSY = true := by
  have hexec : exec (.adhGo dt req u) s = .next ((s.advance dt).adhInject u) := by
    change Host.Outcome.next ((s.advance dt).adhGo req u) = _
    rw [State.adhGo, State.on_advance, State.get_advance, if_pos ⟨hlock, hown⟩]
  refine ⟨_, hexec, ?_⟩
  set v := (s.advance dt).adhSet u fun a => { a with
    inj := some ⟨0, s.get (ADH.pg u) ADH.CTL_ILEN + 1, s.now + dt + 1, false⟩
    reg := a.reg.map fun q => { q with late := true } } with hv
  have hshown (b : Bool) : (if b then (v.incSat (ADH.pg u) ADH.CNT_PREEMPT).evt (ADH.pg u) ADH.EVT_PREEMPT else v).adh = v.adh := by
    cases b <;> simp
  have hstart : (vget v.adh u).inj = some ⟨0, s.get (ADH.pg u) ADH.CTL_ILEN + 1, s.now + dt + 1, false⟩ := by
    rw [hv, State.vget_adhSet]
  unfold State.adhInject
  dsimp only
  rw [State.on_advance, State.advance_adh, if_neg (by simp [hen, hinj]), State.get_advance, State.now_advance_of_on hon, ← hv,
    (State.on_adhShow ..).2, State.adhShow_adh, hshown, hstart]
  exact ⟨rfl, rfl⟩

/-- Another requester is refused, and counted (R130). -/
theorem adhGo_refused (h : ¬(s.on (ADH.pg u) HDR.OWNER_LOCKED = true ∧ s.get (ADH.pg u) HDR.OWNER_ID = req)) :
    exec (.adhGo dt req u) s = .next ((s.advance dt).incSat (ADH.pg u) HDR.ERRCNT_ACCESS) := by
  change Host.Outcome.next ((s.advance dt).adhGo req u) = _
  rw [State.adhGo, State.on_advance, State.get_advance, if_neg h, State.refuse]

end Triggers

/-! ### The word of an entry (R115, R126, R135) -/

/-- The word follows from the references, the calibration and the inputs found open. -/
theorem State.adhWord_congr {s t : State} (h : SameRefs s t) {u : Fin 4} (how : (vget t.adh u).openw = (vget s.adh u).openw)
    (e : AdhEntry) (vin : Int) (hold : Nat) : (t.adhWord u e vin hold).1 = (s.adhWord u e vin hold).1 := by
  unfold State.adhWord
  dsimp only
  rw [h.refBadAt, h.cal, h.adcValue (by omega), h.openWire, how]

/-- Both words of a result as they read when they have been written. -/
theorem State.rd_entry_written (s : State) {u : Fin 4} {lo hi : Fld} (w v : W32) (hhi : hi.off = lo.off + 4)
    (hmax : hi.off < 0x1000) :
    ((s.setWord (ADH.pg u) lo w).setWord (ADH.pg u) hi v).rd (fldAddr (ADH.pg u) lo) = w ∧
      ((s.setWord (ADH.pg u) lo w).setWord (ADH.pg u) hi v).rd (fldAddr (ADH.pg u) hi) = v := by
  rw [State.rd_setWord_other _ _ (fldAddr_ne_of_off (by omega)), State.rd_setWord_same _ _ (inPage_adh u (by omega)),
    State.rd_setWord_same _ _ (inPage_adh u hmax)]
  exact ⟨rfl, rfl⟩

/-! ### The end of an entry (R131, R132) -/

/-- The state in which an injected result stands in its register and its record is asked for. -/
def State.adhInjShown (s : State) (u : Fin 4) (q : AdhSeq) (vin : Int) : State :=
  let e := s.adhInjEntry u q.pos
  let w := (s.adhWord u e vin (q.startAt + e.acq)).1
  (((s.adhWord u e vin (q.startAt + e.acq)).2.setWord (ADH.pg u) (ADH.INJRES_LO.ix q.pos) w).setWord (ADH.pg u)
    (ADH.INJRES_HI.ix q.pos) (BitVec.ofNat 32 (q.startAt + e.acq))).adhAsk u true w (q.startAt + e.acq)

/-- The word of a regular result: LATE where its entry was paused. -/
def AdhSeq.word (q : AdhSeq) (w : W32) : W32 := if q.late then setFlag w 27 else w

/-- The state in which a regular result stands in its register, what reads it has acted, and its record is asked for. -/
def State.adhRegShown (s : State) (u : Fin 4) (q : AdhSeq) (vin : Int) : State :=
  let e := s.adhReg u q.pos
  let w := q.word (s.adhWord u e vin (q.startAt + e.acq)).1
  ((((s.adhWord u e vin (q.startAt + e.acq)).2.setWord (ADH.pg u) (ADH.REGRES_LO.ix q.pos) w).setWord (ADH.pg u)
    (ADH.REGRES_HI.ix q.pos) (BitVec.ofNat 32 (q.startAt + e.acq))).dcdEntry u q.pos w (q.startAt + e.acq)).adhAsk u false w
      (q.startAt + e.acq)

section Entries

variable {s : State} {u : Fin 4} {q : AdhSeq} {vin : Int}

theorem State.adhInjShown_now : (s.adhInjShown u q vin).now = s.now := by
  unfold State.adhInjShown
  rw [State.adhAsk_now, State.setWord_now, State.setWord_now]
  exact (Kept.adhWord ..).within .now (by simp)

theorem State.adhRegShown_now : (s.adhRegShown u q vin).now = s.now := by
  unfold State.adhRegShown
  rw [State.adhAsk_now, State.dcdEntry_now, State.setWord_now, State.setWord_now]
  exact (Kept.adhWord ..).within .now (by simp)

theorem State.rd_adhInjShown (hpos : q.pos < 4) :
    (s.adhInjShown u q vin).rd (fldAddr (ADH.pg u) (ADH.INJRES_LO.ix q.pos)) =
        (s.adhWord u (s.adhInjEntry u q.pos) vin (q.startAt + (s.adhInjEntry u q.pos).acq)).1 ∧
      (s.adhInjShown u q vin).rd (fldAddr (ADH.pg u) (ADH.INJRES_HI.ix q.pos)) =
        BitVec.ofNat 32 (q.startAt + (s.adhInjEntry u q.pos).acq) := by
  have hlo : (ADH.INJRES_LO.ix q.pos).off = 0x300 + q.pos * 8 := rfl
  have hhi : (ADH.INJRES_HI.ix q.pos).off = 0x304 + q.pos * 8 := rfl
  have hask (t : State) (w : W32) (hold : Nat) : Beside (ADH.pg u) belowEntries t (t.adhAsk u true w hold) :=
    (Beside.refl t).kept (.adhAsk ..) (by simp)
  unfold State.adhInjShown
  rw [(hask ..).rd_entry (by omega) (by omega), (hask ..).rd_entry (by omega) (by omega)]
  exact State.rd_entry_written _ _ _ (by omega) (by omega)

theorem State.rd_adhRegShown (hpos : q.pos < 32) :
    (s.adhRegShown u q vin).rd (fldAddr (ADH.pg u) (ADH.REGRES_LO.ix q.pos)) =
        q.word (s.adhWord u (s.adhReg u q.pos) vin (q.startAt + (s.adhReg u q.pos).acq)).1 ∧
      (s.adhRegShown u q vin).rd (fldAddr (ADH.pg u) (ADH.REGRES_HI.ix q.pos)) =
        BitVec.ofNat 32 (q.startAt + (s.adhReg u q.pos).acq) := by
  have hlo : (ADH.REGRES_LO.ix q.pos).off = 0x200 + q.pos * 8 := rfl
  have hhi : (ADH.REGRES_HI.ix q.pos).off = 0x204 + q.pos * 8 := rfl
  have hread (t : State) (w v : W32) (hold hold' : Nat) :
      Beside (ADH.pg u) belowEntries t ((t.dcdEntry u q.pos w hold).adhAsk u false v hold') :=
    (((ResultsStand.dcdEntry t u q.pos w hold).adh u).mono fun _ => standing_belowEntries).kept (.adhAsk ..) (by simp)
  unfold State.adhRegShown
  rw [(hread ..).rd_entry (by omega) (by omega), (hread ..).rd_entry (by omega) (by omega)]
  exact State.rd_entry_written _ _ _ (by omega) (by omega)

/-- An injected entry that nothing stops leads to the next one, or ends its sequence. -/
theorem State.adhInjLatch_eq (hlost : vget s.adhLost u = false) (hcut : (vget s.adh u).cut = false) :
    s.adhInjLatch u q vin = if q.pos + 1 < q.len then (s.adhInjShown u q vin).adhSet u fun a =>
        { a with inj := some { q with pos := q.pos + 1, startAt := s.now } }
      else ((s.adhInjShown u q vin).adhInjEnd u s.now).evt (ADH.pg u) ADH.EVT_INJ_DONE := by
  have hnow : (s.adhInjShown u q vin).now = s.now := State.adhInjShown_now
  rw [← hnow]
  unfold State.adhInjLatch
  simp only [hlost, hcut, Bool.or_self, Bool.false_eq_true, if_false]
  rfl

/-- A regular entry that no disable cuts leads to the next one, or ends its sequence. -/
theorem State.adhRegLatch_eq (hcut : (vget s.adh u).cut = false) :
    ∃ next, s.adhRegLatch u q vin = if q.pos + 1 < q.len then ((s.adhRegShown u q vin).adhSet u fun a =>
        { a with reg := some { q with pos := q.pos + 1, startAt := s.now } }).adhShow u
      else (((s.adhRegShown u q vin).adhSet u fun a => { a with reg := none, contAt := some next }).adhShow u).evt (ADH.pg u)
        ADH.EVT_REG_DONE := by
  have hnow : (s.adhRegShown u q vin).now = s.now := State.adhRegShown_now
  rw [← hnow]
  unfold State.adhRegLatch
  simp only [hcut, Bool.false_eq_true, if_false]
  exact ⟨_, rfl⟩

/-- An injected entry leaves its result, and the sequence goes on with the next entry in this tick. -/
theorem State.adhInjLatch_spec (hlost : vget s.adhLost u = false) (hcut : (vget s.adh u).cut = false) :
    Beside (ADH.pg u) belowEntries (s.adhInjShown u q vin) (s.adhInjLatch u q vin) ∧
      (vget (s.adhInjLatch u q vin).adh u).inj =
        if q.pos + 1 < q.len then some { q with pos := q.pos + 1, startAt := s.now } else none := by
  have hset (F : AdhH → AdhH) : Beside (ADH.pg u) belowEntries (s.adhInjShown u q vin) ((s.adhInjShown u q vin).adhSet u F) :=
    (Beside.refl _).adhSet u F
  rw [State.adhInjLatch_eq hlost hcut, State.adhInjEnd]
  split
  · exact ⟨hset _, by rw [State.vget_adhSet]⟩
  · exact ⟨(hset _).adhShow.adhEvt, by rw [State.evt_adh, State.adhShow_adh, State.vget_adhSet]⟩

/-- A regular entry leaves its result, and the sequence goes on with the next entry in this tick. -/
theorem State.adhRegLatch_spec (hcut : (vget s.adh u).cut = false) :
    Beside (ADH.pg u) belowEntries (s.adhRegShown u q vin) (s.adhRegLatch u q vin) ∧
      (vget (s.adhRegLatch u q vin).adh u).reg =
        if q.pos + 1 < q.len then some { q with pos := q.pos + 1, startAt := s.now } else none := by
  have hset (F : AdhH → AdhH) : Beside (ADH.pg u) belowEntries (s.adhRegShown u q vin) ((s.adhRegShown u q vin).adhSet u F) :=
    (Beside.refl _).adhSet u F
  obtain ⟨next, hlatch⟩ := State.adhRegLatch_eq (q := q) (vin := vin) hcut
  rw [hlatch]
  split
  · exact ⟨(hset _).adhShow, by rw [State.adhShow_adh, State.vget_adhSet]⟩
  · exact ⟨(hset _).adhShow.adhEvt, by rw [State.evt_adh, State.adhShow_adh, State.vget_adhSet]⟩

end Entries

/-- The tick in which an entry ends is dated before its result is made. -/
def State.adhEnded (s : State) (dt : Nat) (u : Fin 4) : State :=
  (s.advance dt).adhSet u fun a => { a with endAt := some (s.advance dt).now }

section Latch

variable {dt : Nat} {u : Fin 4} {vin : Int} {s : State} {q : AdhSeq}

theorem State.adhEnded_regs : (s.adhEnded dt u).regs = s.regs := s.advance_regs dt

theorem State.vget_adhEnded : vget (s.adhEnded dt u).adh u = { vget s.adh u with endAt := some (s.advance dt).now } := by
  rw [State.adhEnded, State.vget_adhSet, State.advance_adh]

/-- The word of an entry is that of the state in which its end finds the converter. -/
theorem State.adhWord_adhEnded (e : AdhEntry) (hold : Nat) :
    ((s.adhEnded dt u).adhWord u e vin hold).1 = (s.adhWord u e vin hold).1 := by
  refine State.adhWord_congr (.trans (.of_kept (.advance s dt) rfl) (.of_kept (.adhSet ..) rfl)) ?_ e vin hold
  have hconv := congrArg AdhH.openw (State.vget_adhEnded (dt := dt) (u := u) (s := s))
  exact hconv

/-- The end of an injected entry. -/
theorem adhEntryLatch_injected (hon : s.dev.off = false) (hinj : (vget s.adh u).inj = some q) (hpos : q.pos < 4)
    (hdue : s.now + dt = q.startAt + (s.adhInjEntry u q.pos).acq + 140) (hlost : vget s.adhLost u = false)
    (hcut : (vget s.adh u).cut = false) : ∃ t, exec (.adhEntryLatch dt u vin) s = .next t ∧
      t.rd (fldAddr (ADH.pg u) (ADH.INJRES_LO.ix q.pos)) =
        (s.adhWord u (s.adhInjEntry u q.pos) vin (q.startAt + (s.adhInjEntry u q.pos).acq)).1 ∧
      t.rd (fldAddr (ADH.pg u) (ADH.INJRES_HI.ix q.pos)) = BitVec.ofNat 32 (q.startAt + (s.adhInjEntry u q.pos).acq) ∧
      (vget t.adh u).inj = if q.pos + 1 < q.len then some { q with pos := q.pos + 1, startAt := s.now + dt } else none := by
  have hnow := State.now_advance_of_on hon dt
  have hexec : exec (.adhEntryLatch dt u vin) s = .next ((s.adhEnded dt u).adhInjLatch u q vin) := by
    change execAdhEntryLatch dt u vin s = _
    unfold execAdhEntryLatch
    dsimp only
    rw [State.advance_adh, hinj]
    dsimp only
    rw [State.adhInjEntry_of_regs (s.advance_regs dt), if_pos (hnow.trans hdue)]
    rfl
  have hlo : (ADH.INJRES_LO.ix q.pos).off = 0x300 + q.pos * 8 := rfl
  have hhi : (ADH.INJRES_HI.ix q.pos).off = 0x304 + q.pos * 8 := rfl
  obtain ⟨hwords, hnext⟩ := State.adhInjLatch_spec (s := s.adhEnded dt u) (u := u) (q := q) (vin := vin)
    (by rw [State.adhEnded, State.adhSet_adhLost, State.advance_adhLost, hlost]) (by rw [State.vget_adhEnded]; exact hcut)
  obtain ⟨hword, hhold⟩ := State.rd_adhInjShown (s := s.adhEnded dt u) (u := u) (vin := vin) hpos
  refine ⟨_, hexec, ?_, ?_, ?_⟩
  · rw [hwords.rd_entry (by omega) (by omega), hword, State.adhInjEntry_of_regs State.adhEnded_regs, State.adhWord_adhEnded]
  · rw [hwords.rd_entry (by omega) (by omega), hhold, State.adhInjEntry_of_regs State.adhEnded_regs]
  · rw [hnext, State.adhEnded, State.adhSet_now, hnow]

/-- The end of a regular entry. -/
theorem adhEntryLatch_regular (hon : s.dev.off = false) (hinj : (vget s.adh u).inj = none)
    (hreg : (vget s.adh u).reg = some q) (hpos : q.pos < 32) (hcut : (vget s.adh u).cut = false)
    (hdue : s.now + dt = q.startAt + (s.adhReg u q.pos).acq + 140) : ∃ t, exec (.adhEntryLatch dt u vin) s = .next t ∧
      t.rd (fldAddr (ADH.pg u) (ADH.REGRES_LO.ix q.pos)) =
        (s.adhWord u (s.adhReg u q.pos) vin (q.startAt + (s.adhReg u q.pos).acq)).1 |||
          (if q.late then BitVec.ofNat 32 (2 ^ 27) else 0) ∧
      t.rd (fldAddr (ADH.pg u) (ADH.REGRES_HI.ix q.pos)) = BitVec.ofNat 32 (q.startAt + (s.adhReg u q.pos).acq) ∧
      (vget t.adh u).reg = if q.pos + 1 < q.len then some { q with pos := q.pos + 1, startAt := s.now + dt } else none := by
  have hnow := State.now_advance_of_on hon dt
  have hexec : exec (.adhEntryLatch dt u vin) s = .next ((s.adhEnded dt u).adhRegLatch u q vin) := by
    change execAdhEntryLatch dt u vin s = _
    unfold execAdhEntryLatch
    dsimp only
    rw [State.advance_adh, hinj]
    dsimp only
    rw [hreg]
    dsimp only
    rw [State.adhReg_of_regs (s.advance_regs dt), if_pos (hnow.trans hdue)]
    rfl
  have hlate (w : W32) : q.word w = w ||| (if q.late then BitVec.ofNat 32 (2 ^ 27) else 0) := by
    rw [AdhSeq.word]
    cases q.late
    · exact (BitVec.or_zero).symm
    · rfl
  have hlo : (ADH.REGRES_LO.ix q.pos).off = 0x200 + q.pos * 8 := rfl
  have hhi : (ADH.REGRES_HI.ix q.pos).off = 0x204 + q.pos * 8 := rfl
  obtain ⟨hwords, hnext⟩ := State.adhRegLatch_spec (s := s.adhEnded dt u) (u := u) (q := q) (vin := vin)
    (by rw [State.vget_adhEnded]; exact hcut)
  obtain ⟨hword, hhold⟩ := State.rd_adhRegShown (s := s.adhEnded dt u) (u := u) (vin := vin) hpos
  refine ⟨_, hexec, ?_, ?_, ?_⟩
  · rw [hwords.rd_entry (by omega) (by omega), hword, State.adhReg_of_regs State.adhEnded_regs, State.adhWord_adhEnded, hlate]
  · rw [hwords.rd_entry (by omega) (by omega), hhold, State.adhReg_of_regs State.adhEnded_regs]
  · rw [hnext, State.adhEnded, State.adhSet_now, hnow]

end Latch

/-- Settles O30: each clause is the lemma about its trigger or entry above. -/
theorem housekeepingSequencesRun : Obligations.HousekeepingSequencesRun := fun _ _ _ _ hon =>
  ⟨fun hen hreg => ⟨adhRegTrigger_continuous hon hen hreg, adhRegTrigger_period hon hen hreg, adhReggo_starts hon hen hreg⟩,
    adhGo_starts hon, adhGo_refused,
    fun _ _ hinj hpos hdue hlost hcut => adhEntryLatch_injected hon hinj hpos hdue hlost hcut,
    fun _ _ hinj hreg hpos hcut hdue => adhEntryLatch_regular hon hinj hreg hpos hcut hdue⟩

end Sys2Proof.Machine
end

section
/-! SUPPORT. The reference buffers, the calibration cycles and the calibration windows (R133, R134, R137, R138). -/

namespace Sys2Proof.Machine
open Sys2Proof

/-! ### The parts of the state that the updates leave -/

@[simp] theorem State.putBit_adr (s : State) (p : Page) (x : Fld) (b : Nat) (v : Bool) : (s.putBit p x b v).adr = s.adr :=
  (Kept.putBit s p x b v).within .adr (by simp)

@[simp] theorem State.putBit_now (s : State) (p : Page) (x : Fld) (b : Nat) (v : Bool) : (s.putBit p x b v).now = s.now :=
  (Kept.putBit s p x b v).within .now (by simp)

@[simp] theorem State.puts_adr (s : State) (p : Page) (x : Fld) (v : Int) : (s.puts p x v).adr = s.adr :=
  (Kept.puts s p x v).within .adr (by simp)

@[simp] theorem State.calShow_adr (s : State) (i : Fin 36) : (s.calShow i).adr = s.adr :=
  (Kept.calShow s i).within .adr (by simp)

@[simp] theorem State.note_adr (s : State) (code react machs aux : Nat) : (s.note code react machs aux).adr = s.adr :=
  (Kept.note s code react machs aux).within .adr (by simp)

@[simp] theorem State.get_calSet (s : State) (i : Fin 36) (f : CalH → CalH) (p : Page) (x : Fld) :
    (s.calSet i f).get p x = s.get p x := rfl

theorem State.calSet_adr (s : State) (i : Fin 36) (f : CalH → CalH) :
    (s.calSet i f).adr = { s.adr with conv := vset s.adr.conv i (f (vget s.adr.conv i)) } := rfl

@[simp] theorem State.vget_calSet (s : State) (i : Fin 36) (f : CalH → CalH) :
    vget (s.calSet i f).adr.conv i = f (vget s.adr.conv i) := vget_vset_same ..

/-- Of the references a buffer's change of fitness writes the ticks of its flips only. -/
theorem State.refFlip_adr (s o : State) : ∃ flips, (s.refFlip o).adr = { s.adr with flips := flips } := by
  refine List.foldlRecOn (motive := fun t : State => ∃ flips, t.adr = { s.adr with flips := flips }) _ _ ⟨_, rfl⟩
    fun t ⟨_, ht⟩ b _ => ?_
  split
  · exact ⟨_, ht⟩
  · exact ⟨_, by rw [ht]⟩

@[simp] theorem State.refFlip_now (s o : State) : (s.refFlip o).now = s.now := (Kept.refFlip s o).within .now (by simp)

theorem State.bitOn_refFlip (s o : State) (x : Fld) (b : Nat) (hx : inPage ADR.pg x = true) :
    (s.refFlip o).bitOn ADR.pg x b = s.bitOn ADR.pg x b :=
  congrArg (·.testBit b)
    (State.get_eq_of_rd ((Kept.refFlip s o).within (.block .adr) (by simp) _ (blockAt_page hx)) rfl)

/-! ### Reference buffers (R133, R134) -/

section Buffer

variable {dt : Nat} {b : Fin 3} {s : State}

/-- A buffer is ready 800,000 ticks after its enable. -/
theorem refBufferReady_ready (hon : s.dev.off = false) {r : Nat} (hen : vget s.adr.rdyAt b = some r)
    (hdue : r + 800000 ≤ s.now + dt) :
    ∃ t, exec (.refBufferReady dt b) s = .next t ∧ t.bitOn ADR.pg ADR.RSTAT_RDY b = true ∧ vget t.adr.rdyAt b = none := by
  have hexec : exec (.refBufferReady dt b) s = .next
      (({ s.advance dt with
          adr := { (s.advance dt).adr with rdyAt := vset (s.advance dt).adr.rdyAt b none } }.putBit ADR.pg ADR.RSTAT_RDY b
        true).refFlip (s.advance dt)) := by
    change execRefBufferReady dt b s = _
    unfold execRefBufferReady
    dsimp only
    rw [State.advance_adr, hen]
    exact if_pos (hdue.trans_eq (State.now_advance_of_on hon dt).symm)
  refine ⟨_, hexec, ?_, ?_⟩
  · rw [State.bitOn_refFlip _ _ _ _ (by decide)]
    exact State.bitOn_putBit_same _ true (by decide) (by decide) (by decide) b.isLt
  · obtain ⟨flips, hadr⟩ := State.refFlip_adr _ _
    rw [hadr, State.putBit_adr]
    exact vget_vset_same ..

/-- The monitor of buffer `b` has counted `n` deviations in a row. -/
def State.monitored (s : State) (dt : Nat) (b : Fin 3) (n : Nat) : State :=
  { s.advance dt with adr := { s.adr with mon := vset s.adr.mon b n } }

theorem State.monitored_mon {n : Nat} : vget (s.monitored dt b n).adr.mon b = n := vget_vset_same ..

theorem State.monitored_regs {n : Nat} : (s.monitored dt b n).regs = s.regs := s.advance_regs dt

/-- What a check does at its tick (R134). -/
theorem exec_refMonitorCheck (hon : s.dev.off = false) (hdue : (s.now + dt) % 4000 = 0) (dev : Bool) :
    exec (.refMonitorCheck dt b dev) s =
      let m := s.monitored dt b (consec dev (vget s.adr.mon b))
      if consec dev (vget s.adr.mon b) = 3 ∧ ¬ m.bitOn ADR.pg ADR.RSTAT_MON_ERR b = true then
        let u := (m.putBit ADR.pg ADR.RSTAT_MON_ERR b true).refFlip m
        .next (if b = 2 then u.adhFault 0x302 fun _ => true else u.adfFault 0x301 fun g => g / 4 == b.1)
      else .next m := by
  change execRefMonitorCheck dt b dev s = _
  unfold execRefMonitorCheck
  dsimp only
  rw [if_neg (by rw [State.now_advance_of_on hon dt]; exact not_not_intro hdue), State.advance_adr]
  rfl

/-- Below the third deviation in a row a check counts, and shows nothing. -/
theorem refMonitorCheck_counts (hon : s.dev.off = false) (hdue : (s.now + dt) % 4000 = 0) {dev : Bool}
    (hfew : dev = true → vget s.adr.mon b ≠ 2) :
    ∃ t, exec (.refMonitorCheck dt b dev) s = .next t ∧ vget t.adr.mon b = (if dev then vget s.adr.mon b + 1 else 0) ∧
      t.regs = s.regs := by
  have hcount : consec dev (vget s.adr.mon b) ≠ 3 := by
    unfold consec
    cases dev
    · simp
    · have := hfew rfl
      simpa using this
  exact ⟨_, (exec_refMonitorCheck hon hdue dev).trans (if_neg fun h => hcount h.1), State.monitored_mon, State.monitored_regs⟩

/-- The third deviation in a row fails the buffer. -/
theorem refMonitorCheck_fails (hon : s.dev.off = false) (hdue : (s.now + dt) % 4000 = 0) (htwo : vget s.adr.mon b = 2)
    (hok : s.bitOn ADR.pg ADR.RSTAT_MON_ERR b = false) :
    ∃ u : State, u.bitOn ADR.pg ADR.RSTAT_MON_ERR b = true ∧ vget u.adr.mon b = 3 ∧ u.now = s.now + dt ∧
      exec (.refMonitorCheck dt b true) s =
        .next (if b = 2 then u.adhFault 0x302 fun _ => true else u.adfFault 0x301 fun g => g / 4 == b.1) := by
  have hexec := exec_refMonitorCheck (b := b) hon hdue true
  rw [htwo] at hexec
  have hbit : (s.monitored dt b 3).bitOn ADR.pg ADR.RSTAT_MON_ERR b = false :=
    (congrArg (·.testBit b.1) (State.get_of_regs State.monitored_regs ..)).trans hok
  refine ⟨((s.monitored dt b 3).putBit ADR.pg ADR.RSTAT_MON_ERR b true).refFlip (s.monitored dt b 3), ?_, ?_, ?_,
    hexec.trans (if_pos ⟨rfl, Bool.not_eq_true _ ▸ hbit⟩)⟩
  · rw [State.bitOn_refFlip _ _ _ _ (by decide)]
    exact State.bitOn_putBit_same _ true (by decide) (by decide) (by decide) b.isLt
  · obtain ⟨flips, hadr⟩ := State.refFlip_adr ((s.monitored dt b 3).putBit ADR.pg ADR.RSTAT_MON_ERR b true)
      (s.monitored dt b 3)
    rw [hadr, State.putBit_adr]
    exact State.monitored_mon (dt := dt) (s := s)
  · rw [State.refFlip_now, State.putBit_now]
    exact State.now_advance_of_on hon dt

end Buffer

/-! ### Calibration cycles (R137) -/

theorem unsigned_lt (w : Nat) (v : Int) : unsigned w v < 2 ^ w := by
  have hpos : (0 : Int) < (2 ^ w : Nat) := mod_cast Nat.two_pow_pos w
  have hlt := Int.emod_lt_of_pos v hpos
  have hge := Int.emod_nonneg v hpos.ne'
  unfold unsigned
  omega

/-- A signed field as it reads after a write of it. -/
theorem State.get_puts_same (s : State) {p : Page} {x : Fld} (v : Int) (hp : inPage p x = true) (hl : x.lo ≤ x.hi + 1)
    (hh : x.hi < 32) : (s.puts p x v).get p x = unsigned (x.hi + 1 - x.lo) v := by
  rw [State.puts, s.get_put_same _ hp hl hh, Nat.mod_eq_of_lt (unsigned_lt ..)]

theorem fldAddr_ofs_ne_gain (i : Fin 36) : fldAddr ADR.pg (ADR.OFS.ix i) ≠ fldAddr ADR.pg (ADR.GAIN.ix i) :=
  fldAddr_ne_of_off (show 0x200 + i.1 * 4 ≠ 0x100 + i.1 * 4 by omega)

/-- The coefficients of converter `i` after a cycle that found `gain` and `ofs`. -/
def State.calMoved (s : State) (i : Fin 36) (gain ofs : Int) : State :=
  (s.puts ADR.pg (ADR.GAIN.ix i) (calMove (s.gets ADR.pg (ADR.GAIN.ix i)) gain 200)).puts ADR.pg (ADR.OFS.ix i)
    (calMove (s.gets ADR.pg (ADR.OFS.ix i)) ofs 512)

section Cycle

variable {dt : Nat} {i : Fin 36} {gain ofs : Int} {s : State}

theorem State.calMoved_adr : (s.calMoved i gain ofs).adr = s.adr := by rw [State.calMoved, State.puts_adr, State.puts_adr]

theorem State.get_calMoved_gain : (s.calMoved i gain ofs).get ADR.pg (ADR.GAIN.ix i) =
    unsigned (ADR.GAIN.hi + 1 - ADR.GAIN.lo) (calMove (s.gets ADR.pg (ADR.GAIN.ix i)) gain 200) := by
  rw [State.calMoved, State.puts, State.get_put_word _ _ (fldAddr_ofs_ne_gain i).symm]
  exact s.get_puts_same _ (inPage_adr (show 0x100 + i.1 * 4 < 0x1000 by omega)) (show 0 ≤ ADR.GAIN.hi + 1 by decide)
    (show ADR.GAIN.hi < 32 by decide)

theorem State.get_calMoved_ofs : (s.calMoved i gain ofs).get ADR.pg (ADR.OFS.ix i) =
    unsigned (ADR.OFS.hi + 1 - ADR.OFS.lo) (calMove (s.gets ADR.pg (ADR.OFS.ix i)) ofs 512) :=
  State.get_puts_same _ _ (inPage_adr (show 0x200 + i.1 * 4 < 0x1000 by omega)) (show 0 ≤ ADR.OFS.hi + 1 by decide)
    (show ADR.OFS.hi < 32 by decide)

/-- A cycle within its limits moves the coefficients. -/
theorem State.calCycle_within (hg : -50000 ≤ gain) (hg' : gain ≤ 50000) (ho : -16777216 ≤ ofs * 1000)
    (ho' : ofs * 1000 ≤ 16777216) : s.calCycle i gain ofs =
      ((s.calMoved i gain ofs).calSet i fun c => { c with cycle := true, stale := 0, ok := true, told := false }).calShow i := by
  have hin : ¬ (gain < -50000 ∨ 50000 < gain ∨ ofs * 1000 < -16777216 ∨ 16777216 < ofs * 1000) := by omega
  have hofs : (s.puts ADR.pg (ADR.GAIN.ix i) (calMove (s.gets ADR.pg (ADR.GAIN.ix i)) gain 200)).gets ADR.pg (ADR.OFS.ix i) =
      s.gets ADR.pg (ADR.OFS.ix i) :=
    congrArg (signed _) (s.get_put_word _ (fldAddr_ofs_ne_gain i))
  unfold State.calCycle
  dsimp only
  rw [if_neg hin, hofs]
  rfl

/-- The converter has made `n` steps of its cycle. -/
def State.calStepped (s : State) (dt : Nat) (i : Fin 36) (n : Nat) : State :=
  (s.advance dt).calSet i fun c => { c with steps := n % 16 }

theorem State.vget_calStepped {n : Nat} :
    vget (s.calStepped dt i n).adr.conv i = { vget s.adr.conv i with steps := n % 16 } := by
  rw [State.calStepped, State.vget_calSet, State.advance_adr]

/-- What a step in an idle slot does. -/
theorem exec_calStep (hidle : (s.advance dt).calIdle i = true) : exec (.calStep dt i gain ofs) s =
    .next (if (vget s.adr.conv i).steps + 1 < 16 then s.calStepped dt i ((vget s.adr.conv i).steps + 1)
      else (s.calStepped dt i ((vget s.adr.conv i).steps + 1)).calCycle i gain ofs) := by
  change execCalStep dt i gain ofs s = _
  unfold execCalStep
  dsimp only
  rw [if_pos hidle, State.advance_adr]
  rfl

/-- A step before the sixteenth is counted. -/
theorem calStep_counts (hidle : (s.advance dt).calIdle i = true) (hfew : (vget s.adr.conv i).steps < 15) :
    ∃ t, exec (.calStep dt i gain ofs) s = .next t ∧ (vget t.adr.conv i).steps = (vget s.adr.conv i).steps + 1 := by
  refine ⟨_, (exec_calStep hidle).trans (congrArg _ (if_pos (by omega))), ?_⟩
  rw [State.vget_calStepped]
  exact Nat.mod_eq_of_lt (by omega)

/-- The sixteenth step ends the cycle. -/
theorem calStep_ends (hidle : (s.advance dt).calIdle i = true) (hlast : (vget s.adr.conv i).steps = 15)
    (hg : -50000 ≤ gain) (hg' : gain ≤ 50000) (ho : -16777216 ≤ ofs * 1000) (ho' : ofs * 1000 ≤ 16777216) :
    ∃ t, exec (.calStep dt i gain ofs) s = .next t ∧ (vget t.adr.conv i).cycle = true ∧ (vget t.adr.conv i).steps = 0 ∧
      (vget t.adr.conv i).ok = true ∧ (vget t.adr.conv i).stale = 0 ∧
      t.get ADR.pg (ADR.GAIN.ix i) =
        unsigned (ADR.GAIN.hi + 1 - ADR.GAIN.lo) (calMove (s.gets ADR.pg (ADR.GAIN.ix i)) gain 200) ∧
      t.get ADR.pg (ADR.OFS.ix i) =
        unsigned (ADR.OFS.hi + 1 - ADR.OFS.lo) (calMove (s.gets ADR.pg (ADR.OFS.ix i)) ofs 512) := by
  have hexec := exec_calStep (gain := gain) (ofs := ofs) hidle
  rw [hlast, if_neg (by decide), State.calCycle_within hg hg' ho ho'] at hexec
  have hgets (x : Fld) : (s.calStepped dt i 16).gets ADR.pg x = s.gets ADR.pg x :=
    congrArg (signed _) (s.get_advance ..)
  have hshow (w : State) {x : Fld} (hx : x.off < 0x1000) : (w.calShow i).get ADR.pg x = w.get ADR.pg x :=
    (SameRefs.of_kept (.calShow w i) rfl).get hx
  have hconv (w : State) (hw : w.adr = (s.calStepped dt i 16).adr) :
      vget ((w.calSet i fun c => { c with cycle := true, stale := 0, ok := true, told := false }).calShow i).adr.conv i =
        { vget s.adr.conv i with steps := 0, cycle := true, stale := 0, ok := true, told := false } := by
    rw [State.calShow_adr, State.vget_calSet, hw, State.vget_calStepped]
  have hend := hconv _ (State.calMoved_adr (s := s.calStepped dt i 16) (i := i) (gain := gain) (ofs := ofs))
  refine ⟨_, hexec, by rw [hend], by rw [hend], by rw [hend], by rw [hend], ?_, ?_⟩
  · rw [hshow _ (show 0x100 + i.1 * 4 < 0x1000 by omega), State.get_calSet, State.get_calMoved_gain, hgets]
  · rw [hshow _ (show 0x200 + i.1 * 4 < 0x1000 by omega), State.get_calSet, State.get_calMoved_ofs, hgets]

end Cycle

/-! ### Calibration windows (R138) -/

/-- The calibration of a converter after a window, where `staleMax` windows without a cycle make it stale. -/
def CalH.window (staleMax : Nat) (c : CalH) : CalH :=
  if c.cycle then { c with cycle := false, stale := 0 }
  else if staleMax ≤ c.stale + 1 ∧ ¬ c.told then { c with stale := c.stale + 1, ok := false, told := true }
  else { c with stale := c.stale + 1 }

theorem CalH.window_cycle (staleMax : Nat) (c : CalH) : (c.window staleMax).cycle = false := by
  unfold CalH.window
  split
  · rfl
  · have : c.cycle = false := by simpa using ‹¬ c.cycle = true›
    split <;> exact this

theorem CalH.window_stale (staleMax : Nat) (c : CalH) :
    (c.window staleMax).stale = if c.cycle then 0 else c.stale + 1 := by
  unfold CalH.window
  split
  · rfl
  · split <;> rfl

theorem CalH.window_ok (staleMax : Nat) {c : CalH} (hc : c.cycle = false) (ht : c.told = false) :
    (c.window staleMax).ok = (c.ok && !decide (staleMax ≤ c.stale + 1)) := by
  unfold CalH.window
  by_cases hold : staleMax ≤ c.stale + 1
  · simp [hc, ht, hold]
  · simp [hc, hold]

/-- The windows that make a calibration stale. -/
def State.staleMax (s : State) : Nat := s.get ADR.pg ADR.CALCFG_STALE_MAX

/-- The end of a window touches the calibration of its own converter. -/
theorem State.calWindow_adr (s : State) (i : Fin 36) : (s.calWindow i).adr =
    { s.adr with conv := vset s.adr.conv i ((vget s.adr.conv i).window s.staleMax) } := by
  unfold State.calWindow CalH.window
  dsimp only
  split
  · rfl
  · rw [State.get_calSet]
    split <;> rename_i hold
    · rw [if_pos (show s.staleMax ≤ _ ∧ _ from hold), State.note_adr, State.calShow_adr, State.calSet_adr, State.vget_calSet,
        State.calSet_adr, vset_vset]
    · rw [if_neg (show ¬ (s.staleMax ≤ _ ∧ _) from hold), State.calSet_adr]

theorem State.calWindow_staleMax (s : State) (i : Fin 36) : (s.calWindow i).staleMax = s.staleMax :=
  State.get_eq_of_rd ((Kept.calWindow s i).within (.block .adr) (by simp) _ (blockAt_page (by decide))) rfl

/-- After the windows of the converters in `l` each of them has its calibration of after the window, and the others have
theirs of before. -/
theorem State.calWindows_conv {l : List (Fin 36)} (hl : l.Nodup) (s : State) (i : Fin 36) :
    vget (l.foldl State.calWindow s).adr.conv i =
      if i ∈ l then (vget s.adr.conv i).window s.staleMax else vget s.adr.conv i := by
  induction l generalizing s with
  | nil => rfl
  | cons j l ih =>
    obtain ⟨hj, hl⟩ := List.nodup_cons.mp hl
    rw [List.foldl_cons, ih hl, State.calWindow_staleMax, State.calWindow_adr]
    by_cases hi : i = j
    · subst hi
      rw [if_neg hj, if_pos (List.mem_cons_self ..), vget_vset_same]
    · rw [vget_vset_other _ _ _ _ (Ne.symm hi)]
      simp [hi]

theorem State.calWindows_winAt (l : List (Fin 36)) (s : State) : (l.foldl State.calWindow s).adr.winAt = s.adr.winAt :=
  List.foldlRecOn (motive := fun t : State => t.adr.winAt = s.adr.winAt) l _ rfl fun t ht i _ => by
    rw [State.calWindow_adr]
    exact ht

/-- The end of a window, for every converter. -/
theorem calWindowEnd_windows {dt : Nat} {s : State} (hon : s.dev.off = false) (hdue : s.adr.winAt + 40000000 ≤ s.now + dt) :
    ∃ t, exec (.calWindowEnd dt) s = .next t ∧ t.adr.winAt = s.now + dt ∧
      ∀ i, vget t.adr.conv i = (vget s.adr.conv i).window s.staleMax := by
  have hnow := State.now_advance_of_on hon dt
  have hexec : exec (.calWindowEnd dt) s = .next ((List.finRange 36).foldl State.calWindow
      { s.advance dt with adr := { (s.advance dt).adr with winAt := (s.advance dt).now } }) := by
    change execCalWindowEnd dt s = _
    unfold execCalWindowEnd
    dsimp only
    exact if_pos (by rw [State.advance_adr, hnow]; exact hdue)
  refine ⟨_, hexec, (State.calWindows_winAt ..).trans hnow, fun i => ?_⟩
  have hmax : State.staleMax { s.advance dt with adr := { (s.advance dt).adr with winAt := (s.advance dt).now } } =
      s.staleMax := s.get_advance ..
  rw [State.calWindows_conv (List.nodup_finRange 36), if_pos (List.mem_finRange i), hmax]
  change (vget (s.advance dt).adr.conv i).window _ = _
  rw [State.advance_adr]

/-- Settles O31: the reference buffers by the updates of `RSTAT`, a cycle by its move of the two coefficients, and the end
of a window by induction on the converters, each of which has its own calibration. -/
theorem referencesAndCalibration : Obligations.ReferencesAndCalibration := by
  intro dt s hon
  refine ⟨fun _ _ => refBufferReady_ready hon, fun _ _ hdue => refMonitorCheck_counts hon hdue,
    fun _ => refMonitorCheck_fails hon, fun _ _ _ => calStep_counts, fun _ _ _ => calStep_ends, fun hdue => ?_⟩
  obtain ⟨t, hexec, hwin, hconv⟩ := calWindowEnd_windows hon hdue
  refine ⟨t, hexec, hwin, fun i => ?_⟩
  rw [hconv i]
  exact ⟨CalH.window_cycle .., CalH.window_stale .., CalH.window_ok _⟩

end Sys2Proof.Machine
end

section
/-! SUPPORT. The executions of a context: triggers, predictions, the starts of engines, the check of Updraft and the
completion of a run (R149 to R151, R159, R160, R162). -/

namespace Sys2Proof.Machine
open Sys2Proof

/-! ### The execution of a context -/

/-- A change of the execution of a context meets the execution it has. -/
theorem State.exec_execSet {s : State} {k : Nat} {e : Exec} (he : (s.ctxH k).exec = some e) (f : Exec → Exec) :
    ((s.execSet k f).ctxH k).exec = some (f e) := by
  rw [State.execSet, State.ctxH_ctxSet_same, he]
  rfl

theorem State.advance_rd (s : State) (dt : Nat) : (s.advance dt).rd = s.rd := funext fun a => s.rd_advance dt a

@[simp] theorem State.execRd_advance (s : State) (dt : Nat) (e : Exec) : (s.advance dt).execRd e = s.execRd e := by
  rw [State.execRd, State.execRd, State.advance_rd]

@[simp] theorem State.execCfg_advance (s : State) (dt k : Nat) (e : Exec) (b : Nat) :
    (s.advance dt).execCfg k e b = s.execCfg k e b := by rw [State.execCfg, State.execCfg, State.execRd_advance]

@[simp] theorem State.execEngines_advance (s : State) (dt k : Nat) (e : Exec) :
    (s.advance dt).execEngines k e = s.execEngines k e := by
  rw [State.execEngines, State.execEngines, State.execRd_advance]

@[simp] theorem State.execPrio_advance (s : State) (dt k : Nat) (e : Exec) :
    (s.advance dt).execPrio k e = s.execPrio k e := by rw [State.execPrio, State.execPrio, State.execRd_advance]

@[simp] theorem State.execRuns_advance (s : State) (dt k : Nat) (e : Exec) :
    (s.advance dt).execRuns k e = s.execRuns k e := by rw [State.execRuns, State.execRuns, State.execEngines_advance]

@[simp] theorem State.execPreempted_advance (s : State) (dt k : Nat) (e : Exec) (l : List Nat) :
    (s.advance dt).execPreempted k e l = s.execPreempted k e l := by
  simp only [State.execPreempted, State.anyOther, State.execPrio_advance, State.execRuns_advance, State.advance_ctxs]

@[simp] theorem State.ctxSkip_advance (s : State) (dt prio : Nat) : (s.advance dt).ctxSkip prio = s.ctxSkip prio := by
  simp only [State.ctxSkip, State.get_advance]

/-- An engine that takes an execution puts it in the state of its run, and leaves its trigger (R151, R153). -/
theorem State.ctxBegin_exec {s : State} {k : Nat} {e : Exec} (he : (s.ctxH k).exec = some e) (st : ExecSt) :
    ∃ f, ((s.ctxBegin k st).ctxH k).exec = some f ∧ f.st = st ∧ f.taken = e.taken ∧ f.trig = e.trig := by
  have hstart (l : List Nat) : ((s.engStart k l).ctxH k).exec = some e := by
    rw [State.ctxH_of_kept (Kept.engStart ..), he]
  have hloads (l : List Nat) (t : State) : (l.foldl (fun s a => s.granted 7 a) t).ctxH k = t.ctxH k :=
    State.ctxH_of_kept (Kept.foldl (fun _ _ => Kept.granted ..) (.refl t) l) k
  unfold State.ctxBegin
  rw [he]
  dsimp only
  rw [hloads, State.exec_execSet (hstart _)]
  exact ⟨_, rfl, rfl, rfl, rfl⟩

/-! ### Triggers (R149, R150) -/

/-- The trigger is counted and dated, whatever becomes of it (R150). -/
def State.ctxCount (s : State) (k : Nat) : State :=
  s.ctxSet k fun c => { c with
    trigs := c.trigs + 1, trigAt := some s.now, takes := c.takes + b2n (c.trigs % (s.get (CTX.pg k) CTX.TRIG_DIV + 1) == 0) }

/-- A trigger changes the execution of its context, and beside it only what counts and dates triggers (R150). -/
theorem State.ctxTrigger_counted (s : State) (k : Nat) :
    ∃ x, (s.ctxTrigger k).ctxH k = { (s.ctxCount k).ctxH k with exec := x } := by
  rw [State.ctxCount, State.ctxH_ctxSet_same]
  unfold State.ctxTrigger
  dsimp only
  split
  · exact ⟨_, State.ctxH_ctxSet_same ..⟩
  · split
    · rw [State.ctxH_of_kept (Kept.incWrap ..), State.ctxH_ctxSet_same, State.ctxH_ctxSet_same]
      exact ⟨_, rfl⟩
    · split
      · split
        · rw [State.ctxH_of_kept (Kept.note ..), State.ctxH_of_kept (Kept.ctxLast ..), State.ctxH_of_kept (Kept.evt ..),
            State.ctxH_of_kept (Kept.put ..), State.ctxH_of_kept (Kept.incSat ..), State.ctxH_of_kept (Kept.incWrap ..),
            State.ctxH_ctxSet_same]
          exact ⟨_, rfl⟩
        · split <;> rw [State.ctxH_ctxSet_same, State.ctxH_ctxSet_same] <;> exact ⟨_, rfl⟩
      · rw [State.ctxH_ctxSet_same, State.ctxH_ctxSet_same]
        exact ⟨_, rfl⟩

theorem State.trigAt_ctxTrigger (s : State) (k : Nat) : ((s.ctxTrigger k).ctxH k).trigAt = some s.now := by
  obtain ⟨x, hx⟩ := s.ctxTrigger_counted k
  rw [hx, State.ctxCount, State.ctxH_ctxSet_same]

/-- A trigger that meets a triggered execution is dropped, and shown as a fault of its context (R150). -/
def State.ctxDrop (s : State) (k : Nat) : State :=
  ((((((s.incWrap (CTX.pg k) CTX.TDROP).incSat CIR.pg CIR.TDROP_COUNT).put CIR.pg CIR.TDROP_LAST_CTX k).evt CIR.pg
    CIR.EVT_TRIG_DROP).ctxLast k 0x406).note 0x406 1 (s.ctxMachs k) k)

/-- After an event, the last fault and the log write other words of the CIR page. -/
theorem State.get_ctxLast_note (s : State) (k code react machs aux : Nat) {x : Fld} (hx : x.off < 0x058 ∨ 0x058 < x.off)
    (hp : inPage CIR.pg x = true) :
    ((s.ctxLast k code).note code react machs aux).get CIR.pg x = s.get CIR.pg x := by
  have hne {y : Fld} (hy : y.off = 0x058) : fldAddr CIR.pg x ≠ fldAddr CIR.pg y := by simp only [fldAddr]; omega
  rw [State.get_note _ _ _ _ _ hp (by decide) (by decide) (by decide), State.ctxLast, State.get_put_word _ _ (hne rfl),
    State.get_put_word _ _ (hne rfl)]

/-- A dropped trigger leaves the execution, and shows its event and its context (R150). -/
theorem State.ctxDrop_shows (s : State) {k : Nat} (hk : k < 256) : (s.ctxDrop k).ctxH k = s.ctxH k ∧
    (s.ctxDrop k).on CIR.pg CIR.EVT_TRIG_DROP = true ∧ (s.ctxDrop k).get CIR.pg CIR.TDROP_LAST_CTX = k := by
  refine ⟨?_, ?_, ?_⟩
  · rw [State.ctxDrop, State.ctxH_of_kept (Kept.note ..), State.ctxH_of_kept (Kept.ctxLast ..),
      State.ctxH_of_kept (Kept.evt ..), State.ctxH_of_kept (Kept.put ..), State.ctxH_of_kept (Kept.incSat ..),
      State.ctxH_of_kept (Kept.incWrap ..)]
  · rw [State.ctxDrop, State.on, State.get_ctxLast_note _ _ _ _ _ _ (by decide) (by decide)]
    exact State.on_evt_page _ (by decide) (by decide) (by decide) (by decide) (by decide)
  · rw [State.ctxDrop, State.get_ctxLast_note _ _ _ _ _ _ (by decide) (by decide),
      State.get_evt_word _ (by decide) (by decide) (by decide), State.get_put_same _ _ (by decide) (by decide) (by decide)]
    exact Nat.mod_eq_of_lt hk

/-- A triggered execution takes what goes with its trigger: its angles, its holds, and the time since the last one
(R150, R156). -/
def State.ctxStart (s : State) (k : Nat) (e : Exec) : State :=
  s.ctxSet k fun c => { c with exec := some { e with
    taken := true, angs := s.ctxAngles s.rd k s.now, holds := s.ctxHolds k s.now,
    dt := match c.lastTrig with
      | some t => s.now - t
      | none => 0 } }

section Taken

variable {s : State} {k : Nat} (hhit : (s.ctxH k).trigs % (s.get (CTX.pg k) CTX.TRIG_DIV + 1) = 0)
  (htake : ((s.ctxH k).takes + 1) % 2 ^ s.ctxSkip (s.get (CTX.pg k) CTX.CFG_PRIO) = 0)

include hhit htake

/-- A trigger that divider and throttle let pass meets the context's execution (R150, R169). -/
theorem State.ctxTrigger_of_taken : s.ctxTrigger k =
    match (s.ctxH k).exec with
    | some e =>
      if e.taken then (s.ctxCount k).ctxDrop k
      else if e.trig = s.now then (s.ctxCount k).ctxStart k e
      else (s.ctxCount k).ctxStart k (newExec s.now true true)
    | none => (s.ctxCount k).ctxStart k (newExec s.now true (s.on (CTX.pg k) CTX.CFG_UPD)) := by
  unfold State.ctxTrigger
  dsimp only
  refine (if_neg (by simp [hhit])).trans ((if_neg ?_).trans rfl)
  exact not_not.mpr htake

/-- A trigger that is taken starts an execution at its tick where the context has none (R150). -/
theorem State.ctxTrigger_starts (hnone : (s.ctxH k).exec = none) :
    ∃ e, ((s.ctxTrigger k).ctxH k).exec = some e ∧ e.taken = true ∧ e.trig = s.now := by
  rw [State.ctxTrigger_of_taken hhit htake, hnone]
  dsimp only
  rw [State.ctxStart, State.ctxH_ctxSet_same]
  exact ⟨_, rfl, rfl, rfl⟩

/-- A trigger that would be taken is dropped where the context's execution has had its own (R150). -/
theorem State.ctxTrigger_drops {e : Exec} (he : (s.ctxH k).exec = some e) (htaken : e.taken = true) :
    s.ctxTrigger k = (s.ctxCount k).ctxDrop k := by
  rw [State.ctxTrigger_of_taken hhit htake, he]
  exact if_pos htaken

end Taken

section Fires

variable {dt : Nat} {k : Fin 256} {s : State} (hon : s.dev.off = false) (hen : s.on (CTX.pg k) CTX.CFG_EN = true)
  (hfire : (s.advance dt).ctxFires k = true) (hat : (s.ctxH k).trigAt ≠ some (s.now + dt))

include hon hen hfire hat

/-- The trigger source of an enabled context fires, once in a tick (R149). -/
theorem ctxTrigger_fires : exec (.ctxTrigger dt k) s = .next ((s.advance dt).ctxTrigger k) := by
  refine if_pos ⟨by simpa using hen, hfire, ?_⟩
  rwa [State.ctxH_advance, State.now_advance_of_on hon]

theorem ctxTrigger_counts : ∃ t, exec (.ctxTrigger dt k) s = .next t ∧ (t.ctxH k).trigs = (s.ctxH k).trigs + 1 ∧
    (t.ctxH k).trigAt = some (s.now + dt) := by
  refine ⟨_, ctxTrigger_fires hon hen hfire hat, ?_, ?_⟩
  · rw [State.trigs_ctxTrigger, State.ctxH_advance]
  · rw [State.trigAt_ctxTrigger, State.now_advance_of_on hon]

variable (hhit : (s.ctxH k).trigs % (s.get (CTX.pg k) CTX.TRIG_DIV + 1) = 0)
  (htake : ((s.ctxH k).takes + 1) % 2 ^ s.ctxSkip (s.get (CTX.pg k) CTX.CFG_PRIO) = 0)

include hhit htake

theorem ctxTrigger_starts (hnone : (s.ctxH k).exec = none) : ∃ t e, exec (.ctxTrigger dt k) s = .next t ∧
    (t.ctxH k).exec = some e ∧ e.taken = true ∧ e.trig = s.now + dt := by
  obtain ⟨e, he, htaken, htrig⟩ := State.ctxTrigger_starts (s := s.advance dt) (by simpa using hhit)
    (by simpa using htake) (by simpa using hnone)
  exact ⟨_, e, ctxTrigger_fires hon hen hfire hat, he, htaken, htrig.trans (State.now_advance_of_on hon dt)⟩

theorem ctxTrigger_drops {e : Exec} (he : (s.ctxH k).exec = some e) (htaken : e.taken = true) :
    ∃ t, exec (.ctxTrigger dt k) s = .next t ∧ (t.ctxH k).exec = some e ∧ t.on CIR.pg CIR.EVT_TRIG_DROP = true ∧
      t.get CIR.pg CIR.TDROP_LAST_CTX = k := by
  obtain ⟨hsame, hevt, hlast⟩ := ((s.advance dt).ctxCount k).ctxDrop_shows k.isLt
  have hdrop : (s.advance dt).ctxTrigger k = ((s.advance dt).ctxCount k).ctxDrop k :=
    State.ctxTrigger_drops (by simpa using hhit) (by simpa using htake) ((congrArg CtxH.exec (s.ctxH_advance ..)).trans he)
      htaken
  refine ⟨_, (ctxTrigger_fires hon hen hfire hat).trans (congrArg _ hdrop), ?_, hevt, hlast⟩
  rw [hsame, State.ctxCount, State.ctxH_ctxSet_same]
  exact (congrArg CtxH.exec (s.ctxH_advance ..)).trans he

end Fires

/-! ### Predictions (R159) -/

/-- An execution that is there ahead of its trigger is so whether an engine begins it at once or it waits (R151). -/
theorem State.ctxBegin_or_wait {s : State} {k n : Nat} {e : Exec} (he : (s.ctxH k).exec = some e) (htaken : e.taken = false)
    (htrig : e.trig = n) (st : ExecSt) (c : Prop) [Decidable c] :
    ∃ t f, (.next (if c then s.ctxBegin k st else s) : Host.Outcome State Fault Refusal) = .next t ∧
      (t.ctxH k).exec = some f ∧ f.taken = false ∧ f.trig = n := by
  obtain ⟨f, hf, -, hftaken, hftrig⟩ := State.ctxBegin_exec he st
  split
  · exact ⟨_, f, rfl, hf, hftaken.trans htaken, hftrig.trans htrig⟩
  · exact ⟨_, e, rfl, he, htaken, htrig⟩

/-- A prediction starts an execution ahead of its trigger, whether an engine takes it at once or it waits (R151, R159). -/
theorem updraftPredict_starts {dt : Nat} {k : Fin 256} {s : State} (hon : s.dev.off = false)
    (hen : s.on (CTX.pg k) CTX.CFG_EN = true) (hupd : s.on (CTX.pg k) CTX.CFG_UPD = true)
    (hold : ∀ e, (s.ctxH k).exec = some e → e.taken = false ∧ e.trig < s.now + dt)
    (htake : (s.advance dt).ctxWillTake k (s.now + dt + s.get (CTX.pg k) CTX.TIME_PLEAD) = true)
    (heff : (s.ctxH k).enAt ≤ s.now + dt)
    (hpred : ∀ b ∈ predictedBinds s.rd k (chainOf s.rd k),
      ((s.advance dt).ctxPredict k b (s.now + dt + s.get (CTX.pg k) CTX.TIME_PLEAD)).isSome = true) :
    ∃ t e, exec (.updraftPredict dt (k, false)) s = .next t ∧ (t.ctxH k).exec = some e ∧ e.taken = false ∧
      e.trig = s.now + dt + s.get (CTX.pg k) CTX.TIME_PLEAD := by
  have hall : (s.ctxH k).exec.all (fun e => !e.taken && decide (e.trig < s.now + dt)) = true := by
    cases h : (s.ctxH k).exec with
    | none => rfl
    | some e =>
      obtain ⟨htaken, htrig⟩ := hold e h
      simp [htaken, htrig]
  change ∃ t e, execUpdraftPredict dt (k, false) s = .next t ∧ _
  unfold execUpdraftPredict
  dsimp only
  rw [State.now_advance_of_on hon, State.get_advance, State.on_advance, State.on_advance, State.ctxH_advance,
    State.advance_rd,
    if_pos ⟨hen, hupd, htake, hall, heff, by simpa using hpred⟩, if_neg Bool.false_ne_true]
  refine State.ctxBegin_or_wait (congrArg CtxH.exec (State.ctxH_ctxSet_same ..)) ?_ ?_ .prov _ <;> rfl

/-! ### The starts of engines (R151, R160) -/

/-- The result of a final run, which a STRICT input may spoil (R164, R186). -/
def State.ctxResult (s : State) (k : Nat) (f : Exec) : State :=
  s.execSet k fun e => { e with
    out := some (runOut f.rd k (chainOf f.rd k) (s.ctxFull k f)), class_ := if e.redo then 3 else 0
    spoilt := s.ctxStrictBad k e }

section Start

variable {dt : Nat} {k : Fin 256} {s : State} {e : Exec} (he : (s.ctxH k).exec = some e)
  (hstart : (s.advance dt).ctxStartable k e = true) (hfirst : (s.advance dt).ctxFirst k e = true)

include he hstart hfirst

/-- What an engine does with an execution that is its next (R148, R151). -/
theorem ctxExecStart_of_first (ecc : Bool) : exec (.ctxExecStart dt k ecc) s =
    if ecc then .next ((s.advance dt).ctxEcc k)
    else if s.execCfg k e 28 ∧ ¬e.redo then .next ((s.advance dt).ctxBegin k .prov)
    else match (((s.advance dt).ctxBegin k .final).ctxH k).exec with
      | some f => .next (((s.advance dt).ctxBegin k .final).ctxResult k f)
      | none => .next ((s.advance dt).ctxBegin k .final) := by
  change execCtxExecStart dt k ecc s = _
  unfold execCtxExecStart
  dsimp only
  rw [State.ctxH_advance, he]
  dsimp only
  rw [if_pos ⟨hstart, hfirst⟩, State.execCfg_advance]
  rfl

/-- An uncorrectable error in the record ends the execution (R148). -/
theorem ctxExecStart_ecc : exec (.ctxExecStart dt k true) s = .next ((s.advance dt).ctxEcc k) :=
  (ctxExecStart_of_first he hstart hfirst true).trans (if_pos rfl)

/-- Under Updraft the first run is provisional (R159, R160). -/
theorem ctxExecStart_provisional (hupd : s.execCfg k e 28 = true) (hredo : e.redo = false) :
    ∃ t f, exec (.ctxExecStart dt k false) s = .next t ∧ (t.ctxH k).exec = some f ∧ f.st = .prov := by
  obtain ⟨f, hf, hst, -, -⟩ := State.ctxBegin_exec ((congrArg CtxH.exec (s.ctxH_advance dt k)).trans he) .prov
  refine ⟨_, f, ?_, hf, hst⟩
  rw [ctxExecStart_of_first he hstart hfirst, if_neg Bool.false_ne_true, if_pos ⟨hupd, by simp [hredo]⟩]

/-- Without speculation the run is final, and its result is there (R151). -/
theorem ctxExecStart_final (h : s.execCfg k e 28 = false ∨ e.redo = true) :
    ∃ t f, exec (.ctxExecStart dt k false) s = .next t ∧ (t.ctxH k).exec = some f ∧ f.st = .final ∧
      f.out.isSome = true := by
  obtain ⟨f, hf, hst, -, -⟩ := State.ctxBegin_exec ((congrArg CtxH.exec (s.ctxH_advance dt k)).trans he) .final
  have hfinal : ¬(s.execCfg k e 28 = true ∧ ¬e.redo = true) := by rcases h with h | h <;> simp [h]
  rw [ctxExecStart_of_first he hstart hfirst, if_neg Bool.false_ne_true, if_neg hfinal, hf]
  exact ⟨_, _, rfl, State.exec_execSet hf _, hst, rfl⟩

end Start

/-! ### The check of a provisional run (R162 to R164) -/

/-- With the actual samples in, the check makes the result final, and gives it its class (R162, R165). -/
theorem updraftCheck_finishes {dt : Nat} {k : Fin 256} {s : State} {e : Exec} (he : (s.ctxH k).exec = some e)
    (hst : e.st = .provDone) (hready : (s.advance dt).ctxReady k e = true) (hfirst : (s.advance dt).ctxFirst k e = true)
    (hsound : ∀ g ∈ s.execEngines k e, s.bitOn CIR.pg CIR.ENGSTAT_FAILED g = false) :
    ∃ t f, exec (.updraftCheck dt k) s = .next t ∧ (t.ctxH k).exec = some f ∧ f.st = .final ∧ f.out.isSome = true ∧
      (f.class_ = 1 ∨ f.class_ = 2 ∨ f.class_ = 3) := by
  have hcorrect (ps as qs bs : List Dual) (l : List Nat) :
      ((((((s.advance dt).correct ps as).2.correct qs bs).2.engStart k l).ctxH k).exec) = some e := by
    rw [State.ctxH_of_kept (Kept.engStart ..), State.ctxH_of_kept (Kept.correct ..), State.ctxH_of_kept (Kept.correct ..),
      State.ctxH_advance, he]
  have hclass : ∀ failed hit : Bool, let c := if failed = true then 3 else if hit = true then 1 else 2
      c = 1 ∨ c = 2 ∨ c = 3 := by decide
  change ∃ t f, execUpdraftCheck dt k s = .next t ∧ _
  unfold execUpdraftCheck
  dsimp only
  rw [State.ctxH_advance, he]
  dsimp only
  rw [if_pos ⟨hst, hready, hfirst, by simpa using hsound⟩]
  exact ⟨_, _, rfl, State.exec_execSet (hcorrect ..) _, rfl, rfl, hclass ..⟩

/-! ### The completion of a run (R151, R167) -/

/-- An execution whose run is completed: the provisional run waits for its check, the final one for its commit
(R13, R162). -/
def Exec.completed (e : Exec) (now : Nat) (differ : Bool) : Exec :=
  if e.st = .prov then { e with st := .provDone, done1 := false, done2 := false }
  else { e with st := .complete, done1 := true, done2 := true, doneAt := now, differ := e.differ || differ }

/-- The first engine completes a run whose second engine, if there is one, has done so (R151, R167). -/
theorem ctxExecComplete_completes {dt : Nat} {k : Fin 256} {s : State} {e : Exec} {differ : Bool} (hon : s.dev.off = false)
    (he : (s.ctxH k).exec = some e) (hlast : s.execCfg k e 27 = false ∨ e.done2 = true)
    (hsound : ∀ g ∈ s.execEngines k e, s.bitOn CIR.pg CIR.ENGSTAT_FAILED g = false)
    (hfree : s.execPreempted k e ((s.execEngines k e).take 1) = false) (hst : e.st = .prov ∨ e.st = .final) :
    ∃ t, exec (.ctxExecComplete dt k false differ false) s = .next t ∧
      (t.ctxH k).exec = some (e.completed (s.now + dt) (differ && s.execCfg k e 27)) := by
  have hleave (l : List Nat) : (((s.advance dt).engLeave k l).ctxH k).exec = some e := by
    rw [State.ctxH_of_kept (Kept.engLeave ..), State.ctxH_advance, he]
  have hnow (l : List Nat) : ((s.advance dt).engLeave k l).now = s.now + dt :=
    ((Kept.engLeave ..).within .now (by simp)).trans (State.now_advance_of_on hon dt)
  have hidle : ¬(((s.execEngines k e).any fun g => (s.advance dt).bitOn CIR.pg CIR.ENGSTAT_FAILED g) ||
      (s.advance dt).execPreempted k e (if false = true then (s.execEngines k e).drop 1 else (s.execEngines k e).take 1)) =
        true := by simpa [hfree] using hsound
  have hrail : ¬(false && s.execCfg k e 27 && e.st == .final) = true := by simp
  have hpair : (e.done2 || false || !s.execCfg k e 27) = true := by rcases hlast with h | h <;> simp [h]
  change ∃ t, execCtxExecComplete dt k false differ false s = .next t ∧ _
  unfold execCtxExecComplete
  dsimp only
  rw [State.ctxH_advance, he]
  dsimp only
  rw [State.execEngines_advance, State.execCfg_advance, hpair, if_neg hidle, if_neg hrail, if_pos hst]
  rcases hst with hst | hst <;> rw [hst] <;> refine ⟨_, rfl, (State.exec_execSet (hleave _) _).trans (congrArg some ?_)⟩
  · simp [Exec.completed, hst]
  · simp [Exec.completed, hst, hnow]

/-- Settles O32: a trigger by what every trigger keeps of its context and by the cases of one that is taken, a prediction and
the starts by what `State.ctxBegin` makes of an execution, the check by what the correction leaves of it, and a completion by
the execution that it makes of its run. -/
theorem contextTriggersStartExecutions : Obligations.ContextTriggersStartExecutions := by
  intro dt k s hon
  refine ⟨fun hen hfire hat => ⟨ctxTrigger_counts hon hen hfire hat, ctxTrigger_starts hon hen hfire hat,
      fun _ hhit htake => ctxTrigger_drops hon hen hfire hat hhit htake⟩, updraftPredict_starts hon,
    fun e he hstart hfirst => ⟨ctxExecStart_final he hstart hfirst, ctxExecStart_provisional he hstart hfirst,
      ctxExecStart_ecc he hstart hfirst⟩,
    fun e => updraftCheck_finishes, fun e differ he hlast hsound hfree => ⟨fun hst => ?_, fun hst => ?_⟩⟩
  · obtain ⟨t, hexec, ht⟩ := ctxExecComplete_completes hon he hlast hsound hfree (.inr hst)
    exact ⟨t, _, hexec, ht, by simp [Exec.completed, hst]⟩
  · obtain ⟨t, hexec, ht⟩ := ctxExecComplete_completes hon he hlast hsound hfree (.inl hst)
    exact ⟨t, _, hexec, ht, by simp [Exec.completed, hst]⟩

end Sys2Proof.Machine
end

section
/-! SUPPORT. The page and the hidden state of a position unit: reads after writes, and what the marks and the faults of its
sources leave (R207, R219, R330). -/

namespace Sys2Proof.Machine
open Sys2Proof

theorem inPage_pos (n : Fin 3) {x : Fld} (hx : x.off < 0x1000) : inPage (POS.pg n) x = true :=
  inPage_of_hasHeader (decide_eq_true n.isLt) rfl hx

/-! ### The hidden state -/

@[simp] theorem State.posH_posSet (s : State) (n : Fin 3) (f : PosH → PosH) : (s.posSet n f).posH n = f (s.posH n) :=
  vget_vset_same ..

@[simp] theorem State.posSet_now (s : State) (n : Fin 3) (f : PosH → PosH) : (s.posSet n f).now = s.now := rfl
@[simp] theorem State.posSet_regs (s : State) (n : Fin 3) (f : PosH → PosH) : (s.posSet n f).regs = s.regs := rfl
@[simp] theorem State.rd_posSet (s : State) (n : Fin 3) (f : PosH → PosH) (a : Nat) : (s.posSet n f).rd a = s.rd a := rfl
@[simp] theorem State.get_posSet (s : State) (n : Fin 3) (f : PosH → PosH) (p : Page) (x : Fld) :
    (s.posSet n f).get p x = s.get p x := rfl
@[simp] theorem State.on_posSet (s : State) (n : Fin 3) (f : PosH → PosH) (p : Page) (x : Fld) :
    (s.posSet n f).on p x = s.on p x := rfl
@[simp] theorem State.bitOn_posSet (s : State) (n : Fin 3) (f : PosH → PosH) (p : Page) (x : Fld) (b : Nat) :
    (s.posSet n f).bitOn p x b = s.bitOn p x b := rfl
@[simp] theorem State.posOn_posSet (s : State) (n m : Fin 3) (f : PosH → PosH) (i : Nat) :
    (s.posSet n f).posOn m i = s.posOn m i := rfl

theorem State.posH_of_pos {s t : State} (h : t.pos = s.pos) (n : Fin 3) : t.posH n = s.posH n := congrArg (vget · n) h

@[simp] theorem State.posH_advance (s : State) (dt : Nat) (n : Fin 3) : (s.advance dt).posH n = s.posH n :=
  State.posH_of_pos (s.advance_pos dt) n

@[simp] theorem State.posH_put (s : State) (p : Page) (x : Fld) (v : Nat) (n : Fin 3) : (s.put p x v).posH n = s.posH n :=
  State.posH_of_pos (s.put_pos ..) n

@[simp] theorem State.posH_setWord (s : State) (p : Page) (x : Fld) (v : W32) (n : Fin 3) :
    (s.setWord p x v).posH n = s.posH n := State.posH_of_pos (s.setWord_pos ..) n

@[simp] theorem State.posH_incSat (s : State) (p : Page) (x : Fld) (n : Fin 3) : (s.incSat p x).posH n = s.posH n :=
  State.posH_of_pos ((Kept.incSat s p x).within .pos (by simp)) n

@[simp] theorem State.posH_evt (s : State) (p : Page) (x : Fld) (n : Fin 3) : (s.evt p x).posH n = s.posH n :=
  State.posH_of_pos ((Kept.evt s p x).within .pos (by simp)) n

@[simp] theorem State.posH_posNote (s : State) (n : Fin 3) (code : Nat) (evt : Fld) :
    (s.posNote n code evt).posH n = s.posH n := State.posH_of_pos ((Kept.posNote s n code evt).within .pos (by simp)) n

/-! ### Time alone -/

@[simp] theorem State.posState_advance (s : State) (dt m : Nat) : (s.advance dt).posState m = s.posState m :=
  s.get_advance ..

@[simp] theorem State.posOn_advance (s : State) (dt : Nat) (n : Fin 3) (i : Nat) :
    (s.advance dt).posOn n i = s.posOn n i := by simp [State.posOn]

@[simp] theorem State.posValid_advance (s : State) (dt : Nat) (n : Fin 3) (i : Nat) :
    (s.advance dt).posValid n i = s.posValid n i := s.bitOn_advance ..

/-- A source that is on is enabled. -/
theorem State.bitOn_of_posOn {s : State} {n : Fin 3} {i : Nat} (h : s.posOn n i = true) :
    s.bitOn (POS.pg n) POS.CFG_SRCEN i = true := (Bool.and_eq_true_iff.mp h).2

/-! ### Marks of the sources (R207, R219) -/

/-- A source is valid after a mark if it was found good, is enabled and has not failed. -/
theorem State.posValid_posMark (s : State) (n : Fin 3) {i : Nat} (hi : i < 4) (v : Bool) : (s.posMark n i v).posValid n i =
    (v && s.bitOn (POS.pg n) POS.CFG_SRCEN i && !s.bitOn (POS.pg n) POS.SRCSTAT_FAILED i) :=
  State.bitOn_putBit_same _ _ (inPage_pos n (by decide)) (by decide) (by decide) hi

/-- A mark touches the hidden state in the sources held since the loss alone. -/
@[simp] theorem State.posH_posMark (s : State) (n : Fin 3) (i : Nat) (v : Bool) : (s.posMark n i v).posH n =
    { s.posH n with held := if v && s.bitOn (POS.pg n) POS.CFG_SRCEN i && !s.bitOn (POS.pg n) POS.SRCSTAT_FAILED i
      then (s.posH n).held else setBits (s.posH n).held i i 0 } :=
  (State.posH_of_pos ((Kept.putBit _ _ _ _ _).within .pos (by simp)) n).trans (State.posH_posSet ..)

/-- A mark leaves the words beside `POS_SRCSTAT`. -/
theorem State.get_posMark_word (s : State) (n : Fin 3) (i : Nat) (v : Bool) {x : Fld} (hx : x.off ≠ 0x0A8) :
    (s.posMark n i v).get (POS.pg n) x = s.get (POS.pg n) x := State.get_put_word _ _ (fldAddr_ne_of_off hx)

/-! ### Faults of the sources (R330) -/

/-- A fault of a source leaves the unit's words but that of its events. -/
theorem State.get_posNote_word (s : State) (n : Fin 3) (code : Nat) (evt : Fld) {x : Fld} (hx : x.off ≠ 0x010)
    (hp : x.off < 0x1000) : (s.posNote n code evt).get (POS.pg n) x = s.get (POS.pg n) x := by
  rw [State.posNote, State.get_note _ _ _ _ _ (inPage_pos n hp) (by simp) (by simp) (by simp),
    State.get_evt_word _ (inPage_pos n hp) (by simp) (fldAddr_ne_of_off hx)]

theorem State.posValid_posNote (s : State) (n : Fin 3) (code : Nat) (evt : Fld) (i : Nat) :
    (s.posNote n code evt).posValid n i = s.posValid n i :=
  congrArg (·.testBit i) (s.get_posNote_word n code evt (by decide) (by decide))

/-- The event of a source's fault shows (R44). -/
theorem State.on_posNote (s : State) (n : Fin 3) (code : Nat) {evt : Fld} (ho : evt.off = 0x010) (hw : evt.hi = evt.lo)
    (hh : evt.hi < 32) : (s.posNote n code evt).on (POS.pg n) evt = true := by
  have hp : inPage (POS.pg n) evt = true := inPage_pos n (by omega)
  rw [State.posNote, State.on, State.get_note _ _ _ _ _ hp (by simp) (by simp) (by simp)]
  exact State.on_evt_page _ hp (by simp) ho hw hh

/-- A source that is marked invalid with a fault is invalid, and the event shows. -/
theorem State.posNote_posMark_false (s : State) (n : Fin 3) {i : Nat} (hi : i < 4) (code : Nat) {evt : Fld}
    (ho : evt.off = 0x010) (hw : evt.hi = evt.lo) (hh : evt.hi < 32) :
    ((s.posMark n i false).posNote n code evt).posValid n i = false ∧
      ((s.posMark n i false).posNote n code evt).on (POS.pg n) evt = true := by
  refine ⟨?_, State.on_posNote _ n code ho hw hh⟩
  rw [State.posValid_posNote, State.posValid_posMark _ n hi]
  rfl

/-- The faults of the resolver's checks leave the unit's words but that of its events, and its hidden state. -/
theorem State.rsvFaults_spec (s : State) (n : Fin 3) (old new : Nat) : (s.rsvFaults n old new).posH n = s.posH n ∧
    ∀ x : Fld, x.off ≠ 0x010 → x.off < 0x1000 → (s.rsvFaults n old new).get (POS.pg n) x = s.get (POS.pg n) x := by
  refine ⟨State.posH_of_pos ((Kept.rsvFaults s n old new).within .pos (by simp)) n, fun x hx hp => ?_⟩
  refine State.foldl_related (R := fun s t => t.get (POS.pg n) x = s.get (POS.pg n) x) (fun _ => rfl)
    (fun h h' => h'.trans h) (fun t b => ?_) _ s
  split
  · exact t.get_posNote_word n _ _ hx hp
  · rfl

end Sys2Proof.Machine
end

section
/-! SUPPORT. O34: the sources of a position unit (R209 to R214). -/

namespace Sys2Proof.Machine
open Sys2Proof

/-! ### Resolver (R209 to R212) -/

theorem rsvSample_takes {dt : Nat} {n : Fin 3} {s : State} (hon : s.dev.off = false) (sn cs : BitVec 16)
    (hsrc : s.posOn n 0 = true) (hdue : (s.now + dt) % 80 = 0) :
    ∃ t, exec (.rsvSample dt n sn cs) s = .next t ∧ (t.posH n).rsvAt = s.now + dt ∧
      (t.posH n).rsvSamples = (s.posH n).rsvSamples + 1 ∧ (t.posH n).rsvN = (s.posH n).rsvN + 1 ∧
      (t.posH n).rsvDS = (s.posH n).rsvDS + sn.toInt ∧ (t.posH n).rsvDC = (s.posH n).rsvDC + cs.toInt ∧ t.regs = s.regs := by
  have hnow := State.now_advance_of_on hon dt
  change ∃ t, execRsvSample dt n sn cs s = .next t ∧ _
  unfold execRsvSample
  dsimp only
  rw [if_pos ⟨by rw [hnow, hdue], by rw [State.posOn_advance, hsrc]⟩]
  exact ⟨_, rfl, by simp [hnow], by simp, by simp, by simp, by simp, s.advance_regs dt⟩

/-- The source's mark after the checks of a period (R212): `bad` are the checks that fail, `good` tells that enough samples
have passed. -/
def State.rsvJudged (s : State) (n : Fin 3) (bad : Nat) (good : Prop) [Decidable good] : State :=
  if bad ≠ 0 then s.posMark n 0 false else if good then s.posMark n 0 true else s

theorem State.rsvJudged_spec (s : State) (n : Fin 3) (bad : Nat) (good : Prop) [Decidable good] :
    (∃ k, (s.rsvJudged n bad good).posH n = { s.posH n with held := k }) ∧
      (s.rsvJudged n bad good).get (POS.pg n) POS.RSVAMP_DC = s.get (POS.pg n) POS.RSVAMP_DC ∧
      (bad ≠ 0 → (s.rsvJudged n bad good).posValid n 0 = false) := by
  unfold State.rsvJudged
  split
  · exact ⟨⟨_, s.posH_posMark ..⟩, s.get_posMark_word n _ _ (by decide), fun _ => s.posValid_posMark n (by decide) false⟩
  next hbad =>
    split
    · exact ⟨⟨_, s.posH_posMark ..⟩, s.get_posMark_word n _ _ (by decide), fun h => absurd h hbad⟩
    · exact ⟨⟨_, rfl⟩, rfl, fun h => absurd h hbad⟩

/-- The state after the checks of a period: the levels are shown, the counts are taken, and the source is judged (R212). -/
def State.rsvChecked (s : State) (n : Fin 3) (amp dc : Nat) (counts : PosH → PosH) (old bad : Nat) (good : Prop)
    [Decidable good] : State :=
  (((((s.put (POS.pg n) POS.RSVAMP_AMP amp).put (POS.pg n) POS.RSVAMP_DC dc).posSet n counts).rsvFaults n
    old bad).rsvJudged n bad good)

theorem State.rsvChecked_spec (s : State) (n : Fin 3) (amp dc : Nat) (counts : PosH → PosH) (old bad : Nat) (good : Prop)
    [Decidable good] : (∃ k, (s.rsvChecked n amp dc counts old bad good).posH n = { counts (s.posH n) with held := k }) ∧
      (s.rsvChecked n amp dc counts old bad good).get (POS.pg n) POS.RSVAMP_DC = dc % 65536 ∧
      (bad ≠ 0 → (s.rsvChecked n amp dc counts old bad good).posValid n 0 = false) := by
  obtain ⟨hhid, hget⟩ := State.rsvFaults_spec
    (((s.put (POS.pg n) POS.RSVAMP_AMP amp).put (POS.pg n) POS.RSVAMP_DC dc).posSet n counts) n old bad
  obtain ⟨⟨k, hk⟩, hdc, hbad⟩ := State.rsvJudged_spec (State.rsvFaults
    (((s.put (POS.pg n) POS.RSVAMP_AMP amp).put (POS.pg n) POS.RSVAMP_DC dc).posSet n counts) n old bad) n bad
    good
  refine ⟨⟨k, hk.trans ?_⟩, hdc.trans ?_, hbad⟩
  · simp [hhid]
  · rw [hget _ (by decide) (by decide), State.get_posSet]
    exact State.get_put_same _ _ (inPage_pos n (by decide)) (by decide) (by decide)

/-- The checks that fail, one bit each (R212). -/
def rsvBadOf (lo hi lot : Nat) (opn : Bool) (exc : Nat) : Nat :=
  b2n (decide (2 ≤ lo)) + 2 * b2n (decide (2 ≤ hi)) + 4 * b2n (decide (4 ≤ lot)) + 8 * b2n opn + 16 * b2n (decide (4 ≤ exc))

/-- An open input, or four bad readbacks of the excitation in a row, fail a check. -/
theorem rsvBadOf_ne_zero (lo hi lot : Nat) {opn : Bool} {exc : Nat} (h : opn = true ∨ 4 ≤ exc) :
    rsvBadOf lo hi lot opn exc ≠ 0 := by
  rcases h with rfl | h
  · simp [rsvBadOf, b2n]
  · simp [rsvBadOf, b2n, h]

/-- The period check in terms of its levels and checks. -/
theorem exec_rsvPeriodCheck {dt : Nat} {n : Fin 3} {s : State} (exc : Nat) {dc : Nat} (hsrc : s.posOn n 0 = true)
    (hper : (s.advance dt).rsvPeriod n ≠ (s.posH n).rsvPer)
    (hdc : dc = max (Config.rsvMillivolt ((s.posH n).rsvDS.natAbs / max 1 (s.posH n).rsvN))
      (Config.rsvMillivolt ((s.posH n).rsvDC.natAbs / max 1 (s.posH n).rsvN))) {excN : Nat}
    (hexc : excN = consec (decide (20 * exc < 19 * s.rsvAmplitude n ∨ 21 * s.rsvAmplitude n < 20 * exc)) (s.posH n).rsvExc) :
    ∃ (amp lo hi lot : Nat) (counts : PosH → PosH) (good : Prop) (_ : Decidable good),
      exec (.rsvPeriodCheck dt n exc () () () ()) s = .next ((s.advance dt).rsvChecked n amp (min dc 65535) counts
        (s.posH n).rsvBad (rsvBadOf lo hi lot (s.on (POS.pg n) POS.RSV_OWEN && decide (600 < dc)) excN) good) ∧
      (counts (s.posH n)).rsvPer = (s.advance dt).rsvPeriod n ∧ (counts (s.posH n)).rsvN = 0 ∧
      (counts (s.posH n)).rsvExc = excN := by
  have hamp : (s.advance dt).rsvAmplitude n = s.rsvAmplitude n := by simp [State.rsvAmplitude]
  change ∃ (amp lo hi lot : Nat) (counts : PosH → PosH) (good : Prop) (_ : Decidable good),
    execRsvPeriodCheck dt n exc () () () () s = .next _ ∧ _
  unfold execRsvPeriodCheck
  dsimp only
  rw [if_pos ⟨by rw [State.posOn_advance, hsrc], by rw [State.posH_advance]; exact hper⟩, State.posH_advance, ← hdc, hamp,
    State.on_advance, ← hexc]
  exact ⟨_, _, _, _, _, _, _, rfl, rfl, rfl, rfl⟩

theorem rsvPeriodCheck_checks {dt : Nat} {n : Fin 3} {s : State} (exc dc : Nat) (hsrc : s.posOn n 0 = true)
    (hper : (s.advance dt).rsvPeriod n ≠ (s.posH n).rsvPer)
    (hdc : dc = max (Config.rsvMillivolt ((s.posH n).rsvDS.natAbs / max 1 (s.posH n).rsvN))
      (Config.rsvMillivolt ((s.posH n).rsvDC.natAbs / max 1 (s.posH n).rsvN))) :
    ∃ t, exec (.rsvPeriodCheck dt n exc () () () ()) s = .next t ∧ t.get (POS.pg n) POS.RSVAMP_DC = min dc 65535 ∧
      (t.posH n).rsvPer = (s.advance dt).rsvPeriod n ∧ (t.posH n).rsvN = 0 ∧
      (t.posH n).rsvExc = (if 20 * exc < 19 * s.rsvAmplitude n ∨ 21 * s.rsvAmplitude n < 20 * exc then
        (s.posH n).rsvExc + 1 else 0) ∧
      (4 ≤ (t.posH n).rsvExc → t.posValid n 0 = false) ∧
      (s.on (POS.pg n) POS.RSV_OWEN = true → 600 < dc → t.posValid n 0 = false) := by
  obtain ⟨amp, lo, hi, lot, counts, good, _, hexec, hcper, hcn, hcexc⟩ := exec_rsvPeriodCheck exc hsrc hper hdc rfl
  obtain ⟨⟨k, hk⟩, hshow, hbad⟩ := State.rsvChecked_spec (s.advance dt) n amp (min dc 65535) counts (s.posH n).rsvBad
    (rsvBadOf lo hi lot (s.on (POS.pg n) POS.RSV_OWEN && decide (600 < dc)) _) good
  rw [State.posH_advance] at hk
  refine ⟨_, hexec, hshow.trans (Nat.mod_eq_of_lt (by omega)), ?_⟩
  rw [hk]
  refine ⟨hcper, hcn, hcexc.trans (by simp [consec]), fun h => hbad (rsvBadOf_ne_zero _ _ _ (.inr (hcexc ▸ h))),
    fun how hhigh => hbad (rsvBadOf_ne_zero _ _ _ (.inl (by simp [how, hhigh])))⟩

/-! ### Encoder (R213) -/

theorem encEdge_counts {dt : Nat} {n : Fin 3} {s : State} {a b : Bool} {e : EncBase} {k : Nat} (hsrc : s.posOn n 1 = true)
    (he : e = (s.advance dt).encBefore n) (hk : k = (quadPhase a b + 4 - quadPhase e.a e.b) % 4) :
    ∃ t, exec (.encEdge dt n a b) s = .next t ∧ (t.posH n).encA = a ∧ (t.posH n).encB = b ∧
      (t.posH n).encCount = (if k = 0 ∨ k = 2 then e.count
        else if (k = 1) = (s.on (POS.pg n) POS.ENC_DIR = true) then e.count - 1 else e.count + 1) ∧
      (k ≠ 2 → t.regs = s.regs) ∧
      (k = 2 → t.posValid n 1 = false ∧ t.on (POS.pg n) POS.EVT_ENC = true) := by
  have hk4 : k < 4 := by omega
  have hregs : (s.advance dt).regs = s.regs := s.advance_regs dt
  change ∃ t, execEncEdge dt n a b s = .next t ∧ _
  unfold execEncEdge
  dsimp only
  rw [if_neg (by simp [hsrc]), ← he, ← hk, State.on_advance]
  interval_cases k
  · exact ⟨_, rfl, by simp, by simp, by simp, fun _ => hregs, fun h => by cases h⟩
  · refine ⟨_, rfl, by simp, by simp, ?_, fun _ => hregs, fun h => by cases h⟩
    cases s.on (POS.pg n) POS.ENC_DIR <;> simp [sub_eq_add_neg]
  · exact ⟨_, rfl, by simp, by simp, by simp, fun h => absurd rfl h,
      fun _ => State.posNote_posMark_false _ n (by decide) _ rfl rfl (by decide)⟩
  · refine ⟨_, rfl, by simp, by simp, ?_, fun _ => hregs, fun h => by cases h⟩
    cases s.on (POS.pg n) POS.ENC_DIR <;> simp [sub_eq_add_neg]

theorem encIndex_aligns {dt : Nat} {n : Fin 3} {s : State} (hsrc : s.posOn n 1 = true) (hinv : s.posValid n 1 = false)
    (hzen : s.on (POS.pg n) POS.ENC_ZEN = true) : ∃ t, exec (.encIndex dt n) s = .next t ∧ (t.posH n).encCount = 0 ∧
      t.posValid n 1 = !s.bitOn (POS.pg n) POS.SRCSTAT_FAILED 1 := by
  change ∃ t, execEncIndex dt n s = .next t ∧ _
  unfold execEncIndex
  dsimp only
  rw [if_neg (by simp [hsrc]), if_neg (by simp [hinv]), if_pos (by simp [hzen])]
  refine ⟨_, rfl, by simp, ?_⟩
  rw [State.posValid_posMark _ n (by decide)]
  simp [State.bitOn_of_posOn hsrc]

theorem encIndex_flags {dt : Nat} {n : Fin 3} {s : State} {c : Int} (hsrc : s.posOn n 1 = true)
    (hval : s.posValid n 1 = true) (hidx : (s.posH n).encIdx = some c)
    (herr : s.get (POS.pg n) POS.ENC_ZTOL < indexError ((s.posH n).encCount - c) (4 * s.get (POS.pg n) POS.ENC_LINES)) :
    ∃ t, exec (.encIndex dt n) s = .next t ∧ t.posValid n 1 = false ∧ t.on (POS.pg n) POS.EVT_ENC = true := by
  change ∃ t, execEncIndex dt n s = .next t ∧ _
  unfold execEncIndex
  dsimp only
  rw [if_neg (by simp [hsrc]), if_pos (by simp [hval]), State.posH_advance, hidx]
  dsimp only
  rw [State.get_advance, State.get_advance, if_pos herr]
  exact ⟨_, rfl, State.posNote_posMark_false _ n (by decide) _ rfl rfl (by decide)⟩

theorem encSpeedTimeout_stops {dt : Nat} {n : Fin 3} {s : State} {r : Nat} (hon : s.dev.off = false)
    (hat : (s.posH n).encAt = some r) (hdue : r + 400000 ≤ s.now + dt) :
    ∃ t, exec (.encSpeedTimeout dt n) s = .next t ∧ (t.posH n).encW = 0 ∧ t.regs = s.regs := by
  change ∃ t, execEncSpeedTimeout dt n s = .next t ∧ _
  unfold execEncSpeedTimeout
  dsimp only
  rw [State.posH_advance, hat]
  dsimp only
  rw [if_pos (by rw [State.now_advance_of_on hon]; exact hdue)]
  exact ⟨_, rfl, by simp, s.advance_regs dt⟩

/-! ### Hall sensors (R214) -/

theorem hallSector_eq_zero_iff : ∀ (dir : Bool) (st : BitVec 3), hallSector dir st.toNat = 0 ↔ st = 0#3 ∨ st = 7#3 := by
  decide

/-- A step leads to another sector. -/
theorem ne_of_sectorStep {a b : Nat} {d : Int} (h : sectorStep a b = some d) : b ≠ a := by
  rintro rfl
  unfold sectorStep at h
  split_ifs at h
  all_goals omega

theorem hallEdge_flags {dt : Nat} {n : Fin 3} {s : State} {st : BitVec 3} (hsrc : s.posOn n 2 = true)
    (hst : st = 0#3 ∨ st = 7#3) :
    ∃ t, exec (.hallEdge dt n st) s = .next t ∧ t.posValid n 2 = false ∧ t.on (POS.pg n) POS.EVT_HALL = true := by
  change ∃ t, execHallEdge dt n st s = .next t ∧ _
  unfold execHallEdge
  dsimp only
  rw [if_neg (by simp [hsrc]), if_pos ((hallSector_eq_zero_iff _ st).mpr hst)]
  exact ⟨_, rfl, State.posNote_posMark_false _ n (by decide) _ rfl rfl (by decide)⟩

theorem hallEdge_steps {dt : Nat} {n : Fin 3} {s : State} {st : BitVec 3} {d : Int} (hon : s.dev.off = false)
    (hsrc : s.posOn n 2 = true)
    (hstep : sectorStep (s.posH n).hall (hallSector (s.on (POS.pg n) POS.HALL_DIR) st.toNat) = some d)
    (h0 : st ≠ 0#3) (h7 : st ≠ 7#3) : ∃ t, exec (.hallEdge dt n st) s = .next t ∧
      (t.posH n).hall = hallSector (s.on (POS.pg n) POS.HALL_DIR) st.toNat ∧ (t.posH n).hallAt = some (s.now + dt) ∧
      (t.posH n).hallDir = d := by
  have hsec := (hallSector_eq_zero_iff (s.on (POS.pg n) POS.HALL_DIR) st).not.mpr (by simp [h0, h7])
  change ∃ t, execHallEdge dt n st s = .next t ∧ _
  unfold execHallEdge
  dsimp only
  rw [State.on_advance, State.posH_advance, if_neg (by simp [hsrc]),
    if_neg hsec, if_neg (ne_of_sectorStep hstep), hstep]
  dsimp only
  refine ⟨_, rfl, ?_⟩
  generalize (if d = (s.posH n).hallDir then (s.posH n).hallN + 1 else 1) = edges
  split <;> simp [State.now_advance_of_on hon]

/-- Settles O34: the resolver's sample and its period check, the edges and the index of the encoder and its stop, and the
edges of the Hall sensors, each by the lemma about its event. -/
theorem positionSourcesFollowTheirSignals : Obligations.PositionSourcesFollowTheirSignals := fun _ _ _ hon =>
  ⟨fun sn cs => rsvSample_takes hon sn cs, fun exc dc => rsvPeriodCheck_checks exc dc,
    fun _ _ _ _ => encEdge_counts, fun hsrc => ⟨encIndex_aligns hsrc, fun _ => encIndex_flags hsrc⟩,
    fun _ => encSpeedTimeout_stops hon, fun _ hsrc => ⟨hallEdge_flags hsrc, fun _ => hallEdge_steps hon hsrc⟩⟩

end Sys2Proof.Machine
end

section
/-! SUPPORT. A position unit over what follows a change of its state: the supervisor and the patterns of its tri-legs move the
unit between LOST and REACQ alone, with the end of a running sweep (R222, R223, R244). -/

namespace Sys2Proof.Machine
open Sys2Proof

/-- The words of a unit's page for its status, its events, change sets, refusals, the fused speed and its counts. -/
abbrev posAside (off : Nat) : Prop :=
  off = 0x00C ∨ off = 0x010 ∨ off = 0x024 ∨ off = 0x02C ∨ off = POS.SPD.off ∨ off = POS.CNT.off

/-- From `s` to `t` unit `n` keeps the words beside these and `POS_ANG`, the source that the angle comes from, and its hidden
state but for a sweep that ends. -/
structure PosStands (n : Fin 3) (s t : State) : Prop where
  words : Beside (POS.pg n) (fun off => posAside off ∨ off = POS.ANG.off) s t
  src : t.get (POS.pg n) POS.ANG_SRC = s.get (POS.pg n) POS.ANG_SRC
  hidden : t.posH n = s.posH n ∨ t.posH n = { s.posH n with sweep := none }
  now : t.now = s.now

/-- LOST and REACQ, between which the patterns of the tri-legs move a unit (R222). -/
abbrev posAway (st : Nat) : Prop := st = 3 ∨ st = 4

/-- The same, and the unit keeps its state but for steps between LOST and REACQ. -/
structure PosFollows (n : Fin 3) (s t : State) : Prop extends PosStands n s t where
  state : t.posState n = s.posState n ∨ posAway (s.posState n) ∧ posAway (t.posState n)

theorem posPage_ne {n : Fin 3} {m : Nat} (hm : m < 3) (h : m ≠ n) {x y : Fld} (hx : x.off < 0x1000) (hy : y.off < 0x1000) :
    fldAddr (POS.pg n) y ≠ fldAddr (POS.pg m) x := fun he =>
  h (congrArg Page.num (fldAddr_inj (inPage_pos n hy) (inPage_pos ⟨m, hm⟩ hx) he).1).symm

/-- The sources that are valid follow from two words of the unit. -/
theorem State.posOrder_of_rd {s t : State} {n : Fin 3}
    (hcfg : t.rd (fldAddr (POS.pg n) POS.CFG) = s.rd (fldAddr (POS.pg n) POS.CFG))
    (hstat : t.rd (fldAddr (POS.pg n) POS.SRCSTAT) = s.rd (fldAddr (POS.pg n) POS.SRCSTAT)) :
    t.posOrder n = s.posOrder n := by
  have hpri {x : Fld} (hx : fldAddr (POS.pg n) x = fldAddr (POS.pg n) POS.CFG) := State.get_eq_of_rd hcfg hx
  have hval : t.get (POS.pg n) POS.SRCSTAT_VALID = s.get (POS.pg n) POS.SRCSTAT_VALID := State.get_eq_of_rd hstat rfl
  simp only [State.posOrder, State.posValid, State.bitOn, hval, List.map_cons, List.map_nil, hpri (x := POS.CFG_PRI0) rfl,
    hpri (x := POS.CFG_PRI1) rfl, hpri (x := POS.CFG_PRI2) rfl, hpri (x := POS.CFG_PRI3) rfl]
  rfl

namespace PosStands

variable {n : Fin 3} {s t u : State}

theorem refl (s : State) : PosStands n s s := ⟨.refl s, rfl, .inl rfl, rfl⟩

theorem trans (h : PosStands n s t) (h' : PosStands n t u) : PosStands n s u where
  words := h.words.trans h'.words
  src := h'.src.trans h.src
  hidden := by
    rcases h.hidden with ht | ht <;> rcases h'.hidden with hu | hu <;> simp [ht, hu]
  now := h'.now.trans h.now

theorem ite {c : Prop} [Decidable c] (h : PosStands n s t) (h' : PosStands n s u) : PosStands n s (if c then t else u) := by
  split <;> assumption

/-- A word of the unit that stands. -/
theorem rd (h : PosStands n s t) {x : Fld} (hp : x.off < 0x1000 := by decide)
    (hx : ¬(posAside x.off ∨ x.off = POS.ANG.off) := by decide) :
    t.rd (fldAddr (POS.pg n) x) = s.rd (fldAddr (POS.pg n) x) :=
  h.words.words _ (pageAt_page (inPage_pos n hp)) (by rwa [fldAddr, Nat.add_sub_cancel_left])

theorem posOrder (h : PosStands n s t) : t.posOrder n = s.posOrder n := State.posOrder_of_rd h.rd h.rd

end PosStands

namespace PosFollows

variable {n : Fin 3} {s t u : State}

theorem refl (s : State) : PosFollows n s s := ⟨.refl s, .inl rfl⟩

theorem trans (h : PosFollows n s t) (h' : PosFollows n t u) : PosFollows n s u where
  toPosStands := h.toPosStands.trans h'.toPosStands
  state := by
    rcases h.state with ht | ⟨hs, ht⟩
    · exact ht ▸ h'.state
    · exact .inr ⟨hs, h'.state.elim (fun hu => hu ▸ ht) fun hu => hu.2⟩

theorem ite {c : Prop} [Decidable c] (h : PosFollows n s t) (h' : PosFollows n s u) :
    PosFollows n s (if c then t else u) := by split <;> assumption

theorem foldl {α : Type} {f : State → α → State} (h : ∀ s a, PosFollows n s (f s a)) (l : List α) (s : State) :
    PosFollows n s (l.foldl f s) := State.foldl_related refl trans h l s

/-- An operation that writes only the words aside, and nothing of the position units beside registers. -/
theorem of_beside (h : Beside (POS.pg n) posAside s t) (hpos : t.pos = s.pos) (hnow : t.now = s.now) :
    PosFollows n s t := by
  have hang {x : Fld} (hx : x.off = POS.ANG.off) : t.get (POS.pg n) x = s.get (POS.pg n) x :=
    h.get (inPage_pos n (by rw [hx]; decide)) (by rw [hx]; decide)
  exact ⟨⟨h.mono fun _ => .inl, hang rfl, .inl (State.posH_of_pos hpos n), hnow⟩, .inl (hang rfl)⟩

/-- An operation whose footprint holds nothing of the position units. -/
theorem kept {F : List Part} (h : PosFollows n s t) (k : Kept F t u) (hblk : .block .pos ∉ F := by simp)
    (hpos : .pos ∉ F := by simp) (hnow : .now ∉ F := by simp) : PosFollows n s u :=
  h.trans (of_beside (.kept (.refl t) k hblk) (k.within .pos hpos) (k.within .now hnow))

/-- One operation from the start. -/
theorem one {F : List Part} (k : Kept F s t) (hblk : .block .pos ∉ F := by simp) (hpos : .pos ∉ F := by simp)
    (hnow : .now ∉ F := by simp) : PosFollows n s t := (refl s).kept k hblk hpos hnow

/-! #### The patterns (R222) -/

/-- A unit that is away steps between LOST and REACQ. -/
theorem putState {m v : Nat} (hm : m < 3) (hs : posAway (s.posState m)) (hv : posAway v) :
    PosFollows n s (s.put (POS.pg m) POS.ANG_STATE v) := by
  refine ⟨⟨.put (.refl s) _ _ _ fun _ => .inr rfl, s.get_put_bits _ (by decide) (by decide) (by decide),
    .inl (s.posH_put ..), s.put_now ..⟩, ?_⟩
  by_cases h : m = n
  · subst h
    refine .inr ⟨hs, ?_⟩
    have hsame : (s.put (POS.pg n) POS.ANG_STATE v).posState n = v % 16 :=
      s.get_put_same v (inPage_pos n (by decide)) (by decide) (by decide)
    rcases hv with rfl | rfl <;> simp [hsame, posAway]
  · exact .inl (s.get_put_word v (posPage_ne hm h (by decide) (by decide)))

/-- The end of a sweep. -/
theorem endSweep (s : State) (m : Fin 3) :
    PosFollows n s { s with pos := vset s.pos m { vget s.pos m with sweep := none } } := by
  refine ⟨⟨.regs (.refl s) rfl, rfl, ?_, rfl⟩, .inl rfl⟩
  by_cases h : m = n
  · subst h
    exact .inr (vget_vset_same ..)
  · exact .inl (vget_vset_other _ _ _ _ h)

theorem lossCounted (s : State) (m : Nat) :
    PosFollows n s ((s.incSat (POS.pg m) POS.CNT_LOSS).evt (POS.pg m) POS.EVT_ANGLE_LOST) := by
  have hcnt : posAside POS.CNT_LOSS.off := by decide
  have hevt : posAside 0x010 := by decide
  exact .of_beside (((Beside.refl s).incSat _ _ fun _ => hcnt).evt (by simp) _ _ fun _ => hevt)
    (((Kept.evt ..).within .pos (by simp)).trans ((Kept.incSat ..).within .pos (by simp)))
    (((Kept.evt ..).within .now (by simp)).trans ((Kept.incSat ..).within .now (by simp)))

theorem posFollow (s : State) (m : Nat) : PosFollows n s (s.posFollow m) := by
  unfold State.posFollow
  dsimp only
  split
  next hm =>
    split
    next hst => exact ite (putState hm (.inl hst) (.inr rfl)) (refl s)
    next hst =>
      refine ite (refl s) ?_
      have hput := (endSweep (n := n) s ⟨m, hm⟩).trans (putState (v := 3) hm (.inr hst) (.inl rfl))
      exact (hput.trans (lossCounted _ m)).kept (.note ..)
    next => exact refl s
  next => exact refl s

theorem tpwPatternAt (s : State) (k : Fin 6) (pat src t : Nat) : PosFollows n s (s.tpwPatternAt k pat src t) :=
  ((((one (.tpwSet ..)).kept (.put ..)).kept (.put ..) |>.kept (.flag ..)).kept (.evtIf ..)).trans (posFollow ..)

theorem tpwPattern (s : State) (k : Fin 6) (pat src : Nat) : PosFollows n s (s.tpwPattern k pat src) := tpwPatternAt ..

theorem tpwRequest (s : State) (k : Fin 6) (pat : Nat) : PosFollows n s (s.tpwRequest k pat) := by
  have hset : PosFollows n s (s.tpwSet k fun h => { h with req := some pat, fw := none }) := one (.tpwSet ..)
  exact hset.trans (ite (ite (one (.put ..)) (tpwPattern ..)) (refl _))

theorem tpwAsk (s : State) (k pat : Nat) : PosFollows n s (s.tpwAsk k pat) := by
  unfold State.tpwAsk
  split
  · exact tpwRequest ..
  · exact refl s

theorem tpwRefresh (s : State) (k : Fin 6) : PosFollows n s (s.tpwRefresh k) := by
  have hshow (v w : Bool) : PosFollows n s ((s.flag (TPW.pg k) TPW.STAT_STO_EFF v).flag (TPW.pg k) TPW.STAT_GHB_OK w) :=
    (one (.flag ..)).kept (.flag ..)
  unfold State.tpwRefresh
  dsimp only
  refine (hshow _ _).trans (ite (ite ?_ (refl _)) (ite (one (.put ..)) ((one (.tpwSet ..)).trans (tpwPattern ..))))
  split <;> exact tpwPattern ..

theorem tpwRefreshAll (s : State) : PosFollows n s s.tpwRefreshAll := foldl tpwRefresh _ s

/-! #### The supervisor (R244, R249, R338) -/

theorem stoAssert (s : State) (m : Nat) : PosFollows n s (s.stoAssert m) := by
  have hlow : PosFollows n s (if h : m < 4 then s.pathsLow ⟨m, h⟩ else s) := by
    split
    · exact one (.pathsLow ..)
    · exact refl s
  have hshow (t : State) : PosFollows n t ((t.putBit STO.pg STO.STAT_EFF m true).incSat STO.pg STO.CNT_ASSERTS |>.evt
      STO.pg STO.EVT_ASSERT) := ((one (.putBit ..)).kept (.incSat ..)).kept (.evt ..)
  have hstop (t : State) : PosFollows n t (if t.bitOn SSF.pg SSF.STAT_SS1 m then t.ss1End m 2 else t) :=
    ite (one (.ss1End ..)) (refl t)
  have hend (t : State) : PosFollows n t (((t.msvToSto m).stoRecord m).sbcOnSto m).tpwRefreshAll :=
    (((one (.msvToSto ..)).kept (.stoRecord ..)).kept (.sbcOnSto ..)).trans (tpwRefreshAll _)
  unfold State.stoAssert
  dsimp only
  exact hlow.trans (ite (one (.stoRecord ..)) ((hshow _).trans ((hstop _).trans (hend _))))

theorem csetEnd (s : State) (r : Fin 16) (code : Nat) : PosFollows n s (s.csetEnd r code) := by
  have h24 : posAside 0x024 := by decide
  have h2C : posAside 0x02C := by decide
  have hlast (t : State) (q : Page) : Beside (POS.pg n) posAside t (t.csetLast q code) :=
    .ite ((Beside.refl t).put q _ _ fun _ => h24) (((Beside.refl t).put q _ _ fun _ => h24).incSat q _ fun _ => h2C)
  have hset : Beside (POS.pg n) posAside s (s.csetEnd r code) :=
    (Beside.foldl (fun t q => ((Beside.refl t).put q HDR.CSET_STAT_STATE 0 fun _ => h24).trans (hlast _ q)) _ s).regs rfl
  exact .of_beside hset ((Kept.csetEnd s r code).within .pos (by decide +kernel))
    ((Kept.csetEnd s r code).within .now (by decide +kernel))

theorem csetStop (s : State) : PosFollows n s s.csetStop.1 := by
  have hfold (l : List (Fin 16)) (f : State × Bool → Fin 16 → State × Bool) (h : ∀ a r, PosFollows n a.1 (f a r).1) :
      ∀ a : State × Bool, PosFollows n a.1 (l.foldl f a).1 := by
    induction l with
    | nil => exact fun a => refl a.1
    | cons r l ih => exact fun a => (h a r).trans (ih _)
  refine hfold _ _ (fun a r => ?_) (s, false)
  dsimp only
  split
  · split
    · exact refl _
    · split
      · split
        · exact refl _
        · exact one (.sets_upd ..)
      · exact csetEnd ..
  · exact refl _

theorem stopCommits (s : State) : PosFollows n s s.stopCommits := by
  have h := csetStop (n := n) s
  unfold State.stopCommits
  rcases hstop : s.csetStop with ⟨u, hit⟩
  rw [hstop] at h
  exact ite ((h.kept (.evt ..)).kept (.note ..)) h

theorem escalate (s : State) (m code : Nat) : PosFollows n s (s.escalate m code) := by
  have hshow : PosFollows n s ((s.note code 4 (2 ^ m) 0).evt SSF.pg
      (if code = 0xB09 then SSF.EVT_SS1_ESC else SSF.EVT_SS1_FAIL)) := (one (.note ..)).kept (.evt ..)
  have hcount (t : State) : PosFollows n t (if t.bitOn SSF.pg SSF.STAT_SS1 m then t
      else (t.put SSF.pg (SSF.MSTAT_STATE.ix m) 3).incSat SSF.pg SSF.CNT_ESCALATED) :=
    ite (refl t) ((one (.put ..)).kept (.incSat ..))
  have hfr4 (t : State) : PosFollows n t (t.applyFr4 m) := by
    have hlatch : PosFollows n t ((t.putBit HLO.pg HLO.STAT_FR4 m true).evt HLO.pg HLO.EVT_FR4) :=
      (one (.putBit ..)).kept (.evt ..)
    exact (hlatch.trans (ite (one (.ss1End ..)) (refl _))).trans (stoAssert ..)
  unfold State.escalate
  dsimp only
  exact (((hshow.trans (hcount _)).kept (.stopSet ..)).trans (hfr4 _)).trans (stopCommits _)

theorem msvFollow (s : State) (m : Nat) : PosFollows n s (s.msvFollow m) :=
  ite (foldl (fun t _ => ite (ite (tpwAsk ..) (refl t)) (tpwAsk ..)) _ s) (refl s)

/-- What the supervisor makes of a unit's new state. -/
theorem msvPosChanged (s : State) (m : Nat) : PosFollows n s (s.msvPosChanged m) := by
  have hhold (t : State) (f : MsvH → MsvH) : PosFollows n t (((t.msvSet m f).msvGo m 5).msvFollow m) :=
    ((one (.msvSet ..)).kept (.msvGo ..)).trans (msvFollow ..)
  have hleave : PosFollows n s (if s.msvSt m = 3 ∨ s.msvSt m = 4 then
        ((((s.put (MSV.pg m) MSV.STAT_HOLD_FROM (s.msvSt m)).incSat (MSV.pg m) MSV.CNT_HOLDS).msvSet m fun h =>
          { h with ret := false, recAt := none, holdSet := false }).msvGo m 5).msvFollow m
      else if s.msvSt m = 5 then (s.msvSet m fun h => { h with holdSet := h.holdSet && !h.ret, ret := false }).msvFollow m
      else s) :=
    ite (((one (.put ..)).kept (.incSat ..)).trans (hhold ..)) (ite ((one (.msvSet ..)).trans (msvFollow ..)) (refl s))
  unfold State.msvPosChanged
  dsimp only
  exact ite (ite ((one (.msvSet ..)).trans (foldl (fun t k => tpwAsk t k 0) _ _)) (refl s))
    (ite (hleave.trans (escalate ..)) hleave)

end PosFollows

/-! ### A new state of the unit -/

theorem Beside.setWord {p : Page} {W : Nat → Prop} {s t : State} (h : Beside p W s t) (q : Page) (x : Fld) (v : W32)
    (hx : q = p → W x.off) : Beside p W s (t.setWord q x v) := by
  refine h.trans ⟨fun a ha hw => ?_⟩
  unfold State.setWord
  split
  next hin =>
    refine t.rd_wr_other _ ?_
    rintro rfl
    rw [pageAt_page hin] at ha
    cases ha
    rw [fldAddr, Nat.add_sub_cancel_left] at hw
    exact hw (hx rfl)
  next => rfl

/-- The words that show the unit's new state. -/
def State.posTurned (s : State) (n : Fin 3) (st : Nat) : State :=
  let t := ((s.put (POS.pg n) POS.ANG_STATE st).flag (POS.pg n) POS.ANG_VALID (st == 2)).flag (POS.pg n) POS.STAT_ENABLED
    (st != 0)
  let t := if st = 2 then t else t.put (POS.pg n) POS.ANG_CONF 0
  if st ≤ 1 then t.setWord (POS.pg n) POS.SPD 0 else t

theorem State.posGo_eq {s : State} {n : Fin 3} {st : Nat} (h : s.posState n ≠ st) :
    s.posGo n st = (s.posTurned n st).msvPosChanged n := if_neg h

theorem State.posTurned_stands (s : State) (n : Fin 3) (st : Nat) : PosStands n s (s.posTurned n st) := by
  have hput {t : State} (h : PosStands n s t) {x : Fld} (v : Nat) (hx : posAside x.off ∨ x.off = POS.ANG.off)
      (hl : x.lo ≤ x.hi + 1) (hh : x.hi < 32) (hd : 30 < x.lo ∨ x.hi < 28) : PosStands n s (t.put (POS.pg n) x v) :=
    h.trans ⟨.put (.refl t) _ _ _ fun _ => hx, t.get_put_bits _ hl hh hd, .inl (t.posH_put ..), t.put_now ..⟩
  have hspd {t : State} (h : PosStands n s t) : PosStands n s (t.setWord (POS.pg n) POS.SPD 0) :=
    h.trans ⟨.setWord (.refl t) _ _ _ fun _ => .inl (by decide),
      State.get_eq_of_rd (t.rd_setWord_other _ (fldAddr_ne_of_off (by decide))) rfl, .inl (t.posH_setWord ..),
      t.setWord_now ..⟩
  have hshow : PosStands n s (((s.put (POS.pg n) POS.ANG_STATE st).put (POS.pg n) POS.ANG_VALID (b2n (st == 2))).put (POS.pg n)
      POS.STAT_ENABLED (b2n (st != 0))) :=
    hput (hput (hput (.refl s) _ (by decide) (by decide) (by decide) (by decide)) _ (by decide) (by decide) (by decide)
      (by decide)) _ (by decide) (by decide) (by decide) (by decide)
  have hconf := PosStands.ite (c := st = 2) hshow
    (hput hshow (x := POS.ANG_CONF) 0 (by decide) (by decide) (by decide) (by decide))
  exact .ite (hspd hconf) hconf

theorem State.posTurned_state (s : State) (n : Fin 3) {st : Nat} (hst : st < 16) : (s.posTurned n st).posState n = st := by
  have hfield (t : State) {x : Fld} (v : Nat) (hl : x.lo ≤ x.hi + 1) (hh : x.hi < 32) (hd : 27 < x.lo ∨ x.hi < 24) :
      (t.put (POS.pg n) x v).posState n = t.posState n := t.get_put_bits v hl hh hd
  have hspd (t : State) (v : W32) : (t.setWord (POS.pg n) POS.SPD v).posState n = t.posState n :=
    State.get_eq_of_rd (t.rd_setWord_other v (fldAddr_ne_of_off (by decide))) rfl
  have hstate : (s.put (POS.pg n) POS.ANG_STATE st).posState n = st :=
    (s.get_put_same st (inPage_pos n (by decide)) (by decide) (by decide)).trans (Nat.mod_eq_of_lt hst)
  unfold State.posTurned State.flag
  dsimp only
  split_ifs <;> simp (disch := decide) only [hspd, hfield, hstate]

/-- A unit that takes a new state stands beside its words for it. -/
theorem PosStands.posGo (s : State) (n : Fin 3) (st : Nat) : PosStands n s (s.posGo n st) := by
  by_cases h : s.posState n = st
  · rw [State.posGo, if_pos h]
    exact .refl s
  · rw [State.posGo_eq h]
    exact (s.posTurned_stands n st).trans (PosFollows.msvPosChanged ..).toPosStands

/-- A unit has the state that it takes, but that it may pass from LOST to REACQ at once. -/
theorem State.posState_posGo (s : State) (n : Fin 3) {st : Nat} (hst : st < 16) :
    (s.posGo n st).posState n = st ∨ posAway st ∧ posAway ((s.posGo n st).posState n) := by
  by_cases h : s.posState n = st
  · rw [State.posGo, if_pos h]
    exact .inl h
  · rw [State.posGo_eq h]
    have hstate := (PosFollows.msvPosChanged (n := n) (s.posTurned n st) n).state
    rwa [State.posTurned_state s n hst] at hstate

/-- Off LOST and REACQ the unit has the state that it takes. -/
theorem State.posState_posGo_same (s : State) (n : Fin 3) {st : Nat} (hst : st < 16) (h : ¬posAway st) :
    (s.posGo n st).posState n = st := (s.posState_posGo n hst).resolve_right fun ha => h ha.1

end Sys2Proof.Machine
end

section
/-! SUPPORT. O35: the update of the fused estimate, the decision on a sweep, the failure of a re-acquisition, and the commands
of a position unit (R213, R218 to R226). -/

namespace Sys2Proof.Machine
open Sys2Proof

/-! ### Reads of a unit's page after writes of it -/

theorem State.get_put_pos (s : State) (n : Fin 3) {x y : Fld} (v : Nat) (h : y.off ≠ x.off) :
    (s.put (POS.pg n) x v).get (POS.pg n) y = s.get (POS.pg n) y := s.get_put_word v (fldAddr_ne_of_off h)

theorem State.get_put_pos_same (s : State) (n : Fin 3) {x : Fld} (v : Nat) (hp : x.off < 0x1000) (hl : x.lo ≤ x.hi + 1)
    (hh : x.hi < 32) : (s.put (POS.pg n) x v).get (POS.pg n) x = v % 2 ^ (x.hi + 1 - x.lo) :=
  s.get_put_same v (inPage_pos n hp) hl hh

theorem State.get_setWord_pos (s : State) (n : Fin 3) {x y : Fld} (v : W32) (h : y.off ≠ x.off) :
    (s.setWord (POS.pg n) x v).get (POS.pg n) y = s.get (POS.pg n) y :=
  State.get_eq_of_rd (s.rd_setWord_other v (fldAddr_ne_of_off h)) rfl

theorem State.get_incSat_pos (s : State) (n : Fin 3) {x y : Fld} (h : y.off ≠ x.off) :
    (s.incSat (POS.pg n) x).get (POS.pg n) y = s.get (POS.pg n) y := s.get_incSat_word (fldAddr_ne_of_off h)

theorem State.get_evt_pos (s : State) (n : Fin 3) {x y : Fld} (h : y.off ≠ 0x010) (hp : y.off < 0x1000) :
    (s.evt (POS.pg n) x).get (POS.pg n) y = s.get (POS.pg n) y :=
  s.get_evt_word (inPage_pos n hp) (by simp) (fldAddr_ne_of_off h)

theorem State.get_evtIf_pos (s : State) (n : Fin 3) (c : Bool) {x y : Fld} (h : y.off ≠ 0x010) (hp : y.off < 0x1000) :
    (s.evtIf c (POS.pg n) x).get (POS.pg n) y = s.get (POS.pg n) y := by
  unfold State.evtIf
  split
  · exact s.get_evt_pos n h hp
  · rfl

/-! ### The values of an update (R218, R220, R223) -/

/-- The confidence of an update takes at most a free value. -/
theorem State.posConf_keeps (s : State) (n : Fin 3) (sel : Nat) (d : Option F32) :
    (s.posConf n sel d).2.regs = s.regs ∧ (s.posConf n sel d).2.pos = s.pos := by
  unfold State.posConf
  dsimp only
  repeat' split
  all_goals exact ⟨rfl, rfl⟩

/-- The unit shows source `sel`, in the state that it has. -/
theorem State.posTake_spec (s : State) (n : Fin 3) {sel : Nat} (hsel : sel < 7) (th w : F32) :
    (s.posTake n sel th w).posState n = s.posState n ∧ (s.posTake n sel th w).get (POS.pg n) POS.ANG_SRC = sel + 1 := by
  have hcount (c : Prop) [Decidable c] : (if c then s.incSat (POS.pg n) POS.CNT_SWITCH else s).posState n = s.posState n := by
    split
    · exact s.get_incSat_pos n (by decide)
    · rfl
  unfold State.posTake
  dsimp only
  constructor
  · rw [State.posState, State.get_setWord_pos _ n _ (by decide),
      State.get_put_bits _ _ (by decide) (by decide) (by decide),
      State.get_put_bits _ _ (by decide) (by decide) (by decide), State.get_posSet,
      State.get_evtIf_pos _ n _ (by decide) (by decide)]
    exact hcount _
  · rw [State.get_setWord_pos _ n _ (by decide), State.get_put_bits _ _ (by decide) (by decide) (by decide),
      State.get_put_pos_same _ n _ (by decide) (by decide) (by decide)]
    exact Nat.mod_eq_of_lt (show sel + 1 < 8 by omega)

/-- An update that tracks source `sel`. -/
theorem State.posTrackUpd_spec (s : State) (n : Fin 3) {sel : Nat} (hsel : sel < 7) (d : Option F32) :
    (s.posTrackUpd n sel d).posState n = s.posState n ∧ (s.posTrackUpd n sel d).get (POS.pg n) POS.ANG_SRC = sel + 1 := by
  obtain ⟨hstate, hsrc⟩ := s.posTake_spec n hsel (s.posEstimate n sel).1 (s.posEstimate n sel).2
  have hget (x : Fld) (hx : x.hi < 16 ∨ 23 < x.lo) : (s.posTrackUpd n sel d).get (POS.pg n) x =
      (s.posTake n sel (s.posEstimate n sel).1 (s.posEstimate n sel).2).get (POS.pg n) x :=
    (State.get_put_bits _ _ (by decide) (by decide) hx).trans (State.get_of_regs (State.posConf_keeps ..).1 _ _)
  exact ⟨(hget _ (by decide)).trans hstate, (hget _ (by decide)).trans hsrc⟩

/-- An extrapolation writes angle and speed alone. -/
theorem State.posExtrapolate_spec (s : State) (n : Fin 3) :
    (s.posExtrapolate n).rd (fldAddr (POS.pg n) POS.SPD) = s.posExt n ∧ ((s.posExtrapolate n).posH n).updAt = s.now ∧
      ∀ x : Fld, x.off ≠ POS.SPD.off → 15 < x.lo ∨ x.off ≠ POS.ANG.off →
        (s.posExtrapolate n).get (POS.pg n) x = s.get (POS.pg n) x := by
  unfold State.posExtrapolate
  dsimp only
  refine ⟨State.rd_setWord_same _ _ (inPage_pos n (by decide)), by simp, fun x hspd hx => ?_⟩
  rw [State.get_setWord_pos _ n _ hspd]
  rcases hx with hx | hx
  · exact State.get_put_bits _ _ (by decide) (by decide) (.inr hx)
  · exact State.get_put_pos _ n _ hx

/-! ### The comparison and the loss (R219, R222, R223) -/

/-- The entry to LOST: no source is shown, the event is raised, and the unit is away. -/
theorem State.posLoss_spec (s : State) (n : Fin 3) : posAway ((s.posLoss n).posState n) ∧
    (s.posLoss n).get (POS.pg n) POS.ANG_SRC = 0 ∧ (s.posLoss n).on (POS.pg n) POS.EVT_ANGLE_LOST = true := by
  set u := ((((s.posSet n fun h => { h with
      lossAt := s.now, w0 := h.w, sweep := none, disN := 0, held := s.get (POS.pg n) POS.SRCSTAT_VALID }).put (POS.pg n)
    POS.REACQST_ATTEMPTS 0).put (POS.pg n) POS.ANG_SRC 0).incSat (POS.pg n) POS.CNT_LOSS) with hu
  have hloss : s.posLoss n = (u.posGo n 3).posNote n 0x50A POS.EVT_ANGLE_LOST := rfl
  have hsrc : u.get (POS.pg n) POS.ANG_SRC = 0 :=
    (State.get_incSat_pos _ n (by decide)).trans (State.get_put_pos_same _ n 0 (by decide) (by decide) (by decide))
  rw [hloss]
  refine ⟨?_, ?_, State.on_posNote _ n _ (by decide) (by decide) (by decide)⟩
  · rw [State.posState, State.get_posNote_word _ n _ _ (by decide) (by decide)]
    exact (u.posState_posGo n (by decide)).elim .inl And.right
  · rw [State.get_posNote_word _ n _ _ (by decide) (by decide), (PosStands.posGo u n 3).src, hsrc]

/-- With one valid source there is nothing to compare: it is tracked. -/
theorem State.posTrackStep_one {s : State} {n : Fin 3} {a : Nat} (h : s.posOrder n = [a]) :
    s.posTrackStep n = (s.posSet n fun h => { h with disN := 0 }).posTrackUpd n a none := by
  simp [State.posTrackStep, State.posCompare, h]

/-- Without a valid source the angle is lost. -/
theorem State.posTrackStep_none {s : State} {n : Fin 3} (h : s.posOrder n = []) :
    s.posTrackStep n = (s.posLoss n).posExtrapolate n := by
  simp [State.posTrackStep, State.posCompare, h]

theorem State.lt_of_mem_posOrder {s : State} {n : Fin 3} {a : Nat} (h : a ∈ s.posOrder n) : a < 4 := by
  obtain ⟨c, -, hc⟩ := List.mem_filterMap.mp h
  split at hc
  next hcond => cases hc; omega
  next => cases hc

/-! ### The update (R218 to R223) -/

/-- The registers of the source angles leave the words below them. -/
theorem State.rd_posShow (s : State) (n : Fin 3) {x : Fld} (hx : x.off < 0x0AC) :
    (s.posShow n).rd (fldAddr (POS.pg n) x) = s.rd (fldAddr (POS.pg n) x) := by
  have hne (y : Fld) (hy : 0x0AC ≤ y.off) : fldAddr (POS.pg n) x ≠ fldAddr (POS.pg n) y := fldAddr_ne_of_off (by omega)
  unfold State.posShow
  dsimp only
  rw [State.rd_put64_word _ _ (hne _ (by decide)) (hne _ (by decide)), State.rd_put_word _ _ (hne _ (by decide)),
    State.rd_put_word _ _ (hne _ (by decide)), State.rd_put_word _ _ (hne _ (by decide)),
    State.rd_put_word _ _ (hne _ (by decide))]

/-- The unit before the step of its update: the source angles are shown, the update is counted, and the patterns are
followed. -/
def State.posShown (s : State) (n : Fin 3) : State :=
  ((s.posShow n).posSet n fun h => { h with reacqN := h.reacqN.map fun k => k + 1 }).posFollow n

/-- What that leaves for the step. -/
structure PosShown (n : Fin 3) (s t : State) : Prop where
  order : t.posOrder n = s.posOrder n
  again : t.posAgain n = s.posAgain n
  ext : t.posExt n = s.posExt n
  now : t.now = s.now
  state : t.posState n = s.posState n ∨ posAway (s.posState n) ∧ posAway (t.posState n)

theorem State.posShown_spec (s : State) (n : Fin 3) : PosShown n s (s.posShown n) := by
  set u := (s.posShow n).posSet n fun h => { h with reacqN := h.reacqN.map fun k => k + 1 } with hu
  have hpos : (s.posShow n).pos = s.pos := (Kept.posShow s n).within .pos (by simp)
  have hnow : u.now = s.now := (Kept.posShow s n).within .now (by simp)
  have hH : u.posH n = { s.posH n with reacqN := (s.posH n).reacqN.map fun k => k + 1 } := by
    rw [hu, State.posH_posSet, State.posH_of_pos hpos]
  have hf : PosFollows n u (s.posShown n) := .posFollow ..
  have hheld : ((s.posShown n).posH n).held = (s.posH n).held ∧ ((s.posShown n).posH n).w0 = (s.posH n).w0 ∧
      ((s.posShown n).posH n).lossAt = (s.posH n).lossAt := by
    rcases hf.hidden with h | h <;> simp [h, hH]
  obtain ⟨hheld, hw0, hloss⟩ := hheld
  have hrd {x : Fld} (hx : x.off < 0x0AC := by decide) (hstand : ¬(posAside x.off ∨ x.off = POS.ANG.off) := by decide) :
      (s.posShown n).rd (fldAddr (POS.pg n) x) = s.rd (fldAddr (POS.pg n) x) :=
    (hf.rd (by omega) hstand).trans (s.rd_posShow n hx)
  have horder := State.posOrder_of_rd (n := n) hrd hrd
  have hst : u.posState n = s.posState n := State.get_eq_of_rd (s.rd_posShow n (x := POS.ANG) (by decide)) rfl
  refine ⟨horder, ?_, ?_, hf.now.trans hnow, hst ▸ hf.state⟩
  · rw [State.posAgain, State.posAgain, horder, hheld]
  · rw [State.posExt, State.posExt, hrd, hw0, hloss, hf.now, hnow]

/-- A unit that seeks and has a valid source takes its step in TRACK (R218, R222). -/
theorem State.posFuse_seek {s : State} {n : Fin 3} (h : (s.posShown n).posState n = 1)
    (hsome : (s.posShown n).posOrder n ≠ []) : s.posFuse n = ((s.posShown n).posGo n 2).posTrackStep n := by
  unfold State.posShown at h hsome ⊢
  simp only [State.posFuse, h, hsome, if_false]

theorem State.posFuse_track {s : State} {n : Fin 3} (h : (s.posShown n).posState n = 2) :
    s.posFuse n = (s.posShown n).posTrackStep n := by
  unfold State.posShown at h ⊢
  simp only [State.posFuse, h]

/-- A unit that is away and has no source again, or has failed, is extrapolated (R222, R223). -/
theorem State.posFuse_lost {s : State} {n : Fin 3} (h : posAway ((s.posShown n).posState n) ∨ (s.posShown n).posState n = 5)
    (hno : (s.posShown n).posAgain n = none) : s.posFuse n = (s.posShown n).posExtrapolate n := by
  unfold State.posShown at h hno ⊢
  rcases h with (h | h) | h <;> simp [State.posFuse, h, hno]

@[simp] theorem State.posOrder_advance (s : State) (dt : Nat) (n : Fin 3) : (s.advance dt).posOrder n = s.posOrder n :=
  State.posOrder_of_rd (s.rd_advance ..) (s.rd_advance ..)

@[simp] theorem State.posAgain_advance (s : State) (dt : Nat) (n : Fin 3) : (s.advance dt).posAgain n = s.posAgain n := by
  simp [State.posAgain]

section Update

variable {dt : Nat} {n : Fin 3} {s : State} (hon : s.dev.off = false) (hdue : (s.now + dt) % 80 = 0)

include hon hdue

theorem exec_fusionUpdate (h : s.posState n ≠ 0) : exec (.fusionUpdate dt n) s = .next ((s.advance dt).posFuse n) := by
  change execFusionUpdate dt n s = _
  unfold execFusionUpdate
  dsimp only
  rw [if_pos ⟨by rw [State.now_advance_of_on hon, hdue], by simpa using h⟩]

/-- A unit that seeks tracks its only valid source (R218, R222). -/
theorem fusionUpdate_acquires {a : Nat} (hst : s.posState n = 1) (horder : s.posOrder n = [a]) :
    ∃ t, exec (.fusionUpdate dt n) s = .next t ∧ t.posState n = 2 ∧ t.get (POS.pg n) POS.ANG_SRC = a + 1 := by
  have hshown := (s.advance dt).posShown_spec n
  have hseek : ((s.advance dt).posShown n).posState n = 1 := by
    simpa [posAway, hst] using hshown.state
  have hone : ((s.advance dt).posShown n).posOrder n = [a] := by rw [hshown.order, State.posOrder_advance, horder]
  have hgo : (((s.advance dt).posShown n).posGo n 2).posOrder n = [a] := (PosStands.posGo _ n 2).posOrder.trans hone
  have htrack : (((s.advance dt).posShown n).posGo n 2).posState n = 2 :=
    State.posState_posGo_same _ n (by decide) (by decide)
  have ha : a < 4 := State.lt_of_mem_posOrder (horder ▸ List.mem_singleton_self a)
  refine ⟨_, exec_fusionUpdate hon hdue (by omega), ?_⟩
  rw [State.posFuse_seek hseek (by simp [hone]), State.posTrackStep_one hgo]
  obtain ⟨hstate, hsrc⟩ := State.posTrackUpd_spec
    ((((s.advance dt).posShown n).posGo n 2).posSet n fun h => { h with disN := 0 }) n (by omega : a < 7) none
  exact ⟨hstate.trans htrack, hsrc⟩

/-- A unit that tracks without a valid source loses its angle (R222, R223). -/
theorem fusionUpdate_loses (hst : s.posState n = 2) (hnone : s.posOrder n = []) :
    ∃ t, exec (.fusionUpdate dt n) s = .next t ∧ (t.posState n = 3 ∨ t.posState n = 4) ∧
      t.get (POS.pg n) POS.ANG_SRC = 0 ∧ t.on (POS.pg n) POS.EVT_ANGLE_LOST = true := by
  have hshown := (s.advance dt).posShown_spec n
  have htrack : ((s.advance dt).posShown n).posState n = 2 := by
    simpa [posAway, hst] using hshown.state
  have horder : ((s.advance dt).posShown n).posOrder n = [] := by rw [hshown.order, State.posOrder_advance, hnone]
  obtain ⟨haway, hsrc, hevt⟩ := ((s.advance dt).posShown n).posLoss_spec n
  obtain ⟨-, -, hget⟩ := (((s.advance dt).posShown n).posLoss n).posExtrapolate_spec n
  refine ⟨_, exec_fusionUpdate hon hdue (by omega), ?_⟩
  rw [State.posFuse_track htrack, State.posTrackStep_none horder, State.posState, hget _ (by decide) (by decide),
    hget _ (by decide) (by decide), State.on, hget _ (by decide) (by decide)]
  exact ⟨haway, hsrc, hevt⟩

/-- A lost angle is extrapolated (R223). -/
theorem fusionUpdate_extrapolates (hlo : 3 ≤ s.posState n) (hhi : s.posState n ≤ 5) (hno : s.posAgain n = none) :
    ∃ t, exec (.fusionUpdate dt n) s = .next t ∧ t.rd (fldAddr (POS.pg n) POS.SPD) = (s.advance dt).posExt n ∧
      (t.posH n).updAt = s.now + dt := by
  have hshown := (s.advance dt).posShown_spec n
  have hagain : ((s.advance dt).posShown n).posAgain n = none := by rw [hshown.again, State.posAgain_advance, hno]
  have hlost : posAway (((s.advance dt).posShown n).posState n) ∨ ((s.advance dt).posShown n).posState n = 5 := by
    have hstate := hshown.state
    rw [State.posState_advance] at hstate
    unfold posAway at hstate ⊢
    omega
  obtain ⟨hspd, hupd, -⟩ := ((s.advance dt).posShown n).posExtrapolate_spec n
  refine ⟨_, exec_fusionUpdate hon hdue (by omega), ?_⟩
  rw [State.posFuse_lost hlost hagain]
  exact ⟨hspd.trans hshown.ext, hupd.trans (hshown.now.trans (State.now_advance_of_on hon dt))⟩

end Update

/-! ### The decision on a sweep, and its failure (R222, R225, R226) -/

/-- The unit shows a sweep's angle and speed, with the observer as its source (R225). -/
def State.reacqShown (s : State) (n : Fin 3) (th w : F32) : State :=
  let t := (s.posSet n fun h => { h with
    sweep := none, reacqN := some 0, obsAt := some s.now, obsLoss := 0, obsLost := false, th := ffrac th, w := w,
    updAt := s.now }).posMark n 3 true
  let t := ((t.put (POS.pg n) POS.ANG_SRC 5).put (POS.pg n) POS.ANG_ANGLE (angleCode th)).setWord (POS.pg n) POS.SPD w
  ((t.incSat (POS.pg n) POS.CNT_REACQ_OK).evt (POS.pg n) POS.EVT_REACQ_DONE).evt (POS.pg n) POS.EVT_SWITCH

theorem State.reacqShown_spec (s : State) (n : Fin 3) (th w : F32) : ((s.reacqShown n th w).posH n).sweep = none ∧
    (s.reacqShown n th w).get (POS.pg n) POS.ANG_SRC = 5 := by
  unfold State.reacqShown
  refine ⟨by simp, ?_⟩
  rw [State.get_evt_pos _ n (by decide) (by decide), State.get_evt_pos _ n (by decide) (by decide),
    State.get_incSat_pos _ n (by decide), State.get_setWord_pos _ n _ (by decide),
    State.get_put_bits _ _ (by decide) (by decide) (by decide),
    State.get_put_pos_same _ n _ (by decide) (by decide) (by decide)]
  rfl

/-- It then tracks with a confidence of its own. -/
def State.reacqTaken (s : State) (n : Fin 3) (th w : F32) : State :=
  let c := ((s.reacqShown n th w).posGo n 2).posConf n 3 none
  c.2.put (POS.pg n) POS.ANG_CONF c.1

theorem State.reacqTaken_spec (s : State) (n : Fin 3) (th w : F32) : ((s.reacqTaken n th w).posH n).sweep = none ∧
    (s.reacqTaken n th w).posState n = 2 ∧ (s.reacqTaken n th w).get (POS.pg n) POS.ANG_SRC = 5 := by
  obtain ⟨hnone, hsrc⟩ := s.reacqShown_spec n th w
  set u := s.reacqShown n th w
  obtain ⟨hregs, hpos⟩ := State.posConf_keeps (u.posGo n 2) n 3 none
  have hgo := PosStands.posGo u n 2
  have hget {x : Fld} (hx : x.hi < 16 ∨ 23 < x.lo) :
      (s.reacqTaken n th w).get (POS.pg n) x = (u.posGo n 2).get (POS.pg n) x :=
    (State.get_put_bits _ _ (by decide) (by decide) hx).trans (State.get_of_regs hregs _ _)
  refine ⟨?_, (hget (by decide)).trans (u.posState_posGo_same n (by decide) (by decide)),
    (hget (by decide)).trans (hgo.src.trans hsrc)⟩
  have hhid : (s.reacqTaken n th w).posH n = (u.posGo n 2).posH n := (State.posH_put ..).trans (State.posH_of_pos hpos n)
  rcases hgo.hidden with h | h <;> rw [hhid, h]
  exact hnone

/-- A decision in its time takes the sweep's values, or costs an attempt. -/
theorem exec_reacqDecision {dt : Nat} {n : Fin 3} {s : State} {b : Sweep} {r : Nat} (hon : s.dev.off = false)
    (hst : s.posState n = 4) (hsweep : (s.posH n).sweep = some b) (heval : b.evalAt = some r)
    (hdue : s.now + dt ≤ r + 2000) : ∃ (resid uniq : Nat) (ok : Bool) (v : Vectors) (th w : F32),
      exec (.reacqDecision dt n) s = .next (if ok = true then
        ((((s.advance dt).put (POS.pg n) POS.REACQST_RESID resid).put (POS.pg n) POS.REACQST_UNIQ_MEAS uniq).obsSeed n v th
          w).reacqTaken n th w
      else ((((s.advance dt).put (POS.pg n) POS.REACQST_RESID resid).put (POS.pg n) POS.REACQST_UNIQ_MEAS uniq).posSet n
        fun h => { h with sweep := none }).incSat (POS.pg n) POS.REACQST_ATTEMPTS) := by
  have hrun : ¬((s.advance dt).posState n ≠ 4 ∨ r + 2000 < (s.advance dt).now) := by
    rw [State.posState_advance, State.now_advance_of_on hon]
    omega
  change ∃ (resid uniq : Nat) (ok : Bool) (v : Vectors) (th w : F32), execReacqDecision dt n s = .next _
  unfold execReacqDecision
  dsimp only
  rw [State.posH_advance, hsweep]
  dsimp only
  rw [heval]
  dsimp only
  rw [if_neg hrun, ← apply_ite Host.Outcome.next]
  exact ⟨_, _, _, _, _, _, rfl⟩

theorem reacqDecision_decides {dt : Nat} {n : Fin 3} {s : State} {b : Sweep} {r : Nat} (hon : s.dev.off = false)
    (hst : s.posState n = 4) (hsweep : (s.posH n).sweep = some b) (heval : b.evalAt = some r)
    (hdue : s.now + dt ≤ r + 2000) : ∃ t, exec (.reacqDecision dt n) s = .next t ∧ (t.posH n).sweep = none ∧
      (t.posState n = 2 ∧ t.get (POS.pg n) POS.ANG_SRC = 5 ∨ t.posState n = 4) := by
  obtain ⟨resid, uniq, ok, v, th, w, hexec⟩ := exec_reacqDecision hon hst hsweep heval hdue
  refine ⟨_, hexec, ?_⟩
  split
  · obtain ⟨hnone, htrack, hsrc⟩ := State.reacqTaken_spec ((((s.advance dt).put (POS.pg n) POS.REACQST_RESID resid).put
      (POS.pg n) POS.REACQST_UNIQ_MEAS uniq).obsSeed n v th w) n th w
    exact ⟨hnone, .inl ⟨htrack, hsrc⟩⟩
  · refine ⟨by simp, .inr ?_⟩
    rw [State.posState, State.get_incSat_pos _ n (by decide), State.get_posSet, State.get_put_pos _ n _ (by decide),
      State.get_put_pos _ n _ (by decide), State.get_advance]
    exact hst

/-- Too long after the loss the re-acquisition has failed, with a fault of reaction FR4 (R222, R226). -/
theorem reacqFail_fails {dt : Nat} {n : Fin 3} {s : State} (hon : s.dev.off = false)
    (hst : s.posState n = 3 ∨ s.posState n = 4) (hdue : (s.posH n).lossAt + 8000000 ≤ s.now + dt) :
    exec (.reacqFail dt n) s = .next ((((((s.advance dt).posSet n fun h => { h with sweep := none }).incSat (POS.pg n)
      POS.CNT_REACQ_FAIL).posGo n 5).evt (POS.pg n) POS.EVT_REACQ_FAIL).raise 0x50B 4 (2 ^ n.1)) := by
  change execReacqFail dt n s = _
  unfold execReacqFail
  dsimp only
  rw [if_pos ⟨by simpa using hst, by simpa [State.now_advance_of_on hon] using hdue⟩]

/-! ### The commands (R213, R222, R229) -/

/-- Outside SAFE_HOLD a command of the unit is carried out (R18). -/
theorem State.posOp_of_awake {s : State} (h : s.dstate ≠ .safeHold) (dt : Nat) (n : Fin 3) (op : Nat) :
    (s.advance dt).posOp n op = (s.advance dt).posCmd n op := if_neg (by simpa using h)

theorem State.get_posStatus (s : State) (n : Fin 3) (st : Status) :
    (s.status (POS.pg n) POS.CMD_LAST_STS st).get (POS.pg n) POS.CMD_LAST_STS = st.code :=
  s.get_status st (inPage_pos n (by decide)) (by decide) (by decide) (by decide)

section Commands

variable {dt : Nat} {req : Req} {n : Fin 3} {s : State} (h : s.dstate ≠ .safeHold)

include h

theorem posRestart_seeks (hst : s.posState n = 5) (hsto : s.stoEff n = true) :
    ∃ t, exec (.posRestart dt req n) s = .next t ∧ t.posState n = 1 ∧ t.get (POS.pg n) POS.SRCSTAT_FAILED = 0 ∧
      t.get (POS.pg n) POS.CMD_LAST_STS = Status.done.code := by
  set u := ((s.advance dt).put (POS.pg n) POS.SRCSTAT_FAILED 0).put (POS.pg n) POS.ANG_SRC 0 with hu
  have hcmd : (s.advance dt).posCmd n 1 = (u.posGo n 1).status (POS.pg n) POS.CMD_LAST_STS .done :=
    if_pos (by simp [hst, State.stoEff, show (s.get STO.pg STO.STAT_EFF).testBit n = true from hsto])
  refine ⟨_, congrArg Host.Outcome.next ((State.posOp_of_awake h dt n 1).trans hcmd), ?_, ?_, State.get_posStatus ..⟩
  · exact (State.get_put_pos _ n _ (by decide)).trans (u.posState_posGo_same n (by decide) (by decide))
  · refine (State.get_put_pos _ n _ (by decide)).trans ((State.get_eq_of_rd (PosStands.posGo u n 1).rd rfl).trans ?_)
    exact (State.get_put_pos _ n _ (by decide)).trans (State.get_put_pos_same _ n 0 (by decide) (by decide) (by decide))

theorem posRestart_refused (hno : s.posState n ≠ 5 ∨ s.stoEff n = false) :
    exec (.posRestart dt req n) s = .next ((s.advance dt).status (POS.pg n) POS.CMD_LAST_STS .illegalState) := by
  refine congrArg Host.Outcome.next ((State.posOp_of_awake h dt n 1).trans (if_neg ?_))
  have hsto : (s.advance dt).stoEff n = s.stoEff n := congrArg (·.testBit n) (s.get_advance ..)
  rw [State.posState_advance, hsto]
  rcases hno with hno | hno <;> simp [hno]

theorem posSeedEnc_seeds (hsrc : s.posOn n 1 = true) (hconf : 200 ≤ s.get (POS.pg n) POS.ANG_CONF) :
    ∃ t, exec (.posSeedEnc dt req n) s = .next t ∧ (t.posH n).encCount = 0 ∧
      t.get (POS.pg n) POS.CMD_LAST_STS = Status.done.code := by
  refine ⟨_, congrArg Host.Outcome.next ((State.posOp_of_awake h dt n 2).trans (if_pos (by simp [hsrc, hconf]))), ?_,
    State.get_posStatus ..⟩
  rw [State.posH_of_pos ((Kept.status ..).within .pos (by simp)), State.posH_posMark, State.posH_posSet]

theorem posClrCnt_clears : ∃ t, exec (.posClrCnt dt req n) s = .next t ∧ t.rd (fldAddr (POS.pg n) POS.CNT) = 0 ∧
    t.get (POS.pg n) POS.CMD_LAST_STS = Status.done.code := by
  have hcmd : (s.advance dt).posCmd n 3 = ((s.advance dt).setWord (POS.pg n) POS.CNT 0).status (POS.pg n)
    POS.CMD_LAST_STS .done := rfl
  refine ⟨_, congrArg Host.Outcome.next ((State.posOp_of_awake h dt n 3).trans hcmd), ?_, State.get_posStatus ..⟩
  exact (State.rd_put_word _ _ (fldAddr_ne_of_off (by decide))).trans (State.rd_setWord_same _ _ (inPage_pos n (by decide)))

end Commands

/-- Settles O35: the updates by what the patterns leave of a unit before its step, the decision by the two states that it can
lead to, the failed re-acquisition as the model states it, and the commands by the lemmas above. -/
theorem fusionReacquisitionAndPositionCommands : Obligations.FusionReacquisitionAndPositionCommands := fun _ _ _ _ hon =>
  ⟨fun _ hdue => fusionUpdate_acquires hon hdue, fun hdue => fusionUpdate_loses hon hdue,
    fun hdue => fusionUpdate_extrapolates hon hdue, fun _ _ => reacqDecision_decides hon, reacqFail_fails hon,
    fun h => ⟨posRestart_seeks h, posRestart_refused h, posSeedEnc_seeds h, posClrCnt_clears h⟩⟩

end Sys2Proof.Machine
end

section
/-! SUPPORT. The page and the hidden state of a machine supervisor: reads after writes, after the status of a command, and after
the supervisor takes a state (R47, R60, R230, R249). -/

namespace Sys2Proof.Machine
open Sys2Proof

/-! ### The status of a command (R47, R60) -/

/-- A status leaves every word but that of its field and the error counts of the page. -/
theorem State.rd_status_word (s : State) {p : Page} {x : Fld} {a : Nat} (st : Status) (hx : a ≠ fldAddr p x)
    (he : a ≠ fldAddr p HDR.ERRCNT) : (s.status p x st).rd a = s.rd a := by
  have hput : (s.put p x st.code).rd a = s.rd a := s.rd_put_word _ hx
  have hcount : ((s.put p x st.code).countCmd p).rd a = s.rd a :=
    (State.rd_incSat_word (x := HDR.ERRCNT_CMD) _ he).trans hput
  cases st with
  | none | done => exact hput
  | illegalState | notReady | denied | unknown => exact hcount

theorem State.get_status_word (s : State) {p : Page} {x y : Fld} (st : Status) (hx : y.off ≠ x.off) (he : y.off ≠ 0x02C) :
    (s.status p x st).get p y = s.get p y :=
  State.get_eq_of_rd (s.rd_status_word st (fldAddr_ne_of_off hx) (fldAddr_ne_of_off he)) rfl

/-- A rejected command is counted (R47). -/
theorem State.get_status_illegalState_count (s : State) {p : Page} {x : Fld} (hp : inPage p HDR.ERRCNT = true)
    (hx : x.off ≠ 0x02C) :
    (s.status p x .illegalState).get p HDR.ERRCNT_CMD = min 255 (s.get p HDR.ERRCNT_CMD + 1) := by
  have hput : (s.put p x Status.illegalState.code).get p HDR.ERRCNT_CMD = s.get p HDR.ERRCNT_CMD :=
    s.get_put_word _ (fldAddr_ne_of_off hx.symm)
  rw [← hput]
  exact State.get_incSat_same _ (inPage_of_off hp rfl) (by decide) (by decide)

/-- Outside SAFE_HOLD a command of a block is carried out (R18). -/
theorem State.blockCmd_of_awake {s : State} (h : s.dstate ≠ .safeHold) (dt : Nat) (p : Page) (x : Fld) (f : State → State) :
    (s.advance dt).blockCmd p x f = f (s.advance dt) := if_neg (by simpa using h)

/-- In SAFE_HOLD no command of a block is accepted (R18). -/
theorem State.blockCmd_of_safeHold {s : State} (h : s.dstate = .safeHold) (dt : Nat) (p : Page) (x : Fld)
    (f : State → State) : (s.advance dt).blockCmd p x f = (s.advance dt).status p x .illegalState :=
  if_pos (by simpa using h)

/-- A command whose condition holds has its effect and ends DONE (R60). -/
theorem State.command_done (s : State) (p : Page) (x : Fld) {ok : Bool} (h : ok = true) (f : State → State) :
    s.command p x ok f = (f s).status p x .done := if_pos h

/-- A command whose condition fails ends ILLEGAL_STATE (R60). -/
theorem State.command_illegalState (s : State) (p : Page) (x : Fld) {ok : Bool} (h : ok = false) (f : State → State) :
    s.command p x ok f = s.status p x .illegalState := if_neg (by simp [h])

/-! ### The page -/

theorem inPage_supervisor (m : Fin 3) {x : Fld} (hx : x.off < 0x1000) : inPage (MSV.pg m) x = true :=
  inPage_of_hasHeader (decide_eq_true m.isLt) rfl hx

theorem State.get_msvStatus (s : State) (m : Fin 3) (st : Status) :
    (s.status (MSV.pg m) MSV.CMD_LAST_STS st).get (MSV.pg m) MSV.CMD_LAST_STS = st.code :=
  s.get_status st (inPage_supervisor m (by decide)) (by decide) (by decide) (by decide)

@[simp] theorem State.msvSt_advance (s : State) (dt m : Nat) : (s.advance dt).msvSt m = s.msvSt m := s.get_advance ..

@[simp] theorem State.msvK_advance (s : State) (dt m j : Nat) : (s.advance dt).msvK m j = s.msvK m j := s.rd_advance ..

@[simp] theorem State.posTrack_advance (s : State) (dt m : Nat) : (s.advance dt).posTrack m = s.posTrack m :=
  congrArg (· == 2) (s.get_advance ..)

@[simp] theorem State.msvStandstill_advance (s : State) (dt m : Nat) :
    (s.advance dt).msvStandstill m = s.msvStandstill m := by simp [State.msvStandstill, State.posSpeed]

/-! ### The hidden state -/

@[simp] theorem State.msvH_msvSet (s : State) (m : Fin 3) (f : MsvH → MsvH) : (s.msvSet m f).msvH m = f (s.msvH m) := by
  simp [State.msvSet, State.msvH]

@[simp] theorem State.get_msvSet (s : State) (m : Nat) (f : MsvH → MsvH) (p : Page) (x : Fld) :
    (s.msvSet m f).get p x = s.get p x := State.get_of_regs (s.msvSet_regs m f) p x

@[simp] theorem State.on_msvSet (s : State) (m : Nat) (f : MsvH → MsvH) (p : Page) (x : Fld) :
    (s.msvSet m f).on p x = s.on p x := congrArg (· == 1) (s.get_msvSet ..)

theorem State.msvH_of_msv {s t : State} (h : t.msv = s.msv) (m : Nat) : t.msvH m = s.msvH m := by
  rw [State.msvH, State.msvH, h]

/-- An operation whose footprint holds no supervisor leaves their hidden state. -/
theorem State.msvH_of_kept {F : List Part} {s t : State} (k : Kept F s t) (m : Nat) (h : .msv ∉ F := by simp) :
    t.msvH m = s.msvH m := State.msvH_of_msv (k.within .msv h) m

@[simp] theorem State.msvH_advance (s : State) (dt m : Nat) : (s.advance dt).msvH m = s.msvH m :=
  State.msvH_of_msv (s.advance_msv dt) m

/-! ### A new state of the supervisor (R249) -/

@[simp] theorem State.msvSt_msvSet (s : State) (m : Nat) (k : Fin 3) (f : MsvH → MsvH) :
    (s.msvSet m f).msvSt k = s.msvSt k := s.get_msvSet ..

@[simp] theorem State.msvSt_stopSet (s : State) (m : Nat) (k : Fin 3) (f : StopH → StopH) :
    (s.stopSet m f).msvSt k = s.msvSt k :=
  State.get_within (Kept.stopSet s m f).within (inPage_supervisor k (by decide)) (by simp)

/-- A flag beside the state of a supervisor leaves it. -/
theorem State.msvSt_flag (s : State) (p : Page) {x : Fld} (k : Fin 3) (b : Bool) (hl : x.lo ≤ x.hi + 1) (hh : x.hi < 28) :
    (s.flag p x b).msvSt k = s.msvSt k := s.get_put_bits _ hl (by omega) (.inr hh)

@[simp] theorem State.msvSt_lhActive (s : State) (m : Nat) (k : Fin 3) : (s.lhActive m).msvSt k = s.msvSt k :=
  s.msvSt_flag _ k _ (by decide) (by decide)

@[simp] theorem State.msvSt_evtIf (s : State) (b : Bool) (m k : Fin 3) (x : Fld) :
    (s.evtIf b (MSV.pg m) x).msvSt k = s.msvSt k := by
  cases b
  · rfl
  · exact s.get_evt_word (inPage_supervisor k (by decide)) (by simp) (fldAddr_ne_of_mod (by decide))

/-- A supervisor has the state that it takes. -/
theorem State.msvSt_msvGo (s : State) (m : Fin 3) {st : Nat} (hst : st < 16) : (s.msvGo m st).msvSt m = st := by
  have hput : (s.put (MSV.pg m) MSV.STAT_STATE st).msvSt m = st :=
    (s.get_put_same st (inPage_supervisor m (by decide)) (by decide) (by decide)).trans (Nat.mod_eq_of_lt hst)
  have hss1 (t : State) : (t.flag (MSV.pg m) MSV.STAT_STOP_SS1 false).msvSt m = t.msvSt m :=
    t.msvSt_flag _ m _ (by decide) (by decide)
  simp only [State.msvGo, State.msvSt_evtIf, State.msvSt_lhActive, apply_ite (fun t : State => t.msvSt m), hss1,
    State.msvSt_stopSet, State.msvSt_msvSet, ite_self, hput]

end Sys2Proof.Machine
end

section
/-! SUPPORT. O36: writes of the torque command and their timeout, and the measurement of command pins (R230, R232, R248). -/

namespace Sys2Proof.Machine
open Sys2Proof

/-! ### The torque command (R230, R232) -/

/-- The requester that `MSV_CFG.TSRC` lets write `MSV_TCMD` (R232). -/
abbrev State.msvSource (s : State) (req m : Nat) : Prop :=
  s.get (MSV.pg m) MSV.CFG_TSRC = 0 ∧ req ≤ 1 ∨ s.get (MSV.pg m) MSV.CFG_TSRC = 1 ∧ req = 9

theorem msvTcmdWrite_taken {dt : Nat} {req : Req} {m : Fin 3} {val : W32} {s : State} (hon : s.dev.off = false)
    (hsrc : s.msvSource req m) : ∃ t, exec (.msvTcmdWrite dt req m val) s = .next t ∧
      t.rd (fldAddr (MSV.pg m) MSV.TCMD) = val ∧ (t.msvH m).cmdAt = s.now + dt := by
  have hsrc' : (s.advance dt).msvSource req m := by simpa [State.msvSource] using hsrc
  refine ⟨_, congrArg Host.Outcome.next (if_pos hsrc'), ?_, ?_⟩
  · exact (State.rd_of_regs (State.msvSet_regs ..) _).trans (State.rd_setWord_same _ _ (inPage_supervisor m (by decide)))
  · rw [State.msvH_msvSet]
    exact State.now_advance_of_on hon dt

theorem msvTcmdWrite_refused {dt : Nat} {req : Req} {m : Fin 3} {val : W32} {s : State} (hsrc : ¬s.msvSource req m) :
    exec (.msvTcmdWrite dt req m val) s = .next ((s.advance dt).incSat (MSV.pg m) HDR.ERRCNT_ACCESS) := by
  have hsrc' : ¬(s.advance dt).msvSource req m := by simpa [State.msvSource] using hsrc
  exact congrArg Host.Outcome.next (if_neg hsrc')

section Timeout

variable {dt : Nat} {m : Fin 3} {s : State}

/-- No accepted write came within `MSV_TCMDTO`, in RUN under a source that is timed (R232). -/
def State.tcmdLate (s : State) (m : Nat) : Prop :=
  s.msvSt m = 3 ∧ s.get (MSV.pg m) MSV.CFG_TSRC ≤ 1 ∧ (s.msvH m).lost = false ∧
    (s.msvH m).cmdAt + s.get (MSV.pg m) MSV.TCMDTO_TO ≤ s.now

/-- The latched fault and the event of a timeout. -/
def State.tcmdFlagged (s : State) (m : Nat) : State :=
  (s.msvSet m fun h => { h with lat606 := true }).evt (MSV.pg m) MSV.EVT_CMDLOSS

theorem State.on_tcmdFlagged (s : State) (m : Fin 3) {x : Fld} (hx : x.off ≠ 0x010) (hp : x.off < 0x1000) :
    (s.tcmdFlagged m).on (MSV.pg m) x = s.on (MSV.pg m) x := by
  have hevt : (s.tcmdFlagged m).get (MSV.pg m) x = _ :=
    State.get_evt_word _ (inPage_supervisor m hp) (by simp) (fldAddr_ne_of_off hx)
  rw [State.on, hevt, State.get_msvSet, State.on]

/-- What a late command leads to: limp-home, or a stop (R232). -/
theorem tcmdTimeout_late (h : (s.advance dt).tcmdLate m) : exec (.tcmdTimeout dt m) s =
    if s.on (MSV.pg m) MSV.CFG_LH_AUTO = true then
      .next (((((s.advance dt).tcmdFlagged m).msvSet m fun h => { h with lost := true, lhBad := 0 }).lhActive m).note 0x606 1
        (2 ^ m.1) 0)
    else .next ((((s.advance dt).tcmdFlagged m).raise 0x606 2 (2 ^ m.1)).msvStop m) := by
  obtain ⟨hrun, hsrc, hlost, hlate⟩ := h
  have hauto : ((s.advance dt).tcmdFlagged m).on (MSV.pg m) MSV.CFG_LH_AUTO = s.on (MSV.pg m) MSV.CFG_LH_AUTO :=
    (State.on_tcmdFlagged _ m (by decide) (by decide)).trans (s.on_advance ..)
  rw [← hauto]
  exact if_pos ⟨hrun, hsrc, by simpa using hlost, hlate⟩

variable (h : (s.advance dt).tcmdLate m)

include h

theorem tcmdTimeout_limps (hauto : s.on (MSV.pg m) MSV.CFG_LH_AUTO = true) : ∃ t, exec (.tcmdTimeout dt m) s = .next t ∧
    (t.msvH m).lost = true ∧ t.on (MSV.pg m) MSV.EVT_CMDLOSS = true := by
  refine ⟨_, (tcmdTimeout_late h).trans (if_pos hauto), ?_, ?_⟩
  · rw [State.msvH_of_kept (Kept.note ..), State.msvH_of_kept (Kept.lhActive ..), State.msvH_msvSet]
  · have hp : inPage (MSV.pg m) MSV.EVT_CMDLOSS = true := inPage_supervisor m (by decide)
    have hflagged : ((s.advance dt).tcmdFlagged m).on (MSV.pg m) MSV.EVT_CMDLOSS = true :=
      State.on_evt_page _ hp (by simp) rfl rfl (by decide)
    rw [State.on, State.get_note _ _ _ _ _ hp (by simp) (by simp) (by simp)]
    exact (State.on_put_word _ _ (fldAddr_ne_of_off (by decide))).trans ((State.on_msvSet ..).trans hflagged)

theorem tcmdTimeout_stops (hauto : s.on (MSV.pg m) MSV.CFG_LH_AUTO = false) : exec (.tcmdTimeout dt m) s =
    .next (((((s.advance dt).msvSet m fun h => { h with lat606 := true }).evt (MSV.pg m)
      MSV.EVT_CMDLOSS).raise 0x606 2 (2 ^ m.1)).msvStop m) :=
  (tcmdTimeout_late h).trans (if_neg (by simp [hauto]))

end Timeout

theorem State.tcmdLate_advance {dt : Nat} {m : Nat} {s : State} (hon : s.dev.off = false) (hrun : s.msvSt m = 3)
    (hsrc : s.get (MSV.pg m) MSV.CFG_TSRC ≤ 1) (hlost : (s.msvH m).lost = false)
    (hlate : (s.msvH m).cmdAt + s.get (MSV.pg m) MSV.TCMDTO_TO ≤ s.now + dt) : (s.advance dt).tcmdLate m := by
  simp [State.tcmdLate, State.now_advance_of_on hon, hrun, hsrc, hlost, hlate]

/-! ### Command pins (R248) -/

theorem lhPinSample_kept {dt : Nat} {pin : Fin 9} {code : BitVec 12} {s : State}
    (hdue : ∀ r, (vget s.pin pin).convAt = some r → r + 4000 ≤ (s.advance dt).now) :
    ∃ t, exec (.lhPinSample dt pin code) s = .next t ∧
      (vget t.pin pin).codes = (code :: (vget s.pin pin).codes).take 16 ∧
      (vget t.pin pin).convAt = some (s.advance dt).now ∧ t.regs = s.regs := by
  have hdue' : ((vget (s.advance dt).pin pin).convAt.all fun r => decide (r + 4000 ≤ (s.advance dt).now)) = true := by
    rw [s.advance_pin]
    cases hc : (vget s.pin pin).convAt with
    | none => rfl
    | some r => simpa using hdue r hc
  refine ⟨_, if_pos hdue', ?_, ?_, State.advance_regs ..⟩ <;> simp

theorem cmdPinEdge_falls {dt : Nat} {pin : Fin 9} {s : State} (hon : s.dev.off = false) :
    ∃ t, exec (.cmdPinEdge dt pin true) s = .next t ∧ (vget t.pin pin).fall = some (s.now + dt) := by
  refine ⟨_, rfl, ?_⟩
  simp [State.now_advance_of_on hon]

theorem cmdPinEdge_rises {dt : Nat} {pin : Fin 9} {s : State} {r f : Nat} (hon : s.dev.off = false)
    (hrise : (vget s.pin pin).rise = some r) (hfall : (vget s.pin pin).fall = some f) (hrf : r ≤ f) :
    ∃ t, exec (.cmdPinEdge dt pin false) s = .next t ∧ (vget t.pin pin).rise = some (s.now + dt) ∧
      (vget t.pin pin).full = some (s.now + dt - r, f - r) := by
  refine ⟨_, rfl, ?_, ?_⟩ <;> simp [State.now_advance_of_on hon, hrise, hfall, hrf]

/-- Settles O36: a write by its source and another one, a timeout with and without limp-home, and the conversions and edges
of a command pin. -/
theorem torqueCommandsAndTheirPins : Obligations.TorqueCommandsAndTheirPins :=
  ⟨fun _ _ _ _ _ hon => ⟨msvTcmdWrite_taken hon, msvTcmdWrite_refused⟩,
    fun _ _ _ hon hrun hsrc hlost hlate =>
      have h := State.tcmdLate_advance hon hrun hsrc hlost hlate
      ⟨tcmdTimeout_limps h, tcmdTimeout_stops h⟩,
    fun _ _ _ _ => lhPinSample_kept, fun _ _ _ _ _ hon => ⟨cmdPinEdge_falls hon, cmdPinEdge_rises hon⟩⟩

end Sys2Proof.Machine
end

section
/-! SUPPORT. O37 and O38: the commands of a machine supervisor and of the brake chopper (R234, R243, R247, R250, R254). -/

namespace Sys2Proof.Machine
open Sys2Proof

/-! ### Commands of a supervisor -/

/-- Outside SAFE_HOLD a command of a supervisor is carried out (R18). -/
theorem State.msvOp_of_awake {s : State} (h : s.dstate ≠ .safeHold) (dt m op : Nat) :
    (s.advance dt).msvOp m op = (s.advance dt).msvCmd m op := State.blockCmd_of_awake h ..

/-! ### The permitted direction (R234) -/

/-- The three permitted directions: FWD, REV and BOTH. -/
abbrev permittedDir (d : Nat) : Prop := d = 1 ∨ d = 2 ∨ d = 3

theorem State.msvCmd_dir (s : State) (m : Nat) {d : Nat} (hd : permittedDir d) : s.msvCmd m (d + 2) =
    s.command (MSV.pg m) MSV.CMD_LAST_STS (s.msvSt m != 0 && s.msvStandstill m) fun s =>
      s.put (MSV.pg m) MSV.STAT_DIR d := by
  rcases hd with rfl | rfl | rfl <;> rfl

/-- At standstill a direction command is accepted. -/
theorem State.msvOp_dir_accepted {s : State} {m : Fin 3} (dt : Nat) {d : Nat} (hd : permittedDir d)
    (hstill : s.msvStandstill m = true) (hen : s.msvSt m ≠ 0) (h : s.dstate ≠ .safeHold) :
    ((s.advance dt).msvOp m (d + 2)).get (MSV.pg m) MSV.STAT_DIR = d ∧
      ((s.advance dt).msvOp m (d + 2)).get (MSV.pg m) MSV.CMD_LAST_STS = Status.done.code := by
  have hlt : d < 4 := by omega
  rw [State.msvOp_of_awake h, State.msvCmd_dir _ _ hd, State.command_done _ _ _ (by simp [hen, hstill])]
  refine ⟨(State.get_status_word _ _ (by decide) (by decide)).trans ?_, State.get_msvStatus ..⟩
  exact (State.get_put_same _ d (inPage_supervisor m (by decide)) (by decide) (by decide)).trans (Nat.mod_eq_of_lt hlt)

/-- In motion, in OFF and in SAFE_HOLD a direction command is refused. -/
theorem State.msvOp_dir_refused {s : State} {m : Nat} (dt : Nat) {d : Nat} (hd : permittedDir d)
    (hno : s.msvStandstill m = false ∨ s.msvSt m = 0 ∨ s.dstate = .safeHold) :
    (s.advance dt).msvOp m (d + 2) = (s.advance dt).status (MSV.pg m) MSV.CMD_LAST_STS .illegalState := by
  by_cases h : s.dstate = .safeHold
  · exact State.blockCmd_of_safeHold h ..
  · rw [State.msvOp_of_awake h, State.msvCmd_dir _ _ hd]
    refine State.command_illegalState _ _ _ ?_ _
    rcases hno with hmoves | hoff | hhold
    · simp [hmoves]
    · simp [hoff]
    · exact absurd hhold h

/-- Settles O37: each command is one of a direction, accepted at standstill and refused at any other time. -/
theorem directionChangesOnlyAtStandstill : Obligations.DirectionChangesOnlyAtStandstill := by
  intro dt req m s
  refine ⟨fun hstill hen h => ⟨⟨_, rfl, State.msvOp_dir_accepted dt (.inl rfl) hstill hen h⟩,
    ⟨_, rfl, State.msvOp_dir_accepted dt (.inr (.inl rfl)) hstill hen h⟩,
    ⟨_, rfl, State.msvOp_dir_accepted dt (.inr (.inr rfl)) hstill hen h⟩⟩, fun hno c hc => ?_⟩
  refine ⟨(s.advance dt).status (MSV.pg m) MSV.CMD_LAST_STS .illegalState, ?_, State.get_msvStatus .., ?_, ?_⟩
  · have hrefused {d : Nat} (hd : permittedDir d) := congrArg (Host.Outcome.next (φ := Fault) (ρ := Refusal))
      (State.msvOp_dir_refused dt hd hno)
    simp only [List.mem_cons, List.not_mem_nil, or_false] at hc
    rcases hc with rfl | rfl | rfl
    · exact hrefused (.inl rfl)
    · exact hrefused (.inr (.inl rfl))
    · exact hrefused (.inr (.inr rfl))
  · rw [State.get_status_illegalState_count _ (inPage_supervisor m (by decide)) (by decide), s.get_advance]
  · rw [State.get_status_word _ _ (by decide) (by decide), s.get_advance]

/-! ### The supervisor (R247, R250) -/

/-- What RUN needs: READY, an angle that is tracked, a DC link above its minimum and no latched set fault (R250). -/
abbrev State.msvMayRun (s : State) (m : Nat) : Prop :=
  s.msvSt m = 2 ∧ s.posTrack m = true ∧ fle (s.msvK m 24) (s.msvH m).vdc = true ∧ (s.msvH m).lat608 = false

/-- Requests for SWITCH touch the tri-legs' hidden state alone (R102). -/
theorem Kept.askSwitch (s : State) (l : List Nat) : Kept [.tpw] s (l.foldl (fun s k => s.tpwAsk k 0) s) := by
  refine .foldl (fun t k => ?_) (.refl s) l
  unfold State.tpwAsk
  split
  next hk =>
    have hset : t.tpwRequest ⟨k, hk⟩ 0 = t.tpwSet ⟨k, hk⟩ fun h => { h with req := some 0, fw := none } :=
      if_neg (by simp)
    rw [hset]
    exact Kept.tpwSet ..
  next => exact .refl t

section Supervisor

variable {dt : Nat} {req : Req} {m : Fin 3} {s : State} (h : s.dstate ≠ .safeHold)

include h

theorem msvRun_pends (hrun : s.msvMayRun m) : ∃ t, exec (.msvRun dt req m) s = .next t ∧
    t.get (MSV.pg m) MSV.CMD_LAST_STS = 2 ∧ (t.msvH m).runPend.isSome = true := by
  have hcmd : (s.advance dt).msvCmd m 1 = (s.advance dt).msvRun m := if_pos (by simpa using hrun)
  refine ⟨_, congrArg Host.Outcome.next ((State.msvOp_of_awake h ..).trans hcmd), ?_, ?_⟩
  · have hp : inPage (MSV.pg m) MSV.CMD_LAST_STS = true := inPage_supervisor m (by decide)
    rw [State.msvRun, State.get_within (Kept.askSwitch _ _).within hp (by simp), State.get_msvSet]
    exact State.get_put_same _ 2 hp (by decide) (by decide)
  · rw [State.msvRun, State.msvH_of_kept (Kept.askSwitch _ _), State.msvH_msvSet]
    rfl

theorem msvRun_refused (hno : ¬s.msvMayRun m) : exec (.msvRun dt req m) s =
    .next ((s.advance dt).status (MSV.pg m) MSV.CMD_LAST_STS .illegalState) :=
  congrArg Host.Outcome.next ((State.msvOp_of_awake h ..).trans (if_neg (by simpa using hno)))

theorem msvStop_stops (hrun : s.msvSt m = 3) : ∃ t, exec (.msvStop dt req m) s = .next t ∧ t.msvSt m = 4 ∧
    t.get (MSV.pg m) MSV.CMD_LAST_STS = Status.done.code := by
  have hst : (s.advance dt).msvSt m = 3 := by simpa using hrun
  have hcmd : (s.advance dt).msvCmd m 2 = ((s.advance dt).msvStop m).status (MSV.pg m) MSV.CMD_LAST_STS .done :=
    if_pos (by simp [hrun])
  refine ⟨_, congrArg Host.Outcome.next ((State.msvOp_of_awake h ..).trans hcmd), ?_, State.get_msvStatus ..⟩
  refine (State.get_status_word _ _ (by decide) (by decide)).trans ?_
  rw [State.msvStop, hst]
  exact State.msvSt_msvGo _ m (by decide)

theorem msvOnesetRestore_waits (hidle : s.msvSt m = 1 ∨ s.msvSt m = 2) (hset : s.get (MSV.pg m) MSV.STAT_SET_MODE ≠ 0)
    (hlat : (s.msvH m).lat608 = false) : ∃ t, exec (.msvOnesetRestore dt req m) s = .next t ∧
      (t.msvH m).swapTo = some 0 ∧ t.get (MSV.pg m) MSV.CMD_LAST_STS = Status.done.code := by
  have hcmd : (s.advance dt).msvCmd m 6 = ((s.advance dt).msvSet m fun h => { h with swapTo := some 0 }).status (MSV.pg m)
      MSV.CMD_LAST_STS .done := if_pos (by simp [hidle, hset, hlat])
  refine ⟨_, congrArg Host.Outcome.next ((State.msvOp_of_awake h ..).trans hcmd), ?_, State.get_msvStatus ..⟩
  rw [State.msvH_of_kept (Kept.status ..), State.msvH_msvSet]

theorem msvAck_clears (hidle : s.msvSt m = 1 ∨ s.msvSt m = 2) : ∃ t, exec (.msvAck dt req m) s = .next t ∧
    (t.msvH m).lat606 = false ∧ (t.msvH m).lat607 = false ∧ (t.msvH m).lat608 = false ∧
      t.get (MSV.pg m) MSV.CMD_LAST_STS = Status.done.code := by
  have hcmd : (s.advance dt).msvCmd m 7 = ((s.advance dt).msvSet m fun h =>
      { h with lat606 := false, lat607 := false, lat608 := false }).status (MSV.pg m) MSV.CMD_LAST_STS .done :=
    if_pos (by simp [hidle])
  refine ⟨_, congrArg Host.Outcome.next ((State.msvOp_of_awake h ..).trans hcmd), ?_, ?_, ?_, State.get_msvStatus ..⟩ <;>
    rw [State.msvH_of_kept (Kept.status ..), State.msvH_msvSet]

theorem msvClrCnt_clears : ∃ t, exec (.msvClrCnt dt req m) s = .next t ∧ t.rd (fldAddr (MSV.pg m) MSV.CNT) = 0 ∧
    t.get (MSV.pg m) MSV.CMD_LAST_STS = Status.done.code := by
  have hcmd : (s.advance dt).msvCmd m 8 = ((s.advance dt).setWord (MSV.pg m) MSV.CNT 0).status (MSV.pg m) MSV.CMD_LAST_STS
      .done := rfl
  refine ⟨_, congrArg Host.Outcome.next ((State.msvOp_of_awake h ..).trans hcmd), ?_, State.get_msvStatus ..⟩
  exact (State.rd_status_word _ _ (fldAddr_ne_of_off (by decide)) (fldAddr_ne_of_off (by decide))).trans
    (State.rd_setWord_same _ _ (inPage_supervisor m (by decide)))

end Supervisor

/-! ### The brake chopper (R243, R254) -/

section Chopper

variable {dt : Nat} {req : Req} {s : State}

theorem State.get_bchStatus (s : State) (st : Status) :
    (s.status BCH.pg BCH.CMD_LAST_STS st).get BCH.pg BCH.CMD_LAST_STS = st.code :=
  s.get_status st (by decide) (by decide) (by decide) (by decide)

theorem bchAck_clears (hst : s.dstate = .standby) (hfault : s.get BCH.pg BCH.STAT_STATE = 3) :
    ∃ t, exec (.bchAck dt req) s = .next t ∧ t.get BCH.pg BCH.STAT_STATE = 1 ∧
      t.get BCH.pg BCH.CMD_LAST_STS = Status.done.code := by
  have hcmd : (s.advance dt).bchCmd 1 = ((s.advance dt).put BCH.pg BCH.STAT_STATE 1).status BCH.pg BCH.CMD_LAST_STS .done :=
    (State.blockCmd_of_awake (by simp [hst]) ..).trans (State.command_done _ _ _ (by simp [hst, hfault]) _)
  refine ⟨_, congrArg Host.Outcome.next hcmd, ?_, State.get_bchStatus ..⟩
  exact (State.get_status_word _ _ (by decide) (by decide)).trans
    (State.get_put_same _ 1 (by decide) (by decide) (by decide))

theorem bchAck_refused (h : s.dstate ≠ .safeHold) (hno : s.dstate ≠ .standby ∨ s.get BCH.pg BCH.STAT_STATE ≠ 3) :
    exec (.bchAck dt req) s = .next ((s.advance dt).status BCH.pg BCH.CMD_LAST_STS .illegalState) := by
  refine congrArg Host.Outcome.next ((State.blockCmd_of_awake h ..).trans (State.command_illegalState _ _ _ ?_ _))
  rcases hno with hno | hno <;> simp [hno]

theorem bchClrCnt_clears (h : s.dstate ≠ .safeHold) : ∃ t, exec (.bchClrCnt dt req) s = .next t ∧
    t.rd (fldAddr BCH.pg BCH.CNT) = 0 ∧ t.get BCH.pg BCH.CMD_LAST_STS = Status.done.code := by
  have hcmd : (s.advance dt).bchCmd 2 = ((s.advance dt).setWord BCH.pg BCH.CNT 0).status BCH.pg BCH.CMD_LAST_STS .done :=
    (State.blockCmd_of_awake h ..).trans (State.command_done _ _ _ rfl _)
  refine ⟨_, congrArg Host.Outcome.next hcmd, ?_, State.get_bchStatus ..⟩
  exact (State.rd_status_word _ _ (fldAddr_ne_of_off (by decide)) (fldAddr_ne_of_off (by decide))).trans
    (State.rd_setWord_same _ _ (by decide))

theorem bchAck_held (h : s.dstate = .safeHold) : exec (.bchAck dt req) s =
    .next ((s.advance dt).status BCH.pg BCH.CMD_LAST_STS .illegalState) :=
  congrArg Host.Outcome.next (State.blockCmd_of_safeHold h ..)

end Chopper

/-- Settles O38: each clause is the lemma about its command above. -/
theorem supervisorAndChopperCommands : Obligations.SupervisorAndChopperCommands :=
  ⟨fun _ _ _ _ h => ⟨fun hst htrack hvdc hlat => msvRun_pends h ⟨hst, htrack, hvdc, hlat⟩, msvRun_refused h,
      msvStop_stops h, fun hidle => ⟨msvOnesetRestore_waits h hidle, msvAck_clears h hidle⟩, msvClrCnt_clears h⟩,
    fun _ _ _ => ⟨bchAck_clears, bchAck_refused, bchClrCnt_clears, bchAck_held⟩⟩

end Sys2Proof.Machine
end

section
/-! SUPPORT. O39: the commands of the DC-DC controller, the writes of its setpoint, and its two bounded waits (R261, R263 to R265,
R269). -/

namespace Sys2Proof.Machine
open Sys2Proof

/-! ### Time and the coefficients that apply (R268) -/

@[simp] theorem State.dcdK_advance (s : State) (dt j : Nat) : (s.advance dt).dcdK j = s.dcdK j := by
  simp [State.dcdK, State.dcdWord]

@[simp] theorem State.dcdVinOk_advance (s : State) (dt : Nat) : (s.advance dt).dcdVinOk = s.dcdVinOk := by
  simp [State.dcdVinOk]

/-- Where the running states hold, the device is not in OFF (R16). -/
theorem State.on_of_running {s : State} (h : s.dstate.running = true) : s.dev.off = false := by
  cases hoff : s.dev.off with
  | false => rfl
  | true => simp [State.dstate, hoff, DState.running] at h

/-! ### A new state (R264) -/

theorem State.get_dcdGo_state (s : State) {st : Nat} (h : st < 8) : (s.dcdGo st).get DCD.pg DCD.STAT_STATE = st := by
  have hput : (s.put DCD.pg DCD.STAT_STATE st).get DCD.pg DCD.STAT_STATE = st :=
    (s.get_put_same st (by decide) (by decide) (by decide)).trans (Nat.mod_eq_of_lt h)
  unfold State.dcdGo State.evtIf
  dsimp only
  split
  · exact (State.get_evt_word _ (by decide) (by decide) (fldAddr_ne_of_off (by decide))).trans hput
  · exact hput

@[simp] theorem State.dcdGo_dcd (s : State) (st : Nat) : (s.dcdGo st).dcd = s.dcd := (Kept.dcdGo s st).within .dcd (by simp)

/-! ### A command that is carried out (R60, R265) -/

theorem State.get_dcdStatus (s : State) (st : Status) :
    (s.status DCD.pg DCD.CMD_LAST_STS st).get DCD.pg DCD.CMD_LAST_STS = st.code :=
  s.get_status st (by decide) (by decide) (by decide) (by decide)

/-- What a command leaves that took the controller to state `st` and was reported DONE. -/
structure State.DcdDone (t : State) (st : Nat) (h : DcdH) : Prop where
  state : t.get DCD.pg DCD.STAT_STATE = st
  status : t.get DCD.pg DCD.CMD_LAST_STS = Status.done.code
  hidden : t.dcd = h

theorem State.dcdGo_done (s : State) {st : Nat} (hst : st < 8) :
    ((s.dcdGo st).status DCD.pg DCD.CMD_LAST_STS .done).DcdDone st s.dcd where
  state := ((s.dcdGo st).get_status_word .done (by decide) (by decide)).trans (s.get_dcdGo_state hst)
  status := State.get_dcdStatus ..
  hidden := (State.put_dcd ..).trans (s.dcdGo_dcd st)

/-- The hidden state of the controller at the entry to TEST, from which its two bounds count (R263, R264). -/
def DcdH.atStart (h : DcdH) (now : Nat) : DcdH :=
  { h with testAt := now, startAt := now, passes := Vector.replicate 4 0, stale := 0, fresh := false }

/-- The effect of START: entry to TEST with no phase failed or passed (R263, R264). -/
def State.dcdBegin (s : State) : State :=
  ((({ s with dcd := s.dcd.atStart s.now }).put DCD.pg DCD.PHST_FAIL_HS 0).put DCD.pg DCD.PHST_FAIL_LS 0).dcdGo 2

theorem State.dcdBegin_done (s : State) :
    (s.dcdBegin.status DCD.pg DCD.CMD_LAST_STS .done).DcdDone 2 (s.dcd.atStart s.now) := by
  have hwords : ((({ s with dcd := s.dcd.atStart s.now }).put DCD.pg DCD.PHST_FAIL_HS 0).put DCD.pg
      DCD.PHST_FAIL_LS 0).dcd = s.dcd.atStart s.now := (State.put_dcd ..).trans (State.put_dcd ..)
  rw [← hwords]
  exact State.dcdGo_done _ (by decide)

theorem State.dcdStop_of_test {s : State} (h : s.get DCD.pg DCD.STAT_STATE = 2) : s.dcdStop = s.dcdLow.dcdGo 1 := if_pos h

theorem State.dcdStop_of_switching {s : State} (h : s.get DCD.pg DCD.STAT_STATE ≠ 2) :
    s.dcdStop = State.dcdGo { s with dcd := { s.dcd with stopPins := true } } 1 := if_neg h

/-! ### The commands (R265) -/

section Commands

variable {dt : Nat} {req : Req} {s : State}

theorem State.dcdCmd_start (s : State) : s.dcdCmd 1 = s.command DCD.pg DCD.CMD_LAST_STS
    (s.get DCD.pg DCD.STAT_STATE == 1 && s.dstate.running && !feq (s.rd (fldAddr DCD.pg DCD.VSET)) 0 && s.dcdVinOk)
    State.dcdBegin := rfl

theorem State.dcdCmd_stop (s : State) : s.dcdCmd 2 = s.command DCD.pg DCD.CMD_LAST_STS
    (s.get DCD.pg DCD.STAT_STATE == 2 || s.get DCD.pg DCD.STAT_STATE == 3 || s.get DCD.pg DCD.STAT_STATE == 4)
    State.dcdStop := rfl

theorem State.dcdCmd_ack (s : State) : s.dcdCmd 3 = s.command DCD.pg DCD.CMD_LAST_STS
    (s.get DCD.pg DCD.STAT_STATE == 5 && !s.dcd.cond && !s.dcd.perBad) (fun s => s.dcdGo 1) := rfl

theorem State.dcdCmd_start_done (hidle : s.get DCD.pg DCD.STAT_STATE = 1) (hrun : s.dstate.running = true)
    (hset : feq (s.rd (fldAddr DCD.pg DCD.VSET)) 0 = false) (hvin : s.dcdVinOk = true) :
    s.dcdCmd 1 = s.dcdBegin.status DCD.pg DCD.CMD_LAST_STS .done := by
  rw [State.dcdCmd_start, hidle, hrun, hset, hvin]
  exact State.command_done _ _ _ rfl _

theorem State.dcdCmd_stop_done (h : s.get DCD.pg DCD.STAT_STATE = 2 ∨ s.get DCD.pg DCD.STAT_STATE = 3 ∨
    s.get DCD.pg DCD.STAT_STATE = 4) : s.dcdCmd 2 = s.dcdStop.status DCD.pg DCD.CMD_LAST_STS .done :=
  s.dcdCmd_stop.trans (State.command_done _ _ _ (by simpa [or_assoc] using h) _)

theorem State.dcdCmd_ack_done (hfault : s.get DCD.pg DCD.STAT_STATE = 5) (hcond : s.dcd.cond = false)
    (hper : s.dcd.perBad = false) : s.dcdCmd 3 = (s.dcdGo 1).status DCD.pg DCD.CMD_LAST_STS .done :=
  s.dcdCmd_ack.trans (State.command_done _ _ _ (by simp [hfault, hcond, hper]) _)

theorem State.dcdCmd_ack_refused (hno : s.get DCD.pg DCD.STAT_STATE ≠ 5 ∨ s.dcd.cond = true ∨ s.dcd.perBad = true) :
    s.dcdCmd 3 = s.status DCD.pg DCD.CMD_LAST_STS .illegalState := by
  refine s.dcdCmd_ack.trans (State.command_illegalState _ _ _ ?_ _)
  rcases hno with hno | hno | hno <;> simp [hno]

theorem State.dcdCmd_clrCnt_done (s : State) :
    s.dcdCmd 4 = (s.setWord DCD.pg DCD.CNT 0).status DCD.pg DCD.CMD_LAST_STS .done :=
  State.command_done _ _ _ rfl _

/-- Outside SAFE_HOLD a command of the controller is carried out (R18). -/
theorem State.dcdOp_of_awake (h : s.dstate ≠ .safeHold) (dt op : Nat) :
    (s.advance dt).blockCmd DCD.pg DCD.CMD_LAST_STS (fun s => s.dcdCmd op) = (s.advance dt).dcdCmd op :=
  State.blockCmd_of_awake h ..

theorem dcdStart_tests (h : s.dstate ≠ .safeHold) (hidle : s.get DCD.pg DCD.STAT_STATE = 1)
    (hrun : s.dstate.running = true) (hset : feq (s.rd (fldAddr DCD.pg DCD.VSET)) 0 = false) (hvin : s.dcdVinOk = true) :
    ∃ t, exec (.dcdStart dt req) s = .next t ∧ t.DcdDone 2 (s.dcd.atStart (s.now + dt)) := by
  have hcmd := (State.dcdOp_of_awake h dt 1).trans (State.dcdCmd_start_done (by rwa [State.get_advance])
    (by rwa [State.dstate_advance]) (by rwa [State.rd_advance]) (by rwa [State.dcdVinOk_advance]))
  refine ⟨_, congrArg Host.Outcome.next hcmd, ?_⟩
  rw [← State.now_advance_of_on (State.on_of_running hrun), ← State.advance_dcd s dt]
  exact State.dcdBegin_done _

/-- STOP from SOFTSTART and RUN leaves the pins to the next period start (R264). -/
theorem dcdStop_switching (h : s.dstate ≠ .safeHold)
    (hst : s.get DCD.pg DCD.STAT_STATE = 3 ∨ s.get DCD.pg DCD.STAT_STATE = 4) :
    ∃ t, exec (.dcdStop dt req) s = .next t ∧ t.DcdDone 1 { s.dcd with stopPins := true } := by
  have hcmd := (State.dcdOp_of_awake h dt 2).trans (State.dcdCmd_stop_done (by simpa using .inr hst))
  rw [State.dcdStop_of_switching (by rw [State.get_advance]; omega), State.advance_dcd] at hcmd
  exact ⟨_, congrArg Host.Outcome.next hcmd, State.dcdGo_done _ (by decide)⟩

/-- STOP from TEST drives the pins low at once (R264). -/
theorem dcdStop_testing (h : s.dstate ≠ .safeHold) (hst : s.get DCD.pg DCD.STAT_STATE = 2) :
    ∃ t, exec (.dcdStop dt req) s = .next t ∧ t.DcdDone 1 (s.advance dt).dcdLow.dcd := by
  have hcmd := (State.dcdOp_of_awake h dt 2).trans (State.dcdCmd_stop_done (by simp [hst]))
  rw [State.dcdStop_of_test (by rwa [State.get_advance])] at hcmd
  exact ⟨_, congrArg Host.Outcome.next hcmd, State.dcdGo_done _ (by decide)⟩

theorem dcdAck_clears (h : s.dstate ≠ .safeHold) (hfault : s.get DCD.pg DCD.STAT_STATE = 5) (hcond : s.dcd.cond = false)
    (hper : s.dcd.perBad = false) : ∃ t, exec (.dcdAck dt req) s = .next t ∧ t.DcdDone 1 s.dcd := by
  have hcmd := (State.dcdOp_of_awake h dt 3).trans (State.dcdCmd_ack_done (by rwa [State.get_advance])
    (by rwa [State.advance_dcd]) (by rwa [State.advance_dcd]))
  refine ⟨_, congrArg Host.Outcome.next hcmd, ?_⟩
  rw [← State.advance_dcd s dt]
  exact State.dcdGo_done _ (by decide)

theorem dcdAck_refused (h : s.dstate ≠ .safeHold)
    (hno : s.get DCD.pg DCD.STAT_STATE ≠ 5 ∨ s.dcd.cond = true ∨ s.dcd.perBad = true) :
    exec (.dcdAck dt req) s = .next ((s.advance dt).status DCD.pg DCD.CMD_LAST_STS .illegalState) :=
  congrArg Host.Outcome.next ((State.dcdOp_of_awake h dt 3).trans (State.dcdCmd_ack_refused (by simpa using hno)))

theorem dcdClrCnt_clears (h : s.dstate ≠ .safeHold) : ∃ t, exec (.dcdClrCnt dt req) s = .next t ∧
    t.rd (fldAddr DCD.pg DCD.CNT) = 0 ∧ t.get DCD.pg DCD.CMD_LAST_STS = Status.done.code := by
  have hcmd := (State.dcdOp_of_awake h dt 4).trans (State.dcdCmd_clrCnt_done _)
  refine ⟨_, congrArg Host.Outcome.next hcmd, ?_, State.get_dcdStatus ..⟩
  exact (State.rd_status_word _ _ (fldAddr_ne_of_off (by decide)) (fldAddr_ne_of_off (by decide))).trans
    (State.rd_setWord_same _ _ (by decide))

/-! ### The setpoint (R261) -/

theorem State.dcdVset_taken {val : W32} (hon : s.get DCD.pg DCD.STAT_STATE ≠ 0)
    (hval : fin_ val (s.dcdK 4) (s.dcdK 5) = true) : s.dcdVset val = s.setWord DCD.pg DCD.VSET val :=
  (if_neg hon).trans (if_pos hval)

theorem State.dcdVset_refused {val : W32} (hon : s.get DCD.pg DCD.STAT_STATE ≠ 0)
    (hval : fin_ val (s.dcdK 4) (s.dcdK 5) = false) : s.dcdVset val = s.refuse DCD.pg :=
  (if_neg hon).trans (if_neg (by simp [hval]))

theorem dcdVsetWrite_taken {val : W32} (hon : s.get DCD.pg DCD.STAT_STATE ≠ 0)
    (hval : fin_ val (s.dcdK 4) (s.dcdK 5) = true) :
    ∃ t, exec (.dcdVsetWrite dt req val) s = .next t ∧ t.rd (fldAddr DCD.pg DCD.VSET) = val ∧
      t.rd (fldAddr DCD.pg HDR.ERRCNT) = s.rd (fldAddr DCD.pg HDR.ERRCNT) := by
  have hset : (s.advance dt).dcdVset val = (s.advance dt).setWord DCD.pg DCD.VSET val :=
    State.dcdVset_taken (by simpa using hon) (by simpa using hval)
  exact ⟨_, congrArg Host.Outcome.next hset, State.rd_setWord_same _ _ (by decide),
    (State.rd_setWord_other _ _ (fldAddr_ne_of_off (by decide))).trans (s.rd_advance ..)⟩

theorem dcdVsetWrite_refused {val : W32} (hon : s.get DCD.pg DCD.STAT_STATE ≠ 0)
    (hval : fin_ val (s.dcdK 4) (s.dcdK 5) = false) :
    exec (.dcdVsetWrite dt req val) s = .next ((s.advance dt).incSat DCD.pg HDR.ERRCNT_ACCESS) :=
  congrArg Host.Outcome.next (State.dcdVset_refused (by simpa using hon) (by simpa using hval))

/-! ### The bounded waits (R263, R264, R269) -/

/-- A fault in any state except OFF ends in FAULT with the pins low, the event and the log entry (R264). -/
theorem State.dcdTrip_of_on (hon : s.get DCD.pg DCD.STAT_STATE ≠ 0) (code : Nat) :
    s.dcdTrip code = ((s.dcdLow.dcdGo 5).evt DCD.pg DCD.EVT_FAULT).raise code 2 0 := by
  rw [State.dcdTrip, State.dcdFault, if_neg hon]

theorem dcdTestTimeout_faults {p : Fin 4} (hpow : s.dev.off = false) (htest : s.get DCD.pg DCD.STAT_STATE = 2)
    (hdue : s.dcd.testAt + 4000000 ≤ s.now + dt) (hp : p.1 < s.get DCD.pg DCD.CFG_NPH + 1)
    (hfew : vget s.dcd.passes p < 2) : exec (.dcdTestTimeout dt p) s =
      .next ((((s.advance dt).dcdLow.dcdGo 5).evt DCD.pg DCD.EVT_FAULT).raise 0x70A 2 0) := by
  have hwait : (s.advance dt).get DCD.pg DCD.STAT_STATE = 2 ∧ (s.advance dt).dcd.testAt + 4000000 ≤ (s.advance dt).now ∧
      p.1 < (s.advance dt).dcdPhases ∧ vget (s.advance dt).dcd.passes p < 2 := by
    simp only [State.dcdPhases, State.get_advance, State.advance_dcd, State.now_advance_of_on hpow]
    exact ⟨htest, hdue, hp, hfew⟩
  exact (if_pos hwait).trans (congrArg Host.Outcome.next (State.dcdTrip_of_on (by simp [htest]) _))

theorem softstartTo_faults (hpow : s.dev.off = false) (hsoft : s.get DCD.pg DCD.STAT_STATE = 3)
    (hdue : s.dcd.startAt + ticksOf (s.dcdK 21) ≤ s.now + dt) : exec (.softstartTo dt) s =
      .next ((((s.advance dt).dcdLow.dcdGo 5).evt DCD.pg DCD.EVT_FAULT).raise 0x709 2 0) := by
  have hwait : (s.advance dt).get DCD.pg DCD.STAT_STATE = 3 ∧
      (s.advance dt).dcd.startAt + ticksOf ((s.advance dt).dcdK 21) ≤ (s.advance dt).now := by
    simp only [State.get_advance, State.advance_dcd, State.dcdK_advance, State.now_advance_of_on hpow]
    exact ⟨hsoft, hdue⟩
  exact (if_pos hwait).trans (congrArg Host.Outcome.next (State.dcdTrip_of_on (by simp [hsoft]) _))

end Commands

/-- Settles O39: each clause is the lemma above about its command, its write or its wait. -/
theorem dcdcCommandsAndBoundedWaits : Obligations.DcdcCommandsAndBoundedWaits := by
  refine fun dt req s => ⟨fun h => ⟨fun hidle hrun hset hvin => ?_, fun hst => ?_, fun hst => ?_,
      fun hfault hcond hper => ?_, dcdAck_refused h, dcdClrCnt_clears h⟩,
    fun val hon => ⟨dcdVsetWrite_taken hon, dcdVsetWrite_refused hon⟩,
    fun p hpow => dcdTestTimeout_faults hpow, softstartTo_faults⟩
  · obtain ⟨t, hexec, hstate, hsts, hdcd⟩ := dcdStart_tests h hidle hrun hset hvin
    exact ⟨t, hexec, hstate, hsts, by rw [hdcd]; rfl, by rw [hdcd]; rfl⟩
  · obtain ⟨t, hexec, hstate, hsts, hdcd⟩ := dcdStop_switching h hst
    exact ⟨t, hexec, hstate, by rw [hdcd], hsts⟩
  · obtain ⟨t, hexec, hstate, hsts, -⟩ := dcdStop_testing h hst
    exact ⟨t, hexec, hstate, hsts⟩
  · obtain ⟨t, hexec, hstate, hsts, -⟩ := dcdAck_clears h hfault hcond hper
    exact ⟨t, hexec, hstate, hsts⟩

end Sys2Proof.Machine
end

section
/-! SUPPORT. O41: the session of the charger: its commands, the bounds of PRECHARGE, its timers, and the ends of STOPPING and of
a pulse inhibit (R278, R282 to R286). -/

namespace Sys2Proof.Machine
open Sys2Proof

/-! ### 64-bit values beside other writes (R48) -/

theorem State.get64_put64_other (s : State) {p : Page} {x y : Fld} (v : Nat) (hlo : x.off ≠ y.off) (hhi : x.off + 4 ≠ y.off)
    (hlo' : x.off ≠ y.off + 4) : (s.put64 p y v).get64 p x = s.get64 p x := by
  have hne : fldAddr p x + 4 ≠ fldAddr p y := by simp only [fldAddr]; omega
  have hne' : fldAddr p x + 4 ≠ fldAddr p { y with off := y.off + 4 } := by simp only [fldAddr]; omega
  exact State.get64_of_rd (s.rd_put64_word v (fldAddr_ne_of_off hlo) (fldAddr_ne_of_off hlo')) (s.rd_put64_word v hne hne')

theorem Beside.put64 {p : Page} {W : Nat → Prop} {s t : State} (h : Beside p W s t) (q : Page) (x : Fld) (v : Nat)
    (hx : q = p → W x.off ∧ W (x.off + 4)) : Beside p W s (t.put64 q x v) :=
  (h.setWord q x _ fun e => (hx e).1).setWord q _ _ fun e => (hx e).2

theorem Beside.rd {p : Page} {W : Nat → Prop} {s t : State} (h : Beside p W s t) {x : Fld} (hin : inPage p x = true)
    (hx : ¬W x.off) : t.rd (fldAddr p x) = s.rd (fldAddr p x) :=
  h.words _ (pageAt_page hin) (by rwa [fldAddr, Nat.add_sub_cancel_left])

/-- A 64-bit value whose two words stay reads as before. -/
theorem Beside.get64 {p : Page} {W : Nat → Prop} {s t : State} (h : Beside p W s t) {x : Fld} (hlo : inPage p x = true)
    (hhi : inPage p { x with off := x.off + 4 } = true) (hx : ¬W x.off) (hx' : ¬W (x.off + 4)) :
    t.get64 p x = s.get64 p x := State.get64_of_rd (h.rd hlo hx) (h.rd (x := { x with off := x.off + 4 }) hhi hx')

/-! ### The hidden state of the charger, and time -/

@[simp] theorem State.obcSet_obc (s : State) (f : ObcH → ObcH) : (s.obcSet f).obc = f s.obc := rfl
@[simp] theorem State.get_obcSet (s : State) (f : ObcH → ObcH) (p : Page) (x : Fld) : (s.obcSet f).get p x = s.get p x := rfl
@[simp] theorem State.status_obc (s : State) (p : Page) (x : Fld) (st : Status) : (s.status p x st).obc = s.obc :=
  (Kept.status s p x st).within .obc (by simp)

@[simp] theorem State.obcPilot_advance (s : State) (dt : Nat) : (s.advance dt).obcPilot = s.obcPilot := by
  simp [State.obcPilot]

@[simp] theorem State.obcConnected_advance (s : State) (dt : Nat) : (s.advance dt).obcConnected = s.obcConnected := by
  simp [State.obcConnected]

@[simp] theorem State.obcDirOk_advance (s : State) (dt : Nat) (dir : Bool) : (s.advance dt).obcDirOk dir = s.obcDirOk dir := by
  simp [State.obcDirOk]

@[simp] theorem State.obcRunning_advance (s : State) (dt : Nat) : (s.advance dt).obcRunning = s.obcRunning := by
  simp [State.obcRunning]

@[simp] theorem State.obcGone_advance (s : State) (dt code : Nat) : (s.advance dt).obcGone code = s.obcGone code := by
  simp only [State.obcGone, State.obcPilotBad, State.get_advance, State.advance_obc]

@[simp] theorem State.obcPresent_advance (s : State) (dt ph : Nat) : (s.advance dt).obcPresent ph = s.obcPresent ph := by
  simp only [State.obcPresent, State.obcRms, State.obcK, State.rd_advance, State.advance_obc]

/-! ### The tick counts (R282) -/

/-- The words of the tick counts. -/
abbrev obcCounts (off : Nat) : Prop := 0x0A0 ≤ off ∧ off ≤ 0x0C4

/-- One tick count takes `d` ticks if its condition holds. -/
def State.obcAdd (s : State) (d : Nat) (c : Bool) (x : Fld) : State :=
  if c then s.put64 OBC.pg x (s.get64 OBC.pg x + d) else s

theorem State.obcTick_eq (s : State) : s.obcTick =
    (if 2 ≤ s.get OBC.pg OBC.STAT_STATE then
      ((((s.obcAdd (s.now - s.obc.countAt) true OBC.ETOT_LO).obcAdd (s.now - s.obc.countAt) s.obc.ccEnd.isNone
        OBC.ECC_LO).obcAdd (s.now - s.obc.countAt) s.obc.cvAt.isSome OBC.ECV_LO).obcAdd (s.now - s.obc.countAt)
        (s.get OBC.pg OBC.STAT_STATE == 5 || s.get OBC.pg OBC.STAT_LIMSRC == 2) OBC.DERATE_LO).obcAdd
        (s.now - s.obc.countAt) (s.get OBC.pg OBC.STAT_STATE == 5) OBC.SUSP_LO
    else s).obcSet fun o => { o with countAt := s.now } := rfl

theorem Kept.obcAdd (s : State) (d : Nat) (c : Bool) (x : Fld) : Kept [.block .obc] s (s.obcAdd d c x) :=
  Kept.ite (Kept.put64 s OBC.pg x _) (.refl s)

theorem Beside.obcAdd {s t : State} (h : Beside OBC.pg obcCounts s t) (d : Nat) (c : Bool) {x : Fld}
    (hx : obcCounts x.off ∧ obcCounts (x.off + 4)) : Beside OBC.pg obcCounts s (t.obcAdd d c x) :=
  .ite (h.put64 OBC.pg x _ fun _ => hx) h

theorem Beside.obcTick (s : State) : Beside OBC.pg obcCounts s s.obcTick := by
  rw [State.obcTick_eq]
  refine .regs (.ite ?_ (.refl s)) rfl
  exact ((((Beside.refl s).obcAdd _ _ (by decide)).obcAdd _ _ (by decide)).obcAdd _ _ (by decide)).obcAdd _ _ (by decide)
    |>.obcAdd _ _ (by decide)

/-- Beside the counts, a tick count moves its date alone. -/
@[simp] theorem State.obcTick_obc (s : State) : s.obcTick.obc = { s.obc with countAt := s.now } := by
  have hadd (t : State) (d : Nat) (c : Bool) (x : Fld) : (t.obcAdd d c x).obc = t.obc :=
    (Kept.obcAdd t d c x).within .obc (by simp)
  rw [State.obcTick_eq, State.obcSet_obc]
  split
  · simp only [hadd]
  · rfl

@[simp] theorem State.obcTick_now (s : State) : s.obcTick.now = s.now := (Kept.obcTick s).within .now (by simp)

@[simp] theorem State.obcRunning_obcTick (s : State) : s.obcTick.obcRunning = s.obcRunning := by
  rw [State.obcRunning, State.obcRunning, (Beside.obcTick s).get (by decide) (by decide)]

/-! ### A new state (R283) -/

@[simp] theorem State.obcGo_obc (s : State) (st : Nat) : (s.obcGo st).obc = s.obc := (Kept.obcGo s st).within .obc (by simp)

/-- A new state writes the state field and, through its event, the flags. -/
theorem State.get_obcGo (s : State) (st : Nat) {x : Fld} (hx : inPage OBC.pg x = true) (he : x.off ≠ 0x010) :
    (s.obcGo st).get OBC.pg x = (s.put OBC.pg OBC.STAT_STATE st).get OBC.pg x := by
  unfold State.obcGo State.evtIf
  dsimp only
  split
  · exact State.get_evt_word _ hx (by decide) (fldAddr_ne_of_off he)
  · rfl

theorem State.get_obcGo_state (s : State) {st : Nat} (h : st < 8) : (s.obcGo st).get OBC.pg OBC.STAT_STATE = st :=
  (s.get_obcGo st (by decide) (by decide)).trans
    ((s.get_put_same st (by decide) (by decide) (by decide)).trans (Nat.mod_eq_of_lt h))

theorem State.get_obcGo_above (s : State) (st : Nat) {x : Fld} (hx : inPage OBC.pg x = true) (he : x.off ≠ 0x010)
    (hlo : 2 < x.lo) : (s.obcGo st).get OBC.pg x = s.get OBC.pg x :=
  (s.get_obcGo st hx he).trans (s.get_put_bits _ (by decide) (by decide) (.inr hlo))

theorem Beside.obcGo {W : Nat → Prop} {s t : State} (h : Beside OBC.pg W s t) (st : Nat) (hstat : W 0x00C) (hevt : W 0x010) :
    Beside OBC.pg W s (t.obcGo st) :=
  (h.put OBC.pg OBC.STAT_STATE st fun _ => hstat).evtIf (by decide) _ OBC.pg _ fun _ => hevt

/-! ### Commands (R60, R284) -/

theorem State.get_obcStatus (s : State) (st : Status) :
    (s.status OBC.pg OBC.CMD_LAST_STS st).get OBC.pg OBC.CMD_LAST_STS = st.code :=
  s.get_status st (by decide) (by decide) (by decide) (by decide)

/-- Outside SAFE_HOLD a command of the charger is carried out (R18). -/
theorem State.obcOp_of_awake {s : State} (h : s.dstate ≠ .safeHold) (dt op : Nat) (dir : Bool) :
    (s.advance dt).obcOp op dir = (s.advance dt).obcCmd op dir := State.blockCmd_of_awake h ..

/-- What START asks for (R284). -/
structure State.ObcMayStart (s : State) (dir : Bool) : Prop where
  stopped : s.get OBC.pg OBC.STAT_STATE = 1
  charge : s.dstate = .charge
  connected : s.obcConnected = true
  pwm : s.get OBC.pg OBC.INLET_TYPE ≠ 0
  pilot : s.obcPilot ≠ 0
  frame : s.obc.frameSince = true
  clear : s.obc.latched = []
  dirOk : s.obcDirOk dir = true

theorem State.obcCmd_start (s : State) (dir : Bool) : s.obcCmd 1 dir = s.command OBC.pg OBC.CMD_LAST_STS
    (s.get OBC.pg OBC.STAT_STATE == 1 && s.dstate == .charge && s.obcConnected && s.get OBC.pg OBC.INLET_TYPE != 0 &&
      s.obcPilot != 0 && s.obc.frameSince && s.obc.latched == [] && s.obcDirOk dir) (fun s => s.obcStart dir) := rfl

theorem State.obcCmd_setDir (s : State) (dir : Bool) : s.obcCmd 3 dir = s.command OBC.pg OBC.CMD_LAST_STS
    ((s.get OBC.pg OBC.STAT_STATE == 3 || s.get OBC.pg OBC.STAT_STATE == 4 || s.get OBC.pg OBC.STAT_STATE == 5) &&
      s.obcDirOk dir) (fun s => s.obcSet fun o => { o with dirNext := dir }) := rfl

theorem State.obcCmd_ack (s : State) (dir : Bool) : s.obcCmd 4 dir = s.command OBC.pg OBC.CMD_LAST_STS
    (s.get OBC.pg OBC.STAT_STATE == 1)
    (fun s => s.obcSet fun o => { o with latched := o.latched.filter fun c => !s.obcGone c }) := rfl

theorem State.obcCmd_start_done {s : State} {dir : Bool} (h : s.ObcMayStart dir) :
    s.obcCmd 1 dir = (s.obcStart dir).status OBC.pg OBC.CMD_LAST_STS .done :=
  (s.obcCmd_start dir).trans (State.command_done _ _ _ (by
    simp [h.stopped, h.charge, h.connected, h.pwm, h.pilot, h.frame, h.clear, h.dirOk]) _)

theorem State.obcCmd_stop_done {s : State} {dir : Bool} (h : s.obcRunning = true) :
    s.obcCmd 2 dir = (s.obcStopping 1).status OBC.pg OBC.CMD_LAST_STS .done := State.command_done _ _ _ h _

theorem State.obcCmd_setDir_done {s : State} {dir : Bool} (hlo : 3 ≤ s.get OBC.pg OBC.STAT_STATE)
    (hhi : s.get OBC.pg OBC.STAT_STATE ≤ 5) (hdir : s.obcDirOk dir = true) : s.obcCmd 3 dir =
      (s.obcSet fun o => { o with dirNext := dir }).status OBC.pg OBC.CMD_LAST_STS .done := by
  refine (s.obcCmd_setDir dir).trans (State.command_done _ _ _ ?_ _)
  simp only [hdir, Bool.and_true, Bool.or_eq_true, beq_iff_eq]
  omega

theorem State.obcCmd_ack_done {s : State} {dir : Bool} (h : s.get OBC.pg OBC.STAT_STATE = 1) : s.obcCmd 4 dir =
    (s.obcSet fun o => { o with latched := o.latched.filter fun c => !s.obcGone c }).status OBC.pg OBC.CMD_LAST_STS .done :=
  (s.obcCmd_ack dir).trans (State.command_done _ _ _ (by simp [h]) _)

theorem State.obcCmd_clrCnt_done (s : State) (dir : Bool) :
    s.obcCmd 5 dir = (s.setWord OBC.pg OBC.CNT 0).status OBC.pg OBC.CMD_LAST_STS .done := State.command_done _ _ _ rfl _

/-! ### START (R282 to R284) -/

/-- The hidden state at the start of PRECHARGE. -/
def ObcH.atStart (h : ObcH) (dir : Bool) (now : Nat) : ObcH :=
  { h with
    pcStep := 1, pcAt := now, outS2 := true, outAck := false, outPre := false, dir := dir, dirNext := dir, iref := 0,
    lossSeen := false, ccEnd := none, cvAt := none, countAt := now, endN := 0, rangeN := 0 }

/-- The tick counts at 0. -/
def State.obcZeroed (s : State) : State :=
  [OBC.ETOT_LO, OBC.ECC_LO, OBC.ECV_LO, OBC.DERATE_LO, OBC.SUSP_LO].foldl (fun s x => s.put64 OBC.pg x 0) s

theorem State.obcStart_eq (s : State) (dir : Bool) : s.obcStart dir =
    ((((((s.obcSet fun o => o.atStart dir s.now).obcZeroed).put OBC.pg OBC.STAT_TMR 0).put OBC.pg OBC.STAT_NPH 0).flag
      OBC.pg OBC.STAT_CLAMP false).incSat OBC.pg OBC.CNT_STARTS).obcGo 2 := rfl

theorem State.obcStart_obc (s : State) (dir : Bool) : (s.obcStart dir).obc = s.obc.atStart dir s.now := by
  have hcount (t : State) (p : Page) (x : Fld) : (t.incSat p x).obc = t.obc := (Kept.incSat t p x).within .obc (by simp)
  have hzero (t : State) : t.obcZeroed.obc = t.obc :=
    (Kept.foldl (fun u x => Kept.put64 u OBC.pg x 0) (.refl t) _).within .obc (by simp)
  rw [State.obcStart_eq, State.obcGo_obc, hcount, State.flag_obc, State.put_obc, State.put_obc, hzero, State.obcSet_obc]

/-- The tick counts read 0 (R282). -/
theorem State.get64_obcZeroed (s : State) {x : Fld} (hx : x ∈ [OBC.ETOT_LO, OBC.ECC_LO, OBC.ECV_LO]) :
    s.obcZeroed.get64 OBC.pg x = 0 := by
  simp only [List.mem_cons, List.not_mem_nil, or_false] at hx
  rcases hx with rfl | rfl | rfl <;>
    simp (disch := decide) only [State.obcZeroed, List.foldl, State.get64_put64_other, State.get64_put64, Nat.zero_mod]

/-- After the counts START writes the status word, the flags and the count of starts. -/
theorem State.get64_obcStart (s : State) (dir : Bool) {x : Fld} (hx : x ∈ [OBC.ETOT_LO, OBC.ECC_LO, OBC.ECV_LO]) :
    (s.obcStart dir).get64 OBC.pg x = 0 := by
  set z := (s.obcSet fun o => o.atStart dir s.now).obcZeroed with hz
  have hbeside : Beside OBC.pg (¬obcCounts ·) z (s.obcStart dir) := by
    rw [State.obcStart_eq, ← hz]
    exact ((((((Beside.refl z).put _ _ _ fun _ => by decide).put _ _ _ fun _ => by decide).flag _ _ _ fun _ =>
      by decide).incSat _ _ fun _ => by decide).obcGo _ (by decide) (by decide))
  have hin : inPage OBC.pg x = true ∧ inPage OBC.pg { x with off := x.off + 4 } = true ∧ obcCounts x.off ∧
      obcCounts (x.off + 4) := by revert x; decide
  obtain ⟨hlo, hhi, hoff, hoff'⟩ := hin
  rw [hbeside.get64 hlo hhi (not_not.mpr hoff) (not_not.mpr hoff'), State.get64_obcZeroed _ hx]

theorem State.get_obcStart_tmr (s : State) (dir : Bool) : (s.obcStart dir).get OBC.pg OBC.STAT_TMR = 0 := by
  rw [State.obcStart_eq, State.get_obcGo_above _ _ (by decide) (by decide) (by decide),
    State.get_incSat_word _ (fldAddr_ne_of_off (by decide)), State.flag, State.get_put_bits _ _ (by decide) (by decide) (by decide),
    State.get_put_bits _ _ (by decide) (by decide) (by decide), State.get_put_same _ _ (by decide) (by decide) (by decide)]
  rfl

theorem State.get_obcStart_state (s : State) (dir : Bool) : (s.obcStart dir).get OBC.pg OBC.STAT_STATE = 2 :=
  State.get_obcGo_state _ (by decide)

/-! ### STOPPING and STOPPED (R283, R285, R286) -/

theorem State.obcStopping_of_running {s : State} (h : s.obcRunning = true) (cause : Nat) : s.obcStopping cause =
    ((s.obcTick.obcSet fun o => { o with stopAt := s.obcTick.now }).put OBC.pg OBC.STAT_CAUSE cause).obcGo 6 := if_pos h

/-- The hidden state in STOPPED: both stages off, the outputs of the inlet open. -/
def ObcH.stopped (h : ObcH) : ObcH :=
  { h with
    pfcOn := false, dabOn := false, dabPers := 0, outS2 := false, outAck := false, outPre := false, frameSince := false,
    iref := 0, pcStep := 0, inhibitAt := none }

/-- The charger with both stages low and no reference, before STOPPED shows. -/
def State.obcLowered (s : State) : State :=
  ((s.obcTick.obcLow.obcSet fun o => { o with
    outS2 := false, outAck := false, outPre := false, frameSince := false, iref := 0, pcStep := 0, inhibitAt := none }).setWord
    OBC.pg OBC.IREF 0).put OBC.pg OBC.STAT_LIMSRC 0

theorem State.obcStopped_none (s : State) : s.obcStopped none false = s.obcLowered.obcGo 1 := rfl

theorem State.obcStopped_cause (s : State) (cause : Nat) (clamp : Bool) : s.obcStopped (some cause) clamp =
    (if clamp then (s.obcLowered.put OBC.pg OBC.STAT_CAUSE cause).flag OBC.pg OBC.STAT_CLAMP true
      else s.obcLowered.put OBC.pg OBC.STAT_CAUSE cause).obcGo 1 := rfl

theorem State.obcLow_obc (s : State) : s.obcLow.obc = { s.obc with pfcOn := false, dabOn := false, dabPers := 0 } := by
  have hlow (t : State) (n : Nat) : (t.cpwLow n).obc = t.obc := (Kept.cpwLow t n).within .obc (by simp)
  simp only [State.obcLow, hlow]

theorem State.obcLowered_obc (s : State) : s.obcLowered.obc = ({ s.obc with countAt := s.now } : ObcH).stopped := by
  rw [State.obcLowered, State.put_obc, State.setWord_obc, State.obcSet_obc, State.obcLow_obc, State.obcTick_obc]
  rfl

/-- A stop that keeps the cause shown before, as at the end of STOPPING. -/
theorem State.obcStopped_none_obc (s : State) :
    (s.obcStopped none false).obc = ({ s.obc with countAt := s.now } : ObcH).stopped :=
  (State.obcGo_obc ..).trans s.obcLowered_obc

theorem State.rd_obcStopped_none_iref (s : State) : (s.obcStopped none false).rd (fldAddr OBC.pg OBC.IREF) = 0 := by
  have hgo (t : State) (st : Nat) : (t.obcGo st).rd (fldAddr OBC.pg OBC.IREF) = t.rd (fldAddr OBC.pg OBC.IREF) :=
    ((Beside.refl t).obcGo (W := (· < 0x080)) st (by decide) (by decide)).rd (by decide) (by decide)
  rw [State.obcStopped_none, hgo, State.obcLowered, State.rd_put_word _ _ (fldAddr_ne_of_off (by decide)),
    State.rd_setWord_same _ _ (by decide)]

theorem State.obcStopped_cause_obc (s : State) (cause : Nat) (clamp : Bool) :
    (s.obcStopped (some cause) clamp).obc = ({ s.obc with countAt := s.now } : ObcH).stopped := by
  rw [State.obcStopped_cause, State.obcGo_obc, ← State.obcLowered_obc]
  split
  · rw [State.flag_obc, State.put_obc]
  · rw [State.put_obc]

theorem State.get_obcStopped_cause (s : State) (cause : Nat) (clamp : Bool) :
    (s.obcStopped (some cause) clamp).get OBC.pg OBC.STAT_CAUSE = cause % 16 := by
  rw [State.obcStopped_cause, State.get_obcGo_above _ _ (by decide) (by decide) (by decide)]
  have hput : (s.obcLowered.put OBC.pg OBC.STAT_CAUSE cause).get OBC.pg OBC.STAT_CAUSE = cause % 16 :=
    State.get_put_same _ _ (by decide) (by decide) (by decide)
  split
  · exact (State.get_put_bits _ _ (by decide) (by decide) (by decide)).trans hput
  · exact hput

/-! ### The phase count (R278) -/

/-- The number of phases that a phase count finds, 0 if they are neither one nor three. -/
def State.obcCount (s : State) : Nat :=
  match s.obcPresent 0, s.obcPresent 1, s.obcPresent 2 with
  | true, true, true => 3
  | true, false, false => 1
  | _, _, _ => 0

theorem State.obcCount_of_found {s : State} (ha : s.obcPresent 0 = true) (hbc : s.obcPresent 1 = s.obcPresent 2) :
    s.obcCount = if s.obcPresent 1 then 3 else 1 := by
  rw [State.obcCount, ha, ← hbc]
  cases s.obcPresent 1 <;> rfl

theorem State.obcCount_of_neither {s : State} (h : s.obcPresent 0 = false ∨ s.obcPresent 1 ≠ s.obcPresent 2) :
    s.obcCount = 0 := by
  rw [State.obcCount]
  cases ha : s.obcPresent 0
  · rfl
  · cases hb : s.obcPresent 1 <;> cases hc : s.obcPresent 2 <;> simp_all

/-! ### What the commands do (R284) -/

section Commands

variable {dt : Nat} {req : Req} {s : State} (h : s.dstate ≠ .safeHold)

include h

theorem obcStart_precharges {dir : Bool} (hmay : s.ObcMayStart dir) :
    exec (.obcStart dt req dir) s = .next (((s.advance dt).obcStart dir).status OBC.pg OBC.CMD_LAST_STS .done) := by
  have hmay' : (s.advance dt).ObcMayStart dir := by
    constructor <;> simp [hmay.stopped, hmay.charge, hmay.connected, hmay.pwm, hmay.pilot, hmay.frame, hmay.clear, hmay.dirOk]
  exact congrArg Host.Outcome.next ((State.obcOp_of_awake h ..).trans (State.obcCmd_start_done hmay'))

theorem obcStop_stops (hrun : s.obcRunning = true) : ∃ t, exec (.obcStop dt req) s = .next t ∧
    t.get OBC.pg OBC.STAT_STATE = 6 ∧ t.get OBC.pg OBC.STAT_CAUSE = 1 ∧ t.obc.stopAt = (s.advance dt).now ∧
      t.get OBC.pg OBC.CMD_LAST_STS = Status.done.code := by
  have hcmd := (State.obcOp_of_awake h dt 2 false).trans (State.obcCmd_stop_done (by simpa using hrun))
  rw [State.obcStopping_of_running (by simpa using hrun)] at hcmd
  refine ⟨_, congrArg Host.Outcome.next hcmd, ?_, ?_, ?_, State.get_obcStatus ..⟩
  · exact (State.get_status_word _ _ (by decide) (by decide)).trans (State.get_obcGo_state _ (by decide))
  · rw [State.get_status_word _ _ (by decide) (by decide), State.get_obcGo_above _ _ (by decide) (by decide) (by decide)]
    exact State.get_put_same _ 1 (by decide) (by decide) (by decide)
  · rw [State.status_obc, State.obcGo_obc, State.put_obc, State.obcSet_obc, State.obcTick_now]

theorem obcSetDir_awaits {dir : Bool} (hlo : 3 ≤ s.get OBC.pg OBC.STAT_STATE) (hhi : s.get OBC.pg OBC.STAT_STATE ≤ 5)
    (hdir : s.obcDirOk dir = true) : ∃ t, exec (.obcSetDir dt req dir) s = .next t ∧ t.obc.dirNext = dir ∧
      t.get OBC.pg OBC.CMD_LAST_STS = Status.done.code := by
  have hcmd := (State.obcOp_of_awake h dt 3 dir).trans
    (State.obcCmd_setDir_done (by simpa using hlo) (by simpa using hhi) (by simpa using hdir))
  exact ⟨_, congrArg Host.Outcome.next hcmd, by rw [State.status_obc, State.obcSet_obc], State.get_obcStatus ..⟩

theorem obcAck_clears (hstopped : s.get OBC.pg OBC.STAT_STATE = 1) : ∃ t, exec (.obcAck dt req) s = .next t ∧
    t.obc.latched = s.obc.latched.filter (fun c => !s.obcGone c) ∧
      t.get OBC.pg OBC.CMD_LAST_STS = Status.done.code := by
  have hcmd := (State.obcOp_of_awake h dt 4 false).trans (State.obcCmd_ack_done (by simpa using hstopped))
  refine ⟨_, congrArg Host.Outcome.next hcmd, ?_, State.get_obcStatus ..⟩
  simp only [State.status_obc, State.obcSet_obc, State.advance_obc, State.obcGone_advance]

theorem obcClrCnt_clears : ∃ t, exec (.obcClrCnt dt req) s = .next t ∧ t.rd (fldAddr OBC.pg OBC.CNT) = 0 ∧
    t.get OBC.pg OBC.CMD_LAST_STS = Status.done.code := by
  have hcmd := (State.obcOp_of_awake h dt 5 false).trans (State.obcCmd_clrCnt_done ..)
  refine ⟨_, congrArg Host.Outcome.next hcmd, ?_, State.get_obcStatus ..⟩
  exact (State.rd_status_word _ _ (fldAddr_ne_of_off (by decide)) (fldAddr_ne_of_off (by decide))).trans
    (State.rd_setWord_same _ _ (by decide))

end Commands

/-! ### The bounds of PRECHARGE (R278, R283, R284) -/

section Precharge

variable {dt : Nat} {s : State} (hpow : s.dev.off = false) (hpre : s.get OBC.pg OBC.STAT_STATE = 2)
  (hfree : s.obc.inhibitAt = none)

include hpow hpre hfree

/-- 20 ms after its start a phase count ends, with the phases that are present then. -/
theorem obcPhaseCountDone_due (hstep : s.obc.pcStep = 2) (hdue : s.obc.pcAt + 8000000 ≤ s.now + dt) :
    exec (.obcPhaseCountDone dt) s = if s.obcCount = 0 then
      .next ((s.advance dt).put OBC.pg OBC.STAT_NPH s.obcCount).obcPrechargeFail
    else .next (((s.advance dt).put OBC.pg OBC.STAT_NPH s.obcCount).obcSet fun o => { o with
      pcStep := 3, pcAt := ((s.advance dt).put OBC.pg OBC.STAT_NPH s.obcCount).now, outPre := true }) := by
  have hcount : (s.advance dt).obcCount = s.obcCount := by simp only [State.obcCount, State.obcPresent_advance]
  rw [← hcount]
  refine if_pos ?_
  simp only [State.get_advance, State.advance_obc, State.now_advance_of_on hpow]
  exact ⟨hpre, hstep, hdue, by rw [hfree]; rfl⟩

theorem obcPhaseCountDone_found (hstep : s.obc.pcStep = 2) (hdue : s.obc.pcAt + 8000000 ≤ s.now + dt)
    (ha : s.obcPresent 0 = true) (hbc : s.obcPresent 1 = s.obcPresent 2) :
    ∃ t, exec (.obcPhaseCountDone dt) s = .next t ∧ t.get OBC.pg OBC.STAT_NPH = (if s.obcPresent 1 then 3 else 1) ∧
      t.obc.pcStep = 3 ∧ t.obc.outPre = true ∧ t.obc.pcAt = s.now + dt := by
  have hcount := State.obcCount_of_found ha hbc
  have hone : s.obcCount ≠ 0 ∧ s.obcCount < 4 := by rw [hcount]; split <;> decide
  refine ⟨_, (obcPhaseCountDone_due hpow hpre hfree hstep hdue).trans (if_neg hone.1), ?_, rfl, rfl, ?_⟩
  · rw [State.get_obcSet, State.get_put_same _ _ (by decide) (by decide) (by decide), ← hcount]
    exact Nat.mod_eq_of_lt hone.2
  · rw [State.obcSet_obc, State.put_now, State.now_advance_of_on hpow]

theorem obcPhaseCountDone_fails (hstep : s.obc.pcStep = 2) (hdue : s.obc.pcAt + 8000000 ≤ s.now + dt)
    (hno : s.obcPresent 0 = false ∨ s.obcPresent 1 ≠ s.obcPresent 2) :
    exec (.obcPhaseCountDone dt) s = .next ((s.advance dt).put OBC.pg OBC.STAT_NPH 0).obcPrechargeFail := by
  rw [obcPhaseCountDone_due hpow hpre hfree hstep hdue, State.obcCount_of_neither hno, if_pos rfl]

/-- The wait of step 1 or step 3 of PRECHARGE ends at its bound. -/
theorem prechargeTo_fails {k : Nat} {bound : Fld} (hstep : s.obc.pcStep = k)
    (hbound : (k = 1 ∧ bound = OBC.ACWAIT_TO) ∨ (k = 3 ∧ bound = OBC.PRETO_TO))
    (hdue : s.obc.pcAt + s.get OBC.pg bound ≤ s.now + dt) :
    exec (.prechargeTo dt) s = .next (s.advance dt).obcPrechargeFail := by
  refine if_pos ?_
  simp only [State.get_advance, State.advance_obc, State.now_advance_of_on hpow]
  rcases hbound with ⟨rfl, rfl⟩ | ⟨rfl, rfl⟩
  · exact ⟨hpre, .inl hstep, by rwa [if_pos hstep], by rw [hfree]; rfl⟩
  · exact ⟨hpre, .inr hstep, by rwa [if_neg (by omega)], by rw [hfree]; rfl⟩

end Precharge

/-! ### The timers, and the ends of STOPPING and of a pulse inhibit (R282, R285, R286) -/

section Ends

variable {dt : Nat} {s : State}

theorem timerExpired_total (hfree : s.obc.inhibitAt = none) (hrun : s.obcRunning = true)
    (hover : s.get64 OBC.pg OBC.TTOT_LO ≤ (s.advance dt).obcTick.get64 OBC.pg OBC.ETOT_LO) :
    exec (.timerExpired dt 0) s = .next ((((s.advance dt).obcTick.put OBC.pg OBC.STAT_TMR 1).incSat OBC.pg
      OBC.CNT_TIMER).obcFault 0x804 OBC.EVT_TIMER 3) := by
  have hlimit : (s.advance dt).obcTick.get64 OBC.pg OBC.TTOT_LO = s.get64 OBC.pg OBC.TTOT_LO :=
    ((Beside.obcTick _).get64 (by decide) (by decide) (by decide) (by decide)).trans (s.get64_advance ..)
  refine if_pos ⟨by simpa using hrun, rfl, ?_, ?_⟩
  · exact hlimit.trans_le hover
  · rw [State.obcTick_obc, State.advance_obc, hfree]
    rfl

theorem obcStopBound_stops (hpow : s.dev.off = false) (hstopping : s.get OBC.pg OBC.STAT_STATE = 6)
    (hfree : s.obc.inhibitAt = none) (hdue : s.obc.stopAt + 40000000 ≤ s.now + dt) :
    exec (.obcStopBound dt) s = .next ((s.advance dt).obcStopped none false) := by
  refine if_pos ?_
  simp only [State.get_advance, State.advance_obc, State.now_advance_of_on hpow]
  exact ⟨hstopping, by rw [hfree]; rfl, hdue⟩

theorem obcPfcInhibit_stops {x : Nat} (hpow : s.dev.off = false) (hinhibit : s.obc.inhibitAt = some x)
    (hdue : x ≤ s.now + dt) : exec (.obcPfcInhibit dt) s =
      .next ((s.advance dt).obcStopped (some s.obc.pendCause) (s.obc.pendCause == 4)) := by
  change execObcPfcInhibit dt s = _
  simp only [execObcPfcInhibit, State.advance_obc, hinhibit, State.now_advance_of_on hpow, if_pos hdue]

end Ends

/-- Settles O41: each clause is the lemma above about its command, its wait, its timer or its end; the effect of START is read
from `obcStart`, and that of the two ends from `obcStopped`. -/
theorem chargerSessionCommandsAndBounds : Obligations.ChargerSessionCommandsAndBounds := by
  refine fun dt req s => ⟨fun h => ⟨fun dir hst hcharge hconn htype hpilot hframe hclear hdir => ?_, obcStop_stops h,
      fun dir => obcSetDir_awaits h, obcAck_clears h, obcClrCnt_clears h⟩,
    fun hpow hpre hfree => ⟨obcPhaseCountDone_found hpow hpre hfree, obcPhaseCountDone_fails hpow hpre hfree,
      fun hstep => prechargeTo_fails hpow hpre hfree hstep (.inl ⟨rfl, rfl⟩),
      fun hstep => prechargeTo_fails hpow hpre hfree hstep (.inr ⟨rfl, rfl⟩)⟩,
    timerExpired_total, fun hpow hst hfree hdue => ?_, fun x hpow hinhibit hdue => ?_⟩
  · have hcount {x : Fld} (hx : x ∈ [OBC.ETOT_LO, OBC.ECC_LO, OBC.ECV_LO]) :
        (((s.advance dt).obcStart dir).status OBC.pg OBC.CMD_LAST_STS .done).get64 OBC.pg x = 0 := by
      have hne : x.off ≠ OBC.CMD_LAST_STS.off ∧ x.off + 4 ≠ OBC.CMD_LAST_STS.off := by revert x; decide
      exact (State.get64_put_other _ _ hne.1 hne.2).trans (State.get64_obcStart _ dir hx)
    refine ⟨_, obcStart_precharges h ⟨hst, hcharge, hconn, htype, hpilot, hframe, hclear, hdir⟩, ?_, State.get_obcStatus ..,
      ?_, ?_, ?_, hcount (by decide), hcount (by decide), hcount (by decide), ?_⟩
    · exact (State.get_status_word _ _ (by decide) (by decide)).trans (State.get_obcStart_state ..)
    · rw [State.status_obc, State.obcStart_obc]; rfl
    · rw [State.status_obc, State.obcStart_obc]; rfl
    · rw [State.status_obc, State.obcStart_obc]; rfl
    · exact (State.get_status_word _ _ (by decide) (by decide)).trans (State.get_obcStart_tmr ..)
  · refine ⟨_, obcStopBound_stops hpow hst hfree hdue, State.get_obcGo_state _ (by decide),
      State.rd_obcStopped_none_iref _, ?_, ?_, ?_⟩ <;> rw [State.obcStopped_none_obc] <;> rfl
  · refine ⟨_, obcPfcInhibit_stops hpow hinhibit hdue, State.get_obcGo_state _ (by decide), State.get_obcStopped_cause ..,
      ?_, ?_⟩ <;> rw [State.obcStopped_cause_obc] <;> rfl

end Sys2Proof.Machine
end

section
/-! SUPPORT. What the operations that write registers leave: the words of a page beside theirs, by offset, and the parts of
the state that no register holds. -/

namespace Sys2Proof.Machine
open Sys2Proof

/-! ### The front of the queue -/

/-- Settles O1: `step` takes the front of the queue, and updates of the queue override each other. -/
theorem stepRunsTheFrontCommand : Obligations.StepRunsTheFrontCommand := fun _ _ => rfl

/-! ### Fields of a page by offset -/

theorem State.get_setWord_off (s : State) {p : Page} {x y : Fld} (v : W32) (h : y.off ≠ x.off) :
    (s.setWord p x v).get p y = s.get p y := State.get_eq_of_rd (s.rd_setWord_other v (fldAddr_ne_of_off h)) rfl

theorem State.get_put_off (s : State) {p : Page} {x y : Fld} (v : Nat) (h : y.off ≠ x.off) :
    (s.put p x v).get p y = s.get p y := s.get_put_word v (fldAddr_ne_of_off h)

theorem State.get_puts_off (s : State) {p : Page} {x y : Fld} (v : Int) (h : y.off ≠ x.off) :
    (s.puts p x v).get p y = s.get p y := s.get_put_off _ h

theorem State.get_flag_off (s : State) {p : Page} {x y : Fld} (b : Bool) (h : y.off ≠ x.off) :
    (s.flag p x b).get p y = s.get p y := s.get_put_off _ h

theorem State.get_flag_bits (s : State) {p q : Page} {x y : Fld} (b : Bool) (hl : x.lo ≤ x.hi + 1) (hh : x.hi < 32)
    (hd : y.hi < x.lo ∨ x.hi < y.lo) : (s.flag p x b).get q y = s.get q y := s.get_put_bits _ hl hh hd

theorem State.get_flag_same (s : State) {p : Page} {x : Fld} (b : Bool) (hp : inPage p x = true) (hw : x.hi = x.lo)
    (hh : x.hi < 32) : (s.flag p x b).get p x = b2n b := by
  rw [State.flag, s.get_put_same _ hp (by omega) hh, hw, Nat.add_sub_cancel_left]
  cases b <;> rfl

theorem State.get_putBit_off (s : State) {p : Page} {x y : Fld} (b : Nat) (v : Bool) (h : y.off ≠ x.off) :
    (s.putBit p x b v).get p y = s.get p y := s.get_put_off _ h

theorem State.get_incSat_off (s : State) {p : Page} {x y : Fld} (h : y.off ≠ x.off) : (s.incSat p x).get p y = s.get p y :=
  s.get_incSat_word (fldAddr_ne_of_off h)

theorem State.get_evt_off (s : State) {p : Page} {x y : Fld} (hq : inPage p y = true) (hd : p.blk ≠ .dma)
    (h : y.off ≠ 0x010) : (s.evt p x).get p y = s.get p y := s.get_evt_word hq hd (fldAddr_ne_of_off h)

theorem State.get_evtIf_off (s : State) {p : Page} {x y : Fld} (c : Bool) (hq : inPage p y = true) (hd : p.blk ≠ .dma)
    (h : y.off ≠ 0x010) : (s.evtIf c p x).get p y = s.get p y := by
  cases c
  · rfl
  · exact s.get_evt_off hq hd h

theorem State.rd_setWord_off (s : State) {p : Page} {x y : Fld} (v : W32) (h : y.off ≠ x.off) :
    (s.setWord p x v).rd (fldAddr p y) = s.rd (fldAddr p y) := s.rd_setWord_other v (fldAddr_ne_of_off h)

theorem State.rd_put_off (s : State) {p : Page} {x y : Fld} (v : Nat) (h : y.off ≠ x.off) :
    (s.put p x v).rd (fldAddr p y) = s.rd (fldAddr p y) := s.rd_put_word v (fldAddr_ne_of_off h)

theorem State.rd_flag_off (s : State) {p : Page} {x y : Fld} (b : Bool) (h : y.off ≠ x.off) :
    (s.flag p x b).rd (fldAddr p y) = s.rd (fldAddr p y) := s.rd_put_off _ h

theorem State.rd_incSat_off (s : State) {p : Page} {x y : Fld} (h : y.off ≠ x.off) :
    (s.incSat p x).rd (fldAddr p y) = s.rd (fldAddr p y) := s.rd_incSat_word (fldAddr_ne_of_off h)

theorem State.rd_status_off (s : State) {p : Page} {x y : Fld} (st : Status) (hx : y.off ≠ x.off) (he : y.off ≠ 0x02C) :
    (s.status p x st).rd (fldAddr p y) = s.rd (fldAddr p y) :=
  s.rd_status_word st (fldAddr_ne_of_off hx) (fldAddr_ne_of_off he)

theorem State.rd_evt_off (s : State) {p : Page} {x y : Fld} (hq : inPage p y = true) (hd : p.blk ≠ .dma)
    (h : y.off ≠ 0x010) : (s.evt p x).rd (fldAddr p y) = s.rd (fldAddr p y) :=
  s.rd_evt_word (blockAt_page hq) hd (fldAddr_ne_of_off h)

theorem State.rd_evtIf_off (s : State) {p : Page} {x y : Fld} (c : Bool) (hq : inPage p y = true) (hd : p.blk ≠ .dma)
    (h : y.off ≠ 0x010) : (s.evtIf c p x).rd (fldAddr p y) = s.rd (fldAddr p y) := by
  cases c
  · rfl
  · exact s.rd_evt_off hq hd h

/-- A whole word as a number. -/
theorem State.get_word (s : State) {p : Page} {x : Fld} (hlo : x.lo = 0) (hhi : x.hi = 31) :
    s.get p x = (s.rd (fldAddr p x)).toNat := by
  rw [State.get, bits, hlo, hhi]
  exact Nat.mod_eq_of_lt (s.rd (fldAddr p x)).isLt

/-! ### The parts that no register holds -/

/-- From `s` to `t` the parts of the blocks of this file are the same. -/
structure Unmoved (s t : State) : Prop where
  now : t.now = s.now
  dev : t.dev = s.dev
  act : t.act = s.act
  halo : t.halo = s.halo
  lks : t.lks = s.lks
  scf : t.scf = s.scf
  canH : t.canH = s.canH
  clf : t.clf = s.clf
  arb : t.arb = s.arb
  tmu : t.tmu = s.tmu

/-- Those parts. -/
def Part.unmoved : List Part := [.now, .dev, .act, .halo, .lks, .scf, .canH, .clf, .arb, .tmu]

theorem Unmoved.of_kept {F : List Part} {s t : State} (k : Kept F s t) (hF : ∀ q ∈ Part.unmoved, q ∉ F) : Unmoved s t where
  now := k.within .now (hF _ (by decide))
  dev := k.within .dev (hF _ (by decide))
  act := k.within .act (hF _ (by decide))
  halo := k.within .halo (hF _ (by decide))
  lks := k.within .lks (hF _ (by decide))
  scf := k.within .scf (hF _ (by decide))
  canH := k.within .canH (hF _ (by decide))
  clf := k.within .clf (hF _ (by decide))
  arb := k.within .arb (hF _ (by decide))
  tmu := k.within .tmu (hF _ (by decide))

theorem Unmoved.evt (s : State) (p : Page) (x : Fld) : Unmoved s (s.evt p x) :=
  .of_kept (.evt s p x) (by simp [Part.unmoved])

theorem Unmoved.evtIf (s : State) (c : Bool) (p : Page) (x : Fld) : Unmoved s (s.evtIf c p x) :=
  .of_kept (.evtIf s c p x) (by simp [Part.unmoved])

theorem Unmoved.incSat (s : State) (p : Page) (x : Fld) : Unmoved s (s.incSat p x) :=
  .of_kept (.incSat s p x) (by simp [Part.unmoved])

theorem Unmoved.status (s : State) (p : Page) (x : Fld) (st : Status) : Unmoved s (s.status p x st) :=
  .of_kept (.status s p x st) (by simp [Part.unmoved])

theorem Unmoved.put64 (s : State) (p : Page) (x : Fld) (v : Nat) : Unmoved s (s.put64 p x v) :=
  .of_kept (.put64 s p x v) (by simp [Part.unmoved])

theorem Unmoved.putBit (s : State) (p : Page) (x : Fld) (b : Nat) (v : Bool) : Unmoved s (s.putBit p x b v) :=
  .of_kept (.putBit s p x b v) (by simp [Part.unmoved])

theorem Unmoved.note (s : State) (code react machs aux : Nat) : Unmoved s (s.note code react machs aux) :=
  .of_kept (.note s code react machs aux) (by simp [Part.unmoved])

end Sys2Proof.Machine
end

section
/-! SUPPORT. O42 and O44: the target of an actuator channel, its commands, and the bound of a sequence (R298 to R304). -/

namespace Sys2Proof.Machine
open Sys2Proof

/-! ### The page and the hidden state of a channel -/

theorem inPage_act (n : Fin 6) {x : Fld} (hx : x.off < 0x1000) : inPage (ACT.pg n) x = true :=
  inPage_of_hasHeader (decide_eq_true n.isLt) rfl hx

@[simp] theorem State.actSt_advance (s : State) (dt : Nat) (n : Fin 6) : (s.advance dt).actSt n = s.actSt n := s.get_advance ..

@[simp] theorem State.actK_advance (s : State) (dt : Nat) (n : Fin 6) (j : Nat) : (s.advance dt).actK n j = s.actK n j :=
  s.rd_advance ..

@[simp] theorem State.actSensorless_advance (s : State) (dt : Nat) (n : Fin 6) :
    (s.advance dt).actSensorless n = s.actSensorless n := s.on_advance ..

@[simp] theorem State.actBrushed_advance (s : State) (dt : Nat) (n : Fin 6) :
    (s.advance dt).actBrushed n = s.actBrushed n := congrArg (· == 1) (s.get_advance ..)

@[simp] theorem State.ghbOk_advance (s : State) (dt l : Nat) : (s.advance dt).ghbOk l = s.ghbOk l := by
  simp [State.ghbOk]

@[simp] theorem State.actMayDrive_advance (s : State) (dt : Nat) (n : Fin 6) :
    (s.advance dt).actMayDrive n = s.actMayDrive n := by simp [State.actMayDrive]

@[simp] theorem State.actGone_advance (s : State) (dt : Nat) (n : Fin 6) : (s.advance dt).actGone n = s.actGone n := by
  simp [State.actGone]

@[simp] theorem State.vget_actSet (s : State) (n : Fin 6) (f : ActH → ActH) :
    vget (s.actSet n f).act n = f (vget s.act n) := vget_vset_same ..

@[simp] theorem State.actSet_regs (s : State) (n : Fin 6) (f : ActH → ActH) : (s.actSet n f).regs = s.regs := rfl

@[simp] theorem State.actSet_now (s : State) (n : Fin 6) (f : ActH → ActH) : (s.actSet n f).now = s.now := rfl

@[simp] theorem State.get_actSet (s : State) (n : Fin 6) (f : ActH → ActH) (p : Page) (x : Fld) :
    (s.actSet n f).get p x = s.get p x := rfl

@[simp] theorem State.rd_actSet (s : State) (n : Fin 6) (f : ActH → ActH) (a : Nat) : (s.actSet n f).rd a = s.rd a := rfl

@[simp] theorem State.actSt_actSet (s : State) (n : Fin 6) (f : ActH → ActH) : (s.actSet n f).actSt n = s.actSt n := rfl

theorem State.actIdlePins_regs (s : State) (n : Fin 6) (pat t : Nat) : (s.actIdlePins n pat t).regs = s.regs := rfl

theorem State.bemf_actIdlePins (s : State) (n : Fin 6) (pat t : Nat) :
    (vget (s.actIdlePins n pat t).act n).bemf = (vget s.act n).bemf := by
  rw [State.actIdlePins, State.vget_actSet]

/-! ### The target (R298, R299) -/

theorem State.actTarget_of_run {s : State} {n : Fin 6} (hrun : s.actSt n = 2) : s.actTarget n =
    if s.get (ACT.pg n) ACT.CFG_CSRC = 1 then
      if (vget s.act n).safePos then s.actK n 12 else (vget s.act n).pinTgt.getD (s.rd (fldAddr (ACT.pg n) ACT.TGT))
    else s.rd (fldAddr (ACT.pg n) ACT.TGT) := by
  simp only [State.actTarget, hrun, true_and]

theorem State.actTarget_of_seq {s : State} {n : Fin 6} (hseq : s.actSt n = 3) :
    s.actTarget n = s.rd (fldAddr (ACT.pg n) ACT.TGT) := if_neg (by omega)

theorem State.actTgt_taken {s : State} {req : Nat} {n : Fin 6} {val : W32} (hreq : req ≤ 1) : s.actTgt req n val =
    (if fclamp val (s.actK n 9) (s.actK n 10) ≠ val then s.incSat (ACT.pg n) ACT.CNT_CLAMPS else s).setWord (ACT.pg n)
      ACT.TGT (fclamp val (s.actK n 9) (s.actK n 10)) := if_neg (by omega)

theorem State.get_actTgt_clamps {s : State} {req : Nat} {n : Fin 6} {val : W32} (hreq : req ≤ 1) :
    (s.actTgt req n val).get (ACT.pg n) ACT.CNT_CLAMPS =
      if fclamp val (s.actK n 9) (s.actK n 10) = val then s.get (ACT.pg n) ACT.CNT_CLAMPS
      else min 255 (s.get (ACT.pg n) ACT.CNT_CLAMPS + 1) := by
  rw [State.actTgt_taken hreq, State.get_setWord_off _ _ (by decide)]
  by_cases hin : fclamp val (s.actK n 9) (s.actK n 10) = val
  · rw [if_neg (not_not.mpr hin), if_pos hin]
  · rw [if_pos hin, if_neg hin]
    exact s.get_incSat_same (inPage_act n (by decide)) (by decide) (by decide)

theorem actTgtWrite_taken {dt : Nat} {req : Req} {n : Fin 6} {val : W32} {s : State} (hreq : req.1 ≤ 1) :
    ∃ t, exec (.actTgtWrite dt req n val) s = .next t ∧
      t.rd (fldAddr (ACT.pg n) ACT.TGT) = fclamp val (s.actK n 9) (s.actK n 10) ∧
      t.get (ACT.pg n) ACT.CNT_CLAMPS = (if fclamp val (s.actK n 9) (s.actK n 10) = val then
        s.get (ACT.pg n) ACT.CNT_CLAMPS else min 255 (s.get (ACT.pg n) ACT.CNT_CLAMPS + 1)) := by
  refine ⟨_, rfl, ?_, ?_⟩
  · rw [State.actTgt_taken hreq, State.rd_setWord_same _ _ (inPage_act n (by decide)), State.actK_advance,
      State.actK_advance]
  · rw [State.get_actTgt_clamps hreq, State.actK_advance, State.actK_advance, State.get_advance]

/-- Settles O42: the two sources by state, and a write of `ACT_TGT` by its requester. -/
theorem actuatorTargetsComeFromTheirSource : Obligations.ActuatorTargetsComeFromTheirSource := by
  refine ⟨fun n s => ⟨fun hrun hsrc => ?_, fun v hrun hsrc hpin hsafe => ?_, State.actTarget_of_seq⟩,
    fun dt req n val s => ⟨actTgtWrite_taken, fun hreq => congrArg Host.Outcome.next (if_pos hreq)⟩⟩
  · rw [State.actTarget_of_run hrun, if_neg (by omega)]
  · rw [State.actTarget_of_run hrun, if_pos hsrc, hsafe, hpin]
    rfl

/-! ### A new state (R300) -/

theorem State.get_actGo_off (s : State) (n : Fin 6) (st : Nat) {y : Fld} (hx : y.off < 0x1000) (hstat : y.off ≠ 0x00C)
    (hevt : y.off ≠ 0x010) : (s.actGo n st).get (ACT.pg n) y = s.get (ACT.pg n) y := by
  rw [State.actGo, State.get_evtIf_off _ _ (inPage_act n hx) (by simp) hevt, State.get_put_off _ _ hstat, State.get_actSet]

/-- The other fields of the status word stand over a new state. -/
theorem State.get_actGo_beside (s : State) (n : Fin 6) (st : Nat) {y : Fld} (hy : y.off = 0x00C) (hlo : 2 < y.lo) :
    (s.actGo n st).get (ACT.pg n) y = s.get (ACT.pg n) y := by
  rw [State.actGo, State.get_evtIf_off _ _ (inPage_act n (by omega)) (by simp) (by omega),
    State.get_put_bits _ _ (by decide) (by decide) (.inr hlo), State.get_actSet]

theorem State.actSt_actGo (s : State) (n : Fin 6) {st : Nat} (hst : st < 8) : (s.actGo n st).actSt n = st := by
  rw [State.actSt, State.actGo, State.get_evtIf_off _ _ (inPage_act n (by decide)) (by simp) (by decide),
    State.get_put_same _ _ (inPage_act n (by decide)) (by decide) (by decide)]
  exact Nat.mod_eq_of_lt hst

theorem State.vget_actGo (s : State) (n : Fin 6) (st : Nat) : vget (s.actGo n st).act n =
    { vget s.act n with
      patNext := s.actPatOf n st, stale := if st = 2 ∨ st = 3 then (vget s.act n).stale else 0 } := by
  rw [State.actGo, (Unmoved.evtIf ..).act, State.put_act, State.vget_actSet]

/-! ### The commands (R301, R304) -/

/-- The state that a command of channel `n` meets: a sequence that ended in this tick still counts (R301). -/
def State.actMet (s : State) (n : Fin 6) : Nat :=
  if (vget s.act n).endAt = s.now + 1 ∧ s.actSt n ≠ 5 then 3 else s.actSt n

/-- The channel as a command that is carried out marks it, before its effect. -/
def State.actMarked (s : State) (n : Fin 6) : State := s.actSet n fun h => { h with
  cmdAt := s.now + 1, cmdWas := if (vget s.act n).cmdAt = s.now + 1 then h.cmdWas else s.actMet n, endAt := 0 }

/-- The same channel without sensorless operation. -/
def State.actUnled (s : State) (n : Fin 6) : State := s.actSet n fun h => { h with bemf := .off }

theorem State.actOp_of_awake {s : State} (h : s.dstate ≠ .safeHold) (dt : Nat) (n : Fin 6) (op : Nat) :
    (s.advance dt).actOp n op = (s.advance dt).actCmd n op := State.blockCmd_of_awake h ..

theorem State.get_actStatus (s : State) (n : Fin 6) (st : Status) :
    (s.status (ACT.pg n) ACT.CMD_LAST_STS st).get (ACT.pg n) ACT.CMD_LAST_STS = st.code :=
  s.get_status st (inPage_act n (by decide)) (by decide) (by decide) (by decide)

theorem State.get_actStatus_off (s : State) (n : Fin 6) (st : Status) {y : Fld} (h : y.off ≠ 0x058) (h' : y.off ≠ 0x02C) :
    (s.status (ACT.pg n) ACT.CMD_LAST_STS st).get (ACT.pg n) y = s.get (ACT.pg n) y := s.get_status_word st h h'

theorem State.actSt_status (s : State) (n : Fin 6) (st : Status) :
    (s.status (ACT.pg n) ACT.CMD_LAST_STS st).actSt n = s.actSt n := s.get_actStatus_off n st (by decide) (by decide)

/-- A command of channel `n` with its condition and its effect. -/
def State.actDo (s : State) (n : Fin 6) (ok : Bool) (f : State → State) : State :=
  s.command (ACT.pg n) ACT.CMD_LAST_STS ok fun u => f (u.actSet n fun h => { h with
    cmdAt := u.now + 1, cmdWas := if (vget s.act n).cmdAt = s.now + 1 then h.cmdWas else s.actMet n, endAt := 0 })

theorem State.actDo_done (s : State) (n : Fin 6) {ok : Bool} (h : ok = true) (f : State → State) :
    s.actDo n ok f = (f (s.actMarked n)).status (ACT.pg n) ACT.CMD_LAST_STS .done := State.command_done _ _ _ h _

/-- RUN and SEQ begin: a channel that does not drive yet aligns first (R295). -/
def State.actBegin (s u : State) (n : Fin 6) : State := if s.actMet n = 1 ∨ s.actMet n = 4 then u.actAlign n else u

theorem State.actCmd_run (s : State) (n : Fin 6) :
    s.actCmd n 1 = s.actDo n ((s.actMet n == 1 || s.actMet n == 4) && s.actMayDrive n) fun u => (s.actBegin u n).actGo n 2 :=
  rfl

theorem State.actCmd_seq (s : State) (n : Fin 6) :
    s.actCmd n 2 = s.actDo n ((s.actMet n == 1 || s.actMet n == 2 || s.actMet n == 4) && s.actMayDrive n) fun u =>
      ((s.actBegin u n).actGo n 3).actSet n fun h => { h with seqAt := u.now, seqN := 0 } := rfl

theorem State.actCmd_brake (s : State) (n : Fin 6) :
    s.actCmd n 3 = s.actDo n (s.actMet n == 2 || s.actMet n == 3) fun u => (u.actUnled n).actGo n 4 := rfl

theorem State.actCmd_stop (s : State) (n : Fin 6) :
    s.actCmd n 4 = s.actDo n (s.actMet n == 2 || s.actMet n == 3 || s.actMet n == 4) fun u =>
      ((u.actUnled n).actGo n 1).actIdlePins n 0 u.fineNow := rfl

theorem State.actCmd_ack (s : State) (n : Fin 6) :
    s.actCmd n 5 = s.actDo n (s.actMet n == 5 && s.actGone n) fun u =>
      (u.actGo n 1).actIdlePins n 0 u.fineNow := rfl

theorem State.actCmd_clrCnt (s : State) (n : Fin 6) :
    s.actCmd n 6 = s.actDo n true fun u => u.setWord (ACT.pg n) ACT.CNT 0 := rfl

theorem State.actCmd_setPos (s : State) (n : Fin 6) :
    s.actCmd n 7 = s.actDo n (s.actMet n == 1) fun u => u.setWord (ACT.pg n) ACT.POS 0 := rfl

/-- The start of a sensorless channel begins with alignment in sector 1 (R295). -/
theorem State.actAlign_aligns {s : State} {n : Fin 6} (hless : s.actSensorless n = true) :
    (vget (s.actAlign n).act n).bemf = .align s.now ∧ (s.actAlign n).get (ACT.pg n) ACT.STAT_SECT = 1 := by
  rw [State.actAlign, if_pos hless]
  exact ⟨by rw [State.put_act, State.vget_actSet],
    State.get_put_same _ 1 (inPage_act n (by decide)) (by decide) (by decide)⟩

section Commands

variable {dt : Nat} {req : Req} {n : Fin 6} {s : State} (h : s.dstate ≠ .safeHold)

include h

theorem actRun_runs (hst : (s.advance dt).actMet n = 1 ∨ (s.advance dt).actMet n = 4) (hdrive : s.actMayDrive n = true) :
    ∃ t, exec (.actRun dt req n) s = .next t ∧ t.actSt n = 2 ∧ t.get (ACT.pg n) ACT.CMD_LAST_STS = Status.done.code ∧
      (s.actSensorless n = true →
        (vget t.act n).bemf = .align (s.advance dt).now ∧ t.get (ACT.pg n) ACT.STAT_SECT = 1) := by
  have hcmd := ((State.actOp_of_awake h dt n 1).trans (State.actCmd_run ..)).trans
    (State.actDo_done _ _ (by simp [hst, hdrive]) _)
  rw [State.actBegin, if_pos hst] at hcmd
  refine ⟨_, congrArg Host.Outcome.next hcmd, ?_, State.get_actStatus .., fun hless => ?_⟩
  · rw [State.actSt_status, State.actSt_actGo _ _ (by decide)]
  · obtain ⟨hbemf, hsect⟩ := State.actAlign_aligns (s := (s.advance dt).actMarked n)
      ((s.actSensorless_advance dt n).trans hless)
    rw [(Unmoved.status ..).act, State.vget_actGo, State.get_actStatus_off _ _ _ (by decide) (by decide),
      State.get_actGo_beside _ _ _ rfl (by decide)]
    exact ⟨hbemf, hsect⟩

theorem actSeq_starts (hst : (s.advance dt).actMet n = 1 ∨ (s.advance dt).actMet n = 2 ∨ (s.advance dt).actMet n = 4)
    (hdrive : s.actMayDrive n = true) :
    ∃ t, exec (.actSeq dt req n) s = .next t ∧ t.actSt n = 3 ∧ t.get (ACT.pg n) ACT.CMD_LAST_STS = Status.done.code ∧
      (vget t.act n).seqAt = (s.advance dt).now := by
  have hcmd := ((State.actOp_of_awake h dt n 2).trans (State.actCmd_seq ..)).trans (State.actDo_done _ _
    (by rcases hst with hst | hst | hst <;> simp [hst, hdrive]) _)
  refine ⟨_, congrArg Host.Outcome.next hcmd, ?_, State.get_actStatus .., ?_⟩
  · rw [State.actSt_status, State.actSt_actSet, State.actSt_actGo _ _ (by decide)]
  · rw [(Unmoved.status ..).act, State.vget_actSet]
    rfl

theorem actBrake_brakes (hst : (s.advance dt).actMet n = 2 ∨ (s.advance dt).actMet n = 3) :
    ∃ t, exec (.actBrake dt req n) s = .next t ∧ t.actSt n = 4 ∧ (vget t.act n).bemf = .off ∧
      t.get (ACT.pg n) ACT.CMD_LAST_STS = Status.done.code := by
  have hcmd := ((State.actOp_of_awake h dt n 3).trans (State.actCmd_brake ..)).trans
    (State.actDo_done _ _ (by simp [hst]) _)
  refine ⟨_, congrArg Host.Outcome.next hcmd, ?_, ?_, State.get_actStatus ..⟩
  · rw [State.actSt_status, State.actSt_actGo _ _ (by decide)]
  · rw [(Unmoved.status ..).act, State.vget_actGo, State.actUnled, State.vget_actSet]

theorem actStop_stops
    (hst : (s.advance dt).actMet n = 2 ∨ (s.advance dt).actMet n = 3 ∨ (s.advance dt).actMet n = 4) :
    ∃ t, exec (.actStop dt req n) s = .next t ∧ t.actSt n = 1 ∧ (vget t.act n).bemf = .off ∧
      t.get (ACT.pg n) ACT.CMD_LAST_STS = Status.done.code := by
  have hcmd := ((State.actOp_of_awake h dt n 4).trans (State.actCmd_stop ..)).trans (State.actDo_done _ _
    (by rcases hst with hst | hst | hst <;> simp [hst]) _)
  refine ⟨_, congrArg Host.Outcome.next hcmd, ?_, ?_, State.get_actStatus ..⟩
  · exact (State.actSt_status ..).trans (State.actSt_actGo _ _ (by decide))
  · rw [(Unmoved.status ..).act, State.bemf_actIdlePins, State.vget_actGo, State.actUnled, State.vget_actSet]

theorem actAck_clears (hst : (s.advance dt).actMet n = 5) (hgone : s.actGone n = true) :
    ∃ t, exec (.actAck dt req n) s = .next t ∧ t.actSt n = 1 ∧
      t.get (ACT.pg n) ACT.CMD_LAST_STS = Status.done.code := by
  have hcmd := ((State.actOp_of_awake h dt n 5).trans (State.actCmd_ack ..)).trans
    (State.actDo_done _ _ (by simp [hst, hgone]) _)
  exact ⟨_, congrArg Host.Outcome.next hcmd, (State.actSt_status ..).trans (State.actSt_actGo _ _ (by decide)),
    State.get_actStatus ..⟩

theorem actClrCnt_clears : ∃ t, exec (.actClrCnt dt req n) s = .next t ∧ t.rd (fldAddr (ACT.pg n) ACT.CNT) = 0 ∧
    t.get (ACT.pg n) ACT.CMD_LAST_STS = Status.done.code := by
  have hcmd := ((State.actOp_of_awake h dt n 6).trans (State.actCmd_clrCnt ..)).trans (State.actDo_done _ _ rfl _)
  refine ⟨_, congrArg Host.Outcome.next hcmd, ?_, State.get_actStatus ..⟩
  rw [State.rd_status_off _ _ (by decide) (by decide), State.rd_setWord_same _ _ (inPage_act n (by decide))]

theorem actSetPos_zeroes (hst : (s.advance dt).actMet n = 1) : ∃ t, exec (.actSetPos dt req n) s = .next t ∧
    t.rd (fldAddr (ACT.pg n) ACT.POS) = 0 ∧ t.get (ACT.pg n) ACT.CMD_LAST_STS = Status.done.code := by
  have hcmd := ((State.actOp_of_awake h dt n 7).trans (State.actCmd_setPos ..)).trans
    (State.actDo_done _ _ (by simp [hst]) _)
  refine ⟨_, congrArg Host.Outcome.next hcmd, ?_, State.get_actStatus ..⟩
  rw [State.rd_status_off _ _ (by decide) (by decide), State.rd_setWord_same _ _ (inPage_act n (by decide))]

theorem actSetPos_refused (hst : (s.advance dt).actMet n ≠ 1) : exec (.actSetPos dt req n) s =
    .next ((s.advance dt).status (ACT.pg n) ACT.CMD_LAST_STS .illegalState) :=
  congrArg Host.Outcome.next (((State.actOp_of_awake h dt n 7).trans (State.actCmd_setPos ..)).trans
    (State.command_illegalState _ _ _ (by simp [hst]) _))

end Commands

theorem seqTimeout_faults {dt : Nat} {n : Fin 6} {s : State} (hpow : s.dev.off = false) (hseq : s.actSt n = 3)
    (hdue : (vget s.act n).seqAt + ticksOf (s.actK n 16) ≤ s.now + dt) :
    exec (.seqTimeout dt n) s = .next ((s.advance dt).actFault n 0x907 ACT.EVT_FAULT) := by
  refine if_pos ?_
  simp only [State.actSt_advance, State.advance_act, State.actK_advance, State.now_advance_of_on hpow]
  exact ⟨hseq, hdue⟩

/-- Settles O44: each clause is the lemma above about its command. -/
theorem actuatorCommandsAndSequences : Obligations.ActuatorCommandsAndSequences := by
  refine fun dt req n s st => ⟨fun h hmet => ?_, seqTimeout_faults⟩
  replace hmet : st = (s.advance dt).actMet n := by rw [hmet, State.actMet, State.advance_act, State.actSt_advance]
  subst hmet
  exact ⟨actRun_runs h, actSeq_starts h, actBrake_brakes h, actStop_stops h, actAck_clears h, actClrCnt_clears h,
    actSetPos_zeroes h, actSetPos_refused h⟩

end Sys2Proof.Machine
end

section
/-! SUPPORT. O43: the shadow compares of an actuator channel, its Hall inputs, and its sensorless start (R293 to R296). -/

namespace Sys2Proof.Machine
open Sys2Proof

/-! ### Shadow compares (R293) -/

@[simp] theorem State.actKeep_regs (s : State) (n : Fin 6) : (s.actKeep n).regs = s.regs := by
  unfold State.actKeep
  split <;> rfl

/-- The requester that `ACT_CFG.CMP_SRC` lets write the shadow compares (R293). -/
abbrev State.actSource (s : State) (req : Nat) (n : Fin 6) : Prop :=
  if s.on (ACT.pg n) ACT.CFG_CMP_SRC then req ≤ 2 else req = 7

theorem State.actSource_iff {s : State} {req : Nat} {n : Fin 6} : s.actSource req n ↔
    (if s.on (ACT.pg n) ACT.CFG_CMP_SRC then decide (req ≤ 2) else req == 7) = true := by
  unfold State.actSource
  split <;> simp

/-- A shadow compare as its source writes it. -/
def State.actWritten (s : State) (n : Fin 6) (leg : Fin 3) (val : Nat) : State :=
  (s.actKeep n).put (ACT.pg n) (ACT.CMP.ix leg) val

theorem State.actCmp_of_source {s : State} {req : Nat} {n : Fin 6} (h : s.actSource req n) (leg : Fin 3) (val : Nat) :
    s.actCmp req n leg val = if leg = 2 then (s.actWritten n leg val).flag (ACT.pg n) ACT.STAT_NEW true
      else s.actWritten n leg val := if_pos (State.actSource_iff.mp h)

theorem cmp_off (leg : Fin 3) : (ACT.CMP.ix leg).off ≠ 0x00C ∧ (ACT.CMP.ix leg).off < 0x1000 := by revert leg; decide

theorem State.get_actWritten_cmp (s : State) (n : Fin 6) (leg : Fin 3) (val : Nat) :
    (s.actWritten n leg val).get (ACT.pg n) (ACT.CMP.ix leg) = val % 2 ^ 20 :=
  State.get_put_same _ _ (inPage_act n (cmp_off leg).2) (by simp [Fld.ix, ACT.CMP]) (by simp [Fld.ix, ACT.CMP])

theorem State.on_actWritten_new (s : State) (n : Fin 6) (leg : Fin 3) (val : Nat) :
    (s.actWritten n leg val).on (ACT.pg n) ACT.STAT_NEW = s.on (ACT.pg n) ACT.STAT_NEW :=
  congrArg (· == 1) ((State.get_put_off _ _ (cmp_off leg).1.symm).trans (State.get_of_regs (s.actKeep_regs n) ..))

theorem State.get_actCmp_shadow {s : State} {req : Nat} {n : Fin 6} (h : s.actSource req n) (leg : Fin 3) (val : Nat) :
    (s.actCmp req n leg val).get (ACT.pg n) (ACT.CMP.ix leg) = val % 2 ^ 20 := by
  rw [State.actCmp_of_source h]
  split
  · rw [State.get_flag_off _ _ (cmp_off leg).1, State.get_actWritten_cmp]
  · exact s.get_actWritten_cmp ..

theorem State.on_actCmp_new {s : State} {req : Nat} {n : Fin 6} (h : s.actSource req n) (leg : Fin 3) (val : Nat) :
    (s.actCmp req n leg val).on (ACT.pg n) ACT.STAT_NEW = (decide (leg = 2) || s.on (ACT.pg n) ACT.STAT_NEW) := by
  rw [State.actCmp_of_source h]
  by_cases hlast : leg = 2
  · rw [if_pos hlast, State.on_flag_same _ _ (inPage_act n (by decide)) rfl (by decide), decide_eq_true hlast, Bool.true_or]
  · rw [if_neg hlast, State.on_actWritten_new, decide_eq_false hlast, Bool.false_or]

/-! ### Counts of the position (R296) -/

theorem State.vget_actCount (s : State) (n : Fin 6) (d : Int) : vget (s.actCount n d).act n = { vget s.act n with
    edgeAt := some s.now, edgeIv := (vget s.act n).edgeAt.map fun t => s.now - t, edgeDir := d } := by
  rw [State.actCount, State.puts, State.put_act, State.vget_actSet]

theorem State.get_actCount_pos (s : State) (n : Fin 6) (d : Int) :
    (s.actCount n d).get (ACT.pg n) ACT.POS = unsigned 32 (s.gets (ACT.pg n) ACT.POS + d) :=
  State.get_puts_same _ _ (inPage_act n (by decide)) (by decide) (by decide)

theorem State.get_actCount_off (s : State) (n : Fin 6) (d : Int) {y : Fld} (h : y.off ≠ 0x060) :
    (s.actCount n d).get (ACT.pg n) y = s.get (ACT.pg n) y := State.get_puts_off _ _ h

/-! ### Hall inputs (R294) -/

theorem hallSector_lt (dir : Bool) (st : BitVec 3) : hallSector dir st.toNat < 8 := by
  revert dir st
  decide

section Hall

variable {dt : Nat} {n : Fin 6} {st : BitVec 3} {s : State} (hon : s.actSt n ≠ 0) (hless : s.actSensorless n = false)
  (hbrushed : s.actBrushed n = false) (hnew : st.toNat ≠ (vget s.act n).hall)

/-- Channel `n` with a new Hall state. -/
def State.actHallTaken (s : State) (n : Fin 6) (v : Nat) : State := s.actSet n fun h => { h with hall := v }

include hon hless hbrushed hnew

theorem exec_actHallEdge : exec (.actHallEdge dt n st) s =
    let u := (s.advance dt).actHallTaken n st.toNat
    let k := hallSector (s.on (ACT.pg n) ACT.HALL_DIR) st.toNat
    let was := s.get (ACT.pg n) ACT.STAT_SECT
    if k = 0 then .next ((u.put (ACT.pg n) ACT.STAT_SECT 0).actFault n 0x904 ACT.EVT_FAULT)
    else if was = 0 ∨ was = k then .next (u.put (ACT.pg n) ACT.STAT_SECT k)
    else match sectorStep was k with
      | some d => .next ((u.put (ACT.pg n) ACT.STAT_SECT k).actCount n d)
      | none => .next ((u.put (ACT.pg n) ACT.STAT_SECT k).raise 0x905 1 0) := by
  have hon' : (s.advance dt).on (ACT.pg n) ACT.HALL_DIR = s.on (ACT.pg n) ACT.HALL_DIR := s.on_advance ..
  have hwas : (s.advance dt).get (ACT.pg n) ACT.STAT_SECT = s.get (ACT.pg n) ACT.STAT_SECT := s.get_advance ..
  refine (if_neg ?_).trans ((if_neg ?_).trans ?_)
  · rw [State.advance_act]
    rintro (h | h | h)
    · exact hon ((s.actSt_advance dt n).symm.trans h)
    · exact Bool.false_ne_true (hless.symm.trans ((s.actSensorless_advance dt n).symm.trans h))
    · exact hnew h
  · exact fun h => Bool.false_ne_true (hbrushed.symm.trans ((s.actBrushed_advance dt n).symm.trans h))
  · rw [← hon', ← hwas]
    rfl

theorem actHallEdge_counts {d : Int}
    (hstep : sectorStep (s.get (ACT.pg n) ACT.STAT_SECT) (hallSector (s.on (ACT.pg n) ACT.HALL_DIR) st.toNat) = some d)
    (hk : hallSector (s.on (ACT.pg n) ACT.HALL_DIR) st.toNat ≠ 0) (hwas : s.get (ACT.pg n) ACT.STAT_SECT ≠ 0)
    (hmoved : hallSector (s.on (ACT.pg n) ACT.HALL_DIR) st.toNat ≠ s.get (ACT.pg n) ACT.STAT_SECT) :
    ∃ t, exec (.actHallEdge dt n st) s = .next t ∧
      t.get (ACT.pg n) ACT.STAT_SECT = hallSector (s.on (ACT.pg n) ACT.HALL_DIR) st.toNat ∧
      t.get (ACT.pg n) ACT.POS = unsigned 32 (s.gets (ACT.pg n) ACT.POS + d) := by
  have hexec := exec_actHallEdge (dt := dt) hon hless hbrushed hnew
  simp only [if_neg hk, if_neg (not_or.mpr ⟨hwas, hmoved.symm⟩), hstep] at hexec
  refine ⟨_, hexec, ?_, ?_⟩
  · rw [State.get_actCount_off _ _ _ (by decide), State.get_put_same _ _ (inPage_act n (by decide)) (by decide) (by decide)]
    exact Nat.mod_eq_of_lt (hallSector_lt ..)
  · rw [State.get_actCount_pos, State.gets, State.get_put_off _ _ (by decide), State.actHallTaken, State.get_actSet,
      State.get_advance, State.gets]

theorem actHallEdge_faults (hk : hallSector (s.on (ACT.pg n) ACT.HALL_DIR) st.toNat = 0) : exec (.actHallEdge dt n st) s =
    .next ((((s.advance dt).actSet n fun h => { h with hall := st.toNat }).put (ACT.pg n) ACT.STAT_SECT 0).actFault n 0x904
      ACT.EVT_FAULT) :=
  (exec_actHallEdge hon hless hbrushed hnew).trans (if_pos hk)

end Hall

/-! ### Sensorless operation (R295) -/

theorem sectorNext_lt (a : Nat) (d : Int) : sectorNext a d < 8 := by
  unfold sectorNext
  split <;> omega

theorem State.get_actCommutate_sect (s : State) (n : Fin 6) :
    (s.actCommutate n).get (ACT.pg n) ACT.STAT_SECT = sectorNext (s.get (ACT.pg n) ACT.STAT_SECT) (s.actSign n) := by
  rw [State.actCommutate, State.get_actSet, State.get_actCount_off _ _ _ (by decide),
    State.get_put_same _ _ (inPage_act n (by decide)) (by decide) (by decide)]
  exact Nat.mod_eq_of_lt (sectorNext_lt ..)

theorem State.vget_actCommutate (s : State) (n : Fin 6) : (vget (s.actCommutate n).act n).bemf = (vget s.act n).bemf ∧
    (vget (s.actCommutate n).act n).advAt = (vget s.act n).advAt := by
  rw [State.actCommutate, State.vget_actSet, State.vget_actCount, State.put_act]
  exact ⟨rfl, rfl⟩

section Sensorless

variable {dt : Nat} {n : Fin 6} {s : State} (hpow : s.dev.off = false)

include hpow

theorem actAlignEnd_forces {t0 : Nat} (hst : (vget s.act n).bemf = .align t0)
    (hdue : t0 + ticksOf (fdiv (s.actK n 15) (fint 4)) ≤ s.now + dt) :
    ∃ t, exec (.actAlignEnd dt n) s = .next t ∧ (vget t.act n).bemf = .forced (s.now + dt) 0 (s.now + dt) 0 := by
  have hexec : exec (.actAlignEnd dt n) s = .next ((s.advance dt).actSet n fun h => { h with
      bemf := .forced (s.now + dt) 0 (s.now + dt) 0, sectAt := s.now + dt }) := by
    change execActAlignEnd dt n s = _
    simp only [execActAlignEnd, State.advance_act, hst, State.actK_advance, State.now_advance_of_on hpow, if_pos hdue]
  exact ⟨_, hexec, by rw [State.vget_actSet]⟩

theorem actForcedCommutation_steps {t0 k la g : Nat} (hst : (vget s.act n).bemf = .forced t0 k la g)
    (hdue : t0 + rampStep (s.actK n 14) (s.actK n 15) (k + 1) ≤ s.now + dt) :
    ∃ t, exec (.actForcedCommutation dt n) s = .next t ∧ (vget t.act n).bemf = .forced t0 (k + 1) (s.now + dt) g ∧
      t.get (ACT.pg n) ACT.STAT_SECT = sectorNext (s.get (ACT.pg n) ACT.STAT_SECT) (s.actSign n) := by
  have hexec : exec (.actForcedCommutation dt n) s = .next (((s.advance dt).actSet n fun h => { h with
      bemf := .forced t0 (k + 1) (s.now + dt) g }).actCommutate n) := by
    change execActForcedCommutation dt n s = _
    simp only [execActForcedCommutation, State.advance_act, hst, State.actK_advance, State.now_advance_of_on hpow, if_pos hdue]
  refine ⟨_, hexec, ?_, ?_⟩
  · rw [(State.vget_actCommutate ..).1, State.vget_actSet]
  · rw [State.get_actCommutate_sect, State.get_actSet, State.get_advance, State.actSign, State.vget_actSet,
      State.advance_act, State.actSign]

theorem actBemfEdge_hands_over {t0 k la g : Nat} (hst : (vget s.act n).bemf = .forced t0 k la g) (hgood : 5 ≤ g)
    (hnear : 4 * (s.now + dt - la) ≤ t0 + rampStep (s.actK n 14) (s.actK n 15) (k + 1) - la) :
    ∃ t, exec (.actBemfEdge dt n) s = .next t ∧ (vget t.act n).bemf = .run := by
  have hexec : exec (.actBemfEdge dt n) s = .next ((s.advance dt).actSet n fun h => { h with
      bemf := .run, advAt := some (s.now + dt + (t0 + rampStep (s.actK n 14) (s.actK n 15) (k + 1) - la) / 2),
      sectIv := t0 + rampStep (s.actK n 14) (s.actK n 15) (k + 1) - la }) := by
    change execActBemfEdge dt n s = _
    simp only [execActBemfEdge, State.advance_act, hst, State.actK_advance, State.now_advance_of_on hpow,
      decide_eq_true (Or.inl hnear), if_true, if_pos (show 6 ≤ g + 1 by omega)]
  exact ⟨_, hexec, by rw [State.vget_actSet]⟩

theorem sensorlessStart_faults {t0 k la g : Nat} (hst : (vget s.act n).bemf = .forced t0 k la g)
    (hdue : t0 + ticksOf (s.actK n 15) ≤ s.now + dt) :
    exec (.sensorlessStart dt n) s = .next ((s.advance dt).actFault n 0x90A ACT.EVT_FAULT) := by
  change execSensorlessStart dt n s = _
  simp only [execSensorlessStart, State.advance_act, hst, State.actK_advance, State.now_advance_of_on hpow, if_pos hdue]

theorem actBemfEdge_schedules (hst : (vget s.act n).bemf = .run) :
    ∃ t, exec (.actBemfEdge dt n) s = .next t ∧
      (vget t.act n).advAt = some (s.now + dt + (vget s.act n).sectIv / 2) := by
  have hexec : exec (.actBemfEdge dt n) s = .next ((s.advance dt).actSet n fun h => { h with
      advAt := some (s.now + dt + h.sectIv / 2) }) := by
    change execActBemfEdge dt n s = _
    simp only [execActBemfEdge, State.advance_act, hst, State.now_advance_of_on hpow]
  exact ⟨_, hexec, by rw [State.vget_actSet, State.advance_act]⟩

theorem actSectorAdvance_steps {x : Nat} (hst : (vget s.act n).bemf = .run) (hadv : (vget s.act n).advAt = some x)
    (hdue : x ≤ s.now + dt) : ∃ t, exec (.actSectorAdvance dt n) s = .next t ∧ (vget t.act n).advAt = none ∧
      t.get (ACT.pg n) ACT.STAT_SECT = sectorNext (s.get (ACT.pg n) ACT.STAT_SECT) (s.actSign n) := by
  have hexec : exec (.actSectorAdvance dt n) s =
      .next (((s.advance dt).actSet n fun h => { h with advAt := none }).actCommutate n) := by
    change execActSectorAdvance dt n s = _
    simp only [execActSectorAdvance, State.advance_act, hst, hadv, State.now_advance_of_on hpow, if_pos hdue]
  refine ⟨_, hexec, ?_, ?_⟩
  · rw [(State.vget_actCommutate ..).2, State.vget_actSet]
  · rw [State.get_actCommutate_sect, State.get_actSet, State.get_advance, State.actSign, State.vget_actSet,
      State.advance_act, State.actSign]

/-- Without an edge for 20 ms the speed is 0 (R296). -/
theorem actSpeedTimeout_stands {x : Nat} (hedge : (vget s.act n).edgeAt = some x) (hdue : x + 8000000 ≤ s.now + dt) :
    ∃ t, exec (.actSpeedTimeout dt n) s = .next t ∧ t.actSpeed n = 0 ∧ t.regs = s.regs := by
  have hexec : exec (.actSpeedTimeout dt n) s = .next ((s.advance dt).actSet n fun h => { h with edgeIv := none }) := by
    change execActSpeedTimeout dt n s = _
    simp only [execActSpeedTimeout, State.advance_act, hedge, State.now_advance_of_on hpow, if_pos hdue]
  refine ⟨_, hexec, ?_, by rw [State.actSet_regs, State.advance_regs]⟩
  simp only [State.actSpeed, State.vget_actSet, State.advance_act, hedge]

end Sensorless

/-- Settles O43: each clause is the lemma about its input above. -/
theorem actuatorsFollowTheirInputs : Obligations.ActuatorsFollowTheirInputs := by
  refine ⟨fun dt req n leg val s => ⟨fun hsrc => ?_, fun hsrc => ?_⟩, fun dt n st s hon hless hbrushed hnew =>
    ⟨fun d hstep hk hwas hmoved => actHallEdge_counts hon hless hbrushed hnew hstep hk hwas hmoved,
      actHallEdge_faults hon hless hbrushed hnew⟩, fun dt n s hpow =>
    ⟨fun t0 => actAlignEnd_forces hpow, fun t0 k la g hst => ⟨actForcedCommutation_steps hpow hst,
      actBemfEdge_hands_over hpow hst, sensorlessStart_faults hpow hst⟩,
      fun hst => ⟨actBemfEdge_schedules hpow hst, fun x => actSectorAdvance_steps hpow hst⟩,
      fun x => actSpeedTimeout_stands hpow⟩⟩
  · have hsrc' : (s.advance dt).actSource req n := by simpa [State.actSource] using hsrc
    exact ⟨_, rfl, State.get_actCmp_shadow hsrc' leg _, by rw [State.on_actCmp_new hsrc', State.on_advance]⟩
  · have hsrc' : ¬(s.advance dt).actSource req n := by simpa [State.actSource] using hsrc
    exact congrArg Host.Outcome.next (if_neg fun h => hsrc' (State.actSource_iff.mpr h))

end Sys2Proof.Machine
end

section
/-! SUPPORT. O45: the commit window of a lockstep pair, its comparisons, loads and asynchronous inputs (R307 to R318). -/

namespace Sys2Proof.Machine
open Sys2Proof

/-! ### Elements of array registers -/

theorem ix_off_ne_of_lt {x : Fld} {k : Nat} (h : k < x.off) (i : Nat) : (x.ix i).off ≠ k := by
  simp only [Fld.ix]
  omega

/-- Two fields of one element stand in different words if those of element 0 do. -/
theorem ix_off_ne {x y : Fld} (h : x.off ≠ y.off) (hs : x.stride = y.stride) (i : Nat) : (x.ix i).off ≠ (y.ix i).off := by
  simp only [Fld.ix, hs]
  omega

theorem State.get_put_ix_bits (s : State) {p : Page} {x y : Fld} {i j : Nat} (v : Nat) (hl : x.lo ≤ x.hi + 1)
    (hh : x.hi < 32) (hd : y.hi < x.lo ∨ x.hi < y.lo) : (s.put p (x.ix i) v).get p (y.ix j) = s.get p (y.ix j) :=
  s.get_put_bits v hl hh hd

theorem State.get_put_ix_same (s : State) {p : Page} {x : Fld} {i : Nat} (v : Nat) (hp : inPage p (x.ix i) = true)
    (hl : x.lo ≤ x.hi + 1) (hh : x.hi < 32) : (s.put p (x.ix i) v).get p (x.ix i) = v % 2 ^ (x.hi + 1 - x.lo) :=
  s.get_put_same v hp hl hh

theorem State.rd_put_ix_off (s : State) {p : Page} {x y : Fld} {i : Nat} (v : Nat) (h : y.off ≠ x.off)
    (hs : y.stride = x.stride := by decide) : (s.put p (x.ix i) v).rd (fldAddr p (y.ix i)) = s.rd (fldAddr p (y.ix i)) :=
  s.rd_put_off v (ix_off_ne h hs i)

/-! ### The page and the hidden state of a pair -/

theorem inPage_lks {x : Fld} (hx : x.off < 0x1000) : inPage LKS.pg x = true := inPage_of_hasHeader rfl rfl hx

theorem inPage_pair (i : Fin 3) {x : Fld} (hx : x.off < 0x100) (hs : x.stride = 32) : inPage LKS.pg (x.ix i) = true :=
  inPage_lks (by simp only [Fld.ix, hs]; omega)

@[simp] theorem State.pairOf_advance (s : State) (dt : Nat) (i : Fin 3) : (s.advance dt).pairOf i = s.pairOf i :=
  congrArg (fun l : LksH => vget l.pairs i) (s.advance_lks dt)

@[simp] theorem State.pairOf_pairSet (s : State) (i : Fin 3) (f : PairH → PairH) : (s.pairSet i f).pairOf i = f (s.pairOf i) :=
  vget_vset_same ..

theorem State.pairOf_of_lks {s t : State} (h : t.lks = s.lks) (i : Fin 3) : t.pairOf i = s.pairOf i :=
  congrArg (fun l : LksH => vget l.pairs i) h

@[simp] theorem State.pairSet_regs (s : State) (i : Fin 3) (f : PairH → PairH) : (s.pairSet i f).regs = s.regs := rfl

@[simp] theorem State.get_pairSet (s : State) (i : Fin 3) (f : PairH → PairH) (p : Page) (x : Fld) :
    (s.pairSet i f).get p x = s.get p x := rfl

@[simp] theorem State.rd_pairSet (s : State) (i : Fin 3) (f : PairH → PairH) (a : Nat) : (s.pairSet i f).rd a = s.rd a := rfl

/-! ### A first mismatch (R313, R314) -/

/-- Two different words differ in a lane. -/
theorem firstLane_lt {n : Nat} {a b : BitVec n} (h : a ≠ b) : firstLane n a.toNat b.toNat < n := by
  rw [firstLane]
  cases hfind : (List.range n).find? fun i => a.toNat.testBit i != b.toNat.testBit i with
  | some i => exact List.mem_range.mp (List.mem_of_find?_eq_some hfind)
  | none =>
    refine absurd (BitVec.eq_of_getLsbD_eq fun i hi => ?_) h
    have hsame := List.find?_eq_none.mp hfind i (List.mem_range.mpr hi)
    simpa [BitVec.getLsbD] using hsame

/-- What a first mismatch leaves: the record of the pair, and the window discarded for a retry of `n` entries. -/
structure State.Retries (s t : State) (i : Fin 3) (cause lane n : Nat) : Prop where
  cause : t.get LKS.pg (LKS.PLAST_CAUSE.ix i) = cause
  lane : t.get LKS.pg (LKS.PLAST_LANE.ix i) = lane
  outcome : t.get LKS.pg (LKS.PLAST_OUTCOME.ix i) = 1
  place : t.rd (fldAddr LKS.pg (LKS.PPC.ix i)) = (s.pairOf i).pc
  pair : t.pairOf i = { s.pairOf i with win := [], retry := some n }

/-- The record of a mismatch, up to its outcome. -/
def State.recorded (s : State) (i : Fin 3) (cause lane pos : Nat) : State :=
  (((((s.put LKS.pg (LKS.PLAST_CAUSE.ix i) cause).put LKS.pg (LKS.PLAST_LANE.ix i) lane).put LKS.pg (LKS.PLAST_SLOT.ix i)
    (((s.pairOf i).slot + pos) % 8)).setWord LKS.pg (LKS.PPC.ix i) (s.pairOf i).pc).put64 LKS.pg (LKS.PSTAMP_LO.ix i) s.now)

theorem State.recorded_lks (s : State) (i : Fin 3) (cause lane pos : Nat) : (s.recorded i cause lane pos).lks = s.lks := by
  rw [State.recorded, (Unmoved.put64 ..).lks, State.setWord_lks, State.put_lks, State.put_lks, State.put_lks]

theorem State.rd_recorded_off (s : State) (i : Fin 3) (cause lane pos : Nat) {y : Fld} (hs : y.stride = 32)
    (hlo : y.off ≠ 0x090) (hhi : y.off ≠ 0x094) : (s.recorded i cause lane pos).rd (fldAddr LKS.pg (y.ix i)) =
      ((((s.put LKS.pg (LKS.PLAST_CAUSE.ix i) cause).put LKS.pg (LKS.PLAST_LANE.ix i) lane).put LKS.pg
        (LKS.PLAST_SLOT.ix i) (((s.pairOf i).slot + pos) % 8)).setWord LKS.pg (LKS.PPC.ix i) (s.pairOf i).pc).rd
          (fldAddr LKS.pg (y.ix i)) := by
  refine State.rd_put64_word _ _ (fldAddr_ne_of_off (ix_off_ne hlo hs i)) (fldAddr_ne_of_off ?_)
  simp only [Fld.ix, LKS.PSTAMP_LO, hs]
  omega

theorem State.get_recorded_last (s : State) (i : Fin 3) (cause lane pos : Nat) {y : Fld} (hs : y.stride = 32)
    (hy : y.off = 0x088) (hd : y.hi < 16 ∨ 18 < y.lo) : (s.recorded i cause lane pos).get LKS.pg (y.ix i) =
      ((s.put LKS.pg (LKS.PLAST_CAUSE.ix i) cause).put LKS.pg (LKS.PLAST_LANE.ix i) lane).get LKS.pg (y.ix i) := by
  rw [State.get_eq_of_rd (s.rd_recorded_off i cause lane pos hs (by omega) (by omega)) rfl,
    State.get_setWord_off _ _ (ix_off_ne (by rw [hy]; decide) hs i)]
  exact State.get_put_bits _ _ (show LKS.PLAST_SLOT.lo ≤ LKS.PLAST_SLOT.hi + 1 by decide) (show LKS.PLAST_SLOT.hi < 32 by decide) hd

/-- A mismatch while no retry runs. -/
theorem State.mismatch_retries {s : State} {i : Fin 3} {cause lane : Nat} (pos n : Nat) (hcause : cause < 16)
    (hlane : lane < 256) (hretry : (s.pairOf i).retry = none) :
    s.Retries (s.mismatch i cause lane pos n) i cause lane n := by
  have heq : s.mismatch i cause lane pos n = (((s.recorded i cause lane pos).put LKS.pg (LKS.PLAST_OUTCOME.ix i) 1).putBit
      LKS.pg LKS.STAT_RETRY i true).pairSet i fun h => { h with win := [], retry := some n } := by
    simp only [State.mismatch, State.recorded, hretry, Option.isSome_none, Bool.false_eq_true, if_false, State.put_now]
  have hstat {y : Fld} (hy : 0x00C < y.off) (t : State) :
      (t.putBit LKS.pg LKS.STAT_RETRY i true).get LKS.pg (y.ix i) = t.get LKS.pg (y.ix i) :=
    t.get_putBit_off _ _ (ix_off_ne_of_lt hy i)
  have hlo (x : Fld) (t : State) (hd : LKS.PLAST_OUTCOME.hi < x.lo) :
      (t.put LKS.pg (LKS.PLAST_OUTCOME.ix i) 1).get LKS.pg (x.ix i) = t.get LKS.pg (x.ix i) :=
    t.get_put_ix_bits _ (by decide) (by decide) (.inr hd)
  rw [heq]
  constructor
  · rw [State.get_pairSet, hstat (by decide), hlo _ _ (by decide), State.get_recorded_last _ _ _ _ _ rfl rfl (by decide),
      State.get_put_ix_bits _ _ (by decide) (by decide) (by decide),
      State.get_put_ix_same _ _ (inPage_pair i (by decide) rfl) (by decide) (by decide)]
    exact Nat.mod_eq_of_lt hcause
  · rw [State.get_pairSet, hstat (by decide), hlo _ _ (by decide), State.get_recorded_last _ _ _ _ _ rfl rfl (by decide),
      State.get_put_ix_same _ _ (inPage_pair i (by decide) rfl) (by decide) (by decide)]
    exact Nat.mod_eq_of_lt hlane
  · rw [State.get_pairSet, hstat (by decide)]
    exact State.get_put_ix_same _ _ (inPage_pair i (by decide) rfl) (by decide) (by decide)
  · rw [State.rd_pairSet, State.putBit, State.rd_put_off _ _ (ix_off_ne_of_lt (by decide) i),
      State.rd_put_ix_off _ _ (by decide), State.rd_recorded_off _ _ _ _ _ rfl (by decide) (by decide),
      State.rd_setWord_same _ _ (inPage_pair i (by decide) rfl)]
  · rw [State.pairOf_pairSet, State.pairOf_of_lks ((Unmoved.putBit ..).lks.trans (State.put_lks ..)),
      State.pairOf_of_lks (s.recorded_lks i cause lane pos)]

/-- The same in a state that differs from `s` in the time alone. -/
theorem State.Retries.of_advance {s t : State} {dt : Nat} {i : Fin 3} {cause lane n : Nat}
    (h : (s.advance dt).Retries t i cause lane n) : s.Retries t i cause lane n where
  cause := h.cause
  lane := h.lane
  outcome := h.outcome
  place := by rw [h.place, State.pairOf_advance]
  pair := by rw [h.pair, State.pairOf_advance]

/-! ### Retirement (R307, R310) -/

section Pair

variable {dt : Nat} {i : Fin 3} {s : State} (hpow : s.dev.off = false) (hrun : (s.pairOf i).run = true)

include hpow hrun

section Live

variable (hlive : (s.pairOf i).halted = false)

include hlive

/-- The pair executes. -/
theorem State.not_stuck : ¬(¬((s.advance dt).pairOf i).live = true ∨ (s.advance dt).dev.off = true) := by
  rw [State.pairOf_advance, State.advance_dev, PairH.live, hrun, hlive, hpow]
  decide

theorem instructionRetire_enters {w : BitVec 192} (hfew : (s.pairOf i).win.length < 8)
    (hfree : (s.pairOf i).haltReq = false) : ∃ t, exec (.instructionRetire dt i .main w) s = .next t ∧
      (t.pairOf i).win = (s.pairOf i).win ++ [⟨w, s.now + dt, none⟩] ∧ t.regs = s.regs := by
  refine ⟨_, (if_neg (State.not_stuck hpow hrun hlive)).trans (if_neg ?_), ?_, ?_⟩
  · rw [State.pairOf_advance, hfree]
    rintro (h | ⟨h, -⟩)
    · omega
    · cases h
  · rw [State.pairOf_pairSet, State.pairOf_advance, State.now_advance_of_on hpow]
  · rw [State.pairSet_regs, State.advance_regs]

theorem instructionRetire_checks {w : BitVec 192} {k : Nat}
    (hk : ((s.pairOf i).win.findIdx? fun e => e.chk.isNone) = some k) :
    ∃ t, exec (.instructionRetire dt i .checker w) s = .next t ∧
      (t.pairOf i).win = (s.pairOf i).win.modify k (fun e => { e with chk := some w }) ∧ t.regs = s.regs := by
  have hexec : exec (.instructionRetire dt i .checker w) s = .next ((s.advance dt).pairSet i fun h => { h with
      win := h.win.modify k fun e => { e with chk := some w } }) := by
    refine (if_neg (State.not_stuck hpow hrun hlive)).trans ?_
    simp only [State.pairOf_advance, hk]
  refine ⟨_, hexec, ?_, ?_⟩
  · rw [State.pairOf_pairSet, State.pairOf_advance]
  · rw [State.pairSet_regs, State.advance_regs]

/-! ### Early comparison (R311, R312) -/

theorem earlyCompare_issues {a : W32} {be : BitVec 4} {u : CmpUpset} (hu : u = .none ∨ u = .blind)
    (hfew : (s.pairOf i).win.length < 8) (hloads : (s.pairOf i).loads.length ≤ (s.pairOf i).win.length) :
    ∃ t, exec (.earlyCompare dt i be a be a u) s = .next t ∧
      (t.pairOf i).loads[(s.pairOf i).win.length]? = some (some ⟨a.toNat, be.toNat, none⟩) := by
  have hexec : exec (.earlyCompare dt i be a be a u) s = .next ((s.advance dt).pairSet i fun h => { h with
      loads := h.loads ++ List.replicate ((s.pairOf i).win.length - h.loads.length) none ++
        [some ⟨a.toNat, be.toNat, none⟩] }) := by
    have hnone : (s.pairOf i).loads[(s.pairOf i).win.length]? = none := List.getElem?_eq_none hloads
    have hgo := not_or.mp (State.not_stuck (dt := dt) hpow hrun hlive)
    refine (if_neg (not_or.mpr ⟨hgo.1, not_or.mpr ⟨hgo.2, ?_⟩⟩)).trans ?_
    · rw [State.pairOf_advance]; omega
    · rcases hu with rfl | rfl <;> simp only [ne_eq, not_true_eq_false, if_false, State.pairOf_advance, hnone]
  refine ⟨_, hexec, ?_⟩
  have hlen : (s.pairOf i).win.length =
      ((s.pairOf i).loads ++ List.replicate ((s.pairOf i).win.length - (s.pairOf i).loads.length) none).length := by
    simp only [List.length_append, List.length_replicate]
    omega
  rw [State.pairOf_pairSet, State.pairOf_advance]
  exact (congrArg _ hlen).trans List.getElem?_concat_length

theorem earlyCompare_mismatch {a a' : W32} {be be' : BitVec 4} {u : CmpUpset} (hu : u = .none ∨ u = .blind)
    (hfew : (s.pairOf i).win.length < 8) (hne : a ≠ a') (hretry : (s.pairOf i).retry = none) :
    ∃ t, exec (.earlyCompare dt i be a be' a' u) s = .next t ∧
      s.Retries t i 1 (84 + firstLane 32 a.toNat a'.toNat) ((s.pairOf i).win.length + 1) := by
  have hexec : exec (.earlyCompare dt i be a be' a' u) s = .next ((s.advance dt).mismatch i 1
      (84 + firstLane 32 a.toNat a'.toNat) (s.pairOf i).win.length ((s.pairOf i).win.length + 1)) := by
    have hgo := not_or.mp (State.not_stuck (dt := dt) hpow hrun hlive)
    refine (if_neg (not_or.mpr ⟨hgo.1, not_or.mpr ⟨hgo.2, ?_⟩⟩)).trans ?_
    · rw [State.pairOf_advance]; omega
    · rcases hu with rfl | rfl <;> simp only [if_pos hne, State.pairOf_advance, hretry]
  have hlane := firstLane_lt hne
  exact ⟨_, hexec, .of_advance (State.mismatch_retries _ _ (by decide) (by omega) (by rw [State.pairOf_advance, hretry]))⟩

theorem lagTimeout_early {age : Nat} (hage : s.get LKS.pg LKS.CFG_LAG_MAX ≤ age) (hfew : (s.pairOf i).win.length < 8)
    (hretry : (s.pairOf i).retry = none) : ∃ t, exec (.lagTimeout dt i (some age)) s = .next t ∧
      s.Retries t i 2 0xFF ((s.pairOf i).win.length + 1) := by
  have hexec : exec (.lagTimeout dt i (some age)) s = .next ((s.advance dt).mismatch i 2 0xFF (s.pairOf i).win.length
      ((s.pairOf i).win.length + 1)) := by
    change execLagTimeout dt i (some age) s = _
    simp [execLagTimeout, hrun, hpow, hlive, hage, hfew, hretry]
  exact ⟨_, hexec, .of_advance (State.mismatch_retries _ _ (by decide) (by decide) (by rw [State.pairOf_advance, hretry]))⟩

end Live

/-! ### The comparison of the oldest entry (R310, R313) -/

section Compare

variable {e : Entry} {es : List Entry} (hwin : (s.pairOf i).win = e :: es) (hretry : (s.pairOf i).retry = none)

include hwin hretry

theorem lagTimeout_late (hchk : e.chk = none) (hlate : e.mainAt + s.get LKS.pg LKS.CFG_LAG_MAX ≤ s.now + dt) :
    ∃ t, exec (.lagTimeout dt i none) s = .next t ∧ s.Retries t i 2 0xFF (s.pairOf i).win.length := by
  have hfirst : ((s.pairOf i).win.findIdx? fun e => e.chk.isNone && decide (e.mainAt + s.get LKS.pg LKS.CFG_LAG_MAX ≤
      s.now + dt)) = some 0 := by
    rw [hwin, List.findIdx?_cons, hchk, decide_eq_true hlate]
    rfl
  have hexec : exec (.lagTimeout dt i none) s = .next ((s.advance dt).mismatch i 2 0xFF 0 (s.pairOf i).win.length) := by
    change execLagTimeout dt i none s = _
    simp only [execLagTimeout, State.pairOf_advance, State.advance_dev, State.get_advance, State.now_advance_of_on hpow,
      hrun, hpow, hretry, hfirst, not_true_eq_false, Bool.false_eq_true, or_self, if_false]
  exact ⟨_, hexec, .of_advance (State.mismatch_retries _ _ (by decide) (by decide) (by rw [State.pairOf_advance, hretry]))⟩

variable {c : BitVec 192} {u : CmpUpset} (hchk : e.chk = some c) (hload : (s.pairOf i).loaded e.main = true)
  (hu : u = .none ∨ u = .blind)

include hchk hload hu

theorem exec_compareEntry : exec (.compareEntry dt i u) s = if e.main = c then .next ((s.advance dt).commitEntry i c)
    else .next ((s.advance dt).mismatch i 1 (firstLane 192 e.main.toNat c.toNat) 0 (s.pairOf i).win.length) := by
  change execCompareEntry dt i u s = _
  rcases hu with rfl | rfl <;>
    simp only [execCompareEntry, State.pairOf_advance, State.advance_dev, hwin, hchk, hretry, hrun, hpow, hload,
      not_true_eq_false, Bool.false_eq_true, or_self, if_false]

theorem compareEntry_mismatch (hne : e.main ≠ c) : ∃ t, exec (.compareEntry dt i u) s = .next t ∧
    s.Retries t i 1 (firstLane 192 e.main.toNat c.toNat) (s.pairOf i).win.length := by
  have hlane := firstLane_lt hne
  exact ⟨_, (exec_compareEntry hpow hrun hwin hretry hchk hload hu).trans (if_neg hne),
    .of_advance (State.mismatch_retries _ _ (by decide) (by omega) (by rw [State.pairOf_advance, hretry]))⟩

omit hpow hrun hwin hretry hchk hload hu in
/-- An entry's word moves the registers of the pair and its place, not its window. -/
theorem PairH.take_window (h : PairH) (w : BitVec 192) : (h.take w).win = h.win ∧ (h.take w).loads = h.loads ∧
    (h.take w).count = h.count ∧ (h.take w).retry = h.retry ∧ (h.take w).pc = BitVec.ofNat 32 (lanes w 191 160) := by
  unfold PairH.take
  dsimp only
  split_ifs <;> exact ⟨rfl, rfl, rfl, rfl, rfl⟩

/-- An entry that stores nothing, and that no retry counts. -/
theorem compareEntry_commits (heq : e.main = c) (hstore : lanes c 153 152 ≠ 2) :
    ∃ t, exec (.compareEntry dt i u) s = .next t ∧ (t.pairOf i).win = es ∧
      (t.pairOf i).loads = (s.pairOf i).loads.tail ∧ (t.pairOf i).pc = BitVec.ofNat 32 (lanes c 191 160) ∧
      (t.pairOf i).count = (s.pairOf i).count + 1 ∧ t.regs = s.regs := by
  obtain ⟨hw, hl, hc, hr, hp⟩ := (s.pairOf i).take_window c
  have hcommit : (s.advance dt).commitEntry i c = (s.advance dt).pairSet i fun h => { h.take c with
      win := (h.take c).win.tail, slot := ((h.take c).slot + 1) % 8, loads := (h.take c).loads.tail
      count := (h.take c).count + 1, fifo := (h.take c).fifo.filter fun e => decide ((h.take c).count < e.instr) } := by
    simp only [State.commitEntry, if_neg hstore, State.pairOf_pairSet, State.pairOf_advance, hr, hretry]
  refine ⟨_, (exec_compareEntry hpow hrun hwin hretry hchk hload hu).trans ((if_pos heq).trans
    (congrArg Host.Outcome.next hcommit)), ?_⟩
  rw [State.pairOf_pairSet, State.pairOf_advance, State.pairSet_regs, State.advance_regs, hw, hl, hc, hp, hwin]
  exact ⟨rfl, rfl, rfl, rfl, rfl⟩

end Compare

/-! ### Asynchronous inputs (R317, R324) -/

section Inputs

variable (hretry : (s.pairOf i).retry = none) (hroom : (s.pairOf i).fifo.length < 16)

include hretry hroom

omit hpow hrun hretry hroom in
@[simp] theorem State.irqAsserted_advance (v : Nat) : (s.advance dt).irqAsserted i v = s.irqAsserted i v := by
  unfold State.advance
  split <;> rfl

theorem asyncInputTaken_interrupt {c : W32} (hlive : (s.pairOf i).halted = false)
    (hirq : s.irqAsserted i (c.toNat % 256) = true) : ∃ t, exec (.asyncInputTaken dt i (.interrupt c)) s = .next t ∧
      (t.pairOf i).fifo = (s.pairOf i).fifo ++ [⟨(s.pairOf i).count + (s.pairOf i).win.length, 0, c.toNat⟩] := by
  refine ⟨_, if_pos ?_, ?_⟩
  · simp [hrun, hroom, hretry, hlive, hirq, hpow]
  · exact (congrArg PairH.fifo (State.pairOf_pairSet ..)).trans
      (congrArg (fun h : PairH => h.fifo ++ [⟨h.count + h.win.length, 0, c.toNat⟩]) (s.pairOf_advance dt i))

theorem asyncInputTaken_timeRead (hlive : (s.pairOf i).halted = false) :
    ∃ t, exec (.asyncInputTaken dt i .timeRead) s = .next t ∧ (t.pairOf i).fifo = (s.pairOf i).fifo ++
      [⟨(s.pairOf i).count + (s.pairOf i).win.length, 3, (s.now + dt) % 2 ^ 64⟩] := by
  refine ⟨_, if_pos ?_, ?_⟩
  · simp [hrun, hroom, hretry, hlive, hpow, asyncDebug]
  · refine (congrArg PairH.fifo (State.pairOf_pairSet ..)).trans ?_
    rw [← State.now_advance_of_on hpow]
    exact congrArg (fun h : PairH => h.fifo ++ [⟨h.count + h.win.length, 3, (s.advance dt).now % 2 ^ 64⟩])
      (s.pairOf_advance dt i)

theorem asyncInputTaken_debugPc {v : W32} (hhalt : (s.pairOf i).halted = true) :
    ∃ t, exec (.asyncInputTaken dt i (.debugPc v)) s = .next t ∧ (t.pairOf i).pc = v := by
  refine ⟨_, if_pos ?_, congrArg PairH.pc (State.pairOf_pairSet ..)⟩
  simp [hrun, hroom, hretry, hhalt, hpow, asyncDebug]

end Inputs

end Pair

/-! ### Loads (R311, R314) -/

/-- An issued load that has no response yet. -/
def loadWaits (x : Option LoadSlot) : Bool :=
  match x with
  | some l => l.resp.isNone
  | none => false

/-- The read of a load on the bus, as its pair. -/
def State.loadRead (s : State) (i : Fin 3) (l : LoadSlot) : Option W32 × State :=
  (s.granted i (l.addr / 4 * 4 + (enabledBytes l.be).1)).busRead i (l.addr / 4 * 4 + (enabledBytes l.be).1)
    (enabledBytes l.be).2

theorem State.loadRead_lks (s : State) (i : Fin 3) (l : LoadSlot) : (s.loadRead i l).2.lks = s.lks :=
  ((Kept.busRead ..).within .lks (by simp [Part.andRegs, Part.allRegs])).trans ((Kept.granted ..).within .lks (by simp))

/-- The pair with the response of its load in the agreement buffer. -/
def State.loadAnswered (s : State) (i : Fin 3) (k : Nat) (l : LoadSlot) (r : Option W32) : State :=
  (s.answer (match r with
    | some v => .data v
    | none => .error)).pairSet i fun h => { h with loads := h.loads.set k (some { l with resp := some (r.getD 0, r.isNone) }) }

theorem State.loads_loadAnswered (s : State) (i : Fin 3) (k : Nat) (l : LoadSlot) (r : Option W32) :
    ∃ x, ((s.loadAnswered i k l r).pairOf i).loads = (s.pairOf i).loads.set k (some { l with resp := some x }) :=
  ⟨_, congrArg PairH.loads (State.pairOf_pairSet ..)⟩

theorem exec_loadResponse {dt : Nat} {i : Fin 3} {s : State} {k : Nat} {l : LoadSlot}
    (hk : (s.pairOf i).loads.findIdx? loadWaits = some k) (hl : (s.pairOf i).loads[k]? = some (some l))
    (hbank : (s.advance dt).bankBusy (l.addr / 4 * 4 + (enabledBytes l.be).1) = false) : exec (.loadResponse dt i) s =
      .next (((s.advance dt).loadRead i l).2.loadAnswered i k l ((s.advance dt).loadRead i l).1) := by
  change execLoadResponse dt i s = _
  unfold execLoadResponse
  dsimp only
  split
  next hnone =>
    rw [State.pairOf_advance] at hnone
    exact absurd (hk.symm.trans hnone) (by simp)
  next k' hk' =>
    rw [State.pairOf_advance] at hk'
    obtain rfl : k = k' := Option.some.inj (hk.symm.trans hk')
    simp only [State.pairOf_advance, hl, hbank, Bool.false_eq_true, if_false]
    rfl

theorem loadResponse_answers {dt : Nat} {i : Fin 3} {s : State} {k : Nat} {l : LoadSlot}
    (hk : (s.pairOf i).loads.findIdx? loadWaits = some k) (hl : (s.pairOf i).loads[k]? = some (some l))
    (hbank : (s.advance dt).bankBusy (l.addr / 4 * 4 + (enabledBytes l.be).1) = false) :
    ∃ t, exec (.loadResponse dt i) s = .next t ∧ ∃ r, (t.pairOf i).loads[k]? = some (some { l with resp := some r }) := by
  have hlks : ((s.advance dt).loadRead i l).2.lks = s.lks := (State.loadRead_lks ..).trans (s.advance_lks dt)
  obtain ⟨r, hr⟩ := State.loads_loadAnswered ((s.advance dt).loadRead i l).2 i k l ((s.advance dt).loadRead i l).1
  refine ⟨_, exec_loadResponse hk hl hbank, r, ?_⟩
  rw [hr, State.pairOf_of_lks hlks]
  exact List.getElem?_set_self (List.getElem?_eq_some_iff.mp hl).1

/-- Settles O45: each clause is the lemma above about its event; what a first mismatch leaves is read from `Retries`. -/
theorem lockstepComparesBeforeItCommits : Obligations.LockstepComparesBeforeItCommits := by
  refine fun dt i s hpow hrun => ⟨fun hlive => ⟨fun w => instructionRetire_enters hpow hrun hlive,
      fun w k => instructionRetire_checks hpow hrun hlive, fun be a be' a' u hfew hu => ⟨fun ha hbe hloads => ?_,
      fun hne hretry => ?_⟩, fun age hage hfew hretry => ?_⟩,
    fun e es c u hwin hchk hload hu hretry =>
      ⟨compareEntry_commits hpow hrun hwin hretry hchk hload hu, fun hne => ?_⟩,
    fun e es hwin hchk hlate hretry => ?_, fun k l => loadResponse_answers,
    fun c hlive hirq hroom hretry => asyncInputTaken_interrupt hpow hrun hretry hroom hlive hirq,
    fun hlive hroom hretry => asyncInputTaken_timeRead hpow hrun hretry hroom hlive,
    fun v hhalt hroom hretry => asyncInputTaken_debugPc hpow hrun hretry hroom hhalt⟩
  · subst ha hbe
    exact earlyCompare_issues hpow hrun hlive hu hfew hloads
  · obtain ⟨t, hexec, ht⟩ := earlyCompare_mismatch hpow hrun hlive (be := be) (be' := be') hu hfew hne hretry
    exact ⟨t, hexec, ht.cause, ht.lane, by rw [ht.pair], by rw [ht.pair]⟩
  · obtain ⟨t, hexec, ht⟩ := lagTimeout_early hpow hrun hlive hage hfew hretry
    exact ⟨t, hexec, ht.cause, by rw [ht.pair]⟩
  · obtain ⟨t, hexec, ht⟩ := compareEntry_mismatch hpow hrun hwin hretry hchk hload hu hne
    exact ⟨t, hexec, ht.cause, ht.lane, ht.outcome, ht.place, by rw [ht.pair], by rw [ht.pair], by rw [ht.pair]⟩
  · obtain ⟨t, hexec, ht⟩ := lagTimeout_late hpow hrun hwin hretry hchk hlate
    exact ⟨t, hexec, ht.cause, ht.lane, by rw [ht.pair], by rw [ht.pair]⟩

end Sys2Proof.Machine
end

section
/-! SUPPORT. O46: self-tests and transient windows of the comparators, the commands of LKS, and debug halts (R315 to R329). -/

namespace Sys2Proof.Machine
open Sys2Proof

/-! ### Words that are cleared -/

/-- A word that is 0 stays 0 over the clearing of a field. -/
theorem State.rd_put_zero {s : State} {a : Nat} (p : Page) (x : Fld) (h : s.rd a = 0) : (s.put p x 0).rd a = 0 := by
  by_cases ha : a = fldAddr p x
  · subst ha
    unfold State.put State.setWord
    split
    · rw [State.rd_wr_same, h]
      simp [setBits, bits]
    · exact h
  · rw [State.rd_put_word _ _ ha, h]

theorem State.rd_put_zero_same (s : State) {p : Page} {x : Fld} (hp : inPage p x = true) (hlo : x.lo = 0) (hhi : x.hi = 31) :
    (s.put p x 0).rd (fldAddr p x) = 0 := by
  have hget := s.get_put_same (x := x) 0 hp (by omega) (by omega)
  rw [State.get_word _ hlo hhi, Nat.zero_mod] at hget
  exact BitVec.eq_of_toNat_eq hget

theorem State.rd_setWord_zero {s : State} {a : Nat} (p : Page) (x : Fld) (h : s.rd a = 0) : (s.setWord p x 0).rd a = 0 := by
  by_cases ha : a = fldAddr p x
  · subst ha
    unfold State.setWord
    split
    · rw [State.rd_wr_same]
    · exact h
  · rw [State.rd_setWord_other _ _ ha, h]

theorem State.rd_put64_zero {s : State} {a : Nat} (p : Page) (x : Fld) (h : s.rd a = 0) : (s.put64 p x 0).rd a = 0 :=
  State.rd_setWord_zero _ _ (State.rd_setWord_zero _ _ h)

theorem State.get_of_rd_zero {s : State} {p : Page} {x : Fld} (h : s.rd (fldAddr p x) = 0) : s.get p x = 0 := by
  rw [State.get, h]
  simp [bits]

theorem State.get64_of_rd_zero {s : State} {p : Page} {x : Fld} (hlo : s.rd (fldAddr p x) = 0)
    (hhi : s.rd (fldAddr p x + 4) = 0) : s.get64 p x = 0 := by
  rw [State.get64, hlo, hhi]
  rfl

/-- What each step of a fold brings about for its own element and keeps for the others holds of every element at the end. -/
theorem State.foldl_each {α : Type} {R : α → State → Prop} {f : State → α → State} (hkeep : ∀ s a b, R a s → R a (f s b))
    (hset : ∀ s a, R a (f s a)) (l : List α) (s : State) {a : α} (ha : a ∈ l) : R a (l.foldl f s) := by
  have hkeeps (l : List α) (s : State) (h : R a s) : R a (l.foldl f s) := by
    induction l generalizing s with
    | nil => exact h
    | cons b l ih => exact ih _ (hkeep s a b h)
  induction l generalizing s with
  | nil => exact absurd ha (by simp)
  | cons b l ih =>
    rcases List.mem_cons.mp ha with rfl | ha
    · exact hkeeps l _ (hset s a)
    · exact ih _ ha

/-! ### Commands of Halo pages (R41, R355) -/

/-- Outside SAFE_HOLD a command of HS to a Halo page is carried out. -/
theorem State.haloCmd_of_hs {s : State} {req : Nat} (hreq : req = 2) (h : s.dstate ≠ .safeHold) (dt : Nat) (p : Page) (x : Fld)
    (f : State → State) : (s.advance dt).haloCmd req p x f = f (s.advance dt) :=
  (if_pos hreq).trans (State.blockCmd_of_awake h dt p x f)

theorem State.haloCmd_of_other (s : State) {req : Nat} (hreq : req ≠ 2) (p : Page) (x : Fld) (f : State → State) :
    s.haloCmd req p x f = s.incSat p HDR.ERRCNT_ACCESS := if_neg hreq

/-! ### Self-tests (R321) -/

@[simp] theorem State.testPer_advance (s : State) (dt : Nat) : (s.advance dt).testPer = s.testPer :=
  congrArg (· * 40000) (s.get_advance ..)

theorem testLanes_le (c : Fin 4) : testLanes c ≤ 192 := by revert c; decide

theorem State.testDone_lks (s : State) (c : Nat) : (s.testDone c).lks = s.lks := by
  unfold State.testDone State.incWrap
  dsimp only
  split
  · rw [State.put_lks, State.put_lks]
  · rw [(Unmoved.evt ..).lks, (Unmoved.putBit ..).lks, State.put_lks, State.put_lks]

theorem State.get_testDone_count (s : State) (c : Nat) :
    (s.testDone c).get LKS.pg LKS.STCNT = (s.get LKS.pg LKS.STCNT + 1) % 2 ^ 32 := by
  have hcount : (s.incWrap LKS.pg LKS.STCNT).get LKS.pg LKS.STCNT = (s.get LKS.pg LKS.STCNT + 1) % 2 ^ 32 :=
    State.get_put_same _ _ (by decide) (by decide) (by decide)
  have hlane (t : State) (v : Nat) : (t.put LKS.pg (testLane c) v).get LKS.pg LKS.STCNT = t.get LKS.pg LKS.STCNT :=
    t.get_put_off _ (show LKS.STCNT.off ≠ 0x060 by decide)
  unfold State.testDone
  dsimp only
  split
  · rw [hlane, hcount]
  · rw [State.get_evt_off _ (by decide) (by decide) (by decide), State.get_putBit_off _ _ _ (by decide), hlane, hcount]

theorem State.get_testDone_lane (s : State) (c : Fin 4) : (s.testDone c).get LKS.pg (testLane c) =
    if s.get LKS.pg (testLane c) + 1 < testLanes c then s.get LKS.pg (testLane c) + 1 else 0 := by
  have hcount : (s.incWrap LKS.pg LKS.STCNT).get LKS.pg (testLane c) = s.get LKS.pg (testLane c) :=
    State.get_put_off _ _ (show 0x060 ≠ LKS.STCNT.off by decide)
  have hlane (t : State) {v : Nat} (hv : v < 256) : (t.put LKS.pg (testLane c) v).get LKS.pg (testLane c) = v := by
    have hwidth : 8 * c.1 + 7 + 1 - 8 * c.1 = 8 := by omega
    rw [t.get_put_same v (inPage_lks (show 0x060 < 0x1000 by decide)) (show 8 * c.1 ≤ 8 * c.1 + 7 + 1 by omega)
      (show 8 * c.1 + 7 < 32 by omega)]
    exact (congrArg (fun k => v % 2 ^ k) hwidth).trans (Nat.mod_eq_of_lt hv)
  have hle := testLanes_le c
  unfold State.testDone
  dsimp only
  rw [hcount]
  split
  next hlt => exact hlane _ (by omega)
  next =>
    rw [State.get_evt_off _ (inPage_lks (show 0x060 < 0x1000 by decide)) (by decide) (show 0x060 ≠ 0x010 by decide),
      State.get_putBit_off _ _ _ (show 0x060 ≠ LKS.STSTAT_DIR.off by decide), hlane _ (by decide)]

section Tests

variable {dt : Nat} {c : Fin 4} {s : State} (hpow : s.dev.off = false)

/-- The comparator with the test of the present period done, before the lane advances. -/
def State.testTaken (s : State) (c : Fin 4) (k : Nat) : State :=
  { s with lks := { s.lks with tested := vset s.lks.tested c k } }

include hpow

theorem comparatorProbe_tests (hdue : vget s.lks.tested c ≠ (s.now + dt) / s.testPer + 1) :
    ∃ t, exec (.comparatorProbe dt c .none) s = .next t ∧ t.get LKS.pg LKS.STCNT = (s.get LKS.pg LKS.STCNT + 1) % 2 ^ 32 ∧
      vget t.lks.tested c = (s.now + dt) / s.testPer + 1 ∧ t.get LKS.pg (testLane c) =
        (if s.get LKS.pg (testLane c) + 1 < testLanes c then s.get LKS.pg (testLane c) + 1 else 0) := by
  have hk : (s.advance dt).now / (s.advance dt).testPer + 1 = (s.now + dt) / s.testPer + 1 := by
    rw [State.now_advance_of_on hpow, State.testPer_advance]
  rw [← hk] at hdue ⊢
  have hdue' : (vget (s.advance dt).lks.tested c != (s.advance dt).now / (s.advance dt).testPer + 1) = true := by
    rw [State.advance_lks]
    exact bne_iff_ne.mpr hdue
  have hexec : exec (.comparatorProbe dt c .none) s =
      .next (((s.advance dt).testTaken c ((s.advance dt).now / (s.advance dt).testPer + 1)).testDone c) := by
    refine (if_neg ?_).trans ((if_neg (by decide)).trans ?_)
    · rw [hdue', State.advance_dev, hpow]
      simp
    · rw [hdue']
      rfl
  have hreg : ((s.advance dt).testTaken c ((s.advance dt).now / (s.advance dt).testPer + 1)).regs = s.regs :=
    s.advance_regs dt
  refine ⟨_, hexec, ?_, ?_, ?_⟩
  · rw [State.get_testDone_count, State.get_of_regs hreg]
  · rw [State.testDone_lks]
    exact vget_vset_same ..
  · rw [State.get_testDone_lane, State.get_of_regs hreg]

theorem selftestMiss_faults (hend : (s.now + dt) % s.testPer = 0)
    (hmiss : vget s.lks.tested c < (s.now + dt) / s.testPer) : exec (.selftestMiss dt c) s = .next ((({ s.advance dt with
      lks := { s.lks with tested := vset s.lks.tested c ((s.now + dt) / s.testPer) } } : State).putBit LKS.pg LKS.STSTAT_MISS
        c true).lksFault c LKS.EVT_ST_MISS 0xA04 5) := by
  change execSelftestMiss dt c s = _
  simp only [execSelftestMiss, State.advance_dev, State.advance_lks, State.testPer_advance, State.now_advance_of_on hpow,
    hpow, hend, hmiss, Bool.false_eq_true, not_false_eq_true, and_self, if_true]
  rfl

end Tests

/-! ### Transient windows and the commands of LKS (R315, R329) -/

theorem mem_pairs (i : Fin 3) : i.1 ∈ [0, 1, 2] := by revert i; decide

theorem transWindowStart_clears {dt : Nat} {s : State} (i : Fin 3) (hstart : (s.advance dt).now % 400000000 = 0) :
    ∃ t, exec (.transWindowStart dt) s = .next t ∧ t.get LKS.pg (LKS.PCNT_TRANS_WIN.ix i) = 0 := by
  have hzero (s : State) (a b : Nat) (h : s.get LKS.pg (LKS.PCNT_TRANS_WIN.ix a) = 0 ∨ 3 ≤ a) :
      (s.put LKS.pg (LKS.PCNT_TRANS_WIN.ix b) 0).get LKS.pg (LKS.PCNT_TRANS_WIN.ix a) = 0 ∨ 3 ≤ a := by
    refine h.imp_left fun h => ?_
    by_cases hab : a = b
    · subst hab
      by_cases hp : inPage LKS.pg (LKS.PCNT_TRANS_WIN.ix a) = true
      · exact s.get_put_ix_same 0 hp (by decide) (by decide)
      · rwa [State.put, State.setWord, if_neg hp]
    · rw [State.get_put_off _ _ (by simp only [Fld.ix, LKS.PCNT_TRANS_WIN]; omega), h]
  have hset (s : State) (a : Nat) : (s.put LKS.pg (LKS.PCNT_TRANS_WIN.ix a) 0).get LKS.pg (LKS.PCNT_TRANS_WIN.ix a) = 0 ∨
      3 ≤ a := by
    by_cases ha : a < 3
    · exact .inl (s.get_put_ix_same 0 (inPage_pair ⟨a, ha⟩ (by decide) rfl) (by decide) (by decide))
    · exact .inr (by omega)
  exact ⟨_, if_pos hstart, (State.foldl_each (R := fun a s => s.get LKS.pg (LKS.PCNT_TRANS_WIN.ix a) = 0 ∨ 3 ≤ a)
    hzero hset _ _ (mem_pairs i)).resolve_right (by omega)⟩

/-- The record and the counts of pair `a` cleared. -/
def State.pairCleared (s : State) (a : Nat) : State :=
  (((s.put LKS.pg (LKS.PCNT.ix a) 0).put LKS.pg (LKS.PLAST.ix a) 0).put LKS.pg (LKS.PPC.ix a) 0).put64 LKS.pg
    (LKS.PSTAMP_LO.ix a) 0

/-- The words of a pair that `LKS_CMD` CLR_CNT clears. -/
def pairFields (a : Nat) : List Fld :=
  [LKS.PCNT.ix a, LKS.PLAST.ix a, LKS.PPC.ix a, LKS.PSTAMP_LO.ix a,
    { LKS.PSTAMP_LO.ix a with off := (LKS.PSTAMP_LO.ix a).off + 4 }]

theorem pairFields_off {a : Nat} {x : Fld} (hx : x ∈ pairFields a) : 0x080 < x.off := by
  simp only [pairFields, List.mem_cons, List.not_mem_nil, or_false] at hx
  rcases hx with rfl | rfl | rfl | rfl | rfl <;> simp only [Fld.ix, LKS.PCNT, LKS.PLAST, LKS.PPC, LKS.PSTAMP_LO] <;> omega

theorem State.rd_pairCleared_keeps {s : State} {a : Nat} (b : Nat) (h : s.rd a = 0) : (s.pairCleared b).rd a = 0 :=
  State.rd_put64_zero _ _ (State.rd_put_zero _ _ (State.rd_put_zero _ _ (State.rd_put_zero _ _ h)))

theorem State.rd_pairCleared_same (s : State) (i : Fin 3) {x : Fld} (hx : x ∈ pairFields i) :
    (s.pairCleared i).rd (fldAddr LKS.pg x) = 0 := by
  have hin {x : Fld} (hx : x.off < 0x100) (hs : x.stride = 32) := inPage_pair i hx hs
  simp only [pairFields, List.mem_cons, List.not_mem_nil, or_false] at hx
  rcases hx with rfl | rfl | rfl | rfl | rfl
  · exact State.rd_put64_zero _ _ (State.rd_put_zero _ _ (State.rd_put_zero _ _
      (s.rd_put_zero_same (hin (by decide) rfl) rfl rfl)))
  · exact State.rd_put64_zero _ _ (State.rd_put_zero _ _ (State.rd_put_zero_same _ (hin (by decide) rfl) rfl rfl))
  · exact State.rd_put64_zero _ _ (State.rd_put_zero_same _ (hin (by decide) rfl) rfl rfl)
  · exact State.rd_setWord_zero _ _ (State.rd_setWord_same _ _ (hin (by decide) rfl))
  · exact State.rd_setWord_same _ _ (inPage_lks (show 0x090 + i.1 * 32 + 4 < 0x1000 by omega))

theorem State.lksCmd_clears (s : State) : s.lksCmd 1 =
    (([0, 1, 2] : List Nat).foldl State.pairCleared s).status LKS.pg LKS.CMD_LAST_STS .done := by
  unfold State.lksCmd
  simp only []
  exact State.command_done s LKS.pg LKS.CMD_LAST_STS rfl fun s => ([0, 1, 2] : List Nat).foldl State.pairCleared s

theorem State.get_lksStatus (s : State) (st : Status) :
    (s.status LKS.pg LKS.CMD_LAST_STS st).get LKS.pg LKS.CMD_LAST_STS = st.code :=
  s.get_status st (by decide) (by decide) (by decide) (by decide)

section LksCommands

variable {dt : Nat} {req : Req} {s : State} (h : s.dstate ≠ .safeHold) (hreq : req.1 = 2)

include h hreq

theorem lksClrCnt_clears : ∃ t, exec (.lksClrCnt dt req) s = .next t ∧
    t.get LKS.pg LKS.CMD_LAST_STS = Status.done.code ∧ ∀ i : Fin 3, ∀ x ∈ pairFields i, t.rd (fldAddr LKS.pg x) = 0 := by
  have hcmd : (s.advance dt).haloCmd req LKS.pg LKS.CMD_LAST_STS (fun s => s.lksCmd 1) =
      (([0, 1, 2] : List Nat).foldl State.pairCleared (s.advance dt)).status LKS.pg LKS.CMD_LAST_STS .done :=
    (State.haloCmd_of_hs hreq h ..).trans (State.lksCmd_clears _)
  refine ⟨_, congrArg Host.Outcome.next hcmd, State.get_lksStatus .., fun i x hx => ?_⟩
  have hoff := pairFields_off hx
  rw [State.rd_status_off _ _ (Nat.ne_of_gt (Nat.lt_trans (by decide) hoff)) (by omega)]
  exact State.foldl_each (R := fun a s => a < 3 → ∀ x ∈ pairFields a, s.rd (fldAddr LKS.pg x) = 0)
    (fun s a b hr ha x hx => State.rd_pairCleared_keeps b (hr ha x hx))
    (fun s a ha x hx => s.rd_pairCleared_same ⟨a, ha⟩ hx) [0, 1, 2] _ (mem_pairs i) i.isLt x hx

theorem lksProbe_asks : ∃ t, exec (.lksProbe dt req) s = .next t ∧ t.lks.extra = Vector.replicate 4 true ∧
    t.get LKS.pg LKS.CMD_LAST_STS = Status.done.code := by
  have hcmd : (s.advance dt).haloCmd req LKS.pg LKS.CMD_LAST_STS (fun s => s.lksCmd 2) =
      ({ s.advance dt with lks := { (s.advance dt).lks with extra := Vector.replicate 4 true } } : State).status LKS.pg
        LKS.CMD_LAST_STS .done := (State.haloCmd_of_hs hreq h ..).trans (State.command_done _ _ _ rfl
          fun s : State => { s with lks := { s.lks with extra := Vector.replicate 4 true } })
  exact ⟨_, congrArg Host.Outcome.next hcmd, by rw [(Unmoved.status ..).lks], State.get_lksStatus ..⟩

end LksCommands

/-! ### Debug halts (R324, R325, R352) -/

@[simp] theorem State.haltAllowed_advance (s : State) (dt : Nat) (i : Fin 3) :
    (s.advance dt).haltAllowed i = s.haltAllowed i := by
  unfold State.advance
  split <;> rfl

theorem State.bitOn_of_rd {s t : State} {p : Page} {x : Fld} (h : t.rd (fldAddr p x) = s.rd (fldAddr p x)) (b : Nat) :
    t.bitOn p x b = s.bitOn p x b := by rw [State.bitOn, State.bitOn, State.get_eq_of_rd h rfl]

theorem State.dstate_of {s t : State} (hdev : t.dev = s.dev) (hrd : t.rd (fldAddr SYS.pg SYS.DSTAT) = s.rd (fldAddr SYS.pg SYS.DSTAT)) :
    t.dstate = s.dstate := by
  rw [State.dstate, State.dstate, hdev, State.get_eq_of_rd (x := SYS.DSTAT_DSTATE) hrd rfl]

/-- A halted mark of a pair, as a halt, a step and a resumption write it. -/
theorem State.bitOn_halted (s : State) (i : Fin 3) (v : Bool) :
    (s.putBit LKS.pg LKS.STAT_HALTED i v).bitOn LKS.pg LKS.STAT_HALTED i = v :=
  s.bitOn_putBit_same v (by decide) (by decide) (by decide) (show i.1 < 3 from i.isLt)

section Debug

variable {dt : Nat} {i : Fin 3} {s : State}

theorem debugHaltRequest_allowed (h : s.haltAllowed i = true) : ∃ t, exec (.debugHaltRequest dt i) s = .next t ∧
    (t.pairOf i).haltReq = ((s.pairOf i).run && !(s.pairOf i).halted) ∧ t.regs = s.regs := by
  refine ⟨_, if_pos ((s.haltAllowed_advance dt i).trans h), ?_, ?_⟩
  · rw [State.pairOf_pairSet, State.pairOf_advance]
  · rw [State.pairSet_regs, State.advance_regs]

theorem debugHaltRequest_refused (h : s.haltAllowed i = false) : ∃ t, exec (.debugHaltRequest dt i) s = .next t ∧
    t.bitOn LKS.pg LKS.STAT_HALT_REF i = true ∧ t.lks = s.lks := by
  refine ⟨_, if_neg (by rw [s.haltAllowed_advance, h]; decide), ?_, ?_⟩
  · exact State.bitOn_putBit_same _ _ (by decide) (by decide) (by decide) (show i.1 < 3 from i.isLt)
  · rw [(Unmoved.putBit ..).lks, State.advance_lks]

/-- The pair halted, with its mark. -/
def State.pairHalted (s : State) (i : Fin 3) : State :=
  (s.pairSet i fun h => { h with halted := true, haltReq := false }).putBit LKS.pg LKS.STAT_HALTED i true

theorem debugHalted_halts (hrun : (s.pairOf i).run = true) (hreq : (s.pairOf i).haltReq = true)
    (hstep : (s.pairOf i).step = false) (hlive : (s.pairOf i).halted = false) (hwin : (s.pairOf i).win = [])
    (hretry : (s.pairOf i).retry = none) : ∃ t, exec (.debugHalted dt i) s = .next t ∧ (t.pairOf i).halted = true ∧
      (t.pairOf i).haltReq = false ∧ t.bitOn LKS.pg LKS.STAT_HALTED i = true ∧ (i = 2 → t.halo.kickAt = none) := by
  have hexec : exec (.debugHalted dt i) s = .next (if i = 2 then
      { (List.range 8).foldl State.cpwFreeze ((s.advance dt).pairHalted i) with
        halo := { ((List.range 8).foldl State.cpwFreeze ((s.advance dt).pairHalted i)).halo with kickAt := none } }
      else (List.range 8).foldl State.cpwFreeze ((s.advance dt).pairHalted i)) := by
    refine if_pos ?_
    rw [State.pairOf_advance]
    simp only [hrun, hreq, hstep, hlive, hwin, hretry, Bool.false_eq_true, not_false_eq_true, and_self]
  have hfreeze := Kept.foldl Kept.cpwFreeze (.refl ((s.advance dt).pairHalted i)) (List.range 8)
  have hlks := hfreeze.within .lks (by simp)
  have hmark : ((List.range 8).foldl State.cpwFreeze ((s.advance dt).pairHalted i)).rd (fldAddr LKS.pg LKS.STAT_HALTED) =
      ((s.advance dt).pairHalted i).rd (fldAddr LKS.pg LKS.STAT_HALTED) :=
    hfreeze.within (.block .lks) (by simp) _ (blockAt_page (p := LKS.pg) (by decide))
  have hpair : ((List.range 8).foldl State.cpwFreeze ((s.advance dt).pairHalted i)).pairOf i =
      { s.pairOf i with halted := true, haltReq := false } := by
    rw [State.pairOf_of_lks hlks, State.pairHalted, State.pairOf_of_lks (Unmoved.putBit ..).lks, State.pairOf_pairSet,
      State.pairOf_advance]
  have hbit : ((List.range 8).foldl State.cpwFreeze ((s.advance dt).pairHalted i)).bitOn LKS.pg LKS.STAT_HALTED i = true :=
    (State.bitOn_of_rd hmark i).trans (State.bitOn_halted ..)
  refine ⟨_, hexec, ?_⟩
  split
  · exact ⟨congrArg PairH.halted hpair, congrArg PairH.haltReq hpair, hbit, fun _ => rfl⟩
  next hi => exact ⟨congrArg PairH.halted hpair, congrArg PairH.haltReq hpair, hbit, fun h => absurd h hi⟩

section Halted

variable (hhalt : (s.pairOf i).halted = true)

include hhalt

theorem debugStep_steps : ∃ t, exec (.debugStep dt i) s = .next t ∧ (t.pairOf i).halted = false ∧
    (t.pairOf i).step = true ∧ t.bitOn LKS.pg LKS.STAT_HALTED i = false := by
  have hpair (u : State) (f : PairH → PairH) : ((u.pairSet i f).putBit LKS.pg LKS.STAT_HALTED i false).pairOf i =
      f (u.pairOf i) := (State.pairOf_of_lks (Unmoved.putBit ..).lks i).trans (State.pairOf_pairSet ..)
  refine ⟨_, if_pos (by rw [State.pairOf_advance, hhalt]), ?_, ?_, State.bitOn_halted ..⟩ <;> rw [hpair]

/-- The pair going on, with its mark cleared. -/
def State.pairResumed (s : State) (i : Fin 3) : State :=
  (s.pairSet i fun h => { h with halted := false }).putBit LKS.pg LKS.STAT_HALTED i false

omit hhalt in
theorem State.pairResumed_dstate (s : State) (i : Fin 3) : (s.pairResumed i).dstate = s.dstate :=
  State.dstate_of (Unmoved.putBit ..).dev (State.rd_put_word _ _ (by decide))

theorem debugResume_resumes : ∃ t, exec (.debugResume dt i) s = .next t ∧ (t.pairOf i).halted = false ∧
    t.bitOn LKS.pg LKS.STAT_HALTED i = false ∧
      (i = 2 → s.dstate.running = true → t.halo.kickAt = some (s.advance dt).now) := by
  have hexec : exec (.debugResume dt i) s = .next (if i = 2 ∧ (((s.advance dt).pairResumed i).dstate.running = true ∨
        ((s.advance dt).pairResumed i).dstate = .selftest) then { (s.advance dt).pairResumed i with
      halo := { ((s.advance dt).pairResumed i).halo with kickAt := some ((s.advance dt).pairResumed i).now } }
      else (s.advance dt).pairResumed i) := if_pos (by rw [State.pairOf_advance, hhalt])
  have hpair : (((s.advance dt).pairResumed i).pairOf i).halted = false := by
    rw [State.pairResumed, State.pairOf_of_lks (Unmoved.putBit ..).lks, State.pairOf_pairSet]
  have hbit : ((s.advance dt).pairResumed i).bitOn LKS.pg LKS.STAT_HALTED i = false := State.bitOn_halted ..
  refine ⟨_, hexec, ?_⟩
  split
  · exact ⟨hpair, hbit, fun _ _ => congrArg some (Unmoved.putBit ..).now⟩
  next hno =>
    refine ⟨hpair, hbit, fun hi hrun => absurd ⟨hi, .inl ?_⟩ hno⟩
    rw [State.pairResumed_dstate, State.dstate_advance, hrun]

end Halted

end Debug

/-- Settles O46: each clause is the lemma above about its event or command; the cleared words of a pair are read from
`pairFields`. -/
theorem comparatorTestsAndDebugHalts : Obligations.ComparatorTestsAndDebugHalts := by
  refine ⟨fun dt c s hpow => ⟨comparatorProbe_tests hpow, selftestMiss_faults hpow⟩,
    fun dt s i => transWindowStart_clears i, fun dt i s => ⟨debugHaltRequest_allowed, debugHaltRequest_refused,
      debugHalted_halts, fun hhalt => ⟨debugStep_steps hhalt, debugResume_resumes hhalt⟩⟩,
    fun dt req s h hreq => ⟨?_, lksProbe_asks h hreq⟩⟩
  obtain ⟨t, hexec, hsts, hclear⟩ := lksClrCnt_clears (dt := dt) h hreq
  refine ⟨t, hexec, hsts, fun i => ⟨?_, ?_, ?_, ?_⟩⟩
  · exact State.get_of_rd_zero (hclear i _ (by simp [pairFields]))
  · exact State.get_of_rd_zero (hclear i _ (by simp [pairFields]))
  · exact State.get_of_rd_zero (hclear i _ (by simp [pairFields]))
  · exact State.get64_of_rd_zero (hclear i _ (by simp [pairFields])) ((congrArg t.rd (Nat.add_assoc ..)).trans
      (hclear i { LKS.PSTAMP_LO.ix i with off := (LKS.PSTAMP_LO.ix i).off + 4 } (by simp [pairFields])))

end Sys2Proof.Machine
end

section
/-! SUPPORT. O54: the check-value units (R403 to R405). -/

namespace Sys2Proof.Machine
open Sys2Proof

theorem inPage_crc (i : Fin 4) {x : Fld} (hx : x.off < 0x1000) : inPage (CRC.pg i) x = true :=
  inPage_of_hasHeader (decide_eq_true i.isLt) rfl hx

@[simp] theorem State.lockedBy_advance (s : State) (dt : Nat) (p : Page) (req : Nat) :
    (s.advance dt).lockedBy p req = s.lockedBy p req := by simp [State.lockedBy]

/-! ### The lock (R403) -/

theorem State.crcOwned_holder {s : State} {p : Page} {req : Nat} (h : s.lockedBy p req = true) (f : State → State) :
    s.crcOwned p req f = f s := if_pos h

theorem State.crcOwned_other {s : State} {p : Page} {req : Nat} (h : s.lockedBy p req = false) (f : State → State) :
    s.crcOwned p req f = s.incSat p HDR.ERRCNT_ACCESS := if_neg (by simp [h])

/-! ### START and DIN (R404, R405) -/

theorem crcPoly_width_le (n : Nat) : (crcPoly n).1 ≤ 32 := by
  unfold crcPoly
  split <;> decide

/-- The value that START loads. -/
def State.crcSeed (s : State) (p : Page) : Nat :=
  if s.get p CRC.CFG_FOLD = 2 then s.get p CRC.INIT ^^^ s.get p CRC.SEQ else s.get p CRC.INIT

theorem State.crcStart_loads (s : State) (i : Fin 4) : (s.crcStart (CRC.pg i)).on (CRC.pg i) CRC.STAT_RUNNING = true ∧
    (s.crcStart (CRC.pg i)).get (CRC.pg i) CRC.RES_LO =
      s.crcSeed (CRC.pg i) % 2 ^ (crcPoly (s.get (CRC.pg i) CRC.CFG_POLY)).1 ∧
    (s.crcStart (CRC.pg i)).get (CRC.pg i) CRC.RES_HI = 0 := by
  have hin {x : Fld} (hx : x.off < 0x1000) := inPage_crc i hx
  refine ⟨?_, ?_, ?_⟩
  · refine (congrArg (· == 1) (State.get_flag_bits _ false (by decide) (by decide) (by decide))).trans ?_
    exact State.on_flag_same _ true (hin (by decide)) rfl (by decide)
  · refine (State.get_flag_off _ _ (by decide)).trans ((State.get_flag_off _ _ (by decide)).trans
      ((State.get_put_off _ _ (by decide)).trans ((State.get_put_same _ _ (hin (by decide)) (by decide) (by decide)).trans ?_)))
    refine Nat.mod_eq_of_lt (Nat.lt_of_lt_of_le (Nat.mod_lt _ (Nat.two_pow_pos _)) ?_)
    exact Nat.pow_le_pow_right (by decide) (crcPoly_width_le _)
  · exact (State.get_flag_off _ _ (by decide)).trans ((State.get_flag_off _ _ (by decide)).trans
      (State.get_put_same _ 0 (hin (by decide)) (by decide) (by decide)))

/-- The bytes of a write of DIN that its enables name. -/
def dinBytes (be val : Nat) : List Nat := ((List.range 4).filter fun j => be.testBit j).map fun j => val / 256 ^ j % 256

theorem State.crcDin_plain {s : State} {p : Page} (hfold : s.get p CRC.CFG_FOLD ≠ 1)
    (hab : s.on p CRC.STAT_ABANDONED = false) (be val : Nat) : s.crcDin p be val =
    (s.crcFeed p (dinBytes be val)).put p CRC.RES_HI (s.get p CRC.RES_HI + (dinBytes be val).length) := by
  simp [State.crcDin, hfold, hab, dinBytes]

theorem State.crcDin_feeds {s : State} (i : Fin 4) (hfold : s.get (CRC.pg i) CRC.CFG_FOLD ≠ 1)
    (hab : s.on (CRC.pg i) CRC.STAT_ABANDONED = false) (be val : Nat) :
    (s.crcDin (CRC.pg i) be val).get (CRC.pg i) CRC.RES_LO =
      Machine.crcFeed (crcPoly (s.get (CRC.pg i) CRC.CFG_POLY)).1 (crcPoly (s.get (CRC.pg i) CRC.CFG_POLY)).2
        (s.on (CRC.pg i) CRC.CFG_REFIN)
        (s.get (CRC.pg i) CRC.RES_LO % 2 ^ (crcPoly (s.get (CRC.pg i) CRC.CFG_POLY)).1) (dinBytes be val) % 2 ^ 32 ∧
    (s.crcDin (CRC.pg i) be val).get (CRC.pg i) CRC.RES_HI =
      (s.get (CRC.pg i) CRC.RES_HI + (dinBytes be val).length) % 2 ^ 32 := by
  rw [State.crcDin_plain hfold hab]
  exact ⟨(State.get_put_off _ _ (by decide)).trans
    (State.get_put_same _ _ (inPage_crc i (by decide)) (by decide) (by decide)),
    State.get_put_same _ _ (inPage_crc i (by decide)) (by decide) (by decide)⟩

/-- Settles O54: both writes go through the holder of the page's lock; START then loads its seed and DIN feeds its bytes. -/
theorem checkUnitsFeedTheirOwnersBytes : Obligations.CheckUnitsFeedTheirOwnersBytes := by
  intro dt req i be val s
  refine ⟨fun h => ?_, fun h => ⟨?_, ?_⟩⟩
  · have hu : (s.advance dt).lockedBy (CRC.pg i) req = true := (s.lockedBy_advance ..).trans h
    have hstart : exec (.crcStart dt req i) s = .next ((s.advance dt).crcStart (CRC.pg i)) :=
      congrArg Host.Outcome.next (State.crcOwned_holder hu fun s => s.crcStart (CRC.pg i))
    have hdin : exec (.crcDinWrite dt req i be val) s = .next ((s.advance dt).crcDin (CRC.pg i) be.toNat val.toNat) :=
      congrArg Host.Outcome.next (State.crcOwned_holder hu fun s => s.crcDin (CRC.pg i) be.toNat val.toNat)
    have hloads := (s.advance dt).crcStart_loads i
    simp only [State.get_advance, State.crcSeed] at hloads
    obtain ⟨hrun, hlo, hhi⟩ := hloads
    refine ⟨fun hf => ⟨_, hstart, hrun, ?_, hhi⟩, fun hf => ⟨_, hstart, hrun, ?_⟩, fun hf hab => ⟨_, hdin, ?_⟩⟩
    · rw [hlo, if_neg hf]
    · rw [hlo, if_pos hf]
    · have hfeed := State.crcDin_feeds (s := s.advance dt) i (by rwa [State.get_advance]) (by rwa [State.on_advance])
        be.toNat val.toNat
      simp only [State.get_advance, State.on_advance, dinBytes, List.length_map] at hfeed
      exact hfeed
  all_goals exact congrArg Host.Outcome.next (State.crcOwned_other ((s.lockedBy_advance ..).trans h) _)

end Sys2Proof.Machine
end

section
/-! SUPPORT. O27: the scan of Zenith and its throttle ladder (R377 to R383). -/

namespace Sys2Proof.Machine
open Sys2Proof

theorem inPage_tmu {x : Fld} (hx : x.off < 0x1000) : inPage TMU.pg x = true := inPage_of_hasHeader (by decide) rfl hx

/-! ### A fault leaves Zenith's words (R330) -/

/-- From `s` to `t` the word of Zenith at field `x` is the same. -/
def SameTmu (x : Fld) (s t : State) : Prop := t.rd (fldAddr TMU.pg x) = s.rd (fldAddr TMU.pg x)

namespace SameTmu

variable {x : Fld} {s t u : State}

theorem refl (s : State) : SameTmu x s s := rfl

theorem trans (h : SameTmu x s t) (h' : SameTmu x t u) : SameTmu x s u := Eq.trans h' h

theorem ite {c : Prop} [Decidable c] (h : SameTmu x s t) (h' : SameTmu x s u) : SameTmu x s (if c then t else u) := by
  split <;> assumption

section
variable (hx : x.off < 0x400) (hset : x.off ≠ 0x024) (herr : x.off ≠ 0x02C)

include hx

theorem kept {F : List Part} (h : SameTmu x s t) (k : Kept F t u) (hF : .block .tmu ∉ F := by simp) : SameTmu x s u :=
  h.trans (k.within (.block .tmu) hF _ (blockAt_page (inPage_tmu (by omega))))

include hset herr

theorem csetEnd (s : State) (r : Fin 16) (code : Nat) : SameTmu x s (s.csetEnd r code) :=
  s.rd_csetEnd_word r code (by omega) (by omega)

theorem csetStop (s : State) : SameTmu x s s.csetStop.1 := by
  have hfold (l : List (Fin 16)) (f : State × Bool → Fin 16 → State × Bool) (h : ∀ a r, SameTmu x a.1 (f a r).1) :
      ∀ a : State × Bool, SameTmu x a.1 (l.foldl f a).1 := by
    induction l with
    | nil => exact fun a => refl a.1
    | cons r l ih => exact fun a => (h a r).trans (ih _)
  refine hfold _ _ (fun a r => ?_) (s, false)
  dsimp only
  split
  · split
    · exact refl _
    · split
      · split
        · exact refl _
        · exact (refl _).kept hx (.sets_upd ..)
      · exact csetEnd hx hset herr ..
  · exact refl _

theorem stopCommits (s : State) : SameTmu x s s.stopCommits := by
  have h := csetStop hx hset herr s
  unfold State.stopCommits
  rcases hstop : s.csetStop with ⟨u, hit⟩
  rw [hstop] at h
  exact ite ((h.kept hx (.evt ..)).kept hx (.note ..)) h

theorem scfClose (s : State) (cause : Nat) : SameTmu x s (s.scfClose cause) := by
  have h : SameTmu x s (((s.put SCF.pg SCF.STAT_SESSION 0).evt SCF.pg SCF.EVT_SESSION).slgPush 8 0 cause 0 none) :=
    (((refl s).kept hx (.put ..)).kept hx (.evt ..)).kept hx (.slgPush ..)
  exact ite (ite (h.trans (csetEnd hx hset herr ..)) h) (refl s)

theorem enterHalo (s : State) (old d : DState) : SameTmu x s (s.enterHalo old d) := by
  have hclose : SameTmu x s (if old = .service then s.scfClose 3 else s) := ite (scfClose hx hset herr ..) (refl s)
  refine hclose.trans (ite ?_ (ite ?_ (refl _)))
  · exact ((refl _).kept hx (.ghbStart ..)).kept hx (.halo_upd ..)
  · exact (((refl _).kept hx (.ghbStop ..)).kept hx (.watchdogOff ..)).kept hx (.holdPairs ..)

theorem enter (s : State) (d : DState) : SameTmu x s (s.enter d) := by
  have hrest (t : State) : SameTmu x t (if d.running = true then t else t.restFunctions) :=
    ite (refl t) ((refl t).kept hx (.restFunctions ..))
  have hwords : SameTmu x s ((s.enterWords d).evt SYS.pg SYS.EVT_DSTATE) :=
    (((((refl s).kept hx (.put ..)).kept hx (.put ..)).kept hx (.flag ..)).kept hx (.put ..)).kept hx (.evt ..)
  exact ((((hwords.trans (enterHalo hx hset herr _ s.dstate d)).trans (hrest _)).kept hx (.enterCharger ..)).kept hx
    (.enterPaths ..)).kept hx (.tpwRefreshAll ..)

theorem toSafeHold (s : State) : SameTmu x s s.toSafeHold := by
  have hsafe : SameTmu x s (s.flag HLO.pg HLO.STAT_SAFE true) := (refl s).kept hx (.flag ..)
  exact hsafe.trans (ite (refl _) (enter hx hset herr ..))

/-- A fault of reaction FR5 leaves the words of Zenith (R18, R330). -/
theorem raise_five (s : State) (code machs aux : Nat) : SameTmu x s (s.raise code 5 machs aux) := by
  rw [State.raise_five]
  have hlog : SameTmu x s ((s.abortTransition.logEntry code 5 machs aux s.now).logFirst code machs aux s.now) :=
    (((refl s).kept hx (.abortTransition ..)).kept hx (.logEntry ..)).kept hx (.logFirst ..)
  exact hlog.trans ((((toSafeHold hx hset herr _).kept hx (.loseLocks ..)).kept hx (.loseLocks ..)).trans
    (stopCommits hx hset herr _))

end

end SameTmu

/-! ### What a scan leaves of its first writes (R377) -/

/-- The temperature fields of the sensors and SCANNING. -/
def scanField (y : Fld) : Prop := y = TMU.STAT_SCANNING ∨ ∃ i : Fin 24, y = TMU.TS_TEMP.ix i

/-- Beside the fields of `scanField`: another word, or other bits. -/
def scanBeside (x : Fld) : Prop :=
  x.off ≠ 0x00C ∧ (x.off < 0x0A0 ∨ 0x100 ≤ x.off) ∨ x.off = 0x00C ∧ 0 < x.lo ∨ 0x0A0 ≤ x.off ∧ x.hi < 16

theorem scanField_off {y : Fld} (hy : scanField y) : y.off < 0x400 ∧ y.off ≠ 0x010 ∧ y.off ≠ 0x024 ∧ y.off ≠ 0x02C := by
  rcases hy with rfl | ⟨i, rfl⟩
  · decide
  · simp only [Fld.ix, TMU.TS_TEMP]
    omega

theorem scanBeside_apart {x y : Fld} (hx : scanBeside x) (hy : scanField y) :
    y.off ≠ x.off ∨ y.hi < x.lo ∨ x.hi < y.lo := by
  rcases hy with rfl | ⟨i, rfl⟩ <;>
  simp only [scanBeside, Fld.ix, TMU.TS_TEMP, TMU.STAT_SCANNING] at * <;> omega

/-- From `s` to `t` the sensors' temperatures, SCANNING and the number of scans are the same. -/
structure ScanStands (s t : State) : Prop where
  scans : t.tmu.scans = s.tmu.scans
  fields : ∀ y, scanField y → t.get TMU.pg y = s.get TMU.pg y

namespace ScanStands

variable {s t u : State}

theorem refl (s : State) : ScanStands s s := ⟨rfl, fun _ _ => rfl⟩

theorem trans (h : ScanStands s t) (h' : ScanStands t u) : ScanStands s u :=
  ⟨h'.scans.trans h.scans, fun y hy => (h'.fields y hy).trans (h.fields y hy)⟩

theorem ite {c : Prop} [Decidable c] (h : ScanStands s t) (h' : ScanStands s u) : ScanStands s (if c then t else u) := by
  split <;> assumption

theorem foldl {α : Type} {f : State → α → State} (h : ∀ s a, ScanStands s (f s a)) (l : List α) (s : State) :
    ScanStands s (l.foldl f s) := State.foldl_related refl trans h l s

theorem kept {F : List Part} (h : ScanStands s t) (k : Kept F t u) (ht : .tmu ∉ F := by simp)
    (hF : .block .tmu ∉ F := by simp) : ScanStands s u :=
  h.trans ⟨congrArg TmuH.scans (k.within .tmu ht), fun _ hy =>
    State.get_within k.within (inPage_tmu (Nat.lt_trans (scanField_off hy).1 (by decide))) hF⟩

theorem set (h : ScanStands s t) (f : TmuH → TmuH) (hf : ∀ a, (f a).scans = a.scans := by intro _; rfl) :
    ScanStands s (t.tmuSet f) := h.trans ⟨hf t.tmu, fun _ _ => rfl⟩

theorem put (h : ScanStands s t) {x : Fld} (v : Nat) (hx : scanBeside x) (hl : x.lo ≤ x.hi + 1) (hh : x.hi < 32) :
    ScanStands s (t.put TMU.pg x v) := by
  refine h.trans ⟨congrArg TmuH.scans ((Kept.put t TMU.pg x v).within .tmu (by simp)), fun y hy => ?_⟩
  rcases scanBeside_apart hx hy with hoff | hbits
  · exact t.get_put_off v hoff
  · exact t.get_put_bits v hl hh hbits

theorem puts (h : ScanStands s t) {x : Fld} (v : Int) (hx : scanBeside x) (hl : x.lo ≤ x.hi + 1) (hh : x.hi < 32) :
    ScanStands s (t.puts TMU.pg x v) := h.put _ hx hl hh

theorem flag (h : ScanStands s t) {x : Fld} (b : Bool) (hx : scanBeside x) (hl : x.lo ≤ x.hi + 1) (hh : x.hi < 32) :
    ScanStands s (t.flag TMU.pg x b) := h.put _ hx hl hh

theorem putBit (h : ScanStands s t) {x : Fld} (b : Nat) (v : Bool) (hx : scanBeside x) (hl : x.lo ≤ x.hi + 1) (hh : x.hi < 32) :
    ScanStands s (t.putBit TMU.pg x b v) := h.put _ hx hl hh

theorem incSat (h : ScanStands s t) {x : Fld} (hx : scanBeside x) (hl : x.lo ≤ x.hi + 1) (hh : x.hi < 32) :
    ScanStands s (t.incSat TMU.pg x) := by
  unfold State.incSat
  dsimp only
  exact ite (h.put _ hx hl hh) h

theorem evt (h : ScanStands s t) (x : Fld) : ScanStands s (t.evt TMU.pg x) :=
  h.trans ⟨congrArg TmuH.scans ((Kept.evt t TMU.pg x).within .tmu (by simp)), fun _ hy =>
    t.get_evt_off (inPage_tmu (Nat.lt_trans (scanField_off hy).1 (by decide))) (by decide) (scanField_off hy).2.1⟩

theorem note (h : ScanStands s t) (code react machs aux : Nat) : ScanStands s (t.note code react machs aux) :=
  h.kept (.note ..)

theorem raise_five (h : ScanStands s t) (code machs aux : Nat) : ScanStands s (t.raise code 5 machs aux) := by
  refine h.trans ⟨congrArg TmuH.scans ((Kept.raise t code 5 machs aux).within .tmu (by decide)), fun y hy => ?_⟩
  obtain ⟨hlt, -, hset, herr⟩ := scanField_off hy
  exact State.get_eq_of_rd (SameTmu.raise_five hlt hset herr t code machs aux) rfl

/-! #### The steps of a scan (R378 to R383) -/

theorem tmuExclude (h : ScanStands s t) (i : Fin 24) : ScanStands s (t.tmuExclude i) := by
  have hmark : ScanStands t ((t.putBit TMU.pg TMU.EXCL_SENS i true).flag TMU.pg (TMU.TS_EXCL.ix i) true) :=
    ((refl t).putBit i true (.inl (by decide)) (by decide) (by decide)).flag true
      (.inr (.inr ⟨Nat.le_add_right .., show 0 < 16 by decide⟩)) (show 0 ≤ 0 + 1 by decide) (show 0 < 32 by decide)
  have hshow : ScanStands t (((((t.putBit TMU.pg TMU.EXCL_SENS i true).flag TMU.pg (TMU.TS_EXCL.ix i) true).incSat TMU.pg
      TMU.CNT_EXCLS).evt TMU.pg TMU.EVT_EXCL).note 0xC01 1 0 0) :=
    ((hmark.incSat (.inl (by decide)) (by decide) (by decide)).evt _).note ..
  refine h.trans ?_
  unfold State.tmuExclude
  exact ite (((hshow.putBit _ true (.inl (by decide)) (by decide) (by decide)).evt _).note ..) hshow

theorem tmuCross (s : State) (temps : Vector Int 24) : ScanStands s (s.tmuCross temps) := by
  unfold State.tmuCross
  exact foldl (fun s i => ite (refl s) (ite (((refl s).set _).tmuExclude i) ((refl s).set _))) _ s

theorem tmuExternal (s : State) : ScanStands s s.tmuExternal := by
  have hin (x : Fld) (j : Nat) (hx : 0x100 ≤ x.off) : scanBeside (x.ix j) :=
    .inl ⟨show x.off + j * x.stride ≠ 0x00C by omega, .inr (Nat.le_add_right_of_le hx)⟩
  have hvalid {s t : State} (h : ScanStands s t) (j : Nat) (b : Bool) :
      ScanStands s (t.flag TMU.pg (TMU.EXTT_VALID.ix j) b) :=
    h.flag b (hin _ _ (by decide)) (show 0 ≤ 0 + 1 by decide) (show 0 < 32 by decide)
  have hnat {s t : State} (h : ScanStands s t) : ScanStands s t.freshNat.2 := h.kept (.freshNat t)
  unfold State.tmuExternal
  refine foldl (fun s j => ite (hvalid ((refl s).set _) _ _) (ite (ite ?_ ?_) ?_)) _ s
  · exact hvalid ((refl s).set _) _ _
  · exact ((hvalid ((refl s).set _) _ _).evt _).note ..
  · exact hvalid ((hnat ((refl s).set _)).put (x := TMU.EXTT_TEMP.ix j) _ (hin _ _ (by decide)) (show 16 ≤ 31 + 1 by decide)
      (show 31 < 32 by decide)) _ _

theorem clt {x : Fld} (h : ScanStands s t) (q : Fin 6) (v : Int) (hx : x.off = 0x070 := by rfl) (hs : x.stride = 4 := by rfl)
    (hl : x.lo ≤ x.hi + 1 := by decide) (hh : x.hi < 32 := by decide) : ScanStands s (t.puts TMU.pg (x.ix q) v) := by
  refine h.puts v (.inl ?_) hl hh
  simp only [Fld.ix, hx, hs]
  omega

theorem tmuRates (s : State) (cl : Vector Int 6) : ScanStands s (s.tmuRates cl) := by
  unfold State.tmuRates
  refine foldl (fun s q => ?_) _ s
  split
  · exact ((refl s).set _).clt q _
  · refine ite (((ScanStands.incSat ?_ (.inl (by decide)) (by decide) (by decide)).evt _).note ..) ?_
    all_goals exact ((refl s).clt (x := TMU.CLT_RATE) q _).set _

theorem tmuSlack (s : State) : ScanStands s s.tmuSlack :=
  (((refl s).kept (.slackReset s)).puts _ (.inl (by decide)) (by decide) (by decide)).put _ (.inl (by decide)) (by decide)
    (by decide)

theorem tmuLevel (h : ScanStands s t) (l : Nat) : ScanStands s (t.tmuLevel l) := by
  have hshow : ScanStands t (((t.put TMU.pg TMU.THRST_LEVEL l).flag TMU.pg TMU.STAT_THROTTLED (l != 0)).evt TMU.pg
      TMU.EVT_LEVEL) := (((refl t).put l (.inl (by decide)) (by decide) (by decide)).flag _ (.inr (.inl (by decide))) (by decide)
    (by decide)).evt _
  refine h.trans ?_
  unfold State.tmuLevel
  refine ite (refl t) (trans ?_ (foldl (fun s u => (refl s).kept (.put _ (ADH.pg u) ..)) _ _))
  exact ite (hshow.set _) (((hshow.set _).kept (.put _ CIR.pg ..)).kept (.evt _ CIR.pg _))

theorem tmuThrottle (s : State) (tmax : Int) : ScanStands s (s.tmuThrottle tmax) := by
  have hcause {s t : State} (h : ScanStands s t) (v : Nat) : ScanStands s (t.put TMU.pg TMU.THRST_CAUSE v) :=
    h.put v (.inl (by decide)) (by decide) (by decide)
  have hcount {s t : State} (h : ScanStands s t) {x : Fld} (hx : x.off = 0x054) (hl : x.lo ≤ x.hi + 1) (hh : x.hi < 32) :
      ScanStands s (t.incSat TMU.pg x) := h.incSat (.inl (by omega)) hl hh
  unfold State.tmuThrottle
  refine ite (((hcause (refl s) _).set _).tmuLevel _) (ite ?_ (ite ?_ ((hcause (refl s) _).set _)))
  all_goals exact (hcount ((hcause (refl s) _).set _) rfl (by decide) (by decide)).tmuLevel _

theorem tmuLimits (s : State) (tmax : Int) : ScanStands s (s.tmuLimits tmax) := by
  have hot (b : Bool) : ScanStands s (s.flag TMU.pg TMU.STAT_HOT b) :=
    (refl s).flag b (.inr (.inl (by decide))) (by decide) (by decide)
  have hshut (u : State) (n : Nat) : ScanStands u (if n = 2 then
      ((u.tmuSet fun h => { h with shut := n }).evt TMU.pg TMU.EVT_SHUT).raise 0xC05 5 0
      else u.tmuSet fun h => { h with shut := n }) := ite ((((refl u).set _).evt _).raise_five ..) ((refl u).set _)
  unfold State.tmuLimits
  refine trans ?_ (hshut _ _)
  exact ite (ite (refl s) (((hot true).evt _).note ..)) (ite (hot false) (refl s))

end ScanStands

/-! ### The scan (R377) -/

/-- The sensors' temperatures as a scan takes them. -/
def State.scanTaken (s : State) (temps : Vector Int 24) : State :=
  ((List.finRange 24).foldl (fun s (i : Fin 24) => s.puts TMU.pg (TMU.TS_TEMP.ix i) (clampInt (-32768) 32767 (vget temps i)))
    (s.tmuSet fun h => { h with scans := h.scans + 1 })).flag TMU.pg TMU.STAT_SCANNING true

theorem clampInt_signed (v : Int) : signed 16 (unsigned 16 (clampInt (-32768) 32767 v)) = clampInt (-32768) 32767 v := by
  have hbounds : -32768 ≤ clampInt (-32768) 32767 v ∧ clampInt (-32768) 32767 v ≤ 32767 := by
    unfold clampInt
    split
    · omega
    · split <;> omega
  generalize clampInt (-32768) 32767 v = w at hbounds
  unfold signed unsigned
  dsimp only
  split <;> omega

theorem State.scanTaken_shows (s : State) (temps : Vector Int 24) : (s.scanTaken temps).tmu.scans = s.tmu.scans + 1 ∧
    (s.scanTaken temps).on TMU.pg TMU.STAT_SCANNING = true ∧
    ∀ i : Fin 24, (s.scanTaken temps).gets TMU.pg (TMU.TS_TEMP.ix i) = clampInt (-32768) 32767 (vget temps i) := by
  have hts (i : Fin 24) : inPage TMU.pg (TMU.TS_TEMP.ix i) = true :=
    inPage_tmu (show 0x0A0 + i.1 * 4 < 0x1000 by omega)
  refine ⟨?_, State.on_flag_same _ true (inPage_tmu (by decide)) rfl (by decide), fun i => ?_⟩
  · have hfold (l : List (Fin 24)) (s : State) : (l.foldl (fun s (i : Fin 24) => s.puts TMU.pg (TMU.TS_TEMP.ix i)
        (clampInt (-32768) 32767 (vget temps i))) s).tmu = s.tmu :=
      State.foldl_related (R := fun s t => t.tmu = s.tmu) (fun _ => rfl) (fun h h' => h'.trans h) (fun s i => s.put_tmu ..) l s
    exact congrArg TmuH.scans ((State.flag_tmu ..).trans (hfold _ _))
  · have hset (s : State) (a : Fin 24) : (s.puts TMU.pg (TMU.TS_TEMP.ix a) (clampInt (-32768) 32767 (vget temps a))).get TMU.pg
        (TMU.TS_TEMP.ix a) = unsigned 16 (clampInt (-32768) 32767 (vget temps a)) :=
      s.get_puts_same _ (hts a) (show 16 ≤ 31 + 1 by decide) (show 31 < 32 by decide)
    refine (congrArg (signed 16) ((State.get_flag_off _ true (show 0x0A0 + i.1 * 4 ≠ 0x00C by omega)).trans
      (State.foldl_each (R := fun (a : Fin 24) s => s.get TMU.pg (TMU.TS_TEMP.ix a) =
        unsigned 16 (clampInt (-32768) 32767 (vget temps a))) (fun s a b hr => ?_) hset _ _ (List.mem_finRange i)))).trans
      (clampInt_signed _)
    by_cases hab : a = b
    · rw [← hab, hset]
    · rw [s.get_puts_off _ (show 0x0A0 + a.1 * 4 ≠ 0x0A0 + b.1 * 4 by omega), hr]

/-- What a scan shows and does once its clusters `cl` and the hottest sensor `src` at `tmax` are known. -/
def State.scanShown (s : State) (cl : Vector Int 6) (comp : TmuH → TmuH) (tmax : Int) (src : Nat) : State :=
  let s := ((List.finRange 6).foldl (fun s (q : Fin 6) => s.puts TMU.pg (TMU.CLT_TEMP.ix q) (vget cl q)) s).tmuSet comp
  let s := ((s.puts TMU.pg TMU.MAX_TMAX tmax).put TMU.pg TMU.MAX_SRC src).tmuRates cl
  let s := s.tmuSet fun h => { h with hist := (cl :: h.hist).take 255 }
  (s.tmuSlack.tmuThrottle tmax).tmuLimits tmax

theorem ScanStands.scanShown (s : State) (cl : Vector Int 6) {comp : TmuH → TmuH} (hcomp : ∀ h, (comp h).scans = h.scans)
    (tmax : Int) (src : Nat) : ScanStands s (s.scanShown cl comp tmax src) := by
  have hclusters : ScanStands s ((List.finRange 6).foldl (fun s (q : Fin 6) =>
      s.puts TMU.pg (TMU.CLT_TEMP.ix q) (vget cl q)) s) := .foldl (fun s q => (ScanStands.refl s).clt (x := TMU.CLT_TEMP) q _) _ s
  have hmax {v : State} (h : ScanStands s v) : ScanStands s ((v.puts TMU.pg TMU.MAX_TMAX tmax).put TMU.pg TMU.MAX_SRC src) :=
    (h.puts _ (.inl (by decide)) (by decide) (by decide)).put _ (.inl (by decide)) (by decide) (by decide)
  exact (((((hmax (hclusters.set comp hcomp)).trans (.tmuRates ..)).set _).trans (.tmuSlack _)).trans (.tmuThrottle ..)).trans
    (.tmuLimits ..)

theorem zenithScan_keeps {dt : Nat} {temps : Vector Int 24} {s : State} (hpow : s.dev.off = false)
    (hgrid : (s.now + dt) % 40000 = 0) (hnow : 0 < s.now + dt) :
    ∃ t, exec (.zenithScan dt temps) s = .next t ∧ ScanStands ((s.advance dt).scanTaken temps) t := by
  have hdue : (s.advance dt).now % 40000 = 0 ∧ 0 < (s.advance dt).now ∧ ¬(s.advance dt).dev.off = true := by
    rw [State.now_advance_of_on hpow, State.advance_dev, hpow]
    exact ⟨hgrid, hnow, Bool.false_ne_true⟩
  have hcheck (u : State) : ScanStands u
      (if 16 ≤ u.tmu.scans then (u.flag TMU.pg TMU.STAT_XCHK true).tmuCross temps else u) :=
    .ite (((ScanStands.refl u).flag _ (.inr (.inl (by decide))) (by decide) (by decide)).trans (.tmuCross ..)) (.refl u)
  have hstart := (hcheck ((s.advance dt).scanTaken temps)).trans (.tmuExternal _)
  change ∃ t, execZenithScan dt temps s = .next t ∧ _
  unfold execZenithScan
  dsimp only
  rw [if_pos hdue]
  unfold State.scanTaken at hstart
  generalize State.tmuExternal _ = v at hstart ⊢
  refine ⟨_, rfl, hstart.trans (.scanShown v (v.tmuTemps temps).1 ?_ _ _)⟩
  exact fun _ => rfl

/-! ### The ladder (R383) -/

/-- A level that fits its field is the one shown, whether it is new or not. -/
theorem State.tmuLevel_level (s : State) {l : Nat} (hl : l < 32) : (s.tmuLevel l).get TMU.pg TMU.THRST_LEVEL = l := by
  unfold State.tmuLevel
  dsimp only
  split
  next h => exact h.symm
  next h =>
    have hput : (((s.put TMU.pg TMU.THRST_LEVEL l).flag TMU.pg TMU.STAT_THROTTLED (l != 0)).evt TMU.pg
        TMU.EVT_LEVEL).get TMU.pg TMU.THRST_LEVEL = l := by
      rw [State.get_evt_off _ (by decide) (by decide) (by decide), State.get_flag_off _ _ (by decide),
        State.get_put_same _ _ (by decide) (by decide) (by decide)]
      exact Nat.mod_eq_of_lt hl
    have hdiv (t : State) (l : List Nat) (v : Nat) : (l.foldl (fun s u => s.put (ADH.pg u) ADH.STAT_DIV v) t).get TMU.pg
        TMU.THRST_LEVEL = t.get TMU.pg TMU.THRST_LEVEL :=
      State.foldl_related (R := fun s t => t.get TMU.pg TMU.THRST_LEVEL = s.get TMU.pg TMU.THRST_LEVEL) (fun _ => rfl)
        (fun h h' => h'.trans h)
        (fun s u => State.get_within (Kept.put s (ADH.pg u) _ _).within (by decide) (by simp)) l t
    rw [hdiv]
    split
    · exact hput
    · rw [State.get_within (Kept.evt _ CIR.pg _).within (by decide) (by decide),
        State.get_within (Kept.put _ CIR.pg _ _).within (by decide) (by decide)]
      exact hput

/-- A step of the ladder from level `l`: down to the cap, up below it, down, or none. -/
theorem State.ladderStep_level {t : State} {l cap : Nat} (hl : t.get TMU.pg TMU.THRST_LEVEL = l) (hcap : l ≤ cap)
    (hlmax : cap < 16) (up : Bool) (down : Prop) [Decidable down] (x y : Fld) {u : State}
    (hu : (if cap < l then t.tmuLevel cap
      else if (up && decide (l < cap)) = true then (t.incSat TMU.pg x).tmuLevel (l + 1)
      else if down then (t.incSat TMU.pg y).tmuLevel (l - 1) else t) = u) :
    u.get TMU.pg TMU.THRST_LEVEL ≤ l + 1 ∧ u.get TMU.pg TMU.THRST_LEVEL ≤ cap := by
  subst hu
  rw [if_neg (by omega)]
  split
  next h =>
    have hlt : l < cap := of_decide_eq_true (Bool.and_eq_true_iff.mp h).2
    rw [State.tmuLevel_level _ (by omega)]
    omega
  next =>
    split
    · rw [State.tmuLevel_level _ (by omega)]
      omega
    · omega

/-- The ladder climbs by at most one level and not above LMAX. -/
theorem State.tmuThrottle_level {s : State} (tmax : Int)
    (hcap : s.get TMU.pg TMU.THRST_LEVEL ≤ s.get TMU.pg TMU.CFG_LMAX) :
    (s.tmuThrottle tmax).get TMU.pg TMU.THRST_LEVEL ≤ s.get TMU.pg TMU.THRST_LEVEL + 1 ∧
    (s.tmuThrottle tmax).get TMU.pg TMU.THRST_LEVEL ≤ s.get TMU.pg TMU.CFG_LMAX := by
  have hlevel (v : Nat) : (s.put TMU.pg TMU.THRST_CAUSE v).get TMU.pg TMU.THRST_LEVEL = s.get TMU.pg TMU.THRST_LEVEL :=
    s.get_put_bits v (by decide) (by decide) (by decide)
  have hlmax (v : Nat) : (s.put TMU.pg TMU.THRST_CAUSE v).get TMU.pg TMU.CFG_LMAX = s.get TMU.pg TMU.CFG_LMAX :=
    s.get_put_off v (by decide)
  have hset (t : State) (f : TmuH → TmuH) (x : Fld) : (t.tmuSet f).get TMU.pg x = t.get TMU.pg x := rfl
  obtain ⟨u, hu⟩ : ∃ u, s.tmuThrottle tmax = u := ⟨_, rfl⟩
  rw [hu]
  unfold State.tmuThrottle at hu
  simp only [hset, hlevel, hlmax] at hu
  exact State.ladderStep_level ((hset ..).trans (hlevel _)) hcap (bits_lt ..) _ _ _ _ hu

/-- Settles O27: the steps of a scan after its readings keep them, and the ladder moves by one level below LMAX. -/
theorem zenithScansAndClimbsByOneLevel : Obligations.ZenithScansAndClimbsByOneLevel := by
  refine ⟨fun dt temps s hpow hgrid hnow => ?_, fun s tmax h => State.tmuThrottle_level tmax h⟩
  obtain ⟨t, ht, hstands⟩ := zenithScan_keeps (temps := temps) hpow hgrid hnow
  obtain ⟨hscans, hscanning, htemps⟩ := (s.advance dt).scanTaken_shows temps
  refine ⟨t, ht, ?_, ?_, fun i => ?_⟩
  · rw [hstands.scans, hscans, State.advance_tmu]
  · rw [State.on, hstands.fields _ (.inl rfl)]
    exact hscanning
  · rw [State.gets, hstands.fields _ (.inr ⟨i, rfl⟩)]
    exact htemps i

end Sys2Proof.Machine
end

section
/-! SUPPORT. O47: the STO function, its releases, assertions and checks (R336 to R339). -/

namespace Sys2Proof.Machine
open Sys2Proof

@[simp] theorem State.stoEff_advance (s : State) (dt m : Nat) : (s.advance dt).stoEff m = s.stoEff m := s.bitOn_advance ..

@[simp] theorem State.stoFree_advance (s : State) (dt m : Nat) : (s.advance dt).stoFree m = s.stoFree m := by
  unfold State.advance
  split <;> rfl

@[simp] theorem State.hsHalted_advance (s : State) (dt : Nat) : (s.advance dt).hsHalted = s.hsHalted := s.bitOn_advance ..

@[simp] theorem State.sfiConv_advance (s : State) (dt : Nat) : (s.advance dt).sfiConv = s.sfiConv := by
  unfold State.advance
  split <;> rfl

theorem State.stoEff_of_regs {s t : State} (h : t.regs = s.regs) (m : Nat) : t.stoEff m = s.stoEff m :=
  congrArg (·.testBit m) (State.get_of_regs h ..)

theorem State.get_stoStatus (s : State) (st : Status) :
    (s.status STO.pg STO.CMD_LAST_STS st).get STO.pg STO.CMD_LAST_STS = st.code :=
  s.get_status st (by decide) (by decide) (by decide) (by decide)

theorem testBit_setBits_same (v i x : Nat) : (setBits v i i x).testBit i = x.testBit 0 := by
  rw [testBit_setBits _ _ _ _ _ (Nat.le_succ i), if_pos ⟨le_refl i, le_refl i⟩, Nat.sub_self]

theorem testBit_setBits_other {i j : Nat} (v x : Nat) (h : j ≠ i) : (setBits v i i x).testBit j = v.testBit j := by
  rw [testBit_setBits _ _ _ _ _ (Nat.le_succ i), if_neg (by omega)]

/-- What each step of a fold brings about for its own element and keeps for the other elements of the list holds of every
element at the end. -/
theorem State.foldl_each_mem {α : Type} {R : α → State → Prop} {f : State → α → State} (l : List α)
    (hkeep : ∀ s a, ∀ b ∈ l, R a s → R a (f s b)) (hset : ∀ s, ∀ a ∈ l, R a (f s a)) (s : State) {a : α} (ha : a ∈ l) :
    R a (l.foldl f s) := by
  have hkeeps (k : List α) (hk : ∀ b ∈ k, b ∈ l) (s : State) (h : R a s) : R a (k.foldl f s) := by
    induction k generalizing s with
    | nil => exact h
    | cons b k ih => exact ih (fun c hc => hk c (List.mem_cons_of_mem _ hc)) _ (hkeep s a b (hk b List.mem_cons_self) h)
  obtain ⟨k, k', rfl⟩ := List.append_of_mem ha
  rw [List.foldl_append, List.foldl_cons]
  exact hkeeps k' (fun b hb => by simp [hb]) _ (hset _ a ha)

theorem mem_machines (m : Fin 3) : m.1 ∈ ([0, 1, 2] : List Nat) := by
  match m with
  | 0 | 1 | 2 => decide

theorem lt_of_mem_machines {m : Nat} (h : m ∈ ([0, 1, 2] : List Nat)) : m < 3 := by
  simp only [List.mem_cons, List.not_mem_nil, or_false] at h
  omega

/-! ### Release (R337, R338) -/

theorem State.stopH_stopSet_same (s : State) {m : Nat} (hm : m < 3) (f : StopH → StopH) :
    (s.stopSet m f).stopH m = f (s.stopH m) := by
  simp only [State.stopSet, State.stopH, hm, dif_pos]
  exact vget_vset_same ..

theorem State.stopH_stopSet_other (s : State) {m k : Nat} (h : k ≠ m) (f : StopH → StopH) :
    (s.stopSet m f).stopH k = s.stopH k := by
  unfold State.stopSet
  split
  next hm =>
    unfold State.stopH
    split
    next hk => exact vget_vset_other s.halo.stops (i := ⟨m, hm⟩) (j := ⟨k, hk⟩) _ fun e => h (congrArg Fin.val e).symm
    · rfl
  next => rfl

/-- The command of one machine's assertion and its completed stop are over. -/
def State.stoReset (s : State) (m : Nat) : State :=
  { s with halo := { s.halo with cmdSto := setBits s.halo.cmdSto m m 0 } }.stopSet m fun h => { h with done := false }

/-- The release of one machine by `STO_CMD`. -/
def State.stoReleaseOne (s : State) (m : Nat) : State :=
  let s := s.stoReset m
  if h : m < 4 then (if s.stoEff m then s.pathARelease ⟨m, h⟩ else s) else s

/-- What a release leaves for machine `m`: no command and no completed stop, and path A high while STO is in effect. -/
structure State.Released (m : Nat) (s : State) : Prop where
  cmd : s.halo.cmdSto.testBit m = false
  done : (s.stopH m).done = false
  pathA : s.stoEff m = true → s.halo.pathA.testBit m = true

theorem State.stopSet_paths (s : State) (m : Nat) (f : StopH → StopH) : (s.stopSet m f).regs = s.regs ∧
    (s.stopSet m f).halo.cmdSto = s.halo.cmdSto ∧ (s.stopSet m f).halo.pathA = s.halo.pathA ∧
    (s.stopSet m f).halo.pathB = s.halo.pathB ∧ (s.stopSet m f).halo.sfi = s.halo.sfi := by
  unfold State.stopSet
  split <;> exact ⟨rfl, rfl, rfl, rfl, rfl⟩

theorem State.pathARelease_stands (s : State) (l : Fin 4) : (s.pathARelease l).regs = s.regs ∧
    (s.pathARelease l).halo.cmdSto = s.halo.cmdSto ∧ (s.pathARelease l).halo.convCmd = s.halo.convCmd ∧
    (s.pathARelease l).halo.convSfi = s.halo.convSfi ∧ ∀ m, (s.pathARelease l).stopH m = s.stopH m := by
  unfold State.pathARelease
  split <;> exact ⟨rfl, rfl, rfl, rfl, fun _ => rfl⟩

theorem State.pathA_pathARelease (s : State) (l : Fin 4) : (s.pathARelease l).halo.pathA.testBit l = true := by
  unfold State.pathARelease
  split
  next h => exact h
  next => exact testBit_setBits_same _ l.1 1

theorem State.pathA_pathARelease_of_high {s : State} (l : Fin 4) {i : Nat} (h : s.halo.pathA.testBit i = true) :
    (s.pathARelease l).halo.pathA.testBit i = true := by
  by_cases hi : i = l
  · rw [hi]
    exact s.pathA_pathARelease l
  · unfold State.pathARelease
    split
    · exact h
    · exact (testBit_setBits_other _ _ hi).trans h

theorem State.Released.pathARelease {s : State} {m : Nat} (h : s.Released m) (l : Fin 4) : (s.pathARelease l).Released m := by
  obtain ⟨hregs, hcmd, -, -, hstop⟩ := s.pathARelease_stands l
  refine ⟨by rw [hcmd, h.cmd], by rw [hstop, h.done], fun he => ?_⟩
  rw [State.stoEff_of_regs hregs] at he
  exact State.pathA_pathARelease_of_high l (h.pathA he)

theorem State.Released.stoReset {s : State} {m k : Nat} (h : s.Released m) (hmk : m ≠ k) : (s.stoReset k).Released m := by
  obtain ⟨hregs, hcmd, hpathA, -⟩ := State.stopSet_paths
    { s with halo := { s.halo with cmdSto := setBits s.halo.cmdSto k k 0 } } k fun h => { h with done := false }
  refine ⟨?_, ?_, fun he => ?_⟩
  · exact (congrArg (·.testBit m) hcmd).trans ((testBit_setBits_other _ _ hmk).trans h.cmd)
  · exact (congrArg StopH.done (State.stopH_stopSet_other _ hmk _)).trans h.done
  · exact (congrArg (·.testBit m) hpathA).trans (h.pathA ((State.stoEff_of_regs hregs m).symm.trans he))

theorem State.stoReleaseOne_released (s : State) {m : Nat} (hm : m < 3) : (s.stoReleaseOne m).Released m := by
  obtain ⟨-, hcmd, -, -⟩ := State.stopSet_paths
    { s with halo := { s.halo with cmdSto := setBits s.halo.cmdSto m m 0 } } m fun h => { h with done := false }
  have hclear : (s.stoReset m).halo.cmdSto.testBit m = false :=
    (congrArg (·.testBit m) hcmd).trans (testBit_setBits_same _ m 0)
  have hdone : ((s.stoReset m).stopH m).done = false := congrArg StopH.done (State.stopH_stopSet_same _ hm _)
  unfold State.stoReleaseOne
  dsimp only
  rw [dif_pos (by omega)]
  split
  next he =>
    obtain ⟨-, hc, -, -, hs⟩ := (s.stoReset m).pathARelease_stands ⟨m, by omega⟩
    exact ⟨by rw [hc, hclear], by rw [hs, hdone], fun _ => (s.stoReset m).pathA_pathARelease ⟨m, by omega⟩⟩
  next he => exact ⟨hclear, hdone, fun h => absurd h he⟩

theorem State.stoReleaseOne_keeps {s : State} {m k : Nat} (hk : k < 3) (h : s.Released m) : (s.stoReleaseOne k).Released m := by
  by_cases hmk : m = k
  · rw [hmk]
    exact s.stoReleaseOne_released hk
  unfold State.stoReleaseOne
  dsimp only
  rw [dif_pos (by omega)]
  split
  · exact (h.stoReset hmk).pathARelease _
  · exact h.stoReset hmk

theorem State.stoRelease_eq (s : State) (mask : Nat) : s.stoRelease mask =
    s.command STO.pg STO.CMD_LAST_STS (s.dstate == .drive && !s.hsHalted &&
      ([0, 1, 2].filter fun m => mask.testBit m).all fun m => s.stoFree m) fun s =>
        ([0, 1, 2].filter fun m => mask.testBit m).foldl State.stoReleaseOne s := rfl

theorem State.stoEff_stoReleaseOne (s : State) (m k : Nat) : (s.stoReleaseOne m).stoEff k = s.stoEff k := by
  have hreset : (s.stoReset m).regs = s.regs := (State.stopSet_paths _ m _).1
  refine State.stoEff_of_regs ?_ k
  unfold State.stoReleaseOne
  dsimp only
  split
  · split
    · exact (State.pathARelease_stands _ _).1.trans hreset
    · exact hreset
  · exact hreset

/-! ### Assertion (R336, R338) -/

/-- From `s` to `t` the paths, the commands and the safe inputs stand. -/
structure PathsStand (s t : State) : Prop where
  pathA : t.halo.pathA = s.halo.pathA
  pathB : t.halo.pathB = s.halo.pathB
  cmd : t.halo.cmdSto = s.halo.cmdSto
  sfi : t.halo.sfi = s.halo.sfi

namespace PathsStand

variable {s t u : State}

theorem refl (s : State) : PathsStand s s := ⟨rfl, rfl, rfl, rfl⟩

theorem trans (h : PathsStand s t) (h' : PathsStand t u) : PathsStand s u :=
  ⟨h'.pathA.trans h.pathA, h'.pathB.trans h.pathB, h'.cmd.trans h.cmd, h'.sfi.trans h.sfi⟩

theorem ite {c : Prop} [Decidable c] (h : PathsStand s t) (h' : PathsStand s u) : PathsStand s (if c then t else u) := by
  split <;> assumption

theorem of_halo (h : t.halo = s.halo) : PathsStand s t := ⟨by rw [h], by rw [h], by rw [h], by rw [h]⟩

theorem kept {F : List Part} (h : PathsStand s t) (k : Kept F t u) (hF : .halo ∉ F := by simp) : PathsStand s u :=
  h.trans (of_halo (k.within .halo hF))

theorem stopSet (h : PathsStand s t) (m : Nat) (f : StopH → StopH) : PathsStand s (t.stopSet m f) := by
  obtain ⟨-, hcmd, hpathA, hpathB, hsfi⟩ := t.stopSet_paths m f
  exact h.trans ⟨hpathA, hpathB, hcmd, hsfi⟩

theorem sbcSet (h : PathsStand s t) (c : Fin 2) (f : SbcH → SbcH) : PathsStand s (t.sbcSet c f) :=
  h.trans ⟨rfl, rfl, rfl, rfl⟩

theorem ss1End (s : State) (m st : Nat) : PathsStand s (s.ss1End m st) := by
  have hend : PathsStand s (((s.putBit SSF.pg SSF.STAT_SS1 m false).put SSF.pg (SSF.MSTAT_STATE.ix m) st).stopSet m fun h =>
      { h with done := true, overN := 0 }) := (((refl s).kept (.putBit ..)).kept (.put ..)).stopSet ..
  exact ite (hend.kept (.incSat ..)) ((hend.kept (.incSat ..)).kept (.evt ..))

theorem msvGo (h : PathsStand s t) (m st : Nat) : PathsStand s (t.msvGo m st) := by
  have hset (u : State) {c : Prop} [Decidable c] (f : MsvH → MsvH) : PathsStand u (if c then u.msvSet m f else u) :=
    ite ((refl u).kept (.msvSet ..)) (refl u)
  have hstop (u : State) {c : Prop} [Decidable c] (f : StopH → StopH) : PathsStand u (if c then u else u.stopSet m f) :=
    ite (refl u) ((refl u).stopSet ..)
  have hflag (u : State) {c : Prop} [Decidable c] : PathsStand u
      (if c then u.flag (MSV.pg m) MSV.STAT_STOP_SS1 false else u) := ite ((refl u).kept (.flag ..)) (refl u)
  refine h.trans (kept (kept ?_ (.flag ..)) (.evtIf ..))
  exact ((((((refl t).kept (.put ..)).trans (hset _ _)).trans (hset _ _)).trans (hset _ _)).trans (hstop _ _)).trans (hflag _)

theorem msvToSto (s : State) (m : Nat) : PathsStand s (s.msvToSto m) :=
  ite (((refl s).kept (.msvRelease ..)).msvGo ..) (refl s)

theorem sbcApply (s : State) (c : Fin 2) : PathsStand s (s.sbcApply c) := by
  have hout (f : SbcH → SbcH) : PathsStand s ((s.sbcSet c f).put SSF.pg (SSF.SBCST_OUT.ix c) 0) :=
    ((refl s).sbcSet c f).kept (.put ..)
  unfold State.sbcApply
  exact kept (ite (hout _) ((hout _).kept (.put ..))) (.putBit ..)

theorem sbcOnSto (s : State) (m : Nat) : PathsStand s (s.sbcOnSto m) := by
  unfold State.sbcOnSto
  refine ite ?_ (refl s)
  exact State.foldl_related refl trans (fun s c => ite (ite (sbcApply ..) ((refl s).sbcSet ..)) (refl s)) _ s

theorem stoAssertRest (s : State) (m : Nat) : PathsStand s (s.stoAssertRest m) := by
  have hss1 (t : State) : PathsStand t (if t.bitOn SSF.pg SSF.STAT_SS1 m then t.ss1End m 2 else t) :=
    ite (ss1End ..) (refl t)
  unfold State.stoAssertRest
  dsimp only
  exact (((((((refl s).kept (.incSat ..)).kept (.evt ..)).trans (hss1 _)).trans (msvToSto ..)).kept (.stoRecord ..)).trans
    (sbcOnSto ..)).kept (.tpwRefreshAll _)

end PathsStand

/-- Machine `m` is asserted: in effect with both paths low. -/
structure State.Asserted (m : Nat) (s : State) : Prop where
  eff : s.stoEff m = true
  pathA : s.halo.pathA.testBit m = false
  pathB : s.halo.pathB.testBit m = false

/-- An assertion puts its line low; the steps after it leave the paths. -/
theorem PathsStand.stoAssert_after (s : State) {m : Nat} (hm : m < 4) : PathsStand (s.pathsLow ⟨m, hm⟩) (s.stoAssert m) := by
  rw [s.stoAssert_eq hm]
  exact .ite ((PathsStand.refl _).kept (.stoRecord ..)) (((PathsStand.refl _).kept (.putBit ..)).trans (.stoAssertRest ..))

theorem State.stoAssert_asserted (s : State) {m : Nat} (hm : m < 3) : (s.stoAssert m).Asserted m := by
  have hstand := PathsStand.stoAssert_after s (m := m) (by omega)
  exact ⟨s.stoEff_stoAssert hm, (congrArg (·.testBit m) hstand.pathA).trans (testBit_setBits_same s.halo.pathA m 0),
    (congrArg (·.testBit m) hstand.pathB).trans (testBit_setBits_same s.halo.pathB m 0)⟩

theorem State.Asserted.stoAssert {s : State} {m k : Nat} (h : s.Asserted m) (hk : k < 3) : (s.stoAssert k).Asserted m := by
  by_cases hmk : m = k
  · rw [hmk]
    exact s.stoAssert_asserted hk
  have hstand := PathsStand.stoAssert_after s (m := k) (by omega)
  exact ⟨(StoStays.stoAssert s (by omega)).stays m h.eff,
    (congrArg (·.testBit m) hstand.pathA).trans ((testBit_setBits_other _ 0 hmk).trans h.pathA),
    (congrArg (·.testBit m) hstand.pathB).trans ((testBit_setBits_other _ 0 hmk).trans h.pathB)⟩

theorem State.machines_asserted (s : State) {mask : Nat} {m : Fin 3} (hm : mask.testBit m = true) :
    (s.machines mask State.stoAssert).Asserted m := by
  have hkeep {s : State} {a b : Nat} (hb : b ∈ ([0, 1, 2] : List Nat)) (h : s.Asserted a) :
      (if mask.testBit b then s.stoAssert b else s).Asserted a := by
    split
    · exact h.stoAssert (lt_of_mem_machines hb)
    · exact h
  refine State.foldl_each_mem (R := fun a s => mask.testBit a = true → s.Asserted a) [0, 1, 2]
    (fun s a b hb h ha => hkeep hb (h ha)) (fun s a hmem ha => ?_) s (mem_machines m) hm
  rw [if_pos ha]
  exact s.stoAssert_asserted (lt_of_mem_machines hmem)

theorem State.cmdSto_machines (s : State) (mask : Nat) :
    (s.machines mask State.stoAssert).halo.cmdSto = s.halo.cmdSto := by
  have hone (s : State) {m : Nat} (hm : m < 4) :
      (if mask.testBit m then s.stoAssert m else s).halo.cmdSto = s.halo.cmdSto := by
    split
    · exact (PathsStand.stoAssert_after s hm).cmd
    · rfl
  exact (hone _ (by decide)).trans ((hone _ (by decide)).trans (hone s (by decide)))

/-- An evaluation of the causes leaves the safe inputs. -/
theorem State.sfi_stoEval (s : State) : s.stoEval.halo.sfi = s.halo.sfi := by
  have hcheck (t : State) {m : Nat} (hm : m < 4) : (t.stoCheck m).halo.sfi = t.halo.sfi := by
    unfold State.stoCheck
    split
    · exact (PathsStand.stoAssert_after t hm).sfi
    · exact congrArg HaloH.sfi ((Kept.stoRecord t m).within .halo (by simp))
  rw [s.stoEval_eq, hcheck _ (by decide), hcheck _ (by decide), hcheck _ (by decide)]

theorem State.halo_convAssert (s : State) : s.convAssert.halo = (s.pathsLow 3).halo := by
  have hwas (t : State) {c : Prop} [Decidable c] : (if c then t else t.evt STO.pg STO.EVT_ASSERT).halo = t.halo := by
    split
    · rfl
    · exact (Unmoved.evt ..).halo
  unfold State.convAssert
  dsimp only
  rw [(Kept.obcRefresh _).within .halo (by simp), (Kept.dcdRefresh _).within .halo (by simp),
    (Kept.convRecord _).within .halo (by simp), hwas]
  exact (Kept.flag ..).within .halo (by simp)

theorem State.on_convAssert (s : State) : s.convAssert.on STO.pg STO.STAT_CONV_EFF = true := by
  have hrecord (t : State) : t.convRecord.get STO.pg STO.STAT_CONV_EFF = t.get STO.pg STO.STAT_CONV_EFF := by
    unfold State.convRecord
    dsimp only
    split
    · split
      · rfl
      · exact t.get_put_off _ (by decide)
    · exact t.get_put_off _ (by decide)
  have hwas (t : State) {c : Prop} [Decidable c] : (if c then t else t.evt STO.pg STO.EVT_ASSERT).get STO.pg
      STO.STAT_CONV_EFF = t.get STO.pg STO.STAT_CONV_EFF := by
    split
    · rfl
    · exact t.get_evt_off (by decide) (by decide) (by decide)
  unfold State.convAssert
  dsimp only
  rw [State.on, State.get_within (Kept.obcRefresh _).within (by decide) (by decide),
    State.get_within (Kept.dcdRefresh _).within (by decide) (by decide), hrecord, hwas]
  exact State.on_flag_same _ true (by decide) rfl (by decide)

section Commands

variable {dt : Nat} {req : Req} {mask : BitVec 3} {s : State} (hreq : req.1 = 2) (hawake : s.dstate ≠ .safeHold)

include hreq hawake

theorem stoRelease_releases (hdrive : s.dstate = .drive) (hhalt : s.hsHalted = false)
    (hfree : ∀ m : Fin 3, mask.toNat.testBit m = true → s.stoFree m = true) :
    ∃ t, exec (.stoRelease dt req mask) s = .next t ∧ t.get STO.pg STO.CMD_LAST_STS = Status.done.code ∧
      ∀ m : Fin 3, mask.toNat.testBit m = true → t.halo.cmdSto.testBit m = false ∧ (t.stopH m).done = false ∧
        (s.stoEff m = true → t.halo.pathA.testBit m = true) := by
  have hok : ((s.advance dt).dstate == .drive && !(s.advance dt).hsHalted &&
      ([0, 1, 2].filter fun m => mask.toNat.testBit m).all fun m => (s.advance dt).stoFree m) = true := by
    simp only [State.dstate_advance, hdrive, State.hsHalted_advance, hhalt, State.stoFree_advance, List.all_eq_true,
      List.mem_filter, Bool.and_eq_true]
    exact ⟨by decide, fun m hm => hfree ⟨m, lt_of_mem_machines hm.1⟩ hm.2⟩
  refine ⟨_, congrArg Host.Outcome.next ((State.haloCmd_of_hs hreq hawake ..).trans ((State.stoRelease_eq ..).trans
    (State.command_done _ _ _ hok _))), State.get_stoStatus .., fun m hm => ?_⟩
  have hmem : ∀ k ∈ ([0, 1, 2] : List Nat).filter fun m => mask.toNat.testBit m, k < 3 :=
    fun k hk => lt_of_mem_machines (List.mem_filter.mp hk).1
  have hrel := State.foldl_each_mem (R := State.Released) _ (fun s a b hb h => State.stoReleaseOne_keeps (hmem b hb) h)
    (fun s a ha => s.stoReleaseOne_released (hmem a ha)) (s.advance dt)
    (List.mem_filter.mpr ⟨mem_machines m, hm⟩)
  have heff := State.foldl_related (R := fun s t => t.stoEff m = s.stoEff m) (fun _ => rfl) (fun h h' => h'.trans h)
    (fun s k => s.stoEff_stoReleaseOne k m) (([0, 1, 2] : List Nat).filter fun m => mask.toNat.testBit m) (s.advance dt)
  have hu := Unmoved.status ((([0, 1, 2] : List Nat).filter fun m => mask.toNat.testBit m).foldl State.stoReleaseOne
    (s.advance dt)) STO.pg STO.CMD_LAST_STS .done
  refine ⟨by rw [hu.halo, hrel.cmd], ?_, fun he => ?_⟩
  · rw [State.stopH, hu.halo]
    exact hrel.done
  · rw [hu.halo]
    exact hrel.pathA (by rw [heff, State.stoEff_advance, he])

theorem stoRelease_refused (hno : s.dstate ≠ .drive) : exec (.stoRelease dt req mask) s =
    .next ((s.advance dt).status STO.pg STO.CMD_LAST_STS .illegalState) := by
  refine congrArg Host.Outcome.next ((State.haloCmd_of_hs hreq hawake ..).trans ((State.stoRelease_eq ..).trans
    (State.command_illegalState _ _ _ ?_ _)))
  simp [hno]

theorem stoAssert_asserts : ∃ t, exec (.stoAssert dt req mask) s = .next t ∧
    t.get STO.pg STO.CMD_LAST_STS = Status.done.code ∧
    ∀ m : Fin 3, mask.toNat.testBit m = true → t.stoEff m = true ∧ t.halo.pathA.testBit m = false ∧
      t.halo.pathB.testBit m = false ∧ t.halo.cmdSto.testBit m = true := by
  have hcmd (u : State) : u.stoCmdAssert mask.toNat = u.command STO.pg STO.CMD_LAST_STS true fun s =>
      { s with halo := { s.halo with cmdSto := s.halo.cmdSto ||| mask.toNat % 8 } }.machines mask.toNat State.stoAssert := rfl
  refine ⟨_, congrArg Host.Outcome.next ((State.haloCmd_of_hs hreq hawake ..).trans ((hcmd _).trans
    (State.command_done _ _ _ rfl _))), State.get_stoStatus .., fun m hm => ?_⟩
  have hset := State.machines_asserted { s.advance dt with halo := { (s.advance dt).halo with
    cmdSto := (s.advance dt).halo.cmdSto ||| mask.toNat % 8 } } hm
  rw [State.stoEff, State.get_eq_of_rd (State.rd_status_off _ _ (by decide) (by decide)) rfl, (Unmoved.status ..).halo]
  refine ⟨hset.eff, hset.pathA, hset.pathB, ?_⟩
  rw [State.cmdSto_machines]
  have hm8 : (mask.toNat % 8).testBit m = true := by
    rw [show (8 : Nat) = 2 ^ 3 from rfl, Nat.testBit_mod_two_pow, decide_eq_true m.isLt, hm]
    rfl
  rw [Nat.testBit_or, hm8, Bool.or_true]

theorem stoConvRelease_releases (hrun : s.dstate.running = true) (hfree : s.sfiConv = false) :
    ∃ t, exec (.stoConvRelease dt req) s = .next t ∧ t.halo.convCmd = false ∧ t.halo.convSfi = false ∧
      t.halo.pathA.testBit 3 = true ∧ t.get STO.pg STO.CMD_LAST_STS = Status.done.code := by
  have hok : ((s.advance dt).dstate.running && !(s.advance dt).sfiConv) = true := by simp [hrun, hfree]
  have hcmd (u : State) : u.convRelease = u.command STO.pg STO.CMD_LAST_STS (u.dstate.running && !u.sfiConv) fun s =>
      { s with halo := { s.halo with convCmd := false, convSfi := false } }.pathARelease 3 := rfl
  refine ⟨_, congrArg Host.Outcome.next ((State.haloCmd_of_hs hreq hawake ..).trans ((hcmd _).trans
    (State.command_done _ _ _ hok _))), ?_, ?_, ?_, State.get_stoStatus ..⟩
  all_goals rw [(Unmoved.status ..).halo]
  · exact (State.pathARelease_stands _ 3).2.2.1
  · exact (State.pathARelease_stands _ 3).2.2.2.1
  · exact State.pathA_pathARelease _ 3

theorem stoConvAssert_asserts : ∃ t, exec (.stoConvAssert dt req) s = .next t ∧ t.halo.convCmd = true ∧
    t.on STO.pg STO.STAT_CONV_EFF = true ∧ t.halo.pathA.testBit 3 = false ∧ t.halo.pathB.testBit 3 = false ∧
    t.get STO.pg STO.CMD_LAST_STS = Status.done.code := by
  have hcmd (u : State) : u.convCmdAssert = u.command STO.pg STO.CMD_LAST_STS true fun s =>
      { s with halo := { s.halo with convCmd := true } }.convAssert := rfl
  refine ⟨_, congrArg Host.Outcome.next ((State.haloCmd_of_hs hreq hawake ..).trans ((hcmd _).trans
    (State.command_done _ _ _ rfl _))), ?_, ?_, ?_, ?_, State.get_stoStatus ..⟩
  rotate_left
  · refine (congrArg (· == 1) (State.get_eq_of_rd (State.rd_status_off _ _ (by decide) (by decide)) rfl)).trans ?_
    exact State.on_convAssert _
  all_goals rw [(Unmoved.status ..).halo, State.halo_convAssert]
  · exact testBit_setBits_same _ 3 0
  · exact testBit_setBits_same _ 3 0
  · rfl

end Commands

/-! ### Paths and read-back (R337) -/

/-- The release of a machine takes its STO function out of effect. -/
theorem State.stoEff_stoOut (s : State) {l : Fin 4} (hl : l.1 < 3) : (s.stoOut l).stoEff l = false := by
  have hne : l ≠ 3 := fun e => absurd (congrArg Fin.val e) (by omega)
  have hcause (t : State) (v : Nat) : (t.put STO.pg (stoCauseFld l) v).get STO.pg STO.STAT_EFF = t.get STO.pg STO.STAT_EFF := by
    refine t.get_put_word v ?_
    unfold stoCauseFld
    split <;> decide
  unfold State.stoOut
  rw [if_neg hne, State.stoEff]
  dsimp only
  rw [State.get_within (Kept.tpwRefreshAll _).within (by decide) (by decide),
    State.get_within (Kept.msvReleased ..).within (by decide) (by decide),
    State.get_evt_off _ (by decide) (by decide) (by decide), State.get_incSat_off _ (by decide), hcause]
  exact State.bitOn_putBit_same s false (by decide) (by decide) (by decide) hl

theorem State.on_stoOut (s : State) : (s.stoOut 3).on STO.pg STO.STAT_CONV_EFF = false := by
  unfold State.stoOut
  rw [if_pos rfl, State.on, State.get_evt_off _ (by decide) (by decide) (by decide), State.get_put_off _ _ (by decide)]
  exact State.on_flag_same s false (by decide) rfl (by decide)

/-- When a line goes out of effect, its paths stand. -/
theorem PathsStand.stoOut (s : State) (l : Fin 4) : PathsStand s (s.stoOut l) := by
  have hask (t : State) (k : Nat) : PathsStand t (t.tpwAsk k 1) := (refl t).kept (.tpwAsk ..)
  have hreleased (t : State) (m : Nat) : PathsStand t (t.msvReleased m) :=
    ite ((((refl t).msvGo ..).kept (.msvFollow ..)).trans (State.foldl_related refl trans hask _ _)) (refl t)
  unfold State.stoOut
  refine ite ((((refl s).kept (.flag ..)).kept (.put ..)).kept (.evt ..)) ?_
  exact ((((((refl s).kept (.putBit ..)).kept (.put ..)).kept (.incSat ..)).kept (.evt ..)).trans (hreleased ..)).kept
    (.tpwRefreshAll _)

theorem stoPathBRelease_ends {dt x : Nat} {l : Fin 4} {s : State} (hA : s.halo.pathA.testBit l = true)
    (hB : s.halo.pathB.testBit l = false) (hdiff : vget s.halo.diffAt l = some x) (htime : (s.advance dt).now ≤ x + 400) :
    ∃ t, exec (.stoPathBRelease dt l) s = .next t ∧ t.halo.pathB.testBit l = true ∧
      (l.1 < 3 → t.stoEff l = false) ∧ (l.1 = 3 → t.on STO.pg STO.STAT_CONV_EFF = false) := by
  refine ⟨_, if_pos ?_, ?_, fun hl => State.stoEff_stoOut _ hl, fun hl => ?_⟩
  · simp [hA, hB, hdiff, htime]
  · rw [(PathsStand.stoOut ..).pathB]
    exact testBit_setBits_same _ l.1 1
  · rw [Fin.ext (a := l) (b := 3) hl]
    exact State.on_stoOut _

theorem stoPath_raises {dt x : Nat} {l : Fin 4} {s : State} (hpow : s.dev.off = false) (hdiff : vget s.halo.diffAt l = some x)
    (hdue : x + 4000 ≤ s.now + dt) :
    exec (.stoPath dt l) s = .next (((s.advance dt).evt STO.pg STO.EVT_PATH).raise 0xB05 5 0) := by
  change execStoPath dt l s = _
  simp only [execStoPath, State.advance_halo, hdiff, State.now_advance_of_on hpow, if_pos hdue]

theorem stoReadback_raises (dt : Nat) (b : Fin 8) (s : State) : exec (.stoReadback dt b) s =
    .next ((({ s.advance dt with halo := { s.halo with stoMis := setBits s.halo.stoMis b b 1 } } : State).evt STO.pg
      STO.EVT_READBACK).raise 0xB04 5 0) := by
  rw [← State.advance_halo s dt]
  rfl

/-- Settles O47: a release walks the machines of its mask, an assertion puts their lines low before all else, and the
steps after it leave the paths. -/
theorem stoReleasesAndAssertions : Obligations.StoReleasesAndAssertions := by
  refine fun dt req mask s => ⟨fun hreq hawake => ⟨stoRelease_releases hreq hawake, stoRelease_refused hreq hawake,
    stoAssert_asserts hreq hawake, stoConvRelease_releases hreq hawake, stoConvAssert_asserts hreq hawake⟩, fun hreq => ?_,
    fun l x => stoPathBRelease_ends, fun l x => stoPath_raises, fun b => stoReadback_raises dt b s⟩
  exact congrArg Host.Outcome.next (State.haloCmd_of_other _ hreq ..)

end Sys2Proof.Machine
end

section
/-! SUPPORT. O48: heartbeat lines, the watchdog of HS, and the commands of the fault manager (R332 to R335, R351 to R356). -/

namespace Sys2Proof.Machine
open Sys2Proof

@[simp] theorem State.ghbCodeOf_advance (s : State) (dt l : Nat) : (s.advance dt).ghbCodeOf l = s.ghbCodeOf l := by
  simp [State.ghbCodeOf]

theorem State.get_hloStatus (s : State) (st : Status) :
    (s.status HLO.pg HLO.CMD_LAST_STS st).get HLO.pg HLO.CMD_LAST_STS = st.code :=
  s.get_status st (by decide) (by decide) (by decide) (by decide)

/-! ### Heartbeat lines (R333, R334) -/

theorem ghbHalfPeriod_begins {dt : Nat} {l : Fin 15} {s : State} (hpow : s.dev.off = false) (hok : s.ghbOk l = true)
    (hend : (vget s.halo.ghb l).endAt ≤ s.now + dt) :
    ∃ t, exec (.ghbHalfPeriod dt l) s = .next t ∧ (vget t.halo.ghb l).level = !(vget s.halo.ghb l).level ∧
      (vget t.halo.ghb l).code = s.ghbCodeOf l ∧
      (vget t.halo.ghb l).endAt = s.now + dt + ghbHalf (s.ghbCodeOf l) (!(vget s.halo.ghb l).odd) ∧ t.regs = s.regs := by
  have hline : vget ((s.advance dt).ghbBegin l (!(vget s.halo.ghb l).level) (!(vget s.halo.ghb l).odd)).halo.ghb l =
      ⟨s.ghbCodeOf l, !(vget s.halo.ghb l).level, !(vget s.halo.ghb l).odd,
        s.now + dt + ghbHalf (s.ghbCodeOf l) (!(vget s.halo.ghb l).odd)⟩ := by
    rw [State.ghbBegin, vget_vset_same, State.ghbCodeOf_advance, State.now_advance_of_on hpow]
  refine ⟨(s.advance dt).ghbBegin l (!(vget s.halo.ghb l).level) (!(vget s.halo.ghb l).odd), ?_, by rw [hline], by rw [hline],
    by rw [hline], s.advance_regs dt⟩
  rw [← State.advance_halo s dt]
  exact if_pos ⟨by rw [State.ghbOk_advance, hok], by rw [State.now_advance_of_on hpow, State.advance_halo]; exact hend⟩

/-! ### The watchdog (R352) -/

section Watchdog

variable {dt x : Nat} {req : Req} {val : W32} {s : State} (hpow : s.dev.off = false) (hat : s.halo.kickAt = some x)

include hpow hat

theorem watchdogKick_kicks (hreq : req.1 = 2) (hgood : val.toNat = 0xA55A ∧ x + s.get HLO.pg HLO.CFG_WD_MIN * 400 ≤ s.now + dt ∧
    s.now + dt ≤ x + s.get HLO.pg HLO.CFG_WD_MAX * 400) :
    ∃ t, exec (.watchdogKick dt req val) s = .next t ∧ t.halo.kickAt = some (s.now + dt) ∧
      t.halo.alive = !s.halo.alive ∧ t.regs = s.regs := by
  refine ⟨{ s.advance dt with halo := { (s.advance dt).halo with
    kickAt := some (s.advance dt).now, alive := !(s.advance dt).halo.alive } }, ?_, ?_, ?_, s.advance_regs dt⟩
  · refine congrArg Host.Outcome.next ?_
    simp only [State.kick, hreq, ne_eq, not_true_eq_false, if_false, State.advance_halo, hat, State.get_advance,
      State.now_advance_of_on hpow, if_pos hgood]
  · exact congrArg some (State.now_advance_of_on hpow _)
  · exact congrArg (fun h : HaloH => !h.alive) (State.advance_halo ..)

theorem watchdogKick_raises (hreq : req.1 = 2)
    (hbad : ¬(val.toNat = 0xA55A ∧ x + s.get HLO.pg HLO.CFG_WD_MIN * 400 ≤ s.now + dt ∧
      s.now + dt ≤ x + s.get HLO.pg HLO.CFG_WD_MAX * 400)) :
    exec (.watchdogKick dt req val) s = .next (((s.advance dt).evt HLO.pg HLO.EVT_WDOG).raise 0xB0C 5 0) := by
  refine congrArg Host.Outcome.next ?_
  simp only [State.kick, hreq, ne_eq, not_true_eq_false, if_false, State.advance_halo, hat, State.get_advance,
    State.now_advance_of_on hpow, if_neg hbad]
  rfl

theorem watchdog_raises (hdue : x + s.get HLO.pg HLO.CFG_WD_MAX * 400 ≤ s.now + dt) :
    exec (.watchdog dt) s = .next (((s.advance dt).evt HLO.pg HLO.EVT_WDOG).raise 0xB0C 5 0) := by
  change execWatchdog dt s = _
  simp only [execWatchdog, State.advance_halo, hat, State.get_advance, State.now_advance_of_on hpow, if_pos hdue]
  rfl

end Watchdog

/-! ### Clearing the log and the first fault (R351, R356) -/

/-- Entry `i` of the log cleared. -/
def State.logCleared (s : State) (i : Nat) : State :=
  ((s.put HLO.pg (HLO.LOG_INFO.ix i) 0).put HLO.pg (HLO.LOG_AUX.ix i) 0).put64 HLO.pg (HLO.LOG_STAMP_LO.ix i) 0

/-- The words of entry `i` of the log. -/
def logFields (i : Nat) : List Fld :=
  [HLO.LOG_INFO.ix i, HLO.LOG_AUX.ix i, HLO.LOG_STAMP_LO.ix i, { HLO.LOG_STAMP_LO.ix i with off := (HLO.LOG_STAMP_LO.ix i).off + 4 }]

theorem logFields_off {i : Nat} {x : Fld} (hx : x ∈ logFields i) : 0x100 ≤ x.off := by
  simp only [logFields, List.mem_cons, List.not_mem_nil, or_false] at hx
  rcases hx with rfl | rfl | rfl | rfl <;>
  simp only [Fld.ix, HLO.LOG_INFO, HLO.LOG_AUX, HLO.LOG_STAMP_LO] <;> omega

theorem State.rd_logCleared_keeps {s : State} {a : Nat} (i : Nat) (h : s.rd a = 0) : (s.logCleared i).rd a = 0 :=
  State.rd_put64_zero _ _ (State.rd_put_zero _ _ (State.rd_put_zero _ _ h))

theorem State.rd_logCleared_same (s : State) {i : Nat} (hi : i < 32) {x : Fld} (hx : x ∈ logFields i) :
    (s.logCleared i).rd (fldAddr HLO.pg x) = 0 := by
  have hin {x : Fld} (hx : x.off < 0x1000) : inPage HLO.pg x = true := inPage_of_hasHeader (by decide) rfl hx
  have hlt : ∀ x ∈ logFields i, x.off < 0x1000 := by
    simp only [logFields, List.mem_cons, List.not_mem_nil, or_false, forall_eq_or_imp, forall_eq, Fld.ix, HLO.LOG_INFO,
      HLO.LOG_AUX, HLO.LOG_STAMP_LO]
    omega
  have hoff := hlt x hx
  simp only [logFields, List.mem_cons, List.not_mem_nil, or_false] at hx
  rcases hx with rfl | rfl | rfl | rfl
  · exact State.rd_put64_zero _ _ (State.rd_put_zero _ _ (State.rd_put_zero_same _ (hin hoff) rfl rfl))
  · exact State.rd_put64_zero _ _ (State.rd_put_zero_same _ (hin hoff) rfl rfl)
  · exact State.rd_setWord_zero _ _ (State.rd_setWord_same _ _ (hin hoff))
  · exact State.rd_setWord_same _ _ (hin hoff)

theorem State.get_logCleared (s : State) (i : Nat) {x : Fld} (hx : x.off < 0x100) :
    (s.logCleared i).get HLO.pg x = s.get HLO.pg x := by
  have hne (y : Fld) (hy : y ∈ logFields i) : x.off ≠ y.off := by
    have := logFields_off hy
    omega
  simp only [logFields, List.mem_cons, List.not_mem_nil, or_false, forall_eq_or_imp, forall_eq] at hne
  obtain ⟨hinfo, haux, hlo, hhi⟩ := hne
  refine State.get_eq_of_rd ?_ rfl
  rw [State.logCleared, State.rd_put64_word _ _ (fldAddr_ne_of_off hlo) (fldAddr_ne_of_off hhi),
    State.rd_put_off _ _ haux, State.rd_put_off _ _ hinfo]

/-- The log with every entry cleared. -/
def State.logAllCleared (s : State) : State := (List.range 32).foldl State.logCleared s

theorem State.hloClrLog_eq (s : State) : s.hloClrLog =
    (s.logAllCleared.put HLO.pg HLO.LOGPTR_NEXT 0).status HLO.pg HLO.CMD_LAST_STS .done :=
  s.command_done HLO.pg HLO.CMD_LAST_STS rfl fun s => s.logAllCleared.put HLO.pg HLO.LOGPTR_NEXT 0

theorem State.rd_logAllCleared (s : State) (i : Fin 32) {x : Fld} (hx : x ∈ logFields i) :
    s.logAllCleared.rd (fldAddr HLO.pg x) = 0 :=
  State.foldl_each_mem (R := fun a s => ∀ x ∈ logFields a, s.rd (fldAddr HLO.pg x) = 0) (List.range 32)
    (fun _ _ b _ h x hx => State.rd_logCleared_keeps b (h x hx))
    (fun s _ ha _ hx => s.rd_logCleared_same (List.mem_range.mp ha) hx) s (List.mem_range.mpr i.isLt) x hx

theorem State.get_logAllCleared (s : State) {x : Fld} (hx : x.off < 0x100) :
    s.logAllCleared.get HLO.pg x = s.get HLO.pg x :=
  State.foldl_related (R := fun s t => t.get HLO.pg x = s.get HLO.pg x) (fun _ => rfl) (fun h h' => h'.trans h)
    (fun s i => s.get_logCleared i hx) _ s

/-! ### The latches of the reactions FR3 and FR4 (R332) -/

/-- Both states show the same word of latches. -/
def SameLatches (s t : State) : Prop := t.rd (fldAddr HLO.pg HLO.STAT) = s.rd (fldAddr HLO.pg HLO.STAT)

theorem sameLatches_note (s : State) (code react machs aux : Nat) : SameLatches s (s.note code react machs aux) := by
  have habort : SameLatches s s.abortTransition :=
    (Kept.abortTransition s).within (.block .hlo) (by decide) _ (blockAt_page (by decide))
  have hlog (i : Nat) (x : Fld) (hx : 0x100 ≤ x.off) : HLO.STAT.off ≠ (x.ix i).off := by
    simp only [Fld.ix, HLO.STAT]
    omega
  refine Eq.trans ?_ habort
  unfold State.note State.logEntry State.incWrap
  rw [State.rd_evt_off _ (by decide) (by decide) (by decide), State.rd_put_off _ _ (by decide),
    State.rd_put_off _ _ (by decide), State.rd_put64_word _ _ (fldAddr_ne_of_off (hlog _ _ (by decide))) (fldAddr_ne_of_off ?_),
    State.rd_put_off _ _ (hlog _ _ (by decide)), State.rd_put_off _ _ (hlog _ _ (by decide))]
  simp only [Fld.ix, HLO.STAT, HLO.LOG_STAMP_LO]
  omega

theorem overReactions_sameLatches : OverReactions SameLatches where
  refl _ := rfl
  trans h h' := Eq.trans h' h
  beside k _ hh := k.within (.block .hlo) hh _ (blockAt_page (by decide))
  note := sameLatches_note
  csetEnd s r code := s.rd_csetEnd_word r code (by decide) (by decide)
  deviceEvt s x := (Kept.evt s SYS.pg x).within (.block .hlo) (by decide) _ (blockAt_page (by decide))

theorem SameLatches.bitOn {s t : State} (h : SameLatches s t) {x : Fld} (hx : x.off = 0x00C) (b : Nat) :
    t.bitOn HLO.pg x b = s.bitOn HLO.pg x b := by
  refine State.bitOn_of_rd ?_ b
  rw [fldAddr, hx]
  exact h

/-- An ACK that leaves no latch of its machine ends with both bits clear. -/
theorem State.ackMachine_clear {s : State} {m : Fin 3} (h : (s.ackMachine m).1 = false) :
    (s.ackMachine m).2.bitOn HLO.pg HLO.STAT_FR3 m = false ∧ (s.ackMachine m).2.bitOn HLO.pg HLO.STAT_FR4 m = false := by
  have hclear (t : State) : (((t.putBit HLO.pg HLO.STAT_FR3 m false).putBit HLO.pg HLO.STAT_FR4 m false).stoEval).bitOn
      HLO.pg HLO.STAT_FR3 m = false ∧ (((t.putBit HLO.pg HLO.STAT_FR3 m false).putBit HLO.pg HLO.STAT_FR4 m
        false).stoEval).bitOn HLO.pg HLO.STAT_FR4 m = false := by
    have hsame := overReactions_sameLatches.stoEval ((t.putBit HLO.pg HLO.STAT_FR3 m false).putBit HLO.pg HLO.STAT_FR4 m false)
    rw [hsame.bitOn rfl, hsame.bitOn rfl]
    refine ⟨?_, State.bitOn_putBit_same _ false (by decide) (by decide) (by decide) m.isLt⟩
    refine (congrArg (·.testBit m) (State.get_put_bits (x := HLO.STAT_FR4) (y := HLO.STAT_FR3) _ _ (by decide)
      (by decide) (by decide))).trans ?_
    exact State.bitOn_putBit_same t false (by decide) (by decide) (by decide) m.isLt
  have hend (t : State) (c : Bool) (ht : (if c = true then ((t.bitOn HLO.pg HLO.STAT_FR3 m || t.bitOn HLO.pg HLO.STAT_FR4 m), t)
      else (false, ((t.putBit HLO.pg HLO.STAT_FR3 m false).putBit HLO.pg HLO.STAT_FR4 m false).stoEval)) = s.ackMachine m) :
      (s.ackMachine m).2.bitOn HLO.pg HLO.STAT_FR3 m = false ∧ (s.ackMachine m).2.bitOn HLO.pg HLO.STAT_FR4 m = false := by
    rw [← ht] at h ⊢
    cases c
    · exact hclear t
    · exact Bool.or_eq_false_iff.mp h
  exact hend _ _ rfl

theorem filter_testBit_one (m : Fin 3) :
    ((List.finRange 3).filter fun k : Fin 3 => (BitVec.ofNat 3 (2 ^ m.1)).toNat.testBit k) = [m] := by
  fin_cases m <;> rfl

section Commands

variable {dt : Nat} {req : Req} {s : State} (hawake : s.dstate ≠ .safeHold) (hreq : req.1 = 2)

include hawake hreq

theorem hloClrLog_clears : ∃ t, exec (.hloClrLog dt req) s = .next t ∧ t.get HLO.pg HLO.CMD_LAST_STS = Status.done.code ∧
    t.get HLO.pg HLO.LOGPTR_NEXT = 0 ∧ t.get HLO.pg HLO.LOGPTR_TOTAL = s.get HLO.pg HLO.LOGPTR_TOTAL ∧
    ∀ i : Fin 32, t.get HLO.pg (HLO.LOG_INFO.ix i) = 0 ∧ t.get HLO.pg (HLO.LOG_AUX.ix i) = 0 ∧
      t.get64 HLO.pg (HLO.LOG_STAMP_LO.ix i) = 0 := by
  have hstatus (u : State) {x : Fld} (h1 : x.off ≠ 0x048) (h2 : x.off ≠ 0x02C) :
      (u.status HLO.pg HLO.CMD_LAST_STS .done).get HLO.pg x = u.get HLO.pg x :=
    State.get_eq_of_rd (u.rd_status_off .done h1 h2) rfl
  have hrd (i : Fin 32) {x : Fld} (hx : x ∈ logFields i) : (((s.advance dt).logAllCleared.put HLO.pg HLO.LOGPTR_NEXT 0).status
      HLO.pg HLO.CMD_LAST_STS .done).rd (fldAddr HLO.pg x) = 0 := by
    have hoff := logFields_off hx
    rw [State.rd_status_off _ _ (show x.off ≠ 0x048 by omega) (by omega),
      State.rd_put_zero _ _ ((s.advance dt).rd_logAllCleared i hx)]
  refine ⟨_, congrArg Host.Outcome.next ((State.haloCmd_of_hs hreq hawake ..).trans (State.hloClrLog_eq _)),
    State.get_hloStatus .., ?_, ?_, fun i => ⟨?_, ?_, ?_⟩⟩
  · rw [hstatus _ (by decide) (by decide), State.get_put_same _ _ (by decide) (by decide) (by decide), Nat.zero_mod]
  · rw [hstatus _ (by decide) (by decide), State.get_put_bits _ _ (by decide) (by decide) (by decide),
      State.get_logAllCleared _ (by decide), State.get_advance]
  · exact State.get_of_rd_zero (hrd i (.head _))
  · exact State.get_of_rd_zero (hrd i (.tail _ (.head _)))
  · exact State.get64_of_rd_zero (hrd i (.tail _ (.tail _ (.head _)))) ((congrArg (State.rd _) (Nat.add_assoc ..)).trans
      (hrd i (x := { HLO.LOG_STAMP_LO.ix i with off := (HLO.LOG_STAMP_LO.ix i).off + 4 }) (by simp [logFields])))

theorem hloClrFirst_clears : ∃ t, exec (.hloClrFirst dt req) s = .next t ∧
    t.get HLO.pg HLO.CMD_LAST_STS = Status.done.code ∧ t.get HLO.pg HLO.FIRST_INFO = 0 ∧ t.get HLO.pg HLO.FIRST_AUX = 0 ∧
    t.get64 HLO.pg HLO.FIRST_STAMP_LO = 0 := by
  have hcmd (u : State) : u.hloClrFirst = (((u.put HLO.pg HLO.FIRST_INFO 0).put HLO.pg HLO.FIRST_AUX 0).put64 HLO.pg
      HLO.FIRST_STAMP_LO 0).status HLO.pg HLO.CMD_LAST_STS .done := u.command_done _ _ rfl fun s =>
    ((s.put HLO.pg HLO.FIRST_INFO 0).put HLO.pg HLO.FIRST_AUX 0).put64 HLO.pg HLO.FIRST_STAMP_LO 0
  have hstatus (u : State) {x : Fld} (h1 : x.off ≠ 0x048) (h2 : x.off ≠ 0x02C) (h : u.rd (fldAddr HLO.pg x) = 0) :
      (u.status HLO.pg HLO.CMD_LAST_STS .done).rd (fldAddr HLO.pg x) = 0 := (u.rd_status_off .done h1 h2).trans h
  refine ⟨_, congrArg Host.Outcome.next ((State.haloCmd_of_hs hreq hawake ..).trans (hcmd _)),
    State.get_hloStatus .., State.get_of_rd_zero (hstatus _ (by decide) (by decide) ?_),
    State.get_of_rd_zero (hstatus _ (by decide) (by decide) ?_),
    State.get64_of_rd_zero (hstatus _ (by decide) (by decide) ?_)
      (hstatus _ (x := HLO.FIRST_STAMP_HI) (by decide) (by decide) ?_)⟩
  · exact State.rd_put64_zero _ _ (State.rd_put_zero _ _ (State.rd_put_zero_same _ (by decide) rfl rfl))
  · exact State.rd_put64_zero _ _ (State.rd_put_zero_same _ (by decide) rfl rfl)
  · exact State.rd_setWord_zero _ _ (State.rd_setWord_same _ _ (by decide))
  · exact State.rd_setWord_same _ _ (by decide)

variable {m : Fin 3}

theorem hloAck_answers (heff : s.stoEff m = true) : exec (.hloAck dt req (BitVec.ofNat 3 (2 ^ m.1))) s =
    .next (((s.advance dt).ackMachine m).2.status HLO.pg HLO.CMD_LAST_STS
      (if ((s.advance dt).ackMachine m).1 then .notReady else .done)) := by
  refine congrArg Host.Outcome.next ((State.haloCmd_of_hs hreq hawake ..).trans ?_)
  unfold State.hloAck
  simp only [filter_testBit_one, List.all_cons, List.all_nil, State.stoEff_advance, heff, Bool.and_true, if_true,
    List.foldl_cons, List.foldl_nil, Bool.false_or]

theorem hloAck_refused (heff : s.stoEff m = false) : exec (.hloAck dt req (BitVec.ofNat 3 (2 ^ m.1))) s =
    .next ((s.advance dt).status HLO.pg HLO.CMD_LAST_STS .illegalState) := by
  refine congrArg Host.Outcome.next ((State.haloCmd_of_hs hreq hawake ..).trans ?_)
  unfold State.hloAck
  simp only [filter_testBit_one, List.all_cons, List.all_nil, State.stoEff_advance, heff, Bool.false_and, Bool.false_eq_true,
    if_false]

theorem hloAck_clears (heff : s.stoEff m = true) (hnone : ((s.advance dt).ackMachine m).1 = false) :
    ∃ t, exec (.hloAck dt req (BitVec.ofNat 3 (2 ^ m.1))) s = .next t ∧ t.get HLO.pg HLO.CMD_LAST_STS = Status.done.code ∧
      t.bitOn HLO.pg HLO.STAT_FR3 m = false ∧ t.bitOn HLO.pg HLO.STAT_FR4 m = false := by
  have hsame (u : State) (st : Status) : SameLatches u (u.status HLO.pg HLO.CMD_LAST_STS st) :=
    u.rd_status_off st (by decide) (by decide)
  obtain ⟨h3, h4⟩ := State.ackMachine_clear hnone
  refine ⟨_, hloAck_answers hawake hreq heff, ?_, ?_, ?_⟩
  · rw [State.get_hloStatus, hnone]
    rfl
  · rw [(hsame _ _).bitOn rfl, h3]
  · rw [(hsame _ _).bitOn rfl, h4]

theorem hloAck_notReady (heff : s.stoEff m = true) (hrest : ((s.advance dt).ackMachine m).1 = true) :
    ∃ t, exec (.hloAck dt req (BitVec.ofNat 3 (2 ^ m.1))) s = .next t ∧
      t.get HLO.pg HLO.CMD_LAST_STS = Status.notReady.code := by
  refine ⟨_, hloAck_answers hawake hreq heff, ?_⟩
  rw [State.get_hloStatus, hrest]
  rfl

end Commands

/-- Settles O48: each clause is the meaning of its command; an ACK of one machine ends with that machine's answer, and what
follows the clearing of its latches writes no latch. -/
theorem heartbeatWatchdogAndLogCommands : Obligations.HeartbeatWatchdogAndLogCommands := by
  refine fun dt req s => ⟨fun l => ghbHalfPeriod_begins, fun l => rfl, fun val x hpow hreq hat =>
    ⟨watchdogKick_kicks hpow hat hreq, watchdogKick_raises hpow hat hreq, watchdog_raises hpow hat⟩, fun hawake hreq =>
    ⟨hloClrLog_clears hawake hreq, hloClrFirst_clears hawake hreq, fun m =>
      ⟨hloAck_clears hawake hreq, hloAck_notReady hawake hreq, hloAck_refused hawake hreq⟩⟩⟩

end Sys2Proof.Machine
end

section
/-! SUPPORT. O49: safe inputs, their filters, tests and acknowledgement (R318, R340 to R344). -/

namespace Sys2Proof.Machine
open Sys2Proof

theorem inPage_sfi (k : Fin 16) {x : Fld} (hx : x.off < 0xF00) (hs : x.stride = 4) : inPage SFI.pg (x.ix k) = true :=
  inPage_of_hasHeader rfl rfl (show x.off + k.1 * x.stride < 0x1000 by rw [hs]; omega)

theorem State.get_sfiStatus (s : State) (st : Status) :
    (s.status SFI.pg SFI.CMD_LAST_STS st).get SFI.pg SFI.CMD_LAST_STS = st.code :=
  s.get_status st (by decide) (by decide) (by decide) (by decide)

@[simp] theorem State.vget_sfiSet (s : State) (k : Fin 16) (f : SfiIn → SfiIn) :
    vget (s.sfiSet k f).halo.sfi k = f (vget s.halo.sfi k) := vget_vset_same ..

@[simp] theorem State.get_sfiSet (s : State) (k : Fin 16) (f : SfiIn → SfiIn) (p : Page) (x : Fld) :
    (s.sfiSet k f).get p x = s.get p x := rfl

/-! ### Samples (R318, R340, R341) -/

theorem sfiSample_runs {dt : Nat} (r1 r2 : BitVec 32) (fb : BitVec 4) {s : State} (hpow : s.dev.off = false)
    (hon : s.dstate ≠ .off) (hgrid : (s.now + dt) % 400 = 0) :
    exec (.sfiSample dt r1 r2 fb) s =
      if r1 = r2 then .next ((List.finRange 16).foldl
        (fun (u : State) (k : Fin 16) => u.sfiInput k (r1.toNat.testBit k) (r1.toNat.testBit (16 + k)))
        ((((s.advance dt).sbcSample 0 (fb.toNat % 4)).sbcSample 1 (fb.toNat / 4)).sfiRecord r1))
      else .next (((s.advance dt).sbcSample 0 (fb.toNat % 4)).sbcSample 1 (fb.toNat / 4)).sampleXchg :=
  if_pos ⟨by rw [State.now_advance_of_on hpow, hgrid], by rwa [State.dstate_advance]⟩

theorem State.sfiRecord_keeps (s : State) (v : W32) : (s.sfiRecord v).lks.lastRec = some v ∧
    (s.sfiRecord v).lks.recs = if s.lks.lastRec = some v then s.lks.recs else s.lks.recs ++ [v] := by
  unfold State.sfiRecord
  split
  next h => exact ⟨h, rfl⟩
  next h => exact ⟨rfl, rfl⟩

/-- The sample of an input that is not enabled. -/
theorem State.sfiInput_disabled {s : State} {k : Fin 16} (h : s.on SFI.pg (SFI.CFG_EN.ix k) = false) (a b : Bool) :
    s.sfiInput k a b = ((if (vget s.halo.sfi k).demand then s.sfiEnd k else s).sfiSet k fun _ => SfiIn.idle).put SFI.pg
      (SFI.ST.ix k) 0 := by
  unfold State.sfiInput
  simp only [h, Bool.false_eq_true, not_false_eq_true, if_true]

theorem State.sfiInput_idles {s : State} {k : Fin 16} (h : s.on SFI.pg (SFI.CFG_EN.ix k) = false) (a b : Bool) :
    (s.sfiInput k a b).get SFI.pg (SFI.ST.ix k) = 0 ∧ vget (s.sfiInput k a b).halo.sfi k = SfiIn.idle := by
  rw [State.sfiInput_disabled h]
  refine ⟨(State.get_put_ix_same _ 0 (inPage_sfi k (by decide) rfl) (by decide) (by decide)).trans (Nat.zero_mod _), ?_⟩
  rw [State.put_halo, State.vget_sfiSet]

/-! #### The filter of a channel (R341) -/

theorem SfiChan.sample_safe (c : SfiChan) (now lowN ms : Nat) : (c.sample true now lowN ms).lows = c.lows + 1 ∧
    (lowN ≤ c.lows + 1 → (c.sample true now lowN ms).st = .safe) ∧
    (c.lows + 1 < lowN → (c.sample true now lowN ms).st = c.st) :=
  ⟨rfl, fun h => if_pos h, fun h => if_neg (Nat.not_le_of_lt h)⟩

theorem SfiChan.sample_run (c : SfiChan) (now lowN ms : Nat) : (c.sample false now lowN ms).lows = 0 ∧
    ∀ x, c.runSince = some x → (x + ms * 400000 ≤ now → (c.sample false now lowN ms).st = .run) ∧
      (now < x + ms * 400000 → (c.sample false now lowN ms).st = c.st) := by
  refine ⟨rfl, fun x hx => ?_⟩
  simp only [SfiChan.sample, hx, Bool.false_eq_true, if_false, Option.getD_some]
  exact ⟨fun h => if_pos h, fun h => if_neg (Nat.not_le_of_lt h)⟩

/-! ### Test pulses (R344) -/

/-- A line whose pulse has ended is high in every state but OFF. -/
theorem State.tpoLevel_of_end {s : State} {j : Fin 4} {x : Nat} (h : vget s.halo.tpoEnd j = some x) :
    s.tpoLevel j = (s.dstate != .off) := by
  unfold State.tpoLevel
  rw [h]
  cases vget s.halo.tpoAt j <;> rfl

section Pulses

variable {dt : Nat} {j : Fin 4} {s : State} (hpow : s.dev.off = false) (hon : s.dstate ≠ .off)

include hpow hon

theorem tpoPulseStart_lowers (hen : s.bitOn SFI.pg SFI.FILT_TPO_EN j = true)
    (hat : (s.now + dt) % (s.get SFI.pg SFI.TPO_PER * 400000) = j * (s.get SFI.pg SFI.TPO_PER * 400000) / 4) :
    ∃ t, exec (.tpoPulseStart dt j) s = .next t ∧ vget t.halo.tpoAt j = some (s.now + dt) ∧ t.tpoLevel j = false := by
  refine ⟨_, if_pos ⟨by rwa [State.bitOn_advance], by rwa [State.now_advance_of_on hpow, State.get_advance],
    by rwa [State.dstate_advance]⟩, ?_, ?_⟩
  · exact (vget_vset_same ..).trans (congrArg some (State.now_advance_of_on hpow _))
  · simp only [State.tpoLevel, vget_vset_same]

theorem tpoPulseEnd_raises {x : Nat} (hat : vget s.halo.tpoAt j = some x) (hend : vget s.halo.tpoEnd j = none)
    (hdue : x + s.get SFI.pg SFI.TPO_PW * 400 ≤ s.now + dt) :
    ∃ t, exec (.tpoPulseEnd dt j) s = .next t ∧ vget t.halo.tpoEnd j = some (s.now + dt) ∧ t.tpoLevel j = true := by
  refine ⟨{ s.advance dt with halo := { (s.advance dt).halo with
    tpoEnd := vset (s.advance dt).halo.tpoEnd j (some (s.advance dt).now) } }, ?_, ?_, ?_⟩
  · change execTpoPulseEnd dt j s = _
    have hdue' : (s.advance dt).tpoEndOf x ≤ s.now + dt := by rwa [State.tpoEndOf, State.get_advance]
    unfold execTpoPulseEnd
    dsimp only
    rw [State.advance_halo, hat, hend]
    exact if_pos (by rwa [State.now_advance_of_on hpow])
  · exact (vget_vset_same ..).trans (congrArg some (State.now_advance_of_on hpow _))
  · refine (State.tpoLevel_of_end (vget_vset_same ..)).trans ?_
    change ((s.advance dt).dstate != .off) = true
    simpa using hon

end Pulses

/-! ### Commands (R341 to R344) -/

/-- Clearing one latch of an input that has none leaves it without. -/
theorem State.sfiLatched_clear {s : State} {k : Fin 16} (h : s.sfiLatched k = false) {x : Fld}
    (hx : x = SFI.ST_STUCK ∨ x = SFI.ST_XS) : (s.flag SFI.pg (x.ix k) false).sfiLatched k = false := by
  have hin (y : Fld) (ho : y.off = 0x0C0) (hs : y.stride = 4) : inPage SFI.pg (y.ix k) = true := inPage_sfi k (by omega) hs
  have hsame (y : Fld) (ho : y.off = 0x0C0) (hs : y.stride = 4) (hw : y.hi = y.lo) (hh : y.hi < 32) :
      (s.flag SFI.pg (y.ix k) false).on SFI.pg (y.ix k) = false := State.on_flag_same s false (hin y ho hs) hw hh
  have hbits (y z : Fld) (hw : y.hi = y.lo) (hh : y.hi < 32) (hd : z.hi < y.lo ∨ y.hi < z.lo) :
      (s.flag SFI.pg (y.ix k) false).on SFI.pg (z.ix k) = s.on SFI.pg (z.ix k) :=
    congrArg (· == 1) (s.get_put_ix_bits _ (by omega) hh hd)
  simp only [State.sfiLatched, Bool.or_eq_false_iff] at h ⊢
  obtain ⟨⟨hdisc, hstuck⟩, hxs⟩ := h
  rcases hx with rfl | rfl
  · rw [hbits SFI.ST_STUCK SFI.ST_DISC rfl (by decide) (by decide), hbits SFI.ST_STUCK SFI.ST_XS rfl (by decide) (by decide)]
    exact ⟨⟨hdisc, hsame _ rfl rfl rfl (by decide)⟩, hxs⟩
  · rw [hbits SFI.ST_XS SFI.ST_DISC rfl (by decide) (by decide), hbits SFI.ST_XS SFI.ST_STUCK rfl (by decide) (by decide)]
    exact ⟨⟨hdisc, hstuck⟩, hsame _ rfl rfl rfl (by decide)⟩

/-- What an acknowledgement clears of the latches of tests. -/
def State.sfiTestsCleared (s : State) (k : Fin 16) : State :=
  if (vget s.halo.sfi k).testOk then (s.flag SFI.pg (SFI.ST_STUCK.ix k) false).flag SFI.pg (SFI.ST_XS.ix k) false else s

theorem State.sfiTestsCleared_latched {s : State} {k : Fin 16} (h : s.sfiLatched k = false) :
    (s.sfiTestsCleared k).sfiLatched k = false := by
  unfold State.sfiTestsCleared
  split
  · exact State.sfiLatched_clear (State.sfiLatched_clear h (.inl rfl)) (.inr rfl)
  · exact h

theorem State.sfiTestsCleared_halo (s : State) (k : Fin 16) : (s.sfiTestsCleared k).halo = s.halo := by
  unfold State.sfiTestsCleared
  split
  · rw [State.flag_halo, State.flag_halo]
  · rfl

theorem State.sfiEnd_ends (s : State) (k : Fin 16) : (vget (s.sfiEnd k).halo.sfi k).demand = false ∧
    (s.sfiEnd k).bitOn SFI.pg SFI.STAT_DEMAND k = false := by
  unfold State.sfiEnd
  dsimp only
  constructor
  · rw [State.sfi_stoEval, (Unmoved.evt ..).halo, State.flag_halo, (Unmoved.putBit ..).halo, State.vget_sfiSet]
  · rw [State.bitOn, State.get_within (Kept.stoEval _).within (by decide) (by decide),
      State.get_evt_off _ (by decide) (by decide) (by decide), State.get_flag_off _ _ (ix_off_ne_of_lt (by decide) _).symm]
    exact State.bitOn_putBit_same _ false (by decide) (by decide) (by decide) k.isLt

/-- An enabled input without latches whose demand is over on both channels. -/
structure State.MayAck (s : State) (k : Fin 16) : Prop where
  en : s.on SFI.pg (SFI.CFG_EN.ix k) = true
  latched : s.sfiLatched k = false
  demand : (vget s.halo.sfi k).demand = true
  c1 : (vget s.halo.sfi k).c1.st = .run
  c2 : (vget s.halo.sfi k).c2.st = .run

theorem State.sfiAck_ends {s : State} {k : Fin 16} (h : s.MayAck k) : s.sfiAck k =
    (((s.sfiTestsCleared k).flag SFI.pg (SFI.ST_RUN.ix k) true).sfiEnd k).status SFI.pg SFI.CMD_LAST_STS .done := by
  have hdisc : s.on SFI.pg (SFI.ST_DISC.ix k) = false := by
    have hl := h.latched
    simp only [State.sfiLatched, Bool.or_eq_false_iff] at hl
    exact hl.1.1
  have hlatch := State.sfiTestsCleared_latched h.latched
  have hend := (((s.sfiTestsCleared k).flag SFI.pg (SFI.ST_RUN.ix k) true).sfiEnd_ends k).1
  unfold State.sfiTestsCleared at hlatch hend ⊢
  unfold State.sfiAck
  simp only [h.en, not_true_eq_false, if_false, hdisc, Bool.false_and, Bool.false_eq_true, h.demand, h.c1, h.c2, hlatch,
    beq_self_eq_true, Bool.and_true, Bool.not_false, if_true, hend, Bool.or_false]

section Commands

variable {dt : Nat} {req : Req} {s : State} (hreq : req.1 = 2) (hawake : s.dstate ≠ .safeHold)

include hreq hawake

theorem sfiAck_acknowledges {k : Fin 16} (h : s.MayAck k) :
    ∃ t, exec (.sfiAck dt req k) s = .next t ∧ t.get SFI.pg SFI.CMD_LAST_STS = Status.done.code ∧
      (vget t.halo.sfi k).demand = false ∧ t.bitOn SFI.pg SFI.STAT_DEMAND k = false := by
  have hnow : (s.advance dt).MayAck k := by
    refine ⟨by rw [State.on_advance, h.en], ?_, ?_, ?_, ?_⟩
    · rw [← h.latched]
      simp [State.sfiLatched]
    · rw [State.advance_halo, h.demand]
    · rw [State.advance_halo, h.c1]
    · rw [State.advance_halo, h.c2]
  refine ⟨_, congrArg Host.Outcome.next ((State.haloCmd_of_hs hreq hawake ..).trans (State.sfiAck_ends hnow)),
    State.get_sfiStatus .., ?_, ?_⟩
  · rw [(Unmoved.status ..).halo]
    exact (State.sfiEnd_ends _ k).1
  · rw [State.bitOn_of_rd (State.rd_status_off _ _ (by decide) (by decide))]
    exact (State.sfiEnd_ends _ k).2

theorem sfiAck_refused {k : Fin 16} (hen : s.on SFI.pg (SFI.CFG_EN.ix k) = false) : exec (.sfiAck dt req k) s =
    .next ((s.advance dt).status SFI.pg SFI.CMD_LAST_STS .illegalState) :=
  congrArg Host.Outcome.next ((State.haloCmd_of_hs hreq hawake ..).trans (if_pos (by simp [hen])))

theorem sfiClrCnt_clears : ∃ t, exec (.sfiClrCnt dt req) s = .next t ∧ t.rd (fldAddr SFI.pg SFI.CNT) = 0 ∧
    t.get SFI.pg SFI.CMD_LAST_STS = Status.done.code := by
  refine ⟨_, congrArg Host.Outcome.next ((State.haloCmd_of_hs hreq hawake ..).trans
    (State.command_done _ SFI.pg SFI.CMD_LAST_STS rfl fun s => s.setWord SFI.pg SFI.CNT 0)), ?_, State.get_sfiStatus ..⟩
  rw [State.rd_status_off _ _ (by decide) (by decide)]
  exact State.rd_setWord_same _ _ (by decide)

end Commands

/-- Settles O49: a sample decides each input on the agreed record, and an acknowledgement of an input without latches ends
its demand. -/
theorem safeInputsAreSampledAndTested : Obligations.SafeInputsAreSampledAndTested := by
  refine ⟨fun dt r1 r2 fb s hpow hon hgrid => ⟨fun h => ?_, fun h => ⟨_, ?_, rfl⟩⟩, State.sfiRecord_keeps,
    fun s k a b h => State.sfiInput_idles h a b, fun c now lowN ms => ⟨c.sample_safe now lowN ms, c.sample_run now lowN ms⟩,
    fun dt j s hpow hon => ⟨tpoPulseStart_lowers hpow hon, fun x => tpoPulseEnd_raises hpow hon⟩,
    fun dt req k s hreq hawake => ⟨fun hen hl hd h1 h2 => sfiAck_acknowledges hreq hawake ⟨hen, hl, hd, h1, h2⟩,
      sfiAck_refused hreq hawake, sfiClrCnt_clears hreq hawake⟩⟩
  · exact (sfiSample_runs r1 r2 fb hpow hon hgrid).trans (if_pos h)
  · exact (sfiSample_runs r1 r2 fb hpow hon hgrid).trans (if_neg h)

end Sys2Proof.Machine
end

section
/-! SUPPORT. O50: stop functions and brakes (R345 to R349). -/

namespace Sys2Proof.Machine
open Sys2Proof

theorem inPage_brake (c : Fin 2) {x : Fld} (hx : x.off < 0xF00) (hs : x.stride = 8) : inPage SSF.pg (x.ix c) = true :=
  inPage_of_hasHeader rfl rfl (show x.off + c.1 * x.stride < 0x1000 by rw [hs]; omega)

theorem State.get_ssfStatus (s : State) (st : Status) :
    (s.status SSF.pg SSF.CMD_LAST_STS st).get SSF.pg SSF.CMD_LAST_STS = st.code :=
  s.get_status st (by decide) (by decide) (by decide) (by decide)

@[simp] theorem State.stopH_advance (s : State) (dt m : Nat) : (s.advance dt).stopH m = s.stopH m := by
  simp only [State.stopH, State.advance_halo]

@[simp] theorem State.sbcFree_advance (s : State) (dt : Nat) (c : Fin 2) : (s.advance dt).sbcFree c = s.sbcFree c := by
  simp [State.sbcFree]

@[simp] theorem State.vget_sbcSet (s : State) (c : Fin 2) (f : SbcH → SbcH) :
    vget (s.sbcSet c f).halo.sbc c = f (vget s.halo.sbc c) := vget_vset_same ..

@[simp] theorem State.get_sbcSet (s : State) (c : Fin 2) (f : SbcH → SbcH) (p : Page) (x : Fld) :
    (s.sbcSet c f).get p x = s.get p x := rfl

/-! ### The words of a brake channel -/

/-- What the page shows of brake channel `c`: its outputs, its state, and whether it is released. -/
structure State.Brake (s : State) (c out st : Nat) (rel : Bool) : Prop where
  out : s.get SSF.pg (SSF.SBCST_OUT.ix c) = out
  st : s.get SSF.pg (SSF.SBCST_STATE.ix c) = st
  rel : s.bitOn SSF.pg SSF.STAT_RELEASED c = rel

/-- The fields of channel `c` are the same in both states. -/
structure SameBrake (c : Nat) (s t : State) : Prop where
  out : t.get SSF.pg (SSF.SBCST_OUT.ix c) = s.get SSF.pg (SSF.SBCST_OUT.ix c)
  st : t.get SSF.pg (SSF.SBCST_STATE.ix c) = s.get SSF.pg (SSF.SBCST_STATE.ix c)
  rel : t.bitOn SSF.pg SSF.STAT_RELEASED c = s.bitOn SSF.pg SSF.STAT_RELEASED c

namespace SameBrake

variable {c : Nat} {s t u : State}

theorem refl (s : State) : SameBrake c s s := ⟨rfl, rfl, rfl⟩

theorem trans (h : SameBrake c s t) (h' : SameBrake c t u) : SameBrake c s u :=
  ⟨h'.out.trans h.out, h'.st.trans h.st, h'.rel.trans h.rel⟩

theorem ite {p : Prop} [Decidable p] (h : SameBrake c s t) (h' : SameBrake c s u) : SameBrake c s (if p then t else u) := by
  split <;> assumption

theorem sbcSet (s : State) (k : Fin 2) (f : SbcH → SbcH) : SameBrake c s (s.sbcSet k f) := ⟨rfl, rfl, rfl⟩

/-- A field of another channel. -/
theorem putOther (s : State) {k : Nat} (hk : k ≠ c) {x : Fld} (v : Nat) (ho : x.off = 0x064) (hs : x.stride = 8) :
    SameBrake c s (s.put SSF.pg (x.ix k) v) := by
  have hne {y : Fld} (hy : y.off = 0x064) (hys : y.stride = 8) : (y.ix c).off ≠ (x.ix k).off := by
    simp only [Fld.ix, ho, hs, hy, hys]
    omega
  refine ⟨s.get_put_off v (hne rfl rfl), s.get_put_off v (hne rfl rfl), congrArg (·.testBit c) (s.get_put_off v ?_)⟩
  simp only [Fld.ix, ho, SSF.STAT_RELEASED]
  omega

theorem released (s : State) {k : Nat} (hk : k ≠ c) (v : Bool) : SameBrake c s (s.putBit SSF.pg SSF.STAT_RELEASED k v) := by
  have hoff (y : Fld) (hy : y.off = 0x064) : (y.ix c).off ≠ SSF.STAT_RELEASED.off := ix_off_ne_of_lt (by rw [hy]; decide) c
  refine ⟨s.get_putBit_off _ _ (hoff _ rfl), s.get_putBit_off _ _ (hoff _ rfl), ?_⟩
  rw [State.bitOn, State.putBit, s.get_put_same _ (by decide) (by decide) (by decide), Nat.testBit_mod_two_pow,
    testBit_setBits_other _ _ hk.symm, State.bitOn]
  by_cases hc : c < SSF.STAT_RELEASED.hi + 1 - SSF.STAT_RELEASED.lo
  · rw [decide_eq_true hc, Bool.true_and]
  · rw [decide_eq_false hc, Bool.false_and]
    exact (Nat.testBit_lt_two_pow (Nat.lt_of_lt_of_le (bits_lt ..) (Nat.pow_le_pow_right (by decide) (by omega)))).symm

end SameBrake

theorem State.Brake.same {s t : State} {c out st : Nat} {rel : Bool} (h : s.Brake c out st rel) (h' : SameBrake c s t) :
    t.Brake c out st rel := ⟨h'.out.trans h.out, h'.st.trans h.st, h'.rel.trans h.rel⟩

/-- A write of outputs, then of the state, of one channel. -/
theorem State.brake_put (s : State) (c : Fin 2) {out st : Nat} (hout : out < 4) (hst : st < 8) :
    ((s.put SSF.pg (SSF.SBCST_OUT.ix c) out).put SSF.pg (SSF.SBCST_STATE.ix c) st).get SSF.pg (SSF.SBCST_OUT.ix c) = out ∧
    ((s.put SSF.pg (SSF.SBCST_OUT.ix c) out).put SSF.pg (SSF.SBCST_STATE.ix c) st).get SSF.pg (SSF.SBCST_STATE.ix c) = st := by
  refine ⟨(State.get_put_ix_bits _ _ (by decide) (by decide) (by decide)).trans ?_, ?_⟩
  · exact (State.get_put_ix_same _ _ (inPage_brake c (by decide) rfl) (by decide) (by decide)).trans (Nat.mod_eq_of_lt hout)
  · exact (State.get_put_ix_same _ _ (inPage_brake c (by decide) rfl) (by decide) (by decide)).trans (Nat.mod_eq_of_lt hst)

theorem State.get_putBit_brake (s : State) (c : Nat) (b : Nat) (v : Bool) {x : Fld} (hx : x.off = 0x064) :
    (s.putBit SSF.pg SSF.STAT_RELEASED b v).get SSF.pg (x.ix c) = s.get SSF.pg (x.ix c) :=
  s.get_putBit_off _ _ (ix_off_ne_of_lt (by rw [hx]; decide) c)

/-! ### Application and release (R348, R349) -/

/-- Channel `c` with its outputs low, and in state 0 unless it is in FAULT. -/
def State.brakeLow (s : State) (c : Fin 2) : State :=
  let s := s.put SSF.pg (SSF.SBCST_OUT.ix c) 0
  if s.get SSF.pg (SSF.SBCST_STATE.ix c) = 3 then s else s.put SSF.pg (SSF.SBCST_STATE.ix c) 0

theorem State.sbcApply_eq (s : State) (c : Fin 2) : s.sbcApply c = ((s.sbcSet c fun b => { b with
    changeAt := if s.get SSF.pg (SSF.SBCST_OUT.ix c) = 0 then b.changeAt else s.now, applyAt := none, test := none
    }).brakeLow c).putBit SSF.pg SSF.STAT_RELEASED c false := rfl

theorem State.get_brakeLow (s : State) (c : Fin 2) : (s.brakeLow c).get SSF.pg (SSF.SBCST_OUT.ix c) = 0 := by
  have hout : (s.put SSF.pg (SSF.SBCST_OUT.ix c) 0).get SSF.pg (SSF.SBCST_OUT.ix c) = 0 :=
    (State.get_put_ix_same _ _ (inPage_brake c (by decide) rfl) (by decide) (by decide)).trans (Nat.zero_mod _)
  unfold State.brakeLow
  dsimp only
  split
  · exact hout
  · exact (State.get_put_ix_bits _ _ (by decide) (by decide) (by decide)).trans hout

theorem State.halo_brakeLow (s : State) (c : Fin 2) : (s.brakeLow c).halo = s.halo := by
  unfold State.brakeLow
  dsimp only
  split
  · exact s.put_halo ..
  · exact (State.put_halo ..).trans (s.put_halo ..)

theorem State.sbcApply_out (s : State) (c : Fin 2) : (s.sbcApply c).get SSF.pg (SSF.SBCST_OUT.ix c) = 0 ∧
    (s.sbcApply c).bitOn SSF.pg SSF.STAT_RELEASED c = false ∧ (vget (s.sbcApply c).halo.sbc c).applyAt = none := by
  rw [State.sbcApply_eq, State.get_putBit_brake _ _ _ _ rfl, State.get_brakeLow, (Unmoved.putBit ..).halo,
    State.halo_brakeLow, State.vget_sbcSet]
  exact ⟨rfl, State.bitOn_putBit_same _ false (by decide) (by decide) (by decide) c.isLt, rfl⟩

theorem SameBrake.sbcApply (s : State) {c : Nat} {k : Fin 2} (hk : k.1 ≠ c) : SameBrake c s (s.sbcApply k) := by
  unfold State.sbcApply
  dsimp only
  have hout (u : State) : SameBrake c u (u.put SSF.pg (SSF.SBCST_OUT.ix k) 0) := .putOther u hk 0 rfl rfl
  exact (((SameBrake.sbcSet ..).trans (hout _)).trans (.ite (.refl _) (.putOther _ hk 0 rfl rfl))).trans (.released _ hk false)

theorem State.sbcRelease_released {s : State} {c : Fin 2} (h : s.get SSF.pg (SSF.SBCST_STATE.ix c) = 0) :
    (s.sbcRelease c).Brake c 3 1 true := by
  unfold State.sbcRelease
  dsimp only
  rw [if_pos h]
  obtain ⟨hout, hst⟩ := State.brake_put (s.sbcSet c fun b => { b with
    changeAt := s.now, relAt := s.now, applyAt := none, test := none }) c (out := 3) (st := 1) (by decide) (by decide)
  exact ⟨(State.get_putBit_brake _ _ _ _ rfl).trans hout, (State.get_putBit_brake _ _ _ _ rfl).trans hst,
    State.bitOn_putBit_same _ true (by decide) (by decide) (by decide) c.isLt⟩

theorem SameBrake.sbcRelease (s : State) {c : Nat} {k : Fin 2} (hk : k.1 ≠ c) : SameBrake c s (s.sbcRelease k) :=
  .ite (((SameBrake.sbcSet ..).trans ((SameBrake.putOther _ hk 3 rfl rfl).trans (.putOther _ hk 1 rfl rfl))).trans
    (.released _ hk true)) (.sbcSet ..)

/-- A released channel stays so over a release. -/
theorem State.Brake.sbcRelease {s : State} {c k : Fin 2} (h : s.Brake c 3 1 true) : (s.sbcRelease k).Brake c 3 1 true := by
  by_cases hk : k = c
  · rw [hk]
    unfold State.sbcRelease
    dsimp only
    rw [if_neg (by rw [h.st]; decide)]
    exact h.same (.sbcSet ..)
  · exact h.same (.sbcRelease s fun e => hk (Fin.ext e))

/-- What one element of a fold brings about in the states of an invariant, if every step keeps both. -/
theorem State.foldl_reaches {α : Type} {I R : State → Prop} {f : State → α → State} {l : List α} {a : α} (ha : a ∈ l)
    (hinv : ∀ s, ∀ b ≠ a, I s → I (f s b)) (hset : ∀ s, I s → R (f s a)) (hkeep : ∀ s b, R s → R (f s b)) {s : State}
    (hs : I s) : R (l.foldl f s) := by
  have hkeeps (k : List α) (s : State) (h : R s) : R (k.foldl f s) := by
    induction k generalizing s with
    | nil => exact h
    | cons b k ih => exact ih _ (hkeep s b h)
  induction l generalizing s with
  | nil => exact absurd ha (by simp)
  | cons b l ih =>
    by_cases hb : b = a
    · rw [hb]
      exact hkeeps l _ (hset s hs)
    · exact ih (List.mem_of_ne_of_mem (Ne.symm hb) ha) (hinv s b hb hs)

theorem mem_sbcChans {ch : Nat} {c : Fin 2} (h : ch.testBit c = true) : c ∈ sbcChans ch :=
  List.mem_filter.mpr ⟨List.mem_finRange c, h⟩

theorem sbcChans_all {ch : Nat} {f : Fin 2 → Bool} (h : ∀ c : Fin 2, ch.testBit c = true → f c = true) :
    (sbcChans ch).all f = true :=
  List.all_eq_true.mpr fun c hc => h c (List.mem_filter.mp hc).2

/-! ### Commands (R345, R348, R349) -/

theorem State.get_ssfStatus_off (s : State) (st : Status) {x : Fld} (h1 : x.off ≠ 0x040) (h2 : x.off ≠ 0x02C) :
    (s.status SSF.pg SSF.CMD_LAST_STS st).get SSF.pg x = s.get SSF.pg x :=
  State.get_eq_of_rd (s.rd_status_off st h1 h2) rfl

section Commands

variable {dt : Nat} {req : Req} {ch : BitVec 2} {s : State} (hreq : req.1 = 2) (hawake : s.dstate ≠ .safeHold)

include hreq hawake

theorem State.ssfOp_of_hs (op mask k : Nat) : (s.advance dt).ssfOp req op mask k = (s.advance dt).ssfCmd op mask k :=
  State.haloCmd_of_hs hreq hawake dt _ _ fun s => s.ssfCmd op mask k

theorem ssfSs1_selects (mask : BitVec 3) : exec (.ssfSs1 dt req mask) s =
    .next (((s.advance dt).machines mask.toNat State.stopSelect).status SSF.pg SSF.CMD_LAST_STS .done) :=
  congrArg Host.Outcome.next ((State.ssfOp_of_hs hreq hawake 1 mask.toNat 0).trans
    (State.command_done _ _ _ rfl fun s => s.machines mask.toNat State.stopSelect))

theorem ssfBrakeApply_applies : ∃ t, exec (.ssfBrakeApply dt req ch) s = .next t ∧
    t.get SSF.pg SSF.CMD_LAST_STS = Status.done.code ∧
    ∀ c : Fin 2, ch.toNat.testBit c = true → t.get SSF.pg (SSF.SBCST_OUT.ix c) = 0 ∧
      t.bitOn SSF.pg SSF.STAT_RELEASED c = false := by
  refine ⟨_, congrArg Host.Outcome.next ((State.ssfOp_of_hs hreq hawake 2 0 ch.toNat).trans
    (State.command_done _ _ _ rfl fun s => (sbcChans ch.toNat).foldl State.sbcApply s)), State.get_ssfStatus .., fun c hc => ?_⟩
  rw [State.get_ssfStatus_off _ _ (ix_off_ne_of_lt (by decide) _) (ix_off_ne_of_lt (by decide) _),
    State.bitOn, State.get_ssfStatus_off _ _ (by decide) (by decide)]
  refine State.foldl_each (R := fun (c : Fin 2) s => s.get SSF.pg (SSF.SBCST_OUT.ix c) = 0 ∧
    s.bitOn SSF.pg SSF.STAT_RELEASED c = false) (fun s a b h => ?_) (fun s a => ?_) _ _ (mem_sbcChans hc)
  · by_cases hb : b = a
    · rw [hb]
      exact ⟨(s.sbcApply_out a).1, (s.sbcApply_out a).2.1⟩
    · have hsame := SameBrake.sbcApply s (c := a) (k := b) fun e => hb (Fin.ext e)
      exact ⟨hsame.out.trans h.1, hsame.rel.trans h.2⟩
  · exact ⟨(s.sbcApply_out a).1, (s.sbcApply_out a).2.1⟩

theorem ssfBrakeRelease_releases (hfree : ∀ c : Fin 2, ch.toNat.testBit c = true → s.sbcFree c = true) :
    ∃ t, exec (.ssfBrakeRelease dt req ch) s = .next t ∧ t.get SSF.pg SSF.CMD_LAST_STS = Status.done.code ∧
      ∀ c : Fin 2, ch.toNat.testBit c = true → s.get SSF.pg (SSF.SBCST_STATE.ix c) = 0 →
        t.get SSF.pg (SSF.SBCST_OUT.ix c) = 3 ∧ t.get SSF.pg (SSF.SBCST_STATE.ix c) = 1 ∧
        t.bitOn SSF.pg SSF.STAT_RELEASED c = true := by
  have hok : ((sbcChans ch.toNat).all fun c => (s.advance dt).sbcFree c) = true :=
    sbcChans_all fun c hc => by rw [State.sbcFree_advance, hfree c hc]
  refine ⟨_, congrArg Host.Outcome.next ((State.ssfOp_of_hs hreq hawake 3 0 ch.toNat).trans
    (State.command_done _ _ _ hok fun s => (sbcChans ch.toNat).foldl State.sbcRelease s)), State.get_ssfStatus ..,
    fun c hc h0 => ?_⟩
  obtain ⟨hout, hst, hrel⟩ : ((sbcChans ch.toNat).foldl State.sbcRelease (s.advance dt)).Brake c 3 1 true :=
    State.foldl_reaches (I := fun s => s.get SSF.pg (SSF.SBCST_STATE.ix c) = 0) (R := fun s => s.Brake c 3 1 true)
      (mem_sbcChans hc)
      (fun s b hb h => (SameBrake.sbcRelease s fun e => hb (Fin.ext e)).st.trans h) (fun s h => State.sbcRelease_released h)
      (fun s b h => h.sbcRelease) (by rwa [State.get_advance])
  rw [State.bitOn, State.get_ssfStatus_off _ _ (ix_off_ne_of_lt (by decide) _) (ix_off_ne_of_lt (by decide) _),
    State.get_ssfStatus_off _ _ (ix_off_ne_of_lt (by decide) _) (ix_off_ne_of_lt (by decide) _),
    State.get_ssfStatus_off _ _ (by decide) (by decide)]
  exact ⟨hout, hst, hrel⟩

theorem ssfSbcAck_clears (hfault : ∀ c : Fin 2, ch.toNat.testBit c = true →
    s.get SSF.pg (SSF.SBCST_STATE.ix c) = 3 ∧ (vget s.halo.sbc c).fb = 0) :
    ∃ t, exec (.ssfSbcAck dt req ch) s = .next t ∧ t.get SSF.pg SSF.CMD_LAST_STS = Status.done.code ∧
      ∀ c : Fin 2, ch.toNat.testBit c = true → t.get SSF.pg (SSF.SBCST_STATE.ix c) = 0 ∧
        t.bitOn SSF.pg SSF.STAT_SBC_FLT c = false := by
  have hst : ((sbcChans ch.toNat).all fun c => (s.advance dt).get SSF.pg (SSF.SBCST_STATE.ix c) == 3) = true :=
    sbcChans_all fun c hc => by rw [State.get_advance, (hfault c hc).1]; rfl
  have hfb : ((sbcChans ch.toNat).all fun c => (vget (s.advance dt).halo.sbc c).fb == 0) = true :=
    sbcChans_all fun c hc => by rw [State.advance_halo, (hfault c hc).2]; rfl
  have hflt {c b : Fin 2} (u : State) (h : u.bitOn SSF.pg SSF.STAT_SBC_FLT c = false) :
      (u.putBit SSF.pg SSF.STAT_SBC_FLT b false).bitOn SSF.pg SSF.STAT_SBC_FLT c = false := by
    by_cases hb : c = b
    · rw [hb]
      exact State.bitOn_putBit_same _ false (by decide) (by decide) (by decide) b.isLt
    · rw [State.bitOn, State.putBit, u.get_put_same _ (by decide) (by decide) (by decide), Nat.testBit_mod_two_pow,
        testBit_setBits_other _ _ fun e => hb (Fin.ext e)]
      exact (congrArg (_ && ·) h).trans (Bool.and_false _)
  have hput {c b : Fin 2} (u : State) : (u.put SSF.pg (SSF.SBCST_STATE.ix b) 0).bitOn SSF.pg SSF.STAT_SBC_FLT c =
      u.bitOn SSF.pg SSF.STAT_SBC_FLT c := congrArg (·.testBit c) (u.get_put_off 0 (ix_off_ne_of_lt (by decide) _).symm)
  have hzero {c b : Fin 2} (u : State) (h : c = b ∨ u.get SSF.pg (SSF.SBCST_STATE.ix c) = 0) :
      (u.sbcAck b).get SSF.pg (SSF.SBCST_STATE.ix c) = 0 := by
    refine (State.get_putBit_off _ _ _ (ix_off_ne_of_lt (by decide) _)).trans ?_
    by_cases hb : c = b
    · rw [hb]
      exact (State.get_put_ix_same _ _ (inPage_brake b (by decide) rfl) (by decide) (by decide)).trans (Nat.zero_mod _)
    · refine (u.get_put_off 0 (show 0x064 + c.1 * 8 ≠ 0x064 + b.1 * 8 by omega)).trans (h.resolve_left hb)
  refine ⟨_, congrArg Host.Outcome.next ((State.ssfOp_of_hs hreq hawake 4 0 ch.toNat).trans ((if_pos hst).trans (if_pos hfb))),
    State.get_ssfStatus .., fun c hc => ?_⟩
  rw [State.bitOn, State.get_ssfStatus_off _ _ (ix_off_ne_of_lt (by decide) _) (ix_off_ne_of_lt (by decide) _),
    State.get_ssfStatus_off _ _ (by decide) (by decide)]
  exact State.foldl_each (R := fun (c : Fin 2) s => s.get SSF.pg (SSF.SBCST_STATE.ix c) = 0 ∧
    s.bitOn SSF.pg SSF.STAT_SBC_FLT c = false)
    (fun u a b h => ⟨hzero u (.inr h.1), hflt _ ((hput u).trans h.2)⟩)
    (fun u a => ⟨hzero u (.inl rfl), State.bitOn_putBit_same _ false (by decide) (by decide) (by decide) a.isLt⟩) _ _
    (mem_sbcChans hc)

theorem ssfClrCnt_clears : ∃ t, exec (.ssfClrCnt dt req) s = .next t ∧ t.rd (fldAddr SSF.pg SSF.CNT) = 0 ∧
    t.get SSF.pg SSF.CMD_LAST_STS = Status.done.code := by
  refine ⟨_, congrArg Host.Outcome.next ((State.ssfOp_of_hs hreq hawake 5 0 0).trans
    (State.command_done _ _ _ rfl fun s => s.setWord SSF.pg SSF.CNT 0)), ?_, State.get_ssfStatus ..⟩
  rw [State.rd_status_off _ _ (by decide) (by decide)]
  exact State.rd_setWord_same _ _ (by decide)

end Commands

/-! ### What time brings (R347 to R349) -/

section Time

variable {dt : Nat} {c : Fin 2} {s : State} (hpow : s.dev.off = false)

include hpow

theorem ss1Timeout_escalates {m : Fin 3} (hss1 : s.bitOn SSF.pg SSF.STAT_SS1 m = true)
    (hdue : (s.stopH m).t0 + s.get SSF.pg (SSF.TIMES_T_WIN.ix m) * 400000 ≤ s.now + dt) :
    exec (.ss1Timeout dt m) s = .next ((s.advance dt).escalate m 0xB08) :=
  if_pos ⟨by rwa [State.bitOn_advance], by rwa [State.stopH_advance, State.get_advance, State.now_advance_of_on hpow]⟩

theorem sbcApplyDelay_applies {x : Nat} (hat : (vget s.halo.sbc c).applyAt = some x) (hdue : x ≤ s.now + dt) :
    ∃ t, exec (.sbcApplyDelay dt c) s = .next t ∧ t.get SSF.pg (SSF.SBCST_OUT.ix c) = 0 ∧
      (vget t.halo.sbc c).applyAt = none ∧ t.bitOn SSF.pg SSF.STAT_RELEASED c = false := by
  obtain ⟨hout, hrel, happly⟩ := (s.advance dt).sbcApply_out c
  refine ⟨(s.advance dt).sbcApply c, ?_, hout, happly, hrel⟩
  change execSbcApplyDelay dt c s = _
  simp only [execSbcApplyDelay, State.advance_halo, hat, State.now_advance_of_on hpow, if_pos hdue]

/-- The writes of a test's start: outputs and state 2. -/
theorem sbcTestStart_tests {ls : Bool} (hst : s.get SSF.pg (SSF.SBCST_STATE.ix c) = 1)
    (hdue : (if ls then decide (s.get SSF.pg (SSF.SBCCFG_TST_PER.ix c) * 40000000 < s.now + dt - (vget s.halo.sbc c).relAt ∧
      (s.now + dt - (vget s.halo.sbc c).relAt) % (s.get SSF.pg (SSF.SBCCFG_TST_PER.ix c) * 40000000) =
        s.get SSF.pg (SSF.SBCCFG_TST_PER.ix c) * 40000000 / 2)
      else decide (0 < s.now + dt - (vget s.halo.sbc c).relAt ∧
        (s.now + dt - (vget s.halo.sbc c).relAt) % (s.get SSF.pg (SSF.SBCCFG_TST_PER.ix c) * 40000000) = 0)) = true) :
    ∃ t, exec (.sbcTestStart dt c ls) s = .next t ∧ t.get SSF.pg (SSF.SBCST_OUT.ix c) = (if ls then 1 else 2) ∧
      t.get SSF.pg (SSF.SBCST_STATE.ix c) = 2 ∧ (vget t.halo.sbc c).test = some (ls, s.now + dt) := by
  obtain ⟨hout, hstate⟩ := State.brake_put ((s.advance dt).sbcSet c fun b => { b with
    changeAt := (s.advance dt).now, test := some (ls, (s.advance dt).now) }) c (out := if ls then 1 else 2) (st := 2)
    (by cases ls <;> decide) (by decide)
  refine ⟨_, if_pos ⟨by rwa [State.get_advance], by rwa [State.get_advance, State.now_advance_of_on hpow, State.advance_halo]⟩,
    hout, hstate, ?_⟩
  rw [State.put_halo, State.put_halo, State.vget_sbcSet, State.now_advance_of_on hpow]

theorem sbcTestEnd_releases {ls : Bool} {x : Nat} {fb1 fb2 : Bool} (htest : (vget s.halo.sbc c).test = some (ls, x))
    (hdue : x + s.get SSF.pg (SSF.SBCCFG_TST_PW.ix c) * 4000 ≤ s.now + dt)
    (hfb : b2n fb1 + 2 * b2n fb2 = sbcExpect (s.get SSF.pg (SSF.SBCST_OUT.ix c))) :
    ∃ t, exec (.sbcTestEnd dt c fb1 fb2) s = .next t ∧ t.get SSF.pg (SSF.SBCST_OUT.ix c) = 3 ∧
      t.get SSF.pg (SSF.SBCST_STATE.ix c) = 1 ∧ (vget t.halo.sbc c).test = none := by
  have hout (f : SbcH → SbcH) (v : Nat) : (((s.advance dt).sbcSet c f).put SSF.pg (SSF.SBCST_FB.ix c) v).get SSF.pg
      (SSF.SBCST_OUT.ix c) = s.get SSF.pg (SSF.SBCST_OUT.ix c) :=
    (State.get_put_ix_bits _ _ (by decide) (by decide) (by decide)).trans (s.get_advance ..)
  have hexec : exec (.sbcTestEnd dt c fb1 fb2) s = .next (((State.sbcSet (((s.advance dt).sbcSet c fun b => { b with
      fb := b2n fb1 + 2 * b2n fb2 }).put SSF.pg (SSF.SBCST_FB.ix c) (b2n fb1 + 2 * b2n fb2)) c fun b => { b with
        changeAt := (((s.advance dt).sbcSet c fun b => { b with fb := b2n fb1 + 2 * b2n fb2 }).put SSF.pg (SSF.SBCST_FB.ix c)
          (b2n fb1 + 2 * b2n fb2)).now, test := none }).put SSF.pg (SSF.SBCST_OUT.ix c) 3).put SSF.pg (SSF.SBCST_STATE.ix c) 1) := by
    change execSbcTestEnd dt c fb1 fb2 s = _
    simp only [execSbcTestEnd, State.advance_halo, htest, State.get_advance, State.now_advance_of_on hpow, if_pos hdue, hout,
      if_pos hfb]
  obtain ⟨ho, hs⟩ := State.brake_put (State.sbcSet (((s.advance dt).sbcSet c fun b => { b with
      fb := b2n fb1 + 2 * b2n fb2 }).put SSF.pg (SSF.SBCST_FB.ix c) (b2n fb1 + 2 * b2n fb2)) c fun b => { b with
        changeAt := (((s.advance dt).sbcSet c fun b => { b with fb := b2n fb1 + 2 * b2n fb2 }).put SSF.pg (SSF.SBCST_FB.ix c)
          (b2n fb1 + 2 * b2n fb2)).now, test := none }) c (out := 3) (st := 1) (by decide) (by decide)
  refine ⟨_, hexec, ho, hs, ?_⟩
  rw [State.put_halo, State.put_halo, State.vget_sbcSet]

end Time

/-- Settles O50: the commands walk the channels of their mask, and what time ends writes one channel. -/
theorem stopFunctionsAndBrakes : Obligations.StopFunctionsAndBrakes := by
  refine ⟨fun dt req mask ch s hreq hawake => ⟨ssfSs1_selects hreq hawake mask, ssfBrakeApply_applies hreq hawake,
    ssfBrakeRelease_releases hreq hawake, ssfSbcAck_clears hreq hawake, ssfClrCnt_clears hreq hawake⟩,
    fun dt m s hpow => ss1Timeout_escalates hpow, fun dt c s hpow => ⟨fun x => sbcApplyDelay_applies hpow, fun hst hpos hmod =>
      sbcTestStart_tests (ls := false) hpow hst ((if_neg Bool.false_ne_true).trans (decide_eq_true ⟨hpos, hmod⟩)),
      fun hst hpos hmod => sbcTestStart_tests (ls := true) hpow hst ((if_pos rfl).trans (decide_eq_true ⟨hpos, hmod⟩)),
      fun ls x fb1 fb2 => sbcTestEnd_releases hpow⟩⟩

end Sys2Proof.Machine
end

section
/-! SUPPORT. O12: the test access port, supervisor balls and supplies, and the revocation of boot keys (R458, R470 to R477). -/

namespace Sys2Proof.Machine
open Sys2Proof

/-! ### The test access port (R475) -/

theorem State.devOff_advance {s : State} (hpow : s.dev.off = false) (dt : Nat) : ¬(s.advance dt).dev.off = true := by
  rw [State.advance_dev, hpow]
  exact Bool.false_ne_true

theorem State.jtagIr_takes {s : State} (hpow : s.dev.off = false) (dt : Nat) (i : JtagIr) :
    (s.advance dt).jtagIr i = (s.advance dt).devSet fun d => { d with jtag := i } := if_neg (State.devOff_advance hpow dt)

theorem State.jtag_jtagHold {s : State} (hpow : s.dev.off = false) (dt : Nat) (i : JtagIr) :
    ((s.advance dt).jtagHold i).dev.jtag = if s.dstate = .safeHold then i else .bypass := by
  rw [State.jtagHold, State.jtagIr_takes hpow, State.dstate_advance]
  rfl

theorem jtagIdcode_shifts {dt : Nat} {s : State} (hpow : s.dev.off = false) : ∃ t, exec (.jtagIdcode dt) s = .next t ∧
    t.dev.jtag = .idcode ∧ t.reply = .data 0x1048076B#32 ∧ t.regs = s.regs := by
  refine ⟨_, congrArg Host.Outcome.next (if_neg (State.devOff_advance hpow dt)), ?_, rfl, ?_⟩
  · rw [State.jtagIr_takes hpow]
    rfl
  · rw [State.jtagIr_takes hpow]
    exact s.advance_regs dt

theorem jtagSamplePreload_takes {dt : Nat} {cells : List (Nat × Bool)} {s : State} (hpow : s.dev.off = false) :
    ∃ t, exec (.jtagSamplePreload dt cells) s = .next t ∧ t.dev.jtag = .sample ∧
      (∀ c ∈ t.dev.cells, observeOnly c.1 = false) ∧ t.regs = s.regs := by
  refine ⟨((s.advance dt).devSet fun d => { d with jtag := .sample }).devSet fun d => { d with
    cells := cells.filter fun c => !observeOnly c.1 }, ?_, rfl, fun c hc => ?_, s.advance_regs dt⟩
  · rw [← State.jtagIr_takes hpow]
    exact congrArg Host.Outcome.next (if_neg (State.devOff_advance hpow dt))
  · simpa using (List.mem_filter.mp hc).2

/-! ### The boot keys (R470) -/

/-- A write of bits that leave a key and the one in use, by HS with its unlock in an AUTH session of SERVICE. -/
theorem State.keyRevoke_done {s : State} {v : Nat} (hkey : s.unlocked SYS.pg 2 = true) (hst : s.dstate = .service)
    (hauth : s.scfAuth = true) (hboth : s.get SYS.pg SYS.KEYREV_REVOKE ||| v % 4 ≠ 3)
    (huse : (s.get SYS.pg SYS.KEYREV_REVOKE ||| v % 4).testBit s.dev.key = false) :
    s.keyRevoke 2 v = (s.setUnlock SYS.pg 2 .none).put SYS.pg SYS.KEYREV_REVOKE (s.get SYS.pg SYS.KEYREV_REVOKE ||| v % 4) := by
  have huse' : ¬(s.get SYS.pg SYS.KEYREV_REVOKE ||| v % 4).testBit s.dev.key = true := by simp [huse]
  unfold State.keyRevoke State.withKey
  rw [if_neg (by decide), if_pos hkey]
  exact if_pos ⟨hst, hauth, hboth, huse'⟩

theorem keyRevoke_revokes {dt : Nat} {bits : BitVec 2} {s : State} (hkey : (s.advance dt).unlocked SYS.pg 2 = true)
    (hst : s.dstate = .service) (hauth : s.scfAuth = true) (hboth : s.get SYS.pg SYS.KEYREV_REVOKE ||| bits.toNat ≠ 3)
    (huse : (s.get SYS.pg SYS.KEYREV_REVOKE ||| bits.toNat).testBit s.dev.key = false) :
    ∃ t, exec (.keyRevoke dt 2 bits) s = .next t ∧
      t.get SYS.pg SYS.KEYREV_REVOKE = s.get SYS.pg SYS.KEYREV_REVOKE ||| bits.toNat := by
  have hlt : s.get SYS.pg SYS.KEYREV_REVOKE ||| bits.toNat < 2 ^ 2 := Nat.or_lt_two_pow (bits_lt ..) bits.isLt
  have hmod : bits.toNat % 4 = bits.toNat := Nat.mod_eq_of_lt bits.isLt
  refine ⟨_, congrArg Host.Outcome.next (State.keyRevoke_done hkey ?_ ?_ ?_ ?_), ?_⟩
  · rwa [State.dstate_advance]
  · rwa [State.scfAuth, State.get_advance]
  · rwa [State.get_advance, hmod]
  · rwa [State.get_advance, hmod, State.advance_dev]
  · rw [State.get_advance, hmod, State.get_put_same _ _ (by decide) (by decide) (by decide)]
    exact Nat.mod_eq_of_lt hlt

/-- Settles O12: outside OFF each instruction of the port is taken, and a fault follows its flags; the keys are revoked under
their conditions. -/
theorem jtagFaultsAndKeyRevocation : Obligations.JtagFaultsAndKeyRevocation := by
  have hhold {i : JtagIr} {dt : Nat} {s : State} (hpow : s.dev.off = false) (hst : s.dstate = .safeHold) :
      ((s.advance dt).jtagHold i).dev.jtag = i := (State.jtag_jtagHold hpow dt i).trans (if_pos hst)
  have hpass {i : JtagIr} {dt : Nat} {s : State} (hpow : s.dev.off = false) (hst : s.dstate ≠ .safeHold) :
      ((s.advance dt).jtagHold i).dev.jtag = .bypass := (State.jtag_jtagHold hpow dt i).trans (if_neg hst)
  refine ⟨fun dt cells s hpow => ⟨?_, ?_, jtagIdcode_shifts hpow, jtagSamplePreload_takes hpow, fun hst =>
    ⟨⟨_, rfl, hhold hpow hst⟩, ⟨_, rfl, hhold hpow hst⟩, ⟨_, rfl, hhold hpow hst⟩⟩, fun hst =>
    ⟨⟨_, rfl, hpass hpow hst⟩, ⟨_, rfl, hpass hpow hst⟩, ⟨_, rfl, hpass hpow hst⟩⟩⟩, fun dt k s hpow => ?_,
    fun dt ball s hpow => ?_, fun dt bits s => keyRevoke_revokes, fun dt req bits s hreq => ?_⟩
  · exact congrArg Host.Outcome.next (State.jtagIr_takes hpow dt .bypass)
  · exact congrArg Host.Outcome.next (State.jtagIr_takes hpow dt .dtm)
  · exact if_neg (State.devOff_advance hpow dt)
  · exact if_neg (State.devOff_advance hpow dt)
  · exact congrArg Host.Outcome.next (if_pos hreq)

end Sys2Proof.Machine
end

section
/-! SUPPORT. O52: the programming of the change log, and the copies of its entries (R369 to R376). -/

namespace Sys2Proof.Machine
open Sys2Proof

theorem inPage_slg {x : Fld} (hx : x.off < 0x1000) : inPage SLG.pg x = true := inPage_of_hasHeader (by decide) rfl hx

@[simp] theorem State.fsWaits_advance (s : State) (dt t : Nat) : (s.advance dt).fsWaits t = s.fsWaits t := by
  simp [State.fsWaits, State.scfBusy]

@[simp] theorem State.slgEraseDue_advance (s : State) (dt : Nat) : (s.advance dt).slgEraseDue = s.slgEraseDue := by
  simp [State.slgEraseDue]

/-! ### One operation on the log (R369, R371, R372) -/

theorem State.get_withSets (s : State) (v : Vector CSet 16) (p : Page) (x : Fld) :
    ({ s with sets := v } : State).get p x = s.get p x := rfl

theorem State.get_slgWrite_seq (s : State) (e : SlgEntry) :
    (s.slgWrite e).get SLG.pg SLG.SEQ = (s.get SLG.pg SLG.SEQ + 1) % 2 ^ 32 := by
  have hregs (u : State) (h : Nat) (b : Bool) : (((u.put SLG.pg SLG.SEQ (s.get SLG.pg SLG.SEQ + 1)).put SLG.pg SLG.CNT_HELD
      h).evt SLG.pg SLG.EVT_ENTRY |>.flag SLG.pg SLG.STAT_FULL b).get SLG.pg SLG.SEQ =
        (s.get SLG.pg SLG.SEQ + 1) % 2 ^ 32 := by
    rw [State.get_flag_off _ _ (by decide), State.get_evt_off _ (inPage_slg (by decide)) (by decide) (by decide),
      State.get_put_off _ _ (by decide), State.get_put_same _ _ (inPage_slg (by decide)) (by decide) (by decide)]
    rfl
  unfold State.slgWrite
  simp only []
  split
  · rw [State.get_withSets]
    exact hregs ..
  · exact hregs ..

theorem State.slgErase_turns (s : State) :
    s.slgErase.get SLG.pg SLG.STAT_SECTOR = 1 - s.get SLG.pg SLG.STAT_SECTOR ∧
      s.slgErase.get SLG.pg SLG.SEQ = s.get SLG.pg SLG.SEQ := by
  unfold State.slgErase
  constructor
  · rw [State.get_put_off _ _ (by decide), State.get_put_same _ _ (inPage_slg (by decide)) (by decide) (by decide)]
    exact Nat.mod_eq_of_lt (Nat.lt_of_le_of_lt (Nat.sub_le 1 _) (by decide))
  · rw [State.get_put_off _ _ (by decide), State.get_put_off _ _ (by decide),
      State.get_within (Kept.fillBytes ..).within (inPage_slg (by decide)) (by simp)]

theorem State.rd_slgDrop (s : State) (r : Fin 16) (a : Nat) : (s.slgDrop r).rd a = s.rd a := rfl

theorem State.on_slgFail (s : State) (e : SlgEntry) : (s.slgFail e).on SLG.pg SLG.STAT_WFAIL = true := by
  have hflag : ((s.flag SLG.pg SLG.STAT_WFAIL true).note 0xB0E 1 0 0).on SLG.pg SLG.STAT_WFAIL = true := by
    rw [State.on, State.get_note _ _ _ _ _ (inPage_slg (by decide)) (by decide) (by decide) (by decide)]
    exact s.on_flag_same true (inPage_slg (by decide)) rfl (by decide)
  unfold State.slgFail
  cases e.set with
  | none => exact hflag
  | some r =>
    refine (congrArg (· == 1) (State.get_eq_of_rd ?_ rfl)).trans hflag
    rw [State.rd_csetEnd_word _ r 4 (by decide) (by decide), State.rd_slgDrop]

section
variable {dt : Nat} {s : State} {e : SlgEntry} {es : List SlgEntry} (hq : s.scf.queue = e :: es)
  (hfull : s.on SLG.pg SLG.STAT_FULL = false) (hfs : s.fsWaits e.tick = false)

include hq hfull hfs

theorem logProgramDone_writes (hdue : s.slgEraseDue = false) :
    ∃ t, exec (.logProgramDone dt true) s = .next t ∧ t.scf.queue = es ∧
      t.get SLG.pg SLG.SEQ = (s.get SLG.pg SLG.SEQ + 1) % 2 ^ 32 := by
  refine ⟨(State.slgWrite { s.advance dt with scf := { (s.advance dt).scf with queue := es } } e).fsDone, ?_, ?_, ?_⟩
  · change execLogProgramDone dt true s = _
    simp [execLogProgramDone, hq, hfull, hfs, hdue]
  · exact congrArg ScfH.queue ((Kept.slgWrite ..).within .scf (by simp))
  · refine (State.get_slgWrite_seq _ e).trans ?_
    exact congrArg (fun n => (n + 1) % 2 ^ 32) (s.get_advance dt SLG.pg SLG.SEQ)

theorem logProgramDone_erases (hdue : s.slgEraseDue = true) :
    ∃ t, exec (.logProgramDone dt true) s = .next t ∧ t.scf.queue = e :: es ∧
      t.get SLG.pg SLG.STAT_SECTOR = 1 - s.get SLG.pg SLG.STAT_SECTOR ∧
      t.get SLG.pg SLG.SEQ = s.get SLG.pg SLG.SEQ := by
  obtain ⟨hsec, hseq⟩ := (s.advance dt).slgErase_turns
  rw [s.get_advance] at hsec hseq
  refine ⟨(s.advance dt).slgErase, ?_, ?_, hsec, hseq⟩
  · change execLogProgramDone dt true s = _
    simp [execLogProgramDone, hq, hfull, hfs, hdue]
  · rw [(Kept.slgErase _).within .scf (by simp), State.advance_scf, hq]

theorem logProgramDone_fails :
    ∃ t, exec (.logProgramDone dt false) s = .next t ∧ t.on SLG.pg SLG.STAT_WFAIL = true := by
  refine ⟨(State.slgFail { s.advance dt with scf := { (s.advance dt).scf with queue := es } } e).fsDone, ?_,
    State.on_slgFail _ e⟩
  change execLogProgramDone dt false s = _
  simp [execLogProgramDone, hq, hfull, hfs]

end

/-! ### The copy of an entry (R375, R376) -/

theorem inPage_ent (i : Fin 8) : inPage SLG.pg (SLG.ENT.ix i) = true :=
  inPage_slg (by simp only [Fld.ix, SLG.ENT]; omega)

theorem ent_off_ne {x : Fld} (hx : x.off < 0x060) (i : Nat) : x.off ≠ (SLG.ENT.ix i).off := by
  simp only [Fld.ix, SLG.ENT]; omega

/-- The words of a copy read 0. -/
def State.entCleared (s : State) : State := (List.range 8).foldl (fun s i => s.put SLG.pg (SLG.ENT.ix i) 0) s

theorem State.rd_entCleared (s : State) {x : Fld} (hx : x.off < 0x060) :
    s.entCleared.rd (fldAddr SLG.pg x) = s.rd (fldAddr SLG.pg x) :=
  State.foldl_related (R := fun a b => b.rd (fldAddr SLG.pg x) = a.rd (fldAddr SLG.pg x)) (fun _ => rfl)
    (fun h h' => h'.trans h) (fun s i => s.rd_put_off _ (ent_off_ne hx i)) _ s

theorem State.get_entCleared (s : State) (i : Fin 8) : s.entCleared.get SLG.pg (SLG.ENT.ix i) = 0 :=
  State.get_of_rd_zero (State.foldl_each (R := fun i s => i < 8 → s.rd (fldAddr SLG.pg (SLG.ENT.ix i)) = 0)
    (fun _ _ _ h hi => State.rd_put_zero _ _ (h hi))
    (fun s i hi => s.rd_put_zero_same (inPage_ent ⟨i, hi⟩) rfl rfl) _ s (List.mem_range.mpr i.isLt) i.isLt)

/-- The state with a copy in progress since `t`, or with none. -/
def State.copySet (s : State) (t : Option Nat) : State := { s with scf := { s.scf with copyAt := t } }

@[simp] theorem State.copySet_at (s : State) (t : Option Nat) : (s.copySet t).scf.copyAt = t := rfl

@[simp] theorem State.rd_copySet (s : State) (t : Option Nat) (a : Nat) : (s.copySet t).rd a = s.rd a := rfl

@[simp] theorem State.get_copySet (s : State) (t : Option Nat) (p : Page) (x : Fld) :
    (s.copySet t).get p x = s.get p x := rfl

@[simp] theorem State.on_copySet (s : State) (t : Option Nat) (p : Page) (x : Fld) :
    (s.copySet t).on p x = s.on p x := rfl

theorem State.now_entCleared (s : State) : s.entCleared.now = s.now :=
  State.foldl_related (R := fun a b => b.now = a.now) (fun _ => rfl) (fun h h' => h'.trans h) (fun _ _ => State.put_now ..) _ s

theorem State.slgRead_hs (s : State) (val : W32) : s.slgRead 2 val =
    (((s.setWord SLG.pg SLG.RDSEQ val).flag SLG.pg SLG.STAT_RDBUSY true).entCleared.copySet
      (some ((s.setWord SLG.pg SLG.RDSEQ val).flag SLG.pg SLG.STAT_RDBUSY true).entCleared.now)) := by
  unfold State.slgRead
  rw [if_pos rfl]
  rfl

theorem State.slgRead_starts (s : State) (val : W32) :
    (s.slgRead 2 val).rd (fldAddr SLG.pg SLG.RDSEQ) = val ∧ (s.slgRead 2 val).on SLG.pg SLG.STAT_RDBUSY = true ∧
      (s.slgRead 2 val).scf.copyAt = some s.now ∧ ∀ i : Fin 8, (s.slgRead 2 val).get SLG.pg (SLG.ENT.ix i) = 0 := by
  rw [State.slgRead_hs]
  refine ⟨?_, ?_, ?_, fun i => ?_⟩
  · rw [State.rd_copySet, State.rd_entCleared _ (by decide), State.rd_flag_off _ _ (by decide),
      s.rd_setWord_same _ (inPage_slg (by decide))]
  · rw [State.on_copySet, State.on, State.get_eq_of_rd (State.rd_entCleared _ (by decide)) rfl]
    exact State.on_flag_same _ true (inPage_slg (by decide)) rfl (by decide)
  · rw [State.copySet_at, State.now_entCleared]
    simp
  · rw [State.get_copySet, State.get_entCleared]

theorem slgRdseqWrite_by_hs (dt : Nat) {req : Req} (val : W32) (s : State) (hreq : req.1 = 2) :
    ∃ t, exec (.slgRdseqWrite dt req val) s = .next t ∧ t.rd (fldAddr SLG.pg SLG.RDSEQ) = val ∧
      t.on SLG.pg SLG.STAT_RDBUSY = true ∧ t.scf.copyAt = some (s.advance dt).now ∧
      ∀ i : Fin 8, t.get SLG.pg (SLG.ENT.ix i) = 0 :=
  ⟨_, congrArg Host.Outcome.next (congrArg (State.slgRead (s.advance dt) · val) hreq), (s.advance dt).slgRead_starts val⟩

/-- One word of a copy is shown: that of the entry of number `n`, or 0 where it is not held. -/
def State.entShown (n : Nat) (held : Bool) (s : State) (i : Nat) : State :=
  s.put SLG.pg (SLG.ENT.ix i) (if held then (s.rdMem (slgAddr n + 4 * i)).toNat else 0)

theorem State.get_entShown_other (n : Nat) (held : Bool) (s : State) {i j : Nat} (h : j ≠ i) :
    (s.entShown n held i).get SLG.pg (SLG.ENT.ix j) = s.get SLG.pg (SLG.ENT.ix j) :=
  s.get_put_off _ (by simp only [Fld.ix, SLG.ENT]; omega)

theorem State.get_entShown_same (n : Nat) (held : Bool) (s : State) (i : Fin 8) :
    (s.entShown n held i).get SLG.pg (SLG.ENT.ix i) =
      if held then (s.rdMem (slgAddr n + 4 * i)).toNat else 0 := by
  refine (s.get_put_ix_same _ (inPage_ent i) (by decide) (by decide)).trans (Nat.mod_eq_of_lt ?_)
  split
  · exact BitVec.isLt _
  · exact Nat.two_pow_pos _

/-- All eight words of a copy are shown. -/
def State.copyShown (n : Nat) (held : Bool) (s : State) : State := (List.range 8).foldl (State.entShown n held) s

theorem State.get_copyShown (n : Nat) (held : Bool) (s : State) (i : Fin 8) :
    (s.copyShown n held).get SLG.pg (SLG.ENT.ix i) = if held then (s.rdMem (slgAddr n + 4 * i)).toNat else 0 := by
  have hval {u : State} (h : u.mem = s.mem) : (u.entShown n held i).get SLG.pg (SLG.ENT.ix i) =
      if held then (s.rdMem (slgAddr n + 4 * i)).toNat else 0 := by
    rw [State.get_entShown_same, State.rdMem_of_mem h]
  have hstep (u : State) (b : Nat) (hu : u.mem = s.mem ∧ u.get SLG.pg (SLG.ENT.ix i) =
      if held then (s.rdMem (slgAddr n + 4 * i)).toNat else 0) : (u.entShown n held b).mem = s.mem ∧
      (u.entShown n held b).get SLG.pg (SLG.ENT.ix i) = if held then (s.rdMem (slgAddr n + 4 * i)).toNat else 0 := by
    obtain ⟨hmem, hget⟩ := hu
    refine ⟨(u.put_mem ..).trans hmem, ?_⟩
    by_cases hb : i.1 = b
    · exact hb ▸ hval hmem
    · rw [State.get_entShown_other _ _ _ hb, hget]
  exact (State.foldl_reaches (f := State.entShown n held) (I := fun u => u.mem = s.mem)
    (List.mem_range.mpr i.isLt) (fun u b _ h => (u.put_mem ..).trans h) (fun u h => ⟨(u.put_mem ..).trans h, hval h⟩)
    hstep rfl).2

theorem State.on_copyShown (n : Nat) (held : Bool) (s : State) {x : Fld} (hx : x.off < 0x060) :
    (s.copyShown n held).on SLG.pg x = s.on SLG.pg x :=
  congrArg (· == 1) (State.foldl_related (R := fun a b => b.get SLG.pg x = a.get SLG.pg x) (fun _ => rfl)
    (fun h h' => h'.trans h) (fun s i => s.get_put_off _ (ent_off_ne hx i)) _ s)

/-- Whether the log holds the entry that `RDSEQ` names. -/
def State.entHeld (s : State) : Bool := decide (s.get SLG.pg SLG.RDSEQ < s.get SLG.pg SLG.SEQ ∧
  s.get SLG.pg SLG.SEQ ≤ s.get SLG.pg SLG.RDSEQ + s.get SLG.pg SLG.CNT_HELD)

/-- The copy ends. -/
def State.copyEnded (s : State) : State :=
  ((s.flag SLG.pg SLG.STAT_RDBUSY false).copyShown (s.get SLG.pg SLG.RDSEQ) s.entHeld).copySet none

theorem execSlgCopyDone_ends {dt x : Nat} {s : State} (hpow : s.dev.off = false) (hat : s.scf.copyAt = some x)
    (hdue : x + 400 ≤ s.now + dt) (hfs : s.fsWaits (x + 1) = false) :
    execSlgCopyDone dt s = .next (s.advance dt).copyEnded := by
  have hgo : ¬((s.advance dt).now < x + 400 ∨ (s.advance dt).fsWaits (x + 1) = true) := by
    rw [State.now_advance_of_on hpow, s.fsWaits_advance, hfs]
    simpa using hdue
  unfold execSlgCopyDone
  simp only [State.advance_scf, hat, if_neg hgo]
  rfl

theorem slgCopyDone_shows {dt x : Nat} {s : State} (hpow : s.dev.off = false) (hat : s.scf.copyAt = some x)
    (hdue : x + 400 ≤ s.now + dt) (hfs : s.fsWaits (x + 1) = false) :
    ∃ t, exec (.slgCopyDone dt) s = .next t ∧ t.on SLG.pg SLG.STAT_RDBUSY = false ∧ t.scf.copyAt = none ∧
      ∀ i : Fin 8, t.get SLG.pg (SLG.ENT.ix i) =
        if s.get SLG.pg SLG.RDSEQ < s.get SLG.pg SLG.SEQ ∧
            s.get SLG.pg SLG.SEQ ≤ s.get SLG.pg SLG.RDSEQ + s.get SLG.pg SLG.CNT_HELD then
          (s.rdMem (slgAddr (s.get SLG.pg SLG.RDSEQ) + 4 * i)).toNat else 0 := by
  refine ⟨_, execSlgCopyDone_ends hpow hat hdue hfs, ?_, State.copySet_at .., fun i => ?_⟩
  · rw [State.copyEnded, State.on_copySet, State.on_copyShown _ _ _ (by decide)]
    exact State.on_flag_same _ false (inPage_slg (by decide)) rfl (by decide)
  · have hmem (a : Nat) : ((s.advance dt).flag SLG.pg SLG.STAT_RDBUSY false).rdMem a = s.rdMem a :=
      State.rdMem_of_mem ((State.put_mem ..).trans (s.advance_mem dt)) a
    rw [State.copyEnded, State.get_copySet, State.get_copyShown, hmem]
    simp only [State.entHeld, State.get_advance, decide_eq_true_eq]

/-- Settles O52: an operation of the log leaves the registers and the queue as its lemma says, and a copy is a fold over the
eight words, none of which changes the memory that it shows. -/
theorem changeLogProgramsAndCopiesEntries : Obligations.ChangeLogProgramsAndCopiesEntries := by
  refine ⟨fun dt s e es hq hfull hfs => ⟨logProgramDone_writes hq hfull hfs, logProgramDone_erases hq hfull hfs,
    logProgramDone_fails hq hfull hfs⟩, fun dt req val s => ⟨slgRdseqWrite_by_hs dt val s, fun hreq => ?_⟩,
    fun dt x s hpow hat hdue hfs => slgCopyDone_shows hpow hat hdue hfs⟩
  exact congrArg Host.Outcome.next (if_neg hreq)

end Sys2Proof.Machine
end

section
/-! SUPPORT. O51: password sessions, the lockout, and the storing of password and image (R363 to R368). -/

namespace Sys2Proof.Machine
open Sys2Proof

theorem inPage_scf {x : Fld} (hx : x.off < 0x1000) : inPage SCF.pg x = true := inPage_of_hasHeader (by decide) rfl hx

/-! ### The parts that the operations of SCF leave -/

@[simp] theorem State.get_slgPush (s : State) (kind w4 w5 w6 : Nat) (set : Option (Fin 16)) (p : Page) (x : Fld) :
    (s.slgPush kind w4 w5 w6 set).get p x = s.get p x := rfl

@[simp] theorem State.get_withScf (s : State) (v : ScfH) (p : Page) (x : Fld) :
    ({ s with scf := v } : State).get p x = s.get p x := rfl

@[simp] theorem State.on_withScf (s : State) (v : ScfH) (p : Page) (x : Fld) :
    ({ s with scf := v } : State).on p x = s.on p x := rfl

@[simp] theorem State.slgPush_op (s : State) (kind w4 w5 w6 : Nat) (set : Option (Fin 16)) :
    (s.slgPush kind w4 w5 w6 set).scf.op = s.scf.op := rfl

@[simp] theorem State.slgPush_now (s : State) (kind w4 w5 w6 : Nat) (set : Option (Fin 16)) :
    (s.slgPush kind w4 w5 w6 set).now = s.now := rfl

theorem State.get_scfSession_same (s : State) {v : Nat} (hv : v < 4) : (s.scfSession v).get SCF.pg SCF.STAT_SESSION = v := by
  rw [State.scfSession, State.get_evt_off _ (inPage_scf (by decide)) (by decide) (by decide),
    s.get_put_same _ (inPage_scf (by decide)) (by decide) (by decide)]
  exact Nat.mod_eq_of_lt hv

theorem State.get_scfSession_off (s : State) (v : Nat) {x : Fld} (hx : x.off ≠ 0x00C) (he : x.off ≠ 0x010)
    (hp : x.off < 0x1000) : (s.scfSession v).get SCF.pg x = s.get SCF.pg x := by
  rw [State.scfSession, State.get_evt_off _ (inPage_scf hp) (by decide) he, State.get_put_off _ _ hx]

theorem State.scfSession_now (s : State) (v : Nat) : (s.scfSession v).now = s.now :=
  (Unmoved.evt ..).now.trans (State.put_now ..)

theorem State.scfSession_scf (s : State) (v : Nat) : (s.scfSession v).scf = s.scf :=
  (Unmoved.evt ..).scf.trans (State.put_scf ..)

theorem State.rd_scfClear (s : State) {x : Fld} (hx : x.off < 0x060) :
    s.scfClear.rd (fldAddr SCF.pg x) = s.rd (fldAddr SCF.pg x) :=
  State.foldl_related (R := fun a b => b.rd (fldAddr SCF.pg x) = a.rd (fldAddr SCF.pg x)) (fun _ => rfl)
    (fun h h' => h'.trans h) (fun s i => s.rd_put_off _ (by simp only [Fld.ix, SCF.PWD]; omega)) _ s

theorem State.get_scfClear (s : State) {x : Fld} (hx : x.off < 0x060) : s.scfClear.get SCF.pg x = s.get SCF.pg x :=
  State.get_eq_of_rd (s.rd_scfClear hx) rfl

theorem State.scfClear_scf (s : State) : s.scfClear.scf = s.scf := (Kept.scfClear s).within .scf (by simp)

theorem State.get_scfClear_pwd (s : State) (i : Fin 8) : s.scfClear.get SCF.pg (SCF.PWD.ix i) = 0 :=
  State.get_of_rd_zero (State.foldl_each (R := fun i s => i < 8 → s.rd (fldAddr SCF.pg (SCF.PWD.ix i)) = 0)
    (fun _ _ _ h hi => State.rd_put_zero _ _ (h hi))
    (fun s i hi => s.rd_put_zero_same (inPage_scf (by simp only [Fld.ix, SCF.PWD]; omega)) rfl rfl) _ s
    (List.mem_range.mpr i.isLt) i.isLt)

/-! ### A command of SCF (R366, R367) -/

/-- The state in which a command of SCF has restarted the session timer. -/
def State.scfTaken (s : State) : State := { s with scf := { s.scf with sessAt := s.now } }

/-- The end of a command: the buffer is cleared unless the command stays PENDING. -/
def State.scfEnded (s : State) : State := if s.get SCF.pg SCF.CMD_LAST_STS = 2 then s else s.scfClear

theorem State.scfCmd_of_hs {s : State} {req : Nat} (hreq : req = 2) (h : s.dstate ≠ .safeHold) (dt : Nat)
    (f : State → State) : (s.advance dt).scfCmd req f = (f (s.advance dt).scfTaken).scfEnded :=
  State.haloCmd_of_hs hreq h dt ..

theorem State.scfEnded_pending {s : State} (h : s.get SCF.pg SCF.CMD_LAST_STS = 2) : s.scfEnded = s := if_pos h

theorem State.scfEnded_done {s : State} (h : s.get SCF.pg SCF.CMD_LAST_STS ≠ 2) : s.scfEnded = s.scfClear := if_neg h

theorem State.get_scfEnded (s : State) {x : Fld} (hx : x.off < 0x060) : s.scfEnded.get SCF.pg x = s.get SCF.pg x := by
  unfold State.scfEnded
  split
  · rfl
  · exact s.get_scfClear hx

theorem State.scfEnded_scf (s : State) : s.scfEnded.scf = s.scf := by
  unfold State.scfEnded
  split
  · rfl
  · exact s.scfClear_scf

@[simp] theorem State.get_scfTaken (s : State) (p : Page) (x : Fld) : s.scfTaken.get p x = s.get p x := rfl

@[simp] theorem State.on_scfTaken (s : State) (p : Page) (x : Fld) : s.scfTaken.on p x = s.on p x := rfl

@[simp] theorem State.rd_scfTaken (s : State) (a : Nat) : s.scfTaken.rd a = s.rd a := rfl

@[simp] theorem State.scfTaken_now (s : State) : s.scfTaken.now = s.now := rfl

@[simp] theorem State.dstate_scfTaken (s : State) : s.scfTaken.dstate = s.dstate := rfl

@[simp] theorem State.scfTaken_op (s : State) : s.scfTaken.scf.op = s.scf.op := rfl

@[simp] theorem State.scfNewest_scfTaken (s : State) : s.scfTaken.scfNewest = s.scfNewest := rfl

@[simp] theorem State.scfPwd_scfTaken (s : State) (len : Nat) : s.scfTaken.scfPwd len = s.scfPwd len := rfl

@[simp] theorem State.noSets_scfTaken (s : State) : s.scfTaken.noSets = s.noSets := rfl

@[simp] theorem State.scfNewest_advance (s : State) (dt : Nat) : (s.advance dt).scfNewest = s.scfNewest := by
  simp [State.scfNewest]

@[simp] theorem State.scfPwd_advance (s : State) (dt len : Nat) : (s.advance dt).scfPwd len = s.scfPwd len := by
  simp [State.scfPwd]

@[simp] theorem State.noSets_advance (s : State) (dt : Nat) : (s.advance dt).noSets = s.noSets := by
  simp [State.noSets]

/-! ### OPEN (R365, R366) -/

/-- The password of an OPEN is that of the record in force. -/
def State.pwdGood (s : State) (len : Nat) : Bool :=
  match s.scfNewest.pwd with
  | none => decide (len = 0)
  | some (salt, hash) => pwdHash salt (s.scfPwd len) == hash

@[simp] theorem State.pwdGood_taken (s : State) (dt len : Nat) : (s.advance dt).scfTaken.pwdGood len = s.pwdGood len := by
  simp [State.pwdGood]

theorem State.scfOpen_good {s : State} {len : Nat} (hsvc : s.dstate = .service) (hsess : s.get SCF.pg SCF.STAT_SESSION = 0)
    (hgood : s.pwdGood len = true) :
    (s.scfOpen len).get SCF.pg SCF.STAT_SESSION = 1 ∧ (s.scfOpen len).get SCF.pg SCF.LOCK_FAILS = 0 ∧
      (s.scfOpen len).get SCF.pg SCF.LOCK_LOCKN = 0 ∧ (s.scfOpen len).get SCF.pg SCF.CMD_LAST_STS = Status.done.code := by
  obtain ⟨u, hu⟩ : ∃ u : State, s.scfOpen len = ((((u.put SCF.pg SCF.LOCK_FAILS 0).put SCF.pg SCF.LOCK_LOCKN 0).scfSession 1)
      |>.slgPush 1 0 0 0 none).status SCF.pg SCF.CMD_LAST_STS .done :=
    ⟨_, (if_pos ⟨hsvc, hsess⟩).trans (if_pos hgood)⟩
  rw [hu]
  refine ⟨?_, ?_, ?_, State.get_status _ _ (inPage_scf (by decide)) (by decide) (by decide) (by decide)⟩
  · rw [State.get_status_word _ _ (by decide) (by decide), State.get_slgPush, State.get_scfSession_same _ (by decide)]
  · rw [State.get_status_word _ _ (by decide) (by decide), State.get_slgPush,
      State.get_scfSession_off _ _ (by decide) (by decide) (by decide), State.get_put_bits (x := SCF.LOCK_LOCKN) _ _ (by decide) (by decide)
        (by decide),
      State.get_put_same _ _ (inPage_scf (by decide)) (by decide) (by decide)]
    exact Nat.zero_mod _
  · rw [State.get_status_word _ _ (by decide) (by decide), State.get_slgPush,
      State.get_scfSession_off _ _ (by decide) (by decide) (by decide),
      State.get_put_same _ _ (inPage_scf (by decide)) (by decide) (by decide)]
    exact Nat.zero_mod _

theorem State.scfOpen_bad {s : State} {len : Nat} (hsvc : s.dstate = .service) (hsess : s.get SCF.pg SCF.STAT_SESSION = 0)
    (hbad : s.pwdGood len = false) : s.scfOpen len = s.scfFail :=
  (if_pos ⟨hsvc, hsess⟩).trans (if_neg fun h : s.pwdGood len = true => Bool.false_ne_true (hbad.symm.trans h))

/-- A failed OPEN is counted. -/
def State.scfCounted (s : State) : State := (s.incSat SCF.pg SCF.LOCK_FAILS).evt SCF.pg SCF.EVT_AUTH_FAIL

/-- A failed OPEN is logged, and ends NOT_READY. -/
def State.scfMissed (s : State) : State :=
  (s.scfCounted.slgPush 2 0 (s.scfCounted.get SCF.pg SCF.LOCK_FAILS) 0 none).status SCF.pg SCF.CMD_LAST_STS .notReady

/-- The session is locked out, and the count of lockouts goes up. -/
def State.scfBarred (s : State) : State := ((s.incSat SCF.pg SCF.LOCK_LOCKN).put SCF.pg SCF.LOCK_FAILS 0).scfSession 2

/-- A lockout is logged, with its event and its fault. -/
def State.scfReported (s : State) : State :=
  ((s.slgPush 3 0 (s.get SCF.pg SCF.LOCK_LOCKN) (lockoutSeconds (s.get SCF.pg SCF.LOCK_LOCKN)) none).evt SCF.pg
    SCF.EVT_LOCKOUT).note 0xB0F 1 0 0

/-- The hidden state of a lockout of `sec` seconds. -/
def State.lockedFor (s : State) (sec : Nat) : State :=
  { s with scf := { s.scf with lockEnd := some (s.now + sec * 400000000), lockStore := true, lockAt := s.now } }

theorem State.scfFail_eq (s : State) : s.scfFail =
    if s.scfCounted.get SCF.pg SCF.LOCK_FAILS < s.scfMissed.get SCF.pg SCF.CFG_MAXTRY then s.scfMissed
    else s.scfMissed.scfBarred.scfReported.lockedFor (lockoutSeconds (s.scfMissed.scfBarred.get SCF.pg SCF.LOCK_LOCKN)) := rfl

theorem State.get_scfCounted (s : State) (h : s.get SCF.pg SCF.LOCK_FAILS < 15) :
    s.scfCounted.get SCF.pg SCF.LOCK_FAILS = s.get SCF.pg SCF.LOCK_FAILS + 1 := by
  rw [State.scfCounted, State.get_evt_off _ (inPage_scf (by decide)) (by decide) (by decide),
    s.get_incSat_same (inPage_scf (by decide)) (by decide) (by decide)]
  exact Nat.min_eq_right (by simp only [SCF.LOCK_FAILS] at h ⊢; omega)

theorem State.get_scfMissed_sts (s : State) : s.scfMissed.get SCF.pg SCF.CMD_LAST_STS = Status.notReady.code :=
  State.get_status _ _ (inPage_scf (by decide)) (by decide) (by decide) (by decide)

theorem State.get_scfMissed (s : State) {x : Fld} (hsts : x.off ≠ 0x044) (herr : x.off ≠ 0x02C) :
    s.scfMissed.get SCF.pg x = s.scfCounted.get SCF.pg x :=
  State.get_status_word _ _ hsts herr

theorem State.get_scfCounted_off (s : State) {x : Fld} (hp : x.off < 0x1000) (hevt : x.off ≠ 0x010)
    (hx : x.off ≠ 0x054 ∨ x.lo = 8 ∧ x.hi = 15) : s.scfCounted.get SCF.pg x = s.get SCF.pg x := by
  rw [State.scfCounted, State.get_evt_off _ (inPage_scf hp) (by decide) hevt]
  rcases hx with hoff | ⟨hlo, hhi⟩
  · exact s.get_incSat_off hoff
  · unfold State.incSat
    dsimp only
    split
    · exact s.get_put_bits _ (by decide) (by decide) (.inr (hlo ▸ by decide))
    · rfl

theorem State.get_scfMissed_off (s : State) {x : Fld} (hp : x.off < 0x1000) (hevt : x.off ≠ 0x010) (hsts : x.off ≠ 0x044)
    (herr : x.off ≠ 0x02C) (hx : x.off ≠ 0x054 ∨ x.lo = 8 ∧ x.hi = 15) : s.scfMissed.get SCF.pg x = s.get SCF.pg x :=
  (s.get_scfMissed hsts herr).trans (s.get_scfCounted_off hp hevt hx)

theorem State.scfMissed_now (s : State) : s.scfMissed.now = s.now :=
  (Unmoved.status ..).now.trans ((Unmoved.evt ..).now.trans (Unmoved.incSat ..).now)

theorem State.get_scfReported (s : State) {x : Fld} (hp : x.off < 0x1000) (he : x.off ≠ 0x010) :
    s.scfReported.get SCF.pg x = s.get SCF.pg x := by
  rw [State.scfReported, State.get_note _ _ _ _ _ (inPage_scf hp) (by decide) (by decide) (by decide),
    State.get_evt_off _ (inPage_scf hp) (by decide) he, State.get_slgPush]

theorem State.scfReported_now (s : State) : s.scfReported.now = s.now :=
  (Unmoved.note ..).now.trans (Unmoved.evt ..).now

/-- What a failed OPEN leads to once the count has reached MAXTRY (R366). -/
theorem State.scfFail_bars {s : State} (hmax : s.get SCF.pg SCF.CFG_MAXTRY = s.get SCF.pg SCF.LOCK_FAILS + 1)
    (hn : s.get SCF.pg SCF.LOCK_LOCKN < 255) :
    s.scfFail.get SCF.pg SCF.STAT_SESSION = 2 ∧ s.scfFail.get SCF.pg SCF.LOCK_FAILS = 0 ∧
      s.scfFail.get SCF.pg SCF.LOCK_LOCKN = s.get SCF.pg SCF.LOCK_LOCKN + 1 ∧
      s.scfFail.scf.lockEnd = some (s.now + min 3840 (60 * 2 ^ s.get SCF.pg SCF.LOCK_LOCKN) * 400000000) := by
  have hlt : s.get SCF.pg SCF.CFG_MAXTRY < 16 := bits_lt ..
  have hcount := s.get_scfCounted (by omega)
  have hmaxtry := s.get_scfMissed_off (x := SCF.CFG_MAXTRY) (by decide) (by decide) (by decide) (by decide) (.inl (by decide))
  have hlockn : s.scfMissed.scfBarred.get SCF.pg SCF.LOCK_LOCKN = s.get SCF.pg SCF.LOCK_LOCKN + 1 := by
    rw [State.scfBarred, State.get_scfSession_off _ _ (by decide) (by decide) (by decide),
      State.get_put_bits (x := SCF.LOCK_FAILS) _ _ (by decide) (by decide) (by decide),
      State.get_incSat_same _ (inPage_scf (by decide)) (by decide) (by decide),
      s.get_scfMissed_off (by decide) (by decide) (by decide) (by decide) (.inr ⟨rfl, rfl⟩)]
    exact Nat.min_eq_right (Nat.le_of_lt_succ (Nat.succ_lt_succ hn))
  rw [State.scfFail_eq, hcount, hmaxtry, hmax, if_neg (Nat.lt_irrefl _), hlockn]
  refine ⟨?_, ?_, ?_, ?_⟩
  · rw [State.lockedFor, State.get_withScf, State.get_scfReported _ (by decide) (by decide), State.scfBarred,
      State.get_scfSession_same _ (by decide)]
  · rw [State.lockedFor, State.get_withScf, State.get_scfReported _ (by decide) (by decide), State.scfBarred,
      State.get_scfSession_off _ _ (by decide) (by decide) (by decide),
      State.get_put_same _ _ (inPage_scf (by decide)) (by decide) (by decide)]
    exact Nat.zero_mod _
  · rw [State.lockedFor, State.get_withScf, State.get_scfReported _ (by decide) (by decide), hlockn]
  · refine congrArg (fun n => some (n + _)) ?_
    rw [State.scfReported_now, State.scfBarred, State.scfSession_now, State.put_now, (Unmoved.incSat ..).now,
      State.scfMissed_now]

/-- A failed OPEN below MAXTRY is counted alone (R366). -/
theorem State.scfFail_counts {s : State} (h : s.get SCF.pg SCF.LOCK_FAILS + 1 < s.get SCF.pg SCF.CFG_MAXTRY) :
    s.scfFail = s.scfMissed ∧ s.scfFail.get SCF.pg SCF.LOCK_FAILS = s.get SCF.pg SCF.LOCK_FAILS + 1 := by
  have hlt : s.get SCF.pg SCF.CFG_MAXTRY < 16 := bits_lt ..
  have hcount := s.get_scfCounted (by omega)
  have hmaxtry := s.get_scfMissed_off (x := SCF.CFG_MAXTRY) (by decide) (by decide) (by decide) (by decide) (.inl (by decide))
  have hmiss : s.scfFail = s.scfMissed := by rw [State.scfFail_eq, hcount, hmaxtry, if_pos h]
  exact ⟨hmiss, by rw [hmiss, s.get_scfMissed (by decide) (by decide), hcount]⟩

section Open

variable {dt : Nat} {req : Req} {len : Fin 64} {s : State} (hreq : req.1 = 2) (hawake : s.dstate ≠ .safeHold)
  (hsvc : s.dstate = .service) (hsess : s.get SCF.pg SCF.STAT_SESSION = 0) (hlen : len.1 ≤ 32)

include hreq hawake hlen

theorem exec_scfOpen : exec (.scfOpen dt req len) s = .next ((s.advance dt).scfTaken.scfOpen len).scfEnded :=
  congrArg Host.Outcome.next ((if_pos hlen).trans (State.scfCmd_of_hs hreq hawake dt fun u => u.scfOpen len))

include hsvc hsess

theorem scfOpen_opens (hgood : s.pwdGood len = true) :
    ∃ t, exec (.scfOpen dt req len) s = .next t ∧ t.get SCF.pg SCF.STAT_SESSION = 1 ∧ t.get SCF.pg SCF.LOCK_FAILS = 0 ∧
      t.get SCF.pg SCF.LOCK_LOCKN = 0 ∧ t.get SCF.pg SCF.CMD_LAST_STS = Status.done.code ∧
      ∀ i : Fin 8, t.get SCF.pg (SCF.PWD.ix i) = 0 := by
  obtain ⟨hopen, hfails, hlockn, hsts⟩ := State.scfOpen_good (s := (s.advance dt).scfTaken) (len := len)
    ((s.dstate_advance dt).trans hsvc) ((s.get_advance ..).trans hsess) ((s.pwdGood_taken ..).trans hgood)
  refine ⟨_, exec_scfOpen hreq hawake hlen, (State.get_scfEnded _ (by decide)).trans hopen,
    (State.get_scfEnded _ (by decide)).trans hfails, (State.get_scfEnded _ (by decide)).trans hlockn,
    (State.get_scfEnded _ (by decide)).trans hsts, fun i => ?_⟩
  rw [State.scfEnded_done (by rw [hsts]; decide), State.get_scfClear_pwd]

theorem scfOpen_fails (hbad : s.pwdGood len = false)
    (hcount : s.get SCF.pg SCF.LOCK_FAILS + 1 < s.get SCF.pg SCF.CFG_MAXTRY) :
    ∃ t, exec (.scfOpen dt req len) s = .next t ∧ t.get SCF.pg SCF.STAT_SESSION = 0 ∧
      t.get SCF.pg SCF.LOCK_FAILS = s.get SCF.pg SCF.LOCK_FAILS + 1 ∧
      t.get SCF.pg SCF.CMD_LAST_STS = Status.notReady.code := by
  have hfail := State.scfOpen_bad (s := (s.advance dt).scfTaken) (len := len) ((s.dstate_advance dt).trans hsvc)
    ((s.get_advance ..).trans hsess) ((s.pwdGood_taken ..).trans hbad)
  obtain ⟨hmiss, hfails⟩ := State.scfFail_counts (s := (s.advance dt).scfTaken) (by simpa using hcount)
  refine ⟨_, exec_scfOpen hreq hawake hlen, ?_, ?_, ?_⟩
  · rw [State.get_scfEnded _ (by decide), hfail, hmiss,
      State.get_scfMissed_off _ (by decide) (by decide) (by decide) (by decide) (.inl (by decide)), State.get_scfTaken,
      State.get_advance, hsess]
  · rw [State.get_scfEnded _ (by decide), hfail, hfails, State.get_scfTaken, State.get_advance]
  · rw [State.get_scfEnded _ (by decide), hfail, hmiss, State.get_scfMissed_sts]

theorem scfOpen_bars (hbad : s.pwdGood len = false)
    (hmax : s.get SCF.pg SCF.CFG_MAXTRY = s.get SCF.pg SCF.LOCK_FAILS + 1) (hn : s.get SCF.pg SCF.LOCK_LOCKN < 255) :
    ∃ t, exec (.scfOpen dt req len) s = .next t ∧ t.get SCF.pg SCF.STAT_SESSION = 2 ∧ t.get SCF.pg SCF.LOCK_FAILS = 0 ∧
      t.get SCF.pg SCF.LOCK_LOCKN = s.get SCF.pg SCF.LOCK_LOCKN + 1 ∧
      t.scf.lockEnd = some (s.now + dt + min 3840 (60 * 2 ^ s.get SCF.pg SCF.LOCK_LOCKN) * 400000000) := by
  have hfail := State.scfOpen_bad (s := (s.advance dt).scfTaken) (len := len) ((s.dstate_advance dt).trans hsvc)
    ((s.get_advance ..).trans hsess) ((s.pwdGood_taken ..).trans hbad)
  obtain ⟨hsession, hfails, hlockn, hend⟩ := State.scfFail_bars (s := (s.advance dt).scfTaken) (by simpa using hmax)
    (by simpa using hn)
  refine ⟨_, exec_scfOpen hreq hawake hlen, ?_, ?_, ?_, ?_⟩
  · rw [State.get_scfEnded _ (by decide), hfail, hsession]
  · rw [State.get_scfEnded _ (by decide), hfail, hfails]
  · rw [State.get_scfEnded _ (by decide), hfail, hlockn, State.get_scfTaken, State.get_advance]
  · rw [State.scfEnded_scf, hfail, hend, State.get_scfTaken, State.get_advance, State.scfTaken_now,
      State.now_advance_of_on (State.on_of_dstate hsvc (by decide))]

end Open

end Sys2Proof.Machine
end

section
/-! SUPPORT. O51, continued: the commands of an AUTH session, and the ends of its stores and times (R363 to R368). -/

namespace Sys2Proof.Machine
open Sys2Proof

/-! ### CLOSE, SET_PWD, CONFIRM and REVERT (R363, R365, R368) -/

theorem State.get_scfClose_session {s : State} (cause : Nat) (h : s.get SCF.pg SCF.STAT_SESSION = 1) :
    (s.scfClose cause).get SCF.pg SCF.STAT_SESSION = 0 := by
  have hput : ((s.scfSession 0).slgPush 8 0 cause 0 none).get SCF.pg SCF.STAT_SESSION = 0 := by
    rw [State.get_slgPush, s.get_scfSession_same (by decide)]
  unfold State.scfClose
  rw [if_pos h]
  simp only []
  split
  · rw [State.get_eq_of_rd (State.rd_csetEnd_word _ _ _ (by decide) (by decide)) rfl]
    exact hput
  · exact hput

theorem State.scfAuth_of {s : State} (h : s.get SCF.pg SCF.STAT_SESSION = 1) : s.scfAuth = true := by
  rw [State.scfAuth, h]
  rfl

theorem State.scfBusy_of {s : State} (h : s.scf.op = .none) : s.scfBusy = false := decide_eq_false (not_not.mpr h)

/-- The state in which SCF has an operation PENDING. -/
def State.opAsked (s : State) (op : ScfOp) : State := { s with scf := { s.scf with op := op, opAt := s.now } }

theorem State.opAsked_op (s : State) (op : ScfOp) : (s.opAsked op).scf.op = op := rfl

theorem State.scfSetPwd_accepted {s : State} {len : Nat} (hauth : s.get SCF.pg SCF.STAT_SESSION = 1) (hlen : 8 ≤ len)
    (hsets : s.noSets = true) (hop : s.scf.op = .none) :
    ∃ salt, s.scfSetPwd len = ((s.opAsked (.setPwd salt (pwdHash salt (s.scfPwd len)))).slgPush 7 0 0 0 none).put SCF.pg
      SCF.CMD_LAST_STS 2 :=
  ⟨_, if_pos ⟨State.scfAuth_of hauth, hlen, hsets, by simp [State.scfBusy_of hop]⟩⟩

theorem State.scfConfirm_admitted {s : State} (hauth : s.get SCF.pg SCF.STAT_SESSION = 1) (hset : s.scfUnset = false)
    (hchanged : s.on SCF.pg SCF.STAT_CHANGED = true) (hsets : s.noSets = true) (hop : s.scf.op = .none) :
    s.scfConfirm = if s.rd (fldAddr SCF.pg SCF.IMGCRC) = s.rd (fldAddr SCF.pg SCF.EXPCRC) then
      (s.opAsked .confirm).put SCF.pg SCF.CMD_LAST_STS 2 else s.status SCF.pg SCF.CMD_LAST_STS .notReady :=
  if_pos ⟨State.scfAuth_of hauth, by simp [hset], hchanged, hsets, by simp [State.scfBusy_of hop]⟩

/-- The state in which a REVERT waits for its boundary. -/
def State.revertAsked (s : State) : State :=
  State.slgPush { s with scf := { s.scf with revertAt := some s.now } } 6 0 (s.get SCF.pg SCF.STOCRC) 0 none

theorem State.scfRevert_accepted {s : State} (hauth : s.get SCF.pg SCF.STAT_SESSION = 1) (hset : s.scfUnset = false)
    (hsets : s.noSets = true) (hop : s.scf.op = .none) :
    s.scfRevert = s.revertAsked.status SCF.pg SCF.CMD_LAST_STS .done :=
  if_pos (by simp [State.scfAuth_of hauth, State.scfBusy_of hop, hset, hsets])

theorem State.get_scf_pending (s : State) : (s.put SCF.pg SCF.CMD_LAST_STS 2).get SCF.pg SCF.CMD_LAST_STS = 2 :=
  s.get_put_same _ (inPage_scf (by decide)) (by decide) (by decide)

theorem State.get_lastSts (s : State) (st : Status) :
    (s.status SCF.pg SCF.CMD_LAST_STS st).get SCF.pg SCF.CMD_LAST_STS = st.code :=
  s.get_status _ (inPage_scf (by decide)) (by decide) (by decide) (by decide)

@[simp] theorem State.scfUnset_advance (s : State) (dt : Nat) : (s.advance dt).scfUnset = s.scfUnset :=
  congrArg (fun r : ScfRec => r.pwd.isNone) (s.scfNewest_advance dt)

section Auth

variable {dt : Nat} {req : Req} {len : Fin 64} {s : State} (hreq : req.1 = 2) (hawake : s.dstate ≠ .safeHold)
  (hsess : s.get SCF.pg SCF.STAT_SESSION = 1) (hsets : s.noSets = true) (hop : s.scf.op = .none)

include hsess in
theorem State.get_taken_session : (s.advance dt).scfTaken.get SCF.pg SCF.STAT_SESSION = 1 := by
  rw [State.get_scfTaken, State.get_advance, hsess]

include hop in
theorem State.taken_op : (s.advance dt).scfTaken.scf.op = .none := by rw [State.scfTaken_op, State.advance_scf, hop]

include hsets in
theorem State.noSets_taken : (s.advance dt).scfTaken.noSets = true := by rw [State.noSets_scfTaken, State.noSets_advance, hsets]

include hreq hawake hsess

theorem scfClose_closes : ∃ t, exec (.scfClose dt req) s = .next t ∧ t.get SCF.pg SCF.STAT_SESSION = 0 ∧
    t.get SCF.pg SCF.CMD_LAST_STS = Status.done.code := by
  have htaken := State.get_taken_session (dt := dt) hsess
  have hclose : (s.advance dt).scfTaken.scfCloseCmd =
      ((s.advance dt).scfTaken.scfClose 1).status SCF.pg SCF.CMD_LAST_STS .done := if_pos (State.scfAuth_of htaken)
  refine ⟨_, congrArg Host.Outcome.next (State.scfCmd_of_hs hreq hawake dt State.scfCloseCmd), ?_, ?_⟩
  · rw [State.get_scfEnded _ (by decide), hclose, State.get_status_word _ _ (by decide) (by decide),
      State.get_scfClose_session _ htaken]
  · rw [State.get_scfEnded _ (by decide), hclose, State.get_lastSts]

include hsets hop

theorem scfSetPwd_pends (hmin : 8 ≤ len.1) (hmax : len.1 ≤ 32) :
    ∃ t, exec (.scfSetPwd dt req len) s = .next t ∧ t.get SCF.pg SCF.CMD_LAST_STS = 2 ∧
      ∃ salt, t.scf.op = .setPwd salt (pwdHash salt (s.scfPwd len)) := by
  obtain ⟨salt, hset⟩ := State.scfSetPwd_accepted (len := len) (State.get_taken_session (dt := dt) hsess) hmin
    (State.noSets_taken hsets) (State.taken_op hop)
  refine ⟨_, congrArg Host.Outcome.next ((if_pos hmax).trans
    (State.scfCmd_of_hs hreq hawake dt fun u => u.scfSetPwd len)), ?_, salt, ?_⟩
  · rw [State.get_scfEnded _ (by decide), hset, State.get_scf_pending]
  · rw [State.scfEnded_scf, hset, State.put_scf, State.slgPush_op, State.opAsked_op, State.scfPwd_scfTaken,
      State.scfPwd_advance]

variable (hset : s.scfUnset = false)

include hset

theorem scfConfirm_pends (hchanged : s.on SCF.pg SCF.STAT_CHANGED = true)
    (hcrc : s.rd (fldAddr SCF.pg SCF.IMGCRC) = s.rd (fldAddr SCF.pg SCF.EXPCRC)) :
    ∃ t, exec (.scfConfirm dt req) s = .next t ∧ t.get SCF.pg SCF.CMD_LAST_STS = 2 ∧ t.scf.op = .confirm := by
  have hconf := State.scfConfirm_admitted (State.get_taken_session (dt := dt) hsess) ((s.scfUnset_advance dt).trans hset)
    ((s.on_advance ..).trans hchanged) (State.noSets_taken hsets) (State.taken_op hop)
  rw [if_pos (by simpa using hcrc)] at hconf
  refine ⟨_, congrArg Host.Outcome.next (State.scfCmd_of_hs hreq hawake dt State.scfConfirm), ?_, ?_⟩
  · rw [State.get_scfEnded _ (by decide), hconf, State.get_scf_pending]
  · rw [State.scfEnded_scf, hconf, State.put_scf, State.opAsked_op]

theorem scfConfirm_notReady (hchanged : s.on SCF.pg SCF.STAT_CHANGED = true)
    (hcrc : s.rd (fldAddr SCF.pg SCF.IMGCRC) ≠ s.rd (fldAddr SCF.pg SCF.EXPCRC)) :
    ∃ t, exec (.scfConfirm dt req) s = .next t ∧ t.get SCF.pg SCF.CMD_LAST_STS = Status.notReady.code ∧
      t.scf.op = .none := by
  have hconf := State.scfConfirm_admitted (State.get_taken_session (dt := dt) hsess) ((s.scfUnset_advance dt).trans hset)
    ((s.on_advance ..).trans hchanged) (State.noSets_taken hsets) (State.taken_op hop)
  rw [if_neg (by simpa using hcrc)] at hconf
  refine ⟨_, congrArg Host.Outcome.next (State.scfCmd_of_hs hreq hawake dt State.scfConfirm), ?_, ?_⟩
  · rw [State.get_scfEnded _ (by decide), hconf, State.get_lastSts]
  · rw [State.scfEnded_scf, hconf, (Unmoved.status ..).scf, State.taken_op hop]

theorem scfRevert_waits : ∃ t, exec (.scfRevert dt req) s = .next t ∧ t.get SCF.pg SCF.CMD_LAST_STS = Status.done.code ∧
    t.scf.revertAt = some (s.advance dt).now := by
  have hrev := State.scfRevert_accepted (State.get_taken_session (dt := dt) hsess) ((s.scfUnset_advance dt).trans hset)
    (State.noSets_taken hsets) (State.taken_op hop)
  refine ⟨_, congrArg Host.Outcome.next (State.scfCmd_of_hs hreq hawake dt State.scfRevert), ?_, ?_⟩
  · rw [State.get_scfEnded _ (by decide), hrev, State.get_lastSts]
  · rw [State.scfEnded_scf, hrev, (Unmoved.status ..).scf]
    rfl

end Auth

/-! ### What is stored, and what time ends (R363 to R367) -/

theorem State.scfNewest_of {s t : State} (hscf : t.scf = s.scf)
    (hcopy : t.on SCF.pg SCF.STAT_COPY = s.on SCF.pg SCF.STAT_COPY) : t.scfNewest = s.scfNewest := by
  rw [State.scfNewest, State.scfNewest, hscf, hcopy]

/-- The record that is stored is the one in force (R364). -/
theorem State.scfNewest_scfStore (s : State) (r : ScfRec) :
    (s.scfStore r).scfNewest = { r with valid := true, num := s.scfNewest.num + 1 } := by
  have hflip := State.on_flag_same (s.scfOther fun _ => { r with valid := true, num := s.scfNewest.num + 1 })
    (x := SCF.STAT_COPY) (!s.on SCF.pg SCF.STAT_COPY) (inPage_scf (by decide)) rfl (by decide)
  rw [State.scfStore, State.scfNewest, hflip, State.flag_scf, State.scfOther]
  cases s.on SCF.pg SCF.STAT_COPY <;> rfl

theorem State.scfStore_get (s : State) (r : ScfRec) {x : Fld} (hx : x.off ≠ 0x00C) (hp : x.off < 0x1000) :
    (s.scfStore r).get SCF.pg x = s.get SCF.pg x := by
  rw [State.scfStore, State.get_flag_off _ _ hx, State.get_within (Kept.scfOther ..).within (inPage_scf hp) (by simp)]

theorem State.scfStore_lockStore (s : State) (r : ScfRec) : (s.scfStore r).scf.lockStore = s.scf.lockStore := by
  rw [State.scfStore, State.flag_scf, State.scfOther]
  split <;> rfl

theorem State.scfNewest_fsDone (s : State) : s.fsDone.scfNewest = s.scfNewest := rfl

theorem State.get_fsDone (s : State) (p : Page) (x : Fld) : s.fsDone.get p x = s.get p x := rfl

theorem State.fsDone_op (s : State) : s.fsDone.scf.op = s.scf.op := rfl

theorem State.fsDone_lockStore (s : State) : s.fsDone.scf.lockStore = s.scf.lockStore := rfl

theorem scfStoreDone_storesLock {dt : Nat} {s : State} (hlock : s.scf.lockStore = true)
    (hfs : s.fsWaits s.scf.lockAt = false) :
    ∃ t, exec (.scfStoreDone dt true) s = .next t ∧ t.scf.lockStore = false ∧
      t.scfNewest.lockN = s.get SCF.pg SCF.LOCK_LOCKN := by
  have hgo : (s.advance dt).scf.lockStore = true ∧ ¬(s.advance dt).fsWaits (s.advance dt).scf.lockAt = true := by
    simp [hlock, hfs]
  refine ⟨((s.advance dt).scfLockStored true).fsDone, if_pos hgo, ?_, ?_⟩
  · rw [State.fsDone_lockStore, State.scfLockStored, if_pos rfl, State.scfStore_lockStore]
  · rw [State.scfNewest_fsDone, State.scfLockStored, if_pos rfl, State.scfNewest_scfStore]
    exact s.get_advance dt SCF.pg SCF.LOCK_LOCKN

/-- A completed command of SCF leaves the words below the buffer, but for the status word and the error counts. -/
theorem State.get_scfDone (s : State) (st : Status) {x : Fld} (hx : x.off < 0x060) (hsts : x.off ≠ 0x044)
    (herr : x.off ≠ 0x02C) : (s.scfDone st).get SCF.pg x = s.get SCF.pg x := by
  rw [State.scfDone, State.get_scfClear _ hx, State.get_status_word _ _ hsts herr, State.get_withScf]

theorem State.get_scfDone_sts (s : State) (st : Status) : (s.scfDone st).get SCF.pg SCF.CMD_LAST_STS = st.code := by
  rw [State.scfDone, State.get_scfClear _ (by decide), State.get_lastSts]

theorem State.scfDone_scf (s : State) (st : Status) : (s.scfDone st).scf = { s.scf with op := .none } := by
  rw [State.scfDone, State.scfClear_scf, (Unmoved.status ..).scf]

theorem State.scfNewest_scfDone (s : State) (st : Status) : (s.scfDone st).scfNewest = s.scfNewest := by
  rw [State.scfNewest, State.on, State.get_scfDone _ _ (by decide) (by decide) (by decide), State.scfDone_scf]
  rfl

theorem execScfStoreDone_op {dt : Nat} {s : State} (hlock : s.scf.lockStore = false) (hbusy : s.scf.op ≠ .none)
    (hfs : s.fsWaits s.scf.opAt = false) :
    exec (.scfStoreDone dt true) s = .next ((s.advance dt).scfOpStored true).fsDone := by
  have hskip : ¬((s.advance dt).scf.lockStore = true ∧ ¬(s.advance dt).fsWaits (s.advance dt).scf.lockAt = true) := by
    simp [hlock]
  have hgo : (s.advance dt).scfBusy = true ∧ ¬(s.advance dt).fsWaits (s.advance dt).scf.opAt = true := by
    simp [State.scfBusy, hbusy, hfs]
  exact (if_neg hskip).trans (if_pos hgo)

theorem scfStoreDone_storesPwd {dt salt hash : Nat} {s : State} (hlock : s.scf.lockStore = false)
    (hfs : s.fsWaits s.scf.opAt = false) (hop : s.scf.op = .setPwd salt hash) :
    ∃ t, exec (.scfStoreDone dt true) s = .next t ∧ t.scfNewest.pwd = some (salt, hash) ∧
      t.on SCF.pg SCF.STAT_UNSET = false ∧ t.scf.op = .none ∧ t.get SCF.pg SCF.CMD_LAST_STS = Status.done.code := by
  let u := (s.advance dt).scfStore { (s.advance dt).scfNewest with pwd := some (salt, hash) }
  have hstored : (s.advance dt).scfOpStored true = (u.flag SCF.pg SCF.STAT_UNSET false).scfDone .done := by
    simp [State.scfOpStored, hop, u]
  have hcopy : (u.flag SCF.pg SCF.STAT_UNSET false).on SCF.pg SCF.STAT_COPY = u.on SCF.pg SCF.STAT_COPY :=
    congrArg (· == 1) (u.get_flag_bits false (by decide) (by decide) (by decide))
  refine ⟨_, execScfStoreDone_op hlock (by simp [hop]) hfs, ?_, ?_, ?_, ?_⟩
  · rw [State.scfNewest_fsDone, hstored, State.scfNewest_scfDone, State.scfNewest_of (State.flag_scf ..) hcopy,
      State.scfNewest_scfStore]
  · rw [State.on, State.get_fsDone, hstored, State.get_scfDone _ _ (by decide) (by decide) (by decide)]
    exact u.on_flag_same false (inPage_scf (by decide)) rfl (by decide)
  · rw [State.fsDone_op, hstored, State.scfDone_scf]
  · rw [State.get_fsDone, hstored, State.get_scfDone_sts]

@[simp] theorem State.safeWord_advance (s : State) (dt : Nat) : (s.advance dt).safeWord = s.safeWord := by
  funext a m
  simp [State.safeWord]

/-- The state in which a CONFIRM is stored, with its check value `crc` and `n` safety words. -/
def State.confirmed (s : State) (crc n : Nat) : State :=
  (((s.put SCF.pg SCF.STOCRC crc).flag SCF.pg SCF.STAT_CONSIST true).slgPush 5 0 crc n none |>.scfDone .done).evt SCF.pg
    SCF.EVT_CONFIRMED

theorem State.scfOpStored_confirm {s : State} (hop : s.scf.op = .confirm) (hin : s.now ≤ s.scf.opAt + 80000000) :
    s.scfOpStored true =
      (s.scfStore { s.scfNewest with pairs := s.activePairs }).confirmed (imageCrc s.safeWord) safeWords.length := by
  unfold State.scfOpStored
  simp only [hop]
  rw [if_neg (Nat.not_lt.mpr hin), if_pos trivial]
  rfl

theorem State.confirmed_shows (s : State) (crc n : Nat) :
    (s.confirmed crc n).on SCF.pg SCF.STAT_CONSIST = true ∧ (s.confirmed crc n).get SCF.pg SCF.STOCRC = crc % 2 ^ 32 ∧
      (s.confirmed crc n).get SCF.pg SCF.CMD_LAST_STS = Status.done.code := by
  refine ⟨?_, ?_, ?_⟩
  · rw [State.confirmed, State.on, State.get_evt_off _ (inPage_scf (by decide)) (by decide) (by decide),
      State.get_scfDone _ _ (by decide) (by decide) (by decide), State.get_slgPush]
    exact State.on_flag_same _ true (inPage_scf (by decide)) rfl (by decide)
  · rw [State.confirmed, State.get_evt_off _ (inPage_scf (by decide)) (by decide) (by decide),
      State.get_scfDone _ _ (by decide) (by decide) (by decide), State.get_slgPush, State.get_flag_off _ _ (by decide),
      State.get_put_same _ _ (inPage_scf (by decide)) (by decide) (by decide)]
    rfl
  · rw [State.confirmed, State.get_evt_off _ (inPage_scf (by decide)) (by decide) (by decide), State.get_scfDone_sts]

theorem scfStoreDone_storesImage {dt : Nat} {s : State} (hpow : s.dev.off = false) (hlock : s.scf.lockStore = false)
    (hfs : s.fsWaits s.scf.opAt = false) (hop : s.scf.op = .confirm) (hin : s.now + dt ≤ s.scf.opAt + 80000000) :
    ∃ t, exec (.scfStoreDone dt true) s = .next t ∧ t.on SCF.pg SCF.STAT_CONSIST = true ∧
      t.get SCF.pg SCF.STOCRC = imageCrc s.safeWord % 2 ^ 32 ∧ t.get SCF.pg SCF.CMD_LAST_STS = Status.done.code := by
  have hstored := State.scfOpStored_confirm (s := s.advance dt) ((congrArg ScfH.op (s.advance_scf dt)).trans hop)
    (by rw [State.now_advance_of_on hpow, State.advance_scf]; exact hin)
  rw [s.safeWord_advance] at hstored
  generalize imageCrc s.safeWord = crc, safeWords.length = n at *
  obtain ⟨hconsist, hsto, hsts⟩ := State.confirmed_shows
    ((s.advance dt).scfStore { (s.advance dt).scfNewest with pairs := (s.advance dt).activePairs }) crc n
  refine ⟨_, execScfStoreDone_op hlock (by simp [hop]) hfs, ?_, ?_, ?_⟩
  · rw [hstored, State.on, State.get_fsDone]
    exact hconsist
  · rw [hstored, State.get_fsDone, hsto]
  · rw [hstored, State.get_fsDone, hsts]

theorem lockoutEnd_ends {dt x : Nat} {s : State} (hpow : s.dev.off = false) (hend : s.scf.lockEnd = some x)
    (hdue : x ≤ s.now + dt) :
    ∃ t, exec (.lockoutEnd dt) s = .next t ∧ t.get SCF.pg SCF.STAT_SESSION = 0 ∧ t.scf.lockEnd = none := by
  refine ⟨State.scfSession { s.advance dt with scf := { (s.advance dt).scf with lockEnd := none } } 0, ?_,
    State.get_scfSession_same _ (by decide), congrArg ScfH.lockEnd (State.scfSession_scf ..)⟩
  change execLockoutEnd dt s = _
  simp only [execLockoutEnd, State.advance_scf, hend, State.now_advance_of_on hpow, if_pos hdue]

theorem sessionTimeout_closes {dt : Nat} {s : State} (hpow : s.dev.off = false)
    (hsess : s.get SCF.pg SCF.STAT_SESSION = 1)
    (hdue : s.scf.sessAt + s.get SCF.pg SCF.CFG_SESS_TO * 24000000000 ≤ s.now + dt) :
    ∃ t, exec (.sessionTimeout dt) s = .next t ∧ t.get SCF.pg SCF.STAT_SESSION = 0 := by
  refine ⟨(s.advance dt).scfClose 2, if_pos ?_, State.get_scfClose_session 2 ((s.get_advance ..).trans hsess)⟩
  rw [State.advance_scf, State.get_advance, State.now_advance_of_on hpow]
  exact hdue

theorem imgcrcRecomputed_shows {dt x : Nat} {s : State} (hpow : s.dev.off = false) (hcrc : s.scf.crcDue = some x)
    (hin : s.now + dt ≤ x + 400000) :
    ∃ t, exec (.imgcrcRecomputed dt) s = .next t ∧ t.scf.crcDue = none ∧
      t.get SCF.pg SCF.IMGCRC = imageCrc s.safeWord % 2 ^ 32 := by
  refine ⟨State.put { s.advance dt with scf := { (s.advance dt).scf with crcDue := none } } SCF.pg SCF.IMGCRC
    (imageCrc (s.advance dt).safeWord), ?_, congrArg ScfH.crcDue (State.put_scf ..), ?_⟩
  · change execImgcrcRecomputed dt s = _
    have hnot : ¬x + 400000 < s.now + dt := Nat.not_lt.mpr hin
    simp only [execImgcrcRecomputed, State.advance_scf, hcrc, State.now_advance_of_on hpow, if_neg hnot]
  · rw [State.get_put_same _ _ (inPage_scf (by decide)) (by decide) (by decide), State.safeWord_advance]
    rfl

/-- Settles O51: each command is carried out on the state that has taken it, and its end leaves all but the buffer; what is
stored and what time ends are read off the single operations. -/
theorem safetySessionsAndRecords : Obligations.SafetySessionsAndRecords := by
  refine ⟨fun dt req len s hreq hawake => ⟨fun good hgood hsvc hsess hlen => ⟨fun h => ?_, fun h hcount => ?_,
    fun h hmax hn => ?_⟩, fun hsess => ⟨scfClose_closes hreq hawake hsess, fun hsets hop =>
      ⟨scfSetPwd_pends hreq hawake hsess hsets hop, fun hset =>
        ⟨scfConfirm_pends hreq hawake hsess hsets hop hset, scfConfirm_notReady hreq hawake hsess hsets hop hset,
          scfRevert_waits hreq hawake hsess hsets hop hset⟩⟩⟩⟩,
    fun dt s hpow => ⟨scfStoreDone_storesLock, fun hlock hfs => ⟨fun salt hash hop => scfStoreDone_storesPwd hlock hfs hop,
      fun hop hin => scfStoreDone_storesImage hpow hlock hfs hop hin⟩, fun x hend hdue => lockoutEnd_ends hpow hend hdue,
      fun hsess hdue => sessionTimeout_closes hpow hsess hdue, fun x hcrc hin => imgcrcRecomputed_shows hpow hcrc hin⟩⟩
  · exact scfOpen_opens hreq hawake hsvc hsess hlen (hgood.trans h)
  · exact scfOpen_fails hreq hawake hsvc hsess hlen (hgood.trans h) hcount
  · exact scfOpen_bars hreq hawake hsvc hsess hlen (hgood.trans h) hmax hn

end Sys2Proof.Machine
end

section
/-! SUPPORT. O53: the windows and counters of the arbiter, the scrubber, and flash operations (R390 to R396). -/

namespace Sys2Proof.Machine
open Sys2Proof

theorem inPage_arb {x : Fld} (hx : x.off < 0x1000) : inPage ARB.pg x = true := inPage_of_hasHeader (by decide) rfl hx

/-! ### Windows and starvation (R393 to R395) -/

theorem State.arbRoll_starts {s : State} (h : s.arb.winEnd ≤ s.now) :
    s.arbRoll.arb.used = [] ∧ s.arbRoll.arb.high = s.get ARB.pg ARB.PRIO_HIGH ∧
      s.arbRoll.arb.winEnd = (s.now / s.get ARB.pg ARB.CFG_WIN + 1) * s.get ARB.pg ARB.CFG_WIN ∧
      s.arbRoll.regs = s.regs := by
  rw [State.arbRoll, if_pos h]
  exact ⟨rfl, rfl, rfl, rfl⟩

theorem arbWindowStart_starts {dt : Nat} {s : State} (h : s.arb.winEnd ≤ (s.advance dt).now) :
    ∃ t, exec (.arbWindowStart dt) s = .next t ∧ t.arb.used = [] ∧ t.arb.high = s.get ARB.pg ARB.PRIO_HIGH ∧
      t.arb.winEnd = ((s.advance dt).now / s.get ARB.pg ARB.CFG_WIN + 1) * s.get ARB.pg ARB.CFG_WIN ∧ t.regs = s.regs := by
  obtain ⟨hused, hhigh, hend, hregs⟩ := State.arbRoll_starts (s := s.advance dt) (by rwa [State.advance_arb])
  rw [State.get_advance] at hhigh hend
  exact ⟨_, rfl, hused, hhigh, hend, hregs.trans (s.advance_regs dt)⟩

theorem starvation_flags {dt bank : Nat} {req : Req} {s : State} (hpow : s.dev.off = false) (hreq : req.1 < 12)
    (hpend : 0 < mapGet (fun _ => 0) s.arb.reqs (16 * bank + req) / 2) (hnew : s.bitOn ARB.pg ARB.STARVE_FLAG req = false)
    (hdue : mapGet (fun _ => 0) s.arb.reqs (16 * bank + req) / 2 + s.get ARB.pg ARB.CFG_STARVE_THR ≤ s.now + dt + 1) :
    ∃ t, exec (.starvation dt req bank) s = .next t ∧ t.bitOn ARB.pg ARB.STARVE_FLAG req = true ∧
      t.on ARB.pg ARB.EVT_STARVE = true := by
  have hgo : 0 < mapGet (fun _ => 0) (s.advance dt).arb.reqs (16 * bank + req) / 2 ∧
      mapGet (fun _ => 0) (s.advance dt).arb.reqs (16 * bank + req) / 2 + (s.advance dt).get ARB.pg ARB.CFG_STARVE_THR ≤
        (s.advance dt).now + 1 ∧ req.1 < 12 ∧ ¬(s.advance dt).bitOn ARB.pg ARB.STARVE_FLAG req = true := by
    rw [State.advance_arb, State.get_advance, State.now_advance_of_on hpow, State.bitOn, State.get_advance]
    exact ⟨hpend, hdue, hreq, Bool.eq_false_iff.mp hnew⟩
  refine ⟨((((s.advance dt).putBit ARB.pg ARB.STARVE_FLAG req true).evt ARB.pg ARB.EVT_STARVE).note 0xD07 1 0 0),
    if_pos hgo, ?_, ?_⟩
  · have hflag := State.bitOn_putBit_same (s.advance dt) (p := ARB.pg) (x := ARB.STARVE_FLAG) (b := req.1) true
      (inPage_arb (by decide)) (by decide) (by decide) hreq
    rw [State.bitOn, State.get_note _ _ _ _ _ (inPage_arb (by decide)) (by decide) (by decide) (by decide),
      State.get_evt_off _ (inPage_arb (by decide)) (by decide) (by decide)]
    exact hflag
  · rw [State.on, State.get_note _ _ _ _ _ (inPage_arb (by decide)) (by decide) (by decide) (by decide)]
    exact State.on_evt_page _ (inPage_arb (by decide)) (by decide) rfl rfl (by decide)

/-! ### Counters (R396) -/

/-- The counters of one requester are cleared. -/
def State.arbZeroed (s : State) (r : Nat) : State :=
  ((s.put64 ARB.pg (ARB.GRANT_LO.ix r) 0).put ARB.pg (ARB.WAITS.ix r) 0).put ARB.pg (ARB.LONG.ix r) 0

/-- The counters of requester `r` are 0. -/
structure State.ArbZero (r : Nat) (s : State) : Prop where
  grants : s.get64 ARB.pg (ARB.GRANT_LO.ix r) = 0
  waits : s.get ARB.pg (ARB.WAITS.ix r) = 0
  long : s.get ARB.pg (ARB.LONG.ix r) = 0

theorem State.arbZero_same (s : State) {r : Nat} (hr : r < 12) : (s.arbZeroed r).ArbZero r where
  grants := by
    rw [State.arbZeroed, State.get64_put_other _ _ (by simp only [Fld.ix, ARB.GRANT_LO, ARB.LONG]; omega)
        (by simp only [Fld.ix, ARB.GRANT_LO, ARB.LONG]; omega),
      State.get64_put_other _ _ (by simp only [Fld.ix, ARB.GRANT_LO, ARB.WAITS]; omega)
        (by simp only [Fld.ix, ARB.GRANT_LO, ARB.WAITS]; omega),
      State.get64_put64 _ _ (inPage_arb (by simp only [Fld.ix, ARB.GRANT_LO]; omega))
        (inPage_arb (by simp only [Fld.ix, ARB.GRANT_LO]; omega))]
    exact Nat.zero_mod _
  waits := by
    rw [State.arbZeroed, State.get_put_off _ _ (ix_off_ne (by decide) (by decide) r),
      State.get_put_ix_same _ _ (inPage_arb (by simp only [Fld.ix, ARB.WAITS]; omega)) (by decide) (by decide)]
    exact Nat.zero_mod _
  long := by
    rw [State.arbZeroed,
      State.get_put_ix_same _ _ (inPage_arb (by simp only [Fld.ix, ARB.LONG]; omega)) (by decide) (by decide)]
    exact Nat.zero_mod _

/-- The clearing of one requester's counters leaves those of another. -/
theorem State.arbZero_other {s : State} {r b : Nat} (hb : b ≠ r) (h : s.ArbZero r) : (s.arbZeroed b).ArbZero r := by
  obtain ⟨hgrants, hwaits, hlong⟩ := h
  have hput64 {x : Fld} (hlo : x.off ≠ (ARB.GRANT_LO.ix b).off) (hhi : x.off ≠ (ARB.GRANT_LO.ix b).off + 4) :
      (s.put64 ARB.pg (ARB.GRANT_LO.ix b) 0).get ARB.pg x = s.get ARB.pg x :=
    State.get_eq_of_rd ((State.rd_setWord_off _ _ hhi).trans (State.rd_setWord_off _ _ hlo)) rfl
  refine ⟨?_, ?_, ?_⟩ <;> rw [State.arbZeroed]
  · rw [State.get64_put_other _ _ (by simp only [Fld.ix, ARB.GRANT_LO, ARB.LONG]; omega)
        (by simp only [Fld.ix, ARB.GRANT_LO, ARB.LONG]; omega),
      State.get64_put_other _ _ (by simp only [Fld.ix, ARB.GRANT_LO, ARB.WAITS]; omega)
        (by simp only [Fld.ix, ARB.GRANT_LO, ARB.WAITS]; omega),
      State.get64_put64_other _ _ (by simp only [Fld.ix, ARB.GRANT_LO]; omega)
        (by simp only [Fld.ix, ARB.GRANT_LO]; omega) (by simp only [Fld.ix, ARB.GRANT_LO]; omega), hgrants]
  · rw [State.get_put_off _ _ (by simp only [Fld.ix, ARB.WAITS, ARB.LONG]; omega),
      State.get_put_off _ _ (by simp only [Fld.ix, ARB.WAITS]; omega),
      hput64 (by simp only [Fld.ix, ARB.WAITS, ARB.GRANT_LO]; omega)
        (by simp only [Fld.ix, ARB.WAITS, ARB.GRANT_LO]; omega), hwaits]
  · rw [State.get_put_off _ _ (by simp only [Fld.ix, ARB.LONG]; omega),
      State.get_put_off _ _ (by simp only [Fld.ix, ARB.WAITS, ARB.LONG]; omega),
      hput64 (by simp only [Fld.ix, ARB.LONG, ARB.GRANT_LO]; omega)
        (by simp only [Fld.ix, ARB.LONG, ARB.GRANT_LO]; omega), hlong]

theorem State.arbClear_zero (s : State) (r : Fin 12) : s.arbClear.ArbZero r :=
  State.foldl_each (f := State.arbZeroed) (R := fun r s => r < 12 → s.ArbZero r)
    (fun s r b h hr => if hb : b = r then hb ▸ s.arbZero_same (hb ▸ hr) else State.arbZero_other hb (h hr))
    (fun s _ hr => s.arbZero_same hr) _ s (List.mem_range.mpr r.isLt) r.isLt

theorem State.arbCmd_clear (s : State) : s.arbCmd 1 = s.arbClear.status ARB.pg ARB.CMD_LAST_STS .done := by
  unfold State.arbCmd
  rw [if_pos (Eq.refl 1)]

theorem arbClrCnt_clears {dt : Nat} {req : Req} {s : State} (hawake : s.dstate ≠ .safeHold) :
    ∃ t, exec (.arbClrCnt dt req) s = .next t ∧ t.get ARB.pg ARB.CMD_LAST_STS = Status.done.code ∧
      ∀ r : Fin 12, t.get64 ARB.pg (ARB.GRANT_LO.ix r) = 0 ∧ t.get ARB.pg (ARB.WAITS.ix r) = 0 ∧
        t.get ARB.pg (ARB.LONG.ix r) = 0 := by
  refine ⟨(s.advance dt).arbClear.status ARB.pg ARB.CMD_LAST_STS .done, congrArg Host.Outcome.next
    ((State.blockCmd_of_awake hawake dt ARB.pg ARB.CMD_LAST_STS fun u => u.arbCmd 1).trans (State.arbCmd_clear _)),
    State.get_status _ _ (inPage_arb (by decide)) (by decide) (by decide) (by decide), fun r => ?_⟩
  obtain ⟨hgrants, hwaits, hlong⟩ := (s.advance dt).arbClear_zero r
  have hoff {x : Fld} (hx : 0x100 ≤ x.off) : x.off ≠ ARB.CMD_LAST_STS.off ∧ x.off + 4 ≠ ARB.CMD_LAST_STS.off ∧
      x.off ≠ 0x02C := by simp only [ARB.CMD_LAST_STS]; omega
  have hge {x : Fld} (hx : 0x100 ≤ x.off) : 0x100 ≤ (x.ix r).off := Nat.le_add_right_of_le hx
  refine ⟨?_, ?_, ?_⟩
  · exact (State.get64_put_other _ _ (hoff (hge (by decide))).1 (hoff (hge (by decide))).2.1).trans hgrants
  · exact (State.get_put_off _ _ (hoff (hge (by decide))).1).trans hwaits
  · exact (State.get_put_off _ _ (hoff (hge (by decide))).1).trans hlong

/-! ### The scrubber (R390) -/

/-- The state in which the scrubber has taken the next word of a bank. -/
def State.scrubbed (s : State) (bank : Fin 25) : State :=
  { s with arb := { s.arb with scrub := vset s.arb.scrub bank (((vget s.arb.scrub bank).1 + 1) % 65536, s.now) } }

section Scrub

variable {dt : Nat} {bank : Fin 25} {s : State} (hpow : s.dev.off = false) (hen : s.on ARB.pg ARB.MEM_SCRUB_EN = true)
  (hdue : (vget s.arb.scrub bank).2 + s.get ARB.pg ARB.MEM_SCRUB_INTERVAL ≤ s.now + dt)
  (hidle : (s.arb.reqs.all fun e => e.1 / 16 != bank.1) = true)

include hpow hen hdue hidle

theorem scrubAccess_takes (ecc : Ecc) : exec (.scrubAccess dt bank ecc) s =
    match ecc with
    | .none => .next ((s.advance dt).scrubbed bank)
    | .single => .next (((s.advance dt).scrubbed bank).eccSingle (if bank.1 < 24 then
        0x20000000 + bank * 0x40000 + 4 * (vget s.arb.scrub bank).1 else 0x28000000 + 4 * (vget s.arb.scrub bank).1))
    | .double => .next (((s.advance dt).scrubbed bank).eccDouble (if bank.1 < 24 then
        0x20000000 + bank * 0x40000 + 4 * (vget s.arb.scrub bank).1 else 0x28000000 + 4 * (vget s.arb.scrub bank).1)) := by
  change execScrubAccess dt bank ecc s = _
  have hgo : (s.advance dt).on ARB.pg ARB.MEM_SCRUB_EN = true ∧ (vget (s.advance dt).arb.scrub bank).2 +
      (s.advance dt).get ARB.pg ARB.MEM_SCRUB_INTERVAL ≤ (s.advance dt).now ∧
      ((s.advance dt).arb.reqs.all fun e => e.1 / 16 != bank.1) = true ∧ ¬(s.advance dt).dev.off = true := by
    rw [State.on_advance, State.advance_arb, State.get_advance, State.now_advance_of_on hpow]
    exact ⟨hen, hdue, hidle, State.devOff_advance hpow dt⟩
  rw [← State.advance_arb s dt]
  unfold execScrubAccess
  simp only []
  rw [if_pos hgo]
  cases ecc <;> rfl

theorem scrubAccess_corrects : ∃ t, exec (.scrubAccess dt bank .none) s = .next t ∧
    vget t.arb.scrub bank = (((vget s.arb.scrub bank).1 + 1) % 65536, s.now + dt) ∧ t.regs = s.regs := by
  refine ⟨_, scrubAccess_takes hpow hen hdue hidle .none, ?_, s.advance_regs dt⟩
  rw [State.scrubbed, State.advance_arb, State.now_advance_of_on hpow]
  exact vget_vset_same ..

theorem scrubAccess_double (hbank : bank.1 = 24) (hw : (vget s.arb.scrub bank).1 < 65536) :
    ∃ u, exec (.scrubAccess dt bank .double) s = .next (State.raise (State.incSat (State.put u ARB.pg ARB.MEM_ERRADDR
      (0x28000000 + 4 * (vget s.arb.scrub bank).1)) ARB.pg ARB.MEM_ECCCNT_SRAM_UE) 0xD03 5 0) ∧ u.regs = s.regs := by
  refine ⟨(s.advance dt).scrubbed bank, (scrubAccess_takes hpow hen hdue hidle .double).trans
    (congrArg Host.Outcome.next ?_), s.advance_regs dt⟩
  have hregion : regionOf (0x28000000 + 4 * (vget s.arb.scrub bank).1) = some .halo := by
    unfold regionOf
    rw [if_neg (by omega), if_neg (by omega), if_neg (by omega), if_pos (by omega)]
  rw [if_neg (by omega), State.eccDouble, hregion]

end Scrub

end Sys2Proof.Machine
end

section
/-! SUPPORT. O53, continued: flash commands and the end of a flash operation (R391, R392). -/

namespace Sys2Proof.Machine
open Sys2Proof

/-! ### Bytes and words of memory -/

theorem State.rdBytes_congr {s t : State} {a n : Nat} (h : ∀ b, a ≤ b → b < a + n → t.rdByte b = s.rdByte b) :
    t.rdBytes a n = s.rdBytes a n := by
  induction n generalizing a with
  | zero => rfl
  | succ n ih =>
    rw [State.rdBytes, State.rdBytes, h a le_rfl (by omega), ih fun b hlo hhi => h b (by omega) (by omega)]

theorem State.rdMem_wrMem_apart (s : State) {a b : Nat} (v : W32) (h : b + 4 ≤ a ∨ a + 4 ≤ b) :
    (s.wrMem a v).rdMem b = s.rdMem b := by
  have hbytes : (s.wrMem a v).rdBytes b 4 = s.rdBytes b 4 :=
    State.rdBytes_congr fun c hlo hhi => State.rdByte_wrBytes_out _ _ 4 (by omega)
  rw [State.rdMem, State.rdMem, hbytes]

theorem State.rdByte_eraseBytes (s : State) (a n b : Nat) :
    (s.eraseBytes a n).rdByte b = if a ≤ b ∧ b < a + n then 0xFF#8 else s.rdByte b := by
  induction n generalizing s a with
  | zero => rw [if_neg (by omega), State.eraseBytes]
  | succ n ih =>
    rw [State.eraseBytes, ih]
    by_cases hb : b = a
    · rw [hb, if_neg (by omega), if_pos (by omega), State.rdByte_wrByte_same]
    · rw [State.rdByte_wrByte_other _ _ hb]
      exact if_congr (by omega) rfl rfl

theorem State.eraseBytes_keeps (s : State) (a n : Nat) :
    (s.eraseBytes a n).regs = s.regs ∧ (s.eraseBytes a n).arb = s.arb := by
  induction n generalizing s a with
  | zero => exact ⟨rfl, rfl⟩
  | succ n ih => exact ih ..

theorem State.wrBytes_keeps (s : State) (a v n : Nat) :
    (s.wrBytes a v n).regs = s.regs ∧ (s.wrBytes a v n).arb = s.arb := by
  induction n generalizing s a v with
  | zero => exact ⟨rfl, rfl⟩
  | succ n ih => exact ih ..

theorem State.wrMem_regs (s : State) (a : Nat) (v : W32) : (s.wrMem a v).regs = s.regs := (s.wrBytes_keeps a _ 4).1

theorem State.wrMem_arb (s : State) (a : Nat) (v : W32) : (s.wrMem a v).arb = s.arb := (s.wrBytes_keeps a _ 4).2

theorem State.erased_of_mem {s t : State} (h : t.mem = s.mem) (a n : Nat) : t.erased a n = s.erased a n := by
  induction n generalizing a with
  | zero => rfl
  | succ n ih => rw [State.erased, State.erased, State.rdByte_of_mem h, ih]

/-! ### Commands (R391) -/

theorem State.on_withArb (s : State) (v : ArbH) (p : Page) (x : Fld) :
    ({ s with arb := v } : State).on p x = s.on p x := rfl

theorem State.flsGo_starts (s : State) (op : FlashOp) :
    (s.flsGo op).on ARB.pg ARB.FLS_STAT_BUSY = true ∧ (s.flsGo op).arb.flash = some op ∧ (s.flsGo op).mem = s.mem :=
  ⟨(State.on_withArb ..).trans (s.on_flag_same true (inPage_arb (by decide)) rfl (by decide)), rfl, State.flag_mem ..⟩

section Command

variable {s : State} {req : Req} {dt : Nat} (hreq : req ∈ ([0, 1, 2, 11] : List Req))
  (hst : s.dstate = .boot ∨ s.dstate = .standby ∨ s.dstate = .service)
  (hkey : (s.advance dt).unlocked ARB.pg req = true) (hbusy : s.on ARB.pg ARB.FLS_STAT_BUSY = false)
  (hlo : 0x08000000 ≤ s.get ARB.pg ARB.FLS_ADDR_ADDR) (hhi : s.get ARB.pg ARB.FLS_ADDR_ADDR < 0x08FC0000)

/-- The state in which a flash command has used its unlock. -/
def State.flsTaken (s : State) (dt : Nat) (req : Req) : State := (s.advance dt).setUnlock ARB.pg req .none

theorem State.get_flsTaken (x : Fld) : (s.flsTaken dt req).get ARB.pg x = s.get ARB.pg x := s.get_advance dt ARB.pg x

theorem State.flsTaken_mem : (s.flsTaken dt req).mem = s.mem := s.advance_mem dt

theorem State.flsData_flsTaken : (s.flsTaken dt req).flsData = s.flsData :=
  List.map_congr_left fun i _ => s.rd_advance dt (fldAddr ARB.pg (ARB.FLS_DATA.ix i))

include hreq hkey in
theorem State.flsWrite_takes (op : Nat) : (s.advance dt).flsWrite req op = (s.flsTaken dt req).flsCmd op := by
  have hwho : req.1 = 0 ∨ req.1 = 1 ∨ req.1 = 2 ∨ req.1 = 11 := by
    simp only [List.mem_cons, List.not_mem_nil, or_false] at hreq
    rcases hreq with rfl | rfl | rfl | rfl <;> decide
  exact (if_pos hwho).trans (if_pos hkey)

include hst hbusy hlo hhi

theorem State.flsCmd_admitted {op : Nat} (hop : op = 1 ∨ op = 2) : (s.flsTaken dt req).flsCmd op =
    if op = 2 then (s.flsTaken dt req).flsGo (.erase (s.get ARB.pg ARB.FLS_ADDR_ADDR / 0x10000 * 0x10000))
    else if s.get ARB.pg ARB.FLS_ADDR_ADDR % 16 ≠ 0 then (s.flsTaken dt req).flsLast 6
    else if s.erased (s.get ARB.pg ARB.FLS_ADDR_ADDR) 16 = true then
      (s.flsTaken dt req).flsGo (.program (s.get ARB.pg ARB.FLS_ADDR_ADDR) s.flsData)
    else (s.flsTaken dt req).flsLast 4 := by
  have hdst : (s.flsTaken dt req).dstate = s.dstate := s.dstate_advance dt
  have hon : (s.flsTaken dt req).on ARB.pg ARB.FLS_STAT_BUSY = false := (s.on_advance ..).trans hbusy
  have hallowed : ¬(s.dstate ≠ .boot ∧ s.dstate ≠ .standby ∧ s.dstate ≠ .service) := by
    rcases hst with h | h | h <;> simp [h]
  unfold State.flsCmd
  simp only []
  rw [if_neg (by omega), hdst, if_neg hallowed, if_neg (by simp [hon]), State.get_flsTaken, if_neg (by omega),
    State.erased_of_mem State.flsTaken_mem, State.flsData_flsTaken]

include hreq hkey

theorem flsErase_starts : ∃ t, exec (.flsErase dt req) s = .next t ∧ t.on ARB.pg ARB.FLS_STAT_BUSY = true ∧
    t.arb.flash = some (.erase (s.get ARB.pg ARB.FLS_ADDR_ADDR / 0x10000 * 0x10000)) := by
  obtain ⟨hon, hflash, _⟩ := (s.flsTaken dt req).flsGo_starts
    (.erase (s.get ARB.pg ARB.FLS_ADDR_ADDR / 0x10000 * 0x10000))
  refine ⟨_, congrArg Host.Outcome.next ((State.flsWrite_takes hreq hkey 2).trans
    ((State.flsCmd_admitted hst hbusy hlo hhi (.inr rfl)).trans (if_pos rfl))), hon, hflash⟩

theorem flsProgram_starts (halign : s.get ARB.pg ARB.FLS_ADDR_ADDR % 16 = 0)
    (hones : s.erased (s.get ARB.pg ARB.FLS_ADDR_ADDR) 16 = true) :
    ∃ t, exec (.flsProgram dt req) s = .next t ∧ t.on ARB.pg ARB.FLS_STAT_BUSY = true ∧
      t.arb.flash = some (.program (s.get ARB.pg ARB.FLS_ADDR_ADDR) s.flsData) ∧ t.mem = s.mem := by
  obtain ⟨hon, hflash, hmem⟩ := (s.flsTaken dt req).flsGo_starts (.program (s.get ARB.pg ARB.FLS_ADDR_ADDR) s.flsData)
  have hcmd := State.flsCmd_admitted (dt := dt) (req := req) hst hbusy hlo hhi (.inl rfl)
  rw [if_neg (by decide), if_neg (not_not.mpr halign), if_pos hones] at hcmd
  exact ⟨_, congrArg Host.Outcome.next ((State.flsWrite_takes hreq hkey 1).trans hcmd), hon, hflash,
    hmem.trans State.flsTaken_mem⟩

theorem flsProgram_unaligned (halign : s.get ARB.pg ARB.FLS_ADDR_ADDR % 16 ≠ 0) :
    ∃ t, exec (.flsProgram dt req) s = .next t ∧ t.get ARB.pg ARB.FLS_STAT_LAST = 6 ∧ t.mem = s.mem := by
  have hcmd := State.flsCmd_admitted (dt := dt) (req := req) hst hbusy hlo hhi (.inl rfl)
  rw [if_neg (by decide), if_pos halign] at hcmd
  exact ⟨_, congrArg Host.Outcome.next ((State.flsWrite_takes hreq hkey 1).trans hcmd),
    State.get_put_same _ _ (inPage_arb (by decide)) (by decide) (by decide), (State.put_mem ..).trans State.flsTaken_mem⟩

end Command

/-! ### The end of an operation (R391) -/

/-- The state in which no operation is in progress any more. -/
def State.flashFreed (s : State) : State :=
  { s.flag ARB.pg ARB.FLS_STAT_BUSY false with arb := { s.arb with flash := none } }

/-- An operation ends with DONE and its event. -/
def State.flashEnded (s : State) : State := (s.flsLast 1).evt ARB.pg ARB.EVT_FLASH

/-- Four consecutive words of memory are written. -/
def State.wrFour (s : State) (a : Nat) (w0 w1 w2 w3 : W32) : State :=
  (((s.wrMem (a + 4 * 0) w0).wrMem (a + 4 * 1) w1).wrMem (a + 4 * 2) w2).wrMem (a + 4 * 3) w3

theorem State.wrFour_keeps (s : State) (a : Nat) (w0 w1 w2 w3 : W32) :
    (s.wrFour a w0 w1 w2 w3).regs = s.regs ∧ (s.wrFour a w0 w1 w2 w3).arb = s.arb := by
  simp only [State.wrFour, State.wrMem_regs, State.wrMem_arb, and_self]

/-- An operation that ends has written no register and no other part than memory. -/
theorem State.flashEnded_shows {s u : State} (hregs : u.regs = s.flashFreed.regs) (harb : u.arb = s.flashFreed.arb) :
    u.flashEnded.arb.flash = none ∧ u.flashEnded.on ARB.pg ARB.FLS_STAT_BUSY = false ∧
      u.flashEnded.get ARB.pg ARB.FLS_STAT_LAST = 1 ∧ u.flashEnded.mem = u.mem := by
  refine ⟨?_, ?_, ?_, ?_⟩
  · rw [State.flashEnded, (Unmoved.evt ..).arb, State.flsLast, State.put_arb, harb]
    rfl
  · rw [State.flashEnded, State.on, State.get_evt_off _ (inPage_arb (by decide)) (by decide) (by decide), State.flsLast,
      State.get_put_bits _ _ (by decide) (by decide) (by decide), State.get_of_regs hregs]
    exact (State.on_withArb ..).trans (s.on_flag_same false (inPage_arb (by decide)) rfl (by decide))
  · rw [State.flashEnded, State.get_evt_off _ (inPage_arb (by decide)) (by decide) (by decide), State.flsLast]
    exact State.get_put_same _ _ (inPage_arb (by decide)) (by decide) (by decide)
  · rw [State.flashEnded, (Kept.evt ..).within .mem (by simp), State.flsLast, State.put_mem]

theorem State.rdMem_wrFour (s : State) (a : Nat) (w0 w1 w2 w3 : W32) :
    (s.wrFour a w0 w1 w2 w3).rdMem a = w0 ∧ (s.wrFour a w0 w1 w2 w3).rdMem (a + 4) = w1 ∧
      (s.wrFour a w0 w1 w2 w3).rdMem (a + 8) = w2 ∧ (s.wrFour a w0 w1 w2 w3).rdMem (a + 12) = w3 := by
  refine ⟨?_, ?_, ?_, State.rdMem_wrMem_same ..⟩ <;> rw [State.wrFour]
  · rw [State.rdMem_wrMem_apart _ _ (by omega), State.rdMem_wrMem_apart _ _ (by omega),
      State.rdMem_wrMem_apart _ _ (by omega)]
    exact State.rdMem_wrMem_same ..
  · rw [State.rdMem_wrMem_apart _ _ (by omega), State.rdMem_wrMem_apart _ _ (by omega)]
    exact State.rdMem_wrMem_same ..
  · rw [State.rdMem_wrMem_apart _ _ (by omega)]
    exact State.rdMem_wrMem_same ..

theorem State.rdByte_wrFour (s : State) {a b : Nat} (w0 w1 w2 w3 : W32) (h : b < a ∨ a + 16 ≤ b) :
    (s.wrFour a w0 w1 w2 w3).rdByte b = s.rdByte b := by
  have hone (s : State) (k : Nat) (w : W32) (hk : k ≤ 3) : (s.wrMem (a + 4 * k) w).rdByte b = s.rdByte b :=
    State.rdByte_wrBytes_out _ _ 4 (by omega)
  rw [State.wrFour, hone _ 3 _ le_rfl, hone _ 2 _ (by decide), hone _ 1 _ (by decide), hone _ 0 _ (by decide)]

theorem State.flashFreed_mem (s : State) : s.flashFreed.mem = s.mem := State.flag_mem ..

theorem flashOpDone_programs {dt a : Nat} {w0 w1 w2 w3 : W32} {s : State}
    (hop : s.arb.flash = some (.program a [w0, w1, w2, w3])) (hin : (s.advance dt).now ≤ s.arb.flashAt + 8000) :
    ∃ t, exec (.flashOpDone dt true) s = .next t ∧ t.arb.flash = none ∧ t.on ARB.pg ARB.FLS_STAT_BUSY = false ∧
      t.get ARB.pg ARB.FLS_STAT_LAST = 1 ∧ t.rdMem a = w0 ∧ t.rdMem (a + 4) = w1 ∧ t.rdMem (a + 8) = w2 ∧
      t.rdMem (a + 12) = w3 ∧ ∀ b, (b < a ∨ a + 16 ≤ b) → t.rdByte b = s.rdByte b := by
  let u := (s.advance dt).flashFreed.wrFour a w0 w1 w2 w3
  have hrun : exec (.flashOpDone dt true) s = .next u.flashEnded := by
    change execFlashOpDone dt true s = _
    rw [← State.advance_arb s dt] at hop hin
    unfold execFlashOpDone
    simp only [hop]
    exact if_neg (Nat.not_lt.mpr hin)
  obtain ⟨hregs, harb⟩ := (s.advance dt).flashFreed.wrFour_keeps a w0 w1 w2 w3
  obtain ⟨hflash, hbusy, hlast, hmem⟩ := State.flashEnded_shows hregs harb
  obtain ⟨h0, h1, h2, h3⟩ := (s.advance dt).flashFreed.rdMem_wrFour a w0 w1 w2 w3
  refine ⟨_, hrun, hflash, hbusy, hlast, ?_, ?_, ?_, ?_, fun b hb => ?_⟩
  · rw [State.rdMem_of_mem hmem, h0]
  · rw [State.rdMem_of_mem hmem, h1]
  · rw [State.rdMem_of_mem hmem, h2]
  · rw [State.rdMem_of_mem hmem, h3]
  · rw [State.rdByte_of_mem hmem, State.rdByte_wrFour _ _ _ _ _ hb, State.rdByte_of_mem (State.flashFreed_mem _),
      State.rdByte_advance]

theorem flashOpDone_erases {dt a : Nat} {s : State} (hop : s.arb.flash = some (.erase a))
    (hin : (s.advance dt).now ≤ s.arb.flashAt + 24000000) :
    ∃ t, exec (.flashOpDone dt true) s = .next t ∧ t.arb.flash = none ∧ t.on ARB.pg ARB.FLS_STAT_BUSY = false ∧
      t.get ARB.pg ARB.FLS_STAT_LAST = 1 ∧
      ∀ b, t.rdByte b = if a ≤ b ∧ b < a + 0x10000 then 0xFF#8 else s.rdByte b := by
  have hrun : exec (.flashOpDone dt true) s =
      .next ((s.advance dt).flashFreed.eraseBytes a 0x10000).flashEnded := by
    change execFlashOpDone dt true s = _
    rw [← State.advance_arb s dt] at hop hin
    unfold execFlashOpDone
    simp only [hop]
    exact if_neg (Nat.not_lt.mpr hin)
  generalize 0x10000 = n at hrun ⊢
  obtain ⟨hregs, harb⟩ := (s.advance dt).flashFreed.eraseBytes_keeps a n
  obtain ⟨hflash, hbusy, hlast, hmem⟩ := State.flashEnded_shows hregs harb
  refine ⟨_, hrun, hflash, hbusy, hlast, fun b => ?_⟩
  rw [State.rdByte_of_mem hmem, State.rdByte_eraseBytes, State.rdByte_of_mem (State.flashFreed_mem _),
    State.rdByte_advance]

/-- Settles O53: each clause is the lemma of its operation; the counters of one requester are apart from those of another,
and a flash operation writes memory alone before it ends. -/
theorem arbiterScrubberAndFlash : Obligations.ArbiterScrubberAndFlash :=
  ⟨fun _ _ h => arbWindowStart_starts h,
    fun _ _ _ _ hpow hreq hpend hnew hdue => starvation_flags hpow hreq hpend hnew hdue,
    fun _ _ _ hawake => arbClrCnt_clears hawake,
    fun _ _ _ hpow hen hdue hidle => ⟨scrubAccess_corrects hpow hen hdue hidle, scrubAccess_double hpow hen hdue hidle⟩,
    fun _ _ _ hreq hst hkey hbusy hlo hhi => ⟨flsErase_starts hreq hst hkey hbusy hlo hhi,
      flsProgram_starts hreq hst hkey hbusy hlo hhi, flsProgram_unaligned hreq hst hkey hbusy hlo hhi⟩,
    fun _ _ _ => ⟨fun _ _ _ _ hop hin => flashOpDone_programs hop hin, fun hop hin => flashOpDone_erases hop hin⟩⟩

end Sys2Proof.Machine
end

section
/-! SUPPORT. O56: the commands, pushes and pops of the CAN controllers (R412 to R424). -/

namespace Sys2Proof.Machine
open Sys2Proof

theorem inPage_can (i : Fin 4) {x : Fld} (hx : x.off < 0x1000) : inPage (CAN.pg i) x = true :=
  inPage_of_hasHeader (decide_eq_true i.isLt) rfl hx

theorem can_ne_dma (i : Fin 4) : (CAN.pg i).blk ≠ .dma := nofun

/-! ### The hidden state of a controller -/

theorem State.canSet_same (s : State) (i : Fin 4) (f : CanH → CanH) :
    vget (s.canSet i f).canH i = f (vget s.canH i) := vget_vset_same ..

@[simp] theorem State.get_canSet (s : State) (i : Fin 4) (f : CanH → CanH) (p : Page) (x : Fld) :
    (s.canSet i f).get p x = s.get p x := rfl

@[simp] theorem State.on_canSet (s : State) (i : Fin 4) (f : CanH → CanH) (p : Page) (x : Fld) :
    (s.canSet i f).on p x = s.on p x := rfl

@[simp] theorem State.rd_canSet (s : State) (i : Fin 4) (f : CanH → CanH) (a : Nat) : (s.canSet i f).rd a = s.rd a := rfl

@[simp] theorem State.canSet_now (s : State) (i : Fin 4) (f : CanH → CanH) : (s.canSet i f).now = s.now := rfl

/-! ### Queue counts and read windows (R420) -/

theorem State.rd_canWindow (s : State) (i : Fin 4) {base : Nat} (e : Option (CanFrame × Nat)) {x : Fld} (hx : x.off < base) :
    (s.canWindow i base e).rd (fldAddr (CAN.pg i) x) = s.rd (fldAddr (CAN.pg i) x) := by
  have hput (u : State) (off : Nat) (v : W32) : (u.setWord (CAN.pg i) ⟨base + off, 31, 0, 0⟩ v).rd (fldAddr (CAN.pg i) x) =
      u.rd (fldAddr (CAN.pg i) x) := u.rd_setWord_off v (show x.off ≠ base + off by omega)
  have hput' (u : State) (v : W32) : (u.setWord (CAN.pg i) ⟨base + 8 + 4, 31, 0, 0⟩ v).rd (fldAddr (CAN.pg i) x) =
      u.rd (fldAddr (CAN.pg i) x) := u.rd_setWord_off v (show x.off ≠ base + 8 + 4 by omega)
  have hfold (l : List Nat) (u : State) (g : Nat → Nat) (v : Nat → W32) :
      (l.foldl (fun u w => u.setWord (CAN.pg i) ⟨base + g w, 31, 0, 0⟩ (v w)) u).rd (fldAddr (CAN.pg i) x) =
        u.rd (fldAddr (CAN.pg i) x) :=
    State.foldl_related (R := fun a b => b.rd (fldAddr (CAN.pg i) x) = a.rd (fldAddr (CAN.pg i) x)) (fun _ => rfl)
      (fun h h' => h'.trans h) (fun u w => hput u _ _) l u
  cases e with
  | none => exact hfold _ _ _ _
  | some e =>
    exact (hfold _ _ _ _).trans ((hput' _ _).trans ((hput _ 8 _).trans ((hput _ 4 _).trans (hput _ 0 _))))

theorem State.rd_canShow (s : State) (i : Fin 4) {x : Fld} (hx : x.off < 0x100) (hf : x.off ≠ 0x05C) :
    (s.canShow i).rd (fldAddr (CAN.pg i) x) = s.rd (fldAddr (CAN.pg i) x) := by
  rw [State.canShow, State.rd_canWindow _ _ _ (by omega), State.rd_canWindow _ _ _ hx, State.rd_flag_off _ _ hf,
    State.rd_put_off _ _ hf, State.rd_put_off _ _ hf, State.rd_put_off _ _ hf]

theorem State.get_canShow (s : State) (i : Fin 4) {x : Fld} (hx : x.off < 0x100) (hf : x.off ≠ 0x05C) :
    (s.canShow i).get (CAN.pg i) x = s.get (CAN.pg i) x := State.get_eq_of_rd (s.rd_canShow i hx hf) rfl

theorem State.get_canWindow (s : State) (i : Fin 4) {base : Nat} (e : Option (CanFrame × Nat)) {x : Fld} (hx : x.off < base) :
    (s.canWindow i base e).get (CAN.pg i) x = s.get (CAN.pg i) x := State.get_eq_of_rd (s.rd_canWindow i e hx) rfl

theorem State.canShow_canH (s : State) (i : Fin 4) : (s.canShow i).canH = s.canH := (Kept.canShow s i).within .canH (by simp)

theorem State.canShow_counts (s : State) (i : Fin 4) :
    (s.canShow i).get (CAN.pg i) CAN.FSTAT_TX = (vget s.canH i).fifo.length % 32 ∧
      (s.canShow i).get (CAN.pg i) CAN.FSTAT_RX = (vget s.canH i).rx.length % 64 ∧
      (s.canShow i).get (CAN.pg i) CAN.FSTAT_HP = (vget s.canH i).hp.length % 8 ∧
      (s.canShow i).on (CAN.pg i) CAN.FSTAT_TXU_BUSY = (vget s.canH i).txu.isSome := by
  have hwin (u : State) {x : Fld} (hx : x.off < 0x100) : ((u.canWindow i 0x100 (vget s.canH i).rx.head?).canWindow i 0x180
      (vget s.canH i).hp.head?).get (CAN.pg i) x = u.get (CAN.pg i) x := by
    rw [State.get_canWindow _ _ _ (by omega), State.get_canWindow _ _ _ hx]
  refine ⟨?_, ?_, ?_, ?_⟩
  · rw [State.canShow, hwin _ (by decide), State.get_flag_bits _ _ (by decide) (by decide) (by decide),
      State.get_put_bits _ _ (by decide) (by decide) (by decide), State.get_put_bits _ _ (by decide) (by decide) (by decide),
      State.get_put_same _ _ (inPage_can i (by decide)) (by decide) (by decide)]
    rfl
  · rw [State.canShow, hwin _ (by decide), State.get_flag_bits _ _ (by decide) (by decide) (by decide),
      State.get_put_bits _ _ (by decide) (by decide) (by decide),
      State.get_put_same _ _ (inPage_can i (by decide)) (by decide) (by decide)]
    rfl
  · rw [State.canShow, hwin _ (by decide), State.get_flag_bits _ _ (by decide) (by decide) (by decide),
      State.get_put_same _ _ (inPage_can i (by decide)) (by decide) (by decide)]
    rfl
  · rw [State.canShow, State.on, hwin _ (by decide)]
    exact State.on_flag_same _ _ (inPage_can i (by decide)) rfl (by decide)

/-! ### The state of a controller (R415) -/

theorem State.get_canGo_state (s : State) (i : Fin 4) {st : Nat} (h : st < 8) :
    (s.canGo i st).get (CAN.pg i) CAN.STAT_STATE = st := by
  rw [State.canGo, State.get_evtIf_off _ _ (inPage_can i (by decide)) (can_ne_dma i) (by decide),
    s.get_put_same _ (inPage_can i (by decide)) (by decide) (by decide)]
  exact Nat.mod_eq_of_lt h

theorem State.rd_canGo_off (s : State) (i : Fin 4) (st : Nat) {x : Fld} (hs : x.off ≠ 0x00C) (he : x.off ≠ 0x010)
    (hp : x.off < 0x1000) : (s.canGo i st).rd (fldAddr (CAN.pg i) x) = s.rd (fldAddr (CAN.pg i) x) := by
  rw [State.canGo, State.rd_evtIf_off _ _ (inPage_can i hp) (can_ne_dma i) he, State.rd_put_off _ _ hs]

theorem State.get_canGo_off (s : State) (i : Fin 4) (st : Nat) {x : Fld} (hs : x.off ≠ 0x00C) (he : x.off ≠ 0x010)
    (hp : x.off < 0x1000) : (s.canGo i st).get (CAN.pg i) x = s.get (CAN.pg i) x :=
  State.get_eq_of_rd (s.rd_canGo_off i st hs he hp) rfl

theorem State.canGo_canH (s : State) (i : Fin 4) (st : Nat) : (s.canGo i st).canH = s.canH :=
  (Kept.canGo s i st).within .canH (by simp)

/-! ### Commands (R412, R415, R418, R424) -/

theorem State.get_canSts (s : State) (i : Fin 4) (st : Status) :
    (s.status (CAN.pg i) CAN.CMD_LAST_STS st).get (CAN.pg i) CAN.CMD_LAST_STS = st.code :=
  s.get_status _ (inPage_can i (by decide)) (by decide) (by decide) (by decide)

section Commands

variable {dt : Nat} {req : Req} {i : Fin 4} {s : State} (hawake : s.dstate ≠ .safeHold)

include hawake in
theorem State.canCmd_awake (op : Nat) :
    ((s.advance dt).blockCmd (CAN.pg i) CAN.CMD_LAST_STS fun u => u.canCmd i op) = (s.advance dt).canCmd i op :=
  State.blockCmd_of_awake hawake dt _ _ _

/-- The end of a command that is carried out. -/
def State.canDone (s : State) (i : Fin 4) : State := s.status (CAN.pg i) CAN.CMD_LAST_STS .done

theorem State.canDone_canH (s : State) (i : Fin 4) : (s.canDone i).canH = s.canH := (Unmoved.status ..).canH

theorem State.get_canDone_sts (s : State) (i : Fin 4) : (s.canDone i).get (CAN.pg i) CAN.CMD_LAST_STS = Status.done.code :=
  s.get_canSts i .done

theorem State.rd_canDone (s : State) (i : Fin 4) {x : Fld} (hx : x.off ≠ 0x050) (he : x.off ≠ 0x02C) :
    (s.canDone i).rd (fldAddr (CAN.pg i) x) = s.rd (fldAddr (CAN.pg i) x) := s.rd_status_off _ hx he

theorem State.get_canDone (s : State) (i : Fin 4) {x : Fld} (hx : x.off ≠ 0x050) (he : x.off ≠ 0x02C) :
    (s.canDone i).get (CAN.pg i) x = s.get (CAN.pg i) x := State.get_eq_of_rd (s.rd_canDone i hx he) rfl

include hawake

theorem canStart_starts (hinit : s.get (CAN.pg i) CAN.STAT_STATE = 0) (hrun : s.dstate.running = true)
    (hsrc : s.get TBU.pg TBU.STAT_SRC ≠ 0) : ∃ t, exec (.canStart dt req i) s = .next t ∧
      (vget t.canH i).starting = true ∧ t.get (CAN.pg i) CAN.CMD_LAST_STS = Status.done.code := by
  have hok : ((s.advance dt).get (CAN.pg i) CAN.STAT_STATE == 0 && (s.advance dt).dstate.running &&
      (s.advance dt).get TBU.pg TBU.STAT_SRC != 0) = true := by simp [hinit, hrun, hsrc]
  refine ⟨((s.advance dt).canSet i fun h => { h with starting := true }).canDone i,
    congrArg Host.Outcome.next ((State.canCmd_awake hawake 1).trans (if_pos hok)), ?_, State.get_canDone_sts ..⟩
  rw [State.canDone_canH, State.canSet_same]

theorem canStop_idle (hidle : (vget s.canH i).sending = none) : ∃ t, exec (.canStop dt req i) s = .next t ∧
    t.get (CAN.pg i) CAN.STAT_STATE = 0 ∧ (vget t.canH i).starting = false ∧
      t.get (CAN.pg i) CAN.CMD_LAST_STS = Status.done.code := by
  have hstop : (s.advance dt).canCmd i 2 =
      (((s.advance dt).canSet i fun h => { h with starting := false }).canGo i 0).canDone i := by
    unfold State.canCmd
    simp only [State.command, if_true, State.advance_canH, hidle]
    rfl
  refine ⟨_, congrArg Host.Outcome.next ((State.canCmd_awake hawake 2).trans hstop), ?_, ?_, State.get_canDone_sts ..⟩
  · rw [State.get_canDone _ _ (by decide) (by decide), State.get_canGo_state _ _ (by decide)]
  · rw [State.canDone_canH, State.canGo_canH, State.canSet_same]

theorem canStop_sending (hbusy : (vget s.canH i).sending ≠ none) : ∃ t, exec (.canStop dt req i) s = .next t ∧
    (vget t.canH i).stopping = true ∧ t.get (CAN.pg i) CAN.STAT_STATE = s.get (CAN.pg i) CAN.STAT_STATE ∧
      t.get (CAN.pg i) CAN.CMD_LAST_STS = Status.done.code := by
  have hstop : (s.advance dt).canCmd i 2 = ((s.advance dt).canSet i fun h => { h with stopping := true }).canDone i := by
    unfold State.canCmd
    simp only [State.command, if_true, State.advance_canH, Option.isSome_iff_ne_none.mpr hbusy]
    rfl
  refine ⟨_, congrArg Host.Outcome.next ((State.canCmd_awake hawake 2).trans hstop), ?_, ?_, State.get_canDone_sts ..⟩
  · rw [State.canDone_canH, State.canSet_same]
  · rw [State.get_canDone _ _ (by decide) (by decide), State.get_canSet, State.get_advance]

theorem canRecover_goes (hoff : s.get (CAN.pg i) CAN.STAT_STATE = 3) : ∃ t, exec (.canRecover dt req i) s = .next t ∧
    t.get (CAN.pg i) CAN.STAT_STATE = 4 ∧ t.get (CAN.pg i) CAN.CMD_LAST_STS = Status.done.code := by
  have hok : ((s.advance dt).get (CAN.pg i) CAN.STAT_STATE == 3) = true := by simp [hoff]
  refine ⟨((s.advance dt).canGo i 4).canDone i,
    congrArg Host.Outcome.next ((State.canCmd_awake hawake 3).trans (if_pos hok)), ?_, State.get_canDone_sts ..⟩
  rw [State.get_canDone _ _ (by decide) (by decide), State.get_canGo_state _ _ (by decide)]

theorem canTxuAbort_empties (hfree : (vget s.canH i).sending ≠ some .txu) : ∃ t, exec (.canTxuAbort dt req i) s = .next t ∧
    (vget t.canH i).txu = none ∧ t.on (CAN.pg i) CAN.FSTAT_TXU_BUSY = false ∧
      t.get (CAN.pg i) CAN.CMD_LAST_STS = Status.done.code := by
  have habort : (s.advance dt).canCmd i 4 =
      (((s.advance dt).canSet i fun h => { h with txu := none }).canShow i).canDone i := by
    unfold State.canCmd
    simp only [State.command, if_true, State.advance_canH, if_neg hfree]
    rfl
  refine ⟨_, congrArg Host.Outcome.next ((State.canCmd_awake hawake 4).trans habort), ?_, ?_, State.get_canDone_sts ..⟩
  · rw [State.canDone_canH, State.canShow_canH, State.canSet_same]
  · rw [State.on, State.get_canDone _ _ (by decide) (by decide)]
    refine (State.canShow_counts _ i).2.2.2.trans ?_
    rw [State.canSet_same]
    rfl

theorem canTxuAbort_drops (hbusy : (vget s.canH i).sending = some .txu) : ∃ t, exec (.canTxuAbort dt req i) s = .next t ∧
    (vget t.canH i).txuDrop = true ∧ (vget t.canH i).txu = (vget s.canH i).txu := by
  have habort : (s.advance dt).canCmd i 4 =
      (((s.advance dt).canSet i fun h => { h with txuDrop := true }).canShow i).canDone i := by
    unfold State.canCmd
    simp only [State.command, if_true, State.advance_canH, hbusy]
    rfl
  refine ⟨_, congrArg Host.Outcome.next ((State.canCmd_awake hawake 4).trans habort), ?_, ?_⟩ <;>
    rw [State.canDone_canH, State.canShow_canH, State.canSet_same]
  rw [State.advance_canH]

theorem canFlush_empties : ∃ t, exec (.canFlush dt req i) s = .next t ∧
    (vget t.canH i).fifo = (if (vget s.canH i).sending = some .head then (vget s.canH i).fifo.take 1 else []) ∧
      t.get (CAN.pg i) CAN.FSTAT_TX = (vget t.canH i).fifo.length ∧
      t.get (CAN.pg i) CAN.CMD_LAST_STS = Status.done.code := by
  obtain ⟨u, hflush, hfifo⟩ : ∃ u : State, (s.advance dt).canCmd i 5 = (u.canShow i).canDone i ∧
      (vget u.canH i).fifo = if (vget s.canH i).sending = some .head then (vget s.canH i).fifo.take 1 else [] := by
    refine ⟨if (vget s.canH i).sending = some .head then
      (s.advance dt).canSet i fun h => { h with headDrop := true, fifo := h.fifo.take 1 }
      else (s.advance dt).canSet i fun h => { h with fifo := [] }, ?_, ?_⟩
    · unfold State.canCmd
      simp only [State.command, if_true, State.advance_canH]
      rfl
    · split <;> rw [State.canSet_same]
      rw [State.advance_canH]
  have hlen : (vget u.canH i).fifo.length < 32 := by
    rw [hfifo]
    split
    · exact Nat.lt_of_le_of_lt (List.length_take_le ..) (by decide)
    · exact Nat.two_pow_pos 5
  refine ⟨_, congrArg Host.Outcome.next ((State.canCmd_awake hawake 5).trans hflush), ?_, ?_, State.get_canDone_sts ..⟩
  · rw [State.canDone_canH, State.canShow_canH, hfifo]
  · rw [State.get_canDone _ _ (by decide) (by decide), (State.canShow_counts u i).1, State.canDone_canH, State.canShow_canH,
      Nat.mod_eq_of_lt hlen]

theorem canClrCnt_clears : ∃ t, exec (.canClrCnt dt req i) s = .next t ∧ t.rd (fldAddr (CAN.pg i) CAN.CNT) = 0 ∧
    t.get (CAN.pg i) CAN.CMD_LAST_STS = Status.done.code := by
  have hclr : (s.advance dt).canCmd i 6 = ((s.advance dt).setWord (CAN.pg i) CAN.CNT 0).canDone i := by
    unfold State.canCmd
    simp only [State.command, if_true]
    rfl
  refine ⟨_, congrArg Host.Outcome.next ((State.canCmd_awake hawake 6).trans hclr), ?_, State.get_canDone_sts ..⟩
  rw [State.rd_canDone _ _ (by decide) (by decide), State.rd_setWord_same _ _ (inPage_can i (by decide))]

end Commands

/-! ### Pushes and pops (R416, R420) -/

@[simp] theorem State.canStaged_advance (s : State) (dt : Nat) (i : Fin 4) (req : Nat) :
    (s.advance dt).canStaged i req = s.canStaged i req := by
  simp [State.canStaged, State.canWinRd]

/-- What a push queues. -/
def CanH.pushed (h : CanH) (f : CanFrame) (now : Nat) : CanH :=
  { h with
    fifo := h.fifo ++ [f], headAt := if h.fifo = [] then now else h.headAt
    headRaised := if h.fifo = [] then false else h.headRaised }

section Pushes

variable {dt : Nat} {req : Req} {i : Fin 4} {s : State} (hwriter : canWriter req = true)
  (hlisten : s.on (CAN.pg i) CAN.MODE_LISTEN = false)
  (hdlc : (s.canStaged i req).fdf = true ∨ (s.canStaged i req).dlc.1 ≤ 8)

include hdlc in
theorem State.canStaged_fits : (!(s.canStaged i req).fdf && decide (8 < (s.canStaged i req).dlc.1)) = false := by
  rcases hdlc with h | h
  · rw [h]
    rfl
  · rw [decide_eq_false (by omega), Bool.and_false]

include hwriter hlisten hdlc

theorem canPushFifo_queues (hroom : (vget s.canH i).fifo.length < 16) : ∃ t, exec (.canPushFifo dt req i) s = .next t ∧
    (vget t.canH i).fifo = (vget s.canH i).fifo ++ [s.canStaged i req] ∧
      t.get (CAN.pg i) CAN.FSTAT_TX = (vget s.canH i).fifo.length + 1 := by
  have hpush : (s.advance dt).canPush i req 1 =
      ((s.advance dt).canSet i fun h => h.pushed (s.canStaged i req) (s.advance dt).now).canShow i := by
    unfold State.canPush
    simp only [State.canStaged_advance, State.advance_canH, State.on_advance, hwriter, hlisten, State.canStaged_fits hdlc,
      decide_eq_false (Nat.not_le.mpr hroom)]
    rfl
  have hfifo : (vget ((s.advance dt).canSet i fun h => h.pushed (s.canStaged i req) (s.advance dt).now).canH i).fifo =
      (vget s.canH i).fifo ++ [s.canStaged i req] := by
    rw [State.canSet_same, State.advance_canH]
    rfl
  refine ⟨_, congrArg Host.Outcome.next hpush, ?_, ?_⟩
  · rw [State.canShow_canH, hfifo]
  · rw [(State.canShow_counts _ i).1, hfifo, List.length_append, Nat.mod_eq_of_lt]
    · rfl
    · exact Nat.lt_of_lt_of_le (Nat.succ_lt_succ hroom) (by decide)

omit hlisten hdlc in
theorem canPushFifo_full (hfull : 16 ≤ (vget s.canH i).fifo.length) : exec (.canPushFifo dt req i) s =
    .next (((s.advance dt).incSat (CAN.pg i) CAN.CNT_TXFULL).incSat (CAN.pg i) HDR.ERRCNT_ACCESS) := by
  refine congrArg Host.Outcome.next ?_
  unfold State.canPush
  simp only [State.canStaged_advance, State.advance_canH, State.on_advance, hwriter, decide_eq_true hfull]
  rfl

theorem canPushTxu_takes (hfree : (vget s.canH i).txu = none) : ∃ t, exec (.canPushTxu dt req i) s = .next t ∧
    (vget t.canH i).txu = some (s.canStaged i req) ∧ t.on (CAN.pg i) CAN.FSTAT_TXU_BUSY = true := by
  have hpush : (s.advance dt).canPush i req 2 =
      ((s.advance dt).canSet i fun h => { h with txu := some (s.canStaged i req) }).canShow i := by
    unfold State.canPush
    simp only [State.canStaged_advance, State.advance_canH, State.on_advance, hwriter, hlisten, State.canStaged_fits hdlc,
      hfree]
    rfl
  refine ⟨_, congrArg Host.Outcome.next hpush, ?_, ?_⟩
  · rw [State.canShow_canH, State.canSet_same]
  · refine (State.canShow_counts _ i).2.2.2.trans ?_
    rw [State.canSet_same]
    rfl

end Pushes

theorem State.canPush_refused (s : State) {req : Nat} (h : canWriter req = false) (i : Fin 4) (push : Nat) :
    s.canPush i req push = s.incSat (CAN.pg i) HDR.ERRCNT_ACCESS := by
  unfold State.canPush
  simp only [h]
  rfl

section Pops

variable {dt : Nat} {req : Req} {i : Fin 4} {s : State} {e : CanFrame × Nat} {es : List (CanFrame × Nat)}

theorem canRxpop_removes (hrx : (vget s.canH i).rx = e :: es) : ∃ t, exec (.canRxpop dt req i) s = .next t ∧
    (vget t.canH i).rx = es ∧ t.get (CAN.pg i) CAN.FSTAT_RX = es.length % 64 := by
  have hsome : ¬(vget (s.advance dt).canH i).rx = [] := by rw [State.advance_canH, hrx]; exact List.cons_ne_nil _ _
  have htail : (vget ((s.advance dt).canSet i fun h => { h with rx := h.rx.tail }).canH i).rx = es := by
    rw [State.canSet_same, State.advance_canH, hrx]
    rfl
  refine ⟨_, congrArg Host.Outcome.next (if_neg hsome), ?_, ?_⟩
  · rw [State.canShow_canH, htail]
  · rw [(State.canShow_counts _ i).2.1, htail]

theorem canHppop_removes (hhp : (vget s.canH i).hp = e :: es) : ∃ t, exec (.canHppop dt req i) s = .next t ∧
    (vget t.canH i).hp = es ∧ t.get (CAN.pg i) CAN.FSTAT_HP = es.length % 8 := by
  have hsome : ¬(vget (s.advance dt).canH i).hp = [] := by rw [State.advance_canH, hhp]; exact List.cons_ne_nil _ _
  have htail : (vget ((s.advance dt).canSet i fun h => { h with hp := h.hp.tail }).canH i).hp = es := by
    rw [State.canSet_same, State.advance_canH, hhp]
    rfl
  refine ⟨_, congrArg Host.Outcome.next (if_neg hsome), ?_, ?_⟩
  · rw [State.canShow_canH, htail]
  · rw [(State.canShow_counts _ i).2.2.1, htail]

theorem canRxpop_empty (hrx : (vget s.canH i).rx = []) :
    exec (.canRxpop dt req i) s = .next ((s.advance dt).incSat (CAN.pg i) HDR.ERRCNT_ACCESS) :=
  congrArg Host.Outcome.next (if_pos (by rw [State.advance_canH, hrx]))

end Pops

/-! ### The ends of INIT and of recovery (R412, R415) -/

/-- Counters of at most 127 leave an ACTIVE controller ACTIVE. -/
theorem State.canCheck_calm {s : State} {i : Fin 4} (hst : s.get (CAN.pg i) CAN.STAT_STATE = 1)
    (htec : s.get (CAN.pg i) CAN.ECNT_TEC ≤ 127) (hrec : s.get (CAN.pg i) CAN.ECNT_REC ≤ 127) : s.canCheck i = s := by
  unfold State.canCheck
  simp only []
  rw [if_neg (by omega), if_neg (by simpa [hst] using ⟨htec, hrec⟩), if_neg (by omega)]

theorem canIdleDetect_enters {dt : Nat} {i : Fin 4} {s : State} (hinit : s.get (CAN.pg i) CAN.STAT_STATE = 0)
    (hstart : (vget s.canH i).starting = true) (htec : s.get (CAN.pg i) CAN.ECNT_TEC ≤ 127)
    (hrec : s.get (CAN.pg i) CAN.ECNT_REC ≤ 127) : ∃ t, exec (.canIdleDetect dt i) s = .next t ∧
      t.get (CAN.pg i) CAN.STAT_STATE = 1 ∧ (vget t.canH i).starting = false := by
  have hgo : (s.advance dt).get (CAN.pg i) CAN.STAT_STATE = 0 ∧ (vget (s.advance dt).canH i).starting = true := by
    rw [State.get_advance, State.advance_canH]
    exact ⟨hinit, hstart⟩
  have hst := State.get_canGo_state ((s.advance dt).canSet i fun h => { h with starting := false }) i (st := 1) (by decide)
  refine ⟨((s.advance dt).canSet i fun h => { h with starting := false }).canGo i 1, ?_, hst, ?_⟩
  · refine (if_pos hgo).trans (congrArg Host.Outcome.next (State.canCheck_calm hst ?_ ?_))
    · rwa [State.get_canGo_off _ _ _ (by decide) (by decide) (by decide), State.get_canSet, State.get_advance]
    · rwa [State.get_canGo_off _ _ _ (by decide) (by decide) (by decide), State.get_canSet, State.get_advance]
  · rw [State.canGo_canH, State.canSet_same]

theorem canRecoveryDone_enters {dt : Nat} {i : Fin 4} {s : State} (hrec : s.get (CAN.pg i) CAN.STAT_STATE = 4) :
    ∃ t, exec (.canRecoveryDone dt i) s = .next t ∧ t.get (CAN.pg i) CAN.STAT_STATE = 1 ∧
      t.get (CAN.pg i) CAN.ECNT_TEC = 0 ∧ t.get (CAN.pg i) CAN.ECNT_REC = 0 := by
  refine ⟨_, if_pos ((s.get_advance ..).trans hrec), State.get_canGo_state _ _ (by decide), ?_, ?_⟩
  · rw [State.get_canGo_off _ _ _ (by decide) (by decide) (by decide),
      State.get_put_bits _ _ (by decide) (by decide) (by decide),
      State.get_put_same _ _ (inPage_can i (by decide)) (by decide) (by decide)]
    exact Nat.zero_mod _
  · rw [State.get_canGo_off _ _ _ (by decide) (by decide) (by decide),
      State.get_put_same _ _ (inPage_can i (by decide)) (by decide) (by decide)]
    exact Nat.zero_mod _

/-- Settles O56: every operation is a change of the hidden state of its controller, shown in its counts, and the end of a
command leaves all but the status word. -/
theorem canCommandsPushesAndPops : Obligations.CanCommandsPushesAndPops := by
  refine fun dt req i s => ⟨fun hawake => ⟨canStart_starts hawake, canStop_idle hawake, canStop_sending hawake,
    canRecover_goes hawake, canTxuAbort_empties hawake, canTxuAbort_drops hawake, canFlush_empties hawake,
    canClrCnt_clears hawake⟩, fun hwriter hlisten hdlc => ⟨canPushFifo_queues hwriter hlisten hdlc,
      canPushFifo_full hwriter, canPushTxu_takes hwriter hlisten hdlc⟩, fun hother => ⟨?_, ?_⟩,
    fun e es => ⟨canRxpop_removes, canHppop_removes⟩, canRxpop_empty, canIdleDetect_enters, canRecoveryDone_enters⟩
  · exact congrArg Host.Outcome.next (State.canPush_refused _ hother i 1)
  · exact congrArg Host.Outcome.next (State.canPush_refused _ hother i 2)

end Sys2Proof.Machine
end

section
/-! SUPPORT. O57: the traffic of a live CAN controller (R411 to R422). -/

namespace Sys2Proof.Machine
open Sys2Proof

/-! ### What the bus operations leave -/

theorem State.raise_zero (s : State) (code machs aux : Nat) : s.raise code 0 machs aux = s.note code 0 machs aux := rfl

theorem State.note_canH (s : State) (code react machs aux : Nat) : (s.note code react machs aux).canH = s.canH :=
  (Unmoved.note ..).canH

theorem State.rd_note_can (s : State) (code react machs aux : Nat) (i : Fin 4) {x : Fld} (hp : x.off < 0x1000) :
    (s.note code react machs aux).rd (fldAddr (CAN.pg i) x) = s.rd (fldAddr (CAN.pg i) x) :=
  (Kept.note ..).within (.block .can) (by simp) _ (blockAt_page (inPage_can i hp))

theorem State.get_note_can (s : State) (code react machs aux : Nat) (i : Fin 4) {x : Fld} (hp : x.off < 0x1000) :
    (s.note code react machs aux).get (CAN.pg i) x = s.get (CAN.pg i) x :=
  State.get_eq_of_rd (s.rd_note_can code react machs aux i hp) rfl

/-- The controller goes BUS_OFF. -/
def State.canBusOff (s : State) (i : Fin 4) : State :=
  ((s.canSet i fun h => { h with sending := none }).canGo i 3).raise 0xE02 1 0

/-- The counters that make an error-passive controller. -/
def State.canHigh (s : State) (i : Fin 4) : Bool :=
  decide (127 < s.get (CAN.pg i) CAN.ECNT_TEC ∨ 127 < s.get (CAN.pg i) CAN.ECNT_REC)

theorem State.canCheck_eq (s : State) (i : Fin 4) : s.canCheck i =
    if (s.get (CAN.pg i) CAN.STAT_STATE = 1 ∨ s.get (CAN.pg i) CAN.STAT_STATE = 2) ∧ 255 < s.get (CAN.pg i) CAN.ECNT_TEC then
      if (s.canBusOff i).on (CAN.pg i) CAN.MODE_AUTO_REC then (s.canBusOff i).canGo i 4 else s.canBusOff i
    else if s.get (CAN.pg i) CAN.STAT_STATE = 1 ∧ s.canHigh i then (s.canGo i 2).raise 0xE01 1 0
    else if s.get (CAN.pg i) CAN.STAT_STATE = 2 ∧ ¬s.canHigh i then s.canGo i 1
    else s := rfl

theorem State.canBusOff_canH (s : State) (i : Fin 4) :
    vget (s.canBusOff i).canH i = { vget s.canH i with sending := none } := by
  rw [State.canBusOff, State.raise_one, State.note_canH, State.canGo_canH, State.canSet_same]

theorem State.canCheck_canH (s : State) (i : Fin 4) :
    vget (s.canCheck i).canH i = vget s.canH i ∨ vget (s.canCheck i).canH i = { vget s.canH i with sending := none } := by
  rw [State.canCheck_eq]
  split
  · refine .inr ?_
    split
    · rw [State.canGo_canH, State.canBusOff_canH]
    · exact s.canBusOff_canH i
  · refine .inl ?_
    split
    · rw [State.raise_one, State.note_canH, State.canGo_canH]
    · split
      · rw [State.canGo_canH]
      · rfl

theorem State.rd_canBusOff (s : State) (i : Fin 4) {x : Fld} (hs : x.off ≠ 0x00C) (he : x.off ≠ 0x010) (hp : x.off < 0x1000) :
    (s.canBusOff i).rd (fldAddr (CAN.pg i) x) = s.rd (fldAddr (CAN.pg i) x) := by
  rw [State.canBusOff, State.raise_one, State.rd_note_can _ _ _ _ _ _ hp, State.rd_canGo_off _ _ _ hs he hp, State.rd_canSet]

theorem State.rd_canCheck (s : State) (i : Fin 4) {x : Fld} (hs : x.off ≠ 0x00C) (he : x.off ≠ 0x010) (hp : x.off < 0x1000) :
    (s.canCheck i).rd (fldAddr (CAN.pg i) x) = s.rd (fldAddr (CAN.pg i) x) := by
  rw [State.canCheck_eq]
  split
  · split
    · rw [State.rd_canGo_off _ _ _ hs he hp, s.rd_canBusOff i hs he hp]
    · exact s.rd_canBusOff i hs he hp
  · split
    · rw [State.raise_one, State.rd_note_can _ _ _ _ _ _ hp, State.rd_canGo_off _ _ _ hs he hp]
    · split
      · exact s.rd_canGo_off i 1 hs he hp
      · rfl

theorem State.get_canCheck (s : State) (i : Fin 4) {x : Fld} (hs : x.off ≠ 0x00C) (he : x.off ≠ 0x010) (hp : x.off < 0x1000) :
    (s.canCheck i).get (CAN.pg i) x = s.get (CAN.pg i) x := State.get_eq_of_rd (s.rd_canCheck i hs he hp) rfl

theorem State.canEnd_canH (s : State) (i : Fin 4) : vget (s.canEnd i).canH i = (vget s.canH i).settle s.now := by
  have hshow : vget ((s.canSet i fun h => h.settle s.now).canShow i).canH i = (vget s.canH i).settle s.now := by
    rw [State.canShow_canH, State.canSet_same]
  unfold State.canEnd
  simp only []
  split
  · rw [State.canGo_canH, hshow]
  · exact hshow

theorem State.rd_canEnd (s : State) (i : Fin 4) {x : Fld} (hs : x.off ≠ 0x00C) (he : x.off ≠ 0x010) (hf : x.off ≠ 0x05C)
    (hp : x.off < 0x100) : (s.canEnd i).rd (fldAddr (CAN.pg i) x) = s.rd (fldAddr (CAN.pg i) x) := by
  unfold State.canEnd
  simp only []
  split
  · rw [State.rd_canGo_off _ _ _ hs he (by omega), State.rd_canShow _ _ hp hf, State.rd_canSet]
  · rw [State.rd_canShow _ _ hp hf, State.rd_canSet]

theorem State.get_canEnd (s : State) (i : Fin 4) {x : Fld} (hs : x.off ≠ 0x00C) (he : x.off ≠ 0x010) (hf : x.off ≠ 0x05C)
    (hp : x.off < 0x100) : (s.canEnd i).get (CAN.pg i) x = s.get (CAN.pg i) x :=
  State.get_eq_of_rd (s.rd_canEnd i hs he hf hp) rfl

/-- Without a STOP that waits for it, the end of a frame leaves the state of the controller. -/
theorem State.get_canEnd_state {s : State} {i : Fin 4} (h : (vget s.canH i).stopping = false) :
    (s.canEnd i).get (CAN.pg i) CAN.STAT_STATE = s.get (CAN.pg i) CAN.STAT_STATE := by
  unfold State.canEnd
  simp only [h]
  exact (State.get_canShow _ _ (by decide) (by decide)).trans (s.get_canSet ..)

/-! ### Delivery (R419, R420) -/

/-- The state in which the receive queues of controller `i` are `rx` and `hp`, and are shown. -/
def State.canQueued (s : State) (i : Fin 4) (rx hp : List (CanFrame × Nat)) : State :=
  (s.canSet i fun h => { h with rx := rx, hp := hp }).canShow i

theorem State.canQueued_canH (s : State) (i : Fin 4) (rx hp : List (CanFrame × Nat)) :
    vget (s.canQueued i rx hp).canH i = { vget s.canH i with rx := rx, hp := hp } := by
  rw [State.canQueued, State.canShow_canH, State.canSet_same]

theorem State.rd_canQueued (s : State) (i : Fin 4) (rx hp : List (CanFrame × Nat)) {x : Fld} (hx : x.off < 0x100)
    (hf : x.off ≠ 0x05C) : (s.canQueued i rx hp).rd (fldAddr (CAN.pg i) x) = s.rd (fldAddr (CAN.pg i) x) := by
  rw [State.canQueued, State.rd_canShow _ _ hx hf, State.rd_canSet]

/-- The loss of a frame at the full receive FIFO is counted and reported. -/
def State.canLost (s : State) (i : Fin 4) : State :=
  ((s.incSat (CAN.pg i) CAN.CNT_RXOVR).evt (CAN.pg i) CAN.EVT_OVR).raise 0xE03 0 0

/-- The loss of the oldest frame of the high-priority buffer is counted and reported. -/
def State.canHpLost (s : State) (i : Fin 4) : State :=
  (((s.incSat (CAN.pg i) CAN.CNT_HPOVR).evt (CAN.pg i) CAN.EVT_HP).evt (CAN.pg i) CAN.EVT_OVR).raise 0xE04 1 0

theorem State.canDeliver_eq (s : State) (i : Fin 4) (f : CanFrame) : s.canDeliver i f =
    match canTarget (vget s.canH i).filt (s.get (CAN.pg i) CAN.MODE_DEFAULT) f with
    | 1 => if 32 ≤ (vget s.canH i).rx.length then s.canLost i
      else (s.canQueued i ((vget s.canH i).rx ++ [(f, (vget s.canH i).sofAt)]) (vget s.canH i).hp).evt (CAN.pg i) CAN.EVT_RX
    | 2 => if 4 ≤ (vget s.canH i).hp.length then
        (s.canQueued i (vget s.canH i).rx ((vget s.canH i).hp.tail ++ [(f, (vget s.canH i).sofAt)])).canHpLost i
      else (s.canQueued i (vget s.canH i).rx ((vget s.canH i).hp ++ [(f, (vget s.canH i).sofAt)])).evt (CAN.pg i) CAN.EVT_HP
    | _ => s := rfl

theorem State.canLost_canH (s : State) (i : Fin 4) : (s.canLost i).canH = s.canH := by
  rw [State.canLost, State.raise_zero, State.note_canH, (Unmoved.evt ..).canH, (Unmoved.incSat ..).canH]

theorem State.canHpLost_canH (s : State) (i : Fin 4) : (s.canHpLost i).canH = s.canH := by
  rw [State.canHpLost, State.raise_one, State.note_canH, (Unmoved.evt ..).canH, (Unmoved.evt ..).canH,
    (Unmoved.incSat ..).canH]

theorem State.evt_canH (s : State) (p : Page) (x : Fld) : (s.evt p x).canH = s.canH := (Unmoved.evt ..).canH

/-- A delivery changes the receive queues alone. -/
theorem State.canDeliver_canH (s : State) (i : Fin 4) (f : CanFrame) :
    ∃ rx hp, vget (s.canDeliver i f).canH i = { vget s.canH i with rx := rx, hp := hp } := by
  rw [State.canDeliver_eq]
  split
  · split
    · exact ⟨_, _, congrArg (vget · i) (s.canLost_canH i)⟩
    · exact ⟨_, _, (congrArg (vget · i) (State.evt_canH ..)).trans (s.canQueued_canH i _ _)⟩
  · split
    · exact ⟨_, _, (congrArg (vget · i) (State.canHpLost_canH ..)).trans (s.canQueued_canH i _ _)⟩
    · exact ⟨_, _, (congrArg (vget · i) (State.evt_canH ..)).trans (s.canQueued_canH i _ _)⟩
  · exact ⟨_, _, rfl⟩

theorem State.rd_evt_can (s : State) (i : Fin 4) (y : Fld) {x : Fld} (he : x.off ≠ 0x010) (hp : x.off < 0x1000) :
    (s.evt (CAN.pg i) y).rd (fldAddr (CAN.pg i) x) = s.rd (fldAddr (CAN.pg i) x) :=
  s.rd_evt_off (inPage_can i hp) (can_ne_dma i) he

theorem State.rd_canDeliver (s : State) (i : Fin 4) (f : CanFrame) {x : Fld} (hx : x.off < 0x100) (he : x.off ≠ 0x010)
    (hf : x.off ≠ 0x05C) (hc : x.off ≠ 0x060) :
    (s.canDeliver i f).rd (fldAddr (CAN.pg i) x) = s.rd (fldAddr (CAN.pg i) x) := by
  have hp : x.off < 0x1000 := by omega
  rw [State.canDeliver_eq]
  split
  · split
    · rw [State.canLost, State.raise_zero, State.rd_note_can _ _ _ _ _ _ hp, State.rd_evt_can _ _ _ he hp, State.rd_incSat_off _ hc]
    · rw [State.rd_evt_can _ _ _ he hp, State.rd_canQueued _ _ _ _ hx hf]
  · split
    · rw [State.canHpLost, State.raise_one, State.rd_note_can _ _ _ _ _ _ hp, State.rd_evt_can _ _ _ he hp, State.rd_evt_can _ _ _ he hp,
        State.rd_incSat_off _ hc, State.rd_canQueued _ _ _ _ hx hf]
    · rw [State.rd_evt_can _ _ _ he hp, State.rd_canQueued _ _ _ _ hx hf]
  · rfl

/-! ### The start of a frame and its completion (R417, R418) -/

@[simp] theorem State.canLive_advance (s : State) (dt : Nat) (i : Fin 4) : (s.advance dt).canLive i = s.canLive i := by
  simp [State.canLive]

/-- The source that is offered at a start of frame. -/
def State.canOffer (s : State) (i : Fin 4) : Option CanSrc :=
  if s.on (CAN.pg i) CAN.MODE_LISTEN then none
  else if (vget s.canH i).txu.isSome then some .txu
  else if (vget s.canH i).fifo ≠ [] then some .head
  else none

theorem canStartOfFrame_offers {dt : Nat} {i : Fin 4} {s : State} (hlive : s.canLive i = true) :
    ∃ t, exec (.canStartOfFrame dt i) s = .next t ∧ (vget t.canH i).sofAt = (s.advance dt).now ∧ t.regs = s.regs ∧
      (vget t.canH i).sending = s.canOffer i := by
  refine ⟨(s.advance dt).canSet i fun h => { h with
    sofAt := (s.advance dt).now, sending := (s.advance dt).canOffer i
    filt := (List.range 64).map fun k => (s.advance dt).rd (pageBase (CAN.pg i) + 0x200 + 4 * k) },
    if_pos ((s.canLive_advance dt i).trans hlive), ?_, s.advance_regs dt, ?_⟩
  · rw [State.canSet_same]
  · rw [State.canSet_same, State.canOffer, State.on_advance, State.advance_canH]
    rfl

/-- The registers of a frame that has been sent. -/
def State.canStamped (s : State) (i : Fin 4) (tdc : Nat) (fdf isTxu : Bool) : State :=
  let u := ((s.put64 (CAN.pg i) CAN.TXSTAMP_LO (vget s.canH i).sofAt).evt (CAN.pg i) CAN.EVT_TXDONE).evtIf isTxu (CAN.pg i)
    CAN.EVT_TXU_DONE
  let u := if u.on (CAN.pg i) CAN.TDC_EN && fdf then u.put (CAN.pg i) CAN.TDC_TDCV tdc else u
  u.put (CAN.pg i) CAN.ECNT_TEC (u.get (CAN.pg i) CAN.ECNT_TEC - 1)

/-- A frame that has been sent leaves its place. -/
def State.canFreed (s : State) (i : Fin 4) (isTxu : Bool) : State :=
  if isTxu then s.canSet i fun h => { h with txu := none, txuDrop := false }
  else s.canSet i fun h => { h with fifo := h.fifo.tail, headDrop := false, headAt := s.now, headRaised := false }

/-- In loop mode the frame is delivered too. -/
def State.canLooped (s : State) (i : Fin 4) (f : CanFrame) : State :=
  if s.on (CAN.pg i) CAN.MODE_LOOP then s.canDeliver i { f with esi := s.get (CAN.pg i) CAN.STAT_STATE == 2 } else s

/-- The state after a completed frame. -/
def State.canSent (s : State) (i : Fin 4) (tdc : Nat) (f : CanFrame) (isTxu : Bool) : State :=
  ((((s.canStamped i tdc f.fdf isTxu).canFreed i isTxu).canLooped i f).canCheck i).canEnd i

theorem State.canStamped_keeps (s : State) (i : Fin 4) (tdc : Nat) (fdf isTxu : Bool) :
    (s.canStamped i tdc fdf isTxu).canH = s.canH ∧
      (s.canStamped i tdc fdf isTxu).get64 (CAN.pg i) CAN.TXSTAMP_LO = (vget s.canH i).sofAt % 2 ^ 64 := by
  obtain ⟨u, hu⟩ : ∃ u, u = ((s.put64 (CAN.pg i) CAN.TXSTAMP_LO (vget s.canH i).sofAt).evt (CAN.pg i) CAN.EVT_TXDONE).evtIf
      isTxu (CAN.pg i) CAN.EVT_TXU_DONE := ⟨_, rfl⟩
  have hcan : u.canH = s.canH := by
    rw [hu, (Unmoved.evtIf ..).canH, State.evt_canH, (Unmoved.put64 ..).canH]
  have hrd {x : Fld} (he : x.off ≠ 0x010) (hp : x.off < 0x1000) : u.rd (fldAddr (CAN.pg i) x) =
      (s.put64 (CAN.pg i) CAN.TXSTAMP_LO (vget s.canH i).sofAt).rd (fldAddr (CAN.pg i) x) := by
    rw [hu, State.rd_evtIf_off _ _ (inPage_can i hp) (can_ne_dma i) he, State.rd_evt_can _ _ _ he hp]
  have hstamp : u.get64 (CAN.pg i) CAN.TXSTAMP_LO = (vget s.canH i).sofAt % 2 ^ 64 := by
    refine (State.get64_of_rd (hrd (by decide) (by decide)) ?_).trans
      (s.get64_put64 _ (inPage_can i (by decide)) (inPage_can i (by decide)))
    exact hrd (x := CAN.TXSTAMP_HI) (by decide) (by decide)
  rw [State.canStamped, ← hu]
  constructor
  · rw [State.put_canH]
    split
    · rw [State.put_canH, hcan]
    · exact hcan
  · rw [State.get64_put_other _ _ (by decide) (by decide)]
    split
    · rw [State.get64_put_other _ _ (by decide) (by decide), hstamp]
    · exact hstamp

theorem State.canLooped_canH (s : State) (i : Fin 4) (f : CanFrame) :
    ∃ rx hp, vget (s.canLooped i f).canH i = { vget s.canH i with rx := rx, hp := hp } := by
  unfold State.canLooped
  split
  · exact s.canDeliver_canH i _
  · exact ⟨_, _, rfl⟩

theorem State.rd_canLooped (s : State) (i : Fin 4) (f : CanFrame) {x : Fld} (hx : x.off < 0x100) (he : x.off ≠ 0x010)
    (hf : x.off ≠ 0x05C) (hc : x.off ≠ 0x060) :
    (s.canLooped i f).rd (fldAddr (CAN.pg i) x) = s.rd (fldAddr (CAN.pg i) x) := by
  unfold State.canLooped
  split
  · exact s.rd_canDeliver i _ hx he hf hc
  · rfl

theorem State.rd_canFreed (s : State) (i : Fin 4) (isTxu : Bool) (a : Nat) : (s.canFreed i isTxu).rd a = s.rd a := by
  unfold State.canFreed
  split <;> rfl

/-- The end of a sent frame: nothing is offered any more, and the places of the frames are those that it freed. -/
theorem State.canSent_shows (s : State) (i : Fin 4) (tdc : Nat) (f : CanFrame) (isTxu : Bool) :
    (vget (s.canSent i tdc f isTxu).canH i).sending = none ∧
      (s.canSent i tdc f isTxu).get64 (CAN.pg i) CAN.TXSTAMP_LO = (vget s.canH i).sofAt % 2 ^ 64 ∧
      (isTxu = true → (vget (s.canSent i tdc f isTxu).canH i).txu = none) ∧
      (isTxu = false → (vget (s.canSent i tdc f isTxu).canH i).fifo = (vget s.canH i).fifo.tail) := by
  obtain ⟨hcan, hstamp⟩ := s.canStamped_keeps i tdc f.fdf isTxu
  obtain ⟨u, hu⟩ : ∃ u, u = (s.canStamped i tdc f.fdf isTxu).canFreed i isTxu := ⟨_, rfl⟩
  have hrd {x : Fld} (hs : x.off ≠ 0x00C) (he : x.off ≠ 0x010) (hf : x.off ≠ 0x05C) (hc : x.off ≠ 0x060)
      (hp : x.off < 0x100) : (s.canSent i tdc f isTxu).rd (fldAddr (CAN.pg i) x) =
        (s.canStamped i tdc f.fdf isTxu).rd (fldAddr (CAN.pg i) x) := by
    rw [State.canSent, State.rd_canEnd _ _ hs he hf hp, State.rd_canCheck _ _ hs he (by omega),
      State.rd_canLooped _ _ _ hp he hf hc, State.rd_canFreed]
  obtain ⟨rx, hp, hloop⟩ := u.canLooped_canH i f
  obtain ⟨sending, hcheck⟩ : ∃ o, vget ((u.canLooped i f).canCheck i).canH i =
      { vget u.canH i with rx := rx, hp := hp, sending := o } := by
    rcases (u.canLooped i f).canCheck_canH i with h | h <;> exact ⟨_, h.trans (by rw [hloop])⟩
  have hend : vget (s.canSent i tdc f isTxu).canH i =
      CanH.settle { vget u.canH i with rx := rx, hp := hp, sending := sending } ((u.canLooped i f).canCheck i).now := by
    rw [State.canSent, ← hu, State.canEnd_canH, hcheck]
  refine ⟨by rw [hend]; rfl, ?_, fun h => ?_, fun h => ?_⟩
  · refine (State.get64_of_rd (hrd (by decide) (by decide) (by decide) (by decide) (by decide)) ?_).trans hstamp
    exact hrd (x := CAN.TXSTAMP_HI) (by decide) (by decide) (by decide) (by decide) (by decide)
  · subst h
    rw [hend, hu, State.canFreed, if_pos rfl, State.canSet_same]
    rfl
  · subst h
    rw [hend, hu, State.canFreed, if_neg Bool.false_ne_true, State.canSet_same, hcan]
    rfl

section Sent

variable {dt : Nat} {i : Fin 4} {s : State} {f : CanFrame} (hlive : s.canLive i = true)
  (hfd : f.fdf = false ∨ s.on (CAN.pg i) CAN.MODE_FD = true)

include hfd in
theorem State.canForm_ok : (!f.fdf || s.on (CAN.pg i) CAN.MODE_FD) = true := by
  rcases hfd with h | h <;> simp [h]

include hlive hfd

theorem canTxDone_head {fs : List CanFrame} (tdc : Fin 128) (hsend : (vget s.canH i).sending = some .head)
    (hfifo : (vget s.canH i).fifo = f :: fs) : ∃ t, exec (.canTxDone dt i tdc) s = .next t ∧ (vget t.canH i).fifo = fs ∧
      (vget t.canH i).sending = none ∧ t.get64 (CAN.pg i) CAN.TXSTAMP_LO = (vget s.canH i).sofAt % 2 ^ 64 := by
  have hrun : exec (.canTxDone dt i tdc) s = .next ((s.advance dt).canSent i tdc f false) := by
    change execCanTxDone dt i tdc s = _
    unfold execCanTxDone
    simp only [State.advance_canH, State.canLive_advance, State.on_advance, hlive, hsend, hfifo, List.head?_cons,
      Option.filter_some, State.canForm_ok hfd, if_true]
    rw [← State.advance_canH s dt]
    rfl
  obtain ⟨hnone, hstamp, _, hplace⟩ := (s.advance dt).canSent_shows i tdc f false
  rw [State.advance_canH] at hstamp hplace
  exact ⟨_, hrun, (hplace rfl).trans (by rw [hfifo]; rfl), hnone, hstamp⟩

theorem canTxDone_txu (tdc : Fin 128) (hsend : (vget s.canH i).sending = some .txu)
    (htxu : (vget s.canH i).txu = some f) : ∃ t, exec (.canTxDone dt i tdc) s = .next t ∧ (vget t.canH i).txu = none ∧
      (vget t.canH i).sending = none ∧ t.get64 (CAN.pg i) CAN.TXSTAMP_LO = (vget s.canH i).sofAt % 2 ^ 64 := by
  have hrun : exec (.canTxDone dt i tdc) s = .next ((s.advance dt).canSent i tdc f true) := by
    change execCanTxDone dt i tdc s = _
    unfold execCanTxDone
    simp only [State.advance_canH, State.canLive_advance, State.on_advance, hlive, hsend, htxu, Option.filter_some,
      State.canForm_ok hfd, if_true]
    rw [← State.advance_canH s dt]
    rfl
  obtain ⟨hnone, hstamp, hplace, _⟩ := (s.advance dt).canSent_shows i tdc f true
  rw [State.advance_canH] at hstamp
  exact ⟨_, hrun, hplace rfl, hnone, hstamp⟩

end Sent

end Sys2Proof.Machine
end

section
/-! SUPPORT. O57, continued: received frames, errors, and the age of the FIFO head (R411, R415, R418 to R421). -/

namespace Sys2Proof.Machine
open Sys2Proof

/-! ### Received frames (R411, R419, R420) -/

/-- The end of a frame leaves the receive queues. -/
theorem State.canFinish_queues (s : State) (i : Fin 4) :
    (vget ((s.canCheck i).canEnd i).canH i).rx = (vget s.canH i).rx ∧
      (vget ((s.canCheck i).canEnd i).canH i).hp = (vget s.canH i).hp := by
  rw [State.canEnd_canH]
  rcases s.canCheck_canH i with h | h <;> rw [h] <;> exact ⟨rfl, rfl⟩

theorem State.rd_canGood (s : State) (i : Fin 4) {x : Fld} (hx : x.off ≠ 0x054) :
    (s.canGood i).rd (fldAddr (CAN.pg i) x) = s.rd (fldAddr (CAN.pg i) x) := by
  unfold State.canGood
  simp only []
  split
  · rfl
  · split
    · exact State.rd_put_off _ _ hx
    · exact State.rd_put_off _ _ hx

theorem State.canGood_canH (s : State) (i : Fin 4) : (s.canGood i).canH = s.canH := (Kept.canGood s i).within .canH (by simp)

section Received

variable {dt : Nat} {i : Fin 4} {s : State} {f : CanFrame}

/-- The queue to which the filters send a frame. -/
def State.canRoute (s : State) (i : Fin 4) (f : CanFrame) : Nat :=
  canTarget (vget s.canH i).filt (s.get (CAN.pg i) CAN.MODE_DEFAULT) f

theorem State.canRoute_good : ((s.advance dt).canGood i).canRoute i f = s.canRoute i f := by
  rw [State.canRoute, State.canGood_canH, State.get_eq_of_rd (State.rd_canGood _ _ (by decide)) rfl, State.advance_canH,
    State.get_advance]
  rfl

theorem State.canDeliver_fifo (hroute : s.canRoute i f = 1) (hroom : (vget s.canH i).rx.length < 32) :
    s.canDeliver i f =
      (s.canQueued i ((vget s.canH i).rx ++ [(f, (vget s.canH i).sofAt)]) (vget s.canH i).hp).evt (CAN.pg i) CAN.EVT_RX := by
  rw [State.canRoute] at hroute
  rw [State.canDeliver_eq, hroute]
  exact if_neg (Nat.not_le.mpr hroom)

theorem State.canDeliver_hp (hroute : s.canRoute i f = 2) (hroom : (vget s.canH i).hp.length < 4) :
    s.canDeliver i f =
      (s.canQueued i (vget s.canH i).rx ((vget s.canH i).hp ++ [(f, (vget s.canH i).sofAt)])).evt (CAN.pg i) CAN.EVT_HP := by
  rw [State.canRoute] at hroute
  rw [State.canDeliver_eq, hroute]
  exact if_neg (Nat.not_le.mpr hroom)

theorem State.canDeliver_rejected (hroute : s.canRoute i f = 0) : s.canDeliver i f = s := by
  rw [State.canRoute] at hroute
  rw [State.canDeliver_eq, hroute]
  rfl

variable (hlive : s.canLive i = true) (hfd : f.fdf = false ∨ s.on (CAN.pg i) CAN.MODE_FD = true) (hrtr : f.rtr = false)

include hlive hfd hrtr

theorem canRxFrame_delivers : exec (.canRxFrame dt i f) s =
    .next (((((s.advance dt).canGood i).canDeliver i f).canCheck i).canEnd i) := by
  have hform : (f.fdf && !(s.advance dt).on (CAN.pg i) CAN.MODE_FD) = false := by
    rw [State.on_advance]
    rcases hfd with h | h <;> simp [h]
  change execCanRxFrame dt i f s = _
  unfold execCanRxFrame
  simp only [State.canLive_advance, hlive, hform, hrtr, if_true, Bool.false_eq_true, if_false]

theorem canRxFrame_fifo (hroute : s.canRoute i f = 1) (hroom : (vget s.canH i).rx.length < 32) :
    ∃ t, exec (.canRxFrame dt i f) s = .next t ∧
      (vget t.canH i).rx = (vget s.canH i).rx ++ [(f, (vget s.canH i).sofAt)] := by
  have hcan : ((s.advance dt).canGood i).canH = s.canH := (State.canGood_canH ..).trans (s.advance_canH dt)
  have hdeliver := State.canDeliver_fifo ((State.canRoute_good (dt := dt)).trans hroute) (by rwa [hcan])
  refine ⟨_, canRxFrame_delivers hlive hfd hrtr, ?_⟩
  rw [(State.canFinish_queues _ i).1, hdeliver, State.evt_canH, State.canQueued_canH, hcan]

theorem canRxFrame_hp (hroute : s.canRoute i f = 2) (hroom : (vget s.canH i).hp.length < 4) :
    ∃ t, exec (.canRxFrame dt i f) s = .next t ∧
      (vget t.canH i).hp = (vget s.canH i).hp ++ [(f, (vget s.canH i).sofAt)] := by
  have hcan : ((s.advance dt).canGood i).canH = s.canH := (State.canGood_canH ..).trans (s.advance_canH dt)
  have hdeliver := State.canDeliver_hp ((State.canRoute_good (dt := dt)).trans hroute) (by rwa [hcan])
  refine ⟨_, canRxFrame_delivers hlive hfd hrtr, ?_⟩
  rw [(State.canFinish_queues _ i).2, hdeliver, State.evt_canH, State.canQueued_canH, hcan]

theorem canRxFrame_rejected (hroute : s.canRoute i f = 0) : ∃ t, exec (.canRxFrame dt i f) s = .next t ∧
    (vget t.canH i).rx = (vget s.canH i).rx ∧ (vget t.canH i).hp = (vget s.canH i).hp := by
  have hcan : ((s.advance dt).canGood i).canH = s.canH := (State.canGood_canH ..).trans (s.advance_canH dt)
  have hdeliver := State.canDeliver_rejected ((State.canRoute_good (dt := dt)).trans hroute)
  refine ⟨_, canRxFrame_delivers hlive hfd hrtr, ?_⟩
  rw [hdeliver]
  obtain ⟨hrx, hhp⟩ := ((s.advance dt).canGood i).canFinish_queues i
  rw [hcan] at hrx hhp
  exact ⟨hrx, hhp⟩

end Received

/-! ### Errors (R415) -/

theorem State.get_canCount_tec (s : State) (i : Fin 4) (tec rec : Nat) :
    (s.canCount i tec rec).get (CAN.pg i) CAN.ECNT_TEC = min 511 (s.get (CAN.pg i) CAN.ECNT_TEC + tec) := by
  rw [State.canCount, State.get_put_bits _ _ (by decide) (by decide) (by decide),
    s.get_put_same _ (inPage_can i (by decide)) (by decide) (by decide)]
  exact Nat.mod_eq_of_lt (Nat.lt_of_le_of_lt (Nat.min_le_left ..) (by decide))

theorem State.get_canCount_rec (s : State) (i : Fin 4) (tec rec : Nat) :
    (s.canCount i tec rec).get (CAN.pg i) CAN.ECNT_REC = min 255 (s.get (CAN.pg i) CAN.ECNT_REC + rec) := by
  rw [State.canCount, State.get_put_same _ _ (inPage_can i (by decide)) (by decide) (by decide)]
  exact Nat.mod_eq_of_lt (Nat.lt_of_le_of_lt (Nat.min_le_left ..) (by decide))

theorem State.get_canCount_off (s : State) (i : Fin 4) (tec rec : Nat) {x : Fld} (hx : x.off ≠ 0x054) :
    (s.canCount i tec rec).get (CAN.pg i) x = s.get (CAN.pg i) x := by
  rw [State.canCount, State.get_put_off _ _ hx, State.get_put_off _ _ hx]

theorem State.canCount_canH (s : State) (i : Fin 4) (tec rec : Nat) : (s.canCount i tec rec).canH = s.canH :=
  (Kept.canCount s i tec rec).within .canH (by simp)

theorem State.canLive_state {s : State} {i : Fin 4} (h : s.canLive i = true) :
    s.get (CAN.pg i) CAN.STAT_STATE = 1 ∨ s.get (CAN.pg i) CAN.STAT_STATE = 2 := by
  simpa [State.canLive] using h

theorem State.get_canBusOff (s : State) (i : Fin 4) : (s.canBusOff i).get (CAN.pg i) CAN.STAT_STATE = 3 := by
  rw [State.canBusOff, State.raise_one, State.get_note_can _ _ _ _ _ _ (by decide), State.get_canGo_state _ _ (by decide)]

/-- A transmit count above 255 makes the controller BUS_OFF, or RECOVERING at once. -/
theorem State.canCheck_over {s : State} {i : Fin 4} (hlive : s.canLive i = true) (hover : 255 < s.get (CAN.pg i) CAN.ECNT_TEC) :
    (s.canCheck i).get (CAN.pg i) CAN.STAT_STATE = if s.on (CAN.pg i) CAN.MODE_AUTO_REC then 4 else 3 := by
  have hauto : (s.canBusOff i).on (CAN.pg i) CAN.MODE_AUTO_REC = s.on (CAN.pg i) CAN.MODE_AUTO_REC :=
    congrArg (· == 1) (State.get_eq_of_rd (s.rd_canBusOff i (by decide) (by decide) (by decide)) rfl)
  rw [State.canCheck_eq, if_pos ⟨State.canLive_state hlive, hover⟩, hauto]
  split
  · exact State.get_canGo_state _ _ (by decide)
  · exact s.get_canBusOff i

/-- A transmit count of 128 to 255 makes the controller PASSIVE. -/
theorem State.canCheck_passive {s : State} {i : Fin 4} (hlive : s.canLive i = true)
    (hlow : 127 < s.get (CAN.pg i) CAN.ECNT_TEC) (hhigh : s.get (CAN.pg i) CAN.ECNT_TEC ≤ 255) :
    (s.canCheck i).get (CAN.pg i) CAN.STAT_STATE = 2 := by
  have hpassive : s.canHigh i = true := decide_eq_true (.inl hlow)
  rw [State.canCheck_eq, if_neg (fun h => absurd h.2 (by omega)), hpassive]
  rcases State.canLive_state hlive with hst | hst
  · rw [if_pos ⟨hst, rfl⟩, State.raise_one, State.get_note_can _ _ _ _ _ _ (by decide), State.get_canGo_state _ _ (by decide)]
  · rw [if_neg (by simp [hst]), if_neg (by simp), hst]

section Errors

variable {dt : Nat} {i : Fin 4} {s : State} (hlive : s.canLive i = true) (hlisten : s.on (CAN.pg i) CAN.MODE_LISTEN = false)

/-- The end of an error that adds to the counters. -/
def State.canErred (s : State) (i : Fin 4) (tec rec : Nat) : State := ((s.canCount i tec rec).canCheck i).canEnd i

theorem State.get_canErred_tec (s : State) (i : Fin 4) (tec rec : Nat) :
    (s.canErred i tec rec).get (CAN.pg i) CAN.ECNT_TEC = min 511 (s.get (CAN.pg i) CAN.ECNT_TEC + tec) := by
  rw [State.canErred, State.get_canEnd _ _ (by decide) (by decide) (by decide) (by decide),
    State.get_canCheck _ _ (by decide) (by decide) (by decide), State.get_canCount_tec]

theorem State.get_canErred_rec (s : State) (i : Fin 4) (tec rec : Nat) :
    (s.canErred i tec rec).get (CAN.pg i) CAN.ECNT_REC = min 255 (s.get (CAN.pg i) CAN.ECNT_REC + rec) := by
  rw [State.canErred, State.get_canEnd _ _ (by decide) (by decide) (by decide) (by decide),
    State.get_canCheck _ _ (by decide) (by decide) (by decide), State.get_canCount_rec]

theorem State.get_canErred_state {s : State} {i : Fin 4} (hstop : (vget s.canH i).stopping = false) (tec rec : Nat) :
    (s.canErred i tec rec).get (CAN.pg i) CAN.STAT_STATE =
      ((s.canCount i tec rec).canCheck i).get (CAN.pg i) CAN.STAT_STATE := by
  refine State.get_canEnd_state ?_
  rcases (s.canCount i tec rec).canCheck_canH i with h | h <;>
    exact (congrArg CanH.stopping h).trans ((congrArg (fun v => (vget v i).stopping) (s.canCount_canH i tec rec)).trans hstop)

theorem State.canLive_canCount (s : State) (i : Fin 4) (tec rec : Nat) : (s.canCount i tec rec).canLive i = s.canLive i := by
  rw [State.canLive, State.canLive, s.get_canCount_off i tec rec (by decide)]

include hlive hlisten in
theorem canError_counts (e : CanErr) (tec rec : Nat) (he : (match e with
      | .tx => (s.advance dt).canCount i 8 0
      | .txExempt => s.advance dt
      | .rx => (s.advance dt).canCount i 0 1
      | .rxFlag => (s.advance dt).canCount i 0 8) = (s.advance dt).canCount i tec rec) :
    exec (.canError dt i e) s = .next ((s.advance dt).canErred i tec rec) := by
  change execCanError dt i e s = _
  unfold execCanError
  simp only [State.canLive_advance, hlive, State.on_advance, hlisten, if_true, Bool.false_eq_true, if_false]
  exact congrArg (fun u : State => Host.Outcome.next ((u.canCheck i).canEnd i)) he

include hlive hlisten

theorem canError_tx (hstop : (vget s.canH i).stopping = false) : ∃ t, exec (.canError dt i .tx) s = .next t ∧
    t.get (CAN.pg i) CAN.ECNT_TEC = min 511 (s.get (CAN.pg i) CAN.ECNT_TEC + 8) ∧
    t.get (CAN.pg i) CAN.ECNT_REC = s.get (CAN.pg i) CAN.ECNT_REC ∧
    (255 < s.get (CAN.pg i) CAN.ECNT_TEC + 8 →
      t.get (CAN.pg i) CAN.STAT_STATE = if s.on (CAN.pg i) CAN.MODE_AUTO_REC then 4 else 3) ∧
    (127 < s.get (CAN.pg i) CAN.ECNT_TEC + 8 → s.get (CAN.pg i) CAN.ECNT_TEC + 8 ≤ 255 →
      t.get (CAN.pg i) CAN.STAT_STATE = 2) := by
  have hrec : s.get (CAN.pg i) CAN.ECNT_REC < 256 := bits_lt ..
  have hlive' : ((s.advance dt).canCount i 8 0).canLive i = true := by
    rw [State.canLive_canCount, State.canLive_advance, hlive]
  have htec := (s.advance dt).get_canCount_tec i 8 0
  have hstate := State.get_canErred_state (s := s.advance dt) (i := i) (by rwa [State.advance_canH]) 8 0
  rw [State.get_advance] at htec
  refine ⟨_, canError_counts hlive hlisten .tx 8 0 rfl, ?_, ?_, fun hover => ?_, fun hlow hhigh => ?_⟩
  · rw [State.get_canErred_tec, State.get_advance]
  · rw [State.get_canErred_rec, State.get_advance]
    omega
  · rw [hstate, State.canCheck_over hlive' (by rw [htec]; omega), State.on, State.get_canCount_off _ _ _ _ (by decide),
      State.get_advance]
    rfl
  · rw [hstate, State.canCheck_passive hlive' (by rw [htec]; omega) (by rw [htec]; omega)]

theorem canError_rx : ∃ t, exec (.canError dt i .rx) s = .next t ∧
    t.get (CAN.pg i) CAN.ECNT_REC = min 255 (s.get (CAN.pg i) CAN.ECNT_REC + 1) :=
  ⟨_, canError_counts hlive hlisten .rx 0 1 rfl, by rw [State.get_canErred_rec, State.get_advance]⟩

theorem canError_rxFlag : ∃ t, exec (.canError dt i .rxFlag) s = .next t ∧
    t.get (CAN.pg i) CAN.ECNT_REC = min 255 (s.get (CAN.pg i) CAN.ECNT_REC + 8) :=
  ⟨_, canError_counts hlive hlisten .rxFlag 0 8 rfl, by rw [State.get_canErred_rec, State.get_advance]⟩

end Errors

/-! ### The age of the FIFO head (R421) -/

theorem headAge_raises {dt : Nat} {i : Fin 4} {s : State} (hpow : s.dev.off = false) (hfifo : (vget s.canH i).fifo ≠ [])
    (hnew : (vget s.canH i).headRaised = false)
    (hdue : (vget s.canH i).headAt + s.get (CAN.pg i) CAN.TXCFG_HEAD_AGE ≤ s.now + dt) :
    ∃ t, exec (.headAge dt i) s = .next t ∧ (vget t.canH i).headRaised = true ∧
      t.on (CAN.pg i) CAN.EVT_HEAD_AGE = true := by
  have hgo : (vget (s.advance dt).canH i).fifo ≠ [] ∧ ¬(vget (s.advance dt).canH i).headRaised = true ∧
      (vget (s.advance dt).canH i).headAt + (s.advance dt).get (CAN.pg i) CAN.TXCFG_HEAD_AGE ≤ (s.advance dt).now := by
    rw [State.advance_canH, State.get_advance, State.now_advance_of_on hpow]
    exact ⟨hfifo, Bool.eq_false_iff.mp hnew, hdue⟩
  refine ⟨_, if_pos hgo, ?_, ?_⟩
  · rw [State.raise_zero, State.note_canH, State.evt_canH, State.canSet_same]
  · rw [State.raise_zero, State.on, State.get_note_can _ _ _ _ _ _ (by decide)]
    exact State.on_evt_page _ (inPage_can i (by decide)) (can_ne_dma i) rfl rfl (by decide)

/-- Settles O57: a check of the counters and the end of a frame leave the queues, so each clause follows from what its
operation does before them. -/
theorem canFramesAndErrors : Obligations.CanFramesAndErrors := by
  refine fun dt i s hlive => ⟨canStartOfFrame_offers hlive, fun f fs tdc hsend hfifo hfd =>
    canTxDone_head hlive hfd tdc hsend hfifo, fun f tdc hsend htxu hfd => canTxDone_txu hlive hfd tdc hsend htxu,
    fun f hfd hrtr => ⟨canRxFrame_fifo hlive hfd hrtr, canRxFrame_hp hlive hfd hrtr,
      canRxFrame_rejected hlive hfd hrtr⟩, fun hlisten hstop => ⟨canError_tx hlive hlisten hstop,
      canError_rx hlive hlisten, canError_rxFlag hlive hlisten⟩, headAge_raises⟩

end Sys2Proof.Machine
end

section
/-! SUPPORT. O58: the rules of Clepo's state operations, and its ports and commands (R426, R431 to R433). -/

namespace Sys2Proof.Machine
open Sys2Proof

theorem inPage_clf {x : Fld} (hx : x.off < 0x1000) : inPage CLF.pg x = true := inPage_of_hasHeader (by decide) rfl hx

/-! ### The hidden state -/

@[simp] theorem State.clfSet_clf (s : State) (f : ClfH → ClfH) : (s.clfSet f).clf = f s.clf := rfl

@[simp] theorem State.rd_clfSet (s : State) (f : ClfH → ClfH) (a : Nat) : (s.clfSet f).rd a = s.rd a := rfl

@[simp] theorem State.get_clfSet (s : State) (f : ClfH → ClfH) (p : Page) (x : Fld) : (s.clfSet f).get p x = s.get p x := rfl

@[simp] theorem State.on_clfSet (s : State) (f : ClfH → ClfH) (p : Page) (x : Fld) : (s.clfSet f).on p x = s.on p x := rfl

@[simp] theorem State.clfSet_now (s : State) (f : ClfH → ClfH) : (s.clfSet f).now = s.now := rfl

@[simp] theorem State.rd_portSet (s : State) (p : Fin 2) (f : ClfPort → ClfPort) (a : Nat) : (s.portSet p f).rd a = s.rd a := rfl

@[simp] theorem State.get_portSet (s : State) (q : Fin 2) (f : ClfPort → ClfPort) (p : Page) (x : Fld) :
    (s.portSet q f).get p x = s.get p x := rfl

@[simp] theorem State.on_portSet (s : State) (q : Fin 2) (f : ClfPort → ClfPort) (p : Page) (x : Fld) :
    (s.portSet q f).on p x = s.on p x := rfl

@[simp] theorem State.portSet_now (s : State) (p : Fin 2) (f : ClfPort → ClfPort) : (s.portSet p f).now = s.now := rfl

theorem State.portSet_same (s : State) (p : Fin 2) (f : ClfPort → ClfPort) :
    vget (s.portSet p f).clf.ports p = f (vget s.clf.ports p) := vget_vset_same ..

theorem State.portSet_other (s : State) {p q : Fin 2} (f : ClfPort → ClfPort) (h : p ≠ q) :
    vget (s.portSet p f).clf.ports q = vget s.clf.ports q := vget_vset_other _ _ _ _ h

theorem State.note_clf (s : State) (code react machs aux : Nat) : (s.note code react machs aux).clf = s.clf :=
  (Unmoved.note ..).clf

theorem State.rd_note_clf (s : State) (code react machs aux : Nat) {x : Fld} (hp : x.off < 0x1000) :
    (s.note code react machs aux).rd (fldAddr CLF.pg x) = s.rd (fldAddr CLF.pg x) :=
  (Kept.note ..).within (.block .clf) (by simp) _ (blockAt_page (inPage_clf hp))

theorem State.get_note_clf (s : State) (code react machs aux : Nat) {x : Fld} (hp : x.off < 0x1000) :
    (s.note code react machs aux).get CLF.pg x = s.get CLF.pg x :=
  State.get_eq_of_rd (s.rd_note_clf code react machs aux hp) rfl

theorem State.evt_clf (s : State) (p : Page) (x : Fld) : (s.evt p x).clf = s.clf := (Unmoved.evt ..).clf

theorem State.evtIf_clf (s : State) (c : Bool) (p : Page) (x : Fld) : (s.evtIf c p x).clf = s.clf := (Unmoved.evtIf ..).clf

theorem State.rd_evt_clf (s : State) (y : Fld) {x : Fld} (he : x.off ≠ 0x010) (hp : x.off < 0x1000) :
    (s.evt CLF.pg y).rd (fldAddr CLF.pg x) = s.rd (fldAddr CLF.pg x) := s.rd_evt_off (inPage_clf hp) (by decide) he

theorem State.get_evt_clf (s : State) (y : Fld) {x : Fld} (he : x.off ≠ 0x010) (hp : x.off < 0x1000) :
    (s.evt CLF.pg y).get CLF.pg x = s.get CLF.pg x := State.get_eq_of_rd (s.rd_evt_clf y he hp) rfl

theorem State.get_evtIf_clf (s : State) (c : Bool) (y : Fld) {x : Fld} (he : x.off ≠ 0x010) (hp : x.off < 0x1000) :
    (s.evtIf c CLF.pg y).get CLF.pg x = s.get CLF.pg x := s.get_evtIf_off c (inPage_clf hp) (by decide) he

/-! ### Node states (R433) -/

theorem State.clfState_clfGo (s : State) {st : Nat} (h : st < 8) : (s.clfGo st).clfState = st := by
  rw [State.clfState, State.clfGo, State.get_evtIf_clf _ _ _ (by decide) (by decide),
    s.get_put_same _ (inPage_clf (by decide)) (by decide) (by decide)]
  exact Nat.mod_eq_of_lt h

theorem State.get_clfGo (s : State) (st : Nat) {x : Fld} (hs : x.off ≠ 0x00C) (he : x.off ≠ 0x010) (hp : x.off < 0x1000) :
    (s.clfGo st).get CLF.pg x = s.get CLF.pg x := by
  rw [State.clfGo, State.get_evtIf_clf _ _ _ he hp, State.get_put_off _ _ hs]

theorem State.clfGo_clf (s : State) (st : Nat) : (s.clfGo st).clf = s.clf := (Kept.clfGo s st).within .clf (by simp)

@[simp] theorem State.clfState_advance (s : State) (dt : Nat) : (s.advance dt).clfState = s.clfState := s.get_advance ..

@[simp] theorem State.link_advance (s : State) (dt : Nat) (p : Fin 2) : (s.advance dt).link p = s.link p := s.get_advance ..

@[simp] theorem State.portUp_advance (s : State) (dt : Nat) (p : Fin 2) : (s.advance dt).portUp p = s.portUp p := by
  simp [State.portUp]

/-! ### Links (R426) -/

theorem linkFld_off (p : Fin 2) : (linkFld p).off = 0x050 := by
  unfold linkFld
  split <;> rfl

theorem State.link_put_link (s : State) (p : Fin 2) {v : Nat} (h : v < 8) : (s.put CLF.pg (linkFld p) v).link p = v := by
  have hput (x : Fld) (hx : x.off < 0x1000) (hlo : x.lo ≤ x.hi + 1) (hhi : x.hi < 32) (hw : x.hi + 1 - x.lo = 3) :
      (s.put CLF.pg x v).get CLF.pg x = v := by
    rw [s.get_put_same _ (inPage_clf hx) hlo hhi, hw]
    exact Nat.mod_eq_of_lt h
  match p with
  | 0 => exact hput CLF.LINK_W (by decide) (by decide) (by decide) rfl
  | 1 => exact hput CLF.LINK_E (by decide) (by decide) (by decide) rfl

theorem State.link_of_get {s t : State} (h : ∀ x : Fld, x.off = 0x050 → t.get CLF.pg x = s.get CLF.pg x) (p : Fin 2) :
    t.link p = s.link p := h _ (linkFld_off p)

theorem State.link_clfGo (s : State) (st : Nat) (p : Fin 2) : (s.clfGo st).link p = s.link p :=
  State.link_of_get (fun _ h => s.get_clfGo st (by omega) (by omega) (by omega)) p

theorem State.get_put_link (s : State) (p : Fin 2) (v : Nat) {x : Fld} (h : x.off ≠ 0x050) :
    (s.put CLF.pg (linkFld p) v).get CLF.pg x = s.get CLF.pg x := s.get_put_off v (by rwa [linkFld_off])

/-! ### Discovery begins (R431) -/

theorem State.get_withTopo (s : State) (f : State → State) {x : Fld} (he : x.off ≠ 0x010) (hp : x.off < 0x1000) :
    (s.withTopo f).get CLF.pg x = (f s).get CLF.pg x := State.get_evtIf_clf _ _ _ he hp

theorem State.withTopo_clf (s : State) (f : State → State) : (s.withTopo f).clf = (f s).clf := State.evtIf_clf ..

theorem State.get_clfDiscover (s : State) (keep : Bool) {x : Fld} (ht : x.off ≠ 0x04C) (he : x.off ≠ 0x010)
    (hp : x.off < 0x1000) : (s.clfDiscover keep).get CLF.pg x = s.get CLF.pg x := by
  rw [State.clfDiscover, State.get_withTopo _ _ he hp, State.get_flag_off _ _ ht, State.get_clfSet]

theorem State.clfDiscover_clf (s : State) (keep : Bool) : (s.clfDiscover keep).clf =
    { s.clf with
      best := if s.get CLF.pg CLF.CFG_ROOT_PRI < 15 then some (s.get CLF.pg CLF.CFG_ROOT_PRI, s.deviceId) else none
      ring := false, dup := false, dupSeen := false, idHeld := keep && s.clf.idHeld } := by
  rw [State.clfDiscover, State.withTopo_clf, State.flag_clf]
  rfl

theorem State.on_clfDiscover_valid (s : State) (keep : Bool) : (s.clfDiscover keep).on CLF.pg CLF.TOPO_VALID = false := by
  rw [State.clfDiscover, State.on, State.get_withTopo _ _ (by decide) (by decide)]
  exact State.on_flag_same _ false (inPage_clf (by decide)) rfl (by decide)

/-- A port that comes UP takes a node in LINK to DISCOVER, and leaves the links. -/
theorem State.clfPortUp_shows (s : State) (p : Fin 2) :
    s.clfPortUp.link p = s.link p ∧ s.clfPortUp.clfState = if s.clfState = 1 then 2 else s.clfState := by
  unfold State.clfPortUp
  by_cases h : s.clfState = 1
  · rw [if_pos h, if_pos h, State.link_clfGo, State.clfState_clfGo _ (by decide)]
    exact ⟨State.link_of_get (fun _ hx => s.get_clfDiscover true (by omega) (by omega) (by omega)) p, rfl⟩
  · rw [if_neg h, if_neg h]
    exact ⟨rfl, rfl⟩

/-- A port that is trained has its new link state, and takes a node in LINK to DISCOVER. -/
theorem State.linkedUp_shows (s : State) (p : Fin 2) {v : Nat} (h : v < 8) :
    (s.put CLF.pg (linkFld p) v).clfPortUp.link p = v ∧
      (s.put CLF.pg (linkFld p) v).clfPortUp.clfState = if s.clfState = 1 then 2 else s.clfState := by
  obtain ⟨hlink, hstate⟩ := (s.put CLF.pg (linkFld p) v).clfPortUp_shows p
  have hst : (s.put CLF.pg (linkFld p) v).clfState = s.clfState := s.get_put_link p v (by decide)
  rw [hlink, hstate, hst]
  exact ⟨s.link_put_link p h, rfl⟩

/-! ### Ports (R426) -/

section Ports

variable {dt : Nat} {p : Fin 2} {s : State}

section Powered

variable (hpow : s.dev.off = false)

include hpow

theorem clfSignalDetect_trains (hst : s.clfState ≠ 0) (hdown : s.link p = 0)
    (hen : s.bitOn CLF.pg CLF.CFG_PORT_EN p = true) : ∃ t, exec (.clfSignalDetect dt p) s = .next t ∧ t.link p = 1 ∧
      (vget t.clf.ports p).trainAt = s.now + dt := by
  have hgo : (s.advance dt).clfState ≠ 0 ∧ (s.advance dt).link p = 0 ∧
      (s.advance dt).bitOn CLF.pg CLF.CFG_PORT_EN p = true := by
    rw [State.clfState_advance, State.link_advance, State.bitOn_advance]
    exact ⟨hst, hdown, hen⟩
  refine ⟨_, if_pos hgo, State.link_put_link _ p (by decide), ?_⟩
  rw [State.portSet_same, State.now_advance_of_on hpow]

theorem clfTrainDone_up (htrain : s.link p = 1) (hin : s.now + dt ≤ (vget s.clf.ports p).trainAt + 40000) :
    ∃ t, exec (.clfTrainDone dt p) s = .next t ∧ t.link p = 2 ∧
      t.clfState = if s.clfState = 1 then 2 else s.clfState := by
  have hgo : (s.advance dt).link p = 1 ∧ (s.advance dt).now ≤ (vget (s.advance dt).clf.ports p).trainAt + 40000 := by
    rw [State.link_advance, State.now_advance_of_on hpow, State.advance_clf]
    exact ⟨htrain, hin⟩
  obtain ⟨hlink, hstate⟩ := (s.advance dt).linkedUp_shows p (v := 2) (by decide)
  exact ⟨_, if_pos hgo, hlink, hstate.trans (by rw [State.clfState_advance])⟩

theorem execClfTrainTimeout_due (htrain : s.link p = 1) (hdue : (vget s.clf.ports p).trainAt + 40000 ≤ s.now + dt)
    (oneLane : Bool) : exec (.clfTrainTimeout dt p oneLane) s =
      .next (if oneLane then ((s.advance dt).put CLF.pg (linkFld p) 3).clfPortUp
        else (s.advance dt).portSet p fun h => { h with trainAt := (s.advance dt).now }) := by
  refine if_pos ⟨(s.link_advance dt p).trans htrain, ?_⟩
  rw [State.now_advance_of_on hpow, State.advance_clf]
  exact hdue

theorem clfTrainTimeout_oneLane (htrain : s.link p = 1) (hdue : (vget s.clf.ports p).trainAt + 40000 ≤ s.now + dt) :
    ∃ t, exec (.clfTrainTimeout dt p true) s = .next t ∧ t.link p = 3 :=
  ⟨_, execClfTrainTimeout_due hpow htrain hdue true, ((s.advance dt).linkedUp_shows p (by decide)).1⟩

theorem clfTrainTimeout_noLane (htrain : s.link p = 1) (hdue : (vget s.clf.ports p).trainAt + 40000 ≤ s.now + dt) :
    ∃ t, exec (.clfTrainTimeout dt p false) s = .next t ∧ t.link p = 1 ∧
      (vget t.clf.ports p).trainAt = s.now + dt := by
  refine ⟨_, execClfTrainTimeout_due hpow htrain hdue false, (s.link_advance dt p).trans htrain, ?_⟩
  rw [if_neg Bool.false_ne_true, State.portSet_same, State.now_advance_of_on hpow]

end Powered

theorem clfLaneFault_one (hup : s.link p = 2) : ∃ t, exec (.clfLaneFault dt p false) s = .next t ∧ t.link p = 3 ∧
    t.on CLF.pg CLF.EVT_LINK = true := by
  have hnot : ¬((s.advance dt).portUp p = true ∧ false = true) := fun h => Bool.false_ne_true h.2
  refine ⟨_, (if_neg hnot).trans (if_pos ((s.link_advance dt p).trans hup)), ?_, ?_⟩
  · refine (State.link_of_get (fun _ hx => ?_) p).trans ((s.advance dt).link_put_link p (by decide))
    rw [State.get_note_clf _ _ _ _ _ (by omega), State.get_evt_clf _ _ (by omega) (by omega)]
  · rw [State.on, State.get_note_clf _ _ _ _ _ (by decide)]
    exact State.on_evt_page _ (inPage_clf (by decide)) (by decide) rfl rfl (by decide)

/-- A port without a link has no delay either. -/
def State.portCleared (s : State) (p : Fin 2) : State :=
  ((s.put CLF.pg (linkFld p) 0).put CLF.pg (pdFld p) 0).portSet p fun h =>
    { h with pdreq := none, pdAt := none, delays := [], respDue := false }

/-- The loss of a port that carried frames is reported. -/
def State.portReported (s : State) (p : Fin 2) : State :=
  if s.portUp p then ((s.portCleared p).evt CLF.pg CLF.EVT_LINK).note 0xF01 1 0 0 else s.portCleared p

theorem State.portDown_eq (s : State) (p : Fin 2) : s.portDown p =
    if (s.portReported p).clfState ≠ 0 ∧ (s.portReported p).clfAllDown then (s.portReported p).clfGo 1
    else s.portReported p := rfl

theorem State.portCleared_shows (s : State) (p : Fin 2) :
    (s.portCleared p).link p = 0 ∧ (vget (s.portCleared p).clf.ports p).delays = [] := by
  have hpd : (linkFld p).off ≠ (pdFld p).off := by
    rw [linkFld_off, pdFld]
    split <;> decide
  refine ⟨?_, ?_⟩
  · exact (State.get_put_off _ _ hpd).trans (s.link_put_link p (by decide))
  · rw [State.portCleared, State.portSet_same]

theorem State.portReported_shows (s : State) (p : Fin 2) :
    (s.portReported p).link p = 0 ∧ (vget (s.portReported p).clf.ports p).delays = [] := by
  obtain ⟨hlink, hdelays⟩ := s.portCleared_shows p
  unfold State.portReported
  split
  · refine ⟨(State.link_of_get (fun _ hx => ?_) p).trans hlink, ?_⟩
    · rw [State.get_note_clf _ _ _ _ _ (by omega), State.get_evt_clf _ _ (by omega) (by omega)]
    · rw [State.note_clf, State.evt_clf, hdelays]
  · exact ⟨hlink, hdelays⟩

theorem State.portDown_shows (s : State) (p : Fin 2) :
    (s.portDown p).link p = 0 ∧ (vget (s.portDown p).clf.ports p).delays = [] := by
  obtain ⟨hlink, hdelays⟩ := s.portReported_shows p
  rw [State.portDown_eq]
  split
  · rw [State.link_clfGo, State.clfGo_clf]
    exact ⟨hlink, hdelays⟩
  · exact ⟨hlink, hdelays⟩

theorem clfLaneFault_both (hup : s.portUp p = true) : ∃ t, exec (.clfLaneFault dt p true) s = .next t ∧ t.link p = 0 ∧
    (vget t.clf.ports p).delays = [] :=
  ⟨_, if_pos ⟨(s.portUp_advance dt p).trans hup, rfl⟩, State.portDown_shows ..⟩

end Ports

/-! ### Commands (R426, R431, R452) -/

section Commands

variable {dt : Nat} {req : Req} {p : Fin 2} {s : State} (hawake : s.dstate ≠ .safeHold)

/-- The end of a command of `CLF_CMD` that is carried out. -/
def State.clfDone (s : State) : State := s.status CLF.pg CLF.CMD_LAST_STS .done

theorem State.get_clfDone_sts (s : State) : s.clfDone.get CLF.pg CLF.CMD_LAST_STS = Status.done.code :=
  s.get_status _ (inPage_clf (by decide)) (by decide) (by decide) (by decide)

theorem State.get_clfDone (s : State) {x : Fld} (hx : x.off ≠ 0x054) (he : x.off ≠ 0x02C) :
    s.clfDone.get CLF.pg x = s.get CLF.pg x := s.get_status_word _ hx he

theorem State.clfDone_clf (s : State) : s.clfDone.clf = s.clf := (Unmoved.status ..).clf

include hawake

theorem State.clfOp_awake (op ports : Nat) : (s.advance dt).clfOp op ports = (s.advance dt).clfCmd op ports :=
  State.blockCmd_of_awake hawake dt CLF.pg CLF.CMD_LAST_STS fun u => u.clfCmd op ports

theorem clfRescan_discovers (hst : 2 ≤ s.clfState) : ∃ t, exec (.clfRescan dt req) s = .next t ∧
    t.on CLF.pg CLF.TOPO_VALID = false ∧ t.clf.idHeld = false ∧ t.get CLF.pg CLF.CMD_LAST_STS = Status.done.code := by
  have hcmd : (s.advance dt).clfCmd 1 0 = State.clfDone (if ((s.advance dt).clfDiscover false).clfState = 5 then
      ((s.advance dt).clfDiscover false).clfGo 2 else (s.advance dt).clfDiscover false) := by
    unfold State.clfCmd
    simp only [State.command, State.clfState_advance, decide_eq_true hst, if_true]
    rfl
  obtain ⟨u, hu⟩ : ∃ u, u = (s.advance dt).clfDiscover false := ⟨_, rfl⟩
  have hvalid : u.on CLF.pg CLF.TOPO_VALID = false := hu ▸ State.on_clfDiscover_valid ..
  have hheld : u.clf.idHeld = false := by rw [hu, State.clfDiscover_clf, Bool.false_and]
  rw [← hu] at hcmd
  refine ⟨_, congrArg Host.Outcome.next ((State.clfOp_awake hawake 1 0).trans hcmd), ?_, ?_, State.get_clfDone_sts _⟩
  · rw [State.on, State.get_clfDone _ (by decide) (by decide)]
    split
    · rw [State.get_clfGo _ _ (by decide) (by decide) (by decide)]
      exact hvalid
    · exact hvalid
  · rw [State.clfDone_clf]
    split
    · rw [State.clfGo_clf, hheld]
    · exact hheld

omit hawake in
theorem retrain_selects (p : Fin 2) :
    ([(0 : Fin 2), 1].filter fun (q : Fin 2) => (BitVec.ofNat 2 (2 ^ p.1)).toNat.testBit q) = [p] := by
  revert p
  decide

theorem clfRetrain_runs : exec (.clfRetrain dt req (BitVec.ofNat 2 (2 ^ p.1))) s = .next ((s.advance dt).command CLF.pg
    CLF.CMD_LAST_STS (s.link p == 3 && decide ((vget s.clf.ports p).busyTo ≤ (s.advance dt).now)) fun u =>
      (u.put CLF.pg (linkFld p) 1).portSet p fun h => { h with trainAt := u.now }) := by
  refine congrArg Host.Outcome.next ((State.clfOp_awake hawake 2 _).trans ?_)
  unfold State.clfCmd
  simp only [retrain_selects, List.isEmpty_cons, Bool.not_false, Bool.true_and, List.all_cons, List.all_nil, Bool.and_true,
    List.foldl_cons, List.foldl_nil, State.link_advance, State.advance_clf]

theorem clfRetrain_trains (hdeg : s.link p = 3) (hidle : (vget s.clf.ports p).busyTo ≤ (s.advance dt).now) :
    ∃ t, exec (.clfRetrain dt req (BitVec.ofNat 2 (2 ^ p.1))) s = .next t ∧ t.link p = 1 ∧
      (vget t.clf.ports p).trainAt = (s.advance dt).now ∧ t.get CLF.pg CLF.CMD_LAST_STS = Status.done.code := by
  refine ⟨_, (clfRetrain_runs hawake).trans (congrArg Host.Outcome.next (State.command_done _ _ _
    (by rw [hdeg, decide_eq_true hidle]; rfl) _)), ?_, ?_, State.get_clfDone_sts _⟩
  · refine (State.link_of_get (fun _ hx => State.get_clfDone _ (by omega) (by omega)) p).trans ?_
    exact State.link_put_link _ p (by decide)
  · refine (congrArg (fun c : ClfH => (vget c.ports p).trainAt) (State.clfDone_clf _)).trans ?_
    rw [State.portSet_same]

theorem clfRetrain_illegal (hnot : s.link p ≠ 3) : exec (.clfRetrain dt req (BitVec.ofNat 2 (2 ^ p.1))) s =
    .next ((s.advance dt).status CLF.pg CLF.CMD_LAST_STS .illegalState) :=
  (clfRetrain_runs hawake).trans (congrArg Host.Outcome.next (State.command_illegalState _ _ _
    (by rw [beq_eq_false_iff_ne.mpr hnot, Bool.false_and]) _))

theorem clfClrCnt_clears : ∃ t, exec (.clfClrCnt dt req) s = .next t ∧ t.get CLF.pg CLF.CNT0 = 0 ∧
    t.get CLF.pg CLF.CNT1 = 0 ∧ t.get CLF.pg CLF.CMD_LAST_STS = Status.done.code := by
  have hcmd : (s.advance dt).clfCmd 3 0 = (((s.advance dt).put CLF.pg CLF.CNT0 0).put CLF.pg CLF.CNT1 0).clfDone := by
    unfold State.clfCmd
    rfl
  refine ⟨_, congrArg Host.Outcome.next ((State.clfOp_awake hawake 3 0).trans hcmd), ?_, ?_, State.get_clfDone_sts _⟩
  · rw [State.get_clfDone _ (by decide) (by decide), State.get_put_off _ _ (by decide),
      State.get_put_same _ _ (inPage_clf (by decide)) (by decide) (by decide)]
    exact Nat.zero_mod _
  · rw [State.get_clfDone _ (by decide) (by decide),
      State.get_put_same _ _ (inPage_clf (by decide)) (by decide) (by decide)]
    exact Nat.zero_mod _

end Commands

end Sys2Proof.Machine
end

section
/-! SUPPORT. O58, continued: discovery and path-delay frames (R431, R432, R437, R445). -/

namespace Sys2Proof.Machine
open Sys2Proof

/-! ### Sending (R430, R437) -/

/-- The state with other ports. -/
def State.portsSet (s : State) (v : Vector ClfPort 2) : State := s.clfSet fun c => { c with ports := v }

@[simp] theorem State.get_portsSet (s : State) (v : Vector ClfPort 2) (p : Page) (x : Fld) :
    (s.portsSet v).get p x = s.get p x := rfl

/-- From `s` to `t` the ports of Clepo alone differ, and what each of them knows of path delays is the same. -/
structure PortsOnly (s t : State) : Prop where
  ports : ∃ v, t = s.portsSet v
  pdreq : ∀ p, (vget t.clf.ports p).pdreq = (vget s.clf.ports p).pdreq
  pdAt : ∀ p, (vget t.clf.ports p).pdAt = (vget s.clf.ports p).pdAt
  delays : ∀ p, (vget t.clf.ports p).delays = (vget s.clf.ports p).delays

namespace PortsOnly

variable {s t u : State}

theorem refl (s : State) : PortsOnly s s := ⟨⟨s.clf.ports, rfl⟩, fun _ => rfl, fun _ => rfl, fun _ => rfl⟩

theorem trans (h : PortsOnly s t) (h' : PortsOnly t u) : PortsOnly s u := by
  obtain ⟨v, rfl⟩ := h.ports
  obtain ⟨v', rfl⟩ := h'.ports
  exact ⟨⟨v', rfl⟩, fun p => (h'.pdreq p).trans (h.pdreq p), fun p => (h'.pdAt p).trans (h.pdAt p),
    fun p => (h'.delays p).trans (h.delays p)⟩

theorem portSet (s : State) (p : Fin 2) {f : ClfPort → ClfPort} (hreq : ∀ h, (f h).pdreq = h.pdreq)
    (hat : ∀ h, (f h).pdAt = h.pdAt) (hdelays : ∀ h, (f h).delays = h.delays) : PortsOnly s (s.portSet p f) := by
  have hof {α : Type} {g : ClfPort → α} (hg : ∀ h, g (f h) = g h) (q : Fin 2) :
      g (vget (s.portSet p f).clf.ports q) = g (vget s.clf.ports q) := by
    by_cases hq : p = q
    · rw [← hq, State.portSet_same, hg]
    · rw [State.portSet_other _ _ hq]
  exact ⟨⟨_, rfl⟩, hof hreq, hof hat, hof hdelays⟩

theorem sendAs (s : State) (p : Fin 2) (f : ClfFrame) (bad : Bool) : PortsOnly s (s.sendAs p f bad) := by
  unfold State.sendAs
  split
  · exact portSet s p (fun _ => rfl) (fun _ => rfl) (fun _ => rfl)
  · exact refl s

theorem sendOn (s : State) (p : Fin 2) (f : ClfFrame) : PortsOnly s (s.sendOn p f) := sendAs s p f false

theorem get (h : PortsOnly s t) (p : Page) (x : Fld) : t.get p x = s.get p x := by
  obtain ⟨v, rfl⟩ := h.ports
  rfl

theorem now (h : PortsOnly s t) : t.now = s.now := by
  obtain ⟨v, rfl⟩ := h.ports
  rfl

theorem openWindow (h : PortsOnly s t) : t.openWindow = s.openWindow := by
  obtain ⟨v, rfl⟩ := h.ports
  rfl

theorem unicast (h : PortsOnly s t) (n : Nat) : t.unicast n = s.unicast n := by
  rw [State.unicast, State.unicast, h.get]

theorem clfState (h : PortsOnly s t) : t.clfState = s.clfState := h.get ..

theorem portUp (h : PortsOnly s t) (p : Fin 2) : t.portUp p = s.portUp p := by
  rw [State.portUp, State.portUp, State.link, State.link, h.get]

theorem helloAt (h : PortsOnly s t) : t.clf.helloAt = s.clf.helloAt := by
  obtain ⟨v, rfl⟩ := h.ports
  rfl

end PortsOnly

theorem State.sendAs_up {s : State} {p : Fin 2} (h : s.portUp p = true) (f : ClfFrame) (bad : Bool) :
    (vget (s.sendAs p f bad).clf.ports p).sent = some f := by
  rw [State.sendAs, if_pos h, State.portSet_same]

theorem State.sendOn_up {s : State} {p : Fin 2} (h : s.portUp p = true) (f : ClfFrame) :
    (vget (s.sendOn p f).clf.ports p).sent = some f := State.sendAs_up h f false

theorem State.sendOn_other (s : State) {p q : Fin 2} (h : p ≠ q) (f : ClfFrame) :
    vget (s.sendOn p f).clf.ports q = vget s.clf.ports q := by
  rw [State.sendOn, State.sendAs]
  split
  · exact s.portSet_other _ h
  · rfl

/-- A frame for both ports leaves each port that carries frames. -/
theorem State.sendBoth_sent (s : State) (f g : ClfFrame) {p : Fin 2} (h : s.portUp p = true) :
    (vget ((s.sendOn 0 f).sendOn 1 g).clf.ports p).sent = some (if p = 0 then f else g) := by
  match p with
  | 0 =>
    rw [State.sendOn_other _ (by decide), State.sendOn_up h]
    rfl
  | 1 =>
    rw [State.sendOn_up (((PortsOnly.sendOn s 0 f).portUp 1).trans h)]
    rfl

/-- What a PDRESP that is due does in the open window. -/
def State.pdStep (s : State) (p : Fin 2) : State :=
  if (vget s.clf.ports p).respDue then (s.sendOn p (s.unicast 7)).portSet p fun h => { h with respDue := false } else s

theorem State.pdAnswer_eq (s : State) : s.pdAnswer = if s.openWindow then (s.pdStep 0).pdStep 1 else s := rfl

theorem PortsOnly.pdStep (s : State) (p : Fin 2) : PortsOnly s (s.pdStep p) := by
  unfold State.pdStep
  split
  · exact (PortsOnly.sendOn ..).trans (PortsOnly.portSet _ _ (fun _ => rfl) (fun _ => rfl) (fun _ => rfl))
  · exact .refl s

theorem PortsOnly.pdAnswer (s : State) : PortsOnly s s.pdAnswer := by
  rw [State.pdAnswer_eq]
  split
  · exact (PortsOnly.pdStep ..).trans (PortsOnly.pdStep ..)
  · exact .refl s

theorem State.pdStep_other (s : State) {p q : Fin 2} (h : p ≠ q) : vget (s.pdStep p).clf.ports q = vget s.clf.ports q := by
  unfold State.pdStep
  split
  · rw [State.portSet_other _ _ h, State.sendOn_other _ h]
  · rfl

theorem State.pdStep_due {s : State} {p : Fin 2} (hup : s.portUp p = true) (hdue : (vget s.clf.ports p).respDue = true) :
    (vget (s.pdStep p).clf.ports p).respDue = false ∧ (vget (s.pdStep p).clf.ports p).sent = some (s.unicast 7) := by
  rw [State.pdStep, if_pos hdue, State.portSet_same]
  exact ⟨rfl, State.sendOn_up hup _⟩

/-- A PDRESP that is due leaves its port in the open window. -/
theorem State.pdAnswer_due {s : State} {p : Fin 2} (hopen : s.openWindow = true) (hup : s.portUp p = true)
    (hdue : (vget s.clf.ports p).respDue = true) :
    (vget s.pdAnswer.clf.ports p).respDue = false ∧ (vget s.pdAnswer.clf.ports p).sent = some (s.unicast 7) := by
  rw [State.pdAnswer_eq, if_pos hopen]
  match p with
  | 0 =>
    rw [State.pdStep_other _ (by decide)]
    exact State.pdStep_due hup hdue
  | 1 =>
    have hstep := PortsOnly.pdStep s 0
    have hport := s.pdStep_other (p := 0) (q := 1) (by decide)
    rw [← hstep.unicast]
    exact State.pdStep_due ((hstep.portUp 1).trans hup) ((congrArg ClfPort.respDue hport).trans hdue)

@[simp] theorem State.unicast_advance (s : State) (dt n : Nat) : (s.advance dt).unicast n = s.unicast n := by
  rw [State.unicast, State.unicast, State.get_advance]

@[simp] theorem State.deviceId_advance (s : State) (dt : Nat) : (s.advance dt).deviceId = s.deviceId := by
  rw [State.deviceId, State.deviceId, State.get_advance, State.get_advance]

/-! ### HELLO (R431, R432) -/

section Hello

variable {dt : Nat} {p : Fin 2} {s : State} (hst : 2 ≤ s.clfState) (hup : s.portUp p = true)

include hst hup

theorem clfHelloSend_sends (hpow : s.dev.off = false) (hdue : s.clf.helloAt + 40000 ≤ s.now + dt)
    (hopen : (s.advance dt).openWindow = true) : ∃ t, exec (.clfHelloSend dt false) s = .next t ∧
      t.clf.helloAt = s.now + dt ∧ (vget t.clf.ports p).sent = some (s.unicast 4) := by
  have hans := PortsOnly.pdAnswer (s.advance dt)
  obtain ⟨u, hu⟩ : ∃ u, u = (s.advance dt).pdAnswer := ⟨_, rfl⟩
  rw [← hu] at hans
  have hany : u.portUp 0 = true ∨ u.portUp 1 = true := by
    rw [hans.portUp, hans.portUp, State.portUp_advance, State.portUp_advance]
    match p with
    | 0 => exact .inl hup
    | 1 => exact .inr hup
  have hgo : 2 ≤ u.clfState ∧ u.clf.helloAt + 40000 ≤ u.now ∧ (u.portUp 0 = true ∨ u.portUp 1 = true) ∧
      u.openWindow = true := by
    rw [hans.clfState, hans.helloAt, hans.now, hans.openWindow, State.clfState_advance, State.advance_clf,
      State.now_advance_of_on hpow]
    exact ⟨hst, hdue, hany, hopen⟩
  have hsent := u.sendBoth_sent (u.unicast 4) (u.unicast 4) ((hans.portUp p).trans ((s.portUp_advance dt p).trans hup))
  refine ⟨((u.sendOn 0 (u.unicast 4)).sendOn 1 (u.unicast 4)).clfSet fun c => { c with helloAt := u.now },
    ?_, ?_, ?_⟩
  · rw [hu] at hgo ⊢
    exact (if_pos hgo).trans (congrArg Host.Outcome.next (if_neg Bool.false_ne_true))
  · exact hans.now.trans (State.now_advance_of_on hpow dt)
  · rw [ite_self, hans.unicast, State.unicast_advance] at hsent
    rw [hans.unicast, State.unicast_advance]
    exact hsent

end Hello

/-- The candidate for the root after a HELLO. -/
def ClfH.heardBest (c : ClfH) (h : ClfHello) : Option (Nat × Nat) :=
  betterRoot (betterRoot c.best h.rootPri h.devId) h.bestPri h.bestId

/-- The root candidate and the ring after a HELLO. -/
def State.helloHeard (s : State) (h : ClfHello) : State :=
  s.clfSet fun c => { c with
    best := s.clf.heardBest h
    ring := c.ring || h.devId == s.deviceId
    rootSf := if ((s.clf.heardBest h).map (·.2)) = some h.devId then s.sfNum else c.rootSf }

/-- A duplicate of the own ID is reported once, and the node with the higher device ID gives way. -/
def State.helloClash (s : State) (h : ClfHello) (own : Nat) : State :=
  let s := (s.clfSet fun c => { c with dupSeen := true }).note 0xF03 1 0 0
  if h.devId < own then
    let s := s.clfSet fun c => { c with dup := true }
    if s.clfState = 2 then s.clfGo 5 else s
  else s

/-- The number that a node with a fixed one claims. -/
def State.ownClaim (s : State) : Option Nat :=
  if s.on CLF.pg CLF.CFG_IDMODE then some (s.get CLF.pg CLF.CFG_NODE_ID) else none

/-- The state after a HELLO, before a discovery that it completes. -/
def State.helloTaken (s : State) (h : ClfHello) : State :=
  let u := s.helloHeard h
  if (h.devId != s.deviceId && u.ownClaim.isSome && h.claim == u.ownClaim) && !u.clf.dupSeen && u.clfState != 5 then
    u.helloClash h s.deviceId
  else u

theorem clfHelloRx_takes {dt : Nat} {p : Fin 2} {s : State} (hst : 2 ≤ s.clfState) (hup : s.portUp p = true) (h : ClfHello)
    (done : Bool) : exec (.clfHelloRx dt p h done) s = .next (if done then
      ((s.advance dt).helloTaken h).discovered h.nodes h.hops h.rootId else (s.advance dt).helloTaken h) :=
  if_pos ⟨(s.clfState_advance dt).symm ▸ hst, (s.portUp_advance dt p).trans hup⟩

/-- From `s` to `t` the root candidate, the numbers of the node and its device are the same. -/
structure HelloStands (s t : State) : Prop where
  best : t.clf.best = s.clf.best
  device : t.deviceId = s.deviceId

namespace HelloStands

theorem refl (s : State) : HelloStands s s := ⟨rfl, rfl⟩

theorem trans {s t u : State} (h : HelloStands s t) (h' : HelloStands t u) : HelloStands s u :=
  ⟨h'.best.trans h.best, h'.device.trans h.device⟩

theorem clfSet (s : State) {f : ClfH → ClfH} (h : (f s.clf).best = s.clf.best) : HelloStands s (s.clfSet f) := ⟨h, rfl⟩

theorem clfGo (s : State) (st : Nat) : HelloStands s (s.clfGo st) := by
  have hsys {x : Fld} (hx : inPage SYS.pg x = true) : (s.clfGo st).get SYS.pg x = s.get SYS.pg x :=
    State.get_within (Kept.clfGo s st).within hx (by simp)
  refine ⟨congrArg ClfH.best (s.clfGo_clf st), ?_⟩
  rw [State.deviceId, State.deviceId, hsys (by decide), hsys (by decide)]

theorem note (s : State) (code react machs aux : Nat) : HelloStands s (s.note code react machs aux) := by
  have hsys {x : Fld} (hx : inPage SYS.pg x = true) (ho : x.off ≠ 0x044) :
      (s.note code react machs aux).get SYS.pg x = s.get SYS.pg x := by
    refine (State.get_within (Kept.logEntry ..).within hx (by simp)).trans ?_
    exact State.get_eq_of_rd (s.rd_abortTransition (fldAddr_ne_of_off ho)) rfl
  refine ⟨congrArg ClfH.best (s.note_clf ..), ?_⟩
  rw [State.deviceId, State.deviceId, hsys (by decide) (by decide), hsys (by decide) (by decide)]

theorem helloClash (s : State) (h : ClfHello) (own : Nat) : HelloStands s (s.helloClash h own) := by
  have hnote : HelloStands s ((s.clfSet fun c => { c with dupSeen := true }).note 0xF03 1 0 0) :=
    (HelloStands.clfSet s rfl).trans (note ..)
  unfold State.helloClash
  simp only []
  split
  · split
    · exact hnote.trans ((HelloStands.clfSet _ rfl).trans (clfGo ..))
    · exact hnote.trans (HelloStands.clfSet _ rfl)
  · exact hnote

end HelloStands

theorem State.helloTaken_stands (s : State) (h : ClfHello) : HelloStands (s.helloHeard h) (s.helloTaken h) := by
  unfold State.helloTaken
  simp only []
  split
  · exact .helloClash ..
  · exact .refl _

theorem clfHelloRx_candidates {dt : Nat} {p : Fin 2} {s : State} (hst : 2 ≤ s.clfState) (hup : s.portUp p = true)
    (h : ClfHello) : ∃ t, exec (.clfHelloRx dt p h false) s = .next t ∧
      t.clf.best = betterRoot (betterRoot s.clf.best h.rootPri h.devId) h.bestPri h.bestId :=
  ⟨_, clfHelloRx_takes hst hup h false, ((s.advance dt).helloTaken_stands h).best.trans (by
    rw [← State.advance_clf s dt]; rfl)⟩

/-! ### Discovery completes (R431, R432) -/

/-- The topology that a node behind the root takes. -/
def State.topoTaken (s : State) (n hops rootId own : Nat) (hold : Bool) : State :=
  s.withTopo fun s =>
    let s := ((s.flag CLF.pg CLF.TOPO_VALID true).put CLF.pg CLF.TOPO_NODES (n - 1)).flag CLF.pg CLF.TOPO_RING s.clf.ring
    let s := if hold then s.put CLF.pg CLF.TOPO_ID own else s
    (s.put CLF.pg CLF.TOPO_ROOT rootId).put CLF.pg CLF.TOPO_HOPS hops

theorem State.topoTaken_shows (s : State) (n hops rootId own : Nat) (hold : Bool) :
    (s.topoTaken n hops rootId own hold).on CLF.pg CLF.TOPO_VALID = true ∧
      (s.topoTaken n hops rootId own hold).get CLF.pg CLF.TOPO_NODES = (n - 1) % 64 ∧
      (s.topoTaken n hops rootId own hold).get CLF.pg CLF.TOPO_ROOT = rootId % 64 ∧
      (s.topoTaken n hops rootId own hold).get CLF.pg CLF.TOPO_HOPS = hops % 64 := by
  obtain ⟨u, hu⟩ : ∃ u : State → State, u = fun s =>
      let s := ((s.flag CLF.pg CLF.TOPO_VALID true).put CLF.pg CLF.TOPO_NODES (n - 1)).flag CLF.pg CLF.TOPO_RING s.clf.ring
      if hold then s.put CLF.pg CLF.TOPO_ID own else s := ⟨_, rfl⟩
  have hid {x : Fld} (hd : x.hi < 16 ∨ 21 < x.lo) : (u s).get CLF.pg x = (((s.flag CLF.pg CLF.TOPO_VALID true).put CLF.pg
      CLF.TOPO_NODES (n - 1)).flag CLF.pg CLF.TOPO_RING s.clf.ring).get CLF.pg x := by
    rw [hu]
    simp only []
    split
    · exact State.get_put_bits (x := CLF.TOPO_ID) _ _ (by decide) (by decide) hd
    · rfl
  have hshape : s.topoTaken n hops rootId own hold = s.withTopo fun s =>
      ((u s).put CLF.pg CLF.TOPO_ROOT rootId).put CLF.pg CLF.TOPO_HOPS hops := by rw [hu]; rfl
  rw [hshape]
  refine ⟨?_, ?_, ?_, ?_⟩
  · rw [State.on, State.get_withTopo _ _ (by decide) (by decide), State.get_put_bits _ _ (by decide) (by decide) (by decide),
      State.get_put_bits _ _ (by decide) (by decide) (by decide), hid (by decide),
      State.get_flag_bits _ _ (by decide) (by decide) (by decide), State.get_put_bits _ _ (by decide) (by decide) (by decide)]
    exact s.on_flag_same true (inPage_clf (by decide)) rfl (by decide)
  · rw [State.get_withTopo _ _ (by decide) (by decide), State.get_put_bits _ _ (by decide) (by decide) (by decide),
      State.get_put_bits _ _ (by decide) (by decide) (by decide), hid (by decide),
      State.get_flag_bits _ _ (by decide) (by decide) (by decide),
      State.get_put_same _ _ (inPage_clf (by decide)) (by decide) (by decide)]
    rfl
  · rw [State.get_withTopo _ _ (by decide) (by decide), State.get_put_bits _ _ (by decide) (by decide) (by decide),
      State.get_put_same _ _ (inPage_clf (by decide)) (by decide) (by decide)]
    rfl
  · rw [State.get_withTopo _ _ (by decide) (by decide),
      State.get_put_same _ _ (inPage_clf (by decide)) (by decide) (by decide)]
    rfl

theorem State.get_clfSync (s : State) {x : Fld} (hs : x.off ≠ 0x00C) (he : x.off ≠ 0x010) (hp : x.off < 0x1000) :
    s.clfSync.get CLF.pg x = s.get CLF.pg x := by
  unfold State.clfSync
  simp only []
  split
  · rw [State.get_clfGo _ _ hs he hp, State.get_clfGo _ _ hs he hp]
  · exact s.get_clfGo 3 hs he hp

theorem State.clfSync_clf (s : State) : s.clfSync.clf = s.clf := (Kept.clfSync s).within .clf (by simp)

theorem State.clfState_clfSync (s : State) : s.clfSync.clfState = if s.on TBU.pg TBU.STAT_FAB_VALID then 4 else 3 := by
  have hfab : (s.clfGo 3).on TBU.pg TBU.STAT_FAB_VALID = s.on TBU.pg TBU.STAT_FAB_VALID :=
    congrArg (· == 1) (State.get_within (Kept.clfGo s 3).within (by decide) (by simp))
  unfold State.clfSync
  simp only [hfab]
  split
  · exact State.clfState_clfGo _ (by decide)
  · exact s.clfState_clfGo (by decide)

/-- The node that discovery leaves in DISCOVER, or takes to CONFLICT or on to TIMESYNC. -/
def State.discoverEnd (s : State) (hold : Bool) : State :=
  if s.clfState = 2 then (if s.clf.dup then s.clfGo 5 else if hold then s.clfSync else s) else s

theorem State.get_discoverEnd (s : State) (hold : Bool) {x : Fld} (hs : x.off ≠ 0x00C) (he : x.off ≠ 0x010)
    (hp : x.off < 0x1000) : (s.discoverEnd hold).get CLF.pg x = s.get CLF.pg x := by
  unfold State.discoverEnd
  split
  · split
    · exact s.get_clfGo 5 hs he hp
    · split
      · exact s.get_clfSync hs he hp
      · rfl
  · rfl

theorem State.discovered_follower {s : State} {b : Nat × Nat} (hbest : s.clf.best = some b) (hself : b.2 ≠ s.deviceId)
    (n hops rootId : Nat) : ∃ own hold, ∃ f : ClfH → ClfH,
      s.discovered n hops rootId = ((s.topoTaken n hops rootId own hold).clfSet f).discoverEnd hold := by
  have hno : (b.2 == s.deviceId) = false := beq_eq_false_iff_ne.mpr hself
  unfold State.discovered
  simp only [hbest, hno, Bool.false_eq_true, false_and, if_false, Bool.false_and, Bool.false_or]
  exact ⟨_, _, _, rfl⟩

theorem clfHelloRx_completes {dt : Nat} {p : Fin 2} {s : State} (hst : 2 ≤ s.clfState) (hup : s.portUp p = true)
    {h : ClfHello} {b : Nat × Nat}
    (hbest : betterRoot (betterRoot s.clf.best h.rootPri h.devId) h.bestPri h.bestId = some b)
    (hself : b.2 ≠ s.deviceId) : ∃ t, exec (.clfHelloRx dt p h true) s = .next t ∧ t.on CLF.pg CLF.TOPO_VALID = true ∧
      t.get CLF.pg CLF.TOPO_NODES = (h.nodes - 1) % 64 ∧ t.get CLF.pg CLF.TOPO_ROOT = h.rootId % 64 ∧
      t.get CLF.pg CLF.TOPO_HOPS = h.hops % 64 := by
  have hstands := (s.advance dt).helloTaken_stands h
  have hcand : ((s.advance dt).helloTaken h).clf.best = some b := by
    rw [hstands.best, ← hbest, ← State.advance_clf s dt]
    rfl
  have hdev : b.2 ≠ ((s.advance dt).helloTaken h).deviceId := by
    rw [hstands.device]
    exact fun e => hself (e.trans (s.deviceId_advance dt))
  obtain ⟨own, hold, f, hdisc⟩ := State.discovered_follower hcand hdev h.nodes h.hops h.rootId
  obtain ⟨hvalid, hnodes, hroot, hhops⟩ := ((s.advance dt).helloTaken h).topoTaken_shows h.nodes h.hops h.rootId own hold
  refine ⟨_, (clfHelloRx_takes hst hup h true).trans (congrArg Host.Outcome.next hdisc), ?_, ?_, ?_, ?_⟩
  · rw [State.on, State.get_discoverEnd _ _ (by decide) (by decide) (by decide), State.get_clfSet]
    exact hvalid
  · rw [State.get_discoverEnd _ _ (by decide) (by decide) (by decide), State.get_clfSet, hnodes]
  · rw [State.get_discoverEnd _ _ (by decide) (by decide) (by decide), State.get_clfSet, hroot]
  · rw [State.get_discoverEnd _ _ (by decide) (by decide) (by decide), State.get_clfSet, hhops]

/-! ### ASSIGN (R432) -/

/-- The topology that an ASSIGN gives. -/
def State.assigned (s : State) (id n hops : Nat) : State :=
  (s.withTopo fun s => (((s.put CLF.pg CLF.TOPO_ID id).put CLF.pg CLF.TOPO_NODES (n - 1)).put CLF.pg CLF.TOPO_HOPS hops).put
    CLF.pg CLF.TOPO_ROOT 0).clfSet fun c => { c with idHeld := true }

theorem State.assigned_shows (s : State) {id n : Nat} (hops : Nat) (hid : id < 64) (hn : n ≤ 64) :
    (s.assigned id n hops).get CLF.pg CLF.TOPO_ID = id ∧ (s.assigned id n hops).get CLF.pg CLF.TOPO_NODES = n - 1 ∧
      (s.assigned id n hops).clf.idHeld = true ∧ (s.assigned id n hops).clfState = s.clfState := by
  refine ⟨?_, ?_, rfl, ?_⟩
  · rw [State.assigned, State.get_clfSet, State.get_withTopo _ _ (by decide) (by decide),
      State.get_put_bits _ _ (by decide) (by decide) (by decide), State.get_put_bits _ _ (by decide) (by decide) (by decide),
      State.get_put_bits _ _ (by decide) (by decide) (by decide),
      State.get_put_same _ _ (inPage_clf (by decide)) (by decide) (by decide)]
    exact Nat.mod_eq_of_lt hid
  · rw [State.assigned, State.get_clfSet, State.get_withTopo _ _ (by decide) (by decide),
      State.get_put_bits _ _ (by decide) (by decide) (by decide), State.get_put_bits _ _ (by decide) (by decide) (by decide),
      State.get_put_same _ _ (inPage_clf (by decide)) (by decide) (by decide)]
    exact Nat.mod_eq_of_lt (Nat.lt_of_le_of_lt (Nat.sub_le_sub_right hn 1) (by decide))
  · rw [State.clfState, State.assigned, State.get_clfSet, State.get_withTopo _ _ (by decide) (by decide),
      State.get_put_off _ _ (by decide), State.get_put_off _ _ (by decide), State.get_put_off _ _ (by decide),
      State.get_put_off _ _ (by decide)]
    rfl

theorem State.on_assigned_fab (s : State) (id n hops : Nat) :
    (s.assigned id n hops).on TBU.pg TBU.STAT_FAB_VALID = s.on TBU.pg TBU.STAT_FAB_VALID := by
  have hput (s : State) (x : Fld) (v : Nat) : (s.put CLF.pg x v).get TBU.pg TBU.STAT_FAB_VALID =
      s.get TBU.pg TBU.STAT_FAB_VALID := State.get_within (Kept.put ..).within (by decide) (by simp)
  rw [State.on, State.on, State.assigned, State.get_clfSet, State.withTopo,
    State.get_within (Kept.evtIf ..).within (by decide) (by simp), hput, hput, hput, hput]

theorem clfAssignRx_numbers {dt : Nat} {p : Fin 2} {s : State} (hst : 2 ≤ s.clfState) (hup : s.portUp p = true)
    {id n : Nat} (hops : Nat) (hmode : s.on CLF.pg CLF.CFG_IDMODE = false) (hheld : s.clf.idHeld = false) (hid : id < 64)
    (hpos : 0 < n) (hn : n ≤ 64) : ∃ t, exec (.clfAssignRx dt p id n hops) s = .next t ∧
      t.get CLF.pg CLF.TOPO_ID = id ∧ t.get CLF.pg CLF.TOPO_NODES = n - 1 ∧ t.clf.idHeld = true ∧
      (s.clfState = 2 → t.clfState = if s.on TBU.pg TBU.STAT_FAB_VALID then 4 else 3) := by
  obtain ⟨u, hu⟩ : ∃ u, u = (s.advance dt).assigned id n hops := ⟨_, rfl⟩
  obtain ⟨hnum, hnodes, hidHeld, hstate⟩ := (s.advance dt).assigned_shows hops hid hn
  have hfab := (s.advance dt).on_assigned_fab id n hops
  rw [← hu] at hnum hnodes hidHeld hstate hfab
  have hsend := PortsOnly.sendOn u (if p = 0 then 1 else 0) (u.unicast 5)
  obtain ⟨w, hw⟩ : ∃ w, w = u.sendOn (if p = 0 then 1 else 0) (u.unicast 5) := ⟨_, rfl⟩
  rw [← hw] at hsend
  have hwheld : w.clf.idHeld = true := by
    obtain ⟨v, hv⟩ := hsend.ports
    rw [hv]
    exact hidHeld
  have hgo : 2 ≤ (s.advance dt).clfState ∧ (s.advance dt).portUp p = true ∧
      ¬(s.advance dt).on CLF.pg CLF.CFG_IDMODE = true ∧ ¬(s.advance dt).clf.idHeld = true ∧ id < 64 ∧ 0 < n ∧ n ≤ 64 := by
    rw [State.clfState_advance, State.portUp_advance, State.on_advance, State.advance_clf, hmode, hheld]
    exact ⟨hst, hup, Bool.false_ne_true, Bool.false_ne_true, hid, hpos, hn⟩
  refine ⟨if w.clfState = 2 then w.clfSync else w, ?_, ?_, ?_, ?_, fun h2 => ?_⟩
  · rw [hw, hu]
    exact if_pos hgo
  · rw [apply_ite (fun x : State => x.get CLF.pg CLF.TOPO_ID), w.get_clfSync (by decide) (by decide) (by decide), ite_self,
      hsend.get, hnum]
  · rw [apply_ite (fun x : State => x.get CLF.pg CLF.TOPO_NODES), w.get_clfSync (by decide) (by decide) (by decide), ite_self,
      hsend.get, hnodes]
  · rw [apply_ite State.clf, w.clfSync_clf, ite_self, hwheld]
  · rw [if_pos (hsend.clfState.trans (hstate.trans ((s.clfState_advance dt).trans h2))), State.clfState_clfSync, State.on,
      hsend.get]
    exact congrArg (fun b : Bool => if b = true then 4 else 3) (hfab.trans (s.on_advance ..))

/-! ### Path delay (R445) -/

section Delay

variable {dt : Nat} {p : Fin 2} {fine : Fin 128} {s : State}

theorem clfPdRequest_leaves (hpow : s.dev.off = false) (hst : 2 ≤ s.clfState) (hup : s.portUp p = true)
    (hdue : ∀ r, (vget s.clf.ports p).pdAt = some r → r + s.get CLF.pg CLF.TIME_PD_PER * s.get CLF.pg CLF.SF ≤ s.now + dt)
    (hopen : (s.advance dt).openWindow = true) : ∃ t, exec (.clfPdRequest dt p fine) s = .next t ∧
      (vget t.clf.ports p).pdreq = some ((s.now + dt) * 128 + fine) ∧ (vget t.clf.ports p).sent = some (s.unicast 6) := by
  have hans := PortsOnly.pdAnswer (s.advance dt)
  have hnow : (s.advance dt).pdAnswer.now = s.now + dt := hans.now.trans (State.now_advance_of_on hpow dt)
  have huni : (s.advance dt).pdAnswer.unicast 6 = s.unicast 6 := (hans.unicast 6).trans (s.unicast_advance dt 6)
  have hupA : (s.advance dt).pdAnswer.portUp p = true := (hans.portUp p).trans ((s.portUp_advance dt p).trans hup)
  have hat := hans.pdAt p
  rw [State.advance_clf] at hat
  have hgo : 2 ≤ (s.advance dt).pdAnswer.clfState ∧ (s.advance dt).pdAnswer.portUp p = true ∧
      (match (vget (s.advance dt).pdAnswer.clf.ports p).pdAt with
        | none => true
        | some t => decide (t + (s.advance dt).pdAnswer.get CLF.pg CLF.TIME_PD_PER * (s.advance dt).pdAnswer.get CLF.pg CLF.SF ≤
            (s.advance dt).pdAnswer.now)) = true ∧ (s.advance dt).pdAnswer.openWindow = true := by
    rw [hans.clfState, State.clfState_advance, hans.openWindow, hat, hans.get, hans.get, State.get_advance,
      State.get_advance, hnow]
    refine ⟨hst, hupA, ?_, hopen⟩
    split
    · rfl
    · exact decide_eq_true (hdue _ (by assumption))
  refine ⟨_, if_pos hgo, ?_, ?_⟩
  · rw [State.portSet_same]
    refine congrArg some ?_
    rw [State.fineNow, hnow]
  · rw [State.portSet_same, huni]
    exact State.sendOn_up hupA _

theorem clfPdreqRx_answers (hst : 2 ≤ s.clfState) (hup : s.portUp p = true) :
    ∃ t, exec (.clfPdreqRx dt p fine) s = .next t ∧ (vget t.clf.ports p).respDue = !(s.advance dt).openWindow ∧
      (vget t.clf.ports p).sent =
        if (s.advance dt).openWindow then some (s.unicast 7) else (vget s.clf.ports p).sent := by
  have hupA : (s.advance dt).portUp p = true := (s.portUp_advance dt p).trans hup
  obtain ⟨u, hu⟩ : ∃ u, u = (s.advance dt).portSet p fun h => { h with respDue := true } := ⟨_, rfl⟩
  have hset : PortsOnly (s.advance dt) u := by
    rw [hu]
    exact .portSet _ _ (fun _ => rfl) (fun _ => rfl) (fun _ => rfl)
  have hport : vget u.clf.ports p = { vget s.clf.ports p with respDue := true } := by
    rw [hu, State.portSet_same, State.advance_clf]
  refine ⟨u.pdAnswer, hu ▸ if_pos ⟨(s.clfState_advance dt).symm ▸ hst, hupA⟩, ?_⟩
  rw [← hset.openWindow, ← State.unicast_advance s dt 7, ← hset.unicast]
  by_cases hopen : u.openWindow = true
  · obtain ⟨hresp, hsent⟩ := State.pdAnswer_due hopen ((hset.portUp p).trans hupA) (by rw [hport])
    rw [hopen, if_pos rfl]
    exact ⟨hresp, hsent⟩
  · rw [State.pdAnswer_eq, if_neg hopen, if_neg hopen, hport, Bool.eq_false_iff.mpr hopen]
    exact ⟨rfl, rfl⟩

theorem clfPdrespRx_measures (hpow : s.dev.off = false) (hup : s.portUp p = true) {t1 : Nat} (t2 t3 : Nat)
    (hreq : (vget s.clf.ports p).pdreq = some t1) : ∃ t, exec (.clfPdrespRx dt p t2 t3 fine) s = .next t ∧
      (vget t.clf.ports p).pdreq = none ∧ (vget t.clf.ports p).delays =
        (((((s.now + dt) * 128 + fine : Nat) : Int) - t1 - ((t3 : Int) - t2)) :: (vget s.clf.ports p).delays).take 8 := by
  obtain ⟨ds, hds⟩ : ∃ ds, ds = (((((s.now + dt) * 128 + fine : Nat) : Int) - t1 - ((t3 : Int) - t2)) ::
      (vget s.clf.ports p).delays).take 8 := ⟨_, rfl⟩
  have hport : vget ((s.advance dt).portSet p fun h => { h with pdreq := none, delays := ds }).clf.ports p =
      { vget s.clf.ports p with pdreq := none, delays := ds } := by
    rw [State.portSet_same, State.advance_clf]
  refine ⟨if ds.length = 8 then ((s.advance dt).portSet p fun h => { h with pdreq := none, delays := ds }).put CLF.pg (pdFld p)
      (unsigned 32 (ds.foldl (· + ·) 0 / 16)) else (s.advance dt).portSet p fun h => { h with pdreq := none, delays := ds },
    ?_, ?_⟩
  · change execClfPdrespRx dt p t2 t3 fine s = _
    unfold execClfPdrespRx
    simp only [State.advance_clf, hreq, State.portUp_advance, hup, if_true, State.fineNow, State.now_advance_of_on hpow,
      ← hds]
  · rw [← hds, apply_ite State.clf, State.put_clf, ite_self, hport]
    exact ⟨rfl, rfl⟩

end Delay

/-- Settles O58: ports, commands and frames each change the words and the hidden state that their lemma names; the answer to
a PDREQ waits for the open window. -/
theorem clepoPortsAndDiscovery : Obligations.ClepoPortsAndDiscovery :=
  ⟨fun _ _ _ hpow => ⟨clfSignalDetect_trains hpow, fun htrain => ⟨clfTrainDone_up hpow htrain, fun hdue =>
      ⟨clfTrainTimeout_oneLane hpow htrain hdue, clfTrainTimeout_noLane hpow htrain hdue⟩⟩, clfLaneFault_one,
      clfLaneFault_both⟩,
    fun _ _ _ _ hawake => ⟨clfRescan_discovers hawake, clfRetrain_trains hawake, clfRetrain_illegal hawake,
      clfClrCnt_clears hawake⟩,
    fun _ _ _ _ hpow hst hup => ⟨clfHelloSend_sends hst hup hpow, clfHelloRx_candidates hst hup,
      fun _ _ hbest hself => clfHelloRx_completes hst hup hbest hself,
      fun _ _ hops hmode hheld hid hpos hn => clfAssignRx_numbers hst hup hops hmode hheld hid hpos hn,
      clfPdRequest_leaves hpow hst hup, clfPdreqRx_answers hst hup,
      fun _ t2 t3 hreq => clfPdrespRx_measures hpow hup t2 t3 hreq⟩⟩

end Sys2Proof.Machine
end

section
/-! SUPPORT. O59: the frames of Clepo, and TIME frames of the root (R428 to R436, R443, R446, R447). -/

namespace Sys2Proof.Machine
open Sys2Proof

/-! ### Received frames (R428 to R436, R443) -/

theorem PortsOnly.ite {s t u : State} {c : Prop} [Decidable c] (h : PortsOnly s t) (h' : PortsOnly s u) :
    PortsOnly s (if c then t else u) := by split <;> assumption

theorem PortsOnly.forward (s : State) (p : Fin 2) (f : ClfFrame) (bad : Bool) : PortsOnly s (s.forward p f bad) := by
  unfold State.forward
  exact .ite (.sendAs ..) (.refl s)

/-- What becomes of a frame after the check of its slot, which has kept it or not. -/
def State.frameTail (s : State) (p : Fin 2) (f : ClfFrame) (good marked keep : Bool) : Host.Outcome State Fault Refusal :=
  if marked then .next (s.incSat CLF.pg CLF.CNT0_FWD_BAD)
  else if ¬ good ∨ ¬ headerOk f then .next s.crcError
  else if f.type = 0 ∨ 7 < f.type then .next (s.incSat CLF.pg CLF.CNT0_FMT)
  else if (f.type = 1 ∨ f.type = 3) ∧ keep ∧ s.clfState = 4 ∧ (f.dest = 0xFF ∨ f.dest = s.get CLF.pg CLF.TOPO_ID) then
    .next (s.deliver f (s.now - 4 - s.lanesTime p f.payload.length))
  else .next s

section Frames

variable {dt : Nat} {p : Fin 2} {f : ClfFrame} {s u : State} {good marked : Bool} (hst : 2 ≤ s.clfState)
  (hup : s.portUp p = true)
  (hu : u = if f.type = 1 ∨ f.type = 3 then (s.advance dt).forward p f !(good && !marked) else s.advance dt)

include hu in
theorem PortsOnly.frameForwarded : PortsOnly (s.advance dt) u := by
  rw [hu]
  exact .ite (.forward ..) (.refl _)

include hst hup hu

theorem clfFrameRx_eq : exec (.clfFrameRx dt p f good marked) s =
    if (f.type = 1 ∨ f.type = 3) ∧ headerOk f = true ∧ f.slot ≠ 0xFF then
      (u.slotCheck f.slot f.src).2.frameTail p f good marked (u.slotCheck f.slot f.src).1
    else u.frameTail p f good marked true := by
  have hgo : ¬((s.advance dt).clfState < 2 ∨ ¬(s.advance dt).portUp p = true) := by
    rw [State.clfState_advance, State.portUp_advance, hup]
    exact fun h => h.elim (Nat.not_lt.mpr hst) fun h => h rfl
  have hbad : (!decide (good = true ∧ ¬marked = true)) = !(good && !marked) := by cases good <;> cases marked <;> rfl
  change execClfFrameRx dt p f good marked s = _
  unfold execClfFrameRx
  simp only [if_neg hgo, hbad, ← hu]
  by_cases hslot : (f.type = 1 ∨ f.type = 3) ∧ headerOk f = true ∧ f.slot ≠ 0xFF
  · simp only [if_pos hslot]
    rfl
  · simp only [if_neg hslot, State.frameTail]

theorem clfFrameRx_unslotted (hslot : ¬((f.type = 1 ∨ f.type = 3) ∧ headerOk f = true ∧ f.slot ≠ 0xFF)) :
    exec (.clfFrameRx dt p f good marked) s = u.frameTail p f good marked true :=
  (clfFrameRx_eq hst hup hu).trans (if_neg hslot)

theorem clfFrameRx_marked (hslot : ¬((f.type = 1 ∨ f.type = 3) ∧ headerOk f = true ∧ f.slot ≠ 0xFF)) (hm : marked = true) :
    exec (.clfFrameRx dt p f good marked) s = .next (u.incSat CLF.pg CLF.CNT0_FWD_BAD) :=
  (clfFrameRx_unslotted hst hup hu hslot).trans (if_pos hm)

theorem clfFrameRx_damaged (hslot : ¬((f.type = 1 ∨ f.type = 3) ∧ headerOk f = true ∧ f.slot ≠ 0xFF)) (hm : marked = false)
    (hbad : good = false ∨ headerOk f = false) : exec (.clfFrameRx dt p f good marked) s = .next u.crcError :=
  (clfFrameRx_unslotted hst hup hu hslot).trans ((if_neg (by simp [hm])).trans (if_pos (by simpa using hbad)))

theorem clfFrameRx_unknown (hslot : ¬((f.type = 1 ∨ f.type = 3) ∧ headerOk f = true ∧ f.slot ≠ 0xFF)) (hm : marked = false)
    (hgood : good = true) (hhead : headerOk f = true) (htype : f.type = 0 ∨ 7 < f.type) :
    exec (.clfFrameRx dt p f good marked) s = .next (u.incSat CLF.pg CLF.CNT0_FMT) :=
  (clfFrameRx_unslotted hst hup hu hslot).trans
    ((if_neg (by simp [hm])).trans ((if_neg (by simp [hgood, hhead])).trans (if_pos htype)))

omit hst hup hu in
/-- A good frame that is kept is delivered in RUN, to its destination. -/
theorem State.frameTail_delivers {w : State} (hm : marked = false) (hgood : good = true) (hhead : headerOk f = true)
    (htype : f.type = 1 ∨ f.type = 3) (hrun : w.clfState = 4) (hdest : f.dest = 0xFF ∨ f.dest = w.get CLF.pg CLF.TOPO_ID) :
    w.frameTail p f good marked true = .next (w.deliver f (w.now - 4 - w.lanesTime p f.payload.length)) :=
  (if_neg (by simp [hm])).trans ((if_neg (by simp [hgood, hhead])).trans ((if_neg (by omega)).trans
    (if_pos ⟨htype, rfl, hrun, hdest⟩)))

omit hst hup in
/-- The tick at which the start symbol of the frame arrived. -/
theorem State.frameStart (n : Nat) : u.now - 4 - u.lanesTime p n = (s.advance dt).now - 4 - s.lanesTime p n := by
  have honly := PortsOnly.frameForwarded hu
  have hlink : u.link p = s.link p := (honly.get ..).trans (s.get_advance ..)
  rw [honly.now, State.lanesTime, State.lanesTime, hlink]

theorem clfFrameRx_delivers (hslot : ¬((f.type = 1 ∨ f.type = 3) ∧ headerOk f = true ∧ f.slot ≠ 0xFF)) (hm : marked = false)
    (hgood : good = true) (hhead : headerOk f = true) (htype : f.type = 1 ∨ f.type = 3) (hrun : s.clfState = 4)
    (hdest : f.dest = 0xFF ∨ f.dest = s.get CLF.pg CLF.TOPO_ID) : exec (.clfFrameRx dt p f good marked) s =
      .next (u.deliver f ((s.advance dt).now - 4 - s.lanesTime p f.payload.length)) := by
  have honly := PortsOnly.frameForwarded hu
  rw [clfFrameRx_unslotted hst hup hu hslot, State.frameTail_delivers hm hgood hhead htype, State.frameStart hu]
  · rw [honly.clfState, State.clfState_advance, hrun]
  · rwa [honly.get, State.get_advance]

omit hst hup in
/-- The owner of a slot in the state that has forwarded the frame. -/
theorem State.slotOwner_forwarded (i : Nat) : (u.slot u.clfBank i).owner = (s.slot s.clfBank i).owner := by
  obtain ⟨v, hv⟩ := (PortsOnly.frameForwarded hu).ports
  have hword (b i w : Nat) : (s.advance dt).slotWord b i w = s.slotWord b i w := by
    rw [State.slotWord, State.slotWord, State.rd_advance]
  rw [hv]
  change ((s.advance dt).slot (s.advance dt).clfBank i).owner = _
  rw [State.clfBank, State.clfBank, State.get_advance, State.slot, State.slot, hword]

omit hst hup in
theorem State.clf_forwarded : u.clf.quar = s.clf.quar ∧ u.clf.got = s.clf.got ∧ u.clf.clash = s.clf.clash := by
  obtain ⟨v, hv⟩ := (PortsOnly.frameForwarded hu).ports
  rw [hv, State.portsSet, State.clfSet_clf, State.advance_clf]
  exact ⟨rfl, rfl, rfl⟩

omit hst hup hu in
theorem State.slotCheck_quarantine {w : State} {i : Nat} (hi : i ≠ 0) (hquar : i ∉ w.clf.quar) (src : Nat) :
    w.slotCheck i src =
      if src ≠ (w.slot w.clfBank i).owner ∨ w.clf.got.contains i ∨ w.clf.clash.contains i then (false, w.slotConflict i)
      else (true, w.clfSet fun c => { c with got := i :: c.got }) := by
  unfold State.slotCheck
  simp only [if_neg hi, List.contains_eq_mem, decide_eq_false hquar, Bool.false_eq_true, if_false]

variable (htype : f.type = 1 ∨ f.type = 3) (hhead : headerOk f = true) (hFF : f.slot ≠ 0xFF) (h0 : f.slot ≠ 0)
  (hquar : f.slot ∉ s.clf.quar) (hgood : good = true) (hm : marked = false)

include htype hhead hFF h0 hquar hgood hm

theorem clfFrameRx_keeps (hown : f.src = (s.slot s.clfBank f.slot).owner) (hgot : f.slot ∉ s.clf.got)
    (hclash : f.slot ∉ s.clf.clash) (hrun : s.clfState = 4) (hdest : f.dest = 0xFF ∨ f.dest = s.get CLF.pg CLF.TOPO_ID) :
    exec (.clfFrameRx dt p f good marked) s =
      .next ((u.clfSet fun c => { c with got := f.slot :: c.got }).deliver f
        ((s.advance dt).now - 4 - s.lanesTime p f.payload.length)) := by
  have honly := PortsOnly.frameForwarded hu
  obtain ⟨hq, hg, hc⟩ := State.clf_forwarded hu
  have hkeep : u.slotCheck f.slot f.src = (true, u.clfSet fun c => { c with got := f.slot :: c.got }) := by
    rw [State.slotCheck_quarantine h0 (hq ▸ hquar), if_neg]
    rw [State.slotOwner_forwarded hu, hg, hc]
    simp [hown, hgot, hclash]
  rw [clfFrameRx_eq hst hup hu, if_pos ⟨htype, hhead, hFF⟩, hkeep]
  refine (State.frameTail_delivers hm hgood hhead htype ?_ ?_).trans ?_
  · exact honly.clfState.trans ((s.clfState_advance dt).trans hrun)
  · rwa [State.get_clfSet, honly.get, State.get_advance]
  · exact congrArg (fun t => Host.Outcome.next ((u.clfSet fun c => { c with got := f.slot :: c.got }).deliver f t))
      (State.frameStart hu _)

theorem clfFrameRx_conflicts (hown : f.src ≠ (s.slot s.clfBank f.slot).owner) :
    exec (.clfFrameRx dt p f good marked) s = .next (u.slotConflict f.slot) := by
  obtain ⟨hq, _, _⟩ := State.clf_forwarded hu
  have hdrop : u.slotCheck f.slot f.src = (false, u.slotConflict f.slot) := by
    rw [State.slotCheck_quarantine h0 (hq ▸ hquar), if_pos]
    exact .inl ((State.slotOwner_forwarded hu f.slot).symm ▸ hown)
  rw [clfFrameRx_eq hst hup hu, if_pos ⟨htype, hhead, hFF⟩, hdrop]
  exact (if_neg (by simp [hm])).trans ((if_neg (by simp [hgood, hhead])).trans ((if_neg (by omega)).trans
    (if_neg fun h => Bool.false_ne_true h.2.1)))

end Frames

theorem errorRateWindowStart_resets {dt : Nat} {s : State} (h : (s.advance dt).now % 400000000 = 0) :
    ∃ t, exec (.errorRateWindowStart dt) s = .next t ∧ t.clf.errs = 0 ∧ t.clf.errRaised = false ∧ t.regs = s.regs :=
  ⟨(s.advance dt).clfSet fun c => { c with errs := 0, errRaised := false }, if_pos h, rfl, rfl, s.advance_regs dt⟩

end Sys2Proof.Machine
end

section
/-! SUPPORT. O59, continued: the TIME frames of the root (R442 to R447). -/

namespace Sys2Proof.Machine
open Sys2Proof

/-! ### The arrival of a TIME frame (R443, R446) -/

/-- The state in which a TIME frame has arrived and has been forwarded. -/
def State.timeHeard (s : State) (p : Fin 2) (f : ClfTime) : State :=
  let (stay, s) := s.freshNat
  let c : Int := f.corr + signed 32 (s.get CLF.pg (pdFld p)) + (stay % 2 ^ 32 : Nat)
  s.forward p ⟨0xFF, f.src, 0, 2, 0, f.hops, 0, timeWords (unsigned 64 f.t0) (unsigned 32 c) f.table f.armed⟩ !f.good

/-- The superframe number that a TIME frame carries. -/
def State.timeSfOf (s : State) (f : ClfTime) : Nat := (f.t0 / 128 / (s.get CLF.pg CLF.SF : Int)).toNat

/-- The count of consecutive TIME frames. -/
def State.timeNext (s : State) (f : ClfTime) : Nat :=
  if s.clf.timeN ≠ 0 ∧ s.timeSfOf f = s.clf.timeSf + 1 then s.clf.timeN + 1 else 1

/-- Whether port `p` has its eight delays. -/
def State.delayKnown (s : State) (p : Fin 2) : Bool := (vget s.clf.ports p).delays.length == 8

/-- A TIME frame is counted. -/
def State.timeCounted (s : State) (n sf : Nat) : State := s.clfSet fun c => { c with timeN := n, timeSf := sf }

/-- The residual of a TIME frame reaches Horizon. -/
def State.timeSteered (s : State) (known : Bool) (t here : Int) : State :=
  if known then (s.tbuSet fun h => { h with fabOfs := t - here }).residual (t - (here + s.fofs)) else s

/-- The fourth of consecutive TIME frames makes fabric time valid. -/
def State.timeJoined (s : State) (known : Bool) (n sf : Nat) (ofs : Int) : State :=
  if known ∧ 4 ≤ n ∧ ¬ s.on TBU.pg TBU.STAT_FAB_VALID then
    let s := (s.fabJoin ofs).flag TBU.pg TBU.STAT_FAB_VALID true
    let s := s.flag TBU.pg TBU.STAT_FAB_DISC (s.on TBU.pg TBU.FABCFG_EN)
    (s.clfSet fun c => { c with held := true }).put64 CLF.pg CLF.SFNUM_LO sf
  else s

/-- A node in TIMESYNC goes on to RUN once fabric time is valid. -/
def State.timeRun (s : State) : State := if s.clfState = 3 ∧ s.on TBU.pg TBU.STAT_FAB_VALID then s.clfGo 4 else s

/-- Another table of the root is reported once. -/
def State.timeTable (s : State) (f : ClfTime) : State :=
  let table := s.slotWord s.clfBank 255 0 % 65536
  if f.table = table then s.clfSet fun c => { c with mismatch := false }
  else if s.clf.mismatch then s
  else ((s.clfSet fun c => { c with mismatch := true }).evt CLF.pg CLF.EVT_CONFLICT).note 0xF06 1 0 0

/-- A swap that the root has armed is followed once. -/
def State.timeSwap (s : State) (f : ClfTime) : State :=
  let first := f.armed ≠ 0xFFFFFFFF ∧ f.armed ≠ s.clf.seenArm
  let s := s.clfSet fun c => { c with seenArm := f.armed }
  if first ∧ s.on CLF.pg CLF.CFG_SWAP_FOLLOW then s.swapAt f.armed else s

/-- What a TIME frame that is kept does, at the fine time `here` with the root's time `t`. -/
def State.timeTaken (s : State) (p : Fin 2) (f : ClfTime) (here t : Int) : State :=
  ((((((s.timeCounted (s.timeNext f) (s.timeSfOf f)).timeSteered (s.delayKnown p) t here).timeJoined (s.delayKnown p)
    (s.timeNext f) (s.timeSfOf f) (t - here)).timeRun).timeTable f).timeSwap f)

section Arrival

variable {dt : Nat} {p : Fin 2} {f : ClfTime} {fine : Fin 128} {s : State} (hst : 3 ≤ s.clfState) (hup : s.portUp p = true)

theorem State.timeHeard_ports (s : State) (p : Fin 2) (f : ClfTime) : PortsOnly s.freshNat.2 (s.timeHeard p f) := .forward ..

theorem State.timeHeard_clf (s : State) (p : Fin 2) (f : ClfTime) :
    ∃ v, (s.timeHeard p f).clf = { s.clf with ports := v } := by
  obtain ⟨v, hv⟩ := (s.timeHeard_ports p f).ports
  exact ⟨v, by rw [hv]; rfl⟩

theorem State.get_timeHeard (s : State) (p : Fin 2) (f : ClfTime) (q : Page) (x : Fld) :
    (s.timeHeard p f).get q x = s.get q x := (s.timeHeard_ports p f).get q x

theorem State.rd_timeHeard (s : State) (p : Fin 2) (f : ClfTime) (a : Nat) : (s.timeHeard p f).rd a = s.rd a := by
  obtain ⟨v, hv⟩ := (s.timeHeard_ports p f).ports
  rw [hv]
  rfl

include hst hup

theorem clfTimeRx_eq : exec (.clfTimeRx dt p f fine) s =
    if ¬ f.good then .next (((s.advance dt).timeHeard p f).slotCheck 0 f.src).2.crcError
    else if ¬ (((s.advance dt).timeHeard p f).slotCheck 0 f.src).1 ∨
        (((s.advance dt).timeHeard p f).slotCheck 0 f.src).2.clf.isRoot then
      .next (((s.advance dt).timeHeard p f).slotCheck 0 f.src).2
    else .next ((((s.advance dt).timeHeard p f).slotCheck 0 f.src).2.timeTaken p f
      (((((s.advance dt).timeHeard p f).slotCheck 0 f.src).2.fineNow + fine : Nat) : Int)
      (f.t0 + f.corr + signed 32 ((((s.advance dt).timeHeard p f).slotCheck 0 f.src).2.get CLF.pg (pdFld p)))) := by
  have hgo : ¬((s.advance dt).clfState < 2 ∨ ¬(s.advance dt).portUp p = true) := by
    rw [State.clfState_advance, State.portUp_advance, hup]
    exact fun h => h.elim (Nat.not_lt.mpr (Nat.le_of_succ_le hst)) fun h => h rfl
  have hnot2 : ¬((s.advance dt).timeHeard p f).clfState = 2 := by
    rw [State.clfState, State.get_timeHeard, State.get_advance]
    exact fun h => absurd (hst.trans_eq h) (by decide)
  change execClfTimeRx dt p f fine s = _
  unfold execClfTimeRx
  simp only [if_neg hgo]
  refine (congrArg (fun r : Bool × State => if ¬f.good = true then Host.Outcome.next r.2.crcError
    else if ¬r.1 = true ∨ r.2.clf.isRoot = true then .next r.2
    else .next (r.2.timeTaken p f ((r.2.fineNow + fine : Nat) : Int)
      (f.t0 + f.corr + signed 32 (r.2.get CLF.pg (pdFld p))))) (if_neg hnot2))

end Arrival

/-! ### What a TIME frame leaves (R443, R446) -/

/-- From `s` to `t` the slots received and the count of TIME frames are the same. -/
structure TimeStands (s t : State) : Prop where
  got : t.clf.got = s.clf.got
  timeN : t.clf.timeN = s.clf.timeN
  timeSf : t.clf.timeSf = s.clf.timeSf

namespace TimeStands

variable {s t u : State}

theorem refl (s : State) : TimeStands s s := ⟨rfl, rfl, rfl⟩

theorem trans (h : TimeStands s t) (h' : TimeStands t u) : TimeStands s u :=
  ⟨h'.got.trans h.got, h'.timeN.trans h.timeN, h'.timeSf.trans h.timeSf⟩

theorem of_clf (h : t.clf = s.clf) : TimeStands s t := ⟨by rw [h], by rw [h], by rw [h]⟩

theorem ite {c : Prop} [Decidable c] (h : TimeStands s t) (h' : TimeStands s u) : TimeStands s (if c then t else u) := by
  split <;> assumption

theorem steered (s : State) (known : Bool) (t here : Int) : TimeStands s (s.timeSteered known t here) :=
  ite (of_clf ((Kept.residual (s.tbuSet fun h => { h with fabOfs := t - here }) (t - (here + s.fofs))).within .clf (by simp)))
    (refl s)

theorem joined (s : State) (known : Bool) (n sf : Nat) (ofs : Int) : TimeStands s (s.timeJoined known n sf ofs) := by
  have hjoin : TimeStands s ((s.fabJoin ofs).flag TBU.pg TBU.STAT_FAB_VALID true) :=
    of_clf ((State.flag_clf ..).trans ((Kept.fabJoin s ofs).within .clf (by simp)))
  have hflag (w : State) (b : Bool) : TimeStands w (w.flag TBU.pg TBU.STAT_FAB_DISC b) := of_clf (State.flag_clf ..)
  have hheld (w : State) (v : Nat) : TimeStands w ((w.clfSet fun c => { c with held := true }).put64 CLF.pg CLF.SFNUM_LO v) := by
    refine trans (t := w.clfSet fun c => { c with held := true }) ⟨rfl, rfl, rfl⟩ (of_clf (Unmoved.put64 ..).clf)
  exact ite (hjoin.trans ((hflag ..).trans (hheld ..))) (refl s)

theorem run (s : State) : TimeStands s s.timeRun := ite (of_clf (s.clfGo_clf 4)) (refl s)

theorem table (s : State) (f : ClfTime) : TimeStands s (s.timeTable f) := by
  have hmark (b : Bool) : TimeStands s (s.clfSet fun c => { c with mismatch := b }) := ⟨rfl, rfl, rfl⟩
  refine ite (hmark false) (ite (refl s) ((hmark true).trans (of_clf ?_)))
  rw [State.note_clf, State.evt_clf]

end TimeStands

theorem State.timeSwap_clf (s : State) (f : ClfTime) : (s.timeSwap f).clf = { s.clf with seenArm := f.armed } := by
  unfold State.timeSwap
  simp only []
  split
  · exact (Kept.swapAt ..).within .clf (by simp)
  · rfl

/-- What a TIME frame that is kept leaves in the hidden state of Clepo. -/
theorem State.timeTaken_shows (s : State) (p : Fin 2) (f : ClfTime) (here t : Int) :
    (s.timeTaken p f here t).clf.got = s.clf.got ∧ (s.timeTaken p f here t).clf.seenArm = f.armed ∧
      (s.timeTaken p f here t).clf.timeSf = s.timeSfOf f ∧ (s.timeTaken p f here t).clf.timeN = s.timeNext f := by
  have hstands := ((TimeStands.steered (s.timeCounted (s.timeNext f) (s.timeSfOf f)) (s.delayKnown p) t here).trans
    (.joined _ (s.delayKnown p) (s.timeNext f) (s.timeSfOf f) (t - here))).trans ((TimeStands.run _).trans (.table _ f))
  rw [State.timeTaken, State.timeSwap_clf]
  exact ⟨hstands.got, rfl, hstands.timeSf, hstands.timeN⟩

section Taken

variable {dt : Nat} {p : Fin 2} {f : ClfTime} {fine : Fin 128} {s : State} (hst : 3 ≤ s.clfState) (hup : s.portUp p = true)

/-- A conflict leaves the count of damaged frames. -/
theorem State.slotConflict_errs (s : State) (i : Nat) :
    (s.slotConflict i).clf.errs = s.clf.errs ∧ (s.slotConflict i).rd (fldAddr CLF.pg CLF.CNT0) =
      s.rd (fldAddr CLF.pg CLF.CNT0) := by
  unfold State.slotConflict
  simp only []
  constructor
  · rw [State.note_clf, State.evt_clf, (Unmoved.incSat ..).clf]
    rfl
  · rw [State.rd_note_clf _ _ _ _ _ (by decide), State.rd_evt_clf _ _ (by decide) (by decide),
      State.rd_incSat_off _ (by decide), State.rd_clfSet]

/-- From `s` to `t` the count of damaged frames and its counter register are the same. -/
def ErrsStand (s t : State) : Prop :=
  t.clf.errs = s.clf.errs ∧ t.rd (fldAddr CLF.pg CLF.CNT0) = s.rd (fldAddr CLF.pg CLF.CNT0)

theorem ErrsStand.ite {c : Prop} [Decidable c] {x y : Bool × State} (hx : ErrsStand s x.2) (hy : ErrsStand s y.2) :
    ErrsStand s (if c then x else y).2 := by
  split <;> assumption

theorem State.slotCheck_errs (s : State) (i src : Nat) : ErrsStand s (s.slotCheck i src).2 :=
  .ite ⟨rfl, rfl⟩ (.ite (s.slotConflict_errs i) ⟨rfl, rfl⟩)

include hst hup

theorem clfTimeRx_damaged (hbad : f.good = false) : ∃ u, exec (.clfTimeRx dt p f fine) s = .next (State.crcError u) ∧
    u.clf.errs = s.clf.errs ∧ u.rd (fldAddr CLF.pg CLF.CNT0) = s.rd (fldAddr CLF.pg CLF.CNT0) := by
  obtain ⟨herrs, hcnt⟩ := ((s.advance dt).timeHeard p f).slotCheck_errs 0 f.src
  obtain ⟨v, hv⟩ := (s.advance dt).timeHeard_clf p f
  rw [hv, State.advance_clf] at herrs
  rw [State.rd_timeHeard, State.rd_advance] at hcnt
  exact ⟨_, (clfTimeRx_eq hst hup).trans (if_pos (by simp [hbad])), herrs, hcnt⟩

theorem clfTimeRx_takes (hgood : f.good = true) (hroot : s.clf.isRoot = false) (hquar : 0 ∉ s.clf.quar)
    (hgot : 0 ∉ s.clf.got) (hclash : 0 ∉ s.clf.clash) (hsrc : f.src = s.get CLF.pg CLF.TOPO_ROOT) :
    ∃ t, exec (.clfTimeRx dt p f fine) s = .next t ∧ t.clf.got = 0 :: s.clf.got ∧ t.clf.seenArm = f.armed ∧
      t.clf.timeSf = s.timeSfOf f ∧ t.clf.timeN = s.timeNext f := by
  obtain ⟨w, hw⟩ : ∃ w, w = (s.advance dt).timeHeard p f := ⟨_, rfl⟩
  obtain ⟨v, hv⟩ : ∃ v, w.clf = { s.clf with ports := v } := by
    obtain ⟨v, hv⟩ := (s.advance dt).timeHeard_clf p f
    exact ⟨v, by rw [hw, hv, State.advance_clf]⟩
  have hget (x : Fld) : w.get CLF.pg x = s.get CLF.pg x := by rw [hw, State.get_timeHeard, State.get_advance]
  have hkeep : w.slotCheck 0 f.src = (true, w.clfSet fun c => { c with got := 0 :: c.got }) := by
    unfold State.slotCheck
    rw [hv, if_pos rfl, hget]
    simp [hquar, hgot, hclash, hsrc]
  have hrun := clfTimeRx_eq (dt := dt) (f := f) (fine := fine) hst hup
  rw [← hw, hkeep, if_neg (by simp [hgood]), if_neg (by rw [State.clfSet_clf, hv]; simp [hroot])] at hrun
  obtain ⟨hgot', harm, hsf, hn⟩ := State.timeTaken_shows (w.clfSet fun c => { c with got := 0 :: c.got }) p f
    (((w.clfSet fun c => { c with got := 0 :: c.got }).fineNow + fine : Nat) : Int)
    (f.t0 + f.corr + signed 32 ((w.clfSet fun c => { c with got := 0 :: c.got }).get CLF.pg (pdFld p)))
  have hsf' : (w.clfSet fun c => { c with got := 0 :: c.got }).timeSfOf f = s.timeSfOf f := by
    rw [State.timeSfOf, State.timeSfOf, State.get_clfSet, hget]
  refine ⟨_, hrun, hgot'.trans ?_, harm, hsf.trans hsf', hn.trans ?_⟩
  · rw [State.clfSet_clf, hv]
  · rw [State.timeNext, State.timeNext, hsf', State.clfSet_clf, hv]

end Taken

end Sys2Proof.Machine
end

section
/-! SUPPORT. O59, continued: the own slots of a node (R440, R447, R449). -/

namespace Sys2Proof.Machine
open Sys2Proof

@[simp] theorem State.slot_advance (s : State) (dt bank i : Nat) : (s.advance dt).slot bank i = s.slot bank i := by
  simp only [State.slot, State.slotWord, State.rd_advance]

@[simp] theorem State.clfBank_advance (s : State) (dt : Nat) : (s.advance dt).clfBank = s.clfBank := s.get_advance ..

/-! ### What a node sends in its slot (R440) -/

/-- A frame for both ports leaves each port that carries frames, and differs there in its hops alone. -/
theorem State.broadcast_sent (s : State) (f : ClfFrame) {p : Fin 2} (h : s.portUp p = true) :
    ∃ n, (vget (s.broadcast f).clf.ports p).sent = some { f with hops := n } := by
  match p with
  | 0 => exact ⟨_, s.sendBoth_sent _ _ h⟩
  | 1 => exact ⟨_, s.sendBoth_sent _ _ h⟩

theorem PortsOnly.broadcast (s : State) (f : ClfFrame) : PortsOnly s (s.broadcast f) := (sendOn ..).trans (sendOn ..)

/-- A frame sent in slot `i` marks the slot as taken and leaves both ports with the next SEQ of its stream. -/
theorem State.slotSend_shows (s : State) (i stream type : Nat) (ws : List W32) :
    (s.slotSend i stream type ws).clf.got = i :: s.clf.got ∧ (s.slotSend i stream type ws).clf.txbuf = s.clf.txbuf ∧
      ∀ p, s.portUp p = true → ∃ f, (vget (s.slotSend i stream type ws).clf.ports p).sent = some f ∧ f.type = type ∧
        f.payload = ws ∧ f.slot = i ∧ f.seq = mapGet (fun _ => 0) s.clf.txSeq stream := by
  obtain ⟨w, hw⟩ : ∃ w, w = (s.nextSeq stream).2 := ⟨_, rfl⟩
  obtain ⟨f, hf⟩ : ∃ f : ClfFrame, f = ⟨0xFF, w.get CLF.pg CLF.TOPO_ID, stream, type, (s.nextSeq stream).1, 0, i, ws⟩ := ⟨_, rfl⟩
  have hsend : s.slotSend i stream type ws = (w.broadcast f).clfSet fun c => { c with got := i :: c.got } := by
    rw [hf, hw]
    rfl
  obtain ⟨v, hv⟩ := (PortsOnly.broadcast w f).ports
  have hclf : (w.broadcast f).clf = { w.clf with ports := v } := by
    rw [hv]
    rfl
  rw [hsend, State.clfSet_clf]
  refine ⟨?_, ?_, fun p hup => ?_⟩
  · rw [hclf, hw]
    rfl
  · rw [hclf, hw]
    rfl
  · have hupw : w.portUp p = true := by
      rw [hw]
      exact hup
    obtain ⟨n, hn⟩ := w.broadcast_sent f hupw
    exact ⟨_, hn, by rw [hf], by rw [hf], by rw [hf], by rw [hf]; rfl⟩

/-! ### The read of the payload (R440) -/

section Own

variable {dt : Nat} {i : Fin 255} {s u : State} {x : Slot} (hu : u = s.advance dt) (hx : x = s.slot s.clfBank i)
  (hst : s.clfState = 4) (hquar : i.1 ∉ s.clf.quar) (hen : x.en = true) (hown : x.owner = s.get CLF.pg CLF.TOPO_ID)

include hu hx

theorem State.slot_turn : u.slot u.clfBank i = x := by rw [hu, State.clfBank_advance, State.slot_advance, hx]

include hst hquar hen hown

theorem clfTxbufRead_reads (hsrc : x.srck = 0)
    (hlead : (x.start + s.get CLF.pg CLF.SF - u.sfPhase) % s.get CLF.pg CLF.SF ≤ 64) :
    ∃ t, exec (.clfTxbufRead dt i) s = .next t ∧
      t.clf.txbuf = some (i.1, (List.range (x.plen / 4)).map fun k => s.rdMem (x.txbuf + 4 * k)) := by
  have hmem : (fun k => u.rdMem (x.txbuf + 4 * k)) = fun k => s.rdMem (x.txbuf + 4 * k) :=
    funext fun k => by rw [hu, State.rdMem, State.rdMem, State.rdBytes_advance]
  refine ⟨(u.grantedN 9 x.txbuf (x.plen / 4)).clfSet fun c =>
    { c with txbuf := some (i.1, (List.range (x.plen / 4)).map fun k => u.rdMem (x.txbuf + 4 * k)) }, ?_, ?_⟩
  · have hslot := State.slot_turn hu hx
    change execClfTxbufRead dt i s = _
    unfold execClfTxbufRead
    simp only [← hu, hslot]
    refine if_pos ⟨?_, hen, hsrc, ?_, ?_, ?_⟩
    · rw [hu, State.clfState_advance, hst]
    · rw [hown, hu, State.get_advance]
    · rw [hu] at hlead ⊢
      rwa [State.get_advance]
    · rw [hu, State.advance_clf]
      simpa using hquar
  · rw [State.clfSet_clf, hmem]

/-! ### The start of an own slot (R440, R449) -/

omit hu hx hst hquar hen hown in
/-- What the owner of slot `i` does at its start. -/
def State.slotTurn (s : State) (i : Fin 255) (x : Slot) (done : Bool) : Host.Outcome State Fault Refusal :=
  if x.srck = 1 then .next (s.slotSend i.1 x.stream 3 s.clf.safeMsg)
  else if x.srck = 0 then
    match s.clf.txbuf, done with
    | some (j, ws), true =>
      let s := s.clfSet fun c => { c with txbuf := none }
      if j = i.1 then .next (s.slotSend i.1 x.stream 1 ws)
      else .next ((s.incSat CLF.pg CLF.CNT1_TXLATE).note 0xF07 1 0 0)
    | _, _ => .next (((s.clfSet fun c => { c with txbuf := none }).incSat CLF.pg CLF.CNT1_TXLATE).note 0xF07 1 0 0)
  else .next s

variable (hroot : ¬(i.1 = 0 ∧ s.clf.isRoot = true)) (hphase : u.sfPhase = x.start) (hgot : i.1 ∉ s.clf.got)

include hroot hphase hgot

theorem clfSlotTx_turn (done : Bool) : exec (.clfSlotTx dt i done) s = u.slotTurn i x done := by
  have hslot := State.slot_turn hu hx
  have hclf : u.clf = s.clf := by rw [hu, State.advance_clf]
  have hroot' : ¬(i.1 = 0 ∧ u.clf.isRoot = true) := by rwa [hclf]
  change execClfSlotTx dt i done s = _
  unfold execClfSlotTx
  simp only [← hu, hslot, if_neg hroot']
  have hrun : u.clfState = 4 := by rw [hu, State.clfState_advance, hst]
  have hmine : x.owner = u.get CLF.pg CLF.TOPO_ID := by rw [hu, State.get_advance, hown]
  have hfree : ¬ u.clf.quar.contains i.1 = true ∧ ¬ u.clf.got.contains i.1 = true := by simpa [hclf] using ⟨hquar, hgot⟩
  rw [if_pos ⟨hrun, hphase, hfree⟩, if_neg fun h => h ⟨hen, hmine⟩]
  rfl

theorem clfSlotTx_sends {ws : List W32} (hsrc : x.srck = 0) (hbuf : s.clf.txbuf = some (i.1, ws)) :
    ∃ t, exec (.clfSlotTx dt i true) s = .next t ∧ t.clf.got = i.1 :: s.clf.got ∧ t.clf.txbuf = none ∧
      ∀ p, s.portUp p = true → ∃ f, (vget t.clf.ports p).sent = some f ∧ f.type = 1 ∧ f.payload = ws ∧
        f.slot = i.1 ∧ f.seq = mapGet (fun _ => 0) s.clf.txSeq x.stream := by
  have hclf : u.clf = s.clf := by rw [hu, State.advance_clf]
  obtain ⟨hgot', htx, hsent⟩ := (u.clfSet fun c => { c with txbuf := none }).slotSend_shows i.1 x.stream 1 ws
  refine ⟨_, (clfSlotTx_turn hu hx hst hquar hen hown hroot hphase hgot true).trans ?_, hgot'.trans ?_, htx, fun p hup => ?_⟩
  · unfold State.slotTurn
    rw [if_neg (by simp [hsrc]), if_pos hsrc, hclf, hbuf]
    exact if_pos rfl
  · rw [State.clfSet_clf, hclf]
  · rw [State.clfSet_clf, hclf] at hsent
    exact hsent p (by rw [hu]; exact (s.portUp_advance dt p).trans hup)

theorem clfSlotTx_safety (hsrc : x.srck = 1) (done : Bool) :
    ∃ t, exec (.clfSlotTx dt i done) s = .next t ∧ t.clf.got = i.1 :: s.clf.got ∧
      ∀ p, s.portUp p = true → ∃ f, (vget t.clf.ports p).sent = some f ∧ f.type = 3 ∧ f.payload = s.clf.safeMsg := by
  have hclf : u.clf = s.clf := by rw [hu, State.advance_clf]
  obtain ⟨hgot', -, hsent⟩ := u.slotSend_shows i.1 x.stream 3 u.clf.safeMsg
  refine ⟨_, (clfSlotTx_turn hu hx hst hquar hen hown hroot hphase hgot done).trans (if_pos hsrc), ?_, fun p hup => ?_⟩
  · rw [hgot', hclf]
  · obtain ⟨f, hf, htype, hpay, -⟩ := hsent p (by rw [hu, State.portUp_advance, hup])
    exact ⟨f, hf, htype, hpay.trans (by rw [hclf])⟩

theorem clfSlotTx_late (hsrc : x.srck = 0) (hbuf : s.clf.txbuf = none) (done : Bool) :
    ∃ t, exec (.clfSlotTx dt i done) s = .next t ∧ t.clf.got = s.clf.got ∧
      t.get CLF.pg CLF.CNT1_TXLATE = min 255 (s.get CLF.pg CLF.CNT1_TXLATE + 1) := by
  have hclf : u.clf = s.clf := by rw [hu, State.advance_clf]
  refine ⟨((u.clfSet fun c => { c with txbuf := none }).incSat CLF.pg CLF.CNT1_TXLATE).note 0xF07 1 0 0,
    (clfSlotTx_turn hu hx hst hquar hen hown hroot hphase hgot done).trans ?_, ?_, ?_⟩
  · unfold State.slotTurn
    rw [if_neg (by simp [hsrc]), if_pos hsrc, hclf, hbuf]
  · rw [State.note_clf, (Unmoved.incSat ..).clf, State.clfSet_clf, hclf]
  · rw [State.get_note_clf _ _ _ _ _ (by decide), State.get_incSat_same _ (by decide) (by decide) (by decide),
      State.get_clfSet, hu, State.get_advance]
    rfl

end Own

/-! ### Slot 0 of the root (R447) -/

/-- The payload of the TIME frame that the root sends. -/
def State.rootTime (s : State) : List W32 :=
  timeWords (unsigned 64 (s.fabricTime * 128)) 0 (s.slotWord s.clfBank 255 0 % 65536)
    (if s.on CLF.pg CLF.SLOTCTL_ARMED then s.get CLF.pg CLF.SWAPAT else 0xFFFFFFFF)

theorem clfSlotTx_root {dt : Nat} {done : Bool} {s : State} (hst : s.clfState = 4) (hroot : s.clf.isRoot = true)
    (hphase : (s.advance dt).sfPhase = 0) (hquar : 0 ∉ s.clf.quar) (hgot : 0 ∉ s.clf.got) :
    ∃ t, exec (.clfSlotTx dt 0 done) s = .next t ∧ t.clf.got = 0 :: s.clf.got ∧
      ∀ p, s.portUp p = true → ∃ f, (vget t.clf.ports p).sent = some f ∧ f.type = 2 ∧ f.slot = 0 := by
  obtain ⟨hgot', -, hsent⟩ := (s.advance dt).slotSend_shows 0 0 2 (s.advance dt).rootTime
  refine ⟨(s.advance dt).slotSend 0 0 2 (s.advance dt).rootTime, ?_, ?_, fun p hup => ?_⟩
  · have htime : ((0 : Fin 255).1 = 0 ∧ (s.advance dt).clf.isRoot = true) := ⟨rfl, by rw [State.advance_clf, hroot]⟩
    change execClfSlotTx dt 0 done s = _
    unfold execClfSlotTx
    simp only [if_pos htime]
    exact if_pos ⟨(s.clfState_advance dt).trans hst, hphase, by simpa using hquar, by simpa using hgot⟩
  · rw [hgot', State.advance_clf]
  · obtain ⟨f, hf, htype, -, hslot, -⟩ := hsent p ((s.portUp_advance dt p).trans hup)
    exact ⟨f, hf, htype, hslot⟩

/-- Settles O59: a frame is checked as its header completes and then answered by the first rule that applies; what a node
sends in its slot is one broadcast with the next SEQ of the stream. -/
theorem clepoFramesAndSlots : Obligations.ClepoFramesAndSlots := by
  unfold Obligations.ClepoFramesAndSlots
  refine ⟨fun dt p f s u good marked hst hup hu => ⟨fun hslot => ⟨?_, ?_, ?_, ?_⟩, ?_⟩,
    fun dt s h => errorRateWindowStart_resets h, fun dt p fine f s hst hup => ⟨clfTimeRx_damaged hst hup, clfTimeRx_takes hst hup⟩,
    fun dt i s u x hu hx hst hquar hen hown => ⟨clfTxbufRead_reads hu hx hst hquar hen hown,
      fun hroot hphase hgot => ⟨?_, ?_, ?_⟩⟩,
    fun dt done s => clfSlotTx_root⟩
  · exact clfFrameRx_marked hst hup hu hslot
  · exact clfFrameRx_damaged hst hup hu hslot
  · exact clfFrameRx_unknown hst hup hu hslot
  · exact clfFrameRx_delivers hst hup hu hslot
  · intro htype hhead hFF h0 hquar hgood hm
    exact ⟨clfFrameRx_keeps hst hup hu htype hhead hFF h0 hquar hgood hm,
      clfFrameRx_conflicts hst hup hu htype hhead hFF h0 hquar hgood hm⟩
  · exact fun ws => clfSlotTx_sends hu hx hst hquar hen hown hroot hphase hgot
  · exact clfSlotTx_safety hu hx hst hquar hen hown hroot hphase hgot
  · exact clfSlotTx_late hu hx hst hquar hen hown hroot hphase hgot

end Sys2Proof.Machine
end

section
/-! SUPPORT. O60: what a reaction that stops motion leaves (R331), and the start of a superframe (R437, R442, R443, R450). -/

namespace Sys2Proof.Machine
open Sys2Proof

/-! ### The reactions FR3 and FR4 (R331, R345, R346) -/

/-- What the reactions FR3 and FR4 change beside the ends of change sets. -/
def Part.stops : List Part := [.dma, .dmaReq, .evrAt, .halo, .msv, .pos, .sets, .tpw, .block .dma, .block .hlo, .block .msv,
  .block .pos, .block .ssf, .block .sto, .block .sys, .block .tpw]

/-- A relation that holds over whatever a reaction FR3 or FR4 does: changes of the parts that it stops, and ends of change
sets. -/
structure OverStops (R : State → State → Prop) : Prop where
  refl : ∀ s, R s s
  trans : ∀ {s t u}, R s t → R t u → R s u
  stops : ∀ {s t}, Kept Part.stops s t → R s t
  csetEnd : ∀ (s : State) (r : Fin 16) (code : Nat), R s (s.csetEnd r code)

namespace OverStops

variable {R : State → State → Prop} {s t : State}

theorem ite {c : Prop} [Decidable c] {u : State} (h : R s t) (h' : R s u) : R s (if c then t else u) := by split <;> assumption

variable (hR : OverStops R)

include hR

theorem csetStop (s : State) : R s s.csetStop.1 := by
  suffices hfold : ∀ (f : State × Bool → Fin 16 → State × Bool), (∀ a r, R a.1 (f a r).1) → ∀ (l : List (Fin 16)) a,
      R a.1 (l.foldl f a).1 by
    refine hfold _ (fun a r => ?_) _ (s, false)
    dsimp only
    split
    · split
      · exact hR.refl _
      · split
        · split
          · exact hR.refl _
          · exact hR.stops (.step (.refl _) (.sets_upd ..))
        · exact hR.csetEnd ..
    · exact hR.refl _
  intro f hf l
  induction l with
  | nil => exact fun a => hR.refl a.1
  | cons r l ih => exact fun a => hR.trans (hf a r) (ih _)

theorem stopCommits (s : State) : R s s.stopCommits := by
  have h := hR.csetStop s
  unfold State.stopCommits
  rcases hstop : s.csetStop with ⟨u, hit⟩
  rw [hstop] at h
  exact ite (hR.trans h (hR.stops (.step (.step (.refl u) (.evt ..)) (.note ..)))) h

theorem applyFr4 (s : State) (m : Nat) : R s (s.applyFr4 m) := hR.stops (.step (.refl s) (.applyFr4 ..))

theorem escalate (s : State) (m code : Nat) : R s (s.escalate m code) := by
  have hcount (t : State) : Kept Part.stops t (if t.bitOn SSF.pg SSF.STAT_SS1 m then t
      else (t.put SSF.pg (SSF.MSTAT_STATE.ix m) 3).incSat SSF.pg SSF.CNT_ESCALATED) :=
    .ite (.refl t) (.step (.step (.refl t) (.put ..)) (.incSat ..))
  have hshow : Kept Part.stops s ((s.note code 4 (2 ^ m) 0).evt SSF.pg
      (if code = 0xB09 then SSF.EVT_SS1_ESC else SSF.EVT_SS1_FAIL)) := .step (.step (.refl s) (.note ..)) (.evt ..)
  unfold State.escalate
  dsimp only
  exact hR.trans (hR.stops (.step (.step (hshow.trans (hcount _)) (.stopSet ..)) (.applyFr4 ..))) (hR.stopCommits _)

theorem stopSelect (s : State) (m : Nat) : R s (s.stopSelect m) := by
  have hdone (t : State) : Kept Part.stops t (t.stopSet m fun h => { h with done := true }) := .step (.refl t) (.stopSet ..)
  have hcomplete (t : State) : Kept Part.stops t ((((t.stopSet m fun h => { h with done := true }).put SSF.pg
      (SSF.MSTAT_STATE.ix m) 2).incSat SSF.pg SSF.CNT_SS1_DONE).evt SSF.pg SSF.EVT_SS1_DONE) :=
    .step (.step (.step (hdone t) (.put ..)) (.incSat ..)) (.evt ..)
  unfold State.stopSelect
  dsimp only
  refine ite (hR.refl s) (ite (hR.stops (.step (hdone s) (.stoAssert ..))) ?_)
  split
  · exact hR.stops (hcomplete s)
  · exact hR.stops (hcomplete s)
  · exact hR.stops (.step (hcomplete s) (.stoAssert ..))
  · exact hR.escalate ..
  · refine ite (hR.stops ?_) (hR.escalate ..)
    exact .step (.step (.step (.step (.step (.step (.refl s) (.stopSet ..)) (.putBit ..)) (.put ..)) (.evt ..)) (.setWord ..))
      (.msvSs1 ..)

theorem applyFr3 (s : State) (m : Nat) : R s (s.applyFr3 m) := by
  have h : R s ((s.putBit HLO.pg HLO.STAT_FR3 m true).evt HLO.pg HLO.EVT_FR3) :=
    hR.stops (.step (.step (.refl s) (.putBit ..)) (.evt ..))
  exact ite h (hR.trans h (hR.stopSelect ..))

theorem machines {f : State → Nat → State} (h : ∀ s m, R s (f s m)) (s : State) (mask : Nat) : R s (s.machines mask f) :=
  State.foldl_related hR.refl hR.trans (fun s m => ite (h s m) (hR.refl s)) _ s

/-- A fault of reaction FR3 or FR4. -/
theorem raise (s : State) (code : Nat) {react : Nat} (machs aux : Nat) (h : react = 3 ∨ react = 4) :
    R s (s.raise code react machs aux) := by
  have hlog : R s (s.abortTransition.logEntry code react machs aux s.now) :=
    hR.stops (.step (.step (.refl s) (.abortTransition ..)) (.logEntry ..))
  unfold State.raise State.raiseAt
  rw [if_pos (by omega)]
  refine hR.trans (hR.trans hlog ?_) (hR.stopCommits _)
  rcases h with rfl | rfl
  · exact hR.machines hR.applyFr3 _ _
  · exact hR.machines hR.applyFr4 _ _

end OverStops

/-! ### What stands over the rest of a boundary (R437, R443) -/

/-- From `s` to `t` the number and the tick of the superframe stand, and so do the slots received, those in conflict and those
in quarantine. -/
structure SuperframeStands (s t : State) : Prop where
  lo : t.get CLF.pg CLF.SFNUM_LO = s.get CLF.pg CLF.SFNUM_LO
  hi : t.get CLF.pg CLF.SFNUM_HI = s.get CLF.pg CLF.SFNUM_HI
  tick : t.sfTick = s.sfTick
  got : t.clf.got = s.clf.got
  clash : t.clf.clash = s.clf.clash
  quar : t.clf.quar = s.clf.quar

namespace SuperframeStands

variable {s t u : State}

theorem refl (s : State) : SuperframeStands s s := ⟨rfl, rfl, rfl, rfl, rfl, rfl⟩

theorem trans (h : SuperframeStands s t) (h' : SuperframeStands t u) : SuperframeStands s u :=
  ⟨h'.lo.trans h.lo, h'.hi.trans h.hi, h'.tick.trans h.tick, h'.got.trans h.got, h'.clash.trans h.clash,
    h'.quar.trans h.quar⟩

theorem ite {c : Prop} [Decidable c] (h : SuperframeStands s t) (h' : SuperframeStands s u) :
    SuperframeStands s (if c then t else u) := by split <;> assumption

theorem foldl {α : Type} {f : State → α → State} (h : ∀ s a, SuperframeStands s (f s a)) (l : List α) (s : State) :
    SuperframeStands s (l.foldl f s) := State.foldl_related refl trans h l s

/-- What keeps the words of the number and the hidden state of Clepo. -/
theorem of_words (hword : ∀ x : Fld, x.off = 0x060 ∨ x.off = 0x064 → t.get CLF.pg x = s.get CLF.pg x)
    (htick : t.sfTick = s.sfTick) (hclf : t.clf = s.clf) : SuperframeStands s t :=
  ⟨hword _ (.inl rfl), hword _ (.inr rfl), htick, by rw [hclf], by rw [hclf], by rw [hclf]⟩

theorem of_kept {G : List Part} (k : Kept G s t) (hblock : .block .clf ∉ G := by decide) (htick : .sfTick ∉ G := by decide)
    (hclf : .clf ∉ G := by decide) : SuperframeStands s t :=
  of_words (fun _ hx => State.get_within k.within (inPage_clf (by omega)) hblock) (k.within .sfTick htick) (k.within .clf hclf)

theorem clfSet (s : State) {f : ClfH → ClfH} (hgot : ∀ c, (f c).got = c.got) (hclash : ∀ c, (f c).clash = c.clash)
    (hquar : ∀ c, (f c).quar = c.quar) : SuperframeStands s (s.clfSet f) := ⟨rfl, rfl, rfl, hgot _, hclash _, hquar _⟩

theorem flag (s : State) (y : Fld) (b : Bool) (hy : y.off ≠ 0x060 ∧ y.off ≠ 0x064) : SuperframeStands s (s.flag CLF.pg y b) :=
  of_words (fun _ hx => s.get_flag_off _ (by omega)) ((Kept.flag s CLF.pg y b).within .sfTick (by simp)) (s.flag_clf ..)

theorem put (s : State) (y : Fld) (v : Nat) (hy : y.off ≠ 0x060 ∧ y.off ≠ 0x064) : SuperframeStands s (s.put CLF.pg y v) :=
  of_words (fun _ hx => s.get_put_off _ (by omega)) ((Kept.put s CLF.pg y v).within .sfTick (by simp))
    ((Kept.put s CLF.pg y v).within .clf (by simp))

theorem incSat (s : State) (y : Fld) (hy : y.off ≠ 0x060 ∧ y.off ≠ 0x064) : SuperframeStands s (s.incSat CLF.pg y) :=
  of_words (fun _ hx => s.get_incSat_off (by omega)) ((Kept.incSat s CLF.pg y).within .sfTick (by simp))
    ((Kept.incSat s CLF.pg y).within .clf (by simp))

theorem evt (s : State) (y : Fld) : SuperframeStands s (s.evt CLF.pg y) :=
  of_words (fun _ hx => s.get_evt_clf y (by omega) (by omega)) ((Kept.evt s CLF.pg y).within .sfTick (by simp)) (s.evt_clf ..)

theorem evtIf (s : State) (c : Bool) (y : Fld) : SuperframeStands s (s.evtIf c CLF.pg y) := ite (evt s y) (refl s)

theorem withTopo {f : State → State} (h : SuperframeStands s (f s)) : SuperframeStands s (s.withTopo f) := h.trans (evtIf ..)

theorem note (s : State) (code react machs aux : Nat) : SuperframeStands s (s.note code react machs aux) := of_kept (.note ..)

theorem clfGo (s : State) (st : Nat) : SuperframeStands s (s.clfGo st) :=
  of_words (fun _ hx => s.get_clfGo st (by omega) (by omega) (by omega)) ((Kept.clfGo s st).within .sfTick (by simp))
    (s.clfGo_clf st)

theorem clfDiscover (s : State) (keep : Bool) : SuperframeStands s (s.clfDiscover keep) := by
  have hown := clfSet s (f := fun c => { c with
    best := if s.get CLF.pg CLF.CFG_ROOT_PRI < 15 then some (s.get CLF.pg CLF.CFG_ROOT_PRI, s.deviceId) else none
    ring := false, dup := false, dupSeen := false, idHeld := keep && c.idHeld }) (fun _ => rfl) (fun _ => rfl) (fun _ => rfl)
  exact hown.trans (withTopo (flag _ CLF.TOPO_VALID false (by decide)))

theorem rootLost (s : State) : SuperframeStands s s.rootLost := by
  have hlost : SuperframeStands s (((s.evt CLF.pg CLF.EVT_ROOT).note 0xF04 1 0 0).clfDiscover true) :=
    ((evt ..).trans (note ..)).trans (clfDiscover ..)
  have hmark (t : State) : SuperframeStands t (t.clfSet fun c => { c with rootSf := t.sfNum }) :=
    clfSet t (fun _ => rfl) (fun _ => rfl) (fun _ => rfl)
  unfold State.rootLost
  dsimp only
  exact ite ((hlost.trans (hmark _)).trans (clfGo ..)) (hlost.trans (hmark _))

theorem fabLost (s : State) : SuperframeStands s s.fabLost := by
  have hflags : SuperframeStands s ((s.flag TBU.pg TBU.STAT_FAB_VALID false).flag TBU.pg TBU.STAT_FAB_DISC false) :=
    (of_kept (.flag s TBU.pg TBU.STAT_FAB_VALID false)).trans (of_kept (.flag ..))
  have htbu (t : State) : SuperframeStands t (t.tbuSet fun h => { h with steerSince := none, steerRaised := false }) :=
    ⟨rfl, rfl, rfl, rfl, rfl, rfl⟩
  have hclf (t : State) : SuperframeStands t (t.clfSet fun c => { c with timeN := 0, isRoot := false }) :=
    clfSet t (fun _ => rfl) (fun _ => rfl) (fun _ => rfl)
  have hcold := (hflags.trans (htbu _)).trans (hclf _)
  exact ite (hcold.trans ((of_kept (.evt _ TBU.pg TBU.EVT_FAB_LOST)).trans (note ..))) hcold

theorem safeMessage (s : State) : SuperframeStands s s.safeMessage := by
  unfold State.safeMessage
  exact clfSet s (fun _ => rfl) (fun _ => rfl) (fun _ => rfl)

end SuperframeStands

theorem overStops_superframeStands : OverStops SuperframeStands where
  refl := .refl
  trans := .trans
  stops k := .of_kept k
  csetEnd s r code := by
    have hkept := Kept.csetEnd s r code
    exact .of_words (fun x hx => State.get_eq_of_rd (s.rd_csetEnd_word r code (by omega) (by omega)) rfl)
      (hkept.within .sfTick (by decide)) (hkept.within .clf (by decide))

end Sys2Proof.Machine
end

section
/-! SUPPORT. O60, continued: the boundary of a superframe (R437, R441, R442, R443, R447, R449, R450). -/

namespace Sys2Proof.Machine
open Sys2Proof

/-! ### The peers (R450) -/

/-- What Halo keeps of a peer, and what it does when the peer demands a stop or falls silent. -/
theorem SuperframeStands.peerTold {s : State} {f : ClfH → ClfH} (h : ∀ t, SuperframeStands t (t.clfSet f)) (c : Bool)
    (code machs : Nat) {react : Nat} (hreact : react = 3 ∨ react = 4) : SuperframeStands s
      (if c then ((s.clfSet f).evt CLF.pg CLF.EVT_PEER).raise code react machs else s.clfSet f) :=
  ite (((h s).trans (evt _ CLF.EVT_PEER)).trans (overStops_superframeStands.raise _ code machs 0 hreact)) (h s)

theorem SuperframeStands.peerCheck (s : State) (k : Fin 8) : SuperframeStands s (s.peerCheck k) := by
  have hreact : (if s.get CLF.pg (CLF.PSUB_ACT.ix k) = 1 then 4 else 3) = 3 ∨
      (if s.get CLF.pg (CLF.PSUB_ACT.ix k) = 1 then 4 else 3) = 4 := by
    split <;> simp
  unfold State.peerCheck
  dsimp only
  refine ite (ite ?_ ?_) (refl s)
  · refine peerTold ?_ _ _ _ hreact
    exact fun t => clfSet t (fun _ => rfl) (fun _ => rfl) (fun _ => rfl)
  · refine peerTold ?_ _ _ _ hreact
    exact fun t => clfSet t (fun _ => rfl) (fun _ => rfl) (fun _ => rfl)

/-! ### The steps of a boundary -/

/-- The superframe has the number `n`, and starts now. -/
def State.sfNumbered (s : State) (n : Nat) : State := { s.put64 CLF.pg CLF.SFNUM_LO n with sfTick := some s.now }

/-- A swap that is armed for superframe `n` takes place. -/
def State.sfSwapped (s : State) (n : Nat) : State :=
  if s.on CLF.pg CLF.SLOTCTL_ARMED ∧ s.get CLF.pg CLF.SWAPAT = n then
    ((s.put CLF.pg CLF.SLOTCTL_ACTIVE (1 - s.clfBank)).flag CLF.pg CLF.SLOTCTL_ARMED false).evt CLF.pg CLF.EVT_SWAPPED
  else s

/-- The slots in conflict go into quarantine, and no slot is received. -/
def State.sfMarks (s : State) : State :=
  s.clfSet fun c => { c with quar := s.clf.clash, clash := [], got := [] }

/-- The registers show the slots in quarantine. -/
def State.sfShows (s : State) (q : List Nat) : State :=
  (q.foldl (fun (s : State) (i : Nat) => (s.put CLF.pg CLF.QUAR_SLOT i).incSat CLF.pg CLF.CNT1_QUAR) s).flag CLF.pg CLF.QUAR_ON
    !q.isEmpty

/-- A ring with a port that is not up is no ring. -/
def State.sfRing (s : State) : State :=
  if s.clf.ring && !(s.portUp 0 && s.portUp 1) then
    (s.clfSet fun c => { c with ring := false }).withTopo fun s => s.flag CLF.pg CLF.TOPO_RING false
  else s

/-- No TIME frame, or no HELLO of the root, for too long before superframe `n`. -/
def State.sfLost (s : State) (n : Nat) : State :=
  let lostN := s.get CLF.pg CLF.TIME_LOST_N
  let noTime := s.on TBU.pg TBU.STAT_FAB_VALID &&
    (if s.clf.isRoot then decide (s.clfState = 0) else decide (s.clf.timeSf + lostN < n))
  let noHello := !s.clf.isRoot && s.get CLF.pg CLF.TOPO_HOPS == 1 && decide (s.clf.rootSf + lostN < n)
  let s := if noTime then s.fabLost else s
  if (noTime || noHello) && decide (3 ≤ s.clfState) then s.rootLost else s

/-- The state at a boundary after the swap, with the marks of the slots set anew. -/
def State.sfStarted (s : State) (n : Nat) : State := ((s.sfNumbered n).sfSwapped n).sfMarks

/-- The rest of a boundary. -/
def State.sfRest (s : State) (q : List Nat) (n : Nat) : State :=
  (List.finRange 8).foldl State.peerCheck (((s.sfShows q).sfRing).sfLost n).safeMessage

/-- The number of the superframe that starts. -/
def State.sfNext (s : State) : Nat := (s.fabricTime / (s.get CLF.pg CLF.SF : Int)).toNat

theorem State.superframe_eq {s : State} (h : s.superframeDue = true) :
    s.superframe = (s.sfStarted s.sfNext).sfRest ((s.sfNumbered s.sfNext).sfSwapped s.sfNext).clf.clash s.sfNext := by
  unfold State.superframe
  exact if_pos h

namespace SuperframeStands

theorem sfSwapped (s : State) (n : Nat) : SuperframeStands s (s.sfSwapped n) :=
  ite (((put s CLF.SLOTCTL_ACTIVE _ (by decide)).trans (flag _ CLF.SLOTCTL_ARMED false (by decide))).trans (evt ..)) (refl s)

theorem sfShows (s : State) (q : List Nat) : SuperframeStands s (s.sfShows q) :=
  (foldl (fun t i => (put t CLF.QUAR_SLOT i (by decide)).trans (incSat _ CLF.CNT1_QUAR (by decide))) q s).trans
    (flag _ CLF.QUAR_ON _ (by decide))

theorem sfRing (s : State) : SuperframeStands s s.sfRing := by
  have hring : SuperframeStands s (s.clfSet fun c => { c with ring := false }) :=
    clfSet s (fun _ => rfl) (fun _ => rfl) (fun _ => rfl)
  exact ite (hring.trans (withTopo (flag _ CLF.TOPO_RING false (by decide)))) (refl s)

theorem sfLost (s : State) (n : Nat) : SuperframeStands s (s.sfLost n) := by
  have htime (c : Bool) : SuperframeStands s (if c then s.fabLost else s) := ite (fabLost s) (refl s)
  unfold State.sfLost
  dsimp only
  exact (htime _).trans (ite (rootLost _) (refl _))

theorem sfRest (s : State) (q : List Nat) (n : Nat) : SuperframeStands s (s.sfRest q n) :=
  ((((sfShows s q).trans (sfRing _)).trans (sfLost _ n)).trans (safeMessage _)).trans (foldl peerCheck _ _)

end SuperframeStands

theorem State.get64_sfNum (s : State) : s.sfNum = s.get CLF.pg CLF.SFNUM_LO + s.get CLF.pg CLF.SFNUM_HI * 2 ^ 32 := by
  rw [State.get_word _ rfl rfl, State.get_word _ rfl rfl]
  rfl

theorem SuperframeStands.sfNum {s t : State} (h : SuperframeStands s t) : t.sfNum = s.sfNum := by
  rw [State.get64_sfNum, State.get64_sfNum, h.lo, h.hi]

theorem State.sfMarks_shows (s : State) : s.sfMarks.sfNum = s.sfNum ∧ s.sfMarks.sfTick = s.sfTick ∧ s.sfMarks.clf.got = [] ∧
    s.sfMarks.clf.quar = s.clf.clash ∧ s.sfMarks.clf.clash = [] := ⟨rfl, rfl, rfl, rfl, rfl⟩

theorem State.sfNumbered_shows (s : State) (n : Nat) : (s.sfNumbered n).sfNum = n % 2 ^ 64 ∧
    (s.sfNumbered n).sfTick = some s.now ∧ (s.sfNumbered n).clf = s.clf :=
  ⟨s.get64_put64 n (inPage_clf (by decide)) (inPage_clf (by decide)), rfl, (Unmoved.put64 s CLF.pg CLF.SFNUM_LO n).clf⟩

/-- What a boundary leaves of the superframe. -/
theorem State.superframe_shows {s : State} (h : s.superframeDue = true) : s.superframe.sfNum = s.sfNext % 2 ^ 64 ∧
    s.superframe.sfTick = some s.now ∧ s.superframe.clf.got = [] ∧ s.superframe.clf.quar = s.clf.clash ∧
    s.superframe.clf.clash = [] := by
  rw [State.superframe_eq h]
  generalize s.sfNext = n
  obtain ⟨hnum, htick, hclf⟩ := s.sfNumbered_shows n
  have hswap := SuperframeStands.sfSwapped (s.sfNumbered n) n
  obtain ⟨hnum', htick', hgot, hquar, hclash⟩ := ((s.sfNumbered n).sfSwapped n).sfMarks_shows
  have hrest := SuperframeStands.sfRest (s.sfStarted n) ((s.sfNumbered n).sfSwapped n).clf.clash n
  refine ⟨?_, ?_, hrest.got.trans hgot, ?_, hrest.clash.trans hclash⟩
  · exact hrest.sfNum.trans (hnum'.trans (hswap.sfNum.trans hnum))
  · exact hrest.tick.trans (htick'.trans (hswap.tick.trans htick))
  · exact hrest.quar.trans (hquar.trans (hswap.clash.trans (congrArg ClfH.clash hclf)))

theorem clfSuperframe_starts {dt : Nat} {s u : State} (hu : u = s.advance dt) (hdue : u.superframeDue = true) :
    exec (.clfSuperframe dt) s = .next (u.superframe.commitAt .superframe) ∧
    u.superframe.get64 CLF.pg CLF.SFNUM_LO = (u.fabricTime / (s.get CLF.pg CLF.SF : Int)).toNat % 2 ^ 64 ∧
    u.superframe.sfTick = some u.now ∧ u.superframe.clf.got = [] ∧ u.superframe.clf.quar = s.clf.clash ∧
    u.superframe.clf.clash = [] := by
  obtain ⟨hnum, hrest⟩ := State.superframe_shows hdue
  rw [State.sfNext] at hnum
  subst hu
  rw [State.get_advance] at hnum
  rw [State.advance_clf] at hrest
  exact ⟨if_pos hdue, hnum, hrest⟩

end Sys2Proof.Machine
end

section
/-! SUPPORT. O60, continued: the armed swap, the slot banks, the routes and the ring pointers (R434, R435, R438, R441, R442). -/

namespace Sys2Proof.Machine
open Sys2Proof

/-! ### The armed swap (R442) -/

@[simp] theorem State.sfNum_advance (s : State) (dt : Nat) : (s.advance dt).sfNum = s.sfNum := s.get64_advance ..

@[simp] theorem State.bankValid_advance (s : State) (dt bank : Nat) : (s.advance dt).bankValid bank = s.bankValid bank := by
  simp only [State.bankValid, State.slot_advance, State.get_advance]

/-- A whole word that is put reads back. -/
theorem State.rd_put_full (s : State) {p : Page} {x : Fld} (v : W32) (hp : inPage p x = true) (hlo : x.lo = 0)
    (hhi : x.hi = 31) : (s.put p x v.toNat).rd (fldAddr p x) = v := by
  refine BitVec.eq_of_toNat_eq ((State.get_word _ hlo hhi).symm.trans ((s.get_put_same _ hp (by omega) (by omega)).trans ?_))
  rw [hlo, hhi]
  exact Nat.mod_eq_of_lt v.isLt

theorem clfSwapatWrite_eq {dt : Nat} {req : Req} {val : W32} {s : State} :
    exec (.clfSwapatWrite dt req val) s = .next ((s.advance dt).swapAt val.toNat) := rfl

theorem clfSwapatWrite_arms {dt : Nat} {req : Req} {val : W32} {s : State} (hlater : s.sfNum < val.toNat)
    (hvalid : s.bankValid (1 - s.clfBank) = true) (hst : s.clfState = 4) :
    ∃ t, exec (.clfSwapatWrite dt req val) s = .next t ∧ t.rd (fldAddr CLF.pg CLF.SWAPAT) = val ∧
      t.on CLF.pg CLF.SLOTCTL_ARMED = true ∧ t.get CLF.pg CLF.SLOTCTL_LAST = 1 := by
  refine ⟨(((s.advance dt).put CLF.pg CLF.SWAPAT val.toNat).flag CLF.pg CLF.SLOTCTL_ARMED true).put CLF.pg
    CLF.SLOTCTL_LAST 1, ?_, ?_, ?_, ?_⟩
  · rw [clfSwapatWrite_eq, State.swapAt, State.sfNum_advance, State.clfBank_advance, State.bankValid_advance, State.clfState_advance,
      if_neg (by omega), if_neg (by simp [hvalid]), if_neg (by simp [hst])]
  · rw [State.rd_put_off _ _ (by decide), State.rd_flag_off _ _ (by decide),
      State.rd_put_full _ _ (inPage_clf (by decide)) rfl rfl]
  · rw [State.on, State.get_put_bits _ _ (by decide) (by decide) (by decide)]
    exact State.on_flag_same _ true (inPage_clf (by decide)) rfl (by decide)
  · exact State.get_put_same _ _ (inPage_clf (by decide)) (by decide) (by decide)

theorem State.swapAt_past {s : State} {n : Nat} (h : n ≤ s.sfNum) : s.swapAt n = s.slotRefuse 4 := if_pos h

theorem State.slotRefuse_eq (s : State) (code : Nat) :
    s.slotRefuse code = (s.put CLF.pg CLF.SLOTCTL_LAST code).incSat CLF.pg HDR.ERRCNT_ACCESS := rfl

theorem clfSwapatWrite_past {dt : Nat} {req : Req} {val : W32} {s : State} (hpast : val.toNat ≤ s.sfNum) :
    exec (.clfSwapatWrite dt req val) s =
      .next (((s.advance dt).put CLF.pg CLF.SLOTCTL_LAST 4).incSat CLF.pg HDR.ERRCNT_ACCESS) := by
  rw [← State.sfNum_advance (dt := dt)] at hpast
  rw [clfSwapatWrite_eq, State.swapAt_past hpast, State.slotRefuse_eq]

/-! ### The slot banks (R438, R441) -/

/-- Byte `i` of a word joins the bytes below it. -/
def addByte (v acc i : Nat) : Nat := acc + v / 256 ^ i % 256 * 256 ^ i

theorem bytes_sum {v : Nat} (h : v < 2 ^ 32) :
    v % 256 + v / 256 % 256 * 256 + v / 65536 % 256 * 65536 + v / 16777216 % 256 * 16777216 = v := by omega

theorem addBytes_fold (v : Nat) :
    [0, 1, 2, 3].foldl (addByte v) 0 = addByte v (addByte v (addByte v (addByte v 0 0) 1) 2) 3 := by
  rw [List.foldl_cons, List.foldl_cons, List.foldl_cons, List.foldl_cons, List.foldl_nil]

theorem mergeBytes_fold (old val : Nat) : mergeBytes 15 old val = [0, 1, 2, 3].foldl (addByte val) 0 := by
  refine List.foldl_ext _ (addByte val) 0 fun acc i hi => ?_
  rw [if_pos (by revert i; decide)]
  rfl

/-- A write of all four bytes leaves nothing of the old word. -/
theorem mergeBytes_all (old : Nat) {val : Nat} (h : val < 2 ^ 32) : mergeBytes 15 old val = val := by
  rw [mergeBytes_fold, addBytes_fold]
  simp only [addByte, Nat.pow_zero, Nat.div_one, Nat.mul_one, Nat.zero_add, Nat.pow_one, Nat.reducePow]
  exact bytes_sum h

theorem State.bankNow_lt (s : State) : s.bankNow < 2 := by
  have hlt : s.clfBank < 2 := bits_lt ..
  unfold State.bankNow
  split <;> omega

/-- Word 1 of slot `i` of a bank. -/
def bankWord (i : Nat) : Fld := ⟨16 * i + 4, 31, 0, 0⟩

theorem inPage_bankWord {b i : Nat} (hb : b < 2) (hi : i < 255) : inPage ⟨.bank, b⟩ (bankWord i) = true :=
  Bool.and_eq_true_iff.mpr ⟨decide_eq_true hb, decide_eq_true (show 16 * i + 4 < 0x1000 by omega)⟩

theorem fldAddr_bankWord (b i : Nat) : fldAddr ⟨.bank, b⟩ (bankWord i) = pageBase ⟨.bank, b⟩ + 16 * i + 4 := by
  simp only [fldAddr, bankWord, Nat.add_assoc]

/-- A write of the whole of word 1 of a slot. -/
theorem State.bankWrite_word (s : State) {b i : Nat} (hb : b < 2) (hi : i < 255) (val : W32) :
    s.bankWrite (pageBase ⟨.bank, b⟩ + 16 * i + 4) 15 val.toNat =
      if b = s.bankNow then s.slotRefuse 2
      else if s.on CLF.pg CLF.SLOTCTL_ARMED && s.bankNow == s.clfBank then s.slotRefuse 3
      else s.setWord ⟨.bank, b⟩ (bankWord i) val := by
  have hbase := pageBase_mod ⟨.bank, b⟩
  have halign : (pageBase ⟨.bank, b⟩ + 16 * i + 4) / 4 * 4 = pageBase ⟨.bank, b⟩ + 16 * i + 4 := by omega
  have hoff : pageBase ⟨.bank, b⟩ + 16 * i + 4 - pageBase ⟨.bank, b⟩ = 16 * i + 4 := by omega
  have hmod : (16 * i + 4) % 16 = 4 := by omega
  have hmask : bankMask (16 * i + 4) = 0xFFFFFFFF := by
    rw [bankMask, if_neg (by omega), if_neg (by omega), hmod]
    rfl
  have hfull : val.toNat &&& 0xFFFFFFFF = val.toNat :=
    (Nat.and_two_pow_sub_one_eq_mod val.toNat 32).trans (Nat.mod_eq_of_lt val.isLt)
  unfold State.bankWrite
  rw [← fldAddr_bankWord, pageAt_page (inPage_bankWord hb hi), fldAddr_bankWord]
  simp only [halign, hoff, hmask, mergeBytes_all _ val.isLt, hfull, hmod, BitVec.ofNat_toNat, BitVec.setWidth_eq]
  rw [if_neg (by simp), if_neg (by decide)]
  refine if_congr Iff.rfl rfl (if_congr Iff.rfl rfl (if_neg ?_))
  omega

section Banks

variable {dt k : Nat} {req : Req} {val : W32} {s : State} (i : Fin 255) (hk : k = (s.advance dt).bankNow)

include hk

theorem clfSlotBankWrite_writes (hfree : s.on CLF.pg CLF.SLOTCTL_ARMED = false ∨ k ≠ s.clfBank) :
    ∃ t, exec (.clfSlotBankWrite dt req (pageBase ⟨.bank, 1 - k⟩ + 16 * i + 4) 15 val) s = .next t ∧
      t.slotWord (1 - k) i 1 = val.toNat := by
  have hlt : k < 2 := hk ▸ (s.advance dt).bankNow_lt
  have hb : 1 - k < 2 := by omega
  have hfree' : ¬((s.advance dt).on CLF.pg CLF.SLOTCTL_ARMED && k == (s.advance dt).clfBank) = true := by
    rw [State.on_advance, State.clfBank_advance, Bool.and_eq_true, beq_iff_eq]
    rintro ⟨hon, heq⟩
    exact hfree.elim (fun h => Bool.false_ne_true (h.symm.trans hon)) fun h => h heq
  refine ⟨(s.advance dt).setWord ⟨.bank, 1 - k⟩ (bankWord i) val, ?_, ?_⟩
  · change Host.Outcome.next ((s.advance dt).bankWrite _ 15 val.toNat) = _
    rw [State.bankWrite_word _ hb i.isLt, ← hk, if_neg (by omega), if_neg hfree']
  · rw [State.slotWord]
    have haddr : pageBase ⟨.bank, 1 - k⟩ + 0x10 * i.1 + 4 * 1 = fldAddr ⟨.bank, 1 - k⟩ (bankWord i) :=
      (fldAddr_bankWord ..).symm
    rw [haddr, State.rd_setWord_same _ _ (inPage_bankWord hb i.isLt)]

theorem clfSlotBankWrite_active : exec (.clfSlotBankWrite dt req (pageBase ⟨.bank, k⟩ + 16 * i + 4) 15 val) s =
    .next (((s.advance dt).put CLF.pg CLF.SLOTCTL_LAST 2).incSat CLF.pg HDR.ERRCNT_ACCESS) := by
  have hlt : k < 2 := hk ▸ (s.advance dt).bankNow_lt
  change Host.Outcome.next ((s.advance dt).bankWrite _ 15 val.toNat) = _
  rw [State.bankWrite_word _ hlt i.isLt, if_pos hk, State.slotRefuse_eq]

end Banks

/-! ### Routes (R434) -/

/-- The bits of a route entry. -/
def routeMask : Nat := 0xFF30FF03

theorem bits_routeMask_kind (v : Nat) : bits (v &&& routeMask) 30 28 = bits v 30 28 := by
  refine bits_congr fun j hlo hhi => ?_
  rw [Nat.testBit_and, show Nat.testBit routeMask j = true by interval_cases j <;> decide, Bool.and_true]

theorem bits_routeMask_target (v : Nat) : bits (v &&& routeMask) 21 20 = bits v 21 20 := by
  refine bits_congr fun j hlo hhi => ?_
  rw [Nat.testBit_and, show Nat.testBit routeMask j = true by interval_cases j <;> decide, Bool.and_true]

theorem pageAt_routeAddr (src : Fin 64) (stream : Fin 31) :
    pageAt (routeAddr src stream) = some ⟨.route, 8 * (32 * src.1 + stream.1) / 0x1000⟩ := by
  refine pageAt_of_mem ?_ ?_ ?_
  · exact decide_eq_true (show 8 * (32 * src.1 + stream.1) / 0x1000 < 4 by omega)
  · simp only [pageBase, blockInfo, pageSize, routeAddr]
    omega
  · simp only [pageBase, blockInfo, pageSize, routeAddr]
    omega

section Routes

variable {dt : Nat} {req : Req} {val : W32} {s : State} (src : Fin 64) (stream : Fin 31)
  (hreq : req ∈ ([0, 1, 2, 11] : List Req))

/-- The word of a route entry in its page. -/
def routeWord (src : Fin 64) (stream : Fin 31) : Fld :=
  ⟨routeAddr src stream - pageBase ⟨.route, 8 * (32 * src.1 + stream.1) / 0x1000⟩, 31, 0, 0⟩

theorem fldAddr_routeWord : fldAddr ⟨.route, 8 * (32 * src.1 + stream.1) / 0x1000⟩ (routeWord src stream) =
    routeAddr src stream :=
  Nat.add_sub_cancel' (pageAt_eq_some (pageAt_routeAddr src stream)).2.1

theorem inPage_routeWord : inPage ⟨.route, 8 * (32 * src.1 + stream.1) / 0x1000⟩ (routeWord src stream) = true := by
  obtain ⟨hvalid, hlo, hhi⟩ := pageAt_eq_some (pageAt_routeAddr src stream)
  exact Bool.and_eq_true_iff.mpr ⟨hvalid, decide_eq_true (Nat.sub_lt_left_of_lt_add hlo hhi)⟩

include hreq

/-- A write of a whole route entry by a requester that may write it. -/
theorem State.routeWrite_word (s : State) : s.routeWrite req (routeAddr src stream) 15 val.toNat =
    if bits val.toNat 30 28 = 3 ∨ bits val.toNat 21 20 = 3 then s.refuse CLF.pg
    else s.setWord ⟨.route, 8 * (32 * src.1 + stream.1) / 0x1000⟩ (routeWord src stream)
      (BitVec.ofNat 32 (val.toNat &&& routeMask)) := by
  have halign : routeAddr src stream / 4 * 4 = routeAddr src stream := by
    simp only [routeAddr]
    omega
  have height : ¬ routeAddr src stream % 8 ≠ 0 := by
    simp only [routeAddr]
    omega
  have hplain : ¬ (routeAddr src stream - 0x40084000) / 8 % 32 = 31 := by
    simp only [routeAddr]
    omega
  have hmay : ¬ (req.1 ≠ 0 ∧ req.1 ≠ 1 ∧ req.1 ≠ 2 ∧ req.1 ≠ 11) := by
    simp only [List.mem_cons, List.not_mem_nil, or_false] at hreq
    rcases hreq with rfl | rfl | rfl | rfl <;> decide
  have hkind := bits_routeMask_kind val.toNat
  have htarget := bits_routeMask_target val.toNat
  unfold State.routeWrite
  rw [pageAt_routeAddr]
  simp only [halign, mergeBytes_all _ val.isLt]
  rw [if_neg (by simp), if_neg hmay, if_neg height]
  refine if_congr ?_ rfl rfl
  rw [← hkind, ← htarget]
  constructor
  · rintro (⟨h, -⟩ | ⟨h, -⟩ | h)
    · exact .inl h
    · exact absurd h hplain
    · exact .inr h
  · rintro (h | h)
    · exact .inl ⟨h, hplain⟩
    · exact .inr (.inr h)

theorem clfRouteWrite_writes (hkind : bits val.toNat 30 28 ≠ 3) (htarget : bits val.toNat 21 20 ≠ 3) :
    ∃ t, exec (.clfRouteWrite dt req (routeAddr src stream) 15 val) s = .next t ∧
      t.rd (routeAddr src stream) = val &&& 0xFF30FF03 := by
  refine ⟨_, congrArg Host.Outcome.next ((State.routeWrite_word src stream hreq _).trans (if_neg ?_)), ?_⟩
  · exact fun h => h.elim hkind htarget
  · have hread := (s.advance dt).rd_setWord_same (BitVec.ofNat 32 (val.toNat &&& routeMask)) (inPage_routeWord src stream)
    rw [fldAddr_routeWord] at hread
    refine hread.trans (BitVec.eq_of_toNat_eq ?_)
    rw [BitVec.toNat_ofNat, BitVec.toNat_and]
    exact Nat.mod_eq_of_lt (Nat.lt_of_le_of_lt Nat.and_le_left val.isLt)

theorem clfRouteWrite_peer (hkind : bits val.toNat 30 28 = 3) : exec (.clfRouteWrite dt req (routeAddr src stream) 15 val) s =
    .next ((s.advance dt).incSat CLF.pg HDR.ERRCNT_ACCESS) :=
  congrArg Host.Outcome.next ((State.routeWrite_word src stream hreq _).trans (if_pos (.inl hkind)))

end Routes

/-! ### Read pointers of the receive rings (R400, R435) -/

section Rings

variable {dt : Nat} {req : Req} {val : W32} {s : State} (k : Fin 16)

theorem clfRingRptrWrite_releases
    (hok : rptrOk (2 ^ s.get CLF.pg (CLF.R_CFG_SIZE.ix k)) (2 ^ s.get CLF.pg (CLF.R_CFG_RECSZ.ix k))
      (s.get CLF.pg (CLF.R_RPTR_RPTR.ix k)) (s.get CLF.pg (CLF.RFILL_FILL.ix k)) (val.toNat % 2 ^ 18) = true) :
    ∃ t, exec (.clfRingRptrWrite dt req k val) s = .next t ∧
      t.get CLF.pg (CLF.R_RPTR_RPTR.ix k) = val.toNat % 2 ^ 18 ∧
      t.get CLF.pg (CLF.RFILL_FILL.ix k) = s.get CLF.pg (CLF.RFILL_FILL.ix k) -
        (val.toNat % 2 ^ 18 + 2 ^ s.get CLF.pg (CLF.R_CFG_SIZE.ix k) - s.get CLF.pg (CLF.R_RPTR_RPTR.ix k)) %
          2 ^ s.get CLF.pg (CLF.R_CFG_SIZE.ix k) := by
  have hptr : inPage CLF.pg (CLF.R_RPTR_RPTR.ix k) = true := inPage_clf (by simp only [Fld.ix, CLF.R_RPTR_RPTR]; omega)
  have hfill : inPage CLF.pg (CLF.RFILL_FILL.ix k) = true := inPage_clf (by simp only [Fld.ix, CLF.RFILL_FILL]; omega)
  have hne : (CLF.R_RPTR_RPTR.ix k).off ≠ (CLF.RFILL_FILL.ix k).off := by
    simp only [Fld.ix, CLF.R_RPTR_RPTR, CLF.RFILL_FILL]
    omega
  have hold : s.get CLF.pg (CLF.RFILL_FILL.ix k) < 2 ^ 19 := bits_lt ..
  refine ⟨((s.advance dt).put CLF.pg (CLF.R_RPTR_RPTR.ix k) (val.toNat % 2 ^ 18)).put CLF.pg (CLF.RFILL_FILL.ix k)
    (s.get CLF.pg (CLF.RFILL_FILL.ix k) - (val.toNat % 2 ^ 18 + 2 ^ s.get CLF.pg (CLF.R_CFG_SIZE.ix k) -
      s.get CLF.pg (CLF.R_RPTR_RPTR.ix k)) % 2 ^ s.get CLF.pg (CLF.R_CFG_SIZE.ix k)), ?_, ?_, ?_⟩
  · change Host.Outcome.next ((s.advance dt).ringRptr k val.toNat) = _
    unfold State.ringRptr
    simp only [State.get_advance]
    rw [if_pos hok]
  · rw [State.get_put_off _ _ hne, State.get_put_same _ _ hptr (Nat.zero_le _) (show 17 < 32 by decide)]
    exact Nat.mod_eq_of_lt (Nat.mod_lt _ (by decide))
  · rw [State.get_put_same _ _ hfill (Nat.zero_le _) (show 18 < 32 by decide)]
    exact Nat.mod_eq_of_lt (Nat.lt_of_le_of_lt (Nat.sub_le ..) hold)

theorem clfRingRptrWrite_refused
    (hbad : rptrOk (2 ^ s.get CLF.pg (CLF.R_CFG_SIZE.ix k)) (2 ^ s.get CLF.pg (CLF.R_CFG_RECSZ.ix k))
      (s.get CLF.pg (CLF.R_RPTR_RPTR.ix k)) (s.get CLF.pg (CLF.RFILL_FILL.ix k)) (val.toNat % 2 ^ 18) = false) :
    exec (.clfRingRptrWrite dt req k val) s = .next ((s.advance dt).incSat CLF.pg HDR.ERRCNT_ACCESS) := by
  change Host.Outcome.next ((s.advance dt).ringRptr k val.toNat) = _
  unfold State.ringRptr
  simp only [State.get_advance]
  rw [if_neg (by rw [hbad]; decide)]
  rfl

end Rings

/-- Settles O60: every step of a boundary past the new marks leaves them, and each table takes a write when the guards of its
rule let it through. -/
theorem clepoTablesAndSuperframes : Obligations.ClepoTablesAndSuperframes := by
  unfold Obligations.ClepoTablesAndSuperframes
  refine ⟨fun dt s u => clfSuperframe_starts, fun dt req val s => ⟨clfSwapatWrite_arms, clfSwapatWrite_past, ?_, ?_, ?_⟩⟩
  · exact fun i k hk => ⟨clfSlotBankWrite_writes i hk, clfSlotBankWrite_active i hk⟩
  · exact fun src stream hreq => ⟨clfRouteWrite_writes src stream hreq, clfRouteWrite_peer src stream hreq⟩
  · exact fun k => ⟨clfRingRptrWrite_releases k, clfRingRptrWrite_refused k⟩

end Sys2Proof.Machine
end
